-- ==== Sys2Proof/Word.lean ====
section
/-! DEFINITION. The word types: a byte, a 32-bit register word and the 64-bit cell that holds a register of R5
(a 32-bit register in its low half), and the plainest arithmetic over them. -/

namespace Sys2Proof

/-- A byte. -/
abbrev Byte := BitVec 8

/-- A 32-bit register word (R5). -/
abbrev Word := BitVec 32

/-- The cell of one register: all 64 bits of a 64-bit register, the low 32 of any other (R5). -/
abbrev Cell := BitVec 64

/-- A local address, 32 bits wide (R14). -/
abbrev Addr := BitVec 32

/-- Bit k of a natural number. -/
def bitOf (n k : Nat) : Bool := n.testBit k

/-- 1 for true, 0 for false. -/
def natOf (b : Bool) : Nat := if b then 1 else 0

/-- The two's complement reading of the low w bits of n. -/
def signed (w n : Nat) : Int :=
  if n % 2 ^ w < 2 ^ (w - 1) then (n % 2 ^ w : Nat) else ((n % 2 ^ w : Nat) : Int) - (2 ^ w : Nat)

/-- The low w bits of an integer, as a natural number. -/
def wrapTo (w : Nat) (i : Int) : Nat := (i % (2 ^ w : Nat)).toNat

end Sys2Proof
end

