-- ==== Sys2Proof/Syntax.lean ====
section
/-! DEFINITION. The commands of the block: one constructor of Instr for every row of the opcode table, and the plain
data their operands are made of. A command is an event at the block's pins or links, a step of one of its own engines,
or an access to one of its registers. -/

namespace Sys2Proof

/-- An action on a discrete line or scan: the codes of ACTION in BELL_TRG_CTRL (R129). -/
inductive LineAct | none | set | clear | toggle | pulse | start
  deriving DecidableEq, Repr

/-- A CAN or CAN FD frame as software sees it (R240, R248, R252). -/
structure CanFrame where
  /-- Identifier: 11 bits, or 29 with ide. -/
  id : Nat := 0
  ide : Bool := false
  fd : Bool := false
  brs : Bool := false
  rtr : Bool := false
  esi : Bool := false
  /-- Data length in bytes, and the data. -/
  data : List Byte := []
  /-- The DLC. -/
  dlc : Nat := 0
  deriving DecidableEq, Repr

/-- What ST01 to ST08 meet outside the hub's own registers and flash (R355 to R358, R383). -/
structure StartEnv where
  /-- Rail monitors still out of range when ST01 ends, as the cause word of SYS_SUPPLY numbers them. -/
  rails : Nat := 0
  /-- The D2D link is up. -/
  d2d : Bool := true
  /-- The signature ST03 finds, where it runs. -/
  misr : BitVec 32 := 0
  /-- The OTP fuses can be read at ST04. -/
  fuses : Bool := true
  /-- The flash answers correctly in 8D-8D-8D. -/
  octal : Bool := true
  /-- The march test of ST07 passes. -/
  march : Bool := true
  /-- Bit k - 1: attempt k of ST06 reads an image that is sound with an error; bit a: ST08 reads Last area a so. -/
  fwBad : Nat := 0
  lastBad : Nat := 0
  /-- T_END of ST01 to ST08 in µs. -/
  times : List Nat := []
  deriving DecidableEq, Repr

/-- What ST11 to ST14 meet outside the hub's own registers (R87, R236, R244, R292). -/
structure JoinEnv where
  /-- Channels whose I2C bus cannot be recovered at ST12. -/
  chnBad : List Nat := []
  /-- CAN controllers whose loopback frame does not return unchanged. -/
  canBad : List Nat := []
  /-- Branches whose gate does not read below threshold with the sink on. -/
  gateBad : List Nat := []
  /-- The CTS level of each UART channel, where it is not asserted. -/
  ctsOff : List Nat := []
  /-- T_END of ST11 to ST14 in µs. -/
  times : List Nat := []
  deriving DecidableEq, Repr


/-- The commands of the block: one constructor per row of the opcode table, in the table's order, with its rule. -/
inductive Instr

  /-- POWER_ON_RESET (R400). Operands: whether VDD_AON has been below its POR threshold too. -/
  | powerOnReset (aonLost : Bool)
  /-- SYS_RST_N (R20). Operands: the width of the low pulse in ns. -/
  | sysRstN (lowNs : Nat)
  /-- REFCLK_FAILURE (R18). -/
  | refclkFailure
  /-- REFCLK_RECOVERY (R18). -/
  | refclkRecovery
  /-- HUB_DOMAIN_RELEASE (R421). -/
  | hubDomainRelease
  /-- D2D_LINK_FRAME (R11). Operands: whether the frame passes its CRC; whether it goes to the BPD. -/
  | d2dLinkFrame (crcOk : Bool) (toBpd : Bool)
  /-- D2D_LINK_LOST (R12). Operands: which sides declare the loss, the hub die and the BPD; true: the retransmissions
  are exhausted, false: 20 µs without a valid frame. -/
  | d2dLinkLost (hub : Bool) (bpd : Bool) (exhausted : Bool)
  /-- WATCHDOG_FIRST_EXPIRY (R26). Operands: bit p: core pair p. -/
  | watchdogFirstExpiry (pairs : Nat)
  /-- WATCHDOG_SECOND_EXPIRY (R26). -/
  | watchdogSecondExpiry
  /-- TICK_BOUNDARY (R140). -/
  | tickBoundary
  /-- P2_EVALUATE (R140). Operands: the late bits of input word 3 for branch status, channel and CAN points. -/
  | p2Evaluate (late : Nat)
  /-- P3_COMMIT (R158). -/
  | p3Commit
  /-- P4_LAUNCH (R158). -/
  | p4Launch
  /-- NOP (R149). Operands: the lane, the cycles it waits for copy commits. -/
  | ruleNop (lane : Nat) (stall : Nat)
  /-- BOOL (R149). Operands: the lane, the cycles it waits for copy commits. -/
  | ruleBool (lane : Nat) (stall : Nat)
  /-- CMP (R149). Operands: the lane, the cycles it waits for copy commits. -/
  | ruleCmp (lane : Nat) (stall : Nat)
  /-- ARITH (R150). Operands: the lane, the cycles it waits for copy commits. -/
  | ruleArith (lane : Nat) (stall : Nat)
  /-- SCALE (R150). Operands: the lane, the cycles it waits for copy commits. -/
  | ruleScale (lane : Nat) (stall : Nat)
  /-- SEL (R149). Operands: the lane, the cycles it waits for copy commits. -/
  | ruleSel (lane : Nat) (stall : Nat)
  /-- EDGE (R149). Operands: the lane, the cycles it waits for copy commits. -/
  | ruleEdge (lane : Nat) (stall : Nat)
  /-- LATCH (R149). Operands: the lane, the cycles it waits for copy commits. -/
  | ruleLatch (lane : Nat) (stall : Nat)
  /-- TON (R152). Operands: the lane, the cycles it waits for copy commits. -/
  | ruleTon (lane : Nat) (stall : Nat)
  /-- TOF (R152). Operands: the lane, the cycles it waits for copy commits. -/
  | ruleTof (lane : Nat) (stall : Nat)
  /-- CNT (R153). Operands: the lane, the cycles it waits for copy commits. -/
  | ruleCnt (lane : Nat) (stall : Nat)
  /-- ZONE (R154). Operands: the lane, the cycles it waits for copy commits. -/
  | ruleZone (lane : Nat) (stall : Nat)
  /-- SNAP (R155). Operands: the lane, the cycles it waits for copy commits. -/
  | ruleSnap (lane : Nat) (stall : Nat)
  /-- BARRIER (R156). Operands: the lane, the cycles it waits for copy commits. -/
  | ruleBarrier (lane : Nat) (stall : Nat)
  /-- MAILBOX_WRITE (R160). Operands: the initiator, the local address in the storage of the Treadle, the word. -/
  | mailboxWrite (ini : Nat) (addr : Nat) (v : Nat)
  /-- LEDGER_AGING (R100). -/
  | ledgerAging
  /-- ALIAS_WRITE (R106). Operands: the writer (0 Treadle, 1 firmware, 2 management), the index, the offset in its
  buffer, the bytes. -/
  | aliasWrite (ini : Nat) (i : Nat) (off : Nat) (bs : List Byte)
  /-- TRAIN_FRAME_PASS (R70). Operands: CLK_CORE cycles since the event before, 1/32 cycles from there to the first
  bit, the residence in 1/32 cycles, the receiving port, the frame. -/
  | trainFramePass (dt : Nat) (sub : Nat) (res : Nat) (p : Nat) (f : List Byte)
  /-- TRAIN_FIFO_STOMP (R77). Operands: the port and the train. -/
  | trainFifoStomp (p : Nat) (t : Nat)
  /-- LAP_LAUNCH (R66). -/
  | lapLaunch
  /-- HEAD_START_LAUNCH (R88). Operands: the ring (0 A, 1 B). -/
  | headStartLaunch (r : Nat)
  /-- TRACK_RETURN (R78). Operands: the port. -/
  | trackReturn (p : Nat)
  /-- TRAIN_BROKEN (R80). Operands: the train. -/
  | trainBroken (t : Nat)
  /-- TRAIN_OVERDUE (R80). Operands: the train. -/
  | trainOverdue (t : Nat)
  /-- REPAIR_LAUNCH (R81). Operands: the train. -/
  | repairLaunch (t : Nat)
  /-- ROLE_COMMAND (R83). Operands: NEW_HEAD, RING_A, RING_B. -/
  | roleCommand (newHead : Nat) (ringA : Bool) (ringB : Bool)
  /-- HANDOVER_LAP (R83). -/
  | handoverLap
  /-- TRN_LAP_MISS (R84). -/
  | trnLapMiss
  /-- SW_LAP_WRITE (R85). Operands: LAP and ARM. -/
  | swLapWrite (lap : Nat) (arm : Bool)
  /-- SCHEDULE_SWITCH (R85). -/
  | scheduleSwitch
  /-- VER_SWITCH (R85). -/
  | verSwitch
  /-- LAYOUT_DATA_ACCESS (R69). Operands: the word written, or none for a read. -/
  | layoutDataAccess (w : Option Nat)
  /-- TXDIS_FORCE (R36). Operands: the port, ENABLE and TXDIS_FORCE as written. -/
  | txdisForce (p : Nat) (enable : Bool) (force : Bool)
  /-- PMA_SIGNAL_DETECT (R36). Operands: the port. -/
  | pmaSignalDetect (p : Nat)
  /-- SYNC_HOLD_EXPIRY (R36). Operands: the port. -/
  | syncHoldExpiry (p : Nat)
  /-- SIGNAL_DETECT_LOST (R36). Operands: the port. -/
  | signalDetectLost (p : Nat)
  /-- LOSS_OF_SIGNAL (R40). Operands: the port; 0 signal lost, 1 lock lost, 2 local fault. -/
  | lossOfSignal (p : Nat) (kind : Nat)
  /-- REMOTE_FAULT (R40). Operands: the port; whether remote fault is now received. -/
  | remoteFault (p : Nat) (on : Bool)
  /-- HI_BER (R42). Operands: the port; asserted or released. -/
  | hiBer (p : Nat) (on : Bool)
  /-- MOD_CHG (R35). Operands: the port; the filtered levels of its SFP pins MODABS, LOS and TXFLT. -/
  | modChg (p : Nat) (absent : Bool) (los : Bool) (txflt : Bool)
  /-- SFP_MGMT_GO (R35). Operands: the port and the fields of WELT_SFP_MGMT. -/
  | sfpMgmtGo (p : Nat) (data : Nat) (offset : Nat) (devsel : Bool) (write : Bool)
  /-- SFP_MGMT_DONE (R35). Operands: the port, whether the module acknowledged, the byte read. -/
  | sfpMgmtDone (p : Nat) (ack : Bool) (data : Nat)
  /-- BYPASS_REQ (R53). -/
  | bypassReq
  /-- UNWRAP_REQUEST (R48). Operands: the port. -/
  | unwrapRequest (p : Nat)
  /-- UNWRAP_RESEND (R48). Operands: the port. -/
  | unwrapResend (p : Nat)
  /-- UNWRAP_ACK (R48). Operands: the port; 3 a request, 4 an acknowledgement; its lap. -/
  | unwrapAck (p : Nat) (kind : Nat) (lap : Nat)
  /-- UNWRAP (R49). Operands: the port. -/
  | unwrap (p : Nat)
  /-- LINK_DELAY_START (R50). Operands: the port. -/
  | linkDelayStart (p : Nat)
  /-- DELAY_REQUEST (R51). Operands: CLK_CORE cycles since the event before, the port, SEQ, the turn-round time in
  ns × 2^16. -/
  | delayRequest (dt : Nat) (p : Nat) (seq : Nat) (turn : Nat)
  /-- DELAY_RESPONSE (R52). Operands: CLK_CORE cycles since the event before and 1/32 cycles more, the port, SEQ,
  TURN in ns × 2^16. -/
  | delayResponse (dt : Nat) (sub : Nat) (p : Nat) (seq : Nat) (turn : Nat)
  /-- DELAY_NO_RESPONSE (R52). Operands: the port. -/
  | delayNoResponse (p : Nat)
  /-- BRINGUP_TIMEOUT (R37). Operands: the link of each spur that comes up (its bits of SPR_STAT), and T_END in µs.
  -/
  | bringupTimeout (spurs : List (Nat × Nat)) (tUs : Nat)
  /-- RINGUP_RETRY (R39). Operands: the link of each spur that comes up (its bits of SPR_STAT), and T_END in µs. -/
  | ringupRetry (spurs : List (Nat × Nat)) (tUs : Nat)
  /-- FAULT_NOTICE_REFRESH (R190). Operands: the port. -/
  | faultNoticeRefresh (p : Nat)
  /-- FOLLOWER_LAP_MEDIAN (R122). -/
  | followerLapMedian
  /-- HOLDOVER_TIMEOUT (R124). -/
  | holdoverTimeout
  /-- BELL_EXT_OFS (R123). Operands: OFS in 1/16 ns. -/
  | bellExtOfs (ofs : Int)
  /-- BELL_STEP (R118). Operands: the signed step in ns. -/
  | bellStep (ns : Int)
  /-- PPS_IN_EDGE (R133). Operands: CLK_CORE cycles since the event before. -/
  | ppsInEdge (dt : Nat)
  /-- PPSIN_MISS (R133). -/
  | ppsinMiss
  /-- CAPTURE_EDGE (R127). Operands: CLK_CORE cycles since the event before, the unit, whether the edge rises. -/
  | captureEdge (dt : Nat) (n : Nat) (rise : Bool)
  /-- CAPTURE_POP (R127). Operands: the unit. -/
  | capturePop (n : Nat)
  /-- TRIGGER_ARM (R128). Operands: the writer (0 firmware, 1 Drover, 2 Treadle), the unit, T. -/
  | triggerArm (owner : Nat) (n : Nat) (t : Nat)
  /-- TRIGGER_FIRE (R129). Operands: the unit. -/
  | triggerFire (n : Nat)
  /-- PULSE_END (R129). Operands: the unit. -/
  | pulseEnd (n : Nat)
  /-- TRIGGER_DISARM (R129). Operands: the writer (0 firmware, 1 Drover, 2 Treadle), the unit. -/
  | triggerDisarm (owner : Nat) (n : Nat)
  /-- PPS_OUT_PULSE (R132). -/
  | ppsOutPulse
  /-- PPS_OUT_END (R132). -/
  | ppsOutEnd
  /-- WIDE_LOW_READ (R5). Operands: the initiator (0, 1 core pairs, 2 management target) and the local address of
  the low word. -/
  | wideLowRead (ini : Nat) (addr : Nat)
  /-- WIDE_LOW_WRITE (R5). Operands: the initiator, the local address of the low word, and the word. -/
  | wideLowWrite (ini : Nat) (addr : Nat) (v : Nat)
  /-- SENSOR_EDGE (R169). Operands: CLK_CORE cycles since the event before, the sensor. -/
  | sensorEdge (dt : Nat) (sn : Nat)
  /-- WINDOW_MISSING (R170). Operands: the record. -/
  | windowMissing (i : Nat)
  /-- RECORD_FREE (R166). Operands: the record. -/
  | recordFree (i : Nat)
  /-- HANDOFF_IN (R176). Operands: the in channel. -/
  | handoffIn (ch : Nat)
  /-- DEST_CMD (R178). Operands: the initiator, OBJ_ID, DEST, KEEP. -/
  | destCmd (ini : Nat) (obj : Nat) (dest : Nat) (keep : Bool)
  /-- MESSAGE_FRAME_RECEIVE (R187). Operands: CLK_CORE cycles since the event before, the ring port, the frame,
  whether it arrived error-terminated. -/
  | messageFrameReceive (dt : Nat) (p : Nat) (f : List Byte) (errTerm : Bool)
  /-- FRAME_INSERT (R186). Operands: the local port code (3 LP, 4 CORE), the first 20 header bytes, the payload. -/
  | frameInsert (sport : Nat) (h : List Byte) (payload : List Byte)
  /-- FAULT_NOTICE (R191). Operands: its payload. -/
  | faultNotice (x : List Byte)
  /-- BROKEN_LINK_TIMEOUT (R191). Operands: the entry of XB_FLT. -/
  | brokenLinkTimeout (n : Nat)
  /-- EGRESS_FRAME_START (R196). Operands: the crossbar port. -/
  | egressFrameStart (w : Nat)
  /-- OVERLOAD_INTERVAL (R203). -/
  | overloadInterval
  /-- SPUR_FRAME_RECEIVE (R207). Operands: CLK_CORE cycles since the event before, the spur, the frame with its FCS.
  -/
  | spurFrameReceive (dt : Nat) (sp : Nat) (f : List Byte)
  /-- PAUSE_RECEIVED (R206). Operands: the spur and the pause time. -/
  | pauseReceived (sp : Nat) (t : Nat)
  /-- PAUSE_EXPIRY (R206). Operands: the spur. -/
  | pauseExpiry (sp : Nat)
  /-- PAUSE_REPEAT (R206). Operands: the spur. -/
  | pauseRepeat (sp : Nat)
  /-- MDIO_GO (R205). Operands: OP, PHY, REG and DATA. -/
  | mdioGo (op : Nat) (phy : Nat) (reg : Nat) (data : Nat)
  /-- MDIO_DONE (R205). Operands: the word the PHY returns. -/
  | mdioDone (data : Nat)
  /-- TRANSFER_START (R225). Operands: CLK_CORE cycles since the event before, the channel, SDA of an I2C channel (0
  high, 1 low and recovered, 2 stuck low). -/
  | transferStart (dt : Nat) (n : Nat) (sda : Nat)
  /-- ATTEMPT_END (R226). Operands: CLK_CORE cycles since the event before, the channel, the bytes received, whether
  a line error ends or falls in the transfer. -/
  | attemptEnd (dt : Nat) (n : Nat) (resp : List Byte) (line : Bool)
  /-- TRANSACTION_TIMEOUT (R226). Operands: CLK_CORE cycles since the event before, the channel. -/
  | transactionTimeout (dt : Nat) (n : Nat)
  /-- CLOCK_STRETCH_TIMEOUT (R218). Operands: CLK_CORE cycles since the event before, the channel. -/
  | clockStretchTimeout (dt : Nat) (n : Nat)
  /-- SSI_DATA_TIMEOUT (R219). Operands: CLK_CORE cycles since the event before, the channel. -/
  | ssiDataTimeout (dt : Nat) (n : Nat)
  /-- CHN_TXPUSH (R221). Operands: the initiator (0, 1 core pairs, 2 management target, 3 Local Port), the channel,
  LEN. -/
  | chnTxpush (ini : Nat) (n : Nat) (len : Nat)
  /-- RX_FRAME_END (R222). Operands: CLK_CORE cycles since the event before, the channel, the characters received
  since the last one: ns from its start bit to now, and its bits 7 to 0 with the ninth bit in bit 8 and a line error in
  bit 9. -/
  | rxFrameEnd (dt : Nat) (n : Nat) (chars : List (Nat × Nat))
  /-- CHN_POP_RX (R223). Operands: the initiator and the channel. -/
  | chnPopRx (ini : Nat) (n : Nat)
  /-- CHN_FLUSH_TX (R237). Operands: the channel. -/
  | chnFlushTx (n : Nat)
  /-- CHN_FLUSH_RX (R237). Operands: the channel. -/
  | chnFlushRx (n : Nat)
  /-- CHN_ENABLE (R236). Operands: the channel. -/
  | chnEnable (n : Nat)
  /-- CHN_DISABLE (R236). Operands: the channel. -/
  | chnDisable (n : Nat)
  /-- CHN_STOPPING_END (R237). Operands: CLK_CORE cycles since the event before, the channel, whether 2 ms have passed
  without a boundary. -/
  | chnStoppingEnd (dt : Nat) (n : Nat) (late : Bool)
  /-- PM_DATA_ACCESS (R228). Operands: the initiator; the word written, or none for a read. -/
  | pmDataAccess (ini : Nat) (w : Option Nat)
  /-- CAN_ENABLE (R244). Operands: the controller. -/
  | canEnable (k : Nat)
  /-- CAN_DISABLE (R244). Operands: the controller. -/
  | canDisable (k : Nat)
  /-- CAN_RECOVER (R244). Operands: the controller. -/
  | canRecover (k : Nat)
  /-- CAN_POP_RX (R252). Operands: the initiator and the controller. -/
  | canPopRx (ini : Nat) (k : Nat)
  /-- CAN_FLUSH_RX (R252). Operands: the controller. -/
  | canFlushRx (k : Nat)
  /-- DWELL_EXPIRY (R246). Operands: the controller. -/
  | dwellExpiry (k : Nat)
  /-- DET_SLOW (R247). Operands: the controller. -/
  | detSlow (k : Nat)
  /-- INTEGRATE_DONE (R244). Operands: the controller. -/
  | integrateDone (k : Nat)
  /-- CAN_FRAME_RECEIVED (R251). Operands: CLK_CORE cycles since the event before, the controller, ns from the SOF
  edge to the end, the frame. -/
  | canFrameReceived (dt : Nat) (k : Nat) (back : Nat) (f : CanFrame)
  /-- RXM_AGING (R256). -/
  | rxmAging
  /-- TXB_REQ (R248). Operands: the controller, the buffer, whether another node's frame is on the bus. -/
  | txbReq (k : Nat) (b : Nat) (busy : Bool)
  /-- TXB_CANCEL (R249). Operands: the controller and the buffer. -/
  | txbCancel (k : Nat) (b : Nat)
  /-- CAN_TX_DONE (R249). Operands: the controller, and the transmitter delay in CLK_CAN cycles as measured in an FD
  frame with BRS (R243). -/
  | canTxDone (k : Nat) (delay : Nat)
  /-- ARBITRATION_LOST (R248). Operands: the controller. -/
  | arbitrationLost (k : Nat)
  /-- CAN_PROTOCOL_ERROR (R253). Operands: the controller, the kind as LEC encodes it, the phase, and by how much
  ISO 11898-1 raises TEC (as transmitter) or REC. -/
  | canProtocolError (k : Nat) (kind : Nat) (dataPhase : Bool) (amount : Nat)
  /-- RECOVERY_DONE (R244). Operands: the controller. -/
  | recoveryDone (k : Nat)
  /-- CAN_STOPPING_END (R245). Operands: the controller. -/
  | canStoppingEnd (k : Nat)
  /-- DIO_EDGE (R260). Operands: CLK_CORE cycles since the event before; the lines whose raw level changes in this cycle,
  with their new levels (none where a filter time ends). -/
  | dioEdge (dt : Nat) (edges : List (Nat × Bool))
  /-- TS_POP (R261). Operands: the discrete line. -/
  | tsPop (n : Nat)
  /-- QUEUE_ACTION_FIRE (R271). Operands: the discrete line. -/
  | queueActionFire (n : Nat)
  /-- QUEUE_PULSE_END (R271). Operands: the discrete line. -/
  | queuePulseEnd (n : Nat)
  /-- PWM_PERIOD (R268). Operands: the discrete line. -/
  | pwmPeriod (n : Nat)
  /-- PULSE_TRAIN_PULSE (R269). Operands: the discrete line. -/
  | pulseTrainPulse (n : Nat)
  /-- READBACK_FAULT (R274). Operands: the discrete line. -/
  | readbackFault (n : Nat)
  /-- RB_CLR (R274). Operands: the discrete line. -/
  | rbClr (n : Nat)
  /-- Q_FLUSH (R272). Operands: the discrete line. -/
  | qFlush (n : Nat)
  /-- ADC_CONVERSION (R275). Operands: CLK_CORE cycles to the sample instant, the ADC, the slot of the frame, the
  code. -/
  | adcConversion (dt : Nat) (a : Nat) (slot : Nat) (code : Nat)
  /-- ADC_AVERAGE_RETURN (R276). -/
  | adcAverageReturn
  /-- TSCAN_DONE (R277). Operands: the ADC; the code of each input of the mask. -/
  | tscanDone (a : Nat) (codes : List (Nat × Nat))
  /-- ADC_CALIBRATION (R278). Operands: the ADC, the offset and gain formed, and the mean zero-current code of each
  branch that has been idle for 100 ms. -/
  | adcCalibration (a : Nat) (offset : Int) (gain : Nat) (zero : List (Nat × Int))
  /-- BRANCH_ENABLE_CHANGE (R282). Operands: the branch. -/
  | branchEnableChange (n : Nat)
  /-- INSERTION_TIMER (R283). Operands: the branch. -/
  | insertionTimer (n : Nat)
  /-- RAMP_COMPLETE (R283). Operands: the branch. -/
  | rampComplete (n : Nat)
  /-- START_TIMEOUT (R283). Operands: the branch; whether the RAMP-to-ON condition holds in the same cycle. -/
  | startTimeout (n : Nat) (done : Bool)
  /-- FAST_TRIP (R281). Operands: the branch; whether E falls, and whether the bus leaves its window, in the same
  cycle. -/
  | fastTrip (n : Nat) (eFall : Bool) (busOut : Bool)
  /-- LIMIT_ENTRY (R287). Operands: the branch. -/
  | limitEntry (n : Nat)
  /-- FAULT_TIMER_EXPIRY (R285). Operands: the branch; whether a fast trip, a fall of E and the bus leaving its
  window fall in the same cycle. -/
  | faultTimerExpiry (n : Nat) (fast : Bool) (eFall : Bool) (busOut : Bool)
  /-- THERMAL_UPDATE (R289). Operands: the branch, V_BUS and V_OUT in mV, I in mA, T_A in 1/65536 °C. -/
  | thermalUpdate (n : Nat) (vBus : Int) (vOut : Int) (i : Int) (ta : Int)
  /-- RETRY_WAIT_EXPIRY (R283). Operands: the branch. -/
  | retryWaitExpiry (n : Nat)
  /-- SOFT_OFF_END (R283). Operands: the branch. -/
  | softOffEnd (n : Nat)
  /-- DISCHARGE_COMPLETE (R283). Operands: the branch; whether E rises in the same cycle. -/
  | dischargeComplete (n : Nat) (eRise : Bool)
  /-- DISCHARGE_TIMEOUT (R283). Operands: the branch. -/
  | dischargeTimeout (n : Nat)
  /-- T_REON_EXPIRY (R283). Operands: the branch. -/
  | tReonExpiry (n : Nat)
  /-- BUS_WINDOW_CHANGE (R283). Operands: the branch; whether the bus is now in its window. -/
  | busWindowChange (n : Nat) (ok : Bool)
  /-- PG_QUALIFIED (R288). Operands: the branch; whether the limit comparator becomes active in the same cycle. -/
  | pgQualified (n : Nat) (limit : Bool)
  /-- PG_HOLD_1S (R284). Operands: the branch. -/
  | pgHold1s (n : Nat)
  /-- CHARGE_PUMP_LOW (R290). -/
  | chargePumpLow
  /-- BRANCH_MEASUREMENT (R293). Operands: the branch, the three codes, and the limit comparator since the
  measurement before: runs of its level in 10 ns cycles. -/
  | branchMeasurement (n : Nat) (vBus : Nat) (vOut : Nat) (i : Nat) (runs : List (Bool × Nat))
  /-- BRN_ON (R282). Operands: the branch. -/
  | brnOn (n : Nat)
  /-- BRN_OFF (R282). Operands: the branch. -/
  | brnOff (n : Nat)
  /-- BRN_CLEAR (R283). Operands: the branch. -/
  | brnClear (n : Nat)
  /-- ASY_FEED_B (R300). Operands: the initiator and the word written. -/
  | asyFeedB (ini : Nat) (v : Nat)
  /-- ASY_FEED_H (R300). Operands: the initiator and the word written. -/
  | asyFeedH (ini : Nat) (v : Nat)
  /-- ASY_FEED_W (R300). Operands: the initiator and the word written. -/
  | asyFeedW (ini : Nat) (v : Nat)
  /-- ASY_START (R302). Operands: the initiator and the context. -/
  | asyStart (ini : Nat) (ctx : Nat)
  /-- ASY_RETEST (R308). Operands: the unit and the result. -/
  | asyRetest (u : Nat) (ok : Bool)
  /-- ASY_VAL_WRITE (R303). Operands: the initiator, the context, the value. -/
  | asyValWrite (ini : Nat) (ctx : Nat) (v : Nat)
  /-- SELF_CHECK (R307). Operands: the result; whether the unit yields to a feed. -/
  | selfCheck (ok : Bool) (yielded : Bool)
  /-- SELF_CHECK_RETRY (R307). Operands: the result; whether the unit yields to a feed. -/
  | selfCheckRetry (ok : Bool) (yielded : Bool)
  /-- MGMT_READ (R313). Operands: the requesting hub, its local port, TAG, OP (1, or a reserved code), FLAGS, ADDR,
  COUNT, TMO, ORIG_T of the header, and the word of its block that a prefetch demands. -/
  | mgmtRead (src : Nat) (sport : Nat) (tag : Nat) (op : Nat) (flags : Nat) (addr : Nat) (count : Nat) (tmo : Nat) (origT : Nat) (demand : Nat)
  /-- MGMT_WRITE (R313). Operands: the requesting hub, its local port, TAG, FLAGS, ADDR, COUNT, TMO, ORIG_T of the
  header, DATA. -/
  | mgmtWrite (src : Nat) (sport : Nat) (tag : Nat) (flags : Nat) (addr : Nat) (count : Nat) (tmo : Nat) (origT : Nat) (data : List Nat)
  /-- MGMT_RMW (R315). Operands: the requesting hub, its local port, TAG, FLAGS, ADDR, COUNT, TMO, ORIG_T of the
  header, MASK, DATA. -/
  | mgmtRmw (src : Nat) (sport : Nat) (tag : Nat) (flags : Nat) (addr : Nat) (count : Nat) (tmo : Nat) (origT : Nat) (mask : Nat) (data : Nat)
  /-- MGMT_BWR (R311). Operands: the requesting hub, TAG, FLAGS, ADDR, COUNT, TMO, ORIG_T of the header, DATA. -/
  | mgmtBwr (src : Nat) (tag : Nat) (flags : Nat) (addr : Nat) (count : Nat) (tmo : Nat) (origT : Nat) (data : List Nat)
  /-- REQUEST_EXPIRED (R312). Operands: the number of the waiting request, or none for one that has not reached the
  table. -/
  | requestExpired (k : Option Nat)
  /-- RETRY_MARGIN (R322). Operands: CLK_CORE cycles since the event before. -/
  | retryMargin (dt : Nat)
  /-- OUTBOUND_READ (R316). Operands: the initiator (0, 1 core pairs, 3 Local Port), the local address, the words.
  -/
  | outboundRead (ini : Nat) (addr : Nat) (count : Nat)
  /-- OUTBOUND_WRITE (R316). Operands: the initiator (0, 1 core pairs, 3 Local Port), the local address, the words
  written. -/
  | outboundWrite (ini : Nat) (addr : Nat) (data : List Nat)
  /-- MGMT_RSP (R317). Operands: the responding hub, TAG, OP, STATUS, INFO, DATA. -/
  | mgmtRsp (hub : Nat) (tag : Nat) (op : Nat) (st : Nat) (info : Nat) (data : List Nat)
  /-- OUTBOUND_TIMEOUT (R317). Operands: the tag of the transaction. -/
  | outboundTimeout (tag : Nat)
  /-- PREFETCH_DISCARD (R319). Operands: the initiator whose buffer it is. -/
  | prefetchDiscard (ini : Nat)
  /-- LP_MREQ (R323). Operands: the new level of LP_MREQ. -/
  | lpMreq (level : Bool)
  /-- LP_HREQ_ASSERT (R323). -/
  | lpHreqAssert
  /-- LP_READ (R325). Operands: ADDR and the number of words. -/
  | lpRead (addr : Nat) (count : Nat)
  /-- LP_WRITE (R325). Operands: ADDR and the words. -/
  | lpWrite (addr : Nat) (data : List Nat)
  /-- LP_RMW (R325). Operands: ADDR, MASK, DATA. -/
  | lpRmw (addr : Nat) (mask : Nat) (data : Nat)
  /-- SERVICE (R325). -/
  | lpService
  /-- COMPLETE (R325). Operands: TAG, status, read data. -/
  | lpComplete (tag : Nat) (st : Nat) (data : List Nat)
  /-- RXF_RD (R324). -/
  | lpRxfRd
  /-- TXF_WR (R324). Operands: the 20 header bytes without HCRC, and the payload. -/
  | lpTxfWr (h : List Byte) (payload : List Byte)
  /-- STAT (R324). -/
  | lpStat
  /-- SVC_TMO (R325). -/
  | lpSvcTmo
  /-- PROTO_ERR (R324). Operands: whether the transaction abandoned is a SERVICE or a COMPLETE. -/
  | lpProtoErr (exchange : Bool)
  /-- FAULT_RAISE (R328). Operands: source and cause word of every raise of one CLK_PER cycle; the junction sensors
  that have passed 115 °C and not yet gone below 110 °C, and the rails out of range, as the cause words number them;
  whether VDD_BPD has fallen below its POR threshold. -/
  | faultRaise (raises : List (Nat × Nat)) (temp : Nat) (rails : Nat) (bpd : Bool)
  /-- TNK_ACK_WRITE (R334). Operands: the word of TNK_ACK, the bits written 1, the raises of the same cycle. -/
  | tnkAckWrite (k : Nat) (mask : Nat) (same : List (Nat × Nat))
  /-- TNK_STAT_CLEAR (R341). Operands: the word of TNK_STAT, the bits written 1, the raises of the same cycle. -/
  | tnkStatClear (k : Nat) (mask : Nat) (same : List (Nat × Nat))
  /-- RESUME (R337). -/
  | resume
  /-- FF_REARM (R340). Operands: the raises of the same cycle. -/
  | ffRearm (same : List (Nat × Nat))
  /-- FLT_RELEASE (R343). Operands: the raises of the same cycle. -/
  | fltRelease (same : List (Nat × Nat))
  /-- FLT_AUTO_RELEASE (R345). -/
  | fltAutoRelease
  /-- FLT_READBACK (R344). Operands: the levels read back on FLT_T and FLT_C. -/
  | fltReadback (t : Bool) (c : Bool)
  /-- DUMP_END (R346). Operands: sections complete when the dump ends, and bytes of the next one written. -/
  | dumpEnd (sections : Nat) (partBytes : Nat)
  /-- STOCKTAKE_ERASE (R347). Operands: the Stocktake half. -/
  | stocktakeErase (half : Nat)
  /-- ST01_SUPPLY (R355). Operands: what the start meets outside the hub's own state. -/
  | st01Supply (env : StartEnv)
  /-- ST09_RINGUP (R37). Operands: the outcome of the near-end loopback of each port tested, the link of each spur
  that comes up (its bits of SPR_STAT), and T_END in µs. -/
  | st09Ringup (lbk : List (Nat × Bool)) (spurs : List (Nat × Nat)) (tUs : Nat)
  /-- ST10_TIME (R137). Operands: whether the 5 s limit ended the step, and T_END in µs. -/
  | st10Time (limit : Bool) (tUs : Nat)
  /-- ST11_JOIN (R87). Operands: what ST11 to ST14 meet outside the hub's own state. -/
  | st11Join (env : JoinEnv)
  /-- SHUTDOWN (R361). Operands: the initiator and END. -/
  | shutdown (ini : Nat) (endBit : Bool)
  /-- QUIESCE_END (R361). -/
  | quiesceEnd
  /-- LBIST_END (R362). Operands: the signature. -/
  | lbistEnd (misr : BitVec 32)
  /-- SHUTDOWN_RECORD (R361). Operands: T_LBIST in µs. -/
  | shutdownRecord (tUs : Nat)
  /-- HOLD_S_EXPIRY (R364). -/
  | holdSExpiry
  /-- PFW_N_FALL (R365). -/
  | pfwNFall
  /-- PFW_N_RISE (R412). -/
  | pfwNRise
  /-- LC_FIELD (R366). Operands: the initiator. -/
  | lcField (ini : Nat)
  /-- LC_RETURN (R368). Operands: the initiator. -/
  | lcReturn (ini : Nat)
  /-- NEW_NONCE (R368). Operands: the initiator. -/
  | newNonce (ini : Nat)
  /-- JTAG_IDCODE (R367). -/
  | jtagIdcode
  /-- JTAG_BYPASS (R367). -/
  | jtagBypass
  /-- JTAG_SAMPLE_PRELOAD (R367). -/
  | jtagSamplePreload
  /-- JTAG_EXTEST (R367). Operands: whether SYS_RST_N is low. -/
  | jtagExtest (rstLow : Bool)
  /-- SCRUB (R369). Operands: the memory code, the word, its errors (0 none, 1 corrected, 2 uncorrectable), whether
  a functional write of the word falls in the same cycle, and the duration in ms where the word ends a pass. -/
  | scrub (memc : Nat) (word : Nat) (bad : Nat) (collide : Bool) (pass : Option Nat)
  /-- TELEMETRY_WRITE (R371). Operands: hub-die and BPD temperature in 1/16 °C, VBUS_SNS in mV. -/
  | telemetryWrite (tHub : Int) (tBpd : Int) (vbus : Nat)
  /-- COBBLER_BLOCK_ERASE (R370). Operands: the 64 KiB block, from NOR offset 0x0190_0000. -/
  | cobblerBlockErase (blk : Nat)
  /-- NVM_PROGRAM (R395). Operands: the initiator. -/
  | nvmProgram (ini : Nat)
  /-- NVM_ERASE (R395). Operands: the initiator. -/
  | nvmErase (ini : Nat)
  /-- NVM_DONE (R389). Operands: whether the flash reports success. -/
  | nvmDone (ok : Bool)
  /-- OPEN (R374). Operands: SESSION, KIND, SIZE and FORMAT. -/
  | rslOpen (session : Nat) (kind : Nat) (size : Nat) (fmt : Nat)
  /-- BLOCK (R375). Operands: SESSION, KIND, OFFSET, LENGTH, CRC; whether the flash programs the granules without a
  failure. -/
  | rslBlock (session : Nat) (kind : Nat) (offset : Nat) (len : Nat) (crc : Nat) (progOk : Bool)
  /-- SEAL (R374). Operands: SESSION and KIND. -/
  | rslSeal (session : Nat) (kind : Nat)
  /-- SEAL_COMPLETE (R376). Operands: the kind; whether the flash programs the state page without a failure. -/
  | sealComplete (kind : Nat) (progOk : Bool)
  /-- DESTINATION_ERASE_DONE (R374). Operands: the kind. -/
  | destinationEraseDone (kind : Nat)
  /-- ACTIVATE (R378). Operands: SESSION, KMASK, TICK, CONF_STARTS, CONF_HOURS, FULL. -/
  | rslActivate (session : Nat) (kmask : Nat) (tick : Nat) (starts : Nat) (hours : Nat) (full : Bool)
  /-- CONFIRM (R382). Operands: KMASK. -/
  | rslConfirm (kmask : Nat)
  /-- ABORT (R382). Operands: KMASK. -/
  | rslAbort (kmask : Nat)
  /-- SCHED_LOAD (R385). Operands: SESSION. -/
  | schedLoad (session : Nat)
  /-- RESOLE_ACTIVATION (R379). -/
  | resoleActivation
  /-- KEY_ACTIVATION (R377). -/
  | keyActivation
  /-- TRIAL_HOUR (R383). -/
  | trialHour
  /-- RC_READ (R6). Operands: the initiator (0, 1 core pairs, 2 management target) and the local address. -/
  | rcRead (ini : Nat) (addr : Nat)
  /-- REGISTER_WRITE (R6). Operands: the initiator, the bytes written (1, 2 or 4), the local address, the value; the bits
  of the word that the hardware sets in the same cycle (R8). -/
  | registerWrite (ini : Nat) (size : Nat) (addr : Nat) (v : Nat) (same : Nat)
  /-- LOCK_ACQUIRED (R41). Operands: the port. -/
  | lockAcquired (p : Nat)
  /-- LOCK_LOST_IN_SYNC (R36). Operands: the port; 0 lock lost, 1 local fault, 2 remote fault. -/
  | lockLostInSync (p : Nat) (kind : Nat)
  /-- VDD_BPD_POR (R401). -/
  | vddBpdPor
  /-- CHARGE_PUMP_OK (R290). -/
  | chargePumpOk
  /-- CELL_TIME (R194). -/
  | cellTime
  /-- FREE_WINDOW_START (R76). Operands: the ring port. -/
  | freeWindowStart (p : Nat)
  /-- SHAPER_TOKENS (R196). Operands: CLK_CORE cycles since the event before, the crossbar port. -/
  | shaperTokens (dt : Nat) (w : Nat)
  /-- CTS_CHANGE (R216). Operands: the channel and the level of CTS. -/
  | ctsChange (n : Nat) (asserted : Bool)
  /-- WATCHDOG_SERVICE (R26). -/
  | watchdogService
  /-- MINW_ELAPSED (R343). -/
  | minwElapsed
  /-- JOIN_ATTEMPT (R87). -/
  | joinAttempt
  /-- TX_TABLE_FULL_TIMEOUT (R316). -/
  | txTableFullTimeout
  deriving DecidableEq, Repr

end Sys2Proof
end

