-- ==== Sys2Proof/Config.lean ====
section
/-! DEFINITION. What the spec leaves open or fixes outside the part. Every constant here is opaque: Lean can prove no
value of it, so a statement about one holds for every value. Log entry 1 names them all. -/

namespace Sys2Proof.Config

/-- A free value of w bits for the n-th use of an open value in a run (State.fresh counts the uses). -/
opaque freeValue (w n : Nat) : BitVec w

/-- What the stretch memory holds after power-up (R19: undefined), by memory key. -/
opaque stretchInit (key : Nat) : Byte

/-- Which way a quotient that is no whole number is rounded where the spec does not say: true rounds up.
The arguments are the dividend and the divisor, so equal operands round alike. -/
opaque roundsUp (num : Int) (den : Nat) : Bool

/-- The 256-bit digest of SHA-256 over a byte string: a standard the spec names and does not restate (R368, R372). -/
opaque sha256 (bytes : List Byte) : BitVec 256

/-- Whether an ECDSA P-256 signature verifies: key, digest, signature (R368, R372). -/
opaque ecdsaVerify (key : List Byte) (digest : BitVec 256) (sig : List Byte) : Bool

/-- The words that a Last image holds for the tables, at local addresses: the spec does not give the format of its body
(R372; log entry 20). -/
opaque lastWords (image : List Byte) : List (Nat × Nat)

/-- Elvaily's public key in ROM (R368). -/
opaque romKey : List Byte

/-- The unique die identity SYS_UID reads (R368): fixed per die. -/
opaque dieUid : BitVec 64

/-- Elvaily's 11-bit JEDEC manufacturer identity in IDCODE (R367). -/
opaque jedecId : BitVec 11

/-- The signature the ROM holds for LBIST (R362). -/
opaque romMisr : BitVec 32

end Sys2Proof.Config
end

