-- ==== Sys2Proof/Machine/State.lean ====
section
/-! DEFINITION. The state of the hub as plain data: the register cells, the memories, the state the chapters name
beside their registers, the queue of waiting commands, and what has left the block. Every type here is a structure
with its value after reset as the default of each field. -/

namespace Sys2Proof.Machine

/-! ## Shapes of the register map -/

/-- A field of a register: the local address of its register, its lowest bit and its width (R3). -/
structure Fld where
  addr : Nat
  lo : Nat
  w : Nat
  deriving DecidableEq, Repr

/-- Access types of R6. -/
inductive Acc | rw | ro | wo | w1c | w1s | rc | rwl
  deriving DecidableEq, Repr

/-- Reset domains of R16; VDD_AON is the always-on register file of R357. -/
inductive Dom | ring | hub | aon
  deriving DecidableEq, Repr

/-- A field as a register table gives it: lowest bit, width, access type, reset value. -/
structure FldSpec where
  lo : Nat
  w : Nat
  acc : Acc
  reset : Nat
  deriving DecidableEq, Repr

/-- A register as the map gives it: offset in its block, stride and count of up to two instance indices, whether
it is a 64-bit register (R5), its reset domain, its fields. -/
structure RegSpec where
  off : Nat
  s1 : Nat
  n1 : Nat
  s2 : Nat
  n2 : Nat
  wide : Bool
  dom : Dom
  flds : List FldSpec
  deriving DecidableEq, Repr

/-! ## Time (R114, R151) and 64-bit access (R5, R391) -/

/-- Fabric time, in units of 2^-48 ns (64 bits of ns, 16 of fraction, 32 of accumulator, R114), and the CLK_CORE
cycles since the hub-domain reset (R151). -/
structure Clk where
  ft : BitVec 112 := 0
  cyc : Nat := 0
  deriving DecidableEq, Repr

/-- High-word latches, staged low words and the BELL_FT_FRAC latch, per initiator (R5, R115, R391).
A key is 2^32 × initiator + address. -/
structure Wide where
  latch : List (Nat × Word) := []
  staged : List (Nat × Word) := []
  frac : List (Nat × BitVec 16) := []
  deriving DecidableEq, Repr

/-! ## Resets, the D2D link and the watchdog (R11 to R27, R421) -/

/-- The reset in progress and what the ring domain holds of it. -/
structure Rst where
  /-- A reset is in progress (R27). -/
  busy : Bool := false
  /-- It resets the ring domain too. -/
  full : Bool := false
  /-- Codes of the causes that have acted since it began, as a bit mask. -/
  causes : BitVec 8 := 0
  /-- REFCLK has failed and is not yet back (R18). -/
  refFail : Bool := false
  /-- Discrete outputs, branches and channel pins are held for a Resole activation (R22, R282). -/
  hold : Bool := false
  /-- A RESOLE activation brought the hub up, and its first P3 has not run (R380). -/
  holdToP3 : Bool := false
  /-- The hub domain stays in reset after a shutdown with END = 0 (R364). -/
  heldEnd : Bool := false
  /-- The last start followed a full reset (R33, R89, R138, R393). -/
  fromFull : Bool := true
  /-- The D2D link as each side sees it: lost (R12). -/
  d2dHubLost : Bool := false
  d2dBpdLost : Bool := false
  /-- Retransmissions of the D2D frame in progress towards the hub die, and towards the BPD (R11). -/
  d2dRetx : Nat := 0
  d2dRetxBpd : Nat := 0
  /-- FT in ns of the last Resole activation; a FATAL within 40 ms of it records RESOLE as also (R27, R380). -/
  actAt : Option Nat := none
  resoleAlso : Bool := false
  deriving DecidableEq, Repr

/-! ## The ring ports (R31 to R55) -/

/-- What a ring port transmits: nothing (TXDIS high), remote fault, idles and link-local frames, all traffic
(R34, R36, R41). -/
inductive Tx | dark | rf | idle | normal
  deriving DecidableEq, Repr

/-- A frame of the ring domain that waits to leave a ring port: a fault notice (R190), a message frame on the express
path and whether it is bad (R54), a delay request, a delay response with SEQ and T_RX_REQ in ns × 2^16 (R50, R51). -/
inductive RingOut
  | notice (frame : List Byte)
  | express (frame : List Byte) (bad : Bool)
  | request
  | response (seq rx : Nat)
  deriving DecidableEq, Repr

/-- A ring port beside its registers. -/
structure Port where
  tx : Tx := .dark
  /-- The port passed its loopback test or none has run since the full reset (R38). -/
  lbkFail : Bool := false
  /-- Enabled by ST09 (R34). -/
  st09 : Bool := false
  /-- Link-delay filter: samples taken while LDLY_VALID = 0 and their sum in ns × 2^16; rejections in a row (R52). -/
  ldN : Nat := 0
  ldSum : Int := 0
  ldRej : Nat := 0
  /-- Link-delay exchange in progress: SEQ and t1 in ns × 2^16 (R51). -/
  exch : Option (Nat × Nat) := none
  seq : Nat := 0
  /-- Unwrap (R48): the lap this end proposed, the neighbour's, and the agreed lap. -/
  own : Option Nat := none
  nbr : Option Nat := none
  agreed : Option Nat := none
  /-- A train frame has been seen since the port went down (R48). -/
  trainSeen : Bool := false
  /-- Local fault is being received (R36, R41). -/
  lf : Bool := false
  /-- FT in ns at which the 1 ms hold of SYNC last started (R36). -/
  hold : Nat := 0
  /-- FT in ns until which the port sends a message or link-local frame, and a train; the frames of the ring domain
  that wait for the port (R50, R54, R76, R77). -/
  sendTo : Nat := 0
  trainTo : Nat := 0
  waiting : List RingOut := []
  /-- The train whose lead frame left last, and FT of its first bit in tenths of ns; trains that have slipped in their
  present run, a slip of the train in the FIFO counted already; the window from the next lap on; laps in a row inside
  the programmed window (R77, R78). -/
  first : Option (Nat × Nat) := none
  slips : List Nat := []
  stomped : Bool := false
  next : Option (Nat × Nat) := none
  inside : Nat := 0
  deriving DecidableEq, Repr

/-! ## The trains (R56 to R90) -/

/-- How a hub sorts a train in the current lap (R80); waiting before it is sorted. -/
inductive TrainSt | wait | running | complete | broken | overdue
  deriving DecidableEq, Repr

/-- A train in the current lap: how it is sorted, the FRAME_NO of the last frame received, and whether a lead frame
that meets ST11 has arrived (R80, R81, R87). -/
structure Train where
  st : TrainSt := .wait
  lastNo : Nat := 0
  met : Bool := false
  deriving DecidableEq, Repr

/-- A ring in the roles of its head and standby (R82, R83). -/
structure Ring where
  /-- A lead frame with ACK has come back to the head; a lead frame with CONF has been launched. -/
  ackSeen : Bool := false
  confSent : Bool := false
  /-- This hub, named in NEW_HEAD, has received a lead frame with CONF, and its HO_LAP. -/
  confGot : Option Nat := none
  /-- The head stops at the next lap boundary after a conflict. -/
  yield : Bool := false
  /-- The last lap launched, or the lap in which launching was taken up (R66, R81, R83). -/
  launched : Option Int := none
  /-- FT in ns from which the ring has shown no fresh lead frame: the last one, or the end of ST10 (R88). -/
  quiet : Nat := 0
  deriving DecidableEq, Repr

/-- The trains beside their registers. Laps are counted in full, not modulo 2^24. -/
structure Trn where
  /-- The lap the entries below belong to. -/
  lap : Int := 0
  trains : List (Nat × Train) := []
  rings : List (Nat × Ring) := []
  /-- A frame with a good TCRC has arrived in this lap; the lap is a whole one since ST11 (R84). -/
  good : Bool := false
  judge : Bool := false
  /-- TRN_LAP_MISS stands: no good frame has arrived since (R330); the last lap missed (R25). -/
  missing : Bool := false
  missLap : Nat := 0
  /-- Rings in force at 2.5G, as a mask (R33). -/
  slow : Nat := 0
  /-- The merge image: the 72 bytes of each slot a copy has been merged for (R67). -/
  merge : List (Nat × List Byte) := []
  /-- The acting head labels its frames with the pending version (R85). -/
  launchPend : Bool := false
  /-- Trains on which a frame of the pending version has arrived, as a mask, and FT in ns of the first (R85). -/
  pendSeen : Nat := 0
  pendFirst : Nat := 0
  /-- The train window of a port under the pending schedule: start and end (R85, R385). -/
  pendWin : List (Nat × Option (Nat × Nat)) := []
  /-- The active schedule came into use without PEND_READY, or the Last carries an older one: the hub neither writes its
  slots nor keeps copies under it (R385). -/
  unready : Bool := false
  /-- Own slots and their banks, as the ring domain last read them (R24). -/
  own : List (Nat × Nat) := []
  /-- LAP of the last lead frame seen (R48). -/
  leadLap : Option Nat := none
  deriving DecidableEq, Repr

/-! ## The Ledger (R91 to R113) -/

/-- An output binding beside its registers: the value of the last usable P3, and the unusable P3s in a row (R102). -/
structure Bind where
  held : Option (Option Bool) := none
  count : Nat := 0
  deriving DecidableEq, Repr

/-- The Ledger beside its registers and memories. -/
structure Ldg where
  /-- Entries for which a copy was accepted in the current tick, with that tick's number (R97, R100). -/
  accepted : List (Nat × Int) := []
  /-- SCRC failures of a tick, and its number (R109). -/
  crcFails : Nat := 0
  crcTick : Int := 0
  /-- The copy that an entry took whole last: FT of the cycle and the train (R99). -/
  tie : List (Nat × Nat × Nat) := []
  /-- Tick number of the last boundary taken (R100). -/
  last : Option Int := none
  /-- Slots, and 64-bit words of the bitmap, disabled by an uncorrectable error (R111). -/
  offSlots : List Nat := []
  offWords : List Nat := []
  binds : List (Nat × Bind) := []
  deriving DecidableEq, Repr

/-! ## Discrete lines and the ADCs (R259 to R279) -/

/-- The stamp of an edge: FT in ns, the 16-bit fraction, whether it rises (R127, R260). -/
structure Stamp where
  ns : Nat
  frac : Nat
  rise : Bool
  deriving DecidableEq, Repr

/-- A timed action waiting on a line: its target FT in ns and its action (R270). -/
structure QEnt where
  target : Nat
  act : LineAct
  deriving DecidableEq, Repr

/-- A discrete line beside its registers. -/
structure Line where
  /-- The logical level driven; none while undriven. -/
  drive : Option Bool := none
  /-- The level at which a readback fault released it (R274). -/
  held : Option Bool := none
  /-- The timed-action queue, ordered by target (R270). -/
  queue : List QEnt := []
  /-- FT in ns at which a queue pulse ends (R271). -/
  pulseEnd : Option Nat := none
  /-- The parameter word in force (R157, R158). -/
  param : Nat := 0
  /-- PWM: the duty in force and whether the period runs (R268). -/
  duty : Nat := 0
  pwmOn : Bool := false
  /-- Pulse train: pulses left, and whether it ends after the current pulse (R269). -/
  ptLeft : Nat := 0
  ptStop : Bool := false
  /-- The level bit P3 last gave the line (R268, R269). -/
  bit : Bool := false
  /-- The edge FIFO (R261), and that an entry has stood in it (log entry 93). -/
  fifo : List Stamp := []
  seen : Bool := false
  /-- The channel whose chip select drives the line, while that channel is RUN (R265). -/
  cs : Bool := false
  /-- The raw level of the pad, and the FT, in units of 2^-48 ns, of the raw edge since which it has differed from the
  filtered level (R259, R260). -/
  pad : Bool := false
  run : Option Int := none
  /-- An edge the full FIFO has dropped: FT of the cycle, the entry, OVF and TS_OVF before it (R261). -/
  miss : Option (Nat × Stamp × Nat × Nat) := none
  /-- FT, in units of 2^-48 ns, at which the PWM period or the pulse began (R268, R269). -/
  perAt : Option Int := none
  /-- The cycle, by its FT, in which actions last fell on the line; the level below them, and the actions with their
  ranks: 0 the line's queue, 1 + n trigger n (R129, R267). -/
  cyc : Nat := 0
  base : Option Bool := none
  acts : List (Nat × LineAct) := []
  deriving DecidableEq, Repr

/-- A quadrature decoder beside its registers: the sum of increments in the tick, and that the first index edge has
passed (R263, R264). -/
structure Quad where
  sum : Int := 0
  idxDone : Bool := false
  deriving DecidableEq, Repr

/-- A per-tick accumulator of conversions: sum of codes, count, over-range seen (R276). -/
structure Acm where
  sum : Int := 0
  n : Nat := 0
  ovr : Bool := false
  deriving DecidableEq, Repr

/-- A triggered scan pending on an ADC: its inputs and the FT in ns of the sample instant of each (R277). -/
structure Scan where
  samples : List (Nat × Nat) := []
  deriving DecidableEq, Repr

/-- The ADCs beside their registers. Signals 0 to 7 are AIN0 to AIN7; 8 + 3n + k is signal k of BRN[n] (R275). -/
structure AdcSt where
  cur : List (Nat × Acm) := []
  /-- The tick of the sample instants in cur; what was converted before it and no mark has closed yet (R276). -/
  curTick : Option Int := none
  before : List (Nat × Acm) := []
  closed : List (Nat × Acm) := []
  /-- The mean of the last tick that had a conversion (R276, R294). -/
  prev : List (Nat × Int) := []
  scan : List (Nat × Option Scan) := []
  /-- ADCs whose last calibration failed (R279). -/
  calFail : Nat := 0
  /-- The averages of the closed tick have not come back yet (R144, R276). -/
  avgWait : Bool := false
  deriving DecidableEq, Repr

/-! ## Branches (R280 to R295) -/

/-- The configuration a branch of the BPD runs under: the frame ST13 sent it (R292). -/
structure BrnCfg where
  prot : Bool := false
  disEn : Bool := false
  retries : Nat := 0
  rShunt : Nat := 0
  vLim : Nat := 0
  pSoa : Nat := 0
  tFlt : Nat := 0
  tInsMs : Nat := 0
  tOt : Nat := 0
  rTh : Nat := 0
  cTh : Nat := 0
  rOn : Nat := 0
  vPgd : Nat := 0
  /-- The parameters of the timers and comparators whose events are commands. -/
  tStart : Nat := 0
  tRetry : Nat := 0
  tSoft : Nat := 0
  tReon : Nat := 0
  uvRise : Nat := 0
  uvFall : Nat := 0
  ovRise : Nat := 0
  ovFall : Nat := 0
  vDis : Nat := 0
  deriving DecidableEq, Repr

/-- A branch beside its registers. -/
structure Brn where
  /-- The enable latch of ESRC = 1 (R282). -/
  latch : Bool := false
  /-- The BPD's configuration (R292). -/
  cfg : BrnCfg := {}
  /-- The effective enable frozen for a Resole activation (R282). -/
  frozen : Option Bool := none
  /-- A T_REON run is in progress (R283). -/
  reon : Bool := false
  /-- The fault timer in units of 1.25 ns (R285). -/
  fault : Nat := 0
  /-- The 16 fractional bits of the energy count below 1 µJ (R293). -/
  eFrac : Nat := 0
  /-- The junction estimate in 1/65536 °C, and T_A at the last update (R289). -/
  tj : Int := 0
  ta : Int := 0
  /-- The current in µA at which the BPD limits the branch: V_LIM ÷ R_SHUNT, in RAMP the fold-back (R281, R286). -/
  limit : Nat := 0
  /-- FT in ns at which the branch last came to OFF, LATCHED_OFF or FAILED (R295). -/
  rest : Nat := 0
  /-- A trip during the hold of a Resole activation waits for ST13, one during a loss of the link for its return (R291). -/
  heldTrip : Bool := false
  /-- Branch enable output as P3 last set it (R282). -/
  outBit : Bool := false
  deriving DecidableEq, Repr

/-! ## Serial channels (R213 to R239) -/

/-- A received queue frame (R222, R223). -/
structure RxFrame where
  bytes : List Byte
  ns : Nat
  check : Bool
  trunc : Bool
  line : Bool
  deriving DecidableEq, Repr

/-- The transfer a channel carries (R225). -/
inductive Xfer
  | none
  /-- An attempt of transaction CUR of the running list, and the request sent. -/
  | attempt (request : List Byte)
  /-- The frame at the head of the TX queue. -/
  | frame (bytes : List Byte)
  /-- An inbound Ferryman access (R320): its number in the bridge's table. -/
  | ferry (k : Nat)
  deriving DecidableEq, Repr

/-- What a channel pin does: undriven, an open-drain output released, a level, or the bits of a transfer (R213). -/
inductive Pin | undriven | released | low | high | data
  deriving DecidableEq, Repr

/-- A channel beside its registers. -/
structure Chn where
  txq : List (List Byte) := []
  rxq : List RxFrame := []
  /-- A frame has stood in the RX queue (log entry 93). -/
  seen : Bool := false
  xfer : Xfer := .none
  /-- Retries made for transaction CUR (R226). -/
  tries : Nat := 0
  /-- FT in ns at which the running run began (R224). -/
  runStart : Nat := 0
  /-- TGAP runs until this FT in ns (R224, R225). -/
  gapTo : Nat := 0
  /-- Insert values read at the P4 that started the run: field entry, value (R232). -/
  ins : List (Nat × Nat) := []
  /-- Inbound Ferryman accesses waiting for the channel (R225, R320), and the word that an RMW has read while its
  write part runs (R315). -/
  ferry : List Nat := []
  lock : Option Nat := none
  /-- The response area: the bytes of the attempt's response so far, and that a line error has fallen in it (R220,
  R226). -/
  area : List Byte := []
  areaLine : Bool := false
  /-- The RX frame that is partly received: its stamp, its bytes up to one more than RX_MAX, a line error; and the bytes
  of a frame addressed elsewhere are being discarded (R216, R222). -/
  part : Option (Nat × List Byte × Bool) := none
  other : Bool := true
  /-- FT in ns at which the transfer began: of its chip select or START (R217, R222). -/
  startAt : Nat := 0
  /-- FT in ns of the last stop bit that a UART channel sends, 0 where it sends none; while CTS stops it, the ns then
  left (R216, R226). -/
  sent : Nat := 0
  ctsLeft : Option Nat := none
  /-- FT in ns before which no transfer starts: CS_IDLE of SPI, MONO of SSI (R217, R219). -/
  idleTo : Nat := 0
  /-- The chip select that is asserted (R217). -/
  cs : Option Nat := none
  /-- FT in ns at which STOPPING began (R237). -/
  stopAt : Nat := 0
  /-- CTS is asserted (R216). -/
  cts : Bool := true
  /-- The levels of CHn_A to CHn_D without a transfer; none listed where the pins are undriven (R213, R239). -/
  pins : List Pin := []
  deriving DecidableEq, Repr

/-! ## CAN controllers (R240 to R258) -/

/-- An entry of a receive FIFO (R252). -/
structure CanRx where
  frame : CanFrame
  filter : Nat
  ns : Nat
  deriving DecidableEq, Repr

/-- A controller beside its registers. -/
structure Can where
  fifo : List CanRx := []
  /-- An entry has stood in the FIFO (log entry 93). -/
  seen : Bool := false
  /-- The schedule queue: entry and frame (R258), and the entry whose frame is in SBUF. -/
  sq : List (Nat × CanFrame) := []
  sbuf : Option Nat := none
  /-- The candidate tried in DETECT (R246), and that DET_SLOW has been set (R247). -/
  cand : Nat := 0
  slow : Bool := false
  /-- A rate is locked but DET_RUN = 0 (R246). -/
  locked : Bool := false
  /-- Another node's frame is on the bus. -/
  busy : Bool := false
  /-- FT at which BUS_OFF was last entered, and at which a RECOVER last met another state (R244). -/
  offAt : Option Nat := none
  asked : Option Nat := none
  /-- The last overwrite of the FIFO: FT, the entry discarded, RX_OVF of CAN_CNT_C and of CAN_EVT before it (R252). -/
  evicted : Option (Nat × CanRx × Nat × Nat) := none
  /-- STBY is driven low (R241). -/
  awake : Bool := false
  /-- TXD and STBY are driven. -/
  pins : Bool := false
  deriving DecidableEq, Repr

/-! ## The switch core, the spurs and the Tap (R182 to R212) -/

/-- A message frame in the switch core: its bytes as it will leave, its ingress port, FT in ns of its first bit, and
the cells that have crossed. -/
structure XFrame where
  bytes : List Byte
  inp : Nat
  rx : Nat
  crossed : Nat := 0
  deriving DecidableEq, Repr

/-- A token bucket: tokens in 1/1000 bit, and FT in ns of the last update; full before the first. -/
structure Bucket where
  tokens : Nat := 0
  last : Option Nat := none
  deriving DecidableEq, Repr

/-- The egress scheduler of a port: the TC of its round, whether the round's quantum has been added, and the queue whose
head frame did not fit and goes first in the next free window (R196, R197). -/
structure Sched where
  cur : Nat := 5
  added : Bool := false
  held : Option Nat := none
  deriving DecidableEq, Repr

/-- A frame that is leaving on a wire: its queue, FT in ns of its first bit and of its end, and whether it is cut through
(R194, R195, R198). -/
structure Leaving where
  q : Nat
  frame : XFrame
  start : Nat
  stop : Nat
  cut : Bool
  deriving DecidableEq, Repr

/-- An entry of the broken-link lists beside its register: this hub's own port is not UP; FT in ns of the last WRAP or
REFRESH (R191). -/
structure Link where
  own : Bool := false
  seen : Option Nat := none
  deriving DecidableEq, Repr

/-- The switch core, the spurs and the Tap beside their registers. Queue q = 8 × port + TC. -/
structure Xb where
  /-- Virtual output queues by 64 × ingress port + q, and egress queues by q. -/
  voq : List (Nat × List XFrame) := []
  eq : List (Nat × List XFrame) := []
  /-- Grant pointers by output, accept pointers by input (R194). -/
  grant : List (Nat × Nat) := []
  accept : List (Nat × Nat) := []
  deficit : List (Nat × Nat) := []
  sched : List (Nat × Sched) := []
  /-- The port whose queue was served last, by 8 × wire + TC (R197). -/
  alt : List (Nat × Nat) := []
  shape : List (Nat × Bucket) := []
  police : List (Nat × Bucket) := []
  /-- FT in ns until which a port is sending; the frame of the switch core it sends. -/
  sending : List (Nat × Nat) := []
  leaving : List (Nat × Option Leaving) := []
  /-- FT in ns at which a received PAUSE ends, and of the last PAUSE sent, by spur (R206). -/
  pauseEnd : List (Nat × Nat) := []
  pauseSent : List (Nat × Nat) := []
  /-- The overload monitor (R203): drops of the interval, WATCH and its n, m. -/
  drops : Nat := 0
  watch : Nat := 0
  calm : Nat := 0
  /-- Bad frames found in a second of FT (R200). -/
  badSec : Nat := 0
  badN : Nat := 0
  links : List (Nat × Link) := []
  /-- The Tap: frames since the last sample by 2 × port + direction, SEQ, the ring is full, FT of the last entry in
  units of 2^-48 ns, and the mirror queue (R209 to R211). -/
  sample : List (Nat × Nat) := []
  seq : Nat := 0
  full : Bool := false
  tapAt : Option Nat := none
  mirror : List (List Byte) := []
  deriving DecidableEq, Repr

/-! ## The Ferryman and the Local Port (R311 to R327) -/

/-- An open or waiting transaction: its initiator (0, 1 core pairs, 3 Local Port), hub, TAG, OP, window and offset of the
access, words, MASK, data, whether it is a prefetch, FT in ns at which its TMO ends (R316 to R319). -/
structure Txn where
  ini : Nat
  hub : Nat
  tag : Nat
  op : Nat
  win : Nat
  off : Nat
  count : Nat
  mask : Nat := 0
  data : List Nat := []
  pf : Bool
  /-- The fill has been discarded before it came (R319). -/
  dropped : Bool := false
  expires : Nat
  deriving DecidableEq, Repr

/-- A prefetch buffer: the local address of its block, its words by index, the words read, FT in ns of its fill
(R319). -/
structure Prefetch where
  addr : Nat
  win : Nat
  words : List (Nat × Nat)
  used : Nat
  filled : Nat := 0
  deriving DecidableEq, Repr

/-- A request that has reached the management target and waits for a channel or the Local Port, or is under way there
(R320 to R322): the requesting hub and its local port, TAG, OP, ADDR, window, offset, words, MASK, data, deadline in ns
modulo 2^32. -/
structure Req where
  src : Nat
  sport : Nat
  tag : Nat
  addr : Nat
  op : Nat
  win : Nat
  off : Nat
  count : Nat
  mask : Nat
  data : List Nat
  deadline : Nat
  /-- A broadcast write: never answered (R311). -/
  quiet : Bool := false
  /-- FT in ns at which it began to wait (R322). -/
  since : Nat := 0
  deriving DecidableEq, Repr

/-- The Ferryman and the Local Port beside their registers. -/
structure Fry where
  txns : List Txn := []
  waiting : List Txn := []
  prefetch : List (Nat × Option Prefetch) := []
  /-- Inbound requests, by number. -/
  reqs : List (Nat × Option Req) := []
  nextReq : Nat := 0
  /-- The Local Port: the request asked for with LP_HREQ, the one served and awaiting COMPLETE (R323 to R325). -/
  lpAsk : Option Nat := none
  /-- LP_MREQ is high; FT in ns of the last rise of LP_CS_N; a transaction of the port waits for its answer. -/
  mreq : Bool := false
  csRise : Nat := 0
  lpBusy : Bool := false
  lpHeld : Option Nat := none
  /-- FT in ns at which SERVICE returned its descriptor (R325). -/
  heldAt : Nat := 0
  rxq : List (List Byte) := []
  deriving DecidableEq, Repr

/-! ## The Treadle (R139 to R161, R422) -/

/-- An access that waits for the end of P4 or for the flash (R28, R160, R389): of a core pair, its bytes, its local
address and the value written; or a request of the management target (2) or the Local Port (3). -/
inductive Access
  | cpu (ini size addr : Nat) (data : Option Nat)
  | req (ini : Nat) (r : Req)
  deriving DecidableEq, Repr

/-- A write of a rule in the running P2 (R156): the cycle of P2 at whose end it takes effect, its lane and rule, the
space and word written, the bits written and their values, and the operand that named them. -/
structure RuleWrite where
  cycle : Nat
  lane : Nat
  rule : Nat
  sp : Nat
  word : Nat
  mask : Nat
  val : Nat
  opnd : Nat
  deriving DecidableEq, Repr

/-- One of the four rule lanes in P2. -/
structure Lane where
  /-- Rules executed so far. -/
  pos : Nat := 0
  /-- Cycles of P2 used so far. -/
  used : Nat := 0
  /-- The cycle of P2 in which the last rule executed started. -/
  start : Nat := 0
  /-- Waiting at a BARRIER (R156). -/
  atBar : Bool := false
  deriving DecidableEq, Repr

/-- The Treadle beside its registers and storage. -/
structure Trd where
  lanes : List (Nat × Lane) := []
  /-- Writes that have not taken effect yet. -/
  writes : List RuleWrite := []
  /-- FT in ns of the cycle in which the tick was taken (R147). -/
  taken : Nat := 0
  /-- CLK_CORE cycle count of that cycle (R151). -/
  takenCyc : Nat := 0
  /-- Tick number of the last tick run; none before the first (R139, R143). -/
  last : Option Int := none
  /-- The last value of floor(cycles / 625) (R151). -/
  lastUs : Nat := 0
  /-- Words of the output image marked pending (R157). -/
  pend : List Nat := []
  /-- P2 of this tick overran (R147, R159). -/
  overran : Bool := false
  /-- The last boundary that a forward step carried FT past (R143). -/
  skipTo : Option Int := none
  /-- Output image words 0 to 3 and 16 to 111 as P3 last applied them (R159). -/
  applied : List (Nat × Word) := []
  /-- The values latched in the boundary cycle, by input word (R144). -/
  latched : List (Nat × Word) := []
  /-- The hub entered RUN or DEGRADED at this FT in ns; ARMED of the Ledger was set at this FT in ns (R139). -/
  since : Option Nat := none
  armedAt : Option Nat := none
  /-- Once-per-tick raises already made in this tick, by source (R180, R235). -/
  raised : List Nat := []
  /-- A P3 has run since the hub domain was released (R108, R282, R380). -/
  p3 : Bool := false
  /-- Accesses that fall within P1 to P4 and wait for the end of P4 (R28, R160). -/
  waiting : List Access := []
  deriving DecidableEq, Repr

/-! ## The Drover (R162 to R181) -/

/-- A window of a record: predicted arrival, open and close, FT in ns (R168). -/
structure Win where
  pred : Int
  opens : Int
  closes : Int
  deriving DecidableEq, Repr

/-- A fire a trigger of the pool holds: trigger, action, anchor of the match, belt, record and its OBJ_ID (R174). -/
structure Fire where
  trg : Nat
  act : Nat
  anchor : Nat
  belt : Nat
  recd : Nat
  obj : Nat
  deriving DecidableEq, Repr

/-- A fire disarmed when its belt stopped: action, anchor of the match, belt, remaining distance in µm, record and its
OBJ_ID (R174). -/
structure Held where
  act : Nat
  anchor : Nat
  belt : Nat
  rem : Int
  recd : Nat
  obj : Nat
  deriving DecidableEq, Repr

/-- A Drover event, and FT in ns of the instant that caused it (R179). -/
structure DrvEvent where
  ns : Nat
  code : Nat
  sns : Nat
  recd : Nat
  cause : Nat
  act : Nat
  obj : Nat
  deriving DecidableEq, Repr

/-- The Drover beside its registers and its record table. -/
structure Drv where
  /-- Belt positions below 1 µm, in 2^-16 µm (R163). -/
  frac : List (Nat × Nat) := []
  /-- t_k of the current segment: FT in ns at which the Treadle took the tick; the segments before it, by belt, as start
  and V, newest first, a segment of the same V as the one before it not listed (R163, R171). -/
  tk : Nat := 0
  segs : List (Nat × List (Nat × Nat)) := []
  /-- Windows of the records in TRACK (R168), by record. -/
  wins : List (Nat × Win) := []
  /-- Records taken in by hand-off that have matched no sensor yet, with their channel (R168). -/
  hoIn : List (Nat × Nat) := []
  /-- Records queued on each hand-off channel, oldest first, and the records in positions 0 and 1 (R175). -/
  hoQ : List (Nat × List Nat) := []
  hoPos : List (Nat × Nat) := []
  /-- HOPS byte of a record taken in by hand-off (R175). -/
  hops : List (Nat × Nat) := []
  fires : List Fire := []
  held : List Held := []
  /-- Recently freed OBJ_ID and ENTRY_T, newest first, at most 64 (R166). -/
  freed : List (Nat × Nat) := []
  /-- Pending destinations OBJ_ID and DEST, oldest first, at most 16 (R178). -/
  dest : List (Nat × Nat) := []
  /-- Events not yet listed, in recording order (R179). -/
  events : List DrvEvent := []
  /-- Windows were open when the belt stopped (R164): records. -/
  openAtStop : List Nat := []
  /-- Leading edges not yet matched: sensor and stamp in 2^-16 ns (R163). -/
  waiting : List (Nat × Nat) := []
  /-- The records matched in a CLK_CORE cycle, and the cycle (R178). -/
  matched : List Nat := []
  matchCyc : Nat := 0
  deriving DecidableEq, Repr

/-! ## The Bellman (R114 to R138) -/

/-- The Bellman beside its registers. Samples and medians are in units of 2^-17 ns. -/
structure Bell where
  /-- The integrator I as a fraction in lowest terms (R123). -/
  num : Int := 0
  den : Nat := 1
  /-- Samples of the lap, by train, and the last LAP used of each train (R121). -/
  samples : List (Nat × Int) := []
  lastLap : List (Nat × Option Nat) := []
  /-- Consecutive medians below 50 ns, at 100 ns or more, beyond STEP_THR (R124, R125). -/
  good : Nat := 0
  bad : Nat := 0
  big : Nat := 0
  /-- BELL_UNLOCK has been raised in this HOLDOVER. -/
  unlocked : Bool := false
  /-- The same counts of reference samples at an origin; the instant of the last BELL_EXT_OFS write in units of 2^-48 ns,
  moved with every step of FT so that it measures an interval (R118, R123, R124). -/
  extGood : Nat := 0
  extBad : Nat := 0
  extBig : Nat := 0
  lastExt : Option Int := none
  /-- BELL_PPSIN_SEC was written since the last edge, and edges are missing (R133). -/
  secSet : Bool := false
  ppsMiss : Bool := false
  /-- Laps without a valid Ring A sample, and laps of ST10 without a lead frame (R117). -/
  noA : Nat := 0
  noLead : Nat := 0
  /-- A lead frame with a good TCRC has arrived in this lap. -/
  leadSeen : Bool := false
  /-- Capture FIFOs (R127), and the units in whose FIFO an entry has stood (log entry 93). -/
  caps : List (Nat × List Stamp) := []
  capSeen : List Nat := []
  /-- An edge that a full capture FIFO has dropped, by unit: FT of the cycle, the entry, OVF and CAP_OVF before it. -/
  capMiss : List (Nat × Option (Nat × Stamp × Nat × Nat)) := []
  /-- Armed triggers whose LATE was decided as 1; pulses under way: the target, and the CLK_CORE cycle of the end
  (R128, R129). -/
  late : List Nat := []
  /-- The last lap boundary at which the follower took a median (R122). -/
  lastMed : Option Int := none
  pulses : List (Nat × Option (Nat × Nat)) := []
  deriving DecidableEq, Repr

/-! ## Tinker (R328 to R350) -/

/-- A Stocktake in progress: the source that raised FATAL, FT in ns of the raise, the half it goes to, and whether
Tinker's own sequencer writes it (R346). -/
structure Dump where
  src : Nat
  trig : Nat
  half : Option Nat
  seqr : Bool
  deriving DecidableEq, Repr

/-- Tinker beside its registers. -/
structure Tnk where
  /-- Effective severity of the last new raise of a source (R337). -/
  eff : List (Nat × Nat) := []
  /-- The FLT pair's driver set: sources as a bit mask, and the reset entry (R343, R345). -/
  drivers : Nat := 0
  drvReset : Bool := false
  /-- The cause of the reset entry is gone: ST14 has been reached (R345). -/
  st14 : Bool := false
  /-- The FLT pins are driven (R345). -/
  driven : Bool := false
  /-- DEGRADE and HALT raised before ST14 (R336). -/
  pendDeg : Bool := false
  pendHalt : Bool := false
  /-- Sensors above 115 °C and not yet below 110 °C, rails out of range (R330). -/
  temp : Nat := 0
  rails : Nat := 0
  dump : Option Dump := none
  /-- The core watchdog has expired once and has not been serviced (R26, R330). -/
  wdog : Bool := false
  /-- FT in ns from which MINW runs (R343, R345). -/
  minwFrom : Nat := 0
  /-- The tick boundary at which an accepted RESUME takes effect (R337). -/
  resume : Option Int := none
  deriving DecidableEq, Repr

/-! ## Start, life cycle, flash (R351 to R371, R389, R395) -/

/-- The outcome of a start step (R359). -/
structure StepRes where
  result : Nat
  attempts : Nat
  alt : Nat
  tEnd : Nat
  deriving DecidableEq, Repr

/-- Phase of an orderly shutdown (R361). -/
inductive Shut | none | quiesce | lbist | record | ended
  deriving DecidableEq, Repr

/-- The start, the shutdown and Cobbler beside their registers. -/
structure Sys where
  /-- Entries of the start record, by step. -/
  steps : List (Nat × StepRes) := []
  /-- NOR offset of the start record once ST05 has opened it. -/
  record : Option Nat := none
  /-- FLAGS of the start record (R359), and the first fault before the reset (R350). -/
  flags : Nat := 0
  first : Nat := 0
  firstAlso : List Nat := []
  /-- Slot and version of the firmware, area and version of the Last in use. -/
  fwSlot : Nat := 0
  fwVer : Nat := 0
  lastArea : Nat := 0
  lastVer : Nat := 0
  /-- Attempts of ST09 and of ST11 so far (R39, R87). -/
  tries : Nat := 0
  /-- SKIP of the boot header for the steps that failed on the last start (R358). -/
  skip : Nat := 0
  /-- ST13 was skipped: every branch stays OFF (R358). -/
  brnOff : Bool := false
  shut : Shut := .none
  shutEnd : Bool := false
  /-- HOLD_S as it stood when the shutdown began, in seconds (R364). -/
  shutHold : Nat := 0
  /-- FT in ns at which the present part of the shutdown began (R361, R364). -/
  shutAt : Nat := 0
  /-- PFW_N is low (R365). -/
  pfwLow : Bool := false
  /-- FT in ns at entry to ST14 (R347, R371). -/
  st14 : Nat := 0
  /-- Erase counts of the blocks from 0x0190_0000 (R370), corrected ECC errors since start. -/
  wear : List (Nat × Nat) := []
  corrected : Nat := 0
  /-- The program or erase in progress: its OP, NOR offset and page (R395). -/
  nvm : Option (Nat × Nat × List Byte) := none
  /-- The program or erase of the NVM controller that a reset has cut short, until ST05 probes the flash (R411). -/
  cut : Option (Nat × Nat × List Byte) := none
  /-- Accesses of the NOR read window that wait for BUSY to clear (R389). -/
  waiting : List Access := []
  /-- Programs and erases that wait for PFW_N: the commands that ask for them (R365, R412). -/
  held : List Instr := []
  /-- ST05 has opened the start record; ST08 has loaded the tables (R329, R346). -/
  st05 : Bool := false
  loaded : Bool := false
  deriving DecidableEq, Repr

/-- OTP: the life-cycle state, the key slots valid and revoked as masks, their hashes, the anti-rollback count
(R366, R377). -/
structure Otp where
  lc : Nat := 0
  valid : Nat := 0
  revoked : Nat := 0
  hash : List (Nat × BitVec 256) := []
  arb : Nat := 0
  deriving DecidableEq, Repr

/-- The activation request that the VDD_AON register file holds (R379). -/
structure ActReq where
  /-- The slot and the area to activate. -/
  fw : Option Nat
  last : Option Nat
  starts : Nat
  hours : Nat
  deriving DecidableEq, Repr

/-- Resole beside its registers (R372 to R385). -/
structure Rsl where
  /-- SIZE and FORMAT of the open session of each kind. -/
  size : List (Nat × Nat) := []
  fmt : List (Nat × Nat) := []
  /-- Granules received, by kind. -/
  gran : List (Nat × List Nat) := []
  /-- Parameters of the armed activation. -/
  starts : Nat := 0
  hours : Nat := 0
  full : Bool := false
  /-- Kinds whose destination is being erased, with the area (R374). -/
  erasing : List (Nat × Nat) := []
  deriving DecidableEq, Repr

/-! ## What leaves the block -/

/-- What has left the block on its links and pins, or has been answered (newest first in State.out). -/
inductive Output
  /-- A message frame at a ring port. -/
  | ringFrame (port : Nat) (frame : List Byte) (stomped : Bool)
  /-- A train frame at a ring port. -/
  | trainFrame (port : Nat) (frame : List Byte)
  /-- The payload of a link-local frame at a ring port (R51). -/
  | linkFrame (port : Nat) (payload : List Byte)
  /-- An Ethernet frame at a spur. -/
  | spurFrame (spur : Nat) (frame : List Byte) (stomped : Bool)
  /-- A message frame that leaves the switch core at crossbar port 6 (Ferryman) or 7 (Core), with t_in of its receive
  descriptor (R135, R184, R185). -/
  | deliver (dport : Nat) (frame : List Byte) (tIn : Option Nat := none)
  /-- An answer of the management target to a hub: TAG, status, INFO, data words (R311). -/
  | mgmtRsp (hub tag status info : Nat) (data : List Nat)
  /-- The completion of an access of a firmware initiator: status and data (R14, R387). -/
  | busRsp (initiator status : Nat) (data : Nat)
  /-- Bytes answered on the Local Port (R324). -/
  | lpData (bytes : List Byte)
  /-- A request on a serial channel: its bytes, the bytes then read, and the device: the chip select of SPI, the
  address of I2C with bit 10 set for a 10-bit one, the ninth bit of the first byte of UART; and the line settings,
  CHN_MODEP with DIV in bits 55 to 32. -/
  | chnRequest (n : Nat) (bytes : List Byte) (read dev how : Nat)
  /-- A frame on a CAN bus. -/
  | canFrame (c : Nat) (f : CanFrame)
  /-- A two-wire or Clause 22 request: kind (0 SFP, 1 MDIO), instance, register word. -/
  | serial (kind n word : Nat)
  /-- The frame that is leaving a ring port is truncated with an error-terminated block (R44, R77). -/
  | truncate (port : Nat)
  /-- The frame that is leaving towards a port that has failed is discarded (R44). -/
  | discard (port : Nat)
  /-- The fault event firmware sends: HUB, DPORT, payload (R339). -/
  | faultEvent (hub dport : Nat) (payload : List Byte)
  /-- The interrupt that cannot be masked (R335). -/
  | faultIrq (src : Nat)
  /-- The TAP's data register shifted out, and the boundary-scan pins it drives. -/
  | jtag (dr : Nat)
  deriving DecidableEq, Repr

/-! ## Stops -/

/-- The machine stops with a fault: no meaning of this model raises one. -/
inductive Fault
  /-- Raised by nobody: the block has no fault that stops it. Safe. -/
  | none
  deriving DecidableEq, Repr

/-- The step is refused. -/
inductive Refusal
  /-- Raised by Dispatch alone, for a command without a meaning. Safe. -/
  | notModelled (mnemonic : String)
  deriving DecidableEq, Repr

/-! ## The state -/

/-- The hub: its register cells, its memories, the state of its engines, the queue of waiting commands, the count of
free values used, and what has left it. -/
structure State where
  /-- Register cells by local address; an address not listed holds its reset value (log entry 12). -/
  regs : List (Nat × Cell) := []
  /-- Addressed memories (log entry 13). -/
  mem : List Host.Cell := []
  clk : Clk := {}
  wide : Wide := {}
  rst : Rst := {}
  ports : List (Nat × Port) := []
  trn : Trn := {}
  ldg : Ldg := {}
  xb : Xb := {}
  fry : Fry := {}
  bell : Bell := {}
  /-- The level of PPS_OUT (R132): ring domain. -/
  ppsOut : Bool := false
  /-- The instant PPS_OUT last rose, in units of 2^-48 ns, moved with every step of FT (R132). -/
  ppsRise : Int := 0
  trd : Trd := {}
  drv : Drv := {}
  chns : List (Nat × Chn) := []
  /-- Input words 128 to 1,535 as the engines have written them since the last boundary latch (R144, R234, R255). -/
  stg : List (Nat × Word) := []
  /-- The tick of the last update of those words, and the words as they stood when that tick began (R234, R256). -/
  stgTick : Option Int := none
  stgOld : List (Nat × Word) := []
  cans : List (Nat × Can) := []
  /-- The last tick boundary at which the receive messages aged (R256). -/
  rxmLast : Option Int := none
  /-- Receive messages that a frame has aged ahead of RXM_AGING, each with the boundary (R256). -/
  rxmAged : List (Nat × Int) := []
  /-- The unit whose self-check comes next, or is to be retried, and an abandoned self-check waits for its retry (R307). -/
  asyNext : Nat := 0
  asyRetry : Bool := false
  /-- Words found with an uncorrectable error and not written since: 2^28 × memory code + word (R111, R233, R314). -/
  bad : List Nat := []
  lines : List (Nat × Line) := []
  quads : List (Nat × Quad) := []
  adc : AdcSt := {}
  brns : List (Nat × Brn) := []
  tnk : Tnk := {}
  sys : Sys := {}
  otp : Otp := {}
  act : Option ActReq := none
  rsl : Rsl := {}
  /-- The commands that wait, first in, first out. -/
  pending : List Instr := []
  /-- Free values used so far: the model's own field (log entry 1). -/
  fresh : Nat := 0
  out : List Output := []
  deriving DecidableEq, Repr

/-- The machine at the release of a power-on reset. -/
def State.reset : State := {}

end Sys2Proof.Machine
end

