-- ==== Sys2Proof/Machine/Fields.lean ====
section
/-! DEFINITION. The named fields of every register of the spec's register tables (files 02 to 17), each at the
local address of R386 and R390 with the bits its table gives; `N_F i` is field F of instance i of register N.
The registers whose tables the spec writes word by word (CAN_FLT, TAP_RULE, FRY_OUT, the record table of R166, ...)
carry a suffix that names the word. -/

namespace Sys2Proof.Machine


/-! Fields of the block SYS, base 0x40000000. -/

def SYS_HUB_ID_ID : Fld := ⟨0x40000000, 0, 12⟩
def SYS_STATE_STATE : Fld := ⟨0x40000004, 0, 4⟩
def SYS_RST_CAUSE_CAUSE : Fld := ⟨0x40000008, 0, 3⟩
def SYS_RST_CAUSE_ALSO : Fld := ⟨0x40000008, 8, 8⟩
def SYS_STEP_STEP : Fld := ⟨0x40000040, 0, 4⟩
def SYS_DEG_REASON : Fld := ⟨0x40000044, 0, 4⟩
def SYS_SHUT_GO : Fld := ⟨0x40000048, 0, 1⟩
def SYS_SHUT_END : Fld := ⟨0x40000048, 1, 1⟩
def SYS_SHUT_HOLD_S : Fld := ⟨0x40000048, 16, 16⟩
def SYS_EVT_PFW : Fld := ⟨0x4000004C, 0, 1⟩
def SYS_EVT_LC_REJ : Fld := ⟨0x4000004C, 1, 1⟩
def SYS_EVT_SKIP : Fld := ⟨0x4000004C, 2, 1⟩
def SYS_IRQ_EN_EN : Fld := ⟨0x40000050, 0, 3⟩
def SYS_START_NO_NO : Fld := ⟨0x40000054, 0, 32⟩
def SYS_VERDICT_RESULT : Fld := ⟨0x40000058, 0, 2⟩
def SYS_VERDICT_CONSUMED : Fld := ⟨0x40000058, 2, 1⟩
def SYS_VERDICT_VALID : Fld := ⟨0x40000058, 3, 1⟩
def SYS_VERDICT_MISR : Fld := ⟨0x40000058, 32, 32⟩
def SYS_LC_STATE : Fld := ⟨0x40000060, 0, 2⟩
def SYS_LC_KEYS : Fld := ⟨0x40000060, 4, 4⟩
def SYS_LC_REVOKED : Fld := ⟨0x40000060, 8, 4⟩
def SYS_LC_CMD_CMD : Fld := ⟨0x40000064, 0, 2⟩
def SYS_UID_UID : Fld := ⟨0x40000068, 0, 64⟩
def SYS_NONCE_NONCE : Fld := ⟨0x40000070, 0, 64⟩
def SYS_TOKEN_W (i : Nat) : Fld := ⟨0x40000100 + 0x4 * i, 0, 32⟩

/-! Fields of the block WELT, base 0x40010000. -/

def WELT_CTRL_RATE_A : Fld := ⟨0x40010000, 0, 1⟩
def WELT_CTRL_RATE_B : Fld := ⟨0x40010000, 1, 1⟩
def WELT_CTRL_BYPASS_REQ : Fld := ⟨0x40010000, 2, 1⟩
def WELT_CTRL_UNWRAP_HOLD : Fld := ⟨0x40010000, 16, 10⟩
def WELT_STATUS_MODE : Fld := ⟨0x40010004, 0, 2⟩
def WELT_STATUS_PAIR_A : Fld := ⟨0x40010004, 2, 1⟩
def WELT_STATUS_PAIR_B : Fld := ⟨0x40010004, 3, 1⟩
def WELT_STATUS_WRAPPED : Fld := ⟨0x40010004, 4, 4⟩
def WELT_BRINGUP_TMO : Fld := ⟨0x40010008, 0, 16⟩
def WELT_LBK_RESULT_PASS : Fld := ⟨0x4001000C, 0, 4⟩
def WELT_LBK_RESULT_RUN : Fld := ⟨0x4001000C, 4, 4⟩
def WELT_XDISC_COUNT : Fld := ⟨0x40010010, 0, 32⟩
def WELT_PORT_CTRL_ENABLE (i : Nat) : Fld := ⟨0x40010100 + 0x100 * i, 0, 1⟩
def WELT_PORT_CTRL_HIBER_WRAP (i : Nat) : Fld := ⟨0x40010100 + 0x100 * i, 1, 1⟩
def WELT_PORT_CTRL_TXDIS_FORCE (i : Nat) : Fld := ⟨0x40010100 + 0x100 * i, 2, 1⟩
def WELT_PORT_STAT_STATE (i : Nat) : Fld := ⟨0x40010104 + 0x100 * i, 0, 3⟩
def WELT_PORT_STAT_SIG_DET (i : Nat) : Fld := ⟨0x40010104 + 0x100 * i, 3, 1⟩
def WELT_PORT_STAT_LOCK (i : Nat) : Fld := ⟨0x40010104 + 0x100 * i, 4, 1⟩
def WELT_PORT_STAT_RF_RX (i : Nat) : Fld := ⟨0x40010104 + 0x100 * i, 5, 1⟩
def WELT_PORT_STAT_HIBER (i : Nat) : Fld := ⟨0x40010104 + 0x100 * i, 6, 1⟩
def WELT_PORT_STAT_SFP_LOS (i : Nat) : Fld := ⟨0x40010104 + 0x100 * i, 7, 1⟩
def WELT_PORT_STAT_SFP_MODABS (i : Nat) : Fld := ⟨0x40010104 + 0x100 * i, 8, 1⟩
def WELT_PORT_STAT_SFP_TXFLT (i : Nat) : Fld := ⟨0x40010104 + 0x100 * i, 9, 1⟩
def WELT_PORT_STAT_LDLY_VALID (i : Nat) : Fld := ⟨0x40010104 + 0x100 * i, 10, 1⟩
def WELT_PORT_EVT_LOS (i : Nat) : Fld := ⟨0x40010108 + 0x100 * i, 0, 1⟩
def WELT_PORT_EVT_RF (i : Nat) : Fld := ⟨0x40010108 + 0x100 * i, 1, 1⟩
def WELT_PORT_EVT_WRAP (i : Nat) : Fld := ⟨0x40010108 + 0x100 * i, 2, 1⟩
def WELT_PORT_EVT_UNWRAP (i : Nat) : Fld := ⟨0x40010108 + 0x100 * i, 3, 1⟩
def WELT_PORT_EVT_HIBER (i : Nat) : Fld := ⟨0x40010108 + 0x100 * i, 4, 1⟩
def WELT_PORT_EVT_LDLY_STEP (i : Nat) : Fld := ⟨0x40010108 + 0x100 * i, 5, 1⟩
def WELT_PORT_EVT_LDLY_RANGE (i : Nat) : Fld := ⟨0x40010108 + 0x100 * i, 6, 1⟩
def WELT_PORT_EVT_MOD_CHG (i : Nat) : Fld := ⟨0x40010108 + 0x100 * i, 7, 1⟩
def WELT_LDLY_NS (i : Nat) : Fld := ⟨0x4001010C + 0x100 * i, 16, 16⟩
def WELT_LDLY_FRAC (i : Nat) : Fld := ⟨0x4001010C + 0x100 * i, 0, 16⟩
def WELT_ASYM_ASYM (i : Nat) : Fld := ⟨0x40010110 + 0x100 * i, 0, 32⟩
def WELT_LDLY_CNT_OK (i : Nat) : Fld := ⟨0x40010114 + 0x100 * i, 0, 16⟩
def WELT_LDLY_CNT_REJ (i : Nat) : Fld := ⟨0x40010114 + 0x100 * i, 16, 16⟩
def WELT_PCS_ERR_COUNT (i : Nat) : Fld := ⟨0x40010118 + 0x100 * i, 0, 32⟩
def WELT_WRAP_CNT_COUNT (i : Nat) : Fld := ⟨0x4001011C + 0x100 * i, 0, 16⟩
def WELT_SFP_MGMT_DATA (i : Nat) : Fld := ⟨0x40010120 + 0x100 * i, 0, 8⟩
def WELT_SFP_MGMT_OFFSET (i : Nat) : Fld := ⟨0x40010120 + 0x100 * i, 8, 8⟩
def WELT_SFP_MGMT_DEVSEL (i : Nat) : Fld := ⟨0x40010120 + 0x100 * i, 16, 1⟩
def WELT_SFP_MGMT_WRITE (i : Nat) : Fld := ⟨0x40010120 + 0x100 * i, 17, 1⟩
def WELT_SFP_MGMT_GO (i : Nat) : Fld := ⟨0x40010120 + 0x100 * i, 30, 1⟩
def WELT_SFP_MGMT_ERR (i : Nat) : Fld := ⟨0x40010120 + 0x100 * i, 31, 1⟩

/-! Fields of the block TRN, base 0x40020000. -/

def TRN_CTRL_ROLE : Fld := ⟨0x40020000, 0, 2⟩
def TRN_CTRL_K_M1 : Fld := ⟨0x40020000, 4, 4⟩
def TRN_CTRL_FREE_MIN : Fld := ⟨0x40020000, 8, 8⟩
def TRN_TLAP_NS : Fld := ⟨0x40020004, 0, 32⟩
def TRN_HEADS_PRIMARY : Fld := ⟨0x40020008, 0, 12⟩
def TRN_HEADS_SECONDARY : Fld := ⟨0x40020008, 16, 12⟩
def TRN_STATUS_LAUNCH_A : Fld := ⟨0x4002000C, 0, 1⟩
def TRN_STATUS_LAUNCH_B : Fld := ⟨0x4002000C, 1, 1⟩
def TRN_STATUS_STANDBY : Fld := ⟨0x4002000C, 2, 1⟩
def TRN_STATUS_JOINED : Fld := ⟨0x4002000C, 3, 1⟩
def TRN_STATUS_HEADLESS : Fld := ⟨0x4002000C, 4, 4⟩
def TRN_STATUS_TRACK : Fld := ⟨0x4002000C, 8, 4⟩
def TRN_LAP_LAP : Fld := ⟨0x40020010, 0, 24⟩
def TRN_LAP_LAPIDX : Fld := ⟨0x40020010, 24, 4⟩
def TRN_SCHED_ACT_VER : Fld := ⟨0x40020014, 0, 8⟩
def TRN_SCHED_PEND_VER : Fld := ⟨0x40020014, 8, 8⟩
def TRN_SCHED_PEND_VALID : Fld := ⟨0x40020014, 16, 1⟩
def TRN_SCHED_BANK : Fld := ⟨0x40020014, 17, 1⟩
def TRN_SW_LAP_LAP : Fld := ⟨0x40020018, 0, 24⟩
def TRN_SW_LAP_ARM : Fld := ⟨0x40020018, 31, 1⟩
def TRN_ROLE_CMD_NEW_HEAD : Fld := ⟨0x4002001C, 0, 12⟩
def TRN_ROLE_CMD_RING_A : Fld := ⟨0x4002001C, 12, 1⟩
def TRN_ROLE_CMD_RING_B : Fld := ⟨0x4002001C, 13, 1⟩
def TRN_ROLE_CMD_GO : Fld := ⟨0x4002001C, 31, 1⟩
def TRN_ROLE_LAP_LAP : Fld := ⟨0x40020020, 0, 24⟩
def TRN_EVT_SLIP : Fld := ⟨0x40020024, 0, 4⟩
def TRN_EVT_LAP_MISS : Fld := ⟨0x40020024, 4, 1⟩
def TRN_EVT_HEAD_LOSS_A : Fld := ⟨0x40020024, 5, 1⟩
def TRN_EVT_HEAD_LOSS_B : Fld := ⟨0x40020024, 6, 1⟩
def TRN_EVT_TAKEOVER : Fld := ⟨0x40020024, 7, 1⟩
def TRN_EVT_YIELD : Fld := ⟨0x40020024, 8, 1⟩
def TRN_EVT_VER_SWITCH : Fld := ⟨0x40020024, 9, 1⟩
def TRN_EVT_VER_UNKNOWN : Fld := ⟨0x40020024, 10, 1⟩
def TRN_EVT_SMEM_ECC : Fld := ⟨0x40020024, 11, 1⟩
def TRN_EVT_ROLE_FAIL : Fld := ⟨0x40020024, 12, 1⟩
def TRN_EVT_HANDOVER : Fld := ⟨0x40020024, 13, 1⟩
def TRN_SMEM_ECC_CORR : Fld := ⟨0x40020028, 0, 16⟩
def TRN_SMEM_ECC_UNCORR : Fld := ⟨0x40020028, 16, 16⟩
def TRN_LAYOUT_ADDR_WORD : Fld := ⟨0x4002002C, 0, 14⟩
def TRN_LAYOUT_ADDR_BANK : Fld := ⟨0x4002002C, 14, 1⟩
def TRN_LAYOUT_ADDR_INC : Fld := ⟨0x4002002C, 31, 1⟩
def TRN_LAYOUT_DATA_DATA : Fld := ⟨0x40020030, 0, 32⟩
def TRN_IRQ_EN_EN : Fld := ⟨0x40020080, 0, 14⟩
def TRN_WIN_START_NS (i : Nat) : Fld := ⟨0x40020100 + 0x20 * i, 0, 32⟩
def TRN_WIN_END_NS (i : Nat) : Fld := ⟨0x40020104 + 0x20 * i, 0, 32⟩
def TRN_TRK_START_NS (i : Nat) : Fld := ⟨0x40020108 + 0x20 * i, 0, 32⟩
def TRN_TRK_END_NS (i : Nat) : Fld := ⟨0x4002010C + 0x20 * i, 0, 32⟩
def TRN_SLIP_CNT_COUNT (i : Nat) : Fld := ⟨0x40020110 + 0x20 * i, 0, 32⟩
def TRN_STOMP_CNT_COUNT (i : Nat) : Fld := ⟨0x40020114 + 0x20 * i, 0, 32⟩
def TRN_LEAD_ARR_NS (i : Nat) : Fld := ⟨0x40020200 + 0x20 * i, 0, 32⟩
def TRN_HDR_ERR_COUNT (i : Nat) : Fld := ⟨0x40020204 + 0x20 * i, 0, 32⟩
def TRN_FRAME_CNT_COUNT (i : Nat) : Fld := ⟨0x40020208 + 0x20 * i, 0, 32⟩
def TRN_STALE_CNT_LEADS (i : Nat) : Fld := ⟨0x4002020C + 0x20 * i, 0, 16⟩
def TRN_STALE_CNT_REPAIR (i : Nat) : Fld := ⟨0x4002020C + 0x20 * i, 16, 16⟩

/-! Fields of the block LDG, base 0x40030000. -/

def LDG_CTRL_HOLD_LIMIT : Fld := ⟨0x40030000, 0, 10⟩
def LDG_CTRL_CRC_THR : Fld := ⟨0x40030000, 16, 8⟩
def LDG_STATUS_ARMED : Fld := ⟨0x40030004, 0, 1⟩
def LDG_STATUS_TABLE_ERR : Fld := ⟨0x40030004, 1, 1⟩
def LDG_STATUS_STALE_N : Fld := ⟨0x40030004, 16, 14⟩
def LDG_EVT_STALE : Fld := ⟨0x40030008, 0, 1⟩
def LDG_EVT_COPY_CRC : Fld := ⟨0x40030008, 1, 1⟩
def LDG_EVT_FMT : Fld := ⟨0x40030008, 2, 1⟩
def LDG_EVT_PUB_REJ : Fld := ⟨0x40030008, 3, 1⟩
def LDG_EVT_ECC_DROP : Fld := ⟨0x40030008, 4, 1⟩
def LDG_EVT_TABLE_ERR : Fld := ⟨0x40030008, 5, 1⟩
def LDG_IRQ_EN_EN : Fld := ⟨0x4003000C, 0, 6⟩
def LDG_MAXAGE_MAXAGE (i : Nat) : Fld := ⟨0x40030010 + 0x4 * i, 0, 10⟩
def LDG_MAXAGE_FLT (i : Nat) : Fld := ⟨0x40030010 + 0x4 * i, 31, 1⟩
def LDG_CRC_CNT_COUNT (i : Nat) : Fld := ⟨0x40030030 + 0x4 * i, 0, 32⟩
def LDG_FMT_CNT_COUNT : Fld := ⟨0x40030040, 0, 32⟩
def LDG_PUB_REJ_COUNT : Fld := ⟨0x40030044, 0, 32⟩
def LDG_LAST_STALE_ENTRY : Fld := ⟨0x40030048, 0, 14⟩
def LDG_LAST_STALE_SLOT_ID : Fld := ⟨0x40030048, 16, 16⟩
def LDG_ACCEPT_CNT_COUNT (i : Nat) : Fld := ⟨0x40030050 + 0x4 * i, 0, 32⟩
def LDG_OBIND0_ENTRY (i : Nat) : Fld := ⟨0x40030400 + 0x8 * i, 0, 14⟩
def LDG_OBIND0_POLICY (i : Nat) : Fld := ⟨0x40030400 + 0x8 * i, 14, 2⟩
def LDG_OBIND0_MIRROR (i : Nat) : Fld := ⟨0x40030400 + 0x8 * i, 16, 1⟩
def LDG_OBIND0_BIT (i : Nat) : Fld := ⟨0x40030400 + 0x8 * i, 17, 9⟩
def LDG_OBIND0_EN (i : Nat) : Fld := ⟨0x40030400 + 0x8 * i, 31, 1⟩
def LDG_OBIND1_TARGET (i : Nat) : Fld := ⟨0x40030404 + 0x8 * i, 0, 8⟩
def LDG_OBIND1_N (i : Nat) : Fld := ⟨0x40030404 + 0x8 * i, 8, 8⟩
def LDG_OBIND1_ACTIVE (i : Nat) : Fld := ⟨0x40030404 + 0x8 * i, 16, 1⟩

/-! Fields of the block BELL, base 0x40040000. -/

def BELL_FT_NS : Fld := ⟨0x40040000, 0, 64⟩
def BELL_FT_FRAC_FRAC : Fld := ⟨0x40040008, 0, 16⟩
def BELL_FREQ_FREQ : Fld := ⟨0x4004000C, 0, 32⟩
def BELL_EPOCH_OFS_NS : Fld := ⟨0x40040010, 0, 32⟩
def BELL_PPS_CTRL_EN : Fld := ⟨0x40040014, 0, 1⟩
def BELL_PPS_CTRL_HOLD : Fld := ⟨0x40040014, 1, 1⟩
def BELL_PPS_CTRL_LOCK_Q : Fld := ⟨0x40040014, 2, 1⟩
def BELL_PPS_CTRL_HOLDOVER_Q : Fld := ⟨0x40040014, 3, 1⟩
def BELL_PPS_CTRL_WIDTH : Fld := ⟨0x40040014, 4, 20⟩
def BELL_PPS_PERIOD_NS : Fld := ⟨0x40040018, 0, 32⟩
def BELL_PPS_PHASE_NS : Fld := ⟨0x4004001C, 0, 32⟩
def BELL_CTRL_SRC : Fld := ⟨0x40040040, 0, 2⟩
def BELL_CTRL_KP_SH : Fld := ⟨0x40040040, 2, 5⟩
def BELL_CTRL_KI_SH : Fld := ⟨0x40040040, 7, 5⟩
def BELL_CTRL_STEP_THR : Fld := ⟨0x40040040, 12, 16⟩
def BELL_STATUS_STATE : Fld := ⟨0x40040044, 0, 3⟩
def BELL_STATUS_EXT_LOCKED : Fld := ⟨0x40040044, 3, 1⟩
def BELL_STATUS_NSAMP : Fld := ⟨0x40040044, 4, 3⟩
def BELL_STATUS_USED : Fld := ⟨0x40040044, 7, 4⟩
def BELL_OFFSET_OFS : Fld := ⟨0x40040048, 0, 32⟩
def BELL_EXT_OFS_OFS : Fld := ⟨0x4004004C, 0, 32⟩
def BELL_PPSIN_SEC_SEC : Fld := ⟨0x40040050, 0, 32⟩
def BELL_STEP_NS : Fld := ⟨0x40040058, 0, 64⟩
def BELL_EVT_LOCK : Fld := ⟨0x40040060, 0, 1⟩
def BELL_EVT_UNLOCK : Fld := ⟨0x40040060, 1, 1⟩
def BELL_EVT_STEP : Fld := ⟨0x40040060, 2, 1⟩
def BELL_EVT_HOLDOVER : Fld := ⟨0x40040060, 3, 1⟩
def BELL_EVT_EXT_STEP_PEND : Fld := ⟨0x40040060, 4, 1⟩
def BELL_EVT_CLAMP : Fld := ⟨0x40040060, 5, 1⟩
def BELL_EVT_PPSIN_MISS : Fld := ⟨0x40040060, 6, 1⟩
def BELL_EVT_TRG_LATE : Fld := ⟨0x40040060, 7, 1⟩
def BELL_EVT_CAP_OVF : Fld := ⟨0x40040060, 8, 1⟩
def BELL_IRQ_EN_EN : Fld := ⟨0x40040064, 0, 9⟩
def BELL_TC_CNT_STAMPED : Fld := ⟨0x40040068, 0, 16⟩
def BELL_TC_CNT_UNLOCKED : Fld := ⟨0x40040068, 16, 16⟩
def BELL_CAP_CTRL_SRC (i : Nat) : Fld := ⟨0x40040100 + 0x10 * i, 0, 7⟩
def BELL_CAP_CTRL_EDGE (i : Nat) : Fld := ⟨0x40040100 + 0x10 * i, 7, 2⟩
def BELL_CAP_STAT_LEVEL (i : Nat) : Fld := ⟨0x40040104 + 0x10 * i, 0, 3⟩
def BELL_CAP_STAT_OVF (i : Nat) : Fld := ⟨0x40040104 + 0x10 * i, 3, 1⟩
def BELL_CAP_STAT_RISE (i : Nat) : Fld := ⟨0x40040104 + 0x10 * i, 4, 1⟩
def BELL_CAP_STAT_FRAC (i : Nat) : Fld := ⟨0x40040104 + 0x10 * i, 16, 16⟩
def BELL_CAP_TS_NS (i : Nat) : Fld := ⟨0x40040108 + 0x10 * i, 0, 64⟩
def BELL_TRG_CTRL_DISARM (i : Nat) : Fld := ⟨0x40040400 + 0x10 * i, 0, 1⟩
def BELL_TRG_CTRL_ARMED (i : Nat) : Fld := ⟨0x40040400 + 0x10 * i, 1, 1⟩
def BELL_TRG_CTRL_FIRED (i : Nat) : Fld := ⟨0x40040400 + 0x10 * i, 2, 1⟩
def BELL_TRG_CTRL_LATE (i : Nat) : Fld := ⟨0x40040400 + 0x10 * i, 3, 1⟩
def BELL_TRG_CTRL_ACTION (i : Nat) : Fld := ⟨0x40040400 + 0x10 * i, 4, 3⟩
def BELL_TRG_CTRL_TARGET (i : Nat) : Fld := ⟨0x40040400 + 0x10 * i, 7, 7⟩
def BELL_TRG_CTRL_OWNER (i : Nat) : Fld := ⟨0x40040400 + 0x10 * i, 16, 2⟩
def BELL_TRG_CTRL_WIDTH (i : Nat) : Fld := ⟨0x40040400 + 0x10 * i, 18, 14⟩
def BELL_TRG_T_T (i : Nat) : Fld := ⟨0x40040404 + 0x10 * i, 0, 40⟩
def BELL_TRG_PER_PERIOD (i : Nat) : Fld := ⟨0x4004040C + 0x10 * i, 0, 32⟩

/-! Fields of the block TRD, base 0x40050000. -/

def TRD_CTRL_EN : Fld := ⟨0x40050000, 0, 1⟩
def TRD_CTRL_MBX_BASE : Fld := ⟨0x40050000, 12, 12⟩
def TRD_TICK_NS_NS : Fld := ⟨0x40050004, 0, 32⟩
def TRD_P1P3_P1_LEN : Fld := ⟨0x40050008, 0, 12⟩
def TRD_P1P3_P3_LEN : Fld := ⟨0x40050008, 16, 12⟩
def TRD_P2P4_P2_LEN : Fld := ⟨0x4005000C, 0, 16⟩
def TRD_P2P4_P4_LEN : Fld := ⟨0x4005000C, 16, 8⟩
def TRD_LANE_BASE (i : Nat) : Fld := ⟨0x40050010 + 0x4 * i, 0, 13⟩
def TRD_LANE_LEN (i : Nat) : Fld := ⟨0x40050010 + 0x4 * i, 16, 14⟩
def TRD_STATUS_PHASE : Fld := ⟨0x40050020, 0, 3⟩
def TRD_STATUS_RUNNING : Fld := ⟨0x40050020, 3, 1⟩
def TRD_STATUS_DONE : Fld := ⟨0x40050020, 4, 4⟩
def TRD_TICKNO_TICK : Fld := ⟨0x40050024, 0, 32⟩
def TRD_P2_USED_LAST : Fld := ⟨0x40050028, 0, 16⟩
def TRD_P2_USED_MAX : Fld := ⟨0x40050028, 16, 16⟩
def TRD_EVT_OVERRUN : Fld := ⟨0x4005002C, 0, 1⟩
def TRD_EVT_P1_LATE : Fld := ⟨0x4005002C, 1, 1⟩
def TRD_EVT_LATE_TICK : Fld := ⟨0x4005002C, 2, 1⟩
def TRD_EVT_SKIP : Fld := ⟨0x4005002C, 3, 1⟩
def TRD_EVT_STEP_WAIT : Fld := ⟨0x4005002C, 4, 1⟩
def TRD_EVT_WCONF : Fld := ⟨0x4005002C, 5, 1⟩
def TRD_EVT_ILLEGAL : Fld := ⟨0x4005002C, 6, 1⟩
def TRD_IRQ_EN_EN : Fld := ⟨0x40050030, 0, 7⟩
def TRD_CNT_OVERRUN : Fld := ⟨0x40050034, 0, 16⟩
def TRD_CNT_LATE_TICK : Fld := ⟨0x40050034, 16, 16⟩
def TRD_ILL_RULE_RULE : Fld := ⟨0x40050038, 0, 13⟩
def TRD_WCONF_OPND : Fld := ⟨0x4005003C, 0, 26⟩
def TRD_WCONF_LANE : Fld := ⟨0x4005003C, 26, 2⟩
def TRD_SCR_W (i : Nat) : Fld := ⟨0x40054000 + 0x4 * i, 0, 32⟩
def TRD_FLG_W (i : Nat) : Fld := ⟨0x40058000 + 0x4 * i, 0, 32⟩
def TRD_IN_W (i : Nat) : Fld := ⟨0x4005A000 + 0x4 * i, 0, 32⟩
def TRD_OUT_W (i : Nat) : Fld := ⟨0x4005C000 + 0x4 * i, 0, 32⟩
def TRD_SPW_W (i : Nat) : Fld := ⟨0x4005C800 + 0x4 * i, 0, 32⟩

/-! Fields of the block DRV, base 0x40060000. -/

def DRV_CTRL_EN : Fld := ⟨0x40060000, 0, 1⟩
def DRV_CTRL_HO_TICKS : Fld := ⟨0x40060000, 8, 4⟩
def DRV_CTRL_HOST_MASK : Fld := ⟨0x40060000, 16, 8⟩
def DRV_CTRL_FLT_EN : Fld := ⟨0x40060000, 24, 3⟩
def DRV_STATUS_LIVE : Fld := ⟨0x40060004, 0, 11⟩
def DRV_STATUS_ACTIVE : Fld := ⟨0x40060004, 11, 1⟩
def DRV_STATUS_TIMED : Fld := ⟨0x40060004, 12, 1⟩
def DRV_STATUS_PEND_N : Fld := ⟨0x40060004, 16, 5⟩
def DRV_EVT_STRAY : Fld := ⟨0x40060008, 0, 1⟩
def DRV_EVT_MISSING : Fld := ⟨0x40060008, 1, 1⟩
def DRV_EVT_DOUBLE : Fld := ⟨0x40060008, 2, 1⟩
def DRV_EVT_LATE_FIRE : Fld := ⟨0x40060008, 3, 1⟩
def DRV_EVT_FULL : Fld := ⟨0x40060008, 4, 1⟩
def DRV_EVT_EVT_OVF : Fld := ⟨0x40060008, 5, 1⟩
def DRV_EVT_SPD_STALE : Fld := ⟨0x40060008, 6, 1⟩
def DRV_EVT_DUP_HO : Fld := ⟨0x40060008, 7, 1⟩
def DRV_IRQ_EN_EN : Fld := ⟨0x4006000C, 0, 8⟩
def DRV_CNT_MATCH_COUNT : Fld := ⟨0x40060010, 0, 32⟩
def DRV_CNT_A_STRAY : Fld := ⟨0x40060014, 0, 16⟩
def DRV_CNT_A_MISSING : Fld := ⟨0x40060014, 16, 16⟩
def DRV_CNT_B_DOUBLE : Fld := ⟨0x40060018, 0, 16⟩
def DRV_CNT_B_LATE_FIRE : Fld := ⟨0x40060018, 16, 16⟩
def DRV_CNT_C_DUP : Fld := ⟨0x4006001C, 0, 16⟩
def DRV_CNT_C_LOST : Fld := ⟨0x4006001C, 16, 16⟩
def DRV_SEQ_NEXT : Fld := ⟨0x40060020, 0, 32⟩
def DRV_OBJ_CNT_NEXT : Fld := ⟨0x40060024, 0, 20⟩
def DRV_DEST_CMD_OBJ_ID : Fld := ⟨0x40060028, 0, 32⟩
def DRV_DEST_CMD_DEST : Fld := ⟨0x40060028, 32, 16⟩
def DRV_DEST_CMD_KEEP : Fld := ⟨0x40060028, 63, 1⟩
def DRV_DEST_STAT_RESULT : Fld := ⟨0x40060030, 0, 3⟩
def DRV_DEST_STAT_INDEX : Fld := ⟨0x40060030, 3, 10⟩
def DRV_BELT_CTRL_KIND (i : Nat) : Fld := ⟨0x40060100 + 0x20 * i, 0, 2⟩
def DRV_BELT_CTRL_QDEC (i : Nat) : Fld := ⟨0x40060100 + 0x20 * i, 2, 4⟩
def DRV_BELT_CTRL_PW (i : Nat) : Fld := ⟨0x40060100 + 0x20 * i, 6, 1⟩
def DRV_BELT_CTRL_SGN (i : Nat) : Fld := ⟨0x40060100 + 0x20 * i, 7, 1⟩
def DRV_BELT_CTRL_ENTRY (i : Nat) : Fld := ⟨0x40060100 + 0x20 * i, 8, 14⟩
def DRV_BELT_CTRL_PIDX (i : Nat) : Fld := ⟨0x40060100 + 0x20 * i, 22, 5⟩
def DRV_BELT_CTRL_FILT (i : Nat) : Fld := ⟨0x40060100 + 0x20 * i, 27, 3⟩
def DRV_BELT_MUL_MUL (i : Nat) : Fld := ⟨0x40060104 + 0x20 * i, 0, 32⟩
def DRV_BELT_SH_SHIFT (i : Nat) : Fld := ⟨0x40060108 + 0x20 * i, 0, 5⟩
def DRV_BELT_SH_VMIN (i : Nat) : Fld := ⟨0x40060108 + 0x20 * i, 8, 24⟩
def DRV_BELT_V_V (i : Nat) : Fld := ⟨0x4006010C + 0x20 * i, 0, 32⟩
def DRV_BELT_POS_POS (i : Nat) : Fld := ⟨0x40060110 + 0x20 * i, 0, 32⟩
def DRV_BELT_STAT_STOPPED (i : Nat) : Fld := ⟨0x40060114 + 0x20 * i, 0, 1⟩
def DRV_BELT_STAT_SPD_HELD (i : Nat) : Fld := ⟨0x40060114 + 0x20 * i, 1, 1⟩
def DRV_SNS_CTRL_EN (i : Nat) : Fld := ⟨0x40060400 + 0x10 * i, 0, 1⟩
def DRV_SNS_CTRL_LINE (i : Nat) : Fld := ⟨0x40060400 + 0x10 * i, 1, 7⟩
def DRV_SNS_CTRL_EDGE (i : Nat) : Fld := ⟨0x40060400 + 0x10 * i, 8, 1⟩
def DRV_SNS_CTRL_ENTRY (i : Nat) : Fld := ⟨0x40060400 + 0x10 * i, 9, 1⟩
def DRV_SNS_CTRL_BELT (i : Nat) : Fld := ⟨0x40060400 + 0x10 * i, 10, 3⟩
def DRV_SNS_CTRL_ONMATCH (i : Nat) : Fld := ⟨0x40060400 + 0x10 * i, 14, 6⟩
def DRV_SNS_CTRL_MISS_POL (i : Nat) : Fld := ⟨0x40060400 + 0x10 * i, 20, 2⟩
def DRV_SNS_POS_POS (i : Nat) : Fld := ⟨0x40060404 + 0x10 * i, 0, 32⟩
def DRV_SNS_WIN_EARLY (i : Nat) : Fld := ⟨0x40060408 + 0x10 * i, 0, 16⟩
def DRV_SNS_WIN_LATE (i : Nat) : Fld := ⟨0x40060408 + 0x10 * i, 16, 16⟩
def DRV_SNS_CNT_MATCH (i : Nat) : Fld := ⟨0x4006040C + 0x10 * i, 0, 16⟩
def DRV_SNS_CNT_STRAY (i : Nat) : Fld := ⟨0x4006040C + 0x10 * i, 16, 16⟩
def DRV_ACT_CTRL_EN (i : Nat) : Fld := ⟨0x40060800 + 0x20 * i, 0, 1⟩
def DRV_ACT_CTRL_SNS (i : Nat) : Fld := ⟨0x40060800 + 0x20 * i, 1, 5⟩
def DRV_ACT_CTRL_MODE (i : Nat) : Fld := ⟨0x40060800 + 0x20 * i, 6, 1⟩
def DRV_ACT_CTRL_TRG_FIRST (i : Nat) : Fld := ⟨0x40060800 + 0x20 * i, 7, 5⟩
def DRV_ACT_CTRL_TRG_N (i : Nat) : Fld := ⟨0x40060800 + 0x20 * i, 12, 3⟩
def DRV_ACT_CTRL_LINE (i : Nat) : Fld := ⟨0x40060800 + 0x20 * i, 15, 7⟩
def DRV_ACT_CTRL_ACTION (i : Nat) : Fld := ⟨0x40060800 + 0x20 * i, 22, 2⟩
def DRV_ACT_CTRL_RETIRE (i : Nat) : Fld := ⟨0x40060800 + 0x20 * i, 24, 1⟩
def DRV_ACT_CTRL_RETRACK (i : Nat) : Fld := ⟨0x40060800 + 0x20 * i, 25, 1⟩
def DRV_ACT_DIST_DIST (i : Nat) : Fld := ⟨0x40060804 + 0x20 * i, 0, 32⟩
def DRV_ACT_OFS_OFS (i : Nat) : Fld := ⟨0x40060808 + 0x20 * i, 0, 32⟩
def DRV_ACT_MATCH_DEST (i : Nat) : Fld := ⟨0x4006080C + 0x20 * i, 0, 16⟩
def DRV_ACT_MATCH_MASK (i : Nat) : Fld := ⟨0x4006080C + 0x20 * i, 16, 16⟩
def DRV_ACT_COND_LCLS_MASK (i : Nat) : Fld := ⟨0x40060810 + 0x20 * i, 0, 16⟩
def DRV_ACT_COND_LATE_MAX (i : Nat) : Fld := ⟨0x40060810 + 0x20 * i, 16, 16⟩
def DRV_HO_OUT_PIDX (i : Nat) : Fld := ⟨0x40061000 + 0x8 * i, 0, 8⟩
def DRV_HO_OUT_WAIT (i : Nat) : Fld := ⟨0x40061000 + 0x8 * i, 8, 11⟩
def DRV_HO_OUT_EN (i : Nat) : Fld := ⟨0x40061000 + 0x8 * i, 31, 1⟩
def DRV_HO_IN_ENTRY (i : Nat) : Fld := ⟨0x40061040 + 0x8 * i, 0, 14⟩
def DRV_HO_IN_SNS (i : Nat) : Fld := ⟨0x40061040 + 0x8 * i, 14, 5⟩
def DRV_HO_IN_BELT (i : Nat) : Fld := ⟨0x40061040 + 0x8 * i, 19, 3⟩
def DRV_HO_IN_EN (i : Nat) : Fld := ⟨0x40061040 + 0x8 * i, 31, 1⟩
def DRV_HO_DIST_DIST (i : Nat) : Fld := ⟨0x40061044 + 0x8 * i, 0, 32⟩
def DRV_REC_OBJ_ID (i : Nat) : Fld := ⟨0x40064000 + 0x30 * i, 0, 32⟩
def DRV_REC_SEQN_SEQ (i : Nat) : Fld := ⟨0x40064004 + 0x30 * i, 0, 32⟩
def DRV_REC_ENTRY_T (i : Nat) : Fld := ⟨0x40064008 + 0x30 * i, 0, 64⟩
def DRV_REC_ATTR_DEST (i : Nat) : Fld := ⟨0x40064010 + 0x30 * i, 0, 16⟩
def DRV_REC_ATTR_LCLS (i : Nat) : Fld := ⟨0x40064010 + 0x30 * i, 16, 4⟩
def DRV_REC_ATTR_USER (i : Nat) : Fld := ⟨0x40064010 + 0x30 * i, 32, 32⟩
def DRV_REC_LASTT_T (i : Nat) : Fld := ⟨0x40064018 + 0x30 * i, 0, 64⟩
def DRV_REC_ANCH_P (i : Nat) : Fld := ⟨0x40064020 + 0x30 * i, 0, 32⟩
def DRV_REC_ST_STATE (i : Nat) : Fld := ⟨0x40064024 + 0x30 * i, 0, 3⟩
def DRV_REC_ST_NEXT (i : Nat) : Fld := ⟨0x40064024 + 0x30 * i, 3, 5⟩
def DRV_REC_ST_LAST (i : Nat) : Fld := ⟨0x40064024 + 0x30 * i, 8, 5⟩
def DRV_REC_ST_LAST_V (i : Nat) : Fld := ⟨0x40064024 + 0x30 * i, 13, 1⟩
def DRV_REC_ST_BELT (i : Nat) : Fld := ⟨0x40064024 + 0x30 * i, 14, 3⟩
def DRV_REC_ST_DEST_SET (i : Nat) : Fld := ⟨0x40064024 + 0x30 * i, 17, 1⟩
def DRV_REC_ST_HOCH (i : Nat) : Fld := ⟨0x40064024 + 0x30 * i, 18, 2⟩
def DRV_REC_ST_FROM (i : Nat) : Fld := ⟨0x40064024 + 0x30 * i, 20, 12⟩
def DRV_REC_DCL_T (i : Nat) : Fld := ⟨0x40064028 + 0x30 * i, 0, 32⟩
def DRV_REC_CTR_HO_LEFT (i : Nat) : Fld := ⟨0x4006402C + 0x30 * i, 0, 4⟩
def DRV_REC_CTR_MISSES (i : Nat) : Fld := ⟨0x4006402C + 0x30 * i, 4, 4⟩
def DRV_REC_CTR_WIN_OPEN (i : Nat) : Fld := ⟨0x4006402C + 0x30 * i, 8, 1⟩

/-! Fields of the block XB, base 0x40070000. -/

def XB_CTRL_CT_EN : Fld := ⟨0x40070000, 0, 1⟩
def XB_CTRL_BCAST_PATH : Fld := ⟨0x40070000, 1, 2⟩
def XB_STATUS_FREE : Fld := ⟨0x40070004, 0, 17⟩
def XB_STATUS_OVERLOAD : Fld := ⟨0x40070004, 17, 1⟩
def XB_STATUS_FLT_OVF_A : Fld := ⟨0x40070004, 18, 1⟩
def XB_STATUS_FLT_OVF_B : Fld := ⟨0x40070004, 19, 1⟩
def XB_EVT_OVERLOAD : Fld := ⟨0x40070008, 0, 1⟩
def XB_EVT_STOMP : Fld := ⟨0x40070008, 1, 1⟩
def XB_EVT_ROUTE : Fld := ⟨0x40070008, 2, 1⟩
def XB_EVT_NO_ROUTE : Fld := ⟨0x40070008, 3, 1⟩
def XB_EVT_HDR_ERR : Fld := ⟨0x40070008, 4, 1⟩
def XB_EVT_HOP : Fld := ⟨0x40070008, 5, 1⟩
def XB_EVT_MC_PARTIAL : Fld := ⟨0x40070008, 6, 1⟩
def XB_EVT_DROP : Fld := ⟨0x40070008, 7, 1⟩
def XB_IRQ_EN_EN : Fld := ⟨0x4007000C, 0, 8⟩
def XB_OVL_CFG_SET_THR : Fld := ⟨0x40070010, 0, 16⟩
def XB_OVL_CFG_CLR_THR : Fld := ⟨0x40070010, 16, 16⟩
def XB_STOMP_CFG_STOMP_THR : Fld := ⟨0x40070014, 0, 16⟩
def XB_CNT_HDR_HDR_ERR : Fld := ⟨0x40070018, 0, 16⟩
def XB_CNT_HDR_HOP : Fld := ⟨0x40070018, 16, 16⟩
def XB_CNT_RT_NO_ROUTE : Fld := ⟨0x4007001C, 0, 16⟩
def XB_CNT_RT_MC_PARTIAL : Fld := ⟨0x4007001C, 16, 16⟩
def XB_CNT_TAIL_BAD_HERE : Fld := ⟨0x40070020, 0, 16⟩
def XB_CNT_TAIL_BAD_RX : Fld := ⟨0x40070020, 16, 16⟩
def XB_RING_N_N_A : Fld := ⟨0x40070024, 0, 12⟩
def XB_RING_N_N_B : Fld := ⟨0x40070024, 16, 12⟩
def XB_FLT_LINK (i : Nat) : Fld := ⟨0x40070040 + 0x4 * i, 0, 12⟩
def XB_FLT_VALID (i : Nat) : Fld := ⟨0x40070040 + 0x4 * i, 31, 1⟩
def XB_Q_CFG_MIN (i : Nat) : Fld := ⟨0x40070400 + 0x10 * i, 0, 12⟩
def XB_Q_CFG_ALPHA (i : Nat) : Fld := ⟨0x40070400 + 0x10 * i, 12, 4⟩
def XB_Q_CFG_QMAX (i : Nat) : Fld := ⟨0x40070400 + 0x10 * i, 16, 16⟩
def XB_Q_SCHED_QUANTUM (i : Nat) : Fld := ⟨0x40070404 + 0x10 * i, 0, 16⟩
def XB_Q_SHAPE_RATE (i : Nat) : Fld := ⟨0x40070408 + 0x10 * i, 0, 16⟩
def XB_Q_SHAPE_BURST (i : Nat) : Fld := ⟨0x40070408 + 0x10 * i, 16, 16⟩
def XB_Q_STAT_DEPTH (i : Nat) : Fld := ⟨0x4007040C + 0x10 * i, 0, 16⟩
def XB_Q_STAT_DROP (i : Nat) : Fld := ⟨0x4007040C + 0x10 * i, 16, 16⟩
def XB_POL_CIR (i j : Nat) : Fld := ⟨0x40070800 + 0x20 * i + 0x4 * j, 0, 16⟩
def XB_POL_CBS (i j : Nat) : Fld := ⟨0x40070800 + 0x20 * i + 0x4 * j, 16, 16⟩
def XB_POL_DROP_COUNT (i : Nat) : Fld := ⟨0x40070900 + 0x4 * i, 0, 32⟩
def XB_MCAST_LOCAL (i : Nat) : Fld := ⟨0x40070C00 + 0x4 * i, 0, 4⟩
def XB_MCAST_PATH (i : Nat) : Fld := ⟨0x40070C00 + 0x4 * i, 4, 2⟩
def XB_MCAST_EN (i : Nat) : Fld := ⟨0x40070C00 + 0x4 * i, 31, 1⟩
def XB_RT_W (i : Nat) : Fld := ⟨0x40072000 + 0x4 * i, 0, 32⟩
def XB_RTDEF_W (i : Nat) : Fld := ⟨0x40072400 + 0x4 * i, 0, 32⟩
def XB_REACH_W (i : Nat) : Fld := ⟨0x40072800 + 0x4 * i, 0, 32⟩
def XB_POSA_W (i : Nat) : Fld := ⟨0x40074000 + 0x4 * i, 0, 32⟩
def XB_POSB_W (i : Nat) : Fld := ⟨0x40076000 + 0x4 * i, 0, 32⟩

/-! Fields of the block TAP, base 0x40080000. -/

def TAP_CTRL_EN : Fld := ⟨0x40080000, 0, 1⟩
def TAP_CTRL_STOP : Fld := ⟨0x40080000, 1, 1⟩
def TAP_CTRL_MIR_EN : Fld := ⟨0x40080000, 2, 1⟩
def TAP_CTRL_MIR_SPUR : Fld := ⟨0x40080000, 3, 1⟩
def TAP_WPTR_ENTRY : Fld := ⟨0x40080004, 0, 12⟩
def TAP_RPTR_ENTRY : Fld := ⟨0x40080008, 0, 12⟩
def TAP_LOST_COUNT : Fld := ⟨0x4008000C, 0, 32⟩
def TAP_SAMPLE_N (i : Nat) : Fld := ⟨0x40080010 + 0x4 * i, 0, 16⟩
def TAP_SAMPLE_DIR (i : Nat) : Fld := ⟨0x40080010 + 0x4 * i, 16, 2⟩
def TAP_MIR_MAC_MAC : Fld := ⟨0x400800C0, 0, 48⟩
def TAP_MIR_DROP_COUNT : Fld := ⟨0x400800C8, 0, 32⟩
def TAP_RULE0_PORTS (i : Nat) : Fld := ⟨0x40080040 + 0x10 * i, 0, 8⟩
def TAP_RULE0_DIR (i : Nat) : Fld := ⟨0x40080040 + 0x10 * i, 8, 2⟩
def TAP_RULE0_MIRROR (i : Nat) : Fld := ⟨0x40080040 + 0x10 * i, 10, 1⟩
def TAP_RULE0_BAD_ONLY (i : Nat) : Fld := ⟨0x40080040 + 0x10 * i, 11, 1⟩
def TAP_RULE0_EN (i : Nat) : Fld := ⟨0x40080040 + 0x10 * i, 31, 1⟩
def TAP_RULE1_TYPE (i : Nat) : Fld := ⟨0x40080044 + 0x10 * i, 0, 8⟩
def TAP_RULE1_TYPE_MASK (i : Nat) : Fld := ⟨0x40080044 + 0x10 * i, 8, 8⟩
def TAP_RULE1_TC_MASK (i : Nat) : Fld := ⟨0x40080044 + 0x10 * i, 16, 8⟩
def TAP_RULE2_SRC (i : Nat) : Fld := ⟨0x40080048 + 0x10 * i, 0, 12⟩
def TAP_RULE2_SRC_ANY (i : Nat) : Fld := ⟨0x40080048 + 0x10 * i, 12, 1⟩
def TAP_RULE2_DST (i : Nat) : Fld := ⟨0x40080048 + 0x10 * i, 16, 12⟩
def TAP_RULE2_DST_ANY (i : Nat) : Fld := ⟨0x40080048 + 0x10 * i, 28, 1⟩
def TAP_RULE3_FLOW (i : Nat) : Fld := ⟨0x4008004C + 0x10 * i, 0, 16⟩
def TAP_RULE3_FLOW_MASK (i : Nat) : Fld := ⟨0x4008004C + 0x10 * i, 16, 16⟩

/-! Fields of the block SPR, base 0x40090000. -/

def SPR_CTRL_MODE (i : Nat) : Fld := ⟨0x40090000 + 0x100 * i, 0, 2⟩
def SPR_CTRL_AN_EN (i : Nat) : Fld := ⟨0x40090000 + 0x100 * i, 2, 1⟩
def SPR_CTRL_PAUSE_RX (i : Nat) : Fld := ⟨0x40090000 + 0x100 * i, 3, 1⟩
def SPR_CTRL_PAUSE_TX (i : Nat) : Fld := ⟨0x40090000 + 0x100 * i, 4, 1⟩
def SPR_CTRL_NATIVE_EN (i : Nat) : Fld := ⟨0x40090000 + 0x100 * i, 5, 1⟩
def SPR_CTRL_TC_EN (i : Nat) : Fld := ⟨0x40090000 + 0x100 * i, 6, 1⟩
def SPR_STAT_LINK (i : Nat) : Fld := ⟨0x40090004 + 0x100 * i, 0, 1⟩
def SPR_STAT_SPEED (i : Nat) : Fld := ⟨0x40090004 + 0x100 * i, 1, 2⟩
def SPR_STAT_PAUSED (i : Nat) : Fld := ⟨0x40090004 + 0x100 * i, 3, 1⟩
def SPR_STAT_XOFF (i : Nat) : Fld := ⟨0x40090004 + 0x100 * i, 4, 1⟩
def SPR_PCP_MAP_MAP (i : Nat) : Fld := ⟨0x40090008 + 0x100 * i, 0, 16⟩
def SPR_DEFAULT_HUB (i : Nat) : Fld := ⟨0x4009000C + 0x100 * i, 0, 12⟩
def SPR_DEFAULT_DPORT (i : Nat) : Fld := ⟨0x4009000C + 0x100 * i, 12, 4⟩
def SPR_DEFAULT_GROUP (i : Nat) : Fld := ⟨0x4009000C + 0x100 * i, 16, 8⟩
def SPR_DEFAULT_ACT (i : Nat) : Fld := ⟨0x4009000C + 0x100 * i, 24, 2⟩
def SPR_PAUSE_XOFF (i : Nat) : Fld := ⟨0x40090010 + 0x100 * i, 0, 16⟩
def SPR_PAUSE_XON (i : Nat) : Fld := ⟨0x40090010 + 0x100 * i, 16, 16⟩
def SPR_HOST_MAC_MAC (i : Nat) : Fld := ⟨0x40090018 + 0x100 * i, 0, 48⟩
def SPR_CNT_RX_COUNT (i : Nat) : Fld := ⟨0x40090020 + 0x100 * i, 0, 32⟩
def SPR_CNT_TX_COUNT (i : Nat) : Fld := ⟨0x40090024 + 0x100 * i, 0, 32⟩
def SPR_CNT_ERR_FCS (i : Nat) : Fld := ⟨0x40090028 + 0x100 * i, 0, 16⟩
def SPR_CNT_ERR_DROP (i : Nat) : Fld := ⟨0x40090028 + 0x100 * i, 16, 16⟩
def SPR_MAC_MAC : Fld := ⟨0x40090800, 0, 48⟩
def SPR_MDIO_DATA : Fld := ⟨0x40090808, 0, 16⟩
def SPR_MDIO_REG : Fld := ⟨0x40090808, 16, 5⟩
def SPR_MDIO_PHY : Fld := ⟨0x40090808, 21, 5⟩
def SPR_MDIO_OP : Fld := ⟨0x40090808, 26, 2⟩
def SPR_MDIO_GO : Fld := ⟨0x40090808, 31, 1⟩
def SPR_TUN0_MAC_LO (i : Nat) : Fld := ⟨0x40091000 + 0x10 * i, 0, 32⟩
def SPR_TUN1_MAC_HI (i : Nat) : Fld := ⟨0x40091004 + 0x10 * i, 0, 16⟩
def SPR_TUN1_VLAN (i : Nat) : Fld := ⟨0x40091004 + 0x10 * i, 16, 12⟩
def SPR_TUN1_VLAN_ANY (i : Nat) : Fld := ⟨0x40091004 + 0x10 * i, 28, 1⟩
def SPR_TUN1_SPURS (i : Nat) : Fld := ⟨0x40091004 + 0x10 * i, 29, 2⟩
def SPR_TUN1_EN (i : Nat) : Fld := ⟨0x40091004 + 0x10 * i, 31, 1⟩
def SPR_TUN2_HUB (i : Nat) : Fld := ⟨0x40091008 + 0x10 * i, 0, 12⟩
def SPR_TUN2_DPORT (i : Nat) : Fld := ⟨0x40091008 + 0x10 * i, 12, 4⟩
def SPR_TUN2_GROUP (i : Nat) : Fld := ⟨0x40091008 + 0x10 * i, 16, 8⟩
def SPR_TUN2_GRP (i : Nat) : Fld := ⟨0x40091008 + 0x10 * i, 24, 1⟩

/-! Fields of the block CHN, base 0x400A0000. -/

def CHN_CFG_MODE (i : Nat) : Fld := ⟨0x400A0000 + 0x400 * i, 0, 3⟩
def CHN_CFG_START_EN (i : Nat) : Fld := ⟨0x400A0000 + 0x400 * i, 3, 1⟩
def CHN_CFG_RXQ_EN (i : Nat) : Fld := ⟨0x400A0000 + 0x400 * i, 4, 1⟩
def CHN_CFG_FWD_EN (i : Nat) : Fld := ⟨0x400A0000 + 0x400 * i, 5, 1⟩
def CHN_CFG_MIS_FLAG (i : Nat) : Fld := ⟨0x400A0000 + 0x400 * i, 6, 1⟩
def CHN_CFG_TXQ_U (i : Nat) : Fld := ⟨0x400A0000 + 0x400 * i, 8, 4⟩
def CHN_CFG_QCTX (i : Nat) : Fld := ⟨0x400A0000 + 0x400 * i, 12, 6⟩
def CHN_CFG_QUSE (i : Nat) : Fld := ⟨0x400A0000 + 0x400 * i, 18, 2⟩
def CHN_CLK_DIV (i : Nat) : Fld := ⟨0x400A0004 + 0x400 * i, 0, 24⟩
def CHN_CSX_CS1_DIO (i : Nat) : Fld := ⟨0x400A000C + 0x400 * i, 0, 7⟩
def CHN_CSX_CS1_EN (i : Nat) : Fld := ⟨0x400A000C + 0x400 * i, 7, 1⟩
def CHN_CSX_CS2_DIO (i : Nat) : Fld := ⟨0x400A000C + 0x400 * i, 8, 7⟩
def CHN_CSX_CS2_EN (i : Nat) : Fld := ⟨0x400A000C + 0x400 * i, 15, 1⟩
def CHN_CSX_CS3_DIO (i : Nat) : Fld := ⟨0x400A000C + 0x400 * i, 16, 7⟩
def CHN_CSX_CS3_EN (i : Nat) : Fld := ⟨0x400A000C + 0x400 * i, 23, 1⟩
def CHN_RXEND_END (i : Nat) : Fld := ⟨0x400A0010 + 0x400 * i, 0, 2⟩
def CHN_RXEND_DELIM (i : Nat) : Fld := ⟨0x400A0010 + 0x400 * i, 2, 8⟩
def CHN_RXEND_GAP (i : Nat) : Fld := ⟨0x400A0010 + 0x400 * i, 10, 8⟩
def CHN_RXEND_RX_MAX (i : Nat) : Fld := ⟨0x400A0010 + 0x400 * i, 18, 9⟩
def CHN_FWD_HUB (i : Nat) : Fld := ⟨0x400A0014 + 0x400 * i, 0, 12⟩
def CHN_FWD_DPORT (i : Nat) : Fld := ⟨0x400A0014 + 0x400 * i, 12, 4⟩
def CHN_PL_COUNT (i : Nat) : Fld := ⟨0x400A0018 + 0x400 * i, 0, 7⟩
def CHN_PL_PERIOD (i : Nat) : Fld := ⟨0x400A0018 + 0x400 * i, 8, 8⟩
def CHN_PL_PHASE (i : Nat) : Fld := ⟨0x400A0018 + 0x400 * i, 16, 8⟩
def CHN_PL_RETRY (i : Nat) : Fld := ⟨0x400A0018 + 0x400 * i, 24, 3⟩
def CHN_PL2_FIRST (i : Nat) : Fld := ⟨0x400A001C + 0x400 * i, 0, 12⟩
def CHN_PL2_TGAP (i : Nat) : Fld := ⟨0x400A001C + 0x400 * i, 16, 12⟩
def CHN_CMD_ENABLE (i : Nat) : Fld := ⟨0x400A0020 + 0x400 * i, 0, 1⟩
def CHN_CMD_DISABLE (i : Nat) : Fld := ⟨0x400A0020 + 0x400 * i, 1, 1⟩
def CHN_CMD_FLUSH_TX (i : Nat) : Fld := ⟨0x400A0020 + 0x400 * i, 2, 1⟩
def CHN_CMD_FLUSH_RX (i : Nat) : Fld := ⟨0x400A0020 + 0x400 * i, 3, 1⟩
def CHN_CMD_POP_RX (i : Nat) : Fld := ⟨0x400A0020 + 0x400 * i, 4, 1⟩
def CHN_STAT_STATE (i : Nat) : Fld := ⟨0x400A0024 + 0x400 * i, 0, 3⟩
def CHN_STAT_DIS (i : Nat) : Fld := ⟨0x400A0024 + 0x400 * i, 3, 1⟩
def CHN_STAT_PEND_ON (i : Nat) : Fld := ⟨0x400A0024 + 0x400 * i, 4, 1⟩
def CHN_STAT_BUSY (i : Nat) : Fld := ⟨0x400A0024 + 0x400 * i, 5, 1⟩
def CHN_STAT_CUR (i : Nat) : Fld := ⟨0x400A0024 + 0x400 * i, 6, 6⟩
def CHN_STAT_BUS_STUCK (i : Nat) : Fld := ⟨0x400A0024 + 0x400 * i, 12, 1⟩
def CHN_STAT_TXQ_N (i : Nat) : Fld := ⟨0x400A0024 + 0x400 * i, 16, 8⟩
def CHN_STAT_RXQ_N (i : Nat) : Fld := ⟨0x400A0024 + 0x400 * i, 24, 8⟩
def CHN_EVT_POLL_FAIL (i : Nat) : Fld := ⟨0x400A0028 + 0x400 * i, 0, 1⟩
def CHN_EVT_OVERRUN (i : Nat) : Fld := ⟨0x400A0028 + 0x400 * i, 1, 1⟩
def CHN_EVT_RXQ_OVF (i : Nat) : Fld := ⟨0x400A0028 + 0x400 * i, 2, 1⟩
def CHN_EVT_TXQ_FULL (i : Nat) : Fld := ⟨0x400A0028 + 0x400 * i, 3, 1⟩
def CHN_EVT_LINE (i : Nat) : Fld := ⟨0x400A0028 + 0x400 * i, 4, 1⟩
def CHN_EVT_ASY_MIS (i : Nat) : Fld := ⟨0x400A0028 + 0x400 * i, 5, 1⟩
def CHN_EVT_STOPPED (i : Nat) : Fld := ⟨0x400A0028 + 0x400 * i, 6, 1⟩
def CHN_IRQ_EN_EN (i : Nat) : Fld := ⟨0x400A002C + 0x400 * i, 0, 7⟩
def CHN_CNT_A_FAIL (i : Nat) : Fld := ⟨0x400A0030 + 0x400 * i, 0, 16⟩
def CHN_CNT_A_RETRY (i : Nat) : Fld := ⟨0x400A0030 + 0x400 * i, 16, 16⟩
def CHN_CNT_B_OVERRUN (i : Nat) : Fld := ⟨0x400A0034 + 0x400 * i, 0, 16⟩
def CHN_CNT_B_LINE_ERR (i : Nat) : Fld := ⟨0x400A0034 + 0x400 * i, 16, 16⟩
def CHN_CNT_C_RX_DROP (i : Nat) : Fld := ⟨0x400A0038 + 0x400 * i, 0, 16⟩
def CHN_CNT_C_TX_ABORT (i : Nat) : Fld := ⟨0x400A0038 + 0x400 * i, 16, 16⟩
def CHN_PL_TIME_LAST (i : Nat) : Fld := ⟨0x400A003C + 0x400 * i, 0, 16⟩
def CHN_PL_TIME_MAX (i : Nat) : Fld := ⟨0x400A003C + 0x400 * i, 16, 16⟩
def CHN_TXPUSH_LEN (i : Nat) : Fld := ⟨0x400A0040 + 0x400 * i, 0, 9⟩
def CHN_RXHDR_LEN (i : Nat) : Fld := ⟨0x400A0044 + 0x400 * i, 0, 9⟩
def CHN_RXHDR_VALID (i : Nat) : Fld := ⟨0x400A0044 + 0x400 * i, 9, 1⟩
def CHN_RXHDR_CHECK (i : Nat) : Fld := ⟨0x400A0044 + 0x400 * i, 10, 1⟩
def CHN_RXHDR_TRUNC (i : Nat) : Fld := ⟨0x400A0044 + 0x400 * i, 11, 1⟩
def CHN_RXHDR_LINE (i : Nat) : Fld := ⟨0x400A0044 + 0x400 * i, 12, 1⟩
def CHN_RXTS_NS (i : Nat) : Fld := ⟨0x400A0048 + 0x400 * i, 0, 64⟩
def CHN_PM_ADDR_WORD : Fld := ⟨0x400AC000, 0, 16⟩
def CHN_PM_ADDR_INC : Fld := ⟨0x400AC000, 31, 1⟩
def CHN_PM_DATA_DATA : Fld := ⟨0x400AC004, 0, 32⟩
def CHN_STATUS_FAILN : Fld := ⟨0x400AC008, 0, 12⟩
def CHN_MODEP_P (i : Nat) : Fld := ⟨0x400A0008 + 0x400 * i, 0, 32⟩
def CHN_TXW_DATA (i j : Nat) : Fld := ⟨0x400A0100 + 0x400 * i + 0x4 * j, 0, 32⟩
def CHN_RXW_DATA (i j : Nat) : Fld := ⟨0x400A0280 + 0x400 * i + 0x4 * j, 0, 32⟩

/-! Fields of the block CAN, base 0x400B0000. -/

def CAN_CTRL_START_EN (i : Nat) : Fld := ⟨0x400B0000 + 0x400 * i, 0, 1⟩
def CAN_CTRL_FD_EN (i : Nat) : Fld := ⟨0x400B0000 + 0x400 * i, 1, 1⟩
def CAN_CTRL_LISTEN (i : Nat) : Fld := ⟨0x400B0000 + 0x400 * i, 2, 1⟩
def CAN_CTRL_TXORD (i : Nat) : Fld := ⟨0x400B0000 + 0x400 * i, 3, 1⟩
def CAN_CTRL_AUTO_REC (i : Nat) : Fld := ⟨0x400B0000 + 0x400 * i, 4, 1⟩
def CAN_CTRL_AUTO_DET (i : Nat) : Fld := ⟨0x400B0000 + 0x400 * i, 5, 1⟩
def CAN_CTRL_DET_RUN (i : Nat) : Fld := ⟨0x400B0000 + 0x400 * i, 6, 1⟩
def CAN_CTRL_FIFO_OW (i : Nat) : Fld := ⟨0x400B0000 + 0x400 * i, 7, 1⟩
def CAN_CTRL_ACC_NM (i : Nat) : Fld := ⟨0x400B0000 + 0x400 * i, 8, 1⟩
def CAN_CTRL_FWD_EN (i : Nat) : Fld := ⟨0x400B0000 + 0x400 * i, 9, 1⟩
def CAN_CTRL_SCHED_EN (i : Nat) : Fld := ⟨0x400B0000 + 0x400 * i, 10, 1⟩
def CAN_CTRL_SBUF (i : Nat) : Fld := ⟨0x400B0000 + 0x400 * i, 11, 2⟩
def CAN_NBT_BRP (i : Nat) : Fld := ⟨0x400B0004 + 0x400 * i, 0, 6⟩
def CAN_NBT_TSEG1 (i : Nat) : Fld := ⟨0x400B0004 + 0x400 * i, 6, 8⟩
def CAN_NBT_TSEG2 (i : Nat) : Fld := ⟨0x400B0004 + 0x400 * i, 14, 7⟩
def CAN_NBT_SJW (i : Nat) : Fld := ⟨0x400B0004 + 0x400 * i, 21, 7⟩
def CAN_DBT_BRP (i : Nat) : Fld := ⟨0x400B0008 + 0x400 * i, 0, 6⟩
def CAN_DBT_TSEG1 (i : Nat) : Fld := ⟨0x400B0008 + 0x400 * i, 6, 6⟩
def CAN_DBT_TSEG2 (i : Nat) : Fld := ⟨0x400B0008 + 0x400 * i, 12, 5⟩
def CAN_DBT_SJW (i : Nat) : Fld := ⟨0x400B0008 + 0x400 * i, 17, 5⟩
def CAN_DBT_TDCO (i : Nat) : Fld := ⟨0x400B0008 + 0x400 * i, 22, 7⟩
def CAN_DBT_TDC_EN (i : Nat) : Fld := ⟨0x400B0008 + 0x400 * i, 29, 1⟩
def CAN_DET_NCAND_M1 (i : Nat) : Fld := ⟨0x400B000C + 0x400 * i, 0, 3⟩
def CAN_DET_DWELL (i : Nat) : Fld := ⟨0x400B000C + 0x400 * i, 8, 8⟩
def CAN_DET_DET_TMO (i : Nat) : Fld := ⟨0x400B000C + 0x400 * i, 16, 16⟩
def CAN_FWD_HUB (i : Nat) : Fld := ⟨0x400B0010 + 0x400 * i, 0, 12⟩
def CAN_FWD_DPORT (i : Nat) : Fld := ⟨0x400B0010 + 0x400 * i, 12, 4⟩
def CAN_CMD_ENABLE (i : Nat) : Fld := ⟨0x400B0014 + 0x400 * i, 0, 1⟩
def CAN_CMD_DISABLE (i : Nat) : Fld := ⟨0x400B0014 + 0x400 * i, 1, 1⟩
def CAN_CMD_RECOVER (i : Nat) : Fld := ⟨0x400B0014 + 0x400 * i, 2, 1⟩
def CAN_CMD_POP_RX (i : Nat) : Fld := ⟨0x400B0014 + 0x400 * i, 3, 1⟩
def CAN_CMD_FLUSH_RX (i : Nat) : Fld := ⟨0x400B0014 + 0x400 * i, 4, 1⟩
def CAN_STAT_STATE (i : Nat) : Fld := ⟨0x400B0018 + 0x400 * i, 0, 4⟩
def CAN_STAT_ERR (i : Nat) : Fld := ⟨0x400B0018 + 0x400 * i, 4, 2⟩
def CAN_STAT_RATE_IDX (i : Nat) : Fld := ⟨0x400B0018 + 0x400 * i, 6, 3⟩
def CAN_STAT_DIS (i : Nat) : Fld := ⟨0x400B0018 + 0x400 * i, 9, 1⟩
def CAN_STAT_PEND_ON (i : Nat) : Fld := ⟨0x400B0018 + 0x400 * i, 10, 1⟩
def CAN_STAT_RXF_N (i : Nat) : Fld := ⟨0x400B0018 + 0x400 * i, 16, 6⟩
def CAN_STAT_SQ_N (i : Nat) : Fld := ⟨0x400B0018 + 0x400 * i, 22, 4⟩
def CAN_ERRC_TEC (i : Nat) : Fld := ⟨0x400B001C + 0x400 * i, 0, 9⟩
def CAN_ERRC_REC (i : Nat) : Fld := ⟨0x400B001C + 0x400 * i, 16, 8⟩
def CAN_ERRC_LEC (i : Nat) : Fld := ⟨0x400B001C + 0x400 * i, 24, 3⟩
def CAN_ERRC_LEC_DATA (i : Nat) : Fld := ⟨0x400B001C + 0x400 * i, 27, 1⟩
def CAN_EVT_BUS_OFF (i : Nat) : Fld := ⟨0x400B0020 + 0x400 * i, 0, 1⟩
def CAN_EVT_PASSIVE (i : Nat) : Fld := ⟨0x400B0020 + 0x400 * i, 1, 1⟩
def CAN_EVT_RECOVERED (i : Nat) : Fld := ⟨0x400B0020 + 0x400 * i, 2, 1⟩
def CAN_EVT_RX_OVF (i : Nat) : Fld := ⟨0x400B0020 + 0x400 * i, 3, 1⟩
def CAN_EVT_RATE_LOCK (i : Nat) : Fld := ⟨0x400B0020 + 0x400 * i, 4, 1⟩
def CAN_EVT_DET_SLOW (i : Nat) : Fld := ⟨0x400B0020 + 0x400 * i, 5, 1⟩
def CAN_EVT_SCHED_DROP (i : Nat) : Fld := ⟨0x400B0020 + 0x400 * i, 6, 1⟩
def CAN_EVT_STOPPED (i : Nat) : Fld := ⟨0x400B0020 + 0x400 * i, 7, 1⟩
def CAN_EVT_PROTO_ERR (i : Nat) : Fld := ⟨0x400B0020 + 0x400 * i, 8, 1⟩
def CAN_IRQ_EN_EN (i : Nat) : Fld := ⟨0x400B0024 + 0x400 * i, 0, 9⟩
def CAN_CNT_A_RX_OK (i : Nat) : Fld := ⟨0x400B0028 + 0x400 * i, 0, 32⟩
def CAN_CNT_B_TX_OK (i : Nat) : Fld := ⟨0x400B002C + 0x400 * i, 0, 32⟩
def CAN_CNT_C_RX_OVF (i : Nat) : Fld := ⟨0x400B0030 + 0x400 * i, 0, 8⟩
def CAN_CNT_C_TXB_REJ (i : Nat) : Fld := ⟨0x400B0030 + 0x400 * i, 8, 8⟩
def CAN_CNT_C_SCHED_DROP (i : Nat) : Fld := ⟨0x400B0030 + 0x400 * i, 16, 8⟩
def CAN_CNT_C_SCHED_LATE (i : Nat) : Fld := ⟨0x400B0030 + 0x400 * i, 24, 8⟩
def CAN_CNT_D_ERR_NOM (i : Nat) : Fld := ⟨0x400B0034 + 0x400 * i, 0, 12⟩
def CAN_CNT_D_ERR_DATA (i : Nat) : Fld := ⟨0x400B0034 + 0x400 * i, 12, 12⟩
def CAN_CNT_D_DET_PASS (i : Nat) : Fld := ⟨0x400B0034 + 0x400 * i, 24, 8⟩
def CAN_TXB_CTRL_REQ (i j : Nat) : Fld := ⟨0x400B0080 + 0x400 * i + 0x10 * j, 0, 1⟩
def CAN_TXB_CTRL_CANCEL (i j : Nat) : Fld := ⟨0x400B0080 + 0x400 * i + 0x10 * j, 1, 1⟩
def CAN_TXB_CTRL_PEND (i j : Nat) : Fld := ⟨0x400B0080 + 0x400 * i + 0x10 * j, 2, 1⟩
def CAN_TXB_CTRL_SOF (i j : Nat) : Fld := ⟨0x400B0080 + 0x400 * i + 0x10 * j, 3, 1⟩
def CAN_TXB_CTRL_DONE (i j : Nat) : Fld := ⟨0x400B0080 + 0x400 * i + 0x10 * j, 4, 1⟩
def CAN_TXB_CTRL_CANCELLED (i j : Nat) : Fld := ⟨0x400B0080 + 0x400 * i + 0x10 * j, 5, 1⟩
def CAN_TXB_HDR_ID (i j : Nat) : Fld := ⟨0x400B0084 + 0x400 * i + 0x10 * j, 0, 29⟩
def CAN_TXB_HDR_IDE (i j : Nat) : Fld := ⟨0x400B0084 + 0x400 * i + 0x10 * j, 29, 1⟩
def CAN_TXB_HDR_RTR (i j : Nat) : Fld := ⟨0x400B0084 + 0x400 * i + 0x10 * j, 30, 1⟩
def CAN_TXB_FMT_DLC (i j : Nat) : Fld := ⟨0x400B0088 + 0x400 * i + 0x10 * j, 0, 4⟩
def CAN_TXB_FMT_FDF (i j : Nat) : Fld := ⟨0x400B0088 + 0x400 * i + 0x10 * j, 4, 1⟩
def CAN_TXB_FMT_BRS (i j : Nat) : Fld := ⟨0x400B0088 + 0x400 * i + 0x10 * j, 5, 1⟩
def CAN_RXHDR_LEN (i : Nat) : Fld := ⟨0x400B0280 + 0x400 * i, 0, 7⟩
def CAN_RXHDR_VALID (i : Nat) : Fld := ⟨0x400B0280 + 0x400 * i, 7, 1⟩
def CAN_RXHDR_DLC (i : Nat) : Fld := ⟨0x400B0280 + 0x400 * i, 8, 4⟩
def CAN_RXHDR_FDF (i : Nat) : Fld := ⟨0x400B0280 + 0x400 * i, 12, 1⟩
def CAN_RXHDR_BRS (i : Nat) : Fld := ⟨0x400B0280 + 0x400 * i, 13, 1⟩
def CAN_RXHDR_ESI (i : Nat) : Fld := ⟨0x400B0280 + 0x400 * i, 14, 1⟩
def CAN_RXHDR_FILTER (i : Nat) : Fld := ⟨0x400B0280 + 0x400 * i, 15, 5⟩
def CAN_RXID_ID (i : Nat) : Fld := ⟨0x400B0284 + 0x400 * i, 0, 29⟩
def CAN_RXID_IDE (i : Nat) : Fld := ⟨0x400B0284 + 0x400 * i, 29, 1⟩
def CAN_RXID_RTR (i : Nat) : Fld := ⟨0x400B0284 + 0x400 * i, 30, 1⟩
def CAN_RXTS_NS (i : Nat) : Fld := ⟨0x400B0288 + 0x400 * i, 0, 64⟩
def CAN_RATE_N_W (i j : Nat) : Fld := ⟨0x400B0040 + 0x400 * i + 0x8 * j, 0, 28⟩
def CAN_RATE_D_W (i j : Nat) : Fld := ⟨0x400B0044 + 0x400 * i + 0x8 * j, 0, 30⟩
def CAN_RATE_D_FDV (i j : Nat) : Fld := ⟨0x400B0044 + 0x400 * i + 0x8 * j, 31, 1⟩
def CAN_TXW_DATA (i j : Nat) : Fld := ⟨0x400B0100 + 0x400 * i + 0x4 * j, 0, 32⟩
def CAN_FLT0_ID (i j : Nat) : Fld := ⟨0x400B0200 + 0x400 * i + 0x8 * j, 0, 29⟩
def CAN_FLT0_IDE (i j : Nat) : Fld := ⟨0x400B0200 + 0x400 * i + 0x8 * j, 29, 1⟩
def CAN_FLT0_IDE_ANY (i j : Nat) : Fld := ⟨0x400B0200 + 0x400 * i + 0x8 * j, 30, 1⟩
def CAN_FLT0_EN (i j : Nat) : Fld := ⟨0x400B0200 + 0x400 * i + 0x8 * j, 31, 1⟩
def CAN_FLT1_MASK (i j : Nat) : Fld := ⟨0x400B0204 + 0x400 * i + 0x8 * j, 0, 29⟩
def CAN_FLT1_ACT (i j : Nat) : Fld := ⟨0x400B0204 + 0x400 * i + 0x8 * j, 29, 2⟩
def CAN_FLT1_RTR_OK (i j : Nat) : Fld := ⟨0x400B0204 + 0x400 * i + 0x8 * j, 31, 1⟩
def CAN_RXW_DATA (i j : Nat) : Fld := ⟨0x400B0300 + 0x400 * i + 0x4 * j, 0, 32⟩
def CAN_RXM0_ID (i : Nat) : Fld := ⟨0x400B4000 + 0x10 * i, 0, 29⟩
def CAN_RXM0_IDE (i : Nat) : Fld := ⟨0x400B4000 + 0x10 * i, 29, 1⟩
def CAN_RXM0_EN (i : Nat) : Fld := ⟨0x400B4000 + 0x10 * i, 31, 1⟩
def CAN_RXM1_CTL (i : Nat) : Fld := ⟨0x400B4004 + 0x10 * i, 0, 4⟩
def CAN_RXM1_MINLEN (i : Nat) : Fld := ⟨0x400B4004 + 0x10 * i, 4, 7⟩
def CAN_RXM1_XPTR (i : Nat) : Fld := ⟨0x400B4004 + 0x10 * i, 11, 7⟩
def CAN_RXM1_XN (i : Nat) : Fld := ⟨0x400B4004 + 0x10 * i, 18, 4⟩
def CAN_RXM2_SWORD (i : Nat) : Fld := ⟨0x400B4008 + 0x10 * i, 0, 11⟩
def CAN_RXF0_KIND (i : Nat) : Fld := ⟨0x400B4200 + 0x10 * i, 0, 2⟩
def CAN_RXF0_LE (i : Nat) : Fld := ⟨0x400B4200 + 0x10 * i, 2, 1⟩
def CAN_RXF0_SGN (i : Nat) : Fld := ⟨0x400B4200 + 0x10 * i, 3, 1⟩
def CAN_RXF0_GRAY (i : Nat) : Fld := ⟨0x400B4200 + 0x10 * i, 4, 1⟩
def CAN_RXF0_OFS (i : Nat) : Fld := ⟨0x400B4200 + 0x10 * i, 10, 9⟩
def CAN_RXF0_BOFS (i : Nat) : Fld := ⟨0x400B4200 + 0x10 * i, 19, 3⟩
def CAN_RXF0_WIDTH (i : Nat) : Fld := ⟨0x400B4200 + 0x10 * i, 22, 6⟩
def CAN_RXF0_SHIFT (i : Nat) : Fld := ⟨0x400B4200 + 0x10 * i, 28, 4⟩
def CAN_RXF1_WORD (i : Nat) : Fld := ⟨0x400B4204 + 0x10 * i, 0, 12⟩
def CAN_RXF2_MUL (i : Nat) : Fld := ⟨0x400B4208 + 0x10 * i, 0, 32⟩
def CAN_RXF3_ADD (i : Nat) : Fld := ⟨0x400B420C + 0x10 * i, 0, 32⟩
def CAN_TXS0_ID (i : Nat) : Fld := ⟨0x400B4A00 + 0x10 * i, 0, 29⟩
def CAN_TXS0_IDE (i : Nat) : Fld := ⟨0x400B4A00 + 0x10 * i, 29, 1⟩
def CAN_TXS0_EN (i : Nat) : Fld := ⟨0x400B4A00 + 0x10 * i, 31, 1⟩
def CAN_TXS1_CTL (i : Nat) : Fld := ⟨0x400B4A04 + 0x10 * i, 0, 4⟩
def CAN_TXS1_DLC (i : Nat) : Fld := ⟨0x400B4A04 + 0x10 * i, 4, 4⟩
def CAN_TXS1_FDF (i : Nat) : Fld := ⟨0x400B4A04 + 0x10 * i, 8, 1⟩
def CAN_TXS1_BRS (i : Nat) : Fld := ⟨0x400B4A04 + 0x10 * i, 9, 1⟩
def CAN_TXS1_SRC (i : Nat) : Fld := ⟨0x400B4A04 + 0x10 * i, 10, 1⟩
def CAN_TXS1_QSKIP (i : Nat) : Fld := ⟨0x400B4A04 + 0x10 * i, 11, 1⟩
def CAN_TXS1_PERIOD (i : Nat) : Fld := ⟨0x400B4A04 + 0x10 * i, 12, 8⟩
def CAN_TXS1_PHASE (i : Nat) : Fld := ⟨0x400B4A04 + 0x10 * i, 20, 8⟩
def CAN_TXS2_SWORD (i : Nat) : Fld := ⟨0x400B4A08 + 0x10 * i, 0, 12⟩
def CAN_TXS2_LENTRY (i : Nat) : Fld := ⟨0x400B4A08 + 0x10 * i, 12, 14⟩
def CAN_TXS2_LOFS (i : Nat) : Fld := ⟨0x400B4A08 + 0x10 * i, 26, 6⟩

/-! Fields of the block DIO, base 0x400C0000. -/

def DIO_CFG_MODE (i : Nat) : Fld := ⟨0x400C0000 + 0x40 * i, 0, 3⟩
def DIO_CFG_SRC (i : Nat) : Fld := ⟨0x400C0000 + 0x40 * i, 3, 1⟩
def DIO_CFG_OD (i : Nat) : Fld := ⟨0x400C0000 + 0x40 * i, 4, 1⟩
def DIO_CFG_INV (i : Nat) : Fld := ⟨0x400C0000 + 0x40 * i, 5, 1⟩
def DIO_CFG_SAFE (i : Nat) : Fld := ⟨0x400C0000 + 0x40 * i, 6, 2⟩
def DIO_CFG_TS_EDGE (i : Nat) : Fld := ⟨0x400C0000 + 0x40 * i, 8, 2⟩
def DIO_CFG_FUNIT (i : Nat) : Fld := ⟨0x400C0000 + 0x40 * i, 10, 1⟩
def DIO_CFG_RB_EN (i : Nat) : Fld := ⟨0x400C0000 + 0x40 * i, 11, 1⟩
def DIO_CFG_RB_OFF (i : Nat) : Fld := ⟨0x400C0000 + 0x40 * i, 12, 1⟩
def DIO_CFG_FILT (i : Nat) : Fld := ⟨0x400C0000 + 0x40 * i, 16, 16⟩
def DIO_PER_PER (i : Nat) : Fld := ⟨0x400C0004 + 0x40 * i, 0, 24⟩
def DIO_PT_HIGH (i : Nat) : Fld := ⟨0x400C0008 + 0x40 * i, 0, 24⟩
def DIO_PW_PW (i : Nat) : Fld := ⟨0x400C000C + 0x40 * i, 0, 16⟩
def DIO_STAT_PIN (i : Nat) : Fld := ⟨0x400C0010 + 0x40 * i, 0, 1⟩
def DIO_STAT_LEVEL (i : Nat) : Fld := ⟨0x400C0010 + 0x40 * i, 1, 1⟩
def DIO_STAT_DRIVE (i : Nat) : Fld := ⟨0x400C0010 + 0x40 * i, 2, 1⟩
def DIO_STAT_RELEASED (i : Nat) : Fld := ⟨0x400C0010 + 0x40 * i, 3, 1⟩
def DIO_STAT_QN (i : Nat) : Fld := ⟨0x400C0010 + 0x40 * i, 4, 4⟩
def DIO_STAT_PT_RUN (i : Nat) : Fld := ⟨0x400C0010 + 0x40 * i, 8, 1⟩
def DIO_TS_STAT_LEVEL (i : Nat) : Fld := ⟨0x400C0014 + 0x40 * i, 0, 5⟩
def DIO_TS_STAT_OVF (i : Nat) : Fld := ⟨0x400C0014 + 0x40 * i, 5, 1⟩
def DIO_TS_STAT_RISE (i : Nat) : Fld := ⟨0x400C0014 + 0x40 * i, 6, 1⟩
def DIO_TS_STAT_FRAC (i : Nat) : Fld := ⟨0x400C0014 + 0x40 * i, 16, 16⟩
def DIO_TS_NS (i : Nat) : Fld := ⟨0x400C0018 + 0x40 * i, 0, 64⟩
def DIO_QCNT_QFULL (i : Nat) : Fld := ⟨0x400C0020 + 0x40 * i, 0, 16⟩
def DIO_QCNT_QLATE (i : Nat) : Fld := ⟨0x400C0020 + 0x40 * i, 16, 16⟩
def DIO_QD_CFG_QA (i : Nat) : Fld := ⟨0x400C2000 + 0x10 * i, 0, 7⟩
def DIO_QD_CFG_QB (i : Nat) : Fld := ⟨0x400C2000 + 0x10 * i, 7, 7⟩
def DIO_QD_CFG_QI (i : Nat) : Fld := ⟨0x400C2000 + 0x10 * i, 14, 7⟩
def DIO_QD_CFG_IDX (i : Nat) : Fld := ⟨0x400C2000 + 0x10 * i, 21, 2⟩
def DIO_QD_CFG_REV (i : Nat) : Fld := ⟨0x400C2000 + 0x10 * i, 23, 1⟩
def DIO_QD_CFG_EN (i : Nat) : Fld := ⟨0x400C2000 + 0x10 * i, 31, 1⟩
def DIO_QD_CNT_COUNT (i : Nat) : Fld := ⟨0x400C2004 + 0x10 * i, 0, 32⟩
def DIO_QD_IDX_COUNT (i : Nat) : Fld := ⟨0x400C2008 + 0x10 * i, 0, 32⟩
def DIO_QD_ERR_ERR (i : Nat) : Fld := ⟨0x400C200C + 0x10 * i, 0, 16⟩
def DIO_EVT_RB_FAULT : Fld := ⟨0x400C3000, 0, 1⟩
def DIO_EVT_TS_OVF : Fld := ⟨0x400C3000, 1, 1⟩
def DIO_EVT_QFULL : Fld := ⟨0x400C3000, 2, 1⟩
def DIO_EVT_QLATE : Fld := ⟨0x400C3000, 3, 1⟩
def DIO_EVT_QD_ERR : Fld := ⟨0x400C3000, 4, 1⟩
def DIO_EVT_PT_BUSY : Fld := ⟨0x400C3000, 5, 1⟩
def DIO_IRQ_EN_EN : Fld := ⟨0x400C3004, 0, 6⟩
def DIO_RB_CFG_RB_T : Fld := ⟨0x400C3008, 0, 16⟩
def DIO_CMD_LINE : Fld := ⟨0x400C300C, 0, 7⟩
def DIO_CMD_RB_CLR : Fld := ⟨0x400C300C, 8, 1⟩
def DIO_CMD_Q_FLUSH : Fld := ⟨0x400C300C, 9, 1⟩
def DIO_RBF_RBF (i : Nat) : Fld := ⟨0x400C3010 + 0x4 * i, 0, 32⟩

/-! Fields of the block ADC, base 0x400D0000. -/

def ADC_CTRL_RATE : Fld := ⟨0x400D0000, 0, 16⟩
def ADC_STATUS_RUN : Fld := ⟨0x400D0004, 0, 1⟩
def ADC_STATUS_CAL_OK : Fld := ⟨0x400D0004, 1, 2⟩
def ADC_STATUS_TS_BUSY : Fld := ⟨0x400D0004, 3, 2⟩
def ADC_EVT_CAL_FAIL : Fld := ⟨0x400D0008, 0, 1⟩
def ADC_EVT_TSCAN_DONE : Fld := ⟨0x400D0008, 1, 2⟩
def ADC_EVT_TRG_BUSY : Fld := ⟨0x400D0008, 3, 1⟩
def ADC_EVT_OVR : Fld := ⟨0x400D0008, 4, 1⟩
def ADC_IRQ_EN_EN : Fld := ⟨0x400D000C, 0, 5⟩
def ADC_CAL_OFFSET (i : Nat) : Fld := ⟨0x400D0020 + 0x4 * i, 0, 16⟩
def ADC_CAL_GAIN (i : Nat) : Fld := ⟨0x400D0020 + 0x4 * i, 16, 16⟩
def ADC_AIN_CODE (i : Nat) : Fld := ⟨0x400D0040 + 0x4 * i, 0, 16⟩
def ADC_TSCAN_MASK (i : Nat) : Fld := ⟨0x400D0080 + 0x20 * i, 0, 4⟩
def ADC_TSCAN_T_NS (i : Nat) : Fld := ⟨0x400D0088 + 0x20 * i, 0, 64⟩
def ADC_TSCAN_R_CODE_LO (i j : Nat) : Fld := ⟨0x400D0090 + 0x20 * i + 0x4 * j, 0, 16⟩
def ADC_TSCAN_R_CODE_HI (i j : Nat) : Fld := ⟨0x400D0090 + 0x20 * i + 0x4 * j, 16, 16⟩
def ADC_MON_CODE (i j : Nat) : Fld := ⟨0x400D0100 + 0x20 * i + 0x4 * j, 0, 16⟩

/-! Fields of the block BRN, base 0x400E0000. -/

def BRN_CFG_EN (i : Nat) : Fld := ⟨0x400E0000 + 0x200 * i, 0, 1⟩
def BRN_CFG_ESRC (i : Nat) : Fld := ⟨0x400E0000 + 0x200 * i, 1, 1⟩
def BRN_CFG_PROT (i : Nat) : Fld := ⟨0x400E0000 + 0x200 * i, 2, 1⟩
def BRN_CFG_DIS_EN (i : Nat) : Fld := ⟨0x400E0000 + 0x200 * i, 3, 1⟩
def BRN_CFG_RETRIES (i : Nat) : Fld := ⟨0x400E0000 + 0x200 * i, 4, 3⟩
def BRN_SHUNT_R_SHUNT (i : Nat) : Fld := ⟨0x400E0004 + 0x200 * i, 0, 14⟩
def BRN_LIM_V_LIM (i : Nat) : Fld := ⟨0x400E0008 + 0x200 * i, 0, 8⟩
def BRN_LIM_P_SOA (i : Nat) : Fld := ⟨0x400E0008 + 0x200 * i, 8, 8⟩
def BRN_LIM_T_START (i : Nat) : Fld := ⟨0x400E0008 + 0x200 * i, 16, 10⟩
def BRN_TMR_T_FLT (i : Nat) : Fld := ⟨0x400E000C + 0x200 * i, 0, 10⟩
def BRN_TMR_T_RETRY (i : Nat) : Fld := ⟨0x400E000C + 0x200 * i, 10, 10⟩
def BRN_TMR_T_INS (i : Nat) : Fld := ⟨0x400E000C + 0x200 * i, 20, 10⟩
def BRN_TOFF_T_SOFT (i : Nat) : Fld := ⟨0x400E0010 + 0x200 * i, 0, 7⟩
def BRN_TOFF_T_REON (i : Nat) : Fld := ⟨0x400E0010 + 0x200 * i, 16, 10⟩
def BRN_UV_UV_RISE (i : Nat) : Fld := ⟨0x400E0014 + 0x200 * i, 0, 13⟩
def BRN_UV_UV_FALL (i : Nat) : Fld := ⟨0x400E0014 + 0x200 * i, 16, 13⟩
def BRN_OV_OV_RISE (i : Nat) : Fld := ⟨0x400E0018 + 0x200 * i, 0, 13⟩
def BRN_OV_OV_FALL (i : Nat) : Fld := ⟨0x400E0018 + 0x200 * i, 16, 13⟩
def BRN_PGD_V_PGD (i : Nat) : Fld := ⟨0x400E001C + 0x200 * i, 0, 8⟩
def BRN_PGD_V_DIS (i : Nat) : Fld := ⟨0x400E001C + 0x200 * i, 16, 13⟩
def BRN_CMD_ON (i : Nat) : Fld := ⟨0x400E0020 + 0x200 * i, 0, 1⟩
def BRN_CMD_OFF (i : Nat) : Fld := ⟨0x400E0020 + 0x200 * i, 1, 1⟩
def BRN_CMD_CLEAR (i : Nat) : Fld := ⟨0x400E0020 + 0x200 * i, 2, 1⟩
def BRN_STAT_STATE (i : Nat) : Fld := ⟨0x400E0024 + 0x200 * i, 0, 4⟩
def BRN_STAT_PG (i : Nat) : Fld := ⟨0x400E0024 + 0x200 * i, 4, 1⟩
def BRN_STAT_LIMIT (i : Nat) : Fld := ⟨0x400E0024 + 0x200 * i, 5, 1⟩
def BRN_STAT_PENDING_ON (i : Nat) : Fld := ⟨0x400E0024 + 0x200 * i, 6, 1⟩
def BRN_STAT_BUS_OK (i : Nat) : Fld := ⟨0x400E0024 + 0x200 * i, 7, 1⟩
def BRN_STAT_RCNT (i : Nat) : Fld := ⟨0x400E0024 + 0x200 * i, 8, 3⟩
def BRN_STAT_REARM (i : Nat) : Fld := ⟨0x400E0024 + 0x200 * i, 11, 1⟩
def BRN_STAT_CP_OK (i : Nat) : Fld := ⟨0x400E0024 + 0x200 * i, 12, 1⟩
def BRN_STAT_E (i : Nat) : Fld := ⟨0x400E0024 + 0x200 * i, 13, 1⟩
def BRN_EVT_TRIP_FAST (i : Nat) : Fld := ⟨0x400E0028 + 0x200 * i, 0, 1⟩
def BRN_EVT_TRIP_FLT (i : Nat) : Fld := ⟨0x400E0028 + 0x200 * i, 1, 1⟩
def BRN_EVT_TRIP_START (i : Nat) : Fld := ⟨0x400E0028 + 0x200 * i, 2, 1⟩
def BRN_EVT_TRIP_OT (i : Nat) : Fld := ⟨0x400E0028 + 0x200 * i, 3, 1⟩
def BRN_EVT_LATCHED (i : Nat) : Fld := ⟨0x400E0028 + 0x200 * i, 4, 1⟩
def BRN_EVT_BUS_FLT (i : Nat) : Fld := ⟨0x400E0028 + 0x200 * i, 5, 1⟩
def BRN_EVT_PG_LOST (i : Nat) : Fld := ⟨0x400E0028 + 0x200 * i, 6, 1⟩
def BRN_EVT_DIS_TMO (i : Nat) : Fld := ⟨0x400E0028 + 0x200 * i, 7, 1⟩
def BRN_EVT_HELD_TRIP (i : Nat) : Fld := ⟨0x400E0028 + 0x200 * i, 8, 1⟩
def BRN_IRQ_EN_EN (i : Nat) : Fld := ⟨0x400E002C + 0x200 * i, 0, 9⟩
def BRN_MEAS_V_V_BUS (i : Nat) : Fld := ⟨0x400E0030 + 0x200 * i, 0, 16⟩
def BRN_MEAS_V_V_OUT (i : Nat) : Fld := ⟨0x400E0030 + 0x200 * i, 16, 16⟩
def BRN_MEAS_I_I (i : Nat) : Fld := ⟨0x400E0034 + 0x200 * i, 0, 32⟩
def BRN_MEAS_P_P (i : Nat) : Fld := ⟨0x400E0038 + 0x200 * i, 0, 32⟩
def BRN_CNT_TRIPS (i : Nat) : Fld := ⟨0x400E003C + 0x200 * i, 0, 16⟩
def BRN_CNT_STARTS (i : Nat) : Fld := ⟨0x400E003C + 0x200 * i, 16, 16⟩
def BRN_ENERGY_UJ (i : Nat) : Fld := ⟨0x400E0040 + 0x200 * i, 0, 64⟩
def BRN_FTIMER_ACC (i : Nat) : Fld := ⟨0x400E0048 + 0x200 * i, 0, 10⟩
def BRN_ZCAL_OFFSET (i : Nat) : Fld := ⟨0x400E004C + 0x200 * i, 0, 16⟩
def BRN_ZCAL_ZCAL_OK (i : Nat) : Fld := ⟨0x400E004C + 0x200 * i, 16, 1⟩
def BRN_TH_A_R_TH (i : Nat) : Fld := ⟨0x400E0050 + 0x200 * i, 0, 16⟩
def BRN_TH_A_C_TH (i : Nat) : Fld := ⟨0x400E0050 + 0x200 * i, 16, 16⟩
def BRN_TH_B_R_ON (i : Nat) : Fld := ⟨0x400E0054 + 0x200 * i, 0, 16⟩
def BRN_TH_B_T_OT (i : Nat) : Fld := ⟨0x400E0054 + 0x200 * i, 16, 8⟩
def BRN_TH_TJ_T_J (i : Nat) : Fld := ⟨0x400E0058 + 0x200 * i, 0, 16⟩
def BRN_SUMMARY_PG : Fld := ⟨0x400E2000, 0, 16⟩
def BRN_SUMMARY_LATCHED : Fld := ⟨0x400E2000, 16, 16⟩

/-! Fields of the block ASY, base 0x400F0000. -/

def ASY_CTRL_SC_EN : Fld := ⟨0x400F0000, 0, 1⟩
def ASY_STATUS_FAILED : Fld := ⟨0x400F0004, 0, 16⟩
def ASY_STATUS_SC_UNIT : Fld := ⟨0x400F0004, 16, 4⟩
def ASY_STATUS_SC_RUN : Fld := ⟨0x400F0004, 20, 1⟩
def ASY_EVT_SELFCHK : Fld := ⟨0x400F0008, 0, 1⟩
def ASY_EVT_CTX_ERR : Fld := ⟨0x400F0008, 1, 1⟩
def ASY_EVT_NO_UNIT : Fld := ⟨0x400F0008, 2, 1⟩
def ASY_IRQ_EN_EN : Fld := ⟨0x400F000C, 0, 3⟩
def ASY_CMD_UNIT : Fld := ⟨0x400F0010, 0, 4⟩
def ASY_CMD_RETEST : Fld := ⟨0x400F0010, 4, 1⟩
def ASY_CMD_CTX : Fld := ⟨0x400F0010, 8, 6⟩
def ASY_CMD_START : Fld := ⟨0x400F0010, 14, 1⟩
def ASY_SC_CNT_PASS : Fld := ⟨0x400F0014, 0, 16⟩
def ASY_SC_CNT_YIELD : Fld := ⟨0x400F0014, 16, 16⟩
def ASY_FW_CTX_CTX : Fld := ⟨0x400F001C, 0, 6⟩
def ASY_FEED_B_DATA : Fld := ⟨0x400F0020, 0, 32⟩
def ASY_FEED_H_DATA : Fld := ⟨0x400F0024, 0, 32⟩
def ASY_FEED_W_DATA : Fld := ⟨0x400F0028, 0, 32⟩
def ASY_CTX_CFG_ALG (i : Nat) : Fld := ⟨0x400F1000 + 0x40 * i, 0, 3⟩
def ASY_CTX_CFG_WIDTH (i : Nat) : Fld := ⟨0x400F1000 + 0x40 * i, 3, 6⟩
def ASY_CTX_CFG_REFIN (i : Nat) : Fld := ⟨0x400F1000 + 0x40 * i, 9, 1⟩
def ASY_CTX_CFG_REFOUT (i : Nat) : Fld := ⟨0x400F1000 + 0x40 * i, 10, 1⟩
def ASY_CTX_CFG_ORDER (i : Nat) : Fld := ⟨0x400F1000 + 0x40 * i, 11, 1⟩
def ASY_CTX_CFG_OWN (i : Nat) : Fld := ⟨0x400F1000 + 0x40 * i, 12, 1⟩
def ASY_CTX_POLY_VALUE (i : Nat) : Fld := ⟨0x400F1008 + 0x40 * i, 0, 64⟩
def ASY_CTX_INIT_VALUE (i : Nat) : Fld := ⟨0x400F1010 + 0x40 * i, 0, 64⟩
def ASY_CTX_XOR_VALUE (i : Nat) : Fld := ⟨0x400F1018 + 0x40 * i, 0, 64⟩
def ASY_CTX_VAL_VAL (i : Nat) : Fld := ⟨0x400F1020 + 0x40 * i, 0, 64⟩
def ASY_CTX_RES_RES (i : Nat) : Fld := ⟨0x400F1028 + 0x40 * i, 0, 64⟩
def ASY_CTX_CNT_FRAMES (i : Nat) : Fld := ⟨0x400F1030 + 0x40 * i, 0, 16⟩
def ASY_CTX_CNT_MIS (i : Nat) : Fld := ⟨0x400F1030 + 0x40 * i, 16, 16⟩

/-! Fields of the block FRY, base 0x40100000. -/

def FRY_CTRL_RETRY_MARGIN : Fld := ⟨0x40100000, 0, 8⟩
def FRY_STATUS_OPEN : Fld := ⟨0x40100004, 0, 6⟩
def FRY_STATUS_NEXT_TAG : Fld := ⟨0x40100004, 16, 16⟩
def FRY_EVT_LATE : Fld := ⟨0x40100008, 0, 1⟩
def FRY_EVT_PF_DISC : Fld := ⟨0x40100008, 1, 1⟩
def FRY_EVT_EXPIRED : Fld := ⟨0x40100008, 2, 1⟩
def FRY_EVT_RETRY : Fld := ⟨0x40100008, 3, 1⟩
def FRY_EVT_TIMEOUT : Fld := ⟨0x40100008, 4, 1⟩
def FRY_IRQ_EN_EN : Fld := ⟨0x4010000C, 0, 5⟩
def FRY_CNT_TIMEOUT : Fld := ⟨0x40100010, 0, 8⟩
def FRY_CNT_LATE : Fld := ⟨0x40100010, 8, 8⟩
def FRY_CNT_EXPIRED : Fld := ⟨0x40100010, 16, 8⟩
def FRY_CNT_RETRY : Fld := ⟨0x40100010, 24, 8⟩
def FRY_LAST_ERR_STATUS : Fld := ⟨0x40100014, 0, 4⟩
def FRY_LAST_ERR_WINDOW : Fld := ⟨0x40100014, 4, 4⟩
def FRY_LAST_ERR_OFFSET : Fld := ⟨0x40100014, 8, 24⟩
def FRY_PF_LOG_ADDR : Fld := ⟨0x40100018, 0, 32⟩
def FRY_PF_LOG_MASK : Fld := ⟨0x40100018, 32, 16⟩
def FRY_LATE_PTR_NEXT : Fld := ⟨0x40100020, 0, 4⟩
def FRY_LATE0_TAG (i : Nat) : Fld := ⟨0x40100100 + 0x10 * i, 0, 16⟩
def FRY_LATE0_STATUS (i : Nat) : Fld := ⟨0x40100100 + 0x10 * i, 16, 4⟩
def FRY_LATE0_OP (i : Nat) : Fld := ⟨0x40100100 + 0x10 * i, 20, 8⟩
def FRY_LATE1_HUB (i : Nat) : Fld := ⟨0x40100104 + 0x10 * i, 0, 12⟩
def FRY_LATE2_INFO (i : Nat) : Fld := ⟨0x40100108 + 0x10 * i, 0, 32⟩
def FRY_OUT0_EN (i : Nat) : Fld := ⟨0x40100200 + 0x10 * i, 0, 1⟩
def FRY_OUT0_SPACE (i : Nat) : Fld := ⟨0x40100200 + 0x10 * i, 1, 1⟩
def FRY_OUT0_PREF (i : Nat) : Fld := ⟨0x40100200 + 0x10 * i, 2, 1⟩
def FRY_OUT0_HUB (i : Nat) : Fld := ⟨0x40100200 + 0x10 * i, 3, 12⟩
def FRY_OUT1_BASE (i : Nat) : Fld := ⟨0x40100204 + 0x10 * i, 0, 32⟩
def FRY_OUT2_TMO (i : Nat) : Fld := ⟨0x40100208 + 0x10 * i, 0, 16⟩
def FRY_IN0_EN (i : Nat) : Fld := ⟨0x40100400 + 0x10 * i, 0, 1⟩
def FRY_IN0_KIND (i : Nat) : Fld := ⟨0x40100400 + 0x10 * i, 1, 1⟩
def FRY_IN0_WR_EN (i : Nat) : Fld := ⟨0x40100400 + 0x10 * i, 2, 1⟩
def FRY_IN0_PREF (i : Nat) : Fld := ⟨0x40100400 + 0x10 * i, 3, 1⟩
def FRY_IN0_BSWAP (i : Nat) : Fld := ⟨0x40100400 + 0x10 * i, 4, 1⟩
def FRY_IN0_CH (i : Nat) : Fld := ⟨0x40100400 + 0x10 * i, 5, 6⟩
def FRY_IN0_CS (i : Nat) : Fld := ⟨0x40100400 + 0x10 * i, 11, 2⟩
def FRY_IN0_AW (i : Nat) : Fld := ⟨0x40100400 + 0x10 * i, 13, 3⟩
def FRY_IN0_ADDR (i : Nat) : Fld := ⟨0x40100400 + 0x10 * i, 16, 10⟩
def FRY_IN0_ADDR10 (i : Nat) : Fld := ⟨0x40100400 + 0x10 * i, 26, 1⟩
def FRY_IN1_RD_CMD (i : Nat) : Fld := ⟨0x40100404 + 0x10 * i, 0, 8⟩
def FRY_IN1_WR_CMD (i : Nat) : Fld := ⟨0x40100404 + 0x10 * i, 8, 8⟩
def FRY_IN2_MCU_BASE (i : Nat) : Fld := ⟨0x40100408 + 0x10 * i, 0, 32⟩
def FRY_IN3_SIZE (i : Nat) : Fld := ⟨0x4010040C + 0x10 * i, 0, 25⟩

/-! Fields of the block TNK, base 0x40110000. -/

def TNK_CTRL_FF_MIN : Fld := ⟨0x40110000, 0, 3⟩
def TNK_CTRL_FLT_THR : Fld := ⟨0x40110000, 4, 3⟩
def TNK_CTRL_MINW : Fld := ⟨0x40110000, 8, 8⟩
def TNK_CTRL_DUMP_EN : Fld := ⟨0x40110000, 16, 1⟩
def TNK_STATE_UNACK : Fld := ⟨0x40110004, 0, 16⟩
def TNK_STATE_WORST : Fld := ⟨0x40110004, 16, 3⟩
def TNK_STATE_FLT : Fld := ⟨0x40110004, 20, 1⟩
def TNK_STATE_MINW_DONE : Fld := ⟨0x40110004, 21, 1⟩
def TNK_EVT_RAISE : Fld := ⟨0x40110008, 0, 1⟩
def TNK_EVT_FIRST : Fld := ⟨0x40110008, 1, 1⟩
def TNK_EVT_CLR_REJ : Fld := ⟨0x40110008, 2, 1⟩
def TNK_EVT_FLT_RB : Fld := ⟨0x40110008, 3, 1⟩
def TNK_EVT_REL_REJ : Fld := ⟨0x40110008, 4, 1⟩
def TNK_EVT_RES_REJ : Fld := ⟨0x40110008, 5, 1⟩
def TNK_IRQ_EN_EN : Fld := ⟨0x4011000C, 0, 6⟩
def TNK_CMD_RESUME : Fld := ⟨0x40110010, 0, 1⟩
def TNK_CMD_FF_REARM : Fld := ⟨0x40110010, 1, 1⟩
def TNK_CMD_FLT_RELEASE : Fld := ⟨0x40110010, 2, 1⟩
def TNK_FIRST_SRC : Fld := ⟨0x40110014, 0, 7⟩
def TNK_FIRST_SEV_CFG : Fld := ⟨0x40110014, 8, 3⟩
def TNK_FIRST_SEV_EFF : Fld := ⟨0x40110014, 12, 3⟩
def TNK_FIRST_ESC : Fld := ⟨0x40110014, 15, 1⟩
def TNK_FIRST_VALID : Fld := ⟨0x40110014, 31, 1⟩
def TNK_FIRST_T_NS : Fld := ⟨0x40110018, 0, 64⟩
def TNK_FIRST_ALSO_ALSO (i : Nat) : Fld := ⟨0x40110020 + 0x4 * i, 0, 32⟩
def TNK_CNT_CLR_REJ : Fld := ⟨0x40110030, 0, 16⟩
def TNK_CNT_REL_REJ : Fld := ⟨0x40110030, 16, 8⟩
def TNK_CNT_RES_REJ : Fld := ⟨0x40110030, 24, 8⟩
def TNK_HOST_HUB : Fld := ⟨0x40110034, 0, 12⟩
def TNK_HOST_DPORT : Fld := ⟨0x40110034, 12, 4⟩
def TNK_HOST_MIN : Fld := ⟨0x40110034, 16, 3⟩
def TNK_FLT_STATE : Fld := ⟨0x40110038, 0, 1⟩
def TNK_FLT_PIN_T : Fld := ⟨0x40110038, 1, 1⟩
def TNK_FLT_PIN_C : Fld := ⟨0x40110038, 2, 1⟩
def TNK_FLT_RB_ERR : Fld := ⟨0x40110038, 3, 1⟩
def TNK_DUMP_STAT_READY : Fld := ⟨0x4011003C, 0, 2⟩
def TNK_DUMP_STAT_LAST_HALF : Fld := ⟨0x4011003C, 2, 1⟩
def TNK_DUMP_STAT_LAST_VALID : Fld := ⟨0x4011003C, 3, 1⟩
def TNK_DUMP_STAT_LAST_SEQ : Fld := ⟨0x4011003C, 16, 16⟩
def TNK_STAT_STAT (i : Nat) : Fld := ⟨0x40110040 + 0x4 * i, 0, 32⟩
def TNK_ACK_ACK (i : Nat) : Fld := ⟨0x40110050 + 0x4 * i, 0, 32⟩
def TNK_PRESENT_PRESENT (i : Nat) : Fld := ⟨0x40110060 + 0x4 * i, 0, 32⟩
def TNK_LOG_PTR_NEXT : Fld := ⟨0x40110070, 0, 6⟩
def TNK_LOG_PTR_TOTAL : Fld := ⟨0x40110070, 16, 16⟩
def TNK_SEV_SEV (i : Nat) : Fld := ⟨0x40110800 + 0x4 * i, 0, 3⟩
def TNK_SEV_FLOOR (i : Nat) : Fld := ⟨0x40110800 + 0x4 * i, 4, 3⟩
def TNK_SEV_REPEAT (i : Nat) : Fld := ⟨0x40110800 + 0x4 * i, 16, 16⟩
def TNK_CAUSE_CAUSE (i : Nat) : Fld := ⟨0x40110A00 + 0x4 * i, 0, 32⟩
def TNK_LOG0_SRC (i : Nat) : Fld := ⟨0x40110400 + 0x10 * i, 0, 7⟩
def TNK_LOG0_SEV_CFG (i : Nat) : Fld := ⟨0x40110400 + 0x10 * i, 8, 3⟩
def TNK_LOG0_SEV_EFF (i : Nat) : Fld := ⟨0x40110400 + 0x10 * i, 12, 3⟩
def TNK_LOG0_ESC (i : Nat) : Fld := ⟨0x40110400 + 0x10 * i, 15, 1⟩
def TNK_LOG0_MULTI (i : Nat) : Fld := ⟨0x40110400 + 0x10 * i, 16, 1⟩
def TNK_LOG_T_NS (i : Nat) : Fld := ⟨0x40110404 + 0x10 * i, 0, 64⟩
def TNK_LOG3_CAUSE (i : Nat) : Fld := ⟨0x4011040C + 0x10 * i, 0, 32⟩

/-! Fields of the block COB, base 0x40120000. -/

def COB_CTRL_SCRUB_EN : Fld := ⟨0x40120000, 0, 1⟩
def COB_CTRL_TELEM_EN : Fld := ⟨0x40120000, 1, 1⟩
def COB_CTRL_TELEM_IDX : Fld := ⟨0x40120000, 8, 8⟩
def COB_CTRL_WEAR_LIM : Fld := ⟨0x40120000, 16, 16⟩
def COB_STAT_PASSES : Fld := ⟨0x40120004, 0, 16⟩
def COB_STAT_PASS_MS : Fld := ⟨0x40120004, 16, 16⟩
def COB_EVT_WEAR : Fld := ⟨0x40120008, 0, 1⟩
def COB_EVT_SCRUB_LATE : Fld := ⟨0x40120008, 1, 1⟩
def COB_IRQ_EN_EN : Fld := ⟨0x4012000C, 0, 2⟩
def COB_ECC_LAST_WORD : Fld := ⟨0x40120010, 0, 28⟩
def COB_ECC_LAST_MEM : Fld := ⟨0x40120010, 28, 4⟩
def COB_WEAR_MAX : Fld := ⟨0x40120014, 0, 22⟩
def COB_WEAR_BLOCK : Fld := ⟨0x40120014, 22, 10⟩

/-! Fields of the block RSL, base 0x40130000. -/

def RSL_STATUS_PEND_READY : Fld := ⟨0x40130000, 0, 1⟩
def RSL_STATUS_TRIAL_FW : Fld := ⟨0x40130000, 1, 1⟩
def RSL_STATUS_TRIAL_LAST : Fld := ⟨0x40130000, 2, 1⟩
def RSL_STATUS_FB_ARMED : Fld := ⟨0x40130000, 3, 1⟩
def RSL_STATUS_ARB : Fld := ⟨0x40130000, 8, 7⟩
def RSL_STATUS_STARTS : Fld := ⟨0x40130000, 16, 8⟩
def RSL_EVT_SEALED : Fld := ⟨0x40130004, 0, 1⟩
def RSL_EVT_SEAL_FAIL : Fld := ⟨0x40130004, 1, 1⟩
def RSL_EVT_ACTIVATED : Fld := ⟨0x40130004, 2, 1⟩
def RSL_EVT_FALLBACK : Fld := ⟨0x40130004, 3, 1⟩
def RSL_EVT_DIFF : Fld := ⟨0x40130004, 4, 1⟩
def RSL_EVT_CONFIRMED : Fld := ⟨0x40130004, 5, 1⟩
def RSL_IRQ_EN_EN : Fld := ⟨0x40130008, 0, 6⟩
def RSL_ACT_TICK : Fld := ⟨0x4013000C, 0, 32⟩
def RSL_SESS_STATE (i : Nat) : Fld := ⟨0x40130010 + 0x4 * i, 0, 3⟩
def RSL_SESS_RESULT (i : Nat) : Fld := ⟨0x40130010 + 0x4 * i, 8, 4⟩
def RSL_SESS_SESSION (i : Nat) : Fld := ⟨0x40130010 + 0x4 * i, 16, 16⟩
def RSL_RCVD_GRANULES (i : Nat) : Fld := ⟨0x40130020 + 0x4 * i, 0, 15⟩
def RSL_RCVD_ERASED (i : Nat) : Fld := ⟨0x40130020 + 0x4 * i, 15, 1⟩
def RSL_RCVD_REFUSED (i : Nat) : Fld := ⟨0x40130020 + 0x4 * i, 16, 16⟩
def RSL_CMDBLK_W (i : Nat) : Fld := ⟨0x40130100 + 0x4 * i, 0, 32⟩
def RSL_STG_W (i j : Nat) : Fld := ⟨0x40131000 + 0x1000 * i + 0x4 * j, 0, 32⟩

/-! Fields of the block NVM, base 0x40140000. -/

def NVM_STAT_OCT : Fld := ⟨0x40140000, 0, 1⟩
def NVM_STAT_BUSY : Fld := ⟨0x40140000, 1, 1⟩
def NVM_STAT_PFW_HOLD : Fld := ⟨0x40140000, 2, 1⟩
def NVM_STAT_ERR : Fld := ⟨0x40140000, 3, 1⟩
def NVM_ADDR_ADDR : Fld := ⟨0x40140004, 0, 32⟩
def NVM_CMD_OP : Fld := ⟨0x40140008, 0, 2⟩
def NVM_ERR_ADDR : Fld := ⟨0x4014000C, 0, 32⟩
def NVM_CNT_CRC : Fld := ⟨0x40140010, 0, 16⟩
def NVM_CNT_PGM : Fld := ⟨0x40140010, 16, 16⟩
def NVM_BUF_W (i : Nat) : Fld := ⟨0x40140100 + 0x4 * i, 0, 32⟩

/-! Fields of the block LP, base 0x40150000. -/

def LP_CTRL_EN : Fld := ⟨0x40150000, 0, 1⟩
def LP_CTRL_ACC : Fld := ⟨0x40150000, 1, 2⟩
def LP_CTRL_SVC_TMO : Fld := ⟨0x40150000, 16, 16⟩
def LP_STAT_MREQ : Fld := ⟨0x40150004, 0, 1⟩
def LP_STAT_HREQ : Fld := ⟨0x40150004, 1, 1⟩
def LP_STAT_BUSY : Fld := ⟨0x40150004, 2, 1⟩
def LP_STAT_HELD : Fld := ⟨0x40150004, 3, 1⟩
def LP_STAT_RXQ_N : Fld := ⟨0x40150004, 8, 8⟩
def LP_EVT_CONTEND : Fld := ⟨0x40150008, 0, 1⟩
def LP_EVT_SVC_TMO : Fld := ⟨0x40150008, 1, 1⟩
def LP_EVT_RXQ_OVF : Fld := ⟨0x40150008, 2, 1⟩
def LP_EVT_PROTO_ERR : Fld := ⟨0x40150008, 3, 1⟩
def LP_IRQ_EN_EN : Fld := ⟨0x4015000C, 0, 4⟩
def LP_CNT_CONTEND : Fld := ⟨0x40150010, 0, 16⟩
def LP_CNT_SERVICE : Fld := ⟨0x40150010, 16, 16⟩

end Sys2Proof.Machine
end

