-- ==== Sys2Proof/Machine/Ops.lean ====
section
/-! DEFINITION. The named operations every meaning is built from: sparse tables, register fields, memories, time,
free values, and the accessors of the indexed parts of State. -/

namespace Sys2Proof.Machine

/-! ## Sparse tables -/

/-- The value at a key; the default of the key where the table lists none. -/
def tget {α : Type} (d : Nat → α) : List (Nat × α) → Nat → α
  | [], k => d k
  | (k', v) :: m, k => if k' = k then v else tget d m k

/-- The table without a key. -/
def tdel {α : Type} : List (Nat × α) → Nat → List (Nat × α)
  | [], _ => []
  | (k', v) :: m, k => if k' = k then tdel m k else (k', v) :: tdel m k

/-- The table with a pair inserted before the first greater key. -/
def tins {α : Type} : List (Nat × α) → Nat → α → List (Nat × α)
  | [], k, v => [(k, v)]
  | (k', v') :: m, k, v => if k < k' then (k, v) :: (k', v') :: m else (k', v') :: tins m k v

/-- The table with a value put at a key; a value equal to the default is not listed. -/
def tput {α : Type} [DecidableEq α] (d : Nat → α) (m : List (Nat × α)) (k : Nat) (v : α) : List (Nat × α) :=
  if v = d k then tdel m k else tins (tdel m k) k v

/-! ## Register fields -/

/-- The reset value of the register at a local address (R10): the value of the Reset columns, 0 for all but these; special
word 7 is a constant (R147). -/
def cellReset (a : Nat) : Cell :=
  if a = 0x40000004 then 1
  else if a = 0x4005C81C then 0xFFFFFFFF
  else if 0x40040400 ≤ a ∧ a < 0x40040600 ∧ (a - 0x40040400) % 16 = 0 then BitVec.ofNat 64 (127 * 2 ^ 7 + 2 ^ 18)
  else 0

/-- Bits lo to lo + w - 1 of a cell. -/
def cellGet (c : Cell) (lo w : Nat) : Nat := c.toNat / 2 ^ lo % 2 ^ w

/-- A cell with those bits replaced. -/
def cellSet (c : Cell) (lo w v : Nat) : Cell :=
  BitVec.ofNat 64 (c.toNat % 2 ^ lo + v % 2 ^ w * 2 ^ lo + c.toNat / 2 ^ (lo + w) * 2 ^ (lo + w))

/-- The cell of a register. -/
def cellAt (s : State) (a : Nat) : Cell := tget cellReset s.regs a

/-- The state with a register's cell replaced. -/
def setCell (s : State) (a : Nat) (c : Cell) : State := { s with regs := tput cellReset s.regs a c }

/-- A field's value. -/
def rd (s : State) (f : Fld) : Nat := cellGet (cellAt s f.addr) f.lo f.w

/-- The state with a field's value replaced; the value is taken modulo 2^w. -/
def wr (s : State) (f : Fld) (v : Nat) : State := setCell s f.addr (cellSet (cellAt s f.addr) f.lo f.w v)

/-- A one-bit field as a truth value; of a wider one, whether it is not 0. -/
def flag (s : State) (f : Fld) : Bool := rd s f != 0

/-- A field read as a signed number. -/
def rdI (s : State) (f : Fld) : Int := signed f.w (rd s f)

/-- A signed number written to a field, modulo 2^w. -/
def wrI (s : State) (f : Fld) (v : Int) : State := wr s f (wrapTo f.w v)

/-- A truth value written to a field. -/
def wrB (s : State) (f : Fld) (b : Bool) : State := wr s f (natOf b)

/-- A counter plus n that saturates at its greatest value. -/
def addSat (s : State) (f : Fld) (n : Nat) : State := wr s f (min (rd s f + n) (2 ^ f.w - 1))

/-- A counter plus 1 that saturates. -/
def incSat (s : State) (f : Fld) : State := addSat s f 1

/-- A counter plus 1 that wraps. -/
def incWrap (s : State) (f : Fld) : State := wr s f (rd s f + 1)

/-- A bit of a mask field. -/
def rdBit (s : State) (f : Fld) (k : Nat) : Bool := bitOf (rd s f) k

/-- A number with bit k set or cleared. -/
def withBit (n k : Nat) (b : Bool) : Nat :=
  if b then n ||| 2 ^ k else if bitOf n k then n ^^^ 2 ^ k else n

/-- A bit of a mask field written. -/
def wrBit (s : State) (f : Fld) (k : Nat) (b : Bool) : State := wr s f (withBit (rd s f) k b)

/-- Bits ORed into a field: an event bit set by the hardware (R6, R8). -/
def orF (s : State) (f : Fld) (m : Nat) : State := wr s f (rd s f ||| m)

/-- A list of field values written in order. -/
def wrs (s : State) (l : List (Fld × Nat)) : State := l.foldl (fun t p => wr t p.1 p.2) s

/-- A 32-bit word of the register space without a field table of its own. -/
def rdW (s : State) (a : Nat) : Nat := cellGet (cellAt s a) 0 32

/-- A 32-bit word written. -/
def wrW (s : State) (a v : Nat) : State := setCell s a (BitVec.ofNat 64 (v % 2 ^ 32))

/-! ## Memories (log entry 13) -/

/-- Key of poll-memory word 0, of stretch layout bank 0, and of the KEY image (log entry 13). -/
def pollBase : Nat := 0x1_0000_0000
def layoutBase : Nat := 0x1_1000_0000
def keyBase : Nat := 0x1_3000_0000

/-- The first byte of the NOR read window and its size (R386). -/
def norBase : Nat := 0x8000_0000
def norSize : Nat := 0x400_0000

/-- What an unlisted address reads as: 0xFF in the flash, the undefined power-up contents in the stretch memory (R19), QUAL = STALE in the status words of the Ledger after reset,
0 elsewhere. -/
def unlisted (a : Nat) : Byte :=
  if norBase ≤ a ∧ a < norBase + norSize then 0xFF
  else if layoutBase ≤ a ∧ a < keyBase then Config.stretchInit a
  else if 0x500E_0000 ≤ a ∧ a < 0x500E_E000 ∧ a % 4 = 3 then 0x02
  else 0

/-- One byte of memory. -/
def memGet (s : State) (a : Nat) : Byte := tget unlisted s.mem a

/-- One byte of memory written. -/
def memPut (s : State) (a : Nat) (b : Byte) : State := { s with mem := tput unlisted s.mem a b }

/-- A run of bytes, lowest address first. -/
def memBytes (s : State) (a : Nat) : Nat → List Byte
  | 0 => []
  | n + 1 => memGet s a :: memBytes s (a + 1) n

/-- A run of bytes written. -/
def memPuts (s : State) (a : Nat) : List Byte → State
  | [] => s
  | b :: bs => memPuts (memPut s a b) (a + 1) bs

/-- The number little-endian bytes make (R5). -/
def leNat : List Byte → Nat
  | [] => 0
  | b :: bs => b.toNat + 256 * leNat bs

/-- The n little-endian bytes of a number (R5). -/
def leBytes : Nat → Nat → List Byte
  | 0, _ => []
  | n + 1, v => BitVec.ofNat 8 v :: leBytes n (v / 256)

/-- The number big-endian bytes make (R4). -/
def beNat (bs : List Byte) : Nat := bs.foldl (fun n b => 256 * n + b.toNat) 0

/-- The n big-endian bytes of a number (R4). -/
def beBytes (n v : Nat) : List Byte := (leBytes n v).reverse

/-- The n bytes from an offset. -/
def slice (bs : List Byte) (off n : Nat) : List Byte := (bs.drop off).take n

/-- The bytes with a run from an offset replaced. -/
def patch (bs : List Byte) (off : Nat) (x : List Byte) : List Byte := bs.take off ++ x ++ bs.drop (off + x.length)

/-- Bits lo to lo + w - 1 of a number. -/
def bits (n lo w : Nat) : Nat := n / 2 ^ lo % 2 ^ w

/-- A number with those bits replaced. -/
def setBits (n lo w v : Nat) : Nat := n % 2 ^ lo + v % 2 ^ w * 2 ^ lo + n / 2 ^ (lo + w) * 2 ^ (lo + w)

/-- A 32-bit word of memory (R5). -/
def memWord (s : State) (a : Nat) : Nat := leNat (memBytes s a 4)

/-- A 32-bit word of memory written (R5). -/
def memPutWord (s : State) (a v : Nat) : State := memPuts s a (leBytes 4 v)

/-- NOR programming: bits go from 1 to 0 only. -/
def norProgram (s : State) (off : Nat) : List Byte → State
  | [] => s
  | b :: bs => norProgram (memPut s (norBase + off) (memGet s (norBase + off) &&& b)) (off + 1) bs

/-- NOR erase of the bytes from off to off + n - 1. -/
def norErase (s : State) (off n : Nat) : State :=
  { s with mem := s.mem.filter fun c => c.1 < norBase + off ∨ norBase + off + n ≤ c.1 }

/-- Whether n bytes of the flash from off read 0xFF. -/
def norBlank (s : State) (off n : Nat) : Bool :=
  s.mem.all fun c => c.1 < norBase + off || norBase + off + n ≤ c.1

/-- The canonical form of memory: addresses strictly rising, no entry equal to what its address reads as unlisted. -/
def Memory.wf : List Host.Cell → Bool
  | [] => true
  | [c] => c.2 != unlisted c.1
  | c :: c' :: m => c.2 != unlisted c.1 && decide (c.1 < c'.1) && Memory.wf (c' :: m)

/-! ## Check values -/

/-- The n low bits of a number in reverse order. -/
def bitRev : Nat → Nat → Nat
  | 0, _ => 0
  | n + 1, v => (v % 2) * 2 ^ n + bitRev n (v / 2)

/-- One bit of a reflected CRC register of 32 bits. -/
def crcBit (poly r : Nat) : Nat := if r % 2 = 1 then (r / 2) ^^^ poly else r / 2

/-- One byte of a reflected CRC register of 32 bits. -/
def crcByte (poly r : Nat) (b : Byte) : Nat :=
  (List.range 8).foldl (fun x _ => crcBit poly x) (r ^^^ b.toNat)

/-- CRC-32C as R61 gives it: reflected 0x1EDC6F41, initial and final complement. -/
def crc32c (bs : List Byte) : Nat := bs.foldl (crcByte 0x82F63B78) 0xFFFF_FFFF ^^^ 0xFFFF_FFFF

/-- The IEEE 802.3 frame check sequence: reflected 0x04C11DB7. -/
def fcs32 (bs : List Byte) : Nat := bs.foldl (crcByte 0xEDB88320) 0xFFFF_FFFF ^^^ 0xFFFF_FFFF

/-! ## Free values -/

/-- The next free value of w bits. -/
def freeOf (s : State) (w : Nat) : Nat := (Config.freeValue w s.fresh).toNat

/-- One free value used. -/
def State.used (s : State) : State := { s with fresh := s.fresh + 1 }

/-- A quotient rounded where the spec gives no direction: down, or up where Config.roundsUp says so. -/
def roundDiv (a : Int) (d : Nat) : Int :=
  if d = 0 then 0
  else if a % d = 0 then a / d else a / d + (if Config.roundsUp a d then 1 else 0)

/-! ## Time (R114) -/

/-- The units of one nanosecond. -/
def nsUnit : Nat := 2 ^ 48

/-- Fabric time in whole ns: the 64 bits of BELL_FT. -/
def ftNs (s : State) : Nat := s.clk.ft.toNat / 2 ^ 48

/-- The 16-bit fraction of a ns. -/
def ftFrac (s : State) : Nat := s.clk.ft.toNat / 2 ^ 32 % 2 ^ 16

/-- One CLK_CORE period in units of 2^-48 ns at the present FREQ: 1.6 ns × (1 + FREQ × 2^-40). -/
def cycleUnits (s : State) : Int := roundDiv (8 * 2 ^ 48 / 2 ^ 40 * ((2 : Int) ^ 40 + rdI s BELL_FREQ_FREQ)) 5

/-- n CLK_CORE cycles pass. While a full reset holds the ring domain, its fabric time counter is held too (R16, R421). -/
def advance (s : State) (n : Nat) : State :=
  { s with clk := if s.rst.busy ∧ s.rst.full then s.clk
                  else { ft := BitVec.ofInt 112 ((s.clk.ft.toNat : Int) + cycleUnits s * n), cyc := s.clk.cyc + n } }

/-- CLK_CORE cycles pass until FT in ns is at or past an instant; none where it already is. -/
def advanceTo (s : State) (ns : Nat) : State :=
  if ns ≤ ftNs s ∨ cycleUnits s ≤ 0 then s
  else advance s (((ns : Int) * 2 ^ 48 - s.clk.ft.toNat + cycleUnits s - 1) / cycleUnits s).toNat

/-- Fabric time moved by a signed number of units of 2^-48 ns (R118, R125). -/
def stepFt (s : State) (u : Int) : State :=
  { s with clk := { s.clk with ft := BitVec.ofInt 112 ((s.clk.ft.toNat : Int) + u) } }

/-- The distance of R128 from a time to a target, modulo 2^40. -/
def dist40 (target now : Nat) : Nat := (target + 2 ^ 40 - now % 2 ^ 40) % 2 ^ 40

/-- The target lies in the past range of R128. -/
def past40 (target now : Nat) : Bool := dist40 target now > 2 ^ 39

/-- The target is now or in the past (R128). -/
def due40 (target now : Nat) : Bool := dist40 target now = 0 || past40 target now

/-! ## Laps and ticks (R62) -/

/-- Whole periods of p ns from the epoch offset to now. -/
def periods (s : State) (p : Nat) : Int := ((ftNs s : Int) - rd s BELL_EPOCH_OFS_NS) / p

/-- k: laps in a tick. -/
def lapsPerTick (s : State) : Nat := rd s TRN_CTRL_K_M1 + 1

/-- T_lap in ns. -/
def tLap (s : State) : Nat := rd s TRN_TLAP_NS

/-- The current lap, counted in full. -/
def lapNow (s : State) : Int := periods s (tLap s)

/-- The current tick as the ring domain counts it: T_tick is k laps (R62, R64, R67). -/
def ringTick (s : State) : Int := lapNow s / lapsPerTick s

/-- The current tick, counted in full. -/
def tickNow (s : State) : Int := periods s (rd s TRD_TICK_NS_NS)

/-- FT in ns of the boundary that begins period n. -/
def boundaryNs (s : State) (p : Nat) (n : Int) : Int := rd s BELL_EPOCH_OFS_NS + n * p

/-- A boundary of period p is taken now where the last one taken lies before it, and otherwise the next one is waited
for (log entry 40). -/
def toBoundary (s : State) (p : Nat) (last : Option Int) : State :=
  match last with
  | none => s
  | some n => if n < periods s p then s else advanceTo s (boundaryNs s p (n + 1)).toNat

/-- ns since the last lap boundary. -/
def lapPos (s : State) : Nat := (((ftNs s : Int) - rd s BELL_EPOCH_OFS_NS) % (tLap s : Int)).toNat

/-- A difference in modular order of w bits, as a signed number. -/
def modDiff (w : Nat) (a b : Int) : Int := (a - b + 2 ^ (w - 1)) % 2 ^ w - 2 ^ (w - 1)

/-! ## Indexed parts of State -/

def State.port (s : State) (p : Nat) : Port := tget (fun _ => {}) s.ports p
def State.setPort (s : State) (p : Nat) (x : Port) : State := { s with ports := tput (fun _ => {}) s.ports p x }
def State.chn (s : State) (n : Nat) : Chn := tget (fun _ => {}) s.chns n
def State.setChn (s : State) (n : Nat) (x : Chn) : State := { s with chns := tput (fun _ => {}) s.chns n x }
def State.can (s : State) (c : Nat) : Can := tget (fun _ => {}) s.cans c
def State.setCan (s : State) (c : Nat) (x : Can) : State := { s with cans := tput (fun _ => {}) s.cans c x }
def State.line (s : State) (n : Nat) : Line := tget (fun _ => {}) s.lines n
def State.setLine (s : State) (n : Nat) (x : Line) : State := { s with lines := tput (fun _ => {}) s.lines n x }
def State.quad (s : State) (d : Nat) : Quad := tget (fun _ => {}) s.quads d
def State.setQuad (s : State) (d : Nat) (x : Quad) : State := { s with quads := tput (fun _ => {}) s.quads d x }
def State.brn (s : State) (n : Nat) : Brn := tget (fun _ => {}) s.brns n
def State.setBrn (s : State) (n : Nat) (x : Brn) : State := { s with brns := tput (fun _ => {}) s.brns n x }
/-- An input word of the engines' staging (R144). -/
def State.stgWord (s : State) (w : Nat) : Nat := (tget (fun _ => 0) s.stg w).toNat
def State.setStg (s : State) (w v : Nat) : State :=
  { s with
    stg := tput (fun _ => 0) s.stg w (BitVec.ofNat 32 v)
    stgTick := some (tickNow s)
    stgOld := if s.stgTick = some (tickNow s) then s.stgOld else s.stg }

/-- The staging copy that the boundary of tick n latches: an update in or behind the boundary cycle comes after the
latch (R234, R256). A tick taken late latches what stands then. -/
def stgAt (s : State) (n : Int) (late : Bool) : List (Nat × Word) :=
  if s.stgTick = some n ∧ !late then s.stgOld else s.stg

/-- The block sends or answers something. -/
def State.emit (s : State) (o : Output) : State := { s with out := o :: s.out }

/-- The outcome of every meaning of this model: a next state. -/
abbrev Out := Host.Outcome State Fault Refusal

/-- The list of indices below n at which a test holds. -/
def those (n : Nat) (p : Nat → Bool) : List Nat := (List.range n).filter p

/-- The sum of a list. -/
def sumOf (l : List Nat) : Nat := l.foldl (· + ·) 0

/-- The mask of the indices below n at which a test holds. -/
def maskOf (n : Nat) (p : Nat → Bool) : Nat := (List.range n).foldl (fun m k => if p k then m + 2 ^ k else m) 0

/-- A step applied to every index of a list, in order. -/
def each (l : List Nat) (f : State → Nat → State) (s : State) : State := l.foldl f s

/-! ## Hub states (R351) -/

/-- The encodings of SYS_STATE. -/
def stStart : Nat := 1
def stJoining : Nat := 2
def stRun : Nat := 3
def stDegraded : Nat := 4
def stHalted : Nat := 5
def stSafe : Nat := 6
def stResting : Nat := 7
def stDump : Nat := 8

/-- The hub state. -/
def hubState (s : State) : Nat := rd s SYS_STATE_STATE

/-- The hub is in RUN or DEGRADED. -/
def running (s : State) : Bool := hubState s = stRun || hubState s = stDegraded

/-- The hub domain is out of reset. -/
def alive (s : State) : Bool := !s.rst.busy

/-- What the hub domain does, where it is out of reset; in reset it does nothing (R24). -/
def whenAlive (s : State) (f : State → State) : State := if s.rst.busy then s else f s

end Sys2Proof.Machine
end

