-- ==== Sys2Proof/Machine/AsyOps.lean ====
section
/-! DEFINITION. The check-value algorithms of the Assay contexts, and append and check for the channels
(R296 to R299, R304, R305). -/

namespace Sys2Proof.Machine

/-- The algorithm of a context: 5 to 7 act as SUM8 (R296). -/
def asyAlg (s : State) (c : Nat) : Nat := if rd s (ASY_CTX_CFG_ALG c) < 5 then rd s (ASY_CTX_CFG_ALG c) else 1

/-- W of a CRC context (R297). -/
def asyW (s : State) (c : Nat) : Nat :=
  let w := rd s (ASY_CTX_CFG_WIDTH c)
  if w = 0 then 64 else if 3 ≤ w ∧ w ≤ 32 then w else 32

/-- The width of INIT and XOROUT: the algorithm's (R296). -/
def asyWidth (s : State) (c : Nat) : Nat :=
  match asyAlg s c with
  | 0 => asyW s c
  | 2 => 16
  | 3 => 16
  | _ => 8

/-- INIT masked to the algorithm's width. -/
def asyInit (s : State) (c : Nat) : Nat := rd s (ASY_CTX_INIT_VALUE c) % 2 ^ asyWidth s c

/-- A value as VAL holds it: the bits of a CRC above W - 1 read as 0 (R297). -/
def asyVal (s : State) (c v : Nat) : Nat := if asyAlg s c = 0 then v % 2 ^ asyW s c else v

/-- XOROUT masked to the algorithm's width. -/
def asyXor (s : State) (c : Nat) : Nat := rd s (ASY_CTX_XOR_VALUE c) % 2 ^ asyWidth s c

/-- One bit of the CRC of R297: w the width, poly the polynomial, the data bit, the register. -/
def asyCrcBit (w poly : Nat) (b : Bool) (v : Nat) : Nat :=
  let sh := v * 2 % 2 ^ w
  if bitOf v (w - 1) != b then sh ^^^ poly % 2 ^ w else sh

/-- One byte of the CRC of R297. -/
def asyCrcByte (w poly : Nat) (refin : Bool) (v b : Nat) : Nat :=
  let x := if refin then bitRev 8 b else b
  [7, 6, 5, 4, 3, 2, 1, 0].foldl (fun r i => asyCrcBit w poly (bitOf x i) r) v

/-- The running value after one byte (R296 to R298). -/
def asyByte (s : State) (c v b : Nat) : Nat :=
  match asyAlg s c with
  | 0 => asyCrcByte (asyW s c) (rd s (ASY_CTX_POLY_VALUE c)) (flag s (ASY_CTX_CFG_REFIN c)) (v % 2 ^ asyW s c) b
  | 2 =>
    if bitOf v 24 then (v % 2 ^ 16 + v / 2 ^ 16 % 2 ^ 8 * 256 + b) % 2 ^ 16
    else v % 2 ^ 16 + b * 2 ^ 16 + 2 ^ 24
  | 3 =>
    let s1 := (v % 256 + b) % 255
    s1 + (v / 256 % 256 + s1) % 255 * 256
  | _ => (v + b) % 256

/-- RES of a running value (R296, R298). -/
def asyRes (s : State) (c v : Nat) : Nat :=
  (match asyAlg s c with
  | 0 => if flag s (ASY_CTX_CFG_REFOUT c) then bitRev (asyW s c) v else v % 2 ^ asyW s c
  | 1 => v % 256
  | 2 => if bitOf v 24 then (v % 2 ^ 16 + v / 2 ^ 16 % 2 ^ 8 * 256) % 2 ^ 16 else v % 2 ^ 16
  | 3 => v % 2 ^ 16
  | _ => (256 - v % 256) % 256) ^^^ asyXor s c

/-- L: the length of the check value in bytes. -/
def asyLen (s : State) (c : Nat) : Nat :=
  match asyAlg s c with
  | 0 => (asyW s c + 7) / 8
  | 2 => 2
  | 3 => 2
  | _ => 1

/-- The check value of R299 as bytes in the order they are sent. -/
def asyCheckBytes (s : State) (c v : Nat) : List Byte :=
  let le := leBytes (asyLen s c) (asyRes s c v)
  if flag s (ASY_CTX_CFG_ORDER c) then le else le.reverse

/-- The running value after a list of bytes. -/
def asyBytes (s : State) (c v : Nat) (bs : List Byte) : Nat := bs.foldl (fun x b => asyByte s c x b.toNat) v

/-- At least one unit is in service (R306). -/
def asyServes (s : State) : Bool := rd s ASY_STATUS_FAILED != 0xFFFF

/-- A context with a frame in progress has been damaged: the frame's check fails (R309). -/
def asyDamaged (s : State) (c : Nat) : Bool := s.bad.contains (7 * 2 ^ 28 + c)

/-- The next frame begins a damaged context anew. -/
def asyMended (s : State) (c : Nat) : State := { s with bad := s.bad.filter (· != 7 * 2 ^ 28 + c) }

/-- A frame is built on a context: VAL takes INIT and every byte, and the check value is appended (R304). -/
def asyAppend (s : State) (c : Nat) (bs : List Byte) : List Byte × State :=
  let v := asyBytes s c (asyInit s c) bs
  (bs ++ asyCheckBytes s c v, incWrap (wr (asyMended s c) (ASY_CTX_VAL_VAL c) v) (ASY_CTX_CNT_FRAMES c))

/-- A frame is checked on a context: the last L bytes are stripped and compared (R305). -/
def asyCheck (s : State) (c : Nat) (bs : List Byte) : Bool × List Byte × State :=
  let l := asyLen s c
  let body := bs.take (bs.length - l)
  let v := asyBytes s c (asyInit s c) body
  let ok := l ≤ bs.length && bs.drop (bs.length - l) == asyCheckBytes s c v && !asyDamaged s c
  let t := incWrap (wr (asyMended s c) (ASY_CTX_VAL_VAL c) v) (ASY_CTX_CNT_FRAMES c)
  (ok, body, if ok then t else incSat t (ASY_CTX_CNT_MIS c))

end Sys2Proof.Machine
end

