-- ==== Sys2Proof/Machine/RegMap.lean ====
section
/-! DEFINITION. The register map: for every register of the spec its local address, the strides and counts of its
instances (R390), its reset domain (R16), and for every field its place, access type (R6) and reset value (R10).
A field whose Reset column reads Last, X or Fixed stands here with 0 (log entries 10 and 11). -/

namespace Sys2Proof.Machine

/-- Registers of SYS (part 0). -/
def regsSYS0 : List RegSpec := [
  -- SYS_HUB_ID
  ⟨0x0, 0x10000, 1, 0x10000, 1, false, .ring, [⟨0, 12, .rwl, 0⟩]⟩,
  -- SYS_STATE
  ⟨0x4, 0x10000, 1, 0x10000, 1, false, .ring, [⟨0, 4, .ro, 1⟩]⟩,
  -- SYS_RST_CAUSE
  ⟨0x8, 0x10000, 1, 0x10000, 1, false, .ring, [⟨0, 3, .ro, 0⟩, ⟨8, 8, .ro, 0⟩]⟩,
  -- SYS_STEP
  ⟨0x40, 0x10000, 1, 0x10000, 1, false, .hub, [⟨0, 4, .ro, 0⟩]⟩,
  -- SYS_DEG
  ⟨0x44, 0x10000, 1, 0x10000, 1, false, .hub, [⟨0, 4, .ro, 0⟩]⟩,
  -- SYS_SHUT
  ⟨0x48, 0x10000, 1, 0x10000, 1, false, .hub, [⟨0, 1, .wo, 0⟩, ⟨1, 1, .wo, 0⟩, ⟨16, 16, .rwl, 0⟩]⟩,
  -- SYS_EVT
  ⟨0x4C, 0x10000, 1, 0x10000, 1, false, .hub, [⟨0, 1, .w1c, 0⟩, ⟨1, 1, .w1c, 0⟩, ⟨2, 1, .w1c, 0⟩]⟩,
  -- SYS_IRQ_EN
  ⟨0x50, 0x10000, 1, 0x10000, 1, false, .hub, [⟨0, 3, .rw, 0⟩]⟩,
  -- SYS_START_NO
  ⟨0x54, 0x10000, 1, 0x10000, 1, false, .hub, [⟨0, 32, .ro, 0⟩]⟩,
  -- SYS_VERDICT
  ⟨0x58, 0x10000, 1, 0x10000, 1, true, .aon, [⟨0, 2, .ro, 0⟩, ⟨2, 1, .ro, 0⟩, ⟨3, 1, .ro, 0⟩, ⟨32, 32, .ro, 0⟩]⟩,
  -- SYS_LC
  ⟨0x60, 0x10000, 1, 0x10000, 1, false, .hub, [⟨0, 2, .ro, 0⟩, ⟨4, 4, .ro, 0⟩, ⟨8, 4, .ro, 0⟩]⟩,
  -- SYS_LC_CMD
  ⟨0x64, 0x10000, 1, 0x10000, 1, false, .hub, [⟨0, 2, .wo, 0⟩]⟩]

/-- Registers of SYS (part 1). -/
def regsSYS1 : List RegSpec := [
  -- SYS_UID
  ⟨0x68, 0x10000, 1, 0x10000, 1, true, .hub, [⟨0, 64, .ro, 0⟩]⟩,
  -- SYS_NONCE
  ⟨0x70, 0x10000, 1, 0x10000, 1, true, .hub, [⟨0, 64, .ro, 0⟩]⟩,
  -- SYS_TOKEN
  ⟨0x100, 0x4, 32, 0x4, 1, false, .hub, [⟨0, 32, .wo, 0⟩]⟩]

/-- The registers of the block SYS, base 0x40000000. -/
def regsSYS : List RegSpec := regsSYS0 ++ regsSYS1

/-- Registers of WELT (part 0). -/
def regsWELT0 : List RegSpec := [
  -- WELT_CTRL
  ⟨0x0, 0x10000, 1, 0x10000, 1, false, .ring, [⟨0, 1, .rwl, 0⟩, ⟨1, 1, .rwl, 0⟩, ⟨2, 1, .w1s, 0⟩, ⟨16, 10, .rwl, 0⟩]⟩,
  -- WELT_STATUS
  ⟨0x4, 0x10000, 1, 0x10000, 1, false, .ring, [⟨0, 2, .ro, 1⟩, ⟨2, 1, .ro, 0⟩, ⟨3, 1, .ro, 0⟩, ⟨4, 4, .ro, 15⟩]⟩,
  -- WELT_BRINGUP
  ⟨0x8, 0x10000, 1, 0x10000, 1, false, .ring, [⟨0, 16, .rwl, 0⟩]⟩,
  -- WELT_LBK_RESULT
  ⟨0xC, 0x10000, 1, 0x10000, 1, false, .ring, [⟨0, 4, .ro, 0⟩, ⟨4, 4, .ro, 0⟩]⟩,
  -- WELT_XDISC
  ⟨0x10, 0x10000, 1, 0x10000, 1, false, .ring, [⟨0, 32, .rc, 0⟩]⟩,
  -- WELT_PORT_CTRL
  ⟨0x100, 0x100, 4, 0x100, 1, false, .ring, [⟨0, 1, .rwl, 0⟩, ⟨1, 1, .rwl, 0⟩, ⟨2, 1, .rw, 0⟩]⟩,
  -- WELT_PORT_STAT
  ⟨0x104, 0x100, 4, 0x100, 1, false, .ring, [⟨0, 3, .ro, 0⟩, ⟨3, 1, .ro, 0⟩, ⟨4, 1, .ro, 0⟩, ⟨5, 1, .ro, 0⟩, ⟨6, 1, .ro, 0⟩, ⟨7, 1, .ro, 0⟩, ⟨8, 1, .ro, 0⟩, ⟨9, 1, .ro, 0⟩, ⟨10, 1, .ro, 0⟩]⟩,
  -- WELT_PORT_EVT
  ⟨0x108, 0x100, 4, 0x100, 1, false, .ring, [⟨0, 1, .w1c, 0⟩, ⟨1, 1, .w1c, 0⟩, ⟨2, 1, .w1c, 0⟩, ⟨3, 1, .w1c, 0⟩, ⟨4, 1, .w1c, 0⟩, ⟨5, 1, .w1c, 0⟩, ⟨6, 1, .w1c, 0⟩, ⟨7, 1, .w1c, 0⟩]⟩,
  -- WELT_LDLY
  ⟨0x10C, 0x100, 4, 0x100, 1, false, .ring, [⟨16, 16, .ro, 0⟩, ⟨0, 16, .ro, 0⟩]⟩,
  -- WELT_ASYM
  ⟨0x110, 0x100, 4, 0x100, 1, false, .ring, [⟨0, 32, .rwl, 0⟩]⟩,
  -- WELT_LDLY_CNT
  ⟨0x114, 0x100, 4, 0x100, 1, false, .ring, [⟨0, 16, .ro, 0⟩, ⟨16, 16, .ro, 0⟩]⟩,
  -- WELT_PCS_ERR
  ⟨0x118, 0x100, 4, 0x100, 1, false, .ring, [⟨0, 32, .rc, 0⟩]⟩]

/-- Registers of WELT (part 1). -/
def regsWELT1 : List RegSpec := [
  -- WELT_WRAP_CNT
  ⟨0x11C, 0x100, 4, 0x100, 1, false, .ring, [⟨0, 16, .ro, 0⟩]⟩,
  -- WELT_SFP_MGMT
  ⟨0x120, 0x100, 4, 0x100, 1, false, .ring, [⟨0, 8, .rw, 0⟩, ⟨8, 8, .rw, 0⟩, ⟨16, 1, .rw, 0⟩, ⟨17, 1, .rw, 0⟩, ⟨30, 1, .w1s, 0⟩, ⟨31, 1, .ro, 0⟩]⟩]

/-- The registers of the block WELT, base 0x40010000. -/
def regsWELT : List RegSpec := regsWELT0 ++ regsWELT1

/-- Registers of TRN (part 0). -/
def regsTRN0 : List RegSpec := [
  -- TRN_CTRL
  ⟨0x0, 0x10000, 1, 0x10000, 1, false, .ring, [⟨0, 2, .rwl, 0⟩, ⟨4, 4, .rwl, 0⟩, ⟨8, 8, .rwl, 0⟩]⟩,
  -- TRN_TLAP
  ⟨0x4, 0x10000, 1, 0x10000, 1, false, .ring, [⟨0, 32, .rwl, 0⟩]⟩,
  -- TRN_HEADS
  ⟨0x8, 0x10000, 1, 0x10000, 1, false, .ring, [⟨0, 12, .rwl, 0⟩, ⟨16, 12, .rwl, 0⟩]⟩,
  -- TRN_STATUS
  ⟨0xC, 0x10000, 1, 0x10000, 1, false, .ring, [⟨0, 1, .ro, 0⟩, ⟨1, 1, .ro, 0⟩, ⟨2, 1, .ro, 0⟩, ⟨3, 1, .ro, 0⟩, ⟨4, 4, .ro, 0⟩, ⟨8, 4, .ro, 0⟩]⟩,
  -- TRN_LAP
  ⟨0x10, 0x10000, 1, 0x10000, 1, false, .ring, [⟨0, 24, .ro, 0⟩, ⟨24, 4, .ro, 0⟩]⟩,
  -- TRN_SCHED
  ⟨0x14, 0x10000, 1, 0x10000, 1, false, .ring, [⟨0, 8, .ro, 0⟩, ⟨8, 8, .ro, 0⟩, ⟨16, 1, .ro, 0⟩, ⟨17, 1, .ro, 0⟩]⟩,
  -- TRN_SW_LAP
  ⟨0x18, 0x10000, 1, 0x10000, 1, false, .ring, [⟨0, 24, .rw, 0⟩, ⟨31, 1, .w1s, 0⟩]⟩,
  -- TRN_ROLE_CMD
  ⟨0x1C, 0x10000, 1, 0x10000, 1, false, .ring, [⟨0, 12, .rw, 0⟩, ⟨12, 1, .rw, 0⟩, ⟨13, 1, .rw, 0⟩, ⟨31, 1, .w1s, 0⟩]⟩,
  -- TRN_ROLE_LAP
  ⟨0x20, 0x10000, 1, 0x10000, 1, false, .ring, [⟨0, 24, .rw, 0⟩]⟩,
  -- TRN_EVT
  ⟨0x24, 0x10000, 1, 0x10000, 1, false, .ring, [⟨0, 4, .w1c, 0⟩, ⟨4, 1, .w1c, 0⟩, ⟨5, 1, .w1c, 0⟩, ⟨6, 1, .w1c, 0⟩, ⟨7, 1, .w1c, 0⟩, ⟨8, 1, .w1c, 0⟩, ⟨9, 1, .w1c, 0⟩, ⟨10, 1, .w1c, 0⟩, ⟨11, 1, .w1c, 0⟩, ⟨12, 1, .w1c, 0⟩, ⟨13, 1, .w1c, 0⟩]⟩,
  -- TRN_SMEM_ECC
  ⟨0x28, 0x10000, 1, 0x10000, 1, false, .ring, [⟨0, 16, .ro, 0⟩, ⟨16, 16, .ro, 0⟩]⟩,
  -- TRN_LAYOUT_ADDR
  ⟨0x2C, 0x10000, 1, 0x10000, 1, false, .ring, [⟨0, 14, .rw, 0⟩, ⟨14, 1, .rw, 0⟩, ⟨31, 1, .rw, 0⟩]⟩]

/-- Registers of TRN (part 1). -/
def regsTRN1 : List RegSpec := [
  -- TRN_LAYOUT_DATA
  ⟨0x30, 0x10000, 1, 0x10000, 1, false, .ring, [⟨0, 32, .rw, 0⟩]⟩,
  -- TRN_IRQ_EN
  ⟨0x80, 0x10000, 1, 0x10000, 1, false, .hub, [⟨0, 14, .rw, 0⟩]⟩,
  -- TRN_WIN_START
  ⟨0x100, 0x20, 4, 0x20, 1, false, .ring, [⟨0, 32, .rwl, 0⟩]⟩,
  -- TRN_WIN_END
  ⟨0x104, 0x20, 4, 0x20, 1, false, .ring, [⟨0, 32, .rwl, 0⟩]⟩,
  -- TRN_TRK_START
  ⟨0x108, 0x20, 4, 0x20, 1, false, .ring, [⟨0, 32, .ro, 0⟩]⟩,
  -- TRN_TRK_END
  ⟨0x10C, 0x20, 4, 0x20, 1, false, .ring, [⟨0, 32, .ro, 0⟩]⟩,
  -- TRN_SLIP_CNT
  ⟨0x110, 0x20, 4, 0x20, 1, false, .ring, [⟨0, 32, .rc, 0⟩]⟩,
  -- TRN_STOMP_CNT
  ⟨0x114, 0x20, 4, 0x20, 1, false, .ring, [⟨0, 32, .rc, 0⟩]⟩,
  -- TRN_LEAD_ARR
  ⟨0x200, 0x20, 4, 0x20, 1, false, .ring, [⟨0, 32, .ro, 0⟩]⟩,
  -- TRN_HDR_ERR
  ⟨0x204, 0x20, 4, 0x20, 1, false, .ring, [⟨0, 32, .rc, 0⟩]⟩,
  -- TRN_FRAME_CNT
  ⟨0x208, 0x20, 4, 0x20, 1, false, .ring, [⟨0, 32, .ro, 0⟩]⟩,
  -- TRN_STALE_CNT
  ⟨0x20C, 0x20, 4, 0x20, 1, false, .ring, [⟨0, 16, .rc, 0⟩, ⟨16, 16, .rc, 0⟩]⟩]

/-- The registers of the block TRN, base 0x40020000. -/
def regsTRN : List RegSpec := regsTRN0 ++ regsTRN1

/-- Registers of LDG (part 0). -/
def regsLDG0 : List RegSpec := [
  -- LDG_CTRL
  ⟨0x0, 0x10000, 1, 0x10000, 1, false, .hub, [⟨0, 10, .rwl, 0⟩, ⟨16, 8, .rwl, 0⟩]⟩,
  -- LDG_STATUS
  ⟨0x4, 0x10000, 1, 0x10000, 1, false, .hub, [⟨0, 1, .ro, 0⟩, ⟨1, 1, .ro, 0⟩, ⟨16, 14, .ro, 0⟩]⟩,
  -- LDG_EVT
  ⟨0x8, 0x10000, 1, 0x10000, 1, false, .hub, [⟨0, 1, .w1c, 0⟩, ⟨1, 1, .w1c, 0⟩, ⟨2, 1, .w1c, 0⟩, ⟨3, 1, .w1c, 0⟩, ⟨4, 1, .w1c, 0⟩, ⟨5, 1, .w1c, 0⟩]⟩,
  -- LDG_IRQ_EN
  ⟨0xC, 0x10000, 1, 0x10000, 1, false, .hub, [⟨0, 6, .rw, 0⟩]⟩,
  -- LDG_MAXAGE
  ⟨0x10, 0x4, 8, 0x4, 1, false, .hub, [⟨0, 10, .rwl, 0⟩, ⟨31, 1, .rwl, 0⟩]⟩,
  -- LDG_CRC_CNT
  ⟨0x30, 0x4, 4, 0x4, 1, false, .hub, [⟨0, 32, .rc, 0⟩]⟩,
  -- LDG_FMT_CNT
  ⟨0x40, 0x10000, 1, 0x10000, 1, false, .hub, [⟨0, 32, .rc, 0⟩]⟩,
  -- LDG_PUB_REJ
  ⟨0x44, 0x10000, 1, 0x10000, 1, false, .hub, [⟨0, 32, .rc, 0⟩]⟩,
  -- LDG_LAST_STALE
  ⟨0x48, 0x10000, 1, 0x10000, 1, false, .hub, [⟨0, 14, .ro, 0⟩, ⟨16, 16, .ro, 0⟩]⟩,
  -- LDG_ACCEPT_CNT
  ⟨0x50, 0x4, 4, 0x4, 1, false, .hub, [⟨0, 32, .ro, 0⟩]⟩,
  -- LDG_OBIND0
  ⟨0x400, 0x8, 128, 0x8, 1, false, .hub, [⟨0, 14, .rwl, 0⟩, ⟨14, 2, .rwl, 0⟩, ⟨16, 1, .rwl, 0⟩, ⟨17, 9, .rwl, 0⟩, ⟨31, 1, .rwl, 0⟩]⟩,
  -- LDG_OBIND1
  ⟨0x404, 0x8, 128, 0x8, 1, false, .hub, [⟨0, 8, .rwl, 0⟩, ⟨8, 8, .rwl, 0⟩, ⟨16, 1, .ro, 0⟩]⟩]

/-- The registers of the block LDG, base 0x40030000. -/
def regsLDG : List RegSpec := regsLDG0

/-- Registers of BELL (part 0). -/
def regsBELL0 : List RegSpec := [
  -- BELL_FT
  ⟨0x0, 0x10000, 1, 0x10000, 1, true, .ring, [⟨0, 64, .ro, 0⟩]⟩,
  -- BELL_FT_FRAC
  ⟨0x8, 0x10000, 1, 0x10000, 1, false, .ring, [⟨0, 16, .ro, 0⟩]⟩,
  -- BELL_FREQ
  ⟨0xC, 0x10000, 1, 0x10000, 1, false, .ring, [⟨0, 32, .ro, 0⟩]⟩,
  -- BELL_EPOCH_OFS
  ⟨0x10, 0x10000, 1, 0x10000, 1, false, .ring, [⟨0, 32, .rwl, 0⟩]⟩,
  -- BELL_PPS_CTRL
  ⟨0x14, 0x10000, 1, 0x10000, 1, false, .ring, [⟨0, 1, .rwl, 0⟩, ⟨1, 1, .rwl, 0⟩, ⟨2, 1, .ro, 0⟩, ⟨3, 1, .ro, 0⟩, ⟨4, 20, .rwl, 0⟩]⟩,
  -- BELL_PPS_PERIOD
  ⟨0x18, 0x10000, 1, 0x10000, 1, false, .ring, [⟨0, 32, .rwl, 0⟩]⟩,
  -- BELL_PPS_PHASE
  ⟨0x1C, 0x10000, 1, 0x10000, 1, false, .ring, [⟨0, 32, .rwl, 0⟩]⟩,
  -- BELL_CTRL
  ⟨0x40, 0x10000, 1, 0x10000, 1, false, .hub, [⟨0, 2, .rwl, 0⟩, ⟨2, 5, .rwl, 0⟩, ⟨7, 5, .rwl, 0⟩, ⟨12, 16, .rwl, 0⟩]⟩,
  -- BELL_STATUS
  ⟨0x44, 0x10000, 1, 0x10000, 1, false, .hub, [⟨0, 3, .ro, 0⟩, ⟨3, 1, .ro, 0⟩, ⟨4, 3, .ro, 0⟩, ⟨7, 4, .ro, 0⟩]⟩,
  -- BELL_OFFSET
  ⟨0x48, 0x10000, 1, 0x10000, 1, false, .hub, [⟨0, 32, .ro, 0⟩]⟩,
  -- BELL_EXT_OFS
  ⟨0x4C, 0x10000, 1, 0x10000, 1, false, .hub, [⟨0, 32, .wo, 0⟩]⟩,
  -- BELL_PPSIN_SEC
  ⟨0x50, 0x10000, 1, 0x10000, 1, false, .hub, [⟨0, 32, .rw, 0⟩]⟩]

/-- Registers of BELL (part 1). -/
def regsBELL1 : List RegSpec := [
  -- BELL_STEP
  ⟨0x58, 0x10000, 1, 0x10000, 1, true, .hub, [⟨0, 64, .wo, 0⟩]⟩,
  -- BELL_EVT
  ⟨0x60, 0x10000, 1, 0x10000, 1, false, .hub, [⟨0, 1, .w1c, 0⟩, ⟨1, 1, .w1c, 0⟩, ⟨2, 1, .w1c, 0⟩, ⟨3, 1, .w1c, 0⟩, ⟨4, 1, .w1c, 0⟩, ⟨5, 1, .w1c, 0⟩, ⟨6, 1, .w1c, 0⟩, ⟨7, 1, .w1c, 0⟩, ⟨8, 1, .w1c, 0⟩]⟩,
  -- BELL_IRQ_EN
  ⟨0x64, 0x10000, 1, 0x10000, 1, false, .hub, [⟨0, 9, .rw, 0⟩]⟩,
  -- BELL_TC_CNT
  ⟨0x68, 0x10000, 1, 0x10000, 1, false, .hub, [⟨0, 16, .rc, 0⟩, ⟨16, 16, .rc, 0⟩]⟩,
  -- BELL_CAP_CTRL
  ⟨0x100, 0x10, 32, 0x10, 1, false, .hub, [⟨0, 7, .rw, 0⟩, ⟨7, 2, .rw, 0⟩]⟩,
  -- BELL_CAP_STAT
  ⟨0x104, 0x10, 32, 0x10, 1, false, .hub, [⟨0, 3, .ro, 0⟩, ⟨3, 1, .w1c, 0⟩, ⟨4, 1, .ro, 0⟩, ⟨16, 16, .ro, 0⟩]⟩,
  -- BELL_CAP_TS
  ⟨0x108, 0x10, 32, 0x10, 1, true, .hub, [⟨0, 64, .ro, 0⟩]⟩,
  -- BELL_TRG_CTRL
  ⟨0x400, 0x10, 32, 0x10, 1, false, .hub, [⟨0, 1, .w1s, 0⟩, ⟨1, 1, .ro, 0⟩, ⟨2, 1, .w1c, 0⟩, ⟨3, 1, .w1c, 0⟩, ⟨4, 3, .rw, 0⟩, ⟨7, 7, .rw, 127⟩, ⟨16, 2, .rwl, 0⟩, ⟨18, 14, .rw, 1⟩]⟩,
  -- BELL_TRG_T
  ⟨0x404, 0x10, 32, 0x10, 1, true, .hub, [⟨0, 40, .rw, 0⟩]⟩,
  -- BELL_TRG_PER
  ⟨0x40C, 0x10, 32, 0x10, 1, false, .hub, [⟨0, 32, .rw, 0⟩]⟩]

/-- The registers of the block BELL, base 0x40040000. -/
def regsBELL : List RegSpec := regsBELL0 ++ regsBELL1

/-- Registers of TRD (part 0). -/
def regsTRD0 : List RegSpec := [
  -- TRD_CTRL
  ⟨0x0, 0x10000, 1, 0x10000, 1, false, .hub, [⟨0, 1, .rwl, 0⟩, ⟨12, 12, .rwl, 0⟩]⟩,
  -- TRD_TICK_NS
  ⟨0x4, 0x10000, 1, 0x10000, 1, false, .hub, [⟨0, 32, .rwl, 0⟩]⟩,
  -- TRD_P1P3
  ⟨0x8, 0x10000, 1, 0x10000, 1, false, .hub, [⟨0, 12, .rwl, 0⟩, ⟨16, 12, .rwl, 0⟩]⟩,
  -- TRD_P2P4
  ⟨0xC, 0x10000, 1, 0x10000, 1, false, .hub, [⟨0, 16, .rwl, 0⟩, ⟨16, 8, .rwl, 0⟩]⟩,
  -- TRD_LANE
  ⟨0x10, 0x4, 4, 0x4, 1, false, .hub, [⟨0, 13, .rwl, 0⟩, ⟨16, 14, .rwl, 0⟩]⟩,
  -- TRD_STATUS
  ⟨0x20, 0x10000, 1, 0x10000, 1, false, .hub, [⟨0, 3, .ro, 0⟩, ⟨3, 1, .ro, 0⟩, ⟨4, 4, .ro, 0⟩]⟩,
  -- TRD_TICKNO
  ⟨0x24, 0x10000, 1, 0x10000, 1, false, .hub, [⟨0, 32, .ro, 0⟩]⟩,
  -- TRD_P2_USED
  ⟨0x28, 0x10000, 1, 0x10000, 1, false, .hub, [⟨0, 16, .ro, 0⟩, ⟨16, 16, .ro, 0⟩]⟩,
  -- TRD_EVT
  ⟨0x2C, 0x10000, 1, 0x10000, 1, false, .hub, [⟨0, 1, .w1c, 0⟩, ⟨1, 1, .w1c, 0⟩, ⟨2, 1, .w1c, 0⟩, ⟨3, 1, .w1c, 0⟩, ⟨4, 1, .w1c, 0⟩, ⟨5, 1, .w1c, 0⟩, ⟨6, 1, .w1c, 0⟩]⟩,
  -- TRD_IRQ_EN
  ⟨0x30, 0x10000, 1, 0x10000, 1, false, .hub, [⟨0, 7, .rw, 0⟩]⟩,
  -- TRD_CNT
  ⟨0x34, 0x10000, 1, 0x10000, 1, false, .hub, [⟨0, 16, .rc, 0⟩, ⟨16, 16, .rc, 0⟩]⟩,
  -- TRD_ILL_RULE
  ⟨0x38, 0x10000, 1, 0x10000, 1, false, .hub, [⟨0, 13, .ro, 0⟩]⟩]

/-- Registers of TRD (part 1). -/
def regsTRD1 : List RegSpec := [
  -- TRD_WCONF
  ⟨0x3C, 0x10000, 1, 0x10000, 1, false, .hub, [⟨0, 26, .ro, 0⟩, ⟨26, 2, .ro, 0⟩]⟩,
  -- TRD_SCR
  ⟨0x4000, 0x4, 4096, 0x4, 1, false, .hub, [⟨0, 32, .rw, 0⟩]⟩,
  -- TRD_FLG
  ⟨0x8000, 0x4, 512, 0x4, 1, false, .hub, [⟨0, 32, .ro, 0⟩]⟩,
  -- TRD_IN
  ⟨0xA000, 0x4, 2048, 0x4, 1, false, .hub, [⟨0, 32, .ro, 0⟩]⟩,
  -- TRD_OUT
  ⟨0xC000, 0x4, 256, 0x4, 1, false, .hub, [⟨0, 32, .ro, 0⟩]⟩,
  -- TRD_SPW
  ⟨0xC800, 0x4, 32, 0x4, 1, false, .hub, [⟨0, 32, .ro, 0⟩]⟩]

/-- The registers of the block TRD, base 0x40050000. -/
def regsTRD : List RegSpec := regsTRD0 ++ regsTRD1

/-- Registers of DRV (part 0). -/
def regsDRV0 : List RegSpec := [
  -- DRV_CTRL
  ⟨0x0, 0x10000, 1, 0x10000, 1, false, .hub, [⟨0, 1, .rwl, 0⟩, ⟨8, 4, .rwl, 0⟩, ⟨16, 8, .rwl, 0⟩, ⟨24, 3, .rwl, 0⟩]⟩,
  -- DRV_STATUS
  ⟨0x4, 0x10000, 1, 0x10000, 1, false, .hub, [⟨0, 11, .ro, 0⟩, ⟨11, 1, .ro, 0⟩, ⟨12, 1, .ro, 0⟩, ⟨16, 5, .ro, 0⟩]⟩,
  -- DRV_EVT
  ⟨0x8, 0x10000, 1, 0x10000, 1, false, .hub, [⟨0, 1, .w1c, 0⟩, ⟨1, 1, .w1c, 0⟩, ⟨2, 1, .w1c, 0⟩, ⟨3, 1, .w1c, 0⟩, ⟨4, 1, .w1c, 0⟩, ⟨5, 1, .w1c, 0⟩, ⟨6, 1, .w1c, 0⟩, ⟨7, 1, .w1c, 0⟩]⟩,
  -- DRV_IRQ_EN
  ⟨0xC, 0x10000, 1, 0x10000, 1, false, .hub, [⟨0, 8, .rw, 0⟩]⟩,
  -- DRV_CNT_MATCH
  ⟨0x10, 0x10000, 1, 0x10000, 1, false, .hub, [⟨0, 32, .ro, 0⟩]⟩,
  -- DRV_CNT_A
  ⟨0x14, 0x10000, 1, 0x10000, 1, false, .hub, [⟨0, 16, .rc, 0⟩, ⟨16, 16, .rc, 0⟩]⟩,
  -- DRV_CNT_B
  ⟨0x18, 0x10000, 1, 0x10000, 1, false, .hub, [⟨0, 16, .rc, 0⟩, ⟨16, 16, .rc, 0⟩]⟩,
  -- DRV_CNT_C
  ⟨0x1C, 0x10000, 1, 0x10000, 1, false, .hub, [⟨0, 16, .rc, 0⟩, ⟨16, 16, .rc, 0⟩]⟩,
  -- DRV_SEQ
  ⟨0x20, 0x10000, 1, 0x10000, 1, false, .hub, [⟨0, 32, .ro, 0⟩]⟩,
  -- DRV_OBJ_CNT
  ⟨0x24, 0x10000, 1, 0x10000, 1, false, .hub, [⟨0, 20, .ro, 0⟩]⟩,
  -- DRV_DEST_CMD
  ⟨0x28, 0x10000, 1, 0x10000, 1, true, .hub, [⟨0, 32, .wo, 0⟩, ⟨32, 16, .wo, 0⟩, ⟨63, 1, .wo, 0⟩]⟩,
  -- DRV_DEST_STAT
  ⟨0x30, 0x10000, 1, 0x10000, 1, false, .hub, [⟨0, 3, .ro, 0⟩, ⟨3, 10, .ro, 0⟩]⟩]

/-- Registers of DRV (part 1). -/
def regsDRV1 : List RegSpec := [
  -- DRV_BELT_CTRL
  ⟨0x100, 0x20, 8, 0x20, 1, false, .hub, [⟨0, 2, .rwl, 0⟩, ⟨2, 4, .rwl, 0⟩, ⟨6, 1, .rwl, 0⟩, ⟨7, 1, .rwl, 0⟩, ⟨8, 14, .rwl, 0⟩, ⟨22, 5, .rwl, 0⟩, ⟨27, 3, .rwl, 0⟩]⟩,
  -- DRV_BELT_MUL
  ⟨0x104, 0x20, 8, 0x20, 1, false, .hub, [⟨0, 32, .rwl, 0⟩]⟩,
  -- DRV_BELT_SH
  ⟨0x108, 0x20, 8, 0x20, 1, false, .hub, [⟨0, 5, .rwl, 0⟩, ⟨8, 24, .rwl, 0⟩]⟩,
  -- DRV_BELT_V
  ⟨0x10C, 0x20, 8, 0x20, 1, false, .hub, [⟨0, 32, .ro, 0⟩]⟩,
  -- DRV_BELT_POS
  ⟨0x110, 0x20, 8, 0x20, 1, false, .hub, [⟨0, 32, .ro, 0⟩]⟩,
  -- DRV_BELT_STAT
  ⟨0x114, 0x20, 8, 0x20, 1, false, .hub, [⟨0, 1, .ro, 0⟩, ⟨1, 1, .ro, 0⟩]⟩,
  -- DRV_SNS_CTRL
  ⟨0x400, 0x10, 32, 0x10, 1, false, .hub, [⟨0, 1, .rwl, 0⟩, ⟨1, 7, .rwl, 0⟩, ⟨8, 1, .rwl, 0⟩, ⟨9, 1, .rwl, 0⟩, ⟨10, 3, .rwl, 0⟩, ⟨14, 6, .rwl, 0⟩, ⟨20, 2, .rwl, 0⟩]⟩,
  -- DRV_SNS_POS
  ⟨0x404, 0x10, 32, 0x10, 1, false, .hub, [⟨0, 32, .rwl, 0⟩]⟩,
  -- DRV_SNS_WIN
  ⟨0x408, 0x10, 32, 0x10, 1, false, .hub, [⟨0, 16, .rwl, 0⟩, ⟨16, 16, .rwl, 0⟩]⟩,
  -- DRV_SNS_CNT
  ⟨0x40C, 0x10, 32, 0x10, 1, false, .hub, [⟨0, 16, .ro, 0⟩, ⟨16, 16, .ro, 0⟩]⟩,
  -- DRV_ACT_CTRL
  ⟨0x800, 0x20, 64, 0x20, 1, false, .hub, [⟨0, 1, .rwl, 0⟩, ⟨1, 5, .rwl, 0⟩, ⟨6, 1, .rwl, 0⟩, ⟨7, 5, .rwl, 0⟩, ⟨12, 3, .rwl, 0⟩, ⟨15, 7, .rwl, 0⟩, ⟨22, 2, .rwl, 0⟩, ⟨24, 1, .rwl, 0⟩, ⟨25, 1, .rwl, 0⟩]⟩,
  -- DRV_ACT_DIST
  ⟨0x804, 0x20, 64, 0x20, 1, false, .hub, [⟨0, 32, .rwl, 0⟩]⟩]

/-- Registers of DRV (part 2). -/
def regsDRV2 : List RegSpec := [
  -- DRV_ACT_OFS
  ⟨0x808, 0x20, 64, 0x20, 1, false, .hub, [⟨0, 32, .rwl, 0⟩]⟩,
  -- DRV_ACT_MATCH
  ⟨0x80C, 0x20, 64, 0x20, 1, false, .hub, [⟨0, 16, .rwl, 0⟩, ⟨16, 16, .rwl, 0⟩]⟩,
  -- DRV_ACT_COND
  ⟨0x810, 0x20, 64, 0x20, 1, false, .hub, [⟨0, 16, .rwl, 0⟩, ⟨16, 16, .rwl, 0⟩]⟩,
  -- DRV_HO_OUT
  ⟨0x1000, 0x8, 4, 0x8, 1, false, .hub, [⟨0, 8, .rwl, 0⟩, ⟨8, 11, .ro, 0⟩, ⟨31, 1, .rwl, 0⟩]⟩,
  -- DRV_HO_IN
  ⟨0x1040, 0x8, 4, 0x8, 1, false, .hub, [⟨0, 14, .rwl, 0⟩, ⟨14, 5, .rwl, 0⟩, ⟨19, 3, .rwl, 0⟩, ⟨31, 1, .rwl, 0⟩]⟩,
  -- DRV_HO_DIST
  ⟨0x1044, 0x8, 4, 0x8, 1, false, .hub, [⟨0, 32, .rwl, 0⟩]⟩,
  -- DRV_REC_OBJ
  ⟨0x4000, 0x30, 1024, 0x30, 1, false, .hub, [⟨0, 32, .ro, 0⟩]⟩,
  -- DRV_REC_SEQN
  ⟨0x4004, 0x30, 1024, 0x30, 1, false, .hub, [⟨0, 32, .ro, 0⟩]⟩,
  -- DRV_REC_ENTRY
  ⟨0x4008, 0x30, 1024, 0x30, 1, true, .hub, [⟨0, 64, .ro, 0⟩]⟩,
  -- DRV_REC_ATTR
  ⟨0x4010, 0x30, 1024, 0x30, 1, true, .hub, [⟨0, 16, .ro, 0⟩, ⟨16, 4, .ro, 0⟩, ⟨32, 32, .ro, 0⟩]⟩,
  -- DRV_REC_LASTT
  ⟨0x4018, 0x30, 1024, 0x30, 1, true, .hub, [⟨0, 64, .ro, 0⟩]⟩,
  -- DRV_REC_ANCH
  ⟨0x4020, 0x30, 1024, 0x30, 1, false, .hub, [⟨0, 32, .ro, 0⟩]⟩]

/-- Registers of DRV (part 3). -/
def regsDRV3 : List RegSpec := [
  -- DRV_REC_ST
  ⟨0x4024, 0x30, 1024, 0x30, 1, false, .hub, [⟨0, 3, .ro, 0⟩, ⟨3, 5, .ro, 0⟩, ⟨8, 5, .ro, 0⟩, ⟨13, 1, .ro, 0⟩, ⟨14, 3, .ro, 0⟩, ⟨17, 1, .ro, 0⟩, ⟨18, 2, .ro, 0⟩, ⟨20, 12, .ro, 0⟩]⟩,
  -- DRV_REC_DCL
  ⟨0x4028, 0x30, 1024, 0x30, 1, false, .hub, [⟨0, 32, .ro, 0⟩]⟩,
  -- DRV_REC_CTR
  ⟨0x402C, 0x30, 1024, 0x30, 1, false, .hub, [⟨0, 4, .ro, 0⟩, ⟨4, 4, .ro, 0⟩, ⟨8, 1, .ro, 0⟩]⟩]

/-- The registers of the block DRV, base 0x40060000. -/
def regsDRV : List RegSpec := regsDRV0 ++ regsDRV1 ++ regsDRV2 ++ regsDRV3

/-- Registers of XB (part 0). -/
def regsXB0 : List RegSpec := [
  -- XB_CTRL
  ⟨0x0, 0x10000, 1, 0x10000, 1, false, .hub, [⟨0, 1, .rwl, 0⟩, ⟨1, 2, .rwl, 0⟩]⟩,
  -- XB_STATUS
  ⟨0x4, 0x10000, 1, 0x10000, 1, false, .hub, [⟨0, 17, .ro, 0⟩, ⟨17, 1, .ro, 0⟩, ⟨18, 1, .ro, 0⟩, ⟨19, 1, .ro, 0⟩]⟩,
  -- XB_EVT
  ⟨0x8, 0x10000, 1, 0x10000, 1, false, .hub, [⟨0, 1, .w1c, 0⟩, ⟨1, 1, .w1c, 0⟩, ⟨2, 1, .w1c, 0⟩, ⟨3, 1, .w1c, 0⟩, ⟨4, 1, .w1c, 0⟩, ⟨5, 1, .w1c, 0⟩, ⟨6, 1, .w1c, 0⟩, ⟨7, 1, .w1c, 0⟩]⟩,
  -- XB_IRQ_EN
  ⟨0xC, 0x10000, 1, 0x10000, 1, false, .hub, [⟨0, 8, .rw, 0⟩]⟩,
  -- XB_OVL_CFG
  ⟨0x10, 0x10000, 1, 0x10000, 1, false, .hub, [⟨0, 16, .rwl, 0⟩, ⟨16, 16, .rwl, 0⟩]⟩,
  -- XB_STOMP_CFG
  ⟨0x14, 0x10000, 1, 0x10000, 1, false, .hub, [⟨0, 16, .rwl, 0⟩]⟩,
  -- XB_CNT_HDR
  ⟨0x18, 0x10000, 1, 0x10000, 1, false, .hub, [⟨0, 16, .rc, 0⟩, ⟨16, 16, .rc, 0⟩]⟩,
  -- XB_CNT_RT
  ⟨0x1C, 0x10000, 1, 0x10000, 1, false, .hub, [⟨0, 16, .rc, 0⟩, ⟨16, 16, .rc, 0⟩]⟩,
  -- XB_CNT_TAIL
  ⟨0x20, 0x10000, 1, 0x10000, 1, false, .hub, [⟨0, 16, .rc, 0⟩, ⟨16, 16, .rc, 0⟩]⟩,
  -- XB_RING_N
  ⟨0x24, 0x10000, 1, 0x10000, 1, false, .hub, [⟨0, 12, .rwl, 0⟩, ⟨16, 12, .rwl, 0⟩]⟩,
  -- XB_FLT
  ⟨0x40, 0x4, 32, 0x4, 1, false, .hub, [⟨0, 12, .ro, 0⟩, ⟨31, 1, .ro, 0⟩]⟩,
  -- XB_Q_CFG
  ⟨0x400, 0x10, 64, 0x10, 1, false, .hub, [⟨0, 12, .rwl, 0⟩, ⟨12, 4, .rwl, 0⟩, ⟨16, 16, .rwl, 0⟩]⟩]

/-- Registers of XB (part 1). -/
def regsXB1 : List RegSpec := [
  -- XB_Q_SCHED
  ⟨0x404, 0x10, 64, 0x10, 1, false, .hub, [⟨0, 16, .rwl, 0⟩]⟩,
  -- XB_Q_SHAPE
  ⟨0x408, 0x10, 64, 0x10, 1, false, .hub, [⟨0, 16, .rwl, 0⟩, ⟨16, 16, .rwl, 0⟩]⟩,
  -- XB_Q_STAT
  ⟨0x40C, 0x10, 64, 0x10, 1, false, .hub, [⟨0, 16, .ro, 0⟩, ⟨16, 16, .rc, 0⟩]⟩,
  -- XB_POL
  ⟨0x800, 0x20, 8, 0x4, 8, false, .hub, [⟨0, 16, .rwl, 0⟩, ⟨16, 16, .rwl, 0⟩]⟩,
  -- XB_POL_DROP
  ⟨0x900, 0x4, 8, 0x4, 1, false, .hub, [⟨0, 32, .rc, 0⟩]⟩,
  -- XB_MCAST
  ⟨0xC00, 0x4, 256, 0x4, 1, false, .hub, [⟨0, 4, .rwl, 0⟩, ⟨4, 2, .rwl, 0⟩, ⟨31, 1, .rwl, 0⟩]⟩,
  -- XB_RT
  ⟨0x2000, 0x4, 256, 0x4, 1, false, .hub, [⟨0, 32, .ro, 0⟩]⟩,
  -- XB_RTDEF
  ⟨0x2400, 0x4, 256, 0x4, 1, false, .hub, [⟨0, 32, .rwl, 0⟩]⟩,
  -- XB_REACH
  ⟨0x2800, 0x4, 128, 0x4, 1, false, .hub, [⟨0, 32, .ro, 0⟩]⟩,
  -- XB_POSA
  ⟨0x4000, 0x4, 2048, 0x4, 1, false, .hub, [⟨0, 32, .rwl, 0⟩]⟩,
  -- XB_POSB
  ⟨0x6000, 0x4, 2048, 0x4, 1, false, .hub, [⟨0, 32, .rwl, 0⟩]⟩]

/-- The registers of the block XB, base 0x40070000. -/
def regsXB : List RegSpec := regsXB0 ++ regsXB1

/-- Registers of TAP (part 0). -/
def regsTAP0 : List RegSpec := [
  -- TAP_CTRL
  ⟨0x0, 0x10000, 1, 0x10000, 1, false, .hub, [⟨0, 1, .rw, 0⟩, ⟨1, 1, .rw, 0⟩, ⟨2, 1, .rw, 0⟩, ⟨3, 1, .rw, 0⟩]⟩,
  -- TAP_WPTR
  ⟨0x4, 0x10000, 1, 0x10000, 1, false, .hub, [⟨0, 12, .ro, 0⟩]⟩,
  -- TAP_RPTR
  ⟨0x8, 0x10000, 1, 0x10000, 1, false, .hub, [⟨0, 12, .rw, 0⟩]⟩,
  -- TAP_LOST
  ⟨0xC, 0x10000, 1, 0x10000, 1, false, .hub, [⟨0, 32, .rc, 0⟩]⟩,
  -- TAP_SAMPLE
  ⟨0x10, 0x4, 8, 0x4, 1, false, .hub, [⟨0, 16, .rw, 0⟩, ⟨16, 2, .rw, 0⟩]⟩,
  -- TAP_MIR_MAC
  ⟨0xC0, 0x10000, 1, 0x10000, 1, true, .hub, [⟨0, 48, .rw, 0⟩]⟩,
  -- TAP_MIR_DROP
  ⟨0xC8, 0x10000, 1, 0x10000, 1, false, .hub, [⟨0, 32, .rc, 0⟩]⟩,
  -- TAP_RULE0
  ⟨0x40, 0x10, 8, 0x10, 1, false, .hub, [⟨0, 8, .rw, 0⟩, ⟨8, 2, .rw, 0⟩, ⟨10, 1, .rw, 0⟩, ⟨11, 1, .rw, 0⟩, ⟨31, 1, .rw, 0⟩]⟩,
  -- TAP_RULE1
  ⟨0x44, 0x10, 8, 0x10, 1, false, .hub, [⟨0, 8, .rw, 0⟩, ⟨8, 8, .rw, 0⟩, ⟨16, 8, .rw, 0⟩]⟩,
  -- TAP_RULE2
  ⟨0x48, 0x10, 8, 0x10, 1, false, .hub, [⟨0, 12, .rw, 0⟩, ⟨12, 1, .rw, 0⟩, ⟨16, 12, .rw, 0⟩, ⟨28, 1, .rw, 0⟩]⟩,
  -- TAP_RULE3
  ⟨0x4C, 0x10, 8, 0x10, 1, false, .hub, [⟨0, 16, .rw, 0⟩, ⟨16, 16, .rw, 0⟩]⟩]

/-- The registers of the block TAP, base 0x40080000. -/
def regsTAP : List RegSpec := regsTAP0

/-- Registers of SPR (part 0). -/
def regsSPR0 : List RegSpec := [
  -- SPR_CTRL
  ⟨0x0, 0x100, 2, 0x100, 1, false, .hub, [⟨0, 2, .rwl, 0⟩, ⟨2, 1, .rwl, 0⟩, ⟨3, 1, .rwl, 0⟩, ⟨4, 1, .rwl, 0⟩, ⟨5, 1, .rwl, 0⟩, ⟨6, 1, .rwl, 0⟩]⟩,
  -- SPR_STAT
  ⟨0x4, 0x100, 2, 0x100, 1, false, .hub, [⟨0, 1, .ro, 0⟩, ⟨1, 2, .ro, 0⟩, ⟨3, 1, .ro, 0⟩, ⟨4, 1, .ro, 0⟩]⟩,
  -- SPR_PCP_MAP
  ⟨0x8, 0x100, 2, 0x100, 1, false, .hub, [⟨0, 16, .rwl, 0⟩]⟩,
  -- SPR_DEFAULT
  ⟨0xC, 0x100, 2, 0x100, 1, false, .hub, [⟨0, 12, .rwl, 0⟩, ⟨12, 4, .rwl, 0⟩, ⟨16, 8, .rwl, 0⟩, ⟨24, 2, .rwl, 0⟩]⟩,
  -- SPR_PAUSE
  ⟨0x10, 0x100, 2, 0x100, 1, false, .hub, [⟨0, 16, .rwl, 0⟩, ⟨16, 16, .rwl, 0⟩]⟩,
  -- SPR_HOST_MAC
  ⟨0x18, 0x100, 2, 0x100, 1, true, .hub, [⟨0, 48, .rwl, 0⟩]⟩,
  -- SPR_CNT_RX
  ⟨0x20, 0x100, 2, 0x100, 1, false, .hub, [⟨0, 32, .ro, 0⟩]⟩,
  -- SPR_CNT_TX
  ⟨0x24, 0x100, 2, 0x100, 1, false, .hub, [⟨0, 32, .ro, 0⟩]⟩,
  -- SPR_CNT_ERR
  ⟨0x28, 0x100, 2, 0x100, 1, false, .hub, [⟨0, 16, .rc, 0⟩, ⟨16, 16, .rc, 0⟩]⟩,
  -- SPR_MAC
  ⟨0x800, 0x10000, 1, 0x10000, 1, true, .hub, [⟨0, 48, .rwl, 0⟩]⟩,
  -- SPR_MDIO
  ⟨0x808, 0x10000, 1, 0x10000, 1, false, .hub, [⟨0, 16, .rw, 0⟩, ⟨16, 5, .rw, 0⟩, ⟨21, 5, .rw, 0⟩, ⟨26, 2, .rw, 0⟩, ⟨31, 1, .w1s, 0⟩]⟩,
  -- SPR_TUN0
  ⟨0x1000, 0x10, 256, 0x10, 1, false, .hub, [⟨0, 32, .rwl, 0⟩]⟩]

/-- Registers of SPR (part 1). -/
def regsSPR1 : List RegSpec := [
  -- SPR_TUN1
  ⟨0x1004, 0x10, 256, 0x10, 1, false, .hub, [⟨0, 16, .rwl, 0⟩, ⟨16, 12, .rwl, 0⟩, ⟨28, 1, .rwl, 0⟩, ⟨29, 2, .rwl, 0⟩, ⟨31, 1, .rwl, 0⟩]⟩,
  -- SPR_TUN2
  ⟨0x1008, 0x10, 256, 0x10, 1, false, .hub, [⟨0, 12, .rwl, 0⟩, ⟨12, 4, .rwl, 0⟩, ⟨16, 8, .rwl, 0⟩, ⟨24, 1, .rwl, 0⟩]⟩]

/-- The registers of the block SPR, base 0x40090000. -/
def regsSPR : List RegSpec := regsSPR0 ++ regsSPR1

/-- Registers of CHN (part 0). -/
def regsCHN0 : List RegSpec := [
  -- CHN_CFG
  ⟨0x0, 0x400, 48, 0x400, 1, false, .hub, [⟨0, 3, .rwl, 0⟩, ⟨3, 1, .rwl, 0⟩, ⟨4, 1, .rwl, 0⟩, ⟨5, 1, .rwl, 0⟩, ⟨6, 1, .rwl, 0⟩, ⟨8, 4, .rwl, 0⟩, ⟨12, 6, .rwl, 0⟩, ⟨18, 2, .rwl, 0⟩]⟩,
  -- CHN_CLK
  ⟨0x4, 0x400, 48, 0x400, 1, false, .hub, [⟨0, 24, .rwl, 0⟩]⟩,
  -- CHN_CSX
  ⟨0xC, 0x400, 48, 0x400, 1, false, .hub, [⟨0, 7, .rwl, 0⟩, ⟨7, 1, .rwl, 0⟩, ⟨8, 7, .rwl, 0⟩, ⟨15, 1, .rwl, 0⟩, ⟨16, 7, .rwl, 0⟩, ⟨23, 1, .rwl, 0⟩]⟩,
  -- CHN_RXEND
  ⟨0x10, 0x400, 48, 0x400, 1, false, .hub, [⟨0, 2, .rwl, 0⟩, ⟨2, 8, .rwl, 0⟩, ⟨10, 8, .rwl, 0⟩, ⟨18, 9, .rwl, 0⟩]⟩,
  -- CHN_FWD
  ⟨0x14, 0x400, 48, 0x400, 1, false, .hub, [⟨0, 12, .rwl, 0⟩, ⟨12, 4, .rwl, 0⟩]⟩,
  -- CHN_PL
  ⟨0x18, 0x400, 48, 0x400, 1, false, .hub, [⟨0, 7, .rwl, 0⟩, ⟨8, 8, .rwl, 0⟩, ⟨16, 8, .rwl, 0⟩, ⟨24, 3, .rwl, 0⟩]⟩,
  -- CHN_PL2
  ⟨0x1C, 0x400, 48, 0x400, 1, false, .hub, [⟨0, 12, .rwl, 0⟩, ⟨16, 12, .rwl, 0⟩]⟩,
  -- CHN_CMD
  ⟨0x20, 0x400, 48, 0x400, 1, false, .hub, [⟨0, 1, .wo, 0⟩, ⟨1, 1, .wo, 0⟩, ⟨2, 1, .wo, 0⟩, ⟨3, 1, .wo, 0⟩, ⟨4, 1, .wo, 0⟩]⟩,
  -- CHN_STAT
  ⟨0x24, 0x400, 48, 0x400, 1, false, .hub, [⟨0, 3, .ro, 0⟩, ⟨3, 1, .ro, 0⟩, ⟨4, 1, .ro, 0⟩, ⟨5, 1, .ro, 0⟩, ⟨6, 6, .ro, 0⟩, ⟨12, 1, .ro, 0⟩, ⟨16, 8, .ro, 0⟩, ⟨24, 8, .ro, 0⟩]⟩,
  -- CHN_EVT
  ⟨0x28, 0x400, 48, 0x400, 1, false, .hub, [⟨0, 1, .w1c, 0⟩, ⟨1, 1, .w1c, 0⟩, ⟨2, 1, .w1c, 0⟩, ⟨3, 1, .w1c, 0⟩, ⟨4, 1, .w1c, 0⟩, ⟨5, 1, .w1c, 0⟩, ⟨6, 1, .w1c, 0⟩]⟩,
  -- CHN_IRQ_EN
  ⟨0x2C, 0x400, 48, 0x400, 1, false, .hub, [⟨0, 7, .rw, 0⟩]⟩,
  -- CHN_CNT_A
  ⟨0x30, 0x400, 48, 0x400, 1, false, .hub, [⟨0, 16, .rc, 0⟩, ⟨16, 16, .rc, 0⟩]⟩]

/-- Registers of CHN (part 1). -/
def regsCHN1 : List RegSpec := [
  -- CHN_CNT_B
  ⟨0x34, 0x400, 48, 0x400, 1, false, .hub, [⟨0, 16, .rc, 0⟩, ⟨16, 16, .rc, 0⟩]⟩,
  -- CHN_CNT_C
  ⟨0x38, 0x400, 48, 0x400, 1, false, .hub, [⟨0, 16, .rc, 0⟩, ⟨16, 16, .rc, 0⟩]⟩,
  -- CHN_PL_TIME
  ⟨0x3C, 0x400, 48, 0x400, 1, false, .hub, [⟨0, 16, .ro, 0⟩, ⟨16, 16, .ro, 0⟩]⟩,
  -- CHN_TXPUSH
  ⟨0x40, 0x400, 48, 0x400, 1, false, .hub, [⟨0, 9, .wo, 0⟩]⟩,
  -- CHN_RXHDR
  ⟨0x44, 0x400, 48, 0x400, 1, false, .hub, [⟨0, 9, .ro, 0⟩, ⟨9, 1, .ro, 0⟩, ⟨10, 1, .ro, 0⟩, ⟨11, 1, .ro, 0⟩, ⟨12, 1, .ro, 0⟩]⟩,
  -- CHN_RXTS
  ⟨0x48, 0x400, 48, 0x400, 1, true, .hub, [⟨0, 64, .ro, 0⟩]⟩,
  -- CHN_PM_ADDR
  ⟨0xC000, 0x10000, 1, 0x10000, 1, false, .hub, [⟨0, 16, .rw, 0⟩, ⟨31, 1, .rw, 0⟩]⟩,
  -- CHN_PM_DATA
  ⟨0xC004, 0x10000, 1, 0x10000, 1, false, .hub, [⟨0, 32, .rwl, 0⟩]⟩,
  -- CHN_STATUS
  ⟨0xC008, 0x10000, 1, 0x10000, 1, false, .hub, [⟨0, 12, .ro, 0⟩]⟩,
  -- CHN_MODEP
  ⟨0x8, 0x400, 48, 0x400, 1, false, .hub, [⟨0, 32, .rwl, 0⟩]⟩,
  -- CHN_TXW
  ⟨0x100, 0x400, 48, 0x4, 96, false, .hub, [⟨0, 32, .rw, 0⟩]⟩,
  -- CHN_RXW
  ⟨0x280, 0x400, 48, 0x4, 96, false, .hub, [⟨0, 32, .ro, 0⟩]⟩]

/-- The registers of the block CHN, base 0x400A0000. -/
def regsCHN : List RegSpec := regsCHN0 ++ regsCHN1

/-- Registers of CAN (part 0). -/
def regsCAN0 : List RegSpec := [
  -- CAN_CTRL
  ⟨0x0, 0x400, 16, 0x400, 1, false, .hub, [⟨0, 1, .rwl, 0⟩, ⟨1, 1, .rwl, 0⟩, ⟨2, 1, .rwl, 0⟩, ⟨3, 1, .rwl, 0⟩, ⟨4, 1, .rwl, 0⟩, ⟨5, 1, .rwl, 0⟩, ⟨6, 1, .rwl, 0⟩, ⟨7, 1, .rwl, 0⟩, ⟨8, 1, .rwl, 0⟩, ⟨9, 1, .rwl, 0⟩, ⟨10, 1, .rwl, 0⟩, ⟨11, 2, .rwl, 0⟩]⟩,
  -- CAN_NBT
  ⟨0x4, 0x400, 16, 0x400, 1, false, .hub, [⟨0, 6, .rwl, 0⟩, ⟨6, 8, .rwl, 0⟩, ⟨14, 7, .rwl, 0⟩, ⟨21, 7, .rwl, 0⟩]⟩,
  -- CAN_DBT
  ⟨0x8, 0x400, 16, 0x400, 1, false, .hub, [⟨0, 6, .rwl, 0⟩, ⟨6, 6, .rwl, 0⟩, ⟨12, 5, .rwl, 0⟩, ⟨17, 5, .rwl, 0⟩, ⟨22, 7, .rwl, 0⟩, ⟨29, 1, .rwl, 0⟩]⟩,
  -- CAN_DET
  ⟨0xC, 0x400, 16, 0x400, 1, false, .hub, [⟨0, 3, .rwl, 0⟩, ⟨8, 8, .rwl, 0⟩, ⟨16, 16, .rwl, 0⟩]⟩,
  -- CAN_FWD
  ⟨0x10, 0x400, 16, 0x400, 1, false, .hub, [⟨0, 12, .rwl, 0⟩, ⟨12, 4, .rwl, 0⟩]⟩,
  -- CAN_CMD
  ⟨0x14, 0x400, 16, 0x400, 1, false, .hub, [⟨0, 1, .wo, 0⟩, ⟨1, 1, .wo, 0⟩, ⟨2, 1, .wo, 0⟩, ⟨3, 1, .wo, 0⟩, ⟨4, 1, .wo, 0⟩]⟩,
  -- CAN_STAT
  ⟨0x18, 0x400, 16, 0x400, 1, false, .hub, [⟨0, 4, .ro, 0⟩, ⟨4, 2, .ro, 0⟩, ⟨6, 3, .ro, 0⟩, ⟨9, 1, .ro, 0⟩, ⟨10, 1, .ro, 0⟩, ⟨16, 6, .ro, 0⟩, ⟨22, 4, .ro, 0⟩]⟩,
  -- CAN_ERRC
  ⟨0x1C, 0x400, 16, 0x400, 1, false, .hub, [⟨0, 9, .ro, 0⟩, ⟨16, 8, .ro, 0⟩, ⟨24, 3, .ro, 0⟩, ⟨27, 1, .ro, 0⟩]⟩,
  -- CAN_EVT
  ⟨0x20, 0x400, 16, 0x400, 1, false, .hub, [⟨0, 1, .w1c, 0⟩, ⟨1, 1, .w1c, 0⟩, ⟨2, 1, .w1c, 0⟩, ⟨3, 1, .w1c, 0⟩, ⟨4, 1, .w1c, 0⟩, ⟨5, 1, .w1c, 0⟩, ⟨6, 1, .w1c, 0⟩, ⟨7, 1, .w1c, 0⟩, ⟨8, 1, .w1c, 0⟩]⟩,
  -- CAN_IRQ_EN
  ⟨0x24, 0x400, 16, 0x400, 1, false, .hub, [⟨0, 9, .rw, 0⟩]⟩,
  -- CAN_CNT_A
  ⟨0x28, 0x400, 16, 0x400, 1, false, .hub, [⟨0, 32, .ro, 0⟩]⟩,
  -- CAN_CNT_B
  ⟨0x2C, 0x400, 16, 0x400, 1, false, .hub, [⟨0, 32, .ro, 0⟩]⟩]

/-- Registers of CAN (part 1). -/
def regsCAN1 : List RegSpec := [
  -- CAN_CNT_C
  ⟨0x30, 0x400, 16, 0x400, 1, false, .hub, [⟨0, 8, .rc, 0⟩, ⟨8, 8, .rc, 0⟩, ⟨16, 8, .rc, 0⟩, ⟨24, 8, .rc, 0⟩]⟩,
  -- CAN_CNT_D
  ⟨0x34, 0x400, 16, 0x400, 1, false, .hub, [⟨0, 12, .rc, 0⟩, ⟨12, 12, .rc, 0⟩, ⟨24, 8, .rc, 0⟩]⟩,
  -- CAN_TXB_CTRL
  ⟨0x80, 0x400, 16, 0x10, 3, false, .hub, [⟨0, 1, .w1s, 0⟩, ⟨1, 1, .w1s, 0⟩, ⟨2, 1, .ro, 0⟩, ⟨3, 1, .ro, 0⟩, ⟨4, 1, .w1c, 0⟩, ⟨5, 1, .w1c, 0⟩]⟩,
  -- CAN_TXB_HDR
  ⟨0x84, 0x400, 16, 0x10, 3, false, .hub, [⟨0, 29, .rw, 0⟩, ⟨29, 1, .rw, 0⟩, ⟨30, 1, .rw, 0⟩]⟩,
  -- CAN_TXB_FMT
  ⟨0x88, 0x400, 16, 0x10, 3, false, .hub, [⟨0, 4, .rw, 0⟩, ⟨4, 1, .rw, 0⟩, ⟨5, 1, .rw, 0⟩]⟩,
  -- CAN_RXHDR
  ⟨0x280, 0x400, 16, 0x400, 1, false, .hub, [⟨0, 7, .ro, 0⟩, ⟨7, 1, .ro, 0⟩, ⟨8, 4, .ro, 0⟩, ⟨12, 1, .ro, 0⟩, ⟨13, 1, .ro, 0⟩, ⟨14, 1, .ro, 0⟩, ⟨15, 5, .ro, 0⟩]⟩,
  -- CAN_RXID
  ⟨0x284, 0x400, 16, 0x400, 1, false, .hub, [⟨0, 29, .ro, 0⟩, ⟨29, 1, .ro, 0⟩, ⟨30, 1, .ro, 0⟩]⟩,
  -- CAN_RXTS
  ⟨0x288, 0x400, 16, 0x400, 1, true, .hub, [⟨0, 64, .ro, 0⟩]⟩,
  -- CAN_RATE_N
  ⟨0x40, 0x400, 16, 0x8, 8, false, .hub, [⟨0, 28, .rwl, 0⟩]⟩,
  -- CAN_RATE_D
  ⟨0x44, 0x400, 16, 0x8, 8, false, .hub, [⟨0, 30, .rwl, 0⟩, ⟨31, 1, .rwl, 0⟩]⟩,
  -- CAN_TXW
  ⟨0x100, 0x400, 16, 0x4, 48, false, .hub, [⟨0, 32, .rw, 0⟩]⟩,
  -- CAN_FLT0
  ⟨0x200, 0x400, 16, 0x8, 16, false, .hub, [⟨0, 29, .rwl, 0⟩, ⟨29, 1, .rwl, 0⟩, ⟨30, 1, .rwl, 0⟩, ⟨31, 1, .rwl, 0⟩]⟩]

/-- Registers of CAN (part 2). -/
def regsCAN2 : List RegSpec := [
  -- CAN_FLT1
  ⟨0x204, 0x400, 16, 0x8, 16, false, .hub, [⟨0, 29, .rwl, 0⟩, ⟨29, 2, .rwl, 0⟩, ⟨31, 1, .rwl, 0⟩]⟩,
  -- CAN_RXW
  ⟨0x300, 0x400, 16, 0x4, 16, false, .hub, [⟨0, 32, .ro, 0⟩]⟩,
  -- CAN_RXM0
  ⟨0x4000, 0x10, 32, 0x10, 1, false, .hub, [⟨0, 29, .rwl, 0⟩, ⟨29, 1, .rwl, 0⟩, ⟨31, 1, .rwl, 0⟩]⟩,
  -- CAN_RXM1
  ⟨0x4004, 0x10, 32, 0x10, 1, false, .hub, [⟨0, 4, .rwl, 0⟩, ⟨4, 7, .rwl, 0⟩, ⟨11, 7, .rwl, 0⟩, ⟨18, 4, .rwl, 0⟩]⟩,
  -- CAN_RXM2
  ⟨0x4008, 0x10, 32, 0x10, 1, false, .hub, [⟨0, 11, .rwl, 0⟩]⟩,
  -- CAN_RXF0
  ⟨0x4200, 0x10, 128, 0x10, 1, false, .hub, [⟨0, 2, .rwl, 0⟩, ⟨2, 1, .rwl, 0⟩, ⟨3, 1, .rwl, 0⟩, ⟨4, 1, .rwl, 0⟩, ⟨10, 9, .rwl, 0⟩, ⟨19, 3, .rwl, 0⟩, ⟨22, 6, .rwl, 0⟩, ⟨28, 4, .rwl, 0⟩]⟩,
  -- CAN_RXF1
  ⟨0x4204, 0x10, 128, 0x10, 1, false, .hub, [⟨0, 12, .rwl, 0⟩]⟩,
  -- CAN_RXF2
  ⟨0x4208, 0x10, 128, 0x10, 1, false, .hub, [⟨0, 32, .rwl, 0⟩]⟩,
  -- CAN_RXF3
  ⟨0x420C, 0x10, 128, 0x10, 1, false, .hub, [⟨0, 32, .rwl, 0⟩]⟩,
  -- CAN_TXS0
  ⟨0x4A00, 0x10, 64, 0x10, 1, false, .hub, [⟨0, 29, .rwl, 0⟩, ⟨29, 1, .rwl, 0⟩, ⟨31, 1, .rwl, 0⟩]⟩,
  -- CAN_TXS1
  ⟨0x4A04, 0x10, 64, 0x10, 1, false, .hub, [⟨0, 4, .rwl, 0⟩, ⟨4, 4, .rwl, 0⟩, ⟨8, 1, .rwl, 0⟩, ⟨9, 1, .rwl, 0⟩, ⟨10, 1, .rwl, 0⟩, ⟨11, 1, .rwl, 0⟩, ⟨12, 8, .rwl, 0⟩, ⟨20, 8, .rwl, 0⟩]⟩,
  -- CAN_TXS2
  ⟨0x4A08, 0x10, 64, 0x10, 1, false, .hub, [⟨0, 12, .rwl, 0⟩, ⟨12, 14, .rwl, 0⟩, ⟨26, 6, .rwl, 0⟩]⟩]

/-- The registers of the block CAN, base 0x400B0000. -/
def regsCAN : List RegSpec := regsCAN0 ++ regsCAN1 ++ regsCAN2

/-- Registers of DIO (part 0). -/
def regsDIO0 : List RegSpec := [
  -- DIO_CFG
  ⟨0x0, 0x40, 96, 0x40, 1, false, .hub, [⟨0, 3, .rwl, 0⟩, ⟨3, 1, .rwl, 0⟩, ⟨4, 1, .rwl, 0⟩, ⟨5, 1, .rwl, 0⟩, ⟨6, 2, .rwl, 0⟩, ⟨8, 2, .rwl, 0⟩, ⟨10, 1, .rwl, 0⟩, ⟨11, 1, .rwl, 0⟩, ⟨12, 1, .rwl, 0⟩, ⟨16, 16, .rwl, 0⟩]⟩,
  -- DIO_PER
  ⟨0x4, 0x40, 96, 0x40, 1, false, .hub, [⟨0, 24, .rwl, 0⟩]⟩,
  -- DIO_PT
  ⟨0x8, 0x40, 96, 0x40, 1, false, .hub, [⟨0, 24, .rwl, 0⟩]⟩,
  -- DIO_PW
  ⟨0xC, 0x40, 96, 0x40, 1, false, .hub, [⟨0, 16, .rwl, 0⟩]⟩,
  -- DIO_STAT
  ⟨0x10, 0x40, 96, 0x40, 1, false, .hub, [⟨0, 1, .ro, 0⟩, ⟨1, 1, .ro, 0⟩, ⟨2, 1, .ro, 0⟩, ⟨3, 1, .ro, 0⟩, ⟨4, 4, .ro, 0⟩, ⟨8, 1, .ro, 0⟩]⟩,
  -- DIO_TS_STAT
  ⟨0x14, 0x40, 96, 0x40, 1, false, .hub, [⟨0, 5, .ro, 0⟩, ⟨5, 1, .w1c, 0⟩, ⟨6, 1, .ro, 0⟩, ⟨16, 16, .ro, 0⟩]⟩,
  -- DIO_TS
  ⟨0x18, 0x40, 96, 0x40, 1, true, .hub, [⟨0, 64, .ro, 0⟩]⟩,
  -- DIO_QCNT
  ⟨0x20, 0x40, 96, 0x40, 1, false, .hub, [⟨0, 16, .rc, 0⟩, ⟨16, 16, .rc, 0⟩]⟩,
  -- DIO_QD_CFG
  ⟨0x2000, 0x10, 12, 0x10, 1, false, .hub, [⟨0, 7, .rwl, 0⟩, ⟨7, 7, .rwl, 0⟩, ⟨14, 7, .rwl, 0⟩, ⟨21, 2, .rwl, 0⟩, ⟨23, 1, .rwl, 0⟩, ⟨31, 1, .rwl, 0⟩]⟩,
  -- DIO_QD_CNT
  ⟨0x2004, 0x10, 12, 0x10, 1, false, .hub, [⟨0, 32, .ro, 0⟩]⟩,
  -- DIO_QD_IDX
  ⟨0x2008, 0x10, 12, 0x10, 1, false, .hub, [⟨0, 32, .ro, 0⟩]⟩,
  -- DIO_QD_ERR
  ⟨0x200C, 0x10, 12, 0x10, 1, false, .hub, [⟨0, 16, .rc, 0⟩]⟩]

/-- Registers of DIO (part 1). -/
def regsDIO1 : List RegSpec := [
  -- DIO_EVT
  ⟨0x3000, 0x10000, 1, 0x10000, 1, false, .hub, [⟨0, 1, .w1c, 0⟩, ⟨1, 1, .w1c, 0⟩, ⟨2, 1, .w1c, 0⟩, ⟨3, 1, .w1c, 0⟩, ⟨4, 1, .w1c, 0⟩, ⟨5, 1, .w1c, 0⟩]⟩,
  -- DIO_IRQ_EN
  ⟨0x3004, 0x10000, 1, 0x10000, 1, false, .hub, [⟨0, 6, .rw, 0⟩]⟩,
  -- DIO_RB_CFG
  ⟨0x3008, 0x10000, 1, 0x10000, 1, false, .hub, [⟨0, 16, .rwl, 0⟩]⟩,
  -- DIO_CMD
  ⟨0x300C, 0x10000, 1, 0x10000, 1, false, .hub, [⟨0, 7, .wo, 0⟩, ⟨8, 1, .wo, 0⟩, ⟨9, 1, .wo, 0⟩]⟩,
  -- DIO_RBF
  ⟨0x3010, 0x4, 3, 0x4, 1, false, .hub, [⟨0, 32, .ro, 0⟩]⟩]

/-- The registers of the block DIO, base 0x400C0000. -/
def regsDIO : List RegSpec := regsDIO0 ++ regsDIO1

/-- Registers of ADC (part 0). -/
def regsADC0 : List RegSpec := [
  -- ADC_CTRL
  ⟨0x0, 0x10000, 1, 0x10000, 1, false, .hub, [⟨0, 16, .rwl, 0⟩]⟩,
  -- ADC_STATUS
  ⟨0x4, 0x10000, 1, 0x10000, 1, false, .hub, [⟨0, 1, .ro, 0⟩, ⟨1, 2, .ro, 0⟩, ⟨3, 2, .ro, 0⟩]⟩,
  -- ADC_EVT
  ⟨0x8, 0x10000, 1, 0x10000, 1, false, .hub, [⟨0, 1, .w1c, 0⟩, ⟨1, 2, .w1c, 0⟩, ⟨3, 1, .w1c, 0⟩, ⟨4, 1, .w1c, 0⟩]⟩,
  -- ADC_IRQ_EN
  ⟨0xC, 0x10000, 1, 0x10000, 1, false, .hub, [⟨0, 5, .rw, 0⟩]⟩,
  -- ADC_CAL
  ⟨0x20, 0x4, 2, 0x4, 1, false, .hub, [⟨0, 16, .ro, 0⟩, ⟨16, 16, .ro, 0⟩]⟩,
  -- ADC_AIN
  ⟨0x40, 0x4, 8, 0x4, 1, false, .hub, [⟨0, 16, .ro, 0⟩]⟩,
  -- ADC_TSCAN
  ⟨0x80, 0x20, 2, 0x20, 1, false, .hub, [⟨0, 4, .rw, 0⟩]⟩,
  -- ADC_TSCAN_T
  ⟨0x88, 0x20, 2, 0x20, 1, true, .hub, [⟨0, 64, .ro, 0⟩]⟩,
  -- ADC_TSCAN_R
  ⟨0x90, 0x20, 2, 0x4, 2, false, .hub, [⟨0, 16, .ro, 0⟩, ⟨16, 16, .ro, 0⟩]⟩,
  -- ADC_MON
  ⟨0x100, 0x20, 2, 0x4, 8, false, .hub, [⟨0, 16, .ro, 0⟩]⟩]

/-- The registers of the block ADC, base 0x400D0000. -/
def regsADC : List RegSpec := regsADC0

/-- Registers of BRN (part 0). -/
def regsBRN0 : List RegSpec := [
  -- BRN_CFG
  ⟨0x0, 0x200, 16, 0x200, 1, false, .hub, [⟨0, 1, .rwl, 0⟩, ⟨1, 1, .rwl, 0⟩, ⟨2, 1, .rwl, 0⟩, ⟨3, 1, .rwl, 0⟩, ⟨4, 3, .rwl, 0⟩]⟩,
  -- BRN_SHUNT
  ⟨0x4, 0x200, 16, 0x200, 1, false, .hub, [⟨0, 14, .rwl, 0⟩]⟩,
  -- BRN_LIM
  ⟨0x8, 0x200, 16, 0x200, 1, false, .hub, [⟨0, 8, .rwl, 0⟩, ⟨8, 8, .rwl, 0⟩, ⟨16, 10, .rwl, 0⟩]⟩,
  -- BRN_TMR
  ⟨0xC, 0x200, 16, 0x200, 1, false, .hub, [⟨0, 10, .rwl, 0⟩, ⟨10, 10, .rwl, 0⟩, ⟨20, 10, .rwl, 0⟩]⟩,
  -- BRN_TOFF
  ⟨0x10, 0x200, 16, 0x200, 1, false, .hub, [⟨0, 7, .rwl, 0⟩, ⟨16, 10, .rwl, 0⟩]⟩,
  -- BRN_UV
  ⟨0x14, 0x200, 16, 0x200, 1, false, .hub, [⟨0, 13, .rwl, 0⟩, ⟨16, 13, .rwl, 0⟩]⟩,
  -- BRN_OV
  ⟨0x18, 0x200, 16, 0x200, 1, false, .hub, [⟨0, 13, .rwl, 0⟩, ⟨16, 13, .rwl, 0⟩]⟩,
  -- BRN_PGD
  ⟨0x1C, 0x200, 16, 0x200, 1, false, .hub, [⟨0, 8, .rwl, 0⟩, ⟨16, 13, .rwl, 0⟩]⟩,
  -- BRN_CMD
  ⟨0x20, 0x200, 16, 0x200, 1, false, .hub, [⟨0, 1, .wo, 0⟩, ⟨1, 1, .wo, 0⟩, ⟨2, 1, .wo, 0⟩]⟩,
  -- BRN_STAT
  ⟨0x24, 0x200, 16, 0x200, 1, false, .hub, [⟨0, 4, .ro, 0⟩, ⟨4, 1, .ro, 0⟩, ⟨5, 1, .ro, 0⟩, ⟨6, 1, .ro, 0⟩, ⟨7, 1, .ro, 0⟩, ⟨8, 3, .ro, 0⟩, ⟨11, 1, .ro, 0⟩, ⟨12, 1, .ro, 0⟩, ⟨13, 1, .ro, 0⟩]⟩,
  -- BRN_EVT
  ⟨0x28, 0x200, 16, 0x200, 1, false, .hub, [⟨0, 1, .w1c, 0⟩, ⟨1, 1, .w1c, 0⟩, ⟨2, 1, .w1c, 0⟩, ⟨3, 1, .w1c, 0⟩, ⟨4, 1, .w1c, 0⟩, ⟨5, 1, .w1c, 0⟩, ⟨6, 1, .w1c, 0⟩, ⟨7, 1, .w1c, 0⟩, ⟨8, 1, .w1c, 0⟩]⟩,
  -- BRN_IRQ_EN
  ⟨0x2C, 0x200, 16, 0x200, 1, false, .hub, [⟨0, 9, .rw, 0⟩]⟩]

/-- Registers of BRN (part 1). -/
def regsBRN1 : List RegSpec := [
  -- BRN_MEAS_V
  ⟨0x30, 0x200, 16, 0x200, 1, false, .hub, [⟨0, 16, .ro, 0⟩, ⟨16, 16, .ro, 0⟩]⟩,
  -- BRN_MEAS_I
  ⟨0x34, 0x200, 16, 0x200, 1, false, .hub, [⟨0, 32, .ro, 0⟩]⟩,
  -- BRN_MEAS_P
  ⟨0x38, 0x200, 16, 0x200, 1, false, .hub, [⟨0, 32, .ro, 0⟩]⟩,
  -- BRN_CNT
  ⟨0x3C, 0x200, 16, 0x200, 1, false, .hub, [⟨0, 16, .rc, 0⟩, ⟨16, 16, .ro, 0⟩]⟩,
  -- BRN_ENERGY
  ⟨0x40, 0x200, 16, 0x200, 1, true, .hub, [⟨0, 64, .ro, 0⟩]⟩,
  -- BRN_FTIMER
  ⟨0x48, 0x200, 16, 0x200, 1, false, .hub, [⟨0, 10, .ro, 0⟩]⟩,
  -- BRN_ZCAL
  ⟨0x4C, 0x200, 16, 0x200, 1, false, .hub, [⟨0, 16, .ro, 0⟩, ⟨16, 1, .ro, 0⟩]⟩,
  -- BRN_TH_A
  ⟨0x50, 0x200, 16, 0x200, 1, false, .hub, [⟨0, 16, .rwl, 0⟩, ⟨16, 16, .rwl, 0⟩]⟩,
  -- BRN_TH_B
  ⟨0x54, 0x200, 16, 0x200, 1, false, .hub, [⟨0, 16, .rwl, 0⟩, ⟨16, 8, .rwl, 0⟩]⟩,
  -- BRN_TH_TJ
  ⟨0x58, 0x200, 16, 0x200, 1, false, .hub, [⟨0, 16, .ro, 0⟩]⟩,
  -- BRN_SUMMARY
  ⟨0x2000, 0x10000, 1, 0x10000, 1, false, .hub, [⟨0, 16, .ro, 0⟩, ⟨16, 16, .ro, 0⟩]⟩]

/-- The registers of the block BRN, base 0x400E0000. -/
def regsBRN : List RegSpec := regsBRN0 ++ regsBRN1

/-- Registers of ASY (part 0). -/
def regsASY0 : List RegSpec := [
  -- ASY_CTRL
  ⟨0x0, 0x10000, 1, 0x10000, 1, false, .hub, [⟨0, 1, .rwl, 0⟩]⟩,
  -- ASY_STATUS
  ⟨0x4, 0x10000, 1, 0x10000, 1, false, .hub, [⟨0, 16, .ro, 0⟩, ⟨16, 4, .ro, 0⟩, ⟨20, 1, .ro, 0⟩]⟩,
  -- ASY_EVT
  ⟨0x8, 0x10000, 1, 0x10000, 1, false, .hub, [⟨0, 1, .w1c, 0⟩, ⟨1, 1, .w1c, 0⟩, ⟨2, 1, .w1c, 0⟩]⟩,
  -- ASY_IRQ_EN
  ⟨0xC, 0x10000, 1, 0x10000, 1, false, .hub, [⟨0, 3, .rw, 0⟩]⟩,
  -- ASY_CMD
  ⟨0x10, 0x10000, 1, 0x10000, 1, false, .hub, [⟨0, 4, .wo, 0⟩, ⟨4, 1, .wo, 0⟩, ⟨8, 6, .wo, 0⟩, ⟨14, 1, .wo, 0⟩]⟩,
  -- ASY_SC_CNT
  ⟨0x14, 0x10000, 1, 0x10000, 1, false, .hub, [⟨0, 16, .ro, 0⟩, ⟨16, 16, .rc, 0⟩]⟩,
  -- ASY_FW_CTX
  ⟨0x1C, 0x10000, 1, 0x10000, 1, false, .hub, [⟨0, 6, .rw, 0⟩]⟩,
  -- ASY_FEED_B
  ⟨0x20, 0x10000, 1, 0x10000, 1, false, .hub, [⟨0, 32, .wo, 0⟩]⟩,
  -- ASY_FEED_H
  ⟨0x24, 0x10000, 1, 0x10000, 1, false, .hub, [⟨0, 32, .wo, 0⟩]⟩,
  -- ASY_FEED_W
  ⟨0x28, 0x10000, 1, 0x10000, 1, false, .hub, [⟨0, 32, .wo, 0⟩]⟩,
  -- ASY_CTX_CFG
  ⟨0x1000, 0x40, 64, 0x40, 1, false, .hub, [⟨0, 3, .rwl, 0⟩, ⟨3, 6, .rwl, 0⟩, ⟨9, 1, .rwl, 0⟩, ⟨10, 1, .rwl, 0⟩, ⟨11, 1, .rwl, 0⟩, ⟨12, 1, .rwl, 0⟩]⟩,
  -- ASY_CTX_POLY
  ⟨0x1008, 0x40, 64, 0x40, 1, true, .hub, [⟨0, 64, .rwl, 0⟩]⟩]

/-- Registers of ASY (part 1). -/
def regsASY1 : List RegSpec := [
  -- ASY_CTX_INIT
  ⟨0x1010, 0x40, 64, 0x40, 1, true, .hub, [⟨0, 64, .rwl, 0⟩]⟩,
  -- ASY_CTX_XOR
  ⟨0x1018, 0x40, 64, 0x40, 1, true, .hub, [⟨0, 64, .rwl, 0⟩]⟩,
  -- ASY_CTX_VAL
  ⟨0x1020, 0x40, 64, 0x40, 1, true, .hub, [⟨0, 64, .rw, 0⟩]⟩,
  -- ASY_CTX_RES
  ⟨0x1028, 0x40, 64, 0x40, 1, true, .hub, [⟨0, 64, .ro, 0⟩]⟩,
  -- ASY_CTX_CNT
  ⟨0x1030, 0x40, 64, 0x40, 1, false, .hub, [⟨0, 16, .ro, 0⟩, ⟨16, 16, .rc, 0⟩]⟩]

/-- The registers of the block ASY, base 0x400F0000. -/
def regsASY : List RegSpec := regsASY0 ++ regsASY1

/-- Registers of FRY (part 0). -/
def regsFRY0 : List RegSpec := [
  -- FRY_CTRL
  ⟨0x0, 0x10000, 1, 0x10000, 1, false, .hub, [⟨0, 8, .rwl, 0⟩]⟩,
  -- FRY_STATUS
  ⟨0x4, 0x10000, 1, 0x10000, 1, false, .hub, [⟨0, 6, .ro, 0⟩, ⟨16, 16, .ro, 0⟩]⟩,
  -- FRY_EVT
  ⟨0x8, 0x10000, 1, 0x10000, 1, false, .hub, [⟨0, 1, .w1c, 0⟩, ⟨1, 1, .w1c, 0⟩, ⟨2, 1, .w1c, 0⟩, ⟨3, 1, .w1c, 0⟩, ⟨4, 1, .w1c, 0⟩]⟩,
  -- FRY_IRQ_EN
  ⟨0xC, 0x10000, 1, 0x10000, 1, false, .hub, [⟨0, 5, .rw, 0⟩]⟩,
  -- FRY_CNT
  ⟨0x10, 0x10000, 1, 0x10000, 1, false, .hub, [⟨0, 8, .rc, 0⟩, ⟨8, 8, .rc, 0⟩, ⟨16, 8, .rc, 0⟩, ⟨24, 8, .rc, 0⟩]⟩,
  -- FRY_LAST_ERR
  ⟨0x14, 0x10000, 1, 0x10000, 1, false, .hub, [⟨0, 4, .ro, 0⟩, ⟨4, 4, .ro, 0⟩, ⟨8, 24, .ro, 0⟩]⟩,
  -- FRY_PF_LOG
  ⟨0x18, 0x10000, 1, 0x10000, 1, true, .hub, [⟨0, 32, .ro, 0⟩, ⟨32, 16, .ro, 0⟩]⟩,
  -- FRY_LATE_PTR
  ⟨0x20, 0x10000, 1, 0x10000, 1, false, .hub, [⟨0, 4, .ro, 0⟩]⟩,
  -- FRY_LATE0
  ⟨0x100, 0x10, 16, 0x10, 1, false, .hub, [⟨0, 16, .ro, 0⟩, ⟨16, 4, .ro, 0⟩, ⟨20, 8, .ro, 0⟩]⟩,
  -- FRY_LATE1
  ⟨0x104, 0x10, 16, 0x10, 1, false, .hub, [⟨0, 12, .ro, 0⟩]⟩,
  -- FRY_LATE2
  ⟨0x108, 0x10, 16, 0x10, 1, false, .hub, [⟨0, 32, .ro, 0⟩]⟩,
  -- FRY_OUT0
  ⟨0x200, 0x10, 16, 0x10, 1, false, .hub, [⟨0, 1, .rwl, 0⟩, ⟨1, 1, .rwl, 0⟩, ⟨2, 1, .rwl, 0⟩, ⟨3, 12, .rwl, 0⟩]⟩]

/-- Registers of FRY (part 1). -/
def regsFRY1 : List RegSpec := [
  -- FRY_OUT1
  ⟨0x204, 0x10, 16, 0x10, 1, false, .hub, [⟨0, 32, .rwl, 0⟩]⟩,
  -- FRY_OUT2
  ⟨0x208, 0x10, 16, 0x10, 1, false, .hub, [⟨0, 16, .rwl, 0⟩]⟩,
  -- FRY_IN0
  ⟨0x400, 0x10, 16, 0x10, 1, false, .hub, [⟨0, 1, .rwl, 0⟩, ⟨1, 1, .rwl, 0⟩, ⟨2, 1, .rwl, 0⟩, ⟨3, 1, .rwl, 0⟩, ⟨4, 1, .rwl, 0⟩, ⟨5, 6, .rwl, 0⟩, ⟨11, 2, .rwl, 0⟩, ⟨13, 3, .rwl, 0⟩, ⟨16, 10, .rwl, 0⟩, ⟨26, 1, .rwl, 0⟩]⟩,
  -- FRY_IN1
  ⟨0x404, 0x10, 16, 0x10, 1, false, .hub, [⟨0, 8, .rwl, 0⟩, ⟨8, 8, .rwl, 0⟩]⟩,
  -- FRY_IN2
  ⟨0x408, 0x10, 16, 0x10, 1, false, .hub, [⟨0, 32, .rwl, 0⟩]⟩,
  -- FRY_IN3
  ⟨0x40C, 0x10, 16, 0x10, 1, false, .hub, [⟨0, 25, .rwl, 0⟩]⟩]

/-- The registers of the block FRY, base 0x40100000. -/
def regsFRY : List RegSpec := regsFRY0 ++ regsFRY1

/-- Registers of TNK (part 0). -/
def regsTNK0 : List RegSpec := [
  -- TNK_CTRL
  ⟨0x0, 0x10000, 1, 0x10000, 1, false, .hub, [⟨0, 3, .rwl, 0⟩, ⟨4, 3, .rwl, 0⟩, ⟨8, 8, .rwl, 0⟩, ⟨16, 1, .rwl, 0⟩]⟩,
  -- TNK_STATE
  ⟨0x4, 0x10000, 1, 0x10000, 1, false, .hub, [⟨0, 16, .ro, 0⟩, ⟨16, 3, .ro, 0⟩, ⟨20, 1, .ro, 0⟩, ⟨21, 1, .ro, 0⟩]⟩,
  -- TNK_EVT
  ⟨0x8, 0x10000, 1, 0x10000, 1, false, .hub, [⟨0, 1, .w1c, 0⟩, ⟨1, 1, .w1c, 0⟩, ⟨2, 1, .w1c, 0⟩, ⟨3, 1, .w1c, 0⟩, ⟨4, 1, .w1c, 0⟩, ⟨5, 1, .w1c, 0⟩]⟩,
  -- TNK_IRQ_EN
  ⟨0xC, 0x10000, 1, 0x10000, 1, false, .hub, [⟨0, 6, .rw, 0⟩]⟩,
  -- TNK_CMD
  ⟨0x10, 0x10000, 1, 0x10000, 1, false, .hub, [⟨0, 1, .wo, 0⟩, ⟨1, 1, .wo, 0⟩, ⟨2, 1, .wo, 0⟩]⟩,
  -- TNK_FIRST
  ⟨0x14, 0x10000, 1, 0x10000, 1, false, .hub, [⟨0, 7, .ro, 0⟩, ⟨8, 3, .ro, 0⟩, ⟨12, 3, .ro, 0⟩, ⟨15, 1, .ro, 0⟩, ⟨31, 1, .ro, 0⟩]⟩,
  -- TNK_FIRST_T
  ⟨0x18, 0x10000, 1, 0x10000, 1, true, .hub, [⟨0, 64, .ro, 0⟩]⟩,
  -- TNK_FIRST_ALSO
  ⟨0x20, 0x4, 4, 0x4, 1, false, .hub, [⟨0, 32, .ro, 0⟩]⟩,
  -- TNK_CNT
  ⟨0x30, 0x10000, 1, 0x10000, 1, false, .hub, [⟨0, 16, .rc, 0⟩, ⟨16, 8, .rc, 0⟩, ⟨24, 8, .rc, 0⟩]⟩,
  -- TNK_HOST
  ⟨0x34, 0x10000, 1, 0x10000, 1, false, .hub, [⟨0, 12, .rwl, 0⟩, ⟨12, 4, .rwl, 0⟩, ⟨16, 3, .rwl, 0⟩]⟩,
  -- TNK_FLT
  ⟨0x38, 0x10000, 1, 0x10000, 1, false, .hub, [⟨0, 1, .ro, 0⟩, ⟨1, 1, .ro, 0⟩, ⟨2, 1, .ro, 0⟩, ⟨3, 1, .ro, 0⟩]⟩,
  -- TNK_DUMP_STAT
  ⟨0x3C, 0x10000, 1, 0x10000, 1, false, .hub, [⟨0, 2, .ro, 0⟩, ⟨2, 1, .ro, 0⟩, ⟨3, 1, .ro, 0⟩, ⟨16, 16, .ro, 0⟩]⟩]

/-- Registers of TNK (part 1). -/
def regsTNK1 : List RegSpec := [
  -- TNK_STAT
  ⟨0x40, 0x4, 4, 0x4, 1, false, .hub, [⟨0, 32, .w1c, 0⟩]⟩,
  -- TNK_ACK
  ⟨0x50, 0x4, 4, 0x4, 1, false, .hub, [⟨0, 32, .w1s, 0⟩]⟩,
  -- TNK_PRESENT
  ⟨0x60, 0x4, 4, 0x4, 1, false, .hub, [⟨0, 32, .ro, 0⟩]⟩,
  -- TNK_LOG_PTR
  ⟨0x70, 0x10000, 1, 0x10000, 1, false, .hub, [⟨0, 6, .ro, 0⟩, ⟨16, 16, .ro, 0⟩]⟩,
  -- TNK_SEV
  ⟨0x800, 0x4, 128, 0x4, 1, false, .hub, [⟨0, 3, .rwl, 0⟩, ⟨4, 3, .ro, 0⟩, ⟨16, 16, .rc, 0⟩]⟩,
  -- TNK_CAUSE
  ⟨0xA00, 0x4, 128, 0x4, 1, false, .hub, [⟨0, 32, .ro, 0⟩]⟩,
  -- TNK_LOG0
  ⟨0x400, 0x10, 64, 0x10, 1, false, .hub, [⟨0, 7, .ro, 0⟩, ⟨8, 3, .ro, 0⟩, ⟨12, 3, .ro, 0⟩, ⟨15, 1, .ro, 0⟩, ⟨16, 1, .ro, 0⟩]⟩,
  -- TNK_LOG_T
  ⟨0x404, 0x10, 64, 0x10, 1, true, .hub, [⟨0, 64, .ro, 0⟩]⟩,
  -- TNK_LOG3
  ⟨0x40C, 0x10, 64, 0x10, 1, false, .hub, [⟨0, 32, .ro, 0⟩]⟩]

/-- The registers of the block TNK, base 0x40110000. -/
def regsTNK : List RegSpec := regsTNK0 ++ regsTNK1

/-- Registers of COB (part 0). -/
def regsCOB0 : List RegSpec := [
  -- COB_CTRL
  ⟨0x0, 0x10000, 1, 0x10000, 1, false, .hub, [⟨0, 1, .rwl, 0⟩, ⟨1, 1, .rwl, 0⟩, ⟨8, 8, .rwl, 0⟩, ⟨16, 16, .rwl, 0⟩]⟩,
  -- COB_STAT
  ⟨0x4, 0x10000, 1, 0x10000, 1, false, .hub, [⟨0, 16, .ro, 0⟩, ⟨16, 16, .ro, 0⟩]⟩,
  -- COB_EVT
  ⟨0x8, 0x10000, 1, 0x10000, 1, false, .hub, [⟨0, 1, .w1c, 0⟩, ⟨1, 1, .w1c, 0⟩]⟩,
  -- COB_IRQ_EN
  ⟨0xC, 0x10000, 1, 0x10000, 1, false, .hub, [⟨0, 2, .rw, 0⟩]⟩,
  -- COB_ECC_LAST
  ⟨0x10, 0x10000, 1, 0x10000, 1, false, .hub, [⟨0, 28, .ro, 0⟩, ⟨28, 4, .ro, 0⟩]⟩,
  -- COB_WEAR
  ⟨0x14, 0x10000, 1, 0x10000, 1, false, .hub, [⟨0, 22, .ro, 0⟩, ⟨22, 10, .ro, 0⟩]⟩]

/-- The registers of the block COB, base 0x40120000. -/
def regsCOB : List RegSpec := regsCOB0

/-- Registers of RSL (part 0). -/
def regsRSL0 : List RegSpec := [
  -- RSL_STATUS
  ⟨0x0, 0x10000, 1, 0x10000, 1, false, .hub, [⟨0, 1, .ro, 0⟩, ⟨1, 1, .ro, 0⟩, ⟨2, 1, .ro, 0⟩, ⟨3, 1, .ro, 0⟩, ⟨8, 7, .ro, 0⟩, ⟨16, 8, .ro, 0⟩]⟩,
  -- RSL_EVT
  ⟨0x4, 0x10000, 1, 0x10000, 1, false, .hub, [⟨0, 1, .w1c, 0⟩, ⟨1, 1, .w1c, 0⟩, ⟨2, 1, .w1c, 0⟩, ⟨3, 1, .w1c, 0⟩, ⟨4, 1, .w1c, 0⟩, ⟨5, 1, .w1c, 0⟩]⟩,
  -- RSL_IRQ_EN
  ⟨0x8, 0x10000, 1, 0x10000, 1, false, .hub, [⟨0, 6, .rw, 0⟩]⟩,
  -- RSL_ACT
  ⟨0xC, 0x10000, 1, 0x10000, 1, false, .hub, [⟨0, 32, .ro, 0⟩]⟩,
  -- RSL_SESS
  ⟨0x10, 0x4, 3, 0x4, 1, false, .hub, [⟨0, 3, .ro, 0⟩, ⟨8, 4, .ro, 0⟩, ⟨16, 16, .ro, 0⟩]⟩,
  -- RSL_RCVD
  ⟨0x20, 0x4, 3, 0x4, 1, false, .hub, [⟨0, 15, .ro, 0⟩, ⟨15, 1, .ro, 0⟩, ⟨16, 16, .rc, 0⟩]⟩,
  -- RSL_CMDBLK
  ⟨0x100, 0x4, 8, 0x4, 1, false, .hub, [⟨0, 32, .wo, 0⟩]⟩,
  -- RSL_STG
  ⟨0x1000, 0x1000, 3, 0x4, 1024, false, .hub, [⟨0, 32, .rw, 0⟩]⟩]

/-- The registers of the block RSL, base 0x40130000. -/
def regsRSL : List RegSpec := regsRSL0

/-- Registers of NVM (part 0). -/
def regsNVM0 : List RegSpec := [
  -- NVM_STAT
  ⟨0x0, 0x10000, 1, 0x10000, 1, false, .hub, [⟨0, 1, .ro, 0⟩, ⟨1, 1, .ro, 0⟩, ⟨2, 1, .ro, 0⟩, ⟨3, 1, .ro, 0⟩]⟩,
  -- NVM_ADDR
  ⟨0x4, 0x10000, 1, 0x10000, 1, false, .hub, [⟨0, 32, .rw, 0⟩]⟩,
  -- NVM_CMD
  ⟨0x8, 0x10000, 1, 0x10000, 1, false, .hub, [⟨0, 2, .wo, 0⟩]⟩,
  -- NVM_ERR
  ⟨0xC, 0x10000, 1, 0x10000, 1, false, .hub, [⟨0, 32, .ro, 0⟩]⟩,
  -- NVM_CNT
  ⟨0x10, 0x10000, 1, 0x10000, 1, false, .hub, [⟨0, 16, .rc, 0⟩, ⟨16, 16, .rc, 0⟩]⟩,
  -- NVM_BUF
  ⟨0x100, 0x4, 64, 0x4, 1, false, .hub, [⟨0, 32, .rw, 0⟩]⟩]

/-- The registers of the block NVM, base 0x40140000. -/
def regsNVM : List RegSpec := regsNVM0

/-- Registers of LP (part 0). -/
def regsLP0 : List RegSpec := [
  -- LP_CTRL
  ⟨0x0, 0x10000, 1, 0x10000, 1, false, .hub, [⟨0, 1, .rwl, 0⟩, ⟨1, 2, .rwl, 0⟩, ⟨16, 16, .rwl, 0⟩]⟩,
  -- LP_STAT
  ⟨0x4, 0x10000, 1, 0x10000, 1, false, .hub, [⟨0, 1, .ro, 0⟩, ⟨1, 1, .ro, 0⟩, ⟨2, 1, .ro, 0⟩, ⟨3, 1, .ro, 0⟩, ⟨8, 8, .ro, 0⟩]⟩,
  -- LP_EVT
  ⟨0x8, 0x10000, 1, 0x10000, 1, false, .hub, [⟨0, 1, .w1c, 0⟩, ⟨1, 1, .w1c, 0⟩, ⟨2, 1, .w1c, 0⟩, ⟨3, 1, .w1c, 0⟩]⟩,
  -- LP_IRQ_EN
  ⟨0xC, 0x10000, 1, 0x10000, 1, false, .hub, [⟨0, 4, .rw, 0⟩]⟩,
  -- LP_CNT
  ⟨0x10, 0x10000, 1, 0x10000, 1, false, .hub, [⟨0, 16, .rc, 0⟩, ⟨16, 16, .ro, 0⟩]⟩]

/-- The registers of the block LP, base 0x40150000. -/
def regsLP : List RegSpec := regsLP0

/-- The register tables of the 22 blocks, in the order of their bases (R390). -/
def blockTables : List (List RegSpec) :=
  [regsSYS, regsWELT, regsTRN, regsLDG, regsBELL, regsTRD, regsDRV, regsXB, regsTAP, regsSPR, regsCHN, regsCAN, regsDIO, regsADC, regsBRN, regsASY, regsFRY, regsTNK, regsCOB, regsRSL, regsNVM, regsLP]

end Sys2Proof.Machine
end

