-- ==== Sys2Proof/Machine/BrnOps.lean ====
section
/-! DEFINITION. The enable of a branch and the transitions it drives, and hard off (R282 to R284, R287, R290). -/

namespace Sys2Proof.Machine

/-- STATE of BRN_STAT (R283). -/
def bOff : Nat := 0
def bInsert : Nat := 1
def bRamp : Nat := 2
def bOn : Nat := 3
def bSoftOff : Nat := 4
def bDischarge : Nat := 5
def bRetryWait : Nat := 6
def bLatchedOff : Nat := 7
def bFailed : Nat := 8

/-- State of a branch. -/
def brnState (s : State) (n : Nat) : Nat := rd s (BRN_STAT_STATE n)

/-- Entry to INSERT: the junction estimate takes T_A unless it exceeds T_A + 5 °C (R289). -/
def brnInsert (s : State) (n : Nat) : State :=
  let b := s.brn n
  let t := wr (wr s (BRN_STAT_STATE n) bInsert) (BRN_STAT_PENDING_ON n) 0
  let tj := if b.tj > b.ta + 5 * 65536 then b.tj else b.ta
  (wrI t (BRN_TH_TJ_T_J n) (tj / 1024)).setBrn n { b with tj := tj, reon := false }

/-- What OFF does with the enable (R283): E = 0 clears REARM, and a pending start with its T_REON run; E = 1 starts the
branch when nothing stands against it. -/
def brnOffSettle (s : State) (n : Nat) : State :=
  if brnState s n ≠ bOff then s
  else if !flag s (BRN_STAT_E n) then
    let t := wr (wr s (BRN_STAT_REARM n) 0) (BRN_STAT_PENDING_ON n) 0
    t.setBrn n { t.brn n with reon := false }
  else if !flag s (BRN_STAT_REARM n) && flag s (BRN_STAT_CP_OK n) && !(s.brn n).reon then brnInsert s n
  else s

/-- The branch comes to rest: the 100 ms before its zero-current offset begin (R295). -/
def brnRest (s : State) (n : Nat) : State := s.setBrn n { s.brn n with rest := ftNs s }

/-- The limit in µA of a sense voltage of V_LIM, 0.25 mV a step (R281). -/
def limitSense (c : BrnCfg) : Nat := c.vLim * 250 * 1000000 / c.rShunt

/-- The fold-back limit in µA at V_BUS and V_OUT in mV, whose difference counts as 100 mV at least (R286). -/
def foldBack (c : BrnCfg) (vBus vOut : Nat) : Nat := min (limitSense c) (c.pSoa * 1000000000 / max 100 (vBus - vOut))

/-- The limit the BPD regulates at: fold-back in RAMP, V_LIM otherwise (R281, R286). -/
def brnLimit (s : State) (n vBus vOut : Nat) : State :=
  let b := s.brn n
  s.setBrn n { b with limit := if brnState s n = bRamp then foldBack b.cfg vBus vOut else limitSense b.cfg }

/-- Entry to OFF: RCNT = 0 (R284), and what OFF does with the enable. -/
def brnToOff (s : State) (n : Nat) : State :=
  let t := wr (wr s (BRN_STAT_STATE n) bOff) (BRN_STAT_RCNT n) 0
  brnOffSettle (brnRest t n) n

/-- The enable of a branch takes a value at the BPD, and the branch follows it (R283). -/
def brnSetE (s : State) (n : Nat) (e : Bool) : State :=
  if flag s (BRN_STAT_E n) = e then s
  else
    let t := wrB s (BRN_STAT_E n) e
    let st := brnState s n
    if st = bOff then brnOffSettle t n
    else if st = bInsert then (if e then t else brnToOff t n)
    else if st = bRamp ∨ st = bOn then (if e then t else wr (wr t (BRN_STAT_PG n) 0) (BRN_STAT_STATE n) bSoftOff)
    else if st = bRetryWait then (if e then t else brnToOff t n)
    else if st = bSoftOff ∨ st = bDischarge then wrB t (BRN_STAT_PENDING_ON n) e
    else t

/-- The enable source of a branch: its bit of output word 3, or its latch (R282). -/
def brnSource (s : State) (n : Nat) : Bool :=
  if flag s (BRN_CFG_ESRC n) then (s.brn n).latch else (s.brn n).outBit

/-- The effective enable (R282, R292): frozen through the hold of a Resole activation; otherwise EN, RUN or DEGRADED
with a P3 run, ST13 not skipped (R358), and the enable source. -/
def brnWant (s : State) (n : Nat) : Bool :=
  match (s.brn n).frozen with
  | some e => e
  | none => flag s (BRN_CFG_EN n) && !s.sys.brnOff && running s && s.trd.p3 && brnSource s n

/-- The BPD takes the effective enable of a branch, where the D2D link carries it (R11, R12, R282). -/
def brnFollow (s : State) (n : Nat) : State := if s.rst.d2dBpdLost then s else brnSetE s n (brnWant s n)

/-- Every branch takes its effective enable. -/
def brnFollowAll (s : State) : State := each (List.range 16) brnFollow s

/-- Hard off of one branch (R283, R290). -/
def brnHardOff (s : State) (n : Nat) : State :=
  if brnState s n = bFailed ∨ brnState s n = bLatchedOff then s
  else
    let t := wrs s [(BRN_STAT_STATE n, bDischarge), (BRN_STAT_PG n, 0), (BRN_STAT_PENDING_ON n, 0), (BRN_STAT_REARM n, 1)]
    t.setBrn n { t.brn n with reon := false }

/-- A hard-off command acts on every branch at once (R290). -/
def hardOff (s : State) : State := each (List.range 16) brnHardOff s

/-- Every branch's E falls to 0 as the hub leaves RUN and DEGRADED, and the hold of an activation ends (R290, R380). -/
def brnRelease (s : State) : State :=
  brnFollowAll (each (List.range 16) (fun t n => t.setBrn n { t.brn n with frozen := none }) s)

end Sys2Proof.Machine
end

