-- ==== Sys2Proof/Machine/CanOps.lean ====
section
/-! DEFINITION. The states of a CAN controller: its start and its stop (R244, R245). -/

namespace Sys2Proof.Machine

/-- STATE of CAN_STAT (R244). -/
def nOff : Nat := 0
def nDetect : Nat := 1
def nIntegrate : Nat := 2
def nOn : Nat := 3
def nBusOff : Nat := 4
def nRecovering : Nat := 5
def nStopping : Nat := 6
def nStopped : Nat := 7
def nFailed : Nat := 8

/-- State of a controller. -/
def canState (s : State) (c : Nat) : Nat := rd s (CAN_STAT_STATE c)

/-- The controller starts: DETECT at candidate 0 with AUTO_DET = 1, INTEGRATE otherwise, TEC = REC = 0 (R244, R246). -/
def canStart (s : State) (c : Nat) : State :=
  let t := wrs s [(CAN_STAT_STATE c, if flag s (CAN_CTRL_AUTO_DET c) then nDetect else nIntegrate),
    (CAN_ERRC_TEC c, 0), (CAN_ERRC_REC c, 0), (CAN_STAT_ERR c, 0)]
  t.setCan c { t.can c with cand := 0, slow := false, locked := false, awake := true }

/-- A controller that is active goes to STOPPING (R244). -/
def canStop (s : State) (c : Nat) : State :=
  if nDetect ≤ canState s c ∧ canState s c ≤ nRecovering then wr s (CAN_STAT_STATE c) nStopping else s

/-- Every controller stops as the hub leaves RUN and DEGRADED (R244). -/
def canStopAll (s : State) : State := each (List.range 16) canStop s

/-- A STOPPED controller that is not disabled restarts when the hub enters RUN or DEGRADED (R244). -/
def canGo (s : State) (c : Nat) : State :=
  if canState s c = nStopped ∧ running s ∧ !flag s (CAN_STAT_DIS c) then canStart s c else s

/-- Every controller that may restart, restarts. -/
def canGoAll (s : State) : State := each (List.range 16) canGo s

end Sys2Proof.Machine
end

