-- ==== Sys2Proof/Machine/ChnOps.lean ====
section
/-! DEFINITION. The modes, pins and timing of a channel, poll memory, the staging copy of the input image and the stop
of a channel (R213 to R217, R228, R229, R233, R236, R237). -/

namespace Sys2Proof.Machine

/-- STATE of CHN_STAT (R236). -/
def cOff : Nat := 0
def cIdle : Nat := 1
def cRun : Nat := 2
def cStopping : Nat := 3
def cFailed : Nat := 4

/-- State of a channel. -/
def chnState (s : State) (n : Nat) : Nat := rd s (CHN_STAT_STATE n)

/-- MODE of a channel: 5 from channel 16 on, and the reserved codes, act as OFF (R214). -/
def chnMode (s : State) (n : Nat) : Nat :=
  let m := rd s (CHN_CFG_MODE n)
  if 6 ≤ m ∨ (m = 5 ∧ 16 ≤ n) then 0 else m

def mUart : Nat := 1
def mSpi : Nat := 2
def mI2c : Nat := 3
def mSsi : Nat := 4
def mCan : Nat := 5

/-- Bits of CHN_MODEP. -/
def modep (s : State) (n lo w : Nat) : Nat := bits (rd s (CHN_MODEP_P n)) lo w

/-- CHN_MODEP and DIV as a request on the line carries them. -/
def lineHow (s : State) (n : Nat) : Nat := rd s (CHN_MODEP_P n) + rd s (CHN_CLK_DIV n) * 2 ^ 32

/-! ## Queues (R220) -/

/-- TXQ_U: 0 acts as 1, above 14 as 14. -/
def txqUnits (s : State) (n : Nat) : Nat := min 14 (max 1 (rd s (CHN_CFG_TXQ_U n)))

/-- Bytes a queued frame takes. -/
def queued (len : Nat) : Nat := (len + 3) / 4 * 4 + 4

/-- Bytes of the TX queue and of the RX queue in use, and the size of the RX queue. -/
def txUsed (s : State) (n : Nat) : Nat := sumOf ((s.chn n).txq.map fun f => queued f.length)
def rxUsed (s : State) (n : Nat) : Nat := sumOf ((s.chn n).rxq.map fun f => queued f.bytes.length)
def rxSize (s : State) (n : Nat) : Nat := 8192 - 512 - 512 * txqUnits s n

/-- RTS of a UART channel with RTSCTS = 1 is asserted: 64 bytes of the RX queue are free (R216). -/
def rtsAsserted (s : State) (n : Nat) : Bool := decide (rxUsed s n + 64 ≤ rxSize s n)

/-! ## The timing of a UART (R215, R216) -/

/-- The ns that k bits take, rounded up: DIV counts quarters of a ns. -/
def bitsNs (s : State) (n k : Nat) : Nat := (k * rd s (CHN_CLK_DIV n) + 3) / 4

/-- The bits of a character. -/
def charBits (s : State) (n : Nat) : Nat := 10 + modep s n 0 1 + modep s n 1 1 + modep s n 3 1

/-- DE_LEAD and DE_LAG in bit times; 0 without RS485. -/
def deLead (s : State) (n : Nat) : Nat := modep s n 4 1 * modep s n 8 8
def deLag (s : State) (n : Nat) : Nat := modep s n 4 1 * modep s n 16 8

/-- A UART channel is sending: its last stop bit is still to come, or CTS holds it. -/
def uartSends (s : State) (n : Nat) : Bool := (s.chn n).ctsLeft.isSome || decide (ftNs s < (s.chn n).sent)

/-- DE is asserted (R216). -/
def deOn (s : State) (n : Nat) : Bool :=
  modep s n 4 1 = 1 && (s.chn n).sent ≠ 0 &&
    (uartSends s n || decide (ftNs s < (s.chn n).sent + bitsNs s n (deLag s n)))

/-! ## Pins (R213, R214) -/

/-- The pins of a channel without a transfer; RS485 comes before RTSCTS where both are set (log entry 121). -/
def idlePins (s : State) (n : Nat) : List Pin :=
  match chnMode s n with
  | 1 => [.high, .undriven, if modep s n 4 1 = 1 ∨ modep s n 5 1 = 1 then .low else .undriven, .undriven]
  | 2 => [if modep s n 1 1 = 1 then .high else .low, .high, .undriven, .high]
  | 3 => [.released, .released, .undriven, .undriven]
  | 4 => [.high, .undriven, .undriven, .undriven]
  | _ => []

/-- Pin CHn_A to CHn_D, numbered from 0, as the hub drives it now; held pins keep their levels (R213, R216, R217). -/
def chnPin (s : State) (n k : Nat) : Pin :=
  let c := s.chn n
  let idle := c.pins.getD k .undriven
  if c.pins = [] then .undriven
  else match chnMode s n, k with
    | 1, 0 => if uartSends s n then .data else idle
    | 1, 2 =>
      if modep s n 4 1 = 1 then (if deOn s n then .high else .low)
      else if modep s n 5 1 = 1 then (if rtsAsserted s n then .low else .high)
      else idle
    | 2, 0 | 2, 1 => if c.cs.isSome then .data else idle
    | 2, 3 => if c.cs = some 0 then .low else idle
    | 3, 0 | 3, 1 | 4, 0 => if c.xfer = .none then idle else .data
    | _, _ => idle

/-! ## Poll memory -/

/-- A word of poll memory. -/
def pm (s : State) (w : Nat) : Nat := memWord s (pollBase + 4 * w)

/-- Bits lo to lo + w - 1 of word k of the descriptor of transaction t of channel n (R228). -/
def desc (s : State) (n t k lo w : Nat) : Nat := pm s (8 * (rd s (CHN_PL2_FIRST n) + t) + k) / 2 ^ lo % 2 ^ w

/-- Bits of word k of a field entry (R229). -/
def entry (s : State) (j k lo w : Nat) : Nat := pm s (4 * j + k) / 2 ^ lo % 2 ^ w

/-- The input word of the status word of a transaction. -/
def swordOf (s : State) (n t : Nat) : Nat := desc s n t 7 0 10

/-- The status word of a transaction in the staging copy (R233). -/
def txStatus (s : State) (n t : Nat) : Nat := s.stgWord (swordOf s n t)

/-- QUAL of a transaction replaced in its status word. -/
def txQual (s : State) (n t q : Nat) : State := s.setStg (swordOf s n t) (txStatus s n t / 16 * 16 + q)

/-- Transactions in a channel's list; more than 64 act as 64. -/
def listLen (s : State) (n : Nat) : Nat := min (rd s (CHN_PL_COUNT n)) 64

/-- Transactions with FLT = 1 whose QUAL is 4 to 8: FAILN of CHN_STATUS (R235). -/
def failN (s : State) : Nat :=
  (List.range 48).foldl (fun k n => k + ((List.range (listLen s n)).filter fun t =>
    desc s n t 6 31 1 = 1 && decide (4 ≤ txStatus s n t % 16) && decide (txStatus s n t % 16 ≤ 8)).length) 0

/-! ## Chip selects (R214, R217, R265) -/

/-- The discrete line of chip select k of an SPI channel. -/
def csLine (s : State) (n k : Nat) : Option Nat :=
  match k with
  | 1 => if flag s (CHN_CSX_CS1_EN n) then some (rd s (CHN_CSX_CS1_DIO n)) else none
  | 2 => if flag s (CHN_CSX_CS2_EN n) then some (rd s (CHN_CSX_CS2_DIO n)) else none
  | 3 => if flag s (CHN_CSX_CS3_EN n) then some (rd s (CHN_CSX_CS3_DIO n)) else none
  | _ => none

/-- The line of a chip select takes a level; a line released after a readback fault stays undriven. -/
def csLevel (s : State) (n k : Nat) (b : Bool) : State :=
  match csLine s n k with
  | none => s
  | some l => if flag s (DIO_STAT_RELEASED l) then s else s.setLine l { s.line l with drive := some b }

/-- A channel takes its chip-select lines, high, as it enters RUN, and leaves them, high, as it comes back to IDLE
(R265). -/
def csHold (s : State) (n : Nat) (b : Bool) : State :=
  if chnMode s n = mSpi then
    each [1, 2, 3] (fun t k => match csLine t n k with
      | none => t
      | some l => (csLevel t n k true).setLine l { (csLevel t n k true).line l with cs := b }) s
  else s

/-! ## Running and stopping (R236) -/

/-- A RUN channel goes to STOPPING: every transaction of its list takes QUAL OFF (R236). -/
def chnStop (s : State) (n : Nat) : State :=
  if chnState s n = cRun then
    let t := wr s (CHN_STAT_STATE n) cStopping
    each (List.range (listLen s n)) (fun t k => txQual t n k 9) (t.setChn n { t.chn n with stopAt := ftNs s })
  else s

/-- Every channel stops as the hub leaves RUN and DEGRADED (R236). -/
def chnStopAll (s : State) : State := each (List.range 48) chnStop s

/-- An IDLE channel that is not disabled runs while the hub is in RUN or DEGRADED (R236). -/
def chnGo (s : State) (n : Nat) : State :=
  if chnState s n = cIdle ∧ running s ∧ !flag s (CHN_STAT_DIS n) then csHold (wr s (CHN_STAT_STATE n) cRun) n true else s

/-- Every channel that may run, runs. -/
def chnGoAll (s : State) : State := each (List.range 48) chnGo s

end Sys2Proof.Machine
end

