-- ==== Sys2Proof/Machine/DioOps.lean ====
section
/-! DEFINITION. What acts on a discrete line: its modes and safe value, an action on it, its timed-action queue, its
pulse train, and the start of a triggered scan (R265 to R277). Shared by the tick, triggers, the Drover and commands. -/

namespace Sys2Proof.Machine

/-- MODE of a line; 4 to 7 act as 0. -/
def dioMode (s : State) (n : Nat) : Nat := if rd s (DIO_CFG_MODE n) < 4 then rd s (DIO_CFG_MODE n) else 0

/-- The safe level of a line: none where it is undriven (R273). -/
def dioSafeLevel (s : State) (n : Nat) : Option Bool :=
  if dioMode s n = 0 then none
  else match rd s (DIO_CFG_SAFE n) with
    | 0 => some false
    | 1 => some true
    | _ => none

/-- Outputs act: the hub is in RUN or DEGRADED, or holds them for a Resole activation (R267, R273, R380). -/
def dioActs (s : State) : Bool := running s || s.rst.hold || s.rst.holdToP3

/-- An action on line n is heeded: the line is an output, not released, no channel's chip select (R265, R267). -/
def dioHeeds (s : State) (n : Nat) : Bool :=
  n < 96 && dioMode s n != 0 && !flag s (DIO_STAT_RELEASED n) && !(s.line n).cs && dioActs s

/-- The level an action leaves: an undriven line has none to toggle (R267). -/
def actLevel (b : Option Bool) : LineAct → Option Bool
  | .set => some true
  | .clear => some false
  | .toggle => b.map (!·)
  | .pulse => some true
  | _ => b

/-- The actions of a cycle with one more, in order of rank and, at one rank, of arrival. -/
def insAct : List (Nat × LineAct) → Nat × LineAct → List (Nat × LineAct)
  | [], x => [x]
  | y :: l, x => if x.1 < y.1 then x :: y :: l else y :: insAct l x

/-- Actions have fallen on the line in this very cycle. -/
def actedNow (s : State) (l : Line) : Bool := !l.acts.isEmpty && l.cyc == s.clk.ft.toNat

/-- P3 writes the level of a line: the actions of the same cycle come after it (R267). -/
def dioDrive (s : State) (n : Nat) (b : Option Bool) : State :=
  let l := s.line n
  if actedNow s l then s.setLine n { l with base := b, drive := l.acts.foldl (fun v x => actLevel v x.2) b }
  else s.setLine n { l with drive := b }

/-- PER in CLK_CORE cycles (R268). -/
def dioPer (s : State) (n : Nat) : Nat := if rd s (DIO_PER_PER n) = 0 then 2 else rd s (DIO_PER_PER n)

/-- The high time of PWM in CLK_CORE cycles (R268). -/
def pwmHigh (s : State) (n duty : Nat) : Nat := dioPer s n * duty / 65536

/-- CLK_CORE cycles since the period or pulse of a line began. -/
def perCycles (s : State) (n : Nat) : Nat :=
  (((s.clk.ft.toNat : Int) - (s.line n).perAt.getD s.clk.ft.toNat) / cycleUnits s).toNat

/-- The logical level of a line now: that of PWM and of a pulse train follows the phase (R268, R269). -/
def lineDriven (s : State) (n : Nat) : Option Bool :=
  let l := s.line n
  if l.drive ≠ some true then l.drive
  else if dioMode s n = 2 ∧ l.pwmOn then some (decide (perCycles s n < pwmHigh s n l.duty))
  else if dioMode s n = 3 ∧ l.ptLeft ≠ 0 then some (decide (perCycles s n < rd s (DIO_PT_HIGH n)))
  else some true

/-- What the driver of a line does to its pad: INV inverts, an open-drain driver only pulls low (R265). -/
def dioPad (s : State) (n : Nat) : Pin :=
  match lineDriven s n with
  | none => .undriven
  | some b =>
    if b != flag s (DIO_CFG_INV n) then (if flag s (DIO_CFG_OD n) then .released else .high) else .low

/-- A pulse train starts with the COUNT of the line's parameter word; a running one wins (R269). -/
def trainStart (s : State) (n : Nat) : State :=
  let l := s.line n
  if l.ptLeft ≠ 0 then wr s DIO_EVT_PT_BUSY 1
  else if l.param = 0 then s
  else s.setLine n { l with ptLeft := l.param, ptStop := false, drive := some true, perAt := some s.clk.ft.toNat }

/-- An action of a rank on a line. The actions of one cycle apply in the order of their ranks, the line's queue (0) before
the triggers in ascending number (1 + n), whatever the order in which they come (R129, R266, R267, R269, R271). -/
def lineAct (s : State) (n rank : Nat) (a : LineAct) : State :=
  if !dioHeeds s n ∨ a = .none then s
  else if a = .start then (if dioMode s n = 3 then trainStart s n else s)
  else
    let l := s.line n
    let b := if actedNow s l then l.base else l.drive
    let acts := insAct (if actedNow s l then l.acts else []) (rank, a)
    s.setLine n { l with
      cyc := s.clk.ft.toNat, base := b, acts := acts, drive := acts.foldl (fun v x => actLevel v x.2) b }

/-- A queue action fires: a pulse also schedules its end PW µs later and restarts a running one (R271). -/
def queueFire (s : State) (n : Nat) (a : LineAct) : State :=
  let t := lineAct s n 0 a
  if a = .pulse ∧ dioHeeds s n then
    t.setLine n { t.line n with pulseEnd := some (ftNs s + (if rd s (DIO_PW_PW n) = 0 then 1 else rd s (DIO_PW_PW n)) * 1000) }
  else t

/-- A late queue fire is counted (R271). -/
def queueLate (s : State) (n : Nat) : State := wr (incSat s (DIO_QCNT_QLATE n)) DIO_EVT_QLATE 1

/-- The queue with an entry inserted behind those of the same or an earlier target (R270). -/
def queueIns : List QEnt → QEnt → List QEnt
  | [], e => [e]
  | x :: q, e => if e.target < x.target then e :: x :: q else x :: queueIns q e

/-- A timed action is pushed onto a line's queue, fires at once, or is refused (R270, R271). -/
def queuePush (s : State) (n target : Nat) (a : LineAct) : State :=
  let l := s.line n
  if 8 ≤ l.queue.length ∨ dioMode s n ≠ 1 then wr (incSat s (DIO_QCNT_QFULL n)) DIO_EVT_QFULL 1
  else if dist40 target (ftNs s) = 0 then queueFire s n a
  else if past40 target (ftNs s) then queueFire (queueLate s n) n a
  else s.setLine n { l with queue := queueIns l.queue ⟨target, a⟩ }

/-- After a step of FT the waiting entries of a line are judged afresh: those now past fire late (R271). -/
def queueJudge (s : State) (n : Nat) : State :=
  let q := (s.line n).queue
  let now := ftNs s
  let t := s.setLine n { s.line n with queue := q.filter fun e => !due40 e.target now }
  (q.filter fun e => due40 e.target now).foldl
    (fun u e => queueFire (if past40 e.target now then queueLate u n else u) n e.act) t

/-- A line's queue empties, its pulse end is cancelled, its PWM and pulse train stop, and it takes its safe value; a
line released after a readback fault stays undriven (R272 to R274). -/
def lineSafe (s : State) (n : Nat) : State :=
  s.setLine n { s.line n with
    queue := [], pulseEnd := none, perAt := none, acts := [], pwmOn := false, ptLeft := 0, ptStop := false, bit := false, cs := false, held := dioSafeLevel s n
    drive := if flag s (DIO_STAT_RELEASED n) then none else dioSafeLevel s n }

/-- Every line takes its safe value (R272). -/
def dioSafe (s : State) : State := each (List.range 96) lineSafe s

/-! ## Conversions (R276) and triggered scans (R275, R277) -/

/-- Accumulators of conversions of one signal joined. -/
def acmJoin (l m : List (Nat × Acm)) : List (Nat × Acm) :=
  m.foldl (fun x p =>
    let a : Acm := tget (fun _ => {}) x p.1
    tput (fun _ => {}) x p.1 ⟨a.sum + p.2.sum, a.n + p.2.n, a.ovr || p.2.ovr⟩) l

/-- The AIN input of slot t of ADC a, where the slot is one of the plan's AIN slots. -/
def ainOfSlot (a t : Nat) : Option Nat := if t % 10 = 9 then some (4 * a + (t - 9) / 10 % 4) else none

/-- The branch signal j of slot t, where the slot is one of the plan's branch slots. -/
def brnOfSlot (t : Nat) : Option Nat := (List.range 24).find? fun j => t % 100 = j + j / 9

/-- Slot t of ADC a converts an AIN input at its RATE (R275). -/
def ainRuns (s : State) (a t : Nat) : Bool :=
  match ainOfSlot a t with
  | none => false
  | some k =>
    match rd s ADC_CTRL_RATE / 4 ^ k % 4 with
    | 0 => false
    | 1 => decide (t < 49)
    | _ => true

/-- Slot t of ADC a is free: no AIN input, branch signal or monitor is converted in it. -/
def slotFree (s : State) (a t : Nat) : Bool :=
  !ainRuns s a t && (brnOfSlot t).isNone && !(decide (50 ≤ t) && decide (t < 58))

/-- FT in ns of the first n free slots of ADC a at or after a time (R275, R277). -/
def freeSlots (s : State) (a fromNs n : Nat) : List Nat :=
  let first := (fromNs + 499) / 500
  (((List.range 401).map (first + ·)).filter fun k => slotFree s a (k % 200)).take n |>.map (· * 500)

/-- A triggered scan of ADC a starts; a pending one wins (R277). -/
def scanStart (s : State) (a : Nat) : State :=
  match tget (fun _ => none) s.adc.scan a with
  | some _ => wr s ADC_EVT_TRG_BUSY 1
  | none =>
    let ins := those 4 fun j => bitOf (rd s (ADC_TSCAN_MASK a)) j
    let sc : Scan := ⟨(ins.map (4 * a + ·)).zip (freeSlots s a (ftNs s + 1000) ins.length)⟩
    wrBit { s with adc := { s.adc with scan := tput (fun _ => none) s.adc.scan a (some sc) } } ADC_STATUS_TS_BUSY a true

/-- A trigger action of a rank on a target: a discrete line, or a scan of ADC0 or ADC1 (R129, R277). -/
def targetAct (s : State) (rank target : Nat) (a : LineAct) : State :=
  if target < 96 then lineAct s target rank a
  else if (target = 96 ∨ target = 97) ∧ a ≠ .none then scanStart s (target - 96)
  else s

end Sys2Proof.Machine
end

