-- ==== Sys2Proof/Machine/SafeOps.lean ====
section
/-! DEFINITION. Entering and leaving RUN and DEGRADED (R181, R272, R290, R335, R351). -/

namespace Sys2Proof.Machine

/-- Owners of a trigger unit (R131). -/
def ownFirmware : Nat := 0
def ownDrover : Nat := 1
def ownTreadle : Nat := 2

/-- The addresses of the record table of R166. -/
def isRecord (a : Nat) : Bool := decide (0x40064000 ≤ a) && decide (a < 0x40070000)

/-- The Drover leaves RUN and DEGRADED: its trigger units are disarmed, every record and the pending table are freed
(R181). Fires already on discrete-line queues stay there. -/
def drvLeave (s : State) : State :=
  let t := each (those 32 fun k => rd s (BELL_TRG_CTRL_OWNER k) = ownDrover) (fun u k => wr u (BELL_TRG_CTRL_ARMED k) 0) s
  { t with
    regs := t.regs.filter fun c => !isRecord c.1
    drv := { t.drv with wins := [], hoIn := [], hoQ := [], hoPos := [], hops := [], fires := [], held := [], dest := [],
                        openAtStop := [], waiting := [] } }

/-- The hub enters a state other than RUN and DEGRADED from service: every queue is flushed and every output takes its
safe value, every branch's E falls, channels and controllers stop, the Drover frees its records; a hold of a Resole
activation ends (R181, R272, R290, R335, R380). -/
def enterStill (s : State) (st : Nat) : State :=
  let s1 := wr s SYS_STATE_STATE st
  let s2 := dioSafe { s1 with rst := { s1.rst with hold := false, holdToP3 := false } }
  drvLeave (canStopAll (chnStopAll (brnRelease s2)))

/-- The hub enters RUN or DEGRADED: idle channels and stopped controllers that are not disabled run again
(R236, R244). -/
def enterService (s : State) (st : Nat) : State := canGoAll (chnGoAll (wr s SYS_STATE_STATE st))

end Sys2Proof.Machine
end

