-- ==== Sys2Proof/Machine/ResetOps.lean ====
section
/-! DEFINITION. Ordering a reset, and what each reset clears and holds (R16, R20 to R24, R27, R345, R421). -/

namespace Sys2Proof.Machine

/-! ## Which registers a reset returns to their reset values -/

/-- The register of a block's table that holds an offset. -/
def specAt (l : List RegSpec) (off : Nat) : Option RegSpec :=
  l.find? fun r =>
    let d := off - r.off
    let r1 := d % r.s1
    decide (r.off ≤ off) && decide (d / r.s1 < r.n1) && decide (r1 / r.s2 < r.n2) &&
      (r1 % r.s2 == 0 || (r.wide && r1 % r.s2 == 4))

/-- The register at a local address (R386, R390). -/
def regSpec (a : Nat) : Option RegSpec :=
  if a < 0x40000000 then none
  else match blockTables[(a - 0x40000000) / 0x10000]? with
    | none => none
    | some l => specAt l (a % 0x10000)

/-- The reset domain of the register cell at a local address; the words without a table of their own lie in the hub
domain (R16, R390). -/
def domOf (a : Nat) : Dom := match regSpec a with
  | none => .hub
  | some r => r.dom

/-- The BPD holds this BRN register: state, events, counts, energy, zero-current offset (R291). -/
def heldByBpd (a : Nat) : Bool :=
  decide (0x400E0000 ≤ a) && decide (a < 0x400E2000) && [0x24, 0x28, 0x3C, 0x40, 0x4C].contains (a % 0x200)

/-- A discrete line's output latch holds this register through a Resole activation: the line's configuration, its
status and its readback fault (R22, R274; log entry 14). -/
def heldByLatch (a : Nat) : Bool :=
  (decide (0x400C0000 ≤ a) && decide (a < 0x400C1800) && decide (a % 0x40 ≤ 0x10)) ||
  (decide (0x400C3010 ≤ a) && decide (a < 0x400C301C))

/-- The pad latch of the FLT pair holds this register through a hub-domain reset (R345, R350). -/
def heldByPad (a : Nat) : Bool := a == 0x40110038

/-- The memory address lies in the hub domain: the memories of the local map, poll memory and the KEY image. -/
def hubMemory (a : Nat) : Bool :=
  (decide (0x5000_0000 ≤ a) && decide (a < 0x5068_0000)) || (decide (pollBase ≤ a) && decide (a < layoutBase)) ||
  decide (keyBase ≤ a)

/-! ## Causes -/

/-- Codes of R22. -/
def rPor : Nat := 0
def rPin : Nat := 1
def rFatal : Nat := 2
def rWdog : Nat := 3
def rLbist : Nat := 4
def rResole : Nat := 5
def rClock : Nat := 6
def rFull : Nat := 7

/-- The cause resets the ring domain too (R20, R22). -/
def ringCause (c : Nat) : Bool := [rPor, rPin, rClock, rFull].contains c

/-- The causes from the highest in the order of precedence (R26). -/
def precedence : List Nat := [rPor, rClock, rPin, rFull, rFatal, rWdog, rLbist, rResole]

/-- The cause of a set that decides (R27). -/
def decider (m : BitVec 8) : Nat := (precedence.find? fun c => m.getLsbD c).getD rResole

/-- The set of causes recorded: the decider, and every other as "also" (R27). -/
def recordCauses (s : State) (m : BitVec 8) : State :=
  let d := decider m
  wrs { s with rst := { s.rst with causes := m } }
    [(SYS_RST_CAUSE_CAUSE, d), (SYS_RST_CAUSE_ALSO, withBit m.toNat d false)]

/-! ## What a reset does -/

/-- The line as a hub-domain reset leaves it: held for a Resole activation, at its safe value otherwise (R22, R272). -/
def lineAfter (s : State) (resole : Bool) (n : Nat) : State :=
  let s := wr s (DIO_STAT_LEVEL n) 0
  if resole then s.setLine n { s.line n with fifo := [], seen := false, cs := false, run := none, miss := none }
  else
    let t := wr s (DIO_STAT_RELEASED n) 0
    (lineSafe t n).setLine n { (lineSafe t n).line n with
      fifo := [], seen := false, param := 0, duty := 0, run := none, miss := none }

/-- The branch as a hub-domain reset leaves it: its E frozen for a Resole activation (R282, R291). -/
def brnAfter (s : State) (resole : Bool) (n : Nat) : State :=
  let b := s.brn n
  s.setBrn n { b with latch := false, outBit := false, frozen := if resole then some (flag s (BRN_STAT_E n)) else none }

/-- Word 0 of the publish descriptor of index i lies here (R104). -/
def descAddr (i : Nat) : Nat := 0x500E_E000 + 8 * i

/-- Word 0 of a publish descriptor. -/
def pubDesc (s : State) (i : Nat) : Nat := memWord s (descAddr i)

/-- The own slots under each bank (R24). -/
def ownSlots (s : State) : List (Nat × Nat) :=
  (List.range 256).flatMap fun i =>
    let d := pubDesc s i
    if !bitOf d 20 then [] else (if bitOf d 23 then [(bits d 0 16, 0)] else []) ++ (if bitOf d 24 then [(bits d 0 16, 1)] else [])

/-- A program or erase in progress, which the reset cuts short (R411). -/
def nvmCut (s : State) : Option (Nat × Nat × List Byte) :=
  match s.sys.nvm with
  | none => s.sys.cut
  | some x => some x

/-- The hub domain takes its reset values (R10, R16, R22, R24, R345, R350, R391). -/
def clearHub (s : State) (resole : Bool) : State :=
  let s1 := each (List.range 96) (lineAfter · resole ·) s
  let s2 := wrs (each (List.range 16) (brnAfter · resole ·) s1) [(TRN_STATUS_JOINED, 0), (TNK_FLT_RB_ERR, 0)]
  { s2 with
    clk := { s2.clk with cyc := 0 }
    trn := { s2.trn with own := if s2.sys.loaded then ownSlots s2 else s2.trn.own }
    mem := s2.mem.filter fun c => !hubMemory c.1
    regs := s2.regs.filter fun c =>
      domOf c.1 != .hub || heldByBpd c.1 || heldByPad c.1 || (resole && heldByLatch c.1)
    wide := {}
    bell := { lastLap := s2.bell.lastLap, noA := s2.bell.noA }
    trd := {}
    ldg := {}
    xb := {}
    fry := { mreq := s2.fry.mreq, csRise := if s2.fry.lpBusy then ftNs s else s2.fry.csRise }
    drv := {}
    chns := if resole then (s2.chns.filter fun c => !c.2.pins.isEmpty).map fun c => (c.1, { pins := idlePins s2 c.1 }) else []
    cans := if resole then s2.cans.map fun c => (c.1, { pins := c.2.pins, awake := c.2.awake }) else []
    stg := []
    stgTick := none
    stgOld := []
    rxmLast := none
    rxmAged := []
    asyNext := 0
    asyRetry := false
    bad := []
    quads := []
    adc := {}
    tnk := { driven := s2.tnk.driven, drvReset := flag s2 TNK_FLT_STATE, temp := s2.tnk.temp, rails := s2.tnk.rails }
    rsl := {}
    sys := { first := s2.sys.first, firstAlso := s2.sys.firstAlso, pfwLow := s2.sys.pfwLow, wear := s2.sys.wear,
             shut := s2.sys.shut, shutEnd := s2.sys.shutEnd, shutHold := s2.sys.shutHold, shutAt := s2.sys.shutAt,
             cut := nvmCut s2 }
    rst := { s2.rst with
      hold := resole, holdToP3 := resole, resoleAlso := false, actAt := if resole then some (ftNs s) else none } }

/-- Both domains take their reset values; the flash, VDD_AON and OTP keep theirs (R20, R22, R291). -/
def clearAll (s : State) : State :=
  { regs := s.regs.filter fun c => domOf c.1 == .aon
    mem := s.mem.filter fun c => decide (norBase ≤ c.1) && decide (c.1 < norBase + norSize)
    rst := { s.rst with
      hold := false, holdToP3 := false, heldEnd := false, d2dRetx := 0, d2dRetxBpd := 0, resoleAlso := false, actAt := none }
    tnk := { temp := s.tnk.temp, rails := s.tnk.rails }
    sys := { pfwLow := s.sys.pfwLow, wear := s.sys.wear, first := s.sys.first, firstAlso := s.sys.firstAlso, cut := nvmCut s }
    lines := ((List.range 96).filter fun n => (s.line n).pad).map fun n => (n, { pad := true })
    fry := { mreq := s.fry.mreq }
    otp := s.otp
    act := s.act
    pending := s.pending
    fresh := s.fresh
    out := s.out }

/-- What is done before the hub domain enters reset (R23, R345, R350): branches off, the FLT pair in fault, the first
fault kept for the Start Log. -/
def beforeReset (s : State) (c : Nat) : State :=
  let s1 := if [rFatal, rWdog, rLbist, rFull].contains c ∧ !s.rst.d2dBpdLost then hardOff s else s
  let s2 := if [rFatal, rWdog, rLbist].contains c then
      wrs { s1 with sys := { s1.sys with first := rdW s1 TNK_FIRST_SRC.addr,
                                         firstAlso := (List.range 4).map fun k => rd s1 (TNK_FIRST_ALSO_ALSO k) } }
        (if s1.tnk.driven then [(TNK_FLT_STATE, 1), (TNK_FLT_PIN_T, 1), (TNK_FLT_PIN_C, 0)] else [(TNK_FLT_STATE, 1)])
    else { s1 with sys := { s1.sys with first := 0, firstAlso := [] } }
  s2

/-- A hub-domain cause that outranks the decider so far takes over: held outputs go to their safe values, queues are
flushed, branches are commanded off, channel and CAN pins are released, the FLT pair goes to fault (R27, R239, R345). -/
def takeOver (s : State) : State :=
  let u := if s.tnk.driven then wrs s [(TNK_FLT_STATE, 1), (TNK_FLT_PIN_T, 1), (TNK_FLT_PIN_C, 0)] else s
  let t := hardOff { u with rst := { u.rst with hold := false, holdToP3 := false }, tnk := { u.tnk with drvReset := true }
                            chns := [], cans := [] }
  each (List.range 16) (fun u n => u.setBrn n { u.brn n with frozen := none }) (each (List.range 96) (lineAfter · false ·) t)

/-- A shutdown that a FATAL overtakes: LBIST is an "also" cause, and no verdict is written (R353). -/
def shutLost (s : State) (c : Nat) : State :=
  if c = rLbist ∨ s.sys.shut = .none then s
  else { s with sys := { s.sys with shut := .none, shutEnd := false }, rst := { s.rst with heldEnd := false } }

/-- FT lies within the 40 ms of a Resole activation (R27, R380). -/
def inActivation (s : State) : Bool := match s.rst.actAt with
  | some t => decide (ftNs s < t + 40000000)
  | none => false

/-- Causes recorded beside a first one: LBIST of a shutdown that a FATAL overtakes (R353), RESOLE of an activation within
whose 40 ms the FATAL arose (R27). -/
def alsoCauses (s : State) (c : Nat) : BitVec 8 :=
  if c ≠ rFatal then 0
  else BitVec.ofNat 8 ((if s.sys.shut = .quiesce then 2 ^ rLbist else 0) + if s.rst.resoleAlso then 2 ^ rResole else 0)

/-- A reset is ordered (R20 to R23, R27, R353, R421). -/
def orderReset (s : State) (c : Nat) : State :=
  let also := alsoCauses s c
  let s := shutLost s c
  if !s.rst.busy then
    let t := beforeReset s c
    let u := if ringCause c then clearAll t else clearHub t (c == rResole)
    let u := { u with rst := { u.rst with busy := true, full := ringCause c } }
    wr (recordCauses u (also ||| BitVec.ofNat 8 (2 ^ c))) SYS_STATE_STATE stStart
  else
    let m := s.rst.causes ||| BitVec.ofNat 8 (2 ^ c)
    if ringCause c then
      let u := clearAll (beforeReset s c)
      wr (recordCauses { u with rst := { u.rst with busy := true, full := true } } m) SYS_STATE_STATE stStart
    else
      let u := if decider m ≠ decider s.rst.causes ∧ !s.rst.full ∧ s.rst.hold then takeOver s else s
      recordCauses u m

/-- The hub domain is released and ST01 begins (R27, R421). -/
def releaseReset (s : State) : State :=
  if s.rst.busy then
    wr { s with
        clk := { s.clk with cyc := 0 }
        rst := { s.rst with busy := false, fromFull := s.rst.full, full := false, heldEnd := false, causes := 0 }
        sys := { s.sys with shut := .none } } SYS_STEP_STEP 1
  else s

end Sys2Proof.Machine
end

