-- ==== Sys2Proof/Machine/TnkOps.lean ====
section
/-! DEFINITION. Raising a fault source: severities, escalation, the log, the first fault, the FLT pair and the hub's
reaction (R328 to R340, R343, R346). Every block raises through these operations. -/

namespace Sys2Proof.Machine

/-! ## Sources (R330) -/

/-- Default severity and floor of each source that is not reserved (R330): NOTE 0 to FATAL 4. -/
def sourceTable : List (Nat × Nat × Nat) :=
  [(1, 3, 3), (2, 3, 2), (3, 2, 0), (8, 1, 0), (9, 1, 0), (10, 1, 0), (11, 1, 0), (12, 1, 0), (13, 0, 0), (16, 0, 0),
   (17, 1, 0), (18, 2, 0), (24, 1, 0), (25, 0, 0), (32, 1, 0), (33, 1, 0), (40, 3, 0), (48, 0, 0), (49, 0, 0),
   (50, 1, 0), (56, 1, 0), (57, 0, 0), (64, 1, 0), (72, 1, 0), (73, 0, 0), (80, 2, 0), (84, 1, 0)] ++
  (List.range 16).map (fun n => (88 + n, 1, 0)) ++
  [(104, 2, 0), (106, 0, 0), (112, 1, 0), (114, 1, 0), (116, 0, 0), (117, 2, 0), (120, 4, 4), (121, 4, 0)]

/-- The row of a source; none for a reserved one. -/
def sourceRow (src : Nat) : Option (Nat × Nat) := (sourceTable.find? fun r => r.1 == src).map (·.2)

/-- The configured severity of a source: SEV from ST08 on, its default before; no lower than the floor, 5 to 7 act as 4
(R329, R350). -/
def sevOf (s : State) (src : Nat) : Nat :=
  match sourceRow src with
  | none => 0
  | some (dflt, floor) => if s.sys.loaded then min 4 (max floor (rd s (TNK_SEV_SEV src))) else max floor dflt

/-- How the causes of raises of one source in one cycle combine (R328): masks by OR, otherwise the event of the lowest
instance number, which the given low bits hold, or the event seen last. -/
inductive CauseKind | mask | lowest (bits : Nat) | last
  deriving DecidableEq, Repr

/-- The kind of a source's cause word (R330). -/
def causeKind (src : Nat) : CauseKind :=
  if [1, 2, 3, 8, 9, 10, 11, 12, 13, 16, 17, 72, 73, 104, 114, 120, 121].contains src ∨ (88 ≤ src ∧ src < 104) then .mask
  else if src = 64 then .lowest 6
  else if src = 80 then .lowest 7
  else if src = 48 then .lowest 5
  else if src = 49 then .lowest 10
  else if src = 50 then .lowest 6
  else if src = 84 then .lowest 1
  else .last

/-- Two cause words of one source in one cycle as one. -/
def causeJoin (src a b : Nat) : Nat :=
  match causeKind src with
  | .mask => if src = 2 then (a ||| b) % 256 + max (a / 256) (b / 256) * 256 else a ||| b
  | .lowest w => if b % 2 ^ w < a % 2 ^ w then b else a
  | .last => b

/-- The raises of one cycle with those of one source joined, in the order of their first occurrence; reserved sources
are never raised (R328). -/
def joinRaises : List (Nat × Nat) → List (Nat × Nat) → List (Nat × Nat)
  | acc, [] => acc
  | acc, (src, c) :: l =>
    if (sourceRow src).isNone then joinRaises acc l
    else if acc.any (·.1 == src) then joinRaises (acc.map fun p => if p.1 == src then (src, causeJoin src p.2 c) else p) l
    else joinRaises (acc ++ [(src, c % 2 ^ 32)]) l

/-! ## Status and acknowledgement -/

/-- The status of a source is set. -/
def stat (s : State) (src : Nat) : Bool := rdBit s (TNK_STAT_STAT (src / 32)) (src % 32)
/-- The source is acknowledged. -/
def ack (s : State) (src : Nat) : Bool := rdBit s (TNK_ACK_ACK (src / 32)) (src % 32)
/-- A status bit written. -/
def setStat (s : State) (src : Nat) (b : Bool) : State := wrBit s (TNK_STAT_STAT (src / 32)) (src % 32) b
/-- An acknowledgement bit written. -/
def setAck (s : State) (src : Nat) (b : Bool) : State := wrBit s (TNK_ACK_ACK (src / 32)) (src % 32) b

/-- The group of a source is unacknowledged (R332). -/
def groupUnack (s : State) (g : Nat) : Bool := (List.range 8).any fun k => stat s (8 * g + k) && !ack s (8 * g + k)

/-- Effective severity of the last new raise of a source. -/
def lastEff (s : State) (src : Nat) : Nat := tget (fun _ => 0) s.tnk.eff src

/-- A new raise: source, cause, configured and effective severity. -/
structure NewRaise where
  src : Nat
  cause : Nat
  cfg : Nat
  eff : Nat
  deriving DecidableEq, Repr

/-- The effective severity of a new raise (R333), judged on the state before the cycle. -/
def effective (s : State) (src : Nat) : Nat :=
  let c := sevOf s src
  if groupUnack s (src / 8) ∧ c ≠ 0 then min 4 (c + 1) else c

/-- The raise is a repeat: status set, not acknowledged (R331). -/
def isRepeat (s : State) (src : Nat) : Bool := stat s src && !ack s src

/-- The new raises of a cycle, in the order of R338: decreasing effective severity, then ascending source. -/
def newRaises (s : State) (cleared : List Nat) (l : List (Nat × Nat)) : List NewRaise :=
  let n := (l.filter fun p => !isRepeat s p.1 || cleared.contains p.1).map fun p => (⟨p.1, p.2, sevOf s p.1, effective s p.1⟩ : NewRaise)
  [4, 3, 2, 1, 0].flatMap fun e => (List.range 128).flatMap fun k => n.filter fun r => r.eff == e && r.src == k

/-- A repeat: REPEAT and the cause word (R331). -/
def doRepeat (s : State) (p : Nat × Nat) : State :=
  wr (incSat s (TNK_SEV_REPEAT p.1)) (TNK_CAUSE_CAUSE p.1) p.2

/-- The status, acknowledgement, cause and effective severity of a new raise (R331, R332). -/
def doNew (s : State) (r : NewRaise) : State :=
  let t := wr (setAck (setStat s r.src true) r.src (r.cfg == 0)) (TNK_CAUSE_CAUSE r.src) r.cause
  { t with tnk := { t.tnk with eff := tput (fun _ => 0) t.tnk.eff r.src r.eff } }

/-- A log entry (R338). -/
def logRaise (multi : Bool) (s : State) (r : NewRaise) : State :=
  let i := rd s TNK_LOG_PTR_NEXT
  wrs s [(TNK_LOG0_SRC i, r.src), (TNK_LOG0_SEV_CFG i, r.cfg), (TNK_LOG0_SEV_EFF i, r.eff),
    (TNK_LOG0_ESC i, natOf (r.eff != r.cfg)), (TNK_LOG0_MULTI i, natOf multi), (TNK_LOG_T_NS i, ftNs s),
    (TNK_LOG3_CAUSE i, r.cause), (TNK_LOG_PTR_NEXT, i + 1), (TNK_LOG_PTR_TOTAL, rd s TNK_LOG_PTR_TOTAL + 1)]

/-- FF_MIN: WARN before ST08 (R350). -/
def ffMin (s : State) : Nat := if s.sys.loaded then rd s TNK_CTRL_FF_MIN else 1

/-- FLT_THR: 0 acts as HALT; HALT before ST08 (R350). -/
def fltThr (s : State) : Nat :=
  if s.sys.loaded then (if rd s TNK_CTRL_FLT_THR = 0 then 3 else rd s TNK_CTRL_FLT_THR) else 3

/-- The first-fault record is filled by the first qualifying raise of the cycle (R340). -/
def firstFault (s : State) (l : List NewRaise) : State :=
  if flag s TNK_FIRST_VALID then s
  else match l.find? fun r => decide (ffMin s ≤ r.eff) with
    | none => s
    | some r =>
      let t := wrs s [(TNK_FIRST_SRC, r.src), (TNK_FIRST_SEV_CFG, r.cfg), (TNK_FIRST_SEV_EFF, r.eff),
        (TNK_FIRST_ESC, natOf (r.eff != r.cfg)), (TNK_FIRST_VALID, 1), (TNK_FIRST_T_NS, ftNs s), (TNK_EVT_FIRST, 1)]
      (l.filter fun x => x.src != r.src).foldl (fun u x => wrBit u (TNK_FIRST_ALSO_ALSO (x.src / 32)) (x.src % 32) true) t

/-- The levels of the FLT pins follow the state of the pair where they are driven (R342, R345). -/
def fltPins (s : State) : State :=
  if s.tnk.driven then wrs s [(TNK_FLT_PIN_T, rd s TNK_FLT_STATE), (TNK_FLT_PIN_C, 1 - rd s TNK_FLT_STATE)] else s

/-- MINW starts in this cycle (R343, R345). -/
def minwStart (s : State) : State :=
  wr { s with tnk := { s.tnk with minwFrom := ftNs s } } TNK_STATE_MINW_DONE 0

/-- FT in ns at which MINW has elapsed: 0 acts as 20 ms, and 20 ms before ST08 (R343, R350). -/
def minwEnd (s : State) : Nat :=
  s.tnk.minwFrom + 1000000 * (if !s.sys.loaded ∨ rd s TNK_CTRL_MINW = 0 then 20 else rd s TNK_CTRL_MINW)

/-- MINW has elapsed where its time has come. -/
def minwSettle (s : State) : State :=
  if flag s TNK_FLT_STATE ∧ minwEnd s ≤ ftNs s then wr s TNK_STATE_MINW_DONE 1 else s

/-- The FLT pair goes to, or stays in, fault, and MINW starts afresh (R343). -/
def fltRaise (s : State) (l : List NewRaise) : State :=
  let q := l.filter fun r => decide (fltThr s ≤ r.eff)
  if q.isEmpty then s
  else
    let t := { s with tnk := { s.tnk with drivers := q.foldl (fun m r => m ||| 2 ^ r.src) s.tnk.drivers } }
    fltPins (minwStart (wr t TNK_FLT_STATE 1))

/-- The payload of a fault event (R339). -/
def faultPayload (s : State) (r : NewRaise) : List Byte :=
  [0x03, BitVec.ofNat 8 r.src, BitVec.ofNat 8 (r.eff + r.cfg * 16 + natOf (r.eff != r.cfg) * 128), 0] ++
  beBytes 8 (ftNs s) ++ beBytes 4 r.cause

/-- What firmware is told of a new raise (R335, R339). -/
def tellFirmware (s : State) (r : NewRaise) : State :=
  let t := if 1 ≤ r.eff then (wr s TNK_EVT_RAISE 1).emit (.faultIrq r.src) else s
  if rd s TNK_HOST_HUB ≠ 0 ∧ rd s TNK_HOST_MIN ≤ r.eff ∧ s.sys.loaded then
    t.emit (.faultEvent (rd s TNK_HOST_HUB) (rd s TNK_HOST_DPORT) (faultPayload s r))
  else t

/-- The Stocktake half a dump goes to: half 0 where both are ready (R347). -/
def dumpHalf (s : State) : Option Nat :=
  if rdBit s TNK_DUMP_STAT_READY 0 then some 0 else if rdBit s TNK_DUMP_STAT_READY 1 then some 1 else none

/-- A FATAL raise: the dump begins, or the reset follows directly (R27, R335, R336, R346, R347). -/
def fatal (s : State) (src cause : Nat) : State :=
  let s := { s with rst := { s.rst with resoleAlso := s.rst.resoleAlso || inActivation s } }
  if hubState s = stDump then s
  else if !s.sys.st05 ∨ !flag s TNK_CTRL_DUMP_EN ∨ (dumpHalf s).isNone then orderReset s rFatal
  else
    let t := enterStill s stDump
    { t with tnk := { t.tnk with dump :=
      (some ⟨src, ftNs s, dumpHalf s, src == 120 && cause % 4 == 3⟩ : Option Dump) } }

/-- The hub's reaction to the highest effective severity of a cycle (R335, R336). In HALTED a HALT takes back a RESUME that
waits for its boundary (DESIGN CHOICE, log entry 122). -/
def react (s : State) (l : List NewRaise) : State :=
  match l with
  | [] => s
  | r :: _ =>
    let st := hubState s
    if r.eff = 4 then fatal s r.src r.cause
    else if r.eff = 3 then
      if st = stStart ∨ st = stJoining then { s with tnk := { s.tnk with pendHalt := true } }
      else if running s then enterStill s stHalted
      else { s with tnk := { s.tnk with resume := none } }
    else if r.eff = 2 then
      if st = stStart ∨ st = stJoining then { s with tnk := { s.tnk with pendDeg := true } }
      else if st = stRun then wr s SYS_STATE_STATE stDegraded
      else s
    else s

/-- All raises of one CLK_PER cycle (R328 to R343), with the sources whose status an accepted clear takes in that cycle:
their raises are new (R341). In a reset only a FATAL source counts, as a reset cause (R27). -/
def raiseFresh (s : State) (cleared : List Nat) (l : List (Nat × Nat)) : State :=
  let j := joinRaises [] l
  if s.rst.busy then (if j.any fun p => p.1 == 120 then orderReset s rFatal else s)
  else
    let n := newRaises s cleared j
    let s1 := (j.filter fun p => isRepeat s p.1 && !cleared.contains p.1).foldl doRepeat s
    let s2 := n.foldl doNew s1
    let s3 := n.foldl (logRaise (decide (1 < n.length))) s2
    let s4 := firstFault s3 n
    let s5 := n.foldl tellFirmware s4
    react (fltRaise s5 n) n

/-- All raises of one CLK_PER cycle. -/
def raiseAll (s : State) (l : List (Nat × Nat)) : State := raiseFresh s [] l

/-- One source raised. -/
def raise (s : State) (src cause : Nat) : State := raiseAll s [(src, cause)]

/-- A source raised at most once in each tick (R109, R180, R235). -/
def raiseOnce (s : State) (src cause : Nat) : State :=
  if s.trd.raised.contains src then s
  else raise { s with trd := { s.trd with raised := src :: s.trd.raised } } src cause

end Sys2Proof.Machine
end

