-- ==== Sys2Proof/Machine/MapOps.lean ====
section
/-! DEFINITION. Words of the register map: which register holds a word, the bits of its fields by access type, and what
ST08 and SCHED_LOAD may write of a word (R5, R6, R13, R33, R89, R94, R138, R386 to R390). -/

namespace Sys2Proof.Machine

/-- The register that holds the word at a local address, the address of its cell, and 32 where the word is the high one
of a 64-bit register (R5). -/
def wordAt (a : Nat) : Option (RegSpec × Nat × Nat) :=
  (regSpec a).map fun r =>
    if r.wide && (a % 0x10000 - r.off) % r.s1 % r.s2 == 4 then (r, a - 4, 32) else (r, a, 0)

/-- The bits of a register word whose fields pass a test. -/
def accMask (r : RegSpec) (half : Nat) (p : Acc → Bool) : Nat :=
  bits (r.flds.foldl (fun m f => if p f.acc then m ||| (2 ^ f.w - 1) * 2 ^ f.lo else m) 0) half 32

/-- A number with the bits under a mask taken from another: the RMW of R315. -/
def rmwWord (old mask data : Nat) : Nat := (old &&& (0xFFFF_FFFF ^^^ mask)) ||| (data &&& mask)

/-- A word of a cell. -/
def cellWord (s : State) (cell half : Nat) : Nat := cellGet (cellAt s cell) half 32

/-- Bits of a word of a cell written. -/
def setCellWord (s : State) (cell half mask v : Nat) : State :=
  setCell s cell (cellSet (cellAt s cell) half 32 (rmwWord (cellWord s cell half) mask (v % 2 ^ 32)))

/-- The configuration fields of the memory words that the Last loads: Ledger status words, publish descriptors, and
whole words of the bitmap, the slot map, rule memory and poll memory (R94, R95, R104, R161, R228); none for others. -/
def tableMask (a : Nat) : Option Nat :=
  if 0x500E_0000 ≤ a ∧ a < 0x500E_E000 then some 0xF800_0700
  else if 0x500E_E000 ≤ a ∧ a < 0x500E_E800 then (if a % 8 = 0 then some 0x019F_FFFF else some 0)
  else if (0x5010_0000 ≤ a ∧ a < 0x5012_0000) ∨ (0x5020_0000 ≤ a ∧ a < 0x5024_0000) ∨
    (0x5040_0000 ≤ a ∧ a < 0x5042_0000) ∨ (pollBase ≤ a ∧ a < pollBase + 0x4_0000) then some 0xFFFF_FFFF
  else none

/-- Scratch words and the output image of the Treadle, which ST08 loads beside the RWL fields (R161). -/
def treadleTable (a : Nat) : Bool :=
  (decide (0x4005_4000 ≤ a) && decide (a < 0x4005_8000)) || (decide (0x4005_C000 ≤ a) && decide (a < 0x4005_C400))

/-- A word of a layout bank (R69). -/
def isLayout (a : Nat) : Bool := decide (layoutBase ≤ a) && decide (a < keyBase)

/-- A ring-domain word as it is in force: RATE_A and RATE_B of WELT_CTRL are the rates the rings run at (R33). -/
def inForce (s : State) (cell half : Nat) : Nat :=
  if cell = WELT_CTRL_RATE_A.addr then rmwWord (cellWord s cell half) 3 s.trn.slow else cellWord s cell half

/-- A word that the Last holds is loaded. A ring-domain register is written only after a full reset, and compared
otherwise (R33, R89, R138): the result is false where it differs. -/
def loadWord (s : State) (a v : Nat) : State × Bool :=
  match tableMask a with
  | some m => (memPutWord s a (rmwWord (memWord s a) m v), true)
  | none =>
    if treadleTable a then (wrW s a v, true)
    else if (TNK_SEV_SEV 0).addr ≤ a ∧ a < (TNK_SEV_SEV 128).addr ∧ (sourceRow ((a - (TNK_SEV_SEV 0).addr) / 4)).isNone then
      (s, true)
    else match wordAt a with
      | none => (s, true)
      | some (r, cell, half) =>
        if r.dom != .ring || s.rst.fromFull then (setCellWord s cell half (accMask r half fun x => x == .rw || x == .rwl) v, true)
        else
          let m := accMask r half (· == .rwl)
          (s, (inForce s cell half &&& m) == (v &&& m))

/-- The words of the tables but the layout banks are loaded in order; the result is false where a word differs from a
ring-domain field that stays. -/
def loadTable (s : State) (l : List (Nat × Nat)) : State × Bool :=
  l.foldl (fun t p => if isLayout p.1 then t else
    let u := loadWord t.1 p.1 p.2
    (u.1, t.2 && u.2)) (s, true)

/-- The layout words of the Last are loaded into a bank. -/
def loadLayout (s : State) (bank : Nat) (l : List (Nat × Nat)) : State :=
  (l.filter fun p => isLayout p.1).foldl
    (fun t p => memPutWord t (layoutBase + 4 * (bank * 12544 + (p.1 - layoutBase) / 4 % 12544)) p.2) s

end Sys2Proof.Machine
end

