-- ==== Sys2Proof/Machine/BellOps.lean ====
section
/-! DEFINITION. Capture units, trigger units, steps of fabric time, and the servo of the Bellman
(R117, R118, R123 to R131). -/

namespace Sys2Proof.Machine

/-- STATE of BELL_STATUS (R124). -/
def lFree : Nat := 0
def lAcquire : Nat := 1
def lLocked : Nat := 2
def lHoldover : Nat := 3
def lOrigin : Nat := 4

/-- State of the Bellman. -/
def bellState (s : State) : Nat := rd s BELL_STATUS_STATE

/-- The stamp of the present cycle. -/
def stampNow (s : State) (rise : Bool) : Stamp := ⟨ftNs s, ftFrac s, rise⟩

/-! ## Capture units (R127) -/

/-- The FIFO of a capture unit. -/
def caps (s : State) (n : Nat) : List Stamp := tget (fun _ => []) s.bell.caps n
def setCaps (s : State) (n : Nat) (l : List Stamp) : State :=
  { s with bell := { s.bell with caps := tput (fun _ => []) s.bell.caps n l } }

/-- An edge is pushed into a capture FIFO of four entries, or dropped. -/
def capPush (s : State) (n : Nat) (e : Stamp) : State :=
  if (caps s n).length < 4 then
    let t := setCaps s n (caps s n ++ [e])
    { t with bell := { t.bell with capSeen := n :: t.bell.capSeen.erase n } }
  else
    let m := (s.clk.ft.toNat, e, rd s (BELL_CAP_STAT_OVF n), rd s BELL_EVT_CAP_OVF)
    wrs { s with bell := { s.bell with capMiss := tput (fun _ => none) s.bell.capMiss n (some m) } }
      [(BELL_CAP_STAT_OVF n, 1), (BELL_EVT_CAP_OVF, 1)]

/-- The head of a capture FIFO is popped. In the cycle in which an edge found the FIFO full the pop comes first, and the
edge is kept (R127). -/
def capPop (s : State) (n : Nat) : State :=
  let t := setCaps s n ((caps s n).drop 1)
  match tget (fun _ => none) s.bell.capMiss n with
  | some (ft, e, ovf, evt) =>
    if ft = s.clk.ft.toNat then
      wrs { setCaps t n (caps t n ++ [e]) with bell := { (setCaps t n (caps t n ++ [e])).bell with
        capMiss := tput (fun _ => none) s.bell.capMiss n none } } [(BELL_CAP_STAT_OVF n, ovf), (BELL_EVT_CAP_OVF, evt)]
    else t
  | none => t

/-- EDGE of a unit takes an edge; lead frames are taken by any value but 0. -/
def capTakes (edge src : Nat) (rise : Bool) : Bool :=
  if 97 ≤ src then edge != 0 else match edge with
    | 1 => rise
    | 2 => !rise
    | 3 => true
    | _ => false

/-- An edge of a source reaches every unit that selects it. -/
def capEdge (s : State) (src : Nat) (e : Stamp) : State :=
  each (those 32 fun n => rd s (BELL_CAP_CTRL_SRC n) == src && capTakes (rd s (BELL_CAP_CTRL_EDGE n)) src e.rise)
    (fun t n => capPush t n e) s

/-! ## Trigger units (R128 to R131) -/

/-- The action of a code of ACTION; the reserved ones act as event only. -/
def actOfCode : Nat → LineAct
  | 1 => .set
  | 2 => .clear
  | 3 => .toggle
  | 4 => .pulse
  | 5 => .start
  | _ => .none

/-- LATE of an armed trigger, as decided in its first cycle. -/
def setLate (s : State) (n : Nat) (b : Bool) : State :=
  let l := s.bell.late.filter (· != n)
  { s with bell := { s.bell with late := if b then n :: l else l } }

/-- The pulses under way after trigger n has fired on a target: a PULSE schedules its end WIDTH cycles later, 0 acting as 1
(R129). -/
def pulseAfter (s : State) (n tgt : Nat) (a : LineAct) : List (Nat × Option (Nat × Nat)) :=
  if a = .pulse then tput (fun _ => none) s.bell.pulses n (some (tgt, s.clk.cyc + max 1 (rd s (BELL_TRG_CTRL_WIDTH n))))
  else s.bell.pulses

/-- An armed trigger fires (R129): a periodic one re-arms for T + PERIOD. The report to the owner is FIRED itself, and for
the Drover that the trigger holds its fire no longer (log entry 120: R129 gives the report no other form). -/
def trgFire (s : State) (n : Nat) : State :=
  if !flag s (BELL_TRG_CTRL_ARMED n) then s
  else
    let late := s.bell.late.contains n
    let a := actOfCode (rd s (BELL_TRG_CTRL_ACTION n))
    let tgt := rd s (BELL_TRG_CTRL_TARGET n)
    let s1 := wrs s [(BELL_TRG_CTRL_ARMED n, 0), (BELL_TRG_CTRL_FIRED n, 1), (BELL_TRG_CTRL_LATE n, natOf late)]
    let s2 := targetAct (if late then wr s1 BELL_EVT_TRG_LATE 1 else s1) (1 + n) tgt a
    let s3 := { s2 with
      bell := { s2.bell with pulses := pulseAfter s2 n tgt a }
      drv := { s2.drv with fires := s2.drv.fires.filter (·.trg != n) } }
    let per := rd s (BELL_TRG_PER_PERIOD n)
    if per = 0 then setLate s3 n false
    else
      let t := (rd s (BELL_TRG_T_T n) + per) % 2 ^ 40
      setLate (wrs s3 [(BELL_TRG_T_T n, t), (BELL_TRG_CTRL_ARMED n, 1)]) n (past40 t (ftNs (advance s 1)))

/-- An armed trigger whose target is due in this cycle fires (R129). -/
def trgDue (s : State) (n : Nat) : State :=
  if flag s (BELL_TRG_CTRL_ARMED n) && due40 (rd s (BELL_TRG_T_T n)) (ftNs s) then trgFire s n else s

/-- A trigger is armed: an old target due in this cycle fires first (R129); LATE is decided at the first cycle of
evaluation, and a new target due then fires (R128). -/
def trgArm (s : State) (n t : Nat) : State :=
  let s := trgDue s n
  let now := ftNs (advance s 1)
  let s1 := setLate (wrs s [(BELL_TRG_T_T n, t), (BELL_TRG_CTRL_ARMED n, 1)]) n (past40 t now)
  if due40 t now then trgFire s1 n else s1

/-- A trigger is armed by an owner; from anyone else the arm is ignored (R131). -/
def trgArmBy (s : State) (owner n t : Nat) : State :=
  if n < 32 ∧ rd s (BELL_TRG_CTRL_OWNER n) = owner then trgArm s n t else s

/-! ## Steps (R118, R125, R130, R143, R271) -/

/-- An armed trigger is evaluated afresh after a step (R130). -/
def trgJudge (s : State) (n : Nat) : State :=
  if !flag s (BELL_TRG_CTRL_ARMED n) then s
  else
    let t := rd s (BELL_TRG_T_T n)
    let s1 := setLate s n (past40 t (ftNs s))
    if due40 t (ftNs s) then trgFire s1 n else s1

/-- The Treadle across a step (R143), from the states before and after it: the last boundary a forward step carried FT
past. -/
def stepTrd (s t : State) : Trd :=
  let T := rd s TRD_TICK_NS_NS
  if tickNow s < tickNow t then
    { t.trd with skipTo := some (if boundaryNs t T (tickNow t) * 2 ^ 48 = t.clk.ft.toNat then tickNow t - 1 else tickNow t) }
  else t.trd

/-- The last boundary at which something aged, across a step: the boundaries that a forward step carries FT past add
nothing (R100, R256). -/
def stepAged (s t : State) (last : Option Int) : Option Int :=
  let T := rd s TRD_TICK_NS_NS
  let k := if boundaryNs t T (tickNow t) * 2 ^ 48 = t.clk.ft.toNat then tickNow t - 1 else tickNow t
  if tickNow s < tickNow t then last.map fun n => max n k else last

/-- The instants of a line across a step: what they measure is an interval (R259, R268, R269, R271; log entry 121). -/
def lineShift (u : Int) (l : Line) : Line :=
  { l with
    run := l.run.map (· + u)
    perAt := l.perAt.map (· + u)
    pulseEnd := l.pulseEnd.map fun e => (((e : Int) * 2 ^ 48 + u) / 2 ^ 48).toNat }

/-- FT is stepped by a number of units of 2^-48 ns: samples taken before it are no longer valid, the instants an interval
is measured from move with it, waiting queue entries and triggers are judged afresh. -/
def bellStep (s : State) (u : Int) : State :=
  let s1 := stepFt s u
  let s2 := wr { s1 with bell := { s1.bell with samples := [], lastExt := s1.bell.lastExt.map (· + u) }
                         ppsRise := s1.ppsRise + u
                         lines := s1.lines.map fun x => (x.1, lineShift u x.2)
                         trd := stepTrd s s1
                         rxmLast := stepAged s s1 s1.rxmLast
                         ldg := { s1.ldg with last := stepAged s s1 s1.ldg.last } } BELL_EVT_STEP 1
  let s3 := match s.trd.last with
    | some n => if tickNow s1 < min n (tickNow s) then wr s2 TRD_EVT_STEP_WAIT 1 else s2
    | none => s2
  each (List.range 32) trgJudge (each (List.range 96) queueJudge s3)

/-! ## The servo (R123) -/

/-- STEP_THR in ns: 0 acts as 1,000. -/
def stepThr (s : State) : Nat := if rd s BELL_CTRL_STEP_THR = 0 then 1000 else rd s BELL_CTRL_STEP_THR

/-- One nanosecond in the units of samples. -/
def nsSample : Nat := 2 ^ 17

/-- The limit of FREQ: ±200 ppm (R114). -/
def freqLimit : Int := 219902326

/-- FREQ takes a value, limited (R114). -/
def setFreq (s : State) (f : Int) : State :=
  if f > freqLimit then wr (wrI s BELL_FREQ_FREQ freqLimit) BELL_EVT_CLAMP 1
  else if f < -freqLimit then wr (wrI s BELL_FREQ_FREQ (-freqLimit)) BELL_EVT_CLAMP 1
  else wrI s BELL_FREQ_FREQ f

/-- The integrator takes a fraction, in lowest terms. -/
def setInteg (s : State) (num : Int) (den : Nat) : State :=
  let g := Nat.gcd num.natAbs den
  { s with bell := { s.bell with num := num / (max g 1 : Nat), den := den / max g 1 } }

/-- One servo sample x, taken over an interval of T ns (R123). -/
def servo (s : State) (x : Int) (tNs : Nat) : State :=
  if tNs = 0 then s
  else
    let yd := nsSample * tNs
    let ki := 2 ^ rd s BELL_CTRL_KI_SH
    let kp := 2 ^ rd s BELL_CTRL_KP_SH
    let s1 := setInteg s (s.bell.num * (yd * ki : Nat) + x * s.bell.den) (s.bell.den * (yd * ki))
    let fn := s1.bell.num * (yd * kp : Nat) + x * s1.bell.den
    setFreq s1 (roundDiv (-(fn * 2 ^ 40)) (s1.bell.den * (yd * kp)))

/-- FREQ = −I: HOLDOVER, and PPS_IN missing (R123, R133). -/
def servoHold (s : State) : State := setFreq s (roundDiv (-(s.bell.num * 2 ^ 40)) s.bell.den)

/-- Entry to ACQUIRE: the output stays continuous (R123). -/
def toAcquire (s : State) : State :=
  let t := setInteg (wr s BELL_STATUS_STATE lAcquire) (-(rdI s BELL_FREQ_FREQ)) (2 ^ 40)
  { t with bell := { t.bell with good := 0, bad := 0, big := 0 } }

/-- LOCK_Q and HOLDOVER_Q take values; PPS_OUT falls when it is no longer qualified (R124, R132). -/
def setQ (s : State) (lock hold : Bool) : State :=
  wrs s [(BELL_PPS_CTRL_LOCK_Q, natOf lock), (BELL_PPS_CTRL_HOLDOVER_Q, natOf hold)]

/-- PPS_OUT may be driven (R132). -/
def ppsOk (s : State) : Bool :=
  flag s BELL_PPS_CTRL_EN &&
  ((flag s BELL_PPS_CTRL_LOCK_Q && !flag s BELL_PPS_CTRL_HOLDOVER_Q) ||
   (flag s BELL_PPS_CTRL_HOLDOVER_Q && flag s BELL_PPS_CTRL_HOLD))

/-- What follows a change of the Bellman's state: PPS_OUT is held low where it is not qualified (R132), and the TIME
reason clears at LOCKED, or at ORIGIN with EXT_LOCKED or SRC of 0 or 3 (R354). -/
def bellSettle (s : State) : State :=
  let t := if ppsOk s then s else { s with ppsOut := false }
  if bellState t = lLocked ∨
     (bellState t = lOrigin ∧ (flag t BELL_STATUS_EXT_LOCKED ∨ rd t BELL_CTRL_SRC = 0 ∨ rd t BELL_CTRL_SRC = 3)) then
    wrBit t SYS_DEG_REASON 1 false
  else t

/-- Lock is lost: UNLOCK and BELL_UNLOCK (R124). -/
def unlock (s : State) : State := raise (wr s BELL_EVT_UNLOCK 1) 32 (bellState s)

/-- The hub is the sync origin (R117). -/
def isOrigin (s : State) : Bool :=
  flag s TRN_STATUS_LAUNCH_A || (flag s TRN_STATUS_LAUNCH_B && decide (2 ≤ s.bell.noA)) ||
  (rd s SYS_STEP_STEP == 10 && rd s TRN_HEADS_PRIMARY != 0 && rd s TRN_HEADS_PRIMARY == rd s SYS_HUB_ID_ID &&
    decide (2 ≤ s.bell.noLead))

/-- The Bellman becomes, or ceases to be, the origin from ST10 on (R117, R124). A hub that ceases to be the origin keeps
EXT_LOCKED and the counts behind it (DESIGN CHOICE, log entry 120: the spec does not say that they clear). -/
def originSettle (s : State) : State :=
  if rd s SYS_STEP_STEP < 10 ∨ s.rst.busy then s
  else if isOrigin s ∧ bellState s ≠ lOrigin then bellSettle (setQ (wr s BELL_STATUS_STATE lOrigin) true false)
  else if !isOrigin s ∧ bellState s = lOrigin then
    bellSettle (setQ (toAcquire s) false (flag s BELL_PPS_CTRL_HOLDOVER_Q))
  else s

/-- The servo restarts at the start of ST10 (R21, R138): capture FIFOs empty, triggers disarmed. -/
def bellRestart (s : State) : State :=
  let s0 := each (List.range 32) (fun t n => wr t (BELL_TRG_CTRL_ARMED n) 0)
    { s with bell := { lastLap := s.bell.lastLap, noA := s.bell.noA } }
  let s1 := if s.rst.fromFull then wr s0 BELL_STATUS_STATE lFree else toAcquire s0
  if isOrigin s1 then bellSettle (setQ (wr s1 BELL_STATUS_STATE lOrigin) true false) else s1

/-- A number saturated to the signed range of w bits. -/
def satS (w : Nat) (i : Int) : Int := min (max i (-(2 : Int) ^ (w - 1))) (2 ^ (w - 1) - 1)

/-- The cause word of BELL_STEP: ns, signed, saturated to 32 bits (R330). -/
def stepCause (ns : Int) : Nat := wrapTo 32 (satS 32 ns)

end Sys2Proof.Machine
end

