-- ==== Sys2Proof/Machine/LdgOps.lean ====
section
/-! DEFINITION. The Ledger: formats and their local order, the slot map and the bitmap, copy selection and commit,
quality and ageing, publish buffers (R60, R70 to R73, R91 to R112). -/

namespace Sys2Proof.Machine

/-! ## Formats (R60, R91, R92) -/

/-- Bytes of a point; 0 where the format has no whole-byte points. -/
def pointBytes : Nat → Nat
  | 1 => 2
  | 2 => 4
  | 3 => 8
  | 4 => 8
  | _ => 0

/-- A payload with every run of n bytes reversed. -/
def swapRuns (n : Nat) (bs : List Byte) : List Byte :=
  if n = 0 then bs else (List.range (bs.length / n)).flatMap fun k => (slice bs (k * n) n).reverse

/-- A payload converted between wire order and local order. -/
def localOrder (fmt : Nat) (bs : List Byte) : List Byte := swapRuns (pointBytes fmt) bs

/-! ## Tables (R93 to R95) -/

def payloadAddr (e : Nat) : Nat := 0x5000_0000 + 64 * e
def statusAddr (e : Nat) : Nat := 0x500E_0000 + 4 * e
def bufAddr (i n : Nat) : Nat := 0x500F_0000 + 128 * i + 64 * n
def slotMapAddr (sl : Nat) : Nat := 0x5020_0000 + 4 * sl

/-- The status word of an entry. -/
def stWord (s : State) (e : Nat) : Nat := memWord s (statusAddr e)

/-- The status word of an entry written. -/
def setStWord (s : State) (e v : Nat) : State := memPutWord s (statusAddr e) v

/-- The slot map entry of a slot. -/
def slotMap (s : State) (sl : Nat) : Nat := memWord s (slotMapAddr sl)

/-- BASE × 8: the first point of a slot. -/
def slotBase (s : State) (sl : Nat) : Nat := bits (slotMap s sl) 0 17 * 8

/-- Points of a slot by format (R91). -/
def pointCount : Nat → Nat
  | 0 => 512
  | 1 => 32
  | 2 => 16
  | 3 => 8
  | 4 => 8
  | _ => 0

/-- A slot disabled by an uncorrectable error of its tables (R111): its bitmap words by its first point and count. -/
def slotOff (s : State) (sl fmt : Nat) : Bool :=
  s.ldg.offSlots.contains sl ||
  (decide (0 < pointCount fmt) && s.ldg.offWords.any fun w =>
    decide (64 * w < slotBase s sl + pointCount fmt) && decide (slotBase s sl < 64 * w + 64))

/-- The layout bank of the active schedule, and of a version the hub knows. -/
def activeBank (s : State) : Nat := rd s TRN_SCHED_BANK
def bankOf (s : State) (ver : Nat) : Option Nat :=
  if ver = rd s TRN_SCHED_ACT_VER then some (activeBank s)
  else if flag s TRN_SCHED_PEND_VALID ∧ ver = rd s TRN_SCHED_PEND_VER then some (1 - activeBank s)
  else none

/-- The hub takes part in the schedule of a bank (R385). -/
def bankReady (s : State) (bank : Nat) : Bool :=
  if bank = activeBank s then !s.trn.unready else flag s RSL_STATUS_PEND_READY

/-- An entry is kept under the schedule of a bank. -/
def keptUnder (s : State) (e bank : Nat) : Bool := bitOf (stWord s e) (27 + bank)

/-- The entry in which the hub keeps a slot under the schedule of a bank (R96). -/
def keptEntry (s : State) (sl bank : Nat) : Option Nat :=
  let m := slotMap s sl
  let e := bits m 17 14
  if bitOf m 31 ∧ !slotOff s sl (bits (stWord s e) 8 3) ∧ keptUnder s e bank ∧ bankReady s bank then some e else none

/-! ## Quality (R101, R112) -/

/-- The encodings of QUAL. -/
def qFresh : Nat := 0
def qAged : Nat := 1
def qStale : Nat := 2
def qHalted : Nat := 3
def qHold : Nat := 4

/-- QUAL of an entry in its status word. -/
def qualOf (s : State) (e : Nat) : Nat := bits (stWord s e) 24 3

/-- MAXAGE of an age class: 0 acts as 1. -/
def maxAge (s : State) (c : Nat) : Nat := max 1 (rd s (LDG_MAXAGE_MAXAGE c))

/-- QUAL of a status word (R101). -/
def evalQual (s : State) (w : Nat) : Nat :=
  let age := bits w 14 10
  if !bitOf w 11 then qStale
  else if bitOf w 13 ∧ age ≤ rd s LDG_CTRL_HOLD_LIMIT then qHold
  else if maxAge s (bits w 29 3) < age then qStale
  else if bitOf w 12 then qHalted
  else if 1 ≤ age then qAged
  else qFresh

/-- The status word with QUAL evaluated. -/
def withQual (s : State) (w : Nat) : Nat := setBits w 24 3 (evalQual s w)

/-- The change of an entry's status word from w to w' turns it STALE under R112. -/
def turnsStale (s : State) (w w' : Nat) : Bool :=
  bits w 24 3 != qStale && bits w' 24 3 == qStale && bitOf w' (27 + activeBank s) && flag s (LDG_MAXAGE_FLT (bits w' 29 3))

/-- The slots mapped to an entry, in ascending order. -/
def slotsOf (s : State) (e : Nat) : List Nat :=
  ((s.mem.filter fun c => decide (0x5020_0000 ≤ c.1) && decide (c.1 < 0x5024_0000) && c.1 % 4 == 3 && c.2.getLsbD 7).map
    fun c => (c.1 - 0x5020_0000) / 4).filter fun sl => bits (slotMap s sl) 17 14 == e

/-- LDG_STALE of an entry (R112). SLOT_ID is the lowest of several slots mapped to the entry, and keeps its value where
none is (DESIGN CHOICE, log entry 120: the spec does not say). -/
def raiseStale (s : State) (e : Nat) : State :=
  let t := wrs s [(LDG_EVT_STALE, 1), (LDG_LAST_STALE_ENTRY, e),
    (LDG_LAST_STALE_SLOT_ID, ((slotsOf s e).head?).getD (rd s LDG_LAST_STALE_SLOT_ID))]
  raise t 24 (rdW t LDG_LAST_STALE_ENTRY.addr)

/-- An entry's status word replaced, with QUAL evaluated, and LDG_STALE where it turns STALE. -/
def updateEntry (s : State) (e w : Nat) : State :=
  let w' := withQual s w
  let t := setStWord s e w'
  if turnsStale s (stWord s e) w' then raiseStale t e else t

/-- Entries kept under the active schedule that are STALE (STALE_N). -/
def keptListed (s : State) : List Nat :=
  (s.mem.filter fun c => decide (0x500E_0000 ≤ c.1) && decide (c.1 < 0x500E_E000) && c.1 % 4 == 3 &&
    c.2.getLsbD (3 + activeBank s)).map fun c => (c.1 - 0x500E_0000) / 4
def staleN (s : State) : Nat := ((keptListed s).filter fun e => qualOf s e == qStale).length

/-! ## Ageing (R100) -/

/-- The entries with HELD = 1, in ascending order. -/
def heldEntries (s : State) : List Nat :=
  (s.mem.filter fun c => decide (0x500E_0000 ≤ c.1) && decide (c.1 < 0x500E_E000) && c.1 % 4 == 1 && c.2.getLsbD 3).map
    fun c => (c.1 - 0x500E_0000) / 4

/-- The tick in which the Ledger stands: that of FT, and after a backward step the last boundary taken (R100). -/
def ledgerTick (s : State) : Int := match s.ldg.last with
  | none => tickNow s
  | some n => max n (tickNow s)

/-- A copy was accepted for the entry since the last boundary taken. -/
def tookCopy (s : State) (e : Nat) : Bool := s.ldg.accepted.any (·.1 == e)

/-- The status word of an entry as a boundary leaves it. -/
def agedWord (s : State) (e : Nat) : Nat :=
  let w := stWord s e
  withQual s (setBits w 14 10 (if tookCopy s e then 0 else min 1023 (bits w 14 10 + 1)))

/-- Every held entry ages; LDG_STALE is raised once, with the lowest entry that turned (R100, R112). A copy that has
been accepted in the new tick already stays counted there. -/
def ageAll (s : State) : State :=
  let l := heldEntries s
  let turned := l.filter fun e => turnsStale s (stWord s e) (agedWord s e)
  let t := each l (fun u e => setStWord u e (agedWord s e)) s
  let t := { t with ldg := { t.ldg with accepted := t.ldg.accepted.filter fun x => decide (ledgerTick s ≤ x.2) } }
  match turned with
  | [] => t
  | e :: _ => raiseStale t e

/-! ## Slot copies (R60, R71, R72, R96, R97, R109, R110) -/

/-- The 72 bytes of a slot as fields. -/
def slotId (c : List Byte) : Nat := beNat (slice c 0 2)
def slotStamp (c : List Byte) : Nat := beNat (slice c 2 1)
def slotFlags (c : List Byte) : Nat := beNat (slice c 3 1)
def slotData (c : List Byte) : List Byte := slice c 4 64
def slotOk (c : List Byte) : Bool := beNat (slice c 68 4) == crc32c (c.take 68)

/-- A slot with a fresh SCRC. -/
def slotMake (body : List Byte) : List Byte := body.take 68 ++ beBytes 4 (crc32c (body.take 68))

/-- The rank of a FLAGS byte (R72). -/
def rank (flags : Nat) : Nat := if bitOf flags 6 then 2 else if bitOf flags 5 then 1 else 0

/-- What copy selection does with a copy that has passed its checks. -/
inductive Pick | reject | flags | whole
  deriving DecidableEq, Repr

/-- A stamp is current in tick tau (R71). -/
def current (tau x : Nat) : Bool := (tau + 256 - x % 256) % 256 ≤ 63

/-- The newer-stamp rule (R71, R72): held stamp and flags, the copy's stamp and flags. -/
def pick (tau : Nat) (held : Option (Nat × Nat)) (stamp flags : Nat) : Pick :=
  match held with
  | none => if current tau stamp then .whole else .reject
  | some (hs, hf) =>
    if stamp = hs then (if rank hf < rank flags then .flags else .reject)
    else if !current tau stamp then .reject
    else if !current tau hs then .whole
    else if 1 ≤ (stamp + 256 - hs) % 256 ∧ (stamp + 256 - hs) % 256 ≤ 127 then .whole
    else .reject

/-- The tick being run: the last one taken while the Treadle runs ticks, and the current one otherwise (R71, R143). -/
def tickRun (s : State) : Int :=
  match s.trd.last with
  | some n => if running s && flag s TRD_CTRL_EN then n else tickNow s
  | none => tickNow s

/-- τ: its number modulo 256 (R71, R105). -/
def tau (s : State) : Nat := (tickRun s % 256).toNat

/-- The held copy of an entry: its stamp and the rank bits of its flags. -/
def heldCopy (w : Nat) : Option (Nat × Nat) :=
  if bitOf w 11 then some (bits w 0 8, bits w 12 1 * 64 + bits w 13 1 * 32) else none

/-- A byte of the payload as the bitmap lets it through: its offset, the old byte, the new one (R97). -/
def throughBitmap (s : State) (fmt base k : Nat) (old new : Byte) : Byte :=
  if fmt = 5 then new
  else if fmt = 0 then
    let m := memGet s (0x5010_0000 + base / 8 + k)
    (old &&& ~~~m) ||| (new &&& m)
  else
    let p := base + k / pointBytes fmt
    if (memGet s (0x5010_0000 + p / 8)).getLsbD (p % 8) then new else old

/-- A copy's payload is written into an entry (R97). -/
def writePayload (s : State) (sl e fmt : Nat) (bs : List Byte) : State :=
  let l := localOrder fmt bs
  let base := slotBase s sl
  let old := memBytes s (payloadAddr e) 64
  memPuts s (payloadAddr e)
    ((List.range 64).map fun k => throughBitmap s fmt base k (old.getD k 0) (l.getD k 0))

/-- An entry whose boundary FT has reached ages before a copy is committed to it in the new tick (R100). -/
def ageFirst (s : State) (e : Nat) : State :=
  let due := match s.ldg.last with
    | none => false
    | some n => decide (n < tickNow s)
  if due && bitOf (stWord s e) 11 && !s.ldg.accepted.any (fun x => x.1 == e && decide (ledgerTick s ≤ x.2)) then
    updateEntry s e (agedWord s e)
  else s

/-- The train whose copy the entry took in this very cycle, where it is a higher one than t and of the same stamp: by
R99 the copy of t comes before it. -/
def tieOver (s : State) (t e stamp : Nat) : Option Nat :=
  match s.ldg.tie.find? (·.1 == e) with
  | some (_, ft, t') =>
    if ft = s.clk.ft.toNat ∧ t < t' ∧ bitOf (stWord s e) 11 ∧ bits (stWord s e) 0 8 = stamp then some t' else none
  | none => none

/-- The flags of the status word taken from a copy's FLAGS. -/
def withFlags (w fl : Nat) : Nat := setBits (setBits w 12 1 (bits fl 6 1)) 13 1 (bits fl 5 1)

/-- A copy of train t takes the place of one of train t' that the entry took in the same cycle: the lower train ID wins
the tie, and the other copy counts for its flags alone (R72, R99). -/
def swapCopy (s : State) (t t' e : Nat) (c : List Byte) : State :=
  let w := stWord s e
  let fl := slotFlags c
  let s1 := writePayload s (slotId c) e (fl % 16) (slotData c)
  let s2 := if rank (bits w 12 1 * 64 + bits w 13 1 * 32) < rank fl then updateEntry s1 e (withFlags w fl) else s1
  let s3 := incWrap (wr s2 (LDG_ACCEPT_CNT_COUNT t') (rd s2 (LDG_ACCEPT_CNT_COUNT t') + 2 ^ 32 - 1)) (LDG_ACCEPT_CNT_COUNT t)
  { s3 with ldg := { s3.ldg with tie := (e, s.clk.ft.toNat, t) :: s3.ldg.tie.filter (·.1 != e) } }

/-- One examined copy of a frame of train t is committed (R71, R72, R97, R99). -/
def commitCopy (s : State) (t e : Nat) (c : List Byte) : State :=
  let s := ageFirst s e
  let w := stWord s e
  let fl := slotFlags c
  if !bitOf fl 7 then s
  else if fl % 16 ≠ bits w 8 3 ∨ 6 ≤ fl % 16 then wr (incSat s LDG_FMT_CNT_COUNT) LDG_EVT_FMT 1
  else match tieOver s t e (slotStamp c) with
  | some t' => swapCopy s t t' e c
  | none => match pick (tau s) (heldCopy w) (slotStamp c) fl with
    | .reject => s
    | .flags => updateEntry s e (withFlags w fl)
    | .whole =>
      let s1 := writePayload s (slotId c) e (fl % 16) (slotData c)
      let w1 := setBits (setBits (setBits w 0 8 (slotStamp c)) 11 3 (1 + bits fl 6 1 * 2 + bits fl 5 1 * 4)) 14 10 0
      let s2 := updateEntry s1 e w1
      incWrap { s2 with ldg := { s2.ldg with
        accepted := (e, ledgerTick s) :: s2.ldg.accepted.filter (·.1 != e)
        tie := (e, s.clk.ft.toNat, t) :: s2.ldg.tie.filter (·.1 != e) } } (LDG_ACCEPT_CNT_COUNT t)

/-- An examined copy whose SCRC fails is counted, and LDG_COPY_CRC raised once in a tick (R109). -/
def countCrc (s : State) (t : Nat) : State :=
  let n := (if s.ldg.crcTick = ledgerTick s then s.ldg.crcFails else 0) + 1
  let s1 := incSat { s with ldg := { s.ldg with crcFails := n, crcTick := ledgerTick s } } (LDG_CRC_CNT_COUNT t)
  let thr := rd s LDG_CTRL_CRC_THR
  if thr ≠ 0 ∧ n = thr then raise (wr s1 LDG_EVT_COPY_CRC 1) 25 (min n 65535) else s1

/-- The enabled index that publishes a slot under the schedule of a bank. -/
def pubIndex (s : State) (sl bank : Nat) : Option Nat :=
  (List.range 256).find? fun i =>
    let d := pubDesc s i
    bits d 0 16 == sl && bitOf d 20 && bitOf d (23 + bank)

/-- The slot is the hub's own under the schedule of a bank: by its descriptors where ST08 has loaded them, and as the
ring domain last read them otherwise. -/
def isOwn (s : State) (sl bank : Nat) : Bool :=
  if s.rst.busy || !s.sys.loaded then s.trn.own.contains (sl, bank) else (pubIndex s sl bank).isSome

/-- One slot copy of a good frame of train t under the schedule of a bank; a hub keeps no copy of its own slots
(R71, R96, R98). -/
def takeCopy (s : State) (t bank : Nat) (c : List Byte) : State :=
  if !flag s LDG_STATUS_ARMED ∨ s.rst.busy ∨ isOwn s (slotId c) bank then s
  else match keptEntry s (slotId c) bank with
    | none => s
    | some e => if slotOk c then commitCopy s t e c else countCrc s t

/-! ## Publishing (R104 to R108) -/

/-- The front buffer of an index, and its back buffer. -/
def frontBuf (s : State) (i : Nat) : Nat := bufAddr i (bits (pubDesc s i) 21 1)
def backBuf (s : State) (i : Nat) : Nat := bufAddr i (1 - bits (pubDesc s i) 21 1)

/-- An index switches at P3 (R105). -/
def pubSwitch (s : State) (i : Nat) : State :=
  let d := pubDesc s i
  if !bitOf d 20 then s
  else
    let f := 1 - bits d 21 1
    let s1 := memPutWord s (descAddr i) (setBits d 21 2 (f + 2))
    let s2 := memPut s1 (descAddr i + 4) (BitVec.ofNat 8 (tau s))
    memPuts s2 (bufAddr i (1 - f)) (memBytes s2 (bufAddr i f) 64)

/-- Every enabled index switches, in ascending order (R105). -/
def pubSwitchAll (s : State) : State := each (List.range 256) pubSwitch s

/-- What the through-path writes into the hub's own slots (R22, R24, R90, R108, R380). -/
inductive Mark | none | whole | halted | hold
  deriving DecidableEq, Repr

/-- The mark of the hub's own slots. -/
def ownMark (s : State) : Mark :=
  if s.rst.hold || s.rst.holdToP3 then .hold
  else if s.rst.busy then (if s.rst.full then .none else .halted)
  else if flag s WELT_CTRL_BYPASS_REQ then .halted
  else if running s && s.trd.p3 then .whole
  else if s.rst.fromFull && (hubState s == stStart || hubState s == stJoining) && decide (rd s SYS_STEP_STEP < 11) then .none
  else .halted

/-- A slot with HALTED or HOLD set in its flags, and no other change (R24, R60, R108). -/
def markSlot (c : List Byte) (halted : Bool) : List Byte :=
  let f := slotFlags c % 32 + bits (slotFlags c) 7 1 * 128 + (if halted then 64 else 32)
  slotMake (patch c 3 [BitVec.ofNat 8 f])

/-- An own slot built from the front buffer (R70, R105, R108). -/
def ownSlot (s : State) (i : Nat) : List Byte :=
  let d := pubDesc s i
  let fmt := bits d 16 3
  slotMake (beBytes 2 (bits d 0 16) ++ [memGet s (descAddr i + 4), BitVec.ofNat 8 (128 + fmt)] ++
    localOrder fmt (memBytes s (frontBuf s i) 64))

/-- A slot as the through-path sends it on under the schedule of a bank (R70, R90, R108). -/
def passSlot (s : State) (bank : Nat) (c : List Byte) : List Byte :=
  let sl := slotId c
  if !isOwn s sl bank || (!s.rst.busy && !bankReady s bank) then c
  else match ownMark s with
    | .none => c
    | .halted => markSlot c true
    | .hold => markSlot c false
    | .whole => match pubIndex s sl bank with
      | none => c
      | some i => if bitOf (pubDesc s i) 22 then ownSlot s i else markSlot c true

/-! ## The back-buffer alias (R106) -/

/-- An index is one that an enabled hand-off out channel of the Drover names. -/
def droverIndex (s : State) (i : Nat) : Bool :=
  (List.range 4).any fun c => flag s (DRV_HO_OUT_EN c) && rd s (DRV_HO_OUT_PIDX c) == i

/-- Writers of a back buffer through the alias. -/
inductive AliasWriter | treadle | software
  deriving DecidableEq, Repr

/-- The writer may write an index (R106). -/
def aliasOk (s : State) (w : AliasWriter) (i : Nat) : Bool :=
  match w with
  | .treadle => !bitOf (pubDesc s i) 19 && !droverIndex s i
  | .software => bitOf (pubDesc s i) 19

/-- Bytes written to the alias at an offset of an index's back buffer, or refused and counted (R106). -/
def aliasWrite (s : State) (w : AliasWriter) (i off : Nat) (bs : List Byte) : State :=
  if aliasOk s w i then memPuts s (backBuf s i + off) bs
  else wr (incSat s LDG_PUB_REJ_COUNT) LDG_EVT_PUB_REJ 1

end Sys2Proof.Machine
end

