-- ==== Sys2Proof/Machine/TrnOps.lean ====
section
/-! DEFINITION. The circulating trains: ports and windows, frames, the merge image, launches, judging, versions
(R56 to R90, R119 to R121). -/

namespace Sys2Proof.Machine

/-! ## Ports (R31, R36, R43, R46) -/

/-- STATE of a ring port (R36). -/
def pDisabled : Nat := 0
def pDown : Nat := 1
def pSync : Nat := 2
def pTrial : Nat := 3
def pUp : Nat := 4

def portState (s : State) (p : Nat) : Nat := rd s (WELT_PORT_STAT_STATE p)
def isUp (s : State) (p : Nat) : Bool := portState s p == pUp

/-- The other port of the same ring. -/
def facing (p : Nat) : Nat := if p % 2 = 0 then p + 1 else p - 1

/-- The port a train that enters at port p leaves by: the facing one, or p itself where that one is a wrap point. -/
def egressOf (s : State) (p : Nat) : Nat := if isUp s (facing p) then facing p else p

/-- The trains that the UP ports carry: those whose entry port is UP (R85, R87; log entry 119). -/
def carried (s : State) (t : Nat) : Bool := isUp s (facing t)

/-- ns for one byte on a ring, times 10, at the rate in force (R33). -/
def byteTenths (s : State) (r : Nat) : Nat := if bitOf s.trn.slow r then 32 else 8

/-- The through-path delay of a ring in CLK_CORE cycles (R65). -/
def throughCycles (s : State) (r : Nat) : Nat := if byteTenths s r = 32 then 320 else 96

/-! ## Accessors -/

def State.train (s : State) (t : Nat) : Train := tget (fun _ => {}) s.trn.trains t
def State.setTrain (s : State) (t : Nat) (x : Train) : State :=
  { s with trn := { s.trn with trains := tput (fun _ => {}) s.trn.trains t x } }
def State.ring (s : State) (r : Nat) : Ring := tget (fun _ => {}) s.trn.rings r
def State.setRing (s : State) (r : Nat) (x : Ring) : State :=
  { s with trn := { s.trn with rings := tput (fun _ => {}) s.trn.rings r x } }

/-! ## Laps (R62, R78, R80) -/

/-- A port starts the next lap: a window measured in the last one comes into use (R78). A train that crosses the
boundary goes on being observed. -/
def portLap (s : State) (p : Nat) : State :=
  let x := s.port p
  let t := s.setPort p { x with next := none }
  match x.next with
  | none => t
  | some (a, b) => wrBit (wrs t [(TRN_TRK_START_NS p, a), (TRN_TRK_END_NS p, b)]) TRN_STATUS_TRACK p true

/-- The ring domain enters the lap FT has reached. -/
def lapSync (s : State) : State :=
  if tLap s = 0 ∨ lapNow s = s.trn.lap then s
  else
    each (List.range 4) portLap { s with trn := { s.trn with
      lap := lapNow s, trains := [], good := false, judge := flag s TRN_STATUS_JOINED } }

/-- The current lap modulo 2^24. -/
def lapMod (s : State) : Nat := (lapNow s % 2 ^ 24).toNat

/-! ## Windows (R75 to R78) -/

/-- The train window of a port: tracked while TRACK is set, programmed otherwise. -/
def trainWindow (s : State) (p : Nat) : Nat × Nat :=
  if rdBit s TRN_STATUS_TRACK p then (rd s (TRN_TRK_START_NS p), rd s (TRN_TRK_END_NS p))
  else (rd s (TRN_WIN_START_NS p), rd s (TRN_WIN_END_NS p))

/-- The programmed train window of a port for frames of a schedule version (R85). -/
def progWindow (s : State) (p ver : Nat) : Nat × Nat :=
  match tget (fun _ => none) s.trn.pendWin p with
  | some w => if flag s TRN_SCHED_PEND_VALID ∧ ver = rd s TRN_SCHED_PEND_VER then w else (rd s (TRN_WIN_START_NS p), rd s (TRN_WIN_END_NS p))
  | none => (rd s (TRN_WIN_START_NS p), rd s (TRN_WIN_END_NS p))

/-- The train window of a port for frames of a schedule version. -/
def verWindow (s : State) (p ver : Nat) : Nat × Nat :=
  if rdBit s TRN_STATUS_TRACK p then (rd s (TRN_TRK_START_NS p), rd s (TRN_TRK_END_NS p)) else progWindow s p ver

/-- The pending windows come into use with their schedule (R85). -/
def useWindows (s : State) : State :=
  let t := s.trn.pendWin.foldl (fun t x => match x.2 with
    | some (a, b) => wrs t [(TRN_WIN_START_NS x.1, a), (TRN_WIN_END_NS x.1, b)]
    | none => t) s
  { t with trn := { t.trn with pendWin := [] } }

/-- A position in the lap lies in a window, half-open; an end below the start runs across the lap boundary (R75). -/
def inWindow (w : Nat × Nat) (x : Nat) : Bool :=
  if w.1 ≤ w.2 then decide (w.1 ≤ x) && decide (x < w.2) else decide (w.1 ≤ x) || decide (x < w.2)

/-- ns from a position in the lap to the start of the next train window (R76). -/
def toWindow (s : State) (p x : Nat) : Nat :=
  let a := (trainWindow s p).1
  if x ≤ a then a - x else tLap s - x + a

/-- Tenths of ns that a message frame of n bytes takes with its gap of 20 bytes, at the rate of a port's ring. -/
def wireTenths (s : State) (p n : Nat) : Nat := (n + 20) * byteTenths s (p / 2)

/-- A message frame of n bytes may start on a port now (R76). -/
def mayStart (s : State) (p n : Nat) : Bool :=
  !inWindow (trainWindow s p) (lapPos s) && decide (wireTenths s p n + 1000 ≤ 10 * toWindow s p (lapPos s))

/-- A slip of train t on port p is counted once in a run of the train (R77; log entry 119). -/
def slip (s : State) (p t : Nat) : State :=
  let x := s.port p
  if x.slips.contains t then s
  else
    let s1 := incSat (orF (s.setPort p { x with slips := t :: x.slips }) TRN_EVT_SLIP (2 ^ p)) (TRN_SLIP_CNT_COUNT p)
    raise s1 16 (2 ^ p)

/-- The train's last frame has left port p: its observed position makes the next tracked window after a slip, and the
laps inside the programmed window are counted (R78). Both ends are FT in tenths of ns, the second exclusive. -/
def observe (s : State) (p ver a b : Nat) : State :=
  let x := s.port p
  let pos (tenths d : Int) : Nat := ((tenths / 10 + d - rd s BELL_EPOCH_OFS_NS) % (tLap s : Int)).toNat
  let prog := progWindow s p ver
  let ins := inWindow prog (pos a 0) && inWindow prog (pos ((b : Int) - 1) 0)
  s.setPort p { x with
    inside := if ins then x.inside + 1 else 0
    next := if x.slips.isEmpty then x.next else some (pos a (-2000), pos ((b : Int) + 9) 2000) }

/-! ## What a ring port is sending (R44, R76, R77) -/

/-- FT in ns until which a ring port sends a message or link-local frame, or a train. -/
def ringBusy (s : State) (p : Nat) : Nat := max (s.port p).sendTo (s.port p).trainTo

/-- A ring port may start a message or link-local frame of n bytes now: it sends nothing; on an UP port inside its free
window, in TRIAL at any time (R50, R76). -/
def ringMay (s : State) (p n : Nat) : Bool :=
  decide (ringBusy s p ≤ ftNs s) &&
  (portState s p == pTrial || (isUp s p && (tLap s == 0 || mayStart s p n)))

/-- A ring port starts a message or link-local frame of n bytes. -/
def ringStart (s : State) (p n : Nat) : State :=
  s.setPort p { s.port p with sendTo := ftNs s + (wireTenths s p n + 9) / 10 }

/-- A train of so many tenths of ns leaves a ring port now. -/
def trainSends (s : State) (p tenths : Nat) : State :=
  s.setPort p { s.port p with trainTo := ftNs s + (tenths + 9) / 10 }

/-- FT in ns at which the next free window of a port opens (R75, R76). -/
def nextFree (s : State) (p : Nat) : Nat :=
  let d := ((trainWindow s p).2 + tLap s - lapPos s % tLap s) % tLap s
  ftNs s + if d = 0 then tLap s else d

/-! ## Frame fields (R58, R59, R61) -/

def fTrain (f : List Byte) : Nat := bits (beNat (slice f 0 1)) 2 2
def fLead (f : List Byte) : Bool := bitOf (beNat (slice f 0 1)) 1
def fFinal (f : List Byte) : Bool := bitOf (beNat (slice f 0 1)) 0
def fVer (f : List Byte) : Nat := beNat (slice f 1 1)
def fLap (f : List Byte) : Nat := beNat (slice f 2 3)
def fSlots (f : List Byte) : Nat := beNat (slice f 7 1)
def fHead (f : List Byte) : Nat := beNat (slice f 10 2)
def fNo (f : List Byte) : Nat := beNat (slice f 12 2)
def fHand (f : List Byte) : Nat := beNat (slice f 14 2)
def fOrigin (f : List Byte) : Nat := beNat (slice f 16 10)
def fCorr (f : List Byte) : Int := signed 64 (beNat (slice f 28 8))
def fHoLap (f : List Byte) : Nat := beNat (slice f 36 3)

/-- Bytes before the slots. -/
def fHeadLen (f : List Byte) : Nat := if fLead f then 40 else 16

/-- The slots of a frame, 72 bytes each. -/
def fCopies (f : List Byte) : List (List Byte) := (List.range (fSlots f)).map fun k => slice f (fHeadLen f + 72 * k) 72

/-- The arriving TCRC is right. -/
def fGood (f : List Byte) : Bool :=
  decide (fHeadLen f + 72 * fSlots f + 4 = f.length) && beNat (f.drop (f.length - 4)) == fcs32 (f.take (fHeadLen f))

/-- TYPE and SLOTS are within R58. -/
def fShape (f : List Byte) : Bool :=
  bits (beNat (slice f 0 1)) 4 4 == 10 && decide (fSlots f ≤ 31) && (fLead f || decide (1 ≤ fSlots f))

/-- The header is valid: the bank of its version (R70). -/
def fBank (s : State) (f : List Byte) : Option Nat := if fShape f then bankOf s (fVer f) else none

/-! ## The head's merge image and layout (R56, R67, R69, R88) -/

/-- The stretch memory is powered (R19). -/
def stretchOn (s : State) : Bool :=
  rd s TRN_CTRL_ROLE == 1 || rd s TRN_CTRL_ROLE == 2 || flag s TRN_STATUS_LAUNCH_A || flag s TRN_STATUS_LAUNCH_B ||
  flag s TRN_STATUS_STANDBY

/-- A word of a layout bank. -/
def layoutAddr (bank w : Nat) : Nat := layoutBase + (bank * 12544 + w) * 4
def layoutWord (s : State) (bank w : Nat) : Nat := memWord s (layoutAddr bank w)

/-- The slot IDs of a bank in layout order. -/
def layoutSlots (s : State) (bank : Nat) : List Nat :=
  (List.range (min 24576 (bits (layoutWord s bank 0) 0 16))).map fun i =>
    bits (layoutWord s bank (8 + i / 2)) (16 * (i % 2)) 16

/-- The slot IDs in the order train t carries them (R56). -/
def trainSlots (s : State) (bank t : Nat) : List Nat :=
  let l := layoutSlots s bank
  let r := bits (layoutWord s bank (1 + t)) 0 15
  l.drop r ++ l.take r

/-- An entry of the merge image before any copy is merged: VALID = 0, the rest as the memory powered up (R19, R88). -/
def emptyEntry (sl : Nat) : List Byte :=
  let b (k : Nat) : Byte := Config.stretchInit (0x1_2000_0000 + 72 * sl + k)
  slotMake (beBytes 2 sl ++ [b 2, b 3 &&& 0x7F] ++ (List.range 64).map fun k => b (4 + k))

/-- The entry of a slot. -/
def mergeEntry (s : State) (sl : Nat) : List Byte := tget emptyEntry s.trn.merge sl

/-- A copy is merged under copy selection against its entry (R67, R71). A copy of which R72 takes the flags alone
leaves the entry's payload, and the entry gets a fresh SCRC (DESIGN CHOICE, log entry 119: R67 says whole, R72 flags). -/
def mergeCopy (s : State) (c : List Byte) : State :=
  let sl := slotId c
  let fl := slotFlags c
  let e := mergeEntry s sl
  let heldOk := bitOf (slotFlags e) 7
  if !slotOk c ∨ !bitOf fl 7 ∨ 6 ≤ fl % 16 ∨ (heldOk ∧ slotFlags e % 16 ≠ fl % 16) then s
  else
    let put (x : List Byte) : State := { s with trn := { s.trn with merge := tput emptyEntry s.trn.merge sl x } }
    match pick (ringTick s % 256).toNat (if heldOk then some (slotStamp e, slotFlags e) else none) (slotStamp c) fl with
    | .reject => s
    | .flags => put (slotMake (patch e 3 [BitVec.ofNat 8 fl]))
    | .whole => put c

/-- The hub keeps a merge image: it launches or stands by (R67, R68). -/
def merges (s : State) : Bool := flag s TRN_STATUS_LAUNCH_A || flag s TRN_STATUS_LAUNCH_B || flag s TRN_STATUS_STANDBY

/-- The hub launches a ring. -/
def launches (s : State) (r : Nat) : Bool := if r = 0 then flag s TRN_STATUS_LAUNCH_A else flag s TRN_STATUS_LAUNCH_B

/-- LAUNCH of a ring written. -/
def setLaunch (s : State) (r : Nat) (b : Bool) : State := wrB s (if r = 0 then TRN_STATUS_LAUNCH_A else TRN_STATUS_LAUNCH_B) b

/-! ## Launching (R57 to R59, R66, R81, R83, R119) -/

/-- The version and bank under which the head builds its frames (R85). -/
def launchVer (s : State) : Nat × Nat :=
  if s.trn.launchPend ∧ flag s TRN_SCHED_PEND_VALID then (rd s TRN_SCHED_PEND_VER, 1 - activeBank s)
  else (rd s TRN_SCHED_ACT_VER, activeBank s)

/-- Laps from the current lap to L_H, modulo 2^24 (R83). -/
def lapsAhead (s : State) : Nat := (rd s TRN_ROLE_LAP_LAP + 2 ^ 24 - lapMod s) % 2 ^ 24

/-- A handover is in progress on a ring: GO is set, the ring is named, and L_H lies ahead (R83). -/
def handing (s : State) (r : Nat) : Bool :=
  flag s TRN_ROLE_CMD_GO && flag s (if r = 0 then TRN_ROLE_CMD_RING_A else TRN_ROLE_CMD_RING_B) && launches s r &&
  decide (1 ≤ lapsAhead s) && decide (lapsAhead s ≤ 2 ^ 23)

/-- The HANDOVER field of a lead frame launched on a ring. -/
def handField (s : State) (r : Nat) : Nat :=
  if handing s r then 0x8000 + (if (s.ring r).ackSeen then 0x2000 else 0) + rd s TRN_ROLE_CMD_NEW_HEAD else 0

/-- A list in runs of n. -/
def runs {α : Type} (n : Nat) : Nat → List α → List (List α)
  | 0, _ => []
  | k + 1, l => if l.length ≤ n then [l] else l.take n :: runs n k (l.drop n)

/-- Header and sync block of frame no of train t of the current lap; a repair frame carries SEC = 1 (R81). -/
def frameHead (s : State) (repair : Bool) (t no : Nat) (final : Bool) (sl : List Nat) : List Byte :=
  let lead := no == 0
  let k := lapsPerTick s
  let tick := (lapNow s / k % 256).toNat
  let sec := repair || rd s TRN_CTRL_ROLE != 1
  let hand := if lead then handField s (t / 2) else 0
  let orig := (boundaryNs s (tLap s) (lapNow s)).toNat
  beBytes 1 (160 + t * 4 + natOf lead * 2 + natOf final) ++ beBytes 1 (launchVer s).1 ++ beBytes 3 (lapMod s) ++
  beBytes 1 tick ++ beBytes 1 (lapNow s % k).toNat ++ beBytes 1 sl.length ++ beBytes 2 (sl.headD 0) ++
  beBytes 2 (natOf sec * 32768 + rd s SYS_HUB_ID_ID) ++ beBytes 2 no ++ beBytes 2 hand ++
  (if lead then
    beBytes 8 orig ++ beBytes 2 0 ++ beBytes 2 0 ++
    beBytes 8 ((ftNs s * 65536 + ftFrac s) - orig * 65536) ++
    beBytes 3 (if hand = 0 then 0 else rd s TRN_ROLE_LAP_LAP) ++ beBytes 1 0
   else [])

/-- A frame of train t, from the merge image and the publish image. -/
def frameMake (s : State) (repair : Bool) (t no : Nat) (final : Bool) (sl : List Nat) : List Byte :=
  let h := frameHead s repair t no final sl
  h ++ (sl.flatMap fun x => passSlot s (launchVer s).2 (mergeEntry s x)) ++ beBytes 4 (fcs32 h)

/-- The frames of train t from number a on. -/
def trainFrames (s : State) (repair : Bool) (t a : Nat) : List (List Byte) :=
  let rs := runs 31 800 (trainSlots s (launchVer s).2 t)
  ((List.range rs.length).zip rs).filterMap fun p =>
    if a ≤ p.1 then some (frameMake s repair t p.1 (p.1 + 1 == rs.length) p.2) else none

/-- The port train t is launched from: its own transmitting port, the other one where that is a wrap point. -/
def trainPort (s : State) (t : Nat) : Nat := if isUp s t then t else facing t

/-- Frames of train t are sent back to back (R57). -/
def sendTrain (s : State) (t : Nat) (l : List (List Byte)) : State :=
  let p := trainPort s t
  if isUp s p then
    l.foldl (fun u f => u.emit (.trainFrame p f)) (trainSends s p ((l.map fun f => (f.length + 20) * byteTenths s (p / 2)).foldl (· + ·) 0))
  else s

/-- The trains of a ring are launched (R66). -/
def launchRing (s : State) (r : Nat) : State :=
  let s1 := each [2 * r, 2 * r + 1] (fun u t => sendTrain u t (trainFrames s false t 0)) s
  s1.setRing r { s1.ring r with
    launched := some (lapNow s)
    confSent := (s1.ring r).confSent || (handing s r && (s.ring r).ackSeen) }

/-- The hub becomes standby on a ring it launched. -/
def standDown (s : State) (r : Nat) : State :=
  originSettle (wr ((setLaunch s r false).setRing r { quiet := (s.ring r).quiet }) TRN_STATUS_STANDBY 1)

/-- A head that is to yield stops at the lap boundary (R82). -/
def applyYield (s : State) (r : Nat) : State :=
  if (s.ring r).yield ∧ launches s r then wr (standDown s r) TRN_EVT_YIELD 1 else s

/-- The hub launches a ring from the lap after the given one; with both rings launched it stands by for none. -/
def startRing (s : State) (r : Nat) (lap : Int) : State :=
  let t := (setLaunch s r true).setRing r { s.ring r with launched := some lap }
  originSettle (if launches t 0 && launches t 1 then wr t TRN_STATUS_STANDBY 0 else t)

/-- The hub takes over a ring's launching from the next lap boundary (R81, R83). -/
def takeRing (s : State) (r : Nat) : State := wr (startRing s r (lapNow s)) TRN_EVT_TAKEOVER 1

/-! ## Judging (R80) -/

/-- HEADLESS of a ring. -/
def headless (s : State) (r : Nat) : Bool := bits (rd s TRN_STATUS_HEADLESS) (2 * r) 2 != 0

/-- HEADLESS of a ring written. -/
def setHeadless (s : State) (r : Nat) (b : Bool) : State :=
  wr s TRN_STATUS_HEADLESS (setBits (rd s TRN_STATUS_HEADLESS) (2 * r) 2 (if b then 3 else 0))

/-- A ring is judged (R80); a standby takes a headless ring over (R81). -/
def judgeRing (s : State) (r : Nat) : State :=
  let st (t : Nat) := (s.train t).st
  let live (x : TrainSt) : Bool := x == .running || x == .complete
  let dead (x : TrainSt) : Bool := x == .broken || x == .overdue
  let a := 2 * r
  if !flag s TRN_STATUS_JOINED ∨ !(isUp s a || isUp s (a + 1)) ∨ headless s r ∨
     live (st a) ∨ live (st (a + 1)) ∨ !(dead (st a) || dead (st (a + 1))) then s
  else
    let s1 := wr (setHeadless s r true) (if r = 0 then TRN_EVT_HEAD_LOSS_A else TRN_EVT_HEAD_LOSS_B) 1
    let s2 := raise s1 17 (rd s1 TRN_STATUS_HEADLESS)
    if flag s2 TRN_STATUS_STANDBY ∧ !launches s2 r then takeRing s2 r else s2

end Sys2Proof.Machine
end

