-- ==== Sys2Proof/Machine/Presence.lean ====
section
/-! DEFINITION. Whether the cause of a fault source is present, and the return of a DEGRADED hub to RUN
(R330, R337, R354). -/

namespace Sys2Proof.Machine

/-- The wrap points of the hub: every port that is not UP (WRAPPED, R36). -/
def wrapped (s : State) : Nat := maskOf 4 fun p => !isUp s p

/-- TNK_PRESENT: the cause of a source is present (R330). -/
def present (s : State) (src : Nat) : Bool :=
  if src = 1 then s.rst.d2dHubLost
  else if src = 2 then s.tnk.temp != 0
  else if src = 3 then s.tnk.rails != 0
  else if 8 ≤ src ∧ src < 12 then !isUp s (src - 8)
  else if src = 12 then wrapped s != 0
  else if src = 13 then (List.range 4).any fun p => flag s (WELT_PORT_STAT_HIBER p)
  else if src = 17 then rd s TRN_STATUS_HEADLESS != 0
  else if src = 18 then s.trn.missing
  else if src = 24 then (keptListed s).any fun e => flag s (LDG_MAXAGE_FLT (bits (stWord s e) 29 3)) && qualOf s e == qStale
  else if src = 32 then bellState s != lLocked && bellState s != lOrigin
  else if src = 56 then flag s XB_STATUS_OVERLOAD
  else if src = 64 then failN s != 0
  else if src = 72 then (List.range 16).any fun c => canState s c == nBusOff || canState s c == nRecovering
  else if src = 73 then (List.range 16).any fun c => rd s (CAN_STAT_ERR c) != 0
  else if src = 80 then (List.range 3).any fun k => rd s (DIO_RBF_RBF k) != 0
  else if src = 84 then s.adc.calFail != 0
  else if 88 ≤ src ∧ src < 104 then brnState s (src - 88) == bLatchedOff || brnState s (src - 88) == bRetryWait
  else if src = 104 then rd s ASY_STATUS_FAILED != 0
  else if src = 121 then s.tnk.wdog
  else false

/-- A source whose status is set was last newly raised at or above a severity (R337). -/
def standing (s : State) (sev : Nat) : Bool := (List.range 128).any fun k => stat s k && decide (sev ≤ lastEff s k)

/-- A DEGRADED hub returns to RUN at a tick boundary once nothing keeps it there (R337, R354). -/
def degradedReturn (s : State) : State :=
  if hubState s = stDegraded ∧ !standing s 2 ∧ rd s SYS_DEG_REASON = 0 then wr s SYS_STATE_STATE stRun else s

/-- DEGRADED where something keeps the hub there, RUN otherwise (R336, R337, R354). -/
def serviceState (s : State) : Nat := if standing s 2 || rd s SYS_DEG_REASON != 0 then stDegraded else stRun

/-- The PORT reason follows the enabled ring ports from ST14 on (R354). -/
def portReason (s : State) : State :=
  let bad := (List.range 4).any fun p => flag s (WELT_PORT_CTRL_ENABLE p) && !isUp s p
  if !bad then wrBit s SYS_DEG_REASON 0 false
  else if running s then
    let t := wrBit s SYS_DEG_REASON 0 true
    if hubState s = stRun then wr t SYS_STATE_STATE stDegraded else t
  else s

end Sys2Proof.Machine
end

