-- ==== Sys2Proof/Machine/XbOps.lean ====
section
/-! DEFINITION. The switch core: message frames, routes, admission, the crossbar, egress scheduling, the spurs and the
Tap (R15, R134, R135, R182 to R211). -/

namespace Sys2Proof.Machine

/-! ## Message frames (R182 to R184) -/

def mType (f : List Byte) : Nat := beNat (slice f 0 1)
def mTc (f : List Byte) : Nat := bits (beNat (slice f 1 1)) 5 3
def mGroup (f : List Byte) : Bool := bitOf (beNat (slice f 1 1)) 4
def mPath (f : List Byte) : Nat := bits (beNat (slice f 1 1)) 2 2
def mPin (f : List Byte) : Bool := bitOf (beNat (slice f 1 1)) 1
def mLen (f : List Byte) : Nat := beNat (slice f 2 2) % 4096
def mDst (f : List Byte) : Nat := beNat (slice f 4 2) % 4096
def mSrc (f : List Byte) : Nat := beNat (slice f 6 2) % 4096
def mHops (f : List Byte) : Nat := beNat (slice f 8 2)
def mDport (f : List Byte) : Nat := bits (beNat (slice f 10 1)) 4 4
def mSport (f : List Byte) : Nat := beNat (slice f 10 1) % 16
def mFlow (f : List Byte) : Nat := beNat (slice f 12 2)
def mOrigT (f : List Byte) : Nat := beNat (slice f 16 4)
/-- The payload behind the 24-byte header. -/
def mPayload (f : List Byte) : List Byte := slice f 24 (mLen f)

/-- Types of R183 and their fixed class. -/
def tFault : Nat := 0x10
def tLink : Nat := 0x20
def tReq : Nat := 0x30
def tRsp : Nat := 0x31
def tBwr : Nat := 0x32
def tEvent : Nat := 0x40
def tEth : Nat := 0x50
def tUser : Nat := 0x60
def fixedTc : List (Nat × Nat) := [(tFault, 7), (tLink, 6), (tReq, 5), (tRsp, 5), (tBwr, 5), (tEvent, 4)]
def knownType (t : Nat) : Bool := fixedTc.any (·.1 == t) || t == tEth || t == tUser

/-- HCRC is right. -/
def hcrcOk (f : List Byte) : Bool := beNat (slice f 20 4) == crc32c (f.take 20)
/-- FCS is right. -/
def fcsOk (f : List Byte) : Bool := beNat (f.drop (f.length - 4)) == fcs32 (f.take (f.length - 4))

/-- A frame from its first 20 header bytes and its payload, with both check values. -/
def mMake (h payload : List Byte) : List Byte :=
  let x := h.take 20 ++ beBytes 4 (crc32c (h.take 20)) ++ payload
  x ++ beBytes 4 (fcs32 x)

/-- A frame one hop further. -/
def mHop (f : List Byte) : List Byte := mMake (patch (f.take 20) 8 (beBytes 2 (mHops f + 1))) (mPayload f)

/-- Cells a frame of n bytes occupies (R194). -/
def cellsOf (f : List Byte) : Nat := (28 + mLen f + 63) / 64

/-! ## Broken links and routes (R191, R192) -/

/-- Hubs of a ring. -/
def ringN (s : State) (r : Nat) : Nat := if r = 0 then rd s XB_RING_N_N_A else rd s XB_RING_N_N_B

/-- The position of a hub on a ring, where its entry is valid. -/
def position (s : State) (r d : Nat) : Option Nat :=
  let w := if r = 0 then rd s (XB_POSA_W (d / 2)) else rd s (XB_POSB_W (d / 2))
  let h := bits w (16 * (d % 2)) 16
  if bitOf h 15 then some (h % 4096) else none

/-- The link a reporter at a position names by its side: east 0, west 1. -/
def linkAt (s : State) (r pos side : Nat) : Nat :=
  if side = 0 then pos else if ringN s r = 0 then pos else (pos + ringN s r - 1) % ringN s r

/-- The entries of a ring's list. -/
def listOf (r : Nat) : List Nat := (List.range 16).map (16 * r + ·)

def State.link (s : State) (n : Nat) : Link := tget (fun _ => {}) s.xb.links n
def State.setLink (s : State) (n : Nat) (x : Link) : State :=
  { s with xb := { s.xb with links := tput (fun _ => {}) s.xb.links n x } }

/-- The entry that holds a link. -/
def linkEntry (s : State) (r l : Nat) : Option Nat :=
  (listOf r).find? fun n => flag s (XB_FLT_VALID n) && rd s (XB_FLT_LINK n) == l

/-- The list of a ring has overflowed. -/
def overflowed (s : State) (r : Nat) : Bool := if r = 0 then flag s XB_STATUS_FLT_OVF_A else flag s XB_STATUS_FLT_OVF_B
def setOverflow (s : State) (r : Nat) (b : Bool) : State :=
  wrB s (if r = 0 then XB_STATUS_FLT_OVF_A else XB_STATUS_FLT_OVF_B) b

/-- A link is on a ring's list. -/
def broken (s : State) (r l : Nat) : Bool := (linkEntry s r l).isSome

/-- The links of an arc of n links from position a on. -/
def arcClear (s : State) (r a n : Nat) : Bool :=
  !overflowed s r && (List.range n).all fun k => !broken s r ((a + k) % max 1 (ringN s r))

/-- Hops from this hub to hub d by a path, where the path exists and is clear. -/
def pathHops (s : State) (d p : Nat) : Option Nat :=
  let r := p / 2
  match position s r d, position s r (rd s SYS_HUB_ID_ID) with
  | some q, some o =>
    let n := ringN s r
    let east := (q + n - o) % max 1 n
    if p % 2 = 0 then (if arcClear s r o east then some east else none)
    else if arcClear s r q (n - east) then some (n - east) else none
  | _, _ => none

/-- The clear path with the fewest hops; ties go to A before B, then E before W. -/
def bestPath (s : State) (d : Nat) : Option Nat :=
  ([0, 1, 2, 3].foldl (fun (b : Option (Nat × Nat)) p =>
    match pathHops s d p, b with
    | some h, some (k, q) => if h < k then some (h, p) else some (k, q)
    | some h, none => some (h, p)
    | none, b => b) none).map (·.2)

/-- A path of a route table word. -/
def tablePath (w d : Nat) : Nat := bits w (8 * (d / 4 % 4) + 2 * (d % 4)) 2

/-- The route of one destination is recomputed (R192). -/
def routeOne (s : State) (d : Nat) : State :=
  let dflt := tablePath (rd s (XB_RTDEF_W (d / 16))) d
  let reach (b : Bool) : State := wr s (XB_REACH_W (d / 32)) (withBit (rd s (XB_REACH_W (d / 32))) (d % 32) b)
  match bestPath s d with
  | none => reach false
  | some p =>
    let q := if (pathHops s d dflt).isSome then dflt else p
    let t := reach true
    wr t (XB_RT_W (d / 16)) (setBits (rd t (XB_RT_W (d / 16))) (8 * (d / 4 % 4) + 2 * (d % 4)) 2 q)

/-- Destinations with a valid position entry on a ring. -/
def placed (s : State) : List Nat :=
  (s.regs.filter fun c => decide (0x40074000 ≤ c.1) && decide (c.1 < 0x40078000)).flatMap fun c =>
    let d := (c.1 - 0x40074000) % 0x2000 / 2
    [d, d + 1]

/-- The route engine recomputes the route table and the reach bitmap (R192). -/
def routeAll (s : State) : State :=
  wr (each ((placed s).filter fun d => (position s 0 d).isSome || (position s 1 d).isSome) routeOne s) XB_EVT_ROUTE 1

/-- A link joins a ring's list: by this hub's own port, or by a notice (R191). -/
def linkAdd (s : State) (r l : Nat) (own : Bool) : State :=
  let mark (t : State) (n : Nat) : State :=
    t.setLink n { own := (t.link n).own || own, seen := if own then (t.link n).seen else some (ftNs s) }
  match linkEntry s r l with
  | some n => mark s n
  | none => match (listOf r).find? fun n => !flag s (XB_FLT_VALID n) with
    | none => setOverflow s r true
    | some n => mark (wrs s [(XB_FLT_LINK n, l), (XB_FLT_VALID n, 1)]) n

/-- The links that this hub's own ports of a ring face join its list where they are not UP (R191). -/
def ownAgain (s : State) (r : Nat) : State :=
  match position s r (rd s SYS_HUB_ID_ID) with
  | none => s
  | some o => each [0, 1] (fun t d => if isUp t (2 * r + d) then t else linkAdd t r (linkAt t r o d) true) s

/-- An entry leaves the list, unless this hub's own port keeps it; the list has room again, for a link of an own port that
met it full first (R191). -/
def linkDrop (s : State) (n : Nat) : State :=
  if (s.link n).own then s.setLink n { s.link n with seen := none }
  else ownAgain (setOverflow ((wrs s [(XB_FLT_LINK n, 0), (XB_FLT_VALID n, 0)]).setLink n {}) (n / 16) false) (n / 16)

/-- This hub's own port goes up or down: the link it faces, and the routes (R191, R192). -/
def ownLink (s : State) (p : Nat) : State :=
  if s.rst.busy then s
  else match position s (p / 2) (rd s SYS_HUB_ID_ID) with
    | none => s
    | some o =>
      let l := linkAt s (p / 2) o (p % 2)
      if isUp s p then
        match linkEntry s (p / 2) l with
        | none => s
        | some n => routeAll (linkDrop (s.setLink n { s.link n with own := false, seen := none }) n)
      else routeAll (linkAdd s (p / 2) l true)

/-- The route engine takes a fault notice by its 12-byte payload (R191). -/
def noticeTake (s : State) (x : List Byte) : State :=
  let kind := beNat (slice x 0 1)
  let w := beNat (slice x 1 1)
  let r := w % 2
  match position s r (beNat (slice x 2 2) % 4096) with
  | none => s
  | some pos =>
    let l := linkAt s r pos (bits w 1 1)
    if kind = 1 ∨ kind = 3 then
      let t := linkAdd s r l false
      if broken s r l ∧ overflowed s r = overflowed t r then t else routeAll t
    else if kind = 2 then
      match linkEntry s r l with
      | none => s
      | some n => routeAll (linkDrop s n)
    else s

/-- A good frame delivered here goes to the route engine where it is a fault notice (R183). -/
def noticeSee (s : State) (f : List Byte) (bad : Bool) : State :=
  if !bad ∧ mType f = tFault then noticeTake s (mPayload f) else s

/-- The path the route table gives a destination, where it is reachable. -/
def routeOf (s : State) (d : Nat) : Option Nat :=
  if rdBit s (XB_REACH_W (d / 32)) (d % 32) then some (tablePath (rd s (XB_RT_W (d / 16))) d) else none

/-! ## Settings, built in until ST08 (R212) -/

def qMin (s : State) (q : Nat) : Nat := if s.sys.loaded then rd s (XB_Q_CFG_MIN q) else 64
def qAlpha (s : State) (q : Nat) : Nat := if s.sys.loaded then min 8 (rd s (XB_Q_CFG_ALPHA q)) else 4
def qMax (s : State) (q : Nat) : Nat :=
  if !s.sys.loaded then 4096 else if rd s (XB_Q_CFG_QMAX q) = 0 then 65535 else rd s (XB_Q_CFG_QMAX q)
def qQuantum (s : State) (q : Nat) : Nat :=
  if !s.sys.loaded ∨ rd s (XB_Q_SCHED_QUANTUM q) = 0 then 2048 else rd s (XB_Q_SCHED_QUANTUM q)
def qRate (s : State) (q : Nat) : Nat := if s.sys.loaded then rd s (XB_Q_SHAPE_RATE q) else 0

/-! ## Queues (R194, R195) -/

def voqOf (s : State) (k : Nat) : List XFrame := tget (fun _ => []) s.xb.voq k
def setVoq (s : State) (k : Nat) (l : List XFrame) : State :=
  { s with xb := { s.xb with voq := tput (fun _ => []) s.xb.voq k l } }
def eqOf (s : State) (q : Nat) : List XFrame := tget (fun _ => []) s.xb.eq q
def setEq (s : State) (q : Nat) (l : List XFrame) : State :=
  { s with xb := { s.xb with eq := tput (fun _ => []) s.xb.eq q l } }

/-- The frames that are leaving now. -/
def leavingNow (s : State) : List Leaving :=
  (s.xb.leaving.filterMap (·.2)).filter fun x => decide (ftNs s < x.stop)

/-- Cells of a frame that have not left yet: they leave evenly from its first bit to its end (DEDUCED, log entry 120). -/
def notLeft (s : State) (x : Leaving) : Nat :=
  cellsOf x.frame.bytes - (ftNs s - x.start) * cellsOf x.frame.bytes / (x.stop - x.start)

/-- used[q]: the cells of every frame destined for q, from its admission until they leave. -/
def usedOf (s : State) (q : Nat) : Nat :=
  sumOf ((eqOf s q).map fun f => cellsOf f.bytes) +
  sumOf ((List.range 8).map fun i => sumOf ((voqOf s (64 * i + q)).map fun f => cellsOf f.bytes)) +
  sumOf (((leavingNow s).filter (·.q == q)).map (notLeft s))

/-- Cells of queue q that have crossed and not left; those of a frame cut through cross as they leave. -/
def crossedOf (s : State) (q : Nat) : Nat :=
  sumOf ((eqOf s q).map fun f => cellsOf f.bytes) +
  sumOf ((List.range 8).map fun i => sumOf ((voqOf s (64 * i + q)).map (·.crossed))) +
  sumOf (((leavingNow s).filter fun x => x.q == q && !x.cut).map (notLeft s))

/-- Two copies of one group or broadcast frame. -/
def sameStored (a b : XFrame) : Bool :=
  (mGroup a.bytes || mDst a.bytes == 4095) && a.inp == b.inp && a.rx == b.rx && a.bytes == b.bytes

/-- A list of frames by queue with one copy of each group frame: it is stored once (R201). -/
def storedOnce : List (Nat × XFrame) → List (Nat × XFrame)
  | [] => []
  | x :: l => if l.any fun y => sameStored x.2 y.2 then storedOnce l else x :: storedOnce l

/-- The frames stored, by queue. -/
def stored (s : State) : List (Nat × XFrame) :=
  storedOnce ((s.xb.eq.flatMap fun x => x.2.map fun f => (x.1, f)) ++ s.xb.voq.flatMap fun x => x.2.map fun f => (x.1 % 64, f))

/-- The frames that are leaving and stand in no queue any more. -/
def leftAlone (s : State) : List Leaving :=
  (leavingNow s).filter fun x => !(stored s).any fun y => sameStored x.frame y.2

/-- Cells of the buffer that the frames of queue q take, a group frame counted in one of its queues alone (R195, R201). -/
def poolOf (s : State) (q : Nat) : Nat :=
  sumOf (((stored s).filter (·.1 == q)).map fun x => cellsOf x.2.bytes) +
  sumOf (((leftAlone s).filter (·.q == q)).map (notLeft s))

/-- F: the free cells of the shared pool (R195). -/
def freePool (s : State) : Nat :=
  65536 - sumOf ((List.range 64).map (qMin s)) - sumOf ((List.range 64).map fun q => poolOf s q - qMin s q)

/-- A frame of c cells is admitted to queue q (R195). -/
def admits (s : State) (q c : Nat) : Bool :=
  let u := usedOf s q + c
  decide (u ≤ qMax s q) &&
  (decide (u ≤ qMin s q) || decide (16 * (u - qMin s q) ≤ 2 ^ qAlpha s q * freePool s))

/-- A drop by a policer or at admission is counted for the overload monitor (R203). -/
def countDrop (s : State) : State :=
  wr { s with xb := { s.xb with drops := s.xb.drops + 1 } } XB_EVT_DROP 1

/-! ## Token buckets (R196, R202) -/

/-- A bucket brought up to date: rate in Mbit/s, depth in units of 64 bytes. -/
def refill (s : State) (b : Bucket) (rate depth : Nat) : Bucket :=
  let cap := depth * 512000
  match b.last with
  | none => ⟨cap, some (ftNs s)⟩
  | some t => ⟨min cap (b.tokens + rate * (ftNs s - t)), some (ftNs s)⟩

/-- The bucket of a queue's shaper now. -/
def shaper (s : State) (q : Nat) : Bucket :=
  refill s (tget (fun _ => {}) s.xb.shape q) (qRate s q) (rd s (XB_Q_SHAPE_BURST q))

/-- A queue's shaper admits n bytes; a shaper with RATE = 0 is off. -/
def shaperAdmits (s : State) (q n : Nat) : Bool := qRate s q == 0 || decide (8000 * n ≤ (shaper s q).tokens)

/-- A queue's shaper gives up the tokens of n bytes. -/
def shaperTake (s : State) (q n : Nat) : State :=
  if qRate s q = 0 then s
  else
    let b := shaper s q
    { s with xb := { s.xb with shape := tput (fun _ => {}) s.xb.shape q { b with tokens := b.tokens - 8000 * n } } }

/-- The policer of ingress port p and a TC takes a frame of n bytes, or drops it (R202). -/
def policerTake (s : State) (p tc n : Nat) : Bool × State :=
  let cir := rd s (XB_POL_CIR p tc)
  if !s.sys.loaded ∨ cir = 0 then (true, s)
  else
    let b := refill s (tget (fun _ => {}) s.xb.police (8 * p + tc)) cir (rd s (XB_POL_CBS p tc))
    let put (x : Bucket) : State := { s with xb := { s.xb with police := tput (fun _ => {}) s.xb.police (8 * p + tc) x } }
    if 8000 * n ≤ b.tokens then (true, put { b with tokens := b.tokens - 8000 * n })
    else (false, countDrop (incSat (put b) (XB_POL_DROP_COUNT p)))

/-! ## The Tap (R209 to R211) -/

/-- How a frame ended at a point of the Tap: it failed a check, it was dropped for a cause or, being bad, for none. -/
structure Fate where
  bad : Bool := false
  cause : Nat := 0
  drop : Bool := false
  deriving DecidableEq, Repr

/-- The frame was not forwarded (R209). -/
def Fate.dropped (x : Fate) : Bool := x.drop || x.cause != 0

/-- Rule m matches a frame at a port and direction: 1 ingress, 2 egress (R210). -/
def ruleMatches (s : State) (m p dir : Nat) (f : List Byte) (x : Fate) : Bool :=
  flag s (TAP_RULE0_EN m) && rdBit s (TAP_RULE0_PORTS m) p && rdBit s (TAP_RULE0_DIR m) (dir - 1) &&
  (!flag s (TAP_RULE0_BAD_ONLY m) || x.bad || x.dropped) &&
  (mType f ^^^ rd s (TAP_RULE1_TYPE m)) &&& rd s (TAP_RULE1_TYPE_MASK m) == 0 &&
  rdBit s (TAP_RULE1_TC_MASK m) (mTc f) &&
  (flag s (TAP_RULE2_SRC_ANY m) || rd s (TAP_RULE2_SRC m) == mSrc f) &&
  (flag s (TAP_RULE2_DST_ANY m) || rd s (TAP_RULE2_DST m) == mDst f) &&
  (mFlow f ^^^ rd s (TAP_RULE3_FLOW m)) &&& rd s (TAP_RULE3_FLOW_MASK m) == 0

/-- Sampling counts a frame at a port and direction, and tells whether it is an Nth one. -/
def tapSample (s : State) (p dir : Nat) : Bool × State :=
  let n := rd s (TAP_SAMPLE_N p)
  if n = 0 ∨ !rdBit s (TAP_SAMPLE_DIR p) (dir - 1) then (false, s)
  else
    let k := tget (fun _ => 0) s.xb.sample (2 * p + dir) + 1
    let put (v : Nat) : State := { s with xb := { s.xb with sample := tput (fun _ => 0) s.xb.sample (2 * p + dir) v } }
    if n ≤ k then (true, put 0) else (false, put k)

/-- The Tap descriptor's four words. -/
def tapDesc (s : State) (p dir rx : Nat) (f : List Byte) (x : Fate) (rule : Option Nat) (sampled : Bool) : List Byte :=
  leBytes 8 rx ++
  leBytes 4 (p + (dir - 1) * 8 + f.length % 4096 * 16 + rule.getD 0 * 2 ^ 16 + natOf rule.isSome * 2 ^ 19 +
    natOf sampled * 2 ^ 20 + natOf x.bad * 2 ^ 21 + natOf x.dropped * 2 ^ 22 + x.cause * 2 ^ 23) ++
  leBytes 4 s.xb.seq

/-- 25.6 ns in units of 2^-48 ns. -/
def tapGap : Nat := 256 * 2 ^ 48 / 10

/-- An entry is written into the Tap ring, or lost (R209). -/
def tapWrite (s : State) (d f : List Byte) : State :=
  let w := rd s TAP_WPTR_ENTRY
  let now := s.clk.ft.toNat
  let tooSoon : Bool := match s.xb.tapAt with
    | none => false
    | some t => decide (t ≤ now) && decide (now < t + tapGap)
  let s1 := { s with xb := { s.xb with seq := (s.xb.seq + 1) % 2 ^ 32 } }
  if tooSoon ∨ (flag s TAP_CTRL_STOP ∧ s.xb.full) then incSat s1 TAP_LOST_COUNT
  else
    let s2 := memPuts s1 (0x5060_0000 + 128 * w) (slice (d ++ f ++ List.replicate 112 0) 0 128)
    let s3 := wr s2 TAP_WPTR_ENTRY (w + 1)
    { s3 with xb := { s3.xb with tapAt := some now, full := (w + 1) % 4096 == rd s TAP_RPTR_ENTRY } }

/-- Cells of the mirror queue in use. -/
def mirrorCells (s : State) : Nat := sumOf (s.xb.mirror.map fun f => (f.length + 63) / 64)

/-- The mirror copy of a frame (R211). -/
def mirrorFrame (s : State) (d f : List Byte) : List Byte :=
  let x := beBytes 6 (rd s TAP_MIR_MAC_MAC) ++ beBytes 6 (rd s SPR_MAC_MAC) ++ [0x88, 0xB5] ++ d ++ f
  x ++ beBytes 4 (fcs32 x)

/-- A frame passes a point of the Tap (R209 to R211). -/
def tapSee (s : State) (p dir rx : Nat) (f : List Byte) (x : Fate) : State :=
  if !flag s TAP_CTRL_EN then s
  else
    let (smp, s1) := tapSample s p dir
    let ms := those 8 fun m => ruleMatches s m p dir f x
    if !smp ∧ ms.isEmpty then s1
    else
      let d := tapDesc s1 p dir rx f x ms.head? smp
      let s2 := tapWrite s1 d f
      if flag s TAP_CTRL_MIR_EN ∧ ms.any (fun m => flag s (TAP_RULE0_MIRROR m)) then
        let c := mirrorFrame s d f
        if mirrorCells s2 + (c.length + 63) / 64 ≤ 64 then { s2 with xb := { s2.xb with mirror := s2.xb.mirror ++ [c] } }
        else incSat s2 TAP_MIR_DROP_COUNT
      else s2

/-! ## PAUSE (R206) -/

/-- Cells held for frames received from a spur. -/
def heldFrom (s : State) (sp : Nat) : Nat :=
  sumOf (((stored s).filter (·.2.inp == 4 + sp)).map fun x => cellsOf x.2.bytes) +
  sumOf (((leftAlone s).filter (·.frame.inp == 4 + sp)).map (notLeft s))

/-- A PAUSE frame with a pause time (IEEE 802.3 Annex 31B). -/
def pauseFrame (s : State) (t : Nat) : List Byte :=
  let x := [0x01, 0x80, 0xC2, 0x00, 0x00, 0x01] ++ beBytes 6 (rd s SPR_MAC_MAC) ++ [0x88, 0x08, 0x00, 0x01] ++ beBytes 2 t ++
    List.replicate 42 0
  x ++ beBytes 4 (fcs32 x)

/-- A spur sends PAUSE with a pause time of 0xFFFF. -/
def pauseSend (s : State) (sp : Nat) : State :=
  State.emit { s with xb := { s.xb with pauseSent := tput (fun _ => 0) s.xb.pauseSent sp (ftNs s) } }
    (.spurFrame sp (pauseFrame s 0xFFFF) false)

/-- A spur asserts or releases PAUSE by the cells held. -/
def pauseCheck (s : State) (sp : Nat) : State :=
  let n := heldFrom s sp
  if !flag s (SPR_CTRL_PAUSE_TX sp) then s
  else if rd s (SPR_PAUSE_XOFF sp) < n ∧ !flag s (SPR_STAT_XOFF sp) then
    pauseSend (wr s (SPR_STAT_XOFF sp) 1) sp
  else if n < rd s (SPR_PAUSE_XON sp) ∧ flag s (SPR_STAT_XOFF sp) then
    (wr s (SPR_STAT_XOFF sp) 0).emit (.spurFrame sp (pauseFrame s 0) false)
  else s

/-! ## The transparent clock (R134, R135) -/

/-- The offset of the Ethernet payload's type field and of what follows it. -/
def ethType (f : List Byte) : Nat := beNat (slice f 12 2)
def tagged (f : List Byte) : Bool := ethType f == 0x8100
def ethBody (f : List Byte) : Nat := if tagged f then 18 else 14
def ethInner (f : List Byte) : Nat := beNat (slice f (ethBody f - 2) 2)

/-- Where a frame carries its PTP message, and its UDP header where it has one: 0 none, 4 IPv4, 6 IPv6. -/
def ptpAt (f : List Byte) : Option (Nat × Nat) :=
  let b := ethBody f
  if ethInner f = 0x88F7 then some (b, 0)
  else if ethInner f = 0x0800 then
    let ihl := beNat (slice f b 1) % 16 * 4
    if beNat (slice f (b + 9) 1) = 17 ∧ beNat (slice f (b + ihl + 2) 2) = 319 then some (b + ihl + 8, 4) else none
  else if ethInner f = 0x86DD then
    if beNat (slice f (b + 6) 1) = 17 ∧ beNat (slice f (b + 42) 2) = 319 then some (b + 48, 6) else none
  else none

/-- A frame carries a Sync or a Delay_Req event message. -/
def ptpEvent (f : List Byte) : Option (Nat × Nat) :=
  (ptpAt f).bind fun x => if beNat (slice f x.1 1) % 16 ≤ 1 then some x else none

/-- One's-complement sum of the 16-bit words of a list. -/
def onesSum (bs : List Byte) : Nat :=
  let n := sumOf ((List.range (bs.length / 2)).map fun k => beNat (slice bs (2 * k) 2))
  let m := n % 65536 + n / 65536
  m % 65536 + m / 65536

/-- A PTP event message with an amount added to its correctionField, and its UDP checksum as R134 gives it. -/
def ptpAdd (f : List Byte) (amount : Int) : List Byte :=
  match ptpEvent f with
  | none => f
  | some (o, ip) =>
    let old := slice f (o + 8) 8
    let new := beBytes 8 (wrapTo 64 (signed 64 (beNat old) + amount))
    let g := patch f (o + 8) new
    if ip = 4 then patch g (o - 2) [0, 0]
    else if ip = 6 then
      let hc := 65535 - beNat (slice f (o - 2) 2)
      let v := onesSum (beBytes 2 hc ++ old.map (fun b => 255 - b) ++ new)
      patch g (o - 2) (beBytes 2 (65535 - v))
    else g

/-- A message stamped at a spur is counted (R135). -/
def ptpCount (s : State) (f : List Byte) : State :=
  if (ptpEvent f).isNone then s
  else
    let t := incSat s BELL_TC_CNT_STAMPED
    if bellState s = lLocked ∨ bellState s = lOrigin then t else incSat t BELL_TC_CNT_UNLOCKED

/-! ## Leaving a port (R184, R199, R205, R207, R208) -/

/-- An Ethernet frame with its FCS. -/
def ethMake (x : List Byte) : List Byte := x ++ beBytes 4 (fcs32 x)

/-- A native frame (R208): header without HCRC, payload. -/
def nativeFrame (s : State) (sp : Nat) (f : List Byte) : List Byte :=
  beBytes 6 (rd s (SPR_HOST_MAC_MAC sp)) ++ beBytes 6 (rd s SPR_MAC_MAC) ++ [0x88, 0xB6] ++ f.take 20 ++ mPayload f

/-- A frame leaves by a spur: tunnelled frames with the transparent clock, others as native frames. -/
def spurSend (s : State) (sp : Nat) (f : List Byte) (stomp : Bool) : State :=
  let tc := mType f == tEth && flag s (SPR_CTRL_TC_EN sp)
  let x := if mType f = tEth then mPayload f else nativeFrame s sp f
  let x := if tc then ptpAdd x (s.clk.ft.toNat / 2 ^ 32 : Nat) else x
  let s1 := if tc then ptpCount s x else s
  incWrap (s1.emit (.spurFrame sp (if stomp then x ++ beBytes 4 (0xFFFF_FFFF - fcs32 x) else ethMake x) stomp))
    (SPR_CNT_TX_COUNT sp)

/-- Bytes of LP_RXQ in use. -/
def rxqBytes (s : State) : Nat := sumOf (s.fry.rxq.map (·.length))

/-- t_in, in ns, of a tunnelled event message that a spur with the transparent clock took in: the latest instant whose
low 32 bits are ORIG_T (R135). For a frame of another hub the clock of its spur is taken to be on (log entry 123). -/
def coreTime (s : State) (f : List Byte) : Option Nat :=
  let sport := beNat (slice f 10 1) % 16
  if mType f = tEth ∧ (ptpEvent (mPayload f)).isSome ∧ (sport = 1 ∨ sport = 2) ∧
     (mSrc f ≠ rd s SYS_HUB_ID_ID ∨ flag s (SPR_CTRL_TC_EN (sport - 1))) then
    some (ftNs s - (ftNs s + 2 ^ 32 - mOrigT f) % 2 ^ 32)
  else none

/-- A frame as the Core port delivers it: an event message that entered at a spur has t_in added back (R135). -/
def coreOut (s : State) (f : List Byte) : Output :=
  match coreTime s f with
  | none => .deliver 7 f
  | some t => .deliver 7 (mMake f (ptpAdd (mPayload f) (t * 65536 : Nat))) t

/-- A frame is delivered at port 6 or 7: to the management target, to LP_RXQ, or to firmware (R183, R325). -/
def deliver (s : State) (p : Nat) (f : List Byte) : State :=
  if p = 7 then s.emit (coreOut s f)
  else if mType f = tReq ∨ mType f = tBwr then s.emit (.deliver 6 f)
  else if rxqBytes s + f.length ≤ 16384 then { s with fry := { s.fry with rxq := s.fry.rxq ++ [f] } }
  else wr s LP_EVT_RXQ_OVF 1

/-- A frame leaves the switch core at a wire of the crossbar. -/
def leave (s : State) (p : Nat) (f : XFrame) (stomp : Bool) : State :=
  let s1 := if p < 4 then s.emit (.ringFrame p f.bytes stomp)
    else if p < 6 then spurSend s (p - 4) f.bytes stomp
    else deliver s p f.bytes
  tapSee s1 p 2 (ftNs s) f.bytes { bad := stomp }

/-! ## Admission to an egress queue (R195, R198) -/

/-- Line rate of a port in Mbit/s; 0 for the FRY/LP and CORE ports. -/
def lineRate (s : State) (p : Nat) : Nat :=
  if p < 4 then (if byteTenths s (p / 2) = 32 then 2500 else 10000)
  else if p < 6 then [10, 100, 1000, 2500].getD (rd s (SPR_STAT_SPEED (p - 4))) 0
  else 0

/-- ns that n bytes take on a port's line. -/
def sendNs (s : State) (p n : Nat) : Nat :=
  if p < 4 then (wireTenths s p n + 9) / 10
  else if lineRate s p = 0 then 0
  else ((n + 20) * 8000 + lineRate s p - 1) / lineRate s p

/-- FT in ns until which a port sends: of a ring port in the ring domain. -/
def sendingTo (s : State) (p : Nat) : Nat := if p < 4 then ringBusy s p else tget (fun _ => 0) s.xb.sending p
def startSending (s : State) (p n : Nat) : State :=
  if p < 4 then ringStart s p n
  else { s with xb := { s.xb with sending := tput (fun _ => 0) s.xb.sending p (ftNs s + sendNs s p n) } }

/-- A port may start a frame of n bytes now: the frame before has ended, and a ring port is inside its free window, a
spur has its link up and is not paused (R76, R196, R197, R206). -/
def canStartNow (s : State) (p n : Nat) : Bool :=
  if p < 4 then isUp s p && ringMay s p n
  else decide (sendingTo s p ≤ ftNs s) &&
    (decide (6 ≤ p) || (flag s (SPR_STAT_LINK (p - 4)) && !flag s (SPR_STAT_PAUSED (p - 4))))

/-! ## The ring domain's own frames (R45, R50, R51, R54, R76, R190) -/

/-- The payload of a link-local frame: KIND, SEQ, T_TX in ns × 2^16, T_RX_REQ, TURN, LAP (R51). -/
def linkPayload (kind seq : Nat) (tx rx turn lap : Nat) : List Byte :=
  beBytes 1 kind ++ beBytes 1 0 ++ beBytes 2 seq ++ beBytes 10 tx ++ beBytes 10 rx ++ beBytes 8 turn ++ beBytes 3 lap ++ beBytes 1 0

/-- FT in ns × 2^16. -/
def ftNow16 (s : State) : Nat := s.clk.ft.toNat / 2 ^ 32

/-- Bytes of a frame of the ring domain: a link-local one has a header, 36 bytes of payload and its check value. -/
def ringLen : RingOut → Nat
  | .notice f => f.length
  | .express f _ => f.length
  | .request => 64
  | .response _ _ => 64

/-- A frame of the ring domain leaves now; T_TX and TURN are written as it leaves (R51). -/
def ringLeave (s : State) (p : Nat) (o : RingOut) : State :=
  let t := ringStart s p (ringLen o)
  match o with
  | .notice f => t.emit (.ringFrame p f false)
  | .express f bad => t.emit (.ringFrame p f bad)
  | .request =>
    let x := t.port p
    (t.setPort p { x with exch := some (x.seq, ftNow16 t), seq := (x.seq + 1) % 65536 }).emit
      (.linkFrame p (linkPayload 1 x.seq (ftNow16 t) 0 0 0))
  | .response seq rx => t.emit (.linkFrame p (linkPayload 2 seq (ftNow16 t) rx (ftNow16 t - rx) 0))

/-- A fault notice waits before every other frame of the ring domain, as its class TC7 does (R190). -/
def ringQueue (l : List RingOut) : RingOut → List RingOut
  | .notice f => l.takeWhile (fun x => match x with | .notice _ => true | _ => false) ++ [.notice f] ++
      l.dropWhile (fun x => match x with | .notice _ => true | _ => false)
  | o => l ++ [o]

/-- A frame of the ring domain leaves a ring port, at once where it may start, in a later free window otherwise. -/
def ringSend (s : State) (p : Nat) (o : RingOut) : State :=
  if (s.port p).waiting.isEmpty && ringMay s p (ringLen o) then ringLeave s p o
  else s.setPort p { s.port p with waiting := ringQueue (s.port p).waiting o }

/-- The next waiting frame of the ring domain that may start now, where there is one. -/
def ringNext (s : State) (p : Nat) : Option State :=
  match (s.port p).waiting with
  | [] => none
  | o :: l => if ringMay s p (ringLen o) then some (ringLeave (s.setPort p { s.port p with waiting := l }) p o) else none

/-- A frame is cut through (R198). -/
def cutsThrough (s : State) (inp p tc : Nat) (f : List Byte) : Bool :=
  let q := 8 * p + tc
  s.sys.loaded && flag s XB_CTRL_CT_EN && decide (inp < 6) && decide (p < 6) && decide (lineRate s p ≤ lineRate s inp) &&
  (voqOf s (64 * inp + q)).isEmpty && (eqOf s q).isEmpty && decide (sendingTo s p ≤ ftNs s) &&
  canStartNow s p f.length && shaperAdmits s q f.length

/-- A frame of queue q starts on wire w and is leaving until its end (R194 to R196, R198). -/
def sendFrame (s : State) (w q : Nat) (f : XFrame) (stomp cut : Bool) : State :=
  let t := startSending (leave (shaperTake s q f.bytes.length) w f stomp) w f.bytes.length
  { t with xb := { t.xb with leaving := tput (fun _ => none) t.xb.leaving w (some ⟨q, f, ftNs s, sendingTo t w, cut⟩) } }

/-- What an egress queue does with a frame: stored, cut through, not admitted, discarded as bad. -/
inductive Took | stored | cut | refused | bad
  deriving DecidableEq, Repr

/-- The fate that shows at the Tap (R209). -/
def Took.fate : Took → Fate
  | .refused => { cause := 2 }
  | .bad => { drop := true }
  | _ => {}

/-- A good frame, or a bad one, from an ingress port is admitted to the queue of an egress port and cut through or
stored; a bad frame that is stored is discarded (R195, R198, R199). -/
def enqueue (s : State) (f : XFrame) (p : Nat) (bad : Bool) : Took × State :=
  let tc := mTc f.bytes
  let q := 8 * p + tc
  if !admits s q (cellsOf f.bytes) then (.refused, countDrop (incSat s (XB_Q_STAT_DROP q)))
  else if cutsThrough s f.inp p tc f.bytes then (.cut, sendFrame s p q f bad true)
  else if bad then (.bad, s)
  else
    let t := setVoq s (64 * f.inp + q) (voqOf s (64 * f.inp + q) ++ [f])
    (.stored, if f.inp = 4 ∨ f.inp = 5 then pauseCheck t (f.inp - 4) else t)

/-- A header is rejected (R183, R185, R187, R189). -/
def headerError (s : State) : State := wr (incSat s XB_CNT_HDR_HDR_ERR) XB_EVT_HDR_ERR 1

/-- A frame has no route, or is stripped at its source. -/
def noRoute (s : State) : State := wr (incSat s XB_CNT_RT_NO_ROUTE) XB_EVT_NO_ROUTE 1

/-- The crossbar port of a frame addressed to this hub (R183, R185). -/
def localPort (f : List Byte) : Option Nat :=
  let d := mDport f
  if 4 < d then none
  else if mType f = tFault then some 7
  else if mType f = tReq ∨ mType f = tBwr then some 6
  else if mType f = tEth then (if d = 1 ∨ d = 2 then some (3 + d) else none)
  else some (if d = 0 then 7 else 3 + d)

/-- A frame is delivered to this hub (R183, R185). -/
def deliverLocal (s : State) (f : XFrame) (bad : Bool) : Fate × State :=
  match localPort f.bytes with
  | none => ({ cause := 3 }, headerError s)
  | some p =>
    let (t, u) := enqueue (noticeSee s f.bytes bad) f p bad
    (t.fate, u)

/-- Copies of a group frame go to a list of egress ports; a copy not admitted makes the frame partial (R201). It is dropped
where no copy is left. -/
def enqueueCopies (s : State) (f : XFrame) (ps : List Nat) (bad : Bool) : Fate × State :=
  let r := ps.foldl (fun (x : List Took × State) p =>
    let (ok, t) := enqueue x.2 f p bad
    (ok :: x.1, t)) ([], s)
  let x : Fate := if r.1.any fun t => t == .stored || t == .cut then {} else (r.1.head?.getD .stored).fate
  (x, if r.1.contains .refused then wr (incSat r.2 XB_CNT_RT_MC_PARTIAL) XB_EVT_MC_PARTIAL 1 else r.2)

/-- The local ports of a group at this hub (R188, R201). -/
def groupPorts (s : State) (g : Nat) : List Nat :=
  if s.sys.loaded ∧ flag s (XB_MCAST_EN g) then (those 4 fun k => rdBit s (XB_MCAST_LOCAL g) k).map (4 + ·) else []

/-- The local ports of a group or broadcast frame. -/
def manyPorts (s : State) (f : List Byte) : List Nat :=
  if mGroup f then groupPorts s (mDst f % 256) else if mType f = tFault then [7] else [6]

/-! ## Insertion from a local port (R15, R186, R189) -/

/-- How an insertion ends: queued or delivered, no route, refused. -/
inductive Inserted | ok | noRoute | refused
  deriving DecidableEq, Repr

/-- The header as the source hub completes it: TC of a fixed class, SRC, HOPS, SPORT, ORIG_T, PATH. -/
def insertHead (s : State) (sport : Nat) (h : List Byte) (path : Nat) : List Byte :=
  let tc := (fixedTc.find? (·.1 == mType h)).map (·.2) |>.getD (mTc h)
  let ctrl := tc * 32 + bits (beNat (slice h 1 1)) 4 1 * 16 + path * 4 + bits (beNat (slice h 1 1)) 1 1 * 2
  let h1 := patch (h.take 20) 1 (beBytes 1 ctrl)
  let h2 := patch h1 6 (beBytes 2 (rd s SYS_HUB_ID_ID) ++ beBytes 2 0 ++ beBytes 1 (mDport h * 16 + sport))
  patch h2 16 (beBytes 4 (ftNs s))

/-- A frame from local port code sport (1 SP0, 2 SP1, 3 LP, 4 CORE) is inserted: 20 header bytes and the payload. -/
def insertFrame (s : State) (sport : Nat) (h payload : List Byte) (rx : Nat) (bad : Bool := false) : Inserted × State :=
  let inp := 3 + sport
  let group := mGroup h
  let bcast := !group && mDst h == 4095
  let own := !group && mDst h == rd s SYS_HUB_ID_ID
  let fin (path : Nat) : XFrame := ⟨mMake (insertHead s sport h path) payload, inp, rx, 0⟩
  if !s.sys.loaded then (.refused, s)
  else if !knownType (mType h) ∨ mType h = tFault ∨ mType h = tLink ∨ 2016 < mLen h ∨ (bcast ∧ mType h ≠ tBwr) then
    (.refused, tapSee (headerError s) inp 1 rx (fin (mPath h)).bytes { bad := bad, cause := 3 })
  else
    let path : Option Nat :=
      if own then some (mPath h)
      else if group ∨ bcast then
        some (if mPin h then mPath h else if group then rd s (XB_MCAST_PATH (mDst h % 256)) else rd s XB_CTRL_BCAST_PATH)
      else (routeOf s (mDst h)).map fun r => if mPin h then mPath h else r
    match path with
    | none => (.noRoute, tapSee (noRoute s) inp 1 rx (fin 0).bytes { bad := bad, cause := 5 })
    | some path =>
      let f := fin path
      let (conform, s1) := policerTake s inp (mTc f.bytes) f.bytes.length
      if !conform then (.refused, tapSee s1 inp 1 rx f.bytes { bad := bad, cause := 1 })
      else
        let (x, s2) : Fate × State := if own then deliverLocal s1 f bad
          else if group ∨ bcast then enqueueCopies s1 f (path :: manyPorts s f.bytes) bad
          else
            let (t, u) := enqueue s1 f path bad
            (t.fate, u)
        (.ok, tapSee s2 inp 1 rx f.bytes { x with bad := bad })

/-! ## The crossbar (R194) -/

/-- The highest TC for which input i holds an eligible cell for output o. -/
def request (s : State) (i o : Nat) : Option Nat :=
  [7, 6, 5, 4, 3, 2, 1, 0].find? fun c =>
    !(voqOf s (64 * i + 8 * o + c)).isEmpty && decide (crossedOf s (8 * o + c) < 48)

/-- The first of a list at or after a pointer, modulo 8. -/
def firstFrom (ptr : Nat) (l : List Nat) : Option Nat :=
  ((List.range 8).map fun k => (ptr + k) % 8).find? l.contains

/-- The best of a list of (index, TC): the highest TC, then the first index at or after a pointer. -/
def bestOf (ptr : Nat) (l : List (Nat × Nat)) : Option (Nat × Nat) :=
  [7, 6, 5, 4, 3, 2, 1, 0].findSome? fun c =>
    (firstFrom ptr ((l.filter (·.2 == c)).map (·.1))).map fun i => (i, c)

/-- Matched pairs of a cell time: input, output, TC, whether in the first iteration. -/
abbrev Matching := List (Nat × Nat × Nat × Bool)

/-- An input, and an output, of the pair that the crossbar holds for a frame cut through (R198). -/
def heldIn (s : State) (i : Nat) : Bool := (leavingNow s).any fun x => x.cut && x.frame.inp == i
def heldOut (s : State) (o : Nat) : Bool := (leavingNow s).any fun x => x.cut && x.q / 8 == o

/-- One request–grant–accept iteration. -/
def iterate (s : State) (first : Bool) (m : Matching) : Matching :=
  let ins := (List.range 8).filter fun i => !m.any (·.1 == i) && !heldIn s i
  let outs := (List.range 8).filter fun o => !m.any (·.2.1 == o) && !heldOut s o
  let grants := outs.filterMap fun o =>
    (bestOf (tget (fun _ => 0) s.xb.grant o) (ins.filterMap fun i => (request s i o).map fun c => (i, c))).map
      fun x => (x.1, o, x.2)
  m ++ ins.filterMap fun i =>
    (bestOf (tget (fun _ => 0) s.xb.accept i) ((grants.filter (·.1 == i)).map fun g => (g.2.1, g.2.2))).map
      fun x => (i, x.1, x.2, first)

/-- One cell crosses from an input to an output. -/
def moveCell (s : State) (i o c : Nat) : State :=
  let q := 8 * o + c
  match voqOf s (64 * i + q) with
  | [] => s
  | f :: l =>
    let g := { f with crossed := f.crossed + 1 }
    if cellsOf f.bytes ≤ g.crossed then setEq (setVoq s (64 * i + q) l) q (eqOf s q ++ [g])
    else setVoq s (64 * i + q) (g :: l)

/-- A cell time of the crossbar. -/
def cellTime (s : State) : State :=
  let m := iterate s false (iterate s false (iterate s true []))
  m.foldl (fun t x =>
    let (i, o, c, first) := x
    let u := if first then
        { t with xb := { t.xb with grant := tput (fun _ => 0) t.xb.grant o ((i + 1) % 8)
                                   accept := tput (fun _ => 0) t.xb.accept i ((o + 1) % 8) } }
      else t
    moveCell u i o c) s

/-! ## Egress scheduling (R76, R196, R197) -/

/-- FT in ns at which a ring port's free window opens, now where it is open. -/
def freeFrom (s : State) (p : Nat) : Nat :=
  if tLap s = 0 ∨ !inWindow (trainWindow s p) (lapPos s) then ftNs s else nextFree s p

/-- The queues a wire serves in one TC: its own, and those of the other port of its ring while that one is a wrap
point; the one not served last comes first. -/
def setsOf (s : State) (w tc : Nat) : List Nat :=
  if w < 4 ∧ !isUp s (facing w) then
    if tget (fun _ => facing w) s.xb.alt (8 * w + tc) = w then [facing w, w] else [w, facing w]
  else [w]

/-- The queue of a TC whose head frame a wire can start now. -/
def candidate (s : State) (w tc : Nat) : Option Nat :=
  ((setsOf s w tc).map (8 * · + tc)).find? fun q => match eqOf s q with
    | [] => false
    | f :: _ => canStartNow s w f.bytes.length && shaperAdmits s q f.bytes.length

def deficitOf (s : State) (q : Nat) : Nat := tget (fun _ => 0) s.xb.deficit q
def setDeficit (s : State) (q v : Nat) : State :=
  { s with xb := { s.xb with deficit := tput (fun _ => 0) s.xb.deficit q v } }
def schedOf (s : State) (w : Nat) : Sched := tget (fun _ => {}) s.xb.sched w
def setSched (s : State) (w : Nat) (x : Sched) : State :=
  { s with xb := { s.xb with sched := tput (fun _ => {}) s.xb.sched w x } }

/-- The length of a queue's head frame. -/
def headLen (s : State) (q : Nat) : Nat := match eqOf s q with
  | [] => 0
  | f :: _ => f.bytes.length

/-- Deficit weighted round robin over TC5 to TC0: the queue served, and the state of the scheduler after it. An empty
queue keeps no deficit. -/
def dwrr (w : Nat) : Nat → State → Option Nat × State
  | 0, s => (none, s)
  | n + 1, s =>
    let x := schedOf s w
    let next : Sched := { x with cur := if x.cur = 0 then 5 else x.cur - 1, added := false }
    match candidate s w x.cur with
    | none =>
      let t := ((setsOf s w x.cur).map (8 * · + x.cur)).foldl
        (fun u q => if (eqOf u q).isEmpty then setDeficit u q 0 else u) s
      dwrr w n (setSched t w next)
    | some q =>
      let s1 := if x.added then s
        else ((setsOf s w x.cur).map (8 * · + x.cur)).foldl (fun u k => setDeficit u k (deficitOf u k + qQuantum s k)) s
      if headLen s q ≤ deficitOf s1 q then
        (some q, setSched (setDeficit s1 q (deficitOf s1 q - headLen s q)) w { x with added := true })
      else dwrr w n (setSched s1 w next)

/-- The queue of a TC whose head frame would go out on a ring wire but does not fit before the train window (R197). -/
def unfit (s : State) (w tc : Nat) : Option Nat :=
  if 4 ≤ w then none
  else ((setsOf s w tc).map (8 * · + tc)).find? fun q => match eqOf s q with
    | [] => false
    | f :: _ => !canStartNow s w f.bytes.length && shaperAdmits s q f.bytes.length

/-- The round robin serves a wire; the first frame that it passed over because it did not fit is held (R197). -/
def dwrrHold (s : State) (w : Nat) : Option Nat × State :=
  let c := (schedOf s w).cur
  let r := dwrr w 12300 s
  match r.1 with
  | none => r
  | some q =>
    let passed := (((List.range 6).map fun k => (c + 6 - k) % 6).takeWhile (· != q % 8)).findSome? (unfit s w)
    (some q, if passed.isSome then setSched r.2 w { schedOf r.2 w with held := passed } else r.2)

/-- The held queue of a wire, where its head frame may start now (R197). -/
def heldGoes (s : State) (w : Nat) : Option Nat :=
  (schedOf s w).held.bind fun q => match eqOf s q with
    | [] => none
    | f :: _ => if canStartNow s w f.bytes.length ∧ shaperAdmits s q f.bytes.length then some q else none

/-- The queue a wire serves next; a frame that did not fit goes first, behind TC7 and TC6 (log entry 120). -/
def choose (s : State) (w : Nat) : Option Nat × State :=
  match candidate s w 7 with
  | some q => (some q, s)
  | none => match candidate s w 6 with
    | some q => (some q, s)
    | none => match heldGoes s w with
      | some q => (some q, setSched (setDeficit s q (deficitOf s q - headLen s q)) w { schedOf s w with held := none })
      | none => if [5, 4, 3, 2, 1, 0].any fun c => (candidate s w c).isSome then dwrrHold s w else (none, s)

/-- A mirror copy leaves by its spur, below TC0 (R211). -/
def mirrorSend (s : State) (w : Nat) : State :=
  match s.xb.mirror with
  | [] => s
  | f :: l =>
    if (w = 4 ∨ w = 5) ∧ rd s TAP_CTRL_MIR_SPUR = w - 4 ∧ canStartNow s w f.length then
      startSending ({ s with xb := { s.xb with mirror := l } }.emit (.spurFrame (w - 4) f false)) w f.length
    else s

/-- A wire is idle and starts the next frame, where one may start; the cells of the frame before have left. -/
def egressStart (s : State) (w : Nat) : State :=
  let (c, s1) := choose (pauseCheck (pauseCheck s 0) 1) w
  match c with
  | none => mirrorSend s1 w
  | some q => match eqOf s1 q with
    | [] => s1
    | f :: l =>
      let s2 := setEq s1 q l
      let s3 := { s2 with xb := { s2.xb with alt := tput (fun _ => facing w) s2.xb.alt (8 * w + q % 8) (q / 8) } }
      let s4 := sendFrame s3 w q f false false
      if f.inp = 4 ∨ f.inp = 5 then pauseCheck s4 (f.inp - 4) else s4

end Sys2Proof.Machine
end

