-- ==== Sys2Proof/Machine/FryOps.lean ====
section
/-! DEFINITION. Responses of the management target, and the accesses that wait for a far bus (R311, R312, R320 to
R322). -/

namespace Sys2Proof.Machine

/-- Status codes of R314. -/
def scOk : Nat := 0
def scRetry : Nat := 1
def scTargetErr : Nat := 2
def scTimeout : Nat := 3
def scLocked : Nat := 4
def scDenied : Nat := 5
def scResting : Nat := 6
def scNoRoute : Nat := 7
def scBadReq : Nat := 8

/-- Operations of R311. -/
def opRead : Nat := 1
def opWrite : Nat := 2
def opRmw : Nat := 3

/-- The first 20 bytes of a unicast header as the originator gives it: TYPE, class, LEN, DST, DPORT, FLOW (R182). -/
def mHead (type tc len dst dport flow : Nat) : List Byte :=
  [BitVec.ofNat 8 type, BitVec.ofNat 8 (tc * 32)] ++ beBytes 2 len ++ beBytes 2 dst ++ beBytes 4 0 ++
  [BitVec.ofNat 8 (dport * 16), 0] ++ beBytes 2 flow ++ beBytes 6 0

/-- The words of a request or response in wire order (R4). -/
def wordBytes (l : List Nat) : List Byte := l.flatMap (beBytes 4)

/-- The management target answers a request (R311): the answer leaves the target, and goes as MGMT_RSP from ST08 on. -/
def respond (s : State) (hub sport tag op st info : Nat) (data : List Nat) : State :=
  let t := s.emit (.mgmtRsp hub tag st info data)
  let x := beBytes 2 tag ++ [BitVec.ofNat 8 op, BitVec.ofNat 8 st] ++ beBytes 4 info ++ wordBytes data
  if s.sys.loaded then (insertFrame t 3 (mHead tRsp 5 x.length hub sport 0) x (ftNs s)).2 else t

/-- The status with which the source hub itself completes a management request that is inserted, where it does: a request
to hub 0, a read of hub 4,095, one without a route (R15, R186, R189). -/
def sourceStatus (s : State) (h payload : List Byte) (r : Inserted) : Option Nat :=
  if mType h ≠ tReq ∨ mGroup h ∨ !s.sys.loaded then none
  else if mDst h = 0 ∨ (mDst h = 4095 ∧ beNat (slice payload 2 1) = opRead) then some scBadReq
  else if r = .noRoute then some scNoRoute
  else none

/-- A frame from a local port is inserted; a request to hub 0 is not (R15, R186). -/
def insertOr (s : State) (sport : Nat) (h payload : List Byte) : Inserted × State :=
  if mType h = tReq ∧ !mGroup h ∧ mDst h = 0 ∧ s.sys.loaded then (.refused, s) else insertFrame s sport h payload (ftNs s)

/-- A frame from a local port is inserted, and a request that this hub completes itself is answered at that port. -/
def insertLocal (s : State) (sport : Nat) (h payload : List Byte) : State :=
  let r := insertOr s sport h payload
  match sourceStatus s h payload r.1 with
  | none => r.2
  | some st => respond r.2 (rd s SYS_HUB_ID_ID) sport (beNat (slice payload 0 2)) (beNat (slice payload 2 1)) st
      (beNat (slice payload 4 4)) []

/-- A waiting or running access by its number. -/
def reqAt (s : State) (k : Nat) : Option Req := tget (fun _ => none) s.fry.reqs k

/-- An access leaves the bridge. -/
def dropReq (s : State) (k : Nat) : State :=
  { s with fry := { s.fry with reqs := tput (fun _ => none) s.fry.reqs k none } }

/-- An access ends with a status; a broadcast write is never answered (R311, R313). -/
def endReq (s : State) (k st : Nat) (data : List Nat) : State :=
  match reqAt s k with
  | none => s
  | some r =>
    let t := dropReq s k
    if r.quiet then t
    else respond t r.src r.sport r.tag r.op st (if st = scOk then 0 else r.addr) (if st = scOk then data else [])

/-- ns from now to a deadline, modulo 2^32 in signed order (R312). -/
def untilDeadline (s : State) (d : Nat) : Int := modDiff 32 d (ftNs s)

/-- RETRY_MARGIN in ns: 0 acts as 5 µs (R322). -/
def retryMarginNs (s : State) : Nat := (if rd s FRY_CTRL_RETRY_MARGIN = 0 then 5 else rd s FRY_CTRL_RETRY_MARGIN) * 1000

/-- A waiting access is answered RETRY (R322). -/
def retryReq (s : State) (k : Nat) : State :=
  wr (incSat (endReq s k scRetry []) FRY_CNT_RETRY) FRY_EVT_RETRY 1

/-- A request whose deadline has passed before it started is discarded (R312). -/
def expireReq (s : State) : State := wr (incSat s FRY_CNT_EXPIRED) FRY_EVT_EXPIRED 1

/-- What becomes of a request that is about to start on its far bus: discarded after its deadline, answered RETRY where it
has waited into the margin, and none where it may start (R312, R322). -/
def lateStart (s : State) (k : Nat) (r : Req) : Option State :=
  if untilDeadline s r.deadline < 0 then some (expireReq (dropReq s k))
  else if untilDeadline s r.deadline < retryMarginNs s ∧ r.since < ftNs s then some (retryReq s k)
  else none

/-- The request is under way on its channel, or served by the MCU. -/
def reqStarted (s : State) (k : Nat) : Bool :=
  s.fry.lpHeld == some k || (List.range 48).any fun n => (s.chn n).xfer == .ferry k

/-- The requests that wait, oldest first. -/
def reqsWaiting (s : State) : List Nat :=
  (s.fry.reqs.filter fun x => x.2.isSome && !reqStarted s x.1).map (·.1)

/-- A request waits no longer for its far bus. -/
def unqueue (s : State) (k : Nat) : State :=
  let t := each ((List.range 48).filter fun n => (s.chn n).ferry.contains k)
    (fun u n => u.setChn n { u.chn n with ferry := (u.chn n).ferry.filter (· != k) }) s
  { t with fry := { t.fry with lpAsk := if t.fry.lpAsk = some k then none else t.fry.lpAsk } }

/-- Every request that waits completes with RESTING (R363). -/
def restWaiting (s : State) : State := each (reqsWaiting s) (fun t k => endReq (unqueue t k) k scResting []) s

/-- Reads and writes of the local space by hosts: 0 and 1 the core pairs, 2 the management target, 3 the Local
Port (R386, R391). -/
def iniMgmt : Nat := 2
def iniLp : Nat := 3

/-- A command of the management target answers its access; for other initiators a success is silent (R314). -/
def answerMgmt (s : State) (ini st : Nat) : State := if ini = iniMgmt then s.emit (.busRsp ini st 0) else s

end Sys2Proof.Machine
end

