-- ==== Sys2Proof/Machine/ChnXfer.lean ====
section
/-! DEFINITION. Requests, responses, extractors, inserts and the end of a transaction on a serial channel; accesses of
the Ferryman on a channel (R214 to R235, R304 to R306, R320). -/

namespace Sys2Proof.Machine

/-! ## Fields of responses and requests (R229 to R232) -/

/-- A field entry. -/
structure FieldEnt where
  kind : Nat
  le : Bool
  sgn : Bool
  gray : Bool
  ofs : Nat
  bofs : Nat
  width : Nat
  shift : Nat
  word : Nat
  delim : Nat
  field : Nat
  dec : Nat
  mul : Int
  add : Int
  deriving DecidableEq, Repr

/-- A field entry from its four words. -/
def fieldEnt (w0 w1 w2 w3 : Nat) : FieldEnt where
  kind := bits w0 0 2
  le := bitOf w0 2
  sgn := bitOf w0 3
  gray := bitOf w0 4
  ofs := bits w0 10 9
  bofs := bits w0 19 3
  width := bits w0 22 6
  shift := bits w0 28 4
  word := bits w1 0 12
  delim := bits w1 12 8
  field := bits w1 20 4
  dec := bits w1 24 4
  mul := if w2 = 0 then 1 else signed 32 w2
  add := signed 32 w3

/-- A number from its Gray code. -/
def fromGray (g : Nat) : Nat := (List.range 32).foldl (fun x k => x ^^^ g / 2 ^ (k + 1)) g

/-- The raw value of a binary extractor, where its field lies within the response (R230). -/
def binaryRaw (e : FieldEnt) (r : List Byte) : Option Int :=
  let k := (e.bofs + e.width + 7) / 8
  if r.length < e.ofs + k then none
  else
    let bs := slice r e.ofs k
    let v := if e.le then bits (leNat bs) e.bofs e.width else bits (beNat bs) (8 * k - e.bofs - e.width) e.width
    let g := if e.gray then fromGray v else v
    some (if e.sgn then signed e.width g else g)

/-- A decimal digit. -/
def digit (b : Byte) : Option Nat := if 48 ≤ b.toNat ∧ b.toNat ≤ 57 then some (b.toNat - 48) else none

/-- The leading digits of a string: their values, and the rest. -/
def digits : List Byte → List Nat × List Byte
  | [] => ([], [])
  | b :: bs => match digit b with
    | none => ([], b :: bs)
    | some d => let r := digits bs; (d :: r.1, r.2)

/-- The number digits make. -/
def ofDigits (l : List Nat) : Nat := l.foldl (fun n d => 10 * n + d) 0

/-- The string behind n occurrences of a separator. -/
def skipFields (d : Nat) : Nat → List Byte → Option (List Byte)
  | 0, bs => some bs
  | _ + 1, [] => none
  | n + 1, b :: bs => if b.toNat = d then skipFields d n bs else skipFields d (n + 1) bs

/-- The string without leading spaces. -/
def skipSpaces : List Byte → List Byte
  | [] => []
  | b :: bs => if b = 0x20 then skipSpaces bs else b :: bs

/-- The number behind an optional sign, with exactly dec digits after the point. -/
def decimalValue (dec : Nat) (bs : List Byte) : Option Int :=
  let neg := bs.head? == some 0x2D
  let rest := if bs.head? = some 0x2D ∨ bs.head? = some 0x2B then bs.tail else bs
  let (i, tl) := digits rest
  if i.isEmpty then none
  else
    let f := if tl.head? = some 0x2E then (digits tl.tail).1 else []
    let v : Int := ofDigits (i ++ ((f ++ List.replicate dec 0).take dec))
    let x := if neg then -v else v
    if x < -(2 : Int) ^ 63 ∨ (2 : Int) ^ 63 ≤ x then none else some x

/-- The raw value of a decimal extractor (R231). -/
def decimalRaw (e : FieldEnt) (r : List Byte) : Option Int :=
  if r.length ≤ e.ofs then none
  else match skipFields e.delim e.field (r.drop e.ofs) with
    | none => none
    | some bs => decimalValue e.dec (skipSpaces bs)

/-- An integer saturated to 32 bits, signed or not. -/
def sat32 (sgn : Bool) (v : Int) : Int :=
  if sgn then max (-(2 : Int) ^ 31) (min v (2 ^ 31 - 1)) else max 0 (min v (2 ^ 32 - 1))

/-- What an extractor delivers, as the word it writes (R232). -/
def extract (e : FieldEnt) (r : List Byte) : Option Nat :=
  (if e.kind = 1 then decimalRaw e r else binaryRaw e r).map fun raw =>
    wrapTo 32 (sat32 e.sgn (raw * e.mul / 2 ^ e.shift + e.add))

/-- The low-order n decimal digits of a number as characters. -/
def decimalDigits : Nat → Nat → List Byte
  | 0, _ => []
  | n + 1, v => decimalDigits n (v / 10) ++ [BitVec.ofNat 8 (48 + v % 10)]

/-- The bytes an insert writes for a value (R232). -/
def insertBytes (e : FieldEnt) (v : Nat) : List Byte :=
  if e.kind = 3 then
    let x := signed 32 v
    if e.sgn ∧ x < 0 then (0x2D : Byte) :: decimalDigits (e.width - 1) x.natAbs else decimalDigits e.width v
  else if e.le then leBytes (e.width / 8) v else beBytes (e.width / 8) v

/-- A request with an insert written into it. -/
def putInsert (req : List Byte) (e : FieldEnt) (v : Nat) : List Byte :=
  let x := insertBytes e v
  (List.range req.length).map fun k =>
    if e.ofs ≤ k ∧ k < e.ofs + x.length then x.getD (k - e.ofs) 0 else req.getD k 0

/-! ## A transaction's descriptor (R228) -/

/-- A field entry of poll memory. -/
def pmEnt (s : State) (j : Nat) : FieldEnt := fieldEnt (pm s (4 * j)) (pm s (4 * j + 1)) (pm s (4 * j + 2)) (pm s (4 * j + 3))

/-- The field entries of the extractors and of the inserts of a transaction. -/
def xEnts (s : State) (n t : Nat) : List Nat := (List.range (min 16 (desc s n t 6 16 5))).map (desc s n t 6 0 16 + ·)
def iEnts (s : State) (n t : Nat) : List Nat :=
  (List.range (min 4 (desc s n t 6 21 3))).map (desc s n t 6 0 16 + min 16 (desc s n t 6 16 5) + ·)

/-- The template of a transaction. -/
def template (s : State) (n t : Nat) : List Byte :=
  memBytes s (pollBase + 4 * desc s n t 0 16 16) (min 256 (desc s n t 0 0 9))

/-- A word of poll memory a transaction uses has an uncorrectable error (R233). -/
def pollBad (s : State) (n t : Nat) : Bool :=
  let d := 8 * (rd s (CHN_PL2_FIRST n) + t)
  let words := (List.range 8).map (d + ·) ++
    (List.range ((min 256 (desc s n t 0 0 9) + 3) / 4)).map (desc s n t 0 16 16 + ·) ++
    ((xEnts s n t ++ iEnts s n t).flatMap fun j => (List.range 4).map (4 * j + ·))
  words.any fun w => s.bad.contains (6 * 2 ^ 28 + w)

/-- The values of every insert of a channel's list, read from the scratch words (R232). -/
def readInserts (s : State) (n : Nat) : List (Nat × Nat) :=
  (List.range (listLen s n)).flatMap fun t => (iEnts s n t).map fun j => (j, rd s (TRD_SCR_W (pmEnt s j).word))

/-- The request of a transaction before its check value: the template with its inserts. -/
def buildRequest (s : State) (n t : Nat) : List Byte :=
  (iEnts s n t).foldl (fun r j => putInsert r (pmEnt s j) (tget (fun _ => 0) (s.chn n).ins j)) (template s n t)

/-! ## Line errors and the end of a transaction (R226, R233 to R235) -/

/-- A line error is counted. -/
def lineErr (s : State) (n : Nat) : State := wr (incSat s (CHN_CNT_B_LINE_ERR n)) (CHN_EVT_LINE n) 1

/-- No unit of the Assay block is in service (R306). -/
def noUnit (s : State) : State := wr s ASY_EVT_NO_UNIT 1

/-- QUAL codes of a status word. -/
def pOk : Nat := 0
def pRetry : Nat := 1
def pCheck : Nat := 2
def pTimeout : Nat := 4
def pLine : Nat := 5
def pBadchk : Nat := 6
def pParse : Nat := 7
def pCfg : Nat := 8

/-- The run of a list ends: its duration in whole µs (R224). -/
def runEnd (s : State) (n : Nat) : State :=
  let us := min 65535 (roundDiv ((ftNs s : Int) - (s.chn n).runStart) 1000).toNat
  wrs s [(CHN_STAT_BUSY n, 0), (CHN_STAT_CUR n, 0), (CHN_PL_TIME_LAST n, us),
    (CHN_PL_TIME_MAX n, max us (rd s (CHN_PL_TIME_MAX n)))]

/-- The gap after an attempt that another attempt of the run follows (R224). -/
def startGap (s : State) (n : Nat) : State :=
  s.setChn n { s.chn n with xfer := .none, gapTo := ftNs s + rd s (CHN_PL2_TGAP n) * 1000 }

/-- The run goes on to its next transaction, or ends. -/
def nextTransaction (s : State) (n : Nat) : State :=
  let t := rd s (CHN_STAT_CUR n) + 1
  let s1 := startGap s n
  let s2 := s1.setChn n { s1.chn n with tries := 0 }
  if t < listLen s n then wr s2 (CHN_STAT_CUR n) t else runEnd (s2.setChn n { s2.chn n with gapTo := 0 }) n

/-- A failed end is reported (R235). -/
def pollFail (s : State) (n t q : Nat) : State :=
  let s1 := incSat s (CHN_CNT_A_FAIL n)
  if desc s n t 6 31 1 = 1 then raiseOnce (wr s1 (CHN_EVT_POLL_FAIL n) 1) 64 (n + t * 64 + q * 4096) else s1

/-- The extractors of a usable end write their words; the mask of those that delivered. -/
def extractAll (s : State) (es : List FieldEnt) (r : List Byte) : Nat × State :=
  es.zipIdx.foldl (fun (x : Nat × State) p => match extract p.1 r with
    | none => x
    | some v => (x.1 + 2 ^ p.2, x.2.setStg p.1.word v)) (0, s)

/-- The current transaction ends (R233, R234): q its QUAL, r the response of a usable end. -/
def transactionEnd (s : State) (n q : Nat) (r : List Byte) : State :=
  let t := rd s (CHN_STAT_CUR n)
  let sw := swordOf s n t
  let s1 :=
    if q ≤ pCheck then
      let (valid, u) := extractAll s ((xEnts s n t).map (pmEnt s)) r
      u.setStg sw (q + valid * 2 ^ 16)
    else
      let w := txStatus s n t
      pollFail (s.setStg sw (setBits (setBits w 0 4 q) 4 8 (min 255 (bits w 4 8 + 1)))) n t q
  nextTransaction s1 n

/-- An attempt ends with an outcome: a failure is retried until RETRY retries have been made (R226). -/
def attemptDone (s : State) (n q : Nat) (r : List Byte) : State :=
  let c := s.chn n
  if pTimeout ≤ q ∧ q ≤ pParse ∧ c.tries < rd s (CHN_PL_RETRY n) then
    let t := startGap (incSat s (CHN_CNT_A_RETRY n)) n
    t.setChn n { t.chn n with tries := c.tries + 1 }
  else transactionEnd s n q r

/-- The longest response a transaction allows, without its check value. -/
def respLimit (s : State) (n t : Nat) : Nat :=
  let rlen := desc s n t 2 0 10
  if chnMode s n = mSpi then (match (s.chn n).xfer with
    | .attempt sent => sent.length
    | _ => 0)
  else if chnMode s n = mSsi then (modep s n 0 7 + 7) / 8
  else rlen

/-- Response bytes 0 to 3 differ from EXPECT under EXPECT_MASK; missing bytes compare as 0. -/
def expectMiss (s : State) (n t : Nat) (r : List Byte) : Bool :=
  (beNat ((r ++ List.replicate 4 0).take 4) ^^^ desc s n t 4 0 32) &&& desc s n t 5 0 32 != 0

/-- The outcome of a response, its bytes without the check value, and the state after the tests (R226, R305). -/
def judgeResponse (s : State) (n t : Nat) (resp : List Byte) (line : Bool) : Nat × List Byte × State :=
  if line then (pLine, resp, s)
  else if bitOf (desc s n t 3 14 2) 1 ∧ !asyServes s then (pBadchk, resp, noUnit s)
  else
    let (ok, body, s1) := if bitOf (desc s n t 3 14 2) 1 then asyCheck s (desc s n t 3 8 6) resp else (true, resp, s)
    let s2 := if ok then s1 else wr s1 (CHN_EVT_ASY_MIS n) 1
    if !ok ∧ !flag s (CHN_CFG_MIS_FLAG n) then (pBadchk, body, s2)
    else if respLimit s n t < body.length ∨ expectMiss s n t body then (pParse, body, s2)
    else (if !ok then pCheck else if (s.chn n).tries ≠ 0 then pRetry else pOk, body, s2)

/-! ## Starting a transfer (R217 to R219, R221, R225, R226, R304, R306) -/

/-- The levels and times a transfer of len bytes begins with: the chip select of SPI, DE and the last stop bit of UART. -/
def xferBegin (s : State) (n len dev : Nat) (x : Xfer) : State :=
  let now := ftNs s
  let c := { s.chn n with xfer := x, startAt := now, area := [], areaLine := false }
  if chnMode s n = mSpi then csLevel (s.setChn n { c with cs := some dev }) n dev false
  else if chnMode s n = mUart then
    s.setChn n { c with sent := now + bitsNs s n (deLead s n + len * charBits s n), ctsLeft := none }
  else s.setChn n c

/-- A transfer ends: SPI holds the chip select for CS_HOLD, releases it and keeps it high for CS_IDLE; SSI starts none
for MONO (R217, R219). -/
def xferEnd (s : State) (n : Nat) : State :=
  if chnMode s n = mSpi then
    let t := advanceTo s (ftNs s + 4 * modep s n 16 8)
    let u := csLevel t n ((t.chn n).cs.getD 0) true
    u.setChn n { u.chn n with cs := none, idleTo := ftNs t + 4 * modep s n 24 8 }
  else if chnMode s n = mSsi then s.setChn n { s.chn n with idleTo := ftNs s + 1000 * modep s n 8 8 }
  else s

/-- The next attempt of a running list starts, or its transaction ends without one. -/
def startAttempt (s : State) (n : Nat) : State :=
  let t := rd s (CHN_STAT_CUR n)
  let use := desc s n t 3 14 2
  if pollBad s n t then transactionEnd s n pCfg []
  else if use ≠ 0 ∧ !asyServes s then transactionEnd (noUnit s) n pBadchk []
  else
    let req := buildRequest s n t
    let (bs, s1) := if bitOf use 0 then asyAppend s (desc s n t 3 8 6) req else (req, s)
    let dev := if chnMode s n = mSpi then desc s n t 3 16 2
      else if chnMode s n = mI2c then desc s n t 3 18 10 + 1024 * desc s n t 3 28 1
      else if chnMode s n = mUart then modep s n 6 1 else 0
    let read := if chnMode s n = mI2c then desc s n t 2 0 10
      else if chnMode s n = mSsi then (modep s n 0 7 + 7) / 8 else 0
    let all := if chnMode s n = mSpi then bs ++ List.replicate (desc s n t 2 0 10) 0xFF else bs
    (xferBegin s1 n all.length dev (.attempt all)).emit (.chnRequest n all read dev (lineHow s n))

/-- A TX frame is discarded and counted. -/
def txAbort (s : State) (n : Nat) : State := incSat s (CHN_CNT_C_TX_ABORT n)

/-- The head frame of the TX queue starts. -/
def startFrame (s : State) (n : Nat) (f : List Byte) (rest : List (List Byte)) : State :=
  let s0 := s.setChn n { s.chn n with txq := rest }
  let add := bitOf (rd s (CHN_CFG_QUSE n)) 0
  if add ∧ !asyServes s then txAbort (noUnit s0) n
  else
    let (bs, s1) := if add then asyAppend s0 (rd s (CHN_CFG_QCTX n)) f else (f, s0)
    let i2c := chnMode s n = mI2c
    let dev := if i2c then (bs.getD 0 0).toNat % 128 else if chnMode s n = mUart then modep s n 6 1 else 0
    let read := if i2c then (bs.getD 1 0).toNat else 0
    (xferBegin s1 n bs.length (if chnMode s n = mSpi then 0 else dev) (.frame bs)).emit
      (.chnRequest n (if i2c then bs.drop 2 else bs) read dev (lineHow s n))

/-! ## The Ferryman on a channel (R315, R320) -/

/-- The bytes of a word in the order of BSWAP. -/
def swapWord (bswap : Bool) (w : Nat) : List Byte := if bswap then beBytes 4 w else leBytes 4 w

/-- The words of the bytes a window returns. -/
def windowWords (bswap : Bool) (n : Nat) (bs : List Byte) : List Nat :=
  (List.range n).map fun k =>
    let x := slice (bs ++ List.replicate (4 * n) 0) (4 * k) 4
    if bswap then beNat x else leNat x

/-- The channel of an inbound window may carry its accesses. -/
def windowOk (s : State) (v : Nat) : Bool :=
  let n := rd s (FRY_IN0_CH v)
  decide (n < 48) && chnState s n == cRun && (chnMode s n == mSpi || chnMode s n == mI2c)

/-- One part of an access goes out: a read of n words, or a write of words, at the offset of the request. -/
def windowSend (s : State) (r : Req) (write : Bool) (words : List Nat) : State :=
  let v := r.win
  let n := rd s (FRY_IN0_CH v)
  let spi := chnMode s n = mSpi
  let cmd := if spi then [BitVec.ofNat 8 (if write then rd s (FRY_IN1_WR_CMD v) else rd s (FRY_IN1_RD_CMD v))] else []
  let aw := min 4 (rd s (FRY_IN0_AW v))
  let data := if write then words.flatMap (swapWord (flag s (FRY_IN0_BSWAP v))) else []
  let dev := if spi then rd s (FRY_IN0_CS v) else rd s (FRY_IN0_ADDR v) + 1024 * rd s (FRY_IN0_ADDR10 v)
  s.emit (.chnRequest n (cmd ++ beBytes aw r.off ++ data) (if write then 0 else 4 * r.count) dev (lineHow s n))

/-- An access starts on its channel. -/
def startFerry (s : State) (n k : Nat) (rest : List Nat) : State :=
  let s0 := s.setChn n { s.chn n with ferry := rest }
  match reqAt s k with
  | none => s0
  | some r =>
    if !windowOk s r.win then endReq s0 k scTargetErr []
    else match lateStart s0 k r with
    | some t => t
    | none =>
      let s1 := xferBegin s0 n 0 (rd s (FRY_IN0_CS r.win)) (.ferry k)
      windowSend (s1.setChn n { s1.chn n with lock := none }) r (r.op == opWrite) r.data

/-- The transfer of an access ends: bytes read, whether a line error ended it. SPI signals no error. -/
def ferryEnd (s : State) (n k : Nat) (resp : List Byte) (line : Bool) : State :=
  let free (t : State) : State := (xferEnd t n).setChn n { (xferEnd t n).chn n with xfer := .none, lock := none }
  match reqAt s k with
  | none => free s
  | some r =>
    if line ∧ chnMode s n = mI2c then endReq (free (lineErr s n)) k scTargetErr []
    else if r.op = opWrite then endReq (free s) k scOk []
    else
      let ws := windowWords (flag s (FRY_IN0_BSWAP r.win)) r.count resp
      if r.op = opRead then endReq (free s) k scOk ws
      else match (s.chn n).lock with
        | some old => endReq (free s) k scOk [old]
        | none =>
          let old := ws.getD 0 0
          let t := s.setChn n { s.chn n with lock := some old }
          windowSend t r true [rmwWord old r.mask (r.data.getD 0 0)]

/-- Every access that waits for a channel, or runs on it, ends as TARGET_ERR: the channel is not in RUN (R320). -/
def ferryStop (s : State) (n : Nat) : State :=
  let c := s.chn n
  let run := match c.xfer with
    | .ferry k => [k]
    | _ => []
  let t := (run ++ c.ferry).foldl (fun u k => endReq u k scTargetErr []) s
  t.setChn n { t.chn n with ferry := [], lock := none }

/-! ## Received queue frames (R222, R223, R305) -/

/-- A number of received bytes or frames is discarded. -/
def rxDrop (s : State) (n k : Nat) : State := addSat s (CHN_CNT_C_RX_DROP n) k

/-- A received frame is checked and stored, or discarded. -/
def rxStore (s : State) (n ns : Nat) (bs : List Byte) (trunc line : Bool) : State :=
  let chk := bitOf (rd s (CHN_CFG_QUSE n)) 1
  if chk ∧ !asyServes s then rxDrop (noUnit s) n 1
  else
    let (ok, body, s1) := if chk then asyCheck s (rd s (CHN_CFG_QCTX n)) bs else (true, bs, s)
    let s2 := if ok then s1 else wr s1 (CHN_EVT_ASY_MIS n) 1
    if !ok ∧ !flag s (CHN_CFG_MIS_FLAG n) then rxDrop s2 n 1
    else if rxSize s2 n < rxUsed s2 n + queued body.length then wr (rxDrop s2 n 1) (CHN_EVT_RXQ_OVF n) 1
    else s2.setChn n { s2.chn n with rxq := (s2.chn n).rxq ++ [⟨body, ns, !ok, trunc, line⟩], seen := true }

/-- The RX frame that is partly received ends: it is stored, truncated at RX_MAX (R222). -/
def partEnd (s : State) (n : Nat) : State :=
  match (s.chn n).part with
  | none => s
  | some (ns, bs, line) =>
    let m := rd s (CHN_RXEND_RX_MAX n)
    rxStore (s.setChn n { s.chn n with part := none }) n ns (bs.take m) (decide (m < bs.length)) line

/-- A received character, its start bit at an FT in ns, joins the frame that is partly received, which ends under END
0 and 1 (R216, R222): bit 8 is the ninth bit, bit 9 a line error. A byte addressed to another station is discarded. -/
def rxChar (s : State) (n ns ch : Nat) : State :=
  let s := if bitOf ch 9 then lineErr s n else s
  let filt := modep s n 7 1 = 1
  let first := decide filt && bitOf ch 8
  let other := decide filt && (if bitOf ch 8 then decide (ch % 256 ≠ modep s n 24 8) else (s.chn n).other)
  let s := if first then partEnd s n else s
  if other then s.setChn n { s.chn n with other := true }
  else if !flag s (CHN_CFG_RXQ_EN n) then rxDrop (s.setChn n { s.chn n with other := false }) n 1
  else
    let (t0, bs, line) := (s.chn n).part.getD (ns, [], false)
    let m := rd s (CHN_RXEND_RX_MAX n)
    let all := (bs ++ [BitVec.ofNat 8 ch]).take (m + 1)
    let t := s.setChn n { s.chn n with other := false, part := some (t0, all, line || bitOf ch 9) }
    if (rd s (CHN_RXEND_END n) = 0 ∧ m ≤ all.length) ∨
       (rd s (CHN_RXEND_END n) = 1 ∧ ch % 256 = rd s (CHN_RXEND_DELIM n)) then partEnd t n else t

/-! ## The end of a UART response, and the bits of SSI (R219, R226, R228) -/

/-- The length that the length field of a response gives, where it has been received (R228). -/
def lenField (s : State) (n t : Nat) (r : List Byte) : Option Int :=
  let ofs := desc s n t 2 18 8
  let w := 1 + desc s n t 2 26 1
  if r.length < ofs + w then none else some (beNat (slice r ofs w) + signed 8 (desc s n t 3 0 8))

/-- A LENGTH transaction that expects no response (R228). -/
def noAnswer (s : State) (n t : Nat) : Bool := desc s n t 1 16 2 = 0 && desc s n t 2 0 10 = 0

/-- END is met by the bytes received; GAP by the idle time behind them (R226, R228). A LENGTH response carries its check
value beside its RLEN bytes (log entry 121). -/
def endMet (s : State) (n t : Nat) (r : List Byte) : Bool :=
  match desc s n t 1 16 2 with
  | 0 => decide (desc s n t 2 0 10 + (if bitOf (desc s n t 3 14 2) 1 then asyLen s (desc s n t 3 8 6) else 0) ≤ r.length)
  | 1 => r.contains (BitVec.ofNat 8 (desc s n t 1 18 8))
  | 2 => !r.isEmpty
  | _ => match lenField s n t r with
    | none => false
    | some k => decide (k ≤ r.length)

/-- FT in ns at which TMO is over (R226, R228). -/
def tmoAt (s : State) (n : Nat) (since : Nat) : Nat := since + 1000 * max 1 (desc s n (rd s (CHN_STAT_CUR n)) 1 0 16)

/-- Bytes of a UART response arrive: END ends the attempt, at TMO it ends as TIMEOUT, else it goes on (R226). What is
received while DE is asserted is ignored (R216). -/
def collect (s : State) (n : Nat) (bs : List Byte) (line : Bool) : State :=
  let t := rd s (CHN_STAT_CUR n)
  if (s.chn n).ctsLeft.isSome then s
  else if noAnswer s n t then attemptDone (advanceTo s (s.chn n).sent) n (if (s.chn n).tries = 0 then pOk else pRetry) []
  else if deOn s n then s
  else
    let s1 := if line then lineErr s n else s
    let area := (s1.chn n).area ++ bs
    let bad := (s1.chn n).areaLine || line
    let met := endMet s1 n t area
    let fin := if desc s n t 1 16 2 = 2 ∧ met then ftNs s + bitsNs s n (desc s n t 2 10 8 * charBits s n / 2) else ftNs s
    if tmoAt s n (s.chn n).sent < fin then attemptDone (advanceTo s1 (tmoAt s n (s.chn n).sent)) n pTimeout []
    else if met then
      let (q, body, u) := judgeResponse (advanceTo s1 fin) n t area bad
      attemptDone u n q body
    else s1.setChn n { s1.chn n with area := area, areaLine := bad }

/-- The bits an SSI transfer stores: the unused bits of the last byte are 0 (R219). -/
def ssiBits (k : Nat) (r : List Byte) : List Byte :=
  beBytes ((k + 7) / 8) (beNat (r.take ((k + 7) / 8)) / 2 ^ ((8 - k % 8) % 8) * 2 ^ ((8 - k % 8) % 8))

/-- The event payload of a received frame (R223). -/
def chnEvent (n : Nat) (f : RxFrame) : List Byte :=
  [0x01, BitVec.ofNat 8 n] ++ beBytes 2 f.bytes.length ++ beBytes 8 f.ns ++
  beBytes 2 (natOf f.check + 2 * natOf f.trunc + 4 * natOf f.line) ++ beBytes 2 0 ++ f.bytes

/-- Firmware sends an EVENT frame of TC4; to hub 0 it is discarded (R223, R252, R179). -/
def sendEvent (s : State) (hub dport flow : Nat) (payload : List Byte) : State :=
  if hub = 0 then s else (insertFrame s 4 (mHead tEvent 4 payload.length hub dport flow) payload (ftNs s)).2

/-- A channel's run starts at P4 where its list is due, or the due run is skipped (R224, R227, R232). -/
def pollDue (s : State) (n : Nat) (tick : Int) : State :=
  let per : Int := max 1 (rd s (CHN_PL_PERIOD n))
  if listLen s n = 0 ∨ chnState s n ≠ cRun ∨ !running s ∨ chnMode s n = 0 ∨ chnMode s n = mCan ∨
     (tick - rd s (CHN_PL_PHASE n)) % per ≠ 0 then s
  else if flag s (CHN_STAT_BUSY n) then wr (incSat s (CHN_CNT_B_OVERRUN n)) (CHN_EVT_OVERRUN n) 1
  else
    let t := s.setChn n { s.chn n with ins := readInserts s n, runStart := ftNs s, gapTo := 0, tries := 0 }
    wrs t [(CHN_STAT_BUSY n, 1), (CHN_STAT_CUR n, 0)]

/-- A STOPPING channel comes to IDLE, its pins and chip-select lines at their idle levels: what it has in progress is
abandoned or discarded (R236, R237). -/
def chnPark (s : State) (n : Nat) : State :=
  let partTx := match (s.chn n).xfer with
    | .frame _ => true
    | _ => false
  let s0 := if partTx then txAbort s n else s
  let s1 := ferryStop (if (s.chn n).part.isSome then rxDrop s0 n 1 else s0) n
  let s2 := s1.setChn n { s1.chn n with
    xfer := .none, tries := 0, gapTo := 0, ins := [], area := [], areaLine := false, part := none, other := true, sent := 0,
    ctsLeft := none, cs := none, pins := idlePins s n }
  csHold (wrs s2 [(CHN_STAT_STATE n, cIdle), (CHN_STAT_BUSY n, 0), (CHN_STAT_CUR n, 0), (CHN_EVT_STOPPED n, 1)]) n false

/-- A STOPPING channel comes to IDLE; a latched ENABLE applies, and it runs where it may (R236, R238). -/
def chnIdle (s : State) (n : Nat) : State :=
  let t := chnPark s n
  chnGo (if flag t (CHN_STAT_PEND_ON n) then wrs t [(CHN_STAT_PEND_ON n, 0), (CHN_STAT_DIS n, 0)] else t) n

end Sys2Proof.Machine
end

