-- ==== Sys2Proof/Machine/AsyCmd.lean ====
section
/-! DEFINITION. The commands of the Assay block (R300 to R303, R307, R308). -/

namespace Sys2Proof.Machine

/-- A channel in RUN or STOPPING that uses a context (R302, R303). -/
def ctxBusy (s : State) (c : Nat) : Bool :=
  (List.range 48).any fun n =>
    (chnState s n == cRun || chnState s n == cStopping) &&
    ((rd s (CHN_CFG_QUSE n) != 0 && rd s (CHN_CFG_QCTX n) == c) ||
     (List.range (listLen s n)).any fun t => desc s n t 3 14 2 != 0 && desc s n t 3 8 6 == c)

/-- A software feed of bytes into the context of ASY_FW_CTX (R300, R302, R303, R306). -/
def softFeed (s : State) (ini : Nat) (bs : List Byte) : State :=
  let c := rd s ASY_FW_CTX_CTX
  if !flag s (ASY_CTX_CFG_OWN c) then answerMgmt s ini scDenied
  else if !asyServes s then answerMgmt (noUnit s) ini scOk
  else answerMgmt (wr s (ASY_CTX_VAL_VAL c) (asyBytes s c (rd s (ASY_CTX_VAL_VAL c)) bs)) ini scOk

/-- ASY_FEED_B (R300). -/
def execAsyFeedB (ini v : Nat) (s : State) : Out := .next (whenAlive s fun s => softFeed s ini (leBytes 1 v))

/-- ASY_FEED_H (R300): bits [7:0] first. -/
def execAsyFeedH (ini v : Nat) (s : State) : Out := .next (whenAlive s fun s => softFeed s ini (leBytes 2 v))

/-- ASY_FEED_W (R300): bits [7:0] first. -/
def execAsyFeedW (ini v : Nat) (s : State) : Out := .next (whenAlive s fun s => softFeed s ini (leBytes 4 v))

/-- VAL of a context takes a value, or the write is refused (R303). -/
def valWrite (s : State) (ini c v : Nat) : State :=
  if 64 ≤ c ∨ (!flag s (ASY_CTX_CFG_OWN c) ∧ ctxBusy s c) then answerMgmt s ini scDenied
  else answerMgmt (wr s (ASY_CTX_VAL_VAL c) (asyVal s c v)) ini scOk

/-- ASY_START (R302, R303): VAL takes INIT. -/
def execAsyStart (ini c : Nat) (s : State) : Out := .next (whenAlive s fun s => valWrite s ini c (asyInit s c))

/-- ASY_VAL_WRITE (R303): the write takes effect at its high word. -/
def execAsyValWrite (ini c v : Nat) (s : State) : Out := .next (whenAlive s fun s => valWrite s ini c v)

/-- Unit u is in service. -/
def unitServes (s : State) (u : Nat) : Bool := !rdBit s ASY_STATUS_FAILED u

/-- A self-check of unit u ends: passed, or the unit leaves service and ASY_SELFCHK is raised (R307, R308). -/
def checkEnd (s : State) (u : Nat) (ok : Bool) : State :=
  let s0 := wr s ASY_STATUS_SC_RUN 0
  if ok then incWrap (wrBit s0 ASY_STATUS_FAILED u false) ASY_SC_CNT_PASS
  else
    let t := wr (wrBit s0 ASY_STATUS_FAILED u true) ASY_EVT_SELFCHK 1
    raise t 104 (rd t ASY_STATUS_FAILED)

/-- A self-check of unit u under way ends, or yields to a feed that finds no free unit (R307). -/
def checkRun (s : State) (u : Nat) (ok yielded : Bool) : State :=
  let s0 := wr s ASY_STATUS_SC_UNIT u
  if yielded then { incSat (wr s0 ASY_STATUS_SC_RUN 0) ASY_SC_CNT_YIELD with asyRetry := true, asyNext := u }
  else checkEnd { s0 with asyRetry := false, asyNext := (u + 1) % 16 } u ok

/-- SELF_CHECK (R307): the next unit in service, in ascending order; its result; whether it yields to a feed. -/
def execSelfCheck (ok yielded : Bool) (s : State) : Out := .next <| whenAlive s fun s =>
  if !flag s ASY_CTRL_SC_EN ∨ s.asyRetry then s
  else match ((List.range 16).map fun k => (s.asyNext + k) % 16).find? (unitServes s) with
    | none => s
    | some u => checkRun s u ok yielded

/-- SELF_CHECK_RETRY (R307): 1 ms after the unit yielded, unless it has left service since. -/
def execSelfCheckRetry (ok yielded : Bool) (s : State) : Out := .next <| whenAlive s fun s =>
  if !flag s ASY_CTRL_SC_EN ∨ !s.asyRetry then s
  else if unitServes s s.asyNext then checkRun s s.asyNext ok yielded
  else { s with asyRetry := false }

/-- ASY_RETEST (R308): a self-check of the named unit. -/
def execAsyRetest (u : Nat) (ok : Bool) (s : State) : Out := .next <| whenAlive s fun s =>
  if u < 16 then checkEnd (wr s ASY_STATUS_SC_UNIT u) u ok else s

end Sys2Proof.Machine
end

