-- ==== Sys2Proof/Machine/Bell.lean ====
section
/-! DEFINITION. The commands of fabric time: medians, the references of an origin, capture and trigger units, PPS
(R117 to R133). -/

namespace Sys2Proof.Machine

/-- A list of samples in ascending order. -/
def sortedIns (x : Int) : List Int → List Int
  | [] => [x]
  | y :: l => if x ≤ y then x :: y :: l else y :: sortedIns x l

/-- The median of a list, in units of 2^-17 ns; an even count takes the mean of the two middle values (R122). -/
def median (l : List Int) : Option Int :=
  let v := l.foldr sortedIns []
  if v = [] then none
  else if v.length % 2 = 1 then v[v.length / 2]?
  else some ((v.getD (v.length / 2 - 1) 0 + v.getD (v.length / 2) 0) / 2)

/-- |x| is at least n ns. -/
def atLeast (x : Int) (n : Nat) : Bool := decide ((n * nsSample : Nat) ≤ x.natAbs)
/-- |x| exceeds n ns. -/
def beyond (x : Int) (n : Nat) : Bool := decide ((n * nsSample : Nat) < x.natAbs)

/-- Entry to LOCKED (R124). -/
def toLocked (s : State) : State :=
  let t := setQ (wrs s [(BELL_STATUS_STATE, lLocked), (BELL_EVT_LOCK, 1)]) true false
  { t with bell := { t.bell with good := 0, bad := 0 } }

/-- Lock is lost to ACQUIRE (R124). -/
def loseLock (s : State) (hold : Bool) : State := unlock (setQ (toAcquire s) false hold)

/-- The transition a median drives, before the servo takes it (R124; log entry 31). -/
def followState (s : State) (x : Int) : State :=
  let st := bellState s
  let hq := flag s BELL_PPS_CTRL_HOLDOVER_Q
  if st = lFree then toAcquire s
  else if st = lAcquire then
    let g := if atLeast x 50 then 0 else s.bell.good + 1
    if 8 ≤ g then toLocked s else { s with bell := { s.bell with good := g } }
  else if st = lLocked then
    let b := if atLeast x 100 then s.bell.bad + 1 else 0
    if 4 ≤ b then loseLock s hq else { s with bell := { s.bell with bad := b } }
  else if st = lHoldover then (if atLeast x 50 then loseLock s false else toLocked s)
  else s

/-- A follower steps by minus the second median beyond STEP_THR, in the cycle after the one in which the median is formed
(R125). The cause word takes the step in ns rounded down (DESIGN CHOICE, log entry 120: the spec gives no rounding). -/
def followStep (s : State) (x : Int) : State :=
  let s := advance s 1
  let wasLocked := bellState s = lLocked
  let s1 := setQ (toAcquire s) false (flag s BELL_PPS_CTRL_HOLDOVER_Q)
  let s2 := raise s1 33 (stepCause (-x / nsSample))
  let s3 := if wasLocked then unlock s2 else s2
  bellStep s3 (-x * 2 ^ 31)

/-- A median at a follower: the step, or the transition and the servo (R122 to R125). A median beyond the 32 bits of
BELL_OFFSET wraps modulo 2^32 there (DESIGN CHOICE, log entry 120: the spec says neither wrap nor saturation); the servo
takes it whole. -/
def followMedian (s : State) (x : Int) : State :=
  let s1 := wrI s BELL_OFFSET_OFS (roundDiv x (2 ^ 13))
  let big := if beyond x (stepThr s) then s.bell.big + 1 else 0
  if 2 ≤ big then followStep s1 x
  else
    let s2 := followState s1 x
    servo { s2 with bell := { s2.bell with big := big } } x (rd s TRN_TLAP_NS)

/-- A lap that ends without a median (R124). -/
def followNone (s : State) : State :=
  let s1 := { s with bell := { s.bell with big := 0 } }
  if bellState s = lLocked then
    let s2 := wrs s1 [(BELL_STATUS_STATE, lHoldover), (BELL_EVT_HOLDOVER, 1), (BELL_PPS_CTRL_HOLDOVER_Q, 1)]
    servoHold { s2 with bell := { s2.bell with unlocked := false } }
  else s1

/-- The counts of R117 at the end of a lap, and the sample fields of BELL_STATUS. -/
def lapCounts (s : State) : State :=
  let l := s.bell.samples
  let a := l.any fun p => p.1 < 2
  wrs { s with bell := { s.bell with
          samples := [], leadSeen := false
          noA := if a then 0 else s.bell.noA + 1
          noLead := if s.bell.leadSeen then 0 else s.bell.noLead + 1 } }
    [(BELL_STATUS_NSAMP, l.length), (BELL_STATUS_USED, maskOf 4 fun t => l.any fun p => p.1 == t)]

/-- The hub's own lap boundary at the Bellman: an origin takes no samples (R117, R122), and the servo does not run before
ST10 (R21, R138). -/
def lapEnd (s : State) : State :=
  let s1 := lapCounts s
  let s2 := if bellState s = lOrigin ∨ rd s SYS_STEP_STEP < 10 then s1
    else match median (s.bell.samples.map (·.2)) with
      | none => followNone s1
      | some x => followMedian s1 x
  bellSettle (originSettle s2)

/-- FOLLOWER_LAP_MEDIAN (R122). -/
def execFollowerLapMedian (s : State) : Out := .next <| whenAlive s fun s =>
  let t := toBoundary s (tLap s) s.bell.lastMed
  lapEnd { t with bell := { t.bell with lastMed := some (lapNow t) } }

/-- HOLDOVER_TIMEOUT (R124). -/
def execHoldoverTimeout (s : State) : Out := .next <| whenAlive s fun s =>
  if bellState s = lHoldover ∧ !s.bell.unlocked then
    bellSettle (unlock (setQ { s with bell := { s.bell with unlocked := true } } false true))
  else s

/-- The hub has not reached ST14 (R118, R133). -/
def beforeSt14 (s : State) : Bool := hubState s = stStart || hubState s = stJoining

/-- EXT_LOCKED after 8 consecutive samples within ±50 ns, until 4 at ±100 ns or more (R124). -/
def extLock (s : State) (x : Int) : State :=
  let g := if beyond x 50 then 0 else s.bell.extGood + 1
  let b := if atLeast x 100 then s.bell.extBad + 1 else 0
  let t := { s with bell := { s.bell with extGood := g, extBad := b } }
  if 8 ≤ g then wr t BELL_STATUS_EXT_LOCKED 1
  else if 4 ≤ b then wr t BELL_STATUS_EXT_LOCKED 0
  else t

/-- A reference sample at an origin (R118, R123, R133): a step before ST14 (log entry 32), otherwise the servo. EXT_LOCKED
counts every sample (R124). EXT_STEP_PEND and source 33 come with the second sample in a row beyond STEP_THR and not again
while the run lasts (DESIGN CHOICE, log entry 120: the spec does not say). -/
def refSample (s : State) (x : Int) (tNs : Nat) : State :=
  let s1 := wrI s BELL_OFFSET_OFS (roundDiv x (2 ^ 13))
  let big := if beyond x (stepThr s) then s.bell.extBig + 1 else 0
  let s2 := extLock { s1 with bell := { s1.bell with extBig := big } } x
  if beforeSt14 s ∧ 0 < big then
    bellSettle (bellStep (raise s2 33 (stepCause (-x / nsSample))) (-x * 2 ^ 31))
  else
    let s3 := if big = 2 then raise (wr s2 BELL_EVT_EXT_STEP_PEND 1) 33 (stepCause (x / nsSample)) else s2
    bellSettle (servo s3 x tNs)

/-- BELL_EXT_OFS (R123): the first write has no previous one to measure T from, so T is a free value in its range. A step
between two writes is no part of the interval. -/
def execBellExtOfs (ofs : Int) (s : State) : Out := .next <| whenAlive s fun s =>
  if bellState s = lOrigin ∧ rd s BELL_CTRL_SRC = 2 then
    let t := match s.bell.lastExt with
      | some p => (((s.clk.ft.toNat : Int) - p) / 2 ^ 48).toNat
      | none => freeOf s 31
    let u := match s.bell.lastExt with
      | some _ => s
      | none => s.used
    refSample { u with bell := { u.bell with lastExt := some (s.clk.ft.toNat : Int) } } (ofs * 2 ^ 13)
      (max 1000000 (min 2000000000 t))
  else s

/-- BELL_STEP, the managed step at an origin, at the next CLK_CORE cycle (R118). -/
def execBellStep (ns : Int) (s : State) : Out := .next <| whenAlive s fun s =>
  if bellState s = lOrigin then bellStep (advance s 1) (ns * 2 ^ 48) else s

/-- The next whole second of FT at a time in ns × 2^16: the first one not before it (R133; log entry 33). -/
def nextSecond (t : Nat) : Nat := (t + (1000000000 * 2 ^ 16 - 1)) / (1000000000 * 2 ^ 16)

/-- PPS_IN_EDGE (R127, R133). -/
def execPpsInEdge (dt : Nat) (s : State) : Out := .next <|
  let s := advance s dt
  whenAlive s fun s =>
    let e := stampNow s true
    let s1 := capEdge s 96 e
    if bellState s = lOrigin ∧ rd s BELL_CTRL_SRC = 1 then
      let t := e.ns * 2 ^ 16 + e.frac
      let sec := if s.bell.secSet then rd s BELL_PPSIN_SEC_SEC else nextSecond t
      refSample { s1 with bell := { s1.bell with secSet := false, ppsMiss := false } }
        (((t : Int) - (sec * 1000000000 * 2 ^ 16 : Nat)) * 2) 1000000000
    else s1

/-- PPSIN_MISS (R133). -/
def execPpsinMiss (s : State) : Out := .next <| whenAlive s fun s =>
  if bellState s = lOrigin ∧ rd s BELL_CTRL_SRC = 1 then
    servoHold (wr { s with bell := { s.bell with ppsMiss := true } } BELL_EVT_PPSIN_MISS 1)
  else s

/-- CAPTURE_EDGE (R127). -/
def execCaptureEdge (dt n : Nat) (rise : Bool) (s : State) : Out := .next <|
  let s := advance s dt
  whenAlive s fun s =>
    if n < 32 ∧ capTakes (rd s (BELL_CAP_CTRL_EDGE n)) (rd s (BELL_CAP_CTRL_SRC n)) rise then
      capPush s n (stampNow s rise)
    else s

/-- CAPTURE_POP (R127). -/
def execCapturePop (n : Nat) (s : State) : Out := .next <| whenAlive s fun s =>
  if n < 32 then capPop s n else s

/-- TRIGGER_ARM (R128, R131). -/
def execTriggerArm (owner n t : Nat) (s : State) : Out := .next <| whenAlive s fun s => trgArmBy s owner n t

/-- FT at which an armed trigger is due, as a time in ns no earlier than now. -/
def trgTime (s : State) (n : Nat) : Nat :=
  let t := rd s (BELL_TRG_T_T n)
  if due40 t (ftNs s) then ftNs s else ftNs s + dist40 t (ftNs s)

/-- TRIGGER_FIRE (R129). -/
def execTriggerFire (n : Nat) (s : State) : Out := .next <| whenAlive s fun s =>
  if n < 32 ∧ flag s (BELL_TRG_CTRL_ARMED n) then trgFire (advanceTo s (trgTime s n)) n else s

/-- PULSE_END: WIDTH cycles after the fire (R129). -/
def execPulseEnd (n : Nat) (s : State) : Out := .next <| whenAlive s fun s =>
  match tget (fun _ => none) s.bell.pulses n with
  | none => s
  | some (tgt, cyc) =>
    let s := advance s (cyc - s.clk.cyc)
    let t := { s with bell := { s.bell with pulses := tput (fun _ => none) s.bell.pulses n none } }
    if tgt < 96 then lineAct t tgt (1 + n) .clear else t

/-- TRIGGER_DISARM (R129, R131): the fire of the same cycle wins. -/
def execTriggerDisarm (owner n : Nat) (s : State) : Out := .next <| whenAlive s fun s =>
  if n < 32 ∧ rd s (BELL_TRG_CTRL_OWNER n) = owner then
    if flag s (BELL_TRG_CTRL_ARMED n) && due40 (rd s (BELL_TRG_T_T n)) (ftNs s) then trgFire s n
    else wr s (BELL_TRG_CTRL_ARMED n) 0
  else s

/-- PPS_PERIOD in ns: below 1,000 acts as 1,000 (R132). -/
def ppsPeriod (s : State) : Nat := max 1000 (rd s BELL_PPS_PERIOD_NS)

/-- The next PPS instant at or after now (R132). -/
def ppsInstant (s : State) : Nat :=
  let p := ppsPeriod s
  ftNs s + (p + rd s BELL_PPS_PHASE_NS % p - ftNs s % p) % p

/-- The width of PPS_OUT in ns (R132). -/
def ppsWidth (s : State) : Nat :=
  let w := max 1 (rd s BELL_PPS_CTRL_WIDTH) * 1000
  if ppsPeriod s ≤ w then ppsPeriod s / 2 else w

/-- PPS_OUT_PULSE (R132): the ring domain drives it, in a hub-domain reset too. -/
def execPpsOutPulse (s : State) : Out := .next <|
  if s.rst.busy && s.rst.full then s
  else
    let t := advanceTo s (ppsInstant s)
    if ppsOk t then { t with ppsOut := true, ppsRise := t.clk.ft.toNat } else { t with ppsOut := false }

/-- PPS_OUT_END: WIDTH µs after the rise (R132). -/
def execPpsOutEnd (s : State) : Out := .next <|
  if s.ppsOut then { advanceTo s (s.ppsRise / 2 ^ 48 + ppsWidth s).toNat with ppsOut := false } else s

end Sys2Proof.Machine
end

