-- ==== Sys2Proof/Machine/Brn.lean ====
section
/-! DEFINITION. The commands of the branches and of the D2D link (R11, R12, R280 to R295, R401). The BPD acts through
every hub-domain reset (R291). -/

namespace Sys2Proof.Machine

/-- A trip in the hold of a Resole activation sets HELD_TRIP; its report waits, as it does while the link is lost (R291). -/
def heldMark (s : State) (n : Nat) : State :=
  let t := if s.rst.hold then wr s (BRN_EVT_HELD_TRIP n) 1 else s
  if s.rst.hold ∨ s.rst.d2dHubLost then t.setBrn n { t.brn n with heldTrip := true } else t

/-- The trips that waited are reported for the branches that have latched off (R291). -/
def heldTrips (s : State) : State :=
  let l := (those 16 fun n => (s.brn n).heldTrip && brnState s n == bLatchedOff).map fun n =>
    (88 + n, rdW s (BRN_EVT_TRIP_FAST n).addr % 512)
  raiseAll (each (List.range 16) (fun t n => t.setBrn n { t.brn n with heldTrip := false }) s) l

/-- A trip: recorded, counted, and the way on by E and the retries left (R283, R287). -/
def brnTrip (s : State) (n : Nat) (ev : Fld) (eFall : Bool) : State :=
  let s1 := wrs s [(ev, 1), (BRN_STAT_PG n, 0)]
  let s2 := incSat s1 (BRN_CNT_TRIPS n)
  let s3 := if eFall then wr s2 (BRN_STAT_E n) 0 else s2
  let s4 := heldMark s3 n
  if !flag s4 (BRN_STAT_E n) then wr s4 (BRN_STAT_STATE n) bDischarge
  else if rd s4 (BRN_STAT_RCNT n) < (s4.brn n).cfg.retries then
    wrs s4 [(BRN_STAT_STATE n, bRetryWait), (BRN_STAT_RCNT n, rd s4 (BRN_STAT_RCNT n) + 1)]
  else
    let s5 := brnRest (wrs s4 [(BRN_STAT_STATE n, bLatchedOff), (BRN_EVT_LATCHED n, 1)]) n
    if s.rst.hold ∨ s.rst.d2dHubLost then s5 else raise s5 (88 + n) (rdW s5 (BRN_EVT_TRIP_FAST n).addr % 512)

/-- A trip in SOFT_OFF: hard off, counted, no retry used (R283). -/
def softTrip (s : State) (n : Nat) (ev : Fld) : State :=
  heldMark (incSat (wrs s [(ev, 1), (BRN_STAT_STATE n, bDischarge)]) (BRN_CNT_TRIPS n)) n

/-- Entry to ON: the fault timer is 0 and PG qualification begins (R283, R285). -/
def brnToOn (s : State) (n : Nat) : State :=
  brnLimit ((wrs s [(BRN_STAT_STATE n, bOn), (BRN_STAT_PG n, 0), (BRN_FTIMER_ACC n, 0)]).setBrn n { s.brn n with fault := 0 })
    n 0 0

/-- BRANCH_ENABLE_CHANGE (R282). -/
def execBranchEnableChange (n : Nat) (s : State) : Out := .next (if n < 16 then brnFollow s n else s)

/-- INSERTION_TIMER (R283, R286): the gate rises under the fold-back of the latest voltages. -/
def execInsertionTimer (n : Nat) (s : State) : Out := .next <|
  if n < 16 ∧ brnState s n = bInsert ∧ flag s (BRN_STAT_BUS_OK n) then
    brnLimit (incWrap (wr s (BRN_STAT_STATE n) bRamp) (BRN_CNT_STARTS n)) n (2 * rd s (BRN_MEAS_V_V_BUS n))
      (2 * rd s (BRN_MEAS_V_V_OUT n))
  else s

/-- RAMP_COMPLETE (R283). -/
def execRampComplete (n : Nat) (s : State) : Out := .next <|
  if n < 16 ∧ brnState s n = bRamp then brnToOn s n else s

/-- START_TIMEOUT (R283, R287): completion in the same cycle wins. -/
def execStartTimeout (n : Nat) (done : Bool) (s : State) : Out := .next <|
  if n < 16 ∧ brnState s n = bRamp then
    if done then brnToOn s n else brnTrip s n (BRN_EVT_TRIP_START n) false
  else s

/-- The bus window of a branch as a coincident change leaves it (R287). -/
def busLeaves (s : State) (n : Nat) (busOut : Bool) : State := if busOut then wr s (BRN_STAT_BUS_OK n) 0 else s

/-- FAST_TRIP (R281, R283, R287). -/
def execFastTrip (n : Nat) (eFall busOut : Bool) (s : State) : Out := .next <|
  if 16 ≤ n then s
  else if brnState s n = bRamp ∨ brnState s n = bOn then
    busLeaves (brnTrip s n (BRN_EVT_TRIP_FAST n) eFall) n busOut
  else if brnState s n = bSoftOff then busLeaves (softTrip s n (BRN_EVT_TRIP_FAST n)) n busOut
  else s

/-- The limit comparator is active: PG drops, and a drop in ON sets PG_LOST (R287, R288). -/
def limitOn (s : State) (n : Nat) : State :=
  let t := wr s (BRN_STAT_LIMIT n) 1
  if flag s (BRN_STAT_PG n) then wrs t [(BRN_STAT_PG n, 0), (BRN_EVT_PG_LOST n, 1)] else t

/-- LIMIT_ENTRY (R287). -/
def execLimitEntry (n : Nat) (s : State) : Out := .next (if n < 16 then limitOn s n else s)

/-- FAULT_TIMER_EXPIRY (R285, R287): a fast trip of the same cycle is the one recorded. -/
def execFaultTimerExpiry (n : Nat) (fast eFall busOut : Bool) (s : State) : Out := .next <|
  if 16 ≤ n then s
  else
    let ev := if fast then BRN_EVT_TRIP_FAST n else BRN_EVT_TRIP_FLT n
    if brnState s n = bOn ∧ !(s.brn n).cfg.prot then
      busLeaves (brnTrip (wr s (BRN_FTIMER_ACC n) (s.brn n).cfg.tFlt) n ev eFall) n busOut
    else if brnState s n = bSoftOff ∧ !(s.brn n).cfg.prot then busLeaves (softTrip s n ev) n busOut
    else s

/-- The junction estimate after 1 ms, in 1/65536 °C: voltages in mV, current in mA, T_A in 1/65536 °C (R289). -/
def tjNext (b : Brn) (hot : Bool) (vBus vOut i ta : Int) : Int :=
  let p : Int := if hot then (vBus - vOut) * i * 100000 else i * i * b.cfg.rOn
  if b.cfg.rTh = 0 ∨ b.cfg.cTh = 0 then b.tj
  else b.tj + roundDiv (p * 65536 * b.cfg.rTh - (b.tj - ta) * 10000000000000) (b.cfg.cTh * b.cfg.rTh * 100000000000)

/-- THERMAL_UPDATE (R289). -/
def execThermalUpdate (n : Nat) (vBus vOut i ta : Int) (s : State) : Out := .next <|
  if 16 ≤ n ∨ !(s.brn n).cfg.prot then s
  else
    let b := s.brn n
    let st := brnState s n
    let tj := tjNext b (flag s (BRN_STAT_LIMIT n) || st == bRamp) vBus vOut i ta
    let s1 := (wrI s (BRN_TH_TJ_T_J n) (tj / 1024)).setBrn n { b with tj := tj, ta := ta }
    if st = bOn ∧ (b.cfg.tOt * 65536 : Nat) ≤ tj then brnTrip s1 n (BRN_EVT_TRIP_OT n) false else s1

/-- RETRY_WAIT_EXPIRY (R283). -/
def execRetryWaitExpiry (n : Nat) (s : State) : Out := .next <|
  let b := s.brn n
  if n < 16 ∧ brnState s n = bRetryWait ∧ (b.cfg.prot → b.tj < (b.cfg.tOt : Int) * 65536 - 20 * 65536) then brnInsert s n
  else s

/-- SOFT_OFF_END (R283). -/
def execSoftOffEnd (n : Nat) (s : State) : Out := .next <|
  if n < 16 ∧ brnState s n = bSoftOff then wr s (BRN_STAT_STATE n) bDischarge else s

/-- DISCHARGE reaches OFF: a T_REON run starts if an enable is pending (R283, R284). -/
def dischargeEnd (s : State) (n : Nat) : State :=
  brnToOff (s.setBrn n { s.brn n with reon := flag s (BRN_STAT_PENDING_ON n) }) n

/-- DISCHARGE_COMPLETE (R283, R287): an E that rises in the same cycle arrives during DISCHARGE. -/
def execDischargeComplete (n : Nat) (eRise : Bool) (s : State) : Out := .next <|
  if n < 16 ∧ brnState s n = bDischarge then
    dischargeEnd (if eRise then wrs s [(BRN_STAT_E n, 1), (BRN_STAT_PENDING_ON n, 1)] else s) n
  else s

/-- DISCHARGE_TIMEOUT (R283). -/
def execDischargeTimeout (n : Nat) (s : State) : Out := .next <|
  if n < 16 ∧ brnState s n = bDischarge then dischargeEnd (wr s (BRN_EVT_DIS_TMO n) 1) n else s

/-- T_REON_EXPIRY (R283): a pending start goes to INSERT; it has seen E at 0, so REARM does not stand against it. -/
def execTReonExpiry (n : Nat) (s : State) : Out := .next <|
  if n < 16 ∧ brnState s n = bOff ∧ (s.brn n).reon then
    let t := s.setBrn n { s.brn n with reon := false }
    if flag s (BRN_STAT_PENDING_ON n) ∧ flag s (BRN_STAT_E n) then brnInsert t n else brnOffSettle t n
  else s

/-- BUS_WINDOW_CHANGE (R283). -/
def execBusWindowChange (n : Nat) (ok : Bool) (s : State) : Out := .next <|
  if 16 ≤ n then s
  else
    let t := wrB s (BRN_STAT_BUS_OK n) ok
    if !ok ∧ (brnState s n = bRamp ∨ brnState s n = bOn) then
      wrs t [(BRN_STAT_STATE n, bDischarge), (BRN_STAT_PG n, 0), (BRN_EVT_BUS_FLT n, 1),
        (BRN_STAT_PENDING_ON n, rd s (BRN_STAT_E n))]
    else t

/-- PG_QUALIFIED (R287, R288): a limit entry in the same cycle wins. -/
def execPgQualified (n : Nat) (limit : Bool) (s : State) : Out := .next <|
  if n < 16 ∧ brnState s n = bOn then
    if limit then limitOn s n else wrs s [(BRN_STAT_PG n, 1), (BRN_STAT_LIMIT n, 0)]
  else s

/-- PG_HOLD_1S (R284). -/
def execPgHold1s (n : Nat) (s : State) : Out := .next <|
  if n < 16 ∧ flag s (BRN_STAT_PG n) then wr s (BRN_STAT_RCNT n) 0 else s

/-- CHARGE_PUMP_LOW (R290). -/
def execChargePumpLow (s : State) : Out := .next <|
  let s1 := hardOff (each (List.range 16) (fun t n => wr t (BRN_STAT_CP_OK n) 0) s)
  raise { s1 with tnk := { s1.tnk with rails := withBit s1.tnk.rails 8 true } } 3 256

/-- CHARGE_PUMP_OK (R283, R290). -/
def execChargePumpOk (s : State) : Out := .next <|
  let s1 := { s with tnk := { s.tnk with rails := withBit s.tnk.rails 8 false } }
  each (List.range 16) brnOffSettle (each (List.range 16) (fun t n => wr t (BRN_STAT_CP_OK n) 1) s1)

/-- The fault timer over runs of the limit comparator, in units of 1.25 ns: up 8 in each active cycle, down 1 in each
other, not below 0 (R285). -/
def faultRuns (t : Nat) : List (Bool × Nat) → Nat
  | [] => t
  | (true, c) :: l => faultRuns (t + 8 * c) l
  | (false, c) :: l => faultRuns (t - c) l

/-- The level the limit comparator has at the end of the runs. -/
def lastRun (dflt : Bool) (l : List (Bool × Nat)) : Bool := l.foldl (fun _ r => r.1) dflt

/-- The energy count and its 16 fractional bits plus the energy of 50 µs: V_OUT × I from codes (R293). -/
def energyAdd (s : State) (n vOut : Nat) (ci : Int) : State :=
  let e := rdI s (BRN_ENERGY_UJ n) * 65536 + (s.brn n).eFrac + roundDiv (vOut * ci * 437500000) (32768 * (s.brn n).cfg.rShunt)
  (wrI s (BRN_ENERGY_UJ n) (e / 65536)).setBrn n { s.brn n with eFrac := (e % 65536).toNat }

/-- PG drops where V_OUT has fallen below V_BUS - V_PGD: V_PGD in 10 mV, the voltages as codes (R288). -/
def pgdDrop (s : State) (n vBus vOut : Nat) : State :=
  if flag s (BRN_STAT_PG n) ∧ (vOut * 70000 : Int) < vBus * 70000 - (s.brn n).cfg.vPgd * 10 * 65536 then
    let t := wr s (BRN_STAT_PG n) 0
    if brnState s n = bOn then wr t (BRN_EVT_PG_LOST n) 1 else t
  else s

/-- BRANCH_MEASUREMENT (R285, R286, R288, R293). -/
def execBranchMeasurement (n vBus vOut i : Nat) (runs : List (Bool × Nat)) (s : State) : Out := .next <|
  if 16 ≤ n then s
  else
    let r := (s.brn n).cfg.rShunt
    let ci : Int := (i : Int) - 32768 - rdI s (BRN_ZCAL_OFFSET n)
    let s1 := wrI (wrI (wrs s [(BRN_MEAS_V_V_BUS n, vBus * 35000 / 65536), (BRN_MEAS_V_V_OUT n, vOut * 35000 / 65536)])
      (BRN_MEAS_I_I n) (roundDiv (ci * 125000000) (32768 * r)))
      (BRN_MEAS_P_P n) (roundDiv (vOut * 70000 * ci * 125000) (65536 * 32768 * r))
    let s2 := energyAdd s1 n vOut ci
    let s3 := if runs.any (·.1) then limitOn s2 n else s2
    let s4 := brnLimit (pgdDrop (wrB s3 (BRN_STAT_LIMIT n) (lastRun (flag s (BRN_STAT_LIMIT n)) runs)) n vBus vOut) n
      (vBus * 70000 / 65536) (vOut * 70000 / 65536)
    if brnState s n = bOn then
      let f := min (faultRuns (s4.brn n).fault runs) ((s4.brn n).cfg.tFlt * 80000)
      (wr s4 (BRN_FTIMER_ACC n) (f / 80000)).setBrn n { s4.brn n with fault := f }
    else s4

/-- The enable latch of a branch with ESRC = 1 (R282). -/
def brnLatch (s : State) (n : Nat) (b : Bool) : State :=
  if n < 16 ∧ flag s (BRN_CFG_ESRC n) then brnFollow (s.setBrn n { s.brn n with latch := b }) n else s

/-- BRN_ON (R282). -/
def execBrnOn (n : Nat) (s : State) : Out := .next (whenAlive s fun s => brnLatch s n true)

/-- BRN_OFF (R282). -/
def execBrnOff (n : Nat) (s : State) : Out := .next (whenAlive s fun s => brnLatch s n false)

/-- CLEAR of a LATCHED_OFF branch (R283, R287). -/
def brnClear (s : State) (n : Nat) : State :=
  if n < 16 ∧ brnState s n = bLatchedOff ∧ !s.rst.d2dBpdLost then
    brnToOff (wrs s [(BRN_STAT_REARM n, rd s (BRN_STAT_E n)), (BRN_STAT_PENDING_ON n, 0)]) n
  else s

/-- BRN_CLEAR (R283, R287). -/
def execBrnClear (n : Nat) (s : State) : Out := .next (whenAlive s fun s => brnClear s n)

/-- VDD_BPD_POR (R401): the BPD's branch state becomes that of a full reset. -/
def execVddBpdPor (s : State) : Out := .next
  { s with regs := s.regs.filter fun c => !heldByBpd c.1
           brns := s.brns.map fun b => (b.1, ({ latch := b.2.latch, outBit := b.2.outBit } : Brn)) }

/-! ## The D2D link (R11, R12) -/

/-- The sides that declare the link lost: on the BPD every branch is turned off, on the hub die SYS_D2D is raised
(R12, R290). -/
def d2dLost (s : State) (hub bpd exhausted : Bool) : State :=
  let s1 := if bpd then hardOff { s with rst := { s.rst with d2dBpdLost := true, d2dRetxBpd := 0 } } else s
  if hub then raise { s1 with rst := { s1.rst with d2dHubLost := true, d2dRetx := 0 } } 1 (if exhausted then 2 else 1) else s1

/-- D2D_LINK_LOST (R12). -/
def execD2dLinkLost (hub bpd exhausted : Bool) (s : State) : Out := .next (d2dLost s hub bpd exhausted)

/-- Retransmissions of the frame in progress in a direction. -/
def setRetx (s : State) (toBpd : Bool) (n : Nat) : State :=
  { s with rst := if toBpd then { s.rst with d2dRetxBpd := n } else { s.rst with d2dRetx := n } }

/-- D2D_LINK_FRAME (R11, R12): a good frame brings the link back for the side that receives it; a frame that has failed
all three retransmissions loses it for both (log entry 119). -/
def execD2dLinkFrame (crcOk toBpd : Bool) (s : State) : Out := .next <|
  let n := if toBpd then s.rst.d2dRetxBpd else s.rst.d2dRetx
  if crcOk then
    let t := setRetx s toBpd 0
    if !toBpd then
      let u := { t with rst := { t.rst with d2dHubLost := false } }
      if s.rst.d2dHubLost ∧ !s.rst.hold then heldTrips u else u
    else
      let u := { t with rst := { t.rst with d2dBpdLost := false } }
      if s.rst.d2dBpdLost then brnFollowAll u else u
  else if (if toBpd then s.rst.d2dBpdLost else s.rst.d2dHubLost) then s
  else if 3 ≤ n then d2dLost s true true true
  else setRetx s toBpd (n + 1)

end Sys2Proof.Machine
end

