-- ==== Sys2Proof/Machine/CanXfer.lean ====
section
/-! DEFINITION. Frames, error confinement, rate detection, the receive maps and the transmit schedules of the CAN
controllers (R244 to R258). -/

namespace Sys2Proof.Machine

/-- Data bytes of a data length code (R240). -/
def canLen (dlc : Nat) (fd : Bool) : Nat :=
  if fd then [0, 1, 2, 3, 4, 5, 6, 7, 8, 12, 16, 20, 24, 32, 48, 64].getD dlc 64 else min dlc 8

/-- SBUF of a controller: 3 acts as 2. -/
def sbufOf (s : State) (k : Nat) : Nat := min 2 (rd s (CAN_CTRL_SBUF k))

/-- An identifier in the place of a register: a base one lies in [28:18]. -/
def idField (f : CanFrame) : Nat := if f.ide then f.id else f.id * 2 ^ 18

/-- The frame of a transmit buffer (R248). -/
def txbFrame (s : State) (k b : Nat) : CanFrame :=
  let ide := flag s (CAN_TXB_HDR_IDE k b)
  let fd := flag s (CAN_TXB_FMT_FDF k b) && flag s (CAN_CTRL_FD_EN k)
  let rtr := flag s (CAN_TXB_HDR_RTR k b) && !fd
  let dlc := rd s (CAN_TXB_FMT_DLC k b)
  { id := if ide then rd s (CAN_TXB_HDR_ID k b) else rd s (CAN_TXB_HDR_ID k b) / 2 ^ 18
    ide := ide, fd := fd, brs := fd && flag s (CAN_TXB_FMT_BRS k b), rtr := rtr
    esi := fd && rd s (CAN_STAT_ERR k) == 1
    data := if rtr then []
      else ((List.range 16).flatMap fun j => leBytes 4 (rd s (CAN_TXW_DATA k (16 * b + j)))).take (canLen dlc fd)
    dlc := dlc }

/-- The arbitration field as a number: the lowest wins (R248). -/
def arbKey (f : CanFrame) : Nat :=
  idField f / 2 ^ 18 * 2 ^ 21 +
    (if f.ide then 2 ^ 20 + 2 ^ 19 + idField f % 2 ^ 18 * 2 + natOf f.rtr else natOf f.rtr * 2 ^ 20)

/-- The buffer that has sent its SOF. -/
def sofBuf (s : State) (k : Nat) : Option Nat := (List.range 3).find? fun b => flag s (CAN_TXB_CTRL_SOF k b)

/-- The pending buffer that enters arbitration, by TXORD (R248). -/
def chooseTxb (s : State) (k : Nat) : Option Nat :=
  let p := those 3 fun b => flag s (CAN_TXB_CTRL_PEND k b)
  if flag s (CAN_CTRL_TXORD k) then p.head?
  else p.foldl (fun (x : Option Nat) b => match x with
    | none => some b
    | some a => if arbKey (txbFrame s k b) < arbKey (txbFrame s k a) then some b else some a) none

/-- A frame is loaded into the schedule buffer and made pending (R258). -/
def loadFrame (s : State) (k e : Nat) (f : CanFrame) : State :=
  let b := sbufOf s k
  let s1 := wrs s [(CAN_TXB_HDR_ID k b, idField f), (CAN_TXB_HDR_IDE k b, natOf f.ide), (CAN_TXB_HDR_RTR k b, 0),
    (CAN_TXB_FMT_DLC k b, f.dlc), (CAN_TXB_FMT_FDF k b, natOf f.fd), (CAN_TXB_FMT_BRS k b, natOf f.brs),
    (CAN_TXB_CTRL_REQ k b, 1), (CAN_TXB_CTRL_PEND k b, 1)]
  let s2 := each (List.range 16) (fun t j => wr t (CAN_TXW_DATA k (16 * b + j)) (leNat (slice f.data (4 * j) 4))) s1
  s2.setCan k { s2.can k with sbuf := some e }

/-- The schedule queue feeds SBUF while it is not pending (R258). -/
def loadSbuf (s : State) (k : Nat) : State :=
  match (s.can k).sq with
  | [] => s
  | (e, f) :: q =>
    if flag s (CAN_CTRL_SCHED_EN k) ∧ !flag s (CAN_TXB_CTRL_PEND k (sbufOf s k)) then
      loadFrame (s.setCan k { s.can k with sq := q }) k e f
    else s

/-- The bus is free for this controller: it starts the frame of the chosen buffer, where it may send (R244, R248). -/
def sofGo (s : State) (k : Nat) : State :=
  let t := loadSbuf s k
  if canState t k = nOn ∧ !flag t (CAN_CTRL_LISTEN k) ∧ running t ∧ !(t.can k).busy ∧ (sofBuf t k).isNone then
    match chooseTxb t k with
    | none => t
    | some b => wr t (CAN_TXB_CTRL_SOF k b) 1
  else t

/-- A buffer leaves pending. -/
def txbLeave (s : State) (k b : Nat) : State :=
  let t := wrs s [(CAN_TXB_CTRL_PEND k b, 0), (CAN_TXB_CTRL_SOF k b, 0), (CAN_TXB_CTRL_REQ k b, 0),
    (CAN_TXB_CTRL_CANCEL k b, 0)]
  if b = sbufOf s k then t.setCan k { t.can k with sbuf := none } else t

/-- A buffer is cancelled (R249). -/
def txbCancelled (s : State) (k b : Nat) : State := wr (txbLeave s k b) (CAN_TXB_CTRL_CANCELLED k b) 1

/-- The frame on the wire loses arbitration or meets an error: its buffer is pending again, or a latched cancel acts
(R248, R249). -/
def txbBack (s : State) (k : Nat) : State :=
  match sofBuf s k with
  | none => s
  | some b =>
    if flag s (CAN_TXB_CTRL_CANCEL k b) then txbCancelled s k b else wr s (CAN_TXB_CTRL_SOF k b) 0

/-- The pins of channel k as its controller drives them: TXD on CHn_A, STBY on CHn_C (R241). -/
def canPin (s : State) (k i : Nat) : Pin :=
  let c := s.can k
  if !c.pins then .undriven
  else match i with
    | 0 => if (sofBuf s k).isSome then .data else .high
    | 2 => if c.awake then .low else .high
    | _ => .undriven

/-! ## Error confinement (R253, R254) -/

/-- The controller enters BUS_OFF, and with AUTO_REC = 1 goes on to RECOVERING; a RECOVER written in the same cycle takes
effect in the next (R244). -/
def busOff (s : State) (k : Nat) : State :=
  let t := wrs (txbBack s k) [(CAN_STAT_STATE k, if flag s (CAN_CTRL_AUTO_REC k) then nRecovering else nBusOff),
    (CAN_STAT_ERR k, 2), (CAN_EVT_BUS_OFF k, 1)]
  let u := raise (t.setCan k { t.can k with offAt := some s.clk.ft.toNat }) 72 (2 ^ k)
  if (s.can k).asked = some s.clk.ft.toNat ∧ canState u k = nBusOff then wr (advance u 1) (CAN_STAT_STATE k) nRecovering else u

/-- ERR follows the counters; entering ERROR_PASSIVE and BUS_OFF are reported. -/
def errSettle (s : State) (k : Nat) : State :=
  let tec := rd s (CAN_ERRC_TEC k)
  let rec_ := rd s (CAN_ERRC_REC k)
  if 255 < tec then (if canState s k = nOn then busOff s k else wr s (CAN_STAT_ERR k) 2)
  else if 127 < tec ∨ 127 < rec_ then
    if rd s (CAN_STAT_ERR k) = 0 then raise (wrs s [(CAN_STAT_ERR k, 1), (CAN_EVT_PASSIVE k, 1)]) 73 (2 ^ k) else s
  else wr s (CAN_STAT_ERR k) 0

/-- The counters of a controller move: it is not listen-only (R246, R253). -/
def counts (s : State) (k : Nat) : Bool := canState s k != nDetect && !flag s (CAN_CTRL_LISTEN k)

/-! ## Rate detection (R246, R247) -/

/-- The controller searches for its rate. -/
def detecting (s : State) (k : Nat) : Bool := canState s k == nDetect && !(s.can k).locked

/-- The next candidate; a full pass is counted. -/
def nextCandidate (s : State) (k : Nat) : State :=
  let c := (s.can k).cand
  if rd s (CAN_DET_NCAND_M1 k) ≤ c then (incSat s (CAN_CNT_D_DET_PASS k)).setCan k { s.can k with cand := 0 }
  else s.setCan k { s.can k with cand := c + 1 }

/-- A candidate locks. -/
def rateLock (s : State) (k : Nat) : State :=
  let c := (s.can k).cand
  let s1 := wrW s (CAN_NBT_BRP k).addr (rd s (CAN_RATE_N_W k c))
  let s2 := wrW s1 (CAN_DBT_BRP k).addr (rd s (CAN_RATE_D_W k c))
  let s3 := wrs s2 [(CAN_STAT_RATE_IDX k, c), (CAN_EVT_RATE_LOCK k, 1)]
  if flag s (CAN_CTRL_DET_RUN k) then wr s3 (CAN_STAT_STATE k) nIntegrate
  else s3.setCan k { s3.can k with locked := true }

/-- A protocol error (R246, R253): amount is what ISO 11898-1 adds to TEC of a transmitter or REC of a receiver. -/
def canError (s : State) (k kind : Nat) (dataPhase : Bool) (amount : Nat) : State :=
  let s1 := wrs s [(CAN_ERRC_LEC k, kind), (CAN_ERRC_LEC_DATA k, natOf dataPhase), (CAN_EVT_PROTO_ERR k, 1)]
  let s2 := incSat s1 (if dataPhase then CAN_CNT_D_ERR_DATA k else CAN_CNT_D_ERR_NOM k)
  let s3 := s2.setCan k { s2.can k with busy := false }
  if detecting s k then nextCandidate s3 k
  else
    let f := if (sofBuf s k).isSome then CAN_ERRC_TEC k else CAN_ERRC_REC k
    let s4 := if counts s k then wr s3 f (min (rd s f + amount) (if (sofBuf s k).isSome then 511 else 255)) else s3
    sofGo (errSettle (txbBack s4 k) k) k

/-! ## Receiving (R251, R252, R255) -/

/-- Filter j matches a frame. -/
def fltMatches (s : State) (k j : Nat) (f : CanFrame) : Bool :=
  let d := (idField f ^^^ rd s (CAN_FLT0_ID k j)) &&& rd s (CAN_FLT1_MASK k j)
  flag s (CAN_FLT0_EN k j) && (if f.ide then d == 0 else d / 2 ^ 18 == 0) &&
  (flag s (CAN_FLT0_IDE_ANY k j) || flag s (CAN_FLT0_IDE k j) == f.ide) && (!f.rtr || flag s (CAN_FLT1_RTR_OK k j))

/-- What the filters decide: ACT, and the number of the filter, 16 for none. -/
def fltAct (s : State) (k : Nat) (f : CanFrame) : Nat × Nat :=
  match (List.range 16).find? fun j => fltMatches s k j f with
  | some j => (rd s (CAN_FLT1_ACT k j), j)
  | none => (rd s (CAN_CTRL_ACC_NM k), 16)

/-- A frame goes to the FIFO of 32 entries. -/
def canFifoPush (s : State) (k : Nat) (x : CanRx) : State :=
  let q := (s.can k).fifo
  if q.length < 32 then s.setCan k { s.can k with fifo := q ++ [x], seen := true }
  else
    let t := wr (incSat s (CAN_CNT_C_RX_OVF k)) (CAN_EVT_RX_OVF k) 1
    if flag s (CAN_CTRL_FIFO_OW k) then
      t.setCan k { t.can k with
        fifo := q.tail ++ [x]
        evicted := q.head?.map fun y => (s.clk.ft.toNat, y, rd s (CAN_CNT_C_RX_OVF k), rd s (CAN_EVT_RX_OVF k)) }
    else t

/-- The receive message that takes a frame (R255). -/
def rxmOf (s : State) (k : Nat) (f : CanFrame) : Option Nat :=
  (List.range 32).find? fun m => flag s (CAN_RXM0_EN m) && rd s (CAN_RXM1_CTL m) == k &&
    flag s (CAN_RXM0_IDE m) == f.ide &&
    (if f.ide then rd s (CAN_RXM0_ID m) == f.id else rd s (CAN_RXM0_ID m) / 2 ^ 18 == f.id)

/-- A receive field entry. -/
def rxfEnt (s : State) (j : Nat) : FieldEnt :=
  let a := (CAN_RXF0_KIND j).addr
  { fieldEnt (rdW s a) (rdW s (a + 4)) (rdW s (a + 8)) (rdW s (a + 12)) with kind := 0 }

/-- A receive message at a tick boundary (R256). -/
def rxmAge (s : State) (m : Nat) : State :=
  if !flag s (CAN_RXM0_EN m) then s
  else
    let sw := rd s (CAN_RXM2_SWORD m)
    let w := s.stgWord sw
    s.setStg sw (if bitOf w 16 then setBits w 16 1 0 else setBits w 0 16 (min 65535 (bits w 0 16 + 1)))

/-- A message whose boundary FT has reached ages before a frame of the new tick updates it (R256). -/
def rxmFirst (s : State) (m : Nat) : State :=
  let due := match s.rxmLast with
    | none => false
    | some n => decide (n < tickNow s)
  if due && !s.rxmAged.contains (m, tickNow s) then { rxmAge s m with rxmAged := (m, tickNow s) :: s.rxmAged } else s

/-- A frame updates its receive message (R255, R256). -/
def rxmTake (s : State) (m : Nat) (f : CanFrame) : State :=
  let s := rxmFirst s m
  let sw := rd s (CAN_RXM2_SWORD m)
  let w := s.stgWord sw
  let cnt := (bits w 24 8 + 1) % 256
  if f.data.length < rd s (CAN_RXM1_MINLEN m) then s.setStg sw (setBits (setBits w 24 8 cnt) 17 1 1)
  else
    let es := (List.range (min 8 (rd s (CAN_RXM1_XN m)))).map fun j => rxfEnt s (rd s (CAN_RXM1_XPTR m) + j)
    (extractAll s es f.data).2.setStg sw (2 ^ 16 + cnt * 2 ^ 24)

/-- A frame goes to the receive maps. -/
def rxmPush (s : State) (k : Nat) (f : CanFrame) : State :=
  match rxmOf s k f with
  | none => s
  | some m => rxmTake s m f

/-- A good frame is received: counted, filtered, and REC falls (R251, R253). -/
def canTake (s : State) (k ns : Nat) (f : CanFrame) : State :=
  let rec_ := rd s (CAN_ERRC_REC k)
  let s1 := incWrap s (CAN_CNT_A_RX_OK k)
  let s2 := if !counts s k then s1
    else if 127 < rec_ then (wr s1 (CAN_ERRC_REC k) (119 + freeOf s1 8 % 9)).used
    else wr s1 (CAN_ERRC_REC k) (rec_ - 1)
  let (act, j) := fltAct s k f
  let s3 := if act = 1 ∨ act = 3 then canFifoPush s2 k ⟨f, j, ns⟩ else s2
  errSettle (if act = 2 ∨ act = 3 then rxmPush s3 k f else s3) k

/-- The event payload of a received frame (R252). -/
def canEvent (k : Nat) (x : CanRx) : List Byte :=
  [0x02, BitVec.ofNat 8 k] ++ beBytes 2 x.frame.data.length ++ beBytes 8 x.ns ++
  beBytes 4 (idField x.frame + natOf x.frame.ide * 2 ^ 29 + natOf x.frame.rtr * 2 ^ 30 + natOf x.frame.fd * 2 ^ 31) ++
  [BitVec.ofNat 8 (natOf x.frame.brs + 2 * natOf x.frame.esi), BitVec.ofNat 8 x.frame.dlc, 0, 0] ++ x.frame.data

/-! ## Transmit schedules (R257, R258) -/

/-- A built frame joins the schedule queue of its controller, or replaces the earlier one of its entry. -/
def schedJoin (s : State) (k e : Nat) (f : CanFrame) : State :=
  let c := s.can k
  if c.sq.any (·.1 == e) then
    (incSat s (CAN_CNT_C_SCHED_LATE k)).setCan k { c with sq := c.sq.map fun x => if x.1 = e then (e, f) else x }
  else if c.sbuf = some e ∧ flag s (CAN_TXB_CTRL_PEND k (sbufOf s k)) ∧ !flag s (CAN_TXB_CTRL_SOF k (sbufOf s k)) then
    loadFrame (incSat s (CAN_CNT_C_SCHED_LATE k)) k e f
  else if 16 ≤ c.sq.length then wr (incSat s (CAN_CNT_C_SCHED_DROP k)) (CAN_EVT_SCHED_DROP k) 1
  else sofGo (s.setCan k { c with sq := c.sq ++ [(e, f)] }) k

/-- The frame of a schedule entry (R257). -/
def schedFrame (s : State) (e : Nat) : CanFrame :=
  let k := rd s (CAN_TXS1_CTL e)
  let fd := flag s (CAN_TXS1_FDF e) && flag s (CAN_CTRL_FD_EN k)
  let n := canLen (rd s (CAN_TXS1_DLC e)) fd
  let ide := flag s (CAN_TXS0_IDE e)
  { id := if ide then rd s (CAN_TXS0_ID e) else rd s (CAN_TXS0_ID e) / 2 ^ 18
    ide := ide, fd := fd, brs := fd && flag s (CAN_TXS1_BRS e), dlc := rd s (CAN_TXS1_DLC e)
    data := if flag s (CAN_TXS1_SRC e) then memBytes s (payloadAddr (rd s (CAN_TXS2_LENTRY e)) + rd s (CAN_TXS2_LOFS e)) n
      else ((List.range 16).flatMap fun j => leBytes 4 (rd s (TRD_SCR_W (rd s (CAN_TXS2_SWORD e) + j)))).take n }

/-- A schedule entry at P4 of a tick (R257). -/
def schedDue (s : State) (tick : Int) (e : Nat) : State :=
  let k := rd s (CAN_TXS1_CTL e)
  let per : Int := max 1 (rd s (CAN_TXS1_PERIOD e))
  let st := canState s k
  if !flag s (CAN_TXS0_EN e) ∨ !running s ∨ !(st == nOn || st == nBusOff || st == nRecovering) ∨
     (tick - rd s (CAN_TXS1_PHASE e)) % per ≠ 0 then s
  else
    let q := qualOf s (rd s (CAN_TXS2_LENTRY e))
    if flag s (CAN_TXS1_QSKIP e) ∧ flag s (CAN_TXS1_SRC e) ∧ (q = qStale ∨ q = qHalted) then
      incSat s (CAN_CNT_C_SCHED_LATE k)
    else schedJoin s k e (schedFrame s e)

/-- A controller reaches STOPPED (R244, R245). -/
def canStopped (s : State) (k : Nat) : State :=
  let s1 := each (those 3 fun b => flag s (CAN_TXB_CTRL_PEND k b)) (fun t b => txbCancelled t k b) s
  let s2 := wrs s1 [(CAN_STAT_STATE k, nStopped), (CAN_EVT_STOPPED k, 1)]
  let s3 := s2.setCan k { s2.can k with sq := [], sbuf := none, awake := false, busy := false, locked := false }
  let s4 := if flag s3 (CAN_STAT_PEND_ON k) then wrs s3 [(CAN_STAT_PEND_ON k, 0), (CAN_STAT_DIS k, 0)] else s3
  canGo s4 k

end Sys2Proof.Machine
end

