-- ==== Sys2Proof/Machine/Can.lean ====
section
/-! DEFINITION. The commands of the CAN controllers (R244 to R256). -/

namespace Sys2Proof.Machine

/-- A command of controller k, of sixteen. -/
def onCan (s : State) (k : Nat) (f : State → State) : State := whenAlive s fun s => if k < 16 then f s else s

/-- CAN_ENABLE (R244). -/
def execCanEnable (k : Nat) (s : State) : Out := .next <| onCan s k fun s =>
  let st := canState s k
  if st = nOff ∨ st = nFailed then s
  else if st = nStopping then wr s (CAN_STAT_PEND_ON k) 1
  else canGo (wr s (CAN_STAT_DIS k) 0) k

/-- CAN_DISABLE (R244). -/
def execCanDisable (k : Nat) (s : State) : Out := .next <| onCan s k fun s =>
  let st := canState s k
  if st = nOff ∨ st = nFailed then s else canStop (wrs s [(CAN_STAT_DIS k, 1), (CAN_STAT_PEND_ON k, 0)]) k

/-- CAN_RECOVER (R244): ignored in any state but BUS_OFF; in the cycle in which BUS_OFF is entered it takes effect in the
next. -/
def execCanRecover (k : Nat) (s : State) : Out := .next <| onCan s k fun s =>
  let now := s.clk.ft.toNat
  if canState s k = nBusOff then
    wr (if (s.can k).offAt = some now then advance s 1 else s) (CAN_STAT_STATE k) nRecovering
  else s.setCan k { s.can k with asked := some now }

/-- The head of a FIFO is removed. In the cycle of an overwrite the pop comes first: it takes the entry the overwrite would
have discarded, and nothing is lost (R252). -/
def canPop (s : State) (k : Nat) : Option (CanRx × State) :=
  let c := s.can k
  match c.evicted, c.fifo with
  | some (ft, y, cnt, evt), fifo =>
    if ft = s.clk.ft.toNat then
      some (y, (wrs s [(CAN_CNT_C_RX_OVF k, cnt), (CAN_EVT_RX_OVF k, evt)]).setCan k { c with evicted := none })
    else match fifo with
      | [] => none
      | x :: q => some (x, s.setCan k { c with fifo := q })
  | none, [] => none
  | none, x :: q => some (x, s.setCan k { c with fifo := q })

/-- CAN_POP_RX (R252): with FWD_EN = 1, firmware alone, which sends the frame as an event. -/
def execCanPopRx (ini k : Nat) (s : State) : Out := .next <| onCan s k fun s =>
  match canPop s k with
  | none => s
  | some (x, t) =>
    if !flag s (CAN_CTRL_FWD_EN k) then t
    else if 2 ≤ ini then s
    else sendEvent t (rd s (CAN_FWD_HUB k)) (rd s (CAN_FWD_DPORT k)) (0x100 + k) (canEvent k x)

/-- CAN_FLUSH_RX (R252). -/
def execCanFlushRx (k : Nat) (s : State) : Out := .next <| onCan s k fun s => s.setCan k { s.can k with fifo := [], evicted := none }

/-- DWELL_EXPIRY (R246). -/
def execDwellExpiry (k : Nat) (s : State) : Out := .next <| onCan s k fun s =>
  if detecting s k then nextCandidate s k else s

/-- DET_SLOW (R247). -/
def execDetSlow (k : Nat) (s : State) : Out := .next <| onCan s k fun s =>
  if detecting s k ∧ !(s.can k).slow ∧ rd s (CAN_DET_DET_TMO k) ≠ 0 then
    (wr s (CAN_EVT_DET_SLOW k) 1).setCan k { s.can k with slow := true }
  else s

/-- INTEGRATE_DONE (R244). -/
def execIntegrateDone (k : Nat) (s : State) : Out := .next <| onCan s k fun s =>
  if canState s k = nIntegrate then sofGo (wr s (CAN_STAT_STATE k) nOn) k else s

/-- CAN_FRAME_RECEIVED (R251): ns from the SOF edge to the end of the frame. In DETECT an error-free frame locks the
candidate (R246); a frame with FDF set and FD_EN = 0 is a form error (R240). -/
def execCanFrameReceived (dt k back : Nat) (f : CanFrame) (s : State) : Out := .next <|
  let s := advance s dt
  onCan s k fun s =>
  let s0 := s.setCan k { s.can k with busy := false }
  let st := canState s k
  if st ≠ nOn ∧ st ≠ nStopping ∧ st ≠ nDetect then s0
  else if f.fd ∧ !flag s (CAN_CTRL_FD_EN k) then canError s0 k 2 false 1
  else if detecting s k then
    (if flag s (CAN_RATE_D_FDV k (s.can k).cand) ∧ !(f.fd && f.brs) then s0 else rateLock s0 k)
  else sofGo (canTake s0 k (ftNs s - back) f) k

/-- RXM_AGING (R256). -/
def execRxmAging (s : State) : Out := .next <| whenAlive s fun s =>
  let p := rd s TRD_TICK_NS_NS
  if p = 0 then s
  else
    let t := toBoundary s p s.rxmLast
    let due := those 32 fun m => !t.rxmAged.contains (m, tickNow t)
    each due rxmAge { t with rxmLast := some (tickNow t), rxmAged := [] }

/-- TXB_REQ (R248): whether another node's frame is on the bus. -/
def execTxbReq (k b : Nat) (busy : Bool) (s : State) : Out := .next <| onCan s k fun s =>
  if 3 ≤ b then s
  else
    let t := wrs s [(CAN_TXB_CTRL_REQ k b, 1), (CAN_TXB_CTRL_PEND k b, 1)]
    sofGo (t.setCan k { t.can k with busy := (t.can k).busy || busy }) k

/-- TXB_CANCEL (R249). -/
def execTxbCancel (k b : Nat) (s : State) : Out := .next <| onCan s k fun s =>
  if 3 ≤ b ∨ !flag s (CAN_TXB_CTRL_PEND k b) then s
  else if flag s (CAN_TXB_CTRL_SOF k b) then wr s (CAN_TXB_CTRL_CANCEL k b) 1
  else sofGo (txbCancelled s k b) k

/-- CAN_TX_DONE (R249): the frame on the wire completes. With TDC_EN = 1 a measured delay above 127 cycles makes it fail
as a bit error in the data phase (R243), of which kind the spec leaves open (log entry 121). -/
def execCanTxDone (k delay : Nat) (s : State) : Out := .next <| onCan s k fun s =>
  match sofBuf s k with
  | none => s
  | some b =>
    let f := txbFrame s k b
    if f.fd ∧ f.brs ∧ flag s (CAN_DBT_TDC_EN k) ∧ 127 < delay then canError s.used k (4 + freeOf s 1) true 8
    else
    let s1 := wr (incWrap (txbLeave s k b) (CAN_CNT_B_TX_OK k)) (CAN_TXB_CTRL_DONE k b) 1
    sofGo (errSettle ((wr s1 (CAN_ERRC_TEC k) (rd s (CAN_ERRC_TEC k) - 1)).emit (.canFrame k f)) k) k

/-- ARBITRATION_LOST (R248): another node's frame goes on. -/
def execArbitrationLost (k : Nat) (s : State) : Out := .next <| onCan s k fun s =>
  if (sofBuf s k).isNone then s
  else
    let t := txbBack s k
    loadSbuf (t.setCan k { t.can k with busy := true }) k

/-- CAN_PROTOCOL_ERROR (R253). -/
def execCanProtocolError (k kind : Nat) (dataPhase : Bool) (amount : Nat) (s : State) : Out := .next <| onCan s k fun s =>
  let st := canState s k
  if st = nDetect ∨ st = nOn ∨ st = nStopping then canError s k kind dataPhase amount else s

/-- RECOVERY_DONE (R244). -/
def execRecoveryDone (k : Nat) (s : State) : Out := .next <| onCan s k fun s =>
  if canState s k = nRecovering then
    sofGo (wrs s [(CAN_STAT_STATE k, nOn), (CAN_ERRC_TEC k, 0), (CAN_ERRC_REC k, 0), (CAN_STAT_ERR k, 0),
      (CAN_EVT_RECOVERED k, 1)]) k
  else s

/-- CAN_STOPPING_END (R245). -/
def execCanStoppingEnd (k : Nat) (s : State) : Out := .next <| onCan s k fun s =>
  if canState s k = nStopping then canStopped s k else s

end Sys2Proof.Machine
end

