-- ==== Sys2Proof/Machine/Chn.lean ====
section
/-! DEFINITION. The commands of the serial channels (R216 to R239). -/

namespace Sys2Proof.Machine

/-- TRANSFER_START (R225): CLK_CORE cycles since the event before, the channel; SDA of an I2C channel is 0 high, 1 low
and recovered, 2 stuck low. -/
def execTransferStart (dt n sda : Nat) (s : State) : Out := .next <|
  let s := advance s dt
  whenAlive s fun s =>
  let s := advanceTo s (max (s.chn n).gapTo (s.chn n).idleTo)
  let c := s.chn n
  let mode := chnMode s n
  let listRuns := flag s (CHN_STAT_BUSY n)
  if 48 ≤ n ∨ chnState s n ≠ cRun ∨ c.xfer ≠ .none ∨ mode = 0 ∨ mode = mCan ∨
     (!listRuns ∧ c.ferry = [] ∧ c.txq = []) ∨ (mode = mUart ∧ modep s n 5 1 = 1 ∧ !c.cts) then s
  else
    let stuck := mode = mI2c ∧ 2 ≤ sda
    let s1 := if mode ≠ mI2c then s
      else if sda = 0 then wr s (CHN_STAT_BUS_STUCK n) 0
      else if 2 ≤ sda then wr s (CHN_STAT_BUS_STUCK n) 1 else s
    if listRuns then (if stuck then attemptDone (lineErr s1 n) n pLine [] else startAttempt s1 n)
    else match c.ferry, c.txq with
      | k :: rest, _ =>
        if stuck then endReq (lineErr (s1.setChn n { s1.chn n with ferry := rest }) n) k scTargetErr []
        else startFerry s1 n k rest
      | [], f :: rest =>
        if stuck then lineErr (s1.setChn n { s1.chn n with txq := rest }) n else startFrame s1 n f rest
      | [], [] => s1

/-- ATTEMPT_END (R226): bytes of a UART response have come, which end its attempt where END is met; the transfer of
another mode ends with the bytes received. line: a line error ended it or fell in it. A queue frame's bytes received go
to the RX queue of SPI and I2C (R221), stamped with its start (R222). -/
def execAttemptEnd (dt n : Nat) (resp : List Byte) (line : Bool) (s : State) : Out := .next <|
  let s := advance s dt
  whenAlive s fun s =>
  if 48 ≤ n ∨ chnState s n ≠ cRun then s
  else match (s.chn n).xfer with
    | .none => s
    | .attempt _ =>
      if chnMode s n = mUart then collect s n resp line
      else
        let r := if chnMode s n = mSsi then ssiBits (modep s n 0 7) resp else resp
        let (q, body, t) := judgeResponse (xferEnd (if line then lineErr s n else s) n) n (rd s (CHN_STAT_CUR n)) r line
        attemptDone t n q body
    | .ferry k => ferryEnd s n k resp line
    | .frame _ =>
      if (s.chn n).ctsLeft.isSome then s
      else
        let s0 := xferEnd (if line then lineErr s n else if chnMode s n = mUart then advanceTo s (s.chn n).sent else s) n
        let s1 := s0.setChn n { s0.chn n with xfer := .none }
        if (chnMode s n = mSpi ∨ chnMode s n = mI2c) ∧ resp ≠ [] ∧ flag s (CHN_CFG_RXQ_EN n) then
          rxStore s1 n (s.chn n).startAt (resp.take 384) (decide (384 < resp.length)) line
        else s1

/-- TRANSACTION_TIMEOUT (R226): TMO µs have passed since the last stop bit of the request. -/
def execTransactionTimeout (dt n : Nat) (s : State) : Out := .next <|
  let s := advance s dt
  whenAlive s fun s =>
  match (s.chn n).xfer with
  | .attempt _ =>
    if n < 48 ∧ chnState s n = cRun ∧ chnMode s n = mUart ∧ (s.chn n).ctsLeft = none then
      attemptDone (advanceTo s (tmoAt s n (s.chn n).sent)) n pTimeout []
    else s
  | _ => s

/-- CLOCK_STRETCH_TIMEOUT (R218): the transfer ends with a line error. -/
def execClockStretchTimeout (dt n : Nat) (s : State) : Out := .next <|
  let s := advance s dt
  whenAlive s fun s =>
  if 48 ≤ n ∨ chnMode s n ≠ mI2c ∨ chnState s n ≠ cRun then s
  else match (s.chn n).xfer with
    | .none => s
    | .attempt _ => attemptDone (lineErr s n) n pLine []
    | .ferry k => ferryEnd s n k [] true
    | .frame _ => (lineErr s n).setChn n { (lineErr s n).chn n with xfer := .none }

/-- SSI_DATA_TIMEOUT (R219): DATA is still low after TMO µs. -/
def execSsiDataTimeout (dt n : Nat) (s : State) : Out := .next <|
  let s := advance s dt
  whenAlive s fun s =>
  match (s.chn n).xfer with
  | .attempt _ =>
    if n < 48 ∧ chnMode s n = mSsi ∧ chnState s n = cRun then
      attemptDone (advanceTo s (tmoAt s n (s.chn n).startAt)) n pTimeout []
    else s
  | _ => s

/-- CHN_TXPUSH (R221): the initiator, the channel, LEN; a channel in MODE 5 has no queue (R214). -/
def execChnTxpush (ini n len : Nat) (s : State) : Out := .next <| whenAlive s fun s =>
  if 48 ≤ n ∨ len = 0 ∨ 384 < len ∨ chnMode s n = mCan then answerMgmt s ini scOk
  else if chnMode s n = mSsi then answerMgmt (txAbort (wr s (CHN_EVT_TXQ_FULL n) 1) n) ini scDenied
  else if 512 * txqUnits s n < txUsed s n + queued len then answerMgmt (wr s (CHN_EVT_TXQ_FULL n) 1) ini scRetry
  else
    let f := ((List.range 96).flatMap fun k => leBytes 4 (rd s (CHN_TXW_DATA n k))).take len
    answerMgmt (s.setChn n { s.chn n with txq := (s.chn n).txq ++ [f] }) ini scOk

/-- RX_FRAME_END (R222): characters with their start bits, in ns before now, which end frames by length or delimiter;
under GAP the idle line ends the frame. Characters that start while DE is asserted are ignored (R216); what comes while an
attempt runs belongs to its response. -/
def execRxFrameEnd (dt n : Nat) (chars : List (Nat × Nat)) (s : State) : Out := .next <|
  let s := advance s dt
  whenAlive s fun s =>
  if 48 ≤ n ∨ chnState s n ≠ cRun ∨ chnMode s n ≠ mUart then s
  else match (s.chn n).xfer with
    | .attempt _ => collect s n (chars.map fun p => BitVec.ofNat 8 p.2) (chars.any fun p => bitOf p.2 9)
    | _ =>
      let heard := chars.filter fun p => !(modep s n 4 1 = 1 && (s.chn n).sent ≠ 0 && decide ((s.chn n).startAt ≤ ftNs s - p.1)
        && ((s.chn n).ctsLeft.isSome || decide (ftNs s - p.1 < (s.chn n).sent + bitsNs s n (deLag s n))))
      let t := heard.foldl (fun u p => rxChar u n (ftNs s - p.1) p.2) s
      if 2 ≤ rd s (CHN_RXEND_END n) then partEnd t n else t

/-- CHN_POP_RX (R223): with FWD_EN = 1, firmware alone, which sends the frame as an event. -/
def execChnPopRx (ini n : Nat) (s : State) : Out := .next <| whenAlive s fun s =>
  match (s.chn n).rxq with
  | [] => s
  | f :: rest =>
    if 48 ≤ n ∨ (flag s (CHN_CFG_FWD_EN n) ∧ 2 ≤ ini) then s
    else
      let t := s.setChn n { s.chn n with rxq := rest }
      if flag s (CHN_CFG_FWD_EN n) then sendEvent t (rd s (CHN_FWD_HUB n)) (rd s (CHN_FWD_DPORT n)) n (chnEvent n f)
      else t

/-- CHN_FLUSH_TX (R237). -/
def execChnFlushTx (n : Nat) (s : State) : Out := .next <| whenAlive s fun s =>
  if 48 ≤ n then s else s.setChn n { s.chn n with txq := [] }

/-- CHN_FLUSH_RX (R237). -/
def execChnFlushRx (n : Nat) (s : State) : Out := .next <| whenAlive s fun s =>
  if 48 ≤ n then s else s.setChn n { s.chn n with rxq := [] }

/-- CHN_ENABLE (R236, R238). -/
def execChnEnable (n : Nat) (s : State) : Out := .next <| whenAlive s fun s =>
  if 48 ≤ n ∨ chnState s n = cOff ∨ chnState s n = cFailed then s
  else if chnState s n = cStopping then wr s (CHN_STAT_PEND_ON n) 1
  else chnGo (wr s (CHN_STAT_DIS n) 0) n

/-- CHN_DISABLE (R236). -/
def execChnDisable (n : Nat) (s : State) : Out := .next <| whenAlive s fun s =>
  if 48 ≤ n ∨ chnState s n = cOff ∨ chnState s n = cFailed then s
  else chnStop (wrs s [(CHN_STAT_DIS n, 1), (CHN_STAT_PEND_ON n, 0)]) n

/-- CHN_STOPPING_END (R236 to R238): the transfer reaches its boundary, behind which DE is released after DE_LAG and
the chip select after CS_HOLD; or 2 ms have passed and the idle levels are driven at once. -/
def execChnStoppingEnd (dt n : Nat) (late : Bool) (s : State) : Out := .next <|
  let s := advance s dt
  whenAlive s fun s =>
  if 48 ≤ n ∨ chnState s n ≠ cStopping then s
  else if late then chnIdle (advanceTo s ((s.chn n).stopAt + 2000000)) n
  else if (s.chn n).xfer = .none then chnIdle s n
  else if chnMode s n = mUart ∧ uartSends s n then chnIdle (advanceTo s (ftNs s + bitsNs s n (deLag s n))) n
  else chnIdle (xferEnd s n) n

/-- WORD advances after an access while INC is 1. -/
def pmInc (s : State) : State :=
  if flag s CHN_PM_ADDR_INC then wr s CHN_PM_ADDR_WORD (rd s CHN_PM_ADDR_WORD + 1) else s

/-- A functional write of a memory word ends its uncorrectable error. -/
def clearBad (s : State) (code word : Nat) : State :=
  { s with bad := s.bad.filter (· != code * 2 ^ 28 + word) }

/-- PM_DATA_ACCESS (R228): a write of a word by an initiator, or a read. From ST14 on the word is locked (R7). -/
def execPmDataAccess (ini : Nat) (w : Option Nat) (s : State) : Out := .next <| whenAlive s fun s =>
  let k := rd s CHN_PM_ADDR_WORD
  match w with
  | none => (pmInc s).emit (.busRsp ini (if s.bad.contains (6 * 2 ^ 28 + k) then scTargetErr else scOk) (pm s k))
  | some v =>
    if 14 ≤ rd s SYS_STEP_STEP then
      answerMgmt (pmInc s) ini (if v % 2 ^ 32 = pm s k then scOk else scLocked)
    else answerMgmt (pmInc (clearBad (memPutWord s (pollBase + 4 * k) v) 6 k)) ini scOk

/-- CTS_CHANGE (R216): the level of CTS. With RTSCTS = 1 a transmission stops at the next character boundary, and
goes on from there. -/
def execCtsChange (n : Nat) (asserted : Bool) (s : State) : Out := .next <| whenAlive s fun s =>
  let c := s.chn n
  if 48 ≤ n then s
  else if chnMode s n = mUart ∧ modep s n 5 1 = 1 ∧ c.xfer ≠ .none then
    match asserted, c.ctsLeft with
    | false, none =>
      let left := bitsNs s n ((c.sent - ftNs s) / bitsNs s n (charBits s n) * charBits s n)
      s.setChn n { c with cts := false, ctsLeft := if left = 0 then none else some left }
    | true, some left => s.setChn n { c with cts := true, sent := ftNs s + left, ctsLeft := none }
    | _, _ => s.setChn n { c with cts := asserted }
  else s.setChn n { c with cts := asserted }

end Sys2Proof.Machine
end

