-- ==== Sys2Proof/Machine/DrvOps.lean ====
section
/-! DEFINITION. The Drover: belts, records, windows, matches, actions and their fires, hand-off, destinations and
events (R162 to R181). -/

namespace Sys2Proof.Machine

/-! ## Records (R166) -/

/-- STATE of a record. -/
def dFree : Nat := 0
def dTrack : Nat := 1
def dHandoff : Nat := 2
def dDone : Nat := 3

/-- State of record i. -/
def recState (s : State) (i : Nat) : Nat := rd s (DRV_REC_ST_STATE i)

/-- The records listed in the table, in ascending order. -/
def liveRecs (s : State) : List Nat :=
  (s.regs.filter fun c => isRecord c.1 && (c.1 - 0x40064000) % 48 == 0x24 && cellGet c.2 0 3 != 0).map
    fun c => (c.1 - 0x40064000) / 48

/-- The record without contents. -/
def clearRec (s : State) (i : Nat) : State :=
  { s with regs := s.regs.filter fun c => !(isRecord c.1 && (c.1 - 0x40064000) / 48 == i) }

/-- Record i is older than record j (R166). -/
def older (s : State) (i j : Nat) : Bool :=
  decide (0 < modDiff 32 (rd s (DRV_REC_SEQN_SEQ j)) (rd s (DRV_REC_SEQN_SEQ i)))

/-- The oldest of a list of records. -/
def oldest (s : State) (l : List Nat) : Option Nat :=
  l.foldl (fun (x : Option Nat) i => match x with
    | none => some i
    | some j => if older s i j then some i else some j) none

/-- The lowest record that is FREE. -/
def freeRec (s : State) : Option Nat :=
  let l := liveRecs s
  (List.range 1024).find? fun i => !l.contains i

/-- The Drover is active (R181). -/
def drvActive (s : State) : Bool := flag s DRV_CTRL_EN && running s && s.trd.last.isSome

/-! ## Events (R179, R180) -/

/-- Codes of an event. -/
def eMatch : Nat := 1
def eStray : Nat := 2
def eMissing : Nat := 3
def eDouble : Nat := 4
def eLate : Nat := 5
def eCreate : Nat := 6
def eHoIn : Nat := 7
def eHoOut : Nat := 8

/-- An event is recorded. -/
def record (s : State) (e : DrvEvent) : State := { s with drv := { s.drv with events := s.drv.events ++ [e] } }

/-- A STRAY: cause 0 NONE, 1 FULL. -/
def stray (s : State) (sn ns cause obj : Nat) : State :=
  let s1 := incWrap (wr (incSat s DRV_CNT_A_STRAY) DRV_EVT_STRAY 1) (DRV_SNS_CNT_STRAY sn)
  let s2 := record (if cause = 1 then wr s1 DRV_EVT_FULL 1 else s1) ⟨ns, eStray, sn, 0, cause, 0, obj⟩
  if bitOf (rd s DRV_CTRL_FLT_EN) 0 then raiseOnce s2 48 sn else s2

/-- A LATE_FIRE: cause 0 ARMED, 1 SUPPRESSED, 2 NO_UNIT, 3 QUEUE, 4 NO_TIME (R173). -/
def lateFire (s : State) (act cause sn recd obj : Nat) : State :=
  let s1 := wr (incSat s DRV_CNT_B_LATE_FIRE) DRV_EVT_LATE_FIRE 1
  let s2 := record s1 ⟨ftNs s, eLate, sn, recd, cause, act, obj⟩
  if bitOf (rd s DRV_CTRL_FLT_EN) 2 then raiseOnce s2 50 (act + cause * 256) else s2

/-! ## Belts (R162 to R164) -/

/-- The position of a belt in 2^-16 µm. -/
def beltPos (s : State) (b : Nat) : Nat := rd s (DRV_BELT_POS_POS b) * 65536 + tget (fun _ => 0) s.drv.frac b

/-- A belt's position written. -/
def setBeltPos (s : State) (b p : Nat) : State :=
  let q := p % 2 ^ 48
  let t := wr s (DRV_BELT_POS_POS b) (q / 65536)
  { t with drv := { t.drv with frac := tput (fun _ => 0) t.drv.frac b (q % 65536) } }

/-- V of the present segment, and whether the belt is STOPPED. -/
def beltV (s : State) (b : Nat) : Nat := rd s (DRV_BELT_V_V b)
def beltStopped (s : State) (b : Nat) : Bool := flag s (DRV_BELT_STAT_STOPPED b)

/-- P(t) in 2^-16 µm, as a signed distance from P_k added to it (R163). -/
def posAt (s : State) (b : Nat) (t : Int) : Int :=
  beltPos s b + (if beltStopped s b then 0 else roundDiv (beltV s b * (t - s.drv.tk) * 65536) 1000000000)

/-- P(t) in whole µm, modulo 2^32. -/
def anchorAt (s : State) (b : Nat) (t : Int) : Nat := wrapTo 32 (roundDiv (posAt s b t) 65536)

/-- The raw speed of a belt of KIND 1 or 2 (R162); the count change is the one this tick's boundary has latched. -/
def beltRaw (s : State) (b : Nat) : Int :=
  if rd s (DRV_BELT_CTRL_KIND b) = 1 then
    signed 32 (tget (fun _ => (0 : Word)) s.trd.latched (20 + rd s (DRV_BELT_CTRL_QDEC b))).toNat
  else
    let w := if flag s (DRV_BELT_CTRL_PW b) then 4 else 2
    let v := leNat (memBytes s (payloadAddr (rd s (DRV_BELT_CTRL_ENTRY b)) + w * rd s (DRV_BELT_CTRL_PIDX b)) w)
    if flag s (DRV_BELT_CTRL_SGN b) then signed (8 * w) v else v

/-- V_raw (R162). -/
def beltVraw (s : State) (b : Nat) : Int :=
  let x := signed 64 (wrapTo 64 (beltRaw s b * rd s (DRV_BELT_MUL_MUL b))) / 2 ^ rd s (DRV_BELT_SH_SHIFT b)
  max 0 (min x (2 ^ 32 - 1))

/-- The Ledger entry of a KIND 2 belt is unusable (R163). -/
def beltHeld (s : State) (b : Nat) : Bool :=
  rd s (DRV_BELT_CTRL_KIND b) == 2 &&
    (qualOf s (rd s (DRV_BELT_CTRL_ENTRY b)) == qStale || qualOf s (rd s (DRV_BELT_CTRL_ENTRY b)) == qHalted)

/-- V of a belt at the end of P1 (R162, R163). -/
def beltSpeed (s : State) (b : Nat) : State :=
  let k := rd s (DRV_BELT_CTRL_KIND b)
  if k = 0 then s
  else if k = 3 then wr s (DRV_BELT_V_V b) (rd s (DRV_BELT_MUL_MUL b))
  else if beltHeld s b then wrs s [(DRV_BELT_STAT_SPD_HELD b, 1), (DRV_EVT_SPD_STALE, 1)]
  else
    let v : Int := beltV s b
    wr (wr s (DRV_BELT_STAT_SPD_HELD b) 0) (DRV_BELT_V_V b) (v + (beltVraw s b - v) / 2 ^ rd s (DRV_BELT_CTRL_FILT b)).toNat

/-- The segments of a belt that have ended, newest first (R171). -/
def beltSegs (s : State) (b : Nat) : List (Nat × Nat) := tget (fun _ => []) s.drv.segs b

/-- The current segment of a belt ends and joins those before it (R171). -/
def beltSeg (s : State) (b : Nat) : State :=
  let l := beltSegs s b
  if (l.head?.map (·.2)) = some (beltV s b) then s
  else { s with drv := { s.drv with segs := tput (fun _ => []) s.drv.segs b ((s.drv.tk, beltV s b) :: l) } }

/-- The position of a belt advances to the tick taken at t (R163, R164). -/
def beltMove (s : State) (b t : Nat) : State :=
  if beltStopped s b then s
  else setBeltPos s b (((beltPos s b : Int) + roundDiv (beltV s b * ((t : Int) - s.drv.tk) * 65536) 1000000000) % 2 ^ 48).toNat

/-! ## Windows (R168) -/

/-- The window of a record. -/
def winOf (s : State) (i : Nat) : Option Win := (s.drv.wins.find? (·.1 == i)).map (·.2)

/-- A record's window replaced, or removed. -/
def setWin (s : State) (i : Nat) (w : Option Win) : State :=
  let l := s.drv.wins.filter (·.1 != i)
  { s with drv := { s.drv with wins := match w with
    | none => l
    | some x => (i, x) :: l } }

/-- The hand-off channel by which a record came that has matched no sensor yet. -/
def hoInOf (s : State) (i : Nat) : Option Nat := (s.drv.hoIn.find? (·.1 == i)).map (·.2)

/-- d: the distance from a record's anchor to its sensor NEXT (R168). -/
def windowDist (s : State) (i : Nat) : Nat :=
  match hoInOf s i with
  | some c => rd s (DRV_HO_DIST_DIST c)
  | none => (rd s (DRV_SNS_POS_POS (rd s (DRV_REC_ST_NEXT i))) + 2 ^ 32 - rd s (DRV_SNS_POS_POS (rd s (DRV_REC_ST_LAST i)))) % 2 ^ 32

/-- The window of a record in TRACK is computed, where its belt moves (R168; log entry 63): what the object has gone since
its anchor is a signed difference, negative after a match within the tick. -/
def computeWin (s : State) (i : Nat) : State :=
  let b := rd s (DRV_REC_ST_BELT i)
  if recState s i ≠ dTrack then setWin s i none
  else if beltStopped s b ∨ beltV s b = 0 then s
  else
    let sn := rd s (DRV_REC_ST_NEXT i)
    let gone := modDiff 48 (beltPos s b) (rd s (DRV_REC_ANCH_P i) * 65536)
    let pred := s.drv.tk + roundDiv (((windowDist s i : Int) * 65536 - gone) * 1000000000) (beltV s b * 65536)
    setWin s i (some ⟨pred, pred - rd s (DRV_SNS_WIN_EARLY sn) * 1000, pred + rd s (DRV_SNS_WIN_LATE sn) * 1000⟩)

/-- The window of a record is open at an instant. -/
def winOpen (s : State) (i : Nat) (t : Int) : Bool :=
  recState s i == dTrack &&
  (if beltStopped s (rd s (DRV_REC_ST_BELT i)) then s.drv.openAtStop.contains i
  else match winOf s i with
    | none => false
    | some w => decide (w.opens ≤ t) && decide (t < w.closes))

/-! ## Fires (R171 to R174) -/

/-- LOCK_Q: timed outputs are enabled. -/
def drvTimed (s : State) : Bool := flag s BELL_PPS_CTRL_LOCK_Q

/-- A fire at a time is armed or lost (R172, R173): whether it was armed. -/
def armFire (s : State) (act : Nat) (tFire : Int) (anchor belt recd obj : Nat) : Bool × State :=
  let sn := rd s (DRV_ACT_CTRL_SNS act)
  let now : Int := ftNs s
  let late := decide (tFire < now)
  if !drvTimed s then (false, lateFire s act 4 sn recd obj)
  else if rd s (DRV_ACT_COND_LATE_MAX act) * 1000 < now - tFire then (false, lateFire s act 1 sn recd obj)
  else
    let t := (if late then now else tFire).toNat
    if flag s (DRV_ACT_CTRL_MODE act) then
      let n := rd s (DRV_ACT_CTRL_LINE act)
      let refused := decide (8 ≤ (s.line n).queue.length) || dioMode s n != 1
      let a := [LineAct.set, .clear, .toggle, .pulse].getD (rd s (DRV_ACT_CTRL_ACTION act)) .none
      let s1 := queuePush s n t a
      if refused then (false, lateFire s1 act 3 sn recd obj)
      else (true, if late then lateFire s1 act 0 sn recd obj else s1)
    else
      let first := rd s (DRV_ACT_CTRL_TRG_FIRST act)
      let pool := (List.range (rd s (DRV_ACT_CTRL_TRG_N act) + 1)).map (first + ·)
      match pool.find? fun n => decide (n < 32) && !flag s (BELL_TRG_CTRL_ARMED n) with
      | none => (false, lateFire s act 2 sn recd obj)
      | some n =>
        let s1 := trgArmBy s ownDrover n (t % 2 ^ 40)
        let s2 := if flag s1 (BELL_TRG_CTRL_ARMED n) then
            { s1 with drv := { s1.drv with fires := ⟨n, act, anchor, belt, recd, obj⟩ :: s1.drv.fires } }
          else s1
        (true, if late then lateFire s2 act 0 sn recd obj else s2)

/-- V of the segment that contains an instant in 2^-16 ns (R171). -/
def vAt (s : State) (b : Nat) (t16 : Int) : Nat :=
  if t16 < s.drv.tk * 65536 then (((beltSegs s b).find? fun x => decide ((x.1 * 65536 : Int) ≤ t16)).map (·.2)).getD 0
  else beltV s b

/-- T_fire in whole ns (R171); a free value at a speed of 0. -/
def fireTime (s : State) (act b : Nat) (t16 : Int) (dist : Int) : Int :=
  let v := vAt s b t16
  let run : Int := if v = 0 then freeOf s 64 else dist * 1000000000 * 65536 / v
  (t16 + run) / 65536 + rdI s (DRV_ACT_OFS_OFS act)

/-- An action of a sensor is evaluated on a match (R171): whether a fire with RETIRE was armed. -/
def evalAct (s : State) (i act : Nat) (t16 : Int) : Bool × State :=
  let dest := rd s (DRV_REC_ATTR_DEST i)
  let b := rd s (DRV_REC_ST_BELT i)
  if !(((dest ^^^ rd s (DRV_ACT_MATCH_DEST act)) &&& rd s (DRV_ACT_MATCH_MASK act) == 0) &&
      bitOf (rd s (DRV_ACT_COND_LCLS_MASK act)) (rd s (DRV_REC_ATTR_LCLS i))) then (false, s)
  else
    let tf := fireTime s act b t16 (rd s (DRV_ACT_DIST_DIST act))
    let s0 := if vAt s b t16 = 0 then s.used else s
    let (armed, t) := armFire s0 act tf (rd s (DRV_REC_ANCH_P i)) b i (rd s (DRV_REC_OBJ_ID i))
    (armed && flag s (DRV_ACT_CTRL_RETIRE act), t)

/-- The enabled actions of a sensor, in ascending order. -/
def actsOf (s : State) (sn : Nat) : List Nat :=
  those 64 fun a => flag s (DRV_ACT_CTRL_EN a) && rd s (DRV_ACT_CTRL_SNS a) == sn

/-- Every action of a sensor is evaluated: whether the record retires. -/
def evalActs (s : State) (i sn : Nat) (t16 : Int) : Bool × State :=
  (actsOf s sn).foldl (fun (x : Bool × State) a =>
    let (r, t) := evalAct x.2 i a t16
    (x.1 || r, t)) (false, s)

/-! ## The life of a record (R166, R167, R169, R170, R175, R178) -/

/-- A record becomes FREE, and is remembered as recently freed. -/
def recFree (s : State) (i : Nat) : State :=
  let e := (rd s (DRV_REC_OBJ_ID i), rd s (DRV_REC_ENTRY_T i))
  let t := clearRec (setWin s i none) i
  { t with drv := { t.drv with
      freed := (e :: t.drv.freed).take 64
      hoIn := t.drv.hoIn.filter (·.1 != i)
      hops := t.drv.hops.filter (·.1 != i)
      openAtStop := t.drv.openAtStop.filter (· != i) } }

/-- A record enters DONE. -/
def recDone (s : State) (i : Nat) : State := setWin (wr s (DRV_REC_ST_STATE i) dDone) i none

/-- A record joins a hand-off queue before the first younger one: SEQ order (R175). -/
def hoIns (s : State) (i : Nat) : List Nat → List Nat
  | [] => [i]
  | j :: q => if older s i j then i :: j :: q else j :: hoIns s i q

/-- A record enters HANDOFF on a channel and joins its queue (R175). -/
def recHandoff (s : State) (i c : Nat) : State :=
  let ticks := max 1 (rd s DRV_CTRL_HO_TICKS)
  let s1 := setWin (wrs s [(DRV_REC_ST_STATE i, dHandoff), (DRV_REC_ST_HOCH i, c), (DRV_REC_CTR_HO_LEFT i, ticks)]) i none
  let q := tget (fun _ => []) s1.drv.hoQ c
  let s2 := { s1 with drv := { s1.drv with hoQ := tput (fun _ => []) s1.drv.hoQ c (hoIns s1 i q) } }
  record s2 ⟨ftNs s, eHoOut, rd s (DRV_REC_ST_LAST i), i, 0, 0, rd s (DRV_REC_OBJ_ID i)⟩

/-- ONMATCH of a sensor is applied to a record (R165, R169). -/
def onMatch (s : State) (i sn : Nat) : State :=
  let m := rd s (DRV_SNS_CTRL_ONMATCH sn)
  let s0 := { s with drv := { s.drv with hoIn := s.drv.hoIn.filter (·.1 != i)
                                         openAtStop := s.drv.openAtStop.filter (· != i) } }
  if m < 32 then computeWin (setWin (wrs s0 [(DRV_REC_ST_STATE i, dTrack), (DRV_REC_ST_NEXT i, m)]) i none) i
  else if m < 36 then recHandoff s0 i (m - 32)
  else recDone s0 i

/-- The match of a record at a sensor: its fields, the actions, and ONMATCH (R169). -/
def settle (s : State) (i sn : Nat) (t16 : Int) (anchor dclose : Nat) (acts : Bool) : State :=
  let s1 := wrs s [(DRV_REC_LASTT_T i, (t16 / 65536).toNat), (DRV_REC_ANCH_P i, anchor), (DRV_REC_ST_LAST i, sn),
    (DRV_REC_DCL_T i, dclose), (DRV_REC_ST_LAST_V i, 1)]
  let (retire, s2) := if acts then evalActs s1 i sn t16 else (false, s1)
  if retire then recDone { s2 with drv := { s2.drv with hoIn := s2.drv.hoIn.filter (·.1 != i) } } i else onMatch s2 i sn

/-- A record becomes live: its SEQ, and a pending destination of its OBJ_ID (R166, R178). -/
def makeLive (s : State) (i : Nat) : State :=
  let obj := rd s (DRV_REC_OBJ_ID i)
  let s1 := incWrap (wr s (DRV_REC_SEQN_SEQ i) (rd s DRV_SEQ_NEXT)) DRV_SEQ_NEXT
  match s1.drv.dest.find? (·.1 == obj) with
  | none => s1
  | some (_, d) =>
    let t := wrs s1 [(DRV_REC_ATTR_DEST i, d), (DRV_REC_ST_DEST_SET i, 1)]
    { t with drv := { t.drv with dest := t.drv.dest.filter (·.1 != obj) } }

/-- An unmatched edge at an induction sensor creates a record (R167). -/
def createRec (s : State) (sn t16 : Nat) : State :=
  let ns := t16 / 65536
  let b := rd s (DRV_SNS_CTRL_BELT sn)
  let obj := rd s SYS_HUB_ID_ID * 2 ^ 20 + rd s DRV_OBJ_CNT_NEXT
  match freeRec s with
  | none => stray s sn ns 1 obj
  | some i =>
    let s1 := wrs (clearRec s i) [(DRV_REC_OBJ_ID i, obj), (DRV_REC_ENTRY_T i, ns), (DRV_REC_ST_BELT i, b),
      (DRV_REC_ST_STATE i, dTrack)]
    let s2 := incWrap (makeLive s1 i) DRV_OBJ_CNT_NEXT
    let s3 := record s2 ⟨ftNs s, eCreate, sn, i, 0, 0, obj⟩
    settle s3 i sn t16 (anchorAt s3 b ns) ((ns + rd s (DRV_SNS_WIN_LATE sn) * 1000) % 2 ^ 32) true

/-- The candidates of an edge at a sensor stamped at t ns: the records tracked to it with an open window, and those it
matched last whose window has not closed (R169). -/
def edgeRecs (s : State) (sn t : Nat) : List Nat :=
  (liveRecs s).filter fun i =>
    (recState s i == dTrack && rd s (DRV_REC_ST_NEXT i) == sn && winOpen s i t) ||
    (flag s (DRV_REC_ST_LAST_V i) && rd s (DRV_REC_ST_LAST i) == sn &&
      decide (2 ^ 31 ≤ (t + 2 ^ 32 - rd s (DRV_REC_DCL_T i)) % 2 ^ 32))

/-- Record i has been matched in this cycle (R178). -/
def noteMatch (s : State) (i : Nat) : State :=
  let l := if s.drv.matchCyc = s.clk.cyc then s.drv.matched else []
  { s with drv := { s.drv with matched := i :: l, matchCyc := s.clk.cyc } }

/-- A leading edge at a sensor, with its stamp in 2^-16 ns (R169). -/
def edgeMatch (s : State) (sn t16 : Nat) : State :=
  let t := t16 / 65536
  match oldest s (edgeRecs s sn t) with
  | none => if flag s (DRV_SNS_CTRL_ENTRY sn) then createRec s sn t16 else stray s sn t 0 0
  | some i =>
    let obj := rd s (DRV_REC_OBJ_ID i)
    if flag s (DRV_REC_ST_LAST_V i) ∧ rd s (DRV_REC_ST_LAST i) = sn then
      record (wr (incSat s DRV_CNT_B_DOUBLE) DRV_EVT_DOUBLE 1) ⟨t, eDouble, sn, i, 0, 0, obj⟩
    else
      let s1 := incWrap (incWrap (noteMatch s i) DRV_CNT_MATCH_COUNT) (DRV_SNS_CNT_MATCH sn)
      let close := match winOf s i with
        | none => t
        | some w => wrapTo 32 w.closes
      settle (record s1 ⟨t, eMatch, sn, i, 0, 0, obj⟩) i sn t16 (anchorAt s (rd s (DRV_REC_ST_BELT i)) t) close true

/-- The first of the waiting edges: by stamp, then by sensor (R165). -/
def firstEdge (l : List (Nat × Nat)) : Option (Nat × Nat) :=
  l.foldl (fun (x : Option (Nat × Nat)) e => match x with
    | none => some e
    | some y => if e.2 < y.2 ∨ (e.2 = y.2 ∧ e.1 < y.1) then some e else some y) none

/-- The waiting edges stamped before an instant in 2^-16 ns are matched, in order; n bounds their number. -/
def matchWaiting (before : Nat) : Nat → State → State
  | 0, s => s
  | n + 1, s => match firstEdge s.drv.waiting with
    | none => s
    | some e =>
      if before ≤ e.2 then s
      else
        let t := { s with drv := { s.drv with waiting := s.drv.waiting.erase e } }
        matchWaiting before n (if drvActive t && flag t (DRV_SNS_CTRL_EN e.1) then edgeMatch t e.1 e.2 else t)

/-- The instant before which the edges that wait may be matched: those stamped in a running P1 wait for its end (R163). -/
def matchTo (s : State) (upTo : Nat) : Nat :=
  if rd s TRD_STATUS_PHASE = 1 then min upTo (s.trd.taken * 65536) else upTo

/-- An edge that waits lies in a window of its sensor (R170). -/
def edgeWaits (s : State) (sn : Nat) (w : Win) : Bool :=
  s.drv.waiting.any fun e => e.1 == sn && decide (w.opens * 65536 ≤ e.2) && decide (e.2 < w.closes * 65536)

/-- A window that closed unmatched (R170). -/
def missWindow (s : State) (i : Nat) (w : Win) : State :=
  let sn := rd s (DRV_REC_ST_NEXT i)
  let obj := rd s (DRV_REC_OBJ_ID i)
  let s1 := incSat (wr (incSat s DRV_CNT_A_MISSING) DRV_EVT_MISSING 1) (DRV_REC_CTR_MISSES i)
  let s2 := record s1 ⟨w.closes.toNat, eMissing, sn, i, 0, 0, obj⟩
  let s3 := if bitOf (rd s DRV_CTRL_FLT_EN) 1 then raiseOnce s2 49 i else s2
  let pol := rd s (DRV_SNS_CTRL_MISS_POL sn)
  if !running s3 then s3
  else if pol = 1 ∨ pol = 2 then
    settle s3 i sn (w.pred * 65536) ((rd s (DRV_REC_ANCH_P i) + windowDist s i) % 2 ^ 32) (wrapTo 32 w.closes) (pol == 2)
  else recFree s3 i

/-! ## Belts that stop and start (R164, R174) -/

/-- The pending fires of TRIGGER actions with RETRACK = 1 on a belt. -/
def retracked (s : State) (b : Nat) : List Fire :=
  s.drv.fires.filter fun f => f.belt == b && flag s (DRV_ACT_CTRL_RETRACK f.act)

/-- Those fires on a belt that stops are disarmed and kept; one that is due in this cycle fires (R129, R174). -/
def holdFires (s : State) (b : Nat) : State :=
  let s := (retracked s b).foldl (fun t f => trgDue t f.trg) s
  let l := retracked s b
  let s1 := l.foldl (fun t f => setLate (wr t (BELL_TRG_CTRL_ARMED f.trg) 0) f.trg false) s
  let p := anchorAt s b s.drv.tk
  { s1 with drv := { s1.drv with
      fires := s1.drv.fires.filter fun f => !l.contains f
      held := s1.drv.held ++ l.map fun f =>
        ⟨f.act, f.anchor, b, (rd s (DRV_ACT_DIST_DIST f.act) : Int) - modDiff 32 p f.anchor, f.recd, f.obj⟩ } }

/-- The kept fires of a belt that moves again are re-armed (R174). -/
def rearmFires (s : State) (b : Nat) : State :=
  let l := s.drv.held.filter (·.belt == b)
  l.foldl (fun t h => (armFire t h.act (fireTime t h.act b (t.drv.tk * 65536 : Nat) h.rem) h.anchor b h.recd h.obj).2) { s with drv := { s.drv with held := s.drv.held.filter (·.belt != b) } }

/-- A belt at the end of P1: STOPPED or not, its windows, its held fires (R164, R174). -/
def beltJudge (s : State) (b : Nat) : State :=
  let was := beltStopped s b
  let stop := decide (beltV s b ≤ rd s (DRV_BELT_SH_VMIN b))
  let recs := (liveRecs s).filter fun i => recState s i == dTrack && rd s (DRV_REC_ST_BELT i) == b
  if stop then
    if was then s
    else
      let opn := recs.filter fun i => winOpen s i s.drv.tk
      let t := wr { s with drv := { s.drv with openAtStop := s.drv.openAtStop ++ opn } } (DRV_BELT_STAT_STOPPED b) 1
      holdFires t b
  else
    let s1 := wr { s with drv := { s.drv with openAtStop := s.drv.openAtStop.filter fun i => !recs.contains i } }
      (DRV_BELT_STAT_STOPPED b) 0
    let s2 := each recs computeWin s1
    if was then rearmFires s2 b else s2

/-- The Drover at the end of P1 of the tick taken at t (R162 to R164, R168, R174). -/
def drvBelts (s : State) (t : Nat) : State :=
  if !drvActive s then { s with drv := { s.drv with tk := t } }
  else
    let s1 := each (List.range 8) (fun u b => beltMove (beltSeg u b) b t) s
    let s2 := each (List.range 8) beltSpeed { s1 with drv := { s1.drv with tk := t } }
    each (List.range 8) beltJudge s2

/-! ## The event list (R144, R179) -/

/-- The two words of an event. -/
def eventWords (e : DrvEvent) : Nat × Nat :=
  (e.code + e.sns * 16 + e.recd * 2 ^ 9 + e.cause * 2 ^ 19 + e.act * 2 ^ 22, e.obj)

/-- A window of the tick just ended has closed unmatched and is not yet judged. -/
def eventsLate (s : State) (t : Nat) : Bool :=
  s.drv.wins.any fun x => recState s x.1 == dTrack && !beltStopped s (rd s (DRV_REC_ST_BELT x.1)) && decide (x.2.closes < t)

/-- The events of the tick that ended at t are listed in the input image. -/
def listEvents (s : State) (t : Nat) : State :=
  let l := s.drv.events.filter fun e => decide (e.ns < t)
  let shown := l.take 63
  let lost := l.length - shown.length
  let s1 := { s with drv := { s.drv with events := s.drv.events.filter fun e => decide (t ≤ e.ns) } }
  let s2 := if lost = 0 then s1 else wr (addSat s1 DRV_CNT_C_LOST lost) DRV_EVT_EVT_OVF 1
  let s3 := each (List.range 128) (fun u k => wr u (TRD_IN_W (1536 + k)) 0) s2
  let s4 := wr s3 (TRD_IN_W 1536) (shown.length + natOf (lost != 0) * 128)
  shown.zipIdx.foldl (fun u p =>
    wr (wr u (TRD_IN_W (1538 + 2 * p.2)) (eventWords p.1).1) (TRD_IN_W (1539 + 2 * p.2)) (eventWords p.1).2) s4

/-! ## Hand-off (R175, R176) -/

/-- The 32 bytes of a record's hand-off. -/
def hoBytes (s : State) (i : Nat) : List Byte :=
  beBytes 4 (rd s (DRV_REC_OBJ_ID i)) ++ beBytes 8 (rd s (DRV_REC_ENTRY_T i)) ++ beBytes 8 (rd s (DRV_REC_LASTT_T i)) ++
  beBytes 8 (rd s (DRV_REC_ATTR_DEST i) + rd s (DRV_REC_ATTR_LCLS i) * 2 ^ 16 + rd s (DRV_REC_ATTR_USER i) * 2 ^ 32) ++
  beBytes 2 (2 ^ 15 + rd s (DRV_REC_ST_DEST_SET i) * 2 ^ 14 + rd s SYS_HUB_ID_ID) ++
  [BitVec.ofNat 8 (min 255 (tget (fun _ => 0) s.drv.hops i + 1)), 0]

/-- The record in position j of an out channel. -/
def hoPos (s : State) (c j : Nat) : Option Nat := (s.drv.hoPos.find? (·.1 == 2 * c + j)).map (·.2)

/-- A position takes a record, or none. -/
def setHoPos (s : State) (c j : Nat) (r : Option Nat) : State :=
  let l := s.drv.hoPos.filter (·.1 != 2 * c + j)
  { s with drv := { s.drv with hoPos := match r with
    | none => l
    | some i => (2 * c + j, i) :: l } }

/-- The Drover writes the 32 bytes of a position of an out channel's index, where the index has FW_OWN = 0 and FMT HANDOFF;
otherwise the write is ignored and counted (R106). -/
def hoWrite (s : State) (c j : Nat) (bs : List Byte) : State :=
  let i := rd s (DRV_HO_OUT_PIDX c)
  if !bitOf (pubDesc s i) 19 && bits (pubDesc s i) 16 3 == 5 then memPuts s (backBuf s i + 32 * j) bs
  else wr (incSat s LDG_PUB_REJ_COUNT) LDG_EVT_PUB_REJ 1

/-- One position of a channel at P3: the record it holds or takes, its bytes, HO_LEFT. -/
def hoPublishOne (s : State) (c j : Nat) : State :=
  let s1 := match hoPos s c j, tget (fun _ => []) s.drv.hoQ c with
    | none, i :: q => setHoPos { s with drv := { s.drv with hoQ := tput (fun _ => []) s.drv.hoQ c q } } c j (some i)
    | _, _ => s
  match hoPos s1 c j with
  | none => hoWrite s1 c j (List.replicate 32 0)
  | some i =>
    let left := rd s1 (DRV_REC_CTR_HO_LEFT i) - 1
    let s2 := wr (hoWrite s1 c j (hoBytes s1 i)) (DRV_REC_CTR_HO_LEFT i) left
    if left = 0 then setHoPos s2 c j none else s2

/-- The Drover publishes its hand-offs before the switch of P3 (R175). -/
def hoPublish (s : State) : State :=
  if !drvActive s then s
  else each (those 4 fun c => flag s (DRV_HO_OUT_EN c)) (fun t c => hoPublishOne (hoPublishOne t c 0) c 1) s

/-- One position of an upstream HANDOFF slot (R176). -/
def hoTake (s : State) (c j : Nat) : State :=
  let x := memBytes s (payloadAddr (rd s (DRV_HO_IN_ENTRY c)) + 32 * j) 32
  let obj := beNat (slice x 0 4)
  let entry := beNat (slice x 4 8)
  let last := beNat (slice x 12 8)
  let attr := beNat (slice x 20 8)
  let fl := beNat (slice x 28 2)
  let sn := rd s (DRV_HO_IN_SNS c)
  let b := rd s (DRV_HO_IN_BELT c)
  if !bitOf fl 15 then s
  else if (liveRecs s).any (fun i => rd s (DRV_REC_OBJ_ID i) == obj && rd s (DRV_REC_ENTRY_T i) == entry) ||
      s.drv.freed.contains (obj, entry) then
    wr (incSat s DRV_CNT_C_DUP) DRV_EVT_DUP_HO 1
  else match freeRec s with
    | none => stray s sn (ftNs s) 1 obj
    | some i =>
      let s1 := wrs (clearRec s i) [(DRV_REC_OBJ_ID i, obj), (DRV_REC_ENTRY_T i, entry), (DRV_REC_LASTT_T i, last),
        (DRV_REC_ATTR_DEST i, attr % 2 ^ 16), (DRV_REC_ATTR_LCLS i, bits attr 16 4), (DRV_REC_ATTR_USER i, attr / 2 ^ 32),
        (DRV_REC_ST_DEST_SET i, bits fl 14 1), (DRV_REC_ST_FROM i, fl % 4096), (DRV_REC_ST_BELT i, b),
        (DRV_REC_ST_NEXT i, sn), (DRV_REC_ANCH_P i, anchorAt s b last), (DRV_REC_ST_STATE i, dTrack)]
      let s2 := makeLive s1 i
      let s3 := { s2 with drv := { s2.drv with
        hoIn := (i, c) :: s2.drv.hoIn
        hops := tput (fun _ => 0) s2.drv.hops i (beNat (slice x 30 1)) } }
      computeWin (record s3 ⟨ftNs s, eHoIn, sn, i, 0, 0, obj⟩) i

/-! ## Destinations from hosts (R178) -/

/-- The result of a destination command. -/
def destResult (s : State) (r i : Nat) : State := wrs s [(DRV_DEST_STAT_RESULT, r), (DRV_DEST_STAT_INDEX, i)]

/-- A destination command (R178): after a match of the record in the same cycle it is applied, whatever state that left. -/
def destCmd (s : State) (obj dest : Nat) (keep : Bool) : State :=
  match (liveRecs s).find? fun i => rd s (DRV_REC_OBJ_ID i) == obj with
  | some i =>
    if recState s i = dDone ∧ !(s.drv.matchCyc == s.clk.cyc && s.drv.matched.contains i) then destResult s 4 i
    else destResult (wrs s [(DRV_REC_ATTR_DEST i, dest), (DRV_REC_ST_DEST_SET i, 1)]) 0 i
  | none =>
    let put (l : List (Nat × Nat)) : State := { s with drv := { s.drv with dest := l ++ [(obj, dest)] } }
    let l := s.drv.dest
    if !keep then destResult s 2 0
    else if l.any (·.1 == obj) then destResult (put (l.filter (·.1 != obj))) 1 0
    else if l.length < 16 then destResult (put l) 1 0
    else destResult (put l.tail) 3 0

end Sys2Proof.Machine
end

