-- ==== Sys2Proof/Machine/DioIn.lean ====
section
/-! DEFINITION. The input path of the discrete lines: filters, stamps, edge FIFOs and quadrature decoders (R259 to
R264). -/

namespace Sys2Proof.Machine

/-! ## Edges (R259 to R264) -/

/-- TS_EDGE takes an edge. -/
def edgeTaken (sel : Nat) (rise : Bool) : Bool := match sel with
  | 1 => rise
  | 2 => !rise
  | 3 => true
  | _ => false

/-- An edge is pushed into the line's FIFO of 16 entries, or dropped (R261). -/
def fifoPush (s : State) (n : Nat) (e : Stamp) : State :=
  if !edgeTaken (rd s (DIO_CFG_TS_EDGE n)) e.rise then s
  else if (s.line n).fifo.length < 16 then s.setLine n { s.line n with fifo := (s.line n).fifo ++ [e], seen := true }
  else
    let m := (s.clk.ft.toNat, e, rd s (DIO_TS_STAT_OVF n), rd s DIO_EVT_TS_OVF)
    wrs (s.setLine n { s.line n with miss := some m }) [(DIO_TS_STAT_OVF n, 1), (DIO_EVT_TS_OVF, 1)]

/-- The head of an edge FIFO is popped. In the cycle in which an edge found the FIFO full the pop comes first, and the edge
is kept (R261). -/
def fifoPop (s : State) (n : Nat) : State :=
  let l := s.line n
  match l.miss with
  | some (ft, e, ovf, evt) =>
    if ft = s.clk.ft.toNat then
      wrs (s.setLine n { l with fifo := l.fifo.drop 1 ++ [e], miss := none }) [(DIO_TS_STAT_OVF n, ovf), (DIO_EVT_TS_OVF, evt)]
    else s.setLine n { l with fifo := l.fifo.drop 1 }
  | none => s.setLine n { l with fifo := l.fifo.drop 1 }

/-- A leading edge reaches the Drover's sensors that watch the line, in ascending order, while the Drover is active (R165,
R181). -/
def sensorSee (s : State) (n : Nat) (e : Stamp) : State :=
  if !drvActive s then s
  else
    let l := those 32 fun k => flag s (DRV_SNS_CTRL_EN k) && rd s (DRV_SNS_CTRL_LINE k) == n &&
      (flag s (DRV_SNS_CTRL_EDGE k) != e.rise)
    { s with drv := { s.drv with waiting := s.drv.waiting ++ l.map fun k => (k, e.ns * 65536 + e.frac) } }

/-- The filter time of a line in units of 2^-48 ns of FT (R259). -/
def filtUnits (s : State) (n : Nat) : Int :=
  rd s (DIO_CFG_FILT n) * (if flag s (DIO_CFG_FUNIT n) then 1000 else 16) * 2 ^ 48

/-- The stamp, in units of 2^-48 ns, at which the filtered level of a line changes: the raw edge that began the run plus the
filter time (R260). -/
def edgeAt (s : State) (n : Nat) : Option Int := (s.line n).run.map (· + filtUnits s n)

/-- The filtered level of a line changes: the level, its FIFO, the capture units and the Drover's sensors take the one
stamp (R260). -/
def lineEdge (s : State) (n : Nat) : State :=
  match edgeAt s n with
  | none => s
  | some u =>
    let lvl := (s.line n).pad
    let e : Stamp := ⟨(u / 2 ^ 48).toNat, (u / 2 ^ 32 % 2 ^ 16).toNat, lvl⟩
    let t := wr (s.setLine n { s.line n with run := none }) (DIO_STAT_LEVEL n) (natOf lvl)
    sensorSee (capEdge (fifoPush t n e) n e) n e

/-- The increment of a decoder: A leading B counts up (R262). Arguments: the new levels, whether A changed, REV. -/
def quadStep (a b aChanged rev : Bool) : Int :=
  let up := if aChanged then a != b else a == b
  if up != rev then 1 else -1

/-- An index edge (R263). -/
def quadIndex (s : State) (d : Nat) : State :=
  let idx := rd s (DIO_QD_CFG_IDX d)
  if idx = 0 then s
  else
    let s1 := wr s (DIO_QD_IDX_COUNT d) (rd s (DIO_QD_CNT_COUNT d))
    if idx = 2 then wr s1 (DIO_QD_CNT_COUNT d) 0
    else if idx = 3 ∧ !(s.quad d).idxDone then (wr s1 (DIO_QD_CNT_COUNT d) 0).setQuad d { s1.quad d with idxDone := true }
    else s1

/-- A decoder takes the changes of one cycle: old is the state before them (R262, R263). -/
def quadTake (old s : State) (d : Nat) : State :=
  if !flag s (DIO_QD_CFG_EN d) then s
  else
    let lv (t : State) (n : Nat) := flag t (DIO_STAT_LEVEL n)
    let qa := rd s (DIO_QD_CFG_QA d)
    let qb := rd s (DIO_QD_CFG_QB d)
    let qi := rd s (DIO_QD_CFG_QI d)
    let ca := lv old qa != lv s qa
    let cb := lv old qb != lv s qb
    let s1 :=
      if ca && cb then wr (incSat s (DIO_QD_ERR_ERR d)) DIO_EVT_QD_ERR 1
      else if ca || cb then
        let i := quadStep (lv s qa) (lv s qb) ca (flag s (DIO_QD_CFG_REV d))
        (wrI s (DIO_QD_CNT_COUNT d) (rdI s (DIO_QD_CNT_COUNT d) + i)).setQuad d { s.quad d with sum := (s.quad d).sum + i }
      else s
    if !lv old qi && lv s qi then quadIndex s1 d else s1

/-- The cycle, counted from the present one, in which the filtered level of a line changes; none while it does not. -/
def edgeCycle (s : State) (n : Nat) : Option Int :=
  match edgeAt s n with
  | none => none
  | some u => if u < s.clk.ft.toNat + cycleUnits s then some ((u - s.clk.ft.toNat) / cycleUnits s) else none

/-- The earliest of the cycles in which filtered levels change. -/
def nextEdge (s : State) (l : List Nat) : Option Int :=
  l.foldl (fun m n => match m, edgeCycle s n with
    | none, c => c
    | m, none => m
    | some a, some b => some (min a b)) none

/-- The filtered levels that have changed by now, cycle by cycle: the lines of one cycle change together (R259, R262). -/
def settleLines : Nat → List Nat → State → State
  | 0, _, s => s
  | k + 1, l, s =>
    match nextEdge s l with
    | none => s
    | some c =>
      let t := each (l.filter fun n => edgeCycle s n == some c) lineEdge s
      settleLines k (l.filter fun n => edgeCycle s n != some c) (each (List.range 12) (quadTake s) t)

/-- Every filtered level that has changed by the end of the present cycle is taken: the input path runs from ST08 on. -/
def inputsDue (s : State) : State :=
  if s.sys.loaded then settleLines 96 (those 96 fun n => (s.line n).run.isSome) s else s

/-- The raw level of a pad changes: a run of a level that differs from the filtered one begins, or ends without a trace
(R259). -/
def padTake (s : State) (n : Nat) (b : Bool) : State :=
  if 96 ≤ n then s
  else
    let l := s.line n
    s.setLine n { l with
      pad := b
      run := if !s.sys.loaded ∨ flag s (DIO_STAT_LEVEL n) = b then none
        else if l.run.isSome then l.run else some s.clk.ft.toNat }

end Sys2Proof.Machine
end

