-- ==== Sys2Proof/Machine/Dio.lean ====
section
/-! DEFINITION. The commands of the discrete lines and the ADCs (R259 to R279). -/

namespace Sys2Proof.Machine

/-- DIO_EDGE (R259, R260): raw levels change; every filtered level whose filter time is over by this cycle changes with
its stamp. -/
def execDioEdge (dt : Nat) (edges : List (Nat × Bool)) (s : State) : Out := .next <|
  let s := advance s dt
  let pads (t : State) : State := edges.foldl (fun u e => padTake u e.1 e.2) t
  if alive s then inputsDue (pads (inputsDue s)) else pads s

/-- TS_POP (R261). -/
def execTsPop (n : Nat) (s : State) : Out := .next <|
  if n < 96 then fifoPop s n else s

/-! ## Outputs (R265 to R274) -/

/-- QUEUE_ACTION_FIRE (R271): the head entry reaches its target by the rule of R128. -/
def execQueueActionFire (n : Nat) (s : State) : Out := .next <|
  match (s.line n).queue with
  | [] => s
  | e :: q =>
    let t := if due40 e.target (ftNs s) then s else advanceTo s (ftNs s + dist40 e.target (ftNs s))
    queueFire (t.setLine n { t.line n with queue := q }) n e.act

/-- QUEUE_PULSE_END (R271). -/
def execQueuePulseEnd (n : Nat) (s : State) : Out := .next <|
  match (s.line n).pulseEnd with
  | none => s
  | some e =>
    let t := advanceTo s e
    lineAct (t.setLine n { t.line n with pulseEnd := none }) n 0 .clear

/-- The present period of a line comes to its end; where none runs, the next begins now (log entry 121). -/
def toPeriod (s : State) (n : Nat) : State :=
  if (s.line n).perAt.isSome then advance s (dioPer s n - perCycles s n) else s

/-- PWM_PERIOD (R268): a period starts with the new DUTY and level bit. -/
def execPwmPeriod (n : Nat) (s : State) : Out := .next <|
  if dioHeeds s n ∧ dioMode s n = 2 then
    let s := toPeriod s n
    let l := s.line n
    let d := l.param % 65536
    s.setLine n { l with
      duty := d, pwmOn := l.bit, drive := some (l.bit && pwmHigh s n d != 0), perAt := some s.clk.ft.toNat }
  else s

/-- PULSE_TRAIN_PULSE (R269): a period elapses; the next pulse is sent or the train ends. -/
def execPulseTrainPulse (n : Nat) (s : State) : Out := .next <|
  if dioHeeds s n ∧ dioMode s n = 3 ∧ (s.line n).ptLeft ≠ 0 then
    let s := toPeriod s n
    let l := s.line n
    if l.ptLeft = 1 ∨ l.ptStop then s.setLine n { l with ptLeft := 0, ptStop := false, drive := some false, perAt := none }
    else s.setLine n { l with ptLeft := l.ptLeft - 1, drive := some true, perAt := some s.clk.ft.toNat }
  else s

/-- The raw input of a line, in logical terms, differs from the level it drives; not while it is undriven, nor open-drain
and released (R274). -/
def readbackDiffers (s : State) (n : Nat) : Bool :=
  match dioPad s n with
  | .low => (s.line n).pad
  | .high => !(s.line n).pad
  | _ => false

/-- READBACK_FAULT (R274): the difference has lasted RB_T µs. -/
def execReadbackFault (n : Nat) (s : State) : Out := .next <| whenAlive s fun s =>
  if n < 96 ∧ flag s (DIO_CFG_RB_EN n) ∧ readbackDiffers s n then
    let s1 := wr (wrBit s (DIO_RBF_RBF (n / 32)) (n % 32) true) DIO_EVT_RB_FAULT 1
    let s2 := if flag s (DIO_CFG_RB_OFF n) then
        (wr s1 (DIO_STAT_RELEASED n) 1).setLine n { s1.line n with drive := none, held := (s1.line n).drive }
      else s1
    raise s2 80 n
  else s

/-- RB_CLR (R274): the line is driven again at the level it was released at, or at its safe value where outputs do not
act. -/
def rbClr (s : State) (n : Nat) : State :=
  if n < 96 then
    let s1 := wrBit s (DIO_RBF_RBF (n / 32)) (n % 32) false
    if flag s (DIO_STAT_RELEASED n) then
      (wr s1 (DIO_STAT_RELEASED n) 0).setLine n
        { s1.line n with drive := if dioActs s then (s1.line n).held else dioSafeLevel s n, held := none }
    else s1
  else s

/-- RB_CLR (R274). -/
def execRbClr (n : Nat) (s : State) : Out := .next (whenAlive s fun s => rbClr s n)

/-- A line's queue empties (R272). -/
def qFlush (s : State) (n : Nat) : State := if n < 96 then s.setLine n { s.line n with queue := [] } else s

/-- Q_FLUSH (R272). -/
def execQFlush (n : Nat) (s : State) : Out := .next (whenAlive s fun s => qFlush s n)

/-! ## The ADCs (R275 to R279) -/

/-- A conversion enters the accumulator of its signal and of the tick of its sample instant (R276). -/
def acmAdd (s : State) (key code : Nat) : State :=
  let x := s.adc
  let same := x.curTick == some (tickNow s)
  let cur := if same then x.cur else []
  let a : Acm := tget (fun _ => {}) cur key
  let b : Acm := ⟨a.sum + code, a.n + 1, a.ovr || code == 0 || code == 65535⟩
  { s with adc := { x with
    cur := tput (fun _ => {}) cur key b, curTick := some (tickNow s), before := if same then x.before else acmJoin x.before x.cur } }

/-- The sample instant of a slot: now where the slot runs, else the next one (R275). -/
def toSlot (s : State) (slot : Nat) : State :=
  let pos := ftNs s % 100000
  if pos / 500 = slot then s
  else advanceTo s (ftNs s - pos + 500 * slot + if pos < 500 * slot then 0 else 100000)

/-- ADC_CONVERSION (R275, R276): frames run from ST08 on. -/
def execAdcConversion (dt a slot code : Nat) (s : State) : Out := .next <|
  let s := advance s dt
  whenAlive s fun s =>
    if 2 ≤ a ∨ 200 ≤ slot ∨ !flag s ADC_STATUS_RUN then s
    else
    let s := toSlot s slot
    if ainRuns s a slot then
      let k := (ainOfSlot a slot).getD 0
      let s1 := acmAdd (wr s (ADC_AIN_CODE k) code) k code
      if code = 0 ∨ code = 65535 then wr s1 ADC_EVT_OVR 1 else s1
    else match brnOfSlot slot with
      | some j => acmAdd s (8 + 3 * (8 * a + j / 3) + j % 3) code
      | none => if 50 ≤ slot ∧ slot < 58 then wr s (ADC_MON_CODE a (slot - 50)) code else s

/-- The per-tick average word of AIN k (R276): mean code rounded down, count, OVR, NONE. -/
def ainWord (prev : Int) (a : Acm) : Nat :=
  if a.n = 0 then wrapTo 16 prev + 2 ^ 25
  else wrapTo 16 (a.sum / a.n) + min a.n 255 * 2 ^ 16 + natOf a.ovr * 2 ^ 24

/-- The mean of a branch signal over a tick: mV for V_BUS and V_OUT, mA for I (R293, R294). -/
def brnMean (s : State) (n k : Nat) (a : Acm) : Int :=
  if k < 2 then roundDiv (a.sum * 70000) (65536 * a.n)
  else roundDiv ((a.sum - (32768 + rdI s (BRN_ZCAL_OFFSET n)) * a.n) * 125000000) (32768 * (s.brn n).cfg.rShunt * a.n)

/-- The per-tick average word of a branch signal (R294). -/
def brnWord (mean : Int) (a : Acm) : Nat := wrapTo 24 mean + natOf a.ovr * 2 ^ 24 + natOf (a.n == 0) * 2 ^ 25

/-- The average of signal key returns to the hub die: its word of the input image, and the mean it keeps. -/
def avgReturn (s : State) (key : Nat) : State :=
  let a : Acm := tget (fun _ => {}) s.adc.closed key
  let p := tget (fun _ => (0 : Int)) s.adc.prev key
  let n := (key - 8) / 3
  let m := if a.n = 0 then p else if key < 8 then a.sum / a.n else brnMean s n ((key - 8) % 3) a
  let w := if key < 8 then ainWord p a else brnWord m a
  { s with
    adc := { s.adc with prev := tput (fun _ => 0) s.adc.prev key m }
    trd := { s.trd with latched := tput (fun _ => 0) s.trd.latched (32 + key) (BitVec.ofNat 32 w) } }

/-- ADC_AVERAGE_RETURN (R276, R294): words 32 to 87. -/
def execAdcAverageReturn (s : State) : Out := .next <| whenAlive s fun s =>
  if s.adc.avgWait ∧ !s.rst.d2dHubLost then
    let t := each (List.range 56) avgReturn s
    { t with adc := { t.adc with avgWait := false, closed := [] } }
  else s

/-- TSCAN_DONE (R277). -/
def execTscanDone (a : Nat) (codes : List (Nat × Nat)) (s : State) : Out := .next <| whenAlive s fun s =>
  match tget (fun _ => none) s.adc.scan a with
  | none => s
  | some sc =>
    let s := advanceTo s (sc.samples.foldl (fun m p => max m p.2) 0)
    let put (t : State) (p : Nat × Nat) : State :=
      let c := (tget (fun _ => 0) codes p.1) % 65536
      let j := p.1 - 4 * a
      let t1 := wr t (if j % 2 = 0 then ADC_TSCAN_R_CODE_LO a (j / 2) else ADC_TSCAN_R_CODE_HI a (j / 2)) c
      if c = 0 ∨ c = 65535 then wr t1 ADC_EVT_OVR 1 else t1
    let s1 := sc.samples.foldl put { s with adc := { s.adc with scan := tput (fun _ => none) s.adc.scan a none } }
    let s2 := match sc.samples with
      | [] => s1
      | p :: _ => wr s1 (ADC_TSCAN_T_NS a) p.2
    orF (wrBit s2 ADC_STATUS_TS_BUSY a false) ADC_EVT_TSCAN_DONE (2 ^ a)

/-- The zero-current offset of an idle branch (R295). -/
def zeroCal (a : Nat) (s : State) (p : Nat × Int) : State :=
  let st := rd s (BRN_STAT_STATE p.1)
  if p.1 < 16 ∧ p.1 / 8 = a ∧ (st = bOff ∨ st = bLatchedOff ∨ st = bFailed) ∧ (s.brn p.1).rest + 100000000 ≤ ftNs s then
    if p.2.natAbs ≤ 1000 then wr (wrI s (BRN_ZCAL_OFFSET p.1) p.2) (BRN_ZCAL_ZCAL_OK p.1) 1
    else wr s (BRN_ZCAL_ZCAL_OK p.1) 0
  else s

/-- ADC_CALIBRATION (R278, R279, R295). -/
def execAdcCalibration (a : Nat) (offset : Int) (gain : Nat) (zero : List (Nat × Int)) (s : State) : Out :=
  .next <| whenAlive s fun s =>
  if 2 ≤ a then s
  else
    let pass := offset.natAbs ≤ 64 && decide (995 * 32768 ≤ 1000 * gain) && decide (1000 * gain ≤ 1005 * 32768)
    let s1 := zero.foldl (zeroCal a) s
    if pass then
      wrBit (wr (wrI { s1 with adc := { s1.adc with calFail := withBit s1.adc.calFail a false } } (ADC_CAL_OFFSET a) offset)
        (ADC_CAL_GAIN a) gain) ADC_STATUS_CAL_OK a true
    else
      raise (wr (wrBit { s1 with adc := { s1.adc with calFail := withBit s1.adc.calFail a true } } ADC_STATUS_CAL_OK a false)
        ADC_EVT_CAL_FAIL 1) 84 (a + wrapTo 16 offset * 2 ^ 16)

end Sys2Proof.Machine
end

