-- ==== Sys2Proof/Machine/Drv.lean ====
section
/-! DEFINITION. The commands of the Drover (R166, R169, R170, R176, R178). -/

namespace Sys2Proof.Machine

/-- SENSOR_EDGE (R169): the waiting edges up to the first of this sensor are matched, in stamp order. During P1 the
edges stamped in it wait for its end (R163). -/
def execSensorEdge (dt sn : Nat) (s : State) : Out := .next <|
  let s := advance s dt
  whenAlive s fun s =>
  if 32 ≤ sn ∨ !drvActive s ∨ !flag s (DRV_SNS_CTRL_EN sn) then s
  else
    let own := s.drv.waiting.filter (·.1 == sn)
    let t16 := ftNs s * 65536 + ftFrac s
    let s1 := if own = [] then { s with drv := { s.drv with waiting := s.drv.waiting ++ [(sn, t16)] } } else s
    let upTo := match firstEdge (s1.drv.waiting.filter (·.1 == sn)) with
      | none => 0
      | some e => e.2 + 1
    matchWaiting (matchTo s upTo) s1.drv.waiting.length s1

/-- WINDOW_MISSING (R170): FT has reached the close of the window of record i plus 1 µs. The edges stamped before it are
handled first, and an edge in the window wins. -/
def execWindowMissing (i : Nat) (s : State) : Out := .next <| whenAlive s fun s =>
  match winOf s i with
  | none => s
  | some w =>
    if recState s i ≠ dTrack ∨ beltStopped s (rd s (DRV_REC_ST_BELT i)) ∨ !drvActive s then s
    else
      let t := advanceTo s (w.closes + 1000).toNat
      let u := matchWaiting (matchTo t (ftNs t * 65536 + ftFrac t + 1)) t.drv.waiting.length t
      if winOf u i = some w ∧ recState u i = dTrack ∧ !edgeWaits u (rd u (DRV_REC_ST_NEXT i)) w then missWindow u i w else u

/-- RECORD_FREE (R166): DCLOSE of record i has passed, or LAST_V = 0, and HO_LEFT = 0. -/
def execRecordFree (i : Nat) (s : State) : Out := .next <| whenAlive s fun s =>
  if 1024 ≤ i ∨ !(recState s i == dHandoff || recState s i == dDone) ∨ rd s (DRV_REC_CTR_HO_LEFT i) ≠ 0 then s
  else
    let wait := modDiff 32 (rd s (DRV_REC_DCL_T i)) (ftNs s)
    recFree (if flag s (DRV_REC_ST_LAST_V i) ∧ 0 < wait then advanceTo s (ftNs s + wait.toNat) else s) i

/-- HANDOFF_IN (R176): a new stamp has been accepted into the entry of in channel c. -/
def execHandoffIn (c : Nat) (s : State) : Out := .next <| whenAlive s fun s =>
  if c < 4 ∧ flag s (DRV_HO_IN_EN c) ∧ drvActive s then hoTake (hoTake s c 0) c 1 else s

/-- DEST_CMD (R178): a write of the high word of DRV_DEST_CMD; the management transaction completes with OK. A match whose
edge has come wins over a command of the same cycle: the edges that wait are matched first. -/
def execDestCmd (ini obj dest : Nat) (keep : Bool) (s : State) : Out := .next <| whenAlive s fun s =>
  let s := matchWaiting (matchTo s (ftNs s * 65536 + ftFrac s + 1)) s.drv.waiting.length s
  let t := destCmd s (obj % 2 ^ 32) (dest % 2 ^ 16) keep
  if ini = 2 then t.emit (.busRsp 2 0 0) else t

end Sys2Proof.Machine
end

