-- ==== Sys2Proof/Machine/FlashOps.lean ====
section
/-! DEFINITION. What the flash holds: its areas, images and state pages, the Start Log, the boot header
(R356, R358 to R360, R372, R376, R381 to R383, R394). -/

namespace Sys2Proof.Machine

/-! ## Bytes -/

/-- n bytes at a NOR offset. -/
def norBytes (s : State) (off n : Nat) : List Byte := memBytes s (norBase + off) n

/-- The big-endian number of n bytes at a NOR offset (R4). -/
def norNum (s : State) (off n : Nat) : Nat := beNat (norBytes s off n)

/-- A big-endian number programmed at a NOR offset (R4). -/
def norPut (s : State) (off n v : Nat) : State := norProgram s off (beBytes n v)

/-! ## Programs and erases while PFW_N is low (R365, R412) -/

/-- A command that programs or erases the flash waits while PFW_N is low. -/
def norHeld (c : Instr) (f : State → State) (s : State) : State :=
  if s.sys.pfwLow then { s with sys := { s.sys with held := s.sys.held ++ [c] } } else f s

/-- A program that fails leaves each bit it would clear at either value. -/
def norFailed (s : State) (off : Nat) : List Byte → State
  | [] => s
  | b :: bs => norFailed (norProgram s.used off [b ||| BitVec.ofNat 8 (freeOf s 8)]) (off + 1) bs

/-! ## Erase counts (R369, R370) -/

/-- Blocks of 64 KiB from NOR offset 0x0190_0000. -/
def wearBase : Nat := 0x190_0000
def wearBlocks : Nat := 624

/-- The erase count of a block. -/
def wearOf (s : State) (b : Nat) : Nat := tget (fun _ => 0) s.sys.wear b

/-- WEAR_LIM as a count: 0 acts as 100 thousand. -/
def wearLimit (s : State) : Nat := (if rd s COB_CTRL_WEAR_LIM = 0 then 100 else rd s COB_CTRL_WEAR_LIM) * 1000

/-- The erase of a block is counted. -/
def countErase (s : State) (b : Nat) : State :=
  if wearBlocks ≤ b then s
  else
    let t := { s with sys := { s.sys with wear := tput (fun _ => 0) s.sys.wear b (wearOf s b + 1) } }
    if wearOf t b = wearLimit t then wr t COB_EVT_WEAR 1 else t

/-- The block of a NOR offset; none below 0x0190_0000. -/
def blockOf (off : Nat) : Option Nat := if wearBase ≤ off then some ((off - wearBase) / 0x1_0000) else none

/-- A block of 64 KiB is erased and the erase counted. -/
def eraseBlock (s : State) (off : Nat) : State :=
  let t := norErase s (off / 0x1_0000 * 0x1_0000) 0x1_0000
  match blockOf off with
  | none => t
  | some b => countErase t b

/-- Bytes of unknown value at a NOR offset: an erase that failed. -/
def norUnknown (s : State) (off : Nat) : Nat → State
  | 0 => s
  | n + 1 => norUnknown (memPut s.used (norBase + off) (BitVec.ofNat 8 (freeOf s 8))) (off + 1) n

/-- What the reset pulse of the flash leaves of a program or erase that a reset has cut short: each bit it would change at
either value (R411). -/
def cutShort (s : State) : State :=
  let t := { s with sys := { s.sys with cut := none } }
  match s.sys.cut with
  | none => t
  | some (op, off, page) =>
    if op = 1 then norFailed t (off / 256 * 256) page else norUnknown t (off / 0x1_0000 * 0x1_0000) 0x1_0000

/-! ## Areas (R394) -/

/-- Image kinds of R372. -/
def kFw : Nat := 1
def kLast : Nat := 2
def kKey : Nat := 3

/-- NOR offset of a firmware slot or a Last area, and its size. -/
def areaBase (kind k : Nat) : Nat := if kind = kFw then 0x10_0000 + 0x80_0000 * k else 0x110_0000 + 0x40_0000 * k
def areaSize (kind : Nat) : Nat := if kind = kFw then 0x80_0000 else 0x40_0000

/-- NOR offset of an area's state page: its last 4 KiB. -/
def statePage (kind k : Nat) : Nat := areaBase kind k + areaSize kind - 0x1000

/-! ## State pages (R381) -/

/-- Offsets of the marks. -/
def mSealed : Nat := 0
def mActive : Nat := 4
def mConfirmed : Nat := 8
def mSuperseded : Nat := 12
def mFallen : Nat := 16

/-- A mark of an area is programmed to 0. -/
def mark (s : State) (kind k m : Nat) : Bool := norNum s (statePage kind k + m) 4 == 0
def setMark (s : State) (kind k m : Nat) : State := norPut s (statePage kind k + m) 4 0

/-- The area is in use. -/
def inUse (s : State) (kind k : Nat) : Bool :=
  mark s kind k mConfirmed && !mark s kind k mSuperseded && !mark s kind k mFallen

/-- The area is on trial. -/
def onTrial (s : State) (kind k : Nat) : Bool :=
  mark s kind k mActive && !mark s kind k mConfirmed && !mark s kind k mFallen

/-- The area of a kind on trial, and the one in use. -/
def trialArea (s : State) (kind : Nat) : Option Nat := [0, 1].find? (onTrial s kind)
def usedArea (s : State) (kind : Nat) : Option Nat := [0, 1].find? (inUse s kind)

/-- Bytes programmed to 0 in a run of n. -/
def zeros (s : State) (off n : Nat) : Nat := ((norBytes s off n).filter (· == 0)).length

/-- Starts and hours counted on trial, and the limits. -/
def trialStarts (s : State) (kind k : Nat) : Nat := zeros s (statePage kind k + 64) 256
def trialHours (s : State) (kind k : Nat) : Nat := zeros s (statePage kind k + 320) 1024
def limitStarts (s : State) (kind k : Nat) : Nat := bits (norNum s (statePage kind k + 20) 4) 0 8
def limitHours (s : State) (kind k : Nat) : Nat := bits (norNum s (statePage kind k + 20) 4) 8 10

/-- The trial of an area is within its limits (R383). -/
def trialLive (s : State) (kind k : Nat) : Bool :=
  decide (trialStarts s kind k < limitStarts s kind k) &&
  (limitHours s kind k == 0 || decide (trialHours s kind k < limitHours s kind k))

/-- One more STARTS byte, or one more HOURS byte, is programmed. -/
def countStart (s : State) (kind k : Nat) : State := norProgram s (statePage kind k + 64 + trialStarts s kind k) [0]
def countHour (s : State) (kind k : Nat) : State := norProgram s (statePage kind k + 320 + trialHours s kind k) [0]

/-! ## Images (R372, R376) -/

/-- A number of an image, big-endian. -/
def imgNum (img : List Byte) (off n : Nat) : Nat := beNat (slice img off n)

/-- Fields of the header. -/
def imgArb (img : List Byte) : Nat := imgNum img 5 1
def imgFormat (img : List Byte) : Nat := imgNum img 6 2
def imgVersion (img : List Byte) : Nat := imgNum img 8 4 % 2 ^ 24
def imgLength (img : List Byte) : Nat := imgNum img 12 4
def imgMin (img : List Byte) : Nat := imgNum img 16 2
def imgMax (img : List Byte) : Nat := imgNum img 18 2
def imgRecFmt (img : List Byte) : Nat := imgNum img 20 2
def imgHub (img : List Byte) : Nat := imgNum img 22 2 % 4096
def imgTick (img : List Byte) : Nat := imgNum img 24 4
def imgK (img : List Byte) : Nat := imgNum img 28 1
def imgEpoch (img : List Byte) : Nat := imgNum img 32 4

/-- The greatest LENGTH of a kind: the destination less 4 KiB; a KEY image fits its staging of 4 KiB. -/
def maxLength (kind : Nat) : Nat := if kind = kKey then 4096 else areaSize kind - 4096

/-- SIZE or LENGTH meets R372. -/
def lengthOk (kind n : Nat) : Bool := decide (256 ≤ n) && decide (n ≤ maxLength kind)

/-- The header is valid for the kind: MAGIC, KIND, ARB, LENGTH, and the fields that are 0. -/
def headerOk (kind : Nat) (img : List Byte) : Bool :=
  imgNum img 0 4 == 0x5253_4C01 && imgNum img 4 1 == kind && decide (imgArb img ≤ 64) && imgNum img 8 1 == 0 &&
  lengthOk kind (imgLength img) && imgNum img 29 3 == 0 && imgNum img 36 28 == 0 &&
  (kind == kFw || (imgMax img == 0 && imgRecFmt img == 0)) &&
  (kind == kLast || (imgNum img 22 2 == 0 && imgTick img == 0 && imgK img == 0 && imgEpoch img == 0))

/-- Fields of the signature block of an image cut to its LENGTH. -/
def sigBlock (img : List Byte) : List Byte := img.drop (img.length - 192)
def sigDigest (img : List Byte) : Nat := imgNum (sigBlock img) 0 32
def sigSlot (img : List Byte) : Nat := imgNum (sigBlock img) 32 1
def sigKey (img : List Byte) : List Byte := slice (sigBlock img) 64 64
def sigSig (img : List Byte) : List Byte := slice (sigBlock img) 128 64

/-- SHA-256 of the image up to its signature block. -/
def imgHash (img : List Byte) : BitVec 256 := Config.sha256 (img.take (img.length - 192))

/-- The key check: SLOT names a key that is valid and not revoked, and PUBKEY hashes to it. -/
def keyOk (s : State) (img : List Byte) : Bool :=
  decide (sigSlot img < 4) && bitOf s.otp.valid (sigSlot img) && !bitOf s.otp.revoked (sigSlot img) &&
  Config.sha256 (sigKey img) == tget (fun _ => 0) s.otp.hash (sigSlot img)

/-- The signature check. -/
def sigOk (img : List Byte) : Bool := Config.ecdsaVerify (sigKey img) (imgHash img) (sigSig img)

/-- Life-cycle states of R366. -/
def lcBlank : Nat := 0
def lcProvisioned : Nat := 1
def lcField : Nat := 2
def lcReturn : Nat := 3

/-- The image an area holds, cut to its LENGTH. -/
def areaImage (s : State) (kind k : Nat) : List Byte :=
  norBytes s (areaBase kind k) (min (norNum s (areaBase kind k + 12) 4) (maxLength kind))

/-- The words for the tables that a Last area holds (log entry 20). -/
def lastTable (s : State) (k : Nat) : List (Nat × Nat) := Config.lastWords (areaImage s kLast k)

/-- ST06 and ST08 accept the image of an area: after a RESOLE reset its hash equals DIGEST of its state page (R380);
otherwise its header, its hash, and by the life-cycle state its signature are good (R366). -/
def areaOk (s : State) (resole : Bool) (kind k : Nat) : Bool :=
  let img := areaImage s kind k
  headerOk kind img &&
  (if resole then (imgHash img).toNat == norNum s (statePage kind k + 32) 32
   else (imgHash img).toNat == sigDigest img && s.otp.lc != lcReturn && (s.otp.lc == lcBlank || (keyOk s img && sigOk img)))

/-! ## The Start Log (R359, R360) -/

/-- NOR offset of the Start Log and its number of records. -/
def logOff : Nat := 0x210_0000
def logN : Nat := 4096

/-- Records that are not blank, in ascending order. -/
def logUsed (s : State) : List Nat :=
  (s.mem.filter fun c => decide (norBase + logOff ≤ c.1) && decide (c.1 < norBase + logOff + 256 * logN)).foldr
    (fun c l => let k := (c.1 - norBase - logOff) / 256
                if l.head? = some k then l else k :: l) []

/-- The newest record: the next one of the ring is blank. -/
def logLast (s : State) : Option Nat :=
  let u := logUsed s
  u.find? fun k => !u.contains ((k + 1) % logN)

/-- The position of the next record; none where the ring holds no blank one. -/
def logNext (s : State) : Option Nat :=
  match logLast s with
  | some k => some ((k + 1) % logN)
  | none => if (logUsed s).isEmpty then some 0 else none

/-- NOR offset of a record. -/
def recOff (k : Nat) : Nat := logOff + 256 * k

/-- A record has ended; and fails its CRC. -/
def recEnded (s : State) (k : Nat) : Bool := norNum s (recOff k + 252) 4 == 0
def recBad (s : State) (k : Nat) : Bool := recEnded s k && norNum s (recOff k + 248) 4 != crc32c (norBytes s (recOff k) 248)

/-- The newest start record: the newest record, or the one before where that is a shutdown record. -/
def logStart (s : State) : Option Nat :=
  match logLast s with
  | none => none
  | some k => if norNum s (recOff k + 4) 1 = 2 then some ((k + logN - 1) % logN) else some k

/-- RESULT of a step in a start record. -/
def recResult (s : State) (k step : Nat) : Nat := norNum s (recOff k + 48 + 8 * (step - 1)) 1

/-- The step a start that never reached ST14 was interrupted in. -/
def recStopped (s : State) (k : Nat) : Option Nat :=
  if recEnded s k then none
  else (List.range 13).findSome? fun i =>
    if recResult s k (i + 1) ≠ 0xFF ∧ recResult s k (i + 2) = 0xFF then some (i + 2) else none

/-- A step failed on the start a record belongs to (R358). -/
def recFailed (s : State) (k step : Nat) : Bool :=
  norNum s (recOff k + 4) 1 == 1 && !recBad s k && (recResult s k step == 5 || recStopped s k == some step)

/-- The header of a record: MAGIC, KIND, FORMAT, HUB, START_NO, CAUSE, ALSO. -/
def recHead (s : State) (kind no : Nat) : List Byte :=
  beBytes 4 0x534C_4701 ++ beBytes 1 kind ++ beBytes 1 1 ++ beBytes 2 (rd s SYS_HUB_ID_ID) ++ beBytes 4 no ++
  beBytes 1 (rd s SYS_RST_CAUSE_CAUSE) ++ beBytes 1 (rd s SYS_RST_CAUSE_ALSO)

/-- START_NO of the next record. -/
def logNo (s : State) : Nat :=
  match logLast s with
  | none => 1
  | some k => (norNum s (recOff k + 8) 4 + 1) % 2 ^ 32

/-- A record is closed: CRC, then END. -/
def recClose (s : State) (off : Nat) : State :=
  norPut (norPut s (off + 248) 4 (crc32c (norBytes s off 248))) (off + 252) 4 0

/-! ## Step entries (R359) -/

/-- RESULT codes. -/
def rPass : Nat := 1
def rAlt : Nat := 2
def rPartial : Nat := 3
def rSkipped : Nat := 4
def rFail : Nat := 5
def rNotRun : Nat := 6

/-- The bytes of a step's entry. -/
def stepBytes (r : StepRes) : List Byte :=
  beBytes 1 r.result ++ beBytes 1 r.attempts ++ beBytes 1 r.alt ++ [0xFF] ++ beBytes 4 r.tEnd

/-- A step ends: its entry is programmed where the record is open, and held otherwise. -/
def endStep (s : State) (step result attempts alt tEnd : Nat) : State :=
  let r : StepRes := ⟨result, attempts, alt, tEnd⟩
  match s.sys.record with
  | some off => norProgram s (off + 48 + 8 * (step - 1)) (stepBytes r)
  | none => { s with sys := { s.sys with steps := s.sys.steps ++ [(step, r)] } }

/-- The entries held so far are programmed into the record just opened. -/
def flushSteps (s : State) : State :=
  match s.sys.record with
  | none => s
  | some off => s.sys.steps.foldl (fun t p => norProgram t (off + 48 + 8 * (p.1 - 1)) (stepBytes p.2))
      { s with sys := { s.sys with steps := [] } }

/-- FLAGS of the record is programmed. -/
def endFlags (s : State) : State :=
  match s.sys.record with
  | none => s
  | some off => norPut s (off + 14) 2 s.sys.flags

/-- A record of the flash fails its check: NVM_ECC with its NOR offset (R360). -/
def nvmEcc (s : State) (off : Nat) : State := raise (wr (incSat s NVM_CNT_CRC) NVM_ERR_ADDR off) 112 off

end Sys2Proof.Machine
end

