-- ==== Sys2Proof/Machine/Rst.lean ====
section
/-! DEFINITION. The commands of reset, of the clock monitor and of the core watchdog (R18, R20, R26, R27, R357, R400,
R401, R421). -/

namespace Sys2Proof.Machine

/-- VDD_AON has been below its POR threshold: VALID of the verdict reads 0 and the activation request is gone
(R379, R401). -/
def aonLoss (s : State) : State := { wr s SYS_VERDICT_VALID 0 with act := none }

/-- The rest of the VDD_AON register file as power-up leaves it (R357). -/
def aonFree (s : State) : State :=
  wrs { s with fresh := s.fresh + 3 }
    [(SYS_VERDICT_RESULT, (Config.freeValue 2 s.fresh).toNat), (SYS_VERDICT_CONSUMED, (Config.freeValue 1 (s.fresh + 1)).toNat),
     (SYS_VERDICT_MISR, (Config.freeValue 32 (s.fresh + 2)).toNat)]

/-- The reset ends where REFCLK is within limits (R400). -/
def releaseIfClock (s : State) : State := if s.rst.refFail then s else releaseReset s

/-- POWER_ON_RESET (R20, R400, R401): both domains are reset, and power-on reset is released. -/
def execPowerOnReset (aonLost : Bool) (s : State) : Out := .next <|
  let t := orderReset s rPor
  releaseIfClock (if aonLost then aonFree (aonLoss t) else t)

/-- SYS_RST_N (R20, R421): a pulse of less than 10 µs may be ignored. -/
def execSysRstN (lowNs : Nat) (s : State) : Out := .next <|
  if 10000 ≤ lowNs then releaseIfClock (orderReset s rPin)
  else if freeOf s 1 = 1 then releaseIfClock (orderReset s.used rPin)
  else s.used

/-- REFCLK_FAILURE (R18): both domains are held in reset. -/
def execRefclkFailure (s : State) : Out := .next <|
  let t := orderReset s rClock
  { t with rst := { t.rst with refFail := true } }

/-- REFCLK_RECOVERY (R18): the hub starts from ST01. -/
def execRefclkRecovery (s : State) : Out := .next <|
  if s.rst.refFail then releaseReset { s with rst := { s.rst with refFail := false } } else s

/-- A shutdown holds the hub domain in reset: its LBIST, its record, or END = 0 (R361, R364). -/
def shutHolds (s : State) : Bool := s.rst.heldEnd || s.sys.shut == .lbist || s.sys.shut == .record

/-- HUB_DOMAIN_RELEASE (R27, R421): the 10 µs are over. -/
def execHubDomainRelease (s : State) : Out := .next <|
  if s.rst.busy ∧ !s.rst.refFail ∧ !shutHolds s then releaseReset (advance s (6250 - s.clk.cyc)) else s

/-- WATCHDOG_FIRST_EXPIRY (R26). -/
def execWatchdogFirstExpiry (pairs : Nat) (s : State) : Out := .next <| whenAlive s fun s =>
  raise { s with tnk := { s.tnk with wdog := true } } 121 (pairs % 4)

/-- WATCHDOG_SECOND_EXPIRY (R26): the reset follows whether or not a dump is complete; while a reset is in progress it
is one more cause (R27). -/
def execWatchdogSecondExpiry (s : State) : Out := .next <|
  if s.tnk.wdog ∨ s.rst.busy then orderReset s rWdog else s

/-- WATCHDOG_SERVICE (R26): the cause of CORE_WDOG is gone. -/
def execWatchdogService (s : State) : Out := .next { s with tnk := { s.tnk with wdog := false } }

end Sys2Proof.Machine
end

