-- ==== Sys2Proof/Machine/Tnk.lean ====
section
/-! DEFINITION. The commands of Tinker but the end of a dump (R328 to R347). -/

namespace Sys2Proof.Machine

/-- The sensors and rails as the monitors find them (R330, R401): the VDD_AON rail is bit 5. -/
def monitors (s : State) (temp rails : Nat) : State :=
  let t := { s with tnk := { s.tnk with temp := temp % 4, rails := rails % 2 ^ 9 } }
  if bitOf rails 5 then aonLoss t else t

/-- The BPD restarts: its branch state is that of a full reset (R401). -/
def bpdReset (s : State) : State := { s with regs := s.regs.filter fun c => !heldByBpd c.1, brns := [] }

/-- FAULT_RAISE (R328): every raise of one CLK_PER cycle. -/
def execFaultRaise (raises : List (Nat × Nat)) (temp rails : Nat) (bpd : Bool) (s : State) : Out := .next <|
  let t := monitors s temp rails
  raiseAll (if bpd then bpdReset t else t) raises

/-! ## Acknowledging and clearing (R334, R341) -/

/-- The sources a mask of word k names. -/
def sourcesOf (k mask : Nat) : List Nat := (those 32 (bitOf mask)).map (32 * k + ·)

/-- Sources are acknowledged, but for those raised in the same cycle. -/
def ackWrite (s : State) (k mask : Nat) (same : List (Nat × Nat)) : State :=
  let t := raiseAll s same
  if t.rst.busy then t
  else each ((sourcesOf k mask).filter fun x => stat s x && !same.any (·.1 == x)) (fun u x => setAck u x true) t

/-- TNK_ACK_WRITE (R334). -/
def execTnkAckWrite (k mask : Nat) (same : List (Nat × Nat)) (s : State) : Out := .next <| whenAlive s fun s =>
  if k < 4 then ackWrite s k mask same else s

/-- Statuses are cleared where their causes are gone, and refused clears counted; a source raised in the same cycle stays
set, and its raise is a new one (R341). -/
def statClear (s : State) (k mask : Nat) (same : List (Nat × Nat)) : State :=
  let l := (sourcesOf k mask).filter (stat s)
  let rej := l.filter (present s)
  let ok := l.filter fun x => !present s x
  let t := raiseFresh s ok same
  if t.rst.busy then t
  else
    let u := each (ok.filter fun x => !same.any (·.1 == x)) (fun u x => setAck (setStat u x false) x false) t
    if rej.isEmpty then u else wr (addSat u TNK_CNT_CLR_REJ rej.length) TNK_EVT_CLR_REJ 1

/-- TNK_STAT_CLEAR (R341). -/
def execTnkStatClear (k mask : Nat) (same : List (Nat × Nat)) (s : State) : Out := .next <| whenAlive s fun s =>
  if k < 4 then statClear s k mask same else s

/-! ## RESUME and FF_REARM (R337, R340) -/

/-- Every controller that may send starts its frame. -/
def sofAll (s : State) : State := each (List.range 16) sofGo s

/-- The hub is back in service: its outputs follow, its channels and controllers run (R236, R244, R337). -/
def backInService (s : State) (st : Nat) (ns : Nat) : State :=
  let t := enterService s st
  brnFollowAll (sofAll { t with trd := { t.trd with since := some ns } })

/-- RESUME: accepted, it waits for the next tick boundary (R337). -/
def resume (s : State) : State :=
  if hubState s ≠ stHalted ∨ standing s 3 then wr (incSat s TNK_CNT_RES_REJ) TNK_EVT_RES_REJ 1
  else if rd s TRD_TICK_NS_NS = 0 then s
  else { s with tnk := { s.tnk with resume := some (tickNow s + 1) } }

/-- An accepted RESUME takes effect: the boundary it waits for has come (R337). -/
def resumeDue (s : State) : State :=
  match s.tnk.resume with
  | none => s
  | some n =>
    if tickNow s < n then s
    else
      let t := { s with tnk := { s.tnk with resume := none } }
      if hubState t ≠ stHalted then t
      else backInService t (serviceState t) (boundaryNs t (rd t TRD_TICK_NS_NS) n).toNat

/-- The boundary of an accepted RESUME is waited for (R337). -/
def resumeTake (s : State) : State :=
  match s.tnk.resume with
  | none => s
  | some n => resumeDue (advanceTo s (boundaryNs s (rd s TRD_TICK_NS_NS) n).toNat)

/-- RESUME (R337). -/
def execResume (s : State) : Out := .next (whenAlive s resume)

/-- The first-fault record and its bitmap are cleared, and the raises of the cycle fill them (R340). -/
def rearm (s : State) (same : List (Nat × Nat)) : State :=
  raiseAll (each (List.range 4) (fun t k => wr t (TNK_FIRST_ALSO_ALSO k) 0)
    (wr (wrW s TNK_FIRST_SRC.addr 0) TNK_FIRST_T_NS 0)) same

/-- FF_REARM (R340). -/
def execFfRearm (same : List (Nat × Nat)) (s : State) : Out := .next (whenAlive s fun s => rearm s same)

/-! ## The FLT pair (R343 to R345) -/

/-- The pair may return to OK: MINW has elapsed, and every cause of the driver set is gone. -/
def fltMayRelease (s : State) : Bool :=
  flag s TNK_STATE_MINW_DONE && (!s.tnk.drvReset || s.tnk.st14) &&
    (List.range 128).all fun x => !bitOf s.tnk.drivers x || !present s x

/-- The pair returns to OK. -/
def fltOk (s : State) : State :=
  fltPins (wr { s with tnk := { s.tnk with drivers := 0, drvReset := false } } TNK_FLT_STATE 0)

/-- FLT_RELEASE: a qualifying raise of the same cycle wins; a pair that is OK has nothing to release (R343). -/
def fltRelease (s : State) (same : List (Nat × Nat)) : State :=
  let s := minwSettle s
  let t := raiseAll s same
  if t.rst.busy ∨ !flag s TNK_FLT_STATE then t
  else if fltMayRelease s && flag t TNK_STATE_MINW_DONE then fltOk t
  else wr (incSat t TNK_CNT_REL_REJ) TNK_EVT_REL_REJ 1

/-- FLT_RELEASE (R343). -/
def execFltRelease (same : List (Nat × Nat)) (s : State) : Out := .next (whenAlive s fun s => fltRelease s same)

/-- FLT_AUTO_RELEASE (R345): from ST14, with only the reset entry in the driver set. -/
def execFltAutoRelease (s : State) : Out := .next <| whenAlive s fun s =>
  if flag s TNK_FLT_STATE && s.tnk.st14 && s.tnk.drvReset && s.tnk.drivers == 0 then
    let t := minwSettle (advanceTo s (minwEnd s))
    if fltMayRelease t then fltOk t else t
  else s

/-- MINW_ELAPSED (R343). -/
def execMinwElapsed (s : State) : Out := .next <| whenAlive s fun s =>
  if flag s TNK_FLT_STATE then wr (advanceTo s (minwEnd s)) TNK_STATE_MINW_DONE 1 else s

/-- FLT_READBACK (R344): the levels that the pins have read for 10 µs; those that differ from the driven ones are an
error. -/
def execFltReadback (t c : Bool) (s : State) : Out := .next <|
  let u := wrs s [(TNK_FLT_PIN_T, natOf t), (TNK_FLT_PIN_C, natOf c)]
  if s.tnk.driven ∧ (natOf t ≠ rd s TNK_FLT_STATE ∨ natOf c ≠ 1 - rd s TNK_FLT_STATE) ∧ !s.rst.busy then
    wr (wr u TNK_FLT_RB_ERR 1) TNK_EVT_FLT_RB 1
  else u

/-! ## The Stocktake halves (R347) -/

/-- NOR offset and size of a Stocktake half. -/
def dumpBase (h : Nat) : Nat := 0x0220_0000 + 0x20_0000 * h
def dumpSize : Nat := 0x20_0000

/-- A half is erased from ST14 on, block by block; the half that holds the newest complete dump is kept. -/
def stocktakeErase (half : Nat) (s : State) : State :=
  if !s.tnk.st14 ∨ 2 ≤ half ∨ (flag s TNK_DUMP_STAT_LAST_VALID ∧ rd s TNK_DUMP_STAT_LAST_HALF = half) then s
  else wrBit (each (List.range 32) (fun t b => eraseBlock t (dumpBase half + 0x1_0000 * b)) s) TNK_DUMP_STAT_READY half true

/-- STOCKTAKE_ERASE (R347). -/
def execStocktakeErase (half : Nat) (s : State) : Out := .next <| whenAlive s
  (norHeld (.stocktakeErase half) (stocktakeErase half))

end Sys2Proof.Machine
end

