-- ==== Sys2Proof/Machine/Ldg.lean ====
section
/-! DEFINITION. The commands of the Ledger (R100, R106, R107). -/

namespace Sys2Proof.Machine

/-- LEDGER_AGING (R100, R101, R112, R337). -/
def execLedgerAging (s : State) : Out := .next <| whenAlive s fun s =>
  let p := rd s TRD_TICK_NS_NS
  if p = 0 then s
  else
    let t := toBoundary s p s.ldg.last
    degradedReturn (resumeDue (ageAll { t with ldg := { t.ldg with last := some (tickNow t) } }))

/-- ALIAS_WRITE (R106, R107): the writer is 0 the Treadle, 1 firmware, 2 management. -/
def execAliasWrite (ini i off : Nat) (bs : List Byte) (s : State) : Out := .next <| whenAlive s fun s =>
  if 256 ≤ i ∨ 64 < off + bs.length then s
  else
    let w := if ini = 0 then AliasWriter.treadle else .software
    let t := aliasWrite s w i off bs
    if ini = 2 then t.emit (.busRsp 2 (if aliasOk s w i then 0 else 5) 0) else t

end Sys2Proof.Machine
end

