-- ==== Sys2Proof/Machine/WeltOps.lean ====
section
/-! DEFINITION. The ring ports: going down and up, wraps and their notices, link-local frames, the link-delay filter
(R34 to R52, R190). -/

namespace Sys2Proof.Machine

/-- The receiver of a port is sound: it holds lock and receives no local fault (R41). -/
def rxGood (s : State) (p : Nat) : Bool := flag s (WELT_PORT_STAT_LOCK p) && !(s.port p).lf

/-- What a port transmits in its state (R34, R36, R41, R46): nothing while it is DISABLED or has no module, all traffic
when UP, idles in TRIAL; remote fault in DOWN and SYNC while its receiver is faulty, and in DOWN while the ring's other
port is DOWN as well (log entry 119), idles otherwise. -/
def txOf (s : State) (p : Nat) : Tx :=
  let st := portState s p
  if st = 0 ∨ flag s (WELT_PORT_STAT_SFP_MODABS p) then .dark
  else if st = pUp then .normal
  else if st = pTrial then .idle
  else if st = pDown ∧ (portState s (facing p) = pDown ∨ (flag s (WELT_PORT_CTRL_HIBER_WRAP p) ∧ flag s (WELT_PORT_STAT_HIBER p)))
    then .rf
  else if rxGood s p then .idle else .rf

/-- Both ports of a ring transmit as their states want. -/
def settleTx (s : State) (p : Nat) : State :=
  each [p, facing p] (fun t q => t.setPort q { t.port q with tx := txOf t q }) s

/-- The ports with HIBER. -/
def hiberMask (s : State) : Nat := maskOf 4 fun p => flag s (WELT_PORT_STAT_HIBER p)

/-- The 1 ms hold of SYNC starts again (R36). -/
def holdAgain (s : State) (p : Nat) : State := s.setPort p { s.port p with hold := ftNs s }

/-- LDLY_VALID is cleared and the averaging starts again; an exchange in progress is dropped (R52). -/
def unvalid (s : State) (p : Nat) : State :=
  (wr s (WELT_PORT_STAT_LDLY_VALID p) 0).setPort p { s.port p with ldN := 0, ldSum := 0, ldRej := 0, exch := none }

/-- KIND of a fault notice (R190). -/
def kWrap : Nat := 1
def kUnwrap : Nat := 2
def kRefresh : Nat := 3

/-- The ring domain's own broadcast of a notice about port p, sent on the other port of the ring (R45, R190). -/
def noticeFrame (s : State) (p kind : Nat) : List Byte :=
  let own := rd s SYS_HUB_ID_ID
  let q := facing p
  let h := [BitVec.ofNat 8 tFault, BitVec.ofNat 8 (7 * 32 + q * 4 + 2)] ++ beBytes 2 12 ++ beBytes 2 4095 ++ beBytes 2 own ++
    List.replicate 8 0 ++ beBytes 4 (ftNs s)
  mMake h (beBytes 1 kind ++ beBytes 1 (p / 2 + p % 2 * 2) ++ beBytes 2 own ++ beBytes 4 (rd s (WELT_WRAP_CNT_COUNT p)) ++
    beBytes 4 0)

/-- A notice leaves on the remaining port of the ring, where that one is UP (R76, R190). -/
def sendNotice (s : State) (p kind : Nat) : State :=
  if isUp s (facing p) then ringSend s (facing p) (.notice (noticeFrame s p kind)) else s

/-- A frame in progress on the turn-back port is truncated (R44). -/
def cutTurnBack (s : State) (q : Nat) : State :=
  if ftNs s < (s.port q).sendTo then (s.setPort q { s.port q with sendTo := ftNs s }).emit (.truncate q) else s

/-- A frame in progress towards a failed port is discarded, and none waits for it any longer (R44). -/
def cutFailed (s : State) (p : Nat) : State :=
  let t := s.setPort p { s.port p with sendTo := 0, trainTo := 0, waiting := [] }
  if ftNs s < ringBusy s p then t.emit (.discard p) else t

/-- A port that was UP no longer is: the ring is turned back at it, unless the hub is isolated on the ring
(R44 to R46, R191, R354). -/
def wrapPort (s : State) (p : Nat) : State :=
  let s0 := cutFailed (s.setPort p { s.port p with trainSeen := false, own := none, nbr := none, agreed := none }) p
  let s1 := if !isUp s0 (facing p) then s0
    else
      let t := cutTurnBack (wr (incSat s0 (WELT_WRAP_CNT_COUNT p)) (WELT_PORT_EVT_WRAP p) 1) (facing p)
      sendNotice (raise t 12 (wrapped t)) p kWrap
  let s2 := ownLink s1 p
  if s2.rst.busy then s2 else portReason s2

/-- A port takes a state below TRIAL; where it was UP, its ring wraps (R36, R48, R52). -/
def portTo (s : State) (p st : Nat) : State :=
  let t := unvalid (wr s (WELT_PORT_STAT_STATE p) st) p
  let t := t.setPort p { t.port p with own := none, nbr := none, agreed := none, hold := ftNs t, waiting := [] }
  settleTx (if isUp s p then wrapPort t p else t) p

/-- A port that may run does so (R34, R36, R38): DISABLED to DOWN. -/
def portRun (s : State) (p : Nat) : State :=
  if portState s p = pDisabled ∧ flag s (WELT_PORT_CTRL_ENABLE p) ∧ !flag s (WELT_PORT_CTRL_TXDIS_FORCE p) ∧
     !flag s (WELT_PORT_STAT_SFP_MODABS p) ∧ (s.port p).st09 ∧ !(s.port p).lbkFail then
    portTo s p pDown
  else s

/-- ENABLE and TXDIS_FORCE of a port take effect (R36). -/
def portCtrl (s : State) (p : Nat) : State :=
  if !flag s (WELT_PORT_CTRL_ENABLE p) ∨ flag s (WELT_PORT_CTRL_TXDIS_FORCE p) then
    (if portState s p = pDisabled then s else portTo s p pDisabled)
  else portRun s p

/-- A port of TRIAL or UP declares loss of signal or remote fault and goes DOWN (R40, R41): event and cause bit. -/
def declare (s : State) (p : Nat) (rf : Bool) : State :=
  let t := if rf then wrs s [(WELT_PORT_EVT_RF p, 1), (WELT_PORT_STAT_RF_RX p, 1)] else wr s (WELT_PORT_EVT_LOS p) 1
  portTo (raise t (8 + p) (if rf then 2 else 1)) p pDown

/-- A port goes UP by unwrap (R36, R49, R190, R191, R354). Where it is the first port of an isolated ring to come UP, no
wrap is counted, raised or noticed for the other one (DESIGN CHOICE, log entry 119: the spec ties these to a port that
goes down). -/
def toUp (s : State) (p : Nat) : State :=
  let t := wrs s [(WELT_PORT_STAT_STATE p, pUp), (WELT_PORT_EVT_UNWRAP p, 1)]
  let t := settleTx (t.setPort p { t.port p with own := none, nbr := none, agreed := none }) p
  let t := ownLink (sendNotice t p kUnwrap) p
  if t.rst.busy then t else portReason t

/-! ## Link-local frames (R48, R51) -/

/-- An unwrap frame leaves: 3 request, 4 acknowledgement. The port is in TRIAL, where link-local frames may leave at any
time (R50). Its SEQ is 0 (DESIGN CHOICE, log entry 119: R51 gives unwrap frames no value). -/
def sendUnwrap (s : State) (p kind lap : Nat) : State :=
  s.emit (.linkFrame p (linkPayload kind 0 (ftNow16 s) 0 0 lap))

/-- The agreed lap of two proposals (R48). -/
def agree (a b : Nat) : Nat :=
  if a = 0 then b else if b = 0 then a else if 0 < modDiff 24 a b then a else b

/-! ## The link-delay filter (R52) -/

/-- WELT_LDLY of a port in ns × 2^16. -/
def ldlyOf (s : State) (p : Nat) : Nat := rd s (WELT_LDLY_NS p) * 65536 + rd s (WELT_LDLY_FRAC p)
def setLdly (s : State) (p v : Nat) : State := wrs s [(WELT_LDLY_NS p, v / 65536), (WELT_LDLY_FRAC p, v % 65536)]

/-- A sample in ns × 2^16 is filtered. -/
def filterSample (s : State) (p : Nat) (x : Int) : State :=
  let q := s.port p
  let ok (t : State) : State := incWrap t (WELT_LDLY_CNT_OK p)
  let rej (t : State) : State := incWrap t (WELT_LDLY_CNT_REJ p)
  if x < 0 ∨ 65535 * 65536 < x then
    unvalid (wr (rej s) (WELT_PORT_EVT_LDLY_RANGE p) 1) p
  else if !flag s (WELT_PORT_STAT_LDLY_VALID p) then
    if q.ldN = 3 then
      wr (setLdly ((ok s).setPort p { q with ldN := 0, ldSum := 0, ldRej := 0 }) p (roundDiv (q.ldSum + x) 4).toNat)
        (WELT_PORT_STAT_LDLY_VALID p) 1
    else (ok s).setPort p { q with ldN := q.ldN + 1, ldSum := q.ldSum + x }
  else
    let d : Int := x - ldlyOf s p
    if d.natAbs ≤ 100 * 65536 then
      setLdly ((ok s).setPort p { q with ldRej := 0 }) p (roundDiv ((ldlyOf s p : Int) * 8 + d) 8).toNat
    else if q.ldRej = 3 then
      setLdly (wr ((rej s).setPort p { q with ldRej := 0 }) (WELT_PORT_EVT_LDLY_STEP p) 1) p x.toNat
    else (rej s).setPort p { q with ldRej := q.ldRej + 1 }

end Sys2Proof.Machine
end

