-- ==== Sys2Proof/Machine/StartOps.lean ====
section
/-! DEFINITION. The work of the start steps ST01 to ST08 (R328, R345, R355 to R360, R366, R379 to R383). -/

namespace Sys2Proof.Machine

/-! ## Outcomes -/

/-- This start follows a RESOLE reset (R380). -/
def afterResole (s : State) : Bool := rd s SYS_RST_CAUSE_CAUSE == rResole

/-- The next step begins. -/
def stepTo (s : State) (n : Nat) : State := wr s SYS_STEP_STEP n

/-- The start ends in SAFE at a step; from ST03 and R39 with the Welt in BYPASS (R352). -/
def startSafe (s : State) (step attempts tEnd : Nat) (bypass : Bool) : State :=
  let t := endFlags (endStep s step rFail attempts 6 tEnd)
  enterStill (if bypass then wr t WELT_CTRL_BYPASS_REQ 1 else t) stSafe

/-- A step is skipped (R358). -/
def skipStep (s : State) (step tEnd : Nat) : State :=
  wrs (endStep s step rSkipped 0 0 tEnd) [(SYS_EVT_SKIP, 1), (SYS_DEG_REASON, withBit (rd s SYS_DEG_REASON) 2 true)]

/-- The start goes on: the hub is in START, and no FATAL has ordered a reset. -/
def starts (s : State) : Bool := !s.rst.busy && hubState s == stStart

/-- A step of ST01 to ST08 runs where the start goes on. -/
def andThen (f : State → State) (s : State) : State := if starts s then f s else s

/-! ## ST01 to ST04 -/

/-- T_END of a step. -/
def tOf (env : StartEnv) (step : Nat) : Nat := env.times.getD (step - 1) 0

/-- The FLT pair as ST01 leaves it: after a full reset the pins show fault and MINW starts (R345). -/
def st01Pair (s : State) : State :=
  if s.rst.fromFull then
    fltPins (minwStart (wr { s with tnk := { s.tnk with driven := true, drivers := 0, drvReset := true } } TNK_FLT_STATE 1))
  else s

/-- ST01 SUPPLY (R345, R355). -/
def st01 (env : StartEnv) (s : State) : State :=
  let bad := env.rails % 2 ^ 9 ≠ 0 ∨ !env.d2d
  let s1 := { s with
    tnk := { s.tnk with rails := env.rails % 2 ^ 9 }
    rst := { s.rst with d2dHubLost := !env.d2d, d2dBpdLost := s.rst.d2dBpdLost && !env.d2d } }
  let s2 := raiseAll s1 ((if env.d2d then [] else [(1, 1)]) ++ if env.rails % 2 ^ 9 = 0 then [] else [(3, env.rails % 2 ^ 9)])
  if !starts s2 then s2
  else stepTo (endStep (st01Pair s2) 1 (if bad then rFail else rPass) 1 0 (tOf env 1)) 2

/-- The verdict of VDD_AON is fresh (R357). -/
def verdictFresh (s : State) : Bool :=
  flag s SYS_VERDICT_VALID && rd s SYS_VERDICT_RESULT == 1 && !flag s SYS_VERDICT_CONSUMED

/-- ST02 VERDICT and ST03 LBIST (R357, R362, R380). -/
def st03 (env : StartEnv) (s : State) : State :=
  if afterResole s then
    stepTo (endStep (endStep s 2 rNotRun 0 0 (tOf env 2)) 3 rNotRun 0 0 (tOf env 3)) 4
  else if verdictFresh s then
    stepTo (endStep (endStep (wr s SYS_VERDICT_CONSUMED 1) 2 rPass 1 0 (tOf env 2)) 3 rNotRun 0 0 (tOf env 3)) 4
  else
    let t := stepTo (wr (endStep s 2 rPass 1 0 (tOf env 2)) SYS_VERDICT_MISR env.misr.toNat) 3
    if env.misr = Config.romMisr then stepTo (endStep t 3 rPass 1 0 (tOf env 3)) 4
    else startSafe t 3 1 (tOf env 3) true

/-- ST04 FUSES (R355, R366). -/
def st04 (env : StartEnv) (s : State) : State :=
  if env.fuses then stepTo (endStep s 4 rPass 1 0 (tOf env 4)) 5 else startSafe s 4 1 (tOf env 4) false

/-! ## ST05 NVM (R356, R358 to R360, R379) -/

/-- The boot header is good. -/
def bootOk (s : State) : Bool :=
  norNum s 0 4 == 0x424F_4F54 && norNum s 4 2 == 1 && norNum s 12 4 == crc32c (norBytes s 0 12)

/-- The steps that the boot header lets be skipped and that failed on the last start (R358). -/
def skipMask (s : State) : Nat :=
  match logStart s with
  | none => 0
  | some k => [7, 10, 12, 13].foldl (fun m n => if bitOf (norNum s 10 2) n && recFailed s k n then m + 2 ^ n else m) 0

/-- The records read at ST05 that fail their CRC raise NVM_ECC (R360). -/
def checkLog (s : State) : State :=
  ((logLast s).toList.filter (recBad s)).foldl (fun t k => nvmEcc t (recOff k)) s

/-- This start's record is opened at the next free position (R359). -/
def openRecord (s : State) : State :=
  let no := logNo s
  match logNext s with
  | none => wr s SYS_START_NO_NO no
  | some k =>
    let off := recOff k
    let t := norProgram s off (recHead s 1 no)
    let u := norProgram (norPut t (off + 16) 4 s.sys.first) (off + 20)
      ([3, 2, 1, 0].flatMap fun i => beBytes 4 (s.sys.firstAlso.getD i 0))
    flushSteps (wr { u with sys := { u.sys with record := some off } } SYS_START_NO_NO no)

/-- The ACTIVE mark and the limits of an area are programmed. -/
def activateArea (s : State) (kind k starts hours : Nat) : State :=
  norPut (setMark s kind k mActive) (statePage kind k + 20) 4 (starts % 256 + hours % 1024 * 256)

/-- An activation request takes effect (R379). -/
def takeRequest (s : State) : State :=
  match s.act with
  | none => s
  | some r =>
    let t := match r.fw with
      | none => s
      | some k => activateArea s kFw k r.starts r.hours
    let u := match r.last with
      | none => t
      | some k => activateArea t kLast k r.starts r.hours
    wr { u with act := none } RSL_EVT_ACTIVATED 1

/-- The halves of the Stocktake that hold a complete dump, with their SEQ (R348). -/
def dumpsDone (s : State) : List (Nat × Nat) :=
  ([0, 1].filter fun h => norNum s (dumpBase h) 4 == 0x5354_4B01 && norNum s (dumpBase h + 4092) 4 == 0).map fun h =>
    (h, norNum s (dumpBase h + 8) 4)

/-- LAST_HALF, LAST_VALID and LAST_SEQ of TNK_DUMP_STAT as the flash gives them. -/
def findDump (s : State) : State :=
  match (dumpsDone s).foldl (fun b x => match b with
      | none => some x
      | some y => if 0 < modDiff 32 x.2 y.2 then some x else some y) (none : Option (Nat × Nat)) with
  | none => s
  | some (h, q) => wrs s [(TNK_DUMP_STAT_LAST_HALF, h), (TNK_DUMP_STAT_LAST_VALID, 1), (TNK_DUMP_STAT_LAST_SEQ, q)]

/-- ST05 NVM. -/
def st05 (env : StartEnv) (s : State) : State :=
  let s := cutShort s
  if !bootOk s then startSafe s 5 2 (tOf env 5) false
  else
    let oct := bitOf (norNum s 6 1) 0
    let s1 := wrB s NVM_STAT_OCT (oct && env.octal)
    let s2 := { s1 with sys := { s1.sys with skip := skipMask s1, flags := natOf !(oct && env.octal) } }
    let s3 := checkLog s2
    if !starts s3 then s3
    else
      let s4 := findDump (takeRequest (openRecord s3))
      let s5 := { s4 with sys := { s4.sys with st05 := true } }
      let alt := oct && !env.octal
      stepTo (endStep s5 5 (if alt then rAlt else rPass) (if alt then 2 else 1) (natOf alt) (tOf env 5)) 6

/-! ## ST06 FIRMWARE (R355, R366, R383) -/

/-- RSL_FALLBACK (source 114): bit 0 the firmware, bit 1 the Last. -/
def fallBack (s : State) (bit : Nat) : State := raise (wr s RSL_EVT_FALLBACK 1) 114 (2 ^ bit)

/-- The area a kind selects, and whether it is on trial (R383); a trial out of its limits is abandoned. -/
def selectArea (s : State) (kind : Nat) : State × Nat × Bool :=
  match trialArea s kind with
  | none => (s, (usedArea s kind).getD 0, false)
  | some k =>
    if trialLive s kind k then (countStart s kind k, k, true)
    else (fallBack (setMark s kind k mFallen) (kind - 1), (usedArea s kind).getD (1 - k), false)

/-- Attempt k of ST06 accepts a slot. -/
def fwTry (env : StartEnv) (s : State) (slot k : Nat) : Bool := areaOk s (afterResole s) kFw slot && !bitOf env.fwBad (k - 1)

/-- The attempt, 1 to 4, that accepts a slot; the first two take the selected one. -/
def fwAttempt (env : StartEnv) (s : State) (slot : Nat) : Option Nat :=
  [(1, slot), (2, slot), (3, 1 - slot), (4, 1 - slot)].findSome? fun p => if fwTry env s p.2 p.1 then some p.1 else none

/-- The slot is in use, and TRIAL_FW and STARTS show its trial. -/
def useFw (s : State) (slot : Nat) : State :=
  let t := { s with sys := { s.sys with fwSlot := slot, fwVer := imgVersion (areaImage s kFw slot) } }
  let u := if onTrial t kFw slot then wrs t [(RSL_STATUS_TRIAL_FW, 1), (RSL_STATUS_STARTS, trialStarts t kFw slot)] else t
  match u.sys.record with
  | none => u
  | some off => norPut u (off + 36) 4 (slot + u.sys.fwVer * 256)

/-- ST06 FIRMWARE. -/
def st06 (env : StartEnv) (s : State) : State :=
  let x := selectArea s kFw
  let s1 := x.1
  if !starts s1 then s1
  else
    let a := fwAttempt env s1 x.2.1
    let s2 := if x.2.2 ∧ (a.isNone ∨ 2 < a.getD 0) then fallBack (setMark s1 kFw x.2.1 mFallen) 0 else s1
    if !starts s2 then s2
    else match a with
      | none => startSafe s2 6 4 (tOf env 6) false
      | some k =>
        if k ≤ 2 then stepTo (endStep (useFw s2 x.2.1) 6 rPass k 0 (tOf env 6)) 7
        else stepTo (endStep (useFw s2 (1 - x.2.1)) 6 rAlt k 2 (tOf env 6)) 7

/-! ## ST07 MEMORY (R113, R161, R310, R358, R380) -/

/-- Every hub-domain memory is written to zero. -/
def zeroMemories (s : State) : State :=
  { s with
    mem := s.mem.filter fun c => !hubMemory c.1
    bad := []
    regs := s.regs.filter fun c => !(decide (0x4005_4000 ≤ c.1) && decide (c.1 < 0x4005_C400)) }

/-- ST07 MEMORY. -/
def st07 (env : StartEnv) (s : State) : State :=
  if bitOf s.sys.skip 7 then stepTo (skipStep (zeroMemories s) 7 (tOf env 7)) 8
  else if !afterResole s && !env.march then startSafe s 7 1 (tOf env 7) false
  else stepTo (endStep (zeroMemories s) 7 rPass 1 0 (tOf env 7)) 8

/-! ## ST08 LAST (R13, R33, R89, R113, R138, R161, R233, R256, R310, R316, R329, R355, R383) -/

/-- The firmware in use accepts the format of a Last area's image. -/
def formatOk (s : State) (a : Nat) : Bool :=
  let fw := areaImage s kFw s.sys.fwSlot
  let f := imgFormat (areaImage s kLast a)
  decide (imgMin fw ≤ f) && decide (f ≤ imgMax fw)

/-- ST08 accepts a Last area. -/
def lastOk (env : StartEnv) (s : State) (a : Nat) : Bool :=
  areaOk s (afterResole s) kLast a && !bitOf env.lastBad a && formatOk s a

/-- The Last area that is loaded. -/
def lastPick (env : StartEnv) (s : State) (a : Nat) : Option Nat :=
  if lastOk env s a then some a else if lastOk env s (1 - a) then some (1 - a) else none

/-- Version and layout of the schedule: the active one after a full reset; a newer one becomes the pending schedule
otherwise (R69, R89). -/
def loadSchedule (s : State) (ver : Nat) (tab : List (Nat × Nat)) : State :=
  if s.rst.fromFull then
    let t := wrs s [(TRN_SCHED_ACT_VER, ver), (TRN_SCHED_BANK, 0)]
    if stretchOn t then loadLayout t 0 tab else t
  else
    let d := modDiff 8 ver (rd s TRN_SCHED_ACT_VER)
    let s := { s with trn := { s.trn with unready := decide (d < 0) } }
    if 0 < d then
      let t := wrs s [(TRN_SCHED_PEND_VER, ver), (TRN_SCHED_PEND_VALID, 1)]
      if stretchOn t then loadLayout t (1 - activeBank t) tab else t
    else s

/-- The defaults of R330 stand where the Last gives no severity. -/
def defaultSev (s : State) : State := sourceTable.foldl (fun t r => wr t (TNK_SEV_SEV r.1) (max r.2.2 r.2.1)) s

/-- The level words of the output image take each output's safe value (R157, R161). -/
def safeImage (s : State) : State :=
  each (List.range 3) (fun t w => wr t (TRD_OUT_W w) (maskOf 32 fun b => dioSafeLevel s (32 * w + b) == some true)) s

/-- The running values that ST08 sets: contexts at INIT, status words PENDING, receive messages at the greatest age,
the first tag, the ADCs running. -/
def initUnits (s : State) : State :=
  let s1 := each (List.range 64) (fun t c => wr t (ASY_CTX_VAL_VAL c) (asyInit t c)) s
  let s2 := each (List.range 48) (fun t n => each (List.range (listLen t n)) (fun u k => u.setStg (swordOf u n k) 3) t) s1
  let s3 := each (those 32 fun m => flag s2 (CAN_RXM0_EN m)) (fun t m => t.setStg (rd t (CAN_RXM2_SWORD m)) 65535) s2
  wrs s3 [(FRY_STATUS_NEXT_TAG, ftNs s3 / 2 ^ 10), (ADC_STATUS_RUN, 1)]

/-- The area a Last was loaded from, its version, and FLAGS bit 1 where a word of it could not be loaded. -/
def lastInUse (s : State) (a version : Nat) (all : Bool) : State :=
  { s with sys := { s.sys with
    lastArea := a, lastVer := version, loaded := true
    flags := if all then s.sys.flags else s.sys.flags ||| 2 } }

/-- RSL_STATUS shows the trial of the Last in use (R381). -/
def lastTrial (s : State) (a : Nat) : State :=
  if onTrial s kLast a then
    (if flag s RSL_STATUS_TRIAL_FW then wr s RSL_STATUS_TRIAL_LAST 1
     else wrs s [(RSL_STATUS_TRIAL_LAST, 1), (RSL_STATUS_STARTS, trialStarts s kLast a)])
  else s

/-- The start record names the Last in use. -/
def lastRecord (s : State) (a : Nat) : State :=
  match s.sys.record with
  | none => s
  | some off => endFlags (norPut s (off + 40) 4 (a + s.sys.lastVer * 256))

/-- The input path begins: a pad whose level differs from the filtered one begins a run now (R259). -/
def inputsBegin (s : State) : State :=
  each (those 96 fun n => (s.line n).pad) (fun t n => t.setLine n { t.line n with run := some s.clk.ft.toNat }) s

/-- The Last of area a is loaded into tables and registers. -/
def loadLast (s : State) (a : Nat) : State :=
  let img := areaImage s kLast a
  let tab := lastTable s a
  let x := loadTable (defaultSev s) tab
  let t := safeImage (initUnits (loadSchedule x.1 (imgMin img % 256) tab))
  let u := lastTrial (lastInUse t a (imgVersion img) x.2) a
  let v := inputsBegin (if u.rst.hold then u else dioSafe u)
  lastRecord (routeAll (each (List.range 4) ownLink v)) a

/-- ST08 LAST: the tables loaded, the hub is JOINING. -/
def st08 (env : StartEnv) (s : State) : State :=
  let x := selectArea s kLast
  let s1 := x.1
  if !starts s1 then s1
  else match lastPick env s1 x.2.1 with
    | none => startSafe s1 8 1 (tOf env 8) false
    | some a =>
      let alt := a != x.2.1
      let s2 := if alt && x.2.2 then setMark s1 kLast x.2.1 mFallen else s1
      let s3 := loadLast s2 a
      wrs (endStep s3 8 (if alt then rAlt else rPass) 1 (if alt then 3 else 0) (tOf env 8))
        [(SYS_STATE_STATE, stJoining), (SYS_STEP_STEP, 9)]

/-- ST01 to ST08. -/
def startUp (env : StartEnv) (s : State) : State :=
  andThen (st08 env) (andThen (st07 env) (andThen (st06 env) (andThen (st05 env) (andThen (st04 env)
    (andThen (st03 env) (st01 env s))))))

end Sys2Proof.Machine
end

