-- ==== Sys2Proof/Machine/Start.lean ====
section
/-! DEFINITION. The commands of the start steps (R37 to R39, R87, R137, R138, R236, R244, R292, R352, R354, R355). -/

namespace Sys2Proof.Machine

/-- ST01_SUPPLY: ST01 to ST08 (R355). -/
def execSt01Supply (env : StartEnv) (s : State) : Out := .next <|
  if starts s && decide (rd s SYS_STEP_STEP ≤ 1) then startUp env s else s

/-! ## ST09 RINGUP -/

/-- The hub is JOINING and a step is running. -/
def joining (s : State) (step : Nat) : Bool := !s.rst.busy && hubState s == stJoining && rd s SYS_STEP_STEP == step

/-- Attempts of the running step are counted. -/
def tried (s : State) : State := { s with sys := { s.sys with tries := s.sys.tries + 1 } }

/-- The near-end loopback of a port (R37, R38). -/
def loopback (s : State) (p : Nat) (ok : Bool) : State :=
  let t := wrBit (wrBit s WELT_LBK_RESULT_RUN p true) WELT_LBK_RESULT_PASS p ok
  if ok then portRun (t.setPort p { t.port p with st09 := true }) p else t.setPort p { t.port p with lbkFail := true }

/-- The ring-domain faults held across a hub-domain reset (R25, R38). -/
def heldFaults (s : State) : List (Nat × Nat) :=
  ((List.range 4).filterMap fun p =>
    let c := rd s (WELT_PORT_EVT_LOS p) + 2 * rd s (WELT_PORT_EVT_RF p)
    if c ≠ 0 then some (8 + p, c) else none) ++
  (if (List.range 4).any fun p => flag s (WELT_PORT_EVT_WRAP p) then [(12, wrapped s)] else []) ++
  (if (List.range 4).any fun p => flag s (WELT_PORT_EVT_HIBER p) || flag s (WELT_PORT_STAT_HIBER p) then
    [(13, hiberMask s)] else []) ++
  (if rd s TRN_EVT_SLIP = 0 then [] else [(16, rd s TRN_EVT_SLIP)]) ++
  (if rd s TRN_STATUS_HEADLESS ≠ 0 ∨ flag s TRN_EVT_HEAD_LOSS_A ∨ flag s TRN_EVT_HEAD_LOSS_B then
    [(17, rd s TRN_STATUS_HEADLESS)] else []) ++
  (if flag s TRN_EVT_LAP_MISS then [(18, s.trn.missLap)] else [])

/-- ST09 begins: after a full reset the rates come into force and every enabled port runs its loopback, after any other
the held faults are raised (R33, R37, R38). -/
def ringBegin (s : State) (lbk : List (Nat × Bool)) : State :=
  let t := tried s
  if t.rst.fromFull then
    let t := { t with trn := { t.trn with slow := rd t WELT_CTRL_RATE_A + 2 * rd t WELT_CTRL_RATE_B } }
    each (those 4 fun p => flag t (WELT_PORT_CTRL_ENABLE p)) (fun u p => loopback u p (((lbk.find? (·.1 == p)).map (·.2)).getD true)) t
  else raiseAll t (heldFaults t)

/-- Every enabled port is UP. -/
def allUp (s : State) : Bool := (List.range 4).all fun p => !flag s (WELT_PORT_CTRL_ENABLE p) || isUp s p

/-- A complete ring pair: both ports of a ring are UP. -/
def pairUp (s : State) : Bool := (isUp s 0 && isUp s 1) || (isUp s 2 && isUp s 3)

/-- An enabled port that has passed its loopback test, or on which none has run. -/
def portFit (s : State) (p : Nat) : Bool := flag s (WELT_PORT_CTRL_ENABLE p) && !(s.port p).lbkFail

/-- No complete pair can form, because ports have failed loopback (R39). -/
def noPair (s : State) : Bool :=
  !(portFit s 0 && portFit s 1) && !(portFit s 2 && portFit s 3) &&
  (List.range 4).any fun p => flag s (WELT_PORT_CTRL_ENABLE p) && (s.port p).lbkFail

/-- LINK and SPEED of a spur under its MODE: SGMII at the PHY's in-band status where AN_EN = 1 and at what the operand says
otherwise, 2500BASE-X at one rate, and no link in the modes off and reserved (R205). -/
def spurLink (s : State) (sp v : Nat) : State :=
  let m := rd s (SPR_CTRL_MODE sp)
  if m = 1 then wrs s [(SPR_STAT_LINK sp, bits v 0 1), (SPR_STAT_SPEED sp, min 2 (bits v 1 2))]
  else if m = 2 then wrs s [(SPR_STAT_LINK sp, bits v 0 1), (SPR_STAT_SPEED sp, 3)]
  else wrs s [(SPR_STAT_LINK sp, 0), (SPR_STAT_SPEED sp, 0)]

/-- The links of the spurs as ST09 finds them, however it ends (R212). -/
def spurLinks (s : State) (l : List (Nat × Nat)) : State :=
  l.foldl (fun t p => if p.1 < 2 then spurLink t p.1 p.2 else t) s

/-- ST10 is over: ST11 begins, and a head named in the Last begins to wait for fresh trains (R88). -/
def timeOver (s : State) : State :=
  each [0, 1] (fun t r => t.setRing r { t.ring r with quiet := ftNs t }) (stepTo s 11)

/-- ST10 begins: the servo restarts; a skipped ST10 acts as its 5 s limit (R138, R358). -/
def timeBegin (s : State) (tUs : Nat) : State :=
  let t := bellRestart (stepTo { s with sys := { s.sys with tries := 0 } } 10)
  if bitOf s.sys.skip 10 then timeOver (wrBit (skipStep t 10 tUs) SYS_DEG_REASON 1 true) else t

/-- ST09 ends and ST10 begins. -/
def ringEnd (s : State) (result alt : Nat) (spurs : List (Nat × Nat)) (tUs : Nat) : State :=
  timeBegin (endStep (spurLinks s spurs) 9 result s.sys.tries alt tUs) tUs

/-- ST09_RINGUP: the step begins, and ends once every enabled port is UP, or no pair can form (R37, R39). -/
def execSt09Ringup (lbk : List (Nat × Bool)) (spurs : List (Nat × Nat)) (tUs : Nat) (s : State) : Out := .next <|
  if !joining s 9 then s
  else
    let t := if s.sys.tries = 0 then ringBegin s lbk else s
    if !joining t 9 then t
    else if allUp t then ringEnd t rPass 0 spurs tUs
    else if noPair t then startSafe (spurLinks t spurs) 9 t.sys.tries tUs true
    else t

/-- The ports are examined after TMO or a second (R39). -/
def ringExamine (s : State) (spurs : List (Nat × Nat)) (tUs : Nat) : State :=
  if allUp s then ringEnd s rPass 0 spurs tUs
  else if pairUp s then ringEnd s rAlt 4 spurs tUs
  else if noPair s then startSafe (spurLinks s spurs) 9 s.sys.tries tUs true
  else s

/-- BRINGUP_TIMEOUT (R37, R39): TMO has elapsed. -/
def execBringupTimeout (spurs : List (Nat × Nat)) (tUs : Nat) (s : State) : Out := .next <|
  if joining s 9 ∧ s.sys.tries ≠ 0 then ringExamine s spurs tUs else s

/-- RINGUP_RETRY (R39): one more attempt. -/
def execRingupRetry (spurs : List (Nat × Nat)) (tUs : Nat) (s : State) : Out := .next <|
  if joining s 9 ∧ s.sys.tries ≠ 0 then ringExamine (tried s) spurs tUs else s

/-! ## ST10 TIME (R137, R380) -/

/-- The condition that ends ST10 before its limit. -/
def timeDone (s : State) : Bool :=
  if afterResole s && flag s BELL_PPS_CTRL_LOCK_Q then true
  else if bellState s = lOrigin then
    rd s BELL_CTRL_SRC == 0 || rd s BELL_CTRL_SRC == 3 || flag s BELL_STATUS_EXT_LOCKED
  else bellState s == lLocked

/-- ST10_TIME. -/
def execSt10Time (limit : Bool) (tUs : Nat) (s : State) : Out := .next <|
  if !joining s 10 then s
  else if timeDone s then timeOver (endStep s 10 rPass 1 0 tUs)
  else if limit then timeOver (wrBit (endStep s 10 rAlt 1 5 tUs) SYS_DEG_REASON 1 true)
  else s

/-! ## ST11 JOIN (R87) -/

/-- Current lead frames have arrived on every train that the UP ports carry. -/
def joinMet (s : State) : Bool :=
  (List.range 4).any (isUp s) && (List.range 4).all fun t => !carried s t || (s.train t).met

/-- The Ledger is armed; a hub named head that launches no ring yet keeps the merge image current (R68, R87, R88). -/
def join (s : State) : State :=
  let t := wrs s [(LDG_STATUS_ARMED, 1), (TRN_STATUS_JOINED, 1)]
  let u := if (rd t TRN_CTRL_ROLE == 1 || rd t TRN_CTRL_ROLE == 2) && !(launches t 0 && launches t 1) then
      wr t TRN_STATUS_STANDBY 1 else t
  { u with trd := { u.trd with armedAt := some (ftNs u) } }

/-! ## ST12 CHANNELS (R215, R218, R236, R239, R244, R274) -/

/-- The configuration of a channel is valid (R215). -/
def chnCfgOk (s : State) (n : Nat) : Bool :=
  let d := rd s (CHN_CLK_DIV n)
  let p := rd s (CHN_MODEP_P n)
  match chnMode s n with
  | 1 => decide (320 ≤ d)
  | 2 => decide (5 ≤ d) && decide (d ≤ 65535)
  | 3 => decide (250 ≤ d) && decide (d ≤ 65535)
  | 4 => decide (25 ≤ d) && decide (d ≤ 65535) && decide (1 ≤ bits p 0 7) && decide (bits p 0 7 ≤ 64) && decide (1 ≤ bits p 8 8)
  | _ => false

/-- ST12 on a channel: IDLE at its idle levels, or FAILED and undriven. -/
def chnStart (env : JoinEnv) (s : State) (n : Nat) : State :=
  let m := chnMode s n
  if !flag s (CHN_CFG_START_EN n) ∨ m = 0 ∨ m = 5 then s.setChn n { s.chn n with pins := [] }
  else if chnCfgOk s n && !(m = 3 && env.chnBad.contains n) then
    (wr s (CHN_STAT_STATE n) cIdle).setChn n { s.chn n with pins := idlePins s n, cts := !env.ctsOff.contains n }
  else (wr s (CHN_STAT_STATE n) cFailed).setChn n { s.chn n with pins := [] }

/-- A nominal, and a data, bit timing lies within its ranges. -/
def nomOk (w : Nat) : Bool :=
  decide (1 ≤ bits w 0 6) && decide (bits w 0 6 ≤ 32) && decide (2 ≤ bits w 6 8) &&
  decide (1 ≤ bits w 14 7) && decide (bits w 14 7 ≤ 64) && decide (1 ≤ bits w 21 7) && decide (bits w 21 7 ≤ 64)
def datOk (w : Nat) : Bool :=
  decide (1 ≤ bits w 0 6) && decide (bits w 0 6 ≤ 32) && decide (1 ≤ bits w 6 6) && decide (bits w 6 6 ≤ 32) &&
  decide (1 ≤ bits w 12 5) && decide (bits w 12 5 ≤ 16) && decide (1 ≤ bits w 17 5) && decide (bits w 17 5 ≤ 16)

/-- The timing of a controller is valid: its own, or with AUTO_DET = 1 that of its candidates. -/
def canTimingOk (s : State) (k : Nat) : Bool :=
  let ok (n d : Nat) : Bool := nomOk n && (!flag s (CAN_CTRL_FD_EN k) || datOk d)
  if flag s (CAN_CTRL_AUTO_DET k) then
    (List.range (rd s (CAN_DET_NCAND_M1 k) + 1)).all fun j => ok (rd s (CAN_RATE_N_W k j)) (rd s (CAN_RATE_D_W k j))
  else ok (rdW s (CAN_NBT_BRP k).addr) (rdW s (CAN_DBT_BRP k).addr)

/-- ST12 on a controller: it takes the pins of a channel in MODE 5, and one that is not started keeps them in standby
(R241, R244). -/
def canBegin (env : JoinEnv) (s : State) (k : Nat) : State :=
  let mine := chnMode s k == mCan
  if !mine || !flag s (CAN_CTRL_START_EN k) then s.setCan k { s.can k with pins := mine, awake := false }
  else if canTimingOk s k && !env.canBad.contains k then
    let t := canStart s k
    t.setCan k { t.can k with pins := true }
  else (wr s (CAN_STAT_STATE k) nFailed).setCan k { s.can k with pins := true, awake := false }

/-- The lines that a readback fault has released raise it again (R274). -/
def releasedAgain (s : State) : State :=
  raiseAll s ((those 96 fun n => flag s (DIO_STAT_RELEASED n)).map fun n => (80, n))

/-- The UNIT reason (R354). -/
def unitBad (s : State) : State := wrBit s SYS_DEG_REASON 3 true

/-- T_END of ST11 to ST14. -/
def tJoin (env : JoinEnv) (step : Nat) : Nat := env.times.getD (step - 11) 0

/-- ST12 CHANNELS. -/
def st12 (env : JoinEnv) (s : State) : State :=
  if bitOf s.sys.skip 12 then
    let off := each (List.range 16) (fun t k => t.setCan k { t.can k with pins := false, awake := false })
      (each (List.range 48) (fun t n => t.setChn n { t.chn n with pins := [] }) s)
    stepTo (releasedAgain (skipStep off 12 (tJoin env 12))) 13
  else
    let t := each (List.range 16) (canBegin env) (each (List.range 48) (chnStart env) s)
    let bad := (List.range 48).any (fun n => chnState t n == cFailed) || (List.range 16).any fun k => canState t k == nFailed
    let u := if bad then unitBad t else t
    stepTo (releasedAgain (endStep u 12 (if bad then rPartial else rPass) 1 0 (tJoin env 12))) 13

/-! ## ST13 BRANCHES (R291, R292) -/

/-- A field lies within a range. -/
def within (s : State) (f : Fld) (a b : Nat) : Bool := decide (a ≤ rd s f) && decide (rd s f ≤ b)

/-- The configuration of a branch lies within the ranges of its registers. -/
def brnCfgOk (s : State) (n : Nat) : Bool :=
  within s (BRN_SHUNT_R_SHUNT n) 1000 10000 && within s (BRN_LIM_V_LIM n) 8 240 && within s (BRN_LIM_P_SOA n) 1 200 &&
  within s (BRN_LIM_T_START n) 1 1000 && within s (BRN_TMR_T_FLT n) 1 1000 && within s (BRN_TMR_T_RETRY n) 1 1000 &&
  within s (BRN_TMR_T_INS n) 1 1000 && within s (BRN_TOFF_T_SOFT n) 1 100 && within s (BRN_TOFF_T_REON n) 1 1000 &&
  within s (BRN_OV_OV_RISE n) 0 6500 && within s (BRN_PGD_V_PGD n) 1 255 &&
  (!flag s (BRN_CFG_PROT n) || (within s (BRN_TH_A_R_TH n) 1 65535 && within s (BRN_TH_A_C_TH n) 1 65535))

/-- The configuration that the D2D frame of ST13 carries. -/
def brnCfgOf (s : State) (n : Nat) : BrnCfg :=
  { prot := flag s (BRN_CFG_PROT n), disEn := flag s (BRN_CFG_DIS_EN n), retries := rd s (BRN_CFG_RETRIES n),
    rShunt := rd s (BRN_SHUNT_R_SHUNT n), vLim := rd s (BRN_LIM_V_LIM n), pSoa := rd s (BRN_LIM_P_SOA n),
    tFlt := rd s (BRN_TMR_T_FLT n), tInsMs := rd s (BRN_TMR_T_INS n), tOt := rd s (BRN_TH_B_T_OT n),
    rTh := rd s (BRN_TH_A_R_TH n), cTh := rd s (BRN_TH_A_C_TH n), rOn := rd s (BRN_TH_B_R_ON n), vPgd := rd s (BRN_PGD_V_PGD n)
    tStart := rd s (BRN_LIM_T_START n), tRetry := rd s (BRN_TMR_T_RETRY n), tSoft := rd s (BRN_TOFF_T_SOFT n)
    tReon := rd s (BRN_TOFF_T_REON n), uvRise := rd s (BRN_UV_UV_RISE n), uvFall := rd s (BRN_UV_UV_FALL n)
    ovRise := rd s (BRN_OV_OV_RISE n), ovFall := rd s (BRN_OV_OV_FALL n), vDis := rd s (BRN_PGD_V_DIS n) }

/-- ST13 on a branch: checked and configured, FAILED, or off under EN = 0. -/
def brnBegin (env : JoinEnv) (s : State) (n : Nat) : State :=
  let s := if brnState s n = bFailed then wr s (BRN_STAT_STATE n) bOff else s
  if !flag s (BRN_CFG_EN n) then
    let b := s.brn n
    brnFollow (s.setBrn n { b with frozen := b.frozen.map fun _ => false }) n
  else if brnCfgOk s n && (brnState s n != bOff || (!env.gateBad.contains n && flag s (BRN_STAT_CP_OK n))) then
    if s.rst.d2dBpdLost then s
    else brnLimit (s.setBrn n { s.brn n with cfg := brnCfgOf s n }) n (2 * rd s (BRN_MEAS_V_V_BUS n)) (2 * rd s (BRN_MEAS_V_V_OUT n))
  else brnRest (wrs s [(BRN_STAT_STATE n, bFailed), (BRN_STAT_PG n, 0), (BRN_STAT_PENDING_ON n, 0)]) n

/-- ST13 BRANCHES. -/
def st13 (env : JoinEnv) (s : State) : State :=
  let done (t : State) : State := heldTrips { t with rst := { t.rst with hold := false } }
  if bitOf s.sys.skip 13 then
    let off := brnFollowAll (each (List.range 16) (fun t n => t.setBrn n { t.brn n with frozen := none })
      { s with sys := { s.sys with brnOff := true } })
    stepTo (done (skipStep off 13 (tJoin env 13))) 14
  else
    let t := each (List.range 16) (brnBegin env) s
    let bad := (List.range 16).any fun n => brnState t n == bFailed
    let u := if bad then unitBad t else t
    stepTo (done (endStep u 13 (if bad then rPartial else rPass) 1 0 (tJoin env 13))) 14

/-! ## ST14 RUN (R336, R345, R352, R354, R359) -/

/-- The PORT reason as ST14 finds it. -/
def portReasonAt14 (s : State) : State :=
  wrBit s SYS_DEG_REASON 0 ((List.range 4).any fun p => flag s (WELT_PORT_CTRL_ENABLE p) && !isUp s p)

/-- ST14: RUN, DEGRADED or HALTED. -/
def st14 (env : JoinEnv) (s : State) : State :=
  let s1 := portReasonAt14 s
  let s2 := match s1.sys.record with
    | none => s1
    | some off => recClose (endStep s1 14 rPass 1 0 (tJoin env 14)) off
  let s3 := { s2 with
    tnk := { s2.tnk with st14 := true, pendDeg := false, pendHalt := false }
    sys := { s2.sys with st14 := ftNs s2 } }
  let s4 := if flag s3 TNK_FLT_STATE && !s3.rst.fromFull && s3.tnk.drvReset then minwStart s3 else s3
  if s1.tnk.pendHalt then enterStill s4 stHalted
  else backInService s4 (if s1.tnk.pendDeg || serviceState s4 == stDegraded then stDegraded else stRun) (ftNs s4)

/-- The hub is still JOINING, and no reset has been ordered. -/
def whileJoining (f : State → State) (s : State) : State := if !s.rst.busy && hubState s == stJoining then f s else s

/-- ST11_JOIN: the end of ST11, then ST12 to ST14. -/
def execSt11Join (env : JoinEnv) (s : State) : Out := .next <|
  let s := if joining s 11 then lapSync s else s
  if joining s 11 && joinMet s then
    whileJoining (st14 env) (whileJoining (st13 env) (st12 env
      (stepTo (endStep (join s) 11 rPass (s.sys.tries + 1) 0 (tJoin env 11)) 12)))
  else s

/-- JOIN_ATTEMPT (R87): a second passes in ST11. -/
def execJoinAttempt (s : State) : Out := .next <| if joining s 11 then tried s else s

end Sys2Proof.Machine
end

