-- ==== Sys2Proof/Machine/TrdOps.lean ====
section
/-! DEFINITION. The rule engine of the Treadle: rule words, operands, legality, the operations, the lanes and what they
write (R146 to R156, R422). -/

namespace Sys2Proof.Machine

/-! ## Rule words (R146) -/

/-- A rule word. -/
structure Rule where
  op : Nat
  w32 : Bool
  sgn : Bool
  notA : Bool
  notB : Bool
  notD : Bool
  sub : Nat
  dst : Nat
  a : Nat
  b : Nat
  imm : Nat
  deriving DecidableEq, Repr

/-- The fields of a 128-bit rule word (R146). -/
def ruleOf (n : Nat) : Rule where
  op := bits n 120 8
  w32 := bitOf n 119
  sgn := bitOf n 118
  notA := bitOf n 117
  notB := bitOf n 116
  notD := bitOf n 115
  sub := bits n 112 3
  dst := bits n 86 26
  a := bits n 60 26
  b := bits n 34 26
  imm := bits n 0 32

/-- The local address of rule r. -/
def ruleAddr (r : Nat) : Nat := 0x5040_0000 + 16 * r

/-- Rule r as rule memory holds it. -/
def ruleAt (s : State) (r : Nat) : Rule := ruleOf (leNat (memBytes s (ruleAddr r) 16))

/-- The operations of R149. -/
def oNop : Nat := 0x00
def oBool : Nat := 0x01
def oCmp : Nat := 0x02
def oArith : Nat := 0x03
def oScale : Nat := 0x04
def oSel : Nat := 0x05
def oEdge : Nat := 0x06
def oLatch : Nat := 0x07
def oTon : Nat := 0x08
def oTof : Nat := 0x09
def oCnt : Nat := 0x0A
def oZone : Nat := 0x0B
def oSnap : Nat := 0x0C
def oBarrier : Nat := 0x0F

/-! ## Operands (R147) -/

/-- The spaces of R147. -/
def spFlag : Nat := 0
def spScr : Nat := 1
def spIn : Nat := 2
def spLdg : Nat := 3
def spPub : Nat := 4
def spOut : Nat := 5
def spSpc : Nat := 6
def spImm : Nat := 7

/-- The space of an operand, its word and its bit; flag f is bit f & 31 of word f >> 5 (R147, R160). -/
def opSp (o : Nat) : Nat := bits o 23 3
def opWord (o : Nat) : Nat := bits o 5 18
def opBit (o : Nat) : Nat := bits o 0 5

/-- The number of words in a space (R147); the Ledger has 14,336 entries (R91). -/
def spWords (sp : Nat) : Nat :=
  if sp = spFlag then 512
  else if sp = spScr then 4096
  else if sp = spIn then 2048
  else if sp = spLdg then 14336 * 16
  else if sp = spPub then 4096
  else if sp = spOut then 256
  else if sp = spSpc then 32
  else 2 ^ 18

/-- The space is one a rule may write; PUB by its FW_OWN (R147, R148). -/
def spWrites (sp : Nat) : Bool := [spFlag, spScr, spPub, spOut].contains sp

/-- A word of the stored space, without the writes that have not taken effect. -/
def spRead (s : State) (sp w : Nat) : Nat :=
  if sp = spFlag then rd s (TRD_FLG_W w)
  else if sp = spScr then rd s (TRD_SCR_W w)
  else if sp = spIn then rd s (TRD_IN_W w)
  else if sp = spLdg then memWord s (payloadAddr (w / 16) + 4 * (w % 16))
  else if sp = spPub then memWord s (backBuf s (w / 16) + 4 * (w % 16))
  else if sp = spOut then rd s (TRD_OUT_W w)
  else if sp = spSpc then rd s (TRD_SPW_W w)
  else 0

/-- A word with the bits of a write replaced. -/
def masked (old mask val : Nat) : Nat := (old &&& (0xFFFF_FFFF ^^^ mask)) ||| (val &&& mask)

/-- A word of a space as a lane sees it in a cycle of P2: every write that took effect before it (R156). -/
def seen (s : State) (c sp w : Nat) : Nat :=
  (s.trd.writes.filter fun x => x.sp == sp && x.word == w && decide (x.cycle < c)).foldl
    (fun v x => masked v x.mask x.val) (spRead s sp w)

/-- A bit operand (R147): IMM reads IMM[0]. -/
def bitIn (s : State) (c : Nat) (r : Rule) (o : Nat) : Bool :=
  if opSp o = spImm then bitOf r.imm 0 else bitOf (seen s c (opSp o) (opWord o)) (opBit o)

/-- The width of word operations (R146). -/
def Rule.width (r : Rule) : Nat := if r.w32 then 32 else 16

/-- A word operand as a number (R147, R150). -/
def wordIn (s : State) (c : Nat) (r : Rule) (o : Nat) : Int :=
  let v := if opSp o = spImm then r.imm else seen s c (opSp o) (opWord o) / 2 ^ opBit o
  if r.sgn then signed r.width (v % 2 ^ r.width) else (v % 2 ^ r.width : Nat)

/-- A result saturated to the destination's width and signedness (R150). -/
def Rule.sat (r : Rule) (v : Int) : Int :=
  if r.sgn then min (max v (-(2 : Int) ^ (r.width - 1))) (2 ^ (r.width - 1) - 1) else min (max v 0) (2 ^ r.width - 1)

/-! ## Legality (R148) -/

/-- SEL selects bits: W32 = 0 with both A and B in FLAG (R149). -/
def selBits (r : Rule) : Bool := !r.w32 && opSp r.a == spFlag && opSp r.b == spFlag

/-- The operand lies within its space; IMM's location is ignored. -/
def inSpace (o : Nat) : Bool := opSp o == spImm || decide (opWord o < spWords (opSp o))

/-- A bit operand that is read, and one that is written. -/
def bitOk (o : Nat) : Bool := inSpace o
def bitDst (o : Nat) : Bool := inSpace o && spWrites (opSp o)

/-- The bit offset of a word operand suits its width; FLAG holds no words. -/
def wordOk (r : Rule) (o : Nat) : Bool :=
  opSp o == spImm || (inSpace o && opSp o != spFlag && (opBit o == 0 || (!r.w32 && opBit o == 16)))
def wordDst (r : Rule) (o : Nat) : Bool := spWrites (opSp o) && wordOk r o

/-- The operand is an SCR word at bit offset 0. -/
def scrOk (o : Nat) : Bool := opSp o == spScr && inSpace o && opBit o == 0

/-- The operand is a Ledger entry at word 0 and bit 0. -/
def entryOk (o : Nat) : Bool := opSp o == spLdg && inSpace o && bits o 0 9 == 0

/-- The rule is legal (R148). -/
def legal (r : Rule) : Bool :=
  if r.op = oNop ∨ r.op = oBarrier then r.sub == 0
  else if r.op = oBool then decide (r.sub < 4) && bitDst r.dst && bitOk r.a && (r.sub == 3 || bitOk r.b)
  else if r.op = oCmp then decide (r.sub < 6) && bitDst r.dst && wordOk r r.a && wordOk r r.b
  else if r.op = oArith then wordDst r r.dst && wordOk r r.a && (r.sub == 5 || wordOk r r.b)
  else if r.op = oScale then r.sub == 0 && wordDst r r.dst && wordOk r r.a && wordOk r r.b
  else if r.op = oSel then
    r.sub == 0 && bitOk (r.imm % 2 ^ 26) &&
      (if selBits r then bitDst r.dst && bitOk r.a && bitOk r.b else wordDst r r.dst && wordOk r r.a && wordOk r r.b)
  else if r.op = oEdge then decide (r.sub < 3) && bitDst r.dst && bitOk r.a && bitDst r.b
  else if r.op = oLatch then decide (r.sub < 2) && bitDst r.dst && bitOk r.a && bitOk r.b
  else if r.op = oTon ∨ r.op = oTof then decide (r.sub < 2) && bitDst r.dst && bitOk r.a && scrOk r.b
  else if r.op = oCnt then decide (r.sub < 2) && scrOk r.dst && bitOk r.a && bitOk r.b && r.imm % 2 == 0
  else if r.op = oZone then r.sub == 0 && bitDst r.dst && bitOk r.a && bitOk r.b && decide (r.imm % 2 ^ 12 + 1 ≤ 4095)
  else if r.op = oSnap then r.sub == 0 && entryOk r.a && scrOk r.dst && decide (opWord r.dst + 16 ≤ 4095)
  else false

/-- The cost of a rule in cycles of its lane (R149). -/
def cost (r : Rule) : Nat :=
  if !legal r then 1
  else if r.op = oArith then (if r.sub = 2 then 2 else 1)
  else if r.op = oScale ∨ r.op = oCnt then 2
  else if r.op = oZone then 4
  else if r.op = oSnap then 17
  else 1

/-- The operands a rule reads. -/
def reads (r : Rule) : List Nat :=
  if r.op = oNop ∨ r.op = oBarrier then []
  else if r.op = oSel then [r.a, r.b, r.imm % 2 ^ 26]
  else if (r.op = oBool ∧ r.sub = 3) ∨ (r.op = oArith ∧ r.sub = 5) ∨ r.op = oSnap ∨ r.op = oTon ∨ r.op = oTof then [r.a]
  else [r.a, r.b]

/-- The rule reads the Ledger, so that a copy commit can hold it (R156). -/
def readsLedger (r : Rule) : Bool := legal r && (reads r).any fun o => opSp o == spLdg

/-! ## The operations (R149 to R155)

Each gives the writes of the rule as operand and value: a bit, or a word of the rule's width. -/

/-- A value a rule writes: a bit operand, a word operand of the rule's width, a whole 32-bit word, or bits of one. -/
inductive Put
  | bit (o : Nat) (b : Bool)
  | word (o : Nat) (v : Int)
  | full (o v : Nat)
  | part (o mask v : Nat)
  deriving DecidableEq, Repr

/-- The operand of scratch word w at bit offset 0, and of flag f. -/
def scrOp (w : Nat) : Nat := spScr * 2 ^ 23 + 32 * w
def flagOp (f : Nat) : Nat := f

/-- Bit operand A and B as used (R150). -/
def inA (s : State) (c : Nat) (r : Rule) : Bool := bitIn s c r r.a != r.notA
def inB (s : State) (c : Nat) (r : Rule) : Bool := bitIn s c r r.b != r.notB

/-- A bit result written to DST. -/
def putD (r : Rule) (v : Bool) : Put := .bit r.dst (v != r.notD)

/-- BOOL (R149). -/
def opBool (s : State) (c : Nat) (r : Rule) : List Put :=
  let a := inA s c r
  [putD r (match r.sub with
    | 0 => a && inB s c r
    | 1 => a || inB s c r
    | 2 => a != inB s c r
    | _ => a)]

/-- CMP (R149). -/
def opCmp (s : State) (c : Nat) (r : Rule) : List Put :=
  let a := wordIn s c r r.a
  let b := wordIn s c r r.b
  [putD r (match r.sub with
    | 0 => a == b
    | 1 => a != b
    | 2 => decide (a < b)
    | 3 => decide (a ≤ b)
    | 4 => decide (b < a)
    | _ => decide (b ≤ a))]

/-- ARITH (R149, R150): the bitwise operations act on the operands' bits. -/
def opArith (s : State) (c : Nat) (r : Rule) : List Put :=
  let a := wordIn s c r r.a
  let b := wordIn s c r r.b
  let w := r.width
  [.word r.dst (match r.sub with
    | 0 => r.sat (a + b)
    | 1 => r.sat (a - b)
    | 2 => r.sat (a * b)
    | 3 => min a b
    | 4 => max a b
    | 5 => a
    | 6 => ((wrapTo w a &&& wrapTo w b : Nat) : Int)
    | _ => ((wrapTo w a ||| wrapTo w b : Nat) : Int))]

/-- SCALE (R149, R150): the shift rounds towards minus infinity. -/
def opScale (s : State) (c : Nat) (r : Rule) : List Put :=
  [.word r.dst (r.sat ((wordIn s c r r.a * signed 16 (bits r.imm 0 16)) / (2 : Int) ^ bits r.imm 16 5 + wordIn s c r r.b))]

/-- SEL (R149). -/
def opSel (s : State) (c : Nat) (r : Rule) : List Put :=
  let k := bitIn s c r (r.imm % 2 ^ 26)
  if selBits r then [putD r (if k then inA s c r else inB s c r)]
  else [.word r.dst (if k then wordIn s c r r.a else wordIn s c r r.b)]

/-- EDGE (R149): B keeps the A of this evaluation. -/
def opEdge (s : State) (c : Nat) (r : Rule) : List Put :=
  let a := inA s c r
  let b := inB s c r
  [putD r (match r.sub with
    | 0 => a && !b
    | 1 => !a && b
    | _ => a != b), .bit r.b (a != r.notB)]

/-- LATCH (R149). -/
def opLatch (s : State) (c : Nat) (r : Rule) : List Put :=
  let a := inA s c r
  let b := inB s c r
  if a && b then [putD r (r.sub == 0)] else if a || b then [putD r a] else []

/-- The advance of a timer in this tick: 1, or Δ_us (R151). -/
def timerStep (s : State) (r : Rule) : Nat := if bitOf r.sub 0 then rd s (TRD_SPW_W 5) else 1

/-- The elapsed count of a timer after a tick, no more than the preset (R152). -/
def elapsed (s : State) (c : Nat) (r : Rule) : Nat :=
  min (bits (seen s c spScr (opWord r.b)) 0 31 + timerStep s r) (bits r.imm 0 31)

/-- TON (R152). -/
def opTon (s : State) (c : Nat) (r : Rule) : List Put :=
  if !inA s c r then [.full r.b 0, putD r false]
  else
    let e := if bitOf (seen s c spScr (opWord r.b)) 31 then elapsed s c r else 0
    [.full r.b (2 ^ 31 + e), putD r (e == bits r.imm 0 31)]

/-- TOF (R152). -/
def opTof (s : State) (c : Nat) (r : Rule) : List Put :=
  if inA s c r then [.full r.b (2 ^ 31), putD r true]
  else
    let e := if bitOf (seen s c spScr (opWord r.b)) 31 then 0 else elapsed s c r
    [.full r.b e, putD r (e != bits r.imm 0 31)]

/-- CNT (R153). -/
def opCnt (s : State) (c : Nat) (r : Rule) : List Put :=
  let n := bits r.imm 0 14
  let a := inA s c r
  let b := inB s c r
  let up := a && (r.sub == 1 || !bitOf (seen s c spFlag (n / 32)) (n % 32))
  let dn := b && (r.sub == 1 || !bitOf (seen s c spFlag ((n + 1) / 32)) ((n + 1) % 32))
  let v := signed 32 (seen s c spScr (opWord r.dst))
  let v' := if up && !dn then min (v + 1) (2 ^ 31 - 1) else if dn && !up then max (v - 1) (-(2 : Int) ^ 31) else v
  [.full r.dst (wrapTo 32 v'), .bit (flagOp n) a, .bit (flagOp (n + 1)) b]

/-- State of a zone after an evaluation: STATE, RUN and ACCEPT, the timer (R154). -/
structure Zone where
  st : Nat
  run : Bool
  timer : Nat
  deriving DecidableEq, Repr

/-- The OCCUPIED rows of R154. -/
def zoneOccupied (a b prevRun : Bool) (jam t : Nat) : Zone :=
  if !a && prevRun then ⟨2, true, 0⟩
  else if !a then ⟨0, true, 0⟩
  else if b && jam != 0 && decide (jam ≤ t + 1) then ⟨3, false, t⟩
  else if b then ⟨1, true, min (t + 1) 65535⟩
  else ⟨1, false, 0⟩

/-- The table of R154. -/
def zoneStep (a b prevRun : Bool) (runon jam st t : Nat) : Zone :=
  match st with
  | 0 => if a then zoneOccupied a b prevRun jam 0 else ⟨0, true, 0⟩
  | 1 => zoneOccupied a b prevRun jam t
  | 2 =>
    if a then zoneOccupied a b prevRun jam 0
    else if runon ≤ t + 1 then ⟨0, true, 0⟩
    else ⟨2, true, min (t + 1) 65535⟩
  | _ => if a then ⟨3, false, t⟩ else ⟨0, true, 0⟩

/-- ZONE (R154): the reserved bits of s + 1 keep their values. -/
def opZone (s : State) (c : Nat) (r : Rule) : List Put :=
  let k := bits r.imm 0 12
  let cfg := seen s c spScr k
  let w := seen s c spScr (k + 1)
  let z := zoneStep (inA s c r) (inB s c r) (bitOf w 9) (bits cfg 0 16) (bits cfg 16 16) (bits w 0 2) (bits w 16 16)
  let v := z.st + natOf (z.st == 1 || z.st == 3) * 2 ^ 8 + natOf z.run * 2 ^ 9 + natOf (z.st == 3) * 2 ^ 10 + z.timer * 2 ^ 16
  [.part (scrOp (k + 1)) 0xFFFF_0703 v, putD r z.run]

/-- SNAP (R155): the payload words and the status word of the entry. -/
def opSnap (s : State) (_c : Nat) (r : Rule) : List Put :=
  let e := opWord r.a / 16
  ((List.range 16).map fun k => .full (r.dst + 32 * k) (memWord s (payloadAddr e + 4 * k))) ++
    [.full (r.dst + 32 * 16) (stWord s e)]

/-- The writes of a legal rule that starts in cycle c. -/
def ruleEffect (s : State) (c : Nat) (r : Rule) : List Put :=
  if r.op = oBool then opBool s c r
  else if r.op = oCmp then opCmp s c r
  else if r.op = oArith then opArith s c r
  else if r.op = oScale then opScale s c r
  else if r.op = oSel then opSel s c r
  else if r.op = oEdge then opEdge s c r
  else if r.op = oLatch then opLatch s c r
  else if r.op = oTon then opTon s c r
  else if r.op = oTof then opTof s c r
  else if r.op = oCnt then opCnt s c r
  else if r.op = oZone then opZone s c r
  else if r.op = oSnap then opSnap s c r
  else []

/-! ## Writes (R148, R156, R157) -/

/-- A write as the lanes' log holds it: operand, mask and value within its word. -/
def putMask (r : Rule) : Put → Nat × Nat × Nat
  | .bit o b => (o, 2 ^ opBit o, natOf b * 2 ^ opBit o)
  | .word o v => (o, (2 ^ r.width - 1) * 2 ^ opBit o, wrapTo r.width v * 2 ^ opBit o)
  | .full o v => (o, 0xFFFF_FFFF, v % 2 ^ 32)
  | .part o m v => (o, m, v)

/-- A write joins the log behind those that take effect in the same cycle or before. -/
def logIns : List RuleWrite → RuleWrite → List RuleWrite
  | [], x => [x]
  | y :: l, x => if x.cycle < y.cycle then x :: y :: l else y :: logIns l x

/-- A write of one bit, as its mask shows it. -/
def oneBit (m : Nat) : Bool := (List.range 32).any fun k => m == 2 ^ k

/-- Two writes of different lanes meet in one cycle on one word; bit writes to different bits of it do not (R156). -/
def collides (x y : RuleWrite) : Bool :=
  x.cycle == y.cycle && x.sp == y.sp && x.word == y.word && x.lane != y.lane &&
    !(oneBit x.mask && oneBit y.mask && x.mask != y.mask)

/-- A lost write is recorded (R156). -/
def writeLost (s : State) (x : RuleWrite) : State :=
  wrs s [(TRD_EVT_WCONF, 1), (TRD_WCONF_OPND, x.opnd), (TRD_WCONF_LANE, x.lane)]

/-- A write is logged; where it collides, the lower-numbered lane's wins (R156). -/
def logWrite (s : State) (x : RuleWrite) : State :=
  let log := s.trd.writes
  if log.any fun y => collides x y && decide (y.lane < x.lane) then writeLost s x
  else
    let lost := log.filter (collides x ·)
    let t := lost.foldl writeLost s
    { t with trd := { t.trd with writes := logIns (log.filter fun y => !collides x y) x } }

/-- An illegal rule is recorded (R148). -/
def illegal (s : State) (n : Nat) : State := wr (wr s TRD_EVT_ILLEGAL 1) TRD_ILL_RULE_RULE n

/-- A write takes effect: an arm or timed-action word becomes pending (R157); one to an index the Treadle does not own is
dropped as illegal (R106, R148). -/
def writeApply (s : State) (x : RuleWrite) : State :=
  let v := masked (spRead s x.sp x.word) x.mask x.val
  if x.sp = spFlag then wr s (TRD_FLG_W x.word) v
  else if x.sp = spScr then wr s (TRD_SCR_W x.word) v
  else if x.sp = spOut then
    let t := wr s (TRD_OUT_W x.word) v
    if 128 ≤ x.word then { t with trd := { t.trd with pend := x.word :: t.trd.pend.filter (· != x.word) } } else t
  else if x.sp = spPub then
    let t := aliasWrite s .treadle (x.word / 16) (4 * (x.word % 16)) (leBytes 4 v)
    if aliasOk s .treadle (x.word / 16) then t else illegal t x.rule
  else s

/-- The writes that take effect before a cycle do so. -/
def flush (s : State) (c : Nat) : State :=
  let l := s.trd.writes.filter fun x => decide (x.cycle < c)
  l.foldl writeApply { s with trd := { s.trd with writes := s.trd.writes.filter fun x => decide (c ≤ x.cycle) } }

/-! ## Lanes (R156, R159, R422) -/

/-- A lane. -/
def laneAt (s : State) (l : Nat) : Lane := tget (fun _ => {}) s.trd.lanes l
def setLane (s : State) (l : Nat) (x : Lane) : State :=
  { s with trd := { s.trd with lanes := tput (fun _ => {}) s.trd.lanes l x } }

/-- The rules of a lane, never beyond rule 8,191 (R422). -/
def laneLen (s : State) (l : Nat) : Nat := min (rd s (TRD_LANE_LEN l)) (8192 - rd s (TRD_LANE_BASE l))

/-- The length of P2. -/
def p2Len (s : State) : Nat := rd s TRD_P2P4_P2_LEN

/-- The lane has a rule to execute in the running P2. -/
def laneActive (s : State) (l : Nat) : Bool :=
  decide ((laneAt s l).pos < laneLen s l) && !(laneAt s l).atBar && decide ((laneAt s l).used < p2Len s)

/-- The lane has retired its last rule by the end of P2. -/
def laneDone (s : State) (l : Nat) : Bool :=
  decide (laneLen s l ≤ (laneAt s l).pos) && !(laneAt s l).atBar && decide ((laneAt s l).used ≤ p2Len s)

/-- The lane is the next to execute a rule: no other active lane is behind it. -/
def laneNext (s : State) (l : Nat) : Bool :=
  laneActive s l && (List.range 4).all fun m => !laneActive s m || decide ((laneAt s l).used ≤ (laneAt s m).used)

/-- The rule number and the rule a lane executes next. -/
def laneRule (s : State) (l : Nat) : Nat := rd s (TRD_LANE_BASE l) + (laneAt s l).pos

/-- DONE shows the lanes that have retired their last rule. -/
def laneShow (s : State) : State := wr s TRD_STATUS_DONE (maskOf 4 (laneDone s))

/-- When every lane has reached a barrier or its last rule, all leave together (R156). -/
def barRelease (s : State) : State :=
  let ls := List.range 4
  if (ls.any fun l => (laneAt s l).atBar) && ls.all fun l => (laneAt s l).atBar || decide (laneLen s l ≤ (laneAt s l).pos) then
    let r := (ls.map fun l => (laneAt s l).start).foldl max 0
    each (ls.filter fun l => (laneAt s l).atBar) (fun t l => setLane t l { laneAt t l with atBar := false, used := r + 1 }) s
  else s

/-- A lane executes its next rule; a rule that would end after P2 has no effect (R149, R156, R159). A rule of several
cycles reads its operands as of its first one, and all its writes take effect at the end of its last one (DESIGN CHOICE,
log entry 120: the spec does not say). -/
def ruleRun (s : State) (l : Nat) : State :=
  let x := laneAt s l
  let n := laneRule s l
  let r := ruleAt s n
  let y : Lane := { pos := x.pos + 1, used := x.used + cost r, start := x.used, atBar := legal r && r.op == oBarrier }
  if p2Len s < y.used then laneShow (barRelease (setLane s l y))
  else
    let t := if legal r then
        (ruleEffect s x.used r).foldl (fun u p =>
          let m := putMask r p
          logWrite u ⟨y.used - 1, l, n, opSp m.1, opWord m.1, m.2.1, m.2.2, m.1⟩) s
      else illegal s n
    laneShow (barRelease (setLane t l y))

/-- The cycle before which every rule still to come has started. -/
def laneLow (s : State) : Nat :=
  ((List.range 4).filter (laneActive s ·)).foldl (fun m l => min m (laneAt s l).used) (p2Len s + 1)

/-- A lane meets its next rule: it waits out the stall, and executes the rule where no other lane is behind it then. -/
def ruleMeet (s : State) (l stall : Nat) : State :=
  let k := if readsLedger (ruleAt s (laneRule s l)) then stall else 0
  let t := setLane s l { laneAt s l with used := (laneAt s l).used + k }
  let u := if laneNext t l then ruleRun t l else t
  flush u (laneLow u)

/-- The lane that is next, of equal ones the lowest. -/
def nextLane (s : State) : Option Nat := (List.range 4).find? (laneNext s)

/-- The lanes execute the rest of their rules. -/
def runLanes : Nat → State → State
  | 0, s => s
  | n + 1, s => match nextLane s with
    | none => s
    | some l => runLanes n (ruleMeet s l 0)

/-- A rule of an operation is executed in a lane in P2, where the lane's next rule is one (R149). -/
def ruleCmd (is : Rule → Bool) (lane stall : Nat) (s : State) : State :=
  if lane < 4 ∧ rd s TRD_STATUS_PHASE = 2 ∧ laneNext s lane ∧ is (ruleAt s (laneRule s lane)) then ruleMeet s lane stall
  else s

/-- A legal rule of an operation. -/
def isOp (op : Nat) (r : Rule) : Bool := legal r && r.op == op

end Sys2Proof.Machine
end

