-- ==== Sys2Proof/Machine/TrdTick.lean ====
section
/-! DEFINITION. The tick of the Treadle: its boundaries, the input latch, the bindings, the outputs and the phases
(R102, R103, R139 to R145, R151, R157 to R159). -/

namespace Sys2Proof.Machine

/-! ## Phases (R140) -/

/-- CLK_CORE cycle counts at which P2, P3 and P4 of the running tick begin, and at which P4 ends. -/
def p2At (s : State) : Nat := s.trd.takenCyc + rd s TRD_P1P3_P1_LEN
def p3At (s : State) : Nat := p2At s + p2Len s
def p4At (s : State) : Nat := p3At s + rd s TRD_P1P3_P3_LEN
def tickEnd (s : State) : Nat := p4At s + rd s TRD_P2P4_P4_LEN

/-- CLK_CORE cycles pass until the count reaches c. -/
def toCycle (s : State) (c : Nat) : State := advance s (c - s.clk.cyc)

/-- The hub has left service since the tick was taken, so that its phases run no further (R335, R337). -/
def tickStale (s : State) : Bool :=
  !running s || match s.trd.since with
    | some x => decide (s.trd.taken < x)
    | none => false

/-- The phase that TRD_STATUS shows: none in P4 once its cycles are over, or where the hub has left service. -/
def phaseNow (s : State) : Nat :=
  let p := rd s TRD_STATUS_PHASE
  if tickStale s || (p == 4 && decide (tickEnd s ≤ s.clk.cyc)) then 0 else p

/-- The Treadle has taken its first tick and runs ticks (R139). -/
def trdRuns (s : State) : Bool := s.trd.last.isSome && running s && flag s TRD_CTRL_EN

/-! ## Which boundary is taken (R139, R142, R143) -/

/-- The period of a tick in ns. -/
def tickNs (s : State) : Nat := rd s TRD_TICK_NS_NS

/-- The number of the first boundary at or after an instant. -/
def boundaryFrom (s : State) (ns : Int) : Int := -((rd s BELL_EPOCH_OFS_NS - ns) / (tickNs s : Int))

/-- The earliest boundary R139 and R143 let the Treadle take next, leaving steps aside; none before the hub is in
service and the Ledger is armed. -/
def tickFloor (s : State) : Option Int :=
  match s.trd.since, s.trd.armedAt with
  | some x, some a =>
    some (match s.trd.last with
      | none => boundaryFrom s (max (x : Int) (a + tLap s))
      | some l => max (l + 1) (boundaryFrom s x))
  | _, _ => none

/-- With the boundaries a forward step carried FT past left out (R143). -/
def tickLower (s : State) (floor : Int) : Int :=
  match s.trd.skipTo with
  | none => floor
  | some k => max floor (k + 1)

/-- Boundary n falls before the end of P4 of the tick before, as cycles count (R142). -/
def isLate (s : State) (n : Int) : Bool :=
  s.trd.last.isSome && rd s TRD_STATUS_PHASE == 4 &&
    decide (boundaryNs s (tickNs s) n * 2 ^ 48 + cycleUnits s * ((s.clk.cyc : Int) - tickEnd s) < s.clk.ft.toNat)

/-! ## The boundary cycle (R144, R147, R151) -/

/-- The words the engines latch, by input word. -/
def latchWords (s : State) (n : Int) (late : Bool) : List (Nat × Nat) :=
  ((List.range 3).map fun w => (w, maskOf 32 fun b => flag s (DIO_STAT_LEVEL (32 * w + b)))) ++
  ((List.range 12).map fun d => (8 + d, rd s (DIO_QD_CNT_COUNT d))) ++
  ((List.range 12).map fun d => (20 + d, wrapTo 32 (s.quad d).sum)) ++
  ((List.range 16).map fun n => (88 + n, rdW s (BRN_STAT_STATE n).addr % 2 ^ 14)) ++
  ((stgAt s n late).filter fun p => decide (128 ≤ p.1) && decide (p.1 < 1536)).map fun p => (p.1, p.2.toNat)

/-- The mark of tick n closes the conversions sampled before it; the others stay with the tick that begins (R276). A tick
taken late sends its mark late. -/
def adcMark (x : AdcSt) (n : Int) (late : Bool) : AdcSt :=
  if x.curTick = some n ∧ !late then { x with closed := x.before, before := [], avgWait := true }
  else { x with closed := acmJoin x.before x.cur, cur := [], curTick := none, before := [], avgWait := true }

/-- Every source latches, and what counts by the tick starts afresh (R144, R264, R276). -/
def latchAll (s : State) (n : Int) (late : Bool) : State :=
  let l := (latchWords s n late).foldl (fun m p => tput (fun _ => (0 : Word)) m p.1 (BitVec.ofNat 32 p.2)) []
  let t := each (List.range 12) (fun u d => u.setQuad d { u.quad d with sum := 0 }) s
  { t with
    trd := { t.trd with latched := l, raised := [] }
    adc := adcMark t.adc n late }

/-- The special words of the tick (R147). -/
def specialWords (s : State) (n : Int) (first ovr late skip : Bool) (us : Nat) : State :=
  wrs s [(TRD_SPW_W 0, wrapTo 32 n), (TRD_SPW_W 1, wrapTo 8 n), (TRD_SPW_W 2, ftNs s), (TRD_SPW_W 3, ftNs s / 2 ^ 32),
    (TRD_SPW_W 4, natOf (hubState s == stDegraded) + natOf (bellState s == lLocked || bellState s == lOrigin) * 2 +
      natOf first * 4 + natOf ovr * 8 + natOf late * 16 + natOf skip * 32),
    (TRD_SPW_W 5, us), (TRD_SPW_W 7, 0xFFFF_FFFF)]

/-- Output image words 0 to 3 and 16 to 111. -/
def levelWords : List Nat := List.range 4 ++ (List.range 96).map (16 + ·)

/-- The level, enable and parameter words as P3 applies them. -/
def imageLevels (s : State) : List (Nat × Word) :=
  levelWords.foldl (fun m w => tput (fun _ => (0 : Word)) m w (BitVec.ofNat 32 (rd s (TRD_OUT_W w)))) []

/-- Tick n is taken in this cycle (R140, R144); an edge stamped in it is in its latch (R259). -/
def takeTick (s : State) (n : Int) (late skip : Bool) : State :=
  let s := inputsDue s
  let first := s.trd.last.isNone
  let us := s.clk.cyc / 625
  let s1 := specialWords s n first s.trd.overran late skip (if first then 0 else us - s.trd.lastUs)
  let s2 := latchAll s1 n late
  let s3 := wrs s2 [(TRD_STATUS_PHASE, 1), (TRD_STATUS_RUNNING, 1), (TRD_TICKNO_TICK, wrapTo 32 n)]
  let s4 := if late then incSat (wr s3 TRD_EVT_LATE_TICK 1) TRD_CNT_LATE_TICK else s3
  let s5 := if skip then wr s4 TRD_EVT_SKIP 1 else s4
  { s5 with trd := { s5.trd with
      taken := ftNs s, takenCyc := s.clk.cyc, last := some n, lastUs := us, overran := false, skipTo := none,
      applied := if first then imageLevels s else s.trd.applied } }

/-- A tick boundary is taken, or the next one waited for and taken (R139 to R143). -/
def tickBoundary (s : State) : State :=
  if !running s || !flag s TRD_CTRL_EN || tickNs s == 0 || (rd s TRD_STATUS_PHASE != 0 && rd s TRD_STATUS_PHASE != 4) then s
  else
    let s1 := if rd s TRD_STATUS_PHASE = 4 then toCycle s (tickEnd s) else s
    match tickFloor s1 with
    | none => s
    | some floor =>
      let lower := tickLower s1 floor
      if lower ≤ tickNow s1 then takeTick s1 (tickNow s1) (isLate s1 (tickNow s1)) (s1.trd.last.isSome && decide (floor < tickNow s1))
      else takeTick (advanceTo s1 (boundaryNs s1 (tickNs s1) lower).toNat) lower false (s1.trd.last.isSome && decide (floor < lower))

/-! ## P1 to P2 (R144, R145) -/

/-- The latched values of input word w are moved: its source is not late. -/
def moves (late : Nat) (w : Nat) : Bool :=
  decide (w < 3) || (decide (8 ≤ w) && decide (w < 32)) || (decide (32 ≤ w) && decide (w < 88) && !bitOf late 0) ||
  (decide (88 ≤ w) && decide (w < 104) && !bitOf late 1) || (decide (128 ≤ w) && decide (w < 1024) && !bitOf late 2) ||
  (decide (1024 ≤ w) && decide (w < 1536) && !bitOf late 3)

/-- The latched values move into the input image; a late source keeps its words (R144). -/
def moveImage (s : State) (late : Nat) : State :=
  let a := (TRD_IN_W 0).addr
  let t := { s with regs := s.regs.filter fun c =>
    !(decide (a ≤ c.1) && decide (c.1 < a + 0x2000) && moves late ((c.1 - a) / 4)) }
  let u := (s.trd.latched.filter fun p => moves late p.1).foldl (fun u p => wr u (TRD_IN_W p.1) p.2.toNat) t
  let v := wr u (TRD_IN_W 3) (late % 32)
  if late % 32 ≠ 0 then wr v TRD_EVT_P1_LATE 1 else v

/-- P1 ends: belts, edges and events of the Drover, the input image, and the lanes (R144, R162, R179, R422). The operand
holds the late bits of branch status, channel and CAN points. -/
def p1End (s : State) (late : Nat) : State :=
  let s1 := toCycle s (p2At s)
  let t := s1.trd.taken
  let ev := eventsLate s1 t
  let lateBits := natOf s1.adc.avgWait + natOf (bitOf late 1 || s1.rst.d2dHubLost) * 2 + bits late 2 2 * 4 + natOf ev * 16
  let s2 := matchWaiting (t * 65536) s1.drv.waiting.length s1
  let s3 := drvBelts s2 t
  let s3 := matchWaiting (ftNs s3 * 65536 + ftFrac s3 + 1) s3.drv.waiting.length s3
  let s4 := if ev then s3 else listEvents s3 t
  let s5 := moveImage s4 lateBits
  laneShow (wr { s5 with trd := { s5.trd with lanes := [], writes := [] } } TRD_STATUS_PHASE 2)

/-! ## Bindings (R102, R103) -/

/-- What a binding does with its output at a P3: nothing, the output's driven value replaced, a held value, the safe
value. -/
inductive Bound | free | value (b : Bool) | held (v : Option Bool) | safe
  deriving DecidableEq, Repr

/-- The enabled binding that governs a target: the one of lowest index; one of a branch with ESRC = 1 is ignored (R282). -/
def bindingOf (s : State) (tgt : Nat) : Option Nat :=
  if 96 ≤ tgt ∧ flag s (BRN_CFG_ESRC (tgt - 96)) then none
  else (List.range 128).find? fun i => flag s (LDG_OBIND0_EN i) && rd s (LDG_OBIND1_TARGET i) == tgt

/-- The entry of a binding is usable. -/
def bindUsable (s : State) (i : Nat) : Bool := [qFresh, qAged, qHold].contains (qualOf s (rd s (LDG_OBIND0_ENTRY i)))

/-- Bit point BIT of the binding's entry. -/
def bindPoint (s : State) (i : Nat) : Bool :=
  let b := rd s (LDG_OBIND0_BIT i)
  bitOf (memWord s (payloadAddr (rd s (LDG_OBIND0_ENTRY i)) + 4 * (b / 32))) (b % 32)

/-- A binding is judged: its state, whether it overrides, and what it does. The operands are the value the output holds
and the one its engine drives. -/
def bindJudge (s : State) (i : Nat) (now : Option Bool) (driven : Bool) : Bind × Bool × Bound :=
  let x : Bind := tget (fun _ => {}) s.ldg.binds i
  if bindUsable s i then
    let v := if flag s (LDG_OBIND0_MIRROR i) then bindPoint s i else driven
    ({ held := some (some v), count := 0 }, false, if flag s (LDG_OBIND0_MIRROR i) then .value v else .free)
  else
    let h := x.held.getD now
    let y : Bind := { held := some h, count := x.count + 1 }
    let pol := rd s (LDG_OBIND0_POLICY i)
    let n := max 1 (rd s (LDG_OBIND1_N i))
    (y, true, if pol = 0 ∨ (pol = 2 ∧ y.count ≤ n) then .held h else .safe)

/-- A target's binding acts: its state and ACTIVE, and what it does to the output. -/
def bindAct (s : State) (tgt : Nat) (now : Option Bool) (driven : Bool) : Bound × State :=
  match bindingOf s tgt with
  | none => (.free, s)
  | some i =>
    let x := bindJudge s i now driven
    (x.2.2, wrB { s with ldg := { s.ldg with binds := tput (fun _ => {}) s.ldg.binds i x.1 } } (LDG_OBIND1_ACTIVE i) x.2.1)

/-! ## Level outputs (R158, R266, R268, R269) -/

/-- A level bit reaches a PWM or pulse-train line. -/
def levelBit (s : State) (n : Nat) (b : Bool) : State :=
  let t := s.setLine n { s.line n with bit := b }
  if dioMode s n = 3 ∧ dioHeeds s n then
    if b && !(s.line n).bit then trainStart t n
    else if !b && (s.line n).bit && (s.line n).ptLeft != 0 then t.setLine n { t.line n with ptStop := true }
    else t
  else t

/-- A line takes its safe value at a P3. -/
def lineToSafe (s : State) (n : Nat) : State :=
  if !dioHeeds s n then s
  else dioDrive (s.setLine n { s.line n with pwmOn := false, ptLeft := 0, ptStop := false, bit := false, perAt := none }) n
    (dioSafeLevel s n)

/-- A line takes a value at a P3: a level output its level, PWM and pulse train their level bit; a timed line none. -/
def lineTake (s : State) (n : Nat) (v : Option Bool) : State :=
  if dioMode s n = 1 then
    if flag s (DIO_CFG_SRC n) then s else if dioHeeds s n then dioDrive s n v else s
  else match v with
    | none => s
    | some b => levelBit s n b

/-- The value a line holds: its level, or the level bit of PWM and pulse train. -/
def lineHolds (s : State) (n : Nat) : Option Bool := if dioMode s n = 1 then (s.line n).drive else some (s.line n).bit

/-- P3 on one line: its parameter word, its binding, its level. -/
def lineP3 (img : List (Nat × Word)) (s : State) (n : Nat) : State :=
  let b := (tget (fun _ => (0 : Word)) img (n / 32)).getLsbD (n % 32)
  let s1 := s.setLine n { s.line n with param := (tget (fun _ => (0 : Word)) img (16 + n)).toNat }
  let x := bindAct s1 n (lineHolds s n) b
  match x.1 with
  | .free => lineTake x.2 n (some b)
  | .value v => lineTake x.2 n (some v)
  | .held v => lineTake x.2 n v
  | .safe => if dioMode s n = 1 ∧ flag s (DIO_CFG_SRC n) then x.2 else lineToSafe x.2 n

/-- P3 on one branch enable: the safe value is off. -/
def brnP3 (img : List (Nat × Word)) (s : State) (n : Nat) : State :=
  let b := (tget (fun _ => (0 : Word)) img 3).getLsbD n
  let now := (s.brn n).frozen.getD (s.brn n).outBit
  let x := bindAct s (96 + n) (some now) b
  let v := match x.1 with
    | .free => b
    | .value v => v
    | .held v => v.getD false
    | .safe => false
  x.2.setBrn n { x.2.brn n with outBit := v, frozen := none }

/-- The outputs take their values; the holds of a Resole activation end at the first P3 (R158, R282, R380). -/
def outputsP3 (s : State) (img : List (Nat × Word)) : State :=
  let s1 := each (List.range 96) (lineP3 img) s
  let s2 := each (List.range 16) (brnP3 img) s1
  brnFollowAll { s2 with trd := { s2.trd with p3 := true }, rst := { s2.rst with hold := false, holdToP3 := false } }

/-! ## Arms (R157, R158) -/

/-- The action of a timed-action word. -/
def actOfWord : Nat → LineAct
  | 0 => .set
  | 1 => .clear
  | 2 => .toggle
  | _ => .pulse

/-- A pending word is applied at the FT of the tick's own cycle plus its offset. -/
def armWord (s : State) (w : Nat) : State :=
  let v := rd s (TRD_OUT_W w)
  if w < 160 then trgArmBy s ownTreadle (w - 128) ((s.trd.taken + v) % 2 ^ 40)
  else queuePush s (w - 160) (s.trd.taken + v % 2 ^ 30) (actOfWord (v / 2 ^ 30))

/-- The pending words are applied in ascending order, one in each cycle, and cleared. -/
def armAll (s : State) : State :=
  let l := (List.range 256).filter s.trd.pend.contains
  each l (fun u w => armWord (advance u 1) w) { s with trd := { s.trd with pend := [] } }

/-! ## P2 to P3 (R158, R159) -/

/-- The back buffers of Treadle-owned indexes are reloaded from their fronts (R159). -/
def pubReload (s : State) : State :=
  each (those 256 fun i => bitOf (pubDesc s i) 20 && !bitOf (pubDesc s i) 19 && !droverIndex s i)
    (fun t i => memPuts t (backBuf t i) (memBytes t (frontBuf t i) 64)) s

/-- P2 overruns: the pending words are cleared, and DONE and the tick number are raised (R159, R330). -/
def overrun (s : State) : State :=
  let t := incSat (wr { s with trd := { s.trd with overran := true, pend := [] } } TRD_EVT_OVERRUN 1) TRD_CNT_OVERRUN
  raise t 40 (rd t TRD_STATUS_DONE + rd t TRD_TICKNO_TICK % 2 ^ 24 * 2 ^ 8)

/-- P2 ends: the lanes execute what is left, and the cycles used are shown (R140, R159). -/
def p2End (s : State) : State :=
  let n := sumOf ((List.range 4).map (laneLen s)) + 8
  let s1 := runLanes n (toCycle s (p3At s))
  let s2 := laneShow (flush s1 (p2Len s1))
  let used := if (List.range 4).all (laneDone s2) then ((List.range 4).map fun l => (laneAt s2 l).used).foldl max 0 else p2Len s2
  let s3 := wrs s2 [(TRD_P2_USED_LAST, used), (TRD_P2_USED_MAX, max used (rd s2 TRD_P2_USED_MAX)), (TRD_STATUS_PHASE, 3)]
  let s4 := { s3 with trd := { s3.trd with writes := [] } }
  if (List.range 4).all (laneDone s4) then s4 else overrun s4

/-- The binding of a target overrides it in this P3 (R102). -/
def overridden (s : State) (tgt : Nat) : Bool :=
  match bindingOf s tgt with
  | none => false
  | some i => !bindUsable s i

/-- The output image with the level and enable words of this P3: what a rule has given an overridden output in this tick is
discarded, and the value before stays (R103). -/
def imageKept (s : State) : State :=
  each (List.range 4) (fun t w =>
    let m := maskOf 32 fun k => decide (32 * w + k < 112) && overridden s (32 * w + k)
    wr t (TRD_OUT_W w) (masked (rd t (TRD_OUT_W w)) m (tget (fun _ => (0 : Word)) s.trd.applied w).toNat)) s

/-- P3 commits (R158, R159). A hub that the overrun itself has taken out of service runs no P3 and switches no index
(R108). -/
def p3Commit (s : State) : State :=
  let s0 := p2End s
  let s1 := advance s0 1
  if !running s0 then s0
  else if s1.trd.overran then
    let s2 := outputsP3 s1 s1.trd.applied
    pubSwitchAll (hoPublish (pubReload s2))
  else
    let s1 := imageKept s1
    let img := imageLevels s1
    let s2 := outputsP3 { s1 with trd := { s1.trd with applied := img } } img
    pubSwitchAll (hoPublish (armAll s2))

/-- P4 launches (R158, R224, R257). -/
def p4Launch (s : State) : State :=
  let s1 := wr (toCycle s (p4At s)) TRD_STATUS_PHASE 4
  match s1.trd.last with
  | none => s1
  | some n => each (List.range 64) (fun u e => schedDue u n e) (each (List.range 48) (fun u c => pollDue u c n) s1)

end Sys2Proof.Machine
end

