-- ==== Sys2Proof/Machine/RslOps.lean ====
section
/-! DEFINITION. Resole: sessions, staging, the checks of a sealed image, activation, trials, and the schedule load
(R372 to R385). -/

namespace Sys2Proof.Machine

/-! ## Results (R374) -/

/-- RESULT codes. -/
def reOk : Nat := 0
def reBusy : Nat := 1
def reBadField : Nat := 2
def reOrder : Nat := 3
def reCrc : Nat := 4
def reDiff : Nat := 5
def reIncomplete : Nat := 6
def reDigest : Nat := 7
def reSignature : Nat := 8
def reKey : Nat := 9
def reRollback : Nat := 10
def reFormat : Nat := 11
def reTickParam : Nat := 12
def reNor : Nat := 13

/-- The status of the write of a command that ends with a code. -/
def rslStatus (code : Nat) : Nat :=
  if code = reOk then scOk else if code = reBusy then scRetry else if code = reBadField then scBadReq else scDenied

/-- A command ends with a code, shown for the kinds it names, and its write completes. -/
def rslEnd (s : State) (kinds : List Nat) (code : Nat) : State :=
  (each kinds (fun t k => wr t (RSL_SESS_RESULT (k - 1)) code) s).emit (.busRsp iniMgmt (rslStatus code) 0)

/-- A command of Resole reaches its block: in RESTING and DUMP it completes with RESTING, before ST08 with RETRY (R314, R327,
R363). -/
def rslGate (s : State) (f : State → State) : State := whenAlive s fun s =>
  if hubState s = stResting ∨ hubState s = stDump then s.emit (.busRsp iniMgmt scResting 0)
  else if !s.sys.loaded ∧ hubState s ≠ stSafe then s.emit (.busRsp iniMgmt scRetry 0)
  else f s

/-! ## Sessions (R373) -/

/-- Session states. -/
def ssIdle : Nat := 0
def ssOpen : Nat := 1
def ssSealing : Nat := 2
def ssSealed : Nat := 3
def ssArmed : Nat := 4

/-- The state of the session of a kind. -/
def sess (s : State) (kind : Nat) : Nat := rd s (RSL_SESS_STATE (kind - 1))
def setSess (s : State) (kind st : Nat) : State := wr s (RSL_SESS_STATE (kind - 1)) st

/-- The session of a kind has a SESSION value. -/
def isSession (s : State) (kind session : Nat) : Bool := rd s (RSL_SESS_SESSION (kind - 1)) == session

/-- The kinds a KMASK names. -/
def kindsOf (kmask : Nat) : List Nat := (those 3 (bitOf kmask)).map (· + 1)

/-- Image kind. -/
def kindOk (kind : Nat) : Bool := 1 ≤ kind && kind ≤ 3

/-- The kind goes to the flash. -/
def flashKind (kind : Nat) : Bool := kind == kFw || kind == kLast

/-- The area of a kind the hub runs. -/
def runArea (s : State) (kind : Nat) : Nat := if kind = kFw then s.sys.fwSlot else s.sys.lastArea

/-- The destination area of a kind: the one that is not in use. -/
def destArea (s : State) (kind : Nat) : Nat := 1 - (usedArea s kind).getD (runArea s kind)

/-- SIZE of the open session, and the granules received. -/
def rslSize (s : State) (kind : Nat) : Nat := tget (fun _ => 0) s.rsl.size kind
def rslGran (s : State) (kind : Nat) : List Nat := tget (fun _ => []) s.rsl.gran kind

/-- n bytes of the destination of a kind. -/
def destBytes (s : State) (kind off n : Nat) : List Byte :=
  if flashKind kind then norBytes s (areaBase kind (destArea s kind) + off) n else memBytes s (keyBase + off) n

/-- The image the session of a kind has delivered. -/
def rslImage (s : State) (kind : Nat) : List Byte := destBytes s kind 0 (rslSize s kind)

/-! ## OPEN (R374) -/

/-- The session opens; Cobbler begins to erase a destination in the flash. -/
def sessOpen (s : State) (session kind size fmt : Nat) : State :=
  let t := wrs s [(RSL_SESS_STATE (kind - 1), ssOpen), (RSL_SESS_SESSION (kind - 1), session),
    (RSL_RCVD_GRANULES (kind - 1), 0), (RSL_RCVD_ERASED (kind - 1), 0)]
  { t with rsl := { t.rsl with
      size := tput (fun _ => 0) t.rsl.size kind size
      fmt := tput (fun _ => 0) t.rsl.fmt kind fmt
      gran := tput (fun _ => []) t.rsl.gran kind []
      erasing := if flashKind kind then (kind, destArea s kind) :: t.rsl.erasing.filter (·.1 != kind) else t.rsl.erasing } }

/-- The result of OPEN. -/
def openResult (s : State) (session kind size fmt : Nat) : Nat :=
  if !kindOk kind || !lengthOk kind size || decide (2 ^ 16 ≤ session) || decide (2 ^ 16 ≤ fmt) then reBadField
  else if sess s kind ≠ ssIdle ∨ (flashKind kind ∧ (trialArea s kind).isSome) then reOrder
  else reOk

/-! ## BLOCK (R375) -/

/-- The bytes of a block in the staging window of its kind. -/
def stagedBytes (s : State) (kind len : Nat) : List Byte :=
  ((List.range ((len + 3) / 4)).flatMap fun j => leBytes 4 (rd s (RSL_STG_W (kind - 1) j))).take len

/-- OFFSET and LENGTH are in range for an image of a size: a block that ends at SIZE may be short. -/
def blockRange (size off len : Nat) : Bool :=
  off % 512 == 0 && decide (1 ≤ len) && decide (len ≤ 4096) && decide (off + len ≤ size) &&
  ((decide (512 ≤ len) && len % 512 == 0) || off + len == size)

/-- The granules a block covers. -/
def granules (off len : Nat) : List Nat := (List.range ((len + 511) / 512)).map (off / 512 + ·)

/-- The bytes of granule g of a block. -/
def granBytes (off g : Nat) (bs : List Byte) : List Byte := slice bs (512 * g - off) 512

/-- Some granule of the block has been received with other bytes. -/
def granDiff (s : State) (kind off : Nat) (bs : List Byte) : Bool :=
  (granules off bs.length).any fun g => (rslGran s kind).contains g &&
    destBytes s kind (512 * g) (granBytes off g bs).length != granBytes off g bs

/-- A granule is programmed and marked received. -/
def granTake (kind off : Nat) (bs : List Byte) (s : State) (g : Nat) : State :=
  if (rslGran s kind).contains g then s
  else
    let x := granBytes off g bs
    let t := if flashKind kind then norProgram s (areaBase kind (destArea s kind) + 512 * g) x else memPuts s (keyBase + 512 * g) x
    incWrap { t with rsl := { t.rsl with gran := tput (fun _ => []) t.rsl.gran kind (g :: rslGran t kind) } }
      (RSL_RCVD_GRANULES (kind - 1))

/-- The result of BLOCK. -/
def blockResult (s : State) (session kind off len crc : Nat) (progOk : Bool) : Nat :=
  if !kindOk kind || off % 512 != 0 || decide (4096 < len) || len == 0 then reBadField
  else if sess s kind ≠ ssOpen ∨ !isSession s kind session then reOrder
  else if !blockRange (rslSize s kind) off len then reBadField
  else if flashKind kind ∧ !flag s (RSL_RCVD_ERASED (kind - 1)) then reBusy
  else if crc32c (stagedBytes s kind len) ≠ crc then reCrc
  else if granDiff s kind off (stagedBytes s kind len) then reDiff
  else if flashKind kind ∧ !progOk then reNor
  else reOk

/-- What BLOCK does with its result. -/
def blockDo (s : State) (kind off len code : Nat) : State :=
  let bs := stagedBytes s kind len
  if code = reCrc then incSat s (RSL_RCVD_REFUSED (kind - 1))
  else if code = reDiff then wr (incSat s (RSL_RCVD_REFUSED (kind - 1))) RSL_EVT_DIFF 1
  else if code = reNor then
    setSess (incSat (norFailed s (areaBase kind (destArea s kind) + off) bs) NVM_CNT_PGM) kind ssIdle
  else if code = reOk then each (granules off len) (granTake kind off bs) s
  else s

/-! ## SEAL (R374, R376) -/

/-- Every granule up to SIZE has been received. -/
def allReceived (s : State) (kind : Nat) : Bool :=
  (List.range ((rslSize s kind + 511) / 512)).all (rslGran s kind).contains

/-- The body of a KEY image: OP, SLOT and the new key (R372). -/
def keyOp (img : List Byte) : Nat := imgNum img 64 1
def keySlot (img : List Byte) : Nat := imgNum img 65 1
def newKey (img : List Byte) : List Byte := slice img 80 64
def keyBody (img : List Byte) : Bool :=
  decide (keySlot img < 4) && imgNum img 66 14 == 0 &&
  ((keyOp img == 1 && imgLength img == 336) || (keyOp img == 2 && imgLength img == 272))

/-- The result of the checks of SEAL, in their order. -/
def sealResult (s : State) (kind : Nat) : Nat :=
  let img := rslImage s kind
  if !headerOk kind img || imgLength img != rslSize s kind || imgFormat img != tget (fun _ => 0) s.rsl.fmt kind ||
    (kind == kKey && !keyBody img) ||
    (kind == kLast && rd s SYS_HUB_ID_ID != 0 && imgHub img != rd s SYS_HUB_ID_ID) then reFormat
  else if (imgHash img).toNat ≠ sigDigest img then reDigest
  else if imgArb img < s.otp.arb then reRollback
  else if s.otp.lc = lcBlank ∧ sigSlot img = 0xFF then reOk
  else if !keyOk s img then reKey
  else if !sigOk img then reSignature
  else reOk

/-- A session that passed its checks is sealed. -/
def sessSeal (s : State) (kind : Nat) : State :=
  let t := if flashKind kind then
      setMark (norProgram s (statePage kind (destArea s kind) + 32) (beBytes 32 (imgHash (rslImage s kind)).toNat))
        kind (destArea s kind) mSealed
    else s
  wr (setSess t kind ssSealed) RSL_EVT_SEALED 1

/-- SEAL fails. -/
def sessFail (s : State) (kind : Nat) : State := wr (setSess s kind ssIdle) RSL_EVT_SEAL_FAIL 1

/-! ## KEY images (R377) -/

/-- A key slot is valid and not revoked. -/
def slotGood (s : State) (k : Nat) : Bool := bitOf s.otp.valid k && !bitOf s.otp.revoked k

/-- The life-cycle state lets a KEY image take effect. -/
def keyAllowed (s : State) (img : List Byte) : Bool :=
  let k := keySlot img
  if keyOp img = 1 then
    (s.otp.lc == lcBlank || s.otp.lc == lcProvisioned) && !bitOf s.otp.valid k && !bitOf s.otp.revoked k
  else
    (s.otp.lc == lcProvisioned || s.otp.lc == lcField) && slotGood s k && sigSlot img != k && slotGood s (sigSlot img)

/-- A KEY image takes effect. -/
def keyApply (s : State) (img : List Byte) : State :=
  let k := keySlot img
  if !keyAllowed s img then s
  else if keyOp img = 1 then
    { s with otp := { s.otp with
        valid := withBit s.otp.valid k true
        hash := tput (fun _ => 0) s.otp.hash k (Config.sha256 (newKey img))
        lc := if s.otp.lc = lcBlank then lcProvisioned else s.otp.lc } }
  else { s with otp := { s.otp with revoked := withBit s.otp.revoked k true } }

/-! ## ACTIVATE (R378, R379) -/

/-- The image of a kind that will run: the sealed one if it is named, the one that runs otherwise. -/
def nextImage (s : State) (kmask kind : Nat) : List Byte :=
  areaImage s kind (if bitOf kmask (kind - 1) then destArea s kind else runArea s kind)

/-- The Last's tick parameters are those in force. -/
def tickParams (s : State) (img : List Byte) : Bool :=
  imgTick img == rd s TRD_TICK_NS_NS && imgK img == lapsPerTick s && imgEpoch img == rd s BELL_EPOCH_OFS_NS

/-- The result of ACTIVATE. -/
def activateResult (s : State) (session kmask tick starts hours : Nat) (full : Bool) : Nat :=
  let d := modDiff 32 tick (tickNow s)
  let last := nextImage s kmask kLast
  let fw := nextImage s kmask kFw
  if kmask = 0 ∨ 8 ≤ kmask ∨ (bitOf kmask 2 ∧ kmask ≠ 4) ∨ d ≤ 0 ∨ 2 ^ 24 < d ∨ starts = 0 ∨ 255 < starts ∨ 1023 < hours then
    reBadField
  else if (kindsOf kmask).any fun k => sess s k != ssSealed || !isSession s k session then reOrder
  else if kmask = 4 then (if keyAllowed s (rslImage s kKey) then reOk else reOrder)
  else if imgFormat last < imgMin fw ∨ imgMax fw < imgFormat last then reFormat
  else if !full && !tickParams s last then reTickParam
  else reOk

/-- The kinds are armed. -/
def sessArm (s : State) (kmask tick starts hours : Nat) (full : Bool) : State :=
  let t := wr (each (kindsOf kmask) (setSess · · ssArmed) s) RSL_ACT_TICK tick
  if kmask = 4 then t else { t with rsl := { t.rsl with starts := starts, hours := hours, full := full } }

/-- The activation instant has come (R379): the end of P4 of the first tick run at or after TICK, or that instant of tick
TICK where no tick runs. -/
def actReached (s : State) : Bool :=
  if rd s TRD_STATUS_PHASE ≠ 0 ∧ rd s TRD_STATUS_PHASE ≠ 4 then false
  else if trdRuns s then (match s.trd.last with
    | some n => decide (0 ≤ modDiff 32 n (rd s RSL_ACT_TICK))
    | none => false)
  else decide (0 ≤ modDiff 32 (tickNow s) (rd s RSL_ACT_TICK))

/-- The activation instant is waited for (R140, R379): the end of P4, or where no tick runs the instant at which P4 of tick
TICK would have ended. -/
def toActivation (s : State) : State :=
  if rd s TRD_STATUS_PHASE = 4 then toCycle s (tickEnd s)
  else if trdRuns s then s
  else
    let n := tickNow s + modDiff 32 (rd s RSL_ACT_TICK) (tickNow s)
    let cycles := rd s TRD_P1P3_P1_LEN + p2Len s + rd s TRD_P1P3_P3_LEN + rd s TRD_P2P4_P4_LEN
    advanceTo s ((boundaryNs s (tickNs s) n).toNat + (8 * cycles + 4) / 5)

/-- Every RUN channel passes through STOPPING (R239). -/
def chnParkAll (s : State) : State :=
  each (List.range 48) (fun t n => if chnState t n = cRun then chnPark (chnStop t n) n else t) s

/-- The activation request goes to VDD_AON, the channels stop, and the reset is ordered. -/
def activate (s : State) : State :=
  let area (k : Nat) : Option Nat := if sess s k = ssArmed then some (destArea s k) else none
  let t := { chnParkAll (toActivation s) with act := some ⟨area kFw, area kLast, s.rsl.starts, s.rsl.hours⟩ }
  if s.rsl.full then recordCauses (orderReset t rFull) (BitVec.ofNat 8 (2 ^ rFull + 2 ^ rResole)) else orderReset t rResole

/-! ## Trials (R381 to R383) -/

/-- TRIAL_FW, TRIAL_LAST, STARTS and FB_ARMED follow the trials of the areas the hub runs. -/
def trialShow (s : State) : State :=
  let f := onTrial s kFw s.sys.fwSlot
  let l := onTrial s kLast s.sys.lastArea
  let spent (kind : Nat) : Bool := onTrial s kind (runArea s kind) && limitHours s kind (runArea s kind) != 0 &&
    decide (limitHours s kind (runArea s kind) ≤ trialHours s kind (runArea s kind))
  wrs s [(RSL_STATUS_TRIAL_FW, natOf f), (RSL_STATUS_TRIAL_LAST, natOf l),
    (RSL_STATUS_STARTS, if f then trialStarts s kFw s.sys.fwSlot else if l then trialStarts s kLast s.sys.lastArea else 0),
    (RSL_STATUS_FB_ARMED, natOf (spent kFw || spent kLast))]

/-- The trial of a kind is confirmed. -/
def confirmKind (s : State) (kind : Nat) : State :=
  match trialArea s kind with
  | none => s
  | some k =>
    let t := setMark (setMark s kind k mConfirmed) kind (1 - k) mSuperseded
    { t with otp := { t.otp with arb := max t.otp.arb (imgArb (areaImage s kind k)) } }

/-- The session of a kind is aborted, and its standing trial abandoned. -/
def abortKind (s : State) (kind : Nat) : State :=
  let t := setSess s kind ssIdle
  if flashKind kind then
    match trialArea t kind with
    | none => t
    | some k => setMark t kind k mFallen
  else t

/-! ## SCHED_LOAD (R94, R95, R385) -/

/-- The points of a slot of the active schedule: first and count. -/
def activePoints (s : State) : List (Nat × Nat) :=
  ((s.mem.filter fun c => decide (0x5020_0000 ≤ c.1) && decide (c.1 < 0x5024_0000) && c.1 % 4 == 3 && c.2.getLsbD 7).map
    fun c => (c.1 - 0x5020_0000) / 4).filterMap fun sl =>
      let e := bits (slotMap s sl) 17 14
      if keptUnder s e (activeBank s) then some (slotBase s sl, pointCount (bits (stWord s e) 8 3)) else none

/-- The active schedule uses a slot map entry. -/
def slotActive (s : State) (sl : Nat) : Bool :=
  bitOf (slotMap s sl) 31 && keptUnder s (bits (slotMap s sl) 17 14) (activeBank s)

/-- The bits of a bitmap word that the active schedule does not use. -/
def bitmapFree (pts : List (Nat × Nat)) (w : Nat) : Nat :=
  maskOf 32 fun b => pts.all fun p => decide (32 * w + b < p.1) || decide (p.1 + p.2 ≤ 32 * w + b)

/-- The bits of a word that SCHED_LOAD writes: pts are the points of the active schedule. -/
def schedMask (s : State) (pts : List (Nat × Nat)) (a : Nat) : Nat :=
  let pb := 1 - activeBank s
  if 0x5020_0000 ≤ a ∧ a < 0x5024_0000 then (if slotActive s ((a - 0x5020_0000) / 4) then 0 else 2 ^ 32 - 1)
  else if 0x5010_0000 ≤ a ∧ a < 0x5012_0000 then bitmapFree pts ((a - 0x5010_0000) / 4)
  else if 0x500E_0000 ≤ a ∧ a < 0x500E_E000 then 2 ^ (27 + pb)
  else if 0x500E_E000 ≤ a ∧ a < 0x500E_E800 ∧ a % 8 = 0 then 2 ^ (23 + pb)
  else 0

/-- The pending windows that the words give, by port. -/
def schedWindows (l : List (Nat × Nat)) : List (Nat × Option (Nat × Nat)) :=
  (List.range 4).filterMap fun p =>
    match l.find? fun x => x.1 == (TRN_WIN_START_NS p).addr, l.find? fun x => x.1 == (TRN_WIN_END_NS p).addr with
    | some x, some y => some (p, some (x.2 % 2 ^ 32, y.2 % 2 ^ 32))
    | _, _ => none

/-- The schedule of the sealed Last becomes the pending one. -/
def loadPending (s : State) (img : List Byte) : State :=
  let l := Config.lastWords img
  let pts := activePoints s
  let t := (l.filter fun p => !isLayout p.1).foldl
    (fun t p => memPutWord t p.1 (rmwWord (memWord t p.1) (schedMask s pts p.1) p.2)) s
  let u := if stretchOn t then loadLayout t (1 - activeBank t) l else t
  wrs { u with trn := { u.trn with pendWin := schedWindows l, pendSeen := 0 } }
    [(TRN_SCHED_PEND_VER, imgMin img % 256), (TRN_SCHED_PEND_VALID, 1), (RSL_STATUS_PEND_READY, 1)]

/-- The result of SCHED_LOAD. -/
def schedResult (s : State) (session : Nat) : Nat :=
  let img := areaImage s kLast (destArea s kLast)
  if 2 ^ 16 ≤ session then reBadField
  else if (sess s kLast ≠ ssSealed ∧ sess s kLast ≠ ssArmed) ∨ !isSession s kLast session then reOrder
  else if modDiff 8 (imgMin img % 256) (rd s TRN_SCHED_ACT_VER) ≤ 0 ∨ !tickParams s img then reTickParam
  else reOk

end Sys2Proof.Machine
end

