-- ==== Sys2Proof/Machine/Rsl.lean ====
section
/-! DEFINITION. The commands of Resole (R372 to R385). -/

namespace Sys2Proof.Machine

/-- OPEN (R374). -/
def rslOpen (session kind size fmt : Nat) (s : State) : State :=
  let c := openResult s session kind size fmt
  if c = reOk then rslEnd (sessOpen s session kind size fmt) [kind] c
  else rslEnd s (if kindOk kind then [kind] else []) c

/-- OPEN (R374). -/
def execRslOpen (session kind size fmt : Nat) (s : State) : Out := .next (rslGate s (rslOpen session kind size fmt))

/-- BLOCK (R375). -/
def rslBlock (session kind off len crc : Nat) (progOk : Bool) (s : State) : State :=
  let c := blockResult s session kind off len crc progOk
  rslEnd (blockDo s kind off len c) (if kindOk kind then [kind] else []) c

/-- BLOCK (R375). -/
def execRslBlock (session kind off len crc : Nat) (progOk : Bool) (s : State) : Out := .next <| rslGate s
  (norHeld (.rslBlock session kind off len crc progOk) (rslBlock session kind off len crc progOk))

/-- SEAL (R374): the checks run in the background. -/
def rslSeal (session kind : Nat) (s : State) : State :=
  if !kindOk kind || decide (2 ^ 16 ≤ session) then rslEnd s [] reBadField
  else if sess s kind ≠ ssOpen ∨ !isSession s kind session then rslEnd s [kind] reOrder
  else if !allReceived s kind then rslEnd s [kind] reIncomplete
  else rslEnd (setSess s kind ssSealing) [kind] reOk

/-- SEAL (R374). -/
def execRslSeal (session kind : Nat) (s : State) : Out := .next (rslGate s (rslSeal session kind))

/-- SEAL_COMPLETE (R376). -/
def sealComplete (kind : Nat) (progOk : Bool) (s : State) : State :=
  if !kindOk kind || sess s kind != ssSealing then s
  else
    let c := sealResult s kind
    if c ≠ reOk then wr (sessFail s kind) (RSL_SESS_RESULT (kind - 1)) c
    else if flashKind kind ∧ !progOk then
      wr (sessFail (incSat (norFailed s (statePage kind (destArea s kind)) (beBytes 4 0)) NVM_CNT_PGM) kind)
        (RSL_SESS_RESULT (kind - 1)) reNor
    else wr (sessSeal s kind) (RSL_SESS_RESULT (kind - 1)) reOk

/-- SEAL_COMPLETE (R376). -/
def execSealComplete (kind : Nat) (progOk : Bool) (s : State) : Out := .next <| whenAlive s
  (norHeld (.sealComplete kind progOk) (sealComplete kind progOk))

/-- DESTINATION_ERASE_DONE (R374): the erase covers the state page. -/
def eraseDone (kind : Nat) (s : State) : State :=
  match s.rsl.erasing.find? (·.1 == kind) with
  | none => s
  | some (_, k) =>
    let t := norErase s (areaBase kind k) (areaSize kind)
    wr { t with rsl := { t.rsl with erasing := t.rsl.erasing.filter (·.1 != kind) } } (RSL_RCVD_ERASED (kind - 1)) 1

/-- DESTINATION_ERASE_DONE (R374). -/
def execDestinationEraseDone (kind : Nat) (s : State) : Out := .next <| whenAlive s
  (norHeld (.destinationEraseDone kind) (eraseDone kind))

/-- ACTIVATE (R378). -/
def rslActivate (session kmask tick starts hours : Nat) (full : Bool) (s : State) : State :=
  let c := activateResult s session kmask tick starts hours full
  rslEnd (if c = reOk then sessArm s kmask tick starts hours full else s) (kindsOf kmask) c

/-- ACTIVATE (R378). -/
def execRslActivate (session kmask tick starts hours : Nat) (full : Bool) (s : State) : Out :=
  .next (rslGate s (rslActivate session kmask tick starts hours full))

/-- CONFIRM (R382). -/
def rslConfirm (kmask : Nat) (s : State) : State :=
  if kmask = 0 ∨ 8 ≤ kmask then rslEnd s [] reBadField
  else if (kindsOf kmask).any fun k => !flashKind k || (trialArea s k).isNone then rslEnd s (kindsOf kmask) reOrder
  else rslEnd (trialShow (wr (each (kindsOf kmask) confirmKind s) RSL_EVT_CONFIRMED 1)) (kindsOf kmask) reOk

/-- CONFIRM (R382). -/
def execRslConfirm (kmask : Nat) (s : State) : Out := .next <| rslGate s (norHeld (.rslConfirm kmask) (rslConfirm kmask))

/-- ABORT (R374, R382). -/
def rslAbort (kmask : Nat) (s : State) : State :=
  if kmask = 0 ∨ 8 ≤ kmask then rslEnd s [] reBadField
  else rslEnd (trialShow (each (kindsOf kmask) abortKind s)) (kindsOf kmask) reOk

/-- ABORT (R374, R382). -/
def execRslAbort (kmask : Nat) (s : State) : Out := .next <| rslGate s (norHeld (.rslAbort kmask) (rslAbort kmask))

/-- SCHED_LOAD (R385). -/
def schedLoad (session : Nat) (s : State) : State :=
  let c := schedResult s session
  rslEnd (if c = reOk then loadPending s (areaImage s kLast (destArea s kLast)) else s) [kLast] c

/-- SCHED_LOAD (R385). -/
def execSchedLoad (session : Nat) (s : State) : Out := .next (rslGate s (schedLoad session))

/-- RESOLE_ACTIVATION (R379). -/
def execResoleActivation (s : State) : Out := .next <| whenAlive s fun s =>
  if (sess s kFw = ssArmed ∨ sess s kLast = ssArmed) ∧ actReached s then activate s else s

/-- KEY_ACTIVATION (R377): no reset, and no CONFIRM. -/
def execKeyActivation (s : State) : Out := .next <| whenAlive s fun s =>
  if sess s kKey = ssArmed ∧ actReached s then
    let t := toActivation s
    setSess (keyApply t (rslImage t kKey)) kKey ssIdle
  else s

/-- TRIAL_HOUR (R383): an hour in RUN or DEGRADED on trial. -/
def trialHour (s : State) : State :=
  if !running s then s
  else trialShow (each ([kFw, kLast].filter fun k => onTrial s k (runArea s k) && decide (trialHours s k (runArea s k) < 1024)) (fun t k => countHour t k (runArea t k)) s)

/-- TRIAL_HOUR (R383). -/
def execTrialHour (s : State) : Out := .next <| whenAlive s (norHeld .trialHour trialHour)

end Sys2Proof.Machine
end

