-- ==== Sys2Proof/Machine/Sys.lean ====
section
/-! DEFINITION. The commands of the orderly shutdown, the life cycle, the TAP, Cobbler's scrubbing, and the NVM
controller (R352, R353, R361 to R370, R389, R395, R412). -/

namespace Sys2Proof.Machine

/-! ## Shutdown (R353, R361 to R365) -/

/-- The verdict goes to VDD_AON with CONSUMED = 0 and a good CRC (R357, R361). -/
def putVerdict (s : State) (result : Nat) : State :=
  wrs s [(SYS_VERDICT_RESULT, result), (SYS_VERDICT_CONSUMED, 0), (SYS_VERDICT_VALID, 1)]

/-- The shutdown has ended: with END = 0 the hub domain stays in reset (R364). -/
def shutDone (s : State) : State :=
  { s with sys := { s.sys with shut := .ended, shutAt := ftNs s }, rst := { s.rst with heldEnd := !s.sys.shutEnd } }

/-- A shutdown while PFW_N is low, or whose LBIST is abandoned: verdict ABORT, and no record (R365). -/
def shutAbort (s : State) : State := shutDone (putVerdict (orderReset s rLbist) 3)

/-- The shutdown command is accepted (R361, R363, R365). -/
def shutBegin (s : State) (endBit : Bool) : State :=
  let s := restWaiting s
  let t := { s with sys := { s.sys with
    shut := .quiesce, shutEnd := endBit, shutHold := rd s SYS_SHUT_HOLD_S, shutAt := ftNs s } }
  let u := enterStill t stResting
  if u.sys.pfwLow then shutAbort u else u

/-- The status of the write of GO by the hub state (R352, R353). -/
def shutStatus (s : State) : Nat :=
  let st := hubState s
  if st = stResting ∨ st = stDump then scResting
  else if st = stJoining then scDenied
  else if st = stStart then scRetry
  else scOk

/-- SHUTDOWN (R361). -/
def execShutdown (ini : Nat) (endBit : Bool) (s : State) : Out := .next <| whenAlive s fun s =>
  let c := shutStatus s
  if c = scOk then shutBegin (answerMgmt s ini c) endBit else answerMgmt s ini c

/-- QUIESCE_END (R361): branches hard off, and the hub domain is reset with cause LBIST; while a reset is in progress
LBIST is one more cause (R27). -/
def execQuiesceEnd (s : State) : Out := .next <|
  if s.rst.busy then orderReset s rLbist
  else if s.sys.shut ≠ .quiesce ∨ hubState s ≠ stResting then s
  else if s.sys.pfwLow then shutAbort s
  else
    let t := orderReset s rLbist
    { t with sys := { t.sys with shut := .lbist, shutAt := ftNs t } }

/-- LBIST_END (R361, R362): after 40 ms the verdict goes to VDD_AON. -/
def execLbistEnd (misr : BitVec 32) (s : State) : Out := .next <|
  if s.rst.busy ∧ s.sys.shut = .lbist then
    let s := advanceTo s (s.sys.shutAt + 40000000)
    let t := wr (putVerdict s (if misr = Config.romMisr then 1 else 2)) SYS_VERDICT_MISR misr.toNat
    { t with sys := { t.sys with shut := .record } }
  else s

/-- The shutdown record: offset 48 holds the verdict and T_LBIST (R359). -/
def writeShutRecord (s : State) (tUs : Nat) : State :=
  match logNext s with
  | none => s
  | some k =>
    let off := recOff k
    let t := norProgram s off (recHead s 2 (logNo s))
    let u := norProgram (norPut t (off + 16) 4 s.sys.first) (off + 20)
      ([3, 2, 1, 0].flatMap fun i => beBytes 4 (s.sys.firstAlso.getD i 0))
    let v := norPut (norPut u (off + 48) 1 (rd s SYS_VERDICT_RESULT)) (off + 52) 4 (rd s SYS_VERDICT_MISR)
    recClose (norPut v (off + 56) 4 tUs) off

/-- SHUTDOWN_RECORD (R361, R364, R365). -/
def execShutdownRecord (tUs : Nat) (s : State) : Out := .next <|
  if s.rst.busy ∧ s.sys.shut = .record then
    let t := shutDone (if s.sys.pfwLow then s else writeShutRecord s tUs)
    if t.sys.shutEnd ∧ !t.rst.refFail then releaseReset t else t
  else s

/-- HOLD_S_EXPIRY (R364): HOLD_S was not 0, and supply is still present. -/
def execHoldSExpiry (s : State) : Out := .next <|
  if s.rst.busy ∧ s.rst.heldEnd ∧ s.sys.shutHold ≠ 0 ∧ !s.rst.refFail then
    releaseReset (advanceTo s (s.sys.shutAt + 1000000000 * s.sys.shutHold))
  else s

/-- PFW_N_FALL (R365). -/
def execPfwNFall (s : State) : Out := .next <|
  let t := { s with sys := { s.sys with pfwLow := true } }
  if !t.rst.busy then wr t SYS_EVT_PFW 1
  else if t.sys.shut = .lbist then shutAbort t
  else t

/-! ## The life cycle (R366, R368) -/

/-- A life-cycle command is refused. -/
def lcRefuse (s : State) (ini : Nat) : State := answerMgmt (wr s SYS_EVT_LC_REJ 1) ini scDenied

/-- LC_FIELD (R366): with at least one valid key slot. -/
def execLcField (ini : Nat) (s : State) : Out := .next <| whenAlive s fun s =>
  if s.otp.lc = lcProvisioned ∧ (List.range 4).any (slotGood s) then
    answerMgmt { s with otp := { s.otp with lc := lcField } } ini scOk
  else lcRefuse s ini

/-- The 128 bytes of the token. -/
def tokenBytes (s : State) : List Byte := (List.range 32).flatMap fun k => leBytes 4 (rd s (SYS_TOKEN_W k))

/-- The token is this hub's, carries its nonce, and is signed by Elvaily (R368). -/
def tokenOk (s : State) : Bool :=
  let t := tokenBytes s
  beNat (slice t 0 8) == Config.dieUid.toNat && beNat (slice t 8 8) == rd s SYS_NONCE_NONCE &&
  beNat (slice t 16 4) == 0x5245_5452 && Config.ecdsaVerify Config.romKey (Config.sha256 (t.take 64)) (slice t 64 64)

/-- LC_RETURN (R368): every key slot becomes invalid, and both domains are reset with cause FULL. -/
def execLcReturn (ini : Nat) (s : State) : Out := .next <| whenAlive s fun s =>
  if s.otp.lc ≠ lcReturn ∧ tokenOk s then
    orderReset { answerMgmt s ini scOk with otp := { s.otp with valid := 0, lc := lcReturn } } rFull
  else lcRefuse s ini

/-- NEW_NONCE (R368): the random value is a free value. -/
def execNewNonce (ini : Nat) (s : State) : Out := .next <| whenAlive s fun s =>
  answerMgmt (wr s.used SYS_NONCE_NONCE (freeOf s 64)) ini scOk

/-! ## The TAP (R367) -/

/-- IDCODE: bit 0 is 1, the manufacturer in bits 11:1, the part in bits 27:12, the version in bits 31:28. -/
def idcode : Nat := (1 * 2 ^ 16 + 0x4864) * 2 ^ 12 + Config.jedecId.toNat * 2 + 1

/-- JTAG_IDCODE (R367). -/
def execJtagIdcode (s : State) : Out := .next (s.emit (.jtag idcode))

/-- JTAG_BYPASS (R367): one bit that captures 0. -/
def execJtagBypass (s : State) : Out := .next (s.emit (.jtag 0))

/-- JTAG_SAMPLE_PRELOAD (R367): the boundary cells capture the pins, whose order the spec leaves to the BSDL file. -/
def execJtagSamplePreload (s : State) : Out := .next (s.used.emit (.jtag (freeOf s 32)))

/-- JTAG_EXTEST (R367): it takes effect while SYS_RST_N is low, or with full JTAG; it selects BYPASS otherwise. -/
def execJtagExtest (rstLow : Bool) (s : State) : Out := .next <|
  if rstLow ∨ s.otp.lc = lcBlank ∨ s.otp.lc = lcReturn then s.used.emit (.jtag (freeOf s 32)) else s.emit (.jtag 0)

/-! ## Scrubbing (R69, R111, R309, R369) -/

/-- A channel has a frame in progress on a context: a response, or a frame of the RX queue that is partly received. -/
def ctxInFrame (s : State) (c : Nat) : Bool :=
  (List.range 48).any fun n =>
    ((s.chn n).part.isSome && bitOf (rd s (CHN_CFG_QUSE n)) 1 && rd s (CHN_CFG_QCTX n) == c) ||
    match (s.chn n).xfer with
    | .attempt _ =>
      let t := rd s (CHN_STAT_CUR n)
      bitOf (desc s n t 3 14 2) 1 && desc s n t 3 8 6 == c
    | _ => false

/-- An entry of the Ledger is dropped (R111). -/
def eccDrop (s : State) (e : Nat) : State :=
  if bitOf (stWord s e) 11 then wr (updateEntry s e (withBit (stWord s e) 11 false)) LDG_EVT_ECC_DROP 1
  else wr s LDG_EVT_ECC_DROP 1

/-- The tables of the Ledger have an error (R111). -/
def tableErr (s : State) : State := wrs s [(LDG_STATUS_TABLE_ERR, 1), (LDG_EVT_TABLE_ERR, 1)]

/-- The merge image loses the entry of a word (R69). -/
def mergeLose (s : State) (word : Nat) : State :=
  match (layoutSlots s (activeBank s))[word / 18]? with
  | none => s
  | some sl =>
    let e := mergeEntry s sl
    let x := slotMake (e.take 3 ++ [e.getD 3 0 &&& 0x7F] ++ (e.drop 4).take 64)
    { s with trn := { s.trn with merge := tput emptyEntry s.trn.merge sl x } }

/-- A word is listed as damaged: reads of it fail until it is written (R314). -/
def markBad (s : State) (memc word : Nat) : State :=
  { s with bad := (memc * 2 ^ 28 + word) :: s.bad.erase (memc * 2 ^ 28 + word) }

/-- A payload word is damaged until the next accepted copy of its entry. -/
def payloadBad (s : State) (word : Nat) : State :=
  let e := word / 16
  let t := if bitOf (stWord s e) 11 then { s with bad := s.bad.filter fun b => b / 16 != e } else s
  eccDrop (markBad t 0 word) e

/-- A word is kept as it is read: a free value (R369). -/
def keptAsRead (s : State) (memc word : Nat) : State :=
  let v := freeOf s 32
  let t := s.used
  if memc = 3 then (if word < 0x8000 then markBad (memPutWord t (0x5040_0000 + 4 * word) v) 3 word else s)
  else if memc = 4 then (if word < 0x2_0000 then memPutWord t (0x5060_0000 + 4 * word) v else s)
  else if memc = 10 then
    (if word < 4096 then wr t (TRD_SCR_W word) v else if word < 4608 then wr t (TRD_FLG_W (word - 4096)) v else s)
  else if memc = 11 then
    (if 12288 ≤ word then s
     else match wordAt (0x4006_4000 + 4 * word) with
      | some (_, cell, half) => setCellWord t cell half 0xFFFF_FFFF v
      | none => s)
  else s

/-- What an uncorrectable error does in its memory, by the rule of that memory. -/
def eccLose (s : State) (memc word : Nat) : State :=
  if memc = 0 ∧ word < 0x3_8000 then payloadBad s word
  else if memc = 0 then (if word < 0x3_B800 then eccDrop s (word - 0x3_8000) else s)
  else if memc = 1 then
    tableErr (markBad { s with ldg := { s.ldg with offSlots := word % 2 ^ 16 :: s.ldg.offSlots.erase (word % 2 ^ 16) } } 1 (word % 2 ^ 16))
  else if memc = 2 then
    let t := tableErr { s with ldg := { s.ldg with offWords := word % 2 ^ 14 :: s.ldg.offWords.erase (word % 2 ^ 14) } }
    if word < 2 ^ 14 then markBad (markBad t 2 (2 * word)) 2 (2 * word + 1) else t
  else if memc = 6 then markBad s 6 (word % 2 ^ 16)
  else if memc = 7 then
    let c := word / 16 % 64
    let t := wrs s [(ASY_CTX_VAL_VAL c, asyInit s c), (ASY_EVT_CTX_ERR, 1)]
    if ctxInFrame s c then markBad t 7 c else t
  else if memc = 9 then (if word < 24576 * 18 then mergeLose s word else s)
  else keptAsRead s memc word

/-- The stretch memory counts its own errors (R69). -/
def smemCount (s : State) (memc : Nat) (unc : Bool) : State :=
  if memc ≠ 9 then s
  else if unc then wr (incSat s TRN_SMEM_ECC_UNCORR) TRN_EVT_SMEM_ECC 1
  else incSat s TRN_SMEM_ECC_CORR

/-- A word's outcome is reported (R111, R369). -/
def eccReport (s : State) (memc word : Nat) (unc : Bool) : State :=
  let t := smemCount (wrs s [(COB_ECC_LAST_WORD, word), (COB_ECC_LAST_MEM, memc)]) memc unc
  if unc then raise t 117 (memc * 2 ^ 28 + word % 2 ^ 28)
  else raise { t with sys := { t.sys with corrected := t.sys.corrected + 1 } } 116 (memc * 2 ^ 28 + word % 2 ^ 28)

/-- A pass ends (R369). -/
def scrubPass (s : State) (pass : Option Nat) : State :=
  match pass with
  | none => s
  | some ms =>
    let t := wr (incWrap s COB_STAT_PASSES) COB_STAT_PASS_MS (min ms 65535)
    if 8000 < ms then wr t COB_EVT_SCRUB_LATE 1 else t

/-- SCRUB (R369): a functional write of the same cycle wins. -/
def execScrub (memc word bad : Nat) (collide : Bool) (pass : Option Nat) (s : State) : Out := .next <| whenAlive s fun s =>
  if !flag s COB_CTRL_SCRUB_EN ∨ 12 ≤ memc ∨ (memc = 9 ∧ !stretchOn s) then s
  else
    let s1 := if bad = 2 ∧ !collide then eccLose s memc word else s
    let s2 := if bad = 0 then s1 else eccReport s1 memc word (bad == 2)
    if s2.rst.busy then s2 else scrubPass s2 pass

/-! ## Cobbler's erases and the NVM controller (R365, R370, R389, R394, R395) -/

/-- The Start Log's newest record, and the Stocktake halves, keep a block from Cobbler's erase (R347, R359, R370). -/
def blockKept (s : State) (blk : Nat) : Bool :=
  decide (wearBlocks ≤ blk) || (decide (144 ≤ blk) && decide (blk < 208)) ||
  (logLast s).any fun k => blockOf (recOff k) == some blk

/-- A block of the records, the Start Log or the event log is erased. -/
def cobblerErase (blk : Nat) (s : State) : State :=
  if blockKept s blk then s else eraseBlock s (wearBase + 0x1_0000 * blk)

/-- COBBLER_BLOCK_ERASE (R370). -/
def execCobblerBlockErase (blk : Nat) (s : State) : Out := .next <| whenAlive s
  (norHeld (.cobblerBlockErase blk) (cobblerErase blk))

/-- NVM_ADDR lies where the command is refused (R394, R395). -/
def nvmDenied (s : State) (off : Nat) : Bool :=
  decide (norSize ≤ off) ||
  (decide (off < 0x10_0000) && s.otp.lc != lcBlank && s.otp.lc != lcReturn) ||
  (decide (0x10_0000 ≤ off) && decide (off < 0x190_0000) && decide (14 ≤ rd s SYS_STEP_STEP))

/-- A command of the NVM controller is taken, or refused with ERR. -/
def nvmStart (s : State) (ini op : Nat) (page : List Byte) : State :=
  let off := rd s NVM_ADDR_ADDR
  if s.sys.nvm.isSome ∨ s.sys.pfwLow then answerMgmt (wr s NVM_STAT_ERR 1) ini scRetry
  else if nvmDenied s off then answerMgmt (wr s NVM_STAT_ERR 1) ini scDenied
  else answerMgmt { wr s NVM_STAT_ERR 0 with sys := { s.sys with nvm := some (op, off, page) } } ini scOk

/-- The page in NVM_BUF. -/
def nvmPage (s : State) : List Byte := (List.range 64).flatMap fun k => leBytes 4 (rd s (NVM_BUF_W k))

/-- NVM_PROGRAM (R395). -/
def execNvmProgram (ini : Nat) (s : State) : Out := .next (whenAlive s fun s => nvmStart s ini 1 (nvmPage s))

/-- NVM_ERASE (R395). -/
def execNvmErase (ini : Nat) (s : State) : Out := .next (whenAlive s fun s => nvmStart s ini 2 [])

/-- The program or erase in progress ends (R389). -/
def nvmEnd (s : State) (ok : Bool) : State :=
  match s.sys.nvm with
  | none => s
  | some (op, off, page) =>
    let t := { s with sys := { s.sys with nvm := none } }
    let pg := off / 256 * 256
    let blk := off / 0x1_0000 * 0x1_0000
    if ok then (if op = 1 then norProgram t pg page else eraseBlock t blk)
    else wr (incSat (if op = 1 then norFailed t pg page else norUnknown t blk 0x1_0000) NVM_CNT_PGM) NVM_STAT_ERR 1

end Sys2Proof.Machine
end

