-- ==== Sys2Proof/Machine/Trn.lean ====
section
/-! DEFINITION. The commands of the trains (R56 to R90, R120, R121). They lie in the ring domain and act through every
hub-domain reset. -/

namespace Sys2Proof.Machine

/-! ## A train frame passes (R29, R70 to R73, R77 to R82, R85, R119 to R121) -/

/-- 1/32 CLK_CORE cycles as ns × 2^16 (R120). -/
def subNs (s : State) (n : Nat) : Int := roundDiv (cycleUnits s * n) (32 * 2 ^ 32)

/-- FT in ns × 2^16. -/
def ft16 (s : State) : Int := s.clk.ft.toNat / 2 ^ 32

/-- The link delay of a port in ns × 2^16. -/
def ldly16 (s : State) (p : Nat) : Nat := rd s (WELT_LDLY_NS p) * 65536 + rd s (WELT_LDLY_FRAC p)

/-- How the arrival of a frame sorts its train (R80): arrivals of other laps are counted. A lead frame counts as arrived
whatever its TCRC proves to be (DESIGN CHOICE, log entry 119: the spec does not say), and a fresh one ends the quiet of
its ring (R88). -/
def sortTrain (s : State) (f : List Byte) : State :=
  let t := fTrain f
  let x := s.train t
  if !fShape f then s
  else if fLap f ≠ lapMod s then (if fLead f then incSat s (TRN_STALE_CNT_LEADS t) else s)
  else if fLead f then
    let u := s.setRing (t / 2) { s.ring (t / 2) with quiet := ftNs s }
    setHeadless (u.setTrain t { x with st := if fFinal f then .complete else .running, lastNo := fNo f }) (t / 2) false
  else if x.st = .running then s.setTrain t { x with st := if fFinal f then .complete else .running, lastNo := fNo f }
  else s

/-- TRN_LEAD_ARR: ns from the boundary of the lap the frame names. -/
def leadArr (s : State) (f : List Byte) : State :=
  if tLap s = 0 then s
  else
    let n := lapNow s + modDiff 24 (fLap f) (lapNow s)
    wrI s (TRN_LEAD_ARR_NS (fTrain f)) (ftNs s - boundaryNs s (tLap s) n)

/-- The time sample of a lead frame that arrived sub/32 cycles after this one began (R121). -/
def leadSample (s : State) (p sub : Nat) (f : List Byte) : State :=
  let t := fTrain f
  let newer := match tget (fun _ => none) s.bell.lastLap t with
    | none => true
    | some l => decide (0 < modDiff 24 (fLap f) l)
  if s.rst.busy ∨ !flag s (WELT_PORT_STAT_LDLY_VALID p) ∨ fHead f % 4096 = rd s SYS_HUB_ID_ID ∨ !newer ∨
     s.bell.samples.any (·.1 == t) then s
  else
    let x := ft16 s + subNs s sub - (fOrigin f + fCorr f + ldly16 s p)
    { s with bell := { s.bell with
        samples := s.bell.samples ++ [(t, 2 * x)]
        lastLap := tput (fun _ => none) s.bell.lastLap t (some (fLap f)) } }

/-- HANDOVER and HEAD of a good lead frame, as the head, the named hub and a head in conflict take them (R82, R83). -/
def leadRoles (s : State) (f : List Byte) : State :=
  let r := fTrain f / 2
  let h := fHand f
  let own := rd s SYS_HUB_ID_ID
  let ho := bitOf h 15
  let x := s.ring r
  let keeps := own == rd s TRN_HEADS_PRIMARY ||
    (fHead f % 4096 != rd s TRN_HEADS_PRIMARY && decide (own < fHead f % 4096))
  if launches s r then
    s.setRing r { x with
      ackSeen := x.ackSeen || (ho && bitOf h 14 && handing s r)
      yield := x.yield || (fHead f % 4096 != own && fLap f == lapMod s && !keeps) }
  else if ho ∧ bitOf h 13 ∧ h % 4096 = own then s.setRing r { x with confGot := some (fHoLap f) }
  else s

/-- What a good lead frame tells the hub. -/
def leadGood (s : State) (p sub : Nat) (f : List Byte) : State :=
  let t := fTrain f
  let met := fLap f == lapMod s && (fBank s f).isSome
  let s1 := s.setTrain t { s.train t with met := (s.train t).met || met }
  let s2 := each (List.range 4) (fun u q => u.setPort q { u.port q with trainSeen := true })
    { s1 with trn := { s1.trn with leadLap := some (fLap f) }, bell := { s1.bell with leadSeen := true } }
  leadRoles (leadSample s2 p sub f) f

/-- A lead frame reaches the capture units that select its train (R127). -/
def leadCapture (s : State) (f : List Byte) : State :=
  if s.rst.busy ∨ !fShape f ∨ !fLead f then s else capEdge s (97 + fTrain f) (stampNow s true)

/-- The frame's trailer: counts, versions seen, copies for the Ledger and the merge image (R67, R71, R73, R85). -/
def frameEnd (s : State) (f : List Byte) : State :=
  let t := fTrain f
  let s1 := if fShape f ∧ (bankOf s (fVer f)).isNone then wr s TRN_EVT_VER_UNKNOWN 1 else s
  let s2 := if fGood f then { s1 with trn := { s1.trn with good := true, missing := false } } else s1
  match fBank s f with
  | none => incSat s2 (TRN_HDR_ERR_COUNT t)
  | some bank =>
    if !fGood f then incSat s2 (TRN_HDR_ERR_COUNT t)
    else
      let s3 := incWrap s2 (TRN_FRAME_CNT_COUNT t)
      let s4 := if flag s TRN_SCHED_PEND_VALID ∧ fVer f = rd s TRN_SCHED_PEND_VER then
          { s3 with trn := { s3.trn with
            pendSeen := withBit s3.trn.pendSeen t true
            pendFirst := if s3.trn.pendSeen = 0 then ftNs s3 else s3.trn.pendFirst } }
        else s3
      let s5 := (fCopies f).foldl (fun u c => takeCopy u t bank c) s4
      if merges s then
        ((fCopies f).filter fun c => (layoutSlots s bank).contains (slotId c)).foldl mergeCopy s5
      else s5

/-- The header and sync block as the frame leaves: ACK, the link delay and the residence (R70, R83, R120). A frame of a
version neither active nor pending goes on unchanged (R85). -/
def passHead (s : State) (p res : Nat) (f : List Byte) : List Byte :=
  let h := f.take (fHeadLen f)
  if (fBank s f).isNone ∨ !fLead f then h
  else
    let hand := fHand f
    let ack := bitOf hand 15 && hand % 4096 == rd s SYS_HUB_ID_ID && flag s TRN_STATUS_STANDBY
    let c := fCorr f + ldly16 s p + subNs s res
    patch (patch h 14 (beBytes 2 (if ack then hand ||| 0x4000 else hand))) 28 (beBytes 8 (wrapTo 64 c))

/-- The frame as it leaves the hub (R70). -/
def passFrame (s : State) (p res : Nat) (f : List Byte) : List Byte :=
  let h := passHead s p res f
  let body := (f.drop (fHeadLen f)).take (f.length - fHeadLen f - 4)
  let slots := match fBank s f with
    | none => body
    | some bank => ((fCopies f).flatMap fun c => if c.length = 72 then passSlot s bank c else c) ++ body.drop (72 * fSlots f)
  h ++ slots ++ beBytes 4 (if fGood f then fcs32 h else fcs32 h ^^^ 0xFFFF_FFFF)

/-- FT in tenths of ns, n units of 2^-48 ns from now. -/
def tenthsAt (s : State) (n : Int) : Nat := (((s.clk.ft.toNat : Int) + n) * 10 / 2 ^ 48).toNat

/-- A lead frame begins a new run of its train: an earlier slip of it counts no more (R77, R78). -/
def newRun (s : State) (q t : Nat) : State := s.setPort q { s.port q with slips := (s.port q).slips.filter (· != t) }

/-- The frame leaves by a port: slip, observed position, the time it takes (R77, R78). -/
def leaveBy (s : State) (q res : Nat) (f : List Byte) : State :=
  let t := fTrain f
  let ready := advance s (throughCycles s (q / 2))
  let late := !inWindow (verWindow s q (fVer f)) (lapPos ready)
  let s1 := if (s.port q).stomped then s.setPort q { s.port q with stomped := false }
    else
      let u := if fLead f then newRun s q t else s
      if tLap s ≠ 0 ∧ late then slip u q t else u
  let a := tenthsAt s (cycleUnits s * res / 32)
  let len := (f.length + 20) * byteTenths s (q / 2)
  let s2 := s1.setPort q { s1.port q with
    first := if fLead f then some (t, a) else (s1.port q).first
    trainTo := (a + len + 9) / 10 }
  match (s2.port q).first with
  | some (t', x) => if fFinal f ∧ tLap s ≠ 0 ∧ t' = t then observe s2 q (fVer f) x (a + len) else s2
  | none => s2

/-- TRAIN_FRAME_PASS (R70). -/
def execTrainFramePass (dt sub res p : Nat) (f : List Byte) (s : State) : Out := .next <|
  let s := lapSync (advance s dt)
  if 4 ≤ p ∨ !isUp s p ∨ (s.rst.busy ∧ s.rst.full) then s
  else
    let s1 := sortTrain (leadCapture s f) f
    let s2 := if fShape f ∧ fLead f then leadArr s1 f else s1
    let s3 := if (fBank s f).isSome ∧ fLead f ∧ fGood f then leadGood s2 p sub f else s2
    let q := egressOf s p
    let s4 := if launches s (p / 2) then s3 else (leaveBy s3 q res f).emit (.trainFrame q (passFrame s p res f))
    frameEnd s4 f

/-- TRAIN_FIFO_STOMP (R77): a frame of train t has waited 2 µs for port p, and the message frame that the port still
sends is truncated there. -/
def execTrainFifoStomp (p t : Nat) (s : State) : Out := .next <|
  if 4 ≤ p ∨ !isUp s p ∨ (s.port p).sendTo ≤ ftNs s then s
  else
    let s1 := slip (newRun (lapSync s) p t) p t
    ((incSat s1 (TRN_STOMP_CNT_COUNT p)).setPort p { s1.port p with stomped := true, sendTo := ftNs s }).emit (.truncate p)

/-- TRACK_RETURN (R78). -/
def execTrackReturn (p : Nat) (s : State) : Out := .next <|
  if p < 4 ∧ rdBit s TRN_STATUS_TRACK p ∧ 4 ≤ (s.port p).inside then
    (wrBit s TRN_STATUS_TRACK p false).setPort p { s.port p with inside := 0 }
  else s

/-! ## Launches (R66, R81, R88) -/

/-- The ring has not been launched in the current lap. -/
def launchDue (s : State) (r : Nat) : Bool :=
  launches s r && match (s.ring r).launched with
    | none => true
    | some n => decide (n < lapNow s)

/-- The lap boundary at which the trains are launched: the present instant where it is one and a launch is due, the next
boundary otherwise (R66). -/
def launchInstant (s : State) : State :=
  if (launchDue s 0 || launchDue s 1) && decide (lapPos s ≤ 1) then s
  else advanceTo s (boundaryNs s (tLap s) (lapNow s + 1)).toNat

/-- LAP_LAUNCH (R66). -/
def execLapLaunch (s : State) : Out := .next <|
  if tLap s = 0 ∨ !(flag s TRN_STATUS_LAUNCH_A || flag s TRN_STATUS_LAUNCH_B) ∨ (s.rst.busy ∧ s.rst.full) then s
  else
    let t := each [0, 1] applyYield (lapSync (launchInstant s))
    each ([0, 1].filter (launchDue t)) launchRing t

/-- Laps that a head named in the Last waits for a fresh train (R88). -/
def headWait (s : State) : Nat := if rd s TRN_CTRL_ROLE = 1 then 2 else 16

/-- HEAD_START_LAUNCH (R88): after ST10, a named head has found no fresh train on ring r for 2 laps, or 16. -/
def execHeadStartLaunch (r : Nat) (s : State) : Out := .next <| whenAlive s fun s =>
  let s := lapSync s
  if 2 ≤ r ∨ !(rd s TRN_CTRL_ROLE == 1 || rd s TRN_CTRL_ROLE == 2) ∨ launches s r ∨ rd s SYS_STEP_STEP < 11 ∨
     tLap s = 0 then s
  else
    let u := lapSync (advanceTo s ((s.ring r).quiet + headWait s * tLap s))
    let t := if merges u then u else { u with trn := { u.trn with merge := [] } }
    startRing t r (lapNow t)

/-- REPAIR_LAUNCH (R81): the frames of train t that its head did not launch in this lap, once the port sends nothing. -/
def execRepairLaunch (t : Nat) (s : State) : Out := .next <|
  let s := lapSync (advanceTo s (ringBusy s (trainPort s t)))
  let x := s.train t
  let from_ := if x.st = .broken then x.lastNo + 1 else 0
  if t < 4 ∧ launches s (t / 2) ∧ (x.st = .broken ∨ x.st = .overdue) ∧ tLap s ≠ 0 then
    let l := trainFrames s true t from_
    (addSat (sendTrain s t l) (TRN_STALE_CNT_REPAIR t) l.length).setTrain t { x with st := .broken, lastNo := 65535 }
  else s

/-! ## Judging (R80, R84) -/

/-- TRAIN_BROKEN (R80). -/
def execTrainBroken (t : Nat) (s : State) : Out := .next <|
  let s := lapSync s
  if t < 4 ∧ (s.train t).st = .running then judgeRing (s.setTrain t { s.train t with st := .broken }) (t / 2) else s

/-- TRAIN_OVERDUE (R80). -/
def execTrainOverdue (t : Nat) (s : State) : Out := .next <|
  let s := lapSync s
  if t < 4 ∧ (s.train t).st = .wait then judgeRing (s.setTrain t { s.train t with st := .overdue }) (t / 2) else s

/-- TRN_LAP_MISS (R84): the current lap ends. -/
def execTrnLapMiss (s : State) : Out := .next <|
  if tLap s = 0 then s
  else
    let s := lapSync s
    let miss := flag s TRN_STATUS_JOINED && s.trn.judge && !s.trn.good
    let t := lapSync (advanceTo s (boundaryNs s (tLap s) (lapNow s + 1)).toNat)
    if miss then raise (wr { t with trn := { t.trn with missing := true, missLap := lapMod s } } TRN_EVT_LAP_MISS 1) 18 (lapMod s)
    else t

/-! ## Role commands (R83) -/

/-- A role command is refused, or has failed. -/
def roleFail (s : State) : State := wrs s [(TRN_ROLE_CMD_GO, 0), (TRN_EVT_ROLE_FAIL, 1)]

/-- The rings a role command names. -/
def roleRings (s : State) : List Nat :=
  (if flag s TRN_ROLE_CMD_RING_A then [0] else []) ++ (if flag s TRN_ROLE_CMD_RING_B then [1] else [])

/-- The layout of the active schedule is loaded from the Last into the active bank; none where the Last carries none. -/
def roleLayout (s : State) : Option State :=
  let l := lastTable s s.sys.lastArea
  if l.any fun p => isLayout p.1 then some (loadLayout s (activeBank s) l) else none

/-- GO of the role command (R83). -/
def roleGo (s : State) : State :=
  let rs := roleRings s
  let nh := rd s TRN_ROLE_CMD_NEW_HEAD
  let own := rd s SYS_HUB_ID_ID
  let acting := launches s 0 || launches s 1
  if acting then
    if rs = [] ∨ rs.any (fun r => !launches s r) ∨ nh = 0 ∨ nh = 4095 ∨ nh = own ∨ lapsAhead s < 4 ∨ 2 ^ 23 < lapsAhead s then roleFail s
    else each rs (fun u r => u.setRing r { u.ring r with ackSeen := false, confSent := false }) (wr s TRN_ROLE_CMD_GO 1)
  else if rs = [] ∨ nh = 0 ∨ nh = 4095 ∨ nh ≠ own ∨ rs.any (fun r => !headless s r) then roleFail s
  else
    let take (u : State) : State := wr (each rs takeRing u) TRN_ROLE_CMD_GO 0
    if flag s TRN_STATUS_STANDBY then take s
    else match roleLayout s with
      | none => roleFail s
      | some u => take { u with trn := { u.trn with merge := [] } }

/-- ROLE_COMMAND (R83): a write of TRN_ROLE_CMD with GO. -/
def execRoleCommand (newHead : Nat) (ringA ringB : Bool) (s : State) : Out :=
  .next <| whenAlive s fun s =>
  roleGo (wrs s [(TRN_ROLE_CMD_NEW_HEAD, newHead), (TRN_ROLE_CMD_RING_A, natOf ringA), (TRN_ROLE_CMD_RING_B, natOf ringB)])

/-- FT reaches the boundary of a lap, given modulo 2^24, where that lies ahead. -/
def toLap (s : State) (lap : Nat) : State :=
  let d := modDiff 24 lap (lapNow s)
  if tLap s = 0 ∨ d ≤ 0 then s else lapSync (advanceTo s (boundaryNs s (tLap s) (lapNow s + d)).toNat)

/-- A handover that this hub carries out as acting head. -/
def handsOver (s : State) : Bool := flag s TRN_ROLE_CMD_GO && (launches s 0 || launches s 1)

/-- L_H: of the command at the head, of the CONF received at the named hub (R83). -/
def handLap (s : State) : Option Nat :=
  if handsOver s then some (rd s TRN_ROLE_LAP_LAP) else [0, 1].findSome? fun r => (s.ring r).confGot

/-- The named hub launches a ring from the boundary of L_H, or from the next one where that has passed (R83). -/
def takeAtLap (s : State) (r : Nat) : State :=
  let t := s.setRing r { s.ring r with confGot := none }
  let at_ : Bool := (s.ring r).confGot == some (lapMod s) && decide (lapPos s ≤ 1)
  wr (startRing t r (if at_ then lapNow s - 1 else lapNow s)) TRN_EVT_TAKEOVER 1

/-- HANDOVER_LAP (R83): the boundary of L_H, at the head and at the named hub. -/
def execHandoverLap (s : State) : Out := .next <|
  if s.rst.busy ∧ s.rst.full then s
  else match handLap s with
  | none => s
  | some lap =>
    let s := toLap s lap
    let rs := roleRings s
    let s1 := if handsOver s then
        if rs.all fun r => launches s r && (s.ring r).confSent then
          wrs (each rs standDown s) [(TRN_ROLE_CMD_GO, 0), (TRN_EVT_HANDOVER, 1)]
        else roleFail (each rs (fun u r => u.setRing r { u.ring r with ackSeen := false, confSent := false }) s)
      else s
    each ([0, 1].filter fun r => (s.ring r).confGot.isSome && !launches s r) takeAtLap s1

/-! ## Schedules and the layout bank (R69, R85) -/

/-- TRN_SW_LAP takes effect on an acting head only. -/
def swLap (s : State) (lap : Nat) (arm : Bool) : State :=
  if launches s 0 || launches s 1 then
    let t := wr s TRN_SW_LAP_LAP lap
    if arm then wr t TRN_SW_LAP_ARM 1 else t
  else s

/-- SW_LAP_WRITE (R85). -/
def execSwLapWrite (lap : Nat) (arm : Bool) (s : State) : Out := .next (whenAlive s fun s => swLap s lap arm)

/-- SCHEDULE_SWITCH (R85): the acting head reaches the lap of TRN_SW_LAP. -/
def execScheduleSwitch (s : State) : Out := .next <|
  if flag s TRN_SW_LAP_ARM ∧ (launches s 0 || launches s 1) ∧ flag s TRN_SCHED_PEND_VALID then
    let t := wr (toLap s (rd s TRN_SW_LAP_LAP)) TRN_SW_LAP_ARM 0
    { t with trn := { t.trn with launchPend := true } }
  else s

/-- Frames of the pending version have arrived on every train the hub receives (R85). -/
def allSeen (s : State) : Bool := (List.range 4).all fun t => !carried s t || bitOf s.trn.pendSeen t

/-- Entries of the merge image are kept for the slots of the active layout alone: a slot that a later version adds again
starts with VALID = 0 (R86). -/
def keepMerge (s : State) : State :=
  let l := layoutSlots s (activeBank s)
  { s with trn := { s.trn with merge := s.trn.merge.filter fun e => l.contains e.1 } }

/-- VER_SWITCH (R85): the pending schedule becomes active, once every train brings its version, or two laps after the
first such frame. -/
def execVerSwitch (s : State) : Out := .next <|
  if flag s TRN_SCHED_PEND_VALID ∧ s.trn.pendSeen ≠ 0 then
    let s := if allSeen s then s else lapSync (advanceTo s (s.trn.pendFirst + 2 * tLap s))
    let t := wrs (useWindows s) [(TRN_SCHED_ACT_VER, rd s TRN_SCHED_PEND_VER), (TRN_SCHED_BANK, 1 - activeBank s),
      (TRN_SCHED_PEND_VALID, 0), (TRN_EVT_VER_SWITCH, 1)]
    keepMerge { t with trn := { t.trn with pendSeen := 0, launchPend := false, unready := !flag s RSL_STATUS_PEND_READY } }
  else s

/-- WORD advances after an access while INC is 1. -/
def layoutInc (s : State) : State :=
  if flag s TRN_LAYOUT_ADDR_INC then wr s TRN_LAYOUT_ADDR_WORD (rd s TRN_LAYOUT_ADDR_WORD + 1) else s

/-- A read of TRN_LAYOUT_DATA: the word, and the state after it. -/
def layoutRead (s : State) : Nat × State :=
  (if stretchOn s then layoutWord s (rd s TRN_LAYOUT_ADDR_BANK) (rd s TRN_LAYOUT_ADDR_WORD) else 0, layoutInc s)

/-- A write of TRN_LAYOUT_DATA: ignored to the active bank, and without powered stretch memory. -/
def layoutWrite (s : State) (v : Nat) : State :=
  let b := rd s TRN_LAYOUT_ADDR_BANK
  layoutInc (if stretchOn s ∧ b ≠ activeBank s then memPutWord s (layoutAddr b (rd s TRN_LAYOUT_ADDR_WORD)) v else s)

/-- LAYOUT_DATA_ACCESS (R69): a write of a word, or a read. -/
def execLayoutDataAccess (w : Option Nat) (s : State) : Out := .next <| whenAlive s fun s =>
  match w with
  | some v => layoutWrite s v
  | none => (layoutRead s).2.emit (.busRsp 0 0 (layoutRead s).1)

end Sys2Proof.Machine
end

