-- ==== Sys2Proof/Machine/Views.lean ====
section
/-! DEFINITION. Read-only fields whose value follows from the state of an engine: what a read of their register returns
(R6 and the register tables of files 01 to 17). A head field of a FIFO that has held an entry and is empty is a free
value (log entry 93). -/

namespace Sys2Proof.Machine

/-- A field of a cell as a read sees it: lowest bit, width, value; none is a free value. -/
structure View where
  lo : Nat
  w : Nat
  val : Option Nat
  deriving DecidableEq, Repr

/-- A field with a value. -/
def seeF (f : Fld) (v : Nat) : View := ⟨f.lo, f.w, some v⟩

/-- A head field: its value where an entry stands, 0 before the first entry, free otherwise. -/
def headF {α : Type} (f : Fld) (seen : Bool) (q : List α) (v : α → Nat) : View :=
  match q with
  | x :: _ => seeF f (v x)
  | [] => ⟨f.lo, f.w, if seen then none else some 0⟩

/-- The bytes of word j of a head frame in an RX window: bytes beyond its length are free. -/
def headWord {α : Type} (seen : Bool) (q : List α) (bytes : α → List Byte) (j : Nat) : List View :=
  (List.range 4).map fun k => match q with
    | x :: _ => ⟨8 * k, 8, ((bytes x)[4 * j + k]?).map (·.toNat)⟩
    | [] => ⟨8 * k, 8, if seen then none else some 0⟩

/-- Views of SYS, WELT, TRN and BELL. -/
def viewsCore (s : State) (a : Nat) : List View :=
  if a = SYS_LC_STATE.addr then [seeF SYS_LC_STATE s.otp.lc, seeF SYS_LC_KEYS s.otp.valid, seeF SYS_LC_REVOKED s.otp.revoked]
  else if a = SYS_UID_UID.addr then [seeF SYS_UID_UID Config.dieUid.toNat]
  else if a = WELT_STATUS_MODE.addr then
    [seeF WELT_STATUS_MODE (if flag s WELT_CTRL_BYPASS_REQ then 2 else natOf s.rst.busy),
     seeF WELT_STATUS_PAIR_A (natOf (isUp s 0 && isUp s 1)), seeF WELT_STATUS_PAIR_B (natOf (isUp s 2 && isUp s 3)),
     seeF WELT_STATUS_WRAPPED (wrapped s)]
  else if a = TRN_LAP_LAP.addr then
    if tLap s = 0 then [] else [seeF TRN_LAP_LAP (lapMod s), seeF TRN_LAP_LAPIDX (lapNow s % lapsPerTick s).toNat]
  else if a = BELL_FT_NS.addr then [seeF BELL_FT_NS (ftNs s)]
  else if (BELL_CAP_STAT_LEVEL 0).addr ≤ a ∧ a < (BELL_CAP_STAT_LEVEL 32).addr then
    let n := (a - 0x40040100) / 16
    let seen := s.bell.capSeen.contains n
    if a % 16 = 4 then
      [seeF (BELL_CAP_STAT_LEVEL n) (caps s n).length, headF (BELL_CAP_STAT_RISE n) seen (caps s n) fun e => natOf e.rise,
       headF (BELL_CAP_STAT_FRAC n) seen (caps s n) (·.frac)]
    else if a % 16 = 8 then [headF (BELL_CAP_TS_NS n) seen (caps s n) (·.ns)]
    else []
  else []

/-- Views of the Ledger, the Treadle, the Drover and the switch core; FREE shows its reset value until ST07 has initialised
the buffer (R10, R212; log entry 120). -/
def viewsPlane (s : State) (a : Nat) : List View :=
  if a = LDG_STATUS_STALE_N.addr then [seeF LDG_STATUS_STALE_N (staleN s)]
  else if a = TRD_STATUS_PHASE.addr then [seeF TRD_STATUS_PHASE (phaseNow s), seeF TRD_STATUS_RUNNING (natOf (trdRuns s))]
  else if a = DRV_STATUS_LIVE.addr then
    [seeF DRV_STATUS_LIVE (liveRecs s).length, seeF DRV_STATUS_ACTIVE (natOf (drvActive s)),
     seeF DRV_STATUS_TIMED (natOf (drvTimed s)), seeF DRV_STATUS_PEND_N s.drv.dest.length]
  else if (DRV_HO_OUT_WAIT 0).addr ≤ a ∧ a < (DRV_HO_OUT_WAIT 4).addr ∧ a % 8 = 0 then
    let c := (a - (DRV_HO_OUT_WAIT 0).addr) / 8
    [seeF (DRV_HO_OUT_WAIT c) (tget (fun _ => []) s.drv.hoQ c).length]
  else if isRecord a ∧ (a - 0x40064000) % 48 = 0x2C then
    let i := (a - 0x40064000) / 48
    [seeF (DRV_REC_CTR_WIN_OPEN i) (natOf (winOpen s i (ftNs s)))]
  else if a = XB_STATUS_FREE.addr then [seeF XB_STATUS_FREE (if rd s SYS_STEP_STEP < 8 then 0 else freePool s)]
  else if (XB_Q_STAT_DEPTH 0).addr ≤ a ∧ a < (XB_Q_STAT_DEPTH 64).addr ∧ a % 16 = 12 then
    let q := (a - (XB_Q_STAT_DEPTH 0).addr) / 16
    [seeF (XB_Q_STAT_DEPTH q) (min (usedOf s q) 65535)]
  else []

/-- The bits of CHN_MODEP that a MODE names; the others are reserved (R9). -/
def modepMask (m : Nat) : Nat :=
  match m with
  | 1 => 0xFFFFFFFF
  | 2 => 0xFFFFFF07
  | 3 => 0xFFFF
  | 4 => 0xFF7F
  | _ => 0

/-- Views of a channel: its number, and the offset in its registers. -/
def viewsChn (s : State) (n o : Nat) : List View :=
  let c := s.chn n
  if o = 0x08 then [seeF (CHN_MODEP_P n) (rd s (CHN_MODEP_P n) &&& modepMask (chnMode s n))]
  else if o = 0x24 then
    [seeF (CHN_STAT_TXQ_N n) (min c.txq.length 255), seeF (CHN_STAT_RXQ_N n) (min c.rxq.length 255)]
  else if o = 0x44 then
    [headF (CHN_RXHDR_LEN n) c.seen c.rxq fun f => f.bytes.length, seeF (CHN_RXHDR_VALID n) (natOf !c.rxq.isEmpty),
     headF (CHN_RXHDR_CHECK n) c.seen c.rxq fun f => natOf f.check, headF (CHN_RXHDR_TRUNC n) c.seen c.rxq fun f => natOf f.trunc,
     headF (CHN_RXHDR_LINE n) c.seen c.rxq fun f => natOf f.line]
  else if o = 0x48 then [headF (CHN_RXTS_NS n) c.seen c.rxq (·.ns)]
  else if 0x280 ≤ o ∧ o < 0x400 then headWord c.seen c.rxq (·.bytes) ((o - 0x280) / 4)
  else []

/-- Views of a CAN controller: its number, and the offset in its registers. -/
def viewsCan (s : State) (k o : Nat) : List View :=
  let c := s.can k
  if o = 0x18 then [seeF (CAN_STAT_RXF_N k) c.fifo.length, seeF (CAN_STAT_SQ_N k) (min c.sq.length 15)]
  else if o = 0x280 then
    [headF (CAN_RXHDR_LEN k) c.seen c.fifo fun x => x.frame.data.length, seeF (CAN_RXHDR_VALID k) (natOf !c.fifo.isEmpty),
     headF (CAN_RXHDR_DLC k) c.seen c.fifo (·.frame.dlc), headF (CAN_RXHDR_FDF k) c.seen c.fifo fun x => natOf x.frame.fd,
     headF (CAN_RXHDR_BRS k) c.seen c.fifo fun x => natOf x.frame.brs, headF (CAN_RXHDR_ESI k) c.seen c.fifo fun x => natOf x.frame.esi,
     headF (CAN_RXHDR_FILTER k) c.seen c.fifo (·.filter)]
  else if o = 0x284 then
    [headF (CAN_RXID_ID k) c.seen c.fifo fun x => idField x.frame, headF (CAN_RXID_IDE k) c.seen c.fifo fun x => natOf x.frame.ide,
     headF (CAN_RXID_RTR k) c.seen c.fifo fun x => natOf x.frame.rtr]
  else if o = 0x288 then [headF (CAN_RXTS_NS k) c.seen c.fifo (·.ns)]
  else if 0x300 ≤ o ∧ o < 0x340 then headWord c.seen c.fifo (·.frame.data) ((o - 0x300) / 4)
  else []

/-- Views of a discrete line: its number, and the offset in its registers. -/
def viewsDio (s : State) (n o : Nat) : List View :=
  let l := s.line n
  if o = 0x10 then
    [seeF (DIO_STAT_PIN n) (natOf (l.pad && s.sys.loaded)), seeF (DIO_STAT_DRIVE n) (natOf (lineDriven s n == some true)), seeF (DIO_STAT_QN n) l.queue.length,
     seeF (DIO_STAT_PT_RUN n) (natOf (l.ptLeft != 0))]
  else if o = 0x14 then
    [seeF (DIO_TS_STAT_LEVEL n) l.fifo.length, headF (DIO_TS_STAT_RISE n) l.seen l.fifo fun e => natOf e.rise,
     headF (DIO_TS_STAT_FRAC n) l.seen l.fifo (·.frac)]
  else if o = 0x18 then [headF (DIO_TS_NS n) l.seen l.fifo (·.ns)]
  else []

/-- Views of the units at the edge of the hub. -/
def viewsUnits (s : State) (a : Nat) : List View :=
  if 0x400A_0000 ≤ a ∧ a < 0x400A_C000 then viewsChn s ((a - 0x400A_0000) / 0x400) (a % 0x400)
  else if a = CHN_STATUS_FAILN.addr then [seeF CHN_STATUS_FAILN (failN s)]
  else if 0x400B_0000 ≤ a ∧ a < 0x400B_4000 then viewsCan s ((a - 0x400B_0000) / 0x400) (a % 0x400)
  else if 0x400C_0000 ≤ a ∧ a < 0x400C_1800 then viewsDio s ((a - 0x400C_0000) / 0x40) (a % 0x40)
  else if a = BRN_SUMMARY_PG.addr then
    [seeF BRN_SUMMARY_PG (maskOf 16 fun n => flag s (BRN_STAT_PG n)),
     seeF BRN_SUMMARY_LATCHED (maskOf 16 fun n => brnState s n == bLatchedOff)]
  else if (ASY_CTX_RES_RES 0).addr ≤ a ∧ a < (ASY_CTX_RES_RES 64).addr ∧ a % 64 = 0x28 then
    let c := (a - 0x400F_1000) / 64
    [seeF (ASY_CTX_RES_RES c) (asyRes s c (rd s (ASY_CTX_VAL_VAL c)))]
  else []

/-- Views of the Ferryman, Tinker, Cobbler, Resole, the NVM controller and the Local Port. -/
def viewsMgmt (s : State) (a : Nat) : List View :=
  if a = FRY_STATUS_OPEN.addr then [seeF FRY_STATUS_OPEN s.fry.txns.length]
  else if a = TNK_STATE_UNACK.addr then
    [seeF TNK_STATE_UNACK (maskOf 16 (groupUnack s)),
     seeF TNK_STATE_WORST (((List.range 128).filter (stat s)).foldl (fun m x => max m (lastEff s x)) 0),
     seeF TNK_STATE_FLT (rd s TNK_FLT_STATE)]
  else if (TNK_PRESENT_PRESENT 0).addr ≤ a ∧ a < (TNK_PRESENT_PRESENT 4).addr then
    let k := (a - (TNK_PRESENT_PRESENT 0).addr) / 4
    [seeF (TNK_PRESENT_PRESENT k) (maskOf 32 fun b => present s (32 * k + b))]
  else if (TNK_SEV_SEV 0).addr ≤ a ∧ a < (TNK_SEV_SEV 128).addr then
    let x := (a - (TNK_SEV_SEV 0).addr) / 4
    [seeF (TNK_SEV_FLOOR x) (((sourceRow x).map (·.2)).getD 0)]
  else if a = COB_WEAR_MAX.addr then
    let m := s.sys.wear.foldl (fun b x => if b.2 < x.2 then x else b) (0, 0)
    [seeF COB_WEAR_MAX (min m.2 4194303), seeF COB_WEAR_BLOCK m.1]
  else if a = RSL_STATUS_ARB.addr then [seeF RSL_STATUS_ARB s.otp.arb]
  else if a = NVM_STAT_BUSY.addr then
    [seeF NVM_STAT_BUSY (natOf s.sys.nvm.isSome), seeF NVM_STAT_PFW_HOLD (natOf s.sys.pfwLow)]
  else if a = LP_STAT_MREQ.addr then
    [seeF LP_STAT_MREQ (natOf s.fry.mreq), seeF LP_STAT_HREQ (natOf s.fry.lpAsk.isSome), seeF LP_STAT_BUSY (natOf s.fry.lpBusy),
     seeF LP_STAT_HELD (natOf s.fry.lpHeld.isSome), seeF LP_STAT_RXQ_N (min s.fry.rxq.length 255)]
  else []

/-- The fields of a cell that follow from the state of an engine. -/
def viewsAt (s : State) (a : Nat) : List View :=
  if a < 0x4003_0000 ∨ (0x4004_0000 ≤ a ∧ a < 0x4005_0000) then viewsCore s a
  else if a < 0x4008_0000 then viewsPlane s a
  else if a < 0x4010_0000 then viewsUnits s a
  else viewsMgmt s a

/-- One field laid over a cell; a free value is used up. -/
def overlay (x : Cell × State) (v : View) : Cell × State :=
  match v.val with
  | some n => (cellSet x.1 v.lo v.w n, x.2)
  | none => (cellSet x.1 v.lo v.w (freeOf x.2 v.w), x.2.used)

/-- A cell as a read sees it. -/
def seenCell (s : State) (a : Nat) : Cell × State := (viewsAt s a).foldl overlay (cellAt s a, s)

/-- A field as a read sees it, where no free value is used. -/
def seenField (s : State) (f : Fld) : Nat := cellGet (seenCell s f.addr).1 f.lo f.w

end Sys2Proof.Machine
end

