-- ==== Sys2Proof/Machine/Welt.lean ====
section
/-! DEFINITION. The commands of the ring ports (R34 to R53, R190). They lie in the ring domain and act through every
hub-domain reset; a full reset holds every port DISABLED. -/

namespace Sys2Proof.Machine

/-- The ring domain is out of reset, and the port exists. -/
def ringAlive (s : State) (p : Nat) (f : State → State) : State :=
  if 4 ≤ p ∨ (s.rst.busy ∧ s.rst.full) then s else f s

/-- TXDIS_FORCE (R34, R36): ENABLE and TXDIS_FORCE of a port are written; ENABLE only while it is not locked. -/
def execTxdisForce (p : Nat) (enable force : Bool) (s : State) : Out := .next <| whenAlive s fun s =>
  ringAlive s p fun s =>
    let t := wrB s (WELT_PORT_CTRL_TXDIS_FORCE p) force
    portCtrl (if rd s SYS_STEP_STEP < 14 ∧ s.rst.fromFull then wrB t (WELT_PORT_CTRL_ENABLE p) enable else t) p

/-- A condition of the receiver has changed: in SYNC the hold starts again (R36), and what the port transmits follows
(R41). -/
def rxChanged (s : State) (p : Nat) : State :=
  settleTx (if portState s p = pSync then holdAgain s p else s) p

/-- PMA_SIGNAL_DETECT (R36, R41). -/
def execPmaSignalDetect (p : Nat) (s : State) : Out := .next <| ringAlive s p fun s =>
  let t := wr s (WELT_PORT_STAT_SIG_DET p) 1
  if portState s p = pDown ∧ !flag s (WELT_PORT_STAT_SFP_MODABS p) then portTo t p pSync else t

/-- LOCK_ACQUIRED (R41): the receiver has lock and no local fault. -/
def execLockAcquired (p : Nat) (s : State) : Out := .next <| ringAlive s p fun s =>
  let t := wr s (WELT_PORT_STAT_LOCK p) 1
  rxChanged (t.setPort p { t.port p with lf := false }) p

/-- LOCK_LOST_IN_SYNC (R36, R41): 0 lock lost, 1 local fault, 2 remote fault. -/
def execLockLostInSync (p kind : Nat) (s : State) : Out := .next <| ringAlive s p fun s =>
  if portState s p ≠ pSync then s
  else if kind = 2 then rxChanged (wr s (WELT_PORT_STAT_RF_RX p) 1) p
  else if kind = 1 then rxChanged (s.setPort p { s.port p with lf := true }) p
  else rxChanged (wr s (WELT_PORT_STAT_LOCK p) 0) p

/-- A port in SYNC may go to TRIAL: lock, no hi_ber, no local or remote fault (R36). -/
def syncGood (s : State) (p : Nat) : Bool :=
  portState s p == pSync && rxGood s p && !flag s (WELT_PORT_STAT_HIBER p) && !flag s (WELT_PORT_STAT_RF_RX p)

/-- SYNC_HOLD_EXPIRY (R36): the condition has held for 1 ms since the hold last started. -/
def execSyncHoldExpiry (p : Nat) (s : State) : Out := .next <| ringAlive s p fun s =>
  if syncGood s p then settleTx (wr (advanceTo s ((s.port p).hold + 1000000)) (WELT_PORT_STAT_STATE p) pTrial) p else s

/-- SIGNAL_DETECT_LOST (R36). -/
def execSignalDetectLost (p : Nat) (s : State) : Out := .next <| ringAlive s p fun s =>
  if portState s p = pSync then portTo (wrs s [(WELT_PORT_STAT_SIG_DET p, 0), (WELT_PORT_STAT_LOCK p, 0)]) p pDown else s

/-- LOSS_OF_SIGNAL (R36, R40, R41): 0 signal lost, 1 lock lost, 2 local fault. Below TRIAL nothing is declared. -/
def execLossOfSignal (p kind : Nat) (s : State) : Out := .next <| ringAlive s p fun s =>
  let t := if kind = 0 then wrs s [(WELT_PORT_STAT_SIG_DET p, 0), (WELT_PORT_STAT_LOCK p, 0)]
    else if kind = 1 then wr s (WELT_PORT_STAT_LOCK p) 0 else s.setPort p { s.port p with lf := true }
  if portState s p = pTrial ∨ portState s p = pUp then declare t p false
  else if portState s p = pSync ∧ kind = 0 then portTo t p pDown
  else rxChanged t p

/-- REMOTE_FAULT (R40): remote fault is received, or is received no longer. -/
def execRemoteFault (p : Nat) (on : Bool) (s : State) : Out := .next <| ringAlive s p fun s =>
  if on ∧ (portState s p = pTrial ∨ portState s p = pUp) then declare s p true
  else rxChanged (wrB s (WELT_PORT_STAT_RF_RX p) on) p

/-- HI_BER (R42): hi_ber is asserted, or released. -/
def execHiBer (p : Nat) (on : Bool) (s : State) : Out := .next <| ringAlive s p fun s =>
  let t := wrB s (WELT_PORT_STAT_HIBER p) on
  if on ∧ (portState s p = pTrial ∨ portState s p = pUp) then
    let u := raise (wr t (WELT_PORT_EVT_HIBER p) 1) 13 (hiberMask t)
    if flag s (WELT_PORT_CTRL_HIBER_WRAP p) then declare u p false else u
  else rxChanged t p

/-- MOD_CHG (R34 to R36): the filtered levels of MODABS, LOS and TXFLT of a port's module. A change of MODABS is an
event; a module removed takes the port DOWN. -/
def execModChg (p : Nat) (absent los txflt : Bool) (s : State) : Out := .next <| ringAlive s p fun s =>
  let t := wrs s [(WELT_PORT_STAT_SFP_MODABS p, natOf absent), (WELT_PORT_STAT_SFP_LOS p, natOf los),
    (WELT_PORT_STAT_SFP_TXFLT p, natOf txflt)]
  if absent = flag s (WELT_PORT_STAT_SFP_MODABS p) then t
  else
    let u := wr t (WELT_PORT_EVT_MOD_CHG p) 1
    if absent then (if portState s p = pDisabled then u else portTo u p pDown) else portRun (settleTx u p) p

/-- GO of WELT_SFP_MGMT starts a two-wire transfer (R35). -/
def sfpGo (s : State) (p : Nat) : State :=
  (wr s (WELT_SFP_MGMT_GO p) 1).emit (.serial 0 p (rdW s (WELT_SFP_MGMT_DATA p).addr))

/-- SFP_MGMT_GO (R35): a write of WELT_SFP_MGMT with GO. -/
def execSfpMgmtGo (p data offset : Nat) (devsel write : Bool) (s : State) : Out := .next <| whenAlive s fun s =>
  ringAlive s p fun s => sfpGo (wrs s [(WELT_SFP_MGMT_DATA p, data), (WELT_SFP_MGMT_OFFSET p, offset),
    (WELT_SFP_MGMT_DEVSEL p, natOf devsel), (WELT_SFP_MGMT_WRITE p, natOf write)]) p

/-- SFP_MGMT_DONE (R35): whether the module acknowledged, and the byte read. -/
def execSfpMgmtDone (p : Nat) (ack : Bool) (data : Nat) (s : State) : Out := .next <| ringAlive s p fun s =>
  if flag s (WELT_SFP_MGMT_GO p) then
    let t := wrs s [(WELT_SFP_MGMT_GO p, 0), (WELT_SFP_MGMT_ERR p, natOf !ack)]
    if ack ∧ !flag s (WELT_SFP_MGMT_WRITE p) then wr t (WELT_SFP_MGMT_DATA p) data else t
  else s

/-- BYPASS_REQ (R53). -/
def execBypassReq (s : State) : Out := .next (whenAlive s fun s => wr s WELT_CTRL_BYPASS_REQ 1)

/-! ## Unwrapping (R48, R49) -/

/-- UNWRAP_REQUEST (R48): a port in TRIAL has been stable for UNWRAP_HOLD. -/
def execUnwrapRequest (p : Nat) (s : State) : Out := .next <| ringAlive s p fun s =>
  if portState s p = pTrial ∧ flag s (WELT_PORT_STAT_LDLY_VALID p) then
    let l := if (s.port p).trainSeen then ((s.trn.leadLap.getD 0) + 4) % 2 ^ 24 else 0
    let l := if (s.port p).trainSeen ∧ l = 0 then 1 else l
    sendUnwrap (s.setPort p { s.port p with own := some l }) p 3 l
  else s

/-- UNWRAP_RESEND (R48). -/
def execUnwrapResend (p : Nat) (s : State) : Out := .next <| ringAlive s p fun s =>
  match (s.port p).own, (s.port p).agreed with
  | some l, none => sendUnwrap s p 3 l
  | _, _ => s

/-- The port is inside its free window of a lap: the window that opened in that lap (R49). -/
def inFreeOf (s : State) (p lap : Nat) : Bool :=
  let opened : Int := if (trainWindow s p).2 ≤ lapPos s then lapNow s else lapNow s - 1
  tLap s != 0 && !inWindow (trainWindow s p) (lapPos s) && decide ((opened % 2 ^ 24).toNat = lap)

/-- The agreed lap of a port is known: a value of 0, or one whose free window the port is inside, means at once
(R48, R49). -/
def agreeOn (s : State) (p l : Nat) : State :=
  if l = 0 ∨ inFreeOf s p l then toUp s p else s.setPort p { s.port p with agreed := some l }

/-- UNWRAP_ACK (R48): a request (3) or an acknowledgement (4) arrives with a lap. -/
def execUnwrapAck (p kind lap : Nat) (s : State) : Out := .next <| ringAlive s p fun s =>
  if portState s p ≠ pTrial then s
  else match (s.port p).own with
    | none => if kind = 3 then s.setPort p { s.port p with nbr := some lap } else s
    | some own =>
      if kind = 3 then
        let l := agree own lap
        agreeOn (sendUnwrap (s.setPort p { s.port p with nbr := some lap }) p 4 l) p l
      else agreeOn s p lap

/-- FT in ns at which a port that has agreed on a lap goes UP: the start of its first free window in that lap, or of its
next free window where the lap has begun (R49). -/
def unwrapAt (s : State) (p lap : Nat) : Nat :=
  let d := modDiff 24 lap (lapNow s)
  let w := (trainWindow s p).2
  if 0 < d then (boundaryNs s (tLap s) (lapNow s + d) + w).toNat
  else if d = 0 ∧ lapPos s ≤ w then (boundaryNs s (tLap s) (lapNow s) + w).toNat
  else nextFree s p

/-- UNWRAP (R49): the start of the port's free window in the agreed lap. -/
def execUnwrap (p : Nat) (s : State) : Out := .next <| ringAlive s p fun s =>
  match (s.port p).agreed with
  | none => s
  | some l =>
    if portState s p ≠ pTrial then s
    else toUp (if tLap s = 0 then s else lapSync (advanceTo s (unwrapAt s p l))) p

/-! ## Link delay (R50 to R52) -/

/-- LINK_DELAY_START (R50, R51): the request leaves at once, or in a later free window of an UP port. -/
def execLinkDelayStart (p : Nat) (s : State) : Out := .next <| ringAlive s p fun s =>
  let st := portState s p
  if st = pUp ∨ (st = pTrial ∧ !flag s (WELT_PORT_STAT_LDLY_VALID p)) then ringSend s p .request else s

/-- DELAY_REQUEST (R51): a request with SEQ arrives, and its response leaves turn ns × 2^16 later, or in a later free
window of an UP port (R50). -/
def execDelayRequest (dt p seq turn : Nat) (s : State) : Out := .next <|
  let s := advance s dt
  ringAlive s p fun s =>
    let ready := stepFt s (turn * 2 ^ 32)
    if portState s p ≠ pTrial ∧ portState s p ≠ pUp then s
    else if (s.port p).waiting.isEmpty ∧ ringMay ready p 64 then
      (s.setPort p { s.port p with sendTo := ((ringStart ready p 64).port p).sendTo }).emit
        (.linkFrame p (linkPayload 2 seq (ftNow16 s + turn) (ftNow16 s) turn 0))
    else s.setPort p { s.port p with waiting := ringQueue (s.port p).waiting (.response seq (ftNow16 s)) }

/-- DELAY_RESPONSE (R51, R52): a response with SEQ and TURN arrives sub/32 cycles after the cycle began. -/
def execDelayResponse (dt sub p seq turn : Nat) (s : State) : Out := .next <|
  let s := advance s dt
  ringAlive s p fun s =>
    match (s.port p).exch with
    | none => s
    | some (n, t1) =>
      if n ≠ seq then s
      else
        let t4 : Int := ftNow16 s + roundDiv (cycleUnits s * sub) (32 * 2 ^ 32)
        filterSample (s.setPort p { s.port p with exch := none }) p
          (roundDiv (t4 - t1 - turn) 2 + rdI s (WELT_ASYM_ASYM p))

/-- DELAY_NO_RESPONSE (R52). -/
def execDelayNoResponse (p : Nat) (s : State) : Out := .next <| ringAlive s p fun s =>
  s.setPort p { s.port p with exch := none }

/-- FAULT_NOTICE_REFRESH (R190): the wrap at port p holds. -/
def execFaultNoticeRefresh (p : Nat) (s : State) : Out := .next <| ringAlive s p fun s =>
  if isUp s p then s else sendNotice s p kRefresh

end Sys2Proof.Machine
end

