-- ==== Sys2Proof/Machine/Xb.lean ====
section
/-! DEFINITION. The commands of the message plane: ring frames, insertions, fault notices, the crossbar and its egress
ports, the spurs (R24, R53, R54, R182 to R211). -/

namespace Sys2Proof.Machine

/-! ## Frames at a ring port (R24, R53, R54, R187, R188, R199, R200) -/

/-- A bad tail is counted; XB_STOMP is raised once in a second of FT (R199, R200). -/
def countBad (s : State) (errTerm : Bool) : State :=
  if errTerm then incSat s XB_CNT_TAIL_BAD_RX
  else
    let sec := ftNs s / 1000000000
    let n := (if s.xb.badSec = sec then s.xb.badN else 0) + 1
    let t := incSat { s with xb := { s.xb with badSec := sec, badN := n } } XB_CNT_TAIL_BAD_HERE
    let thr := rd s XB_STOMP_CFG_STOMP_THR
    if thr ≠ 0 ∧ n = thr then raise (wr t XB_EVT_STOMP 1) 57 (rd t XB_CNT_TAIL_BAD_HERE) else t

/-- The direction in which a frame that arrives at ring port i leaves: the facing port's, or back at a wrap point. -/
def leaving (s : State) (i : Nat) : Nat := egressOf s i

/-- A group or broadcast frame is delivered here (R188). -/
def deliversMany (s : State) (i : Nat) (f : List Byte) : Bool :=
  (mGroup f || mDst f == 4095) && (mPath f == facing i || mPath f == leaving s i)

/-- The express path sends a frame on, behind the trains (R54, R76, R199). -/
def expressSend (s : State) (i : Nat) (f : List Byte) (bad : Bool) : State :=
  let q := egressOf s i
  if isUp s q then ringSend s q (.express (mHop f) bad) else s

/-- A frame addressed to a hub in EXPRESS: a management request is answered RESTING, any other is discarded and
counted, a bad one too (R24, R53, R199). -/
def expressLocal (s : State) (f : List Byte) (bad : Bool) : State :=
  if !bad ∧ mType f = tReq then s.emit (.mgmtRsp (mSrc f) (beNat (slice f 24 2)) 6 (beNat (slice f 28 4)) [])
  else incSat s WELT_XDISC_COUNT

/-- A frame on the express path, in EXPRESS and BYPASS (R53, R187). -/
def express (s : State) (i : Nat) (f : List Byte) (bad : Bool) : State :=
  let here (t : State) : State :=
    if s.rst.busy then expressLocal t f bad else if bad then t else t.emit (coreOut s (mHop f))
  if !hcrcOk f ∨ !knownType (mType f) ∨ 2016 < mLen f then (if s.rst.busy then s else headerError s)
  else if 8192 ≤ mHops f + 1 then (if s.rst.busy then s else wr (incSat s XB_CNT_HDR_HOP) XB_EVT_HOP 1)
  else if mSrc f = rd s SYS_HUB_ID_ID ∧ mPath f = facing i then
    (if s.rst.busy ∨ mGroup f ∨ mDst f = 4095 then s else noRoute s)
  else if !mGroup f ∧ mDst f = rd s SYS_HUB_ID_ID then here s
  else
    let t := expressSend s i f bad
    if deliversMany s i f then here t else t

/-- A frame at a ring port in NORMAL (R187). -/
def normal (s : State) (i : Nat) (f : List Byte) (bad : Bool) : State :=
  let see (t : State) (x : Fate) : State := tapSee t i 1 (ftNs s) f { x with bad := bad || !hcrcOk f }
  if !hcrcOk f ∨ !knownType (mType f) ∨ 2016 < mLen f then see (headerError s) { cause := 3 }
  else if 8192 ≤ mHops f + 1 then see (wr (incSat s XB_CNT_HDR_HOP) XB_EVT_HOP 1) { cause := 4 }
  else
    let (ok, s1) := policerTake s i (mTc f) (28 + mLen f)
    let x : XFrame := ⟨mHop f, i, ftNs s, 0⟩
    if !ok then see s1 { cause := 1 }
    else if mSrc f = rd s SYS_HUB_ID_ID ∧ mPath f = facing i then
      see (if mGroup f ∨ mDst f = 4095 then s1 else noRoute s1) (if mGroup f ∨ mDst f = 4095 then { drop := true } else { cause := 5 })
    else if !mGroup f ∧ mDst f = rd s SYS_HUB_ID_ID then
      let r := deliverLocal s1 x bad
      see r.2 r.1
    else if mGroup f ∨ mDst f = 4095 then
      let r := if deliversMany s i f then enqueueCopies (noticeSee s1 f bad) x (facing i :: manyPorts s f) bad
        else enqueueCopies s1 x [facing i] bad
      see r.2 r.1
    else
      let r := enqueue s1 x (facing i) bad
      see r.2 r.1.fate

/-- MESSAGE_FRAME_RECEIVE (R187): link-local frames are the Welt's own commands. In BYPASS a hub whose hub domain is in
reset answers the frames addressed to it as in EXPRESS (DESIGN CHOICE, log entry 119: R53 does not say). -/
def execMessageFrameReceive (dt p : Nat) (f : List Byte) (errTerm : Bool) (s : State) : Out := .next <|
  let s := advance s dt
  if 4 ≤ p ∨ !isUp s p ∨ (s.rst.busy ∧ s.rst.full) ∨ mType f = tLink then s
  else
    let bad := errTerm || !fcsOk f
    if s.rst.busy then express s p f bad
    else
      let t := if bad then countBad s errTerm else s
      if flag s WELT_CTRL_BYPASS_REQ then express t p f bad else normal t p f bad

/-- FRAME_INSERT (R186): 20 header bytes and the payload, from local port code 3 LP or 4 CORE. -/
def execFrameInsert (sport : Nat) (h payload : List Byte) (s : State) : Out := .next <| whenAlive s fun s =>
  if sport = 3 ∨ sport = 4 then insertLocal s sport h payload else s

/-! ## Fault notices (R190 to R192) -/

/-- FAULT_NOTICE (R191): its 12-byte payload. -/
def execFaultNotice (x : List Byte) (s : State) : Out := .next <| whenAlive s fun s =>
  noticeTake s x

/-- BROKEN_LINK_TIMEOUT (R191): entry n has had no WRAP or REFRESH for 350 ms. -/
def execBrokenLinkTimeout (n : Nat) (s : State) : Out := .next <| whenAlive s fun s =>
  if n < 32 ∧ flag s (XB_FLT_VALID n) ∧ (s.link n).seen.isSome then routeAll (linkDrop s n) else s

/-! ## The crossbar and its egress ports (R194, R196, R197, R203) -/

/-- CELL_TIME (R194): 12.8 ns. -/
def execCellTime (s : State) : Out := .next (whenAlive (advance s 8) cellTime)

/-- A wire starts its next frame: one of the ring domain that waits, then one of the switch core (log entry 119). -/
def wireStart (s : State) (w : Nat) : State :=
  match (if w < 4 then ringNext s w else none) with
  | some t => t
  | none => whenAlive s fun s => egressStart s w

/-- EGRESS_FRAME_START (R196): the frame before on the wire has ended. -/
def execEgressFrameStart (w : Nat) (s : State) : Out := .next <|
  if 8 ≤ w ∨ (s.rst.busy ∧ s.rst.full) then s else wireStart (advanceTo s (sendingTo s w)) w

/-- FREE_WINDOW_START (R76, R197): the window opens, and no frame from before it is still leaving. -/
def execFreeWindowStart (p : Nat) (s : State) : Out := .next <|
  if 4 ≤ p ∨ (s.rst.busy ∧ s.rst.full) then s
  else wireStart (lapSync (advanceTo s (max (freeFrom s p) (sendingTo s p)))) p

/-- SHAPER_TOKENS (R196). -/
def execShaperTokens (dt w : Nat) (s : State) : Out := .next <|
  let s := advance s dt
  whenAlive s fun s => if w < 8 then egressStart s w else s

/-- OVERLOAD_INTERVAL (R203). -/
def execOverloadInterval (s : State) : Out := .next <| whenAlive s fun s =>
  let d := s.xb.drops
  let t := { s with xb := { s.xb with drops := 0 } }
  let put (w c : Nat) : State := { t with xb := { t.xb with watch := w, calm := c } }
  if flag s XB_STATUS_OVERLOAD then
    if d < rd s XB_OVL_CFG_CLR_THR then
      if s.xb.calm + 1 = 30 then wr (put 0 0) XB_STATUS_OVERLOAD 0 else put 0 (s.xb.calm + 1)
    else put 0 0
  else if rd s XB_OVL_CFG_SET_THR ≤ d then
    if s.xb.watch + 1 = 30 then
      let u := wrs (put 0 0) [(XB_STATUS_OVERLOAD, 1), (XB_EVT_OVERLOAD, 1)]
      raise u 56 (freePool u)
    else put (s.xb.watch + 1) 0
  else put 0 0

/-! ## The spurs (R205 to R208) -/

/-- ns that a pause time of t quanta of 512 bits lasts at a spur's rate (IEEE 802.3 Annex 31B, R206). -/
def pauseNs (s : State) (sp t : Nat) : Nat := t * 512000 / max 1 (lineRate s (4 + sp))

/-- A spur's transmission is held until the stated pause time is over, or goes on (R206). -/
def pauseRx (s : State) (sp t : Nat) : State :=
  if flag s (SPR_CTRL_PAUSE_RX sp) then
    let u := wrB s (SPR_STAT_PAUSED sp) (t != 0)
    { u with xb := { u.xb with pauseEnd := tput (fun _ => 0) u.xb.pauseEnd sp (if t = 0 then 0 else ftNs s + pauseNs s sp t) } }
  else s

/-- A native frame from a spur is inserted (R208). -/
def nativeIn (s : State) (sp : Nat) (f : List Byte) : State :=
  let h := slice f 14 20
  if !([tReq, tBwr, tEvent, tUser].contains (mType h)) ∨ 2016 < mLen h then incSat s (SPR_CNT_ERR_DROP sp)
  else insertLocal s (1 + sp) h (slice f 34 (mLen h))

/-- VID and PCP of an Ethernet frame; 0 where untagged. -/
def vidOf (f : List Byte) : Nat := if tagged f then beNat (slice f 14 2) % 4096 else 0
def pcpOf (f : List Byte) : Nat := if tagged f then beNat (slice f 14 2) / 8192 else 0

/-- The first tunnel entry that matches (R207). -/
def tunnelEntry (s : State) (sp : Nat) (f : List Byte) : Option Nat :=
  (List.range 256).find? fun n =>
    flag s (SPR_TUN1_EN n) && rdBit s (SPR_TUN1_SPURS n) sp &&
    rd s (SPR_TUN1_MAC_HI n) * 2 ^ 32 + rd s (SPR_TUN0_MAC_LO n) == beNat (f.take 6) &&
    (flag s (SPR_TUN1_VLAN_ANY n) || rd s (SPR_TUN1_VLAN n) == vidOf f)

/-- The result for an Ethernet frame: DST, DPORT, whether DST is a group (R207). -/
def tunnelResult (s : State) (sp : Nat) (f : List Byte) : Option (Nat × Nat × Bool) :=
  match tunnelEntry s sp f with
  | some n =>
    if flag s (SPR_TUN2_GRP n) then some (rd s (SPR_TUN2_GROUP n), 0, true)
    else some (rd s (SPR_TUN2_HUB n), rd s (SPR_TUN2_DPORT n), false)
  | none => match rd s (SPR_DEFAULT_ACT sp) with
    | 1 => some (rd s (SPR_DEFAULT_HUB sp), rd s (SPR_DEFAULT_DPORT sp), false)
    | 2 => some (rd s (SPR_DEFAULT_GROUP sp), 0, true)
    | _ => none

/-- An Ethernet frame without its FCS is sent as ETH_TUNNEL (R135, R207). -/
def tunnelIn (s : State) (sp : Nat) (x : List Byte) (bad : Bool) : State :=
  match tunnelResult s sp x with
  | none => incSat s (SPR_CNT_ERR_DROP sp)
  | some (dst, dport, grp) =>
    let tcOn := flag s (SPR_CTRL_TC_EN sp)
    let y := if tcOn then ptpAdd x (-(ftNs s * 65536 : Nat)) else x
    let s1 := if tcOn then ptpCount s x else s
    let dp := if !grp ∧ dst = rd s SYS_HUB_ID_ID then 2 - sp else dport
    let tc := rd s (SPR_PCP_MAP_MAP sp) / 4 ^ pcpOf x % 4
    let h := [BitVec.ofNat 8 tEth, BitVec.ofNat 8 (tc * 32 + natOf grp * 16)] ++ beBytes 2 y.length ++ beBytes 2 dst ++
      beBytes 4 0 ++ beBytes 1 (dp * 16) ++ List.replicate 9 0
    (insertFrame s1 (1 + sp) h y (ftNs s) bad).2

/-- SPUR_FRAME_RECEIVE (R205 to R208): an Ethernet frame with its FCS. -/
def execSpurFrameReceive (dt sp : Nat) (f : List Byte) (s : State) : Out := .next <|
  let s := advance s dt
  whenAlive s fun s =>
    if 2 ≤ sp ∨ !flag s (SPR_STAT_LINK sp) ∨ f.length < 64 then s
    else if 2020 < f.length then incSat s (SPR_CNT_ERR_DROP sp)
    else
      let x := f.take (f.length - 4)
      let bad := beNat (f.drop (f.length - 4)) != fcs32 x
      if bad then
        let t := incSat s (SPR_CNT_ERR_FCS sp)
        if ethType x = 0x8808 ∨ (ethType x = 0x88B6 ∧ flag s (SPR_CTRL_NATIVE_EN sp)) then t else tunnelIn t sp x true
      else
        let t := incWrap s (SPR_CNT_RX_COUNT sp)
        if ethType x = 0x8808 then (if beNat (slice x 14 2) = 1 then pauseRx t sp (beNat (slice x 16 2)) else t)
        else if ethType x = 0x88B6 ∧ flag s (SPR_CTRL_NATIVE_EN sp) then nativeIn t sp x
        else tunnelIn t sp x false

/-- PAUSE_RECEIVED (R206): a PAUSE frame with pause time t. -/
def execPauseReceived (sp t : Nat) (s : State) : Out := .next <| whenAlive s fun s =>
  if sp < 2 then pauseRx s sp t else s

/-- PAUSE_EXPIRY (R206): the pause time is over. -/
def execPauseExpiry (sp : Nat) (s : State) : Out := .next <| whenAlive s fun s =>
  if sp < 2 ∧ flag s (SPR_STAT_PAUSED sp) then
    wr (advanceTo s (tget (fun _ => 0) s.xb.pauseEnd sp)) (SPR_STAT_PAUSED sp) 0
  else s

/-- PAUSE_REPEAT (R206): half a pause time after the last PAUSE sent. -/
def execPauseRepeat (sp : Nat) (s : State) : Out := .next <| whenAlive s fun s =>
  if sp < 2 ∧ flag s (SPR_STAT_XOFF sp) then
    let t := advanceTo s (tget (fun _ => 0) s.xb.pauseSent sp + pauseNs s sp 0xFFFF / 2)
    if rd t (SPR_PAUSE_XON sp) < heldFrom t sp then pauseSend t sp else t
  else s

/-- GO of SPR_MDIO starts a Clause 22 transfer (R205). -/
def mdioGo (s : State) : State := (wr s SPR_MDIO_GO 1).emit (.serial 1 0 (rdW s SPR_MDIO_DATA.addr))

/-- MDIO_GO (R205): a write of SPR_MDIO with GO. -/
def execMdioGo (op phy reg data : Nat) (s : State) : Out := .next <| whenAlive s fun s =>
  mdioGo (wrs s [(SPR_MDIO_OP, op), (SPR_MDIO_PHY, phy), (SPR_MDIO_REG, reg), (SPR_MDIO_DATA, data)])

/-- MDIO_DONE (R205): the word the PHY returned. -/
def execMdioDone (data : Nat) (s : State) : Out := .next <| whenAlive s fun s =>
  if flag s SPR_MDIO_GO then
    let t := wr s SPR_MDIO_GO 0
    if rd s SPR_MDIO_OP = 2 then wr t SPR_MDIO_DATA data else t
  else s

end Sys2Proof.Machine
end

