-- ==== Sys2Proof/Machine/Bus.lean ====
section
/-! DEFINITION. Reads and writes of the local address space by an initiator: what a read returns and does, and what a
write does field by field (R5 to R9, R14, R106, R115, R131, R160, R250, R386 to R393). Every function here works on one
aligned 32-bit word and answers a status of R314. -/

namespace Sys2Proof.Machine

/-! ## Initiators -/

/-- The initiators whose latches are kept apart: core pair 0, core pair 1, the management target, which serves the Local
Port too (R391). -/
def iniClass (ini : Nat) : Nat := min ini iniMgmt

/-- The key of an initiator's latch at a local address. -/
def latchKey (ini a : Nat) : Nat := 2 ^ 32 * iniClass ini + a

/-- What a command does on the bus: the state after it, and the status it answers to the management target. -/
def ran (s : State) (o : Out) : State × Nat :=
  match o with
  | .next t =>
    let n := t.out.length - s.out.length
    let new := t.out.take n
    let st := new.findSome? fun x => match x with
      | .busRsp 2 c _ => some c
      | _ => none
    let keep := new.filter fun x => match x with
      | .busRsp 2 _ _ => false
      | _ => true
    ({ t with out := keep ++ t.out.drop n }, st.getD scOk)
  | _ => (s, scOk)

/-- A command run where a bit of a write asks for it; the first status that is not OK stands. -/
def also (x : State × Nat) (go : Bool) (f : State → Out) : State × Nat :=
  if go then
    let y := ran x.1 (f x.1)
    (y.1, if x.2 = scOk then y.2 else x.2)
  else x

/-! ## Fields under a write (R6, R7, R392) -/

/-- The value of a cell after a write of the bits under a mask: RWL fields stay where they are locked. -/
def fieldsWritten (old v mask : Nat) (locked : Bool) (l : List FldSpec) : Nat :=
  l.foldl (fun c f =>
    let o := bits c f.lo f.w
    let m := bits mask f.lo f.w
    let x := bits v f.lo f.w &&& m
    match f.acc with
    | .rw => setBits c f.lo f.w ((o &&& ((2 ^ f.w - 1) ^^^ m)) ||| x)
    | .rwl => if locked then c else setBits c f.lo f.w ((o &&& ((2 ^ f.w - 1) ^^^ m)) ||| x)
    | .w1c => setBits c f.lo f.w (o &&& ((2 ^ f.w - 1) ^^^ x))
    | .w1s => setBits c f.lo f.w (o ||| x)
    | _ => c) old

/-- The write would change some RWL field (R392). -/
def locksHit (old v mask : Nat) (l : List FldSpec) : Bool :=
  l.any fun f => f.acc == .rwl && (bits old f.lo f.w &&& bits mask f.lo f.w) != (bits v f.lo f.w &&& bits mask f.lo f.w)

/-- RWL fields of a domain are locked: from ST14, and those of the ring domain after a hub-domain reset too (R7, R393). -/
def lockedDom (s : State) (d : Dom) : Bool :=
  decide (14 ≤ rd s SYS_STEP_STEP) || (d == .ring && !s.rst.fromFull)

/-- A write by the types of the fields. -/
def regWrite (s : State) (r : RegSpec) (cell v mask : Nat) : State × Nat :=
  let old := (cellAt s cell).toNat
  let l := lockedDom s r.dom
  (setCell s cell (BitVec.ofNat 64 (fieldsWritten old v mask l r.flds)),
   if l && locksHit old v mask r.flds then scLocked else scOk)

/-! ## Registers whose writes act (by block) -/

/-- A field of the word written, under the mask. -/
def wfld (v mask : Nat) (f : Fld) : Nat := bits (v &&& mask) f.lo f.w
def wbit (v mask : Nat) (f : Fld) : Bool := wfld v mask f != 0

/-- Word k of the command block of Resole. -/
def cmdWord (s : State) (k : Nat) : Nat := rd s (RSL_CMDBLK_W k)

/-- A field marked — of the command block is not 0, by the operation (R373). -/
def cmdBadField (s : State) (op : Nat) : Bool :=
  let z := fun k => cmdWord s k != 0
  if op = 1 then z 3
  else if op = 3 then z 1 || z 2 || z 3
  else if op = 4 then z 3
  else if op = 5 ∨ op = 6 then cmdWord s 0 % 2 ^ 24 != 0 || z 1 || z 2 || z 3
  else if op = 7 then z 1 || z 2 || z 3
  else op != 2

/-- The kinds that a command of the block names. -/
def cmdKinds (s : State) (op : Nat) : List Nat :=
  let k := bits (cmdWord s 0) 16 8
  if op = 4 ∨ op = 5 ∨ op = 6 then kindsOf (bits (cmdWord s 7) 8 3)
  else if op = 7 then [kLast]
  else if kindOk k then [k] else []

/-- The command of the block runs when word 7 is written (R373, R374). What the flash does in a BLOCK is a free value. -/
def cmdRun (s : State) : Out :=
  let op := bits (cmdWord s 7) 0 4
  let km := bits (cmdWord s 7) 8 3
  let ses := bits (cmdWord s 0) 0 16
  let kind := bits (cmdWord s 0) 16 8
  let w1 := cmdWord s 1
  let w2 := cmdWord s 2
  if cmdBadField s op then .next (rslEnd s (cmdKinds s op) reBadField)
  else if op = 1 then execRslOpen ses kind w1 (bits w2 0 16) s
  else if op = 2 then execRslBlock ses kind w1 w2 (cmdWord s 3) (freeOf s 1 == 1) s.used
  else if op = 3 then execRslSeal ses kind s
  else if op = 4 then execRslActivate ses km w1 (bits w2 0 8) (bits w2 8 10) (bitOf w2 31) s
  else if op = 5 then execRslConfirm km s
  else if op = 6 then execRslAbort km s
  else execSchedLoad ses s

/-- SYS, RSL and NVM (R361, R366, R368, R373, R395). -/
def writeSys (s : State) (ini : Nat) (r : RegSpec) (a v mask : Nat) : Option (State × Nat) :=
  if a = SYS_SHUT_GO.addr then
    some (also (regWrite s r a v mask) (wbit v mask SYS_SHUT_GO) (execShutdown ini (wbit v mask SYS_SHUT_END)))
  else if a = SYS_LC_CMD_CMD.addr then
    let c := wfld v mask SYS_LC_CMD_CMD
    some (also (also (also (s, scOk) (c == 1) (execLcField ini)) (c == 2) (execLcReturn ini)) (c == 3) (execNewNonce ini))
  else if (SYS_TOKEN_W 0).addr ≤ a ∧ a < (SYS_TOKEN_W 32).addr then some (wrW s a (rmwWord (rdW s a) mask v), scOk)
  else if (RSL_CMDBLK_W 0).addr ≤ a ∧ a < (RSL_CMDBLK_W 8).addr then
    some (also (wrW s a (rmwWord (rdW s a) mask v), scOk) (a == (RSL_CMDBLK_W 7).addr) cmdRun)
  else if a = NVM_CMD_OP.addr then
    let c := wfld v mask NVM_CMD_OP
    some (also (also (s, scOk) (c == 1) (execNvmProgram ini)) (c == 2) (execNvmErase ini))
  else none

/-- WELT and TRN (R34 to R36, R69, R83, R85). -/
def writeRing (s : State) (r : RegSpec) (a v mask : Nat) : Option (State × Nat) :=
  let g := regWrite s r a v mask
  let p := (a - 0x4001_0100) / 0x100
  if (WELT_PORT_CTRL_ENABLE 0).addr ≤ a ∧ a < (WELT_PORT_CTRL_ENABLE 4).addr ∧ a % 0x100 = 0 then
    some (portCtrl g.1 p, g.2)
  else if (WELT_SFP_MGMT_GO 0).addr ≤ a ∧ a < (WELT_SFP_MGMT_GO 4).addr ∧ a % 0x100 = 0x20 then
    some (if wbit v mask (WELT_SFP_MGMT_GO p) then (sfpGo g.1 p, g.2) else g)
  else if a = TRN_SW_LAP_LAP.addr then
    some (ran s (execSwLapWrite (bits (rmwWord (rdW s a) mask v) 0 24) (wbit v mask TRN_SW_LAP_ARM) s))
  else if a = TRN_ROLE_CMD_GO.addr then
    let t := regWrite s r a v (mask % 2 ^ 31)
    some (if wbit v mask TRN_ROLE_CMD_GO then (roleGo t.1, t.2) else t)
  else if a = TRN_LAYOUT_DATA_DATA.addr then some (layoutWrite s (rmwWord (layoutRead s).1 mask v), scOk)
  else none

/-- A write of a trigger unit: of its owner alone, which is firmware where OWNER is 0 (R128, R129, R131). -/
def writeTrigger (s : State) (ini : Nat) (r : RegSpec) (a v mask : Nat) : State × Nat :=
  let n := (a - 0x4004_0400) / 16
  if iniMgmt ≤ ini then (s, scDenied)
  else if rd s (BELL_TRG_CTRL_OWNER n) ≠ 0 then (s, scOk)
  else if a % 16 = 0 then
    also (regWrite s r a v (mask / 2 * 2)) (wbit v mask (BELL_TRG_CTRL_DISARM n)) (execTriggerDisarm 0 n)
  else if a % 16 = 4 then ran s (execTriggerArm 0 n (rmw64 (cellAt s a).toNat mask v % 2 ^ 40) s)
  else regWrite s r a v mask
where
  /-- The bits under a mask of 64 replaced. -/
  rmw64 (old mask data : Nat) : Nat := (old &&& ((2 ^ 64 - 1) ^^^ mask)) ||| (data &&& mask)

/-- BELL (R118, R123, R131 to R133). -/
def writeBell (s : State) (ini : Nat) (r : RegSpec) (a v mask : Nat) : Option (State × Nat) :=
  if a = BELL_EXT_OFS_OFS.addr then some (ran s (execBellExtOfs (signed 32 (v &&& mask)) s))
  else if a = BELL_STEP_NS.addr then some (ran s (execBellStep (signed 64 (v &&& mask)) s))
  else if a = BELL_PPSIN_SEC_SEC.addr then
    let g := regWrite s r a v mask
    some (if ini < iniMgmt then { g.1 with bell := { g.1.bell with secSet := true } } else g.1, g.2)
  else if a = BELL_PPS_CTRL_EN.addr then
    let g := regWrite s r a v mask
    some (if ppsOk g.1 then g.1 else { g.1 with ppsOut := false }, g.2)
  else if (BELL_TRG_CTRL_OWNER 0).addr ≤ a ∧ a < (BELL_TRG_CTRL_OWNER 32).addr then some (writeTrigger s ini r a v mask)
  else none

/-- The Treadle's storage: scratch words from MBX_BASE upwards alone (R160). -/
def isTrdStore (a : Nat) : Bool := decide (0x4005_4000 ≤ a) && decide (a < 0x4005_C880)

/-- TRD, DRV, SPR and TAP (R160, R166, R178, R205, R209). -/
def writePlane (s : State) (ini : Nat) (r : RegSpec) (a v mask : Nat) : Option (State × Nat) :=
  if isTrdStore a then
    some (if a < 0x4005_8000 ∧ rd s TRD_CTRL_MBX_BASE ≤ (a - 0x4005_4000) / 4 then regWrite s r a v mask else (s, scDenied))
  else if isRecord a then some (s, scDenied)
  else if a = DRV_DEST_CMD_OBJ_ID.addr then
    some (ran s (execDestCmd ini (wfld v mask DRV_DEST_CMD_OBJ_ID) (wfld v mask DRV_DEST_CMD_DEST) (wbit v mask DRV_DEST_CMD_KEEP) s))
  else if a = SPR_MDIO_GO.addr then
    let g := regWrite s r a v mask
    some (if wbit v mask SPR_MDIO_GO then (mdioGo g.1, g.2) else g)
  else if a = TAP_RPTR_ENTRY.addr then
    let g := regWrite s r a v mask
    some ({ g.1 with xb := { g.1.xb with full := false } }, g.2)
  else none

/-- A channel (R221, R228, R236, R237). -/
def writeChn (s : State) (ini : Nat) (a v mask : Nat) : Option (State × Nat) :=
  let n := (a - 0x400A_0000) / 0x400
  if a = CHN_PM_DATA_DATA.addr then
    some (ran s (execPmDataAccess ini (some (rmwWord (pm s (rd s CHN_PM_ADDR_WORD)) mask v)) s))
  else if a < 0x400A_C000 ∧ a % 0x400 = 0x20 then
    let b := fun f => wbit v mask (f n)
    let x := also (s, scOk) (b CHN_CMD_DISABLE) (execChnDisable n)
    let y := also x (b CHN_CMD_ENABLE && !b CHN_CMD_DISABLE) (execChnEnable n)
    let z := also (also y (b CHN_CMD_POP_RX) (execChnPopRx ini n)) (b CHN_CMD_FLUSH_TX) (execChnFlushTx n)
    some (also z (b CHN_CMD_FLUSH_RX) (execChnFlushRx n))
  else if a < 0x400A_C000 ∧ a % 0x400 = 0x40 then some (ran s (execChnTxpush ini n (wfld v mask (CHN_TXPUSH_LEN n)) s))
  else none

/-- The buffer of a controller that a local address belongs to: its header and format, or its data (R248). -/
def txbContent (o : Nat) : Option Nat :=
  if 0x80 ≤ o ∧ o < 0xB0 ∧ (o % 16 = 4 ∨ o % 16 = 8) then some ((o - 0x80) / 16)
  else if 0x100 ≤ o ∧ o < 0x1C0 then some ((o - 0x100) / 64)
  else none

/-- The content of a buffer is not to be written: the buffer is pending, or the schedule engine's (R250). -/
def txbShut (s : State) (k b : Nat) : Bool :=
  flag s (CAN_TXB_CTRL_PEND k b) || (flag s (CAN_CTRL_SCHED_EN k) && sbufOf s k == b)

/-- A CAN controller (R244, R248 to R250, R252). -/
def writeCan (s : State) (ini : Nat) (r : RegSpec) (a v mask : Nat) : Option (State × Nat) :=
  let k := (a - 0x400B_0000) / 0x400
  let o := a % 0x400
  if 0x400B_4000 ≤ a then none
  else if o = 0x14 then
    let b := fun f => wbit v mask (f k)
    let x := also (s, scOk) (b CAN_CMD_DISABLE) (execCanDisable k)
    let y := also x (b CAN_CMD_ENABLE && !b CAN_CMD_DISABLE) (execCanEnable k)
    let z := also (also y (b CAN_CMD_RECOVER) (execCanRecover k)) (b CAN_CMD_POP_RX) (execCanPopRx ini k)
    some (also z (b CAN_CMD_FLUSH_RX) (execCanFlushRx k))
  else if 0x80 ≤ o ∧ o < 0xB0 ∧ o % 16 = 0 then
    let b := (o - 0x80) / 16
    let g := regWrite s r a v (mask / 4 * 4)
    let x := also g (wbit v mask (CAN_TXB_CTRL_REQ k b)) (execTxbReq k b (s.can k).busy)
    some (also x (wbit v mask (CAN_TXB_CTRL_CANCEL k b)) (execTxbCancel k b))
  else match txbContent o with
    | none => none
    | some b => if txbShut s k b then some (incSat s (CAN_CNT_C_TXB_REJ k), scDenied) else none

/-- DIO, BRN and ASY (R272, R274, R282, R283, R300 to R308). -/
def writeEdge (s : State) (ini : Nat) (r : RegSpec) (a v mask : Nat) : Option (State × Nat) :=
  let n := (a - 0x400E_0000) / 0x200
  let d := (a - (DIO_QD_CFG_QA 0).addr) / 16
  if (DIO_QD_CFG_QA 0).addr ≤ a ∧ a < (DIO_QD_CFG_QA 12).addr ∧ a % 16 = 0 then
    let g := regWrite s r a v mask
    some (if lockedDom s r.dom ∨ wfld mask mask (DIO_QD_CFG_IDX d) = 0 then g
      else (g.1.setQuad d { g.1.quad d with idxDone := false }, g.2))
  else if a = DIO_CMD_LINE.addr then
    let l := wfld v mask DIO_CMD_LINE
    some (also (also (s, scOk) (wbit v mask DIO_CMD_RB_CLR) (execRbClr l)) (wbit v mask DIO_CMD_Q_FLUSH) (execQFlush l))
  else if (BRN_CMD_ON 0).addr ≤ a ∧ a < (BRN_CMD_ON 16).addr ∧ a % 0x200 = 0x20 then
    let on := wbit v mask (BRN_CMD_ON n)
    let off := wbit v mask (BRN_CMD_OFF n)
    let x := also (s, if (on || off) && !flag s (BRN_CFG_ESRC n) then scDenied else scOk) off (execBrnOff n)
    some (also (also x (on && !off) (execBrnOn n)) (wbit v mask (BRN_CMD_CLEAR n)) (execBrnClear n))
  else if a = ASY_CMD_UNIT.addr then
    let x := if wbit v mask ASY_CMD_RETEST then ran s (execAsyRetest (wfld v mask ASY_CMD_UNIT) (freeOf s 1 == 1) s.used)
      else (s, scOk)
    some (also x (wbit v mask ASY_CMD_START) (execAsyStart ini (wfld v mask ASY_CMD_CTX)))
  else if a = ASY_FEED_B_DATA.addr then some (ran s (execAsyFeedB ini (v &&& mask) s))
  else if a = ASY_FEED_H_DATA.addr then some (ran s (execAsyFeedH ini (v &&& mask) s))
  else if a = ASY_FEED_W_DATA.addr then some (ran s (execAsyFeedW ini (v &&& mask) s))
  else if (ASY_CTX_VAL_VAL 0).addr ≤ a ∧ a < (ASY_CTX_VAL_VAL 64).addr ∧ a % 64 = 0x20 then
    let old := (cellAt s a).toNat
    some (ran s (execAsyValWrite ini ((a - 0x400F_1000) / 64) ((old &&& ((2 ^ 64 - 1) ^^^ mask)) ||| (v &&& mask)) s))
  else none

/-- Prefetch buffers are discarded, and unread words logged (R319). -/
def prefetchDrop (s : State) (ini : Nat) : State :=
  match tget (fun _ => none) s.fry.prefetch ini with
  | none => s
  | some p =>
    let t := { s with fry := { s.fry with prefetch := tput (fun _ => none) s.fry.prefetch ini none } }
    let unread := maskOf 16 fun k => p.words.any (·.1 == k) && !bitOf p.used k
    if unread = 0 then t else wrs t [(FRY_PF_LOG_ADDR, p.addr), (FRY_PF_LOG_MASK, unread), (FRY_EVT_PF_DISC, 1)]

/-- Every prefetch buffer of a window, and every fill of one under way, is discarded. -/
def prefetchDropWin (s : State) (w : Nat) : State :=
  let t := each ([0, 1, 3].filter fun i => match tget (fun _ => none) s.fry.prefetch i with
    | some p => p.win == w
    | none => false) prefetchDrop s
  { t with fry := { t.fry with txns := t.fry.txns.map fun x => if x.pf && x.win == w then { x with dropped := true } else x } }

/-- TNK and FRY (R319, R328, R334, R337, R340, R341, R343): the severity of a reserved source is not written. -/
def writeMgmt (s : State) (r : RegSpec) (a v mask : Nat) : Option (State × Nat) :=
  if a = TNK_CMD_RESUME.addr then
    let x := also (s, scOk) (wbit v mask TNK_CMD_RESUME) execResume
    some (also (also x (wbit v mask TNK_CMD_FF_REARM) (execFfRearm [])) (wbit v mask TNK_CMD_FLT_RELEASE) (execFltRelease []))
  else if (TNK_STAT_STAT 0).addr ≤ a ∧ a < (TNK_STAT_STAT 4).addr then
    some (ran s (execTnkStatClear ((a - (TNK_STAT_STAT 0).addr) / 4) (v &&& mask) [] s))
  else if (TNK_ACK_ACK 0).addr ≤ a ∧ a < (TNK_ACK_ACK 4).addr then
    some (ran s (execTnkAckWrite ((a - (TNK_ACK_ACK 0).addr) / 4) (v &&& mask) [] s))
  else if (TNK_SEV_SEV 0).addr ≤ a ∧ a < (TNK_SEV_SEV 128).addr ∧ (sourceRow ((a - (TNK_SEV_SEV 0).addr) / 4)).isNone then
    some (s, scOk)
  else if (FRY_OUT0_EN 0).addr ≤ a ∧ a < (FRY_OUT0_EN 16).addr then
    let g := regWrite s r a v mask
    some (if cellAt g.1 a = cellAt s a then g else (prefetchDropWin g.1 ((a - (FRY_OUT0_EN 0).addr) / 16), g.2))
  else none

/-- The write of a register whose rule is not that of its fields alone. -/
def writeActs (s : State) (ini : Nat) (r : RegSpec) (a v mask : Nat) : Option (State × Nat) :=
  let i := iniClass ini
  let b := a / 0x1_0000
  if b = 0x4000 ∨ b = 0x4013 ∨ b = 0x4014 then writeSys s i r a v mask
  else if b = 0x4001 ∨ b = 0x4002 then writeRing s r a v mask
  else if b = 0x4004 then writeBell s i r a v mask
  else if b = 0x4005 ∨ b = 0x4006 ∨ b = 0x4008 ∨ b = 0x4009 then writePlane s i r a v mask
  else if b = 0x400A then writeChn s i a v mask
  else if b = 0x400B then writeCan s i r a v mask
  else if b = 0x400C ∨ b = 0x400E ∨ b = 0x400F then writeEdge s i r a v mask
  else if b = 0x4010 ∨ b = 0x4011 then writeMgmt s r a v mask
  else none

/-- A write takes effect on a whole register. -/
def writeReg (s : State) (ini : Nat) (r : RegSpec) (a v mask : Nat) : State × Nat :=
  (writeActs s ini r a v mask).getD (regWrite s r a v mask)

/-! ## 64-bit registers (R5, R391) -/

/-- The low word of a 64-bit register is staged. -/
def stageLow (s : State) (ini a v : Nat) : State :=
  { s with wide := { s.wide with staged := tins (tdel s.wide.staged (latchKey ini a)) (latchKey ini a) (BitVec.ofNat 32 v) } }

/-- The low word staged by an initiator. -/
def stagedLow (s : State) (ini a : Nat) : Option Nat :=
  (s.wide.staged.find? fun x => x.1 == latchKey ini a).map (·.2.toNat)

/-- The high word of a 64-bit register is written: the register takes both words (R5). -/
def writeHigh (s : State) (ini : Nat) (r : RegSpec) (cell v mask : Nat) : State × Nat :=
  let lo := stagedLow s ini cell
  let t := { s with wide := { s.wide with staged := tdel s.wide.staged (latchKey ini cell) } }
  writeReg t ini r cell (v * 2 ^ 32 + lo.getD (cellWord s cell 0)) (mask * 2 ^ 32 + if lo.isSome then 0xFFFF_FFFF else 0)

/-- The target of a trigger unit (R131). -/
def trgCell (a : Nat) : Bool := decide ((BELL_TRG_CTRL_OWNER 0).addr ≤ a) && decide (a < (BELL_TRG_CTRL_OWNER 32).addr)

/-- A word of a register is written. -/
def writeWord (s : State) (ini : Nat) (r : RegSpec) (cell half v mask : Nat) : State × Nat :=
  if !r.wide ∨ isRecord cell then writeReg s ini r cell v mask
  else if half = 0 ∧ trgCell cell ∧ (iniMgmt ≤ ini ∨ rd s (BELL_TRG_CTRL_OWNER ((cell - 0x4004_0400) / 16)) ≠ 0) then
    (s, if iniMgmt ≤ ini then scDenied else scOk)
  else if half = 0 then (stageLow s ini cell (rmwWord ((stagedLow s ini cell).getD (cellWord s cell 0)) mask v), scOk)
  else writeHigh s ini r cell v mask

/-! ## Memories (R93 to R95, R104, R106, R386, R389) -/

/-- The memory code and the word of a local address, where an uncorrectable error is kept for it (R369). -/
def badKey (a : Nat) : Option Nat :=
  if 0x5000_0000 ≤ a ∧ a < 0x500E_0000 then some ((a - 0x5000_0000) / 4)
  else if 0x5010_0000 ≤ a ∧ a < 0x5012_0000 then some (2 * 2 ^ 28 + (a - 0x5010_0000) / 4)
  else if 0x5020_0000 ≤ a ∧ a < 0x5024_0000 then some (2 ^ 28 + (a - 0x5020_0000) / 4)
  else if 0x5040_0000 ≤ a ∧ a < 0x5042_0000 then some (3 * 2 ^ 28 + (a - 0x5040_0000) / 4)
  else none

/-- A word that reads with an uncorrectable error: of a payload, until the next accepted copy (R111, R314). -/
def badWord (s : State) (a : Nat) : Bool :=
  match badKey a with
  | none => false
  | some k => s.bad.contains k && !(decide (k < 0x3_8000) && bitOf (stWord s (k / 16)) 11)

/-- The word of the address holds a value in the memories: payloads, status words, descriptors, publish buffers, the
bitmap, the slot map, rule memory, the Tap ring. -/
def memThere (a : Nat) : Bool :=
  (decide (0x5000_0000 ≤ a) && decide (a < 0x500E_E800)) || (decide (0x500F_0000 ≤ a) && decide (a < 0x500F_8000)) ||
  (decide (0x5010_0000 ≤ a) && decide (a < 0x5012_0000)) || (decide (0x5020_0000 ≤ a) && decide (a < 0x5024_0000)) ||
  (decide (0x5040_0000 ≤ a) && decide (a < 0x5042_0000)) || (decide (0x5060_0000 ≤ a) && decide (a < 0x5068_0000))

/-- The back-buffer alias. -/
def isAlias (a : Nat) : Bool := decide (0x500F_8000 ≤ a) && decide (a < 0x500F_C000)

/-- The NOR read window. -/
def isNor (a : Nat) : Bool := decide (norBase ≤ a) && decide (a < norBase + norSize)

/-- The register blocks. -/
def isReg (a : Nat) : Bool := decide (0x4000_0000 ≤ a) && decide (a < 0x4016_0000)

/-- The outbound windows (R386). -/
def isOutbound (a : Nat) : Bool := decide (0x6000_0000 ≤ a) && decide (a < 0x7000_0000)

/-- A word of a memory that the Last loads is written: until ST14 (R7, R94, R95, R104). -/
def tableWrite (s : State) (a m v mask : Nat) : State × Nat :=
  let mm := mask &&& m
  let old := memWord s a
  if lockedDom s .hub then (s, if old &&& mm = v &&& mm then scOk else scLocked)
  else
    let t := memPutWord s a (rmwWord old mm v)
    (match badKey a with
      | some k => { t with bad := t.bad.filter (· != k) }
      | none => t, scOk)

/-- A word of the back-buffer alias is written: the bytes under the mask (R106, R387). -/
def aliasPut (s : State) (ini a v mask : Nat) : State × Nat :=
  let i := (a - 0x500F_8000) / 64
  let ks := (List.range 4).filter fun k => bits mask (8 * k) 8 != 0
  let w := rmwWord (memWord s (backBuf s i + a % 64)) mask v
  let off := ks.headD 0
  ran s (execAliasWrite (if iniClass ini = iniMgmt then 2 else 1) i (a % 64 + off) (slice (leBytes 4 w) off ks.length) s)

/-! ## One word (R6, R14, R386, R388) -/

/-- A read of one field of type RC clears it (R6). -/
def clearRc (s : State) (r : RegSpec) (cell half : Nat) : State :=
  let m := accMask r half (· == .rc)
  if m = 0 then s else setCellWord s cell half m 0

/-- A word of a register is read: the low word of a 64-bit register latches the high one, and the high word of a time
stamp at the head of a FIFO removes its entry (R5, R115, R127, R261). BELL_FT_FRAC reads once what the low word of
BELL_FT latched, and 0 with nothing latched (DESIGN CHOICE, log entry 120: the spec does not say what a second read
returns). -/
def readWord (s : State) (ini a : Nat) (r : RegSpec) (cell half : Nat) : State × Nat :=
  let x := seenCell s cell
  let v := cellGet x.1 half 32 &&& (0xFFFF_FFFF ^^^ accMask r half (· == .wo))
  let t := clearRc x.2 r cell half
  if a = BELL_FT_FRAC_FRAC.addr then
    ({ t with wide := { t.wide with frac := tdel t.wide.frac (iniClass ini) } },
     ((s.wide.frac.find? fun y => y.1 == iniClass ini).map (·.2.toNat)).getD 0)
  else if !r.wide ∨ isRecord cell then (t, v)
  else if half = 0 then
    let k := latchKey ini cell
    let u := { t with wide := { t.wide with latch := tins (tdel t.wide.latch k) k (BitVec.ofNat 32 (cellGet x.1 32 32)) } }
    (if cell = BELL_FT_NS.addr then
      { u with wide := { u.wide with frac := tins (tdel u.wide.frac (iniClass ini)) (iniClass ini) (BitVec.ofNat 16 (ftFrac s)) } }
     else u, v)
  else
    let k := latchKey ini cell
    let u := { t with wide := { t.wide with latch := tdel t.wide.latch k } }
    let w := ((s.wide.latch.find? fun y => y.1 == k).map (·.2.toNat)).getD v
    if (BELL_CAP_TS_NS 0).addr ≤ cell ∧ cell < (BELL_CAP_TS_NS 32).addr ∧ cell % 16 = 8 then
      ((ran u (execCapturePop ((cell - 0x4004_0100) / 16) u)).1, w)
    else if (DIO_TS_NS 0).addr ≤ cell ∧ cell < (DIO_TS_NS 96).addr ∧ cell % 0x40 = 0x18 then
      ((ran u (execTsPop ((cell - 0x400C_0000) / 0x40) u)).1, w)
    else (u, w)

/-- An initiator reads the word at a local address: the state after it, the status, the word. -/
def busRead (s : State) (ini a : Nat) : State × Nat × Nat :=
  if a = TRN_LAYOUT_DATA_DATA.addr then ((layoutRead s).2, scOk, (layoutRead s).1)
  else if a = CHN_PM_DATA_DATA.addr then
    let k := rd s CHN_PM_ADDR_WORD
    if s.bad.contains (6 * 2 ^ 28 + k) then (pmInc s, scTargetErr, 0) else (pmInc s, scOk, pm s k)
  else if isReg a then
    match wordAt a with
    | none => (s, scOk, 0)
    | some (r, cell, half) =>
      let x := readWord s ini a r cell half
      (x.1, scOk, x.2)
  else if isAlias a then (s, scOk, memWord s (backBuf s ((a - 0x500F_8000) / 64) + a % 64))
  else if badWord s a then (s, scTargetErr, 0)
  else if memThere a ∨ isNor a then (s, scOk, memWord s a)
  else if 0x5000_0000 ≤ a ∧ a < 0x5010_0000 then (s, scOk, 0)
  else (s, scTargetErr, 0)

/-- An initiator writes the bits under a mask of the word at a local address: the state after it, and the status. -/
def busWrite (s : State) (ini a v mask : Nat) : State × Nat :=
  if isReg a then
    match wordAt a with
    | none => (s, scOk)
    | some (r, cell, half) => writeWord s ini r cell half (v % 2 ^ 32) mask
  else if isAlias a then aliasPut s ini a v mask
  else match tableMask a with
    | some m => tableWrite s a m v mask
    | none =>
      if memThere a ∨ (0x5000_0000 ≤ a ∧ a < 0x5010_0000) then (s, scOk)
      else if isNor a ∧ iniMgmt ≤ ini then (s, scDenied)
      else (s, scTargetErr)

/-- The access must wait: for the end of P4, or for the flash (R28, R160, R389). -/
def waitsP4 (s : State) (a : Nat) : Bool := isTrdStore a && phaseNow s != 0
def waitsNor (s : State) (a : Nat) : Bool := isNor a && s.sys.nvm.isSome

/-! ## Accesses of firmware (R14, R387) -/

/-- An access of a size is one that the initiator may make and the address takes (R387). -/
def sizeOk (ini size a : Nat) : Bool :=
  (size == 4 && a % 4 == 0) || decide (ini < iniMgmt) && (
  ((size == 1 || (size == 2 && a % 2 == 0)) && ((decide (0x5000_0000 ≤ a) && decide (a < 0x5068_0000)) || isNor a)))

/-- A firmware access takes effect and is answered; a bus-error exception is shown as TARGET_ERR. -/
def cpuDo (s : State) (ini size a : Nat) (data : Option Nat) : State :=
  if !sizeOk ini size a then s.emit (.busRsp ini scTargetErr 0)
  else
    let w := a / 4 * 4
    let sh := 8 * (a % 4)
    match data with
    | none =>
      let x := busRead s ini w
      x.1.emit (.busRsp ini (if x.2.1 = scTargetErr then scTargetErr else scOk) (bits x.2.2 sh (8 * size)))
    | some v =>
      let x := busWrite s ini w (v % 2 ^ (8 * size) * 2 ^ sh) ((2 ^ (8 * size) - 1) * 2 ^ sh)
      x.1.emit (.busRsp ini (if x.2 = scTargetErr then scTargetErr else if iniMgmt ≤ ini then x.2 else scOk) 0)

/-- An access waits where it must, and is carried out otherwise; in P4 the wait ends with it (R28, R160). -/
def cpuAccess (s : State) (ini size a : Nat) (data : Option Nat) : State :=
  if waitsP4 s a ∧ sizeOk ini size a then
    if rd s TRD_STATUS_PHASE = 4 then cpuDo (toCycle s (tickEnd s)) ini size a data
    else { s with trd := { s.trd with waiting := s.trd.waiting ++ [.cpu ini size a data] } }
  else if waitsNor s a ∧ data.isNone ∧ sizeOk ini size a then
    { s with sys := { s.sys with waiting := s.sys.waiting ++ [.cpu ini size a data] } }
  else cpuDo s ini size a data

/-- RC_READ (R6): an initiator reads the word at a local address. -/
def execRcRead (ini a : Nat) (s : State) : Out := .next <| whenAlive s fun s => cpuAccess s ini 4 (a % 2 ^ 32) none

/-- The word written without the 1s that meet, in the same cycle, a W1C bit which the hardware sets: the write is lost
for them, and the event is not (R8). -/
def keepEvents (a v same : Nat) : Nat :=
  match (if isReg a then wordAt a else none) with
  | none => v
  | some (r, _, half) => v &&& ((2 ^ 64 - 1) ^^^ (same &&& accMask r half (· == .w1c)))

/-- REGISTER_WRITE (R6 to R8, R387): an initiator writes 1, 2 or 4 bytes at a local address. -/
def execRegisterWrite (ini size a v same : Nat) (s : State) : Out := .next <|
  whenAlive s fun s => cpuAccess s ini size (a % 2 ^ 32) (some (keepEvents (a % 2 ^ 32) v same))

/-- WIDE_LOW_READ (R5): an initiator reads the low word of a 64-bit register. -/
def execWideLowRead (ini a : Nat) (s : State) : Out := .next <| whenAlive s fun s => cpuAccess s ini 4 (a % 2 ^ 32) none

/-- WIDE_LOW_WRITE (R5): an initiator writes the low word of a 64-bit register. -/
def execWideLowWrite (ini a v : Nat) (s : State) : Out := .next <|
  whenAlive s fun s => cpuAccess s ini 4 (a % 2 ^ 32) (some v)

end Sys2Proof.Machine
end

