-- ==== Sys2Proof/Machine/Fry.lean ====
section
/-! DEFINITION. The Ferryman and the Local Port: requests at the management target, accesses through the outbound
windows, and the exchanges of the node MCU (R15, R311 to R327, R389, R420). -/

namespace Sys2Proof.Machine

/-! ## The words of a request (R313, R315) -/

/-- How a run of words ends: the state, the status, the address of the word that failed, the words read. -/
structure Ran where
  s : State
  st : Nat
  at_ : Nat
  data : List Nat
  deriving DecidableEq, Repr

/-- n words are read in ascending order, up to the first that fails. -/
def readRun (s : State) (ini a : Nat) : Nat → List Nat → Ran
  | 0, acc => ⟨s, scOk, 0, acc⟩
  | n + 1, acc =>
    let x := busRead s ini (a % 2 ^ 32)
    if x.2.1 ≠ scOk then ⟨x.1, x.2.1, a % 2 ^ 32, []⟩ else readRun x.1 ini (a + 4) n (acc ++ [x.2.2])

/-- Words are written in ascending order, up to the first that fails, or to a reset of the hub domain. -/
def writeRun (s : State) (ini a : Nat) : List Nat → Ran
  | [] => ⟨s, scOk, 0, []⟩
  | w :: ws =>
    let x := busWrite s ini (a % 2 ^ 32) w 0xFFFF_FFFF
    if x.1.rst.busy then ⟨x.1, x.2, a % 2 ^ 32, []⟩
    else if x.2 ≠ scOk then ⟨x.1, x.2, a % 2 ^ 32, []⟩
    else writeRun x.1 ini (a + 4) ws

/-- A read-modify-write of one word: the bits of MASK take those of DATA, and the old value is returned (R315). -/
def rmwRun (s : State) (ini a mask v : Nat) : Ran :=
  let x := busRead s ini (a % 2 ^ 32)
  if x.2.1 ≠ scOk then ⟨x.1, x.2.1, a % 2 ^ 32, []⟩
  else
    let y := busWrite x.1 ini (a % 2 ^ 32) (v % 2 ^ 32) (mask % 2 ^ 32)
    if y.2 ≠ scOk then ⟨y.1, y.2, a % 2 ^ 32, []⟩ else ⟨y.1, scOk, 0, [x.2.2]⟩

/-- The words of a request at local addresses. -/
def wordsRun (s : State) (ini : Nat) (r : Req) : Ran :=
  if r.op = opRead then readRun s ini r.addr r.count []
  else if r.op = opWrite then writeRun s ini r.addr ((List.range r.count).map fun k => r.data.getD k 0)
  else rmwRun s ini r.addr r.mask (r.data.getD 0 0)

/-! ## The Local Port's answers (R324) -/

/-- The hub drives bytes on the Local Port, and LP_CS_N rises. -/
def lpSay (s : State) (bs : List Byte) : State :=
  let t := s.emit (.lpData bs)
  { t with fry := { t.fry with lpBusy := false, csRise := ftNs t } }

/-- A transaction of the Local Port ends with its final status byte and data. -/
def lpEnd (s : State) (st : Nat) (data : List Nat) : State :=
  lpSay s (BitVec.ofNat 8 (0x80 + st) :: if st = scOk then wordBytes data else [])

/-! ## Requests at local addresses -/

/-- A request is answered, unless it was broadcast (R311). -/
def answerReq (s : State) (r : Req) (st info : Nat) (data : List Nat) : State :=
  if r.quiet then s else respond s r.src r.sport r.tag r.op st info data

/-- A request at local addresses is carried out and answered; a hub-domain reset that it brings about abandons it
(R313, R326). -/
def reqRun (s : State) (ini : Nat) (r : Req) : State :=
  let x := wordsRun s ini r
  if x.s.rst.busy then x.s
  else if ini = iniLp then (if x.s.fry.lpBusy then lpEnd x.s x.st x.data else x.s)
  else answerReq x.s r x.st (if x.st = scOk then 0 else x.at_) (if x.st = scOk then x.data else [])

/-- Some word of a request at local addresses passes a test. -/
def anyWord (r : Req) (p : Nat → Bool) : Bool := (List.range r.count).any fun k => p ((r.addr + 4 * k) % 2 ^ 32)

/-- A request waits for the end of P4 or for the flash, and is carried out otherwise; in P4 the wait ends with it (R28, R160,
R389). -/
def reqLocal (s : State) (ini : Nat) (r : Req) : State :=
  if anyWord r (waitsP4 s) then
    if rd s TRD_STATUS_PHASE = 4 then reqRun (toCycle s (tickEnd s)) ini r
    else { s with trd := { s.trd with waiting := s.trd.waiting ++ [.req ini r] } }
  else if r.op ≠ opWrite ∧ anyWord r (waitsNor s) then { s with sys := { s.sys with waiting := s.sys.waiting ++ [.req ini r] } }
  else reqRun s ini r

/-- An access that has waited is carried out. -/
def accessRun (s : State) (x : Access) : State :=
  match x with
  | .cpu ini size a d => cpuDo s ini size a d
  | .req ini r => reqRun s ini r

/-! ## Requests through inbound windows (R320 to R322) -/

/-- A request waits for its far bus. -/
def reqWait (s : State) (r : Req) : State :=
  let l := tput (fun _ => none) s.fry.reqs s.fry.nextReq (some { r with since := ftNs s })
  { s with fry := { s.fry with reqs := l, nextReq := s.fry.nextReq + 1 } }

/-- A request through an inbound window. -/
def reqWindow (s : State) (r : Req) : State :=
  let v := r.win
  if !flag s (FRY_IN0_EN v) then answerReq s r scTargetErr r.addr []
  else if r.op ≠ opRead ∧ !flag s (FRY_IN0_WR_EN v) then answerReq s r scDenied r.addr []
  else if flag s (FRY_IN0_KIND v) then reqWait s r
  else if !windowOk s v then answerReq s r scTargetErr r.addr []
  else
    let n := rd s (FRY_IN0_CH v)
    let t := reqWait s r
    t.setChn n { t.chn n with ferry := (t.chn n).ferry ++ [s.fry.nextReq] }

/-! ## The management target (R24, R312 to R314, R327) -/

/-- Words that the management target reads before ST08 (R327). -/
def earlyWord (a : Nat) : Bool := a / 0x1_0000 == 0x4000 || a / 0x1_0000 == 0x4014 || isNor a

/-- A request's form is bad (R311, R314): operation, words, TMO, address, window end. -/
def badReq (s : State) (r : Req) (space tmo : Nat) : Bool :=
  r.op == 0 || decide (3 < r.op) || r.count == 0 || decide (256 < r.count) || (r.op == opRmw && r.count != 1) || tmo == 0 ||
  r.addr % 4 != 0 || (space == 1 && (decide (2 ^ 28 ≤ r.addr) || decide (rd s (FRY_IN3_SIZE r.win) < r.off + 4 * r.count)))

/-- What a PF request asks of a window with PREF = 0: the demanded word alone (R319). -/
def pfNarrow (s : State) (r : Req) (space pf demand : Nat) : Req :=
  if space = 1 ∧ pf = 1 ∧ !flag s (FRY_IN0_PREF r.win) then
    { r with off := r.off + 4 * (demand % 16), addr := r.addr + 4 * (demand % 16), count := 1 }
  else r

/-- A request reaches the management target: FLAGS, TMO, ORIG_T and the demanded word of a prefetch beside it. -/
def mgmtServe (s : State) (r0 : Req) (flags tmo origT demand : Nat) : State :=
  let space := flags % 2
  let r := pfNarrow s { r0 with win := bits r0.addr 24 4, off := bits r0.addr 0 24, deadline := (origT + 1000 * tmo) % 2 ^ 32 }
    space (bits flags 1 1) demand
  if s.rst.busy then (if s.rst.full ∨ r.quiet then s else s.emit (.mgmtRsp r.src r.tag scResting r.addr []))
  else if hubState s = stResting ∨ hubState s = stDump then answerReq s r scResting r.addr []
  else if badReq s r space tmo then answerReq s r scBadReq r.addr []
  else if untilDeadline s r.deadline < 0 then expireReq s
  else if !s.sys.loaded ∧ hubState s ≠ stSafe ∧ !(r.op = opRead ∧ space = 0 ∧ !anyWord r fun a => !earlyWord a) then
    answerReq s r scRetry r.addr []
  else if space = 0 then reqLocal s iniMgmt r
  else reqWindow s r

/-- The request of an operation. -/
def reqOf (src sport tag op addr count mask : Nat) (data : List Nat) (quiet : Bool) : Req where
  src := src
  sport := sport
  tag := tag
  addr := addr
  op := op
  win := 0
  off := 0
  count := count
  mask := mask
  data := data
  deadline := 0
  quiet := quiet

/-- MGMT_READ (R313): OP is 1, or a reserved code. -/
def execMgmtRead (src sport tag op flags addr count tmo origT demand : Nat) (s : State) : Out := .next <|
  if op = opWrite ∨ op = opRmw then s
  else mgmtServe s (reqOf src sport tag op addr count 0 [] false) flags tmo origT demand

/-- MGMT_WRITE (R313). -/
def execMgmtWrite (src sport tag flags addr count tmo origT : Nat) (data : List Nat) (s : State) : Out := .next <|
  mgmtServe s (reqOf src sport tag opWrite addr count 0 data false) flags tmo origT 0

/-- MGMT_RMW (R315). -/
def execMgmtRmw (src sport tag flags addr count tmo origT mask data : Nat) (s : State) : Out := .next <|
  mgmtServe s (reqOf src sport tag opRmw addr count mask [data] false) flags tmo origT 0

/-- MGMT_BWR (R311). -/
def execMgmtBwr (src tag flags addr count tmo origT : Nat) (data : List Nat) (s : State) : Out := .next <|
  mgmtServe s (reqOf src 0 tag opWrite addr count 0 data true) flags tmo origT 0

/-! ## Requests that wait (R312, R322) -/

/-- REQUEST_EXPIRED (R312): a waiting request by its number, or none for one that the table does not hold. -/
def execRequestExpired (k : Option Nat) (s : State) : Out := .next <| whenAlive s fun s =>
  match k with
  | none => expireReq s
  | some k => if (reqsWaiting s).contains k then expireReq (dropReq (unqueue s k) k) else s

/-- RETRY_MARGIN (R322): every waiting request that is now nearer to its deadline than the margin. -/
def execRetryMargin (dt : Nat) (s : State) : Out := .next <|
  let s := advance s dt
  whenAlive s fun s =>
  each ((reqsWaiting s).filter fun k => match reqAt s k with
    | some r => decide (untilDeadline s r.deadline < retryMarginNs s)
    | none => false) (fun t k => retryReq (unqueue t k) k) s

/-! ## Outbound windows (R15, R316 to R319) -/

/-- An access through an outbound window completes: a firmware access that is not OK is recorded (R317). -/
def outEnd (s : State) (ini win off st : Nat) (data : List Nat) : State :=
  if ini = iniLp then (if s.fry.lpBusy then lpEnd s st data else s)
  else
    let t := if st = scOk then s else wrs s [(FRY_LAST_ERR_STATUS, st), (FRY_LAST_ERR_WINDOW, win), (FRY_LAST_ERR_OFFSET, off)]
    t.emit (.busRsp ini st (if st = scOk then data.headD 0 else 0))

/-- TMO of a window in µs: 0 acts as 1,000. -/
def outTmo (s : State) (w : Nat) : Nat := if rd s (FRY_OUT2_TMO w) = 0 then 1000 else rd s (FRY_OUT2_TMO w)

/-- The payload of a request (R311): a prefetch asks for the aligned block of 16 words. -/
def outPayload (s : State) (x : Txn) : List Byte :=
  let off := if x.pf then x.off / 64 * 64 else x.off
  beBytes 2 x.tag ++ [BitVec.ofNat 8 x.op, BitVec.ofNat 8 (rd s (FRY_OUT0_SPACE x.win) + natOf x.pf * 2)] ++
  beBytes 4 ((rd s (FRY_OUT1_BASE x.win) + off) % 2 ^ 32) ++ beBytes 2 (if x.pf then 16 else x.count) ++ beBytes 2 (outTmo s x.win) ++
  beBytes 4 x.mask ++ wordBytes x.data

/-- A transaction is issued: it takes the next tag (R316). A write to hub 4,095 goes as a broadcast write (R15). -/
def outIssue (s : State) (x : Txn) : State :=
  let y : Txn := { x with tag := rd s FRY_STATUS_NEXT_TAG, expires := ftNs s + 1000 * outTmo s x.win }
  let t := wr s FRY_STATUS_NEXT_TAG (y.tag + 1)
  let p := outPayload s y
  let r := insertFrame t (if x.ini = iniLp then 3 else 4) (mHead (if x.hub = 4095 then tBwr else tReq) 5 p.length x.hub 0 0) p (ftNs s)
  match r.1 with
  | .noRoute => outEnd r.2 x.ini x.win x.off scNoRoute []
  | _ => { r.2 with fry := { r.2.fry with txns := r.2.fry.txns ++ [y] } }

/-- An entry of the table is free: the request that has waited longest is issued (R316). -/
def outPump (s : State) : State :=
  match s.fry.waiting with
  | [] => s
  | x :: l => if s.fry.txns.length < 32 then outIssue { s with fry := { s.fry with waiting := l } } x else s

/-- A transaction is issued, or waits for a free entry. -/
def outStart (s : State) (x : Txn) : State :=
  if s.fry.txns.length < 32 ∧ s.fry.waiting = [] then outIssue s x
  else { s with fry := { s.fry with waiting := s.fry.waiting ++ [{ x with expires := ftNs s + 1000 * outTmo s x.win }] } }

/-- A buffer is discarded at this FT in ns, 1 ms after its fill (R319). -/
def bufferEnd (p : Prefetch) : Nat := p.filled + 1000000

/-- The initiator's buffer, where it holds the block of an access and its 1 ms has not passed. -/
def bufferOf (s : State) (ini a : Nat) : Option Prefetch :=
  match tget (fun _ => none) s.fry.prefetch ini with
  | none => none
  | some p => if p.addr = a / 64 * 64 ∧ ftNs s < bufferEnd p then some p else none

/-- The word of a block that the initiator's buffer serves. -/
def bufferWord (s : State) (ini a : Nat) : Option (Prefetch × Nat) :=
  match bufferOf s ini a with
  | none => none
  | some p => (p.words.find? fun x => x.1 == a / 4 % 16).map fun x => (p, x.2)

/-- What an access does to the prefetch buffers before it goes on (R319): words outside the block discard it. -/
def outDiscard (s : State) (ini op a count : Nat) : State :=
  let w := bits a 24 4
  let out := (a + 4 * count - 1) / 64 ≠ a / 64
  let s1 := if (bufferOf s ini a).isSome ∧ !out then s else prefetchDrop s ini
  let s2 := { s1 with fry := { s1.fry with txns := s1.fry.txns.map fun x =>
    if x.pf && x.ini == ini && (x.win != w || x.off / 64 != a % 2 ^ 24 / 64 || out) then { x with dropped := true } else x } }
  if op = opRead then s2 else prefetchDropWin s2 w

/-- An access of an initiator through an outbound window. -/
def outbound (s : State) (ini op a count mask : Nat) (data : List Nat) : State :=
  let w := bits a 24 4
  let off := a % 2 ^ 24
  let hub := rd s (FRY_OUT0_HUB w)
  if !flag s (FRY_OUT0_EN w) then outEnd s ini w off scTargetErr []
  else if 2 ^ 24 < off + 4 * count ∨ hub = 0 ∨ (hub = 4095 ∧ op ≠ opWrite) then outEnd s ini w off scBadReq []
  else
    let t := outDiscard s ini op a count
    let pf := op == opRead && count == 1 && flag s (FRY_OUT0_PREF w)
    match (if op = opRead ∧ count = 1 then bufferWord t ini a else none) with
    | some (p, v) =>
      let q : Prefetch := { p with used := withBit p.used (a / 4 % 16) true }
      outEnd { t with fry := { t.fry with prefetch := tput (fun _ => none) t.fry.prefetch ini (some q) } } ini w off scOk [v]
    | none => outStart t { ini := ini, hub := hub, tag := 0, op := op, win := w, off := off, count := count, mask := mask,
                           data := data, pf := pf, expires := 0 }

/-! ## Local Port transactions (R324, R325) -/

/-- The port is enabled, and the hub domain drives it (R326). -/
def whenPort (s : State) (f : State → State) : State := whenAlive s fun s => if flag s LP_CTRL_EN then f s else s

/-- A transaction of the port: in the quiesce of a shutdown it ends with RESTING (R363). -/
def lpTrans (s : State) (f : State → State) : State :=
  whenPort s fun s => if hubState s = stResting then lpEnd s scResting [] else f s

/-- READ, WRITE and RMW of the Local Port. -/
def lpServe (s : State) (op a count mask : Nat) (data : List Nat) : State := lpTrans s fun s =>
  let acc := rd s LP_CTRL_ACC
  let r := { reqOf (rd s SYS_HUB_ID_ID) 3 0 op a count mask data false with }
  let t := { s with fry := { s.fry with lpBusy := true } }
  if acc = 0 ∨ (acc = 1 ∧ op ≠ opRead) then lpEnd s scDenied []
  else if hubState s = stDump then lpEnd s scResting []
  else if count = 0 ∨ 256 < count ∨ a % 4 ≠ 0 then lpEnd s scBadReq []
  else if isOutbound a then outbound t iniLp op a count mask data
  else reqLocal t iniLp r

/-- LP_READ (R324, R325). -/
def execLpRead (a count : Nat) (s : State) : Out := .next (lpServe s opRead (a % 2 ^ 32) count 0 [])

/-- LP_WRITE (R324, R325). -/
def execLpWrite (a : Nat) (data : List Nat) (s : State) : Out := .next (lpServe s opWrite (a % 2 ^ 32) data.length 0 data)

/-- LP_RMW (R324, R325). -/
def execLpRmw (a mask data : Nat) (s : State) : Out := .next (lpServe s opRmw (a % 2 ^ 32) 1 mask [data])

/-- OUTBOUND_READ (R316, R319): of firmware, one word; of the Local Port, count words. -/
def execOutboundRead (ini a count : Nat) (s : State) : Out := .next <|
  let a := a % 2 ^ 32
  if !isOutbound a then s
  else if ini = iniLp then lpServe s opRead a count 0 []
  else whenAlive s fun s =>
    if iniMgmt ≤ ini then s
    else if a % 4 ≠ 0 then s.emit (.busRsp ini scTargetErr 0)
    else outbound s ini opRead a 1 0 []

/-- OUTBOUND_WRITE (R316): of firmware, one word; of the Local Port, its words. -/
def execOutboundWrite (ini a : Nat) (data : List Nat) (s : State) : Out := .next <|
  let a := a % 2 ^ 32
  if !isOutbound a then s
  else if ini = iniLp then lpServe s opWrite a data.length 0 data
  else whenAlive s fun s =>
    if iniMgmt ≤ ini then s
    else if a % 4 ≠ 0 then s.emit (.busRsp ini scTargetErr 0)
    else outbound s ini opWrite a 1 0 [data.headD 0]

/-! ## Responses (R317 to R319) -/

/-- A code that is never sent is taken as TARGET_ERR (R313). -/
def codeOf (st : Nat) : Nat := if 9 ≤ st % 16 then scTargetErr else st % 16

/-- A response that matches no open transaction is logged (R318). -/
def lateLog (s : State) (hub tag op st info : Nat) : State :=
  let i := rd s FRY_LATE_PTR_NEXT
  let t := wrs s [(FRY_LATE0_TAG i, tag), (FRY_LATE0_STATUS i, st), (FRY_LATE0_OP i, op), (FRY_LATE1_HUB i, hub),
    (FRY_LATE2_INFO i, info), (FRY_LATE_PTR_NEXT, i + 1), (FRY_EVT_LATE, 1)]
  raise (incSat t FRY_CNT_LATE) 106 (tag + st * 2 ^ 16)

/-- The words of a fill by their place in the block: all of them, or the demanded one alone. -/
def fillWords (x : Txn) (data : List Nat) : List (Nat × Nat) :=
  if data.length = 1 then [(x.off / 4 % 16, data.headD 0)]
  else (List.range 16).filterMap fun k => (data[k]?).map fun v => (k, v)

/-- A fill ends: the buffer takes it, or it has been discarded, and every word is logged as unread (R319). -/
def fillEnd (s : State) (x : Txn) (data : List Nat) : State :=
  let ws := fillWords x data
  let base := 0x6000_0000 + x.win * 2 ^ 24 + x.off / 64 * 64
  let p : Prefetch := { addr := base, win := x.win, words := ws, used := 2 ^ (x.off / 4 % 16), filled := ftNs s }
  let t := if x.dropped then
      wrs s [(FRY_PF_LOG_ADDR, base), (FRY_PF_LOG_MASK, maskOf 16 fun k => ws.any (·.1 == k)), (FRY_EVT_PF_DISC, 1)]
    else { s with fry := { s.fry with prefetch := tput (fun _ => none) s.fry.prefetch x.ini (some p) } }
  outEnd t x.ini x.win x.off scOk (((ws.find? fun y => y.1 == x.off / 4 % 16).map (·.2)).toList)

/-- The table without a transaction. -/
def outDrop (s : State) (x : Txn) : State := { s with fry := { s.fry with txns := s.fry.txns.erase x } }

/-- A transaction's open time ends (R317). -/
def outTimeout (s : State) (x : Txn) : State :=
  let t := outDrop (advanceTo s x.expires) x
  outPump (outEnd (wr (incSat t FRY_CNT_TIMEOUT) FRY_EVT_TIMEOUT 1) x.ini x.win x.off scTimeout [])

/-- MGMT_RSP (R317 to R319): a response that comes after the open time is a late completion. -/
def execMgmtRsp (hub tag op st info : Nat) (data : List Nat) (s : State) : Out := .next <| whenAlive s fun s =>
  match s.fry.txns.find? fun x => x.tag == tag && x.hub == hub && x.op == op with
  | none => lateLog s hub tag op (codeOf st) info
  | some x =>
    if x.expires < ftNs s then lateLog (outTimeout s x) hub tag op (codeOf st) info
    else
      let t := outDrop s x
      outPump (if codeOf st = scOk ∧ x.pf then fillEnd t x data else outEnd t x.ini x.win x.off (codeOf st) data)

/-- OUTBOUND_TIMEOUT (R317): the transaction of a tag. -/
def execOutboundTimeout (tag : Nat) (s : State) : Out := .next <| whenAlive s fun s =>
  match s.fry.txns.find? fun x => x.tag == tag with
  | none => s
  | some x => outTimeout s x

/-- The first of two requests that wait for a free entry to end its open time. -/
def sooner (x y : Txn) : Txn := if y.expires < x.expires then y else x

/-- TX_TABLE_FULL_TIMEOUT (R316): the waiting request whose TMO ends first. -/
def execTxTableFullTimeout (s : State) : Out := .next <| whenAlive s fun s =>
  match s.fry.waiting with
  | [] => s
  | x :: l =>
    let y := l.foldl sooner x
    outEnd { advanceTo s y.expires with fry := { s.fry with waiting := s.fry.waiting.erase y } } y.ini y.win y.off scRetry []

/-- PREFETCH_DISCARD (R319): 1 ms after the fill, the buffer of an initiator. -/
def execPrefetchDiscard (ini : Nat) (s : State) : Out := .next <| whenAlive s fun s =>
  match tget (fun _ => none) s.fry.prefetch ini with
  | none => s
  | some p => prefetchDrop (advanceTo s (bufferEnd p)) ini

/-! ## The hub's claim on the Local Port (R321 to R325) -/

/-- LP_MREQ (R323): its new level, which the pin shows in a reset and with the port disabled too. -/
def execLpMreq (level : Bool) (s : State) : Out := .next <|
  let t := { s with fry := { s.fry with mreq := level } }
  if level ∧ !s.fry.mreq ∧ s.fry.lpAsk.isSome then
    incSat (wr { t with fry := { t.fry with lpAsk := none } } LP_EVT_CONTEND 1) LP_CNT_CONTEND
  else t

/-- The request for the Local Port that has waited longest. -/
def lpFirst (s : State) : Option Nat :=
  (reqsWaiting s).find? fun k => match reqAt s k with
    | some r => flag s (FRY_IN0_KIND r.win)
    | none => false

/-- LP_HREQ_ASSERT (R323): 2 µs or more after the last rise of LP_CS_N, while LP_MREQ is low. -/
def execLpHreqAssert (s : State) : Out := .next <| whenPort s fun s =>
  match lpFirst s with
  | none => s
  | some k =>
    if s.fry.mreq ∨ s.fry.lpBusy ∨ s.fry.lpAsk.isSome ∨ s.fry.lpHeld.isSome then s
    else
      let t := advanceTo s (s.fry.csRise + 2000)
      { t with fry := { t.fry with lpAsk := some k } }

/-- The descriptor of a served request. -/
def lpDescriptor (s : State) (r : Req) : List Byte :=
  beBytes 1 r.op ++ beBytes 1 (r.count - 1) ++ beBytes 2 r.tag ++ beBytes 4 ((rd s (FRY_IN2_MCU_BASE r.win) + r.off) % 2 ^ 32) ++
  beBytes 4 r.mask ++ (if r.op = opRead then [] else wordBytes r.data)

/-- SERVICE (R323 to R325): only while LP_HREQ is high and LP_MREQ low. -/
def execLpService (s : State) : Out := .next <| lpTrans s fun s =>
  match s.fry.lpAsk with
  | none => s
  | some k => match reqAt s k with
    | none => s
    | some r =>
      let t := { s with fry := { s.fry with lpAsk := none } }
      match lateStart t k r with
      | some u => u
      | none => lpSay { t with fry := { t.fry with lpHeld := some k, heldAt := ftNs t } } (0x80 :: lpDescriptor s r)

/-- FT in ns by which COMPLETE must come: 0 in SVC_TMO acts as 100 µs (R325). -/
def lpDue (s : State) : Nat := s.fry.heldAt + 1000 * (if rd s LP_CTRL_SVC_TMO = 0 then 100 else rd s LP_CTRL_SVC_TMO)

/-- The served request is answered TIMEOUT (R325). -/
def lpTimeout (s : State) (k : Nat) : State :=
  wr (endReq { s with fry := { s.fry with lpHeld := none } } k scTimeout []) LP_EVT_SVC_TMO 1

/-- COMPLETE (R324, R325): TAG, status and read data. -/
def execLpComplete (tag st : Nat) (data : List Nat) (s : State) : Out := .next <| lpTrans s fun s =>
  match s.fry.lpHeld with
  | none => lpEnd s scBadReq []
  | some k => match reqAt s k with
    | none => lpEnd s scBadReq []
    | some r =>
      if lpDue s < ftNs s then lpEnd (lpTimeout s k) scBadReq []
      else if r.tag ≠ tag then lpEnd s scBadReq []
      else
        let t := { s with fry := { s.fry with lpHeld := none } }
        lpEnd (incWrap (endReq t k (codeOf st) (if r.op = opWrite then [] else data.take r.count)) LP_CNT_SERVICE) scOk []

/-- RXF_RD (R324): an empty queue answers LEN 0 (log entry 108). -/
def execLpRxfRd (s : State) : Out := .next <| lpTrans s fun s =>
  match s.fry.rxq with
  | [] => lpSay s (0x80 :: beBytes 2 0)
  | f :: l => lpSay { s with fry := { s.fry with rxq := l } } (0x80 :: beBytes 2 f.length ++ f)

/-- The types that a native frame may have (R208). -/
def nativeType (t : Nat) : Bool := [tReq, tBwr, tEvent, tUser].contains t

/-- TXF_WR (R15, R208, R324): 20 header bytes and the payload. A request that this hub completes itself ends with its status;
the status of a frame that is not inserted for any other cause than a missing route is a free value. -/
def execLpTxfWr (h payload : List Byte) (s : State) : Out := .next <| lpTrans s fun s =>
  if !nativeType (mType h) then lpSay s.used [BitVec.ofNat 8 (0x80 + freeOf s 4)]
  else
    let r := insertOr s 3 h payload
    match sourceStatus s h payload r.1, r.1 with
    | some st, _ => lpEnd r.2 st []
    | none, .ok => lpEnd r.2 scOk []
    | none, .noRoute => lpEnd r.2 scNoRoute []
    | none, .refused => lpSay r.2.used [BitVec.ofNat 8 (0x80 + freeOf r.2 4)]

/-- STAT (R324). -/
def execLpStat (s : State) : Out := .next <| lpTrans s fun s =>
  let e := cellGet (seenCell s LP_EVT_CONTEND.addr).1 0 32
  let w := cellGet (seenCell s LP_STAT_MREQ.addr).1 0 32
  lpSay s (0x80 :: wordBytes [e, w])

/-- SVC_TMO (R325): no COMPLETE within SVC_TMO µs. -/
def execLpSvcTmo (s : State) : Out := .next <| whenPort s fun s =>
  match s.fry.lpHeld with
  | none => s
  | some k => lpTimeout (advanceTo s (lpDue s)) k

/-- PROTO_ERR (R324): whether the transaction abandoned is a SERVICE or a COMPLETE. -/
def execLpProtoErr (exchange : Bool) (s : State) : Out := .next <| whenPort s fun s =>
  let t := wr { s with fry := { s.fry with lpBusy := false, csRise := ftNs s } } LP_EVT_PROTO_ERR 1
  let u := { t with
    trd := { t.trd with waiting := t.trd.waiting.filter lpNot }
    sys := { t.sys with waiting := t.sys.waiting.filter lpNot }
    fry := { t.fry with waiting := t.fry.waiting.filter (·.ini != iniLp) } }
  if exchange then
    match (match u.fry.lpHeld with
      | some k => some k
      | none => u.fry.lpAsk) with
    | none => u
    | some k => endReq { u with fry := { u.fry with lpHeld := none, lpAsk := none } } k scTargetErr []
  else u
where
  /-- Not a waiting transaction of the Local Port. -/
  lpNot (x : Access) : Bool :=
    match x with
    | .req ini _ => ini != iniLp
    | .cpu _ _ _ _ => true

end Sys2Proof.Machine
end

