-- ==== Sys2Proof/Machine/Trd.lean ====
section
/-! DEFINITION. The commands of the Treadle: tick boundaries, phases, rules, and accesses to its storage
(R139 to R160, R28). -/

namespace Sys2Proof.Machine

/-- The accesses that have waited for the end of P4 are carried out in order (R28, R160). -/
def runWaiting (s : State) : State :=
  s.trd.waiting.foldl (fun t x => if t.rst.busy then t else accessRun t x) { s with trd := { s.trd with waiting := [] } }

/-- A tick that the hub has left service in ends: its phases run no further. -/
def tickDrop (s : State) : State :=
  if rd s TRD_STATUS_PHASE ≠ 0 ∧ tickStale s then runWaiting (wr s TRD_STATUS_PHASE 0) else s

/-- TICK_BOUNDARY (R139 to R144, R151). -/
def execTickBoundary (s : State) : Out := .next <| whenAlive s fun s => tickBoundary (tickDrop (resumeTake s))

/-- P2_EVALUATE (R140, R144, R162, R179, R422): the late bits of branch status, channel and CAN points. -/
def execP2Evaluate (late : Nat) (s : State) : Out := .next <| whenAlive s fun s =>
  let t := tickDrop s
  if rd t TRD_STATUS_PHASE = 1 then tickDrop (p1End t late) else t

/-- P3_COMMIT (R105, R158, R159). -/
def execP3Commit (s : State) : Out := .next <| whenAlive s fun s =>
  let t := tickDrop s
  if rd t TRD_STATUS_PHASE = 2 then tickDrop (p3Commit t) else t

/-- P4_LAUNCH (R158, R224, R257): accesses that wait are carried out at the end of P4. -/
def execP4Launch (s : State) : Out := .next <| whenAlive s fun s =>
  let t := tickDrop s
  if rd t TRD_STATUS_PHASE = 3 then
    let u := p4Launch t
    if u.trd.waiting = [] then u else runWaiting (toCycle u (tickEnd u))
  else t

/-- A rule of a lane in P2. -/
def laneRuns (is : Rule → Bool) (lane stall : Nat) (s : State) : Out := .next <| whenAlive s fun s =>
  ruleCmd is lane stall (tickDrop s)

/-- NOP (R149): an illegal rule is executed as one (R148). -/
def execRuleNop (lane stall : Nat) (s : State) : Out := laneRuns (fun r => isOp oNop r || !legal r) lane stall s

/-- BOOL (R149). -/
def execRuleBool (lane stall : Nat) (s : State) : Out := laneRuns (isOp oBool) lane stall s

/-- CMP (R149). -/
def execRuleCmp (lane stall : Nat) (s : State) : Out := laneRuns (isOp oCmp) lane stall s

/-- ARITH (R149, R150). -/
def execRuleArith (lane stall : Nat) (s : State) : Out := laneRuns (isOp oArith) lane stall s

/-- SCALE (R149, R150). -/
def execRuleScale (lane stall : Nat) (s : State) : Out := laneRuns (isOp oScale) lane stall s

/-- SEL (R149). -/
def execRuleSel (lane stall : Nat) (s : State) : Out := laneRuns (isOp oSel) lane stall s

/-- EDGE (R149). -/
def execRuleEdge (lane stall : Nat) (s : State) : Out := laneRuns (isOp oEdge) lane stall s

/-- LATCH (R149). -/
def execRuleLatch (lane stall : Nat) (s : State) : Out := laneRuns (isOp oLatch) lane stall s

/-- TON (R149, R152). -/
def execRuleTon (lane stall : Nat) (s : State) : Out := laneRuns (isOp oTon) lane stall s

/-- TOF (R149, R152). -/
def execRuleTof (lane stall : Nat) (s : State) : Out := laneRuns (isOp oTof) lane stall s

/-- CNT (R149, R153). -/
def execRuleCnt (lane stall : Nat) (s : State) : Out := laneRuns (isOp oCnt) lane stall s

/-- ZONE (R149, R154). -/
def execRuleZone (lane stall : Nat) (s : State) : Out := laneRuns (isOp oZone) lane stall s

/-- SNAP (R149, R155). -/
def execRuleSnap (lane stall : Nat) (s : State) : Out := laneRuns (isOp oSnap) lane stall s

/-- BARRIER (R149, R156). -/
def execRuleBarrier (lane stall : Nat) (s : State) : Out := laneRuns (isOp oBarrier) lane stall s

/-- MAILBOX_WRITE (R28, R160): an initiator writes a word of the Treadle's storage. -/
def execMailboxWrite (ini a v : Nat) (s : State) : Out := .next <| whenAlive s fun s =>
  if isTrdStore a ∧ a % 4 = 0 then cpuAccess s ini 4 a (some v) else s

end Sys2Proof.Machine
end

