-- ==== Sys2Proof/Machine/Dump.lean ====
section
/-! DEFINITION. What ends or waits in the flash: the Stocktake, the release of held programs and of waiting reads, and
the telemetry slot (R346 to R350, R365, R371, R389, R412). -/

namespace Sys2Proof.Machine

/-! ## The Stocktake (R346 to R349) -/

/-- n bytes whose values the spec leaves open. -/
def freeBytes (s : State) (n : Nat) : List Byte := (List.range n).map fun k => Config.freeValue 8 (s.fresh + k)

/-- n words of the register space from a local address, as a read sees them, most significant byte first (R4). -/
def regBytes (s : State) (a n : Nat) : List Byte := (List.range n).flatMap fun k =>
  beBytes 4 (match wordAt (a + 4 * k) with
    | some (r, cell, half) => cellGet (seenCell s cell).1 half 32 &&& (0xFFFF_FFFF ^^^ accMask r half (· == .wo))
    | none => 0)

/-- The sections: ID, offset in the half, length (R349). -/
def dumpSections (seqr : Bool) : List (Nat × Nat × Nat) :=
  [(1, 0x1000, 0x2000), (2, 0x3000, 0x4000), (3, 0x7000, 0x1_6000), (4, 0x1_D000, 0x7000), (5, 0x2_4000, 0xC000),
   (6, 0x3_0000, 0x1_8000), (7, 0x4_8000, 0x8_0000), (8, 0xC_8000, 0x10_0000)].filter fun x => !seqr || x.1 == 1 || x.1 == 3

/-- The contents of a section (R349). -/
def sectionBytes (s : State) (i n : Nat) : List Byte :=
  (if i = 1 then regBytes s 0x4011_0000 32 ++ regBytes s 0x4011_0400 256 ++ regBytes s 0x4011_0800 128 ++ regBytes s 0x4011_0A00 128
   else if i = 3 then (List.range 22).flatMap fun b => regBytes s (0x4000_0000 + 0x1_0000 * b) 1024
   else if i = 4 then regBytes s 0x4005_4000 4096 ++ regBytes s 0x4005_8000 512 ++ regBytes s 0x4005_A000 2048 ++
     regBytes s 0x4005_C000 256 ++ regBytes s 0x4005_C800 32
   else if i = 5 then regBytes s 0x4006_4000 12288
   else if i = 6 then memBytes s 0x500E_0000 0x1_8000
   else if i = 7 then memBytes s 0x5060_0000 0x8_0000
   else freeBytes s n).take n

/-- A directory entry: ID, STATE, OFFSET, LENGTH, CRC (R348). -/
def dirEntry (i st off : Nat) (bs : List Byte) : List Byte :=
  beBytes 2 i ++ beBytes 2 st ++ beBytes 4 off ++ beBytes 4 bs.length ++ beBytes 4 (if st = 0 then 0 else crc32c bs)

/-- The sections written: k whole ones, and some bytes of the next. Gives the state and the directory entries. -/
def writeSections (s : State) (base part : Nat) : Nat → List (Nat × Nat × Nat) → State × List (Nat × List Byte)
  | _, [] => (s, [])
  | 0, x :: l =>
    let bs := if part = 0 then [] else sectionBytes s x.1 (min part x.2.2)
    let t := if part = 0 then s else { norProgram s (base + x.2.1) bs with fresh := s.fresh + part }
    (t, (x.1, dirEntry x.1 (if part = 0 then 0 else 2) x.2.1 bs) :: l.map fun y => (y.1, dirEntry y.1 0 y.2.1 []))
  | k + 1, x :: l =>
    let bs := sectionBytes s x.1 x.2.2
    let r := writeSections { norProgram s (base + x.2.1) bs with fresh := s.fresh + x.2.2 } base part k l
    (r.1, (x.1, dirEntry x.1 1 x.2.1 bs) :: r.2)

/-- SEQ of a dump: one more than that of the other half's dump, or 1. -/
def dumpSeq (s : State) (half : Nat) : Nat :=
  if norNum s (dumpBase (1 - half)) 4 = 0x5354_4B01 then norNum s (dumpBase (1 - half) + 8) 4 + 1 else 1

/-- The header up to HCRC (R348). -/
def dumpHeader (s : State) (d : Dump) (half tEnd : Nat) (trunc : Bool) (dir : List (Nat × List Byte)) : List Byte :=
  let zero := beBytes 16 0
  beBytes 4 0x5354_4B01 ++ beBytes 2 1 ++ beBytes 2 (rd s SYS_HUB_ID_ID) ++ beBytes 4 (dumpSeq s half) ++
  beBytes 4 (natOf d.seqr + natOf trunc * 2) ++ beBytes 8 d.trig ++ beBytes 8 tEnd ++ beBytes 4 (rdW s TNK_FIRST_SRC.addr) ++
  ([3, 2, 1, 0].flatMap fun k => beBytes 4 (rd s (TNK_FIRST_ALSO_ALSO k))) ++ beBytes 4 (s.sys.fwSlot % 256 + s.sys.fwVer * 256) ++
  beBytes 4 s.sys.lastVer ++ beBytes 4 0 ++
  ((List.range 16).flatMap fun k => ((dir.find? fun x => x.1 == k + 1).map (·.2)).getD zero)

/-- The dump in a half ends: its sections, its header, DONE last. -/
def dumpWrite (s : State) (d : Dump) (half sections part : Nat) : State :=
  let l := dumpSections d.seqr
  let trunc := decide (sections < l.length)
  let s0 := if trunc then advanceTo s (d.trig + 150000000) else s
  let r := writeSections s0 (dumpBase half) part sections l
  let h := dumpHeader s d half (ftNs s0) trunc r.2
  norPut (norProgram r.1 (dumpBase half) (h ++ beBytes 4 (crc32c h))) (dumpBase half + 4092) 4 0

/-- DUMP_END (R346, R348): sections complete, bytes of the next one; the hub domain is reset with cause FATAL. -/
def execDumpEnd (sections part : Nat) (s : State) : Out := .next <| whenAlive s fun s =>
  match s.tnk.dump with
  | none => s
  | some d =>
    if hubState s ≠ stDump then s
    else match d.half with
      | none => orderReset s rFatal
      | some h => orderReset (if s.sys.pfwLow then s else dumpWrite s d h sections part) rFatal

/-! ## The flash is free again (R389, R412) -/

/-- NVM_DONE (R389): whether the flash reports success. Reads that have waited are carried out. -/
def execNvmDone (ok : Bool) (s : State) : Out := .next <| whenAlive s fun s =>
  let t := nvmEnd s ok
  t.sys.waiting.foldl (fun u x => if u.rst.busy then u else accessRun u x) { t with sys := { t.sys with waiting := [] } }

/-- A command that has waited for PFW_N takes effect. -/
def heldRun (s : State) (c : Instr) : State :=
  match c with
  | .rslBlock session kind off len crc progOk => rslBlock session kind off len crc progOk s
  | .sealComplete kind progOk => sealComplete kind progOk s
  | .destinationEraseDone kind => eraseDone kind s
  | .rslConfirm kmask => rslConfirm kmask s
  | .rslAbort kmask => rslAbort kmask s
  | .trialHour => trialHour s
  | .stocktakeErase half => stocktakeErase half s
  | .cobblerBlockErase blk => cobblerErase blk s
  | _ => s

/-- PFW_N_RISE (R365, R412): held programs and erases proceed. -/
def execPfwNRise (s : State) : Out := .next <|
  let t := { s with sys := { s.sys with pfwLow := false, held := [] } }
  if s.rst.busy then t else s.sys.held.foldl heldRun t

/-! ## The telemetry slot (R371) -/

/-- The points of the slot: hub-die and BPD temperature in 1/16 °C, VBUS_SNS in mV. -/
def telemetry (s : State) (tHub tBpd : Int) (vbus : Nat) : List Nat :=
  let word (f : Fld) : Nat := cellGet (seenCell s f.addr).1 0 32
  [hubState s + rd s SYS_DEG_REASON * 2 ^ 8 + seenField s TNK_STATE_WORST * 2 ^ 12, rd s SYS_START_NO_NO, wrapTo 32 tHub,
   wrapTo 32 tBpd, vbus % 2 ^ 32, sumOf ((List.range 16).map fun n => rd s (BRN_MEAS_P_P n)) % 2 ^ 32, word BRN_SUMMARY_PG,
   word BELL_OFFSET_OFS, word WELT_STATUS_MODE, seenField s LDG_STATUS_STALE_N, rd s TRD_P2_USED_MAX,
   seenField s XB_STATUS_FREE, rd s COB_STAT_PASSES, s.sys.corrected % 2 ^ 32, seenField s COB_WEAR_MAX,
   if rd s SYS_STEP_STEP < 14 then 0 else (ftNs s - s.sys.st14) / 1000000000 % 2 ^ 32]

/-- TELEMETRY_WRITE (R107, R371). -/
def execTelemetryWrite (tHub tBpd : Int) (vbus : Nat) (s : State) : Out := .next <| whenAlive s fun s =>
  let i := rd s COB_CTRL_TELEM_IDX
  if flag s COB_CTRL_TELEM_EN ∧ bits (pubDesc s i) 16 3 = 2 ∧ bitOf (pubDesc s i) 19 then
    aliasWrite s .software i 0 ((telemetry s tHub tBpd vbus).flatMap (leBytes 4))
  else s

end Sys2Proof.Machine
end

