-- ==== Sys2Proof/Machine/Dispatch.lean ====
section
/-! DEFINITION. One arm per command: the meaning it has. -/

namespace Sys2Proof.Machine

/-- The effect of a command on everything but the queue. -/
def exec (i : Instr) (s : State) : Host.Outcome State Fault Refusal :=
  match i with
  | .powerOnReset aonLost => Sys2Proof.Machine.execPowerOnReset aonLost s
  | .sysRstN lowNs => Sys2Proof.Machine.execSysRstN lowNs s
  | .refclkFailure => Sys2Proof.Machine.execRefclkFailure s
  | .refclkRecovery => Sys2Proof.Machine.execRefclkRecovery s
  | .hubDomainRelease => Sys2Proof.Machine.execHubDomainRelease s
  | .d2dLinkFrame crcOk toBpd => Sys2Proof.Machine.execD2dLinkFrame crcOk toBpd s
  | .d2dLinkLost hub bpd exhausted => Sys2Proof.Machine.execD2dLinkLost hub bpd exhausted s
  | .watchdogFirstExpiry pairs => Sys2Proof.Machine.execWatchdogFirstExpiry pairs s
  | .watchdogSecondExpiry => Sys2Proof.Machine.execWatchdogSecondExpiry s
  | .tickBoundary => Sys2Proof.Machine.execTickBoundary s
  | .p2Evaluate late => Sys2Proof.Machine.execP2Evaluate late s
  | .p3Commit => Sys2Proof.Machine.execP3Commit s
  | .p4Launch => Sys2Proof.Machine.execP4Launch s
  | .ruleNop lane stall => Sys2Proof.Machine.execRuleNop lane stall s
  | .ruleBool lane stall => Sys2Proof.Machine.execRuleBool lane stall s
  | .ruleCmp lane stall => Sys2Proof.Machine.execRuleCmp lane stall s
  | .ruleArith lane stall => Sys2Proof.Machine.execRuleArith lane stall s
  | .ruleScale lane stall => Sys2Proof.Machine.execRuleScale lane stall s
  | .ruleSel lane stall => Sys2Proof.Machine.execRuleSel lane stall s
  | .ruleEdge lane stall => Sys2Proof.Machine.execRuleEdge lane stall s
  | .ruleLatch lane stall => Sys2Proof.Machine.execRuleLatch lane stall s
  | .ruleTon lane stall => Sys2Proof.Machine.execRuleTon lane stall s
  | .ruleTof lane stall => Sys2Proof.Machine.execRuleTof lane stall s
  | .ruleCnt lane stall => Sys2Proof.Machine.execRuleCnt lane stall s
  | .ruleZone lane stall => Sys2Proof.Machine.execRuleZone lane stall s
  | .ruleSnap lane stall => Sys2Proof.Machine.execRuleSnap lane stall s
  | .ruleBarrier lane stall => Sys2Proof.Machine.execRuleBarrier lane stall s
  | .mailboxWrite ini addr v => Sys2Proof.Machine.execMailboxWrite ini addr v s
  | .ledgerAging => Sys2Proof.Machine.execLedgerAging s
  | .aliasWrite ini x off bs => Sys2Proof.Machine.execAliasWrite ini x off bs s
  | .trainFramePass dt sub res p f => Sys2Proof.Machine.execTrainFramePass dt sub res p f s
  | .trainFifoStomp p t => Sys2Proof.Machine.execTrainFifoStomp p t s
  | .lapLaunch => Sys2Proof.Machine.execLapLaunch s
  | .headStartLaunch r => Sys2Proof.Machine.execHeadStartLaunch r s
  | .trackReturn p => Sys2Proof.Machine.execTrackReturn p s
  | .trainBroken t => Sys2Proof.Machine.execTrainBroken t s
  | .trainOverdue t => Sys2Proof.Machine.execTrainOverdue t s
  | .repairLaunch t => Sys2Proof.Machine.execRepairLaunch t s
  | .roleCommand newHead ringA ringB => Sys2Proof.Machine.execRoleCommand newHead ringA ringB s
  | .handoverLap => Sys2Proof.Machine.execHandoverLap s
  | .trnLapMiss => Sys2Proof.Machine.execTrnLapMiss s
  | .swLapWrite lap arm => Sys2Proof.Machine.execSwLapWrite lap arm s
  | .scheduleSwitch => Sys2Proof.Machine.execScheduleSwitch s
  | .verSwitch => Sys2Proof.Machine.execVerSwitch s
  | .layoutDataAccess w => Sys2Proof.Machine.execLayoutDataAccess w s
  | .txdisForce p enable force => Sys2Proof.Machine.execTxdisForce p enable force s
  | .pmaSignalDetect p => Sys2Proof.Machine.execPmaSignalDetect p s
  | .syncHoldExpiry p => Sys2Proof.Machine.execSyncHoldExpiry p s
  | .signalDetectLost p => Sys2Proof.Machine.execSignalDetectLost p s
  | .lossOfSignal p kind => Sys2Proof.Machine.execLossOfSignal p kind s
  | .remoteFault p on => Sys2Proof.Machine.execRemoteFault p on s
  | .hiBer p on => Sys2Proof.Machine.execHiBer p on s
  | .modChg p absent los txflt => Sys2Proof.Machine.execModChg p absent los txflt s
  | .sfpMgmtGo p data offset devsel write => Sys2Proof.Machine.execSfpMgmtGo p data offset devsel write s
  | .sfpMgmtDone p ack data => Sys2Proof.Machine.execSfpMgmtDone p ack data s
  | .bypassReq => Sys2Proof.Machine.execBypassReq s
  | .unwrapRequest p => Sys2Proof.Machine.execUnwrapRequest p s
  | .unwrapResend p => Sys2Proof.Machine.execUnwrapResend p s
  | .unwrapAck p kind lap => Sys2Proof.Machine.execUnwrapAck p kind lap s
  | .unwrap p => Sys2Proof.Machine.execUnwrap p s
  | .linkDelayStart p => Sys2Proof.Machine.execLinkDelayStart p s
  | .delayRequest dt p seq turn => Sys2Proof.Machine.execDelayRequest dt p seq turn s
  | .delayResponse dt sub p seq turn => Sys2Proof.Machine.execDelayResponse dt sub p seq turn s
  | .delayNoResponse p => Sys2Proof.Machine.execDelayNoResponse p s
  | .bringupTimeout spurs tUs => Sys2Proof.Machine.execBringupTimeout spurs tUs s
  | .ringupRetry spurs tUs => Sys2Proof.Machine.execRingupRetry spurs tUs s
  | .faultNoticeRefresh p => Sys2Proof.Machine.execFaultNoticeRefresh p s
  | .followerLapMedian => Sys2Proof.Machine.execFollowerLapMedian s
  | .holdoverTimeout => Sys2Proof.Machine.execHoldoverTimeout s
  | .bellExtOfs ofs => Sys2Proof.Machine.execBellExtOfs ofs s
  | .bellStep ns => Sys2Proof.Machine.execBellStep ns s
  | .ppsInEdge dt => Sys2Proof.Machine.execPpsInEdge dt s
  | .ppsinMiss => Sys2Proof.Machine.execPpsinMiss s
  | .captureEdge dt n rise => Sys2Proof.Machine.execCaptureEdge dt n rise s
  | .capturePop n => Sys2Proof.Machine.execCapturePop n s
  | .triggerArm owner n t => Sys2Proof.Machine.execTriggerArm owner n t s
  | .triggerFire n => Sys2Proof.Machine.execTriggerFire n s
  | .pulseEnd n => Sys2Proof.Machine.execPulseEnd n s
  | .triggerDisarm owner n => Sys2Proof.Machine.execTriggerDisarm owner n s
  | .ppsOutPulse => Sys2Proof.Machine.execPpsOutPulse s
  | .ppsOutEnd => Sys2Proof.Machine.execPpsOutEnd s
  | .wideLowRead ini addr => Sys2Proof.Machine.execWideLowRead ini addr s
  | .wideLowWrite ini addr v => Sys2Proof.Machine.execWideLowWrite ini addr v s
  | .sensorEdge dt sn => Sys2Proof.Machine.execSensorEdge dt sn s
  | .windowMissing x => Sys2Proof.Machine.execWindowMissing x s
  | .recordFree x => Sys2Proof.Machine.execRecordFree x s
  | .handoffIn ch => Sys2Proof.Machine.execHandoffIn ch s
  | .destCmd ini obj dest keep => Sys2Proof.Machine.execDestCmd ini obj dest keep s
  | .messageFrameReceive dt p f errTerm => Sys2Proof.Machine.execMessageFrameReceive dt p f errTerm s
  | .frameInsert sport h payload => Sys2Proof.Machine.execFrameInsert sport h payload s
  | .faultNotice x => Sys2Proof.Machine.execFaultNotice x s
  | .brokenLinkTimeout n => Sys2Proof.Machine.execBrokenLinkTimeout n s
  | .egressFrameStart w => Sys2Proof.Machine.execEgressFrameStart w s
  | .overloadInterval => Sys2Proof.Machine.execOverloadInterval s
  | .spurFrameReceive dt sp f => Sys2Proof.Machine.execSpurFrameReceive dt sp f s
  | .pauseReceived sp t => Sys2Proof.Machine.execPauseReceived sp t s
  | .pauseExpiry sp => Sys2Proof.Machine.execPauseExpiry sp s
  | .pauseRepeat sp => Sys2Proof.Machine.execPauseRepeat sp s
  | .mdioGo op phy reg data => Sys2Proof.Machine.execMdioGo op phy reg data s
  | .mdioDone data => Sys2Proof.Machine.execMdioDone data s
  | .transferStart dt n sda => Sys2Proof.Machine.execTransferStart dt n sda s
  | .attemptEnd dt n resp line => Sys2Proof.Machine.execAttemptEnd dt n resp line s
  | .transactionTimeout dt n => Sys2Proof.Machine.execTransactionTimeout dt n s
  | .clockStretchTimeout dt n => Sys2Proof.Machine.execClockStretchTimeout dt n s
  | .ssiDataTimeout dt n => Sys2Proof.Machine.execSsiDataTimeout dt n s
  | .chnTxpush ini n len => Sys2Proof.Machine.execChnTxpush ini n len s
  | .rxFrameEnd dt n chars => Sys2Proof.Machine.execRxFrameEnd dt n chars s
  | .chnPopRx ini n => Sys2Proof.Machine.execChnPopRx ini n s
  | .chnFlushTx n => Sys2Proof.Machine.execChnFlushTx n s
  | .chnFlushRx n => Sys2Proof.Machine.execChnFlushRx n s
  | .chnEnable n => Sys2Proof.Machine.execChnEnable n s
  | .chnDisable n => Sys2Proof.Machine.execChnDisable n s
  | .chnStoppingEnd dt n late => Sys2Proof.Machine.execChnStoppingEnd dt n late s
  | .pmDataAccess ini w => Sys2Proof.Machine.execPmDataAccess ini w s
  | .canEnable k => Sys2Proof.Machine.execCanEnable k s
  | .canDisable k => Sys2Proof.Machine.execCanDisable k s
  | .canRecover k => Sys2Proof.Machine.execCanRecover k s
  | .canPopRx ini k => Sys2Proof.Machine.execCanPopRx ini k s
  | .canFlushRx k => Sys2Proof.Machine.execCanFlushRx k s
  | .dwellExpiry k => Sys2Proof.Machine.execDwellExpiry k s
  | .detSlow k => Sys2Proof.Machine.execDetSlow k s
  | .integrateDone k => Sys2Proof.Machine.execIntegrateDone k s
  | .canFrameReceived dt k back f => Sys2Proof.Machine.execCanFrameReceived dt k back f s
  | .rxmAging => Sys2Proof.Machine.execRxmAging s
  | .txbReq k b busy => Sys2Proof.Machine.execTxbReq k b busy s
  | .txbCancel k b => Sys2Proof.Machine.execTxbCancel k b s
  | .canTxDone k delay => Sys2Proof.Machine.execCanTxDone k delay s
  | .arbitrationLost k => Sys2Proof.Machine.execArbitrationLost k s
  | .canProtocolError k kind dataPhase amount => Sys2Proof.Machine.execCanProtocolError k kind dataPhase amount s
  | .recoveryDone k => Sys2Proof.Machine.execRecoveryDone k s
  | .canStoppingEnd k => Sys2Proof.Machine.execCanStoppingEnd k s
  | .dioEdge dt edges => Sys2Proof.Machine.execDioEdge dt edges s
  | .tsPop n => Sys2Proof.Machine.execTsPop n s
  | .queueActionFire n => Sys2Proof.Machine.execQueueActionFire n s
  | .queuePulseEnd n => Sys2Proof.Machine.execQueuePulseEnd n s
  | .pwmPeriod n => Sys2Proof.Machine.execPwmPeriod n s
  | .pulseTrainPulse n => Sys2Proof.Machine.execPulseTrainPulse n s
  | .readbackFault n => Sys2Proof.Machine.execReadbackFault n s
  | .rbClr n => Sys2Proof.Machine.execRbClr n s
  | .qFlush n => Sys2Proof.Machine.execQFlush n s
  | .adcConversion dt a slot code => Sys2Proof.Machine.execAdcConversion dt a slot code s
  | .adcAverageReturn => Sys2Proof.Machine.execAdcAverageReturn s
  | .tscanDone a codes => Sys2Proof.Machine.execTscanDone a codes s
  | .adcCalibration a offset gain zero => Sys2Proof.Machine.execAdcCalibration a offset gain zero s
  | .branchEnableChange n => Sys2Proof.Machine.execBranchEnableChange n s
  | .insertionTimer n => Sys2Proof.Machine.execInsertionTimer n s
  | .rampComplete n => Sys2Proof.Machine.execRampComplete n s
  | .startTimeout n done => Sys2Proof.Machine.execStartTimeout n done s
  | .fastTrip n eFall busOut => Sys2Proof.Machine.execFastTrip n eFall busOut s
  | .limitEntry n => Sys2Proof.Machine.execLimitEntry n s
  | .faultTimerExpiry n fast eFall busOut => Sys2Proof.Machine.execFaultTimerExpiry n fast eFall busOut s
  | .thermalUpdate n vBus vOut x ta => Sys2Proof.Machine.execThermalUpdate n vBus vOut x ta s
  | .retryWaitExpiry n => Sys2Proof.Machine.execRetryWaitExpiry n s
  | .softOffEnd n => Sys2Proof.Machine.execSoftOffEnd n s
  | .dischargeComplete n eRise => Sys2Proof.Machine.execDischargeComplete n eRise s
  | .dischargeTimeout n => Sys2Proof.Machine.execDischargeTimeout n s
  | .tReonExpiry n => Sys2Proof.Machine.execTReonExpiry n s
  | .busWindowChange n ok => Sys2Proof.Machine.execBusWindowChange n ok s
  | .pgQualified n limit => Sys2Proof.Machine.execPgQualified n limit s
  | .pgHold1s n => Sys2Proof.Machine.execPgHold1s n s
  | .chargePumpLow => Sys2Proof.Machine.execChargePumpLow s
  | .branchMeasurement n vBus vOut x runs => Sys2Proof.Machine.execBranchMeasurement n vBus vOut x runs s
  | .brnOn n => Sys2Proof.Machine.execBrnOn n s
  | .brnOff n => Sys2Proof.Machine.execBrnOff n s
  | .brnClear n => Sys2Proof.Machine.execBrnClear n s
  | .asyFeedB ini v => Sys2Proof.Machine.execAsyFeedB ini v s
  | .asyFeedH ini v => Sys2Proof.Machine.execAsyFeedH ini v s
  | .asyFeedW ini v => Sys2Proof.Machine.execAsyFeedW ini v s
  | .asyStart ini ctx => Sys2Proof.Machine.execAsyStart ini ctx s
  | .asyRetest u ok => Sys2Proof.Machine.execAsyRetest u ok s
  | .asyValWrite ini ctx v => Sys2Proof.Machine.execAsyValWrite ini ctx v s
  | .selfCheck ok yielded => Sys2Proof.Machine.execSelfCheck ok yielded s
  | .selfCheckRetry ok yielded => Sys2Proof.Machine.execSelfCheckRetry ok yielded s
  | .mgmtRead src sport tag op flags addr count tmo origT demand => Sys2Proof.Machine.execMgmtRead src sport tag op flags addr count tmo origT demand s
  | .mgmtWrite src sport tag flags addr count tmo origT data => Sys2Proof.Machine.execMgmtWrite src sport tag flags addr count tmo origT data s
  | .mgmtRmw src sport tag flags addr count tmo origT mask data => Sys2Proof.Machine.execMgmtRmw src sport tag flags addr count tmo origT mask data s
  | .mgmtBwr src tag flags addr count tmo origT data => Sys2Proof.Machine.execMgmtBwr src tag flags addr count tmo origT data s
  | .requestExpired k => Sys2Proof.Machine.execRequestExpired k s
  | .retryMargin dt => Sys2Proof.Machine.execRetryMargin dt s
  | .outboundRead ini addr count => Sys2Proof.Machine.execOutboundRead ini addr count s
  | .outboundWrite ini addr data => Sys2Proof.Machine.execOutboundWrite ini addr data s
  | .mgmtRsp hub tag op st info data => Sys2Proof.Machine.execMgmtRsp hub tag op st info data s
  | .outboundTimeout tag => Sys2Proof.Machine.execOutboundTimeout tag s
  | .prefetchDiscard ini => Sys2Proof.Machine.execPrefetchDiscard ini s
  | .lpMreq level => Sys2Proof.Machine.execLpMreq level s
  | .lpHreqAssert => Sys2Proof.Machine.execLpHreqAssert s
  | .lpRead addr count => Sys2Proof.Machine.execLpRead addr count s
  | .lpWrite addr data => Sys2Proof.Machine.execLpWrite addr data s
  | .lpRmw addr mask data => Sys2Proof.Machine.execLpRmw addr mask data s
  | .lpService => Sys2Proof.Machine.execLpService s
  | .lpComplete tag st data => Sys2Proof.Machine.execLpComplete tag st data s
  | .lpRxfRd => Sys2Proof.Machine.execLpRxfRd s
  | .lpTxfWr h payload => Sys2Proof.Machine.execLpTxfWr h payload s
  | .lpStat => Sys2Proof.Machine.execLpStat s
  | .lpSvcTmo => Sys2Proof.Machine.execLpSvcTmo s
  | .lpProtoErr exchange => Sys2Proof.Machine.execLpProtoErr exchange s
  | .faultRaise raises temp rails bpd => Sys2Proof.Machine.execFaultRaise raises temp rails bpd s
  | .tnkAckWrite k mask same => Sys2Proof.Machine.execTnkAckWrite k mask same s
  | .tnkStatClear k mask same => Sys2Proof.Machine.execTnkStatClear k mask same s
  | .resume => Sys2Proof.Machine.execResume s
  | .ffRearm same => Sys2Proof.Machine.execFfRearm same s
  | .fltRelease same => Sys2Proof.Machine.execFltRelease same s
  | .fltAutoRelease => Sys2Proof.Machine.execFltAutoRelease s
  | .fltReadback t c => Sys2Proof.Machine.execFltReadback t c s
  | .dumpEnd sections partBytes => Sys2Proof.Machine.execDumpEnd sections partBytes s
  | .stocktakeErase half => Sys2Proof.Machine.execStocktakeErase half s
  | .st01Supply env => Sys2Proof.Machine.execSt01Supply env s
  | .st09Ringup lbk spurs tUs => Sys2Proof.Machine.execSt09Ringup lbk spurs tUs s
  | .st10Time limit tUs => Sys2Proof.Machine.execSt10Time limit tUs s
  | .st11Join env => Sys2Proof.Machine.execSt11Join env s
  | .shutdown ini endBit => Sys2Proof.Machine.execShutdown ini endBit s
  | .quiesceEnd => Sys2Proof.Machine.execQuiesceEnd s
  | .lbistEnd misr => Sys2Proof.Machine.execLbistEnd misr s
  | .shutdownRecord tUs => Sys2Proof.Machine.execShutdownRecord tUs s
  | .holdSExpiry => Sys2Proof.Machine.execHoldSExpiry s
  | .pfwNFall => Sys2Proof.Machine.execPfwNFall s
  | .pfwNRise => Sys2Proof.Machine.execPfwNRise s
  | .lcField ini => Sys2Proof.Machine.execLcField ini s
  | .lcReturn ini => Sys2Proof.Machine.execLcReturn ini s
  | .newNonce ini => Sys2Proof.Machine.execNewNonce ini s
  | .jtagIdcode => Sys2Proof.Machine.execJtagIdcode s
  | .jtagBypass => Sys2Proof.Machine.execJtagBypass s
  | .jtagSamplePreload => Sys2Proof.Machine.execJtagSamplePreload s
  | .jtagExtest rstLow => Sys2Proof.Machine.execJtagExtest rstLow s
  | .scrub memc word bad collide pass => Sys2Proof.Machine.execScrub memc word bad collide pass s
  | .telemetryWrite tHub tBpd vbus => Sys2Proof.Machine.execTelemetryWrite tHub tBpd vbus s
  | .cobblerBlockErase blk => Sys2Proof.Machine.execCobblerBlockErase blk s
  | .nvmProgram ini => Sys2Proof.Machine.execNvmProgram ini s
  | .nvmErase ini => Sys2Proof.Machine.execNvmErase ini s
  | .nvmDone ok => Sys2Proof.Machine.execNvmDone ok s
  | .rslOpen session kind size fmt => Sys2Proof.Machine.execRslOpen session kind size fmt s
  | .rslBlock session kind offset len crc progOk => Sys2Proof.Machine.execRslBlock session kind offset len crc progOk s
  | .rslSeal session kind => Sys2Proof.Machine.execRslSeal session kind s
  | .sealComplete kind progOk => Sys2Proof.Machine.execSealComplete kind progOk s
  | .destinationEraseDone kind => Sys2Proof.Machine.execDestinationEraseDone kind s
  | .rslActivate session kmask tick starts hours full => Sys2Proof.Machine.execRslActivate session kmask tick starts hours full s
  | .rslConfirm kmask => Sys2Proof.Machine.execRslConfirm kmask s
  | .rslAbort kmask => Sys2Proof.Machine.execRslAbort kmask s
  | .schedLoad session => Sys2Proof.Machine.execSchedLoad session s
  | .resoleActivation => Sys2Proof.Machine.execResoleActivation s
  | .keyActivation => Sys2Proof.Machine.execKeyActivation s
  | .trialHour => Sys2Proof.Machine.execTrialHour s
  | .rcRead ini addr => Sys2Proof.Machine.execRcRead ini addr s
  | .registerWrite ini size addr v same => Sys2Proof.Machine.execRegisterWrite ini size addr v same s
  | .lockAcquired p => Sys2Proof.Machine.execLockAcquired p s
  | .lockLostInSync p kind => Sys2Proof.Machine.execLockLostInSync p kind s
  | .vddBpdPor => Sys2Proof.Machine.execVddBpdPor s
  | .chargePumpOk => Sys2Proof.Machine.execChargePumpOk s
  | .cellTime => Sys2Proof.Machine.execCellTime s
  | .freeWindowStart p => Sys2Proof.Machine.execFreeWindowStart p s
  | .shaperTokens dt w => Sys2Proof.Machine.execShaperTokens dt w s
  | .ctsChange n asserted => Sys2Proof.Machine.execCtsChange n asserted s
  | .watchdogService => Sys2Proof.Machine.execWatchdogService s
  | .minwElapsed => Sys2Proof.Machine.execMinwElapsed s
  | .joinAttempt => Sys2Proof.Machine.execJoinAttempt s
  | .txTableFullTimeout => Sys2Proof.Machine.execTxTableFullTimeout s

end Sys2Proof.Machine
end

