-- ==== Sys2Proof/Machine/Irq.lean ====
section
/-! DEFINITION. The interrupts to firmware and the pin LP_IRQ_N, which follow from the event and the enable registers
(the table of event and interrupt enable offsets in spec/18_register_summary.md, R323, R326), and the levels of pins that
follow from the start (R407, R411). The fault interrupt, which no register masks, is the output faultIrq (R335). -/

namespace Sys2Proof.Machine

/-- The event register and the enable register of every block that interrupts firmware, by local address. -/
def irqPairs : List (Nat × Nat) :=
  [(SYS_EVT_PFW.addr, SYS_IRQ_EN_EN.addr), (TRN_IRQ_EN_EN.addr - 0x5C, TRN_IRQ_EN_EN.addr),
   (LDG_EVT_STALE.addr, LDG_IRQ_EN_EN.addr), (BELL_EVT_LOCK.addr, BELL_IRQ_EN_EN.addr),
   (TRD_EVT_OVERRUN.addr, TRD_IRQ_EN_EN.addr), (DRV_EVT_STRAY.addr, DRV_IRQ_EN_EN.addr),
   (XB_EVT_OVERLOAD.addr, XB_IRQ_EN_EN.addr)] ++
  ((List.range 48).map fun n => (CHN_IRQ_EN_EN n).addr).map (fun a => (a - 4, a)) ++
  ((List.range 16).map fun k => (CAN_IRQ_EN_EN k).addr).map (fun a => (a - 4, a)) ++
  [(DIO_EVT_RB_FAULT.addr, DIO_IRQ_EN_EN.addr), (ADC_EVT_CAL_FAIL.addr, ADC_IRQ_EN_EN.addr)] ++
  ((List.range 16).map fun n => (BRN_IRQ_EN_EN n).addr).map (fun a => (a - 4, a)) ++
  [(ASY_EVT_SELFCHK.addr, ASY_IRQ_EN_EN.addr), (FRY_EVT_LATE.addr, FRY_IRQ_EN_EN.addr),
   (TNK_EVT_RAISE.addr, TNK_IRQ_EN_EN.addr), (COB_EVT_WEAR.addr, COB_IRQ_EN_EN.addr),
   (RSL_EVT_SEALED.addr, RSL_IRQ_EN_EN.addr), (LP_EVT_CONTEND.addr, LP_IRQ_EN_EN.addr)]

/-- An enabled bit of an event register is set. -/
def irqOf (s : State) (p : Nat × Nat) : Bool := (rdW s p.1 &&& rdW s p.2) != 0

/-- The event registers that interrupt firmware. -/
def irqs (s : State) : List Nat := (irqPairs.filter (irqOf s)).map (·.1)

/-- LP_IRQ_N is low: an enabled bit of LP_EVT is set, or LP_RXQ holds a frame; it is high while the hub domain is in reset
and until ST08 (R323, R326, R407). -/
def lpIrqLow (s : State) : Bool :=
  !s.rst.busy && s.sys.loaded && (irqOf s (LP_EVT_CONTEND.addr, LP_IRQ_EN_EN.addr) || !s.fry.rxq.isEmpty)

/-- The levels of NV_CS_N, NV_CLK and NV_RST_N before ST05 has probed the flash; none from then on, when the pins carry its
protocol (R407, R411). -/
def norPins (s : State) : Option (Bool × Bool × Bool) := if s.sys.st05 then none else some (true, false, !s.rst.fromFull)

/-- SP_MDC is held low: until ST09 (R407). -/
def mdcLow (s : State) : Bool := s.rst.busy || decide (rd s SYS_STEP_STEP < 9)

end Sys2Proof.Machine
end

