-- ==== Sys2Proof/Safety.lean ====
section
/-! DEFINITION. What counts as a safe run, in the terms the statements use: the canonical form of memory, fuses that are
only ever blown, and the queue that loses its front alone. -/

namespace Sys2Proof.Machine

/-- The memory of a state is in its canonical form. -/
def State.Canonical (s : State) : Prop := Memory.wf s.mem = true

/-- One content of the OTP after another (R366, R377): the life-cycle state only advances, RETURN is never left, the
anti-rollback count never falls, a revoked key slot stays revoked, a valid one stays valid with its key until RETURN. -/
structure Otp.Advances (o p : Otp) : Prop where
  lc : o.lc ≤ lcReturn → o.lc ≤ p.lc ∧ p.lc ≤ lcReturn
  arb : o.arb ≤ p.arb
  revoked : ∀ k, bitOf o.revoked k = true → bitOf p.revoked k = true
  valid : ∀ k, bitOf o.valid k = true → bitOf p.valid k = true ∨ p.lc = lcReturn
  hash : ∀ k, bitOf o.valid k = true ∨ o.lc = lcReturn → tget (fun _ => 0) p.hash k = tget (fun _ => 0) o.hash k

/-- The cells of two states agree outside a list of addresses. -/
def cellsBut (l : List Nat) (s t : State) : Prop := ∀ a, a ∉ l → cellAt t a = cellAt s a

/-- Every byte of memory reads alike in two states. -/
def memSame (s t : State) : Prop := ∀ a, memGet t a = memGet s a

/-- The parts of a state. -/
inductive Part
  | regs | mem | clk | wide | rst | ports | trn | ldg | xb | fry | bell | ppsOut | ppsRise | trd | drv | chns | stg | stgTick | stgOld
  | cans | rxmLast | rxmAged | asyNext | asyRetry | bad | lines | quads | adc | brns | tnk | sys | otp | act | rsl | pending | fresh | out
  deriving DecidableEq, Repr

/-- A part is alike in two states. -/
def Part.same (s t : State) : Part → Prop
  | .regs => t.regs = s.regs
  | .mem => t.mem = s.mem
  | .clk => t.clk = s.clk
  | .wide => t.wide = s.wide
  | .rst => t.rst = s.rst
  | .ports => t.ports = s.ports
  | .trn => t.trn = s.trn
  | .ldg => t.ldg = s.ldg
  | .xb => t.xb = s.xb
  | .fry => t.fry = s.fry
  | .bell => t.bell = s.bell
  | .ppsOut => t.ppsOut = s.ppsOut
  | .ppsRise => t.ppsRise = s.ppsRise
  | .trd => t.trd = s.trd
  | .drv => t.drv = s.drv
  | .chns => t.chns = s.chns
  | .stg => t.stg = s.stg
  | .stgTick => t.stgTick = s.stgTick
  | .stgOld => t.stgOld = s.stgOld
  | .cans => t.cans = s.cans
  | .rxmLast => t.rxmLast = s.rxmLast
  | .rxmAged => t.rxmAged = s.rxmAged
  | .asyNext => t.asyNext = s.asyNext
  | .asyRetry => t.asyRetry = s.asyRetry
  | .bad => t.bad = s.bad
  | .lines => t.lines = s.lines
  | .quads => t.quads = s.quads
  | .adc => t.adc = s.adc
  | .brns => t.brns = s.brns
  | .tnk => t.tnk = s.tnk
  | .sys => t.sys = s.sys
  | .otp => t.otp = s.otp
  | .act => t.act = s.act
  | .rsl => t.rsl = s.rsl
  | .pending => t.pending = s.pending
  | .fresh => t.fresh = s.fresh
  | .out => t.out = s.out

/-- Every part but those listed is alike in two states. -/
def partsBut (l : List Part) (s t : State) : Prop := ∀ p, p ∉ l → p.same s t

/-- Only registers, at the addresses listed, have changed. -/
def regsOnly (l : List Nat) (s t : State) : Prop := partsBut [.regs] s t ∧ cellsBut l s t

/-- Only registers, at the addresses listed, and what branch n has beside its registers have changed. -/
def brnFrame (n : Nat) (l : List Nat) (s t : State) : Prop :=
  partsBut [.regs, .brns] s t ∧ cellsBut l s t ∧ ∀ m, m ≠ n → t.brn m = s.brn m

/-- Only registers, at the addresses listed, and what discrete line n has beside its registers have changed. -/
def lineFrame (n : Nat) (l : List Nat) (s t : State) : Prop :=
  partsBut [.regs, .lines] s t ∧ cellsBut l s t ∧ ∀ m, m ≠ n → t.line m = s.line m

/-- Only registers, at the addresses listed, and what serial channel n has beside its registers have changed. -/
def chnFrame (n : Nat) (l : List Nat) (s t : State) : Prop :=
  partsBut [.regs, .chns] s t ∧ cellsBut l s t ∧ ∀ m, m ≠ n → t.chn m = s.chn m

/-- Only registers, at the addresses listed, and what CAN controller n has beside its registers have changed. -/
def canCtlFrame (n : Nat) (l : List Nat) (s t : State) : Prop :=
  partsBut [.regs, .cans] s t ∧ cellsBut l s t ∧ ∀ m, m ≠ n → t.can m = s.can m

/-- Only registers, at the addresses listed, and what ring port n has beside its registers have changed. -/
def portFrame (n : Nat) (l : List Nat) (s t : State) : Prop :=
  partsBut [.regs, .ports] s t ∧ cellsBut l s t ∧ ∀ m, m ≠ n → t.port m = s.port m

/-- Only registers, at the addresses listed, and what ring port n has beside its registers have changed, and what the ring's other
port transmits. -/
def ringFrame (n : Nat) (l : List Nat) (s t : State) : Prop :=
  partsBut [.regs, .ports] s t ∧ cellsBut l s t ∧ (∀ m, m ≠ n → m ≠ facing n → t.port m = s.port m) ∧
  t.port (facing n) = { s.port (facing n) with tx := txOf t (facing n) }

/-- What a reset of both domains with cause c leaves (R10, R20, R22): every register cell outside VDD_AON at its reset value, the
cause and START of SYS_STATE apart, every memory but the flash empty, the fuses, the activation request and the queue alike. -/
structure fullyReset (c : Nat) (s t : State) : Prop where
  cause : rd t SYS_RST_CAUSE_CAUSE = c ∧ rd t SYS_RST_CAUSE_ALSO = 0 ∧ rd t SYS_STATE_STATE = stStart
  cells : ∀ a, a ∉ [SYS_RST_CAUSE_CAUSE.addr, SYS_STATE_STATE.addr, SYS_STEP_STEP.addr] →
    cellAt t a = if domOf a = .aon then cellAt s a else cellReset a
  mem : ∀ a, memGet t a = if norBase ≤ a ∧ a < norBase + norSize then memGet s a else unlisted a
  kept : t.otp = s.otp ∧ t.act = s.act ∧ t.out = s.out ∧ t.pending = s.pending ∧ t.fresh = s.fresh
  empty : t.ports = [] ∧ t.brns = [] ∧ t.chns = [] ∧ t.cans = [] ∧ t.stg = [] ∧ t.trn = {} ∧ t.ldg = {} ∧ t.xb = {} ∧ t.drv = {} ∧
    t.bell = {} ∧ t.rsl = {} ∧ t.clk.ft = 0
  lines : ∀ n < 96, t.line n = { pad := (s.line n).pad }

/-- A run is safe as long as every step answers a next state. -/
def safeFor : Nat → State → Prop
  | 0, _ => True
  | n + 1, s => ∃ t, step s = .next t ∧ safeFor n t

end Sys2Proof.Machine
end

