-- ==== Sys2Proof/Certificates/Slice0/Obligations.lean ====
section
/-! DEFINITION. The statements for the provers, one definition each, family by family. A statement gives the next state of a command
by naming what its result holds, register by register, and what it leaves alike (Sys2Proof/Safety.lean: partsBut, cellsBut, regsOnly). -/

open Sys2Proof Sys2Proof.Machine

/-- What a step does. The command at the front of the queue is taken off and runs on the state with the rest of the queue. With an empty queue the block idles for one CLK_CORE cycle, in which Fabric Time and the cycle count advance and nothing
else changes; while REFCLK has failed, or a full reset holds the block, no cycle passes (R18, R114, R151, R421). That a step of the model is one cycle is the model's choice, log entry 42. A command that a word spells is put in front of the queue. -/
def Obligations.StepRunsTheFrontCommand : Prop :=
  (∀ (c : Instr) (rest : List Instr) (s : State), s.pending = c :: rest → step s = exec c { s with pending := rest }) ∧
  (∀ s : State, s.pending = [] → s.rst.refFail = true ∨ (s.rst.busy = true ∧ s.rst.full = true) → step s = .next s) ∧
  (∀ s : State, s.pending = [] → s.rst.refFail = false → s.rst.busy = false ∨ s.rst.full = false → ∃ t, step s = .next t ∧ t.clk.cyc = s.clk.cyc + 1 ∧ partsBut [.clk] s t) ∧
  ∀ (s : State) (nbits w : Nat), (∀ c, Sys2Proof.decodeTableWord nbits w = some c → step (s.withFetchWord nbits w) = exec c s) ∧
    (Sys2Proof.decodeTableWord nbits w = none → s.withFetchWord nbits w = s)

/-- Over every command and every state (R366, R377, R382). A step always answers a next state: no command stops the block. Where memory was in its canonical form it still is. The OTP only advances: the life-cycle state never goes back
and RETURN is never left, the anti-rollback count never falls, a revoked key slot stays revoked, a valid one stays valid with its key until RETURN. No command enters or leaves the queue but the one at its front. The count of free values used never falls. -/
def Obligations.EveryStepKeepsMemoryAndFuses : Prop :=
  (∀ s : State, ∃ t, step s = .next t ∧ (s.Canonical → t.Canonical) ∧ s.otp.Advances t.otp ∧ t.pending = s.pending.tail ∧ s.fresh ≤ t.fresh) ∧
  (∀ (c : Instr) (s : State), ∃ t, exec c s = .next t ∧ t.pending = s.pending) ∧
  ∀ (n : Nat) (s : State), safeFor n s

/-- State.reset, the block at the release of a power-on reset. Its memory is canonical and lists nothing, so that every byte reads as an unlisted one; its queue is empty and nothing has left it. Every register cell holds its reset value
(R10): SYS_STATE reads START (R351), a trigger unit TARGET 127 and WIDTH 1, the constant special word 7 of the Treadle all ones (R147), and the fields whose value the spec gives no number for read 0 by the model's choice (log entries 10 to 12). No reset is in progress. No line is driven, no branch is frozen. -/
def Obligations.ResetLeavesItsValues : Prop :=
  State.reset.Canonical ∧ State.reset.pending = [] ∧ State.reset.out = [] ∧ State.reset.rst.busy = false ∧ (∀ a, memGet State.reset a = unlisted a) ∧ (∀ a, cellAt State.reset a = cellReset a) ∧
  hubState State.reset = stStart ∧ rd State.reset (TRD_SPW_W 7) = 2 ^ 32 - 1 ∧ (∀ f : Fld, f.addr ≠ SYS_STATE_STATE.addr → f.addr ≠ (TRD_SPW_W 7).addr → (f.addr < 0x4004_0400 ∨ 0x4004_0600 ≤ f.addr) → rd State.reset f = 0) ∧
  (∀ k < 32, rd State.reset (BELL_TRG_CTRL_TARGET k) = 127 ∧ rd State.reset (BELL_TRG_CTRL_WIDTH k) = 1) ∧
  (∀ n, (State.reset.line n).drive = none ∧ (State.reset.line n).queue = [] ∧ (State.reset.brn n).frozen = none) ∧ State.reset.otp = { lc := lcBlank, valid := 0, revoked := 0, hash := [], arb := 0 }

/-- Accesses of an initiator to its local addresses (R5 to R7, R28, R111, R160, R387 to R393). An access of a size not allowed answers TARGET_ERR and does nothing else; one of Treadle storage in a tick waits for the end of P4, and in P4 itself runs at its end, and a read of the
flash window for the flash; every other is carried out and answered at once. A write of a register gives each of its fields the value of its access type, and leaves the fields it does not name; RWL fields stay where they are locked, and a
write that would change one ends LOCKED. A 1 written to a W1C bit that the hardware sets in the same cycle is lost, and the event is kept (R8). A reserved word reads 0 and ignores a write. A word with an uncorrectable error reads TARGET_ERR. The low word of a 64-bit register latches the high one for its initiator alone, and its write is
staged for its initiator until the high word is written. -/
def Obligations.LocalAccessesFollowTheMap : Prop :=
  (∀ (s : State) (ini size a v same : Nat), s.rst.busy = false → a < 2 ^ 32 →
    (sizeOk ini 4 a = decide (a % 4 = 0)) ∧ (2 ≤ ini → size ≠ 4 → sizeOk ini size a = false) ∧ (isReg a = true ∨ isOutbound a = true → size ≠ 4 → sizeOk ini size a = false) ∧
    (sizeOk ini size a = false → exec (.registerWrite ini size a v same) s = .next (s.emit (.busRsp ini scTargetErr 0))) ∧
    (a % 4 ≠ 0 → ∀ c, c = .rcRead ini a ∨ c = .wideLowRead ini a ∨ c = .wideLowWrite ini a v → exec c s = .next (s.emit (.busRsp ini scTargetErr 0))) ∧
    (sizeOk ini size a = true → isTrdStore a = true → phaseNow s ≠ 0 →
      (rd s TRD_STATUS_PHASE = 4 → exec (.registerWrite ini size a v same) s = .next (cpuDo (toCycle s (tickEnd s)) ini size a (some (keepEvents a v same)))) ∧
      (rd s TRD_STATUS_PHASE ≠ 4 → ∃ y, y = { s.trd with waiting := s.trd.waiting ++ [.cpu ini size a (some (keepEvents a v same))] } ∧ exec (.registerWrite ini size a v same) s = .next { s with trd := y })) ∧
    (a % 4 = 0 → isTrdStore a = true → phaseNow s ≠ 0 → rd s TRD_STATUS_PHASE ≠ 4 → ∃ y, y = { s.trd with waiting := s.trd.waiting ++ [.cpu ini 4 a none] } ∧ exec (.rcRead ini a) s = .next { s with trd := y }) ∧
    (a % 4 = 0 → isNor a = true → s.sys.nvm ≠ none → ∃ y, y = { s.sys with waiting := s.sys.waiting ++ [.cpu ini 4 a none] } ∧ exec (.rcRead ini a) s = .next { s with sys := y }) ∧
    (sizeOk ini size a = true → (isTrdStore a = false ∨ phaseNow s = 0) →
      ∀ t c, busWrite s ini (a / 4 * 4) (keepEvents a v same % 2 ^ (8 * size) * 2 ^ (8 * (a % 4))) ((2 ^ (8 * size) - 1) * 2 ^ (8 * (a % 4))) = (t, c) →
        exec (.registerWrite ini size a v same) s = .next (t.emit (.busRsp ini (if c = scTargetErr then scTargetErr else if 2 ≤ ini then c else scOk) 0))) ∧
    (a % 4 = 0 → (isTrdStore a = false ∨ phaseNow s = 0) → (isNor a = false ∨ s.sys.nvm = none) → ∀ t c x, busRead s ini a = (t, c, x) →
      exec (.rcRead ini a) s = .next (t.emit (.busRsp ini (if c = scTargetErr then scTargetErr else scOk) (x % 2 ^ 32)))) ∧
    (isReg a = true → wordAt a = none → busWrite s ini a v (2 ^ 32 - 1) = (s, scOk) ∧ (a ≠ TRN_LAYOUT_DATA_DATA.addr → a ≠ CHN_PM_DATA_DATA.addr → busRead s ini a = (s, scOk, 0))) ∧
    (isReg a = false → isAlias a = false → (badWord s a = true → busRead s ini a = (s, scTargetErr, 0)) ∧
      (badWord s a = false → memThere a = true ∨ isNor a = true → busRead s ini a = (s, scOk, memWord s a)))) ∧
  (∀ (l : List FldSpec) (f : FldSpec) (old v mask : Nat) (lk : Bool), l.Pairwise (fun x y => x.lo + x.w ≤ y.lo ∨ y.lo + y.w ≤ x.lo) → f ∈ l →
    (bits mask f.lo f.w = 0 → bits (fieldsWritten old v mask lk l) f.lo f.w = bits old f.lo f.w) ∧
    (bits mask f.lo f.w = 2 ^ f.w - 1 →
      ((f.acc = .rw ∨ (f.acc = .rwl ∧ lk = false)) → bits (fieldsWritten old v mask lk l) f.lo f.w = bits v f.lo f.w) ∧
      (f.acc = .w1c → bits (fieldsWritten old v mask lk l) f.lo f.w = bits old f.lo f.w &&& ((2 ^ f.w - 1) ^^^ bits v f.lo f.w)) ∧
      (f.acc = .w1s → bits (fieldsWritten old v mask lk l) f.lo f.w = bits old f.lo f.w ||| bits v f.lo f.w)) ∧
    ((f.acc = .ro ∨ f.acc = .rc ∨ f.acc = .wo ∨ (f.acc = .rwl ∧ lk = true)) → bits (fieldsWritten old v mask lk l) f.lo f.w = bits old f.lo f.w)) ∧
  (∀ (s : State) (r : RegSpec) (cell v mask : Nat), ∃ t c, regWrite s r cell v mask = (t, c) ∧ (cellAt t cell).toNat = fieldsWritten (cellAt s cell).toNat v mask (lockedDom s r.dom) r.flds % 2 ^ 64 ∧ regsOnly [cell] s t ∧
    (c = scLocked ↔ lockedDom s r.dom = true ∧ ∃ f ∈ r.flds, f.acc = .rwl ∧ bits (cellAt s cell).toNat f.lo f.w &&& bits mask f.lo f.w ≠ bits v f.lo f.w &&& bits mask f.lo f.w)) ∧
  ∀ (s : State) (ini a v : Nat) (r : RegSpec), s.rst.busy = false → a < 2 ^ 32 → a % 4 = 0 → isReg a = true → isTrdStore a = false → a ≠ TRN_LAYOUT_DATA_DATA.addr → a ≠ CHN_PM_DATA_DATA.addr → a ≠ BELL_FT_FRAC_FRAC.addr →
    r.wide = true → isRecord a = false → wordAt a = some (r, a, 0) →
    (∃ (t : State) (x : Nat), exec (.wideLowRead ini a) s = .next (t.emit (.busRsp ini scOk x)) ∧ (t.wide.latch.find? (·.1 == latchKey ini a)).map (·.2.toNat) = some (cellGet (seenCell s a).1 32 32) ∧
      (∀ k, k ≠ latchKey ini a → tget (fun _ => 0) t.wide.latch k = tget (fun _ => 0) s.wide.latch k) ∧ partsBut [.regs, .wide, .fresh] s t) ∧
    (trgCell a = false → ∃ t : State, exec (.wideLowWrite ini a v) s = .next (t.emit (.busRsp ini scOk 0)) ∧ (t.wide.staged.find? (·.1 == latchKey ini a)).map (·.2.toNat) = some (v % 2 ^ 32) ∧
      (∀ k, k ≠ latchKey ini a → tget (fun _ => 0) t.wide.staged k = tget (fun _ => 0) s.wide.staged k) ∧ partsBut [.wide] s t)

/-- Resets of both domains, from a hub that is in no reset (R10, R20, R22, R27): power-on reset, SYS_RST_N low for 10 µs, and a
failure of REFCLK return every register cell outside VDD_AON to its reset value, and every memory but the flash; fuses, the
activation request and the flash stay; the cause is recorded with no other. Power-on reset and the pin's pulse are whole commands
of this model, so they end released, in START at ST01, where REFCLK is good (log entry 43); a REFCLK failure holds the hub in reset
until REFCLK is back, and a hub-domain reset holds it for 10 µs: the release begins ST01 and leaves the rest as the reset left it.
A power-on reset after VDD_AON has been lost also clears the verdict's VALID and the activation request.
A pulse of less than 10 µs may be ignored: a free value decides. -/
def Obligations.FullResetsAndTheirRelease : Prop :=
  ∀ (s : State),
    (s.rst.busy = false → s.rst.refFail = false →
      (∃ t, exec (.powerOnReset false) s = .next t ∧ fullyReset 0 s t ∧ t.rst.busy = false ∧ t.rst.fromFull = true ∧ rd t SYS_STEP_STEP = 1) ∧
      (∃ t, exec (.powerOnReset true) s = .next t ∧ t.rst.busy = false ∧ rd t SYS_STEP_STEP = 1 ∧ rd t SYS_VERDICT_VALID = 0 ∧ t.act = none) ∧
      ∀ ns, 10000 ≤ ns →
        ∃ t, exec (.sysRstN ns) s = .next t ∧ fullyReset 1 s t ∧ t.rst.busy = false ∧ t.rst.fromFull = true ∧ rd t SYS_STEP_STEP = 1) ∧
    (s.rst.busy = false → ∃ t, exec .refclkFailure s = .next t ∧ fullyReset 6 s t ∧ t.rst.busy = true ∧ t.rst.full = true ∧
      t.rst.refFail = true ∧ rd t SYS_STEP_STEP = 0) ∧
    (∀ ns, ns < 10000 → exec (.sysRstN ns) s =
      .next (if freeOf s 1 = 1 then releaseIfClock (orderReset s.used 1) else s.used)) ∧
    (s.rst.busy = true → s.rst.refFail = true → ∃ t, exec .refclkRecovery s = .next t ∧ t.rst.busy = false ∧ t.rst.refFail = false ∧
      t.rst.fromFull = s.rst.full ∧ t.rst.full = false ∧ t.rst.causes = 0 ∧ rd t SYS_STEP_STEP = 1 ∧ t.sys.shut = .none ∧ t.clk.cyc = 0 ∧
      t.clk.ft = s.clk.ft ∧ partsBut [.regs, .rst, .clk, .sys] s t ∧ cellsBut [SYS_STEP_STEP.addr] s t) ∧
    (s.rst.busy = true → s.rst.refFail = false → s.rst.heldEnd = false → s.sys.shut ≠ .lbist → s.sys.shut ≠ .record →
      ∃ t, exec .hubDomainRelease s = .next t ∧ t.rst.busy = false ∧ t.rst.refFail = false ∧
      t.rst.fromFull = s.rst.full ∧ t.rst.full = false ∧ t.rst.causes = 0 ∧ rd t SYS_STEP_STEP = 1 ∧ t.sys.shut = .none ∧ t.clk.cyc = 0 ∧
      t.clk.ft = (if s.rst.full = true then s.clk.ft else (advance s (6250 - s.clk.cyc)).clk.ft) ∧
      partsBut [.regs, .rst, .clk, .sys] s t ∧ cellsBut [SYS_STEP_STEP.addr] s t)

/-- The core watchdog (R26). The first expiry raises CORE_WDOG with the pairs that expired; a service takes its cause away. The
second expiry, with no service in between, resets the hub domain with cause WDOG (R20 to R24): every register cell of the hub domain
that neither the BPD nor the FLT pad latch holds reads its reset value; below the discrete lines' block every other cell stays,
except the cause and state of the reset and JOINED; every line takes its safe value with its queue and FIFO empty; every branch
that is not LATCHED_OFF or FAILED has been turned off, where the link stands; the FLT pair is in fault; the memories of the hub domain read as nothing has written
them, all other memory, the ring ports, fuses and the activation request stay; and the own slots are kept for marking. -/
def Obligations.WatchdogResetsTheHubDomain : Prop :=
  ∀ (s : State), s.rst.busy = false →
    (∀ pairs, ∃ t, exec (.watchdogFirstExpiry pairs) s = .next (raise t 121 (pairs % 4)) ∧ t.tnk = { s.tnk with wdog := true } ∧
      partsBut [.tnk] s t) ∧
    (∃ t, exec .watchdogService s = .next t ∧ t.tnk = { s.tnk with wdog := false } ∧ partsBut [.tnk] s t) ∧
    (s.tnk.wdog = true → ∃ t, exec .watchdogSecondExpiry s = .next t ∧
      t.rst.busy = true ∧ t.rst.full = false ∧ t.rst.hold = false ∧ rd t SYS_RST_CAUSE_CAUSE = 3 ∧ rd t SYS_STATE_STATE = 1 ∧
      (∀ a, domOf a = .hub → heldByBpd a = false → heldByPad a = false →
        a ∉ [SYS_RST_CAUSE_CAUSE.addr, SYS_STATE_STATE.addr] → cellAt t a = cellReset a) ∧
      (∀ a, a < 0x400C0000 → domOf a ≠ .hub → a ∉ [SYS_RST_CAUSE_CAUSE.addr, SYS_STATE_STATE.addr, TRN_STATUS_JOINED.addr] →
        cellAt t a = cellAt s a) ∧
      rd t TRN_STATUS_JOINED = 0 ∧ rd t TNK_FLT_STATE = 1 ∧
      (∀ n, n < 96 → (t.line n).drive = dioSafeLevel s n ∧ (t.line n).queue = [] ∧ (t.line n).fifo = []) ∧
      (s.rst.d2dBpdLost = false → ∀ n, n < 16 → rd s (BRN_STAT_STATE n) ≠ 7 → rd s (BRN_STAT_STATE n) ≠ 8 →
        rd t (BRN_STAT_STATE n) = 5) ∧
      (s.sys.loaded = true → t.trn.own = ownSlots s) ∧
      (∀ a, memGet t a = if hubMemory a = true then unlisted a else memGet s a) ∧ t.ports = s.ports ∧ t.clk.ft = s.clk.ft ∧ t.otp = s.otp ∧ t.act = s.act ∧ t.pending = s.pending ∧
      t.out = s.out ∧ t.chns = [] ∧ t.cans = [] ∧ t.quads = [] ∧ t.stg = [] ∧ t.drv = {} ∧ t.xb = {} ∧ t.ldg = {} ∧
      t.fry = { mreq := s.fry.mreq, csRise := t.fry.csRise } ∧ t.trd = {})

/-- Leaving service (R181, R236, R244, R272, R335, R351): the one operation by which the hub enters HALTED, SAFE, RESTING or DUMP. SYS_STATE takes the new state; every discrete line that no readback fault has released is driven at its safe value, or not
at all, with an empty queue and no pulse; every running channel and every controller between detection and recovery goes to STOPPING, and no other channel or controller changes state; the Drover's records and its pending
table are freed and its trigger units disarmed; the hold of an activation ends. Memory, the ring ports, the clock, fuses, CAN buffers, Tinker and the queue of commands stay. -/
def Obligations.LeavingServiceStopsEverything : Prop :=
  ∀ (s : State) (st : Nat), st < 16 → ∃ t, enterStill s st = t ∧ rd t SYS_STATE_STATE = st ∧ t.rst = { s.rst with hold := false, holdToP3 := false } ∧
    (∀ n < 96, (t.line n).drive = (if rd s (DIO_STAT_RELEASED n) = 1 then none else dioSafeLevel s n) ∧ (t.line n).queue = [] ∧ (t.line n).pulseEnd = none) ∧
    (∀ n < 48, rd t (CHN_STAT_STATE n) = if rd s (CHN_STAT_STATE n) = cRun then cStopping else rd s (CHN_STAT_STATE n)) ∧
    (∀ c < 16, rd t (CAN_STAT_STATE c) = if nDetect ≤ rd s (CAN_STAT_STATE c) ∧ rd s (CAN_STAT_STATE c) ≤ nRecovering then nStopping else rd s (CAN_STAT_STATE c)) ∧
    (∀ a, isRecord a = true → cellAt t a = cellReset a) ∧ t.drv.wins = [] ∧ t.drv.fires = [] ∧ t.drv.waiting = [] ∧
    (∀ k < 32, rd s (BELL_TRG_CTRL_OWNER k) = ownDrover → rd t (BELL_TRG_CTRL_ARMED k) = 0) ∧
    partsBut [.regs, .rst, .brns, .lines, .chns, .stg, .stgTick, .stgOld, .drv] s t

/-- Erases of the flash in the background (R347, R359, R365, R370, R394, R412). An erase of a block leaves each of its 64 KiB at what an unlisted byte reads as (0xFF in the flash, log entry 13) and every other byte of memory as
it was, counts the erase from NOR offset 0x0190_0000 on, and sets WEAR at the limit. The half that does not hold the newest complete dump is erased from ST14 on and becomes READY; the half that holds it is kept, and so is a block of the
Stocktake or the block of the newest Start Log record. While PFW_N is low the erase waits, and it proceeds when PFW_N rises. -/
def Obligations.FlashBlocksAreErased : Prop :=
  (∀ (s : State) (off : Nat), ∃ t, eraseBlock s off = t ∧
    (∀ b, memGet t b = if norBase + off / 0x1_0000 * 0x1_0000 ≤ b ∧ b < norBase + off / 0x1_0000 * 0x1_0000 + 0x1_0000 then unlisted b else memGet s b) ∧
    (∀ k, wearOf t k = if 0x190_0000 ≤ off ∧ k = (off - 0x190_0000) / 0x1_0000 ∧ k < 624 then wearOf s k + 1 else wearOf s k) ∧
    (∀ k, 0x190_0000 ≤ off → k = (off - 0x190_0000) / 0x1_0000 → k < 624 → wearOf s k + 1 = wearLimit s → rd t COB_EVT_WEAR = 1) ∧
    (off < 0x190_0000 → t.regs = s.regs) ∧ t.sys.pfwLow = s.sys.pfwLow ∧ partsBut [.regs, .mem, .sys] s t ∧ cellsBut [COB_EVT_WEAR.addr] s t) ∧
  (∀ (s : State) (half : Nat), s.rst.busy = false →
    (s.sys.pfwLow = true → ∃ y, y = { s.sys with held := s.sys.held ++ [.stocktakeErase half] } ∧ exec (.stocktakeErase half) s = .next { s with sys := y }) ∧
    (s.sys.pfwLow = false → (s.tnk.st14 = false ∨ 2 ≤ half ∨ (rd s TNK_DUMP_STAT_LAST_VALID = 1 ∧ rd s TNK_DUMP_STAT_LAST_HALF = half)) → exec (.stocktakeErase half) s = .next s) ∧
    (s.sys.pfwLow = false → s.tnk.st14 = true → half < 2 → ¬ (rd s TNK_DUMP_STAT_LAST_VALID = 1 ∧ rd s TNK_DUMP_STAT_LAST_HALF = half) → ∃ t, exec (.stocktakeErase half) s = .next t ∧
      (∀ b, memGet t b = if norBase + dumpBase half ≤ b ∧ b < norBase + dumpBase half + dumpSize then unlisted b else memGet s b) ∧
      (∀ h < 2, rdBit t TNK_DUMP_STAT_READY h = if h = half then true else rdBit s TNK_DUMP_STAT_READY h) ∧
      partsBut [.regs, .mem, .sys] s t ∧ cellsBut [COB_EVT_WEAR.addr, TNK_DUMP_STAT_READY.addr] s t)) ∧
  (∀ (s : State) (blk : Nat), s.rst.busy = false →
    (s.sys.pfwLow = true → ∃ y, y = { s.sys with held := s.sys.held ++ [.cobblerBlockErase blk] } ∧ exec (.cobblerBlockErase blk) s = .next { s with sys := y }) ∧
    (s.sys.pfwLow = false → (624 ≤ blk ∨ (144 ≤ blk ∧ blk < 208) ∨ (∃ k, logLast s = some k ∧ blockOf (recOff k) = some blk)) → exec (.cobblerBlockErase blk) s = .next s) ∧
    (s.sys.pfwLow = false → blk < 144 ∨ (208 ≤ blk ∧ blk < 624) → (∀ k, logLast s = some k → blockOf (recOff k) ≠ some blk) →
      exec (.cobblerBlockErase blk) s = .next (eraseBlock s (0x190_0000 + 0x1_0000 * blk)))) ∧
  ∀ s : State,
    (∃ y, y = { s.sys with pfwLow := false, held := [] } ∧ (s.rst.busy = true → exec .pfwNRise s = .next { s with sys := y }) ∧
      (s.rst.busy = false → exec .pfwNRise s = .next (s.sys.held.foldl heldRun { s with sys := y }))) ∧
    (∀ (t : State) (half blk : Nat), heldRun t (.stocktakeErase half) = stocktakeErase half t ∧ heldRun t (.cobblerBlockErase blk) = cobblerErase blk t)

/-- The orderly shutdown (R314, R327, R352, R353, R357, R359, R361, R362, R364, R365). The command is answered RESTING in RESTING and DUMP, DENIED in JOINING, RETRY in START, and is otherwise accepted: answered OK, it keeps END and HOLD_S,
ends the waiting accesses of other hubs RESTING, and takes the hub to RESTING, or with PFW_N low ends at once as ABORT. The quiesce ends in a hub-domain reset of cause LBIST, or in a reset adds that cause. LBIST leaves, after 40 ms, PASS or FAIL and its signature with CONSUMED 0. The record goes to the next free place
of the Start Log and to no other byte, its verdict byte among those programmed; with PFW_N low there is none. With END the hub starts, without it the hub stays in reset until HOLD_S, where it is not 0, has passed. PFW_N low sets its event,
and abandons an LBIST as ABORT. -/
def Obligations.ShutdownRunsItsSequence : Prop :=
  (∀ (s : State) (ini : Nat) (e : Bool), s.rst.busy = false →
    ((rd s SYS_STATE_STATE = stResting ∨ rd s SYS_STATE_STATE = stDump) → exec (.shutdown ini e) s = .next (answerMgmt s ini scResting)) ∧
    (rd s SYS_STATE_STATE = stJoining → exec (.shutdown ini e) s = .next (answerMgmt s ini scDenied)) ∧
    (rd s SYS_STATE_STATE = stStart → exec (.shutdown ini e) s = .next (answerMgmt s ini scRetry)) ∧
    (rd s SYS_STATE_STATE ∉ [stResting, stDump, stJoining, stStart] → ∃ w t u, w = restWaiting (answerMgmt s ini scOk) ∧
      t.sys = { w.sys with shut := .quiesce, shutEnd := e, shutHold := rd w SYS_SHUT_HOLD_S, shutAt := ftNs w } ∧ partsBut [.sys] w t ∧ u = enterStill t stResting ∧ (u.sys.pfwLow = false → exec (.shutdown ini e) s = .next u) ∧
      (u.sys.pfwLow = true → exec (.shutdown ini e) s = .next (shutAbort u)))) ∧
  (∀ s : State, ∃ t, t = orderReset s rLbist ∧ ∃ u, shutAbort s = u ∧ rd u SYS_VERDICT_RESULT = 3 ∧ rd u SYS_VERDICT_CONSUMED = 0 ∧ rd u SYS_VERDICT_VALID = 1 ∧
    u.sys = { t.sys with shut := .ended, shutAt := ftNs t } ∧ u.rst = { t.rst with heldEnd := !t.sys.shutEnd } ∧ partsBut [.regs, .sys, .rst] t u ∧ cellsBut [SYS_VERDICT_RESULT.addr] t u) ∧
  (∀ s : State, s.rst.busy = false →
    ((s.sys.shut ≠ .quiesce ∨ rd s SYS_STATE_STATE ≠ stResting) → exec .quiesceEnd s = .next s) ∧
    (s.sys.shut = .quiesce → rd s SYS_STATE_STATE = stResting → s.sys.pfwLow = true → exec .quiesceEnd s = .next (shutAbort s)) ∧
    (s.sys.shut = .quiesce → rd s SYS_STATE_STATE = stResting → s.sys.pfwLow = false → ∃ t y, t = orderReset s rLbist ∧ y = { t.sys with shut := .lbist, shutAt := ftNs t } ∧
      exec .quiesceEnd s = .next { t with sys := y })) ∧
  (∀ s : State, s.rst.busy = true → exec .quiesceEnd s = .next (orderReset s rLbist)) ∧
  (∀ (s : State) (misr : BitVec 32),
    (s.rst.busy = true → s.sys.shut = .lbist → ∃ t, exec (.lbistEnd misr) s = .next t ∧ rd t SYS_VERDICT_RESULT = (if misr = Config.romMisr then 1 else 2) ∧
      rd t SYS_VERDICT_CONSUMED = 0 ∧ rd t SYS_VERDICT_VALID = 1 ∧ rd t SYS_VERDICT_MISR = misr.toNat ∧ t.sys = { s.sys with shut := .record } ∧ t.clk = (advanceTo s (s.sys.shutAt + 40000000)).clk ∧ partsBut [.regs, .sys, .clk] s t ∧
      cellsBut [SYS_VERDICT_RESULT.addr, SYS_VERDICT_MISR.addr] s t) ∧
    ((s.rst.busy = false ∨ s.sys.shut ≠ .lbist) → exec (.lbistEnd misr) s = .next s)) ∧
  (∀ (s : State) (tUs : Nat), s.rst.busy = true → s.sys.shut = .record → ∃ u t, t = shutDone u ∧ t.sys = { s.sys with shut := .ended, shutAt := ftNs s } ∧ t.rst = { s.rst with heldEnd := !s.sys.shutEnd } ∧
    partsBut [.mem, .sys, .rst] s t ∧
    ((s.sys.pfwLow = true ∨ logNext s = none) → memSame s t) ∧
    (s.sys.pfwLow = false → ∀ k, logNext s = some k → (∀ b, b < norBase + recOff k ∨ norBase + recOff k + 256 ≤ b → memGet t b = memGet s b) ∧
      memGet t (norBase + recOff k + 48) = memGet s (norBase + recOff k + 48) &&& BitVec.ofNat 8 (rd s SYS_VERDICT_RESULT)) ∧
    ((s.sys.shutEnd = true ∧ s.rst.refFail = false) → exec (.shutdownRecord tUs) s = .next (releaseReset t)) ∧
    ((s.sys.shutEnd = false ∨ s.rst.refFail = true) → exec (.shutdownRecord tUs) s = .next t)) ∧
  (∀ s : State, (s.rst.busy = true ∧ s.rst.heldEnd = true ∧ s.sys.shutHold ≠ 0 ∧ s.rst.refFail = false → exec .holdSExpiry s = .next (releaseReset (advanceTo s (s.sys.shutAt + 1000000000 * s.sys.shutHold)))) ∧
    (s.rst.busy = false ∨ s.rst.heldEnd = false ∨ s.sys.shutHold = 0 ∨ s.rst.refFail = true → exec .holdSExpiry s = .next s)) ∧
  ∀ s : State, ∃ y t, y = { s.sys with pfwLow := true } ∧ t = { s with sys := y } ∧ (s.rst.busy = true → s.sys.shut = .lbist → exec .pfwNFall s = .next (shutAbort t)) ∧
    (s.rst.busy = true → s.sys.shut ≠ .lbist → exec .pfwNFall s = .next t) ∧
    (s.rst.busy = false → ∃ u, exec .pfwNFall s = .next u ∧ rd u SYS_EVT_PFW = 1 ∧ regsOnly [SYS_EVT_PFW.addr] t u)

/-- The life cycle and the TAP (R366 to R368). FIELD takes PROVISIONED to FIELD where a key slot is valid and not revoked. RETURN, with a token for this hub and its nonce that verifies under Elvaily's key, makes every key slot invalid,
takes the life cycle to RETURN and orders a reset of cause FULL. Either is refused otherwise: DENIED, LC_REJ, and nothing else changes. NEW_NONCE loads a value that the spec leaves open, a new one each time. IDCODE answers
version 1 and part 0x4864 at any time and changes nothing else; BYPASS answers 0; EXTEST acts with SYS_RST_N low or with full JTAG, and selects BYPASS otherwise; what boundary cells capture is left open (free values). -/
def Obligations.LifeCycleAndTestAccess : Prop :=
  (∀ (s : State) (ini : Nat), s.rst.busy = false →
    (s.otp.lc = lcProvisioned → (∃ k < 4, bitOf s.otp.valid k = true ∧ bitOf s.otp.revoked k = false) → ∃ t y, y = { s.otp with lc := lcField } ∧ t = { s with otp := y } ∧
      exec (.lcField ini) s = .next (answerMgmt t ini scOk)) ∧
    ((s.otp.lc ≠ lcProvisioned ∨ ∀ k < 4, bitOf s.otp.valid k = false ∨ bitOf s.otp.revoked k = true) → ∃ t, exec (.lcField ini) s = .next (answerMgmt t ini scDenied) ∧
      rd t SYS_EVT_LC_REJ = 1 ∧ regsOnly [SYS_EVT_LC_REJ.addr] s t)) ∧
  (∀ (s : State) (ini : Nat) (b : List Byte), s.rst.busy = false → b = tokenBytes s →
    (s.otp.lc ≠ lcReturn → beNat (slice b 0 8) = Config.dieUid.toNat → beNat (slice b 8 8) = rd s SYS_NONCE_NONCE → beNat (slice b 16 4) = 0x52455452 →
      Config.ecdsaVerify Config.romKey (Config.sha256 (b.take 64)) (slice b 64 64) = true → ∃ t y, y = { s.otp with valid := 0, lc := lcReturn } ∧ t = { answerMgmt s ini scOk with otp := y } ∧
      exec (.lcReturn ini) s = .next (orderReset t rFull)) ∧
    ((s.otp.lc = lcReturn ∨ beNat (slice b 0 8) ≠ Config.dieUid.toNat ∨ beNat (slice b 8 8) ≠ rd s SYS_NONCE_NONCE ∨ beNat (slice b 16 4) ≠ 0x52455452 ∨
      Config.ecdsaVerify Config.romKey (Config.sha256 (b.take 64)) (slice b 64 64) = false) → ∃ t, exec (.lcReturn ini) s = .next (answerMgmt t ini scDenied) ∧
      rd t SYS_EVT_LC_REJ = 1 ∧ regsOnly [SYS_EVT_LC_REJ.addr] s t)) ∧
  (∀ (s : State) (ini : Nat), s.rst.busy = false → ∃ t, exec (.newNonce ini) s = .next (answerMgmt t ini scOk) ∧ rd t SYS_NONCE_NONCE = freeOf s 64 ∧ t.fresh = s.fresh + 1 ∧
    partsBut [.regs, .fresh] s t ∧ cellsBut [SYS_NONCE_NONCE.addr] s t) ∧
  ∀ s : State,
    (∃ id t, id < 2 ^ 32 ∧ id % 2 = 1 ∧ id / 2 ^ 12 % 2 ^ 16 = 0x4864 ∧ id / 2 ^ 28 = 1 ∧ id / 2 % 2 ^ 11 = Config.jedecId.toNat ∧ exec .jtagIdcode s = .next t ∧ t.out = Output.jtag id :: s.out ∧ partsBut [.out] s t) ∧
    (∃ t, exec .jtagBypass s = .next t ∧ t.out = .jtag 0 :: s.out ∧ partsBut [.out] s t ∧
      (¬ (s.otp.lc = lcBlank ∨ s.otp.lc = lcReturn) → exec (.jtagExtest false) s = .next t)) ∧
    ∃ t, exec .jtagSamplePreload s = .next t ∧ t.out = .jtag (freeOf s 32) :: s.out ∧ t.fresh = s.fresh + 1 ∧ partsBut [.out, .fresh] s t ∧
      exec (.jtagExtest true) s = .next t ∧ ((s.otp.lc = lcBlank ∨ s.otp.lc = lcReturn) → exec (.jtagExtest false) s = .next t)

/-- The NVM controller and the Stocktake (R346 to R348, R365, R389, R394, R395). A program or erase is refused with ERR: RETRY while one runs or PFW_N is low, DENIED beyond the 64 MiB, in the boot header or the reserved range outside BLANK and RETURN,
and in a firmware slot or Last area from ST14; otherwise it is taken with its address and page. Its end clears bits of the page, or erases the block; a failure sets ERR, is counted, and touches no byte outside them; the
accesses that waited are then run. A dump that has a half leaves every byte outside that half as it was, ends with DONE at 0, and orders the reset of cause FATAL; with no half, or with PFW_N low, the reset alone is ordered. -/
def Obligations.NvmCommandsAndTheDump : Prop :=
  (∀ (s : State) (ini off : Nat) (c : Instr) (op : Nat) (page : List Byte), s.rst.busy = false → off = rd s NVM_ADDR_ADDR →
    ((c = .nvmProgram ini ∧ op = 1 ∧ page = nvmPage s) ∨ (c = .nvmErase ini ∧ op = 2 ∧ page = [])) →
    ((s.sys.nvm ≠ none ∨ s.sys.pfwLow = true) → ∃ t, exec c s = .next (answerMgmt t ini scRetry) ∧ rd t NVM_STAT_ERR = 1 ∧ regsOnly [NVM_STAT_ERR.addr] s t) ∧
    (s.sys.nvm = none → s.sys.pfwLow = false →
      (norSize ≤ off ∨ (off < 0x100000 ∧ s.otp.lc ≠ lcBlank ∧ s.otp.lc ≠ lcReturn) ∨ (0x100000 ≤ off ∧ off < 0x1900000 ∧ 14 ≤ rd s SYS_STEP_STEP)) →
      ∃ t, exec c s = .next (answerMgmt t ini scDenied) ∧ rd t NVM_STAT_ERR = 1 ∧ regsOnly [NVM_STAT_ERR.addr] s t) ∧
    (s.sys.nvm = none → s.sys.pfwLow = false →
      ¬ (norSize ≤ off ∨ (off < 0x100000 ∧ s.otp.lc ≠ lcBlank ∧ s.otp.lc ≠ lcReturn) ∨ (0x100000 ≤ off ∧ off < 0x1900000 ∧ 14 ≤ rd s SYS_STEP_STEP)) →
      ∃ t, exec c s = .next (answerMgmt t ini scOk) ∧ rd t NVM_STAT_ERR = 0 ∧ t.sys = { s.sys with nvm := some (op, off, page) } ∧ partsBut [.regs, .sys] s t ∧
        cellsBut [NVM_STAT_ERR.addr] s t)) ∧
  (∀ (s : State) (ini off : Nat), s.rst.busy = false → off = rd s NVM_ADDR_ADDR → s.sys.nvm = none → s.sys.pfwLow = false → off < norSize →
    (off < 0x100000 → s.otp.lc = lcBlank ∨ s.otp.lc = lcReturn) → (0x100000 ≤ off → off < 0x1900000 → rd s SYS_STEP_STEP < 14) →
    (∃ t, exec (.nvmProgram ini) s = .next (answerMgmt t ini scOk) ∧ t.sys = { s.sys with nvm := some (1, off, nvmPage s) }) ∧
    ∃ t, exec (.nvmErase ini) s = .next (answerMgmt t ini scOk) ∧ t.sys = { s.sys with nvm := some (2, off, []) }) ∧
  (∀ (s : State) (ok : Bool), s.rst.busy = false →
    (∃ t y, t = nvmEnd s ok ∧ y = { t.sys with waiting := [] } ∧
      exec (.nvmDone ok) s = .next (t.sys.waiting.foldl (fun u x => if u.rst.busy then u else accessRun u x) { t with sys := y })) ∧
    (s.sys.nvm = none → nvmEnd s ok = s) ∧
    (∀ off page, s.sys.nvm = some (1, off, page) → ∃ t, nvmEnd s ok = t ∧ t.sys = { s.sys with nvm := none } ∧
      (∀ b, b < norBase + off / 256 * 256 ∨ norBase + off / 256 * 256 + page.length ≤ b → memGet t b = memGet s b) ∧
      (ok = true → ∀ i, (h : i < page.length) → memGet t (norBase + off / 256 * 256 + i) = memGet s (norBase + off / 256 * 256 + i) &&& page[i]) ∧
      (ok = false → rd t NVM_STAT_ERR = 1 ∧ rd t NVM_CNT_PGM = min (rd s NVM_CNT_PGM + 1) (2 ^ NVM_CNT_PGM.w - 1)) ∧
      partsBut [.regs, .mem, .sys, .fresh] s t ∧ cellsBut [NVM_STAT_ERR.addr, NVM_CNT_PGM.addr] s t) ∧
    (∀ off page y, s.sys.nvm = some (2, off, page) → y = { s.sys with nvm := none } →
      (ok = true → nvmEnd s ok = eraseBlock { s with sys := y } (off / 0x10000 * 0x10000)) ∧
      (ok = false → ∃ t, nvmEnd s ok = t ∧ t.sys = y ∧ rd t NVM_STAT_ERR = 1 ∧ rd t NVM_CNT_PGM = min (rd s NVM_CNT_PGM + 1) (2 ^ NVM_CNT_PGM.w - 1) ∧
        (∀ b, b < norBase + off / 0x10000 * 0x10000 ∨ norBase + off / 0x10000 * 0x10000 + 0x10000 ≤ b → memGet t b = memGet s b)))) ∧
  ∀ (s : State) (sections part : Nat), s.rst.busy = false →
    ((s.tnk.dump = none ∨ rd s SYS_STATE_STATE ≠ stDump) → exec (.dumpEnd sections part) s = .next s) ∧
    (∀ d, s.tnk.dump = some d → rd s SYS_STATE_STATE = stDump → (d.half = none ∨ s.sys.pfwLow = true) → exec (.dumpEnd sections part) s = .next (orderReset s rFatal)) ∧
    (∀ d h, s.tnk.dump = some d → rd s SYS_STATE_STATE = stDump → d.half = some h → s.sys.pfwLow = false → ∃ t, t = dumpWrite s d h sections part ∧
      exec (.dumpEnd sections part) s = .next (orderReset t rFatal) ∧ partsBut [.mem, .clk, .fresh] s t ∧ (∀ i < 4, memGet t (norBase + dumpBase h + 4092 + i) = 0) ∧
      ∀ b, b < norBase + dumpBase h ∨ norBase + dumpBase h + dumpSize ≤ b → memGet t b = memGet s b)

/-- Cobbler's scrubbing and telemetry (R69, R111, R309, R314, R369, R371). Nothing happens with scrubbing off, at a code that names no memory, or in a stretch memory without power. A good word at most ends a pass, which is counted with its duration,
late beyond 8 s. A corrected word raises COB_ECC_CORR with memory and word, and is counted; an uncorrectable one raises COB_ECC_UNCORR, after its loss by the rule of its memory unless a functional write of the same cycle won: the slot map and
the bitmap lose its slots and set TABLE_ERR, a Ledger word in use drops its entry, a context restarts at INIT, poll memory marks the word, tap memory keeps it as read (a free value). With TELEM_EN the slot's 16 points go
through the publish index TELEM_IDX, where it has FMT W32 and FW_OWN. -/
def Obligations.MemoriesAreScrubbed : Prop :=
  (∀ (s : State) (memc word bad : Nat) (collide : Bool) (pass : Option Nat), s.rst.busy = false →
    ((rd s COB_CTRL_SCRUB_EN = 0 ∨ 12 ≤ memc ∨ (memc = 9 ∧ stretchOn s = false)) → exec (.scrub memc word bad collide pass) s = .next s) ∧
    (rd s COB_CTRL_SCRUB_EN = 1 → memc < 12 → (memc = 9 → stretchOn s = true) → ∃ u, u = (if bad = 2 ∧ collide = false then eccLose s memc word else s) ∧
      (bad = 0 → exec (.scrub memc word bad collide pass) s = .next (scrubPass s pass)) ∧
      (bad ≠ 0 → memc ≠ 9 → ∃ t, rd t COB_ECC_LAST_WORD = word % 2 ^ 28 ∧ rd t COB_ECC_LAST_MEM = memc ∧ cellsBut [COB_ECC_LAST_WORD.addr] u t ∧
        (bad = 2 → partsBut [.regs] u t ∧ ((raise t 117 (memc * 2 ^ 28 + word % 2 ^ 28)).rst.busy = false →
          exec (.scrub memc word bad collide pass) s = .next (scrubPass (raise t 117 (memc * 2 ^ 28 + word % 2 ^ 28)) pass))) ∧
        (bad ≠ 2 → t.sys = { s.sys with corrected := s.sys.corrected + 1 } ∧ partsBut [.regs, .sys] s t ∧ ((raise t 116 (memc * 2 ^ 28 + word % 2 ^ 28)).rst.busy = false →
          exec (.scrub memc word bad collide pass) s = .next (scrubPass (raise t 116 (memc * 2 ^ 28 + word % 2 ^ 28)) pass)))))) ∧
  (∀ s : State, scrubPass s none = s ∧ ∀ ms, ∃ t, scrubPass s (some ms) = t ∧ rd t COB_STAT_PASSES = (rd s COB_STAT_PASSES + 1) % 2 ^ 16 ∧
    rd t COB_STAT_PASS_MS = min ms 65535 ∧ (8000 < ms → rd t COB_EVT_SCRUB_LATE = 1) ∧ (ms ≤ 8000 → rd t COB_EVT_SCRUB_LATE = rd s COB_EVT_SCRUB_LATE) ∧
    regsOnly [COB_STAT_PASSES.addr, COB_EVT_SCRUB_LATE.addr] s t) ∧
  (∀ (s : State) (word : Nat),
    (word < 2 ^ 16 → ∃ t, eccLose s 1 word = t ∧ rd t LDG_STATUS_TABLE_ERR = 1 ∧ rd t LDG_EVT_TABLE_ERR = 1 ∧ word ∈ t.ldg.offSlots ∧ (1 * 2 ^ 28 + word) ∈ t.bad ∧
      partsBut [.regs, .ldg, .bad] s t ∧ cellsBut [LDG_STATUS_TABLE_ERR.addr, LDG_EVT_TABLE_ERR.addr] s t) ∧
    (word < 2 ^ 14 → ∃ t, eccLose s 2 word = t ∧ rd t LDG_STATUS_TABLE_ERR = 1 ∧ rd t LDG_EVT_TABLE_ERR = 1 ∧ word ∈ t.ldg.offWords ∧ (2 * 2 ^ 28 + 2 * word) ∈ t.bad ∧
      partsBut [.regs, .ldg, .bad] s t) ∧
    (word < 2 ^ 16 → ∃ t, eccLose s 6 word = t ∧ (6 * 2 ^ 28 + word) ∈ t.bad ∧ partsBut [.bad] s t) ∧
    (∃ t c, c = word / 16 % 64 ∧ eccLose s 7 word = t ∧ rd t (ASY_CTX_VAL_VAL c) = asyInit s c % 2 ^ 64 ∧ rd t ASY_EVT_CTX_ERR = 1 ∧ partsBut [.regs, .bad] s t ∧
      cellsBut [(ASY_CTX_VAL_VAL c).addr, ASY_EVT_CTX_ERR.addr] s t) ∧
    (word < 0x20000 → ∃ t, t = s.used ∧ eccLose s 4 word = memPutWord t (0x50600000 + 4 * word) (freeOf s 32))) ∧
  ∀ (s : State) (tHub tBpd : Int) (vbus i : Nat), s.rst.busy = false → i = rd s COB_CTRL_TELEM_IDX →
    (rd s COB_CTRL_TELEM_EN = 1 → bits (pubDesc s i) 16 3 = 2 → bitOf (pubDesc s i) 19 = true → ∃ l, l = (telemetry s tHub tBpd vbus).flatMap (leBytes 4) ∧ l.length = 64 ∧
      exec (.telemetryWrite tHub tBpd vbus) s = .next (aliasWrite s .software i 0 l)) ∧
    ((rd s COB_CTRL_TELEM_EN = 0 ∨ bits (pubDesc s i) 16 3 ≠ 2 ∨ bitOf (pubDesc s i) 19 = false) → exec (.telemetryWrite tHub tBpd vbus) s = .next s)

/-- The start steps ST01 to ST08 (R345, R351, R352, R355, R357 to R359, R362, R366, R379, R380). ST01_SUPPLY acts in START before ST02 and runs the steps in order, each only while the hub is still in START and no reset has been ordered. ST01 with good supply notes
PASS; after a full reset it shows the FLT pair in fault and starts MINW. ST02 takes a fresh verdict and consumes it; otherwise ST03 runs LBIST, and a wrong signature ends in SAFE with the Welt in BYPASS; a RESOLE start notes both
NOT_RUN. ST04 with unreadable fuses, and ST05 with a bad boot header, end in SAFE. ST07 zeroes every hub-domain memory, the scratch and flag words and both images of the Treadle among them, or ends in SAFE on a failed march test but after a RESOLE start. ST08 with a usable Last leaves JOINING at
step 9, and SAFE without. -/
def Obligations.StartStepsRunToJoining : Prop :=
  (∀ (s : State) (env : StartEnv),
    (s.rst.busy = false → rd s SYS_STATE_STATE = stStart → rd s SYS_STEP_STEP ≤ 1 → exec (.st01Supply env) s =
      .next (andThen (st08 env) (andThen (st07 env) (andThen (st06 env) (andThen (st05 env) (andThen (st04 env) (andThen (st03 env) (st01 env s)))))))) ∧
    ((s.rst.busy = true ∨ rd s SYS_STATE_STATE ≠ stStart ∨ 1 < rd s SYS_STEP_STEP) → exec (.st01Supply env) s = .next s) ∧
    ∀ f : State → State, (s.rst.busy = false ∧ rd s SYS_STATE_STATE = stStart → andThen f s = f s) ∧ (s.rst.busy = true ∨ rd s SYS_STATE_STATE ≠ stStart → andThen f s = s)) ∧
  (∀ (s : State) (env : StartEnv), s.rst.busy = false → rd s SYS_STATE_STATE = stStart → s.sys.record = none → env.rails % 2 ^ 9 = 0 → env.d2d = true → ∃ t, st01 env s = t ∧
    rd t SYS_STEP_STEP = 2 ∧ t.sys = { s.sys with steps := s.sys.steps ++ [(1, ⟨rPass, 1, 0, tOf env 1⟩)] } ∧ (s.rst.fromFull = true → rd t TNK_FLT_STATE = 1 ∧ rd t TNK_FLT_PIN_T = 1 ∧ rd t TNK_FLT_PIN_C = 0 ∧
      rd t TNK_STATE_MINW_DONE = 0 ∧ t.tnk.driven = true ∧ t.tnk.drvReset = true ∧ t.tnk.drivers = 0) ∧ (s.rst.fromFull = false → rd t TNK_FLT_STATE = rd s TNK_FLT_STATE) ∧ rd t SYS_STATE_STATE = stStart ∧
    partsBut [.regs, .tnk, .rst, .sys] s t) ∧
  (∀ (s : State) (env : StartEnv), s.sys.record = none →
    (rd s SYS_RST_CAUSE_CAUSE = rResole → ∃ t, st03 env s = t ∧ rd t SYS_STEP_STEP = 4 ∧
      t.sys = { s.sys with steps := s.sys.steps ++ [(2, ⟨rNotRun, 0, 0, tOf env 2⟩), (3, ⟨rNotRun, 0, 0, tOf env 3⟩)] } ∧ partsBut [.regs, .sys] s t ∧ cellsBut [SYS_STEP_STEP.addr] s t) ∧
    (rd s SYS_RST_CAUSE_CAUSE ≠ rResole → rd s SYS_VERDICT_VALID = 1 → rd s SYS_VERDICT_RESULT = 1 → rd s SYS_VERDICT_CONSUMED = 0 → ∃ t, st03 env s = t ∧ rd t SYS_STEP_STEP = 4 ∧ rd t SYS_VERDICT_CONSUMED = 1 ∧
      t.sys = { s.sys with steps := s.sys.steps ++ [(2, ⟨rPass, 1, 0, tOf env 2⟩), (3, ⟨rNotRun, 0, 0, tOf env 3⟩)] } ∧ partsBut [.regs, .sys] s t) ∧
    (rd s SYS_RST_CAUSE_CAUSE ≠ rResole → (rd s SYS_VERDICT_VALID = 0 ∨ rd s SYS_VERDICT_RESULT ≠ 1 ∨ rd s SYS_VERDICT_CONSUMED = 1) →
      (env.misr = Config.romMisr → ∃ t, st03 env s = t ∧ rd t SYS_STEP_STEP = 4 ∧ rd t SYS_VERDICT_MISR = env.misr.toNat ∧
        t.sys = { s.sys with steps := s.sys.steps ++ [(2, ⟨rPass, 1, 0, tOf env 2⟩), (3, ⟨rPass, 1, 0, tOf env 3⟩)] } ∧ partsBut [.regs, .sys] s t) ∧
      (env.misr ≠ Config.romMisr → ∃ u t, st03 env s = t ∧ t = enterStill u stSafe ∧ rd u WELT_CTRL_BYPASS_REQ = 1 ∧ rd t SYS_STATE_STATE = stSafe))) ∧
  (∀ (s : State) (env : StartEnv),
    (env.fuses = true → rd (st04 env s) SYS_STEP_STEP = 5) ∧ (env.fuses = false → rd (st04 env s) SYS_STATE_STATE = stSafe) ∧
    (bootOk (cutShort s) = false → rd (st05 env s) SYS_STATE_STATE = stSafe) ∧
    (bitOf s.sys.skip 7 = false → rd s SYS_RST_CAUSE_CAUSE ≠ rResole → env.march = false → rd (st07 env s) SYS_STATE_STATE = stSafe) ∧
    ((bitOf s.sys.skip 7 = true ∨ rd s SYS_RST_CAUSE_CAUSE = rResole ∨ env.march = true) → rd (st07 env s) SYS_STEP_STEP = 8 ∧ (st07 env s).bad = [] ∧
      (∃ t, zeroMemories s = t ∧ (∀ a, memGet t a = if hubMemory a = true then unlisted a else memGet s a) ∧ t.bad = [] ∧
        (∀ a, cellAt t a = if 0x4005_4000 ≤ a ∧ a < 0x4005_C400 then cellReset a else cellAt s a) ∧ partsBut [.mem, .bad, .regs] s t)) ∧
    ((selectArea s kLast).1.rst.busy = false → rd (selectArea s kLast).1 SYS_STATE_STATE = stStart →
      (lastPick env (selectArea s kLast).1 (selectArea s kLast).2.1 = none → rd (st08 env s) SYS_STATE_STATE = stSafe) ∧
      (lastPick env (selectArea s kLast).1 (selectArea s kLast).2.1 ≠ none → rd (st08 env s) SYS_STATE_STATE = stJoining ∧ rd (st08 env s) SYS_STEP_STEP = 9)))

/-- The start steps ST09 and ST10 (R25, R38, R39, R53, R87, R137, R352, R354, R359, R380). Their commands act in JOINING at their step alone. ST09 counts an attempt and reports held faults after a hub-domain reset, or tests the ports after a full one; it ends
with PASS once every enabled port is UP, goes to SAFE with the Welt in BYPASS where failed loopbacks leave no pair able to form, with the spurs' links noted all the same (R212), and else waits. After TMO, and at each retry, which is counted, a complete ring pair is enough, as
alternative 4. ST10 ends with PASS at a follower that is LOCKED, at an origin without a reference or with it locked, or on a RESOLE start still locked; at its limit it sets the TIME reason and notes alternative 5; a head named in the Last begins to wait for fresh trains (R88). A second in ST11
counts an attempt. An entry is programmed into the open record, and touches no other byte. -/
def Obligations.RingUpAndTimeSteps : Prop :=
  (∀ (s : State) (k : Nat), joining s k = true ↔ s.rst.busy = false ∧ rd s SYS_STATE_STATE = stJoining ∧ rd s SYS_STEP_STEP = k) ∧
  (∀ (s : State) (l : List (Nat × Nat)) (k tries tUs : Nat), rd (startSafe (spurLinks s l) k tries tUs true) SYS_STATE_STATE = stSafe) ∧
  (∀ s : State, (allUp s = true ↔ ∀ p < 4, rd s (WELT_PORT_CTRL_ENABLE p) = 1 → isUp s p = true) ∧ (pairUp s = true ↔ (isUp s 0 = true ∧ isUp s 1 = true) ∨ (isUp s 2 = true ∧ isUp s 3 = true))) ∧
  (∀ (s : State) (lbk : List (Nat × Bool)) (spurs : List (Nat × Nat)) (tUs : Nat),
    (joining s 9 = false → exec (.st09Ringup lbk spurs tUs) s = .next s ∧ exec (.bringupTimeout spurs tUs) s = .next s ∧ exec (.ringupRetry spurs tUs) s = .next s) ∧
    (joining s 9 = true → ∃ t u, u = ringBegin s lbk ∧ (s.sys.tries = 0 → t = u) ∧ (s.sys.tries ≠ 0 → t = s) ∧
      (s.rst.fromFull = false → ∃ v, v.sys = { s.sys with tries := s.sys.tries + 1 } ∧ partsBut [.sys] s v ∧ u = raiseAll v (heldFaults v)) ∧
      (joining t 9 = false → exec (.st09Ringup lbk spurs tUs) s = .next t) ∧
      (joining t 9 = true → allUp t = true → exec (.st09Ringup lbk spurs tUs) s = .next (ringEnd t rPass 0 spurs tUs)) ∧
      (joining t 9 = true → allUp t = false → noPair t = true → exec (.st09Ringup lbk spurs tUs) s = .next (startSafe (spurLinks t spurs) 9 t.sys.tries tUs true)) ∧
      (joining t 9 = true → allUp t = false → noPair t = false → exec (.st09Ringup lbk spurs tUs) s = .next t)) ∧
    (joining s 9 = true → s.sys.tries ≠ 0 → ∃ v, v.sys = { s.sys with tries := s.sys.tries + 1 } ∧ partsBut [.sys] s v ∧
      (allUp s = true → exec (.bringupTimeout spurs tUs) s = .next (ringEnd s rPass 0 spurs tUs)) ∧ (allUp v = true → exec (.ringupRetry spurs tUs) s = .next (ringEnd v rPass 0 spurs tUs)) ∧
      (allUp s = false → pairUp s = true → exec (.bringupTimeout spurs tUs) s = .next (ringEnd s rAlt 4 spurs tUs)) ∧
      (allUp v = false → pairUp v = true → exec (.ringupRetry spurs tUs) s = .next (ringEnd v rAlt 4 spurs tUs)) ∧
      (allUp s = false → pairUp s = false → noPair s = true → exec (.bringupTimeout spurs tUs) s = .next (startSafe (spurLinks s spurs) 9 s.sys.tries tUs true)) ∧
      (allUp v = false → pairUp v = false → noPair v = true → exec (.ringupRetry spurs tUs) s = .next (startSafe (spurLinks v spurs) 9 v.sys.tries tUs true)) ∧
      (allUp s = false → pairUp s = false → noPair s = false → exec (.bringupTimeout spurs tUs) s = .next s) ∧
      (allUp v = false → pairUp v = false → noPair v = false → exec (.ringupRetry spurs tUs) s = .next v)) ∧
    (∀ k r : Nat, rd (startSafe s k r tUs true) SYS_STATE_STATE = stSafe ∧ ∃ y, startSafe s k r tUs true = enterStill y stSafe ∧ rd y WELT_CTRL_BYPASS_REQ = 1)) ∧
  (∀ s : State, timeDone s = true ↔ (rd s SYS_RST_CAUSE_CAUSE = rResole ∧ rd s BELL_PPS_CTRL_LOCK_Q = 1) ∨
    (rd s BELL_STATUS_STATE = lOrigin ∧ (rd s BELL_CTRL_SRC = 0 ∨ rd s BELL_CTRL_SRC = 3 ∨ rd s BELL_STATUS_EXT_LOCKED = 1)) ∨ rd s BELL_STATUS_STATE = lLocked) ∧
  (∀ (s : State) (limit : Bool) (tUs : Nat),
    ((joining s 10 = false ∨ (timeDone s = false ∧ limit = false)) → exec (.st10Time limit tUs) s = .next s) ∧
    (joining s 10 = true → (timeDone s = true ∨ limit = true) → ∃ t, exec (.st10Time limit tUs) s = .next t ∧ rd t SYS_STEP_STEP = 11 ∧
      (timeDone s = true → rd t SYS_DEG_REASON = rd s SYS_DEG_REASON) ∧ (timeDone s = false → rdBit t SYS_DEG_REASON 1 = true) ∧
      (s.sys.record = none → t.sys = { s.sys with steps := s.sys.steps ++ [(10, if timeDone s = true then ⟨rPass, 1, 0, tUs⟩ else ⟨rAlt, 1, 5, tUs⟩)] } ∧ partsBut [.regs, .sys, .trn] s t) ∧
      (∀ off, s.sys.record = some off → (∀ b, b < norBase + off + 120 ∨ norBase + off + 128 ≤ b → memGet t b = memGet s b) ∧ partsBut [.regs, .mem, .trn] s t) ∧
      (∀ r < 2, (t.ring r).quiet = ftNs s) ∧ cellsBut [SYS_STEP_STEP.addr, SYS_DEG_REASON.addr] s t)) ∧
  ∀ s : State, (joining s 11 = true → ∃ t, exec .joinAttempt s = .next t ∧ t.sys = { s.sys with tries := s.sys.tries + 1 } ∧ partsBut [.sys] s t) ∧ (joining s 11 = false → exec .joinAttempt s = .next s)

/-- The start steps ST11 to ST14 (R68, R87, R88, R215, R218, R236, R244, R292, R336, R352). ST11 ends where a port is UP and a lead frame has been met on every train that the UP ports carry: the Ledger is armed, the hub joined, a named head that launches
not both rings stands by, and ST12 to ST14 follow while the hub stays JOINING; else it waits. At ST12 a channel to be started, valid and with its bus free, is IDLE at its idle levels and otherwise FAILED, undriven; a controller of a channel in MODE 5 whose timing is valid and
whose loopback passed is in DETECT or INTEGRATE with its counters 0, and otherwise FAILED. At ST13 an enabled branch that passes its checks takes its configuration, with the limit of R286 in RAMP, and otherwise is FAILED. A HALT raised before ST14 makes ST14 enter HALTED. -/
def Obligations.JoinArmsAndUnitsStart : Prop :=
  (∀ (s : State) (env : JoinEnv),
    (joining s 11 = false → exec (.st11Join env) s = .next s) ∧
    (joining s 11 = true → ∃ t, t = lapSync s ∧
      ((joining t 11 = false ∨ joinMet t = false) → exec (.st11Join env) s = .next t) ∧
      (joining t 11 = true → joinMet t = true → ∃ u, u = st12 env (stepTo (endStep (join t) 11 rPass (t.sys.tries + 1) 0 (tJoin env 11)) 12) ∧
        exec (.st11Join env) s = .next (whileJoining (st14 env) (whileJoining (st13 env) u)) ∧ rd u SYS_STEP_STEP = 13)) ∧
    (∀ f : State → State, whileJoining f s = if s.rst.busy = false ∧ rd s SYS_STATE_STATE = stJoining then f s else s) ∧
    (joinMet s = true ↔ (∃ p < 4, isUp s p = true) ∧ ∀ k < 4, isUp s (facing k) = true → (s.train k).met = true) ∧
    rd (st13 env s) SYS_STEP_STEP = 14 ∧ (s.tnk.pendHalt = true → rd (st14 env s) SYS_STATE_STATE = stHalted)) ∧
  (∀ s : State, ∃ t, join s = t ∧ rd t LDG_STATUS_ARMED = 1 ∧ rd t TRN_STATUS_JOINED = 1 ∧ t.trd = { s.trd with armedAt := some (ftNs s) } ∧
    ((rd s TRN_CTRL_ROLE = 1 ∨ rd s TRN_CTRL_ROLE = 2) → (launches s 0 = false ∨ launches s 1 = false) → rd t TRN_STATUS_STANDBY = 1) ∧
    partsBut [.regs, .trd] s t ∧ cellsBut [LDG_STATUS_ARMED.addr, TRN_STATUS_JOINED.addr] s t) ∧
  (∀ (s : State) (env : JoinEnv) (n : Nat),
    ((rd s (CHN_CFG_START_EN n) = 0 ∨ chnMode s n = 0 ∨ chnMode s n = 5) → ∃ t, chnStart env s n = t ∧ (t.chn n).pins = [] ∧ chnFrame n [] s t) ∧
    (rd s (CHN_CFG_START_EN n) = 1 → chnMode s n ≠ 0 → chnMode s n ≠ 5 → (chnCfgOk s n = true ∧ (chnMode s n = 3 → n ∉ env.chnBad)) →
      ∃ t, chnStart env s n = t ∧ rd t (CHN_STAT_STATE n) = cIdle ∧ (t.chn n).pins = idlePins s n ∧ (t.chn n).cts = !env.ctsOff.contains n ∧ chnFrame n [(CHN_STAT_STATE n).addr] s t) ∧
    (rd s (CHN_CFG_START_EN n) = 1 → chnMode s n ≠ 0 → chnMode s n ≠ 5 → (chnCfgOk s n = false ∨ (chnMode s n = 3 ∧ n ∈ env.chnBad)) →
      ∃ t, chnStart env s n = t ∧ rd t (CHN_STAT_STATE n) = cFailed ∧ (t.chn n).pins = [] ∧ chnFrame n [(CHN_STAT_STATE n).addr] s t)) ∧
  (∀ (s : State) (env : JoinEnv) (k : Nat),
    ((chnMode s k ≠ mCan ∨ rd s (CAN_CTRL_START_EN k) = 0) → ∃ t, canBegin env s k = t ∧ (t.can k).pins = (chnMode s k == mCan) ∧ (t.can k).awake = false ∧ canCtlFrame k [] s t) ∧
    (chnMode s k = mCan → rd s (CAN_CTRL_START_EN k) = 1 → canTimingOk s k = true → k ∉ env.canBad → ∃ t, canBegin env s k = t ∧
      rd t (CAN_STAT_STATE k) = (if rd s (CAN_CTRL_AUTO_DET k) = 1 then nDetect else nIntegrate) ∧ rd t (CAN_ERRC_TEC k) = 0 ∧ rd t (CAN_ERRC_REC k) = 0 ∧
      (t.can k).pins = true ∧ (t.can k).awake = true ∧ canCtlFrame k [(CAN_STAT_STATE k).addr, (CAN_ERRC_TEC k).addr] s t) ∧
    (chnMode s k = mCan → rd s (CAN_CTRL_START_EN k) = 1 → (canTimingOk s k = false ∨ k ∈ env.canBad) → ∃ t, canBegin env s k = t ∧ rd t (CAN_STAT_STATE k) = nFailed ∧ (t.can k).awake = false ∧
      canCtlFrame k [(CAN_STAT_STATE k).addr] s t)) ∧
  ∀ (s : State) (env : JoinEnv) (n : Nat), rd s (BRN_STAT_STATE n) ≠ bFailed → rd s (BRN_CFG_EN n) = 1 →
    ((brnCfgOk s n = true ∧ (rd s (BRN_STAT_STATE n) = bOff → n ∉ env.gateBad ∧ rd s (BRN_STAT_CP_OK n) = 1)) →
      (s.rst.d2dBpdLost = true → brnBegin env s n = s) ∧ (s.rst.d2dBpdLost = false → ∃ t, brnBegin env s n = t ∧ (t.brn n).cfg = brnCfgOf s n ∧
        (t.brn n).limit = (if rd s (BRN_STAT_STATE n) = bRamp then foldBack (brnCfgOf s n) (2 * rd s (BRN_MEAS_V_V_BUS n)) (2 * rd s (BRN_MEAS_V_V_OUT n)) else limitSense (brnCfgOf s n)) ∧
        brnFrame n [] s t)) ∧
    ((brnCfgOk s n = false ∨ (rd s (BRN_STAT_STATE n) = bOff ∧ (n ∈ env.gateBad ∨ rd s (BRN_STAT_CP_OK n) = 0))) → ∃ t, brnBegin env s n = t ∧
      rd t (BRN_STAT_STATE n) = bFailed ∧ rd t (BRN_STAT_PG n) = 0 ∧ (t.brn n).rest = ftNs s ∧ brnFrame n [(BRN_STAT_STATE n).addr] s t)

/-- A ring port on its way up, with the ring domain out of reset (R34, R36, R41, R42, R46, R52). What a port transmits follows from its state: nothing while it is DISABLED or has no module, all traffic when UP, idles in TRIAL, and below TRIAL idles where its receiver
has lock and no local fault and remote fault otherwise, in DOWN with the ring's other port DOWN too or under HIBER_WRAP with hi_ber remote fault anyway (log entry 119). Enabled and not forced dark, with its module present, it goes from DISABLED to DOWN;
signal takes it to SYNC; each change of lock, local or remote fault in SYNC starts the 1 ms hold again; a hold that has passed with lock, no hi_ber and no fault takes it to TRIAL, and nothing else does; signal lost in SYNC takes it to DOWN with nothing
declared. Entry to DISABLED, DOWN and SYNC clears LDLY_VALID. -/
def Obligations.PortClimbsToTrial : Prop :=
  ∀ (p : Nat) (s : State), p < 4 → ¬ (s.rst.busy = true ∧ s.rst.full = true) →
    (∀ st, st = rd s (WELT_PORT_STAT_STATE p) → ((st = 0 ∨ rd s (WELT_PORT_STAT_SFP_MODABS p) = 1) → txOf s p = .dark) ∧
      (rd s (WELT_PORT_STAT_SFP_MODABS p) = 0 → (st = 4 → txOf s p = .normal) ∧ (st = 3 → txOf s p = .idle) ∧
        (st = 2 ∨ (st = 1 ∧ rd s (WELT_PORT_STAT_STATE (facing p)) ≠ 1 ∧ rd s (WELT_PORT_CTRL_HIBER_WRAP p) = 0) →
          txOf s p = if rd s (WELT_PORT_STAT_LOCK p) = 1 ∧ (s.port p).lf = false then .idle else .rf) ∧
        (st = 1 → rd s (WELT_PORT_STAT_STATE (facing p)) = 1 ∨ (rd s (WELT_PORT_CTRL_HIBER_WRAP p) = 1 ∧ rd s (WELT_PORT_STAT_HIBER p) = 1) → txOf s p = .rf))) ∧
    (s.rst.busy = false → rd s SYS_STEP_STEP < 14 → s.rst.fromFull = true → rd s (WELT_PORT_STAT_STATE p) = 0 →
      rd s (WELT_PORT_STAT_SFP_MODABS p) = 0 → (s.port p).st09 = true → (s.port p).lbkFail = false →
      ∃ t, exec (.txdisForce p true false) s = .next t ∧ rd t (WELT_PORT_STAT_STATE p) = 1 ∧ (t.port p).tx = txOf t p ∧
        rd t (WELT_PORT_CTRL_ENABLE p) = 1 ∧ rd t (WELT_PORT_CTRL_TXDIS_FORCE p) = 0 ∧
        ringFrame p [(WELT_PORT_CTRL_ENABLE p).addr, (WELT_PORT_STAT_STATE p).addr] s t) ∧
    (rd s (WELT_PORT_STAT_STATE p) = 1 → rd s (WELT_PORT_STAT_SFP_MODABS p) = 0 → ∃ t, exec (.pmaSignalDetect p) s = .next t ∧
      rd t (WELT_PORT_STAT_STATE p) = 2 ∧ rd t (WELT_PORT_STAT_SIG_DET p) = 1 ∧ rd t (WELT_PORT_STAT_LDLY_VALID p) = 0 ∧
      (t.port p).tx = txOf t p ∧ (t.port p).hold = ftNs s ∧ ringFrame p [(WELT_PORT_STAT_STATE p).addr] s t) ∧
    (rd s (WELT_PORT_STAT_STATE p) ≠ 1 ∨ rd s (WELT_PORT_STAT_SFP_MODABS p) = 1 → ∃ t, exec (.pmaSignalDetect p) s = .next t ∧
      rd t (WELT_PORT_STAT_SIG_DET p) = 1 ∧ rd t (WELT_PORT_STAT_STATE p) = rd s (WELT_PORT_STAT_STATE p) ∧ regsOnly [(WELT_PORT_STAT_STATE p).addr] s t) ∧
    (∃ t, exec (.lockAcquired p) s = .next t ∧ rd t (WELT_PORT_STAT_LOCK p) = 1 ∧ (t.port p).lf = false ∧
      rd t (WELT_PORT_STAT_STATE p) = rd s (WELT_PORT_STAT_STATE p) ∧ (rd s (WELT_PORT_STAT_STATE p) = 2 → (t.port p).hold = ftNs s) ∧
      (t.port p).tx = txOf t p ∧ ringFrame p [(WELT_PORT_STAT_LOCK p).addr] s t) ∧
    (rd s (WELT_PORT_STAT_STATE p) = 2 → ∀ kind, kind < 3 → ∃ t, exec (.lockLostInSync p kind) s = .next t ∧
      (kind = 0 → rd t (WELT_PORT_STAT_LOCK p) = 0) ∧ (kind = 1 → (t.port p).lf = true) ∧ (kind = 2 → rd t (WELT_PORT_STAT_RF_RX p) = 1) ∧
      rd t (WELT_PORT_STAT_STATE p) = 2 ∧ (t.port p).hold = ftNs s ∧ (t.port p).tx = txOf t p ∧ ringFrame p [(WELT_PORT_STAT_LOCK p).addr] s t) ∧
    (∀ good : Prop, (good ↔ rd s (WELT_PORT_STAT_STATE p) = 2 ∧ rd s (WELT_PORT_STAT_LOCK p) = 1 ∧ (s.port p).lf = false ∧ rd s (WELT_PORT_STAT_HIBER p) = 0 ∧ rd s (WELT_PORT_STAT_RF_RX p) = 0) →
      (¬ good → exec (.syncHoldExpiry p) s = .next s) ∧
      (good → ∃ t, exec (.syncHoldExpiry p) s = .next t ∧ rd t (WELT_PORT_STAT_STATE p) = 3 ∧ (t.port p).tx = txOf t p ∧
        t.clk = (advanceTo s ((s.port p).hold + 1000000)).clk ∧ partsBut [.regs, .ports, .clk] s t ∧ cellsBut [(WELT_PORT_STAT_STATE p).addr] s t)) ∧
    (rd s (WELT_PORT_STAT_STATE p) = 2 → ∃ t, exec (.signalDetectLost p) s = .next t ∧
      rd t (WELT_PORT_STAT_STATE p) = 1 ∧ rd t (WELT_PORT_STAT_SIG_DET p) = 0 ∧ rd t (WELT_PORT_STAT_LOCK p) = 0 ∧ rd t (WELT_PORT_STAT_LDLY_VALID p) = 0 ∧
      (t.port p).tx = txOf t p ∧ ringFrame p [(WELT_PORT_STAT_STATE p).addr] s t)

/-- A ring port on its way down, with the ring domain out of reset (R36, R40 to R42). In TRIAL and UP, a loss of signal, of lock,
or a local fault (kind 0, 1, 2) sets LOS and raises WELT_LOS of the port; the port then goes DOWN. A remote
fault sets RF and RF_RX and raises WELT_LOS; the port goes DOWN. hi_ber sets HIBER and its event and raises
WELT_PCS; only with HIBER_WRAP = 1 is it then a loss of signal. In DOWN and SYNC loss of lock and remote fault show in the status
alone, as does the end of a remote fault; the 1 ms hold of SYNC starts again and the port transmits what R41 and R46 say. Whatever
state u the raise leaves: v is u with the port DOWN, LDLY_VALID 0 (R52) and nothing agreed or waiting; a port that was not UP
ends there. One that was UP also has its frame in progress discarded (x), and with the ring's other port UP counts the wrap, sets
WRAP, raises WELT_WRAP and sends the WRAP notice (R45), after cutting the frame on the turn-back port (R44); with the other port
not UP there is no wrap (R46). The cause words of the raises are those of the source table. -/
def Obligations.PortGoesDownAndWraps : Prop :=
  ∀ (p : Nat) (s : State), p < 4 → ¬ (s.rst.busy = true ∧ s.rst.full = true) →
    (rd s (WELT_PORT_STAT_STATE p) = 3 ∨ rd s (WELT_PORT_STAT_STATE p) = 4 →
      (∀ kind, kind < 3 → ∃ t, exec (.lossOfSignal p kind) s = .next (portTo (raise t (8 + p) 1) p 1) ∧
        rd t (WELT_PORT_EVT_LOS p) = 1 ∧ (kind < 2 → rd t (WELT_PORT_STAT_LOCK p) = 0) ∧
        (kind = 0 → rd t (WELT_PORT_STAT_SIG_DET p) = 0) ∧ (kind = 2 → (t.port p).lf = true) ∧
        portFrame p [(WELT_PORT_STAT_STATE p).addr, (WELT_PORT_EVT_LOS p).addr] s t) ∧
      (∃ t, exec (.remoteFault p true) s = .next (portTo (raise t (8 + p) 2) p 1) ∧
        rd t (WELT_PORT_EVT_RF p) = 1 ∧ rd t (WELT_PORT_STAT_RF_RX p) = 1 ∧
        regsOnly [(WELT_PORT_STAT_STATE p).addr, (WELT_PORT_EVT_RF p).addr] s t) ∧
      (∃ t, rd t (WELT_PORT_EVT_HIBER p) = 1 ∧ rd t (WELT_PORT_STAT_HIBER p) = 1 ∧
        regsOnly [(WELT_PORT_STAT_STATE p).addr, (WELT_PORT_EVT_HIBER p).addr] s t ∧
        if rd s (WELT_PORT_CTRL_HIBER_WRAP p) = 0 then exec (.hiBer p true) s = .next (raise t 13 (hiberMask t))
        else exec (.hiBer p true) s = .next (portTo (raise (wr (raise t 13 (hiberMask t)) (WELT_PORT_EVT_LOS p) 1) (8 + p) 1) p 1))) ∧
    (rd s (WELT_PORT_STAT_STATE p) = 1 ∨ rd s (WELT_PORT_STAT_STATE p) = 2 →
      (∃ t, exec (.lossOfSignal p 1) s = .next t ∧ rd t (WELT_PORT_STAT_LOCK p) = 0 ∧
        rd t (WELT_PORT_STAT_STATE p) = rd s (WELT_PORT_STAT_STATE p) ∧ (rd s (WELT_PORT_STAT_STATE p) = 2 → (t.port p).hold = ftNs s) ∧
        (t.port p).tx = txOf t p ∧ ringFrame p [(WELT_PORT_STAT_STATE p).addr] s t) ∧
      (∃ t, exec (.remoteFault p true) s = .next t ∧ rd t (WELT_PORT_STAT_RF_RX p) = 1 ∧
        rd t (WELT_PORT_STAT_STATE p) = rd s (WELT_PORT_STAT_STATE p) ∧ (rd s (WELT_PORT_STAT_STATE p) = 2 → (t.port p).hold = ftNs s) ∧
        (t.port p).tx = txOf t p ∧ ringFrame p [(WELT_PORT_STAT_STATE p).addr] s t)) ∧
    (∃ t, exec (.remoteFault p false) s = .next t ∧ rd t (WELT_PORT_STAT_RF_RX p) = 0 ∧ rd t (WELT_PORT_STAT_STATE p) = rd s (WELT_PORT_STAT_STATE p) ∧
      (t.port p).tx = txOf t p ∧ ringFrame p [(WELT_PORT_STAT_STATE p).addr] s t) ∧
    (rd s (WELT_PORT_STAT_STATE p) = 2 → ∃ t, exec (.lossOfSignal p 0) s = .next t ∧ rd t (WELT_PORT_STAT_STATE p) = 1 ∧
      rd t (WELT_PORT_STAT_SIG_DET p) = 0 ∧ rd t (WELT_PORT_STAT_LOCK p) = 0 ∧ (t.port p).tx = txOf t p ∧ ringFrame p [(WELT_PORT_STAT_STATE p).addr] s t) ∧
    (∀ u : State, ∃ v, rd v (WELT_PORT_STAT_STATE p) = 1 ∧ rd v (WELT_PORT_STAT_LDLY_VALID p) = 0 ∧
      (v.port p).own = none ∧ (v.port p).agreed = none ∧ (v.port p).waiting = [] ∧
      portFrame p [(WELT_PORT_STAT_STATE p).addr] u v ∧
      (rd u (WELT_PORT_STAT_STATE p) ≠ 4 → portTo u p 1 = settleTx v p) ∧
      (rd u (WELT_PORT_STAT_STATE p) = 4 → ∃ x y, (y.port p).sendTo = 0 ∧ (y.port p).trainTo = 0 ∧ (y.port p).trainSeen = false ∧ portFrame p [] v y ∧
        x = (if ftNs v < ringBusy v p then y.emit (.discard p) else y) ∧
        (rd u (WELT_PORT_STAT_STATE (facing p)) ≠ 4 → ∃ w, w = ownLink x p ∧ portTo u p 1 = settleTx (if w.rst.busy then w else portReason w) p) ∧
        (rd u (WELT_PORT_STAT_STATE (facing p)) = 4 → ∃ z q, rd z (WELT_WRAP_CNT_COUNT p) = min (rd u (WELT_WRAP_CNT_COUNT p) + 1) 65535 ∧
          rd z (WELT_PORT_EVT_WRAP p) = 1 ∧ regsOnly [(WELT_WRAP_CNT_COUNT p).addr, (WELT_PORT_EVT_WRAP p).addr] x z ∧
          q = (if ftNs z < (z.port (facing p)).sendTo then (z.setPort (facing p) { z.port (facing p) with sendTo := ftNs z }).emit (.truncate (facing p)) else z) ∧
          ∃ w, w = ownLink (sendNotice (raise q 12 (wrapped q)) p 1) p ∧ portTo u p 1 = settleTx (if w.rst.busy then w else portReason w) p)))

/-- The SFP module of a port (R34 to R36), with the ring domain out of reset: the levels of its three pins show in SFP_MODABS, SFP_LOS
and SFP_TXFLT, and while MODABS stays as it was nothing else happens. Removal sets MOD_CHG, and
takes a port that is not DISABLED to DOWN with its laser off; insertion sets MOD_CHG and lets a port in DOWN send again what R41 says,
and lets a DISABLED port that may run go DOWN. A GO sends one byte command on the two-wire bus with the
four fields written, and the end of the transfer clears GO, shows a missing acknowledgement in ERR and puts a byte read into
DATA. BYPASS_REQ is kept (R53). -/
def Obligations.ModuleChangesAndItsBus : Prop :=
  ∀ (p : Nat) (s : State), p < 4 → ¬ (s.rst.busy = true ∧ s.rst.full = true) →
    (∀ los txflt, ∃ t, exec (.modChg p (flag s (WELT_PORT_STAT_SFP_MODABS p)) los txflt) s = .next t ∧
      rd t (WELT_PORT_STAT_SFP_LOS p) = natOf los ∧ rd t (WELT_PORT_STAT_SFP_TXFLT p) = natOf txflt ∧
      rd t (WELT_PORT_STAT_SFP_MODABS p) = rd s (WELT_PORT_STAT_SFP_MODABS p) ∧ rd t (WELT_PORT_STAT_STATE p) = rd s (WELT_PORT_STAT_STATE p) ∧
      regsOnly [(WELT_PORT_STAT_STATE p).addr] s t) ∧
    (∀ absent los txflt, absent ≠ flag s (WELT_PORT_STAT_SFP_MODABS p) → ∃ t, rd t (WELT_PORT_STAT_SFP_MODABS p) = natOf absent ∧
      rd t (WELT_PORT_STAT_SFP_LOS p) = natOf los ∧ rd t (WELT_PORT_STAT_SFP_TXFLT p) = natOf txflt ∧
      rd t (WELT_PORT_EVT_MOD_CHG p) = 1 ∧ rd t (WELT_PORT_STAT_STATE p) = rd s (WELT_PORT_STAT_STATE p) ∧
      regsOnly [(WELT_PORT_STAT_STATE p).addr, (WELT_PORT_EVT_MOD_CHG p).addr] s t ∧
      (absent = true → exec (.modChg p true los txflt) s = .next (if rd s (WELT_PORT_STAT_STATE p) = 0 then t else portTo t p 1)) ∧
      (absent = false → rd s (WELT_PORT_STAT_STATE p) = 1 → ∃ u, exec (.modChg p false los txflt) s = .next u ∧
        (∀ f, rd u f = rd t f) ∧ (u.port p).tx = txOf u p ∧ ringFrame p [] t u) ∧
      (absent = false → rd s (WELT_PORT_STAT_STATE p) = 0 → rd s (WELT_PORT_CTRL_ENABLE p) = 1 → rd s (WELT_PORT_CTRL_TXDIS_FORCE p) = 0 →
        (s.port p).st09 = true → (s.port p).lbkFail = false → ∃ u, exec (.modChg p false los txflt) s = .next u ∧
          rd u (WELT_PORT_STAT_STATE p) = 1 ∧ rd u (WELT_PORT_EVT_MOD_CHG p) = 1 ∧ (u.port p).tx = txOf u p ∧ ringFrame p [(WELT_PORT_STAT_STATE p).addr] t u)) ∧
    (s.rst.busy = false → ∀ data offset devsel write, ∃ u t, exec (.sfpMgmtGo p data offset devsel write) s = .next t ∧
      rd t (WELT_SFP_MGMT_GO p) = 1 ∧ rd t (WELT_SFP_MGMT_DATA p) = data % 256 ∧
      rd t (WELT_SFP_MGMT_OFFSET p) = offset % 256 ∧ rd t (WELT_SFP_MGMT_DEVSEL p) = natOf devsel ∧
      rd t (WELT_SFP_MGMT_WRITE p) = natOf write ∧
      rd u (WELT_SFP_MGMT_DATA p) = data % 256 ∧ rd u (WELT_SFP_MGMT_OFFSET p) = offset % 256 ∧
      rd u (WELT_SFP_MGMT_DEVSEL p) = natOf devsel ∧ rd u (WELT_SFP_MGMT_WRITE p) = natOf write ∧
      t.out = .serial 0 p (rdW u (WELT_SFP_MGMT_DATA p).addr) :: s.out ∧
      partsBut [.regs, .out] s t ∧ cellsBut [(WELT_SFP_MGMT_DATA p).addr] s t) ∧
    (rd s (WELT_SFP_MGMT_GO p) = 1 → ∀ ack data, ∃ t, exec (.sfpMgmtDone p ack data) s = .next t ∧
      rd t (WELT_SFP_MGMT_GO p) = 0 ∧ rd t (WELT_SFP_MGMT_ERR p) = natOf (!ack) ∧
      rd t (WELT_SFP_MGMT_DATA p) =
        (if ack = true ∧ rd s (WELT_SFP_MGMT_WRITE p) = 0 then data % 256 else rd s (WELT_SFP_MGMT_DATA p)) ∧
      regsOnly [(WELT_SFP_MGMT_DATA p).addr] s t) ∧
    (s.rst.busy = false → ∃ t, exec .bypassReq s = .next t ∧ rd t WELT_CTRL_BYPASS_REQ = 1 ∧
      rd t WELT_CTRL_UNWRAP_HOLD = rd s WELT_CTRL_UNWRAP_HOLD ∧ regsOnly [WELT_CTRL_BYPASS_REQ.addr] s t)

/-- Unwrapping (R48, R49), with the ring domain out of reset: a stable port in TRIAL proposes the lap of the last lead frame plus
4 modulo 2^24, 1 in place of 0, and 0 where no train was seen; an unanswered request is sent again; a request that reaches a
port which has proposed is acknowledged with the agreed lap, which is the later one in modular order, or the one that is not 0;
an acknowledgement gives the agreed lap. The agreed value 0, or a lap whose free window the port is inside, takes it UP at once;
another one waits for UNWRAP, which comes at the start of the port's first free window in that lap. There the port goes UP:
STATE is UP, UNWRAP is set, its normal traffic flows, and the UNWRAP notice leaves on the ring's other port. While a wrap holds,
a REFRESH leaves there (R190). A notice leaves at once where the port may start a frame (R76), and waits otherwise. -/
def Obligations.UnwrapIsAgreed : Prop :=
  ∀ (p : Nat) (s : State), p < 4 → ¬ (s.rst.busy = true ∧ s.rst.full = true) →
    (rd s (WELT_PORT_STAT_STATE p) = 3 → rd s (WELT_PORT_STAT_LDLY_VALID p) = 1 → ∃ l t,
      (if (s.port p).trainSeen = true then
        (if (s.trn.leadLap.getD 0 + 4) % 16777216 = 0 then l = 1 else l = (s.trn.leadLap.getD 0 + 4) % 16777216)
       else l = 0) ∧
      exec (.unwrapRequest p) s = .next t ∧ (t.port p).own = some l ∧
      t.out = .linkFrame p (linkPayload 3 0 (ftNow16 s) 0 0 l) :: s.out ∧ partsBut [.ports, .out] s t ∧
      ∀ m, m ≠ p → t.port m = s.port m) ∧
    (∀ l, (s.port p).own = some l → (s.port p).agreed = none →
      exec (.unwrapResend p) s = .next (s.emit (.linkFrame p (linkPayload 3 0 (ftNow16 s) 0 0 l)))) ∧
    (∀ lap, rd s (WELT_PORT_STAT_STATE p) = 3 → (s.port p).own = none → ∃ t, exec (.unwrapAck p 3 lap) s = .next t ∧
      (t.port p).nbr = some lap ∧ t.out = s.out ∧ partsBut [.ports] s t ∧ ∀ m, m ≠ p → t.port m = s.port m) ∧
    (∀ l, inFreeOf s p l = true ↔ tLap s ≠ 0 ∧ inWindow (trainWindow s p) (lapPos s) = false ∧
      l = ((if (trainWindow s p).2 ≤ lapPos s then lapNow s else lapNow s - 1) % 16777216).toNat) ∧
    (∀ a b l, rd s (WELT_PORT_STAT_STATE p) = 3 → (s.port p).own = some a →
      l = (if a = 0 then b else if b = 0 then a else if 0 < modDiff 24 a b then a else b) →
      ∃ t, t.out = .linkFrame p (linkPayload 4 0 (ftNow16 s) 0 0 l) :: s.out ∧ (t.port p).nbr = some b ∧
        ((t.port p).agreed = if l = 0 ∨ inFreeOf s p l = true then (s.port p).agreed else some l) ∧ partsBut [.ports, .out] s t ∧
        (∀ m, m ≠ p → t.port m = s.port m) ∧
        exec (.unwrapAck p 3 b) s = .next (if l = 0 ∨ inFreeOf s p l = true then toUp t p else t)) ∧
    (∀ a l, rd s (WELT_PORT_STAT_STATE p) = 3 → (s.port p).own = some a →
      ∃ t, ((t.port p).agreed = if l = 0 ∨ inFreeOf s p l = true then (s.port p).agreed else some l) ∧ partsBut [.ports] s t ∧
        (∀ m, m ≠ p → t.port m = s.port m) ∧ exec (.unwrapAck p 4 l) s = .next (if l = 0 ∨ inFreeOf s p l = true then toUp t p else t)) ∧
    (∀ l, rd s (WELT_PORT_STAT_STATE p) = 3 → (s.port p).agreed = some l →
      exec (.unwrap p) s = .next (toUp (if tLap s = 0 then s else lapSync (advanceTo s (unwrapAt s p l))) p) ∧
      ∀ d, d = modDiff 24 l (lapNow s) →
        (0 < d ∨ (d = 0 ∧ lapPos s ≤ (trainWindow s p).2) →
          unwrapAt s p l = ((rd s BELL_EPOCH_OFS_NS : Int) + (lapNow s + d) * tLap s + (trainWindow s p).2).toNat) ∧
        (d < 0 ∨ (d = 0 ∧ (trainWindow s p).2 < lapPos s) → unwrapAt s p l = nextFree s p)) ∧
    (∃ v w, rd v (WELT_PORT_STAT_STATE p) = 4 ∧ rd v (WELT_PORT_EVT_UNWRAP p) = 1 ∧ (v.port p).tx = txOf v p ∧
      (v.port p).own = none ∧ (v.port p).agreed = none ∧
      ringFrame p [(WELT_PORT_STAT_STATE p).addr, (WELT_PORT_EVT_UNWRAP p).addr] s v ∧
      w = (if rd s (WELT_PORT_STAT_STATE (facing p)) = 4 then ringSend v (facing p) (.notice (noticeFrame v p 2)) else v) ∧
      toUp s p = if (ownLink w p).rst.busy then ownLink w p else portReason (ownLink w p)) ∧
    (rd s (WELT_PORT_STAT_STATE p) ≠ 4 → exec (.faultNoticeRefresh p) s = .next
      (if rd s (WELT_PORT_STAT_STATE (facing p)) = 4 then ringSend s (facing p) (.notice (noticeFrame s p 3)) else s)) ∧
    ∀ f : List Byte,
      ((s.port p).waiting = [] → ringMay s p f.length = true → ∃ t, ringSend s p (.notice f) = t ∧ t.out = .ringFrame p f false :: s.out ∧
        (t.port p).sendTo = ftNs s + (wireTenths s p f.length + 9) / 10 ∧ partsBut [.ports, .out] s t ∧ ∀ m, m ≠ p → t.port m = s.port m) ∧
      (¬ ((s.port p).waiting = [] ∧ ringMay s p f.length = true) →
        ringSend s p (.notice f) = s.setPort p { s.port p with waiting := ringQueue (s.port p).waiting (.notice f) })

/-- The link-delay exchange (R50 to R52), with the ring domain out of reset. In TRIAL without LDLY_VALID a request leaves at once where
the port sends nothing; on an UP port it leaves in the free window, and waits for it where need be; the request carries its sequence
number and its fabric time, and the sequence number advances modulo 65,536. A request that arrives in TRIAL or UP is answered with
its sequence number, the time it arrived, and TURN, where a frame may start TURN later, and is kept waiting otherwise. The response that
carries the sequence number of the exchange gives the sample
((t4 - t1) - TURN) ÷ 2 + WELT_ASYM in units of 2^-16 ns, and ends the exchange; no response within 1 ms ends it alone. A sample out
of range is rejected, sets LDLY_RANGE and clears LDLY_VALID; without LDLY_VALID the fourth good sample sets WELT_LDLY to the mean;
with it, a sample within 100 ns moves WELT_LDLY by an eighth of the difference, and the fourth of consecutive rejections replaces
it and sets LDLY_STEP. Where a quotient is no whole number of 2^-16 ns, its rounding is the model's open value (log entry 38). -/
def Obligations.LinkDelayIsMeasured : Prop :=
  ∀ (p : Nat) (s : State), p < 4 → ¬ (s.rst.busy = true ∧ s.rst.full = true) →
    (∀ n, ringMay s p n = true ↔ (s.port p).sendTo ≤ ftNs s ∧ (s.port p).trainTo ≤ ftNs s ∧
      (rd s (WELT_PORT_STAT_STATE p) = 3 ∨ (rd s (WELT_PORT_STAT_STATE p) = 4 ∧ (tLap s = 0 ∨ mayStart s p n = true)))) ∧
    (rd s (WELT_PORT_STAT_STATE p) = 4 ∨ rd s (WELT_PORT_STAT_STATE p) = 3 ∧ rd s (WELT_PORT_STAT_LDLY_VALID p) = 0 →
      ((s.port p).waiting = [] → ringMay s p 64 = true → ∃ t, exec (.linkDelayStart p) s = .next t ∧
        (t.port p).exch = some ((s.port p).seq, ftNow16 s) ∧ (t.port p).seq = ((s.port p).seq + 1) % 65536 ∧
        (t.port p).sendTo = ftNs s + (wireTenths s p 64 + 9) / 10 ∧
        t.out = .linkFrame p (linkPayload 1 (s.port p).seq (ftNow16 s) 0 0 0) :: s.out ∧
        partsBut [.ports, .out] s t ∧ ∀ m, m ≠ p → t.port m = s.port m) ∧
      (¬ ((s.port p).waiting = [] ∧ ringMay s p 64 = true) →
        exec (.linkDelayStart p) s = .next (s.setPort p { s.port p with waiting := (s.port p).waiting ++ [.request] }))) ∧
    (∀ dt seq (turn : Nat) a ready, a = advance s dt → ready = stepFt a (turn * 2 ^ 32) →
      rd s (WELT_PORT_STAT_STATE p) = 3 ∨ rd s (WELT_PORT_STAT_STATE p) = 4 →
      ((s.port p).waiting = [] → ringMay ready p 64 = true → ∃ t, exec (.delayRequest dt p seq turn) s = .next t ∧
        t.out = .linkFrame p (linkPayload 2 seq (ftNow16 a + turn) (ftNow16 a) turn 0) :: a.out ∧
        (t.port p).sendTo = ftNs ready + (wireTenths s p 64 + 9) / 10 ∧ t.clk = a.clk ∧
        partsBut [.clk, .ports, .out] s t ∧ ∀ m, m ≠ p → t.port m = s.port m) ∧
      (¬ ((s.port p).waiting = [] ∧ ringMay ready p 64 = true) → exec (.delayRequest dt p seq turn) s =
        .next (a.setPort p { a.port p with waiting := (s.port p).waiting ++ [.response seq (ftNow16 a)] }))) ∧
    (∀ dt sub n t1 turn, (s.port p).exch = some (n, t1) → ∃ u, (u.port p).exch = none ∧ u.clk = (advance s dt).clk ∧
      partsBut [.clk, .ports] s u ∧ (∀ m, m ≠ p → u.port m = s.port m) ∧
      exec (.delayResponse dt sub p n turn) s = .next (filterSample u p
        (roundDiv ((ftNow16 u : Int) + roundDiv (cycleUnits u * sub) (32 * 2 ^ 32) - t1 - turn) 2 + rdI u (WELT_ASYM_ASYM p)))) ∧
    (∃ t, exec (.delayNoResponse p) s = .next t ∧ (t.port p).exch = none ∧ (t.port p).ldN = (s.port p).ldN ∧
      (t.port p).ldRej = (s.port p).ldRej ∧ partsBut [.ports] s t ∧ ∀ m, m ≠ p → t.port m = s.port m) ∧
    ∀ (x : Int), ∃ t, filterSample s p x = t ∧ portFrame p [(WELT_PORT_STAT_LDLY_VALID p).addr, (WELT_LDLY_NS p).addr, (WELT_LDLY_CNT_OK p).addr,
          (WELT_PORT_EVT_LDLY_RANGE p).addr] s t ∧
      (x < 0 ∨ 65535 * 65536 < x → rd t (WELT_PORT_EVT_LDLY_RANGE p) = 1 ∧ rd t (WELT_PORT_STAT_LDLY_VALID p) = 0 ∧
        (t.port p).ldN = 0 ∧ ldlyOf t p = ldlyOf s p ∧
        rd t (WELT_LDLY_CNT_REJ p) = (rd s (WELT_LDLY_CNT_REJ p) + 1) % 65536) ∧
      (0 ≤ x → x ≤ 65535 * 65536 → rd s (WELT_PORT_STAT_LDLY_VALID p) = 0 →
        rd t (WELT_LDLY_CNT_OK p) = (rd s (WELT_LDLY_CNT_OK p) + 1) % 65536 ∧
        if (s.port p).ldN = 3 then rd t (WELT_PORT_STAT_LDLY_VALID p) = 1 ∧
          rd t (WELT_LDLY_NS p) = (roundDiv ((s.port p).ldSum + x) 4).toNat / 65536 % 65536 ∧
          rd t (WELT_LDLY_FRAC p) = (roundDiv ((s.port p).ldSum + x) 4).toNat % 65536
        else rd t (WELT_PORT_STAT_LDLY_VALID p) = 0 ∧ (t.port p).ldN = (s.port p).ldN + 1 ∧
          (t.port p).ldSum = (s.port p).ldSum + x ∧ ldlyOf t p = ldlyOf s p) ∧
      (0 ≤ x → x ≤ 65535 * 65536 → rd s (WELT_PORT_STAT_LDLY_VALID p) = 1 → rd t (WELT_PORT_STAT_LDLY_VALID p) = 1 ∧
        if (x - ldlyOf s p).natAbs ≤ 100 * 65536 then (t.port p).ldRej = 0 ∧
          rd t (WELT_LDLY_NS p) = (roundDiv ((ldlyOf s p : Int) * 8 + (x - ldlyOf s p)) 8).toNat / 65536 % 65536 ∧
          rd t (WELT_LDLY_FRAC p) = (roundDiv ((ldlyOf s p : Int) * 8 + (x - ldlyOf s p)) 8).toNat % 65536
        else if (s.port p).ldRej = 3 then (t.port p).ldRej = 0 ∧ rd t (WELT_PORT_EVT_LDLY_STEP p) = 1 ∧
          rd t (WELT_LDLY_NS p) = x.toNat / 65536 % 65536 ∧ rd t (WELT_LDLY_FRAC p) = x.toNat % 65536
        else (t.port p).ldRej = (s.port p).ldRej + 1 ∧ ldlyOf t p = ldlyOf s p)

/-- A train frame arrives at an UP port (R58, R70, R73, R80, R120), sub/32 cycles into the cycle. The frame sorts its train, a good lead frame
tells the hub its time and roles, and unless the hub launches the ring the frame leaves by the facing port, or by the same one at a
wrap. Of the frames of the current lap a lead makes its train RUNNING, or COMPLETE where it is FINAL too, and ends HEADLESS of its
ring and its quiet (R88); a later frame of a RUNNING train keeps or completes it; a lead of another lap is counted stale. A frame that is
no lead, whose TCRC is right and that carries none of the hub's own slots leaves byte for byte as it came, and so does every good frame of
an unknown version (R85). In a lead frame of a known one that leaves, CORRECTION
grows by the link delay and the residence. A frame whose TCRC is wrong is counted in TRN_HDR_ERR, and only VER_UNKNOWN may be set
beside. A train frame waiting 2 µs truncates the message frame that the port still sends, and is counted. -/
def Obligations.TrainFramesPassTheHub : Prop :=
  (∀ (s u : State) (dt sub res p : Nat) (f : List Byte), u = lapSync (advance s dt) → p < 4 →
    rd u (WELT_PORT_STAT_STATE p) = 4 → ¬ (u.rst.busy = true ∧ u.rst.full = true) → ∃ v a w, v = sortTrain (leadCapture u f) f ∧ a = (if fShape f = true ∧ fLead f = true then leadArr v f else v) ∧
      w = (if (fBank u f).isSome = true ∧ fLead f = true ∧ fGood f = true then leadGood a p sub f else a) ∧
      exec (.trainFramePass dt sub res p f) s = .next (frameEnd (if launches u (p / 2) = true then w
        else (leaveBy w (egressOf u p) res f).emit (.trainFrame (egressOf u p) (passFrame u p res f))) f)) ∧
  (∀ (s : State) (f : List Byte), fShape f = true → fTrain f < 4 → ∃ t, sortTrain s f = t ∧
    (fLap f = lapMod s → fLead f = true → (t.train (fTrain f)).st = (if fFinal f = true then .complete else .running) ∧
      (t.train (fTrain f)).lastNo = fNo f ∧ bits (rd t TRN_STATUS_HEADLESS) (2 * (fTrain f / 2)) 2 = 0 ∧ (t.ring (fTrain f / 2)).quiet = ftNs s ∧
      partsBut [.regs, .trn] s t ∧ cellsBut [TRN_STATUS_HEADLESS.addr] s t) ∧
    (fLap f = lapMod s → fLead f = false → (s.train (fTrain f)).st = .running →
      (t.train (fTrain f)).st = (if fFinal f = true then .complete else .running) ∧ (t.train (fTrain f)).lastNo = fNo f ∧
      partsBut [.trn] s t) ∧
    (fLap f ≠ lapMod s → fLead f = true →
      rd t (TRN_STALE_CNT_LEADS (fTrain f)) = min (rd s (TRN_STALE_CNT_LEADS (fTrain f)) + 1) (2 ^ (TRN_STALE_CNT_LEADS 0).w - 1) ∧
      regsOnly [(TRN_STALE_CNT_LEADS (fTrain f)).addr] s t)) ∧
  (∀ (s : State) (p res : Nat) (f : List Byte), fLead f = false → fGood f = true →
    (∀ bank, fBank s f = some bank → ∀ c ∈ fCopies f, isOwn s (slotId c) bank = false) → passFrame s p res f = f) ∧
  (∀ (s : State) (p res : Nat) (f : List Byte), fBank s f = none → fGood f = true → passFrame s p res f = f) ∧
  (∀ (s : State) (p res : Nat) (f : List Byte), (fBank s f).isSome = true → fLead f = true → 40 ≤ f.length →
    slice (passFrame s p res f) 28 8 = beBytes 8 (wrapTo 64 (fCorr f + ldly16 s p + subNs s res))) ∧
  (∀ (s : State) (f : List Byte), fGood f = false → ∃ t, frameEnd s f = t ∧
    rd t (TRN_HDR_ERR_COUNT (fTrain f)) = min (rd s (TRN_HDR_ERR_COUNT (fTrain f)) + 1) (2 ^ (TRN_HDR_ERR_COUNT 0).w - 1) ∧
    (fShape f = true → bankOf s (fVer f) = none → rd t TRN_EVT_VER_UNKNOWN = 1) ∧
    regsOnly [(TRN_HDR_ERR_COUNT (fTrain f)).addr, TRN_EVT_VER_UNKNOWN.addr] s t) ∧
  ∀ (s : State) (p t : Nat), p < 4 → rd s (WELT_PORT_STAT_STATE p) = 4 → ftNs s < (s.port p).sendTo → ∃ u v, u = slip (newRun (lapSync s) p t) p t ∧
    exec (.trainFifoStomp p t) s = .next v ∧ v.out = .truncate p :: u.out ∧ (v.port p).stomped = true ∧ (v.port p).sendTo = ftNs s ∧
    rd v (TRN_STOMP_CNT_COUNT p) = min (rd u (TRN_STOMP_CNT_COUNT p) + 1) (2 ^ (TRN_STOMP_CNT_COUNT 0).w - 1) ∧
    partsBut [.regs, .ports, .out] u v ∧ cellsBut [(TRN_STOMP_CNT_COUNT p).addr] u v

/-- Judging and launching of trains (R66, R78, R80, R81, R84, R88). A RUNNING train without frames becomes BROKEN, one without its lead
OVERDUE, and its ring is judged. A ring is judged only while the hub is joined, has an UP port of it, and it was not headless; it is
headless when none of its trains lives and one is dead: HEADLESS and HEAD_LOSS are set, TRN_HEAD_LOSS is raised, and a standby
takes the ring over. A lap of a joined hub without a good frame sets LAP_MISS and raises TRN_LAP_MISS with the lap. The tracked
window is left after four laps inside the programmed one. An acting head launches, at the lap boundary, each ring it acts on and has not
launched in this lap; after ST10 a named
head that finds no fresh train on a ring for 2 laps, or 16 for the secondary, starts the ring from the next boundary; a repair launch sends,
once the port sends nothing, the frames the dead head did not, with SEC = 1, and counts them. Frames
leave by the train's own port, or turn back at a wrap. -/
def Obligations.TrainsAreJudgedAndLaunched : Prop :=
  (∀ (s u : State) (t : Nat), t < 4 →
    (u = lapSync s → (u.train t).st = .running → ∃ v, exec (.trainBroken t) s = .next (judgeRing v (t / 2)) ∧ (v.train t).st = .broken ∧
      (v.train t).lastNo = (u.train t).lastNo ∧ partsBut [.trn] u v ∧ ∀ k, k ≠ t → v.train k = u.train k) ∧
    (u = lapSync s → (u.train t).st = .wait → ∃ v, exec (.trainOverdue t) s = .next (judgeRing v (t / 2)) ∧ (v.train t).st = .overdue ∧
      partsBut [.trn] u v ∧ ∀ k, k ≠ t → v.train k = u.train k) ∧
    (∀ l, u = lapSync (advanceTo s (ringBusy s (if isUp s t = true then t else facing t))) →
      launches u (t / 2) = true → rd u TRN_TLAP_NS ≠ 0 → (u.train t).st = .broken ∨ (u.train t).st = .overdue →
      l = trainFrames u true t (if (u.train t).st = .broken then (u.train t).lastNo + 1 else 0) → exec (.repairLaunch t) s =
      .next ((addSat (sendTrain u t l) (TRN_STALE_CNT_REPAIR t) l.length).setTrain t { u.train t with st := .broken, lastNo := 65535 }))) ∧
  (∀ (s : State) (r : Nat), r < 2 →
    (rd s TRN_STATUS_JOINED = 0 ∨ (isUp s (2 * r) = false ∧ isUp s (2 * r + 1) = false) ∨ headless s r = true ∨
      (s.train (2 * r)).st ∈ [.running, .complete] ∨ (s.train (2 * r + 1)).st ∈ [.running, .complete] ∨
      ((s.train (2 * r)).st = .wait ∧ (s.train (2 * r + 1)).st = .wait) → judgeRing s r = s) ∧
    (rd s TRN_STATUS_JOINED = 1 → isUp s (2 * r) = true ∨ isUp s (2 * r + 1) = true → headless s r = false →
      (∀ k, k = 2 * r ∨ k = 2 * r + 1 → (s.train k).st ∈ [.wait, .broken, .overdue]) →
      ((s.train (2 * r)).st ≠ .wait ∨ (s.train (2 * r + 1)).st ≠ .wait) → ∃ u v,
      bits (rd u TRN_STATUS_HEADLESS) (2 * r) 2 = 3 ∧ rd u (if r = 0 then TRN_EVT_HEAD_LOSS_A else TRN_EVT_HEAD_LOSS_B) = 1 ∧
      regsOnly [TRN_STATUS_HEADLESS.addr, TRN_EVT_HEAD_LOSS_A.addr] s u ∧ v = raise u 17 (rd u TRN_STATUS_HEADLESS) ∧
      judgeRing s r = if flag v TRN_STATUS_STANDBY = true ∧ launches v r = false then takeRing v r else v) ∧
    (∀ v, v = lapSync s → rd v TRN_CTRL_ROLE = 1 ∨ rd v TRN_CTRL_ROLE = 2 → s.rst.busy = false → launches v r = false → 10 < rd v SYS_STEP_STEP →
      rd v TRN_TLAP_NS ≠ 0 → ∃ w u, w = lapSync (advanceTo v ((v.ring r).quiet + (if rd v TRN_CTRL_ROLE = 1 then 2 else 16) * rd v TRN_TLAP_NS)) ∧
      partsBut [.trn] w u ∧ u.trn.merge = (if merges w = true then w.trn.merge else []) ∧ exec (.headStartLaunch r) s = .next (startRing u r (lapNow u))) ∧
    (∀ lap, ∃ u, startRing s r lap = originSettle u ∧ launches u r = true ∧ (u.ring r).launched = some lap ∧ launches u (1 - r) = launches s (1 - r) ∧
      (launches s (1 - r) = true → rd u TRN_STATUS_STANDBY = 0) ∧ partsBut [.regs, .trn] s u ∧ cellsBut [TRN_STATUS_STANDBY.addr] s u)) ∧
  (∀ (s : State), rd s TRN_TLAP_NS ≠ 0 →
    (∃ u v, u = lapSync s ∧ v = lapSync (advanceTo u (boundaryNs u (rd u TRN_TLAP_NS) (lapNow u + 1)).toNat) ∧
      (if rd u TRN_STATUS_JOINED = 1 ∧ u.trn.judge = true ∧ u.trn.good = false then ∃ w, rd w TRN_EVT_LAP_MISS = 1 ∧
          w.trn = { v.trn with missing := true, missLap := lapMod u } ∧ partsBut [.trn, .regs] v w ∧ cellsBut [TRN_EVT_LAP_MISS.addr] v w ∧
          exec .trnLapMiss s = .next (raise w 18 (lapMod u))
        else exec .trnLapMiss s = .next v)) ∧
    (∀ r, launchDue s r = true ↔ launches s r = true ∧ ∀ n, (s.ring r).launched = some n → n < lapNow s) ∧
    (launches s 0 = true ∨ launches s 1 = true → ¬ (s.rst.busy = true ∧ s.rst.full = true) → ∃ u v,
      u = lapSync (if (launchDue s 0 = true ∨ launchDue s 1 = true) ∧ lapPos s ≤ 1 then s
        else advanceTo s (boundaryNs s (rd s TRN_TLAP_NS) (lapNow s + 1)).toNat) ∧ v = each [0, 1] applyYield u ∧
      exec .lapLaunch s = .next (each ([0, 1].filter (launchDue v)) launchRing v))) ∧
  (∀ (s : State) (t : Nat) (l : List (List Byte)), (sendTrain s t l).out =
    (if rd s (WELT_PORT_STAT_STATE t) = 4 then (l.map (Output.trainFrame t)).reverse ++ s.out
     else if rd s (WELT_PORT_STAT_STATE (facing t)) = 4 then (l.map (Output.trainFrame (facing t))).reverse ++ s.out else s.out)) ∧
  ∀ (s : State) (p : Nat), p < 4 → rdBit s TRN_STATUS_TRACK p = true → 4 ≤ (s.port p).inside → ∃ t, exec (.trackReturn p) s = .next t ∧
    rdBit t TRN_STATUS_TRACK p = false ∧ (t.port p).inside = 0 ∧ portFrame p [TRN_STATUS_TRACK.addr] s t

/-- Roles and schedules (R69, R83, R85). ROLE_COMMAND writes its fields and its GO is done: a hub that launches no ring is refused
(GO 0, ROLE_FAIL) where it names no ring or another head, and, where all rings it names are headless and it stands by, takes them all;
a hub that launches every named ring and names another head at least four laps ahead starts the handover, GO 1. At the boundary of the lap of the
handover a head that has sent the confirmation on all named rings stands down on them, GO 0 and HANDOVER; one that has not fails
and goes on launching; the named hub takes the rings it was confirmed for from that boundary, or from the next one where it has passed.
TRN_SW_LAP is written at an acting head only. At that
lap the head builds its frames under the pending schedule; a pending schedule that every train brought, or that was first seen two laps
ago, becomes active: version, bank, VER_SWITCH, nothing pending, and merge entries are kept for its slots alone (R86). An access of the layout word steps WORD while INC is 1; a write reaches the inactive bank alone. -/
def Obligations.RolesAndSchedulesChange : Prop :=
  (∀ (s : State) (nh : Nat) (a b : Bool), s.rst.busy = false → ∃ u, regsOnly [TRN_ROLE_CMD_GO.addr] s u ∧
    rd u TRN_ROLE_CMD_NEW_HEAD = nh % 2 ^ 12 ∧ rd u TRN_ROLE_CMD_GO = rd s TRN_ROLE_CMD_GO ∧
    roleRings u = (if a = true then [0] else []) ++ (if b = true then [1] else []) ∧ 
    (∃ v, exec (.roleCommand nh a b) s = .next v ∧
    (launches u 0 = false → launches u 1 = false → roleRings u = [] ∨ nh % 2 ^ 12 ≠ rd s SYS_HUB_ID_ID →
      rd v TRN_ROLE_CMD_GO = 0 ∧ rd v TRN_EVT_ROLE_FAIL = 1 ∧ regsOnly [TRN_ROLE_CMD_GO.addr, TRN_EVT_ROLE_FAIL.addr] s v) ∧
    (launches u 0 = false → launches u 1 = false → roleRings u ≠ [] → nh % 2 ^ 12 = rd s SYS_HUB_ID_ID →
      nh % 2 ^ 12 ≠ 0 → nh % 2 ^ 12 ≠ 4095 → (∀ r ∈ roleRings u, headless u r = true) → rd u TRN_STATUS_STANDBY = 1 →
      v = wr (each (roleRings u) takeRing u) TRN_ROLE_CMD_GO 0) ∧
    (roleRings u ≠ [] → (∀ r ∈ roleRings u, launches u r = true) → nh % 2 ^ 12 ≠ rd s SYS_HUB_ID_ID →
      nh % 2 ^ 12 ≠ 0 → nh % 2 ^ 12 ≠ 4095 → 4 ≤ lapsAhead u → lapsAhead u ≤ 2 ^ 23 →
      rd v TRN_ROLE_CMD_GO = 1 ∧ partsBut [.regs, .trn] u v ∧ cellsBut [TRN_ROLE_CMD_GO.addr] u v))) ∧
  (∀ (s u : State), u = toLap s (rd s TRN_ROLE_LAP_LAP) → ¬ (s.rst.busy = true ∧ s.rst.full = true) → rd s TRN_ROLE_CMD_GO = 1 →
    launches s 0 = true ∨ launches s 1 = true → rd u TRN_ROLE_CMD_GO = 1 → launches u 0 = true ∨ launches u 1 = true →
    ((∀ r < 2, (u.ring r).confGot = none ∨ launches u r = true) →
      (∃ r ∈ roleRings u, launches u r = false ∨ (u.ring r).confSent = false) → ∃ v, exec .handoverLap s = .next v ∧
      rd v TRN_ROLE_CMD_GO = 0 ∧ rd v TRN_EVT_ROLE_FAIL = 1 ∧ (∀ r, launches v r = launches u r) ∧
      (∀ r ∈ roleRings u, (v.ring r).ackSeen = false ∧ (v.ring r).confSent = false) ∧
      partsBut [.regs, .trn] u v ∧ cellsBut [TRN_ROLE_CMD_GO.addr, TRN_EVT_ROLE_FAIL.addr] u v) ∧
    ((∀ r ∈ roleRings u, launches u r = true ∧ (u.ring r).confSent = true) → ∃ v,
      v = wrs (each (roleRings u) standDown u) [(TRN_ROLE_CMD_GO, 0), (TRN_EVT_HANDOVER, 1)] ∧ exec .handoverLap s = .next
        (each ([0, 1].filter fun r => (u.ring r).confGot.isSome && !launches u r) takeAtLap v))) ∧
  (∀ (s u : State) (lap : Nat), ¬ (s.rst.busy = true ∧ s.rst.full = true) → launches s 0 = false → launches s 1 = false →
    (s.ring 0).confGot = some lap ∨ ((s.ring 0).confGot = none ∧ (s.ring 1).confGot = some lap) → u = toLap s lap →
    (handsOver u = false → exec .handoverLap s = .next (each ([0, 1].filter fun r => (u.ring r).confGot.isSome && !launches u r) takeAtLap u)) ∧
    (∀ r, takeAtLap u r = wr (startRing (u.setRing r { u.ring r with confGot := none }) r
      (if (u.ring r).confGot = some (lapMod u) ∧ lapPos u ≤ 1 then lapNow u - 1 else lapNow u)) TRN_EVT_TAKEOVER 1) ∧
    toLap s lap = (if tLap s = 0 ∨ modDiff 24 lap (lapNow s) ≤ 0 then s
      else lapSync (advanceTo s ((rd s BELL_EPOCH_OFS_NS : Int) + (lapNow s + modDiff 24 lap (lapNow s)) * tLap s).toNat))) ∧
  (∀ (s : State) (lap : Nat) (arm : Bool), s.rst.busy = false → ∃ t, exec (.swLapWrite lap arm) s = .next t ∧
    (if launches s 0 = true ∨ launches s 1 = true then rd t TRN_SW_LAP_LAP = lap % 2 ^ 24 ∧
      rd t TRN_SW_LAP_ARM = (if arm = true then 1 else rd s TRN_SW_LAP_ARM) ∧ regsOnly [TRN_SW_LAP_LAP.addr] s t else t = s)) ∧
  (∀ (s u : State),
    (rd s TRN_SCHED_PEND_VALID = 1 → rd s TRN_SW_LAP_ARM = 1 → launches s 0 = true ∨ launches s 1 = true → u = toLap s (rd s TRN_SW_LAP_LAP) →
      ∃ t, exec .scheduleSwitch s = .next t ∧ rd t TRN_SW_LAP_ARM = 0 ∧ t.trn = { u.trn with launchPend := true } ∧
      partsBut [.regs, .trn] u t ∧ cellsBut [TRN_SW_LAP_ARM.addr] u t) ∧
    (rd s TRN_SCHED_PEND_VALID = 1 → s.trn.pendSeen ≠ 0 →
      u = (if ∀ t < 4, isUp s (facing t) = true → bitOf s.trn.pendSeen t = true then s else lapSync (advanceTo s (s.trn.pendFirst + 2 * tLap s))) →
      u.trn.pendWin = [] → ∃ t, exec .verSwitch s = .next t ∧
      rd t TRN_SCHED_ACT_VER = rd u TRN_SCHED_PEND_VER ∧ rd t TRN_SCHED_BANK = 1 - rd u TRN_SCHED_BANK ∧
      rd t TRN_SCHED_PEND_VALID = 0 ∧ rd t TRN_EVT_VER_SWITCH = 1 ∧ t.trn.pendSeen = 0 ∧ t.trn.launchPend = false ∧
      t.trn.merge = u.trn.merge.filter (fun e => (layoutSlots u (1 - rd u TRN_SCHED_BANK)).contains e.1) ∧
      partsBut [.regs, .trn] u t ∧ cellsBut [TRN_SCHED_ACT_VER.addr, TRN_EVT_VER_SWITCH.addr] u t)) ∧
  ∀ (s : State) (x : Option Nat) (b k : Nat), s.rst.busy = false → b = rd s TRN_LAYOUT_ADDR_BANK → k = rd s TRN_LAYOUT_ADDR_WORD →
    ∃ t, exec (.layoutDataAccess x) s = .next t ∧
    rd t TRN_LAYOUT_ADDR_WORD = (if rd s TRN_LAYOUT_ADDR_INC = 1 then (k + 1) % 2 ^ TRN_LAYOUT_ADDR_WORD.w else k) ∧
    partsBut [.regs, .mem, .out] s t ∧ cellsBut [TRN_LAYOUT_ADDR_WORD.addr] s t ∧
    (x = none → memSame s t ∧ t.out = .busRsp 0 0 (if stretchOn s = true then memWord s (layoutBase + (b * 12544 + k) * 4) else 0) :: s.out) ∧
    ∀ v, x = some v → t.out = s.out ∧ (if stretchOn s = true ∧ b ≠ rd s TRN_SCHED_BANK then
      (∀ a, a < layoutBase + (b * 12544 + k) * 4 ∨ layoutBase + (b * 12544 + k) * 4 + 4 ≤ a → memGet t a = memGet s a) ∧
      ∀ i < 4, memGet t (layoutBase + (b * 12544 + k) * 4 + i) = BitVec.ofNat 8 (v / 256 ^ i) else memSame s t)

/-- The Ledger (R71, R72, R100, R101, R106). At the next tick boundary every held entry ages: AGE is 0 where a copy was accepted, and one more up to 1,023
otherwise; QUAL follows the first row of the table that holds; the acceptance bits of ticks gone by are cleared; no byte outside the status
words changes, a RESUME that waits for this boundary takes effect, and the hub may return from DEGRADED. The newer-stamp rule accepts a copy of an entry that holds none when its stamp is current, a copy of the same
stamp for its flags alone when its mark ranks higher, and otherwise a current copy that is newer or replaces a stale stamp. The
alias writes bytes into the back buffer where the writer owns the index, and is refused and counted, with DENIED for management,
where it does not. -/
def Obligations.LedgerAgesAndBuffersAreWritten : Prop :=
  (∀ (s : State), s.rst.busy = false → rd s TRD_TICK_NS_NS ≠ 0 → ∃ u t, u.clk = (toBoundary s (rd s TRD_TICK_NS_NS) s.ldg.last).clk ∧
    u.ldg = { s.ldg with last := some (tickNow u) } ∧ partsBut [.clk, .ldg] s u ∧
    exec .ledgerAging s = .next (degradedReturn (resumeDue t)) ∧
    (((heldEntries u).filter fun e => turnsStale u (stWord u e) (agedWord u e)) = [] →
      t.ldg.accepted = u.ldg.accepted.filter (fun x => decide (ledgerTick u ≤ x.2)) ∧ partsBut [.mem, .ldg] u t ∧
      (∀ e ∈ heldEntries u, ∃ w, w = setBits (stWord u e) 14 10
          (if u.ldg.accepted.any (fun x => x.1 == e) = true then 0 else min 1023 (bits (stWord u e) 14 10 + 1)) ∧
        stWord t e = setBits w 24 3 (evalQual u w) % 2 ^ 32) ∧
      (∀ a, a < 0x500E0000 ∨ 0x500EE000 ≤ a → memGet t a = memGet u a))) ∧
  (∀ (s : State) (w : Nat), evalQual s w =
    if bitOf w 11 = false then 2
    else if bitOf w 13 = true ∧ w / 2 ^ 14 % 2 ^ 10 ≤ rd s LDG_CTRL_HOLD_LIMIT then 4
    else if max 1 (rd s (LDG_MAXAGE_MAXAGE (w / 2 ^ 29 % 8))) < w / 2 ^ 14 % 2 ^ 10 then 2
    else if bitOf w 12 = true then 3 else if w / 2 ^ 14 % 2 ^ 10 = 0 then 0 else 1) ∧
  (∀ (τ stamp flags hs hf : Nat),
    (pick τ none stamp flags = if (τ + 256 - stamp % 256) % 256 < 64 then .whole else .reject) ∧
    (pick τ (some (stamp, hf)) stamp flags = if rank hf < rank flags then .flags else .reject) ∧
    (stamp ≠ hs → 64 ≤ (τ + 256 - stamp % 256) % 256 → pick τ (some (hs, hf)) stamp flags = .reject) ∧
    (stamp ≠ hs → (τ + 256 - stamp % 256) % 256 < 64 → 64 ≤ (τ + 256 - hs % 256) % 256 →
      pick τ (some (hs, hf)) stamp flags = .whole) ∧
    (stamp < 256 → hs < 256 → stamp ≠ hs → (τ + 256 - stamp % 256) % 256 < 64 → (τ + 256 - hs % 256) % 256 < 64 →
      pick τ (some (hs, hf)) stamp flags = if (stamp + 256 - hs) % 256 < 128 then .whole else .reject)) ∧
  ∀ (s : State) (ini i off : Nat) (bs : List Byte), s.rst.busy = false → i < 256 → off + bs.length ≤ 64 →
    (if (if ini = 0 then bitOf (pubDesc s i) 19 = false ∧ droverIndex s i = false else bitOf (pubDesc s i) 19 = true) then
      ∃ t, exec (.aliasWrite ini i off bs) s = .next t ∧ (∀ k, k < bs.length → memGet t (backBuf s i + off + k) = bs.getD k 0) ∧
        (∀ a, a < backBuf s i + off ∨ backBuf s i + off + bs.length ≤ a → memGet t a = memGet s a) ∧
        t.out = (if ini = 2 then .busRsp 2 0 0 :: s.out else s.out) ∧ partsBut [.mem, .out] s t
    else ∃ t, exec (.aliasWrite ini i off bs) s = .next t ∧
        rd t LDG_PUB_REJ_COUNT = min (rd s LDG_PUB_REJ_COUNT + 1) (2 ^ LDG_PUB_REJ_COUNT.w - 1) ∧ rd t LDG_EVT_PUB_REJ = 1 ∧
        t.out = (if ini = 2 then .busRsp 2 5 0 :: s.out else s.out) ∧ partsBut [.regs, .out] s t ∧
        cellsBut [LDG_PUB_REJ_COUNT.addr, LDG_EVT_PUB_REJ.addr] s t)

/-- The median at the hub's lap boundary (R117, R122 to R125). FOLLOWER_LAP_MEDIAN ends the lap: NSAMP counts the samples, which are
taken away. An origin takes no median, and nobody before ST10; a follower with samples takes their median into OFFSET, one without leaves LOCKED for
HOLDOVER with FREQ at the negated integral. A second median in a row beyond STEP_THR steps fabric time back by it in the next cycle; otherwise FREE
goes to ACQUIRE, ACQUIRE to LOCKED at the eighth median in a row below 50 ns, LOCKED to ACQUIRE at the fourth of 100 ns or more, and
HOLDOVER to LOCKED or, from 50 ns, to ACQUIRE; loss of lock sets UNLOCK, clears LOCK_Q and raises BELL_UNLOCK. The timeout of a
HOLDOVER clears LOCK_Q and raises BELL_UNLOCK, once. -/
def Obligations.MediansMoveTheFollower : Prop :=
  (∀ s : State, s.rst.busy = false → ∃ u v, u = toBoundary s (rd s TRN_TLAP_NS) s.bell.lastMed ∧
    v.bell = { u.bell with lastMed := some (lapNow u) } ∧ partsBut [.bell] u v ∧ exec .followerLapMedian s = .next (lapEnd v)) ∧
  (∀ s : State, ∃ u, u.bell.samples = [] ∧ rd u BELL_STATUS_NSAMP = s.bell.samples.length % 2 ^ BELL_STATUS_NSAMP.w ∧
    rd u BELL_STATUS_STATE = rd s BELL_STATUS_STATE ∧ u.bell.noA = (if s.bell.samples.any (fun p => p.1 < 2) = true then 0 else s.bell.noA + 1) ∧
    u.bell.noLead = (if s.bell.leadSeen = true then 0 else s.bell.noLead + 1) ∧ partsBut [.regs, .bell] s u ∧
    cellsBut [BELL_STATUS_NSAMP.addr] s u ∧
    (rd s BELL_STATUS_STATE = 4 ∨ rd s SYS_STEP_STEP < 10 → lapEnd s = bellSettle (originSettle u)) ∧
    (rd s BELL_STATUS_STATE ≠ 4 → 10 ≤ rd s SYS_STEP_STEP → median (s.bell.samples.map (·.2)) = none → lapEnd s = bellSettle (originSettle (followNone u))) ∧
    ∀ x, rd s BELL_STATUS_STATE ≠ 4 → 10 ≤ rd s SYS_STEP_STEP → median (s.bell.samples.map (·.2)) = some x → lapEnd s = bellSettle (originSettle (followMedian u x))) ∧
  (∀ s : State, rd s BELL_STATUS_STATE = 2 → ∃ u, followNone s = servoHold u ∧ rd u BELL_STATUS_STATE = 3 ∧
    rd u BELL_EVT_HOLDOVER = 1 ∧ rd u BELL_PPS_CTRL_HOLDOVER_Q = 1 ∧ rd u BELL_PPS_CTRL_LOCK_Q = rd s BELL_PPS_CTRL_LOCK_Q ∧
    u.bell = { s.bell with big := 0, unlocked := false } ∧ partsBut [.regs, .bell] s u) ∧
  (∀ (s : State) (x : Int), ∃ u, rd u BELL_OFFSET_OFS = wrapTo BELL_OFFSET_OFS.w (roundDiv x (2 ^ 13)) ∧ regsOnly [BELL_OFFSET_OFS.addr] s u ∧
    (stepThr s * nsSample < x.natAbs → 1 ≤ s.bell.big → followMedian s x = followStep u x) ∧
    (∀ v, v = followState u x → x.natAbs ≤ stepThr s * nsSample →
      followMedian s x = servo { v with bell := { v.bell with big := 0 } } x (rd s TRN_TLAP_NS)) ∧
    (∀ v, v = followState u x → stepThr s * nsSample < x.natAbs → s.bell.big = 0 →
      followMedian s x = servo { v with bell := { v.bell with big := 1 } } x (rd s TRN_TLAP_NS))) ∧
  (∀ (s : State) (x : Int), ∃ u v w, rd u BELL_STATUS_STATE = 1 ∧ rd u BELL_PPS_CTRL_LOCK_Q = 0 ∧ u.clk = (advance s 1).clk ∧ partsBut [.regs, .bell, .clk] s u ∧
    v = raise u 33 (stepCause (-x / nsSample)) ∧ w = (if rd s BELL_STATUS_STATE = 2 then raise (wr v BELL_EVT_UNLOCK 1) 32 (rd v BELL_STATUS_STATE) else v) ∧
    followStep s x = bellStep w (-x * 2 ^ 31)) ∧
  (∀ (s : State) (x : Int), ∃ u, followState s x = u ∧
    (rd s BELL_STATUS_STATE = 0 → rd u BELL_STATUS_STATE = 1) ∧
    (rd s BELL_STATUS_STATE = 1 → x.natAbs < 50 * nsSample → 7 ≤ s.bell.good → rd u BELL_STATUS_STATE = 2 ∧ rd u BELL_EVT_LOCK = 1 ∧
      rd u BELL_PPS_CTRL_LOCK_Q = 1 ∧ rd u BELL_PPS_CTRL_HOLDOVER_Q = 0) ∧
    (rd s BELL_STATUS_STATE = 1 → (50 * nsSample ≤ x.natAbs ∨ s.bell.good < 7) → partsBut [.bell] s u ∧
      u.bell.good = (if 50 * nsSample ≤ x.natAbs then 0 else s.bell.good + 1)) ∧
    (rd s BELL_STATUS_STATE = 2 → (x.natAbs < 100 * nsSample ∨ s.bell.bad < 3) → partsBut [.bell] s u ∧
      u.bell.bad = (if 100 * nsSample ≤ x.natAbs then s.bell.bad + 1 else 0)) ∧
    (rd s BELL_STATUS_STATE = 3 → x.natAbs < 50 * nsSample → rd u BELL_STATUS_STATE = 2 ∧ rd u BELL_EVT_LOCK = 1 ∧
      rd u BELL_PPS_CTRL_LOCK_Q = 1 ∧ rd u BELL_PPS_CTRL_HOLDOVER_Q = 0) ∧
    ((rd s BELL_STATUS_STATE = 2 ∧ 100 * nsSample ≤ x.natAbs ∧ 3 ≤ s.bell.bad) ∨ (rd s BELL_STATUS_STATE = 3 ∧ 50 * nsSample ≤ x.natAbs) →
      ∃ v, u = raise v 32 1 ∧ rd v BELL_STATUS_STATE = 1 ∧ rd v BELL_PPS_CTRL_LOCK_Q = 0 ∧ rd v BELL_EVT_UNLOCK = 1 ∧
        partsBut [.regs, .bell] s v)) ∧
  ∀ s : State, s.rst.busy = false → rd s BELL_STATUS_STATE = 3 → s.bell.unlocked = false → ∃ u,
    exec .holdoverTimeout s = .next (bellSettle (raise u 32 3)) ∧ rd u BELL_PPS_CTRL_LOCK_Q = 0 ∧ rd u BELL_PPS_CTRL_HOLDOVER_Q = 1 ∧
    rd u BELL_EVT_UNLOCK = 1 ∧ u.bell = { s.bell with unlocked := true } ∧ partsBut [.regs, .bell] s u ∧
    cellsBut [BELL_PPS_CTRL_LOCK_Q.addr, BELL_EVT_UNLOCK.addr] s u

/-- The origin's references and PPS (R114, R118, R123, R124, R132, R133). With SRC 2 at an origin BELL_EXT_OFS is a sample of ofs ns × 2^-4 over the
time since the last one without the steps between, at least 1 ms and at most 2 s (a free value for the first); with SRC 1 the edge of PPS_IN
is one over a second, against SEC or else the next whole second. A sample goes into OFFSET and counts for EXT_LOCKED; before ST14 one beyond STEP_THR steps
fabric time, later it only raises BELL_STEP at the second in a row (log entry 120), and every sample drives the servo. FREQ is held within
±200 ppm, and CLAMP says when it was. BELL_STEP at an origin steps fabric time in the next cycle. A missing PPS_IN sets
PPSIN_MISS and FREQ goes to the negated integral. PPS_OUT rises at its instant if it is qualified, and falls its width after the rise. -/
def Obligations.OriginFollowsItsReference : Prop :=
  (∀ (s : State) (ofs : Int), s.rst.busy = false → rd s BELL_STATUS_STATE = 4 → rd s BELL_CTRL_SRC = 2 →
    (∀ p, s.bell.lastExt = some p → exec (.bellExtOfs ofs) s = .next (refSample { s with bell := { s.bell with lastExt := some (s.clk.ft.toNat : Int) } }
      (ofs * 2 ^ 13) (max 1000000 (min 2000000000 (((s.clk.ft.toNat : Int) - p) / 2 ^ 48).toNat)))) ∧
    (s.bell.lastExt = none → ∃ t, 1000000 ≤ t ∧ t ≤ 2000000000 ∧ exec (.bellExtOfs ofs) s = .next (refSample
      { s with fresh := s.fresh + 1, bell := { s.bell with lastExt := some (s.clk.ft.toNat : Int) } } (ofs * 2 ^ 13) t))) ∧
  (∀ (s : State) (x : Int) (t : Nat), ∃ u, rd u BELL_OFFSET_OFS = wrapTo BELL_OFFSET_OFS.w (roundDiv x (2 ^ 13)) ∧ regsOnly [BELL_OFFSET_OFS.addr] s u ∧
    (x.natAbs ≤ stepThr s * nsSample → refSample s x t =
      bellSettle (servo (extLock { u with bell := { u.bell with extBig := 0 } } x) x t)) ∧
    (stepThr s * nsSample < x.natAbs → rd s SYS_STATE_STATE = 1 ∨ rd s SYS_STATE_STATE = 2 → refSample s x t =
      bellSettle (bellStep (raise (extLock { u with bell := { u.bell with extBig := s.bell.extBig + 1 } } x) 33 (stepCause (-x / nsSample))) (-x * 2 ^ 31))) ∧
    (stepThr s * nsSample < x.natAbs → rd s SYS_STATE_STATE ≠ 1 → rd s SYS_STATE_STATE ≠ 2 → s.bell.extBig = 1 → refSample s x t =
      bellSettle (servo (raise (wr (extLock { u with bell := { u.bell with extBig := 2 } } x) BELL_EVT_EXT_STEP_PEND 1) 33
        (stepCause (x / nsSample))) x t)) ∧
    (stepThr s * nsSample < x.natAbs → rd s SYS_STATE_STATE ≠ 1 → rd s SYS_STATE_STATE ≠ 2 → s.bell.extBig ≠ 1 → refSample s x t =
      bellSettle (servo (extLock { u with bell := { u.bell with extBig := s.bell.extBig + 1 } } x) x t))) ∧
  (∀ (s : State) (x : Int) (g b : Nat), g = (if 50 * nsSample < x.natAbs then 0 else s.bell.extGood + 1) →
    b = (if 100 * nsSample ≤ x.natAbs then s.bell.extBad + 1 else 0) → ∃ t, extLock s x = t ∧
    t.bell = { s.bell with extGood := g, extBad := b } ∧ rd t BELL_STATUS_EXT_LOCKED =
      (if 8 ≤ g then 1 else if 4 ≤ b then 0 else rd s BELL_STATUS_EXT_LOCKED) ∧
    partsBut [.regs, .bell] s t ∧ cellsBut [BELL_STATUS_EXT_LOCKED.addr] s t) ∧
  (∀ (s : State) (f : Int), ∃ t, setFreq s f = t ∧ rdI t BELL_FREQ_FREQ = max (-219902326) (min f 219902326) ∧
    (f < -219902326 ∨ 219902326 < f → rd t BELL_EVT_CLAMP = 1) ∧
    (-219902326 ≤ f → f ≤ 219902326 → rd t BELL_EVT_CLAMP = rd s BELL_EVT_CLAMP) ∧
    regsOnly [BELL_FREQ_FREQ.addr, BELL_EVT_CLAMP.addr] s t) ∧
  (∀ (s : State) (ns : Int), s.rst.busy = false → (rd s BELL_STATUS_STATE = 4 → exec (.bellStep ns) s =
      .next (bellStep (advance s 1) (ns * 2 ^ 48))) ∧ (rd s BELL_STATUS_STATE ≠ 4 → exec (.bellStep ns) s = .next s)) ∧
  (∀ (s : State) (dt : Nat), s.rst.busy = false → ∃ e u, u = capEdge (advance s dt) 96 e ∧ e.ns = ftNs (advance s dt) ∧
    e.frac = ftFrac (advance s dt) ∧ e.rise = true ∧
    (rd s BELL_STATUS_STATE = 4 → rd s BELL_CTRL_SRC = 1 → exec (.ppsInEdge dt) s = .next (refSample
      { u with bell := { u.bell with secSet := false, ppsMiss := false } } (((e.ns * 2 ^ 16 + e.frac : Nat) -
        ((if s.bell.secSet = true then rd s BELL_PPSIN_SEC_SEC else (e.ns * 2 ^ 16 + e.frac + (1000000000 * 2 ^ 16 - 1)) / (1000000000 * 2 ^ 16)) * 1000000000 * 2 ^ 16 : Nat)) * 2) 1000000000)) ∧
    (rd s BELL_STATUS_STATE ≠ 4 ∨ rd s BELL_CTRL_SRC ≠ 1 → exec (.ppsInEdge dt) s = .next u)) ∧
  (∀ s : State, s.rst.busy = false → rd s BELL_STATUS_STATE = 4 → rd s BELL_CTRL_SRC = 1 → ∃ t, rd t BELL_EVT_PPSIN_MISS = 1 ∧
    t.bell = { s.bell with ppsMiss := true } ∧ partsBut [.regs, .bell] s t ∧ cellsBut [BELL_EVT_PPSIN_MISS.addr] s t ∧
    exec .ppsinMiss s = .next (servoHold t)) ∧
  ∀ s : State, (¬ (s.rst.busy = true ∧ s.rst.full = true) → ∃ t, exec .ppsOutPulse s = .next t ∧ t.clk = (advanceTo s (ppsInstant s)).clk ∧
      (t.ppsOut = true ↔ rd s BELL_PPS_CTRL_EN = 1 ∧ (rd s BELL_PPS_CTRL_HOLDOVER_Q = 0 ∧ rd s BELL_PPS_CTRL_LOCK_Q = 1 ∨
        rd s BELL_PPS_CTRL_HOLDOVER_Q = 1 ∧ rd s BELL_PPS_CTRL_HOLD = 1)) ∧
      (t.ppsOut = true → t.ppsRise = t.clk.ft.toNat) ∧ partsBut [.clk, .ppsOut, .ppsRise] s t) ∧
    (s.ppsOut = true → ∃ t, exec .ppsOutEnd s = .next t ∧ t.ppsOut = false ∧ t.clk = (advanceTo s (s.ppsRise / 2 ^ 48 + ppsWidth s).toNat).clk ∧
      partsBut [.clk, .ppsOut] s t)

/-- Capture and trigger units (R127 to R129, R131). An edge of a taken kind is pushed, with its stamp, behind the stamps of a FIFO that
holds fewer than four; with four it is dropped, OVF and CAP_OVF set. POP takes the oldest; a POP in the cycle in which an edge found the FIFO
full comes before that edge, which is kept, OVF and CAP_OVF as they were before it. Arming by its owner lets an old target due in the same cycle fire first, writes T and ARMED, and a
target now or past fires at the next cycle; anyone else's is ignored. A fire clears ARMED, sets FIRED, copies whether it was late into
LATE (with TRG_LATE) and acts on its target; one with PERIOD is armed again for T + PERIOD. Disarming clears ARMED, but a trigger due in the same
cycle fires. A pulse ends WIDTH cycles after its fire, 0 acting as 1, and its end clears its line. -/
def Obligations.CaptureAndTriggerUnits : Prop :=
  (∀ (s u : State) (dt n : Nat) (rise : Bool), s.rst.busy = false → n < 32 → u = advance s dt →
    (capTakes (rd s (BELL_CAP_CTRL_EDGE n)) (rd s (BELL_CAP_CTRL_SRC n)) rise = true → ∃ t, exec (.captureEdge dt n rise) s = .next t ∧
      (if (caps s n).length < 4 then caps t n = caps s n ++ [⟨ftNs u, ftFrac u, rise⟩] ∧ partsBut [.bell] u t
       else rd t (BELL_CAP_STAT_OVF n) = 1 ∧ rd t BELL_EVT_CAP_OVF = 1 ∧ caps t n = caps s n ∧ partsBut [.regs, .bell] u t ∧
        cellsBut [(BELL_CAP_STAT_OVF n).addr, BELL_EVT_CAP_OVF.addr] u t) ∧
      ∀ m, m ≠ n → caps t m = caps s m) ∧
    (capTakes (rd s (BELL_CAP_CTRL_EDGE n)) (rd s (BELL_CAP_CTRL_SRC n)) rise = false → exec (.captureEdge dt n rise) s = .next u)) ∧
  (∀ (s : State) (n : Nat), s.rst.busy = false → n < 32 → ∃ t, exec (.capturePop n) s = .next t ∧ (∀ m, m ≠ n → caps t m = caps s m) ∧
    ((∀ x, tget (fun _ => none) s.bell.capMiss n = some x → x.1 ≠ s.clk.ft.toNat) → caps t n = (caps s n).drop 1 ∧ partsBut [.bell] s t) ∧
    (∀ e o v, tget (fun _ => none) s.bell.capMiss n = some (s.clk.ft.toNat, e, o, v) → caps t n = (caps s n).drop 1 ++ [e] ∧
      rd t (BELL_CAP_STAT_OVF n) = o % 2 ∧ rd t BELL_EVT_CAP_OVF = v % 2 ∧ tget (fun _ => none) t.bell.capMiss n = none ∧
      partsBut [.regs, .bell] s t ∧ cellsBut [(BELL_CAP_STAT_OVF n).addr, BELL_EVT_CAP_OVF.addr] s t)) ∧
  (∀ (s : State) (o n x : Nat), s.rst.busy = false → n < 32 →
    (rd s (BELL_TRG_CTRL_OWNER n) ≠ o → exec (.triggerArm o n x) s = .next s ∧ exec (.triggerDisarm o n) s = .next s) ∧
    (rd s (BELL_TRG_CTRL_OWNER n) = o → ∃ u t, u = (if rd s (BELL_TRG_CTRL_ARMED n) = 1 ∧ due40 (rd s (BELL_TRG_T_T n)) (ftNs s) = true then trgFire s n else s) ∧
      rd t (BELL_TRG_T_T n) = x % 2 ^ 40 ∧ rd t (BELL_TRG_CTRL_ARMED n) = 1 ∧
      t.bell.late.contains n = past40 x (ftNs (advance u 1)) ∧ partsBut [.regs, .bell] u t ∧
      cellsBut [(BELL_TRG_T_T n).addr, (BELL_TRG_CTRL_ARMED n).addr] u t ∧
      exec (.triggerArm o n x) s = .next (if due40 x (ftNs (advance u 1)) = true then trgFire t n else t)) ∧
    (rd s (BELL_TRG_CTRL_OWNER n) = o → rd s (BELL_TRG_CTRL_ARMED n) = 0 ∨ due40 (rd s (BELL_TRG_T_T n)) (ftNs s) = false →
      ∃ t, exec (.triggerDisarm o n) s = .next t ∧ rd t (BELL_TRG_CTRL_ARMED n) = 0 ∧ regsOnly [(BELL_TRG_CTRL_ARMED n).addr] s t) ∧
    (rd s (BELL_TRG_CTRL_OWNER n) = o → rd s (BELL_TRG_CTRL_ARMED n) = 1 → due40 (rd s (BELL_TRG_T_T n)) (ftNs s) = true →
      exec (.triggerDisarm o n) s = .next (trgFire s n))) ∧
  (∀ (s : State) (n : Nat), s.rst.busy = false → n < 32 → rd s (BELL_TRG_CTRL_ARMED n) = 1 →
    exec (.triggerFire n) s = .next (trgFire (advanceTo s (trgTime s n)) n)) ∧
  (∀ (s : State) (n a tgt : Nat), rd s (BELL_TRG_CTRL_ARMED n) = 1 → a = rd s (BELL_TRG_CTRL_ACTION n) → tgt = rd s (BELL_TRG_CTRL_TARGET n) →
    ∃ u v, rd u (BELL_TRG_CTRL_ARMED n) = 0 ∧ rd u (BELL_TRG_CTRL_FIRED n) = 1 ∧
      rd u (BELL_TRG_CTRL_LATE n) = (if n ∈ s.bell.late then 1 else 0) ∧ (n ∈ s.bell.late → rd u BELL_EVT_TRG_LATE = 1) ∧
      regsOnly [(BELL_TRG_CTRL_ARMED n).addr, BELL_EVT_TRG_LATE.addr] s u ∧ v = targetAct u (1 + n) tgt (actOfCode a) ∧
      (∃ w, trgFire s n = w ∧ tget (fun _ => none) w.bell.pulses n = (if a = 4 then some (tgt, v.clk.cyc + max 1 (rd v (BELL_TRG_CTRL_WIDTH n))) else tget (fun _ => none) v.bell.pulses n) ∧
        (rd s (BELL_TRG_PER_PERIOD n) = 0 → n ∉ w.bell.late ∧ partsBut [.bell, .drv] v w) ∧
        (rd s (BELL_TRG_PER_PERIOD n) ≠ 0 → rd w (BELL_TRG_CTRL_ARMED n) = 1 ∧
          rd w (BELL_TRG_T_T n) = (rd s (BELL_TRG_T_T n) + rd s (BELL_TRG_PER_PERIOD n)) % 2 ^ 40 ∧ partsBut [.regs, .bell, .drv] v w ∧
          cellsBut [(BELL_TRG_T_T n).addr, (BELL_TRG_CTRL_ARMED n).addr] v w))) ∧
  ∀ (s : State) (n tgt cyc : Nat), s.rst.busy = false → tget (fun _ => none) s.bell.pulses n = some (tgt, cyc) → ∃ u,
    partsBut [.bell, .clk] s u ∧ u.clk = (advance s (cyc - s.clk.cyc)).clk ∧ tget (fun _ => none) u.bell.pulses n = none ∧
    exec (.pulseEnd n) s = .next (if tgt < 96 then lineAct u tgt (1 + n) .clear else u)

/-- A rule command in P2 (R140, R146, R148, R149, R156, R159). Where the lane is the next to execute and its next rule is one of the command's
operation, the command executes it; an illegal rule is executed by the NOP command, records ILLEGAL and its number, writes nothing and
costs one cycle; a rule that would end after P2 has no effect. A legal rule that writes one word or bit of FLAG or SCR, with no other
write in flight, is seen by every lane from the cycle after its last one, and the bits outside its mask stay. What each operation
writes is R149's: BOOL and CMP the relation of the operands, ARITH and SCALE the exact result saturated to the destination, SEL one of
the two, EDGE the change and its memory, LATCH set or cleared or left alone, TON and TOF the timer and its output, CNT the count and the
previous inputs, ZONE the state word and RUN, SNAP the sixteen payload words and the status word. -/
def Obligations.RuleCommandsRunTheNextRule : Prop :=
  (∀ (s : State) (lane : Nat) (r : Rule), s.rst.busy = false → rd s TRD_STATUS_PHASE = 2 → tickStale s = false → lane < 4 →
    laneNext s lane = true → r = ruleAt s (laneRule s lane) →
    (∀ stall, legal r = true →
      (r.op = 0 → exec (.ruleNop lane stall) s = .next (ruleMeet s lane stall)) ∧
      (r.op = 1 → exec (.ruleBool lane stall) s = .next (ruleMeet s lane stall)) ∧
      (r.op = 2 → exec (.ruleCmp lane stall) s = .next (ruleMeet s lane stall)) ∧
      (r.op = 3 → exec (.ruleArith lane stall) s = .next (ruleMeet s lane stall)) ∧
      (r.op = 4 → exec (.ruleScale lane stall) s = .next (ruleMeet s lane stall)) ∧
      (r.op = 5 → exec (.ruleSel lane stall) s = .next (ruleMeet s lane stall)) ∧
      (r.op = 6 → exec (.ruleEdge lane stall) s = .next (ruleMeet s lane stall)) ∧
      (r.op = 7 → exec (.ruleLatch lane stall) s = .next (ruleMeet s lane stall)) ∧
      (r.op = 8 → exec (.ruleTon lane stall) s = .next (ruleMeet s lane stall)) ∧
      (r.op = 9 → exec (.ruleTof lane stall) s = .next (ruleMeet s lane stall)) ∧
      (r.op = 10 → exec (.ruleCnt lane stall) s = .next (ruleMeet s lane stall)) ∧
      (r.op = 11 → exec (.ruleZone lane stall) s = .next (ruleMeet s lane stall)) ∧
      (r.op = 12 → exec (.ruleSnap lane stall) s = .next (ruleMeet s lane stall)) ∧
      (r.op = 15 → exec (.ruleBarrier lane stall) s = .next (ruleMeet s lane stall))) ∧
    (legal r = false → (laneAt s lane).used + 1 ≤ p2Len s → s.trd.writes = [] → ∃ t, exec (.ruleNop lane 0) s = .next t ∧
      rd t TRD_EVT_ILLEGAL = 1 ∧ rd t TRD_ILL_RULE_RULE = laneRule s lane % 8192 ∧ t.trd.writes = [] ∧
      cellsBut [TRD_EVT_ILLEGAL.addr, TRD_ILL_RULE_RULE.addr, TRD_STATUS_DONE.addr] s t ∧ partsBut [.regs, .trd] s t) ∧
    (p2Len s < (laneAt s lane).used + cost r → s.trd.writes = [] → ∃ t, ruleMeet s lane 0 = t ∧ t.trd.writes = [] ∧
      cellsBut [TRD_STATUS_DONE.addr] s t ∧ partsBut [.regs, .trd] s t) ∧
    (legal r = true → (laneAt s lane).used + cost r ≤ p2Len s → s.trd.writes = [] → ∀ o m v,
      (ruleEffect s (laneAt s lane).used r).map (putMask r) = [(o, m, v)] → (opSp o = spFlag ∨ opSp o = spScr) → m < 2 ^ 32 →
      ∀ c, (laneAt s lane).used + cost r ≤ c →
        seen (ruleMeet s lane 0) c (opSp o) (opWord o) = masked (spRead s (opSp o) (opWord o)) m v)) ∧
  ∀ (s : State) (c : Nat) (r : Rule),
    (r.op = 1 → ruleEffect s c r = [.bit r.dst ((if r.sub = 0 then inA s c r && inB s c r else if r.sub = 1 then inA s c r || inB s c r
      else if r.sub = 2 then inA s c r != inB s c r else inA s c r) != r.notD)]) ∧
    (r.op = 2 → r.sub < 6 → ruleEffect s c r = [.bit r.dst (decide (
      r.sub = 0 ∧ wordIn s c r r.a = wordIn s c r r.b ∨ r.sub = 1 ∧ wordIn s c r r.a ≠ wordIn s c r r.b ∨
      r.sub = 2 ∧ wordIn s c r r.a < wordIn s c r r.b ∨ r.sub = 3 ∧ wordIn s c r r.a ≤ wordIn s c r r.b ∨
      r.sub = 4 ∧ wordIn s c r r.a > wordIn s c r r.b ∨ r.sub = 5 ∧ wordIn s c r r.a ≥ wordIn s c r r.b) != r.notD)]) ∧
    (r.op = 3 → r.sub < 6 → ruleEffect s c r = [.word r.dst (
      if r.sub = 0 then r.sat (wordIn s c r r.a + wordIn s c r r.b) else if r.sub = 1 then r.sat (wordIn s c r r.a - wordIn s c r r.b)
      else if r.sub = 2 then r.sat (wordIn s c r r.a * wordIn s c r r.b) else if r.sub = 3 then min (wordIn s c r r.a) (wordIn s c r r.b)
      else if r.sub = 4 then max (wordIn s c r r.a) (wordIn s c r r.b) else wordIn s c r r.a)]) ∧
    (r.op = 4 → ruleEffect s c r = [.word r.dst (r.sat
      ((wordIn s c r r.a * signed 16 (r.imm % 65536)) / (2 : Int) ^ (r.imm / 65536 % 32) + wordIn s c r r.b))]) ∧
    (r.op = 5 → selBits r = false → ruleEffect s c r =
      [.word r.dst (if bitIn s c r (r.imm % 2 ^ 26) then wordIn s c r r.a else wordIn s c r r.b)]) ∧
    (r.op = 6 → r.sub < 3 → ruleEffect s c r = [.bit r.dst (((r.sub ≠ 1 && inA s c r && !inB s c r) ||
      (r.sub ≠ 0 && !inA s c r && inB s c r)) != r.notD), .bit r.b (inA s c r != r.notB)]) ∧
    (r.op = 7 → ruleEffect s c r = if inA s c r = true ∨ inB s c r = true then
      [.bit r.dst ((inA s c r && (!inB s c r || r.sub == 0)) != r.notD)] else []) ∧
    (r.op = 8 → inA s c r = false → ruleEffect s c r = [.full r.b 0, .bit r.dst (false != r.notD)]) ∧
    (r.op = 9 → inA s c r = true → ruleEffect s c r = [.full r.b (2 ^ 31), .bit r.dst (true != r.notD)]) ∧
    (r.op = 12 → (ruleEffect s c r).length = 17)

/-- A tick of the Treadle (R139, R140, R142 to R144, R147, R151, R158). With no tick under way, in service and enabled, the Treadle takes the
tick FT stands in, or waits for the first boundary it may take; P4 of the tick before ends first, and a boundary that fell within it is
taken late. The phase becomes P1, the special words show tick number, FT and the
microseconds since the last tick, the quadrature sums and the once-per-tick raises start afresh, SKIP is set where boundaries were
left out, and LATE_TICK is set and counted for a late one; lines are filtered up to the boundary and then stay. A RESUME that waits takes effect at
its boundary first (R337). At the end of P1 the words of every source that is not late move into the input image, a late source
keeps its words, and word 3 holds the late bits. P2 ends in P3, and P3 in P4; accesses of the Treadle's storage that came within P1 to P3
are carried out at the end of P4, in order, and one that comes in P4 at its end (R28, R160). A level output with no binding takes
the level bit of the image at P3, before the actions of the same cycle (R267). -/
def Obligations.TicksAreTakenAndRun : Prop :=
  (∀ (s s1 u x : State) (floor n : Int) (late : Bool), s.rst.busy = false → s.tnk.resume = none → running s = true → rd s TRD_CTRL_EN = 1 → rd s TRD_TICK_NS_NS ≠ 0 →
    (rd s TRD_STATUS_PHASE = 0 ∧ s1 = s) ∨ (rd s TRD_STATUS_PHASE = 4 ∧ tickStale s = false ∧ s1 = toCycle s (tickEnd s)) → tickFloor s1 = some floor →
    (n, u, late) = (if tickLower s1 floor ≤ tickNow s1 then (tickNow s1, s1, isLate s1 (tickNow s1))
      else (tickLower s1 floor, advanceTo s1 (boundaryNs s1 (rd s TRD_TICK_NS_NS) (tickLower s1 floor)).toNat, false)) → x = inputsDue u →
    ∃ t, exec .tickBoundary s = .next t ∧ t.trd.last = some n ∧ rd t TRD_STATUS_PHASE = 1 ∧ rd t TRD_STATUS_RUNNING = 1 ∧
      rd t TRD_TICKNO_TICK = wrapTo 32 n ∧ rd t (TRD_SPW_W 0) = wrapTo 32 n ∧ rd t (TRD_SPW_W 2) = ftNs x % 2 ^ 32 ∧
      rd t (TRD_SPW_W 3) = ftNs x / 2 ^ 32 % 2 ^ 32 ∧
      rd t (TRD_SPW_W 5) = (if x.trd.last = none then 0 else (x.clk.cyc / 625 - x.trd.lastUs) % 2 ^ 32) ∧
      (s1.trd.last ≠ none → floor < n → rd t TRD_EVT_SKIP = 1) ∧
      (late = true → rd t TRD_EVT_LATE_TICK = 1 ∧ rd t TRD_CNT_LATE_TICK = min (rd x TRD_CNT_LATE_TICK + 1) (2 ^ TRD_CNT_LATE_TICK.w - 1)) ∧
      t.trd.taken = ftNs x ∧ t.trd.takenCyc = x.clk.cyc ∧ t.trd.lastUs = x.clk.cyc / 625 ∧ t.trd.raised = [] ∧ t.trd.overran = false ∧
      (∀ d, d < 12 → (t.quad d).sum = 0) ∧ partsBut [.regs, .trd, .quads, .adc] x t) ∧
  (∀ (s : State) (n : Int), isLate s n = true ↔ s.trd.last.isSome = true ∧ rd s TRD_STATUS_PHASE = 4 ∧
    boundaryNs s (rd s TRD_TICK_NS_NS) n * 2 ^ 48 + cycleUnits s * ((s.clk.cyc : Int) - tickEnd s) < s.clk.ft.toNat) ∧
  (∀ (s : State) (n : Int), s.rst.busy = false → s.tnk.resume = some n →
    exec .tickBoundary s = .next (tickBoundary (tickDrop (resumeDue (advanceTo s (boundaryNs s (rd s TRD_TICK_NS_NS) n).toNat))))) ∧
  (∀ (s : State) (late w : Nat), w < 2048 → (s.trd.latched.map (·.1)).Nodup →
    rd (moveImage s late) (TRD_IN_W w) = if w = 3 then late % 32 else if moves late w then (tget (fun _ => (0 : Word)) s.trd.latched w).toNat
      else rd s (TRD_IN_W w)) ∧
  (∀ (s : State), s.rst.busy = false → tickStale s = false →
    (rd s TRD_STATUS_PHASE = 1 → ∀ late, exec (.p2Evaluate late) s = .next (tickDrop (p1End s late))) ∧
    (rd s TRD_STATUS_PHASE = 2 → exec .p3Commit s = .next (tickDrop (p3Commit s))) ∧
    (rd s TRD_STATUS_PHASE = 3 → exec .p4Launch s = .next (let u := p4Launch s;
      if u.trd.waiting = [] then u else runWaiting (toCycle u (tickEnd u)))) ∧
    (∀ ini a v, 0x40054000 ≤ a → a < 0x4005C880 → a % 4 = 0 → exec (.mailboxWrite ini a v) s = .next (
      if phaseNow s = 0 then cpuDo s ini 4 a (some v)
      else if rd s TRD_STATUS_PHASE = 4 then cpuDo (toCycle s (tickEnd s)) ini 4 a (some v)
      else { s with trd := { s.trd with waiting := s.trd.waiting ++ [.cpu ini 4 a (some v)] } }))) ∧
  (∀ (s : State) (img : List (Nat × Word)) (n : Nat), n < 96 → rd s (DIO_CFG_MODE n) = 1 → rd s (DIO_CFG_SRC n) = 0 →
    dioHeeds s n = true → bindingOf s n = none → rd s (DIO_STAT_RELEASED n) = 0 → ∃ t, lineP3 img s n = t ∧
      (t.line n).drive = (if actedNow s (s.line n) = true then (s.line n).acts.foldl (fun v x => actLevel v x.2) (some ((tget (fun _ => (0 : Word)) img (n / 32)).getLsbD (n % 32)))
        else some ((tget (fun _ => (0 : Word)) img (n / 32)).getLsbD (n % 32))) ∧
      (t.line n).param = (tget (fun _ => (0 : Word)) img (16 + n)).toNat ∧ lineFrame n [] s t)

/-- Edges and windows of the Drover (R165 to R167, R169, R170, R179). A leading edge at an enabled sensor of the active Drover is matched at once, or
waits for the end of P1. The candidates are the records tracked to this sensor with an open window and those last matched by it whose
window has not closed. Without one an induction sensor creates a record, another counts STRAY and records the event. The oldest is
DOUBLE if it was last matched by this sensor, a MATCH otherwise, noted for this cycle; each is counted and recorded. A record created takes the lowest
FREE place, the object number of the counter, its time of entry, its belt, and is tracked; with none free STRAY with FULL. At the
close of a window plus 1 µs the edges stamped before are handled first and an edge in the window wins; a window
that closes unmatched counts MISSING for the hub and the record, is recorded, and the record is inferred or freed as MISS_POL says. -/
def Obligations.EdgesMatchRecords : Prop :=
  (∀ (s u : State) (dt sn k : Nat), u = advance s dt → k = ftNs u * 65536 + ftFrac u → s.rst.busy = false → sn < 32 →
    drvActive u = true → rd s (DRV_SNS_CTRL_EN sn) = 1 → s.drv.waiting = [] →
    (rd s TRD_STATUS_PHASE ≠ 1 ∨ k < s.trd.taken * 65536 → exec (.sensorEdge dt sn) s = .next (edgeMatch u sn k)) ∧
    (rd s TRD_STATUS_PHASE = 1 → s.trd.taken * 65536 ≤ k →
      exec (.sensorEdge dt sn) s = .next { u with drv := { u.drv with waiting := [(sn, k)] } })) ∧
  (∀ (s : State) (sn k t : Nat) (c : Option Nat), t = k / 65536 → c = oldest s (edgeRecs s sn t) →
    (c = none → rd s (DRV_SNS_CTRL_ENTRY sn) = 1 → edgeMatch s sn k = createRec s sn k) ∧
    (c = none → rd s (DRV_SNS_CTRL_ENTRY sn) = 0 → edgeMatch s sn k = stray s sn t 0 0) ∧
    (∀ i, c = some i → rd s (DRV_REC_ST_LAST_V i) = 1 → rd s (DRV_REC_ST_LAST i) = sn → ∃ v, edgeMatch s sn k = v ∧
      rd v DRV_CNT_B_DOUBLE = min (rd s DRV_CNT_B_DOUBLE + 1) (2 ^ DRV_CNT_B_DOUBLE.w - 1) ∧ rd v DRV_EVT_DOUBLE = 1 ∧
      v.drv.events = s.drv.events ++ [⟨t, 4, sn, i, 0, 0, rd s (DRV_REC_OBJ_ID i)⟩] ∧ partsBut [.regs, .drv] s v ∧
      cellsBut [DRV_CNT_B_DOUBLE.addr, DRV_EVT_DOUBLE.addr] s v) ∧
    (∀ i, c = some i → rd s (DRV_REC_ST_LAST_V i) = 0 ∨ rd s (DRV_REC_ST_LAST i) ≠ sn → ∃ v,
      rd v DRV_CNT_MATCH_COUNT = (rd s DRV_CNT_MATCH_COUNT + 1) % 2 ^ DRV_CNT_MATCH_COUNT.w ∧
      rd v (DRV_SNS_CNT_MATCH sn) = (rd s (DRV_SNS_CNT_MATCH sn) + 1) % 2 ^ (DRV_SNS_CNT_MATCH 0).w ∧
      v.drv.events = s.drv.events ++ [⟨t, 1, sn, i, 0, 0, rd s (DRV_REC_OBJ_ID i)⟩] ∧ v.drv.matchCyc = s.clk.cyc ∧ i ∈ v.drv.matched ∧ partsBut [.regs, .drv] s v ∧
      cellsBut [DRV_CNT_MATCH_COUNT.addr, (DRV_SNS_CNT_MATCH sn).addr] s v ∧
      edgeMatch s sn k = settle v i sn k (anchorAt s (rd s (DRV_REC_ST_BELT i)) t)
        (((winOf s i).map fun w => wrapTo 32 w.closes).getD t) true)) ∧
  (∀ (s : State) (sn ns cause obj : Nat), sn < 32 → ∃ v, rd v DRV_CNT_A_STRAY = min (rd s DRV_CNT_A_STRAY + 1) (2 ^ DRV_CNT_A_STRAY.w - 1) ∧ rd v DRV_EVT_STRAY = 1 ∧
      rd v (DRV_SNS_CNT_STRAY sn) = (rd s (DRV_SNS_CNT_STRAY sn) + 1) % 2 ^ (DRV_SNS_CNT_STRAY 0).w ∧ (cause = 1 → rd v DRV_EVT_FULL = 1) ∧
      v.drv.events = s.drv.events ++ [⟨ns, 2, sn, 0, cause, 0, obj⟩] ∧ partsBut [.regs, .drv] s v ∧
      cellsBut [DRV_CNT_A_STRAY.addr, DRV_EVT_STRAY.addr, (DRV_SNS_CNT_STRAY sn).addr] s v ∧
      stray s sn ns cause obj = (if bitOf (rd v DRV_CTRL_FLT_EN) 0 = true then raiseOnce v 48 sn else v)) ∧
  (∀ (s : State) (sn k obj : Nat), obj = rd s SYS_HUB_ID_ID * 2 ^ 20 + rd s DRV_OBJ_CNT_NEXT →
    (freeRec s = none → createRec s sn k = stray s sn (k / 65536) 1 obj) ∧
    (∀ i, i < 1024 → freeRec s = some i → s.drv.dest = [] → ∃ v, rd v (DRV_REC_OBJ_ID i) = obj % 2 ^ 32 ∧ rd v (DRV_REC_ENTRY_T i) = k / 65536 % 2 ^ 64 ∧
      rd v (DRV_REC_ST_STATE i) = 1 ∧ rd v (DRV_REC_ST_BELT i) = rd s (DRV_SNS_CTRL_BELT sn) ∧
      rd v (DRV_REC_SEQN_SEQ i) = rd s DRV_SEQ_NEXT ∧ rd v DRV_SEQ_NEXT = (rd s DRV_SEQ_NEXT + 1) % 2 ^ DRV_SEQ_NEXT.w ∧
      rd v DRV_OBJ_CNT_NEXT = (rd s DRV_OBJ_CNT_NEXT + 1) % 2 ^ DRV_OBJ_CNT_NEXT.w ∧
      v.drv.events = s.drv.events ++ [⟨ftNs s, 6, sn, i, 0, 0, obj⟩] ∧ partsBut [.regs, .drv] s v ∧
      createRec s sn k = settle v i sn k (anchorAt v (rd s (DRV_SNS_CTRL_BELT sn)) (k / 65536 : Nat))
        ((k / 65536 + rd s (DRV_SNS_WIN_LATE sn) * 1000) % 2 ^ 32) true)) ∧
  (∀ (s t u : State) (i : Nat) (w : Win), s.rst.busy = false → drvActive s = true → winOf s i = some w → recState s i = 1 →
    rd s (DRV_BELT_STAT_STOPPED (rd s (DRV_REC_ST_BELT i))) = 0 → t = advanceTo s (w.closes + 1000).toNat →
    u = matchWaiting (matchTo t (ftNs t * 65536 + ftFrac t + 1)) t.drv.waiting.length t →
    exec (.windowMissing i) s = .next (if winOf u i = some w ∧ recState u i = 1 ∧
      (∀ e ∈ u.drv.waiting, e.1 = rd u (DRV_REC_ST_NEXT i) → ¬(w.opens * 65536 ≤ e.2 ∧ e.2 < w.closes * 65536)) then missWindow u i w else u) ∧
    (s.drv.waiting = [] → exec (.windowMissing i) s = .next (missWindow t i w))) ∧
  ∀ (s : State) (i sn pol : Nat) (w : Win), i < 1024 → sn = rd s (DRV_REC_ST_NEXT i) → pol = rd s (DRV_SNS_CTRL_MISS_POL sn) → running s = true → ∃ u v,
    rd u DRV_CNT_A_MISSING = min (rd s DRV_CNT_A_MISSING + 1) (2 ^ DRV_CNT_A_MISSING.w - 1) ∧ rd u DRV_EVT_MISSING = 1 ∧
    rd u (DRV_REC_CTR_MISSES i) = min (rd s (DRV_REC_CTR_MISSES i) + 1) (2 ^ (DRV_REC_CTR_MISSES 0).w - 1) ∧
    u.drv.events = s.drv.events ++ [⟨w.closes.toNat, 3, sn, i, 0, 0, rd s (DRV_REC_OBJ_ID i)⟩] ∧ partsBut [.regs, .drv] s u ∧
    cellsBut [DRV_CNT_A_MISSING.addr, DRV_EVT_MISSING.addr, (DRV_REC_CTR_MISSES i).addr] s u ∧
    v = (if bitOf (rd u DRV_CTRL_FLT_EN) 1 = true then raiseOnce u 49 i else u) ∧
    missWindow s i w = (if running v = false then v else if pol = 1 ∨ pol = 2 then settle v i sn (w.pred * 65536)
      ((rd s (DRV_REC_ANCH_P i) + windowDist s i) % 2 ^ 32) (wrapTo 32 w.closes) (pol == 2) else recFree v i)

/-- The life of records beside their edges (R166, R176, R178). RECORD_FREE waits for DCLOSE where the last match is valid, empties the record's registers,
takes its window and its hand-off away, and remembers its object and time of entry among the last 64. HANDOFF_IN takes both positions
of its slot: one that is not valid is left, one whose object is live or recently freed is a duplicate, and one with no place free is STRAY
with FULL. A destination command first lets the edges that wait and may be matched be matched, then sets the destination of the live record with its
object (result 0; 4 where it is DONE and was not matched in this cycle), or with KEEP
waits in the table of 16 (1; 3 where the oldest was displaced), and without KEEP finds nothing (2). -/
def Obligations.RecordsAreFreedAndHandedOn : Prop :=
  (∀ (s : State) (i : Nat), s.rst.busy = false → i < 1024 → recState s i = 2 ∨ recState s i = 3 → rd s (DRV_REC_CTR_HO_LEFT i) = 0 → ∀ w,
    w = modDiff 32 (rd s (DRV_REC_DCL_T i)) (ftNs s) →
    (rd s (DRV_REC_ST_LAST_V i) = 0 ∨ w ≤ 0 → exec (.recordFree i) s = .next (recFree s i)) ∧
    (rd s (DRV_REC_ST_LAST_V i) = 1 → 0 < w → exec (.recordFree i) s = .next (recFree (advanceTo s (ftNs s + w.toNat)) i))) ∧
  (∀ (s : State) (i : Nat), ∃ t, recFree s i = t ∧ (∀ a, cellAt t a =
      (if 0x40064000 ≤ a ∧ a < 0x40070000 ∧ (a - 0x40064000) / 48 = i then cellReset a else cellAt s a)) ∧ winOf t i = none ∧
    (∀ j, j ≠ i → winOf t j = winOf s j) ∧ t.drv.freed = ((rd s (DRV_REC_OBJ_ID i), rd s (DRV_REC_ENTRY_T i)) :: s.drv.freed).take 64 ∧
    (∀ p ∈ t.drv.hoIn, p.1 ≠ i) ∧ (∀ p ∈ t.drv.hops, p.1 ≠ i) ∧ i ∉ t.drv.openAtStop ∧ partsBut [.regs, .drv] s t) ∧
  (∀ (s : State) (c : Nat), s.rst.busy = false → c < 4 → rd s (DRV_HO_IN_EN c) = 1 → drvActive s = true →
    exec (.handoffIn c) s = .next (hoTake (hoTake s c 0) c 1)) ∧
  (∀ (s : State) (c j obj ent : Nat) (x : List Byte), x = memBytes s (payloadAddr (rd s (DRV_HO_IN_ENTRY c)) + 32 * j) 32 →
    obj = beNat (slice x 0 4) → ent = beNat (slice x 4 8) →
    (bitOf (beNat (slice x 28 2)) 15 = false → hoTake s c j = s) ∧
    (bitOf (beNat (slice x 28 2)) 15 = true → (obj, ent) ∈ s.drv.freed ∨ (∃ i ∈ liveRecs s, rd s (DRV_REC_OBJ_ID i) = obj ∧ rd s (DRV_REC_ENTRY_T i) = ent) →
      ∃ t, hoTake s c j = t ∧ rd t DRV_CNT_C_DUP = min (rd s DRV_CNT_C_DUP + 1) (2 ^ DRV_CNT_C_DUP.w - 1) ∧ rd t DRV_EVT_DUP_HO = 1 ∧
        regsOnly [DRV_CNT_C_DUP.addr, DRV_EVT_DUP_HO.addr] s t) ∧
    (bitOf (beNat (slice x 28 2)) 15 = true → (obj, ent) ∉ s.drv.freed → (∀ i ∈ liveRecs s, ¬ (rd s (DRV_REC_OBJ_ID i) = obj ∧ rd s (DRV_REC_ENTRY_T i) = ent)) →
      (freeRec s = none → hoTake s c j = stray s (rd s (DRV_HO_IN_SNS c)) (ftNs s) 1 obj) ∧
      ∀ i, freeRec s = some i → i < 1024 → s.drv.dest = [] → ∃ t, hoTake s c j = t ∧ rd t (DRV_REC_OBJ_ID i) = obj % 2 ^ 32 ∧
        rd t (DRV_REC_ENTRY_T i) = ent % 2 ^ 64 ∧ rd t (DRV_REC_ST_STATE i) = 1 ∧ rd t (DRV_REC_ST_NEXT i) = rd s (DRV_HO_IN_SNS c) ∧
        rd t (DRV_REC_ST_BELT i) = rd s (DRV_HO_IN_BELT c) ∧ rd t (DRV_REC_ST_FROM i) = beNat (slice x 28 2) % 4096 ∧
        rd t (DRV_REC_SEQN_SEQ i) = rd s DRV_SEQ_NEXT ∧
        t.drv.events = s.drv.events ++ [⟨ftNs s, 7, rd s (DRV_HO_IN_SNS c), i, 0, 0, obj⟩] ∧ partsBut [.regs, .drv] s t)) ∧
  ∀ (s0 s : State) (ini obj dest : Nat) (keep : Bool) (f : Option Nat), s0.rst.busy = false →
    s = matchWaiting (matchTo s0 (ftNs s0 * 65536 + ftFrac s0 + 1)) s0.drv.waiting.length s0 → f = (liveRecs s).find? (fun i => rd s (DRV_REC_OBJ_ID i) == obj % 2 ^ 32) → ∃ t,
    exec (.destCmd ini obj dest keep) s0 = .next (if ini = 2 then t.emit (.busRsp 2 0 0) else t) ∧ (s0.drv.waiting = [] → s = s0) ∧
    (∀ i, f = some i → i < 1024 → recState s i ≠ 3 ∨ (s.drv.matchCyc = s.clk.cyc ∧ i ∈ s.drv.matched) → rd t (DRV_REC_ATTR_DEST i) = dest % 2 ^ 16 ∧ rd t (DRV_REC_ST_DEST_SET i) = 1 ∧
      rd t DRV_DEST_STAT_RESULT = 0 ∧ rd t DRV_DEST_STAT_INDEX = i % 2 ^ DRV_DEST_STAT_INDEX.w ∧
      regsOnly [(DRV_REC_ATTR_DEST i).addr, (DRV_REC_ST_DEST_SET i).addr, DRV_DEST_STAT_RESULT.addr] s t) ∧
    (∀ i, f = some i → recState s i = 3 → ¬(s.drv.matchCyc = s.clk.cyc ∧ i ∈ s.drv.matched) → rd t DRV_DEST_STAT_RESULT = 4 ∧ regsOnly [DRV_DEST_STAT_RESULT.addr] s t) ∧
    (f = none → rd t DRV_DEST_STAT_RESULT = (if keep = false then 2 else if s.drv.dest.length < 16 ∨ (s.drv.dest.any (·.1 == obj % 2 ^ 32)) = true then 1 else 3) ∧
      t.drv.dest = (if keep = false then s.drv.dest else if (s.drv.dest.any (·.1 == obj % 2 ^ 32)) = true then
        s.drv.dest.filter (·.1 != obj % 2 ^ 32) ++ [(obj % 2 ^ 32, dest % 2 ^ 16)] else if s.drv.dest.length < 16 then
        s.drv.dest ++ [(obj % 2 ^ 32, dest % 2 ^ 16)] else s.drv.dest.tail ++ [(obj % 2 ^ 32, dest % 2 ^ 16)]) ∧
      partsBut [.regs, .drv] s t ∧ cellsBut [DRV_DEST_STAT_RESULT.addr] s t)

/-- Message frames (R15, R24, R53, R54, R76, R183, R187, R189, R195, R198, R199, R209). A frame that reaches an UP ring port takes the express path while the hub domain is in reset or
in bypass, otherwise it is counted if it is bad and sorted: a bad header, the hop limit and the policer stop it; addressed to this
hub it is delivered, a fault notice to the route engine too, else admitted, one hop older, to the facing port. On the express path it leaves one hop
older by the facing port, or the same at a wrap, once that port may send; addressed to a hub in reset a good request is answered RESTING and
anything else counted (in BYPASS too: the model's choice, log entry 119). A queue that may not take a frame's
cells drops it: the queue's and the monitor's count grow; a frame admitted and not cut through is queued behind its input's others, or discarded if bad.
An insertion is refused while no Cobbler image is loaded, counted as a header error for a type no one may send, and as NO_ROUTE where the table has
no path; a request to hub 0 or without a route, and a read of hub 4,095, is answered here. -/
def Obligations.MessageFramesAreSorted : Prop :=
  (∀ (s u : State) (dt p : Nat) (f : List Byte) (e : Bool), u = advance s dt → p < 4 → isUp s p = true → mType f ≠ 0x20 →
    (s.rst.busy = true → s.rst.full = false → exec (.messageFrameReceive dt p f e) s = .next (express u p f (e || !fcsOk f))) ∧
    (s.rst.busy = false → rd s WELT_CTRL_BYPASS_REQ = 1 → exec (.messageFrameReceive dt p f e) s =
      .next (express (if (e || !fcsOk f) = true then countBad u e else u) p f (e || !fcsOk f))) ∧
    (s.rst.busy = false → rd s WELT_CTRL_BYPASS_REQ = 0 → e = false → fcsOk f = true →
      exec (.messageFrameReceive dt p f e) s = .next (normal u p f false)) ∧
    (s.rst.busy = false → rd u WELT_CTRL_BYPASS_REQ = 0 → (e = true ∨ fcsOk f = false) → rd (countBad u e) WELT_CTRL_BYPASS_REQ = 0 →
      exec (.messageFrameReceive dt p f e) s = .next (normal (countBad u e) p f true))) ∧
  (∀ (s : State) (i : Nat) (f : List Byte) (bad : Bool),
    (hcrcOk f = false ∨ knownType (mType f) = false ∨ 2016 < mLen f → normal s i f bad = tapSee (headerError s) i 1 (ftNs s) f ⟨bad || !hcrcOk f, 3, false⟩) ∧
    (hcrcOk f = true → knownType (mType f) = true → mLen f ≤ 2016 → 8191 ≤ mHops f → ∃ v, normal s i f bad = tapSee v i 1 (ftNs s) f ⟨bad, 4, false⟩ ∧
      rd v XB_CNT_HDR_HOP = min (rd s XB_CNT_HDR_HOP + 1) (2 ^ XB_CNT_HDR_HOP.w - 1) ∧ rd v XB_EVT_HOP = 1 ∧
      regsOnly [XB_CNT_HDR_HOP.addr, XB_EVT_HOP.addr] s v) ∧
    (hcrcOk f = true → knownType (mType f) = true → mLen f ≤ 2016 → mHops f < 8191 → ∀ v, policerTake s i (mTc f) (28 + mLen f) = (true, v) →
      ¬ (mSrc f = rd s SYS_HUB_ID_ID ∧ mPath f = facing i) → mGroup f = false →
      (mDst f = rd s SYS_HUB_ID_ID → mDst f ≠ 4095 → ∀ x w, deliverLocal v ⟨mHop f, i, ftNs s, 0⟩ bad = (x, w) → normal s i f bad = tapSee w i 1 (ftNs s) f ⟨bad, x.cause, x.drop⟩) ∧
      (mDst f ≠ rd s SYS_HUB_ID_ID → mDst f ≠ 4095 → ∀ ok w, enqueue v ⟨mHop f, i, ftNs s, 0⟩ (facing i) bad = (ok, w) →
        normal s i f bad = tapSee w i 1 (ftNs s) f ⟨bad, if ok = .refused then 2 else 0, ok == .bad⟩))) ∧
  (∀ s : State, ∃ t, headerError s = t ∧ rd t XB_CNT_HDR_HDR_ERR = min (rd s XB_CNT_HDR_HDR_ERR + 1) (2 ^ XB_CNT_HDR_HDR_ERR.w - 1) ∧
    rd t XB_EVT_HDR_ERR = 1 ∧ regsOnly [XB_CNT_HDR_HDR_ERR.addr, XB_EVT_HDR_ERR.addr] s t) ∧
  (∀ (s : State) (i : Nat) (f : List Byte) (bad : Bool), hcrcOk f = true → knownType (mType f) = true → mLen f ≤ 2016 → mHops f < 8191 →
    ¬ (mSrc f = rd s SYS_HUB_ID_ID ∧ mPath f = facing i) → mGroup f = false →
    (mDst f ≠ rd s SYS_HUB_ID_ID → mDst f ≠ 4095 → express s i f bad =
      (if isUp s (egressOf s i) = true then
        (if (s.port (egressOf s i)).waiting = [] ∧ ringMay s (egressOf s i) (mHop f).length = true then
          (ringStart s (egressOf s i) (mHop f).length).emit (.ringFrame (egressOf s i) (mHop f) bad)
        else s.setPort (egressOf s i) { s.port (egressOf s i) with waiting := (s.port (egressOf s i)).waiting ++ [.express (mHop f) bad] }) else s)) ∧
    (mDst f = rd s SYS_HUB_ID_ID → mDst f ≠ 4095 → s.rst.busy = true →
      (mType f = 0x30 → bad = false → express s i f bad = s.emit (.mgmtRsp (mSrc f) (beNat (slice f 24 2)) 6 (beNat (slice f 28 4)) [])) ∧
      (mType f ≠ 0x30 ∨ bad = true → ∃ t, express s i f bad = t ∧ rd t WELT_XDISC_COUNT = min (rd s WELT_XDISC_COUNT + 1) (2 ^ WELT_XDISC_COUNT.w - 1) ∧
        regsOnly [WELT_XDISC_COUNT.addr] s t))) ∧
  (∀ (s : State) (f : XFrame) (p q : Nat) (bad : Bool), q = 8 * p + mTc f.bytes →
    (admits s q (cellsOf f.bytes) = false → ∃ t, enqueue s f p bad = (.refused, t) ∧ rd t XB_EVT_DROP = 1 ∧
      rd t (XB_Q_STAT_DROP q) = min (rd s (XB_Q_STAT_DROP q) + 1) (2 ^ (XB_Q_STAT_DROP 0).w - 1) ∧ t.xb = { s.xb with drops := s.xb.drops + 1 } ∧
      partsBut [.regs, .xb] s t) ∧
    (admits s q (cellsOf f.bytes) = true → cutsThrough s f.inp p (mTc f.bytes) f.bytes = false → bad = false → f.inp ≠ 4 → f.inp ≠ 5 →
      ∃ t, enqueue s f p bad = (.stored, t) ∧ voqOf t (64 * f.inp + q) = voqOf s (64 * f.inp + q) ++ [f] ∧
        (∀ k, k ≠ 64 * f.inp + q → voqOf t k = voqOf s k) ∧ partsBut [.xb] s t) ∧
    (admits s q (cellsOf f.bytes) = true → cutsThrough s f.inp p (mTc f.bytes) f.bytes = false → bad = true → enqueue s f p bad = (.bad, s)) ∧
    (admits s q (cellsOf f.bytes) = true → cutsThrough s f.inp p (mTc f.bytes) f.bytes = true → enqueue s f p bad =
      (.cut, sendFrame s p q f bad true))) ∧
  (∀ (s t : State) (w q : Nat) (f : XFrame) (b c : Bool), t = startSending (leave (shaperTake s q f.bytes.length) w f b) w f.bytes.length →
    sendFrame s w q f b c = { t with xb := { t.xb with leaving := tput (fun _ => none) t.xb.leaving w (some ⟨q, f, ftNs s, sendingTo t w, c⟩) } }) ∧
  (∀ (s : State) (f : XFrame) (bad : Bool), (localPort f.bytes = none → deliverLocal s f bad = ({ cause := 3 }, headerError s)) ∧
    ∀ p, localPort f.bytes = some p →
      deliverLocal s f bad = ((enqueue (if bad = false ∧ mType f.bytes = 0x10 then noticeTake s (mPayload f.bytes) else s) f p bad).1.fate,
        (enqueue (if bad = false ∧ mType f.bytes = 0x10 then noticeTake s (mPayload f.bytes) else s) f p bad).2)) ∧
  ∀ (s : State) (sp : Nat) (h x : List Byte), s.rst.busy = false → sp = 3 ∨ sp = 4 →
    exec (.frameInsert sp h x) s = .next (insertLocal s sp h x) ∧
    (mType h ≠ 0x30 ∨ mGroup h = true → insertLocal s sp h x = (insertFrame s sp h x (ftNs s)).2) ∧
    (∀ r : Nat → State → State, r = (fun st t => respond t (rd s SYS_HUB_ID_ID) sp (beNat (slice x 0 2)) (beNat (slice x 2 1)) st (beNat (slice x 4 4)) []) →
      mType h = 0x30 → mGroup h = false → s.sys.loaded = true →
      (mDst h = 0 → insertLocal s sp h x = r 8 s) ∧
      (mDst h = 4095 → beNat (slice x 2 1) = 1 → insertLocal s sp h x = r 8 (insertFrame s sp h x (ftNs s)).2) ∧
      (mDst h ≠ 0 → mDst h ≠ 4095 → insertLocal s sp h x = (if (insertFrame s sp h x (ftNs s)).1 = .noRoute then
        r 7 (insertFrame s sp h x (ftNs s)).2 else (insertFrame s sp h x (ftNs s)).2))) ∧
    (s.sys.loaded = false → insertFrame s sp h x (ftNs s) = (.refused, s)) ∧
    (s.sys.loaded = true → mType h = 0x10 ∨ mType h = 0x20 ∨ knownType (mType h) = false ∨ 2016 < mLen h →
      (insertFrame s sp h x (ftNs s)).1 = .refused ∧ ∃ f y, (insertFrame s sp h x (ftNs s)).2 = tapSee (headerError s) (3 + sp) 1 (ftNs s) f y) ∧
    (s.sys.loaded = true → mType h = 0x60 → mLen h ≤ 2016 → mGroup h = false → mDst h ≠ 4095 → mDst h ≠ rd s SYS_HUB_ID_ID → routeOf s (mDst h) = none →
      (insertFrame s sp h x (ftNs s)).1 = .noRoute ∧ ∃ f y, (insertFrame s sp h x (ftNs s)).2 = tapSee (noRoute s) (3 + sp) 1 (ftNs s) f y)

/-- The switch core's own events (R76, R191, R194, R196, R197, R203). A cell time runs the arbiter and moves one cell of each matched pair: a frame whose
last cell crosses joins its egress queue. A wire that falls idle or whose free window opens starts the ring
domain's next frame that waits and may start, else, as a wire whose tokens arrive, the head frame of TC7 where it may start, else of TC6, else the
frame held because it did not fit, else the round robin's; the frame leaves and the wire is busy for its time. An
interval of the overload monitor clears the count of drops; the 30th interval in a row at or above SET_THR sets OVERLOAD and raises
XB_OVERLOAD, the 30th below CLR_THR clears it. A notice of a broken link puts it on its ring's list, one of a mended link takes it off,
and routes are computed anew; a link not heard of for 350 ms leaves unless the hub's own port keeps it, and an own port's link that found the list full
joins it again. -/
def Obligations.CellsFramesAndBrokenLinks : Prop :=
  (∀ s : State, s.rst.busy = false → exec .cellTime s = .next (cellTime (advance s 8))) ∧
  (∀ (s : State) (i o c : Nat) (f : XFrame) (l : List XFrame), voqOf s (64 * i + (8 * o + c)) = f :: l → ∃ t, moveCell s i o c = t ∧ partsBut [.xb] s t ∧
    (cellsOf f.bytes ≤ f.crossed + 1 → voqOf t (64 * i + (8 * o + c)) = l ∧
      eqOf t (8 * o + c) = eqOf s (8 * o + c) ++ [{ f with crossed := f.crossed + 1 }]) ∧
    (f.crossed + 1 < cellsOf f.bytes → voqOf t (64 * i + (8 * o + c)) = { f with crossed := f.crossed + 1 } :: l ∧ t.xb.eq = s.xb.eq)) ∧
  (∀ (s : State) (w : Nat), s.rst.busy = false → w < 8 →
    (∀ t, t = advanceTo s (sendingTo s w) →
      (∀ o l, w < 4 → (t.port w).waiting = o :: l → ringMay t w (ringLen o) = true →
        exec (.egressFrameStart w) s = .next (ringLeave (t.setPort w { t.port w with waiting := l }) w o)) ∧
      (4 ≤ w ∨ (∀ o l, (t.port w).waiting = o :: l → ringMay t w (ringLen o) = false) → exec (.egressFrameStart w) s = .next (egressStart t w))) ∧
    (∀ t, w < 4 → t = lapSync (advanceTo s (max (freeFrom s w) (sendingTo s w))) →
      (∀ o l, (t.port w).waiting = o :: l → ringMay t w (ringLen o) = true →
        exec (.freeWindowStart w) s = .next (ringLeave (t.setPort w { t.port w with waiting := l }) w o)) ∧
      ((∀ o l, (t.port w).waiting = o :: l → ringMay t w (ringLen o) = false) → exec (.freeWindowStart w) s = .next (egressStart t w))) ∧
    (∀ dt, exec (.shaperTokens dt w) s = .next (egressStart (advance s dt) w))) ∧
  (∀ (s0 s : State) (w q : Nat) (f : XFrame) (l : List XFrame), s = pauseCheck (pauseCheck s0 0) 1 →
    (candidate s w 7 = some q ∨ (candidate s w 7 = none ∧ (candidate s w 6 = some q ∨ (candidate s w 6 = none ∧ heldGoes s w = some q)))) →
    eqOf s q = f :: l → ∃ u, eqOf u q = l ∧ (∀ k, k ≠ q → eqOf u k = eqOf s k) ∧ partsBut [.xb] s u ∧
      egressStart s0 w = if f.inp = 4 ∨ f.inp = 5 then pauseCheck (sendFrame u w q f false false) (f.inp - 4) else sendFrame u w q f false false) ∧
  (∀ (s : State) (d : Nat), s.rst.busy = false → d = s.xb.drops → ∃ t, exec .overloadInterval s = .next t ∧
    (rd s XB_STATUS_OVERLOAD = 0 → d < rd s XB_OVL_CFG_SET_THR → t.xb = { s.xb with drops := 0, watch := 0, calm := 0 } ∧ partsBut [.xb] s t) ∧
    (rd s XB_STATUS_OVERLOAD = 0 → rd s XB_OVL_CFG_SET_THR ≤ d → s.xb.watch ≠ 29 →
      t.xb = { s.xb with drops := 0, watch := s.xb.watch + 1, calm := 0 } ∧ partsBut [.xb] s t) ∧
    (rd s XB_STATUS_OVERLOAD = 0 → rd s XB_OVL_CFG_SET_THR ≤ d → s.xb.watch = 29 → ∃ u, t = raise u 56 (freePool u) ∧
      rd u XB_STATUS_OVERLOAD = 1 ∧ rd u XB_EVT_OVERLOAD = 1 ∧ u.xb = { s.xb with drops := 0, watch := 0, calm := 0 } ∧
      partsBut [.regs, .xb] s u ∧ cellsBut [XB_STATUS_OVERLOAD.addr, XB_EVT_OVERLOAD.addr] s u) ∧
    (rd s XB_STATUS_OVERLOAD = 1 → rd s XB_OVL_CFG_CLR_THR ≤ d → t.xb = { s.xb with drops := 0, watch := 0, calm := 0 } ∧ partsBut [.xb] s t) ∧
    (rd s XB_STATUS_OVERLOAD = 1 → d < rd s XB_OVL_CFG_CLR_THR → s.xb.calm ≠ 29 →
      t.xb = { s.xb with drops := 0, watch := 0, calm := s.xb.calm + 1 } ∧ partsBut [.xb] s t) ∧
    (rd s XB_STATUS_OVERLOAD = 1 → d < rd s XB_OVL_CFG_CLR_THR → s.xb.calm = 29 → rd t XB_STATUS_OVERLOAD = 0 ∧
      t.xb = { s.xb with drops := 0, watch := 0, calm := 0 } ∧ partsBut [.regs, .xb] s t ∧ cellsBut [XB_STATUS_OVERLOAD.addr] s t)) ∧
  (∀ (s : State) (x : List Byte) (r l pos : Nat), s.rst.busy = false → r = beNat (slice x 1 1) % 2 →
    position s r (beNat (slice x 2 2) % 4096) = some pos → l = linkAt s r pos (bits (beNat (slice x 1 1)) 1 1) →
    (beNat (slice x 0 1) = 1 ∨ beNat (slice x 0 1) = 3 → exec (.faultNotice x) s = .next
      (if broken s r l = true ∧ overflowed s r = overflowed (linkAdd s r l false) r then linkAdd s r l false else routeAll (linkAdd s r l false))) ∧
    (∀ n, beNat (slice x 0 1) = 2 → linkEntry s r l = some n → exec (.faultNotice x) s = .next (routeAll (linkDrop s n)))) ∧
  (∀ (s : State) (n : Nat), s.rst.busy = false → n < 32 → rd s (XB_FLT_VALID n) = 1 → (s.link n).seen ≠ none →
    exec (.brokenLinkTimeout n) s = .next (routeAll (linkDrop s n))) ∧
  (∀ (s : State) (n : Nat), ∃ t, (t.link n).seen = none ∧ (∀ m, m ≠ n → t.link m = s.link m) ∧ partsBut [.regs, .xb] s t ∧
    ((s.link n).own = true → linkDrop s n = t ∧ (t.link n).own = true ∧ t.regs = s.regs) ∧
    ((s.link n).own = false → linkDrop s n = ownAgain t (n / 16) ∧ rd t (XB_FLT_VALID n) = 0 ∧ overflowed t (n / 16) = false ∧ (t.link n).own = false)) ∧
  (∀ (s u : State) (r o : Nat), (position s r (rd s SYS_HUB_ID_ID) = none → ownAgain s r = s) ∧
    (position s r (rd s SYS_HUB_ID_ID) = some o → u = (if isUp s (2 * r) = true then s else linkAdd s r (linkAt s r o 0) true) →
      ownAgain s r = if isUp u (2 * r + 1) = true then u else linkAdd u r (linkAt u r o 1) true)) ∧
  ∀ (s : State) (r l n : Nat) (own : Bool), r < 2 → linkEntry s r l = none →
    ((listOf r).find? (fun k => !flag s (XB_FLT_VALID k)) = none → linkAdd s r l own = setOverflow s r true) ∧
    ((listOf r).find? (fun k => !flag s (XB_FLT_VALID k)) = some n → ∃ t,
      linkAdd s r l own = t ∧ rd t (XB_FLT_VALID n) = 1 ∧ rd t (XB_FLT_LINK n) = l % 2 ^ 12 ∧
      (t.link n).seen = (if own = true then (s.link n).seen else some (ftNs s)) ∧
      (t.link n).own = ((s.link n).own || own) ∧ partsBut [.regs, .xb] s t ∧ cellsBut [(XB_FLT_VALID n).addr] s t)

/-- The spurs (R205 to R208). With its link up a spur takes frames of 64 to 2,020 bytes; a longer one is counted as a drop. A good
PAUSE frame holds or releases transmission where PAUSE_RX is set, a good native frame is inserted if its type may be, and any other
is tunnelled by the first entry that matches or the spur's default, or dropped and counted; a bad frame is counted and, unless it is PAUSE or native, tunnelled as bad. PAUSE
received sets PAUSED while its time is not 0, which ends that many quanta of 512 bits later; its expiry clears it then. A spur that has sent PAUSE
repeats it half a pause time later while more than XON cells are held. GO of the MDIO register starts a transfer, whose end clears GO and, for a read, gives DATA. -/
def Obligations.SpursReceivePauseAndManage : Prop :=
  (∀ (s u : State) (dt sp : Nat) (f x : List Byte), u = advance s dt → s.rst.busy = false → sp < 2 → rd s (SPR_STAT_LINK sp) = 1 → 64 ≤ f.length →
    x = f.take (f.length - 4) →
    (2020 < f.length → exec (.spurFrameReceive dt sp f) s = .next (incSat u (SPR_CNT_ERR_DROP sp))) ∧
    (f.length ≤ 2020 → beNat (f.drop (f.length - 4)) ≠ fcs32 x → exec (.spurFrameReceive dt sp f) s =
      .next (if ethType x = 0x8808 ∨ (ethType x = 0x88B6 ∧ rd s (SPR_CTRL_NATIVE_EN sp) = 1) then incSat u (SPR_CNT_ERR_FCS sp)
        else tunnelIn (incSat u (SPR_CNT_ERR_FCS sp)) sp x true)) ∧
    (f.length ≤ 2020 → beNat (f.drop (f.length - 4)) = fcs32 x → ∃ t, rd t (SPR_CNT_RX_COUNT sp) =
        (rd s (SPR_CNT_RX_COUNT sp) + 1) % 2 ^ (SPR_CNT_RX_COUNT 0).w ∧ regsOnly [(SPR_CNT_RX_COUNT sp).addr] u t ∧
      (ethType x = 0x8808 → beNat (slice x 14 2) = 1 → exec (.spurFrameReceive dt sp f) s = .next (pauseRx t sp (beNat (slice x 16 2)))) ∧
      (ethType x = 0x88B6 → rd s (SPR_CTRL_NATIVE_EN sp) = 1 → exec (.spurFrameReceive dt sp f) s = .next (nativeIn t sp x)) ∧
      (ethType x ≠ 0x8808 → (ethType x ≠ 0x88B6 ∨ rd s (SPR_CTRL_NATIVE_EN sp) = 0) →
        exec (.spurFrameReceive dt sp f) s = .next (tunnelIn t sp x false)))) ∧
  (∀ (s : State) (sp : Nat) (f h : List Byte), h = slice f 14 20 →
    (mType h ∈ [0x30, 0x32, 0x40, 0x60] → mLen h ≤ 2016 → nativeIn s sp f = insertLocal s (1 + sp) h (slice f 34 (mLen h))) ∧
    (mType h ∉ [0x30, 0x32, 0x40, 0x60] ∨ 2016 < mLen h → nativeIn s sp f = incSat s (SPR_CNT_ERR_DROP sp))) ∧
  (∀ (s : State) (sp : Nat) (x : List Byte) (bad : Bool), tunnelResult s sp x = none → tunnelIn s sp x bad = incSat s (SPR_CNT_ERR_DROP sp)) ∧
  (∀ (s : State) (sp : Nat) (x : List Byte), (∀ n < 256, rd s (SPR_TUN1_EN n) = 0) → tunnelEntry s sp x = none ∧ tunnelResult s sp x =
    (if rd s (SPR_DEFAULT_ACT sp) = 1 then some (rd s (SPR_DEFAULT_HUB sp), rd s (SPR_DEFAULT_DPORT sp), false)
     else if rd s (SPR_DEFAULT_ACT sp) = 2 then some (rd s (SPR_DEFAULT_GROUP sp), 0, true) else none)) ∧
  (∀ (s : State) (sp t : Nat), s.rst.busy = false → sp < 2 → ∃ u, exec (.pauseReceived sp t) s = .next u ∧
    (if rd s (SPR_CTRL_PAUSE_RX sp) = 1 then rd u (SPR_STAT_PAUSED sp) = (if t = 0 then 0 else 1) ∧
      (t ≠ 0 → tget (fun _ => 0) u.xb.pauseEnd sp = ftNs s + t * 512000 / max 1 (lineRate s (4 + sp))) ∧
      partsBut [.regs, .xb] s u ∧ cellsBut [(SPR_STAT_PAUSED sp).addr] s u else u = s)) ∧
  (∀ (s : State) (sp : Nat), s.rst.busy = false → sp < 2 →
    (rd s (SPR_STAT_PAUSED sp) = 1 → ∃ u, exec (.pauseExpiry sp) s = .next u ∧ rd u (SPR_STAT_PAUSED sp) = 0 ∧
      regsOnly [(SPR_STAT_PAUSED sp).addr] (advanceTo s (tget (fun _ => 0) s.xb.pauseEnd sp)) u) ∧
    (∀ t, t = advanceTo s (tget (fun _ => 0) s.xb.pauseSent sp + 65535 * 512000 / max 1 (lineRate s (4 + sp)) / 2) →
      rd s (SPR_STAT_XOFF sp) = 1 → exec (.pauseRepeat sp) s = .next (if rd s (SPR_PAUSE_XON sp) < heldFrom t sp then pauseSend t sp else t))) ∧
  (∀ (s : State) (sp : Nat), ∃ t, pauseSend s sp = t ∧ t.out = .spurFrame sp (pauseFrame s 0xFFFF) false :: s.out ∧
    tget (fun _ => 0) t.xb.pauseSent sp = ftNs s ∧ partsBut [.xb, .out] s t) ∧
  (∀ (s : State) (op phy reg data : Nat), s.rst.busy = false → op < 4 → phy < 32 → reg < 32 → data < 65536 → ∃ t,
    exec (.mdioGo op phy reg data) s = .next t ∧ rd t SPR_MDIO_GO = 1 ∧ rd t SPR_MDIO_OP = op ∧ rd t SPR_MDIO_PHY = phy ∧ rd t SPR_MDIO_REG = reg ∧
    rd t SPR_MDIO_DATA = data ∧ (∃ w, t.out = .serial 1 0 w :: s.out) ∧ partsBut [.regs, .out] s t ∧ cellsBut [SPR_MDIO_GO.addr] s t) ∧
  ∀ (s : State) (data : Nat), s.rst.busy = false → rd s SPR_MDIO_GO = 1 → ∃ t, exec (.mdioDone data) s = .next t ∧ rd t SPR_MDIO_GO = 0 ∧
    rd t SPR_MDIO_DATA = (if rd s SPR_MDIO_OP = 2 then data % 2 ^ 16 else rd s SPR_MDIO_DATA) ∧ regsOnly [SPR_MDIO_GO.addr] s t

/-- The end of a transfer (R218, R219, R221, R224, R226, R233, R235). At a channel in RUN the bytes of a UART response are collected until END is met or TMO
is over; DE asserted, they are ignored. The end of another attempt judges its response, of a Ferryman access ends it, and of a queue frame ends the
transfer, an SPI or I2C frame's answer going to the RX queue where that is on, stamped with the transfer's start. A line error
makes an attempt's outcome LINE and is counted. The time-outs make it TIMEOUT at the end of TMO, the clock-stretch time-out LINE. An outcome
TIMEOUT, LINE, BADCHK or PARSE is retried after the gap while retries are left; otherwise the transaction ends: OK, RETRY and CHECK write
QUAL and the mask of delivered extractors to its status word, a failure only QUAL and the count of failures, counted in FAIL. The
run goes on to the next transaction after the gap, or ends, with its duration in µs. -/
def Obligations.AttemptsEndAndRetry : Prop :=
  (∀ (s u : State) (dt n : Nat), u = advance s dt → s.rst.busy = false → n < 48 → rd s (CHN_STAT_STATE n) = 2 →
    (∀ bs resp line, (s.chn n).xfer = .attempt bs →
      (chnMode s n = 1 → exec (.attemptEnd dt n resp line) s = .next (collect u n resp line)) ∧
      (chnMode s n ≠ 1 → ∀ q body v, judgeResponse (xferEnd (if line = true then lineErr u n else u) n) n (rd s (CHN_STAT_CUR n))
          (if chnMode s n = 4 then ssiBits (modep s n 0 7) resp else resp) line = (q, body, v) →
        exec (.attemptEnd dt n resp line) s = .next (attemptDone v n q body))) ∧
    (∀ k resp line, (s.chn n).xfer = .ferry k → exec (.attemptEnd dt n resp line) s = .next (ferryEnd u n k resp line) ∧
      (chnMode s n = 3 → exec (.clockStretchTimeout dt n) s = .next (ferryEnd u n k [] true))) ∧
    (∀ bs resp line w v, (s.chn n).xfer = .frame bs →
      w = xferEnd (if line = true then lineErr u n else if chnMode s n = 1 then advanceTo u (s.chn n).sent else u) n → v = w.setChn n { w.chn n with xfer := .none } →
      ((s.chn n).ctsLeft ≠ none → exec (.attemptEnd dt n resp line) s = .next u) ∧
      ((s.chn n).ctsLeft = none → (chnMode s n ≠ 2 ∧ chnMode s n ≠ 3) ∨ resp = [] ∨ rd v (CHN_CFG_RXQ_EN n) = 0 →
        exec (.attemptEnd dt n resp line) s = .next v) ∧
      ((s.chn n).ctsLeft = none → chnMode s n = 2 ∨ chnMode s n = 3 → resp ≠ [] → rd v (CHN_CFG_RXQ_EN n) = 1 → exec (.attemptEnd dt n resp line) s =
        .next (rxStore v n (s.chn n).startAt (resp.take 384) (decide (384 < resp.length)) line))) ∧
    (∀ bs, (s.chn n).xfer = .attempt bs →
      (chnMode s n = 1 → (s.chn n).ctsLeft = none → exec (.transactionTimeout dt n) s = .next (attemptDone (advanceTo u (tmoAt u n (s.chn n).sent)) n 4 [])) ∧
      (chnMode s n = 4 → exec (.ssiDataTimeout dt n) s = .next (attemptDone (advanceTo u (tmoAt u n (s.chn n).startAt)) n 4 [])) ∧
      (chnMode s n = 3 → exec (.clockStretchTimeout dt n) s = .next (attemptDone (lineErr u n) n 5 [])))) ∧
  (∀ (s u : State) (n t tmo : Nat) (bs area : List Byte) (line : Bool), t = rd s (CHN_STAT_CUR n) → tmo = tmoAt s n (s.chn n).sent → (s.chn n).ctsLeft = none →
    (noAnswer s n t = true → collect s n bs line = attemptDone (advanceTo s (s.chn n).sent) n (if (s.chn n).tries = 0 then 0 else 1) []) ∧
    (noAnswer s n t = false → deOn s n = true → collect s n bs line = s) ∧
    (noAnswer s n t = false → deOn s n = false → u = (if line = true then lineErr s n else s) → area = (s.chn n).area ++ bs →
      (endMet u n t area = false → ftNs s ≤ tmo → collect s n bs line = u.setChn n { s.chn n with area := area, areaLine := (s.chn n).areaLine || line }) ∧
      (endMet u n t area = false ∨ desc s n t 1 16 2 ≠ 2 → tmo < ftNs s → collect s n bs line = attemptDone (advanceTo u tmo) n 4 []) ∧
      (endMet u n t area = true → desc s n t 1 16 2 ≠ 2 → ftNs s ≤ tmo → ∀ q body v,
        judgeResponse u n t area ((s.chn n).areaLine || line) = (q, body, v) → collect s n bs line = attemptDone v n q body))) ∧
  (∀ (s : State) (n t : Nat) (resp : List Byte), judgeResponse s n t resp true = (5, resp, s) ∧ ∃ v, lineErr s n = v ∧
    rd v (CHN_CNT_B_LINE_ERR n) = min (rd s (CHN_CNT_B_LINE_ERR n) + 1) (2 ^ (CHN_CNT_B_LINE_ERR 0).w - 1) ∧ rd v (CHN_EVT_LINE n) = 1 ∧
    regsOnly [(CHN_CNT_B_LINE_ERR n).addr, (CHN_EVT_LINE n).addr] s v) ∧
  (∀ (s : State) (n t : Nat) (resp : List Byte), bitOf (desc s n t 3 14 2) 1 = false → judgeResponse s n t resp false =
    (if respLimit s n t < resp.length ∨ expectMiss s n t resp = true then 7 else if (s.chn n).tries ≠ 0 then 1 else 0, resp, s)) ∧
  (∀ (s : State) (n q : Nat) (r : List Byte),
    (4 ≤ q → q ≤ 7 → (s.chn n).tries < rd s (CHN_PL_RETRY n) → ∃ t, attemptDone s n q r = t ∧
      rd t (CHN_CNT_A_RETRY n) = min (rd s (CHN_CNT_A_RETRY n) + 1) (2 ^ (CHN_CNT_A_RETRY 0).w - 1) ∧
      t.chn n = { s.chn n with xfer := .none, gapTo := ftNs s + rd s (CHN_PL2_TGAP n) * 1000, tries := (s.chn n).tries + 1 } ∧
      chnFrame n [(CHN_CNT_A_RETRY n).addr] s t) ∧
    (q < 4 ∨ 7 < q ∨ rd s (CHN_PL_RETRY n) ≤ (s.chn n).tries → attemptDone s n q r = transactionEnd s n q r)) ∧
  (∀ (s : State) (n q t sw : Nat) (r : List Byte), t = rd s (CHN_STAT_CUR n) → sw = swordOf s n t →
    (2 < q → transactionEnd s n q r = nextTransaction (pollFail (s.setStg sw (setBits (setBits (txStatus s n t) 0 4 q) 4 8
      (min 255 (bits (txStatus s n t) 4 8 + 1)))) n t q) n) ∧
    (q ≤ 2 → xEnts s n t = [] → transactionEnd s n q r = nextTransaction (s.setStg sw q) n)) ∧
  (∀ (s : State) (n t q : Nat), ∃ v, rd v (CHN_CNT_A_FAIL n) = min (rd s (CHN_CNT_A_FAIL n) + 1) (2 ^ (CHN_CNT_A_FAIL 0).w - 1) ∧
    regsOnly [(CHN_CNT_A_FAIL n).addr, (CHN_EVT_POLL_FAIL n).addr] s v ∧
    (desc s n t 6 31 1 ≠ 1 → pollFail s n t q = v) ∧
    (desc s n t 6 31 1 = 1 → rd v (CHN_EVT_POLL_FAIL n) = 1 ∧ pollFail s n t q = raiseOnce v 64 (n + t * 64 + q * 4096))) ∧
  ∀ (s : State) (n t : Nat), t = rd s (CHN_STAT_CUR n) + 1 → ∃ v, nextTransaction s n = v ∧ (v.chn n).xfer = .none ∧ (v.chn n).tries = 0 ∧
    (t < listLen s n → rd v (CHN_STAT_CUR n) = t ∧ (v.chn n).gapTo = ftNs s + rd s (CHN_PL2_TGAP n) * 1000 ∧
      chnFrame n [(CHN_STAT_CUR n).addr] s v) ∧
    (listLen s n ≤ t → rd v (CHN_STAT_BUSY n) = 0 ∧ rd v (CHN_STAT_CUR n) = 0 ∧ (v.chn n).gapTo = 0 ∧ (∃ us, us < 65536 ∧
      us = min 65535 (roundDiv ((ftNs s : Int) - (s.chn n).runStart) 1000).toNat ∧ rd v (CHN_PL_TIME_LAST n) = us ∧
      rd v (CHN_PL_TIME_MAX n) = max us (rd s (CHN_PL_TIME_MAX n))) ∧
      chnFrame n [(CHN_STAT_CUR n).addr, (CHN_PL_TIME_LAST n).addr] s v)

/-- The start of a transfer (R214, R216, R217, R219, R221, R225, R228, R232, R265, R304, R306, R320). A channel in RUN whose line is free waits for the end of the gap and of
CS_IDLE or MONO, then takes the running list first, a waiting Ferryman access next, the TX queue last; a UART channel under RTSCTS also needs CTS. SDA stuck
low on an I2C channel sets BUS_STUCK, counts a line error, and ends what would have started. An attempt sends the template with its inserts, with its check
value where its use says so, SPI with 0xFF for each byte it reads beyond; one whose descriptor is damaged ends CFG, one that needs the Assay block with no
unit in service ends BADCHK with NO_UNIT. A queue frame leaves the queue and goes out with its check value where QUSE says so, or is aborted and counted with
no unit in service; I2C takes its address and read length from its first two bytes. A transfer begins with the chip select low for SPI, for UART with DE
asserted DE_LEAD before the first bit; it ends with the chip select high CS_HOLD later, for SSI with MONO. -/
def Obligations.TransfersStart : Prop :=
  (∀ (s u : State) (dt n sda : Nat), u = advanceTo (advance s dt) (max (s.chn n).gapTo (s.chn n).idleTo) → s.rst.busy = false → n < 48 → rd s (CHN_STAT_STATE n) = 2 →
    (s.chn n).xfer = .none → chnMode s n ∈ [1, 2, 3, 4] → (chnMode s n = 1 → modep s n 5 1 = 1 → (s.chn n).cts = true) →
    (rd s (CHN_STAT_BUSY n) = 1 → chnMode s n ≠ 3 → exec (.transferStart dt n sda) s = .next (startAttempt u n)) ∧
    (chnMode s n = 3 → 2 ≤ sda → ∃ v, rd v (CHN_STAT_BUS_STUCK n) = 1 ∧ regsOnly [(CHN_STAT_BUS_STUCK n).addr] u v ∧
      (rd s (CHN_STAT_BUSY n) = 1 → exec (.transferStart dt n sda) s = .next (attemptDone (lineErr v n) n 5 [])) ∧
      (∀ k rest, rd s (CHN_STAT_BUSY n) = 0 → (s.chn n).ferry = k :: rest →
        exec (.transferStart dt n sda) s = .next (endReq (lineErr (v.setChn n { v.chn n with ferry := rest }) n) k 2 [])) ∧
      (∀ f rest, rd s (CHN_STAT_BUSY n) = 0 → (s.chn n).ferry = [] → (s.chn n).txq = f :: rest →
        exec (.transferStart dt n sda) s = .next (lineErr (v.setChn n { v.chn n with txq := rest }) n))) ∧
    (rd s (CHN_STAT_BUSY n) = 1 → chnMode s n = 3 → sda = 0 → ∃ v, rd v (CHN_STAT_BUS_STUCK n) = 0 ∧ regsOnly [(CHN_STAT_BUS_STUCK n).addr] u v ∧
      exec (.transferStart dt n sda) s = .next (startAttempt v n)) ∧
    (∀ k rest, rd s (CHN_STAT_BUSY n) = 0 → chnMode s n ≠ 3 → (s.chn n).ferry = k :: rest →
      exec (.transferStart dt n sda) s = .next (startFerry u n k rest)) ∧
    (∀ f rest, rd s (CHN_STAT_BUSY n) = 0 → chnMode s n ≠ 3 → (s.chn n).ferry = [] → (s.chn n).txq = f :: rest →
      exec (.transferStart dt n sda) s = .next (startFrame u n f rest))) ∧
  (∀ (s : State) (n t use : Nat), t = rd s (CHN_STAT_CUR n) → use = desc s n t 3 14 2 →
    (pollBad s n t = true → startAttempt s n = transactionEnd s n 8 []) ∧
    (pollBad s n t = false → use ≠ 0 → rd s ASY_STATUS_FAILED = 0xFFFF → startAttempt s n = transactionEnd (wr s ASY_EVT_NO_UNIT 1) n 6 []) ∧
    (pollBad s n t = false → use = 0 ∨ rd s ASY_STATUS_FAILED ≠ 0xFFFF → ∀ bs s1 all dev read,
      (bs, s1) = (if bitOf use 0 = true then asyAppend s (desc s n t 3 8 6) (buildRequest s n t) else (buildRequest s n t, s)) →
      all = (if chnMode s n = 2 then bs ++ List.replicate (desc s n t 2 0 10) 0xFF else bs) →
      dev = (if chnMode s n = 2 then desc s n t 3 16 2 else if chnMode s n = 3 then desc s n t 3 18 10 + 1024 * desc s n t 3 28 1
        else if chnMode s n = 1 then modep s n 6 1 else 0) →
      read = (if chnMode s n = 3 then desc s n t 2 0 10 else if chnMode s n = 4 then (modep s n 0 7 + 7) / 8 else 0) →
      startAttempt s n = (xferBegin s1 n all.length dev (.attempt all)).emit (.chnRequest n all read dev (lineHow s n)))) ∧
  (∀ (s : State) (n : Nat), iEnts s n (rd s (CHN_STAT_CUR n)) = [] →
    buildRequest s n (rd s (CHN_STAT_CUR n)) = template s n (rd s (CHN_STAT_CUR n))) ∧
  (∀ (s : State) (n : Nat) (f : List Byte) (rest : List (List Byte)),
    (bitOf (rd s (CHN_CFG_QUSE n)) 0 = true → rd s ASY_STATUS_FAILED = 0xFFFF → ∃ v, startFrame s n f rest = v ∧ (v.chn n).txq = rest ∧
      rd v (CHN_CNT_C_TX_ABORT n) = min (rd s (CHN_CNT_C_TX_ABORT n) + 1) (2 ^ (CHN_CNT_C_TX_ABORT 0).w - 1) ∧ rd v ASY_EVT_NO_UNIT = 1 ∧
      chnFrame n [(CHN_CNT_C_TX_ABORT n).addr, ASY_EVT_NO_UNIT.addr] s v) ∧
    (bitOf (rd s (CHN_CFG_QUSE n)) 0 = false ∨ rd s ASY_STATUS_FAILED ≠ 0xFFFF → ∀ s0 bs s1 dev, s0 = s.setChn n { s.chn n with txq := rest } →
      (bs, s1) = (if bitOf (rd s (CHN_CFG_QUSE n)) 0 = true then asyAppend s0 (rd s (CHN_CFG_QCTX n)) f else (f, s0)) →
      dev = (if chnMode s n = 3 then (bs.getD 0 0).toNat % 128 else if chnMode s n = 1 then modep s n 6 1 else 0) →
      startFrame s n f rest = (xferBegin s1 n bs.length (if chnMode s n = 2 then 0 else dev) (.frame bs)).emit
        (.chnRequest n (if chnMode s n = 3 then bs.drop 2 else bs) (if chnMode s n = 3 then (bs.getD 1 0).toNat else 0) dev (lineHow s n)))) ∧
  (∀ (s : State) (n len dev : Nat) (x : Xfer), ∃ v, xferBegin s n len dev x = v ∧ (v.chn n).xfer = x ∧ (v.chn n).startAt = ftNs s ∧ (v.chn n).area = [] ∧
    (v.chn n).txq = (s.chn n).txq ∧ (v.chn n).rxq = (s.chn n).rxq ∧
    (chnMode s n = 1 → (v.chn n).sent = ftNs s + bitsNs s n (deLead s n + len * charBits s n) ∧ (v.chn n).ctsLeft = none) ∧
    (chnMode s n = 2 → (v.chn n).cs = some dev ∧ ∀ l, csLine s n dev = some l → rd s (DIO_STAT_RELEASED l) = 0 → (v.line l).drive = some false) ∧
    partsBut [.chns, .lines] s v ∧ (∀ m, m ≠ n → v.chn m = s.chn m) ∧ ∀ m, chnMode s n ≠ 2 ∨ csLine s n dev ≠ some m → v.line m = s.line m) ∧
  ∀ (s t : State) (n : Nat), t = advanceTo s (ftNs s + 4 * modep s n 16 8) →
    (chnMode s n = 2 → ∃ v, xferEnd s n = v ∧ v.chn n = { s.chn n with cs := none, idleTo := ftNs t + 4 * modep t n 24 8 } ∧
      (∀ k l, (s.chn n).cs = some k → csLine s n k = some l → rd s (DIO_STAT_RELEASED l) = 0 → (v.line l).drive = some true) ∧
      partsBut [.chns, .lines] t v ∧ ∀ m, m ≠ n → v.chn m = s.chn m) ∧
    (chnMode s n = 4 → xferEnd s n = s.setChn n { s.chn n with idleTo := ftNs s + 1000 * modep s n 8 8 }) ∧
    (chnMode s n ≠ 2 → chnMode s n ≠ 4 → xferEnd s n = s)

/-- A channel's commands (R7, R213, R214, R216, R217, R221 to R223, R228, R236 to R238). A push of 1 to 384 bytes queues the bytes of the TX window; an SSI channel refuses it as DENIED, a full
queue as RETRY, both with TXQ_FULL, and a channel in MODE 5 has no queue. Characters received in RUN, but those that fall under DE, join the frame that is partly
received where the RX queue is on, or are counted as dropped; the frame ends under END 0 at RX_MAX and under END 1 at DELIM, an address byte begins another,
and it is stored with its first character's stamp, cut to RX_MAX. POP takes the oldest frame, and with forwarding firmware sends it as an event; the flushes empty
a queue. ENABLE clears DIS and the channel runs where it may, or is remembered while STOPPING; DISABLE sets DIS and a running channel stops;
the end of STOPPING, behind DE_LAG or CS_HOLD or after 2 ms, makes it IDLE, nothing running, its pins idle, what was partly sent or received counted, STOPPED set.
CTS is what the line says, and under RTSCTS stops a transmission at the next character and lets it go on. Poll memory is written up to step 13, each access stepping WORD while
INC is 1. -/
def Obligations.ChannelQueuesAndEnables : Prop :=
  (∀ (s : State) (ini n len : Nat), s.rst.busy = false → n < 48 → 1 ≤ len → len ≤ 384 →
    (chnMode s n = 4 → ∃ t, exec (.chnTxpush ini n len) s = .next (if ini = 2 then t.emit (.busRsp 2 5 0) else t) ∧ rd t (CHN_EVT_TXQ_FULL n) = 1 ∧
      rd t (CHN_CNT_C_TX_ABORT n) = min (rd s (CHN_CNT_C_TX_ABORT n) + 1) (2 ^ (CHN_CNT_C_TX_ABORT 0).w - 1) ∧
      regsOnly [(CHN_EVT_TXQ_FULL n).addr, (CHN_CNT_C_TX_ABORT n).addr] s t) ∧
    (chnMode s n = 5 → exec (.chnTxpush ini n len) s = .next (if ini = 2 then s.emit (.busRsp 2 0 0) else s)) ∧
    (chnMode s n ≠ 4 → chnMode s n ≠ 5 → 512 * txqUnits s n < txUsed s n + queued len → ∃ t, exec (.chnTxpush ini n len) s =
      .next (if ini = 2 then t.emit (.busRsp 2 1 0) else t) ∧ rd t (CHN_EVT_TXQ_FULL n) = 1 ∧ regsOnly [(CHN_EVT_TXQ_FULL n).addr] s t) ∧
    (chnMode s n ≠ 4 → chnMode s n ≠ 5 → txUsed s n + queued len ≤ 512 * txqUnits s n → ∃ f t, f.length = len ∧
      f = ((List.range 96).flatMap fun k => leBytes 4 (rd s (CHN_TXW_DATA n k))).take len ∧
      t = s.setChn n { s.chn n with txq := (s.chn n).txq ++ [f] } ∧
      exec (.chnTxpush ini n len) s = .next (if ini = 2 then t.emit (.busRsp 2 0 0) else t))) ∧
  (∀ (s u : State) (dt n : Nat) (cs : List (Nat × Nat)), u = advance s dt → s.rst.busy = false → n < 48 → rd s (CHN_STAT_STATE n) = 2 → chnMode s n = 1 →
    (∀ bs, (s.chn n).xfer = .attempt bs → exec (.rxFrameEnd dt n cs) s =
      .next (collect u n (cs.map fun p => BitVec.ofNat 8 p.2) (cs.any fun p => bitOf p.2 9))) ∧
    ((∀ bs, (s.chn n).xfer ≠ .attempt bs) → ∀ v, v = (cs.filter fun p => !decide (modep s n 4 1 = 1 ∧ (s.chn n).sent ≠ 0 ∧ (s.chn n).startAt ≤ ftNs u - p.1 ∧
        ((s.chn n).ctsLeft ≠ none ∨ ftNs u - p.1 < (s.chn n).sent + bitsNs s n (deLag s n)))).foldl (fun w p => rxChar w n (ftNs u - p.1) p.2) u →
      exec (.rxFrameEnd dt n cs) s = .next (if 2 ≤ rd s (CHN_RXEND_END n) then partEnd v n else v))) ∧
  (∀ (s u : State) (n ns ch m : Nat), u = (if bitOf ch 9 = true then lineErr s n else s) → m = rd u (CHN_RXEND_RX_MAX n) →
    (∀ v, modep u n 7 1 = 1 → bitOf ch 8 = true → ch % 256 ≠ modep u n 24 8 → v = partEnd u n → rxChar s n ns ch = v.setChn n { v.chn n with other := true }) ∧
    (modep u n 7 1 = 1 → bitOf ch 8 = false → (s.chn n).other = true → rxChar s n ns ch = u.setChn n { u.chn n with other := true }) ∧
    (modep u n 7 1 = 0 ∨ (bitOf ch 8 = false ∧ (s.chn n).other = false) →
      (rd u (CHN_CFG_RXQ_EN n) = 0 → rxChar s n ns ch = rxDrop (u.setChn n { u.chn n with other := false }) n 1) ∧
      (rd u (CHN_CFG_RXQ_EN n) = 1 → ∀ t0 bs ln all v, (s.chn n).part.getD (ns, [], false) = (t0, bs, ln) → all = (bs ++ [BitVec.ofNat 8 ch]).take (m + 1) →
        v = u.setChn n { u.chn n with other := false, part := some (t0, all, ln || bitOf ch 9) } → rxChar s n ns ch =
          if (rd u (CHN_RXEND_END n) = 0 ∧ m ≤ all.length) ∨ (rd u (CHN_RXEND_END n) = 1 ∧ ch % 256 = rd u (CHN_RXEND_DELIM n)) then partEnd v n else v))) ∧
  (∀ (s : State) (n m : Nat), m = rd s (CHN_RXEND_RX_MAX n) → ((s.chn n).part = none → partEnd s n = s) ∧
    ∀ ns bs ln, (s.chn n).part = some (ns, bs, ln) → partEnd s n = rxStore (s.setChn n { s.chn n with part := none }) n ns (bs.take m) (decide (m < bs.length)) ln) ∧
  (∀ (s : State) (n k : Nat), ∃ t, rxDrop s n k = t ∧ rd t (CHN_CNT_C_RX_DROP n) = min (rd s (CHN_CNT_C_RX_DROP n) + k) (2 ^ (CHN_CNT_C_RX_DROP 0).w - 1) ∧
    regsOnly [(CHN_CNT_C_RX_DROP n).addr] s t) ∧
  (∀ (s : State) (n ns : Nat) (bs : List Byte) (tr ln : Bool), bitOf (rd s (CHN_CFG_QUSE n)) 1 = false →
    (rxUsed s n + queued bs.length ≤ rxSize s n → rxStore s n ns bs tr ln =
      s.setChn n { s.chn n with rxq := (s.chn n).rxq ++ [⟨bs, ns, false, tr, ln⟩], seen := true }) ∧
    (rxSize s n < rxUsed s n + queued bs.length → ∃ t, rxStore s n ns bs tr ln = t ∧ rd t (CHN_EVT_RXQ_OVF n) = 1 ∧
      rd t (CHN_CNT_C_RX_DROP n) = min (rd s (CHN_CNT_C_RX_DROP n) + 1) (2 ^ (CHN_CNT_C_RX_DROP 0).w - 1) ∧
      regsOnly [(CHN_EVT_RXQ_OVF n).addr, (CHN_CNT_C_RX_DROP n).addr] s t)) ∧
  (∀ (s : State) (n : Nat), s.rst.busy = false → n < 48 →
    (∀ ini f rest, (s.chn n).rxq = f :: rest → ∃ t, t = s.setChn n { s.chn n with rxq := rest } ∧
      (rd s (CHN_CFG_FWD_EN n) = 0 → exec (.chnPopRx ini n) s = .next t) ∧
      (rd s (CHN_CFG_FWD_EN n) = 1 → ini < 2 → exec (.chnPopRx ini n) s =
        .next (sendEvent t (rd s (CHN_FWD_HUB n)) (rd s (CHN_FWD_DPORT n)) n (chnEvent n f)))) ∧
    exec (.chnFlushTx n) s = .next (s.setChn n { s.chn n with txq := [] }) ∧
    exec (.chnFlushRx n) s = .next (s.setChn n { s.chn n with rxq := [] }) ∧
    (∀ b, ¬(chnMode s n = 1 ∧ modep s n 5 1 = 1 ∧ (s.chn n).xfer ≠ .none) → exec (.ctsChange n b) s = .next (s.setChn n { s.chn n with cts := b })) ∧
    (chnMode s n = 1 → modep s n 5 1 = 1 → (s.chn n).xfer ≠ .none →
      (∀ k, (s.chn n).ctsLeft = none → k = bitsNs s n (((s.chn n).sent - ftNs s) / bitsNs s n (charBits s n) * charBits s n) →
        exec (.ctsChange n false) s = .next (s.setChn n { s.chn n with cts := false, ctsLeft := if k = 0 then none else some k })) ∧
      (∀ k, (s.chn n).ctsLeft = some k → exec (.ctsChange n true) s = .next (s.setChn n { s.chn n with cts := true, sent := ftNs s + k, ctsLeft := none }))) ∧
    (rd s (CHN_STAT_STATE n) = 3 → ∃ t, exec (.chnEnable n) s = .next t ∧ rd t (CHN_STAT_PEND_ON n) = 1 ∧ regsOnly [(CHN_STAT_PEND_ON n).addr] s t) ∧
    (rd s (CHN_STAT_STATE n) = 1 ∨ rd s (CHN_STAT_STATE n) = 2 → ∃ t, exec (.chnEnable n) s = .next (chnGo t n) ∧ rd t (CHN_STAT_DIS n) = 0 ∧
      regsOnly [(CHN_STAT_DIS n).addr] s t) ∧
    (rd s (CHN_STAT_STATE n) = 1 ∨ rd s (CHN_STAT_STATE n) = 2 ∨ rd s (CHN_STAT_STATE n) = 3 → ∃ t, exec (.chnDisable n) s = .next (chnStop t n) ∧
      rd t (CHN_STAT_DIS n) = 1 ∧ rd t (CHN_STAT_PEND_ON n) = 0 ∧ rd t (CHN_STAT_STATE n) = rd s (CHN_STAT_STATE n) ∧ regsOnly [(CHN_STAT_DIS n).addr] s t) ∧
    (∀ dt u, u = advance s dt → rd s (CHN_STAT_STATE n) = 3 →
      exec (.chnStoppingEnd dt n true) s = .next (chnIdle (advanceTo u ((s.chn n).stopAt + 2000000)) n) ∧
      ((s.chn n).xfer = .none → exec (.chnStoppingEnd dt n false) s = .next (chnIdle u n)) ∧
      ((s.chn n).xfer ≠ .none → chnMode s n = 1 → uartSends u n = true → exec (.chnStoppingEnd dt n false) s =
        .next (chnIdle (advanceTo u (ftNs u + bitsNs u n (deLag u n))) n)) ∧
      ((s.chn n).xfer ≠ .none → chnMode s n ≠ 1 ∨ uartSends u n = false → exec (.chnStoppingEnd dt n false) s = .next (chnIdle (xferEnd u n) n)))) ∧
  (∀ (s : State) (n : Nat), (s.chn n).ferry = [] → (∀ k, (s.chn n).xfer ≠ .ferry k) → rd s (CHN_STAT_PEND_ON n) = 0 → ∃ t, chnIdle s n = chnGo t n ∧
    rd t (CHN_STAT_STATE n) = 1 ∧ rd t (CHN_STAT_BUSY n) = 0 ∧ rd t (CHN_EVT_STOPPED n) = 1 ∧ (t.chn n).xfer = .none ∧ (t.chn n).cs = none ∧
    (t.chn n).pins = idlePins s n ∧ (t.chn n).part = none ∧
    rd t (CHN_CNT_C_TX_ABORT n) = (match (s.chn n).xfer with | .frame _ => min (rd s (CHN_CNT_C_TX_ABORT n) + 1) (2 ^ (CHN_CNT_C_TX_ABORT 0).w - 1) | _ => rd s (CHN_CNT_C_TX_ABORT n)) ∧
    rd t (CHN_CNT_C_RX_DROP n) = (if (s.chn n).part = none then rd s (CHN_CNT_C_RX_DROP n) else min (rd s (CHN_CNT_C_RX_DROP n) + 1) (2 ^ (CHN_CNT_C_RX_DROP 0).w - 1)) ∧
    partsBut [.regs, .chns, .lines] s t ∧ cellsBut [(CHN_STAT_STATE n).addr, (CHN_EVT_STOPPED n).addr, (CHN_CNT_C_RX_DROP n).addr] s t ∧
    (∀ m, m ≠ n → t.chn m = s.chn m) ∧ (chnMode s n ≠ 2 → t.lines = s.lines)) ∧
  ∀ (s : State) (ini k : Nat) (w : Option Nat), s.rst.busy = false → k = rd s CHN_PM_ADDR_WORD → ∃ t, exec (.pmDataAccess ini w) s = .next t ∧
    rd t CHN_PM_ADDR_WORD = (if rd s CHN_PM_ADDR_INC = 1 then (k + 1) % 2 ^ CHN_PM_ADDR_WORD.w else k) ∧
    partsBut [.regs, .mem, .bad, .out] s t ∧ cellsBut [CHN_PM_ADDR_WORD.addr] s t ∧
    (w = none → memSame s t ∧ t.bad = s.bad ∧ t.out = .busRsp ini (if 6 * 2 ^ 28 + k ∈ s.bad then 2 else 0) (memWord s (pollBase + 4 * k)) :: s.out) ∧
    (∀ v, w = some v → 14 ≤ rd s SYS_STEP_STEP → memSame s t ∧ t.bad = s.bad ∧
      t.out = (if ini = 2 then .busRsp 2 (if v % 2 ^ 32 = memWord s (pollBase + 4 * k) then 0 else 4) 0 :: s.out else s.out)) ∧
    ∀ v, w = some v → rd s SYS_STEP_STEP < 14 → t.out = (if ini = 2 then .busRsp 2 0 0 :: s.out else s.out) ∧ 6 * 2 ^ 28 + k ∉ t.bad ∧
      (∀ a, a < pollBase + 4 * k ∨ pollBase + 4 * k + 4 ≤ a → memGet t a = memGet s a) ∧
      ∀ i < 4, memGet t (pollBase + 4 * k + i) = BitVec.ofNat 8 (v / 256 ^ i)

/-- Levels of pins that the state gives (R213, R216, R217, R219, R323, R326, R407). A channel that holds no pins drives none. On a UART channel DE is high while it sends and through DE_LAG, and without
RS485 RTS is low exactly while 64 bytes of the RX queue are free; TXD carries data while it sends. On an SPI channel CS0 is low while it is selected, and clock and MOSI carry data while a line is; SSI and I2C
carry theirs in a transfer. LP_IRQ_N is low exactly while an enabled bit of LP_EVT is set or a frame waits, from ST08 on and outside a reset. SP_MDC is low until ST09, NV_CS_N high until ST05. -/
def Obligations.PinsFollowTheState : Prop :=
  (∀ (s : State) (n : Nat),
    ((s.chn n).pins = [] → ∀ k, chnPin s n k = .undriven) ∧
    ((s.chn n).pins ≠ [] → chnMode s n = 1 →
      (uartSends s n = true → chnPin s n 0 = .data) ∧
      (modep s n 4 1 = 1 → chnPin s n 2 = if deOn s n = true then .high else .low) ∧
      (modep s n 4 1 = 0 → modep s n 5 1 = 1 → chnPin s n 2 = if rxUsed s n + 64 ≤ rxSize s n then .low else .high)) ∧
    ((s.chn n).pins ≠ [] → chnMode s n = 2 →
      (∀ k, (s.chn n).cs = some k → chnPin s n 0 = .data ∧ chnPin s n 1 = .data) ∧
      ((s.chn n).cs = some 0 → chnPin s n 3 = .low) ∧
      ((s.chn n).cs ≠ some 0 → chnPin s n 3 = (s.chn n).pins.getD 3 .undriven)) ∧
    ((s.chn n).pins ≠ [] → (s.chn n).xfer ≠ .none → (chnMode s n = 3 → chnPin s n 0 = .data ∧ chnPin s n 1 = .data) ∧ (chnMode s n = 4 → chnPin s n 0 = .data))) ∧
  ∀ s : State,
    ((s.rst.busy = true ∨ s.sys.loaded = false) → lpIrqLow s = false) ∧
    (s.rst.busy = false → s.sys.loaded = true →
      (lpIrqLow s = true ↔ s.fry.rxq ≠ [] ∨ rdW s LP_EVT_CONTEND.addr &&& rdW s LP_IRQ_EN_EN.addr ≠ 0)) ∧
    (norPins s = if s.sys.st05 then none else some (true, false, !s.rst.fromFull)) ∧
    ((s.rst.busy = true ∨ rd s SYS_STEP_STEP < 9) ↔ mdcLow s = true)

/-- The states of a CAN controller (R244 to R247, R252). ENABLE clears DIS and a stopped controller starts where it may, or is remembered while STOPPING; DISABLE
sets DIS, and an active one stops. RECOVER leads out of BUS_OFF, in the cycle of its entry one cycle later, and recovery ends ON with both counters 0 and RECOVERED set. A start is
DETECT at candidate 0 with AUTO_DET, INTEGRATE otherwise, with the counters 0; integration ends ON. Each dwell that ends tries the next candidate; a full pass is counted;
DET_SLOW is set once per search. The end of STOPPING cancels what was pending, empties the schedule queue and is STOPPED. POP takes the oldest received frame, in the cycle of
an overwrite the one overwritten, which then is not lost, and with forwarding firmware sends it as an event; the flush empties the FIFO. -/
def Obligations.ControllersStartStopAndDetect : Prop :=
  (∀ (s : State) (k st : Nat), s.rst.busy = false → k < 16 → st = rd s (CAN_STAT_STATE k) →
    (st = 6 → ∃ t, exec (.canEnable k) s = .next t ∧ rd t (CAN_STAT_PEND_ON k) = 1 ∧ regsOnly [(CAN_STAT_PEND_ON k).addr] s t) ∧
    (st ≠ 0 → st ≠ 8 → st ≠ 6 → ∃ t, exec (.canEnable k) s = .next (canGo t k) ∧ rd t (CAN_STAT_DIS k) = 0 ∧ rd t (CAN_STAT_STATE k) = st ∧
      regsOnly [(CAN_STAT_DIS k).addr] s t) ∧
    (st ≠ 0 → st ≠ 8 → ∃ t, exec (.canDisable k) s = .next t ∧ rd t (CAN_STAT_DIS k) = 1 ∧ rd t (CAN_STAT_PEND_ON k) = 0 ∧
      rd t (CAN_STAT_STATE k) = (if 1 ≤ st ∧ st ≤ 5 then 6 else st) ∧ regsOnly [(CAN_STAT_DIS k).addr] s t) ∧
    (∀ u, u = (if (s.can k).offAt = some s.clk.ft.toNat then advance s 1 else s) → st = 4 → ∃ t, exec (.canRecover k) s = .next t ∧ rd t (CAN_STAT_STATE k) = 5 ∧
      regsOnly [(CAN_STAT_STATE k).addr] u t) ∧
    (st ≠ 4 → exec (.canRecover k) s = .next (s.setCan k { s.can k with asked := some s.clk.ft.toNat })) ∧
    (st = 2 → ∃ t, exec (.integrateDone k) s = .next (sofGo t k) ∧ rd t (CAN_STAT_STATE k) = 3 ∧ regsOnly [(CAN_STAT_STATE k).addr] s t) ∧
    (st = 5 → ∃ t, exec (.recoveryDone k) s = .next (sofGo t k) ∧ rd t (CAN_STAT_STATE k) = 3 ∧ rd t (CAN_ERRC_TEC k) = 0 ∧
      rd t (CAN_ERRC_REC k) = 0 ∧ rd t (CAN_STAT_ERR k) = 0 ∧ rd t (CAN_EVT_RECOVERED k) = 1 ∧
      regsOnly [(CAN_STAT_STATE k).addr, (CAN_ERRC_TEC k).addr, (CAN_EVT_RECOVERED k).addr] s t) ∧
    (st = 6 → exec (.canStoppingEnd k) s = .next (canStopped s k)) ∧
    (st = 1 → (s.can k).locked = false → ∃ t, exec (.dwellExpiry k) s = .next t ∧
      (rd s (CAN_DET_NCAND_M1 k) ≤ (s.can k).cand → t.can k = { s.can k with cand := 0 } ∧
        rd t (CAN_CNT_D_DET_PASS k) = min (rd s (CAN_CNT_D_DET_PASS k) + 1) (2 ^ (CAN_CNT_D_DET_PASS 0).w - 1) ∧
        canCtlFrame k [(CAN_CNT_D_DET_PASS k).addr] s t) ∧
      ((s.can k).cand < rd s (CAN_DET_NCAND_M1 k) → t.can k = { s.can k with cand := (s.can k).cand + 1 } ∧ canCtlFrame k [] s t)) ∧
    (st = 1 → (s.can k).locked = false → (s.can k).slow = false → rd s (CAN_DET_DET_TMO k) ≠ 0 → ∃ t, exec (.detSlow k) s = .next t ∧
      rd t (CAN_EVT_DET_SLOW k) = 1 ∧ t.can k = { s.can k with slow := true } ∧ canCtlFrame k [(CAN_EVT_DET_SLOW k).addr] s t)) ∧
  (∀ (s : State) (k : Nat), ∃ t, canStart s k = t ∧ rd t (CAN_STAT_STATE k) = (if rd s (CAN_CTRL_AUTO_DET k) = 1 then 1 else 2) ∧
    rd t (CAN_ERRC_TEC k) = 0 ∧ rd t (CAN_ERRC_REC k) = 0 ∧ rd t (CAN_STAT_ERR k) = 0 ∧
    t.can k = { s.can k with cand := 0, slow := false, locked := false, awake := true } ∧
    canCtlFrame k [(CAN_STAT_STATE k).addr, (CAN_ERRC_TEC k).addr] s t) ∧
  (∀ (s : State) (k : Nat), (rd s (CAN_STAT_STATE k) = 7 → running s = true → rd s (CAN_STAT_DIS k) = 0 → canGo s k = canStart s k) ∧
    (rd s (CAN_STAT_STATE k) ≠ 7 ∨ running s = false ∨ rd s (CAN_STAT_DIS k) = 1 → canGo s k = s)) ∧
  (∀ (s : State) (k : Nat), k < 16 → (∀ b < 3, rd s (CAN_TXB_CTRL_PEND k b) = 0) → rd s (CAN_STAT_PEND_ON k) = 0 → ∃ t, canStopped s k = canGo t k ∧
    rd t (CAN_STAT_STATE k) = 7 ∧ rd t (CAN_EVT_STOPPED k) = 1 ∧ (t.can k).sq = [] ∧ (t.can k).sbuf = none ∧ (t.can k).fifo = (s.can k).fifo ∧
    canCtlFrame k [(CAN_STAT_STATE k).addr, (CAN_EVT_STOPPED k).addr] s t) ∧
  ∀ (s : State) (k : Nat), s.rst.busy = false → k < 16 →
    exec (.canFlushRx k) s = .next (s.setCan k { s.can k with fifo := [], evicted := none }) ∧
    (∀ ini x t, canPop s k = some (x, t) →
      (rd s (CAN_CTRL_FWD_EN k) = 0 → exec (.canPopRx ini k) s = .next t) ∧
      (rd s (CAN_CTRL_FWD_EN k) = 1 → ini < 2 → exec (.canPopRx ini k) s =
        .next (sendEvent t (rd s (CAN_FWD_HUB k)) (rd s (CAN_FWD_DPORT k)) (0x100 + k) (canEvent k x)))) ∧
    (∀ x q, (s.can k).fifo = x :: q → (∀ o, (s.can k).evicted = some o → o.1 ≠ s.clk.ft.toNat) →
      canPop s k = some (x, s.setCan k { s.can k with fifo := q })) ∧
    ∀ y c e, (s.can k).evicted = some (s.clk.ft.toNat, y, c, e) → ∃ t, canPop s k = some (y, t) ∧
      rd t (CAN_CNT_C_RX_OVF k) = c % 2 ^ (CAN_CNT_C_RX_OVF 0).w ∧ rd t (CAN_EVT_RX_OVF k) = e % 2 ∧ t.can k = { s.can k with evicted := none } ∧
      canCtlFrame k [(CAN_CNT_C_RX_OVF k).addr, (CAN_EVT_RX_OVF k).addr] s t

/-- A frame received by a CAN controller (R246, R251 to R256). In DETECT an error-free frame locks the candidate, whose words become the bit
timing, with RATE_IDX and RATE_LOCK, and the controller is in INTEGRATE with DET_RUN = 1; a candidate with FDV waits for a switched frame. A
FDF frame with FD_EN = 0 is a form error, in DETECT as well. In OFF and the other states nothing is taken. Any other frame is taken with the time of its SOF edge, and the controller may then start a
frame. The frame taken counts in RX_OK; REC falls by 1, or from above 127 to a value from 119 to 127; the first matching filter, or ACC_NM, says
where it goes. The FIFO of 32 keeps it at its end; a full one counts, and drops the frame, or the oldest with FIFO_OW, which a
POP_RX of that cycle still takes. A receive message updates only where its identifier matches, after a boundary that FT has reached aged it: a short frame sets SHORT and counts, another extracts its fields and has AGE 0. At a tick every enabled receive message
ages. -/
def Obligations.CanFramesAreReceived : Prop :=
  (∀ (s u : State) (dt k back : Nat) (f : CanFrame), s.rst.busy = false → k < 16 →
    u = (advance s dt).setCan k { s.can k with busy := false } →
    (rd s (CAN_STAT_STATE k) = 1 → (s.can k).locked = false → (f.fd = false ∨ rd s (CAN_CTRL_FD_EN k) = 1) →
      exec (.canFrameReceived dt k back f) s = .next
        (if rd s (CAN_RATE_D_FDV k (s.can k).cand) = 1 ∧ (f.fd = false ∨ f.brs = false) then u else rateLock u k)) ∧
    (rd s (CAN_STAT_STATE k) ≠ 1 → rd s (CAN_STAT_STATE k) ≠ 3 → rd s (CAN_STAT_STATE k) ≠ 6 →
      exec (.canFrameReceived dt k back f) s = .next u) ∧
    (rd s (CAN_STAT_STATE k) = 1 ∨ rd s (CAN_STAT_STATE k) = 3 ∨ rd s (CAN_STAT_STATE k) = 6 → f.fd = true → rd s (CAN_CTRL_FD_EN k) = 0 →
      exec (.canFrameReceived dt k back f) s = .next (canError u k 2 false 1)) ∧
    ((rd s (CAN_STAT_STATE k) = 3 ∨ rd s (CAN_STAT_STATE k) = 6) → (f.fd = false ∨ rd s (CAN_CTRL_FD_EN k) = 1) →
      exec (.canFrameReceived dt k back f) s = .next (sofGo (canTake u k (ftNs u - back) f) k))) ∧
  (∀ (s : State) (k : Nat), k < 16 → (s.can k).cand < 8 → ∃ t, rateLock s k = t ∧ rd t (CAN_STAT_RATE_IDX k) = (s.can k).cand ∧
    rd t (CAN_EVT_RATE_LOCK k) = 1 ∧ rdW t (CAN_NBT_BRP k).addr = rd s (CAN_RATE_N_W k (s.can k).cand) ∧
    rdW t (CAN_DBT_BRP k).addr = rd s (CAN_RATE_D_W k (s.can k).cand) ∧
    rd t (CAN_STAT_STATE k) = (if rd s (CAN_CTRL_DET_RUN k) = 1 then 2 else rd s (CAN_STAT_STATE k)) ∧
    (rd s (CAN_CTRL_DET_RUN k) = 0 → (t.can k).locked = true) ∧
    canCtlFrame k [(CAN_NBT_BRP k).addr, (CAN_DBT_BRP k).addr, (CAN_STAT_STATE k).addr, (CAN_EVT_RATE_LOCK k).addr] s t) ∧
  (∀ (s : State) (k ns : Nat) (f : CanFrame), k < 16 → ∃ u v act j, fltAct s k f = (act, j) ∧
    rd u (CAN_CNT_A_RX_OK k) = (rd s (CAN_CNT_A_RX_OK k) + 1) % 2 ^ (CAN_CNT_A_RX_OK 0).w ∧
    (counts s k = false → rd u (CAN_ERRC_REC k) = rd s (CAN_ERRC_REC k)) ∧
    (counts s k = true → rd s (CAN_ERRC_REC k) ≤ 127 → rd u (CAN_ERRC_REC k) = rd s (CAN_ERRC_REC k) - 1) ∧
    (counts s k = true → 127 < rd s (CAN_ERRC_REC k) → 119 ≤ rd u (CAN_ERRC_REC k) ∧ rd u (CAN_ERRC_REC k) ≤ 127) ∧
    partsBut [.regs, .fresh] s u ∧ cellsBut [(CAN_CNT_A_RX_OK k).addr, (CAN_ERRC_REC k).addr] s u ∧
    v = (if act = 1 ∨ act = 3 then canFifoPush u k ⟨f, j, ns⟩ else u) ∧
    canTake s k ns f = errSettle (if act = 2 ∨ act = 3 then rxmPush v k f else v) k) ∧
  (∀ (s : State) (k : Nat) (x : CanRx), ∃ t, canFifoPush s k x = t ∧
    ((s.can k).fifo.length < 32 → t = s.setCan k { s.can k with fifo := (s.can k).fifo ++ [x], seen := true }) ∧
    (32 ≤ (s.can k).fifo.length → rd t (CAN_EVT_RX_OVF k) = 1 ∧
      rd t (CAN_CNT_C_RX_OVF k) = min (rd s (CAN_CNT_C_RX_OVF k) + 1) (2 ^ (CAN_CNT_C_RX_OVF 0).w - 1) ∧
      t.can k = (if rd s (CAN_CTRL_FIFO_OW k) = 1 then { s.can k with
        fifo := (s.can k).fifo.tail ++ [x]
        evicted := (s.can k).fifo.head?.map fun y => (s.clk.ft.toNat, y, rd s (CAN_CNT_C_RX_OVF k), rd s (CAN_EVT_RX_OVF k)) } else s.can k) ∧
      canCtlFrame k [(CAN_EVT_RX_OVF k).addr, (CAN_CNT_C_RX_OVF k).addr] s t)) ∧
  (∀ (s : State) (k : Nat) (f : CanFrame), (rxmOf s k f = none → rxmPush s k f = s) ∧
    ∀ m r, rxmOf s k f = some m → r = rxmFirst s m → (r = s ∨ r = { rxmAge s m with rxmAged := (m, tickNow s) :: s.rxmAged }) ∧
     (∀ n, s.rxmLast = some n → n < tickNow s → (m, tickNow s) ∉ s.rxmAged →
      r = { rxmAge s m with rxmAged := (m, tickNow s) :: s.rxmAged }) ∧
     ((m, tickNow s) ∈ s.rxmAged → r = s) ∧
     ∀ s' w, s' = r → w = s'.stgWord (rd s' (CAN_RXM2_SWORD m)) →
      (f.data.length < rd s' (CAN_RXM1_MINLEN m) → rxmPush s k f =
        s'.setStg (rd s' (CAN_RXM2_SWORD m)) (setBits (setBits w 24 8 ((bits w 24 8 + 1) % 256)) 17 1 1)) ∧
      (rd s' (CAN_RXM1_MINLEN m) ≤ f.data.length → rxmPush s k f =
        (extractAll s' ((List.range (min 8 (rd s' (CAN_RXM1_XN m)))).map fun j => rxfEnt s' (rd s' (CAN_RXM1_XPTR m) + j)) f.data).2.setStg
          (rd s' (CAN_RXM2_SWORD m)) (2 ^ 16 + (bits w 24 8 + 1) % 256 * 2 ^ 24))) ∧
  ∀ (s t : State), s.rst.busy = false → rd s TRD_TICK_NS_NS ≠ 0 → t = toBoundary s (rd s TRD_TICK_NS_NS) s.rxmLast →
    exec .rxmAging s = .next (each ((List.range 32).filter fun m => !t.rxmAged.contains (m, tickNow t)) rxmAge
      { t with rxmLast := some (tickNow t), rxmAged := [] }) ∧
    ∀ m, (rd t (CAN_RXM0_EN m) = 0 → rxmAge t m = t) ∧ (rd t (CAN_RXM0_EN m) = 1 → ∀ w, w = t.stgWord (rd t (CAN_RXM2_SWORD m)) →
      rxmAge t m = t.setStg (rd t (CAN_RXM2_SWORD m)) (if bitOf w 16 then setBits w 16 1 0 else setBits w 0 16 (min 65535 (bits w 0 16 + 1))))

/-- Transmission of a CAN controller (R244, R248, R249, R253, R254). A request makes its buffer pending, and an ON controller on a free bus, not listening
and with no frame of its own on the wire, starts the pending buffer whose frame wins arbitration, or the lowest one with TXORD. A cancel takes a pending
buffer back at once, and is latched while its frame is on the wire. A frame that completes leaves pending, sets DONE, counts in TX_OK, lowers TEC by 1
and is put on the bus; with TDC_EN a switched frame whose measured delay is above 127 cycles fails as a bit error in its
data phase. Arbitration lost leaves the buffer pending with its SOF taken back, or carries out a latched cancel; the bus is then another node's.
A protocol error records its kind and phase, counts, and adds to TEC of a transmitter or REC of a receiver; TEC beyond 255 is BUS_OFF, from which a
RECOVER of that cycle leads to RECOVERING one cycle later, a counter beyond 127
ERROR_PASSIVE, and CAN_OFF or CAN_PASSIVE is raised. -/
def Obligations.CanBuffersAreSent : Prop :=
  (∀ (s : State) (k b : Nat), s.rst.busy = false → k < 16 → b < 3 →
    (∀ busy, ∃ t, exec (.txbReq k b busy) s = .next (sofGo (t.setCan k { s.can k with busy := (s.can k).busy || busy }) k) ∧
      rd t (CAN_TXB_CTRL_REQ k b) = 1 ∧ rd t (CAN_TXB_CTRL_PEND k b) = 1 ∧ regsOnly [(CAN_TXB_CTRL_REQ k b).addr] s t) ∧
    (rd s (CAN_TXB_CTRL_PEND k b) = 0 → exec (.txbCancel k b) s = .next s) ∧
    (rd s (CAN_TXB_CTRL_PEND k b) = 1 → rd s (CAN_TXB_CTRL_SOF k b) = 0 → exec (.txbCancel k b) s = .next (sofGo (txbCancelled s k b) k)) ∧
    (rd s (CAN_TXB_CTRL_PEND k b) = 1 → rd s (CAN_TXB_CTRL_SOF k b) = 1 → ∃ t, exec (.txbCancel k b) s = .next t ∧
      rd t (CAN_TXB_CTRL_CANCEL k b) = 1 ∧ regsOnly [(CAN_TXB_CTRL_REQ k b).addr] s t) ∧
    (∃ t, txbCancelled s k b = t ∧ rd t (CAN_TXB_CTRL_CANCELLED k b) = 1 ∧ rd t (CAN_TXB_CTRL_PEND k b) = 0 ∧ rd t (CAN_TXB_CTRL_SOF k b) = 0 ∧
      rd t (CAN_TXB_CTRL_CANCEL k b) = 0 ∧ (t.can k).sbuf = (if b = sbufOf s k then none else (s.can k).sbuf) ∧
      canCtlFrame k [(CAN_TXB_CTRL_REQ k b).addr] s t) ∧
    (∀ f delay, sofBuf s k = some b → f = txbFrame s k b → f.fd = true → f.brs = true → rd s (CAN_DBT_TDC_EN k) = 1 → 127 < delay →
      exec (.canTxDone k delay) s = .next (canError s.used k (4 + freeOf s 1) true 8)) ∧
    (∀ f delay, sofBuf s k = some b → f = txbFrame s k b →
      f.fd = false ∨ f.brs = false ∨ rd s (CAN_DBT_TDC_EN k) = 0 ∨ delay ≤ 127 → ∃ t, exec (.canTxDone k delay) s = .next (sofGo (errSettle (t.emit (.canFrame k (txbFrame s k b))) k) k) ∧
      rd t (CAN_TXB_CTRL_DONE k b) = 1 ∧ rd t (CAN_TXB_CTRL_PEND k b) = 0 ∧ rd t (CAN_TXB_CTRL_SOF k b) = 0 ∧
      rd t (CAN_CNT_B_TX_OK k) = (rd s (CAN_CNT_B_TX_OK k) + 1) % 2 ^ (CAN_CNT_B_TX_OK 0).w ∧ rd t (CAN_ERRC_TEC k) = rd s (CAN_ERRC_TEC k) - 1 ∧
      rd t (CAN_ERRC_REC k) = rd s (CAN_ERRC_REC k) ∧
      canCtlFrame k [(CAN_TXB_CTRL_REQ k b).addr, (CAN_CNT_B_TX_OK k).addr, (CAN_ERRC_TEC k).addr] s t) ∧
    (sofBuf s k = some b → ∃ t, txbBack s k = t ∧ exec (.arbitrationLost k) s = .next (loadSbuf (t.setCan k { t.can k with busy := true }) k) ∧
      (rd s (CAN_TXB_CTRL_CANCEL k b) = 1 → t = txbCancelled s k b) ∧
      (rd s (CAN_TXB_CTRL_CANCEL k b) = 0 → rd t (CAN_TXB_CTRL_SOF k b) = 0 ∧ rd t (CAN_TXB_CTRL_PEND k b) = rd s (CAN_TXB_CTRL_PEND k b) ∧
        regsOnly [(CAN_TXB_CTRL_REQ k b).addr] s t))) ∧
  (∀ (s t : State) (k : Nat), t = loadSbuf s k →
    (rd t (CAN_STAT_STATE k) = 3 → rd t (CAN_CTRL_LISTEN k) = 0 → running t = true → (t.can k).busy = false → sofBuf t k = none →
      (chooseTxb t k = none → sofGo s k = t) ∧ (∀ b, chooseTxb t k = some b → ∃ u, sofGo s k = u ∧ rd u (CAN_TXB_CTRL_SOF k b) = 1 ∧
        regsOnly [(CAN_TXB_CTRL_REQ k b).addr] t u)) ∧
    (rd t (CAN_STAT_STATE k) ≠ 3 ∨ rd t (CAN_CTRL_LISTEN k) = 1 ∨ running t = false ∨ (t.can k).busy = true ∨ sofBuf t k ≠ none → sofGo s k = t)) ∧
  (∀ (s : State) (k b : Nat), chooseTxb s k = some b → b < 3 ∧ rd s (CAN_TXB_CTRL_PEND k b) = 1 ∧
    (rd s (CAN_CTRL_TXORD k) = 1 → ∀ c < b, rd s (CAN_TXB_CTRL_PEND k c) = 0) ∧
    (rd s (CAN_CTRL_TXORD k) = 0 → ∀ c < 3, rd s (CAN_TXB_CTRL_PEND k c) = 1 → arbKey (txbFrame s k b) ≤ arbKey (txbFrame s k c))) ∧
  (∀ (s : State) (k kind amount : Nat) (ph : Bool), s.rst.busy = false → k < 16 → kind < 8 →
    rd s (CAN_STAT_STATE k) = 1 ∨ rd s (CAN_STAT_STATE k) = 3 ∨ rd s (CAN_STAT_STATE k) = 6 →
    ∃ t, rd t (CAN_ERRC_LEC k) = kind ∧ rd t (CAN_ERRC_LEC_DATA k) = natOf ph ∧ rd t (CAN_EVT_PROTO_ERR k) = 1 ∧
      rd t (CAN_CNT_D_ERR_DATA k) = min (rd s (CAN_CNT_D_ERR_DATA k) + natOf ph) (2 ^ (CAN_CNT_D_ERR_DATA 0).w - 1) ∧
      rd t (CAN_CNT_D_ERR_NOM k) = min (rd s (CAN_CNT_D_ERR_NOM k) + natOf (!ph)) (2 ^ (CAN_CNT_D_ERR_NOM 0).w - 1) ∧
      t.can k = { s.can k with busy := false } ∧ canCtlFrame k [(CAN_ERRC_LEC k).addr, (CAN_EVT_PROTO_ERR k).addr, (CAN_CNT_D_ERR_DATA k).addr] s t ∧
      (detecting s k = true → exec (.canProtocolError k kind ph amount) s = .next (nextCandidate t k)) ∧
      (detecting s k = false → exec (.canProtocolError k kind ph amount) s = .next (sofGo (errSettle (txbBack
        (if counts s k = false then t
          else if (sofBuf s k).isSome = true then wr t (CAN_ERRC_TEC k) (min (rd s (CAN_ERRC_TEC k) + amount) 511)
          else wr t (CAN_ERRC_REC k) (min (rd s (CAN_ERRC_REC k) + amount) 255)) k) k) k))) ∧
  ∀ (s : State) (k tec : Nat), tec = rd s (CAN_ERRC_TEC k) →
    (255 < tec → rd s (CAN_STAT_STATE k) = 3 → ∃ u v, v = raise u 72 (2 ^ k) ∧ rd u (CAN_STAT_ERR k) = 2 ∧ rd u (CAN_EVT_BUS_OFF k) = 1 ∧
      rd u (CAN_STAT_STATE k) = (if rd s (CAN_CTRL_AUTO_REC k) = 1 then 5 else 4) ∧ (u.can k).offAt = some s.clk.ft.toNat ∧
      errSettle s k = if (s.can k).asked = some s.clk.ft.toNat ∧ canState v k = 4 then wr (advance v 1) (CAN_STAT_STATE k) 5 else v) ∧
    (tec ≤ 255 → (127 < tec ∨ 127 < rd s (CAN_ERRC_REC k)) → rd s (CAN_STAT_ERR k) = 0 → ∃ u, errSettle s k = raise u 73 (2 ^ k) ∧
      rd u (CAN_STAT_ERR k) = 1 ∧ rd u (CAN_EVT_PASSIVE k) = 1 ∧ regsOnly [(CAN_STAT_ERR k).addr, (CAN_EVT_PASSIVE k).addr] s u) ∧
    (tec ≤ 127 → rd s (CAN_ERRC_REC k) ≤ 127 → ∃ u, errSettle s k = u ∧ rd u (CAN_STAT_ERR k) = 0 ∧ regsOnly [(CAN_STAT_ERR k).addr] s u)

/-- Edges and timed actions of a discrete line (R259 to R261, R266, R267, R270 to R272): raw levels reach their pads; a run of a level that differs from
the filtered one begins at its raw edge, or ends without a trace. From ST08 on the filtered level of a line whose run has lasted the filter
time is the pad's, with one stamp, raw edge plus filter time, which enters the line's FIFO of 16 where TS_EDGE takes it, or sets OVF where the
FIFO is full; the decoders then see the levels of the cycle. A pop takes the head, and in the cycle of a drop it comes first: the dropped
entry is kept and OVF is as before. The head of the queue fires at its target by the 40-bit rule: set and clear drive the line, a toggle inverts a driven
level, a pulse drives it and ends PW µs later (PW = 0 acts as 1), by rank among the actions of that cycle; the end of a pulse clears the line; Q_FLUSH
empties the queue.
Pads, PWM, pulse trains and readback (R265, R268, R269, R274): the driver puts the line's logical level, inverted with INV, on the pad, and
an open-drain one releases a high pad; PWM and a train are high for their high time from the start of the period. A period of a PWM line starts with the new DUTY and level bit, and its
high time is PER × DUTY ÷ 65,536 cycles rounded down (PER = 0 acts as 2); a pulse of a train is followed by the next one, or
ends the train where it was the last or the level bit has returned to 0; a readback mismatch, a driven pad whose raw level differs, sets the line's bit in DIO_RBF,
with RB_OFF = 1 releases the line, and raises DIO_OUT_FAULT with the line's number; RB_CLR clears the bit and drives a released
line again, at the level it was released at while outputs act and at its safe value otherwise. -/
def Obligations.DiscreteLinesAct : Prop :=
  (∀ (n : Nat) (s : State), n < 96 →
    (∀ dt edges u pads, u = advance s dt → (pads = fun (t : State) => edges.foldl (fun (v : State) (e : Nat × Bool) => padTake v e.1 e.2) t) →
      exec (.dioEdge dt edges) s = .next (if alive u then inputsDue (pads (inputsDue u)) else pads u)) ∧
    (∀ lvl, ∃ t, padTake s n lvl = t ∧ (t.line n).pad = lvl ∧
      (t.line n).run = (if s.sys.loaded = false ∨ flag s (DIO_STAT_LEVEL n) = lvl then none
        else if (s.line n).run.isSome then (s.line n).run else some s.clk.ft.toNat) ∧
      partsBut [.lines] s t ∧ (∀ m, m ≠ n → t.line m = s.line m) ∧ (t.line n).fifo = (s.line n).fifo ∧ (t.line n).drive = (s.line n).drive) ∧
    (s.sys.loaded = false → inputsDue s = s) ∧
    (∀ r u, (s.line n).run = some r →
      u = r + (rd s (DIO_CFG_FILT n) * (if rd s (DIO_CFG_FUNIT n) = 1 then 1000 else 16) : Nat) * 2 ^ 48 → edgeAt s n = some u ∧
      (s.sys.loaded = true → (∀ m, m ≠ n → (s.line m).run = none) →
        (s.clk.ft.toNat + cycleUnits s ≤ u → inputsDue s = s) ∧
        (u < s.clk.ft.toNat + cycleUnits s → inputsDue s = each (List.range 12) (quadTake s) (lineEdge s n))) ∧
      ∀ e, e = (⟨(u / 2 ^ 48).toNat, (u / 2 ^ 32 % 2 ^ 16).toNat, (s.line n).pad⟩ : Stamp) →
        ∀ t, t = lineEdge s n ∨ t = each (List.range 12) (quadTake s) (lineEdge s n) →
        rd t (DIO_STAT_LEVEL n) = natOf e.rise ∧ (t.line n).run = none ∧
        (∀ takes, (takes ↔ rd s (DIO_CFG_TS_EDGE n) = 3 ∨ rd s (DIO_CFG_TS_EDGE n) = (if e.rise then 1 else 2)) →
          (takes → (s.line n).fifo.length < 16 → (t.line n).fifo = (s.line n).fifo ++ [e]) ∧
          (¬ takes → (t.line n).fifo = (s.line n).fifo) ∧
          (takes → 16 ≤ (s.line n).fifo.length → (t.line n).fifo = (s.line n).fifo ∧ rd t (DIO_TS_STAT_OVF n) = 1 ∧
            (t.line n).miss = some (s.clk.ft.toNat, e, rd s (DIO_TS_STAT_OVF n), rd s DIO_EVT_TS_OVF)))) ∧
    (∃ t, exec (.tsPop n) s = .next t ∧
      ((∀ x, (s.line n).miss = some x → x.1 ≠ s.clk.ft.toNat) → (t.line n).fifo = (s.line n).fifo.drop 1 ∧ lineFrame n [] s t) ∧
      (∀ x, (s.line n).miss = some x → x.1 = s.clk.ft.toNat → (t.line n).fifo = (s.line n).fifo.drop 1 ++ [x.2.1] ∧
        rd t (DIO_TS_STAT_OVF n) = x.2.2.1 % 2 ∧ rd t DIO_EVT_TS_OVF = x.2.2.2 % 2 ∧ (t.line n).miss = none ∧
        lineFrame n [(DIO_TS_STAT_OVF n).addr, DIO_EVT_TS_OVF.addr] s t)) ∧
    (∀ e q v, (s.line n).queue = e :: q → dioHeeds s n = true → dioMode s n = 1 →
      v = (if due40 e.target (ftNs s) then s else advanceTo s (ftNs s + dist40 e.target (ftNs s))) → ∃ t,
      exec (.queueActionFire n) s = .next t ∧ t.clk = v.clk ∧ (t.line n).queue = q ∧
      (e.act = .none ∨ e.act = .start → (t.line n).drive = (s.line n).drive) ∧
      (e.act ≠ .none → e.act ≠ .start → actedNow v (s.line n) = true →
        (t.line n).drive = (insAct (s.line n).acts (0, e.act)).foldl (fun b x => actLevel b x.2) (s.line n).base) ∧
      (actedNow v (s.line n) = false → (t.line n).drive = (match e.act with
        | .set => some true
        | .clear => some false
        | .toggle => (s.line n).drive.map (!·)
        | .pulse => some true
        | _ => (s.line n).drive)) ∧
      (t.line n).pulseEnd = (if e.act = .pulse then
        some (ftNs t + (if rd s (DIO_PW_PW n) = 0 then 1 else rd s (DIO_PW_PW n)) * 1000) else (s.line n).pulseEnd) ∧
      partsBut [.clk, .lines] s t ∧ ∀ m, m ≠ n → t.line m = s.line m) ∧
    (∀ e v, (s.line n).pulseEnd = some e → dioHeeds s n = true → v = advanceTo s e → ∃ t, exec (.queuePulseEnd n) s = .next t ∧
      t.clk = v.clk ∧ (actedNow v (s.line n) = false → (t.line n).drive = some false) ∧
      (actedNow v (s.line n) = true →
        (t.line n).drive = (insAct (s.line n).acts (0, .clear)).foldl (fun b x => actLevel b x.2) (s.line n).base) ∧
      (t.line n).pulseEnd = none ∧
      (t.line n).queue = (s.line n).queue ∧ partsBut [.clk, .lines] s t ∧ ∀ m, m ≠ n → t.line m = s.line m) ∧
    (s.rst.busy = false → ∃ t, exec (.qFlush n) s = .next t ∧ (t.line n).queue = [] ∧
      (t.line n).drive = (s.line n).drive ∧ lineFrame n [] s t)) ∧
  (∀ (n : Nat) (s v : State), n < 96 → v = (if (s.line n).perAt.isSome then advance s (dioPer s n - perCycles s n) else s) →
    (lineDriven s n = none → dioPad s n = .undriven) ∧
    (∀ b, lineDriven s n = some b → dioPad s n = (if b = flag s (DIO_CFG_INV n) then .low
      else if rd s (DIO_CFG_OD n) = 1 then .released else .high)) ∧
    ((s.line n).drive ≠ some true → lineDriven s n = (s.line n).drive) ∧
    ((s.line n).drive = some true → lineDriven s n = some (if dioMode s n = 2 ∧ (s.line n).pwmOn = true then
        decide (perCycles s n < (if rd s (DIO_PER_PER n) = 0 then 2 else rd s (DIO_PER_PER n)) * (s.line n).duty / 65536)
      else if dioMode s n = 3 ∧ (s.line n).ptLeft ≠ 0 then decide (perCycles s n < rd s (DIO_PT_HIGH n)) else true)) ∧
    (dioHeeds s n = true → dioMode s n = 2 → ∃ t, exec (.pwmPeriod n) s = .next t ∧
      (t.line n).duty = (s.line n).param % 65536 ∧ (t.line n).pwmOn = (s.line n).bit ∧
      (t.line n).drive = some ((s.line n).bit &&
        decide (0 < (if rd s (DIO_PER_PER n) = 0 then 2 else rd s (DIO_PER_PER n)) * ((s.line n).param % 65536) / 65536)) ∧
      (t.line n).perAt = some v.clk.ft.toNat ∧ t.clk = v.clk ∧ lineFrame n [] v t) ∧
    (dioHeeds s n = true → dioMode s n = 3 → (s.line n).ptLeft ≠ 0 → ∃ t, exec (.pulseTrainPulse n) s = .next t ∧
      (if (s.line n).ptLeft = 1 ∨ (s.line n).ptStop = true then (t.line n).ptLeft = 0 ∧ (t.line n).drive = some false ∧ (t.line n).perAt = none
       else (t.line n).ptLeft = (s.line n).ptLeft - 1 ∧ (t.line n).drive = some true ∧ (t.line n).perAt = some v.clk.ft.toNat) ∧
      (t.line n).queue = (s.line n).queue ∧ t.clk = v.clk ∧ lineFrame n [] v t) ∧
    (s.rst.busy = false → rd s (DIO_CFG_RB_EN n) = 1 → (dioPad s n = .low ∧ (s.line n).pad = true ∨ dioPad s n = .high ∧ (s.line n).pad = false) → ∃ t,
      exec (.readbackFault n) s = .next (raise t 80 n) ∧ rdBit t (DIO_RBF_RBF (n / 32)) (n % 32) = true ∧
      rd t DIO_EVT_RB_FAULT = 1 ∧
      (if rd s (DIO_CFG_RB_OFF n) = 1 then
        rd t (DIO_STAT_RELEASED n) = 1 ∧ (t.line n).drive = none ∧ (t.line n).held = (s.line n).drive
       else rd t (DIO_STAT_RELEASED n) = rd s (DIO_STAT_RELEASED n) ∧ t.line n = s.line n) ∧
      lineFrame n [(DIO_RBF_RBF (n / 32)).addr, DIO_EVT_RB_FAULT.addr, (DIO_STAT_RELEASED n).addr] s t) ∧
    ((dioPad s n = .low → (s.line n).pad = false) → (dioPad s n = .high → (s.line n).pad = true) → exec (.readbackFault n) s = .next s) ∧
    (s.rst.busy = false → ∃ t, exec (.rbClr n) s = .next t ∧ rdBit t (DIO_RBF_RBF (n / 32)) (n % 32) = false ∧
      rd t (DIO_STAT_RELEASED n) = 0 ∧
      (t.line n).drive = (if rd s (DIO_STAT_RELEASED n) = 1 then (if dioActs s then (s.line n).held else dioSafeLevel s n)
        else (s.line n).drive) ∧
      lineFrame n [(DIO_RBF_RBF (n / 32)).addr, (DIO_STAT_RELEASED n).addr] s t))

/-- The ADCs (R275 to R279): while frames run, a conversion is dated at the sample instant of its slot; one of AIN k is seen as its code and enters
the sum, count and over-range of the tick of its instant, one of a branch signal likewise, one of a monitor is seen as its code; the averages that return in a tick give word 32 + k of the input image the mean rounded down, the count up to 255
and the over-range, or the previous mean with NONE; the end of a scan of one input gives its code and the time of its sample,
clears TS_BUSY and sets TSCAN_DONE of that ADC; a calibration within ±64 codes and 0.995 to 1.005 gives the coefficients and sets
CAL_OK, and one outside keeps them, clears CAL_OK, sets CAL_FAIL and raises ADC_CAL. -/
def Obligations.ConversionsAveragesAndScans : Prop :=
  ∀ (s : State) (a : Nat), s.rst.busy = false → a < 2 →
    (∀ dt slot code u v pos, slot < 200 → code < 65536 → u = advance s dt → pos = ftNs u % 100000 →
      v = (if pos / 500 = slot then u else advanceTo u (ftNs u - pos + 500 * slot + if pos < 500 * slot then 0 else 100000)) →
      (rd s ADC_STATUS_RUN = 0 → exec (.adcConversion dt a slot code) s = .next u) ∧
      (rd s ADC_STATUS_RUN = 1 → ∃ t, exec (.adcConversion dt a slot code) s = .next t ∧ t.clk = v.clk ∧
        (∀ key, (ainRuns s a slot = true ∧ ainOfSlot a slot = some key ∨
            ainRuns s a slot = false ∧ ∃ j, brnOfSlot slot = some j ∧ key = 8 + 3 * (8 * a + j / 3) + j % 3) →
          (∀ x, x = tget (fun _ => ({} : Acm)) (if s.adc.curTick = some (tickNow v) then s.adc.cur else []) key →
            tget (fun _ => {}) t.adc.cur key = (⟨x.sum + code, x.n + 1, x.ovr || code == 0 || code == 65535⟩ : Acm)) ∧
          t.adc.curTick = some (tickNow v) ∧ t.adc.closed = s.adc.closed ∧
          t.adc.before = (if s.adc.curTick = some (tickNow v) then s.adc.before else acmJoin s.adc.before s.adc.cur)) ∧
        (∀ k, ainRuns s a slot = true → ainOfSlot a slot = some k → rd t (ADC_AIN_CODE k) = code ∧
          (code = 0 ∨ code = 65535 → rd t ADC_EVT_OVR = 1) ∧ cellsBut [(ADC_AIN_CODE k).addr, ADC_EVT_OVR.addr] s t) ∧
        (∀ j, ainRuns s a slot = false → brnOfSlot slot = some j → cellsBut [] s t) ∧
        (ainRuns s a slot = false → brnOfSlot slot = none → 50 ≤ slot ∧ slot < 58 → rd t (ADC_MON_CODE a (slot - 50)) = code ∧
          cellsBut [(ADC_MON_CODE a (slot - 50)).addr] s t ∧ t.adc = s.adc) ∧
        (ainRuns s a slot = false → brnOfSlot slot = none → slot < 50 ∨ 58 ≤ slot → t = v))) ∧
    (s.adc.avgWait = true → s.rst.d2dHubLost = false → ∃ t, exec .adcAverageReturn s = .next t ∧ t.adc.avgWait = false ∧
      t.adc.closed = [] ∧ partsBut [.adc, .trd] s t ∧
      ∀ k, k < 8 → let x : Acm := tget (fun _ => {}) s.adc.closed k
        tget (fun _ => 0) t.trd.latched (32 + k) = BitVec.ofNat 32
          (if x.n = 0 then wrapTo 16 (tget (fun _ => 0) s.adc.prev k) + 2 ^ 25
           else wrapTo 16 (x.sum / x.n) + min x.n 255 * 2 ^ 16 + natOf x.ovr * 2 ^ 24)) ∧
    (∀ j ns codes, j < 4 → ns < 2 ^ 64 → tget (fun _ => none) s.adc.scan a = some ⟨[(4 * a + j, ns)]⟩ → ∃ t,
      exec (.tscanDone a codes) s = .next t ∧ rd t (ADC_TSCAN_T_NS a) = ns ∧
      rd t (if j % 2 = 0 then ADC_TSCAN_R_CODE_LO a (j / 2) else ADC_TSCAN_R_CODE_HI a (j / 2)) =
        tget (fun _ => 0) codes (4 * a + j) % 65536 ∧
      rdBit t ADC_STATUS_TS_BUSY a = false ∧ rdBit t ADC_EVT_TSCAN_DONE a = true ∧
      tget (fun _ => none) t.adc.scan a = none ∧
      cellsBut [(ADC_TSCAN_T_NS a).addr, (ADC_TSCAN_R_CODE_LO a (j / 2)).addr, ADC_STATUS_TS_BUSY.addr, ADC_EVT_OVR.addr] s t) ∧
    (∀ offset gain, gain < 65536 → offset.natAbs ≤ 64 → 995 * 32768 ≤ 1000 * gain → 1000 * gain ≤ 1005 * 32768 → ∃ t,
      exec (.adcCalibration a offset gain []) s = .next t ∧ rdI t (ADC_CAL_OFFSET a) = offset ∧
      rd t (ADC_CAL_GAIN a) = gain ∧ rdBit t ADC_STATUS_CAL_OK a = true ∧
      cellsBut [(ADC_CAL_OFFSET a).addr, ADC_STATUS_CAL_OK.addr] s t ∧ partsBut [.regs, .adc] s t) ∧
    (∀ offset gain, (64 < offset.natAbs ∨ 1000 * gain < 995 * 32768 ∨ 1005 * 32768 < 1000 * gain) → ∃ t cause,
      exec (.adcCalibration a offset gain []) s = .next (raise t 84 cause) ∧ rdBit t ADC_STATUS_CAL_OK a = false ∧
      rd t ADC_EVT_CAL_FAIL = 1 ∧ cellsBut [ADC_STATUS_CAL_OK.addr, ADC_EVT_CAL_FAIL.addr] s t)

/-- Start and run of a branch (R281, R283, R284, R286 to R288): the insertion timer takes INSERT to RAMP and counts a start where
the bus is in window; in RAMP the limit is the smaller of V_LIM ÷ R_SHUNT and P_SOA ÷ max(V_BUS - V_OUT, 0.1 V), and V_LIM ÷ R_SHUNT in ON; the ramp's completion, also in the cycle of T_START, takes RAMP to ON with the fault timer at 0;
a limit entry takes PG away and sets PG_LOST where PG stood; PG qualifies in ON unless the limit becomes active in the
same cycle; a second of PG clears the retries used.
What a trip does (R283, R287, R291): its event is set, PG falls, TRIPS counts, and with E = 1 and retries left the branch waits for its retry
with RCNT + 1; with E = 0, or E falling in the same cycle, it goes to DISCHARGE and uses no retry; with no retry left it latches off, comes to
rest, LATCHED is set, and BRN_TRIP of the branch is raised. In the hold of a Resole activation HELD_TRIP is set too, and there, as while the D2D link
is lost, the report waits. A fast trip is recorded as TRIP_FAST, the fault timer of a branch with PROT = 0 as TRIP_FLT, or as TRIP_FAST where both
fall in one cycle, T_START as TRIP_START, the junction estimate at T_OT as TRIP_OT. A bus that leaves its window in the same cycle changes BUS_OK
alone. -/
def Obligations.BranchRunsAndTrips : Prop :=
  (∀ (n : Nat) (s : State), n < 16 →
    (rd s (BRN_STAT_STATE n) = 1 → rd s (BRN_STAT_BUS_OK n) = 1 → ∃ t, exec (.insertionTimer n) s = .next t ∧
      rd t (BRN_STAT_STATE n) = 2 ∧ rd t (BRN_CNT_STARTS n) = (rd s (BRN_CNT_STARTS n) + 1) % 65536 ∧
      rd t (BRN_CNT_TRIPS n) = rd s (BRN_CNT_TRIPS n) ∧ rd t (BRN_STAT_RCNT n) = rd s (BRN_STAT_RCNT n) ∧
      (∀ c, c = (s.brn n).cfg → (t.brn n).limit = min (c.vLim * 250 * 1000000 / c.rShunt)
        (c.pSoa * 1000000000 / max 100 (2 * rd s (BRN_MEAS_V_V_BUS n) - 2 * rd s (BRN_MEAS_V_V_OUT n)))) ∧
      brnFrame n [(BRN_STAT_STATE n).addr, (BRN_CNT_STARTS n).addr] s t) ∧
    (rd s (BRN_STAT_STATE n) = 2 → ∃ t, exec (.rampComplete n) s = .next t ∧ exec (.startTimeout n true) s = .next t ∧
      (t.brn n).limit = (s.brn n).cfg.vLim * 250 * 1000000 / (s.brn n).cfg.rShunt ∧
      rd t (BRN_STAT_STATE n) = 3 ∧ rd t (BRN_STAT_PG n) = 0 ∧ rd t (BRN_FTIMER_ACC n) = 0 ∧ (t.brn n).fault = 0 ∧
      rd t (BRN_STAT_E n) = rd s (BRN_STAT_E n) ∧
      brnFrame n [(BRN_STAT_STATE n).addr, (BRN_FTIMER_ACC n).addr] s t) ∧
    (∃ t, exec (.limitEntry n) s = .next t ∧ rd t (BRN_STAT_LIMIT n) = 1 ∧ rd t (BRN_STAT_PG n) = 0 ∧
      rd t (BRN_EVT_PG_LOST n) = (if rd s (BRN_STAT_PG n) = 1 then 1 else rd s (BRN_EVT_PG_LOST n)) ∧
      rd t (BRN_STAT_STATE n) = rd s (BRN_STAT_STATE n) ∧
      brnFrame n [(BRN_STAT_LIMIT n).addr, (BRN_EVT_PG_LOST n).addr] s t) ∧
    (rd s (BRN_STAT_STATE n) = 3 → ∀ limit, ∃ t, exec (.pgQualified n limit) s = .next t ∧
      rd t (BRN_STAT_PG n) = (if limit then 0 else 1) ∧ rd t (BRN_STAT_LIMIT n) = (if limit then 1 else 0) ∧
      rd t (BRN_STAT_STATE n) = 3 ∧ brnFrame n [(BRN_STAT_PG n).addr, (BRN_EVT_PG_LOST n).addr] s t) ∧
    (rd s (BRN_STAT_PG n) = 1 → ∃ t, exec (.pgHold1s n) s = .next t ∧ rd t (BRN_STAT_RCNT n) = 0 ∧
      rd t (BRN_STAT_STATE n) = rd s (BRN_STAT_STATE n) ∧ brnFrame n [(BRN_STAT_RCNT n).addr] s t)) ∧
  ((∀ (n : Nat) (s : State) (ev : Fld) (fall : Bool),
    (ev = BRN_EVT_TRIP_FAST n ∨ ev = BRN_EVT_TRIP_START n ∨ ev = BRN_EVT_TRIP_FLT n ∨ ev = BRN_EVT_TRIP_OT n) →
    ∃ t, brnFrame n [(BRN_STAT_STATE n).addr, (BRN_EVT_TRIP_FAST n).addr, (BRN_CNT_TRIPS n).addr] s t ∧
      rd t ev = 1 ∧ rd t (BRN_STAT_PG n) = 0 ∧ rd t (BRN_CNT_TRIPS n) = min (rd s (BRN_CNT_TRIPS n) + 1) 65535 ∧
      rd t (BRN_EVT_HELD_TRIP n) = (if s.rst.hold then 1 else rd s (BRN_EVT_HELD_TRIP n)) ∧
      (t.brn n).heldTrip = (s.rst.hold || s.rst.d2dHubLost || (s.brn n).heldTrip) ∧
      if rd s (BRN_STAT_E n) = 0 ∨ fall = true then
        brnTrip s n ev fall = t ∧ rd t (BRN_STAT_STATE n) = 5 ∧ rd t (BRN_STAT_RCNT n) = rd s (BRN_STAT_RCNT n)
      else if rd s (BRN_STAT_RCNT n) < (s.brn n).cfg.retries then
        brnTrip s n ev fall = t ∧ rd t (BRN_STAT_STATE n) = 6 ∧ rd t (BRN_STAT_RCNT n) = (rd s (BRN_STAT_RCNT n) + 1) % 8
      else rd t (BRN_STAT_STATE n) = 7 ∧ rd t (BRN_EVT_LATCHED n) = 1 ∧ (t.brn n).rest = ftNs s ∧
        brnTrip s n ev fall = (if s.rst.hold ∨ s.rst.d2dHubLost then t
          else raise t (88 + n) (rdW t (BRN_EVT_TRIP_FAST n).addr % 512))) ∧
  (∀ (n : Nat) (s : State) (bus : Bool), busLeaves s n bus = if bus then wr s (BRN_STAT_BUS_OK n) 0 else s) ∧
  ∀ (n : Nat) (s : State), n < 16 →
    (rd s (BRN_STAT_STATE n) = 2 ∨ rd s (BRN_STAT_STATE n) = 3 → ∀ fall bus,
      exec (.fastTrip n fall bus) s = .next (busLeaves (brnTrip s n (BRN_EVT_TRIP_FAST n) fall) n bus)) ∧
    (rd s (BRN_STAT_STATE n) = 2 → exec (.startTimeout n false) s = .next (brnTrip s n (BRN_EVT_TRIP_START n) false)) ∧
    (rd s (BRN_STAT_STATE n) = 3 → (s.brn n).cfg.prot = false → ∀ fast fall bus,
      exec (.faultTimerExpiry n fast fall bus) s = .next (busLeaves (brnTrip (wr s (BRN_FTIMER_ACC n) (s.brn n).cfg.tFlt) n
        (if fast then BRN_EVT_TRIP_FAST n else BRN_EVT_TRIP_FLT n) fall) n bus)) ∧
    (rd s (BRN_STAT_STATE n) = 3 → (s.brn n).cfg.prot = true → ∀ vBus vOut i ta tj u,
      tj = tjNext (s.brn n) (flag s (BRN_STAT_LIMIT n)) vBus vOut i ta →
      u = (wrI s (BRN_TH_TJ_T_J n) (tj / 1024)).setBrn n { s.brn n with tj := tj, ta := ta } →
      exec (.thermalUpdate n vBus vOut i ta) s =
        .next (if (((s.brn n).cfg.tOt * 65536 : Nat) : Int) ≤ tj then brnTrip u n (BRN_EVT_TRIP_OT n) false else u)))

/-- How a branch ends and begins again (R283, R284, R287, R289): T_SOFT takes SOFT_OFF to DISCHARGE, and so does, in RAMP and ON, the bus leaving its window (BUS_FLT set, PENDING_ON = E); a fast trip or the fault
timer in SOFT_OFF does so at once, is recorded and counted, and uses no retry; DISCHARGE ends in OFF with RCNT 0, at rest from now on, and a
pending enable, one that rises in the same cycle too, waits for T_REON; with E = 0 nothing is pending and REARM clears; the
50 ms limit sets DIS_TMO; T_REON takes a branch with a pending start, and T_RETRY a waiting one, to INSERT, where the junction estimate
takes T_A unless it exceeds it by more than 5 °C. -/
def Obligations.BranchEndsByDischarge : Prop :=
  ∀ (n : Nat) (s : State), n < 16 →
    ((∀ ok, ok = true ∨ (rd s (BRN_STAT_STATE n) ≠ 2 ∧ rd s (BRN_STAT_STATE n) ≠ 3) →
        exec (.busWindowChange n ok) s = .next (wr s (BRN_STAT_BUS_OK n) (if ok then 1 else 0))) ∧
      (rd s (BRN_STAT_STATE n) = 2 ∨ rd s (BRN_STAT_STATE n) = 3 → ∃ t, exec (.busWindowChange n false) s = .next t ∧ rd t (BRN_STAT_STATE n) = 5 ∧
        rd t (BRN_STAT_BUS_OK n) = 0 ∧ rd t (BRN_STAT_PG n) = 0 ∧ rd t (BRN_EVT_BUS_FLT n) = 1 ∧ rd t (BRN_STAT_PENDING_ON n) = rd s (BRN_STAT_E n) ∧
        regsOnly [(BRN_STAT_STATE n).addr, (BRN_EVT_BUS_FLT n).addr] s t)) ∧
    (rd s (BRN_STAT_STATE n) = 4 → ∃ t, exec (.softOffEnd n) s = .next t ∧ rd t (BRN_STAT_STATE n) = 5 ∧
      rd t (BRN_STAT_PENDING_ON n) = rd s (BRN_STAT_PENDING_ON n) ∧ regsOnly [(BRN_STAT_STATE n).addr] s t) ∧
    (rd s (BRN_STAT_STATE n) = 4 → (∀ fall bus, exec (.fastTrip n fall bus) s = .next (busLeaves (softTrip s n (BRN_EVT_TRIP_FAST n)) n bus)) ∧
      (∀ fast fall bus, exec (.faultTimerExpiry n fast fall bus) s = .next (if (s.brn n).cfg.prot then s
        else busLeaves (softTrip s n (if fast then BRN_EVT_TRIP_FAST n else BRN_EVT_TRIP_FLT n)) n bus))) ∧
    (∀ ev, ev = BRN_EVT_TRIP_FAST n ∨ ev = BRN_EVT_TRIP_FLT n → ∃ t, softTrip s n ev = t ∧ rd t (BRN_STAT_STATE n) = 5 ∧ rd t ev = 1 ∧
        rd t (BRN_CNT_TRIPS n) = min (rd s (BRN_CNT_TRIPS n) + 1) 65535 ∧
        rd t (BRN_STAT_RCNT n) = rd s (BRN_STAT_RCNT n) ∧
        rd t (BRN_EVT_HELD_TRIP n) = (if s.rst.hold then 1 else rd s (BRN_EVT_HELD_TRIP n)) ∧
        (t.brn n).heldTrip = (s.rst.hold || s.rst.d2dHubLost || (s.brn n).heldTrip) ∧
        brnFrame n [(BRN_STAT_STATE n).addr, ev.addr, (BRN_CNT_TRIPS n).addr] s t) ∧
    (∀ rise, rd s (BRN_STAT_STATE n) = 5 → (rise = true ∨ rd s (BRN_STAT_E n) = 0 ∨ rd s (BRN_STAT_PENDING_ON n) = 1 ∨
        rd s (BRN_STAT_REARM n) = 1) → ∃ t, exec (.dischargeComplete n rise) s = .next t ∧
      rd t (BRN_STAT_STATE n) = 0 ∧ rd t (BRN_STAT_RCNT n) = 0 ∧
      rd t (BRN_STAT_E n) = (if rise then 1 else rd s (BRN_STAT_E n)) ∧
      (rise = true → rd t (BRN_STAT_PENDING_ON n) = 1 ∧ (t.brn n).reon = true) ∧
      (rise = false → rd s (BRN_STAT_E n) = 0 →
        rd t (BRN_STAT_PENDING_ON n) = 0 ∧ rd t (BRN_STAT_REARM n) = 0 ∧ (t.brn n).reon = false) ∧
      (rise = false → rd s (BRN_STAT_E n) = 1 → rd s (BRN_STAT_PENDING_ON n) = 1 →
        rd t (BRN_STAT_PENDING_ON n) = 1 ∧ (t.brn n).reon = true) ∧ (t.brn n).rest = ftNs s ∧
      brnFrame n [(BRN_STAT_STATE n).addr] s t) ∧
    (rd s (BRN_STAT_STATE n) = 5 → rd s (BRN_STAT_E n) = 0 → ∃ t, exec (.dischargeTimeout n) s = .next t ∧
      rd t (BRN_STAT_STATE n) = 0 ∧ rd t (BRN_STAT_RCNT n) = 0 ∧ rd t (BRN_EVT_DIS_TMO n) = 1 ∧
      rd t (BRN_STAT_REARM n) = 0 ∧ (t.brn n).rest = ftNs s ∧ brnFrame n [(BRN_STAT_STATE n).addr, (BRN_EVT_DIS_TMO n).addr] s t) ∧
    (∀ u, u = s.setBrn n { s.brn n with reon := false } → rd s (BRN_STAT_STATE n) = 0 → (s.brn n).reon = true →
      exec (.tReonExpiry n) s = .next (if rd s (BRN_STAT_PENDING_ON n) = 1 ∧ rd s (BRN_STAT_E n) = 1 then brnInsert u n else brnOffSettle u n)) ∧
    (rd s (BRN_STAT_STATE n) = 6 → ((s.brn n).cfg.prot = true → (s.brn n).tj < (s.brn n).cfg.tOt * 65536 - 20 * 65536) →
      exec (.retryWaitExpiry n) s = .next (brnInsert s n)) ∧
    ∃ t, brnInsert s n = t ∧ rd t (BRN_STAT_STATE n) = 1 ∧ rd t (BRN_STAT_PENDING_ON n) = 0 ∧
        rd t (BRN_STAT_RCNT n) = rd s (BRN_STAT_RCNT n) ∧ (t.brn n).reon = false ∧
        (t.brn n).tj = (if (s.brn n).ta + 5 * 65536 < (s.brn n).tj then (s.brn n).tj else (s.brn n).ta) ∧
        rd t (BRN_TH_TJ_T_J n) = wrapTo (BRN_TH_TJ_T_J n).w ((t.brn n).tj / 1024) ∧
        brnFrame n [(BRN_STAT_STATE n).addr, (BRN_TH_TJ_T_J n).addr] s t

/-- What the enable of a branch does while the D2D link carries it (R12, R282, R283, R287). With ESRC = 1 the enable source is
the latch of ON and OFF: ON of an OFF branch that may start takes E to 1 and the branch to INSERT, OFF of a branch that is ON
takes it to SOFT_OFF with PG 0, and with ESRC = 0 both do nothing. With ESRC = 0 it is the output bit: its fall takes an
inserting branch to OFF, at rest from now on, with REARM clear, and in DISCHARGE the change is kept in PENDING_ON. CLEAR takes a latched branch to OFF
with REARM = E, keeps its LATCHED event, and does nothing in any other state. -/
def Obligations.EnableDrivesTheBranch : Prop :=
  ∀ (n : Nat) (s : State), n < 16 → s.rst.busy = false → s.rst.d2dBpdLost = false →
    (rd s (BRN_CFG_ESRC n) = 1 → (s.brn n).frozen = none → rd s (BRN_STAT_STATE n) = 0 → rd s (BRN_STAT_E n) = 0 →
      rd s (BRN_CFG_EN n) = 1 → s.sys.brnOff = false → (rd s SYS_STATE_STATE = 3 ∨ rd s SYS_STATE_STATE = 4) →
      s.trd.p3 = true → rd s (BRN_STAT_REARM n) = 0 → rd s (BRN_STAT_CP_OK n) = 1 → (s.brn n).reon = false →
      ∃ t, exec (.brnOn n) s = .next t ∧ (t.brn n).latch = true ∧ rd t (BRN_STAT_E n) = 1 ∧
        rd t (BRN_STAT_STATE n) = 1 ∧ brnFrame n [(BRN_STAT_STATE n).addr, (BRN_TH_TJ_T_J n).addr] s t) ∧
    (rd s (BRN_CFG_ESRC n) = 1 → (s.brn n).frozen = none → rd s (BRN_STAT_STATE n) = 3 → rd s (BRN_STAT_E n) = 1 →
      ∃ t, exec (.brnOff n) s = .next t ∧ (t.brn n).latch = false ∧ rd t (BRN_STAT_E n) = 0 ∧
        rd t (BRN_STAT_STATE n) = 4 ∧ rd t (BRN_STAT_PG n) = 0 ∧ brnFrame n [(BRN_STAT_STATE n).addr] s t) ∧
    (rd s (BRN_CFG_ESRC n) = 0 → exec (.brnOn n) s = .next s ∧ exec (.brnOff n) s = .next s) ∧
    (rd s (BRN_CFG_ESRC n) = 0 → (s.brn n).frozen = none → (s.brn n).outBit = false → rd s (BRN_STAT_E n) = 1 →
      (rd s (BRN_STAT_STATE n) = 1 → ∃ t, exec (.branchEnableChange n) s = .next t ∧ rd t (BRN_STAT_E n) = 0 ∧
        rd t (BRN_STAT_STATE n) = 0 ∧ rd t (BRN_STAT_RCNT n) = 0 ∧ rd t (BRN_STAT_REARM n) = 0 ∧ (t.brn n).rest = ftNs s ∧
        brnFrame n [(BRN_STAT_STATE n).addr] s t) ∧
      (rd s (BRN_STAT_STATE n) = 5 → ∃ t, exec (.branchEnableChange n) s = .next t ∧ rd t (BRN_STAT_E n) = 0 ∧
        rd t (BRN_STAT_STATE n) = 5 ∧ rd t (BRN_STAT_PENDING_ON n) = 0 ∧ regsOnly [(BRN_STAT_STATE n).addr] s t)) ∧
    (rd s (BRN_STAT_STATE n) = 7 → ∃ t, exec (.brnClear n) s = .next t ∧ rd t (BRN_STAT_STATE n) = 0 ∧
      rd t (BRN_STAT_RCNT n) = 0 ∧ rd t (BRN_STAT_REARM n) = rd s (BRN_STAT_E n) ∧
      rd t (BRN_EVT_LATCHED n) = rd s (BRN_EVT_LATCHED n) ∧ (t.brn n).rest = ftNs s ∧ brnFrame n [(BRN_STAT_STATE n).addr] s t) ∧
    (rd s (BRN_STAT_STATE n) ≠ 7 → exec (.brnClear n) s = .next s)

/-- A conversion of V_BUS, V_OUT and I of a branch (R281, R285 to R288, R293): the voltages read code × 70,000 ÷ 65,536 mV in units of 2 mV,
the current and the power are rounded to nearest, and the energy of 50 µs joins the count. A run of the limit comparator that is active takes PG
away, and so does V_OUT below V_BUS - V_PGD; PG_LOST is set where a standing PG falls to the comparator, or in ON; LIMIT is the comparator's last
level. In RAMP the limit is folded back by the new voltages. In ON the fault timer, in units of 1.25 ns, rises by 8 in each active cycle and falls
by 1 in each other, not below 0 nor above T_FLT. An update of the thermal model (R289) takes the new estimate and T_A, and does not trip outside ON nor
while the estimate is below T_OT; with PROT = 0 there is none. -/
def Obligations.MeasurementsOfABranch : Prop :=
  (∀ f c l, faultRuns f [] = f ∧ faultRuns f ((true, c) :: l) = faultRuns (f + 8 * c) l ∧ faultRuns f ((false, c) :: l) = faultRuns (f - c) l) ∧
  ∀ (n : Nat) (s : State), n < 16 →
    (∀ (vBus vOut i : Nat) runs ci drop c e, vBus < 65536 → vOut < 65536 → ci = (i : Int) - 32768 - rdI s (BRN_ZCAL_OFFSET n) → c = (s.brn n).cfg →
      drop = decide ((vOut : Int) * 70000 < vBus * 70000 - c.vPgd * 10 * 65536) →
      e = rdI s (BRN_ENERGY_UJ n) * 65536 + (s.brn n).eFrac + roundDiv (vOut * ci * 437500000) (32768 * c.rShunt) → ∃ t,
      exec (.branchMeasurement n vBus vOut i runs) s = .next t ∧
      rd t (BRN_MEAS_V_V_BUS n) = vBus * 70000 / 65536 / 2 ∧ rd t (BRN_MEAS_V_V_OUT n) = vOut * 70000 / 65536 / 2 ∧
      rd t (BRN_MEAS_I_I n) = wrapTo 32 (roundDiv (ci * 125000000) (32768 * c.rShunt)) ∧
      rd t (BRN_MEAS_P_P n) = wrapTo 32 (roundDiv (vOut * 70000 * ci * 125000) (65536 * 32768 * c.rShunt)) ∧
      rd t (BRN_ENERGY_UJ n) = wrapTo 64 (e / 65536) ∧ (t.brn n).eFrac = (e % 65536).toNat ∧
      rd t (BRN_STAT_LIMIT n) = natOf (lastRun (flag s (BRN_STAT_LIMIT n)) runs) ∧
      rd t (BRN_STAT_PG n) = (if runs.any (·.1) = true ∨ drop = true then 0 else rd s (BRN_STAT_PG n)) ∧
      rd t (BRN_EVT_PG_LOST n) = (if rd s (BRN_STAT_PG n) = 1 ∧ (runs.any (·.1) = true ∨ drop = true ∧ rd s (BRN_STAT_STATE n) = 3) then 1
        else rd s (BRN_EVT_PG_LOST n)) ∧
      rd t (BRN_STAT_STATE n) = rd s (BRN_STAT_STATE n) ∧
      (t.brn n).limit = (if rd s (BRN_STAT_STATE n) = 2 then min (c.vLim * 250 * 1000000 / c.rShunt)
          (c.pSoa * 1000000000 / max 100 (vBus * 70000 / 65536 - vOut * 70000 / 65536))
        else c.vLim * 250 * 1000000 / c.rShunt) ∧
      (t.brn n).fault = (if rd s (BRN_STAT_STATE n) = 3 then min (faultRuns (s.brn n).fault runs) (c.tFlt * 80000) else (s.brn n).fault) ∧
      rd t (BRN_FTIMER_ACC n) = (if rd s (BRN_STAT_STATE n) = 3 then (t.brn n).fault / 80000 % 2 ^ (BRN_FTIMER_ACC 0).w else rd s (BRN_FTIMER_ACC n)) ∧
      brnFrame n [(BRN_MEAS_V_V_BUS n).addr, (BRN_MEAS_I_I n).addr, (BRN_MEAS_P_P n).addr, (BRN_ENERGY_UJ n).addr,
        (BRN_STAT_LIMIT n).addr, (BRN_EVT_PG_LOST n).addr, (BRN_FTIMER_ACC n).addr] s t) ∧
    (∀ vBus vOut i ta, ((s.brn n).cfg.prot = false → exec (.thermalUpdate n vBus vOut i ta) s = .next s) ∧
      ∀ tj, (s.brn n).cfg.prot = true → tj = tjNext (s.brn n) (flag s (BRN_STAT_LIMIT n) || rd s (BRN_STAT_STATE n) == 2) vBus vOut i ta →
      rd s (BRN_STAT_STATE n) ≠ 3 ∨ tj < (s.brn n).cfg.tOt * 65536 → ∃ t,
      exec (.thermalUpdate n vBus vOut i ta) s = .next t ∧ (t.brn n).tj = tj ∧ (t.brn n).ta = ta ∧
      rd t (BRN_TH_TJ_T_J n) = wrapTo (BRN_TH_TJ_T_J n).w (tj / 1024) ∧
      rd t (BRN_STAT_STATE n) = rd s (BRN_STAT_STATE n) ∧ brnFrame n [(BRN_TH_TJ_T_J n).addr] s t)

/-- A hard off from the BPD's side (R12, R283, R290): when the charge pump falls below its threshold, and when the BPD declares the D2D link lost, as
it does when a frame has failed its third retransmission, every branch that is neither FAILED nor LATCHED_OFF goes to DISCHARGE with PG 0, PENDING_ON 0
and REARM 1, the others stay; the pump's loss clears CP_OK of all and raises SYS_SUPPLY. The hub die raises SYS_D2D where it declares the link lost; a
loss that only one side declares leaves the other side as it was. Up to the raise nothing else but the loss itself is recorded.
The BPD's supplies and link (R11, R12, R283, R289, R291, R401): a good link frame ends the retransmissions of its direction and brings a lost link
back for the side that receives it: the BPD then takes every enable, and outside the hold of an activation the hub die raises the
trips that latched off meanwhile. A frame that fails its CRC is retransmitted up to three times, and changes nothing while its side has lost the link. The charge
pump's return sets CP_OK of every branch and starts one that is OFF with E = 1, REARM = 0 and no T_REON run; a restart of the
BPD leaves every register it holds at its reset value, and every branch without fault timer, pending run or configuration. -/
def Obligations.LinkAndPumpOfTheBranches : Prop :=
  ((∀ (s : State), ∃ t, exec .chargePumpLow s = .next (raise t 3 256) ∧ partsBut [.regs, .brns, .tnk] s t ∧
      cellsBut ((List.range 16).map fun n => (BRN_STAT_STATE n).addr) s t ∧
      ∀ n, n < 16 → rd t (BRN_STAT_E n) = rd s (BRN_STAT_E n) ∧ rd t (BRN_STAT_RCNT n) = rd s (BRN_STAT_RCNT n) ∧ rd t (BRN_STAT_CP_OK n) = 0 ∧
        if rd s (BRN_STAT_STATE n) = 7 ∨ rd s (BRN_STAT_STATE n) = 8 then
          rd t (BRN_STAT_STATE n) = rd s (BRN_STAT_STATE n) ∧ rd t (BRN_STAT_REARM n) = rd s (BRN_STAT_REARM n)
        else rd t (BRN_STAT_STATE n) = 5 ∧ rd t (BRN_STAT_PG n) = 0 ∧ rd t (BRN_STAT_PENDING_ON n) = 0 ∧
          rd t (BRN_STAT_REARM n) = 1 ∧ (t.brn n).reon = false) ∧
  (∀ (s : State) (hub bpd exhausted : Bool), ∃ t,
      exec (.d2dLinkLost hub bpd exhausted) s = .next (if hub then raise t 1 (if exhausted then 2 else 1) else t) ∧
      partsBut [.regs, .brns, .rst] s t ∧ cellsBut ((List.range 16).map fun n => (BRN_STAT_STATE n).addr) s t ∧
      t.rst = { s.rst with
        d2dHubLost := hub || s.rst.d2dHubLost, d2dRetx := if hub then 0 else s.rst.d2dRetx
        d2dBpdLost := bpd || s.rst.d2dBpdLost, d2dRetxBpd := if bpd then 0 else s.rst.d2dRetxBpd } ∧
      (bpd = false → t.regs = s.regs ∧ t.brns = s.brns) ∧
      (bpd = true → ∀ n, n < 16 → rd t (BRN_STAT_E n) = rd s (BRN_STAT_E n) ∧ rd t (BRN_STAT_RCNT n) = rd s (BRN_STAT_RCNT n) ∧
        rd t (BRN_STAT_CP_OK n) = rd s (BRN_STAT_CP_OK n) ∧
        if rd s (BRN_STAT_STATE n) = 7 ∨ rd s (BRN_STAT_STATE n) = 8 then
          rd t (BRN_STAT_STATE n) = rd s (BRN_STAT_STATE n) ∧ rd t (BRN_STAT_REARM n) = rd s (BRN_STAT_REARM n)
        else rd t (BRN_STAT_STATE n) = 5 ∧ rd t (BRN_STAT_PG n) = 0 ∧ rd t (BRN_STAT_PENDING_ON n) = 0 ∧
          rd t (BRN_STAT_REARM n) = 1 ∧ (t.brn n).reon = false)) ∧
  ∀ (s : State) (toBpd : Bool), (if toBpd then s.rst.d2dBpdLost else s.rst.d2dHubLost) = false →
    3 ≤ (if toBpd then s.rst.d2dRetxBpd else s.rst.d2dRetx) → exec (.d2dLinkFrame false toBpd) s = exec (.d2dLinkLost true true true) s) ∧
  (∀ (s : State),
    (∀ u, u = { s with rst := { s.rst with d2dRetx := 0, d2dHubLost := false } } → exec (.d2dLinkFrame true false) s =
      .next (if s.rst.d2dHubLost = true ∧ s.rst.hold = false then
        raiseAll (each (List.range 16) (fun t n => t.setBrn n { t.brn n with heldTrip := false }) u)
          (((List.range 16).filter fun n => (s.brn n).heldTrip && rd s (BRN_STAT_STATE n) == 7).map fun n =>
            (88 + n, rdW s (BRN_EVT_TRIP_FAST n).addr % 512))
        else u)) ∧
    (∀ u, u = { s with rst := { s.rst with d2dRetxBpd := 0, d2dBpdLost := false } } → exec (.d2dLinkFrame true true) s =
      .next (if s.rst.d2dBpdLost = true then each (List.range 16) (fun t n => brnSetE t n (brnWant t n)) u else u)) ∧
    (s.rst.d2dHubLost = false → s.rst.d2dRetx < 3 → exec (.d2dLinkFrame false false) s =
      .next { s with rst := { s.rst with d2dRetx := s.rst.d2dRetx + 1 } }) ∧
    (s.rst.d2dBpdLost = false → s.rst.d2dRetxBpd < 3 → exec (.d2dLinkFrame false true) s =
      .next { s with rst := { s.rst with d2dRetxBpd := s.rst.d2dRetxBpd + 1 } }) ∧
    (s.rst.d2dHubLost = true → exec (.d2dLinkFrame false false) s = .next s) ∧
    (s.rst.d2dBpdLost = true → exec (.d2dLinkFrame false true) s = .next s) ∧
    (∃ t, exec .chargePumpOk s = .next t ∧ partsBut [.regs, .brns, .tnk] s t ∧
      cellsBut (((List.range 16).map fun n => (BRN_STAT_STATE n).addr) ++ (List.range 16).map fun n => (BRN_TH_TJ_T_J n).addr) s t ∧
      ∀ n, n < 16 → rd t (BRN_STAT_CP_OK n) = 1 ∧ rd t (BRN_STAT_E n) = rd s (BRN_STAT_E n) ∧
        (rd s (BRN_STAT_STATE n) ≠ 0 → rd t (BRN_STAT_STATE n) = rd s (BRN_STAT_STATE n)) ∧
        (rd s (BRN_STAT_STATE n) = 0 → rd s (BRN_STAT_E n) = 1 → rd s (BRN_STAT_REARM n) = 0 → (s.brn n).reon = false →
          rd t (BRN_STAT_STATE n) = 1 ∧ rd t (BRN_STAT_PENDING_ON n) = 0)) ∧
    (∃ t, exec .vddBpdPor s = .next t ∧ partsBut [.regs, .brns] s t ∧
      (∀ a, heldByBpd a = true → cellAt t a = cellReset a) ∧ (∀ a, heldByBpd a = false → cellAt t a = cellAt s a) ∧
      ∀ n, (t.brn n).cfg = {} ∧ (t.brn n).fault = 0 ∧ (t.brn n).reon = false ∧ (t.brn n).frozen = none ∧
        (t.brn n).latch = (s.brn n).latch))

/-- The Assay (R299 to R308). A byte, half-word or word feed processes 1, 2 or 4 bytes, bits [7:0] first, into the context of ASY_FW_CTX when that is
software's and a unit is in service; another is DENIED, and with no unit in service it is ignored and sets NO_UNIT. START loads INIT, a write of VAL its value, the bits of a CRC above its width 0,
unless the context's channel is RUN or STOPPING. A frame appended to on a context checks on it, stripped to its bytes, unless the context was damaged. A self-check takes the
next unit in service: a pass counts, a wrong result takes the unit out of service and raises ASY_SELFCHK, and a check that yields is counted and
retried on its unit, if that is still in service. RETEST checks the unit named, and a pass returns it to service. -/
def Obligations.AssayFeedsAndChecks : Prop :=
  (∀ (s : State) (ini v c : Nat), s.rst.busy = false → c = rd s ASY_FW_CTX_CTX →
    (rd s (ASY_CTX_CFG_OWN c) = 1 → rd s ASY_STATUS_FAILED ≠ 0xFFFF →
      (∃ t, exec (.asyFeedB ini v) s = .next (answerMgmt t ini scOk) ∧ regsOnly [(ASY_CTX_VAL_VAL c).addr] s t ∧
        rd t (ASY_CTX_VAL_VAL c) = asyBytes s c (rd s (ASY_CTX_VAL_VAL c)) (leBytes 1 v) % 2 ^ 64) ∧
      (∃ t, exec (.asyFeedH ini v) s = .next (answerMgmt t ini scOk) ∧ regsOnly [(ASY_CTX_VAL_VAL c).addr] s t ∧
        rd t (ASY_CTX_VAL_VAL c) = asyBytes s c (rd s (ASY_CTX_VAL_VAL c)) (leBytes 2 v) % 2 ^ 64) ∧
      (∃ t, exec (.asyFeedW ini v) s = .next (answerMgmt t ini scOk) ∧ regsOnly [(ASY_CTX_VAL_VAL c).addr] s t ∧
        rd t (ASY_CTX_VAL_VAL c) = asyBytes s c (rd s (ASY_CTX_VAL_VAL c)) (leBytes 4 v) % 2 ^ 64)) ∧
    (rd s (ASY_CTX_CFG_OWN c) = 1 → rd s ASY_STATUS_FAILED = 0xFFFF → ∃ t, rd t ASY_EVT_NO_UNIT = 1 ∧ regsOnly [ASY_EVT_NO_UNIT.addr] s t ∧
      exec (.asyFeedB ini v) s = .next (answerMgmt t ini scOk) ∧ exec (.asyFeedH ini v) s = .next (answerMgmt t ini scOk) ∧
      exec (.asyFeedW ini v) s = .next (answerMgmt t ini scOk)) ∧
    (rd s (ASY_CTX_CFG_OWN c) = 0 → exec (.asyFeedB ini v) s = .next (answerMgmt s ini scDenied) ∧
      exec (.asyFeedH ini v) s = .next (answerMgmt s ini scDenied) ∧ exec (.asyFeedW ini v) s = .next (answerMgmt s ini scDenied))) ∧
  (∀ (s : State) (ini v c : Nat), s.rst.busy = false → c < 64 →
    ((rd s (ASY_CTX_CFG_OWN c) = 1 ∨ ctxBusy s c = false) →
      (∃ t, exec (.asyValWrite ini c v) s = .next (answerMgmt t ini scOk) ∧ 
        rd t (ASY_CTX_VAL_VAL c) = (if asyAlg s c = 0 then v % 2 ^ asyW s c else v) % 2 ^ 64 ∧ regsOnly [(ASY_CTX_VAL_VAL c).addr] s t) ∧
      ∃ t, exec (.asyStart ini c) s = .next (answerMgmt t ini scOk) ∧ rd t (ASY_CTX_VAL_VAL c) = rd s (ASY_CTX_INIT_VALUE c) % 2 ^ asyWidth s c ∧
        regsOnly [(ASY_CTX_VAL_VAL c).addr] s t) ∧
    (rd s (ASY_CTX_CFG_OWN c) = 0 → ctxBusy s c = true → exec (.asyValWrite ini c v) s = .next (answerMgmt s ini scDenied) ∧
      exec (.asyStart ini c) s = .next (answerMgmt s ini scDenied))) ∧
  (∀ (s t : State) (c : Nat) (bs frame : List Byte), asyAppend s c bs = (frame, t) →
    frame.length = bs.length + asyLen s c ∧ (asyDamaged s c = false → (asyCheck s c frame).1 = true ∧ (asyCheck s c frame).2.1 = bs ∧
      (asyCheck s c frame).2.2 = t)) ∧
  (∀ (s : State) (u : Nat) (ok yielded : Bool), s.rst.busy = false → u < 16 →
    exec (.asyRetest u ok) s = .next (checkEnd (wr s ASY_STATUS_SC_UNIT u) u ok) ∧
    (rd s ASY_CTRL_SC_EN = 1 → s.asyRetry = true → u = s.asyNext → exec (.selfCheckRetry ok yielded) s = .next
      (if rdBit s ASY_STATUS_FAILED u then { s with asyRetry := false } else checkRun s u ok yielded)) ∧
    (rd s ASY_CTRL_SC_EN = 1 → s.asyRetry = false → (∃ k < 16, u = (s.asyNext + k) % 16 ∧ rdBit s ASY_STATUS_FAILED u = false ∧
        ∀ j < k, rdBit s ASY_STATUS_FAILED ((s.asyNext + j) % 16) = true) →
      exec (.selfCheck ok yielded) s = .next (checkRun s u ok yielded)) ∧
    (∃ t, checkRun s u ok true = t ∧ t.asyRetry = true ∧ t.asyNext = u ∧ rd t ASY_STATUS_SC_UNIT = u ∧ rd t ASY_STATUS_SC_RUN = 0 ∧
      rd t ASY_SC_CNT_YIELD = min (rd s ASY_SC_CNT_YIELD + 1) (2 ^ 16 - 1) ∧ partsBut [.regs, .asyRetry, .asyNext] s t ∧
      cellsBut [ASY_STATUS_SC_UNIT.addr, ASY_SC_CNT_YIELD.addr] s t) ∧
    (∃ t, checkRun s u ok false = checkEnd t u ok ∧ t.asyRetry = false ∧ t.asyNext = (u + 1) % 16 ∧ rd t ASY_STATUS_SC_UNIT = u ∧
      partsBut [.regs, .asyRetry, .asyNext] s t ∧ cellsBut [ASY_STATUS_SC_UNIT.addr] s t) ∧
    (∃ t, checkEnd s u true = t ∧ (∀ v < 16, rdBit t ASY_STATUS_FAILED v = if v = u then false else rdBit s ASY_STATUS_FAILED v) ∧
      rd t ASY_SC_CNT_PASS = (rd s ASY_SC_CNT_PASS + 1) % 2 ^ 16 ∧ regsOnly [ASY_STATUS_FAILED.addr, ASY_SC_CNT_PASS.addr] s t) ∧
    ∃ t, checkEnd s u false = raise t 104 (rd t ASY_STATUS_FAILED) ∧ rd t ASY_EVT_SELFCHK = 1 ∧
      (∀ v < 16, rdBit t ASY_STATUS_FAILED v = if v = u then true else rdBit s ASY_STATUS_FAILED v) ∧
      regsOnly [ASY_STATUS_FAILED.addr, ASY_EVT_SELFCHK.addr] s t)

/-- R308, of the commands SELF_CHECK, SELF_CHECK_RETRY and ASY_RETEST. A wrong result of the check of unit u, which did not yield, sets the FAILED bit of u alone, so that u serves no more, and raises source 104. RETEST checks the unit that it
names: a pass clears the FAILED bit of that unit alone, so that it serves. The cause of source 104 is gone exactly where FAILED is 0. -/
def Obligations.FailedUnitLeavesService : Prop :=
  (∀ (s x : State) (u : Nat), u < 16 → (∀ v, rdBit x ASY_STATUS_FAILED v = rdBit s ASY_STATUS_FAILED v) →
    ∃ t, checkEnd x u false = raise t 104 (rd t ASY_STATUS_FAILED) ∧ rd t ASY_EVT_SELFCHK = 1 ∧
      (∀ v < 16, rdBit t ASY_STATUS_FAILED v = if v = u then true else rdBit s ASY_STATUS_FAILED v) ∧ unitServes t u = false) ∧
  (∀ (s x y : State) (u : Nat), s.rst.busy = false → u < 16 → x = wr s ASY_STATUS_SC_UNIT u → y = { x with asyRetry := false, asyNext := (u + 1) % 16 } →
    (∀ v, rdBit x ASY_STATUS_FAILED v = rdBit s ASY_STATUS_FAILED v ∧ rdBit y ASY_STATUS_FAILED v = rdBit s ASY_STATUS_FAILED v) ∧
    exec (.asyRetest u false) s = .next (checkEnd x u false) ∧
    (rd s ASY_CTRL_SC_EN = 1 → s.asyRetry = true → u = s.asyNext → rdBit s ASY_STATUS_FAILED u = false →
      exec (.selfCheckRetry false false) s = .next (checkEnd y u false)) ∧
    (rd s ASY_CTRL_SC_EN = 1 → s.asyRetry = false → (∃ k < 16, u = (s.asyNext + k) % 16 ∧ rdBit s ASY_STATUS_FAILED u = false ∧
        ∀ j < k, rdBit s ASY_STATUS_FAILED ((s.asyNext + j) % 16) = true) →
      exec (.selfCheck false false) s = .next (checkEnd y u false))) ∧
  (∀ (s : State) (u : Nat), s.rst.busy = false → u < 16 → ∃ t, exec (.asyRetest u true) s = .next t ∧
    (∀ v < 16, rdBit t ASY_STATUS_FAILED v = if v = u then false else rdBit s ASY_STATUS_FAILED v) ∧ unitServes t u = true ∧
    regsOnly [ASY_STATUS_FAILED.addr, ASY_SC_CNT_PASS.addr] s t) ∧
  ∀ s : State, present s 104 = false ↔ rd s ASY_STATUS_FAILED = 0

/-- Requests at the management target (R311 to R315, R320, R321, R327). A request in form, within its deadline, at local addresses that nothing holds up runs its words
in ascending order up to the first that fails, and answers OK with the words read or the old value, or that word's status and address with no data; a broadcast write
runs alike and is never answered. In RESTING or DUMP the answer is RESTING; a request not in form is BAD_REQ; one past its deadline is discarded and
counted; before ST08 another than an early READ is RETRY. Through an inbound window, a disabled one and a channel that is not in RUN in SPI or I2C answer TARGET_ERR, a write
with WR_EN = 0 DENIED, and any other request waits for its far bus, in the line of its channel or for the Local Port. The answer is one MGMT_RSP, put in the
message plane from ST08 on. -/
def Obligations.ManagementRequestsAreServed : Prop :=
  (∀ (s : State) (src sport tag flags addr count tmo origT demand mask d : Nat) (data : List Nat), d = (origT + 1000 * tmo) % 2 ^ 32 → s.rst.busy = false → s.sys.loaded = true →
    rd s SYS_STATE_STATE ≠ stResting → rd s SYS_STATE_STATE ≠ stDump → flags % 2 = 0 → 1 ≤ count → count ≤ 256 → addr % 4 = 0 → tmo ≠ 0 →
    0 ≤ modDiff 32 d (ftNs s) →
    (∀ k < count, waitsP4 s ((addr + 4 * k) % 2 ^ 32) = false ∧ waitsNor s ((addr + 4 * k) % 2 ^ 32) = false) →
    (∀ x, x = readRun s 2 addr count [] → x.s.rst.busy = false →
      exec (.mgmtRead src sport tag 1 flags addr count tmo origT demand) s = .next (if x.st = 0 then respond x.s src sport tag 1 0 0 x.data
        else respond x.s src sport tag 1 x.st x.at_ []) ∧ (x.st = 0 → x.data.length = count)) ∧
    (∀ x, x = writeRun s 2 addr ((List.range count).map fun k => data.getD k 0) → x.s.rst.busy = false →
      exec (.mgmtWrite src sport tag flags addr count tmo origT data) s = .next (if x.st = 0 then respond x.s src sport tag 2 0 0 x.data
        else respond x.s src sport tag 2 x.st x.at_ []) ∧
      exec (.mgmtBwr src tag flags addr count tmo origT data) s = .next x.s) ∧
    (∀ x v, x = rmwRun s 2 addr mask v → x.s.rst.busy = false →
      exec (.mgmtRmw src sport tag flags addr 1 tmo origT mask v) s = .next (if x.st = 0 then respond x.s src sport tag 3 0 0 x.data
        else respond x.s src sport tag 3 x.st x.at_ []))) ∧
  (∀ (s : State) (src sport tag op flags addr count tmo origT demand d : Nat), d = (origT + 1000 * tmo) % 2 ^ 32 → s.rst.busy = false → op ≠ 2 → op ≠ 3 →
    ((rd s SYS_STATE_STATE = stResting ∨ rd s SYS_STATE_STATE = stDump) → flags / 2 % 2 = 0 →
      exec (.mgmtRead src sport tag op flags addr count tmo origT demand) s = .next (respond s src sport tag op 6 addr [])) ∧
    (rd s SYS_STATE_STATE ≠ stResting → rd s SYS_STATE_STATE ≠ stDump → flags / 2 % 2 = 0 →
      ((op ≠ 1 ∨ count = 0 ∨ 256 < count ∨ tmo = 0 ∨ addr % 4 ≠ 0) →
        exec (.mgmtRead src sport tag op flags addr count tmo origT demand) s = .next (respond s src sport tag op 8 addr [])) ∧
      (op = 1 → flags % 2 = 0 → 1 ≤ count → count ≤ 256 → addr % 4 = 0 → tmo ≠ 0 →
        (modDiff 32 d (ftNs s) < 0 → ∃ t, exec (.mgmtRead src sport tag op flags addr count tmo origT demand) s = .next t ∧
          rd t FRY_CNT_EXPIRED = min (rd s FRY_CNT_EXPIRED + 1) (2 ^ FRY_CNT_EXPIRED.w - 1) ∧ rd t FRY_EVT_EXPIRED = 1 ∧
          regsOnly [FRY_CNT_EXPIRED.addr, FRY_EVT_EXPIRED.addr] s t) ∧
        (0 ≤ modDiff 32 d (ftNs s) → s.sys.loaded = false → rd s SYS_STATE_STATE ≠ stSafe →
          (∃ k < count, earlyWord ((addr + 4 * k) % 2 ^ 32) = false) →
          exec (.mgmtRead src sport tag op flags addr count tmo origT demand) s = .next (respond s src sport tag op 1 addr []))))) ∧
  (∀ (s : State) (r : Req), r.quiet = false →
    (rd s (FRY_IN0_EN r.win) = 0 → reqWindow s r = respond s r.src r.sport r.tag r.op 2 r.addr []) ∧
    (rd s (FRY_IN0_EN r.win) = 1 → r.op ≠ 1 → rd s (FRY_IN0_WR_EN r.win) = 0 → reqWindow s r = respond s r.src r.sport r.tag r.op 5 r.addr []) ∧
    (rd s (FRY_IN0_EN r.win) = 1 → (r.op = 1 ∨ rd s (FRY_IN0_WR_EN r.win) = 1) →
      (rd s (FRY_IN0_KIND r.win) = 0 → windowOk s r.win = false → reqWindow s r = respond s r.src r.sport r.tag r.op 2 r.addr []) ∧
      ((rd s (FRY_IN0_KIND r.win) = 1 ∨ windowOk s r.win = true) → ∃ t, reqWindow s r = t ∧ reqAt t s.fry.nextReq = some { r with since := ftNs s } ∧
        t.fry.nextReq = s.fry.nextReq + 1 ∧ (∀ k, k ≠ s.fry.nextReq → reqAt t k = reqAt s k) ∧ partsBut [.fry, .chns] s t ∧
        ∀ n, (t.chn n).ferry = (s.chn n).ferry ++ if rd s (FRY_IN0_KIND r.win) = 0 ∧ n = rd s (FRY_IN0_CH r.win) then [s.fry.nextReq] else []))) ∧
  ∀ (s u : State) (hub sport tag op st info : Nat) (data : List Nat) (pl : List Byte), u = s.emit (.mgmtRsp hub tag st info data) →
    pl = beBytes 2 tag ++ [BitVec.ofNat 8 op, BitVec.ofNat 8 st] ++ beBytes 4 info ++ wordBytes data →
    respond s hub sport tag op st info data = if s.sys.loaded = true then (insertFrame u 3 (mHead tRsp 5 pl.length hub sport 0) pl (ftNs s)).2 else u

/-- Requests that wait, and the exchange of the Local Port (R312, R321 to R325). A request whose deadline passes before it starts leaves its line, is counted and not answered; one
nearer to it than the margin is answered RETRY. LP_MREQ rising while LP_HREQ is asked for takes the claim back, and counts the contention. LP_HREQ is asked for only with LP_MREQ low,
2 µs after LP_CS_N rose, for the oldest request that waits for the port. SERVICE returns the descriptor and drops LP_HREQ, unless the request is past its deadline or has waited
into the margin; COMPLETE with the TAG of the request served and within SVC_TMO of SERVICE answers it and returns OK, any other COMPLETE returns BAD_REQ. In RESTING both end with RESTING. SVC_TMO answers TIMEOUT; a protocol error sets PROTO_ERR, and an abandoned exchange answers TARGET_ERR. -/
def Obligations.WaitingRequestsEnd : Prop :=
  (∀ s : State, s.rst.busy = false →
    (∃ t, exec (.requestExpired none) s = .next t ∧ rd t FRY_CNT_EXPIRED = min (rd s FRY_CNT_EXPIRED + 1) (2 ^ FRY_CNT_EXPIRED.w - 1) ∧
      rd t FRY_EVT_EXPIRED = 1 ∧ regsOnly [FRY_CNT_EXPIRED.addr, FRY_EVT_EXPIRED.addr] s t) ∧
    (∀ k, k ∉ reqsWaiting s → exec (.requestExpired (some k)) s = .next s) ∧
    (∀ k, k ∈ reqsWaiting s → ∃ t, exec (.requestExpired (some k)) s = .next t ∧ reqAt t k = none ∧ (∀ j, j ≠ k → reqAt t j = reqAt s j) ∧
      (∀ n < 48, (t.chn n).ferry = (s.chn n).ferry.filter (· != k)) ∧ rd t FRY_CNT_EXPIRED = min (rd s FRY_CNT_EXPIRED + 1) (2 ^ FRY_CNT_EXPIRED.w - 1) ∧
      rd t FRY_EVT_EXPIRED = 1 ∧ partsBut [.regs, .fry, .chns] s t ∧ cellsBut [FRY_CNT_EXPIRED.addr, FRY_EVT_EXPIRED.addr] s t) ∧
    (∀ dt u l, u = advance s dt → l = (reqsWaiting u).filter (fun k => match reqAt u k with
        | some r => decide (untilDeadline u r.deadline < retryMarginNs u)
        | none => false) → exec (.retryMargin dt) s = .next (each l (fun t k => retryReq (unqueue t k) k) u))) ∧
  (∀ (s : State) (k : Nat) (r : Req), reqAt s k = some r → r.quiet = false → ∃ z t, z = respond (dropReq s k) r.src r.sport r.tag r.op 1 r.addr [] ∧
    retryReq s k = t ∧ rd t FRY_EVT_RETRY = 1 ∧ rd t FRY_CNT_RETRY = min (rd z FRY_CNT_RETRY + 1) (2 ^ FRY_CNT_RETRY.w - 1) ∧
    reqAt (dropReq s k) k = none ∧ regsOnly [FRY_EVT_RETRY.addr, FRY_CNT_RETRY.addr] z t) ∧
  (∀ s : State,
    (s.fry.mreq = false → s.fry.lpAsk ≠ none → ∃ t, exec (.lpMreq true) s = .next t ∧ t.fry = { s.fry with mreq := true, lpAsk := none } ∧
      rd t LP_EVT_CONTEND = 1 ∧ rd t LP_CNT_CONTEND = min (rd s LP_CNT_CONTEND + 1) (2 ^ LP_CNT_CONTEND.w - 1) ∧ partsBut [.regs, .fry] s t ∧
      cellsBut [LP_EVT_CONTEND.addr, LP_CNT_CONTEND.addr] s t) ∧
    (∀ level, (level = false ∨ s.fry.mreq = true ∨ s.fry.lpAsk = none) → exec (.lpMreq level) s = .next { s with fry := { s.fry with mreq := level } })) ∧
  (∀ s : State, s.rst.busy = false → rd s LP_CTRL_EN = 1 →
    (∀ k, lpFirst s = some k → s.fry.mreq = false → s.fry.lpBusy = false → s.fry.lpAsk = none → s.fry.lpHeld = none → ∃ t, exec .lpHreqAssert s = .next t ∧
      t.fry = { s.fry with lpAsk := some k } ∧ t.clk = (advanceTo s (s.fry.csRise + 2000)).clk ∧ partsBut [.fry, .clk] s t) ∧
    (rd s SYS_STATE_STATE = stResting → exec .lpService s = .next (lpEnd s 6 []) ∧ ∀ tag st data, exec (.lpComplete tag st data) s = .next (lpEnd s 6 [])) ∧
    (rd s SYS_STATE_STATE ≠ stResting → ∀ k r u, s.fry.lpAsk = some k → reqAt s k = some r → u = { s with fry := { s.fry with lpAsk := none } } →
      (untilDeadline s r.deadline < 0 → exec .lpService s = .next (expireReq (dropReq u k))) ∧
      (0 ≤ untilDeadline s r.deadline → untilDeadline s r.deadline < retryMarginNs s → r.since < ftNs s → exec .lpService s = .next (retryReq u k)) ∧
      (0 ≤ untilDeadline s r.deadline → (retryMarginNs s ≤ untilDeadline s r.deadline ∨ ftNs s ≤ r.since) →
        ∃ t, exec .lpService s = .next t ∧ t.out = .lpData (0x80 :: lpDescriptor s r) :: s.out ∧
          t.fry = { s.fry with lpAsk := none, lpHeld := some k, heldAt := ftNs s, lpBusy := false, csRise := ftNs s } ∧ partsBut [.fry, .out] s t)) ∧
    (rd s SYS_STATE_STATE ≠ stResting → ∀ tag st data, s.fry.lpHeld = none → exec (.lpComplete tag st data) s = .next (lpEnd s 8 [])) ∧
    (∀ k r u d, s.fry.lpHeld = some k → reqAt s k = some r → u = { s with fry := { s.fry with lpHeld := none } } →
      d = s.fry.heldAt + 1000 * (if rd s LP_CTRL_SVC_TMO = 0 then 100 else rd s LP_CTRL_SVC_TMO) →
      (rd s SYS_STATE_STATE ≠ stResting → d < ftNs s → ∀ tag st data, exec (.lpComplete tag st data) s = .next (lpEnd (wr (endReq u k 3 []) LP_EVT_SVC_TMO 1) 8 [])) ∧
      (rd s SYS_STATE_STATE ≠ stResting → ftNs s ≤ d → ∀ tag st data, tag ≠ r.tag → exec (.lpComplete tag st data) s = .next (lpEnd s 8 [])) ∧
      (rd s SYS_STATE_STATE ≠ stResting → ftNs s ≤ d → ∀ st data, exec (.lpComplete r.tag st data) s = .next (lpEnd (incWrap (endReq u k (codeOf st) (if r.op = 2 then [] else data.take r.count)) LP_CNT_SERVICE) 0 [])) ∧
      (∃ a t, a = { advanceTo s d with fry := u.fry } ∧ exec .lpSvcTmo s = .next t ∧ rd t LP_EVT_SVC_TMO = 1 ∧ regsOnly [LP_EVT_SVC_TMO.addr] (endReq a k 3 []) t)) ∧
    ∃ u, rd u LP_EVT_PROTO_ERR = 1 ∧ u.fry.lpBusy = false ∧ u.fry.csRise = ftNs s ∧ u.fry.lpHeld = s.fry.lpHeld ∧ u.fry.lpAsk = s.fry.lpAsk ∧
      u.fry.reqs = s.fry.reqs ∧ partsBut [.regs, .fry, .trd, .sys] s u ∧ cellsBut [LP_EVT_PROTO_ERR.addr] s u ∧
      exec (.lpProtoErr false) s = .next u ∧
      (s.fry.lpHeld = none → s.fry.lpAsk = none → exec (.lpProtoErr true) s = .next u) ∧
      ∀ k, (s.fry.lpHeld = some k ∨ s.fry.lpHeld = none ∧ s.fry.lpAsk = some k) →
        exec (.lpProtoErr true) s = .next (endReq { u with fry := { u.fry with lpHeld := none, lpAsk := none } } k 2 [])) ∧
  ∀ (s : State) (k st : Nat) (data : List Nat) (r : Req), reqAt s k = some r → st < 16 →
    (r.quiet = true → endReq s k st data = dropReq s k) ∧
    (r.quiet = false → endReq s k st data = respond (dropReq s k) r.src r.sport r.tag r.op st (if st = 0 then 0 else r.addr) (if st = 0 then data else []))

/-- Accesses of firmware through the outbound windows (R15, R316 to R319). A disabled window ends with TARGET_ERR; hub 0, an access over the window's end, or a read of hub 4,095
with BAD_REQ. Any other, not served from the initiator's buffer, is issued where the table of 32 has an entry, and waits otherwise; it takes the next tag, and stands in the table unless no
route leads to its hub. A response that matches TAG, hub and OP within the open time ends its transaction with its status and data, and the request that has waited longest follows; one later
(the transaction ends with TIMEOUT) or that matches none is logged, counted and raised as FRY_LATE. An end that is not OK is kept in LAST_ERR. The expiry of TMO ends with TIMEOUT, a wait for an entry with RETRY. A discarded buffer with
unread words is logged. -/
def Obligations.OutboundAccessesEnd : Prop :=
  (∀ (s : State) (ini a count : Nat) (data : List Nat), s.rst.busy = false → ini < 2 → isOutbound (a % 2 ^ 32) = true →
    (a % 4 = 0 → exec (.outboundRead ini a count) s = .next (outbound s ini 1 (a % 2 ^ 32) 1 0 []) ∧
      exec (.outboundWrite ini a data) s = .next (outbound s ini 2 (a % 2 ^ 32) 1 0 [data.headD 0])) ∧
    (a % 4 ≠ 0 → exec (.outboundRead ini a count) s = .next (s.emit (.busRsp ini 2 0)) ∧ exec (.outboundWrite ini a data) s = .next (s.emit (.busRsp ini 2 0)))) ∧
  (∀ (s : State) (ini op a count mask w off hub : Nat) (data : List Nat), w = bits a 24 4 → off = a % 2 ^ 24 → hub = rd s (FRY_OUT0_HUB w) →
    (rd s (FRY_OUT0_EN w) = 0 → outbound s ini op a count mask data = outEnd s ini w off 2 []) ∧
    (rd s (FRY_OUT0_EN w) = 1 → (2 ^ 24 < off + 4 * count ∨ hub = 0 ∨ hub = 4095 ∧ op ≠ 2) → outbound s ini op a count mask data = outEnd s ini w off 8 []) ∧
    (rd s (FRY_OUT0_EN w) = 1 → off + 4 * count ≤ 2 ^ 24 → hub ≠ 0 → (hub ≠ 4095 ∨ op = 2) → ∀ t x, t = outDiscard s ini op a count →
      (op ≠ 1 ∨ count ≠ 1 ∨ bufferWord t ini a = none) →
      x = { ini := ini, hub := hub, tag := 0, op := op, win := w, off := off, count := count, mask := mask, data := data,
            pf := decide (op = 1 ∧ count = 1 ∧ rd s (FRY_OUT0_PREF w) = 1), expires := 0 } →
      (t.fry.txns.length < 32 → t.fry.waiting = [] → outbound s ini op a count mask data = outIssue t x) ∧
      ((32 ≤ t.fry.txns.length ∨ t.fry.waiting ≠ []) → outbound s ini op a count mask data =
        { t with fry := { t.fry with waiting := t.fry.waiting ++ [{ x with expires := ftNs t + 1000 * outTmo t w }] } }))) ∧
  (∀ (s : State) (x y : Txn), y = { x with tag := rd s FRY_STATUS_NEXT_TAG, expires := ftNs s + 1000 * outTmo s x.win } →
    ∃ t r, rd t FRY_STATUS_NEXT_TAG = (rd s FRY_STATUS_NEXT_TAG + 1) % 2 ^ 16 ∧ regsOnly [FRY_STATUS_NEXT_TAG.addr] s t ∧
      r = insertFrame t (if x.ini = 3 then 3 else 4) (mHead (if x.hub = 4095 then tBwr else tReq) 5 (outPayload s y).length x.hub 0 0) (outPayload s y) (ftNs s) ∧
      (r.1 = .noRoute → outIssue s x = outEnd r.2 x.ini x.win x.off 7 []) ∧
      (r.1 ≠ .noRoute → outIssue s x = { r.2 with fry := { r.2.fry with txns := r.2.fry.txns ++ [y] } })) ∧
  (∀ (s : State) (ini win off st : Nat) (data : List Nat), ini ≠ 3 → win < 16 → off < 2 ^ 24 → st < 16 →
    (st = 0 → outEnd s ini win off st data = s.emit (.busRsp ini 0 (data.headD 0))) ∧
    (st ≠ 0 → ∃ t, outEnd s ini win off st data = t.emit (.busRsp ini st 0) ∧ rd t FRY_LAST_ERR_STATUS = st ∧ rd t FRY_LAST_ERR_WINDOW = win ∧
      rd t FRY_LAST_ERR_OFFSET = off ∧ regsOnly [FRY_LAST_ERR_STATUS.addr] s t)) ∧
  (∀ (s : State) (hub tag op st info : Nat) (data : List Nat), s.rst.busy = false → tag < 2 ^ 16 → hub < 2 ^ 12 →
    ((∀ x ∈ s.fry.txns, ¬ (x.tag = tag ∧ x.hub = hub ∧ x.op = op)) → exec (.mgmtRsp hub tag op st info data) s = .next (lateLog s hub tag op (codeOf st) info)) ∧
    (∃ i t, i = rd s FRY_LATE_PTR_NEXT ∧
      lateLog s hub tag op (codeOf st) info = (raise t 106 (tag + codeOf st * 2 ^ 16)) ∧ rd t (FRY_LATE0_TAG i) = tag ∧
      rd t (FRY_LATE0_STATUS i) = codeOf st % 2 ^ (FRY_LATE0_STATUS 0).w ∧ rd t (FRY_LATE1_HUB i) = hub ∧ rd t FRY_EVT_LATE = 1 ∧
      rd t FRY_LATE_PTR_NEXT = (i + 1) % 16 ∧ rd t FRY_CNT_LATE = min (rd s FRY_CNT_LATE + 1) (2 ^ FRY_CNT_LATE.w - 1) ∧ partsBut [.regs] s t) ∧
    (∀ x, s.fry.txns.find? (fun x => x.tag == tag && x.hub == hub && x.op == op) = some x → ∃ t, t = { s with fry := { s.fry with txns := s.fry.txns.erase x } } ∧
      (x.expires < ftNs s → exec (.mgmtRsp hub tag op st info data) s = .next (lateLog (outTimeout s x) hub tag op (codeOf st) info)) ∧
      (ftNs s ≤ x.expires → (codeOf st ≠ 0 ∨ x.pf = false) → exec (.mgmtRsp hub tag op st info data) s = .next (outPump (outEnd t x.ini x.win x.off (codeOf st) data))) ∧
      (ftNs s ≤ x.expires → codeOf st = 0 → x.pf = true → exec (.mgmtRsp hub tag op st info data) s = .next (outPump (fillEnd t x data))))) ∧
  (∀ (s : State) (x : Txn), s.rst.busy = false →
    (s.fry.txns.find? (fun y => y.tag == x.tag) = some x → exec (.outboundTimeout x.tag) s = .next (outTimeout s x)) ∧
    (∃ t, outTimeout s x = outPump (outEnd t x.ini x.win x.off 3 []) ∧
      t.fry = { s.fry with txns := s.fry.txns.erase x } ∧ rd t FRY_EVT_TIMEOUT = 1 ∧
      rd t FRY_CNT_TIMEOUT = min (rd s FRY_CNT_TIMEOUT + 1) (2 ^ FRY_CNT_TIMEOUT.w - 1) ∧ t.clk = (advanceTo s x.expires).clk ∧
      partsBut [.regs, .fry, .clk] s t ∧ cellsBut [FRY_EVT_TIMEOUT.addr, FRY_CNT_TIMEOUT.addr] s t) ∧
    ((s.fry.waiting = [] → exec .txTableFullTimeout s = .next s) ∧
      (x ∈ s.fry.waiting → ∃ y ∈ s.fry.waiting, (∀ z ∈ s.fry.waiting, y.expires ≤ z.expires) ∧
        exec .txTableFullTimeout s = .next (outEnd { advanceTo s y.expires with fry := { s.fry with waiting := s.fry.waiting.erase y } } y.ini y.win y.off 1 []))) ∧
    (∀ l, s.fry.waiting = x :: l → outPump s = if s.fry.txns.length < 32 then outIssue { s with fry := { s.fry with waiting := l } } x else s)) ∧
  ∀ (s : State) (ini : Nat), s.rst.busy = false →
    (tget (fun _ => none) s.fry.prefetch ini = none → exec (.prefetchDiscard ini) s = .next s) ∧
    ∀ p m, tget (fun _ => none) s.fry.prefetch ini = some p → m = maskOf 16 (fun k => p.words.any (·.1 == k) && !bitOf p.used k) →
      ∃ t, exec (.prefetchDiscard ini) s = .next t ∧ tget (fun _ => none) t.fry.prefetch ini = none ∧ partsBut [.regs, .fry, .clk] s t ∧
        t.clk = (advanceTo s (p.filled + 1000000)).clk ∧ (m = 0 → t.regs = s.regs) ∧ (m ≠ 0 → m < 2 ^ 16 → rd t FRY_PF_LOG_MASK = m ∧ rd t FRY_EVT_PF_DISC = 1 ∧ rd t FRY_PF_LOG_ADDR = p.addr % 2 ^ FRY_PF_LOG_ADDR.w)

/-- Commands of the Local Port (R324, R325), with the port enabled. In RESTING every command returns RESTING. One that ACC does not allow returns DENIED; in DUMP it returns RESTING; COUNT 0 or above 256 or an
unaligned address returns BAD_REQ. Otherwise an address in an outbound window goes out of it, and the words of a local address that nothing holds up are run in ascending order,
with the final byte 0x80 + status and, with OK, the words read. RXF_RD returns and removes the head frame of the receive queue, or LEN 0. TXF_WR inserts a native frame; a request to hub 0, or a read to
hub 4,095, returns BAD_REQ; OK and NO_ROUTE are its other statuses, and that of a frame refused is a free value (log entry 1). STAT returns LP_EVT and LP_STAT. -/
def Obligations.LocalPortIsServed : Prop :=
  (∀ (s : State) (a count mask v acc : Nat) (data : List Nat), s.rst.busy = false → rd s LP_CTRL_EN = 1 → acc = rd s LP_CTRL_ACC →
    (rd s SYS_STATE_STATE = stResting → exec (.lpRead a count) s = .next (lpEnd s 6 []) ∧ exec (.lpWrite a data) s = .next (lpEnd s 6 []) ∧
      exec (.lpRmw a mask v) s = .next (lpEnd s 6 [])) ∧
    (rd s SYS_STATE_STATE ≠ stResting → acc = 0 → exec (.lpRead a count) s = .next (lpEnd s 5 [])) ∧
    (rd s SYS_STATE_STATE ≠ stResting → acc < 2 → exec (.lpWrite a data) s = .next (lpEnd s 5 []) ∧ exec (.lpRmw a mask v) s = .next (lpEnd s 5 [])) ∧
    (rd s SYS_STATE_STATE = stDump → (acc ≠ 0 → exec (.lpRead a count) s = .next (lpEnd s 6 [])) ∧
      (2 ≤ acc → exec (.lpWrite a data) s = .next (lpEnd s 6 []) ∧ exec (.lpRmw a mask v) s = .next (lpEnd s 6 []))) ∧
    (rd s SYS_STATE_STATE ≠ stResting → rd s SYS_STATE_STATE ≠ stDump →
      (acc ≠ 0 → (count = 0 ∨ 256 < count ∨ a % 4 ≠ 0) → exec (.lpRead a count) s = .next (lpEnd s 8 [])) ∧
      (2 ≤ acc → (data = [] ∨ 256 < data.length ∨ a % 4 ≠ 0) → exec (.lpWrite a data) s = .next (lpEnd s 8 [])) ∧
      (2 ≤ acc → a % 4 ≠ 0 → exec (.lpRmw a mask v) s = .next (lpEnd s 8 [])) ∧
      ∀ t x, t = { s with fry := { s.fry with lpBusy := true } } → x = a % 2 ^ 32 → a % 4 = 0 →
        (isOutbound x = true →
          (acc ≠ 0 → 1 ≤ count → count ≤ 256 → exec (.lpRead a count) s = .next (outbound t 3 1 x count 0 [])) ∧
          (2 ≤ acc → 1 ≤ data.length → data.length ≤ 256 → exec (.lpWrite a data) s = .next (outbound t 3 2 x data.length 0 data)) ∧
          (2 ≤ acc → exec (.lpRmw a mask v) s = .next (outbound t 3 3 x 1 mask [v]))) ∧
        (isOutbound x = false → (∀ k < 256, waitsP4 s ((x + 4 * k) % 2 ^ 32) = false ∧ waitsNor s ((x + 4 * k) % 2 ^ 32) = false) →
          (∀ y, acc ≠ 0 → 1 ≤ count → count ≤ 256 → y = readRun t 3 x count [] → y.s.rst.busy = false → y.s.fry.lpBusy = true →
            exec (.lpRead a count) s = .next (lpEnd y.s y.st y.data)) ∧
          (∀ y, 2 ≤ acc → 1 ≤ data.length → data.length ≤ 256 → y = writeRun t 3 x ((List.range data.length).map fun k => data.getD k 0) →
            y.s.rst.busy = false → y.s.fry.lpBusy = true → exec (.lpWrite a data) s = .next (lpEnd y.s y.st y.data)) ∧
          (∀ y, 2 ≤ acc → y = rmwRun t 3 x mask v → y.s.rst.busy = false → y.s.fry.lpBusy = true → exec (.lpRmw a mask v) s = .next (lpEnd y.s y.st y.data))))) ∧
  (∀ s : State, s.rst.busy = false → rd s LP_CTRL_EN = 1 → rd s SYS_STATE_STATE = stResting →
    exec .lpRxfRd s = .next (lpEnd s 6 []) ∧ (∀ h p, exec (.lpTxfWr h p) s = .next (lpEnd s 6 [])) ∧ exec .lpStat s = .next (lpEnd s 6 [])) ∧
  (∀ s : State, s.rst.busy = false → rd s LP_CTRL_EN = 1 → rd s SYS_STATE_STATE ≠ stResting →
    (s.fry.rxq = [] → exec .lpRxfRd s = .next (lpSay s [0x80, 0, 0])) ∧
    (∀ f l, s.fry.rxq = f :: l → ∃ t, exec .lpRxfRd s = .next t ∧ t.fry = { s.fry with rxq := l, lpBusy := false, csRise := ftNs s } ∧
      t.out = .lpData (0x80 :: beBytes 2 f.length ++ f) :: s.out ∧ partsBut [.fry, .out] s t) ∧
    (∀ h p, mType h = tReq → mGroup h = false → s.sys.loaded = true → (mDst h = 0 → exec (.lpTxfWr h p) s = .next (lpEnd s 8 [])) ∧
      (mDst h = 4095 → beNat (slice p 2 1) = 1 → exec (.lpTxfWr h p) s = .next (lpEnd (insertFrame s 3 h p (ftNs s)).2 8 []))) ∧
    (∀ h p u, nativeType (mType h) = true → (insertFrame s 3 h p (ftNs s)).2 = u →
      (mType h ≠ tReq ∨ mGroup h = true ∨ s.sys.loaded = false ∨ mDst h ≠ 0 ∧ (mDst h = 4095 → beNat (slice p 2 1) ≠ 1)) →
      ((insertFrame s 3 h p (ftNs s)).1 = .ok → exec (.lpTxfWr h p) s = .next (lpEnd u 0 [])) ∧
      ((insertFrame s 3 h p (ftNs s)).1 = .noRoute → exec (.lpTxfWr h p) s = .next (lpEnd u 7 [])) ∧
      ((insertFrame s 3 h p (ftNs s)).1 = .refused → exec (.lpTxfWr h p) s = .next (lpSay u.used [BitVec.ofNat 8 (0x80 + freeOf u 4)]))) ∧
    (∀ h p, nativeType (mType h) = false → exec (.lpTxfWr h p) s = .next (lpSay s.used [BitVec.ofNat 8 (0x80 + freeOf s 4)])) ∧
    exec .lpStat s = .next (lpSay s (0x80 :: wordBytes [cellGet (seenCell s LP_EVT_CONTEND.addr).1 0 32, cellGet (seenCell s LP_STAT_MREQ.addr).1 0 32]))) ∧
  ∀ (s : State) (bs : List Byte) (st : Nat) (data : List Nat), (∃ t, lpSay s bs = t ∧ t.out = .lpData bs :: s.out ∧
      t.fry = { s.fry with lpBusy := false, csRise := ftNs s } ∧ partsBut [.fry, .out] s t) ∧
    lpEnd s st data = lpSay s (if st = 0 then BitVec.ofNat 8 (0x80 + st) :: wordBytes data else [BitVec.ofNat 8 (0x80 + st)])

/-- Raises at Tinker (R328 to R340, R343, R346). FAULT_RAISE shows the monitors' state and takes the raises of one cycle. A raise of a source set and not acknowledged is a repeat: it counts and replaces the cause
word. A new raise sets the status, is acknowledged where it is configured NOTE, takes a severity one level higher where its group is unacknowledged, never above FATAL, and is logged at NEXT; the first of at least FF_MIN
fills an empty first-fault record; from FLT_THR the FLT pair goes to fault, the source joins the driver set and MINW starts afresh. DEGRADE takes RUN to DEGRADED and HALT a
hub in service to HALTED, or both wait for ST14; in another state HALT takes back a RESUME that waits (log entry 122); FATAL starts a dump where a half is ready, and orders the
reset otherwise, an activation within its 40 ms noted. -/
def Obligations.RaisesAreNewOrRepeats : Prop :=
  (∀ (s : State) (l : List (Nat × Nat)) (temp rails : Nat), bitOf rails 5 = false →
    ∃ t, t = { s with tnk := { s.tnk with temp := temp % 4, rails := rails % 2 ^ 9 } } ∧ exec (.faultRaise l temp rails false) s = .next (raiseAll t l) ∧
      exec (.faultRaise l temp rails true) s = .next (raiseAll { t with regs := t.regs.filter fun c => !heldByBpd c.1, brns := [] } l)) ∧
  (∀ (s : State) (src cause : Nat), s.rst.busy = false → sourceRow src ≠ none → isRepeat s src = true → ∃ t, raise s src cause = t ∧
    rd t (TNK_SEV_REPEAT src) = min (rd s (TNK_SEV_REPEAT src) + 1) (2 ^ (TNK_SEV_REPEAT 0).w - 1) ∧ rd t (TNK_CAUSE_CAUSE src) = cause % 2 ^ 32 ∧
    regsOnly [(TNK_SEV_REPEAT src).addr, (TNK_CAUSE_CAUSE src).addr] s t) ∧
  (∀ (s : State) (src cause : Nat) (r : NewRaise), s.rst.busy = false → sourceRow src ≠ none → isRepeat s src = false → cause < 2 ^ 32 →
    r = ⟨src, cause, sevOf s src, effective s src⟩ →
    raise s src cause = react (fltRaise (tellFirmware (firstFault (logRaise false (doNew s r) r) [r]) r) [r]) [r]) ∧
  (∀ (s : State) (src : Nat), effective s src ≤ 4 ∧ sevOf s src ≤ effective s src ∧
    effective s src = if groupUnack s (src / 8) = true ∧ sevOf s src ≠ 0 then min 4 (sevOf s src + 1) else sevOf s src) ∧
  (∀ (s : State) (r : NewRaise), r.src < 128 → r.cause < 2 ^ 32 → r.cfg ≤ 4 → r.eff ≤ 4 →
    (∃ t, doNew s r = t ∧ stat t r.src = true ∧ Machine.ack t r.src = (r.cfg == 0) ∧ rd t (TNK_CAUSE_CAUSE r.src) = r.cause ∧ lastEff t r.src = r.eff ∧
      partsBut [.regs, .tnk] s t) ∧
    (∃ i t, i = rd s TNK_LOG_PTR_NEXT ∧ logRaise false s r = t ∧ rd t (TNK_LOG0_SRC i) = r.src ∧ rd t (TNK_LOG0_SEV_CFG i) = r.cfg ∧ rd t (TNK_LOG0_SEV_EFF i) = r.eff ∧
      rd t (TNK_LOG0_ESC i) = natOf (r.eff != r.cfg) ∧ rd t (TNK_LOG0_MULTI i) = 0 ∧ rd t (TNK_LOG_T_NS i) = ftNs s % 2 ^ 64 ∧ rd t (TNK_LOG3_CAUSE i) = r.cause ∧
      rd t TNK_LOG_PTR_NEXT = (i + 1) % 64 ∧ partsBut [.regs] s t) ∧
    (rd s TNK_FIRST_VALID = 1 ∨ r.eff < ffMin s → firstFault s [r] = s) ∧
    (rd s TNK_FIRST_VALID = 0 → ffMin s ≤ r.eff → ∃ t, firstFault s [r] = t ∧ rd t TNK_FIRST_SRC = r.src ∧ rd t TNK_FIRST_SEV_EFF = r.eff ∧ rd t TNK_FIRST_VALID = 1 ∧
      rd t TNK_EVT_FIRST = 1 ∧ rd t TNK_FIRST_T_NS = ftNs s % 2 ^ 64 ∧ partsBut [.regs] s t) ∧
    (r.eff < fltThr s → fltRaise s [r] = s) ∧
    (fltThr s ≤ r.eff → ∃ t, fltRaise s [r] = t ∧ rd t TNK_FLT_STATE = 1 ∧ rd t TNK_STATE_MINW_DONE = 0 ∧ t.tnk = { s.tnk with drivers := s.tnk.drivers ||| 2 ^ r.src, minwFrom := ftNs s } ∧
      (s.tnk.driven = true → rd t TNK_FLT_PIN_T = 1 ∧ rd t TNK_FLT_PIN_C = 0) ∧ partsBut [.regs, .tnk] s t)) ∧
  ∀ (s : State) (r : NewRaise),
    (r.eff < 2 → react s [r] = s) ∧
    (r.eff = 2 → (rd s SYS_STATE_STATE = stRun → ∃ t, react s [r] = t ∧ rd t SYS_STATE_STATE = stDegraded ∧ regsOnly [SYS_STATE_STATE.addr] s t) ∧
      ((rd s SYS_STATE_STATE = stStart ∨ rd s SYS_STATE_STATE = stJoining) → react s [r] = { s with tnk := { s.tnk with pendDeg := true } })) ∧
    (r.eff = 3 → ((rd s SYS_STATE_STATE = stRun ∨ rd s SYS_STATE_STATE = stDegraded) → react s [r] = enterStill s stHalted) ∧
      ((rd s SYS_STATE_STATE = stStart ∨ rd s SYS_STATE_STATE = stJoining) → react s [r] = { s with tnk := { s.tnk with pendHalt := true } })) ∧
    (r.eff = 3 → rd s SYS_STATE_STATE ≠ stRun → rd s SYS_STATE_STATE ≠ stDegraded → rd s SYS_STATE_STATE ≠ stStart → rd s SYS_STATE_STATE ≠ stJoining →
      react s [r] = { s with tnk := { s.tnk with resume := none } }) ∧
    ∀ u, u = { s with rst := { s.rst with resoleAlso := s.rst.resoleAlso || inActivation s } } →
    (r.eff = 4 → (rd s SYS_STATE_STATE = stDump → react s [r] = u) ∧
      (rd s SYS_STATE_STATE ≠ stDump → (s.sys.st05 = false ∨ rd s TNK_CTRL_DUMP_EN = 0 ∨ dumpHalf s = none) → react s [r] = orderReset u rFatal) ∧
      (rd s SYS_STATE_STATE ≠ stDump → s.sys.st05 = true → rd s TNK_CTRL_DUMP_EN = 1 → dumpHalf s ≠ none → ∃ t, t = enterStill u stDump ∧
        react s [r] = { t with tnk := { t.tnk with dump := (some ⟨r.src, ftNs s, dumpHalf s, r.src == 120 && r.cause % 4 == 3⟩ : Option Dump) } }))

/-- Acknowledging, clearing, re-arming, resuming at Tinker (R334, R337, R340, R341). A write of TNK_ACK acknowledges the sources it names whose status is set, and no source raised in its cycle. A write of TNK_STAT
clears the status and the acknowledgement of the sources it names whose cause is gone; a clear of a source whose cause is present is ignored, counted in CLR_REJ and sets the event. FF_REARM clears the
first-fault record and its bitmap, and the raises of its cycle follow. RESUME of a hub that is not HALTED, or with a source standing at HALT, is counted and sets RES_REJ; otherwise
it is accepted for the next tick boundary, where a hub still HALTED is back in service, in the state that R337 gives, and the Treadle takes that boundary as its next tick. No raise leaves every state as it is. -/
def Obligations.FaultsAreAcknowledgedAndCleared : Prop :=
  (∀ s : State, raiseAll s [] = s) ∧
  (∀ (s : State) (k mask : Nat) (same : List (Nat × Nat)), s.rst.busy = false → k < 4 →
    ((raiseAll s same).rst.busy = true → exec (.tnkAckWrite k mask same) s = .next (raiseAll s same)) ∧
    ((raiseAll s same).rst.busy = false → ∃ t, exec (.tnkAckWrite k mask same) s = .next t ∧ regsOnly [(TNK_ACK_ACK k).addr] (raiseAll s same) t ∧
      ∀ src < 128, Machine.ack t src = if src / 32 = k ∧ bitOf mask (src % 32) = true ∧ stat s src = true ∧ ∀ p ∈ same, p.1 ≠ src then true
        else Machine.ack (raiseAll s same) src)) ∧
  (∀ (s : State) (k mask : Nat), s.rst.busy = false → k < 4 → ∃ t, exec (.tnkStatClear k mask []) s = .next t ∧
      regsOnly [(TNK_STAT_STAT k).addr, (TNK_ACK_ACK k).addr, TNK_CNT_CLR_REJ.addr, TNK_EVT_CLR_REJ.addr] s t ∧
      (∀ src < 128, (stat t src, Machine.ack t src) = if src / 32 = k ∧ bitOf mask (src % 32) = true ∧ stat s src = true ∧ present s src = false then (false, false)
        else (stat s src, Machine.ack s src)) ∧
      ∀ n, n = ((List.range 32).filter fun b => bitOf mask b && stat s (32 * k + b) && present s (32 * k + b)).length →
        rd t TNK_CNT_CLR_REJ = min (rd s TNK_CNT_CLR_REJ + n) (2 ^ TNK_CNT_CLR_REJ.w - 1) ∧ (n ≠ 0 → rd t TNK_EVT_CLR_REJ = 1)) ∧
  (∀ (s : State) (same : List (Nat × Nat)), s.rst.busy = false → ∃ t, exec (.ffRearm same) s = .next (raiseAll t same) ∧ rd t TNK_FIRST_VALID = 0 ∧ rd t TNK_FIRST_SRC = 0 ∧
    rd t TNK_FIRST_SEV_EFF = 0 ∧ rd t TNK_FIRST_T_NS = 0 ∧ (∀ k < 4, rd t (TNK_FIRST_ALSO_ALSO k) = 0) ∧ partsBut [.regs] s t ∧
    cellsBut [TNK_FIRST_SRC.addr, TNK_FIRST_T_NS.addr, (TNK_FIRST_ALSO_ALSO 0).addr, (TNK_FIRST_ALSO_ALSO 1).addr, (TNK_FIRST_ALSO_ALSO 2).addr, (TNK_FIRST_ALSO_ALSO 3).addr] s t) ∧
  ∀ s : State, s.rst.busy = false →
    ((rd s SYS_STATE_STATE ≠ stHalted ∨ standing s 3 = true) → ∃ t, exec .resume s = .next t ∧ rd t TNK_EVT_RES_REJ = 1 ∧
      rd t TNK_CNT_RES_REJ = min (rd s TNK_CNT_RES_REJ + 1) (2 ^ TNK_CNT_RES_REJ.w - 1) ∧ regsOnly [TNK_EVT_RES_REJ.addr, TNK_CNT_RES_REJ.addr] s t) ∧
    (rd s SYS_STATE_STATE = stHalted → standing s 3 = false →
      (rd s TRD_TICK_NS_NS ≠ 0 → exec .resume s = .next { s with tnk := { s.tnk with resume := some (tickNow s + 1) } }) ∧
      (rd s TRD_TICK_NS_NS = 0 → exec .resume s = .next s)) ∧
    (∀ n t, s.tnk.resume = some n → t = { s with tnk := { s.tnk with resume := none } } →
      (tickNow s < n → resumeDue s = s) ∧
      (n ≤ tickNow s → rd s SYS_STATE_STATE ≠ stHalted → resumeDue s = t) ∧
      (n ≤ tickNow s → rd s SYS_STATE_STATE = stHalted → ∃ b, b = (boundaryNs s (rd s TRD_TICK_NS_NS) n).toNat ∧
        resumeDue s = backInService t (if standing t 2 = true ∨ rd t SYS_DEG_REASON ≠ 0 then stDegraded else stRun) b) ∧
      ∀ (u : State) (st ns : Nat), ∃ v, v = enterService u st ∧ backInService u st ns =
        brnFollowAll (each (List.range 16) sofGo { v with trd := { v.trd with since := some ns } }))

/-- The FLT pair (R343, R345). FLT_RELEASE after the raises of its cycle: the pair returns to OK, with an empty driver set, where MINW has elapsed and stays elapsed, and the cause of every driver
is gone, that of a reset at ST14; otherwise the release is counted in REL_REJ and sets the event; a pair that is OK stays as it is. With the reset as its one driver the hub releases the pair by itself. The end of MINW
is noted while the pair is in fault. -/
def Obligations.FltPairReturns : Prop :=
  (∀ s : State, ∃ t, fltOk s = t ∧ rd t TNK_FLT_STATE = 0 ∧ t.tnk = { s.tnk with drivers := 0, drvReset := false } ∧
    (s.tnk.driven = true → rd t TNK_FLT_PIN_T = 0 ∧ rd t TNK_FLT_PIN_C = 1) ∧ partsBut [.regs, .tnk] s t ∧ cellsBut [TNK_FLT_STATE.addr] s t) ∧
  (∀ s : State, fltMayRelease s = true ↔ rd s TNK_STATE_MINW_DONE = 1 ∧ (s.tnk.drvReset = true → s.tnk.st14 = true) ∧
    ∀ x < 128, bitOf s.tnk.drivers x = true → present s x = false) ∧
  (∀ (s : State) (same : List (Nat × Nat)), s.rst.busy = false → ∀ d u t, d = s.tnk.minwFrom + 1000000 * (if s.sys.loaded = false ∨ rd s TNK_CTRL_MINW = 0 then 20 else rd s TNK_CTRL_MINW) →
      u = (if rd s TNK_FLT_STATE = 1 ∧ d ≤ ftNs s then wr s TNK_STATE_MINW_DONE 1 else s) → t = raiseAll u same →
    ((t.rst.busy = true ∨ rd s TNK_FLT_STATE = 0) → exec (.fltRelease same) s = .next t) ∧
    (t.rst.busy = false → rd s TNK_FLT_STATE = 1 → fltMayRelease u = true → rd t TNK_STATE_MINW_DONE = 1 → exec (.fltRelease same) s = .next (fltOk t)) ∧
    (t.rst.busy = false → rd s TNK_FLT_STATE = 1 → (fltMayRelease u = false ∨ rd t TNK_STATE_MINW_DONE = 0) → ∃ v, exec (.fltRelease same) s = .next v ∧
      rd v TNK_EVT_REL_REJ = 1 ∧ rd v TNK_CNT_REL_REJ = min (rd t TNK_CNT_REL_REJ + 1) (2 ^ TNK_CNT_REL_REJ.w - 1) ∧ regsOnly [TNK_EVT_REL_REJ.addr, TNK_CNT_REL_REJ.addr] t v)) ∧
  (∀ (s : State) (d : Nat) (u : State), s.rst.busy = false →
    d = s.tnk.minwFrom + 1000000 * (if s.sys.loaded = false ∨ rd s TNK_CTRL_MINW = 0 then 20 else rd s TNK_CTRL_MINW) → u = advanceTo s d →
    (rd s TNK_FLT_STATE = 1 → s.tnk.st14 = true → s.tnk.drvReset = true → s.tnk.drivers = 0 → d ≤ ftNs u → exec .fltAutoRelease s = .next (fltOk (wr u TNK_STATE_MINW_DONE 1))) ∧
    ((rd s TNK_FLT_STATE = 0 ∨ s.tnk.st14 = false ∨ s.tnk.drvReset = false ∨ s.tnk.drivers ≠ 0) → exec .fltAutoRelease s = .next s) ∧
    (rd s TNK_FLT_STATE = 1 → exec .minwElapsed s = .next (wr u TNK_STATE_MINW_DONE 1)) ∧
    (rd s TNK_FLT_STATE = 0 → exec .minwElapsed s = .next s))

/-- R344, of the command FLT_READBACK, which says that the pins FLT_T and FLT_C have read the levels a and b for 10 µs. The levels read are shown. Where the hub drives the pins, FLT_T at STATE and FLT_C at its complement, and either level
read differs from the level driven, RB_ERR and FLT_RB are set, and nothing else changes (while the hub domain is in reset those two bits stay as they are); where the levels agree, or the pins are not driven, both bits stay. -/
def Obligations.FltPinsAreReadBack : Prop :=
  ∀ (s : State) (a b : Bool), ∃ t, exec (.fltReadback a b) s = .next t ∧ rd t TNK_FLT_PIN_T = natOf a ∧ rd t TNK_FLT_PIN_C = natOf b ∧
    rd t TNK_FLT_STATE = rd s TNK_FLT_STATE ∧ regsOnly [TNK_FLT_STATE.addr, TNK_EVT_FLT_RB.addr] s t ∧
    (s.tnk.driven = true → (natOf a ≠ rd s TNK_FLT_STATE ∨ natOf b ≠ 1 - rd s TNK_FLT_STATE) → s.rst.busy = false →
      rd t TNK_FLT_RB_ERR = 1 ∧ rd t TNK_EVT_FLT_RB = 1) ∧
    (s.tnk.driven = false ∨ (natOf a = rd s TNK_FLT_STATE ∧ natOf b = 1 - rd s TNK_FLT_STATE) ∨ s.rst.busy = true →
      rd t TNK_FLT_RB_ERR = rd s TNK_FLT_RB_ERR ∧ rd t TNK_EVT_FLT_RB = rd s TNK_EVT_FLT_RB)

/-- Resole's sessions (R372 to R376, R381). OPEN with good fields of an IDLE session without a standing trial opens it with its SESSION, size and an empty granule map, and has a flash destination erased; it ends BAD_FIELD or ORDER otherwise. BLOCK ends with the
first check it fails: a bad CRC or differing bytes are counted, a failed program returns the session to IDLE; an accepted block marks each of its granules received, and programs no byte outside the block. SEAL needs every granule.
Its checks end in SEALED, with DIGEST and the SEALED mark in the state page alone, or in IDLE with their code. An erase leaves its area unlisted and sets ERASED. While PFW_N is low, what programs or erases waits. Each command is
answered by the status of its code; in RESTING or DUMP it ends with RESTING, and before ST08, but for SAFE, with RETRY. -/
def Obligations.ImagesAreReceivedAndSealed : Prop :=
  (∀ (s : State) (kind c : Nat), kind = 1 ∨ kind = 2 ∨ kind = 3 → c < 16 → ∃ t, rslEnd s [kind] c = t ∧ rd t (RSL_SESS_RESULT (kind - 1)) = c ∧ t.out = .busRsp iniMgmt (rslStatus c) 0 :: s.out ∧
    rd t (RSL_SESS_STATE (kind - 1)) = rd s (RSL_SESS_STATE (kind - 1)) ∧ rd t (RSL_SESS_SESSION (kind - 1)) = rd s (RSL_SESS_SESSION (kind - 1)) ∧
    partsBut [.regs, .out] s t ∧ cellsBut [(RSL_SESS_RESULT (kind - 1)).addr] s t) ∧
  (rslStatus 0 = scOk ∧ rslStatus 1 = scRetry ∧ rslStatus 2 = scBadReq ∧ ∀ c, 2 < c → rslStatus c = scDenied) ∧
  (∀ (s : State) (c : Instr), s.rst.busy = false → ((∃ session kind size fmt, c = .rslOpen session kind size fmt) ∨
      (∃ session kind off len crc ok, c = .rslBlock session kind off len crc ok) ∨ ∃ session kind, c = .rslSeal session kind) →
    ((rd s SYS_STATE_STATE = stResting ∨ rd s SYS_STATE_STATE = stDump) → exec c s = .next (s.emit (.busRsp 2 6 0))) ∧
    (rd s SYS_STATE_STATE ≠ stResting → rd s SYS_STATE_STATE ≠ stDump → s.sys.loaded = false → rd s SYS_STATE_STATE ≠ stSafe → exec c s = .next (s.emit (.busRsp 2 1 0)))) ∧
  (∀ (s : State) (session kind size fmt : Nat), s.rst.busy = false → rd s SYS_STATE_STATE ≠ stResting → rd s SYS_STATE_STATE ≠ stDump → (s.sys.loaded = true ∨ rd s SYS_STATE_STATE = stSafe) → kind = 1 ∨ kind = 2 ∨ kind = 3 →
    ((size < 256 ∨ maxLength kind < size ∨ 2 ^ 16 ≤ session ∨ 2 ^ 16 ≤ fmt) → exec (.rslOpen session kind size fmt) s = .next (rslEnd s [kind] reBadField)) ∧
    (256 ≤ size → size ≤ maxLength kind → session < 2 ^ 16 → fmt < 2 ^ 16 →
      ((sess s kind ≠ ssIdle ∨ (kind ≠ 3 ∧ trialArea s kind ≠ none)) → exec (.rslOpen session kind size fmt) s = .next (rslEnd s [kind] reOrder)) ∧
      (sess s kind = ssIdle → (kind = 3 ∨ trialArea s kind = none) → ∃ t, exec (.rslOpen session kind size fmt) s = .next (rslEnd t [kind] reOk) ∧ sess t kind = ssOpen ∧
        rd t (RSL_SESS_SESSION (kind - 1)) = session ∧ rd t (RSL_RCVD_GRANULES (kind - 1)) = 0 ∧ rd t (RSL_RCVD_ERASED (kind - 1)) = 0 ∧ rslSize t kind = size ∧ rslGran t kind = [] ∧
        (kind ≠ 3 → t.rsl.erasing.find? (·.1 == kind) = some (kind, destArea s kind)) ∧ partsBut [.regs, .rsl] s t ∧
        cellsBut [(RSL_SESS_STATE (kind - 1)).addr, (RSL_RCVD_GRANULES (kind - 1)).addr] s t))) ∧
  (∀ (s : State) (session kind off len crc c : Nat) (ok : Bool), s.rst.busy = false → rd s SYS_STATE_STATE ≠ stResting → rd s SYS_STATE_STATE ≠ stDump → (s.sys.loaded = true ∨ rd s SYS_STATE_STATE = stSafe) → kind = 1 ∨ kind = 2 ∨ kind = 3 → c = blockResult s session kind off len crc ok →
    (s.sys.pfwLow = true → ∃ y, y = { s.sys with held := s.sys.held ++ [.rslBlock session kind off len crc ok] } ∧ exec (.rslBlock session kind off len crc ok) s = .next { s with sys := y }) ∧
    (s.sys.pfwLow = false → ∃ t, exec (.rslBlock session kind off len crc ok) s = .next (rslEnd t [kind] c) ∧
      ((c = reBadField ∨ c = reOrder ∨ c = reBusy) → t = s) ∧
      ((c = reCrc ∨ c = reDiff) → rd t (RSL_RCVD_REFUSED (kind - 1)) = min (rd s (RSL_RCVD_REFUSED (kind - 1)) + 1) (2 ^ 16 - 1) ∧ partsBut [.regs] s t) ∧
      (c = reDiff → rd t RSL_EVT_DIFF = 1) ∧ (c = reNor → sess t kind = ssIdle) ∧
      (c = reOk → t = each (granules off len) (granTake kind off (stagedBytes s kind len)) s ∧ (stagedBytes s kind len).length = min len (4 * ((len + 3) / 4)) ∧
        (∀ g ∈ granules off len, g ∈ rslGran t kind) ∧ (∀ g ∈ rslGran s kind, g ∈ rslGran t kind) ∧ partsBut [.regs, .mem, .rsl] s t)) ∧
    (c = reOk → off % 512 = 0 ∧ sess s kind = ssOpen ∧ rd s (RSL_SESS_SESSION (kind - 1)) = session ∧ off + len ≤ rslSize s kind ∧ crc32c (stagedBytes s kind len) = crc)) ∧
  (∀ (s : State) (kind off g base : Nat) (bs : List Byte), kind = 1 ∨ kind = 2 ∨ kind = 3 → off % 512 = 0 → off / 512 ≤ g → base = (if kind = 3 then keyBase else norBase + areaBase kind (destArea s kind)) →
    ∃ t, granTake kind off bs s g = t ∧ partsBut [.regs, .mem, .rsl] s t ∧ g ∈ rslGran t kind ∧ (∀ j ∈ rslGran s kind, j ∈ rslGran t kind) ∧
      ∀ b, (b < base + off ∨ base + off + bs.length ≤ b) → memGet t b = memGet s b) ∧
  (∀ (s : State) (session kind : Nat), s.rst.busy = false → rd s SYS_STATE_STATE ≠ stResting → rd s SYS_STATE_STATE ≠ stDump → (s.sys.loaded = true ∨ rd s SYS_STATE_STATE = stSafe) → kind = 1 ∨ kind = 2 ∨ kind = 3 → session < 2 ^ 16 →
    ((sess s kind ≠ ssOpen ∨ rd s (RSL_SESS_SESSION (kind - 1)) ≠ session) → exec (.rslSeal session kind) s = .next (rslEnd s [kind] reOrder)) ∧
    (sess s kind = ssOpen → rd s (RSL_SESS_SESSION (kind - 1)) = session →
      ((∃ g < (rslSize s kind + 511) / 512, g ∉ rslGran s kind) → exec (.rslSeal session kind) s = .next (rslEnd s [kind] reIncomplete)) ∧
      ((∀ g < (rslSize s kind + 511) / 512, g ∈ rslGran s kind) → ∃ t, exec (.rslSeal session kind) s = .next (rslEnd t [kind] reOk) ∧ sess t kind = ssSealing ∧
        regsOnly [(RSL_SESS_STATE (kind - 1)).addr] s t))) ∧
  ∀ (s : State) (kind : Nat) (ok : Bool), s.rst.busy = false → s.sys.pfwLow = false → kind = 1 ∨ kind = 2 ∨ kind = 3 →
    (sess s kind ≠ ssSealing → exec (.sealComplete kind ok) s = .next s) ∧
    (sess s kind = ssSealing → sealResult s kind ≠ reOk → ∃ t, exec (.sealComplete kind ok) s = .next t ∧ sess t kind = ssIdle ∧ rd t RSL_EVT_SEAL_FAIL = 1 ∧
      rd t (RSL_SESS_RESULT (kind - 1)) = sealResult s kind % 16 ∧ regsOnly [(RSL_SESS_STATE (kind - 1)).addr, RSL_EVT_SEAL_FAIL.addr] s t) ∧
    (sess s kind = ssSealing → sealResult s kind = reOk → (ok = true ∨ kind = 3) → ∃ t, exec (.sealComplete kind ok) s = .next t ∧ sess t kind = ssSealed ∧ rd t RSL_EVT_SEALED = 1 ∧
      rd t (RSL_SESS_RESULT (kind - 1)) = reOk ∧ (kind = 3 → memSame s t) ∧
      (kind ≠ 3 → (∀ i < 4, memGet t (norBase + statePage kind (destArea s kind) + mSealed + i) = 0) ∧
        (∀ i < 32, memGet t (norBase + statePage kind (destArea s kind) + 32 + i) = memGet s (norBase + statePage kind (destArea s kind) + 32 + i) &&& (beBytes 32 (imgHash (rslImage s kind)).toNat).getD i 0) ∧
        ∀ b, (b < norBase + statePage kind (destArea s kind) ∨ norBase + statePage kind (destArea s kind) + 64 ≤ b) → memGet t b = memGet s b) ∧
      partsBut [.regs, .mem] s t ∧ cellsBut [(RSL_SESS_STATE (kind - 1)).addr, RSL_EVT_SEALED.addr] s t) ∧
    (∀ k, s.rsl.erasing.find? (·.1 == kind) = some (kind, k) → ∃ t, exec (.destinationEraseDone kind) s = .next t ∧ rd t (RSL_RCVD_ERASED (kind - 1)) = 1 ∧
      t.rsl.erasing.find? (·.1 == kind) = none ∧ (∀ b, memGet t b = if norBase + areaBase kind k ≤ b ∧ b < norBase + areaBase kind k + areaSize kind then unlisted b else memGet s b) ∧
      partsBut [.regs, .mem, .rsl] s t ∧ cellsBut [(RSL_RCVD_ERASED (kind - 1)).addr] s t) ∧
    (s.rsl.erasing.find? (·.1 == kind) = none → exec (.destinationEraseDone kind) s = .next s)

/-- What Resole does with sealed images (R374, R377 to R379, R381 to R383, R385). A mark of a state page programs its four bytes to 0 and no other byte of memory. ACTIVATE that ends OK had each named session SEALED under its SESSION, and arms it with
TICK, and the trial limits for flash kinds; every other end leaves the state. CONFIRM and ABORT act kind by kind: the trial area is marked CONFIRMED, the other SUPERSEDED, and the anti-rollback count rises to the image's; or the session is
IDLE and the trial area FALLEN. SCHED_LOAD that ends OK sets PEND_VALID and PEND_READY. At the activation instant, the end of P4 of the first tick from TICK on, or that of tick TICK where none runs, the channels stop, the request goes to VDD_AON
and the reset RESOLE or FULL is ordered; a KEY image takes effect without one. An hour on
trial programs one HOURS byte to 0 and no other. -/
def Obligations.ImagesActivateAndAreConfirmed : Prop :=
  (∀ (s : State) (kind k m : Nat), ∃ t, setMark s kind k m = t ∧ (∀ i < 4, memGet t (norBase + (statePage kind k + m) + i) = 0) ∧
    (∀ b, (b < norBase + (statePage kind k + m) ∨ norBase + (statePage kind k + m) + 4 ≤ b) → memGet t b = memGet s b) ∧ partsBut [.mem] s t) ∧
  (∀ (s : State), ∃ t, trialShow s = t ∧ rd t RSL_STATUS_TRIAL_FW = natOf (onTrial s kFw s.sys.fwSlot) ∧ rd t RSL_STATUS_TRIAL_LAST = natOf (onTrial s kLast s.sys.lastArea) ∧ regsOnly [RSL_STATUS_STARTS.addr] s t) ∧
  (∀ (s : State) (c : Instr), s.rst.busy = false → ((∃ session kmask tick starts hours full, c = .rslActivate session kmask tick starts hours full) ∨
      (∃ kmask, c = .rslConfirm kmask ∨ c = .rslAbort kmask) ∨ ∃ session, c = .schedLoad session) →
    ((rd s SYS_STATE_STATE = stResting ∨ rd s SYS_STATE_STATE = stDump) → exec c s = .next (s.emit (.busRsp 2 6 0))) ∧
    (rd s SYS_STATE_STATE ≠ stResting → rd s SYS_STATE_STATE ≠ stDump → s.sys.loaded = false → rd s SYS_STATE_STATE ≠ stSafe → exec c s = .next (s.emit (.busRsp 2 1 0)))) ∧
  (∀ (s : State) (session kmask tick starts hours c : Nat) (full : Bool), s.rst.busy = false → rd s SYS_STATE_STATE ≠ stResting → rd s SYS_STATE_STATE ≠ stDump → (s.sys.loaded = true ∨ rd s SYS_STATE_STATE = stSafe) → c = activateResult s session kmask tick starts hours full →
    ((kmask = 0 ∨ 8 ≤ kmask ∨ (bitOf kmask 2 = true ∧ kmask ≠ 4) ∨ modDiff 32 tick (tickNow s) ≤ 0 ∨ 2 ^ 24 < modDiff 32 tick (tickNow s) ∨ starts = 0 ∨ 255 < starts) → c = reBadField) ∧
    (c ≠ reOk → exec (.rslActivate session kmask tick starts hours full) s = .next (rslEnd s (kindsOf kmask) c)) ∧
    (c = reOk → (∀ k ∈ kindsOf kmask, sess s k = ssSealed ∧ rd s (RSL_SESS_SESSION (k - 1)) = session) ∧ 0 < modDiff 32 tick (tickNow s) ∧ modDiff 32 tick (tickNow s) ≤ 2 ^ 24 ∧ 1 ≤ starts ∧ starts ≤ 255 ∧
      ∃ t, exec (.rslActivate session kmask tick starts hours full) s = .next (rslEnd t (kindsOf kmask) reOk) ∧ (∀ k ∈ kindsOf kmask, sess t k = ssArmed) ∧ rd t RSL_ACT_TICK = tick % 2 ^ 32 ∧
        (kmask = 4 → t.rsl = s.rsl) ∧ (kmask ≠ 4 → t.rsl = { s.rsl with starts := starts, hours := hours, full := full }) ∧ partsBut [.regs, .rsl] s t ∧
        cellsBut [RSL_ACT_TICK.addr, (RSL_SESS_STATE 0).addr, (RSL_SESS_STATE 1).addr, (RSL_SESS_STATE 2).addr] s t)) ∧
  (∀ (s : State) (kmask : Nat), s.rst.busy = false → rd s SYS_STATE_STATE ≠ stResting → rd s SYS_STATE_STATE ≠ stDump → (s.sys.loaded = true ∨ rd s SYS_STATE_STATE = stSafe) → 
    (s.sys.pfwLow = true → ∀ c, c = .rslConfirm kmask ∨ c = .rslAbort kmask → ∃ y, y = { s.sys with held := s.sys.held ++ [c] } ∧ exec c s = .next { s with sys := y }) ∧
    (s.sys.pfwLow = false → (kmask = 0 ∨ 8 ≤ kmask → exec (.rslConfirm kmask) s = .next (rslEnd s [] reBadField) ∧ exec (.rslAbort kmask) s = .next (rslEnd s [] reBadField)) ∧
      (0 < kmask → kmask < 8 →
        ((∃ k ∈ kindsOf kmask, k = 3 ∨ trialArea s k = none) → exec (.rslConfirm kmask) s = .next (rslEnd s (kindsOf kmask) reOrder)) ∧
        ((∀ k ∈ kindsOf kmask, k ≠ 3 ∧ trialArea s k ≠ none) → ∃ u t, u = each (kindsOf kmask) confirmKind s ∧ t = trialShow (wr u RSL_EVT_CONFIRMED 1) ∧
          exec (.rslConfirm kmask) s = .next (rslEnd t (kindsOf kmask) reOk) ∧ rd t RSL_EVT_CONFIRMED = 1 ∧ regsOnly [RSL_STATUS_STARTS.addr, RSL_EVT_CONFIRMED.addr] u t) ∧
        ∃ u, u = each (kindsOf kmask) abortKind s ∧ exec (.rslAbort kmask) s = .next (rslEnd (trialShow u) (kindsOf kmask) reOk)))) ∧
  (∀ (s : State) (kind : Nat), kind = 1 ∨ kind = 2 →
    (∀ k, trialArea s kind = some k → ∃ t u, u = setMark (setMark s kind k mConfirmed) kind (1 - k) mSuperseded ∧ confirmKind s kind = t ∧ t.mem = u.mem ∧
      t.otp = { s.otp with arb := max s.otp.arb (imgArb (areaImage s kind k)) } ∧ partsBut [.mem, .otp] s t) ∧
    (∃ t, abortKind s kind = t ∧ sess t kind = ssIdle ∧ partsBut [.regs, .mem] s t ∧ cellsBut [(RSL_SESS_STATE (kind - 1)).addr] s t ∧ (trialArea s kind = none → memSame s t) ∧
      ∀ k, trialArea s kind = some k → t.mem = (setMark s kind k mFallen).mem)) ∧
  (∀ (s : State) (session c : Nat), s.rst.busy = false → rd s SYS_STATE_STATE ≠ stResting → rd s SYS_STATE_STATE ≠ stDump → (s.sys.loaded = true ∨ rd s SYS_STATE_STATE = stSafe) → c = schedResult s session →
    (c ≠ reOk → exec (.schedLoad session) s = .next (rslEnd s [kLast] c)) ∧
    (c = reOk → (sess s kLast = ssSealed ∨ sess s kLast = ssArmed) ∧ rd s (RSL_SESS_SESSION 1) = session ∧
      0 < modDiff 8 (imgMin (areaImage s kLast (destArea s kLast)) % 256) (rd s TRN_SCHED_ACT_VER) ∧
      ∃ t, exec (.schedLoad session) s = .next (rslEnd t [kLast] reOk) ∧ rd t TRN_SCHED_PEND_VALID = 1 ∧ rd t RSL_STATUS_PEND_READY = 1 ∧
        rd t TRN_SCHED_PEND_VER = imgMin (areaImage s kLast (destArea s kLast)) % 256)) ∧
  (∀ (s : State) (v : State), s.rst.busy = false → v = toActivation s →
    ((rd s TRD_STATUS_PHASE = 4 → v = toCycle s (tickEnd s)) ∧ (rd s TRD_STATUS_PHASE ≠ 4 → trdRuns s = true → v = s) ∧
      (rd s TRD_STATUS_PHASE ≠ 4 → trdRuns s = false → ∀ n c, n = tickNow s + modDiff 32 (rd s RSL_ACT_TICK) (tickNow s) →
        c = rd s TRD_P1P3_P1_LEN + p2Len s + rd s TRD_P1P3_P3_LEN + rd s TRD_P2P4_P4_LEN → v = advanceTo s ((boundaryNs s (tickNs s) n).toNat + (8 * c + 4) / 5))) ∧
    (((sess s kFw ≠ ssArmed ∧ sess s kLast ≠ ssArmed) ∨ actReached s = false) → exec .resoleActivation s = .next s) ∧
    ((sess s kFw = ssArmed ∨ sess s kLast = ssArmed) → actReached s = true → ∃ t, t.act = some ⟨if sess s kFw = ssArmed then some (destArea s kFw) else none, if sess s kLast = ssArmed then some (destArea s kLast) else none,
        s.rsl.starts, s.rsl.hours⟩ ∧ partsBut [.act] (chnParkAll v) t ∧ ((∀ n < 48, chnState v n ≠ cRun) → chnParkAll v = v) ∧
      (s.rsl.full = true → exec .resoleActivation s = .next (recordCauses (orderReset t rFull) (BitVec.ofNat 8 (2 ^ rFull + 2 ^ rResole)))) ∧
      (s.rsl.full = false → exec .resoleActivation s = .next (orderReset t rResole))) ∧
    ((sess s kKey ≠ ssArmed ∨ actReached s = false) → exec .keyActivation s = .next s) ∧
    (sess s kKey = ssArmed → actReached s = true → ∃ t, exec .keyActivation s = .next t ∧ sess t kKey = ssIdle ∧ t.otp = (keyApply v (rslImage v kKey)).otp ∧
      (keyAllowed v (rslImage v kKey) = false → t.otp = v.otp) ∧ partsBut [.regs, .otp] v t ∧ cellsBut [(RSL_SESS_STATE 2).addr] v t)) ∧
  ∀ (s : State), s.rst.busy = false → s.sys.pfwLow = false →
    (running s = false → exec .trialHour s = .next s) ∧
    (running s = true → ∃ u, u = each ([kFw, kLast].filter fun k => onTrial s k (runArea s k) && decide (trialHours s k (runArea s k) < 1024)) (fun t k => countHour t k (runArea t k)) s ∧ exec .trialHour s = .next (trialShow u)) ∧
    (∀ kind k, ∃ t, countHour s kind k = t ∧ memGet t (norBase + (statePage kind k + 320 + trialHours s kind k)) = 0 ∧
      (∀ b, b ≠ norBase + (statePage kind k + 320 + trialHours s kind k) → memGet t b = memGet s b) ∧ partsBut [.mem] s t)
end

