-- ==== Sys2Proof/Laws/State.lean ====
section
/-! SUPPORT. What one update of the state leaves as it was: one lemma per field and update, so that no later proof unfolds
a record update. -/

namespace Sys2Proof.Machine

variable (s : State)

/-! ### `setCell` writes `regs` alone -/

@[simp] theorem setCell_mem (a : Nat) (c : Cell) : (setCell s a c).mem = s.mem := (rfl)
@[simp] theorem setCell_clk (a : Nat) (c : Cell) : (setCell s a c).clk = s.clk := (rfl)
@[simp] theorem setCell_wide (a : Nat) (c : Cell) : (setCell s a c).wide = s.wide := (rfl)
@[simp] theorem setCell_rst (a : Nat) (c : Cell) : (setCell s a c).rst = s.rst := (rfl)
@[simp] theorem setCell_ports (a : Nat) (c : Cell) : (setCell s a c).ports = s.ports := (rfl)
@[simp] theorem setCell_trn (a : Nat) (c : Cell) : (setCell s a c).trn = s.trn := (rfl)
@[simp] theorem setCell_ldg (a : Nat) (c : Cell) : (setCell s a c).ldg = s.ldg := (rfl)
@[simp] theorem setCell_xb (a : Nat) (c : Cell) : (setCell s a c).xb = s.xb := (rfl)
@[simp] theorem setCell_fry (a : Nat) (c : Cell) : (setCell s a c).fry = s.fry := (rfl)
@[simp] theorem setCell_bell (a : Nat) (c : Cell) : (setCell s a c).bell = s.bell := (rfl)
@[simp] theorem setCell_ppsOut (a : Nat) (c : Cell) : (setCell s a c).ppsOut = s.ppsOut := (rfl)
@[simp] theorem setCell_ppsRise (a : Nat) (c : Cell) : (setCell s a c).ppsRise = s.ppsRise := (rfl)
@[simp] theorem setCell_trd (a : Nat) (c : Cell) : (setCell s a c).trd = s.trd := (rfl)
@[simp] theorem setCell_drv (a : Nat) (c : Cell) : (setCell s a c).drv = s.drv := (rfl)
@[simp] theorem setCell_chns (a : Nat) (c : Cell) : (setCell s a c).chns = s.chns := (rfl)
@[simp] theorem setCell_stg (a : Nat) (c : Cell) : (setCell s a c).stg = s.stg := (rfl)
@[simp] theorem setCell_stgTick (a : Nat) (c : Cell) : (setCell s a c).stgTick = s.stgTick := (rfl)
@[simp] theorem setCell_stgOld (a : Nat) (c : Cell) : (setCell s a c).stgOld = s.stgOld := (rfl)
@[simp] theorem setCell_cans (a : Nat) (c : Cell) : (setCell s a c).cans = s.cans := (rfl)
@[simp] theorem setCell_rxmLast (a : Nat) (c : Cell) : (setCell s a c).rxmLast = s.rxmLast := (rfl)
@[simp] theorem setCell_rxmAged (a : Nat) (c : Cell) : (setCell s a c).rxmAged = s.rxmAged := (rfl)
@[simp] theorem setCell_asyNext (a : Nat) (c : Cell) : (setCell s a c).asyNext = s.asyNext := (rfl)
@[simp] theorem setCell_asyRetry (a : Nat) (c : Cell) : (setCell s a c).asyRetry = s.asyRetry := (rfl)
@[simp] theorem setCell_bad (a : Nat) (c : Cell) : (setCell s a c).bad = s.bad := (rfl)
@[simp] theorem setCell_lines (a : Nat) (c : Cell) : (setCell s a c).lines = s.lines := (rfl)
@[simp] theorem setCell_quads (a : Nat) (c : Cell) : (setCell s a c).quads = s.quads := (rfl)
@[simp] theorem setCell_adc (a : Nat) (c : Cell) : (setCell s a c).adc = s.adc := (rfl)
@[simp] theorem setCell_brns (a : Nat) (c : Cell) : (setCell s a c).brns = s.brns := (rfl)
@[simp] theorem setCell_tnk (a : Nat) (c : Cell) : (setCell s a c).tnk = s.tnk := (rfl)
@[simp] theorem setCell_sys (a : Nat) (c : Cell) : (setCell s a c).sys = s.sys := (rfl)
@[simp] theorem setCell_otp (a : Nat) (c : Cell) : (setCell s a c).otp = s.otp := (rfl)
@[simp] theorem setCell_act (a : Nat) (c : Cell) : (setCell s a c).act = s.act := (rfl)
@[simp] theorem setCell_rsl (a : Nat) (c : Cell) : (setCell s a c).rsl = s.rsl := (rfl)
@[simp] theorem setCell_pending (a : Nat) (c : Cell) : (setCell s a c).pending = s.pending := (rfl)
@[simp] theorem setCell_fresh (a : Nat) (c : Cell) : (setCell s a c).fresh = s.fresh := (rfl)
@[simp] theorem setCell_out (a : Nat) (c : Cell) : (setCell s a c).out = s.out := (rfl)

/-! ### `wr` writes `regs` alone -/

@[simp] theorem wr_mem (f : Fld) (v : Nat) : (wr s f v).mem = s.mem := (rfl)
@[simp] theorem wr_clk (f : Fld) (v : Nat) : (wr s f v).clk = s.clk := (rfl)
@[simp] theorem wr_wide (f : Fld) (v : Nat) : (wr s f v).wide = s.wide := (rfl)
@[simp] theorem wr_rst (f : Fld) (v : Nat) : (wr s f v).rst = s.rst := (rfl)
@[simp] theorem wr_ports (f : Fld) (v : Nat) : (wr s f v).ports = s.ports := (rfl)
@[simp] theorem wr_trn (f : Fld) (v : Nat) : (wr s f v).trn = s.trn := (rfl)
@[simp] theorem wr_ldg (f : Fld) (v : Nat) : (wr s f v).ldg = s.ldg := (rfl)
@[simp] theorem wr_xb (f : Fld) (v : Nat) : (wr s f v).xb = s.xb := (rfl)
@[simp] theorem wr_fry (f : Fld) (v : Nat) : (wr s f v).fry = s.fry := (rfl)
@[simp] theorem wr_bell (f : Fld) (v : Nat) : (wr s f v).bell = s.bell := (rfl)
@[simp] theorem wr_ppsOut (f : Fld) (v : Nat) : (wr s f v).ppsOut = s.ppsOut := (rfl)
@[simp] theorem wr_ppsRise (f : Fld) (v : Nat) : (wr s f v).ppsRise = s.ppsRise := (rfl)
@[simp] theorem wr_trd (f : Fld) (v : Nat) : (wr s f v).trd = s.trd := (rfl)
@[simp] theorem wr_drv (f : Fld) (v : Nat) : (wr s f v).drv = s.drv := (rfl)
@[simp] theorem wr_chns (f : Fld) (v : Nat) : (wr s f v).chns = s.chns := (rfl)
@[simp] theorem wr_stg (f : Fld) (v : Nat) : (wr s f v).stg = s.stg := (rfl)
@[simp] theorem wr_stgTick (f : Fld) (v : Nat) : (wr s f v).stgTick = s.stgTick := (rfl)
@[simp] theorem wr_stgOld (f : Fld) (v : Nat) : (wr s f v).stgOld = s.stgOld := (rfl)
@[simp] theorem wr_cans (f : Fld) (v : Nat) : (wr s f v).cans = s.cans := (rfl)
@[simp] theorem wr_rxmLast (f : Fld) (v : Nat) : (wr s f v).rxmLast = s.rxmLast := (rfl)
@[simp] theorem wr_rxmAged (f : Fld) (v : Nat) : (wr s f v).rxmAged = s.rxmAged := (rfl)
@[simp] theorem wr_asyNext (f : Fld) (v : Nat) : (wr s f v).asyNext = s.asyNext := (rfl)
@[simp] theorem wr_asyRetry (f : Fld) (v : Nat) : (wr s f v).asyRetry = s.asyRetry := (rfl)
@[simp] theorem wr_bad (f : Fld) (v : Nat) : (wr s f v).bad = s.bad := (rfl)
@[simp] theorem wr_lines (f : Fld) (v : Nat) : (wr s f v).lines = s.lines := (rfl)
@[simp] theorem wr_quads (f : Fld) (v : Nat) : (wr s f v).quads = s.quads := (rfl)
@[simp] theorem wr_adc (f : Fld) (v : Nat) : (wr s f v).adc = s.adc := (rfl)
@[simp] theorem wr_brns (f : Fld) (v : Nat) : (wr s f v).brns = s.brns := (rfl)
@[simp] theorem wr_tnk (f : Fld) (v : Nat) : (wr s f v).tnk = s.tnk := (rfl)
@[simp] theorem wr_sys (f : Fld) (v : Nat) : (wr s f v).sys = s.sys := (rfl)
@[simp] theorem wr_otp (f : Fld) (v : Nat) : (wr s f v).otp = s.otp := (rfl)
@[simp] theorem wr_act (f : Fld) (v : Nat) : (wr s f v).act = s.act := (rfl)
@[simp] theorem wr_rsl (f : Fld) (v : Nat) : (wr s f v).rsl = s.rsl := (rfl)
@[simp] theorem wr_pending (f : Fld) (v : Nat) : (wr s f v).pending = s.pending := (rfl)
@[simp] theorem wr_fresh (f : Fld) (v : Nat) : (wr s f v).fresh = s.fresh := (rfl)
@[simp] theorem wr_out (f : Fld) (v : Nat) : (wr s f v).out = s.out := (rfl)

/-! ### `wrW` writes `regs` alone -/

@[simp] theorem wrW_mem (a v : Nat) : (wrW s a v).mem = s.mem := (rfl)
@[simp] theorem wrW_clk (a v : Nat) : (wrW s a v).clk = s.clk := (rfl)
@[simp] theorem wrW_wide (a v : Nat) : (wrW s a v).wide = s.wide := (rfl)
@[simp] theorem wrW_rst (a v : Nat) : (wrW s a v).rst = s.rst := (rfl)
@[simp] theorem wrW_ports (a v : Nat) : (wrW s a v).ports = s.ports := (rfl)
@[simp] theorem wrW_trn (a v : Nat) : (wrW s a v).trn = s.trn := (rfl)
@[simp] theorem wrW_ldg (a v : Nat) : (wrW s a v).ldg = s.ldg := (rfl)
@[simp] theorem wrW_xb (a v : Nat) : (wrW s a v).xb = s.xb := (rfl)
@[simp] theorem wrW_fry (a v : Nat) : (wrW s a v).fry = s.fry := (rfl)
@[simp] theorem wrW_bell (a v : Nat) : (wrW s a v).bell = s.bell := (rfl)
@[simp] theorem wrW_ppsOut (a v : Nat) : (wrW s a v).ppsOut = s.ppsOut := (rfl)
@[simp] theorem wrW_ppsRise (a v : Nat) : (wrW s a v).ppsRise = s.ppsRise := (rfl)
@[simp] theorem wrW_trd (a v : Nat) : (wrW s a v).trd = s.trd := (rfl)
@[simp] theorem wrW_drv (a v : Nat) : (wrW s a v).drv = s.drv := (rfl)
@[simp] theorem wrW_chns (a v : Nat) : (wrW s a v).chns = s.chns := (rfl)
@[simp] theorem wrW_stg (a v : Nat) : (wrW s a v).stg = s.stg := (rfl)
@[simp] theorem wrW_stgTick (a v : Nat) : (wrW s a v).stgTick = s.stgTick := (rfl)
@[simp] theorem wrW_stgOld (a v : Nat) : (wrW s a v).stgOld = s.stgOld := (rfl)
@[simp] theorem wrW_cans (a v : Nat) : (wrW s a v).cans = s.cans := (rfl)
@[simp] theorem wrW_rxmLast (a v : Nat) : (wrW s a v).rxmLast = s.rxmLast := (rfl)
@[simp] theorem wrW_rxmAged (a v : Nat) : (wrW s a v).rxmAged = s.rxmAged := (rfl)
@[simp] theorem wrW_asyNext (a v : Nat) : (wrW s a v).asyNext = s.asyNext := (rfl)
@[simp] theorem wrW_asyRetry (a v : Nat) : (wrW s a v).asyRetry = s.asyRetry := (rfl)
@[simp] theorem wrW_bad (a v : Nat) : (wrW s a v).bad = s.bad := (rfl)
@[simp] theorem wrW_lines (a v : Nat) : (wrW s a v).lines = s.lines := (rfl)
@[simp] theorem wrW_quads (a v : Nat) : (wrW s a v).quads = s.quads := (rfl)
@[simp] theorem wrW_adc (a v : Nat) : (wrW s a v).adc = s.adc := (rfl)
@[simp] theorem wrW_brns (a v : Nat) : (wrW s a v).brns = s.brns := (rfl)
@[simp] theorem wrW_tnk (a v : Nat) : (wrW s a v).tnk = s.tnk := (rfl)
@[simp] theorem wrW_sys (a v : Nat) : (wrW s a v).sys = s.sys := (rfl)
@[simp] theorem wrW_otp (a v : Nat) : (wrW s a v).otp = s.otp := (rfl)
@[simp] theorem wrW_act (a v : Nat) : (wrW s a v).act = s.act := (rfl)
@[simp] theorem wrW_rsl (a v : Nat) : (wrW s a v).rsl = s.rsl := (rfl)
@[simp] theorem wrW_pending (a v : Nat) : (wrW s a v).pending = s.pending := (rfl)
@[simp] theorem wrW_fresh (a v : Nat) : (wrW s a v).fresh = s.fresh := (rfl)
@[simp] theorem wrW_out (a v : Nat) : (wrW s a v).out = s.out := (rfl)

/-! ### `orF` writes `regs` alone -/

@[simp] theorem orF_mem (f : Fld) (m : Nat) : (orF s f m).mem = s.mem := (rfl)
@[simp] theorem orF_clk (f : Fld) (m : Nat) : (orF s f m).clk = s.clk := (rfl)
@[simp] theorem orF_wide (f : Fld) (m : Nat) : (orF s f m).wide = s.wide := (rfl)
@[simp] theorem orF_rst (f : Fld) (m : Nat) : (orF s f m).rst = s.rst := (rfl)
@[simp] theorem orF_ports (f : Fld) (m : Nat) : (orF s f m).ports = s.ports := (rfl)
@[simp] theorem orF_trn (f : Fld) (m : Nat) : (orF s f m).trn = s.trn := (rfl)
@[simp] theorem orF_ldg (f : Fld) (m : Nat) : (orF s f m).ldg = s.ldg := (rfl)
@[simp] theorem orF_xb (f : Fld) (m : Nat) : (orF s f m).xb = s.xb := (rfl)
@[simp] theorem orF_fry (f : Fld) (m : Nat) : (orF s f m).fry = s.fry := (rfl)
@[simp] theorem orF_bell (f : Fld) (m : Nat) : (orF s f m).bell = s.bell := (rfl)
@[simp] theorem orF_ppsOut (f : Fld) (m : Nat) : (orF s f m).ppsOut = s.ppsOut := (rfl)
@[simp] theorem orF_ppsRise (f : Fld) (m : Nat) : (orF s f m).ppsRise = s.ppsRise := (rfl)
@[simp] theorem orF_trd (f : Fld) (m : Nat) : (orF s f m).trd = s.trd := (rfl)
@[simp] theorem orF_drv (f : Fld) (m : Nat) : (orF s f m).drv = s.drv := (rfl)
@[simp] theorem orF_chns (f : Fld) (m : Nat) : (orF s f m).chns = s.chns := (rfl)
@[simp] theorem orF_stg (f : Fld) (m : Nat) : (orF s f m).stg = s.stg := (rfl)
@[simp] theorem orF_stgTick (f : Fld) (m : Nat) : (orF s f m).stgTick = s.stgTick := (rfl)
@[simp] theorem orF_stgOld (f : Fld) (m : Nat) : (orF s f m).stgOld = s.stgOld := (rfl)
@[simp] theorem orF_cans (f : Fld) (m : Nat) : (orF s f m).cans = s.cans := (rfl)
@[simp] theorem orF_rxmLast (f : Fld) (m : Nat) : (orF s f m).rxmLast = s.rxmLast := (rfl)
@[simp] theorem orF_rxmAged (f : Fld) (m : Nat) : (orF s f m).rxmAged = s.rxmAged := (rfl)
@[simp] theorem orF_asyNext (f : Fld) (m : Nat) : (orF s f m).asyNext = s.asyNext := (rfl)
@[simp] theorem orF_asyRetry (f : Fld) (m : Nat) : (orF s f m).asyRetry = s.asyRetry := (rfl)
@[simp] theorem orF_bad (f : Fld) (m : Nat) : (orF s f m).bad = s.bad := (rfl)
@[simp] theorem orF_lines (f : Fld) (m : Nat) : (orF s f m).lines = s.lines := (rfl)
@[simp] theorem orF_quads (f : Fld) (m : Nat) : (orF s f m).quads = s.quads := (rfl)
@[simp] theorem orF_adc (f : Fld) (m : Nat) : (orF s f m).adc = s.adc := (rfl)
@[simp] theorem orF_brns (f : Fld) (m : Nat) : (orF s f m).brns = s.brns := (rfl)
@[simp] theorem orF_tnk (f : Fld) (m : Nat) : (orF s f m).tnk = s.tnk := (rfl)
@[simp] theorem orF_sys (f : Fld) (m : Nat) : (orF s f m).sys = s.sys := (rfl)
@[simp] theorem orF_otp (f : Fld) (m : Nat) : (orF s f m).otp = s.otp := (rfl)
@[simp] theorem orF_act (f : Fld) (m : Nat) : (orF s f m).act = s.act := (rfl)
@[simp] theorem orF_rsl (f : Fld) (m : Nat) : (orF s f m).rsl = s.rsl := (rfl)
@[simp] theorem orF_pending (f : Fld) (m : Nat) : (orF s f m).pending = s.pending := (rfl)
@[simp] theorem orF_fresh (f : Fld) (m : Nat) : (orF s f m).fresh = s.fresh := (rfl)
@[simp] theorem orF_out (f : Fld) (m : Nat) : (orF s f m).out = s.out := (rfl)

/-! ### `wrBit` writes `regs` alone -/

@[simp] theorem wrBit_mem (f : Fld) (k : Nat) (b : Bool) : (wrBit s f k b).mem = s.mem := (rfl)
@[simp] theorem wrBit_clk (f : Fld) (k : Nat) (b : Bool) : (wrBit s f k b).clk = s.clk := (rfl)
@[simp] theorem wrBit_wide (f : Fld) (k : Nat) (b : Bool) : (wrBit s f k b).wide = s.wide := (rfl)
@[simp] theorem wrBit_rst (f : Fld) (k : Nat) (b : Bool) : (wrBit s f k b).rst = s.rst := (rfl)
@[simp] theorem wrBit_ports (f : Fld) (k : Nat) (b : Bool) : (wrBit s f k b).ports = s.ports := (rfl)
@[simp] theorem wrBit_trn (f : Fld) (k : Nat) (b : Bool) : (wrBit s f k b).trn = s.trn := (rfl)
@[simp] theorem wrBit_ldg (f : Fld) (k : Nat) (b : Bool) : (wrBit s f k b).ldg = s.ldg := (rfl)
@[simp] theorem wrBit_xb (f : Fld) (k : Nat) (b : Bool) : (wrBit s f k b).xb = s.xb := (rfl)
@[simp] theorem wrBit_fry (f : Fld) (k : Nat) (b : Bool) : (wrBit s f k b).fry = s.fry := (rfl)
@[simp] theorem wrBit_bell (f : Fld) (k : Nat) (b : Bool) : (wrBit s f k b).bell = s.bell := (rfl)
@[simp] theorem wrBit_ppsOut (f : Fld) (k : Nat) (b : Bool) : (wrBit s f k b).ppsOut = s.ppsOut := (rfl)
@[simp] theorem wrBit_ppsRise (f : Fld) (k : Nat) (b : Bool) : (wrBit s f k b).ppsRise = s.ppsRise := (rfl)
@[simp] theorem wrBit_trd (f : Fld) (k : Nat) (b : Bool) : (wrBit s f k b).trd = s.trd := (rfl)
@[simp] theorem wrBit_drv (f : Fld) (k : Nat) (b : Bool) : (wrBit s f k b).drv = s.drv := (rfl)
@[simp] theorem wrBit_chns (f : Fld) (k : Nat) (b : Bool) : (wrBit s f k b).chns = s.chns := (rfl)
@[simp] theorem wrBit_stg (f : Fld) (k : Nat) (b : Bool) : (wrBit s f k b).stg = s.stg := (rfl)
@[simp] theorem wrBit_stgTick (f : Fld) (k : Nat) (b : Bool) : (wrBit s f k b).stgTick = s.stgTick := (rfl)
@[simp] theorem wrBit_stgOld (f : Fld) (k : Nat) (b : Bool) : (wrBit s f k b).stgOld = s.stgOld := (rfl)
@[simp] theorem wrBit_cans (f : Fld) (k : Nat) (b : Bool) : (wrBit s f k b).cans = s.cans := (rfl)
@[simp] theorem wrBit_rxmLast (f : Fld) (k : Nat) (b : Bool) : (wrBit s f k b).rxmLast = s.rxmLast := (rfl)
@[simp] theorem wrBit_rxmAged (f : Fld) (k : Nat) (b : Bool) : (wrBit s f k b).rxmAged = s.rxmAged := (rfl)
@[simp] theorem wrBit_asyNext (f : Fld) (k : Nat) (b : Bool) : (wrBit s f k b).asyNext = s.asyNext := (rfl)
@[simp] theorem wrBit_asyRetry (f : Fld) (k : Nat) (b : Bool) : (wrBit s f k b).asyRetry = s.asyRetry := (rfl)
@[simp] theorem wrBit_bad (f : Fld) (k : Nat) (b : Bool) : (wrBit s f k b).bad = s.bad := (rfl)
@[simp] theorem wrBit_lines (f : Fld) (k : Nat) (b : Bool) : (wrBit s f k b).lines = s.lines := (rfl)
@[simp] theorem wrBit_quads (f : Fld) (k : Nat) (b : Bool) : (wrBit s f k b).quads = s.quads := (rfl)
@[simp] theorem wrBit_adc (f : Fld) (k : Nat) (b : Bool) : (wrBit s f k b).adc = s.adc := (rfl)
@[simp] theorem wrBit_brns (f : Fld) (k : Nat) (b : Bool) : (wrBit s f k b).brns = s.brns := (rfl)
@[simp] theorem wrBit_tnk (f : Fld) (k : Nat) (b : Bool) : (wrBit s f k b).tnk = s.tnk := (rfl)
@[simp] theorem wrBit_sys (f : Fld) (k : Nat) (b : Bool) : (wrBit s f k b).sys = s.sys := (rfl)
@[simp] theorem wrBit_otp (f : Fld) (k : Nat) (b : Bool) : (wrBit s f k b).otp = s.otp := (rfl)
@[simp] theorem wrBit_act (f : Fld) (k : Nat) (b : Bool) : (wrBit s f k b).act = s.act := (rfl)
@[simp] theorem wrBit_rsl (f : Fld) (k : Nat) (b : Bool) : (wrBit s f k b).rsl = s.rsl := (rfl)
@[simp] theorem wrBit_pending (f : Fld) (k : Nat) (b : Bool) : (wrBit s f k b).pending = s.pending := (rfl)
@[simp] theorem wrBit_fresh (f : Fld) (k : Nat) (b : Bool) : (wrBit s f k b).fresh = s.fresh := (rfl)
@[simp] theorem wrBit_out (f : Fld) (k : Nat) (b : Bool) : (wrBit s f k b).out = s.out := (rfl)

/-! ### `memPut` writes `mem` alone -/

@[simp] theorem memPut_regs (a : Nat) (b : Byte) : (memPut s a b).regs = s.regs := (rfl)
@[simp] theorem memPut_clk (a : Nat) (b : Byte) : (memPut s a b).clk = s.clk := (rfl)
@[simp] theorem memPut_wide (a : Nat) (b : Byte) : (memPut s a b).wide = s.wide := (rfl)
@[simp] theorem memPut_rst (a : Nat) (b : Byte) : (memPut s a b).rst = s.rst := (rfl)
@[simp] theorem memPut_ports (a : Nat) (b : Byte) : (memPut s a b).ports = s.ports := (rfl)
@[simp] theorem memPut_trn (a : Nat) (b : Byte) : (memPut s a b).trn = s.trn := (rfl)
@[simp] theorem memPut_ldg (a : Nat) (b : Byte) : (memPut s a b).ldg = s.ldg := (rfl)
@[simp] theorem memPut_xb (a : Nat) (b : Byte) : (memPut s a b).xb = s.xb := (rfl)
@[simp] theorem memPut_fry (a : Nat) (b : Byte) : (memPut s a b).fry = s.fry := (rfl)
@[simp] theorem memPut_bell (a : Nat) (b : Byte) : (memPut s a b).bell = s.bell := (rfl)
@[simp] theorem memPut_ppsOut (a : Nat) (b : Byte) : (memPut s a b).ppsOut = s.ppsOut := (rfl)
@[simp] theorem memPut_ppsRise (a : Nat) (b : Byte) : (memPut s a b).ppsRise = s.ppsRise := (rfl)
@[simp] theorem memPut_trd (a : Nat) (b : Byte) : (memPut s a b).trd = s.trd := (rfl)
@[simp] theorem memPut_drv (a : Nat) (b : Byte) : (memPut s a b).drv = s.drv := (rfl)
@[simp] theorem memPut_chns (a : Nat) (b : Byte) : (memPut s a b).chns = s.chns := (rfl)
@[simp] theorem memPut_stg (a : Nat) (b : Byte) : (memPut s a b).stg = s.stg := (rfl)
@[simp] theorem memPut_stgTick (a : Nat) (b : Byte) : (memPut s a b).stgTick = s.stgTick := (rfl)
@[simp] theorem memPut_stgOld (a : Nat) (b : Byte) : (memPut s a b).stgOld = s.stgOld := (rfl)
@[simp] theorem memPut_cans (a : Nat) (b : Byte) : (memPut s a b).cans = s.cans := (rfl)
@[simp] theorem memPut_rxmLast (a : Nat) (b : Byte) : (memPut s a b).rxmLast = s.rxmLast := (rfl)
@[simp] theorem memPut_rxmAged (a : Nat) (b : Byte) : (memPut s a b).rxmAged = s.rxmAged := (rfl)
@[simp] theorem memPut_asyNext (a : Nat) (b : Byte) : (memPut s a b).asyNext = s.asyNext := (rfl)
@[simp] theorem memPut_asyRetry (a : Nat) (b : Byte) : (memPut s a b).asyRetry = s.asyRetry := (rfl)
@[simp] theorem memPut_bad (a : Nat) (b : Byte) : (memPut s a b).bad = s.bad := (rfl)
@[simp] theorem memPut_lines (a : Nat) (b : Byte) : (memPut s a b).lines = s.lines := (rfl)
@[simp] theorem memPut_quads (a : Nat) (b : Byte) : (memPut s a b).quads = s.quads := (rfl)
@[simp] theorem memPut_adc (a : Nat) (b : Byte) : (memPut s a b).adc = s.adc := (rfl)
@[simp] theorem memPut_brns (a : Nat) (b : Byte) : (memPut s a b).brns = s.brns := (rfl)
@[simp] theorem memPut_tnk (a : Nat) (b : Byte) : (memPut s a b).tnk = s.tnk := (rfl)
@[simp] theorem memPut_sys (a : Nat) (b : Byte) : (memPut s a b).sys = s.sys := (rfl)
@[simp] theorem memPut_otp (a : Nat) (b : Byte) : (memPut s a b).otp = s.otp := (rfl)
@[simp] theorem memPut_act (a : Nat) (b : Byte) : (memPut s a b).act = s.act := (rfl)
@[simp] theorem memPut_rsl (a : Nat) (b : Byte) : (memPut s a b).rsl = s.rsl := (rfl)
@[simp] theorem memPut_pending (a : Nat) (b : Byte) : (memPut s a b).pending = s.pending := (rfl)
@[simp] theorem memPut_fresh (a : Nat) (b : Byte) : (memPut s a b).fresh = s.fresh := (rfl)
@[simp] theorem memPut_out (a : Nat) (b : Byte) : (memPut s a b).out = s.out := (rfl)

/-! ### `norErase` writes `mem` alone -/

@[simp] theorem norErase_regs (off n : Nat) : (norErase s off n).regs = s.regs := (rfl)
@[simp] theorem norErase_clk (off n : Nat) : (norErase s off n).clk = s.clk := (rfl)
@[simp] theorem norErase_wide (off n : Nat) : (norErase s off n).wide = s.wide := (rfl)
@[simp] theorem norErase_rst (off n : Nat) : (norErase s off n).rst = s.rst := (rfl)
@[simp] theorem norErase_ports (off n : Nat) : (norErase s off n).ports = s.ports := (rfl)
@[simp] theorem norErase_trn (off n : Nat) : (norErase s off n).trn = s.trn := (rfl)
@[simp] theorem norErase_ldg (off n : Nat) : (norErase s off n).ldg = s.ldg := (rfl)
@[simp] theorem norErase_xb (off n : Nat) : (norErase s off n).xb = s.xb := (rfl)
@[simp] theorem norErase_fry (off n : Nat) : (norErase s off n).fry = s.fry := (rfl)
@[simp] theorem norErase_bell (off n : Nat) : (norErase s off n).bell = s.bell := (rfl)
@[simp] theorem norErase_ppsOut (off n : Nat) : (norErase s off n).ppsOut = s.ppsOut := (rfl)
@[simp] theorem norErase_ppsRise (off n : Nat) : (norErase s off n).ppsRise = s.ppsRise := (rfl)
@[simp] theorem norErase_trd (off n : Nat) : (norErase s off n).trd = s.trd := (rfl)
@[simp] theorem norErase_drv (off n : Nat) : (norErase s off n).drv = s.drv := (rfl)
@[simp] theorem norErase_chns (off n : Nat) : (norErase s off n).chns = s.chns := (rfl)
@[simp] theorem norErase_stg (off n : Nat) : (norErase s off n).stg = s.stg := (rfl)
@[simp] theorem norErase_stgTick (off n : Nat) : (norErase s off n).stgTick = s.stgTick := (rfl)
@[simp] theorem norErase_stgOld (off n : Nat) : (norErase s off n).stgOld = s.stgOld := (rfl)
@[simp] theorem norErase_cans (off n : Nat) : (norErase s off n).cans = s.cans := (rfl)
@[simp] theorem norErase_rxmLast (off n : Nat) : (norErase s off n).rxmLast = s.rxmLast := (rfl)
@[simp] theorem norErase_rxmAged (off n : Nat) : (norErase s off n).rxmAged = s.rxmAged := (rfl)
@[simp] theorem norErase_asyNext (off n : Nat) : (norErase s off n).asyNext = s.asyNext := (rfl)
@[simp] theorem norErase_asyRetry (off n : Nat) : (norErase s off n).asyRetry = s.asyRetry := (rfl)
@[simp] theorem norErase_bad (off n : Nat) : (norErase s off n).bad = s.bad := (rfl)
@[simp] theorem norErase_lines (off n : Nat) : (norErase s off n).lines = s.lines := (rfl)
@[simp] theorem norErase_quads (off n : Nat) : (norErase s off n).quads = s.quads := (rfl)
@[simp] theorem norErase_adc (off n : Nat) : (norErase s off n).adc = s.adc := (rfl)
@[simp] theorem norErase_brns (off n : Nat) : (norErase s off n).brns = s.brns := (rfl)
@[simp] theorem norErase_tnk (off n : Nat) : (norErase s off n).tnk = s.tnk := (rfl)
@[simp] theorem norErase_sys (off n : Nat) : (norErase s off n).sys = s.sys := (rfl)
@[simp] theorem norErase_otp (off n : Nat) : (norErase s off n).otp = s.otp := (rfl)
@[simp] theorem norErase_act (off n : Nat) : (norErase s off n).act = s.act := (rfl)
@[simp] theorem norErase_rsl (off n : Nat) : (norErase s off n).rsl = s.rsl := (rfl)
@[simp] theorem norErase_pending (off n : Nat) : (norErase s off n).pending = s.pending := (rfl)
@[simp] theorem norErase_fresh (off n : Nat) : (norErase s off n).fresh = s.fresh := (rfl)
@[simp] theorem norErase_out (off n : Nat) : (norErase s off n).out = s.out := (rfl)

/-! ### `used` writes `fresh` alone -/

@[simp] theorem used_regs : (s.used).regs = s.regs := (rfl)
@[simp] theorem used_mem : (s.used).mem = s.mem := (rfl)
@[simp] theorem used_clk : (s.used).clk = s.clk := (rfl)
@[simp] theorem used_wide : (s.used).wide = s.wide := (rfl)
@[simp] theorem used_rst : (s.used).rst = s.rst := (rfl)
@[simp] theorem used_ports : (s.used).ports = s.ports := (rfl)
@[simp] theorem used_trn : (s.used).trn = s.trn := (rfl)
@[simp] theorem used_ldg : (s.used).ldg = s.ldg := (rfl)
@[simp] theorem used_xb : (s.used).xb = s.xb := (rfl)
@[simp] theorem used_fry : (s.used).fry = s.fry := (rfl)
@[simp] theorem used_bell : (s.used).bell = s.bell := (rfl)
@[simp] theorem used_ppsOut : (s.used).ppsOut = s.ppsOut := (rfl)
@[simp] theorem used_ppsRise : (s.used).ppsRise = s.ppsRise := (rfl)
@[simp] theorem used_trd : (s.used).trd = s.trd := (rfl)
@[simp] theorem used_drv : (s.used).drv = s.drv := (rfl)
@[simp] theorem used_chns : (s.used).chns = s.chns := (rfl)
@[simp] theorem used_stg : (s.used).stg = s.stg := (rfl)
@[simp] theorem used_stgTick : (s.used).stgTick = s.stgTick := (rfl)
@[simp] theorem used_stgOld : (s.used).stgOld = s.stgOld := (rfl)
@[simp] theorem used_cans : (s.used).cans = s.cans := (rfl)
@[simp] theorem used_rxmLast : (s.used).rxmLast = s.rxmLast := (rfl)
@[simp] theorem used_rxmAged : (s.used).rxmAged = s.rxmAged := (rfl)
@[simp] theorem used_asyNext : (s.used).asyNext = s.asyNext := (rfl)
@[simp] theorem used_asyRetry : (s.used).asyRetry = s.asyRetry := (rfl)
@[simp] theorem used_bad : (s.used).bad = s.bad := (rfl)
@[simp] theorem used_lines : (s.used).lines = s.lines := (rfl)
@[simp] theorem used_quads : (s.used).quads = s.quads := (rfl)
@[simp] theorem used_adc : (s.used).adc = s.adc := (rfl)
@[simp] theorem used_brns : (s.used).brns = s.brns := (rfl)
@[simp] theorem used_tnk : (s.used).tnk = s.tnk := (rfl)
@[simp] theorem used_sys : (s.used).sys = s.sys := (rfl)
@[simp] theorem used_otp : (s.used).otp = s.otp := (rfl)
@[simp] theorem used_act : (s.used).act = s.act := (rfl)
@[simp] theorem used_rsl : (s.used).rsl = s.rsl := (rfl)
@[simp] theorem used_pending : (s.used).pending = s.pending := (rfl)
@[simp] theorem used_out : (s.used).out = s.out := (rfl)

/-! ### `advance` writes `clk` alone -/

@[simp] theorem advance_regs (n : Nat) : (advance s n).regs = s.regs := (rfl)
@[simp] theorem advance_mem (n : Nat) : (advance s n).mem = s.mem := (rfl)
@[simp] theorem advance_wide (n : Nat) : (advance s n).wide = s.wide := (rfl)
@[simp] theorem advance_rst (n : Nat) : (advance s n).rst = s.rst := (rfl)
@[simp] theorem advance_ports (n : Nat) : (advance s n).ports = s.ports := (rfl)
@[simp] theorem advance_trn (n : Nat) : (advance s n).trn = s.trn := (rfl)
@[simp] theorem advance_ldg (n : Nat) : (advance s n).ldg = s.ldg := (rfl)
@[simp] theorem advance_xb (n : Nat) : (advance s n).xb = s.xb := (rfl)
@[simp] theorem advance_fry (n : Nat) : (advance s n).fry = s.fry := (rfl)
@[simp] theorem advance_bell (n : Nat) : (advance s n).bell = s.bell := (rfl)
@[simp] theorem advance_ppsOut (n : Nat) : (advance s n).ppsOut = s.ppsOut := (rfl)
@[simp] theorem advance_ppsRise (n : Nat) : (advance s n).ppsRise = s.ppsRise := (rfl)
@[simp] theorem advance_trd (n : Nat) : (advance s n).trd = s.trd := (rfl)
@[simp] theorem advance_drv (n : Nat) : (advance s n).drv = s.drv := (rfl)
@[simp] theorem advance_chns (n : Nat) : (advance s n).chns = s.chns := (rfl)
@[simp] theorem advance_stg (n : Nat) : (advance s n).stg = s.stg := (rfl)
@[simp] theorem advance_stgTick (n : Nat) : (advance s n).stgTick = s.stgTick := (rfl)
@[simp] theorem advance_stgOld (n : Nat) : (advance s n).stgOld = s.stgOld := (rfl)
@[simp] theorem advance_cans (n : Nat) : (advance s n).cans = s.cans := (rfl)
@[simp] theorem advance_rxmLast (n : Nat) : (advance s n).rxmLast = s.rxmLast := (rfl)
@[simp] theorem advance_rxmAged (n : Nat) : (advance s n).rxmAged = s.rxmAged := (rfl)
@[simp] theorem advance_asyNext (n : Nat) : (advance s n).asyNext = s.asyNext := (rfl)
@[simp] theorem advance_asyRetry (n : Nat) : (advance s n).asyRetry = s.asyRetry := (rfl)
@[simp] theorem advance_bad (n : Nat) : (advance s n).bad = s.bad := (rfl)
@[simp] theorem advance_lines (n : Nat) : (advance s n).lines = s.lines := (rfl)
@[simp] theorem advance_quads (n : Nat) : (advance s n).quads = s.quads := (rfl)
@[simp] theorem advance_adc (n : Nat) : (advance s n).adc = s.adc := (rfl)
@[simp] theorem advance_brns (n : Nat) : (advance s n).brns = s.brns := (rfl)
@[simp] theorem advance_tnk (n : Nat) : (advance s n).tnk = s.tnk := (rfl)
@[simp] theorem advance_sys (n : Nat) : (advance s n).sys = s.sys := (rfl)
@[simp] theorem advance_otp (n : Nat) : (advance s n).otp = s.otp := (rfl)
@[simp] theorem advance_act (n : Nat) : (advance s n).act = s.act := (rfl)
@[simp] theorem advance_rsl (n : Nat) : (advance s n).rsl = s.rsl := (rfl)
@[simp] theorem advance_pending (n : Nat) : (advance s n).pending = s.pending := (rfl)
@[simp] theorem advance_fresh (n : Nat) : (advance s n).fresh = s.fresh := (rfl)
@[simp] theorem advance_out (n : Nat) : (advance s n).out = s.out := (rfl)

/-! ### `stepFt` writes `clk` alone -/

@[simp] theorem stepFt_regs (u : Int) : (stepFt s u).regs = s.regs := (rfl)
@[simp] theorem stepFt_mem (u : Int) : (stepFt s u).mem = s.mem := (rfl)
@[simp] theorem stepFt_wide (u : Int) : (stepFt s u).wide = s.wide := (rfl)
@[simp] theorem stepFt_rst (u : Int) : (stepFt s u).rst = s.rst := (rfl)
@[simp] theorem stepFt_ports (u : Int) : (stepFt s u).ports = s.ports := (rfl)
@[simp] theorem stepFt_trn (u : Int) : (stepFt s u).trn = s.trn := (rfl)
@[simp] theorem stepFt_ldg (u : Int) : (stepFt s u).ldg = s.ldg := (rfl)
@[simp] theorem stepFt_xb (u : Int) : (stepFt s u).xb = s.xb := (rfl)
@[simp] theorem stepFt_fry (u : Int) : (stepFt s u).fry = s.fry := (rfl)
@[simp] theorem stepFt_bell (u : Int) : (stepFt s u).bell = s.bell := (rfl)
@[simp] theorem stepFt_ppsOut (u : Int) : (stepFt s u).ppsOut = s.ppsOut := (rfl)
@[simp] theorem stepFt_ppsRise (u : Int) : (stepFt s u).ppsRise = s.ppsRise := (rfl)
@[simp] theorem stepFt_trd (u : Int) : (stepFt s u).trd = s.trd := (rfl)
@[simp] theorem stepFt_drv (u : Int) : (stepFt s u).drv = s.drv := (rfl)
@[simp] theorem stepFt_chns (u : Int) : (stepFt s u).chns = s.chns := (rfl)
@[simp] theorem stepFt_stg (u : Int) : (stepFt s u).stg = s.stg := (rfl)
@[simp] theorem stepFt_stgTick (u : Int) : (stepFt s u).stgTick = s.stgTick := (rfl)
@[simp] theorem stepFt_stgOld (u : Int) : (stepFt s u).stgOld = s.stgOld := (rfl)
@[simp] theorem stepFt_cans (u : Int) : (stepFt s u).cans = s.cans := (rfl)
@[simp] theorem stepFt_rxmLast (u : Int) : (stepFt s u).rxmLast = s.rxmLast := (rfl)
@[simp] theorem stepFt_rxmAged (u : Int) : (stepFt s u).rxmAged = s.rxmAged := (rfl)
@[simp] theorem stepFt_asyNext (u : Int) : (stepFt s u).asyNext = s.asyNext := (rfl)
@[simp] theorem stepFt_asyRetry (u : Int) : (stepFt s u).asyRetry = s.asyRetry := (rfl)
@[simp] theorem stepFt_bad (u : Int) : (stepFt s u).bad = s.bad := (rfl)
@[simp] theorem stepFt_lines (u : Int) : (stepFt s u).lines = s.lines := (rfl)
@[simp] theorem stepFt_quads (u : Int) : (stepFt s u).quads = s.quads := (rfl)
@[simp] theorem stepFt_adc (u : Int) : (stepFt s u).adc = s.adc := (rfl)
@[simp] theorem stepFt_brns (u : Int) : (stepFt s u).brns = s.brns := (rfl)
@[simp] theorem stepFt_tnk (u : Int) : (stepFt s u).tnk = s.tnk := (rfl)
@[simp] theorem stepFt_sys (u : Int) : (stepFt s u).sys = s.sys := (rfl)
@[simp] theorem stepFt_otp (u : Int) : (stepFt s u).otp = s.otp := (rfl)
@[simp] theorem stepFt_act (u : Int) : (stepFt s u).act = s.act := (rfl)
@[simp] theorem stepFt_rsl (u : Int) : (stepFt s u).rsl = s.rsl := (rfl)
@[simp] theorem stepFt_pending (u : Int) : (stepFt s u).pending = s.pending := (rfl)
@[simp] theorem stepFt_fresh (u : Int) : (stepFt s u).fresh = s.fresh := (rfl)
@[simp] theorem stepFt_out (u : Int) : (stepFt s u).out = s.out := (rfl)

/-! ### `setPort` writes `ports` alone -/

@[simp] theorem setPort_regs (p : Nat) (x : Port) : (s.setPort p x).regs = s.regs := (rfl)
@[simp] theorem setPort_mem (p : Nat) (x : Port) : (s.setPort p x).mem = s.mem := (rfl)
@[simp] theorem setPort_clk (p : Nat) (x : Port) : (s.setPort p x).clk = s.clk := (rfl)
@[simp] theorem setPort_wide (p : Nat) (x : Port) : (s.setPort p x).wide = s.wide := (rfl)
@[simp] theorem setPort_rst (p : Nat) (x : Port) : (s.setPort p x).rst = s.rst := (rfl)
@[simp] theorem setPort_trn (p : Nat) (x : Port) : (s.setPort p x).trn = s.trn := (rfl)
@[simp] theorem setPort_ldg (p : Nat) (x : Port) : (s.setPort p x).ldg = s.ldg := (rfl)
@[simp] theorem setPort_xb (p : Nat) (x : Port) : (s.setPort p x).xb = s.xb := (rfl)
@[simp] theorem setPort_fry (p : Nat) (x : Port) : (s.setPort p x).fry = s.fry := (rfl)
@[simp] theorem setPort_bell (p : Nat) (x : Port) : (s.setPort p x).bell = s.bell := (rfl)
@[simp] theorem setPort_ppsOut (p : Nat) (x : Port) : (s.setPort p x).ppsOut = s.ppsOut := (rfl)
@[simp] theorem setPort_ppsRise (p : Nat) (x : Port) : (s.setPort p x).ppsRise = s.ppsRise := (rfl)
@[simp] theorem setPort_trd (p : Nat) (x : Port) : (s.setPort p x).trd = s.trd := (rfl)
@[simp] theorem setPort_drv (p : Nat) (x : Port) : (s.setPort p x).drv = s.drv := (rfl)
@[simp] theorem setPort_chns (p : Nat) (x : Port) : (s.setPort p x).chns = s.chns := (rfl)
@[simp] theorem setPort_stg (p : Nat) (x : Port) : (s.setPort p x).stg = s.stg := (rfl)
@[simp] theorem setPort_stgTick (p : Nat) (x : Port) : (s.setPort p x).stgTick = s.stgTick := (rfl)
@[simp] theorem setPort_stgOld (p : Nat) (x : Port) : (s.setPort p x).stgOld = s.stgOld := (rfl)
@[simp] theorem setPort_cans (p : Nat) (x : Port) : (s.setPort p x).cans = s.cans := (rfl)
@[simp] theorem setPort_rxmLast (p : Nat) (x : Port) : (s.setPort p x).rxmLast = s.rxmLast := (rfl)
@[simp] theorem setPort_rxmAged (p : Nat) (x : Port) : (s.setPort p x).rxmAged = s.rxmAged := (rfl)
@[simp] theorem setPort_asyNext (p : Nat) (x : Port) : (s.setPort p x).asyNext = s.asyNext := (rfl)
@[simp] theorem setPort_asyRetry (p : Nat) (x : Port) : (s.setPort p x).asyRetry = s.asyRetry := (rfl)
@[simp] theorem setPort_bad (p : Nat) (x : Port) : (s.setPort p x).bad = s.bad := (rfl)
@[simp] theorem setPort_lines (p : Nat) (x : Port) : (s.setPort p x).lines = s.lines := (rfl)
@[simp] theorem setPort_quads (p : Nat) (x : Port) : (s.setPort p x).quads = s.quads := (rfl)
@[simp] theorem setPort_adc (p : Nat) (x : Port) : (s.setPort p x).adc = s.adc := (rfl)
@[simp] theorem setPort_brns (p : Nat) (x : Port) : (s.setPort p x).brns = s.brns := (rfl)
@[simp] theorem setPort_tnk (p : Nat) (x : Port) : (s.setPort p x).tnk = s.tnk := (rfl)
@[simp] theorem setPort_sys (p : Nat) (x : Port) : (s.setPort p x).sys = s.sys := (rfl)
@[simp] theorem setPort_otp (p : Nat) (x : Port) : (s.setPort p x).otp = s.otp := (rfl)
@[simp] theorem setPort_act (p : Nat) (x : Port) : (s.setPort p x).act = s.act := (rfl)
@[simp] theorem setPort_rsl (p : Nat) (x : Port) : (s.setPort p x).rsl = s.rsl := (rfl)
@[simp] theorem setPort_pending (p : Nat) (x : Port) : (s.setPort p x).pending = s.pending := (rfl)
@[simp] theorem setPort_fresh (p : Nat) (x : Port) : (s.setPort p x).fresh = s.fresh := (rfl)
@[simp] theorem setPort_out (p : Nat) (x : Port) : (s.setPort p x).out = s.out := (rfl)

/-! ### `setChn` writes `chns` alone -/

@[simp] theorem setChn_regs (n : Nat) (x : Chn) : (s.setChn n x).regs = s.regs := (rfl)
@[simp] theorem setChn_mem (n : Nat) (x : Chn) : (s.setChn n x).mem = s.mem := (rfl)
@[simp] theorem setChn_clk (n : Nat) (x : Chn) : (s.setChn n x).clk = s.clk := (rfl)
@[simp] theorem setChn_wide (n : Nat) (x : Chn) : (s.setChn n x).wide = s.wide := (rfl)
@[simp] theorem setChn_rst (n : Nat) (x : Chn) : (s.setChn n x).rst = s.rst := (rfl)
@[simp] theorem setChn_ports (n : Nat) (x : Chn) : (s.setChn n x).ports = s.ports := (rfl)
@[simp] theorem setChn_trn (n : Nat) (x : Chn) : (s.setChn n x).trn = s.trn := (rfl)
@[simp] theorem setChn_ldg (n : Nat) (x : Chn) : (s.setChn n x).ldg = s.ldg := (rfl)
@[simp] theorem setChn_xb (n : Nat) (x : Chn) : (s.setChn n x).xb = s.xb := (rfl)
@[simp] theorem setChn_fry (n : Nat) (x : Chn) : (s.setChn n x).fry = s.fry := (rfl)
@[simp] theorem setChn_bell (n : Nat) (x : Chn) : (s.setChn n x).bell = s.bell := (rfl)
@[simp] theorem setChn_ppsOut (n : Nat) (x : Chn) : (s.setChn n x).ppsOut = s.ppsOut := (rfl)
@[simp] theorem setChn_ppsRise (n : Nat) (x : Chn) : (s.setChn n x).ppsRise = s.ppsRise := (rfl)
@[simp] theorem setChn_trd (n : Nat) (x : Chn) : (s.setChn n x).trd = s.trd := (rfl)
@[simp] theorem setChn_drv (n : Nat) (x : Chn) : (s.setChn n x).drv = s.drv := (rfl)
@[simp] theorem setChn_stg (n : Nat) (x : Chn) : (s.setChn n x).stg = s.stg := (rfl)
@[simp] theorem setChn_stgTick (n : Nat) (x : Chn) : (s.setChn n x).stgTick = s.stgTick := (rfl)
@[simp] theorem setChn_stgOld (n : Nat) (x : Chn) : (s.setChn n x).stgOld = s.stgOld := (rfl)
@[simp] theorem setChn_cans (n : Nat) (x : Chn) : (s.setChn n x).cans = s.cans := (rfl)
@[simp] theorem setChn_rxmLast (n : Nat) (x : Chn) : (s.setChn n x).rxmLast = s.rxmLast := (rfl)
@[simp] theorem setChn_rxmAged (n : Nat) (x : Chn) : (s.setChn n x).rxmAged = s.rxmAged := (rfl)
@[simp] theorem setChn_asyNext (n : Nat) (x : Chn) : (s.setChn n x).asyNext = s.asyNext := (rfl)
@[simp] theorem setChn_asyRetry (n : Nat) (x : Chn) : (s.setChn n x).asyRetry = s.asyRetry := (rfl)
@[simp] theorem setChn_bad (n : Nat) (x : Chn) : (s.setChn n x).bad = s.bad := (rfl)
@[simp] theorem setChn_lines (n : Nat) (x : Chn) : (s.setChn n x).lines = s.lines := (rfl)
@[simp] theorem setChn_quads (n : Nat) (x : Chn) : (s.setChn n x).quads = s.quads := (rfl)
@[simp] theorem setChn_adc (n : Nat) (x : Chn) : (s.setChn n x).adc = s.adc := (rfl)
@[simp] theorem setChn_brns (n : Nat) (x : Chn) : (s.setChn n x).brns = s.brns := (rfl)
@[simp] theorem setChn_tnk (n : Nat) (x : Chn) : (s.setChn n x).tnk = s.tnk := (rfl)
@[simp] theorem setChn_sys (n : Nat) (x : Chn) : (s.setChn n x).sys = s.sys := (rfl)
@[simp] theorem setChn_otp (n : Nat) (x : Chn) : (s.setChn n x).otp = s.otp := (rfl)
@[simp] theorem setChn_act (n : Nat) (x : Chn) : (s.setChn n x).act = s.act := (rfl)
@[simp] theorem setChn_rsl (n : Nat) (x : Chn) : (s.setChn n x).rsl = s.rsl := (rfl)
@[simp] theorem setChn_pending (n : Nat) (x : Chn) : (s.setChn n x).pending = s.pending := (rfl)
@[simp] theorem setChn_fresh (n : Nat) (x : Chn) : (s.setChn n x).fresh = s.fresh := (rfl)
@[simp] theorem setChn_out (n : Nat) (x : Chn) : (s.setChn n x).out = s.out := (rfl)

/-! ### `setCan` writes `cans` alone -/

@[simp] theorem setCan_regs (k : Nat) (x : Can) : (s.setCan k x).regs = s.regs := (rfl)
@[simp] theorem setCan_mem (k : Nat) (x : Can) : (s.setCan k x).mem = s.mem := (rfl)
@[simp] theorem setCan_clk (k : Nat) (x : Can) : (s.setCan k x).clk = s.clk := (rfl)
@[simp] theorem setCan_wide (k : Nat) (x : Can) : (s.setCan k x).wide = s.wide := (rfl)
@[simp] theorem setCan_rst (k : Nat) (x : Can) : (s.setCan k x).rst = s.rst := (rfl)
@[simp] theorem setCan_ports (k : Nat) (x : Can) : (s.setCan k x).ports = s.ports := (rfl)
@[simp] theorem setCan_trn (k : Nat) (x : Can) : (s.setCan k x).trn = s.trn := (rfl)
@[simp] theorem setCan_ldg (k : Nat) (x : Can) : (s.setCan k x).ldg = s.ldg := (rfl)
@[simp] theorem setCan_xb (k : Nat) (x : Can) : (s.setCan k x).xb = s.xb := (rfl)
@[simp] theorem setCan_fry (k : Nat) (x : Can) : (s.setCan k x).fry = s.fry := (rfl)
@[simp] theorem setCan_bell (k : Nat) (x : Can) : (s.setCan k x).bell = s.bell := (rfl)
@[simp] theorem setCan_ppsOut (k : Nat) (x : Can) : (s.setCan k x).ppsOut = s.ppsOut := (rfl)
@[simp] theorem setCan_ppsRise (k : Nat) (x : Can) : (s.setCan k x).ppsRise = s.ppsRise := (rfl)
@[simp] theorem setCan_trd (k : Nat) (x : Can) : (s.setCan k x).trd = s.trd := (rfl)
@[simp] theorem setCan_drv (k : Nat) (x : Can) : (s.setCan k x).drv = s.drv := (rfl)
@[simp] theorem setCan_chns (k : Nat) (x : Can) : (s.setCan k x).chns = s.chns := (rfl)
@[simp] theorem setCan_stg (k : Nat) (x : Can) : (s.setCan k x).stg = s.stg := (rfl)
@[simp] theorem setCan_stgTick (k : Nat) (x : Can) : (s.setCan k x).stgTick = s.stgTick := (rfl)
@[simp] theorem setCan_stgOld (k : Nat) (x : Can) : (s.setCan k x).stgOld = s.stgOld := (rfl)
@[simp] theorem setCan_rxmLast (k : Nat) (x : Can) : (s.setCan k x).rxmLast = s.rxmLast := (rfl)
@[simp] theorem setCan_rxmAged (k : Nat) (x : Can) : (s.setCan k x).rxmAged = s.rxmAged := (rfl)
@[simp] theorem setCan_asyNext (k : Nat) (x : Can) : (s.setCan k x).asyNext = s.asyNext := (rfl)
@[simp] theorem setCan_asyRetry (k : Nat) (x : Can) : (s.setCan k x).asyRetry = s.asyRetry := (rfl)
@[simp] theorem setCan_bad (k : Nat) (x : Can) : (s.setCan k x).bad = s.bad := (rfl)
@[simp] theorem setCan_lines (k : Nat) (x : Can) : (s.setCan k x).lines = s.lines := (rfl)
@[simp] theorem setCan_quads (k : Nat) (x : Can) : (s.setCan k x).quads = s.quads := (rfl)
@[simp] theorem setCan_adc (k : Nat) (x : Can) : (s.setCan k x).adc = s.adc := (rfl)
@[simp] theorem setCan_brns (k : Nat) (x : Can) : (s.setCan k x).brns = s.brns := (rfl)
@[simp] theorem setCan_tnk (k : Nat) (x : Can) : (s.setCan k x).tnk = s.tnk := (rfl)
@[simp] theorem setCan_sys (k : Nat) (x : Can) : (s.setCan k x).sys = s.sys := (rfl)
@[simp] theorem setCan_otp (k : Nat) (x : Can) : (s.setCan k x).otp = s.otp := (rfl)
@[simp] theorem setCan_act (k : Nat) (x : Can) : (s.setCan k x).act = s.act := (rfl)
@[simp] theorem setCan_rsl (k : Nat) (x : Can) : (s.setCan k x).rsl = s.rsl := (rfl)
@[simp] theorem setCan_pending (k : Nat) (x : Can) : (s.setCan k x).pending = s.pending := (rfl)
@[simp] theorem setCan_fresh (k : Nat) (x : Can) : (s.setCan k x).fresh = s.fresh := (rfl)
@[simp] theorem setCan_out (k : Nat) (x : Can) : (s.setCan k x).out = s.out := (rfl)

/-! ### `setLine` writes `lines` alone -/

@[simp] theorem setLine_regs (n : Nat) (x : Line) : (s.setLine n x).regs = s.regs := (rfl)
@[simp] theorem setLine_mem (n : Nat) (x : Line) : (s.setLine n x).mem = s.mem := (rfl)
@[simp] theorem setLine_clk (n : Nat) (x : Line) : (s.setLine n x).clk = s.clk := (rfl)
@[simp] theorem setLine_wide (n : Nat) (x : Line) : (s.setLine n x).wide = s.wide := (rfl)
@[simp] theorem setLine_rst (n : Nat) (x : Line) : (s.setLine n x).rst = s.rst := (rfl)
@[simp] theorem setLine_ports (n : Nat) (x : Line) : (s.setLine n x).ports = s.ports := (rfl)
@[simp] theorem setLine_trn (n : Nat) (x : Line) : (s.setLine n x).trn = s.trn := (rfl)
@[simp] theorem setLine_ldg (n : Nat) (x : Line) : (s.setLine n x).ldg = s.ldg := (rfl)
@[simp] theorem setLine_xb (n : Nat) (x : Line) : (s.setLine n x).xb = s.xb := (rfl)
@[simp] theorem setLine_fry (n : Nat) (x : Line) : (s.setLine n x).fry = s.fry := (rfl)
@[simp] theorem setLine_bell (n : Nat) (x : Line) : (s.setLine n x).bell = s.bell := (rfl)
@[simp] theorem setLine_ppsOut (n : Nat) (x : Line) : (s.setLine n x).ppsOut = s.ppsOut := (rfl)
@[simp] theorem setLine_ppsRise (n : Nat) (x : Line) : (s.setLine n x).ppsRise = s.ppsRise := (rfl)
@[simp] theorem setLine_trd (n : Nat) (x : Line) : (s.setLine n x).trd = s.trd := (rfl)
@[simp] theorem setLine_drv (n : Nat) (x : Line) : (s.setLine n x).drv = s.drv := (rfl)
@[simp] theorem setLine_chns (n : Nat) (x : Line) : (s.setLine n x).chns = s.chns := (rfl)
@[simp] theorem setLine_stg (n : Nat) (x : Line) : (s.setLine n x).stg = s.stg := (rfl)
@[simp] theorem setLine_stgTick (n : Nat) (x : Line) : (s.setLine n x).stgTick = s.stgTick := (rfl)
@[simp] theorem setLine_stgOld (n : Nat) (x : Line) : (s.setLine n x).stgOld = s.stgOld := (rfl)
@[simp] theorem setLine_cans (n : Nat) (x : Line) : (s.setLine n x).cans = s.cans := (rfl)
@[simp] theorem setLine_rxmLast (n : Nat) (x : Line) : (s.setLine n x).rxmLast = s.rxmLast := (rfl)
@[simp] theorem setLine_rxmAged (n : Nat) (x : Line) : (s.setLine n x).rxmAged = s.rxmAged := (rfl)
@[simp] theorem setLine_asyNext (n : Nat) (x : Line) : (s.setLine n x).asyNext = s.asyNext := (rfl)
@[simp] theorem setLine_asyRetry (n : Nat) (x : Line) : (s.setLine n x).asyRetry = s.asyRetry := (rfl)
@[simp] theorem setLine_bad (n : Nat) (x : Line) : (s.setLine n x).bad = s.bad := (rfl)
@[simp] theorem setLine_quads (n : Nat) (x : Line) : (s.setLine n x).quads = s.quads := (rfl)
@[simp] theorem setLine_adc (n : Nat) (x : Line) : (s.setLine n x).adc = s.adc := (rfl)
@[simp] theorem setLine_brns (n : Nat) (x : Line) : (s.setLine n x).brns = s.brns := (rfl)
@[simp] theorem setLine_tnk (n : Nat) (x : Line) : (s.setLine n x).tnk = s.tnk := (rfl)
@[simp] theorem setLine_sys (n : Nat) (x : Line) : (s.setLine n x).sys = s.sys := (rfl)
@[simp] theorem setLine_otp (n : Nat) (x : Line) : (s.setLine n x).otp = s.otp := (rfl)
@[simp] theorem setLine_act (n : Nat) (x : Line) : (s.setLine n x).act = s.act := (rfl)
@[simp] theorem setLine_rsl (n : Nat) (x : Line) : (s.setLine n x).rsl = s.rsl := (rfl)
@[simp] theorem setLine_pending (n : Nat) (x : Line) : (s.setLine n x).pending = s.pending := (rfl)
@[simp] theorem setLine_fresh (n : Nat) (x : Line) : (s.setLine n x).fresh = s.fresh := (rfl)
@[simp] theorem setLine_out (n : Nat) (x : Line) : (s.setLine n x).out = s.out := (rfl)

/-! ### `setQuad` writes `quads` alone -/

@[simp] theorem setQuad_regs (d : Nat) (x : Quad) : (s.setQuad d x).regs = s.regs := (rfl)
@[simp] theorem setQuad_mem (d : Nat) (x : Quad) : (s.setQuad d x).mem = s.mem := (rfl)
@[simp] theorem setQuad_clk (d : Nat) (x : Quad) : (s.setQuad d x).clk = s.clk := (rfl)
@[simp] theorem setQuad_wide (d : Nat) (x : Quad) : (s.setQuad d x).wide = s.wide := (rfl)
@[simp] theorem setQuad_rst (d : Nat) (x : Quad) : (s.setQuad d x).rst = s.rst := (rfl)
@[simp] theorem setQuad_ports (d : Nat) (x : Quad) : (s.setQuad d x).ports = s.ports := (rfl)
@[simp] theorem setQuad_trn (d : Nat) (x : Quad) : (s.setQuad d x).trn = s.trn := (rfl)
@[simp] theorem setQuad_ldg (d : Nat) (x : Quad) : (s.setQuad d x).ldg = s.ldg := (rfl)
@[simp] theorem setQuad_xb (d : Nat) (x : Quad) : (s.setQuad d x).xb = s.xb := (rfl)
@[simp] theorem setQuad_fry (d : Nat) (x : Quad) : (s.setQuad d x).fry = s.fry := (rfl)
@[simp] theorem setQuad_bell (d : Nat) (x : Quad) : (s.setQuad d x).bell = s.bell := (rfl)
@[simp] theorem setQuad_ppsOut (d : Nat) (x : Quad) : (s.setQuad d x).ppsOut = s.ppsOut := (rfl)
@[simp] theorem setQuad_ppsRise (d : Nat) (x : Quad) : (s.setQuad d x).ppsRise = s.ppsRise := (rfl)
@[simp] theorem setQuad_trd (d : Nat) (x : Quad) : (s.setQuad d x).trd = s.trd := (rfl)
@[simp] theorem setQuad_drv (d : Nat) (x : Quad) : (s.setQuad d x).drv = s.drv := (rfl)
@[simp] theorem setQuad_chns (d : Nat) (x : Quad) : (s.setQuad d x).chns = s.chns := (rfl)
@[simp] theorem setQuad_stg (d : Nat) (x : Quad) : (s.setQuad d x).stg = s.stg := (rfl)
@[simp] theorem setQuad_stgTick (d : Nat) (x : Quad) : (s.setQuad d x).stgTick = s.stgTick := (rfl)
@[simp] theorem setQuad_stgOld (d : Nat) (x : Quad) : (s.setQuad d x).stgOld = s.stgOld := (rfl)
@[simp] theorem setQuad_cans (d : Nat) (x : Quad) : (s.setQuad d x).cans = s.cans := (rfl)
@[simp] theorem setQuad_rxmLast (d : Nat) (x : Quad) : (s.setQuad d x).rxmLast = s.rxmLast := (rfl)
@[simp] theorem setQuad_rxmAged (d : Nat) (x : Quad) : (s.setQuad d x).rxmAged = s.rxmAged := (rfl)
@[simp] theorem setQuad_asyNext (d : Nat) (x : Quad) : (s.setQuad d x).asyNext = s.asyNext := (rfl)
@[simp] theorem setQuad_asyRetry (d : Nat) (x : Quad) : (s.setQuad d x).asyRetry = s.asyRetry := (rfl)
@[simp] theorem setQuad_bad (d : Nat) (x : Quad) : (s.setQuad d x).bad = s.bad := (rfl)
@[simp] theorem setQuad_lines (d : Nat) (x : Quad) : (s.setQuad d x).lines = s.lines := (rfl)
@[simp] theorem setQuad_adc (d : Nat) (x : Quad) : (s.setQuad d x).adc = s.adc := (rfl)
@[simp] theorem setQuad_brns (d : Nat) (x : Quad) : (s.setQuad d x).brns = s.brns := (rfl)
@[simp] theorem setQuad_tnk (d : Nat) (x : Quad) : (s.setQuad d x).tnk = s.tnk := (rfl)
@[simp] theorem setQuad_sys (d : Nat) (x : Quad) : (s.setQuad d x).sys = s.sys := (rfl)
@[simp] theorem setQuad_otp (d : Nat) (x : Quad) : (s.setQuad d x).otp = s.otp := (rfl)
@[simp] theorem setQuad_act (d : Nat) (x : Quad) : (s.setQuad d x).act = s.act := (rfl)
@[simp] theorem setQuad_rsl (d : Nat) (x : Quad) : (s.setQuad d x).rsl = s.rsl := (rfl)
@[simp] theorem setQuad_pending (d : Nat) (x : Quad) : (s.setQuad d x).pending = s.pending := (rfl)
@[simp] theorem setQuad_fresh (d : Nat) (x : Quad) : (s.setQuad d x).fresh = s.fresh := (rfl)
@[simp] theorem setQuad_out (d : Nat) (x : Quad) : (s.setQuad d x).out = s.out := (rfl)

/-! ### `setBrn` writes `brns` alone -/

@[simp] theorem setBrn_regs (n : Nat) (x : Brn) : (s.setBrn n x).regs = s.regs := (rfl)
@[simp] theorem setBrn_mem (n : Nat) (x : Brn) : (s.setBrn n x).mem = s.mem := (rfl)
@[simp] theorem setBrn_clk (n : Nat) (x : Brn) : (s.setBrn n x).clk = s.clk := (rfl)
@[simp] theorem setBrn_wide (n : Nat) (x : Brn) : (s.setBrn n x).wide = s.wide := (rfl)
@[simp] theorem setBrn_rst (n : Nat) (x : Brn) : (s.setBrn n x).rst = s.rst := (rfl)
@[simp] theorem setBrn_ports (n : Nat) (x : Brn) : (s.setBrn n x).ports = s.ports := (rfl)
@[simp] theorem setBrn_trn (n : Nat) (x : Brn) : (s.setBrn n x).trn = s.trn := (rfl)
@[simp] theorem setBrn_ldg (n : Nat) (x : Brn) : (s.setBrn n x).ldg = s.ldg := (rfl)
@[simp] theorem setBrn_xb (n : Nat) (x : Brn) : (s.setBrn n x).xb = s.xb := (rfl)
@[simp] theorem setBrn_fry (n : Nat) (x : Brn) : (s.setBrn n x).fry = s.fry := (rfl)
@[simp] theorem setBrn_bell (n : Nat) (x : Brn) : (s.setBrn n x).bell = s.bell := (rfl)
@[simp] theorem setBrn_ppsOut (n : Nat) (x : Brn) : (s.setBrn n x).ppsOut = s.ppsOut := (rfl)
@[simp] theorem setBrn_ppsRise (n : Nat) (x : Brn) : (s.setBrn n x).ppsRise = s.ppsRise := (rfl)
@[simp] theorem setBrn_trd (n : Nat) (x : Brn) : (s.setBrn n x).trd = s.trd := (rfl)
@[simp] theorem setBrn_drv (n : Nat) (x : Brn) : (s.setBrn n x).drv = s.drv := (rfl)
@[simp] theorem setBrn_chns (n : Nat) (x : Brn) : (s.setBrn n x).chns = s.chns := (rfl)
@[simp] theorem setBrn_stg (n : Nat) (x : Brn) : (s.setBrn n x).stg = s.stg := (rfl)
@[simp] theorem setBrn_stgTick (n : Nat) (x : Brn) : (s.setBrn n x).stgTick = s.stgTick := (rfl)
@[simp] theorem setBrn_stgOld (n : Nat) (x : Brn) : (s.setBrn n x).stgOld = s.stgOld := (rfl)
@[simp] theorem setBrn_cans (n : Nat) (x : Brn) : (s.setBrn n x).cans = s.cans := (rfl)
@[simp] theorem setBrn_rxmLast (n : Nat) (x : Brn) : (s.setBrn n x).rxmLast = s.rxmLast := (rfl)
@[simp] theorem setBrn_rxmAged (n : Nat) (x : Brn) : (s.setBrn n x).rxmAged = s.rxmAged := (rfl)
@[simp] theorem setBrn_asyNext (n : Nat) (x : Brn) : (s.setBrn n x).asyNext = s.asyNext := (rfl)
@[simp] theorem setBrn_asyRetry (n : Nat) (x : Brn) : (s.setBrn n x).asyRetry = s.asyRetry := (rfl)
@[simp] theorem setBrn_bad (n : Nat) (x : Brn) : (s.setBrn n x).bad = s.bad := (rfl)
@[simp] theorem setBrn_lines (n : Nat) (x : Brn) : (s.setBrn n x).lines = s.lines := (rfl)
@[simp] theorem setBrn_quads (n : Nat) (x : Brn) : (s.setBrn n x).quads = s.quads := (rfl)
@[simp] theorem setBrn_adc (n : Nat) (x : Brn) : (s.setBrn n x).adc = s.adc := (rfl)
@[simp] theorem setBrn_tnk (n : Nat) (x : Brn) : (s.setBrn n x).tnk = s.tnk := (rfl)
@[simp] theorem setBrn_sys (n : Nat) (x : Brn) : (s.setBrn n x).sys = s.sys := (rfl)
@[simp] theorem setBrn_otp (n : Nat) (x : Brn) : (s.setBrn n x).otp = s.otp := (rfl)
@[simp] theorem setBrn_act (n : Nat) (x : Brn) : (s.setBrn n x).act = s.act := (rfl)
@[simp] theorem setBrn_rsl (n : Nat) (x : Brn) : (s.setBrn n x).rsl = s.rsl := (rfl)
@[simp] theorem setBrn_pending (n : Nat) (x : Brn) : (s.setBrn n x).pending = s.pending := (rfl)
@[simp] theorem setBrn_fresh (n : Nat) (x : Brn) : (s.setBrn n x).fresh = s.fresh := (rfl)
@[simp] theorem setBrn_out (n : Nat) (x : Brn) : (s.setBrn n x).out = s.out := (rfl)

/-! ### `setStg` writes `stg`, `stgTick`, `stgOld` alone -/

@[simp] theorem setStg_regs (w v : Nat) : (s.setStg w v).regs = s.regs := (rfl)
@[simp] theorem setStg_mem (w v : Nat) : (s.setStg w v).mem = s.mem := (rfl)
@[simp] theorem setStg_clk (w v : Nat) : (s.setStg w v).clk = s.clk := (rfl)
@[simp] theorem setStg_wide (w v : Nat) : (s.setStg w v).wide = s.wide := (rfl)
@[simp] theorem setStg_rst (w v : Nat) : (s.setStg w v).rst = s.rst := (rfl)
@[simp] theorem setStg_ports (w v : Nat) : (s.setStg w v).ports = s.ports := (rfl)
@[simp] theorem setStg_trn (w v : Nat) : (s.setStg w v).trn = s.trn := (rfl)
@[simp] theorem setStg_ldg (w v : Nat) : (s.setStg w v).ldg = s.ldg := (rfl)
@[simp] theorem setStg_xb (w v : Nat) : (s.setStg w v).xb = s.xb := (rfl)
@[simp] theorem setStg_fry (w v : Nat) : (s.setStg w v).fry = s.fry := (rfl)
@[simp] theorem setStg_bell (w v : Nat) : (s.setStg w v).bell = s.bell := (rfl)
@[simp] theorem setStg_ppsOut (w v : Nat) : (s.setStg w v).ppsOut = s.ppsOut := (rfl)
@[simp] theorem setStg_ppsRise (w v : Nat) : (s.setStg w v).ppsRise = s.ppsRise := (rfl)
@[simp] theorem setStg_trd (w v : Nat) : (s.setStg w v).trd = s.trd := (rfl)
@[simp] theorem setStg_drv (w v : Nat) : (s.setStg w v).drv = s.drv := (rfl)
@[simp] theorem setStg_chns (w v : Nat) : (s.setStg w v).chns = s.chns := (rfl)
@[simp] theorem setStg_cans (w v : Nat) : (s.setStg w v).cans = s.cans := (rfl)
@[simp] theorem setStg_rxmLast (w v : Nat) : (s.setStg w v).rxmLast = s.rxmLast := (rfl)
@[simp] theorem setStg_rxmAged (w v : Nat) : (s.setStg w v).rxmAged = s.rxmAged := (rfl)
@[simp] theorem setStg_asyNext (w v : Nat) : (s.setStg w v).asyNext = s.asyNext := (rfl)
@[simp] theorem setStg_asyRetry (w v : Nat) : (s.setStg w v).asyRetry = s.asyRetry := (rfl)
@[simp] theorem setStg_bad (w v : Nat) : (s.setStg w v).bad = s.bad := (rfl)
@[simp] theorem setStg_lines (w v : Nat) : (s.setStg w v).lines = s.lines := (rfl)
@[simp] theorem setStg_quads (w v : Nat) : (s.setStg w v).quads = s.quads := (rfl)
@[simp] theorem setStg_adc (w v : Nat) : (s.setStg w v).adc = s.adc := (rfl)
@[simp] theorem setStg_brns (w v : Nat) : (s.setStg w v).brns = s.brns := (rfl)
@[simp] theorem setStg_tnk (w v : Nat) : (s.setStg w v).tnk = s.tnk := (rfl)
@[simp] theorem setStg_sys (w v : Nat) : (s.setStg w v).sys = s.sys := (rfl)
@[simp] theorem setStg_otp (w v : Nat) : (s.setStg w v).otp = s.otp := (rfl)
@[simp] theorem setStg_act (w v : Nat) : (s.setStg w v).act = s.act := (rfl)
@[simp] theorem setStg_rsl (w v : Nat) : (s.setStg w v).rsl = s.rsl := (rfl)
@[simp] theorem setStg_pending (w v : Nat) : (s.setStg w v).pending = s.pending := (rfl)
@[simp] theorem setStg_fresh (w v : Nat) : (s.setStg w v).fresh = s.fresh := (rfl)
@[simp] theorem setStg_out (w v : Nat) : (s.setStg w v).out = s.out := (rfl)

/-! ### `emit` writes `out` alone -/

@[simp] theorem emit_regs (o : Output) : (s.emit o).regs = s.regs := (rfl)
@[simp] theorem emit_mem (o : Output) : (s.emit o).mem = s.mem := (rfl)
@[simp] theorem emit_clk (o : Output) : (s.emit o).clk = s.clk := (rfl)
@[simp] theorem emit_wide (o : Output) : (s.emit o).wide = s.wide := (rfl)
@[simp] theorem emit_rst (o : Output) : (s.emit o).rst = s.rst := (rfl)
@[simp] theorem emit_ports (o : Output) : (s.emit o).ports = s.ports := (rfl)
@[simp] theorem emit_trn (o : Output) : (s.emit o).trn = s.trn := (rfl)
@[simp] theorem emit_ldg (o : Output) : (s.emit o).ldg = s.ldg := (rfl)
@[simp] theorem emit_xb (o : Output) : (s.emit o).xb = s.xb := (rfl)
@[simp] theorem emit_fry (o : Output) : (s.emit o).fry = s.fry := (rfl)
@[simp] theorem emit_bell (o : Output) : (s.emit o).bell = s.bell := (rfl)
@[simp] theorem emit_ppsOut (o : Output) : (s.emit o).ppsOut = s.ppsOut := (rfl)
@[simp] theorem emit_ppsRise (o : Output) : (s.emit o).ppsRise = s.ppsRise := (rfl)
@[simp] theorem emit_trd (o : Output) : (s.emit o).trd = s.trd := (rfl)
@[simp] theorem emit_drv (o : Output) : (s.emit o).drv = s.drv := (rfl)
@[simp] theorem emit_chns (o : Output) : (s.emit o).chns = s.chns := (rfl)
@[simp] theorem emit_stg (o : Output) : (s.emit o).stg = s.stg := (rfl)
@[simp] theorem emit_stgTick (o : Output) : (s.emit o).stgTick = s.stgTick := (rfl)
@[simp] theorem emit_stgOld (o : Output) : (s.emit o).stgOld = s.stgOld := (rfl)
@[simp] theorem emit_cans (o : Output) : (s.emit o).cans = s.cans := (rfl)
@[simp] theorem emit_rxmLast (o : Output) : (s.emit o).rxmLast = s.rxmLast := (rfl)
@[simp] theorem emit_rxmAged (o : Output) : (s.emit o).rxmAged = s.rxmAged := (rfl)
@[simp] theorem emit_asyNext (o : Output) : (s.emit o).asyNext = s.asyNext := (rfl)
@[simp] theorem emit_asyRetry (o : Output) : (s.emit o).asyRetry = s.asyRetry := (rfl)
@[simp] theorem emit_bad (o : Output) : (s.emit o).bad = s.bad := (rfl)
@[simp] theorem emit_lines (o : Output) : (s.emit o).lines = s.lines := (rfl)
@[simp] theorem emit_quads (o : Output) : (s.emit o).quads = s.quads := (rfl)
@[simp] theorem emit_adc (o : Output) : (s.emit o).adc = s.adc := (rfl)
@[simp] theorem emit_brns (o : Output) : (s.emit o).brns = s.brns := (rfl)
@[simp] theorem emit_tnk (o : Output) : (s.emit o).tnk = s.tnk := (rfl)
@[simp] theorem emit_sys (o : Output) : (s.emit o).sys = s.sys := (rfl)
@[simp] theorem emit_otp (o : Output) : (s.emit o).otp = s.otp := (rfl)
@[simp] theorem emit_act (o : Output) : (s.emit o).act = s.act := (rfl)
@[simp] theorem emit_rsl (o : Output) : (s.emit o).rsl = s.rsl := (rfl)
@[simp] theorem emit_pending (o : Output) : (s.emit o).pending = s.pending := (rfl)
@[simp] theorem emit_fresh (o : Output) : (s.emit o).fresh = s.fresh := (rfl)

/-! ### `wrs` writes `regs` alone -/

@[simp] theorem wrs_mem (l : List (Fld × Nat)) : (wrs s l).mem = s.mem := by
  induction l generalizing s with
  | nil => rfl
  | cons p l ih => exact (ih (wr s p.1 p.2)).trans rfl
@[simp] theorem wrs_clk (l : List (Fld × Nat)) : (wrs s l).clk = s.clk := by
  induction l generalizing s with
  | nil => rfl
  | cons p l ih => exact (ih (wr s p.1 p.2)).trans rfl
@[simp] theorem wrs_wide (l : List (Fld × Nat)) : (wrs s l).wide = s.wide := by
  induction l generalizing s with
  | nil => rfl
  | cons p l ih => exact (ih (wr s p.1 p.2)).trans rfl
@[simp] theorem wrs_rst (l : List (Fld × Nat)) : (wrs s l).rst = s.rst := by
  induction l generalizing s with
  | nil => rfl
  | cons p l ih => exact (ih (wr s p.1 p.2)).trans rfl
@[simp] theorem wrs_ports (l : List (Fld × Nat)) : (wrs s l).ports = s.ports := by
  induction l generalizing s with
  | nil => rfl
  | cons p l ih => exact (ih (wr s p.1 p.2)).trans rfl
@[simp] theorem wrs_trn (l : List (Fld × Nat)) : (wrs s l).trn = s.trn := by
  induction l generalizing s with
  | nil => rfl
  | cons p l ih => exact (ih (wr s p.1 p.2)).trans rfl
@[simp] theorem wrs_ldg (l : List (Fld × Nat)) : (wrs s l).ldg = s.ldg := by
  induction l generalizing s with
  | nil => rfl
  | cons p l ih => exact (ih (wr s p.1 p.2)).trans rfl
@[simp] theorem wrs_xb (l : List (Fld × Nat)) : (wrs s l).xb = s.xb := by
  induction l generalizing s with
  | nil => rfl
  | cons p l ih => exact (ih (wr s p.1 p.2)).trans rfl
@[simp] theorem wrs_fry (l : List (Fld × Nat)) : (wrs s l).fry = s.fry := by
  induction l generalizing s with
  | nil => rfl
  | cons p l ih => exact (ih (wr s p.1 p.2)).trans rfl
@[simp] theorem wrs_bell (l : List (Fld × Nat)) : (wrs s l).bell = s.bell := by
  induction l generalizing s with
  | nil => rfl
  | cons p l ih => exact (ih (wr s p.1 p.2)).trans rfl
@[simp] theorem wrs_ppsOut (l : List (Fld × Nat)) : (wrs s l).ppsOut = s.ppsOut := by
  induction l generalizing s with
  | nil => rfl
  | cons p l ih => exact (ih (wr s p.1 p.2)).trans rfl
@[simp] theorem wrs_ppsRise (l : List (Fld × Nat)) : (wrs s l).ppsRise = s.ppsRise := by
  induction l generalizing s with
  | nil => rfl
  | cons p l ih => exact (ih (wr s p.1 p.2)).trans rfl
@[simp] theorem wrs_trd (l : List (Fld × Nat)) : (wrs s l).trd = s.trd := by
  induction l generalizing s with
  | nil => rfl
  | cons p l ih => exact (ih (wr s p.1 p.2)).trans rfl
@[simp] theorem wrs_drv (l : List (Fld × Nat)) : (wrs s l).drv = s.drv := by
  induction l generalizing s with
  | nil => rfl
  | cons p l ih => exact (ih (wr s p.1 p.2)).trans rfl
@[simp] theorem wrs_chns (l : List (Fld × Nat)) : (wrs s l).chns = s.chns := by
  induction l generalizing s with
  | nil => rfl
  | cons p l ih => exact (ih (wr s p.1 p.2)).trans rfl
@[simp] theorem wrs_stg (l : List (Fld × Nat)) : (wrs s l).stg = s.stg := by
  induction l generalizing s with
  | nil => rfl
  | cons p l ih => exact (ih (wr s p.1 p.2)).trans rfl
@[simp] theorem wrs_stgTick (l : List (Fld × Nat)) : (wrs s l).stgTick = s.stgTick := by
  induction l generalizing s with
  | nil => rfl
  | cons p l ih => exact (ih (wr s p.1 p.2)).trans rfl
@[simp] theorem wrs_stgOld (l : List (Fld × Nat)) : (wrs s l).stgOld = s.stgOld := by
  induction l generalizing s with
  | nil => rfl
  | cons p l ih => exact (ih (wr s p.1 p.2)).trans rfl
@[simp] theorem wrs_cans (l : List (Fld × Nat)) : (wrs s l).cans = s.cans := by
  induction l generalizing s with
  | nil => rfl
  | cons p l ih => exact (ih (wr s p.1 p.2)).trans rfl
@[simp] theorem wrs_rxmLast (l : List (Fld × Nat)) : (wrs s l).rxmLast = s.rxmLast := by
  induction l generalizing s with
  | nil => rfl
  | cons p l ih => exact (ih (wr s p.1 p.2)).trans rfl
@[simp] theorem wrs_rxmAged (l : List (Fld × Nat)) : (wrs s l).rxmAged = s.rxmAged := by
  induction l generalizing s with
  | nil => rfl
  | cons p l ih => exact (ih (wr s p.1 p.2)).trans rfl
@[simp] theorem wrs_asyNext (l : List (Fld × Nat)) : (wrs s l).asyNext = s.asyNext := by
  induction l generalizing s with
  | nil => rfl
  | cons p l ih => exact (ih (wr s p.1 p.2)).trans rfl
@[simp] theorem wrs_asyRetry (l : List (Fld × Nat)) : (wrs s l).asyRetry = s.asyRetry := by
  induction l generalizing s with
  | nil => rfl
  | cons p l ih => exact (ih (wr s p.1 p.2)).trans rfl
@[simp] theorem wrs_bad (l : List (Fld × Nat)) : (wrs s l).bad = s.bad := by
  induction l generalizing s with
  | nil => rfl
  | cons p l ih => exact (ih (wr s p.1 p.2)).trans rfl
@[simp] theorem wrs_lines (l : List (Fld × Nat)) : (wrs s l).lines = s.lines := by
  induction l generalizing s with
  | nil => rfl
  | cons p l ih => exact (ih (wr s p.1 p.2)).trans rfl
@[simp] theorem wrs_quads (l : List (Fld × Nat)) : (wrs s l).quads = s.quads := by
  induction l generalizing s with
  | nil => rfl
  | cons p l ih => exact (ih (wr s p.1 p.2)).trans rfl
@[simp] theorem wrs_adc (l : List (Fld × Nat)) : (wrs s l).adc = s.adc := by
  induction l generalizing s with
  | nil => rfl
  | cons p l ih => exact (ih (wr s p.1 p.2)).trans rfl
@[simp] theorem wrs_brns (l : List (Fld × Nat)) : (wrs s l).brns = s.brns := by
  induction l generalizing s with
  | nil => rfl
  | cons p l ih => exact (ih (wr s p.1 p.2)).trans rfl
@[simp] theorem wrs_tnk (l : List (Fld × Nat)) : (wrs s l).tnk = s.tnk := by
  induction l generalizing s with
  | nil => rfl
  | cons p l ih => exact (ih (wr s p.1 p.2)).trans rfl
@[simp] theorem wrs_sys (l : List (Fld × Nat)) : (wrs s l).sys = s.sys := by
  induction l generalizing s with
  | nil => rfl
  | cons p l ih => exact (ih (wr s p.1 p.2)).trans rfl
@[simp] theorem wrs_otp (l : List (Fld × Nat)) : (wrs s l).otp = s.otp := by
  induction l generalizing s with
  | nil => rfl
  | cons p l ih => exact (ih (wr s p.1 p.2)).trans rfl
@[simp] theorem wrs_act (l : List (Fld × Nat)) : (wrs s l).act = s.act := by
  induction l generalizing s with
  | nil => rfl
  | cons p l ih => exact (ih (wr s p.1 p.2)).trans rfl
@[simp] theorem wrs_rsl (l : List (Fld × Nat)) : (wrs s l).rsl = s.rsl := by
  induction l generalizing s with
  | nil => rfl
  | cons p l ih => exact (ih (wr s p.1 p.2)).trans rfl
@[simp] theorem wrs_pending (l : List (Fld × Nat)) : (wrs s l).pending = s.pending := by
  induction l generalizing s with
  | nil => rfl
  | cons p l ih => exact (ih (wr s p.1 p.2)).trans rfl
@[simp] theorem wrs_fresh (l : List (Fld × Nat)) : (wrs s l).fresh = s.fresh := by
  induction l generalizing s with
  | nil => rfl
  | cons p l ih => exact (ih (wr s p.1 p.2)).trans rfl
@[simp] theorem wrs_out (l : List (Fld × Nat)) : (wrs s l).out = s.out := by
  induction l generalizing s with
  | nil => rfl
  | cons p l ih => exact (ih (wr s p.1 p.2)).trans rfl

/-! ### `memPuts` writes `mem` alone -/

@[simp] theorem memPuts_regs (a : Nat) (l : List Byte) : (memPuts s a l).regs = s.regs := by
  induction l generalizing s a with
  | nil => rfl
  | cons b l ih => exact (ih (memPut s a b) (a + 1)).trans rfl
@[simp] theorem memPuts_clk (a : Nat) (l : List Byte) : (memPuts s a l).clk = s.clk := by
  induction l generalizing s a with
  | nil => rfl
  | cons b l ih => exact (ih (memPut s a b) (a + 1)).trans rfl
@[simp] theorem memPuts_wide (a : Nat) (l : List Byte) : (memPuts s a l).wide = s.wide := by
  induction l generalizing s a with
  | nil => rfl
  | cons b l ih => exact (ih (memPut s a b) (a + 1)).trans rfl
@[simp] theorem memPuts_rst (a : Nat) (l : List Byte) : (memPuts s a l).rst = s.rst := by
  induction l generalizing s a with
  | nil => rfl
  | cons b l ih => exact (ih (memPut s a b) (a + 1)).trans rfl
@[simp] theorem memPuts_ports (a : Nat) (l : List Byte) : (memPuts s a l).ports = s.ports := by
  induction l generalizing s a with
  | nil => rfl
  | cons b l ih => exact (ih (memPut s a b) (a + 1)).trans rfl
@[simp] theorem memPuts_trn (a : Nat) (l : List Byte) : (memPuts s a l).trn = s.trn := by
  induction l generalizing s a with
  | nil => rfl
  | cons b l ih => exact (ih (memPut s a b) (a + 1)).trans rfl
@[simp] theorem memPuts_ldg (a : Nat) (l : List Byte) : (memPuts s a l).ldg = s.ldg := by
  induction l generalizing s a with
  | nil => rfl
  | cons b l ih => exact (ih (memPut s a b) (a + 1)).trans rfl
@[simp] theorem memPuts_xb (a : Nat) (l : List Byte) : (memPuts s a l).xb = s.xb := by
  induction l generalizing s a with
  | nil => rfl
  | cons b l ih => exact (ih (memPut s a b) (a + 1)).trans rfl
@[simp] theorem memPuts_fry (a : Nat) (l : List Byte) : (memPuts s a l).fry = s.fry := by
  induction l generalizing s a with
  | nil => rfl
  | cons b l ih => exact (ih (memPut s a b) (a + 1)).trans rfl
@[simp] theorem memPuts_bell (a : Nat) (l : List Byte) : (memPuts s a l).bell = s.bell := by
  induction l generalizing s a with
  | nil => rfl
  | cons b l ih => exact (ih (memPut s a b) (a + 1)).trans rfl
@[simp] theorem memPuts_ppsOut (a : Nat) (l : List Byte) : (memPuts s a l).ppsOut = s.ppsOut := by
  induction l generalizing s a with
  | nil => rfl
  | cons b l ih => exact (ih (memPut s a b) (a + 1)).trans rfl
@[simp] theorem memPuts_ppsRise (a : Nat) (l : List Byte) : (memPuts s a l).ppsRise = s.ppsRise := by
  induction l generalizing s a with
  | nil => rfl
  | cons b l ih => exact (ih (memPut s a b) (a + 1)).trans rfl
@[simp] theorem memPuts_trd (a : Nat) (l : List Byte) : (memPuts s a l).trd = s.trd := by
  induction l generalizing s a with
  | nil => rfl
  | cons b l ih => exact (ih (memPut s a b) (a + 1)).trans rfl
@[simp] theorem memPuts_drv (a : Nat) (l : List Byte) : (memPuts s a l).drv = s.drv := by
  induction l generalizing s a with
  | nil => rfl
  | cons b l ih => exact (ih (memPut s a b) (a + 1)).trans rfl
@[simp] theorem memPuts_chns (a : Nat) (l : List Byte) : (memPuts s a l).chns = s.chns := by
  induction l generalizing s a with
  | nil => rfl
  | cons b l ih => exact (ih (memPut s a b) (a + 1)).trans rfl
@[simp] theorem memPuts_stg (a : Nat) (l : List Byte) : (memPuts s a l).stg = s.stg := by
  induction l generalizing s a with
  | nil => rfl
  | cons b l ih => exact (ih (memPut s a b) (a + 1)).trans rfl
@[simp] theorem memPuts_stgTick (a : Nat) (l : List Byte) : (memPuts s a l).stgTick = s.stgTick := by
  induction l generalizing s a with
  | nil => rfl
  | cons b l ih => exact (ih (memPut s a b) (a + 1)).trans rfl
@[simp] theorem memPuts_stgOld (a : Nat) (l : List Byte) : (memPuts s a l).stgOld = s.stgOld := by
  induction l generalizing s a with
  | nil => rfl
  | cons b l ih => exact (ih (memPut s a b) (a + 1)).trans rfl
@[simp] theorem memPuts_cans (a : Nat) (l : List Byte) : (memPuts s a l).cans = s.cans := by
  induction l generalizing s a with
  | nil => rfl
  | cons b l ih => exact (ih (memPut s a b) (a + 1)).trans rfl
@[simp] theorem memPuts_rxmLast (a : Nat) (l : List Byte) : (memPuts s a l).rxmLast = s.rxmLast := by
  induction l generalizing s a with
  | nil => rfl
  | cons b l ih => exact (ih (memPut s a b) (a + 1)).trans rfl
@[simp] theorem memPuts_rxmAged (a : Nat) (l : List Byte) : (memPuts s a l).rxmAged = s.rxmAged := by
  induction l generalizing s a with
  | nil => rfl
  | cons b l ih => exact (ih (memPut s a b) (a + 1)).trans rfl
@[simp] theorem memPuts_asyNext (a : Nat) (l : List Byte) : (memPuts s a l).asyNext = s.asyNext := by
  induction l generalizing s a with
  | nil => rfl
  | cons b l ih => exact (ih (memPut s a b) (a + 1)).trans rfl
@[simp] theorem memPuts_asyRetry (a : Nat) (l : List Byte) : (memPuts s a l).asyRetry = s.asyRetry := by
  induction l generalizing s a with
  | nil => rfl
  | cons b l ih => exact (ih (memPut s a b) (a + 1)).trans rfl
@[simp] theorem memPuts_bad (a : Nat) (l : List Byte) : (memPuts s a l).bad = s.bad := by
  induction l generalizing s a with
  | nil => rfl
  | cons b l ih => exact (ih (memPut s a b) (a + 1)).trans rfl
@[simp] theorem memPuts_lines (a : Nat) (l : List Byte) : (memPuts s a l).lines = s.lines := by
  induction l generalizing s a with
  | nil => rfl
  | cons b l ih => exact (ih (memPut s a b) (a + 1)).trans rfl
@[simp] theorem memPuts_quads (a : Nat) (l : List Byte) : (memPuts s a l).quads = s.quads := by
  induction l generalizing s a with
  | nil => rfl
  | cons b l ih => exact (ih (memPut s a b) (a + 1)).trans rfl
@[simp] theorem memPuts_adc (a : Nat) (l : List Byte) : (memPuts s a l).adc = s.adc := by
  induction l generalizing s a with
  | nil => rfl
  | cons b l ih => exact (ih (memPut s a b) (a + 1)).trans rfl
@[simp] theorem memPuts_brns (a : Nat) (l : List Byte) : (memPuts s a l).brns = s.brns := by
  induction l generalizing s a with
  | nil => rfl
  | cons b l ih => exact (ih (memPut s a b) (a + 1)).trans rfl
@[simp] theorem memPuts_tnk (a : Nat) (l : List Byte) : (memPuts s a l).tnk = s.tnk := by
  induction l generalizing s a with
  | nil => rfl
  | cons b l ih => exact (ih (memPut s a b) (a + 1)).trans rfl
@[simp] theorem memPuts_sys (a : Nat) (l : List Byte) : (memPuts s a l).sys = s.sys := by
  induction l generalizing s a with
  | nil => rfl
  | cons b l ih => exact (ih (memPut s a b) (a + 1)).trans rfl
@[simp] theorem memPuts_otp (a : Nat) (l : List Byte) : (memPuts s a l).otp = s.otp := by
  induction l generalizing s a with
  | nil => rfl
  | cons b l ih => exact (ih (memPut s a b) (a + 1)).trans rfl
@[simp] theorem memPuts_act (a : Nat) (l : List Byte) : (memPuts s a l).act = s.act := by
  induction l generalizing s a with
  | nil => rfl
  | cons b l ih => exact (ih (memPut s a b) (a + 1)).trans rfl
@[simp] theorem memPuts_rsl (a : Nat) (l : List Byte) : (memPuts s a l).rsl = s.rsl := by
  induction l generalizing s a with
  | nil => rfl
  | cons b l ih => exact (ih (memPut s a b) (a + 1)).trans rfl
@[simp] theorem memPuts_pending (a : Nat) (l : List Byte) : (memPuts s a l).pending = s.pending := by
  induction l generalizing s a with
  | nil => rfl
  | cons b l ih => exact (ih (memPut s a b) (a + 1)).trans rfl
@[simp] theorem memPuts_fresh (a : Nat) (l : List Byte) : (memPuts s a l).fresh = s.fresh := by
  induction l generalizing s a with
  | nil => rfl
  | cons b l ih => exact (ih (memPut s a b) (a + 1)).trans rfl
@[simp] theorem memPuts_out (a : Nat) (l : List Byte) : (memPuts s a l).out = s.out := by
  induction l generalizing s a with
  | nil => rfl
  | cons b l ih => exact (ih (memPut s a b) (a + 1)).trans rfl

/-! ### `norProgram` writes `mem` alone -/

@[simp] theorem norProgram_regs (off : Nat) (l : List Byte) : (norProgram s off l).regs = s.regs := by
  induction l generalizing s off with
  | nil => rfl
  | cons b l ih => exact (ih _ (off + 1)).trans rfl
@[simp] theorem norProgram_clk (off : Nat) (l : List Byte) : (norProgram s off l).clk = s.clk := by
  induction l generalizing s off with
  | nil => rfl
  | cons b l ih => exact (ih _ (off + 1)).trans rfl
@[simp] theorem norProgram_wide (off : Nat) (l : List Byte) : (norProgram s off l).wide = s.wide := by
  induction l generalizing s off with
  | nil => rfl
  | cons b l ih => exact (ih _ (off + 1)).trans rfl
@[simp] theorem norProgram_rst (off : Nat) (l : List Byte) : (norProgram s off l).rst = s.rst := by
  induction l generalizing s off with
  | nil => rfl
  | cons b l ih => exact (ih _ (off + 1)).trans rfl
@[simp] theorem norProgram_ports (off : Nat) (l : List Byte) : (norProgram s off l).ports = s.ports := by
  induction l generalizing s off with
  | nil => rfl
  | cons b l ih => exact (ih _ (off + 1)).trans rfl
@[simp] theorem norProgram_trn (off : Nat) (l : List Byte) : (norProgram s off l).trn = s.trn := by
  induction l generalizing s off with
  | nil => rfl
  | cons b l ih => exact (ih _ (off + 1)).trans rfl
@[simp] theorem norProgram_ldg (off : Nat) (l : List Byte) : (norProgram s off l).ldg = s.ldg := by
  induction l generalizing s off with
  | nil => rfl
  | cons b l ih => exact (ih _ (off + 1)).trans rfl
@[simp] theorem norProgram_xb (off : Nat) (l : List Byte) : (norProgram s off l).xb = s.xb := by
  induction l generalizing s off with
  | nil => rfl
  | cons b l ih => exact (ih _ (off + 1)).trans rfl
@[simp] theorem norProgram_fry (off : Nat) (l : List Byte) : (norProgram s off l).fry = s.fry := by
  induction l generalizing s off with
  | nil => rfl
  | cons b l ih => exact (ih _ (off + 1)).trans rfl
@[simp] theorem norProgram_bell (off : Nat) (l : List Byte) : (norProgram s off l).bell = s.bell := by
  induction l generalizing s off with
  | nil => rfl
  | cons b l ih => exact (ih _ (off + 1)).trans rfl
@[simp] theorem norProgram_ppsOut (off : Nat) (l : List Byte) : (norProgram s off l).ppsOut = s.ppsOut := by
  induction l generalizing s off with
  | nil => rfl
  | cons b l ih => exact (ih _ (off + 1)).trans rfl
@[simp] theorem norProgram_ppsRise (off : Nat) (l : List Byte) : (norProgram s off l).ppsRise = s.ppsRise := by
  induction l generalizing s off with
  | nil => rfl
  | cons b l ih => exact (ih _ (off + 1)).trans rfl
@[simp] theorem norProgram_trd (off : Nat) (l : List Byte) : (norProgram s off l).trd = s.trd := by
  induction l generalizing s off with
  | nil => rfl
  | cons b l ih => exact (ih _ (off + 1)).trans rfl
@[simp] theorem norProgram_drv (off : Nat) (l : List Byte) : (norProgram s off l).drv = s.drv := by
  induction l generalizing s off with
  | nil => rfl
  | cons b l ih => exact (ih _ (off + 1)).trans rfl
@[simp] theorem norProgram_chns (off : Nat) (l : List Byte) : (norProgram s off l).chns = s.chns := by
  induction l generalizing s off with
  | nil => rfl
  | cons b l ih => exact (ih _ (off + 1)).trans rfl
@[simp] theorem norProgram_stg (off : Nat) (l : List Byte) : (norProgram s off l).stg = s.stg := by
  induction l generalizing s off with
  | nil => rfl
  | cons b l ih => exact (ih _ (off + 1)).trans rfl
@[simp] theorem norProgram_stgTick (off : Nat) (l : List Byte) : (norProgram s off l).stgTick = s.stgTick := by
  induction l generalizing s off with
  | nil => rfl
  | cons b l ih => exact (ih _ (off + 1)).trans rfl
@[simp] theorem norProgram_stgOld (off : Nat) (l : List Byte) : (norProgram s off l).stgOld = s.stgOld := by
  induction l generalizing s off with
  | nil => rfl
  | cons b l ih => exact (ih _ (off + 1)).trans rfl
@[simp] theorem norProgram_cans (off : Nat) (l : List Byte) : (norProgram s off l).cans = s.cans := by
  induction l generalizing s off with
  | nil => rfl
  | cons b l ih => exact (ih _ (off + 1)).trans rfl
@[simp] theorem norProgram_rxmLast (off : Nat) (l : List Byte) : (norProgram s off l).rxmLast = s.rxmLast := by
  induction l generalizing s off with
  | nil => rfl
  | cons b l ih => exact (ih _ (off + 1)).trans rfl
@[simp] theorem norProgram_rxmAged (off : Nat) (l : List Byte) : (norProgram s off l).rxmAged = s.rxmAged := by
  induction l generalizing s off with
  | nil => rfl
  | cons b l ih => exact (ih _ (off + 1)).trans rfl
@[simp] theorem norProgram_asyNext (off : Nat) (l : List Byte) : (norProgram s off l).asyNext = s.asyNext := by
  induction l generalizing s off with
  | nil => rfl
  | cons b l ih => exact (ih _ (off + 1)).trans rfl
@[simp] theorem norProgram_asyRetry (off : Nat) (l : List Byte) : (norProgram s off l).asyRetry = s.asyRetry := by
  induction l generalizing s off with
  | nil => rfl
  | cons b l ih => exact (ih _ (off + 1)).trans rfl
@[simp] theorem norProgram_bad (off : Nat) (l : List Byte) : (norProgram s off l).bad = s.bad := by
  induction l generalizing s off with
  | nil => rfl
  | cons b l ih => exact (ih _ (off + 1)).trans rfl
@[simp] theorem norProgram_lines (off : Nat) (l : List Byte) : (norProgram s off l).lines = s.lines := by
  induction l generalizing s off with
  | nil => rfl
  | cons b l ih => exact (ih _ (off + 1)).trans rfl
@[simp] theorem norProgram_quads (off : Nat) (l : List Byte) : (norProgram s off l).quads = s.quads := by
  induction l generalizing s off with
  | nil => rfl
  | cons b l ih => exact (ih _ (off + 1)).trans rfl
@[simp] theorem norProgram_adc (off : Nat) (l : List Byte) : (norProgram s off l).adc = s.adc := by
  induction l generalizing s off with
  | nil => rfl
  | cons b l ih => exact (ih _ (off + 1)).trans rfl
@[simp] theorem norProgram_brns (off : Nat) (l : List Byte) : (norProgram s off l).brns = s.brns := by
  induction l generalizing s off with
  | nil => rfl
  | cons b l ih => exact (ih _ (off + 1)).trans rfl
@[simp] theorem norProgram_tnk (off : Nat) (l : List Byte) : (norProgram s off l).tnk = s.tnk := by
  induction l generalizing s off with
  | nil => rfl
  | cons b l ih => exact (ih _ (off + 1)).trans rfl
@[simp] theorem norProgram_sys (off : Nat) (l : List Byte) : (norProgram s off l).sys = s.sys := by
  induction l generalizing s off with
  | nil => rfl
  | cons b l ih => exact (ih _ (off + 1)).trans rfl
@[simp] theorem norProgram_otp (off : Nat) (l : List Byte) : (norProgram s off l).otp = s.otp := by
  induction l generalizing s off with
  | nil => rfl
  | cons b l ih => exact (ih _ (off + 1)).trans rfl
@[simp] theorem norProgram_act (off : Nat) (l : List Byte) : (norProgram s off l).act = s.act := by
  induction l generalizing s off with
  | nil => rfl
  | cons b l ih => exact (ih _ (off + 1)).trans rfl
@[simp] theorem norProgram_rsl (off : Nat) (l : List Byte) : (norProgram s off l).rsl = s.rsl := by
  induction l generalizing s off with
  | nil => rfl
  | cons b l ih => exact (ih _ (off + 1)).trans rfl
@[simp] theorem norProgram_pending (off : Nat) (l : List Byte) : (norProgram s off l).pending = s.pending := by
  induction l generalizing s off with
  | nil => rfl
  | cons b l ih => exact (ih _ (off + 1)).trans rfl
@[simp] theorem norProgram_fresh (off : Nat) (l : List Byte) : (norProgram s off l).fresh = s.fresh := by
  induction l generalizing s off with
  | nil => rfl
  | cons b l ih => exact (ih _ (off + 1)).trans rfl
@[simp] theorem norProgram_out (off : Nat) (l : List Byte) : (norProgram s off l).out = s.out := by
  induction l generalizing s off with
  | nil => rfl
  | cons b l ih => exact (ih _ (off + 1)).trans rfl

/-! ### `memPutWord` writes `mem` alone -/

@[simp] theorem memPutWord_regs (a v : Nat) : (memPutWord s a v).regs = s.regs := memPuts_regs s a _
@[simp] theorem memPutWord_clk (a v : Nat) : (memPutWord s a v).clk = s.clk := memPuts_clk s a _
@[simp] theorem memPutWord_wide (a v : Nat) : (memPutWord s a v).wide = s.wide := memPuts_wide s a _
@[simp] theorem memPutWord_rst (a v : Nat) : (memPutWord s a v).rst = s.rst := memPuts_rst s a _
@[simp] theorem memPutWord_ports (a v : Nat) : (memPutWord s a v).ports = s.ports := memPuts_ports s a _
@[simp] theorem memPutWord_trn (a v : Nat) : (memPutWord s a v).trn = s.trn := memPuts_trn s a _
@[simp] theorem memPutWord_ldg (a v : Nat) : (memPutWord s a v).ldg = s.ldg := memPuts_ldg s a _
@[simp] theorem memPutWord_xb (a v : Nat) : (memPutWord s a v).xb = s.xb := memPuts_xb s a _
@[simp] theorem memPutWord_fry (a v : Nat) : (memPutWord s a v).fry = s.fry := memPuts_fry s a _
@[simp] theorem memPutWord_bell (a v : Nat) : (memPutWord s a v).bell = s.bell := memPuts_bell s a _
@[simp] theorem memPutWord_ppsOut (a v : Nat) : (memPutWord s a v).ppsOut = s.ppsOut := memPuts_ppsOut s a _
@[simp] theorem memPutWord_ppsRise (a v : Nat) : (memPutWord s a v).ppsRise = s.ppsRise := memPuts_ppsRise s a _
@[simp] theorem memPutWord_trd (a v : Nat) : (memPutWord s a v).trd = s.trd := memPuts_trd s a _
@[simp] theorem memPutWord_drv (a v : Nat) : (memPutWord s a v).drv = s.drv := memPuts_drv s a _
@[simp] theorem memPutWord_chns (a v : Nat) : (memPutWord s a v).chns = s.chns := memPuts_chns s a _
@[simp] theorem memPutWord_stg (a v : Nat) : (memPutWord s a v).stg = s.stg := memPuts_stg s a _
@[simp] theorem memPutWord_stgTick (a v : Nat) : (memPutWord s a v).stgTick = s.stgTick := memPuts_stgTick s a _
@[simp] theorem memPutWord_stgOld (a v : Nat) : (memPutWord s a v).stgOld = s.stgOld := memPuts_stgOld s a _
@[simp] theorem memPutWord_cans (a v : Nat) : (memPutWord s a v).cans = s.cans := memPuts_cans s a _
@[simp] theorem memPutWord_rxmLast (a v : Nat) : (memPutWord s a v).rxmLast = s.rxmLast := memPuts_rxmLast s a _
@[simp] theorem memPutWord_rxmAged (a v : Nat) : (memPutWord s a v).rxmAged = s.rxmAged := memPuts_rxmAged s a _
@[simp] theorem memPutWord_asyNext (a v : Nat) : (memPutWord s a v).asyNext = s.asyNext := memPuts_asyNext s a _
@[simp] theorem memPutWord_asyRetry (a v : Nat) : (memPutWord s a v).asyRetry = s.asyRetry := memPuts_asyRetry s a _
@[simp] theorem memPutWord_bad (a v : Nat) : (memPutWord s a v).bad = s.bad := memPuts_bad s a _
@[simp] theorem memPutWord_lines (a v : Nat) : (memPutWord s a v).lines = s.lines := memPuts_lines s a _
@[simp] theorem memPutWord_quads (a v : Nat) : (memPutWord s a v).quads = s.quads := memPuts_quads s a _
@[simp] theorem memPutWord_adc (a v : Nat) : (memPutWord s a v).adc = s.adc := memPuts_adc s a _
@[simp] theorem memPutWord_brns (a v : Nat) : (memPutWord s a v).brns = s.brns := memPuts_brns s a _
@[simp] theorem memPutWord_tnk (a v : Nat) : (memPutWord s a v).tnk = s.tnk := memPuts_tnk s a _
@[simp] theorem memPutWord_sys (a v : Nat) : (memPutWord s a v).sys = s.sys := memPuts_sys s a _
@[simp] theorem memPutWord_otp (a v : Nat) : (memPutWord s a v).otp = s.otp := memPuts_otp s a _
@[simp] theorem memPutWord_act (a v : Nat) : (memPutWord s a v).act = s.act := memPuts_act s a _
@[simp] theorem memPutWord_rsl (a v : Nat) : (memPutWord s a v).rsl = s.rsl := memPuts_rsl s a _
@[simp] theorem memPutWord_pending (a v : Nat) : (memPutWord s a v).pending = s.pending := memPuts_pending s a _
@[simp] theorem memPutWord_fresh (a v : Nat) : (memPutWord s a v).fresh = s.fresh := memPuts_fresh s a _
@[simp] theorem memPutWord_out (a v : Nat) : (memPutWord s a v).out = s.out := memPuts_out s a _

/-! ### `advanceTo` writes `clk` alone -/

@[simp] theorem advanceTo_regs (ns : Nat) : (advanceTo s ns).regs = s.regs := by
  unfold advanceTo; split <;> rfl
@[simp] theorem advanceTo_mem (ns : Nat) : (advanceTo s ns).mem = s.mem := by
  unfold advanceTo; split <;> rfl
@[simp] theorem advanceTo_wide (ns : Nat) : (advanceTo s ns).wide = s.wide := by
  unfold advanceTo; split <;> rfl
@[simp] theorem advanceTo_rst (ns : Nat) : (advanceTo s ns).rst = s.rst := by
  unfold advanceTo; split <;> rfl
@[simp] theorem advanceTo_ports (ns : Nat) : (advanceTo s ns).ports = s.ports := by
  unfold advanceTo; split <;> rfl
@[simp] theorem advanceTo_trn (ns : Nat) : (advanceTo s ns).trn = s.trn := by
  unfold advanceTo; split <;> rfl
@[simp] theorem advanceTo_ldg (ns : Nat) : (advanceTo s ns).ldg = s.ldg := by
  unfold advanceTo; split <;> rfl
@[simp] theorem advanceTo_xb (ns : Nat) : (advanceTo s ns).xb = s.xb := by
  unfold advanceTo; split <;> rfl
@[simp] theorem advanceTo_fry (ns : Nat) : (advanceTo s ns).fry = s.fry := by
  unfold advanceTo; split <;> rfl
@[simp] theorem advanceTo_bell (ns : Nat) : (advanceTo s ns).bell = s.bell := by
  unfold advanceTo; split <;> rfl
@[simp] theorem advanceTo_ppsOut (ns : Nat) : (advanceTo s ns).ppsOut = s.ppsOut := by
  unfold advanceTo; split <;> rfl
@[simp] theorem advanceTo_ppsRise (ns : Nat) : (advanceTo s ns).ppsRise = s.ppsRise := by
  unfold advanceTo; split <;> rfl
@[simp] theorem advanceTo_trd (ns : Nat) : (advanceTo s ns).trd = s.trd := by
  unfold advanceTo; split <;> rfl
@[simp] theorem advanceTo_drv (ns : Nat) : (advanceTo s ns).drv = s.drv := by
  unfold advanceTo; split <;> rfl
@[simp] theorem advanceTo_chns (ns : Nat) : (advanceTo s ns).chns = s.chns := by
  unfold advanceTo; split <;> rfl
@[simp] theorem advanceTo_stg (ns : Nat) : (advanceTo s ns).stg = s.stg := by
  unfold advanceTo; split <;> rfl
@[simp] theorem advanceTo_stgTick (ns : Nat) : (advanceTo s ns).stgTick = s.stgTick := by
  unfold advanceTo; split <;> rfl
@[simp] theorem advanceTo_stgOld (ns : Nat) : (advanceTo s ns).stgOld = s.stgOld := by
  unfold advanceTo; split <;> rfl
@[simp] theorem advanceTo_cans (ns : Nat) : (advanceTo s ns).cans = s.cans := by
  unfold advanceTo; split <;> rfl
@[simp] theorem advanceTo_rxmLast (ns : Nat) : (advanceTo s ns).rxmLast = s.rxmLast := by
  unfold advanceTo; split <;> rfl
@[simp] theorem advanceTo_rxmAged (ns : Nat) : (advanceTo s ns).rxmAged = s.rxmAged := by
  unfold advanceTo; split <;> rfl
@[simp] theorem advanceTo_asyNext (ns : Nat) : (advanceTo s ns).asyNext = s.asyNext := by
  unfold advanceTo; split <;> rfl
@[simp] theorem advanceTo_asyRetry (ns : Nat) : (advanceTo s ns).asyRetry = s.asyRetry := by
  unfold advanceTo; split <;> rfl
@[simp] theorem advanceTo_bad (ns : Nat) : (advanceTo s ns).bad = s.bad := by
  unfold advanceTo; split <;> rfl
@[simp] theorem advanceTo_lines (ns : Nat) : (advanceTo s ns).lines = s.lines := by
  unfold advanceTo; split <;> rfl
@[simp] theorem advanceTo_quads (ns : Nat) : (advanceTo s ns).quads = s.quads := by
  unfold advanceTo; split <;> rfl
@[simp] theorem advanceTo_adc (ns : Nat) : (advanceTo s ns).adc = s.adc := by
  unfold advanceTo; split <;> rfl
@[simp] theorem advanceTo_brns (ns : Nat) : (advanceTo s ns).brns = s.brns := by
  unfold advanceTo; split <;> rfl
@[simp] theorem advanceTo_tnk (ns : Nat) : (advanceTo s ns).tnk = s.tnk := by
  unfold advanceTo; split <;> rfl
@[simp] theorem advanceTo_sys (ns : Nat) : (advanceTo s ns).sys = s.sys := by
  unfold advanceTo; split <;> rfl
@[simp] theorem advanceTo_otp (ns : Nat) : (advanceTo s ns).otp = s.otp := by
  unfold advanceTo; split <;> rfl
@[simp] theorem advanceTo_act (ns : Nat) : (advanceTo s ns).act = s.act := by
  unfold advanceTo; split <;> rfl
@[simp] theorem advanceTo_rsl (ns : Nat) : (advanceTo s ns).rsl = s.rsl := by
  unfold advanceTo; split <;> rfl
@[simp] theorem advanceTo_pending (ns : Nat) : (advanceTo s ns).pending = s.pending := by
  unfold advanceTo; split <;> rfl
@[simp] theorem advanceTo_fresh (ns : Nat) : (advanceTo s ns).fresh = s.fresh := by
  unfold advanceTo; split <;> rfl
@[simp] theorem advanceTo_out (ns : Nat) : (advanceTo s ns).out = s.out := by
  unfold advanceTo; split <;> rfl

/-- Two states that agree in every field are equal. -/
theorem state_ext {s t : State} (h_regs : s.regs = t.regs) (h_mem : s.mem = t.mem) (h_clk : s.clk = t.clk) (h_wide : s.wide = t.wide) (h_rst : s.rst = t.rst) (h_ports : s.ports = t.ports) (h_trn : s.trn = t.trn) (h_ldg : s.ldg = t.ldg) (h_xb : s.xb = t.xb) (h_fry : s.fry = t.fry) (h_bell : s.bell = t.bell) (h_ppsOut : s.ppsOut = t.ppsOut) (h_ppsRise : s.ppsRise = t.ppsRise) (h_trd : s.trd = t.trd) (h_drv : s.drv = t.drv) (h_chns : s.chns = t.chns) (h_stg : s.stg = t.stg) (h_stgTick : s.stgTick = t.stgTick) (h_stgOld : s.stgOld = t.stgOld) (h_cans : s.cans = t.cans) (h_rxmLast : s.rxmLast = t.rxmLast) (h_rxmAged : s.rxmAged = t.rxmAged) (h_asyNext : s.asyNext = t.asyNext) (h_asyRetry : s.asyRetry = t.asyRetry) (h_bad : s.bad = t.bad) (h_lines : s.lines = t.lines) (h_quads : s.quads = t.quads) (h_adc : s.adc = t.adc) (h_brns : s.brns = t.brns) (h_tnk : s.tnk = t.tnk) (h_sys : s.sys = t.sys) (h_otp : s.otp = t.otp) (h_act : s.act = t.act) (h_rsl : s.rsl = t.rsl) (h_pending : s.pending = t.pending) (h_fresh : s.fresh = t.fresh) (h_out : s.out = t.out) : s = t := by
  cases s; cases t; simp only [State.mk.injEq]; exact ⟨h_regs, h_mem, h_clk, h_wide, h_rst, h_ports, h_trn, h_ldg, h_xb, h_fry, h_bell, h_ppsOut, h_ppsRise, h_trd, h_drv, h_chns, h_stg, h_stgTick, h_stgOld, h_cans, h_rxmLast, h_rxmAged, h_asyNext, h_asyRetry, h_bad, h_lines, h_quads, h_adc, h_brns, h_tnk, h_sys, h_otp, h_act, h_rsl, h_pending, h_fresh, h_out⟩

end Sys2Proof.Machine
end

