-- ==== Sys2Proof/Laws/Tables.lean ====
section
/-! SUPPORT. What a sparse table reads after a write, and what a bit field reads after a write of a cell. -/

namespace Sys2Proof.Machine

variable {α : Type}

theorem tget_tdel (d : Nat → α) (m : List (Nat × α)) (k j : Nat) :
    tget d (tdel m k) j = if j = k then d j else tget d m j := by
  induction m with
  | nil => simp [tdel, tget]
  | cons p m ih =>
    obtain ⟨i, v⟩ := p
    by_cases hi : i = k
    · subst hi
      by_cases hj : j = i
      · subst hj; simp [tdel, ih]
      · have : i ≠ j := fun e => hj e.symm
        simp [tdel, tget, ih, hj, this]
    · by_cases hj : j = k
      · subst hj; simp [tdel, tget, hi, ih]
      · simp [tdel, tget, hi, ih, hj]

theorem tget_tins (d : Nat → α) (m : List (Nat × α)) (k j : Nat) (v : α) (h : ∀ p ∈ m, p.1 ≠ k) :
    tget d (tins m k v) j = if j = k then v else tget d m j := by
  induction m with
  | nil =>
    by_cases hj : j = k
    · simp [tins, tget, hj]
    · have : k ≠ j := fun e => hj e.symm
      simp [tins, tget, hj, this]
  | cons p m ih =>
    obtain ⟨i, x⟩ := p
    have hi : i ≠ k := h (i, x) (by simp)
    have ih' := ih fun q hq => h q (by simp [hq])
    by_cases hlt : k < i
    · by_cases hj : j = k
      · simp [tins, tget, hlt, hj]
      · have : k ≠ j := fun e => hj e.symm
        simp [tins, tget, hlt, hj, this]
    · by_cases hj : i = j
      · subst hj; simp [tins, tget, hlt, hi]
      · simp [tins, tget, hlt, hj, ih']

theorem tdel_ne (m : List (Nat × α)) (k : Nat) : ∀ p ∈ tdel m k, p.1 ≠ k := by
  induction m with
  | nil => simp [tdel]
  | cons p m ih =>
    obtain ⟨i, v⟩ := p
    by_cases hi : i = k
    · simpa [tdel, hi] using ih
    · intro q hq
      simp only [tdel, hi, if_false, List.mem_cons] at hq
      rcases hq with rfl | hq
      · exact hi
      · exact ih q hq

/-- A table reads at a key what was last put there, and elsewhere what it read before. -/
theorem tget_tput [DecidableEq α] (d : Nat → α) (m : List (Nat × α)) (k j : Nat) (v : α) :
    tget d (tput d m k v) j = if j = k then v else tget d m j := by
  unfold tput
  split
  · rename_i h
    rw [tget_tdel]
    by_cases hj : j = k
    · simp [hj, h]
    · simp [hj]
  · rw [tget_tins _ _ _ _ _ (tdel_ne m k), tget_tdel]
    by_cases hj : j = k <;> simp [hj]

@[simp] theorem tget_tput_self [DecidableEq α] (d : Nat → α) (m : List (Nat × α)) (k : Nat) (v : α) :
    tget d (tput d m k v) k = v := by simp [tget_tput]

theorem tget_tput_ne [DecidableEq α] (d : Nat → α) (m : List (Nat × α)) {k j : Nat} (v : α) (h : j ≠ k) :
    tget d (tput d m k v) j = tget d m j := by simp [tget_tput, h]

/-- A table without some keys reads their default. -/
theorem tget_filter (d : Nat → α) (m : List (Nat × α)) (p : Nat → Bool) (k : Nat) :
    tget d (m.filter fun c => p c.1) k = if p k then tget d m k else d k := by
  induction m with
  | nil => simp [tget]
  | cons c m ih =>
    obtain ⟨i, v⟩ := c
    by_cases hp : p i
    · simp only [List.filter, hp, tget]
      by_cases e : i = k
      · subst e; simp [hp]
      · simp [e, ih]
    · simp only [List.filter, hp]
      rw [ih]
      by_cases e : i = k
      · subst e; simp [hp]
      · simp [tget, e]

/-- A table with a function applied to every value. -/
theorem tget_map {β : Type} (d : Nat → α) (d' : Nat → β) (m : List (Nat × α)) (f : α → β) (k : Nat) (h : d' k = f (d k)) :
    tget d' (m.map fun c => (c.1, f c.2)) k = f (tget d m k) := by
  induction m with
  | nil => simp [tget, h]
  | cons c m ih =>
    simp only [List.map, tget]
    split
    · rfl
    · exact ih

/-! ## Cells -/

/-- The number a cell holds after a write of its bits lo to lo + w - 1. -/
theorem cellSet_toNat (c : Cell) (lo w v : Nat) (h : lo + w ≤ 64) :
    (cellSet c lo w v).toNat = c.toNat % 2 ^ lo + 2 ^ lo * (v % 2 ^ w + 2 ^ w * (c.toNat / 2 ^ (lo + w))) := by
  have e : c.toNat % 2 ^ lo + v % 2 ^ w * 2 ^ lo + c.toNat / 2 ^ (lo + w) * 2 ^ (lo + w) =
      c.toNat % 2 ^ lo + 2 ^ lo * (v % 2 ^ w + 2 ^ w * (c.toNat / 2 ^ (lo + w))) := by
    rw [Nat.pow_add]; ring
  unfold cellSet
  rw [BitVec.toNat_ofNat, e]
  apply Nat.mod_eq_of_lt
  have h1 : c.toNat % 2 ^ lo < 2 ^ lo := Nat.mod_lt _ (by positivity)
  have h2 : v % 2 ^ w < 2 ^ w := Nat.mod_lt _ (by positivity)
  have h3 : c.toNat / 2 ^ (lo + w) < 2 ^ (64 - (lo + w)) := by
    apply Nat.div_lt_of_lt_mul
    rw [← Nat.pow_add, Nat.add_sub_cancel' h]
    exact c.isLt
  have h4 : v % 2 ^ w + 2 ^ w * (c.toNat / 2 ^ (lo + w)) < 2 ^ w * 2 ^ (64 - (lo + w)) := by
    have : 2 ^ w * (c.toNat / 2 ^ (lo + w) + 1) ≤ 2 ^ w * 2 ^ (64 - (lo + w)) := Nat.mul_le_mul_left _ h3
    rw [Nat.mul_add, Nat.mul_one] at this
    omega
  have h5 : 2 ^ lo * (v % 2 ^ w + 2 ^ w * (c.toNat / 2 ^ (lo + w)) + 1) ≤ 2 ^ lo * (2 ^ w * 2 ^ (64 - (lo + w))) :=
    Nat.mul_le_mul_left _ h4
  have h6 : 2 ^ lo * (2 ^ w * 2 ^ (64 - (lo + w))) = 2 ^ 64 := by
    rw [← Nat.pow_add, ← Nat.pow_add]; congr 1; omega
  rw [Nat.mul_add, Nat.mul_one] at h5
  omega

/-- A field reads what was last written to it, modulo its width. -/
theorem cellGet_cellSet (c : Cell) (lo w v : Nat) (h : lo + w ≤ 64) : cellGet (cellSet c lo w v) lo w = v % 2 ^ w := by
  unfold cellGet
  rw [cellSet_toNat c lo w v h, Nat.add_mul_div_left _ _ (by positivity), Nat.div_eq_of_lt (Nat.mod_lt _ (by positivity)),
    Nat.zero_add, Nat.add_mul_mod_self_left, Nat.mod_mod]

/-- A write leaves the fields below it as they were. -/
theorem cellGet_cellSet_below (c : Cell) (lo w v lo' w' : Nat) (h : lo + w ≤ 64) (hd : lo' + w' ≤ lo) :
    cellGet (cellSet c lo w v) lo' w' = cellGet c lo' w' := by
  unfold cellGet
  rw [← Nat.mod_mul_right_div_self, ← Nat.mod_mul_right_div_self, ← Nat.pow_add, cellSet_toNat c lo w v h]
  congr 1
  have : (2 : Nat) ^ (lo' + w') ∣ 2 ^ lo := Nat.pow_dvd_pow 2 hd
  rw [Nat.add_mod, Nat.mod_mod_of_dvd _ this, Nat.mod_eq_zero_of_dvd (Dvd.dvd.mul_right this _), Nat.add_zero, Nat.mod_mod]

/-- A write leaves the fields above it as they were. -/
theorem cellGet_cellSet_above (c : Cell) (lo w v lo' w' : Nat) (h : lo + w ≤ 64) (hd : lo + w ≤ lo') :
    cellGet (cellSet c lo w v) lo' w' = cellGet c lo' w' := by
  unfold cellGet
  have e : (cellSet c lo w v).toNat / 2 ^ (lo + w) = c.toNat / 2 ^ (lo + w) := by
    rw [cellSet_toNat c lo w v h, Nat.pow_add, ← Nat.div_div_eq_div_mul, Nat.add_mul_div_left _ _ (by positivity),
      Nat.div_eq_of_lt (Nat.mod_lt _ (by positivity)), Nat.zero_add, Nat.add_mul_div_left _ _ (by positivity),
      Nat.div_eq_of_lt (Nat.mod_lt _ (by positivity)), Nat.zero_add]
  have s : (2 : Nat) ^ lo' = 2 ^ (lo + w) * 2 ^ (lo' - (lo + w)) := by rw [← Nat.pow_add]; congr 1; omega
  rw [s, ← Nat.div_div_eq_div_mul, ← Nat.div_div_eq_div_mul, e]

end Sys2Proof.Machine
end

