-- ==== Sys2Proof/Laws/Fields.lean ====
section
/-! SUPPORT. What a register field reads after the named operations: after a write of it, of another field, and after
every operation that writes no register. -/

namespace Sys2Proof.Machine

variable (s : State)

theorem cellAt_setCell (a b : Nat) (c : Cell) : cellAt (setCell s a c) b = if b = a then c else cellAt s b :=
  tget_tput cellReset s.regs a b c

@[simp] theorem cellAt_setCell_self (a : Nat) (c : Cell) : cellAt (setCell s a c) a = c := by simp [cellAt_setCell]

theorem cellAt_setCell_ne {a b : Nat} (c : Cell) (h : b ≠ a) : cellAt (setCell s a c) b = cellAt s b := by
  simp [cellAt_setCell, h]

/-- A field that fits its cell reads what was last written to it, modulo its width. -/
theorem rd_wr_self (f : Fld) (v : Nat) (h : f.lo + f.w ≤ 64) : rd (wr s f v) f = v % 2 ^ f.w := by
  simp [rd, wr, cellGet_cellSet _ _ _ _ h]

/-- A write leaves every field of other registers. -/
theorem rd_wr_addr (f g : Fld) (v : Nat) (h : g.addr ≠ f.addr) : rd (wr s f v) g = rd s g := by
  simp [rd, wr, cellAt_setCell_ne _ _ h]

/-- A write leaves every cell of other registers. -/
theorem cellAt_wr_ne (f : Fld) (v a : Nat) (h : a ≠ f.addr) : cellAt (wr s f v) a = cellAt s a := by
  simp [wr, cellAt_setCell_ne _ _ h]

/-- A write leaves the other fields of its register. -/
theorem rd_wr_bits (f g : Fld) (v : Nat) (h : f.lo + f.w ≤ 64) (hd : g.lo + g.w ≤ f.lo ∨ f.lo + f.w ≤ g.lo) :
    rd (wr s f v) g = rd s g := by
  by_cases ha : g.addr = f.addr
  · rcases hd with hd | hd
    · simp [rd, wr, ha, cellGet_cellSet_below _ _ _ _ _ _ h hd]
    · simp [rd, wr, ha, cellGet_cellSet_above _ _ _ _ _ _ h hd]
  · exact rd_wr_addr s f g v ha

/-- A bit of a mask reads what was last written to it. -/
theorem bitOf_withBit_mod (v j k w : Nat) (b : Bool) (hj : j < w) :
    bitOf (withBit v k b % 2 ^ w) j = if j = k then b else bitOf v j := by
  unfold withBit bitOf
  by_cases e : j = k
  · subst e
    cases b
    · by_cases h : v.testBit j <;> simp [h, hj]
    · simp [hj]
  · have : k ≠ j := fun x => e x.symm
    cases b
    · by_cases h : v.testBit k <;> simp [h, hj, e, this]
    · simp [hj, e, this]

/-- A mask field reads bit by bit what was last written to a bit of it. -/
theorem rdBit_wrBit (f : Fld) (j k : Nat) (b : Bool) (h : f.lo + f.w ≤ 64) (hj : j < f.w) :
    rdBit (wrBit s f k b) f j = if j = k then b else rdBit s f j := by
  unfold rdBit wrBit
  rw [rd_wr_self s f _ h, bitOf_withBit_mod _ _ _ _ _ hj]

/-- What a field reads depends on the register cells alone. -/
theorem rd_congr {s t : State} (f : Fld) (h : s.regs = t.regs) : rd s f = rd t f := by simp [rd, cellAt, h]

theorem cellAt_congr {s t : State} (a : Nat) (h : s.regs = t.regs) : cellAt s a = cellAt t a := by simp [cellAt, h]

/-- What a byte of memory reads depends on the memory alone. -/
theorem memGet_congr {s t : State} (a : Nat) (h : s.mem = t.mem) : memGet s a = memGet t a := by simp [memGet, h]

theorem memGet_memPut (a b : Nat) (x : Byte) : memGet (memPut s a x) b = if b = a then x else memGet s b :=
  tget_tput unlisted s.mem a b x

@[simp] theorem memGet_memPut_self (a : Nat) (x : Byte) : memGet (memPut s a x) a = x := by simp [memGet_memPut]

theorem memGet_memPut_ne {a b : Nat} (x : Byte) (h : b ≠ a) : memGet (memPut s a x) b = memGet s b := by
  simp [memGet_memPut, h]

/-- A run of bytes written leaves every byte outside it. -/
theorem memGet_memPuts_out (a b : Nat) (l : List Byte) (h : b < a ∨ a + l.length ≤ b) :
    memGet (memPuts s a l) b = memGet s b := by
  induction l generalizing s a with
  | nil => rfl
  | cons x l ih =>
    simp only [List.length_cons] at h
    rw [memPuts, ih _ (a + 1) (by omega), memGet_memPut_ne _ _ (by omega)]

/-- A run of bytes written reads back. -/
theorem memGet_memPuts_in (a i : Nat) (l : List Byte) (h : i < l.length) : memGet (memPuts s a l) (a + i) = l[i] := by
  induction l generalizing s a i with
  | nil => simp at h
  | cons x l ih =>
    rw [memPuts]
    cases i with
    | zero => rw [memGet_memPuts_out _ _ _ _ (by omega)]; simp
    | succ i =>
      simp only [List.length_cons] at h
      have := ih (memPut s a x) (a + 1) i (by omega)
      rw [show a + (i + 1) = a + 1 + i by omega, this]; simp

/-! ## Operations that write no register, and no memory -/

@[simp] theorem memGet_setCell (a : Nat) (c : Cell) (g : Nat) : memGet (setCell s a c) g = memGet s g := memGet_congr g (by simp)
@[simp] theorem memGet_wr (f : Fld) (v : Nat) (g : Nat) : memGet (wr s f v) g = memGet s g := memGet_congr g (by simp)
@[simp] theorem memGet_wrW (a v : Nat) (g : Nat) : memGet (wrW s a v) g = memGet s g := memGet_congr g (by simp)
@[simp] theorem memGet_orF (f : Fld) (m : Nat) (g : Nat) : memGet (orF s f m) g = memGet s g := memGet_congr g (by simp)
@[simp] theorem memGet_wrBit (f : Fld) (k : Nat) (b : Bool) (g : Nat) : memGet (wrBit s f k b) g = memGet s g := memGet_congr g (by simp)
@[simp] theorem rd_memPut (a : Nat) (b : Byte) (g : Fld) : rd (memPut s a b) g = rd s g := rd_congr g (by simp)
@[simp] theorem cellAt_memPut (a : Nat) (b : Byte) (g : Nat) : cellAt (memPut s a b) g = cellAt s g := cellAt_congr g (by simp)
@[simp] theorem rd_norErase (off n : Nat) (g : Fld) : rd (norErase s off n) g = rd s g := rd_congr g (by simp)
@[simp] theorem cellAt_norErase (off n : Nat) (g : Nat) : cellAt (norErase s off n) g = cellAt s g := cellAt_congr g (by simp)
@[simp] theorem rd_used (g : Fld) : rd (s.used) g = rd s g := rd_congr g (by simp)
@[simp] theorem cellAt_used (g : Nat) : cellAt (s.used) g = cellAt s g := cellAt_congr g (by simp)
@[simp] theorem memGet_used (g : Nat) : memGet (s.used) g = memGet s g := memGet_congr g (by simp)
@[simp] theorem rd_advance (n : Nat) (g : Fld) : rd (advance s n) g = rd s g := rd_congr g (by simp)
@[simp] theorem cellAt_advance (n : Nat) (g : Nat) : cellAt (advance s n) g = cellAt s g := cellAt_congr g (by simp)
@[simp] theorem memGet_advance (n : Nat) (g : Nat) : memGet (advance s n) g = memGet s g := memGet_congr g (by simp)
@[simp] theorem rd_stepFt (u : Int) (g : Fld) : rd (stepFt s u) g = rd s g := rd_congr g (by simp)
@[simp] theorem cellAt_stepFt (u : Int) (g : Nat) : cellAt (stepFt s u) g = cellAt s g := cellAt_congr g (by simp)
@[simp] theorem memGet_stepFt (u : Int) (g : Nat) : memGet (stepFt s u) g = memGet s g := memGet_congr g (by simp)
@[simp] theorem rd_setPort (p : Nat) (x : Port) (g : Fld) : rd (s.setPort p x) g = rd s g := rd_congr g (by simp)
@[simp] theorem cellAt_setPort (p : Nat) (x : Port) (g : Nat) : cellAt (s.setPort p x) g = cellAt s g := cellAt_congr g (by simp)
@[simp] theorem memGet_setPort (p : Nat) (x : Port) (g : Nat) : memGet (s.setPort p x) g = memGet s g := memGet_congr g (by simp)
@[simp] theorem rd_setChn (n : Nat) (x : Chn) (g : Fld) : rd (s.setChn n x) g = rd s g := rd_congr g (by simp)
@[simp] theorem cellAt_setChn (n : Nat) (x : Chn) (g : Nat) : cellAt (s.setChn n x) g = cellAt s g := cellAt_congr g (by simp)
@[simp] theorem memGet_setChn (n : Nat) (x : Chn) (g : Nat) : memGet (s.setChn n x) g = memGet s g := memGet_congr g (by simp)
@[simp] theorem rd_setCan (k : Nat) (x : Can) (g : Fld) : rd (s.setCan k x) g = rd s g := rd_congr g (by simp)
@[simp] theorem cellAt_setCan (k : Nat) (x : Can) (g : Nat) : cellAt (s.setCan k x) g = cellAt s g := cellAt_congr g (by simp)
@[simp] theorem memGet_setCan (k : Nat) (x : Can) (g : Nat) : memGet (s.setCan k x) g = memGet s g := memGet_congr g (by simp)
@[simp] theorem rd_setLine (n : Nat) (x : Line) (g : Fld) : rd (s.setLine n x) g = rd s g := rd_congr g (by simp)
@[simp] theorem cellAt_setLine (n : Nat) (x : Line) (g : Nat) : cellAt (s.setLine n x) g = cellAt s g := cellAt_congr g (by simp)
@[simp] theorem memGet_setLine (n : Nat) (x : Line) (g : Nat) : memGet (s.setLine n x) g = memGet s g := memGet_congr g (by simp)
@[simp] theorem rd_setQuad (d : Nat) (x : Quad) (g : Fld) : rd (s.setQuad d x) g = rd s g := rd_congr g (by simp)
@[simp] theorem cellAt_setQuad (d : Nat) (x : Quad) (g : Nat) : cellAt (s.setQuad d x) g = cellAt s g := cellAt_congr g (by simp)
@[simp] theorem memGet_setQuad (d : Nat) (x : Quad) (g : Nat) : memGet (s.setQuad d x) g = memGet s g := memGet_congr g (by simp)
@[simp] theorem rd_setBrn (n : Nat) (x : Brn) (g : Fld) : rd (s.setBrn n x) g = rd s g := rd_congr g (by simp)
@[simp] theorem cellAt_setBrn (n : Nat) (x : Brn) (g : Nat) : cellAt (s.setBrn n x) g = cellAt s g := cellAt_congr g (by simp)
@[simp] theorem memGet_setBrn (n : Nat) (x : Brn) (g : Nat) : memGet (s.setBrn n x) g = memGet s g := memGet_congr g (by simp)
@[simp] theorem rd_setStg (w v : Nat) (g : Fld) : rd (s.setStg w v) g = rd s g := rd_congr g (by simp)
@[simp] theorem cellAt_setStg (w v : Nat) (g : Nat) : cellAt (s.setStg w v) g = cellAt s g := cellAt_congr g (by simp)
@[simp] theorem memGet_setStg (w v : Nat) (g : Nat) : memGet (s.setStg w v) g = memGet s g := memGet_congr g (by simp)
@[simp] theorem rd_emit (o : Output) (g : Fld) : rd (s.emit o) g = rd s g := rd_congr g (by simp)
@[simp] theorem cellAt_emit (o : Output) (g : Nat) : cellAt (s.emit o) g = cellAt s g := cellAt_congr g (by simp)
@[simp] theorem memGet_emit (o : Output) (g : Nat) : memGet (s.emit o) g = memGet s g := memGet_congr g (by simp)
@[simp] theorem memGet_wrs (l : List (Fld × Nat)) (g : Nat) : memGet (wrs s l) g = memGet s g := memGet_congr g (by simp)
@[simp] theorem rd_memPuts (a : Nat) (l : List Byte) (g : Fld) : rd (memPuts s a l) g = rd s g := rd_congr g (by simp)
@[simp] theorem cellAt_memPuts (a : Nat) (l : List Byte) (g : Nat) : cellAt (memPuts s a l) g = cellAt s g := cellAt_congr g (by simp)
@[simp] theorem rd_norProgram (off : Nat) (l : List Byte) (g : Fld) : rd (norProgram s off l) g = rd s g := rd_congr g (by simp)
@[simp] theorem cellAt_norProgram (off : Nat) (l : List Byte) (g : Nat) : cellAt (norProgram s off l) g = cellAt s g := cellAt_congr g (by simp)
@[simp] theorem rd_memPutWord (a v : Nat) (g : Fld) : rd (memPutWord s a v) g = rd s g := rd_congr g (by simp)
@[simp] theorem cellAt_memPutWord (a v : Nat) (g : Nat) : cellAt (memPutWord s a v) g = cellAt s g := cellAt_congr g (by simp)
@[simp] theorem rd_advanceTo (ns : Nat) (g : Fld) : rd (advanceTo s ns) g = rd s g := rd_congr g (by simp)
@[simp] theorem cellAt_advanceTo (ns : Nat) (g : Nat) : cellAt (advanceTo s ns) g = cellAt s g := cellAt_congr g (by simp)
@[simp] theorem memGet_advanceTo (ns : Nat) (g : Nat) : memGet (advanceTo s ns) g = memGet s g := memGet_congr g (by simp)

/-! ## Record updates -/

set_option linter.unusedVariables false

/-- A record update that keeps the registers keeps every field. -/
@[simp] theorem rd_mk {x_mem x_clk x_wide x_rst x_ports x_trn x_ldg x_xb x_fry x_bell x_ppsOut x_ppsRise x_trd x_drv x_chns x_stg x_stgTick x_stgOld x_cans x_rxmLast x_rxmAged x_asyNext x_asyRetry x_bad x_lines x_quads x_adc x_brns x_tnk x_sys x_otp x_act x_rsl x_pending x_fresh x_out} (g : Fld) : rd (⟨s.regs, x_mem, x_clk, x_wide, x_rst, x_ports, x_trn, x_ldg, x_xb, x_fry, x_bell, x_ppsOut, x_ppsRise, x_trd, x_drv, x_chns, x_stg, x_stgTick, x_stgOld, x_cans, x_rxmLast, x_rxmAged, x_asyNext, x_asyRetry, x_bad, x_lines, x_quads, x_adc, x_brns, x_tnk, x_sys, x_otp, x_act, x_rsl, x_pending, x_fresh, x_out⟩ : State) g = rd s g := rd_congr g rfl
@[simp] theorem cellAt_mk {x_mem x_clk x_wide x_rst x_ports x_trn x_ldg x_xb x_fry x_bell x_ppsOut x_ppsRise x_trd x_drv x_chns x_stg x_stgTick x_stgOld x_cans x_rxmLast x_rxmAged x_asyNext x_asyRetry x_bad x_lines x_quads x_adc x_brns x_tnk x_sys x_otp x_act x_rsl x_pending x_fresh x_out} (g : Nat) : cellAt (⟨s.regs, x_mem, x_clk, x_wide, x_rst, x_ports, x_trn, x_ldg, x_xb, x_fry, x_bell, x_ppsOut, x_ppsRise, x_trd, x_drv, x_chns, x_stg, x_stgTick, x_stgOld, x_cans, x_rxmLast, x_rxmAged, x_asyNext, x_asyRetry, x_bad, x_lines, x_quads, x_adc, x_brns, x_tnk, x_sys, x_otp, x_act, x_rsl, x_pending, x_fresh, x_out⟩ : State) g = cellAt s g := cellAt_congr g rfl
@[simp] theorem memGet_mk {x_regs x_clk x_wide x_rst x_ports x_trn x_ldg x_xb x_fry x_bell x_ppsOut x_ppsRise x_trd x_drv x_chns x_stg x_stgTick x_stgOld x_cans x_rxmLast x_rxmAged x_asyNext x_asyRetry x_bad x_lines x_quads x_adc x_brns x_tnk x_sys x_otp x_act x_rsl x_pending x_fresh x_out} (g : Nat) : memGet (⟨x_regs, s.mem, x_clk, x_wide, x_rst, x_ports, x_trn, x_ldg, x_xb, x_fry, x_bell, x_ppsOut, x_ppsRise, x_trd, x_drv, x_chns, x_stg, x_stgTick, x_stgOld, x_cans, x_rxmLast, x_rxmAged, x_asyNext, x_asyRetry, x_bad, x_lines, x_quads, x_adc, x_brns, x_tnk, x_sys, x_otp, x_act, x_rsl, x_pending, x_fresh, x_out⟩ : State) g = memGet s g := memGet_congr g rfl

end Sys2Proof.Machine
end

