-- ==== Sys2Proof/Laws/Memory.lean ====
section
/-! SUPPORT. The canonical form of memory: every memory operation keeps it, and the memory after reset has it. -/

namespace Sys2Proof.Machine

/-- The canonical form as two facts: rising addresses, and no entry that its address reads unlisted. -/
theorem wf_iff (m : List Host.Cell) :
    Memory.wf m = true ↔ m.Pairwise (fun c c' => c.1 < c'.1) ∧ ∀ c ∈ m, c.2 ≠ unlisted c.1 := by
  induction m with
  | nil => simp [Memory.wf]
  | cons c m ih =>
    cases m with
    | nil => simp [Memory.wf]
    | cons c' m =>
      rw [Memory.wf]
      simp only [Bool.and_eq_true, ih, bne_iff_ne, decide_eq_true_eq, List.pairwise_cons (a := c), List.forall_mem_cons (a := c)]
      constructor
      · rintro ⟨⟨h1, h2⟩, h3, h4⟩
        refine ⟨⟨?_, h3⟩, h1, h4⟩
        intro x hx
        rcases List.mem_cons.1 hx with rfl | hx
        · exact h2
        · exact Nat.lt_trans h2 ((List.pairwise_cons.1 h3).1 x hx)
      · rintro ⟨⟨h1, h2⟩, h3, h4⟩
        exact ⟨⟨h3, h1 c' (by simp)⟩, h2, h4⟩

theorem tdel_sublist {α : Type} (m : List (Nat × α)) (k : Nat) : (tdel m k).Sublist m := by
  induction m with
  | nil => exact List.Sublist.refl _
  | cons p m ih =>
    obtain ⟨i, v⟩ := p
    by_cases h : i = k
    · simpa [tdel, h] using List.Sublist.cons (i, v) ih
    · simpa [tdel, h] using List.Sublist.cons_cons (i, v) ih

theorem mem_tins {α : Type} (m : List (Nat × α)) (k : Nat) (v : α) (q : Nat × α) :
    q ∈ tins m k v ↔ q = (k, v) ∨ q ∈ m := by
  induction m with
  | nil => simp [tins]
  | cons p m ih =>
    obtain ⟨i, x⟩ := p
    by_cases h : k < i
    · simp [tins, h]
    · simp only [tins, h, if_false, List.mem_cons, ih]; tauto

theorem tins_rising {α : Type} (m : List (Nat × α)) (k : Nat) (v : α) (hk : ∀ p ∈ m, p.1 ≠ k)
    (h : m.Pairwise fun c c' => c.1 < c'.1) : (tins m k v).Pairwise fun c c' => c.1 < c'.1 := by
  induction m with
  | nil => simp [tins]
  | cons p m ih =>
    obtain ⟨i, x⟩ := p
    obtain ⟨h1, h2⟩ := List.pairwise_cons.1 h
    by_cases hlt : k < i
    · simp only [tins, hlt, if_true]
      refine List.pairwise_cons.2 ⟨?_, h⟩
      intro q hq
      rcases List.mem_cons.1 hq with rfl | hq
      · exact hlt
      · exact Nat.lt_trans hlt (h1 q hq)
    · have hne : i ≠ k := hk (i, x) (by simp)
      simp only [tins, hlt, if_false]
      refine List.pairwise_cons.2 ⟨?_, ih (fun q hq => hk q (by simp [hq])) h2⟩
      intro q hq
      rcases (mem_tins m k v q).1 hq with rfl | hq
      · show i < k; omega
      · exact h1 q hq

/-- A byte written keeps the form. -/
theorem tput_wf (m : List Host.Cell) (a : Nat) (b : Byte) (h : Memory.wf m = true) :
    Memory.wf (tput unlisted m a b) = true := by
  rw [wf_iff] at h ⊢
  have hs := tdel_sublist m a
  have h1 := h.1.sublist hs
  have h2 : ∀ c ∈ tdel m a, c.2 ≠ unlisted c.1 := fun c hc => h.2 c (hs.subset hc)
  unfold tput
  split
  · exact ⟨h1, h2⟩
  · rename_i hb
    refine ⟨tins_rising _ _ _ (tdel_ne m a) h1, ?_⟩
    intro c hc
    rcases (mem_tins _ _ _ _).1 hc with rfl | hc
    · exact hb
    · exact h2 c hc

/-- Entries taken out keep the form. -/
theorem filter_wf (m : List Host.Cell) (p : Host.Cell → Bool) (h : Memory.wf m = true) :
    Memory.wf (m.filter p) = true := by
  rw [wf_iff] at h ⊢
  exact ⟨h.1.sublist List.filter_sublist, fun c hc => h.2 c (List.mem_of_mem_filter hc)⟩

theorem memPut_wf (s : State) (a : Nat) (b : Byte) (h : Memory.wf s.mem = true) : Memory.wf (memPut s a b).mem = true :=
  tput_wf s.mem a b h

theorem memPuts_wf (s : State) (a : Nat) (l : List Byte) (h : Memory.wf s.mem = true) :
    Memory.wf (memPuts s a l).mem = true := by
  induction l generalizing s a with
  | nil => exact h
  | cons b l ih => exact ih _ _ (memPut_wf s a b h)

theorem memPutWord_wf (s : State) (a v : Nat) (h : Memory.wf s.mem = true) : Memory.wf (memPutWord s a v).mem = true :=
  memPuts_wf s a _ h

theorem norProgram_wf (s : State) (off : Nat) (l : List Byte) (h : Memory.wf s.mem = true) :
    Memory.wf (norProgram s off l).mem = true := by
  induction l generalizing s off with
  | nil => exact h
  | cons b l ih => exact ih _ _ (memPut_wf s _ _ h)

theorem norErase_wf (s : State) (off n : Nat) (h : Memory.wf s.mem = true) : Memory.wf (norErase s off n).mem = true :=
  filter_wf s.mem _ h

theorem leBytes_length (n v : Nat) : (leBytes n v).length = n := by
  induction n generalizing v with
  | zero => rfl
  | succ n ih => simp [leBytes, ih]

/-- A byte outside the word written reads as before. -/
theorem memGet_memPutWord_ne (s : State) (a v b : Nat) (h : b < a ∨ a + 4 ≤ b) :
    memGet (memPutWord s a v) b = memGet s b := memGet_memPuts_out s a b _ (by rw [leBytes_length]; exact h)

end Sys2Proof.Machine
end

