-- ==== Sys2Proof/Laws/Flash.lean ====
section
/-! SUPPORT. What a byte of memory reads after a program or an erase of the flash. -/

namespace Sys2Proof.Machine

variable {s : State}

/-- A program leaves every byte outside it. -/
theorem memGet_norProgram_out (off b : Nat) (l : List Byte) (h : b < norBase + off ∨ norBase + off + l.length ≤ b) :
    memGet (norProgram s off l) b = memGet s b := by
  induction l generalizing s off with
  | nil => rfl
  | cons x l ih =>
    simp only [List.length_cons] at h
    rw [norProgram, ih (off + 1) (by omega), memGet_memPut_ne _ _ (by omega)]

/-- A program clears the bits that are 0 in it, and sets none. -/
theorem memGet_norProgram_in (off i : Nat) (l : List Byte) (h : i < l.length) :
    memGet (norProgram s off l) (norBase + off + i) = memGet s (norBase + off + i) &&& l[i] := by
  induction l generalizing s off i with
  | nil => simp at h
  | cons x l ih =>
    rw [norProgram]
    cases i with
    | zero => rw [memGet_norProgram_out _ _ _ (by omega)]; simp
    | succ i =>
      simp only [List.length_cons] at h
      have := @ih (memPut s (norBase + off) (memGet s (norBase + off) &&& x)) (off + 1) i (by omega)
      rw [show norBase + off + (i + 1) = norBase + (off + 1) + i by omega, this,
        memGet_memPut_ne _ _ (by omega)]
      simp

/-- An erase gives its bytes the value of an address that is not listed, and leaves the others. -/
theorem memGet_norErase (off n b : Nat) : memGet (norErase s off n) b =
    if norBase + off ≤ b ∧ b < norBase + off + n then unlisted b else memGet s b := by
  have e : (norErase s off n).mem = s.mem.filter fun c => c.1 < norBase + off ∨ norBase + off + n ≤ c.1 := rfl
  unfold memGet
  rw [e, tget_filter unlisted s.mem (fun a => decide (a < norBase + off ∨ norBase + off + n ≤ a)) b]
  by_cases h : norBase + off ≤ b ∧ b < norBase + off + n
  · rw [if_pos h, if_neg (by simp; omega)]
  · rw [if_neg h, if_pos (by simp; omega)]

end Sys2Proof.Machine
end

