-- ==== Sys2Proof/Laws/Index.lean ====
section
/-! SUPPORT. What an indexed part of the state reads after every update, what one member of a group is after a step over
the group, and what counters read. -/

namespace Sys2Proof.Machine

variable (s : State)

theorem State.port_setPort (i j : Nat) (x : Port) : (s.setPort i x).port j = if j = i then x else s.port j := tget_tput _ _ _ _ _
@[simp] theorem State.port_setPort_self (i : Nat) (x : Port) : (s.setPort i x).port i = x := by simp [State.port_setPort]
theorem State.port_congr {s t : State} (i : Nat) (h : s.ports = t.ports) : s.port i = t.port i := by simp [State.port, h]
@[simp] theorem State.port_setCell (a : Nat) (c : Cell) (i : Nat) : (setCell s a c).port i = s.port i := (rfl)
@[simp] theorem State.port_wr (f : Fld) (v : Nat) (i : Nat) : (wr s f v).port i = s.port i := (rfl)
@[simp] theorem State.port_wrW (a v : Nat) (i : Nat) : (wrW s a v).port i = s.port i := (rfl)
@[simp] theorem State.port_orF (f : Fld) (m : Nat) (i : Nat) : (orF s f m).port i = s.port i := (rfl)
@[simp] theorem State.port_wrBit (f : Fld) (k : Nat) (b : Bool) (i : Nat) : (wrBit s f k b).port i = s.port i := (rfl)
@[simp] theorem State.port_memPut (a : Nat) (b : Byte) (i : Nat) : (memPut s a b).port i = s.port i := (rfl)
@[simp] theorem State.port_norErase (off n : Nat) (i : Nat) : (norErase s off n).port i = s.port i := (rfl)
@[simp] theorem State.port_used (i : Nat) : (s.used).port i = s.port i := (rfl)
@[simp] theorem State.port_advance (n : Nat) (i : Nat) : (advance s n).port i = s.port i := (rfl)
@[simp] theorem State.port_stepFt (u : Int) (i : Nat) : (stepFt s u).port i = s.port i := (rfl)
@[simp] theorem State.port_setChn (n : Nat) (x : Chn) (i : Nat) : (s.setChn n x).port i = s.port i := (rfl)
@[simp] theorem State.port_setCan (k : Nat) (x : Can) (i : Nat) : (s.setCan k x).port i = s.port i := (rfl)
@[simp] theorem State.port_setLine (n : Nat) (x : Line) (i : Nat) : (s.setLine n x).port i = s.port i := (rfl)
@[simp] theorem State.port_setQuad (d : Nat) (x : Quad) (i : Nat) : (s.setQuad d x).port i = s.port i := (rfl)
@[simp] theorem State.port_setBrn (n : Nat) (x : Brn) (i : Nat) : (s.setBrn n x).port i = s.port i := (rfl)
@[simp] theorem State.port_setStg (w v : Nat) (i : Nat) : (s.setStg w v).port i = s.port i := (rfl)
@[simp] theorem State.port_emit (o : Output) (i : Nat) : (s.emit o).port i = s.port i := (rfl)
@[simp] theorem State.port_wrs (l : List (Fld × Nat)) (i : Nat) : (wrs s l).port i = s.port i := State.port_congr i (by simp)
@[simp] theorem State.port_memPuts (a : Nat) (l : List Byte) (i : Nat) : (memPuts s a l).port i = s.port i := State.port_congr i (by simp)
@[simp] theorem State.port_norProgram (off : Nat) (l : List Byte) (i : Nat) : (norProgram s off l).port i = s.port i := State.port_congr i (by simp)
@[simp] theorem State.port_memPutWord (a v : Nat) (i : Nat) : (memPutWord s a v).port i = s.port i := State.port_congr i (by simp)
@[simp] theorem State.port_advanceTo (ns : Nat) (i : Nat) : (advanceTo s ns).port i = s.port i := State.port_congr i (by simp)
set_option linter.unusedVariables false in
@[simp] theorem State.port_mk {x_regs x_mem x_clk x_wide x_rst x_trn x_ldg x_xb x_fry x_bell x_ppsOut x_ppsRise x_trd x_drv x_chns x_stg x_stgTick x_stgOld x_cans x_rxmLast x_rxmAged x_asyNext x_asyRetry x_bad x_lines x_quads x_adc x_brns x_tnk x_sys x_otp x_act x_rsl x_pending x_fresh x_out} (i : Nat) : (⟨x_regs, x_mem, x_clk, x_wide, x_rst, s.ports, x_trn, x_ldg, x_xb, x_fry, x_bell, x_ppsOut, x_ppsRise, x_trd, x_drv, x_chns, x_stg, x_stgTick, x_stgOld, x_cans, x_rxmLast, x_rxmAged, x_asyNext, x_asyRetry, x_bad, x_lines, x_quads, x_adc, x_brns, x_tnk, x_sys, x_otp, x_act, x_rsl, x_pending, x_fresh, x_out⟩ : State).port i = s.port i := State.port_congr i rfl

theorem State.chn_setChn (i j : Nat) (x : Chn) : (s.setChn i x).chn j = if j = i then x else s.chn j := tget_tput _ _ _ _ _
@[simp] theorem State.chn_setChn_self (i : Nat) (x : Chn) : (s.setChn i x).chn i = x := by simp [State.chn_setChn]
theorem State.chn_congr {s t : State} (i : Nat) (h : s.chns = t.chns) : s.chn i = t.chn i := by simp [State.chn, h]
@[simp] theorem State.chn_setCell (a : Nat) (c : Cell) (i : Nat) : (setCell s a c).chn i = s.chn i := (rfl)
@[simp] theorem State.chn_wr (f : Fld) (v : Nat) (i : Nat) : (wr s f v).chn i = s.chn i := (rfl)
@[simp] theorem State.chn_wrW (a v : Nat) (i : Nat) : (wrW s a v).chn i = s.chn i := (rfl)
@[simp] theorem State.chn_orF (f : Fld) (m : Nat) (i : Nat) : (orF s f m).chn i = s.chn i := (rfl)
@[simp] theorem State.chn_wrBit (f : Fld) (k : Nat) (b : Bool) (i : Nat) : (wrBit s f k b).chn i = s.chn i := (rfl)
@[simp] theorem State.chn_memPut (a : Nat) (b : Byte) (i : Nat) : (memPut s a b).chn i = s.chn i := (rfl)
@[simp] theorem State.chn_norErase (off n : Nat) (i : Nat) : (norErase s off n).chn i = s.chn i := (rfl)
@[simp] theorem State.chn_used (i : Nat) : (s.used).chn i = s.chn i := (rfl)
@[simp] theorem State.chn_advance (n : Nat) (i : Nat) : (advance s n).chn i = s.chn i := (rfl)
@[simp] theorem State.chn_stepFt (u : Int) (i : Nat) : (stepFt s u).chn i = s.chn i := (rfl)
@[simp] theorem State.chn_setPort (p : Nat) (x : Port) (i : Nat) : (s.setPort p x).chn i = s.chn i := (rfl)
@[simp] theorem State.chn_setCan (k : Nat) (x : Can) (i : Nat) : (s.setCan k x).chn i = s.chn i := (rfl)
@[simp] theorem State.chn_setLine (n : Nat) (x : Line) (i : Nat) : (s.setLine n x).chn i = s.chn i := (rfl)
@[simp] theorem State.chn_setQuad (d : Nat) (x : Quad) (i : Nat) : (s.setQuad d x).chn i = s.chn i := (rfl)
@[simp] theorem State.chn_setBrn (n : Nat) (x : Brn) (i : Nat) : (s.setBrn n x).chn i = s.chn i := (rfl)
@[simp] theorem State.chn_setStg (w v : Nat) (i : Nat) : (s.setStg w v).chn i = s.chn i := (rfl)
@[simp] theorem State.chn_emit (o : Output) (i : Nat) : (s.emit o).chn i = s.chn i := (rfl)
@[simp] theorem State.chn_wrs (l : List (Fld × Nat)) (i : Nat) : (wrs s l).chn i = s.chn i := State.chn_congr i (by simp)
@[simp] theorem State.chn_memPuts (a : Nat) (l : List Byte) (i : Nat) : (memPuts s a l).chn i = s.chn i := State.chn_congr i (by simp)
@[simp] theorem State.chn_norProgram (off : Nat) (l : List Byte) (i : Nat) : (norProgram s off l).chn i = s.chn i := State.chn_congr i (by simp)
@[simp] theorem State.chn_memPutWord (a v : Nat) (i : Nat) : (memPutWord s a v).chn i = s.chn i := State.chn_congr i (by simp)
@[simp] theorem State.chn_advanceTo (ns : Nat) (i : Nat) : (advanceTo s ns).chn i = s.chn i := State.chn_congr i (by simp)
set_option linter.unusedVariables false in
@[simp] theorem State.chn_mk {x_regs x_mem x_clk x_wide x_rst x_ports x_trn x_ldg x_xb x_fry x_bell x_ppsOut x_ppsRise x_trd x_drv x_stg x_stgTick x_stgOld x_cans x_rxmLast x_rxmAged x_asyNext x_asyRetry x_bad x_lines x_quads x_adc x_brns x_tnk x_sys x_otp x_act x_rsl x_pending x_fresh x_out} (i : Nat) : (⟨x_regs, x_mem, x_clk, x_wide, x_rst, x_ports, x_trn, x_ldg, x_xb, x_fry, x_bell, x_ppsOut, x_ppsRise, x_trd, x_drv, s.chns, x_stg, x_stgTick, x_stgOld, x_cans, x_rxmLast, x_rxmAged, x_asyNext, x_asyRetry, x_bad, x_lines, x_quads, x_adc, x_brns, x_tnk, x_sys, x_otp, x_act, x_rsl, x_pending, x_fresh, x_out⟩ : State).chn i = s.chn i := State.chn_congr i rfl

theorem State.can_setCan (i j : Nat) (x : Can) : (s.setCan i x).can j = if j = i then x else s.can j := tget_tput _ _ _ _ _
@[simp] theorem State.can_setCan_self (i : Nat) (x : Can) : (s.setCan i x).can i = x := by simp [State.can_setCan]
theorem State.can_congr {s t : State} (i : Nat) (h : s.cans = t.cans) : s.can i = t.can i := by simp [State.can, h]
@[simp] theorem State.can_setCell (a : Nat) (c : Cell) (i : Nat) : (setCell s a c).can i = s.can i := (rfl)
@[simp] theorem State.can_wr (f : Fld) (v : Nat) (i : Nat) : (wr s f v).can i = s.can i := (rfl)
@[simp] theorem State.can_wrW (a v : Nat) (i : Nat) : (wrW s a v).can i = s.can i := (rfl)
@[simp] theorem State.can_orF (f : Fld) (m : Nat) (i : Nat) : (orF s f m).can i = s.can i := (rfl)
@[simp] theorem State.can_wrBit (f : Fld) (k : Nat) (b : Bool) (i : Nat) : (wrBit s f k b).can i = s.can i := (rfl)
@[simp] theorem State.can_memPut (a : Nat) (b : Byte) (i : Nat) : (memPut s a b).can i = s.can i := (rfl)
@[simp] theorem State.can_norErase (off n : Nat) (i : Nat) : (norErase s off n).can i = s.can i := (rfl)
@[simp] theorem State.can_used (i : Nat) : (s.used).can i = s.can i := (rfl)
@[simp] theorem State.can_advance (n : Nat) (i : Nat) : (advance s n).can i = s.can i := (rfl)
@[simp] theorem State.can_stepFt (u : Int) (i : Nat) : (stepFt s u).can i = s.can i := (rfl)
@[simp] theorem State.can_setPort (p : Nat) (x : Port) (i : Nat) : (s.setPort p x).can i = s.can i := (rfl)
@[simp] theorem State.can_setChn (n : Nat) (x : Chn) (i : Nat) : (s.setChn n x).can i = s.can i := (rfl)
@[simp] theorem State.can_setLine (n : Nat) (x : Line) (i : Nat) : (s.setLine n x).can i = s.can i := (rfl)
@[simp] theorem State.can_setQuad (d : Nat) (x : Quad) (i : Nat) : (s.setQuad d x).can i = s.can i := (rfl)
@[simp] theorem State.can_setBrn (n : Nat) (x : Brn) (i : Nat) : (s.setBrn n x).can i = s.can i := (rfl)
@[simp] theorem State.can_setStg (w v : Nat) (i : Nat) : (s.setStg w v).can i = s.can i := (rfl)
@[simp] theorem State.can_emit (o : Output) (i : Nat) : (s.emit o).can i = s.can i := (rfl)
@[simp] theorem State.can_wrs (l : List (Fld × Nat)) (i : Nat) : (wrs s l).can i = s.can i := State.can_congr i (by simp)
@[simp] theorem State.can_memPuts (a : Nat) (l : List Byte) (i : Nat) : (memPuts s a l).can i = s.can i := State.can_congr i (by simp)
@[simp] theorem State.can_norProgram (off : Nat) (l : List Byte) (i : Nat) : (norProgram s off l).can i = s.can i := State.can_congr i (by simp)
@[simp] theorem State.can_memPutWord (a v : Nat) (i : Nat) : (memPutWord s a v).can i = s.can i := State.can_congr i (by simp)
@[simp] theorem State.can_advanceTo (ns : Nat) (i : Nat) : (advanceTo s ns).can i = s.can i := State.can_congr i (by simp)
set_option linter.unusedVariables false in
@[simp] theorem State.can_mk {x_regs x_mem x_clk x_wide x_rst x_ports x_trn x_ldg x_xb x_fry x_bell x_ppsOut x_ppsRise x_trd x_drv x_chns x_stg x_stgTick x_stgOld x_rxmLast x_rxmAged x_asyNext x_asyRetry x_bad x_lines x_quads x_adc x_brns x_tnk x_sys x_otp x_act x_rsl x_pending x_fresh x_out} (i : Nat) : (⟨x_regs, x_mem, x_clk, x_wide, x_rst, x_ports, x_trn, x_ldg, x_xb, x_fry, x_bell, x_ppsOut, x_ppsRise, x_trd, x_drv, x_chns, x_stg, x_stgTick, x_stgOld, s.cans, x_rxmLast, x_rxmAged, x_asyNext, x_asyRetry, x_bad, x_lines, x_quads, x_adc, x_brns, x_tnk, x_sys, x_otp, x_act, x_rsl, x_pending, x_fresh, x_out⟩ : State).can i = s.can i := State.can_congr i rfl

theorem State.line_setLine (i j : Nat) (x : Line) : (s.setLine i x).line j = if j = i then x else s.line j := tget_tput _ _ _ _ _
@[simp] theorem State.line_setLine_self (i : Nat) (x : Line) : (s.setLine i x).line i = x := by simp [State.line_setLine]
theorem State.line_congr {s t : State} (i : Nat) (h : s.lines = t.lines) : s.line i = t.line i := by simp [State.line, h]
@[simp] theorem State.line_setCell (a : Nat) (c : Cell) (i : Nat) : (setCell s a c).line i = s.line i := (rfl)
@[simp] theorem State.line_wr (f : Fld) (v : Nat) (i : Nat) : (wr s f v).line i = s.line i := (rfl)
@[simp] theorem State.line_wrW (a v : Nat) (i : Nat) : (wrW s a v).line i = s.line i := (rfl)
@[simp] theorem State.line_orF (f : Fld) (m : Nat) (i : Nat) : (orF s f m).line i = s.line i := (rfl)
@[simp] theorem State.line_wrBit (f : Fld) (k : Nat) (b : Bool) (i : Nat) : (wrBit s f k b).line i = s.line i := (rfl)
@[simp] theorem State.line_memPut (a : Nat) (b : Byte) (i : Nat) : (memPut s a b).line i = s.line i := (rfl)
@[simp] theorem State.line_norErase (off n : Nat) (i : Nat) : (norErase s off n).line i = s.line i := (rfl)
@[simp] theorem State.line_used (i : Nat) : (s.used).line i = s.line i := (rfl)
@[simp] theorem State.line_advance (n : Nat) (i : Nat) : (advance s n).line i = s.line i := (rfl)
@[simp] theorem State.line_stepFt (u : Int) (i : Nat) : (stepFt s u).line i = s.line i := (rfl)
@[simp] theorem State.line_setPort (p : Nat) (x : Port) (i : Nat) : (s.setPort p x).line i = s.line i := (rfl)
@[simp] theorem State.line_setChn (n : Nat) (x : Chn) (i : Nat) : (s.setChn n x).line i = s.line i := (rfl)
@[simp] theorem State.line_setCan (k : Nat) (x : Can) (i : Nat) : (s.setCan k x).line i = s.line i := (rfl)
@[simp] theorem State.line_setQuad (d : Nat) (x : Quad) (i : Nat) : (s.setQuad d x).line i = s.line i := (rfl)
@[simp] theorem State.line_setBrn (n : Nat) (x : Brn) (i : Nat) : (s.setBrn n x).line i = s.line i := (rfl)
@[simp] theorem State.line_setStg (w v : Nat) (i : Nat) : (s.setStg w v).line i = s.line i := (rfl)
@[simp] theorem State.line_emit (o : Output) (i : Nat) : (s.emit o).line i = s.line i := (rfl)
@[simp] theorem State.line_wrs (l : List (Fld × Nat)) (i : Nat) : (wrs s l).line i = s.line i := State.line_congr i (by simp)
@[simp] theorem State.line_memPuts (a : Nat) (l : List Byte) (i : Nat) : (memPuts s a l).line i = s.line i := State.line_congr i (by simp)
@[simp] theorem State.line_norProgram (off : Nat) (l : List Byte) (i : Nat) : (norProgram s off l).line i = s.line i := State.line_congr i (by simp)
@[simp] theorem State.line_memPutWord (a v : Nat) (i : Nat) : (memPutWord s a v).line i = s.line i := State.line_congr i (by simp)
@[simp] theorem State.line_advanceTo (ns : Nat) (i : Nat) : (advanceTo s ns).line i = s.line i := State.line_congr i (by simp)
set_option linter.unusedVariables false in
@[simp] theorem State.line_mk {x_regs x_mem x_clk x_wide x_rst x_ports x_trn x_ldg x_xb x_fry x_bell x_ppsOut x_ppsRise x_trd x_drv x_chns x_stg x_stgTick x_stgOld x_cans x_rxmLast x_rxmAged x_asyNext x_asyRetry x_bad x_quads x_adc x_brns x_tnk x_sys x_otp x_act x_rsl x_pending x_fresh x_out} (i : Nat) : (⟨x_regs, x_mem, x_clk, x_wide, x_rst, x_ports, x_trn, x_ldg, x_xb, x_fry, x_bell, x_ppsOut, x_ppsRise, x_trd, x_drv, x_chns, x_stg, x_stgTick, x_stgOld, x_cans, x_rxmLast, x_rxmAged, x_asyNext, x_asyRetry, x_bad, s.lines, x_quads, x_adc, x_brns, x_tnk, x_sys, x_otp, x_act, x_rsl, x_pending, x_fresh, x_out⟩ : State).line i = s.line i := State.line_congr i rfl

theorem State.quad_setQuad (i j : Nat) (x : Quad) : (s.setQuad i x).quad j = if j = i then x else s.quad j := tget_tput _ _ _ _ _
@[simp] theorem State.quad_setQuad_self (i : Nat) (x : Quad) : (s.setQuad i x).quad i = x := by simp [State.quad_setQuad]
theorem State.quad_congr {s t : State} (i : Nat) (h : s.quads = t.quads) : s.quad i = t.quad i := by simp [State.quad, h]
@[simp] theorem State.quad_setCell (a : Nat) (c : Cell) (i : Nat) : (setCell s a c).quad i = s.quad i := (rfl)
@[simp] theorem State.quad_wr (f : Fld) (v : Nat) (i : Nat) : (wr s f v).quad i = s.quad i := (rfl)
@[simp] theorem State.quad_wrW (a v : Nat) (i : Nat) : (wrW s a v).quad i = s.quad i := (rfl)
@[simp] theorem State.quad_orF (f : Fld) (m : Nat) (i : Nat) : (orF s f m).quad i = s.quad i := (rfl)
@[simp] theorem State.quad_wrBit (f : Fld) (k : Nat) (b : Bool) (i : Nat) : (wrBit s f k b).quad i = s.quad i := (rfl)
@[simp] theorem State.quad_memPut (a : Nat) (b : Byte) (i : Nat) : (memPut s a b).quad i = s.quad i := (rfl)
@[simp] theorem State.quad_norErase (off n : Nat) (i : Nat) : (norErase s off n).quad i = s.quad i := (rfl)
@[simp] theorem State.quad_used (i : Nat) : (s.used).quad i = s.quad i := (rfl)
@[simp] theorem State.quad_advance (n : Nat) (i : Nat) : (advance s n).quad i = s.quad i := (rfl)
@[simp] theorem State.quad_stepFt (u : Int) (i : Nat) : (stepFt s u).quad i = s.quad i := (rfl)
@[simp] theorem State.quad_setPort (p : Nat) (x : Port) (i : Nat) : (s.setPort p x).quad i = s.quad i := (rfl)
@[simp] theorem State.quad_setChn (n : Nat) (x : Chn) (i : Nat) : (s.setChn n x).quad i = s.quad i := (rfl)
@[simp] theorem State.quad_setCan (k : Nat) (x : Can) (i : Nat) : (s.setCan k x).quad i = s.quad i := (rfl)
@[simp] theorem State.quad_setLine (n : Nat) (x : Line) (i : Nat) : (s.setLine n x).quad i = s.quad i := (rfl)
@[simp] theorem State.quad_setBrn (n : Nat) (x : Brn) (i : Nat) : (s.setBrn n x).quad i = s.quad i := (rfl)
@[simp] theorem State.quad_setStg (w v : Nat) (i : Nat) : (s.setStg w v).quad i = s.quad i := (rfl)
@[simp] theorem State.quad_emit (o : Output) (i : Nat) : (s.emit o).quad i = s.quad i := (rfl)
@[simp] theorem State.quad_wrs (l : List (Fld × Nat)) (i : Nat) : (wrs s l).quad i = s.quad i := State.quad_congr i (by simp)
@[simp] theorem State.quad_memPuts (a : Nat) (l : List Byte) (i : Nat) : (memPuts s a l).quad i = s.quad i := State.quad_congr i (by simp)
@[simp] theorem State.quad_norProgram (off : Nat) (l : List Byte) (i : Nat) : (norProgram s off l).quad i = s.quad i := State.quad_congr i (by simp)
@[simp] theorem State.quad_memPutWord (a v : Nat) (i : Nat) : (memPutWord s a v).quad i = s.quad i := State.quad_congr i (by simp)
@[simp] theorem State.quad_advanceTo (ns : Nat) (i : Nat) : (advanceTo s ns).quad i = s.quad i := State.quad_congr i (by simp)
set_option linter.unusedVariables false in
@[simp] theorem State.quad_mk {x_regs x_mem x_clk x_wide x_rst x_ports x_trn x_ldg x_xb x_fry x_bell x_ppsOut x_ppsRise x_trd x_drv x_chns x_stg x_stgTick x_stgOld x_cans x_rxmLast x_rxmAged x_asyNext x_asyRetry x_bad x_lines x_adc x_brns x_tnk x_sys x_otp x_act x_rsl x_pending x_fresh x_out} (i : Nat) : (⟨x_regs, x_mem, x_clk, x_wide, x_rst, x_ports, x_trn, x_ldg, x_xb, x_fry, x_bell, x_ppsOut, x_ppsRise, x_trd, x_drv, x_chns, x_stg, x_stgTick, x_stgOld, x_cans, x_rxmLast, x_rxmAged, x_asyNext, x_asyRetry, x_bad, x_lines, s.quads, x_adc, x_brns, x_tnk, x_sys, x_otp, x_act, x_rsl, x_pending, x_fresh, x_out⟩ : State).quad i = s.quad i := State.quad_congr i rfl

theorem State.brn_setBrn (i j : Nat) (x : Brn) : (s.setBrn i x).brn j = if j = i then x else s.brn j := tget_tput _ _ _ _ _
@[simp] theorem State.brn_setBrn_self (i : Nat) (x : Brn) : (s.setBrn i x).brn i = x := by simp [State.brn_setBrn]
theorem State.brn_congr {s t : State} (i : Nat) (h : s.brns = t.brns) : s.brn i = t.brn i := by simp [State.brn, h]
@[simp] theorem State.brn_setCell (a : Nat) (c : Cell) (i : Nat) : (setCell s a c).brn i = s.brn i := (rfl)
@[simp] theorem State.brn_wr (f : Fld) (v : Nat) (i : Nat) : (wr s f v).brn i = s.brn i := (rfl)
@[simp] theorem State.brn_wrW (a v : Nat) (i : Nat) : (wrW s a v).brn i = s.brn i := (rfl)
@[simp] theorem State.brn_orF (f : Fld) (m : Nat) (i : Nat) : (orF s f m).brn i = s.brn i := (rfl)
@[simp] theorem State.brn_wrBit (f : Fld) (k : Nat) (b : Bool) (i : Nat) : (wrBit s f k b).brn i = s.brn i := (rfl)
@[simp] theorem State.brn_memPut (a : Nat) (b : Byte) (i : Nat) : (memPut s a b).brn i = s.brn i := (rfl)
@[simp] theorem State.brn_norErase (off n : Nat) (i : Nat) : (norErase s off n).brn i = s.brn i := (rfl)
@[simp] theorem State.brn_used (i : Nat) : (s.used).brn i = s.brn i := (rfl)
@[simp] theorem State.brn_advance (n : Nat) (i : Nat) : (advance s n).brn i = s.brn i := (rfl)
@[simp] theorem State.brn_stepFt (u : Int) (i : Nat) : (stepFt s u).brn i = s.brn i := (rfl)
@[simp] theorem State.brn_setPort (p : Nat) (x : Port) (i : Nat) : (s.setPort p x).brn i = s.brn i := (rfl)
@[simp] theorem State.brn_setChn (n : Nat) (x : Chn) (i : Nat) : (s.setChn n x).brn i = s.brn i := (rfl)
@[simp] theorem State.brn_setCan (k : Nat) (x : Can) (i : Nat) : (s.setCan k x).brn i = s.brn i := (rfl)
@[simp] theorem State.brn_setLine (n : Nat) (x : Line) (i : Nat) : (s.setLine n x).brn i = s.brn i := (rfl)
@[simp] theorem State.brn_setQuad (d : Nat) (x : Quad) (i : Nat) : (s.setQuad d x).brn i = s.brn i := (rfl)
@[simp] theorem State.brn_setStg (w v : Nat) (i : Nat) : (s.setStg w v).brn i = s.brn i := (rfl)
@[simp] theorem State.brn_emit (o : Output) (i : Nat) : (s.emit o).brn i = s.brn i := (rfl)
@[simp] theorem State.brn_wrs (l : List (Fld × Nat)) (i : Nat) : (wrs s l).brn i = s.brn i := State.brn_congr i (by simp)
@[simp] theorem State.brn_memPuts (a : Nat) (l : List Byte) (i : Nat) : (memPuts s a l).brn i = s.brn i := State.brn_congr i (by simp)
@[simp] theorem State.brn_norProgram (off : Nat) (l : List Byte) (i : Nat) : (norProgram s off l).brn i = s.brn i := State.brn_congr i (by simp)
@[simp] theorem State.brn_memPutWord (a v : Nat) (i : Nat) : (memPutWord s a v).brn i = s.brn i := State.brn_congr i (by simp)
@[simp] theorem State.brn_advanceTo (ns : Nat) (i : Nat) : (advanceTo s ns).brn i = s.brn i := State.brn_congr i (by simp)
set_option linter.unusedVariables false in
@[simp] theorem State.brn_mk {x_regs x_mem x_clk x_wide x_rst x_ports x_trn x_ldg x_xb x_fry x_bell x_ppsOut x_ppsRise x_trd x_drv x_chns x_stg x_stgTick x_stgOld x_cans x_rxmLast x_rxmAged x_asyNext x_asyRetry x_bad x_lines x_quads x_adc x_tnk x_sys x_otp x_act x_rsl x_pending x_fresh x_out} (i : Nat) : (⟨x_regs, x_mem, x_clk, x_wide, x_rst, x_ports, x_trn, x_ldg, x_xb, x_fry, x_bell, x_ppsOut, x_ppsRise, x_trd, x_drv, x_chns, x_stg, x_stgTick, x_stgOld, x_cans, x_rxmLast, x_rxmAged, x_asyNext, x_asyRetry, x_bad, x_lines, x_quads, x_adc, s.brns, x_tnk, x_sys, x_otp, x_act, x_rsl, x_pending, x_fresh, x_out⟩ : State).brn i = s.brn i := State.brn_congr i rfl

@[simp] theorem wrs_nil : wrs s [] = s := rfl
@[simp] theorem wrs_cons (p : Fld × Nat) (l : List (Fld × Nat)) : wrs s (p :: l) = wrs (wr s p.1 p.2) l := rfl

theorem rd_lt (f : Fld) : rd s f < 2 ^ f.w := Nat.mod_lt _ (by positivity)

theorem rd_incSat_self (f : Fld) (h : f.lo + f.w ≤ 64) : rd (incSat s f) f = min (rd s f + 1) (2 ^ f.w - 1) := by
  have : 0 < 2 ^ f.w := by positivity
  rw [incSat, addSat, rd_wr_self _ _ _ h, Nat.mod_eq_of_lt (by omega)]

theorem rd_incWrap_self (f : Fld) (h : f.lo + f.w ≤ 64) : rd (incWrap s f) f = (rd s f + 1) % 2 ^ f.w := by
  rw [incWrap, rd_wr_self _ _ _ h]

theorem whenAlive_alive (f : State → State) (h : s.rst.busy = false) : whenAlive s f = f s := by simp [whenAlive, h]

theorem whenAlive_busy (f : State → State) (h : s.rst.busy = true) : whenAlive s f = s := by simp [whenAlive, h]

/-- What a step over a group leaves alone at every index, it leaves alone. -/
theorem each_same {β : Type} (g : State → β) (f : State → Nat → State) (l : List Nat)
    (h : ∀ u k, k ∈ l → g (f u k) = g u) : g (each l f s) = g s := by
  unfold each
  induction l generalizing s with
  | nil => rfl
  | cons k l ih => rw [List.foldl_cons, ih _ (fun u k hk => h u k (by simp [hk])), h _ _ (by simp)]

/-- A part that only the step at index n changes is after the step over the group what that one step makes of it. -/
theorem each_get {β : Type} (g : State → β) (F : β → β) (f : State → Nat → State) (l : List Nat) (n : Nat)
    (hl : l.Nodup) (hn : n ∈ l) (h : ∀ u k, k ≠ n → g (f u k) = g u) (hf : ∀ u, g (f u n) = F (g u)) :
    g (each l f s) = F (g s) := by
  induction l generalizing s with
  | nil => simp at hn
  | cons k l ih =>
    obtain ⟨h1, h2⟩ := List.nodup_cons.1 hl
    change g (each l f (f s k)) = F (g s)
    by_cases e : k = n
    · subst e
      rw [each_same _ g f l fun u j hj => h u j fun e => h1 (e ▸ hj), hf]
    · rw [ih _ h2 ((List.mem_cons.1 hn).resolve_left fun x => e x.symm), h _ _ e]

end Sys2Proof.Machine
end

