-- ==== Sys2Proof/Laws/Frames.lean ====
section
/-! SUPPORT. Frames: what two steps in a row leave alone, and what one write of a register leaves alone. -/

namespace Sys2Proof.Machine

/-- What has left the block grows at the front. -/
@[simp] theorem emit_out (s : State) (o : Output) : (s.emit o).out = o :: s.out := (rfl)

@[simp] theorem used_fresh (s : State) : s.used.fresh = s.fresh + 1 := (rfl)

theorem partsBut_refl (l : List Part) (s : State) : partsBut l s s := fun p _ => by cases p <;> rfl

theorem partsBut_trans {l : List Part} {s t u : State} (h : partsBut l s t) (g : partsBut l t u) : partsBut l s u := by
  intro p hp
  have a := h p hp
  have b := g p hp
  cases p <;> exact Eq.trans b a

theorem partsBut_mono {l m : List Part} {s t : State} (h : partsBut l s t) (hm : ∀ p ∈ l, p ∈ m) : partsBut m s t :=
  fun p hp => h p fun x => hp (hm p x)

theorem partsBut_wr (s : State) (f : Fld) (v : Nat) : partsBut [.regs] s (wr s f v) := by
  intro p hp
  cases p <;> simp [Part.same] at hp ⊢

theorem cellsBut_refl (l : List Nat) (s : State) : cellsBut l s s := fun _ _ => rfl

theorem cellsBut_trans {l : List Nat} {s t u : State} (h : cellsBut l s t) (g : cellsBut l t u) : cellsBut l s u :=
  fun a ha => (g a ha).trans (h a ha)

theorem cellsBut_mono {l m : List Nat} {s t : State} (h : cellsBut l s t) (hm : ∀ a ∈ l, a ∈ m) : cellsBut m s t :=
  fun a ha => h a fun x => ha (hm a x)

theorem cellsBut_wr (s : State) (f : Fld) (v : Nat) : cellsBut [f.addr] s (wr s f v) :=
  fun a ha => cellAt_wr_ne s f v a (by simpa using ha)

theorem memSame_refl (s : State) : memSame s s := fun _ => rfl

theorem memSame_trans {s t u : State} (h : memSame s t) (g : memSame t u) : memSame s u := fun a => (g a).trans (h a)

theorem regsOnly_refl (l : List Nat) (s : State) : regsOnly l s s := ⟨partsBut_refl _ s, cellsBut_refl l s⟩

theorem regsOnly_trans {l : List Nat} {s t u : State} (h : regsOnly l s t) (g : regsOnly l t u) : regsOnly l s u :=
  ⟨partsBut_trans h.1 g.1, cellsBut_trans h.2 g.2⟩

theorem regsOnly_mono {l m : List Nat} {s t : State} (h : regsOnly l s t) (hm : ∀ a ∈ l, a ∈ m) : regsOnly m s t :=
  ⟨h.1, cellsBut_mono h.2 hm⟩

theorem regsOnly_wr (s : State) (f : Fld) (v : Nat) : regsOnly [f.addr] s (wr s f v) := ⟨partsBut_wr s f v, cellsBut_wr s f v⟩

theorem brnFrame_trans {n : Nat} {l : List Nat} {s t u : State} (h : brnFrame n l s t) (g : brnFrame n l t u) :
    brnFrame n l s u :=
  ⟨partsBut_trans h.1 g.1, cellsBut_trans h.2.1 g.2.1, fun k hk => (g.2.2 k hk).trans (h.2.2 k hk)⟩

theorem brnFrame_mono {n : Nat} {l m : List Nat} {s t : State} (h : brnFrame n l s t) (hm : ∀ a ∈ l, a ∈ m) : brnFrame n m s t :=
  ⟨h.1, cellsBut_mono h.2.1 hm, h.2.2⟩

theorem brnFrame_of_regsOnly {n : Nat} {l : List Nat} {s t : State} (h : regsOnly l s t) : brnFrame n l s t :=
  ⟨partsBut_mono h.1 (by simp), h.2, fun k _ => State.brn_congr k (h.1 .brns (by simp))⟩

end Sys2Proof.Machine
end

