-- ==== Sys2Proof/Laws/Keeps.lean ====
section
/-! SUPPORT. What every operation keeps: the queue, the canonical form of memory, the fuses, and the count of free values,
which only grows. The files Keeps… hold one lemma for each operation that gives a state. -/

namespace Sys2Proof.Machine

theorem Otp.Advances.ret {o p : Otp} (h : o.Advances p) (e : o.lc = lcReturn) : p.lc = lcReturn := by
  have := h.lc (Nat.le_of_eq e)
  omega

theorem Otp.Advances.refl (o : Otp) : o.Advances o :=
  ⟨fun e => ⟨Nat.le_refl _, e⟩, Nat.le_refl _, fun _ h => h, fun _ h => .inl h, fun _ _ => rfl⟩

theorem Otp.Advances.trans {o p q : Otp} (h : o.Advances p) (g : p.Advances q) : o.Advances q where
  lc e := ⟨Nat.le_trans (h.lc e).1 (g.lc (h.lc e).2).1, (g.lc (h.lc e).2).2⟩
  arb := Nat.le_trans h.arb g.arb
  revoked k e := g.revoked k (h.revoked k e)
  valid k e := (h.valid k e).elim (fun x => g.valid k x) (fun x => .inr (g.ret x))
  hash k e := (g.hash k (e.elim (fun x => h.valid k x) (fun x => .inr (h.ret x)))).trans (h.hash k e)

/-- The four parts an operation keeps, as they stand in the state after it. -/
structure KeepsParts (s : State) (pending : List Instr) (mem : List Host.Cell) (otp : Otp) (fresh : Nat) : Prop where
  pending : pending = s.pending
  mem : Memory.wf s.mem = true → Memory.wf mem = true
  otp : s.otp.Advances otp
  fresh : s.fresh ≤ fresh

/-- The queue, the form of memory and the fuses of a state are kept in another. -/
structure Keeps (s t : State) : Prop where
  parts : KeepsParts s t.pending t.mem t.otp t.fresh

theorem keeps_parts {s t : State} : KeepsParts s t.pending t.mem t.otp t.fresh ↔ Keeps s t := ⟨fun h => ⟨h⟩, fun h => h.parts⟩

set_option linter.unusedVariables false in
/-- A record update is kept where its parts are. -/
theorem keeps_mk (z : State) {x_regs x_mem x_clk x_wide x_rst x_ports x_trn x_ldg x_xb x_fry x_bell x_ppsOut x_ppsRise x_trd x_drv x_chns x_stg x_stgTick x_stgOld x_cans x_rxmLast x_rxmAged x_asyNext x_asyRetry x_bad x_lines x_quads x_adc x_brns x_tnk x_sys x_otp x_act x_rsl x_pending x_fresh x_out} :
    Keeps z ⟨x_regs, x_mem, x_clk, x_wide, x_rst, x_ports, x_trn, x_ldg, x_xb, x_fry, x_bell, x_ppsOut, x_ppsRise, x_trd, x_drv, x_chns, x_stg, x_stgTick, x_stgOld, x_cans, x_rxmLast, x_rxmAged, x_asyNext, x_asyRetry, x_bad, x_lines, x_quads, x_adc, x_brns, x_tnk, x_sys, x_otp, x_act, x_rsl, x_pending, x_fresh, x_out⟩ ↔ KeepsParts z x_pending x_mem x_otp x_fresh := keeps_parts.symm

theorem Keeps.refl (s : State) : Keeps s s := ⟨⟨rfl, id, Otp.Advances.refl _, Nat.le_refl _⟩⟩

theorem Keeps.trans {s t u : State} (h : Keeps s t) (g : Keeps t u) : Keeps s u :=
  ⟨⟨g.parts.pending.trans h.parts.pending, fun w => g.parts.mem (h.parts.mem w), h.parts.otp.trans g.parts.otp,
    Nat.le_trans h.parts.fresh g.parts.fresh⟩⟩

variable {z : State}

theorem keeps_ite {c : Prop} [Decidable c] {a b : State} (ha : Keeps z a) (hb : Keeps z b) : Keeps z (if c then a else b) := by
  split <;> assumption

/-- A state that differs in none of the parts is kept as well. -/
theorem keeps_same {s t : State} (h : Keeps z s) (hp : t.pending = s.pending) (hm : t.mem = s.mem) (ho : t.otp = s.otp)
    (hf : t.fresh = s.fresh) : Keeps z t := by
  refine ⟨?_⟩; rw [hp, hm, ho, hf]; exact h.parts

theorem keeps_memPut {s : State} (a : Nat) (b : Byte) (h : Keeps z s) : Keeps z (memPut s a b) :=
  ⟨⟨h.parts.pending, fun w => memPut_wf s a b (h.parts.mem w), h.parts.otp, h.parts.fresh⟩⟩

theorem keeps_norErase {s : State} (off n : Nat) (h : Keeps z s) : Keeps z (norErase s off n) :=
  ⟨⟨h.parts.pending, fun w => norErase_wf s off n (h.parts.mem w), h.parts.otp, h.parts.fresh⟩⟩

theorem keeps_memPuts {s : State} (a : Nat) (l : List Byte) (h : Keeps z s) : Keeps z (memPuts s a l) := by
  induction l generalizing s a with
  | nil => exact h
  | cons b l ih => exact ih (a + 1) (keeps_memPut a b h)

theorem keeps_norProgram {s : State} (off : Nat) (l : List Byte) (h : Keeps z s) : Keeps z (norProgram s off l) := by
  induction l generalizing s off with
  | nil => exact h
  | cons b l ih => exact ih (off + 1) (keeps_memPut _ _ h)

theorem keeps_used {s : State} (h : Keeps z s) : Keeps z s.used :=
  ⟨⟨h.parts.pending, h.parts.mem, h.parts.otp, Nat.le_succ_of_le h.parts.fresh⟩⟩

theorem keeps_each {s : State} (l : List Nat) (f : State → Nat → State) (h : Keeps z s)
    (hf : ∀ u k, Keeps z u → Keeps z (f u k)) : Keeps z (each l f s) := by
  unfold each
  induction l generalizing s with
  | nil => exact h
  | cons k l ih => exact ih (hf s k h)

theorem keeps_foldl {α : Type} {s : State} (l : List α) (f : State → α → State) (h : Keeps z s)
    (hf : ∀ u k, Keeps z u → Keeps z (f u k)) : Keeps z (l.foldl f s) := by
  induction l generalizing s with
  | nil => exact h
  | cons k l ih => exact ih (hf s k h)

theorem keeps_whenAlive {s : State} (f : State → State) (h : Keeps z s) (hf : ∀ u, Keeps z u → Keeps z (f u)) :
    Keeps z (whenAlive s f) := by
  unfold whenAlive; split
  · exact h
  · exact hf s h

theorem keeps_freshAdd {s : State} (k : Nat) (h : Keeps z s) : Keeps z { s with fresh := s.fresh + k } :=
  ⟨⟨h.parts.pending, h.parts.mem, h.parts.otp, Nat.le_add_right_of_le h.parts.fresh⟩⟩

theorem keeps_foldl_snd {α β : Type} (l : List α) (f : β × State → α → β × State) {x : β × State} (h : Keeps z x.2)
    (hf : ∀ u k, Keeps z u.2 → Keeps z (f u k).2) : Keeps z (l.foldl f x).2 := by
  induction l generalizing x with
  | nil => exact h
  | cons k l ih => exact ih (hf x k h)

theorem keeps_foldl_fst {α β : Type} (l : List α) (f : State × β → α → State × β) {x : State × β} (h : Keeps z x.1)
    (hf : ∀ u k, Keeps z u.1 → Keeps z (f u k).1) : Keeps z (l.foldl f x).1 := by
  induction l generalizing x with
  | nil => exact h
  | cons k l ih => exact ih (hf x k h)

/-- A next state that a command answers is kept. -/
structure KeepsOut (s : State) (o : Out) : Prop where
  next : ∀ t, o = .next t → Keeps s t

theorem keeps_next {s : State} (h : Keeps z s) : KeepsOut z (.next s) := ⟨fun t e => by cases e; exact h⟩

theorem keeps_outIte {c : Prop} [Decidable c] {a b : Out} (ha : KeepsOut z a) (hb : KeepsOut z b) :
    KeepsOut z (if c then a else b) := by
  split <;> assumption

/-- A state that an operation may answer, with something beside it, is kept. -/
structure KeepsSome {α : Type} (s : State) (o : Option (State × α)) : Prop where
  some : ∀ r, o = some r → Keeps s r.1

theorem keeps_none {α : Type} : KeepsSome z (none : Option (State × α)) := ⟨fun _ e => by cases e⟩

theorem keeps_some {α : Type} {x : State × α} (h : Keeps z x.1) : KeepsSome z (some x) := ⟨fun _ e => by cases e; exact h⟩

theorem keeps_someIte {α : Type} {c : Prop} [Decidable c] {a b : Option (State × α)} (ha : KeepsSome z a) (hb : KeepsSome z b) :
    KeepsSome z (if c then a else b) := by
  split <;> assumption

theorem keeps_getD {α : Type} {o : Option (State × α)} {x : State × α} (ho : KeepsSome z o) (h : Keeps z x.1) :
    Keeps z (o.getD x).1 := by
  cases o with
  | none => exact h
  | some r => exact ho.some r rfl

theorem keeps_fstIte {α : Type} {c : Prop} [Decidable c] {a b : State × α} (ha : Keeps z a.1) (hb : Keeps z b.1) :
    Keeps z (if c then a else b).1 := by
  split <;> assumption

/-- A state whose memory is a part of the kept one's. -/
theorem keeps_memFilter {s t : State} (p : Host.Cell → Bool) (h : Keeps z s) (hp : t.pending = s.pending)
    (hm : t.mem = s.mem.filter p) (ho : t.otp = s.otp) (hf : t.fresh = s.fresh) : Keeps z t := by
  refine ⟨?_⟩; rw [hp, hm, ho, hf]
  exact ⟨h.parts.pending, fun w => filter_wf _ p (h.parts.mem w), h.parts.otp, h.parts.fresh⟩

end Sys2Proof.Machine
end

