-- ==== Sys2Proof/Laws/KeepsOps.lean ====
section
/-! SUPPORT. What the operations of Sys2Proof/Machine/Ops.lean keep. -/

set_option linter.unusedSimpArgs false

namespace Sys2Proof.Machine

variable {z : State}

theorem keeps_setCell (s : State) (a : Nat) (c : Cell) (h : Keeps z s) : Keeps z (setCell s a c) := by
  unfold setCell
  with_reducible repeat (first | assumption | intro _ | apply keeps_ite | apply keeps_foldl | apply keeps_fstIte | extract_lets | (simp only [keeps_mk, keeps_parts]))

theorem keeps_wr (s : State) (f : Fld) (v : Nat) (h : Keeps z s) : Keeps z (wr s f v) := by
  unfold wr
  with_reducible repeat (first | assumption | intro _ | apply keeps_ite | apply keeps_setCell | apply keeps_foldl | apply keeps_fstIte)

theorem keeps_wrB (s : State) (f : Fld) (b : Bool) (h : Keeps z s) : Keeps z (wrB s f b) := by
  unfold wrB
  with_reducible repeat (first | assumption | intro _ | apply keeps_ite | apply keeps_wr | apply keeps_foldl | apply keeps_fstIte)

theorem keeps_setBrn (s : State) (n : Nat) (x : Brn) (h : Keeps z s) : Keeps z (State.setBrn s n x) := by
  unfold State.setBrn
  with_reducible repeat (first | assumption | intro _ | apply keeps_ite | apply keeps_foldl | apply keeps_fstIte | extract_lets | (simp only [keeps_mk, keeps_parts]))

theorem keeps_setStg (s : State) (w : Nat) (v : Nat) (h : Keeps z s) : Keeps z (State.setStg s w v) := by
  unfold State.setStg
  with_reducible repeat (first | assumption | intro _ | apply keeps_ite | apply keeps_foldl | apply keeps_fstIte | extract_lets | (simp only [keeps_mk, keeps_parts]))

theorem keeps_setPort (s : State) (p : Nat) (x : Port) (h : Keeps z s) : Keeps z (State.setPort s p x) := by
  unfold State.setPort
  with_reducible repeat (first | assumption | intro _ | apply keeps_ite | apply keeps_foldl | apply keeps_fstIte | extract_lets | (simp only [keeps_mk, keeps_parts]))

theorem keeps_setLine (s : State) (n : Nat) (x : Line) (h : Keeps z s) : Keeps z (State.setLine s n x) := by
  unfold State.setLine
  with_reducible repeat (first | assumption | intro _ | apply keeps_ite | apply keeps_foldl | apply keeps_fstIte | extract_lets | (simp only [keeps_mk, keeps_parts]))

theorem keeps_orF (s : State) (f : Fld) (m : Nat) (h : Keeps z s) : Keeps z (orF s f m) := by
  unfold orF
  with_reducible repeat (first | assumption | intro _ | apply keeps_ite | apply keeps_wr | apply keeps_foldl | apply keeps_fstIte)

theorem keeps_stepFt (s : State) (u : Int) (h : Keeps z s) : Keeps z (stepFt s u) := by
  unfold stepFt
  with_reducible repeat (first | assumption | intro _ | apply keeps_ite | apply keeps_foldl | apply keeps_fstIte | extract_lets | (simp only [keeps_mk, keeps_parts]))

theorem keeps_emit (s : State) (o : Output) (h : Keeps z s) : Keeps z (State.emit s o) := by
  unfold State.emit
  with_reducible repeat (first | assumption | intro _ | apply keeps_ite | apply keeps_foldl | apply keeps_fstIte | extract_lets | (simp only [keeps_mk, keeps_parts]))

theorem keeps_setCan (s : State) (c : Nat) (x : Can) (h : Keeps z s) : Keeps z (State.setCan s c x) := by
  unfold State.setCan
  with_reducible repeat (first | assumption | intro _ | apply keeps_ite | apply keeps_foldl | apply keeps_fstIte | extract_lets | (simp only [keeps_mk, keeps_parts]))

theorem keeps_wrs (s : State) (l : List (Fld × Nat)) (h : Keeps z s) : Keeps z (wrs s l) := by
  unfold wrs
  with_reducible repeat (first | assumption | intro _ | apply keeps_ite | apply keeps_wr | apply keeps_foldl | apply keeps_fstIte)

theorem keeps_advance (s : State) (n : Nat) (h : Keeps z s) : Keeps z (advance s n) := by
  unfold advance
  with_reducible repeat (first | assumption | intro _ | apply keeps_ite | apply keeps_foldl | apply keeps_fstIte | extract_lets | (simp only [keeps_mk, keeps_parts]))

theorem keeps_advanceTo (s : State) (ns : Nat) (h : Keeps z s) : Keeps z (advanceTo s ns) := by
  unfold advanceTo
  with_reducible repeat (first | assumption | intro _ | apply keeps_ite | apply keeps_advance | apply keeps_foldl | apply keeps_fstIte)

theorem keeps_toBoundary (s : State) (p : Nat) (last : Option Int) (h : Keeps z s) : Keeps z (toBoundary s p last) := by
  unfold toBoundary
  with_reducible repeat (first | assumption | intro _ | apply keeps_ite | apply keeps_advanceTo | apply keeps_foldl | apply keeps_fstIte | extract_lets | (simp only [keeps_mk, keeps_parts]) | split)

theorem keeps_incWrap (s : State) (f : Fld) (h : Keeps z s) : Keeps z (incWrap s f) := by
  unfold incWrap
  with_reducible repeat (first | assumption | intro _ | apply keeps_ite | apply keeps_wr | apply keeps_foldl | apply keeps_fstIte)

theorem keeps_wrI (s : State) (f : Fld) (v : Int) (h : Keeps z s) : Keeps z (wrI s f v) := by
  unfold wrI
  with_reducible repeat (first | assumption | intro _ | apply keeps_ite | apply keeps_wr | apply keeps_foldl | apply keeps_fstIte)

theorem keeps_wrW (s : State) (a : Nat) (v : Nat) (h : Keeps z s) : Keeps z (wrW s a v) := by
  unfold wrW
  with_reducible repeat (first | assumption | intro _ | apply keeps_ite | apply keeps_setCell | apply keeps_foldl | apply keeps_fstIte)

theorem keeps_setQuad (s : State) (d : Nat) (x : Quad) (h : Keeps z s) : Keeps z (State.setQuad s d x) := by
  unfold State.setQuad
  with_reducible repeat (first | assumption | intro _ | apply keeps_ite | apply keeps_foldl | apply keeps_fstIte | extract_lets | (simp only [keeps_mk, keeps_parts]))

theorem keeps_addSat (s : State) (f : Fld) (n : Nat) (h : Keeps z s) : Keeps z (addSat s f n) := by
  unfold addSat
  with_reducible repeat (first | assumption | intro _ | apply keeps_ite | apply keeps_wr | apply keeps_foldl | apply keeps_fstIte)

theorem keeps_incSat (s : State) (f : Fld) (h : Keeps z s) : Keeps z (incSat s f) := by
  unfold incSat
  with_reducible repeat (first | assumption | intro _ | apply keeps_ite | apply keeps_addSat | apply keeps_foldl | apply keeps_fstIte)

theorem keeps_wrBit (s : State) (f : Fld) (k : Nat) (b : Bool) (h : Keeps z s) : Keeps z (wrBit s f k b) := by
  unfold wrBit
  with_reducible repeat (first | assumption | intro _ | apply keeps_ite | apply keeps_wr | apply keeps_foldl | apply keeps_fstIte)

theorem keeps_setChn (s : State) (n : Nat) (x : Chn) (h : Keeps z s) : Keeps z (State.setChn s n x) := by
  unfold State.setChn
  with_reducible repeat (first | assumption | intro _ | apply keeps_ite | apply keeps_foldl | apply keeps_fstIte | extract_lets | (simp only [keeps_mk, keeps_parts]))

theorem keeps_memPutWord (s : State) (a : Nat) (v : Nat) (h : Keeps z s) : Keeps z (memPutWord s a v) := by
  unfold memPutWord
  with_reducible repeat (first | assumption | intro _ | apply keeps_ite | apply keeps_memPuts | apply keeps_foldl | apply keeps_fstIte)

end Sys2Proof.Machine
end

