-- ==== Sys2Proof/Laws/KeepsAsyOps.lean ====
section
/-! SUPPORT. What the operations of Sys2Proof/Machine/AsyOps.lean keep. -/

set_option linter.unusedSimpArgs false

namespace Sys2Proof.Machine

variable {z : State}

theorem keeps_asyMended (s : State) (c : Nat) (h : Keeps z s) : Keeps z (asyMended s c) := by
  unfold asyMended
  with_reducible repeat (first | assumption | intro _ | apply keeps_ite | apply keeps_foldl | apply keeps_fstIte | extract_lets | (simp only [keeps_mk, keeps_parts]))

theorem keeps_asyCheck (s : State) (c : Nat) (bs : List Byte) (h : Keeps z s) : Keeps z (asyCheck s c bs).2.2 := by
  unfold asyCheck
  with_reducible repeat (first | assumption | intro _ | apply keeps_ite | apply keeps_incSat | apply keeps_asyMended | apply keeps_wr | apply keeps_incWrap | apply keeps_foldl | apply keeps_fstIte)

theorem keeps_asyAppend (s : State) (c : Nat) (bs : List Byte) (h : Keeps z s) : Keeps z (asyAppend s c bs).2 := by
  unfold asyAppend
  with_reducible repeat (first | assumption | intro _ | apply keeps_ite | apply keeps_asyMended | apply keeps_wr | apply keeps_incWrap | apply keeps_foldl | apply keeps_fstIte)

end Sys2Proof.Machine
end

