-- ==== Sys2Proof/Laws/KeepsBrnOps.lean ====
section
/-! SUPPORT. What the operations of Sys2Proof/Machine/BrnOps.lean keep. -/

set_option linter.unusedSimpArgs false

namespace Sys2Proof.Machine

variable {z : State}

theorem keeps_brnRest (s : State) (n : Nat) (h : Keeps z s) : Keeps z (brnRest s n) := by
  unfold brnRest
  with_reducible repeat (first | assumption | intro _ | apply keeps_ite | apply keeps_setBrn | apply keeps_foldl | apply keeps_fstIte)

theorem keeps_brnInsert (s : State) (n : Nat) (h : Keeps z s) : Keeps z (brnInsert s n) := by
  unfold brnInsert
  with_reducible repeat (first | assumption | intro _ | apply keeps_ite | apply keeps_wrI | apply keeps_setBrn | apply keeps_wr | apply keeps_foldl | apply keeps_fstIte)

theorem keeps_brnOffSettle (s : State) (n : Nat) (h : Keeps z s) : Keeps z (brnOffSettle s n) := by
  unfold brnOffSettle
  with_reducible repeat (first | assumption | intro _ | apply keeps_ite | apply keeps_brnInsert | apply keeps_setBrn | apply keeps_wr | apply keeps_foldl | apply keeps_fstIte)

theorem keeps_brnToOff (s : State) (n : Nat) (h : Keeps z s) : Keeps z (brnToOff s n) := by
  unfold brnToOff
  with_reducible repeat (first | assumption | intro _ | apply keeps_ite | apply keeps_brnRest | apply keeps_brnOffSettle | apply keeps_wr | apply keeps_foldl | apply keeps_fstIte)

theorem keeps_brnSetE (s : State) (n : Nat) (e : Bool) (h : Keeps z s) : Keeps z (brnSetE s n e) := by
  unfold brnSetE
  with_reducible repeat (first | assumption | intro _ | apply keeps_ite | apply keeps_wr | apply keeps_brnToOff | apply keeps_brnOffSettle | apply keeps_wrB | apply keeps_foldl | apply keeps_fstIte)

theorem keeps_brnFollow (s : State) (n : Nat) (h : Keeps z s) : Keeps z (brnFollow s n) := by
  unfold brnFollow
  with_reducible repeat (first | assumption | intro _ | apply keeps_ite | apply keeps_brnSetE | apply keeps_foldl | apply keeps_fstIte)

theorem keeps_brnFollowAll (s : State) (h : Keeps z s) : Keeps z (brnFollowAll s) := by
  unfold brnFollowAll
  with_reducible repeat (first | assumption | intro _ | apply keeps_ite | apply keeps_brnFollow | apply keeps_each | apply keeps_foldl | apply keeps_fstIte)

theorem keeps_brnHardOff (s : State) (n : Nat) (h : Keeps z s) : Keeps z (brnHardOff s n) := by
  unfold brnHardOff
  with_reducible repeat (first | assumption | intro _ | apply keeps_ite | apply keeps_setBrn | apply keeps_wrs | apply keeps_foldl | apply keeps_fstIte)

theorem keeps_hardOff (s : State) (h : Keeps z s) : Keeps z (hardOff s) := by
  unfold hardOff
  with_reducible repeat (first | assumption | intro _ | apply keeps_ite | apply keeps_brnHardOff | apply keeps_each | apply keeps_foldl | apply keeps_fstIte)

theorem keeps_brnRelease (s : State) (h : Keeps z s) : Keeps z (brnRelease s) := by
  unfold brnRelease
  with_reducible repeat (first | assumption | intro _ | apply keeps_ite | apply keeps_setBrn | apply keeps_each | apply keeps_brnFollowAll | apply keeps_foldl | apply keeps_fstIte)

theorem keeps_brnLimit (s : State) (n : Nat) (vBus : Nat) (vOut : Nat) (h : Keeps z s) : Keeps z (brnLimit s n vBus vOut) := by
  unfold brnLimit
  with_reducible repeat (first | assumption | intro _ | apply keeps_ite | apply keeps_setBrn | apply keeps_foldl | apply keeps_fstIte)

end Sys2Proof.Machine
end

