-- ==== Sys2Proof/Laws/KeepsCanOps.lean ====
section
/-! SUPPORT. What the operations of Sys2Proof/Machine/CanOps.lean keep. -/

set_option linter.unusedSimpArgs false

namespace Sys2Proof.Machine

variable {z : State}

theorem keeps_canStop (s : State) (c : Nat) (h : Keeps z s) : Keeps z (canStop s c) := by
  unfold canStop
  with_reducible repeat (first | assumption | intro _ | apply keeps_ite | apply keeps_wr | apply keeps_foldl | apply keeps_fstIte)

theorem keeps_canStopAll (s : State) (h : Keeps z s) : Keeps z (canStopAll s) := by
  unfold canStopAll
  with_reducible repeat (first | assumption | intro _ | apply keeps_ite | apply keeps_canStop | apply keeps_each | apply keeps_foldl | apply keeps_fstIte)

theorem keeps_canStart (s : State) (c : Nat) (h : Keeps z s) : Keeps z (canStart s c) := by
  unfold canStart
  with_reducible repeat (first | assumption | intro _ | apply keeps_ite | apply keeps_setCan | apply keeps_wrs | apply keeps_foldl | apply keeps_fstIte)

theorem keeps_canGo (s : State) (c : Nat) (h : Keeps z s) : Keeps z (canGo s c) := by
  unfold canGo
  with_reducible repeat (first | assumption | intro _ | apply keeps_ite | apply keeps_canStart | apply keeps_foldl | apply keeps_fstIte)

theorem keeps_canGoAll (s : State) (h : Keeps z s) : Keeps z (canGoAll s) := by
  unfold canGoAll
  with_reducible repeat (first | assumption | intro _ | apply keeps_ite | apply keeps_canGo | apply keeps_each | apply keeps_foldl | apply keeps_fstIte)

end Sys2Proof.Machine
end

