-- ==== Sys2Proof/Laws/KeepsChnOps.lean ====
section
/-! SUPPORT. What the operations of Sys2Proof/Machine/ChnOps.lean keep. -/

set_option linter.unusedSimpArgs false

namespace Sys2Proof.Machine

variable {z : State}

theorem keeps_csLevel (s : State) (n : Nat) (k : Nat) (b : Bool) (h : Keeps z s) : Keeps z (csLevel s n k b) := by
  unfold csLevel
  with_reducible repeat (first | assumption | intro _ | apply keeps_ite | apply keeps_setLine | apply keeps_foldl | apply keeps_fstIte | extract_lets | (simp only [keeps_mk, keeps_parts]) | split)

theorem keeps_csHold (s : State) (n : Nat) (b : Bool) (h : Keeps z s) : Keeps z (csHold s n b) := by
  unfold csHold
  with_reducible repeat (first | assumption | intro _ | apply keeps_ite | apply keeps_csLevel | apply keeps_setLine | apply keeps_each | apply keeps_foldl | apply keeps_fstIte | extract_lets | (simp only [keeps_mk, keeps_parts]) | split)

theorem keeps_chnGo (s : State) (n : Nat) (h : Keeps z s) : Keeps z (chnGo s n) := by
  unfold chnGo
  with_reducible repeat (first | assumption | intro _ | apply keeps_ite | apply keeps_wr | apply keeps_csHold | apply keeps_foldl | apply keeps_fstIte)

theorem keeps_txQual (s : State) (n : Nat) (t : Nat) (q : Nat) (h : Keeps z s) : Keeps z (txQual s n t q) := by
  unfold txQual
  with_reducible repeat (first | assumption | intro _ | apply keeps_ite | apply keeps_setStg | apply keeps_foldl | apply keeps_fstIte)

theorem keeps_chnStop (s : State) (n : Nat) (h : Keeps z s) : Keeps z (chnStop s n) := by
  unfold chnStop
  with_reducible repeat (first | assumption | intro _ | apply keeps_ite | apply keeps_setChn | apply keeps_txQual | apply keeps_each | apply keeps_wr | apply keeps_foldl | apply keeps_fstIte)

theorem keeps_chnStopAll (s : State) (h : Keeps z s) : Keeps z (chnStopAll s) := by
  unfold chnStopAll
  with_reducible repeat (first | assumption | intro _ | apply keeps_ite | apply keeps_chnStop | apply keeps_each | apply keeps_foldl | apply keeps_fstIte)

theorem keeps_chnGoAll (s : State) (h : Keeps z s) : Keeps z (chnGoAll s) := by
  unfold chnGoAll
  with_reducible repeat (first | assumption | intro _ | apply keeps_ite | apply keeps_chnGo | apply keeps_each | apply keeps_foldl | apply keeps_fstIte)

end Sys2Proof.Machine
end

