-- ==== Sys2Proof/Laws/KeepsDioOps.lean ====
section
/-! SUPPORT. What the operations of Sys2Proof/Machine/DioOps.lean keep. -/

set_option linter.unusedSimpArgs false

namespace Sys2Proof.Machine

variable {z : State}

theorem keeps_trainStart (s : State) (n : Nat) (h : Keeps z s) : Keeps z (trainStart s n) := by
  unfold trainStart
  with_reducible repeat (first | assumption | intro _ | apply keeps_ite | apply keeps_setLine | apply keeps_wr | apply keeps_foldl | apply keeps_fstIte)

theorem keeps_dioDrive (s : State) (n : Nat) (b : Option Bool) (h : Keeps z s) : Keeps z (dioDrive s n b) := by
  unfold dioDrive
  with_reducible repeat (first | assumption | intro _ | apply keeps_ite | apply keeps_setLine | apply keeps_foldl | apply keeps_fstIte)

theorem keeps_lineSafe (s : State) (n : Nat) (h : Keeps z s) : Keeps z (lineSafe s n) := by
  unfold lineSafe
  with_reducible repeat (first | assumption | intro _ | apply keeps_ite | apply keeps_setLine | apply keeps_foldl | apply keeps_fstIte)

theorem keeps_scanStart (s : State) (a : Nat) (h : Keeps z s) : Keeps z (scanStart s a) := by
  unfold scanStart
  with_reducible repeat (first | assumption | intro _ | apply keeps_ite | apply keeps_wrBit | apply keeps_wr | apply keeps_foldl | apply keeps_fstIte | extract_lets | (simp only [keeps_mk, keeps_parts]) | split)

theorem keeps_lineAct (s : State) (n : Nat) (rank : Nat) (a : LineAct) (h : Keeps z s) : Keeps z (lineAct s n rank a) := by
  unfold lineAct
  with_reducible repeat (first | assumption | intro _ | apply keeps_ite | apply keeps_setLine | apply keeps_trainStart | apply keeps_foldl | apply keeps_fstIte | extract_lets | (simp only [keeps_mk, keeps_parts]) | split)

theorem keeps_queueFire (s : State) (n : Nat) (a : LineAct) (h : Keeps z s) : Keeps z (queueFire s n a) := by
  unfold queueFire
  with_reducible repeat (first | assumption | intro _ | apply keeps_ite | apply keeps_setLine | apply keeps_lineAct | apply keeps_foldl | apply keeps_fstIte)

theorem keeps_dioSafe (s : State) (h : Keeps z s) : Keeps z (dioSafe s) := by
  unfold dioSafe
  with_reducible repeat (first | assumption | intro _ | apply keeps_ite | apply keeps_lineSafe | apply keeps_each | apply keeps_foldl | apply keeps_fstIte)

theorem keeps_targetAct (s : State) (rank : Nat) (target : Nat) (a : LineAct) (h : Keeps z s) : Keeps z (targetAct s rank target a) := by
  unfold targetAct
  with_reducible repeat (first | assumption | intro _ | apply keeps_ite | apply keeps_scanStart | apply keeps_lineAct | apply keeps_foldl | apply keeps_fstIte)

theorem keeps_queueLate (s : State) (n : Nat) (h : Keeps z s) : Keeps z (queueLate s n) := by
  unfold queueLate
  with_reducible repeat (first | assumption | intro _ | apply keeps_ite | apply keeps_incSat | apply keeps_wr | apply keeps_foldl | apply keeps_fstIte)

theorem keeps_queueJudge (s : State) (n : Nat) (h : Keeps z s) : Keeps z (queueJudge s n) := by
  unfold queueJudge
  with_reducible repeat (first | assumption | intro _ | apply keeps_ite | apply keeps_queueLate | apply keeps_queueFire | apply keeps_setLine | apply keeps_foldl | apply keeps_fstIte)

theorem keeps_queuePush (s : State) (n : Nat) (target : Nat) (a : LineAct) (h : Keeps z s) : Keeps z (queuePush s n target a) := by
  unfold queuePush
  with_reducible repeat (first | assumption | intro _ | apply keeps_ite | apply keeps_setLine | apply keeps_queueLate | apply keeps_queueFire | apply keeps_incSat | apply keeps_wr | apply keeps_foldl | apply keeps_fstIte)

end Sys2Proof.Machine
end

