-- ==== Sys2Proof/Laws/KeepsSafeOps.lean ====
section
/-! SUPPORT. What the operations of Sys2Proof/Machine/SafeOps.lean keep. -/

set_option linter.unusedSimpArgs false

namespace Sys2Proof.Machine

variable {z : State}

theorem keeps_drvLeave (s : State) (h : Keeps z s) : Keeps z (drvLeave s) := by
  unfold drvLeave
  with_reducible repeat (first | assumption | intro _ | apply keeps_ite | apply keeps_wr | apply keeps_each | apply keeps_foldl | apply keeps_fstIte | extract_lets | (simp only [keeps_mk, keeps_parts]))

theorem keeps_enterStill (s : State) (st : Nat) (h : Keeps z s) : Keeps z (enterStill s st) := by
  unfold enterStill
  with_reducible repeat (first | assumption | intro _ | apply keeps_ite | apply keeps_brnRelease | apply keeps_chnStopAll | apply keeps_canStopAll | apply keeps_drvLeave | apply keeps_dioSafe | apply keeps_wr | apply keeps_foldl | apply keeps_fstIte | extract_lets | (simp only [keeps_mk, keeps_parts]))

theorem keeps_enterService (s : State) (st : Nat) (h : Keeps z s) : Keeps z (enterService s st) := by
  unfold enterService
  with_reducible repeat (first | assumption | intro _ | apply keeps_ite | apply keeps_wr | apply keeps_chnGoAll | apply keeps_canGoAll | apply keeps_foldl | apply keeps_fstIte)

end Sys2Proof.Machine
end

