-- ==== Sys2Proof/Laws/KeepsResetOps.lean ====
section
/-! SUPPORT. What the operations of Sys2Proof/Machine/ResetOps.lean keep. -/

set_option linter.unusedSimpArgs false

namespace Sys2Proof.Machine

variable {z : State}

theorem keeps_brnAfter (s : State) (resole : Bool) (n : Nat) (h : Keeps z s) : Keeps z (brnAfter s resole n) := by
  unfold brnAfter
  with_reducible repeat (first | assumption | intro _ | apply keeps_ite | apply keeps_setBrn | apply keeps_foldl | apply keeps_fstIte)

theorem keeps_lineAfter (s : State) (resole : Bool) (n : Nat) (h : Keeps z s) : Keeps z (lineAfter s resole n) := by
  unfold lineAfter
  with_reducible repeat (first | assumption | intro _ | apply keeps_ite | apply keeps_lineSafe | apply keeps_setLine | apply keeps_wr | apply keeps_foldl | apply keeps_fstIte)

theorem keeps_takeOver (s : State) (h : Keeps z s) : Keeps z (takeOver s) := by
  unfold takeOver
  with_reducible repeat (first | assumption | intro _ | apply keeps_ite | apply keeps_lineAfter | apply keeps_setBrn | apply keeps_each | apply keeps_hardOff | apply keeps_wrs | apply keeps_foldl | apply keeps_fstIte | extract_lets | (simp only [keeps_mk, keeps_parts]))

theorem keeps_shutLost (s : State) (c : Nat) (h : Keeps z s) : Keeps z (shutLost s c) := by
  unfold shutLost
  with_reducible repeat (first | assumption | intro _ | apply keeps_ite | apply keeps_foldl | apply keeps_fstIte | extract_lets | (simp only [keeps_mk, keeps_parts]))

theorem keeps_recordCauses (s : State) (m : BitVec 8) (h : Keeps z s) : Keeps z (recordCauses s m) := by
  unfold recordCauses
  with_reducible repeat (first | assumption | intro _ | apply keeps_ite | apply keeps_wrs | apply keeps_foldl | apply keeps_fstIte | extract_lets | (simp only [keeps_mk, keeps_parts]))

theorem keeps_clearHub (s : State) (resole : Bool) (h : Keeps z s) : Keeps z (clearHub s resole) := by
  unfold clearHub
  extract_lets s1 s2
  have h2 : Keeps z s2 := keeps_wrs _ _ (keeps_each _ _ (keeps_each _ _ h fun u k hu => keeps_lineAfter _ _ _ hu) fun u k hu => keeps_brnAfter _ _ _ hu)
  clear_value s2
  exact keeps_memFilter (fun c => !hubMemory c.1) h2 rfl rfl rfl rfl

theorem keeps_clearAll (s : State) (h : Keeps z s) : Keeps z (clearAll s) := by
  exact keeps_memFilter _ h rfl rfl rfl rfl

theorem keeps_beforeReset (s : State) (c : Nat) (h : Keeps z s) : Keeps z (beforeReset s c) := by
  unfold beforeReset
  with_reducible repeat (first | assumption | intro _ | apply keeps_ite | apply keeps_wrs | apply keeps_hardOff | apply keeps_foldl | apply keeps_fstIte | extract_lets | (simp only [keeps_mk, keeps_parts]))

theorem keeps_orderReset (s : State) (c : Nat) (h : Keeps z s) : Keeps z (orderReset s c) := by
  unfold orderReset
  with_reducible repeat (first | assumption | intro _ | apply keeps_ite | apply keeps_takeOver | apply keeps_recordCauses | apply keeps_wr | apply keeps_clearHub | apply keeps_clearAll | apply keeps_beforeReset | apply keeps_shutLost | apply keeps_foldl | apply keeps_fstIte | extract_lets | (simp only [keeps_mk, keeps_parts]))

theorem keeps_releaseReset (s : State) (h : Keeps z s) : Keeps z (releaseReset s) := by
  unfold releaseReset
  with_reducible repeat (first | assumption | intro _ | apply keeps_ite | apply keeps_wr | apply keeps_foldl | apply keeps_fstIte | extract_lets | (simp only [keeps_mk, keeps_parts]))

end Sys2Proof.Machine
end

