-- ==== Sys2Proof/Laws/KeepsTnkOps.lean ====
section
/-! SUPPORT. What the operations of Sys2Proof/Machine/TnkOps.lean keep. -/

set_option linter.unusedSimpArgs false

namespace Sys2Proof.Machine

variable {z : State}

theorem keeps_minwSettle (s : State) (h : Keeps z s) : Keeps z (minwSettle s) := by
  unfold minwSettle
  with_reducible repeat (first | assumption | intro _ | apply keeps_ite | apply keeps_wr | apply keeps_foldl | apply keeps_fstIte)

theorem keeps_setAck (s : State) (src : Nat) (b : Bool) (h : Keeps z s) : Keeps z (setAck s src b) := by
  unfold setAck
  with_reducible repeat (first | assumption | intro _ | apply keeps_ite | apply keeps_wrBit | apply keeps_foldl | apply keeps_fstIte)

theorem keeps_fatal (s : State) (src : Nat) (cause : Nat) (h : Keeps z s) : Keeps z (fatal s src cause) := by
  unfold fatal
  with_reducible repeat (first | assumption | intro _ | apply keeps_ite | apply keeps_enterStill | apply keeps_orderReset | apply keeps_foldl | apply keeps_fstIte | extract_lets | (simp only [keeps_mk, keeps_parts]))

theorem keeps_minwStart (s : State) (h : Keeps z s) : Keeps z (minwStart s) := by
  unfold minwStart
  with_reducible repeat (first | assumption | intro _ | apply keeps_ite | apply keeps_wr | apply keeps_foldl | apply keeps_fstIte | extract_lets | (simp only [keeps_mk, keeps_parts]))

theorem keeps_fltPins (s : State) (h : Keeps z s) : Keeps z (fltPins s) := by
  unfold fltPins
  with_reducible repeat (first | assumption | intro _ | apply keeps_ite | apply keeps_wrs | apply keeps_foldl | apply keeps_fstIte)

theorem keeps_fltRaise (s : State) (l : List NewRaise) (h : Keeps z s) : Keeps z (fltRaise s l) := by
  unfold fltRaise
  with_reducible repeat (first | assumption | intro _ | apply keeps_ite | apply keeps_wr | apply keeps_minwStart | apply keeps_fltPins | apply keeps_foldl | apply keeps_fstIte | extract_lets | (simp only [keeps_mk, keeps_parts]))

theorem keeps_react (s : State) (l : List NewRaise) (h : Keeps z s) : Keeps z (react s l) := by
  unfold react
  with_reducible repeat (first | assumption | intro _ | apply keeps_ite | apply keeps_wr | apply keeps_enterStill | apply keeps_fatal | apply keeps_foldl | apply keeps_fstIte | extract_lets | (simp only [keeps_mk, keeps_parts]) | split)

theorem keeps_tellFirmware (s : State) (r : NewRaise) (h : Keeps z s) : Keeps z (tellFirmware s r) := by
  unfold tellFirmware
  with_reducible repeat (first | assumption | intro _ | apply keeps_ite | apply keeps_wr | apply keeps_emit | apply keeps_foldl | apply keeps_fstIte)

theorem keeps_firstFault (s : State) (l : List NewRaise) (h : Keeps z s) : Keeps z (firstFault s l) := by
  unfold firstFault
  with_reducible repeat (first | assumption | intro _ | apply keeps_ite | apply keeps_wrBit | apply keeps_wrs | apply keeps_foldl | apply keeps_fstIte | extract_lets | (simp only [keeps_mk, keeps_parts]) | split)

theorem keeps_logRaise (multi : Bool) (s : State) (r : NewRaise) (h : Keeps z s) : Keeps z (logRaise multi s r) := by
  unfold logRaise
  with_reducible repeat (first | assumption | intro _ | apply keeps_ite | apply keeps_wrs | apply keeps_foldl | apply keeps_fstIte)

theorem keeps_setStat (s : State) (src : Nat) (b : Bool) (h : Keeps z s) : Keeps z (setStat s src b) := by
  unfold setStat
  with_reducible repeat (first | assumption | intro _ | apply keeps_ite | apply keeps_wrBit | apply keeps_foldl | apply keeps_fstIte)

theorem keeps_doNew (s : State) (r : NewRaise) (h : Keeps z s) : Keeps z (doNew s r) := by
  unfold doNew
  with_reducible repeat (first | assumption | intro _ | apply keeps_ite | apply keeps_setStat | apply keeps_setAck | apply keeps_wr | apply keeps_foldl | apply keeps_fstIte | extract_lets | (simp only [keeps_mk, keeps_parts]))

theorem keeps_doRepeat (s : State) (p : Nat × Nat) (h : Keeps z s) : Keeps z (doRepeat s p) := by
  unfold doRepeat
  with_reducible repeat (first | assumption | intro _ | apply keeps_ite | apply keeps_incSat | apply keeps_wr | apply keeps_foldl | apply keeps_fstIte)

theorem keeps_raiseFresh (s : State) (cleared : List Nat) (l : List (Nat × Nat)) (h : Keeps z s) : Keeps z (raiseFresh s cleared l) := by
  unfold raiseFresh
  with_reducible repeat (first | assumption | intro _ | apply keeps_ite | apply keeps_fltRaise | apply keeps_react | apply keeps_tellFirmware | apply keeps_firstFault | apply keeps_logRaise | apply keeps_doNew | apply keeps_doRepeat | apply keeps_orderReset | apply keeps_foldl | apply keeps_fstIte)

theorem keeps_raiseAll (s : State) (l : List (Nat × Nat)) (h : Keeps z s) : Keeps z (raiseAll s l) := by
  unfold raiseAll
  with_reducible repeat (first | assumption | intro _ | apply keeps_ite | apply keeps_raiseFresh | apply keeps_foldl | apply keeps_fstIte)

theorem keeps_raise (s : State) (src : Nat) (cause : Nat) (h : Keeps z s) : Keeps z (raise s src cause) := by
  unfold raise
  with_reducible repeat (first | assumption | intro _ | apply keeps_ite | apply keeps_raiseAll | apply keeps_foldl | apply keeps_fstIte)

theorem keeps_raiseOnce (s : State) (src : Nat) (cause : Nat) (h : Keeps z s) : Keeps z (raiseOnce s src cause) := by
  unfold raiseOnce
  with_reducible repeat (first | assumption | intro _ | apply keeps_ite | apply keeps_raise | apply keeps_foldl | apply keeps_fstIte | extract_lets | (simp only [keeps_mk, keeps_parts]))

end Sys2Proof.Machine
end

