-- ==== Sys2Proof/Laws/KeepsMapOps.lean ====
section
/-! SUPPORT. What the operations of Sys2Proof/Machine/MapOps.lean keep. -/

set_option linter.unusedSimpArgs false

namespace Sys2Proof.Machine

variable {z : State}

theorem keeps_setCellWord (s : State) (cell : Nat) (half : Nat) (mask : Nat) (v : Nat) (h : Keeps z s) : Keeps z (setCellWord s cell half mask v) := by
  unfold setCellWord
  with_reducible repeat (first | assumption | intro _ | apply keeps_ite | apply keeps_setCell | apply keeps_foldl | apply keeps_fstIte)

theorem keeps_loadWord (s : State) (a : Nat) (v : Nat) (h : Keeps z s) : Keeps z (loadWord s a v).1 := by
  unfold loadWord
  with_reducible repeat (first | assumption | intro _ | apply keeps_fstIte | apply keeps_ite | apply keeps_setCellWord | apply keeps_wrW | apply keeps_memPutWord | apply keeps_foldl | apply keeps_fstIte | extract_lets | (simp only [keeps_mk, keeps_parts]) | split)

theorem keeps_loadLayout (s : State) (bank : Nat) (l : List (Nat × Nat)) (h : Keeps z s) : Keeps z (loadLayout s bank l) := by
  unfold loadLayout
  with_reducible repeat (first | assumption | intro _ | apply keeps_ite | apply keeps_memPutWord | apply keeps_foldl | apply keeps_fstIte)

theorem keeps_loadTable (s : State) (l : List (Nat × Nat)) (h : Keeps z s) : Keeps z (loadTable s l).1 := by
  unfold loadTable
  refine keeps_foldl_fst l _ h fun u k hu => ?_
  dsimp only
  split
  · exact hu
  · exact keeps_loadWord _ _ _ hu

end Sys2Proof.Machine
end

