-- ==== Sys2Proof/Laws/KeepsBellOps.lean ====
section
/-! SUPPORT. What the operations of Sys2Proof/Machine/BellOps.lean keep. -/

set_option linter.unusedSimpArgs false

namespace Sys2Proof.Machine

variable {z : State}

theorem keeps_setLate (s : State) (n : Nat) (b : Bool) (h : Keeps z s) : Keeps z (setLate s n b) := by
  unfold setLate
  with_reducible repeat (first | assumption | intro _ | apply keeps_ite | apply keeps_foldl | apply keeps_fstIte | extract_lets | (simp only [keeps_mk, keeps_parts]))

theorem keeps_trgFire (s : State) (n : Nat) (h : Keeps z s) : Keeps z (trgFire s n) := by
  unfold trgFire
  with_reducible repeat (first | assumption | intro _ | apply keeps_ite | apply keeps_advance | apply keeps_setLate | apply keeps_wr | apply keeps_targetAct | apply keeps_wrs | apply keeps_foldl | apply keeps_fstIte | extract_lets | (simp only [keeps_mk, keeps_parts]))

theorem keeps_trgDue (s : State) (n : Nat) (h : Keeps z s) : Keeps z (trgDue s n) := by
  unfold trgDue
  with_reducible repeat (first | assumption | intro _ | apply keeps_ite | apply keeps_trgFire | apply keeps_foldl | apply keeps_fstIte)

theorem keeps_trgArm (s : State) (n : Nat) (t : Nat) (h : Keeps z s) : Keeps z (trgArm s n t) := by
  unfold trgArm
  with_reducible repeat (first | assumption | intro _ | apply keeps_ite | apply keeps_trgFire | apply keeps_wrs | apply keeps_setLate | apply keeps_advance | apply keeps_trgDue | apply keeps_foldl | apply keeps_fstIte)

theorem keeps_setCaps (s : State) (n : Nat) (l : List Stamp) (h : Keeps z s) : Keeps z (setCaps s n l) := by
  unfold setCaps
  with_reducible repeat (first | assumption | intro _ | apply keeps_ite | apply keeps_foldl | apply keeps_fstIte | extract_lets | (simp only [keeps_mk, keeps_parts]))

theorem keeps_capPop (s : State) (n : Nat) (h : Keeps z s) : Keeps z (capPop s n) := by
  unfold capPop
  with_reducible repeat (first | assumption | intro _ | apply keeps_ite | apply keeps_wrs | apply keeps_setCaps | apply keeps_foldl | apply keeps_fstIte | extract_lets | (simp only [keeps_mk, keeps_parts]) | split)

theorem keeps_unlock (s : State) (h : Keeps z s) : Keeps z (unlock s) := by
  unfold unlock
  with_reducible repeat (first | assumption | intro _ | apply keeps_ite | apply keeps_wr | apply keeps_raise | apply keeps_foldl | apply keeps_fstIte)

theorem keeps_setInteg (s : State) (num : Int) (den : Nat) (h : Keeps z s) : Keeps z (setInteg s num den) := by
  unfold setInteg
  with_reducible repeat (first | assumption | intro _ | apply keeps_ite | apply keeps_foldl | apply keeps_fstIte | extract_lets | (simp only [keeps_mk, keeps_parts]))

theorem keeps_toAcquire (s : State) (h : Keeps z s) : Keeps z (toAcquire s) := by
  unfold toAcquire
  with_reducible repeat (first | assumption | intro _ | apply keeps_ite | apply keeps_wr | apply keeps_setInteg | apply keeps_foldl | apply keeps_fstIte | extract_lets | (simp only [keeps_mk, keeps_parts]))

theorem keeps_setFreq (s : State) (f : Int) (h : Keeps z s) : Keeps z (setFreq s f) := by
  unfold setFreq
  with_reducible repeat (first | assumption | intro _ | apply keeps_ite | apply keeps_wrI | apply keeps_wr | apply keeps_foldl | apply keeps_fstIte)

theorem keeps_trgArmBy (s : State) (owner : Nat) (n : Nat) (t : Nat) (h : Keeps z s) : Keeps z (trgArmBy s owner n t) := by
  unfold trgArmBy
  with_reducible repeat (first | assumption | intro _ | apply keeps_ite | apply keeps_trgArm | apply keeps_foldl | apply keeps_fstIte)

theorem keeps_setQ (s : State) (lock : Bool) (hold : Bool) (h : Keeps z s) : Keeps z (setQ s lock hold) := by
  unfold setQ
  with_reducible repeat (first | assumption | intro _ | apply keeps_ite | apply keeps_wrs | apply keeps_foldl | apply keeps_fstIte)

theorem keeps_capPush (s : State) (n : Nat) (e : Stamp) (h : Keeps z s) : Keeps z (capPush s n e) := by
  unfold capPush
  with_reducible repeat (first | assumption | intro _ | apply keeps_ite | apply keeps_wrs | apply keeps_setCaps | apply keeps_foldl | apply keeps_fstIte | extract_lets | (simp only [keeps_mk, keeps_parts]))

theorem keeps_bellSettle (s : State) (h : Keeps z s) : Keeps z (bellSettle s) := by
  unfold bellSettle
  with_reducible repeat (first | assumption | intro _ | apply keeps_ite | apply keeps_wrBit | apply keeps_foldl | apply keeps_fstIte | extract_lets | (simp only [keeps_mk, keeps_parts]))

theorem keeps_bellRestart (s : State) (h : Keeps z s) : Keeps z (bellRestart s) := by
  unfold bellRestart
  with_reducible repeat (first | assumption | intro _ | apply keeps_ite | apply keeps_setQ | apply keeps_bellSettle | apply keeps_toAcquire | apply keeps_wr | apply keeps_each | apply keeps_foldl | apply keeps_fstIte | extract_lets | (simp only [keeps_mk, keeps_parts]))

theorem keeps_trgJudge (s : State) (n : Nat) (h : Keeps z s) : Keeps z (trgJudge s n) := by
  unfold trgJudge
  with_reducible repeat (first | assumption | intro _ | apply keeps_ite | apply keeps_trgFire | apply keeps_setLate | apply keeps_foldl | apply keeps_fstIte)

theorem keeps_bellStep (s : State) (u : Int) (h : Keeps z s) : Keeps z (bellStep s u) := by
  unfold bellStep
  with_reducible repeat (first | assumption | intro _ | apply keeps_ite | apply keeps_queueJudge | apply keeps_trgJudge | apply keeps_each | apply keeps_wr | apply keeps_stepFt | apply keeps_foldl | apply keeps_fstIte | extract_lets | (simp only [keeps_mk, keeps_parts]) | split)

theorem keeps_servo (s : State) (x : Int) (tNs : Nat) (h : Keeps z s) : Keeps z (servo s x tNs) := by
  unfold servo
  with_reducible repeat (first | assumption | intro _ | apply keeps_ite | apply keeps_setFreq | apply keeps_setInteg | apply keeps_foldl | apply keeps_fstIte)

theorem keeps_capEdge (s : State) (src : Nat) (e : Stamp) (h : Keeps z s) : Keeps z (capEdge s src e) := by
  unfold capEdge
  with_reducible repeat (first | assumption | intro _ | apply keeps_ite | apply keeps_capPush | apply keeps_each | apply keeps_foldl | apply keeps_fstIte)

theorem keeps_originSettle (s : State) (h : Keeps z s) : Keeps z (originSettle s) := by
  unfold originSettle
  with_reducible repeat (first | assumption | intro _ | apply keeps_ite | apply keeps_toAcquire | apply keeps_wr | apply keeps_setQ | apply keeps_bellSettle | apply keeps_foldl | apply keeps_fstIte)

theorem keeps_servoHold (s : State) (h : Keeps z s) : Keeps z (servoHold s) := by
  unfold servoHold
  with_reducible repeat (first | assumption | intro _ | apply keeps_ite | apply keeps_setFreq | apply keeps_foldl | apply keeps_fstIte)

end Sys2Proof.Machine
end

