-- ==== Sys2Proof/Laws/KeepsLdgOps.lean ====
section
/-! SUPPORT. What the operations of Sys2Proof/Machine/LdgOps.lean keep. -/

set_option linter.unusedSimpArgs false

namespace Sys2Proof.Machine

variable {z : State}

theorem keeps_raiseStale (s : State) (e : Nat) (h : Keeps z s) : Keeps z (raiseStale s e) := by
  unfold raiseStale
  with_reducible repeat (first | assumption | intro _ | apply keeps_ite | apply keeps_raise | apply keeps_wrs | apply keeps_foldl | apply keeps_fstIte)

theorem keeps_setStWord (s : State) (e : Nat) (v : Nat) (h : Keeps z s) : Keeps z (setStWord s e v) := by
  unfold setStWord
  with_reducible repeat (first | assumption | intro _ | apply keeps_ite | apply keeps_memPutWord | apply keeps_foldl | apply keeps_fstIte)

theorem keeps_updateEntry (s : State) (e : Nat) (w : Nat) (h : Keeps z s) : Keeps z (updateEntry s e w) := by
  unfold updateEntry
  with_reducible repeat (first | assumption | intro _ | apply keeps_ite | apply keeps_raiseStale | apply keeps_setStWord | apply keeps_foldl | apply keeps_fstIte)

theorem keeps_ageFirst (s : State) (e : Nat) (h : Keeps z s) : Keeps z (ageFirst s e) := by
  unfold ageFirst
  with_reducible repeat (first | assumption | intro _ | apply keeps_ite | apply keeps_updateEntry | apply keeps_foldl | apply keeps_fstIte)

theorem keeps_countCrc (s : State) (t : Nat) (h : Keeps z s) : Keeps z (countCrc s t) := by
  unfold countCrc
  with_reducible repeat (first | assumption | intro _ | apply keeps_ite | apply keeps_wr | apply keeps_raise | apply keeps_incSat | apply keeps_foldl | apply keeps_fstIte | extract_lets | (simp only [keeps_mk, keeps_parts]))

theorem keeps_writePayload (s : State) (sl : Nat) (e : Nat) (fmt : Nat) (bs : List Byte) (h : Keeps z s) : Keeps z (writePayload s sl e fmt bs) := by
  unfold writePayload
  with_reducible repeat (first | assumption | intro _ | apply keeps_ite | apply keeps_memPuts | apply keeps_foldl | apply keeps_fstIte)

theorem keeps_swapCopy (s : State) (t : Nat) (t' : Nat) (e : Nat) (c : List Byte) (h : Keeps z s) : Keeps z (swapCopy s t t' e c) := by
  unfold swapCopy
  with_reducible repeat (first | assumption | intro _ | apply keeps_ite | apply keeps_wr | apply keeps_incWrap | apply keeps_updateEntry | apply keeps_writePayload | apply keeps_foldl | apply keeps_fstIte | extract_lets | (simp only [keeps_mk, keeps_parts]))

theorem keeps_commitCopy (s : State) (t : Nat) (e : Nat) (c : List Byte) (h : Keeps z s) : Keeps z (commitCopy s t e c) := by
  unfold commitCopy
  with_reducible repeat (first | assumption | intro _ | apply keeps_ite | apply keeps_incWrap | apply keeps_writePayload | apply keeps_updateEntry | apply keeps_swapCopy | apply keeps_incSat | apply keeps_wr | apply keeps_ageFirst | apply keeps_foldl | apply keeps_fstIte | extract_lets | (simp only [keeps_mk, keeps_parts]) | split)

theorem keeps_takeCopy (s : State) (t : Nat) (bank : Nat) (c : List Byte) (h : Keeps z s) : Keeps z (takeCopy s t bank c) := by
  unfold takeCopy
  with_reducible repeat (first | assumption | intro _ | apply keeps_ite | apply keeps_countCrc | apply keeps_commitCopy | apply keeps_foldl | apply keeps_fstIte | extract_lets | (simp only [keeps_mk, keeps_parts]) | split)

theorem keeps_pubSwitch (s : State) (i : Nat) (h : Keeps z s) : Keeps z (pubSwitch s i) := by
  unfold pubSwitch
  with_reducible repeat (first | assumption | intro _ | apply keeps_ite | apply keeps_memPuts | apply keeps_memPut | apply keeps_memPutWord | apply keeps_foldl | apply keeps_fstIte)

theorem keeps_pubSwitchAll (s : State) (h : Keeps z s) : Keeps z (pubSwitchAll s) := by
  unfold pubSwitchAll
  with_reducible repeat (first | assumption | intro _ | apply keeps_ite | apply keeps_pubSwitch | apply keeps_each | apply keeps_foldl | apply keeps_fstIte)

theorem keeps_ageAll (s : State) (h : Keeps z s) : Keeps z (ageAll s) := by
  simp only [ageAll]
  with_reducible repeat (first | assumption | intro _ | apply keeps_ite | apply keeps_raiseStale | apply keeps_setStWord | apply keeps_each | apply keeps_foldl | apply keeps_fstIte | (simp only [keeps_mk, keeps_parts]) | split)

theorem keeps_aliasWrite (s : State) (w : AliasWriter) (i : Nat) (off : Nat) (bs : List Byte) (h : Keeps z s) : Keeps z (aliasWrite s w i off bs) := by
  unfold aliasWrite
  with_reducible repeat (first | assumption | intro _ | apply keeps_ite | apply keeps_incSat | apply keeps_wr | apply keeps_memPuts | apply keeps_foldl | apply keeps_fstIte)

end Sys2Proof.Machine
end

