-- ==== Sys2Proof/Laws/KeepsTrnOps.lean ====
section
/-! SUPPORT. What the operations of Sys2Proof/Machine/TrnOps.lean keep. -/

set_option linter.unusedSimpArgs false

namespace Sys2Proof.Machine

variable {z : State}

theorem keeps_setRing (s : State) (r : Nat) (x : Ring) (h : Keeps z s) : Keeps z (State.setRing s r x) := by
  unfold State.setRing
  with_reducible repeat (first | assumption | intro _ | apply keeps_ite | apply keeps_foldl | apply keeps_fstIte | extract_lets | (simp only [keeps_mk, keeps_parts]))

theorem keeps_trainSends (s : State) (p : Nat) (tenths : Nat) (h : Keeps z s) : Keeps z (trainSends s p tenths) := by
  unfold trainSends
  with_reducible repeat (first | assumption | intro _ | apply keeps_ite | apply keeps_setPort | apply keeps_foldl | apply keeps_fstIte)

theorem keeps_sendTrain (s : State) (t : Nat) (l : List (List Byte)) (h : Keeps z s) : Keeps z (sendTrain s t l) := by
  unfold sendTrain
  with_reducible repeat (first | assumption | intro _ | apply keeps_ite | apply keeps_trainSends | apply keeps_emit | apply keeps_foldl | apply keeps_fstIte)

theorem keeps_launchRing (s : State) (r : Nat) (h : Keeps z s) : Keeps z (launchRing s r) := by
  unfold launchRing
  with_reducible repeat (first | assumption | intro _ | apply keeps_ite | apply keeps_setRing | apply keeps_sendTrain | apply keeps_each | apply keeps_foldl | apply keeps_fstIte)

theorem keeps_mergeCopy (s : State) (c : List Byte) (h : Keeps z s) : Keeps z (mergeCopy s c) := by
  simp only [mergeCopy]
  with_reducible repeat (first | assumption | intro _ | apply keeps_ite | apply keeps_foldl | apply keeps_fstIte | (simp only [keeps_mk, keeps_parts]) | split)

theorem keeps_setLaunch (s : State) (r : Nat) (b : Bool) (h : Keeps z s) : Keeps z (setLaunch s r b) := by
  unfold setLaunch
  with_reducible repeat (first | assumption | intro _ | apply keeps_ite | apply keeps_wrB | apply keeps_foldl | apply keeps_fstIte)

theorem keeps_startRing (s : State) (r : Nat) (lap : Int) (h : Keeps z s) : Keeps z (startRing s r lap) := by
  unfold startRing
  with_reducible repeat (first | assumption | intro _ | apply keeps_ite | apply keeps_wr | apply keeps_originSettle | apply keeps_setLaunch | apply keeps_setRing | apply keeps_foldl | apply keeps_fstIte)

theorem keeps_takeRing (s : State) (r : Nat) (h : Keeps z s) : Keeps z (takeRing s r) := by
  unfold takeRing
  with_reducible repeat (first | assumption | intro _ | apply keeps_ite | apply keeps_startRing | apply keeps_wr | apply keeps_foldl | apply keeps_fstIte)

theorem keeps_setHeadless (s : State) (r : Nat) (b : Bool) (h : Keeps z s) : Keeps z (setHeadless s r b) := by
  unfold setHeadless
  with_reducible repeat (first | assumption | intro _ | apply keeps_ite | apply keeps_wr | apply keeps_foldl | apply keeps_fstIte)

theorem keeps_judgeRing (s : State) (r : Nat) (h : Keeps z s) : Keeps z (judgeRing s r) := by
  unfold judgeRing
  with_reducible repeat (first | assumption | intro _ | apply keeps_ite | apply keeps_takeRing | apply keeps_raise | apply keeps_setHeadless | apply keeps_wr | apply keeps_foldl | apply keeps_fstIte)

theorem keeps_portLap (s : State) (p : Nat) (h : Keeps z s) : Keeps z (portLap s p) := by
  unfold portLap
  with_reducible repeat (first | assumption | intro _ | apply keeps_ite | apply keeps_wrs | apply keeps_wrBit | apply keeps_setPort | apply keeps_foldl | apply keeps_fstIte | extract_lets | (simp only [keeps_mk, keeps_parts]) | split)

theorem keeps_setTrain (s : State) (t : Nat) (x : Train) (h : Keeps z s) : Keeps z (State.setTrain s t x) := by
  unfold State.setTrain
  with_reducible repeat (first | assumption | intro _ | apply keeps_ite | apply keeps_foldl | apply keeps_fstIte | extract_lets | (simp only [keeps_mk, keeps_parts]))

theorem keeps_slip (s : State) (p : Nat) (t : Nat) (h : Keeps z s) : Keeps z (slip s p t) := by
  unfold slip
  with_reducible repeat (first | assumption | intro _ | apply keeps_ite | apply keeps_raise | apply keeps_setPort | apply keeps_orF | apply keeps_incSat | apply keeps_foldl | apply keeps_fstIte)

theorem keeps_standDown (s : State) (r : Nat) (h : Keeps z s) : Keeps z (standDown s r) := by
  unfold standDown
  with_reducible repeat (first | assumption | intro _ | apply keeps_ite | apply keeps_setLaunch | apply keeps_setRing | apply keeps_wr | apply keeps_originSettle | apply keeps_foldl | apply keeps_fstIte)

theorem keeps_applyYield (s : State) (r : Nat) (h : Keeps z s) : Keeps z (applyYield s r) := by
  unfold applyYield
  with_reducible repeat (first | assumption | intro _ | apply keeps_ite | apply keeps_standDown | apply keeps_wr | apply keeps_foldl | apply keeps_fstIte)

theorem keeps_observe (s : State) (p : Nat) (ver : Nat) (a : Nat) (b : Nat) (h : Keeps z s) : Keeps z (observe s p ver a b) := by
  unfold observe
  with_reducible repeat (first | assumption | intro _ | apply keeps_ite | apply keeps_setPort | apply keeps_foldl | apply keeps_fstIte)

theorem keeps_lapSync (s : State) (h : Keeps z s) : Keeps z (lapSync s) := by
  unfold lapSync
  with_reducible repeat (first | assumption | intro _ | apply keeps_ite | apply keeps_portLap | apply keeps_each | apply keeps_foldl | apply keeps_fstIte | extract_lets | (simp only [keeps_mk, keeps_parts]))

theorem keeps_ringStart (s : State) (p : Nat) (n : Nat) (h : Keeps z s) : Keeps z (ringStart s p n) := by
  unfold ringStart
  with_reducible repeat (first | assumption | intro _ | apply keeps_ite | apply keeps_setPort | apply keeps_foldl | apply keeps_fstIte)

theorem keeps_useWindows (s : State) (h : Keeps z s) : Keeps z (useWindows s) := by
  unfold useWindows
  with_reducible repeat (first | assumption | intro _ | apply keeps_ite | apply keeps_wrs | apply keeps_foldl | apply keeps_fstIte | extract_lets | (simp only [keeps_mk, keeps_parts]) | split)

end Sys2Proof.Machine
end

