-- ==== Sys2Proof/Laws/KeepsPresence.lean ====
section
/-! SUPPORT. What the operations of Sys2Proof/Machine/Presence.lean keep. -/

set_option linter.unusedSimpArgs false

namespace Sys2Proof.Machine

variable {z : State}

theorem keeps_degradedReturn (s : State) (h : Keeps z s) : Keeps z (degradedReturn s) := by
  unfold degradedReturn
  with_reducible repeat (first | assumption | intro _ | apply keeps_ite | apply keeps_wr | apply keeps_foldl | apply keeps_fstIte)

theorem keeps_portReason (s : State) (h : Keeps z s) : Keeps z (portReason s) := by
  unfold portReason
  with_reducible repeat (first | assumption | intro _ | apply keeps_ite | apply keeps_wr | apply keeps_wrBit | apply keeps_foldl | apply keeps_fstIte)

end Sys2Proof.Machine
end

