-- ==== Sys2Proof/Laws/KeepsXbOps.lean ====
section
/-! SUPPORT. What the operations of Sys2Proof/Machine/XbOps.lean keep. -/

set_option linter.unusedSimpArgs false

namespace Sys2Proof.Machine

variable {z : State}

theorem keeps_headerError (s : State) (h : Keeps z s) : Keeps z (headerError s) := by
  unfold headerError
  with_reducible repeat (first | assumption | intro _ | apply keeps_ite | apply keeps_incSat | apply keeps_wr | apply keeps_foldl | apply keeps_fstIte)

theorem keeps_setSched (s : State) (w : Nat) (x : Sched) (h : Keeps z s) : Keeps z (setSched s w x) := by
  unfold setSched
  with_reducible repeat (first | assumption | intro _ | apply keeps_ite | apply keeps_foldl | apply keeps_fstIte | extract_lets | (simp only [keeps_mk, keeps_parts]))

theorem keeps_setDeficit (s : State) (q : Nat) (v : Nat) (h : Keeps z s) : Keeps z (setDeficit s q v) := by
  unfold setDeficit
  with_reducible repeat (first | assumption | intro _ | apply keeps_ite | apply keeps_foldl | apply keeps_fstIte | extract_lets | (simp only [keeps_mk, keeps_parts]))

theorem keeps_dwrr (w n : Nat) (s : State) (h : Keeps z s) : Keeps z (dwrr w n s).2 := by
  induction n generalizing s with
  | zero => exact h
  | succ n ih =>
    unfold dwrr
    dsimp only
    split
    · exact ih _ (keeps_setSched _ _ _ (keeps_foldl _ _ h fun u k hu => keeps_ite (keeps_setDeficit _ _ _ hu) hu))
    · generalize hs : (if (schedOf s w).added = true then s else _) = s1
      have h1 : Keeps z s1 := by
        rw [← hs]; exact keeps_ite h (keeps_foldl _ _ h fun u k hu => keeps_setDeficit _ _ _ hu)
      split
      · exact keeps_setSched _ _ _ (keeps_setDeficit _ _ _ h1)
      · exact ih _ (keeps_setSched _ _ _ h1)

theorem keeps_dwrrHold (s : State) (w : Nat) (h : Keeps z s) : Keeps z (dwrrHold s w).2 := by
  unfold dwrrHold
  have hd := keeps_dwrr w 12300 s h
  generalize dwrr w 12300 s = r at hd
  dsimp only
  split
  · exact hd
  · exact keeps_ite (keeps_setSched _ _ _ hd) hd

theorem keeps_choose (s : State) (w : Nat) (h : Keeps z s) : Keeps z (choose s w).2 := by
  unfold choose
  split
  · exact h
  · split
    · exact h
    · split
      · exact keeps_setSched _ _ _ (keeps_setDeficit _ _ _ h)
      · split
        · exact keeps_dwrrHold _ _ h
        · exact h

theorem keeps_routeOne (s : State) (d : Nat) (h : Keeps z s) : Keeps z (routeOne s d) := by
  unfold routeOne
  with_reducible repeat (first | assumption | intro _ | apply keeps_ite | apply keeps_wr | apply keeps_foldl | apply keeps_fstIte | extract_lets | (simp only [keeps_mk, keeps_parts]) | split)

theorem keeps_routeAll (s : State) (h : Keeps z s) : Keeps z (routeAll s) := by
  unfold routeAll
  with_reducible repeat (first | assumption | intro _ | apply keeps_ite | apply keeps_routeOne | apply keeps_each | apply keeps_wr | apply keeps_foldl | apply keeps_fstIte)

theorem keeps_setLink (s : State) (n : Nat) (x : Link) (h : Keeps z s) : Keeps z (State.setLink s n x) := by
  unfold State.setLink
  with_reducible repeat (first | assumption | intro _ | apply keeps_ite | apply keeps_foldl | apply keeps_fstIte | extract_lets | (simp only [keeps_mk, keeps_parts]))

theorem keeps_ringLeave (s : State) (p : Nat) (o : RingOut) (h : Keeps z s) : Keeps z (ringLeave s p o) := by
  unfold ringLeave
  with_reducible repeat (first | assumption | intro _ | apply keeps_ite | apply keeps_setPort | apply keeps_emit | apply keeps_ringStart | apply keeps_foldl | apply keeps_fstIte | extract_lets | (simp only [keeps_mk, keeps_parts]) | split)

theorem keeps_ringSend (s : State) (p : Nat) (o : RingOut) (h : Keeps z s) : Keeps z (ringSend s p o) := by
  unfold ringSend
  with_reducible repeat (first | assumption | intro _ | apply keeps_ite | apply keeps_setPort | apply keeps_ringLeave | apply keeps_foldl | apply keeps_fstIte)

theorem keeps_pauseSend (s : State) (sp : Nat) (h : Keeps z s) : Keeps z (pauseSend s sp) := by
  unfold pauseSend
  with_reducible repeat (first | assumption | intro _ | apply keeps_ite | apply keeps_emit | apply keeps_foldl | apply keeps_fstIte | extract_lets | (simp only [keeps_mk, keeps_parts]))

theorem keeps_pauseCheck (s : State) (sp : Nat) (h : Keeps z s) : Keeps z (pauseCheck s sp) := by
  unfold pauseCheck
  with_reducible repeat (first | assumption | intro _ | apply keeps_ite | apply keeps_emit | apply keeps_wr | apply keeps_pauseSend | apply keeps_foldl | apply keeps_fstIte)

theorem keeps_noRoute (s : State) (h : Keeps z s) : Keeps z (noRoute s) := by
  unfold noRoute
  with_reducible repeat (first | assumption | intro _ | apply keeps_ite | apply keeps_incSat | apply keeps_wr | apply keeps_foldl | apply keeps_fstIte)

theorem keeps_setVoq (s : State) (k : Nat) (l : List XFrame) (h : Keeps z s) : Keeps z (setVoq s k l) := by
  unfold setVoq
  with_reducible repeat (first | assumption | intro _ | apply keeps_ite | apply keeps_foldl | apply keeps_fstIte | extract_lets | (simp only [keeps_mk, keeps_parts]))

theorem keeps_shaperTake (s : State) (q : Nat) (n : Nat) (h : Keeps z s) : Keeps z (shaperTake s q n) := by
  unfold shaperTake
  with_reducible repeat (first | assumption | intro _ | apply keeps_ite | apply keeps_foldl | apply keeps_fstIte | extract_lets | (simp only [keeps_mk, keeps_parts]))

theorem keeps_tapWrite (s : State) (d : List Byte) (f : List Byte) (h : Keeps z s) : Keeps z (tapWrite s d f) := by
  unfold tapWrite
  with_reducible repeat (first | assumption | intro _ | apply keeps_ite | apply keeps_wr | apply keeps_memPuts | apply keeps_incSat | apply keeps_foldl | apply keeps_fstIte | extract_lets | (simp only [keeps_mk, keeps_parts]))

theorem keeps_tapSample (s : State) (p : Nat) (dir : Nat) (h : Keeps z s) : Keeps z (tapSample s p dir).2 := by
  simp only [tapSample]
  with_reducible repeat (first | assumption | intro _ | apply keeps_ite | apply keeps_foldl | apply keeps_fstIte | (simp only [keeps_mk, keeps_parts]) | split)

theorem keeps_tapSee (s : State) (p : Nat) (dir : Nat) (rx : Nat) (f : List Byte) (x : Fate) (h : Keeps z s) : Keeps z (tapSee s p dir rx f x) := by
  unfold tapSee
  with_reducible repeat (first | assumption | intro _ | apply keeps_ite | apply keeps_incSat | apply keeps_tapWrite | apply keeps_tapSample | apply keeps_foldl | apply keeps_fstIte | extract_lets | (simp only [keeps_mk, keeps_parts]))

theorem keeps_deliver (s : State) (p : Nat) (f : List Byte) (h : Keeps z s) : Keeps z (deliver s p f) := by
  unfold deliver
  with_reducible repeat (first | assumption | intro _ | apply keeps_ite | apply keeps_wr | apply keeps_emit | apply keeps_foldl | apply keeps_fstIte | extract_lets | (simp only [keeps_mk, keeps_parts]))

theorem keeps_ptpCount (s : State) (f : List Byte) (h : Keeps z s) : Keeps z (ptpCount s f) := by
  unfold ptpCount
  with_reducible repeat (first | assumption | intro _ | apply keeps_ite | apply keeps_incSat | apply keeps_foldl | apply keeps_fstIte)

theorem keeps_spurSend (s : State) (sp : Nat) (f : List Byte) (stomp : Bool) (h : Keeps z s) : Keeps z (spurSend s sp f stomp) := by
  unfold spurSend
  with_reducible repeat (first | assumption | intro _ | apply keeps_ite | apply keeps_emit | apply keeps_incWrap | apply keeps_ptpCount | apply keeps_foldl | apply keeps_fstIte)

theorem keeps_leave (s : State) (p : Nat) (f : XFrame) (stomp : Bool) (h : Keeps z s) : Keeps z (leave s p f stomp) := by
  unfold leave
  with_reducible repeat (first | assumption | intro _ | apply keeps_ite | apply keeps_tapSee | apply keeps_deliver | apply keeps_spurSend | apply keeps_emit | apply keeps_foldl | apply keeps_fstIte)

theorem keeps_startSending (s : State) (p : Nat) (n : Nat) (h : Keeps z s) : Keeps z (startSending s p n) := by
  unfold startSending
  with_reducible repeat (first | assumption | intro _ | apply keeps_ite | apply keeps_ringStart | apply keeps_foldl | apply keeps_fstIte | extract_lets | (simp only [keeps_mk, keeps_parts]))

theorem keeps_sendFrame (s : State) (w : Nat) (q : Nat) (f : XFrame) (stomp : Bool) (cut : Bool) (h : Keeps z s) : Keeps z (sendFrame s w q f stomp cut) := by
  unfold sendFrame
  with_reducible repeat (first | assumption | intro _ | apply keeps_ite | apply keeps_shaperTake | apply keeps_leave | apply keeps_startSending | apply keeps_foldl | apply keeps_fstIte | extract_lets | (simp only [keeps_mk, keeps_parts]))

theorem keeps_countDrop (s : State) (h : Keeps z s) : Keeps z (countDrop s) := by
  unfold countDrop
  with_reducible repeat (first | assumption | intro _ | apply keeps_ite | apply keeps_wr | apply keeps_foldl | apply keeps_fstIte | extract_lets | (simp only [keeps_mk, keeps_parts]))

theorem keeps_enqueue (s : State) (f : XFrame) (p : Nat) (bad : Bool) (h : Keeps z s) : Keeps z (enqueue s f p bad).2 := by
  unfold enqueue
  with_reducible repeat (first | assumption | intro _ | apply keeps_ite | apply keeps_pauseCheck | apply keeps_setVoq | apply keeps_sendFrame | apply keeps_incSat | apply keeps_countDrop | apply keeps_foldl | apply keeps_fstIte | extract_lets | (simp only [keeps_mk, keeps_parts]) | split)

theorem keeps_enqueueCopies (s : State) (f : XFrame) (ps : List Nat) (bad : Bool) (h : Keeps z s) : Keeps z (enqueueCopies s f ps bad).2 := by
  unfold enqueueCopies
  have hr : Keeps z (ps.foldl (fun (x : List Took × State) p => ((enqueue x.2 f p bad).1 :: x.1, (enqueue x.2 f p bad).2)) ([], s)).2 :=
    keeps_foldl_snd ps _ h fun u k hu => keeps_enqueue _ _ _ _ hu
  exact keeps_ite (keeps_wr _ _ _ (keeps_incSat _ _ hr)) hr

theorem keeps_setOverflow (s : State) (r : Nat) (b : Bool) (h : Keeps z s) : Keeps z (setOverflow s r b) := by
  unfold setOverflow
  with_reducible repeat (first | assumption | intro _ | apply keeps_ite | apply keeps_wrB | apply keeps_foldl | apply keeps_fstIte)

theorem keeps_linkAdd (s : State) (r : Nat) (l : Nat) (own : Bool) (h : Keeps z s) : Keeps z (linkAdd s r l own) := by
  unfold linkAdd
  with_reducible repeat (first | assumption | intro _ | apply keeps_ite | apply keeps_wrs | apply keeps_setOverflow | apply keeps_setLink | apply keeps_foldl | apply keeps_fstIte | extract_lets | (simp only [keeps_mk, keeps_parts]) | split)

theorem keeps_ownAgain (s : State) (r : Nat) (h : Keeps z s) : Keeps z (ownAgain s r) := by
  unfold ownAgain
  with_reducible repeat (first | assumption | intro _ | apply keeps_ite | apply keeps_linkAdd | apply keeps_each | apply keeps_foldl | apply keeps_fstIte | extract_lets | (simp only [keeps_mk, keeps_parts]) | split)

theorem keeps_linkDrop (s : State) (n : Nat) (h : Keeps z s) : Keeps z (linkDrop s n) := by
  unfold linkDrop
  with_reducible repeat (first | assumption | intro _ | apply keeps_ite | apply keeps_wrs | apply keeps_setOverflow | apply keeps_ownAgain | apply keeps_setLink | apply keeps_foldl | apply keeps_fstIte)

theorem keeps_setEq (s : State) (q : Nat) (l : List XFrame) (h : Keeps z s) : Keeps z (setEq s q l) := by
  unfold setEq
  with_reducible repeat (first | assumption | intro _ | apply keeps_ite | apply keeps_foldl | apply keeps_fstIte | extract_lets | (simp only [keeps_mk, keeps_parts]))

theorem keeps_moveCell (s : State) (i : Nat) (o : Nat) (c : Nat) (h : Keeps z s) : Keeps z (moveCell s i o c) := by
  unfold moveCell
  with_reducible repeat (first | assumption | intro _ | apply keeps_ite | apply keeps_setVoq | apply keeps_setEq | apply keeps_foldl | apply keeps_fstIte | extract_lets | (simp only [keeps_mk, keeps_parts]) | split)

theorem keeps_cellTime (s : State) (h : Keeps z s) : Keeps z (cellTime s) := by
  unfold cellTime
  with_reducible repeat (first | assumption | intro _ | apply keeps_ite | apply keeps_moveCell | apply keeps_foldl | apply keeps_fstIte | extract_lets | (simp only [keeps_mk, keeps_parts]))

theorem keeps_policerTake (s : State) (p : Nat) (tc : Nat) (n : Nat) (h : Keeps z s) : Keeps z (policerTake s p tc n).2 := by
  simp only [policerTake]
  with_reducible repeat (first | assumption | intro _ | apply keeps_ite | apply keeps_incSat | apply keeps_countDrop | apply keeps_foldl | apply keeps_fstIte | (simp only [keeps_mk, keeps_parts]) | split)

theorem keeps_noticeTake (s : State) (x : List Byte) (h : Keeps z s) : Keeps z (noticeTake s x) := by
  unfold noticeTake
  with_reducible repeat (first | assumption | intro _ | apply keeps_ite | apply keeps_linkDrop | apply keeps_routeAll | apply keeps_linkAdd | apply keeps_foldl | apply keeps_fstIte | extract_lets | (simp only [keeps_mk, keeps_parts]) | split)

theorem keeps_noticeSee (s : State) (f : List Byte) (bad : Bool) (h : Keeps z s) : Keeps z (noticeSee s f bad) := by
  unfold noticeSee
  with_reducible repeat (first | assumption | intro _ | apply keeps_ite | apply keeps_noticeTake | apply keeps_foldl | apply keeps_fstIte)

theorem keeps_mirrorSend (s : State) (w : Nat) (h : Keeps z s) : Keeps z (mirrorSend s w) := by
  unfold mirrorSend
  with_reducible repeat (first | assumption | intro _ | apply keeps_ite | apply keeps_emit | apply keeps_startSending | apply keeps_foldl | apply keeps_fstIte | extract_lets | (simp only [keeps_mk, keeps_parts]) | split)

theorem keeps_egressStart (s : State) (w : Nat) (h : Keeps z s) : Keeps z (egressStart s w) := by
  unfold egressStart
  with_reducible repeat (first | assumption | intro _ | apply keeps_ite | apply keeps_sendFrame | apply keeps_setEq | apply keeps_mirrorSend | apply keeps_pauseCheck | apply keeps_choose | apply keeps_foldl | apply keeps_fstIte | extract_lets | (simp only [keeps_mk, keeps_parts]) | split)

theorem keeps_ownLink (s : State) (p : Nat) (h : Keeps z s) : Keeps z (ownLink s p) := by
  unfold ownLink
  with_reducible repeat (first | assumption | intro _ | apply keeps_ite | apply keeps_linkAdd | apply keeps_setLink | apply keeps_linkDrop | apply keeps_routeAll | apply keeps_foldl | apply keeps_fstIte | extract_lets | (simp only [keeps_mk, keeps_parts]) | split)

theorem keeps_deliverLocal (s : State) (f : XFrame) (bad : Bool) (h : Keeps z s) : Keeps z (deliverLocal s f bad).2 := by
  unfold deliverLocal
  with_reducible repeat (first | assumption | intro _ | apply keeps_ite | apply keeps_noticeSee | apply keeps_enqueue | apply keeps_headerError | apply keeps_foldl | apply keeps_fstIte | extract_lets | (simp only [keeps_mk, keeps_parts]) | split)

theorem keeps_insertFrame (s : State) (sport : Nat) (x_h : List Byte) (payload : List Byte) (rx : Nat) (bad : optParam Bool false) (h : Keeps z s) : Keeps z (insertFrame s sport x_h payload rx bad).2 := by
  simp only [insertFrame]
  with_reducible repeat (first | assumption | intro _ | apply keeps_ite | apply keeps_enqueue | apply keeps_enqueueCopies | apply keeps_deliverLocal | apply keeps_policerTake | apply keeps_noRoute | apply keeps_headerError | apply keeps_tapSee | apply keeps_foldl | apply keeps_fstIte | (simp only [keeps_mk, keeps_parts]) | split)

theorem keeps_ringNext (s : State) (p : Nat) (h : Keeps z s) : ∀ res, ringNext s p = some res → Keeps z res := by
  unfold ringNext
  intro r e
  split at e
  · cases e
  · split at e
    · cases e; exact keeps_ringLeave _ _ _ (keeps_setPort _ _ _ h)
    · cases e

end Sys2Proof.Machine
end

