-- ==== Sys2Proof/Laws/KeepsFryOps.lean ====
section
/-! SUPPORT. What the operations of Sys2Proof/Machine/FryOps.lean keep. -/

set_option linter.unusedSimpArgs false

namespace Sys2Proof.Machine

variable {z : State}

theorem keeps_unqueue (s : State) (k : Nat) (h : Keeps z s) : Keeps z (unqueue s k) := by
  unfold unqueue
  with_reducible repeat (first | assumption | intro _ | apply keeps_ite | apply keeps_setChn | apply keeps_each | apply keeps_foldl | apply keeps_fstIte | extract_lets | (simp only [keeps_mk, keeps_parts]))

theorem keeps_respond (s : State) (hub : Nat) (sport : Nat) (tag : Nat) (op : Nat) (st : Nat) (info : Nat) (data : List Nat) (h : Keeps z s) : Keeps z (respond s hub sport tag op st info data) := by
  unfold respond
  with_reducible repeat (first | assumption | intro _ | apply keeps_ite | apply keeps_insertFrame | apply keeps_emit | apply keeps_foldl | apply keeps_fstIte)

theorem keeps_dropReq (s : State) (k : Nat) (h : Keeps z s) : Keeps z (dropReq s k) := by
  unfold dropReq
  with_reducible repeat (first | assumption | intro _ | apply keeps_ite | apply keeps_foldl | apply keeps_fstIte | extract_lets | (simp only [keeps_mk, keeps_parts]))

theorem keeps_endReq (s : State) (k : Nat) (st : Nat) (data : List Nat) (h : Keeps z s) : Keeps z (endReq s k st data) := by
  unfold endReq
  with_reducible repeat (first | assumption | intro _ | apply keeps_ite | apply keeps_respond | apply keeps_dropReq | apply keeps_foldl | apply keeps_fstIte | extract_lets | (simp only [keeps_mk, keeps_parts]) | split)

theorem keeps_restWaiting (s : State) (h : Keeps z s) : Keeps z (restWaiting s) := by
  unfold restWaiting
  with_reducible repeat (first | assumption | intro _ | apply keeps_ite | apply keeps_unqueue | apply keeps_endReq | apply keeps_each | apply keeps_foldl | apply keeps_fstIte)

theorem keeps_expireReq (s : State) (h : Keeps z s) : Keeps z (expireReq s) := by
  unfold expireReq
  with_reducible repeat (first | assumption | intro _ | apply keeps_ite | apply keeps_incSat | apply keeps_wr | apply keeps_foldl | apply keeps_fstIte)

theorem keeps_answerMgmt (s : State) (ini : Nat) (st : Nat) (h : Keeps z s) : Keeps z (answerMgmt s ini st) := by
  unfold answerMgmt
  with_reducible repeat (first | assumption | intro _ | apply keeps_ite | apply keeps_emit | apply keeps_foldl | apply keeps_fstIte)

theorem keeps_retryReq (s : State) (k : Nat) (h : Keeps z s) : Keeps z (retryReq s k) := by
  unfold retryReq
  with_reducible repeat (first | assumption | intro _ | apply keeps_ite | apply keeps_endReq | apply keeps_incSat | apply keeps_wr | apply keeps_foldl | apply keeps_fstIte)

theorem keeps_lateStart (s : State) (k : Nat) (r : Req) (h : Keeps z s) : ∀ res, lateStart s k r = some res → Keeps z res := by
  unfold lateStart
  intro res e
  split at e
  · cases e; exact keeps_expireReq _ (keeps_dropReq _ _ h)
  · split at e
    · cases e; exact keeps_retryReq _ _ h
    · cases e

theorem keeps_insertOr (s : State) (sport : Nat) (x_h : List Byte) (payload : List Byte) (h : Keeps z s) : Keeps z (insertOr s sport x_h payload).2 := by
  unfold insertOr
  with_reducible repeat (first | assumption | intro _ | apply keeps_ite | apply keeps_insertFrame | apply keeps_foldl | apply keeps_fstIte | extract_lets | (simp only [keeps_mk, keeps_parts]) | split)

theorem keeps_insertLocal (s : State) (sport : Nat) (x_h : List Byte) (payload : List Byte) (h : Keeps z s) : Keeps z (insertLocal s sport x_h payload) := by
  unfold insertLocal
  with_reducible repeat (first | assumption | intro _ | apply keeps_ite | apply keeps_respond | apply keeps_insertOr | apply keeps_foldl | apply keeps_fstIte | extract_lets | (simp only [keeps_mk, keeps_parts]) | split)

end Sys2Proof.Machine
end

