-- ==== Sys2Proof/Laws/KeepsChnXfer.lean ====
section
/-! SUPPORT. What the operations of Sys2Proof/Machine/ChnXfer.lean keep. -/

set_option linter.unusedSimpArgs false

namespace Sys2Proof.Machine

variable {z : State}

theorem keeps_startGap (s : State) (n : Nat) (h : Keeps z s) : Keeps z (startGap s n) := by
  unfold startGap
  with_reducible repeat (first | assumption | intro _ | apply keeps_ite | apply keeps_setChn | apply keeps_foldl | apply keeps_fstIte)

theorem keeps_runEnd (s : State) (n : Nat) (h : Keeps z s) : Keeps z (runEnd s n) := by
  unfold runEnd
  with_reducible repeat (first | assumption | intro _ | apply keeps_ite | apply keeps_wrs | apply keeps_foldl | apply keeps_fstIte)

theorem keeps_nextTransaction (s : State) (n : Nat) (h : Keeps z s) : Keeps z (nextTransaction s n) := by
  unfold nextTransaction
  with_reducible repeat (first | assumption | intro _ | apply keeps_ite | apply keeps_runEnd | apply keeps_wr | apply keeps_setChn | apply keeps_startGap | apply keeps_foldl | apply keeps_fstIte)

theorem keeps_pollFail (s : State) (n : Nat) (t : Nat) (q : Nat) (h : Keeps z s) : Keeps z (pollFail s n t q) := by
  unfold pollFail
  with_reducible repeat (first | assumption | intro _ | apply keeps_ite | apply keeps_wr | apply keeps_raiseOnce | apply keeps_incSat | apply keeps_foldl | apply keeps_fstIte)

theorem keeps_extractAll (s : State) (es : List FieldEnt) (r : List Byte) (h : Keeps z s) : Keeps z (extractAll s es r).2 := by
  unfold extractAll
  refine keeps_foldl_snd _ _ h fun u k hu => ?_
  split
  · exact hu
  · exact keeps_setStg _ _ _ hu

theorem keeps_transactionEnd (s : State) (n : Nat) (q : Nat) (r : List Byte) (h : Keeps z s) : Keeps z (transactionEnd s n q r) := by
  unfold transactionEnd
  with_reducible repeat (first | assumption | intro _ | apply keeps_ite | apply keeps_nextTransaction | apply keeps_pollFail | apply keeps_setStg | apply keeps_extractAll | apply keeps_foldl | apply keeps_fstIte)

theorem keeps_attemptDone (s : State) (n : Nat) (q : Nat) (r : List Byte) (h : Keeps z s) : Keeps z (attemptDone s n q r) := by
  unfold attemptDone
  with_reducible repeat (first | assumption | intro _ | apply keeps_ite | apply keeps_transactionEnd | apply keeps_setChn | apply keeps_incSat | apply keeps_startGap | apply keeps_foldl | apply keeps_fstIte)

theorem keeps_txAbort (s : State) (n : Nat) (h : Keeps z s) : Keeps z (txAbort s n) := by
  unfold txAbort
  with_reducible repeat (first | assumption | intro _ | apply keeps_ite | apply keeps_incSat | apply keeps_foldl | apply keeps_fstIte)

theorem keeps_xferBegin (s : State) (n : Nat) (len : Nat) (dev : Nat) (x : Xfer) (h : Keeps z s) : Keeps z (xferBegin s n len dev x) := by
  unfold xferBegin
  with_reducible repeat (first | assumption | intro _ | apply keeps_ite | apply keeps_setChn | apply keeps_csLevel | apply keeps_foldl | apply keeps_fstIte)

theorem keeps_rxDrop (s : State) (n : Nat) (k : Nat) (h : Keeps z s) : Keeps z (rxDrop s n k) := by
  unfold rxDrop
  with_reducible repeat (first | assumption | intro _ | apply keeps_ite | apply keeps_addSat | apply keeps_foldl | apply keeps_fstIte)

theorem keeps_ferryStop (s : State) (n : Nat) (h : Keeps z s) : Keeps z (ferryStop s n) := by
  unfold ferryStop
  with_reducible repeat (first | assumption | intro _ | apply keeps_ite | apply keeps_setChn | apply keeps_endReq | apply keeps_foldl | apply keeps_fstIte)

theorem keeps_chnPark (s : State) (n : Nat) (h : Keeps z s) : Keeps z (chnPark s n) := by
  unfold chnPark
  with_reducible repeat (first | assumption | intro _ | apply keeps_ite | apply keeps_wrs | apply keeps_csHold | apply keeps_setChn | apply keeps_rxDrop | apply keeps_ferryStop | apply keeps_txAbort | apply keeps_foldl | apply keeps_fstIte)

theorem keeps_chnIdle (s : State) (n : Nat) (h : Keeps z s) : Keeps z (chnIdle s n) := by
  unfold chnIdle
  with_reducible repeat (first | assumption | intro _ | apply keeps_ite | apply keeps_wrs | apply keeps_chnGo | apply keeps_chnPark | apply keeps_foldl | apply keeps_fstIte)

theorem keeps_xferEnd (s : State) (n : Nat) (h : Keeps z s) : Keeps z (xferEnd s n) := by
  unfold xferEnd
  with_reducible repeat (first | assumption | intro _ | apply keeps_ite | apply keeps_setChn | apply keeps_csLevel | apply keeps_advanceTo | apply keeps_foldl | apply keeps_fstIte)

theorem keeps_windowSend (s : State) (r : Req) (write : Bool) (words : List Nat) (h : Keeps z s) : Keeps z (windowSend s r write words) := by
  unfold windowSend
  with_reducible repeat (first | assumption | intro _ | apply keeps_ite | apply keeps_emit | apply keeps_foldl | apply keeps_fstIte)

theorem keeps_startFerry (s : State) (n : Nat) (k : Nat) (rest : List Nat) (h : Keeps z s) : Keeps z (startFerry s n k rest) := by
  unfold startFerry
  have h0 : Keeps z (s.setChn n { s.chn n with ferry := rest }) := keeps_setChn _ _ _ h
  extract_lets c0 s0
  split
  · exact h0
  · rename_i r _
    refine keeps_ite (keeps_endReq _ _ _ _ h0) ?_
    split
    · rename_i t e; exact keeps_lateStart s0 k r h0 t e
    · exact keeps_windowSend _ _ _ _ (keeps_setChn _ _ _ (keeps_xferBegin _ _ _ _ _ h0))

theorem keeps_noUnit (s : State) (h : Keeps z s) : Keeps z (noUnit s) := by
  unfold noUnit
  with_reducible repeat (first | assumption | intro _ | apply keeps_ite | apply keeps_wr | apply keeps_foldl | apply keeps_fstIte)

theorem keeps_startAttempt (s : State) (n : Nat) (h : Keeps z s) : Keeps z (startAttempt s n) := by
  unfold startAttempt
  with_reducible repeat (first | assumption | intro _ | apply keeps_ite | apply keeps_xferBegin | apply keeps_emit | apply keeps_asyAppend | apply keeps_noUnit | apply keeps_transactionEnd | apply keeps_foldl | apply keeps_fstIte | extract_lets | (simp only [keeps_mk, keeps_parts]) | split)

theorem keeps_rxStore (s : State) (n : Nat) (ns : Nat) (bs : List Byte) (trunc : Bool) (line : Bool) (h : Keeps z s) : Keeps z (rxStore s n ns bs trunc line) := by
  unfold rxStore
  with_reducible repeat (first | assumption | intro _ | apply keeps_ite | apply keeps_setChn | apply keeps_wr | apply keeps_asyCheck | apply keeps_noUnit | apply keeps_rxDrop | apply keeps_foldl | apply keeps_fstIte | extract_lets | (simp only [keeps_mk, keeps_parts]) | split)

theorem keeps_partEnd (s : State) (n : Nat) (h : Keeps z s) : Keeps z (partEnd s n) := by
  unfold partEnd
  with_reducible repeat (first | assumption | intro _ | apply keeps_ite | apply keeps_setChn | apply keeps_rxStore | apply keeps_foldl | apply keeps_fstIte | extract_lets | (simp only [keeps_mk, keeps_parts]) | split)

theorem keeps_startFrame (s : State) (n : Nat) (f : List Byte) (rest : List (List Byte)) (h : Keeps z s) : Keeps z (startFrame s n f rest) := by
  unfold startFrame
  with_reducible repeat (first | assumption | intro _ | apply keeps_ite | apply keeps_xferBegin | apply keeps_emit | apply keeps_asyAppend | apply keeps_noUnit | apply keeps_txAbort | apply keeps_setChn | apply keeps_foldl | apply keeps_fstIte | extract_lets | (simp only [keeps_mk, keeps_parts]) | split)

theorem keeps_lineErr (s : State) (n : Nat) (h : Keeps z s) : Keeps z (lineErr s n) := by
  unfold lineErr
  with_reducible repeat (first | assumption | intro _ | apply keeps_ite | apply keeps_incSat | apply keeps_wr | apply keeps_foldl | apply keeps_fstIte)

theorem keeps_rxChar (s : State) (n : Nat) (ns : Nat) (ch : Nat) (h : Keeps z s) : Keeps z (rxChar s n ns ch) := by
  unfold rxChar
  with_reducible repeat (first | assumption | intro _ | apply keeps_ite | apply keeps_rxDrop | apply keeps_setChn | apply keeps_partEnd | apply keeps_lineErr | apply keeps_foldl | apply keeps_fstIte)

theorem keeps_ferryEnd (s : State) (n : Nat) (k : Nat) (resp : List Byte) (line : Bool) (h : Keeps z s) : Keeps z (ferryEnd s n k resp line) := by
  unfold ferryEnd
  with_reducible repeat (first | assumption | intro _ | apply keeps_ite | apply keeps_windowSend | apply keeps_lineErr | apply keeps_endReq | apply keeps_xferEnd | apply keeps_setChn | apply keeps_foldl | apply keeps_fstIte | extract_lets | (simp only [keeps_mk, keeps_parts]) | split)

theorem keeps_sendEvent (s : State) (hub : Nat) (dport : Nat) (flow : Nat) (payload : List Byte) (h : Keeps z s) : Keeps z (sendEvent s hub dport flow payload) := by
  unfold sendEvent
  with_reducible repeat (first | assumption | intro _ | apply keeps_ite | apply keeps_insertFrame | apply keeps_foldl | apply keeps_fstIte)

theorem keeps_pollDue (s : State) (n : Nat) (tick : Int) (h : Keeps z s) : Keeps z (pollDue s n tick) := by
  unfold pollDue
  with_reducible repeat (first | assumption | intro _ | apply keeps_ite | apply keeps_wrs | apply keeps_setChn | apply keeps_incSat | apply keeps_wr | apply keeps_foldl | apply keeps_fstIte)

theorem keeps_judgeResponse (s : State) (n : Nat) (t : Nat) (resp : List Byte) (line : Bool) (h : Keeps z s) : Keeps z (judgeResponse s n t resp line).2.2 := by
  unfold judgeResponse
  with_reducible repeat (first | assumption | intro _ | apply keeps_ite | apply keeps_wr | apply keeps_asyCheck | apply keeps_noUnit | apply keeps_foldl | apply keeps_fstIte | extract_lets | (simp only [keeps_mk, keeps_parts]) | split)

theorem keeps_collect (s : State) (n : Nat) (bs : List Byte) (line : Bool) (h : Keeps z s) : Keeps z (collect s n bs line) := by
  unfold collect
  with_reducible repeat (first | assumption | intro _ | apply keeps_ite | apply keeps_setChn | apply keeps_judgeResponse | apply keeps_lineErr | apply keeps_advanceTo | apply keeps_attemptDone | apply keeps_foldl | apply keeps_fstIte)

end Sys2Proof.Machine
end

