-- ==== Sys2Proof/Laws/KeepsAsyCmd.lean ====
section
/-! SUPPORT. What the operations of Sys2Proof/Machine/AsyCmd.lean keep. -/

set_option linter.unusedSimpArgs false

namespace Sys2Proof.Machine

variable {z : State}

theorem keeps_valWrite (s : State) (ini : Nat) (c : Nat) (v : Nat) (h : Keeps z s) : Keeps z (valWrite s ini c v) := by
  unfold valWrite
  with_reducible repeat (first | assumption | intro _ | apply keeps_ite | apply keeps_wr | apply keeps_answerMgmt | apply keeps_foldl | apply keeps_fstIte)

theorem keeps_execAsyStart (ini : Nat) (c : Nat) (s : State) (h : Keeps z s) : KeepsOut z (execAsyStart ini c s) := by
  unfold execAsyStart
  with_reducible repeat (first | assumption | intro _ | apply keeps_next | apply keeps_outIte | apply keeps_ite | apply keeps_valWrite | apply keeps_whenAlive | apply keeps_foldl | apply keeps_fstIte)

theorem keeps_checkEnd (s : State) (u : Nat) (ok : Bool) (h : Keeps z s) : Keeps z (checkEnd s u ok) := by
  unfold checkEnd
  with_reducible repeat (first | assumption | intro _ | apply keeps_ite | apply keeps_raise | apply keeps_wrBit | apply keeps_incWrap | apply keeps_wr | apply keeps_foldl | apply keeps_fstIte)

theorem keeps_checkRun (s : State) (u : Nat) (ok : Bool) (yielded : Bool) (h : Keeps z s) : Keeps z (checkRun s u ok yielded) := by
  unfold checkRun
  with_reducible repeat (first | assumption | intro _ | apply keeps_ite | apply keeps_checkEnd | apply keeps_incSat | apply keeps_wr | apply keeps_foldl | apply keeps_fstIte | extract_lets | (simp only [keeps_mk, keeps_parts]))

theorem keeps_execSelfCheckRetry (ok : Bool) (yielded : Bool) (s : State) (h : Keeps z s) : KeepsOut z (execSelfCheckRetry ok yielded s) := by
  unfold execSelfCheckRetry
  with_reducible repeat (first | assumption | intro _ | apply keeps_next | apply keeps_outIte | apply keeps_ite | apply keeps_checkRun | apply keeps_whenAlive | apply keeps_foldl | apply keeps_fstIte | extract_lets | (simp only [keeps_mk, keeps_parts]))

theorem keeps_softFeed (s : State) (ini : Nat) (bs : List Byte) (h : Keeps z s) : Keeps z (softFeed s ini bs) := by
  unfold softFeed
  with_reducible repeat (first | assumption | intro _ | apply keeps_ite | apply keeps_wr | apply keeps_noUnit | apply keeps_answerMgmt | apply keeps_foldl | apply keeps_fstIte)

theorem keeps_execAsyFeedH (ini : Nat) (v : Nat) (s : State) (h : Keeps z s) : KeepsOut z (execAsyFeedH ini v s) := by
  unfold execAsyFeedH
  with_reducible repeat (first | assumption | intro _ | apply keeps_next | apply keeps_outIte | apply keeps_ite | apply keeps_softFeed | apply keeps_whenAlive | apply keeps_foldl | apply keeps_fstIte)

theorem keeps_execAsyValWrite (ini : Nat) (c : Nat) (v : Nat) (s : State) (h : Keeps z s) : KeepsOut z (execAsyValWrite ini c v s) := by
  unfold execAsyValWrite
  with_reducible repeat (first | assumption | intro _ | apply keeps_next | apply keeps_outIte | apply keeps_ite | apply keeps_valWrite | apply keeps_whenAlive | apply keeps_foldl | apply keeps_fstIte)

theorem keeps_execSelfCheck (ok : Bool) (yielded : Bool) (s : State) (h : Keeps z s) : KeepsOut z (execSelfCheck ok yielded s) := by
  unfold execSelfCheck
  with_reducible repeat (first | assumption | intro _ | apply keeps_next | apply keeps_outIte | apply keeps_ite | apply keeps_checkRun | apply keeps_whenAlive | apply keeps_foldl | apply keeps_fstIte | extract_lets | (simp only [keeps_mk, keeps_parts]) | split)

theorem keeps_execAsyFeedB (ini : Nat) (v : Nat) (s : State) (h : Keeps z s) : KeepsOut z (execAsyFeedB ini v s) := by
  unfold execAsyFeedB
  with_reducible repeat (first | assumption | intro _ | apply keeps_next | apply keeps_outIte | apply keeps_ite | apply keeps_softFeed | apply keeps_whenAlive | apply keeps_foldl | apply keeps_fstIte)

theorem keeps_execAsyFeedW (ini : Nat) (v : Nat) (s : State) (h : Keeps z s) : KeepsOut z (execAsyFeedW ini v s) := by
  unfold execAsyFeedW
  with_reducible repeat (first | assumption | intro _ | apply keeps_next | apply keeps_outIte | apply keeps_ite | apply keeps_softFeed | apply keeps_whenAlive | apply keeps_foldl | apply keeps_fstIte)

theorem keeps_execAsyRetest (u : Nat) (ok : Bool) (s : State) (h : Keeps z s) : KeepsOut z (execAsyRetest u ok s) := by
  unfold execAsyRetest
  with_reducible repeat (first | assumption | intro _ | apply keeps_next | apply keeps_outIte | apply keeps_ite | apply keeps_wr | apply keeps_checkEnd | apply keeps_whenAlive | apply keeps_foldl | apply keeps_fstIte)

end Sys2Proof.Machine
end

