-- ==== Sys2Proof/Laws/KeepsBell.lean ====
section
/-! SUPPORT. What the operations of Sys2Proof/Machine/Bell.lean keep. -/

set_option linter.unusedSimpArgs false

namespace Sys2Proof.Machine

variable {z : State}

theorem keeps_lapCounts (s : State) (h : Keeps z s) : Keeps z (lapCounts s) := by
  unfold lapCounts
  with_reducible repeat (first | assumption | intro _ | apply keeps_ite | apply keeps_wrs | apply keeps_foldl | apply keeps_fstIte | extract_lets | (simp only [keeps_mk, keeps_parts]))

theorem keeps_extLock (s : State) (x : Int) (h : Keeps z s) : Keeps z (extLock s x) := by
  unfold extLock
  with_reducible repeat (first | assumption | intro _ | apply keeps_ite | apply keeps_wr | apply keeps_foldl | apply keeps_fstIte | extract_lets | (simp only [keeps_mk, keeps_parts]))

theorem keeps_refSample (s : State) (x : Int) (tNs : Nat) (h : Keeps z s) : Keeps z (refSample s x tNs) := by
  unfold refSample
  with_reducible repeat (first | assumption | intro _ | apply keeps_ite | apply keeps_servo | apply keeps_wr | apply keeps_raise | apply keeps_bellStep | apply keeps_bellSettle | apply keeps_extLock | apply keeps_wrI | apply keeps_foldl | apply keeps_fstIte | extract_lets | (simp only [keeps_mk, keeps_parts]))

theorem keeps_loseLock (s : State) (hold : Bool) (h : Keeps z s) : Keeps z (loseLock s hold) := by
  unfold loseLock
  with_reducible repeat (first | assumption | intro _ | apply keeps_ite | apply keeps_toAcquire | apply keeps_setQ | apply keeps_unlock | apply keeps_foldl | apply keeps_fstIte)

theorem keeps_toLocked (s : State) (h : Keeps z s) : Keeps z (toLocked s) := by
  unfold toLocked
  with_reducible repeat (first | assumption | intro _ | apply keeps_ite | apply keeps_wrs | apply keeps_setQ | apply keeps_foldl | apply keeps_fstIte | extract_lets | (simp only [keeps_mk, keeps_parts]))

theorem keeps_followState (s : State) (x : Int) (h : Keeps z s) : Keeps z (followState s x) := by
  unfold followState
  with_reducible repeat (first | assumption | intro _ | apply keeps_ite | apply keeps_loseLock | apply keeps_toLocked | apply keeps_toAcquire | apply keeps_foldl | apply keeps_fstIte | extract_lets | (simp only [keeps_mk, keeps_parts]))

theorem keeps_followStep (s : State) (x : Int) (h : Keeps z s) : Keeps z (followStep s x) := by
  unfold followStep
  with_reducible repeat (first | assumption | intro _ | apply keeps_ite | apply keeps_bellStep | apply keeps_unlock | apply keeps_raise | apply keeps_toAcquire | apply keeps_setQ | apply keeps_advance | apply keeps_foldl | apply keeps_fstIte)

theorem keeps_followMedian (s : State) (x : Int) (h : Keeps z s) : Keeps z (followMedian s x) := by
  unfold followMedian
  with_reducible repeat (first | assumption | intro _ | apply keeps_ite | apply keeps_servo | apply keeps_followState | apply keeps_followStep | apply keeps_wrI | apply keeps_foldl | apply keeps_fstIte | extract_lets | (simp only [keeps_mk, keeps_parts]))

theorem keeps_followNone (s : State) (h : Keeps z s) : Keeps z (followNone s) := by
  unfold followNone
  with_reducible repeat (first | assumption | intro _ | apply keeps_ite | apply keeps_servoHold | apply keeps_wrs | apply keeps_foldl | apply keeps_fstIte | extract_lets | (simp only [keeps_mk, keeps_parts]))

theorem keeps_lapEnd (s : State) (h : Keeps z s) : Keeps z (lapEnd s) := by
  unfold lapEnd
  with_reducible repeat (first | assumption | intro _ | apply keeps_ite | apply keeps_originSettle | apply keeps_bellSettle | apply keeps_followMedian | apply keeps_followNone | apply keeps_lapCounts | apply keeps_foldl | apply keeps_fstIte | extract_lets | (simp only [keeps_mk, keeps_parts]) | split)

theorem keeps_execFollowerLapMedian (s : State) (h : Keeps z s) : KeepsOut z (execFollowerLapMedian s) := by
  unfold execFollowerLapMedian
  with_reducible repeat (first | assumption | intro _ | apply keeps_next | apply keeps_outIte | apply keeps_ite | apply keeps_lapEnd | apply keeps_toBoundary | apply keeps_whenAlive | apply keeps_foldl | apply keeps_fstIte | extract_lets | (simp only [keeps_mk, keeps_parts]))

theorem keeps_execTriggerDisarm (owner : Nat) (n : Nat) (s : State) (h : Keeps z s) : KeepsOut z (execTriggerDisarm owner n s) := by
  unfold execTriggerDisarm
  with_reducible repeat (first | assumption | intro _ | apply keeps_next | apply keeps_outIte | apply keeps_ite | apply keeps_wr | apply keeps_trgFire | apply keeps_whenAlive | apply keeps_foldl | apply keeps_fstIte)

theorem keeps_execBellStep (ns : Int) (s : State) (h : Keeps z s) : KeepsOut z (execBellStep ns s) := by
  unfold execBellStep
  with_reducible repeat (first | assumption | intro _ | apply keeps_next | apply keeps_outIte | apply keeps_ite | apply keeps_advance | apply keeps_bellStep | apply keeps_whenAlive | apply keeps_foldl | apply keeps_fstIte)

theorem keeps_execHoldoverTimeout (s : State) (h : Keeps z s) : KeepsOut z (execHoldoverTimeout s) := by
  unfold execHoldoverTimeout
  with_reducible repeat (first | assumption | intro _ | apply keeps_next | apply keeps_outIte | apply keeps_ite | apply keeps_setQ | apply keeps_unlock | apply keeps_bellSettle | apply keeps_whenAlive | apply keeps_foldl | apply keeps_fstIte | extract_lets | (simp only [keeps_mk, keeps_parts]))

theorem keeps_execBellExtOfs (ofs : Int) (s : State) (h : Keeps z s) : KeepsOut z (execBellExtOfs ofs s) := by
  unfold execBellExtOfs
  with_reducible repeat (first | assumption | intro _ | apply keeps_next | apply keeps_outIte | apply keeps_ite | apply keeps_refSample | apply keeps_used | apply keeps_whenAlive | apply keeps_foldl | apply keeps_fstIte | extract_lets | (simp only [keeps_mk, keeps_parts]) | split)

theorem keeps_execPpsOutPulse (s : State) (h : Keeps z s) : KeepsOut z (execPpsOutPulse s) := by
  unfold execPpsOutPulse
  with_reducible repeat (first | assumption | intro _ | apply keeps_next | apply keeps_outIte | apply keeps_ite | apply keeps_advanceTo | apply keeps_foldl | apply keeps_fstIte | extract_lets | (simp only [keeps_mk, keeps_parts]))

theorem keeps_execPpsOutEnd (s : State) (h : Keeps z s) : KeepsOut z (execPpsOutEnd s) := by
  unfold execPpsOutEnd
  with_reducible repeat (first | assumption | intro _ | apply keeps_next | apply keeps_outIte | apply keeps_ite | apply keeps_advanceTo | apply keeps_foldl | apply keeps_fstIte | extract_lets | (simp only [keeps_mk, keeps_parts]))

theorem keeps_execPulseEnd (n : Nat) (s : State) (h : Keeps z s) : KeepsOut z (execPulseEnd n s) := by
  simp only [execPulseEnd]
  with_reducible repeat (first | assumption | intro _ | apply keeps_next | apply keeps_outIte | apply keeps_ite | apply keeps_lineAct | apply keeps_advance | apply keeps_whenAlive | apply keeps_foldl | apply keeps_fstIte | (simp only [keeps_mk, keeps_parts]) | split)

theorem keeps_execTriggerFire (n : Nat) (s : State) (h : Keeps z s) : KeepsOut z (execTriggerFire n s) := by
  unfold execTriggerFire
  with_reducible repeat (first | assumption | intro _ | apply keeps_next | apply keeps_outIte | apply keeps_ite | apply keeps_advanceTo | apply keeps_trgFire | apply keeps_whenAlive | apply keeps_foldl | apply keeps_fstIte)

theorem keeps_execPpsinMiss (s : State) (h : Keeps z s) : KeepsOut z (execPpsinMiss s) := by
  unfold execPpsinMiss
  with_reducible repeat (first | assumption | intro _ | apply keeps_next | apply keeps_outIte | apply keeps_ite | apply keeps_wr | apply keeps_servoHold | apply keeps_whenAlive | apply keeps_foldl | apply keeps_fstIte | extract_lets | (simp only [keeps_mk, keeps_parts]))

theorem keeps_execCapturePop (n : Nat) (s : State) (h : Keeps z s) : KeepsOut z (execCapturePop n s) := by
  unfold execCapturePop
  with_reducible repeat (first | assumption | intro _ | apply keeps_next | apply keeps_outIte | apply keeps_ite | apply keeps_capPop | apply keeps_whenAlive | apply keeps_foldl | apply keeps_fstIte)

theorem keeps_execCaptureEdge (dt : Nat) (n : Nat) (rise : Bool) (s : State) (h : Keeps z s) : KeepsOut z (execCaptureEdge dt n rise s) := by
  unfold execCaptureEdge
  with_reducible repeat (first | assumption | intro _ | apply keeps_next | apply keeps_outIte | apply keeps_ite | apply keeps_capPush | apply keeps_whenAlive | apply keeps_advance | apply keeps_foldl | apply keeps_fstIte)

theorem keeps_execTriggerArm (owner : Nat) (n : Nat) (t : Nat) (s : State) (h : Keeps z s) : KeepsOut z (execTriggerArm owner n t s) := by
  unfold execTriggerArm
  with_reducible repeat (first | assumption | intro _ | apply keeps_next | apply keeps_outIte | apply keeps_ite | apply keeps_trgArmBy | apply keeps_whenAlive | apply keeps_foldl | apply keeps_fstIte)

theorem keeps_execPpsInEdge (dt : Nat) (s : State) (h : Keeps z s) : KeepsOut z (execPpsInEdge dt s) := by
  unfold execPpsInEdge
  with_reducible repeat (first | assumption | intro _ | apply keeps_next | apply keeps_outIte | apply keeps_ite | apply keeps_refSample | apply keeps_capEdge | apply keeps_whenAlive | apply keeps_advance | apply keeps_foldl | apply keeps_fstIte | extract_lets | (simp only [keeps_mk, keeps_parts]))

end Sys2Proof.Machine
end

