-- ==== Sys2Proof/Laws/KeepsBrn.lean ====
section
/-! SUPPORT. What the operations of Sys2Proof/Machine/Brn.lean keep. -/

set_option linter.unusedSimpArgs false

namespace Sys2Proof.Machine

variable {z : State}

theorem keeps_execInsertionTimer (n : Nat) (s : State) (h : Keeps z s) : KeepsOut z (execInsertionTimer n s) := by
  unfold execInsertionTimer
  with_reducible repeat (first | assumption | intro _ | apply keeps_next | apply keeps_outIte | apply keeps_ite | apply keeps_wr | apply keeps_incWrap | apply keeps_brnLimit | apply keeps_foldl | apply keeps_fstIte)

theorem keeps_d2dLost (s : State) (hub : Bool) (bpd : Bool) (exhausted : Bool) (h : Keeps z s) : Keeps z (d2dLost s hub bpd exhausted) := by
  unfold d2dLost
  with_reducible repeat (first | assumption | intro _ | apply keeps_ite | apply keeps_raise | apply keeps_hardOff | apply keeps_foldl | apply keeps_fstIte | extract_lets | (simp only [keeps_mk, keeps_parts]))

theorem keeps_execD2dLinkLost (hub : Bool) (bpd : Bool) (exhausted : Bool) (s : State) (h : Keeps z s) : KeepsOut z (execD2dLinkLost hub bpd exhausted s) := by
  unfold execD2dLinkLost
  with_reducible repeat (first | assumption | intro _ | apply keeps_next | apply keeps_outIte | apply keeps_ite | apply keeps_d2dLost | apply keeps_foldl | apply keeps_fstIte)

theorem keeps_heldMark (s : State) (n : Nat) (h : Keeps z s) : Keeps z (heldMark s n) := by
  unfold heldMark
  with_reducible repeat (first | assumption | intro _ | apply keeps_ite | apply keeps_setBrn | apply keeps_wr | apply keeps_foldl | apply keeps_fstIte)

theorem keeps_softTrip (s : State) (n : Nat) (ev : Fld) (h : Keeps z s) : Keeps z (softTrip s n ev) := by
  unfold softTrip
  with_reducible repeat (first | assumption | intro _ | apply keeps_ite | apply keeps_wrs | apply keeps_incSat | apply keeps_heldMark | apply keeps_foldl | apply keeps_fstIte)

theorem keeps_brnTrip (s : State) (n : Nat) (ev : Fld) (eFall : Bool) (h : Keeps z s) : Keeps z (brnTrip s n ev eFall) := by
  unfold brnTrip
  with_reducible repeat (first | assumption | intro _ | apply keeps_ite | apply keeps_raise | apply keeps_brnRest | apply keeps_heldMark | apply keeps_wr | apply keeps_incSat | apply keeps_wrs | apply keeps_foldl | apply keeps_fstIte)

theorem keeps_busLeaves (s : State) (n : Nat) (busOut : Bool) (h : Keeps z s) : Keeps z (busLeaves s n busOut) := by
  unfold busLeaves
  with_reducible repeat (first | assumption | intro _ | apply keeps_ite | apply keeps_wr | apply keeps_foldl | apply keeps_fstIte)

theorem keeps_execFastTrip (n : Nat) (eFall : Bool) (busOut : Bool) (s : State) (h : Keeps z s) : KeepsOut z (execFastTrip n eFall busOut s) := by
  unfold execFastTrip
  with_reducible repeat (first | assumption | intro _ | apply keeps_next | apply keeps_outIte | apply keeps_ite | apply keeps_softTrip | apply keeps_brnTrip | apply keeps_busLeaves | apply keeps_foldl | apply keeps_fstIte)

theorem keeps_brnLatch (s : State) (n : Nat) (b : Bool) (h : Keeps z s) : Keeps z (brnLatch s n b) := by
  unfold brnLatch
  with_reducible repeat (first | assumption | intro _ | apply keeps_ite | apply keeps_setBrn | apply keeps_brnFollow | apply keeps_foldl | apply keeps_fstIte)

theorem keeps_execBrnOff (n : Nat) (s : State) (h : Keeps z s) : KeepsOut z (execBrnOff n s) := by
  unfold execBrnOff
  with_reducible repeat (first | assumption | intro _ | apply keeps_next | apply keeps_outIte | apply keeps_ite | apply keeps_brnLatch | apply keeps_whenAlive | apply keeps_foldl | apply keeps_fstIte)

theorem keeps_brnToOn (s : State) (n : Nat) (h : Keeps z s) : Keeps z (brnToOn s n) := by
  unfold brnToOn
  with_reducible repeat (first | assumption | intro _ | apply keeps_ite | apply keeps_wrs | apply keeps_setBrn | apply keeps_brnLimit | apply keeps_foldl | apply keeps_fstIte)

theorem keeps_execStartTimeout (n : Nat) (done : Bool) (s : State) (h : Keeps z s) : KeepsOut z (execStartTimeout n done s) := by
  unfold execStartTimeout
  with_reducible repeat (first | assumption | intro _ | apply keeps_next | apply keeps_outIte | apply keeps_ite | apply keeps_brnTrip | apply keeps_brnToOn | apply keeps_foldl | apply keeps_fstIte)

theorem keeps_energyAdd (s : State) (n : Nat) (vOut : Nat) (ci : Int) (h : Keeps z s) : Keeps z (energyAdd s n vOut ci) := by
  unfold energyAdd
  with_reducible repeat (first | assumption | intro _ | apply keeps_ite | apply keeps_wrI | apply keeps_setBrn | apply keeps_foldl | apply keeps_fstIte)

theorem keeps_limitOn (s : State) (n : Nat) (h : Keeps z s) : Keeps z (limitOn s n) := by
  unfold limitOn
  with_reducible repeat (first | assumption | intro _ | apply keeps_ite | apply keeps_wrs | apply keeps_wr | apply keeps_foldl | apply keeps_fstIte)

theorem keeps_execThermalUpdate (n : Nat) (vBus : Int) (vOut : Int) (i : Int) (ta : Int) (s : State) (h : Keeps z s) : KeepsOut z (execThermalUpdate n vBus vOut i ta s) := by
  unfold execThermalUpdate
  with_reducible repeat (first | assumption | intro _ | apply keeps_next | apply keeps_outIte | apply keeps_ite | apply keeps_brnTrip | apply keeps_wrI | apply keeps_setBrn | apply keeps_foldl | apply keeps_fstIte)

theorem keeps_dischargeEnd (s : State) (n : Nat) (h : Keeps z s) : Keeps z (dischargeEnd s n) := by
  unfold dischargeEnd
  with_reducible repeat (first | assumption | intro _ | apply keeps_ite | apply keeps_setBrn | apply keeps_brnToOff | apply keeps_foldl | apply keeps_fstIte)

theorem keeps_execTReonExpiry (n : Nat) (s : State) (h : Keeps z s) : KeepsOut z (execTReonExpiry n s) := by
  unfold execTReonExpiry
  with_reducible repeat (first | assumption | intro _ | apply keeps_next | apply keeps_outIte | apply keeps_ite | apply keeps_brnOffSettle | apply keeps_brnInsert | apply keeps_setBrn | apply keeps_foldl | apply keeps_fstIte)

theorem keeps_execRetryWaitExpiry (n : Nat) (s : State) (h : Keeps z s) : KeepsOut z (execRetryWaitExpiry n s) := by
  unfold execRetryWaitExpiry
  with_reducible repeat (first | assumption | intro _ | apply keeps_next | apply keeps_outIte | apply keeps_ite | apply keeps_brnInsert | apply keeps_foldl | apply keeps_fstIte)

theorem keeps_setRetx (s : State) (toBpd : Bool) (n : Nat) (h : Keeps z s) : Keeps z (setRetx s toBpd n) := by
  unfold setRetx
  with_reducible repeat (first | assumption | intro _ | apply keeps_ite | apply keeps_foldl | apply keeps_fstIte | extract_lets | (simp only [keeps_mk, keeps_parts]))

theorem keeps_execLimitEntry (n : Nat) (s : State) (h : Keeps z s) : KeepsOut z (execLimitEntry n s) := by
  unfold execLimitEntry
  with_reducible repeat (first | assumption | intro _ | apply keeps_next | apply keeps_outIte | apply keeps_ite | apply keeps_limitOn | apply keeps_foldl | apply keeps_fstIte)

theorem keeps_pgdDrop (s : State) (n : Nat) (vBus : Nat) (vOut : Nat) (h : Keeps z s) : Keeps z (pgdDrop s n vBus vOut) := by
  unfold pgdDrop
  with_reducible repeat (first | assumption | intro _ | apply keeps_ite | apply keeps_wr | apply keeps_foldl | apply keeps_fstIte)

theorem keeps_execBusWindowChange (n : Nat) (ok : Bool) (s : State) (h : Keeps z s) : KeepsOut z (execBusWindowChange n ok s) := by
  unfold execBusWindowChange
  with_reducible repeat (first | assumption | intro _ | apply keeps_next | apply keeps_outIte | apply keeps_ite | apply keeps_wrs | apply keeps_wrB | apply keeps_foldl | apply keeps_fstIte)

theorem keeps_brnClear (s : State) (n : Nat) (h : Keeps z s) : Keeps z (brnClear s n) := by
  unfold brnClear
  with_reducible repeat (first | assumption | intro _ | apply keeps_ite | apply keeps_wrs | apply keeps_brnToOff | apply keeps_foldl | apply keeps_fstIte)

theorem keeps_execBrnClear (n : Nat) (s : State) (h : Keeps z s) : KeepsOut z (execBrnClear n s) := by
  unfold execBrnClear
  with_reducible repeat (first | assumption | intro _ | apply keeps_next | apply keeps_outIte | apply keeps_ite | apply keeps_brnClear | apply keeps_whenAlive | apply keeps_foldl | apply keeps_fstIte)

theorem keeps_execSoftOffEnd (n : Nat) (s : State) (h : Keeps z s) : KeepsOut z (execSoftOffEnd n s) := by
  unfold execSoftOffEnd
  with_reducible repeat (first | assumption | intro _ | apply keeps_next | apply keeps_outIte | apply keeps_ite | apply keeps_wr | apply keeps_foldl | apply keeps_fstIte)

theorem keeps_execPgHold1s (n : Nat) (s : State) (h : Keeps z s) : KeepsOut z (execPgHold1s n s) := by
  unfold execPgHold1s
  with_reducible repeat (first | assumption | intro _ | apply keeps_next | apply keeps_outIte | apply keeps_ite | apply keeps_wr | apply keeps_foldl | apply keeps_fstIte)

theorem keeps_execChargePumpOk (s : State) (h : Keeps z s) : KeepsOut z (execChargePumpOk s) := by
  unfold execChargePumpOk
  with_reducible repeat (first | assumption | intro _ | apply keeps_next | apply keeps_outIte | apply keeps_ite | apply keeps_wr | apply keeps_brnOffSettle | apply keeps_each | apply keeps_foldl | apply keeps_fstIte | extract_lets | (simp only [keeps_mk, keeps_parts]))

theorem keeps_execDischargeTimeout (n : Nat) (s : State) (h : Keeps z s) : KeepsOut z (execDischargeTimeout n s) := by
  unfold execDischargeTimeout
  with_reducible repeat (first | assumption | intro _ | apply keeps_next | apply keeps_outIte | apply keeps_ite | apply keeps_wr | apply keeps_dischargeEnd | apply keeps_foldl | apply keeps_fstIte)

theorem keeps_heldTrips (s : State) (h : Keeps z s) : Keeps z (heldTrips s) := by
  unfold heldTrips
  with_reducible repeat (first | assumption | intro _ | apply keeps_ite | apply keeps_setBrn | apply keeps_each | apply keeps_raiseAll | apply keeps_foldl | apply keeps_fstIte)

theorem keeps_execChargePumpLow (s : State) (h : Keeps z s) : KeepsOut z (execChargePumpLow s) := by
  unfold execChargePumpLow
  with_reducible repeat (first | assumption | intro _ | apply keeps_next | apply keeps_outIte | apply keeps_ite | apply keeps_raise | apply keeps_wr | apply keeps_each | apply keeps_hardOff | apply keeps_foldl | apply keeps_fstIte | extract_lets | (simp only [keeps_mk, keeps_parts]))

theorem keeps_execD2dLinkFrame (crcOk : Bool) (toBpd : Bool) (s : State) (h : Keeps z s) : KeepsOut z (execD2dLinkFrame crcOk toBpd s) := by
  unfold execD2dLinkFrame
  with_reducible repeat (first | assumption | intro _ | apply keeps_next | apply keeps_outIte | apply keeps_ite | apply keeps_d2dLost | apply keeps_brnFollowAll | apply keeps_heldTrips | apply keeps_setRetx | apply keeps_foldl | apply keeps_fstIte | extract_lets | (simp only [keeps_mk, keeps_parts]))

theorem keeps_execFaultTimerExpiry (n : Nat) (fast : Bool) (eFall : Bool) (busOut : Bool) (s : State) (h : Keeps z s) : KeepsOut z (execFaultTimerExpiry n fast eFall busOut s) := by
  unfold execFaultTimerExpiry
  with_reducible repeat (first | assumption | intro _ | apply keeps_next | apply keeps_outIte | apply keeps_ite | apply keeps_softTrip | apply keeps_wr | apply keeps_brnTrip | apply keeps_busLeaves | apply keeps_foldl | apply keeps_fstIte)

theorem keeps_execDischargeComplete (n : Nat) (eRise : Bool) (s : State) (h : Keeps z s) : KeepsOut z (execDischargeComplete n eRise s) := by
  unfold execDischargeComplete
  with_reducible repeat (first | assumption | intro _ | apply keeps_next | apply keeps_outIte | apply keeps_ite | apply keeps_wrs | apply keeps_dischargeEnd | apply keeps_foldl | apply keeps_fstIte)

theorem keeps_execPgQualified (n : Nat) (limit : Bool) (s : State) (h : Keeps z s) : KeepsOut z (execPgQualified n limit s) := by
  unfold execPgQualified
  with_reducible repeat (first | assumption | intro _ | apply keeps_next | apply keeps_outIte | apply keeps_ite | apply keeps_wrs | apply keeps_limitOn | apply keeps_foldl | apply keeps_fstIte)

theorem keeps_execBranchMeasurement (n : Nat) (vBus : Nat) (vOut : Nat) (i : Nat) (runs : List (Bool × Nat)) (s : State) (h : Keeps z s) : KeepsOut z (execBranchMeasurement n vBus vOut i runs s) := by
  unfold execBranchMeasurement
  with_reducible repeat (first | assumption | intro _ | apply keeps_next | apply keeps_outIte | apply keeps_ite | apply keeps_wr | apply keeps_setBrn | apply keeps_wrB | apply keeps_pgdDrop | apply keeps_brnLimit | apply keeps_limitOn | apply keeps_energyAdd | apply keeps_wrs | apply keeps_wrI | apply keeps_foldl | apply keeps_fstIte)

theorem keeps_execVddBpdPor (s : State) (h : Keeps z s) : KeepsOut z (execVddBpdPor s) := by
  unfold execVddBpdPor
  with_reducible repeat (first | assumption | intro _ | apply keeps_next | apply keeps_outIte | apply keeps_ite | apply keeps_foldl | apply keeps_fstIte | extract_lets | (simp only [keeps_mk, keeps_parts]))

theorem keeps_execBranchEnableChange (n : Nat) (s : State) (h : Keeps z s) : KeepsOut z (execBranchEnableChange n s) := by
  unfold execBranchEnableChange
  with_reducible repeat (first | assumption | intro _ | apply keeps_next | apply keeps_outIte | apply keeps_ite | apply keeps_brnFollow | apply keeps_foldl | apply keeps_fstIte)

theorem keeps_execRampComplete (n : Nat) (s : State) (h : Keeps z s) : KeepsOut z (execRampComplete n s) := by
  unfold execRampComplete
  with_reducible repeat (first | assumption | intro _ | apply keeps_next | apply keeps_outIte | apply keeps_ite | apply keeps_brnToOn | apply keeps_foldl | apply keeps_fstIte)

theorem keeps_execBrnOn (n : Nat) (s : State) (h : Keeps z s) : KeepsOut z (execBrnOn n s) := by
  unfold execBrnOn
  with_reducible repeat (first | assumption | intro _ | apply keeps_next | apply keeps_outIte | apply keeps_ite | apply keeps_brnLatch | apply keeps_whenAlive | apply keeps_foldl | apply keeps_fstIte)

end Sys2Proof.Machine
end

