-- ==== Sys2Proof/Laws/KeepsCanXfer.lean ====
section
/-! SUPPORT. What the operations of Sys2Proof/Machine/CanXfer.lean keep. -/

set_option linter.unusedSimpArgs false

namespace Sys2Proof.Machine

variable {z : State}

theorem keeps_txbLeave (s : State) (k : Nat) (b : Nat) (h : Keeps z s) : Keeps z (txbLeave s k b) := by
  unfold txbLeave
  with_reducible repeat (first | assumption | intro _ | apply keeps_ite | apply keeps_setCan | apply keeps_wrs | apply keeps_foldl | apply keeps_fstIte)

theorem keeps_txbCancelled (s : State) (k : Nat) (b : Nat) (h : Keeps z s) : Keeps z (txbCancelled s k b) := by
  unfold txbCancelled
  with_reducible repeat (first | assumption | intro _ | apply keeps_ite | apply keeps_txbLeave | apply keeps_wr | apply keeps_foldl | apply keeps_fstIte)

theorem keeps_txbBack (s : State) (k : Nat) (h : Keeps z s) : Keeps z (txbBack s k) := by
  unfold txbBack
  with_reducible repeat (first | assumption | intro _ | apply keeps_ite | apply keeps_wr | apply keeps_txbCancelled | apply keeps_foldl | apply keeps_fstIte | extract_lets | (simp only [keeps_mk, keeps_parts]) | split)

theorem keeps_busOff (s : State) (k : Nat) (h : Keeps z s) : Keeps z (busOff s k) := by
  unfold busOff
  with_reducible repeat (first | assumption | intro _ | apply keeps_ite | apply keeps_advance | apply keeps_wr | apply keeps_setCan | apply keeps_raise | apply keeps_txbBack | apply keeps_wrs | apply keeps_foldl | apply keeps_fstIte)

theorem keeps_canStopped (s : State) (k : Nat) (h : Keeps z s) : Keeps z (canStopped s k) := by
  unfold canStopped
  with_reducible repeat (first | assumption | intro _ | apply keeps_ite | apply keeps_canGo | apply keeps_setCan | apply keeps_wrs | apply keeps_txbCancelled | apply keeps_each | apply keeps_foldl | apply keeps_fstIte)

theorem keeps_rxmAge (s : State) (m : Nat) (h : Keeps z s) : Keeps z (rxmAge s m) := by
  unfold rxmAge
  with_reducible repeat (first | assumption | intro _ | apply keeps_ite | apply keeps_setStg | apply keeps_foldl | apply keeps_fstIte)

theorem keeps_rxmFirst (s : State) (m : Nat) (h : Keeps z s) : Keeps z (rxmFirst s m) := by
  unfold rxmFirst
  with_reducible repeat (first | assumption | intro _ | apply keeps_ite | apply keeps_rxmAge | apply keeps_foldl | apply keeps_fstIte | extract_lets | (simp only [keeps_mk, keeps_parts]))

theorem keeps_canFifoPush (s : State) (k : Nat) (x : CanRx) (h : Keeps z s) : Keeps z (canFifoPush s k x) := by
  unfold canFifoPush
  with_reducible repeat (first | assumption | intro _ | apply keeps_ite | apply keeps_incSat | apply keeps_wr | apply keeps_setCan | apply keeps_foldl | apply keeps_fstIte)

theorem keeps_loadFrame (s : State) (k : Nat) (e : Nat) (f : CanFrame) (h : Keeps z s) : Keeps z (loadFrame s k e f) := by
  unfold loadFrame
  with_reducible repeat (first | assumption | intro _ | apply keeps_ite | apply keeps_setCan | apply keeps_wr | apply keeps_each | apply keeps_wrs | apply keeps_foldl | apply keeps_fstIte)

theorem keeps_loadSbuf (s : State) (k : Nat) (h : Keeps z s) : Keeps z (loadSbuf s k) := by
  unfold loadSbuf
  with_reducible repeat (first | assumption | intro _ | apply keeps_ite | apply keeps_setCan | apply keeps_loadFrame | apply keeps_foldl | apply keeps_fstIte | extract_lets | (simp only [keeps_mk, keeps_parts]) | split)

theorem keeps_rxmTake (s : State) (m : Nat) (f : CanFrame) (h : Keeps z s) : Keeps z (rxmTake s m f) := by
  unfold rxmTake
  with_reducible repeat (first | assumption | intro _ | apply keeps_ite | apply keeps_extractAll | apply keeps_setStg | apply keeps_rxmFirst | apply keeps_foldl | apply keeps_fstIte)

theorem keeps_nextCandidate (s : State) (k : Nat) (h : Keeps z s) : Keeps z (nextCandidate s k) := by
  unfold nextCandidate
  with_reducible repeat (first | assumption | intro _ | apply keeps_ite | apply keeps_incSat | apply keeps_setCan | apply keeps_foldl | apply keeps_fstIte)

theorem keeps_sofGo (s : State) (k : Nat) (h : Keeps z s) : Keeps z (sofGo s k) := by
  unfold sofGo
  with_reducible repeat (first | assumption | intro _ | apply keeps_ite | apply keeps_wr | apply keeps_loadSbuf | apply keeps_foldl | apply keeps_fstIte | extract_lets | (simp only [keeps_mk, keeps_parts]) | split)

theorem keeps_rxmPush (s : State) (k : Nat) (f : CanFrame) (h : Keeps z s) : Keeps z (rxmPush s k f) := by
  unfold rxmPush
  with_reducible repeat (first | assumption | intro _ | apply keeps_ite | apply keeps_rxmTake | apply keeps_foldl | apply keeps_fstIte | extract_lets | (simp only [keeps_mk, keeps_parts]) | split)

theorem keeps_rateLock (s : State) (k : Nat) (h : Keeps z s) : Keeps z (rateLock s k) := by
  unfold rateLock
  with_reducible repeat (first | assumption | intro _ | apply keeps_ite | apply keeps_setCan | apply keeps_wr | apply keeps_wrs | apply keeps_wrW | apply keeps_foldl | apply keeps_fstIte)

theorem keeps_errSettle (s : State) (k : Nat) (h : Keeps z s) : Keeps z (errSettle s k) := by
  unfold errSettle
  with_reducible repeat (first | assumption | intro _ | apply keeps_ite | apply keeps_wrs | apply keeps_raise | apply keeps_wr | apply keeps_busOff | apply keeps_foldl | apply keeps_fstIte)

theorem keeps_canError (s : State) (k : Nat) (kind : Nat) (dataPhase : Bool) (amount : Nat) (h : Keeps z s) : Keeps z (canError s k kind dataPhase amount) := by
  unfold canError
  with_reducible repeat (first | assumption | intro _ | apply keeps_ite | apply keeps_txbBack | apply keeps_errSettle | apply keeps_sofGo | apply keeps_wr | apply keeps_nextCandidate | apply keeps_setCan | apply keeps_incSat | apply keeps_wrs | apply keeps_foldl | apply keeps_fstIte)

theorem keeps_schedJoin (s : State) (k : Nat) (e : Nat) (f : CanFrame) (h : Keeps z s) : Keeps z (schedJoin s k e f) := by
  unfold schedJoin
  with_reducible repeat (first | assumption | intro _ | apply keeps_ite | apply keeps_sofGo | apply keeps_wr | apply keeps_loadFrame | apply keeps_incSat | apply keeps_setCan | apply keeps_foldl | apply keeps_fstIte)

theorem keeps_schedDue (s : State) (tick : Int) (e : Nat) (h : Keeps z s) : Keeps z (schedDue s tick e) := by
  unfold schedDue
  with_reducible repeat (first | assumption | intro _ | apply keeps_ite | apply keeps_schedJoin | apply keeps_incSat | apply keeps_foldl | apply keeps_fstIte)

theorem keeps_canTake (s : State) (k : Nat) (ns : Nat) (f : CanFrame) (h : Keeps z s) : Keeps z (canTake s k ns f) := by
  unfold canTake
  with_reducible repeat (first | assumption | intro _ | apply keeps_ite | apply keeps_rxmPush | apply keeps_errSettle | apply keeps_canFifoPush | apply keeps_wr | apply keeps_used | apply keeps_incWrap | apply keeps_foldl | apply keeps_fstIte)

end Sys2Proof.Machine
end

