-- ==== Sys2Proof/Laws/KeepsCan.lean ====
section
/-! SUPPORT. What the operations of Sys2Proof/Machine/Can.lean keep. -/

set_option linter.unusedSimpArgs false

namespace Sys2Proof.Machine

variable {z : State}

theorem keeps_onCan (s : State) (k : Nat) (f : State → State) (h : Keeps z s) (hf : ∀ u, Keeps z u → Keeps z (f u)) : Keeps z (onCan s k f) := by
  unfold onCan
  exact keeps_whenAlive _ h fun u hu => keeps_ite (hf u hu) hu

theorem keeps_execCanFlushRx (k : Nat) (s : State) (h : Keeps z s) : KeepsOut z (execCanFlushRx k s) := by
  unfold execCanFlushRx
  with_reducible repeat (first | assumption | intro _ | apply keeps_next | apply keeps_outIte | apply keeps_ite | apply keeps_setCan | apply keeps_onCan | apply keeps_foldl | apply keeps_fstIte)

theorem keeps_canPop (s : State) (k : Nat) (h : Keeps z s) (x : CanRx) (t : State) (e : canPop s k = some (x, t)) : Keeps z t := by
  unfold canPop at e
  simp only at e
  split at e
  · split at e
    · cases e; exact keeps_setCan _ _ _ (keeps_wrs _ _ h)
    · split at e
      · cases e
      · cases e; exact keeps_setCan _ _ _ h
  · cases e
  · cases e; exact keeps_setCan _ _ _ h

theorem keeps_execCanPopRx (ini : Nat) (k : Nat) (s : State) (h : Keeps z s) : KeepsOut z (execCanPopRx ini k s) := by
  unfold execCanPopRx
  refine keeps_next (keeps_onCan _ _ _ h fun u hu => ?_)
  split
  · exact hu
  · rename_i x t e
    have ht := keeps_canPop u k hu x t e
    exact keeps_ite ht (keeps_ite hu (keeps_sendEvent _ _ _ _ _ ht))

theorem keeps_execDetSlow (k : Nat) (s : State) (h : Keeps z s) : KeepsOut z (execDetSlow k s) := by
  unfold execDetSlow
  with_reducible repeat (first | assumption | intro _ | apply keeps_next | apply keeps_outIte | apply keeps_ite | apply keeps_wr | apply keeps_setCan | apply keeps_onCan | apply keeps_foldl | apply keeps_fstIte)

theorem keeps_execDwellExpiry (k : Nat) (s : State) (h : Keeps z s) : KeepsOut z (execDwellExpiry k s) := by
  unfold execDwellExpiry
  with_reducible repeat (first | assumption | intro _ | apply keeps_next | apply keeps_outIte | apply keeps_ite | apply keeps_nextCandidate | apply keeps_onCan | apply keeps_foldl | apply keeps_fstIte)

theorem keeps_execCanTxDone (k : Nat) (delay : Nat) (s : State) (h : Keeps z s) : KeepsOut z (execCanTxDone k delay s) := by
  unfold execCanTxDone
  with_reducible repeat (first | assumption | intro _ | apply keeps_next | apply keeps_outIte | apply keeps_ite | apply keeps_emit | apply keeps_errSettle | apply keeps_sofGo | apply keeps_txbLeave | apply keeps_incWrap | apply keeps_wr | apply keeps_used | apply keeps_canError | apply keeps_onCan | apply keeps_foldl | apply keeps_fstIte | extract_lets | (simp only [keeps_mk, keeps_parts]) | split)

theorem keeps_execIntegrateDone (k : Nat) (s : State) (h : Keeps z s) : KeepsOut z (execIntegrateDone k s) := by
  unfold execIntegrateDone
  with_reducible repeat (first | assumption | intro _ | apply keeps_next | apply keeps_outIte | apply keeps_ite | apply keeps_wr | apply keeps_sofGo | apply keeps_onCan | apply keeps_foldl | apply keeps_fstIte)

theorem keeps_execCanDisable (k : Nat) (s : State) (h : Keeps z s) : KeepsOut z (execCanDisable k s) := by
  unfold execCanDisable
  with_reducible repeat (first | assumption | intro _ | apply keeps_next | apply keeps_outIte | apply keeps_ite | apply keeps_wrs | apply keeps_canStop | apply keeps_onCan | apply keeps_foldl | apply keeps_fstIte)

theorem keeps_execTxbReq (k : Nat) (b : Nat) (busy : Bool) (s : State) (h : Keeps z s) : KeepsOut z (execTxbReq k b busy s) := by
  unfold execTxbReq
  with_reducible repeat (first | assumption | intro _ | apply keeps_next | apply keeps_outIte | apply keeps_ite | apply keeps_setCan | apply keeps_sofGo | apply keeps_wrs | apply keeps_onCan | apply keeps_foldl | apply keeps_fstIte)

theorem keeps_execRxmAging (s : State) (h : Keeps z s) : KeepsOut z (execRxmAging s) := by
  unfold execRxmAging
  with_reducible repeat (first | assumption | intro _ | apply keeps_next | apply keeps_outIte | apply keeps_ite | apply keeps_rxmAge | apply keeps_each | apply keeps_toBoundary | apply keeps_whenAlive | apply keeps_foldl | apply keeps_fstIte | extract_lets | (simp only [keeps_mk, keeps_parts]))

theorem keeps_execCanEnable (k : Nat) (s : State) (h : Keeps z s) : KeepsOut z (execCanEnable k s) := by
  unfold execCanEnable
  with_reducible repeat (first | assumption | intro _ | apply keeps_next | apply keeps_outIte | apply keeps_ite | apply keeps_canGo | apply keeps_wr | apply keeps_onCan | apply keeps_foldl | apply keeps_fstIte)

theorem keeps_execTxbCancel (k : Nat) (b : Nat) (s : State) (h : Keeps z s) : KeepsOut z (execTxbCancel k b s) := by
  unfold execTxbCancel
  with_reducible repeat (first | assumption | intro _ | apply keeps_next | apply keeps_outIte | apply keeps_ite | apply keeps_txbCancelled | apply keeps_sofGo | apply keeps_wr | apply keeps_onCan | apply keeps_foldl | apply keeps_fstIte)

theorem keeps_execCanProtocolError (k : Nat) (kind : Nat) (dataPhase : Bool) (amount : Nat) (s : State) (h : Keeps z s) : KeepsOut z (execCanProtocolError k kind dataPhase amount s) := by
  unfold execCanProtocolError
  with_reducible repeat (first | assumption | intro _ | apply keeps_next | apply keeps_outIte | apply keeps_ite | apply keeps_canError | apply keeps_onCan | apply keeps_foldl | apply keeps_fstIte)

theorem keeps_execCanStoppingEnd (k : Nat) (s : State) (h : Keeps z s) : KeepsOut z (execCanStoppingEnd k s) := by
  unfold execCanStoppingEnd
  with_reducible repeat (first | assumption | intro _ | apply keeps_next | apply keeps_outIte | apply keeps_ite | apply keeps_canStopped | apply keeps_onCan | apply keeps_foldl | apply keeps_fstIte)

theorem keeps_execCanRecover (k : Nat) (s : State) (h : Keeps z s) : KeepsOut z (execCanRecover k s) := by
  unfold execCanRecover
  with_reducible repeat (first | assumption | intro _ | apply keeps_next | apply keeps_outIte | apply keeps_ite | apply keeps_setCan | apply keeps_advance | apply keeps_wr | apply keeps_onCan | apply keeps_foldl | apply keeps_fstIte)

theorem keeps_execArbitrationLost (k : Nat) (s : State) (h : Keeps z s) : KeepsOut z (execArbitrationLost k s) := by
  unfold execArbitrationLost
  with_reducible repeat (first | assumption | intro _ | apply keeps_next | apply keeps_outIte | apply keeps_ite | apply keeps_setCan | apply keeps_loadSbuf | apply keeps_txbBack | apply keeps_onCan | apply keeps_foldl | apply keeps_fstIte)

theorem keeps_execCanFrameReceived (dt : Nat) (k : Nat) (back : Nat) (f : CanFrame) (s : State) (h : Keeps z s) : KeepsOut z (execCanFrameReceived dt k back f s) := by
  unfold execCanFrameReceived
  with_reducible repeat (first | assumption | intro _ | apply keeps_next | apply keeps_outIte | apply keeps_ite | apply keeps_canTake | apply keeps_sofGo | apply keeps_rateLock | apply keeps_canError | apply keeps_setCan | apply keeps_onCan | apply keeps_advance | apply keeps_foldl | apply keeps_fstIte)

theorem keeps_execRecoveryDone (k : Nat) (s : State) (h : Keeps z s) : KeepsOut z (execRecoveryDone k s) := by
  unfold execRecoveryDone
  with_reducible repeat (first | assumption | intro _ | apply keeps_next | apply keeps_outIte | apply keeps_ite | apply keeps_wrs | apply keeps_sofGo | apply keeps_onCan | apply keeps_foldl | apply keeps_fstIte)

end Sys2Proof.Machine
end

