-- ==== Sys2Proof/Laws/KeepsChn.lean ====
section
/-! SUPPORT. What the operations of Sys2Proof/Machine/Chn.lean keep. -/

set_option linter.unusedSimpArgs false

namespace Sys2Proof.Machine

variable {z : State}

theorem keeps_execClockStretchTimeout (dt : Nat) (n : Nat) (s : State) (h : Keeps z s) : KeepsOut z (execClockStretchTimeout dt n s) := by
  unfold execClockStretchTimeout
  with_reducible repeat (first | assumption | intro _ | apply keeps_next | apply keeps_outIte | apply keeps_ite | apply keeps_setChn | apply keeps_ferryEnd | apply keeps_lineErr | apply keeps_attemptDone | apply keeps_whenAlive | apply keeps_advance | apply keeps_foldl | apply keeps_fstIte | extract_lets | (simp only [keeps_mk, keeps_parts]) | split)

theorem keeps_execChnTxpush (ini : Nat) (n : Nat) (len : Nat) (s : State) (h : Keeps z s) : KeepsOut z (execChnTxpush ini n len s) := by
  unfold execChnTxpush
  with_reducible repeat (first | assumption | intro _ | apply keeps_next | apply keeps_outIte | apply keeps_ite | apply keeps_setChn | apply keeps_wr | apply keeps_txAbort | apply keeps_answerMgmt | apply keeps_whenAlive | apply keeps_foldl | apply keeps_fstIte)

theorem keeps_execChnFlushRx (n : Nat) (s : State) (h : Keeps z s) : KeepsOut z (execChnFlushRx n s) := by
  unfold execChnFlushRx
  with_reducible repeat (first | assumption | intro _ | apply keeps_next | apply keeps_outIte | apply keeps_ite | apply keeps_setChn | apply keeps_whenAlive | apply keeps_foldl | apply keeps_fstIte)

theorem keeps_execSsiDataTimeout (dt : Nat) (n : Nat) (s : State) (h : Keeps z s) : KeepsOut z (execSsiDataTimeout dt n s) := by
  unfold execSsiDataTimeout
  with_reducible repeat (first | assumption | intro _ | apply keeps_next | apply keeps_outIte | apply keeps_ite | apply keeps_advanceTo | apply keeps_attemptDone | apply keeps_whenAlive | apply keeps_advance | apply keeps_foldl | apply keeps_fstIte | extract_lets | (simp only [keeps_mk, keeps_parts]) | split)

theorem keeps_pmInc (s : State) (h : Keeps z s) : Keeps z (pmInc s) := by
  unfold pmInc
  with_reducible repeat (first | assumption | intro _ | apply keeps_ite | apply keeps_wr | apply keeps_foldl | apply keeps_fstIte)

theorem keeps_execChnPopRx (ini : Nat) (n : Nat) (s : State) (h : Keeps z s) : KeepsOut z (execChnPopRx ini n s) := by
  unfold execChnPopRx
  with_reducible repeat (first | assumption | intro _ | apply keeps_next | apply keeps_outIte | apply keeps_ite | apply keeps_sendEvent | apply keeps_setChn | apply keeps_whenAlive | apply keeps_foldl | apply keeps_fstIte | extract_lets | (simp only [keeps_mk, keeps_parts]) | split)

theorem keeps_execChnStoppingEnd (dt : Nat) (n : Nat) (late : Bool) (s : State) (h : Keeps z s) : KeepsOut z (execChnStoppingEnd dt n late s) := by
  unfold execChnStoppingEnd
  with_reducible repeat (first | assumption | intro _ | apply keeps_next | apply keeps_outIte | apply keeps_ite | apply keeps_xferEnd | apply keeps_advanceTo | apply keeps_chnIdle | apply keeps_whenAlive | apply keeps_advance | apply keeps_foldl | apply keeps_fstIte)

theorem keeps_execTransferStart (dt : Nat) (n : Nat) (sda : Nat) (s : State) (h : Keeps z s) : KeepsOut z (execTransferStart dt n sda s) := by
  unfold execTransferStart
  with_reducible repeat (first | assumption | intro _ | apply keeps_next | apply keeps_outIte | apply keeps_ite | apply keeps_startFrame | apply keeps_startFerry | apply keeps_setChn | apply keeps_endReq | apply keeps_startAttempt | apply keeps_lineErr | apply keeps_attemptDone | apply keeps_wr | apply keeps_advanceTo | apply keeps_whenAlive | apply keeps_advance | apply keeps_foldl | apply keeps_fstIte | extract_lets | (simp only [keeps_mk, keeps_parts]) | split)

theorem keeps_execChnFlushTx (n : Nat) (s : State) (h : Keeps z s) : KeepsOut z (execChnFlushTx n s) := by
  unfold execChnFlushTx
  with_reducible repeat (first | assumption | intro _ | apply keeps_next | apply keeps_outIte | apply keeps_ite | apply keeps_setChn | apply keeps_whenAlive | apply keeps_foldl | apply keeps_fstIte)

theorem keeps_execTransactionTimeout (dt : Nat) (n : Nat) (s : State) (h : Keeps z s) : KeepsOut z (execTransactionTimeout dt n s) := by
  unfold execTransactionTimeout
  with_reducible repeat (first | assumption | intro _ | apply keeps_next | apply keeps_outIte | apply keeps_ite | apply keeps_advanceTo | apply keeps_attemptDone | apply keeps_whenAlive | apply keeps_advance | apply keeps_foldl | apply keeps_fstIte | extract_lets | (simp only [keeps_mk, keeps_parts]) | split)

theorem keeps_execAttemptEnd (dt : Nat) (n : Nat) (resp : List Byte) (line : Bool) (s : State) (h : Keeps z s) : KeepsOut z (execAttemptEnd dt n resp line s) := by
  unfold execAttemptEnd
  with_reducible repeat (first | assumption | intro _ | apply keeps_next | apply keeps_outIte | apply keeps_ite | apply keeps_rxStore | apply keeps_setChn | apply keeps_advanceTo | apply keeps_ferryEnd | apply keeps_attemptDone | apply keeps_lineErr | apply keeps_xferEnd | apply keeps_judgeResponse | apply keeps_collect | apply keeps_whenAlive | apply keeps_advance | apply keeps_foldl | apply keeps_fstIte | extract_lets | (simp only [keeps_mk, keeps_parts]) | split)

theorem keeps_execRxFrameEnd (dt : Nat) (n : Nat) (chars : List (Nat × Nat)) (s : State) (h : Keeps z s) : KeepsOut z (execRxFrameEnd dt n chars s) := by
  unfold execRxFrameEnd
  with_reducible repeat (first | assumption | intro _ | apply keeps_next | apply keeps_outIte | apply keeps_ite | apply keeps_partEnd | apply keeps_rxChar | apply keeps_collect | apply keeps_whenAlive | apply keeps_advance | apply keeps_foldl | apply keeps_fstIte | extract_lets | (simp only [keeps_mk, keeps_parts]) | split)

theorem keeps_execCtsChange (n : Nat) (asserted : Bool) (s : State) (h : Keeps z s) : KeepsOut z (execCtsChange n asserted s) := by
  unfold execCtsChange
  with_reducible repeat (first | assumption | intro _ | apply keeps_next | apply keeps_outIte | apply keeps_ite | apply keeps_setChn | apply keeps_whenAlive | apply keeps_foldl | apply keeps_fstIte | extract_lets | (simp only [keeps_mk, keeps_parts]) | split)

theorem keeps_execChnEnable (n : Nat) (s : State) (h : Keeps z s) : KeepsOut z (execChnEnable n s) := by
  unfold execChnEnable
  with_reducible repeat (first | assumption | intro _ | apply keeps_next | apply keeps_outIte | apply keeps_ite | apply keeps_chnGo | apply keeps_wr | apply keeps_whenAlive | apply keeps_foldl | apply keeps_fstIte)

theorem keeps_clearBad (s : State) (code : Nat) (word : Nat) (h : Keeps z s) : Keeps z (clearBad s code word) := by
  unfold clearBad
  with_reducible repeat (first | assumption | intro _ | apply keeps_ite | apply keeps_foldl | apply keeps_fstIte | extract_lets | (simp only [keeps_mk, keeps_parts]))

theorem keeps_execPmDataAccess (ini : Nat) (w : Option Nat) (s : State) (h : Keeps z s) : KeepsOut z (execPmDataAccess ini w s) := by
  unfold execPmDataAccess
  with_reducible repeat (first | assumption | intro _ | apply keeps_next | apply keeps_outIte | apply keeps_ite | apply keeps_memPutWord | apply keeps_clearBad | apply keeps_answerMgmt | apply keeps_pmInc | apply keeps_emit | apply keeps_whenAlive | apply keeps_foldl | apply keeps_fstIte | extract_lets | (simp only [keeps_mk, keeps_parts]) | split)

theorem keeps_execChnDisable (n : Nat) (s : State) (h : Keeps z s) : KeepsOut z (execChnDisable n s) := by
  unfold execChnDisable
  with_reducible repeat (first | assumption | intro _ | apply keeps_next | apply keeps_outIte | apply keeps_ite | apply keeps_wrs | apply keeps_chnStop | apply keeps_whenAlive | apply keeps_foldl | apply keeps_fstIte)

end Sys2Proof.Machine
end

