-- ==== Sys2Proof/Laws/KeepsDrvOps.lean ====
section
/-! SUPPORT. What the operations of Sys2Proof/Machine/DrvOps.lean keep. -/

set_option linter.unusedSimpArgs false

namespace Sys2Proof.Machine

variable {z : State}

theorem keeps_hoWrite (s : State) (c : Nat) (j : Nat) (bs : List Byte) (h : Keeps z s) : Keeps z (hoWrite s c j bs) := by
  unfold hoWrite
  with_reducible repeat (first | assumption | intro _ | apply keeps_ite | apply keeps_incSat | apply keeps_wr | apply keeps_memPuts | apply keeps_foldl | apply keeps_fstIte)

theorem keeps_setHoPos (s : State) (c : Nat) (j : Nat) (r : Option Nat) (h : Keeps z s) : Keeps z (setHoPos s c j r) := by
  unfold setHoPos
  with_reducible repeat (first | assumption | intro _ | apply keeps_ite | apply keeps_foldl | apply keeps_fstIte | extract_lets | (simp only [keeps_mk, keeps_parts]))

theorem keeps_hoPublishOne (s : State) (c : Nat) (j : Nat) (h : Keeps z s) : Keeps z (hoPublishOne s c j) := by
  simp only [hoPublishOne]
  with_reducible repeat (first | assumption | intro _ | apply keeps_ite | apply keeps_wr | apply keeps_hoWrite | apply keeps_setHoPos | apply keeps_foldl | apply keeps_fstIte | (simp only [keeps_mk, keeps_parts]) | split)

theorem keeps_beltSpeed (s : State) (b : Nat) (h : Keeps z s) : Keeps z (beltSpeed s b) := by
  unfold beltSpeed
  with_reducible repeat (first | assumption | intro _ | apply keeps_ite | apply keeps_wrs | apply keeps_wr | apply keeps_foldl | apply keeps_fstIte | extract_lets | (simp only [keeps_mk, keeps_parts]))

theorem keeps_setWin (s : State) (i : Nat) (w : Option Win) (h : Keeps z s) : Keeps z (setWin s i w) := by
  unfold setWin
  with_reducible repeat (first | assumption | intro _ | apply keeps_ite | apply keeps_foldl | apply keeps_fstIte | extract_lets | (simp only [keeps_mk, keeps_parts]))

theorem keeps_clearRec (s : State) (i : Nat) (h : Keeps z s) : Keeps z (clearRec s i) := by
  unfold clearRec
  with_reducible repeat (first | assumption | intro _ | apply keeps_ite | apply keeps_foldl | apply keeps_fstIte | extract_lets | (simp only [keeps_mk, keeps_parts]))

theorem keeps_recFree (s : State) (i : Nat) (h : Keeps z s) : Keeps z (recFree s i) := by
  unfold recFree
  with_reducible repeat (first | assumption | intro _ | apply keeps_ite | apply keeps_setWin | apply keeps_clearRec | apply keeps_foldl | apply keeps_fstIte | extract_lets | (simp only [keeps_mk, keeps_parts]))

theorem keeps_record (s : State) (e : DrvEvent) (h : Keeps z s) : Keeps z (record s e) := by
  unfold record
  with_reducible repeat (first | assumption | intro _ | apply keeps_ite | apply keeps_foldl | apply keeps_fstIte | extract_lets | (simp only [keeps_mk, keeps_parts]))

theorem keeps_lateFire (s : State) (act : Nat) (cause : Nat) (sn : Nat) (recd : Nat) (obj : Nat) (h : Keeps z s) : Keeps z (lateFire s act cause sn recd obj) := by
  unfold lateFire
  with_reducible repeat (first | assumption | intro _ | apply keeps_ite | apply keeps_raiseOnce | apply keeps_record | apply keeps_incSat | apply keeps_wr | apply keeps_foldl | apply keeps_fstIte)

theorem keeps_armFire (s : State) (act : Nat) (tFire : Int) (anchor : Nat) (belt : Nat) (recd : Nat) (obj : Nat) (h : Keeps z s) : Keeps z (armFire s act tFire anchor belt recd obj).2 := by
  unfold armFire
  with_reducible repeat (first | assumption | intro _ | apply keeps_ite | apply keeps_trgArmBy | apply keeps_queuePush | apply keeps_lateFire | apply keeps_foldl | apply keeps_fstIte | extract_lets | (simp only [keeps_mk, keeps_parts]) | split)

theorem keeps_rearmFires (s : State) (b : Nat) (h : Keeps z s) : Keeps z (rearmFires s b) := by
  unfold rearmFires
  with_reducible repeat (first | assumption | intro _ | apply keeps_ite | apply keeps_armFire | apply keeps_foldl | apply keeps_fstIte | extract_lets | (simp only [keeps_mk, keeps_parts]))

theorem keeps_recDone (s : State) (i : Nat) (h : Keeps z s) : Keeps z (recDone s i) := by
  unfold recDone
  with_reducible repeat (first | assumption | intro _ | apply keeps_ite | apply keeps_wr | apply keeps_setWin | apply keeps_foldl | apply keeps_fstIte)

theorem keeps_recHandoff (s : State) (i : Nat) (c : Nat) (h : Keeps z s) : Keeps z (recHandoff s i c) := by
  unfold recHandoff
  with_reducible repeat (first | assumption | intro _ | apply keeps_ite | apply keeps_record | apply keeps_wrs | apply keeps_setWin | apply keeps_foldl | apply keeps_fstIte | extract_lets | (simp only [keeps_mk, keeps_parts]))

theorem keeps_computeWin (s : State) (i : Nat) (h : Keeps z s) : Keeps z (computeWin s i) := by
  unfold computeWin
  with_reducible repeat (first | assumption | intro _ | apply keeps_ite | apply keeps_setWin | apply keeps_foldl | apply keeps_fstIte)

theorem keeps_onMatch (s : State) (i : Nat) (sn : Nat) (h : Keeps z s) : Keeps z (onMatch s i sn) := by
  unfold onMatch
  with_reducible repeat (first | assumption | intro _ | apply keeps_ite | apply keeps_recDone | apply keeps_recHandoff | apply keeps_wrs | apply keeps_setWin | apply keeps_computeWin | apply keeps_foldl | apply keeps_fstIte | extract_lets | (simp only [keeps_mk, keeps_parts]))

theorem keeps_evalAct (s : State) (i : Nat) (act : Nat) (t16 : Int) (h : Keeps z s) : Keeps z (evalAct s i act t16).2 := by
  unfold evalAct
  with_reducible repeat (first | assumption | intro _ | apply keeps_ite | apply keeps_armFire | apply keeps_used | apply keeps_foldl | apply keeps_fstIte | extract_lets | (simp only [keeps_mk, keeps_parts]) | split)

theorem keeps_evalActs (s : State) (i : Nat) (sn : Nat) (t16 : Int) (h : Keeps z s) : Keeps z (evalActs s i sn t16).2 := by
  unfold evalActs
  exact keeps_foldl_snd _ _ h fun u k hu => keeps_evalAct _ _ _ _ hu

theorem keeps_settle (s : State) (i : Nat) (sn : Nat) (t16 : Int) (anchor : Nat) (dclose : Nat) (acts : Bool) (h : Keeps z s) : Keeps z (settle s i sn t16 anchor dclose acts) := by
  unfold settle
  with_reducible repeat (first | assumption | intro _ | apply keeps_ite | apply keeps_onMatch | apply keeps_recDone | apply keeps_evalActs | apply keeps_wrs | apply keeps_foldl | apply keeps_fstIte | extract_lets | (simp only [keeps_mk, keeps_parts]) | split)

theorem keeps_makeLive (s : State) (i : Nat) (h : Keeps z s) : Keeps z (makeLive s i) := by
  unfold makeLive
  with_reducible repeat (first | assumption | intro _ | apply keeps_ite | apply keeps_wrs | apply keeps_wr | apply keeps_incWrap | apply keeps_foldl | apply keeps_fstIte | extract_lets | (simp only [keeps_mk, keeps_parts]) | split)

theorem keeps_stray (s : State) (sn : Nat) (ns : Nat) (cause : Nat) (obj : Nat) (h : Keeps z s) : Keeps z (stray s sn ns cause obj) := by
  unfold stray
  with_reducible repeat (first | assumption | intro _ | apply keeps_ite | apply keeps_raiseOnce | apply keeps_record | apply keeps_incSat | apply keeps_wr | apply keeps_incWrap | apply keeps_foldl | apply keeps_fstIte)

theorem keeps_createRec (s : State) (sn : Nat) (t16 : Nat) (h : Keeps z s) : Keeps z (createRec s sn t16) := by
  unfold createRec
  with_reducible repeat (first | assumption | intro _ | apply keeps_ite | apply keeps_settle | apply keeps_record | apply keeps_makeLive | apply keeps_incWrap | apply keeps_clearRec | apply keeps_wrs | apply keeps_stray | apply keeps_foldl | apply keeps_fstIte | extract_lets | (simp only [keeps_mk, keeps_parts]) | split)

theorem keeps_holdFires (s : State) (b : Nat) (h : Keeps z s) : Keeps z (holdFires s b) := by
  unfold holdFires
  with_reducible repeat (first | assumption | intro _ | apply keeps_ite | apply keeps_wr | apply keeps_setLate | apply keeps_trgDue | apply keeps_foldl | apply keeps_fstIte | extract_lets | (simp only [keeps_mk, keeps_parts]))

theorem keeps_beltJudge (s : State) (b : Nat) (h : Keeps z s) : Keeps z (beltJudge s b) := by
  unfold beltJudge
  with_reducible repeat (first | assumption | intro _ | apply keeps_ite | apply keeps_rearmFires | apply keeps_computeWin | apply keeps_each | apply keeps_holdFires | apply keeps_wr | apply keeps_foldl | apply keeps_fstIte | extract_lets | (simp only [keeps_mk, keeps_parts]))

theorem keeps_missWindow (s : State) (i : Nat) (w : Win) (h : Keeps z s) : Keeps z (missWindow s i w) := by
  unfold missWindow
  with_reducible repeat (first | assumption | intro _ | apply keeps_ite | apply keeps_recFree | apply keeps_settle | apply keeps_raiseOnce | apply keeps_record | apply keeps_wr | apply keeps_incSat | apply keeps_foldl | apply keeps_fstIte)

theorem keeps_beltSeg (s : State) (b : Nat) (h : Keeps z s) : Keeps z (beltSeg s b) := by
  unfold beltSeg
  with_reducible repeat (first | assumption | intro _ | apply keeps_ite | apply keeps_foldl | apply keeps_fstIte | extract_lets | (simp only [keeps_mk, keeps_parts]))

theorem keeps_noteMatch (s : State) (i : Nat) (h : Keeps z s) : Keeps z (noteMatch s i) := by
  unfold noteMatch
  with_reducible repeat (first | assumption | intro _ | apply keeps_ite | apply keeps_foldl | apply keeps_fstIte | extract_lets | (simp only [keeps_mk, keeps_parts]))

theorem keeps_edgeMatch (s : State) (sn : Nat) (t16 : Nat) (h : Keeps z s) : Keeps z (edgeMatch s sn t16) := by
  unfold edgeMatch
  with_reducible repeat (first | assumption | intro _ | apply keeps_ite | apply keeps_settle | apply keeps_noteMatch | apply keeps_incWrap | apply keeps_incSat | apply keeps_wr | apply keeps_record | apply keeps_stray | apply keeps_createRec | apply keeps_foldl | apply keeps_fstIte | extract_lets | (simp only [keeps_mk, keeps_parts]) | split)

theorem keeps_matchWaiting (before n : Nat) (s : State) (h : Keeps z s) : Keeps z (matchWaiting before n s) := by
  induction n generalizing s with
  | zero => exact h
  | succ n ih =>
    unfold matchWaiting
    split
    · exact h
    · refine keeps_ite h (ih _ ?_)
      have ht : ∀ e, Keeps z { s with drv := { s.drv with waiting := s.drv.waiting.erase e } } := fun e => by
        simp only [keeps_mk, keeps_parts]; exact h
      exact keeps_ite (keeps_edgeMatch _ _ _ (ht _)) (ht _)

theorem keeps_hoTake (s : State) (c : Nat) (j : Nat) (h : Keeps z s) : Keeps z (hoTake s c j) := by
  unfold hoTake
  with_reducible repeat (first | assumption | intro _ | apply keeps_ite | apply keeps_record | apply keeps_computeWin | apply keeps_makeLive | apply keeps_clearRec | apply keeps_wrs | apply keeps_stray | apply keeps_incSat | apply keeps_wr | apply keeps_foldl | apply keeps_fstIte | extract_lets | (simp only [keeps_mk, keeps_parts]) | split)

theorem keeps_destResult (s : State) (r : Nat) (i : Nat) (h : Keeps z s) : Keeps z (destResult s r i) := by
  unfold destResult
  with_reducible repeat (first | assumption | intro _ | apply keeps_ite | apply keeps_wrs | apply keeps_foldl | apply keeps_fstIte)

theorem keeps_destCmd (s : State) (obj : Nat) (dest : Nat) (keep : Bool) (h : Keeps z s) : Keeps z (destCmd s obj dest keep) := by
  simp only [destCmd]
  with_reducible repeat (first | assumption | intro _ | apply keeps_ite | apply keeps_wrs | apply keeps_destResult | apply keeps_foldl | apply keeps_fstIte | (simp only [keeps_mk, keeps_parts]) | split)

theorem keeps_setBeltPos (s : State) (b : Nat) (p : Nat) (h : Keeps z s) : Keeps z (setBeltPos s b p) := by
  unfold setBeltPos
  with_reducible repeat (first | assumption | intro _ | apply keeps_ite | apply keeps_wr | apply keeps_foldl | apply keeps_fstIte | extract_lets | (simp only [keeps_mk, keeps_parts]))

theorem keeps_beltMove (s : State) (b : Nat) (t : Nat) (h : Keeps z s) : Keeps z (beltMove s b t) := by
  unfold beltMove
  with_reducible repeat (first | assumption | intro _ | apply keeps_ite | apply keeps_setBeltPos | apply keeps_foldl | apply keeps_fstIte)

theorem keeps_listEvents (s : State) (t : Nat) (h : Keeps z s) : Keeps z (listEvents s t) := by
  unfold listEvents
  with_reducible repeat (first | assumption | intro _ | apply keeps_ite | apply keeps_each | apply keeps_addSat | apply keeps_wr | apply keeps_foldl | apply keeps_fstIte | extract_lets | (simp only [keeps_mk, keeps_parts]))

theorem keeps_hoPublish (s : State) (h : Keeps z s) : Keeps z (hoPublish s) := by
  unfold hoPublish
  with_reducible repeat (first | assumption | intro _ | apply keeps_ite | apply keeps_hoPublishOne | apply keeps_each | apply keeps_foldl | apply keeps_fstIte)

theorem keeps_drvBelts (s : State) (t : Nat) (h : Keeps z s) : Keeps z (drvBelts s t) := by
  unfold drvBelts
  with_reducible repeat (first | assumption | intro _ | apply keeps_ite | apply keeps_beltJudge | apply keeps_beltSpeed | apply keeps_beltSeg | apply keeps_beltMove | apply keeps_each | apply keeps_foldl | apply keeps_fstIte | extract_lets | (simp only [keeps_mk, keeps_parts]))

end Sys2Proof.Machine
end

