-- ==== Sys2Proof/Laws/KeepsDioIn.lean ====
section
/-! SUPPORT. What the operations of Sys2Proof/Machine/DioIn.lean keep. -/

set_option linter.unusedSimpArgs false

namespace Sys2Proof.Machine

variable {z : State}

theorem keeps_fifoPush (s : State) (n : Nat) (e : Stamp) (h : Keeps z s) : Keeps z (fifoPush s n e) := by
  unfold fifoPush
  with_reducible repeat (first | assumption | intro _ | apply keeps_ite | apply keeps_wrs | apply keeps_setLine | apply keeps_foldl | apply keeps_fstIte)

theorem keeps_sensorSee (s : State) (n : Nat) (e : Stamp) (h : Keeps z s) : Keeps z (sensorSee s n e) := by
  unfold sensorSee
  with_reducible repeat (first | assumption | intro _ | apply keeps_ite | apply keeps_foldl | apply keeps_fstIte | extract_lets | (simp only [keeps_mk, keeps_parts]))

theorem keeps_lineEdge (s : State) (n : Nat) (h : Keeps z s) : Keeps z (lineEdge s n) := by
  unfold lineEdge
  with_reducible repeat (first | assumption | intro _ | apply keeps_ite | apply keeps_fifoPush | apply keeps_capEdge | apply keeps_sensorSee | apply keeps_setLine | apply keeps_wr | apply keeps_foldl | apply keeps_fstIte | extract_lets | (simp only [keeps_mk, keeps_parts]) | split)

theorem keeps_quadIndex (s : State) (d : Nat) (h : Keeps z s) : Keeps z (quadIndex s d) := by
  unfold quadIndex
  with_reducible repeat (first | assumption | intro _ | apply keeps_ite | apply keeps_setQuad | apply keeps_wr | apply keeps_foldl | apply keeps_fstIte)

theorem keeps_quadTake (old : State) (s : State) (d : Nat) (h : Keeps z s) : Keeps z (quadTake old s d) := by
  unfold quadTake
  with_reducible repeat (first | assumption | intro _ | apply keeps_ite | apply keeps_quadIndex | apply keeps_wrI | apply keeps_setQuad | apply keeps_incSat | apply keeps_wr | apply keeps_foldl | apply keeps_fstIte)

theorem keeps_settleLines (n : Nat) (l : List Nat) (s : State) (h : Keeps z s) : Keeps z (settleLines n l s) := by
  induction n generalizing s l with
  | zero => exact h
  | succ n ih =>
    unfold settleLines
    split
    · exact h
    · exact ih _ _ (keeps_each _ _ (keeps_each _ _ h fun u k hu => keeps_lineEdge _ _ hu) fun u k hu => keeps_quadTake _ _ _ hu)

theorem keeps_inputsDue (s : State) (h : Keeps z s) : Keeps z (inputsDue s) := by
  unfold inputsDue
  exact keeps_ite (keeps_settleLines _ _ _ h) h

theorem keeps_fifoPop (s : State) (n : Nat) (h : Keeps z s) : Keeps z (fifoPop s n) := by
  unfold fifoPop
  with_reducible repeat (first | assumption | intro _ | apply keeps_ite | apply keeps_setLine | apply keeps_wrs | apply keeps_foldl | apply keeps_fstIte | extract_lets | (simp only [keeps_mk, keeps_parts]) | split)

theorem keeps_padTake (s : State) (n : Nat) (b : Bool) (h : Keeps z s) : Keeps z (padTake s n b) := by
  unfold padTake
  with_reducible repeat (first | assumption | intro _ | apply keeps_ite | apply keeps_setLine | apply keeps_foldl | apply keeps_fstIte)

end Sys2Proof.Machine
end

