-- ==== Sys2Proof/Laws/KeepsDio.lean ====
section
/-! SUPPORT. What the operations of Sys2Proof/Machine/Dio.lean keep. -/

set_option linter.unusedSimpArgs false

namespace Sys2Proof.Machine

variable {z : State}

theorem keeps_rbClr (s : State) (n : Nat) (h : Keeps z s) : Keeps z (rbClr s n) := by
  unfold rbClr
  with_reducible repeat (first | assumption | intro _ | apply keeps_ite | apply keeps_wr | apply keeps_setLine | apply keeps_wrBit | apply keeps_foldl | apply keeps_fstIte)

theorem keeps_toSlot (s : State) (slot : Nat) (h : Keeps z s) : Keeps z (toSlot s slot) := by
  unfold toSlot
  with_reducible repeat (first | assumption | intro _ | apply keeps_ite | apply keeps_advanceTo | apply keeps_foldl | apply keeps_fstIte)

theorem keeps_execDioEdge (dt : Nat) (edges : List (Nat × Bool)) (s : State) (h : Keeps z s) : KeepsOut z (execDioEdge dt edges s) := by
  unfold execDioEdge
  with_reducible repeat (first | assumption | intro _ | apply keeps_next | apply keeps_outIte | apply keeps_ite | apply keeps_inputsDue | apply keeps_padTake | apply keeps_advance | apply keeps_foldl | apply keeps_fstIte)

theorem keeps_acmAdd (s : State) (key : Nat) (code : Nat) (h : Keeps z s) : Keeps z (acmAdd s key code) := by
  unfold acmAdd
  with_reducible repeat (first | assumption | intro _ | apply keeps_ite | apply keeps_foldl | apply keeps_fstIte | extract_lets | (simp only [keeps_mk, keeps_parts]))

theorem keeps_execAdcConversion (dt : Nat) (a : Nat) (slot : Nat) (code : Nat) (s : State) (h : Keeps z s) : KeepsOut z (execAdcConversion dt a slot code s) := by
  unfold execAdcConversion
  with_reducible repeat (first | assumption | intro _ | apply keeps_next | apply keeps_outIte | apply keeps_ite | apply keeps_wr | apply keeps_acmAdd | apply keeps_toSlot | apply keeps_whenAlive | apply keeps_advance | apply keeps_foldl | apply keeps_fstIte | extract_lets | (simp only [keeps_mk, keeps_parts]) | split)

theorem keeps_avgReturn (s : State) (key : Nat) (h : Keeps z s) : Keeps z (avgReturn s key) := by
  unfold avgReturn
  with_reducible repeat (first | assumption | intro _ | apply keeps_ite | apply keeps_foldl | apply keeps_fstIte | extract_lets | (simp only [keeps_mk, keeps_parts]))

theorem keeps_execAdcAverageReturn (s : State) (h : Keeps z s) : KeepsOut z (execAdcAverageReturn s) := by
  unfold execAdcAverageReturn
  with_reducible repeat (first | assumption | intro _ | apply keeps_next | apply keeps_outIte | apply keeps_ite | apply keeps_avgReturn | apply keeps_each | apply keeps_whenAlive | apply keeps_foldl | apply keeps_fstIte | extract_lets | (simp only [keeps_mk, keeps_parts]))

theorem keeps_zeroCal (a : Nat) (s : State) (p : Nat × Int) (h : Keeps z s) : Keeps z (zeroCal a s p) := by
  unfold zeroCal
  with_reducible repeat (first | assumption | intro _ | apply keeps_ite | apply keeps_wrI | apply keeps_wr | apply keeps_foldl | apply keeps_fstIte)

theorem keeps_execAdcCalibration (a : Nat) (offset : Int) (gain : Nat) (zero : List (Nat × Int)) (s : State) (h : Keeps z s) : KeepsOut z (execAdcCalibration a offset gain zero s) := by
  unfold execAdcCalibration
  with_reducible repeat (first | assumption | intro _ | apply keeps_next | apply keeps_outIte | apply keeps_ite | apply keeps_raise | apply keeps_wrI | apply keeps_wr | apply keeps_wrBit | apply keeps_zeroCal | apply keeps_whenAlive | apply keeps_foldl | apply keeps_fstIte | extract_lets | (simp only [keeps_mk, keeps_parts]))

theorem keeps_execReadbackFault (n : Nat) (s : State) (h : Keeps z s) : KeepsOut z (execReadbackFault n s) := by
  unfold execReadbackFault
  with_reducible repeat (first | assumption | intro _ | apply keeps_next | apply keeps_outIte | apply keeps_ite | apply keeps_raise | apply keeps_setLine | apply keeps_wrBit | apply keeps_wr | apply keeps_whenAlive | apply keeps_foldl | apply keeps_fstIte)

theorem keeps_execRbClr (n : Nat) (s : State) (h : Keeps z s) : KeepsOut z (execRbClr n s) := by
  unfold execRbClr
  with_reducible repeat (first | assumption | intro _ | apply keeps_next | apply keeps_outIte | apply keeps_ite | apply keeps_rbClr | apply keeps_whenAlive | apply keeps_foldl | apply keeps_fstIte)

theorem keeps_qFlush (s : State) (n : Nat) (h : Keeps z s) : Keeps z (qFlush s n) := by
  unfold qFlush
  with_reducible repeat (first | assumption | intro _ | apply keeps_ite | apply keeps_setLine | apply keeps_foldl | apply keeps_fstIte)

theorem keeps_execQueueActionFire (n : Nat) (s : State) (h : Keeps z s) : KeepsOut z (execQueueActionFire n s) := by
  unfold execQueueActionFire
  with_reducible repeat (first | assumption | intro _ | apply keeps_next | apply keeps_outIte | apply keeps_ite | apply keeps_setLine | apply keeps_queueFire | apply keeps_advanceTo | apply keeps_foldl | apply keeps_fstIte | extract_lets | (simp only [keeps_mk, keeps_parts]) | split)

theorem keeps_toPeriod (s : State) (n : Nat) (h : Keeps z s) : Keeps z (toPeriod s n) := by
  unfold toPeriod
  with_reducible repeat (first | assumption | intro _ | apply keeps_ite | apply keeps_advance | apply keeps_foldl | apply keeps_fstIte)

theorem keeps_execPulseTrainPulse (n : Nat) (s : State) (h : Keeps z s) : KeepsOut z (execPulseTrainPulse n s) := by
  unfold execPulseTrainPulse
  with_reducible repeat (first | assumption | intro _ | apply keeps_next | apply keeps_outIte | apply keeps_ite | apply keeps_setLine | apply keeps_toPeriod | apply keeps_foldl | apply keeps_fstIte)

theorem keeps_execQueuePulseEnd (n : Nat) (s : State) (h : Keeps z s) : KeepsOut z (execQueuePulseEnd n s) := by
  unfold execQueuePulseEnd
  with_reducible repeat (first | assumption | intro _ | apply keeps_next | apply keeps_outIte | apply keeps_ite | apply keeps_setLine | apply keeps_lineAct | apply keeps_advanceTo | apply keeps_foldl | apply keeps_fstIte | extract_lets | (simp only [keeps_mk, keeps_parts]) | split)

theorem keeps_execTscanDone (a : Nat) (codes : List (Nat × Nat)) (s : State) (h : Keeps z s) : KeepsOut z (execTscanDone a codes s) := by
  unfold execTscanDone
  with_reducible repeat (first | assumption | intro _ | apply keeps_next | apply keeps_outIte | apply keeps_ite | apply keeps_wrBit | apply keeps_orF | apply keeps_wr | apply keeps_advanceTo | apply keeps_whenAlive | apply keeps_foldl | apply keeps_fstIte | extract_lets | (simp only [keeps_mk, keeps_parts]) | split)

theorem keeps_execQFlush (n : Nat) (s : State) (h : Keeps z s) : KeepsOut z (execQFlush n s) := by
  unfold execQFlush
  with_reducible repeat (first | assumption | intro _ | apply keeps_next | apply keeps_outIte | apply keeps_ite | apply keeps_qFlush | apply keeps_whenAlive | apply keeps_foldl | apply keeps_fstIte)

theorem keeps_execPwmPeriod (n : Nat) (s : State) (h : Keeps z s) : KeepsOut z (execPwmPeriod n s) := by
  unfold execPwmPeriod
  with_reducible repeat (first | assumption | intro _ | apply keeps_next | apply keeps_outIte | apply keeps_ite | apply keeps_setLine | apply keeps_toPeriod | apply keeps_foldl | apply keeps_fstIte)

theorem keeps_execTsPop (n : Nat) (s : State) (h : Keeps z s) : KeepsOut z (execTsPop n s) := by
  unfold execTsPop
  with_reducible repeat (first | assumption | intro _ | apply keeps_next | apply keeps_outIte | apply keeps_ite | apply keeps_fifoPop | apply keeps_foldl | apply keeps_fstIte)

end Sys2Proof.Machine
end

