-- ==== Sys2Proof/Laws/KeepsDrv.lean ====
section
/-! SUPPORT. What the operations of Sys2Proof/Machine/Drv.lean keep. -/

set_option linter.unusedSimpArgs false

namespace Sys2Proof.Machine

variable {z : State}

theorem keeps_execDestCmd (ini : Nat) (obj : Nat) (dest : Nat) (keep : Bool) (s : State) (h : Keeps z s) : KeepsOut z (execDestCmd ini obj dest keep s) := by
  unfold execDestCmd
  with_reducible repeat (first | assumption | intro _ | apply keeps_next | apply keeps_outIte | apply keeps_ite | apply keeps_emit | apply keeps_destCmd | apply keeps_matchWaiting | apply keeps_whenAlive | apply keeps_foldl | apply keeps_fstIte)

theorem keeps_execWindowMissing (i : Nat) (s : State) (h : Keeps z s) : KeepsOut z (execWindowMissing i s) := by
  unfold execWindowMissing
  with_reducible repeat (first | assumption | intro _ | apply keeps_next | apply keeps_outIte | apply keeps_ite | apply keeps_missWindow | apply keeps_matchWaiting | apply keeps_advanceTo | apply keeps_whenAlive | apply keeps_foldl | apply keeps_fstIte | extract_lets | (simp only [keeps_mk, keeps_parts]) | split)

theorem keeps_execRecordFree (i : Nat) (s : State) (h : Keeps z s) : KeepsOut z (execRecordFree i s) := by
  unfold execRecordFree
  with_reducible repeat (first | assumption | intro _ | apply keeps_next | apply keeps_outIte | apply keeps_ite | apply keeps_advanceTo | apply keeps_recFree | apply keeps_whenAlive | apply keeps_foldl | apply keeps_fstIte)

theorem keeps_execSensorEdge (dt : Nat) (sn : Nat) (s : State) (h : Keeps z s) : KeepsOut z (execSensorEdge dt sn s) := by
  unfold execSensorEdge
  with_reducible repeat (first | assumption | intro _ | apply keeps_next | apply keeps_outIte | apply keeps_ite | apply keeps_matchWaiting | apply keeps_whenAlive | apply keeps_advance | apply keeps_foldl | apply keeps_fstIte | extract_lets | (simp only [keeps_mk, keeps_parts]))

theorem keeps_execHandoffIn (c : Nat) (s : State) (h : Keeps z s) : KeepsOut z (execHandoffIn c s) := by
  unfold execHandoffIn
  with_reducible repeat (first | assumption | intro _ | apply keeps_next | apply keeps_outIte | apply keeps_ite | apply keeps_hoTake | apply keeps_whenAlive | apply keeps_foldl | apply keeps_fstIte)

end Sys2Proof.Machine
end

