-- ==== Sys2Proof/Laws/KeepsFlashOps.lean ====
section
/-! SUPPORT. What the operations of Sys2Proof/Machine/FlashOps.lean keep. -/

set_option linter.unusedSimpArgs false

namespace Sys2Proof.Machine

variable {z : State}

theorem keeps_countStart (s : State) (kind : Nat) (k : Nat) (h : Keeps z s) : Keeps z (countStart s kind k) := by
  unfold countStart
  with_reducible repeat (first | assumption | intro _ | apply keeps_ite | apply keeps_norProgram | apply keeps_foldl | apply keeps_fstIte)

theorem keeps_norUnknown (s : State) (off n : Nat) (h : Keeps z s) : Keeps z (norUnknown s off n) := by
  induction n generalizing s off with
  | zero => exact h
  | succ n ih => exact ih _ _ (keeps_memPut _ _ (keeps_used h))

theorem keeps_norFailed (s : State) (off : Nat) (l : List Byte) (h : Keeps z s) : Keeps z (norFailed s off l) := by
  induction l generalizing s off with
  | nil => exact h
  | cons b l ih => exact ih _ _ (keeps_norProgram _ _ (keeps_used h))

theorem keeps_cutShort (s : State) (h : Keeps z s) : Keeps z (cutShort s) := by
  simp only [cutShort]
  with_reducible repeat (first | assumption | intro _ | apply keeps_ite | apply keeps_norUnknown | apply keeps_norFailed | apply keeps_foldl | apply keeps_fstIte | (simp only [keeps_mk, keeps_parts]) | split)

theorem keeps_norPut (s : State) (off : Nat) (n : Nat) (v : Nat) (h : Keeps z s) : Keeps z (norPut s off n v) := by
  unfold norPut
  with_reducible repeat (first | assumption | intro _ | apply keeps_ite | apply keeps_norProgram | apply keeps_foldl | apply keeps_fstIte)

theorem keeps_endStep (s : State) (step : Nat) (result : Nat) (attempts : Nat) (alt : Nat) (tEnd : Nat) (h : Keeps z s) : Keeps z (endStep s step result attempts alt tEnd) := by
  unfold endStep
  with_reducible repeat (first | assumption | intro _ | apply keeps_ite | apply keeps_norProgram | apply keeps_foldl | apply keeps_fstIte | extract_lets | (simp only [keeps_mk, keeps_parts]) | split)

theorem keeps_norHeld (c : Instr) (f : State → State) (s : State) (h : Keeps z s) (hf : ∀ u, Keeps z u → Keeps z (f u)) : Keeps z (norHeld c f s) := by
  unfold norHeld
  refine keeps_ite ?_ (hf s h)
  simp only [keeps_mk, keeps_parts]; exact h

theorem keeps_nvmEcc (s : State) (off : Nat) (h : Keeps z s) : Keeps z (nvmEcc s off) := by
  unfold nvmEcc
  with_reducible repeat (first | assumption | intro _ | apply keeps_ite | apply keeps_incSat | apply keeps_wr | apply keeps_raise | apply keeps_foldl | apply keeps_fstIte)

theorem keeps_countErase (s : State) (b : Nat) (h : Keeps z s) : Keeps z (countErase s b) := by
  unfold countErase
  with_reducible repeat (first | assumption | intro _ | apply keeps_ite | apply keeps_wr | apply keeps_foldl | apply keeps_fstIte | extract_lets | (simp only [keeps_mk, keeps_parts]))

theorem keeps_eraseBlock (s : State) (off : Nat) (h : Keeps z s) : Keeps z (eraseBlock s off) := by
  unfold eraseBlock
  with_reducible repeat (first | assumption | intro _ | apply keeps_ite | apply keeps_countErase | apply keeps_norErase | apply keeps_foldl | apply keeps_fstIte | extract_lets | (simp only [keeps_mk, keeps_parts]) | split)

theorem keeps_recClose (s : State) (off : Nat) (h : Keeps z s) : Keeps z (recClose s off) := by
  unfold recClose
  with_reducible repeat (first | assumption | intro _ | apply keeps_ite | apply keeps_norPut | apply keeps_foldl | apply keeps_fstIte)

theorem keeps_countHour (s : State) (kind : Nat) (k : Nat) (h : Keeps z s) : Keeps z (countHour s kind k) := by
  unfold countHour
  with_reducible repeat (first | assumption | intro _ | apply keeps_ite | apply keeps_norProgram | apply keeps_foldl | apply keeps_fstIte)

theorem keeps_flushSteps (s : State) (h : Keeps z s) : Keeps z (flushSteps s) := by
  unfold flushSteps
  with_reducible repeat (first | assumption | intro _ | apply keeps_ite | apply keeps_norProgram | apply keeps_foldl | apply keeps_fstIte | extract_lets | (simp only [keeps_mk, keeps_parts]) | split)

theorem keeps_endFlags (s : State) (h : Keeps z s) : Keeps z (endFlags s) := by
  unfold endFlags
  with_reducible repeat (first | assumption | intro _ | apply keeps_ite | apply keeps_norPut | apply keeps_foldl | apply keeps_fstIte | extract_lets | (simp only [keeps_mk, keeps_parts]) | split)

theorem keeps_setMark (s : State) (kind : Nat) (k : Nat) (m : Nat) (h : Keeps z s) : Keeps z (setMark s kind k m) := by
  unfold setMark
  with_reducible repeat (first | assumption | intro _ | apply keeps_ite | apply keeps_norPut | apply keeps_foldl | apply keeps_fstIte)

end Sys2Proof.Machine
end

