-- ==== Sys2Proof/Laws/KeepsRst.lean ====
section
/-! SUPPORT. What the operations of Sys2Proof/Machine/Rst.lean keep. -/

set_option linter.unusedSimpArgs false

namespace Sys2Proof.Machine

variable {z : State}

theorem keeps_execRefclkFailure (s : State) (h : Keeps z s) : KeepsOut z (execRefclkFailure s) := by
  unfold execRefclkFailure
  with_reducible repeat (first | assumption | intro _ | apply keeps_next | apply keeps_outIte | apply keeps_ite | apply keeps_orderReset | apply keeps_foldl | apply keeps_fstIte | extract_lets | (simp only [keeps_mk, keeps_parts]))

theorem keeps_execWatchdogSecondExpiry (s : State) (h : Keeps z s) : KeepsOut z (execWatchdogSecondExpiry s) := by
  unfold execWatchdogSecondExpiry
  with_reducible repeat (first | assumption | intro _ | apply keeps_next | apply keeps_outIte | apply keeps_ite | apply keeps_orderReset | apply keeps_foldl | apply keeps_fstIte)

theorem keeps_aonLoss (s : State) (h : Keeps z s) : Keeps z (aonLoss s) := by
  unfold aonLoss
  with_reducible repeat (first | assumption | intro _ | apply keeps_ite | apply keeps_wr | apply keeps_foldl | apply keeps_fstIte | extract_lets | (simp only [keeps_mk, keeps_parts]))

theorem keeps_aonFree (s : State) (h : Keeps z s) : Keeps z (aonFree s) := by
  unfold aonFree
  exact keeps_wrs _ _ (keeps_freshAdd 3 h)

theorem keeps_releaseIfClock (s : State) (h : Keeps z s) : Keeps z (releaseIfClock s) := by
  unfold releaseIfClock
  with_reducible repeat (first | assumption | intro _ | apply keeps_ite | apply keeps_releaseReset | apply keeps_foldl | apply keeps_fstIte)

theorem keeps_execPowerOnReset (aonLost : Bool) (s : State) (h : Keeps z s) : KeepsOut z (execPowerOnReset aonLost s) := by
  unfold execPowerOnReset
  with_reducible repeat (first | assumption | intro _ | apply keeps_next | apply keeps_outIte | apply keeps_ite | apply keeps_aonLoss | apply keeps_aonFree | apply keeps_releaseIfClock | apply keeps_orderReset | apply keeps_foldl | apply keeps_fstIte)

theorem keeps_execHubDomainRelease (s : State) (h : Keeps z s) : KeepsOut z (execHubDomainRelease s) := by
  unfold execHubDomainRelease
  with_reducible repeat (first | assumption | intro _ | apply keeps_next | apply keeps_outIte | apply keeps_ite | apply keeps_advance | apply keeps_releaseReset | apply keeps_foldl | apply keeps_fstIte)

theorem keeps_execSysRstN (lowNs : Nat) (s : State) (h : Keeps z s) : KeepsOut z (execSysRstN lowNs s) := by
  unfold execSysRstN
  with_reducible repeat (first | assumption | intro _ | apply keeps_next | apply keeps_outIte | apply keeps_ite | apply keeps_used | apply keeps_orderReset | apply keeps_releaseIfClock | apply keeps_foldl | apply keeps_fstIte)

theorem keeps_execWatchdogService (s : State) (h : Keeps z s) : KeepsOut z (execWatchdogService s) := by
  unfold execWatchdogService
  with_reducible repeat (first | assumption | intro _ | apply keeps_next | apply keeps_outIte | apply keeps_ite | apply keeps_foldl | apply keeps_fstIte | extract_lets | (simp only [keeps_mk, keeps_parts]))

theorem keeps_execWatchdogFirstExpiry (pairs : Nat) (s : State) (h : Keeps z s) : KeepsOut z (execWatchdogFirstExpiry pairs s) := by
  unfold execWatchdogFirstExpiry
  with_reducible repeat (first | assumption | intro _ | apply keeps_next | apply keeps_outIte | apply keeps_ite | apply keeps_raise | apply keeps_whenAlive | apply keeps_foldl | apply keeps_fstIte | extract_lets | (simp only [keeps_mk, keeps_parts]))

theorem keeps_execRefclkRecovery (s : State) (h : Keeps z s) : KeepsOut z (execRefclkRecovery s) := by
  unfold execRefclkRecovery
  with_reducible repeat (first | assumption | intro _ | apply keeps_next | apply keeps_outIte | apply keeps_ite | apply keeps_releaseReset | apply keeps_foldl | apply keeps_fstIte | extract_lets | (simp only [keeps_mk, keeps_parts]))

end Sys2Proof.Machine
end

