-- ==== Sys2Proof/Laws/KeepsTnk.lean ====
section
/-! SUPPORT. What the operations of Sys2Proof/Machine/Tnk.lean keep. -/

set_option linter.unusedSimpArgs false

namespace Sys2Proof.Machine

variable {z : State}

theorem keeps_fltOk (s : State) (h : Keeps z s) : Keeps z (fltOk s) := by
  unfold fltOk
  with_reducible repeat (first | assumption | intro _ | apply keeps_ite | apply keeps_wr | apply keeps_fltPins | apply keeps_foldl | apply keeps_fstIte | extract_lets | (simp only [keeps_mk, keeps_parts]))

theorem keeps_fltRelease (s : State) (same : List (Nat × Nat)) (h : Keeps z s) : Keeps z (fltRelease s same) := by
  unfold fltRelease
  with_reducible repeat (first | assumption | intro _ | apply keeps_ite | apply keeps_incSat | apply keeps_wr | apply keeps_fltOk | apply keeps_raiseAll | apply keeps_minwSettle | apply keeps_foldl | apply keeps_fstIte)

theorem keeps_execFltRelease (same : List (Nat × Nat)) (s : State) (h : Keeps z s) : KeepsOut z (execFltRelease same s) := by
  unfold execFltRelease
  with_reducible repeat (first | assumption | intro _ | apply keeps_next | apply keeps_outIte | apply keeps_ite | apply keeps_fltRelease | apply keeps_whenAlive | apply keeps_foldl | apply keeps_fstIte)

theorem keeps_sofAll (s : State) (h : Keeps z s) : Keeps z (sofAll s) := by
  unfold sofAll
  with_reducible repeat (first | assumption | intro _ | apply keeps_ite | apply keeps_sofGo | apply keeps_each | apply keeps_foldl | apply keeps_fstIte)

theorem keeps_backInService (s : State) (st : Nat) (ns : Nat) (h : Keeps z s) : Keeps z (backInService s st ns) := by
  unfold backInService
  with_reducible repeat (first | assumption | intro _ | apply keeps_ite | apply keeps_sofAll | apply keeps_brnFollowAll | apply keeps_enterService | apply keeps_foldl | apply keeps_fstIte | extract_lets | (simp only [keeps_mk, keeps_parts]))

theorem keeps_resumeDue (s : State) (h : Keeps z s) : Keeps z (resumeDue s) := by
  simp only [resumeDue]
  with_reducible repeat (first | assumption | intro _ | apply keeps_ite | apply keeps_backInService | apply keeps_foldl | apply keeps_fstIte | (simp only [keeps_mk, keeps_parts]) | split)

theorem keeps_resumeTake (s : State) (h : Keeps z s) : Keeps z (resumeTake s) := by
  unfold resumeTake
  with_reducible repeat (first | assumption | intro _ | apply keeps_ite | apply keeps_advanceTo | apply keeps_resumeDue | apply keeps_foldl | apply keeps_fstIte | extract_lets | (simp only [keeps_mk, keeps_parts]) | split)

theorem keeps_resume (s : State) (h : Keeps z s) : Keeps z (resume s) := by
  unfold resume
  with_reducible repeat (first | assumption | intro _ | apply keeps_ite | apply keeps_incSat | apply keeps_wr | apply keeps_foldl | apply keeps_fstIte | extract_lets | (simp only [keeps_mk, keeps_parts]))

theorem keeps_statClear (s : State) (k : Nat) (mask : Nat) (same : List (Nat × Nat)) (h : Keeps z s) : Keeps z (statClear s k mask same) := by
  unfold statClear
  with_reducible repeat (first | assumption | intro _ | apply keeps_ite | apply keeps_addSat | apply keeps_wr | apply keeps_setStat | apply keeps_setAck | apply keeps_each | apply keeps_raiseFresh | apply keeps_foldl | apply keeps_fstIte)

theorem keeps_execTnkStatClear (k : Nat) (mask : Nat) (same : List (Nat × Nat)) (s : State) (h : Keeps z s) : KeepsOut z (execTnkStatClear k mask same s) := by
  unfold execTnkStatClear
  with_reducible repeat (first | assumption | intro _ | apply keeps_next | apply keeps_outIte | apply keeps_ite | apply keeps_statClear | apply keeps_whenAlive | apply keeps_foldl | apply keeps_fstIte)

theorem keeps_execFltAutoRelease (s : State) (h : Keeps z s) : KeepsOut z (execFltAutoRelease s) := by
  unfold execFltAutoRelease
  with_reducible repeat (first | assumption | intro _ | apply keeps_next | apply keeps_outIte | apply keeps_ite | apply keeps_fltOk | apply keeps_advanceTo | apply keeps_minwSettle | apply keeps_whenAlive | apply keeps_foldl | apply keeps_fstIte)

theorem keeps_ackWrite (s : State) (k : Nat) (mask : Nat) (same : List (Nat × Nat)) (h : Keeps z s) : Keeps z (ackWrite s k mask same) := by
  unfold ackWrite
  with_reducible repeat (first | assumption | intro _ | apply keeps_ite | apply keeps_setAck | apply keeps_each | apply keeps_raiseAll | apply keeps_foldl | apply keeps_fstIte)

theorem keeps_execTnkAckWrite (k : Nat) (mask : Nat) (same : List (Nat × Nat)) (s : State) (h : Keeps z s) : KeepsOut z (execTnkAckWrite k mask same s) := by
  unfold execTnkAckWrite
  with_reducible repeat (first | assumption | intro _ | apply keeps_next | apply keeps_outIte | apply keeps_ite | apply keeps_ackWrite | apply keeps_whenAlive | apply keeps_foldl | apply keeps_fstIte)

theorem keeps_stocktakeErase (half : Nat) (s : State) (h : Keeps z s) : Keeps z (stocktakeErase half s) := by
  unfold stocktakeErase
  with_reducible repeat (first | assumption | intro _ | apply keeps_ite | apply keeps_eraseBlock | apply keeps_each | apply keeps_wrBit | apply keeps_foldl | apply keeps_fstIte)

theorem keeps_execStocktakeErase (half : Nat) (s : State) (h : Keeps z s) : KeepsOut z (execStocktakeErase half s) := by
  unfold execStocktakeErase
  with_reducible repeat (first | assumption | intro _ | apply keeps_next | apply keeps_outIte | apply keeps_ite | apply keeps_stocktakeErase | apply keeps_norHeld | apply keeps_whenAlive | apply keeps_foldl | apply keeps_fstIte)

theorem keeps_bpdReset (s : State) (h : Keeps z s) : Keeps z (bpdReset s) := by
  unfold bpdReset
  with_reducible repeat (first | assumption | intro _ | apply keeps_ite | apply keeps_foldl | apply keeps_fstIte | extract_lets | (simp only [keeps_mk, keeps_parts]))

theorem keeps_monitors (s : State) (temp : Nat) (rails : Nat) (h : Keeps z s) : Keeps z (monitors s temp rails) := by
  unfold monitors
  with_reducible repeat (first | assumption | intro _ | apply keeps_ite | apply keeps_aonLoss | apply keeps_foldl | apply keeps_fstIte | extract_lets | (simp only [keeps_mk, keeps_parts]))

theorem keeps_execFaultRaise (raises : List (Nat × Nat)) (temp : Nat) (rails : Nat) (bpd : Bool) (s : State) (h : Keeps z s) : KeepsOut z (execFaultRaise raises temp rails bpd s) := by
  unfold execFaultRaise
  with_reducible repeat (first | assumption | intro _ | apply keeps_next | apply keeps_outIte | apply keeps_ite | apply keeps_bpdReset | apply keeps_raiseAll | apply keeps_monitors | apply keeps_foldl | apply keeps_fstIte)

theorem keeps_rearm (s : State) (same : List (Nat × Nat)) (h : Keeps z s) : Keeps z (rearm s same) := by
  unfold rearm
  with_reducible repeat (first | assumption | intro _ | apply keeps_ite | apply keeps_wrW | apply keeps_wr | apply keeps_each | apply keeps_raiseAll | apply keeps_foldl | apply keeps_fstIte)

theorem keeps_execFfRearm (same : List (Nat × Nat)) (s : State) (h : Keeps z s) : KeepsOut z (execFfRearm same s) := by
  unfold execFfRearm
  with_reducible repeat (first | assumption | intro _ | apply keeps_next | apply keeps_outIte | apply keeps_ite | apply keeps_rearm | apply keeps_whenAlive | apply keeps_foldl | apply keeps_fstIte)

theorem keeps_execMinwElapsed (s : State) (h : Keeps z s) : KeepsOut z (execMinwElapsed s) := by
  unfold execMinwElapsed
  with_reducible repeat (first | assumption | intro _ | apply keeps_next | apply keeps_outIte | apply keeps_ite | apply keeps_advanceTo | apply keeps_wr | apply keeps_whenAlive | apply keeps_foldl | apply keeps_fstIte)

theorem keeps_execResume (s : State) (h : Keeps z s) : KeepsOut z (execResume s) := by
  unfold execResume
  with_reducible repeat (first | assumption | intro _ | apply keeps_next | apply keeps_outIte | apply keeps_ite | apply keeps_resume | apply keeps_whenAlive | apply keeps_foldl | apply keeps_fstIte)

theorem keeps_execFltReadback (t : Bool) (c : Bool) (s : State) (h : Keeps z s) : KeepsOut z (execFltReadback t c s) := by
  unfold execFltReadback
  with_reducible repeat (first | assumption | intro _ | apply keeps_next | apply keeps_outIte | apply keeps_ite | apply keeps_wr | apply keeps_wrs | apply keeps_foldl | apply keeps_fstIte)

end Sys2Proof.Machine
end

