-- ==== Sys2Proof/Laws/KeepsLdg.lean ====
section
/-! SUPPORT. What the operations of Sys2Proof/Machine/Ldg.lean keep. -/

set_option linter.unusedSimpArgs false

namespace Sys2Proof.Machine

variable {z : State}

theorem keeps_execAliasWrite (ini : Nat) (i : Nat) (off : Nat) (bs : List Byte) (s : State) (h : Keeps z s) : KeepsOut z (execAliasWrite ini i off bs s) := by
  unfold execAliasWrite
  with_reducible repeat (first | assumption | intro _ | apply keeps_next | apply keeps_outIte | apply keeps_ite | apply keeps_emit | apply keeps_aliasWrite | apply keeps_whenAlive | apply keeps_foldl | apply keeps_fstIte)

theorem keeps_execLedgerAging (s : State) (h : Keeps z s) : KeepsOut z (execLedgerAging s) := by
  unfold execLedgerAging
  with_reducible repeat (first | assumption | intro _ | apply keeps_next | apply keeps_outIte | apply keeps_ite | apply keeps_ageAll | apply keeps_resumeDue | apply keeps_degradedReturn | apply keeps_toBoundary | apply keeps_whenAlive | apply keeps_foldl | apply keeps_fstIte | extract_lets | (simp only [keeps_mk, keeps_parts]))

end Sys2Proof.Machine
end

