-- ==== Sys2Proof/Laws/KeepsWeltOps.lean ====
section
/-! SUPPORT. What the operations of Sys2Proof/Machine/WeltOps.lean keep. -/

set_option linter.unusedSimpArgs false

namespace Sys2Proof.Machine

variable {z : State}

theorem keeps_sendNotice (s : State) (p : Nat) (kind : Nat) (h : Keeps z s) : Keeps z (sendNotice s p kind) := by
  unfold sendNotice
  with_reducible repeat (first | assumption | intro _ | apply keeps_ite | apply keeps_ringSend | apply keeps_foldl | apply keeps_fstIte)

theorem keeps_cutTurnBack (s : State) (q : Nat) (h : Keeps z s) : Keeps z (cutTurnBack s q) := by
  unfold cutTurnBack
  with_reducible repeat (first | assumption | intro _ | apply keeps_ite | apply keeps_setPort | apply keeps_emit | apply keeps_foldl | apply keeps_fstIte)

theorem keeps_cutFailed (s : State) (p : Nat) (h : Keeps z s) : Keeps z (cutFailed s p) := by
  unfold cutFailed
  with_reducible repeat (first | assumption | intro _ | apply keeps_ite | apply keeps_emit | apply keeps_setPort | apply keeps_foldl | apply keeps_fstIte)

theorem keeps_wrapPort (s : State) (p : Nat) (h : Keeps z s) : Keeps z (wrapPort s p) := by
  unfold wrapPort
  with_reducible repeat (first | assumption | intro _ | apply keeps_ite | apply keeps_portReason | apply keeps_ownLink | apply keeps_raise | apply keeps_sendNotice | apply keeps_incSat | apply keeps_wr | apply keeps_cutTurnBack | apply keeps_setPort | apply keeps_cutFailed | apply keeps_foldl | apply keeps_fstIte)

theorem keeps_settleTx (s : State) (p : Nat) (h : Keeps z s) : Keeps z (settleTx s p) := by
  unfold settleTx
  with_reducible repeat (first | assumption | intro _ | apply keeps_ite | apply keeps_setPort | apply keeps_each | apply keeps_foldl | apply keeps_fstIte)

theorem keeps_unvalid (s : State) (p : Nat) (h : Keeps z s) : Keeps z (unvalid s p) := by
  unfold unvalid
  with_reducible repeat (first | assumption | intro _ | apply keeps_ite | apply keeps_wr | apply keeps_setPort | apply keeps_foldl | apply keeps_fstIte)

theorem keeps_portTo (s : State) (p : Nat) (st : Nat) (h : Keeps z s) : Keeps z (portTo s p st) := by
  unfold portTo
  with_reducible repeat (first | assumption | intro _ | apply keeps_ite | apply keeps_wrapPort | apply keeps_settleTx | apply keeps_setPort | apply keeps_wr | apply keeps_unvalid | apply keeps_foldl | apply keeps_fstIte)

theorem keeps_setLdly (s : State) (p : Nat) (v : Nat) (h : Keeps z s) : Keeps z (setLdly s p v) := by
  unfold setLdly
  with_reducible repeat (first | assumption | intro _ | apply keeps_ite | apply keeps_wrs | apply keeps_foldl | apply keeps_fstIte)

theorem keeps_portRun (s : State) (p : Nat) (h : Keeps z s) : Keeps z (portRun s p) := by
  unfold portRun
  with_reducible repeat (first | assumption | intro _ | apply keeps_ite | apply keeps_portTo | apply keeps_foldl | apply keeps_fstIte)

theorem keeps_sendUnwrap (s : State) (p : Nat) (kind : Nat) (lap : Nat) (h : Keeps z s) : Keeps z (sendUnwrap s p kind lap) := by
  unfold sendUnwrap
  with_reducible repeat (first | assumption | intro _ | apply keeps_ite | apply keeps_emit | apply keeps_foldl | apply keeps_fstIte)

theorem keeps_holdAgain (s : State) (p : Nat) (h : Keeps z s) : Keeps z (holdAgain s p) := by
  unfold holdAgain
  with_reducible repeat (first | assumption | intro _ | apply keeps_ite | apply keeps_setPort | apply keeps_foldl | apply keeps_fstIte)

theorem keeps_portCtrl (s : State) (p : Nat) (h : Keeps z s) : Keeps z (portCtrl s p) := by
  unfold portCtrl
  with_reducible repeat (first | assumption | intro _ | apply keeps_ite | apply keeps_portRun | apply keeps_portTo | apply keeps_foldl | apply keeps_fstIte)

theorem keeps_toUp (s : State) (p : Nat) (h : Keeps z s) : Keeps z (toUp s p) := by
  unfold toUp
  with_reducible repeat (first | assumption | intro _ | apply keeps_ite | apply keeps_portReason | apply keeps_sendNotice | apply keeps_ownLink | apply keeps_setPort | apply keeps_settleTx | apply keeps_wrs | apply keeps_foldl | apply keeps_fstIte)

theorem keeps_filterSample (s : State) (p : Nat) (x : Int) (h : Keeps z s) : Keeps z (filterSample s p x) := by
  unfold filterSample
  with_reducible repeat (first | assumption | intro _ | apply keeps_ite | apply keeps_setPort | apply keeps_setLdly | apply keeps_wr | apply keeps_unvalid | apply keeps_incWrap | apply keeps_foldl | apply keeps_fstIte)

theorem keeps_declare (s : State) (p : Nat) (rf : Bool) (h : Keeps z s) : Keeps z (declare s p rf) := by
  unfold declare
  with_reducible repeat (first | assumption | intro _ | apply keeps_ite | apply keeps_raise | apply keeps_portTo | apply keeps_wr | apply keeps_wrs | apply keeps_foldl | apply keeps_fstIte)

end Sys2Proof.Machine
end

