-- ==== Sys2Proof/Laws/KeepsStartOps.lean ====
section
/-! SUPPORT. What the operations of Sys2Proof/Machine/StartOps.lean keep. -/

set_option linter.unusedSimpArgs false

namespace Sys2Proof.Machine

variable {z : State}

theorem keeps_inputsBegin (s : State) (h : Keeps z s) : Keeps z (inputsBegin s) := by
  unfold inputsBegin
  with_reducible repeat (first | assumption | intro _ | apply keeps_ite | apply keeps_setLine | apply keeps_each | apply keeps_foldl | apply keeps_fstIte)

theorem keeps_useFw (s : State) (slot : Nat) (h : Keeps z s) : Keeps z (useFw s slot) := by
  simp only [useFw]
  with_reducible repeat (first | assumption | intro _ | apply keeps_ite | apply keeps_norPut | apply keeps_wrs | apply keeps_foldl | apply keeps_fstIte | (simp only [keeps_mk, keeps_parts]) | split)

theorem keeps_stepTo (s : State) (n : Nat) (h : Keeps z s) : Keeps z (stepTo s n) := by
  unfold stepTo
  with_reducible repeat (first | assumption | intro _ | apply keeps_ite | apply keeps_wr | apply keeps_foldl | apply keeps_fstIte)

theorem keeps_startSafe (s : State) (step : Nat) (attempts : Nat) (tEnd : Nat) (bypass : Bool) (h : Keeps z s) : Keeps z (startSafe s step attempts tEnd bypass) := by
  unfold startSafe
  with_reducible repeat (first | assumption | intro _ | apply keeps_ite | apply keeps_wr | apply keeps_enterStill | apply keeps_endStep | apply keeps_endFlags | apply keeps_foldl | apply keeps_fstIte)

theorem keeps_fallBack (s : State) (bit : Nat) (h : Keeps z s) : Keeps z (fallBack s bit) := by
  unfold fallBack
  with_reducible repeat (first | assumption | intro _ | apply keeps_ite | apply keeps_wr | apply keeps_raise | apply keeps_foldl | apply keeps_fstIte)

theorem keeps_selectArea (s : State) (kind : Nat) (h : Keeps z s) : Keeps z (selectArea s kind).1 := by
  unfold selectArea
  with_reducible repeat (first | assumption | intro _ | apply keeps_fstIte | apply keeps_ite | apply keeps_setMark | apply keeps_fallBack | apply keeps_countStart | apply keeps_foldl | apply keeps_fstIte | extract_lets | (simp only [keeps_mk, keeps_parts]) | split)

theorem keeps_st06 (env : StartEnv) (s : State) (h : Keeps z s) : Keeps z (st06 env s) := by
  unfold st06
  with_reducible repeat (first | assumption | intro _ | apply keeps_ite | apply keeps_useFw | apply keeps_endStep | apply keeps_stepTo | apply keeps_startSafe | apply keeps_setMark | apply keeps_fallBack | apply keeps_selectArea | apply keeps_foldl | apply keeps_fstIte | extract_lets | (simp only [keeps_mk, keeps_parts]) | split)

theorem keeps_lastRecord (s : State) (a : Nat) (h : Keeps z s) : Keeps z (lastRecord s a) := by
  unfold lastRecord
  with_reducible repeat (first | assumption | intro _ | apply keeps_ite | apply keeps_norPut | apply keeps_endFlags | apply keeps_foldl | apply keeps_fstIte | extract_lets | (simp only [keeps_mk, keeps_parts]) | split)

theorem keeps_defaultSev (s : State) (h : Keeps z s) : Keeps z (defaultSev s) := by
  unfold defaultSev
  with_reducible repeat (first | assumption | intro _ | apply keeps_ite | apply keeps_wr | apply keeps_foldl | apply keeps_fstIte)

theorem keeps_zeroMemories (s : State) (h : Keeps z s) : Keeps z (zeroMemories s) := by
  exact keeps_memFilter _ h rfl rfl rfl rfl

theorem keeps_lastInUse (s : State) (a : Nat) (version : Nat) (all : Bool) (h : Keeps z s) : Keeps z (lastInUse s a version all) := by
  unfold lastInUse
  with_reducible repeat (first | assumption | intro _ | apply keeps_ite | apply keeps_foldl | apply keeps_fstIte | extract_lets | (simp only [keeps_mk, keeps_parts]))

theorem keeps_lastTrial (s : State) (a : Nat) (h : Keeps z s) : Keeps z (lastTrial s a) := by
  unfold lastTrial
  with_reducible repeat (first | assumption | intro _ | apply keeps_ite | apply keeps_wrs | apply keeps_wr | apply keeps_foldl | apply keeps_fstIte)

theorem keeps_loadSchedule (s : State) (ver : Nat) (tab : List (Nat × Nat)) (h : Keeps z s) : Keeps z (loadSchedule s ver tab) := by
  unfold loadSchedule
  with_reducible repeat (first | assumption | intro _ | apply keeps_ite | apply keeps_loadLayout | apply keeps_wrs | apply keeps_foldl | apply keeps_fstIte | extract_lets | (simp only [keeps_mk, keeps_parts]))

theorem keeps_initUnits (s : State) (h : Keeps z s) : Keeps z (initUnits s) := by
  unfold initUnits
  with_reducible repeat (first | assumption | intro _ | apply keeps_ite | apply keeps_wrs | apply keeps_setStg | apply keeps_wr | apply keeps_each | apply keeps_foldl | apply keeps_fstIte)

theorem keeps_safeImage (s : State) (h : Keeps z s) : Keeps z (safeImage s) := by
  unfold safeImage
  with_reducible repeat (first | assumption | intro _ | apply keeps_ite | apply keeps_wr | apply keeps_each | apply keeps_foldl | apply keeps_fstIte)

theorem keeps_loadLast (s : State) (a : Nat) (h : Keeps z s) : Keeps z (loadLast s a) := by
  unfold loadLast
  with_reducible repeat (first | assumption | intro _ | apply keeps_ite | apply keeps_ownLink | apply keeps_each | apply keeps_routeAll | apply keeps_lastRecord | apply keeps_dioSafe | apply keeps_inputsBegin | apply keeps_lastInUse | apply keeps_lastTrial | apply keeps_loadSchedule | apply keeps_initUnits | apply keeps_safeImage | apply keeps_defaultSev | apply keeps_loadTable | apply keeps_foldl | apply keeps_fstIte)

theorem keeps_st08 (env : StartEnv) (s : State) (h : Keeps z s) : Keeps z (st08 env s) := by
  unfold st08
  with_reducible repeat (first | assumption | intro _ | apply keeps_ite | apply keeps_endStep | apply keeps_wrs | apply keeps_loadLast | apply keeps_setMark | apply keeps_startSafe | apply keeps_selectArea | apply keeps_foldl | apply keeps_fstIte | extract_lets | (simp only [keeps_mk, keeps_parts]) | split)

theorem keeps_checkLog (s : State) (h : Keeps z s) : Keeps z (checkLog s) := by
  unfold checkLog
  with_reducible repeat (first | assumption | intro _ | apply keeps_ite | apply keeps_nvmEcc | apply keeps_foldl | apply keeps_fstIte)

theorem keeps_activateArea (s : State) (kind : Nat) (k : Nat) (starts : Nat) (hours : Nat) (h : Keeps z s) : Keeps z (activateArea s kind k starts hours) := by
  unfold activateArea
  with_reducible repeat (first | assumption | intro _ | apply keeps_ite | apply keeps_setMark | apply keeps_norPut | apply keeps_foldl | apply keeps_fstIte)

theorem keeps_takeRequest (s : State) (h : Keeps z s) : Keeps z (takeRequest s) := by
  unfold takeRequest
  with_reducible repeat (first | assumption | intro _ | apply keeps_ite | apply keeps_wr | apply keeps_activateArea | apply keeps_foldl | apply keeps_fstIte | extract_lets | (simp only [keeps_mk, keeps_parts]) | split)

theorem keeps_st04 (env : StartEnv) (s : State) (h : Keeps z s) : Keeps z (st04 env s) := by
  unfold st04
  with_reducible repeat (first | assumption | intro _ | apply keeps_ite | apply keeps_startSafe | apply keeps_endStep | apply keeps_stepTo | apply keeps_foldl | apply keeps_fstIte)

theorem keeps_openRecord (s : State) (h : Keeps z s) : Keeps z (openRecord s) := by
  unfold openRecord
  with_reducible repeat (first | assumption | intro _ | apply keeps_ite | apply keeps_flushSteps | apply keeps_norPut | apply keeps_norProgram | apply keeps_wr | apply keeps_foldl | apply keeps_fstIte | extract_lets | (simp only [keeps_mk, keeps_parts]) | split)

theorem keeps_findDump (s : State) (h : Keeps z s) : Keeps z (findDump s) := by
  unfold findDump
  with_reducible repeat (first | assumption | intro _ | apply keeps_ite | apply keeps_wrs | apply keeps_foldl | apply keeps_fstIte | extract_lets | (simp only [keeps_mk, keeps_parts]) | split)

theorem keeps_st05 (env : StartEnv) (s : State) (h : Keeps z s) : Keeps z (st05 env s) := by
  unfold st05
  with_reducible repeat (first | assumption | intro _ | apply keeps_ite | apply keeps_endStep | apply keeps_stepTo | apply keeps_openRecord | apply keeps_takeRequest | apply keeps_findDump | apply keeps_checkLog | apply keeps_wrB | apply keeps_startSafe | apply keeps_cutShort | apply keeps_foldl | apply keeps_fstIte | extract_lets | (simp only [keeps_mk, keeps_parts]))

theorem keeps_skipStep (s : State) (step : Nat) (tEnd : Nat) (h : Keeps z s) : Keeps z (skipStep s step tEnd) := by
  unfold skipStep
  with_reducible repeat (first | assumption | intro _ | apply keeps_ite | apply keeps_endStep | apply keeps_wrs | apply keeps_foldl | apply keeps_fstIte)

theorem keeps_st07 (env : StartEnv) (s : State) (h : Keeps z s) : Keeps z (st07 env s) := by
  unfold st07
  with_reducible repeat (first | assumption | intro _ | apply keeps_ite | apply keeps_endStep | apply keeps_startSafe | apply keeps_zeroMemories | apply keeps_skipStep | apply keeps_stepTo | apply keeps_foldl | apply keeps_fstIte)

theorem keeps_st01Pair (s : State) (h : Keeps z s) : Keeps z (st01Pair s) := by
  unfold st01Pair
  with_reducible repeat (first | assumption | intro _ | apply keeps_ite | apply keeps_wr | apply keeps_minwStart | apply keeps_fltPins | apply keeps_foldl | apply keeps_fstIte | extract_lets | (simp only [keeps_mk, keeps_parts]))

theorem keeps_st01 (env : StartEnv) (s : State) (h : Keeps z s) : Keeps z (st01 env s) := by
  unfold st01
  with_reducible repeat (first | assumption | intro _ | apply keeps_ite | apply keeps_st01Pair | apply keeps_endStep | apply keeps_stepTo | apply keeps_raiseAll | apply keeps_foldl | apply keeps_fstIte | extract_lets | (simp only [keeps_mk, keeps_parts]))

theorem keeps_st03 (env : StartEnv) (s : State) (h : Keeps z s) : Keeps z (st03 env s) := by
  unfold st03
  with_reducible repeat (first | assumption | intro _ | apply keeps_ite | apply keeps_startSafe | apply keeps_wr | apply keeps_endStep | apply keeps_stepTo | apply keeps_foldl | apply keeps_fstIte)

theorem keeps_andThen (f : State → State) (s : State) (h : Keeps z s) (hf : ∀ u, Keeps z u → Keeps z (f u)) : Keeps z (andThen f s) := by
  unfold andThen
  exact keeps_ite (hf s h) h

theorem keeps_startUp (env : StartEnv) (s : State) (h : Keeps z s) : Keeps z (startUp env s) := by
  unfold startUp
  with_reducible repeat (first | assumption | intro _ | apply keeps_ite | apply keeps_st01 | apply keeps_st03 | apply keeps_st04 | apply keeps_st05 | apply keeps_st06 | apply keeps_st07 | apply keeps_st08 | apply keeps_andThen | apply keeps_foldl | apply keeps_fstIte)

end Sys2Proof.Machine
end

