-- ==== Sys2Proof/Laws/KeepsStart.lean ====
section
/-! SUPPORT. What the operations of Sys2Proof/Machine/Start.lean keep. -/

set_option linter.unusedSimpArgs false

namespace Sys2Proof.Machine

variable {z : State}

theorem keeps_tried (s : State) (h : Keeps z s) : Keeps z (tried s) := by
  unfold tried
  with_reducible repeat (first | assumption | intro _ | apply keeps_ite | apply keeps_foldl | apply keeps_fstIte | extract_lets | (simp only [keeps_mk, keeps_parts]))

theorem keeps_spurLink (s : State) (sp : Nat) (v : Nat) (h : Keeps z s) : Keeps z (spurLink s sp v) := by
  unfold spurLink
  with_reducible repeat (first | assumption | intro _ | apply keeps_ite | apply keeps_wrs | apply keeps_foldl | apply keeps_fstIte)

theorem keeps_spurLinks (s : State) (l : List (Nat × Nat)) (h : Keeps z s) : Keeps z (spurLinks s l) := by
  unfold spurLinks
  refine keeps_foldl _ _ h fun u k hu => keeps_ite (keeps_spurLink _ _ _ hu) hu

theorem keeps_timeOver (s : State) (h : Keeps z s) : Keeps z (timeOver s) := by
  unfold timeOver
  with_reducible repeat (first | assumption | intro _ | apply keeps_ite | apply keeps_stepTo | apply keeps_setRing | apply keeps_each | apply keeps_foldl | apply keeps_fstIte)

theorem keeps_timeBegin (s : State) (tUs : Nat) (h : Keeps z s) : Keeps z (timeBegin s tUs) := by
  unfold timeBegin
  with_reducible repeat (first | assumption | intro _ | apply keeps_ite | apply keeps_skipStep | apply keeps_wrBit | apply keeps_timeOver | apply keeps_stepTo | apply keeps_bellRestart | apply keeps_foldl | apply keeps_fstIte | extract_lets | (simp only [keeps_mk, keeps_parts]))

theorem keeps_ringEnd (s : State) (result : Nat) (alt : Nat) (spurs : List (Nat × Nat)) (tUs : Nat) (h : Keeps z s) : Keeps z (ringEnd s result alt spurs tUs) := by
  unfold ringEnd
  with_reducible repeat (first | assumption | intro _ | apply keeps_ite | apply keeps_spurLinks | apply keeps_endStep | apply keeps_timeBegin | apply keeps_foldl | apply keeps_fstIte)

theorem keeps_ringExamine (s : State) (spurs : List (Nat × Nat)) (tUs : Nat) (h : Keeps z s) : Keeps z (ringExamine s spurs tUs) := by
  unfold ringExamine
  with_reducible repeat (first | assumption | intro _ | apply keeps_ite | apply keeps_spurLinks | apply keeps_startSafe | apply keeps_ringEnd | apply keeps_foldl | apply keeps_fstIte)

theorem keeps_execRingupRetry (spurs : List (Nat × Nat)) (tUs : Nat) (s : State) (h : Keeps z s) : KeepsOut z (execRingupRetry spurs tUs s) := by
  unfold execRingupRetry
  with_reducible repeat (first | assumption | intro _ | apply keeps_next | apply keeps_outIte | apply keeps_ite | apply keeps_tried | apply keeps_ringExamine | apply keeps_foldl | apply keeps_fstIte)

theorem keeps_releasedAgain (s : State) (h : Keeps z s) : Keeps z (releasedAgain s) := by
  unfold releasedAgain
  with_reducible repeat (first | assumption | intro _ | apply keeps_ite | apply keeps_raiseAll | apply keeps_foldl | apply keeps_fstIte)

theorem keeps_portReasonAt14 (s : State) (h : Keeps z s) : Keeps z (portReasonAt14 s) := by
  unfold portReasonAt14
  with_reducible repeat (first | assumption | intro _ | apply keeps_ite | apply keeps_wrBit | apply keeps_foldl | apply keeps_fstIte)

theorem keeps_st14 (env : JoinEnv) (s : State) (h : Keeps z s) : Keeps z (st14 env s) := by
  unfold st14
  with_reducible repeat (first | assumption | intro _ | apply keeps_ite | apply keeps_backInService | apply keeps_enterStill | apply keeps_minwStart | apply keeps_endStep | apply keeps_recClose | apply keeps_portReasonAt14 | apply keeps_foldl | apply keeps_fstIte | extract_lets | (simp only [keeps_mk, keeps_parts]) | split)

theorem keeps_execSt01Supply (env : StartEnv) (s : State) (h : Keeps z s) : KeepsOut z (execSt01Supply env s) := by
  unfold execSt01Supply
  with_reducible repeat (first | assumption | intro _ | apply keeps_next | apply keeps_outIte | apply keeps_ite | apply keeps_startUp | apply keeps_foldl | apply keeps_fstIte)

theorem keeps_join (s : State) (h : Keeps z s) : Keeps z (join s) := by
  unfold join
  with_reducible repeat (first | assumption | intro _ | apply keeps_ite | apply keeps_wr | apply keeps_wrs | apply keeps_foldl | apply keeps_fstIte | extract_lets | (simp only [keeps_mk, keeps_parts]))

theorem keeps_unitBad (s : State) (h : Keeps z s) : Keeps z (unitBad s) := by
  unfold unitBad
  with_reducible repeat (first | assumption | intro _ | apply keeps_ite | apply keeps_wrBit | apply keeps_foldl | apply keeps_fstIte)

theorem keeps_chnStart (env : JoinEnv) (s : State) (n : Nat) (h : Keeps z s) : Keeps z (chnStart env s n) := by
  unfold chnStart
  with_reducible repeat (first | assumption | intro _ | apply keeps_ite | apply keeps_wr | apply keeps_setChn | apply keeps_foldl | apply keeps_fstIte)

theorem keeps_canBegin (env : JoinEnv) (s : State) (k : Nat) (h : Keeps z s) : Keeps z (canBegin env s k) := by
  unfold canBegin
  with_reducible repeat (first | assumption | intro _ | apply keeps_ite | apply keeps_wr | apply keeps_canStart | apply keeps_setCan | apply keeps_foldl | apply keeps_fstIte)

theorem keeps_st12 (env : JoinEnv) (s : State) (h : Keeps z s) : Keeps z (st12 env s) := by
  unfold st12
  with_reducible repeat (first | assumption | intro _ | apply keeps_ite | apply keeps_endStep | apply keeps_unitBad | apply keeps_chnStart | apply keeps_canBegin | apply keeps_skipStep | apply keeps_releasedAgain | apply keeps_stepTo | apply keeps_setChn | apply keeps_setCan | apply keeps_each | apply keeps_foldl | apply keeps_fstIte)

theorem keeps_brnBegin (env : JoinEnv) (s : State) (n : Nat) (h : Keeps z s) : Keeps z (brnBegin env s n) := by
  unfold brnBegin
  with_reducible repeat (first | assumption | intro _ | apply keeps_ite | apply keeps_wrs | apply keeps_brnRest | apply keeps_brnLimit | apply keeps_setBrn | apply keeps_brnFollow | apply keeps_wr | apply keeps_foldl | apply keeps_fstIte)

theorem keeps_st13 (env : JoinEnv) (s : State) (h : Keeps z s) : Keeps z (st13 env s) := by
  unfold st13
  with_reducible repeat (first | assumption | intro _ | apply keeps_ite | apply keeps_endStep | apply keeps_unitBad | apply keeps_brnBegin | apply keeps_skipStep | apply keeps_stepTo | apply keeps_setBrn | apply keeps_each | apply keeps_brnFollowAll | apply keeps_heldTrips | apply keeps_foldl | apply keeps_fstIte | extract_lets | (simp only [keeps_mk, keeps_parts]))

theorem keeps_whileJoining (f : State → State) (s : State) (h : Keeps z s) (hf : ∀ u, Keeps z u → Keeps z (f u)) : Keeps z (whileJoining f s) := by
  unfold whileJoining
  exact keeps_ite (hf s h) h

theorem keeps_execSt11Join (env : JoinEnv) (s : State) (h : Keeps z s) : KeepsOut z (execSt11Join env s) := by
  unfold execSt11Join
  with_reducible repeat (first | assumption | intro _ | apply keeps_next | apply keeps_outIte | apply keeps_ite | apply keeps_join | apply keeps_endStep | apply keeps_stepTo | apply keeps_st12 | apply keeps_st13 | apply keeps_st14 | apply keeps_whileJoining | apply keeps_lapSync | apply keeps_foldl | apply keeps_fstIte)

theorem keeps_loopback (s : State) (p : Nat) (ok : Bool) (h : Keeps z s) : Keeps z (loopback s p ok) := by
  unfold loopback
  with_reducible repeat (first | assumption | intro _ | apply keeps_ite | apply keeps_setPort | apply keeps_portRun | apply keeps_wrBit | apply keeps_foldl | apply keeps_fstIte)

theorem keeps_ringBegin (s : State) (lbk : List (Nat × Bool)) (h : Keeps z s) : Keeps z (ringBegin s lbk) := by
  unfold ringBegin
  with_reducible repeat (first | assumption | intro _ | apply keeps_ite | apply keeps_raiseAll | apply keeps_loopback | apply keeps_each | apply keeps_tried | apply keeps_foldl | apply keeps_fstIte | extract_lets | (simp only [keeps_mk, keeps_parts]))

theorem keeps_execSt09Ringup (lbk : List (Nat × Bool)) (spurs : List (Nat × Nat)) (tUs : Nat) (s : State) (h : Keeps z s) : KeepsOut z (execSt09Ringup lbk spurs tUs s) := by
  unfold execSt09Ringup
  with_reducible repeat (first | assumption | intro _ | apply keeps_next | apply keeps_outIte | apply keeps_ite | apply keeps_spurLinks | apply keeps_startSafe | apply keeps_ringEnd | apply keeps_ringBegin | apply keeps_foldl | apply keeps_fstIte)

theorem keeps_execJoinAttempt (s : State) (h : Keeps z s) : KeepsOut z (execJoinAttempt s) := by
  unfold execJoinAttempt
  with_reducible repeat (first | assumption | intro _ | apply keeps_next | apply keeps_outIte | apply keeps_ite | apply keeps_tried | apply keeps_foldl | apply keeps_fstIte)

theorem keeps_execSt10Time (limit : Bool) (tUs : Nat) (s : State) (h : Keeps z s) : KeepsOut z (execSt10Time limit tUs s) := by
  unfold execSt10Time
  with_reducible repeat (first | assumption | intro _ | apply keeps_next | apply keeps_outIte | apply keeps_ite | apply keeps_wrBit | apply keeps_endStep | apply keeps_timeOver | apply keeps_foldl | apply keeps_fstIte)

theorem keeps_execBringupTimeout (spurs : List (Nat × Nat)) (tUs : Nat) (s : State) (h : Keeps z s) : KeepsOut z (execBringupTimeout spurs tUs s) := by
  unfold execBringupTimeout
  with_reducible repeat (first | assumption | intro _ | apply keeps_next | apply keeps_outIte | apply keeps_ite | apply keeps_ringExamine | apply keeps_foldl | apply keeps_fstIte)

end Sys2Proof.Machine
end

