-- ==== Sys2Proof/Laws/KeepsTrdOps.lean ====
section
/-! SUPPORT. What the operations of Sys2Proof/Machine/TrdOps.lean keep. -/

set_option linter.unusedSimpArgs false

namespace Sys2Proof.Machine

variable {z : State}

theorem keeps_writeLost (s : State) (x : RuleWrite) (h : Keeps z s) : Keeps z (writeLost s x) := by
  unfold writeLost
  with_reducible repeat (first | assumption | intro _ | apply keeps_ite | apply keeps_wrs | apply keeps_foldl | apply keeps_fstIte)

theorem keeps_logWrite (s : State) (x : RuleWrite) (h : Keeps z s) : Keeps z (logWrite s x) := by
  unfold logWrite
  with_reducible repeat (first | assumption | intro _ | apply keeps_ite | apply keeps_writeLost | apply keeps_foldl | apply keeps_fstIte | extract_lets | (simp only [keeps_mk, keeps_parts]))

theorem keeps_setLane (s : State) (l : Nat) (x : Lane) (h : Keeps z s) : Keeps z (setLane s l x) := by
  unfold setLane
  with_reducible repeat (first | assumption | intro _ | apply keeps_ite | apply keeps_foldl | apply keeps_fstIte | extract_lets | (simp only [keeps_mk, keeps_parts]))

theorem keeps_barRelease (s : State) (h : Keeps z s) : Keeps z (barRelease s) := by
  unfold barRelease
  with_reducible repeat (first | assumption | intro _ | apply keeps_ite | apply keeps_setLane | apply keeps_each | apply keeps_foldl | apply keeps_fstIte)

theorem keeps_illegal (s : State) (n : Nat) (h : Keeps z s) : Keeps z (illegal s n) := by
  unfold illegal
  with_reducible repeat (first | assumption | intro _ | apply keeps_ite | apply keeps_wr | apply keeps_foldl | apply keeps_fstIte)

theorem keeps_laneShow (s : State) (h : Keeps z s) : Keeps z (laneShow s) := by
  unfold laneShow
  with_reducible repeat (first | assumption | intro _ | apply keeps_ite | apply keeps_wr | apply keeps_foldl | apply keeps_fstIte)

theorem keeps_ruleRun (s : State) (l : Nat) (h : Keeps z s) : Keeps z (ruleRun s l) := by
  unfold ruleRun
  with_reducible repeat (first | assumption | intro _ | apply keeps_ite | apply keeps_illegal | apply keeps_logWrite | apply keeps_setLane | apply keeps_barRelease | apply keeps_laneShow | apply keeps_foldl | apply keeps_fstIte)

theorem keeps_writeApply (s : State) (x : RuleWrite) (h : Keeps z s) : Keeps z (writeApply s x) := by
  unfold writeApply
  with_reducible repeat (first | assumption | intro _ | apply keeps_ite | apply keeps_illegal | apply keeps_aliasWrite | apply keeps_wr | apply keeps_foldl | apply keeps_fstIte | extract_lets | (simp only [keeps_mk, keeps_parts]))

theorem keeps_flush (s : State) (c : Nat) (h : Keeps z s) : Keeps z (flush s c) := by
  unfold flush
  with_reducible repeat (first | assumption | intro _ | apply keeps_ite | apply keeps_writeApply | apply keeps_foldl | apply keeps_fstIte | extract_lets | (simp only [keeps_mk, keeps_parts]))

theorem keeps_ruleMeet (s : State) (l : Nat) (stall : Nat) (h : Keeps z s) : Keeps z (ruleMeet s l stall) := by
  unfold ruleMeet
  with_reducible repeat (first | assumption | intro _ | apply keeps_ite | apply keeps_flush | apply keeps_ruleRun | apply keeps_setLane | apply keeps_foldl | apply keeps_fstIte)

theorem keeps_ruleCmd (is : Rule → Bool) (lane : Nat) (stall : Nat) (s : State) (h : Keeps z s) : Keeps z (ruleCmd is lane stall s) := by
  unfold ruleCmd
  with_reducible repeat (first | assumption | intro _ | apply keeps_ite | apply keeps_ruleMeet | apply keeps_foldl | apply keeps_fstIte)

theorem keeps_runLanes (n : Nat) (s : State) (h : Keeps z s) : Keeps z (runLanes n s) := by
  induction n generalizing s with
  | zero => exact h
  | succ n ih =>
    unfold runLanes
    split
    · exact h
    · exact ih _ (keeps_ruleMeet _ _ _ h)

end Sys2Proof.Machine
end

