-- ==== Sys2Proof/Laws/KeepsTrdTick.lean ====
section
/-! SUPPORT. What the operations of Sys2Proof/Machine/TrdTick.lean keep. -/

set_option linter.unusedSimpArgs false

namespace Sys2Proof.Machine

variable {z : State}

theorem keeps_moveImage (s : State) (late : Nat) (h : Keeps z s) : Keeps z (moveImage s late) := by
  unfold moveImage
  with_reducible repeat (first | assumption | intro _ | apply keeps_ite | apply keeps_wr | apply keeps_foldl | apply keeps_fstIte | extract_lets | (simp only [keeps_mk, keeps_parts]))

theorem keeps_toCycle (s : State) (c : Nat) (h : Keeps z s) : Keeps z (toCycle s c) := by
  unfold toCycle
  with_reducible repeat (first | assumption | intro _ | apply keeps_ite | apply keeps_advance | apply keeps_foldl | apply keeps_fstIte)

theorem keeps_p1End (s : State) (late : Nat) (h : Keeps z s) : Keeps z (p1End s late) := by
  unfold p1End
  with_reducible repeat (first | assumption | intro _ | apply keeps_ite | apply keeps_wr | apply keeps_laneShow | apply keeps_moveImage | apply keeps_listEvents | apply keeps_drvBelts | apply keeps_matchWaiting | apply keeps_toCycle | apply keeps_foldl | apply keeps_fstIte | extract_lets | (simp only [keeps_mk, keeps_parts]))

theorem keeps_latchAll (s : State) (n : Int) (late : Bool) (h : Keeps z s) : Keeps z (latchAll s n late) := by
  unfold latchAll
  with_reducible repeat (first | assumption | intro _ | apply keeps_ite | apply keeps_setQuad | apply keeps_each | apply keeps_foldl | apply keeps_fstIte | extract_lets | (simp only [keeps_mk, keeps_parts]))

theorem keeps_armWord (s : State) (w : Nat) (h : Keeps z s) : Keeps z (armWord s w) := by
  unfold armWord
  with_reducible repeat (first | assumption | intro _ | apply keeps_ite | apply keeps_queuePush | apply keeps_trgArmBy | apply keeps_foldl | apply keeps_fstIte)

theorem keeps_armAll (s : State) (h : Keeps z s) : Keeps z (armAll s) := by
  unfold armAll
  with_reducible repeat (first | assumption | intro _ | apply keeps_ite | apply keeps_advance | apply keeps_armWord | apply keeps_each | apply keeps_foldl | apply keeps_fstIte | extract_lets | (simp only [keeps_mk, keeps_parts]))

theorem keeps_levelBit (s : State) (n : Nat) (b : Bool) (h : Keeps z s) : Keeps z (levelBit s n b) := by
  unfold levelBit
  with_reducible repeat (first | assumption | intro _ | apply keeps_ite | apply keeps_trainStart | apply keeps_setLine | apply keeps_foldl | apply keeps_fstIte)

theorem keeps_lineTake (s : State) (n : Nat) (v : Option Bool) (h : Keeps z s) : Keeps z (lineTake s n v) := by
  unfold lineTake
  with_reducible repeat (first | assumption | intro _ | apply keeps_ite | apply keeps_levelBit | apply keeps_dioDrive | apply keeps_foldl | apply keeps_fstIte | extract_lets | (simp only [keeps_mk, keeps_parts]) | split)

theorem keeps_overrun (s : State) (h : Keeps z s) : Keeps z (overrun s) := by
  unfold overrun
  with_reducible repeat (first | assumption | intro _ | apply keeps_ite | apply keeps_raise | apply keeps_wr | apply keeps_incSat | apply keeps_foldl | apply keeps_fstIte | extract_lets | (simp only [keeps_mk, keeps_parts]))

theorem keeps_p2End (s : State) (h : Keeps z s) : Keeps z (p2End s) := by
  unfold p2End
  with_reducible repeat (first | assumption | intro _ | apply keeps_ite | apply keeps_overrun | apply keeps_wrs | apply keeps_flush | apply keeps_laneShow | apply keeps_toCycle | apply keeps_runLanes | apply keeps_foldl | apply keeps_fstIte | extract_lets | (simp only [keeps_mk, keeps_parts]))

theorem keeps_bindAct (s : State) (tgt : Nat) (now : Option Bool) (driven : Bool) (h : Keeps z s) : Keeps z (bindAct s tgt now driven).2 := by
  unfold bindAct
  with_reducible repeat (first | assumption | intro _ | apply keeps_ite | apply keeps_wrB | apply keeps_foldl | apply keeps_fstIte | extract_lets | (simp only [keeps_mk, keeps_parts]) | split)

theorem keeps_specialWords (s : State) (n : Int) (first : Bool) (ovr : Bool) (late : Bool) (skip : Bool) (us : Nat) (h : Keeps z s) : Keeps z (specialWords s n first ovr late skip us) := by
  unfold specialWords
  with_reducible repeat (first | assumption | intro _ | apply keeps_ite | apply keeps_wrs | apply keeps_foldl | apply keeps_fstIte)

theorem keeps_pubReload (s : State) (h : Keeps z s) : Keeps z (pubReload s) := by
  unfold pubReload
  with_reducible repeat (first | assumption | intro _ | apply keeps_ite | apply keeps_memPuts | apply keeps_each | apply keeps_foldl | apply keeps_fstIte)

theorem keeps_imageKept (s : State) (h : Keeps z s) : Keeps z (imageKept s) := by
  unfold imageKept
  with_reducible repeat (first | assumption | intro _ | apply keeps_ite | apply keeps_wr | apply keeps_each | apply keeps_foldl | apply keeps_fstIte)

theorem keeps_brnP3 (img : List (Nat × Word)) (s : State) (n : Nat) (h : Keeps z s) : Keeps z (brnP3 img s n) := by
  unfold brnP3
  with_reducible repeat (first | assumption | intro _ | apply keeps_ite | apply keeps_setBrn | apply keeps_bindAct | apply keeps_foldl | apply keeps_fstIte)

theorem keeps_lineToSafe (s : State) (n : Nat) (h : Keeps z s) : Keeps z (lineToSafe s n) := by
  unfold lineToSafe
  with_reducible repeat (first | assumption | intro _ | apply keeps_ite | apply keeps_setLine | apply keeps_dioDrive | apply keeps_foldl | apply keeps_fstIte)

theorem keeps_lineP3 (img : List (Nat × Word)) (s : State) (n : Nat) (h : Keeps z s) : Keeps z (lineP3 img s n) := by
  unfold lineP3
  with_reducible repeat (first | assumption | intro _ | apply keeps_ite | apply keeps_lineToSafe | apply keeps_lineTake | apply keeps_bindAct | apply keeps_setLine | apply keeps_foldl | apply keeps_fstIte | extract_lets | (simp only [keeps_mk, keeps_parts]) | split)

theorem keeps_outputsP3 (s : State) (img : List (Nat × Word)) (h : Keeps z s) : Keeps z (outputsP3 s img) := by
  unfold outputsP3
  with_reducible repeat (first | assumption | intro _ | apply keeps_ite | apply keeps_brnFollowAll | apply keeps_brnP3 | apply keeps_lineP3 | apply keeps_each | apply keeps_foldl | apply keeps_fstIte | extract_lets | (simp only [keeps_mk, keeps_parts]))

theorem keeps_p3Commit (s : State) (h : Keeps z s) : Keeps z (p3Commit s) := by
  unfold p3Commit
  with_reducible repeat (first | assumption | intro _ | apply keeps_ite | apply keeps_armAll | apply keeps_imageKept | apply keeps_pubReload | apply keeps_hoPublish | apply keeps_pubSwitchAll | apply keeps_outputsP3 | apply keeps_advance | apply keeps_p2End | apply keeps_foldl | apply keeps_fstIte | extract_lets | (simp only [keeps_mk, keeps_parts]))

theorem keeps_p4Launch (s : State) (h : Keeps z s) : Keeps z (p4Launch s) := by
  unfold p4Launch
  with_reducible repeat (first | assumption | intro _ | apply keeps_ite | apply keeps_pollDue | apply keeps_schedDue | apply keeps_each | apply keeps_toCycle | apply keeps_wr | apply keeps_foldl | apply keeps_fstIte | extract_lets | (simp only [keeps_mk, keeps_parts]) | split)

theorem keeps_takeTick (s : State) (n : Int) (late : Bool) (skip : Bool) (h : Keeps z s) : Keeps z (takeTick s n late skip) := by
  unfold takeTick
  have h0 : Keeps z (inputsDue s) := keeps_inputsDue _ h
  extract_lets s0 first us s1 s2 s3 s4 s5
  have h3 : Keeps z s3 := keeps_wrs _ _ (keeps_latchAll _ _ _ (keeps_specialWords _ _ _ _ _ _ _ h0))
  have h4 : Keeps z s4 := keeps_ite (keeps_incSat _ _ (keeps_wr _ _ _ h3)) h3
  have h5 : Keeps z s5 := keeps_ite (keeps_wr _ _ _ h4) h4
  exact (keeps_mk z).2 h5.parts

theorem keeps_tickBoundary (s : State) (h : Keeps z s) : Keeps z (tickBoundary s) := by
  unfold tickBoundary
  with_reducible repeat (first | assumption | intro _ | apply keeps_ite | apply keeps_advanceTo | apply keeps_takeTick | apply keeps_toCycle | apply keeps_foldl | apply keeps_fstIte | extract_lets | (simp only [keeps_mk, keeps_parts]) | split)

end Sys2Proof.Machine
end

