-- ==== Sys2Proof/Laws/KeepsRslOps.lean ====
section
/-! SUPPORT. What the operations of Sys2Proof/Machine/RslOps.lean keep. -/

set_option linter.unusedSimpArgs false

namespace Sys2Proof.Machine

variable {z : State}

theorem keeps_trialShow (s : State) (h : Keeps z s) : Keeps z (trialShow s) := by
  unfold trialShow
  with_reducible repeat (first | assumption | intro _ | apply keeps_ite | apply keeps_wrs | apply keeps_foldl | apply keeps_fstIte)

theorem keeps_setSess (s : State) (kind : Nat) (st : Nat) (h : Keeps z s) : Keeps z (setSess s kind st) := by
  unfold setSess
  with_reducible repeat (first | assumption | intro _ | apply keeps_ite | apply keeps_wr | apply keeps_foldl | apply keeps_fstIte)

theorem keeps_abortKind (s : State) (kind : Nat) (h : Keeps z s) : Keeps z (abortKind s kind) := by
  unfold abortKind
  with_reducible repeat (first | assumption | intro _ | apply keeps_ite | apply keeps_setMark | apply keeps_setSess | apply keeps_foldl | apply keeps_fstIte | extract_lets | (simp only [keeps_mk, keeps_parts]) | split)

theorem keeps_toActivation (s : State) (h : Keeps z s) : Keeps z (toActivation s) := by
  unfold toActivation
  with_reducible repeat (first | assumption | intro _ | apply keeps_ite | apply keeps_advanceTo | apply keeps_toCycle | apply keeps_foldl | apply keeps_fstIte)

theorem keeps_chnParkAll (s : State) (h : Keeps z s) : Keeps z (chnParkAll s) := by
  unfold chnParkAll
  with_reducible repeat (first | assumption | intro _ | apply keeps_ite | apply keeps_chnStop | apply keeps_chnPark | apply keeps_each | apply keeps_foldl | apply keeps_fstIte)

theorem keeps_activate (s : State) (h : Keeps z s) : Keeps z (activate s) := by
  unfold activate
  with_reducible repeat (first | assumption | intro _ | apply keeps_ite | apply keeps_orderReset | apply keeps_recordCauses | apply keeps_toActivation | apply keeps_chnParkAll | apply keeps_foldl | apply keeps_fstIte | extract_lets | (simp only [keeps_mk, keeps_parts]))

theorem keeps_rslGate (s : State) (f : State → State) (h : Keeps z s) (hf : ∀ u, Keeps z u → Keeps z (f u)) : Keeps z (rslGate s f) := by
  unfold rslGate
  exact keeps_whenAlive _ h fun u hu => keeps_ite (keeps_emit _ _ hu) (keeps_ite (keeps_emit _ _ hu) (hf u hu))

theorem bitOf_withBit (n k j : Nat) (h : bitOf n j = true) : bitOf (withBit n k true) j = true := by
  simp only [withBit, if_true, bitOf, Nat.testBit_or, Bool.or_eq_true] at *
  exact .inl h

theorem keeps_keyApply (s : State) (img : List Byte) (h : Keeps z s) : Keeps z (keyApply s img) := by
  unfold keyApply
  dsimp only
  split
  · exact h
  · rename_i ha
    simp only [Bool.not_eq_true', Bool.not_eq_false] at ha
    unfold keyAllowed at ha
    dsimp only at ha
    split
    · rename_i h1
      simp only [h1, if_true, Bool.and_eq_true, Bool.or_eq_true, beq_iff_eq, Bool.not_eq_true'] at ha
      refine h.trans ⟨⟨rfl, id, ?_, Nat.le_refl _⟩⟩
      refine ⟨?_, Nat.le_refl _, fun _ e => e, fun k e => .inl (bitOf_withBit _ _ _ e), ?_⟩
      · intro hl
        show s.otp.lc ≤ (if s.otp.lc = lcBlank then lcProvisioned else s.otp.lc) ∧
          (if s.otp.lc = lcBlank then lcProvisioned else s.otp.lc) ≤ lcReturn
        split
        · rename_i hb; rw [hb]; decide
        · exact ⟨Nat.le_refl _, hl⟩
      · rintro k (hk | hk)
        · refine tget_tput_ne _ _ _ ?_
          rintro rfl
          rw [ha.1.2] at hk; exact absurd hk (by decide)
        · rcases ha.1.1 with hl | hl <;> rw [hl] at hk <;> exact absurd hk (by decide)
    · refine h.trans ⟨⟨rfl, id, ?_, Nat.le_refl _⟩⟩
      exact ⟨fun e => ⟨Nat.le_refl _, e⟩, Nat.le_refl _, fun k e => bitOf_withBit _ _ _ e, fun _ e => .inl e, fun _ _ => rfl⟩

theorem keeps_granTake (kind : Nat) (off : Nat) (bs : List Byte) (s : State) (g : Nat) (h : Keeps z s) : Keeps z (granTake kind off bs s g) := by
  unfold granTake
  with_reducible repeat (first | assumption | intro _ | apply keeps_ite | apply keeps_incWrap | apply keeps_memPuts | apply keeps_norProgram | apply keeps_foldl | apply keeps_fstIte | extract_lets | (simp only [keeps_mk, keeps_parts]))

theorem keeps_blockDo (s : State) (kind : Nat) (off : Nat) (len : Nat) (code : Nat) (h : Keeps z s) : Keeps z (blockDo s kind off len code) := by
  unfold blockDo
  with_reducible repeat (first | assumption | intro _ | apply keeps_ite | apply keeps_granTake | apply keeps_each | apply keeps_norFailed | apply keeps_setSess | apply keeps_wr | apply keeps_incSat | apply keeps_foldl | apply keeps_fstIte)

theorem keeps_sessFail (s : State) (kind : Nat) (h : Keeps z s) : Keeps z (sessFail s kind) := by
  unfold sessFail
  with_reducible repeat (first | assumption | intro _ | apply keeps_ite | apply keeps_setSess | apply keeps_wr | apply keeps_foldl | apply keeps_fstIte)

theorem keeps_rslEnd (s : State) (kinds : List Nat) (code : Nat) (h : Keeps z s) : Keeps z (rslEnd s kinds code) := by
  unfold rslEnd
  with_reducible repeat (first | assumption | intro _ | apply keeps_ite | apply keeps_wr | apply keeps_each | apply keeps_emit | apply keeps_foldl | apply keeps_fstIte)

theorem keeps_confirmKind (s : State) (kind : Nat) (h : Keeps z s) : Keeps z (confirmKind s kind) := by
  unfold confirmKind
  split
  · exact h
  · rename_i k _
    have ht := keeps_setMark _ kind (1 - k) mSuperseded (keeps_setMark _ kind k mConfirmed h)
    dsimp only
    generalize setMark (setMark s kind k mConfirmed) kind (1 - k) mSuperseded = t at ht
    refine ht.trans ⟨⟨rfl, id, ?_, Nat.le_refl _⟩⟩
    exact ⟨fun e => ⟨Nat.le_refl _, e⟩, Nat.le_max_left _ _, fun _ e => e, fun _ e => .inl e, fun _ _ => rfl⟩

theorem keeps_sessOpen (s : State) (session : Nat) (kind : Nat) (size : Nat) (fmt : Nat) (h : Keeps z s) : Keeps z (sessOpen s session kind size fmt) := by
  unfold sessOpen
  with_reducible repeat (first | assumption | intro _ | apply keeps_ite | apply keeps_wrs | apply keeps_foldl | apply keeps_fstIte | extract_lets | (simp only [keeps_mk, keeps_parts]))

theorem keeps_sessSeal (s : State) (kind : Nat) (h : Keeps z s) : Keeps z (sessSeal s kind) := by
  unfold sessSeal
  with_reducible repeat (first | assumption | intro _ | apply keeps_ite | apply keeps_setSess | apply keeps_wr | apply keeps_norProgram | apply keeps_setMark | apply keeps_foldl | apply keeps_fstIte)

theorem keeps_loadPending (s : State) (img : List Byte) (h : Keeps z s) : Keeps z (loadPending s img) := by
  unfold loadPending
  with_reducible repeat (first | assumption | intro _ | apply keeps_ite | apply keeps_wrs | apply keeps_loadLayout | apply keeps_memPutWord | apply keeps_foldl | apply keeps_fstIte | extract_lets | (simp only [keeps_mk, keeps_parts]))

theorem keeps_sessArm (s : State) (kmask : Nat) (tick : Nat) (starts : Nat) (hours : Nat) (full : Bool) (h : Keeps z s) : Keeps z (sessArm s kmask tick starts hours full) := by
  unfold sessArm
  with_reducible repeat (first | assumption | intro _ | apply keeps_ite | apply keeps_setSess | apply keeps_each | apply keeps_wr | apply keeps_foldl | apply keeps_fstIte | extract_lets | (simp only [keeps_mk, keeps_parts]))

end Sys2Proof.Machine
end

