-- ==== Sys2Proof/Laws/KeepsRsl.lean ====
section
/-! SUPPORT. What the operations of Sys2Proof/Machine/Rsl.lean keep. -/

set_option linter.unusedSimpArgs false

namespace Sys2Proof.Machine

variable {z : State}

theorem keeps_rslSeal (session : Nat) (kind : Nat) (s : State) (h : Keeps z s) : Keeps z (rslSeal session kind s) := by
  unfold rslSeal
  with_reducible repeat (first | assumption | intro _ | apply keeps_ite | apply keeps_setSess | apply keeps_rslEnd | apply keeps_foldl | apply keeps_fstIte)

theorem keeps_execRslSeal (session : Nat) (kind : Nat) (s : State) (h : Keeps z s) : KeepsOut z (execRslSeal session kind s) := by
  unfold execRslSeal
  with_reducible repeat (first | assumption | intro _ | apply keeps_next | apply keeps_outIte | apply keeps_ite | apply keeps_rslSeal | apply keeps_rslGate | apply keeps_foldl | apply keeps_fstIte)

theorem keeps_execResoleActivation (s : State) (h : Keeps z s) : KeepsOut z (execResoleActivation s) := by
  unfold execResoleActivation
  with_reducible repeat (first | assumption | intro _ | apply keeps_next | apply keeps_outIte | apply keeps_ite | apply keeps_activate | apply keeps_whenAlive | apply keeps_foldl | apply keeps_fstIte)

theorem keeps_eraseDone (kind : Nat) (s : State) (h : Keeps z s) : Keeps z (eraseDone kind s) := by
  unfold eraseDone
  with_reducible repeat (first | assumption | intro _ | apply keeps_ite | apply keeps_wr | apply keeps_norErase | apply keeps_foldl | apply keeps_fstIte | extract_lets | (simp only [keeps_mk, keeps_parts]) | split)

theorem keeps_schedLoad (session : Nat) (s : State) (h : Keeps z s) : Keeps z (schedLoad session s) := by
  unfold schedLoad
  with_reducible repeat (first | assumption | intro _ | apply keeps_ite | apply keeps_loadPending | apply keeps_rslEnd | apply keeps_foldl | apply keeps_fstIte)

theorem keeps_trialHour (s : State) (h : Keeps z s) : Keeps z (trialHour s) := by
  unfold trialHour
  with_reducible repeat (first | assumption | intro _ | apply keeps_ite | apply keeps_countHour | apply keeps_each | apply keeps_trialShow | apply keeps_foldl | apply keeps_fstIte)

theorem keeps_sealComplete (kind : Nat) (progOk : Bool) (s : State) (h : Keeps z s) : Keeps z (sealComplete kind progOk s) := by
  unfold sealComplete
  with_reducible repeat (first | assumption | intro _ | apply keeps_ite | apply keeps_sessSeal | apply keeps_norFailed | apply keeps_incSat | apply keeps_sessFail | apply keeps_wr | apply keeps_foldl | apply keeps_fstIte)

theorem keeps_execSealComplete (kind : Nat) (progOk : Bool) (s : State) (h : Keeps z s) : KeepsOut z (execSealComplete kind progOk s) := by
  unfold execSealComplete
  with_reducible repeat (first | assumption | intro _ | apply keeps_next | apply keeps_outIte | apply keeps_ite | apply keeps_sealComplete | apply keeps_norHeld | apply keeps_whenAlive | apply keeps_foldl | apply keeps_fstIte)

theorem keeps_execDestinationEraseDone (kind : Nat) (s : State) (h : Keeps z s) : KeepsOut z (execDestinationEraseDone kind s) := by
  unfold execDestinationEraseDone
  with_reducible repeat (first | assumption | intro _ | apply keeps_next | apply keeps_outIte | apply keeps_ite | apply keeps_eraseDone | apply keeps_norHeld | apply keeps_whenAlive | apply keeps_foldl | apply keeps_fstIte)

theorem keeps_rslOpen (session : Nat) (kind : Nat) (size : Nat) (fmt : Nat) (s : State) (h : Keeps z s) : Keeps z (rslOpen session kind size fmt s) := by
  unfold rslOpen
  with_reducible repeat (first | assumption | intro _ | apply keeps_ite | apply keeps_sessOpen | apply keeps_rslEnd | apply keeps_foldl | apply keeps_fstIte)

theorem keeps_rslBlock (session : Nat) (kind : Nat) (off : Nat) (len : Nat) (crc : Nat) (progOk : Bool) (s : State) (h : Keeps z s) : Keeps z (rslBlock session kind off len crc progOk s) := by
  unfold rslBlock
  with_reducible repeat (first | assumption | intro _ | apply keeps_ite | apply keeps_blockDo | apply keeps_rslEnd | apply keeps_foldl | apply keeps_fstIte)

theorem keeps_execRslBlock (session : Nat) (kind : Nat) (off : Nat) (len : Nat) (crc : Nat) (progOk : Bool) (s : State) (h : Keeps z s) : KeepsOut z (execRslBlock session kind off len crc progOk s) := by
  unfold execRslBlock
  with_reducible repeat (first | assumption | intro _ | apply keeps_next | apply keeps_outIte | apply keeps_ite | apply keeps_rslBlock | apply keeps_norHeld | apply keeps_rslGate | apply keeps_foldl | apply keeps_fstIte)

theorem keeps_execKeyActivation (s : State) (h : Keeps z s) : KeepsOut z (execKeyActivation s) := by
  unfold execKeyActivation
  with_reducible repeat (first | assumption | intro _ | apply keeps_next | apply keeps_outIte | apply keeps_ite | apply keeps_keyApply | apply keeps_setSess | apply keeps_toActivation | apply keeps_whenAlive | apply keeps_foldl | apply keeps_fstIte)

theorem keeps_execRslOpen (session : Nat) (kind : Nat) (size : Nat) (fmt : Nat) (s : State) (h : Keeps z s) : KeepsOut z (execRslOpen session kind size fmt s) := by
  unfold execRslOpen
  with_reducible repeat (first | assumption | intro _ | apply keeps_next | apply keeps_outIte | apply keeps_ite | apply keeps_rslOpen | apply keeps_rslGate | apply keeps_foldl | apply keeps_fstIte)

theorem keeps_rslActivate (session : Nat) (kmask : Nat) (tick : Nat) (starts : Nat) (hours : Nat) (full : Bool) (s : State) (h : Keeps z s) : Keeps z (rslActivate session kmask tick starts hours full s) := by
  unfold rslActivate
  with_reducible repeat (first | assumption | intro _ | apply keeps_ite | apply keeps_sessArm | apply keeps_rslEnd | apply keeps_foldl | apply keeps_fstIte)

theorem keeps_execRslActivate (session : Nat) (kmask : Nat) (tick : Nat) (starts : Nat) (hours : Nat) (full : Bool) (s : State) (h : Keeps z s) : KeepsOut z (execRslActivate session kmask tick starts hours full s) := by
  unfold execRslActivate
  with_reducible repeat (first | assumption | intro _ | apply keeps_next | apply keeps_outIte | apply keeps_ite | apply keeps_rslActivate | apply keeps_rslGate | apply keeps_foldl | apply keeps_fstIte)

theorem keeps_rslAbort (kmask : Nat) (s : State) (h : Keeps z s) : Keeps z (rslAbort kmask s) := by
  unfold rslAbort
  with_reducible repeat (first | assumption | intro _ | apply keeps_ite | apply keeps_abortKind | apply keeps_each | apply keeps_trialShow | apply keeps_rslEnd | apply keeps_foldl | apply keeps_fstIte)

theorem keeps_rslConfirm (kmask : Nat) (s : State) (h : Keeps z s) : Keeps z (rslConfirm kmask s) := by
  unfold rslConfirm
  with_reducible repeat (first | assumption | intro _ | apply keeps_ite | apply keeps_confirmKind | apply keeps_each | apply keeps_wr | apply keeps_trialShow | apply keeps_rslEnd | apply keeps_foldl | apply keeps_fstIte)

theorem keeps_execRslConfirm (kmask : Nat) (s : State) (h : Keeps z s) : KeepsOut z (execRslConfirm kmask s) := by
  unfold execRslConfirm
  with_reducible repeat (first | assumption | intro _ | apply keeps_next | apply keeps_outIte | apply keeps_ite | apply keeps_rslConfirm | apply keeps_norHeld | apply keeps_rslGate | apply keeps_foldl | apply keeps_fstIte)

theorem keeps_execRslAbort (kmask : Nat) (s : State) (h : Keeps z s) : KeepsOut z (execRslAbort kmask s) := by
  unfold execRslAbort
  with_reducible repeat (first | assumption | intro _ | apply keeps_next | apply keeps_outIte | apply keeps_ite | apply keeps_rslAbort | apply keeps_norHeld | apply keeps_rslGate | apply keeps_foldl | apply keeps_fstIte)

theorem keeps_execSchedLoad (session : Nat) (s : State) (h : Keeps z s) : KeepsOut z (execSchedLoad session s) := by
  unfold execSchedLoad
  with_reducible repeat (first | assumption | intro _ | apply keeps_next | apply keeps_outIte | apply keeps_ite | apply keeps_schedLoad | apply keeps_rslGate | apply keeps_foldl | apply keeps_fstIte)

theorem keeps_execTrialHour (s : State) (h : Keeps z s) : KeepsOut z (execTrialHour s) := by
  unfold execTrialHour
  with_reducible repeat (first | assumption | intro _ | apply keeps_next | apply keeps_outIte | apply keeps_ite | apply keeps_trialHour | apply keeps_norHeld | apply keeps_whenAlive | apply keeps_foldl | apply keeps_fstIte)

end Sys2Proof.Machine
end

