-- ==== Sys2Proof/Laws/KeepsSys.lean ====
section
/-! SUPPORT. What the operations of Sys2Proof/Machine/Sys.lean keep. -/

set_option linter.unusedSimpArgs false

namespace Sys2Proof.Machine

variable {z : State}

theorem keeps_execJtagBypass (s : State) (h : Keeps z s) : KeepsOut z (execJtagBypass s) := by
  unfold execJtagBypass
  with_reducible repeat (first | assumption | intro _ | apply keeps_next | apply keeps_outIte | apply keeps_ite | apply keeps_emit | apply keeps_foldl | apply keeps_fstIte)

theorem keeps_lcRefuse (s : State) (ini : Nat) (h : Keeps z s) : Keeps z (lcRefuse s ini) := by
  unfold lcRefuse
  with_reducible repeat (first | assumption | intro _ | apply keeps_ite | apply keeps_wr | apply keeps_answerMgmt | apply keeps_foldl | apply keeps_fstIte)

theorem keeps_nvmStart (s : State) (ini : Nat) (op : Nat) (page : List Byte) (h : Keeps z s) : Keeps z (nvmStart s ini op page) := by
  unfold nvmStart
  with_reducible repeat (first | assumption | intro _ | apply keeps_ite | apply keeps_wr | apply keeps_answerMgmt | apply keeps_foldl | apply keeps_fstIte | extract_lets | (simp only [keeps_mk, keeps_parts]))

theorem keeps_putVerdict (s : State) (result : Nat) (h : Keeps z s) : Keeps z (putVerdict s result) := by
  unfold putVerdict
  with_reducible repeat (first | assumption | intro _ | apply keeps_ite | apply keeps_wrs | apply keeps_foldl | apply keeps_fstIte)

theorem keeps_shutDone (s : State) (h : Keeps z s) : Keeps z (shutDone s) := by
  unfold shutDone
  with_reducible repeat (first | assumption | intro _ | apply keeps_ite | apply keeps_foldl | apply keeps_fstIte | extract_lets | (simp only [keeps_mk, keeps_parts]))

theorem keeps_shutAbort (s : State) (h : Keeps z s) : Keeps z (shutAbort s) := by
  unfold shutAbort
  with_reducible repeat (first | assumption | intro _ | apply keeps_ite | apply keeps_orderReset | apply keeps_putVerdict | apply keeps_shutDone | apply keeps_foldl | apply keeps_fstIte)

theorem keeps_mergeLose (s : State) (word : Nat) (h : Keeps z s) : Keeps z (mergeLose s word) := by
  unfold mergeLose
  with_reducible repeat (first | assumption | intro _ | apply keeps_ite | apply keeps_foldl | apply keeps_fstIte | extract_lets | (simp only [keeps_mk, keeps_parts]) | split)

theorem keeps_execLcReturn (ini : Nat) (s : State) (h : Keeps z s) : KeepsOut z (execLcReturn ini s) := by
  unfold execLcReturn
  refine keeps_next (keeps_whenAlive _ h fun u hu => ?_)
  split
  · have ha := (keeps_answerMgmt u ini scOk (Keeps.refl u)).parts
    refine keeps_orderReset _ _ (hu.trans ⟨⟨ha.pending, ha.mem, ?_, ha.fresh⟩⟩)
    exact ⟨fun e => ⟨e, Nat.le_refl _⟩, Nat.le_refl _, fun _ e => e, fun _ _ => .inr rfl, fun _ _ => rfl⟩
  · exact keeps_lcRefuse _ _ hu

theorem keeps_markBad (s : State) (memc : Nat) (word : Nat) (h : Keeps z s) : Keeps z (markBad s memc word) := by
  unfold markBad
  with_reducible repeat (first | assumption | intro _ | apply keeps_ite | apply keeps_foldl | apply keeps_fstIte | extract_lets | (simp only [keeps_mk, keeps_parts]))

theorem keeps_keptAsRead (s : State) (memc : Nat) (word : Nat) (h : Keeps z s) : Keeps z (keptAsRead s memc word) := by
  unfold keptAsRead
  with_reducible repeat (first | assumption | intro _ | apply keeps_ite | apply keeps_setCellWord | apply keeps_wr | apply keeps_memPutWord | apply keeps_markBad | apply keeps_used | apply keeps_foldl | apply keeps_fstIte | extract_lets | (simp only [keeps_mk, keeps_parts]) | split)

theorem keeps_tableErr (s : State) (h : Keeps z s) : Keeps z (tableErr s) := by
  unfold tableErr
  with_reducible repeat (first | assumption | intro _ | apply keeps_ite | apply keeps_wrs | apply keeps_foldl | apply keeps_fstIte)

theorem keeps_eccDrop (s : State) (e : Nat) (h : Keeps z s) : Keeps z (eccDrop s e) := by
  unfold eccDrop
  with_reducible repeat (first | assumption | intro _ | apply keeps_ite | apply keeps_updateEntry | apply keeps_wr | apply keeps_foldl | apply keeps_fstIte)

theorem keeps_payloadBad (s : State) (word : Nat) (h : Keeps z s) : Keeps z (payloadBad s word) := by
  unfold payloadBad
  with_reducible repeat (first | assumption | intro _ | apply keeps_ite | apply keeps_markBad | apply keeps_eccDrop | apply keeps_foldl | apply keeps_fstIte | extract_lets | (simp only [keeps_mk, keeps_parts]))

theorem keeps_eccLose (s : State) (memc : Nat) (word : Nat) (h : Keeps z s) : Keeps z (eccLose s memc word) := by
  unfold eccLose
  with_reducible repeat (first | assumption | intro _ | apply keeps_ite | apply keeps_keptAsRead | apply keeps_mergeLose | apply keeps_wrs | apply keeps_markBad | apply keeps_tableErr | apply keeps_eccDrop | apply keeps_payloadBad | apply keeps_foldl | apply keeps_fstIte | extract_lets | (simp only [keeps_mk, keeps_parts]))

theorem keeps_writeShutRecord (s : State) (tUs : Nat) (h : Keeps z s) : Keeps z (writeShutRecord s tUs) := by
  unfold writeShutRecord
  with_reducible repeat (first | assumption | intro _ | apply keeps_ite | apply keeps_recClose | apply keeps_norPut | apply keeps_norProgram | apply keeps_foldl | apply keeps_fstIte | extract_lets | (simp only [keeps_mk, keeps_parts]) | split)

theorem keeps_smemCount (s : State) (memc : Nat) (unc : Bool) (h : Keeps z s) : Keeps z (smemCount s memc unc) := by
  unfold smemCount
  with_reducible repeat (first | assumption | intro _ | apply keeps_ite | apply keeps_incSat | apply keeps_wr | apply keeps_foldl | apply keeps_fstIte)

theorem keeps_execJtagSamplePreload (s : State) (h : Keeps z s) : KeepsOut z (execJtagSamplePreload s) := by
  unfold execJtagSamplePreload
  with_reducible repeat (first | assumption | intro _ | apply keeps_next | apply keeps_outIte | apply keeps_ite | apply keeps_used | apply keeps_emit | apply keeps_foldl | apply keeps_fstIte)

theorem keeps_execShutdownRecord (tUs : Nat) (s : State) (h : Keeps z s) : KeepsOut z (execShutdownRecord tUs s) := by
  unfold execShutdownRecord
  with_reducible repeat (first | assumption | intro _ | apply keeps_next | apply keeps_outIte | apply keeps_ite | apply keeps_releaseReset | apply keeps_writeShutRecord | apply keeps_shutDone | apply keeps_foldl | apply keeps_fstIte)

theorem keeps_execLbistEnd (misr : BitVec 32) (s : State) (h : Keeps z s) : KeepsOut z (execLbistEnd misr s) := by
  unfold execLbistEnd
  with_reducible repeat (first | assumption | intro _ | apply keeps_next | apply keeps_outIte | apply keeps_ite | apply keeps_putVerdict | apply keeps_wr | apply keeps_advanceTo | apply keeps_foldl | apply keeps_fstIte | extract_lets | (simp only [keeps_mk, keeps_parts]))

theorem keeps_scrubPass (s : State) (pass : Option Nat) (h : Keeps z s) : Keeps z (scrubPass s pass) := by
  unfold scrubPass
  with_reducible repeat (first | assumption | intro _ | apply keeps_ite | apply keeps_incWrap | apply keeps_wr | apply keeps_foldl | apply keeps_fstIte | extract_lets | (simp only [keeps_mk, keeps_parts]) | split)

theorem keeps_eccReport (s : State) (memc : Nat) (word : Nat) (unc : Bool) (h : Keeps z s) : Keeps z (eccReport s memc word unc) := by
  unfold eccReport
  with_reducible repeat (first | assumption | intro _ | apply keeps_ite | apply keeps_raise | apply keeps_wrs | apply keeps_smemCount | apply keeps_foldl | apply keeps_fstIte | extract_lets | (simp only [keeps_mk, keeps_parts]))

theorem keeps_execScrub (memc : Nat) (word : Nat) (bad : Nat) (collide : Bool) (pass : Option Nat) (s : State) (h : Keeps z s) : KeepsOut z (execScrub memc word bad collide pass s) := by
  unfold execScrub
  with_reducible repeat (first | assumption | intro _ | apply keeps_next | apply keeps_outIte | apply keeps_ite | apply keeps_scrubPass | apply keeps_eccReport | apply keeps_eccLose | apply keeps_whenAlive | apply keeps_foldl | apply keeps_fstIte)

theorem keeps_execJtagExtest (rstLow : Bool) (s : State) (h : Keeps z s) : KeepsOut z (execJtagExtest rstLow s) := by
  unfold execJtagExtest
  with_reducible repeat (first | assumption | intro _ | apply keeps_next | apply keeps_outIte | apply keeps_ite | apply keeps_used | apply keeps_emit | apply keeps_foldl | apply keeps_fstIte)

theorem keeps_shutBegin (s : State) (endBit : Bool) (h : Keeps z s) : Keeps z (shutBegin s endBit) := by
  unfold shutBegin
  with_reducible repeat (first | assumption | intro _ | apply keeps_ite | apply keeps_shutAbort | apply keeps_enterStill | apply keeps_restWaiting | apply keeps_foldl | apply keeps_fstIte | extract_lets | (simp only [keeps_mk, keeps_parts]))

theorem keeps_execShutdown (ini : Nat) (endBit : Bool) (s : State) (h : Keeps z s) : KeepsOut z (execShutdown ini endBit s) := by
  unfold execShutdown
  with_reducible repeat (first | assumption | intro _ | apply keeps_next | apply keeps_outIte | apply keeps_ite | apply keeps_answerMgmt | apply keeps_shutBegin | apply keeps_whenAlive | apply keeps_foldl | apply keeps_fstIte)

theorem keeps_nvmEnd (s : State) (ok : Bool) (h : Keeps z s) : Keeps z (nvmEnd s ok) := by
  simp only [nvmEnd]
  with_reducible repeat (first | assumption | intro _ | apply keeps_ite | apply keeps_norUnknown | apply keeps_norFailed | apply keeps_incSat | apply keeps_wr | apply keeps_eraseBlock | apply keeps_norProgram | apply keeps_foldl | apply keeps_fstIte | (simp only [keeps_mk, keeps_parts]) | split)

theorem keeps_execNvmProgram (ini : Nat) (s : State) (h : Keeps z s) : KeepsOut z (execNvmProgram ini s) := by
  unfold execNvmProgram
  with_reducible repeat (first | assumption | intro _ | apply keeps_next | apply keeps_outIte | apply keeps_ite | apply keeps_nvmStart | apply keeps_whenAlive | apply keeps_foldl | apply keeps_fstIte)

theorem keeps_execQuiesceEnd (s : State) (h : Keeps z s) : KeepsOut z (execQuiesceEnd s) := by
  unfold execQuiesceEnd
  with_reducible repeat (first | assumption | intro _ | apply keeps_next | apply keeps_outIte | apply keeps_ite | apply keeps_shutAbort | apply keeps_orderReset | apply keeps_foldl | apply keeps_fstIte | extract_lets | (simp only [keeps_mk, keeps_parts]))

theorem keeps_execHoldSExpiry (s : State) (h : Keeps z s) : KeepsOut z (execHoldSExpiry s) := by
  unfold execHoldSExpiry
  with_reducible repeat (first | assumption | intro _ | apply keeps_next | apply keeps_outIte | apply keeps_ite | apply keeps_advanceTo | apply keeps_releaseReset | apply keeps_foldl | apply keeps_fstIte)

theorem keeps_execJtagIdcode (s : State) (h : Keeps z s) : KeepsOut z (execJtagIdcode s) := by
  unfold execJtagIdcode
  with_reducible repeat (first | assumption | intro _ | apply keeps_next | apply keeps_outIte | apply keeps_ite | apply keeps_emit | apply keeps_foldl | apply keeps_fstIte)

theorem keeps_execNewNonce (ini : Nat) (s : State) (h : Keeps z s) : KeepsOut z (execNewNonce ini s) := by
  unfold execNewNonce
  with_reducible repeat (first | assumption | intro _ | apply keeps_next | apply keeps_outIte | apply keeps_ite | apply keeps_used | apply keeps_wr | apply keeps_answerMgmt | apply keeps_whenAlive | apply keeps_foldl | apply keeps_fstIte)

theorem keeps_execLcField (ini : Nat) (s : State) (h : Keeps z s) : KeepsOut z (execLcField ini s) := by
  unfold execLcField
  refine keeps_next (keeps_whenAlive _ h fun u hu => ?_)
  split
  · rename_i hc
    refine keeps_answerMgmt _ _ _ (hu.trans ⟨⟨rfl, id, ?_, Nat.le_refl _⟩⟩)
    refine ⟨fun _ => ⟨?_, ?_⟩, Nat.le_refl _, fun _ e => e, fun _ e => .inl e, fun _ _ => rfl⟩
    · rw [hc.1]; show lcProvisioned ≤ lcField; decide
    · show lcField ≤ lcReturn
      decide
  · exact keeps_lcRefuse _ _ hu

theorem keeps_cobblerErase (blk : Nat) (s : State) (h : Keeps z s) : Keeps z (cobblerErase blk s) := by
  unfold cobblerErase
  with_reducible repeat (first | assumption | intro _ | apply keeps_ite | apply keeps_eraseBlock | apply keeps_foldl | apply keeps_fstIte)

theorem keeps_execCobblerBlockErase (blk : Nat) (s : State) (h : Keeps z s) : KeepsOut z (execCobblerBlockErase blk s) := by
  unfold execCobblerBlockErase
  with_reducible repeat (first | assumption | intro _ | apply keeps_next | apply keeps_outIte | apply keeps_ite | apply keeps_cobblerErase | apply keeps_norHeld | apply keeps_whenAlive | apply keeps_foldl | apply keeps_fstIte)

theorem keeps_execPfwNFall (s : State) (h : Keeps z s) : KeepsOut z (execPfwNFall s) := by
  unfold execPfwNFall
  with_reducible repeat (first | assumption | intro _ | apply keeps_next | apply keeps_outIte | apply keeps_ite | apply keeps_shutAbort | apply keeps_wr | apply keeps_foldl | apply keeps_fstIte | extract_lets | (simp only [keeps_mk, keeps_parts]))

theorem keeps_execNvmErase (ini : Nat) (s : State) (h : Keeps z s) : KeepsOut z (execNvmErase ini s) := by
  unfold execNvmErase
  with_reducible repeat (first | assumption | intro _ | apply keeps_next | apply keeps_outIte | apply keeps_ite | apply keeps_nvmStart | apply keeps_whenAlive | apply keeps_foldl | apply keeps_fstIte)

end Sys2Proof.Machine
end

