-- ==== Sys2Proof/Laws/KeepsTrn.lean ====
section
/-! SUPPORT. What the operations of Sys2Proof/Machine/Trn.lean keep. -/

set_option linter.unusedSimpArgs false

namespace Sys2Proof.Machine

variable {z : State}

theorem keeps_takeAtLap (s : State) (r : Nat) (h : Keeps z s) : Keeps z (takeAtLap s r) := by
  unfold takeAtLap
  with_reducible repeat (first | assumption | intro _ | apply keeps_ite | apply keeps_startRing | apply keeps_wr | apply keeps_setRing | apply keeps_foldl | apply keeps_fstIte)

theorem keeps_roleFail (s : State) (h : Keeps z s) : Keeps z (roleFail s) := by
  unfold roleFail
  with_reducible repeat (first | assumption | intro _ | apply keeps_ite | apply keeps_wrs | apply keeps_foldl | apply keeps_fstIte)

theorem keeps_toLap (s : State) (lap : Nat) (h : Keeps z s) : Keeps z (toLap s lap) := by
  unfold toLap
  with_reducible repeat (first | assumption | intro _ | apply keeps_ite | apply keeps_advanceTo | apply keeps_lapSync | apply keeps_foldl | apply keeps_fstIte)

theorem keeps_execHandoverLap (s : State) (h : Keeps z s) : KeepsOut z (execHandoverLap s) := by
  unfold execHandoverLap
  with_reducible repeat (first | assumption | intro _ | apply keeps_next | apply keeps_outIte | apply keeps_ite | apply keeps_takeAtLap | apply keeps_setRing | apply keeps_roleFail | apply keeps_standDown | apply keeps_each | apply keeps_wrs | apply keeps_toLap | apply keeps_foldl | apply keeps_fstIte | extract_lets | (simp only [keeps_mk, keeps_parts]) | split)

theorem keeps_roleLayout (s : State) (h : Keeps z s) : ∀ res, roleLayout s = some res → Keeps z res := by
  unfold roleLayout
  extract_lets l
  split
  · intro r e; cases e; exact keeps_loadLayout _ _ _ h
  · intro r e; cases e

theorem keeps_execHeadStartLaunch (r : Nat) (s : State) (h : Keeps z s) : KeepsOut z (execHeadStartLaunch r s) := by
  unfold execHeadStartLaunch
  with_reducible repeat (first | assumption | intro _ | apply keeps_next | apply keeps_outIte | apply keeps_ite | apply keeps_startRing | apply keeps_advanceTo | apply keeps_lapSync | apply keeps_whenAlive | apply keeps_foldl | apply keeps_fstIte | extract_lets | (simp only [keeps_mk, keeps_parts]))

theorem keeps_launchInstant (s : State) (h : Keeps z s) : Keeps z (launchInstant s) := by
  unfold launchInstant
  with_reducible repeat (first | assumption | intro _ | apply keeps_ite | apply keeps_advanceTo | apply keeps_foldl | apply keeps_fstIte)

theorem keeps_execLapLaunch (s : State) (h : Keeps z s) : KeepsOut z (execLapLaunch s) := by
  unfold execLapLaunch
  with_reducible repeat (first | assumption | intro _ | apply keeps_next | apply keeps_outIte | apply keeps_ite | apply keeps_launchRing | apply keeps_launchInstant | apply keeps_lapSync | apply keeps_applyYield | apply keeps_each | apply keeps_foldl | apply keeps_fstIte | extract_lets | (simp only [keeps_mk, keeps_parts]))

theorem keeps_leadCapture (s : State) (f : List Byte) (h : Keeps z s) : Keeps z (leadCapture s f) := by
  unfold leadCapture
  with_reducible repeat (first | assumption | intro _ | apply keeps_ite | apply keeps_capEdge | apply keeps_foldl | apply keeps_fstIte)

theorem keeps_layoutInc (s : State) (h : Keeps z s) : Keeps z (layoutInc s) := by
  unfold layoutInc
  with_reducible repeat (first | assumption | intro _ | apply keeps_ite | apply keeps_wr | apply keeps_foldl | apply keeps_fstIte)

theorem keeps_layoutRead (s : State) (h : Keeps z s) : Keeps z (layoutRead s).2 := by
  unfold layoutRead
  with_reducible repeat (first | assumption | intro _ | apply keeps_ite | apply keeps_layoutInc | apply keeps_foldl | apply keeps_fstIte)

theorem keeps_layoutWrite (s : State) (v : Nat) (h : Keeps z s) : Keeps z (layoutWrite s v) := by
  unfold layoutWrite
  with_reducible repeat (first | assumption | intro _ | apply keeps_ite | apply keeps_memPutWord | apply keeps_layoutInc | apply keeps_foldl | apply keeps_fstIte)

theorem keeps_execLayoutDataAccess (w : Option Nat) (s : State) (h : Keeps z s) : KeepsOut z (execLayoutDataAccess w s) := by
  unfold execLayoutDataAccess
  with_reducible repeat (first | assumption | intro _ | apply keeps_next | apply keeps_outIte | apply keeps_ite | apply keeps_layoutRead | apply keeps_emit | apply keeps_layoutWrite | apply keeps_whenAlive | apply keeps_foldl | apply keeps_fstIte | extract_lets | (simp only [keeps_mk, keeps_parts]) | split)

theorem keeps_frameEnd (s : State) (f : List Byte) (h : Keeps z s) : Keeps z (frameEnd s f) := by
  unfold frameEnd
  with_reducible repeat (first | assumption | intro _ | apply keeps_ite | apply keeps_mergeCopy | apply keeps_takeCopy | apply keeps_incWrap | apply keeps_incSat | apply keeps_wr | apply keeps_foldl | apply keeps_fstIte | extract_lets | (simp only [keeps_mk, keeps_parts]) | split)

theorem keeps_newRun (s : State) (q : Nat) (t : Nat) (h : Keeps z s) : Keeps z (newRun s q t) := by
  unfold newRun
  with_reducible repeat (first | assumption | intro _ | apply keeps_ite | apply keeps_setPort | apply keeps_foldl | apply keeps_fstIte)

theorem keeps_leaveBy (s : State) (q : Nat) (res : Nat) (f : List Byte) (h : Keeps z s) : Keeps z (leaveBy s q res f) := by
  unfold leaveBy
  with_reducible repeat (first | assumption | intro _ | apply keeps_ite | apply keeps_observe | apply keeps_slip | apply keeps_newRun | apply keeps_setPort | apply keeps_advance | apply keeps_foldl | apply keeps_fstIte | extract_lets | (simp only [keeps_mk, keeps_parts]) | split)

theorem keeps_leadSample (s : State) (p : Nat) (sub : Nat) (f : List Byte) (h : Keeps z s) : Keeps z (leadSample s p sub f) := by
  unfold leadSample
  with_reducible repeat (first | assumption | intro _ | apply keeps_ite | apply keeps_foldl | apply keeps_fstIte | extract_lets | (simp only [keeps_mk, keeps_parts]))

theorem keeps_leadRoles (s : State) (f : List Byte) (h : Keeps z s) : Keeps z (leadRoles s f) := by
  unfold leadRoles
  with_reducible repeat (first | assumption | intro _ | apply keeps_ite | apply keeps_setRing | apply keeps_foldl | apply keeps_fstIte)

theorem keeps_leadGood (s : State) (p : Nat) (sub : Nat) (f : List Byte) (h : Keeps z s) : Keeps z (leadGood s p sub f) := by
  unfold leadGood
  with_reducible repeat (first | assumption | intro _ | apply keeps_ite | apply keeps_leadSample | apply keeps_leadRoles | apply keeps_setPort | apply keeps_each | apply keeps_setTrain | apply keeps_foldl | apply keeps_fstIte | extract_lets | (simp only [keeps_mk, keeps_parts]))

theorem keeps_leadArr (s : State) (f : List Byte) (h : Keeps z s) : Keeps z (leadArr s f) := by
  unfold leadArr
  with_reducible repeat (first | assumption | intro _ | apply keeps_ite | apply keeps_wrI | apply keeps_foldl | apply keeps_fstIte)

theorem keeps_sortTrain (s : State) (f : List Byte) (h : Keeps z s) : Keeps z (sortTrain s f) := by
  unfold sortTrain
  with_reducible repeat (first | assumption | intro _ | apply keeps_ite | apply keeps_setTrain | apply keeps_setHeadless | apply keeps_setRing | apply keeps_incSat | apply keeps_foldl | apply keeps_fstIte)

theorem keeps_execTrainFramePass (dt : Nat) (sub : Nat) (res : Nat) (p : Nat) (f : List Byte) (s : State) (h : Keeps z s) : KeepsOut z (execTrainFramePass dt sub res p f s) := by
  unfold execTrainFramePass
  with_reducible repeat (first | assumption | intro _ | apply keeps_next | apply keeps_outIte | apply keeps_ite | apply keeps_frameEnd | apply keeps_leaveBy | apply keeps_emit | apply keeps_leadGood | apply keeps_leadArr | apply keeps_leadCapture | apply keeps_sortTrain | apply keeps_advance | apply keeps_lapSync | apply keeps_foldl | apply keeps_fstIte)

theorem keeps_execTrainBroken (t : Nat) (s : State) (h : Keeps z s) : KeepsOut z (execTrainBroken t s) := by
  unfold execTrainBroken
  with_reducible repeat (first | assumption | intro _ | apply keeps_next | apply keeps_outIte | apply keeps_ite | apply keeps_setTrain | apply keeps_judgeRing | apply keeps_lapSync | apply keeps_foldl | apply keeps_fstIte)

theorem keeps_keepMerge (s : State) (h : Keeps z s) : Keeps z (keepMerge s) := by
  unfold keepMerge
  with_reducible repeat (first | assumption | intro _ | apply keeps_ite | apply keeps_foldl | apply keeps_fstIte | extract_lets | (simp only [keeps_mk, keeps_parts]))

theorem keeps_execVerSwitch (s : State) (h : Keeps z s) : KeepsOut z (execVerSwitch s) := by
  unfold execVerSwitch
  with_reducible repeat (first | assumption | intro _ | apply keeps_next | apply keeps_outIte | apply keeps_ite | apply keeps_keepMerge | apply keeps_useWindows | apply keeps_wrs | apply keeps_advanceTo | apply keeps_lapSync | apply keeps_foldl | apply keeps_fstIte | extract_lets | (simp only [keeps_mk, keeps_parts]))

theorem keeps_execScheduleSwitch (s : State) (h : Keeps z s) : KeepsOut z (execScheduleSwitch s) := by
  unfold execScheduleSwitch
  with_reducible repeat (first | assumption | intro _ | apply keeps_next | apply keeps_outIte | apply keeps_ite | apply keeps_toLap | apply keeps_wr | apply keeps_foldl | apply keeps_fstIte | extract_lets | (simp only [keeps_mk, keeps_parts]))

theorem keeps_roleGo (s : State) (h : Keeps z s) : Keeps z (roleGo s) := by
  unfold roleGo
  have ht : ∀ u, Keeps z u → Keeps z (wr (each (roleRings s) takeRing u) TRN_ROLE_CMD_GO 0) := fun u hu =>
    keeps_wr _ _ _ (keeps_each _ _ hu fun v k hv => keeps_takeRing _ _ hv)
  dsimp only
  refine keeps_ite (keeps_ite (keeps_roleFail _ h) (keeps_each _ _ (keeps_wr _ _ _ h) fun u r hu => keeps_setRing _ _ _ hu))
    (keeps_ite (keeps_roleFail _ h) (keeps_ite (ht _ h) ?_))
  split
  · exact keeps_roleFail _ h
  · rename_i u hu
    have hk := keeps_roleLayout s h u hu
    refine ht _ ?_
    simp only [keeps_mk, keeps_parts]; exact hk

theorem keeps_execRoleCommand (newHead : Nat) (ringA : Bool) (ringB : Bool) (s : State) (h : Keeps z s) : KeepsOut z (execRoleCommand newHead ringA ringB s) := by
  unfold execRoleCommand
  with_reducible repeat (first | assumption | intro _ | apply keeps_next | apply keeps_outIte | apply keeps_ite | apply keeps_wrs | apply keeps_roleGo | apply keeps_whenAlive | apply keeps_foldl | apply keeps_fstIte)

theorem keeps_execTrainOverdue (t : Nat) (s : State) (h : Keeps z s) : KeepsOut z (execTrainOverdue t s) := by
  unfold execTrainOverdue
  with_reducible repeat (first | assumption | intro _ | apply keeps_next | apply keeps_outIte | apply keeps_ite | apply keeps_setTrain | apply keeps_judgeRing | apply keeps_lapSync | apply keeps_foldl | apply keeps_fstIte)

theorem keeps_swLap (s : State) (lap : Nat) (arm : Bool) (h : Keeps z s) : Keeps z (swLap s lap arm) := by
  unfold swLap
  with_reducible repeat (first | assumption | intro _ | apply keeps_ite | apply keeps_wr | apply keeps_foldl | apply keeps_fstIte)

theorem keeps_execSwLapWrite (lap : Nat) (arm : Bool) (s : State) (h : Keeps z s) : KeepsOut z (execSwLapWrite lap arm s) := by
  unfold execSwLapWrite
  with_reducible repeat (first | assumption | intro _ | apply keeps_next | apply keeps_outIte | apply keeps_ite | apply keeps_swLap | apply keeps_whenAlive | apply keeps_foldl | apply keeps_fstIte)

theorem keeps_execRepairLaunch (t : Nat) (s : State) (h : Keeps z s) : KeepsOut z (execRepairLaunch t s) := by
  unfold execRepairLaunch
  with_reducible repeat (first | assumption | intro _ | apply keeps_next | apply keeps_outIte | apply keeps_ite | apply keeps_sendTrain | apply keeps_addSat | apply keeps_setTrain | apply keeps_advanceTo | apply keeps_lapSync | apply keeps_foldl | apply keeps_fstIte)

theorem keeps_execTrnLapMiss (s : State) (h : Keeps z s) : KeepsOut z (execTrnLapMiss s) := by
  unfold execTrnLapMiss
  with_reducible repeat (first | assumption | intro _ | apply keeps_next | apply keeps_outIte | apply keeps_ite | apply keeps_wr | apply keeps_raise | apply keeps_advanceTo | apply keeps_lapSync | apply keeps_foldl | apply keeps_fstIte | extract_lets | (simp only [keeps_mk, keeps_parts]))

theorem keeps_execTrackReturn (p : Nat) (s : State) (h : Keeps z s) : KeepsOut z (execTrackReturn p s) := by
  unfold execTrackReturn
  with_reducible repeat (first | assumption | intro _ | apply keeps_next | apply keeps_outIte | apply keeps_ite | apply keeps_wrBit | apply keeps_setPort | apply keeps_foldl | apply keeps_fstIte)

theorem keeps_execTrainFifoStomp (p : Nat) (t : Nat) (s : State) (h : Keeps z s) : KeepsOut z (execTrainFifoStomp p t s) := by
  unfold execTrainFifoStomp
  with_reducible repeat (first | assumption | intro _ | apply keeps_next | apply keeps_outIte | apply keeps_ite | apply keeps_incSat | apply keeps_setPort | apply keeps_emit | apply keeps_lapSync | apply keeps_newRun | apply keeps_slip | apply keeps_foldl | apply keeps_fstIte)

end Sys2Proof.Machine
end

