-- ==== Sys2Proof/Laws/KeepsViews.lean ====
section
/-! SUPPORT. What the operations of Sys2Proof/Machine/Views.lean keep. -/

set_option linter.unusedSimpArgs false

namespace Sys2Proof.Machine

variable {z : State}

theorem keeps_overlay (x : Cell × State) (v : View) (h : Keeps z x.2) : Keeps z (overlay x v).2 := by
  unfold overlay
  split
  · exact h
  · exact keeps_used h

theorem keeps_seenCell (s : State) (a : Nat) (h : Keeps z s) : Keeps z (seenCell s a).2 := by
  unfold seenCell
  exact keeps_foldl_snd _ _ h fun u k hu => keeps_overlay _ _ hu

end Sys2Proof.Machine
end

