-- ==== Sys2Proof/Laws/KeepsWelt.lean ====
section
/-! SUPPORT. What the operations of Sys2Proof/Machine/Welt.lean keep. -/

set_option linter.unusedSimpArgs false

namespace Sys2Proof.Machine

variable {z : State}

theorem keeps_ringAlive (s : State) (p : Nat) (f : State → State) (h : Keeps z s) (hf : ∀ u, Keeps z u → Keeps z (f u)) : Keeps z (ringAlive s p f) := by
  unfold ringAlive
  exact keeps_ite h (hf s h)

theorem keeps_execDelayRequest (dt : Nat) (p : Nat) (seq : Nat) (turn : Nat) (s : State) (h : Keeps z s) : KeepsOut z (execDelayRequest dt p seq turn s) := by
  unfold execDelayRequest
  with_reducible repeat (first | assumption | intro _ | apply keeps_next | apply keeps_outIte | apply keeps_ite | apply keeps_ringStart | apply keeps_setPort | apply keeps_emit | apply keeps_stepFt | apply keeps_ringAlive | apply keeps_advance | apply keeps_foldl | apply keeps_fstIte)

theorem keeps_rxChanged (s : State) (p : Nat) (h : Keeps z s) : Keeps z (rxChanged s p) := by
  unfold rxChanged
  with_reducible repeat (first | assumption | intro _ | apply keeps_ite | apply keeps_holdAgain | apply keeps_settleTx | apply keeps_foldl | apply keeps_fstIte)

theorem keeps_execHiBer (p : Nat) (on : Bool) (s : State) (h : Keeps z s) : KeepsOut z (execHiBer p on s) := by
  unfold execHiBer
  with_reducible repeat (first | assumption | intro _ | apply keeps_next | apply keeps_outIte | apply keeps_ite | apply keeps_rxChanged | apply keeps_declare | apply keeps_wr | apply keeps_raise | apply keeps_wrB | apply keeps_ringAlive | apply keeps_foldl | apply keeps_fstIte)

theorem keeps_execPmaSignalDetect (p : Nat) (s : State) (h : Keeps z s) : KeepsOut z (execPmaSignalDetect p s) := by
  unfold execPmaSignalDetect
  with_reducible repeat (first | assumption | intro _ | apply keeps_next | apply keeps_outIte | apply keeps_ite | apply keeps_portTo | apply keeps_wr | apply keeps_ringAlive | apply keeps_foldl | apply keeps_fstIte)

theorem keeps_execFaultNoticeRefresh (p : Nat) (s : State) (h : Keeps z s) : KeepsOut z (execFaultNoticeRefresh p s) := by
  unfold execFaultNoticeRefresh
  with_reducible repeat (first | assumption | intro _ | apply keeps_next | apply keeps_outIte | apply keeps_ite | apply keeps_sendNotice | apply keeps_ringAlive | apply keeps_foldl | apply keeps_fstIte)

theorem keeps_sfpGo (s : State) (p : Nat) (h : Keeps z s) : Keeps z (sfpGo s p) := by
  unfold sfpGo
  with_reducible repeat (first | assumption | intro _ | apply keeps_ite | apply keeps_wr | apply keeps_emit | apply keeps_foldl | apply keeps_fstIte)

theorem keeps_execSfpMgmtGo (p : Nat) (data : Nat) (offset : Nat) (devsel : Bool) (write : Bool) (s : State) (h : Keeps z s) : KeepsOut z (execSfpMgmtGo p data offset devsel write s) := by
  unfold execSfpMgmtGo
  with_reducible repeat (first | assumption | intro _ | apply keeps_next | apply keeps_outIte | apply keeps_ite | apply keeps_wrs | apply keeps_sfpGo | apply keeps_ringAlive | apply keeps_whenAlive | apply keeps_foldl | apply keeps_fstIte)

theorem keeps_execDelayNoResponse (p : Nat) (s : State) (h : Keeps z s) : KeepsOut z (execDelayNoResponse p s) := by
  unfold execDelayNoResponse
  with_reducible repeat (first | assumption | intro _ | apply keeps_next | apply keeps_outIte | apply keeps_ite | apply keeps_setPort | apply keeps_ringAlive | apply keeps_foldl | apply keeps_fstIte)

theorem keeps_execModChg (p : Nat) (absent : Bool) (los : Bool) (txflt : Bool) (s : State) (h : Keeps z s) : KeepsOut z (execModChg p absent los txflt s) := by
  unfold execModChg
  with_reducible repeat (first | assumption | intro _ | apply keeps_next | apply keeps_outIte | apply keeps_ite | apply keeps_settleTx | apply keeps_portRun | apply keeps_portTo | apply keeps_wr | apply keeps_wrs | apply keeps_ringAlive | apply keeps_foldl | apply keeps_fstIte)

theorem keeps_execLinkDelayStart (p : Nat) (s : State) (h : Keeps z s) : KeepsOut z (execLinkDelayStart p s) := by
  unfold execLinkDelayStart
  with_reducible repeat (first | assumption | intro _ | apply keeps_next | apply keeps_outIte | apply keeps_ite | apply keeps_ringSend | apply keeps_ringAlive | apply keeps_foldl | apply keeps_fstIte)

theorem keeps_execLockAcquired (p : Nat) (s : State) (h : Keeps z s) : KeepsOut z (execLockAcquired p s) := by
  unfold execLockAcquired
  with_reducible repeat (first | assumption | intro _ | apply keeps_next | apply keeps_outIte | apply keeps_ite | apply keeps_setPort | apply keeps_rxChanged | apply keeps_wr | apply keeps_ringAlive | apply keeps_foldl | apply keeps_fstIte)

theorem keeps_execSignalDetectLost (p : Nat) (s : State) (h : Keeps z s) : KeepsOut z (execSignalDetectLost p s) := by
  unfold execSignalDetectLost
  with_reducible repeat (first | assumption | intro _ | apply keeps_next | apply keeps_outIte | apply keeps_ite | apply keeps_wrs | apply keeps_portTo | apply keeps_ringAlive | apply keeps_foldl | apply keeps_fstIte)

theorem keeps_execSfpMgmtDone (p : Nat) (ack : Bool) (data : Nat) (s : State) (h : Keeps z s) : KeepsOut z (execSfpMgmtDone p ack data s) := by
  unfold execSfpMgmtDone
  with_reducible repeat (first | assumption | intro _ | apply keeps_next | apply keeps_outIte | apply keeps_ite | apply keeps_wr | apply keeps_wrs | apply keeps_ringAlive | apply keeps_foldl | apply keeps_fstIte)

theorem keeps_execRemoteFault (p : Nat) (on : Bool) (s : State) (h : Keeps z s) : KeepsOut z (execRemoteFault p on s) := by
  unfold execRemoteFault
  with_reducible repeat (first | assumption | intro _ | apply keeps_next | apply keeps_outIte | apply keeps_ite | apply keeps_wrB | apply keeps_rxChanged | apply keeps_declare | apply keeps_ringAlive | apply keeps_foldl | apply keeps_fstIte)

theorem keeps_execTxdisForce (p : Nat) (enable : Bool) (force : Bool) (s : State) (h : Keeps z s) : KeepsOut z (execTxdisForce p enable force s) := by
  unfold execTxdisForce
  with_reducible repeat (first | assumption | intro _ | apply keeps_next | apply keeps_outIte | apply keeps_ite | apply keeps_portCtrl | apply keeps_wrB | apply keeps_ringAlive | apply keeps_whenAlive | apply keeps_foldl | apply keeps_fstIte)

theorem keeps_execUnwrapRequest (p : Nat) (s : State) (h : Keeps z s) : KeepsOut z (execUnwrapRequest p s) := by
  unfold execUnwrapRequest
  with_reducible repeat (first | assumption | intro _ | apply keeps_next | apply keeps_outIte | apply keeps_ite | apply keeps_setPort | apply keeps_sendUnwrap | apply keeps_ringAlive | apply keeps_foldl | apply keeps_fstIte)

theorem keeps_execSyncHoldExpiry (p : Nat) (s : State) (h : Keeps z s) : KeepsOut z (execSyncHoldExpiry p s) := by
  unfold execSyncHoldExpiry
  with_reducible repeat (first | assumption | intro _ | apply keeps_next | apply keeps_outIte | apply keeps_ite | apply keeps_advanceTo | apply keeps_wr | apply keeps_settleTx | apply keeps_ringAlive | apply keeps_foldl | apply keeps_fstIte)

theorem keeps_execDelayResponse (dt : Nat) (sub : Nat) (p : Nat) (seq : Nat) (turn : Nat) (s : State) (h : Keeps z s) : KeepsOut z (execDelayResponse dt sub p seq turn s) := by
  unfold execDelayResponse
  with_reducible repeat (first | assumption | intro _ | apply keeps_next | apply keeps_outIte | apply keeps_ite | apply keeps_setPort | apply keeps_filterSample | apply keeps_ringAlive | apply keeps_advance | apply keeps_foldl | apply keeps_fstIte | extract_lets | (simp only [keeps_mk, keeps_parts]) | split)

theorem keeps_agreeOn (s : State) (p : Nat) (l : Nat) (h : Keeps z s) : Keeps z (agreeOn s p l) := by
  unfold agreeOn
  with_reducible repeat (first | assumption | intro _ | apply keeps_ite | apply keeps_setPort | apply keeps_toUp | apply keeps_foldl | apply keeps_fstIte)

theorem keeps_execUnwrapAck (p : Nat) (kind : Nat) (lap : Nat) (s : State) (h : Keeps z s) : KeepsOut z (execUnwrapAck p kind lap s) := by
  unfold execUnwrapAck
  with_reducible repeat (first | assumption | intro _ | apply keeps_next | apply keeps_outIte | apply keeps_ite | apply keeps_sendUnwrap | apply keeps_agreeOn | apply keeps_setPort | apply keeps_ringAlive | apply keeps_foldl | apply keeps_fstIte | extract_lets | (simp only [keeps_mk, keeps_parts]) | split)

theorem keeps_execUnwrap (p : Nat) (s : State) (h : Keeps z s) : KeepsOut z (execUnwrap p s) := by
  unfold execUnwrap
  with_reducible repeat (first | assumption | intro _ | apply keeps_next | apply keeps_outIte | apply keeps_ite | apply keeps_advanceTo | apply keeps_lapSync | apply keeps_toUp | apply keeps_ringAlive | apply keeps_foldl | apply keeps_fstIte | extract_lets | (simp only [keeps_mk, keeps_parts]) | split)

theorem keeps_execLockLostInSync (p : Nat) (kind : Nat) (s : State) (h : Keeps z s) : KeepsOut z (execLockLostInSync p kind s) := by
  unfold execLockLostInSync
  with_reducible repeat (first | assumption | intro _ | apply keeps_next | apply keeps_outIte | apply keeps_ite | apply keeps_setPort | apply keeps_wr | apply keeps_rxChanged | apply keeps_ringAlive | apply keeps_foldl | apply keeps_fstIte)

theorem keeps_execLossOfSignal (p : Nat) (kind : Nat) (s : State) (h : Keeps z s) : KeepsOut z (execLossOfSignal p kind s) := by
  unfold execLossOfSignal
  with_reducible repeat (first | assumption | intro _ | apply keeps_next | apply keeps_outIte | apply keeps_ite | apply keeps_rxChanged | apply keeps_portTo | apply keeps_declare | apply keeps_setPort | apply keeps_wr | apply keeps_wrs | apply keeps_ringAlive | apply keeps_foldl | apply keeps_fstIte)

theorem keeps_execUnwrapResend (p : Nat) (s : State) (h : Keeps z s) : KeepsOut z (execUnwrapResend p s) := by
  unfold execUnwrapResend
  with_reducible repeat (first | assumption | intro _ | apply keeps_next | apply keeps_outIte | apply keeps_ite | apply keeps_sendUnwrap | apply keeps_ringAlive | apply keeps_foldl | apply keeps_fstIte | extract_lets | (simp only [keeps_mk, keeps_parts]) | split)

theorem keeps_execBypassReq (s : State) (h : Keeps z s) : KeepsOut z (execBypassReq s) := by
  unfold execBypassReq
  with_reducible repeat (first | assumption | intro _ | apply keeps_next | apply keeps_outIte | apply keeps_ite | apply keeps_wr | apply keeps_whenAlive | apply keeps_foldl | apply keeps_fstIte)

end Sys2Proof.Machine
end

