-- ==== Sys2Proof/Laws/KeepsXb.lean ====
section
/-! SUPPORT. What the operations of Sys2Proof/Machine/Xb.lean keep. -/

set_option linter.unusedSimpArgs false

namespace Sys2Proof.Machine

variable {z : State}

theorem keeps_wireStart (s : State) (w : Nat) (h : Keeps z s) : Keeps z (wireStart s w) := by
  unfold wireStart
  split
  · rename_i t e
    by_cases hw : w < 4
    · rw [if_pos hw] at e; exact keeps_ringNext s w h t e
    · rw [if_neg hw] at e; cases e
  · exact keeps_whenAlive _ h fun u hu => keeps_egressStart _ _ hu

theorem keeps_execFrameInsert (sport : Nat) (x_h : List Byte) (payload : List Byte) (s : State) (h : Keeps z s) : KeepsOut z (execFrameInsert sport x_h payload s) := by
  unfold execFrameInsert
  with_reducible repeat (first | assumption | intro _ | apply keeps_next | apply keeps_outIte | apply keeps_ite | apply keeps_insertLocal | apply keeps_whenAlive | apply keeps_foldl | apply keeps_fstIte)

theorem keeps_pauseRx (s : State) (sp : Nat) (t : Nat) (h : Keeps z s) : Keeps z (pauseRx s sp t) := by
  unfold pauseRx
  with_reducible repeat (first | assumption | intro _ | apply keeps_ite | apply keeps_wrB | apply keeps_foldl | apply keeps_fstIte | extract_lets | (simp only [keeps_mk, keeps_parts]))

theorem keeps_execPauseReceived (sp : Nat) (t : Nat) (s : State) (h : Keeps z s) : KeepsOut z (execPauseReceived sp t s) := by
  unfold execPauseReceived
  with_reducible repeat (first | assumption | intro _ | apply keeps_next | apply keeps_outIte | apply keeps_ite | apply keeps_pauseRx | apply keeps_whenAlive | apply keeps_foldl | apply keeps_fstIte)

theorem keeps_execMdioDone (data : Nat) (s : State) (h : Keeps z s) : KeepsOut z (execMdioDone data s) := by
  unfold execMdioDone
  with_reducible repeat (first | assumption | intro _ | apply keeps_next | apply keeps_outIte | apply keeps_ite | apply keeps_wr | apply keeps_whenAlive | apply keeps_foldl | apply keeps_fstIte)

theorem keeps_mdioGo (s : State) (h : Keeps z s) : Keeps z (mdioGo s) := by
  unfold mdioGo
  with_reducible repeat (first | assumption | intro _ | apply keeps_ite | apply keeps_wr | apply keeps_emit | apply keeps_foldl | apply keeps_fstIte)

theorem keeps_execMdioGo (op : Nat) (phy : Nat) (reg : Nat) (data : Nat) (s : State) (h : Keeps z s) : KeepsOut z (execMdioGo op phy reg data s) := by
  unfold execMdioGo
  with_reducible repeat (first | assumption | intro _ | apply keeps_next | apply keeps_outIte | apply keeps_ite | apply keeps_wrs | apply keeps_mdioGo | apply keeps_whenAlive | apply keeps_foldl | apply keeps_fstIte)

theorem keeps_normal (s : State) (i : Nat) (f : List Byte) (bad : Bool) (h : Keeps z s) : Keeps z (normal s i f bad) := by
  unfold normal
  with_reducible repeat (first | assumption | intro _ | apply keeps_ite | apply keeps_enqueue | apply keeps_noticeSee | apply keeps_enqueueCopies | apply keeps_deliverLocal | apply keeps_noRoute | apply keeps_policerTake | apply keeps_incSat | apply keeps_wr | apply keeps_headerError | apply keeps_tapSee | apply keeps_foldl | apply keeps_fstIte | extract_lets | (simp only [keeps_mk, keeps_parts]) | split)

theorem keeps_execFaultNotice (x : List Byte) (s : State) (h : Keeps z s) : KeepsOut z (execFaultNotice x s) := by
  unfold execFaultNotice
  with_reducible repeat (first | assumption | intro _ | apply keeps_next | apply keeps_outIte | apply keeps_ite | apply keeps_noticeTake | apply keeps_whenAlive | apply keeps_foldl | apply keeps_fstIte | extract_lets | (simp only [keeps_mk, keeps_parts]) | split)

theorem keeps_countBad (s : State) (errTerm : Bool) (h : Keeps z s) : Keeps z (countBad s errTerm) := by
  unfold countBad
  with_reducible repeat (first | assumption | intro _ | apply keeps_ite | apply keeps_wr | apply keeps_raise | apply keeps_incSat | apply keeps_foldl | apply keeps_fstIte | extract_lets | (simp only [keeps_mk, keeps_parts]))

theorem keeps_expressSend (s : State) (i : Nat) (f : List Byte) (bad : Bool) (h : Keeps z s) : Keeps z (expressSend s i f bad) := by
  unfold expressSend
  with_reducible repeat (first | assumption | intro _ | apply keeps_ite | apply keeps_ringSend | apply keeps_foldl | apply keeps_fstIte)

theorem keeps_expressLocal (s : State) (f : List Byte) (bad : Bool) (h : Keeps z s) : Keeps z (expressLocal s f bad) := by
  unfold expressLocal
  with_reducible repeat (first | assumption | intro _ | apply keeps_ite | apply keeps_incSat | apply keeps_emit | apply keeps_foldl | apply keeps_fstIte)

theorem keeps_express (s : State) (i : Nat) (f : List Byte) (bad : Bool) (h : Keeps z s) : Keeps z (express s i f bad) := by
  unfold express
  with_reducible repeat (first | assumption | intro _ | apply keeps_ite | apply keeps_expressSend | apply keeps_noRoute | apply keeps_incSat | apply keeps_wr | apply keeps_headerError | apply keeps_emit | apply keeps_expressLocal | apply keeps_foldl | apply keeps_fstIte)

theorem keeps_execMessageFrameReceive (dt : Nat) (p : Nat) (f : List Byte) (errTerm : Bool) (s : State) (h : Keeps z s) : KeepsOut z (execMessageFrameReceive dt p f errTerm s) := by
  unfold execMessageFrameReceive
  with_reducible repeat (first | assumption | intro _ | apply keeps_next | apply keeps_outIte | apply keeps_ite | apply keeps_normal | apply keeps_countBad | apply keeps_express | apply keeps_advance | apply keeps_foldl | apply keeps_fstIte)

theorem keeps_execEgressFrameStart (w : Nat) (s : State) (h : Keeps z s) : KeepsOut z (execEgressFrameStart w s) := by
  unfold execEgressFrameStart
  with_reducible repeat (first | assumption | intro _ | apply keeps_next | apply keeps_outIte | apply keeps_ite | apply keeps_advanceTo | apply keeps_wireStart | apply keeps_foldl | apply keeps_fstIte)

theorem keeps_nativeIn (s : State) (sp : Nat) (f : List Byte) (h : Keeps z s) : Keeps z (nativeIn s sp f) := by
  unfold nativeIn
  with_reducible repeat (first | assumption | intro _ | apply keeps_ite | apply keeps_insertLocal | apply keeps_incSat | apply keeps_foldl | apply keeps_fstIte)

theorem keeps_tunnelIn (s : State) (sp : Nat) (x : List Byte) (bad : Bool) (h : Keeps z s) : Keeps z (tunnelIn s sp x bad) := by
  unfold tunnelIn
  with_reducible repeat (first | assumption | intro _ | apply keeps_ite | apply keeps_insertFrame | apply keeps_ptpCount | apply keeps_incSat | apply keeps_foldl | apply keeps_fstIte | extract_lets | (simp only [keeps_mk, keeps_parts]) | split)

theorem keeps_execSpurFrameReceive (dt : Nat) (sp : Nat) (f : List Byte) (s : State) (h : Keeps z s) : KeepsOut z (execSpurFrameReceive dt sp f s) := by
  unfold execSpurFrameReceive
  with_reducible repeat (first | assumption | intro _ | apply keeps_next | apply keeps_outIte | apply keeps_ite | apply keeps_nativeIn | apply keeps_pauseRx | apply keeps_incWrap | apply keeps_tunnelIn | apply keeps_incSat | apply keeps_whenAlive | apply keeps_advance | apply keeps_foldl | apply keeps_fstIte)

theorem keeps_execShaperTokens (dt : Nat) (w : Nat) (s : State) (h : Keeps z s) : KeepsOut z (execShaperTokens dt w s) := by
  unfold execShaperTokens
  with_reducible repeat (first | assumption | intro _ | apply keeps_next | apply keeps_outIte | apply keeps_ite | apply keeps_egressStart | apply keeps_whenAlive | apply keeps_advance | apply keeps_foldl | apply keeps_fstIte)

theorem keeps_execPauseExpiry (sp : Nat) (s : State) (h : Keeps z s) : KeepsOut z (execPauseExpiry sp s) := by
  unfold execPauseExpiry
  with_reducible repeat (first | assumption | intro _ | apply keeps_next | apply keeps_outIte | apply keeps_ite | apply keeps_advanceTo | apply keeps_wr | apply keeps_whenAlive | apply keeps_foldl | apply keeps_fstIte)

theorem keeps_execCellTime (s : State) (h : Keeps z s) : KeepsOut z (execCellTime s) := by
  unfold execCellTime
  with_reducible repeat (first | assumption | intro _ | apply keeps_next | apply keeps_outIte | apply keeps_ite | apply keeps_cellTime | apply keeps_advance | apply keeps_whenAlive | apply keeps_foldl | apply keeps_fstIte)

theorem keeps_execPauseRepeat (sp : Nat) (s : State) (h : Keeps z s) : KeepsOut z (execPauseRepeat sp s) := by
  unfold execPauseRepeat
  with_reducible repeat (first | assumption | intro _ | apply keeps_next | apply keeps_outIte | apply keeps_ite | apply keeps_pauseSend | apply keeps_advanceTo | apply keeps_whenAlive | apply keeps_foldl | apply keeps_fstIte)

theorem keeps_execFreeWindowStart (p : Nat) (s : State) (h : Keeps z s) : KeepsOut z (execFreeWindowStart p s) := by
  unfold execFreeWindowStart
  with_reducible repeat (first | assumption | intro _ | apply keeps_next | apply keeps_outIte | apply keeps_ite | apply keeps_advanceTo | apply keeps_lapSync | apply keeps_wireStart | apply keeps_foldl | apply keeps_fstIte)

theorem keeps_execBrokenLinkTimeout (n : Nat) (s : State) (h : Keeps z s) : KeepsOut z (execBrokenLinkTimeout n s) := by
  unfold execBrokenLinkTimeout
  with_reducible repeat (first | assumption | intro _ | apply keeps_next | apply keeps_outIte | apply keeps_ite | apply keeps_linkDrop | apply keeps_routeAll | apply keeps_whenAlive | apply keeps_foldl | apply keeps_fstIte)

theorem keeps_execOverloadInterval (s : State) (h : Keeps z s) : KeepsOut z (execOverloadInterval s) := by
  unfold execOverloadInterval
  with_reducible repeat (first | assumption | intro _ | apply keeps_next | apply keeps_outIte | apply keeps_ite | apply keeps_raise | apply keeps_wrs | apply keeps_wr | apply keeps_whenAlive | apply keeps_foldl | apply keeps_fstIte | extract_lets | (simp only [keeps_mk, keeps_parts]))

end Sys2Proof.Machine
end

