-- ==== Sys2Proof/Laws/KeepsBus.lean ====
section
/-! SUPPORT. What the operations of Sys2Proof/Machine/Bus.lean keep. -/

set_option linter.unusedSimpArgs false

namespace Sys2Proof.Machine

variable {z : State}

theorem keeps_tableWrite (s : State) (a : Nat) (m : Nat) (v : Nat) (mask : Nat) (h : Keeps z s) : Keeps z (tableWrite s a m v mask).1 := by
  unfold tableWrite
  with_reducible repeat (first | assumption | intro _ | apply keeps_fstIte | apply keeps_ite | apply keeps_memPutWord | apply keeps_foldl | apply keeps_fstIte | extract_lets | (simp only [keeps_mk, keeps_parts]) | split)

theorem keeps_ran (s : State) (o : Out) (h : Keeps z s) (ho : KeepsOut z o) : Keeps z (ran s o).1 := by
  unfold ran
  split
  · rename_i t
    exact (keeps_mk z).2 (ho.next t rfl).parts
  · exact h

theorem keeps_also (x : State × Nat) (go : Bool) (f : State → Out) (h : Keeps z x.1)
    (hf : ∀ u, Keeps z u → KeepsOut z (f u)) : Keeps z (also x go f).1 := by
  unfold also
  split
  · exact keeps_ran _ _ h (hf _ h)
  · exact h

theorem keeps_aliasPut (s : State) (ini : Nat) (a : Nat) (v : Nat) (mask : Nat) (h : Keeps z s) : Keeps z (aliasPut s ini a v mask).1 := by
  unfold aliasPut
  with_reducible repeat (first | assumption | intro _ | apply keeps_fstIte | apply keeps_ite | apply keeps_execAliasWrite | apply keeps_ran | apply keeps_foldl | apply keeps_fstIte)

theorem keeps_regWrite (s : State) (r : RegSpec) (cell : Nat) (v : Nat) (mask : Nat) (h : Keeps z s) : Keeps z (regWrite s r cell v mask).1 := by
  unfold regWrite
  with_reducible repeat (first | assumption | intro _ | apply keeps_fstIte | apply keeps_ite | apply keeps_setCell | apply keeps_foldl | apply keeps_fstIte)

theorem keeps_prefetchDrop (s : State) (ini : Nat) (h : Keeps z s) : Keeps z (prefetchDrop s ini) := by
  simp only [prefetchDrop]
  with_reducible repeat (first | assumption | intro _ | apply keeps_ite | apply keeps_wrs | apply keeps_foldl | apply keeps_fstIte | (simp only [keeps_mk, keeps_parts]) | split)

theorem keeps_prefetchDropWin (s : State) (w : Nat) (h : Keeps z s) : Keeps z (prefetchDropWin s w) := by
  unfold prefetchDropWin
  with_reducible repeat (first | assumption | intro _ | apply keeps_ite | apply keeps_prefetchDrop | apply keeps_each | apply keeps_foldl | apply keeps_fstIte | extract_lets | (simp only [keeps_mk, keeps_parts]))

theorem keeps_writeMgmt (s : State) (r : RegSpec) (a : Nat) (v : Nat) (mask : Nat) (h : Keeps z s) : KeepsSome z (writeMgmt s r a v mask) := by
  unfold writeMgmt
  with_reducible repeat (first | assumption | intro _ | apply keeps_none | apply keeps_some | apply keeps_someIte | apply keeps_ite | apply keeps_prefetchDropWin | apply keeps_regWrite | apply keeps_execTnkAckWrite | apply keeps_execTnkStatClear | apply keeps_ran | apply keeps_execFltRelease | apply keeps_execFfRearm | apply keeps_execResume | apply keeps_also | apply keeps_foldl | apply keeps_fstIte)

theorem keeps_writeEdge (s : State) (ini : Nat) (r : RegSpec) (a : Nat) (v : Nat) (mask : Nat) (h : Keeps z s) : KeepsSome z (writeEdge s ini r a v mask) := by
  unfold writeEdge
  with_reducible repeat (first | assumption | intro _ | apply keeps_none | apply keeps_some | apply keeps_someIte | apply keeps_ite | apply keeps_execAsyValWrite | apply keeps_execAsyFeedW | apply keeps_execAsyFeedH | apply keeps_execAsyFeedB | apply keeps_execAsyStart | apply keeps_used | apply keeps_execAsyRetest | apply keeps_ran | apply keeps_execBrnClear | apply keeps_execBrnOn | apply keeps_execBrnOff | apply keeps_execQFlush | apply keeps_execRbClr | apply keeps_also | apply keeps_setQuad | apply keeps_regWrite | apply keeps_foldl | apply keeps_fstIte)

theorem keeps_writeCan (s : State) (ini : Nat) (r : RegSpec) (a : Nat) (v : Nat) (mask : Nat) (h : Keeps z s) : KeepsSome z (writeCan s ini r a v mask) := by
  unfold writeCan
  with_reducible repeat (first | assumption | intro _ | apply keeps_none | apply keeps_some | apply keeps_someIte | apply keeps_ite | apply keeps_incSat | apply keeps_execTxbCancel | apply keeps_execTxbReq | apply keeps_regWrite | apply keeps_execCanFlushRx | apply keeps_execCanPopRx | apply keeps_execCanRecover | apply keeps_execCanEnable | apply keeps_execCanDisable | apply keeps_also | apply keeps_foldl | apply keeps_fstIte | extract_lets | (simp only [keeps_mk, keeps_parts]) | split)

theorem keeps_writeChn (s : State) (ini : Nat) (a : Nat) (v : Nat) (mask : Nat) (h : Keeps z s) : KeepsSome z (writeChn s ini a v mask) := by
  unfold writeChn
  with_reducible repeat (first | assumption | intro _ | apply keeps_none | apply keeps_some | apply keeps_someIte | apply keeps_ite | apply keeps_execChnTxpush | apply keeps_execChnFlushRx | apply keeps_execChnFlushTx | apply keeps_execChnPopRx | apply keeps_execChnEnable | apply keeps_execChnDisable | apply keeps_also | apply keeps_execPmDataAccess | apply keeps_ran | apply keeps_foldl | apply keeps_fstIte)

theorem keeps_writePlane (s : State) (ini : Nat) (r : RegSpec) (a : Nat) (v : Nat) (mask : Nat) (h : Keeps z s) : KeepsSome z (writePlane s ini r a v mask) := by
  unfold writePlane
  with_reducible repeat (first | assumption | intro _ | apply keeps_none | apply keeps_some | apply keeps_someIte | apply keeps_ite | apply keeps_mdioGo | apply keeps_execDestCmd | apply keeps_ran | apply keeps_regWrite | apply keeps_foldl | apply keeps_fstIte | extract_lets | (simp only [keeps_mk, keeps_parts]))

theorem keeps_writeTrigger (s : State) (ini : Nat) (r : RegSpec) (a : Nat) (v : Nat) (mask : Nat) (h : Keeps z s) : Keeps z (writeTrigger s ini r a v mask).1 := by
  unfold writeTrigger
  with_reducible repeat (first | assumption | intro _ | apply keeps_fstIte | apply keeps_ite | apply keeps_execTriggerArm | apply keeps_ran | apply keeps_execTriggerDisarm | apply keeps_regWrite | apply keeps_also | apply keeps_foldl | apply keeps_fstIte)

theorem keeps_writeBell (s : State) (ini : Nat) (r : RegSpec) (a : Nat) (v : Nat) (mask : Nat) (h : Keeps z s) : KeepsSome z (writeBell s ini r a v mask) := by
  unfold writeBell
  with_reducible repeat (first | assumption | intro _ | apply keeps_none | apply keeps_some | apply keeps_someIte | apply keeps_ite | apply keeps_writeTrigger | apply keeps_regWrite | apply keeps_execBellStep | apply keeps_execBellExtOfs | apply keeps_ran | apply keeps_foldl | apply keeps_fstIte | extract_lets | (simp only [keeps_mk, keeps_parts]))

theorem keeps_writeRing (s : State) (r : RegSpec) (a : Nat) (v : Nat) (mask : Nat) (h : Keeps z s) : KeepsSome z (writeRing s r a v mask) := by
  unfold writeRing
  with_reducible repeat (first | assumption | intro _ | apply keeps_none | apply keeps_some | apply keeps_someIte | apply keeps_ite | apply keeps_layoutRead | apply keeps_layoutWrite | apply keeps_roleGo | apply keeps_execSwLapWrite | apply keeps_ran | apply keeps_sfpGo | apply keeps_portCtrl | apply keeps_regWrite | apply keeps_foldl | apply keeps_fstIte)

theorem keeps_cmdRun (s : State) (h : Keeps z s) : KeepsOut z (cmdRun s) := by
  unfold cmdRun
  with_reducible repeat (first | assumption | intro _ | apply keeps_next | apply keeps_outIte | apply keeps_ite | apply keeps_execSchedLoad | apply keeps_execRslAbort | apply keeps_execRslConfirm | apply keeps_execRslActivate | apply keeps_execRslSeal | apply keeps_used | apply keeps_execRslBlock | apply keeps_execRslOpen | apply keeps_rslEnd | apply keeps_foldl | apply keeps_fstIte)

theorem keeps_writeSys (s : State) (ini : Nat) (r : RegSpec) (a : Nat) (v : Nat) (mask : Nat) (h : Keeps z s) : KeepsSome z (writeSys s ini r a v mask) := by
  unfold writeSys
  with_reducible repeat (first | assumption | intro _ | apply keeps_none | apply keeps_some | apply keeps_someIte | apply keeps_ite | apply keeps_execNvmErase | apply keeps_execNvmProgram | apply keeps_cmdRun | apply keeps_wrW | apply keeps_execNewNonce | apply keeps_execLcReturn | apply keeps_execLcField | apply keeps_execShutdown | apply keeps_regWrite | apply keeps_also | apply keeps_foldl | apply keeps_fstIte)

theorem keeps_writeActs (s : State) (ini : Nat) (r : RegSpec) (a : Nat) (v : Nat) (mask : Nat) (h : Keeps z s) : KeepsSome z (writeActs s ini r a v mask) := by
  unfold writeActs
  with_reducible repeat (first | assumption | intro _ | apply keeps_none | apply keeps_some | apply keeps_someIte | apply keeps_ite | apply keeps_writeMgmt | apply keeps_writeEdge | apply keeps_writeCan | apply keeps_writeChn | apply keeps_writePlane | apply keeps_writeBell | apply keeps_writeRing | apply keeps_writeSys | apply keeps_foldl | apply keeps_fstIte)

theorem keeps_writeReg (s : State) (ini : Nat) (r : RegSpec) (a : Nat) (v : Nat) (mask : Nat) (h : Keeps z s) : Keeps z (writeReg s ini r a v mask).1 := by
  unfold writeReg
  exact keeps_getD (keeps_writeActs _ _ _ _ _ _ h) (keeps_regWrite _ _ _ _ _ h)

theorem keeps_writeHigh (s : State) (ini : Nat) (r : RegSpec) (cell : Nat) (v : Nat) (mask : Nat) (h : Keeps z s) : Keeps z (writeHigh s ini r cell v mask).1 := by
  unfold writeHigh
  with_reducible repeat (first | assumption | intro _ | apply keeps_fstIte | apply keeps_ite | apply keeps_writeReg | apply keeps_foldl | apply keeps_fstIte | extract_lets | (simp only [keeps_mk, keeps_parts]))

theorem keeps_stageLow (s : State) (ini : Nat) (a : Nat) (v : Nat) (h : Keeps z s) : Keeps z (stageLow s ini a v) := by
  unfold stageLow
  with_reducible repeat (first | assumption | intro _ | apply keeps_ite | apply keeps_foldl | apply keeps_fstIte | extract_lets | (simp only [keeps_mk, keeps_parts]))

theorem keeps_writeWord (s : State) (ini : Nat) (r : RegSpec) (cell : Nat) (half : Nat) (v : Nat) (mask : Nat) (h : Keeps z s) : Keeps z (writeWord s ini r cell half v mask).1 := by
  unfold writeWord
  with_reducible repeat (first | assumption | intro _ | apply keeps_fstIte | apply keeps_ite | apply keeps_writeHigh | apply keeps_stageLow | apply keeps_writeReg | apply keeps_foldl | apply keeps_fstIte | extract_lets | (simp only [keeps_mk, keeps_parts]) | split)

theorem keeps_busWrite (s : State) (ini : Nat) (a : Nat) (v : Nat) (mask : Nat) (h : Keeps z s) : Keeps z (busWrite s ini a v mask).1 := by
  unfold busWrite
  with_reducible repeat (first | assumption | intro _ | apply keeps_fstIte | apply keeps_ite | apply keeps_tableWrite | apply keeps_aliasPut | apply keeps_writeWord | apply keeps_foldl | apply keeps_fstIte | extract_lets | (simp only [keeps_mk, keeps_parts]) | split)

theorem keeps_clearRc (s : State) (r : RegSpec) (cell : Nat) (half : Nat) (h : Keeps z s) : Keeps z (clearRc s r cell half) := by
  unfold clearRc
  with_reducible repeat (first | assumption | intro _ | apply keeps_ite | apply keeps_setCellWord | apply keeps_foldl | apply keeps_fstIte)

theorem keeps_readWord (s : State) (ini : Nat) (a : Nat) (r : RegSpec) (cell : Nat) (half : Nat) (h : Keeps z s) : Keeps z (readWord s ini a r cell half).1 := by
  unfold readWord
  with_reducible repeat (first | assumption | intro _ | apply keeps_fstIte | apply keeps_ite | apply keeps_execTsPop | apply keeps_execCapturePop | apply keeps_ran | apply keeps_clearRc | apply keeps_seenCell | apply keeps_foldl | apply keeps_fstIte | extract_lets | (simp only [keeps_mk, keeps_parts]))

theorem keeps_busRead (s : State) (ini : Nat) (a : Nat) (h : Keeps z s) : Keeps z (busRead s ini a).1 := by
  unfold busRead
  with_reducible repeat (first | assumption | intro _ | apply keeps_fstIte | apply keeps_ite | apply keeps_readWord | apply keeps_pmInc | apply keeps_layoutRead | apply keeps_foldl | apply keeps_fstIte | extract_lets | (simp only [keeps_mk, keeps_parts]) | split)

theorem keeps_cpuDo (s : State) (ini : Nat) (size : Nat) (a : Nat) (data : Option Nat) (h : Keeps z s) : Keeps z (cpuDo s ini size a data) := by
  unfold cpuDo
  with_reducible repeat (first | assumption | intro _ | apply keeps_ite | apply keeps_busWrite | apply keeps_busRead | apply keeps_emit | apply keeps_foldl | apply keeps_fstIte | extract_lets | (simp only [keeps_mk, keeps_parts]) | split)

theorem keeps_cpuAccess (s : State) (ini : Nat) (size : Nat) (a : Nat) (data : Option Nat) (h : Keeps z s) : Keeps z (cpuAccess s ini size a data) := by
  unfold cpuAccess
  with_reducible repeat (first | assumption | intro _ | apply keeps_ite | apply keeps_toCycle | apply keeps_cpuDo | apply keeps_foldl | apply keeps_fstIte | extract_lets | (simp only [keeps_mk, keeps_parts]))

theorem keeps_execRcRead (ini : Nat) (a : Nat) (s : State) (h : Keeps z s) : KeepsOut z (execRcRead ini a s) := by
  unfold execRcRead
  with_reducible repeat (first | assumption | intro _ | apply keeps_next | apply keeps_outIte | apply keeps_ite | apply keeps_cpuAccess | apply keeps_whenAlive | apply keeps_foldl | apply keeps_fstIte)

theorem keeps_execRegisterWrite (ini : Nat) (size : Nat) (a : Nat) (v : Nat) (same : Nat) (s : State) (h : Keeps z s) : KeepsOut z (execRegisterWrite ini size a v same s) := by
  unfold execRegisterWrite
  with_reducible repeat (first | assumption | intro _ | apply keeps_next | apply keeps_outIte | apply keeps_ite | apply keeps_cpuAccess | apply keeps_whenAlive | apply keeps_foldl | apply keeps_fstIte)

theorem keeps_execWideLowWrite (ini : Nat) (a : Nat) (v : Nat) (s : State) (h : Keeps z s) : KeepsOut z (execWideLowWrite ini a v s) := by
  unfold execWideLowWrite
  with_reducible repeat (first | assumption | intro _ | apply keeps_next | apply keeps_outIte | apply keeps_ite | apply keeps_cpuAccess | apply keeps_whenAlive | apply keeps_foldl | apply keeps_fstIte)

theorem keeps_execWideLowRead (ini : Nat) (a : Nat) (s : State) (h : Keeps z s) : KeepsOut z (execWideLowRead ini a s) := by
  unfold execWideLowRead
  with_reducible repeat (first | assumption | intro _ | apply keeps_next | apply keeps_outIte | apply keeps_ite | apply keeps_cpuAccess | apply keeps_whenAlive | apply keeps_foldl | apply keeps_fstIte)

end Sys2Proof.Machine
end

