-- ==== Sys2Proof/Laws/KeepsFry.lean ====
section
/-! SUPPORT. What the operations of Sys2Proof/Machine/Fry.lean keep. -/

set_option linter.unusedSimpArgs false

namespace Sys2Proof.Machine

variable {z : State}

theorem keeps_execPrefetchDiscard (ini : Nat) (s : State) (h : Keeps z s) : KeepsOut z (execPrefetchDiscard ini s) := by
  unfold execPrefetchDiscard
  with_reducible repeat (first | assumption | intro _ | apply keeps_next | apply keeps_outIte | apply keeps_ite | apply keeps_advanceTo | apply keeps_prefetchDrop | apply keeps_whenAlive | apply keeps_foldl | apply keeps_fstIte | extract_lets | (simp only [keeps_mk, keeps_parts]) | split)

theorem keeps_lpTimeout (s : State) (k : Nat) (h : Keeps z s) : Keeps z (lpTimeout s k) := by
  unfold lpTimeout
  with_reducible repeat (first | assumption | intro _ | apply keeps_ite | apply keeps_endReq | apply keeps_wr | apply keeps_foldl | apply keeps_fstIte | extract_lets | (simp only [keeps_mk, keeps_parts]))

theorem keeps_whenPort (s : State) (f : State → State) (h : Keeps z s) (hf : ∀ u, Keeps z u → Keeps z (f u)) : Keeps z (whenPort s f) := by
  unfold whenPort
  exact keeps_whenAlive _ h fun u hu => keeps_ite (hf u hu) hu

theorem keeps_execLpSvcTmo (s : State) (h : Keeps z s) : KeepsOut z (execLpSvcTmo s) := by
  unfold execLpSvcTmo
  with_reducible repeat (first | assumption | intro _ | apply keeps_next | apply keeps_outIte | apply keeps_ite | apply keeps_advanceTo | apply keeps_lpTimeout | apply keeps_whenPort | apply keeps_foldl | apply keeps_fstIte | extract_lets | (simp only [keeps_mk, keeps_parts]) | split)

theorem keeps_lpSay (s : State) (bs : List Byte) (h : Keeps z s) : Keeps z (lpSay s bs) := by
  unfold lpSay
  with_reducible repeat (first | assumption | intro _ | apply keeps_ite | apply keeps_emit | apply keeps_foldl | apply keeps_fstIte | extract_lets | (simp only [keeps_mk, keeps_parts]))

theorem keeps_lpEnd (s : State) (st : Nat) (data : List Nat) (h : Keeps z s) : Keeps z (lpEnd s st data) := by
  unfold lpEnd
  with_reducible repeat (first | assumption | intro _ | apply keeps_ite | apply keeps_lpSay | apply keeps_foldl | apply keeps_fstIte)

theorem keeps_outEnd (s : State) (ini : Nat) (win : Nat) (off : Nat) (st : Nat) (data : List Nat) (h : Keeps z s) : Keeps z (outEnd s ini win off st data) := by
  unfold outEnd
  with_reducible repeat (first | assumption | intro _ | apply keeps_ite | apply keeps_emit | apply keeps_wrs | apply keeps_lpEnd | apply keeps_foldl | apply keeps_fstIte)

theorem keeps_outIssue (s : State) (x : Txn) (h : Keeps z s) : Keeps z (outIssue s x) := by
  unfold outIssue
  with_reducible repeat (first | assumption | intro _ | apply keeps_ite | apply keeps_outEnd | apply keeps_insertFrame | apply keeps_wr | apply keeps_foldl | apply keeps_fstIte | extract_lets | (simp only [keeps_mk, keeps_parts]) | split)

theorem keeps_execRetryMargin (dt : Nat) (s : State) (h : Keeps z s) : KeepsOut z (execRetryMargin dt s) := by
  unfold execRetryMargin
  with_reducible repeat (first | assumption | intro _ | apply keeps_next | apply keeps_outIte | apply keeps_ite | apply keeps_unqueue | apply keeps_retryReq | apply keeps_each | apply keeps_whenAlive | apply keeps_advance | apply keeps_foldl | apply keeps_fstIte)

theorem keeps_execLpMreq (level : Bool) (s : State) (h : Keeps z s) : KeepsOut z (execLpMreq level s) := by
  unfold execLpMreq
  with_reducible repeat (first | assumption | intro _ | apply keeps_next | apply keeps_outIte | apply keeps_ite | apply keeps_wr | apply keeps_incSat | apply keeps_foldl | apply keeps_fstIte | extract_lets | (simp only [keeps_mk, keeps_parts]))

theorem keeps_reqWait (s : State) (r : Req) (h : Keeps z s) : Keeps z (reqWait s r) := by
  unfold reqWait
  with_reducible repeat (first | assumption | intro _ | apply keeps_ite | apply keeps_foldl | apply keeps_fstIte | extract_lets | (simp only [keeps_mk, keeps_parts]))

theorem keeps_answerReq (s : State) (r : Req) (st : Nat) (info : Nat) (data : List Nat) (h : Keeps z s) : Keeps z (answerReq s r st info data) := by
  unfold answerReq
  with_reducible repeat (first | assumption | intro _ | apply keeps_ite | apply keeps_respond | apply keeps_foldl | apply keeps_fstIte)

theorem keeps_reqWindow (s : State) (r : Req) (h : Keeps z s) : Keeps z (reqWindow s r) := by
  unfold reqWindow
  with_reducible repeat (first | assumption | intro _ | apply keeps_ite | apply keeps_setChn | apply keeps_reqWait | apply keeps_answerReq | apply keeps_foldl | apply keeps_fstIte)

theorem keeps_readRun (s : State) (ini a n : Nat) (acc : List Nat) (h : Keeps z s) : Keeps z (readRun s ini a n acc).s := by
  induction n generalizing s a acc with
  | zero => exact h
  | succ n ih =>
    unfold readRun
    dsimp only
    split
    · exact keeps_busRead _ _ _ h
    · exact ih _ _ _ (keeps_busRead _ _ _ h)

theorem keeps_writeRun (s : State) (ini a : Nat) (l : List Nat) (h : Keeps z s) : Keeps z (writeRun s ini a l).s := by
  induction l generalizing s a with
  | nil => exact h
  | cons w l ih =>
    unfold writeRun
    dsimp only
    split
    · exact keeps_busWrite _ _ _ _ _ h
    · split
      · exact keeps_busWrite _ _ _ _ _ h
      · exact ih _ _ (keeps_busWrite _ _ _ _ _ h)

theorem keeps_rmwRun (s : State) (ini a mask v : Nat) (h : Keeps z s) : Keeps z (rmwRun s ini a mask v).s := by
  unfold rmwRun
  dsimp only
  split
  · exact keeps_busRead _ _ _ h
  · split <;> exact keeps_busWrite _ _ _ _ _ (keeps_busRead _ _ _ h)

theorem keeps_wordsRun (s : State) (ini : Nat) (r : Req) (h : Keeps z s) : Keeps z (wordsRun s ini r).s := by
  unfold wordsRun
  split
  · exact keeps_readRun _ _ _ _ _ h
  · split
    · exact keeps_writeRun _ _ _ _ h
    · exact keeps_rmwRun _ _ _ _ _ h

theorem keeps_reqRun (s : State) (ini : Nat) (r : Req) (h : Keeps z s) : Keeps z (reqRun s ini r) := by
  unfold reqRun
  have hx := keeps_wordsRun s ini r h
  generalize wordsRun s ini r = x at hx
  dsimp only
  exact keeps_ite hx (keeps_ite (keeps_ite (keeps_lpEnd _ _ _ hx) hx) (keeps_answerReq _ _ _ _ _ hx))

theorem keeps_reqLocal (s : State) (ini : Nat) (r : Req) (h : Keeps z s) : Keeps z (reqLocal s ini r) := by
  unfold reqLocal
  with_reducible repeat (first | assumption | intro _ | apply keeps_ite | apply keeps_toCycle | apply keeps_reqRun | apply keeps_foldl | apply keeps_fstIte | extract_lets | (simp only [keeps_mk, keeps_parts]))

theorem keeps_mgmtServe (s : State) (r0 : Req) (flags : Nat) (tmo : Nat) (origT : Nat) (demand : Nat) (h : Keeps z s) : Keeps z (mgmtServe s r0 flags tmo origT demand) := by
  unfold mgmtServe
  with_reducible repeat (first | assumption | intro _ | apply keeps_ite | apply keeps_reqWindow | apply keeps_reqLocal | apply keeps_expireReq | apply keeps_answerReq | apply keeps_emit | apply keeps_foldl | apply keeps_fstIte)

theorem keeps_execMgmtRmw (src : Nat) (sport : Nat) (tag : Nat) (flags : Nat) (addr : Nat) (count : Nat) (tmo : Nat) (origT : Nat) (mask : Nat) (data : Nat) (s : State) (h : Keeps z s) : KeepsOut z (execMgmtRmw src sport tag flags addr count tmo origT mask data s) := by
  unfold execMgmtRmw
  with_reducible repeat (first | assumption | intro _ | apply keeps_next | apply keeps_outIte | apply keeps_ite | apply keeps_mgmtServe | apply keeps_foldl | apply keeps_fstIte)

theorem keeps_outStart (s : State) (x : Txn) (h : Keeps z s) : Keeps z (outStart s x) := by
  unfold outStart
  with_reducible repeat (first | assumption | intro _ | apply keeps_ite | apply keeps_outIssue | apply keeps_foldl | apply keeps_fstIte | extract_lets | (simp only [keeps_mk, keeps_parts]))

theorem keeps_outDiscard (s : State) (ini : Nat) (op : Nat) (a : Nat) (count : Nat) (h : Keeps z s) : Keeps z (outDiscard s ini op a count) := by
  unfold outDiscard
  with_reducible repeat (first | assumption | intro _ | apply keeps_ite | apply keeps_prefetchDropWin | apply keeps_prefetchDrop | apply keeps_foldl | apply keeps_fstIte | extract_lets | (simp only [keeps_mk, keeps_parts]))

theorem keeps_outbound (s : State) (ini : Nat) (op : Nat) (a : Nat) (count : Nat) (mask : Nat) (data : List Nat) (h : Keeps z s) : Keeps z (outbound s ini op a count mask data) := by
  unfold outbound
  with_reducible repeat (first | assumption | intro _ | apply keeps_ite | apply keeps_outStart | apply keeps_outDiscard | apply keeps_outEnd | apply keeps_foldl | apply keeps_fstIte | extract_lets | (simp only [keeps_mk, keeps_parts]) | split)

theorem keeps_lpTrans (s : State) (f : State → State) (h : Keeps z s) (hf : ∀ u, Keeps z u → Keeps z (f u)) : Keeps z (lpTrans s f) := by
  unfold lpTrans
  exact keeps_whenPort _ _ h fun u hu => keeps_ite (keeps_lpEnd _ _ _ hu) (hf u hu)

theorem keeps_lpServe (s : State) (op : Nat) (a : Nat) (count : Nat) (mask : Nat) (data : List Nat) (h : Keeps z s) : Keeps z (lpServe s op a count mask data) := by
  unfold lpServe
  with_reducible repeat (first | assumption | intro _ | apply keeps_ite | apply keeps_reqLocal | apply keeps_outbound | apply keeps_lpEnd | apply keeps_lpTrans | apply keeps_foldl | apply keeps_fstIte | extract_lets | (simp only [keeps_mk, keeps_parts]))

theorem keeps_execLpWrite (a : Nat) (data : List Nat) (s : State) (h : Keeps z s) : KeepsOut z (execLpWrite a data s) := by
  unfold execLpWrite
  with_reducible repeat (first | assumption | intro _ | apply keeps_next | apply keeps_outIte | apply keeps_ite | apply keeps_lpServe | apply keeps_foldl | apply keeps_fstIte)

theorem keeps_execMgmtRead (src : Nat) (sport : Nat) (tag : Nat) (op : Nat) (flags : Nat) (addr : Nat) (count : Nat) (tmo : Nat) (origT : Nat) (demand : Nat) (s : State) (h : Keeps z s) : KeepsOut z (execMgmtRead src sport tag op flags addr count tmo origT demand s) := by
  unfold execMgmtRead
  with_reducible repeat (first | assumption | intro _ | apply keeps_next | apply keeps_outIte | apply keeps_ite | apply keeps_mgmtServe | apply keeps_foldl | apply keeps_fstIte)

theorem keeps_execMgmtBwr (src : Nat) (tag : Nat) (flags : Nat) (addr : Nat) (count : Nat) (tmo : Nat) (origT : Nat) (data : List Nat) (s : State) (h : Keeps z s) : KeepsOut z (execMgmtBwr src tag flags addr count tmo origT data s) := by
  unfold execMgmtBwr
  with_reducible repeat (first | assumption | intro _ | apply keeps_next | apply keeps_outIte | apply keeps_ite | apply keeps_mgmtServe | apply keeps_foldl | apply keeps_fstIte)

theorem keeps_execLpProtoErr (exchange : Bool) (s : State) (h : Keeps z s) : KeepsOut z (execLpProtoErr exchange s) := by
  unfold execLpProtoErr
  with_reducible repeat (first | assumption | intro _ | apply keeps_next | apply keeps_outIte | apply keeps_ite | apply keeps_endReq | apply keeps_wr | apply keeps_whenPort | apply keeps_foldl | apply keeps_fstIte | extract_lets | (simp only [keeps_mk, keeps_parts]) | split)

theorem keeps_accessRun (s : State) (x : Access) (h : Keeps z s) : Keeps z (accessRun s x) := by
  unfold accessRun
  with_reducible repeat (first | assumption | intro _ | apply keeps_ite | apply keeps_reqRun | apply keeps_cpuDo | apply keeps_foldl | apply keeps_fstIte | extract_lets | (simp only [keeps_mk, keeps_parts]) | split)

theorem keeps_execLpRxfRd (s : State) (h : Keeps z s) : KeepsOut z (execLpRxfRd s) := by
  unfold execLpRxfRd
  with_reducible repeat (first | assumption | intro _ | apply keeps_next | apply keeps_outIte | apply keeps_ite | apply keeps_lpSay | apply keeps_lpTrans | apply keeps_foldl | apply keeps_fstIte | extract_lets | (simp only [keeps_mk, keeps_parts]) | split)

theorem keeps_execLpHreqAssert (s : State) (h : Keeps z s) : KeepsOut z (execLpHreqAssert s) := by
  unfold execLpHreqAssert
  with_reducible repeat (first | assumption | intro _ | apply keeps_next | apply keeps_outIte | apply keeps_ite | apply keeps_advanceTo | apply keeps_whenPort | apply keeps_foldl | apply keeps_fstIte | extract_lets | (simp only [keeps_mk, keeps_parts]) | split)

theorem keeps_fillEnd (s : State) (x : Txn) (data : List Nat) (h : Keeps z s) : Keeps z (fillEnd s x data) := by
  unfold fillEnd
  with_reducible repeat (first | assumption | intro _ | apply keeps_ite | apply keeps_outEnd | apply keeps_wrs | apply keeps_foldl | apply keeps_fstIte | extract_lets | (simp only [keeps_mk, keeps_parts]))

theorem keeps_outPump (s : State) (h : Keeps z s) : Keeps z (outPump s) := by
  unfold outPump
  with_reducible repeat (first | assumption | intro _ | apply keeps_ite | apply keeps_outIssue | apply keeps_foldl | apply keeps_fstIte | extract_lets | (simp only [keeps_mk, keeps_parts]) | split)

theorem keeps_outDrop (s : State) (x : Txn) (h : Keeps z s) : Keeps z (outDrop s x) := by
  unfold outDrop
  with_reducible repeat (first | assumption | intro _ | apply keeps_ite | apply keeps_foldl | apply keeps_fstIte | extract_lets | (simp only [keeps_mk, keeps_parts]))

theorem keeps_outTimeout (s : State) (x : Txn) (h : Keeps z s) : Keeps z (outTimeout s x) := by
  unfold outTimeout
  with_reducible repeat (first | assumption | intro _ | apply keeps_ite | apply keeps_incSat | apply keeps_wr | apply keeps_outEnd | apply keeps_outPump | apply keeps_advanceTo | apply keeps_outDrop | apply keeps_foldl | apply keeps_fstIte)

theorem keeps_lateLog (s : State) (hub : Nat) (tag : Nat) (op : Nat) (st : Nat) (info : Nat) (h : Keeps z s) : Keeps z (lateLog s hub tag op st info) := by
  unfold lateLog
  with_reducible repeat (first | assumption | intro _ | apply keeps_ite | apply keeps_incSat | apply keeps_raise | apply keeps_wrs | apply keeps_foldl | apply keeps_fstIte)

theorem keeps_execMgmtRsp (hub : Nat) (tag : Nat) (op : Nat) (st : Nat) (info : Nat) (data : List Nat) (s : State) (h : Keeps z s) : KeepsOut z (execMgmtRsp hub tag op st info data s) := by
  unfold execMgmtRsp
  with_reducible repeat (first | assumption | intro _ | apply keeps_next | apply keeps_outIte | apply keeps_ite | apply keeps_outEnd | apply keeps_fillEnd | apply keeps_outPump | apply keeps_outDrop | apply keeps_outTimeout | apply keeps_lateLog | apply keeps_whenAlive | apply keeps_foldl | apply keeps_fstIte | extract_lets | (simp only [keeps_mk, keeps_parts]) | split)

theorem keeps_execLpTxfWr (x_h : List Byte) (payload : List Byte) (s : State) (h : Keeps z s) : KeepsOut z (execLpTxfWr x_h payload s) := by
  unfold execLpTxfWr
  with_reducible repeat (first | assumption | intro _ | apply keeps_next | apply keeps_outIte | apply keeps_ite | apply keeps_lpEnd | apply keeps_insertOr | apply keeps_used | apply keeps_lpSay | apply keeps_lpTrans | apply keeps_foldl | apply keeps_fstIte | extract_lets | (simp only [keeps_mk, keeps_parts]) | split)

theorem keeps_execRequestExpired (k : Option Nat) (s : State) (h : Keeps z s) : KeepsOut z (execRequestExpired k s) := by
  unfold execRequestExpired
  with_reducible repeat (first | assumption | intro _ | apply keeps_next | apply keeps_outIte | apply keeps_ite | apply keeps_unqueue | apply keeps_dropReq | apply keeps_expireReq | apply keeps_whenAlive | apply keeps_foldl | apply keeps_fstIte | extract_lets | (simp only [keeps_mk, keeps_parts]) | split)

theorem keeps_execTxTableFullTimeout (s : State) (h : Keeps z s) : KeepsOut z (execTxTableFullTimeout s) := by
  unfold execTxTableFullTimeout
  with_reducible repeat (first | assumption | intro _ | apply keeps_next | apply keeps_outIte | apply keeps_ite | apply keeps_advanceTo | apply keeps_outEnd | apply keeps_whenAlive | apply keeps_foldl | apply keeps_fstIte | extract_lets | (simp only [keeps_mk, keeps_parts]) | split)

theorem keeps_execOutboundWrite (ini : Nat) (a : Nat) (data : List Nat) (s : State) (h : Keeps z s) : KeepsOut z (execOutboundWrite ini a data s) := by
  unfold execOutboundWrite
  with_reducible repeat (first | assumption | intro _ | apply keeps_next | apply keeps_outIte | apply keeps_ite | apply keeps_outbound | apply keeps_emit | apply keeps_whenAlive | apply keeps_lpServe | apply keeps_foldl | apply keeps_fstIte)

theorem keeps_execLpService (s : State) (h : Keeps z s) : KeepsOut z (execLpService s) := by
  unfold execLpService
  refine keeps_next (keeps_lpTrans _ _ h fun u hu => ?_)
  split
  · exact hu
  · split
    · exact hu
    · rename_i r _
      have ht : Keeps z { u with fry := { u.fry with lpAsk := none } } := (keeps_mk z).2 hu.parts
      dsimp only
      split
      · rename_i v e
        exact keeps_lateStart _ _ r ht v e
      · exact keeps_lpSay _ _ ((keeps_mk z).2 hu.parts)

theorem keeps_execMgmtWrite (src : Nat) (sport : Nat) (tag : Nat) (flags : Nat) (addr : Nat) (count : Nat) (tmo : Nat) (origT : Nat) (data : List Nat) (s : State) (h : Keeps z s) : KeepsOut z (execMgmtWrite src sport tag flags addr count tmo origT data s) := by
  unfold execMgmtWrite
  with_reducible repeat (first | assumption | intro _ | apply keeps_next | apply keeps_outIte | apply keeps_ite | apply keeps_mgmtServe | apply keeps_foldl | apply keeps_fstIte)

theorem keeps_execOutboundTimeout (tag : Nat) (s : State) (h : Keeps z s) : KeepsOut z (execOutboundTimeout tag s) := by
  unfold execOutboundTimeout
  with_reducible repeat (first | assumption | intro _ | apply keeps_next | apply keeps_outIte | apply keeps_ite | apply keeps_outTimeout | apply keeps_whenAlive | apply keeps_foldl | apply keeps_fstIte | extract_lets | (simp only [keeps_mk, keeps_parts]) | split)

theorem keeps_execLpRead (a : Nat) (count : Nat) (s : State) (h : Keeps z s) : KeepsOut z (execLpRead a count s) := by
  unfold execLpRead
  with_reducible repeat (first | assumption | intro _ | apply keeps_next | apply keeps_outIte | apply keeps_ite | apply keeps_lpServe | apply keeps_foldl | apply keeps_fstIte)

theorem keeps_execLpStat (s : State) (h : Keeps z s) : KeepsOut z (execLpStat s) := by
  unfold execLpStat
  with_reducible repeat (first | assumption | intro _ | apply keeps_next | apply keeps_outIte | apply keeps_ite | apply keeps_lpSay | apply keeps_seenCell | apply keeps_lpTrans | apply keeps_foldl | apply keeps_fstIte)

theorem keeps_execLpRmw (a : Nat) (mask : Nat) (data : Nat) (s : State) (h : Keeps z s) : KeepsOut z (execLpRmw a mask data s) := by
  unfold execLpRmw
  with_reducible repeat (first | assumption | intro _ | apply keeps_next | apply keeps_outIte | apply keeps_ite | apply keeps_lpServe | apply keeps_foldl | apply keeps_fstIte)

theorem keeps_execLpComplete (tag : Nat) (st : Nat) (data : List Nat) (s : State) (h : Keeps z s) : KeepsOut z (execLpComplete tag st data s) := by
  simp only [execLpComplete]
  with_reducible repeat (first | assumption | intro _ | apply keeps_next | apply keeps_outIte | apply keeps_ite | apply keeps_endReq | apply keeps_incWrap | apply keeps_lpTimeout | apply keeps_lpEnd | apply keeps_lpTrans | apply keeps_foldl | apply keeps_fstIte | (simp only [keeps_mk, keeps_parts]) | split)

theorem keeps_execOutboundRead (ini : Nat) (a : Nat) (count : Nat) (s : State) (h : Keeps z s) : KeepsOut z (execOutboundRead ini a count s) := by
  unfold execOutboundRead
  with_reducible repeat (first | assumption | intro _ | apply keeps_next | apply keeps_outIte | apply keeps_ite | apply keeps_outbound | apply keeps_emit | apply keeps_whenAlive | apply keeps_lpServe | apply keeps_foldl | apply keeps_fstIte)

end Sys2Proof.Machine
end

