-- ==== Sys2Proof/Laws/KeepsTrd.lean ====
section
/-! SUPPORT. What the operations of Sys2Proof/Machine/Trd.lean keep. -/

set_option linter.unusedSimpArgs false

namespace Sys2Proof.Machine

variable {z : State}

theorem keeps_runWaiting (s : State) (h : Keeps z s) : Keeps z (runWaiting s) := by
  unfold runWaiting
  with_reducible repeat (first | assumption | intro _ | apply keeps_ite | apply keeps_accessRun | apply keeps_foldl | apply keeps_fstIte | extract_lets | (simp only [keeps_mk, keeps_parts]))

theorem keeps_tickDrop (s : State) (h : Keeps z s) : Keeps z (tickDrop s) := by
  unfold tickDrop
  with_reducible repeat (first | assumption | intro _ | apply keeps_ite | apply keeps_wr | apply keeps_runWaiting | apply keeps_foldl | apply keeps_fstIte)

theorem keeps_laneRuns (is : Rule → Bool) (lane : Nat) (stall : Nat) (s : State) (h : Keeps z s) : KeepsOut z (laneRuns is lane stall s) := by
  unfold laneRuns
  with_reducible repeat (first | assumption | intro _ | apply keeps_next | apply keeps_outIte | apply keeps_ite | apply keeps_tickDrop | apply keeps_ruleCmd | apply keeps_whenAlive | apply keeps_foldl | apply keeps_fstIte)

theorem keeps_execRuleEdge (lane : Nat) (stall : Nat) (s : State) (h : Keeps z s) : KeepsOut z (execRuleEdge lane stall s) := by
  unfold execRuleEdge
  with_reducible repeat (first | assumption | intro _ | apply keeps_next | apply keeps_outIte | apply keeps_ite | apply keeps_laneRuns | apply keeps_foldl | apply keeps_fstIte)

theorem keeps_execRuleNop (lane : Nat) (stall : Nat) (s : State) (h : Keeps z s) : KeepsOut z (execRuleNop lane stall s) := by
  unfold execRuleNop
  with_reducible repeat (first | assumption | intro _ | apply keeps_next | apply keeps_outIte | apply keeps_ite | apply keeps_laneRuns | apply keeps_foldl | apply keeps_fstIte)

theorem keeps_execRuleCnt (lane : Nat) (stall : Nat) (s : State) (h : Keeps z s) : KeepsOut z (execRuleCnt lane stall s) := by
  unfold execRuleCnt
  with_reducible repeat (first | assumption | intro _ | apply keeps_next | apply keeps_outIte | apply keeps_ite | apply keeps_laneRuns | apply keeps_foldl | apply keeps_fstIte)

theorem keeps_execRuleTof (lane : Nat) (stall : Nat) (s : State) (h : Keeps z s) : KeepsOut z (execRuleTof lane stall s) := by
  unfold execRuleTof
  with_reducible repeat (first | assumption | intro _ | apply keeps_next | apply keeps_outIte | apply keeps_ite | apply keeps_laneRuns | apply keeps_foldl | apply keeps_fstIte)

theorem keeps_execRuleSnap (lane : Nat) (stall : Nat) (s : State) (h : Keeps z s) : KeepsOut z (execRuleSnap lane stall s) := by
  unfold execRuleSnap
  with_reducible repeat (first | assumption | intro _ | apply keeps_next | apply keeps_outIte | apply keeps_ite | apply keeps_laneRuns | apply keeps_foldl | apply keeps_fstIte)

theorem keeps_execRuleBarrier (lane : Nat) (stall : Nat) (s : State) (h : Keeps z s) : KeepsOut z (execRuleBarrier lane stall s) := by
  unfold execRuleBarrier
  with_reducible repeat (first | assumption | intro _ | apply keeps_next | apply keeps_outIte | apply keeps_ite | apply keeps_laneRuns | apply keeps_foldl | apply keeps_fstIte)

theorem keeps_execP4Launch (s : State) (h : Keeps z s) : KeepsOut z (execP4Launch s) := by
  unfold execP4Launch
  with_reducible repeat (first | assumption | intro _ | apply keeps_next | apply keeps_outIte | apply keeps_ite | apply keeps_toCycle | apply keeps_runWaiting | apply keeps_p4Launch | apply keeps_tickDrop | apply keeps_whenAlive | apply keeps_foldl | apply keeps_fstIte)

theorem keeps_execRuleCmp (lane : Nat) (stall : Nat) (s : State) (h : Keeps z s) : KeepsOut z (execRuleCmp lane stall s) := by
  unfold execRuleCmp
  with_reducible repeat (first | assumption | intro _ | apply keeps_next | apply keeps_outIte | apply keeps_ite | apply keeps_laneRuns | apply keeps_foldl | apply keeps_fstIte)

theorem keeps_execRuleBool (lane : Nat) (stall : Nat) (s : State) (h : Keeps z s) : KeepsOut z (execRuleBool lane stall s) := by
  unfold execRuleBool
  with_reducible repeat (first | assumption | intro _ | apply keeps_next | apply keeps_outIte | apply keeps_ite | apply keeps_laneRuns | apply keeps_foldl | apply keeps_fstIte)

theorem keeps_execP3Commit (s : State) (h : Keeps z s) : KeepsOut z (execP3Commit s) := by
  unfold execP3Commit
  with_reducible repeat (first | assumption | intro _ | apply keeps_next | apply keeps_outIte | apply keeps_ite | apply keeps_p3Commit | apply keeps_tickDrop | apply keeps_whenAlive | apply keeps_foldl | apply keeps_fstIte)

theorem keeps_execRuleArith (lane : Nat) (stall : Nat) (s : State) (h : Keeps z s) : KeepsOut z (execRuleArith lane stall s) := by
  unfold execRuleArith
  with_reducible repeat (first | assumption | intro _ | apply keeps_next | apply keeps_outIte | apply keeps_ite | apply keeps_laneRuns | apply keeps_foldl | apply keeps_fstIte)

theorem keeps_execRuleLatch (lane : Nat) (stall : Nat) (s : State) (h : Keeps z s) : KeepsOut z (execRuleLatch lane stall s) := by
  unfold execRuleLatch
  with_reducible repeat (first | assumption | intro _ | apply keeps_next | apply keeps_outIte | apply keeps_ite | apply keeps_laneRuns | apply keeps_foldl | apply keeps_fstIte)

theorem keeps_execTickBoundary (s : State) (h : Keeps z s) : KeepsOut z (execTickBoundary s) := by
  unfold execTickBoundary
  with_reducible repeat (first | assumption | intro _ | apply keeps_next | apply keeps_outIte | apply keeps_ite | apply keeps_resumeTake | apply keeps_tickDrop | apply keeps_tickBoundary | apply keeps_whenAlive | apply keeps_foldl | apply keeps_fstIte)

theorem keeps_execRuleScale (lane : Nat) (stall : Nat) (s : State) (h : Keeps z s) : KeepsOut z (execRuleScale lane stall s) := by
  unfold execRuleScale
  with_reducible repeat (first | assumption | intro _ | apply keeps_next | apply keeps_outIte | apply keeps_ite | apply keeps_laneRuns | apply keeps_foldl | apply keeps_fstIte)

theorem keeps_execRuleSel (lane : Nat) (stall : Nat) (s : State) (h : Keeps z s) : KeepsOut z (execRuleSel lane stall s) := by
  unfold execRuleSel
  with_reducible repeat (first | assumption | intro _ | apply keeps_next | apply keeps_outIte | apply keeps_ite | apply keeps_laneRuns | apply keeps_foldl | apply keeps_fstIte)

theorem keeps_execRuleZone (lane : Nat) (stall : Nat) (s : State) (h : Keeps z s) : KeepsOut z (execRuleZone lane stall s) := by
  unfold execRuleZone
  with_reducible repeat (first | assumption | intro _ | apply keeps_next | apply keeps_outIte | apply keeps_ite | apply keeps_laneRuns | apply keeps_foldl | apply keeps_fstIte)

theorem keeps_execRuleTon (lane : Nat) (stall : Nat) (s : State) (h : Keeps z s) : KeepsOut z (execRuleTon lane stall s) := by
  unfold execRuleTon
  with_reducible repeat (first | assumption | intro _ | apply keeps_next | apply keeps_outIte | apply keeps_ite | apply keeps_laneRuns | apply keeps_foldl | apply keeps_fstIte)

theorem keeps_execMailboxWrite (ini : Nat) (a : Nat) (v : Nat) (s : State) (h : Keeps z s) : KeepsOut z (execMailboxWrite ini a v s) := by
  unfold execMailboxWrite
  with_reducible repeat (first | assumption | intro _ | apply keeps_next | apply keeps_outIte | apply keeps_ite | apply keeps_cpuAccess | apply keeps_whenAlive | apply keeps_foldl | apply keeps_fstIte)

theorem keeps_execP2Evaluate (late : Nat) (s : State) (h : Keeps z s) : KeepsOut z (execP2Evaluate late s) := by
  unfold execP2Evaluate
  with_reducible repeat (first | assumption | intro _ | apply keeps_next | apply keeps_outIte | apply keeps_ite | apply keeps_p1End | apply keeps_tickDrop | apply keeps_whenAlive | apply keeps_foldl | apply keeps_fstIte)

end Sys2Proof.Machine
end

