-- ==== Sys2Proof/Laws/KeepsDump.lean ====
section
/-! SUPPORT. What the operations of Sys2Proof/Machine/Dump.lean keep. -/

set_option linter.unusedSimpArgs false

namespace Sys2Proof.Machine

variable {z : State}

theorem keeps_heldRun (s : State) (c : Instr) (h : Keeps z s) : Keeps z (heldRun s c) := by
  unfold heldRun
  with_reducible repeat (first | assumption | intro _ | apply keeps_ite | apply keeps_cobblerErase | apply keeps_stocktakeErase | apply keeps_trialHour | apply keeps_rslAbort | apply keeps_rslConfirm | apply keeps_eraseDone | apply keeps_sealComplete | apply keeps_rslBlock | apply keeps_foldl | apply keeps_fstIte | extract_lets | (simp only [keeps_mk, keeps_parts]) | split)

theorem keeps_execNvmDone (ok : Bool) (s : State) (h : Keeps z s) : KeepsOut z (execNvmDone ok s) := by
  unfold execNvmDone
  with_reducible repeat (first | assumption | intro _ | apply keeps_next | apply keeps_outIte | apply keeps_ite | apply keeps_accessRun | apply keeps_nvmEnd | apply keeps_whenAlive | apply keeps_foldl | apply keeps_fstIte | extract_lets | (simp only [keeps_mk, keeps_parts]))

theorem keeps_execPfwNRise (s : State) (h : Keeps z s) : KeepsOut z (execPfwNRise s) := by
  unfold execPfwNRise
  with_reducible repeat (first | assumption | intro _ | apply keeps_next | apply keeps_outIte | apply keeps_ite | apply keeps_heldRun | apply keeps_foldl | apply keeps_fstIte | extract_lets | (simp only [keeps_mk, keeps_parts]))

theorem keeps_writeSections (s : State) (base part n : Nat) (l : List (Nat × Nat × Nat)) (h : Keeps z s) :
    Keeps z (writeSections s base part n l).1 := by
  induction l generalizing s n with
  | nil => cases n <;> exact h
  | cons x l ih =>
    have hp : ∀ bs k, Keeps z { norProgram s (base + x.2.1) bs with fresh := s.fresh + k } := fun bs k => by
      have hn := (keeps_norProgram (base + x.2.1) bs (Keeps.refl s)).parts
      exact h.trans ⟨⟨hn.pending, hn.mem, hn.otp, Nat.le_add_right _ _⟩⟩
    cases n with
    | zero =>
      unfold writeSections
      dsimp only
      split
      · exact h
      · exact hp _ _
    | succ n =>
      unfold writeSections
      exact ih _ n (hp _ _)

theorem keeps_dumpWrite (s : State) (d : Dump) (half : Nat) (sections : Nat) (part : Nat) (h : Keeps z s) : Keeps z (dumpWrite s d half sections part) := by
  unfold dumpWrite
  dsimp only
  exact keeps_norPut _ _ _ _ (keeps_norProgram _ _ (keeps_writeSections _ _ _ _ _ (keeps_ite (keeps_advanceTo _ _ h) h)))

theorem keeps_execTelemetryWrite (tHub : Int) (tBpd : Int) (vbus : Nat) (s : State) (h : Keeps z s) : KeepsOut z (execTelemetryWrite tHub tBpd vbus s) := by
  unfold execTelemetryWrite
  with_reducible repeat (first | assumption | intro _ | apply keeps_next | apply keeps_outIte | apply keeps_ite | apply keeps_aliasWrite | apply keeps_whenAlive | apply keeps_foldl | apply keeps_fstIte)

theorem keeps_execDumpEnd (sections : Nat) (part : Nat) (s : State) (h : Keeps z s) : KeepsOut z (execDumpEnd sections part s) := by
  unfold execDumpEnd
  with_reducible repeat (first | assumption | intro _ | apply keeps_next | apply keeps_outIte | apply keeps_ite | apply keeps_dumpWrite | apply keeps_orderReset | apply keeps_whenAlive | apply keeps_foldl | apply keeps_fstIte | extract_lets | (simp only [keeps_mk, keeps_parts]) | split)

end Sys2Proof.Machine
end

