-- ==== Sys2Proof/WellFormed.lean ====
section
/-! DEFINITION. Which commands are well formed: every operand within the range that the spec gives what it names. A
command that is not well formed names something the hub does not have; its meaning leaves the state as it is, or takes
the operand modulo its width. -/

namespace Sys2Proof

/-- Raises name sources below 128 and carry 32-bit cause words (R330). -/
def raisesOk (l : List (Nat × Nat)) : Bool := l.all fun x => decide (x.1 < 128) && decide (x.2 < 2 ^ 32)

/-- A command is well formed. -/
def Instr.wf (i : Instr) : Bool :=
  match i with
  | .powerOnReset _ => true
  | .sysRstN _ => true
  | .refclkFailure => true
  | .refclkRecovery => true
  | .hubDomainRelease => true
  | .d2dLinkFrame _ _ => true
  | .d2dLinkLost _ _ _ => true
  | .watchdogFirstExpiry pairs => decide (pairs < 4)
  | .watchdogSecondExpiry => true
  | .tickBoundary => true
  | .p2Evaluate late => decide (late < 16)
  | .p3Commit => true
  | .p4Launch => true
  | .ruleNop lane _ => decide (lane < 4)
  | .ruleBool lane _ => decide (lane < 4)
  | .ruleCmp lane _ => decide (lane < 4)
  | .ruleArith lane _ => decide (lane < 4)
  | .ruleScale lane _ => decide (lane < 4)
  | .ruleSel lane _ => decide (lane < 4)
  | .ruleEdge lane _ => decide (lane < 4)
  | .ruleLatch lane _ => decide (lane < 4)
  | .ruleTon lane _ => decide (lane < 4)
  | .ruleTof lane _ => decide (lane < 4)
  | .ruleCnt lane _ => decide (lane < 4)
  | .ruleZone lane _ => decide (lane < 4)
  | .ruleSnap lane _ => decide (lane < 4)
  | .ruleBarrier lane _ => decide (lane < 4)
  | .mailboxWrite ini addr v => decide (ini < 4) && decide (addr < 2 ^ 32) && decide (v < 2 ^ 32)
  | .ledgerAging => true
  | .aliasWrite ini i off _ => decide (ini < 3) && decide (i < 256) && decide (off < 64)
  | .trainFramePass _ _ _ p _ => decide (p < 4)
  | .trainFifoStomp p t => decide (p < 4) && decide (t < 4)
  | .lapLaunch => true
  | .headStartLaunch r => decide (r < 2)
  | .trackReturn p => decide (p < 4)
  | .trainBroken t => decide (t < 4)
  | .trainOverdue t => decide (t < 4)
  | .repairLaunch t => decide (t < 4)
  | .roleCommand newHead _ _ => decide (newHead < 4096)
  | .handoverLap => true
  | .trnLapMiss => true
  | .swLapWrite lap _ => decide (lap < 2 ^ 24)
  | .scheduleSwitch => true
  | .verSwitch => true
  | .layoutDataAccess w => w.all fun v => decide (v < 2 ^ 32)
  | .txdisForce p _ _ => decide (p < 4)
  | .pmaSignalDetect p => decide (p < 4)
  | .syncHoldExpiry p => decide (p < 4)
  | .signalDetectLost p => decide (p < 4)
  | .lossOfSignal p kind => decide (p < 4) && decide (kind < 3)
  | .remoteFault p _ => decide (p < 4)
  | .hiBer p _ => decide (p < 4)
  | .modChg p _ _ _ => decide (p < 4)
  | .sfpMgmtGo p data offset _ _ => decide (p < 4) && decide (data < 256) && decide (offset < 256)
  | .sfpMgmtDone p _ data => decide (p < 4) && decide (data < 256)
  | .bypassReq => true
  | .unwrapRequest p => decide (p < 4)
  | .unwrapResend p => decide (p < 4)
  | .unwrapAck p kind lap => decide (p < 4) && decide (kind < 3) && decide (lap < 2 ^ 24)
  | .unwrap p => decide (p < 4)
  | .linkDelayStart p => decide (p < 4)
  | .delayRequest _ p seq _ => decide (p < 4) && decide (seq < 2 ^ 16)
  | .delayResponse _ _ p seq _ => decide (p < 4) && decide (seq < 2 ^ 16)
  | .delayNoResponse p => decide (p < 4)
  | .bringupTimeout _ _ => true
  | .ringupRetry _ _ => true
  | .faultNoticeRefresh p => decide (p < 4)
  | .followerLapMedian => true
  | .holdoverTimeout => true
  | .bellExtOfs _ => true
  | .bellStep _ => true
  | .ppsInEdge _ => true
  | .ppsinMiss => true
  | .captureEdge _ n _ => decide (n < 32)
  | .capturePop n => decide (n < 32)
  | .triggerArm owner n t => decide (owner < 3) && decide (n < 32) && decide (t < 2 ^ 40)
  | .triggerFire n => decide (n < 32)
  | .pulseEnd n => decide (n < 32)
  | .triggerDisarm owner n => decide (owner < 3) && decide (n < 32)
  | .ppsOutPulse => true
  | .ppsOutEnd => true
  | .wideLowRead ini addr => decide (ini < 3) && decide (addr < 2 ^ 32)
  | .wideLowWrite ini addr v => decide (ini < 3) && decide (addr < 2 ^ 32) && decide (v < 2 ^ 32)
  | .sensorEdge _ sn => decide (sn < 32)
  | .windowMissing i => decide (i < 1024)
  | .recordFree i => decide (i < 1024)
  | .handoffIn ch => decide (ch < 4)
  | .destCmd ini obj dest _ => decide (ini < 4) && decide (obj < 2 ^ 32) && decide (dest < 2 ^ 16)
  | .messageFrameReceive _ p f _ => decide (p < 4) && decide (28 ≤ f.length)
  | .frameInsert sport h _ => (sport == 3 || sport == 4) && h.length == 20
  | .faultNotice x => x.length == 12
  | .brokenLinkTimeout n => decide (n < 32)
  | .egressFrameStart w => decide (w < 8)
  | .overloadInterval => true
  | .spurFrameReceive _ sp _ => decide (sp < 2)
  | .pauseReceived sp t => decide (sp < 2) && decide (t < 2 ^ 16)
  | .pauseExpiry sp => decide (sp < 2)
  | .pauseRepeat sp => decide (sp < 2)
  | .mdioGo op phy reg data => decide (op < 4) && decide (phy < 32) && decide (reg < 32) && decide (data < 2 ^ 16)
  | .mdioDone data => decide (data < 2 ^ 16)
  | .transferStart _ n sda => decide (n < 48) && decide (sda < 3)
  | .attemptEnd _ n _ _ => decide (n < 48)
  | .transactionTimeout _ n => decide (n < 48)
  | .clockStretchTimeout _ n => decide (n < 48)
  | .ssiDataTimeout _ n => decide (n < 48)
  | .chnTxpush ini n len => decide (ini < 4) && decide (n < 48) && decide (len < 512)
  | .rxFrameEnd _ n chars => decide (n < 48) && (chars.all fun x => decide (x.2 < 2 ^ 10))
  | .chnPopRx ini n => decide (ini < 4) && decide (n < 48)
  | .chnFlushTx n => decide (n < 48)
  | .chnFlushRx n => decide (n < 48)
  | .chnEnable n => decide (n < 48)
  | .chnDisable n => decide (n < 48)
  | .chnStoppingEnd _ n _ => decide (n < 48)
  | .pmDataAccess ini w => decide (ini < 4) && (w.all fun v => decide (v < 2 ^ 32))
  | .canEnable k => decide (k < 16)
  | .canDisable k => decide (k < 16)
  | .canRecover k => decide (k < 16)
  | .canPopRx ini k => decide (ini < 4) && decide (k < 16)
  | .canFlushRx k => decide (k < 16)
  | .dwellExpiry k => decide (k < 16)
  | .detSlow k => decide (k < 16)
  | .integrateDone k => decide (k < 16)
  | .canFrameReceived _ k _ f => decide (k < 16) && decide (f.dlc < 16)
  | .rxmAging => true
  | .txbReq k b _ => decide (k < 16) && decide (b < 3)
  | .txbCancel k b => decide (k < 16) && decide (b < 3)
  | .canTxDone k delay => decide (k < 16) && decide (delay < 256)
  | .arbitrationLost k => decide (k < 16)
  | .canProtocolError k kind _ _ => decide (k < 16) && decide (kind < 8)
  | .recoveryDone k => decide (k < 16)
  | .canStoppingEnd k => decide (k < 16)
  | .dioEdge _ edges => edges.all fun x => decide (x.1 < 96)
  | .tsPop n => decide (n < 96)
  | .queueActionFire n => decide (n < 96)
  | .queuePulseEnd n => decide (n < 96)
  | .pwmPeriod n => decide (n < 96)
  | .pulseTrainPulse n => decide (n < 96)
  | .readbackFault n => decide (n < 96)
  | .rbClr n => decide (n < 96)
  | .qFlush n => decide (n < 96)
  | .adcConversion _ a _ code => decide (a < 2) && decide (code < 2 ^ 16)
  | .adcAverageReturn => true
  | .tscanDone a _ => decide (a < 2)
  | .adcCalibration a _ _ _ => decide (a < 2)
  | .branchEnableChange n => decide (n < 16)
  | .insertionTimer n => decide (n < 16)
  | .rampComplete n => decide (n < 16)
  | .startTimeout n _ => decide (n < 16)
  | .fastTrip n _ _ => decide (n < 16)
  | .limitEntry n => decide (n < 16)
  | .faultTimerExpiry n _ _ _ => decide (n < 16)
  | .thermalUpdate n _ _ _ _ => decide (n < 16)
  | .retryWaitExpiry n => decide (n < 16)
  | .softOffEnd n => decide (n < 16)
  | .dischargeComplete n _ => decide (n < 16)
  | .dischargeTimeout n => decide (n < 16)
  | .tReonExpiry n => decide (n < 16)
  | .busWindowChange n _ => decide (n < 16)
  | .pgQualified n _ => decide (n < 16)
  | .pgHold1s n => decide (n < 16)
  | .chargePumpLow => true
  | .branchMeasurement n _ _ _ _ => decide (n < 16)
  | .brnOn n => decide (n < 16)
  | .brnOff n => decide (n < 16)
  | .brnClear n => decide (n < 16)
  | .asyFeedB ini v => decide (ini < 4) && decide (v < 2 ^ 32)
  | .asyFeedH ini v => decide (ini < 4) && decide (v < 2 ^ 32)
  | .asyFeedW ini v => decide (ini < 4) && decide (v < 2 ^ 32)
  | .asyStart ini ctx => decide (ini < 4) && decide (ctx < 64)
  | .asyRetest u _ => decide (u < 16)
  | .asyValWrite ini ctx v => decide (ini < 4) && decide (ctx < 64) && decide (v < 2 ^ 64)
  | .selfCheck _ _ => true
  | .selfCheckRetry _ _ => true
  | .mgmtRead src sport tag op flags addr count tmo origT demand => decide (src < 4096) && decide (sport < 16) && decide (tag < 2 ^ 16) && decide (op < 256) && decide (flags < 256) && decide (addr < 2 ^ 32) && decide (count < 2 ^ 16) && decide (tmo < 2 ^ 16) && decide (origT < 2 ^ 32) && decide (demand < 16)
  | .mgmtWrite src sport tag flags addr count tmo origT data => decide (src < 4096) && decide (sport < 16) && decide (tag < 2 ^ 16) && decide (flags < 256) && decide (addr < 2 ^ 32) && decide (count < 2 ^ 16) && decide (tmo < 2 ^ 16) && decide (origT < 2 ^ 32) && (data.all fun v => decide (v < 2 ^ 32))
  | .mgmtRmw src sport tag flags addr count tmo origT mask data => decide (src < 4096) && decide (sport < 16) && decide (tag < 2 ^ 16) && decide (flags < 256) && decide (addr < 2 ^ 32) && decide (count < 2 ^ 16) && decide (tmo < 2 ^ 16) && decide (origT < 2 ^ 32) && decide (mask < 2 ^ 32) && decide (data < 2 ^ 32)
  | .mgmtBwr src tag flags addr count tmo origT data => decide (src < 4096) && decide (tag < 2 ^ 16) && decide (flags < 256) && decide (addr < 2 ^ 32) && decide (count < 2 ^ 16) && decide (tmo < 2 ^ 16) && decide (origT < 2 ^ 32) && (data.all fun v => decide (v < 2 ^ 32))
  | .requestExpired _ => true
  | .retryMargin _ => true
  | .outboundRead ini addr _ => (ini == 0 || ini == 1 || ini == 3) && decide (addr < 2 ^ 32)
  | .outboundWrite ini addr data => (ini == 0 || ini == 1 || ini == 3) && decide (addr < 2 ^ 32) && (data.all fun v => decide (v < 2 ^ 32))
  | .mgmtRsp hub tag op st info data => decide (hub < 4096) && decide (tag < 2 ^ 16) && decide (op < 256) && decide (st < 16) && decide (info < 2 ^ 32) && (data.all fun v => decide (v < 2 ^ 32))
  | .outboundTimeout tag => decide (tag < 2 ^ 16)
  | .prefetchDiscard ini => (ini == 0 || ini == 1 || ini == 3)
  | .lpMreq _ => true
  | .lpHreqAssert => true
  | .lpRead addr count => decide (addr < 2 ^ 32) && decide (count < 257)
  | .lpWrite addr data => decide (addr < 2 ^ 32) && (data.all fun v => decide (v < 2 ^ 32))
  | .lpRmw addr mask data => decide (addr < 2 ^ 32) && decide (mask < 2 ^ 32) && decide (data < 2 ^ 32)
  | .lpService => true
  | .lpComplete tag st data => decide (tag < 2 ^ 16) && decide (st < 256) && (data.all fun v => decide (v < 2 ^ 32))
  | .lpRxfRd => true
  | .lpTxfWr h _ => h.length == 20
  | .lpStat => true
  | .lpSvcTmo => true
  | .lpProtoErr _ => true
  | .faultRaise raises _ _ _ => raisesOk raises
  | .tnkAckWrite k mask same => decide (k < 4) && decide (mask < 2 ^ 32) && raisesOk same
  | .tnkStatClear k mask same => decide (k < 4) && decide (mask < 2 ^ 32) && raisesOk same
  | .resume => true
  | .ffRearm same => raisesOk same
  | .fltRelease same => raisesOk same
  | .fltAutoRelease => true
  | .fltReadback _ _ => true
  | .dumpEnd sections _ => decide (sections < 9)
  | .stocktakeErase half => decide (half < 2)
  | .st01Supply _ => true
  | .st09Ringup _ _ _ => true
  | .st10Time _ _ => true
  | .st11Join _ => true
  | .shutdown ini _ => decide (ini < 4)
  | .quiesceEnd => true
  | .lbistEnd _ => true
  | .shutdownRecord _ => true
  | .holdSExpiry => true
  | .pfwNFall => true
  | .pfwNRise => true
  | .lcField ini => decide (ini < 4)
  | .lcReturn ini => decide (ini < 4)
  | .newNonce ini => decide (ini < 4)
  | .jtagIdcode => true
  | .jtagBypass => true
  | .jtagSamplePreload => true
  | .jtagExtest _ => true
  | .scrub memc _ bad _ _ => decide (memc < 12) && decide (bad < 3)
  | .telemetryWrite _ _ _ => true
  | .cobblerBlockErase blk => decide (blk < 624)
  | .nvmProgram ini => decide (ini < 4)
  | .nvmErase ini => decide (ini < 4)
  | .nvmDone _ => true
  | .rslOpen session kind _ _ => decide (session < 2 ^ 16) && decide (kind < 256)
  | .rslBlock session kind _ _ _ _ => decide (session < 2 ^ 16) && decide (kind < 256)
  | .rslSeal session kind => decide (session < 2 ^ 16) && decide (kind < 256)
  | .sealComplete kind _ => (kind == 1 || kind == 2 || kind == 3)
  | .destinationEraseDone kind => (kind == 1 || kind == 2 || kind == 3)
  | .rslActivate session kmask _ _ _ _ => decide (session < 2 ^ 16) && decide (kmask < 8)
  | .rslConfirm kmask => decide (kmask < 8)
  | .rslAbort kmask => decide (kmask < 8)
  | .schedLoad session => decide (session < 2 ^ 16)
  | .resoleActivation => true
  | .keyActivation => true
  | .trialHour => true
  | .rcRead ini addr => decide (ini < 3) && decide (addr < 2 ^ 32)
  | .registerWrite ini size addr v _ => decide (ini < 3) && (size == 1 || size == 2 || size == 4) && decide (addr < 2 ^ 32) && decide (v < 2 ^ 32)
  | .lockAcquired p => decide (p < 4)
  | .lockLostInSync p kind => decide (p < 4) && decide (kind < 3)
  | .vddBpdPor => true
  | .chargePumpOk => true
  | .cellTime => true
  | .freeWindowStart p => decide (p < 4)
  | .shaperTokens _ w => decide (w < 8)
  | .ctsChange n _ => decide (n < 48)
  | .watchdogService => true
  | .minwElapsed => true
  | .joinAttempt => true
  | .txTableFullTimeout => true

end Sys2Proof
end

