-- ==== Sys2Proof/Tests/Slice0.lean ====
section
/-! SUPPORT. Tests of the model: the well-formedness checks each refuse a command, a witness for the hypotheses of each
statement (a state and operands that meet them together, clause by clause), and single steps whose results are the
spec's own worked examples or its rules' plain words. -/

namespace Sys2Proof.Tests

open Sys2Proof Sys2Proof.Machine

/-! ## Well-formedness -/

theorem test_ill_formed_from_watchdogFirstExpiry :
    ([.watchdogFirstExpiry 4,
      .p2Evaluate 16,
      .ruleNop 4 0,
      .ruleBool 4 0,
      .ruleCmp 4 0,
      .ruleArith 4 0,
      .ruleScale 4 0,
      .ruleSel 4 0,
      .ruleEdge 4 0,
      .ruleLatch 4 0,
      .ruleTon 4 0,
      .ruleTof 4 0,
      .ruleCnt 4 0,
      .ruleZone 4 0,
      .ruleSnap 4 0,
      .ruleBarrier 4 0,
      .mailboxWrite 4 0 0,
      .mailboxWrite 0 (2 ^ 32) 0,
      .mailboxWrite 0 0 (2 ^ 32),
      .aliasWrite 3 0 0 [],
      .aliasWrite 0 256 0 [],
      .aliasWrite 0 0 64 [],
      .trainFramePass 0 0 0 4 [],
      .trainFifoStomp 4 0] : List Instr).all (fun c => !c.wf) = true := by decide

theorem test_ill_formed_from_trainFifoStomp2 :
    ([.trainFifoStomp 0 4,
      .headStartLaunch 2,
      .trackReturn 4,
      .trainBroken 4,
      .trainOverdue 4,
      .repairLaunch 4,
      .roleCommand 4096 false false,
      .swLapWrite (2 ^ 24) false,
      .layoutDataAccess (some (2 ^ 32)),
      .txdisForce 4 false false,
      .pmaSignalDetect 4,
      .syncHoldExpiry 4,
      .signalDetectLost 4,
      .lossOfSignal 4 0,
      .lossOfSignal 0 3,
      .remoteFault 4 false,
      .hiBer 4 false,
      .modChg 4 false false false,
      .sfpMgmtGo 4 0 0 false false,
      .sfpMgmtGo 0 256 0 false false,
      .sfpMgmtGo 0 0 256 false false,
      .sfpMgmtDone 4 false 0,
      .sfpMgmtDone 0 false 256,
      .unwrapRequest 4] : List Instr).all (fun c => !c.wf) = true := by decide

theorem test_ill_formed_from_unwrapResend :
    ([.unwrapResend 4,
      .unwrapAck 4 0 0,
      .unwrapAck 0 3 0,
      .unwrapAck 0 0 (2 ^ 24),
      .unwrap 4,
      .linkDelayStart 4,
      .delayRequest 0 4 0 0,
      .delayRequest 0 0 (2 ^ 16) 0,
      .delayResponse 0 0 4 0 0,
      .delayResponse 0 0 0 (2 ^ 16) 0,
      .delayNoResponse 4,
      .faultNoticeRefresh 4,
      .captureEdge 0 32 false,
      .capturePop 32,
      .triggerArm 3 0 0,
      .triggerArm 0 32 0,
      .triggerArm 0 0 (2 ^ 40),
      .triggerFire 32,
      .pulseEnd 32,
      .triggerDisarm 3 0,
      .triggerDisarm 0 32,
      .wideLowRead 3 0,
      .wideLowRead 0 (2 ^ 32),
      .wideLowWrite 3 0 0] : List Instr).all (fun c => !c.wf) = true := by decide

theorem test_ill_formed_from_wideLowWrite2 :
    ([.wideLowWrite 0 (2 ^ 32) 0,
      .wideLowWrite 0 0 (2 ^ 32),
      .sensorEdge 0 32,
      .windowMissing 1024,
      .recordFree 1024,
      .handoffIn 4,
      .destCmd 4 0 0 false,
      .destCmd 0 (2 ^ 32) 0 false,
      .destCmd 0 0 (2 ^ 16) false,
      .messageFrameReceive 0 4 (List.replicate 28 0) false,
      .messageFrameReceive 0 0 (List.replicate 27 0) false,
      .frameInsert 2 (List.replicate 20 0) [],
      .frameInsert 3 (List.replicate 19 0) [],
      .faultNotice (List.replicate 11 0),
      .brokenLinkTimeout 32,
      .egressFrameStart 8,
      .spurFrameReceive 0 2 [],
      .pauseReceived 2 0,
      .pauseReceived 0 (2 ^ 16),
      .pauseExpiry 2,
      .pauseRepeat 2,
      .mdioGo 4 0 0 0,
      .mdioGo 0 32 0 0,
      .mdioGo 0 0 32 0] : List Instr).all (fun c => !c.wf) = true := by decide

theorem test_ill_formed_from_mdioGo2 :
    ([.mdioGo 0 0 0 (2 ^ 16),
      .mdioDone (2 ^ 16),
      .transferStart 0 48 0,
      .transferStart 0 0 3,
      .attemptEnd 0 48 [] false,
      .transactionTimeout 0 48,
      .clockStretchTimeout 0 48,
      .ssiDataTimeout 0 48,
      .chnTxpush 4 0 0,
      .chnTxpush 0 48 0,
      .chnTxpush 0 0 512,
      .rxFrameEnd 0 48 [],
      .rxFrameEnd 0 0 [(0, 2 ^ 32)],
      .chnPopRx 4 0,
      .chnPopRx 0 48,
      .chnFlushTx 48,
      .chnFlushRx 48,
      .chnEnable 48,
      .chnDisable 48,
      .chnStoppingEnd 0 48 false,
      .pmDataAccess 4 none,
      .pmDataAccess 0 (some (2 ^ 32)),
      .canEnable 16,
      .canDisable 16] : List Instr).all (fun c => !c.wf) = true := by decide

theorem test_ill_formed_from_canRecover :
    ([.canRecover 16,
      .canPopRx 4 0,
      .canPopRx 0 16,
      .canFlushRx 16,
      .dwellExpiry 16,
      .detSlow 16,
      .integrateDone 16,
      .canFrameReceived 0 16 0 {},
      .txbReq 16 0 false,
      .txbReq 0 3 false,
      .txbCancel 16 0,
      .txbCancel 0 3,
      .canTxDone 16 0,
      .canTxDone 0 256,
      .arbitrationLost 16,
      .canProtocolError 16 0 false 0,
      .canProtocolError 0 8 false 0,
      .recoveryDone 16,
      .canStoppingEnd 16,
      .dioEdge 0 [(96, false)],
      .tsPop 96,
      .queueActionFire 96,
      .queuePulseEnd 96,
      .pwmPeriod 96] : List Instr).all (fun c => !c.wf) = true := by decide

theorem test_ill_formed_from_pulseTrainPulse :
    ([.pulseTrainPulse 96,
      .readbackFault 96,
      .rbClr 96,
      .qFlush 96,
      .adcConversion 0 2 0 0,
      .adcConversion 0 0 0 (2 ^ 16),
      .tscanDone 2 [],
      .adcCalibration 2 0 0 [],
      .branchEnableChange 16,
      .insertionTimer 16,
      .rampComplete 16,
      .startTimeout 16 false,
      .fastTrip 16 false false,
      .limitEntry 16,
      .faultTimerExpiry 16 false false false,
      .thermalUpdate 16 0 0 0 0,
      .retryWaitExpiry 16,
      .softOffEnd 16,
      .dischargeComplete 16 false,
      .dischargeTimeout 16,
      .tReonExpiry 16,
      .busWindowChange 16 false,
      .pgQualified 16 false,
      .pgHold1s 16] : List Instr).all (fun c => !c.wf) = true := by decide

theorem test_ill_formed_from_branchMeasurement :
    ([.branchMeasurement 16 0 0 0 [],
      .brnOn 16,
      .brnOff 16,
      .brnClear 16,
      .asyFeedB 4 0,
      .asyFeedB 0 (2 ^ 32),
      .asyFeedH 4 0,
      .asyFeedH 0 (2 ^ 32),
      .asyFeedW 4 0,
      .asyFeedW 0 (2 ^ 32),
      .asyStart 4 0,
      .asyStart 0 64,
      .asyRetest 16 false,
      .asyValWrite 4 0 0,
      .asyValWrite 0 64 0,
      .asyValWrite 0 0 (2 ^ 64),
      .mgmtRead 4096 0 0 0 0 0 0 0 0 0,
      .mgmtRead 0 16 0 0 0 0 0 0 0 0,
      .mgmtRead 0 0 (2 ^ 16) 0 0 0 0 0 0 0,
      .mgmtRead 0 0 0 256 0 0 0 0 0 0,
      .mgmtRead 0 0 0 0 256 0 0 0 0 0,
      .mgmtRead 0 0 0 0 0 (2 ^ 32) 0 0 0 0,
      .mgmtRead 0 0 0 0 0 0 (2 ^ 16) 0 0 0,
      .mgmtRead 0 0 0 0 0 0 0 (2 ^ 16) 0 0] : List Instr).all (fun c => !c.wf) = true := by decide

theorem test_ill_formed_from_mgmtRead2 :
    ([.mgmtRead 0 0 0 0 0 0 0 0 (2 ^ 32) 0,
      .mgmtRead 0 0 0 0 0 0 0 0 0 16,
      .mgmtWrite 4096 0 0 0 0 0 0 0 [],
      .mgmtWrite 0 16 0 0 0 0 0 0 [],
      .mgmtWrite 0 0 (2 ^ 16) 0 0 0 0 0 [],
      .mgmtWrite 0 0 0 256 0 0 0 0 [],
      .mgmtWrite 0 0 0 0 (2 ^ 32) 0 0 0 [],
      .mgmtWrite 0 0 0 0 0 (2 ^ 16) 0 0 [],
      .mgmtWrite 0 0 0 0 0 0 (2 ^ 16) 0 [],
      .mgmtWrite 0 0 0 0 0 0 0 (2 ^ 32) [],
      .mgmtWrite 0 0 0 0 0 0 0 0 [2 ^ 32],
      .mgmtRmw 4096 0 0 0 0 0 0 0 0 0,
      .mgmtRmw 0 16 0 0 0 0 0 0 0 0,
      .mgmtRmw 0 0 (2 ^ 16) 0 0 0 0 0 0 0,
      .mgmtRmw 0 0 0 256 0 0 0 0 0 0,
      .mgmtRmw 0 0 0 0 (2 ^ 32) 0 0 0 0 0,
      .mgmtRmw 0 0 0 0 0 (2 ^ 16) 0 0 0 0,
      .mgmtRmw 0 0 0 0 0 0 (2 ^ 16) 0 0 0,
      .mgmtRmw 0 0 0 0 0 0 0 (2 ^ 32) 0 0,
      .mgmtRmw 0 0 0 0 0 0 0 0 (2 ^ 32) 0,
      .mgmtRmw 0 0 0 0 0 0 0 0 0 (2 ^ 32),
      .mgmtBwr 4096 0 0 0 0 0 0 [],
      .mgmtBwr 0 (2 ^ 16) 0 0 0 0 0 [],
      .mgmtBwr 0 0 256 0 0 0 0 []] : List Instr).all (fun c => !c.wf) = true := by decide

theorem test_ill_formed_from_mgmtBwr2 :
    ([.mgmtBwr 0 0 0 (2 ^ 32) 0 0 0 [],
      .mgmtBwr 0 0 0 0 (2 ^ 16) 0 0 [],
      .mgmtBwr 0 0 0 0 0 (2 ^ 16) 0 [],
      .mgmtBwr 0 0 0 0 0 0 (2 ^ 32) [],
      .mgmtBwr 0 0 0 0 0 0 0 [2 ^ 32],
      .outboundRead 2 0 0,
      .outboundRead 0 (2 ^ 32) 0,
      .outboundWrite 2 0 [],
      .outboundWrite 0 (2 ^ 32) [],
      .outboundWrite 0 0 [2 ^ 32],
      .mgmtRsp 4096 0 0 0 0 [],
      .mgmtRsp 0 (2 ^ 16) 0 0 0 [],
      .mgmtRsp 0 0 256 0 0 [],
      .mgmtRsp 0 0 0 16 0 [],
      .mgmtRsp 0 0 0 0 (2 ^ 32) [],
      .mgmtRsp 0 0 0 0 0 [2 ^ 32],
      .outboundTimeout (2 ^ 16),
      .prefetchDiscard 2,
      .lpRead (2 ^ 32) 0,
      .lpRead 0 257,
      .lpWrite (2 ^ 32) [],
      .lpWrite 0 [2 ^ 32],
      .lpRmw (2 ^ 32) 0 0,
      .lpRmw 0 (2 ^ 32) 0] : List Instr).all (fun c => !c.wf) = true := by decide

theorem test_ill_formed_from_lpRmw2 :
    ([.lpRmw 0 0 (2 ^ 32),
      .lpComplete (2 ^ 16) 0 [],
      .lpComplete 0 256 [],
      .lpComplete 0 0 [2 ^ 32],
      .lpTxfWr (List.replicate 19 0) [],
      .faultRaise [(128, 0)] 0 0 false,
      .faultRaise [(0, 2 ^ 32)] 0 0 false,
      .tnkAckWrite 4 0 [],
      .tnkAckWrite 0 (2 ^ 32) [],
      .tnkAckWrite 0 0 [(128, 0)],
      .tnkAckWrite 0 0 [(0, 2 ^ 32)],
      .tnkStatClear 4 0 [],
      .tnkStatClear 0 (2 ^ 32) [],
      .tnkStatClear 0 0 [(128, 0)],
      .tnkStatClear 0 0 [(0, 2 ^ 32)],
      .ffRearm [(128, 0)],
      .ffRearm [(0, 2 ^ 32)],
      .fltRelease [(128, 0)],
      .fltRelease [(0, 2 ^ 32)],
      .dumpEnd 9 0,
      .stocktakeErase 2,
      .shutdown 4 false,
      .lcField 4,
      .lcReturn 4] : List Instr).all (fun c => !c.wf) = true := by decide

theorem test_ill_formed_from_newNonce :
    ([.newNonce 4,
      .scrub 12 0 0 false none,
      .scrub 0 0 3 false none,
      .cobblerBlockErase 624,
      .nvmProgram 4,
      .nvmErase 4,
      .rslOpen (2 ^ 16) 0 0 0,
      .rslOpen 0 256 0 0,
      .rslBlock (2 ^ 16) 0 0 0 0 false,
      .rslBlock 0 256 0 0 0 false,
      .rslSeal (2 ^ 16) 0,
      .rslSeal 0 256,
      .sealComplete 0 false,
      .sealComplete 4 false,
      .destinationEraseDone 0,
      .destinationEraseDone 4,
      .rslActivate (2 ^ 16) 0 0 0 0 false,
      .rslActivate 0 8 0 0 0 false,
      .rslConfirm 8,
      .rslAbort 8,
      .schedLoad (2 ^ 16),
      .rcRead 3 0,
      .rcRead 0 (2 ^ 32),
      .registerWrite 3 1 0 0 0] : List Instr).all (fun c => !c.wf) = true := by decide

theorem test_ill_formed_from_registerWrite2 :
    ([.registerWrite 0 3 0 0 0,
      .registerWrite 0 1 (2 ^ 32) 0 0,
      .registerWrite 0 1 0 (2 ^ 32) 0,
      .lockAcquired 4,
      .lockLostInSync 4 0,
      .lockLostInSync 0 3,
      .freeWindowStart 4,
      .shaperTokens 0 8,
      .ctsChange 48 false] : List Instr).all (fun c => !c.wf) = true := by decide

theorem test_well_formed_from_watchdogFirstExpiry :
    ([.watchdogFirstExpiry 0,
      .p2Evaluate 0,
      .ruleNop 0 0,
      .ruleBool 0 0,
      .ruleCmp 0 0,
      .ruleArith 0 0,
      .ruleScale 0 0,
      .ruleSel 0 0,
      .ruleEdge 0 0,
      .ruleLatch 0 0,
      .ruleTon 0 0,
      .ruleTof 0 0,
      .ruleCnt 0 0,
      .ruleZone 0 0,
      .ruleSnap 0 0,
      .ruleBarrier 0 0,
      .mailboxWrite 0 0 0,
      .aliasWrite 0 0 0 [],
      .trainFramePass 0 0 0 0 [],
      .trainFifoStomp 0 0,
      .headStartLaunch 0,
      .trackReturn 0,
      .trainBroken 0,
      .trainOverdue 0,
      .repairLaunch 0,
      .roleCommand 0 false false,
      .swLapWrite 0 false,
      .layoutDataAccess none,
      .txdisForce 0 false false,
      .pmaSignalDetect 0] : List Instr).all (fun c => c.wf) = true := by decide

theorem test_well_formed_from_syncHoldExpiry :
    ([.syncHoldExpiry 0,
      .signalDetectLost 0,
      .lossOfSignal 0 0,
      .remoteFault 0 false,
      .hiBer 0 false,
      .modChg 0 false false false,
      .sfpMgmtGo 0 0 0 false false,
      .sfpMgmtDone 0 false 0,
      .unwrapRequest 0,
      .unwrapResend 0,
      .unwrapAck 0 0 0,
      .unwrap 0,
      .linkDelayStart 0,
      .delayRequest 0 0 0 0,
      .delayResponse 0 0 0 0 0,
      .delayNoResponse 0,
      .faultNoticeRefresh 0,
      .captureEdge 0 0 false,
      .capturePop 0,
      .triggerArm 0 0 0,
      .triggerFire 0,
      .pulseEnd 0,
      .triggerDisarm 0 0,
      .wideLowRead 0 0,
      .wideLowWrite 0 0 0,
      .sensorEdge 0 0,
      .windowMissing 0,
      .recordFree 0,
      .handoffIn 0,
      .destCmd 0 0 0 false] : List Instr).all (fun c => c.wf) = true := by decide

theorem test_well_formed_from_messageFrameReceive :
    ([.messageFrameReceive 0 0 (List.replicate 28 0) false,
      .frameInsert 3 (List.replicate 20 0) [],
      .faultNotice (List.replicate 12 0),
      .brokenLinkTimeout 0,
      .egressFrameStart 0,
      .spurFrameReceive 0 0 [],
      .pauseReceived 0 0,
      .pauseExpiry 0,
      .pauseRepeat 0,
      .mdioGo 0 0 0 0,
      .mdioDone 0,
      .transferStart 0 0 0,
      .attemptEnd 0 0 [] false,
      .transactionTimeout 0 0,
      .clockStretchTimeout 0 0,
      .ssiDataTimeout 0 0,
      .chnTxpush 0 0 0,
      .rxFrameEnd 0 0 [],
      .chnPopRx 0 0,
      .chnFlushTx 0,
      .chnFlushRx 0,
      .chnEnable 0,
      .chnDisable 0,
      .chnStoppingEnd 0 0 false,
      .pmDataAccess 0 none,
      .canEnable 0,
      .canDisable 0,
      .canRecover 0,
      .canPopRx 0 0,
      .canFlushRx 0] : List Instr).all (fun c => c.wf) = true := by decide

theorem test_well_formed_from_dwellExpiry :
    ([.dwellExpiry 0,
      .detSlow 0,
      .integrateDone 0,
      .canFrameReceived 0 0 0 {},
      .txbReq 0 0 false,
      .txbCancel 0 0,
      .canTxDone 0 0,
      .arbitrationLost 0,
      .canProtocolError 0 0 false 0,
      .recoveryDone 0,
      .canStoppingEnd 0,
      .dioEdge 0 [],
      .tsPop 0,
      .queueActionFire 0,
      .queuePulseEnd 0,
      .pwmPeriod 0,
      .pulseTrainPulse 0,
      .readbackFault 0,
      .rbClr 0,
      .qFlush 0,
      .adcConversion 0 0 0 0,
      .tscanDone 0 [],
      .adcCalibration 0 0 0 [],
      .branchEnableChange 0,
      .insertionTimer 0,
      .rampComplete 0,
      .startTimeout 0 false,
      .fastTrip 0 false false,
      .limitEntry 0,
      .faultTimerExpiry 0 false false false] : List Instr).all (fun c => c.wf) = true := by decide

theorem test_well_formed_from_thermalUpdate :
    ([.thermalUpdate 0 0 0 0 0,
      .retryWaitExpiry 0,
      .softOffEnd 0,
      .dischargeComplete 0 false,
      .dischargeTimeout 0,
      .tReonExpiry 0,
      .busWindowChange 0 false,
      .pgQualified 0 false,
      .pgHold1s 0,
      .branchMeasurement 0 0 0 0 [],
      .brnOn 0,
      .brnOff 0,
      .brnClear 0,
      .asyFeedB 0 0,
      .asyFeedH 0 0,
      .asyFeedW 0 0,
      .asyStart 0 0,
      .asyRetest 0 false,
      .asyValWrite 0 0 0,
      .mgmtRead 0 0 0 0 0 0 0 0 0 0,
      .mgmtWrite 0 0 0 0 0 0 0 0 [],
      .mgmtRmw 0 0 0 0 0 0 0 0 0 0,
      .mgmtBwr 0 0 0 0 0 0 0 [],
      .outboundRead 0 0 0,
      .outboundWrite 0 0 [],
      .mgmtRsp 0 0 0 0 0 [],
      .outboundTimeout 0,
      .prefetchDiscard 0,
      .lpRead 0 0,
      .lpWrite 0 []] : List Instr).all (fun c => c.wf) = true := by decide

theorem test_well_formed_from_lpRmw :
    ([.lpRmw 0 0 0,
      .lpComplete 0 0 [],
      .lpTxfWr (List.replicate 20 0) [],
      .faultRaise [] 0 0 false,
      .tnkAckWrite 0 0 [],
      .tnkStatClear 0 0 [],
      .ffRearm [],
      .fltRelease [],
      .dumpEnd 0 0,
      .stocktakeErase 0,
      .shutdown 0 false,
      .lcField 0,
      .lcReturn 0,
      .newNonce 0,
      .scrub 0 0 0 false none,
      .cobblerBlockErase 0,
      .nvmProgram 0,
      .nvmErase 0,
      .rslOpen 0 0 0 0,
      .rslBlock 0 0 0 0 0 false,
      .rslSeal 0 0,
      .sealComplete 1 false,
      .destinationEraseDone 1,
      .rslActivate 0 0 0 0 0 false,
      .rslConfirm 0,
      .rslAbort 0,
      .schedLoad 0,
      .rcRead 0 0,
      .registerWrite 0 1 0 0 0,
      .lockAcquired 0] : List Instr).all (fun c => c.wf) = true := by decide

theorem test_well_formed_from_lockLostInSync :
    ([.lockLostInSync 0 0,
      .freeWindowStart 0,
      .shaperTokens 0 0,
      .ctsChange 0 false] : List Instr).all (fun c => c.wf) = true := by decide

/-! ## Witnesses -/

/-- The machine after reset, with fields written. -/
def st (l : List (Fld × Nat)) : State := wrs State.reset l

/-- A lead frame of train 0, lap 0, with no slots (R58). -/
def leadF : List Byte := [0xA2] ++ List.replicate 39 0

/-- The header of a frame of one slot (R58). -/
def slotHead : List Byte := [0xA0, 0, 0, 0, 0, 0, 0, 1] ++ List.replicate 8 0

/-- A frame of one slot, its TCRC right (R58, R61). -/
def slotF : List Byte := slotHead ++ List.replicate 72 0 ++ beBytes 4 (fcs32 slotHead)

/-- A message frame header of TC 7 with no payload, for a hub (R182). -/
def hdr (ty : Byte) (dst : Nat) : List Byte := [ty, 0xE0, 0, 0] ++ beBytes 2 dst ++ List.replicate 14 0

/-- A message frame with that header (R182). -/
def msgF (ty : Byte) (dst : Nat) : List Byte := mMake (hdr ty dst) []

/-- A hub in RUN, in P2, with one rule in lane 3. -/
def trdS : State := wrs State.reset [(SYS_STATE_STATE, stRun), (TRD_STATUS_PHASE, 2), (TRD_LANE_LEN 3, 1), (TRD_P2P4_P2_LEN, 100)]

/-- A hub in RUN with the Drover on. -/
def drvS : State := { wrs State.reset [(SYS_STATE_STATE, stRun), (DRV_CTRL_EN, 1)] with trd := { last := some 0 } }

/-- A spur frame of 64 bytes with an EtherType. -/
def ethF (ty : Nat) : List Byte :=
  let x : List Byte := List.replicate 12 0 ++ beBytes 2 ty ++ [0, 1] ++ List.replicate 44 0
  x ++ beBytes 4 (fcs32 x)

/-- A message frame of two cells. -/
def twoCells : List Byte := mMake (patch (hdr 0x60 5) 2 [0, 64]) (List.replicate 64 0)

/-- A write request that waits for window 15. -/
def aReq : Req := ⟨5, 3, 9, 0x1F000000, 2, 15, 0, 1, 0, [7], 1000, false, 0⟩

/-- An open read transaction. -/
def aTxn : Txn := { ini := 1, hub := 5, tag := 9, op := 1, win := 15, off := 0, count := 1, pf := false, expires := 1000 }

/-- The staging of a KEY image whose operation is 1. -/
def keyMem : State := memPut State.reset (keyBase + 64) 1

/-- That hub with a rule word as rule 0. -/
def ruleS (n : Nat) : State := memPuts trdS 0x50400000 (leBytes 16 n)

theorem witness_StepRunsTheFrontCommand :
    (∃ (s : State) (c : Instr) (rest : List Instr), s.pending = c :: rest) ∧
    (∃ (s : State), s.pending = [] ∧ s.rst.refFail = true) ∧
    (State.reset.pending = [] ∧ State.reset.rst.refFail = false) ∧
    (∃ (nbits : Nat) (w : Nat), Sys2Proof.decodeTableWord nbits w = none) ∧
    (∃ (s : State), s.pending = [] ∧ s.rst.busy = true ∧ s.rst.full = true) :=
  ⟨⟨{ State.reset with pending := [.lapLaunch, .p3Commit] }, .lapLaunch, [.p3Commit], by decide⟩,
    ⟨{ State.reset with rst := { refFail := true } }, by decide⟩,
    by decide,
    ⟨0, 0, by decide⟩,
    ⟨{ State.reset with rst := { busy := true, full := true } }, by decide⟩⟩

theorem witness_EveryStepKeepsMemoryAndFuses :
    (∃ (s : State), Memory.wf s.mem = true ∧ s.mem.length = 1) :=
  ⟨{ memPut State.reset 0x80000000 7 with pending := [.p3Commit] }, by decide⟩

theorem witness_LocalAccessesFollowTheMap :
    (∃ (s : State) (ini : Nat) (size : Nat) (a : Nat), s.rst.busy = false ∧ a < 2 ^ 32 ∧ 2 ≤ ini ∧ size ≠ 4 ∧ sizeOk ini size a = false) ∧
    (∃ (s : State) (ini : Nat) (size : Nat) (a : Nat), s.rst.busy = false ∧ a < 2 ^ 32 ∧ isReg a = true ∧ size ≠ 4 ∧ sizeOk ini size a = false) ∧
    (∃ (s : State) (a : Nat), s.rst.busy = false ∧ a % 4 ≠ 0) ∧
    (∃ (s : State) (ini : Nat) (size : Nat) (a : Nat), s.rst.busy = false ∧ isTrdStore a = true ∧ phaseNow s ≠ 0 ∧ sizeOk ini size a = true ∧ a % 4 = 0) ∧
    (∃ (s : State) (a : Nat), s.rst.busy = false ∧ a % 4 = 0 ∧ isNor a = true ∧ s.sys.nvm ≠ none) ∧
    (∃ (s : State) (ini : Nat) (size : Nat) (a : Nat), s.rst.busy = false ∧ sizeOk ini size a = true ∧ isTrdStore a = false ∧ isReg a = true) ∧
    (∃ (s : State) (a : Nat), s.rst.busy = false ∧ a % 4 = 0 ∧ isTrdStore a = false ∧ s.sys.nvm = none ∧ isReg a = false ∧ isAlias a = false ∧ badWord s a = false ∧ (memThere a = true ∨ isNor a = true)) ∧
    (∃ (a : Nat), isReg a = true ∧ wordAt a = none) :=
  ⟨⟨State.reset, 3, 2, 0, by decide⟩,
    ⟨State.reset, 0, 2, SYS_STATE_STATE.addr, by decide⟩,
    ⟨State.reset, 2, by decide⟩,
    ⟨{ st [(TRD_STATUS_PHASE, 2), (SYS_STATE_STATE, stRun)] with trd := { last := some 0 } }, 1, 4, 0x4005C87C, by decide⟩,
    ⟨{ State.reset with sys := { nvm := some (1, 0, []) } }, 0x80000000, by decide⟩,
    ⟨State.reset, 2, 4, SYS_STATE_STATE.addr, by decide⟩,
    ⟨State.reset, 0x83FFFFFC, by decide⟩,
    ⟨SYS_STATE_STATE.addr + 0xF00, by decide⟩⟩

theorem witness_LocalAccessesFollowTheMap_2 :
    (∃ (l : List FldSpec) (f : FldSpec) (mask : Nat), (l.Pairwise (fun x y => x.lo + x.w ≤ y.lo ∨ y.lo + y.w ≤ x.lo)) ∧ f ∈ l ∧ bits mask f.lo f.w = 2 ^ f.w - 1 ∧ f.acc = .w1c) ∧
    (∃ (s : State) (ini : Nat) (size : Nat) (a : Nat), s.rst.busy = false ∧ isTrdStore a = true ∧ phaseNow s ≠ 0 ∧ sizeOk ini size a = true ∧ rd s TRD_STATUS_PHASE = 4) ∧
    (∃ (s : State) (a : Nat), s.rst.busy = false ∧ a % 4 = 0 ∧ isTrdStore a = true ∧ phaseNow s ≠ 0 ∧ rd s TRD_STATUS_PHASE ≠ 4) ∧
    (∃ (s : State) (a : Nat), s.rst.busy = false ∧ isReg a = false ∧ isAlias a = false ∧ badWord s a = badWord s a) ∧
    (∃ (s : State) (a : Nat), s.rst.busy = false ∧ a < 2 ^ 32 ∧ a % 4 = 0 ∧ isReg a = true ∧ isTrdStore a = false ∧ a ≠ TRN_LAYOUT_DATA_DATA.addr ∧ a ≠ CHN_PM_DATA_DATA.addr ∧ a ≠ BELL_FT_FRAC_FRAC.addr ∧ (wordAt a).map (fun x => (x.1.wide, x.2)) = some (true, a, 0) ∧ isRecord a = false ∧ trgCell a = false) ∧
    (∃ (l : List FldSpec) (f : FldSpec) (mask : Nat), (l.Pairwise (fun x y => x.lo + x.w ≤ y.lo ∨ y.lo + y.w ≤ x.lo)) ∧ f ∈ l ∧ bits mask f.lo f.w = 0 ∧ f.acc = .rwl) :=
  ⟨⟨[⟨0, 4, .rw, 0⟩, ⟨4, 28, .w1c, 0⟩], ⟨4, 28, .w1c, 0⟩, 2 ^ 32 - 1, by decide⟩,
    ⟨{ st [(TRD_STATUS_PHASE, 4), (SYS_STATE_STATE, stRun), (TRD_P2P4_P4_LEN, 9)] with trd := { last := some 0 } }, 1, 4, 0x4005C87C, by decide⟩,
    ⟨{ st [(TRD_STATUS_PHASE, 2), (SYS_STATE_STATE, stRun)] with trd := { last := some 0 } }, 0x4005C87C, by decide⟩,
    ⟨{ State.reset with bad := [6 * 2 ^ 28] }, pollBase, by decide⟩,
    ⟨State.reset, SYS_NONCE_NONCE.addr, by decide⟩,
    ⟨[⟨0, 4, .rwl, 0⟩, ⟨4, 28, .w1s, 0⟩], ⟨0, 4, .rwl, 0⟩, 2 ^ 32 - 2 ^ 4, by decide⟩⟩

theorem witness_FullResetsAndTheirRelease :
    (∃ (s : State) (ns : Nat), s.rst.busy = false ∧ 10000 ≤ ns ∧ s.rst.refFail = false) ∧
    (∃ (ns : Nat), ns < 10000) ∧
    (∃ (s : State), s.rst.busy = true ∧ s.rst.refFail = true) ∧
    (∃ (s : State), s.rst.busy = true ∧ s.rst.refFail = false ∧ s.rst.heldEnd = false ∧ s.sys.shut ≠ .lbist ∧ s.sys.shut ≠ .record) :=
  ⟨⟨State.reset, 10000, by decide⟩,
    ⟨9999, by decide⟩,
    ⟨{ State.reset with rst := { busy := true, refFail := true } }, by decide⟩,
    ⟨{ State.reset with rst := { busy := true } }, by decide⟩⟩

theorem witness_WatchdogResetsTheHubDomain :
    (∃ (s : State) (a : Nat) (n : Nat), s.rst.busy = false ∧ s.tnk.wdog = true ∧ domOf a = .hub ∧ heldByBpd a = false ∧ heldByPad a = false ∧ a ∉ [SYS_RST_CAUSE_CAUSE.addr, SYS_STATE_STATE.addr] ∧ n < 96) ∧
    (∃ (a : Nat), a < 0x400C0000 ∧ domOf a ≠ .hub ∧ a ∉ [SYS_RST_CAUSE_CAUSE.addr, SYS_STATE_STATE.addr, TRN_STATUS_JOINED.addr]) ∧
    (∃ (s : State) (n : Nat), s.rst.d2dBpdLost = false ∧ n < 16 ∧ rd s (BRN_STAT_STATE n) ≠ 7 ∧ rd s (BRN_STAT_STATE n) ≠ 8) ∧
    (∃ (s : State), s.sys.loaded = true) :=
  ⟨⟨{ State.reset with tnk := { wdog := true } }, TRD_CTRL_EN.addr, 95, by decide⟩,
    ⟨(WELT_PORT_STAT_STATE 3).addr, by decide⟩,
    ⟨State.reset, 15, by decide⟩,
    ⟨{ State.reset with sys := { loaded := true } }, by decide⟩⟩

theorem witness_LeavingServiceStopsEverything :
    (∃ (s : State) (a : Nat) (k : Nat) (x : Nat), x < 16 ∧ k < 32 ∧ rd s (BELL_TRG_CTRL_OWNER k) = ownDrover) :=
  ⟨st [(BELL_TRG_CTRL_OWNER 31, ownDrover)], 0x4005C87C, 31, 15, by decide⟩

theorem witness_FlashBlocksAreErased :
    (∃ (s : State) (off : Nat) (k : Nat), 0x190_0000 ≤ off ∧ k = (off - 0x190_0000) / 0x1_0000 ∧ k < 624 ∧ wearOf s k + 1 = wearLimit s) ∧
    (∃ (off : Nat), off < 0x190_0000) ∧
    (∃ (s : State) (half : Nat) (blk : Nat), s.rst.busy = false ∧ s.sys.pfwLow = true) ∧
    (∃ (s : State) (half : Nat), s.rst.busy = false ∧ s.sys.pfwLow = false ∧ s.tnk.st14 = true ∧ rd s TNK_DUMP_STAT_LAST_VALID = 1 ∧ rd s TNK_DUMP_STAT_LAST_HALF = half) ∧
    (∃ (s : State) (half : Nat), s.rst.busy = false ∧ s.sys.pfwLow = false ∧ s.tnk.st14 = false ∧ 2 ≤ half) ∧
    (∃ (s : State) (half : Nat), s.rst.busy = false ∧ s.sys.pfwLow = false ∧ s.tnk.st14 = true ∧ half < 2 ∧ ¬ (rd s TNK_DUMP_STAT_LAST_VALID = 1 ∧ rd s TNK_DUMP_STAT_LAST_HALF = half)) ∧
    (∃ (s : State) (blk : Nat), s.rst.busy = false ∧ s.sys.pfwLow = false ∧ 144 ≤ blk ∧ blk < 208) ∧
    (∃ (s : State) (blk : Nat), s.rst.busy = false ∧ s.sys.pfwLow = false ∧ (blk < 144 ∨ (208 ≤ blk ∧ blk < 624))) :=
  ⟨⟨{ State.reset with sys := { wear := [(623, 99999)] } }, 0x3FFFFFF, 623, by decide⟩,
    ⟨0x18FFFFF, by decide⟩,
    ⟨{ State.reset with sys := { pfwLow := true } }, 1, 623, by decide⟩,
    ⟨{ st [(TNK_DUMP_STAT_LAST_VALID, 1), (TNK_DUMP_STAT_LAST_HALF, 1)] with tnk := { st14 := true } }, 1, by decide⟩,
    ⟨State.reset, 2, by decide⟩,
    ⟨{ State.reset with tnk := { st14 := true } }, 1, by decide⟩,
    ⟨State.reset, 207, by decide⟩,
    ⟨State.reset, 143, by decide⟩⟩

theorem witness_FlashBlocksAreErased_2 :
    (∃ (s : State), s.rst.busy = true) ∧
    (∃ (s : State) (blk : Nat) (k : Nat), s.rst.busy = false ∧ s.sys.pfwLow = false ∧ blk < 144) :=
  ⟨⟨{ State.reset with rst := { busy := true }, sys := { pfwLow := true, held := [.cobblerBlockErase 0] } }, by decide⟩,
    ⟨memPuts State.reset (norBase + 0x19D0000) (List.replicate 256 0), 13, 13, by decide⟩⟩

theorem witness_ShutdownRunsItsSequence :
    (∃ (s : State), s.rst.busy = false ∧ rd s SYS_STATE_STATE = stResting) ∧
    (∃ (s : State), s.rst.busy = false ∧ rd s SYS_STATE_STATE = stJoining) ∧
    (State.reset.rst.busy = false ∧ rd State.reset SYS_STATE_STATE = stStart) ∧
    (∃ (s : State), s.rst.busy = false ∧ rd s SYS_STATE_STATE ∉ [stResting, stDump, stJoining, stStart] ∧ (enterStill (restWaiting (answerMgmt s 0 scOk)) stResting).sys.pfwLow = false) ∧
    (∃ (s : State), s.rst.busy = false ∧ s.sys.shut = .quiesce ∧ rd s SYS_STATE_STATE = stResting ∧ s.sys.pfwLow = false) ∧
    (∃ (s : State), s.rst.busy = false ∧ s.sys.shut = .quiesce ∧ rd s SYS_STATE_STATE = stResting ∧ s.sys.pfwLow = true) ∧
    (∃ (s : State), s.rst.busy = true ∧ s.sys.shut = .lbist) ∧
    (∃ (s : State) (k : Nat), s.rst.busy = true ∧ s.sys.shut = .record ∧ s.sys.pfwLow = false ∧ logNext s = some k ∧ s.sys.shutEnd = true ∧ s.rst.refFail = false) :=
  ⟨⟨st [(SYS_STATE_STATE, stResting)], by decide⟩,
    ⟨st [(SYS_STATE_STATE, stJoining)], by decide⟩,
    by decide,
    ⟨st [(SYS_STATE_STATE, stRun)], by decide +kernel⟩,
    ⟨{ st [(SYS_STATE_STATE, stResting)] with sys := { shut := .quiesce } }, by decide⟩,
    ⟨{ st [(SYS_STATE_STATE, stResting)] with sys := { shut := .quiesce, pfwLow := true } }, by decide⟩,
    ⟨{ State.reset with rst := { busy := true }, sys := { shut := .lbist } }, by decide⟩,
    ⟨{ State.reset with rst := { busy := true }, sys := { shut := .record, shutEnd := true } }, 0, by decide⟩⟩

theorem witness_ShutdownRunsItsSequence_2 :
    (∃ (s : State), s.rst.busy = true ∧ s.sys.shut = .record ∧ s.sys.pfwLow = true ∧ s.sys.shutEnd = false) ∧
    (∃ (s : State), s.rst.busy = true ∧ s.rst.heldEnd = true ∧ s.sys.shutHold ≠ 0 ∧ s.rst.refFail = false) ∧
    (∃ (s : State), s.rst.busy = false ∧ rd s SYS_STATE_STATE ∉ [stResting, stDump, stJoining, stStart] ∧ (enterStill (restWaiting (answerMgmt s 0 scOk)) stResting).sys.pfwLow = true) ∧
    (State.reset.rst.busy = false ∧ State.reset.sys.shut ≠ .quiesce ∧ State.reset.sys.shutHold = 0) ∧
    (∃ (s : State), s.rst.busy = true ∧ s.sys.shut ≠ .lbist) ∧
    (∃ (s : State), s.rst.busy = true ∧ s.sys.shut = .record ∧ s.rst.refFail = true) :=
  ⟨⟨{ State.reset with rst := { busy := true }, sys := { shut := .record, pfwLow := true } }, by decide⟩,
    ⟨{ State.reset with rst := { busy := true, heldEnd := true }, sys := { shutHold := 1 } }, by decide⟩,
    ⟨{ st [(SYS_STATE_STATE, stRun)] with sys := { pfwLow := true } }, by decide +kernel⟩,
    by decide,
    ⟨{ State.reset with rst := { busy := true } }, by decide⟩,
    ⟨{ State.reset with rst := { busy := true, refFail := true }, sys := { shut := .record, shutEnd := true } }, by decide⟩⟩

theorem witness_LifeCycleAndTestAccess :
    (∃ (s : State), s.rst.busy = false ∧ s.otp.lc = lcProvisioned ∧ (∃ k < 4, bitOf s.otp.valid k = true ∧ bitOf s.otp.revoked k = false)) ∧
    (∃ (s : State), s.rst.busy = false ∧ (s.otp.lc ≠ lcProvisioned ∨ ∀ k < 4, bitOf s.otp.valid k = false ∨ bitOf s.otp.revoked k = true)) ∧
    (∃ (s : State), s.rst.busy = false ∧ s.otp.lc = lcReturn ∧ (s.otp.lc = lcBlank ∨ s.otp.lc = lcReturn)) ∧
    (∃ (s : State), s.rst.busy = false ∧ (¬ (s.otp.lc = lcBlank ∨ s.otp.lc = lcReturn)) ∧ beNat (slice (tokenBytes s) 16 4) ≠ 0x52455452) :=
  ⟨⟨{ State.reset with otp := { lc := lcProvisioned, valid := 8 } }, by decide⟩,
    ⟨{ State.reset with otp := { lc := lcProvisioned, valid := 8, revoked := 8 } }, by decide⟩,
    ⟨{ State.reset with otp := { lc := lcReturn } }, by decide⟩,
    ⟨{ State.reset with otp := { lc := lcField } }, by decide⟩⟩

theorem witness_NvmCommandsAndTheDump :
    (∃ (s : State) (off : Nat) (c : Instr) (page : List Byte), s.rst.busy = false ∧ off = rd s NVM_ADDR_ADDR ∧ c = .nvmProgram 1 ∧ page = nvmPage s ∧ s.sys.nvm ≠ none) ∧
    (∃ (s : State) (off : Nat), s.rst.busy = false ∧ off = rd s NVM_ADDR_ADDR ∧ s.sys.nvm = none ∧ s.sys.pfwLow = false ∧ off < 0x100000 ∧ s.otp.lc ≠ lcBlank ∧ s.otp.lc ≠ lcReturn) ∧
    (∃ (s : State) (off : Nat), s.rst.busy = false ∧ off = rd s NVM_ADDR_ADDR ∧ s.sys.nvm = none ∧ 0x100000 ≤ off ∧ off < 0x1900000 ∧ 14 ≤ rd s SYS_STEP_STEP) ∧
    (∃ (s : State) (off : Nat), s.rst.busy = false ∧ off = rd s NVM_ADDR_ADDR ∧ s.sys.nvm = none ∧ s.sys.pfwLow = false ∧ (¬ (norSize ≤ off ∨ (off < 0x100000 ∧ s.otp.lc ≠ lcBlank ∧ s.otp.lc ≠ lcReturn) ∨ (0x100000 ≤ off ∧ off < 0x1900000 ∧ 14 ≤ rd s SYS_STEP_STEP)))) ∧
    (State.reset.rst.busy = false ∧ State.reset.sys.nvm = none) ∧
    (∃ (s : State) (off : Nat) (page : List Byte) (i : Nat), s.rst.busy = false ∧ s.sys.nvm = some (1, off, page) ∧ i < page.length) ∧
    (∃ (s : State) (off : Nat) (page : List Byte), s.rst.busy = false ∧ s.sys.nvm = some (2, off, page)) ∧
    (State.reset.rst.busy = false ∧ State.reset.tnk.dump = none) :=
  ⟨⟨{ State.reset with sys := { nvm := some (1, 0, []) } }, 0, .nvmProgram 1, nvmPage { State.reset with sys := { nvm := some (1, 0, []) } }, by decide +kernel⟩,
    ⟨{ st [(NVM_ADDR_ADDR, 0xFFFFF)] with otp := { lc := lcField } }, 0xFFFFF, by decide⟩,
    ⟨st [(NVM_ADDR_ADDR, 0x18FFFFF), (SYS_STEP_STEP, 14)], 0x18FFFFF, by decide⟩,
    ⟨st [(NVM_ADDR_ADDR, 0x18FFFFF), (SYS_STEP_STEP, 13)], 0x18FFFFF, by decide⟩,
    by decide,
    ⟨{ State.reset with sys := { nvm := some (1, 0x100, [5]) } }, 0x100, [5], 0, by decide⟩,
    ⟨{ State.reset with sys := { nvm := some (2, 0x10000, []) } }, 0x10000, [], by decide⟩,
    by decide⟩

theorem witness_NvmCommandsAndTheDump_2 :
    (∃ (s : State) (d : Dump), s.rst.busy = false ∧ s.tnk.dump = some d ∧ rd s SYS_STATE_STATE = stDump ∧ d.half = none) ∧
    (∃ (s : State) (d : Dump) (h : Nat), s.rst.busy = false ∧ s.tnk.dump = some d ∧ rd s SYS_STATE_STATE = stDump ∧ d.half = some h ∧ s.sys.pfwLow = false) ∧
    (∃ (s : State) (off : Nat) (op : Nat) (ini : Nat) (c : Instr) (page : List Byte), s.rst.busy = false ∧ off = rd s NVM_ADDR_ADDR ∧ c = .nvmErase ini ∧ op = 2 ∧ page = [] ∧ s.sys.pfwLow = true) ∧
    (∃ (s : State) (off : Nat), s.rst.busy = false ∧ off = rd s NVM_ADDR_ADDR ∧ s.sys.nvm = none ∧ s.sys.pfwLow = false ∧ off < norSize ∧ (off < 0x100000 → s.otp.lc = lcBlank ∨ s.otp.lc = lcReturn) ∧ 0x100000 ≤ off → off < 0x1900000 → rd s SYS_STEP_STEP < 14) :=
  ⟨⟨{ st [(SYS_STATE_STATE, stDump)] with tnk := { dump := some ⟨1, 2, none, true⟩ } }, ⟨1, 2, none, true⟩, by decide⟩,
    ⟨{ st [(SYS_STATE_STATE, stDump)] with tnk := { dump := some ⟨1, 2, some 1, true⟩ } }, ⟨1, 2, some 1, true⟩, 1, by decide⟩,
    ⟨{ st [(NVM_ADDR_ADDR, 0x1FFFFFF)] with sys := { pfwLow := true } }, 0x1FFFFFF, 2, 3, .nvmErase 3, [], by decide⟩,
    ⟨st [(NVM_ADDR_ADDR, 0x1900000), (SYS_STEP_STEP, 14)], 0x1900000, by decide⟩⟩

theorem witness_MemoriesAreScrubbed :
    (∃ (s : State) (memc : Nat), s.rst.busy = false ∧ rd s COB_CTRL_SCRUB_EN = 0 ∧ 12 ≤ memc) ∧
    (∃ (s : State) (memc : Nat), s.rst.busy = false ∧ memc = 9 ∧ stretchOn s = false) ∧
    (∃ (s : State) (memc : Nat) (bad : Nat) (collide : Bool), s.rst.busy = false ∧ rd s COB_CTRL_SCRUB_EN = 1 ∧ memc < 12 ∧ memc ≠ 9 ∧ bad = 2 ∧ collide = true ∧ (raise s 117 (memc * 2 ^ 28)).rst.busy = false) ∧
    (∃ (s : State) (memc : Nat) (bad : Nat), s.rst.busy = false ∧ rd s COB_CTRL_SCRUB_EN = 1 ∧ memc < 12 ∧ bad ≠ 0 ∧ bad ≠ 2 ∧ (raise s 116 (memc * 2 ^ 28)).rst.busy = false) ∧
    (∃ (s : State) (bad : Nat) (ms : Nat), s.rst.busy = false ∧ rd s COB_CTRL_SCRUB_EN = 1 ∧ bad = 0 ∧ 8000 < ms) ∧
    (∃ (word : Nat), word < 0x20000) ∧
    (∃ (s : State) (i : Nat), s.rst.busy = false ∧ rd s COB_CTRL_TELEM_EN = 0 ∧ i = rd s COB_CTRL_TELEM_IDX) ∧
    (∃ (s : State) (i : Nat), s.rst.busy = false ∧ i = rd s COB_CTRL_TELEM_IDX ∧ rd s COB_CTRL_TELEM_EN = 1 ∧ bits (pubDesc s i) 16 3 = 2 ∧ bitOf (pubDesc s i) 19 = true) :=
  ⟨⟨State.reset, 12, by decide⟩,
    ⟨st [(COB_CTRL_SCRUB_EN, 1)], 9, by decide⟩,
    ⟨st [(COB_CTRL_SCRUB_EN, 1), (COB_ECC_LAST_MEM, 11)], 11, 2, true, by decide +kernel⟩,
    ⟨st [(COB_CTRL_SCRUB_EN, 1)], 0, 1, by decide⟩,
    ⟨st [(COB_CTRL_SCRUB_EN, 1)], 0, 8001, by decide⟩,
    ⟨0x1FFFF, by decide⟩,
    ⟨State.reset, 0, by decide⟩,
    ⟨{ st [(COB_CTRL_TELEM_EN, 1)] with mem := (memPuts State.reset 0x500EE000 [0, 0, 10, 0]).mem }, 0, by decide⟩⟩

theorem witness_MemoriesAreScrubbed_2 :
    (∃ (word : Nat), word < 2 ^ 16) ∧
    (∃ (word : Nat), word < 2 ^ 14) :=
  ⟨⟨0xFFFF, by decide⟩,
    ⟨0x3FFF, by decide⟩⟩

theorem witness_StartStepsRunToJoining :
    (∃ (s : State), s.rst.busy = false ∧ rd s SYS_STATE_STATE = stStart ∧ rd s SYS_STEP_STEP ≤ 1) ∧
    (∃ (s : State), 1 < rd s SYS_STEP_STEP ∧ s.rst.busy = false ∧ rd s SYS_STATE_STATE = stStart) ∧
    (∃ (s : State) (env : StartEnv), s.rst.busy = false ∧ rd s SYS_STATE_STATE = stStart ∧ s.sys.record = none ∧ env.rails % 2 ^ 9 = 0 ∧ env.d2d = true ∧ s.rst.fromFull = true) ∧
    (∃ (s : State), s.sys.record = none ∧ rd s SYS_RST_CAUSE_CAUSE = rResole) ∧
    (∃ (s : State), s.sys.record = none ∧ rd s SYS_RST_CAUSE_CAUSE ≠ rResole ∧ rd s SYS_VERDICT_VALID = 1 ∧ rd s SYS_VERDICT_RESULT = 1 ∧ rd s SYS_VERDICT_CONSUMED = 0) ∧
    (∃ (s : State), s.sys.record = none ∧ rd s SYS_RST_CAUSE_CAUSE ≠ rResole ∧ rd s SYS_VERDICT_CONSUMED = 1) ∧
    (∃ (s : State) (env : StartEnv), env.fuses = false ∧ bitOf s.sys.skip 7 = false ∧ rd s SYS_RST_CAUSE_CAUSE ≠ rResole ∧ env.march = false) ∧
    (bootOk State.reset = false) :=
  ⟨⟨st [(SYS_STEP_STEP, 1)], by decide⟩,
    ⟨st [(SYS_STEP_STEP, 2)], by decide⟩,
    ⟨State.reset, { rails := 512 }, by decide⟩,
    ⟨st [(SYS_RST_CAUSE_CAUSE, rResole)], by decide⟩,
    ⟨st [(SYS_VERDICT_VALID, 1), (SYS_VERDICT_RESULT, 1)], by decide⟩,
    ⟨st [(SYS_VERDICT_VALID, 1), (SYS_VERDICT_RESULT, 1), (SYS_VERDICT_CONSUMED, 1)], by decide⟩,
    ⟨State.reset, { fuses := false, march := false }, by decide⟩,
    by decide⟩

theorem witness_StartStepsRunToJoining_2 :
    (∃ (s : State), bitOf s.sys.skip 7 = true) ∧
    (∃ (s : State), s.rst.busy = true) ∧
    (∃ (s : State) (env : StartEnv), s.sys.record = none ∧ rd s SYS_RST_CAUSE_CAUSE ≠ rResole ∧ rd s SYS_VERDICT_VALID = 0) ∧
    (∃ (env : StartEnv) (s : State), s.rst.fromFull = false ∧ s.sys.record = none ∧ env.rails % 2 ^ 9 = 0 ∧ env.d2d = true) :=
  ⟨⟨{ State.reset with sys := { skip := 128 } }, by decide⟩,
    ⟨{ State.reset with rst := { busy := true } }, by decide⟩,
    ⟨State.reset, { misr := Config.romMisr }, by decide⟩,
    ⟨{ rails := 512 }, { State.reset with rst := { fromFull := false } }, by decide⟩⟩

theorem witness_RingUpAndTimeSteps :
    (∃ (s : State), allUp s = true ∧ rd s (WELT_PORT_CTRL_ENABLE 3) = 1) ∧
    (joining State.reset 9 = false ∧ joining State.reset 10 = false ∧ joining State.reset 11 = false) ∧
    (∃ (s : State), joining s 9 = true ∧ s.sys.tries ≠ 0 ∧ allUp s = true) ∧
    (∃ (s : State), joining s 9 = true ∧ s.sys.tries ≠ 0 ∧ allUp s = false ∧ pairUp s = true) ∧
    (∃ (s : State), joining s 9 = true ∧ s.sys.tries ≠ 0 ∧ allUp s = false ∧ pairUp s = false ∧ noPair s = true) ∧
    (∃ (s : State), joining s 9 = true ∧ s.sys.tries ≠ 0 ∧ allUp s = false ∧ pairUp s = false ∧ noPair s = false) ∧
    (∃ (s : State), joining s 9 = true ∧ s.sys.tries = 0 ∧ s.rst.fromFull = false ∧ joining (ringBegin s []) 9 = true ∧ allUp (ringBegin s []) = true) ∧
    (∃ (s : State), joining s 10 = true ∧ timeDone s = false) :=
  ⟨⟨st [(WELT_PORT_CTRL_ENABLE 3, 1), (WELT_PORT_STAT_STATE 3, 4)], by decide⟩,
    by decide,
    ⟨{ st [(SYS_STATE_STATE, stJoining), (SYS_STEP_STEP, 9)] with sys := { tries := 1 } }, by decide⟩,
    ⟨{ st [(SYS_STATE_STATE, stJoining), (SYS_STEP_STEP, 9), (WELT_PORT_CTRL_ENABLE 3, 1), (WELT_PORT_STAT_STATE 0, 4), (WELT_PORT_STAT_STATE 1, 4)] with sys := { tries := 1 } }, by decide⟩,
    ⟨{ st [(SYS_STATE_STATE, stJoining), (SYS_STEP_STEP, 9), (WELT_PORT_CTRL_ENABLE 3, 1)] with sys := { tries := 1 }, ports := [(3, { lbkFail := true })] }, by decide⟩,
    ⟨{ st [(SYS_STATE_STATE, stJoining), (SYS_STEP_STEP, 9), (WELT_PORT_CTRL_ENABLE 3, 1), (WELT_PORT_CTRL_ENABLE 2, 1)] with sys := { tries := 1 } }, by decide⟩,
    ⟨{ st [(SYS_STATE_STATE, stJoining), (SYS_STEP_STEP, 9)] with rst := { fromFull := false } }, by decide⟩,
    ⟨st [(SYS_STATE_STATE, stJoining), (SYS_STEP_STEP, 10)], by decide⟩⟩

theorem witness_RingUpAndTimeSteps_2 :
    (∃ (s : State), joining s 10 = true ∧ timeDone s = true ∧ s.sys.record = some 0) ∧
    (∃ (s : State), joining s 11 = true) ∧
    (∃ (s : State), joining s 9 = true ∧ allUp s = false ∧ noPair s = true) ∧
    (∃ (s : State), joining s 9 = true ∧ allUp s = false ∧ noPair s = false) ∧
    (∃ (s : State), joining s 10 = true ∧ s.sys.record = none) :=
  ⟨⟨{ st [(SYS_STATE_STATE, stJoining), (SYS_STEP_STEP, 10), (BELL_STATUS_STATE, 2)] with sys := { record := some 0 } }, by decide⟩,
    ⟨st [(SYS_STATE_STATE, stJoining), (SYS_STEP_STEP, 11)], by decide⟩,
    ⟨{ st [(SYS_STATE_STATE, stJoining), (SYS_STEP_STEP, 9), (WELT_PORT_CTRL_ENABLE 3, 1)] with sys := { tries := 1 }, ports := [(3, { lbkFail := true })] }, by decide⟩,
    ⟨{ st [(SYS_STATE_STATE, stJoining), (SYS_STEP_STEP, 9), (WELT_PORT_CTRL_ENABLE 3, 1), (WELT_PORT_CTRL_ENABLE 2, 1)] with sys := { tries := 1 } }, by decide⟩,
    ⟨{ st [(SYS_STATE_STATE, stJoining), (SYS_STEP_STEP, 10)] with sys := { record := none } }, by decide⟩⟩

theorem witness_JoinArmsAndUnitsStart :
    (∃ (s : State), joining s 11 = true ∧ joinMet s = false) ∧
    (∃ (s : State), joining s 11 = true ∧ joinMet s = true) ∧
    (∃ (s : State), (rd s TRN_CTRL_ROLE = 1 ∨ rd s TRN_CTRL_ROLE = 2) ∧ (launches s 0 = false ∨ launches s 1 = false)) ∧
    (∃ (s : State) (n : Nat), rd s (CHN_CFG_START_EN n) = 0 ∧ chnMode s n = 0) ∧
    (∃ (s : State) (n : Nat), rd s (CHN_CFG_START_EN n) = 1 ∧ chnMode s n ≠ 0 ∧ chnMode s n ≠ 5 ∧ chnCfgOk s n = true ∧ chnMode s n ≠ 3) ∧
    (∃ (s : State) (n : Nat) (env : JoinEnv), rd s (CHN_CFG_START_EN n) = 1 ∧ chnMode s n ≠ 0 ∧ chnMode s n ≠ 5 ∧ chnMode s n = 3 ∧ n ∈ env.chnBad) ∧
    (∃ (s : State) (k : Nat), rd s (CAN_CTRL_START_EN k) = 0 ∧ chnMode s k ≠ mCan ∧ chnMode s k ≠ mCan) ∧
    (∃ (s : State) (k : Nat) (env : JoinEnv), chnMode s k = mCan ∧ rd s (CAN_CTRL_START_EN k) = 1 ∧ (canTimingOk s k = false ∨ k ∈ env.canBad)) :=
  ⟨⟨st [(SYS_STATE_STATE, stJoining), (SYS_STEP_STEP, 11)], by decide⟩,
    ⟨{ st [(SYS_STATE_STATE, stJoining), (SYS_STEP_STEP, 11), (WELT_PORT_STAT_STATE 3, 4)] with trn := { trains := [(2, { met := true }), (3, { met := true })] } }, by decide⟩,
    ⟨st [(TRN_CTRL_ROLE, 2)], by decide⟩,
    ⟨State.reset, 47, by decide⟩,
    ⟨st [(CHN_CFG_START_EN 47, 1), (CHN_CFG_MODE 47, 1), (CHN_CLK_DIV 47, 320)], 47, by decide⟩,
    ⟨st [(CHN_CFG_START_EN 47, 1), (CHN_CFG_MODE 47, 3), (CHN_CLK_DIV 47, 250)], 47, { chnBad := [47] }, by decide⟩,
    ⟨State.reset, 15, by decide⟩,
    ⟨st [(CAN_CTRL_START_EN 15, 1), (CHN_CFG_MODE 15, 5)], 15, { canBad := [15] }, by decide⟩⟩

theorem witness_JoinArmsAndUnitsStart_2 :
    (∃ (s : State) (n : Nat), rd s (BRN_STAT_STATE n) ≠ bFailed ∧ rd s (BRN_CFG_EN n) = 1 ∧ brnCfgOk s n = false) ∧
    (∃ (s : State) (n : Nat) (env : JoinEnv), rd s (BRN_STAT_STATE n) ≠ bFailed ∧ rd s (BRN_CFG_EN n) = 1 ∧ brnCfgOk s n = true ∧ n ∉ env.gateBad ∧ rd s (BRN_STAT_CP_OK n) = 1 ∧ s.rst.d2dBpdLost = false) ∧
    (∃ (s : State), joining s 11 = false) ∧
    (∃ (s : State) (n : Nat), rd s (CHN_CFG_START_EN n) = 1 ∧ chnMode s n ≠ 0 ∧ chnMode s n ≠ 5 ∧ chnCfgOk s n = false) ∧
    (∃ (s : State), s.tnk.pendHalt = true) ∧
    (∃ (s : State) (n : Nat) (env : JoinEnv), rd s (BRN_STAT_STATE n) ≠ bFailed ∧ rd s (BRN_CFG_EN n) = 1 ∧ brnCfgOk s n = true ∧ n ∉ env.gateBad ∧ rd s (BRN_STAT_CP_OK n) = 1 ∧ s.rst.d2dBpdLost = true) ∧
    (∃ (s : State) (n : Nat), rd s (BRN_STAT_STATE n) = bRamp) ∧
    (∃ (s : State) (k : Nat) (env : JoinEnv), chnMode s k = mCan ∧ rd s (CAN_CTRL_START_EN k) = 1 ∧ k ∉ env.canBad ∧ canTimingOk s k = true) :=
  ⟨⟨st [(BRN_CFG_EN 15, 1)], 15, by decide⟩,
    ⟨st [(BRN_STAT_CP_OK 0, 1), (BRN_CFG_EN 0, 1), (BRN_SHUNT_R_SHUNT 0, 1000), (BRN_LIM_V_LIM 0, 8), (BRN_LIM_P_SOA 0, 1), (BRN_LIM_T_START 0, 1), (BRN_TMR_T_FLT 0, 1), (BRN_TMR_T_RETRY 0, 1), (BRN_TMR_T_INS 0, 1), (BRN_TOFF_T_SOFT 0, 1), (BRN_TOFF_T_REON 0, 1), (BRN_PGD_V_PGD 0, 1)], 0, {}, by decide⟩,
    ⟨st [(SYS_STATE_STATE, stJoining), (SYS_STEP_STEP, 10)], by decide⟩,
    ⟨st [(CHN_CFG_START_EN 0, 1), (CHN_CFG_MODE 0, 3)], 0, by decide⟩,
    ⟨{ State.reset with tnk := { pendHalt := true } }, by decide⟩,
    ⟨{ st [(BRN_STAT_CP_OK 0, 1), (BRN_CFG_EN 0, 1), (BRN_SHUNT_R_SHUNT 0, 1000), (BRN_LIM_V_LIM 0, 8), (BRN_LIM_P_SOA 0, 1), (BRN_LIM_T_START 0, 1), (BRN_TMR_T_FLT 0, 1), (BRN_TMR_T_RETRY 0, 1), (BRN_TMR_T_INS 0, 1), (BRN_TOFF_T_SOFT 0, 1), (BRN_TOFF_T_REON 0, 1), (BRN_PGD_V_PGD 0, 1)] with rst := { d2dBpdLost := true } }, 0, {}, by decide⟩,
    ⟨st [(BRN_CFG_EN 15, 1), (BRN_STAT_STATE 15, 2)], 15, by decide⟩,
    ⟨st [(CAN_CTRL_START_EN 15, 1), (CHN_CFG_MODE 15, 5), (CAN_NBT_BRP 15, 1), (CAN_NBT_TSEG1 15, 30), (CAN_NBT_TSEG2 15, 7), (CAN_NBT_SJW 15, 7)], 15, {}, by decide⟩⟩

theorem witness_PortClimbsToTrial :
    (∃ (s : State) (p : Nat), p < 4 ∧ ¬ (s.rst.busy = true ∧ s.rst.full = true) ∧ s.rst.busy = false ∧ rd s SYS_STEP_STEP < 14 ∧ s.rst.fromFull = true ∧ rd s (WELT_PORT_STAT_STATE p) = 0 ∧ rd s (WELT_PORT_STAT_SFP_MODABS p) = 0 ∧ (s.port p).st09 = true ∧ (s.port p).lbkFail = false) ∧
    (∃ (s : State) (p : Nat), p < 4 ∧ ¬ (s.rst.busy = true ∧ s.rst.full = true) ∧ rd s (WELT_PORT_STAT_STATE p) = 1 ∧ rd s (WELT_PORT_STAT_SFP_MODABS p) = 0 ∧ rd s (WELT_PORT_STAT_STATE (facing p)) ≠ 1 ∧ rd s (WELT_PORT_CTRL_HIBER_WRAP p) = 0) ∧
    (∃ (s : State) (p : Nat), p < 4 ∧ ¬ (s.rst.busy = true ∧ s.rst.full = true) ∧ rd s (WELT_PORT_STAT_STATE p) = 1 ∧ rd s (WELT_PORT_STAT_SFP_MODABS p) = 1) ∧
    (∃ (s : State) (p : Nat), p < 4 ∧ ¬ (s.rst.busy = true ∧ s.rst.full = true) ∧ rd s (WELT_PORT_STAT_STATE p) = 1 ∧ rd s (WELT_PORT_STAT_SFP_MODABS p) = 0 ∧ rd s (WELT_PORT_STAT_STATE (facing p)) = 1) ∧
    (∃ (s : State) (p : Nat), p < 4 ∧ ¬ (s.rst.busy = true ∧ s.rst.full = true) ∧ rd s (WELT_PORT_STAT_STATE p) = 0) ∧
    (∃ (s : State) (p : Nat), p < 4 ∧ ¬ (s.rst.busy = true ∧ s.rst.full = true) ∧ rd s (WELT_PORT_STAT_STATE p) = 4) ∧
    (∃ (s : State) (p : Nat) (kind : Nat), p < 4 ∧ ¬ (s.rst.busy = true ∧ s.rst.full = true) ∧ rd s (WELT_PORT_STAT_STATE p) = 2 ∧ kind < 3 ∧ rd s (WELT_PORT_STAT_LOCK p) = 1 ∧ (s.port p).lf = false ∧ rd s (WELT_PORT_STAT_HIBER p) = 0 ∧ rd s (WELT_PORT_STAT_RF_RX p) = 0) ∧
    (∃ (s : State) (p : Nat), p < 4 ∧ ¬ (s.rst.busy = true ∧ s.rst.full = true) ∧ rd s (WELT_PORT_STAT_STATE p) = 2 ∧ ¬ (rd s (WELT_PORT_STAT_STATE p) = 2 ∧ rd s (WELT_PORT_STAT_LOCK p) = 1 ∧ (s.port p).lf = false ∧ rd s (WELT_PORT_STAT_HIBER p) = 0 ∧ rd s (WELT_PORT_STAT_RF_RX p) = 0)) :=
  ⟨⟨{ State.reset with ports := [(3, { st09 := true })] }, 3, by decide⟩,
    ⟨st [(WELT_PORT_STAT_STATE 3, 1)], 3, by decide⟩,
    ⟨st [(WELT_PORT_STAT_STATE 3, 1), (WELT_PORT_STAT_SFP_MODABS 3, 1)], 3, by decide⟩,
    ⟨st [(WELT_PORT_STAT_STATE 0, 1), (WELT_PORT_STAT_STATE 1, 1)], 0, by decide⟩,
    ⟨State.reset, 3, by decide⟩,
    ⟨st [(WELT_PORT_STAT_STATE 3, 4)], 3, by decide⟩,
    ⟨st [(WELT_PORT_STAT_STATE 3, 2), (WELT_PORT_STAT_LOCK 3, 1)], 3, 2, by decide⟩,
    ⟨{ st [(WELT_PORT_STAT_STATE 3, 2), (WELT_PORT_STAT_LOCK 3, 1)] with ports := [(3, { lf := true })] }, 3, by decide⟩⟩

theorem witness_PortClimbsToTrial_2 :
    (∃ (s : State) (p : Nat), p < 4 ∧ ¬ (s.rst.busy = true ∧ s.rst.full = true) ∧ rd s (WELT_PORT_STAT_STATE p) = 3 ∧ rd s (WELT_PORT_STAT_SFP_MODABS p) = 0) :=
  ⟨st [(WELT_PORT_STAT_STATE 3, 3)], 3, by decide⟩

theorem witness_PortGoesDownAndWraps :
    (∃ (s : State) (p : Nat) (kind : Nat), p < 4 ∧ ¬ (s.rst.busy = true ∧ s.rst.full = true) ∧ (rd s (WELT_PORT_STAT_STATE p) = 3 ∨ rd s (WELT_PORT_STAT_STATE p) = 4) ∧ kind < 3) ∧
    (∃ (s : State) (p : Nat), p < 4 ∧ ¬ (s.rst.busy = true ∧ s.rst.full = true) ∧ rd s (WELT_PORT_STAT_STATE p) = 4 ∧ rd s (WELT_PORT_STAT_STATE (facing p)) = 4 ∧ rd s (WELT_PORT_CTRL_HIBER_WRAP p) ≠ 0) ∧
    (∃ (s : State) (p : Nat), p < 4 ∧ ¬ (s.rst.busy = true ∧ s.rst.full = true) ∧ (rd s (WELT_PORT_STAT_STATE p) = 1 ∨ rd s (WELT_PORT_STAT_STATE p) = 2)) ∧
    (∃ (s : State) (p : Nat), p < 4 ∧ ¬ (s.rst.busy = true ∧ s.rst.full = true) ∧ rd s (WELT_PORT_STAT_STATE p) = 4 ∧ rd s (WELT_PORT_STAT_STATE (facing p)) ≠ 4) ∧
    (∃ (s : State) (p : Nat), p < 4 ∧ ¬ (s.rst.busy = true ∧ s.rst.full = true) ∧ rd s (WELT_PORT_STAT_STATE p) = 2) :=
  ⟨⟨st [(WELT_PORT_STAT_STATE 0, 3)], 0, 2, by decide⟩,
    ⟨st [(WELT_PORT_STAT_STATE 3, 4), (WELT_PORT_STAT_STATE 2, 4), (WELT_PORT_CTRL_HIBER_WRAP 3, 1)], 3, by decide⟩,
    ⟨st [(WELT_PORT_STAT_STATE 3, 1)], 3, by decide⟩,
    ⟨st [(WELT_PORT_STAT_STATE 0, 4)], 0, by decide⟩,
    ⟨st [(WELT_PORT_STAT_STATE 3, 2)], 3, by decide⟩⟩

theorem witness_ModuleChangesAndItsBus :
    (∃ (s : State) (p : Nat), p < 4 ∧ ¬ (s.rst.busy = true ∧ s.rst.full = true) ∧ s.rst.busy = false ∧ rd s (WELT_PORT_STAT_STATE p) = 1) ∧
    (∃ (s : State) (p : Nat), p < 4 ∧ ¬ (s.rst.busy = true ∧ s.rst.full = true) ∧ rd s (WELT_PORT_STAT_STATE p) = 0 ∧ rd s (WELT_PORT_CTRL_ENABLE p) = 1 ∧ rd s (WELT_PORT_CTRL_TXDIS_FORCE p) = 0 ∧ (s.port p).st09 = true ∧ (s.port p).lbkFail = false) ∧
    (∃ (s : State) (p : Nat), p < 4 ∧ ¬ (s.rst.busy = true ∧ s.rst.full = true) ∧ rd s (WELT_SFP_MGMT_GO p) = 1) ∧
    (∃ (absent : Bool) (s : State) (p : Nat), p < 4 ∧ ¬ (s.rst.busy = true ∧ s.rst.full = true) ∧ absent ≠ flag s (WELT_PORT_STAT_SFP_MODABS p) ∧ absent = true) ∧
    (∃ (absent : Bool) (s : State) (p : Nat), p < 4 ∧ ¬ (s.rst.busy = true ∧ s.rst.full = true) ∧ absent ≠ flag s (WELT_PORT_STAT_SFP_MODABS p) ∧ absent = false ∧ rd s (WELT_PORT_STAT_STATE p) = 1) ∧
    (∃ (absent : Bool) (s : State) (p : Nat), p < 4 ∧ ¬ (s.rst.busy = true ∧ s.rst.full = true) ∧ absent ≠ flag s (WELT_PORT_STAT_SFP_MODABS p) ∧ absent = false ∧ rd s (WELT_PORT_STAT_STATE p) = 0 ∧ rd s (WELT_PORT_CTRL_ENABLE p) = 1 ∧ rd s (WELT_PORT_CTRL_TXDIS_FORCE p) = 0 ∧ (s.port p).st09 = true ∧ (s.port p).lbkFail = false) :=
  ⟨⟨st [(WELT_PORT_STAT_STATE 3, 1)], 3, by decide⟩,
    ⟨{ st [(WELT_PORT_CTRL_ENABLE 0, 1)] with ports := [(0, { st09 := true })] }, 0, by decide⟩,
    ⟨st [(WELT_SFP_MGMT_GO 3, 1)], 3, by decide⟩,
    ⟨true, st [(WELT_PORT_STAT_STATE 3, 4)], 3, by decide⟩,
    ⟨false, st [(WELT_PORT_STAT_STATE 3, 1), (WELT_PORT_STAT_SFP_MODABS 3, 1)], 3, by decide⟩,
    ⟨false, { st [(WELT_PORT_CTRL_ENABLE 0, 1), (WELT_PORT_STAT_SFP_MODABS 0, 1)] with ports := [(0, { st09 := true })] }, 0, by decide⟩⟩

theorem witness_UnwrapIsAgreed :
    (∃ (s : State) (p : Nat), p < 4 ∧ ¬ (s.rst.busy = true ∧ s.rst.full = true) ∧ rd s (WELT_PORT_STAT_STATE p) = 3 ∧ rd s (WELT_PORT_STAT_LDLY_VALID p) = 1 ∧ (s.port p).own = some 5 ∧ (s.port p).agreed = none) ∧
    (∃ (s : State) (p : Nat), p < 4 ∧ ¬ (s.rst.busy = true ∧ s.rst.full = true) ∧ rd s (WELT_PORT_STAT_STATE p) = 3 ∧ (s.port p).own = none) ∧
    (∃ (s : State) (p : Nat) (a : Nat) (b : Nat) (l : Nat), p < 4 ∧ rd s (WELT_PORT_STAT_STATE p) = 3 ∧ (s.port p).own = some a ∧ l = (if a = 0 then b else if b = 0 then a else if 0 < modDiff 24 a b then a else b)) ∧
    (∃ (s : State) (p : Nat) (l : Nat) (d : Int), p < 4 ∧ ¬ (s.rst.busy = true ∧ s.rst.full = true) ∧ rd s (WELT_PORT_STAT_STATE p) = 3 ∧ (s.port p).agreed = some l ∧ d = modDiff 24 l (lapNow s) ∧ 0 < d) ∧
    (∃ (s : State) (p : Nat) (l : Nat) (d : Int), p < 4 ∧ rd s (WELT_PORT_STAT_STATE p) = 3 ∧ (s.port p).agreed = some l ∧ d = modDiff 24 l (lapNow s) ∧ d = 0 ∧ lapPos s ≤ (trainWindow s p).2) ∧
    (∃ (s : State) (p : Nat) (l : Nat) (d : Int), p < 4 ∧ (s.port p).agreed = some l ∧ d = modDiff 24 l (lapNow s) ∧ d < 0) ∧
    (∃ (s : State) (p : Nat) (f : List Byte), p < 4 ∧ (s.port p).waiting = [] ∧ ringMay s p f.length = true) ∧
    (∃ (s : State) (p : Nat) (f : List Byte), p < 4 ∧ ¬ ((s.port p).waiting = [] ∧ ringMay s p f.length = true)) :=
  ⟨⟨{ st [(WELT_PORT_STAT_STATE 3, 3), (WELT_PORT_STAT_LDLY_VALID 3, 1)] with ports := [(3, { own := some 5 })] }, 3, by decide⟩,
    ⟨st [(WELT_PORT_STAT_STATE 0, 3)], 0, by decide⟩,
    ⟨{ st [(WELT_PORT_STAT_STATE 3, 3)] with ports := [(3, { own := some 0 })] }, 3, 0, 7, 7, by decide⟩,
    ⟨{ st [(WELT_PORT_STAT_STATE 3, 3)] with ports := [(3, { agreed := some 9 })] }, 3, 9, 9, by decide⟩,
    ⟨{ st [(WELT_PORT_STAT_STATE 3, 3)] with ports := [(3, { agreed := some 0 })] }, 3, 0, 0, by decide⟩,
    ⟨{ st [(WELT_PORT_STAT_STATE 3, 3)] with ports := [(3, { agreed := some 16777215 })] }, 3, 16777215, -1, by decide⟩,
    ⟨st [(WELT_PORT_STAT_STATE 3, 4)], 3, msgF 0x10 4095, by decide⟩,
    ⟨{ st [(WELT_PORT_STAT_STATE 0, 4)] with ports := [(0, { sendTo := 1 })] }, 0, msgF 0x10 4095, by decide⟩⟩

theorem witness_UnwrapIsAgreed_2 :
    (∃ (s : State) (p : Nat), p < 4 ∧ rd s (WELT_PORT_STAT_STATE p) ≠ 4 ∧ rd s (WELT_PORT_STAT_STATE (facing p)) = 4) :=
  ⟨st [(WELT_PORT_STAT_STATE 3, 3), (WELT_PORT_STAT_STATE 2, 4)], 3, by decide⟩

theorem witness_LinkDelayIsMeasured :
    (∃ (s : State) (p : Nat), p < 4 ∧ ¬ (s.rst.busy = true ∧ s.rst.full = true) ∧ rd s (WELT_PORT_STAT_STATE p) = 4 ∧ (s.port p).waiting = [] ∧ ringMay s p 64 = true) ∧
    (∃ (s : State) (p : Nat), p < 4 ∧ ¬ (s.rst.busy = true ∧ s.rst.full = true) ∧ rd s (WELT_PORT_STAT_STATE p) = 3 ∧ rd s (WELT_PORT_STAT_LDLY_VALID p) = 0 ∧ ¬ ((s.port p).waiting = [] ∧ ringMay s p 64 = true)) ∧
    (∃ (s : State) (p : Nat) (n : Nat) (t1 : Nat), p < 4 ∧ ¬ (s.rst.busy = true ∧ s.rst.full = true) ∧ (s.port p).exch = some (n, t1)) ∧
    (∃ (s : State) (x : Int), 0 ≤ x ∧ x ≤ 65535 * 65536 ∧ rd s (WELT_PORT_STAT_LDLY_VALID 3) = 0) ∧
    (∃ (s : State) (x : Int), 0 ≤ x ∧ x ≤ 65535 * 65536 ∧ rd s (WELT_PORT_STAT_LDLY_VALID 3) = 1) ∧
    (∃ (x : Int), (x < 0 ∨ 65535 * 65536 < x)) ∧
    (∃ (s : State) (p : Nat), p < 4 ∧ rd s (WELT_PORT_STAT_STATE p) = 3 ∧ ¬ ((s.port p).waiting = [] ∧ ringMay s p 64 = true)) :=
  ⟨⟨st [(WELT_PORT_STAT_STATE 3, 4)], 3, by decide⟩,
    ⟨{ st [(WELT_PORT_STAT_STATE 0, 3)] with ports := [(0, { sendTo := 1 })] }, 0, by decide⟩,
    ⟨{ State.reset with ports := [(3, { exch := some (9, 4) })] }, 3, 9, 4, by decide⟩,
    ⟨State.reset, 65535 * 65536, by decide⟩,
    ⟨st [(WELT_PORT_STAT_LDLY_VALID 3, 1)], 0, by decide⟩,
    ⟨-1, by decide⟩,
    ⟨{ st [(WELT_PORT_STAT_STATE 3, 3)] with ports := [(3, { waiting := [.request] })] }, 3, by decide⟩⟩

theorem witness_TrainFramesPassTheHub :
    (∃ (s : State) (p : Nat), p < 4 ∧ rd (lapSync (advance s 5)) (WELT_PORT_STAT_STATE p) = 4 ∧ ¬ ((lapSync (advance s 5)).rst.busy = true ∧ (lapSync (advance s 5)).rst.full = true)) ∧
    (∃ (s : State) (f : List Byte), fShape f = true ∧ fLead f = true ∧ fTrain f < 4 ∧ fLap f = lapMod s ∧ 40 ≤ f.length) ∧
    (∃ (s : State) (f : List Byte), fShape f = true ∧ fLead f = true ∧ fTrain f < 4 ∧ fLap f ≠ lapMod s) ∧
    (∃ (s : State) (f : List Byte), fShape f = true ∧ fLead f = false ∧ fTrain f < 4 ∧ fLap f = lapMod s ∧ (s.train (fTrain f)).st = .running ∧ fGood f = true) ∧
    (∃ (f : List Byte), fGood f = false) ∧
    (∃ (s : State) (p : Nat), p < 4 ∧ rd s (WELT_PORT_STAT_STATE p) = 4 ∧ ftNs s < (s.port p).sendTo) ∧
    (∃ (s : State) (f : List Byte), fGood f = true ∧ fBank s f = none) :=
  ⟨⟨st [(WELT_PORT_STAT_STATE 3, 4)], 3, by decide⟩,
    ⟨State.reset, leadF, by decide⟩,
    ⟨State.reset, [0xA2, 0, 0, 0, 1] ++ List.replicate 35 0, by decide⟩,
    ⟨{ State.reset with trn := { trains := [(0, { st := .running })] } }, slotF, by decide +kernel⟩,
    ⟨[0], by decide⟩,
    ⟨{ st [(WELT_PORT_STAT_STATE 3, 4)] with ports := [(3, { sendTo := 1 })] }, 3, by decide⟩,
    ⟨st [(TRN_SCHED_ACT_VER, 5)], slotF, by decide +kernel⟩⟩

theorem witness_TrainsAreJudgedAndLaunched :
    (∃ (s : State) (t : Nat), t < 4 ∧ ((lapSync s).train t).st = .running) ∧
    (∃ (s : State) (t : Nat), t < 4 ∧ ((lapSync s).train t).st = .wait) ∧
    (∃ (s : State) (t : Nat), t < 4 ∧ launches (lapSync (advanceTo s (ringBusy s (if isUp s t = true then t else facing t)))) (t / 2) = true ∧ rd (lapSync (advanceTo s (ringBusy s (if isUp s t = true then t else facing t)))) TRN_TLAP_NS ≠ 0 ∧ ((lapSync (advanceTo s (ringBusy s (if isUp s t = true then t else facing t)))).train t).st = .broken) ∧
    (∃ (s : State) (r : Nat), r < 2 ∧ (s.train (2 * r)).st = .wait ∧ (s.train (2 * r + 1)).st = .wait) ∧
    (∃ (s : State) (r : Nat), r < 2 ∧ rd s TRN_STATUS_JOINED = 1 ∧ (isUp s (2 * r) = true ∨ isUp s (2 * r + 1) = true) ∧ headless s r = false ∧ (s.train (2 * r)).st = .wait ∧ (s.train (2 * r + 1)).st ≠ .wait) ∧
    (∃ (s : State) (r : Nat), r < 2 ∧ s.rst.busy = false ∧ (rd (lapSync s) TRN_CTRL_ROLE = 1 ∨ rd (lapSync s) TRN_CTRL_ROLE = 2) ∧ launches (lapSync s) r = false ∧ 10 < rd (lapSync s) SYS_STEP_STEP ∧ rd (lapSync s) TRN_TLAP_NS ≠ 0) ∧
    (∃ (s : State), ¬ (s.rst.busy = true ∧ s.rst.full = true) ∧ rd s TRN_TLAP_NS ≠ 0 ∧ (launches s 0 = true ∨ launches s 1 = true) ∧ launchDue s 1 = true ∧ lapPos s ≤ 1) ∧
    (∃ (s : State) (p : Nat), p < 4 ∧ rdBit s TRN_STATUS_TRACK p = true ∧ 4 ≤ (s.port p).inside) :=
  ⟨⟨{ State.reset with trn := { trains := [(3, { st := .running })] } }, 3, by decide⟩,
    ⟨State.reset, 0, by decide⟩,
    ⟨{ st [(TRN_STATUS_LAUNCH_B, 1), (TRN_TLAP_NS, 1000)] with trn := { trains := [(3, { st := .broken })] } }, 3, by decide⟩,
    ⟨State.reset, 1, by decide⟩,
    ⟨{ st [(TRN_STATUS_JOINED, 1), (WELT_PORT_STAT_STATE 3, 4)] with trn := { trains := [(3, { st := .overdue })] } }, 1, by decide⟩,
    ⟨st [(TRN_CTRL_ROLE, 2), (SYS_STEP_STEP, 11), (TRN_TLAP_NS, 1000)], 0, by decide⟩,
    ⟨st [(TRN_TLAP_NS, 1000), (TRN_STATUS_LAUNCH_B, 1)], by decide⟩,
    ⟨{ st [(TRN_STATUS_TRACK, 8)] with ports := [(3, { inside := 4 })] }, 3, by decide⟩⟩

theorem witness_TrainsAreJudgedAndLaunched_2 :
    (∃ (s : State), rd s TRN_TLAP_NS ≠ 0 ∧ rd (lapSync s) TRN_STATUS_JOINED = 1 ∧ (lapSync s).trn.judge = true ∧ (lapSync s).trn.good = false) :=
  ⟨{ st [(TRN_TLAP_NS, 1000), (TRN_STATUS_JOINED, 1)] with trn := { judge := true } }, by decide⟩

theorem witness_RolesAndSchedulesChange :
    (∃ (s : State) (nh : Nat), s.rst.busy = false ∧ launches s 0 = false ∧ launches s 1 = false ∧ roleRings s = []) ∧
    (∃ (s : State) (nh : Nat), s.rst.busy = false ∧ roleRings s ≠ [] ∧ nh % 2 ^ 12 = rd s SYS_HUB_ID_ID ∧ nh % 2 ^ 12 ≠ 0 ∧ nh % 2 ^ 12 ≠ 4095 ∧ (∀ r ∈ roleRings s, headless s r = true) ∧ rd s TRN_STATUS_STANDBY = 1) ∧
    (∃ (s : State) (nh : Nat), s.rst.busy = false ∧ roleRings s ≠ [] ∧ (∀ r ∈ roleRings s, launches s r = true) ∧ nh % 2 ^ 12 ≠ rd s SYS_HUB_ID_ID ∧ nh % 2 ^ 12 ≠ 0 ∧ 4 ≤ lapsAhead s ∧ lapsAhead s ≤ 2 ^ 23) ∧
    (∃ (s : State) (u : State), ¬ (s.rst.busy = true ∧ s.rst.full = true) ∧ rd s TRN_ROLE_CMD_GO = 1 ∧ launches s 0 = true ∧ rd s TRN_ROLE_LAP_LAP = 0 ∧ u = toLap s (rd s TRN_ROLE_LAP_LAP) ∧ rd u TRN_ROLE_CMD_GO = 1 ∧ launches u 0 = true ∧ (∀ r ∈ roleRings u, launches u r = true ∧ (u.ring r).confSent = true)) ∧
    (∃ (s : State) (u : State), ¬ (s.rst.busy = true ∧ s.rst.full = true) ∧ rd s TRN_ROLE_CMD_GO = 1 ∧ launches s 0 = true ∧ u = toLap s (rd s TRN_ROLE_LAP_LAP) ∧ rd u TRN_ROLE_CMD_GO = 1 ∧ launches u 0 = true ∧ (∀ r < 2, (u.ring r).confGot = none ∨ launches u r = true) ∧ (∃ r ∈ roleRings u, launches u r = false ∨ (u.ring r).confSent = false)) ∧
    (∃ (s : State), rd s TRN_SCHED_PEND_VALID = 1 ∧ rd s TRN_SW_LAP_ARM = 1 ∧ launches s 0 = true ∧ s.trn.pendSeen ≠ 0 ∧ (∀ t < 4, isUp s (facing t) = true → bitOf s.trn.pendSeen t = true) ∧ s.trn.pendWin = []) ∧
    (∃ (s : State) (b : Nat) (k : Nat), s.rst.busy = false ∧ b = rd s TRN_LAYOUT_ADDR_BANK ∧ k = rd s TRN_LAYOUT_ADDR_WORD) ∧
    (∃ (s : State) (u : State), ¬ (s.rst.busy = true ∧ s.rst.full = true) ∧ launches s 0 = false ∧ launches s 1 = false ∧ (s.ring 0).confGot = some 5 ∧ u = toLap s 5 ∧ handsOver u = false) :=
  ⟨⟨State.reset, 7, by decide⟩,
    ⟨st [(SYS_HUB_ID_ID, 4094), (TRN_ROLE_CMD_RING_B, 1), (TRN_STATUS_STANDBY, 1), (TRN_STATUS_HEADLESS, 12)], 4094, by decide⟩,
    ⟨st [(SYS_HUB_ID_ID, 1), (TRN_ROLE_CMD_RING_B, 1), (TRN_STATUS_LAUNCH_B, 1), (TRN_ROLE_LAP_LAP, 4)], 4094, by decide⟩,
    ⟨{ st [(TRN_ROLE_CMD_GO, 1), (TRN_STATUS_LAUNCH_A, 1), (TRN_ROLE_CMD_RING_A, 1)] with trn := { rings := [(0, { confSent := true })] } }, toLap { st [(TRN_ROLE_CMD_GO, 1), (TRN_STATUS_LAUNCH_A, 1), (TRN_ROLE_CMD_RING_A, 1)] with trn := { rings := [(0, { confSent := true })] } } 0, by decide⟩,
    ⟨st [(TRN_ROLE_CMD_GO, 1), (TRN_STATUS_LAUNCH_A, 1), (TRN_ROLE_CMD_RING_A, 1)], toLap (st [(TRN_ROLE_CMD_GO, 1), (TRN_STATUS_LAUNCH_A, 1), (TRN_ROLE_CMD_RING_A, 1)]) 0, by decide⟩,
    ⟨{ st [(TRN_SCHED_PEND_VALID, 1), (TRN_SW_LAP_ARM, 1), (TRN_STATUS_LAUNCH_A, 1), (WELT_PORT_STAT_STATE 1, 4)] with trn := { pendSeen := 1 } }, by decide⟩,
    ⟨st [(TRN_LAYOUT_ADDR_BANK, 1), (TRN_LAYOUT_ADDR_WORD, 12543)], 1, 12543, by decide⟩,
    ⟨{ State.reset with trn := { rings := [(0, { confGot := some 5 })] } }, toLap { State.reset with trn := { rings := [(0, { confGot := some 5 })] } } 5, by decide⟩⟩

theorem witness_RolesAndSchedulesChange_2 :
    (∃ (s : State), rd s TRN_SCHED_PEND_VALID = 1 ∧ s.trn.pendSeen ≠ 0 ∧ tLap s = 0) :=
  ⟨{ st [(TRN_SCHED_PEND_VALID, 1)] with trn := { pendSeen := 2, pendWin := [] } }, by decide⟩

theorem witness_LedgerAgesAndBuffersAreWritten :
    (∃ (s : State), s.rst.busy = false ∧ rd s TRD_TICK_NS_NS ≠ 0 ∧ ((heldEntries s).filter fun e => turnsStale s (stWord s e) (agedWord s e)) = []) ∧
    (∃ (stamp : Nat) (hs : Nat) (tau : Nat), stamp < 256 ∧ hs < 256 ∧ stamp ≠ hs ∧ (tau + 256 - stamp % 256) % 256 < 64 ∧ 64 ≤ (tau + 256 - hs % 256) % 256) ∧
    (∃ (stamp : Nat) (hs : Nat) (tau : Nat), stamp < 256 ∧ stamp ≠ hs ∧ (tau + 256 - stamp % 256) % 256 < 64 ∧ (tau + 256 - hs % 256) % 256 < 64) ∧
    (∃ (stamp : Nat) (hs : Nat) (tau : Nat), stamp ≠ hs ∧ 64 ≤ (tau + 256 - stamp % 256) % 256) ∧
    (∃ (s : State) (ini : Nat) (i : Nat) (off : Nat) (bs : List Byte), s.rst.busy = false ∧ i < 256 ∧ off + bs.length ≤ 64 ∧ bitOf (pubDesc s i) 19 = false) ∧
    (∃ (s : State) (ini : Nat) (i : Nat) (off : Nat) (bs : List Byte), s.rst.busy = false ∧ i < 256 ∧ off + bs.length ≤ 64 ∧ bitOf (pubDesc s i) 19 = false ∧ droverIndex s i = false) :=
  ⟨⟨st [(TRD_TICK_NS_NS, 1000)], by decide⟩,
    ⟨255, 254, 62, by decide⟩,
    ⟨255, 0, 0, by decide⟩,
    ⟨192, 0, 0, by decide⟩,
    ⟨State.reset, 2, 255, 63, [1], by decide⟩,
    ⟨State.reset, 0, 255, 63, [1], by decide⟩⟩

theorem witness_MediansMoveTheFollower :
    (∃ (s : State), s.rst.busy = false ∧ rd s BELL_STATUS_STATE = 4) ∧
    (∃ (s : State) (x : Int), s.rst.busy = false ∧ rd s BELL_STATUS_STATE ≠ 4 ∧ 10 ≤ rd s SYS_STEP_STEP ∧ median (s.bell.samples.map (·.2)) = some x) ∧
    (∃ (s : State) (x : Int), rd s BELL_STATUS_STATE = 2 ∧ stepThr s * nsSample < x.natAbs ∧ 1 ≤ s.bell.big) ∧
    (∃ (s : State) (x : Int), rd s BELL_STATUS_STATE = 2 ∧ x.natAbs ≤ stepThr s * nsSample ∧ s.bell.big = 0) ∧
    (∃ (s : State) (x : Int), rd s BELL_STATUS_STATE = 1 ∧ x.natAbs < 50 * nsSample ∧ 7 ≤ s.bell.good) ∧
    (∃ (s : State) (x : Int), rd s BELL_STATUS_STATE = 1 ∧ 50 * nsSample ≤ x.natAbs) ∧
    (∃ (s : State) (x : Int), rd s BELL_STATUS_STATE = 2 ∧ 100 * nsSample ≤ x.natAbs ∧ 3 ≤ s.bell.bad) ∧
    (∃ (s : State), s.rst.busy = false ∧ rd s BELL_STATUS_STATE = 3 ∧ s.bell.unlocked = false) :=
  ⟨⟨st [(BELL_STATUS_STATE, 4)], by decide⟩,
    ⟨{ st [(SYS_STEP_STEP, 10)] with bell := { samples := [(0, 5), (1, 7)] } }, 6, by decide⟩,
    ⟨{ st [(BELL_STATUS_STATE, 2)] with bell := { big := 1 } }, 1001 * nsSample, by decide⟩,
    ⟨st [(BELL_STATUS_STATE, 2)], -1000 * nsSample, by decide⟩,
    ⟨{ st [(BELL_STATUS_STATE, 1)] with bell := { good := 7 } }, 49 * nsSample, by decide⟩,
    ⟨st [(BELL_STATUS_STATE, 1)], 50 * nsSample, by decide⟩,
    ⟨{ st [(BELL_STATUS_STATE, 2)] with bell := { bad := 3 } }, 100 * nsSample, by decide⟩,
    ⟨st [(BELL_STATUS_STATE, 3)], by decide⟩⟩

theorem witness_MediansMoveTheFollower_2 :
    (∃ (s : State), s.rst.busy = false ∧ rd s BELL_STATUS_STATE ≠ 4 ∧ 10 ≤ rd s SYS_STEP_STEP ∧ median (s.bell.samples.map (·.2)) = none) ∧
    (∃ (s : State), s.rst.busy = false ∧ rd s SYS_STEP_STEP < 10) ∧
    (∃ (s : State) (x : Int), rd s BELL_STATUS_STATE = 2 ∧ stepThr s * nsSample < x.natAbs ∧ s.bell.big = 0) ∧
    (∃ (s : State) (x : Int), rd s BELL_STATUS_STATE = 3 ∧ 50 * nsSample ≤ x.natAbs) ∧
    (∃ (s : State) (x : Int), rd s BELL_STATUS_STATE = 3 ∧ x.natAbs < 50 * nsSample) ∧
    (∃ (s : State) (x : Int), rd s BELL_STATUS_STATE = 2 ∧ s.bell.bad < 3) :=
  ⟨⟨st [(SYS_STEP_STEP, 10)], by decide⟩,
    ⟨st [(SYS_STEP_STEP, 9)], by decide⟩,
    ⟨st [(BELL_STATUS_STATE, 2)], -1001 * nsSample, by decide⟩,
    ⟨st [(BELL_STATUS_STATE, 3)], -50 * nsSample, by decide⟩,
    ⟨st [(BELL_STATUS_STATE, 3)], 49 * nsSample, by decide⟩,
    ⟨st [(BELL_STATUS_STATE, 2)], 100 * nsSample, by decide⟩⟩

theorem witness_OriginFollowsItsReference :
    (∃ (s : State) (x : Int) (p : Int), s.rst.busy = false ∧ rd s BELL_STATUS_STATE = 4 ∧ rd s BELL_CTRL_SRC = 2 ∧ s.bell.lastExt = some p ∧ stepThr s * nsSample < x.natAbs ∧ (rd s SYS_STATE_STATE = 1 ∨ rd s SYS_STATE_STATE = 2)) ∧
    (∃ (s : State) (x : Int), stepThr s * nsSample < x.natAbs ∧ rd s SYS_STATE_STATE ≠ 1 ∧ rd s SYS_STATE_STATE ≠ 2 ∧ s.bell.extBig = 1 ∧ s.bell.lastExt = none) ∧
    (∃ (s : State) (x : Int), x.natAbs ≤ stepThr s * nsSample ∧ s.bell.extBig ≠ 1) ∧
    (∃ (s : State) (x : Int) (g : Nat) (b : Nat), g = (if 50 * nsSample < x.natAbs then 0 else s.bell.extGood + 1) ∧ b = (if 100 * nsSample ≤ x.natAbs then s.bell.extBad + 1 else 0)) ∧
    (∃ (f : Int), -219902326 ≤ f ∧ f ≤ 219902326) ∧
    (∃ (f : Int), (f < -219902326 ∨ 219902326 < f)) ∧
    (∃ (s : State), s.rst.busy = false ∧ rd s BELL_STATUS_STATE = 4 ∧ rd s BELL_CTRL_SRC = 1) ∧
    (∃ (s : State), ¬ (s.rst.busy = true ∧ s.rst.full = true) ∧ s.ppsOut = true) :=
  ⟨⟨{ st [(BELL_STATUS_STATE, 4), (BELL_CTRL_SRC, 2)] with bell := { lastExt := some 5 } }, 1001 * nsSample, 5, by decide⟩,
    ⟨{ st [(BELL_STATUS_STATE, 4), (BELL_CTRL_SRC, 2), (SYS_STATE_STATE, 3)] with bell := { extBig := 1 } }, 1001 * nsSample, by decide⟩,
    ⟨st [(SYS_STATE_STATE, 3)], 1000 * nsSample, by decide⟩,
    ⟨State.reset, 99 * nsSample, 0, 0, by decide⟩,
    ⟨-219902326, by decide⟩,
    ⟨219902327, by decide⟩,
    ⟨st [(BELL_STATUS_STATE, 4), (BELL_CTRL_SRC, 1)], by decide⟩,
    ⟨{ State.reset with ppsOut := true }, by decide⟩⟩

theorem witness_OriginFollowsItsReference_2 :
    (∃ (s : State) (x : Int), stepThr s * nsSample < x.natAbs ∧ rd s SYS_STATE_STATE ≠ 1 ∧ rd s SYS_STATE_STATE ≠ 2 ∧ s.bell.extBig ≠ 1) :=
  ⟨st [(SYS_STATE_STATE, 3)], -1001 * nsSample, by decide⟩

theorem witness_CaptureAndTriggerUnits :
    (∃ (s : State) (n : Nat), s.rst.busy = false ∧ n < 32 ∧ capTakes (rd s (BELL_CAP_CTRL_EDGE n)) (rd s (BELL_CAP_CTRL_SRC n)) true = true ∧ capTakes (rd s (BELL_CAP_CTRL_EDGE n)) (rd s (BELL_CAP_CTRL_SRC n)) false = false) ∧
    (∃ (s : State) (n : Nat) (o : Nat), s.rst.busy = false ∧ n < 32 ∧ rd s (BELL_TRG_CTRL_OWNER n) = o ∧ rd s (BELL_TRG_CTRL_ARMED n) = 0) ∧
    (∃ (s : State) (n : Nat) (o : Nat), s.rst.busy = false ∧ n < 32 ∧ rd s (BELL_TRG_CTRL_OWNER n) = o ∧ rd s (BELL_TRG_CTRL_ARMED n) = 1 ∧ due40 (rd s (BELL_TRG_T_T n)) (ftNs s) = true) ∧
    (∃ (s : State) (n : Nat) (o : Nat), s.rst.busy = false ∧ n < 32 ∧ rd s (BELL_TRG_CTRL_OWNER n) ≠ o) ∧
    (∃ (s : State) (n : Nat), rd s (BELL_TRG_CTRL_ARMED n) = 1 ∧ n ∈ s.bell.late ∧ rd s (BELL_TRG_PER_PERIOD n) ≠ 0) ∧
    (∃ (s : State) (n : Nat) (tgt : Nat) (cyc : Nat), s.rst.busy = false ∧ tget (fun _ => none) s.bell.pulses n = some (tgt, cyc)) ∧
    (∃ (s : State) (n : Nat), s.rst.busy = false ∧ n < 32 ∧ (∀ x, tget (fun _ => none) s.bell.capMiss n = some x → x.1 ≠ s.clk.ft.toNat)) ∧
    (∃ (s : State) (n : Nat) (o : Nat), s.rst.busy = false ∧ n < 32 ∧ rd s (BELL_TRG_CTRL_OWNER n) = o ∧ rd s (BELL_TRG_CTRL_ARMED n) = 1 ∧ due40 (rd s (BELL_TRG_T_T n)) (ftNs s) = false) :=
  ⟨⟨st [(BELL_CAP_CTRL_EDGE 31, 1)], 31, by decide⟩,
    ⟨st [(BELL_TRG_CTRL_OWNER 31, 2)], 31, 2, by decide⟩,
    ⟨st [(BELL_TRG_CTRL_ARMED 0, 1)], 0, 0, by decide⟩,
    ⟨State.reset, 31, 1, by decide⟩,
    ⟨{ st [(BELL_TRG_CTRL_ARMED 31, 1), (BELL_TRG_PER_PERIOD 31, 1)] with bell := { late := [31] } }, 31, by decide⟩,
    ⟨{ State.reset with bell := { pulses := [(31, some (5, 625))] } }, 31, 5, 625, by decide⟩,
    ⟨st [(BELL_CAP_CTRL_EDGE 0, 3)], 0, by decide⟩,
    ⟨st [(BELL_TRG_CTRL_ARMED 0, 1), (BELL_TRG_T_T 0, 5)], 0, 0, by decide⟩⟩

theorem witness_CaptureAndTriggerUnits_2 :
    (∃ (s : State) (n : Nat) (e : Stamp), s.rst.busy = false ∧ n < 32 ∧ tget (fun _ => none) s.bell.capMiss n = some (s.clk.ft.toNat, e, 1, 1)) ∧
    (∃ (s : State) (n : Nat), rd s (BELL_TRG_CTRL_ARMED n) = 1 ∧ rd s (BELL_TRG_PER_PERIOD n) = 0 ∧ n ∉ s.bell.late) :=
  ⟨⟨{ State.reset with bell := { capMiss := [(31, some (0, ⟨5, 0, true⟩, 1, 1))] } }, 31, ⟨5, 0, true⟩, by decide⟩,
    ⟨st [(BELL_TRG_CTRL_ARMED 31, 1), (BELL_TRG_CTRL_ACTION 31, 4)], 31, by decide⟩⟩

theorem witness_RuleCommandsRunTheNextRule :
    (∃ (s : State) (lane : Nat) (r : Rule), s.rst.busy = false ∧ rd s TRD_STATUS_PHASE = 2 ∧ tickStale s = false ∧ lane < 4 ∧ laneNext s lane = true ∧ r = ruleAt s (laneRule s lane) ∧ legal r = true ∧ r.op = 0 ∧ (laneAt s lane).used + cost r ≤ p2Len s ∧ s.trd.writes = []) ∧
    (∃ (s : State) (lane : Nat), s.rst.busy = false ∧ laneNext s lane = true ∧ legal (ruleAt s (laneRule s lane)) = false ∧ (laneAt s lane).used + 1 ≤ p2Len s ∧ s.trd.writes = []) ∧
    (∃ (s : State) (lane : Nat), s.rst.busy = false ∧ laneNext s lane = true ∧ p2Len s < (laneAt s lane).used + cost (ruleAt s (laneRule s lane)) ∧ s.trd.writes = []) ∧
    (∃ (s : State) (r : Rule), laneNext s 3 = true ∧ r = ruleAt s (laneRule s 3) ∧ r.op = 4 ∧ legal r = true ∧ (laneAt s 3).used + cost r ≤ p2Len s ∧ s.trd.writes = [] ∧ ((ruleEffect s (laneAt s 3).used r).map (putMask r)).map (fun x => decide (opSp x.1 = spScr ∧ x.2.1 < 2 ^ 32)) = [true]) ∧
    (∃ (r : Rule), r.op = 1) ∧
    (∃ (r : Rule), r.op = 2 ∧ r.sub < 6) ∧
    (∃ (r : Rule), r.op = 3 ∧ r.sub < 6) ∧
    (∃ (r : Rule), r.op = 6 ∧ r.sub < 3) :=
  ⟨⟨trdS, 3, ruleAt trdS 0, by decide⟩,
    ⟨{ trdS with mem := (memPut trdS 0x5040000F 0xFF).mem }, 3, by decide⟩,
    ⟨{ wrs trdS [(TRD_P2P4_P2_LEN, 1)] with mem := (memPuts trdS 0x50400007 [2, 0, 0, 8, 0, 0, 0x20, 0, 4]).mem }, 3, by decide⟩,
    ⟨memPuts trdS 0x50400007 [2, 0, 0, 8, 0, 0, 0x20, 0, 4], ruleAt (memPuts trdS 0x50400007 [2, 0, 0, 8, 0, 0, 0x20, 0, 4]) 0, by decide⟩,
    ⟨ruleOf (2 ^ 120), by decide⟩,
    ⟨ruleOf (2 * 2 ^ 120 + 5 * 2 ^ 112), by decide⟩,
    ⟨ruleOf (3 * 2 ^ 120 + 5 * 2 ^ 112), by decide⟩,
    ⟨ruleOf (6 * 2 ^ 120 + 2 * 2 ^ 112), by decide⟩⟩

theorem witness_RuleCommandsRunTheNextRule_2 :
    (∃ (s : State) (r : Rule), r.op = 8 ∧ inA s 0 r = false) ∧
    (∃ (s : State) (r : Rule), r.op = 9 ∧ inA s 0 r = true) ∧
    (∃ (r : Rule), r.op = 5 ∧ selBits r = false) ∧
    (∃ (s : State) (lane : Nat) (r : Rule), s.rst.busy = false ∧ rd s TRD_STATUS_PHASE = 2 ∧ tickStale s = false ∧ lane < 4 ∧ laneNext s lane = true ∧ r = ruleAt s (laneRule s lane) ∧ legal r = true ∧ r.op = 1) ∧
    (∃ (s : State) (lane : Nat) (r : Rule), s.rst.busy = false ∧ rd s TRD_STATUS_PHASE = 2 ∧ tickStale s = false ∧ lane < 4 ∧ laneNext s lane = true ∧ r = ruleAt s (laneRule s lane) ∧ legal r = true ∧ r.op = 5) ∧
    (∃ (s : State) (lane : Nat) (r : Rule), s.rst.busy = false ∧ rd s TRD_STATUS_PHASE = 2 ∧ tickStale s = false ∧ lane < 4 ∧ laneNext s lane = true ∧ r = ruleAt s (laneRule s lane) ∧ legal r = true ∧ r.op = 6) ∧
    (∃ (s : State) (lane : Nat) (r : Rule), s.rst.busy = false ∧ rd s TRD_STATUS_PHASE = 2 ∧ tickStale s = false ∧ lane < 4 ∧ laneNext s lane = true ∧ r = ruleAt s (laneRule s lane) ∧ legal r = true ∧ r.op = 7) ∧
    (∃ (s : State) (lane : Nat) (r : Rule), s.rst.busy = false ∧ rd s TRD_STATUS_PHASE = 2 ∧ tickStale s = false ∧ lane < 4 ∧ laneNext s lane = true ∧ r = ruleAt s (laneRule s lane) ∧ legal r = true ∧ r.op = 11) :=
  ⟨⟨State.reset, ruleOf (8 * 2 ^ 120), by decide⟩,
    ⟨State.reset, ruleOf (9 * 2 ^ 120 + 2 ^ 117), by decide⟩,
    ⟨ruleOf (5 * 2 ^ 120 + 2 ^ 119), by decide⟩,
    ⟨memPut trdS 0x5040000F 1, 3, ruleAt (memPut trdS 0x5040000F 1) 0, by decide⟩,
    ⟨memPut trdS 0x5040000F 5, 3, ruleAt (memPut trdS 0x5040000F 5) 0, by decide⟩,
    ⟨memPut trdS 0x5040000F 6, 3, ruleAt (memPut trdS 0x5040000F 6) 0, by decide⟩,
    ⟨memPut trdS 0x5040000F 7, 3, ruleAt (memPut trdS 0x5040000F 7) 0, by decide⟩,
    ⟨memPut trdS 0x5040000F 11, 3, ruleAt (memPut trdS 0x5040000F 11) 0, by decide⟩⟩

theorem witness_RuleCommandsRunTheNextRule_3 :
    (∃ (s : State) (lane : Nat) (r : Rule), s.rst.busy = false ∧ rd s TRD_STATUS_PHASE = 2 ∧ tickStale s = false ∧ lane < 4 ∧ laneNext s lane = true ∧ r = ruleAt s (laneRule s lane) ∧ legal r = true ∧ r.op = 15) ∧
    (∃ (r : Rule), r.op = 4) ∧
    (∃ (r : Rule), r.op = 7) ∧
    (∃ (r : Rule), r.op = 12) ∧
    (∃ (s : State) (lane : Nat) (r : Rule), s.rst.busy = false ∧ rd s TRD_STATUS_PHASE = 2 ∧ tickStale s = false ∧ lane < 4 ∧ laneNext s lane = true ∧ r = ruleAt s (laneRule s lane) ∧ legal r = true ∧ r.op = 2) ∧
    (∃ (s : State) (lane : Nat) (r : Rule), s.rst.busy = false ∧ rd s TRD_STATUS_PHASE = 2 ∧ tickStale s = false ∧ lane < 4 ∧ laneNext s lane = true ∧ r = ruleAt s (laneRule s lane) ∧ legal r = true ∧ r.op = 3) ∧
    (∃ (s : State) (lane : Nat) (r : Rule), s.rst.busy = false ∧ rd s TRD_STATUS_PHASE = 2 ∧ tickStale s = false ∧ lane < 4 ∧ laneNext s lane = true ∧ r = ruleAt s (laneRule s lane) ∧ legal r = true ∧ r.op = 4) ∧
    (∃ (s : State) (lane : Nat) (r : Rule), s.rst.busy = false ∧ rd s TRD_STATUS_PHASE = 2 ∧ tickStale s = false ∧ lane < 4 ∧ laneNext s lane = true ∧ r = ruleAt s (laneRule s lane) ∧ legal r = true ∧ r.op = 8) :=
  ⟨⟨memPut trdS 0x5040000F 15, 3, ruleAt (memPut trdS 0x5040000F 15) 0, by decide⟩,
    ⟨ruleOf (4 * 2 ^ 120), by decide⟩,
    ⟨ruleOf (7 * 2 ^ 120), by decide⟩,
    ⟨ruleOf (12 * 2 ^ 120), by decide⟩,
    ⟨ruleS 0x2000000000800000200000000000000, 3, ruleAt (ruleS 0x2000000000800000200000000000000) 0, by decide⟩,
    ⟨ruleS 0x3802000000800000200000000000000, 3, ruleAt (ruleS 0x3802000000800000200000000000000) 0, by decide⟩,
    ⟨ruleS 0x4802000000800000200000000000000, 3, ruleAt (ruleS 0x4802000000800000200000000000000) 0, by decide⟩,
    ⟨ruleS 0x8000000000000000200000000000000, 3, ruleAt (ruleS 0x8000000000000000200000000000000) 0, by decide⟩⟩

theorem witness_RuleCommandsRunTheNextRule_4 :
    (∃ (s : State) (lane : Nat) (r : Rule), s.rst.busy = false ∧ rd s TRD_STATUS_PHASE = 2 ∧ tickStale s = false ∧ lane < 4 ∧ laneNext s lane = true ∧ r = ruleAt s (laneRule s lane) ∧ legal r = true ∧ r.op = 9) ∧
    (∃ (s : State) (lane : Nat) (r : Rule), s.rst.busy = false ∧ rd s TRD_STATUS_PHASE = 2 ∧ tickStale s = false ∧ lane < 4 ∧ laneNext s lane = true ∧ r = ruleAt s (laneRule s lane) ∧ legal r = true ∧ r.op = 10) ∧
    (∃ (s : State) (lane : Nat) (r : Rule), s.rst.busy = false ∧ rd s TRD_STATUS_PHASE = 2 ∧ tickStale s = false ∧ lane < 4 ∧ laneNext s lane = true ∧ r = ruleAt s (laneRule s lane) ∧ legal r = true ∧ r.op = 12) :=
  ⟨⟨ruleS 0x9000000000000000200000000000000, 3, ruleAt (ruleS 0x9000000000000000200000000000000) 0, by decide⟩,
    ⟨ruleS 0xA002000000000000000000000000000, 3, ruleAt (ruleS 0xA002000000000000000000000000000) 0, by decide⟩,
    ⟨ruleS 0xC002000001800000000000000000000, 3, ruleAt (ruleS 0xC002000001800000000000000000000) 0, by decide⟩⟩

theorem witness_TicksAreTakenAndRun :
    (∃ (s : State) (floor : Int) (n : Int), s.rst.busy = false ∧ s.tnk.resume = none ∧ running s = true ∧ rd s TRD_CTRL_EN = 1 ∧ rd s TRD_TICK_NS_NS ≠ 0 ∧ rd s TRD_STATUS_PHASE = 0 ∧ tickFloor s = some floor ∧ tickLower s floor ≤ tickNow s ∧ n = tickNow s) ∧
    (∃ (s : State) (floor : Int) (n : Int), tickFloor s = some floor ∧ n = tickLower s floor ∧ tickNow s < tickLower s floor ∧ s.trd.last ≠ none ∧ floor < n) ∧
    (∃ (s : State) (w : Nat), s.rst.busy = false ∧ w < 2048 ∧ (s.trd.latched.map (·.1)).Nodup ∧ tickStale s = false ∧ rd s TRD_STATUS_PHASE = 1) ∧
    (∃ (s : State) (a : Nat), s.rst.busy = false ∧ tickStale s = false ∧ rd s TRD_STATUS_PHASE = 3 ∧ phaseNow s ≠ 0 ∧ 0x40054000 ≤ a ∧ a < 0x4005C880 ∧ a % 4 = 0) ∧
    (∃ (s : State) (n : Nat), n < 96 ∧ rd s (DIO_CFG_MODE n) = 1 ∧ rd s (DIO_CFG_SRC n) = 0 ∧ dioHeeds s n = true ∧ bindingOf s n = none ∧ rd s (DIO_STAT_RELEASED n) = 0) ∧
    (∃ (s : State), s.rst.busy = false ∧ s.tnk.resume = none ∧ running s = true ∧ rd s TRD_CTRL_EN = 1 ∧ rd s TRD_TICK_NS_NS ≠ 0 ∧ rd s TRD_STATUS_PHASE = 4 ∧ tickStale s = false ∧ (tickFloor (toCycle s (tickEnd s))).isSome = true) ∧
    (∃ (s : State) (n : Int), s.rst.busy = false ∧ s.tnk.resume = some n) ∧
    (∃ (s : State), s.rst.busy = false ∧ tickStale s = false ∧ rd s TRD_STATUS_PHASE = 2) :=
  ⟨⟨{ st [(SYS_STATE_STATE, stRun), (TRD_CTRL_EN, 1), (TRD_TICK_NS_NS, 1000)] with trd := { since := some 0, armedAt := some 0 } }, 0, 0, by decide⟩,
    ⟨{ st [(SYS_STATE_STATE, stRun), (TRD_CTRL_EN, 1), (TRD_TICK_NS_NS, 1000)] with trd := { since := some 0, armedAt := some 0, last := some 7, skipTo := some 8 } }, 8, 9, by decide⟩,
    ⟨{ st [(SYS_STATE_STATE, stRun), (TRD_STATUS_PHASE, 1)] with trd := { latched := [(2047, 1), (0, 2)] } }, 2047, by decide⟩,
    ⟨st [(SYS_STATE_STATE, stRun), (TRD_STATUS_PHASE, 3)], 0x4005C87C, by decide⟩,
    ⟨st [(SYS_STATE_STATE, stRun), (DIO_CFG_MODE 95, 1)], 95, by decide⟩,
    ⟨{ st [(SYS_STATE_STATE, stRun), (TRD_CTRL_EN, 1), (TRD_TICK_NS_NS, 1000), (TRD_STATUS_PHASE, 4), (TRD_P1P3_P1_LEN, 5)] with trd := { since := some 0, armedAt := some 0, last := some 0 } }, by decide⟩,
    ⟨{ State.reset with tnk := { resume := some 5 } }, 5, by decide⟩,
    ⟨{ st [(SYS_STATE_STATE, stRun), (TRD_STATUS_PHASE, 2)] with trd := { last := some 0 } }, by decide⟩⟩

theorem witness_TicksAreTakenAndRun_2 :
    (∃ (s : State), s.rst.busy = false ∧ tickStale s = false ∧ phaseNow s ≠ 0 ∧ rd s TRD_STATUS_PHASE = 4) :=
  ⟨{ st [(SYS_STATE_STATE, stRun), (TRD_STATUS_PHASE, 4), (TRD_P2P4_P4_LEN, 5)] with trd := { last := some 0 } }, by decide⟩

theorem witness_EdgesMatchRecords :
    (∃ (s : State) (sn : Nat), s.rst.busy = false ∧ sn < 32 ∧ drvActive (advance s 7) = true ∧ rd s (DRV_SNS_CTRL_EN sn) = 1 ∧ s.drv.waiting = [] ∧ rd s TRD_STATUS_PHASE ≠ 1) ∧
    (∃ (s : State) (sn : Nat), s.rst.busy = false ∧ sn < 32 ∧ drvActive (advance s 7) = true ∧ rd s TRD_STATUS_PHASE = 1 ∧ s.trd.taken * 65536 ≤ ftNs (advance s 7) * 65536) ∧
    (∃ (s : State) (sn : Nat), oldest s (edgeRecs s sn 0) = none ∧ rd s (DRV_SNS_CTRL_ENTRY sn) = 1) ∧
    (∃ (s : State) (sn : Nat) (i : Nat), oldest s (edgeRecs s sn 0) = some i ∧ rd s (DRV_REC_ST_LAST_V i) = 1 ∧ rd s (DRV_REC_ST_LAST i) = sn) ∧
    (∃ (s : State) (sn : Nat) (i : Nat), oldest s (edgeRecs s sn 5) = some i ∧ rd s (DRV_REC_ST_LAST_V i) = 0) ∧
    (∃ (s : State) (i : Nat), freeRec s = some i ∧ s.drv.dest = []) ∧
    (∃ (s : State) (i : Nat) (w : Win), s.rst.busy = false ∧ drvActive s = true ∧ winOf s i = some w ∧ recState s i = 1 ∧ rd s (DRV_BELT_STAT_STOPPED (rd s (DRV_REC_ST_BELT i))) = 0 ∧ running s = true) ∧
    (∃ (s : State) (sn : Nat), s.rst.busy = false ∧ sn < 32 ∧ rd s (DRV_SNS_CTRL_EN sn) = 1 ∧ rd s TRD_STATUS_PHASE = 1 ∧ s.drv.waiting = []) :=
  ⟨⟨wrs drvS [(DRV_SNS_CTRL_EN 31, 1)], 31, by decide⟩,
    ⟨{ wrs drvS [(DRV_SNS_CTRL_EN 0, 1), (TRD_STATUS_PHASE, 1)] with trd := { last := some 0, taken := 0 } }, 0, by decide +kernel⟩,
    ⟨wrs drvS [(DRV_SNS_CTRL_ENTRY 31, 1)], 31, by decide⟩,
    ⟨wrs drvS [(DRV_REC_ST_STATE 1023, 2), (DRV_REC_ST_LAST_V 1023, 1), (DRV_REC_ST_LAST 1023, 31), (DRV_REC_DCL_T 1023, 1)], 31, 1023, by decide⟩,
    ⟨{ wrs drvS [(DRV_REC_ST_STATE 7, 1), (DRV_REC_ST_NEXT 7, 31)] with drv := { wins := [(7, ⟨5, 0, 10⟩)] } }, 31, 7, by decide⟩,
    ⟨State.reset, 0, by decide +kernel⟩,
    ⟨{ wrs drvS [(DRV_REC_ST_STATE 1023, 1)] with drv := { wins := [(1023, ⟨5, 0, 10⟩)] } }, 1023, ⟨5, 0, 10⟩, by decide⟩,
    ⟨wrs drvS [(DRV_SNS_CTRL_EN 0, 1), (TRD_STATUS_PHASE, 1)], 0, by decide⟩⟩

theorem witness_EdgesMatchRecords_2 :
    (∃ (s : State) (sn : Nat), oldest s (edgeRecs s sn 0) = none ∧ rd s (DRV_SNS_CTRL_ENTRY sn) = 0) ∧
    (∃ (sn : Nat), sn < 32) ∧
    (∃ (s : State) (i : Nat) (w : Win), i < 1024 ∧ running s = true) :=
  ⟨⟨drvS, 31, by decide⟩,
    ⟨31, by decide⟩,
    ⟨drvS, 1023, ⟨5, 0, 10⟩, by decide⟩⟩

theorem witness_RecordsAreFreedAndHandedOn :
    (∃ (s : State) (i : Nat), s.rst.busy = false ∧ i < 1024 ∧ (recState s i = 2 ∨ recState s i = 3) ∧ rd s (DRV_REC_CTR_HO_LEFT i) = 0 ∧ rd s (DRV_REC_ST_LAST_V i) = 1 ∧ 0 < modDiff 32 (rd s (DRV_REC_DCL_T i)) (ftNs s)) ∧
    (∃ (s : State) (i : Nat), s.rst.busy = false ∧ i < 1024 ∧ (recState s i = 2 ∨ recState s i = 3) ∧ rd s (DRV_REC_CTR_HO_LEFT i) = 0 ∧ rd s (DRV_REC_ST_LAST_V i) = 0) ∧
    (∃ (s : State) (c : Nat), s.rst.busy = false ∧ c < 4 ∧ rd s (DRV_HO_IN_EN c) = 1 ∧ drvActive s = true) ∧
    (bitOf (beNat (slice (memBytes State.reset (payloadAddr (rd State.reset (DRV_HO_IN_ENTRY 3))) 32) 28 2)) 15 = false) ∧
    (∃ (s : State) (x : List Byte), x = memBytes s (payloadAddr (rd s (DRV_HO_IN_ENTRY 0))) 32 ∧ bitOf (beNat (slice x 28 2)) 15 = true ∧ (beNat (slice x 0 4), beNat (slice x 4 8)) ∉ s.drv.freed ∧ liveRecs s = [] ∧ freeRec s = some 0 ∧ s.drv.dest = []) ∧
    (∃ (s : State) (x : List Byte), x = memBytes s (payloadAddr (rd s (DRV_HO_IN_ENTRY 0))) 32 ∧ bitOf (beNat (slice x 28 2)) 15 = true ∧ (beNat (slice x 0 4), beNat (slice x 4 8)) ∈ s.drv.freed) ∧
    (∃ (s : State) (i : Nat) (obj : Nat), s.rst.busy = false ∧ s.drv.waiting = [] ∧ (liveRecs s).find? (fun i => rd s (DRV_REC_OBJ_ID i) == obj % 2 ^ 32) = some i ∧ recState s i = 3 ∧ ¬(s.drv.matchCyc = s.clk.cyc ∧ i ∈ s.drv.matched)) ∧
    (∃ (s : State) (i : Nat) (obj : Nat), s.rst.busy = false ∧ s.drv.waiting = [] ∧ (liveRecs s).find? (fun i => rd s (DRV_REC_OBJ_ID i) == obj % 2 ^ 32) = some i ∧ i < 1024 ∧ recState s i ≠ 3) :=
  ⟨⟨st [(DRV_REC_ST_STATE 1023, 2), (DRV_REC_ST_LAST_V 1023, 1), (DRV_REC_DCL_T 1023, 5)], 1023, by decide⟩,
    ⟨st [(DRV_REC_ST_STATE 0, 3)], 0, by decide⟩,
    ⟨wrs drvS [(DRV_HO_IN_EN 3, 1)], 3, by decide⟩,
    by decide,
    ⟨memPut State.reset 0x5000001C 0x80, memBytes (memPut State.reset 0x5000001C 0x80) 0x50000000 32, by decide +kernel⟩,
    ⟨{ memPut State.reset 0x5000001C 0x80 with drv := { freed := [(0, 0)] } }, memBytes (memPut State.reset 0x5000001C 0x80) 0x50000000 32, by decide⟩,
    ⟨st [(DRV_REC_ST_STATE 1023, 3), (DRV_REC_OBJ_ID 1023, 9)], 1023, 9, by decide⟩,
    ⟨st [(DRV_REC_ST_STATE 1023, 1), (DRV_REC_OBJ_ID 1023, 9)], 1023, 9, by decide⟩⟩

theorem witness_RecordsAreFreedAndHandedOn_2 :
    (∃ (s : State) (obj : Nat), s.rst.busy = false ∧ s.drv.waiting = [] ∧ (liveRecs s).find? (fun i => rd s (DRV_REC_OBJ_ID i) == obj % 2 ^ 32) = none) ∧
    (∃ (s : State) (i : Nat) (obj : Nat), s.rst.busy = false ∧ (liveRecs s).find? (fun i => rd s (DRV_REC_OBJ_ID i) == obj % 2 ^ 32) = some i ∧ i < 1024 ∧ s.drv.matchCyc = s.clk.cyc ∧ i ∈ s.drv.matched) :=
  ⟨⟨State.reset, 9, by decide⟩,
    ⟨{ st [(DRV_REC_ST_STATE 1023, 3), (DRV_REC_OBJ_ID 1023, 9)] with drv := { matched := [1023] } }, 1023, 9, by decide⟩⟩

theorem witness_MessageFramesAreSorted :
    (∃ (s : State) (p : Nat) (f : List Byte), s.rst.busy = false ∧ p < 4 ∧ isUp s p = true ∧ mType f ≠ 0x20 ∧ rd s WELT_CTRL_BYPASS_REQ = 0 ∧ fcsOk f = true ∧ hcrcOk f = true ∧ knownType (mType f) = true ∧ mLen f ≤ 2016 ∧ mHops f < 8191 ∧ mGroup f = false ∧ mDst f = rd s SYS_HUB_ID_ID ∧ mDst f ≠ 4095) ∧
    (∃ (s : State) (p : Nat) (f : List Byte), p < 4 ∧ isUp s p = true ∧ s.rst.busy = true ∧ s.rst.full = false) ∧
    (∃ (s : State) (p : Nat), s.rst.busy = false ∧ p < 4 ∧ isUp s p = true ∧ rd s WELT_CTRL_BYPASS_REQ = 1) ∧
    (∃ (f : List Byte), fcsOk f = false ∧ hcrcOk f = false) ∧
    (∃ (f : List Byte), hcrcOk f = true ∧ knownType (mType f) = true ∧ mLen f ≤ 2016 ∧ 8191 ≤ mHops f) ∧
    (∃ (s : State) (f : List Byte), hcrcOk f = true ∧ knownType (mType f) = true ∧ mHops f < 8191 ∧ (policerTake s 3 (mTc f) (28 + mLen f)).1 = true ∧ ¬ (mSrc f = rd s SYS_HUB_ID_ID ∧ mPath f = facing 3) ∧ mGroup f = false ∧ mDst f ≠ rd s SYS_HUB_ID_ID ∧ mDst f ≠ 4095 ∧ mType f = 0x30) ∧
    (∃ (s : State) (f : XFrame) (p : Nat), admits s (8 * p + mTc f.bytes) (cellsOf f.bytes) = true ∧ cutsThrough s f.inp p (mTc f.bytes) f.bytes = false ∧ f.inp ≠ 4 ∧ f.inp ≠ 5) ∧
    (∃ (s : State) (f : XFrame) (p : Nat), admits s (8 * p + mTc f.bytes) (cellsOf f.bytes) = false) :=
  ⟨⟨st [(WELT_PORT_STAT_STATE 3, 4)], 3, msgF 0x60 0, by decide +kernel⟩,
    ⟨{ st [(WELT_PORT_STAT_STATE 3, 4)] with rst := { busy := true } }, 3, msgF 0x60 0, by decide⟩,
    ⟨st [(WELT_PORT_STAT_STATE 3, 4), (WELT_CTRL_BYPASS_REQ, 1)], 3, by decide⟩,
    ⟨List.replicate 28 0, by decide +kernel⟩,
    ⟨mMake (patch (hdr 0x30 5) 8 (beBytes 2 8191)) [], by decide +kernel⟩,
    ⟨State.reset, mMake (patch (hdr 0x30 5) 8 (beBytes 2 8190)) [], by decide +kernel⟩,
    ⟨State.reset, ⟨msgF 0x60 5, 3, 0, 0⟩, 0, by decide⟩,
    ⟨{ st [(XB_Q_CFG_QMAX 7, 1), (XB_Q_CFG_QMAX 0, 1)] with sys := { loaded := true } }, ⟨twoCells, 3, 0, 0⟩, 0, by decide⟩⟩

theorem witness_MessageFramesAreSorted_2 :
    (∃ (s : State) (h : List Byte), s.rst.busy = false ∧ s.sys.loaded = true ∧ mType h = 0x60 ∧ mLen h ≤ 2016 ∧ mGroup h = false ∧ mDst h ≠ 4095 ∧ mDst h ≠ rd s SYS_HUB_ID_ID ∧ routeOf s (mDst h) = none) ∧
    (∃ (s : State) (h : List Byte), s.rst.busy = false ∧ s.sys.loaded = true ∧ mType h = 0x10) ∧
    (State.reset.rst.busy = false ∧ State.reset.sys.loaded = false) ∧
    (∃ (s : State) (p : Nat) (f : List Byte), s.rst.busy = false ∧ p < 4 ∧ isUp s p = true ∧ mType f ≠ 0x20 ∧ fcsOk f = false ∧ rd (countBad s false) WELT_CTRL_BYPASS_REQ = 0) ∧
    (∃ (s : State) (f : XFrame) (p : Nat), admits s (8 * p + mTc f.bytes) (cellsOf f.bytes) = true ∧ cutsThrough s f.inp p (mTc f.bytes) f.bytes = true) ∧
    (∃ (s : State) (f : List Byte), hcrcOk f = true ∧ knownType (mType f) = true ∧ mLen f ≤ 2016 ∧ mHops f < 8191 ∧ ¬ (mSrc f = rd s SYS_HUB_ID_ID ∧ mPath f = facing 0) ∧ mGroup f = false ∧ mDst f = rd s SYS_HUB_ID_ID ∧ mDst f ≠ 4095 ∧ s.rst.busy = true ∧ mType f = 0x30) ∧
    (∃ (s : State) (f : List Byte), mDst f ≠ rd s SYS_HUB_ID_ID ∧ isUp s (egressOf s 3) = true ∧ (s.port (egressOf s 3)).waiting = [] ∧ ringMay s (egressOf s 3) (mHop f).length = true) ∧
    (∃ (f : XFrame), localPort f.bytes = none) :=
  ⟨⟨{ State.reset with sys := { loaded := true } }, hdr 0x60 5, by decide⟩,
    ⟨{ State.reset with sys := { loaded := true } }, hdr 0x10 5, by decide⟩,
    by decide,
    ⟨st [(WELT_PORT_STAT_STATE 3, 4)], 3, List.replicate 28 0, by decide +kernel⟩,
    ⟨{ st [(XB_Q_CFG_QMAX 7, 4), (XB_CTRL_CT_EN, 1), (WELT_PORT_STAT_STATE 0, 4)] with sys := { loaded := true } }, ⟨msgF 0x60 5, 3, 0, 0⟩, 0, by decide⟩,
    ⟨{ st [(SYS_HUB_ID_ID, 5)] with rst := { busy := true } }, msgF 0x30 5, by decide +kernel⟩,
    ⟨{ st [(WELT_PORT_STAT_STATE 2, 4)] with rst := { busy := true } }, msgF 0x60 5, by decide⟩,
    ⟨⟨mMake (patch (hdr 0x60 5) 10 [0x50]) [], 3, 0, 0⟩, by decide⟩⟩

theorem witness_MessageFramesAreSorted_3 :
    (∃ (f : XFrame), (localPort f.bytes).isSome = true) ∧
    (∃ (s : State) (h : List Byte) (x : List Byte), s.rst.busy = false ∧ mType h = 0x30 ∧ mGroup h = false ∧ s.sys.loaded = true ∧ mDst h = 4095 ∧ beNat (slice x 2 1) = 1) ∧
    (∃ (s : State) (h : List Byte), s.rst.busy = false ∧ mType h = 0x30 ∧ mGroup h = false ∧ s.sys.loaded = true ∧ mDst h = 0) ∧
    (∃ (s : State) (h : List Byte), s.rst.busy = false ∧ mType h = 0x30 ∧ mGroup h = false ∧ s.sys.loaded = true ∧ mDst h ≠ 0 ∧ mDst h ≠ 4095) :=
  ⟨⟨⟨msgF 0x30 0, 3, 0, 0⟩, by decide⟩,
    ⟨{ State.reset with sys := { loaded := true } }, hdr 0x30 4095, [0, 0, 1, 0, 0, 0, 0, 0], by decide⟩,
    ⟨{ State.reset with sys := { loaded := true } }, hdr 0x30 0, by decide⟩,
    ⟨{ State.reset with sys := { loaded := true } }, hdr 0x30 9, by decide⟩⟩

theorem witness_CellsFramesAndBrokenLinks :
    (∃ (s : State) (i : Nat) (o : Nat) (c : Nat), (voqOf s (64 * i + (8 * o + c))).map (fun f => decide (cellsOf f.bytes ≤ f.crossed + 1)) = [true]) ∧
    (∃ (s : State), ((voqOf s 0).map fun f => decide (f.crossed + 1 < cellsOf f.bytes)) = [true]) ∧
    (∃ (s : State) (w : Nat) (t : State), s.rst.busy = false ∧ w < 8 ∧ w < 4 ∧ t = advanceTo s (sendingTo s w) ∧ (t.port w).waiting = []) ∧
    (∃ (s : State), candidate (pauseCheck (pauseCheck s 0) 1) 0 7 = some 7 ∧ (eqOf (pauseCheck (pauseCheck s 0) 1) 7).length = 1) ∧
    (∃ (s : State), s.rst.busy = false ∧ rd s XB_STATUS_OVERLOAD = 0 ∧ s.xb.drops < rd s XB_OVL_CFG_SET_THR) ∧
    (∃ (s : State), s.rst.busy = false ∧ rd s XB_STATUS_OVERLOAD = 0 ∧ rd s XB_OVL_CFG_SET_THR ≤ s.xb.drops ∧ s.xb.watch = 29) ∧
    (∃ (s : State), s.rst.busy = false ∧ rd s XB_STATUS_OVERLOAD = 1 ∧ s.xb.drops < rd s XB_OVL_CFG_CLR_THR ∧ s.xb.calm ≠ 29) ∧
    (∃ (s : State), s.rst.busy = false ∧ s.xb.drops < rd s XB_OVL_CFG_CLR_THR ∧ s.xb.calm = 29) :=
  ⟨⟨{ State.reset with xb := { voq := [(64 * 3 + 8 * 7 + 7, [⟨msgF 0x60 5, 3, 0, 0⟩])] } }, 3, 7, 7, by decide⟩,
    ⟨{ State.reset with xb := { voq := [(0, [⟨twoCells, 3, 0, 0⟩])] } }, by decide⟩,
    ⟨State.reset, 3, advanceTo State.reset (sendingTo State.reset 3), by decide⟩,
    ⟨{ st [(WELT_PORT_STAT_STATE 0, 4), (WELT_PORT_STAT_STATE 1, 4)] with xb := { eq := [(7, [⟨msgF 0x60 5, 3, 0, 0⟩])] } }, by decide⟩,
    ⟨st [(XB_OVL_CFG_SET_THR, 1)], by decide⟩,
    ⟨{ State.reset with xb := { watch := 29 } }, by decide⟩,
    ⟨st [(XB_STATUS_OVERLOAD, 1), (XB_OVL_CFG_CLR_THR, 1)], by decide⟩,
    ⟨{ st [(XB_STATUS_OVERLOAD, 1), (XB_OVL_CFG_CLR_THR, 1)] with xb := { calm := 29 } }, by decide⟩⟩

theorem witness_CellsFramesAndBrokenLinks_2 :
    (∃ (s : State), s.rst.busy = false ∧ rd s XB_STATUS_OVERLOAD = 1 ∧ rd s XB_OVL_CFG_CLR_THR ≤ s.xb.drops) ∧
    (∃ (s : State) (x : List Byte), s.rst.busy = false ∧ position s (beNat (slice x 1 1) % 2) (beNat (slice x 2 2) % 4096) = some 5 ∧ (beNat (slice x 0 1) = 1 ∨ beNat (slice x 0 1) = 3)) ∧
    (∃ (s : State) (x : List Byte), s.rst.busy = false ∧ position s 0 0 = some 5 ∧ beNat (slice x 0 1) = 2 ∧ linkEntry s 0 (linkAt s 0 5 0) = some 15) ∧
    (∃ (s : State) (n : Nat), s.rst.busy = false ∧ n < 32 ∧ rd s (XB_FLT_VALID n) = 1 ∧ (s.link n).seen ≠ none ∧ (s.link n).own = false) ∧
    (∃ (s : State) (r : Nat) (l : Nat), r < 2 ∧ linkEntry s r l = none ∧ (listOf r).find? (fun k => !flag s (XB_FLT_VALID k)) = some 16) ∧
    (∃ (s : State) (t : State), t = advanceTo s (sendingTo s 3) ∧ (t.port 3).waiting = [.request] ∧ ringMay t 3 (ringLen .request) = true) ∧
    (∃ (s : State) (w : Nat), s.rst.busy = false ∧ w < 4 ∧ ((lapSync (advanceTo s (max (freeFrom s w) (sendingTo s w)))).port w).waiting = [.request] ∧ ringMay (lapSync (advanceTo s (max (freeFrom s w) (sendingTo s w)))) w (ringLen .request) = true) ∧
    (∃ (s : State) (w : Nat), s.rst.busy = false ∧ w < 8 ∧ 4 ≤ w) :=
  ⟨⟨st [(XB_STATUS_OVERLOAD, 1)], by decide⟩,
    ⟨st [(XB_POSA_W 0, 0x8005)], [1] ++ List.replicate 11 0, by decide⟩,
    ⟨st [(XB_POSA_W 0, 0x8005), (XB_FLT_VALID 15, 1), (XB_FLT_LINK 15, 5)], [2] ++ List.replicate 11 0, by decide⟩,
    ⟨{ st [(XB_FLT_VALID 31, 1)] with xb := { links := [(31, { seen := some 0 })] } }, 31, by decide⟩,
    ⟨State.reset, 1, 0, by decide⟩,
    ⟨{ st [(WELT_PORT_STAT_STATE 3, 4)] with ports := [(3, { waiting := [.request] })] }, advanceTo { st [(WELT_PORT_STAT_STATE 3, 4)] with ports := [(3, { waiting := [.request] })] } 0, by decide⟩,
    ⟨{ st [(WELT_PORT_STAT_STATE 3, 3)] with ports := [(3, { waiting := [.request] })] }, 3, by decide⟩,
    ⟨State.reset, 7, by decide⟩⟩

theorem witness_CellsFramesAndBrokenLinks_3 :
    (∃ (s : State), s.rst.busy = false ∧ rd s XB_STATUS_OVERLOAD = 0 ∧ rd s XB_OVL_CFG_SET_THR ≤ s.xb.drops ∧ s.xb.watch ≠ 29) ∧
    (∃ (s : State), (s.link 15).own = true) ∧
    (∃ (s : State) (r : Nat) (l : Nat), r < 2 ∧ linkEntry s r l = none ∧ (listOf r).find? (fun k => !flag s (XB_FLT_VALID k)) = none) :=
  ⟨⟨{ State.reset with xb := { watch := 28 } }, by decide⟩,
    ⟨{ State.reset with xb := { links := [(15, { own := true })] } }, by decide⟩,
    ⟨st [(XB_FLT_VALID 0, 1), (XB_FLT_VALID 1, 1), (XB_FLT_VALID 2, 1), (XB_FLT_VALID 3, 1), (XB_FLT_VALID 4, 1), (XB_FLT_VALID 5, 1), (XB_FLT_VALID 6, 1), (XB_FLT_VALID 7, 1), (XB_FLT_VALID 8, 1), (XB_FLT_VALID 9, 1), (XB_FLT_VALID 10, 1), (XB_FLT_VALID 11, 1), (XB_FLT_VALID 12, 1), (XB_FLT_VALID 13, 1), (XB_FLT_VALID 14, 1), (XB_FLT_VALID 15, 1)], 0, 9, by decide +kernel⟩⟩

theorem witness_SpursReceivePauseAndManage :
    (∃ (s : State) (sp : Nat) (f : List Byte), s.rst.busy = false ∧ sp < 2 ∧ rd s (SPR_STAT_LINK sp) = 1 ∧ 64 ≤ f.length ∧ f.length ≤ 2020 ∧ beNat (f.drop (f.length - 4)) = fcs32 (f.take (f.length - 4)) ∧ ethType (f.take (f.length - 4)) ≠ 0x8808 ∧ ethType (f.take (f.length - 4)) ≠ 0x88B6) ∧
    (∃ (f : List Byte), 64 ≤ f.length ∧ f.length ≤ 2020 ∧ beNat (f.drop (f.length - 4)) ≠ fcs32 (f.take (f.length - 4))) ∧
    (∃ (f : List Byte), 64 ≤ f.length ∧ beNat (f.drop (f.length - 4)) = fcs32 (f.take (f.length - 4)) ∧ ethType (f.take (f.length - 4)) = 0x8808 ∧ beNat (slice (f.take (f.length - 4)) 14 2) = 1) ∧
    (∃ (s : State) (sp : Nat) (f : List Byte), ethType (f.take (f.length - 4)) = 0x88B6 ∧ rd s (SPR_CTRL_NATIVE_EN sp) = 1 ∧ beNat (f.drop (f.length - 4)) = fcs32 (f.take (f.length - 4))) ∧
    (∃ (h : List Byte), mType h ∈ [0x30, 0x32, 0x40, 0x60] ∧ mLen h ≤ 2016) ∧
    (∃ (s : State) (sp : Nat) (f : List Byte), tunnelResult s sp f = none ∧ (∀ n < 256, rd s (SPR_TUN1_EN n) = 0)) ∧
    (∃ (s : State) (sp : Nat), s.rst.busy = false ∧ sp < 2 ∧ rd s (SPR_STAT_XOFF sp) = 1) ∧
    (∃ (s : State) (op : Nat) (phy : Nat) (reg : Nat) (data : Nat), s.rst.busy = false ∧ op < 4 ∧ phy < 32 ∧ reg < 32 ∧ data < 65536 ∧ rd s SPR_MDIO_GO = 1) :=
  ⟨⟨st [(SPR_STAT_LINK 1, 1)], 1, ethF 0x0800, by decide +kernel⟩,
    ⟨List.replicate 64 1, by decide +kernel⟩,
    ⟨ethF 0x8808, by decide +kernel⟩,
    ⟨st [(SPR_CTRL_NATIVE_EN 1, 1)], 1, ethF 0x88B6, by decide +kernel⟩,
    ⟨hdr 0x60 5, by decide⟩,
    ⟨State.reset, 1, ethF 0x0800, by decide +kernel⟩,
    ⟨st [(SPR_STAT_XOFF 1, 1)], 1, by decide⟩,
    ⟨st [(SPR_MDIO_GO, 1)], 3, 31, 31, 65535, by decide⟩⟩

theorem witness_SpursReceivePauseAndManage_2 :
    (∃ (s : State) (sp : Nat) (f : List Byte), s.rst.busy = false ∧ sp < 2 ∧ rd s (SPR_STAT_LINK sp) = 1 ∧ 64 ≤ f.length ∧ 2020 < f.length) ∧
    (∃ (h : List Byte), mType h ∉ [0x30, 0x32, 0x40, 0x60]) ∧
    (∃ (s : State) (sp : Nat), s.rst.busy = false ∧ sp < 2 ∧ rd s (SPR_STAT_PAUSED sp) = 1 ∧ rd s (SPR_CTRL_PAUSE_RX sp) = 1) :=
  ⟨⟨st [(SPR_STAT_LINK 0, 1)], 0, List.replicate 2021 0, by decide +kernel⟩,
    ⟨hdr 0x10 5, by decide⟩,
    ⟨st [(SPR_STAT_PAUSED 0, 1), (SPR_CTRL_PAUSE_RX 0, 1)], 0, by decide⟩⟩

theorem witness_AttemptsEndAndRetry :
    (∃ (s : State) (n : Nat), s.rst.busy = false ∧ n < 48 ∧ rd s (CHN_STAT_STATE n) = 2 ∧ (s.chn n).xfer = .attempt [1]) ∧
    (∃ (s : State) (n : Nat), s.rst.busy = false ∧ n < 48 ∧ (s.chn n).xfer = .attempt [1] ∧ chnMode s n = 3) ∧
    (∃ (s : State) (n : Nat), s.rst.busy = false ∧ n < 48 ∧ rd s (CHN_STAT_STATE n) = 2 ∧ (s.chn n).xfer = .ferry 7 ∧ chnMode s n = 3) ∧
    (∃ (s : State) (n : Nat) (resp : List Byte), s.rst.busy = false ∧ (s.chn n).xfer = .frame [7] ∧ (chnMode s n = 2 ∨ chnMode s n = 3) ∧ resp ≠ [] ∧ rd s (CHN_CFG_RXQ_EN n) = 1) ∧
    (bitOf (desc State.reset 47 63 3 14 2) 1 = false) ∧
    (∃ (s : State) (n : Nat) (q : Nat), 4 ≤ q ∧ q ≤ 7 ∧ (s.chn n).tries < rd s (CHN_PL_RETRY n)) ∧
    (∃ (s : State) (n : Nat) (q : Nat), rd s (CHN_PL_RETRY n) ≤ (s.chn n).tries ∧ 2 < q ∧ xEnts s n 0 = [] ∧ desc s n 0 6 31 1 ≠ 1) ∧
    (∃ (s : State), desc s 0 0 6 31 1 = 1) :=
  ⟨⟨{ st [(CHN_STAT_STATE 47, 2)] with chns := [(47, { xfer := .attempt [1] })] }, 47, by decide⟩,
    ⟨{ st [(CHN_STAT_STATE 47, 2), (CHN_CFG_MODE 47, 3)] with chns := [(47, { xfer := .attempt [1] })] }, 47, by decide⟩,
    ⟨{ st [(CHN_STAT_STATE 0, 2), (CHN_CFG_MODE 0, 3)] with chns := [(0, { xfer := .ferry 7 })] }, 0, by decide⟩,
    ⟨{ st [(CHN_STAT_STATE 0, 2), (CHN_CFG_MODE 0, 2), (CHN_CFG_RXQ_EN 0, 1)] with chns := [(0, { xfer := .frame [7] })] }, 0, [1], by decide⟩,
    by decide,
    ⟨st [(CHN_PL_RETRY 47, 1)], 47, 7, by decide⟩,
    ⟨State.reset, 47, 4, by decide⟩,
    ⟨memPut State.reset (pollBase + 27) 0x80, by decide⟩⟩

theorem witness_AttemptsEndAndRetry_2 :
    (∃ (s : State) (n : Nat), rd s (CHN_STAT_CUR n) + 1 < listLen s n) ∧
    (∃ (s : State) (n : Nat), listLen s n ≤ rd s (CHN_STAT_CUR n) + 1) ∧
    (∃ (s : State) (n : Nat), s.rst.busy = false ∧ n < 48 ∧ rd s (CHN_STAT_STATE n) = 2 ∧ (s.chn n).xfer = .attempt [1] ∧ chnMode s n = 1 ∧ (s.chn n).ctsLeft = none) ∧
    (∃ (s : State) (n : Nat), s.rst.busy = false ∧ rd s (CHN_STAT_STATE n) = 2 ∧ (s.chn n).xfer = .frame [7] ∧ (s.chn n).ctsLeft ≠ none) ∧
    (∃ (s : State) (n : Nat), s.rst.busy = false ∧ rd s (CHN_STAT_STATE n) = 2 ∧ (s.chn n).xfer = .attempt [1] ∧ chnMode s n = 4) ∧
    (∃ (s : State) (n : Nat), (s.chn n).ctsLeft = none ∧ noAnswer s n (rd s (CHN_STAT_CUR n)) = true) ∧
    (∃ (s : State) (n : Nat), (s.chn n).ctsLeft = none ∧ noAnswer s n 0 = noAnswer s n (rd s (CHN_STAT_CUR n)) ∧ deOn s n = true) ∧
    (∃ (s : State) (n : Nat) (area : List Byte), noAnswer s n 0 = false ∧ deOn s n = false ∧ endMet s n 0 area = false ∧ ftNs s ≤ tmoAt s n (s.chn n).sent) :=
  ⟨⟨st [(CHN_PL_COUNT 47, 2)], 47, by decide⟩,
    ⟨st [(CHN_PL_COUNT 47, 1)], 47, by decide⟩,
    ⟨{ st [(CHN_STAT_STATE 0, 2), (CHN_CFG_MODE 0, 1)] with chns := [(0, { xfer := .attempt [1] })] }, 0, by decide⟩,
    ⟨{ st [(CHN_STAT_STATE 0, 2), (CHN_CFG_MODE 0, 1)] with chns := [(0, { xfer := .frame [7], ctsLeft := some 5 })] }, 0, by decide⟩,
    ⟨{ st [(CHN_STAT_STATE 0, 2), (CHN_CFG_MODE 0, 4)] with chns := [(0, { xfer := .attempt [1] })] }, 0, by decide⟩,
    ⟨State.reset, 0, by decide⟩,
    ⟨{ st [(CHN_MODEP_P 0, 16), (CHN_CFG_MODE 0, 1)] with mem := (memPut State.reset (pollBase + 4) 1).mem, chns := [(0, { xfer := .attempt [1], sent := 5 })] }, 0, by decide⟩,
    ⟨memPut State.reset (pollBase + 8) 2, 0, [1], by decide⟩⟩

theorem witness_AttemptsEndAndRetry_3 :
    (∃ (s : State) (n : Nat) (area : List Byte), noAnswer s n 0 = false ∧ deOn s n = false ∧ endMet s n 0 area = true ∧ desc s n 0 1 16 2 ≠ 2 ∧ ftNs s ≤ tmoAt s n (s.chn n).sent) ∧
    (∃ (s : State) (n : Nat), noAnswer s n 0 = false ∧ deOn s n = false ∧ endMet s n 0 [1] = false ∧ tmoAt s n (s.chn n).sent < ftNs s) ∧
    (∃ (s : State) (n : Nat) (q : Nat), q ≤ 2 ∧ xEnts s n 0 = []) :=
  ⟨⟨memPut State.reset (pollBase + 8) 1, 0, [1], by decide⟩,
    ⟨{ memPut State.reset (pollBase + 8) 2 with clk := { ft := 2 ^ 90 } }, 0, by decide +kernel⟩,
    ⟨State.reset, 0, 0, by decide⟩⟩

theorem witness_TransfersStart :
    (∃ (s : State) (n : Nat), s.rst.busy = false ∧ n < 48 ∧ rd s (CHN_STAT_STATE n) = 2 ∧ (s.chn n).xfer = .none ∧ chnMode s n ∈ [1, 2, 3, 4] ∧ chnMode s n ≠ 1 ∧ rd s (CHN_STAT_BUSY n) = 1 ∧ chnMode s n ≠ 3) ∧
    (∃ (s : State) (n : Nat) (sda : Nat), s.rst.busy = false ∧ rd s (CHN_STAT_STATE n) = 2 ∧ (s.chn n).xfer = .none ∧ chnMode s n = 3 ∧ rd s (CHN_STAT_BUSY n) = 1 ∧ 2 ≤ sda) ∧
    (∃ (s : State) (n : Nat), s.rst.busy = false ∧ rd s (CHN_STAT_STATE n) = 2 ∧ (s.chn n).xfer = .none ∧ chnMode s n = 2 ∧ rd s (CHN_STAT_BUSY n) = 0 ∧ (s.chn n).ferry = [7]) ∧
    (∃ (s : State) (n : Nat), s.rst.busy = false ∧ rd s (CHN_STAT_STATE n) = 2 ∧ (s.chn n).xfer = .none ∧ chnMode s n = 1 ∧ modep s n 5 1 = 1 ∧ (s.chn n).cts = true ∧ rd s (CHN_STAT_BUSY n) = 0 ∧ (s.chn n).ferry = [] ∧ (s.chn n).txq = [[1]]) ∧
    (∃ (s : State), pollBad s 0 (rd s (CHN_STAT_CUR 0)) = true) ∧
    (∃ (s : State), pollBad s 0 0 = false ∧ desc s 0 0 3 14 2 ≠ 0 ∧ rd s ASY_STATUS_FAILED = 0xFFFF ∧ rd s (CHN_STAT_CUR 0) = 0) ∧
    (∃ (s : State) (n : Nat), pollBad s n (rd s (CHN_STAT_CUR n)) = false ∧ desc s n (rd s (CHN_STAT_CUR n)) 3 14 2 = 0 ∧ iEnts s n (rd s (CHN_STAT_CUR n)) = []) ∧
    (∃ (s : State) (n : Nat), bitOf (rd s (CHN_CFG_QUSE n)) 0 = true ∧ rd s ASY_STATUS_FAILED = 0xFFFF) :=
  ⟨⟨st [(CHN_STAT_STATE 47, 2), (CHN_STAT_BUSY 47, 1), (CHN_CFG_MODE 47, 2)], 47, by decide⟩,
    ⟨st [(CHN_STAT_STATE 0, 2), (CHN_STAT_BUSY 0, 1), (CHN_CFG_MODE 0, 3)], 0, 2, by decide⟩,
    ⟨{ st [(CHN_STAT_STATE 47, 2), (CHN_CFG_MODE 47, 2)] with chns := [(47, { ferry := [7] })] }, 47, by decide⟩,
    ⟨{ st [(CHN_STAT_STATE 47, 2), (CHN_CFG_MODE 47, 1), (CHN_MODEP_P 47, 32)] with chns := [(47, { txq := [[1]] })] }, 47, by decide⟩,
    ⟨{ State.reset with bad := [6 * 2 ^ 28 + 7] }, by decide⟩,
    ⟨wr (memPut State.reset (pollBase + 13) 0x40) ASY_STATUS_FAILED 0xFFFF, by decide⟩,
    ⟨State.reset, 47, by decide⟩,
    ⟨st [(CHN_CFG_QUSE 47, 1), (ASY_STATUS_FAILED, 0xFFFF)], 47, by decide⟩⟩

theorem witness_TransfersStart_2 :
    (∃ (s : State) (n : Nat), bitOf (rd s (CHN_CFG_QUSE n)) 0 = false) ∧
    (∃ (s : State) (n : Nat) (sda : Nat), s.rst.busy = false ∧ rd s (CHN_STAT_STATE n) = 2 ∧ (s.chn n).xfer = .none ∧ chnMode s n = 3 ∧ rd s (CHN_STAT_BUSY n) = 0 ∧ (s.chn n).ferry = [7] ∧ 2 ≤ sda) ∧
    (∃ (s : State) (n : Nat) (sda : Nat), s.rst.busy = false ∧ rd s (CHN_STAT_STATE n) = 2 ∧ (s.chn n).xfer = .none ∧ chnMode s n = 3 ∧ rd s (CHN_STAT_BUSY n) = 0 ∧ (s.chn n).ferry = [] ∧ (s.chn n).txq = [[7]] ∧ 2 ≤ sda) ∧
    (∃ (s : State) (n : Nat) (sda : Nat), s.rst.busy = false ∧ rd s (CHN_STAT_STATE n) = 2 ∧ (s.chn n).xfer = .none ∧ chnMode s n = 3 ∧ rd s (CHN_STAT_BUSY n) = 1 ∧ sda = 0) ∧
    (∃ (s : State) (n : Nat) (k : Nat), chnMode s n = 2 ∧ (s.chn n).cs = some k ∧ csLine s n k = csLine s n 1) ∧
    (∃ (s : State) (n : Nat), chnMode s n = 4) ∧
    (∃ (s : State) (n : Nat), chnMode s n = 2 ∧ (s.chn n).cs = some 1 ∧ csLine s n 1 = some 95 ∧ rd s (DIO_STAT_RELEASED 95) = 0) :=
  ⟨⟨st [(CHN_CFG_QUSE 47, 2)], 47, by decide⟩,
    ⟨{ st [(CHN_STAT_STATE 0, 2), (CHN_CFG_MODE 0, 3)] with chns := [(0, { ferry := [7] })] }, 0, 2, by decide⟩,
    ⟨{ st [(CHN_STAT_STATE 0, 2), (CHN_CFG_MODE 0, 3)] with chns := [(0, { txq := [[7]] })] }, 0, 2, by decide⟩,
    ⟨st [(CHN_STAT_STATE 0, 2), (CHN_STAT_BUSY 0, 1), (CHN_CFG_MODE 0, 3)], 0, 0, by decide⟩,
    ⟨{ st [(CHN_CFG_MODE 0, 2)] with chns := [(0, { cs := some 1 })] }, 0, 1, by decide⟩,
    ⟨st [(CHN_CFG_MODE 0, 4)], 0, by decide⟩,
    ⟨{ st [(CHN_CFG_MODE 0, 2), (CHN_CSX_CS1_EN 0, 1), (CHN_CSX_CS1_DIO 0, 95)] with chns := [(0, { cs := some 1 })] }, 0, by decide⟩⟩

theorem witness_ChannelQueuesAndEnables :
    (∃ (s : State) (n : Nat) (len : Nat), s.rst.busy = false ∧ n < 48 ∧ 1 ≤ len ∧ len ≤ 384 ∧ chnMode s n = 4) ∧
    (∃ (s : State) (n : Nat) (len : Nat), s.rst.busy = false ∧ chnMode s n ≠ 4 ∧ chnMode s n ≠ 5 ∧ 512 * txqUnits s n < txUsed s n + queued len) ∧
    (∃ (s : State) (n : Nat) (len : Nat), s.rst.busy = false ∧ chnMode s n ≠ 4 ∧ chnMode s n ≠ 5 ∧ txUsed s n + queued len ≤ 512 * txqUnits s n) ∧
    (∃ (s : State) (n : Nat), s.rst.busy = false ∧ n < 48 ∧ rd s (CHN_STAT_STATE n) = 2 ∧ chnMode s n = 1 ∧ (s.chn n).xfer = .none ∧ modep s n 7 1 = 0 ∧ rd s (CHN_CFG_RXQ_EN n) = 1 ∧ bitOf (rd s (CHN_CFG_QUSE n)) 1 = false ∧ rxUsed s n + queued 384 ≤ rxSize s n) ∧
    (∃ (s : State) (n : Nat) (bs : List Byte), rxSize s n < rxUsed s n + queued bs.length ∧ bitOf (rd s (CHN_CFG_QUSE n)) 1 = false) ∧
    (∃ (s : State) (n : Nat) (ini : Nat), s.rst.busy = false ∧ (s.chn n).rxq = [⟨[1], 0, true, false, false⟩] ∧ rd s (CHN_CFG_FWD_EN n) = 1 ∧ ini < 2) ∧
    (∃ (s : State) (n : Nat), s.rst.busy = false ∧ rd s (CHN_STAT_STATE n) = 3 ∧ (s.chn n).ferry = [] ∧ (s.chn n).xfer = .none ∧ rd s (CHN_STAT_PEND_ON n) = 0) ∧
    (∃ (s : State) (n : Nat), s.rst.busy = false ∧ rd s (CHN_STAT_STATE n) = 1) :=
  ⟨⟨st [(CHN_CFG_MODE 47, 4)], 47, 384, by decide⟩,
    ⟨{ State.reset with chns := [(0, { txq := [List.replicate 384 0] })] }, 0, 384, by decide +kernel⟩,
    ⟨State.reset, 0, 384, by decide⟩,
    ⟨st [(CHN_STAT_STATE 47, 2), (CHN_CFG_MODE 47, 1), (CHN_CFG_RXQ_EN 47, 1)], 47, by decide⟩,
    ⟨{ st [(CHN_CFG_TXQ_U 0, 14)] with chns := [(0, { rxq := [⟨List.replicate 384 0, 0, true, false, false⟩] })] }, 0, List.replicate 384 0, by decide +kernel⟩,
    ⟨{ st [(CHN_CFG_FWD_EN 47, 1)] with chns := [(47, { rxq := [⟨[1], 0, true, false, false⟩] })] }, 47, 1, by decide⟩,
    ⟨st [(CHN_STAT_STATE 47, 3)], 47, by decide⟩,
    ⟨st [(CHN_STAT_STATE 47, 1)], 47, by decide⟩⟩

theorem witness_ChannelQueuesAndEnables_2 :
    (∃ (s : State) (k : Nat), s.rst.busy = false ∧ k = rd s CHN_PM_ADDR_WORD ∧ 14 ≤ rd s SYS_STEP_STEP) ∧
    (∃ (s : State), s.rst.busy = false ∧ rd s SYS_STEP_STEP < 14) ∧
    (∃ (s : State) (n : Nat) (len : Nat), s.rst.busy = false ∧ n < 48 ∧ 1 ≤ len ∧ chnMode s n = 5) ∧
    (∃ (s : State) (n : Nat), s.rst.busy = false ∧ rd s (CHN_STAT_STATE n) = 2 ∧ chnMode s n = 1 ∧ (s.chn n).xfer = .attempt [1]) ∧
    (∃ (s : State) (n : Nat) (ch : Nat), modep s n 7 1 = 1 ∧ bitOf ch 8 = true ∧ bitOf ch 9 = false ∧ ch % 256 ≠ modep s n 24 8) ∧
    (∃ (s : State) (n : Nat) (ch : Nat), modep s n 7 1 = 1 ∧ bitOf ch 8 = false ∧ (s.chn n).other = true) ∧
    (∃ (s : State) (n : Nat) (ch : Nat), modep s n 7 1 = 0 ∧ rd s (CHN_CFG_RXQ_EN n) = 1 ∧ (s.chn n).part = none ∧ rd s (CHN_RXEND_END n) = 0 ∧ rd s (CHN_RXEND_RX_MAX n) = 1) ∧
    (∃ (s : State) (n : Nat), (s.chn n).part = none ∧ rd s (CHN_CFG_RXQ_EN n) = 0) :=
  ⟨⟨st [(SYS_STEP_STEP, 14), (CHN_PM_ADDR_WORD, 0x3FFF)], 0x3FFF, by decide⟩,
    ⟨st [(SYS_STEP_STEP, 13)], by decide⟩,
    ⟨st [(CHN_CFG_MODE 15, 5)], 15, 1, by decide⟩,
    ⟨{ st [(CHN_STAT_STATE 0, 2), (CHN_CFG_MODE 0, 1)] with chns := [(0, { xfer := .attempt [1] })] }, 0, by decide⟩,
    ⟨st [(CHN_MODEP_P 0, 128)], 0, 0x105, by decide⟩,
    ⟨st [(CHN_MODEP_P 0, 128)], 0, 5, by decide⟩,
    ⟨st [(CHN_CFG_RXQ_EN 0, 1), (CHN_RXEND_RX_MAX 0, 1)], 0, 5, by decide⟩,
    ⟨State.reset, 0, by decide⟩⟩

theorem witness_ChannelQueuesAndEnables_3 :
    (∃ (s : State) (n : Nat), (s.chn n).part = some (5, [1], false)) ∧
    (∃ (s : State) (n : Nat), s.rst.busy = false ∧ chnMode s n = 1 ∧ modep s n 5 1 = 1 ∧ (s.chn n).xfer ≠ .none ∧ (s.chn n).ctsLeft = none) ∧
    (∃ (s : State) (n : Nat) (k : Nat), s.rst.busy = false ∧ chnMode s n = 1 ∧ modep s n 5 1 = 1 ∧ (s.chn n).xfer ≠ .none ∧ (s.chn n).ctsLeft = some k) ∧
    (∃ (s : State) (n : Nat), s.rst.busy = false ∧ ¬(chnMode s n = 1 ∧ modep s n 5 1 = 1 ∧ (s.chn n).xfer ≠ .none)) ∧
    (∃ (s : State) (n : Nat), s.rst.busy = false ∧ rd s (CHN_STAT_STATE n) = 3 ∧ (s.chn n).xfer ≠ .none ∧ chnMode s n ≠ 1) ∧
    (∃ (s : State) (n : Nat), (s.chn n).rxq = [⟨[1], 0, true, false, false⟩] ∧ rd s (CHN_CFG_FWD_EN n) = 0) :=
  ⟨⟨{ State.reset with chns := [(47, { part := some (5, [1], false) })] }, 47, by decide⟩,
    ⟨{ st [(CHN_CFG_MODE 0, 1), (CHN_MODEP_P 0, 32)] with chns := [(0, { xfer := .frame [1], sent := 9 })] }, 0, by decide⟩,
    ⟨{ st [(CHN_CFG_MODE 0, 1), (CHN_MODEP_P 0, 32)] with chns := [(0, { xfer := .frame [1], ctsLeft := some 9 })] }, 0, 9, by decide⟩,
    ⟨st [(CHN_CFG_MODE 0, 1)], 0, by decide⟩,
    ⟨{ st [(CHN_STAT_STATE 47, 3), (CHN_CFG_MODE 47, 2)] with chns := [(47, { xfer := .frame [1] })] }, 47, by decide⟩,
    ⟨{ st [(CHN_CFG_FWD_EN 47, 0)] with chns := [(47, { rxq := [⟨[1], 0, true, false, false⟩] })] }, 47, by decide⟩⟩

theorem witness_ControllersStartStopAndDetect :
    (∃ (s : State) (k : Nat), s.rst.busy = false ∧ k < 16 ∧ rd s (CAN_STAT_STATE k) = 6 ∧ (∀ b < 3, rd s (CAN_TXB_CTRL_PEND k b) = 0) ∧ rd s (CAN_STAT_PEND_ON k) = 0) ∧
    (∃ (s : State) (k : Nat), s.rst.busy = false ∧ rd s (CAN_STAT_STATE k) = 7 ∧ running s = true ∧ rd s (CAN_STAT_DIS k) = 0) ∧
    (∃ (s : State) (k : Nat), rd s (CAN_STAT_STATE k) = 4) ∧
    (∃ (s : State) (k : Nat), rd s (CAN_STAT_STATE k) = 2) ∧
    (∃ (s : State) (k : Nat), rd s (CAN_STAT_STATE k) = 5) ∧
    (∃ (s : State) (k : Nat), rd s (CAN_STAT_STATE k) = 1 ∧ (s.can k).locked = false ∧ (s.can k).slow = false ∧ rd s (CAN_DET_DET_TMO k) ≠ 0 ∧ (s.can k).cand < rd s (CAN_DET_NCAND_M1 k)) ∧
    (∃ (s : State) (k : Nat), rd s (CAN_STAT_STATE k) = 1 ∧ rd s (CAN_DET_NCAND_M1 k) ≤ (s.can k).cand) ∧
    (∃ (s : State) (k : Nat) (ini : Nat), s.rst.busy = false ∧ k < 16 ∧ (s.can k).fifo = [⟨{}, 0, 0⟩] ∧ rd s (CAN_CTRL_FWD_EN k) = 1 ∧ ini < 2) :=
  ⟨⟨st [(CAN_STAT_STATE 15, 6)], 15, by decide⟩,
    ⟨st [(CAN_STAT_STATE 15, 7), (SYS_STATE_STATE, stRun)], 15, by decide⟩,
    ⟨st [(CAN_STAT_STATE 0, 4)], 0, by decide⟩,
    ⟨st [(CAN_STAT_STATE 0, 2)], 0, by decide⟩,
    ⟨st [(CAN_STAT_STATE 0, 5)], 0, by decide⟩,
    ⟨st [(CAN_STAT_STATE 15, 1), (CAN_DET_NCAND_M1 15, 1), (CAN_DET_DET_TMO 15, 1)], 15, by decide⟩,
    ⟨st [(CAN_STAT_STATE 15, 1)], 15, by decide⟩,
    ⟨{ st [(CAN_CTRL_FWD_EN 15, 1)] with cans := [(15, { fifo := [⟨{}, 0, 0⟩] })] }, 15, 1, by decide⟩⟩

theorem witness_ControllersStartStopAndDetect_2 :
    (∃ (s : State) (k : Nat), rd s (CAN_STAT_STATE k) = 4 ∧ (s.can k).offAt = some s.clk.ft.toNat) ∧
    (∃ (s : State) (k : Nat), s.rst.busy = false ∧ k < 16 ∧ (s.can k).evicted = some (s.clk.ft.toNat, ⟨{}, 0, 0⟩, 1, 1)) ∧
    (∃ (s : State) (k : Nat), s.rst.busy = false ∧ k < 16 ∧ (s.can k).fifo = [⟨{}, 0, 0⟩] ∧ (∀ o, (s.can k).evicted = some o → o.1 ≠ s.clk.ft.toNat) ∧ rd s (CAN_CTRL_FWD_EN k) = 0) :=
  ⟨⟨{ st [(CAN_STAT_STATE 0, 4)] with cans := [(0, { offAt := some 0 })] }, 0, by decide⟩,
    ⟨{ State.reset with cans := [(15, { evicted := some (0, ⟨{}, 0, 0⟩, 1, 1) })] }, 15, by decide⟩,
    ⟨{ st [(CAN_CTRL_FWD_EN 15, 0)] with cans := [(15, { fifo := [⟨{}, 0, 0⟩] })] }, 15, by decide⟩⟩

theorem witness_CanFramesAreReceived :
    (∃ (s : State) (k : Nat) (f : CanFrame), s.rst.busy = false ∧ k < 16 ∧ rd s (CAN_STAT_STATE k) = 1 ∧ (s.can k).locked = false ∧ f.fd = false ∧ (s.can k).cand < 8 ∧ rd s (CAN_CTRL_DET_RUN k) = 0) ∧
    (∃ (s : State) (k : Nat) (f : CanFrame), rd s (CAN_STAT_STATE k) = 3 ∧ f.fd = true ∧ rd s (CAN_CTRL_FD_EN k) = 0) ∧
    (∃ (s : State) (k : Nat) (f : CanFrame), (rd s (CAN_STAT_STATE k) = 3 ∨ rd s (CAN_STAT_STATE k) = 6) ∧ f.fd = false ∧ counts s k = true ∧ 127 < rd s (CAN_ERRC_REC k) ∧ (s.can k).fifo.length < 32) ∧
    (∃ (s : State) (k : Nat), counts s k = true ∧ rd s (CAN_ERRC_REC k) ≤ 127) ∧
    (∃ (s : State) (k : Nat), 32 ≤ (s.can k).fifo.length) ∧
    (∃ (s : State) (k : Nat) (f : CanFrame), rxmOf s k f = some 31 ∧ f.data.length < rd s (CAN_RXM1_MINLEN 31)) ∧
    (∃ (s : State) (k : Nat) (f : CanFrame), rxmOf s k f = none) ∧
    (∃ (s : State), s.rst.busy = false ∧ rd s TRD_TICK_NS_NS ≠ 0 ∧ rd (toBoundary s (rd s TRD_TICK_NS_NS) s.rxmLast) (CAN_RXM0_EN 31) = 1) :=
  ⟨⟨st [(CAN_STAT_STATE 15, 1)], 15, {}, by decide⟩,
    ⟨st [(CAN_STAT_STATE 15, 3)], 15, { fd := true }, by decide⟩,
    ⟨st [(CAN_STAT_STATE 15, 3), (CAN_ERRC_REC 15, 128)], 15, {}, by decide⟩,
    ⟨st [(CAN_STAT_STATE 0, 3), (CAN_ERRC_REC 0, 127)], 0, by decide⟩,
    ⟨{ State.reset with cans := [(15, { fifo := List.replicate 32 ⟨{}, 0, 0⟩ })] }, 15, by decide⟩,
    ⟨st [(CAN_RXM0_EN 31, 1), (CAN_RXM1_CTL 31, 15), (CAN_RXM1_MINLEN 31, 1)], 15, {}, by decide⟩,
    ⟨State.reset, 15, {}, by decide⟩,
    ⟨st [(TRD_TICK_NS_NS, 1000), (CAN_RXM0_EN 31, 1)], by decide⟩⟩

theorem witness_CanFramesAreReceived_2 :
    (∃ (s : State) (k : Nat) (f : CanFrame), rd s (CAN_STAT_STATE k) = 1 ∧ (s.can k).locked = false ∧ rd s (CAN_RATE_D_FDV k (s.can k).cand) = 1 ∧ f.fd = false) ∧
    (∃ (s : State) (k : Nat), rd s (CAN_STAT_STATE k) ≠ 1 ∧ rd s (CAN_STAT_STATE k) ≠ 3 ∧ rd s (CAN_STAT_STATE k) ≠ 6) ∧
    (∃ (s : State) (k : Nat), 32 ≤ (s.can k).fifo.length ∧ rd s (CAN_CTRL_FIFO_OW k) = 1) ∧
    (∃ (s : State) (m : Nat) (k : Nat) (f : CanFrame), rxmOf s k f = some m ∧ (m, tickNow s) ∈ s.rxmAged) ∧
    (∃ (s : State) (m : Nat) (k : Nat) (f : CanFrame) (n : Int), rxmOf s k f = some m ∧ s.rxmLast = some n ∧ n < tickNow s ∧ (m, tickNow s) ∉ s.rxmAged ∧ rd s (CAN_RXM1_MINLEN m) ≤ f.data.length) :=
  ⟨⟨st [(CAN_STAT_STATE 15, 1), (CAN_RATE_D_FDV 15 0, 1)], 15, {}, by decide⟩,
    ⟨st [(CAN_STAT_STATE 15, 2)], 15, by decide⟩,
    ⟨{ st [(CAN_CTRL_FIFO_OW 15, 1)] with cans := [(15, { fifo := List.replicate 32 ⟨{}, 0, 0⟩ })] }, 15, by decide⟩,
    ⟨{ st [(CAN_RXM0_EN 31, 1), (CAN_RXM1_CTL 31, 15), (TRD_TICK_NS_NS, 1000)] with rxmAged := [(31, 0)] }, 31, 15, {}, by decide⟩,
    ⟨{ st [(CAN_RXM0_EN 31, 1), (CAN_RXM1_CTL 31, 15), (TRD_TICK_NS_NS, 1000)] with rxmLast := some (-1) }, 31, 15, {}, -1, by decide⟩⟩

theorem witness_CanBuffersAreSent :
    (∃ (s : State) (k : Nat) (b : Nat), s.rst.busy = false ∧ k < 16 ∧ b < 3 ∧ rd s (CAN_TXB_CTRL_PEND k b) = 1 ∧ rd s (CAN_TXB_CTRL_SOF k b) = 1 ∧ sofBuf s k = some b ∧ rd s (CAN_TXB_CTRL_CANCEL k b) = 0) ∧
    (∃ (s : State) (k : Nat) (b : Nat), s.rst.busy = false ∧ rd s (CAN_TXB_CTRL_PEND k b) = 1 ∧ rd s (CAN_TXB_CTRL_SOF k b) = 0 ∧ chooseTxb s k = some b ∧ rd s (CAN_CTRL_TXORD k) = 1) ∧
    (∃ (s : State) (k : Nat) (b : Nat), s.rst.busy = false ∧ rd s (CAN_TXB_CTRL_PEND k b) = 0 ∧ chooseTxb s k = none) ∧
    (∃ (s : State) (t : State) (k : Nat), rd t (CAN_STAT_STATE k) = 3 ∧ rd t (CAN_CTRL_LISTEN k) = 0 ∧ running t = true ∧ (t.can k).busy = false ∧ sofBuf t k = none ∧ t.pending = s.pending) ∧
    (∃ (s : State) (k : Nat) (kind : Nat), s.rst.busy = false ∧ k < 16 ∧ kind < 8 ∧ rd s (CAN_STAT_STATE k) = 1 ∧ detecting s k = true) ∧
    (∃ (s : State) (k : Nat), detecting s k = false ∧ rd s (CAN_STAT_STATE k) = 3 ∧ rd s (CAN_ERRC_TEC k) ≤ 127 ∧ rd s (CAN_ERRC_REC k) ≤ 127) ∧
    (∃ (s : State) (k : Nat), 255 < rd s (CAN_ERRC_TEC k) ∧ rd s (CAN_STAT_STATE k) = 3) ∧
    (∃ (s : State) (k : Nat), rd s (CAN_ERRC_TEC k) ≤ 255 ∧ 127 < rd s (CAN_ERRC_TEC k) ∧ rd s (CAN_STAT_ERR k) = 0) :=
  ⟨⟨st [(CAN_TXB_CTRL_PEND 15 2, 1), (CAN_TXB_CTRL_SOF 15 2, 1)], 15, 2, by decide⟩,
    ⟨st [(CAN_TXB_CTRL_PEND 0 0, 1), (CAN_CTRL_TXORD 0, 1)], 0, 0, by decide⟩,
    ⟨State.reset, 0, 2, by decide⟩,
    ⟨st [(CAN_STAT_STATE 15, 3), (SYS_STATE_STATE, stRun)], loadSbuf (st [(CAN_STAT_STATE 15, 3), (SYS_STATE_STATE, stRun)]) 15, 15, by decide⟩,
    ⟨st [(CAN_STAT_STATE 15, 1)], 15, 7, by decide⟩,
    ⟨st [(CAN_STAT_STATE 15, 3)], 15, by decide⟩,
    ⟨st [(CAN_STAT_STATE 15, 3), (CAN_ERRC_TEC 15, 256)], 15, by decide⟩,
    ⟨st [(CAN_ERRC_TEC 15, 255)], 15, by decide⟩⟩

theorem witness_CanBuffersAreSent_2 :
    (∃ (s : State) (k : Nat) (b : Nat) (delay : Nat), s.rst.busy = false ∧ k < 16 ∧ b < 3 ∧ sofBuf s k = some b ∧ rd s (CAN_DBT_TDC_EN k) = 1 ∧ delay ≤ 127) ∧
    (∃ (s : State) (k : Nat) (b : Nat) (delay : Nat), sofBuf s k = some b ∧ (txbFrame s k b).fd = true ∧ (txbFrame s k b).brs = true ∧ rd s (CAN_DBT_TDC_EN k) = 1 ∧ 127 < delay) ∧
    (∃ (s : State) (k : Nat) (b : Nat), sofBuf s k = some b ∧ rd s (CAN_TXB_CTRL_CANCEL k b) = 1) ∧
    (∃ (s : State) (k : Nat), 255 < rd s (CAN_ERRC_TEC k) ∧ rd s (CAN_STAT_STATE k) = 3 ∧ (s.can k).asked = some s.clk.ft.toNat) :=
  ⟨⟨st [(CAN_TXB_CTRL_PEND 15 2, 1), (CAN_TXB_CTRL_SOF 15 2, 1), (CAN_DBT_TDC_EN 15, 1)], 15, 2, 127, by decide⟩,
    ⟨st [(CAN_TXB_CTRL_PEND 15 2, 1), (CAN_TXB_CTRL_SOF 15 2, 1), (CAN_DBT_TDC_EN 15, 1), (CAN_TXB_FMT_FDF 15 2, 1), (CAN_TXB_FMT_BRS 15 2, 1), (CAN_CTRL_FD_EN 15, 1)], 15, 2, 128, by decide⟩,
    ⟨st [(CAN_TXB_CTRL_PEND 15 2, 1), (CAN_TXB_CTRL_SOF 15 2, 1), (CAN_TXB_CTRL_CANCEL 15 2, 1)], 15, 2, by decide⟩,
    ⟨{ st [(CAN_STAT_STATE 15, 3), (CAN_ERRC_TEC 15, 256)] with cans := [(15, { asked := some 0 })] }, 15, by decide⟩⟩

theorem witness_DiscreteLinesAct :
    (∃ (s : State) (n : Nat) (e : Stamp), n < 96 ∧ s.sys.loaded = true ∧ (s.line n).run = some 0 ∧ e.rise = (s.line n).pad ∧ rd s (DIO_CFG_TS_EDGE n) = (if e.rise then 1 else 2) ∧ 16 ≤ (s.line n).fifo.length) ∧
    (∃ (s : State) (n : Nat) (e : QEnt) (q : List QEnt), n < 96 ∧ (s.line n).queue = e :: q ∧ dioHeeds s n = true ∧ dioMode s n = 1 ∧ due40 e.target (ftNs s) = true ∧ actedNow s (s.line n) = false) ∧
    (∃ (s : State) (n : Nat), n < 96 ∧ (s.line n).pulseEnd = some 5 ∧ dioHeeds s n = true) ∧
    (∃ (s : State) (n : Nat), n < 96 ∧ dioHeeds s n = true ∧ dioMode s n = 2) ∧
    (∃ (s : State) (n : Nat), n < 96 ∧ dioHeeds s n = true ∧ dioMode s n = 3 ∧ (s.line n).ptLeft ≠ 0) ∧
    (∃ (s : State) (n : Nat), n < 96 ∧ s.rst.busy = false ∧ rd s (DIO_CFG_RB_EN n) = 1 ∧ dioPad s n = .high ∧ (s.line n).pad = false) ∧
    (∃ (s : State) (n : Nat), n < 96 ∧ s.sys.loaded = false) ∧
    (∃ (s : State) (n : Nat) (r : Nat), n < 96 ∧ (s.line n).run = some r ∧ s.sys.loaded = true) :=
  ⟨⟨{ st [(DIO_CFG_TS_EDGE 95, 1)] with sys := { loaded := true }, lines := [(95, { fifo := List.replicate 16 ⟨0, 0, true⟩, pad := true, run := some 0 })] }, 95, ⟨0, 0, true⟩, by decide⟩,
    ⟨{ st [(DIO_CFG_MODE 0, 1), (SYS_STATE_STATE, stRun)] with lines := [(0, { queue := [⟨0, .set⟩] })] }, 0, ⟨0, .set⟩, [], by decide⟩,
    ⟨{ st [(DIO_CFG_MODE 95, 1), (SYS_STATE_STATE, stRun)] with lines := [(95, { pulseEnd := some 5 })] }, 95, by decide⟩,
    ⟨st [(DIO_CFG_MODE 95, 2), (SYS_STATE_STATE, stRun)], 95, by decide⟩,
    ⟨{ st [(DIO_CFG_MODE 95, 3), (SYS_STATE_STATE, stRun)] with lines := [(95, { ptLeft := 1 })] }, 95, by decide⟩,
    ⟨{ st [(DIO_CFG_RB_EN 95, 1)] with lines := [(95, { drive := some true })] }, 95, by decide⟩,
    ⟨State.reset, 95, by decide⟩,
    ⟨{ st [(DIO_CFG_FILT 0, 7)] with sys := { loaded := true }, lines := [(0, { run := some 5 })] }, 0, 5, by decide⟩⟩

theorem witness_DiscreteLinesAct_2 :
    (∃ (s : State) (n : Nat) (x : Nat × Stamp × Nat × Nat), n < 96 ∧ (s.line n).miss = some x ∧ x.1 = s.clk.ft.toNat) ∧
    (∃ (s : State) (n : Nat) (e : QEnt), n < 96 ∧ (s.line n).queue = [e] ∧ dioHeeds s n = true ∧ dioMode s n = 1 ∧ due40 e.target (ftNs s) = false) ∧
    (∃ (s : State) (n : Nat), lineDriven s n = none) ∧
    (∃ (s : State) (n : Nat) (b : Bool), lineDriven s n = some b) ∧
    (∃ (s : State) (n : Nat), dioHeeds s n = true ∧ dioMode s n = 3 ∧ (s.line n).ptLeft ≠ 0 ∧ (s.line n).perAt.isSome = true) ∧
    (∃ (s : State) (n : Nat), dioPad s n = .undriven) :=
  ⟨⟨{ State.reset with lines := [(95, { fifo := [⟨7, 0, true⟩], miss := some (0, ⟨9, 0, true⟩, 1, 1) })] }, 95, (0, ⟨9, 0, true⟩, 1, 1), by decide⟩,
    ⟨{ st [(DIO_CFG_MODE 0, 1), (SYS_STATE_STATE, stRun)] with lines := [(0, { queue := [⟨5, .pulse⟩], acts := [(2, .set)] })] }, 0, ⟨5, .pulse⟩, by decide⟩,
    ⟨State.reset, 95, by decide⟩,
    ⟨{ State.reset with lines := [(0, { drive := some false })] }, 0, false, by decide⟩,
    ⟨{ st [(DIO_CFG_MODE 95, 3), (SYS_STATE_STATE, stRun)] with lines := [(95, { ptLeft := 2, perAt := some 3 })] }, 95, by decide⟩,
    ⟨State.reset, 0, by decide⟩⟩

theorem witness_ConversionsAveragesAndScans :
    (∃ (s : State) (a : Nat) (slot : Nat) (code : Nat), s.rst.busy = false ∧ a < 2 ∧ slot < 200 ∧ code < 65536 ∧ rd s ADC_STATUS_RUN = 1 ∧ ainRuns s a slot = true ∧ ainOfSlot a slot = some 0) ∧
    (∃ (s : State), s.rst.busy = false ∧ s.adc.avgWait = true ∧ s.rst.d2dHubLost = false) ∧
    (∃ (s : State) (a : Nat) (j : Nat) (ns : Nat), s.rst.busy = false ∧ a < 2 ∧ j < 4 ∧ ns < 2 ^ 64 ∧ tget (fun _ => none) s.adc.scan a = some ⟨[(4 * a + j, ns)]⟩) ∧
    (∃ (offset : Int) (gain : Nat), gain < 65536 ∧ offset.natAbs ≤ 64 ∧ 995 * 32768 ≤ 1000 * gain ∧ 1000 * gain ≤ 1005 * 32768) ∧
    (∃ (offset : Int) (gain : Nat), 1005 * 32768 < 1000 * gain) ∧
    (∃ (s : State) (a : Nat) (slot : Nat), rd s ADC_STATUS_RUN = 1 ∧ ainRuns s a slot = false ∧ brnOfSlot slot = none ∧ 50 ≤ slot ∧ slot < 58) ∧
    (∃ (s : State) (a : Nat) (slot : Nat), s.rst.busy = false ∧ a < 2 ∧ slot < 200 ∧ rd s ADC_STATUS_RUN = 0) ∧
    (∃ (s : State) (a : Nat) (slot : Nat), ainRuns s a slot = false ∧ (brnOfSlot slot).isSome = true) :=
  ⟨⟨st [(ADC_CTRL_RATE, 1), (ADC_STATUS_RUN, 1)], 0, 9, 65535, by decide⟩,
    ⟨{ State.reset with adc := { avgWait := true } }, by decide⟩,
    ⟨{ State.reset with adc := { scan := [(1, some ⟨[(7, 5)]⟩)] } }, 1, 3, 5, by decide⟩,
    ⟨-64, 32931, by decide⟩,
    ⟨0, 32932, by decide⟩,
    ⟨st [(ADC_STATUS_RUN, 1)], 1, 50, by decide⟩,
    ⟨State.reset, 1, 199, by decide⟩,
    ⟨st [(ADC_STATUS_RUN, 1)], 0, 0, by decide⟩⟩

theorem witness_ConversionsAveragesAndScans_2 :
    (∃ (s : State) (a : Nat) (slot : Nat), ainRuns s a slot = false ∧ brnOfSlot slot = none ∧ 58 ≤ slot) :=
  ⟨st [(ADC_STATUS_RUN, 1)], 0, 199, by decide⟩

theorem witness_BranchRunsAndTrips :
    (∃ (s : State) (n : Nat), n < 16 ∧ rd s (BRN_STAT_STATE n) = 1 ∧ rd s (BRN_STAT_BUS_OK n) = 1) ∧
    (∃ (s : State) (n : Nat), n < 16 ∧ rd s (BRN_STAT_STATE n) = 2 ∧ s.rst.hold = false ∧ rd s (BRN_STAT_E n) = 0) ∧
    (∃ (s : State) (n : Nat), n < 16 ∧ rd s (BRN_STAT_STATE n) = 3 ∧ rd s (BRN_STAT_PG n) = 1 ∧ (s.brn n).cfg.prot = false ∧ rd s (BRN_STAT_E n) ≠ 0 ∧ rd s (BRN_STAT_RCNT n) < (s.brn n).cfg.retries) ∧
    (∃ (s : State) (n : Nat), n < 16 ∧ s.rst.hold = false ∧ (((s.brn n).cfg.tOt * 65536 : Nat) : Int) ≤ tjNext (s.brn n) (flag s (BRN_STAT_LIMIT n)) 0 0 0 0 ∧ rd s (BRN_STAT_STATE n) = 3 ∧ (s.brn n).cfg.prot = true ∧ ¬ rd s (BRN_STAT_RCNT n) < (s.brn n).cfg.retries) ∧
    (∃ (s : State) (n : Nat) (ev : Fld) (tj : Int), n < 16 ∧ ev = BRN_EVT_TRIP_FAST n ∧ rd s (BRN_STAT_STATE n) = 3 ∧ (s.brn n).cfg.prot = true ∧ tj = tjNext (s.brn n) (flag s (BRN_STAT_LIMIT n)) 0 0 0 0) :=
  ⟨⟨st [(BRN_STAT_STATE 15, 1), (BRN_STAT_BUS_OK 15, 1)], 15, by decide⟩,
    ⟨st [(BRN_STAT_STATE 15, 2)], 15, by decide⟩,
    ⟨{ st [(BRN_STAT_STATE 15, 3), (BRN_STAT_E 15, 1), (BRN_STAT_PG 15, 1)] with brns := [(15, { cfg := { retries := 1 } })] }, 15, by decide⟩,
    ⟨{ st [(BRN_STAT_STATE 0, 3), (BRN_STAT_E 0, 1)] with brns := [(0, { cfg := { prot := true } })] }, 0, by decide⟩,
    ⟨{ st [(BRN_STAT_STATE 0, 3)] with brns := [(0, { cfg := { prot := true, tOt := 1 } })] }, 0, BRN_EVT_TRIP_FAST 0, tjNext { cfg := { prot := true, tOt := 1 } } false 0 0 0 0, by decide⟩⟩

theorem witness_BranchEndsByDischarge :
    (∃ (s : State) (n : Nat), n < 16 ∧ rd s (BRN_STAT_STATE n) = 4) ∧
    (∃ (s : State) (n : Nat), n < 16 ∧ rd s (BRN_STAT_STATE n) = 5 ∧ rd s (BRN_STAT_E n) = 1 ∧ rd s (BRN_STAT_PENDING_ON n) = 1) ∧
    (∃ (s : State) (n : Nat), n < 16 ∧ rd s (BRN_STAT_STATE n) = 5 ∧ rd s (BRN_STAT_E n) = 0) ∧
    (∃ (s : State) (n : Nat), n < 16 ∧ rd s (BRN_STAT_STATE n) = 0 ∧ (s.brn n).reon = true ∧ rd s (BRN_STAT_E n) = 1 ∧ rd s (BRN_STAT_REARM n) = 0 ∧ rd s (BRN_STAT_CP_OK n) = 1) ∧
    (∃ (s : State) (n : Nat), n < 16 ∧ rd s (BRN_STAT_STATE n) = 6 ∧ (s.brn n).cfg.prot = true ∧ (s.brn n).tj < (s.brn n).cfg.tOt * 65536 - 20 * 65536) ∧
    (∃ (s : State) (n : Nat), n < 16 ∧ (rd s (BRN_STAT_STATE n) = 2 ∨ rd s (BRN_STAT_STATE n) = 3)) ∧
    (∃ (s : State) (n : Nat) (ok : Bool), n < 16 ∧ rd s (BRN_STAT_STATE n) ≠ 2 ∧ rd s (BRN_STAT_STATE n) ≠ 3) :=
  ⟨⟨st [(BRN_STAT_STATE 15, 4)], 15, by decide⟩,
    ⟨st [(BRN_STAT_STATE 15, 5), (BRN_STAT_E 15, 1), (BRN_STAT_PENDING_ON 15, 1)], 15, by decide⟩,
    ⟨st [(BRN_STAT_STATE 0, 5)], 0, by decide⟩,
    ⟨{ st [(BRN_STAT_E 15, 1), (BRN_STAT_CP_OK 15, 1)] with brns := [(15, { reon := true })] }, 15, by decide⟩,
    ⟨{ st [(BRN_STAT_STATE 15, 6)] with brns := [(15, { cfg := { prot := true, tOt := 21 } })] }, 15, by decide⟩,
    ⟨st [(BRN_STAT_STATE 15, 3)], 15, by decide⟩,
    ⟨State.reset, 15, false, by decide⟩⟩

theorem witness_EnableDrivesTheBranch :
    (∃ (s : State) (n : Nat), n < 16 ∧ s.rst.busy = false ∧ s.rst.d2dBpdLost = false ∧ rd s (BRN_CFG_ESRC n) = 1 ∧ (s.brn n).frozen = none ∧ rd s (BRN_STAT_STATE n) = 0 ∧ rd s (BRN_STAT_E n) = 0 ∧ rd s (BRN_CFG_EN n) = 1 ∧ s.sys.brnOff = false ∧ (rd s SYS_STATE_STATE = 3 ∨ rd s SYS_STATE_STATE = 4) ∧ s.trd.p3 = true ∧ rd s (BRN_STAT_REARM n) = 0 ∧ rd s (BRN_STAT_CP_OK n) = 1 ∧ (s.brn n).reon = false) ∧
    (∃ (s : State) (n : Nat), n < 16 ∧ s.rst.busy = false ∧ rd s (BRN_CFG_ESRC n) = 1 ∧ (s.brn n).frozen = none ∧ rd s (BRN_STAT_STATE n) = 3 ∧ rd s (BRN_STAT_E n) = 1) ∧
    (∃ (s : State) (n : Nat), s.rst.busy = false ∧ rd s (BRN_CFG_ESRC n) = 0 ∧ (s.brn n).frozen = none ∧ (s.brn n).outBit = false ∧ rd s (BRN_STAT_E n) = 1 ∧ rd s (BRN_STAT_STATE n) = 1) ∧
    (∃ (s : State) (n : Nat), s.rst.busy = false ∧ rd s (BRN_CFG_ESRC n) = 0 ∧ (s.brn n).frozen = none ∧ (s.brn n).outBit = false ∧ rd s (BRN_STAT_E n) = 1 ∧ rd s (BRN_STAT_STATE n) = 5) ∧
    (∃ (s : State) (n : Nat), n < 16 ∧ s.rst.busy = false ∧ s.rst.d2dBpdLost = false ∧ rd s (BRN_STAT_STATE n) = 7) :=
  ⟨⟨{ st [(BRN_CFG_ESRC 15, 1), (BRN_CFG_EN 15, 1), (SYS_STATE_STATE, 3), (BRN_STAT_CP_OK 15, 1)] with trd := { p3 := true } }, 15, by decide⟩,
    ⟨st [(BRN_CFG_ESRC 15, 1), (BRN_STAT_STATE 15, 3), (BRN_STAT_E 15, 1)], 15, by decide⟩,
    ⟨st [(BRN_STAT_STATE 0, 1), (BRN_STAT_E 0, 1)], 0, by decide⟩,
    ⟨st [(BRN_STAT_STATE 0, 5), (BRN_STAT_E 0, 1)], 0, by decide⟩,
    ⟨st [(BRN_STAT_STATE 15, 7)], 15, by decide⟩⟩

theorem witness_MeasurementsOfABranch :
    (∃ (n : Nat) (vBus : Nat) (vOut : Nat), n < 16 ∧ vBus < 65536 ∧ vOut < 65536) ∧
    (∃ (s : State) (n : Nat), n < 16 ∧ (s.brn n).cfg.prot = true ∧ rd s (BRN_STAT_STATE n) = 3 ∧ tjNext (s.brn n) (flag s (BRN_STAT_LIMIT n)) 0 0 0 0 < (s.brn n).cfg.tOt * 65536) ∧
    (∃ (s : State) (n : Nat), n < 16 ∧ (s.brn n).cfg.prot = false) :=
  ⟨⟨15, 65535, 65535, by decide⟩,
    ⟨{ st [(BRN_STAT_STATE 15, 3)] with brns := [(15, { cfg := { prot := true, tOt := 1 } })] }, 15, by decide⟩,
    ⟨State.reset, 0, by decide⟩⟩

theorem witness_LinkAndPumpOfTheBranches :
    (∃ (s : State), s.rst.d2dHubLost = false ∧ 3 ≤ s.rst.d2dRetx) ∧
    (∃ (s : State), s.rst.d2dHubLost = false ∧ s.rst.d2dRetx < 3 ∧ s.rst.d2dBpdLost = false ∧ 3 ≤ s.rst.d2dRetxBpd) ∧
    (∃ (s : State), s.rst.d2dHubLost = true) ∧
    (∃ (s : State), rd s (BRN_STAT_STATE 15) = 8 ∧ rd s (BRN_STAT_STATE 0) = 0 ∧ rd s (BRN_STAT_E 0) = 1 ∧ rd s (BRN_STAT_REARM 0) = 0 ∧ (s.brn 0).reon = false) ∧
    (∃ (s : State), s.rst.d2dHubLost = true ∧ s.rst.hold = false) ∧
    (∃ (s : State), s.rst.d2dBpdLost = true) ∧
    (∃ (s : State), s.rst.d2dBpdLost = false ∧ s.rst.d2dRetxBpd < 3) :=
  ⟨⟨{ State.reset with rst := { d2dRetx := 3 } }, by decide⟩,
    ⟨{ State.reset with rst := { d2dRetx := 2, d2dRetxBpd := 3 } }, by decide⟩,
    ⟨{ State.reset with rst := { d2dHubLost := true } }, by decide⟩,
    ⟨st [(BRN_STAT_STATE 15, 8), (BRN_STAT_E 0, 1)], by decide⟩,
    ⟨{ st [(BRN_STAT_STATE 15, 7)] with rst := { d2dHubLost := true }, brns := [(15, { heldTrip := true })] }, by decide⟩,
    ⟨{ State.reset with rst := { d2dBpdLost := true } }, by decide⟩,
    ⟨{ State.reset with rst := { d2dRetxBpd := 2 } }, by decide⟩⟩

theorem witness_AssayFeedsAndChecks :
    (∃ (s : State) (c : Nat), s.rst.busy = false ∧ c = rd s ASY_FW_CTX_CTX ∧ rd s (ASY_CTX_CFG_OWN c) = 1 ∧ rd s ASY_STATUS_FAILED ≠ 0xFFFF) ∧
    (∃ (s : State) (c : Nat), s.rst.busy = false ∧ c = rd s ASY_FW_CTX_CTX ∧ rd s (ASY_CTX_CFG_OWN c) = 1 ∧ rd s ASY_STATUS_FAILED = 0xFFFF) ∧
    (∃ (s : State) (c : Nat), s.rst.busy = false ∧ c < 64 ∧ rd s (ASY_CTX_CFG_OWN c) = 0 ∧ ctxBusy s c = false) ∧
    (∃ (s : State) (c : Nat), s.rst.busy = false ∧ c < 64 ∧ rd s (ASY_CTX_CFG_OWN c) = 0 ∧ ctxBusy s c = true) ∧
    (asyDamaged State.reset 63 = false) ∧
    (∃ (s : State) (u : Nat), s.rst.busy = false ∧ u < 16 ∧ rd s ASY_CTRL_SC_EN = 1 ∧ s.asyRetry = true ∧ u = s.asyNext) ∧
    (∃ (s : State) (u : Nat), s.rst.busy = false ∧ rd s ASY_CTRL_SC_EN = 1 ∧ s.asyRetry = false ∧ (∃ k < 16, u = (s.asyNext + k) % 16 ∧ rdBit s ASY_STATUS_FAILED u = false ∧ ∀ j < k, rdBit s ASY_STATUS_FAILED ((s.asyNext + j) % 16) = true)) :=
  ⟨⟨st [(ASY_FW_CTX_CTX, 63), (ASY_CTX_CFG_OWN 63, 1)], 63, by decide⟩,
    ⟨st [(ASY_CTX_CFG_OWN 0, 1), (ASY_STATUS_FAILED, 0xFFFF)], 0, by decide⟩,
    ⟨State.reset, 63, by decide⟩,
    ⟨st [(CHN_STAT_STATE 47, 2), (CHN_CFG_QUSE 47, 1), (CHN_CFG_QCTX 47, 63)], 63, by decide⟩,
    by decide,
    ⟨{ st [(ASY_CTRL_SC_EN, 1)] with asyRetry := true, asyNext := 15 }, 15, by decide⟩,
    ⟨{ st [(ASY_CTRL_SC_EN, 1), (ASY_STATUS_FAILED, 0x8000)] with asyNext := 15 }, 0, by decide⟩⟩

theorem witness_FailedUnitLeavesService :
    (∃ (s : State) (u : Nat), s.rst.busy = false ∧ u < 16 ∧ rd s ASY_CTRL_SC_EN = 1 ∧ s.asyRetry = false ∧ (∃ k < 16, u = (s.asyNext + k) % 16 ∧ rdBit s ASY_STATUS_FAILED u = false ∧ ∀ j < k, rdBit s ASY_STATUS_FAILED ((s.asyNext + j) % 16) = true)) ∧
    (∃ (s : State) (u : Nat), s.rst.busy = false ∧ u < 16 ∧ rd s ASY_CTRL_SC_EN = 1 ∧ s.asyRetry = true ∧ u = s.asyNext ∧ rdBit s ASY_STATUS_FAILED u = false) ∧
    (∃ (s : State) (u : Nat) (x : State), s.rst.busy = false ∧ u < 16 ∧ rdBit x ASY_STATUS_FAILED 15 = rdBit s ASY_STATUS_FAILED 15) :=
  ⟨⟨{ st [(ASY_CTRL_SC_EN, 1), (ASY_STATUS_FAILED, 0x8000)] with asyNext := 15 }, 0, by decide⟩,
    ⟨{ st [(ASY_CTRL_SC_EN, 1)] with asyRetry := true, asyNext := 15 }, 15, by decide⟩,
    ⟨State.reset, 15, State.reset, by decide⟩⟩

theorem witness_ManagementRequestsAreServed :
    (∃ (s : State) (tmo : Nat) (d : Nat) (flags : Nat) (addr : Nat) (count : Nat), s.rst.busy = false ∧ d = (0 + 1000 * tmo) % 2 ^ 32 ∧ s.sys.loaded = true ∧ rd s SYS_STATE_STATE ≠ stResting ∧ rd s SYS_STATE_STATE ≠ stDump ∧ flags % 2 = 0 ∧ 1 ≤ count ∧ count ≤ 256 ∧ addr % 4 = 0 ∧ tmo ≠ 0 ∧ 0 ≤ modDiff 32 d (ftNs s) ∧ (∀ k < count, waitsP4 s ((addr + 4 * k) % 2 ^ 32) = false ∧ waitsNor s ((addr + 4 * k) % 2 ^ 32) = false) ∧ (readRun s 2 addr count []).s.rst.busy = false ∧ (writeRun s 2 addr ((List.range count).map fun k => [7].getD k 0)).s.rst.busy = false ∧ (rmwRun s 2 addr 1 1).s.rst.busy = false) ∧
    (∃ (s : State) (flags : Nat), s.rst.busy = false ∧ rd s SYS_STATE_STATE = stResting ∧ flags / 2 % 2 = 0) ∧
    (∃ (s : State) (addr : Nat) (count : Nat), s.rst.busy = false ∧ rd s SYS_STATE_STATE ≠ stResting ∧ rd s SYS_STATE_STATE ≠ stDump ∧ 256 < count ∧ addr % 4 ≠ 0) ∧
    (∃ (s : State) (origT : Nat) (tmo : Nat) (d : Nat), s.rst.busy = false ∧ d = (origT + 1000 * tmo) % 2 ^ 32 ∧ modDiff 32 d (ftNs s) < 0) ∧
    (∃ (s : State) (addr : Nat), s.rst.busy = false ∧ s.sys.loaded = false ∧ rd s SYS_STATE_STATE ≠ stSafe ∧ (∃ k < 1, earlyWord ((addr + 4 * k) % 2 ^ 32) = false)) ∧
    (∃ (s : State) (r : Req), r.quiet = false ∧ rd s (FRY_IN0_EN r.win) = 0) ∧
    (∃ (s : State) (r : Req), r.quiet = false ∧ rd s (FRY_IN0_EN r.win) = 1 ∧ r.op ≠ 1 ∧ rd s (FRY_IN0_WR_EN r.win) = 0) ∧
    (∃ (s : State) (r : Req), rd s (FRY_IN0_EN r.win) = 1 ∧ (r.op = 1 ∨ rd s (FRY_IN0_WR_EN r.win) = 1) ∧ rd s (FRY_IN0_KIND r.win) = 0 ∧ windowOk s r.win = false) :=
  ⟨⟨{ State.reset with sys := { loaded := true } }, 1, 1000, 0, 0x40000000, 1, by decide⟩,
    ⟨st [(SYS_STATE_STATE, stResting)], 1, by decide⟩,
    ⟨State.reset, 3, 257, by decide⟩,
    ⟨State.reset, 2 ^ 32 - 1000001, 1, 2 ^ 32 - 999001, by decide⟩,
    ⟨State.reset, 0x40010000, by decide⟩,
    ⟨State.reset, aReq, by decide⟩,
    ⟨st [(FRY_IN0_EN 15, 1)], aReq, by decide⟩,
    ⟨st [(FRY_IN0_EN 15, 1), (FRY_IN0_WR_EN 15, 1)], aReq, by decide⟩⟩

theorem witness_ManagementRequestsAreServed_2 :
    (∃ (s : State) (r : Req), rd s (FRY_IN0_EN r.win) = 1 ∧ (r.op = 1 ∨ rd s (FRY_IN0_WR_EN r.win) = 1) ∧ windowOk s r.win = true) ∧
    (∃ (s : State) (tmo : Nat) (d : Nat), d = (0 + 1000 * tmo) % 2 ^ 32 ∧ s.rst.busy = false ∧ s.sys.loaded = true ∧ rd s SYS_STATE_STATE ≠ stResting ∧ rd s SYS_STATE_STATE ≠ stDump ∧ 0 ≤ modDiff 32 d (ftNs s)) :=
  ⟨⟨st [(FRY_IN0_EN 15, 1), (FRY_IN0_WR_EN 15, 1), (FRY_IN0_CH 15, 47), (CHN_STAT_STATE 47, 2), (CHN_CFG_MODE 47, 3)], aReq, by decide⟩,
    ⟨{ State.reset with sys := { loaded := true } }, 1, 1000, by decide⟩⟩

theorem witness_WaitingRequestsEnd :
    (∃ (s : State) (k : Nat) (r : Req), s.rst.busy = false ∧ k ∈ reqsWaiting s ∧ reqAt s k = some r ∧ r.quiet = false) ∧
    (∃ (s : State) (k : Nat), s.rst.busy = false ∧ k ∉ reqsWaiting s) ∧
    (∃ (s : State) (k : Nat) (r : Req), s.rst.busy = false ∧ rd s LP_CTRL_EN = 1 ∧ rd s SYS_STATE_STATE ≠ stResting ∧ s.fry.mreq = false ∧ s.fry.lpAsk = some k ∧ reqAt s k = some r ∧ 0 ≤ untilDeadline s r.deadline ∧ (retryMarginNs s ≤ untilDeadline s r.deadline ∨ ftNs s ≤ r.since)) ∧
    (∃ (s : State) (k : Nat), s.rst.busy = false ∧ rd s LP_CTRL_EN = 1 ∧ lpFirst s = some k ∧ s.fry.mreq = false ∧ s.fry.lpBusy = false ∧ s.fry.lpAsk = none ∧ s.fry.lpHeld = none) ∧
    (∃ (s : State) (tag : Nat) (k : Nat) (r : Req) (d : Nat), s.rst.busy = false ∧ rd s LP_CTRL_EN = 1 ∧ s.fry.lpHeld = some k ∧ reqAt s k = some r ∧ rd s SYS_STATE_STATE ≠ stResting ∧ d = s.fry.heldAt + 1000 * (if rd s LP_CTRL_SVC_TMO = 0 then 100 else rd s LP_CTRL_SVC_TMO) ∧ ftNs s ≤ d ∧ tag ≠ r.tag) ∧
    (∃ (s : State), (reqAt s 7).map (·.quiet) = some true) ∧
    (∃ (s : State), s.rst.busy = false ∧ rd s LP_CTRL_EN = 1 ∧ rd s SYS_STATE_STATE = stResting) ∧
    (∃ (s : State) (k : Nat) (r : Req), s.rst.busy = false ∧ rd s LP_CTRL_EN = 1 ∧ rd s SYS_STATE_STATE ≠ stResting ∧ s.fry.lpAsk = some k ∧ reqAt s k = some r ∧ untilDeadline s r.deadline < 0) :=
  ⟨⟨{ State.reset with fry := { reqs := [(7, some aReq)], nextReq := 8 } }, 7, aReq, by decide⟩,
    ⟨State.reset, 0, by decide⟩,
    ⟨{ st [(LP_CTRL_EN, 1)] with fry := { reqs := [(7, some { aReq with deadline := 2000000 })], lpAsk := some 7 } }, 7, { aReq with deadline := 2000000 }, by decide⟩,
    ⟨{ st [(LP_CTRL_EN, 1), (FRY_IN0_KIND 15, 1)] with fry := { reqs := [(7, some aReq)] } }, 7, by decide⟩,
    ⟨{ st [(LP_CTRL_EN, 1)] with fry := { reqs := [(7, some aReq)], lpHeld := some 7 } }, 5, 7, aReq, 100000, by decide⟩,
    ⟨{ State.reset with fry := { reqs := [(7, some { aReq with quiet := true })] } }, by decide⟩,
    ⟨st [(LP_CTRL_EN, 1), (SYS_STATE_STATE, stResting)], by decide⟩,
    ⟨{ st [(LP_CTRL_EN, 1)] with fry := { reqs := [(7, some { aReq with deadline := 2 ^ 32 - 5 })], lpAsk := some 7 } }, 7, { aReq with deadline := 2 ^ 32 - 5 }, by decide⟩⟩

theorem witness_WaitingRequestsEnd_2 :
    (∃ (s : State) (k : Nat) (r : Req), s.rst.busy = false ∧ rd s LP_CTRL_EN = 1 ∧ rd s SYS_STATE_STATE ≠ stResting ∧ s.fry.lpAsk = some k ∧ reqAt s k = some r ∧ 0 ≤ untilDeadline s r.deadline ∧ untilDeadline s r.deadline < retryMarginNs s ∧ r.since < ftNs s) ∧
    (∃ (s : State) (k : Nat), s.rst.busy = false ∧ rd s LP_CTRL_EN = 1 ∧ s.fry.lpHeld = some k ∧ rd s SYS_STATE_STATE ≠ stResting ∧ s.fry.heldAt + 1000 * (if rd s LP_CTRL_SVC_TMO = 0 then 100 else rd s LP_CTRL_SVC_TMO) < ftNs s) ∧
    (∃ (s : State), s.rst.busy = false ∧ rd s LP_CTRL_EN = 1 ∧ rd s SYS_STATE_STATE ≠ stResting ∧ s.fry.lpHeld = none ∧ s.fry.lpAsk = none) ∧
    (∃ (s : State), s.fry.mreq = false ∧ s.fry.lpAsk ≠ none) :=
  ⟨⟨{ st [(LP_CTRL_EN, 1)] with fry := { reqs := [(7, some { aReq with deadline := 60 })], lpAsk := some 7 }, clk := { ft := 50 * 2 ^ 48 } }, 7, { aReq with deadline := 60 }, by decide⟩,
    ⟨{ st [(LP_CTRL_EN, 1)] with fry := { reqs := [(7, some aReq)], lpHeld := some 7 }, clk := { ft := 100001 * 2 ^ 48 } }, 7, by decide⟩,
    ⟨st [(LP_CTRL_EN, 1)], by decide⟩,
    ⟨{ State.reset with fry := { reqs := [(7, some aReq)], lpAsk := some 7 } }, by decide⟩⟩

theorem witness_OutboundAccessesEnd :
    (∃ (s : State) (ini : Nat) (a : Nat), s.rst.busy = false ∧ ini < 2 ∧ isOutbound (a % 2 ^ 32) = true ∧ a % 4 = 0 ∧ bits a 24 4 = 15 ∧ rd s (FRY_OUT0_EN 15) = 0) ∧
    (∃ (s : State) (ini : Nat) (a : Nat), s.rst.busy = false ∧ ini < 2 ∧ isOutbound (a % 2 ^ 32) = true ∧ a % 4 ≠ 0) ∧
    (∃ (s : State) (op : Nat), rd s (FRY_OUT0_EN 15) = 1 ∧ rd s (FRY_OUT0_HUB 15) = 4095 ∧ op ≠ 2) ∧
    (∃ (s : State) (a : Nat) (count : Nat) (op : Nat), rd s (FRY_OUT0_EN 15) = 1 ∧ bits a 24 4 = 15 ∧ a % 2 ^ 24 + 4 * count ≤ 2 ^ 24 ∧ rd s (FRY_OUT0_HUB 15) ≠ 0 ∧ rd s (FRY_OUT0_HUB 15) ≠ 4095 ∧ bufferWord (outDiscard s 1 op a count) 1 a = none ∧ (outDiscard s 1 op a count).fry.txns.length < 32 ∧ (outDiscard s 1 op a count).fry.waiting = []) ∧
    (∃ (s : State), 32 ≤ (outDiscard s 1 1 0x6FFFFFFC 1).fry.txns.length ∧ bufferWord (outDiscard s 1 1 0x6FFFFFFC 1) 1 0x6FFFFFFC = none) ∧
    (∃ (ini : Nat) (win : Nat) (off : Nat) (x : Nat), ini ≠ 3 ∧ win < 16 ∧ off < 2 ^ 24 ∧ x < 16 ∧ x ≠ 0) ∧
    (∃ (s : State) (tag : Nat) (hub : Nat), s.rst.busy = false ∧ tag < 2 ^ 16 ∧ hub < 2 ^ 12 ∧ (∀ x ∈ s.fry.txns, ¬ (x.tag = tag ∧ x.hub = hub ∧ x.op = 1))) ∧
    (∃ (s : State) (x : Txn), s.rst.busy = false ∧ s.fry.txns.find? (fun y => y.tag == 9 && y.hub == 5 && y.op == 1) = some x ∧ ftNs s ≤ x.expires ∧ x.pf = false ∧ s.fry.txns.find? (fun y => y.tag == x.tag) = some x) :=
  ⟨⟨State.reset, 1, 0x6FFFFFFC, by decide⟩,
    ⟨State.reset, 0, 0x60000001, by decide⟩,
    ⟨st [(FRY_OUT0_EN 15, 1), (FRY_OUT0_HUB 15, 4095)], 1, by decide⟩,
    ⟨st [(FRY_OUT0_EN 15, 1), (FRY_OUT0_HUB 15, 4094)], 0x6FFFFFFC, 1, 1, by decide⟩,
    ⟨{ st [(FRY_OUT0_EN 15, 1), (FRY_OUT0_HUB 15, 4094)] with fry := { txns := List.replicate 32 aTxn } }, by decide⟩,
    ⟨2, 15, 2 ^ 24 - 4, 15, by decide⟩,
    ⟨State.reset, 65535, 4095, by decide⟩,
    ⟨{ State.reset with fry := { txns := [aTxn] } }, aTxn, by decide⟩⟩

theorem witness_OutboundAccessesEnd_2 :
    (∃ (s : State) (x : Txn), s.fry.txns.find? (fun y => y.tag == 9 && y.hub == 5 && y.op == 1) = some x ∧ ftNs s ≤ x.expires ∧ x.pf = true ∧ codeOf 0 = 0) ∧
    (∃ (s : State) (x : Txn), s.rst.busy = false ∧ s.fry.waiting = x :: []) ∧
    (∃ (s : State) (p : Prefetch) (m : Nat), s.rst.busy = false ∧ tget (fun _ => none) s.fry.prefetch 0 = some p ∧ m = maskOf 16 (fun k => p.words.any (·.1 == k) && !bitOf p.used k) ∧ m ≠ 0 ∧ m < 2 ^ 16) ∧
    (State.reset.rst.busy = false ∧ tget (fun _ => none) State.reset.fry.prefetch 3 = none) ∧
    (∃ (s : State) (x : Txn), s.rst.busy = false ∧ s.fry.txns.find? (fun y => y.tag == 9 && y.hub == 5 && y.op == 1) = some x ∧ x.expires < ftNs s) ∧
    (∃ (s : State) (a : Nat) (count : Nat) (hub : Nat), rd s (FRY_OUT0_EN 15) = 1 ∧ hub = rd s (FRY_OUT0_HUB 15) ∧ 2 ^ 24 < a % 2 ^ 24 + 4 * count) :=
  ⟨⟨{ State.reset with fry := { txns := [{ aTxn with pf := true }] } }, { aTxn with pf := true }, by decide⟩,
    ⟨{ State.reset with fry := { waiting := [aTxn] } }, aTxn, by decide⟩,
    ⟨{ State.reset with fry := { prefetch := [(0, some ⟨0, 0, [(15, 1)], 0, 5⟩)] } }, ⟨0, 0, [(15, 1)], 0, 5⟩, 0x8000, by decide⟩,
    by decide,
    ⟨{ State.reset with fry := { txns := [aTxn] }, clk := { ft := 1001 * 2 ^ 48 } }, aTxn, by decide⟩,
    ⟨st [(FRY_OUT0_EN 15, 1), (FRY_OUT0_HUB 15, 5)], 0x6FFFFFFC, 2, 5, by decide⟩⟩

theorem witness_LocalPortIsServed :
    (∃ (s : State), s.rst.busy = false ∧ rd s LP_CTRL_EN = 1 ∧ rd s SYS_STATE_STATE ≠ stResting ∧ rd s LP_CTRL_ACC = 0) ∧
    (∃ (s : State), s.rst.busy = false ∧ rd s LP_CTRL_EN = 1 ∧ 2 ≤ rd s LP_CTRL_ACC ∧ rd s SYS_STATE_STATE = stDump) ∧
    (∃ (s : State) (a : Nat) (count : Nat), s.rst.busy = false ∧ rd s LP_CTRL_EN = 1 ∧ 2 ≤ rd s LP_CTRL_ACC ∧ rd s SYS_STATE_STATE ≠ stResting ∧ rd s SYS_STATE_STATE ≠ stDump ∧ a % 4 = 0 ∧ isOutbound (a % 2 ^ 32) = true ∧ 1 ≤ count ∧ count ≤ 256) ∧
    (∃ (s : State) (x : Nat), s.rst.busy = false ∧ rd s SYS_STATE_STATE ≠ stResting ∧ rd s SYS_STATE_STATE ≠ stDump ∧ isOutbound x = false ∧ (∀ k < 256, waitsP4 s ((x + 4 * k) % 2 ^ 32) = false ∧ waitsNor s ((x + 4 * k) % 2 ^ 32) = false) ∧ (readRun s 3 x 1 []).s.rst.busy = false ∧ (readRun s 3 x 1 []).s.fry.lpBusy = true ∧ (writeRun s 3 x [7]).s.rst.busy = false ∧ (writeRun s 3 x [7]).s.fry.lpBusy = true ∧ (rmwRun s 3 x 1 1).s.rst.busy = false ∧ (rmwRun s 3 x 1 1).s.fry.lpBusy = true) ∧
    (∃ (s : State), s.rst.busy = false ∧ rd s LP_CTRL_EN = 1 ∧ s.fry.rxq = [[1]]) ∧
    (∃ (s : State) (h : List Byte), s.rst.busy = false ∧ rd s LP_CTRL_EN = 1 ∧ rd s SYS_STATE_STATE ≠ stResting ∧ nativeType (mType h) = true ∧ mType h ≠ tReq ∧ s.fry.rxq = [] ∧ (insertFrame s 3 h [] (ftNs s)).1 = .refused) ∧
    (∃ (h : List Byte), nativeType (mType h) = false) ∧
    (∃ (s : State), s.rst.busy = false ∧ rd s LP_CTRL_EN = 1 ∧ rd s SYS_STATE_STATE = stResting) :=
  ⟨⟨st [(LP_CTRL_EN, 1)], by decide⟩,
    ⟨st [(LP_CTRL_EN, 1), (LP_CTRL_ACC, 2), (SYS_STATE_STATE, stDump)], by decide⟩,
    ⟨st [(LP_CTRL_EN, 1), (LP_CTRL_ACC, 2)], 0x6FFFFFFC, 256, by decide⟩,
    ⟨{ st [(LP_CTRL_EN, 1), (LP_CTRL_ACC, 2)] with fry := { lpBusy := true } }, 0x40000000, by decide +kernel⟩,
    ⟨{ st [(LP_CTRL_EN, 1)] with fry := { rxq := [[1]] } }, by decide⟩,
    ⟨st [(LP_CTRL_EN, 1)], hdr 0x60 5, by decide⟩,
    ⟨hdr 0x10 5, by decide⟩,
    ⟨st [(LP_CTRL_EN, 1), (SYS_STATE_STATE, stResting)], by decide⟩⟩

theorem witness_LocalPortIsServed_2 :
    (∃ (s : State) (a : Nat) (count : Nat), s.rst.busy = false ∧ rd s SYS_STATE_STATE ≠ stResting ∧ rd s SYS_STATE_STATE ≠ stDump ∧ 2 ≤ rd s LP_CTRL_ACC ∧ 256 < count ∧ a % 4 ≠ 0) ∧
    (∃ (s : State) (h : List Byte), s.rst.busy = false ∧ rd s LP_CTRL_EN = 1 ∧ mType h = tReq ∧ mGroup h = false ∧ s.sys.loaded = true ∧ mDst h = 0) ∧
    (∃ (s : State) (h : List Byte) (p : List Byte), s.rst.busy = false ∧ rd s LP_CTRL_EN = 1 ∧ mType h = tReq ∧ mGroup h = false ∧ s.sys.loaded = true ∧ mDst h = 4095 ∧ beNat (slice p 2 1) = 1) :=
  ⟨⟨st [(LP_CTRL_EN, 1), (LP_CTRL_ACC, 2)], 2, 257, by decide⟩,
    ⟨{ st [(LP_CTRL_EN, 1)] with sys := { loaded := true } }, hdr 0x30 0, by decide⟩,
    ⟨{ st [(LP_CTRL_EN, 1)] with sys := { loaded := true } }, hdr 0x30 4095, [0, 0, 1], by decide⟩⟩

theorem witness_RaisesAreNewOrRepeats :
    (∃ (s : State) (src : Nat), s.rst.busy = false ∧ sourceRow src ≠ none ∧ isRepeat s src = true) ∧
    (∃ (s : State) (src : Nat) (cause : Nat) (r : NewRaise), s.rst.busy = false ∧ sourceRow src ≠ none ∧ isRepeat s src = false ∧ cause < 2 ^ 32 ∧ r = ⟨src, cause, sevOf s src, effective s src⟩ ∧ r.src < 128 ∧ r.cfg ≤ 4 ∧ r.eff ≤ 4) ∧
    (∃ (s : State), rd s TNK_FIRST_VALID = 1) ∧
    (∃ (s : State) (r : NewRaise), rd s TNK_FIRST_VALID = 0 ∧ ffMin s ≤ r.eff ∧ r.src < 128 ∧ r.eff < 2 ∧ r.eff < fltThr s) ∧
    (∃ (s : State) (r : NewRaise), fltThr s ≤ r.eff ∧ s.tnk.driven = true ∧ r.eff = 3 ∧ rd s SYS_STATE_STATE = stRun) ∧
    (∃ (s : State) (r : NewRaise), r.eff = 2 ∧ (rd s SYS_STATE_STATE = stStart ∨ rd s SYS_STATE_STATE = stJoining)) ∧
    (∃ (s : State) (r : NewRaise), r.eff = 4 ∧ rd s SYS_STATE_STATE ≠ stDump ∧ s.sys.st05 = false) ∧
    (∃ (s : State) (r : NewRaise), r.eff = 4 ∧ rd s SYS_STATE_STATE ≠ stDump ∧ s.sys.st05 = true ∧ rd s TNK_CTRL_DUMP_EN = 1 ∧ dumpHalf s ≠ none) :=
  ⟨⟨st [(TNK_STAT_STAT 0, 2)], 1, by decide⟩,
    ⟨State.reset, 1, 2 ^ 32 - 1, ⟨1, 2 ^ 32 - 1, sevOf State.reset 1, effective State.reset 1⟩, by decide⟩,
    ⟨st [(TNK_FIRST_VALID, 1)], by decide⟩,
    ⟨State.reset, ⟨127, 0, 1, 1⟩, by decide⟩,
    ⟨{ st [(SYS_STATE_STATE, stRun)] with tnk := { driven := true } }, ⟨127, 0, 3, 3⟩, by decide⟩,
    ⟨State.reset, ⟨127, 0, 2, 2⟩, by decide⟩,
    ⟨State.reset, ⟨127, 0, 4, 4⟩, by decide⟩,
    ⟨{ st [(TNK_CTRL_DUMP_EN, 1), (TNK_DUMP_STAT_READY, 2)] with sys := { st05 := true } }, ⟨127, 0, 4, 4⟩, by decide⟩⟩

theorem witness_RaisesAreNewOrRepeats_2 :
    (∃ (rails : Nat), bitOf rails 5 = false) ∧
    (∃ (s : State) (r : NewRaise), r.eff = 3 ∧ rd s SYS_STATE_STATE ≠ stRun ∧ rd s SYS_STATE_STATE ≠ stDegraded ∧ rd s SYS_STATE_STATE ≠ stStart ∧ rd s SYS_STATE_STATE ≠ stJoining) ∧
    (∃ (s : State) (r : NewRaise), r.eff = 3 ∧ (rd s SYS_STATE_STATE = stStart ∨ rd s SYS_STATE_STATE = stJoining)) ∧
    (∃ (s : State) (r : NewRaise), r.eff = 2 ∧ rd s SYS_STATE_STATE = stRun) ∧
    (∃ (s : State) (r : NewRaise), r.eff = 4 ∧ rd s SYS_STATE_STATE = stDump) :=
  ⟨⟨0x1DF, by decide⟩,
    ⟨st [(SYS_STATE_STATE, stSafe)], ⟨127, 0, 3, 3⟩, by decide⟩,
    ⟨State.reset, ⟨127, 0, 3, 3⟩, by decide⟩,
    ⟨st [(SYS_STATE_STATE, stRun)], ⟨127, 0, 2, 2⟩, by decide⟩,
    ⟨st [(SYS_STATE_STATE, stDump)], ⟨127, 0, 4, 4⟩, by decide⟩⟩

theorem witness_FaultsAreAcknowledgedAndCleared :
    (∃ (s : State) (k : Nat) (src : Nat) (mask : Nat), s.rst.busy = false ∧ k < 4 ∧ src < 128 ∧ src / 32 = k ∧ bitOf mask (src % 32) = true ∧ stat s src = true ∧ present s src = false ∧ (raiseAll s [(1, 1)]).rst.busy = false) ∧
    (∃ (s : State) (k : Nat) (mask : Nat), s.rst.busy = false ∧ ((List.range 32).filter fun b => bitOf mask b && stat s (32 * k + b) && present s (32 * k + b)).length = 1) ∧
    (∃ (s : State) (k : Nat), s.rst.busy = false ∧ (raiseAll s [(120, 3)]).rst.busy = true) ∧
    (State.reset.rst.busy = false ∧ rd State.reset SYS_STATE_STATE ≠ stHalted) ∧
    (∃ (s : State), s.rst.busy = false ∧ rd s SYS_STATE_STATE = stHalted ∧ standing s 3 = false ∧ rd s TRD_TICK_NS_NS ≠ 0) ∧
    (∃ (s : State), s.rst.busy = false ∧ rd s SYS_STATE_STATE = stHalted ∧ standing s 3 = false ∧ rd s TRD_TICK_NS_NS = 0) ∧
    (∃ (s : State) (n : Int), s.tnk.resume = some n ∧ tickNow s < n) ∧
    (∃ (s : State) (n : Int), s.tnk.resume = some n ∧ n ≤ tickNow s ∧ rd s SYS_STATE_STATE = stHalted) :=
  ⟨⟨st [(TNK_STAT_STAT 3, 2 ^ 31)], 3, 127, 2 ^ 31, by decide +kernel⟩,
    ⟨{ st [(TNK_STAT_STAT 0, 2)] with rst := { d2dHubLost := true } }, 0, 2, by decide⟩,
    ⟨State.reset, 3, by decide⟩,
    by decide,
    ⟨st [(SYS_STATE_STATE, stHalted), (TRD_TICK_NS_NS, 1000)], by decide⟩,
    ⟨st [(SYS_STATE_STATE, stHalted)], by decide⟩,
    ⟨{ st [(TRD_TICK_NS_NS, 1000)] with tnk := { resume := some 5 } }, 5, by decide⟩,
    ⟨{ st [(TRD_TICK_NS_NS, 1000), (SYS_STATE_STATE, stHalted)] with tnk := { resume := some 0 } }, 0, by decide⟩⟩

theorem witness_FaultsAreAcknowledgedAndCleared_2 :
    (∃ (s : State) (n : Int), s.tnk.resume = some n ∧ n ≤ tickNow s ∧ rd s SYS_STATE_STATE ≠ stHalted) :=
  ⟨{ st [(TRD_TICK_NS_NS, 1000), (SYS_STATE_STATE, stSafe)] with tnk := { resume := some 0 } }, 0, by decide⟩

theorem witness_FltPairReturns :
    (∃ (s : State), s.tnk.driven = true) ∧
    (∃ (s : State) (d : Nat) (u : State), s.rst.busy = false ∧ (d = s.tnk.minwFrom + 1000000 * (if s.sys.loaded = false ∨ rd s TNK_CTRL_MINW = 0 then 20 else rd s TNK_CTRL_MINW)) ∧ rd s TNK_FLT_STATE = 1 ∧ d ≤ ftNs s ∧ u = wr s TNK_STATE_MINW_DONE 1 ∧ (raiseAll u []).rst.busy = false ∧ fltMayRelease u = true ∧ rd (raiseAll u []) TNK_STATE_MINW_DONE = 1) ∧
    (∃ (s : State) (d : Nat), s.rst.busy = false ∧ rd s TNK_FLT_STATE = 1 ∧ ¬ (rd s TNK_FLT_STATE = 1 ∧ d ≤ ftNs s) ∧ fltMayRelease s = false ∧ (raiseAll s []).rst.busy = false) ∧
    (∃ (s : State) (d : Nat), s.rst.busy = false ∧ rd s TNK_FLT_STATE = 1 ∧ s.tnk.st14 = true ∧ s.tnk.drvReset = true ∧ s.tnk.drivers = 0 ∧ d ≤ ftNs (advanceTo s d)) ∧
    (State.reset.rst.busy = false ∧ rd State.reset TNK_FLT_STATE = 0) :=
  ⟨⟨{ State.reset with tnk := { driven := true } }, by decide⟩,
    ⟨{ st [(TNK_FLT_STATE, 1)] with clk := { ft := 20000000 * 2 ^ 48 } }, 20000000, wrs { State.reset with clk := { ft := 20000000 * 2 ^ 48 } } [(TNK_FLT_STATE, 1), (TNK_STATE_MINW_DONE, 1)], by decide⟩,
    ⟨st [(TNK_FLT_STATE, 1)], 20000000, by decide⟩,
    ⟨{ st [(TNK_FLT_STATE, 1)] with clk := { ft := 20000000 * 2 ^ 48 }, tnk := { st14 := true, drvReset := true } }, 20000000, by decide⟩,
    by decide⟩

theorem witness_FltPinsAreReadBack :
    (∃ (s : State), s.rst.busy = false ∧ s.tnk.driven = true ∧ natOf true ≠ rd s TNK_FLT_STATE) ∧
    (∃ (s : State), natOf false = rd s TNK_FLT_STATE ∧ natOf true = 1 - rd s TNK_FLT_STATE) ∧
    (State.reset.tnk.driven = false) :=
  ⟨⟨{ State.reset with tnk := { driven := true } }, by decide⟩,
    ⟨{ State.reset with tnk := { driven := true } }, by decide⟩,
    by decide⟩

theorem witness_ImagesAreReceivedAndSealed :
    (∃ (kind : Nat) (c : Nat), (kind = 1 ∨ kind = 2 ∨ kind = 3) ∧ c < 16) ∧
    (∃ (s : State) (kind : Nat) (size : Nat), s.rst.busy = false ∧ (kind = 1 ∨ kind = 2 ∨ kind = 3) ∧ size < 256) ∧
    (∃ (s : State) (kind : Nat) (size : Nat) (fmt : Nat), s.rst.busy = false ∧ (kind = 1 ∨ kind = 2 ∨ kind = 3) ∧ 256 ≤ size ∧ size ≤ maxLength kind ∧ fmt < 2 ^ 16 ∧ sess s kind = ssIdle ∧ (kind = 3 ∨ trialArea s kind = none)) ∧
    (∃ (s : State) (kind : Nat) (size : Nat), 256 ≤ size ∧ size ≤ maxLength kind ∧ sess s kind = ssIdle ∧ trialArea s kind = none) ∧
    (∃ (s : State) (kind : Nat), kind ≠ 3 ∧ trialArea s kind ≠ none) ∧
    (∃ (s : State), s.rst.busy = false ∧ s.sys.pfwLow = true) ∧
    (blockResult State.reset 0 1 1 1 0 true = reBadField ∧ blockResult State.reset 0 3 0 1 0 true = reOrder) ∧
    (∃ (s : State), blockResult s 0 3 0 4 0 true = reCrc ∧ crc32c (stagedBytes s 3 4) ≠ 0) :=
  ⟨⟨3, 15, by decide⟩,
    ⟨State.reset, 1, 255, by decide⟩,
    ⟨State.reset, 3, 4096, 65535, by decide⟩,
    ⟨State.reset, 2, 256, by decide⟩,
    ⟨setMark State.reset kFw 1 mActive, 1, by decide⟩,
    ⟨{ State.reset with sys := { pfwLow := true } }, by decide⟩,
    by decide,
    ⟨{ st [(RSL_SESS_STATE 2, ssOpen)] with rsl := { size := [(3, 4)] } }, by decide⟩⟩

theorem witness_ImagesAreReceivedAndSealed_2 :
    (∃ (s : State), blockResult s 0 3 0 4 (crc32c (stagedBytes s 3 4)) true = reOk ∧ s.sys.pfwLow = false) ∧
    (∃ (s : State), blockResult s 0 1 0 4 (crc32c (stagedBytes s 1 4)) true = reBusy ∧ (∃ g < (rslSize s 1 + 511) / 512, g ∉ rslGran s 1) ∧ sess s 1 = ssOpen ∧ rd s (RSL_SESS_SESSION 0) = 0) ∧
    (∃ (s : State), (∀ g < (rslSize s 3 + 511) / 512, g ∈ rslGran s 3) ∧ sess s 3 = ssOpen) ∧
    (State.reset.rst.busy = false ∧ State.reset.sys.pfwLow = false ∧ sess State.reset 3 ≠ ssSealing ∧ State.reset.rsl.erasing.find? (·.1 == 1) = none) ∧
    (∃ (s : State), sess s 3 = ssSealing ∧ sealResult s 3 ≠ reOk) ∧
    (∃ (s : State), s.rsl.erasing.find? (·.1 == 2) = some (2, 1)) ∧
    (∃ (s : State) (c : Instr), s.rst.busy = false ∧ (rd s SYS_STATE_STATE = stResting ∨ rd s SYS_STATE_STATE = stDump) ∧ c = .rslSeal 5 1) ∧
    (State.reset.rst.busy = false ∧ rd State.reset SYS_STATE_STATE ≠ stResting ∧ rd State.reset SYS_STATE_STATE ≠ stDump ∧ State.reset.sys.loaded = false ∧ rd State.reset SYS_STATE_STATE ≠ stSafe) :=
  ⟨⟨{ st [(RSL_SESS_STATE 2, ssOpen)] with rsl := { size := [(3, 4)] } }, by decide⟩,
    ⟨{ st [(RSL_SESS_STATE 0, ssOpen)] with rsl := { size := [(1, 4)] } }, by decide⟩,
    ⟨{ st [(RSL_SESS_STATE 2, ssOpen)] with rsl := { size := [(3, 513)], gran := [(3, [0, 1])] } }, by decide⟩,
    by decide,
    ⟨st [(RSL_SESS_STATE 2, ssSealing)], by decide⟩,
    ⟨{ State.reset with rsl := { erasing := [(2, 1)] } }, by decide⟩,
    ⟨st [(SYS_STATE_STATE, stDump)], .rslSeal 5 1, by decide⟩,
    by decide⟩

theorem witness_ImagesAreReceivedAndSealed_3 :
    (∃ (s : State) (kind : Nat), s.rst.busy = false ∧ rd s SYS_STATE_STATE ≠ stResting ∧ rd s SYS_STATE_STATE ≠ stDump ∧ (s.sys.loaded = true ∨ rd s SYS_STATE_STATE = stSafe) ∧ (kind = 1 ∨ kind = 2 ∨ kind = 3)) ∧
    (∃ (s : State) (kind : Nat) (off : Nat) (g : Nat) (base : Nat), (kind = 1 ∨ kind = 2 ∨ kind = 3) ∧ off % 512 = 0 ∧ off / 512 ≤ g ∧ base = (if kind = 3 then keyBase else norBase + areaBase kind (destArea s kind))) :=
  ⟨⟨st [(SYS_STATE_STATE, stSafe)], 2, by decide⟩,
    ⟨State.reset, 3, 512, 1, keyBase, by decide⟩⟩

theorem witness_ImagesActivateAndAreConfirmed :
    (∃ (s : State) (kmask : Nat), s.rst.busy = false ∧ activateResult s 0 kmask 1 1 0 false = reBadField) ∧
    (∃ (s : State), s.rst.busy = false ∧ activateResult s 0 4 1 1 0 false = reOk) ∧
    (∃ (s : State), s.rst.busy = false ∧ s.sys.pfwLow = true) ∧
    (∃ (s : State) (kmask : Nat), s.rst.busy = false ∧ s.sys.pfwLow = false ∧ 0 < kmask ∧ kmask < 8 ∧ (∃ k ∈ kindsOf kmask, k = 3 ∨ trialArea s k = none)) ∧
    (∃ (s : State) (kmask : Nat), s.rst.busy = false ∧ s.sys.pfwLow = false ∧ 0 < kmask ∧ kmask < 8 ∧ (∀ k ∈ kindsOf kmask, k ≠ 3 ∧ trialArea s k ≠ none) ∧ trialArea s 1 = some 1 ∧ trialArea s 2 = some 0) ∧
    (State.reset.rst.busy = false ∧ schedResult State.reset 0 = reOrder) ∧
    (sess State.reset kFw ≠ ssArmed ∧ sess State.reset kLast ≠ ssArmed ∧ sess State.reset kKey ≠ ssArmed) ∧
    (∃ (s : State), s.rst.busy = false ∧ (sess s kFw = ssArmed ∨ sess s kLast = ssArmed) ∧ actReached s = true ∧ rd s TRD_STATUS_PHASE ≠ 4 ∧ s.rsl.full = true) :=
  ⟨⟨State.reset, 8, by decide⟩,
    ⟨{ st [(RSL_SESS_STATE 2, ssSealed), (TRD_TICK_NS_NS, 1000)] with mem := keyMem.mem, rsl := { size := [(3, 256)] } }, by decide⟩,
    ⟨{ State.reset with sys := { pfwLow := true } }, by decide⟩,
    ⟨State.reset, 7, by decide⟩,
    ⟨setMark (setMark State.reset kFw 1 mActive) kLast 0 mActive, 3, by decide⟩,
    by decide,
    by decide,
    ⟨{ st [(RSL_SESS_STATE 1, ssArmed)] with rsl := { full := true } }, by decide⟩⟩

theorem witness_ImagesActivateAndAreConfirmed_2 :
    (∃ (s : State), s.rst.busy = false ∧ sess s kKey = ssArmed ∧ actReached s = true ∧ keyAllowed s (rslImage s kKey) = false) ∧
    (∃ (s : State), s.rst.busy = false ∧ s.sys.pfwLow = false ∧ running s = true) ∧
    (running State.reset = false) ∧
    (∃ (s : State) (c : Instr), s.rst.busy = false ∧ (rd s SYS_STATE_STATE = stResting ∨ rd s SYS_STATE_STATE = stDump) ∧ c = .rslConfirm 1) ∧
    (∃ (s : State), s.rst.busy = false ∧ rd s SYS_STATE_STATE ≠ stResting ∧ rd s SYS_STATE_STATE ≠ stDump ∧ (s.sys.loaded = true ∨ rd s SYS_STATE_STATE = stSafe)) ∧
    (∃ (s : State), s.rst.busy = false ∧ (sess s kFw = ssArmed ∨ sess s kLast = ssArmed) ∧ actReached s = true ∧ s.rsl.full = false ∧ trdRuns s = false) ∧
    (∃ (s : State), s.rst.busy = false ∧ rd s TRD_STATUS_PHASE = 4 ∧ sess s kFw = ssArmed ∧ actReached s = true) :=
  ⟨⟨st [(RSL_SESS_STATE 2, ssArmed)], by decide⟩,
    ⟨st [(SYS_STATE_STATE, stRun)], by decide⟩,
    by decide,
    ⟨st [(SYS_STATE_STATE, stResting)], .rslConfirm 1, by decide⟩,
    ⟨{ State.reset with sys := { loaded := true } }, by decide⟩,
    ⟨st [(RSL_SESS_STATE 0, ssArmed)], by decide⟩,
    ⟨{ st [(RSL_SESS_STATE 0, ssArmed), (TRD_STATUS_PHASE, 4), (SYS_STATE_STATE, stRun), (TRD_CTRL_EN, 1)] with trd := { last := some 0 } }, by decide⟩⟩

theorem witness_ResetLeavesItsValues :
    (∃ (f : Fld), f.addr ≠ SYS_STATE_STATE.addr ∧ f.addr ≠ (TRD_SPW_W 7).addr ∧ (f.addr < 0x40040400 ∨ 0x40040600 ≤ f.addr)) ∧
    (∃ (f : Fld), f.addr ≠ SYS_STATE_STATE.addr ∧ f.addr ≠ (TRD_SPW_W 7).addr ∧ 0x40040600 ≤ f.addr) :=
  ⟨⟨SYS_STEP_STEP, by decide⟩,
    ⟨TNK_FIRST_SRC, by decide⟩⟩

theorem witness_PinsFollowTheState :
    (∃ (s : State) (n : Nat), (s.chn n).pins = []) ∧
    (∃ (s : State) (n : Nat), (s.chn n).pins ≠ [] ∧ chnMode s n = 1 ∧ modep s n 4 1 = 1 ∧ uartSends s n = true) ∧
    (∃ (s : State) (n : Nat), (s.chn n).pins ≠ [] ∧ chnMode s n = 1 ∧ modep s n 4 1 = 0 ∧ modep s n 5 1 = 1) ∧
    (∃ (s : State) (n : Nat) (k : Nat), (s.chn n).pins ≠ [] ∧ chnMode s n = 2 ∧ (s.chn n).cs = some k) ∧
    (∃ (s : State) (n : Nat), (s.chn n).pins ≠ [] ∧ chnMode s n = 2 ∧ (s.chn n).cs ≠ some 0) ∧
    (∃ (s : State) (n : Nat), (s.chn n).pins ≠ [] ∧ (s.chn n).xfer ≠ .none ∧ chnMode s n = 3) ∧
    (∃ (s : State) (n : Nat), (s.chn n).pins ≠ [] ∧ (s.chn n).xfer ≠ .none ∧ chnMode s n = 4) ∧
    (∃ (s : State), s.rst.busy = false ∧ s.sys.loaded = true) :=
  ⟨⟨State.reset, 47, by decide⟩,
    ⟨{ st [(CHN_CFG_MODE 47, 1), (CHN_MODEP_P 47, 16)] with chns := [(47, { pins := [.high], xfer := .frame [1], sent := 1 })] }, 47, by decide⟩,
    ⟨{ st [(CHN_CFG_MODE 47, 1), (CHN_MODEP_P 47, 32)] with chns := [(47, { pins := [.high] })] }, 47, by decide⟩,
    ⟨{ st [(CHN_CFG_MODE 0, 2)] with chns := [(0, { pins := [.low], cs := some 0 })] }, 0, 0, by decide⟩,
    ⟨{ st [(CHN_CFG_MODE 0, 2)] with chns := [(0, { pins := [.low] })] }, 0, by decide⟩,
    ⟨{ st [(CHN_CFG_MODE 0, 3)] with chns := [(0, { pins := [.released], xfer := .ferry 7 })] }, 0, by decide⟩,
    ⟨{ st [(CHN_CFG_MODE 0, 4)] with chns := [(0, { pins := [.high], xfer := .attempt [] })] }, 0, by decide⟩,
    ⟨{ State.reset with sys := { loaded := true } }, by decide⟩⟩

theorem witness_PinsFollowTheState_2 :
    (State.reset.sys.loaded = false) :=
  by decide

/-! ## Single steps -/

/-- The outcome is a next state with a property. -/
def nextIs (o : Host.Outcome State Fault Refusal) (p : State → Bool) : Bool :=
  match o with
  | .next t => p t
  | _ => false

/-- R151: an idle step is one CLK_CORE cycle (log entry 42). -/
theorem test_idle_step_counts_a_cycle : nextIs (step State.reset) (fun t => t.clk.cyc == 1 && t.pending.isEmpty) = true := by decide

theorem test_front_command_runs :
    nextIs (step { State.reset with pending := [.ctsChange 3 false, .p3Commit] })
      (fun t => !(t.chn 3).cts && t.pending == [.p3Commit]) = true := by decide

/-- Context 12 of the spec's worked example of a Modbus RTU drive (after R309). -/
def modbusS : State :=
  st [(ASY_CTX_CFG_WIDTH 12, 16), (ASY_CTX_CFG_REFIN 12, 1), (ASY_CTX_CFG_REFOUT 12, 1), (ASY_CTX_CFG_ORDER 12, 1),
    (ASY_CTX_POLY_VALUE 12, 0x8005), (ASY_CTX_INIT_VALUE 12, 0xFFFF)]

/-- The worked example: six byte feeds of the template leave VAL = 0x2150. -/
theorem test_modbus_val : asyBytes modbusS 12 0xFFFF [1, 3, 0, 0, 0, 1] = 0x2150 := by decide +kernel

/-- The worked example: the request goes out as 01 03 00 00 00 01 84 0A. -/
theorem test_modbus_request : (asyAppend modbusS 12 [1, 3, 0, 0, 0, 1]).1 = [1, 3, 0, 0, 0, 1, 0x84, 0x0A] := by decide +kernel

/-- The table "Trigger arming cases" (after R131): d as it is read. -/
theorem test_trigger_distances :
    (dist40 0x100 0xFFFFFFFF00 = 512 ∧ dist40 0x1000 0x1000 = 0) ∧
    (past40 0xF00 0x1000 = true ∧ past40 0x1000000000 0x9000000000 = false ∧ due40 0x100 0xFFFFFFFF00 = false) := by decide

/-- The worked example of escalation: group 11 is unacknowledged after source 91, so 93 is raised at DEGRADE, 80 as before. -/
theorem test_escalation :
    effective (st [(TNK_STAT_STAT 2, 2 ^ 27)]) 93 = 2 ∧ effective State.reset 93 = 1 ∧
    effective (st [(TNK_STAT_STAT 2, 2 ^ 27), (TNK_ACK_ACK 2, 2 ^ 27)]) 92 = 1 := by decide

/-- The worked example: ignored clears of sources 91 and 93 raise CLR_REJ by 2. -/
theorem test_clears_rejected :
    nextIs (exec (.tnkStatClear 2 0x28000000 []) (st [(TNK_STAT_STAT 2, 0x28000000), (BRN_STAT_STATE 3, 7), (BRN_STAT_STATE 5, 7)]))
      (fun t => rd t TNK_CNT_CLR_REJ == 2 && rd t (TNK_STAT_STAT 2) == 0x28000000) = true := by decide

theorem test_misaligned_write :
    nextIs (exec (.registerWrite 0 4 2 7 0) State.reset) (fun t => t.out == [.busRsp 0 2 0] && t.regs == State.reset.regs) = true := by decide

theorem test_pin_reset_cause :
    nextIs (exec (.sysRstN 10000) State.reset) (fun t => rd t SYS_RST_CAUSE_CAUSE == 1 && rd t SYS_STEP_STEP == 1) = true := by decide

theorem test_insertion_ends :
    nextIs (exec (.insertionTimer 15) (st [(BRN_STAT_STATE 15, 1), (BRN_STAT_BUS_OK 15, 1), (BRN_CNT_STARTS 15, 65535)]))
      (fun t => rd t (BRN_STAT_STATE 15) == 2 && rd t (BRN_CNT_STARTS 15) == 0) = true := by decide

theorem test_can_recover :
    nextIs (exec (.canRecover 15) (st [(CAN_STAT_STATE 15, 4)])) (fun t => rd t (CAN_STAT_STATE 15) == 5) = true := by decide

theorem test_rule_nop_takes_a_cycle :
    nextIs (exec (.ruleNop 3 0) trdS) (fun t => (laneAt t 3).pos == 1 && (laneAt t 3).used == 1) = true := by decide

theorem test_timed_set :
    nextIs (exec (.queueActionFire 0) { st [(DIO_CFG_MODE 0, 1), (SYS_STATE_STATE, stRun)] with lines := [(0, { queue := [⟨0, .set⟩] })] })
      (fun t => (t.line 0).drive == some true && (t.line 0).queue.isEmpty) = true := by decide

theorem test_push_takes_the_window :
    nextIs (exec (.chnTxpush 1 47 5) (st [(CHN_TXW_DATA 47 0, 0x04030201), (CHN_TXW_DATA 47 1, 0x08070605)]))
      (fun t => (t.chn 47).txq == [[1, 2, 3, 4, 5]]) = true := by decide

theorem test_capture_queues_the_edge :
    nextIs (exec (.captureEdge 0 31 false) (st [(BELL_CAP_CTRL_EDGE 31, 2)]))
      (fun t => (tget (fun _ => []) t.bell.caps 31).map (·.rise) == [false]) = true := by decide

theorem test_bypass_shifts_zero : nextIs (exec .jtagBypass State.reset) (fun t => t.out == [.jtag 0]) = true := by decide

end Sys2Proof.Tests
end

/-! SUPPORT. Obligation O5: resets of both domains, their release, and what a loss of VDD_AON adds. -/

namespace Sys2Proof.Machine

/-! ## Resets of both domains (R10, R20, R22, R421) -/

/-- The cells that a reset of both domains leaves are those of VDD_AON. -/
theorem cellAt_clearAll (s : State) (a : Nat) :
    cellAt (clearAll s) a = if domOf a = .aon then cellAt s a else cellReset a := by
  have h := tget_filter cellReset s.regs (fun k => domOf k == .aon) a
  simpa [cellAt, clearAll] using h

/-- The memory that a reset of both domains leaves is the flash. -/
theorem memGet_clearAll (s : State) (a : Nat) :
    memGet (clearAll s) a = if norBase ≤ a ∧ a < norBase + norSize then memGet s a else unlisted a := by
  have h := tget_filter unlisted s.mem (fun k => decide (norBase ≤ k) && decide (k < norBase + norSize)) a
  simpa [memGet, clearAll] using h

/-- A table that lists one value at the keys that pass a test. -/
theorem tget_filter_const {α : Type} (d : Nat → α) (l : List Nat) (p : Nat → Bool) (x : α) (k : Nat) :
    tget d ((l.filter p).map fun n => (n, x)) k = if k ∈ l ∧ p k = true then x else d k := by
  induction l with
  | nil => simp [tget]
  | cons n l ih =>
    by_cases hp : p n <;> by_cases e : n = k
    · subst e; simp [hp, tget]
    · simp [hp, tget, e, ih, Ne.symm e]
    · subst e; simp [hp, ih]
    · simp [hp, ih, Ne.symm e]

/-- A reset of both domains leaves a line the level of its pad alone. -/
theorem line_clearAll (s : State) (n : Nat) (hn : n < 96) : (clearAll s).line n = { pad := (s.line n).pad } := by
  have h := tget_filter_const (fun _ => ({} : Line)) (List.range 96) (fun n => (s.line n).pad) { pad := true } n
  have e : (clearAll s).line n = if n ∈ List.range 96 ∧ (s.line n).pad = true then { pad := true } else {} := h
  rw [e]
  cases hp : (s.line n).pad <;> simp [hn]

/-- A single cause is recorded as the decider, with no other (R27). -/
theorem decider_single : ∀ c < 8, decider (BitVec.ofNat 8 (2 ^ c)) = c ∧
    withBit (BitVec.ofNat 8 (2 ^ c)).toNat c false = 0 := by decide

/-- A shutdown that a reset overtakes changes the shutdown's own state and its hold of the hub domain alone (R353). -/
theorem shutLost_eq (s : State) (c : Nat) :
    ∃ y h, shutLost s c = { s with sys := y, rst := { s.rst with heldEnd := h } } ∧ y.loaded = s.sys.loaded := by
  unfold shutLost
  split
  · exact ⟨s.sys, s.rst.heldEnd, rfl, rfl⟩
  · exact ⟨_, _, rfl, rfl⟩

/-- Power-on reset, the pin's reset and the clock's turn nothing off beforehand; the Start Log keeps no first fault. -/
theorem beforeReset_both (s : State) {c : Nat} (hc : c = rPor ∨ c = rPin ∨ c = rClock) :
    beforeReset s c = { s with sys := { s.sys with first := 0, firstAlso := [] } } := by
  rcases hc with rfl | rfl | rfl <;> rfl

/-- A state that a reset has cleared, in reset, with one cause recorded and the hub in START. -/
def inReset (u : State) (full : Bool) (c : Nat) : State :=
  wr (recordCauses { u with rst := { u.rst with busy := true, full := full } } (BitVec.ofNat 8 (2 ^ c))) SYS_STATE_STATE stStart

/-- Power-on reset, the pin's reset or the clock's, ordered of a hub in no reset (R20, R22). -/
theorem orderReset_both {s : State} {c : Nat} (hb : s.rst.busy = false) (hc : c = rPor ∨ c = rPin ∨ c = rClock) :
    ∃ y h, orderReset s c = inReset (clearAll { s with sys := y, rst := { s.rst with heldEnd := h } }) true c := by
  obtain ⟨y, h, e, -⟩ := shutLost_eq s c
  have hr : ringCause c = true := by rcases hc with rfl | rfl | rfl <;> rfl
  have ha : alsoCauses s c = 0 := by rcases hc with rfl | rfl | rfl <;> rfl
  refine ⟨{ y with first := 0, firstAlso := [] }, h, ?_⟩
  simp [orderReset, e, hb, hr, ha, beforeReset_both _ hc, inReset]

section
variable (u : State) (full : Bool) {c : Nat}

/-- A cell that is none of the cause and the state is what clearing has left. -/
theorem cellAt_inReset (a : Nat) (ha : a ∉ [SYS_RST_CAUSE_CAUSE.addr, SYS_STATE_STATE.addr]) :
    cellAt (inReset u full c) a = cellAt u a := by
  simp only [List.mem_cons, List.not_mem_nil, or_false, not_or] at ha
  obtain ⟨h1, h2⟩ := ha
  have h3 : a ≠ SYS_RST_CAUSE_ALSO.addr := h1
  simp [inReset, recordCauses, cellAt_wr_ne, h1, h2, h3]

/-- The cause is recorded with no other, and the hub state reads START. -/
theorem causes_inReset (hc : c < 8) : rd (inReset u full c) SYS_RST_CAUSE_CAUSE = c ∧
    rd (inReset u full c) SYS_RST_CAUSE_ALSO = 0 ∧ rd (inReset u full c) SYS_STATE_STATE = stStart := by
  obtain ⟨hd, hw⟩ := decider_single c hc
  simp only [inReset, recordCauses, wrs_cons, wrs_nil, hd, hw]
  refine ⟨?_, ?_, rd_wr_self _ _ _ (by decide)⟩
  · rw [rd_wr_addr _ _ _ _ (by decide), rd_wr_bits _ _ _ _ (by decide) (by decide), rd_wr_self _ _ _ (by decide)]
    exact Nat.mod_eq_of_lt hc
  · rw [rd_wr_addr _ _ _ _ (by decide), rd_wr_self _ _ _ (by decide)]
    rfl

theorem partsBut_inReset : partsBut [.regs, .rst] u (inReset u full c) := by
  intro p hp
  cases p <;> simp [Part.same, inReset, recordCauses] at hp ⊢

end

/-- What a reset of both domains leaves while it holds. -/
theorem fullyReset_inReset (s : State) {c : Nat} (hc : c < 8) : fullyReset c s (inReset (clearAll s) true c) := by
  have hp := partsBut_inReset (clearAll s) true (c := c)
  exact {
    cause := causes_inReset _ true hc
    cells := fun a ha =>
      (cellAt_inReset _ true a fun h => ha (by simp only [List.mem_cons] at h ⊢; tauto)).trans (cellAt_clearAll s a)
    mem := fun a => (memGet_congr a (hp .mem (by decide))).trans (memGet_clearAll s a)
    kept := ⟨hp .otp (by decide), hp .act (by decide), hp .out (by decide), hp .pending (by decide), hp .fresh (by decide)⟩
    empty := ⟨hp .ports (by decide), hp .brns (by decide), hp .chns (by decide), hp .cans (by decide), hp .stg (by decide),
      hp .trn (by decide), hp .ldg (by decide), hp .xb (by decide), hp .drv (by decide), hp .bell (by decide),
      hp .rsl (by decide), congrArg Clk.ft (hp .clk (by decide))⟩
    lines := fun n hn => (State.line_congr n (hp .lines (by decide))).trans (line_clearAll s n hn) }

/-- The state of the release of a reset (R27, R421). -/
theorem releaseReset_busy {s : State} (h : s.rst.busy = true) : releaseReset s =
    wr { s with
      clk := { s.clk with cyc := 0 }
      rst := { s.rst with busy := false, fromFull := s.rst.full, full := false, heldEnd := false, causes := 0 }
      sys := { s.sys with shut := .none } } SYS_STEP_STEP 1 := by
  simp [releaseReset, h]

/-- What the release of a reset changes: the step, and the state of the reset, of the shutdown and of the cycle count. -/
theorem releaseReset_frame {s t : State} (hb : s.rst.busy = true) (ht : t = releaseReset s) :
    t.rst.busy = false ∧ t.rst.refFail = s.rst.refFail ∧ t.rst.fromFull = s.rst.full ∧ t.rst.full = false ∧ t.rst.causes = 0 ∧
    rd t SYS_STEP_STEP = 1 ∧ t.sys.shut = .none ∧ t.clk.cyc = 0 ∧ t.clk.ft = s.clk.ft ∧
    partsBut [.regs, .rst, .clk, .sys] s t ∧ cellsBut [SYS_STEP_STEP.addr] s t := by
  rw [releaseReset_busy hb] at ht
  subst ht
  refine ⟨rfl, rfl, rfl, rfl, rfl, rd_wr_self _ _ _ (by decide), rfl, rfl, rfl, fun p hp => ?_, fun a ha => ?_⟩
  · cases p <;> simp [Part.same] at hp ⊢
  · exact cellAt_wr_ne _ _ _ _ (by simpa using ha)

/-- What a reset of both domains leaves depends on the cells but the step's, and on the parts that no release changes. -/
theorem fullyReset_of_frame {s t u : State} {c : Nat} (h : fullyReset c s t) (hft : u.clk.ft = t.clk.ft)
    (hp : partsBut [.regs, .rst, .clk, .sys] t u) (hc : cellsBut [SYS_STEP_STEP.addr] t u) : fullyReset c s u where
  cause := by
    obtain ⟨h1, h2, h3⟩ := h.cause
    refine ⟨?_, ?_, ?_⟩
    · rw [rd, hc _ (by decide)]; exact h1
    · rw [rd, hc _ (by decide)]; exact h2
    · rw [rd, hc _ (by decide)]; exact h3
  cells a ha := (hc a fun x => ha (by simp only [List.mem_cons] at x ⊢; tauto)).trans (h.cells a ha)
  mem a := (memGet_congr a (hp .mem (by decide))).trans (h.mem a)
  kept := by
    obtain ⟨h1, h2, h3, h4, h5⟩ := h.kept
    exact ⟨(hp .otp (by decide)).trans h1, (hp .act (by decide)).trans h2, (hp .out (by decide)).trans h3,
      (hp .pending (by decide)).trans h4, (hp .fresh (by decide)).trans h5⟩
  empty := by
    obtain ⟨h1, h2, h3, h4, h5, h6, h7, h8, h9, h10, h11, h12⟩ := h.empty
    exact ⟨(hp .ports (by decide)).trans h1, (hp .brns (by decide)).trans h2, (hp .chns (by decide)).trans h3,
      (hp .cans (by decide)).trans h4, (hp .stg (by decide)).trans h5, (hp .trn (by decide)).trans h6,
      (hp .ldg (by decide)).trans h7, (hp .xb (by decide)).trans h8, (hp .drv (by decide)).trans h9,
      (hp .bell (by decide)).trans h10, (hp .rsl (by decide)).trans h11, hft.trans h12⟩
  lines n hn := (State.line_congr n (hp .lines (by decide))).trans (h.lines n hn)

/-- Power-on reset, the pin's reset or the clock's, ordered of a hub in no reset, holds it reset (R20, R22). -/
theorem fullyReset_orderReset {s : State} {c : Nat} (hb : s.rst.busy = false) (hc : c = rPor ∨ c = rPin ∨ c = rClock) :
    fullyReset c s (orderReset s c) ∧ (orderReset s c).rst.busy = true ∧ (orderReset s c).rst.full = true ∧
      (orderReset s c).rst.refFail = s.rst.refFail := by
  obtain ⟨y, h, e⟩ := orderReset_both hb hc
  have hf := fullyReset_inReset { s with sys := y, rst := { s.rst with heldEnd := h } } (c := c)
    (by rcases hc with rfl | rfl | rfl <;> decide)
  rw [e]
  exact ⟨⟨hf.cause, hf.cells, hf.mem, hf.kept, hf.empty, hf.lines⟩, rfl, rfl, rfl⟩

/-- The release of a power-on reset or of the pin's pulse, where REFCLK is good (log entry 43). -/
theorem releaseIfClock_orderReset {s : State} {c : Nat} (hb : s.rst.busy = false) (hf : s.rst.refFail = false)
    (hc : c = rPor ∨ c = rPin) : ∃ t, releaseIfClock (orderReset s c) = t ∧ fullyReset c s t ∧
      t.rst.busy = false ∧ t.rst.fromFull = true ∧ rd t SYS_STEP_STEP = 1 := by
  obtain ⟨hr, hb', hfull, href⟩ := fullyReset_orderReset (c := c) hb (by tauto)
  have e : releaseIfClock (orderReset s c) = releaseReset (orderReset s c) := by
    simp [releaseIfClock, href, hf]
  obtain ⟨h1, -, h3, -, -, h6, -, -, hft, hp, hcell⟩ := releaseReset_frame hb' rfl
  exact ⟨_, e, fullyReset_of_frame hr hft hp hcell, h1, h3.trans hfull, h6⟩

/-- A power-on reset after VDD_AON has been lost is released with VALID clear and no activation request (R379, R401). -/
theorem releaseIfClock_aonLost {s : State} (hb : s.rst.busy = false) (hf : s.rst.refFail = false) :
    ∃ t, releaseIfClock (aonFree (aonLoss (orderReset s rPor))) = t ∧ t.rst.busy = false ∧ rd t SYS_STEP_STEP = 1 ∧
      rd t SYS_VERDICT_VALID = 0 ∧ t.act = none := by
  obtain ⟨-, hb', -, href⟩ := fullyReset_orderReset (c := rPor) hb (.inl rfl)
  have hbusy : (aonFree (aonLoss (orderReset s rPor))).rst.busy = true := by simpa [aonFree, aonLoss] using hb'
  have e : releaseIfClock (aonFree (aonLoss (orderReset s rPor))) = releaseReset (aonFree (aonLoss (orderReset s rPor))) := by
    simp [releaseIfClock, aonFree, aonLoss, href, hf]
  obtain ⟨h1, -, -, -, -, h6, -, -, -, hp, hcell⟩ := releaseReset_frame hbusy rfl
  refine ⟨_, e, h1, h6, ?_, hp .act (by decide)⟩
  have hv : rd (aonFree (aonLoss (orderReset s rPor))) SYS_VERDICT_VALID = 0 := by
    simp only [aonFree, wrs_cons, wrs_nil]
    rw [rd_wr_bits _ _ _ _ (by decide) (by decide), rd_wr_bits _ _ _ _ (by decide) (by decide),
      rd_wr_bits _ _ _ _ (by decide) (by decide)]
    exact rd_wr_self _ _ _ (by decide)
  rw [rd, hcell _ (by decide)]
  exact hv

/-- SYS_STEP lies in the hub domain. -/
theorem domOf_step : domOf SYS_STEP_STEP.addr = .hub := by decide +kernel

/-- A failure of REFCLK holds both domains in reset, with no start step begun (R18). -/
theorem refclkFailure_holds {s : State} (hb : s.rst.busy = false) : ∃ t, execRefclkFailure s = .next t ∧
    fullyReset 6 s t ∧ t.rst.busy = true ∧ t.rst.full = true ∧ t.rst.refFail = true ∧ rd t SYS_STEP_STEP = 0 := by
  obtain ⟨hr, hb', hfull, -⟩ := fullyReset_orderReset (c := rClock) hb (.inr (.inr rfl))
  have hstep : rd (orderReset s rClock) SYS_STEP_STEP = 0 := by
    obtain ⟨y, h, e⟩ := orderReset_both (c := rClock) hb (.inr (.inr rfl))
    rw [e, rd, cellAt_inReset _ _ _ (by decide), cellAt_clearAll, domOf_step, if_neg (by decide)]
    decide
  refine ⟨_, rfl, fullyReset_of_frame hr rfl (fun p hp => ?_) (fun a _ => ?_), hb', hfull, rfl, hstep⟩
  · cases p <;> simp [Part.same] at hp ⊢
  · simp

/-- Cycles that pass write the clock alone. -/
theorem partsBut_advance (s : State) (n : Nat) : partsBut [.clk] s (advance s n) := by
  intro p hp
  cases p <;> simp [Part.same] at hp ⊢

/-- REFCLK is back: the hub starts from ST01 (R18). -/
theorem refclkRecovery_releases {s : State} (hb : s.rst.busy = true) (hf : s.rst.refFail = true) :
    ∃ t, execRefclkRecovery s = .next t ∧ t.rst.busy = false ∧ t.rst.refFail = false ∧
      t.rst.fromFull = s.rst.full ∧ t.rst.full = false ∧ t.rst.causes = 0 ∧ rd t SYS_STEP_STEP = 1 ∧ t.sys.shut = .none ∧
      t.clk.cyc = 0 ∧ t.clk.ft = s.clk.ft ∧ partsBut [.regs, .rst, .clk, .sys] s t ∧ cellsBut [SYS_STEP_STEP.addr] s t := by
  obtain ⟨t, ht⟩ : ∃ t, t = releaseReset { s with rst := { s.rst with refFail := false } } := ⟨_, rfl⟩
  obtain ⟨h1, h2, h3, h4, h5, h6, h7, h8, h9, h10, h11⟩ := releaseReset_frame
    (s := { s with rst := { s.rst with refFail := false } }) hb ht
  refine ⟨t, by rw [execRefclkRecovery, if_pos hf, ht], h1, h2, h3, h4, h5, h6, h7, h8, h9, fun p hp => ?_, h11⟩
  have := h10 p hp
  cases p <;> simp [Part.same] at hp this ⊢ <;> exact this

/-- The 10 µs of a reset are over, where no shutdown holds the hub (R27, R421): while a full reset holds it, Fabric Time
stands. -/
theorem hubDomainRelease_releases {s : State} (hb : s.rst.busy = true) (hf : s.rst.refFail = false)
    (he : s.rst.heldEnd = false) (hl : s.sys.shut ≠ .lbist) (hr : s.sys.shut ≠ .record) :
    ∃ t, execHubDomainRelease s = .next t ∧ t.rst.busy = false ∧ t.rst.refFail = false ∧
      t.rst.fromFull = s.rst.full ∧ t.rst.full = false ∧ t.rst.causes = 0 ∧ rd t SYS_STEP_STEP = 1 ∧ t.sys.shut = .none ∧
      t.clk.cyc = 0 ∧ t.clk.ft = (if s.rst.full = true then s.clk.ft else (advance s (6250 - s.clk.cyc)).clk.ft) ∧
      partsBut [.regs, .rst, .clk, .sys] s t ∧ cellsBut [SYS_STEP_STEP.addr] s t := by
  have e : execHubDomainRelease s = .next (releaseReset (advance s (6250 - s.clk.cyc))) := by
    simp [execHubDomainRelease, shutHolds, hb, hf, he, hl, hr]
  obtain ⟨h1, h2, h3, h4, h5, h6, h7, h8, h9, h10, h11⟩ := releaseReset_frame
    (s := advance s (6250 - s.clk.cyc)) (by simpa using hb) rfl
  refine ⟨_, e, h1, by simpa [hf] using h2, by simpa using h3, h4, h5, h6, h7, h8, ?_,
    partsBut_trans (partsBut_mono (partsBut_advance s _) (by decide)) h10, fun a ha => by simpa using h11 a ha⟩
  rw [h9]
  by_cases hfull : s.rst.full = true <;> simp [advance, hb, hfull]

/-- Settles O5: each command is its reset (`fullyReset_orderReset`) and, where it ends released, the release
(`releaseReset_frame`). -/
theorem fullResetsAndTheirRelease : Obligations.FullResetsAndTheirRelease := by
  unfold Obligations.FullResetsAndTheirRelease
  intro s
  refine ⟨fun hb hf => ⟨?_, ?_, fun ns hns => ?_⟩, refclkFailure_holds, fun ns hns => ?_, refclkRecovery_releases,
    hubDomainRelease_releases⟩
  · obtain ⟨t, e, h⟩ := releaseIfClock_orderReset hb hf (.inl rfl)
    refine ⟨t, ?_, h⟩
    change execPowerOnReset false s = _
    simp only [execPowerOnReset, Bool.false_eq_true, if_false, e]
  · obtain ⟨t, e, h⟩ := releaseIfClock_aonLost hb hf
    refine ⟨t, ?_, h⟩
    change execPowerOnReset true s = _
    simp only [execPowerOnReset, if_true, e]
  · obtain ⟨t, e, h⟩ := releaseIfClock_orderReset hb hf (.inr rfl)
    refine ⟨t, ?_, h⟩
    change execSysRstN ns s = _
    simp only [execSysRstN, if_pos hns, e]
  · change execSysRstN ns s = _
    simp only [execSysRstN, if_neg (show ¬10000 ≤ ns by omega)]
    rfl

end Sys2Proof.Machine

/-! SUPPORT. Obligation O6: the core watchdog, and what a reset of the hub domain without a hold clears and leaves. -/

namespace Sys2Proof.Machine

/-! ## Frames of steps over a group -/

theorem partsBut_each (l : List Part) (ks : List Nat) (f : State → Nat → State) (s : State)
    (h : ∀ u k, partsBut l u (f u k)) : partsBut l s (each ks f s) := by
  unfold each
  induction ks generalizing s with
  | nil => exact partsBut_refl l s
  | cons k ks ih => exact partsBut_trans (h s k) (ih (f s k))

theorem partsBut_wrs (s : State) (l : List (Fld × Nat)) : partsBut [.regs] s (wrs s l) := by
  intro p hp
  cases p <;> simp [Part.same] at hp ⊢

theorem partsBut_setLine (s : State) (n : Nat) (x : Line) : partsBut [.lines] s (s.setLine n x) := by
  intro p hp
  cases p <;> simp [Part.same] at hp ⊢

theorem partsBut_setBrn (s : State) (n : Nat) (x : Brn) : partsBut [.brns] s (s.setBrn n x) := by
  intro p hp
  cases p <;> simp [Part.same] at hp ⊢

/-! ## A hub-domain reset that holds nothing (R22 to R24) -/

/-- What a hub-domain reset without a hold does to a line: its filtered level and its readback fault are cleared, and it
takes its safe value. -/
theorem partsBut_lineAfter (s : State) (n : Nat) : partsBut [.regs, .lines] s (lineAfter s false n) := by
  intro p hp
  cases p <;> simp [Part.same, lineAfter, lineSafe] at hp ⊢

theorem cellAt_lineAfter (s : State) (n a : Nat) (h : a ≠ (DIO_STAT_LEVEL n).addr) :
    cellAt (lineAfter s false n) a = cellAt s a := by
  have h' : a ≠ (DIO_STAT_RELEASED n).addr := h
  simp [lineAfter, lineSafe, cellAt_wr_ne, h, h']

/-- The configuration of a line and its status are different registers, whichever lines they belong to. -/
theorem dioCfg_ne_stat (m n : Nat) : (DIO_CFG_MODE m).addr ≠ (DIO_STAT_LEVEL n).addr := by
  simp only [DIO_CFG_MODE, DIO_STAT_LEVEL]; omega

/-- The safe level of a line depends on the cell of its configuration alone. -/
theorem dioSafeLevel_congr {s t : State} (n : Nat) (h : cellAt t (DIO_CFG_MODE n).addr = cellAt s (DIO_CFG_MODE n).addr) :
    dioSafeLevel t n = dioSafeLevel s n := by
  have h' : cellAt t (DIO_CFG_SAFE n).addr = cellAt s (DIO_CFG_SAFE n).addr := h
  have hm : rd t (DIO_CFG_MODE n) = rd s (DIO_CFG_MODE n) := by rw [rd, h, rd]
  have hs : rd t (DIO_CFG_SAFE n) = rd s (DIO_CFG_SAFE n) := by rw [rd, h', rd]
  rw [dioSafeLevel, dioMode, hm, hs]
  rfl

theorem dioSafeLevel_lineAfter (s : State) (m n : Nat) : dioSafeLevel (lineAfter s false m) n = dioSafeLevel s n :=
  dioSafeLevel_congr n (cellAt_lineAfter s m _ (dioCfg_ne_stat n m))

/-- What the statement of a hub-domain reset says of a line, and its safe level. -/
def lineShown (n : Nat) (u : State) : (Option Bool × List QEnt × List Stamp) × Option Bool :=
  (((u.line n).drive, (u.line n).queue, (u.line n).fifo), dioSafeLevel u n)

theorem lineShown_lineAfter_self (s : State) (n : Nat) :
    lineShown n (lineAfter s false n) = ((dioSafeLevel s n, [], []), dioSafeLevel s n) := by
  have hs : dioSafeLevel (wr (wr s (DIO_STAT_LEVEL n) 0) (DIO_STAT_RELEASED n) 0) n = dioSafeLevel s n :=
    dioSafeLevel_congr n ((cellAt_wr_ne _ (DIO_STAT_RELEASED n) _ _ (dioCfg_ne_stat n n)).trans
      (cellAt_wr_ne _ _ _ _ (dioCfg_ne_stat n n)))
  have hr : rd (wr (wr s (DIO_STAT_LEVEL n) 0) (DIO_STAT_RELEASED n) 0) (DIO_STAT_RELEASED n) = 0 :=
    rd_wr_self _ _ _ (by simp [DIO_STAT_RELEASED])
  simp [lineShown, dioSafeLevel_lineAfter]
  simp [lineAfter, lineSafe, flag, hs, hr]

theorem lineShown_lineAfter_ne (s : State) {m n : Nat} (h : m ≠ n) :
    lineShown n (lineAfter s false m) = lineShown n s := by
  simp only [lineShown, dioSafeLevel_lineAfter]
  simp [lineAfter, lineSafe, State.line_setLine, Ne.symm h]

/-- The outputs as a hub-domain reset without a hold leaves them, with JOINED and the readback error of the FLT pair
clear: the state that the domain's values are then taken from. -/
def outputsSafe (s : State) : State :=
  wrs (each (List.range 16) (brnAfter · false ·) (each (List.range 96) (lineAfter · false ·) s))
    [(TRN_STATUS_JOINED, 0), (TNK_FLT_RB_ERR, 0)]

theorem partsBut_outputsSafe (s : State) : partsBut [.regs, .lines, .brns] s (outputsSafe s) := by
  have h1 := partsBut_each [.regs, .lines, .brns] (List.range 96) (lineAfter · false ·) s fun u k =>
    partsBut_mono (partsBut_lineAfter u k) (by decide)
  have h2 := partsBut_each [.regs, .lines, .brns] (List.range 16) (brnAfter · false ·)
    (each (List.range 96) (lineAfter · false ·) s) fun u k => partsBut_mono (partsBut_setBrn u k _) (by decide)
  exact partsBut_trans (partsBut_trans h1 h2) (partsBut_mono (partsBut_wrs _ _) (by decide))

/-- A cell that is no line's status keeps its value, JOINED and the FLT pair's apart. -/
theorem cellAt_outputsSafe (s : State) (a : Nat) (h : ∀ n < 96, a ≠ (DIO_STAT_LEVEL n).addr)
    (hj : a ≠ TRN_STATUS_JOINED.addr) (hf : a ≠ TNK_FLT_RB_ERR.addr) : cellAt (outputsSafe s) a = cellAt s a := by
  simp only [outputsSafe, wrs_cons, wrs_nil, cellAt_wr_ne _ _ _ _ hf, cellAt_wr_ne _ _ _ _ hj]
  rw [each_same _ (cellAt · a) (brnAfter · false ·) _ fun u k _ => cellAt_setBrn u k _ a,
    each_same _ (cellAt · a) (lineAfter · false ·) _ fun u k hk => cellAt_lineAfter u k a (h k (List.mem_range.1 hk))]

theorem lineShown_outputsSafe (s : State) {n : Nat} (hn : n < 96) :
    (lineShown n (outputsSafe s)).1 = (dioSafeLevel s n, [], []) := by
  have e : (lineShown n (outputsSafe s)).1 = (lineShown n (each (List.range 96) (lineAfter · false ·) s)).1 := by
    simp only [lineShown, outputsSafe, State.line_wrs]
    rw [each_same _ (State.line · n) (brnAfter · false ·) _ fun u k _ => State.line_setBrn u k _ n]
  rw [e, each_get s (lineShown n) (fun q => ((q.2, [], []), q.2)) _ _ n List.nodup_range (List.mem_range.2 hn)
    (fun u k hk => lineShown_lineAfter_ne u hk) (fun u => lineShown_lineAfter_self u n)]
  rfl

/-- A hub-domain reset keeps the cells of the other domains, and those that the BPD and the FLT pair's pad latch hold. -/
theorem cellAt_clearHub (s : State) (a : Nat) : cellAt (clearHub s false) a =
    if domOf a ≠ .hub ∨ heldByBpd a = true ∨ heldByPad a = true then cellAt (outputsSafe s) a else cellReset a := by
  have h := tget_filter cellReset (outputsSafe s).regs
    (fun k => domOf k != .hub || heldByBpd k || heldByPad k || (false && heldByLatch k)) a
  refine Eq.trans h ?_
  simp [cellAt, or_assoc]

/-- A hub-domain reset empties the memories of the hub domain. -/
theorem memGet_clearHub (s : State) (a : Nat) :
    memGet (clearHub s false) a = if hubMemory a = true then unlisted a else memGet s a := by
  have h := tget_filter unlisted (outputsSafe s).mem (fun k => !hubMemory k) a
  refine Eq.trans h ?_
  rw [partsBut_outputsSafe s .mem (by decide)]
  cases hubMemory a <;> simp [memGet]

/-! ## Branches off and the FLT pair in fault before it (R23, R345) -/

theorem brnHardOff_frame (s : State) (n : Nat) :
    partsBut [.regs, .brns] s (brnHardOff s n) ∧ cellsBut [(BRN_STAT_STATE n).addr] s (brnHardOff s n) := by
  unfold brnHardOff
  split
  · exact ⟨partsBut_refl _ _, cellsBut_refl _ _⟩
  · refine ⟨partsBut_trans (partsBut_mono (partsBut_wrs _ _) (by decide)) (partsBut_mono (partsBut_setBrn _ n _) (by decide)),
      fun a ha => ?_⟩
    have h : a ≠ (BRN_STAT_STATE n).addr := by simpa using ha
    have h1 : a ≠ (BRN_STAT_PG n).addr := h
    have h2 : a ≠ (BRN_STAT_PENDING_ON n).addr := h
    have h3 : a ≠ (BRN_STAT_REARM n).addr := h
    simp [cellAt_wr_ne, h, h1, h2, h3]

/-- Hard off takes a branch to DISCHARGE, unless it is FAILED or LATCHED_OFF (R283, R290). -/
theorem rd_brnHardOff (s : State) (n : Nat) : rd (brnHardOff s n) (BRN_STAT_STATE n) =
    if rd s (BRN_STAT_STATE n) = 8 ∨ rd s (BRN_STAT_STATE n) = 7 then rd s (BRN_STAT_STATE n) else 5 := by
  by_cases h : brnState s n = bFailed ∨ brnState s n = bLatchedOff
  · rw [brnHardOff, if_pos h, if_pos (show rd s (BRN_STAT_STATE n) = 8 ∨ rd s (BRN_STAT_STATE n) = 7 from h)]
  · rw [brnHardOff, if_neg h, if_neg (show ¬(rd s (BRN_STAT_STATE n) = 8 ∨ rd s (BRN_STAT_STATE n) = 7) from h)]
    simp only [rd_setBrn, wrs_cons, wrs_nil]
    rw [rd_wr_bits _ _ _ _ (by simp [BRN_STAT_REARM]) (by simp [BRN_STAT_REARM, BRN_STAT_STATE]),
      rd_wr_bits _ _ _ _ (by simp [BRN_STAT_PENDING_ON]) (by simp [BRN_STAT_PENDING_ON, BRN_STAT_STATE]),
      rd_wr_bits _ _ _ _ (by simp [BRN_STAT_PG]) (by simp [BRN_STAT_PG, BRN_STAT_STATE]),
      rd_wr_self _ _ _ (by simp [BRN_STAT_STATE])]
    rfl

theorem rd_brnHardOff_ne (s : State) {m n : Nat} (h : m ≠ n) :
    rd (brnHardOff s m) (BRN_STAT_STATE n) = rd s (BRN_STAT_STATE n) := by
  rw [rd, (brnHardOff_frame s m).2 _ (by simp only [BRN_STAT_STATE, List.mem_singleton]; omega), rd]

theorem partsBut_hardOff (s : State) : partsBut [.regs, .brns] s (hardOff s) :=
  partsBut_each _ _ _ s fun u k => (brnHardOff_frame u k).1

theorem cellAt_hardOff (s : State) (a : Nat) (h : ∀ n < 16, a ≠ (BRN_STAT_STATE n).addr) :
    cellAt (hardOff s) a = cellAt s a :=
  each_same s (cellAt · a) brnHardOff _ fun u k hk =>
    (brnHardOff_frame u k).2 a (by simpa using h k (List.mem_range.1 hk))

theorem rd_hardOff (s : State) {n : Nat} (hn : n < 16) (h7 : rd s (BRN_STAT_STATE n) ≠ 7)
    (h8 : rd s (BRN_STAT_STATE n) ≠ 8) : rd (hardOff s) (BRN_STAT_STATE n) = 5 := by
  rw [hardOff, each_get s (rd · (BRN_STAT_STATE n)) (fun x => if x = 8 ∨ x = 7 then x else 5) brnHardOff _ n
    List.nodup_range (List.mem_range.2 hn) (fun u k hk => rd_brnHardOff_ne u hk) (fun u => rd_brnHardOff u n)]
  simp [h7, h8]

/-- The FLT pair as a reset's entry leaves it: in fault, with its pins shown where they are driven (R345). -/
def fltFault (s : State) : State :=
  wrs s (if s.tnk.driven then [(TNK_FLT_STATE, 1), (TNK_FLT_PIN_T, 1), (TNK_FLT_PIN_C, 0)] else [(TNK_FLT_STATE, 1)])

theorem partsBut_fltFault (s : State) : partsBut [.regs] s (fltFault s) := partsBut_wrs _ _

theorem cellAt_fltFault (s : State) (a : Nat) (h : a ≠ TNK_FLT_STATE.addr) : cellAt (fltFault s) a = cellAt s a := by
  have h1 : a ≠ TNK_FLT_PIN_T.addr := h
  have h2 : a ≠ TNK_FLT_PIN_C.addr := h
  unfold fltFault
  split <;> simp [cellAt_wr_ne, h, h1, h2]

theorem rd_fltFault (s : State) : rd (fltFault s) TNK_FLT_STATE = 1 := by
  unfold fltFault
  split <;> simp only [wrs_cons, wrs_nil]
  · rw [rd_wr_bits _ _ _ _ (by decide) (by decide), rd_wr_bits _ _ _ _ (by decide) (by decide),
      rd_wr_self _ _ _ (by decide)]
    rfl
  · rw [rd_wr_self _ _ _ (by decide)]
    rfl

/-- Where the D2D link carries it, every branch is off (R23). -/
def branchesOff (s : State) : State := if s.rst.d2dBpdLost = true then s else hardOff s

theorem partsBut_branchesOff (s : State) : partsBut [.regs, .brns] s (branchesOff s) := by
  unfold branchesOff
  split
  · exact partsBut_refl _ _
  · exact partsBut_hardOff s

theorem cellAt_branchesOff (s : State) (a : Nat) (h : ∀ n < 16, a ≠ (BRN_STAT_STATE n).addr) :
    cellAt (branchesOff s) a = cellAt s a := by
  unfold branchesOff
  split
  · rfl
  · exact cellAt_hardOff s a h

/-- The start's state with the first fault kept for the Start Log (R350). -/
def firstKept (s : State) : Sys :=
  { s.sys with first := rdW s TNK_FIRST_SRC.addr, firstAlso := (List.range 4).map fun k => rd s (TNK_FIRST_ALSO_ALSO k) }

/-- The state that the watchdog's reset of the hub domain clears. -/
theorem beforeReset_wdog (s : State) :
    beforeReset s rWdog = fltFault { branchesOff s with sys := firstKept (branchesOff s) } := by
  have e : (if [rFatal, rWdog, rLbist, rFull].contains rWdog = true ∧ (!s.rst.d2dBpdLost) = true then hardOff s else s) =
      branchesOff s := by
    unfold branchesOff
    cases s.rst.d2dBpdLost <;> rfl
  simp only [beforeReset, e]
  rfl

/-- The hub domain in reset for the watchdog alone (R20, R26). -/
theorem orderReset_wdog {s : State} (hb : s.rst.busy = false) : ∃ y h, y.loaded = s.sys.loaded ∧
    orderReset s rWdog =
      inReset (clearHub (beforeReset { s with sys := y, rst := { s.rst with heldEnd := h } } rWdog) false) false rWdog := by
  obtain ⟨y, h, e, hy⟩ := shutLost_eq s rWdog
  have ha : alsoCauses s rWdog = 0 := rfl
  have hr : ringCause rWdog = false := rfl
  have hres : (rWdog == rResole) = false := rfl
  refine ⟨y, h, hy, ?_⟩
  simp [orderReset, e, hb, ha, hr, hres, inReset]

/-! ## The watchdog's reset -/

/-- The state that the watchdog's reset of the hub domain clears, from the state s with some shutdown lost. -/
theorem beforeReset_wdog_frame (s : State) (n : Nat) :
    partsBut [.regs, .brns, .sys] s (beforeReset s rWdog) ∧ (beforeReset s rWdog).sys.loaded = s.sys.loaded ∧
    rd (beforeReset s rWdog) TNK_FLT_STATE = 1 ∧
    (∀ a, (∀ n < 16, a ≠ (BRN_STAT_STATE n).addr) → a ≠ TNK_FLT_STATE.addr → cellAt (beforeReset s rWdog) a = cellAt s a) ∧
    (s.rst.d2dBpdLost = false → n < 16 → rd s (BRN_STAT_STATE n) ≠ 7 → rd s (BRN_STAT_STATE n) ≠ 8 →
      rd (beforeReset s rWdog) (BRN_STAT_STATE n) = 5) := by
  rw [beforeReset_wdog]
  have hoff := partsBut_branchesOff s
  refine ⟨fun p hp => ?_, ?_, rd_fltFault _, fun a ha hf => ?_, fun hl hn h7 h8 => ?_⟩
  · have h1 := hoff p
    have h2 := partsBut_fltFault { branchesOff s with sys := firstKept (branchesOff s) } p
    cases p <;> simp [Part.same] at hp h1 h2 ⊢ <;> rw [h2, h1]
  · have h2 := partsBut_fltFault { branchesOff s with sys := firstKept (branchesOff s) } .sys (by decide)
    have h1 := hoff .sys (by decide)
    have h3 : (branchesOff s).sys.loaded = s.sys.loaded := congrArg Sys.loaded h1
    exact (congrArg Sys.loaded h2).trans h3
  · rw [cellAt_fltFault _ _ hf]
    exact cellAt_branchesOff s a ha
  · have e : branchesOff s = hardOff s := by simp [branchesOff, hl]
    rw [rd, cellAt_fltFault _ _ (by simp only [BRN_STAT_STATE, TNK_FLT_STATE]; omega), e]
    exact rd_hardOff s hn h7 h8

/-- The own slots depend on the memory alone. -/
theorem ownSlots_congr {s t : State} (h : t.mem = s.mem) : ownSlots t = ownSlots s := by
  have hb : ∀ a n, memBytes t a n = memBytes s a n := by
    intro a n
    induction n generalizing a with
    | zero => rfl
    | succ n ih => rw [memBytes, memBytes, ih, memGet_congr a h]
  have hd : ∀ i, pubDesc t i = pubDesc s i := fun i => congrArg leNat (hb _ _)
  simp only [ownSlots, hd]

/-- The parts that a hub-domain reset keeps, and those it empties. -/
theorem clearHub_parts (s : State) : (clearHub s false).ports = s.ports ∧ (clearHub s false).clk.ft = s.clk.ft ∧
    (clearHub s false).otp = s.otp ∧ (clearHub s false).act = s.act ∧ (clearHub s false).pending = s.pending ∧
    (clearHub s false).out = s.out ∧ (clearHub s false).fry.mreq = s.fry.mreq ∧
    (s.sys.loaded = true → (clearHub s false).trn.own = ownSlots s) := by
  have h := partsBut_outputsSafe s
  simp only [clearHub, ← outputsSafe.eq_1]
  refine ⟨h .ports (by decide), congrArg Clk.ft (h .clk (by decide)), h .otp (by decide), h .act (by decide),
    h .pending (by decide), h .out (by decide), congrArg Fry.mreq (h .fry (by decide)), fun hl => ?_⟩
  have hm : (outputsSafe s).mem = s.mem := h .mem (by decide)
  have hs : (outputsSafe s).sys = s.sys := h .sys (by decide)
  change (if (outputsSafe s).sys.loaded = true then ownSlots (outputsSafe s) else (outputsSafe s).trn.own) = _
  rw [hs, if_pos hl]
  exact ownSlots_congr hm

theorem domOf_joined : domOf TRN_STATUS_JOINED.addr = .ring := by decide +kernel

/-- A cell that the BPD holds is a branch's or a register of its block. -/
theorem heldByBpd_state {n : Nat} (hn : n < 16) : heldByBpd (BRN_STAT_STATE n).addr = true := by
  have h : (0x400E0024 + 0x200 * n) % 0x200 = 0x24 := by omega
  simp only [heldByBpd, BRN_STAT_STATE, h, Bool.and_eq_true]
  exact ⟨⟨decide_eq_true (by omega), decide_eq_true (by omega)⟩, by decide⟩

section
variable {s p : State}

/-- What the watchdog's reset leaves of a cell below the discrete lines' block, outside the hub domain. -/
theorem cellAt_wdogReset_low (hc : ∀ a, (∀ n < 16, a ≠ (BRN_STAT_STATE n).addr) → a ≠ TNK_FLT_STATE.addr →
    cellAt p a = cellAt s a) {a : Nat} (ha : a < 0x400C0000) (hd : domOf a ≠ .hub)
    (hn : a ∉ [SYS_RST_CAUSE_CAUSE.addr, SYS_STATE_STATE.addr, TRN_STATUS_JOINED.addr]) :
    cellAt (inReset (clearHub p false) false rWdog) a = cellAt s a := by
  have hf : a ≠ TNK_FLT_STATE.addr := by simp only [TNK_FLT_STATE]; omega
  simp only [List.mem_cons, List.not_mem_nil, or_false, not_or] at hn
  obtain ⟨h1, h2, h3⟩ := hn
  rw [cellAt_inReset _ _ _ (by simp [h1, h2]), cellAt_clearHub, if_pos (.inl hd), cellAt_outputsSafe _ _ _ h3 hf,
    hc a (fun n _ => by simp only [BRN_STAT_STATE]; omega) hf]
  intro n _
  simp only [DIO_STAT_LEVEL]
  omega

theorem cellAt_wdogReset_hub {a : Nat} (hd : domOf a = .hub) (hbpd : heldByBpd a = false) (hpad : heldByPad a = false)
    (hn : a ∉ [SYS_RST_CAUSE_CAUSE.addr, SYS_STATE_STATE.addr]) :
    cellAt (inReset (clearHub p false) false rWdog) a = cellReset a := by
  rw [cellAt_inReset _ _ _ hn, cellAt_clearHub, if_neg (by simp [hd, hbpd, hpad])]

theorem rd_wdogReset_joined : rd (inReset (clearHub p false) false rWdog) TRN_STATUS_JOINED = 0 := by
  rw [rd, cellAt_inReset _ _ _ (by decide), cellAt_clearHub, if_pos (.inl (by rw [domOf_joined]; decide))]
  change rd (outputsSafe p) TRN_STATUS_JOINED = 0
  simp only [outputsSafe, wrs_cons, wrs_nil]
  rw [rd_wr_addr _ _ _ _ (by decide)]
  exact rd_wr_self _ _ _ (by decide)

/-- The pad latch holds the FLT pair in fault. -/
theorem rd_wdogReset_flt (hp : rd p TNK_FLT_STATE = 1) :
    rd (inReset (clearHub p false) false rWdog) TNK_FLT_STATE = 1 := by
  rw [rd, cellAt_inReset _ _ _ (by decide), cellAt_clearHub, if_pos (.inr (.inr (by decide)))]
  change rd (outputsSafe p) TNK_FLT_STATE = 1
  simp only [outputsSafe, wrs_cons, wrs_nil]
  rw [rd_wr_bits _ _ _ _ (by decide) (by decide), rd_wr_addr _ _ _ _ (by decide),
    each_same _ (rd · TNK_FLT_STATE) (brnAfter · false ·) _ fun u k _ => rd_setBrn u k _ _,
    each_same _ (rd · TNK_FLT_STATE) (lineAfter · false ·) _ fun u k hk => ?_, hp]
  have hk := List.mem_range.1 hk
  rw [rd, cellAt_lineAfter _ _ _ (by simp only [TNK_FLT_STATE, DIO_STAT_LEVEL]; omega), rd]

/-- The BPD holds the state of a branch. -/
theorem rd_wdogReset_brn {n : Nat} (hn : n < 16) : rd (inReset (clearHub p false) false rWdog) (BRN_STAT_STATE n) =
    rd p (BRN_STAT_STATE n) := by
  have h1 : (BRN_STAT_STATE n).addr ∉ [SYS_RST_CAUSE_CAUSE.addr, SYS_STATE_STATE.addr] := by
    simp only [BRN_STAT_STATE, SYS_RST_CAUSE_CAUSE, SYS_STATE_STATE, List.mem_cons, List.not_mem_nil, or_false, not_or]
    omega
  rw [rd, cellAt_inReset _ _ _ h1, cellAt_clearHub, if_pos (.inr (.inl (heldByBpd_state hn))), cellAt_outputsSafe, rd]
  · intro m hm
    simp only [BRN_STAT_STATE, DIO_STAT_LEVEL]
    omega
  · simp only [BRN_STAT_STATE, TRN_STATUS_JOINED]
    omega
  · simp only [BRN_STAT_STATE, TNK_FLT_RB_ERR]
    omega

/-- Every line is at its safe value, its queue and FIFO empty (R22, R272). -/
theorem line_wdogReset (hc : ∀ a, (∀ n < 16, a ≠ (BRN_STAT_STATE n).addr) → a ≠ TNK_FLT_STATE.addr →
    cellAt p a = cellAt s a) {n : Nat} (hn : n < 96) :
    ((inReset (clearHub p false) false rWdog).line n).drive = dioSafeLevel s n ∧
    ((inReset (clearHub p false) false rWdog).line n).queue = [] ∧
    ((inReset (clearHub p false) false rWdog).line n).fifo = [] := by
  have e : (inReset (clearHub p false) false rWdog).line n = (outputsSafe p).line n :=
    State.line_congr n (by rw [partsBut_inReset _ false .lines (by decide)]; simp only [clearHub, ← outputsSafe.eq_1])
  have hl := lineShown_outputsSafe p hn
  have hs : dioSafeLevel p n = dioSafeLevel s n := by
    refine dioSafeLevel_congr n (hc _ (fun m _ => ?_) ?_)
    · simp only [DIO_CFG_MODE, BRN_STAT_STATE]
      omega
    · simp only [DIO_CFG_MODE, TNK_FLT_STATE]
      omega
  simp only [lineShown, Prod.mk.injEq] at hl
  rw [e, ← hs]
  exact hl

end

/-- Settles O6: the second expiry runs `orderReset_wdog`, whose parts are `beforeReset_wdog_frame` (branches off, the FLT
pair in fault) and `clearHub` (the domain's values). -/
theorem watchdogResetsTheHubDomain : Obligations.WatchdogResetsTheHubDomain := by
  unfold Obligations.WatchdogResetsTheHubDomain
  intro s hb
  refine ⟨fun pairs => ⟨{ s with tnk := { s.tnk with wdog := true } }, ?_, rfl, fun p hp => ?_⟩,
    ⟨_, rfl, rfl, fun p hp => ?_⟩, fun hw => ?_⟩
  · change execWatchdogFirstExpiry pairs s = _
    rw [execWatchdogFirstExpiry, whenAlive_alive _ _ hb]
  · cases p <;> simp [Part.same] at hp ⊢
  · cases p <;> simp [Part.same] at hp ⊢
  · obtain ⟨y, h, hy, e⟩ := orderReset_wdog hb
    obtain ⟨s', hs'⟩ : ∃ s', s' = { s with sys := y, rst := { s.rst with heldEnd := h } } := ⟨_, rfl⟩
    obtain ⟨p, hp⟩ : ∃ p, p = beforeReset s' rWdog := ⟨_, rfl⟩
    have hf := fun n => beforeReset_wdog_frame s' n
    rw [← hs', ← hp] at e
    rw [← hp] at hf
    obtain ⟨hparts', hloaded, hflt, hcells', -⟩ := hf 0
    have hparts : partsBut [.regs, .brns, .sys, .rst] s p :=
      partsBut_trans (t := s') (fun q hq => by cases q <;> simp [Part.same, hs'] at hq ⊢) (partsBut_mono hparts' (by decide))
    have hcells := fun a h1 h2 => (hcells' a h1 h2).trans (cellAt_congr a (by rw [hs'] : s'.regs = s.regs))
    obtain ⟨hports, hft, hotp, hact, hpend, hout, hmreq, hown⟩ := clearHub_parts p
    obtain ⟨hcause, -, hstate⟩ := causes_inReset (clearHub p false) false (c := rWdog) (by decide)
    have hin := partsBut_inReset (clearHub p false) false (c := rWdog)
    refine ⟨inReset (clearHub p false) false rWdog, ?_, rfl, rfl, rfl, hcause, hstate,
      fun a => cellAt_wdogReset_hub, fun a => cellAt_wdogReset_low hcells, rd_wdogReset_joined, rd_wdogReset_flt hflt,
      fun n => line_wdogReset hcells, fun hl n hn h7 h8 => ?_, fun hl => ?_, fun a => ?_,
      (hin .ports (by decide)).trans (hports.trans (hparts .ports (by decide))), ?_,
      (hin .otp (by decide)).trans (hotp.trans (hparts .otp (by decide))),
      (hin .act (by decide)).trans (hact.trans (hparts .act (by decide))),
      (hin .pending (by decide)).trans (hpend.trans (hparts .pending (by decide))),
      (hin .out (by decide)).trans (hout.trans (hparts .out (by decide))),
      hin .chns (by decide), hin .cans (by decide), hin .quads (by decide), hin .stg (by decide), hin .drv (by decide),
      hin .xb (by decide), hin .ldg (by decide), ?_, hin .trd (by decide)⟩
    · change execWatchdogSecondExpiry s = _
      rw [execWatchdogSecondExpiry, if_pos (.inl hw), e]
    · obtain ⟨-, -, -, -, hoff⟩ := hf n
      have hr : rd s' (BRN_STAT_STATE n) = rd s (BRN_STAT_STATE n) := rd_congr _ (by rw [hs'])
      rw [rd_wdogReset_brn hn]
      exact hoff (by rw [hs']; exact hl) hn (by rw [hr]; exact h7) (by rw [hr]; exact h8)
    · rw [hin .trn (by decide), hown (by rw [hloaded, hs']; exact hy.trans hl)]
      exact ownSlots_congr (hparts .mem (by decide))
    · rw [memGet_congr a (hin .mem (by decide)), memGet_clearHub, memGet_congr a (hparts .mem (by decide))]
    · rw [hin .clk (by decide), hft, hparts .clk (by decide)]
    · rw [← hparts .fry (by decide), ← hmreq, hin .fry (by decide)]
      rfl

end Sys2Proof.Machine

/-! SUPPORT. Obligation O4: accesses of the local address space, fields under a write, and 64-bit registers. -/

namespace Sys2Proof.Machine

/-! ## Bits of a number with a field replaced -/

theorem testBit_bits (n lo w i : Nat) : (bits n lo w).testBit i = (decide (i < w) && n.testBit (lo + i)) := by
  simp [bits, Nat.testBit_mod_two_pow, Nat.testBit_div_two_pow, Nat.add_comm]

theorem bits_lt (n lo w : Nat) : bits n lo w < 2 ^ w := Nat.mod_lt _ (by positivity)

theorem testBit_setBits (n lo w v j : Nat) : (setBits n lo w v).testBit j =
    if lo ≤ j ∧ j < lo + w then v.testBit (j - lo) else n.testBit j := by
  have e : setBits n lo w v = 2 ^ lo * (2 ^ w * (n / 2 ^ (lo + w)) + v % 2 ^ w) + n % 2 ^ lo := by
    rw [setBits, Nat.pow_add]; ring
  rw [e, Nat.testBit_two_pow_mul_add _ (Nat.mod_lt _ (by positivity)),
    Nat.testBit_two_pow_mul_add _ (Nat.mod_lt _ (by positivity))]
  by_cases h1 : j < lo
  · rw [if_pos h1, if_neg (by omega), Nat.testBit_mod_two_pow]
    simp [h1]
  · rw [if_neg h1]
    by_cases h2 : j - lo < w
    · rw [if_pos h2, if_pos (by omega), Nat.testBit_mod_two_pow]
      simp [h2]
    · rw [if_neg h2, if_neg (by omega), Nat.testBit_div_two_pow]
      congr 1
      omega

theorem bits_setBits_self (n lo w v : Nat) : bits (setBits n lo w v) lo w = v % 2 ^ w := by
  apply Nat.eq_of_testBit_eq
  intro i
  rw [testBit_bits, testBit_setBits, Nat.testBit_mod_two_pow]
  by_cases h : i < w <;> simp [h]

/-- Two fields that share no bit. -/
def apart (f g : FldSpec) : Prop := f.lo + f.w ≤ g.lo ∨ g.lo + g.w ≤ f.lo

theorem bits_setBits_apart (n v : Nat) {f g : FldSpec} (h : apart f g) :
    bits (setBits n g.lo g.w v) f.lo f.w = bits n f.lo f.w := by
  unfold apart at h
  apply Nat.eq_of_testBit_eq
  intro i
  rw [testBit_bits, testBit_bits, testBit_setBits]
  by_cases hi : i < f.w
  · rw [if_neg (by omega)]
  · simp [hi]

theorem setBits_bits (n lo w : Nat) : setBits n lo w (bits n lo w) = n := by
  apply Nat.eq_of_testBit_eq
  intro j
  rw [testBit_setBits, testBit_bits]
  split
  · rw [decide_eq_true (by omega), Bool.true_and]
    congr 1
    omega
  · rfl

/-! ## One field under a write (R6) -/

/-- What a write makes of one field of w bits, by its access type: its old value o, the bits m of it that are written, and
their values x. -/
def fieldAfter (o x m w : Nat) (locked : Bool) : Acc → Nat
  | .rw => (o &&& ((2 ^ w - 1) ^^^ m)) ||| x
  | .rwl => if locked then o else (o &&& ((2 ^ w - 1) ^^^ m)) ||| x
  | .w1c => o &&& ((2 ^ w - 1) ^^^ x)
  | .w1s => o ||| x
  | .ro | .wo | .rc => o

theorem fieldAfter_lt {o x w : Nat} (ho : o < 2 ^ w) (hx : x < 2 ^ w) (m : Nat) (lk : Bool) (acc : Acc) :
    fieldAfter o x m w lk acc < 2 ^ w := by
  have ha : ∀ z, o &&& z < 2 ^ w := fun z => lt_of_le_of_lt Nat.and_le_left ho
  cases acc with
  | rw => exact Nat.or_lt_two_pow (ha _) hx
  | rwl =>
    cases lk
    · exact Nat.or_lt_two_pow (ha _) hx
    · exact ho
  | w1c => exact ha _
  | w1s => exact Nat.or_lt_two_pow ho hx
  | ro => exact ho
  | wo => exact ho
  | rc => exact ho

/-- A field that no bit of the write names keeps its value. -/
theorem fieldAfter_unnamed {o w : Nat} (ho : o < 2 ^ w) (lk : Bool) (acc : Acc) : fieldAfter o 0 0 w lk acc = o := by
  have h : o &&& (2 ^ w - 1) = o := by rw [Nat.and_two_pow_sub_one_eq_mod, Nat.mod_eq_of_lt ho]
  cases acc <;> simp [fieldAfter, h]

/-- What a write of a register makes of one of its fields. -/
def fieldWritten (old v mask : Nat) (lk : Bool) (f : FldSpec) : Nat :=
  fieldAfter (bits old f.lo f.w) (bits v f.lo f.w &&& bits mask f.lo f.w) (bits mask f.lo f.w) f.w lk f.acc

theorem fieldWritten_lt (old v mask : Nat) (lk : Bool) (f : FldSpec) : fieldWritten old v mask lk f < 2 ^ f.w :=
  fieldAfter_lt (bits_lt _ _ _) (Nat.and_lt_two_pow _ (bits_lt _ _ _)) _ _ _

/-- A write takes the fields of a register in order, each replaced by what the write makes of it. -/
theorem fieldsWritten_cons (old v mask : Nat) (lk : Bool) (f : FldSpec) (l : List FldSpec) :
    fieldsWritten old v mask lk (f :: l) =
      fieldsWritten (setBits old f.lo f.w (fieldWritten old v mask lk f)) v mask lk l := by
  obtain ⟨lo, w, acc, r⟩ := f
  rw [fieldsWritten, List.foldl_cons, fieldsWritten]
  congr 1
  cases acc with
  | rwl =>
    cases lk
    · rfl
    · exact (setBits_bits old lo w).symm
  | ro => exact (setBits_bits old lo w).symm
  | wo => exact (setBits_bits old lo w).symm
  | rc => exact (setBits_bits old lo w).symm
  | rw => rfl
  | w1c => rfl
  | w1s => rfl

/-- A write leaves a field that is apart from every field written. -/
theorem bits_fieldsWritten_apart (old v mask : Nat) (lk : Bool) {f : FldSpec} (l : List FldSpec)
    (h : ∀ g ∈ l, apart f g) : bits (fieldsWritten old v mask lk l) f.lo f.w = bits old f.lo f.w := by
  induction l generalizing old with
  | nil => rfl
  | cons g l ih =>
    rw [fieldsWritten_cons, ih _ fun k hk => h k (by simp [hk]), bits_setBits_apart _ _ (h g (by simp))]

/-- A field of a register whose fields share no bit holds after a write what the write makes of it alone. -/
theorem bits_fieldsWritten {l : List FldSpec} (hl : l.Pairwise apart) {f : FldSpec} (hf : f ∈ l) (old v mask : Nat) (lk : Bool) :
    bits (fieldsWritten old v mask lk l) f.lo f.w = fieldWritten old v mask lk f := by
  induction l generalizing old with
  | nil => simp at hf
  | cons g l ih =>
    obtain ⟨hg, hl'⟩ := List.pairwise_cons.1 hl
    rw [fieldsWritten_cons]
    rcases List.mem_cons.1 hf with rfl | hf'
    · rw [bits_fieldsWritten_apart _ _ _ _ l hg, bits_setBits_self, Nat.mod_eq_of_lt (fieldWritten_lt _ _ _ _ _)]
    · rw [ih hl' hf', fieldWritten, bits_setBits_apart _ _ (Or.symm (hg f hf')), fieldWritten]

/-- A field whose bits are all written takes what its access type says; a field that takes no write stays (R6, R7). -/
theorem fieldWritten_full {mask : Nat} {f : FldSpec} (hm : bits mask f.lo f.w = 2 ^ f.w - 1) (old v : Nat) (lk : Bool) :
    (f.acc = .rw ∨ (f.acc = .rwl ∧ lk = false) → fieldWritten old v mask lk f = bits v f.lo f.w) ∧
    (f.acc = .w1c → fieldWritten old v mask lk f = bits old f.lo f.w &&& ((2 ^ f.w - 1) ^^^ bits v f.lo f.w)) ∧
    (f.acc = .w1s → fieldWritten old v mask lk f = bits old f.lo f.w ||| bits v f.lo f.w) := by
  have hx : bits v f.lo f.w &&& (2 ^ f.w - 1) = bits v f.lo f.w := by
    rw [Nat.and_two_pow_sub_one_eq_mod, Nat.mod_eq_of_lt (bits_lt _ _ _)]
  rw [fieldWritten, hm, hx]
  refine ⟨?_, fun h => by rw [h]; rfl, fun h => by rw [h]; rfl⟩
  rintro (h | ⟨h, rfl⟩) <;> rw [h] <;> simp [fieldAfter]

/-- The write of a register: the cell takes what its fields make of the write, and the status tells of a locked field
that would change (R7, R392). -/
theorem regWrite_spec (s : State) (r : RegSpec) (cell v mask : Nat) : ∃ t c, regWrite s r cell v mask = (t, c) ∧
    (cellAt t cell).toNat = fieldsWritten (cellAt s cell).toNat v mask (lockedDom s r.dom) r.flds % 2 ^ 64 ∧
    regsOnly [cell] s t ∧ (c = scLocked ↔ lockedDom s r.dom = true ∧ ∃ f ∈ r.flds, f.acc = .rwl ∧
      bits (cellAt s cell).toNat f.lo f.w &&& bits mask f.lo f.w ≠ bits v f.lo f.w &&& bits mask f.lo f.w) := by
  refine ⟨_, _, rfl, by simp, ⟨fun p hp => ?_, fun a ha => cellAt_setCell_ne _ _ (by simpa using ha)⟩, ?_⟩
  · cases p <;> simp [Part.same] at hp ⊢
  · simp [scLocked, scOk, locksHit]

/-! ## Sizes and waits of an access (R28, R160, R387, R389) -/

theorem sizeOk_word (ini a : Nat) : sizeOk ini 4 a = decide (a % 4 = 0) := by
  simp [sizeOk, beq_eq_decide]

theorem sizeOk_mgmt {ini size : Nat} (a : Nat) (hi : 2 ≤ ini) (hs : size ≠ 4) : sizeOk ini size a = false := by
  have : ¬ini < iniMgmt := by simp only [iniMgmt]; omega
  simp [sizeOk, hs, this]

theorem sizeOk_register (ini : Nat) {size a : Nat} (ha : isReg a = true ∨ isOutbound a = true) (hs : size ≠ 4) :
    sizeOk ini size a = false := by
  simp only [isReg, isOutbound, Bool.and_eq_true, decide_eq_true_eq] at ha
  have hm : (decide (0x5000_0000 ≤ a) && decide (a < 0x5068_0000)) = false := by
    rw [Bool.and_eq_false_iff, decide_eq_false_iff_not, decide_eq_false_iff_not]; omega
  have hn : isNor a = false := by
    rw [isNor, norBase, norSize, Bool.and_eq_false_iff, decide_eq_false_iff_not, decide_eq_false_iff_not]; omega
  simp [sizeOk, hs, hm, hn]

/-- The Treadle's storage and the flash window are apart. -/
theorem isNor_of_trdStore {a : Nat} (h : isTrdStore a = true) : isNor a = false := by
  simp only [isTrdStore, Bool.and_eq_true, decide_eq_true_eq] at h
  rw [isNor, norBase, norSize, Bool.and_eq_false_iff, decide_eq_false_iff_not, decide_eq_false_iff_not]; omega

theorem isNor_of_reg {a : Nat} (h : isReg a = true) : isNor a = false := by
  simp only [isReg, Bool.and_eq_true, decide_eq_true_eq] at h
  rw [isNor, norBase, norSize, Bool.and_eq_false_iff, decide_eq_false_iff_not, decide_eq_false_iff_not]; omega

section
variable {s : State} {ini size a : Nat} {data : Option Nat}

theorem cpuDo_badSize (h : sizeOk ini size a = false) : cpuDo s ini size a data = s.emit (.busRsp ini scTargetErr 0) := by
  simp [cpuDo, h]

theorem cpuAccess_badSize (h : sizeOk ini size a = false) :
    cpuAccess s ini size a data = s.emit (.busRsp ini scTargetErr 0) := by
  simp [cpuAccess, h, cpuDo_badSize]

theorem cpuAccess_storage (h : sizeOk ini size a = true) (ht : isTrdStore a = true) (hp : phaseNow s ≠ 0) :
    cpuAccess s ini size a data = if rd s TRD_STATUS_PHASE = 4 then cpuDo (toCycle s (tickEnd s)) ini size a data
      else { s with trd := { s.trd with waiting := s.trd.waiting ++ [.cpu ini size a data] } } := by
  simp [cpuAccess, waitsP4, h, ht, hp]

theorem cpuAccess_flash (h : sizeOk ini size a = true) (hn : isNor a = true) (hv : s.sys.nvm ≠ none) :
    cpuAccess s ini size a none = { s with sys := { s.sys with waiting := s.sys.waiting ++ [.cpu ini size a none] } } := by
  have ht : isTrdStore a = false := by
    by_contra h'
    simp [isNor_of_trdStore (by simpa using h')] at hn
  simp [cpuAccess, waitsP4, waitsNor, h, ht, hn, Option.isSome_iff_ne_none, hv]

theorem cpuAccess_now (ht : isTrdStore a = false ∨ phaseNow s = 0)
    (hn : isNor a = false ∨ s.sys.nvm = none ∨ data ≠ none) : cpuAccess s ini size a data = cpuDo s ini size a data := by
  have h1 : waitsP4 s a = false := by rcases ht with h | h <;> simp [waitsP4, h]
  have h2 : ¬(waitsNor s a = true ∧ data.isNone = true ∧ sizeOk ini size a = true) := by
    rcases hn with h | h | h <;> simp [waitsNor, h]
  rw [cpuAccess, if_neg (by simp [h1]), if_neg h2]

theorem cpuDo_write {v : Nat} {t : State} {c : Nat} (h : sizeOk ini size a = true)
    (hw : busWrite s ini (a / 4 * 4) (v % 2 ^ (8 * size) * 2 ^ (8 * (a % 4))) ((2 ^ (8 * size) - 1) * 2 ^ (8 * (a % 4))) = (t, c)) :
    cpuDo s ini size a (some v) =
      t.emit (.busRsp ini (if c = scTargetErr then scTargetErr else if 2 ≤ ini then c else scOk) 0) := by
  simp [cpuDo, h, hw, iniMgmt]

theorem cpuDo_read {t : State} {c x : Nat} (h : a % 4 = 0) (hr : busRead s ini a = (t, c, x)) :
    cpuDo s ini 4 a none = t.emit (.busRsp ini (if c = scTargetErr then scTargetErr else scOk) (x % 2 ^ 32)) := by
  have hs : sizeOk ini 4 a = true := by rw [sizeOk_word]; exact decide_eq_true h
  have hw : a / 4 * 4 = a := Nat.div_mul_cancel (Nat.dvd_of_mod_eq_zero h)
  simp [cpuDo, hs, hw, hr, h, bits]

end

/-- A command of the bus is its access, where the hub is in no reset and the address has 32 bits. -/
theorem exec_registerWrite {s : State} (hb : s.rst.busy = false) {a : Nat} (ha : a < 2 ^ 32) (ini size v same : Nat) :
    exec (.registerWrite ini size a v same) s = .next (cpuAccess s ini size a (some (keepEvents a v same))) := by
  change execRegisterWrite ini size a v same s = _
  rw [execRegisterWrite, whenAlive_alive _ _ hb, Nat.mod_eq_of_lt ha]

theorem exec_rcRead {s : State} (hb : s.rst.busy = false) {a : Nat} (ha : a < 2 ^ 32) (ini : Nat) :
    exec (.rcRead ini a) s = .next (cpuAccess s ini 4 a none) := by
  change execRcRead ini a s = _
  rw [execRcRead, whenAlive_alive _ _ hb, Nat.mod_eq_of_lt ha]

theorem exec_wideLowRead {s : State} (hb : s.rst.busy = false) {a : Nat} (ha : a < 2 ^ 32) (ini : Nat) :
    exec (.wideLowRead ini a) s = .next (cpuAccess s ini 4 a none) := by
  change execWideLowRead ini a s = _
  rw [execWideLowRead, whenAlive_alive _ _ hb, Nat.mod_eq_of_lt ha]

theorem exec_wideLowWrite {s : State} (hb : s.rst.busy = false) {a : Nat} (ha : a < 2 ^ 32) (ini v : Nat) :
    exec (.wideLowWrite ini a v) s = .next (cpuAccess s ini 4 a (some v)) := by
  change execWideLowWrite ini a v s = _
  rw [execWideLowWrite, whenAlive_alive _ _ hb, Nat.mod_eq_of_lt ha]

/-! ## Words of registers and of memories (R5, R111, R388) -/

/-- A register that is no window of its own reads its word. -/
theorem busRead_register (s : State) (ini : Nat) {a : Nat} (hl : a ≠ TRN_LAYOUT_DATA_DATA.addr) (hp : a ≠ CHN_PM_DATA_DATA.addr)
    (hr : isReg a = true) {r : RegSpec} {cell half : Nat} (hw : wordAt a = some (r, cell, half)) :
    busRead s ini a = ((readWord s ini a r cell half).1, scOk, (readWord s ini a r cell half).2) := by
  rw [busRead, if_neg hl, if_neg hp, if_pos hr, hw]

theorem busRead_reserved (s : State) (ini : Nat) {a : Nat} (hl : a ≠ TRN_LAYOUT_DATA_DATA.addr) (hp : a ≠ CHN_PM_DATA_DATA.addr)
    (hr : isReg a = true) (hw : wordAt a = none) : busRead s ini a = (s, scOk, 0) := by
  rw [busRead, if_neg hl, if_neg hp, if_pos hr, hw]

theorem busWrite_reserved (s : State) (ini v mask : Nat) {a : Nat} (hr : isReg a = true) (hw : wordAt a = none) :
    busWrite s ini a v mask = (s, scOk) := by
  rw [busWrite, if_pos hr, hw]

theorem busRead_memory (s : State) (ini : Nat) {a : Nat} (hr : isReg a = false) (ha : isAlias a = false) :
    busRead s ini a = if badWord s a = true then (s, scTargetErr, 0)
      else if memThere a = true ∨ isNor a = true then (s, scOk, memWord s a)
      else if 0x5000_0000 ≤ a ∧ a < 0x5010_0000 then (s, scOk, 0) else (s, scTargetErr, 0) := by
  have hl : a ≠ TRN_LAYOUT_DATA_DATA.addr := by rintro rfl; exact absurd hr (by decide)
  have hp : a ≠ CHN_PM_DATA_DATA.addr := by rintro rfl; exact absurd hr (by decide)
  rw [busRead, if_neg hl, if_neg hp, if_neg (by simp [hr]), if_neg (by simp [ha])]

/-! ## The low word of a 64-bit register (R5, R391) -/

/-- A table of which one key has just been listed anew finds it. -/
theorem find?_tins {α : Type} (m : List (Nat × α)) (k : Nat) (v : α) (h : ∀ p ∈ m, p.1 ≠ k) :
    (tins m k v).find? (·.1 == k) = some (k, v) := by
  induction m with
  | nil => simp [tins]
  | cons p m ih =>
    have hp : p.1 ≠ k := h p (by simp)
    obtain ⟨i, x⟩ := p
    have hi : (i == k) = false := beq_false_of_ne hp
    by_cases hlt : k < i
    · simp [tins, hlt]
    · simp only [tins, hlt, if_false, List.find?_cons, hi]
      exact ih fun q hq => h q (by simp [hq])

/-- An initiator's latch listed anew is found by its key, and every other is as it was. -/
theorem latch_anew (m : List (Nat × Word)) (k : Nat) (v : Word) :
    ((tins (tdel m k) k v).find? (·.1 == k)).map (·.2.toNat) = some v.toNat ∧
    ∀ j, j ≠ k → tget (fun _ => 0) (tins (tdel m k) k v) j = tget (fun _ => 0) m j := by
  refine ⟨by rw [find?_tins _ _ _ (tdel_ne m k)]; rfl, fun j hj => ?_⟩
  rw [tget_tins _ _ _ _ _ (tdel_ne m k), if_neg hj, tget_tdel, if_neg hj]

theorem partsBut_overlay (l : List View) (x : Cell × State) : partsBut [.fresh] x.2 (l.foldl overlay x).2 := by
  induction l generalizing x with
  | nil => exact partsBut_refl _ _
  | cons v l ih =>
    refine partsBut_trans ?_ (ih (overlay x v))
    unfold overlay
    split
    · exact partsBut_refl _ _
    · intro p hp
      cases p <;> simp [Part.same] at hp ⊢

/-- A read uses up free values at most. -/
theorem partsBut_seenCell (s : State) (a : Nat) : partsBut [.fresh] s (seenCell s a).2 := partsBut_overlay _ (cellAt s a, s)

theorem partsBut_clearRc (s : State) (r : RegSpec) (cell half : Nat) : partsBut [.regs] s (clearRc s r cell half) := by
  simp only [clearRc]
  split
  · exact partsBut_refl _ _
  · intro p hp
    cases p <;> simp [Part.same, setCellWord] at hp ⊢

/-- A read of the low word of a 64-bit register latches the high one for its initiator. -/
theorem readWord_low (s : State) (ini : Nat) {a : Nat} {r : RegSpec} (hf : a ≠ BELL_FT_FRAC_FRAC.addr) (hw : r.wide = true)
    (hr : isRecord a = false) : partsBut [.regs, .wide, .fresh] s (readWord s ini a r a 0).1 ∧
    (readWord s ini a r a 0).1.wide.latch = tins (tdel s.wide.latch (latchKey ini a)) (latchKey ini a)
      (BitVec.ofNat 32 (cellGet (seenCell s a).1 32 32)) := by
  obtain ⟨u, hu⟩ : ∃ u, u = clearRc (seenCell s a).2 r a 0 := ⟨_, rfl⟩
  have hp : partsBut [.regs, .wide, .fresh] s u := by
    rw [hu]
    exact partsBut_trans (partsBut_mono (partsBut_seenCell s a) (by decide)) (partsBut_mono (partsBut_clearRc _ r a 0) (by decide))
  have hwide : u.wide = s.wide := by
    rw [hu, partsBut_clearRc _ r a 0 .wide (by decide), partsBut_seenCell s a .wide (by decide)]
  have hw' : ∀ w, partsBut [.regs, .wide, .fresh] u { u with wide := w } := by
    intro w p hp
    cases p <;> simp [Part.same] at hp ⊢
  have hn : ¬((!r.wide) = true ∨ isRecord a = true) := by simp [hw, hr]
  simp only [readWord, if_neg hf, if_neg hn, if_true, ← hu, ← hwide]
  split
  · exact ⟨partsBut_trans hp (hw' _), rfl⟩
  · exact ⟨partsBut_trans hp (hw' _), rfl⟩

/-- A write of the low word of a 64-bit register stages it for its initiator. -/
theorem writeWord_low (s : State) (ini v : Nat) {a : Nat} {r : RegSpec} (hw : r.wide = true) (hr : isRecord a = false)
    (ht : trgCell a = false) : writeWord s ini r a 0 (v % 2 ^ 32) (2 ^ 32 - 1) = (stageLow s ini a (v % 2 ^ 32), scOk) := by
  have hm : ∀ old, rmwWord old (2 ^ 32 - 1) (v % 2 ^ 32) = v % 2 ^ 32 := fun old => by
    have h := Nat.and_two_pow_sub_one_eq_mod (v % 2 ^ 32) 32
    rw [Nat.mod_mod] at h
    simp only [rmwWord, h]
    simp
  rw [writeWord, if_neg (by simp [hw, hr]), if_neg (by simp [ht]), if_pos rfl, hm]

theorem wideLowRead_latches {s : State} {ini a : Nat} {r : RegSpec} (hb : s.rst.busy = false) (ha : a < 2 ^ 32)
    (h4 : a % 4 = 0) (hreg : isReg a = true) (hst : isTrdStore a = false) (hl : a ≠ TRN_LAYOUT_DATA_DATA.addr)
    (hp : a ≠ CHN_PM_DATA_DATA.addr) (hf : a ≠ BELL_FT_FRAC_FRAC.addr) (hw : r.wide = true) (hrec : isRecord a = false)
    (hat : wordAt a = some (r, a, 0)) :
    ∃ (t : State) (x : Nat), exec (.wideLowRead ini a) s = .next (t.emit (.busRsp ini scOk x)) ∧
      (t.wide.latch.find? (·.1 == latchKey ini a)).map (·.2.toNat) = some (cellGet (seenCell s a).1 32 32) ∧
      (∀ k, k ≠ latchKey ini a → tget (fun _ => 0) t.wide.latch k = tget (fun _ => 0) s.wide.latch k) ∧
      partsBut [.regs, .wide, .fresh] s t := by
  obtain ⟨hparts, hlatch⟩ := readWord_low s ini hf hw hrec
  obtain ⟨hfind, hother⟩ := latch_anew s.wide.latch (latchKey ini a) (BitVec.ofNat 32 (cellGet (seenCell s a).1 32 32))
  have hlt : cellGet (seenCell s a).1 32 32 < 2 ^ 32 := Nat.mod_lt _ (by decide)
  refine ⟨(readWord s ini a r a 0).1, (readWord s ini a r a 0).2 % 2 ^ 32, ?_, ?_, ?_, hparts⟩
  · rw [exec_wideLowRead hb ha, cpuAccess_now (.inl hst) (.inl (isNor_of_reg hreg)),
      cpuDo_read h4 (busRead_register s ini hl hp hreg hat)]
    rfl
  · rw [hlatch, hfind, BitVec.toNat_ofNat, Nat.mod_eq_of_lt hlt]
  · rw [hlatch]
    exact hother

theorem wideLowWrite_stages {s : State} {ini a : Nat} {r : RegSpec} (v : Nat) (hb : s.rst.busy = false) (ha : a < 2 ^ 32)
    (h4 : a % 4 = 0) (hreg : isReg a = true) (hst : isTrdStore a = false) (hw : r.wide = true) (hrec : isRecord a = false)
    (hat : wordAt a = some (r, a, 0)) (ht : trgCell a = false) :
    ∃ t : State, exec (.wideLowWrite ini a v) s = .next (t.emit (.busRsp ini scOk 0)) ∧
      (t.wide.staged.find? (·.1 == latchKey ini a)).map (·.2.toNat) = some (v % 2 ^ 32) ∧
      (∀ k, k ≠ latchKey ini a → tget (fun _ => 0) t.wide.staged k = tget (fun _ => 0) s.wide.staged k) ∧ partsBut [.wide] s t := by
  obtain ⟨hfind, hother⟩ := latch_anew s.wide.staged (latchKey ini a) (BitVec.ofNat 32 (v % 2 ^ 32))
  have hs : sizeOk ini 4 a = true := by rw [sizeOk_word]; exact decide_eq_true h4
  have hwr : busWrite s ini (a / 4 * 4) (v % 2 ^ (8 * 4) * 2 ^ (8 * (a % 4))) ((2 ^ (8 * 4) - 1) * 2 ^ (8 * (a % 4))) =
      (stageLow s ini a (v % 2 ^ 32), scOk) := by
    have hm : (2 ^ (8 * 4) - 1) * 2 ^ (8 * 0) = 2 ^ 32 - 1 := by norm_num
    have hv : v % 2 ^ (8 * 4) * 2 ^ (8 * 0) % 2 ^ 32 = v % 2 ^ 32 := by omega
    rw [Nat.div_mul_cancel (Nat.dvd_of_mod_eq_zero h4), h4, hm, busWrite, if_pos hreg, hat]
    simp only [hv, writeWord_low s ini v hw hrec ht]
  refine ⟨stageLow s ini a (v % 2 ^ 32), ?_, ?_, hother, fun p hp => ?_⟩
  · rw [exec_wideLowWrite hb ha, cpuAccess_now (.inl hst) (.inl (isNor_of_reg hreg)), cpuDo_write hs hwr]
    simp [scOk, scTargetErr]
  · simpa [stageLow] using hfind
  · cases p <;> simp [Part.same, stageLow] at hp ⊢

/-- Settles O4: an access waits, is refused or is carried out as `cpuAccess` says of its size and address; a field under a
write is `fieldWritten`; the words of a 64-bit register are latched and staged by `latch_anew`. -/
theorem localAccessesFollowTheMap : Obligations.LocalAccessesFollowTheMap := by
  unfold Obligations.LocalAccessesFollowTheMap
  refine ⟨fun s ini size a v same hb ha => ?_, fun l f old v mask lk hl hf => ?_, regWrite_spec,
    fun s ini a v r hb ha h4 hreg hst hlay hpm hfrac hw hrec hat =>
      ⟨wideLowRead_latches hb ha h4 hreg hst hlay hpm hfrac hw hrec hat,
       fun ht => wideLowWrite_stages v hb ha h4 hreg hst hw hrec hat ht⟩⟩
  · have hword : a % 4 = 0 → sizeOk ini 4 a = true := fun h => by rw [sizeOk_word]; exact decide_eq_true h
    refine ⟨sizeOk_word ini a, sizeOk_mgmt a, sizeOk_register ini, fun h => ?_, fun h c hc => ?_,
      fun h hst hph => ⟨fun h4 => ?_, fun h4 => ?_⟩, fun h hst hph h4 => ⟨_, rfl, ?_⟩, fun h hn hv => ⟨_, rfl, ?_⟩, fun h hst t c hw => ?_, fun h hst hn t c x hr => ?_,
      fun hr hw => ⟨busWrite_reserved s ini v _ hr hw, fun hl hp => busRead_reserved s ini hl hp hr hw⟩,
      fun hr hal => ⟨fun hbad => ?_, fun hbad hm => ?_⟩⟩
    · rw [exec_registerWrite hb ha, cpuAccess_badSize h]
    · have hs : sizeOk ini 4 a = false := by rw [sizeOk_word]; exact decide_eq_false h
      rcases hc with rfl | rfl | rfl
      · rw [exec_rcRead hb ha, cpuAccess_badSize hs]
      · rw [exec_wideLowRead hb ha, cpuAccess_badSize hs]
      · rw [exec_wideLowWrite hb ha, cpuAccess_badSize hs]
    · rw [exec_registerWrite hb ha, cpuAccess_storage h hst hph, if_pos h4]
    · exact ⟨_, rfl, by rw [exec_registerWrite hb ha, cpuAccess_storage h hst hph, if_neg h4]⟩
    · rw [exec_rcRead hb ha, cpuAccess_storage (hword h) hst hph, if_neg h4]
    · rw [exec_rcRead hb ha, cpuAccess_flash (hword h) hn hv]
    · rw [exec_registerWrite hb ha, cpuAccess_now hst (.inr (.inr (by simp))), cpuDo_write h hw]
    · rw [exec_rcRead hb ha, cpuAccess_now hst (hn.imp_right .inl), cpuDo_read h hr]
    · rw [busRead_memory s ini hr hal, if_pos hbad]
    · rw [busRead_memory s ini hr hal, if_neg (by simp [hbad]), if_pos hm]
  · rw [bits_fieldsWritten hl hf]
    refine ⟨fun hm => ?_, fun hm => fieldWritten_full hm old v lk, ?_⟩
    · rw [fieldWritten, hm, Nat.and_zero, fieldAfter_unnamed (bits_lt _ _ _)]
    · rintro (h | h | h | ⟨h, rfl⟩) <;> rw [fieldWritten, h] <;> rfl

end Sys2Proof.Machine

/-! SUPPORT. Obligation O37: the queues of a serial channel, its enabling and stopping, CTS, and poll memory. -/

namespace Sys2Proof.Machine

/-! ## Registers of a channel -/

theorem partsBut_setChn (s : State) (n : Nat) (x : Chn) : partsBut [.chns] s (s.setChn n x) := by
  intro p hp
  cases p <;> simp [Part.same] at hp ⊢

/-- A counter that saturates reads the lesser of its sum and its greatest value. -/
theorem rd_addSat_self (s : State) (f : Fld) (k : Nat) (h : f.lo + f.w ≤ 64) :
    rd (addSat s f k) f = min (rd s f + k) (2 ^ f.w - 1) := by
  have : 0 < 2 ^ f.w := by positivity
  rw [addSat, rd_wr_self _ _ _ h, Nat.mod_eq_of_lt (by omega)]

theorem regsOnly_addSat (s : State) (f : Fld) (k : Nat) : regsOnly [f.addr] s (addSat s f k) := regsOnly_wr s f _

/-- The events of a channel and its counters of dropped and aborted frames are different registers. -/
theorem chnEvt_ne_cntC (n : Nat) : (CHN_EVT_TXQ_FULL n).addr ≠ (CHN_CNT_C_TX_ABORT n).addr := by
  simp only [CHN_EVT_TXQ_FULL, CHN_CNT_C_TX_ABORT]; omega

/-- A received frame that is discarded is counted (R222). -/
theorem rxDrop_counts (s : State) (n k : Nat) :
    rd (rxDrop s n k) (CHN_CNT_C_RX_DROP n) = min (rd s (CHN_CNT_C_RX_DROP n) + k) (2 ^ (CHN_CNT_C_RX_DROP 0).w - 1) ∧
    regsOnly [(CHN_CNT_C_RX_DROP n).addr] s (rxDrop s n k) :=
  ⟨rd_addSat_self s _ k (by simp [CHN_CNT_C_RX_DROP]), regsOnly_addSat _ _ _⟩

/-! ## A push to the TX queue (R221) -/

theorem length_leBytes (k v : Nat) : (leBytes k v).length = k := by
  induction k generalizing v with
  | zero => rfl
  | succ k ih => simp [leBytes, ih]

/-- The bytes of the TX window that a push takes. -/
def txWindow (s : State) (n len : Nat) : List Byte :=
  ((List.range 96).flatMap fun k => leBytes 4 (rd s (CHN_TXW_DATA n k))).take len

theorem length_txWindow (s : State) (n : Nat) {len : Nat} (h : len ≤ 384) : (txWindow s n len).length = len := by
  simp [txWindow, List.length_flatMap, length_leBytes, h]

section
variable {s : State} {n len : Nat}

/-- A push of a channel that has a TX queue or refuses one (R221). -/
theorem exec_chnTxpush (hb : s.rst.busy = false) (hn : n < 48) (h1 : 1 ≤ len) (h384 : len ≤ 384) (ini : Nat) :
    exec (.chnTxpush ini n len) s = .next (if chnMode s n = 5 then answerMgmt s ini scOk
      else if chnMode s n = 4 then answerMgmt (txAbort (wr s (CHN_EVT_TXQ_FULL n) 1) n) ini scDenied
      else if 512 * txqUnits s n < txUsed s n + queued len then answerMgmt (wr s (CHN_EVT_TXQ_FULL n) 1) ini scRetry
      else answerMgmt (s.setChn n { s.chn n with txq := (s.chn n).txq ++ [txWindow s n len] }) ini scOk) := by
  have hc : (48 ≤ n ∨ len = 0 ∨ 384 < len ∨ chnMode s n = mCan) ↔ chnMode s n = 5 := by
    simp only [mCan]; omega
  change execChnTxpush ini n len s = _
  rw [execChnTxpush, whenAlive_alive _ _ hb]
  simp only [hc]
  rfl

theorem txqFull_set (s : State) (n : Nat) : rd (wr s (CHN_EVT_TXQ_FULL n) 1) (CHN_EVT_TXQ_FULL n) = 1 :=
  rd_wr_self _ _ _ (by simp [CHN_EVT_TXQ_FULL])

/-- An SSI channel's refusal: TXQ_FULL is set and the abort counted (R219, R221). -/
theorem txAbort_refused (s : State) (n : Nat) : ∃ t, txAbort (wr s (CHN_EVT_TXQ_FULL n) 1) n = t ∧
    rd t (CHN_EVT_TXQ_FULL n) = 1 ∧
    rd t (CHN_CNT_C_TX_ABORT n) = min (rd s (CHN_CNT_C_TX_ABORT n) + 1) (2 ^ (CHN_CNT_C_TX_ABORT 0).w - 1) ∧
    regsOnly [(CHN_EVT_TXQ_FULL n).addr, (CHN_CNT_C_TX_ABORT n).addr] s t := by
  refine ⟨_, rfl, ?_, ?_, regsOnly_trans (regsOnly_mono (regsOnly_wr s _ 1) (by simp))
    (regsOnly_mono (regsOnly_addSat _ _ 1) (by simp))⟩
  · rw [txAbort, incSat, addSat, rd_wr_addr _ _ _ _ (chnEvt_ne_cntC n), txqFull_set]
  · rw [txAbort, incSat, rd_addSat_self _ _ _ (by simp [CHN_CNT_C_TX_ABORT]), rd_wr_addr _ _ _ _ (chnEvt_ne_cntC n).symm]
    rfl

end

/-! ## Received characters (R216, R222) -/

/-- A frame that needs no check and fits is stored; one that does not fit is counted as dropped (R222). -/
theorem rxStore_unchecked (s : State) (n ns : Nat) (bs : List Byte) (tr ln : Bool) (h : bitOf (rd s (CHN_CFG_QUSE n)) 1 = false) :
    rxStore s n ns bs tr ln = if rxSize s n < rxUsed s n + queued bs.length then wr (rxDrop s n 1) (CHN_EVT_RXQ_OVF n) 1
      else s.setChn n { s.chn n with rxq := (s.chn n).rxq ++ [⟨bs, ns, false, tr, ln⟩], seen := true } := by
  simp [rxStore, h]

theorem rxOverflow (s : State) (n : Nat) : ∃ t, wr (rxDrop s n 1) (CHN_EVT_RXQ_OVF n) 1 = t ∧ rd t (CHN_EVT_RXQ_OVF n) = 1 ∧
    rd t (CHN_CNT_C_RX_DROP n) = min (rd s (CHN_CNT_C_RX_DROP n) + 1) (2 ^ (CHN_CNT_C_RX_DROP 0).w - 1) ∧
    regsOnly [(CHN_EVT_RXQ_OVF n).addr, (CHN_CNT_C_RX_DROP n).addr] s t := by
  obtain ⟨hd, hr⟩ := rxDrop_counts s n 1
  refine ⟨_, rfl, rd_wr_self _ _ _ (by simp [CHN_EVT_RXQ_OVF]), ?_,
    regsOnly_trans (regsOnly_mono hr (by simp)) (regsOnly_mono (regsOnly_wr _ _ 1) (by simp))⟩
  rw [rd_wr_addr _ _ _ _ (by simp only [CHN_CNT_C_RX_DROP, CHN_EVT_RXQ_OVF]; omega), hd]

theorem partEnd_none {s : State} {n : Nat} (h : (s.chn n).part = none) : partEnd s n = s := by simp [partEnd, h]

theorem partEnd_some {s : State} {n ns : Nat} {bs : List Byte} {ln : Bool} (h : (s.chn n).part = some (ns, bs, ln)) :
    partEnd s n = rxStore (s.setChn n { s.chn n with part := none }) n ns (bs.take (rd s (CHN_RXEND_RX_MAX n)))
      (decide (rd s (CHN_RXEND_RX_MAX n) < bs.length)) ln := by
  simp [partEnd, h]

/-- A line error is counted and sets its event: what a channel has beside its registers stays. -/
theorem chn_lineErr (s : State) (n k : Nat) (b : Bool) : (if b = true then lineErr s n else s).chn k = s.chn k := by
  cases b <;> simp [lineErr, incSat, addSat]

section
variable {s u : State} {n ns ch : Nat} (hu : u = if bitOf ch 9 = true then lineErr s n else s)
include hu

/-- An address byte that names another station ends the frame and has what follows discarded (R216). -/
theorem rxChar_elsewhere (h7 : modep u n 7 1 = 1) (h8 : bitOf ch 8 = true) (ha : ch % 256 ≠ modep u n 24 8) :
    rxChar s n ns ch = (partEnd u n).setChn n { (partEnd u n).chn n with other := true } := by
  simp [rxChar, ← hu, h7, h8, ha]

/-- A byte behind such an address byte is discarded. -/
theorem rxChar_discarded (h7 : modep u n 7 1 = 1) (h8 : bitOf ch 8 = false) (ho : (s.chn n).other = true) :
    rxChar s n ns ch = u.setChn n { u.chn n with other := true } := by
  have h : (u.chn n).other = true := by rw [hu, chn_lineErr, ho]
  simp [rxChar, ← hu, h7, h8, h]

/-- A byte that no address byte precedes joins its frame. -/
theorem rxChar_joins (hj : modep u n 7 1 = 0 ∨ (bitOf ch 8 = false ∧ (s.chn n).other = false)) :
    (rd u (CHN_CFG_RXQ_EN n) = 0 → rxChar s n ns ch = rxDrop (u.setChn n { u.chn n with other := false }) n 1) ∧
    (rd u (CHN_CFG_RXQ_EN n) = 1 → ∀ t0 bs ln all v, (s.chn n).part.getD (ns, [], false) = (t0, bs, ln) →
      all = (bs ++ [BitVec.ofNat 8 ch]).take (rd u (CHN_RXEND_RX_MAX n) + 1) →
      v = u.setChn n { u.chn n with other := false, part := some (t0, all, ln || bitOf ch 9) } → rxChar s n ns ch =
        if (rd u (CHN_RXEND_END n) = 0 ∧ rd u (CHN_RXEND_RX_MAX n) ≤ all.length) ∨
          (rd u (CHN_RXEND_END n) = 1 ∧ ch % 256 = rd u (CHN_RXEND_DELIM n)) then partEnd v n else v) := by
  have hc : u.chn n = s.chn n := by rw [hu, chn_lineErr]
  have hf : (decide (modep u n 7 1 = 1) && bitOf ch 8) = false := by
    rcases hj with h | ⟨h, -⟩ <;> simp [h]
  have ho : (decide (modep u n 7 1 = 1) && (if bitOf ch 8 = true then decide (ch % 256 ≠ modep u n 24 8) else (u.chn n).other)) =
      false := by
    rcases hj with h | ⟨h, h'⟩
    · simp [h]
    · simp [h, hc, h']
  refine ⟨fun he => ?_, fun he t0 bs ln all v hp hall hv => ?_⟩
  · have hfl : (!flag u (CHN_CFG_RXQ_EN n)) = true := by simp [flag, he]
    simp only [rxChar, ← hu, hf, ho, hfl, Bool.false_eq_true, if_false, if_true]
  · have hfl : (!flag u (CHN_CFG_RXQ_EN n)) = false := by simp [flag, he]
    rw [← hc] at hp
    simp only [rxChar, ← hu, hf, ho, hfl, hp, Bool.false_eq_true, if_false, ← hall, ← hv]

end

/-- A field reads the same after cycles have passed, and so does what follows from fields alone. -/
theorem chnMode_advance (s : State) (dt n : Nat) : chnMode (advance s dt) n = chnMode s n := by simp [chnMode]

theorem modep_advance (s : State) (dt n lo w : Nat) : modep (advance s dt) n lo w = modep s n lo w := by simp [modep]

theorem bitsNs_advance (s : State) (dt n k : Nat) : bitsNs (advance s dt) n k = bitsNs s n k := by simp [bitsNs]

theorem deLag_advance (s : State) (dt n : Nat) : deLag (advance s dt) n = deLag s n := by simp [deLag, modep_advance]

section
variable {s u : State} {n dt : Nat} {cs : List (Nat × Nat)} (hu : u = advance s dt) (hb : s.rst.busy = false)
  (hn : n < 48) (hst : rd s (CHN_STAT_STATE n) = 2) (hm : chnMode s n = 1)
include hu hb hn hst hm

/-- What comes while an attempt runs belongs to its response. -/
theorem exec_rxFrameEnd_attempt {bs : List Byte} (hx : (s.chn n).xfer = .attempt bs) : exec (.rxFrameEnd dt n cs) s =
    .next (collect u n (cs.map fun p => BitVec.ofNat 8 p.2) (cs.any fun p => bitOf p.2 9)) := by
  have hc : ¬(48 ≤ n ∨ chnState (advance s dt) n ≠ cRun ∨ chnMode (advance s dt) n ≠ mUart) := by
    simp [chnState, hst, cRun, chnMode_advance, hm, mUart, hn]
  change execRxFrameEnd dt n cs s = _
  simp only [execRxFrameEnd, whenAlive_alive _ _ (show (advance s dt).rst.busy = false by simpa using hb), if_neg hc,
    State.chn_advance, hx, hu]

/-- Characters that do not fall under DE are received one by one (R216, R222). -/
theorem exec_rxFrameEnd_queue (hx : ∀ bs, (s.chn n).xfer ≠ .attempt bs) (v : State)
    (hv : v = (cs.filter fun p => !decide (modep s n 4 1 = 1 ∧ (s.chn n).sent ≠ 0 ∧ (s.chn n).startAt ≤ ftNs u - p.1 ∧
        ((s.chn n).ctsLeft ≠ none ∨ ftNs u - p.1 < (s.chn n).sent + bitsNs s n (deLag s n)))).foldl
      (fun w p => rxChar w n (ftNs u - p.1) p.2) u) :
    exec (.rxFrameEnd dt n cs) s = .next (if 2 ≤ rd s (CHN_RXEND_END n) then partEnd v n else v) := by
  have hc : ¬(48 ≤ n ∨ chnState (advance s dt) n ≠ cRun ∨ chnMode (advance s dt) n ≠ mUart) := by
    simp [chnState, hst, cRun, chnMode_advance, hm, mUart, hn]
  have hf : (cs.filter fun p => !(modep s n 4 1 = 1 && (s.chn n).sent ≠ 0 && decide ((s.chn n).startAt ≤ ftNs u - p.1)
        && ((s.chn n).ctsLeft.isSome || decide (ftNs u - p.1 < (s.chn n).sent + bitsNs s n (deLag s n))))) =
      cs.filter fun p => !decide (modep s n 4 1 = 1 ∧ (s.chn n).sent ≠ 0 ∧ (s.chn n).startAt ≤ ftNs u - p.1 ∧
        ((s.chn n).ctsLeft ≠ none ∨ ftNs u - p.1 < (s.chn n).sent + bitsNs s n (deLag s n))) := by
    refine List.filter_congr fun p _ => ?_
    congr 1
    cases (s.chn n).ctsLeft <;> simp [Bool.and_assoc]
  rw [← hf, hu] at hv
  change execRxFrameEnd dt n cs s = _
  simp only [execRxFrameEnd, whenAlive_alive _ _ (show (advance s dt).rst.busy = false by simpa using hb), if_neg hc,
    State.chn_advance, modep_advance, bitsNs_advance, deLag_advance, rd_advance, ← hv]

end

/-! ## Commands of a channel (R216, R223, R236 to R238) -/

section
variable {s : State} {n : Nat} (hb : s.rst.busy = false) (hn : n < 48)
include hb hn

/-- The oldest frame leaves the RX queue; with forwarding, firmware's POP sends it as an event (R223). -/
theorem exec_chnPopRx {f : RxFrame} {rest : List RxFrame} (hq : (s.chn n).rxq = f :: rest) (ini : Nat) :
    (rd s (CHN_CFG_FWD_EN n) = 0 → exec (.chnPopRx ini n) s = .next (s.setChn n { s.chn n with rxq := rest })) ∧
    (rd s (CHN_CFG_FWD_EN n) = 1 → ini < 2 → exec (.chnPopRx ini n) s = .next (sendEvent
      (s.setChn n { s.chn n with rxq := rest }) (rd s (CHN_FWD_HUB n)) (rd s (CHN_FWD_DPORT n)) n (chnEvent n f))) := by
  have h48 : ¬48 ≤ n := by omega
  refine ⟨fun hf => ?_, fun hf hi => ?_⟩
  · change execChnPopRx ini n s = _
    simp [execChnPopRx, whenAlive_alive _ _ hb, hq, h48, flag, hf]
  · have h2 : ¬2 ≤ ini := by omega
    change execChnPopRx ini n s = _
    simp [execChnPopRx, whenAlive_alive _ _ hb, hq, h48, flag, hf, h2]

theorem exec_chnFlushTx : exec (.chnFlushTx n) s = .next (s.setChn n { s.chn n with txq := [] }) := by
  change execChnFlushTx n s = _
  rw [execChnFlushTx, whenAlive_alive _ _ hb, if_neg (by omega)]

theorem exec_chnFlushRx : exec (.chnFlushRx n) s = .next (s.setChn n { s.chn n with rxq := [] }) := by
  change execChnFlushRx n s = _
  rw [execChnFlushRx, whenAlive_alive _ _ hb, if_neg (by omega)]

/-- CTS is noted where no transmission heeds it (R216). -/
theorem exec_ctsChange_idle (b : Bool) (h : ¬(chnMode s n = 1 ∧ modep s n 5 1 = 1 ∧ (s.chn n).xfer ≠ .none)) :
    exec (.ctsChange n b) s = .next (s.setChn n { s.chn n with cts := b }) := by
  have h' : ¬(chnMode s n = mUart ∧ modep s n 5 1 = 1 ∧ (s.chn n).xfer ≠ .none) := h
  change execCtsChange n b s = _
  simp only [execCtsChange, whenAlive_alive _ _ hb, if_neg (show ¬48 ≤ n by omega), if_neg h']

/-- Under RTSCTS a transmission stops at the next character, and goes on from there (R216). -/
theorem exec_ctsChange_sending (h : chnMode s n = 1 ∧ modep s n 5 1 = 1 ∧ (s.chn n).xfer ≠ .none) :
    (∀ k, (s.chn n).ctsLeft = none → k = bitsNs s n (((s.chn n).sent - ftNs s) / bitsNs s n (charBits s n) * charBits s n) →
      exec (.ctsChange n false) s =
        .next (s.setChn n { s.chn n with cts := false, ctsLeft := if k = 0 then none else some k })) ∧
    (∀ k, (s.chn n).ctsLeft = some k → exec (.ctsChange n true) s =
      .next (s.setChn n { s.chn n with cts := true, sent := ftNs s + k, ctsLeft := none })) := by
  have h48 : ¬48 ≤ n := by omega
  have h' : chnMode s n = mUart ∧ modep s n 5 1 = 1 ∧ (s.chn n).xfer ≠ .none := h
  refine ⟨fun k hl hk => ?_, fun k hl => ?_⟩
  · change execCtsChange n false s = _
    simp only [execCtsChange, whenAlive_alive _ _ hb, if_neg h48, if_pos h', hl, ← hk]
  · change execCtsChange n true s = _
    simp only [execCtsChange, whenAlive_alive _ _ hb, if_neg h48, if_pos h', hl]

/-- ENABLE of a STOPPING channel is remembered (R238). -/
theorem exec_chnEnable_stopping (h : rd s (CHN_STAT_STATE n) = 3) :
    exec (.chnEnable n) s = .next (wr s (CHN_STAT_PEND_ON n) 1) := by
  change execChnEnable n s = _
  simp [execChnEnable, whenAlive_alive _ _ hb, chnState, h, cOff, cFailed, cStopping, hn]

/-- ENABLE of an IDLE or running channel clears DIS, and the channel runs where it may (R236). -/
theorem exec_chnEnable_idle (h : rd s (CHN_STAT_STATE n) = 1 ∨ rd s (CHN_STAT_STATE n) = 2) :
    exec (.chnEnable n) s = .next (chnGo (wr s (CHN_STAT_DIS n) 0) n) := by
  change execChnEnable n s = _
  rcases h with h | h <;> simp [execChnEnable, whenAlive_alive _ _ hb, chnState, h, cOff, cFailed, cStopping, hn]

theorem exec_chnDisable (h : rd s (CHN_STAT_STATE n) = 1 ∨ rd s (CHN_STAT_STATE n) = 2 ∨ rd s (CHN_STAT_STATE n) = 3) :
    exec (.chnDisable n) s = .next (chnStop (wrs s [(CHN_STAT_DIS n, 1), (CHN_STAT_PEND_ON n, 0)]) n) := by
  have hc : ¬(48 ≤ n ∨ chnState s n = cOff ∨ chnState s n = cFailed) := by
    simp only [chnState, cOff, cFailed]; omega
  change execChnDisable n s = _
  rw [execChnDisable, whenAlive_alive _ _ hb, if_neg hc]

/-- A STOPPING channel comes to IDLE at its boundary, or when 2 ms have passed (R236, R237). -/
theorem exec_chnStoppingEnd {dt : Nat} {u : State} (hu : u = advance s dt) (h : rd s (CHN_STAT_STATE n) = 3) (late : Bool) :
    exec (.chnStoppingEnd dt n late) s = .next (if late = true then chnIdle (advanceTo u ((s.chn n).stopAt + 2000000)) n
      else if (s.chn n).xfer = .none then chnIdle u n
      else if chnMode s n = 1 ∧ uartSends u n = true then chnIdle (advanceTo u (ftNs u + bitsNs u n (deLag u n))) n
      else chnIdle (xferEnd u n) n) := by
  have hb' : u.rst.busy = false := by simpa [hu] using hb
  have hc : ¬(48 ≤ n ∨ chnState u n ≠ cStopping) := by simp [chnState, hu, h, cStopping, hn]
  have hchn : u.chn n = s.chn n := by rw [hu, State.chn_advance]
  have hm : chnMode u n = chnMode s n := by rw [hu, chnMode_advance]
  change execChnStoppingEnd dt n late s = _
  simp only [execChnStoppingEnd, ← hu, whenAlive_alive _ _ hb', if_neg hc, hchn, hm, mUart]

end

/-- The flags of CHN_STAT after a write of one of them, and the channel's state. -/
theorem chnDisable_flags (s : State) (n : Nat) : ∃ t, wrs s [(CHN_STAT_DIS n, 1), (CHN_STAT_PEND_ON n, 0)] = t ∧
    rd t (CHN_STAT_DIS n) = 1 ∧ rd t (CHN_STAT_PEND_ON n) = 0 ∧ rd t (CHN_STAT_STATE n) = rd s (CHN_STAT_STATE n) ∧
    regsOnly [(CHN_STAT_DIS n).addr] s t := by
  refine ⟨_, rfl, ?_, rd_wr_self _ _ _ (by simp [CHN_STAT_PEND_ON]), ?_,
    regsOnly_trans (regsOnly_wr s (CHN_STAT_DIS n) 1) (regsOnly_wr _ (CHN_STAT_PEND_ON n) 0)⟩
  · simp only [wrs_cons, wrs_nil]
    rw [rd_wr_bits _ _ _ _ (by simp [CHN_STAT_PEND_ON]) (by simp [CHN_STAT_PEND_ON, CHN_STAT_DIS]),
      rd_wr_self _ _ _ (by simp [CHN_STAT_DIS])]
    rfl
  · simp only [wrs_cons, wrs_nil]
    rw [rd_wr_bits _ _ _ _ (by simp [CHN_STAT_PEND_ON]) (by simp [CHN_STAT_PEND_ON, CHN_STAT_STATE]),
      rd_wr_bits _ _ _ _ (by simp [CHN_STAT_DIS]) (by simp [CHN_STAT_DIS, CHN_STAT_STATE])]

/-! ## A STOPPING channel comes to IDLE (R236, R237) -/

theorem partsBut_csLevel (s : State) (n k : Nat) (b : Bool) : partsBut [.lines] s (csLevel s n k b) := by
  unfold csLevel
  split
  · exact partsBut_refl _ _
  · split
    · exact partsBut_refl _ _
    · exact partsBut_setLine _ _ _

theorem partsBut_csHold (s : State) (n : Nat) (b : Bool) : partsBut [.lines] s (csHold s n b) := by
  unfold csHold
  split
  · refine partsBut_each _ _ _ s fun u k => ?_
    split
    · exact partsBut_refl _ _
    · exact partsBut_trans (partsBut_csLevel u n k true) (partsBut_setLine _ _ _)
  · exact partsBut_refl _ _

/-- No access of the Ferryman waits for the channel or runs on it. -/
theorem ferryStop_none {s : State} {n : Nat} (hf : (s.chn n).ferry = []) (hx : ∀ k, (s.chn n).xfer ≠ .ferry k) :
    ferryStop s n = s.setChn n { s.chn n with ferry := [], lock := none } := by
  cases h : (s.chn n).xfer with
  | ferry k => exact absurd h (hx k)
  | none => simp [ferryStop, h, hf]
  | attempt bs => simp [ferryStop, h, hf]
  | frame bs => simp [ferryStop, h, hf]

/-- A frame is partly sent. -/
def partTx (s : State) (n : Nat) : Bool :=
  match (s.chn n).xfer with
  | .frame _ => true
  | _ => false

/-- A frame that is partly sent is counted as aborted. -/
def txCounted (s : State) (n : Nat) : State := if partTx s n then txAbort s n else s

/-- A frame that is partly received is counted as dropped. -/
def rxCounted (s : State) (n : Nat) : State := if (s.chn n).part.isSome then rxDrop s n 1 else s

theorem txCounted_spec (s : State) (n : Nat) :
    rd (txCounted s n) (CHN_CNT_C_TX_ABORT n) = (match (s.chn n).xfer with
      | .frame _ => min (rd s (CHN_CNT_C_TX_ABORT n) + 1) (2 ^ (CHN_CNT_C_TX_ABORT 0).w - 1)
      | _ => rd s (CHN_CNT_C_TX_ABORT n)) ∧
    rd (txCounted s n) (CHN_CNT_C_RX_DROP n) = rd s (CHN_CNT_C_RX_DROP n) ∧
    regsOnly [(CHN_CNT_C_RX_DROP n).addr] s (txCounted s n) := by
  have hdrop : rd (txAbort s n) (CHN_CNT_C_RX_DROP n) = rd s (CHN_CNT_C_RX_DROP n) :=
    rd_wr_bits s _ _ _ (by simp [CHN_CNT_C_TX_ABORT]) (by simp [CHN_CNT_C_RX_DROP, CHN_CNT_C_TX_ABORT])
  unfold txCounted partTx
  cases (s.chn n).xfer with
  | frame bs => exact ⟨rd_incSat_self s _ (by simp [CHN_CNT_C_TX_ABORT]), hdrop, regsOnly_addSat s (CHN_CNT_C_TX_ABORT n) 1⟩
  | none => exact ⟨rfl, rfl, regsOnly_refl _ _⟩
  | attempt bs => exact ⟨rfl, rfl, regsOnly_refl _ _⟩
  | ferry k => exact ⟨rfl, rfl, regsOnly_refl _ _⟩

theorem rxCounted_spec (s : State) (n : Nat) :
    rd (rxCounted s n) (CHN_CNT_C_TX_ABORT n) = rd s (CHN_CNT_C_TX_ABORT n) ∧
    rd (rxCounted s n) (CHN_CNT_C_RX_DROP n) = (if (s.chn n).part = none then rd s (CHN_CNT_C_RX_DROP n)
      else min (rd s (CHN_CNT_C_RX_DROP n) + 1) (2 ^ (CHN_CNT_C_RX_DROP 0).w - 1)) ∧
    regsOnly [(CHN_CNT_C_RX_DROP n).addr] s (rxCounted s n) := by
  obtain ⟨hd, hr⟩ := rxDrop_counts s n 1
  have habort : rd (rxDrop s n 1) (CHN_CNT_C_TX_ABORT n) = rd s (CHN_CNT_C_TX_ABORT n) :=
    rd_wr_bits s _ _ _ (by simp [CHN_CNT_C_RX_DROP]) (by simp [CHN_CNT_C_RX_DROP, CHN_CNT_C_TX_ABORT])
  unfold rxCounted
  cases (s.chn n).part with
  | none => exact ⟨rfl, rfl, regsOnly_refl _ _⟩
  | some x => exact ⟨habort, hd, hr⟩

/-- A channel beside its registers as it comes to rest. -/
def parkedChn (c : Chn) (pins : List Pin) : Chn :=
  { c with
    xfer := .none, tries := 0, gapTo := 0, ins := [], area := [], areaLine := false, part := none, other := true, sent := 0,
    ctsLeft := none, cs := none, pins := pins }

/-- The registers of a channel that comes to rest. -/
def parkedRegs (u : State) (n : Nat) : State :=
  wrs u [(CHN_STAT_STATE n, cIdle), (CHN_STAT_BUSY n, 0), (CHN_STAT_CUR n, 0), (CHN_EVT_STOPPED n, 1)]

theorem parkedRegs_spec (u : State) (n : Nat) : rd (parkedRegs u n) (CHN_STAT_STATE n) = 1 ∧
    rd (parkedRegs u n) (CHN_STAT_BUSY n) = 0 ∧ rd (parkedRegs u n) (CHN_EVT_STOPPED n) = 1 ∧
    rd (parkedRegs u n) (CHN_STAT_PEND_ON n) = rd u (CHN_STAT_PEND_ON n) ∧
    regsOnly [(CHN_STAT_STATE n).addr, (CHN_EVT_STOPPED n).addr] u (parkedRegs u n) := by
  have hne : (CHN_STAT_STATE n).addr ≠ (CHN_EVT_STOPPED n).addr := by
    simp only [CHN_STAT_STATE, CHN_EVT_STOPPED]; omega
  simp only [parkedRegs, wrs_cons, wrs_nil]
  refine ⟨?_, ?_, rd_wr_self _ _ _ (by simp [CHN_EVT_STOPPED]), ?_, partsBut_wrs u
    [(CHN_STAT_STATE n, cIdle), (CHN_STAT_BUSY n, 0), (CHN_STAT_CUR n, 0), (CHN_EVT_STOPPED n, 1)], fun a ha => ?_⟩
  · rw [rd_wr_addr _ _ _ _ hne, rd_wr_bits _ _ _ _ (by simp [CHN_STAT_CUR]) (by simp [CHN_STAT_CUR, CHN_STAT_STATE]),
      rd_wr_bits _ _ _ _ (by simp [CHN_STAT_BUSY]) (by simp [CHN_STAT_BUSY, CHN_STAT_STATE]),
      rd_wr_self _ _ _ (by simp [CHN_STAT_STATE])]
    rfl
  · rw [rd_wr_addr _ _ (CHN_STAT_BUSY n) _ hne, rd_wr_bits _ _ _ _ (by simp [CHN_STAT_CUR]) (by simp [CHN_STAT_CUR, CHN_STAT_BUSY]),
      rd_wr_self _ _ _ (by simp [CHN_STAT_BUSY])]
    rfl
  · rw [rd_wr_addr _ _ (CHN_STAT_PEND_ON n) _ hne,
      rd_wr_bits _ _ _ _ (by simp [CHN_STAT_CUR]) (by simp [CHN_STAT_CUR, CHN_STAT_PEND_ON]),
      rd_wr_bits _ _ _ _ (by simp [CHN_STAT_BUSY]) (by simp [CHN_STAT_BUSY, CHN_STAT_PEND_ON]),
      rd_wr_bits _ _ _ _ (by simp [CHN_STAT_STATE]) (by simp [CHN_STAT_STATE, CHN_STAT_PEND_ON])]
  · simp only [List.mem_cons, List.not_mem_nil, or_false, not_or] at ha
    obtain ⟨h1, h2⟩ := ha
    have h3 : a ≠ (CHN_STAT_BUSY n).addr := h1
    have h4 : a ≠ (CHN_STAT_CUR n).addr := h1
    rw [cellAt_wr_ne _ _ _ _ h2, cellAt_wr_ne _ _ _ _ h4, cellAt_wr_ne _ _ _ _ h3, cellAt_wr_ne _ _ _ _ h1]

/-- A channel comes to rest: what is in progress is counted or ended, its own state and its registers come to rest, and
its chip-select lines are left high (R236, R237, R265). -/
theorem chnPark_eq (s : State) (n : Nat) : chnPark s n = csHold (parkedRegs
    ((ferryStop (if (s.chn n).part.isSome then rxDrop (txCounted s n) n 1 else txCounted s n) n).setChn n
      (parkedChn ((ferryStop (if (s.chn n).part.isSome then rxDrop (txCounted s n) n 1 else txCounted s n) n).chn n)
        (idlePins s n))) n) n false := rfl

/-- A channel that no access of the Ferryman waits for comes to rest. -/
theorem chnPark_noFerry {s : State} {n : Nat} (hf : (s.chn n).ferry = []) (hx : ∀ k, (s.chn n).xfer ≠ .ferry k) :
    ∃ u, chnPark s n = csHold (parkedRegs u n) n false ∧ partsBut [.chns] (rxCounted (txCounted s n) n) u ∧
      ∀ m, u.chn m = if m = n then parkedChn { s.chn n with ferry := [], lock := none } (idlePins s n) else s.chn m := by
  obtain ⟨a, ha⟩ : ∃ a, a = rxCounted (txCounted s n) n := ⟨_, rfl⟩
  obtain ⟨-, -, ht⟩ := txCounted_spec s n
  obtain ⟨-, -, hr⟩ := rxCounted_spec (txCounted s n) n
  have hchn : ∀ m, a.chn m = s.chn m := fun m => by
    rw [ha, State.chn_congr m (hr.1 .chns (by decide)), State.chn_congr m (ht.1 .chns (by decide))]
  have hrx : (if (s.chn n).part.isSome = true then rxDrop (txCounted s n) n 1 else txCounted s n) = a := by
    rw [ha, rxCounted, State.chn_congr n (ht.1 .chns (by decide))]
  have hferry : ferryStop a n = a.setChn n { s.chn n with ferry := [], lock := none } := by
    rw [ferryStop_none (by rw [hchn]; exact hf) (by rw [hchn]; exact hx), hchn]
  refine ⟨_, by rw [chnPark_eq, hrx, hferry, State.chn_setChn_self], ?_, fun m => ?_⟩
  · rw [← ha]
    exact partsBut_trans (partsBut_setChn _ _ _) (partsBut_setChn _ _ _)
  · rw [State.chn_setChn, State.chn_setChn, hchn]
    split <;> rfl

/-- The end of STOPPING of a channel that no access of the Ferryman waits for, with no ENABLE remembered (R236, R237). -/
theorem chnIdle_rests {s : State} {n : Nat} (hf : (s.chn n).ferry = []) (hx : ∀ k, (s.chn n).xfer ≠ .ferry k)
    (hp : rd s (CHN_STAT_PEND_ON n) = 0) : ∃ t, chnIdle s n = chnGo t n ∧
    rd t (CHN_STAT_STATE n) = 1 ∧ rd t (CHN_STAT_BUSY n) = 0 ∧ rd t (CHN_EVT_STOPPED n) = 1 ∧ (t.chn n).xfer = .none ∧
    (t.chn n).cs = none ∧ (t.chn n).pins = idlePins s n ∧ (t.chn n).part = none ∧
    rd t (CHN_CNT_C_TX_ABORT n) = (match (s.chn n).xfer with
      | .frame _ => min (rd s (CHN_CNT_C_TX_ABORT n) + 1) (2 ^ (CHN_CNT_C_TX_ABORT 0).w - 1)
      | _ => rd s (CHN_CNT_C_TX_ABORT n)) ∧
    rd t (CHN_CNT_C_RX_DROP n) = (if (s.chn n).part = none then rd s (CHN_CNT_C_RX_DROP n)
      else min (rd s (CHN_CNT_C_RX_DROP n) + 1) (2 ^ (CHN_CNT_C_RX_DROP 0).w - 1)) ∧
    partsBut [.regs, .chns, .lines] s t ∧
    cellsBut [(CHN_STAT_STATE n).addr, (CHN_EVT_STOPPED n).addr, (CHN_CNT_C_RX_DROP n).addr] s t ∧
    (∀ m, m ≠ n → t.chn m = s.chn m) ∧ (chnMode s n ≠ 2 → t.lines = s.lines) := by
  obtain ⟨u, hu, hparts, hchn⟩ := chnPark_noFerry hf hx
  obtain ⟨htx, htd, ht⟩ := txCounted_spec s n
  obtain ⟨hra, hrd, hr⟩ := rxCounted_spec (txCounted s n) n
  obtain ⟨w, hw⟩ : ∃ w, w = parkedRegs u n := ⟨_, rfl⟩
  obtain ⟨hstate, hbusy, hstopped, hpend, hregs⟩ := parkedRegs_spec u n
  rw [← hw] at hu hstate hbusy hstopped hpend hregs
  obtain ⟨t, htt⟩ : ∃ t, t = csHold w n false := ⟨_, rfl⟩
  have hhold : partsBut [.lines] w t := htt ▸ partsBut_csHold w n false
  have hrd' : ∀ f, rd t f = rd w f := fun f => rd_congr f (hhold .regs (by decide))
  have hchn' : ∀ m, t.chn m = u.chn m := fun m =>
    State.chn_congr m ((hhold .chns (by decide)).trans (hregs.1 .chns (by decide)))
  have hself : t.chn n = parkedChn { s.chn n with ferry := [], lock := none } (idlePins s n) := by
    rw [hchn', hchn, if_pos rfl]
  have hcount : regsOnly [(CHN_CNT_C_RX_DROP n).addr] s (rxCounted (txCounted s n) n) := regsOnly_trans ht hr
  have hcells : cellsBut [(CHN_STAT_STATE n).addr, (CHN_EVT_STOPPED n).addr] (rxCounted (txCounted s n) n) t := fun a ha => by
    rw [cellAt_congr a (hhold .regs (by decide)), hregs.2 a ha, cellAt_congr a (hparts .regs (by decide))]
  have hcnt : (CHN_CNT_C_RX_DROP n).addr ∉ [(CHN_STAT_STATE n).addr, (CHN_EVT_STOPPED n).addr] := by
    simp only [CHN_CNT_C_RX_DROP, CHN_STAT_STATE, CHN_EVT_STOPPED, List.mem_cons, List.not_mem_nil, or_false, not_or]
    omega
  have hcount' : cellAt t (CHN_CNT_C_RX_DROP n).addr = cellAt (rxCounted (txCounted s n) n) (CHN_CNT_C_RX_DROP n).addr :=
    hcells _ hcnt
  have hall : cellsBut [(CHN_STAT_STATE n).addr, (CHN_EVT_STOPPED n).addr, (CHN_CNT_C_RX_DROP n).addr] s t :=
    cellsBut_trans (cellsBut_mono hcount.2 (by simp)) (cellsBut_mono hcells (by simp))
  have hpartsAll : partsBut [.regs, .chns, .lines] s t :=
    partsBut_trans (partsBut_mono hcount.1 (by decide)) (partsBut_trans (partsBut_mono hparts (by decide))
      (partsBut_trans (partsBut_mono hregs.1 (by decide)) (partsBut_mono hhold (by decide))))
  refine ⟨t, ?_, by rw [hrd', hstate], by rw [hrd', hbusy], by rw [hrd', hstopped], by rw [hself]; rfl, by rw [hself]; rfl,
    by rw [hself]; rfl, by rw [hself]; rfl, ?_, ?_, hpartsAll, hall, fun m hm => by rw [hchn', hchn, if_neg hm], fun hm => ?_⟩
  · have hflag : flag t (CHN_STAT_PEND_ON n) = false := by
      have hne : (CHN_STAT_PEND_ON n).addr ∉ [(CHN_CNT_C_RX_DROP n).addr] := by
        simp only [CHN_STAT_PEND_ON, CHN_CNT_C_RX_DROP, List.mem_singleton]; omega
      have h0 : rd t (CHN_STAT_PEND_ON n) = 0 := by
        rw [hrd', hpend, rd_congr _ (hparts .regs (by decide)), rd, hcount.2 _ hne]
        exact hp
      simp [flag, h0]
    simp only [chnIdle, hu, ← htt, hflag, Bool.false_eq_true, if_false]
  · exact (congrArg (cellGet · _ _) hcount').trans (hra.trans htx)
  · rw [State.chn_congr n (ht.1 .chns (by decide)), htd] at hrd
    exact (congrArg (cellGet · _ _) hcount').trans hrd
  · have hmode : chnMode w n = chnMode s n := by
      have hne : (CHN_CFG_MODE n).addr ∉
          [(CHN_STAT_STATE n).addr, (CHN_EVT_STOPPED n).addr, (CHN_CNT_C_RX_DROP n).addr] := by
        simp only [CHN_CFG_MODE, CHN_CNT_C_RX_DROP, CHN_STAT_STATE, CHN_EVT_STOPPED, List.mem_cons, List.not_mem_nil,
          or_false, not_or]
        omega
      rw [chnMode, chnMode, ← hrd', rd, hall _ hne, rd]
    have hidle : csHold w n false = w := by rw [csHold, if_neg (by rw [hmode]; exact hm)]
    rw [htt, hidle, hregs.1 .lines (by decide), hparts .lines (by decide), hcount.1 .lines (by decide)]

/-! ## Poll memory (R7, R228) -/

theorem getElem_leBytes (k v i : Nat) (h : i < (leBytes k v).length) : (leBytes k v)[i] = BitVec.ofNat 8 (v / 256 ^ i) := by
  induction k generalizing v i with
  | zero => simp [leBytes] at h
  | succ k ih =>
    cases i with
    | zero => simp [leBytes]
    | succ i =>
      have h' : i < (leBytes k (v / 256)).length := by simpa [leBytes] using h
      simp only [leBytes, List.getElem_cons_succ]
      rw [ih _ _ h', Nat.div_div_eq_div_mul, Nat.pow_succ, Nat.mul_comm]

/-- A word of memory that is written reads back byte by byte, and no other byte changes. -/
theorem memGet_memPutWord (s : State) (a v : Nat) :
    (∀ b, b < a ∨ a + 4 ≤ b → memGet (memPutWord s a v) b = memGet s b) ∧
    ∀ i < 4, memGet (memPutWord s a v) (a + i) = BitVec.ofNat 8 (v / 256 ^ i) := by
  have hlen : (leBytes 4 v).length = 4 := length_leBytes 4 v
  refine ⟨fun b hb => memGet_memPuts_out s a b _ (by rw [hlen]; exact hb), fun i hi => ?_⟩
  rw [memPutWord, memGet_memPuts_in s a i _ (by rw [hlen]; exact hi), getElem_leBytes]

/-- WORD advances while INC is 1 (R228). -/
theorem pmInc_spec (s : State) : rd (pmInc s) CHN_PM_ADDR_WORD =
      (if rd s CHN_PM_ADDR_INC = 1 then (rd s CHN_PM_ADDR_WORD + 1) % 2 ^ CHN_PM_ADDR_WORD.w else rd s CHN_PM_ADDR_WORD) ∧
    regsOnly [CHN_PM_ADDR_WORD.addr] s (pmInc s) := by
  have hlt : rd s CHN_PM_ADDR_INC < 2 := rd_lt s CHN_PM_ADDR_INC
  by_cases h : rd s CHN_PM_ADDR_INC = 0
  · simp [pmInc, flag, h, regsOnly_refl]
  · have h1 : rd s CHN_PM_ADDR_INC = 1 := by omega
    simp only [pmInc, flag, h1, bne_iff_ne, ne_eq, one_ne_zero, not_false_eq_true, if_true]
    exact ⟨rd_wr_self _ _ _ (by decide), regsOnly_wr _ _ _⟩

/-- An answer to the management target is all that it changes. -/
theorem partsBut_answerMgmt (s : State) (ini st : Nat) : partsBut [.out] s (answerMgmt s ini st) := by
  unfold answerMgmt
  split
  · intro p hp
    cases p <;> simp [Part.same] at hp ⊢
  · exact partsBut_refl _ _

theorem out_answerMgmt (s : State) (ini st : Nat) :
    (answerMgmt s ini st).out = if ini = 2 then .busRsp 2 st 0 :: s.out else s.out := by
  by_cases h : ini = 2
  · subst h; rfl
  · simp [answerMgmt, iniMgmt, h]

theorem answerMgmt_eq (s : State) (ini st : Nat) :
    answerMgmt s ini st = if ini = 2 then s.emit (.busRsp 2 st 0) else s := by
  by_cases h : ini = 2
  · subst h; rfl
  · simp [answerMgmt, iniMgmt, h]

/-- The state that a write of a word of poll memory leaves, before WORD advances. -/
def pmWritten (s : State) (v : Nat) : State :=
  clearBad (memPutWord s (pollBase + 4 * rd s CHN_PM_ADDR_WORD) v) 6 (rd s CHN_PM_ADDR_WORD)

theorem partsBut_pmWritten (s : State) (v : Nat) : partsBut [.mem, .bad] s (pmWritten s v) := by
  intro p hp
  cases p <;> simp [Part.same, pmWritten, clearBad] at hp ⊢

section
variable {s : State} (hb : s.rst.busy = false) (ini : Nat)
include hb

theorem exec_pmRead : exec (.pmDataAccess ini none) s = .next ((pmInc s).emit (.busRsp ini
    (if 6 * 2 ^ 28 + rd s CHN_PM_ADDR_WORD ∈ s.bad then 2 else 0) (memWord s (pollBase + 4 * rd s CHN_PM_ADDR_WORD)))) := by
  change execPmDataAccess ini none s = _
  rw [execPmDataAccess, whenAlive_alive _ _ hb]
  simp only [List.contains_iff_mem]
  rfl

theorem exec_pmWrite_locked (v : Nat) (h : 14 ≤ rd s SYS_STEP_STEP) : exec (.pmDataAccess ini (some v)) s =
    .next (answerMgmt (pmInc s) ini (if v % 2 ^ 32 = memWord s (pollBase + 4 * rd s CHN_PM_ADDR_WORD) then 0 else 4)) := by
  change execPmDataAccess ini (some v) s = _
  rw [execPmDataAccess, whenAlive_alive _ _ hb]
  simp only [if_pos h]
  rfl

theorem exec_pmWrite (v : Nat) (h : rd s SYS_STEP_STEP < 14) : exec (.pmDataAccess ini (some v)) s =
    .next (answerMgmt (pmInc (pmWritten s v)) ini 0) := by
  change execPmDataAccess ini (some v) s = _
  rw [execPmDataAccess, whenAlive_alive _ _ hb]
  simp only [if_neg (show ¬14 ≤ rd s SYS_STEP_STEP by omega)]
  rfl

end

/-- A word of poll memory is read, is locked, or is written (R7, R228). -/
theorem pmDataAccess_spec (s : State) (ini k : Nat) (w : Option Nat) (hb : s.rst.busy = false) (hk : k = rd s CHN_PM_ADDR_WORD) :
    ∃ t, exec (.pmDataAccess ini w) s = .next t ∧
    rd t CHN_PM_ADDR_WORD = (if rd s CHN_PM_ADDR_INC = 1 then (k + 1) % 2 ^ CHN_PM_ADDR_WORD.w else k) ∧
    partsBut [.regs, .mem, .bad, .out] s t ∧ cellsBut [CHN_PM_ADDR_WORD.addr] s t ∧
    (w = none → memSame s t ∧ t.bad = s.bad ∧
      t.out = .busRsp ini (if 6 * 2 ^ 28 + k ∈ s.bad then 2 else 0) (memWord s (pollBase + 4 * k)) :: s.out) ∧
    (∀ v, w = some v → 14 ≤ rd s SYS_STEP_STEP → memSame s t ∧ t.bad = s.bad ∧
      t.out = (if ini = 2 then .busRsp 2 (if v % 2 ^ 32 = memWord s (pollBase + 4 * k) then 0 else 4) 0 :: s.out else s.out)) ∧
    ∀ v, w = some v → rd s SYS_STEP_STEP < 14 → t.out = (if ini = 2 then .busRsp 2 0 0 :: s.out else s.out) ∧ 6 * 2 ^ 28 + k ∉ t.bad ∧
      (∀ a, a < pollBase + 4 * k ∨ pollBase + 4 * k + 4 ≤ a → memGet t a = memGet s a) ∧
      ∀ i < 4, memGet t (pollBase + 4 * k + i) = BitVec.ofNat 8 (v / 256 ^ i) := by
  subst hk
  obtain ⟨hword, hregs⟩ := pmInc_spec s
  have hmem : (pmInc s).mem = s.mem := hregs.1 .mem (by decide)
  have hbad : (pmInc s).bad = s.bad := hregs.1 .bad (by decide)
  have hout : (pmInc s).out = s.out := hregs.1 .out (by decide)
  cases w with
  | none =>
    refine ⟨_, exec_pmRead hb ini, by rw [rd_emit, hword], ?_, fun a ha => by rw [cellAt_emit, hregs.2 a ha],
      fun _ => ⟨fun a => memGet_congr a hmem, hbad, by rw [emit_out, hout]⟩, fun v hv => by simp at hv, fun v hv => by simp at hv⟩
    refine partsBut_trans (partsBut_mono hregs.1 (by decide)) fun p hp => ?_
    cases p <;> simp [Part.same] at hp ⊢
  | some v =>
    by_cases h14 : 14 ≤ rd s SYS_STEP_STEP
    · have hans := partsBut_answerMgmt (pmInc s) ini
        (if v % 2 ^ 32 = memWord s (pollBase + 4 * rd s CHN_PM_ADDR_WORD) then 0 else 4)
      refine ⟨_, exec_pmWrite_locked hb ini v h14, by rw [rd_congr _ (hans .regs (by decide)), hword],
        partsBut_trans (partsBut_mono hregs.1 (by decide)) (partsBut_mono hans (by decide)),
        fun a ha => by rw [cellAt_congr a (hans .regs (by decide)), hregs.2 a ha], fun h => by simp at h, fun v' hv _ => ?_,
        fun v' _ h => by omega⟩
      obtain rfl : v = v' := by simpa using hv
      exact ⟨fun a => memGet_congr a ((hans .mem (by decide)).trans hmem), (hans .bad (by decide)).trans hbad,
        by rw [out_answerMgmt, hout]⟩
    · have hlt : rd s SYS_STEP_STEP < 14 := by omega
      have hwr := partsBut_pmWritten s v
      obtain ⟨hword', hregs'⟩ := pmInc_spec (pmWritten s v)
      have hrd : ∀ f, rd (pmWritten s v) f = rd s f := fun f => rd_congr f (hwr .regs (by decide))
      have hans := partsBut_answerMgmt (pmInc (pmWritten s v)) ini 0
      have hmem' : ∀ a, memGet (answerMgmt (pmInc (pmWritten s v)) ini 0) a =
          memGet (memPutWord s (pollBase + 4 * rd s CHN_PM_ADDR_WORD) v) a := fun a =>
        memGet_congr a ((hans .mem (by decide)).trans (hregs'.1 .mem (by decide)))
      have hbad' : (answerMgmt (pmInc (pmWritten s v)) ini 0).bad = s.bad.filter (· != 6 * 2 ^ 28 + rd s CHN_PM_ADDR_WORD) := by
        rw [hans .bad (by decide), hregs'.1 .bad (by decide)]
        simp [pmWritten, clearBad]
      obtain ⟨hother, hbytes⟩ := memGet_memPutWord s (pollBase + 4 * rd s CHN_PM_ADDR_WORD) v
      refine ⟨_, exec_pmWrite hb ini v hlt, by rw [rd_congr _ (hans .regs (by decide)), hword', hrd, hrd],
        partsBut_trans (partsBut_mono hwr (by decide)) (partsBut_trans (partsBut_mono hregs'.1 (by decide))
          (partsBut_mono hans (by decide))),
        fun a ha => by rw [cellAt_congr a (hans .regs (by decide)), hregs'.2 a ha, cellAt_congr a (hwr .regs (by decide))],
        fun h => by simp at h, fun v' _ h => by omega, fun v' hv _ => ?_⟩
      obtain rfl : v = v' := by simpa using hv
      exact ⟨by rw [out_answerMgmt, hregs'.1 .out (by decide), hwr .out (by decide)], by rw [hbad']; simp,
        fun a ha => (hmem' a).trans (hother a ha), fun i hi => (hmem' _).trans (hbytes i hi)⟩

/-- Settles O37: a push is `exec_chnTxpush`, a received character `rxChar_joins` and its siblings, the end of STOPPING
`chnIdle_rests`, an access of poll memory `pmDataAccess_spec`. -/
theorem channelQueuesAndEnables : Obligations.ChannelQueuesAndEnables := by
  unfold Obligations.ChannelQueuesAndEnables
  refine ⟨fun s ini n len hb hn h1 h384 => ⟨fun hm => ?_, fun hm => ?_, fun h4 h5 hfull => ?_, fun h4 h5 hfit => ?_⟩,
    fun s u dt n cs hu hb hn hst hm => ⟨fun bs hx => exec_rxFrameEnd_attempt hu hb hn hst hm hx,
      fun hx v hv => exec_rxFrameEnd_queue hu hb hn hst hm hx v hv⟩,
    fun s u n ns ch m hu hm => ⟨fun v h7 h8 ha hv => by rw [rxChar_elsewhere hu h7 h8 ha, hv], fun h7 h8 ho => rxChar_discarded hu h7 h8 ho,
      fun hj => ?_⟩,
    fun s n m hm => ⟨partEnd_none, fun ns bs ln hp => by rw [partEnd_some hp, hm]⟩,
    fun s n k => ⟨_, rfl, rxDrop_counts s n k⟩,
    fun s n ns bs tr ln hq => ⟨fun hfit => ?_, fun hfull => ?_⟩,
    fun s n hb hn => ?_,
    fun s n hf hx hp => chnIdle_rests hf hx hp,
    pmDataAccess_spec⟩
  · obtain ⟨t, ht, h⟩ := txAbort_refused s n
    refine ⟨t, ?_, h⟩
    rw [exec_chnTxpush hb hn h1 h384, if_neg (by omega), if_pos hm, ht, answerMgmt_eq]
    rfl
  · rw [exec_chnTxpush hb hn h1 h384, if_pos hm, answerMgmt_eq]
    rfl
  · refine ⟨wr s (CHN_EVT_TXQ_FULL n) 1, ?_, txqFull_set s n, regsOnly_wr _ _ _⟩
    rw [exec_chnTxpush hb hn h1 h384, if_neg h5, if_neg h4, if_pos hfull, answerMgmt_eq]
    rfl
  · refine ⟨txWindow s n len, _, length_txWindow s n h384, rfl, rfl, ?_⟩
    rw [exec_chnTxpush hb hn h1 h384, if_neg h5, if_neg h4, if_neg (by omega), answerMgmt_eq]
    rfl
  · rw [hm]
    exact rxChar_joins hu hj
  · rw [rxStore_unchecked _ _ _ _ _ _ hq, if_neg (by omega)]
  · rw [rxStore_unchecked _ _ _ _ _ _ hq, if_pos hfull]
    exact rxOverflow s n
  · refine ⟨fun ini f rest hq => ⟨_, rfl, exec_chnPopRx hb hn hq ini⟩, exec_chnFlushTx hb hn, exec_chnFlushRx hb hn,
      fun b h => exec_ctsChange_idle hb hn b h, fun h1 h2 h3 => exec_ctsChange_sending hb hn ⟨h1, h2, h3⟩,
      fun h => ⟨_, exec_chnEnable_stopping hb hn h, ?_, regsOnly_wr _ _ _⟩,
      fun h => ⟨_, exec_chnEnable_idle hb hn h, ?_, regsOnly_wr _ _ _⟩, fun h => ?_, fun dt u hu h => ?_⟩
    · exact rd_wr_self _ _ _ (by simp [CHN_STAT_PEND_ON])
    · exact rd_wr_self _ _ _ (by simp [CHN_STAT_DIS])
    · obtain ⟨t, ht, h'⟩ := chnDisable_flags s n
      exact ⟨t, by rw [exec_chnDisable hb hn h, ht], h'⟩
    · refine ⟨?_, fun hx => ?_, fun hx hm hs => ?_, fun hx hm => ?_⟩
      · rw [exec_chnStoppingEnd hb hn hu h, if_pos rfl]
      · rw [exec_chnStoppingEnd hb hn hu h, if_neg (by decide), if_pos hx]
      · rw [exec_chnStoppingEnd hb hn hu h, if_neg (by decide), if_neg hx, if_pos ⟨hm, hs⟩]
      · rw [exec_chnStoppingEnd hb hn hu h, if_neg (by decide), if_neg hx, if_neg]
        rintro ⟨hm', hs⟩
        rcases hm with hm | hm
        · exact hm hm'
        · simp [hm] at hs

end Sys2Proof.Machine

/-! SUPPORT. Obligation O1: what a step does. -/

namespace Sys2Proof.Machine

/-- A step with a command waiting runs it on the rest of the queue. -/
theorem step_command {s : State} {c : Instr} {rest : List Instr} (h : s.pending = c :: rest) :
    step s = exec c { s with pending := rest } := by
  simp [step, h]

/-- A step with an empty queue idles. -/
theorem step_idle {s : State} (h : s.pending = []) : step s = .next (idle s) := by
  simp [step, h]

/-- No cycle passes while REFCLK has failed or a full reset holds the block (R18, R421). -/
theorem idle_held {s : State} (h : s.rst.refFail = true ∨ (s.rst.busy = true ∧ s.rst.full = true)) : idle s = s := by
  unfold idle
  split
  · rfl
  · rename_i hf
    rw [advance, if_pos (h.resolve_left hf)]

/-- One cycle passes otherwise (R114). -/
theorem idle_cycle {s : State} (hf : s.rst.refFail = false) (h : s.rst.busy = false ∨ s.rst.full = false) :
    (idle s).clk.cyc = s.clk.cyc + 1 ∧ partsBut [.clk] s (idle s) := by
  have hi : idle s = advance s 1 := by simp [idle, hf]
  have hc : ¬(s.rst.busy = true ∧ s.rst.full = true) := by rcases h with h | h <;> simp [h]
  rw [hi]
  exact ⟨by rw [advance, if_neg hc], partsBut_advance s 1⟩

/-- A word that spells a command puts it in front of the queue; one that spells none changes nothing. -/
theorem withFetchWord_some {s : State} {nbits w : Nat} {c : Instr} (h : decodeTableWord nbits w = some c) :
    s.withFetchWord nbits w = { s with pending := c :: s.pending } := by
  simp [State.withFetchWord, h]

theorem withFetchWord_none {s : State} {nbits w : Nat} (h : decodeTableWord nbits w = none) :
    s.withFetchWord nbits w = s := by
  simp [State.withFetchWord, h]

/-- Settles O1: the queue's front by `step_command`, an empty queue by `idle_held` and `idle_cycle`. -/
theorem stepRunsTheFrontCommand : Obligations.StepRunsTheFrontCommand := by
  unfold Obligations.StepRunsTheFrontCommand
  refine ⟨fun c rest s h => step_command h, fun s h hh => ?_, fun s h hf hb => ?_, fun s nbits w => ⟨fun c hc => ?_, withFetchWord_none⟩⟩
  · rw [step_idle h, idle_held hh]
  · obtain ⟨hcyc, hparts⟩ := idle_cycle hf hb
    exact ⟨idle s, step_idle h, hcyc, hparts⟩
  · rw [withFetchWord_some hc, step_command rfl]

end Sys2Proof.Machine

/-! SUPPORT. Obligation O46: the enable of a branch and the states it drives. -/

namespace Sys2Proof.Machine

/-! ## Fields of one cell -/

/-- A field lies within its cell. -/
def Fld.fits (f : Fld) : Bool := (f.lo + f.w).ble 64

/-- Two fields share no bit position. -/
def Fld.apart (f g : Fld) : Bool := (g.lo + g.w).ble f.lo || (f.lo + f.w).ble g.lo

theorem rd_wr_same (s : State) {f : Fld} (v : Nat) (h : f.fits = true) : rd (wr s f v) f = v % 2 ^ f.w :=
  rd_wr_self s f v (Nat.le_of_ble_eq_true h)

/-- A write leaves every field that shares no bit position with the one written, in whichever cell. -/
theorem rd_wr_apart (s : State) {f g : Fld} (v : Nat) (hf : f.fits = true) (h : f.apart g = true) :
    rd (wr s f v) g = rd s g := by
  refine rd_wr_bits s f g v (Nat.le_of_ble_eq_true hf) ?_
  rw [Fld.apart, Bool.or_eq_true] at h
  exact h.imp Nat.le_of_ble_eq_true Nat.le_of_ble_eq_true

/-- A one-bit field is 0 or 1. -/
theorem rd_bit (s : State) {f : Fld} (h : f.w = 1) : rd s f = 0 ∨ rd s f = 1 := by
  have := rd_lt s f
  rw [h] at this
  omega

theorem flag_true {s : State} {f : Fld} (h : rd s f = 1) : flag s f = true := by simp [flag, h]

theorem flag_false {s : State} {f : Fld} (h : rd s f = 0) : flag s f = false := by simp [flag, h]

theorem flag_congr {s t : State} {f : Fld} (h : rd s f = rd t f) : flag s f = flag t f := by rw [flag, h, flag]

/-! ## Frames of one branch -/

theorem brnFrame_refl (n : Nat) (l : List Nat) (s : State) : brnFrame n l s s :=
  ⟨partsBut_refl _ _, cellsBut_refl _ _, fun _ _ => rfl⟩

/-- A write of a register that the frame lists stays in the frame. -/
theorem brnFrame_wr {n : Nat} {l : List Nat} {s t : State} {f : Fld} {v : Nat} (h : brnFrame n l s t) (ha : f.addr ∈ l) :
    brnFrame n l s (wr t f v) :=
  brnFrame_trans h (brnFrame_of_regsOnly (regsOnly_mono (regsOnly_wr t f v) (by simpa using ha)))

/-- A write of a field of BRN_STAT stays in a frame that lists the register first. -/
theorem brnFrame_wrStat {n : Nat} {l : List Nat} {s t : State} {f : Fld} {v : Nat}
    (h : brnFrame n ((BRN_STAT_STATE n).addr :: l) s t) (ha : f.addr = (BRN_STAT_STATE n).addr) : brnFrame n ((BRN_STAT_STATE n).addr :: l) s (wr t f v) :=
  brnFrame_wr h (by rw [ha]; exact List.mem_cons_self)

theorem brnFrame_setBrn {n : Nat} {l : List Nat} {s t : State} {x : Brn} (h : brnFrame n l s t) :
    brnFrame n l s (t.setBrn n x) :=
  brnFrame_trans h ⟨partsBut_mono (partsBut_setBrn t n x) (by decide), fun a _ => cellAt_setBrn t n x a,
    fun m hm => by rw [State.brn_setBrn, if_neg hm]⟩

/-- The status of a branch and its junction estimate are registers of their own. -/
theorem brnTj_ne_stat (n : Nat) : (BRN_STAT_STATE n).addr ≠ (BRN_TH_TJ_T_J n).addr := by
  simp only [BRN_STAT_STATE, BRN_TH_TJ_T_J]; omega

/-! ## INSERT and OFF (R283, R284, R289) -/

/-- What a branch has beside its registers as it enters INSERT: the junction estimate takes T_A unless it is hotter. -/
def insertedBrn (b : Brn) : Brn := { b with tj := if b.tj > b.ta + 5 * 65536 then b.tj else b.ta, reon := false }

theorem brnInsert_eq (s : State) (n : Nat) : brnInsert s n =
    (wrI (wr (wr s (BRN_STAT_STATE n) 1) (BRN_STAT_PENDING_ON n) 0) (BRN_TH_TJ_T_J n)
      ((insertedBrn (s.brn n)).tj / 1024)).setBrn n (insertedBrn (s.brn n)) := rfl

/-- A branch that enters INSERT has no start pending; its other status bits stay. -/
theorem brnInsert_spec (s : State) (n : Nat) :
    rd (brnInsert s n) (BRN_STAT_STATE n) = 1 ∧ rd (brnInsert s n) (BRN_STAT_PENDING_ON n) = 0 ∧
    (∀ f : Fld, f.addr = (BRN_STAT_STATE n).addr → (BRN_STAT_STATE n).apart f = true → (BRN_STAT_PENDING_ON n).apart f = true →
      rd (brnInsert s n) f = rd s f) ∧
    (brnInsert s n).brn n = insertedBrn (s.brn n) ∧
    brnFrame n [(BRN_STAT_STATE n).addr, (BRN_TH_TJ_T_J n).addr] s (brnInsert s n) := by
  have hstat : ∀ f : Fld, f.addr = (BRN_STAT_STATE n).addr →
      rd (brnInsert s n) f = rd (wr (wr s (BRN_STAT_STATE n) 1) (BRN_STAT_PENDING_ON n) 0) f := fun f hf => by
    rw [brnInsert_eq, rd_setBrn, wrI, rd_wr_addr _ _ _ _ (by rw [hf]; exact brnTj_ne_stat n)]
  refine ⟨?_, ?_, fun f ha hs hp => ?_, by rw [brnInsert_eq, State.brn_setBrn_self], ?_⟩
  · rw [hstat (BRN_STAT_STATE n) rfl, rd_wr_apart _ _ rfl rfl, rd_wr_same _ _ rfl]; rfl
  · rw [hstat (BRN_STAT_PENDING_ON n) rfl, rd_wr_same _ _ rfl]; rfl
  · rw [hstat f ha, rd_wr_apart _ _ rfl hp, rd_wr_apart _ _ rfl hs]
  · rw [brnInsert_eq, wrI]
    exact brnFrame_setBrn (brnFrame_wr (brnFrame_wrStat (brnFrame_wrStat (brnFrame_refl _ _ _) rfl) rfl) (by simp))

theorem brnOffSettle_notOff {s : State} {n : Nat} (h : rd s (BRN_STAT_STATE n) ≠ 0) : brnOffSettle s n = s := by
  rw [brnOffSettle, if_pos (show brnState s n ≠ bOff from h)]

section
variable {s : State} {n : Nat} (h : rd s (BRN_STAT_STATE n) = 0)
include h

/-- An OFF branch without its enable forgets a start (R283). -/
theorem brnOffSettle_disabled (he : rd s (BRN_STAT_E n) = 0) : brnOffSettle s n =
    (wr (wr s (BRN_STAT_REARM n) 0) (BRN_STAT_PENDING_ON n) 0).setBrn n { s.brn n with reon := false } := by
  rw [brnOffSettle, if_neg (show ¬brnState s n ≠ bOff from not_not.2 h), if_pos (by simp [flag_false he])]
  rfl

/-- An OFF branch with its enable starts where nothing stands against it (R283). -/
theorem brnOffSettle_starts (he : rd s (BRN_STAT_E n) = 1) (hr : rd s (BRN_STAT_REARM n) = 0)
    (hc : rd s (BRN_STAT_CP_OK n) = 1) (hre : (s.brn n).reon = false) : brnOffSettle s n = brnInsert s n := by
  rw [brnOffSettle, if_neg (show ¬brnState s n ≠ bOff from not_not.2 h), if_neg (by simp [flag_true he]),
    if_pos (by simp [flag_false hr, flag_true hc, hre])]

/-- A REARM that stands keeps an enabled branch OFF (R283). -/
theorem brnOffSettle_rearm (he : rd s (BRN_STAT_E n) = 1) (hr : rd s (BRN_STAT_REARM n) = 1) : brnOffSettle s n = s := by
  rw [brnOffSettle, if_neg (show ¬brnState s n ≠ bOff from not_not.2 h), if_neg (by simp [flag_true he]),
    if_neg (by simp [flag_true hr])]

end

/-- What OFF does with the enable changes the status and the junction estimate of its branch alone, and no enable. -/
theorem brnOffSettle_frame (s : State) (n : Nat) :
    rd (brnOffSettle s n) (BRN_STAT_E n) = rd s (BRN_STAT_E n) ∧ rd (brnOffSettle s n) (BRN_STAT_CP_OK n) = rd s (BRN_STAT_CP_OK n) ∧
    brnFrame n [(BRN_STAT_STATE n).addr, (BRN_TH_TJ_T_J n).addr] s (brnOffSettle s n) := by
  unfold brnOffSettle
  split
  · exact ⟨rfl, rfl, brnFrame_refl _ _ _⟩
  · split
    · refine ⟨?_, ?_, ?_⟩
      · rw [rd_setBrn, rd_wr_apart _ _ rfl rfl, rd_wr_apart _ _ rfl rfl]
      · rw [rd_setBrn, rd_wr_apart _ _ rfl rfl, rd_wr_apart _ _ rfl rfl]
      · exact brnFrame_setBrn (brnFrame_wrStat (brnFrame_wrStat (brnFrame_refl _ _ _) rfl) rfl)
    · split
      · obtain ⟨-, -, hkeep, -, hframe⟩ := brnInsert_spec s n
        exact ⟨hkeep (BRN_STAT_E n) rfl rfl rfl, hkeep (BRN_STAT_CP_OK n) rfl rfl rfl, hframe⟩
      · exact ⟨rfl, rfl, brnFrame_refl _ _ _⟩

/-- A branch that comes to OFF is at rest from then on, with no retries counted. -/
def offBrn (s : State) (n : Nat) : State := brnRest (wr (wr s (BRN_STAT_STATE n) 0) (BRN_STAT_RCNT n) 0) n

theorem brnToOff_eq (s : State) (n : Nat) : brnToOff s n = brnOffSettle (offBrn s n) n := rfl

theorem offBrn_spec (s : State) (n : Nat) : rd (offBrn s n) (BRN_STAT_STATE n) = 0 ∧ rd (offBrn s n) (BRN_STAT_RCNT n) = 0 ∧
    (∀ f : Fld, (BRN_STAT_STATE n).apart f = true → (BRN_STAT_RCNT n).apart f = true → rd (offBrn s n) f = rd s f) ∧
    (offBrn s n).brn n = { s.brn n with rest := ftNs s } ∧ brnFrame n [(BRN_STAT_STATE n).addr] s (offBrn s n) := by
  refine ⟨?_, ?_, fun f hs hr => ?_, ?_, ?_⟩
  · rw [offBrn, brnRest, rd_setBrn, rd_wr_apart _ _ rfl rfl, rd_wr_same _ _ rfl]; rfl
  · rw [offBrn, brnRest, rd_setBrn, rd_wr_same _ _ rfl]; rfl
  · rw [offBrn, brnRest, rd_setBrn, rd_wr_apart _ _ rfl hr, rd_wr_apart _ _ rfl hs]
  · rw [offBrn, brnRest, State.brn_setBrn_self]; rfl
  · exact brnFrame_setBrn (brnFrame_wrStat (brnFrame_wrStat (brnFrame_refl _ _ _) rfl) rfl)

/-- A branch that comes to OFF without its enable stays there with REARM clear (R283, R284, R295). -/
theorem brnToOff_disabled {s : State} {n : Nat} (he : rd s (BRN_STAT_E n) = 0) :
    rd (brnToOff s n) (BRN_STAT_E n) = 0 ∧ rd (brnToOff s n) (BRN_STAT_STATE n) = 0 ∧ rd (brnToOff s n) (BRN_STAT_RCNT n) = 0 ∧
    rd (brnToOff s n) (BRN_STAT_REARM n) = 0 ∧ ((brnToOff s n).brn n).rest = ftNs s ∧
    brnFrame n [(BRN_STAT_STATE n).addr] s (brnToOff s n) := by
  obtain ⟨hstate, hrcnt, hkeep, hbrn, hframe⟩ := offBrn_spec s n
  rw [brnToOff_eq, brnOffSettle_disabled hstate (by rw [hkeep _ rfl rfl, he])]
  refine ⟨?_, ?_, ?_, ?_, by rw [State.brn_setBrn_self, hbrn], ?_⟩
  · rw [rd_setBrn, rd_wr_apart _ _ rfl rfl, rd_wr_apart _ _ rfl rfl, hkeep _ rfl rfl, he]
  · rw [rd_setBrn, rd_wr_apart _ _ rfl rfl, rd_wr_apart _ _ rfl rfl, hstate]
  · rw [rd_setBrn, rd_wr_apart _ _ rfl rfl, rd_wr_apart _ _ rfl rfl, hrcnt]
  · rw [rd_setBrn, rd_wr_apart _ _ rfl rfl, rd_wr_same _ _ rfl]; rfl
  · exact brnFrame_setBrn (brnFrame_wrStat (brnFrame_wrStat hframe rfl) rfl)

/-! ## The enable of a branch (R282, R283) -/

theorem brnWant_false {s : State} {n : Nat} (hf : (s.brn n).frozen = none) (hs : brnSource s n = false) : brnWant s n = false := by
  simp [brnWant, hf, hs]

theorem brnWant_true {s : State} {n : Nat} (hf : (s.brn n).frozen = none) (hen : rd s (BRN_CFG_EN n) = 1)
    (ho : s.sys.brnOff = false) (hr : rd s SYS_STATE_STATE = 3 ∨ rd s SYS_STATE_STATE = 4) (h3 : s.trd.p3 = true)
    (hs : brnSource s n = true) : brnWant s n = true := by
  have hrun : running s = true := by
    rcases hr with hr | hr <;> simp [running, hubState, hr, stRun, stDegraded]
  simp [brnWant, hf, flag_true hen, ho, hrun, h3, hs]

/-- Where the D2D link carries it, a branch takes its effective enable. -/
theorem brnFollow_linked {s : State} {n : Nat} (hl : s.rst.d2dBpdLost = false) : brnFollow s n = brnSetE s n (brnWant s n) := by
  simp [brnFollow, hl]

section
variable {s : State} {n : Nat}

/-- The enable falls: the branch follows by its state (R283). -/
theorem brnSetE_falls (he : rd s (BRN_STAT_E n) = 1) :
    (rd s (BRN_STAT_STATE n) = 1 → brnSetE s n false = brnToOff (wr s (BRN_STAT_E n) 0) n) ∧
    (rd s (BRN_STAT_STATE n) = 3 → brnSetE s n false = wr (wr (wr s (BRN_STAT_E n) 0) (BRN_STAT_PG n) 0) (BRN_STAT_STATE n) 4) ∧
    (rd s (BRN_STAT_STATE n) = 5 → brnSetE s n false = wr (wr s (BRN_STAT_E n) 0) (BRN_STAT_PENDING_ON n) 0) := by
  refine ⟨fun h => ?_, fun h => ?_, fun h => ?_⟩ <;>
    simp [brnSetE, flag_true he, brnState, h, bOff, bInsert, bRamp, bOn, bRetryWait, bSoftOff, bDischarge, wrB, natOf]

theorem brnSetE_rises_off (he : rd s (BRN_STAT_E n) = 0) (h : rd s (BRN_STAT_STATE n) = 0) :
    brnSetE s n true = brnOffSettle (wr s (BRN_STAT_E n) 1) n := by
  simp [brnSetE, flag_false he, brnState, h, bOff, wrB, natOf]

end

/-! ## The commands of a branch -/

section
variable {s : State} {n : Nat}

theorem exec_branchEnableChange (hn : n < 16) (hl : s.rst.d2dBpdLost = false) :
    exec (.branchEnableChange n) s = .next (brnSetE s n (brnWant s n)) := by
  change execBranchEnableChange n s = _
  rw [execBranchEnableChange, if_pos hn, brnFollow_linked hl]

/-- With ESRC = 0 ON and OFF do nothing (R282). -/
theorem brnLatch_output (he : rd s (BRN_CFG_ESRC n) = 0) (b : Bool) : brnLatch s n b = s := by
  rw [brnLatch, if_neg (by simp [flag_false he])]

/-- With ESRC = 1 ON and OFF set the latch, which the branch then follows (R282). -/
theorem brnLatch_source (hn : n < 16) (hl : s.rst.d2dBpdLost = false) (he : rd s (BRN_CFG_ESRC n) = 1) (b : Bool) :
    brnLatch s n b = brnSetE (s.setBrn n { s.brn n with latch := b }) n (brnWant (s.setBrn n { s.brn n with latch := b }) n) := by
  rw [brnLatch, if_pos ⟨hn, flag_true he⟩, brnFollow_linked (s := s.setBrn n _) hl]

theorem exec_brnOn (hb : s.rst.busy = false) : exec (.brnOn n) s = .next (brnLatch s n true) := by
  change execBrnOn n s = _
  rw [execBrnOn, whenAlive_alive _ _ hb]

theorem exec_brnOff (hb : s.rst.busy = false) : exec (.brnOff n) s = .next (brnLatch s n false) := by
  change execBrnOff n s = _
  rw [execBrnOff, whenAlive_alive _ _ hb]

theorem exec_brnClear (hb : s.rst.busy = false) : exec (.brnClear n) s = .next (brnClear s n) := by
  change execBrnClear n s = _
  rw [execBrnClear, whenAlive_alive _ _ hb]

/-- What a branch's source is after its latch is set: the latch. -/
theorem brnSource_latch (he : rd s (BRN_CFG_ESRC n) = 1) (b : Bool) :
    brnSource (s.setBrn n { s.brn n with latch := b }) n = b := by
  simp [brnSource, flag, he]

/-- ON of an OFF branch that may start takes it to INSERT (R282, R283). -/
theorem brnLatch_on (hn : n < 16) (hl : s.rst.d2dBpdLost = false) (hsrc : rd s (BRN_CFG_ESRC n) = 1)
    (hf : (s.brn n).frozen = none) (hst : rd s (BRN_STAT_STATE n) = 0) (he : rd s (BRN_STAT_E n) = 0)
    (hen : rd s (BRN_CFG_EN n) = 1) (ho : s.sys.brnOff = false) (hr : rd s SYS_STATE_STATE = 3 ∨ rd s SYS_STATE_STATE = 4)
    (h3 : s.trd.p3 = true) (hre : rd s (BRN_STAT_REARM n) = 0) (hcp : rd s (BRN_STAT_CP_OK n) = 1)
    (hreon : (s.brn n).reon = false) : ∃ t, brnLatch s n true = t ∧ (t.brn n).latch = true ∧ rd t (BRN_STAT_E n) = 1 ∧
      rd t (BRN_STAT_STATE n) = 1 ∧ brnFrame n [(BRN_STAT_STATE n).addr, (BRN_TH_TJ_T_J n).addr] s t := by
  obtain ⟨u, hu⟩ : ∃ u, u = s.setBrn n { s.brn n with latch := true } := ⟨_, rfl⟩
  have hrd : ∀ f, rd u f = rd s f := fun f => by rw [hu, rd_setBrn]
  have hbrn : u.brn n = { s.brn n with latch := true } := by rw [hu, State.brn_setBrn_self]
  have hwant : brnWant u n = true := by
    refine brnWant_true (by rw [hbrn]; exact hf) (by rw [hrd]; exact hen) (by rw [hu]; exact ho) (by rw [hrd]; exact hr)
      (by rw [hu]; exact h3) ?_
    rw [hu]; exact brnSource_latch hsrc true
  obtain ⟨v, hv⟩ : ∃ v, v = wr u (BRN_STAT_E n) 1 := ⟨_, rfl⟩
  have hE : rd v (BRN_STAT_E n) = 1 := by rw [hv, rd_wr_same _ _ rfl]; rfl
  have hkeep : ∀ f, (BRN_STAT_E n).apart f = true → rd v f = rd s f := fun f hf => by rw [hv, rd_wr_apart _ _ rfl hf, hrd]
  have hvb : v.brn n = { s.brn n with latch := true } := by rw [hv, ← hbrn]; rfl
  obtain ⟨hstate, -, hins, hbins, hframe⟩ := brnInsert_spec v n
  refine ⟨brnInsert v n, ?_, by rw [hbins, hvb]; rfl, by rw [hins (BRN_STAT_E n) rfl rfl rfl, hE], hstate, ?_⟩
  · rw [brnLatch_source hn hl hsrc, ← hu, hwant, brnSetE_rises_off (by rw [hrd]; exact he) (by rw [hrd]; exact hst), ← hv,
      brnOffSettle_starts (by rw [hkeep _ rfl]; exact hst) hE (by rw [hkeep _ rfl]; exact hre) (by rw [hkeep _ rfl]; exact hcp)
        (by rw [hvb]; exact hreon)]
  · refine brnFrame_trans ?_ hframe
    rw [hv, hu]
    exact brnFrame_wrStat (brnFrame_setBrn (brnFrame_refl _ _ _)) rfl

/-- OFF of a branch that is ON takes it to SOFT_OFF (R282, R283). -/
theorem brnLatch_off (hn : n < 16) (hl : s.rst.d2dBpdLost = false) (hsrc : rd s (BRN_CFG_ESRC n) = 1)
    (hf : (s.brn n).frozen = none) (hst : rd s (BRN_STAT_STATE n) = 3) (he : rd s (BRN_STAT_E n) = 1) :
    ∃ t, brnLatch s n false = t ∧ (t.brn n).latch = false ∧ rd t (BRN_STAT_E n) = 0 ∧ rd t (BRN_STAT_STATE n) = 4 ∧
      rd t (BRN_STAT_PG n) = 0 ∧ brnFrame n [(BRN_STAT_STATE n).addr] s t := by
  obtain ⟨u, hu⟩ : ∃ u, u = s.setBrn n { s.brn n with latch := false } := ⟨_, rfl⟩
  have hrd : ∀ f, rd u f = rd s f := fun f => by rw [hu, rd_setBrn]
  have hbrn : u.brn n = { s.brn n with latch := false } := by rw [hu, State.brn_setBrn_self]
  have hwant : brnWant u n = false :=
    brnWant_false (by rw [hbrn]; exact hf) (by rw [hu]; exact brnSource_latch hsrc false)
  obtain ⟨-, hon, -⟩ := brnSetE_falls (s := u) (n := n) (by rw [hrd]; exact he)
  refine ⟨_, by rw [brnLatch_source hn hl hsrc, ← hu, hwant, hon (by rw [hrd]; exact hst)], ?_, ?_, ?_, ?_, ?_⟩
  · exact congrArg Brn.latch hbrn
  · rw [rd_wr_apart _ _ rfl rfl, rd_wr_apart _ _ rfl rfl, rd_wr_same _ _ rfl]; rfl
  · rw [rd_wr_same _ _ rfl]; rfl
  · rw [rd_wr_apart _ _ rfl rfl, rd_wr_same _ _ rfl]; rfl
  · rw [hu]
    exact brnFrame_wrStat (brnFrame_wrStat (brnFrame_wrStat (brnFrame_setBrn (brnFrame_refl _ _ _)) rfl) rfl) rfl

/-- The fall of the output bit: an inserting branch comes to OFF, a discharging one keeps it in PENDING_ON (R283). -/
theorem brnSetE_output_falls (hsrc : rd s (BRN_CFG_ESRC n) = 0) (hf : (s.brn n).frozen = none) (ho : (s.brn n).outBit = false)
    (he : rd s (BRN_STAT_E n) = 1) :
    (rd s (BRN_STAT_STATE n) = 1 → brnSetE s n (brnWant s n) = brnToOff (wr s (BRN_STAT_E n) 0) n) ∧
    (rd s (BRN_STAT_STATE n) = 5 →
      brnSetE s n (brnWant s n) = wr (wr s (BRN_STAT_E n) 0) (BRN_STAT_PENDING_ON n) 0) := by
  have hwant : brnWant s n = false := brnWant_false hf (by simp [brnSource, flag_false hsrc, ho])
  obtain ⟨hins, -, hdis⟩ := brnSetE_falls he
  rw [hwant]
  exact ⟨hins, hdis⟩

/-- CLEAR of a latched branch takes it to OFF, and REARM to its enable (R283, R287). -/
theorem brnClear_latched (hn : n < 16) (hl : s.rst.d2dBpdLost = false) (h : rd s (BRN_STAT_STATE n) = 7) :
    ∃ t, brnClear s n = t ∧ rd t (BRN_STAT_STATE n) = 0 ∧ rd t (BRN_STAT_RCNT n) = 0 ∧
      rd t (BRN_STAT_REARM n) = rd s (BRN_STAT_E n) ∧ rd t (BRN_EVT_LATCHED n) = rd s (BRN_EVT_LATCHED n) ∧
      (t.brn n).rest = ftNs s ∧ brnFrame n [(BRN_STAT_STATE n).addr] s t := by
  obtain ⟨u, hu⟩ : ∃ u, u = wr (wr s (BRN_STAT_REARM n) (rd s (BRN_STAT_E n))) (BRN_STAT_PENDING_ON n) 0 := ⟨_, rfl⟩
  have huE : rd u (BRN_STAT_E n) = rd s (BRN_STAT_E n) := by
    rw [hu, rd_wr_apart _ _ rfl rfl, rd_wr_apart _ _ rfl rfl]
  have huR : rd u (BRN_STAT_REARM n) = rd s (BRN_STAT_E n) := by
    rw [hu, rd_wr_apart _ _ rfl rfl, rd_wr_same _ _ rfl]
    exact Nat.mod_eq_of_lt (rd_lt s (BRN_STAT_E n))
  have huF : brnFrame n [(BRN_STAT_STATE n).addr] s u := by
    rw [hu]
    exact brnFrame_wrStat (brnFrame_wrStat (brnFrame_refl _ _ _) rfl) rfl
  have huft : ftNs u = ftNs s := by rw [ftNs, hu]; rfl
  have heq : brnClear s n = brnToOff u n := by
    rw [brnClear, if_pos ⟨hn, h, by simp [hl]⟩, hu]
    rfl
  have hevt : ∀ t, brnFrame n [(BRN_STAT_STATE n).addr] s t → rd t (BRN_EVT_LATCHED n) = rd s (BRN_EVT_LATCHED n) := by
    rintro t ⟨-, hc, -⟩
    rw [rd, hc _ (by simp only [BRN_EVT_LATCHED, BRN_STAT_STATE, List.mem_singleton]; omega), rd]
  rcases rd_bit s (f := BRN_STAT_E n) rfl with he | he
  · obtain ⟨-, hstate, hrcnt, hrearm, hrest, hframe⟩ := brnToOff_disabled (s := u) (n := n) (by rw [huE, he])
    have hF := brnFrame_trans huF hframe
    exact ⟨_, heq, hstate, hrcnt, by rw [hrearm, he], hevt _ hF, by rw [hrest, huft], hF⟩
  · obtain ⟨hstate, hrcnt, hkeep, hbrn, hframe⟩ := offBrn_spec u n
    have hF := brnFrame_trans huF hframe
    refine ⟨offBrn u n, ?_, hstate, hrcnt, by rw [hkeep _ rfl rfl, huR], hevt _ hF, by rw [hbrn, huft], hF⟩
    rw [heq, brnToOff_eq, brnOffSettle_rearm hstate (by rw [hkeep _ rfl rfl, huE, he]) (by rw [hkeep _ rfl rfl, huR, he])]

theorem brnClear_unlatched (h : rd s (BRN_STAT_STATE n) ≠ 7) : brnClear s n = s := by
  rw [brnClear, if_neg]
  rintro ⟨-, h', -⟩
  exact h h'

end

/-- Settles O46: ON and OFF by `brnLatch_on` and `brnLatch_off`, the output bit by `brnSetE_output_falls`, CLEAR by
`brnClear_latched`. -/
theorem enableDrivesTheBranch : Obligations.EnableDrivesTheBranch := by
  unfold Obligations.EnableDrivesTheBranch
  refine fun n s hn hb hl => ⟨fun hsrc hf hst he hen ho hr h3 hre hcp hreon => ?_, fun hsrc hf hst he => ?_, fun hsrc => ⟨?_, ?_⟩,
    fun hsrc hf ho he => ?_, fun h => ?_, fun h => by rw [exec_brnClear hb, brnClear_unlatched h]⟩
  · obtain ⟨t, ht, h⟩ := brnLatch_on hn hl hsrc hf hst he hen ho hr h3 hre hcp hreon
    exact ⟨t, by rw [exec_brnOn hb, ht], h⟩
  · obtain ⟨t, ht, h⟩ := brnLatch_off hn hl hsrc hf hst he
    exact ⟨t, by rw [exec_brnOff hb, ht], h⟩
  · rw [exec_brnOn hb, brnLatch_output hsrc]
  · rw [exec_brnOff hb, brnLatch_output hsrc]
  · obtain ⟨hins, hdis⟩ := brnSetE_output_falls hsrc hf ho he
    have hfr : brnFrame n [(BRN_STAT_STATE n).addr] s (wr s (BRN_STAT_E n) 0) := brnFrame_wrStat (brnFrame_refl _ _ _) rfl
    have hE : rd (wr s (BRN_STAT_E n) 0) (BRN_STAT_E n) = 0 := by rw [rd_wr_same _ _ rfl]; rfl
    refine ⟨fun h => ⟨_, by rw [exec_branchEnableChange hn hl, hins h], ?_⟩, fun h => ⟨_, by rw [exec_branchEnableChange hn hl, hdis h], ?_⟩⟩
    · obtain ⟨he', hstate, hrcnt, hrearm, hrest, hframe⟩ := brnToOff_disabled hE
      exact ⟨he', hstate, hrcnt, hrearm, hrest, brnFrame_trans hfr hframe⟩
    · refine ⟨by rw [rd_wr_apart _ _ rfl rfl, hE], by rw [rd_wr_apart _ _ rfl rfl, rd_wr_apart _ _ rfl rfl, h],
        by rw [rd_wr_same _ _ rfl]; rfl, ?_⟩
      exact regsOnly_trans (regsOnly_wr s (BRN_STAT_E n) 0) (regsOnly_wr _ (BRN_STAT_PENDING_ON n) 0)
  · obtain ⟨t, ht, h'⟩ := brnClear_latched hn hl h
    exact ⟨t, by rw [exec_brnClear hb, ht], h'⟩

end Sys2Proof.Machine

/-! SUPPORT. Obligation O48: the D2D link and the charge pump at every branch, and the restart of the BPD. -/

namespace Sys2Proof.Machine

/-! ## A step over all branches -/

/-- What is looked at of a branch: its status and what it has beside its registers. -/
def brnView (n : Nat) (s : State) : Cell × Brn := (cellAt s (BRN_STAT_STATE n).addr, s.brn n)

/-- A part that only the step at index n changes is after the step over the group what that one step makes of it, from
a state that shows the same of it. -/
theorem each_view {β : Type} (g : State → β) (f : State → Nat → State) (l : List Nat) (n : Nat) (s : State)
    (hl : l.Nodup) (hn : n ∈ l) (h : ∀ u k, k ≠ n → g (f u k) = g u) : ∃ u, g u = g s ∧ g (each l f s) = g (f u n) := by
  induction l generalizing s with
  | nil => simp at hn
  | cons k l ih =>
    obtain ⟨h1, h2⟩ := List.nodup_cons.1 hl
    change ∃ u, g u = g s ∧ g (each l f (f s k)) = g (f u n)
    by_cases e : k = n
    · subst e
      exact ⟨s, rfl, each_same _ g f l fun u j hj => h u j fun e => h1 (e ▸ hj)⟩
    · obtain ⟨u, hu, hf⟩ := ih (f s k) h2 ((List.mem_cons.1 hn).resolve_left fun x => e x.symm)
      exact ⟨u, hu.trans (h _ _ e), hf⟩

/-- A field of BRN_STAT reads alike where a branch looks alike. -/
theorem rd_of_brnView {n : Nat} {s t : State} (h : brnView n s = brnView n t) (f : Fld) (hf : f.addr = (BRN_STAT_STATE n).addr) :
    rd s f = rd t f := by
  rw [rd, rd, hf, (Prod.mk.inj h).1]

theorem brn_of_brnView {n : Nat} {s t : State} (h : brnView n s = brnView n t) : s.brn n = t.brn n := (Prod.mk.inj h).2

/-- A step of one branch leaves the look of every other. -/
theorem brnView_of_frame {m n : Nat} (h : m ≠ n) {s t : State}
    (hf : brnFrame m [(BRN_STAT_STATE m).addr, (BRN_TH_TJ_T_J m).addr] s t) : brnView n t = brnView n s := by
  obtain ⟨-, hcells, hbrn⟩ := hf
  refine Prod.ext (hcells _ ?_) (hbrn n (Ne.symm h))
  simp only [BRN_STAT_STATE, BRN_TH_TJ_T_J, List.mem_cons, List.not_mem_nil, or_false, not_or]
  omega

/-- The step over all branches seen at one of them. -/
theorem brnView_each {f : State → Nat → State}
    (h : ∀ u k, brnFrame k [(BRN_STAT_STATE k).addr, (BRN_TH_TJ_T_J k).addr] u (f u k)) (s : State) {n : Nat} (hn : n < 16) :
    ∃ u, brnView n u = brnView n s ∧ brnView n (each (List.range 16) f s) = brnView n (f u n) :=
  each_view (brnView n) f _ n s List.nodup_range (List.mem_range.2 hn) fun u k hk => brnView_of_frame hk (h u k)

/-- A step over all branches that keeps each to a few registers keeps all others. -/
theorem cellsBut_each {l : List Nat} {g : Nat → List Nat} {f : State → Nat → State} (ks : List Nat)
    (h : ∀ u k, k ∈ ks → cellsBut (g k) u (f u k)) (hl : ∀ k ∈ ks, ∀ a ∈ g k, a ∈ l) (s : State) :
    cellsBut l s (each ks f s) := fun a ha =>
  each_same s (cellAt · a) f ks fun u k hk => h u k hk a fun x => ha (hl k hk a x)

/-! ## Hard off at one branch (R283, R290) -/

theorem brnHardOff_stays {s : State} {n : Nat} (h : rd s (BRN_STAT_STATE n) = 7 ∨ rd s (BRN_STAT_STATE n) = 8) :
    brnHardOff s n = s := by
  rw [brnHardOff, if_pos (show brnState s n = bFailed ∨ brnState s n = bLatchedOff from h.symm)]

theorem brnHardOff_goes {s : State} {n : Nat} (h : ¬(rd s (BRN_STAT_STATE n) = 7 ∨ rd s (BRN_STAT_STATE n) = 8)) :
    brnHardOff s n = (wr (wr (wr (wr s (BRN_STAT_STATE n) 5) (BRN_STAT_PG n) 0) (BRN_STAT_PENDING_ON n) 0)
      (BRN_STAT_REARM n) 1).setBrn n { s.brn n with reon := false } := by
  rw [brnHardOff, if_neg (show ¬(brnState s n = bFailed ∨ brnState s n = bLatchedOff) from fun x => h x.symm)]
  rfl

theorem brnHardOff_brnFrame (s : State) (n : Nat) : brnFrame n [(BRN_STAT_STATE n).addr] s (brnHardOff s n) := by
  by_cases h : rd s (BRN_STAT_STATE n) = 7 ∨ rd s (BRN_STAT_STATE n) = 8
  · rw [brnHardOff_stays h]
    exact brnFrame_refl _ _ _
  · rw [brnHardOff_goes h]
    exact brnFrame_setBrn (brnFrame_wrStat (brnFrame_wrStat (brnFrame_wrStat (brnFrame_wrStat (brnFrame_refl _ _ _) rfl) rfl) rfl) rfl)

/-- What a hard off makes of a branch: FAILED and LATCHED_OFF stay, any other is in DISCHARGE with nothing pending. -/
def hardOffAt (n : Nat) (s t : State) : Prop :=
  if rd s (BRN_STAT_STATE n) = 7 ∨ rd s (BRN_STAT_STATE n) = 8 then
    rd t (BRN_STAT_STATE n) = rd s (BRN_STAT_STATE n) ∧ rd t (BRN_STAT_REARM n) = rd s (BRN_STAT_REARM n)
  else rd t (BRN_STAT_STATE n) = 5 ∧ rd t (BRN_STAT_PG n) = 0 ∧ rd t (BRN_STAT_PENDING_ON n) = 0 ∧
    rd t (BRN_STAT_REARM n) = 1 ∧ (t.brn n).reon = false

theorem hardOffAt_brnHardOff (s : State) (n : Nat) : hardOffAt n s (brnHardOff s n) := by
  unfold hardOffAt
  split
  · rename_i h
    rw [brnHardOff_stays h]
    exact ⟨rfl, rfl⟩
  · rename_i h
    rw [brnHardOff_goes h]
    refine ⟨?_, ?_, ?_, ?_, by rw [State.brn_setBrn_self]⟩
    · rw [rd_setBrn, rd_wr_apart _ _ rfl rfl, rd_wr_apart _ _ rfl rfl, rd_wr_apart _ _ rfl rfl, rd_wr_same _ _ rfl]; rfl
    · rw [rd_setBrn, rd_wr_apart _ _ rfl rfl, rd_wr_apart _ _ rfl rfl, rd_wr_same _ _ rfl]; rfl
    · rw [rd_setBrn, rd_wr_apart _ _ rfl rfl, rd_wr_same _ _ rfl]; rfl
    · rw [rd_setBrn, rd_wr_same _ _ rfl]; rfl

/-- A hard off leaves the enable, the retries and the pump's bit of a branch. -/
theorem brnHardOff_keeps (s : State) (n : Nat) : rd (brnHardOff s n) (BRN_STAT_E n) = rd s (BRN_STAT_E n) ∧
    rd (brnHardOff s n) (BRN_STAT_RCNT n) = rd s (BRN_STAT_RCNT n) ∧
    rd (brnHardOff s n) (BRN_STAT_CP_OK n) = rd s (BRN_STAT_CP_OK n) := by
  by_cases h : rd s (BRN_STAT_STATE n) = 7 ∨ rd s (BRN_STAT_STATE n) = 8
  · rw [brnHardOff_stays h]
    exact ⟨rfl, rfl, rfl⟩
  · rw [brnHardOff_goes h]
    refine ⟨?_, ?_, ?_⟩ <;>
      rw [rd_setBrn, rd_wr_apart _ _ rfl rfl, rd_wr_apart _ _ rfl rfl, rd_wr_apart _ _ rfl rfl, rd_wr_apart _ _ rfl rfl]

/-- What a hard off makes of a branch depends on what is looked at of it. -/
theorem hardOffAt_congr {n : Nat} {s s' t t' : State} (hs : brnView n s = brnView n s') (ht : brnView n t = brnView n t')
    (h : hardOffAt n s t) : hardOffAt n s' t' := by
  have hst := fun f hf => rd_of_brnView (f := f) hs hf
  have htt := fun f hf => rd_of_brnView (f := f) ht hf
  simpa only [hardOffAt, hst (BRN_STAT_STATE n) rfl, hst (BRN_STAT_REARM n) rfl, htt (BRN_STAT_STATE n) rfl,
    htt (BRN_STAT_PG n) rfl, htt (BRN_STAT_PENDING_ON n) rfl, htt (BRN_STAT_REARM n) rfl, brn_of_brnView ht] using h

/-- A hard off of all branches acts at each, and leaves its enable, retries and pump's bit (R290). -/
theorem hardOff_spec (s : State) {n : Nat} (hn : n < 16) : hardOffAt n s (hardOff s) ∧
    rd (hardOff s) (BRN_STAT_E n) = rd s (BRN_STAT_E n) ∧ rd (hardOff s) (BRN_STAT_RCNT n) = rd s (BRN_STAT_RCNT n) ∧
    rd (hardOff s) (BRN_STAT_CP_OK n) = rd s (BRN_STAT_CP_OK n) := by
  obtain ⟨u, hu, hv⟩ := brnView_each (fun u k => brnFrame_mono (brnHardOff_brnFrame u k) (by simp)) s hn
  obtain ⟨he, hr, hc⟩ := brnHardOff_keeps u n
  have hat : ∀ f : Fld, f.addr = (BRN_STAT_STATE n).addr → rd (brnHardOff u n) f = rd u f → rd (hardOff s) f = rd s f :=
    fun f hf h => (rd_of_brnView hv f hf).trans (h.trans (rd_of_brnView hu f hf))
  exact ⟨hardOffAt_congr hu hv.symm (hardOffAt_brnHardOff u n), hat _ rfl he, hat _ rfl hr, hat _ rfl hc⟩

theorem cellsBut_hardOff (s : State) : cellsBut ((List.range 16).map fun n => (BRN_STAT_STATE n).addr) s (hardOff s) :=
  cellsBut_each _ (fun u k _ => (brnHardOff_brnFrame u k).2.1)
    (fun k hk a ha => by rw [List.mem_singleton.1 ha]; exact List.mem_map_of_mem hk) s

/-! ## The charge pump (R283, R290) -/

/-- CP_OK of every branch takes a value. -/
def cpAll (s : State) (v : Nat) : State := each (List.range 16) (fun t n => wr t (BRN_STAT_CP_OK n) v) s

theorem cpStep_frame (v : Nat) (u : State) (k : Nat) : brnFrame k [(BRN_STAT_STATE k).addr] u (wr u (BRN_STAT_CP_OK k) v) :=
  brnFrame_wrStat (brnFrame_refl _ _ _) rfl

theorem partsBut_cpAll (s : State) (v : Nat) : partsBut [.regs] s (cpAll s v) :=
  partsBut_each _ _ _ s fun u _ => partsBut_wr u _ _

theorem cellsBut_cpAll (s : State) (v : Nat) :
    cellsBut ((List.range 16).map fun n => (BRN_STAT_STATE n).addr) s (cpAll s v) :=
  cellsBut_each _ (fun u k _ => (cpStep_frame v u k).2.1)
    (fun k hk a ha => by rw [List.mem_singleton.1 ha]; exact List.mem_map_of_mem hk) s

/-- CP_OK of a branch takes the value, and its other status bits and what it has beside its registers stay. -/
theorem cpAll_spec (s : State) (v : Nat) {n : Nat} (hn : n < 16) : rd (cpAll s v) (BRN_STAT_CP_OK n) = v % 2 ∧
    (∀ f : Fld, f.addr = (BRN_STAT_STATE n).addr → (BRN_STAT_CP_OK n).apart f = true → rd (cpAll s v) f = rd s f) ∧
    (cpAll s v).brn n = s.brn n := by
  obtain ⟨u, hu, hv⟩ := brnView_each (fun u k => brnFrame_mono (cpStep_frame v u k) (by simp)) s hn
  refine ⟨?_, fun f hf ha => ?_, State.brn_congr n (partsBut_cpAll s v .brns (by decide))⟩
  · rw [cpAll, rd_of_brnView hv (BRN_STAT_CP_OK n) rfl, rd_wr_same _ _ rfl]; rfl
  · rw [cpAll, rd_of_brnView hv f hf, rd_wr_apart _ _ rfl ha, rd_of_brnView hu f hf]

/-- The charge pump's rail is noted as low or good. -/
def pumpRail (s : State) (low : Bool) : State := { s with tnk := { s.tnk with rails := withBit s.tnk.rails 8 low } }

theorem partsBut_pumpRail (s : State) (low : Bool) : partsBut [.tnk] s (pumpRail s low) := by
  intro p hp
  cases p <;> simp [Part.same, pumpRail] at hp ⊢

theorem brnView_pumpRail (n : Nat) (s : State) (low : Bool) : brnView n (pumpRail s low) = brnView n s :=
  Prod.ext (cellAt_congr _ (partsBut_pumpRail s low .regs (by decide)))
    (State.brn_congr n (partsBut_pumpRail s low .brns (by decide)))

/-- The charge pump falls below its threshold: CP_OK of all is clear, and every branch is off (R290). -/
theorem chargePumpLow_spec (s : State) : ∃ t, exec .chargePumpLow s = .next (raise t 3 256) ∧ partsBut [.regs, .brns, .tnk] s t ∧
    cellsBut ((List.range 16).map fun n => (BRN_STAT_STATE n).addr) s t ∧
    ∀ n, n < 16 → rd t (BRN_STAT_E n) = rd s (BRN_STAT_E n) ∧ rd t (BRN_STAT_RCNT n) = rd s (BRN_STAT_RCNT n) ∧
      rd t (BRN_STAT_CP_OK n) = 0 ∧ hardOffAt n s t := by
  obtain ⟨u, hu⟩ : ∃ u, u = hardOff (cpAll s 0) := ⟨_, rfl⟩
  have hrail := partsBut_pumpRail u true
  refine ⟨pumpRail u true, by rw [hu]; rfl, ?_, ?_, fun n hn => ?_⟩
  · rw [hu] at hrail ⊢
    exact partsBut_trans (partsBut_mono (partsBut_cpAll s 0) (by decide))
      (partsBut_trans (partsBut_mono (partsBut_hardOff _) (by decide)) (partsBut_mono hrail (by decide)))
  · refine cellsBut_trans (cellsBut_cpAll s 0) fun a ha => ?_
    rw [cellAt_congr a (hrail .regs (by decide)), hu]
    exact cellsBut_hardOff (cpAll s 0) a ha
  · obtain ⟨hat, he, hr, hc⟩ := hardOff_spec (cpAll s 0) hn
    obtain ⟨hcp, hkeep, hbrn⟩ := cpAll_spec s 0 hn
    rw [← hu] at hat he hr hc
    have hrd : ∀ f, rd (pumpRail u true) f = rd u f := fun f => rd_congr f (hrail .regs (by decide))
    refine ⟨(hrd _).trans (he.trans (hkeep _ rfl rfl)), (hrd _).trans (hr.trans (hkeep _ rfl rfl)), (hrd _).trans (hc.trans hcp), ?_⟩
    have hat' := hardOffAt_congr rfl (brnView_pumpRail n u true).symm hat
    simpa only [hardOffAt, hkeep (BRN_STAT_STATE n) rfl rfl, hkeep (BRN_STAT_REARM n) rfl rfl] using hat'

/-- The charge pump is back: CP_OK of all is set, and an OFF branch does what OFF does with its enable (R283). -/
theorem chargePumpOk_spec (s : State) : ∃ t, exec .chargePumpOk s = .next t ∧ partsBut [.regs, .brns, .tnk] s t ∧
    cellsBut (((List.range 16).map fun n => (BRN_STAT_STATE n).addr) ++ (List.range 16).map fun n => (BRN_TH_TJ_T_J n).addr) s t ∧
    ∀ n, n < 16 → rd t (BRN_STAT_CP_OK n) = 1 ∧ rd t (BRN_STAT_E n) = rd s (BRN_STAT_E n) ∧
      (rd s (BRN_STAT_STATE n) ≠ 0 → rd t (BRN_STAT_STATE n) = rd s (BRN_STAT_STATE n)) ∧
      (rd s (BRN_STAT_STATE n) = 0 → rd s (BRN_STAT_E n) = 1 → rd s (BRN_STAT_REARM n) = 0 → (s.brn n).reon = false →
        rd t (BRN_STAT_STATE n) = 1 ∧ rd t (BRN_STAT_PENDING_ON n) = 0) := by
  obtain ⟨s1, hs1⟩ : ∃ s1, s1 = pumpRail s false := ⟨_, rfl⟩
  have hs1p : partsBut [.tnk] s s1 := hs1 ▸ partsBut_pumpRail s false
  have hrd : ∀ f, rd s1 f = rd s f := fun f => rd_congr f (hs1p .regs (by decide))
  obtain ⟨v, hv⟩ : ∃ v, v = cpAll s1 1 := ⟨_, rfl⟩
  have hparts : partsBut [.regs, .brns] v (each (List.range 16) brnOffSettle v) :=
    partsBut_each _ _ _ v fun u k => (brnOffSettle_frame u k).2.2.1
  refine ⟨each (List.range 16) brnOffSettle v, by rw [hv, hs1]; rfl, ?_, ?_, fun n hn => ?_⟩
  · rw [hv] at hparts ⊢
    exact partsBut_trans (partsBut_mono hs1p (by decide)) (partsBut_trans (partsBut_mono (partsBut_cpAll s1 1) (by decide))
      (partsBut_mono hparts (by decide)))
  · have h1 : cellsBut ((List.range 16).map fun n => (BRN_STAT_STATE n).addr) s v := fun a ha => by
      rw [hv, cellsBut_cpAll s1 1 a ha, cellAt_congr a (hs1p .regs (by decide))]
    refine cellsBut_trans (cellsBut_mono h1 (by simp +contextual)) (cellsBut_each _ (fun u k _ => (brnOffSettle_frame u k).2.2.2.1)
      (fun k hk a ha => ?_) v)
    simp only [List.mem_cons, List.not_mem_nil, or_false] at ha
    rcases ha with rfl | rfl
    · exact List.mem_append_left _ (List.mem_map_of_mem hk)
    · exact List.mem_append_right _ (List.mem_map_of_mem hk)
  · obtain ⟨hcp, hkeep, hbrn⟩ := cpAll_spec s1 1 hn
    rw [← hv] at hcp hkeep hbrn
    have hsv : ∀ f : Fld, f.addr = (BRN_STAT_STATE n).addr → (BRN_STAT_CP_OK n).apart f = true → rd v f = rd s f :=
      fun f hf ha => (hkeep f hf ha).trans (hrd f)
    obtain ⟨u, hu, hview⟩ := brnView_each (f := brnOffSettle) (fun u k => (brnOffSettle_frame u k).2.2) v hn
    have hus : ∀ f : Fld, f.addr = (BRN_STAT_STATE n).addr → (BRN_STAT_CP_OK n).apart f = true → rd u f = rd s f :=
      fun f hf ha => (rd_of_brnView hu f hf).trans (hsv f hf ha)
    have hucp : rd u (BRN_STAT_CP_OK n) = 1 := (rd_of_brnView hu (BRN_STAT_CP_OK n) rfl).trans hcp
    obtain ⟨hE, hC, -⟩ := brnOffSettle_frame u n
    refine ⟨?_, ?_, fun h0 => ?_, fun h0 he hre hreon => ?_⟩
    · rw [rd_of_brnView hview (BRN_STAT_CP_OK n) rfl, hC, hucp]
    · rw [rd_of_brnView hview (BRN_STAT_E n) rfl, hE, hus (BRN_STAT_E n) rfl rfl]
    · have h0' : rd u (BRN_STAT_STATE n) ≠ 0 := by rw [hus (BRN_STAT_STATE n) rfl rfl]; exact h0
      rw [rd_of_brnView hview (BRN_STAT_STATE n) rfl, brnOffSettle_notOff h0', hus (BRN_STAT_STATE n) rfl rfl]
    · have hr : (u.brn n).reon = false := by
        rw [brn_of_brnView hu, hbrn, State.brn_congr n (hs1p .brns (by decide)), hreon]
      obtain ⟨hst, hp, -⟩ := brnInsert_spec u n
      have e := brnOffSettle_starts ((hus (BRN_STAT_STATE n) rfl rfl).trans h0) ((hus (BRN_STAT_E n) rfl rfl).trans he)
        ((hus (BRN_STAT_REARM n) rfl rfl).trans hre) hucp hr
      exact ⟨by rw [rd_of_brnView hview (BRN_STAT_STATE n) rfl, e, hst], by rw [rd_of_brnView hview (BRN_STAT_PENDING_ON n) rfl, e, hp]⟩

/-! ## The D2D link (R11, R12) -/

/-- The BPD's side has noted the loss of the link. -/
def bpdNoted (s : State) : State := { s with rst := { s.rst with d2dBpdLost := true, d2dRetxBpd := 0 } }

/-- The BPD has declared the link lost, or not. -/
def bpdLost (s : State) (bpd : Bool) : State := if bpd then hardOff (bpdNoted s) else s

/-- The hub die has declared the link lost, or not. -/
def hubLost (s : State) (hub : Bool) : State :=
  if hub then { s with rst := { s.rst with d2dHubLost := true, d2dRetx := 0 } } else s

theorem exec_d2dLinkLost (s : State) (hub bpd ex : Bool) : exec (.d2dLinkLost hub bpd ex) s =
    .next (if hub then raise (hubLost (bpdLost s bpd) hub) 1 (if ex then 2 else 1) else hubLost (bpdLost s bpd) hub) := by
  change execD2dLinkLost hub bpd ex s = _
  cases hub <;> simp only [execD2dLinkLost, d2dLost, hubLost, bpdLost, bpdNoted, Bool.false_eq_true, if_false, if_true]

theorem partsBut_bpdNoted (s : State) : partsBut [.rst] s (bpdNoted s) := by
  intro p hp
  cases p <;> simp [Part.same, bpdNoted] at hp ⊢

theorem partsBut_hubLost (s : State) (hub : Bool) : partsBut [.rst] s (hubLost s hub) := by
  cases hub
  · exact partsBut_refl _ _
  · intro p hp
    cases p <;> simp [Part.same, hubLost] at hp ⊢

theorem bpdLost_true (s : State) : bpdLost s true = hardOff (bpdNoted s) := if_pos rfl

theorem partsBut_bpdLost (s : State) (bpd : Bool) : partsBut [.regs, .brns, .rst] s (bpdLost s bpd) := by
  cases bpd
  · exact partsBut_refl _ _
  · rw [bpdLost_true]
    exact partsBut_trans (partsBut_mono (partsBut_bpdNoted s) (by decide)) (partsBut_mono (partsBut_hardOff _) (by decide))

theorem rst_bpdLost (s : State) (bpd : Bool) : (bpdLost s bpd).rst = { s.rst with
    d2dBpdLost := bpd || s.rst.d2dBpdLost, d2dRetxBpd := if bpd then 0 else s.rst.d2dRetxBpd } := by
  cases bpd
  · rfl
  · rw [bpdLost_true, partsBut_hardOff (bpdNoted s) .rst (by decide)]
    rfl

theorem brnView_bpdNoted (n : Nat) (s : State) : brnView n (bpdNoted s) = brnView n s :=
  Prod.ext (cellAt_congr _ (partsBut_bpdNoted s .regs (by decide))) (State.brn_congr n (partsBut_bpdNoted s .brns (by decide)))

/-- A loss of the link: each side that declares it records it, and on the BPD's side every branch is off (R12, R290). -/
theorem d2dLinkLost_spec (s : State) (hub bpd ex : Bool) : ∃ t,
    exec (.d2dLinkLost hub bpd ex) s = .next (if hub then raise t 1 (if ex then 2 else 1) else t) ∧
    partsBut [.regs, .brns, .rst] s t ∧ cellsBut ((List.range 16).map fun n => (BRN_STAT_STATE n).addr) s t ∧
    t.rst = { s.rst with
      d2dHubLost := hub || s.rst.d2dHubLost, d2dRetx := if hub then 0 else s.rst.d2dRetx
      d2dBpdLost := bpd || s.rst.d2dBpdLost, d2dRetxBpd := if bpd then 0 else s.rst.d2dRetxBpd } ∧
    (bpd = false → t.regs = s.regs ∧ t.brns = s.brns) ∧
    (bpd = true → ∀ n, n < 16 → rd t (BRN_STAT_E n) = rd s (BRN_STAT_E n) ∧ rd t (BRN_STAT_RCNT n) = rd s (BRN_STAT_RCNT n) ∧
      rd t (BRN_STAT_CP_OK n) = rd s (BRN_STAT_CP_OK n) ∧ hardOffAt n s t) := by
  have hhub := partsBut_hubLost (bpdLost s bpd) hub
  refine ⟨hubLost (bpdLost s bpd) hub, exec_d2dLinkLost s hub bpd ex,
    partsBut_trans (partsBut_bpdLost s bpd) (partsBut_mono hhub (by decide)), fun a ha => ?_, ?_, fun hf => ?_, fun ht n hn => ?_⟩
  · rw [cellAt_congr a (hhub .regs (by decide))]
    cases bpd
    · rfl
    · rw [bpdLost_true, cellsBut_hardOff _ a ha, cellAt_congr a (partsBut_bpdNoted s .regs (by decide))]
  · cases hub <;> simp [hubLost, rst_bpdLost]
  · subst hf
    exact ⟨hhub .regs (by decide), hhub .brns (by decide)⟩
  · subst ht
    rw [bpdLost_true] at hhub ⊢
    obtain ⟨hat, he, hr, hc⟩ := hardOff_spec (bpdNoted s) hn
    have hrd : ∀ f, rd (hubLost (hardOff (bpdNoted s)) hub) f = rd (hardOff (bpdNoted s)) f :=
      fun f => rd_congr f (hhub .regs (by decide))
    have hs : ∀ f, rd (bpdNoted s) f = rd s f := fun f => rd_congr f (partsBut_bpdNoted s .regs (by decide))
    refine ⟨(hrd _).trans (he.trans (hs _)), (hrd _).trans (hr.trans (hs _)), (hrd _).trans (hc.trans (hs _)),
      hardOffAt_congr (brnView_bpdNoted n s) (Prod.ext ?_ ?_) hat⟩
    · exact (cellAt_congr _ (hhub .regs (by decide))).symm
    · exact (State.brn_congr n (hhub .brns (by decide))).symm

/-- A branch that takes an enable changes its own status and junction estimate alone. -/
theorem brnSetE_parts (s : State) (n : Nat) (e : Bool) : partsBut [.regs, .brns] s (brnSetE s n e) := by
  have hwr : ∀ (t : State) f v, partsBut [.regs, .brns] s t → partsBut [.regs, .brns] s (wr t f v) :=
    fun t f v h => partsBut_trans h (partsBut_mono (partsBut_wr t f v) (by decide))
  have hset : partsBut [.regs, .brns] s (wrB s (BRN_STAT_E n) e) := hwr s _ _ (partsBut_refl _ _)
  have hsettle : ∀ t, partsBut [.regs, .brns] s t → partsBut [.regs, .brns] s (brnOffSettle t n) :=
    fun t h => partsBut_trans h (brnOffSettle_frame t n).2.2.1
  have hoff : partsBut [.regs, .brns] s (brnToOff (wrB s (BRN_STAT_E n) e) n) := by
    obtain ⟨-, -, -, -, hp, -, -⟩ := offBrn_spec (wrB s (BRN_STAT_E n) e) n
    rw [brnToOff_eq]
    exact hsettle _ (partsBut_trans hset hp)
  unfold brnSetE
  split
  · exact partsBut_refl _ _
  · dsimp only
    split
    · exact hsettle _ hset
    · split
      · split
        · exact hset
        · exact hoff
      · split
        · split
          · exact hset
          · exact hwr _ _ _ (hwr _ _ _ hset)
        · split
          · split
            · exact hset
            · exact hoff
          · split
            · exact hwr _ _ _ hset
            · exact hset

/-- While the D2D link carries them, every branch takes its effective enable. -/
theorem brnFollowAll_linked {s : State} (h : s.rst.d2dBpdLost = false) :
    brnFollowAll s = each (List.range 16) (fun t n => brnSetE t n (brnWant t n)) s := by
  unfold brnFollowAll each
  induction List.range 16 generalizing s with
  | nil => rfl
  | cons k l ih =>
    have hstep : brnFollow s k = brnSetE s k (brnWant s k) := brnFollow_linked h
    have hrst : (brnSetE s k (brnWant s k)).rst = s.rst := brnSetE_parts s k _ .rst (by decide)
    rw [List.foldl_cons, List.foldl_cons, hstep]
    exact ih (by rw [hrst, h])

/-! ## Link frames and the restart of the BPD (R12, R401) -/

theorem exec_d2dLinkFrame (s : State) (ok toBpd : Bool) : exec (.d2dLinkFrame ok toBpd) s = execD2dLinkFrame ok toBpd s := rfl

/-- A frame that has failed its third retransmission loses the link for both sides (R12). -/
theorem d2dLinkFrame_exhausted {s : State} {toBpd : Bool} (hl : (if toBpd then s.rst.d2dBpdLost else s.rst.d2dHubLost) = false)
    (h3 : 3 ≤ (if toBpd then s.rst.d2dRetxBpd else s.rst.d2dRetx)) :
    exec (.d2dLinkFrame false toBpd) s = exec (.d2dLinkLost true true true) s := by
  rw [exec_d2dLinkFrame, execD2dLinkFrame, if_neg (by decide), if_neg (by simp [hl]), if_pos h3]
  rfl

/-- A good frame to the hub die brings the link back, and the trips that waited are raised (R12, R291). -/
theorem d2dLinkFrame_toHub {s u : State} (hu : u = { s with rst := { s.rst with d2dRetx := 0, d2dHubLost := false } }) :
    exec (.d2dLinkFrame true false) s = .next (if s.rst.d2dHubLost = true ∧ s.rst.hold = false then heldTrips u else u) := by
  rw [exec_d2dLinkFrame, execD2dLinkFrame, hu]
  simp [setRetx]

/-- A good frame to the BPD brings the link back, and the BPD takes every enable (R11, R12). -/
theorem d2dLinkFrame_toBpd {s u : State} (hu : u = { s with rst := { s.rst with d2dRetxBpd := 0, d2dBpdLost := false } }) :
    exec (.d2dLinkFrame true true) s =
      .next (if s.rst.d2dBpdLost = true then each (List.range 16) (fun t n => brnSetE t n (brnWant t n)) u else u) := by
  rw [← brnFollowAll_linked (s := u) (by rw [hu]), exec_d2dLinkFrame, execD2dLinkFrame, hu]
  simp [setRetx]

/-- A frame that fails its CRC while its side holds the link is retransmitted; it changes nothing once the link is lost. -/
theorem d2dLinkFrame_failed (s : State) :
    (s.rst.d2dHubLost = false → s.rst.d2dRetx < 3 → exec (.d2dLinkFrame false false) s =
      .next { s with rst := { s.rst with d2dRetx := s.rst.d2dRetx + 1 } }) ∧
    (s.rst.d2dBpdLost = false → s.rst.d2dRetxBpd < 3 → exec (.d2dLinkFrame false true) s =
      .next { s with rst := { s.rst with d2dRetxBpd := s.rst.d2dRetxBpd + 1 } }) ∧
    (s.rst.d2dHubLost = true → exec (.d2dLinkFrame false false) s = .next s) ∧
    (s.rst.d2dBpdLost = true → exec (.d2dLinkFrame false true) s = .next s) := by
  refine ⟨fun hl h3 => ?_, fun hl h3 => ?_, fun hl => ?_, fun hl => ?_⟩ <;> rw [exec_d2dLinkFrame, execD2dLinkFrame]
  · simp [setRetx, hl, Nat.not_le.2 h3]
  · simp [setRetx, hl, Nat.not_le.2 h3]
  · simp [hl]
  · simp [hl]

/-- A restart of the BPD: its registers at their reset values, and no branch with a timer, a pending run or a configuration. -/
theorem vddBpdPor_spec (s : State) : ∃ t, exec .vddBpdPor s = .next t ∧ partsBut [.regs, .brns] s t ∧
    (∀ a, heldByBpd a = true → cellAt t a = cellReset a) ∧ (∀ a, heldByBpd a = false → cellAt t a = cellAt s a) ∧
    ∀ n, t.brn n = { latch := (s.brn n).latch, outBit := (s.brn n).outBit } := by
  refine ⟨_, rfl, fun p hp => ?_, fun a ha => ?_, fun a ha => ?_, fun n => ?_⟩
  · cases p <;> simp [Part.same] at hp ⊢
  · exact (tget_filter cellReset s.regs (fun k => !heldByBpd k) a).trans (by simp [ha])
  · exact (tget_filter cellReset s.regs (fun k => !heldByBpd k) a).trans (by simp [ha, cellAt])
  · exact tget_map (fun _ => {}) (fun _ => {}) s.brns (fun b => ({ latch := b.latch, outBit := b.outBit } : Brn)) n rfl

/-- Settles O48: the pump by `chargePumpLow_spec` and `chargePumpOk_spec`, the link by `d2dLinkLost_spec` and the lemmas of
its frames, the restart by `vddBpdPor_spec`. -/
theorem linkAndPumpOfTheBranches : Obligations.LinkAndPumpOfTheBranches := by
  unfold Obligations.LinkAndPumpOfTheBranches
  refine ⟨⟨chargePumpLow_spec, d2dLinkLost_spec, fun s toBpd => d2dLinkFrame_exhausted⟩, fun s => ?_⟩
  obtain ⟨hretxHub, hretxBpd, hlostHub, hlostBpd⟩ := d2dLinkFrame_failed s
  refine ⟨fun u hu => ?_, fun u => d2dLinkFrame_toBpd, hretxHub, hretxBpd, hlostHub, hlostBpd, chargePumpOk_spec s, ?_⟩
  · rw [d2dLinkFrame_toHub hu, hu]
    rfl
  · obtain ⟨t, ht, hp, hheld, hother, hbrn⟩ := vddBpdPor_spec s
    exact ⟨t, ht, hp, hheld, hother, fun n => by rw [hbrn]; exact ⟨rfl, rfl, rfl, rfl, rfl⟩⟩

end Sys2Proof.Machine

/-! SUPPORT. Obligation O53: accesses of firmware through the outbound windows. -/

namespace Sys2Proof.Machine

/-! ## Commands of an outbound window (R316) -/

section
variable {s : State} {ini a : Nat} (hb : s.rst.busy = false) (hi : ini < 2) (ho : isOutbound (a % 2 ^ 32) = true)
include hb hi ho

theorem exec_outboundRead (count : Nat) : exec (.outboundRead ini a count) s =
    .next (if a % 4 ≠ 0 then s.emit (.busRsp ini 2 0) else outbound s ini 1 (a % 2 ^ 32) 1 0 []) := by
  have h4 : a % 2 ^ 32 % 4 = a % 4 := by omega
  change execOutboundRead ini a count s = _
  simp only [execOutboundRead, ho, whenAlive_alive _ _ hb, h4, iniLp, iniMgmt, show ini ≠ 3 by omega, show ¬2 ≤ ini by omega,
    Bool.not_true, Bool.false_eq_true, if_false]
  rfl

theorem exec_outboundWrite (data : List Nat) : exec (.outboundWrite ini a data) s =
    .next (if a % 4 ≠ 0 then s.emit (.busRsp ini 2 0) else outbound s ini 2 (a % 2 ^ 32) 1 0 [data.headD 0]) := by
  have h4 : a % 2 ^ 32 % 4 = a % 4 := by omega
  change execOutboundWrite ini a data s = _
  simp only [execOutboundWrite, ho, whenAlive_alive _ _ hb, h4, iniLp, iniMgmt, show ini ≠ 3 by omega, show ¬2 ≤ ini by omega,
    Bool.not_true, Bool.false_eq_true, if_false]
  rfl

end

/-! ## An access through a window (R15, R316, R317) -/

section
variable {s : State} {ini op a count mask w : Nat} {data : List Nat} (hw : w = bits a 24 4)
include hw

theorem outbound_disabled (he : rd s (FRY_OUT0_EN w) = 0) :
    outbound s ini op a count mask data = outEnd s ini w (a % 2 ^ 24) 2 [] := by
  subst hw
  simp only [outbound, flag_false he, Bool.not_false, if_true]
  rfl

theorem outbound_badReq (he : rd s (FRY_OUT0_EN w) = 1)
    (h : 2 ^ 24 < a % 2 ^ 24 + 4 * count ∨ rd s (FRY_OUT0_HUB w) = 0 ∨ rd s (FRY_OUT0_HUB w) = 4095 ∧ op ≠ 2) :
    outbound s ini op a count mask data = outEnd s ini w (a % 2 ^ 24) 8 [] := by
  subst hw
  have h' : 2 ^ 24 < a % 2 ^ 24 + 4 * count ∨ rd s (FRY_OUT0_HUB (bits a 24 4)) = 0 ∨
    (rd s (FRY_OUT0_HUB (bits a 24 4)) = 4095 ∧ op ≠ opWrite) := h
  simp only [outbound, flag_true he, Bool.not_true, Bool.false_eq_true, if_false, if_pos h']
  rfl

/-- An access that the initiator's buffer does not serve becomes a transaction. -/
theorem outbound_starts (he : rd s (FRY_OUT0_EN w) = 1) (hend : a % 2 ^ 24 + 4 * count ≤ 2 ^ 24) (h0 : rd s (FRY_OUT0_HUB w) ≠ 0)
    (hbc : rd s (FRY_OUT0_HUB w) ≠ 4095 ∨ op = 2) {t : State} {x : Txn} (ht : t = outDiscard s ini op a count)
    (hbuf : op ≠ 1 ∨ count ≠ 1 ∨ bufferWord t ini a = none)
    (hx : x = { ini := ini, hub := rd s (FRY_OUT0_HUB w), tag := 0, op := op, win := w, off := a % 2 ^ 24, count := count, mask := mask,
                data := data, pf := decide (op = 1 ∧ count = 1 ∧ rd s (FRY_OUT0_PREF w) = 1), expires := 0 }) :
    outbound s ini op a count mask data = outStart t x := by
  subst hw
  have hbad : ¬(2 ^ 24 < a % 2 ^ 24 + 4 * count ∨ rd s (FRY_OUT0_HUB (bits a 24 4)) = 0 ∨
      (rd s (FRY_OUT0_HUB (bits a 24 4)) = 4095 ∧ op ≠ opWrite)) := by
    simp only [opWrite]; omega
  have hnone : (if op = opRead ∧ count = 1 then bufferWord t ini a else none) = none := by
    split
    · rename_i h
      rcases hbuf with hb | hb | hb
      · exact absurd h.1 hb
      · exact absurd h.2 hb
      · exact hb
    · rfl
  have hpf : (op == opRead && count == 1 && flag s (FRY_OUT0_PREF (bits a 24 4))) =
      decide (op = 1 ∧ count = 1 ∧ rd s (FRY_OUT0_PREF (bits a 24 4)) = 1) := by
    rcases rd_bit s (f := FRY_OUT0_PREF (bits a 24 4)) rfl with h | h <;> simp [flag, h, opRead, Bool.beq_eq_decide_eq]
  rw [ht] at hnone ⊢
  simp only [outbound, flag_true he, Bool.not_true, Bool.false_eq_true, if_false, if_neg hbad, hpf, hnone]
  rw [hx]

end

/-- A transaction is issued where the table has an entry and none waits, and waits otherwise (R316). -/
theorem outStart_issued {t : State} (x : Txn) (hl : t.fry.txns.length < 32) (hw : t.fry.waiting = []) :
    outStart t x = outIssue t x := by rw [outStart, if_pos ⟨hl, hw⟩]

theorem outStart_waits {t : State} (x : Txn) (h : 32 ≤ t.fry.txns.length ∨ t.fry.waiting ≠ []) : outStart t x =
    { t with fry := { t.fry with waiting := t.fry.waiting ++ [{ x with expires := ftNs t + 1000 * outTmo t x.win }] } } := by
  rw [outStart, if_neg]
  rintro ⟨h1, h2⟩
  exact h.elim (by omega) (· h2)

/-- A transaction that is issued takes the next tag, and stands in the table unless no route leads to its hub (R316). -/
theorem outIssue_spec {s : State} {x y : Txn}
    (hy : y = { x with tag := rd s FRY_STATUS_NEXT_TAG, expires := ftNs s + 1000 * outTmo s x.win }) :
    ∃ t r, rd t FRY_STATUS_NEXT_TAG = (rd s FRY_STATUS_NEXT_TAG + 1) % 2 ^ 16 ∧ regsOnly [FRY_STATUS_NEXT_TAG.addr] s t ∧
      r = insertFrame t (if x.ini = 3 then 3 else 4) (mHead (if x.hub = 4095 then tBwr else tReq) 5 (outPayload s y).length x.hub 0 0)
        (outPayload s y) (ftNs s) ∧
      (r.1 = .noRoute → outIssue s x = outEnd r.2 x.ini x.win x.off 7 []) ∧
      (r.1 ≠ .noRoute → outIssue s x = { r.2 with fry := { r.2.fry with txns := r.2.fry.txns ++ [y] } }) := by
  obtain ⟨t, ht⟩ : ∃ t, t = wr s FRY_STATUS_NEXT_TAG (rd s FRY_STATUS_NEXT_TAG + 1) := ⟨_, rfl⟩
  obtain ⟨r, hr⟩ : ∃ r, r = insertFrame t (if x.ini = 3 then 3 else 4)
    (mHead (if x.hub = 4095 then tBwr else tReq) 5 (outPayload s y).length x.hub 0 0) (outPayload s y) (ftNs s) := ⟨_, rfl⟩
  have heq : outIssue s x = match r.1 with
      | .noRoute => outEnd r.2 x.ini x.win x.off scNoRoute []
      | _ => { r.2 with fry := { r.2.fry with txns := r.2.fry.txns ++ [y] } } := by
    rw [hr, ht, hy]
    rfl
  refine ⟨t, r, by rw [ht]; exact rd_wr_same s _ rfl, by rw [ht]; exact regsOnly_wr _ _ _, hr, fun h => ?_, fun h => ?_⟩
  · rw [heq, h]
    rfl
  · rw [heq]
    cases h' : r.1 with
    | noRoute => exact absurd h' h
    | ok => rfl
    | refused => rfl

/-- An access that ends answers its status; one that is not OK is kept in LAST_ERR (R317). -/
theorem outEnd_spec (s : State) {ini win off st : Nat} (data : List Nat) (hi : ini ≠ 3) (hw : win < 16) (ho : off < 2 ^ 24)
    (hs : st < 16) : (st = 0 → outEnd s ini win off st data = s.emit (.busRsp ini 0 (data.headD 0))) ∧
    (st ≠ 0 → ∃ t, outEnd s ini win off st data = t.emit (.busRsp ini st 0) ∧ rd t FRY_LAST_ERR_STATUS = st ∧
      rd t FRY_LAST_ERR_WINDOW = win ∧ rd t FRY_LAST_ERR_OFFSET = off ∧ regsOnly [FRY_LAST_ERR_STATUS.addr] s t) := by
  refine ⟨fun h => ?_, fun h => ?_⟩
  · subst h
    simp [outEnd, iniLp, hi, scOk]
  · refine ⟨wr (wr (wr s FRY_LAST_ERR_STATUS st) FRY_LAST_ERR_WINDOW win) FRY_LAST_ERR_OFFSET off, ?_, ?_, ?_, ?_, ?_⟩
    · simp [outEnd, iniLp, hi, scOk, h]
    · rw [rd_wr_apart _ _ rfl rfl, rd_wr_apart _ _ rfl rfl, rd_wr_same _ _ rfl]
      exact Nat.mod_eq_of_lt hs
    · rw [rd_wr_apart _ _ rfl rfl, rd_wr_same _ _ rfl]
      exact Nat.mod_eq_of_lt hw
    · rw [rd_wr_same _ _ rfl]
      exact Nat.mod_eq_of_lt ho
    · exact regsOnly_trans (regsOnly_wr _ FRY_LAST_ERR_STATUS _) (regsOnly_trans (regsOnly_wr _ FRY_LAST_ERR_WINDOW _)
        (regsOnly_wr _ FRY_LAST_ERR_OFFSET _))

/-! ## Late responses (R318) -/

/-- The log of late responses stands behind every other register of the block that it is kept with. -/
theorem lateLog_ne {a : Nat} (h : a < 0x40100100) (i : Nat) : (FRY_LATE0_TAG i).addr ≠ a ∧ (FRY_LATE1_HUB i).addr ≠ a := by
  simp only [FRY_LATE0_TAG, FRY_LATE1_HUB]; omega

theorem late0_ne (i j : Nat) : (FRY_LATE0_TAG i).addr ≠ (FRY_LATE1_HUB j).addr ∧ (FRY_LATE0_TAG i).addr ≠ (FRY_LATE2_INFO j).addr ∧
    (FRY_LATE1_HUB i).addr ≠ (FRY_LATE2_INFO j).addr := by
  simp only [FRY_LATE0_TAG, FRY_LATE1_HUB, FRY_LATE2_INFO]; omega

/-- The registers of an entry of the log as a late response leaves them. -/
def lateRegs (s : State) (hub tag op st info : Nat) : State :=
  incSat (wrs s [(FRY_LATE0_TAG (rd s FRY_LATE_PTR_NEXT), tag), (FRY_LATE0_STATUS (rd s FRY_LATE_PTR_NEXT), st),
    (FRY_LATE0_OP (rd s FRY_LATE_PTR_NEXT), op), (FRY_LATE1_HUB (rd s FRY_LATE_PTR_NEXT), hub),
    (FRY_LATE2_INFO (rd s FRY_LATE_PTR_NEXT), info), (FRY_LATE_PTR_NEXT, rd s FRY_LATE_PTR_NEXT + 1), (FRY_EVT_LATE, 1)]) FRY_CNT_LATE

theorem partsBut_lateRegs (s : State) (hub tag op st info : Nat) : partsBut [.regs] s (lateRegs s hub tag op st info) :=
  partsBut_trans (partsBut_wrs _ _) (partsBut_wr _ _ _)

/-- A late response is logged in the next entry, counted and raised. -/
theorem lateLog_spec (s : State) {hub tag : Nat} (op st info : Nat) (ht : tag < 2 ^ 16) (hh : hub < 2 ^ 12) : ∃ i t,
    i = rd s FRY_LATE_PTR_NEXT ∧ lateLog s hub tag op st info = raise t 106 (tag + st * 2 ^ 16) ∧ rd t (FRY_LATE0_TAG i) = tag ∧
    rd t (FRY_LATE0_STATUS i) = st % 2 ^ (FRY_LATE0_STATUS 0).w ∧ rd t (FRY_LATE1_HUB i) = hub ∧ rd t FRY_EVT_LATE = 1 ∧
    rd t FRY_LATE_PTR_NEXT = (i + 1) % 16 ∧ rd t FRY_CNT_LATE = min (rd s FRY_CNT_LATE + 1) (2 ^ FRY_CNT_LATE.w - 1) ∧
    partsBut [.regs] s t := by
  obtain ⟨i, hi⟩ : ∃ i, i = rd s FRY_LATE_PTR_NEXT := ⟨_, rfl⟩
  have hcnt := lateLog_ne (a := FRY_CNT_LATE.addr) (by decide) i
  have hevt := lateLog_ne (a := FRY_EVT_LATE.addr) (by decide) i
  have hptr := lateLog_ne (a := FRY_LATE_PTR_NEXT.addr) (by decide) i
  have hinfo : ∀ a, a < 0x40100100 → a ≠ (FRY_LATE2_INFO i).addr := fun a ha => by simp only [FRY_LATE2_INFO]; omega
  obtain ⟨h01, h02, h12⟩ := late0_ne i i
  refine ⟨i, lateRegs s hub tag op st info, hi, rfl, ?_, ?_, ?_, ?_, ?_, ?_, partsBut_lateRegs s hub tag op st info⟩ <;>
    simp only [lateRegs, ← hi, wrs_cons, wrs_nil, incSat, addSat]
  · rw [rd_wr_addr _ _ _ _ hcnt.1, rd_wr_addr _ _ _ _ hevt.1, rd_wr_addr _ _ _ _ hptr.1, rd_wr_addr _ _ _ _ h02,
      rd_wr_addr _ _ _ _ h01, rd_wr_apart _ _ rfl rfl, rd_wr_apart _ _ rfl rfl, rd_wr_same _ _ rfl]
    exact Nat.mod_eq_of_lt ht
  · rw [rd_wr_addr _ _ (FRY_LATE0_STATUS i) _ hcnt.1, rd_wr_addr _ _ (FRY_LATE0_STATUS i) _ hevt.1,
      rd_wr_addr _ _ (FRY_LATE0_STATUS i) _ hptr.1, rd_wr_addr _ _ (FRY_LATE0_STATUS i) _ h02,
      rd_wr_addr _ _ (FRY_LATE0_STATUS i) _ h01, rd_wr_apart _ _ rfl rfl, rd_wr_same _ _ rfl]
    rfl
  · rw [rd_wr_addr _ _ _ _ hcnt.2, rd_wr_addr _ _ _ _ hevt.2, rd_wr_addr _ _ _ _ hptr.2, rd_wr_addr _ _ _ _ h12,
      rd_wr_same _ _ rfl]
    exact Nat.mod_eq_of_lt hh
  · rw [rd_wr_addr _ _ _ _ (by decide), rd_wr_same _ _ rfl]
    rfl
  · rw [rd_wr_addr _ _ _ _ (by decide), rd_wr_addr _ _ _ _ (by decide), rd_wr_same _ _ rfl]
    rfl
  · rw [rd_wr_same _ _ rfl, rd_wr_addr _ _ _ _ (by decide), rd_wr_addr _ _ _ _ (by decide), rd_wr_addr _ _ _ _ (hinfo _ (by decide)),
      rd_wr_addr _ _ _ _ hcnt.2.symm, rd_wr_addr _ (FRY_LATE0_OP i) FRY_CNT_LATE _ hcnt.1.symm,
      rd_wr_addr _ (FRY_LATE0_STATUS i) FRY_CNT_LATE _ hcnt.1.symm, rd_wr_addr _ _ _ _ hcnt.1.symm]
    exact Nat.mod_eq_of_lt (lt_of_le_of_lt (Nat.min_le_right _ _) (by decide))

/-! ## Responses and expiries (R316 to R318) -/

section
variable {s : State} (hb : s.rst.busy = false)
include hb

theorem exec_mgmtRsp_unmatched {hub tag op : Nat} (h : ∀ x ∈ s.fry.txns, ¬(x.tag = tag ∧ x.hub = hub ∧ x.op = op)) (st info : Nat)
    (data : List Nat) : exec (.mgmtRsp hub tag op st info data) s = .next (lateLog s hub tag op (codeOf st) info) := by
  have hnone : s.fry.txns.find? (fun x => x.tag == tag && x.hub == hub && x.op == op) = none := by
    rw [List.find?_eq_none]
    intro x hx
    simpa [and_assoc] using h x hx
  change execMgmtRsp hub tag op st info data s = _
  rw [execMgmtRsp, whenAlive_alive _ _ hb]
  simp only [hnone]

/-- A response that matches ends its transaction in time, and is late after it. -/
theorem exec_mgmtRsp_matched {hub tag op : Nat} {x : Txn}
    (h : s.fry.txns.find? (fun x => x.tag == tag && x.hub == hub && x.op == op) = some x) (st info : Nat) (data : List Nat) :
    exec (.mgmtRsp hub tag op st info data) s = .next (if x.expires < ftNs s then lateLog (outTimeout s x) hub tag op (codeOf st) info
      else outPump (if codeOf st = 0 ∧ x.pf = true then fillEnd (outDrop s x) x data
        else outEnd (outDrop s x) x.ini x.win x.off (codeOf st) data)) := by
  change execMgmtRsp hub tag op st info data s = _
  rw [execMgmtRsp, whenAlive_alive _ _ hb]
  simp only [h]
  rfl

theorem exec_outboundTimeout {x : Txn} (h : s.fry.txns.find? (fun y => y.tag == x.tag) = some x) :
    exec (.outboundTimeout x.tag) s = .next (outTimeout s x) := by
  change execOutboundTimeout x.tag s = _
  rw [execOutboundTimeout, whenAlive_alive _ _ hb]
  simp only [h]

end

/-- The expiry of TMO ends the transaction with TIMEOUT, and the request that has waited longest follows (R317). -/
theorem outTimeout_spec (s : State) (x : Txn) : ∃ t, outTimeout s x = outPump (outEnd t x.ini x.win x.off 3 []) ∧
    t.fry = { s.fry with txns := s.fry.txns.erase x } ∧ rd t FRY_EVT_TIMEOUT = 1 ∧
    rd t FRY_CNT_TIMEOUT = min (rd s FRY_CNT_TIMEOUT + 1) (2 ^ FRY_CNT_TIMEOUT.w - 1) ∧ t.clk = (advanceTo s x.expires).clk ∧
    partsBut [.regs, .fry, .clk] s t ∧ cellsBut [FRY_EVT_TIMEOUT.addr, FRY_CNT_TIMEOUT.addr] s t := by
  obtain ⟨u, hu⟩ : ∃ u, u = outDrop (advanceTo s x.expires) x := ⟨_, rfl⟩
  have hrd : ∀ f, rd u f = rd s f := fun f => by rw [hu, outDrop, rd_mk]; exact rd_advanceTo s _ f
  have hcell : ∀ a, cellAt u a = cellAt s a := fun a => by rw [hu, outDrop, cellAt_mk]; exact cellAt_advanceTo s _ a
  have hparts : partsBut [.fry, .clk] s u := fun p hp => by cases p <;> simp [Part.same, hu, outDrop] at hp ⊢
  refine ⟨wr (incSat u FRY_CNT_TIMEOUT) FRY_EVT_TIMEOUT 1, by rw [hu]; rfl, ?_, ?_, ?_, ?_, ?_, fun a ha => ?_⟩
  · rw [wr_fry, incSat, addSat, wr_fry, hu, outDrop, advanceTo_fry]
  · rw [rd_wr_same _ _ rfl]
    rfl
  · rw [rd_wr_addr _ _ _ _ (by decide), rd_incSat_self _ _ (by decide), hrd]
  · rw [wr_clk, incSat, addSat, wr_clk, hu]
    rfl
  · exact partsBut_trans (partsBut_mono hparts (by decide)) (partsBut_trans (partsBut_mono (partsBut_wr u FRY_CNT_TIMEOUT _) (by decide))
      (partsBut_mono (partsBut_wr _ FRY_EVT_TIMEOUT 1) (by decide)))
  · simp only [List.mem_cons, List.not_mem_nil, or_false, not_or] at ha
    obtain ⟨h1, h2⟩ := ha
    rw [cellAt_wr_ne _ _ _ _ h1, incSat, addSat, cellAt_wr_ne _ _ _ _ h2, hcell]

/-- The request whose TMO ends first is one of those that wait, and none ends sooner. -/
theorem sooner_foldl (x : Txn) (l : List Txn) :
    l.foldl sooner x ∈ x :: l ∧ ∀ z ∈ x :: l, (l.foldl sooner x).expires ≤ z.expires := by
  induction l generalizing x with
  | nil => simp
  | cons y l ih =>
    obtain ⟨hmem, hle⟩ := ih (sooner x y)
    have hs : sooner x y = x ∨ sooner x y = y := by unfold sooner; split <;> simp
    have hx : (sooner x y).expires ≤ x.expires ∧ (sooner x y).expires ≤ y.expires := by unfold sooner; split <;> omega
    have hfst := hle _ List.mem_cons_self
    rw [List.foldl_cons]
    refine ⟨?_, fun z hz => ?_⟩
    · rcases List.mem_cons.1 hmem with h | h
      · rw [h]
        rcases hs with e | e <;> simp [e]
      · simp [h]
    · rcases List.mem_cons.1 hz with rfl | hz
      · exact hfst.trans hx.1
      · rcases List.mem_cons.1 hz with rfl | hz
        · exact hfst.trans hx.2
        · exact hle z (List.mem_cons_of_mem _ hz)

theorem exec_txTableFullTimeout {s : State} (hb : s.rst.busy = false) : (s.fry.waiting = [] → exec .txTableFullTimeout s = .next s) ∧
    ∀ x ∈ s.fry.waiting, ∃ y ∈ s.fry.waiting, (∀ z ∈ s.fry.waiting, y.expires ≤ z.expires) ∧
      exec .txTableFullTimeout s =
        .next (outEnd { advanceTo s y.expires with fry := { s.fry with waiting := s.fry.waiting.erase y } } y.ini y.win y.off 1 []) := by
  have he : exec .txTableFullTimeout s = execTxTableFullTimeout s := rfl
  rw [he, execTxTableFullTimeout, whenAlive_alive _ _ hb]
  refine ⟨fun h => by simp only [h], fun x hx => ?_⟩
  cases h : s.fry.waiting with
  | nil => rw [h] at hx; simp at hx
  | cons z l =>
    obtain ⟨hmem, hle⟩ := sooner_foldl z l
    exact ⟨_, hmem, hle, rfl⟩

theorem outPump_waiting {s : State} {x : Txn} {l : List Txn} (h : s.fry.waiting = x :: l) : outPump s =
    if s.fry.txns.length < 32 then outIssue { s with fry := { s.fry with waiting := l } } x else s := by
  rw [outPump, h]

/-! ## Prefetch buffers (R319) -/

/-- The words of a buffer that were never read. -/
def unread (p : Prefetch) : Nat := maskOf 16 fun k => p.words.any (·.1 == k) && !bitOf p.used k

/-- The initiator's buffer is gone. -/
def bufferGone (s : State) (ini : Nat) : State :=
  { s with fry := { s.fry with prefetch := tput (fun _ => none) s.fry.prefetch ini none } }

theorem prefetchDrop_some {s : State} {ini : Nat} {p : Prefetch} (h : tget (fun _ => none) s.fry.prefetch ini = some p) :
    prefetchDrop s ini = if unread p = 0 then bufferGone s ini
      else wr (wr (wr (bufferGone s ini) FRY_PF_LOG_ADDR p.addr) FRY_PF_LOG_MASK (unread p)) FRY_EVT_PF_DISC 1 := by
  simp only [prefetchDrop, h]
  rfl

/-- A discarded buffer with unread words is logged. -/
theorem prefetchDrop_spec {s : State} {ini : Nat} {p : Prefetch} (h : tget (fun _ => none) s.fry.prefetch ini = some p) :
    tget (fun _ => none) (prefetchDrop s ini).fry.prefetch ini = none ∧ partsBut [.regs, .fry] s (prefetchDrop s ini) ∧
    (unread p = 0 → (prefetchDrop s ini).regs = s.regs) ∧
    (unread p ≠ 0 → unread p < 2 ^ 16 → rd (prefetchDrop s ini) FRY_PF_LOG_MASK = unread p ∧
      rd (prefetchDrop s ini) FRY_EVT_PF_DISC = 1 ∧ rd (prefetchDrop s ini) FRY_PF_LOG_ADDR = p.addr % 2 ^ FRY_PF_LOG_ADDR.w) := by
  have hgone : partsBut [.regs, .fry] s (bufferGone s ini) := fun q hq => by cases q <;> simp [Part.same, bufferGone] at hq ⊢
  have hget : tget (fun _ => none) (bufferGone s ini).fry.prefetch ini = none :=
    tget_tput_self (fun _ => none) s.fry.prefetch ini none
  rw [prefetchDrop_some h]
  by_cases hm : unread p = 0
  · rw [if_pos hm]
    exact ⟨hget, hgone, fun _ => rfl, fun h' => absurd hm h'⟩
  · rw [if_neg hm]
    refine ⟨by rw [wr_fry, wr_fry, wr_fry]; exact hget, fun q hq => ?_, fun h' => absurd h' hm, fun _ hlt => ⟨?_, ?_, ?_⟩⟩
    · have := hgone q hq
      cases q <;> simp [Part.same] at hq this ⊢ <;> exact this
    · rw [rd_wr_addr _ _ _ _ (by decide), rd_wr_same _ _ rfl]
      exact Nat.mod_eq_of_lt hlt
    · rw [rd_wr_same _ _ rfl]
      rfl
    · rw [rd_wr_addr _ _ _ _ (by decide), rd_wr_apart _ _ rfl rfl, rd_wr_same _ _ rfl]

theorem exec_prefetchDiscard {s : State} (hb : s.rst.busy = false) (ini : Nat) :
    (tget (fun _ => none) s.fry.prefetch ini = none → exec (.prefetchDiscard ini) s = .next s) ∧
    ∀ p, tget (fun _ => none) s.fry.prefetch ini = some p →
      exec (.prefetchDiscard ini) s = .next (prefetchDrop (advanceTo s (p.filled + 1000000)) ini) := by
  have he : exec (.prefetchDiscard ini) s = execPrefetchDiscard ini s := rfl
  rw [he, execPrefetchDiscard, whenAlive_alive _ _ hb]
  exact ⟨fun h => by simp only [h], fun p h => by simp only [h, bufferEnd]⟩

theorem partsBut_advanceTo (s : State) (ns : Nat) : partsBut [.clk] s (advanceTo s ns) := by
  unfold advanceTo
  split
  · exact partsBut_refl _ _
  · exact partsBut_advance _ _

/-- Settles O53: the windows by `outbound_starts` and its siblings, the issue by `outIssue_spec`, the ends by `outEnd_spec`,
`exec_mgmtRsp_matched`, `lateLog_spec` and `outTimeout_spec`, the buffers by `prefetchDrop_spec`. -/
theorem outboundAccessesEnd : Obligations.OutboundAccessesEnd := by
  unfold Obligations.OutboundAccessesEnd
  refine ⟨fun s ini a count data hb hi ho => ⟨fun h4 => ?_, fun h4 => ?_⟩,
    fun s ini op a count mask w off hub data hw hoff hhub => ⟨fun he => ?_, fun he h => ?_, fun he hend h0 hbc t x ht hbuf hx => ?_⟩,
    fun s x y hy => outIssue_spec hy,
    fun s ini win off st data hi hw ho hs => outEnd_spec s data hi hw ho hs,
    fun s hub tag op st info data hb ht hh => ⟨fun h => exec_mgmtRsp_unmatched hb h st info data, lateLog_spec s op _ info ht hh,
      fun x hx => ⟨outDrop s x, rfl, fun hlate => ?_, fun hin h => ?_, fun hin hok hpf => ?_⟩⟩,
    fun s x hb => ⟨exec_outboundTimeout hb, outTimeout_spec s x,
      ⟨(exec_txTableFullTimeout hb).1, (exec_txTableFullTimeout hb).2 x⟩, fun l => outPump_waiting⟩,
    fun s ini hb => ⟨(exec_prefetchDiscard hb ini).1, fun p m hp hm => ?_⟩⟩
  · rw [exec_outboundRead hb hi ho, exec_outboundWrite hb hi ho, if_neg (not_not.2 h4), if_neg (not_not.2 h4)]
    exact ⟨rfl, rfl⟩
  · rw [exec_outboundRead hb hi ho, exec_outboundWrite hb hi ho, if_pos h4, if_pos h4]
    exact ⟨rfl, rfl⟩
  · rw [hoff]
    exact outbound_disabled hw he
  · rw [hoff, hhub] at h
    rw [hoff]
    exact outbound_badReq hw he h
  · rw [hhub] at h0 hbc hx
    rw [hoff] at hend hx
    rw [outbound_starts hw he hend h0 hbc ht hbuf hx]
    refine ⟨fun hl hwait => outStart_issued x hl hwait, fun h => ?_⟩
    rw [outStart_waits x h, hx]
  · rw [exec_mgmtRsp_matched hb hx, if_pos hlate]
  · have hc : ¬(codeOf st = 0 ∧ x.pf = true) := by rintro ⟨h1, h2⟩; exact h.elim (· h1) (by simp [h2])
    rw [exec_mgmtRsp_matched hb hx, if_neg (by omega), if_neg hc]
  · rw [exec_mgmtRsp_matched hb hx, if_neg (by omega), if_pos ⟨hok, hpf⟩]
  · obtain ⟨hnone, hparts, hzero, hlog⟩ := prefetchDrop_spec (s := advanceTo s (p.filled + 1000000)) (ini := ini) (p := p)
      (by rw [advanceTo_fry]; exact hp)
    have hm' : m = unread p := hm
    refine ⟨_, (exec_prefetchDiscard hb ini).2 p hp, hnone,
      partsBut_trans (partsBut_mono (partsBut_advanceTo s _) (by decide)) (partsBut_mono hparts (by decide)), hparts .clk (by decide),
      fun h => ?_, fun h hlt => ?_⟩
    · rw [hzero (hm'.symm.trans h), advanceTo_regs]
    · rw [hm'] at h hlt ⊢
      exact hlog h hlt

end Sys2Proof.Machine

/-! SUPPORT. Obligation O32: message frames at a ring port, on the express path, at their egress queue and from a local
port. -/

namespace Sys2Proof.Machine

/-! ## A frame reaches a ring port (R53, R187, R199) -/

section
variable {s u : State} {dt p : Nat} {f : List Byte} {e : Bool}

theorem exec_messageFrameReceive (hu : u = advance s dt) (hp : p < 4) (hup : isUp s p = true) (ht : mType f ≠ 0x20)
    (hr : s.rst.busy = true → s.rst.full = false) : exec (.messageFrameReceive dt p f e) s = .next
      (if s.rst.busy = true then express u p f (e || !fcsOk f)
      else if flag s WELT_CTRL_BYPASS_REQ = true then
        express (if (e || !fcsOk f) = true then countBad u e else u) p f (e || !fcsOk f)
      else normal (if (e || !fcsOk f) = true then countBad u e else u) p f (e || !fcsOk f)) := by
  have hup' : isUp (advance s dt) p = true := by simpa [isUp, portState] using hup
  have hgo : ¬(4 ≤ p ∨ !isUp (advance s dt) p ∨ ((advance s dt).rst.busy ∧ (advance s dt).rst.full) ∨ mType f = tLink) := by
    simp only [hup', advance_rst, tLink]
    rintro (h | h | h | h)
    · omega
    · simp at h
    · simp [hr h.1] at h
    · exact ht h
  change execMessageFrameReceive dt p f e s = _
  unfold execMessageFrameReceive
  dsimp only
  have hflag : flag (advance s dt) WELT_CTRL_BYPASS_REQ = flag s WELT_CTRL_BYPASS_REQ := flag_congr (rd_advance s dt _)
  rw [if_neg hgo, hu, advance_rst, hflag]

end

section
variable {s : State} {i : Nat} {f : List Byte} {bad : Bool}

/-- The header check of R187. -/
theorem msgHeader_good (h1 : hcrcOk f = true) (h2 : knownType (mType f) = true) (h3 : mLen f ≤ 2016) :
    ¬((!hcrcOk f) = true ∨ (!knownType (mType f)) = true ∨ 2016 < mLen f) := by
  simp [h1, h2, h3]

theorem normal_badHeader (h : hcrcOk f = false ∨ knownType (mType f) = false ∨ 2016 < mLen f) :
    normal s i f bad = tapSee (headerError s) i 1 (ftNs s) f ⟨bad || !hcrcOk f, 3, false⟩ := by
  unfold normal
  dsimp only
  rw [if_pos (by simpa using h)]

theorem normal_hopLimit (h1 : hcrcOk f = true) (h2 : knownType (mType f) = true) (h3 : mLen f ≤ 2016) (h4 : 8191 ≤ mHops f) :
    normal s i f bad = tapSee (wr (incSat s XB_CNT_HDR_HOP) XB_EVT_HOP 1) i 1 (ftNs s) f ⟨bad, 4, false⟩ := by
  unfold normal
  dsimp only
  rw [if_neg (msgHeader_good h1 h2 h3), if_pos (by omega), h1]
  simp

/-- A good frame on its way, within the policer and not stripped at its source, is delivered or forwarded. -/
theorem normal_passes (h1 : hcrcOk f = true) (h2 : knownType (mType f) = true) (h3 : mLen f ≤ 2016) (h4 : mHops f < 8191) {v : State}
    (hv : policerTake s i (mTc f) (28 + mLen f) = (true, v)) (hs : ¬(mSrc f = rd s SYS_HUB_ID_ID ∧ mPath f = facing i))
    (hg : mGroup f = false) (hd : mDst f ≠ 4095) : normal s i f bad =
      if mDst f = rd s SYS_HUB_ID_ID then
        tapSee (deliverLocal v ⟨mHop f, i, ftNs s, 0⟩ bad).2 i 1 (ftNs s) f
          { (deliverLocal v ⟨mHop f, i, ftNs s, 0⟩ bad).1 with bad := bad }
      else tapSee (enqueue v ⟨mHop f, i, ftNs s, 0⟩ (facing i) bad).2 i 1 (ftNs s) f
          { (enqueue v ⟨mHop f, i, ftNs s, 0⟩ (facing i) bad).1.fate with bad := bad } := by
  unfold normal
  dsimp only
  rw [if_neg (msgHeader_good h1 h2 h3), if_neg (by omega : ¬8192 ≤ mHops f + 1), hv]
  simp [hs, hg, hd, h1]

theorem Took.fate_eq (t : Took) : t.fate = ⟨false, if t = .refused then 2 else 0, t == .bad⟩ := by cases t <;> rfl

/-! ## A counter and its event -/

theorem counted_spec (s : State) {c e : Fld} (hc : c.fits = true) (he : e.fits = true) (hw : e.w = 1) (ha : c.addr ≠ e.addr) :
    rd (wr (incSat s c) e 1) c = min (rd s c + 1) (2 ^ c.w - 1) ∧ rd (wr (incSat s c) e 1) e = 1 ∧
    regsOnly [c.addr, e.addr] s (wr (incSat s c) e 1) := by
  refine ⟨?_, ?_, ?_⟩
  · rw [rd_wr_addr _ _ _ _ ha]
    exact rd_incSat_self s c (Nat.le_of_ble_eq_true hc)
  · rw [rd_wr_same _ _ he, hw]
    rfl
  · exact regsOnly_trans (regsOnly_mono (regsOnly_addSat s c 1) (by simp)) (regsOnly_mono (regsOnly_wr _ e 1) (by simp))

/-! ## The express path (R53, R54, R76, R199) -/

theorem express_forwards (h1 : hcrcOk f = true) (h2 : knownType (mType f) = true) (h3 : mLen f ≤ 2016) (h4 : mHops f < 8191)
    (hs : ¬(mSrc f = rd s SYS_HUB_ID_ID ∧ mPath f = facing i)) (hg : mGroup f = false) (hd : mDst f ≠ rd s SYS_HUB_ID_ID)
    (hb : mDst f ≠ 4095) : express s i f bad = expressSend s i f bad := by
  have hmany : deliversMany s i f = false := by simp [deliversMany, hg, hb]
  unfold express
  dsimp only
  rw [if_neg (msgHeader_good h1 h2 h3), if_neg (by omega : ¬8192 ≤ mHops f + 1), if_neg hs, if_neg (by simp [hd]), hmany]
  rfl

theorem expressSend_eq (s : State) (i : Nat) (f : List Byte) (bad : Bool) : expressSend s i f bad =
    if isUp s (egressOf s i) = true then
      (if (s.port (egressOf s i)).waiting = [] ∧ ringMay s (egressOf s i) (mHop f).length = true then
        (ringStart s (egressOf s i) (mHop f).length).emit (.ringFrame (egressOf s i) (mHop f) bad)
      else s.setPort (egressOf s i) { s.port (egressOf s i) with waiting := (s.port (egressOf s i)).waiting ++ [.express (mHop f) bad] })
    else s := by
  simp only [expressSend, ringSend, Bool.and_eq_true, List.isEmpty_iff]
  rfl

theorem express_local (h1 : hcrcOk f = true) (h2 : knownType (mType f) = true) (h3 : mLen f ≤ 2016) (h4 : mHops f < 8191)
    (hs : ¬(mSrc f = rd s SYS_HUB_ID_ID ∧ mPath f = facing i)) (hg : mGroup f = false) (hd : mDst f = rd s SYS_HUB_ID_ID)
    (hb : s.rst.busy = true) : express s i f bad = expressLocal s f bad := by
  unfold express
  dsimp only
  rw [if_neg (msgHeader_good h1 h2 h3), if_neg (by omega : ¬8192 ≤ mHops f + 1), if_neg hs, if_pos (by simp [hg, hd]), if_pos hb]

theorem expressLocal_request (ht : mType f = 0x30) (hb : bad = false) : expressLocal s f bad =
    s.emit (.mgmtRsp (mSrc f) (beNat (slice f 24 2)) 6 (beNat (slice f 28 4)) []) :=
  if_pos ⟨by simp [hb], ht⟩

theorem expressLocal_other (h : mType f ≠ 0x30 ∨ bad = true) : expressLocal s f bad = incSat s WELT_XDISC_COUNT :=
  if_neg fun ⟨hb, ht⟩ => h.elim (fun g => g ht) (fun g => by simp [g] at hb)

end

/-! ## At an egress queue (R194, R195, R198, R203) -/

section
variable {s : State} {f : XFrame} {p q : Nat} {bad : Bool} (hq : q = 8 * p + mTc f.bytes)
include hq

theorem enqueue_refused (h : admits s q (cellsOf f.bytes) = false) :
    enqueue s f p bad = (.refused, countDrop (incSat s (XB_Q_STAT_DROP q))) := by
  subst hq
  simp [enqueue, h]

theorem enqueue_admitted (h : admits s q (cellsOf f.bytes) = true) : enqueue s f p bad =
    if cutsThrough s f.inp p (mTc f.bytes) f.bytes = true then (.cut, sendFrame s p q f bad true)
    else if bad = true then (.bad, s)
    else (.stored, if f.inp = 4 ∨ f.inp = 5 then
        pauseCheck (setVoq s (64 * f.inp + q) (voqOf s (64 * f.inp + q) ++ [f])) (f.inp - 4)
      else setVoq s (64 * f.inp + q) (voqOf s (64 * f.inp + q) ++ [f])) := by
  subst hq
  simp [enqueue, h]

end

/-- One drop more for the overload monitor (R203). -/
def dropNoted (s : State) : State := { s with xb := { s.xb with drops := s.xb.drops + 1 } }

theorem countDrop_eq (s : State) : countDrop s = wr (dropNoted s) XB_EVT_DROP 1 := rfl

theorem partsBut_dropNoted (s : State) : partsBut [.xb] s (dropNoted s) := by
  intro x hx
  cases x <;> simp [Part.same, dropNoted] at hx ⊢

/-- A drop at admission is counted for its queue and for the overload monitor (R195, R203). -/
theorem countDrop_spec (s : State) (q : Nat) : ∃ t, countDrop (incSat s (XB_Q_STAT_DROP q)) = t ∧ rd t XB_EVT_DROP = 1 ∧
    rd t (XB_Q_STAT_DROP q) = min (rd s (XB_Q_STAT_DROP q) + 1) (2 ^ (XB_Q_STAT_DROP 0).w - 1) ∧
    t.xb = { s.xb with drops := s.xb.drops + 1 } ∧ partsBut [.regs, .xb] s t := by
  have hinc := (regsOnly_addSat s (XB_Q_STAT_DROP q) 1).1
  have hne : (XB_Q_STAT_DROP q).addr ≠ XB_EVT_DROP.addr := by
    simp only [XB_Q_STAT_DROP, XB_EVT_DROP]
    omega
  rw [countDrop_eq]
  refine ⟨_, rfl, rd_wr_same _ _ rfl, ?_, ?_, ?_⟩
  · rw [rd_wr_addr _ _ _ _ hne, rd_congr _ (partsBut_dropNoted _ .regs (by decide))]
    exact rd_incSat_self s (XB_Q_STAT_DROP q) (Nat.le_of_ble_eq_true rfl)
  · rw [wr_xb]
    exact congrArg (fun x : Xb => { x with drops := x.drops + 1 }) (hinc .xb (by decide))
  · exact partsBut_trans (partsBut_mono hinc (by decide))
      (partsBut_trans (partsBut_mono (partsBut_dropNoted _) (by decide)) (partsBut_mono (partsBut_wr _ _ _) (by decide)))

theorem setVoq_spec (s : State) (k : Nat) (l : List XFrame) : voqOf (setVoq s k l) k = l ∧
    (∀ j, j ≠ k → voqOf (setVoq s k l) j = voqOf s j) ∧ partsBut [.xb] s (setVoq s k l) := by
  refine ⟨tget_tput_self _ _ _ _, fun j hj => tget_tput_ne _ _ _ hj, fun x hx => ?_⟩
  cases x <;> simp [Part.same, setVoq] at hx ⊢

/-! ## Delivery at this hub (R183, R185) -/

theorem deliverLocal_none {s : State} {f : XFrame} (bad : Bool) (h : localPort f.bytes = none) :
    deliverLocal s f bad = ({ cause := 3 }, headerError s) := by
  unfold deliverLocal
  rw [h]

theorem deliverLocal_some {s : State} {f : XFrame} {p : Nat} (bad : Bool) (h : localPort f.bytes = some p) :
    deliverLocal s f bad = ((enqueue (if bad = false ∧ mType f.bytes = 0x10 then noticeTake s (mPayload f.bytes) else s) f p bad).1.fate,
      (enqueue (if bad = false ∧ mType f.bytes = 0x10 then noticeTake s (mPayload f.bytes) else s) f p bad).2) := by
  have hsee : noticeSee s f.bytes bad = if bad = false ∧ mType f.bytes = 0x10 then noticeTake s (mPayload f.bytes) else s := by
    simp only [noticeSee, Bool.not_eq_true']
    rfl
  unfold deliverLocal
  rw [h, ← hsee]

/-! ## Insertion from a local port (R15, R186, R189) -/

section
variable {s : State} {sp : Nat} {h x : List Byte}

theorem exec_frameInsert (hb : s.rst.busy = false) (hsp : sp = 3 ∨ sp = 4) :
    exec (.frameInsert sp h x) s = .next (insertLocal s sp h x) := by
  change execFrameInsert sp h x s = _
  rw [execFrameInsert, whenAlive_alive _ _ hb, if_pos hsp]

/-- A frame that is no request of its own, or before ST08, is inserted and not answered here. -/
theorem insertLocal_unanswered (ht : mType h ≠ 0x30 ∨ mGroup h = true) : insertLocal s sp h x = (insertFrame s sp h x (ftNs s)).2 := by
  have hor : insertOr s sp h x = insertFrame s sp h x (ftNs s) := if_neg fun ⟨h1, h2, _⟩ =>
    ht.elim (fun g => g h1) (fun g => by simp [g] at h2)
  have hst : ∀ r, sourceStatus s h x r = none := fun r => if_pos (ht.elim .inl fun g => .inr (.inl g))
  unfold insertLocal
  dsimp only
  rw [hst, hor]

/-- A request to hub 0, or one that is inserted, is answered with the status that this hub gives it (R15, R189). -/
theorem insertLocal_request (ht : mType h = 0x30) (hg : mGroup h = false) (hl : s.sys.loaded = true) : insertLocal s sp h x =
    if mDst h = 0 then respond s (rd s SYS_HUB_ID_ID) sp (beNat (slice x 0 2)) (beNat (slice x 2 1)) 8 (beNat (slice x 4 4)) []
    else if mDst h = 4095 ∧ beNat (slice x 2 1) = 1 then respond (insertFrame s sp h x (ftNs s)).2 (rd s SYS_HUB_ID_ID) sp
      (beNat (slice x 0 2)) (beNat (slice x 2 1)) 8 (beNat (slice x 4 4)) []
    else if (insertFrame s sp h x (ftNs s)).1 = .noRoute then respond (insertFrame s sp h x (ftNs s)).2 (rd s SYS_HUB_ID_ID) sp
      (beNat (slice x 0 2)) (beNat (slice x 2 1)) 7 (beNat (slice x 4 4)) []
    else (insertFrame s sp h x (ftNs s)).2 := by
  have hst : ∀ r, sourceStatus s h x r = if mDst h = 0 ∨ (mDst h = 4095 ∧ beNat (slice x 2 1) = opRead) then some scBadReq
      else if r = .noRoute then some scNoRoute else none := fun r => if_neg (by simp [ht, hg, hl, tReq])
  unfold insertLocal
  dsimp only
  rw [hst]
  by_cases h0 : mDst h = 0
  · have hor : insertOr s sp h x = (.refused, s) := if_pos ⟨ht, by simp [hg], h0, hl⟩
    rw [if_pos (.inl h0), if_pos h0, hor]
    rfl
  · have hor : insertOr s sp h x = insertFrame s sp h x (ftNs s) := if_neg fun g => h0 g.2.2.1
    rw [if_neg h0, hor]
    by_cases hall : mDst h = 4095 ∧ beNat (slice x 2 1) = 1
    · rw [if_pos (.inr hall), if_pos hall]
      rfl
    · rw [if_neg (fun g => g.elim h0 hall), if_neg hall]
      by_cases hr : (insertFrame s sp h x (ftNs s)).1 = .noRoute
      · rw [if_pos hr, if_pos hr]
        rfl
      · rw [if_neg hr, if_neg hr]

theorem insertFrame_unloaded (hl : s.sys.loaded = false) : insertFrame s sp h x (ftNs s) = (.refused, s) := by
  unfold insertFrame
  dsimp only
  rw [if_pos (by simp [hl])]

theorem insertFrame_badType (hl : s.sys.loaded = true)
    (ht : mType h = 0x10 ∨ mType h = 0x20 ∨ knownType (mType h) = false ∨ 2016 < mLen h) :
    (insertFrame s sp h x (ftNs s)).1 = .refused ∧
    ∃ f y, (insertFrame s sp h x (ftNs s)).2 = tapSee (headerError s) (3 + sp) 1 (ftNs s) f y := by
  have hbad : (!knownType (mType h)) = true ∨ mType h = tFault ∨ mType h = tLink ∨ 2016 < mLen h ∨
      ((!mGroup h && mDst h == 4095) = true ∧ mType h ≠ tBwr) := by
    obtain h1 | h1 | h1 | h1 := ht
    · exact .inr (.inl h1)
    · exact .inr (.inr (.inl h1))
    · exact .inl (by simp [h1])
    · exact .inr (.inr (.inr (.inl h1)))
  unfold insertFrame
  dsimp only
  rw [if_neg (by simp [hl]), if_pos hbad]
  exact ⟨rfl, _, _, rfl⟩

theorem insertFrame_noRoute (hl : s.sys.loaded = true) (ht : mType h = 0x60) (hlen : mLen h ≤ 2016) (hg : mGroup h = false)
    (hd : mDst h ≠ 4095) (hid : mDst h ≠ rd s SYS_HUB_ID_ID) (hr : routeOf s (mDst h) = none) :
    (insertFrame s sp h x (ftNs s)).1 = .noRoute ∧
    ∃ f y, (insertFrame s sp h x (ftNs s)).2 = tapSee (noRoute s) (3 + sp) 1 (ftNs s) f y := by
  have hgood : ¬((!knownType (mType h)) = true ∨ mType h = tFault ∨ mType h = tLink ∨ 2016 < mLen h ∨
      ((!mGroup h && mDst h == 4095) = true ∧ mType h ≠ tBwr)) := by
    simp [ht, hd, tFault, tLink, Nat.not_lt.2 hlen]
    decide
  unfold insertFrame
  dsimp only
  rw [if_neg (by simp [hl]), if_neg hgood]
  simp [hg, hd, hid, hr]

end

/-- Settles O32, by the header check, the destination and the queue's admission in turn: each outcome is one branch of
the receiving port's sorting. -/
theorem messageFramesAreSorted : Obligations.MessageFramesAreSorted := by
  unfold Obligations.MessageFramesAreSorted
  refine ⟨fun s u dt p f e hu hp hup ht => ?_, fun s i f bad => ⟨fun h => normal_badHeader h, ?_, ?_⟩, ?_, ?_, ?_,
    fun s t w q f b c ht => by subst ht; rfl, ?_, ?_⟩
  · refine ⟨fun hb hf => ?_, fun hb hy => ?_, fun hb hy he hok => ?_, fun hb hy hbad _ => ?_⟩
    · rw [exec_messageFrameReceive hu hp hup ht fun _ => hf, if_pos hb]
    all_goals rw [exec_messageFrameReceive hu hp hup ht (by simp [hb]), if_neg (by simp [hb])]
    · rw [if_pos (flag_true hy)]
    · simp [flag_false hy, he, hok]
    · have hy' : rd s WELT_CTRL_BYPASS_REQ = 0 := by rw [hu, rd_advance] at hy; exact hy
      have hb' : (e || !fcsOk f) = true := by simpa using hbad
      rw [if_neg (by simp [flag_false hy']), hb', if_pos rfl]
  · exact fun h1 h2 h3 h4 => ⟨_, normal_hopLimit h1 h2 h3 h4, counted_spec s rfl rfl rfl (by decide)⟩
  · intro h1 h2 h3 h4 v hv hs hg
    refine ⟨fun hd hne x w hx => ?_, fun hd hne ok w hx => ?_⟩
    · rw [normal_passes h1 h2 h3 h4 hv hs hg hne, if_pos hd, hx]
    · rw [normal_passes h1 h2 h3 h4 hv hs hg hne, if_neg hd, hx, Took.fate_eq]
  · exact fun s => ⟨_, rfl, counted_spec s rfl rfl rfl (by decide)⟩
  · intro s i f bad h1 h2 h3 h4 hs hg
    refine ⟨fun hd hne => ?_, fun hd hne hb => ⟨fun ht hbad => ?_, fun h => ⟨_, rfl, ?_, ?_⟩⟩⟩
    · rw [express_forwards h1 h2 h3 h4 hs hg hd hne, expressSend_eq]
    all_goals rw [express_local h1 h2 h3 h4 hs hg hd hb]
    · exact expressLocal_request ht hbad
    · rw [expressLocal_other h]
      exact rd_incSat_self s WELT_XDISC_COUNT (by decide)
    · rw [expressLocal_other h]
      exact regsOnly_addSat s WELT_XDISC_COUNT 1
  · intro s f p q bad hq
    refine ⟨fun h => ?_, fun h hc hb h4 h5 => ?_, fun h hc hb => ?_, fun h hc => ?_⟩
    · obtain ⟨t, ht, hrest⟩ := countDrop_spec s q
      exact ⟨t, by rw [enqueue_refused hq h, ht], hrest⟩
    all_goals rw [enqueue_admitted hq h]
    · refine ⟨_, ?_, setVoq_spec s (64 * f.inp + q) _⟩
      simp [hc, hb, h4, h5]
    · simp [hc, hb]
    · simp [hc]
  · exact fun s f bad => ⟨deliverLocal_none bad, fun p => deliverLocal_some bad⟩
  · intro s sp h x hb hsp
    refine ⟨exec_frameInsert hb hsp, insertLocal_unanswered, fun r hr ht hg hl => ?_, insertFrame_unloaded, insertFrame_badType,
      insertFrame_noRoute⟩
    subst hr
    rw [insertLocal_request ht hg hl]
    refine ⟨fun h0 => if_pos h0, fun hd hop => ?_, fun h0 hd => ?_⟩
    · rw [if_neg (by omega), if_pos ⟨hd, hop⟩]
    · rw [if_neg h0, if_neg fun g => hd g.1]

end Sys2Proof.Machine

/-! SUPPORT. Obligation O14: the cells of SYS and WELT as the hub leaves service, and the steps ST09 and ST10. -/

namespace Sys2Proof.Machine

/-! ## Cells of SYS and WELT as the hub leaves service (R181, R272, R290, R335, R390) -/

/-- A register of a block behind SYS and WELT. -/
def Fld.high (f : Fld) : Bool := (0x40020000).ble f.addr

theorem high_add {b k : Nat} (h : (0x40020000).ble b = true) : (0x40020000).ble (b + k) = true :=
  Nat.ble_eq_true_of_le (Nat.le_trans (Nat.le_of_ble_eq_true h) (Nat.le_add_right b k))

section
variable {a : Nat} (ha : a < 0x40020000)
include ha

theorem ne_high {f : Fld} (h : f.high = true) : a ≠ f.addr := by
  have := Nat.le_of_ble_eq_true h
  omega

theorem cellAt_wr_high (s : State) {f : Fld} (v : Nat) (h : f.high = true) : cellAt (wr s f v) a = cellAt s a :=
  cellAt_wr_ne s f v a (ne_high ha h)

theorem cellAt_brnOffSettle (s : State) (n : Nat) : cellAt (brnOffSettle s n) a = cellAt s a :=
  (brnOffSettle_frame s n).2.2.2.1 a (by
    have h1 := ne_high ha (f := BRN_STAT_STATE n) (high_add rfl)
    have h2 := ne_high ha (f := BRN_TH_TJ_T_J n) (high_add rfl)
    simp [h1, h2])

theorem cellAt_brnSetE (s : State) (n : Nat) (e : Bool) : cellAt (brnSetE s n e) a = cellAt s a := by
  have hwr : ∀ (t : State) v, cellAt (wr t (BRN_STAT_STATE n) v) a = cellAt t a ∧ cellAt (wr t (BRN_STAT_PG n) v) a = cellAt t a ∧
      cellAt (wr t (BRN_STAT_E n) v) a = cellAt t a ∧ cellAt (wr t (BRN_STAT_PENDING_ON n) v) a = cellAt t a ∧
      cellAt (wr t (BRN_STAT_RCNT n) v) a = cellAt t a := fun t v =>
    ⟨cellAt_wr_high ha _ _ (high_add rfl), cellAt_wr_high ha _ _ (high_add rfl), cellAt_wr_high ha _ _ (high_add rfl),
      cellAt_wr_high ha _ _ (high_add rfl), cellAt_wr_high ha _ _ (high_add rfl)⟩
  simp only [forall_and] at hwr
  obtain ⟨hst, hpg, he, hpend, hcnt⟩ := hwr
  have hoff : ∀ t, cellAt (brnToOff t n) a = cellAt t a := fun t => by
    rw [brnToOff_eq, cellAt_brnOffSettle ha, offBrn, brnRest, cellAt_setBrn, hcnt, hst]
  unfold brnSetE
  split
  · rfl
  · simp only [wrB, apply_ite (cellAt · a), cellAt_brnOffSettle ha, hoff, hst, hpg, he, hpend, ite_self]

theorem cellAt_brnRelease (s : State) : cellAt (brnRelease s) a = cellAt s a := by
  unfold brnRelease brnFollowAll
  rw [each_same _ (cellAt · a) brnFollow _ fun u k _ => ?_, each_same _ (cellAt · a) _ _ fun u k _ => cellAt_setBrn u k _ a]
  unfold brnFollow
  split
  · rfl
  · exact cellAt_brnSetE ha _ _ _

theorem cellAt_chnStopAll (s : State) : cellAt (chnStopAll s) a = cellAt s a :=
  each_same _ (cellAt · a) chnStop _ fun u n _ => by
    unfold chnStop
    split
    · dsimp only
      refine (each_same _ (cellAt · a) _ _ fun v k _ => cellAt_setStg v _ _ a).trans ?_
      rw [cellAt_setChn, cellAt_wr_high ha _ _ (f := CHN_STAT_STATE n) (high_add rfl)]
    · rfl

theorem cellAt_canStopAll (s : State) : cellAt (canStopAll s) a = cellAt s a :=
  each_same _ (cellAt · a) canStop _ fun u n _ => by
    unfold canStop
    split
    · exact cellAt_wr_high ha _ _ (high_add rfl)
    · rfl

omit ha in
theorem cellAt_dioSafe (s : State) : cellAt (dioSafe s) a = cellAt s a :=
  each_same _ (cellAt · a) lineSafe _ fun u n _ => cellAt_setLine u n _ a

/-- The Drover frees its records and disarms its trigger units. -/
theorem cellAt_drvLeave (s : State) : cellAt (drvLeave s) a = cellAt s a := by
  have hr : isRecord a = false := by
    simp only [isRecord, Bool.and_eq_false_iff, decide_eq_false_iff_not]
    omega
  have h := tget_filter cellReset (each (those 32 fun k => rd s (BELL_TRG_CTRL_OWNER k) = ownDrover)
    (fun u k => wr u (BELL_TRG_CTRL_ARMED k) 0) s).regs (fun c => !isRecord c) a
  rw [hr] at h
  refine Eq.trans h ?_
  exact each_same _ (cellAt · a) _ _ fun u k _ => cellAt_wr_high ha _ _ (high_add rfl)

/-- A hub that leaves service changes no cell of SYS and WELT but the state's (R181, R272, R290, R335). -/
theorem cellAt_enterStill (s : State) (st : Nat) : cellAt (enterStill s st) a = cellAt (wr s SYS_STATE_STATE st) a := by
  unfold enterStill
  dsimp only
  rw [cellAt_drvLeave ha, cellAt_canStopAll ha, cellAt_chnStopAll ha, cellAt_brnRelease ha, cellAt_dioSafe]
  simp

end

theorem rd_enterStill_state (s : State) {st : Nat} (h : st < 16) : rd (enterStill s st) SYS_STATE_STATE = st := by
  rw [rd, cellAt_enterStill (by decide)]
  exact (rd_wr_same s st rfl).trans (Nat.mod_eq_of_lt h)

theorem flag_iff (s : State) {f : Fld} (h : f.w = 1) : flag s f = true ↔ rd s f = 1 := by
  obtain h | h := rd_bit s h
  · simp [flag_false h, h]
  · simp [flag_true h, h]

/-! ## ST09 (R25, R38, R39, R352) -/

theorem joining_iff (s : State) (k : Nat) : joining s k = true ↔
    s.rst.busy = false ∧ rd s SYS_STATE_STATE = stJoining ∧ rd s SYS_STEP_STEP = k := by
  simp [joining, hubState, and_assoc]

theorem allUp_iff (s : State) : allUp s = true ↔ ∀ p < 4, rd s (WELT_PORT_CTRL_ENABLE p) = 1 → isUp s p = true := by
  simp only [allUp, List.all_eq_true, List.mem_range, Bool.or_eq_true, Bool.not_eq_true',
    ← flag_iff s (f := WELT_PORT_CTRL_ENABLE _) rfl]
  refine forall₂_congr fun p _ => ?_
  cases flag s (WELT_PORT_CTRL_ENABLE p) <;> simp

theorem startSafe_bypass (s : State) (step attempts tEnd : Nat) : rd (startSafe s step attempts tEnd true) SYS_STATE_STATE = stSafe ∧
    ∃ y, startSafe s step attempts tEnd true = enterStill y stSafe ∧ rd y WELT_CTRL_BYPASS_REQ = 1 :=
  ⟨rd_enterStill_state _ (by decide), _, rfl, rd_wr_same _ _ rfl⟩

section
variable {s : State} (spurs : List (Nat × Nat)) (tUs : Nat)

theorem exec_st09Ringup_elsewhere (lbk : List (Nat × Bool)) (h : joining s 9 = false) : exec (.st09Ringup lbk spurs tUs) s = .next s :=
  congrArg Host.Outcome.next (if_pos (by simp [h]))

theorem exec_bringupTimeout_elsewhere (h : joining s 9 = false) : exec (.bringupTimeout spurs tUs) s = .next s :=
  congrArg Host.Outcome.next (if_neg (by simp [h]))

theorem exec_ringupRetry_elsewhere (h : joining s 9 = false) : exec (.ringupRetry spurs tUs) s = .next s :=
  congrArg Host.Outcome.next (if_neg (by simp [h]))

/-- The state in which ST09 examines the ports: its first command begins the step. -/
def ringBegun (s : State) (lbk : List (Nat × Bool)) : State := if s.sys.tries = 0 then ringBegin s lbk else s

theorem exec_st09Ringup (lbk : List (Nat × Bool)) (h : joining s 9 = true) : exec (.st09Ringup lbk spurs tUs) s = .next
    (if joining (ringBegun s lbk) 9 = false then ringBegun s lbk
    else if allUp (ringBegun s lbk) = true then ringEnd (ringBegun s lbk) rPass 0 spurs tUs
    else if noPair (ringBegun s lbk) = true then
      startSafe (spurLinks (ringBegun s lbk) spurs) 9 (ringBegun s lbk).sys.tries tUs true
    else ringBegun s lbk) := by
  refine congrArg Host.Outcome.next ((if_neg (by simp [h])).trans ?_)
  simp only [← ringBegun.eq_1, Bool.not_eq_true']

theorem ringBegin_held (lbk : List (Nat × Bool)) (h : s.rst.fromFull = false) :
    ringBegin s lbk = raiseAll (tried s) (heldFaults (tried s)) :=
  if_neg (by simp [tried, h])

theorem exec_bringupTimeout (h : joining s 9 = true) (ht : s.sys.tries ≠ 0) :
    exec (.bringupTimeout spurs tUs) s = .next (ringExamine s spurs tUs) :=
  congrArg Host.Outcome.next (if_pos ⟨h, ht⟩)

theorem exec_ringupRetry (h : joining s 9 = true) (ht : s.sys.tries ≠ 0) :
    exec (.ringupRetry spurs tUs) s = .next (ringExamine (tried s) spurs tUs) :=
  congrArg Host.Outcome.next (if_pos ⟨h, ht⟩)

/-- The ports end ST09, let it end with a pair, end the start in SAFE, or leave it waiting (R39). -/
theorem ringExamine_cases (s : State) (spurs : List (Nat × Nat)) (tUs : Nat) :
    (allUp s = true → ringExamine s spurs tUs = ringEnd s rPass 0 spurs tUs) ∧
    (allUp s = false → pairUp s = true → ringExamine s spurs tUs = ringEnd s rAlt 4 spurs tUs) ∧
    (allUp s = false → pairUp s = false → noPair s = true →
      ringExamine s spurs tUs = startSafe (spurLinks s spurs) 9 s.sys.tries tUs true) ∧
    (allUp s = false → pairUp s = false → noPair s = false → ringExamine s spurs tUs = s) := by
  unfold ringExamine
  refine ⟨fun ha => ?_, fun ha hp => ?_, fun ha hp hn => ?_, fun ha hp hn => ?_⟩
  · simp [ha]
  · simp [ha, hp]
  · simp [ha, hp, hn]
  · simp [ha, hp, hn]

end

theorem partsBut_tried (s : State) : partsBut [.sys] s (tried s) := by
  intro x hx
  cases x <;> simp [Part.same, tried] at hx ⊢

/-! ## ST10 (R88, R137, R354, R359, R380) -/

theorem timeDone_iff (s : State) : timeDone s = true ↔ (rd s SYS_RST_CAUSE_CAUSE = rResole ∧ rd s BELL_PPS_CTRL_LOCK_Q = 1) ∨
    (rd s BELL_STATUS_STATE = lOrigin ∧ (rd s BELL_CTRL_SRC = 0 ∨ rd s BELL_CTRL_SRC = 3 ∨ rd s BELL_STATUS_EXT_LOCKED = 1)) ∨
    rd s BELL_STATUS_STATE = lLocked := by
  have hlock := flag_iff s (f := BELL_PPS_CTRL_LOCK_Q) rfl
  have hext := flag_iff s (f := BELL_STATUS_EXT_LOCKED) rfl
  unfold timeDone bellState
  by_cases hr : rd s SYS_RST_CAUSE_CAUSE = rResole ∧ rd s BELL_PPS_CTRL_LOCK_Q = 1
  · rw [if_pos (by simp [afterResole, hr.1, hlock.2 hr.2])]
    simp [hr]
  · rw [if_neg (by simpa [afterResole, hlock] using hr)]
    by_cases ho : rd s BELL_STATUS_STATE = lOrigin
    · rw [if_pos ho]
      simp [hr, ho, hext, or_assoc, lOrigin, lLocked]
    · rw [if_neg ho]
      simp [hr, ho]

/-- The steps' entries are eight bytes long. -/
theorem stepBytes_length (r : StepRes) : (stepBytes r).length = 8 := by
  simp [stepBytes, beBytes, leBytes_length]

theorem partsBut_norProgram (s : State) (off : Nat) (l : List Byte) : partsBut [.mem] s (norProgram s off l) := by
  intro x hx
  cases x <;> simp [Part.same] at hx ⊢

theorem ring_setRing (s : State) (r k : Nat) (x : Ring) : (s.setRing r x).ring k = if k = r then x else s.ring k :=
  tget_tput _ _ _ _ _

/-- A ring that has been quiet until now. -/
def quietRing (s : State) (r : Nat) : State := s.setRing r { s.ring r with quiet := ftNs s }

/-- ST11 begins: the heads named in the Last wait for fresh trains from now on. -/
theorem timeOver_spec (s : State) : rd (timeOver s) SYS_STEP_STEP = 11 ∧ rd (timeOver s) SYS_DEG_REASON = rd s SYS_DEG_REASON ∧
    (∀ r < 2, ((timeOver s).ring r).quiet = ftNs s) ∧ partsBut [.regs, .trn] s (timeOver s) ∧
    cellsBut [SYS_STEP_STEP.addr] s (timeOver s) := by
  have hregs : (timeOver s).regs = (stepTo s 11).regs := rfl
  have hring : partsBut [.trn] (stepTo s 11) (timeOver s) := by
    intro x hx
    cases x <;> simp [Part.same] at hx ⊢ <;> rfl
  refine ⟨?_, ?_, fun r hr => ?_, ?_, fun a ha => ?_⟩
  · rw [rd_congr _ hregs]
    exact rd_wr_same _ _ rfl
  · rw [rd_congr _ hregs]
    exact rd_wr_addr _ _ _ _ (by decide)
  · have heq : timeOver s = (quietRing (stepTo s 11) 0).setRing 1 { (quietRing (stepTo s 11) 0).ring 1 with quiet := ftNs s } := rfl
    obtain rfl | rfl : r = 0 ∨ r = 1 := by omega
    · rw [heq, ring_setRing, if_neg (by decide), quietRing, ring_setRing, if_pos rfl]
      rfl
    · rw [heq, ring_setRing, if_pos rfl]
  · exact partsBut_trans (partsBut_mono (partsBut_wr s _ _) (by decide)) (partsBut_mono hring (by decide))
  · rw [cellAt_congr a hregs]
    exact cellsBut_wr s _ _ a ha

/-- A step that ends leaves the registers alone: it changes what is held of it, or its eight bytes of the open record (R359). -/
theorem endStep_spec (s : State) (step result attempts alt tEnd : Nat) :
    (endStep s step result attempts alt tEnd).regs = s.regs ∧ (endStep s step result attempts alt tEnd).clk = s.clk ∧
    (s.sys.record = none →
      (endStep s step result attempts alt tEnd).sys = { s.sys with steps := s.sys.steps ++ [(step, ⟨result, attempts, alt, tEnd⟩)] } ∧
      partsBut [.sys] s (endStep s step result attempts alt tEnd)) ∧
    ∀ off, s.sys.record = some off → (∀ b, b < norBase + (off + 48 + 8 * (step - 1)) ∨ norBase + (off + 48 + 8 * (step - 1)) + 8 ≤ b →
      memGet (endStep s step result attempts alt tEnd) b = memGet s b) ∧ partsBut [.mem] s (endStep s step result attempts alt tEnd) := by
  unfold endStep
  dsimp only
  split
  next off h =>
    refine ⟨norProgram_regs _ _ _, norProgram_clk _ _ _, fun hn => ?_, fun off' ho => ?_⟩
    · rw [h] at hn
      cases hn
    · obtain rfl : off = off' := Option.some.inj (h.symm.trans ho)
      exact ⟨fun b hb => memGet_norProgram_out _ _ _ (by rw [stepBytes_length]; exact hb), partsBut_norProgram _ _ _⟩
  next h =>
    refine ⟨rfl, rfl, fun _ => ⟨rfl, fun x hx => ?_⟩, fun off ho => ?_⟩
    · cases x <;> simp [Part.same] at hx ⊢
    · rw [h] at ho
      cases ho

section
variable {s : State} {limit : Bool} {tUs : Nat}

theorem exec_st10Time_waits (h : joining s 10 = false ∨ (timeDone s = false ∧ limit = false)) :
    exec (.st10Time limit tUs) s = .next s := by
  refine congrArg Host.Outcome.next ?_
  obtain h | ⟨ht, hl⟩ := h
  · simp [h]
  · simp [ht, hl]

/-- ST10 as it ends: with PASS where the time is right, as alternative 5 with the TIME reason at its limit. -/
def timeEnded (s : State) (tUs : Nat) : State :=
  if timeDone s = true then endStep s 10 rPass 1 0 tUs else wrBit (endStep s 10 rAlt 1 5 tUs) SYS_DEG_REASON 1 true

theorem exec_st10Time_ends (h : joining s 10 = true) (ht : timeDone s = true ∨ limit = true) :
    exec (.st10Time limit tUs) s = .next (timeOver (timeEnded s tUs)) := by
  refine congrArg Host.Outcome.next ((if_neg (by simp [h])).trans ?_)
  unfold timeEnded
  by_cases hd : timeDone s = true
  · rw [if_pos hd, if_pos hd]
  · rw [if_neg hd, if_neg hd, if_pos (ht.resolve_left hd)]

end

/-- The entry of ST10. -/
def timeEntry (s : State) (tUs : Nat) : StepRes := if timeDone s = true then ⟨rPass, 1, 0, tUs⟩ else ⟨rAlt, 1, 5, tUs⟩

/-- The entry of ST10 is made, and only the limit touches a register, the TIME reason (R137, R354, R359). -/
theorem timeEnded_spec (s : State) (tUs : Nat) :
    (timeDone s = true → rd (timeEnded s tUs) SYS_DEG_REASON = rd s SYS_DEG_REASON) ∧
    (timeDone s = false → rdBit (timeEnded s tUs) SYS_DEG_REASON 1 = true) ∧ (timeEnded s tUs).clk = s.clk ∧
    (s.sys.record = none → (timeEnded s tUs).sys = { s.sys with steps := s.sys.steps ++ [(10, timeEntry s tUs)] } ∧
      partsBut [.regs, .sys] s (timeEnded s tUs)) ∧
    (∀ off, s.sys.record = some off → (∀ b, b < norBase + off + 120 ∨ norBase + off + 128 ≤ b →
      memGet (timeEnded s tUs) b = memGet s b) ∧ partsBut [.regs, .mem] s (timeEnded s tUs)) ∧
    cellsBut [SYS_DEG_REASON.addr] s (timeEnded s tUs) := by
  unfold timeEnded timeEntry
  split
  next h =>
    obtain ⟨hregs, hclk, hnone, hsome⟩ := endStep_spec s 10 rPass 1 0 tUs
    refine ⟨fun _ => rd_congr _ hregs, fun hf => absurd h (by simp [hf]), hclk, fun hn => ?_, fun off ho => ?_,
      fun a _ => cellAt_congr a hregs⟩
    · exact ⟨(hnone hn).1, partsBut_mono (hnone hn).2 (by decide)⟩
    · exact ⟨fun b hb => (hsome off ho).1 b (by omega), partsBut_mono (hsome off ho).2 (by decide)⟩
  next h =>
    obtain ⟨hregs, hclk, hnone, hsome⟩ := endStep_spec s 10 rAlt 1 5 tUs
    have hbit : ∀ l, partsBut l s (endStep s 10 rAlt 1 5 tUs) →
        partsBut (.regs :: l) s (wrBit (endStep s 10 rAlt 1 5 tUs) SYS_DEG_REASON 1 true) := fun l hl =>
      partsBut_trans (partsBut_mono hl fun p hp => List.mem_cons_of_mem _ hp) (partsBut_mono (partsBut_wr _ _ _) (by simp))
    refine ⟨fun ht => absurd ht h, fun _ => ?_, ?_, fun hn => ?_, fun off ho => ?_, fun a ha => ?_⟩
    · rw [rdBit_wrBit _ _ _ _ _ (by decide) (by decide), if_pos rfl]
    · exact (wr_clk _ _ _).trans hclk
    · exact ⟨(wr_sys _ _ _).trans (hnone hn).1, hbit _ (hnone hn).2⟩
    · refine ⟨fun b hb => ?_, hbit _ (hsome off ho).2⟩
      rw [wrBit, memGet_congr b (wr_mem _ _ _)]
      exact (hsome off ho).1 b (by omega)
    · rw [← cellAt_congr a hregs]
      exact cellsBut_wr _ SYS_DEG_REASON _ a ha

/-- Settles O14, by the branches of ST09's examination of the ports and of ST10's end. -/
theorem ringUpAndTimeSteps : Obligations.RingUpAndTimeSteps := by
  unfold Obligations.RingUpAndTimeSteps
  refine ⟨joining_iff, fun s l k tries tUs => (startSafe_bypass _ k tries tUs).1, fun s => ⟨allUp_iff s, by simp [pairUp]⟩,
    fun s lbk spurs tUs => ⟨fun h => ?_, fun h => ?_, fun h ht => ?_, fun k r => startSafe_bypass s k r tUs⟩, timeDone_iff,
    fun s limit tUs => ⟨exec_st10Time_waits, fun h ht => ?_⟩, fun s => ⟨fun h => ?_, fun h => ?_⟩⟩
  · exact ⟨exec_st09Ringup_elsewhere spurs tUs lbk h, exec_bringupTimeout_elsewhere spurs tUs h, exec_ringupRetry_elsewhere spurs tUs h⟩
  · rw [exec_st09Ringup spurs tUs lbk h]
    refine ⟨ringBegun s lbk, _, rfl, fun ht => if_pos ht, fun ht => if_neg ht, fun hf => ?_, fun hj => ?_, fun hj ha => ?_,
      fun hj ha hn => ?_, fun hj ha hn => ?_⟩
    · exact ⟨tried s, rfl, partsBut_tried s, ringBegin_held lbk hf⟩
    · rw [if_pos hj]
    · rw [if_neg (by simp [hj]), if_pos ha]
    · rw [if_neg (by simp [hj]), if_neg (by simp [ha]), if_pos hn]
    · rw [if_neg (by simp [hj]), if_neg (by simp [ha]), if_neg (by simp [hn])]
  · obtain ⟨hs1, hs2, hs3, hs4⟩ := ringExamine_cases s spurs tUs
    obtain ⟨hv1, hv2, hv3, hv4⟩ := ringExamine_cases (tried s) spurs tUs
    rw [exec_bringupTimeout spurs tUs h ht, exec_ringupRetry spurs tUs h ht]
    exact ⟨tried s, rfl, partsBut_tried s, fun a => by rw [hs1 a], fun a => by rw [hv1 a], fun a p => by rw [hs2 a p],
      fun a p => by rw [hv2 a p], fun a p n => by rw [hs3 a p n], fun a p n => by rw [hv3 a p n], fun a p n => by rw [hs4 a p n],
      fun a p n => by rw [hv4 a p n]⟩
  · obtain ⟨hpass, hlimit, hclk, hnone, hsome, hcells⟩ := timeEnded_spec s tUs
    obtain ⟨hstep, hreason, hquiet, hparts, hcell⟩ := timeOver_spec (timeEnded s tUs)
    refine ⟨_, exec_st10Time_ends h ht, hstep, fun hd => hreason.trans (hpass hd), fun hd => ?_, fun hn => ⟨?_, ?_⟩,
      fun off ho => ⟨fun b hb => ?_, ?_⟩, fun r hr => ?_, ?_⟩
    · rw [rdBit, hreason]
      exact hlimit hd
    · exact (hparts .sys (by decide)).trans (hnone hn).1
    · exact partsBut_trans (partsBut_mono (hnone hn).2 (by decide)) (partsBut_mono hparts (by decide))
    · rw [memGet_congr b (hparts .mem (by decide))]
      exact (hsome off ho).1 b hb
    · exact partsBut_trans (partsBut_mono (hsome off ho).2 (by decide)) (partsBut_mono hparts (by decide))
    · rw [hquiet r hr, ftNs, hclk, ftNs]
    · exact cellsBut_trans (cellsBut_mono hcells (by decide)) (cellsBut_mono hcell (by decide))
  · exact ⟨tried s, congrArg Host.Outcome.next (if_pos h), rfl, partsBut_tried s⟩
  · exact congrArg Host.Outcome.next (if_neg (by simp [h]))

end Sys2Proof.Machine

/-! SUPPORT. Obligation O29: which boundary the Treadle takes, what the tick shows, the input image and a level output. -/

namespace Sys2Proof.Machine

/-! ## The boundary cycle (R140, R142 to R144, R147, R151) -/

theorem rd_wrs_ne (s : State) {f : Fld} {l : List (Fld × Nat)} (h : f.addr ∉ l.map (·.1.addr)) : rd (wrs s l) f = rd s f := by
  induction l generalizing s with
  | nil => rfl
  | cons x l ih =>
    simp only [List.map_cons, List.mem_cons, not_or] at h
    rw [wrs_cons, ih _ h.2, rd_wr_addr _ _ _ _ h.1]

/-- The special words take their values, and no other register does (R147). -/
theorem specialWords_spec (s : State) (n : Int) (first ovr late skip : Bool) (us : Nat) : ∃ t,
    specialWords s n first ovr late skip us = t ∧ rd t (TRD_SPW_W 0) = wrapTo 32 n % 2 ^ 32 ∧ rd t (TRD_SPW_W 2) = ftNs s % 2 ^ 32 ∧
    rd t (TRD_SPW_W 3) = ftNs s / 2 ^ 32 % 2 ^ 32 ∧ rd t (TRD_SPW_W 5) = us % 2 ^ 32 ∧ partsBut [.regs] s t ∧
    ∀ a, a < (TRD_SPW_W 0).addr → cellAt t a = cellAt s a := by
  unfold specialWords
  generalize natOf (hubState s == stDegraded) + natOf (bellState s == lLocked || bellState s == lOrigin) * 2 +
    natOf first * 4 + natOf ovr * 8 + natOf late * 16 + natOf skip * 32 = flags
  generalize ftNs s = now
  refine ⟨_, rfl, ?_, ?_, ?_, ?_, partsBut_wrs _ _, fun a ha => ?_⟩
  · rw [wrs_cons, rd_wrs_ne _ (by simp [TRD_SPW_W]), rd_wr_same _ _ rfl]
    rfl
  · rw [wrs_cons, wrs_cons, wrs_cons, rd_wrs_ne _ (by simp [TRD_SPW_W]), rd_wr_same _ _ rfl]
    rfl
  · rw [wrs_cons, wrs_cons, wrs_cons, wrs_cons, rd_wrs_ne _ (by simp [TRD_SPW_W]), rd_wr_same _ _ rfl]
    rfl
  · rw [wrs_cons, wrs_cons, wrs_cons, wrs_cons, wrs_cons, wrs_cons, rd_wrs_ne _ (by simp [TRD_SPW_W]), rd_wr_same _ _ rfl]
    rfl
  · have hne : ∀ i, a ≠ (TRD_SPW_W i).addr := fun i => by
      simp only [TRD_SPW_W] at ha ⊢
      omega
    simp only [wrs_cons, wrs_nil, cellAt_wr_ne _ _ _ _ (hne _)]

/-- The Treadle shows that it is in P1 of a tick (R140). -/
def phaseShown (s : State) (n : Int) : State :=
  wrs s [(TRD_STATUS_PHASE, 1), (TRD_STATUS_RUNNING, 1), (TRD_TICKNO_TICK, wrapTo 32 n)]

theorem phaseShown_spec (s : State) (n : Int) : rd (phaseShown s n) TRD_STATUS_PHASE = 1 ∧ rd (phaseShown s n) TRD_STATUS_RUNNING = 1 ∧
    rd (phaseShown s n) TRD_TICKNO_TICK = wrapTo 32 n % 2 ^ 32 ∧
    cellsBut [TRD_STATUS_PHASE.addr, TRD_TICKNO_TICK.addr] s (phaseShown s n) := by
  simp only [phaseShown, wrs_cons, wrs_nil]
  refine ⟨?_, ?_, rd_wr_same _ _ rfl, ?_⟩
  · rw [rd_wr_addr _ _ _ _ (by decide), rd_wr_apart _ _ rfl rfl, rd_wr_same _ _ rfl]
    rfl
  · rw [rd_wr_addr _ _ _ _ (by decide), rd_wr_same _ _ rfl]
    rfl
  · exact cellsBut_trans (cellsBut_mono (cellsBut_wr _ _ _) (by decide))
      (cellsBut_trans (cellsBut_mono (cellsBut_wr _ _ _) (by decide)) (cellsBut_mono (cellsBut_wr _ _ _) (by decide)))

/-- A late tick is noted and counted (R142). -/
def lateShown (s : State) (late : Bool) : State := if late then incSat (wr s TRD_EVT_LATE_TICK 1) TRD_CNT_LATE_TICK else s

theorem lateShown_spec (s : State) (late : Bool) :
    (late = true → rd (lateShown s late) TRD_EVT_LATE_TICK = 1 ∧
      rd (lateShown s late) TRD_CNT_LATE_TICK = min (rd s TRD_CNT_LATE_TICK + 1) (2 ^ TRD_CNT_LATE_TICK.w - 1)) ∧
    cellsBut [TRD_EVT_LATE_TICK.addr, TRD_CNT_LATE_TICK.addr] s (lateShown s late) ∧ partsBut [.regs] s (lateShown s late) := by
  cases late with
  | false => exact ⟨fun h => absurd h (by decide), cellsBut_refl _ _, partsBut_refl _ _⟩
  | true =>
    have hinc := regsOnly_addSat (wr s TRD_EVT_LATE_TICK 1) TRD_CNT_LATE_TICK 1
    refine ⟨fun _ => ⟨?_, ?_⟩, cellsBut_trans (cellsBut_mono (cellsBut_wr _ _ _) (by decide)) (cellsBut_mono hinc.2 (by decide)),
      partsBut_trans (partsBut_wr _ _ _) hinc.1⟩
    · exact (congrArg (fun c => cellGet c _ _) (hinc.2 TRD_EVT_LATE_TICK.addr (by decide))).trans (rd_wr_same _ _ rfl)
    · rw [← rd_wr_addr s TRD_EVT_LATE_TICK TRD_CNT_LATE_TICK 1 (by decide)]
      exact rd_incSat_self _ TRD_CNT_LATE_TICK (by decide)

/-- Boundaries left out are noted (R143). -/
def skipShown (s : State) (skip : Bool) : State := if skip then wr s TRD_EVT_SKIP 1 else s

theorem skipShown_spec (s : State) (skip : Bool) : (skip = true → rd (skipShown s skip) TRD_EVT_SKIP = 1) ∧
    rd (skipShown s skip) TRD_EVT_LATE_TICK = rd s TRD_EVT_LATE_TICK ∧ cellsBut [TRD_EVT_SKIP.addr] s (skipShown s skip) ∧
    partsBut [.regs] s (skipShown s skip) := by
  cases skip with
  | false => exact ⟨fun h => absurd h (by decide), rfl, cellsBut_refl _ _, partsBut_refl _ _⟩
  | true => exact ⟨fun _ => rd_wr_same _ _ rfl, rd_wr_apart _ _ rfl rfl, cellsBut_wr _ _ _, partsBut_wr _ _ _⟩

/-- The special words of the tick taken in this cycle. -/
def tickWords (s : State) (n : Int) (late skip : Bool) : State :=
  specialWords s n s.trd.last.isNone s.trd.overran late skip (if s.trd.last.isNone then 0 else s.clk.cyc / 625 - s.trd.lastUs)

/-- The registers of the tick taken in this cycle, and what its engines latch. -/
def tickShown (s : State) (n : Int) (late skip : Bool) : State :=
  skipShown (lateShown (phaseShown (latchAll (tickWords s n late skip) n late) n) late) skip

/-- What the Treadle keeps of the tick it takes, beside its registers; y is the state of the Treadle as the tick shows. -/
def tickKept (s : State) (y : Trd) (n : Int) : Trd :=
  { y with taken := ftNs s, takenCyc := s.clk.cyc, last := some n, lastUs := s.clk.cyc / 625, overran := false, skipTo := none,
           applied := if s.trd.last.isNone then imageLevels s else s.trd.applied }

/-- Every quadrature sum starts afresh (R264). -/
def sumsCleared (s : State) : State := each (List.range 12) (fun u d => u.setQuad d { u.quad d with sum := 0 }) s

theorem sumsCleared_sum (s : State) {d : Nat} (hd : d < 12) : ((sumsCleared s).quad d).sum = 0 := by
  have h := each_get s (State.quad · d) (fun q => { q with sum := 0 }) (fun u d => u.setQuad d { u.quad d with sum := 0 })
    (List.range 12) d List.nodup_range (List.mem_range.2 hd) (fun u k hk => by rw [State.quad_setQuad, if_neg (Ne.symm hk)])
    (fun u => by rw [State.quad_setQuad, if_pos rfl])
  exact congrArg Quad.sum h

theorem partsBut_sumsCleared (s : State) : partsBut [.quads] s (sumsCleared s) :=
  partsBut_each _ _ _ s fun u k p hp => by cases p <;> simp [Part.same] at hp ⊢

/-- A state with the Treadle and the ADCs as given. -/
def withLatch (t : State) (y : Trd) (a : AdcSt) : State := { t with trd := y, adc := a }

theorem partsBut_withLatch (t : State) (y : Trd) (a : AdcSt) : partsBut [.trd, .adc] t (withLatch t y a) := by
  intro p hp
  cases p <;> simp [Part.same, withLatch] at hp ⊢

theorem latchAll_eq (s : State) (n : Int) (late : Bool) : latchAll s n late = withLatch (sumsCleared s)
    { (sumsCleared s).trd with
      latched := (latchWords s n late).foldl (fun m p => tput (fun _ => (0 : Word)) m p.1 (BitVec.ofNat 32 p.2)) [], raised := [] }
    (adcMark (sumsCleared s).adc n late) := by
  unfold latchAll withLatch sumsCleared
  rfl

/-- The engines latch their words: sums and the raises of the tick start afresh (R144, R264, R276). -/
theorem latchAll_spec (s : State) (n : Int) (late : Bool) : (latchAll s n late).regs = s.regs ∧
    (latchAll s n late).trd.raised = [] ∧ (∀ d < 12, ((latchAll s n late).quad d).sum = 0) ∧
    partsBut [.trd, .quads, .adc] s (latchAll s n late) := by
  have hsum := partsBut_sumsCleared s
  rw [latchAll_eq]
  generalize (latchWords s n late).foldl _ _ = l
  generalize adcMark _ n late = a
  have hlatch := partsBut_withLatch (sumsCleared s) { (sumsCleared s).trd with latched := l, raised := [] } a
  refine ⟨(hlatch .regs (by decide)).trans (hsum .regs (by decide)), rfl, fun d hd => ?_,
    partsBut_trans (partsBut_mono hsum (by decide)) (partsBut_mono hlatch (by decide))⟩
  rw [State.quad_congr d (hlatch .quads (by decide)), sumsCleared_sum s hd]

theorem wrapTo_mod (w : Nat) (i : Int) : wrapTo w i % 2 ^ w = wrapTo w i := by
  refine Nat.mod_eq_of_lt ?_
  have hpos : (0 : Int) < (2 ^ w : Nat) := by positivity
  have h1 := Int.emod_lt_of_pos i hpos
  have h2 := Int.emod_nonneg i hpos.ne'
  unfold wrapTo
  omega

/-- The registers of a tick that is taken (R140, R142, R143, R147). -/
theorem tickShown_spec (s : State) (n : Int) (late skip : Bool) : ∃ t, tickShown s n late skip = t ∧
    rd t TRD_STATUS_PHASE = 1 ∧ rd t TRD_STATUS_RUNNING = 1 ∧ rd t TRD_TICKNO_TICK = wrapTo 32 n ∧
    rd t (TRD_SPW_W 0) = wrapTo 32 n ∧ rd t (TRD_SPW_W 2) = ftNs s % 2 ^ 32 ∧ rd t (TRD_SPW_W 3) = ftNs s / 2 ^ 32 % 2 ^ 32 ∧
    rd t (TRD_SPW_W 5) = (if s.trd.last = none then 0 else (s.clk.cyc / 625 - s.trd.lastUs) % 2 ^ 32) ∧
    (skip = true → rd t TRD_EVT_SKIP = 1) ∧
    (late = true → rd t TRD_EVT_LATE_TICK = 1 ∧ rd t TRD_CNT_LATE_TICK = min (rd s TRD_CNT_LATE_TICK + 1) (2 ^ TRD_CNT_LATE_TICK.w - 1)) ∧
    t.trd.raised = [] ∧ (∀ d < 12, (t.quad d).sum = 0) ∧ partsBut [.regs, .trd, .quads, .adc] s t := by
  obtain ⟨w, hw, hw0, hw2, hw3, hw5, hwp, hwc⟩ := specialWords_spec s n s.trd.last.isNone s.trd.overran late skip
    (if s.trd.last.isNone then 0 else s.clk.cyc / 625 - s.trd.lastUs)
  obtain ⟨hlr, hraised, hsum, hlp⟩ := latchAll_spec w n late
  obtain ⟨hphase, hrunning, htick, hpc⟩ := phaseShown_spec (latchAll w n late) n
  have hpp : partsBut [.regs] (latchAll w n late) (phaseShown (latchAll w n late) n) := partsBut_wrs _ _
  obtain ⟨hlate, hlc, hlap⟩ := lateShown_spec (phaseShown (latchAll w n late) n) late
  obtain ⟨hskip, hevt, hsc, hsp⟩ := skipShown_spec (lateShown (phaseShown (latchAll w n late) n) late) skip
  have ht : tickShown s n late skip = skipShown (lateShown (phaseShown (latchAll w n late) n) late) skip := by
    rw [tickShown, tickWords, hw]
  generalize hl : latchAll w n late = l at *
  generalize phaseShown l n = p at *
  generalize lateShown p late = q at *
  rw [ht]
  generalize skipShown q skip = t at *
  have hend : ∀ f : Fld, f.addr ∉ [TRD_EVT_LATE_TICK.addr, TRD_CNT_LATE_TICK.addr] → rd t f = rd p f := fun f hf => by
    simp only [List.mem_cons, List.not_mem_nil, or_false, not_or] at hf
    rw [rd, hsc _ fun h => hf.1 (List.mem_singleton.1 h), hlc _ (by simpa using hf), rd]
  have hword : ∀ i, rd t (TRD_SPW_W i) = rd w (TRD_SPW_W i) := fun i => by
    rw [hend _ (by simp [TRD_SPW_W, TRD_EVT_LATE_TICK, TRD_CNT_LATE_TICK]; omega), rd,
      hpc _ (by simp [TRD_SPW_W, TRD_STATUS_PHASE, TRD_TICKNO_TICK]; omega), cellAt_congr _ hlr, rd]
  have hcnt : rd p TRD_CNT_LATE_TICK = rd s TRD_CNT_LATE_TICK := by
    rw [rd, hpc _ (by decide), cellAt_congr _ hlr, hwc _ (by decide), rd]
  refine ⟨t, rfl, ?_, ?_, ?_, ?_, ?_, ?_, ?_, hskip, fun h => ?_, ?_, ?_, ?_⟩
  · rw [hend _ (by decide), hphase]
  · rw [hend _ (by decide), hrunning]
  · rw [hend _ (by decide), htick, wrapTo_mod]
  · rw [hword, hw0, wrapTo_mod]
  · rw [hword, hw2]
  · rw [hword, hw3]
  · rw [hword, hw5]
    cases s.trd.last <;> simp
  · refine ⟨hevt.trans (hlate h).1, ?_⟩
    rw [rd, hsc _ (by decide), ← rd, (hlate h).2, hcnt]
  · rw [hsp .trd (by decide), hlap .trd (by decide), hpp .trd (by decide), hraised]
  · intro d hd
    have hq : t.quads = l.quads := by rw [hsp .quads (by decide), hlap .quads (by decide), hpp .quads (by decide)]
    rw [State.quad_congr d hq, hsum d hd]
  · refine partsBut_trans (partsBut_mono hwp (by decide)) (partsBut_trans (partsBut_mono hlp (by decide)) ?_)
    exact partsBut_mono (partsBut_trans hpp (partsBut_trans hlap hsp)) (by decide)

/-- A state with the Treadle as given. -/
def withTrd (t : State) (y : Trd) : State := { t with trd := y }

theorem partsBut_withTrd (t : State) (y : Trd) : partsBut [.trd] t (withTrd t y) := by
  intro p hp
  cases p <;> simp [Part.same, withTrd] at hp ⊢

/-- The Treadle notes the tick it takes (R139, R142, R143, R151). -/
theorem tickKept_spec (s : State) (y : Trd) (n : Int) : (tickKept s y n).last = some n ∧ (tickKept s y n).taken = ftNs s ∧
    (tickKept s y n).takenCyc = s.clk.cyc ∧ (tickKept s y n).lastUs = s.clk.cyc / 625 ∧ (tickKept s y n).raised = y.raised ∧
    (tickKept s y n).overran = false :=
  ⟨rfl, rfl, rfl, rfl, rfl, rfl⟩

theorem takeTick_withTrd (s : State) (n : Int) (late skip : Bool) : takeTick s n late skip =
    withTrd (tickShown (inputsDue s) n late skip) (tickKept (inputsDue s) (tickShown (inputsDue s) n late skip).trd n) := rfl

/-- A tick is taken in its cycle, once the edges stamped in it are in their latches (R140, R142 to R144, R147, R151). -/
theorem takeTick_spec (s : State) (n : Int) (late skip : Bool) : ∃ t, takeTick s n late skip = t ∧
    t.trd.last = some n ∧ rd t TRD_STATUS_PHASE = 1 ∧ rd t TRD_STATUS_RUNNING = 1 ∧ rd t TRD_TICKNO_TICK = wrapTo 32 n ∧
    rd t (TRD_SPW_W 0) = wrapTo 32 n ∧ rd t (TRD_SPW_W 2) = ftNs (inputsDue s) % 2 ^ 32 ∧
    rd t (TRD_SPW_W 3) = ftNs (inputsDue s) / 2 ^ 32 % 2 ^ 32 ∧
    rd t (TRD_SPW_W 5) = (if (inputsDue s).trd.last = none then 0 else ((inputsDue s).clk.cyc / 625 - (inputsDue s).trd.lastUs) % 2 ^ 32) ∧
    (skip = true → rd t TRD_EVT_SKIP = 1) ∧
    (late = true → rd t TRD_EVT_LATE_TICK = 1 ∧
      rd t TRD_CNT_LATE_TICK = min (rd (inputsDue s) TRD_CNT_LATE_TICK + 1) (2 ^ TRD_CNT_LATE_TICK.w - 1)) ∧
    t.trd.taken = ftNs (inputsDue s) ∧ t.trd.takenCyc = (inputsDue s).clk.cyc ∧ t.trd.lastUs = (inputsDue s).clk.cyc / 625 ∧
    t.trd.raised = [] ∧ t.trd.overran = false ∧ (∀ d < 12, (t.quad d).sum = 0) ∧
    partsBut [.regs, .trd, .quads, .adc] (inputsDue s) t := by
  rw [takeTick_withTrd]
  generalize inputsDue s = x
  obtain ⟨t, ht, hphase, hrunning, htick, hw0, hw2, hw3, hw5, hskip, hlate, hraised, hsum, hparts⟩ := tickShown_spec x n late skip
  rw [ht]
  have hkept := tickKept_spec x t.trd n
  generalize tickKept x t.trd n = y at *
  have hy := partsBut_withTrd t y
  have hrd : ∀ f, rd (withTrd t y) f = rd t f := fun f => rd_congr f (hy .regs (by decide))
  obtain ⟨hlast, htaken, hcyc, hus, hraise, hover⟩ := hkept
  refine ⟨withTrd t y, rfl, hlast, ?_, ?_, ?_, ?_, ?_, ?_, ?_, ?_, ?_, htaken, hcyc, hus, hraise.trans hraised, hover, fun d hd => ?_, ?_⟩
  · rw [hrd, hphase]
  · rw [hrd, hrunning]
  · rw [hrd, htick]
  · rw [hrd, hw0]
  · rw [hrd, hw2]
  · rw [hrd, hw3]
  · rw [hrd, hw5]
  · rw [hrd]
    exact hskip
  · rw [hrd, hrd]
    exact hlate
  · rw [State.quad_congr d (hy .quads (by decide)), hsum d hd]
  · exact partsBut_trans hparts (partsBut_mono hy (by decide))

/-! ## Which boundary is taken (R139, R142, R143, R337) -/

section
variable {s : State}

theorem tickDrop_fresh (h : rd s TRD_STATUS_PHASE = 0 ∨ tickStale s = false) : tickDrop s = s :=
  if_neg fun ⟨hp, ht⟩ => h.elim hp fun g => by simp [g] at ht

theorem resumeTake_none (h : s.tnk.resume = none) : resumeTake s = s := by
  unfold resumeTake
  rw [h]

theorem resumeTake_some {n : Int} (h : s.tnk.resume = some n) :
    resumeTake s = resumeDue (advanceTo s (boundaryNs s (rd s TRD_TICK_NS_NS) n).toNat) := by
  unfold resumeTake
  rw [h]

theorem exec_tickBoundary (hb : s.rst.busy = false) : exec .tickBoundary s = .next (tickBoundary (tickDrop (resumeTake s))) := by
  change execTickBoundary s = _
  rw [execTickBoundary, whenAlive_alive _ _ hb]

/-- The state in which the next boundary is looked for: P4 of the tick before has ended (R142). -/
def ticksEnded (s : State) : State := if rd s TRD_STATUS_PHASE = 4 then toCycle s (tickEnd s) else s

theorem rd_ticksEnded (s : State) (f : Fld) : rd (ticksEnded s) f = rd s f := by
  unfold ticksEnded
  split
  · exact rd_advance s _ f
  · rfl

/-- The Treadle takes the tick in which FT stands, or the first boundary that it may take (R139, R142, R143). -/
theorem tickBoundary_takes (hr : running s = true) (he : rd s TRD_CTRL_EN = 1) (hns : rd s TRD_TICK_NS_NS ≠ 0)
    (hp : rd s TRD_STATUS_PHASE = 0 ∨ rd s TRD_STATUS_PHASE = 4) {floor : Int} (hf : tickFloor (ticksEnded s) = some floor) :
    tickBoundary s = if tickLower (ticksEnded s) floor ≤ tickNow (ticksEnded s) then
        takeTick (ticksEnded s) (tickNow (ticksEnded s)) (isLate (ticksEnded s) (tickNow (ticksEnded s)))
          ((ticksEnded s).trd.last.isSome && decide (floor < tickNow (ticksEnded s)))
      else takeTick (advanceTo (ticksEnded s)
          (boundaryNs (ticksEnded s) (rd s TRD_TICK_NS_NS) (tickLower (ticksEnded s) floor)).toNat) (tickLower (ticksEnded s) floor) false
        ((ticksEnded s).trd.last.isSome && decide (floor < tickLower (ticksEnded s) floor)) := by
  have hgo : ¬((!running s || !flag s TRD_CTRL_EN || tickNs s == 0 ||
      (rd s TRD_STATUS_PHASE != 0 && rd s TRD_STATUS_PHASE != 4)) = true) := by
    have hphase : (rd s TRD_STATUS_PHASE != 0 && rd s TRD_STATUS_PHASE != 4) = false := by
      obtain h | h := hp <;> simp [h]
    simp [hr, flag_true he, tickNs, hns, hphase]
  unfold tickBoundary
  rw [if_neg hgo]
  simp only [← ticksEnded.eq_1, hf, tickNs, rd_ticksEnded]

end

theorem isLate_iff (s : State) (n : Int) : isLate s n = true ↔ s.trd.last.isSome = true ∧ rd s TRD_STATUS_PHASE = 4 ∧
    boundaryNs s (rd s TRD_TICK_NS_NS) n * 2 ^ 48 + cycleUnits s * ((s.clk.cyc : Int) - tickEnd s) < s.clk.ft.toNat := by
  simp only [isLate, tickNs, Bool.and_eq_true, beq_iff_eq, and_assoc]
  exact and_congr_right fun _ => and_congr_right fun _ => ⟨of_decide_eq_true, decide_eq_true⟩

/-! ## The input image (R144) -/

theorem cellReset_input {w : Nat} (h : w < 2048) : cellReset (TRD_IN_W w).addr = 0 := by
  have h1 : (TRD_IN_W w).addr ≠ 0x40000004 := by
    simp only [TRD_IN_W]
    omega
  have h2 : (TRD_IN_W w).addr ≠ 0x4005C81C := by
    simp only [TRD_IN_W]
    omega
  have h3 : ¬(0x40040400 ≤ (TRD_IN_W w).addr ∧ (TRD_IN_W w).addr < 0x40040600 ∧ ((TRD_IN_W w).addr - 0x40040400) % 16 = 0) := by
    simp only [TRD_IN_W]
    omega
  rw [cellReset, if_neg h1, if_neg h2, if_neg h3]

theorem tget_absent {α : Type} (d : Nat → α) {l : List (Nat × α)} {k : Nat} (h : k ∉ l.map (·.1)) : tget d l k = d k := by
  induction l with
  | nil => rfl
  | cons p l ih =>
    simp only [List.map_cons, List.mem_cons, not_or] at h
    rw [tget, if_neg (Ne.symm h.1), ih h.2]

/-- The latched values take their words, each once; the other words stay. -/
theorem rd_latched {l : List (Nat × Word)} (hl : (l.map (·.1)).Nodup) (s : State) (w : Nat) :
    rd (l.foldl (fun u p => wr u (TRD_IN_W p.1) p.2.toNat) s) (TRD_IN_W w) =
      (tget (fun _ => BitVec.ofNat 32 (rd s (TRD_IN_W w))) l w).toNat := by
  induction l generalizing s with
  | nil => exact (Nat.mod_eq_of_lt (rd_lt s (TRD_IN_W w))).symm
  | cons p l ih =>
    obtain ⟨k, v⟩ := p
    obtain ⟨hk, hl⟩ := List.nodup_cons.1 hl
    rw [List.foldl_cons, ih hl, tget]
    by_cases e : k = w
    · subst e
      rw [if_pos rfl, tget_absent _ hk, rd_wr_same _ _ rfl]
      exact (Nat.mod_mod _ _).trans (Nat.mod_eq_of_lt v.isLt)
    · rw [if_neg e, rd_wr_addr _ _ _ _ (by simp only [TRD_IN_W]; omega)]

/-- The input image without the words that the latched values replace. -/
def imageCleared (s : State) (late : Nat) : State := { s with regs := s.regs.filter fun c =>
  !(decide ((TRD_IN_W 0).addr ≤ c.1) && decide (c.1 < (TRD_IN_W 0).addr + 0x2000) && moves late ((c.1 - (TRD_IN_W 0).addr) / 4)) }

theorem rd_imageCleared (s : State) (late : Nat) {w : Nat} (h : w < 2048) :
    rd (imageCleared s late) (TRD_IN_W w) = if moves late w = true then 0 else rd s (TRD_IN_W w) := by
  have hcell := tget_filter cellReset s.regs (fun k => !(decide ((TRD_IN_W 0).addr ≤ k) &&
    decide (k < (TRD_IN_W 0).addr + 0x2000) && moves late ((k - (TRD_IN_W 0).addr) / 4))) (TRD_IN_W w).addr
  have hin : (decide ((TRD_IN_W 0).addr ≤ (TRD_IN_W w).addr) && decide ((TRD_IN_W w).addr < (TRD_IN_W 0).addr + 0x2000)) = true := by
    rw [decide_eq_true (by simp only [TRD_IN_W]; omega), decide_eq_true (by simp only [TRD_IN_W]; omega)]
    rfl
  have hidx : ((TRD_IN_W w).addr - (TRD_IN_W 0).addr) / 4 = w := by
    simp only [TRD_IN_W]
    omega
  rw [hin, hidx, cellReset_input h, Bool.true_and] at hcell
  have hget : rd (imageCleared s late) (TRD_IN_W w) = cellGet (if (!moves late w) = true then cellAt s (TRD_IN_W w).addr else 0) 0 32 :=
    congrArg (fun c => cellGet c 0 32) hcell
  rw [hget]
  by_cases hm : moves late w = true
  · rw [if_neg (by simp [hm]), if_pos hm]
    rfl
  · rw [if_pos (by simp [hm]), if_neg hm]
    rfl

theorem moveImage_eq (s : State) (late : Nat) : moveImage s late =
    if late % 32 ≠ 0 then wr (wr ((s.trd.latched.filter fun p => moves late p.1).foldl (fun u p => wr u (TRD_IN_W p.1) p.2.toNat)
      (imageCleared s late)) (TRD_IN_W 3) (late % 32)) TRD_EVT_P1_LATE 1
    else wr ((s.trd.latched.filter fun p => moves late p.1).foldl (fun u p => wr u (TRD_IN_W p.1) p.2.toNat)
      (imageCleared s late)) (TRD_IN_W 3) (late % 32) := rfl

/-- Word 3 holds the late bits; the words of a source that is not late are those latched, and a late source keeps its own. -/
theorem rd_moveImage (s : State) (late : Nat) {w : Nat} (h : w < 2048) (hl : (s.trd.latched.map (·.1)).Nodup) :
    rd (moveImage s late) (TRD_IN_W w) = if w = 3 then late % 32
      else if moves late w then (tget (fun _ => (0 : Word)) s.trd.latched w).toNat else rd s (TRD_IN_W w) := by
  have hsub : (((s.trd.latched.filter fun p => moves late p.1)).map (·.1)).Nodup := hl.sublist ((List.filter_sublist).map _)
  have himg := rd_latched hsub (imageCleared s late) w
  have hword : rd (moveImage s late) (TRD_IN_W w) = rd (wr ((s.trd.latched.filter fun p => moves late p.1).foldl
      (fun u p => wr u (TRD_IN_W p.1) p.2.toNat) (imageCleared s late)) (TRD_IN_W 3) (late % 32)) (TRD_IN_W w) := by
    rw [moveImage_eq]
    split
    · exact rd_wr_addr _ _ _ _ (by simp only [TRD_IN_W, TRD_EVT_P1_LATE]; omega)
    · rfl
  rw [hword]
  by_cases h3 : w = 3
  · subst h3
    rw [if_pos rfl, rd_wr_same _ _ rfl]
    exact Nat.mod_eq_of_lt (by simp only [TRD_IN_W]; omega)
  · rw [if_neg h3, rd_wr_addr _ _ _ _ (by simp only [TRD_IN_W]; omega), himg, tget_filter, rd_imageCleared s late h]
    by_cases hm : moves late w = true
    · rw [if_pos hm, if_pos hm, if_pos hm]
      rfl
    · rw [if_neg hm, if_neg hm, if_neg hm]
      exact Nat.mod_eq_of_lt (rd_lt s (TRD_IN_W w))

/-! ## The phases (R28, R140, R158, R160) -/

section
variable {s : State}

theorem exec_p2Evaluate (hb : s.rst.busy = false) (hs : tickStale s = false) (h : rd s TRD_STATUS_PHASE = 1) (late : Nat) :
    exec (.p2Evaluate late) s = .next (tickDrop (p1End s late)) := by
  change execP2Evaluate late s = _
  rw [execP2Evaluate, whenAlive_alive _ _ hb]
  dsimp only
  rw [tickDrop_fresh (.inr hs), if_pos h]

theorem exec_p3Commit (hb : s.rst.busy = false) (hs : tickStale s = false) (h : rd s TRD_STATUS_PHASE = 2) :
    exec .p3Commit s = .next (tickDrop (p3Commit s)) := by
  change execP3Commit s = _
  rw [execP3Commit, whenAlive_alive _ _ hb]
  dsimp only
  rw [tickDrop_fresh (.inr hs), if_pos h]

theorem exec_p4Launch (hb : s.rst.busy = false) (hs : tickStale s = false) (h : rd s TRD_STATUS_PHASE = 3) :
    exec .p4Launch s = .next (if (p4Launch s).trd.waiting = [] then p4Launch s
      else runWaiting (toCycle (p4Launch s) (tickEnd (p4Launch s)))) := by
  change execP4Launch s = _
  rw [execP4Launch, whenAlive_alive _ _ hb]
  dsimp only
  rw [tickDrop_fresh (.inr hs), if_pos h]

theorem exec_mailboxWrite (hb : s.rst.busy = false) {a : Nat} (h1 : 0x40054000 ≤ a) (h2 : a < 0x4005C880) (h4 : a % 4 = 0) (ini v : Nat) :
    exec (.mailboxWrite ini a v) s = .next (if phaseNow s = 0 then cpuDo s ini 4 a (some v)
      else if rd s TRD_STATUS_PHASE = 4 then cpuDo (toCycle s (tickEnd s)) ini 4 a (some v)
      else { s with trd := { s.trd with waiting := s.trd.waiting ++ [.cpu ini 4 a (some v)] } }) := by
  have hstore : isTrdStore a = true := by
    simp only [isTrdStore, Bool.and_eq_true, decide_eq_true_iff]
    exact ⟨h1, h2⟩
  change execMailboxWrite ini a v s = _
  rw [execMailboxWrite, whenAlive_alive _ _ hb, if_pos ⟨hstore, h4⟩]
  by_cases hp : phaseNow s = 0
  · rw [if_pos hp, cpuAccess_now (.inr hp) (.inr (.inr (by simp)))]
  · rw [if_neg hp, cpuAccess_storage (by rw [sizeOk_word]; exact decide_eq_true h4) hstore hp]

end

/-! ## A level output at P3 (R158, R267) -/

theorem lineFrame_setLine {n : Nat} {l : List Nat} {s t : State} (x : Line) (h : lineFrame n l s t) : lineFrame n l s (t.setLine n x) := by
  obtain ⟨hp, hc, hl⟩ := h
  refine ⟨partsBut_trans hp (partsBut_mono (partsBut_setLine t n x) (by decide)), fun a ha => ?_, fun m hm => ?_⟩
  · rw [cellAt_setLine, hc a ha]
  · rw [State.line_setLine, if_neg hm, hl m hm]

/-- P3 writes a line's level, and the actions of its cycle act on it. -/
theorem dioDrive_spec (s : State) (n : Nat) (b : Option Bool) :
    ((dioDrive s n b).line n).drive = (if actedNow s (s.line n) = true then (s.line n).acts.foldl (fun v x => actLevel v x.2) b else b) ∧
    ((dioDrive s n b).line n).param = (s.line n).param ∧ lineFrame n [] s (dioDrive s n b) := by
  have hrefl : lineFrame n [] s s := ⟨partsBut_refl _ _, cellsBut_refl _ _, fun _ _ => rfl⟩
  unfold dioDrive
  dsimp only
  split
  · exact ⟨by rw [State.line_setLine, if_pos rfl], by rw [State.line_setLine, if_pos rfl], lineFrame_setLine _ hrefl⟩
  · exact ⟨by rw [State.line_setLine, if_pos rfl], by rw [State.line_setLine, if_pos rfl], lineFrame_setLine _ hrefl⟩

section
variable {s : State} {n : Nat}

/-- The line with the parameter word that P3 gives it. -/
def lineParam (s : State) (n : Nat) (p : Nat) : State := s.setLine n { s.line n with param := p }

theorem line_lineParam (s : State) (n p : Nat) : (lineParam s n p).line n = { s.line n with param := p } := by
  rw [lineParam, State.line_setLine, if_pos rfl]

theorem dioHeeds_lineParam (s : State) (n p : Nat) : dioHeeds (lineParam s n p) n = dioHeeds s n := by
  unfold dioHeeds
  rw [line_lineParam]
  rfl

theorem lineP3_level (img : List (Nat × Word)) (hm : rd s (DIO_CFG_MODE n) = 1) (hs : rd s (DIO_CFG_SRC n) = 0)
    (hh : dioHeeds s n = true) (hb : bindingOf s n = none) : lineP3 img s n =
      dioDrive (lineParam s n (tget (fun _ => (0 : Word)) img (16 + n)).toNat) n
        (some ((tget (fun _ => (0 : Word)) img (n / 32)).getLsbD (n % 32))) := by
  unfold lineP3
  dsimp only
  rw [← lineParam.eq_1]
  generalize (tget (fun _ => (0 : Word)) img (16 + n)).toNat = p
  have hbind : bindingOf (lineParam s n p) n = none := hb
  have hmode : dioMode (lineParam s n p) n = 1 := by
    have h : rd (lineParam s n p) (DIO_CFG_MODE n) = 1 := (rd_setLine _ _ _ _).trans hm
    simp [dioMode, h]
  have hsrc : flag (lineParam s n p) (DIO_CFG_SRC n) = false := flag_false ((rd_setLine _ _ _ _).trans hs)
  have hheeds : dioHeeds (lineParam s n p) n = true := (dioHeeds_lineParam s n p).trans hh
  simp [bindAct, hbind, lineTake, hmode, hsrc, hheeds]

end

theorem lineP3_spec (img : List (Nat × Word)) {s : State} {n : Nat} (hm : rd s (DIO_CFG_MODE n) = 1) (hs : rd s (DIO_CFG_SRC n) = 0)
    (hh : dioHeeds s n = true) (hb : bindingOf s n = none) (b : Bool)
    (hbit : b = (tget (fun _ => (0 : Word)) img (n / 32)).getLsbD (n % 32)) : ∃ t, lineP3 img s n = t ∧
      (t.line n).drive = (if actedNow s (s.line n) = true then (s.line n).acts.foldl (fun v x => actLevel v x.2) (some b) else some b) ∧
      (t.line n).param = (tget (fun _ => (0 : Word)) img (16 + n)).toNat ∧ lineFrame n [] s t := by
  rw [lineP3_level img hm hs hh hb, ← hbit]
  generalize (tget (fun _ => (0 : Word)) img (16 + n)).toNat = p
  obtain ⟨hdrive, hparam, hparts, hcells, hlines⟩ := dioDrive_spec (lineParam s n p) n (some b)
  have hset : lineFrame n [] s (lineParam s n p) := lineFrame_setLine _ ⟨partsBut_refl _ _, cellsBut_refl _ _, fun _ _ => rfl⟩
  rw [line_lineParam] at hdrive hparam
  exact ⟨_, rfl, hdrive, hparam, partsBut_trans hset.1 hparts, cellsBut_trans hset.2.1 hcells,
    fun m hm => (hlines m hm).trans (hset.2.2 m hm)⟩

/-- Settles O29, by the one tick that is taken late or waited for, and by the phase that each command ends. -/
theorem ticksAreTakenAndRun : Obligations.TicksAreTakenAndRun := by
  unfold Obligations.TicksAreTakenAndRun
  refine ⟨?_, isLate_iff, fun s n hb hr => ?_, fun s late w hw hl => rd_moveImage s late hw hl, fun s hb hs => ⟨exec_p2Evaluate hb hs,
    exec_p3Commit hb hs, exec_p4Launch hb hs, fun ini a v h1 h2 h4 => exec_mailboxWrite hb h1 h2 h4 ini v⟩, ?_⟩
  · intro s s1 u x floor n late hb hres hr he hns hphase hfloor htriple hx
    have hs1 : ticksEnded s = s1 := by
      obtain ⟨hp, h⟩ | ⟨hp, -, h⟩ := hphase
      · rw [ticksEnded, if_neg (by omega), h]
      · rw [ticksEnded, if_pos hp, h]
    have hfresh : rd s TRD_STATUS_PHASE = 0 ∨ tickStale s = false := hphase.imp (·.1) (·.2.1)
    have hp : rd s TRD_STATUS_PHASE = 0 ∨ rd s TRD_STATUS_PHASE = 4 := hphase.imp (·.1) (·.1)
    have htake : exec .tickBoundary s = .next (takeTick u n late (s1.trd.last.isSome && decide (floor < n))) := by
      rw [exec_tickBoundary hb, resumeTake_none hres, tickDrop_fresh hfresh,
        tickBoundary_takes hr he hns hp (by rw [hs1]; exact hfloor), hs1]
      split at htriple <;> obtain ⟨rfl, rfl, rfl⟩ : n = _ ∧ u = _ ∧ late = _ := by simpa using htriple
      · rw [if_pos ‹_›]
      · rw [if_neg ‹_›]
    obtain ⟨t, ht, hspec⟩ := takeTick_spec u n late (s1.trd.last.isSome && decide (floor < n))
    rw [← hx] at hspec
    obtain ⟨hlast, hphase, hrunning, htick, hw0, hw2, hw3, hw5, hskip, hlate, hkept⟩ := hspec
    refine ⟨t, by rw [htake, ht], hlast, hphase, hrunning, htick, hw0, hw2, hw3, hw5, fun hl hn => hskip ?_, hlate, hkept⟩
    simp [Option.isSome_iff_ne_none.2 hl, hn]
  · rw [exec_tickBoundary hb, resumeTake_some hr]
  · exact fun s img n _ hm hs hh hb _ => lineP3_spec img hm hs hh hb _ rfl

end Sys2Proof.Machine

/-! SUPPORT. Obligation O16: the registers and the frames of a ring port, what it transmits, and its way up. -/

namespace Sys2Proof.Machine

/-! ## Registers of the ring ports -/

theorem facing_ne (p : Nat) : facing p ≠ p := by
  unfold facing
  split <;> omega

/-- Registers at different offsets in the blocks of ring ports are different registers. -/
theorem portReg_ne {a b p q : Nat} (h : (a % 256).beq (b % 256) = false) : a + 256 * p ≠ b + 256 * q := by
  intro e
  have : a % 256 = b % 256 := by omega
  rw [this, Nat.beq_refl] at h
  cases h

/-- A register of one port is none of another port. -/
theorem portReg_ne_of_ne {a p q : Nat} (h : p ≠ q) : a + 256 * p ≠ a + 256 * q := by omega

/-- A write of one register of a ring port leaves the fields of its other registers. -/
theorem rd_wr_portReg (s : State) {f g : Fld} {a b p q : Nat} (v : Nat) (hf : f.addr = a + 256 * p) (hg : g.addr = b + 256 * q)
    (h : (b % 256).beq (a % 256) = false) : rd (wr s f v) g = rd s g :=
  rd_wr_addr s f g v (by rw [hf, hg]; exact portReg_ne h)

theorem rd_wr_bit (s : State) {f : Fld} (v : Nat) (hf : f.fits = true) (hw : f.w = 1) : rd (wr s f v) f = v % 2 := by
  rw [rd_wr_same s v hf, hw, Nat.pow_one]

theorem rd_wr_half (s : State) {f : Fld} (v : Nat) (hf : f.fits = true) (hw : f.w = 16) : rd (wr s f v) f = v % 65536 := by
  rw [rd_wr_same s v hf, hw]
  rfl

theorem natOf_mod (b : Bool) : natOf b % 2 = natOf b := by cases b <;> rfl

theorem rd_wrB (s : State) {f : Fld} (b : Bool) (hf : f.fits = true) (hw : f.w = 1) : rd (wrB s f b) f = natOf b :=
  (rd_wr_bit s _ hf hw).trans (natOf_mod b)

/-- A one-bit field is the truth value it shows. -/
theorem natOf_flag (s : State) {f : Fld} (hw : f.w = 1) : natOf (flag s f) = rd s f := by
  obtain h | h := rd_bit s hw
  · rw [flag_false h, h]; rfl
  · rw [flag_true h, h]; rfl

theorem rd_of_cellsBut {l : List Nat} {s t : State} (h : cellsBut l s t) (f : Fld) (hf : f.addr ∉ l) : rd t f = rd s f := by
  rw [rd, rd, h _ hf]

theorem rd_of_cellsBut_one {a : Nat} {s t : State} (h : cellsBut [a] s t) {f : Fld} (hf : f.addr ≠ a) : rd t f = rd s f :=
  rd_of_cellsBut h f (List.not_mem_cons_of_ne_of_not_mem hf List.not_mem_nil)

/-! ## Frames of one ring port -/

theorem partsBut_setPort (s : State) (p : Nat) (x : Port) : partsBut [.ports] s (s.setPort p x) := by
  intro q hq
  cases q <;> simp [Part.same] at hq ⊢

theorem partsBut_emit (s : State) (o : Output) : partsBut [.out] s (s.emit o) := by
  intro q hq
  cases q <;> simp [Part.same] at hq ⊢

theorem port_setPort_ne (s : State) {m p : Nat} (x : Port) (h : m ≠ p) : (s.setPort p x).port m = s.port m := by
  rw [State.port_setPort, if_neg h]

theorem portFrame_refl (n : Nat) (l : List Nat) (s : State) : portFrame n l s s :=
  ⟨partsBut_refl _ _, cellsBut_refl _ _, fun _ _ => rfl⟩

theorem portFrame_trans {n : Nat} {l : List Nat} {s t u : State} (h : portFrame n l s t) (g : portFrame n l t u) :
    portFrame n l s u :=
  ⟨partsBut_trans h.1 g.1, cellsBut_trans h.2.1 g.2.1, fun k hk => (g.2.2 k hk).trans (h.2.2 k hk)⟩

theorem portFrame_mono {n : Nat} {l m : List Nat} {s t : State} (h : portFrame n l s t) (hm : ∀ a ∈ l, a ∈ m) : portFrame n m s t :=
  ⟨h.1, cellsBut_mono h.2.1 hm, h.2.2⟩

theorem portFrame_of_regsOnly {n : Nat} {l : List Nat} {s t : State} (h : regsOnly l s t) : portFrame n l s t :=
  ⟨partsBut_mono h.1 (by simp), h.2, fun k _ => State.port_congr k (h.1 .ports (by simp))⟩

theorem portFrame_wr {n : Nat} {l : List Nat} {s t : State} {f : Fld} {v : Nat} (h : portFrame n l s t) (ha : f.addr ∈ l) :
    portFrame n l s (wr t f v) :=
  portFrame_trans h (portFrame_of_regsOnly (regsOnly_mono (regsOnly_wr t f v) (by simpa using ha)))

theorem portFrame_setPort {n : Nat} {l : List Nat} {s t : State} (x : Port) (h : portFrame n l s t) :
    portFrame n l s (t.setPort n x) :=
  portFrame_trans h ⟨partsBut_mono (partsBut_setPort t n x) (by decide), fun a _ => cellAt_setPort t n x a,
    fun _ hm => port_setPort_ne t x hm⟩

/-! ## What a port transmits (R34, R36, R41, R46) -/

section
variable {s : State} {p : Nat}

theorem txOf_dark (h : rd s (WELT_PORT_STAT_STATE p) = 0 ∨ rd s (WELT_PORT_STAT_SFP_MODABS p) = 1) : txOf s p = .dark :=
  if_pos (h.imp id flag_true)

variable (hm : rd s (WELT_PORT_STAT_SFP_MODABS p) = 0)
include hm

theorem txOf_lit (h0 : rd s (WELT_PORT_STAT_STATE p) ≠ 0) : txOf s p =
    if rd s (WELT_PORT_STAT_STATE p) = 4 then .normal else if rd s (WELT_PORT_STAT_STATE p) = 3 then .idle
    else if rd s (WELT_PORT_STAT_STATE p) = 1 ∧ (rd s (WELT_PORT_STAT_STATE (facing p)) = 1 ∨
      (flag s (WELT_PORT_CTRL_HIBER_WRAP p) = true ∧ flag s (WELT_PORT_STAT_HIBER p) = true)) then .rf
    else if rxGood s p = true then .idle else .rf :=
  if_neg (by rw [flag_false hm]; exact fun h => h.elim h0 Bool.false_ne_true)

theorem txOf_receiver (h : rd s (WELT_PORT_STAT_STATE p) = 2 ∨ (rd s (WELT_PORT_STAT_STATE p) = 1 ∧
      rd s (WELT_PORT_STAT_STATE (facing p)) ≠ 1 ∧ rd s (WELT_PORT_CTRL_HIBER_WRAP p) = 0)) :
    txOf s p = if rd s (WELT_PORT_STAT_LOCK p) = 1 ∧ (s.port p).lf = false then .idle else .rf := by
  have hrx : rxGood s p = true ↔ rd s (WELT_PORT_STAT_LOCK p) = 1 ∧ (s.port p).lf = false := by
    rw [rxGood, Bool.and_eq_true, flag_iff s rfl, Bool.not_eq_true']
  rw [txOf_lit hm (by omega), if_neg (by omega), if_neg (by omega), if_neg]
  · simp only [hrx]
  · rintro ⟨h1, hw⟩
    obtain h | ⟨-, hf, hh⟩ := h
    · omega
    · rw [flag_false hh] at hw
      exact hw.elim hf fun g => Bool.false_ne_true g.1

theorem txOf_remoteFault (h : rd s (WELT_PORT_STAT_STATE p) = 1) (hw : rd s (WELT_PORT_STAT_STATE (facing p)) = 1 ∨
    (rd s (WELT_PORT_CTRL_HIBER_WRAP p) = 1 ∧ rd s (WELT_PORT_STAT_HIBER p) = 1)) : txOf s p = .rf := by
  rw [txOf_lit hm (by omega), if_neg (by omega), if_neg (by omega),
    if_pos ⟨h, hw.imp id fun g => ⟨flag_true g.1, flag_true g.2⟩⟩]

end

theorem txOf_cases (s : State) (p st : Nat) (hst : st = rd s (WELT_PORT_STAT_STATE p)) :
    ((st = 0 ∨ rd s (WELT_PORT_STAT_SFP_MODABS p) = 1) → txOf s p = .dark) ∧
    (rd s (WELT_PORT_STAT_SFP_MODABS p) = 0 → (st = 4 → txOf s p = .normal) ∧ (st = 3 → txOf s p = .idle) ∧
      (st = 2 ∨ (st = 1 ∧ rd s (WELT_PORT_STAT_STATE (facing p)) ≠ 1 ∧ rd s (WELT_PORT_CTRL_HIBER_WRAP p) = 0) →
        txOf s p = if rd s (WELT_PORT_STAT_LOCK p) = 1 ∧ (s.port p).lf = false then .idle else .rf) ∧
      (st = 1 → rd s (WELT_PORT_STAT_STATE (facing p)) = 1 ∨ (rd s (WELT_PORT_CTRL_HIBER_WRAP p) = 1 ∧ rd s (WELT_PORT_STAT_HIBER p) = 1) →
        txOf s p = .rf)) := by
  subst hst
  refine ⟨txOf_dark, fun hm => ⟨fun h => ?_, fun h => ?_, txOf_receiver hm, txOf_remoteFault hm⟩⟩
  · rw [txOf_lit hm (by omega), if_pos h]
  · rw [txOf_lit hm (by omega), if_neg (by omega), if_pos h]

/-- What a port transmits depends on its registers, those of the ring's other port, and the local fault it receives. -/
theorem txOf_congr {s t : State} {p : Nat} (hr : t.regs = s.regs) (hl : (t.port p).lf = (s.port p).lf) : txOf t p = txOf s p := by
  have hrd : ∀ f, rd t f = rd s f := fun f => rd_congr f hr
  have hfl : ∀ f, flag t f = flag s f := fun f => flag_congr (hrd f)
  unfold txOf rxGood portState
  simp only [hrd, hfl, hl]

/-! ## Both ports of a ring transmit as their states want -/

section
variable (s : State) (p : Nat)

@[simp] theorem settleTx_regs : (settleTx s p).regs = s.regs := rfl

@[simp] theorem settleTx_clk : (settleTx s p).clk = s.clk := rfl

@[simp] theorem rd_settleTx (f : Fld) : rd (settleTx s p) f = rd s f := rfl

theorem partsBut_settleTx : partsBut [.ports] s (settleTx s p) :=
  partsBut_each _ _ _ s fun u k => partsBut_setPort u k _

theorem port_settleTx (m : Nat) : (settleTx s p).port m =
    if m = p ∨ m = facing p then { s.port m with tx := txOf (settleTx s p) m } else s.port m := by
  have htx : ∀ (q : Nat) x, txOf (s.setPort q { s.port q with tx := x }) (facing p) = txOf s (facing p) := fun q x =>
    txOf_congr rfl (by rw [State.port_setPort]; split <;> simp_all)
  have hport : (settleTx s p).port m =
      if m = facing p then { s.port m with tx := txOf s m } else if m = p then { s.port m with tx := txOf s m } else s.port m := by
    simp only [settleTx, each, List.foldl_cons, List.foldl_nil, State.port_setPort, htx, facing_ne, if_false]
    split <;> simp_all
  have hlf : ((settleTx s p).port m).lf = (s.port m).lf := by
    rw [hport]
    split
    · rfl
    · split <;> rfl
  rw [txOf_congr (settleTx_regs s p) hlf, hport]
  by_cases h1 : m = p <;> by_cases h2 : m = facing p <;> simp [h1, h2]

theorem port_settleTx_self : (settleTx s p).port p = { s.port p with tx := txOf (settleTx s p) p } := by
  rw [port_settleTx, if_pos (.inl rfl)]

end

/-- A port whose own change stays in its frame, and then both ports of the ring settle what they transmit. -/
theorem ringFrame_settleTx {p : Nat} {l : List Nat} {s t : State} (h : portFrame p l s t) : ringFrame p l s (settleTx t p) := by
  obtain ⟨hparts, hcells, hports⟩ := h
  refine ⟨partsBut_trans hparts (partsBut_mono (partsBut_settleTx t p) (by decide)), hcells, fun m h1 h2 => ?_, ?_⟩
  · rw [port_settleTx, if_neg (by tauto), hports m h1]
  · rw [port_settleTx, if_pos (.inr rfl), hports _ (facing_ne p)]

theorem ringFrame_mono {p : Nat} {l m : List Nat} {s t : State} (h : ringFrame p l s t) (hm : ∀ a ∈ l, a ∈ m) : ringFrame p m s t :=
  ⟨h.1, cellsBut_mono h.2.1 hm, h.2.2⟩

/-- Writes of registers before a step of a ring port. -/
theorem ringFrame_after {p : Nat} {l : List Nat} {s t u : State} (h : regsOnly l s t) (g : ringFrame p l t u) : ringFrame p l s u := by
  obtain ⟨hparts, hcells, hports, hfacing⟩ := g
  have hport : ∀ m, t.port m = s.port m := fun m => State.port_congr m (h.1 .ports (by decide))
  refine ⟨partsBut_trans (partsBut_mono h.1 (by simp)) hparts, cellsBut_trans h.2 hcells, fun m h1 h2 => ?_, ?_⟩
  · rw [hports m h1 h2, hport]
  · rw [hfacing, hport]

/-! ## A port takes a state below TRIAL (R36, R48, R52) -/

/-- A port in its new state, with nothing measured, agreed or waiting, as `portTo` leaves it before a wrap. -/
def lowered (s : State) (p st : Nat) : State :=
  let t := unvalid (wr s (WELT_PORT_STAT_STATE p) st) p
  t.setPort p { t.port p with own := none, nbr := none, agreed := none, hold := ftNs t, waiting := [] }

theorem portTo_up {s : State} {p : Nat} (h : rd s (WELT_PORT_STAT_STATE p) = 4) (st : Nat) :
    portTo s p st = settleTx (wrapPort (lowered s p st) p) p :=
  congrArg (settleTx · p) (if_pos (beq_iff_eq.2 h))

theorem portTo_notUp {s : State} {p : Nat} (h : rd s (WELT_PORT_STAT_STATE p) ≠ 4) (st : Nat) :
    portTo s p st = settleTx (lowered s p st) p :=
  congrArg (settleTx · p) (if_neg fun g => h (beq_iff_eq.1 g))

theorem rd_lowered (s : State) (p st : Nat) (f : Fld) :
    rd (lowered s p st) f = rd (wr (wr s (WELT_PORT_STAT_STATE p) st) (WELT_PORT_STAT_LDLY_VALID p) 0) f :=
  (rd_setPort _ _ _ _).trans (rd_setPort _ _ _ _)

theorem rd_lowered_apart (s : State) (p st : Nat) {f : Fld} (h1 : (WELT_PORT_STAT_STATE p).apart f = true)
    (h2 : (WELT_PORT_STAT_LDLY_VALID p).apart f = true) : rd (lowered s p st) f = rd s f := by
  rw [rd_lowered, rd_wr_apart _ _ rfl h2, rd_wr_apart _ _ rfl h1]

theorem lowered_spec (s : State) (p st : Nat) :
    rd (lowered s p st) (WELT_PORT_STAT_STATE p) = st % 8 ∧ rd (lowered s p st) (WELT_PORT_STAT_LDLY_VALID p) = 0 ∧
    ((lowered s p st).port p).own = none ∧ ((lowered s p st).port p).agreed = none ∧ ((lowered s p st).port p).waiting = [] ∧
    ((lowered s p st).port p).hold = ftNs s ∧ portFrame p [(WELT_PORT_STAT_STATE p).addr] s (lowered s p st) := by
  have hframe : portFrame p [(WELT_PORT_STAT_STATE p).addr] s (lowered s p st) :=
    portFrame_setPort _ (portFrame_setPort _ (portFrame_wr (portFrame_wr (portFrame_refl _ _ _) List.mem_cons_self)
      List.mem_cons_self))
  refine ⟨?_, ?_, ?_, ?_, ?_, ?_, hframe⟩
  · rw [rd_lowered, rd_wr_apart _ _ rfl rfl, rd_wr_same _ _ rfl]
    rfl
  · rw [rd_lowered, rd_wr_bit _ _ rfl rfl]
  all_goals rw [lowered, State.port_setPort_self]
  rfl

/-- A port that was not UP takes a state below TRIAL, and its ring settles. -/
theorem portTo_notUp_spec {s : State} {p : Nat} (h : rd s (WELT_PORT_STAT_STATE p) ≠ 4) (st : Nat) :
    rd (portTo s p st) (WELT_PORT_STAT_STATE p) = st % 8 ∧ rd (portTo s p st) (WELT_PORT_STAT_LDLY_VALID p) = 0 ∧
    ((portTo s p st).port p).tx = txOf (portTo s p st) p ∧ ((portTo s p st).port p).hold = ftNs s ∧
    (∀ f, (WELT_PORT_STAT_STATE p).apart f = true → (WELT_PORT_STAT_LDLY_VALID p).apart f = true → rd (portTo s p st) f = rd s f) ∧
    ringFrame p [(WELT_PORT_STAT_STATE p).addr] s (portTo s p st) := by
  obtain ⟨hst, hval, -, -, -, hhold, hframe⟩ := lowered_spec s p st
  rw [portTo_notUp h, port_settleTx_self]
  simp only [rd_settleTx]
  exact ⟨hst, hval, True.intro, hhold, fun f h1 h2 => rd_lowered_apart s p st h1 h2, ringFrame_settleTx hframe⟩

/-! ## A condition of the receiver has changed (R36, R41) -/

/-- In SYNC the hold starts again, and the ring settles what it transmits. -/
theorem rxChanged_spec {l : List Nat} {s t : State} {p : Nat} (h : portFrame p l s t) :
    (∀ f, rd (rxChanged t p) f = rd t f) ∧ ((rxChanged t p).port p).lf = (t.port p).lf ∧
    (rd t (WELT_PORT_STAT_STATE p) = 2 → ((rxChanged t p).port p).hold = ftNs s) ∧
    ((rxChanged t p).port p).tx = txOf (rxChanged t p) p ∧ ringFrame p l s (rxChanged t p) := by
  have hft : ftNs t = ftNs s := congrArg (fun c : Clk => c.ft.toNat / 2 ^ 48) (h.1 .clk (by decide))
  unfold rxChanged holdAgain
  split
  · refine ⟨fun f => (rd_settleTx _ p f).trans (rd_setPort t p _ f), ?_, fun _ => ?_, ?_, ringFrame_settleTx (portFrame_setPort _ h)⟩
    all_goals rw [port_settleTx_self, State.port_setPort_self]
    exact hft
  · next hn =>
    refine ⟨rd_settleTx t p, ?_, fun hs => absurd hs hn, ?_, ringFrame_settleTx h⟩
    all_goals rw [port_settleTx_self]

/-- One bit of the receiver's status changes. -/
theorem rxChanged_wr (s : State) (p v : Nat) {f : Fld} (hf : f.fits = true) (hw : f.w = 1) (hs : f.apart (WELT_PORT_STAT_STATE p) = true)
    (ha : f.addr = (WELT_PORT_STAT_STATE p).addr) : rd (rxChanged (wr s f v) p) f = v % 2 ∧
    rd (rxChanged (wr s f v) p) (WELT_PORT_STAT_STATE p) = rd s (WELT_PORT_STAT_STATE p) ∧
    (rd s (WELT_PORT_STAT_STATE p) = 2 → ((rxChanged (wr s f v) p).port p).hold = ftNs s) ∧
    ((rxChanged (wr s f v) p).port p).tx = txOf (rxChanged (wr s f v) p) p ∧
    ringFrame p [(WELT_PORT_STAT_STATE p).addr] s (rxChanged (wr s f v) p) := by
  have hst := rd_wr_apart s v hf hs
  obtain ⟨hrd, -, hhold, htx, hring⟩ := rxChanged_spec (p := p) (portFrame_of_regsOnly (ha ▸ regsOnly_wr s f v))
  exact ⟨(hrd f).trans (rd_wr_bit s v hf hw), (hrd _).trans hst, fun h => hhold (hst.trans h), htx, hring⟩

/-! ## The commands of a port on its way up (R34, R36, R41) -/

section
variable {s : State} {p : Nat} (hp : p < 4) (hr : ¬(s.rst.busy = true ∧ s.rst.full = true))
include hp hr

theorem ringAlive_on (f : State → State) : ringAlive s p f = f s :=
  if_neg fun h => h.elim (Nat.not_le.2 hp) hr

theorem exec_pmaSignalDetect : exec (.pmaSignalDetect p) s = .next
    (if rd s (WELT_PORT_STAT_STATE p) = 1 ∧ (!flag s (WELT_PORT_STAT_SFP_MODABS p)) = true then
      portTo (wr s (WELT_PORT_STAT_SIG_DET p) 1) p 2 else wr s (WELT_PORT_STAT_SIG_DET p) 1) :=
  congrArg Host.Outcome.next (ringAlive_on hp hr _)

theorem exec_lockAcquired {t : State} (ht : t = wr s (WELT_PORT_STAT_LOCK p) 1) :
    exec (.lockAcquired p) s = .next (rxChanged (t.setPort p { t.port p with lf := false }) p) := by
  subst ht
  exact congrArg Host.Outcome.next (ringAlive_on hp hr _)

theorem exec_lockLostInSync (h : rd s (WELT_PORT_STAT_STATE p) = 2) (kind : Nat) : exec (.lockLostInSync p kind) s = .next
    (if kind = 2 then rxChanged (wr s (WELT_PORT_STAT_RF_RX p) 1) p
    else if kind = 1 then rxChanged (s.setPort p { s.port p with lf := true }) p
    else rxChanged (wr s (WELT_PORT_STAT_LOCK p) 0) p) :=
  congrArg Host.Outcome.next ((ringAlive_on hp hr _).trans (if_neg fun g => g h))

theorem exec_syncHoldExpiry : exec (.syncHoldExpiry p) s = .next (if syncGood s p = true then
    settleTx (wr (advanceTo s ((s.port p).hold + 1000000)) (WELT_PORT_STAT_STATE p) 3) p else s) :=
  congrArg Host.Outcome.next (ringAlive_on hp hr _)

theorem exec_signalDetectLost (h : rd s (WELT_PORT_STAT_STATE p) = 2) : exec (.signalDetectLost p) s = .next
    (portTo (wrs s [(WELT_PORT_STAT_SIG_DET p, 0), (WELT_PORT_STAT_LOCK p, 0)]) p 1) :=
  congrArg Host.Outcome.next ((ringAlive_on hp hr _).trans (if_pos h))

/-- Before ST14 after a full reset ENABLE is written too, and a port that is enabled and not forced dark may run. -/
theorem exec_txdisForce (hb : s.rst.busy = false) (hs : rd s SYS_STEP_STEP < 14) (hf : s.rst.fromFull = true) :
    exec (.txdisForce p true false) s = .next
      (portCtrl (wrB (wrB s (WELT_PORT_CTRL_TXDIS_FORCE p) false) (WELT_PORT_CTRL_ENABLE p) true) p) :=
  congrArg Host.Outcome.next ((whenAlive_alive s _ hb).trans ((ringAlive_on hp hr _).trans
    (congrArg (portCtrl · p) (if_pos ⟨hs, hf⟩))))

end

/-- A DISABLED port runs where it is enabled, not forced dark, with its module, set going by ST09, and no loopback test failed. -/
theorem portRun_runs {s : State} {p : Nat} (h0 : rd s (WELT_PORT_STAT_STATE p) = 0) (he : rd s (WELT_PORT_CTRL_ENABLE p) = 1)
    (hf : rd s (WELT_PORT_CTRL_TXDIS_FORCE p) = 0) (hm : rd s (WELT_PORT_STAT_SFP_MODABS p) = 0) (h9 : (s.port p).st09 = true)
    (hl : (s.port p).lbkFail = false) : portRun s p = portTo s p 1 :=
  if_pos ⟨h0, flag_true he, by simp [flag_false hf], by simp [flag_false hm], h9, by simp [hl]⟩

theorem portCtrl_runs {s : State} {p : Nat} (he : rd s (WELT_PORT_CTRL_ENABLE p) = 1) (hf : rd s (WELT_PORT_CTRL_TXDIS_FORCE p) = 0) :
    portCtrl s p = portRun s p :=
  if_neg (by simp [flag_true he, flag_false hf])

theorem syncGood_iff (s : State) (p : Nat) : syncGood s p = true ↔ rd s (WELT_PORT_STAT_STATE p) = 2 ∧
    rd s (WELT_PORT_STAT_LOCK p) = 1 ∧ (s.port p).lf = false ∧ rd s (WELT_PORT_STAT_HIBER p) = 0 ∧ rd s (WELT_PORT_STAT_RF_RX p) = 0 := by
  have hoff : ∀ f : Fld, (!flag s f) = true ↔ rd s f = 0 := fun f => by simp [flag]
  simp only [syncGood, rxGood, portState, pSync, Bool.and_eq_true, beq_iff_eq, flag_iff s (f := WELT_PORT_STAT_LOCK p) rfl, hoff,
    Bool.not_eq_true', and_assoc]

/-! ## The clauses of the way up -/

section
variable {s : State} {p : Nat} (hp : p < 4) (hr : ¬(s.rst.busy = true ∧ s.rst.full = true))
include hp hr

theorem txdisForce_runs (hb : s.rst.busy = false) (hs : rd s SYS_STEP_STEP < 14) (hf : s.rst.fromFull = true)
    (h0 : rd s (WELT_PORT_STAT_STATE p) = 0) (hm : rd s (WELT_PORT_STAT_SFP_MODABS p) = 0) (h9 : (s.port p).st09 = true)
    (hl : (s.port p).lbkFail = false) : ∃ t, exec (.txdisForce p true false) s = .next t ∧ rd t (WELT_PORT_STAT_STATE p) = 1 ∧
      (t.port p).tx = txOf t p ∧ rd t (WELT_PORT_CTRL_ENABLE p) = 1 ∧ rd t (WELT_PORT_CTRL_TXDIS_FORCE p) = 0 ∧
      ringFrame p [(WELT_PORT_CTRL_ENABLE p).addr, (WELT_PORT_STAT_STATE p).addr] s t := by
  obtain ⟨u, hu⟩ : ∃ u, u = wrB (wrB s (WELT_PORT_CTRL_TXDIS_FORCE p) false) (WELT_PORT_CTRL_ENABLE p) true := ⟨_, rfl⟩
  have hen : rd u (WELT_PORT_CTRL_ENABLE p) = 1 := by rw [hu, rd_wrB _ _ rfl rfl]; rfl
  have htx : rd u (WELT_PORT_CTRL_TXDIS_FORCE p) = 0 := by rw [hu, wrB, rd_wr_apart _ _ rfl rfl, rd_wrB _ _ rfl rfl]; rfl
  have hregs : regsOnly [(WELT_PORT_CTRL_ENABLE p).addr] s u := by
    rw [hu, wrB, wrB]
    exact regsOnly_trans (regsOnly_wr s (WELT_PORT_CTRL_TXDIS_FORCE p) _) (regsOnly_wr _ (WELT_PORT_CTRL_ENABLE p) _)
  have hstat : ∀ f, f.addr = (WELT_PORT_STAT_STATE p).addr → rd u f = rd s f := fun f hf =>
    rd_of_cellsBut_one hregs.2 (hf ▸ portReg_ne rfl)
  have hst : rd u (WELT_PORT_STAT_STATE p) = 0 := (hstat (WELT_PORT_STAT_STATE p) rfl).trans h0
  have hmod : rd u (WELT_PORT_STAT_SFP_MODABS p) = 0 := (hstat (WELT_PORT_STAT_SFP_MODABS p) rfl).trans hm
  have hport : u.port p = s.port p := State.port_congr p (hregs.1 .ports (by decide))
  have hrun : portCtrl u p = portTo u p 1 := by
    rw [portCtrl_runs hen htx, portRun_runs hst hen htx hmod (hport ▸ h9) (hport ▸ hl)]
  obtain ⟨hstate, -, hsettled, -, -, hring⟩ := portTo_notUp_spec (s := u) (p := p) (by omega) 1
  have hctrl : ∀ f, f.addr = (WELT_PORT_CTRL_ENABLE p).addr → rd (portTo u p 1) f = rd u f := fun f hf =>
    rd_of_cellsBut_one hring.2.1 (hf ▸ portReg_ne rfl)
  refine ⟨portTo u p 1, ?_, hstate, hsettled, (hctrl (WELT_PORT_CTRL_ENABLE p) rfl).trans hen, (hctrl (WELT_PORT_CTRL_TXDIS_FORCE p) rfl).trans htx, ?_⟩
  · rw [exec_txdisForce hp hr hb hs hf, ← hu, hrun]
  · exact ringFrame_after (regsOnly_mono hregs (by simp)) (ringFrame_mono hring (by simp))

/-- Signal takes a port in DOWN with its module present to SYNC (R36, R52). -/
theorem signalDetect_down (h : rd s (WELT_PORT_STAT_STATE p) = 1) (hm : rd s (WELT_PORT_STAT_SFP_MODABS p) = 0) :
    ∃ t, exec (.pmaSignalDetect p) s = .next t ∧ rd t (WELT_PORT_STAT_STATE p) = 2 ∧ rd t (WELT_PORT_STAT_SIG_DET p) = 1 ∧
      rd t (WELT_PORT_STAT_LDLY_VALID p) = 0 ∧ (t.port p).tx = txOf t p ∧ (t.port p).hold = ftNs s ∧
      ringFrame p [(WELT_PORT_STAT_STATE p).addr] s t := by
  have hst : rd (wr s (WELT_PORT_STAT_SIG_DET p) 1) (WELT_PORT_STAT_STATE p) = 1 := (rd_wr_apart _ _ rfl rfl).trans h
  obtain ⟨hstate, hval, htx, hhold, hkeep, hring⟩ := portTo_notUp_spec (hst.trans_ne (by decide)) 2
  refine ⟨_, ?_, hstate, (hkeep _ rfl rfl).trans (rd_wr_bit s 1 rfl rfl), hval, htx, hhold,
    ringFrame_after (regsOnly_wr s (WELT_PORT_STAT_SIG_DET p) 1) hring⟩
  rw [exec_pmaSignalDetect hp hr, if_pos ⟨h, by simp [flag_false hm]⟩]

/-- Signal at a port in any other state, or without its module, shows in SIG_DET alone. -/
theorem signalDetect_elsewhere (h : rd s (WELT_PORT_STAT_STATE p) ≠ 1 ∨ rd s (WELT_PORT_STAT_SFP_MODABS p) = 1) :
    ∃ t, exec (.pmaSignalDetect p) s = .next t ∧ rd t (WELT_PORT_STAT_SIG_DET p) = 1 ∧
      rd t (WELT_PORT_STAT_STATE p) = rd s (WELT_PORT_STAT_STATE p) ∧ regsOnly [(WELT_PORT_STAT_STATE p).addr] s t := by
  refine ⟨wr s (WELT_PORT_STAT_SIG_DET p) 1, ?_, rd_wr_bit s 1 rfl rfl, rd_wr_apart _ _ rfl rfl,
    regsOnly_wr s (WELT_PORT_STAT_SIG_DET p) 1⟩
  rw [exec_pmaSignalDetect hp hr, if_neg]
  rintro ⟨h1, hm⟩
  exact h.elim (fun g => g h1) fun g => by simp [flag_true g] at hm

theorem lockAcquired_spec : ∃ t, exec (.lockAcquired p) s = .next t ∧ rd t (WELT_PORT_STAT_LOCK p) = 1 ∧ (t.port p).lf = false ∧
    rd t (WELT_PORT_STAT_STATE p) = rd s (WELT_PORT_STAT_STATE p) ∧ (rd s (WELT_PORT_STAT_STATE p) = 2 → (t.port p).hold = ftNs s) ∧
    (t.port p).tx = txOf t p ∧ ringFrame p [(WELT_PORT_STAT_LOCK p).addr] s t := by
  obtain ⟨u, hu⟩ : ∃ u, u = wr s (WELT_PORT_STAT_LOCK p) 1 := ⟨_, rfl⟩
  have hst : rd u (WELT_PORT_STAT_STATE p) = rd s (WELT_PORT_STAT_STATE p) := by rw [hu, rd_wr_apart _ _ rfl rfl]
  have hlock : rd u (WELT_PORT_STAT_LOCK p) = 1 := by rw [hu, rd_wr_bit _ _ rfl rfl]
  have hframe : portFrame p [(WELT_PORT_STAT_LOCK p).addr] s u := by
    rw [hu]; exact portFrame_of_regsOnly (regsOnly_wr s (WELT_PORT_STAT_LOCK p) 1)
  obtain ⟨hrd, hlf, hhold, htx, hring⟩ := rxChanged_spec (portFrame_setPort { u.port p with lf := false } hframe)
  simp only [rd_setPort] at hrd hhold
  refine ⟨_, exec_lockAcquired hp hr hu, (hrd _).trans hlock, ?_, (hrd _).trans hst, fun h => hhold (hst.trans h), htx, hring⟩
  rw [hlf, State.port_setPort_self]

/-- In SYNC each loss of lock, local fault and remote fault (kind 0, 1, 2) shows, and starts the hold again. -/
theorem lockLostInSync_spec (h : rd s (WELT_PORT_STAT_STATE p) = 2) {kind : Nat} (hk : kind < 3) : ∃ t,
    exec (.lockLostInSync p kind) s = .next t ∧
    (kind = 0 → rd t (WELT_PORT_STAT_LOCK p) = 0) ∧ (kind = 1 → (t.port p).lf = true) ∧ (kind = 2 → rd t (WELT_PORT_STAT_RF_RX p) = 1) ∧
    rd t (WELT_PORT_STAT_STATE p) = 2 ∧ (t.port p).hold = ftNs s ∧ (t.port p).tx = txOf t p ∧
    ringFrame p [(WELT_PORT_STAT_LOCK p).addr] s t := by
  obtain rfl | rfl | rfl : kind = 0 ∨ kind = 1 ∨ kind = 2 := by omega
  · obtain ⟨hlock, hst, hhold, htx, hring⟩ := rxChanged_wr s p 0 (f := WELT_PORT_STAT_LOCK p) rfl rfl rfl rfl
    exact ⟨_, exec_lockLostInSync hp hr h 0, fun _ => hlock, nofun, nofun, hst.trans h, hhold h, htx, hring⟩
  · obtain ⟨hrd, hlf, hhold, htx, hring⟩ := rxChanged_spec
      (portFrame_setPort (n := p) (l := [(WELT_PORT_STAT_LOCK p).addr]) { s.port p with lf := true } (portFrame_refl _ _ s))
    have hst := (rd_setPort s p { s.port p with lf := true } (WELT_PORT_STAT_STATE p)).trans h
    refine ⟨_, exec_lockLostInSync hp hr h 1, nofun, fun _ => hlf.trans ?_, nofun, (hrd _).trans hst, hhold hst, htx, hring⟩
    rw [State.port_setPort_self]
  · obtain ⟨hrf, hst, hhold, htx, hring⟩ := rxChanged_wr s p 1 (f := WELT_PORT_STAT_RF_RX p) rfl rfl rfl rfl
    exact ⟨_, exec_lockLostInSync hp hr h 2, nofun, nofun, fun _ => hrf, hst.trans h, hhold h, htx, hring⟩

/-- A hold that has passed with lock, no hi_ber and no fault takes the port to TRIAL. -/
theorem syncHoldExpiry_trial (h : syncGood s p = true) : ∃ t, exec (.syncHoldExpiry p) s = .next t ∧
    rd t (WELT_PORT_STAT_STATE p) = 3 ∧ (t.port p).tx = txOf t p ∧ t.clk = (advanceTo s ((s.port p).hold + 1000000)).clk ∧
    partsBut [.regs, .ports, .clk] s t ∧ cellsBut [(WELT_PORT_STAT_STATE p).addr] s t := by
  obtain ⟨u, hu⟩ : ∃ u, u = advanceTo s ((s.port p).hold + 1000000) := ⟨_, rfl⟩
  have hcells : cellsBut [(WELT_PORT_STAT_STATE p).addr] s u := fun a _ => by rw [hu]; exact cellAt_congr a (by simp)
  have hparts : partsBut [.clk] s u := by rw [hu]; exact partsBut_advanceTo _ _
  obtain ⟨hp1, hc1⟩ := regsOnly_wr u (WELT_PORT_STAT_STATE p) 3
  refine ⟨settleTx (wr u (WELT_PORT_STAT_STATE p) 3) p, ?_, rd_wr_same u 3 rfl, ?_, ?_, ?_, cellsBut_trans hcells hc1⟩
  · rw [exec_syncHoldExpiry hp hr, if_pos h, hu]
  · rw [port_settleTx_self]
  · rw [settleTx_clk, wr_clk, hu]
  · exact partsBut_trans (partsBut_mono hparts (by decide)) (partsBut_trans (partsBut_mono hp1 (by decide))
      (partsBut_mono (partsBut_settleTx _ p) (by decide)))

end

/-- A port in SYNC whose signal is lost goes DOWN with nothing declared. -/
theorem sync_signalLost {s u : State} {p : Nat} (hu : u = wrs s [(WELT_PORT_STAT_SIG_DET p, 0), (WELT_PORT_STAT_LOCK p, 0)])
    (h : rd s (WELT_PORT_STAT_STATE p) = 2) :
    rd (portTo u p 1) (WELT_PORT_STAT_STATE p) = 1 ∧ rd (portTo u p 1) (WELT_PORT_STAT_SIG_DET p) = 0 ∧
    rd (portTo u p 1) (WELT_PORT_STAT_LOCK p) = 0 ∧ rd (portTo u p 1) (WELT_PORT_STAT_LDLY_VALID p) = 0 ∧
    ((portTo u p 1).port p).tx = txOf (portTo u p 1) p ∧ ringFrame p [(WELT_PORT_STAT_STATE p).addr] s (portTo u p 1) := by
  simp only [wrs_cons, wrs_nil] at hu
  have hst : rd u (WELT_PORT_STAT_STATE p) = 2 := by rw [hu, rd_wr_apart _ _ rfl rfl, rd_wr_apart _ _ rfl rfl, h]
  have hsig : rd u (WELT_PORT_STAT_SIG_DET p) = 0 := by rw [hu, rd_wr_apart _ _ rfl rfl, rd_wr_bit _ _ rfl rfl]
  have hlock : rd u (WELT_PORT_STAT_LOCK p) = 0 := by rw [hu, rd_wr_bit _ _ rfl rfl]
  have hregs : regsOnly [(WELT_PORT_STAT_STATE p).addr] s u := by
    rw [hu]
    exact regsOnly_trans (regsOnly_wr s (WELT_PORT_STAT_SIG_DET p) 0) (regsOnly_wr _ (WELT_PORT_STAT_LOCK p) 0)
  obtain ⟨hstate, hval, htx, -, hkeep, hring⟩ := portTo_notUp_spec (hst.trans_ne (by decide)) 1
  exact ⟨hstate, (hkeep _ rfl rfl).trans hsig, (hkeep _ rfl rfl).trans hlock, hval, htx, ringFrame_after hregs hring⟩

/-- Settles O16: each command of a port on its way up is one change of its receiver (`rxChanged_spec`) or of its state
(`portTo_notUp_spec`). -/
theorem portClimbsToTrial : Obligations.PortClimbsToTrial := by
  unfold Obligations.PortClimbsToTrial
  intro p s hp hr
  refine ⟨txOf_cases s p, txdisForce_runs hp hr, signalDetect_down hp hr, signalDetect_elsewhere hp hr, lockAcquired_spec hp hr,
    fun h kind hk => lockLostInSync_spec hp hr h hk, fun good hgood => ?_, fun h => ?_⟩
  · rw [← syncGood_iff] at hgood
    refine ⟨fun hn => ?_, fun hg => syncHoldExpiry_trial hp hr (hgood.1 hg)⟩
    rw [exec_syncHoldExpiry hp hr, if_neg fun h => hn (hgood.2 h)]
  · exact ⟨_, exec_signalDetectLost hp hr h, sync_signalLost rfl h⟩

end Sys2Proof.Machine

/-! SUPPORT. Obligation O17: a ring port on its way down, and the wrap of its ring. -/

namespace Sys2Proof.Machine

/-! ## What a port declares (R40 to R42) -/

/-- The receiver has lost its signal, its lock, or receives a local fault (kind 0, 1, 2). -/
def receiverLost (s : State) (p kind : Nat) : State :=
  if kind = 0 then wrs s [(WELT_PORT_STAT_SIG_DET p, 0), (WELT_PORT_STAT_LOCK p, 0)]
  else if kind = 1 then wr s (WELT_PORT_STAT_LOCK p) 0 else s.setPort p { s.port p with lf := true }

theorem receiverLost_spec (s : State) (p : Nat) {kind : Nat} (hk : kind < 3) :
    (kind < 2 → rd (receiverLost s p kind) (WELT_PORT_STAT_LOCK p) = 0) ∧
    (kind = 0 → rd (receiverLost s p kind) (WELT_PORT_STAT_SIG_DET p) = 0) ∧
    (kind = 2 → ((receiverLost s p kind).port p).lf = true) ∧
    portFrame p [(WELT_PORT_STAT_STATE p).addr] s (receiverLost s p kind) := by
  obtain rfl | rfl | rfl : kind = 0 ∨ kind = 1 ∨ kind = 2 := by omega
  · have h : receiverLost s p 0 = wr (wr s (WELT_PORT_STAT_SIG_DET p) 0) (WELT_PORT_STAT_LOCK p) 0 := rfl
    rw [h]
    refine ⟨fun _ => rd_wr_bit _ 0 rfl rfl, fun _ => ?_, nofun, portFrame_of_regsOnly
      (regsOnly_trans (regsOnly_wr s (WELT_PORT_STAT_SIG_DET p) 0) (regsOnly_wr _ (WELT_PORT_STAT_LOCK p) 0))⟩
    rw [rd_wr_apart _ _ rfl rfl, rd_wr_bit _ _ rfl rfl]
  · have h : receiverLost s p 1 = wr s (WELT_PORT_STAT_LOCK p) 0 := rfl
    rw [h]
    exact ⟨fun _ => rd_wr_bit s 0 rfl rfl, nofun, nofun, portFrame_of_regsOnly (regsOnly_wr s (WELT_PORT_STAT_LOCK p) 0)⟩
  · have h : receiverLost s p 2 = s.setPort p { s.port p with lf := true } := rfl
    rw [h]
    exact ⟨fun g => absurd g (by decide), nofun, fun _ => by rw [State.port_setPort_self], portFrame_setPort _ (portFrame_refl _ _ _)⟩

section
variable {s : State} {p : Nat} (hp : p < 4) (hr : ¬(s.rst.busy = true ∧ s.rst.full = true))
include hp hr

theorem exec_lossOfSignal (kind : Nat) : exec (.lossOfSignal p kind) s = .next
    (if rd s (WELT_PORT_STAT_STATE p) = 3 ∨ rd s (WELT_PORT_STAT_STATE p) = 4 then
      portTo (raise (wr (receiverLost s p kind) (WELT_PORT_EVT_LOS p) 1) (8 + p) 1) p 1
    else if rd s (WELT_PORT_STAT_STATE p) = 2 ∧ kind = 0 then portTo (receiverLost s p kind) p 1
    else rxChanged (receiverLost s p kind) p) :=
  congrArg Host.Outcome.next (ringAlive_on hp hr _)

theorem exec_remoteFault (on : Bool) : exec (.remoteFault p on) s = .next
    (if on = true ∧ (rd s (WELT_PORT_STAT_STATE p) = 3 ∨ rd s (WELT_PORT_STAT_STATE p) = 4) then
      portTo (raise (wrs s [(WELT_PORT_EVT_RF p, 1), (WELT_PORT_STAT_RF_RX p, 1)]) (8 + p) 2) p 1
    else rxChanged (wrB s (WELT_PORT_STAT_RF_RX p) on) p) :=
  congrArg Host.Outcome.next (ringAlive_on hp hr _)

theorem exec_hiBer_declared (h : rd s (WELT_PORT_STAT_STATE p) = 3 ∨ rd s (WELT_PORT_STAT_STATE p) = 4) {t u : State}
    (ht : t = wrB s (WELT_PORT_STAT_HIBER p) true) (hu : u = raise (wr t (WELT_PORT_EVT_HIBER p) 1) 13 (hiberMask t)) :
    exec (.hiBer p true) s = .next (if flag s (WELT_PORT_CTRL_HIBER_WRAP p) = true then
      portTo (raise (wr u (WELT_PORT_EVT_LOS p) 1) (8 + p) 1) p 1 else u) := by
  subst hu ht
  exact congrArg Host.Outcome.next ((ringAlive_on hp hr _).trans (if_pos ⟨rfl, h⟩))

/-- In TRIAL and UP a loss of signal, of lock, or a local fault is declared (R40, R41). -/
theorem lossOfSignal_declared (h : rd s (WELT_PORT_STAT_STATE p) = 3 ∨ rd s (WELT_PORT_STAT_STATE p) = 4) {kind : Nat} (hk : kind < 3) :
    ∃ t, exec (.lossOfSignal p kind) s = .next (portTo (raise t (8 + p) 1) p 1) ∧
      rd t (WELT_PORT_EVT_LOS p) = 1 ∧ (kind < 2 → rd t (WELT_PORT_STAT_LOCK p) = 0) ∧
      (kind = 0 → rd t (WELT_PORT_STAT_SIG_DET p) = 0) ∧ (kind = 2 → (t.port p).lf = true) ∧
      portFrame p [(WELT_PORT_STAT_STATE p).addr, (WELT_PORT_EVT_LOS p).addr] s t := by
  obtain ⟨hlock, hsig, hlf, hframe⟩ := receiverLost_spec s p hk
  refine ⟨_, (exec_lossOfSignal hp hr kind).trans (congrArg Host.Outcome.next (if_pos h)), rd_wr_bit _ 1 rfl rfl,
    fun g => (rd_wr_apart _ _ rfl rfl).trans (hlock g), fun g => (rd_wr_apart _ _ rfl rfl).trans (hsig g), hlf,
    portFrame_wr (portFrame_mono hframe (by simp)) (by simp)⟩

/-- In TRIAL and UP a remote fault is declared (R40, R41). -/
theorem remoteFault_declared (h : rd s (WELT_PORT_STAT_STATE p) = 3 ∨ rd s (WELT_PORT_STAT_STATE p) = 4) :
    ∃ t, exec (.remoteFault p true) s = .next (portTo (raise t (8 + p) 2) p 1) ∧
      rd t (WELT_PORT_EVT_RF p) = 1 ∧ rd t (WELT_PORT_STAT_RF_RX p) = 1 ∧
      regsOnly [(WELT_PORT_STAT_STATE p).addr, (WELT_PORT_EVT_RF p).addr] s t := by
  refine ⟨_, (exec_remoteFault hp hr true).trans (congrArg Host.Outcome.next (if_pos ⟨rfl, h⟩)), ?_, ?_, ?_⟩
  all_goals simp only [wrs_cons, wrs_nil]
  · rw [rd_wr_apart _ _ rfl rfl, rd_wr_bit _ _ rfl rfl]
  · rw [rd_wr_bit _ _ rfl rfl]
  · exact regsOnly_trans (regsOnly_mono (regsOnly_wr s (WELT_PORT_EVT_RF p) 1) (by simp))
      (regsOnly_mono (regsOnly_wr _ (WELT_PORT_STAT_RF_RX p) 1) fun a ha => List.mem_cons.2 (.inl (List.mem_singleton.1 ha)))

end

/-- The ports with HIBER are those whose status says so, whatever an event register holds. -/
theorem hiberMask_wr_evt (s : State) (p v : Nat) : hiberMask (wr s (WELT_PORT_EVT_HIBER p) v) = hiberMask s :=
  congrArg (maskOf 4) (funext fun _ => flag_congr (rd_wr_portReg s v rfl rfl rfl))

section
variable {s : State} {p : Nat} (hp : p < 4) (hr : ¬(s.rst.busy = true ∧ s.rst.full = true))
include hp hr

/-- In TRIAL and UP hi_ber is raised, and with HIBER_WRAP is a loss of signal too (R42). -/
theorem hiBer_declared (h : rd s (WELT_PORT_STAT_STATE p) = 3 ∨ rd s (WELT_PORT_STAT_STATE p) = 4) :
    ∃ t, rd t (WELT_PORT_EVT_HIBER p) = 1 ∧ rd t (WELT_PORT_STAT_HIBER p) = 1 ∧
      regsOnly [(WELT_PORT_STAT_STATE p).addr, (WELT_PORT_EVT_HIBER p).addr] s t ∧
      if rd s (WELT_PORT_CTRL_HIBER_WRAP p) = 0 then exec (.hiBer p true) s = .next (raise t 13 (hiberMask t))
      else exec (.hiBer p true) s = .next (portTo (raise (wr (raise t 13 (hiberMask t)) (WELT_PORT_EVT_LOS p) 1) (8 + p) 1) p 1) := by
  obtain ⟨x, hx⟩ : ∃ x, x = wrB s (WELT_PORT_STAT_HIBER p) true := ⟨_, rfl⟩
  have hx1 : rd x (WELT_PORT_STAT_HIBER p) = 1 := by rw [hx, rd_wrB _ _ rfl rfl]; rfl
  have hxr : regsOnly [(WELT_PORT_STAT_STATE p).addr] s x := by rw [hx]; exact regsOnly_wr s (WELT_PORT_STAT_HIBER p) 1
  refine ⟨wr x (WELT_PORT_EVT_HIBER p) 1, rd_wr_bit _ _ rfl rfl, (rd_wr_apart _ _ rfl rfl).trans hx1,
    regsOnly_trans (regsOnly_mono hxr (by simp)) (regsOnly_mono (regsOnly_wr x (WELT_PORT_EVT_HIBER p) 1) (by simp)), ?_⟩
  rw [hiberMask_wr_evt]
  have hexec := exec_hiBer_declared hp hr h hx rfl
  split
  · next hw => rw [hexec, flag_false hw]; rfl
  · next hw => rw [hexec, if_pos (by simpa [flag] using hw)]

/-- In DOWN and SYNC a loss of lock shows in the status alone, and in SYNC starts the hold again. -/
theorem lossOfLock_below (h : rd s (WELT_PORT_STAT_STATE p) = 1 ∨ rd s (WELT_PORT_STAT_STATE p) = 2) :
    ∃ t, exec (.lossOfSignal p 1) s = .next t ∧ rd t (WELT_PORT_STAT_LOCK p) = 0 ∧
      rd t (WELT_PORT_STAT_STATE p) = rd s (WELT_PORT_STAT_STATE p) ∧ (rd s (WELT_PORT_STAT_STATE p) = 2 → (t.port p).hold = ftNs s) ∧
      (t.port p).tx = txOf t p ∧ ringFrame p [(WELT_PORT_STAT_STATE p).addr] s t := by
  refine ⟨_, ?_, rxChanged_wr s p 0 (f := WELT_PORT_STAT_LOCK p) rfl rfl rfl rfl⟩
  rw [exec_lossOfSignal hp hr, if_neg (by omega), if_neg (by omega)]
  rfl

/-- Remote fault below TRIAL, and its end in every state, show in the status alone. -/
theorem remoteFault_shown {on : Bool}
    (h : on = true → rd s (WELT_PORT_STAT_STATE p) = 1 ∨ rd s (WELT_PORT_STAT_STATE p) = 2) :
    ∃ t, exec (.remoteFault p on) s = .next t ∧ rd t (WELT_PORT_STAT_RF_RX p) = natOf on ∧
      rd t (WELT_PORT_STAT_STATE p) = rd s (WELT_PORT_STAT_STATE p) ∧ (rd s (WELT_PORT_STAT_STATE p) = 2 → (t.port p).hold = ftNs s) ∧
      (t.port p).tx = txOf t p ∧ ringFrame p [(WELT_PORT_STAT_STATE p).addr] s t := by
  obtain ⟨hrf, hrest⟩ := rxChanged_wr s p (natOf on) (f := WELT_PORT_STAT_RF_RX p) rfl rfl rfl rfl
  refine ⟨_, ?_, hrf.trans (natOf_mod on), hrest⟩
  rw [exec_remoteFault hp hr, if_neg fun g => by have := h g.1; omega]
  rfl

end

/-! ## The wrap of a ring (R44 to R46, R191, R354) -/

/-- The links that a hub lists and its degraded reason follow a port that went up or down, unless the hub domain is in reset. -/
def linksFollow (s : State) (p : Nat) : State := if (ownLink s p).rst.busy then ownLink s p else portReason (ownLink s p)

/-- A port with nothing agreed, nothing seen, and nothing leaving or waiting. -/
def unsent (s : State) (p : Nat) : State :=
  let t := s.setPort p { s.port p with trainSeen := false, own := none, nbr := none, agreed := none }
  t.setPort p { t.port p with sendTo := 0, trainTo := 0, waiting := [] }

theorem unsent_spec (s : State) (p : Nat) : ((unsent s p).port p).sendTo = 0 ∧ ((unsent s p).port p).trainTo = 0 ∧
    ((unsent s p).port p).trainSeen = false ∧ portFrame p [] s (unsent s p) := by
  refine ⟨?_, ?_, ?_, portFrame_setPort _ (portFrame_setPort _ (portFrame_refl _ _ _))⟩
  all_goals simp only [unsent, State.port_setPort_self]

/-- A frame in progress towards the failed port is discarded (R44). -/
def cutOff (s : State) (p : Nat) : State := if ftNs s < ringBusy s p then (unsent s p).emit (.discard p) else unsent s p

theorem rd_cutOff (s : State) (p : Nat) (f : Fld) : rd (cutOff s p) f = rd s f := by
  unfold cutOff
  split
  · exact (rd_emit _ _ f).trans ((rd_setPort _ _ _ f).trans (rd_setPort _ _ _ f))
  · exact (rd_setPort _ _ _ f).trans (rd_setPort _ _ _ f)

theorem cutFailed_eq (s : State) (p : Nat) :
    cutFailed (s.setPort p { s.port p with trainSeen := false, own := none, nbr := none, agreed := none }) p = cutOff s p := by
  have hbusy : ringBusy (s.setPort p { s.port p with trainSeen := false, own := none, nbr := none, agreed := none }) p = ringBusy s p := by
    simp only [ringBusy, State.port_setPort_self]
  unfold cutFailed cutOff
  rw [hbusy]
  rfl

theorem wrapPort_eq (s : State) (p : Nat) : wrapPort s p = linksFollow (if (!isUp (cutOff s p) (facing p)) = true then cutOff s p
    else sendNotice (raise (cutTurnBack (wr (incSat (cutOff s p) (WELT_WRAP_CNT_COUNT p)) (WELT_PORT_EVT_WRAP p) 1) (facing p)) 12
      (wrapped (cutTurnBack (wr (incSat (cutOff s p) (WELT_WRAP_CNT_COUNT p)) (WELT_PORT_EVT_WRAP p) 1) (facing p)))) p 1) p := by
  unfold wrapPort
  rw [cutFailed_eq]
  rfl

theorem isUp_iff (s : State) (p : Nat) : isUp s p = true ↔ rd s (WELT_PORT_STAT_STATE p) = 4 := beq_iff_eq

/-- With the ring's other port not UP there is no wrap (R46). -/
theorem wrapPort_isolated {s : State} {p : Nat} (h : rd s (WELT_PORT_STAT_STATE (facing p)) ≠ 4) :
    wrapPort s p = linksFollow (cutOff s p) p := by
  rw [wrapPort_eq, if_pos (by rwa [Bool.not_eq_true', Bool.eq_false_iff, ne_eq, isUp_iff, rd_cutOff])]

/-- With the ring's other port UP the wrap is counted, raised and noticed (R44, R45). -/
theorem wrapPort_wraps {s z q : State} {p : Nat} (h : rd s (WELT_PORT_STAT_STATE (facing p)) = 4)
    (hz : z = wr (incSat (cutOff s p) (WELT_WRAP_CNT_COUNT p)) (WELT_PORT_EVT_WRAP p) 1) (hq : q = cutTurnBack z (facing p)) :
    wrapPort s p = linksFollow (sendNotice (raise q 12 (wrapped q)) p 1) p := by
  rw [wrapPort_eq, if_neg, hq, hz]
  rw [Bool.not_eq_true', Bool.eq_false_iff, not_not, isUp_iff, rd_cutOff]
  exact h

/-- What a port does that goes DOWN, whatever it was. -/
theorem portTo_down (u : State) (p : Nat) : ∃ v, rd v (WELT_PORT_STAT_STATE p) = 1 ∧ rd v (WELT_PORT_STAT_LDLY_VALID p) = 0 ∧
    (v.port p).own = none ∧ (v.port p).agreed = none ∧ (v.port p).waiting = [] ∧ portFrame p [(WELT_PORT_STAT_STATE p).addr] u v ∧
    (rd u (WELT_PORT_STAT_STATE p) ≠ 4 → portTo u p 1 = settleTx v p) ∧
    (rd u (WELT_PORT_STAT_STATE p) = 4 → ∃ x y, (y.port p).sendTo = 0 ∧ (y.port p).trainTo = 0 ∧ (y.port p).trainSeen = false ∧
      portFrame p [] v y ∧ x = (if ftNs v < ringBusy v p then y.emit (.discard p) else y) ∧
      (rd u (WELT_PORT_STAT_STATE (facing p)) ≠ 4 → ∃ w, w = ownLink x p ∧ portTo u p 1 = settleTx (if w.rst.busy then w else portReason w) p) ∧
      (rd u (WELT_PORT_STAT_STATE (facing p)) = 4 → ∃ z q, rd z (WELT_WRAP_CNT_COUNT p) = min (rd u (WELT_WRAP_CNT_COUNT p) + 1) 65535 ∧
        rd z (WELT_PORT_EVT_WRAP p) = 1 ∧ regsOnly [(WELT_WRAP_CNT_COUNT p).addr, (WELT_PORT_EVT_WRAP p).addr] x z ∧
        q = (if ftNs z < (z.port (facing p)).sendTo then
          (z.setPort (facing p) { z.port (facing p) with sendTo := ftNs z }).emit (.truncate (facing p)) else z) ∧
        ∃ w, w = ownLink (sendNotice (raise q 12 (wrapped q)) p 1) p ∧
          portTo u p 1 = settleTx (if w.rst.busy then w else portReason w) p)) := by
  obtain ⟨hst, hval, hown, hagreed, hwait, -, hframe⟩ := lowered_spec u p 1
  obtain ⟨hsend, htrain, hseen, hunsent⟩ := unsent_spec (lowered u p 1) p
  have hfacing : rd (lowered u p 1) (WELT_PORT_STAT_STATE (facing p)) = rd u (WELT_PORT_STAT_STATE (facing p)) :=
    rd_of_cellsBut_one hframe.2.1 (portReg_ne_of_ne (facing_ne p))
  have hcount : rd (cutOff (lowered u p 1) p) (WELT_WRAP_CNT_COUNT p) = rd u (WELT_WRAP_CNT_COUNT p) :=
    (rd_cutOff _ p _).trans (rd_of_cellsBut_one hframe.2.1 (portReg_ne rfl))
  refine ⟨lowered u p 1, hst, hval, hown, hagreed, hwait, hframe, fun h => portTo_notUp h 1, fun hup => ⟨cutOff (lowered u p 1) p,
    unsent (lowered u p 1) p, hsend, htrain, hseen, hunsent, rfl, fun h => ⟨_, rfl, ?_⟩, fun h => ?_⟩⟩
  · rw [portTo_up hup, wrapPort_isolated (hfacing.trans_ne h), linksFollow]
  · obtain ⟨hcnt, hevt, hregs⟩ := counted_spec (cutOff (lowered u p 1) p) (c := WELT_WRAP_CNT_COUNT p) (e := WELT_PORT_EVT_WRAP p)
      rfl rfl rfl (portReg_ne rfl)
    rw [hcount] at hcnt
    refine ⟨_, _, hcnt, hevt, hregs, rfl, _, rfl, ?_⟩
    rw [portTo_up hup, wrapPort_wraps (hfacing.trans h) rfl rfl]
    rfl

/-- Settles O17: what the receiver shows (`receiverLost_spec`, `rxChanged_wr`), what is declared, and what a port that goes
DOWN does to its ring (`portTo_down`). -/
theorem portGoesDownAndWraps : Obligations.PortGoesDownAndWraps := by
  unfold Obligations.PortGoesDownAndWraps
  intro p s hp hr
  refine ⟨fun h => ⟨fun kind hk => lossOfSignal_declared hp hr h hk, remoteFault_declared hp hr h, hiBer_declared hp hr h⟩,
    fun h => ⟨lossOfLock_below hp hr h, remoteFault_shown hp hr fun _ => h⟩, ?_, fun h => ?_, fun u => portTo_down u p⟩
  · obtain ⟨t, hexec, hrf, hst, -, htx, hring⟩ := remoteFault_shown hp hr (on := false) (nofun)
    exact ⟨t, hexec, hrf, hst, htx, hring⟩
  · obtain ⟨hst, hsig, hlock, -, htx, hring⟩ := sync_signalLost rfl h
    refine ⟨_, ?_, hst, hsig, hlock, htx, hring⟩
    rw [exec_lossOfSignal hp hr, if_neg (by omega), if_pos ⟨h, rfl⟩]
    rfl

end Sys2Proof.Machine

/-! SUPPORT. Obligation O18: the module of a port, its two-wire bus, and the request for BYPASS. -/

namespace Sys2Proof.Machine

/-! ## The pins of a module (R34 to R36) -/

/-- The levels of MODABS, LOS and TXFLT show in the port's status. -/
def modLevels (s : State) (p : Nat) (absent los txflt : Bool) : State :=
  wrs s [(WELT_PORT_STAT_SFP_MODABS p, natOf absent), (WELT_PORT_STAT_SFP_LOS p, natOf los), (WELT_PORT_STAT_SFP_TXFLT p, natOf txflt)]

/-- A change of MODABS is an event. -/
def modChanged (s : State) (p : Nat) (absent los txflt : Bool) : State := wr (modLevels s p absent los txflt) (WELT_PORT_EVT_MOD_CHG p) 1

theorem modLevels_spec (s : State) (p : Nat) (absent los txflt : Bool) :
    rd (modLevels s p absent los txflt) (WELT_PORT_STAT_SFP_MODABS p) = natOf absent ∧
    rd (modLevels s p absent los txflt) (WELT_PORT_STAT_SFP_LOS p) = natOf los ∧
    rd (modLevels s p absent los txflt) (WELT_PORT_STAT_SFP_TXFLT p) = natOf txflt ∧
    rd (modLevels s p absent los txflt) (WELT_PORT_STAT_STATE p) = rd s (WELT_PORT_STAT_STATE p) ∧
    regsOnly [(WELT_PORT_STAT_STATE p).addr] s (modLevels s p absent los txflt) := by
  simp only [modLevels, wrs_cons, wrs_nil]
  refine ⟨?_, ?_, ?_, ?_, regsOnly_trans (regsOnly_wr s (WELT_PORT_STAT_SFP_MODABS p) _)
    (regsOnly_trans (regsOnly_wr _ (WELT_PORT_STAT_SFP_LOS p) _) (regsOnly_wr _ (WELT_PORT_STAT_SFP_TXFLT p) _))⟩
  · rw [rd_wr_apart _ _ rfl rfl, rd_wr_apart _ _ rfl rfl, rd_wr_bit _ _ rfl rfl, natOf_mod]
  · rw [rd_wr_apart _ _ rfl rfl, rd_wr_bit _ _ rfl rfl, natOf_mod]
  · rw [rd_wr_bit _ _ rfl rfl, natOf_mod]
  · rw [rd_wr_apart _ _ rfl rfl, rd_wr_apart _ _ rfl rfl, rd_wr_apart _ _ rfl rfl]

theorem modChanged_spec (s : State) (p : Nat) (absent los txflt : Bool) :
    rd (modChanged s p absent los txflt) (WELT_PORT_STAT_SFP_MODABS p) = natOf absent ∧
    rd (modChanged s p absent los txflt) (WELT_PORT_STAT_SFP_LOS p) = natOf los ∧
    rd (modChanged s p absent los txflt) (WELT_PORT_STAT_SFP_TXFLT p) = natOf txflt ∧
    rd (modChanged s p absent los txflt) (WELT_PORT_EVT_MOD_CHG p) = 1 ∧
    rd (modChanged s p absent los txflt) (WELT_PORT_STAT_STATE p) = rd s (WELT_PORT_STAT_STATE p) ∧
    regsOnly [(WELT_PORT_STAT_STATE p).addr, (WELT_PORT_EVT_MOD_CHG p).addr] s (modChanged s p absent los txflt) := by
  obtain ⟨habs, hlos, htx, hst, hregs⟩ := modLevels_spec s p absent los txflt
  have hrd : ∀ f, f.addr = (WELT_PORT_STAT_STATE p).addr → rd (modChanged s p absent los txflt) f = rd (modLevels s p absent los txflt) f :=
    fun f hf => rd_wr_portReg _ 1 rfl hf rfl
  exact ⟨(hrd (WELT_PORT_STAT_SFP_MODABS p) rfl).trans habs, (hrd (WELT_PORT_STAT_SFP_LOS p) rfl).trans hlos,
    (hrd (WELT_PORT_STAT_SFP_TXFLT p) rfl).trans htx, rd_wr_bit _ 1 rfl rfl, (hrd (WELT_PORT_STAT_STATE p) rfl).trans hst,
    regsOnly_trans (regsOnly_mono hregs (by simp)) (regsOnly_mono (regsOnly_wr _ (WELT_PORT_EVT_MOD_CHG p) 1) (by simp))⟩

/-! ## The commands (R34 to R36, R53) -/

section
variable {s : State} {p : Nat} (hp : p < 4) (hr : ¬(s.rst.busy = true ∧ s.rst.full = true))
include hp hr

theorem exec_modChg (absent los txflt : Bool) : exec (.modChg p absent los txflt) s = .next
    (if absent = flag s (WELT_PORT_STAT_SFP_MODABS p) then modLevels s p absent los txflt
    else if absent = true then
      (if rd s (WELT_PORT_STAT_STATE p) = 0 then modChanged s p absent los txflt else portTo (modChanged s p absent los txflt) p 1)
    else portRun (settleTx (modChanged s p absent los txflt) p) p) :=
  congrArg Host.Outcome.next (ringAlive_on hp hr _)

/-- While MODABS stays as it was the levels show, and nothing else happens. -/
theorem modChg_unchanged (los txflt : Bool) : ∃ t, exec (.modChg p (flag s (WELT_PORT_STAT_SFP_MODABS p)) los txflt) s = .next t ∧
    rd t (WELT_PORT_STAT_SFP_LOS p) = natOf los ∧ rd t (WELT_PORT_STAT_SFP_TXFLT p) = natOf txflt ∧
    rd t (WELT_PORT_STAT_SFP_MODABS p) = rd s (WELT_PORT_STAT_SFP_MODABS p) ∧
    rd t (WELT_PORT_STAT_STATE p) = rd s (WELT_PORT_STAT_STATE p) ∧ regsOnly [(WELT_PORT_STAT_STATE p).addr] s t := by
  obtain ⟨habs, hlos, htx, hst, hregs⟩ := modLevels_spec s p (flag s (WELT_PORT_STAT_SFP_MODABS p)) los txflt
  exact ⟨_, (exec_modChg hp hr _ los txflt).trans (congrArg Host.Outcome.next (if_pos rfl)), hlos, htx,
    habs.trans (natOf_flag s rfl), hst, hregs⟩

theorem modChg_removed {los txflt : Bool} (h : true ≠ flag s (WELT_PORT_STAT_SFP_MODABS p)) {t : State}
    (ht : t = modChanged s p true los txflt) : exec (.modChg p true los txflt) s =
      .next (if rd s (WELT_PORT_STAT_STATE p) = 0 then t else portTo t p 1) := by
  rw [exec_modChg hp hr, if_neg h, if_pos rfl, ht]

theorem modChg_inserted {los txflt : Bool} (h : false ≠ flag s (WELT_PORT_STAT_SFP_MODABS p)) {t : State}
    (ht : t = modChanged s p false los txflt) : exec (.modChg p false los txflt) s = .next (portRun (settleTx t p) p) := by
  rw [exec_modChg hp hr, if_neg h, if_neg Bool.false_ne_true, ht]

/-- A module inserted at a port in DOWN: the port sends again what R41 says. -/
theorem modChg_inserted_down {los txflt : Bool} (h : false ≠ flag s (WELT_PORT_STAT_SFP_MODABS p))
    (h1 : rd s (WELT_PORT_STAT_STATE p) = 1) {t : State} (ht : t = modChanged s p false los txflt) :
    ∃ u, exec (.modChg p false los txflt) s = .next u ∧
      (∀ f, rd u f = rd t f) ∧ (u.port p).tx = txOf u p ∧ ringFrame p [] t u := by
  obtain ⟨-, -, -, -, hst, -⟩ := modChanged_spec s p false los txflt
  rw [← ht, h1] at hst
  have hstay : portRun (settleTx t p) p = settleTx t p := if_neg fun g => by
    have h0 : rd (settleTx t p) (WELT_PORT_STAT_STATE p) = 0 := g.1
    rw [rd_settleTx, hst] at h0
    exact absurd h0 (by decide)
  refine ⟨settleTx t p, ?_, rd_settleTx t p, ?_, ringFrame_settleTx (portFrame_refl _ _ _)⟩
  · rw [modChg_inserted hp hr h ht, hstay]
  · rw [port_settleTx_self]

/-- A module inserted at a DISABLED port that may run: the port goes DOWN. -/
theorem modChg_inserted_disabled {los txflt : Bool} (h : false ≠ flag s (WELT_PORT_STAT_SFP_MODABS p))
    (h0 : rd s (WELT_PORT_STAT_STATE p) = 0) (he : rd s (WELT_PORT_CTRL_ENABLE p) = 1) (hf : rd s (WELT_PORT_CTRL_TXDIS_FORCE p) = 0)
    (h9 : (s.port p).st09 = true) (hl : (s.port p).lbkFail = false) {t : State} (ht : t = modChanged s p false los txflt) :
    ∃ u, exec (.modChg p false los txflt) s = .next u ∧ rd u (WELT_PORT_STAT_STATE p) = 1 ∧ rd u (WELT_PORT_EVT_MOD_CHG p) = 1 ∧
      (u.port p).tx = txOf u p ∧ ringFrame p [(WELT_PORT_STAT_STATE p).addr] t u := by
  obtain ⟨habs, -, -, hevt, hst, hregs⟩ := modChanged_spec s p false los txflt
  rw [← ht] at habs hevt hst hregs
  have hctrl : ∀ f, f.addr = (WELT_PORT_CTRL_ENABLE p).addr → rd t f = rd s f := fun f hf =>
    rd_of_cellsBut hregs.2 f (hf ▸ List.not_mem_cons_of_ne_of_not_mem (portReg_ne rfl)
      (List.not_mem_cons_of_ne_of_not_mem (portReg_ne rfl) List.not_mem_nil))
  have hport : t.port p = s.port p := State.port_congr p (hregs.1 .ports (by decide))
  have hst0 : rd (settleTx t p) (WELT_PORT_STAT_STATE p) = 0 := (rd_settleTx t p _).trans (hst.trans h0)
  have hrun : portRun (settleTx t p) p = portTo (settleTx t p) p 1 := by
    refine portRun_runs hst0 ?_ ?_ ?_ ?_ ?_
    · rw [rd_settleTx, hctrl (WELT_PORT_CTRL_ENABLE p) rfl, he]
    · rw [rd_settleTx, hctrl (WELT_PORT_CTRL_TXDIS_FORCE p) rfl, hf]
    · exact (rd_settleTx t p _).trans habs
    · rw [port_settleTx_self, hport]; exact h9
    · rw [port_settleTx_self, hport]; exact hl
  obtain ⟨hdown, -, htx, -, hkeep, hparts, hcells, hports, hfac⟩ := portTo_notUp_spec (hst0.trans_ne (by decide)) 1
  obtain ⟨hp1, -, hports1, hfac1⟩ := ringFrame_settleTx (portFrame_refl p [] t)
  refine ⟨portTo (settleTx t p) p 1, ?_, hdown, (hkeep _ rfl rfl).trans ((rd_settleTx t p _).trans hevt), htx,
    partsBut_trans hp1 hparts, hcells, fun m h1 h2 => (hports m h1 h2).trans (hports1 m h1 h2), ?_⟩
  · rw [modChg_inserted hp hr h ht, hrun]
  · rw [hfac, hfac1]

/-- A module removed or inserted. -/
theorem modChg_changed (absent los txflt : Bool) (h : absent ≠ flag s (WELT_PORT_STAT_SFP_MODABS p)) :
    ∃ t, rd t (WELT_PORT_STAT_SFP_MODABS p) = natOf absent ∧
      rd t (WELT_PORT_STAT_SFP_LOS p) = natOf los ∧ rd t (WELT_PORT_STAT_SFP_TXFLT p) = natOf txflt ∧
      rd t (WELT_PORT_EVT_MOD_CHG p) = 1 ∧ rd t (WELT_PORT_STAT_STATE p) = rd s (WELT_PORT_STAT_STATE p) ∧
      regsOnly [(WELT_PORT_STAT_STATE p).addr, (WELT_PORT_EVT_MOD_CHG p).addr] s t ∧
      (absent = true → exec (.modChg p true los txflt) s = .next (if rd s (WELT_PORT_STAT_STATE p) = 0 then t else portTo t p 1)) ∧
      (absent = false → rd s (WELT_PORT_STAT_STATE p) = 1 → ∃ u, exec (.modChg p false los txflt) s = .next u ∧
        (∀ f, rd u f = rd t f) ∧ (u.port p).tx = txOf u p ∧ ringFrame p [] t u) ∧
      (absent = false → rd s (WELT_PORT_STAT_STATE p) = 0 → rd s (WELT_PORT_CTRL_ENABLE p) = 1 → rd s (WELT_PORT_CTRL_TXDIS_FORCE p) = 0 →
        (s.port p).st09 = true → (s.port p).lbkFail = false → ∃ u, exec (.modChg p false los txflt) s = .next u ∧
          rd u (WELT_PORT_STAT_STATE p) = 1 ∧ rd u (WELT_PORT_EVT_MOD_CHG p) = 1 ∧ (u.port p).tx = txOf u p ∧
          ringFrame p [(WELT_PORT_STAT_STATE p).addr] t u) := by
  obtain ⟨habs, hlos, htx, hevt, hst, hregs⟩ := modChanged_spec s p absent los txflt
  refine ⟨modChanged s p absent los txflt, habs, hlos, htx, hevt, hst, hregs, ?_, ?_, ?_⟩
  all_goals rintro rfl
  · exact modChg_removed hp hr h rfl
  · exact fun h1 => modChg_inserted_down hp hr h h1 rfl
  · exact fun h0 he hf h9 hl => modChg_inserted_disabled hp hr h h0 he hf h9 hl rfl

/-- A GO sends the byte command with the four fields written (R35). -/
theorem sfpMgmtGo_spec (hb : s.rst.busy = false) (data offset : Nat) (devsel write : Bool) :
    ∃ u t, exec (.sfpMgmtGo p data offset devsel write) s = .next t ∧
      rd t (WELT_SFP_MGMT_GO p) = 1 ∧ rd t (WELT_SFP_MGMT_DATA p) = data % 256 ∧
      rd t (WELT_SFP_MGMT_OFFSET p) = offset % 256 ∧ rd t (WELT_SFP_MGMT_DEVSEL p) = natOf devsel ∧
      rd t (WELT_SFP_MGMT_WRITE p) = natOf write ∧
      rd u (WELT_SFP_MGMT_DATA p) = data % 256 ∧ rd u (WELT_SFP_MGMT_OFFSET p) = offset % 256 ∧
      rd u (WELT_SFP_MGMT_DEVSEL p) = natOf devsel ∧ rd u (WELT_SFP_MGMT_WRITE p) = natOf write ∧
      t.out = .serial 0 p (rdW u (WELT_SFP_MGMT_DATA p).addr) :: s.out ∧
      partsBut [.regs, .out] s t ∧ cellsBut [(WELT_SFP_MGMT_DATA p).addr] s t := by
  obtain ⟨u, hu⟩ : ∃ u, u = wr (wr (wr (wr s (WELT_SFP_MGMT_DATA p) data) (WELT_SFP_MGMT_OFFSET p) offset)
    (WELT_SFP_MGMT_DEVSEL p) (natOf devsel)) (WELT_SFP_MGMT_WRITE p) (natOf write) := ⟨_, rfl⟩
  have hdata : rd u (WELT_SFP_MGMT_DATA p) = data % 256 := by
    rw [hu, rd_wr_apart _ _ rfl rfl, rd_wr_apart _ _ rfl rfl, rd_wr_apart _ _ rfl rfl]
    exact rd_wr_same s data rfl
  have hoff : rd u (WELT_SFP_MGMT_OFFSET p) = offset % 256 := by
    rw [hu, rd_wr_apart _ _ rfl rfl, rd_wr_apart _ _ rfl rfl]
    exact rd_wr_same _ offset rfl
  have hdev : rd u (WELT_SFP_MGMT_DEVSEL p) = natOf devsel := by
    rw [hu, rd_wr_apart _ _ rfl rfl, rd_wr_bit _ _ rfl rfl, natOf_mod]
  have hwrite : rd u (WELT_SFP_MGMT_WRITE p) = natOf write := by rw [hu, rd_wr_bit _ _ rfl rfl, natOf_mod]
  have hregs : regsOnly [(WELT_SFP_MGMT_DATA p).addr] s u := by
    rw [hu]
    exact regsOnly_trans (regsOnly_wr s (WELT_SFP_MGMT_DATA p) _) (regsOnly_trans (regsOnly_wr _ (WELT_SFP_MGMT_OFFSET p) _)
      (regsOnly_trans (regsOnly_wr _ (WELT_SFP_MGMT_DEVSEL p) _) (regsOnly_wr _ (WELT_SFP_MGMT_WRITE p) _)))
  obtain ⟨hparts, hcells⟩ := regsOnly_trans hregs (regsOnly_wr u (WELT_SFP_MGMT_GO p) 1)
  have hgo : ∀ f, (WELT_SFP_MGMT_GO p).apart f = true → rd (sfpGo u p) f = rd u f := fun f hf =>
    (rd_emit _ _ f).trans (rd_wr_apart u 1 rfl hf)
  have hout : u.out = s.out := hregs.1 .out (by decide)
  refine ⟨u, sfpGo u p, ?_, (rd_emit _ _ _).trans (rd_wr_bit u 1 rfl rfl), (hgo _ rfl).trans hdata, (hgo _ rfl).trans hoff,
    (hgo _ rfl).trans hdev, (hgo _ rfl).trans hwrite, hdata, hoff, hdev, hwrite, ?_,
    partsBut_trans (partsBut_mono hparts (by decide)) (partsBut_mono (partsBut_emit _ _) (by decide)), fun a ha => ?_⟩
  · rw [hu]
    exact congrArg Host.Outcome.next ((whenAlive_alive s _ hb).trans (ringAlive_on hp hr _))
  · rw [sfpGo, emit_out, wr_out, hout]
  · rw [sfpGo, cellAt_emit]
    exact hcells a ha

/-- The end of a transfer clears GO, shows a missing acknowledgement, and a byte read (R35). -/
theorem sfpMgmtDone_spec (hgo : rd s (WELT_SFP_MGMT_GO p) = 1) (ack : Bool) (data : Nat) :
    ∃ t, exec (.sfpMgmtDone p ack data) s = .next t ∧ rd t (WELT_SFP_MGMT_GO p) = 0 ∧ rd t (WELT_SFP_MGMT_ERR p) = natOf (!ack) ∧
      rd t (WELT_SFP_MGMT_DATA p) =
        (if ack = true ∧ rd s (WELT_SFP_MGMT_WRITE p) = 0 then data % 256 else rd s (WELT_SFP_MGMT_DATA p)) ∧
      regsOnly [(WELT_SFP_MGMT_DATA p).addr] s t := by
  obtain ⟨u, hu⟩ : ∃ u, u = wr (wr s (WELT_SFP_MGMT_GO p) 0) (WELT_SFP_MGMT_ERR p) (natOf !ack) := ⟨_, rfl⟩
  have hgo0 : rd u (WELT_SFP_MGMT_GO p) = 0 := by rw [hu, rd_wr_apart _ _ rfl rfl, rd_wr_bit _ _ rfl rfl]
  have herr : rd u (WELT_SFP_MGMT_ERR p) = natOf !ack := by rw [hu, rd_wr_bit _ _ rfl rfl, natOf_mod]
  have hregs : regsOnly [(WELT_SFP_MGMT_DATA p).addr] s u := by
    rw [hu]; exact regsOnly_trans (regsOnly_wr s (WELT_SFP_MGMT_GO p) _) (regsOnly_wr _ (WELT_SFP_MGMT_ERR p) _)
  have hexec : exec (.sfpMgmtDone p ack data) s =
      .next (if ack = true ∧ (!flag s (WELT_SFP_MGMT_WRITE p)) = true then wr u (WELT_SFP_MGMT_DATA p) data else u) := by
    rw [hu]
    exact congrArg Host.Outcome.next ((ringAlive_on hp hr _).trans (if_pos (flag_true hgo)))
  have hread : (ack = true ∧ (!flag s (WELT_SFP_MGMT_WRITE p)) = true) ↔ ack = true ∧ rd s (WELT_SFP_MGMT_WRITE p) = 0 := by simp [flag]
  by_cases h : ack = true ∧ rd s (WELT_SFP_MGMT_WRITE p) = 0
  · refine ⟨_, hexec.trans (congrArg Host.Outcome.next (if_pos (hread.2 h))), (rd_wr_apart _ _ rfl rfl).trans hgo0,
      (rd_wr_apart _ _ rfl rfl).trans herr, ?_, regsOnly_trans hregs (regsOnly_wr u (WELT_SFP_MGMT_DATA p) data)⟩
    rw [if_pos h]
    exact rd_wr_same u data rfl
  · refine ⟨u, hexec.trans (congrArg Host.Outcome.next (if_neg (mt hread.1 h))), hgo0, herr, ?_, hregs⟩
    rw [if_neg h, hu, rd_wr_apart _ _ rfl rfl, rd_wr_apart _ _ rfl rfl]

end

/-- Settles O18: the pins (`modChanged_spec`) and what the port does on them, the bus, and a bit of WELT_CTRL. -/
theorem moduleChangesAndItsBus : Obligations.ModuleChangesAndItsBus := by
  unfold Obligations.ModuleChangesAndItsBus
  intro p s hp hr
  refine ⟨modChg_unchanged hp hr, modChg_changed hp hr, sfpMgmtGo_spec hp hr, sfpMgmtDone_spec hp hr, fun hb => ?_⟩
  exact ⟨_, congrArg Host.Outcome.next (whenAlive_alive s _ hb), rd_wr_bit s 1 rfl rfl, rd_wr_apart s 1 rfl rfl,
    regsOnly_wr s WELT_CTRL_BYPASS_REQ 1⟩

end Sys2Proof.Machine

/-! SUPPORT. Obligation O19: two ends of a link agree on a lap and go UP; frames of the ring domain leave or wait. -/

namespace Sys2Proof.Machine

/-! ## A port changes and a frame leaves -/

theorem setPort_frame (s : State) (p : Nat) (x : Port) :
    partsBut [.ports] s (s.setPort p x) ∧ ∀ m, m ≠ p → (s.setPort p x).port m = s.port m :=
  ⟨partsBut_setPort s p x, fun _ hm => port_setPort_ne s x hm⟩

theorem setPort_emit_frame (s : State) (p : Nat) (x : Port) (o : Output) :
    ((s.setPort p x).emit o).out = o :: s.out ∧ partsBut [.ports, .out] s ((s.setPort p x).emit o) ∧
    ∀ m, m ≠ p → ((s.setPort p x).emit o).port m = s.port m :=
  ⟨rfl, partsBut_trans (partsBut_mono (partsBut_setPort s p x) (by decide)) (partsBut_mono (partsBut_emit _ o) (by decide)),
    fun _ hm => (State.port_emit _ o _).trans (port_setPort_ne s x hm)⟩

theorem port_setPort_emit (s : State) (p : Nat) (x : Port) (o : Output) : ((s.setPort p x).emit o).port p = x :=
  (State.port_emit _ o p).trans (State.port_setPort_self s p x)

/-! ## Frames of the ring domain leave at once or wait (R50, R76) -/

section
variable {s : State} {p : Nat} {o : RingOut}

theorem ringSend_leaves (hw : (s.port p).waiting = []) (hm : ringMay s p (ringLen o) = true) : ringSend s p o = ringLeave s p o :=
  if_pos (by rw [hw, hm]; rfl)

theorem ringSend_waits (h : ¬((s.port p).waiting = [] ∧ ringMay s p (ringLen o) = true)) :
    ringSend s p o = s.setPort p { s.port p with waiting := ringQueue (s.port p).waiting o } :=
  if_neg (by rwa [Bool.and_eq_true, List.isEmpty_iff])

end

/-- A fault notice that may start leaves at once. -/
theorem ringSend_notice {s : State} {p : Nat} {f : List Byte} (hw : (s.port p).waiting = []) (hm : ringMay s p f.length = true) :
    ∃ t, ringSend s p (.notice f) = t ∧ t.out = .ringFrame p f false :: s.out ∧
      (t.port p).sendTo = ftNs s + (wireTenths s p f.length + 9) / 10 ∧ partsBut [.ports, .out] s t ∧ ∀ m, m ≠ p → t.port m = s.port m := by
  obtain ⟨hout, hframe⟩ := setPort_emit_frame s p { s.port p with sendTo := ftNs s + (wireTenths s p f.length + 9) / 10 }
    (.ringFrame p f false)
  refine ⟨_, ringSend_leaves (o := .notice f) hw hm, hout, ?_, hframe⟩
  exact congrArg Port.sendTo (port_setPort_emit s p _ _)

/-- A notice leaves on the ring's other port where that one is UP. -/
theorem sendNotice_eq (s : State) (p kind : Nat) : sendNotice s p kind =
    if rd s (WELT_PORT_STAT_STATE (facing p)) = 4 then ringSend s (facing p) (.notice (noticeFrame s p kind)) else s := by
  simp only [sendNotice, isUp_iff]

/-! ## The commands of unwrapping (R48, R49) -/

/-- The lap that a stable port in TRIAL proposes. -/
def proposal (s : State) (p : Nat) : Nat :=
  let l := if (s.port p).trainSeen then ((s.trn.leadLap.getD 0) + 4) % 2 ^ 24 else 0
  if (s.port p).trainSeen ∧ l = 0 then 1 else l

theorem proposal_cases (s : State) (p : Nat) :
    if (s.port p).trainSeen = true then
      (if (s.trn.leadLap.getD 0 + 4) % 16777216 = 0 then proposal s p = 1 else proposal s p = (s.trn.leadLap.getD 0 + 4) % 16777216)
    else proposal s p = 0 := by
  unfold proposal
  by_cases hseen : (s.port p).trainSeen = true
  · by_cases h0 : (s.trn.leadLap.getD 0 + 4) % 16777216 = 0 <;> simp [hseen, h0]
  · simp [hseen]

/-- The free window of a lap: the one that opened in it (R49). -/
theorem inFreeOf_iff (s : State) (p l : Nat) : inFreeOf s p l = true ↔ tLap s ≠ 0 ∧ inWindow (trainWindow s p) (lapPos s) = false ∧
    l = ((if (trainWindow s p).2 ≤ lapPos s then lapNow s else lapNow s - 1) % 16777216).toNat := by
  simp only [inFreeOf, Bool.and_eq_true, bne_iff_ne, Bool.not_eq_true', decide_eq_true_eq, and_assoc]
  exact and_congr_right fun _ => and_congr_right fun _ => eq_comm

theorem inFreeOf_setPort_emit (s : State) (p l : Nat) (x : Port) (o : Output) : inFreeOf ((s.setPort p x).emit o) p l = inFreeOf s p l :=
  rfl

theorem agreeOn_now {s : State} {p l : Nat} (h : l = 0 ∨ inFreeOf s p l = true) : agreeOn s p l = toUp s p := if_pos h

theorem agreeOn_later {s : State} {p l : Nat} (h : ¬(l = 0 ∨ inFreeOf s p l = true)) :
    agreeOn s p l = s.setPort p { s.port p with agreed := some l } := if_neg h

section
variable {s : State} {p : Nat} (hp : p < 4) (hr : ¬(s.rst.busy = true ∧ s.rst.full = true))
include hp hr

theorem exec_unwrapRequest (h3 : rd s (WELT_PORT_STAT_STATE p) = 3) (hv : rd s (WELT_PORT_STAT_LDLY_VALID p) = 1) :
    exec (.unwrapRequest p) s = .next ((s.setPort p { s.port p with own := some (proposal s p) }).emit
      (.linkFrame p (linkPayload 3 0 (ftNow16 s) 0 0 (proposal s p)))) :=
  congrArg Host.Outcome.next ((ringAlive_on hp hr _).trans (if_pos ⟨h3, flag_true hv⟩))

theorem exec_unwrapResend {l : Nat} (ho : (s.port p).own = some l) (ha : (s.port p).agreed = none) : exec (.unwrapResend p) s =
    .next (s.emit (.linkFrame p (linkPayload 3 0 (ftNow16 s) 0 0 l))) := by
  change execUnwrapResend p s = _
  rw [execUnwrapResend, ringAlive_on hp hr, ho, ha]
  rfl

/-- A request that comes before the port has proposed is kept. -/
theorem exec_unwrapAck_unproposed (h3 : rd s (WELT_PORT_STAT_STATE p) = 3) (ho : (s.port p).own = none) (lap : Nat) :
    exec (.unwrapAck p 3 lap) s = .next (s.setPort p { s.port p with nbr := some lap }) := by
  change execUnwrapAck p 3 lap s = _
  rw [execUnwrapAck, ringAlive_on hp hr, if_neg fun g : portState s p ≠ pTrial => g h3, ho]
  rfl

/-- A request that reaches a port which has proposed is acknowledged with the agreed lap. -/
theorem exec_unwrapAck_request (h3 : rd s (WELT_PORT_STAT_STATE p) = 3) {a : Nat} (ho : (s.port p).own = some a) (b : Nat) :
    exec (.unwrapAck p 3 b) s = .next (agreeOn ((s.setPort p { s.port p with nbr := some b }).emit
      (.linkFrame p (linkPayload 4 0 (ftNow16 s) 0 0 (agree a b)))) p (agree a b)) := by
  change execUnwrapAck p 3 b s = _
  rw [execUnwrapAck, ringAlive_on hp hr, if_neg fun g : portState s p ≠ pTrial => g h3, ho]
  rfl

theorem exec_unwrapAck_ack (h3 : rd s (WELT_PORT_STAT_STATE p) = 3) {a : Nat} (ho : (s.port p).own = some a) (l : Nat) :
    exec (.unwrapAck p 4 l) s = .next (agreeOn s p l) := by
  change execUnwrapAck p 4 l s = _
  rw [execUnwrapAck, ringAlive_on hp hr, if_neg fun g : portState s p ≠ pTrial => g h3, ho]
  rfl

theorem exec_unwrap (h3 : rd s (WELT_PORT_STAT_STATE p) = 3) {l : Nat} (ha : (s.port p).agreed = some l) : exec (.unwrap p) s =
    .next (toUp (if tLap s = 0 then s else lapSync (advanceTo s (unwrapAt s p l))) p) := by
  change execUnwrap p s = _
  rw [execUnwrap, ringAlive_on hp hr, ha]
  exact congrArg Host.Outcome.next (if_neg (not_not.2 h3))

theorem exec_faultNoticeRefresh (h : rd s (WELT_PORT_STAT_STATE p) ≠ 4) :
    exec (.faultNoticeRefresh p) s = .next (sendNotice s p 3) :=
  congrArg Host.Outcome.next ((ringAlive_on hp hr _).trans (if_neg (mt (isUp_iff s p).1 h)))

/-- The acknowledgement gives the agreed lap: the port goes UP at once, or waits for that lap. -/
theorem unwrapAck_agrees (h3 : rd s (WELT_PORT_STAT_STATE p) = 3) {a : Nat} (ho : (s.port p).own = some a) (l : Nat) :
    ∃ t, ((t.port p).agreed = if l = 0 ∨ inFreeOf s p l = true then (s.port p).agreed else some l) ∧ partsBut [.ports] s t ∧
      (∀ m, m ≠ p → t.port m = s.port m) ∧
      exec (.unwrapAck p 4 l) s = .next (if l = 0 ∨ inFreeOf s p l = true then toUp t p else t) := by
  rw [exec_unwrapAck_ack hp hr h3 ho]
  by_cases h : l = 0 ∨ inFreeOf s p l = true
  · simp only [if_pos h, agreeOn_now h]
    exact ⟨s, rfl, partsBut_refl _ _, fun _ _ => rfl, rfl⟩
  · simp only [if_neg h, agreeOn_later h]
    obtain ⟨hparts, hports⟩ := setPort_frame s p { s.port p with agreed := some l }
    exact ⟨_, by rw [State.port_setPort_self], hparts, hports, rfl⟩

/-- A request that is acknowledged gives the agreed lap as well. -/
theorem unwrapRequest_agrees (h3 : rd s (WELT_PORT_STAT_STATE p) = 3) {a : Nat} (ho : (s.port p).own = some a) (b : Nat) {l : Nat}
    (hl : l = agree a b) :
    ∃ t, t.out = .linkFrame p (linkPayload 4 0 (ftNow16 s) 0 0 l) :: s.out ∧ (t.port p).nbr = some b ∧
      ((t.port p).agreed = if l = 0 ∨ inFreeOf s p l = true then (s.port p).agreed else some l) ∧ partsBut [.ports, .out] s t ∧
      (∀ m, m ≠ p → t.port m = s.port m) ∧
      exec (.unwrapAck p 3 b) s = .next (if l = 0 ∨ inFreeOf s p l = true then toUp t p else t) := by
  obtain ⟨u, hu⟩ : ∃ u, u = (s.setPort p { s.port p with nbr := some b }).emit (.linkFrame p (linkPayload 4 0 (ftNow16 s) 0 0 l)) := ⟨_, rfl⟩
  obtain ⟨hout, hparts, hports⟩ := setPort_emit_frame s p { s.port p with nbr := some b } (.linkFrame p (linkPayload 4 0 (ftNow16 s) 0 0 l))
  have hport := port_setPort_emit s p { s.port p with nbr := some b } (.linkFrame p (linkPayload 4 0 (ftNow16 s) 0 0 l))
  have hfree := inFreeOf_setPort_emit s p l { s.port p with nbr := some b } (.linkFrame p (linkPayload 4 0 (ftNow16 s) 0 0 l))
  rw [exec_unwrapAck_request hp hr h3 ho, ← hl, ← hu]
  rw [← hu] at hout hparts hports hport hfree
  by_cases h : l = 0 ∨ inFreeOf s p l = true
  · rw [agreeOn_now (hfree ▸ h)]
    simp only [if_pos h]
    exact ⟨u, hout, by rw [hport], by rw [hport], hparts, hports, rfl⟩
  · rw [agreeOn_later (hfree ▸ h)]
    simp only [if_neg h]
    obtain ⟨hparts', hports'⟩ := setPort_frame u p { u.port p with agreed := some l }
    refine ⟨u.setPort p { u.port p with agreed := some l }, hout, ?_, ?_, partsBut_trans hparts (partsBut_mono hparts' (by decide)),
      fun m hm => (hports' m hm).trans (hports m hm), rfl⟩
    all_goals rw [State.port_setPort_self]
    rw [hport]

end

/-- When a port goes UP that has agreed on a lap (R49). -/
theorem unwrapAt_cases (s : State) (p l : Nat) {d : Int} (hd : d = modDiff 24 l (lapNow s)) :
    (0 < d ∨ (d = 0 ∧ lapPos s ≤ (trainWindow s p).2) →
      unwrapAt s p l = ((rd s BELL_EPOCH_OFS_NS : Int) + (lapNow s + d) * tLap s + (trainWindow s p).2).toNat) ∧
    (d < 0 ∨ (d = 0 ∧ (trainWindow s p).2 < lapPos s) → unwrapAt s p l = nextFree s p) := by
  have heq : unwrapAt s p l = if 0 < d then (boundaryNs s (tLap s) (lapNow s + d) + (trainWindow s p).2).toNat
      else if d = 0 ∧ lapPos s ≤ (trainWindow s p).2 then (boundaryNs s (tLap s) (lapNow s) + (trainWindow s p).2).toNat
      else nextFree s p := by rw [hd, unwrapAt]
  rw [heq]
  refine ⟨fun h => ?_, fun h => ?_⟩
  · obtain h | ⟨h0, hpos⟩ := h
    · rw [if_pos h, boundaryNs]
    · rw [if_neg (by omega), if_pos ⟨h0, hpos⟩, boundaryNs, h0, add_zero]
  · rw [if_neg (by omega), if_neg (by omega)]

/-- A port goes UP by unwrap (R36, R49, R190). -/
theorem toUp_spec (s : State) (p : Nat) : ∃ v w, rd v (WELT_PORT_STAT_STATE p) = 4 ∧ rd v (WELT_PORT_EVT_UNWRAP p) = 1 ∧
    (v.port p).tx = txOf v p ∧ (v.port p).own = none ∧ (v.port p).agreed = none ∧
    ringFrame p [(WELT_PORT_STAT_STATE p).addr, (WELT_PORT_EVT_UNWRAP p).addr] s v ∧
    w = (if rd s (WELT_PORT_STAT_STATE (facing p)) = 4 then ringSend v (facing p) (.notice (noticeFrame v p 2)) else v) ∧
    toUp s p = if (ownLink w p).rst.busy then ownLink w p else portReason (ownLink w p) := by
  obtain ⟨t, ht⟩ : ∃ t, t = wr (wr s (WELT_PORT_STAT_STATE p) 4) (WELT_PORT_EVT_UNWRAP p) 1 := ⟨_, rfl⟩
  obtain ⟨v, hv⟩ : ∃ v, v = settleTx (t.setPort p { t.port p with own := none, nbr := none, agreed := none }) p := ⟨_, rfl⟩
  have hrd : ∀ f, rd v f = rd t f := fun f => by rw [hv, rd_settleTx, rd_setPort]
  have hst : rd t (WELT_PORT_STAT_STATE p) = 4 := by
    rw [ht, rd_wr_apart _ _ rfl rfl]
    exact rd_wr_same s 4 rfl
  have hevt : rd t (WELT_PORT_EVT_UNWRAP p) = 1 := by rw [ht, rd_wr_bit _ _ rfl rfl]
  have hframe : portFrame p [(WELT_PORT_STAT_STATE p).addr, (WELT_PORT_EVT_UNWRAP p).addr] s t := by
    rw [ht]
    exact portFrame_wr (portFrame_wr (portFrame_refl _ _ _) (by simp)) (by simp)
  have hfac : rd v (WELT_PORT_STAT_STATE (facing p)) = rd s (WELT_PORT_STAT_STATE (facing p)) :=
    (hrd _).trans (rd_of_cellsBut hframe.2.1 _ (List.not_mem_cons_of_ne_of_not_mem (portReg_ne_of_ne (facing_ne p))
      (List.not_mem_cons_of_ne_of_not_mem (portReg_ne rfl) List.not_mem_nil)))
  have hport : v.port p = { t.port p with own := none, nbr := none, agreed := none, tx := txOf v p } := by
    rw [hv, port_settleTx_self, State.port_setPort_self]
  refine ⟨v, sendNotice v p 2, (hrd _).trans hst, (hrd _).trans hevt, by rw [hport], by rw [hport], by rw [hport], ?_, ?_, ?_⟩
  · rw [hv]
    exact ringFrame_settleTx (portFrame_setPort _ hframe)
  · rw [sendNotice_eq, hfac]
  · rw [hv, ht]
    rfl

/-- Settles O19: the commands that lead to the agreed lap, when it comes, and what a port does that goes UP (`toUp_spec`). -/
theorem unwrapIsAgreed : Obligations.UnwrapIsAgreed := by
  unfold Obligations.UnwrapIsAgreed
  intro p s hp hr
  refine ⟨fun h3 hv => ⟨proposal s p, _, proposal_cases s p, exec_unwrapRequest hp hr h3 hv, ?_, setPort_emit_frame s p _ _⟩,
    fun l ho ha => exec_unwrapResend hp hr ho ha, fun lap h3 ho => ⟨_, exec_unwrapAck_unproposed hp hr h3 ho lap, ?_, rfl, setPort_frame s p _⟩,
    inFreeOf_iff s p, fun a b l h3 ho hl => unwrapRequest_agrees hp hr h3 ho b hl, fun a l h3 ho => unwrapAck_agrees hp hr h3 ho l,
    fun l h3 ha => ⟨exec_unwrap hp hr h3 ha, fun d hd => unwrapAt_cases s p l hd⟩, toUp_spec s p, fun h => ?_,
    fun f => ⟨ringSend_notice, fun h => ringSend_waits (o := .notice f) h⟩⟩
  · rw [port_setPort_emit]
  · rw [State.port_setPort_self]
  · rw [exec_faultNoticeRefresh hp hr h, sendNotice_eq]

end Sys2Proof.Machine

/-! SUPPORT. Obligation O20: the link-delay exchange of a port, and the filter of its samples. -/

namespace Sys2Proof.Machine

/-! ## The exchange (R50, R51) -/

/-- A port may start a frame: it sends nothing, and is in TRIAL, or UP inside its free window. -/
theorem ringMay_iff (s : State) (p n : Nat) : ringMay s p n = true ↔ (s.port p).sendTo ≤ ftNs s ∧ (s.port p).trainTo ≤ ftNs s ∧
    (rd s (WELT_PORT_STAT_STATE p) = 3 ∨ (rd s (WELT_PORT_STAT_STATE p) = 4 ∧ (tLap s = 0 ∨ mayStart s p n = true))) := by
  simp only [ringMay, ringBusy, isUp, portState, pTrial, pUp, Bool.and_eq_true, Bool.or_eq_true, decide_eq_true_eq, beq_iff_eq,
    Nat.max_le, and_assoc]

/-- How long a frame takes depends on the rate of the port's ring alone. -/
theorem wireTenths_congr {s t : State} (h : t.trn = s.trn) (p n : Nat) : wireTenths t p n = wireTenths s p n := by
  rw [wireTenths, wireTenths, byteTenths, byteTenths, h]

/-- A request carries its sequence number and the time it leaves, and opens an exchange. -/
theorem ringLeave_request (s : State) (p : Nat) : ∃ t, ringLeave s p .request = t ∧ (t.port p).exch = some ((s.port p).seq, ftNow16 s) ∧
    (t.port p).seq = ((s.port p).seq + 1) % 65536 ∧ (t.port p).sendTo = ftNs s + (wireTenths s p 64 + 9) / 10 ∧
    t.out = .linkFrame p (linkPayload 1 (s.port p).seq (ftNow16 s) 0 0 0) :: s.out ∧ partsBut [.ports, .out] s t ∧
    ∀ m, m ≠ p → t.port m = s.port m := by
  obtain ⟨hparts, hports⟩ := setPort_frame s p { s.port p with sendTo := ftNs s + (wireTenths s p 64 + 9) / 10 }
  obtain ⟨u, hu⟩ : ∃ u, u = ringStart s p 64 := ⟨_, rfl⟩
  have hport : u.port p = { s.port p with sendTo := ftNs s + (wireTenths s p 64 + 9) / 10 } := by
    rw [hu, ringStart, State.port_setPort_self]
  have hleave : ringLeave s p .request = (u.setPort p
      { u.port p with exch := some ((u.port p).seq, ftNow16 s), seq := ((u.port p).seq + 1) % 65536 }).emit
      (.linkFrame p (linkPayload 1 (u.port p).seq (ftNow16 s) 0 0 0)) := by
    rw [hu]
    rfl
  obtain ⟨hout, hparts', hports'⟩ := setPort_emit_frame u p
    { u.port p with exch := some ((u.port p).seq, ftNow16 s), seq := ((u.port p).seq + 1) % 65536 }
    (.linkFrame p (linkPayload 1 (u.port p).seq (ftNow16 s) 0 0 0))
  have huparts : partsBut [.ports] s u := by rw [hu]; exact hparts
  have huports : ∀ m, m ≠ p → u.port m = s.port m := by rw [hu]; exact hports
  refine ⟨_, hleave, ?_, ?_, ?_, ?_, partsBut_trans (partsBut_mono huparts (by decide)) hparts',
    fun m hm => (hports' m hm).trans (huports m hm)⟩
  · rw [port_setPort_emit, hport]
  · rw [port_setPort_emit, hport]
  · rw [port_setPort_emit, hport]
  · rw [hout, hport, huparts .out (by decide)]

section
variable {s : State} {p : Nat} (hp : p < 4) (hr : ¬(s.rst.busy = true ∧ s.rst.full = true))
include hp hr

theorem exec_linkDelayStart (h : rd s (WELT_PORT_STAT_STATE p) = 4 ∨
      rd s (WELT_PORT_STAT_STATE p) = 3 ∧ rd s (WELT_PORT_STAT_LDLY_VALID p) = 0) :
    exec (.linkDelayStart p) s = .next (ringSend s p .request) :=
  congrArg Host.Outcome.next ((ringAlive_on hp hr _).trans (if_pos (h.imp id fun g => ⟨g.1, by rw [flag_false g.2]; rfl⟩)))

/-- Cycles that pass leave the ring domain out of reset. -/
theorem ringAlive_advance (dt : Nat) (f : State → State) : ringAlive (advance s dt) p f = f (advance s dt) :=
  ringAlive_on hp (by rwa [advance_rst]) f

theorem exec_delayRequest {a ready : State} {dt turn : Nat} (ha : a = advance s dt) (hready : ready = stepFt a (turn * 2 ^ 32))
    (h : rd s (WELT_PORT_STAT_STATE p) = 3 ∨ rd s (WELT_PORT_STAT_STATE p) = 4) (seq : Nat) : exec (.delayRequest dt p seq turn) s = .next
      (if (s.port p).waiting.isEmpty = true ∧ ringMay ready p 64 = true then
        (a.setPort p { a.port p with sendTo := ((ringStart ready p 64).port p).sendTo }).emit
          (.linkFrame p (linkPayload 2 seq (ftNow16 a + turn) (ftNow16 a) turn 0))
      else a.setPort p { a.port p with waiting := (s.port p).waiting ++ [.response seq (ftNow16 a)] }) := by
  subst hready ha
  refine congrArg Host.Outcome.next ((ringAlive_advance hp hr dt _).trans (if_neg ?_))
  have hst : portState (advance s dt) p = rd s (WELT_PORT_STAT_STATE p) := rd_advance s dt _
  rw [hst]
  exact fun g => h.elim g.1 g.2

theorem exec_delayResponse {n t1 : Nat} (hx : (s.port p).exch = some (n, t1)) (dt sub turn : Nat) {u : State}
    (hu : u = (advance s dt).setPort p { (advance s dt).port p with exch := none }) : exec (.delayResponse dt sub p n turn) s = .next
      (filterSample u p (roundDiv ((ftNow16 u : Int) + roundDiv (cycleUnits u * sub) (32 * 2 ^ 32) - t1 - turn) 2 + rdI u (WELT_ASYM_ASYM p))) := by
  have hx' : ((advance s dt).port p).exch = some (n, t1) := hx
  change execDelayResponse dt sub p n turn s = _
  rw [execDelayResponse, ringAlive_advance hp hr, hx', hu]
  exact congrArg Host.Outcome.next (if_neg (not_not.2 rfl))

theorem exec_delayNoResponse : exec (.delayNoResponse p) s = .next (s.setPort p { s.port p with exch := none }) :=
  congrArg Host.Outcome.next (ringAlive_on hp hr _)

/-- No response ends the exchange alone. -/
theorem delayNoResponse_spec : ∃ t, exec (.delayNoResponse p) s = .next t ∧ (t.port p).exch = none ∧ (t.port p).ldN = (s.port p).ldN ∧
    (t.port p).ldRej = (s.port p).ldRej ∧ partsBut [.ports] s t ∧ ∀ m, m ≠ p → t.port m = s.port m := by
  refine ⟨_, exec_delayNoResponse hp hr, ?_, ?_, ?_, setPort_frame s p _⟩
  all_goals rw [State.port_setPort_self]

/-- A request that arrives is answered where a frame may start TURN later, and kept waiting otherwise. -/
theorem delayRequest_spec (dt seq turn : Nat) {a ready : State} (ha : a = advance s dt) (hready : ready = stepFt a (turn * 2 ^ 32))
    (h : rd s (WELT_PORT_STAT_STATE p) = 3 ∨ rd s (WELT_PORT_STAT_STATE p) = 4) :
    ((s.port p).waiting = [] → ringMay ready p 64 = true → ∃ t, exec (.delayRequest dt p seq turn) s = .next t ∧
      t.out = .linkFrame p (linkPayload 2 seq (ftNow16 a + turn) (ftNow16 a) turn 0) :: a.out ∧
      (t.port p).sendTo = ftNs ready + (wireTenths s p 64 + 9) / 10 ∧ t.clk = a.clk ∧
      partsBut [.clk, .ports, .out] s t ∧ ∀ m, m ≠ p → t.port m = s.port m) ∧
    (¬((s.port p).waiting = [] ∧ ringMay ready p 64 = true) → exec (.delayRequest dt p seq turn) s =
      .next (a.setPort p { a.port p with waiting := (s.port p).waiting ++ [.response seq (ftNow16 a)] })) := by
  have hexec := exec_delayRequest hp hr ha hready h seq
  refine ⟨fun hw hm => ?_, fun hn => hexec.trans (congrArg Host.Outcome.next (if_neg (by rwa [List.isEmpty_iff])))⟩
  obtain ⟨hout, hparts, hports⟩ := setPort_emit_frame a p { a.port p with sendTo := ((ringStart ready p 64).port p).sendTo }
    (.linkFrame p (linkPayload 2 seq (ftNow16 a + turn) (ftNow16 a) turn 0))
  have haparts : partsBut [.clk] s a := by rw [ha]; exact partsBut_advance s dt
  have hsend : ((ringStart ready p 64).port p).sendTo = ftNs ready + (wireTenths s p 64 + 9) / 10 := by
    have htrn : ready.trn = s.trn := by rw [hready, ha, stepFt_trn, advance_trn]
    rw [ringStart, State.port_setPort_self, ← wireTenths_congr htrn]
  refine ⟨_, hexec.trans (congrArg Host.Outcome.next (if_pos ⟨List.isEmpty_iff.2 hw, hm⟩)), hout, ?_, rfl,
    partsBut_trans (partsBut_mono haparts (by decide)) (partsBut_mono hparts (by decide)),
    fun m hm => (hports m hm).trans (State.port_congr m (haparts .ports (by decide)))⟩
  rw [port_setPort_emit, hsend]

/-- The response that carries the exchange's sequence number ends it and gives the sample. -/
theorem delayResponse_spec {n t1 : Nat} (hx : (s.port p).exch = some (n, t1)) (dt sub turn : Nat) : ∃ u, (u.port p).exch = none ∧
    u.clk = (advance s dt).clk ∧ partsBut [.clk, .ports] s u ∧ (∀ m, m ≠ p → u.port m = s.port m) ∧
    exec (.delayResponse dt sub p n turn) s = .next (filterSample u p
      (roundDiv ((ftNow16 u : Int) + roundDiv (cycleUnits u * sub) (32 * 2 ^ 32) - t1 - turn) 2 + rdI u (WELT_ASYM_ASYM p))) := by
  obtain ⟨hparts, hports⟩ := setPort_frame (advance s dt) p { (advance s dt).port p with exch := none }
  refine ⟨(advance s dt).setPort p { (advance s dt).port p with exch := none }, ?_, rfl,
    partsBut_trans (partsBut_mono (partsBut_advance s dt) (by decide)) (partsBut_mono hparts (by decide)), hports,
    exec_delayResponse hp hr hx dt sub turn rfl⟩
  rw [State.port_setPort_self]

end

/-! ## The filter (R52) -/

/-- A sample is counted, and the filter's own state follows. -/
def sampled (s : State) (p : Nat) (c : Fld) (x : Port) : State := (incWrap s c).setPort p x

theorem sampled_spec (s : State) (p : Nat) (x : Port) {c : Fld} (hc : c.fits = true) (ha : c.addr = (WELT_LDLY_CNT_OK p).addr) :
    rd (sampled s p c x) c = (rd s c + 1) % 2 ^ c.w ∧ (sampled s p c x).port p = x ∧
    portFrame p [(WELT_LDLY_CNT_OK p).addr] s (sampled s p c x) :=
  ⟨(rd_setPort _ p x c).trans (rd_incWrap_self s c (Nat.le_of_ble_eq_true hc)), State.port_setPort_self _ p x,
    portFrame_setPort x (portFrame_of_regsOnly (ha ▸ regsOnly_wr s c _))⟩

theorem setLdly_spec (s : State) (p v : Nat) : rd (setLdly s p v) (WELT_LDLY_NS p) = v / 65536 % 65536 ∧
    rd (setLdly s p v) (WELT_LDLY_FRAC p) = v % 65536 ∧ (setLdly s p v).port p = s.port p ∧
    regsOnly [(WELT_LDLY_NS p).addr] s (setLdly s p v) := by
  have hregs : regsOnly [(WELT_LDLY_NS p).addr] s (setLdly s p v) :=
    regsOnly_trans (regsOnly_wr s (WELT_LDLY_NS p) _) (regsOnly_wr _ (WELT_LDLY_FRAC p) _)
  refine ⟨?_, ?_, State.port_congr p (hregs.1 .ports (by decide)), hregs⟩
  all_goals simp only [setLdly, wrs_cons, wrs_nil]
  · rw [rd_wr_apart _ _ rfl rfl, rd_wr_half _ _ rfl rfl]
  · rw [rd_wr_half _ _ rfl rfl, Nat.mod_mod]

theorem ldlyOf_congr {l : List Nat} {s t : State} {p : Nat} (h : cellsBut l s t) (hl : (WELT_LDLY_NS p).addr ∉ l) : ldlyOf t p = ldlyOf s p := by
  rw [ldlyOf, ldlyOf, rd_of_cellsBut h _ hl, rd_of_cellsBut h (WELT_LDLY_FRAC p) hl]

/-- The registers that the filter of a port writes. -/
def ldlyRegs (p : Nat) : List Nat :=
  [(WELT_PORT_STAT_LDLY_VALID p).addr, (WELT_LDLY_NS p).addr, (WELT_LDLY_CNT_OK p).addr, (WELT_PORT_EVT_LDLY_RANGE p).addr]

section
variable {s : State} {p : Nat} {x : Int}

/-- A sample out of range is rejected and clears LDLY_VALID. -/
theorem filterSample_range (h : x < 0 ∨ 65535 * 65536 < x) : ∃ t, filterSample s p x = t ∧ portFrame p (ldlyRegs p) s t ∧
    rd t (WELT_PORT_EVT_LDLY_RANGE p) = 1 ∧ rd t (WELT_PORT_STAT_LDLY_VALID p) = 0 ∧ (t.port p).ldN = 0 ∧ ldlyOf t p = ldlyOf s p ∧
    rd t (WELT_LDLY_CNT_REJ p) = (rd s (WELT_LDLY_CNT_REJ p) + 1) % 65536 := by
  obtain ⟨u, hu⟩ : ∃ u, u = wr (incWrap s (WELT_LDLY_CNT_REJ p)) (WELT_PORT_EVT_LDLY_RANGE p) 1 := ⟨_, rfl⟩
  have heq : filterSample s p x = unvalid u p := hu ▸ if_pos h
  have hregs : regsOnly [(WELT_LDLY_CNT_OK p).addr, (WELT_PORT_EVT_LDLY_RANGE p).addr] s u := by
    rw [hu]
    exact regsOnly_trans (regsOnly_mono (regsOnly_wr s (WELT_LDLY_CNT_REJ p) _) fun a ha => List.mem_cons.2 (.inl (List.mem_singleton.1 ha)))
      (regsOnly_mono (regsOnly_wr _ (WELT_PORT_EVT_LDLY_RANGE p) 1) (by simp))
  have hrej : rd u (WELT_LDLY_CNT_REJ p) = (rd s (WELT_LDLY_CNT_REJ p) + 1) % 65536 := by
    rw [hu, rd_wr_apart _ _ rfl rfl, incWrap, rd_wr_half _ _ rfl rfl]
  have hevt : rd u (WELT_PORT_EVT_LDLY_RANGE p) = 1 := by rw [hu, rd_wr_bit _ _ rfl rfl]
  have hframe : portFrame p (ldlyRegs p) s (unvalid u p) := portFrame_setPort _ (portFrame_wr
    (portFrame_of_regsOnly (regsOnly_mono hregs (by simp [ldlyRegs]))) (by simp [ldlyRegs]))
  have hrd : ∀ f, (WELT_PORT_STAT_LDLY_VALID p).apart f = true → rd (unvalid u p) f = rd u f := fun f hf =>
    (rd_setPort _ _ _ f).trans (rd_wr_apart u 0 rfl hf)
  have hldly : ldlyOf u p = ldlyOf s p :=
    ldlyOf_congr hregs.2 (by simp [WELT_LDLY_NS, WELT_LDLY_CNT_OK, WELT_PORT_EVT_LDLY_RANGE])
  refine ⟨_, heq, hframe, (hrd _ rfl).trans hevt, (rd_setPort _ _ _ _).trans (rd_wr_bit u 0 rfl rfl), ?_, ?_, (hrd _ rfl).trans hrej⟩
  · rw [unvalid, State.port_setPort_self]
  · rw [← hldly]
    exact ldlyOf_congr (l := [(WELT_PORT_STAT_LDLY_VALID p).addr]) (cellsBut_wr u (WELT_PORT_STAT_LDLY_VALID p) 0)
      (by simp [WELT_LDLY_NS, WELT_PORT_STAT_LDLY_VALID])

variable (h0 : 0 ≤ x) (h1 : x ≤ 65535 * 65536)
include h0 h1

/-- Without LDLY_VALID good samples are averaged, and the fourth sets WELT_LDLY. -/
theorem filterSample_invalid (hv : rd s (WELT_PORT_STAT_LDLY_VALID p) = 0) : ∃ t, filterSample s p x = t ∧ portFrame p (ldlyRegs p) s t ∧
    rd t (WELT_LDLY_CNT_OK p) = (rd s (WELT_LDLY_CNT_OK p) + 1) % 65536 ∧
    if (s.port p).ldN = 3 then rd t (WELT_PORT_STAT_LDLY_VALID p) = 1 ∧
      rd t (WELT_LDLY_NS p) = (roundDiv ((s.port p).ldSum + x) 4).toNat / 65536 % 65536 ∧
      rd t (WELT_LDLY_FRAC p) = (roundDiv ((s.port p).ldSum + x) 4).toNat % 65536
    else rd t (WELT_PORT_STAT_LDLY_VALID p) = 0 ∧ (t.port p).ldN = (s.port p).ldN + 1 ∧
      (t.port p).ldSum = (s.port p).ldSum + x ∧ ldlyOf t p = ldlyOf s p := by
  have heq : filterSample s p x = if (s.port p).ldN = 3 then
      wr (setLdly (sampled s p (WELT_LDLY_CNT_OK p) { s.port p with ldN := 0, ldSum := 0, ldRej := 0 }) p
        (roundDiv ((s.port p).ldSum + x) 4).toNat) (WELT_PORT_STAT_LDLY_VALID p) 1
      else sampled s p (WELT_LDLY_CNT_OK p) { s.port p with ldN := (s.port p).ldN + 1, ldSum := (s.port p).ldSum + x } :=
    (if_neg (by omega)).trans (if_pos (by rw [flag_false hv]; rfl))
  by_cases hn : (s.port p).ldN = 3
  · simp only [if_pos hn] at heq ⊢
    obtain ⟨hok, -, hframe⟩ := sampled_spec s p { s.port p with ldN := 0, ldSum := 0, ldRej := 0 } (c := WELT_LDLY_CNT_OK p) rfl rfl
    obtain ⟨hns, hfrac, -, hregs⟩ := setLdly_spec (sampled s p (WELT_LDLY_CNT_OK p) { s.port p with ldN := 0, ldSum := 0, ldRej := 0 }) p
      (roundDiv ((s.port p).ldSum + x) 4).toNat
    refine ⟨_, heq, portFrame_wr (portFrame_trans (portFrame_mono hframe (by simp [ldlyRegs]))
      (portFrame_of_regsOnly (regsOnly_mono hregs (by simp [ldlyRegs])))) (by simp [ldlyRegs]), ?_, rd_wr_bit _ 1 rfl rfl, ?_, ?_⟩
    · exact (rd_wr_portReg _ 1 rfl rfl rfl).trans ((rd_of_cellsBut_one hregs.2 (portReg_ne rfl)).trans hok)
    · exact (rd_wr_portReg _ 1 rfl rfl rfl).trans hns
    · exact (rd_wr_portReg _ 1 rfl rfl rfl).trans hfrac
  · simp only [if_neg hn] at heq ⊢
    obtain ⟨hok, hport, hframe⟩ := sampled_spec s p { s.port p with ldN := (s.port p).ldN + 1, ldSum := (s.port p).ldSum + x }
      (c := WELT_LDLY_CNT_OK p) rfl rfl
    refine ⟨_, heq, portFrame_mono hframe (by simp [ldlyRegs]), hok, (rd_of_cellsBut_one hframe.2.1 (portReg_ne rfl)).trans hv,
      by rw [hport], by rw [hport], ldlyOf_congr hframe.2.1 (by simp [WELT_LDLY_NS, WELT_LDLY_CNT_OK])⟩

section
variable (hv : rd s (WELT_PORT_STAT_LDLY_VALID p) = 1)
include hv

/-- With LDLY_VALID a good sample is near to WELT_LDLY, or the fourth far one in a row, or one before it. -/
theorem filterSample_good : filterSample s p x = if (x - ldlyOf s p).natAbs ≤ 100 * 65536 then
      setLdly (sampled s p (WELT_LDLY_CNT_OK p) { s.port p with ldRej := 0 }) p (roundDiv ((ldlyOf s p : Int) * 8 + (x - ldlyOf s p)) 8).toNat
    else if (s.port p).ldRej = 3 then
      setLdly (wr (sampled s p (WELT_LDLY_CNT_REJ p) { s.port p with ldRej := 0 }) (WELT_PORT_EVT_LDLY_STEP p) 1) p x.toNat
    else sampled s p (WELT_LDLY_CNT_REJ p) { s.port p with ldRej := (s.port p).ldRej + 1 } :=
  (if_neg (by omega)).trans (if_neg (by rw [flag_true hv]; exact Bool.false_ne_true))

/-- A near sample moves WELT_LDLY by an eighth of the difference. -/
theorem filterSample_near (hd : (x - ldlyOf s p).natAbs ≤ 100 * 65536) : ∃ t, filterSample s p x = t ∧ portFrame p (ldlyRegs p) s t ∧
    rd t (WELT_PORT_STAT_LDLY_VALID p) = 1 ∧ (t.port p).ldRej = 0 ∧
    rd t (WELT_LDLY_NS p) = (roundDiv ((ldlyOf s p : Int) * 8 + (x - ldlyOf s p)) 8).toNat / 65536 % 65536 ∧
    rd t (WELT_LDLY_FRAC p) = (roundDiv ((ldlyOf s p : Int) * 8 + (x - ldlyOf s p)) 8).toNat % 65536 := by
  obtain ⟨-, hport, hframe⟩ := sampled_spec s p { s.port p with ldRej := 0 } (c := WELT_LDLY_CNT_OK p) rfl rfl
  obtain ⟨hns, hfrac, hsame, hregs⟩ := setLdly_spec (sampled s p (WELT_LDLY_CNT_OK p) { s.port p with ldRej := 0 }) p
    (roundDiv ((ldlyOf s p : Int) * 8 + (x - ldlyOf s p)) 8).toNat
  refine ⟨_, (filterSample_good h0 h1 hv).trans (if_pos hd), portFrame_trans (portFrame_mono hframe (by simp [ldlyRegs]))
    (portFrame_of_regsOnly (regsOnly_mono hregs (by simp [ldlyRegs]))), ?_, by rw [hsame, hport], hns, hfrac⟩
  exact (rd_of_cellsBut_one hregs.2 (portReg_ne rfl)).trans ((rd_of_cellsBut_one hframe.2.1 (portReg_ne rfl)).trans hv)

/-- The fourth far sample in a row replaces WELT_LDLY. -/
theorem filterSample_replaced (hd : ¬(x - ldlyOf s p).natAbs ≤ 100 * 65536) (hj : (s.port p).ldRej = 3) :
    ∃ t, filterSample s p x = t ∧ portFrame p (ldlyRegs p) s t ∧ rd t (WELT_PORT_STAT_LDLY_VALID p) = 1 ∧ (t.port p).ldRej = 0 ∧
      rd t (WELT_PORT_EVT_LDLY_STEP p) = 1 ∧ rd t (WELT_LDLY_NS p) = x.toNat / 65536 % 65536 ∧
      rd t (WELT_LDLY_FRAC p) = x.toNat % 65536 := by
  obtain ⟨-, hport, hframe⟩ := sampled_spec s p { s.port p with ldRej := 0 } (c := WELT_LDLY_CNT_REJ p) rfl rfl
  obtain ⟨u, hu⟩ : ∃ u, u = wr (sampled s p (WELT_LDLY_CNT_REJ p) { s.port p with ldRej := 0 }) (WELT_PORT_EVT_LDLY_STEP p) 1 := ⟨_, rfl⟩
  have hstep : rd u (WELT_PORT_EVT_LDLY_STEP p) = 1 := by rw [hu, rd_wr_bit _ _ rfl rfl]
  have huv : rd u (WELT_PORT_STAT_LDLY_VALID p) = 1 := by
    rw [hu, rd_wr_apart _ _ rfl rfl, rd_of_cellsBut_one hframe.2.1 (portReg_ne rfl), hv]
  have huport : u.port p = { s.port p with ldRej := 0 } := by rw [hu, State.port_wr, hport]
  have huframe : portFrame p (ldlyRegs p) s u := by
    rw [hu]
    exact portFrame_wr (portFrame_mono hframe (by simp [ldlyRegs]))
      (by simp [ldlyRegs, WELT_PORT_EVT_LDLY_STEP, WELT_PORT_EVT_LDLY_RANGE])
  obtain ⟨hns, hfrac, hsame, hregs⟩ := setLdly_spec u p x.toNat
  have heq : filterSample s p x = setLdly u p x.toNat := by rw [filterSample_good h0 h1 hv, if_neg hd, if_pos hj, hu]
  exact ⟨_, heq, portFrame_trans huframe (portFrame_of_regsOnly (regsOnly_mono hregs (by simp [ldlyRegs]))),
    (rd_of_cellsBut_one hregs.2 (portReg_ne rfl)).trans huv, by rw [hsame, huport],
    (rd_of_cellsBut_one hregs.2 (portReg_ne rfl)).trans hstep, hns, hfrac⟩

/-- A far sample before the fourth is rejected. -/
theorem filterSample_far (hd : ¬(x - ldlyOf s p).natAbs ≤ 100 * 65536) (hj : (s.port p).ldRej ≠ 3) :
    ∃ t, filterSample s p x = t ∧ portFrame p (ldlyRegs p) s t ∧ rd t (WELT_PORT_STAT_LDLY_VALID p) = 1 ∧
      (t.port p).ldRej = (s.port p).ldRej + 1 ∧ ldlyOf t p = ldlyOf s p := by
  obtain ⟨-, hport, hframe⟩ := sampled_spec s p { s.port p with ldRej := (s.port p).ldRej + 1 } (c := WELT_LDLY_CNT_REJ p) rfl rfl
  exact ⟨_, (filterSample_good h0 h1 hv).trans ((if_neg hd).trans (if_neg hj)), portFrame_mono hframe (by simp [ldlyRegs]),
    (rd_of_cellsBut_one hframe.2.1 (portReg_ne rfl)).trans hv, by rw [hport],
    ldlyOf_congr hframe.2.1 (by simp [WELT_LDLY_NS, WELT_LDLY_CNT_OK])⟩

theorem filterSample_valid : ∃ t, filterSample s p x = t ∧ portFrame p (ldlyRegs p) s t ∧
    rd t (WELT_PORT_STAT_LDLY_VALID p) = 1 ∧
    if (x - ldlyOf s p).natAbs ≤ 100 * 65536 then (t.port p).ldRej = 0 ∧
      rd t (WELT_LDLY_NS p) = (roundDiv ((ldlyOf s p : Int) * 8 + (x - ldlyOf s p)) 8).toNat / 65536 % 65536 ∧
      rd t (WELT_LDLY_FRAC p) = (roundDiv ((ldlyOf s p : Int) * 8 + (x - ldlyOf s p)) 8).toNat % 65536
    else if (s.port p).ldRej = 3 then (t.port p).ldRej = 0 ∧ rd t (WELT_PORT_EVT_LDLY_STEP p) = 1 ∧
      rd t (WELT_LDLY_NS p) = x.toNat / 65536 % 65536 ∧ rd t (WELT_LDLY_FRAC p) = x.toNat % 65536
    else (t.port p).ldRej = (s.port p).ldRej + 1 ∧ ldlyOf t p = ldlyOf s p := by
  split
  · next hd => exact filterSample_near h0 h1 hv hd
  · next hd =>
    split
    · next hj => exact filterSample_replaced h0 h1 hv hd hj
    · next hj => exact filterSample_far h0 h1 hv hd hj

end

end

/-- Every sample is in range or not, and LDLY_VALID is 0 or 1: what the filter writes is one of the three cases. -/
theorem filterSample_frame (s : State) (p : Nat) (x : Int) : portFrame p (ldlyRegs p) s (filterSample s p x) := by
  by_cases h : x < 0 ∨ 65535 * 65536 < x
  · obtain ⟨t, ht, hframe, -⟩ := filterSample_range (s := s) (p := p) h
    rwa [ht]
  · obtain hv | hv := rd_bit s (f := WELT_PORT_STAT_LDLY_VALID p) rfl
    · obtain ⟨t, ht, hframe, -⟩ := filterSample_invalid (s := s) (p := p) (x := x) (by omega) (by omega) hv
      rwa [ht]
    · obtain ⟨t, ht, hframe, -⟩ := filterSample_valid (s := s) (p := p) (x := x) (by omega) (by omega) hv
      rwa [ht]

/-- Settles O20: the frames of the exchange (`ringLeave_request`, `delayRequest_spec`, `delayResponse_spec`) and the filter's
three cases. -/
theorem linkDelayIsMeasured : Obligations.LinkDelayIsMeasured := by
  unfold Obligations.LinkDelayIsMeasured
  intro p s hp hr
  refine ⟨ringMay_iff s p, fun h => ⟨fun hw hm => ?_, fun hn => ?_⟩, fun dt seq turn a ready ha hready h =>
    delayRequest_spec hp hr dt seq turn ha hready h, fun dt sub n t1 turn hx => delayResponse_spec hp hr hx dt sub turn,
    delayNoResponse_spec hp hr, fun x => ⟨_, rfl, filterSample_frame s p x, fun h => ?_, fun h0 h1 hv => ?_, fun h0 h1 hv => ?_⟩⟩
  · obtain ⟨t, ht, hrest⟩ := ringLeave_request s p
    exact ⟨t, by rw [exec_linkDelayStart hp hr h, ringSend_leaves (o := .request) hw hm, ht], hrest⟩
  · rw [exec_linkDelayStart hp hr h, ringSend_waits (o := .request) hn]
    rfl
  · obtain ⟨t, ht, -, hrest⟩ := filterSample_range (s := s) (p := p) h
    rw [ht]; exact hrest
  · obtain ⟨t, ht, -, hrest⟩ := filterSample_invalid (p := p) h0 h1 hv
    rw [ht]; exact hrest
  · obtain ⟨t, ht, -, hrest⟩ := filterSample_valid (p := p) h0 h1 hv
    rw [ht]; exact hrest

end Sys2Proof.Machine

/-! SUPPORT. Obligation O24: words of memory, the ageing of the Ledger, copy selection, and writes of the back buffers. -/

namespace Sys2Proof.Machine

/-! ## Words of memory (R5) -/

/-- What little-endian bytes of a number make is the number, modulo their width. -/
theorem leNat_leBytes (n v : Nat) : leNat (leBytes n v) = v % 256 ^ n := by
  induction n generalizing v with
  | zero => simp [leBytes, leNat, Nat.mod_one]
  | succ n ih =>
    rw [leBytes, leNat, ih, BitVec.toNat_ofNat, Nat.pow_succ' (m := 256), Nat.mod_mul]

/-- A run of bytes that is written reads back. -/
theorem memBytes_memPuts (s : State) (a : Nat) (l : List Byte) : memBytes (memPuts s a l) a l.length = l := by
  induction l generalizing s a with
  | nil => rfl
  | cons b l ih =>
    rw [List.length_cons, memBytes, memPuts, ih, memGet_memPuts_out _ _ _ _ (by omega), memGet_memPut_self]

/-- A word of memory that is written reads back, modulo 32 bits. -/
theorem memWord_memPutWord (s : State) (a v : Nat) : memWord (memPutWord s a v) a = v % 2 ^ 32 := by
  have h := memBytes_memPuts s a (leBytes 4 v)
  rw [length_leBytes] at h
  rw [memWord, memPutWord, h, leNat_leBytes]
  rfl

/-- A word reads alike where its bytes do. -/
theorem memWord_congr {s t : State} {a : Nat} (h : ∀ b, a ≤ b → b < a + 4 → memGet t b = memGet s b) : memWord t a = memWord s a := by
  simp only [memWord, memBytes]
  rw [h a (by omega) (by omega), h (a + 1) (by omega) (by omega), h (a + 1 + 1) (by omega) (by omega),
    h (a + 1 + 1 + 1) (by omega) (by omega)]

theorem partsBut_memPuts (s : State) (a : Nat) (l : List Byte) : partsBut [.mem] s (memPuts s a l) := by
  intro p hp
  cases p <;> simp [Part.same] at hp ⊢

theorem partsBut_memPutWord (s : State) (a v : Nat) : partsBut [.mem] s (memPutWord s a v) := partsBut_memPuts s a _

/-! ## Status words of the Ledger (R94, R100) -/

/-- A status word that is written reads back; those of the other entries stay. -/
theorem stWord_setStWord (s : State) (e v f : Nat) : stWord (setStWord s e v) f = if f = e then v % 2 ^ 32 else stWord s f := by
  by_cases h : f = e
  · rw [if_pos h, h]
    exact memWord_memPutWord s _ v
  · rw [if_neg h]
    exact memWord_congr fun b h1 h2 => memGet_memPutWord_ne s _ v b (by simp only [statusAddr] at h1 h2 ⊢; omega)

/-- The status words of a list of entries written. -/
def setStWords (s : State) (l : List Nat) (g : Nat → Nat) : State := each l (fun u e => setStWord u e (g e)) s

theorem stWord_setStWords (s : State) (l : List Nat) (g : Nat → Nat) (f : Nat) :
    stWord (setStWords s l g) f = if f ∈ l then g f % 2 ^ 32 else stWord s f := by
  induction l generalizing s with
  | nil => simp [setStWords, each]
  | cons e l ih =>
    have h : setStWords s (e :: l) g = setStWords (setStWord s e (g e)) l g := rfl
    rw [h, ih, stWord_setStWord]
    by_cases hl : f ∈ l <;> by_cases he : f = e <;> simp [hl, he]

theorem partsBut_setStWords (s : State) (l : List Nat) (g : Nat → Nat) : partsBut [.mem] s (setStWords s l g) :=
  partsBut_each _ _ _ s fun u _ => partsBut_memPutWord u _ _

/-- The status words lie in 0x500E_0000 to 0x500E_DFFF: the other bytes stay. -/
theorem memGet_setStWords (s : State) (l : List Nat) (g : Nat → Nat) (hl : ∀ e ∈ l, e < 14336) (a : Nat)
    (ha : a < 0x500E0000 ∨ 0x500EE000 ≤ a) : memGet (setStWords s l g) a = memGet s a :=
  each_same s (fun u => memGet u a) _ l fun u e he =>
    memGet_memPutWord_ne u _ _ a (by have := hl e he; simp only [statusAddr]; omega)

/-! ## Ageing (R100, R101) -/

/-- The Ledger has the space for 14,336 entries. -/
theorem lt_of_mem_heldEntries {s : State} {e : Nat} (h : e ∈ heldEntries s) : e < 14336 := by
  simp only [heldEntries, List.mem_map, List.mem_filter, Bool.and_eq_true, decide_eq_true_eq] at h
  obtain ⟨c, ⟨-, ⟨⟨h1, h2⟩, -⟩, -⟩, rfl⟩ := h
  omega

/-- The acceptance bits of ticks gone by are cleared. -/
def acceptedKept (s t : State) : State :=
  { t with ldg := { t.ldg with accepted := t.ldg.accepted.filter fun x => decide (ledgerTick s ≤ x.2) } }

theorem partsBut_acceptedKept (s t : State) : partsBut [.ldg] t (acceptedKept s t) := by
  intro p hp
  cases p <;> simp [Part.same, acceptedKept] at hp ⊢

/-- Where no entry turns STALE, ageing writes the status words of the held entries and clears old acceptance bits. -/
theorem ageAll_quiet {s : State} (h : ((heldEntries s).filter fun e => turnsStale s (stWord s e) (agedWord s e)) = []) :
    ageAll s = acceptedKept s (setStWords s (heldEntries s) (agedWord s)) := by
  unfold ageAll
  simp only [h]
  rfl

theorem ageAll_quiet_spec {s : State} (h : ((heldEntries s).filter fun e => turnsStale s (stWord s e) (agedWord s e)) = []) :
    (ageAll s).ldg.accepted = s.ldg.accepted.filter (fun x => decide (ledgerTick s ≤ x.2)) ∧ partsBut [.mem, .ldg] s (ageAll s) ∧
    (∀ e ∈ heldEntries s, stWord (ageAll s) e = agedWord s e % 2 ^ 32) ∧
    ∀ a, a < 0x500E0000 ∨ 0x500EE000 ≤ a → memGet (ageAll s) a = memGet s a := by
  rw [ageAll_quiet h]
  have hparts := partsBut_setStWords s (heldEntries s) (agedWord s)
  refine ⟨?_, ?_, fun e he => ?_, memGet_setStWords s _ _ fun e => lt_of_mem_heldEntries⟩
  · rw [acceptedKept, hparts .ldg (by decide)]
  · exact partsBut_trans (partsBut_mono hparts (by decide)) (partsBut_mono (partsBut_acceptedKept s _) (by decide))
  · exact (stWord_setStWords s _ _ e).trans (if_pos he)

/-- The boundary that ageing takes: the one at hand, or the next one. -/
def agingBoundary (s : State) : State := toBoundary s (rd s TRD_TICK_NS_NS) s.ldg.last

/-- The state at that boundary, noted as taken. -/
def boundaryTaken (t : State) : State := { t with ldg := { t.ldg with last := some (tickNow t) } }

theorem partsBut_toBoundary (s : State) (p : Nat) (last : Option Int) : partsBut [.clk] s (toBoundary s p last) := by
  unfold toBoundary
  split
  · exact partsBut_refl _ s
  · split
    · exact partsBut_refl _ s
    · exact partsBut_advanceTo s _

theorem partsBut_boundaryTaken (t : State) : partsBut [.ldg] t (boundaryTaken t) := by
  intro p hp
  cases p <;> simp [Part.same, boundaryTaken] at hp ⊢

theorem exec_ledgerAging {s : State} (hb : s.rst.busy = false) (hp : rd s TRD_TICK_NS_NS ≠ 0) :
    exec .ledgerAging s = .next (degradedReturn (resumeDue (ageAll (boundaryTaken (agingBoundary s))))) :=
  congrArg Host.Outcome.next ((whenAlive_alive s _ hb).trans (if_neg hp))

/-- QUAL follows the first row of R101's table that holds. -/
theorem evalQual_eq (s : State) (w : Nat) : evalQual s w =
    if bitOf w 11 = false then 2
    else if bitOf w 13 = true ∧ w / 2 ^ 14 % 2 ^ 10 ≤ rd s LDG_CTRL_HOLD_LIMIT then 4
    else if max 1 (rd s (LDG_MAXAGE_MAXAGE (w / 2 ^ 29 % 8))) < w / 2 ^ 14 % 2 ^ 10 then 2
    else if bitOf w 12 = true then 3 else if w / 2 ^ 14 % 2 ^ 10 = 0 then 0 else 1 := by
  have hage : (if 1 ≤ w / 2 ^ 14 % 2 ^ 10 then 1 else 0) = if w / 2 ^ 14 % 2 ^ 10 = 0 then 0 else 1 := by
    split <;> split <;> omega
  rw [← hage]
  unfold evalQual
  simp only [Bool.not_eq_true', bits, maxAge]
  rfl

/-! ## Copy selection (R71, R72) -/

theorem current_iff (τ x : Nat) : current τ x = true ↔ (τ + 256 - x % 256) % 256 < 64 := by
  rw [current, decide_eq_true_eq]
  omega

section
variable {τ stamp flags hs hf : Nat}

/-- An entry that holds no copy takes a current one. -/
theorem pick_none : pick τ none stamp flags = if (τ + 256 - stamp % 256) % 256 < 64 then .whole else .reject := by
  simp only [pick, current_iff]

/-- A copy of the stamp held counts for its flags, where its mark ranks higher. -/
theorem pick_sameStamp : pick τ (some (stamp, hf)) stamp flags = if rank hf < rank flags then .flags else .reject := by
  simp only [pick, if_true]

variable (hne : stamp ≠ hs)
include hne

/-- A copy that is not current is rejected. -/
theorem pick_stale (h : 64 ≤ (τ + 256 - stamp % 256) % 256) : pick τ (some (hs, hf)) stamp flags = .reject := by
  have hc : current τ stamp = false := by rw [← Bool.not_eq_true, current_iff]; omega
  simp [pick, hne, hc]

/-- A current copy replaces one whose stamp is stale. -/
theorem pick_heldStale (h : (τ + 256 - stamp % 256) % 256 < 64) (h' : 64 ≤ (τ + 256 - hs % 256) % 256) :
    pick τ (some (hs, hf)) stamp flags = .whole := by
  have hc : current τ stamp = true := (current_iff _ _).2 h
  have hc' : current τ hs = false := by rw [← Bool.not_eq_true, current_iff]; omega
  simp [pick, hne, hc, hc']

/-- Of two current copies the newer one stays, in the order of stamps modulo 256. -/
theorem pick_newer (h1 : stamp < 256) (h2 : hs < 256) (h : (τ + 256 - stamp % 256) % 256 < 64) (h' : (τ + 256 - hs % 256) % 256 < 64) :
    pick τ (some (hs, hf)) stamp flags = if (stamp + 256 - hs) % 256 < 128 then .whole else .reject := by
  have hc : current τ stamp = true := (current_iff _ _).2 h
  have hc' : current τ hs = true := (current_iff _ _).2 h'
  have hnew : (1 ≤ (stamp + 256 - hs) % 256 ∧ (stamp + 256 - hs) % 256 ≤ 127) ↔ (stamp + 256 - hs) % 256 < 128 := by omega
  simp [pick, hne, hc, hc', hnew]

end

/-! ## Writes of the back buffers (R106) -/

/-- The writer that the operand of ALIAS_WRITE names. -/
def aliasWriter (ini : Nat) : AliasWriter := if ini = 0 then .treadle else .software

theorem aliasOk_iff (s : State) (ini i : Nat) : aliasOk s (aliasWriter ini) i = true ↔
    if ini = 0 then bitOf (pubDesc s i) 19 = false ∧ droverIndex s i = false else bitOf (pubDesc s i) 19 = true := by
  unfold aliasWriter
  split <;> simp [aliasOk]

/-- What management is answered; the others are not. -/
def aliasAnswer (ini : Nat) (ok : Bool) (t : State) : State := if ini = 2 then t.emit (.busRsp 2 (if ok then 0 else 5) 0) else t

theorem partsBut_aliasAnswer (ini : Nat) (ok : Bool) (t : State) : partsBut [.out] t (aliasAnswer ini ok t) := by
  unfold aliasAnswer
  split
  · exact partsBut_emit t _
  · exact partsBut_refl _ t

theorem out_aliasAnswer (ini : Nat) (ok : Bool) (t : State) :
    (aliasAnswer ini ok t).out = if ini = 2 then .busRsp 2 (if ok then 0 else 5) 0 :: t.out else t.out := by
  unfold aliasAnswer
  split <;> rfl

section
variable {s : State} {ini i off : Nat} {bs : List Byte} (hb : s.rst.busy = false) (hi : i < 256) (hl : off + bs.length ≤ 64)
include hb hi hl

theorem exec_aliasWrite : exec (.aliasWrite ini i off bs) s =
    .next (aliasAnswer ini (aliasOk s (aliasWriter ini) i) (aliasWrite s (aliasWriter ini) i off bs)) :=
  congrArg Host.Outcome.next ((whenAlive_alive s _ hb).trans (if_neg (by omega)))

theorem aliasWrite_taken (hok : aliasOk s (aliasWriter ini) i = true) : ∃ t, exec (.aliasWrite ini i off bs) s = .next t ∧
    (∀ k, k < bs.length → memGet t (backBuf s i + off + k) = bs.getD k 0) ∧
    (∀ a, a < backBuf s i + off ∨ backBuf s i + off + bs.length ≤ a → memGet t a = memGet s a) ∧
    t.out = (if ini = 2 then .busRsp 2 0 0 :: s.out else s.out) ∧ partsBut [.mem, .out] s t := by
  have hw : aliasWrite s (aliasWriter ini) i off bs = memPuts s (backBuf s i + off) bs := if_pos hok
  have hmem := fun a => memGet_congr a
    (partsBut_aliasAnswer ini (aliasOk s (aliasWriter ini) i) (memPuts s (backBuf s i + off) bs) .mem (by decide))
  rw [exec_aliasWrite hb hi hl, hw]
  refine ⟨_, rfl, fun k hk => ?_, fun a ha => ?_, ?_, ?_⟩
  · rw [hmem, memGet_memPuts_in s _ k bs hk, List.getD_eq_getElem bs 0 hk]
  · rw [hmem, memGet_memPuts_out s _ a bs ha]
  · rw [out_aliasAnswer, hok, memPuts_out]
    rfl
  · exact partsBut_trans (partsBut_mono (partsBut_memPuts s _ _) (by decide)) (partsBut_mono (partsBut_aliasAnswer _ _ _) (by decide))

theorem aliasWrite_refused (hok : aliasOk s (aliasWriter ini) i = false) : ∃ t, exec (.aliasWrite ini i off bs) s = .next t ∧
    rd t LDG_PUB_REJ_COUNT = min (rd s LDG_PUB_REJ_COUNT + 1) (2 ^ LDG_PUB_REJ_COUNT.w - 1) ∧ rd t LDG_EVT_PUB_REJ = 1 ∧
    t.out = (if ini = 2 then .busRsp 2 5 0 :: s.out else s.out) ∧ partsBut [.regs, .out] s t ∧
    cellsBut [LDG_PUB_REJ_COUNT.addr, LDG_EVT_PUB_REJ.addr] s t := by
  obtain ⟨hcount, hevt, hparts, hcells⟩ := counted_spec s (c := LDG_PUB_REJ_COUNT) (e := LDG_EVT_PUB_REJ) rfl rfl rfl (by decide)
  have hw : aliasWrite s (aliasWriter ini) i off bs = wr (incSat s LDG_PUB_REJ_COUNT) LDG_EVT_PUB_REJ 1 := if_neg (by simp [hok])
  rw [exec_aliasWrite hb hi hl, hw]
  generalize wr (incSat s LDG_PUB_REJ_COUNT) LDG_EVT_PUB_REJ 1 = u at hcount hevt hparts hcells
  have hanswer := partsBut_aliasAnswer ini (aliasOk s (aliasWriter ini) i) u
  have hregs := hanswer .regs (by decide)
  refine ⟨_, rfl, (rd_congr _ hregs).trans hcount, (rd_congr _ hregs).trans hevt, ?_,
    partsBut_trans (partsBut_mono hparts (by decide)) (partsBut_mono hanswer (by decide)),
    fun a ha => (cellAt_congr a hregs).trans (hcells a ha)⟩
  rw [out_aliasAnswer, hok, hparts .out (by decide)]
  rfl

end

/-- Settles O24: ageing by `ageAll_quiet_spec`, the table by `evalQual_eq`, copy selection by the cases of `pick`, the alias by
`aliasWrite_taken` and `aliasWrite_refused`. -/
theorem ledgerAgesAndBuffersAreWritten : Obligations.LedgerAgesAndBuffersAreWritten := by
  unfold Obligations.LedgerAgesAndBuffersAreWritten
  refine ⟨fun s hb hp => ?_, evalQual_eq, fun τ stamp flags hs hf => ⟨pick_none, pick_sameStamp, pick_stale, pick_heldStale,
    fun h1 h2 hne => pick_newer hne h1 h2⟩, fun s ini i off bs hb hi hl => ?_⟩
  · have hclk := partsBut_toBoundary s (rd s TRD_TICK_NS_NS) s.ldg.last
    have hldg : (agingBoundary s).ldg = s.ldg := hclk .ldg (by decide)
    refine ⟨boundaryTaken (agingBoundary s), _, rfl, ?_, ?_, exec_ledgerAging hb hp, fun hq => ?_⟩
    · rw [boundaryTaken, hldg]
      rfl
    · exact partsBut_trans (partsBut_mono hclk (by decide)) (partsBut_mono (partsBut_boundaryTaken _) (by decide))
    · obtain ⟨hacc, hparts, hwords, hmem⟩ := ageAll_quiet_spec hq
      exact ⟨hacc, hparts, fun e he => ⟨_, rfl, hwords e he⟩, hmem⟩
  · by_cases hok : aliasOk s (aliasWriter ini) i = true
    · rw [if_pos ((aliasOk_iff s ini i).1 hok)]
      exact aliasWrite_taken hb hi hl hok
    · rw [if_neg fun h => hok ((aliasOk_iff s ini i).2 h)]
      exact aliasWrite_refused hb hi hl (Bool.not_eq_true _ ▸ hok)

end Sys2Proof.Machine

/-! SUPPORT. Obligation O12: the outcome of a scrubbed word, the end of a pass, and the telemetry slot. -/

namespace Sys2Proof.Machine

/-! ## A word that is lost (R69, R111, R309, R314) -/

theorem partsBut_markBad (s : State) (memc word : Nat) : partsBut [.bad] s (markBad s memc word) := by
  intro p hp
  cases p <;> simp [Part.same, markBad] at hp ⊢

theorem mem_bad_markBad (s : State) (memc word : Nat) : memc * 2 ^ 28 + word ∈ (markBad s memc word).bad := List.mem_cons_self

/-- The Ledger with a change of its own state alone. -/
def withLdg (s : State) (y : Ldg) : State := { s with ldg := y }

theorem partsBut_withLdg (s : State) (y : Ldg) : partsBut [.ldg] s (withLdg s y) := by
  intro p hp
  cases p <;> simp [Part.same, withLdg] at hp ⊢

theorem tableErr_spec (s : State) : rd (tableErr s) LDG_STATUS_TABLE_ERR = 1 ∧ rd (tableErr s) LDG_EVT_TABLE_ERR = 1 ∧
    regsOnly [LDG_STATUS_TABLE_ERR.addr, LDG_EVT_TABLE_ERR.addr] s (tableErr s) := by
  rw [tableErr, wrs_cons, wrs_cons, wrs_nil]
  refine ⟨?_, rd_wr_bit _ _ rfl rfl, ?_⟩
  · rw [rd_wr_addr _ _ _ _ (by decide)]
    exact rd_wr_bit _ _ rfl rfl
  · exact regsOnly_trans (regsOnly_mono (regsOnly_wr s _ 1) (by decide)) (regsOnly_mono (regsOnly_wr _ _ 1) (by decide))

/-- A word of the slot map is lost with its slot. -/
theorem eccLose_slotMap (s : State) {word : Nat} (hw : word < 2 ^ 16) : ∃ t, eccLose s 1 word = t ∧ rd t LDG_STATUS_TABLE_ERR = 1 ∧
    rd t LDG_EVT_TABLE_ERR = 1 ∧ word ∈ t.ldg.offSlots ∧ (1 * 2 ^ 28 + word) ∈ t.bad ∧
    partsBut [.regs, .ldg, .bad] s t ∧ cellsBut [LDG_STATUS_TABLE_ERR.addr, LDG_EVT_TABLE_ERR.addr] s t := by
  obtain ⟨v, hv⟩ : ∃ v, v = withLdg s { s.ldg with offSlots := word :: s.ldg.offSlots.erase word } := ⟨_, rfl⟩
  have hlose : eccLose s 1 word = tableErr (markBad v 1 word) := by
    rw [eccLose, if_neg (by omega), if_neg (by decide), if_pos rfl, Nat.mod_eq_of_lt hw, hv, withLdg]
  have hldg := hv ▸ partsBut_withLdg s _
  have hbad := partsBut_markBad v 1 word
  obtain ⟨hstatus, hevt, hparts, hcells⟩ := tableErr_spec (markBad v 1 word)
  refine ⟨_, hlose, hstatus, hevt, ?_, ?_, ?_, fun a ha => ?_⟩
  · rw [hparts .ldg (by decide), hbad .ldg (by decide), hv]
    exact List.mem_cons_self
  · rw [hparts .bad (by decide)]
    exact mem_bad_markBad v 1 word
  · exact partsBut_trans (partsBut_mono hldg (by decide))
      (partsBut_trans (partsBut_mono hbad (by decide)) (partsBut_mono hparts (by decide)))
  · rw [hcells a ha, cellAt_congr a (hbad .regs (by decide)), cellAt_congr a (hldg .regs (by decide))]

theorem mem_bad_markBad_markBad (s : State) {memc word word' : Nat} (h : word ≠ word') :
    memc * 2 ^ 28 + word ∈ (markBad (markBad s memc word) memc word').bad := by
  refine List.mem_cons_of_mem _ ((List.mem_erase_of_ne (by omega)).2 ?_)
  exact mem_bad_markBad s memc word

/-- A word of the bitmap is lost with the points it stands for; both its halves are listed. -/
theorem eccLose_bitmap (s : State) {word : Nat} (hw : word < 2 ^ 14) : ∃ t, eccLose s 2 word = t ∧ rd t LDG_STATUS_TABLE_ERR = 1 ∧
    rd t LDG_EVT_TABLE_ERR = 1 ∧ word ∈ t.ldg.offWords ∧ (2 * 2 ^ 28 + 2 * word) ∈ t.bad ∧ partsBut [.regs, .ldg, .bad] s t := by
  obtain ⟨v, hv⟩ : ∃ v, v = withLdg s { s.ldg with offWords := word :: s.ldg.offWords.erase word } := ⟨_, rfl⟩
  obtain ⟨w, hwd⟩ : ∃ w, w = markBad (tableErr v) 2 (2 * word) := ⟨_, rfl⟩
  have hlose : eccLose s 2 word = markBad w 2 (2 * word + 1) := by
    rw [eccLose, if_neg (by omega), if_neg (by decide), if_neg (by decide), if_pos rfl, Nat.mod_eq_of_lt hw, if_pos hw, hwd, hv, withLdg]
  have hldg := hv ▸ partsBut_withLdg s _
  obtain ⟨hstatus, hevt, hparts, -⟩ := tableErr_spec v
  have hbad := hwd ▸ partsBut_markBad (tableErr v) 2 (2 * word)
  have hbad' := partsBut_markBad w 2 (2 * word + 1)
  have hregs : (markBad w 2 (2 * word + 1)).regs = (tableErr v).regs := (hbad' .regs (by decide)).trans (hbad .regs (by decide))
  refine ⟨_, hlose, (rd_congr _ hregs).trans hstatus, (rd_congr _ hregs).trans hevt, ?_, ?_, ?_⟩
  · rw [hbad' .ldg (by decide), hbad .ldg (by decide), hparts .ldg (by decide), hv]
    exact List.mem_cons_self
  · rw [hwd]
    exact mem_bad_markBad_markBad _ (by omega)
  · exact partsBut_trans (partsBut_mono hldg (by decide)) (partsBut_trans (partsBut_mono hparts (by decide))
      (partsBut_trans (partsBut_mono hbad (by decide)) (partsBut_mono hbad' (by decide))))

/-- A word of poll memory is marked. -/
theorem eccLose_poll (s : State) {word : Nat} (hw : word < 2 ^ 16) : ∃ t, eccLose s 6 word = t ∧ (6 * 2 ^ 28 + word) ∈ t.bad ∧
    partsBut [.bad] s t := by
  have hlose : eccLose s 6 word = markBad s 6 word := by
    rw [eccLose, if_neg (by omega), if_neg (by decide), if_neg (by decide), if_neg (by decide), if_pos rfl, Nat.mod_eq_of_lt hw]
  exact ⟨_, hlose, mem_bad_markBad s 6 word, partsBut_markBad s 6 word⟩

/-- A context of the Assay units restarts at INIT (R309). -/
theorem eccLose_context (s : State) (word : Nat) : ∃ t c, c = word / 16 % 64 ∧ eccLose s 7 word = t ∧
    rd t (ASY_CTX_VAL_VAL c) = asyInit s c % 2 ^ 64 ∧ rd t ASY_EVT_CTX_ERR = 1 ∧ partsBut [.regs, .bad] s t ∧
    cellsBut [(ASY_CTX_VAL_VAL c).addr, ASY_EVT_CTX_ERR.addr] s t := by
  obtain ⟨c, hc⟩ : ∃ c, c = word / 16 % 64 := ⟨_, rfl⟩
  obtain ⟨u, hu⟩ : ∃ u, u = wr (wr s (ASY_CTX_VAL_VAL c) (asyInit s c)) ASY_EVT_CTX_ERR 1 := ⟨_, rfl⟩
  have hlose : eccLose s 7 word = if ctxInFrame s c = true then markBad u 7 c else u := by
    rw [eccLose, if_neg (by omega), if_neg (by decide), if_neg (by decide), if_neg (by decide), if_neg (by decide), if_pos rfl]
    simp only [wrs_cons, wrs_nil, ← hc, ← hu]
  have hne : (ASY_CTX_VAL_VAL c).addr ≠ ASY_EVT_CTX_ERR.addr := by
    simp only [ASY_CTX_VAL_VAL, ASY_EVT_CTX_ERR]
    omega
  have hval : rd u (ASY_CTX_VAL_VAL c) = asyInit s c % 2 ^ 64 := by
    rw [hu, rd_wr_addr _ _ _ _ hne]
    exact rd_wr_same _ _ rfl
  have hevt : rd u ASY_EVT_CTX_ERR = 1 := by rw [hu, rd_wr_bit _ _ rfl rfl]
  have hregs : regsOnly [(ASY_CTX_VAL_VAL c).addr, ASY_EVT_CTX_ERR.addr] s u := by
    rw [hu]
    exact regsOnly_trans (regsOnly_mono (regsOnly_wr s _ _) (by simp)) (regsOnly_mono (regsOnly_wr _ _ 1) (by simp))
  have hbad : partsBut [.bad] u (eccLose s 7 word) := by
    rw [hlose]
    split
    · exact partsBut_markBad u 7 c
    · exact partsBut_refl _ u
  refine ⟨_, c, hc, rfl, (rd_congr _ (hbad .regs (by decide))).trans hval, (rd_congr _ (hbad .regs (by decide))).trans hevt,
    partsBut_trans (partsBut_mono hregs.1 (by decide)) (partsBut_mono hbad (by decide)), fun a ha => ?_⟩
  rw [cellAt_congr a (hbad .regs (by decide)), hregs.2 a ha]

/-- A word of tap memory is kept as it is read: a free value (R369). -/
theorem eccLose_tap (s : State) {word : Nat} (hw : word < 0x20000) :
    eccLose s 4 word = memPutWord s.used (0x50600000 + 4 * word) (freeOf s 32) := by
  rw [eccLose, if_neg (by omega), if_neg (by decide), if_neg (by decide), if_neg (by decide), if_neg (by decide), if_neg (by decide),
    if_neg (by omega), keptAsRead, if_neg (by decide), if_pos rfl, if_pos hw]

/-! ## The scrub of a word (R369) -/

/-- The outcome of a word as it shows in COB_ECC_LAST. -/
def eccNoted (s : State) (memc word : Nat) : State := wrs s [(COB_ECC_LAST_WORD, word), (COB_ECC_LAST_MEM, memc)]

theorem eccNoted_spec (s : State) {memc : Nat} (word : Nat) (hm : memc < 12) :
    rd (eccNoted s memc word) COB_ECC_LAST_WORD = word % 2 ^ 28 ∧ rd (eccNoted s memc word) COB_ECC_LAST_MEM = memc ∧
    regsOnly [COB_ECC_LAST_WORD.addr] s (eccNoted s memc word) := by
  rw [eccNoted, wrs_cons, wrs_cons, wrs_nil]
  refine ⟨?_, ?_, ?_⟩
  · rw [rd_wr_apart _ _ rfl rfl]
    exact rd_wr_same _ _ rfl
  · rw [rd_wr_same _ _ rfl]
    exact Nat.mod_eq_of_lt (show memc < 16 by omega)
  · exact regsOnly_trans (regsOnly_wr s _ _) (regsOnly_wr _ COB_ECC_LAST_MEM _)

/-- A corrected word is counted. -/
def eccCounted (s : State) : State := { s with sys := { s.sys with corrected := s.sys.corrected + 1 } }

theorem partsBut_eccCounted (s : State) : partsBut [.sys] s (eccCounted s) := by
  intro p hp
  cases p <;> simp [Part.same, eccCounted] at hp ⊢

theorem eccReport_uncorrectable (s : State) {memc : Nat} (word : Nat) (hm : memc ≠ 9) :
    eccReport s memc word true = raise (eccNoted s memc word) 117 (memc * 2 ^ 28 + word % 2 ^ 28) := by
  simp only [eccReport, smemCount, if_pos hm, if_true, eccNoted]

theorem eccReport_corrected (s : State) {memc : Nat} (word : Nat) (hm : memc ≠ 9) :
    eccReport s memc word false = raise (eccCounted (eccNoted s memc word)) 116 (memc * 2 ^ 28 + word % 2 ^ 28) := by
  simp only [eccReport, smemCount, if_pos hm, Bool.false_eq_true, if_false, eccNoted, eccCounted]

section
variable {s : State} {memc : Nat} (word : Nat) {bad : Nat} (collide : Bool) (pass : Option Nat) (hb : s.rst.busy = false)
include hb

/-- With scrubbing off, at a code that names no memory, or in a stretch memory without power. -/
theorem exec_scrub_off (h : rd s COB_CTRL_SCRUB_EN = 0 ∨ 12 ≤ memc ∨ (memc = 9 ∧ stretchOn s = false)) :
    exec (.scrub memc word bad collide pass) s = .next s := by
  refine congrArg Host.Outcome.next ((whenAlive_alive s _ hb).trans (if_pos ?_))
  exact h.imp (fun h => by rw [flag_false h]; rfl) (Or.imp id fun h => ⟨h.1, by rw [h.2]; rfl⟩)

variable (he : rd s COB_CTRL_SCRUB_EN = 1) (hm : memc < 12) (hs : memc = 9 → stretchOn s = true)
include he hm hs

/-- A word that is scrubbed: its loss, the report, and the end of the pass where no reset has been ordered. -/
theorem exec_scrub {u : State} (hu : u = if bad = 2 ∧ collide = false then eccLose s memc word else s) :
    exec (.scrub memc word bad collide pass) s =
      .next (if (if bad = 0 then u else eccReport u memc word (bad == 2)).rst.busy = true
        then (if bad = 0 then u else eccReport u memc word (bad == 2))
        else scrubPass (if bad = 0 then u else eccReport u memc word (bad == 2)) pass) := by
  have hoff : ¬((!flag s COB_CTRL_SCRUB_EN) = true ∨ 12 ≤ memc ∨ (memc = 9 ∧ (!stretchOn s) = true)) := by
    rw [flag_true he]
    rintro (h | h | ⟨h, h'⟩)
    · cases h
    · omega
    · rw [hs h] at h'
      cases h'
  refine congrArg Host.Outcome.next ((whenAlive_alive s _ hb).trans ((if_neg hoff).trans ?_))
  simp only [hu, Bool.not_eq_true']

theorem exec_scrub_good (h : bad = 0) : exec (.scrub memc word bad collide pass) s = .next (scrubPass s pass) := by
  rw [exec_scrub word collide pass hb he hm hs rfl, if_neg (show ¬(bad = 2 ∧ collide = false) by omega), if_pos h,
    if_neg (by rw [hb]; decide)]

/-- A word that is reported, where the report orders no reset. -/
theorem exec_scrub_reported {u r : State} (hu : u = if bad = 2 ∧ collide = false then eccLose s memc word else s)
    (h : bad ≠ 0) (hr : eccReport u memc word (bad == 2) = r) (hrb : r.rst.busy = false) :
    exec (.scrub memc word bad collide pass) s = .next (scrubPass r pass) := by
  rw [exec_scrub word collide pass hb he hm hs hu, if_neg h, hr, if_neg (by rw [hrb]; decide)]

theorem scrub_reported {u : State} (hu : u = if bad = 2 ∧ collide = false then eccLose s memc word else s) (h : bad ≠ 0)
    (h9 : memc ≠ 9) : ∃ t, rd t COB_ECC_LAST_WORD = word % 2 ^ 28 ∧ rd t COB_ECC_LAST_MEM = memc ∧
      cellsBut [COB_ECC_LAST_WORD.addr] u t ∧
      (bad = 2 → partsBut [.regs] u t ∧ ((raise t 117 (memc * 2 ^ 28 + word % 2 ^ 28)).rst.busy = false →
        exec (.scrub memc word bad collide pass) s = .next (scrubPass (raise t 117 (memc * 2 ^ 28 + word % 2 ^ 28)) pass))) ∧
      (bad ≠ 2 → t.sys = { s.sys with corrected := s.sys.corrected + 1 } ∧ partsBut [.regs, .sys] s t ∧
        ((raise t 116 (memc * 2 ^ 28 + word % 2 ^ 28)).rst.busy = false →
          exec (.scrub memc word bad collide pass) s = .next (scrubPass (raise t 116 (memc * 2 ^ 28 + word % 2 ^ 28)) pass))) := by
  obtain ⟨hword, hmem, hparts, hcells⟩ := eccNoted_spec u word hm
  by_cases h2 : bad = 2
  · refine ⟨eccNoted u memc word, hword, hmem, hcells, fun _ => ⟨hparts, fun hr => ?_⟩, fun hn => absurd h2 hn⟩
    exact exec_scrub_reported word collide pass hb he hm hs hu h (by rw [h2]; exact eccReport_uncorrectable u word h9) hr
  · have hus : u = s := hu.trans (if_neg fun g => h2 g.1)
    have hcount := partsBut_eccCounted (eccNoted u memc word)
    have hregs := hcount .regs (by decide)
    refine ⟨eccCounted (eccNoted u memc word), (rd_congr _ hregs).trans hword, (rd_congr _ hregs).trans hmem,
      fun a ha => (cellAt_congr a hregs).trans (hcells a ha), fun g => absurd g h2, fun _ => ⟨?_, ?_, fun hr => ?_⟩⟩
    · rw [eccCounted, hparts .sys (by decide), hus]
    · rw [hus] at hparts hcount ⊢
      exact partsBut_trans (partsBut_mono hparts (by decide)) (partsBut_mono hcount (by decide))
    · exact exec_scrub_reported word collide pass hb he hm hs hu h
        (by rw [beq_eq_false_iff_ne.2 h2]; exact eccReport_corrected u word h9) hr

end

/-! ## The end of a pass (R369) -/

/-- The pass and its duration are counted. -/
def passCounted (s : State) (ms : Nat) : State := wr (incWrap s COB_STAT_PASSES) COB_STAT_PASS_MS (min ms 65535)

theorem passCounted_spec (s : State) (ms : Nat) : rd (passCounted s ms) COB_STAT_PASSES = (rd s COB_STAT_PASSES + 1) % 2 ^ 16 ∧
    rd (passCounted s ms) COB_STAT_PASS_MS = min ms 65535 ∧ regsOnly [COB_STAT_PASSES.addr] s (passCounted s ms) := by
  refine ⟨?_, ?_, regsOnly_trans (regsOnly_wr s _ _) (regsOnly_wr _ COB_STAT_PASS_MS _)⟩
  · rw [passCounted, rd_wr_apart _ _ rfl rfl]
    exact rd_incWrap_self s _ (by decide)
  · rw [passCounted, rd_wr_half _ _ rfl rfl]
    omega

theorem scrubPass_spec (s : State) (ms : Nat) : ∃ t, scrubPass s (some ms) = t ∧ rd t COB_STAT_PASSES = (rd s COB_STAT_PASSES + 1) % 2 ^ 16 ∧
    rd t COB_STAT_PASS_MS = min ms 65535 ∧ (8000 < ms → rd t COB_EVT_SCRUB_LATE = 1) ∧
    (ms ≤ 8000 → rd t COB_EVT_SCRUB_LATE = rd s COB_EVT_SCRUB_LATE) ∧
    regsOnly [COB_STAT_PASSES.addr, COB_EVT_SCRUB_LATE.addr] s t := by
  obtain ⟨hpasses, hms, hregs⟩ := passCounted_spec s ms
  have hpass : scrubPass s (some ms) = if 8000 < ms then wr (passCounted s ms) COB_EVT_SCRUB_LATE 1 else passCounted s ms := rfl
  rw [hpass]
  by_cases h : 8000 < ms
  · rw [if_pos h]
    refine ⟨_, rfl, ?_, ?_, fun _ => rd_wr_bit _ _ rfl rfl, fun h' => absurd h (by omega),
      regsOnly_trans (regsOnly_mono hregs (by decide)) (regsOnly_mono (regsOnly_wr _ _ 1) (by decide))⟩
    · rw [rd_wr_addr _ _ _ _ (by decide), hpasses]
    · rw [rd_wr_addr _ _ _ _ (by decide), hms]
  · rw [if_neg h]
    exact ⟨_, rfl, hpasses, hms, fun h' => absurd h' h, fun _ => rd_of_cellsBut_one hregs.2 (by decide),
      regsOnly_mono hregs (by decide)⟩

/-! ## The telemetry slot (R107, R371) -/

theorem length_flatMap_leBytes (n : Nat) (l : List Nat) : (l.flatMap (leBytes n)).length = l.length * n := by
  induction l with
  | nil => simp
  | cons v l ih => rw [List.flatMap_cons, List.length_append, ih, length_leBytes, List.length_cons, Nat.succ_mul, Nat.add_comm]

theorem exec_telemetryWrite {s : State} (hb : s.rst.busy = false) (tHub tBpd : Int) (vbus : Nat) :
    exec (.telemetryWrite tHub tBpd vbus) s = .next (if flag s COB_CTRL_TELEM_EN = true ∧
      bits (pubDesc s (rd s COB_CTRL_TELEM_IDX)) 16 3 = 2 ∧ bitOf (pubDesc s (rd s COB_CTRL_TELEM_IDX)) 19 = true
      then aliasWrite s .software (rd s COB_CTRL_TELEM_IDX) 0 ((telemetry s tHub tBpd vbus).flatMap (leBytes 4)) else s) :=
  congrArg Host.Outcome.next (whenAlive_alive s _ hb)

/-- Settles O12: the scrub of a word by `exec_scrub_off`, `exec_scrub_good` and `scrub_reported`, its loss memory by memory by the
lemmas of `eccLose`, the pass by `scrubPass_spec`. -/
theorem memoriesAreScrubbed : Obligations.MemoriesAreScrubbed := by
  unfold Obligations.MemoriesAreScrubbed
  refine ⟨fun s memc word bad collide pass hb => ⟨exec_scrub_off word collide pass hb, fun he hm hs => ?_⟩,
    fun s => ⟨rfl, scrubPass_spec s⟩,
    fun s word => ⟨eccLose_slotMap s, eccLose_bitmap s, eccLose_poll s, eccLose_context s word, fun hw => ⟨_, rfl, eccLose_tap s hw⟩⟩,
    fun s tHub tBpd vbus i hb hi => ⟨fun he hf ho => ?_, fun h => ?_⟩⟩
  · exact ⟨_, rfl, exec_scrub_good word collide pass hb he hm hs, scrub_reported word collide pass hb he hm hs rfl⟩
  · refine ⟨_, rfl, (length_flatMap_leBytes 4 _).trans rfl, ?_⟩
    rw [exec_telemetryWrite hb, ← hi, if_pos ⟨flag_true he, hf, ho⟩]
  · rw [exec_telemetryWrite hb, ← hi, if_neg]
    rintro ⟨he, hf, ho⟩
    rw [flag_iff s rfl] at he
    obtain h | h | h := h
    · omega
    · exact h hf
    · rw [h] at ho
      cases ho

end Sys2Proof.Machine

/-! SUPPORT. Obligation O15: the end of ST11, and what ST12 to ST14 make of channels, controllers and branches. -/

namespace Sys2Proof.Machine

/-! ## Frames of one channel and of one controller -/

theorem chnFrame_setChn {n : Nat} {l : List Nat} {s t : State} (h : regsOnly l s t) (x : Chn) : chnFrame n l s (t.setChn n x) := by
  obtain ⟨hparts, hcells⟩ := h
  refine ⟨partsBut_trans (partsBut_mono hparts (by decide)) (partsBut_mono (partsBut_setChn t n x) (by decide)),
    fun a ha => (cellAt_setChn _ n x a).trans (hcells a ha), fun m hm => ?_⟩
  rw [State.chn_setChn, if_neg hm]
  exact State.chn_congr m (hparts .chns (by decide))

theorem partsBut_setCan (s : State) (k : Nat) (x : Can) : partsBut [.cans] s (s.setCan k x) := by
  intro p hp
  cases p <;> simp [Part.same] at hp ⊢

theorem canCtlFrame_of_regsOnly {k : Nat} {l : List Nat} {s t : State} (h : regsOnly l s t) : canCtlFrame k l s t :=
  ⟨partsBut_mono h.1 (by decide), h.2, fun m _ => State.can_congr m (h.1 .cans (by decide))⟩

theorem canCtlFrame_setCan {k : Nat} {l : List Nat} {s t : State} (h : canCtlFrame k l s t) (x : Can) :
    canCtlFrame k l s (t.setCan k x) := by
  obtain ⟨hparts, hcells, hcans⟩ := h
  refine ⟨partsBut_trans hparts (partsBut_mono (partsBut_setCan t k x) (by decide)),
    fun a ha => (cellAt_setCan _ k x a).trans (hcells a ha), fun m hm => ?_⟩
  rw [State.can_setCan, if_neg hm, hcans m hm]

/-! ## ST11 (R68, R87, R88) -/

theorem exec_st11Join_elsewhere {s : State} (env : JoinEnv) (h : joining s 11 = false) : exec (.st11Join env) s = .next s := by
  refine congrArg Host.Outcome.next ?_
  simp [h]

section
variable {s t : State} (env : JoinEnv) (hs : joining s 11 = true) (ht : t = lapSync s)
include hs ht

theorem exec_st11Join_waits (h : joining t 11 = false ∨ joinMet t = false) : exec (.st11Join env) s = .next t := by
  refine congrArg Host.Outcome.next ?_
  rw [if_pos hs, ← ht, if_neg]
  rw [Bool.and_eq_true]
  rintro ⟨hj, hm⟩
  rw [hj, hm] at h
  simp at h

theorem exec_st11Join_ends (hj : joining t 11 = true) (hm : joinMet t = true) : exec (.st11Join env) s =
    .next (whileJoining (st14 env) (whileJoining (st13 env)
      (st12 env (stepTo (endStep (join t) 11 rPass (t.sys.tries + 1) 0 (tJoin env 11)) 12)))) := by
  refine congrArg Host.Outcome.next ?_
  rw [if_pos hs, ← ht, if_pos]
  rw [hj, hm]
  rfl

end

theorem rd_st12_step (env : JoinEnv) (s : State) : rd (st12 env s) SYS_STEP_STEP = 13 := by
  rw [st12]
  split <;> exact rd_wr_same _ _ rfl

theorem rd_st13_step (env : JoinEnv) (s : State) : rd (st13 env s) SYS_STEP_STEP = 14 := by
  rw [st13]
  split <;> exact rd_wr_same _ _ rfl

/-- A HALT raised before ST14 has its effect there. -/
theorem rd_st14_halted (env : JoinEnv) {s : State} (h : s.tnk.pendHalt = true) : rd (st14 env s) SYS_STATE_STATE = stHalted := by
  have hpend : (portReasonAt14 s).tnk.pendHalt = true := by rw [portReasonAt14, wrBit, wr_tnk, h]
  rw [st14, if_pos hpend]
  exact rd_enterStill_state _ (by decide)

theorem whileJoining_eq (f : State → State) (s : State) :
    whileJoining f s = if s.rst.busy = false ∧ rd s SYS_STATE_STATE = stJoining then f s else s := by
  simp [whileJoining, hubState]

theorem joinMet_iff (s : State) :
    joinMet s = true ↔ (∃ p < 4, isUp s p = true) ∧ ∀ k < 4, isUp s (facing k) = true → (s.train k).met = true := by
  simp only [joinMet, carried, Bool.and_eq_true, List.any_eq_true, List.all_eq_true, List.mem_range, Bool.or_eq_true,
    Bool.not_eq_true']
  refine and_congr_right fun _ => forall₂_congr fun k _ => ?_
  cases isUp s (facing k) <;> simp

/-- The Ledger armed and the hub joined, as ST11 writes it. -/
def joinArmed (s : State) : State := wrs s [(LDG_STATUS_ARMED, 1), (TRN_STATUS_JOINED, 1)]

theorem joinArmed_spec (s : State) : rd (joinArmed s) LDG_STATUS_ARMED = 1 ∧ rd (joinArmed s) TRN_STATUS_JOINED = 1 ∧
    regsOnly [LDG_STATUS_ARMED.addr, TRN_STATUS_JOINED.addr] s (joinArmed s) := by
  rw [joinArmed, wrs_cons, wrs_cons, wrs_nil]
  refine ⟨?_, rd_wr_bit _ _ rfl rfl, ?_⟩
  · rw [rd_wr_addr _ _ _ _ (by decide)]
    exact rd_wr_bit _ _ rfl rfl
  · exact regsOnly_trans (regsOnly_mono (regsOnly_wr s _ 1) (by decide)) (regsOnly_mono (regsOnly_wr _ _ 1) (by decide))

theorem rd_joinArmed_apart (s : State) {f : Fld} (ha : f.addr ≠ LDG_STATUS_ARMED.addr) (h : TRN_STATUS_JOINED.apart f = true) :
    rd (joinArmed s) f = rd s f := by
  rw [joinArmed, wrs_cons, wrs_cons, wrs_nil, rd_wr_apart _ _ rfl h, rd_wr_addr _ _ _ _ ha]

theorem launches_joinArmed (s : State) (r : Nat) : launches (joinArmed s) r = launches s r := by
  rw [launches, launches, flag_congr (rd_joinArmed_apart s (f := TRN_STATUS_LAUNCH_A) (by decide) rfl),
    flag_congr (rd_joinArmed_apart s (f := TRN_STATUS_LAUNCH_B) (by decide) rfl)]

/-- A hub named head that launches not both rings stands by. -/
def joinStands (s : State) : State :=
  if (rd s TRN_CTRL_ROLE == 1 || rd s TRN_CTRL_ROLE == 2) && !(launches s 0 && launches s 1) then wr s TRN_STATUS_STANDBY 1 else s

theorem joinStands_spec (s : State) :
    ((rd s TRN_CTRL_ROLE = 1 ∨ rd s TRN_CTRL_ROLE = 2) → (launches s 0 = false ∨ launches s 1 = false) →
      rd (joinStands s) TRN_STATUS_STANDBY = 1) ∧
    (∀ f : Fld, TRN_STATUS_STANDBY.apart f = true → rd (joinStands s) f = rd s f) ∧
    regsOnly [TRN_STATUS_STANDBY.addr] s (joinStands s) := by
  refine ⟨fun hrole hlaunch => ?_, fun f hf => ?_, ?_⟩
  · rw [joinStands, if_pos (by simpa [imp_iff_not_or] using And.intro hrole hlaunch)]
    exact rd_wr_bit _ _ rfl rfl
  · rw [joinStands]
    split
    · rw [rd_wr_apart _ _ rfl hf]
    · rfl
  · rw [joinStands]
    split
    · exact regsOnly_wr s _ 1
    · exact regsOnly_refl _ s

theorem join_eq (s : State) : join s = withTrd (joinStands (joinArmed s))
    { (joinStands (joinArmed s)).trd with armedAt := some (ftNs (joinStands (joinArmed s))) } := rfl

theorem join_spec (s : State) : ∃ t, join s = t ∧ rd t LDG_STATUS_ARMED = 1 ∧ rd t TRN_STATUS_JOINED = 1 ∧
    t.trd = { s.trd with armedAt := some (ftNs s) } ∧
    ((rd s TRN_CTRL_ROLE = 1 ∨ rd s TRN_CTRL_ROLE = 2) → (launches s 0 = false ∨ launches s 1 = false) → rd t TRN_STATUS_STANDBY = 1) ∧
    partsBut [.regs, .trd] s t ∧ cellsBut [LDG_STATUS_ARMED.addr, TRN_STATUS_JOINED.addr] s t := by
  obtain ⟨harmed, hjoined, hregs⟩ := joinArmed_spec s
  obtain ⟨hstands, hapart, hstandRegs⟩ := joinStands_spec (joinArmed s)
  obtain ⟨hparts, hcells⟩ := regsOnly_trans hregs (regsOnly_mono hstandRegs (m := [LDG_STATUS_ARMED.addr, TRN_STATUS_JOINED.addr]) (by decide))
  have hrole : rd (joinArmed s) TRN_CTRL_ROLE = rd s TRN_CTRL_ROLE := rd_joinArmed_apart s (by decide) rfl
  rw [hrole, launches_joinArmed, launches_joinArmed] at hstands
  have htrd := partsBut_withTrd (joinStands (joinArmed s))
    { (joinStands (joinArmed s)).trd with armedAt := some (ftNs (joinStands (joinArmed s))) }
  have hr := htrd .regs (by decide)
  refine ⟨_, join_eq s, ?_, ?_, ?_, fun h h' => (rd_congr _ hr).trans (hstands h h'),
    partsBut_trans (partsBut_mono hparts (by decide)) (partsBut_mono htrd (by decide)),
    fun a ha => (cellAt_congr a hr).trans (hcells a ha)⟩
  · rw [rd_congr _ hr, rd_of_cellsBut_one hstandRegs.2 (by decide), harmed]
  · rw [rd_congr _ hr, hapart _ rfl, hjoined]
  · rw [withTrd, hparts .trd (by decide), ftNs, hparts .clk (by decide), ftNs]

/-! ## ST12 (R215, R218, R236, R241, R244) -/

theorem chnStart_unstarted {s : State} (env : JoinEnv) {n : Nat}
    (h : rd s (CHN_CFG_START_EN n) = 0 ∨ chnMode s n = 0 ∨ chnMode s n = 5) :
    chnStart env s n = s.setChn n { s.chn n with pins := [] } := by
  refine if_pos (h.imp_left fun h => ?_)
  rw [flag_false h]
  rfl

section
variable {s : State} {env : JoinEnv} {n : Nat} (he : rd s (CHN_CFG_START_EN n) = 1) (h0 : chnMode s n ≠ 0) (h5 : chnMode s n ≠ 5)
include he h0 h5

theorem chnStart_started : chnStart env s n = if (chnCfgOk s n && !(decide (chnMode s n = 3) && env.chnBad.contains n)) = true
    then (wr s (CHN_STAT_STATE n) cIdle).setChn n { s.chn n with pins := idlePins s n, cts := !env.ctsOff.contains n }
    else (wr s (CHN_STAT_STATE n) cFailed).setChn n { s.chn n with pins := [] } := by
  refine if_neg ?_
  rw [flag_true he]
  rintro (h | h | h)
  · cases h
  · exact h0 h
  · exact h5 h

theorem chnStart_idle (h : chnCfgOk s n = true ∧ (chnMode s n = 3 → n ∉ env.chnBad)) : chnStart env s n =
    (wr s (CHN_STAT_STATE n) cIdle).setChn n { s.chn n with pins := idlePins s n, cts := !env.ctsOff.contains n } := by
  rw [chnStart_started he h0 h5, if_pos]
  simpa [imp_iff_not_or] using h

theorem chnStart_failed (h : chnCfgOk s n = false ∨ (chnMode s n = 3 ∧ n ∈ env.chnBad)) : chnStart env s n =
    (wr s (CHN_STAT_STATE n) cFailed).setChn n { s.chn n with pins := [] } := by
  rw [chnStart_started he h0 h5, if_neg]
  obtain h | ⟨h3, hn⟩ := h
  · simp [h]
  · simp [h3, hn]

end

theorem canBegin_unstarted {s : State} (env : JoinEnv) {k : Nat} (h : chnMode s k ≠ mCan ∨ rd s (CAN_CTRL_START_EN k) = 0) :
    canBegin env s k = s.setCan k { s.can k with pins := chnMode s k == mCan, awake := false } := by
  refine if_pos ?_
  obtain h | h := h
  · simp [h]
  · simp [flag_false h]

section
variable {s : State} {env : JoinEnv} {k : Nat} (hm : chnMode s k = mCan) (he : rd s (CAN_CTRL_START_EN k) = 1)
include hm he

theorem canBegin_started : canBegin env s k = if (canTimingOk s k && !env.canBad.contains k) = true
    then (canStart s k).setCan k { (canStart s k).can k with pins := true }
    else (wr s (CAN_STAT_STATE k) nFailed).setCan k { s.can k with pins := true, awake := false } := by
  rw [canBegin, hm, if_neg (by simp [flag_true he])]

theorem canBegin_begins (ht : canTimingOk s k = true) (hb : k ∉ env.canBad) :
    canBegin env s k = (canStart s k).setCan k { (canStart s k).can k with pins := true } := by
  rw [canBegin_started hm he, if_pos (by simp [ht, hb])]

theorem canBegin_failed (h : canTimingOk s k = false ∨ k ∈ env.canBad) :
    canBegin env s k = (wr s (CAN_STAT_STATE k) nFailed).setCan k { s.can k with pins := true, awake := false } := by
  rw [canBegin_started hm he, if_neg]
  obtain h | h := h
  · simp [h]
  · simp [h]

end

/-- The state and the counters of a controller that starts. -/
def canStarted (s : State) (k : Nat) : State :=
  wrs s [(CAN_STAT_STATE k, if flag s (CAN_CTRL_AUTO_DET k) then nDetect else nIntegrate),
    (CAN_ERRC_TEC k, 0), (CAN_ERRC_REC k, 0), (CAN_STAT_ERR k, 0)]

theorem canErrc_ne_stat (k : Nat) : (CAN_ERRC_TEC k).addr ≠ (CAN_STAT_STATE k).addr := by
  simp only [CAN_ERRC_TEC, CAN_STAT_STATE]
  omega

theorem canStarted_spec (s : State) (k : Nat) :
    rd (canStarted s k) (CAN_STAT_STATE k) = (if rd s (CAN_CTRL_AUTO_DET k) = 1 then nDetect else nIntegrate) ∧
    rd (canStarted s k) (CAN_ERRC_TEC k) = 0 ∧ rd (canStarted s k) (CAN_ERRC_REC k) = 0 ∧
    regsOnly [(CAN_STAT_STATE k).addr, (CAN_ERRC_TEC k).addr] s (canStarted s k) := by
  have hne := canErrc_ne_stat k
  have herr : (CAN_STAT_ERR k).addr = (CAN_STAT_STATE k).addr := rfl
  have hrec : (CAN_ERRC_REC k).addr = (CAN_ERRC_TEC k).addr := rfl
  simp only [canStarted, wrs_cons, wrs_nil]
  refine ⟨?_, ?_, ?_, ?_⟩
  · rw [rd_wr_apart _ _ rfl rfl, rd_wr_addr _ (CAN_ERRC_REC k) _ _ hne.symm, rd_wr_addr _ _ _ _ hne.symm, rd_wr_same _ _ rfl]
    simp only [flag_iff s (f := CAN_CTRL_AUTO_DET k) rfl]
    split <;> rfl
  · rw [rd_wr_addr _ (CAN_STAT_ERR k) _ _ hne, rd_wr_apart _ _ rfl rfl]
    exact rd_wr_same _ _ rfl
  · rw [rd_wr_addr _ (CAN_STAT_ERR k) (CAN_ERRC_REC k) _ hne]
    exact rd_wr_same _ _ rfl
  · exact regsOnly_trans (regsOnly_mono (regsOnly_wr s _ _) (by simp)) (regsOnly_trans (regsOnly_mono (regsOnly_wr _ _ 0) (by simp))
      (regsOnly_trans (regsOnly_mono (regsOnly_wr _ _ 0) (by simp [hrec])) (regsOnly_mono (regsOnly_wr _ _ 0) (by simp [herr]))))

theorem canStart_eq (s : State) (k : Nat) : canStart s k =
    (canStarted s k).setCan k { (canStarted s k).can k with cand := 0, slow := false, locked := false, awake := true } := by
  rw [canStart, canStarted]

/-! ## ST13 (R286, R291, R292) -/

/-- The checks of ST13 on an enabled branch: its configuration, and for a branch in OFF its gate and the charge pump. -/
def brnFit (env : JoinEnv) (s : State) (n : Nat) : Bool :=
  brnCfgOk s n && (brnState s n != bOff || (!env.gateBad.contains n && flag s (BRN_STAT_CP_OK n)))

theorem brnFit_iff (env : JoinEnv) (s : State) (n : Nat) : brnFit env s n = true ↔
    brnCfgOk s n = true ∧ (rd s (BRN_STAT_STATE n) = bOff → n ∉ env.gateBad ∧ rd s (BRN_STAT_CP_OK n) = 1) := by
  simp [brnFit, brnState, flag_iff s (f := BRN_STAT_CP_OK n) rfl, imp_iff_not_or]

/-- A branch that fails its checks, as its registers show it. -/
def brnFailed (s : State) (n : Nat) : State := wrs s [(BRN_STAT_STATE n, bFailed), (BRN_STAT_PG n, 0), (BRN_STAT_PENDING_ON n, 0)]

theorem brnFailed_spec (s : State) (n : Nat) : rd (brnFailed s n) (BRN_STAT_STATE n) = bFailed ∧ rd (brnFailed s n) (BRN_STAT_PG n) = 0 ∧
    (brnFailed s n).clk = s.clk ∧ brnFrame n [(BRN_STAT_STATE n).addr] s (brnFailed s n) := by
  rw [brnFailed, wrs_cons, wrs_cons, wrs_cons, wrs_nil]
  refine ⟨?_, ?_, rfl, brnFrame_wrStat (brnFrame_wrStat (brnFrame_wrStat (brnFrame_refl _ _ _) rfl) rfl) rfl⟩
  · rw [rd_wr_apart _ _ rfl rfl, rd_wr_apart _ _ rfl rfl]
    exact rd_wr_same _ _ rfl
  · rw [rd_wr_apart _ _ rfl rfl]
    exact rd_wr_same _ _ rfl

section
variable {s : State} {env : JoinEnv} {n : Nat} (hf : rd s (BRN_STAT_STATE n) ≠ bFailed) (he : rd s (BRN_CFG_EN n) = 1)
include hf he

theorem brnBegin_enabled : brnBegin env s n = if brnFit env s n = true
    then (if s.rst.d2dBpdLost = true then s
      else brnLimit (s.setBrn n { s.brn n with cfg := brnCfgOf s n }) n (2 * rd s (BRN_MEAS_V_V_BUS n)) (2 * rd s (BRN_MEAS_V_V_OUT n)))
    else brnRest (brnFailed s n) n := by
  have hstate : ¬brnState s n = bFailed := hf
  simp only [brnBegin, if_neg hstate, flag_true he, Bool.not_true, Bool.false_eq_true, if_false, brnFit, brnFailed]

theorem brnBegin_configures (h : brnFit env s n = true) (hl : s.rst.d2dBpdLost = false) : ∃ t, brnBegin env s n = t ∧
    (t.brn n).cfg = brnCfgOf s n ∧
    (t.brn n).limit = (if rd s (BRN_STAT_STATE n) = bRamp
      then foldBack (brnCfgOf s n) (2 * rd s (BRN_MEAS_V_V_BUS n)) (2 * rd s (BRN_MEAS_V_V_OUT n)) else limitSense (brnCfgOf s n)) ∧
    brnFrame n [] s t := by
  refine ⟨_, by rw [brnBegin_enabled hf he, if_pos h, if_neg (by rw [hl]; decide), brnLimit], ?_, ?_,
    brnFrame_setBrn (brnFrame_setBrn (brnFrame_refl _ _ _))⟩
  · rw [State.brn_setBrn_self, State.brn_setBrn_self]
  · rw [State.brn_setBrn_self, State.brn_setBrn_self, brnState, rd_setBrn]

theorem brnBegin_fails (h : brnFit env s n ≠ true) : ∃ t, brnBegin env s n = t ∧ rd t (BRN_STAT_STATE n) = bFailed ∧
    rd t (BRN_STAT_PG n) = 0 ∧ (t.brn n).rest = ftNs s ∧ brnFrame n [(BRN_STAT_STATE n).addr] s t := by
  obtain ⟨hstate, hpg, hclk, hframe⟩ := brnFailed_spec s n
  refine ⟨_, by rw [brnBegin_enabled hf he, if_neg h, brnRest], ?_, ?_, ?_, brnFrame_setBrn hframe⟩
  · rw [rd_setBrn, hstate]
  · rw [rd_setBrn, hpg]
  · rw [State.brn_setBrn_self, ftNs, hclk, ftNs]

end

/-- Settles O15: ST11 by `exec_st11Join_ends` and `join_spec`, ST12 by the cases of `chnStart` and `canBegin`, ST13 by those of
`brnBegin`. -/
theorem joinArmsAndUnitsStart : Obligations.JoinArmsAndUnitsStart := by
  unfold Obligations.JoinArmsAndUnitsStart
  refine ⟨fun s env => ⟨exec_st11Join_elsewhere env, fun hj => ⟨_, rfl, exec_st11Join_waits env hj rfl,
      fun ht hm => ⟨_, rfl, exec_st11Join_ends env hj rfl ht hm, rd_st12_step env _⟩⟩, fun f => whileJoining_eq f s, joinMet_iff s,
      rd_st13_step env s, rd_st14_halted env⟩,
    join_spec, fun s env n => ⟨fun h => ?_, fun he h0 h5 h => ?_, fun he h0 h5 h => ?_⟩,
    fun s env k => ⟨fun h => ?_, fun hm he ht hb => ?_, fun hm he h => ?_⟩, fun s env n hf he => ⟨fun h => ⟨fun hl => ?_, ?_⟩, fun h => ?_⟩⟩
  · exact ⟨_, chnStart_unstarted env h, by rw [State.chn_setChn_self], chnFrame_setChn (regsOnly_refl _ s) _⟩
  · refine ⟨_, chnStart_idle he h0 h5 h, ?_, by rw [State.chn_setChn_self], by rw [State.chn_setChn_self],
      chnFrame_setChn (regsOnly_wr s _ _) _⟩
    rw [rd_setChn]
    exact rd_wr_same _ _ rfl
  · refine ⟨_, chnStart_failed he h0 h5 h, ?_, by rw [State.chn_setChn_self], chnFrame_setChn (regsOnly_wr s _ _) _⟩
    rw [rd_setChn]
    exact rd_wr_same _ _ rfl
  · exact ⟨_, canBegin_unstarted env h, by rw [State.can_setCan_self], by rw [State.can_setCan_self],
      canCtlFrame_setCan (canCtlFrame_of_regsOnly (regsOnly_refl _ s)) _⟩
  · obtain ⟨hstate, htec, hrec, hregs⟩ := canStarted_spec s k
    refine ⟨_, (canBegin_begins hm he ht hb).trans (by rw [canStart_eq]), ?_, ?_, ?_, by rw [State.can_setCan_self], ?_,
      canCtlFrame_setCan (canCtlFrame_setCan (canCtlFrame_of_regsOnly hregs) _) _⟩
    · rw [rd_setCan, rd_setCan, hstate]
    · rw [rd_setCan, rd_setCan, htec]
    · rw [rd_setCan, rd_setCan, hrec]
    · rw [State.can_setCan_self, State.can_setCan_self]
  · refine ⟨_, canBegin_failed hm he h, ?_, by rw [State.can_setCan_self], canCtlFrame_setCan (canCtlFrame_of_regsOnly (regsOnly_wr s _ _)) _⟩
    rw [rd_setCan]
    exact rd_wr_same _ _ rfl
  · rw [brnBegin_enabled hf he, if_pos ((brnFit_iff env s n).2 h), if_pos hl]
  · exact brnBegin_configures hf he ((brnFit_iff env s n).2 h)
  · refine brnBegin_fails hf he fun hfit => ?_
    obtain ⟨hcfg, hoff⟩ := (brnFit_iff env s n).1 hfit
    obtain h | ⟨ho, h⟩ := h
    · rw [hcfg] at h
      cases h
    · obtain ⟨hgate, hcp⟩ := hoff ho
      exact h.elim hgate fun h => by omega

end Sys2Proof.Machine

/-! SUPPORT. Obligation O33: cells and frames of the switch core, the overload monitor, and the lists of broken links. -/

namespace Sys2Proof.Machine

/-! ## The ring domain enters a lap, and the switch core's own state -/

theorem partsBut_portLap (s : State) (p : Nat) : partsBut [.regs, .ports] s (portLap s p) := by
  have hport := partsBut_setPort s p { s.port p with next := none }
  rw [portLap]
  split
  · exact partsBut_mono hport (by decide)
  · exact partsBut_trans (partsBut_mono hport (by decide))
      (partsBut_trans (partsBut_mono (partsBut_wrs _ _) (by decide)) (partsBut_mono (partsBut_wr _ _ _) (by decide)))

/-- The ring domain with a change of its own state alone. -/
def withTrn (s : State) (y : Trn) : State := { s with trn := y }

theorem partsBut_withTrn (s : State) (y : Trn) : partsBut [.trn] s (withTrn s y) := by
  intro p hp
  cases p <;> simp [Part.same, withTrn] at hp ⊢

theorem lapSync_eq (s : State) : lapSync s = if tLap s = 0 ∨ lapNow s = s.trn.lap then s
    else each (List.range 4) portLap (withTrn s { s.trn with
      lap := lapNow s, trains := [], good := false, judge := flag s TRN_STATUS_JOINED }) := rfl

theorem partsBut_lapSync (s : State) : partsBut [.regs, .ports, .trn] s (lapSync s) := by
  rw [lapSync_eq]
  split
  · exact partsBut_refl _ s
  · exact partsBut_trans (partsBut_mono (partsBut_withTrn s _) (by decide))
      (partsBut_each _ _ _ _ fun u p => partsBut_mono (partsBut_portLap u p) (by decide))

/-- The switch core with a change of its own state alone. -/
def withXb (s : State) (y : Xb) : State := { s with xb := y }

theorem partsBut_withXb (s : State) (y : Xb) : partsBut [.xb] s (withXb s y) := by
  intro p hp
  cases p <;> simp [Part.same, withXb] at hp ⊢

theorem partsBut_setEq (s : State) (q : Nat) (l : List XFrame) : partsBut [.xb] s (setEq s q l) := partsBut_withXb s _

theorem eqOf_setEq (s : State) (q k : Nat) (l : List XFrame) : eqOf (setEq s q l) k = if k = q then l else eqOf s k := tget_tput _ _ _ _ _

theorem eqOf_congr {s t : State} (q : Nat) (h : t.xb.eq = s.xb.eq) : eqOf t q = eqOf s q := by rw [eqOf, h, eqOf]

/-! ## A cell crosses (R194) -/

section
variable {s : State} {i o c : Nat} {f : XFrame} {l : List XFrame} (h : voqOf s (64 * i + (8 * o + c)) = f :: l)
include h

theorem moveCell_last (hc : cellsOf f.bytes ≤ f.crossed + 1) : moveCell s i o c =
    setEq (setVoq s (64 * i + (8 * o + c)) l) (8 * o + c) (eqOf s (8 * o + c) ++ [{ f with crossed := f.crossed + 1 }]) := by
  simp only [moveCell, h, if_pos hc]

theorem moveCell_more (hc : f.crossed + 1 < cellsOf f.bytes) : moveCell s i o c =
    setVoq s (64 * i + (8 * o + c)) ({ f with crossed := f.crossed + 1 } :: l) := by
  simp only [moveCell, h, if_neg (Nat.not_le.2 hc)]

theorem moveCell_spec : ∃ t, moveCell s i o c = t ∧ partsBut [.xb] s t ∧
    (cellsOf f.bytes ≤ f.crossed + 1 → voqOf t (64 * i + (8 * o + c)) = l ∧
      eqOf t (8 * o + c) = eqOf s (8 * o + c) ++ [{ f with crossed := f.crossed + 1 }]) ∧
    (f.crossed + 1 < cellsOf f.bytes → voqOf t (64 * i + (8 * o + c)) = { f with crossed := f.crossed + 1 } :: l ∧ t.xb.eq = s.xb.eq) := by
  by_cases hc : cellsOf f.bytes ≤ f.crossed + 1
  · obtain ⟨hvoq, -, hparts⟩ := setVoq_spec s (64 * i + (8 * o + c)) l
    refine ⟨_, moveCell_last h hc, partsBut_trans hparts (partsBut_setEq _ _ _), fun _ => ⟨hvoq, ?_⟩, fun hn => absurd hc (by omega)⟩
    rw [eqOf_setEq, if_pos rfl]
  · obtain ⟨hvoq, -, hparts⟩ := setVoq_spec s (64 * i + (8 * o + c)) ({ f with crossed := f.crossed + 1 } :: l)
    exact ⟨_, moveCell_more h (by omega), hparts, fun hn => absurd hn hc, fun _ => ⟨hvoq, rfl⟩⟩

end

/-! ## A wire starts a frame (R76, R196, R197) -/

section
variable {t : State} {w : Nat}

theorem wireStart_ring (hw : w < 4) {o : RingOut} {l : List RingOut} (h : (t.port w).waiting = o :: l)
    (hm : ringMay t w (ringLen o) = true) : wireStart t w = ringLeave (t.setPort w { t.port w with waiting := l }) w o := by
  simp only [wireStart, if_pos hw, ringNext, h, if_pos hm]

theorem ringNext_none (h : ∀ o l, (t.port w).waiting = o :: l → ringMay t w (ringLen o) = false) : ringNext t w = none := by
  rw [ringNext]
  split
  · rfl
  next o l ho => rw [h o l ho, if_neg (by decide)]

theorem wireStart_core (hb : t.rst.busy = false)
    (h : 4 ≤ w ∨ ∀ o l, (t.port w).waiting = o :: l → ringMay t w (ringLen o) = false) : wireStart t w = egressStart t w := by
  have hnone : (if w < 4 then ringNext t w else none) = none := by
    obtain h | h := h
    · rw [if_neg (Nat.not_lt.2 h)]
    · rw [ringNext_none h, ite_self]
  rw [wireStart, hnone]
  exact whenAlive_alive t (fun s => egressStart s w) hb

end

section
variable {s : State} {w : Nat} (hb : s.rst.busy = false)
include hb

theorem exec_egressFrameStart (hw : w < 8) : exec (.egressFrameStart w) s = .next (wireStart (advanceTo s (sendingTo s w)) w) := by
  refine congrArg Host.Outcome.next (if_neg ?_)
  simp [hb, Nat.not_le.2 hw]

theorem exec_freeWindowStart (hw : w < 4) : exec (.freeWindowStart w) s =
    .next (wireStart (lapSync (advanceTo s (max (freeFrom s w) (sendingTo s w)))) w) := by
  refine congrArg Host.Outcome.next (if_neg ?_)
  simp [hb, Nat.not_le.2 hw]

theorem exec_shaperTokens (dt : Nat) (hw : w < 8) : exec (.shaperTokens dt w) s = .next (egressStart (advance s dt) w) := by
  refine congrArg Host.Outcome.next ((whenAlive_alive _ _ ?_).trans (if_pos hw))
  exact (partsBut_advance s dt .rst (by decide)).symm ▸ hb

end

theorem choose_spec {s : State} {w q : Nat} (h : candidate s w 7 = some q ∨
    (candidate s w 7 = none ∧ (candidate s w 6 = some q ∨ (candidate s w 6 = none ∧ heldGoes s w = some q)))) :
    ∃ v, choose s w = (some q, v) ∧ v.xb.eq = s.xb.eq ∧ partsBut [.xb] s v := by
  rw [choose]
  obtain h7 | ⟨h7, h6 | ⟨h6, hh⟩⟩ := h
  · rw [h7]
    exact ⟨s, rfl, rfl, partsBut_refl _ s⟩
  · rw [h7, h6]
    exact ⟨s, rfl, rfl, partsBut_refl _ s⟩
  · rw [h7, h6, hh]
    exact ⟨_, rfl, rfl, partsBut_trans (partsBut_withXb s _) (partsBut_withXb _ _)⟩

/-- The head frame of the queue that is chosen leaves its queue and starts on the wire. -/
theorem egressStart_spec {s0 s : State} {w q : Nat} {f : XFrame} {l : List XFrame} (hs : s = pauseCheck (pauseCheck s0 0) 1)
    (h : candidate s w 7 = some q ∨
      (candidate s w 7 = none ∧ (candidate s w 6 = some q ∨ (candidate s w 6 = none ∧ heldGoes s w = some q))))
    (hq : eqOf s q = f :: l) : ∃ u, eqOf u q = l ∧ (∀ k, k ≠ q → eqOf u k = eqOf s k) ∧ partsBut [.xb] s u ∧
      egressStart s0 w = if f.inp = 4 ∨ f.inp = 5 then pauseCheck (sendFrame u w q f false false) (f.inp - 4)
        else sendFrame u w q f false false := by
  obtain ⟨v, hv, heq, hparts⟩ := choose_spec h
  obtain ⟨u, hu⟩ : ∃ u, u = withXb (setEq v q l) { (setEq v q l).xb with
    alt := tput (fun _ => facing w) (setEq v q l).xb.alt (8 * w + q % 8) (q / 8) } := ⟨_, rfl⟩
  have hu' : u.xb.eq = (setEq v q l).xb.eq := by rw [hu, withXb]
  refine ⟨u, ?_, fun k hk => ?_, ?_, ?_⟩
  · rw [eqOf_congr q hu', eqOf_setEq, if_pos rfl]
  · rw [eqOf_congr k hu', eqOf_setEq, if_neg hk, eqOf_congr k heq]
  · rw [hu]
    exact partsBut_trans hparts (partsBut_trans (partsBut_setEq v q l) (partsBut_withXb _ _))
  · rw [egressStart, ← hs, hv]
    simp only [eqOf_congr q heq, hq, hu, withXb]

/-! ## The overload monitor (R203) -/

/-- An interval ends with these numbers of intervals in a row; the drops count from 0 again. -/
def watched (s : State) (watch calm : Nat) : State := withXb s { s.xb with drops := 0, watch := watch, calm := calm }

/-- OVERLOAD is set, and its event noted. -/
def overloaded (s : State) : State := wrs (watched s 0 0) [(XB_STATUS_OVERLOAD, 1), (XB_EVT_OVERLOAD, 1)]

theorem overloaded_spec (s : State) : rd (overloaded s) XB_STATUS_OVERLOAD = 1 ∧ rd (overloaded s) XB_EVT_OVERLOAD = 1 ∧
    (overloaded s).xb = { s.xb with drops := 0, watch := 0, calm := 0 } ∧ partsBut [.regs, .xb] s (overloaded s) ∧
    cellsBut [XB_STATUS_OVERLOAD.addr, XB_EVT_OVERLOAD.addr] s (overloaded s) := by
  have hxb := partsBut_withXb s { s.xb with drops := 0, watch := 0, calm := 0 }
  have hcells := cellsBut_trans (cellsBut_mono (cellsBut_wr (watched s 0 0) XB_STATUS_OVERLOAD 1)
    (m := [XB_STATUS_OVERLOAD.addr, XB_EVT_OVERLOAD.addr]) (by decide)) (cellsBut_mono (cellsBut_wr _ XB_EVT_OVERLOAD 1) (by decide))
  simp only [overloaded, wrs_cons, wrs_nil]
  refine ⟨?_, rd_wr_bit _ _ rfl rfl, rfl, ?_, fun a ha => (hcells a ha).trans (cellAt_congr a (hxb .regs (by decide)))⟩
  · rw [rd_wr_addr _ _ _ _ (by decide)]
    exact rd_wr_bit _ _ rfl rfl
  · exact partsBut_trans (partsBut_mono hxb (by decide))
      (partsBut_trans (partsBut_mono (partsBut_wr _ _ _) (by decide)) (partsBut_mono (partsBut_wr _ _ _) (by decide)))

section
variable {s : State} (hb : s.rst.busy = false)
include hb

theorem exec_overloadInterval : exec .overloadInterval s = .next (if flag s XB_STATUS_OVERLOAD = true then
      (if s.xb.drops < rd s XB_OVL_CFG_CLR_THR then
        (if s.xb.calm + 1 = 30 then wr (watched s 0 0) XB_STATUS_OVERLOAD 0 else watched s 0 (s.xb.calm + 1)) else watched s 0 0)
    else if rd s XB_OVL_CFG_SET_THR ≤ s.xb.drops then
      (if s.xb.watch + 1 = 30 then raise (overloaded s) 56 (freePool (overloaded s)) else watched s (s.xb.watch + 1) 0)
    else watched s 0 0) :=
  congrArg Host.Outcome.next (whenAlive_alive s _ hb)

theorem exec_overloadInterval_calm (ho : rd s XB_STATUS_OVERLOAD = 0) : exec .overloadInterval s = .next
    (if rd s XB_OVL_CFG_SET_THR ≤ s.xb.drops then
      (if s.xb.watch + 1 = 30 then raise (overloaded s) 56 (freePool (overloaded s)) else watched s (s.xb.watch + 1) 0)
    else watched s 0 0) := by
  rw [exec_overloadInterval hb, if_neg (by rw [flag_false ho]; decide)]

theorem exec_overloadInterval_over (ho : rd s XB_STATUS_OVERLOAD = 1) : exec .overloadInterval s = .next
    (if s.xb.drops < rd s XB_OVL_CFG_CLR_THR then
      (if s.xb.calm + 1 = 30 then wr (watched s 0 0) XB_STATUS_OVERLOAD 0 else watched s 0 (s.xb.calm + 1)) else watched s 0 0) := by
  rw [exec_overloadInterval hb, if_pos (flag_true ho)]

/-- What an interval does while OVERLOAD is clear. -/
theorem overloadInterval_calm (ho : rd s XB_STATUS_OVERLOAD = 0) : ∃ t, exec .overloadInterval s = .next t ∧
    (s.xb.drops < rd s XB_OVL_CFG_SET_THR → t = watched s 0 0) ∧
    (rd s XB_OVL_CFG_SET_THR ≤ s.xb.drops → s.xb.watch ≠ 29 → t = watched s (s.xb.watch + 1) 0) ∧
    (rd s XB_OVL_CFG_SET_THR ≤ s.xb.drops → s.xb.watch = 29 → t = raise (overloaded s) 56 (freePool (overloaded s))) := by
  refine ⟨_, exec_overloadInterval_calm hb ho, fun h => ?_, fun h hw => ?_, fun h hw => ?_⟩
  · rw [if_neg (by omega)]
  · rw [if_pos h, if_neg (by omega)]
  · rw [if_pos h, if_pos (by omega)]

/-- What an interval does while OVERLOAD is set. -/
theorem overloadInterval_over (ho : rd s XB_STATUS_OVERLOAD = 1) : ∃ t, exec .overloadInterval s = .next t ∧
    (rd s XB_OVL_CFG_CLR_THR ≤ s.xb.drops → t = watched s 0 0) ∧
    (s.xb.drops < rd s XB_OVL_CFG_CLR_THR → s.xb.calm ≠ 29 → t = watched s 0 (s.xb.calm + 1)) ∧
    (s.xb.drops < rd s XB_OVL_CFG_CLR_THR → s.xb.calm = 29 → t = wr (watched s 0 0) XB_STATUS_OVERLOAD 0) := by
  refine ⟨_, exec_overloadInterval_over hb ho, fun h => ?_, fun h hw => ?_, fun h hw => ?_⟩
  · rw [if_neg (by omega)]
  · rw [if_pos h, if_neg (by omega)]
  · rw [if_pos h, if_pos (by omega)]

theorem overloadInterval_spec : ∃ t, exec .overloadInterval s = .next t ∧
    (rd s XB_STATUS_OVERLOAD = 0 → s.xb.drops < rd s XB_OVL_CFG_SET_THR →
      t.xb = { s.xb with drops := 0, watch := 0, calm := 0 } ∧ partsBut [.xb] s t) ∧
    (rd s XB_STATUS_OVERLOAD = 0 → rd s XB_OVL_CFG_SET_THR ≤ s.xb.drops → s.xb.watch ≠ 29 →
      t.xb = { s.xb with drops := 0, watch := s.xb.watch + 1, calm := 0 } ∧ partsBut [.xb] s t) ∧
    (rd s XB_STATUS_OVERLOAD = 0 → rd s XB_OVL_CFG_SET_THR ≤ s.xb.drops → s.xb.watch = 29 → ∃ u, t = raise u 56 (freePool u) ∧
      rd u XB_STATUS_OVERLOAD = 1 ∧ rd u XB_EVT_OVERLOAD = 1 ∧ u.xb = { s.xb with drops := 0, watch := 0, calm := 0 } ∧
      partsBut [.regs, .xb] s u ∧ cellsBut [XB_STATUS_OVERLOAD.addr, XB_EVT_OVERLOAD.addr] s u) ∧
    (rd s XB_STATUS_OVERLOAD = 1 → rd s XB_OVL_CFG_CLR_THR ≤ s.xb.drops →
      t.xb = { s.xb with drops := 0, watch := 0, calm := 0 } ∧ partsBut [.xb] s t) ∧
    (rd s XB_STATUS_OVERLOAD = 1 → s.xb.drops < rd s XB_OVL_CFG_CLR_THR → s.xb.calm ≠ 29 →
      t.xb = { s.xb with drops := 0, watch := 0, calm := s.xb.calm + 1 } ∧ partsBut [.xb] s t) ∧
    (rd s XB_STATUS_OVERLOAD = 1 → s.xb.drops < rd s XB_OVL_CFG_CLR_THR → s.xb.calm = 29 → rd t XB_STATUS_OVERLOAD = 0 ∧
      t.xb = { s.xb with drops := 0, watch := 0, calm := 0 } ∧ partsBut [.regs, .xb] s t ∧ cellsBut [XB_STATUS_OVERLOAD.addr] s t) := by
  have hwatched : ∀ {t : State} {watch calm : Nat}, t = watched s watch calm →
      t.xb = { s.xb with drops := 0, watch := watch, calm := calm } ∧ partsBut [.xb] s t :=
    fun ht => ht ▸ ⟨rfl, partsBut_withXb s _⟩
  obtain ho | ho := rd_bit s (f := XB_STATUS_OVERLOAD) rfl
  · obtain ⟨t, ht, hbelow, hmore, hset⟩ := overloadInterval_calm hb ho
    refine ⟨t, ht, fun _ h => hwatched (hbelow h), fun _ h hw => hwatched (hmore h hw),
      fun _ h hw => ⟨_, hset h hw, overloaded_spec s⟩, fun h => ?_, fun h => ?_, fun h => ?_⟩
    all_goals exact absurd (ho.symm.trans h) (by decide)
  · obtain ⟨t, ht, habove, hmore, hclear⟩ := overloadInterval_over hb ho
    refine ⟨t, ht, fun h => ?_, fun h => ?_, fun h => ?_, fun _ h => hwatched (habove h), fun _ h hw => hwatched (hmore h hw),
      fun _ h hw => ?_⟩
    iterate 3 exact absurd (h.symm.trans ho) (by decide)
    have hxb := partsBut_withXb s { s.xb with drops := 0, watch := 0, calm := 0 }
    rw [hclear h hw]
    exact ⟨rd_wr_bit _ _ rfl rfl, rfl, partsBut_trans (partsBut_mono hxb (by decide)) (partsBut_mono (partsBut_wr _ _ _) (by decide)),
      fun a ha => (cellsBut_wr _ _ _ a ha).trans (cellAt_congr a (hxb .regs (by decide)))⟩

end

/-! ## Broken links (R191) -/

theorem partsBut_setLink (s : State) (n : Nat) (x : Link) : partsBut [.xb] s (s.setLink n x) := partsBut_withXb s _

theorem link_setLink (s : State) (n m : Nat) (x : Link) : (s.setLink n x).link m = if m = n then x else s.link m := tget_tput _ _ _ _ _

theorem link_congr {s t : State} (n : Nat) (h : t.xb = s.xb) : t.link n = s.link n := by rw [State.link, h, State.link]

/-- The overflow bit of a ring's list. -/
def ovfField (r : Nat) : Fld := if r = 0 then XB_STATUS_FLT_OVF_A else XB_STATUS_FLT_OVF_B

theorem ovfField_spec (r : Nat) : (ovfField r).fits = true ∧ (ovfField r).w = 1 ∧ (ovfField r).addr = XB_STATUS_FLT_OVF_A.addr := by
  rw [ovfField]
  split <;> exact ⟨rfl, rfl, rfl⟩

theorem overflowed_eq (s : State) (r : Nat) : overflowed s r = flag s (ovfField r) := (apply_ite (flag s) _ _ _).symm

theorem overflowed_setOverflow (s : State) (r : Nat) (b : Bool) : overflowed (setOverflow s r b) r = b := by
  obtain ⟨hfits, hw, -⟩ := ovfField_spec r
  rw [overflowed_eq, flag, show setOverflow s r b = wrB s (ovfField r) b from rfl, rd_wrB s b hfits hw]
  cases b <;> rfl

theorem regsOnly_setOverflow (s : State) (r : Nat) (b : Bool) : regsOnly [XB_STATUS_FLT_OVF_A.addr] s (setOverflow s r b) := by
  obtain ⟨-, -, ha⟩ := ovfField_spec r
  rw [← ha]
  exact regsOnly_wr s _ _

theorem xbFlt_ne_status (n : Nat) : (XB_FLT_VALID n).addr ≠ XB_STATUS_FLT_OVF_A.addr := by
  simp only [XB_FLT_VALID, XB_STATUS_FLT_OVF_A]
  omega

section
variable {s : State} {x : List Byte} {r l pos : Nat} (hb : s.rst.busy = false) (hr : r = beNat (slice x 1 1) % 2)
  (hp : position s r (beNat (slice x 2 2) % 4096) = some pos) (hl : l = linkAt s r pos (bits (beNat (slice x 1 1)) 1 1))
include hb hr hp hl

theorem exec_faultNotice_broken (hk : beNat (slice x 0 1) = 1 ∨ beNat (slice x 0 1) = 3) : exec (.faultNotice x) s = .next
    (if broken s r l = true ∧ overflowed s r = overflowed (linkAdd s r l false) r then linkAdd s r l false
      else routeAll (linkAdd s r l false)) := by
  refine congrArg Host.Outcome.next ((whenAlive_alive s _ hb).trans ?_)
  simp only [noticeTake, ← hr, hp, ← hl, if_pos hk]

theorem exec_faultNotice_mended {n : Nat} (hk : beNat (slice x 0 1) = 2) (hn : linkEntry s r l = some n) :
    exec (.faultNotice x) s = .next (routeAll (linkDrop s n)) := by
  refine congrArg Host.Outcome.next ((whenAlive_alive s _ hb).trans ?_)
  simp only [noticeTake, ← hr, hp, ← hl, if_neg (show ¬(beNat (slice x 0 1) = 1 ∨ beNat (slice x 0 1) = 3) by omega), if_pos hk, hn]

end

theorem exec_brokenLinkTimeout {s : State} {n : Nat} (hb : s.rst.busy = false) (hn : n < 32) (hv : rd s (XB_FLT_VALID n) = 1)
    (hs : (s.link n).seen ≠ none) : exec (.brokenLinkTimeout n) s = .next (routeAll (linkDrop s n)) := by
  refine congrArg Host.Outcome.next ((whenAlive_alive s _ hb).trans (if_pos ⟨hn, flag_true hv, ?_⟩))
  exact Option.isSome_iff_ne_none.2 hs

/-- The entry that leaves the list, and the list with room again. -/
def linkGone (s : State) (n : Nat) : State :=
  setOverflow ((wrs s [(XB_FLT_LINK n, 0), (XB_FLT_VALID n, 0)]).setLink n {}) (n / 16) false

theorem linkGone_spec (s : State) (n : Nat) : (linkGone s n).link n = {} ∧ (∀ m, m ≠ n → (linkGone s n).link m = s.link m) ∧
    rd (linkGone s n) (XB_FLT_VALID n) = 0 ∧ overflowed (linkGone s n) (n / 16) = false ∧ partsBut [.regs, .xb] s (linkGone s n) := by
  obtain ⟨u, hu⟩ : ∃ u, u = wrs s [(XB_FLT_LINK n, 0), (XB_FLT_VALID n, 0)] := ⟨_, rfl⟩
  have hurd : rd u (XB_FLT_VALID n) = 0 := by
    rw [hu, wrs_cons, wrs_cons, wrs_nil]
    exact rd_wr_bit _ _ rfl rfl
  have hup := hu ▸ partsBut_wrs s _
  obtain ⟨hparts, hcells⟩ := regsOnly_setOverflow (u.setLink n {}) (n / 16) false
  have hgone : linkGone s n = setOverflow (u.setLink n {}) (n / 16) false := by rw [linkGone, hu]
  have hlink : ∀ m, (linkGone s n).link m = if m = n then {} else s.link m := fun m => by
    rw [hgone, link_congr m (hparts .xb (by decide)), link_setLink, link_congr m (hup .xb (by decide))]
  refine ⟨by rw [hlink, if_pos rfl], fun m hm => by rw [hlink, if_neg hm], ?_, ?_, ?_⟩
  · rw [hgone, rd_of_cellsBut_one hcells (xbFlt_ne_status n), rd_congr _ (partsBut_setLink u n {} .regs (by decide)), hurd]
  · rw [hgone, overflowed_setOverflow]
  · rw [hgone]
    exact partsBut_trans (partsBut_mono hup (by decide))
      (partsBut_trans (partsBut_mono (partsBut_setLink u n {}) (by decide)) (partsBut_mono hparts (by decide)))

theorem linkDrop_spec (s : State) (n : Nat) : ∃ t, (t.link n).seen = none ∧ (∀ m, m ≠ n → t.link m = s.link m) ∧
    partsBut [.regs, .xb] s t ∧
    ((s.link n).own = true → linkDrop s n = t ∧ (t.link n).own = true ∧ t.regs = s.regs) ∧
    ((s.link n).own = false → linkDrop s n = ownAgain t (n / 16) ∧ rd t (XB_FLT_VALID n) = 0 ∧ overflowed t (n / 16) = false ∧
      (t.link n).own = false) := by
  cases ho : (s.link n).own with
  | true =>
    have hset : linkDrop s n = s.setLink n { s.link n with seen := none } := if_pos ho
    have hparts := partsBut_setLink s n { s.link n with seen := none }
    have hlink := link_setLink s n n { s.link n with seen := none }
    rw [if_pos rfl] at hlink
    exact ⟨_, by rw [hlink], fun m hm => by rw [link_setLink, if_neg hm], partsBut_mono hparts (by decide),
      fun _ => ⟨hset, by rw [hlink, ho], hparts .regs (by decide)⟩, nofun⟩
  | false =>
    obtain ⟨hlink, hothers, hvalid, hovf, hparts⟩ := linkGone_spec s n
    exact ⟨linkGone s n, by rw [hlink], hothers, hparts, nofun,
      fun _ => ⟨if_neg (by rw [ho]; decide), hvalid, hovf, by rw [hlink]⟩⟩

theorem ownAgain_placed {s u : State} {r o : Nat} (h : position s r (rd s SYS_HUB_ID_ID) = some o)
    (hu : u = if isUp s (2 * r) = true then s else linkAdd s r (linkAt s r o 0) true) :
    ownAgain s r = if isUp u (2 * r + 1) = true then u else linkAdd u r (linkAt u r o 1) true := by
  rw [ownAgain, h, hu]
  rfl

/-- An entry is taken for a link: its registers. -/
def linkNoted (s : State) (l n : Nat) : State := wrs s [(XB_FLT_LINK n, l), (XB_FLT_VALID n, 1)]

theorem linkNoted_spec (s : State) (l n : Nat) : rd (linkNoted s l n) (XB_FLT_VALID n) = 1 ∧
    rd (linkNoted s l n) (XB_FLT_LINK n) = l % 2 ^ 12 ∧ regsOnly [(XB_FLT_VALID n).addr] s (linkNoted s l n) := by
  simp only [linkNoted, wrs_cons, wrs_nil]
  refine ⟨rd_wr_bit _ _ rfl rfl, ?_, regsOnly_trans (regsOnly_wr s (XB_FLT_LINK n) l) (regsOnly_wr _ _ _)⟩
  rw [rd_wr_apart _ _ rfl rfl]
  exact rd_wr_same _ _ rfl

section
variable {s : State} {r l n : Nat} {own : Bool} (h : linkEntry s r l = none)
include h

theorem linkAdd_full (hf : (listOf r).find? (fun k => !flag s (XB_FLT_VALID k)) = none) : linkAdd s r l own = setOverflow s r true := by
  simp only [linkAdd, h, hf]

theorem linkAdd_joins (hf : (listOf r).find? (fun k => !flag s (XB_FLT_VALID k)) = some n) : ∃ t, linkAdd s r l own = t ∧
    rd t (XB_FLT_VALID n) = 1 ∧ rd t (XB_FLT_LINK n) = l % 2 ^ 12 ∧
    (t.link n).seen = (if own = true then (s.link n).seen else some (ftNs s)) ∧ (t.link n).own = ((s.link n).own || own) ∧
    partsBut [.regs, .xb] s t ∧ cellsBut [(XB_FLT_VALID n).addr] s t := by
  obtain ⟨u, hu⟩ : ∃ u, u = linkNoted s l n := ⟨_, rfl⟩
  obtain ⟨hvalid, hlink, hparts, hcells⟩ := hu ▸ linkNoted_spec s l n
  obtain ⟨x, hx⟩ : ∃ x : Link, x = { own := (u.link n).own || own, seen := if own then (u.link n).seen else some (ftNs s) } := ⟨_, rfl⟩
  have hadd : linkAdd s r l own = u.setLink n x := by
    simp only [linkAdd, h, hf, hx, hu, linkNoted]
  have hset := partsBut_setLink u n x
  have hregs := hset .regs (by decide)
  have hxn := link_setLink u n n x
  rw [if_pos rfl] at hxn
  rw [link_congr n (hparts .xb (by decide))] at hx
  refine ⟨_, hadd, (rd_congr _ hregs).trans hvalid, (rd_congr _ hregs).trans hlink, by rw [hxn, hx], by rw [hxn, hx],
    partsBut_trans (partsBut_mono hparts (by decide)) (partsBut_mono hset (by decide)),
    fun a ha => (cellAt_congr a hregs).trans (hcells a ha)⟩

end

/-- Settles O33: cells by `moveCell_spec`, wires by `wireStart_ring`, `wireStart_core` and `egressStart_spec`, the overload monitor by
`overloadInterval_spec`, broken links by `linkDrop_spec` and `linkAdd_joins`. -/
theorem cellsFramesAndBrokenLinks : Obligations.CellsFramesAndBrokenLinks := by
  unfold Obligations.CellsFramesAndBrokenLinks
  refine ⟨fun s hb => ?_, fun s i o c f l h => moveCell_spec h, fun s w hb hw => ⟨?_, ?_, fun dt => exec_shaperTokens hb dt hw⟩,
    fun s0 s w q f l hs h hq => egressStart_spec hs h hq, fun s d hb hd => hd ▸ overloadInterval_spec hb,
    fun s x r l pos hb hr hp hl => ⟨exec_faultNotice_broken hb hr hp hl, fun n => exec_faultNotice_mended hb hr hp hl⟩,
    fun s n hb hn hv hs => exec_brokenLinkTimeout hb hn hv hs, linkDrop_spec,
    fun s u r o => ⟨fun h => by rw [ownAgain, h], ownAgain_placed⟩, fun s r l n own _ h => ⟨linkAdd_full h, linkAdd_joins h⟩⟩
  · refine congrArg Host.Outcome.next (whenAlive_alive _ _ ?_)
    exact (partsBut_advance s 8 .rst (by decide)).symm ▸ hb
  · rintro t rfl
    have hrst : (advanceTo s (sendingTo s w)).rst.busy = false := (partsBut_advanceTo s _ .rst (by decide)).symm ▸ hb
    refine ⟨fun o l hw4 ho hm => ?_, fun h => ?_⟩
    · rw [exec_egressFrameStart hb hw, wireStart_ring hw4 ho hm]
    · rw [exec_egressFrameStart hb hw, wireStart_core hrst h]
  · rintro t hw4 rfl
    have hrst : (lapSync (advanceTo s (max (freeFrom s w) (sendingTo s w)))).rst.busy = false := by
      rw [partsBut_lapSync _ .rst (by decide), partsBut_advanceTo s _ .rst (by decide), hb]
    refine ⟨fun o l ho hm => ?_, fun h => ?_⟩
    · rw [exec_freeWindowStart hb hw4, wireStart_ring hw4 ho hm]
    · rw [exec_freeWindowStart hb hw4, wireStart_core hrst (.inr h)]

end Sys2Proof.Machine

/-! SUPPORT. The state of the trains and of the rings: what a change of one leaves of the others, and the registers of the roles. -/

namespace Sys2Proof.Machine

/-! ## Trains and rings -/

theorem train_setTrain (s : State) (t k : Nat) (x : Train) : (s.setTrain t x).train k = if k = t then x else s.train k :=
  tget_tput _ _ _ _ _

theorem partsBut_setTrain (s : State) (t : Nat) (x : Train) : partsBut [.trn] s (s.setTrain t x) := partsBut_withTrn s _

theorem partsBut_setRing (s : State) (r : Nat) (x : Ring) : partsBut [.trn] s (s.setRing r x) := partsBut_withTrn s _

theorem train_congr {s t : State} (k : Nat) (h : t.trn = s.trn) : t.train k = s.train k := by rw [State.train, h, State.train]

theorem ring_congr {s t : State} (r : Nat) (h : t.trn = s.trn) : t.ring r = s.ring r := by rw [State.ring, h, State.ring]

/-! ## The registers of the roles (R66, R80, R88) -/

/-- LAUNCH of a ring. -/
def launchField (r : Nat) : Fld := if r = 0 then TRN_STATUS_LAUNCH_A else TRN_STATUS_LAUNCH_B

theorem launches_eq (s : State) (r : Nat) : launches s r = flag s (launchField r) := (apply_ite (flag s) _ _ _).symm

theorem launchField_bit (r : Nat) : (launchField r).fits = true ∧ (launchField r).w = 1 ∧ (launchField r).addr = TRN_STATUS_LAUNCH_A.addr := by
  rw [launchField]
  split <;> exact ⟨rfl, rfl, rfl⟩

theorem launches_congr {s t : State} (r : Nat) (h : rd t (launchField r) = rd s (launchField r)) : launches t r = launches s r := by
  rw [launches_eq, launches_eq, flag_congr h]

theorem launches_of_regs {s t : State} (r : Nat) (h : t.regs = s.regs) : launches t r = launches s r := launches_congr r (rd_congr _ h)

theorem launches_of_cellsBut {l : List Nat} {s t : State} (r : Nat) (h : cellsBut l s t) (hl : TRN_STATUS_LAUNCH_A.addr ∉ l) :
    launches t r = launches s r :=
  launches_congr r (rd_of_cellsBut h _ ((launchField_bit r).2.2 ▸ hl))

/-- A field that shares no bit position with LAUNCH_A and LAUNCH_B. -/
theorem launches_wr_apart (s : State) (r v : Nat) {f : Fld} (hf : f.fits = true) (ha : f.apart TRN_STATUS_LAUNCH_A = true)
    (hb : f.apart TRN_STATUS_LAUNCH_B = true) : launches (wr s f v) r = launches s r := by
  refine launches_congr r (rd_wr_apart s v hf ?_)
  rw [launchField]
  split
  · exact ha
  · exact hb

theorem setLaunch_eq (s : State) (r : Nat) (b : Bool) : setLaunch s r b = wrB s (launchField r) b := rfl

theorem regsOnly_setLaunch (s : State) (r : Nat) (b : Bool) : regsOnly [TRN_STATUS_LAUNCH_A.addr] s (setLaunch s r b) := by
  obtain ⟨-, -, ha⟩ := launchField_bit r
  rw [← ha]
  exact regsOnly_wr s _ _

theorem launchField_apart {q r : Nat} (hq : q < 2) (hr : r < 2) (h : q ≠ r) : (launchField r).apart (launchField q) = true := by
  obtain ⟨rfl, rfl⟩ | ⟨rfl, rfl⟩ : (q = 0 ∧ r = 1) ∨ (q = 1 ∧ r = 0) := by omega
  · rfl
  · rfl

theorem launches_setLaunch (s : State) {q r : Nat} (b : Bool) (hq : q < 2) (hr : r < 2) :
    launches (setLaunch s r b) q = if q = r then b else launches s q := by
  obtain ⟨hfits, hw, -⟩ := launchField_bit r
  split
  next h =>
    rw [h, launches_eq, flag, setLaunch_eq, rd_wrB s b hfits hw]
    cases b <;> rfl
  next h => exact launches_congr q (rd_wr_apart s _ hfits (launchField_apart hq hr h))

theorem bits_mod_two_pow (n : Nat) {lo w m : Nat} (h : lo + w ≤ m) : bits (n % 2 ^ m) lo w = bits n lo w := by
  apply Nat.eq_of_testBit_eq
  intro i
  rw [testBit_bits, testBit_bits, Nat.testBit_mod_two_pow]
  by_cases hi : i < w
  · rw [decide_eq_true (show lo + i < m by omega), Bool.true_and]
  · simp [hi]

theorem headlessBits_setHeadless (s : State) {r : Nat} (b : Bool) (hr : r < 2) :
    bits (rd (setHeadless s r b) TRN_STATUS_HEADLESS) (2 * r) 2 = if b = true then 3 else 0 := by
  rw [setHeadless, rd_wr_same _ _ rfl, show TRN_STATUS_HEADLESS.w = 4 from rfl, bits_mod_two_pow _ (by omega), bits_setBits_self]
  cases b <;> rfl

theorem regsOnly_setHeadless (s : State) (r : Nat) (b : Bool) : regsOnly [TRN_STATUS_HEADLESS.addr] s (setHeadless s r b) :=
  regsOnly_wr s _ _

/-! ## A ring is launched from a lap on (R81, R83, R88) -/

/-- The ring is launched, and the lap kept from which it is. -/
def ringStarted (s : State) (r : Nat) (lap : Int) : State := (setLaunch s r true).setRing r { s.ring r with launched := some lap }

theorem ringStarted_spec (s : State) {r : Nat} (lap : Int) (hr : r < 2) :
    (∀ q < 2, launches (ringStarted s r lap) q = if q = r then true else launches s q) ∧
    ((ringStarted s r lap).ring r).launched = some lap ∧ partsBut [.regs, .trn] s (ringStarted s r lap) ∧
    cellsBut [TRN_STATUS_LAUNCH_A.addr] s (ringStarted s r lap) := by
  obtain ⟨hparts, hcells⟩ := regsOnly_setLaunch s r true
  have hring := partsBut_setRing (setLaunch s r true) r { s.ring r with launched := some lap }
  have hregs := hring .regs (by decide)
  refine ⟨fun q hq => ?_, ?_, partsBut_trans (partsBut_mono hparts (by decide)) (partsBut_mono hring (by decide)),
    fun a ha => (cellAt_congr a hregs).trans (hcells a ha)⟩
  · rw [ringStarted, launches_of_regs q hregs, launches_setLaunch s true hq hr]
  · rw [ringStarted, ring_setRing, if_pos rfl]

theorem startRing_eq (s : State) (r : Nat) (lap : Int) : startRing s r lap = originSettle
    (if (launches (ringStarted s r lap) 0 && launches (ringStarted s r lap) 1) = true then wr (ringStarted s r lap) TRN_STATUS_STANDBY 0
      else ringStarted s r lap) := rfl

/-- A ring that the hub starts: with both rings launched it stands by for none. -/
theorem startRing_spec (s : State) {r : Nat} (lap : Int) (hr : r < 2) : ∃ u, startRing s r lap = originSettle u ∧ launches u r = true ∧
    (u.ring r).launched = some lap ∧ launches u (1 - r) = launches s (1 - r) ∧
    (launches s (1 - r) = true → rd u TRN_STATUS_STANDBY = 0) ∧ partsBut [.regs, .trn] s u ∧ cellsBut [TRN_STATUS_STANDBY.addr] s u := by
  obtain ⟨hlaunch, hring, hparts, hcells⟩ := ringStarted_spec s lap hr
  have hself : launches (ringStarted s r lap) r = true := by rw [hlaunch r hr, if_pos rfl]
  have hother : launches (ringStarted s r lap) (1 - r) = launches s (1 - r) := by rw [hlaunch _ (by omega), if_neg (by omega)]
  have hboth : (launches (ringStarted s r lap) 0 && launches (ringStarted s r lap) 1) = launches s (1 - r) := by
    rw [← hother]
    interval_cases r
    · rw [hself, Bool.true_and]
    · rw [hself, Bool.and_true]
  rw [startRing_eq, hboth]
  cases hone : launches s (1 - r) with
  | true =>
    have hkeep : ∀ q, launches (wr (ringStarted s r lap) TRN_STATUS_STANDBY 0) q = launches (ringStarted s r lap) q :=
      fun q => launches_wr_apart _ q 0 rfl rfl rfl
    have hregs := regsOnly_wr (ringStarted s r lap) TRN_STATUS_STANDBY 0
    refine ⟨_, by rw [if_pos rfl], by rw [hkeep, hself], ?_, by rw [hkeep, hother, hone], fun _ => rd_wr_bit _ _ rfl rfl,
      partsBut_trans hparts (partsBut_mono hregs.1 (by decide)), cellsBut_trans hcells hregs.2⟩
    rw [ring_congr r (hregs.1 .trn (by decide)), hring]
  | false =>
    exact ⟨_, by rw [if_neg (by decide)], hself, hring, hother.trans hone, nofun, hparts, hcells⟩

end Sys2Proof.Machine

/-! SUPPORT. Obligation O22: trains judged, rings launched, missed laps and the return to the programmed window. -/

namespace Sys2Proof.Machine

/-! ## Trains judged (R80, R81) -/

section
variable {s u : State} {t : Nat} (ht : t < 4) (hu : u = lapSync s)
include ht hu

theorem exec_trainBroken (h : (u.train t).st = .running) :
    exec (.trainBroken t) s = .next (judgeRing (u.setTrain t { u.train t with st := .broken }) (t / 2)) := by
  refine congrArg Host.Outcome.next ?_
  rw [← hu, if_pos ⟨ht, h⟩]

theorem exec_trainOverdue (h : (u.train t).st = .wait) :
    exec (.trainOverdue t) s = .next (judgeRing (u.setTrain t { u.train t with st := .overdue }) (t / 2)) := by
  refine congrArg Host.Outcome.next ?_
  rw [← hu, if_pos ⟨ht, h⟩]

end

theorem exec_repairLaunch {s u : State} {t : Nat} {l : List (List Byte)} (ht : t < 4)
    (hu : u = lapSync (advanceTo s (ringBusy s (if isUp s t = true then t else facing t)))) (hl : launches u (t / 2) = true)
    (hlap : rd u TRN_TLAP_NS ≠ 0) (hst : (u.train t).st = .broken ∨ (u.train t).st = .overdue)
    (hf : l = trainFrames u true t (if (u.train t).st = .broken then (u.train t).lastNo + 1 else 0)) : exec (.repairLaunch t) s =
      .next ((addSat (sendTrain u t l) (TRN_STALE_CNT_REPAIR t) l.length).setTrain t { u.train t with st := .broken, lastNo := 65535 }) := by
  refine congrArg Host.Outcome.next ?_
  rw [trainPort, ← hu, if_pos ⟨ht, hl, hst, hlap⟩, hf]

/-! ## Rings judged (R80, R81) -/

/-- A ring that is not judged stays as it is. -/
theorem judgeRing_unjudged {s : State} {r : Nat} (h : rd s TRN_STATUS_JOINED = 0 ∨ (isUp s (2 * r) = false ∧ isUp s (2 * r + 1) = false) ∨
    headless s r = true ∨ (s.train (2 * r)).st ∈ [.running, .complete] ∨ (s.train (2 * r + 1)).st ∈ [.running, .complete] ∨
    ((s.train (2 * r)).st = .wait ∧ (s.train (2 * r + 1)).st = .wait)) : judgeRing s r = s := by
  refine if_pos ?_
  obtain h | ⟨h, h'⟩ | h | h | h | ⟨h, h'⟩ := h
  · simp [flag_false h]
  · simp [h, h']
  · simp [h]
  · obtain h | h := (by simpa using h : _ ∨ _)
    all_goals simp [h]
  · obtain h | h := (by simpa using h : _ ∨ _)
    all_goals simp [h]
  · simp [h, h']

/-- The event of a headless ring. -/
def headLossField (r : Nat) : Fld := if r = 0 then TRN_EVT_HEAD_LOSS_A else TRN_EVT_HEAD_LOSS_B

theorem headLossField_bit (r : Nat) :
    (headLossField r).fits = true ∧ (headLossField r).w = 1 ∧ (headLossField r).addr = TRN_EVT_HEAD_LOSS_A.addr := by
  rw [headLossField]
  split <;> exact ⟨rfl, rfl, rfl⟩

/-- A ring found headless: HEADLESS is set, and its event noted. -/
def ringHeadless (s : State) (r : Nat) : State := wr (setHeadless s r true) (headLossField r) 1

theorem ringHeadless_spec (s : State) {r : Nat} (hr : r < 2) : bits (rd (ringHeadless s r) TRN_STATUS_HEADLESS) (2 * r) 2 = 3 ∧
    rd (ringHeadless s r) (headLossField r) = 1 ∧ regsOnly [TRN_STATUS_HEADLESS.addr, TRN_EVT_HEAD_LOSS_A.addr] s (ringHeadless s r) := by
  obtain ⟨hfits, hw, ha⟩ := headLossField_bit r
  refine ⟨?_, rd_wr_bit _ _ hfits hw, regsOnly_trans (regsOnly_mono (regsOnly_setHeadless s r true) (by decide))
    (regsOnly_mono (regsOnly_wr _ (headLossField r) 1) (by simp [ha]))⟩
  rw [ringHeadless, rd_wr_addr _ _ _ _ (by rw [ha]; decide)]
  exact headlessBits_setHeadless s true hr

theorem live_of_mem {x : TrainSt} (h : x ∈ [.wait, .broken, .overdue]) : x ≠ .running ∧ x ≠ .complete := by
  cases x <;> simp at h ⊢

theorem dead_of_mem {x : TrainSt} (h : x ∈ [.wait, .broken, .overdue]) (hw : x ≠ .wait) : x = .broken ∨ x = .overdue := by
  simpa [hw] using h

/-- A ring with no train alive and one dead is headless; a standby takes it over. -/
theorem judgeRing_judged {s : State} {r : Nat} (hj : rd s TRN_STATUS_JOINED = 1) (hup : isUp s (2 * r) = true ∨ isUp s (2 * r + 1) = true)
    (hh : headless s r = false) (hst : ∀ k, k = 2 * r ∨ k = 2 * r + 1 → (s.train k).st ∈ [.wait, .broken, .overdue])
    (hw : (s.train (2 * r)).st ≠ .wait ∨ (s.train (2 * r + 1)).st ≠ .wait) :
    judgeRing s r = if flag (raise (ringHeadless s r) 17 (rd (ringHeadless s r) TRN_STATUS_HEADLESS)) TRN_STATUS_STANDBY = true ∧
        launches (raise (ringHeadless s r) 17 (rd (ringHeadless s r) TRN_STATUS_HEADLESS)) r = false
      then takeRing (raise (ringHeadless s r) 17 (rd (ringHeadless s r) TRN_STATUS_HEADLESS)) r
      else raise (ringHeadless s r) 17 (rd (ringHeadless s r) TRN_STATUS_HEADLESS) := by
  have ha := hst (2 * r) (.inl rfl)
  have hb := hst (2 * r + 1) (.inr rfl)
  have hjudge : judgeRing s r = if flag (raise (ringHeadless s r) 17 (rd (ringHeadless s r) TRN_STATUS_HEADLESS)) TRN_STATUS_STANDBY = true ∧
        (!launches (raise (ringHeadless s r) 17 (rd (ringHeadless s r) TRN_STATUS_HEADLESS)) r) = true
      then takeRing (raise (ringHeadless s r) 17 (rd (ringHeadless s r) TRN_STATUS_HEADLESS)) r
      else raise (ringHeadless s r) 17 (rd (ringHeadless s r) TRN_STATUS_HEADLESS) := by
    refine if_neg ?_
    simp only [flag_true hj, hh]
    simpa [live_of_mem ha, live_of_mem hb, imp_iff_not_or, ← not_and_or] using And.intro hup (hw.imp (dead_of_mem ha) (dead_of_mem hb))
  rw [hjudge]
  simp only [Bool.not_eq_true']

/-! ## A named head starts a ring (R88) -/

/-- The merge image a head starts with: its own where it keeps one, and none else. -/
def headMerge (s : State) : State := if merges s then s else withTrn s { s.trn with merge := [] }

theorem headMerge_spec (s : State) : partsBut [.trn] s (headMerge s) ∧ (headMerge s).trn.merge = if merges s = true then s.trn.merge else [] := by
  rw [headMerge]
  split
  · exact ⟨partsBut_refl _ s, rfl⟩
  · exact ⟨partsBut_withTrn s _, rfl⟩

theorem exec_headStartLaunch {s v w : State} {r : Nat} (hr : r < 2) (hv : v = lapSync s)
    (hrole : rd v TRN_CTRL_ROLE = 1 ∨ rd v TRN_CTRL_ROLE = 2) (hb : s.rst.busy = false) (hl : launches v r = false)
    (hstep : 10 < rd v SYS_STEP_STEP) (hlap : rd v TRN_TLAP_NS ≠ 0)
    (hw : w = lapSync (advanceTo v ((v.ring r).quiet + (if rd v TRN_CTRL_ROLE = 1 then 2 else 16) * rd v TRN_TLAP_NS))) :
    exec (.headStartLaunch r) s = .next (startRing (headMerge w) r (lapNow (headMerge w))) := by
  refine congrArg Host.Outcome.next ((whenAlive_alive s _ hb).trans ?_)
  have hgo : ¬(2 ≤ r ∨ (!(rd v TRN_CTRL_ROLE == 1 || rd v TRN_CTRL_ROLE == 2)) = true ∨ launches v r = true ∨ rd v SYS_STEP_STEP < 11 ∨
      tLap v = 0) := by
    rw [hl, tLap]
    rintro (h | h | h | h | h)
    · omega
    · simp at h
      omega
    · cases h
    · omega
    · exact hlap h
  rw [← hv, if_neg hgo, headWait, tLap, ← hw, headMerge, withTrn]

/-! ## Laps (R66, R84) -/

/-- A lap without a good frame, as it shows. -/
def lapMissed (s : State) (lap : Nat) : State := wr (withTrn s { s.trn with missing := true, missLap := lap }) TRN_EVT_LAP_MISS 1

theorem lapMissed_spec (s : State) (lap : Nat) : rd (lapMissed s lap) TRN_EVT_LAP_MISS = 1 ∧
    (lapMissed s lap).trn = { s.trn with missing := true, missLap := lap } ∧ partsBut [.trn, .regs] s (lapMissed s lap) ∧
    cellsBut [TRN_EVT_LAP_MISS.addr] s (lapMissed s lap) := by
  have htrn := partsBut_withTrn s { s.trn with missing := true, missLap := lap }
  exact ⟨rd_wr_bit _ _ rfl rfl, rfl, partsBut_trans (partsBut_mono htrn (by decide)) (partsBut_mono (partsBut_wr _ _ _) (by decide)),
    fun a ha => (cellsBut_wr _ _ _ a ha).trans (cellAt_congr a (htrn .regs (by decide)))⟩

theorem exec_trnLapMiss {s u v : State} (hlap : rd s TRN_TLAP_NS ≠ 0) (hu : u = lapSync s)
    (hv : v = lapSync (advanceTo u (boundaryNs u (rd u TRN_TLAP_NS) (lapNow u + 1)).toNat)) : exec .trnLapMiss s =
      .next (if (flag u TRN_STATUS_JOINED && u.trn.judge && !u.trn.good) = true then raise (lapMissed v (lapMod u)) 18 (lapMod u) else v) := by
  refine congrArg Host.Outcome.next ((if_neg hlap).trans ?_)
  rw [hv, hu]
  rfl

theorem trnLapMiss_spec {s : State} (hlap : rd s TRN_TLAP_NS ≠ 0) : ∃ u v, u = lapSync s ∧
    v = lapSync (advanceTo u (boundaryNs u (rd u TRN_TLAP_NS) (lapNow u + 1)).toNat) ∧
    (if rd u TRN_STATUS_JOINED = 1 ∧ u.trn.judge = true ∧ u.trn.good = false then ∃ w, rd w TRN_EVT_LAP_MISS = 1 ∧
        w.trn = { v.trn with missing := true, missLap := lapMod u } ∧ partsBut [.trn, .regs] v w ∧ cellsBut [TRN_EVT_LAP_MISS.addr] v w ∧
        exec .trnLapMiss s = .next (raise w 18 (lapMod u))
      else exec .trnLapMiss s = .next v) := by
  obtain ⟨u, hu⟩ : ∃ u, u = lapSync s := ⟨_, rfl⟩
  obtain ⟨v, hv⟩ : ∃ v, v = lapSync (advanceTo u (boundaryNs u (rd u TRN_TLAP_NS) (lapNow u + 1)).toNat) := ⟨_, rfl⟩
  refine ⟨u, v, hu, hv, ?_⟩
  have hmiss : (flag u TRN_STATUS_JOINED && u.trn.judge && !u.trn.good) = true ↔
      rd u TRN_STATUS_JOINED = 1 ∧ u.trn.judge = true ∧ u.trn.good = false := by
    simp [flag_iff u (f := TRN_STATUS_JOINED) rfl, and_assoc]
  rw [exec_trnLapMiss hlap hu hv]
  split
  next h =>
    obtain ⟨hevt, htrn, hparts, hcells⟩ := lapMissed_spec v (lapMod u)
    exact ⟨_, hevt, htrn, hparts, hcells, by rw [if_pos (hmiss.2 h)]⟩
  next h => rw [if_neg fun g => h (hmiss.1 g)]

theorem launchDue_iff (s : State) (r : Nat) :
    launchDue s r = true ↔ launches s r = true ∧ ∀ n, (s.ring r).launched = some n → n < lapNow s := by
  rw [launchDue, Bool.and_eq_true]
  refine and_congr_right fun _ => ?_
  split
  next h => simp [h]
  next n h => simp [h]

theorem exec_lapLaunch {s u : State} (hlap : rd s TRN_TLAP_NS ≠ 0) (hl : launches s 0 = true ∨ launches s 1 = true)
    (hb : ¬(s.rst.busy = true ∧ s.rst.full = true))
    (hu : u = lapSync (if (launchDue s 0 = true ∨ launchDue s 1 = true) ∧ lapPos s ≤ 1 then s
      else advanceTo s (boundaryNs s (rd s TRN_TLAP_NS) (lapNow s + 1)).toNat)) : exec .lapLaunch s =
      .next (each ([0, 1].filter (launchDue (each [0, 1] applyYield u))) launchRing (each [0, 1] applyYield u)) := by
  have hgo : ¬(tLap s = 0 ∨ (!(flag s TRN_STATUS_LAUNCH_A || flag s TRN_STATUS_LAUNCH_B)) = true ∨ (s.rst.busy = true ∧ s.rst.full = true)) := by
    have hor : (flag s TRN_STATUS_LAUNCH_A || flag s TRN_STATUS_LAUNCH_B) = true := Bool.or_eq_true _ _ ▸ hl
    rw [hor]
    rintro (h | h | h)
    · exact hlap h
    · cases h
    · exact hb h
  have hinstant : lapSync (launchInstant s) = u := by
    rw [hu, launchInstant, tLap]
    simp only [Bool.and_eq_true, Bool.or_eq_true, decide_eq_true_eq]
  refine congrArg Host.Outcome.next ((if_neg hgo).trans ?_)
  rw [hinstant]

/-! ## Frames leave, and the tracked window is left (R57, R78) -/

theorem out_foldl_emit {α : Type} (o : α → Output) (l : List α) (s : State) :
    (l.foldl (fun u x => u.emit (o x)) s).out = (l.map o).reverse ++ s.out := by
  induction l generalizing s with
  | nil => rfl
  | cons x l ih => rw [List.foldl_cons, ih, emit_out, List.map_cons, List.reverse_cons, List.append_assoc, List.singleton_append]

/-- The frames of a train leave by a port that is UP. -/
theorem out_sendTrain_at {s : State} {t p : Nat} (l : List (List Byte)) (hp : trainPort s t = p) (hup : isUp s p = true) :
    (sendTrain s t l).out = (l.map (Output.trainFrame p)).reverse ++ s.out := by
  rw [sendTrain, hp, if_pos hup]
  exact out_foldl_emit (Output.trainFrame p) l _

theorem out_sendTrain (s : State) (t : Nat) (l : List (List Byte)) : (sendTrain s t l).out =
    if rd s (WELT_PORT_STAT_STATE t) = 4 then (l.map (Output.trainFrame t)).reverse ++ s.out
    else if rd s (WELT_PORT_STAT_STATE (facing t)) = 4 then (l.map (Output.trainFrame (facing t))).reverse ++ s.out else s.out := by
  by_cases ht : isUp s t = true
  · rw [if_pos (by rwa [← isUp_iff])]
    exact out_sendTrain_at l (if_pos ht) ht
  · rw [if_neg (by rwa [← isUp_iff])]
    have hport : trainPort s t = facing t := if_neg ht
    by_cases hf : isUp s (facing t) = true
    · rw [if_pos (by rwa [← isUp_iff])]
      exact out_sendTrain_at l hport hf
    · rw [if_neg (by rwa [← isUp_iff]), sendTrain, hport, if_neg hf]

theorem trackReturn_spec {s : State} {p : Nat} (hp : p < 4) (ht : rdBit s TRN_STATUS_TRACK p = true) (hi : 4 ≤ (s.port p).inside) :
    ∃ t, exec (.trackReturn p) s = .next t ∧ rdBit t TRN_STATUS_TRACK p = false ∧ (t.port p).inside = 0 ∧
      portFrame p [TRN_STATUS_TRACK.addr] s t := by
  refine ⟨(wrBit s TRN_STATUS_TRACK p false).setPort p { s.port p with inside := 0 }, congrArg Host.Outcome.next (if_pos ⟨hp, ht, hi⟩), ?_,
    by rw [State.port_setPort_self], portFrame_setPort _ (portFrame_wr (portFrame_refl _ _ _) (by simp))⟩
  rw [rdBit, rd_setPort]
  exact (rdBit_wrBit s TRN_STATUS_TRACK p p false (by decide) hp).trans (if_pos rfl)

/-- Settles O22: judging by `exec_trainBroken`, `judgeRing_unjudged` and `judgeRing_judged`, launches by `startRing_spec`,
`exec_lapLaunch` and `out_sendTrain`. -/
theorem trainsAreJudgedAndLaunched : Obligations.TrainsAreJudgedAndLaunched := by
  unfold Obligations.TrainsAreJudgedAndLaunched
  refine ⟨fun s u t ht => ⟨fun hu h => ?_, fun hu h => ?_, fun l hu hl hlap hst hf => exec_repairLaunch ht hu hl hlap hst hf⟩,
    fun s r hr => ⟨judgeRing_unjudged, fun hj hup hh hst hw => ?_, fun v hv hrole hb hl hstep hlap => ?_, fun lap => startRing_spec s lap hr⟩,
    fun s hlap => ⟨trnLapMiss_spec hlap, launchDue_iff s, fun hl hb => ⟨_, _, rfl, rfl, exec_lapLaunch hlap hl hb rfl⟩⟩,
    out_sendTrain, fun s p => trackReturn_spec⟩
  · have htrain := train_setTrain u t
    exact ⟨_, exec_trainBroken ht hu h, by rw [htrain, if_pos rfl], by rw [htrain, if_pos rfl], partsBut_setTrain u t _,
      fun k hk => by rw [htrain, if_neg hk]⟩
  · have htrain := train_setTrain u t
    exact ⟨_, exec_trainOverdue ht hu h, by rw [htrain, if_pos rfl], partsBut_setTrain u t _, fun k hk => by rw [htrain, if_neg hk]⟩
  · obtain ⟨hbits, hevt, hregs⟩ := ringHeadless_spec s hr
    exact ⟨_, _, hbits, hevt, hregs, rfl, judgeRing_judged hj hup hh hst hw⟩
  · obtain ⟨hparts, hmerge⟩ := headMerge_spec
      (lapSync (advanceTo v ((v.ring r).quiet + (if rd v TRN_CTRL_ROLE = 1 then 2 else 16) * rd v TRN_TLAP_NS)))
    exact ⟨_, _, rfl, hparts, hmerge, exec_headStartLaunch hr hv hrole hb hl hstep hlap rfl⟩

end Sys2Proof.Machine

/-! SUPPORT. Obligation O23: role commands and handovers, the switch of the schedule, and the words of the layout bank. -/

namespace Sys2Proof.Machine

/-! ## A role command (R83) -/

/-- The fields of a role command as they are written. -/
def roleWritten (s : State) (nh : Nat) (a b : Bool) : State :=
  wrs s [(TRN_ROLE_CMD_NEW_HEAD, nh), (TRN_ROLE_CMD_RING_A, natOf a), (TRN_ROLE_CMD_RING_B, natOf b)]

theorem natOf_ne_zero (b : Bool) : (natOf b != 0) = b := by cases b <;> rfl

theorem roleWritten_spec (s : State) (nh : Nat) (a b : Bool) : regsOnly [TRN_ROLE_CMD_GO.addr] s (roleWritten s nh a b) ∧
    rd (roleWritten s nh a b) TRN_ROLE_CMD_NEW_HEAD = nh % 2 ^ 12 ∧ rd (roleWritten s nh a b) TRN_ROLE_CMD_GO = rd s TRN_ROLE_CMD_GO ∧
    roleRings (roleWritten s nh a b) = (if a = true then [0] else []) ++ (if b = true then [1] else []) := by
  have ha : flag (roleWritten s nh a b) TRN_ROLE_CMD_RING_A = a := by
    simp only [flag, roleWritten, wrs_cons, wrs_nil]
    rw [rd_wr_apart _ _ rfl rfl, rd_wr_bit _ _ rfl rfl, natOf_mod, natOf_ne_zero]
  have hb : flag (roleWritten s nh a b) TRN_ROLE_CMD_RING_B = b := by
    simp only [flag, roleWritten, wrs_cons, wrs_nil]
    rw [rd_wr_bit _ _ rfl rfl, natOf_mod, natOf_ne_zero]
  refine ⟨?_, ?_, ?_, by rw [roleRings, ha, hb]⟩
  · simp only [roleWritten, wrs_cons, wrs_nil]
    exact regsOnly_trans (regsOnly_wr s TRN_ROLE_CMD_NEW_HEAD _)
      (regsOnly_trans (regsOnly_wr _ TRN_ROLE_CMD_RING_A _) (regsOnly_wr _ TRN_ROLE_CMD_RING_B _))
  · simp only [roleWritten, wrs_cons, wrs_nil]
    rw [rd_wr_apart _ _ rfl rfl, rd_wr_apart _ _ rfl rfl]
    exact rd_wr_same _ _ rfl
  · simp only [roleWritten, wrs_cons, wrs_nil]
    rw [rd_wr_apart _ _ rfl rfl, rd_wr_apart _ _ rfl rfl, rd_wr_apart _ _ rfl rfl]

theorem exec_roleCommand {s : State} (hb : s.rst.busy = false) (nh : Nat) (a b : Bool) :
    exec (.roleCommand nh a b) s = .next (roleGo (roleWritten s nh a b)) :=
  congrArg Host.Outcome.next (whenAlive_alive s _ hb)

theorem mem_roleRings {s : State} {r : Nat} (h : r ∈ roleRings s) : r = 0 ∨ r = 1 := by
  simp only [roleRings, List.mem_append] at h
  obtain h | h := h
  · split at h <;> simp at h
    exact .inl h
  · split at h <;> simp at h
    exact .inr h

theorem roleFail_spec (s : State) : rd (roleFail s) TRN_ROLE_CMD_GO = 0 ∧ rd (roleFail s) TRN_EVT_ROLE_FAIL = 1 ∧
    regsOnly [TRN_ROLE_CMD_GO.addr, TRN_EVT_ROLE_FAIL.addr] s (roleFail s) := by
  simp only [roleFail, wrs_cons, wrs_nil]
  refine ⟨?_, rd_wr_bit _ _ rfl rfl, ?_⟩
  · rw [rd_wr_addr _ _ _ _ (by decide)]
    exact rd_wr_bit _ _ rfl rfl
  · exact regsOnly_trans (regsOnly_mono (regsOnly_wr s _ 0) (by decide)) (regsOnly_mono (regsOnly_wr _ _ 1) (by decide))

/-- The head asks anew for the acknowledgement of a ring, and for its confirmation. -/
def askAgain (s : State) (r : Nat) : State := s.setRing r { s.ring r with ackSeen := false, confSent := false }

theorem partsBut_askAgain_each (l : List Nat) (s : State) : partsBut [.trn] s (each l askAgain s) :=
  partsBut_each _ _ _ _ fun u r => partsBut_setRing u r _

theorem ring_askAgain_each (l : List Nat) (s : State) (r : Nat) : (each l askAgain s).ring r =
    if r ∈ l then { s.ring r with ackSeen := false, confSent := false } else s.ring r := by
  have hstep : ∀ u k, (askAgain u k).ring r = if r = k then { u.ring r with ackSeen := false, confSent := false } else u.ring r := by
    intro u k
    rw [askAgain, ring_setRing]
    split
    next h => rw [h]
    next => rfl
  induction l generalizing s with
  | nil => rfl
  | cons k l ih =>
    change (each l askAgain (askAgain s k)).ring r = _
    rw [ih, hstep]
    by_cases hk : r = k <;> by_cases hl : r ∈ l <;> simp [hk, hl]

section
variable {u : State} {own : Nat} (hown : rd u SYS_HUB_ID_ID = own)
include hown

/-- A hub that launches no ring is refused where it names no ring or another head. -/
theorem roleGo_refused (h0 : launches u 0 = false) (h1 : launches u 1 = false)
    (h : roleRings u = [] ∨ rd u TRN_ROLE_CMD_NEW_HEAD ≠ own) : roleGo u = roleFail u := by
  simp only [roleGo, h0, h1, Bool.or_false, Bool.false_eq_true, if_false, hown]
  refine if_pos ?_
  exact h.imp_right fun h => .inr (.inr (.inl h))

/-- A standby that is named takes the rings, all of them headless. -/
theorem roleGo_takes (h0 : launches u 0 = false) (h1 : launches u 1 = false) (hr : roleRings u ≠ [])
    (hnh : rd u TRN_ROLE_CMD_NEW_HEAD = own) (hz : own ≠ 0) (hall : own ≠ 4095) (hh : ∀ r ∈ roleRings u, headless u r = true)
    (hs : rd u TRN_STATUS_STANDBY = 1) : roleGo u = wr (each (roleRings u) takeRing u) TRN_ROLE_CMD_GO 0 := by
  have hany : (roleRings u).any (fun r => !headless u r) = false := by simpa using hh
  simp only [roleGo, h0, h1, Bool.or_false, Bool.false_eq_true, if_false, hown, hnh, hany, hr, hz, hall, ne_eq, not_true_eq_false,
    false_or, or_false, flag_true hs, if_true]

/-- A head that names another one, far enough ahead, starts the handover. -/
theorem roleGo_hands (hr : roleRings u ≠ []) (hl : ∀ r ∈ roleRings u, launches u r = true) (hnh : rd u TRN_ROLE_CMD_NEW_HEAD ≠ own)
    (hz : rd u TRN_ROLE_CMD_NEW_HEAD ≠ 0) (hall : rd u TRN_ROLE_CMD_NEW_HEAD ≠ 4095) (h4 : 4 ≤ lapsAhead u) (h23 : lapsAhead u ≤ 2 ^ 23) :
    roleGo u = each (roleRings u) askAgain (wr u TRN_ROLE_CMD_GO 1) := by
  have hany : (roleRings u).any (fun r => !launches u r) = false := by simpa using hl
  obtain ⟨r, hmem⟩ := List.exists_mem_of_ne_nil _ hr
  have hacting : (launches u 0 || launches u 1) = true := by
    have hlr := hl r hmem
    obtain rfl | rfl := mem_roleRings hmem
    · rw [hlr, Bool.true_or]
    · rw [hlr, Bool.or_true]
  have hgo : roleGo u = if roleRings u = [] ∨ (roleRings u).any (fun r => !launches u r) = true ∨ rd u TRN_ROLE_CMD_NEW_HEAD = 0 ∨
      rd u TRN_ROLE_CMD_NEW_HEAD = 4095 ∨ rd u TRN_ROLE_CMD_NEW_HEAD = rd u SYS_HUB_ID_ID ∨ lapsAhead u < 4 ∨ 2 ^ 23 < lapsAhead u
      then roleFail u else each (roleRings u) askAgain (wr u TRN_ROLE_CMD_GO 1) := if_pos hacting
  rw [hgo, if_neg]
  rw [hany, hown]
  rintro (h | h | h | h | h | h | h)
  · exact hr h
  · cases h
  · exact hz h
  · exact hall h
  · exact hnh h
  · omega
  · omega

end

/-- The handover has started: GO is set, and the acknowledgements are asked for anew. -/
theorem handing_spec (u : State) (l : List Nat) : rd (each l askAgain (wr u TRN_ROLE_CMD_GO 1)) TRN_ROLE_CMD_GO = 1 ∧
    partsBut [.regs, .trn] u (each l askAgain (wr u TRN_ROLE_CMD_GO 1)) ∧
    cellsBut [TRN_ROLE_CMD_GO.addr] u (each l askAgain (wr u TRN_ROLE_CMD_GO 1)) := by
  have hask := partsBut_askAgain_each l (wr u TRN_ROLE_CMD_GO 1)
  have hregs := hask .regs (by decide)
  exact ⟨(rd_congr _ hregs).trans (rd_wr_bit _ _ rfl rfl),
    partsBut_trans (partsBut_mono (partsBut_wr u _ 1) (by decide)) (partsBut_mono hask (by decide)),
    fun a ha => (cellAt_congr a hregs).trans (cellsBut_wr u _ 1 a ha)⟩

theorem roleCommand_spec {s : State} (hb : s.rst.busy = false) (nh : Nat) (a b : Bool) : ∃ u, regsOnly [TRN_ROLE_CMD_GO.addr] s u ∧
    rd u TRN_ROLE_CMD_NEW_HEAD = nh % 2 ^ 12 ∧ rd u TRN_ROLE_CMD_GO = rd s TRN_ROLE_CMD_GO ∧
    roleRings u = (if a = true then [0] else []) ++ (if b = true then [1] else []) ∧
    (∃ v, exec (.roleCommand nh a b) s = .next v ∧
    (launches u 0 = false → launches u 1 = false → roleRings u = [] ∨ nh % 2 ^ 12 ≠ rd s SYS_HUB_ID_ID →
      rd v TRN_ROLE_CMD_GO = 0 ∧ rd v TRN_EVT_ROLE_FAIL = 1 ∧ regsOnly [TRN_ROLE_CMD_GO.addr, TRN_EVT_ROLE_FAIL.addr] s v) ∧
    (launches u 0 = false → launches u 1 = false → roleRings u ≠ [] → nh % 2 ^ 12 = rd s SYS_HUB_ID_ID →
      nh % 2 ^ 12 ≠ 0 → nh % 2 ^ 12 ≠ 4095 → (∀ r ∈ roleRings u, headless u r = true) → rd u TRN_STATUS_STANDBY = 1 →
      v = wr (each (roleRings u) takeRing u) TRN_ROLE_CMD_GO 0) ∧
    (roleRings u ≠ [] → (∀ r ∈ roleRings u, launches u r = true) → nh % 2 ^ 12 ≠ rd s SYS_HUB_ID_ID →
      nh % 2 ^ 12 ≠ 0 → nh % 2 ^ 12 ≠ 4095 → 4 ≤ lapsAhead u → lapsAhead u ≤ 2 ^ 23 →
      rd v TRN_ROLE_CMD_GO = 1 ∧ partsBut [.regs, .trn] u v ∧ cellsBut [TRN_ROLE_CMD_GO.addr] u v)) := by
  obtain ⟨u, hu⟩ : ∃ u, u = roleWritten s nh a b := ⟨_, rfl⟩
  obtain ⟨hregs, hnew, hgo, hrings⟩ := hu ▸ roleWritten_spec s nh a b
  have hown : rd u SYS_HUB_ID_ID = rd s SYS_HUB_ID_ID := rd_of_cellsBut_one hregs.2 (by decide)
  rw [← hnew]
  refine ⟨u, hregs, rfl, hgo, hrings, roleGo u, by rw [exec_roleCommand hb, hu], fun h0 h1 h => ?_, fun h0 h1 hr hn hz hall hh hs => ?_,
    fun hr hl hn hz hall h4 h23 => ?_⟩
  · obtain ⟨hfgo, hfail, hfregs⟩ := roleFail_spec u
    rw [roleGo_refused hown h0 h1 h]
    exact ⟨hfgo, hfail, regsOnly_trans (regsOnly_mono hregs (by decide)) hfregs⟩
  · rw [hn] at hz hall
    exact roleGo_takes hown h0 h1 hr hn hz hall hh hs
  · rw [roleGo_hands hown hr hl hn hz hall h4 h23]
    exact handing_spec u _

/-! ## The lap of the handover (R83) -/

theorem handsOver_iff (s : State) : handsOver s = true ↔ rd s TRN_ROLE_CMD_GO = 1 ∧ (launches s 0 = true ∨ launches s 1 = true) := by
  rw [handsOver, Bool.and_eq_true, Bool.or_eq_true, flag_iff s rfl]

/-- What happens at the boundary of the lap of a handover. -/
def atHandover (u : State) : State :=
  if handsOver u then
    if (roleRings u).all fun r => launches u r && (u.ring r).confSent then
      wrs (each (roleRings u) standDown u) [(TRN_ROLE_CMD_GO, 0), (TRN_EVT_HANDOVER, 1)]
    else roleFail (each (roleRings u) askAgain u)
  else u

theorem exec_handoverLap {s u : State} {lap : Nat} (hb : ¬(s.rst.busy = true ∧ s.rst.full = true)) (h : handLap s = some lap)
    (hu : u = toLap s lap) : exec .handoverLap s =
      .next (each ([0, 1].filter fun r => (u.ring r).confGot.isSome && !launches u r) takeAtLap (atHandover u)) := by
  refine congrArg Host.Outcome.next ((if_neg hb).trans ?_)
  rw [h, hu]
  rfl

/-- A head that has not sent every confirmation fails, and goes on launching. -/
def handoverFailed (u : State) : State := roleFail (each (roleRings u) askAgain u)

theorem handoverFailed_spec (u : State) : rd (handoverFailed u) TRN_ROLE_CMD_GO = 0 ∧ rd (handoverFailed u) TRN_EVT_ROLE_FAIL = 1 ∧
    (∀ r, launches (handoverFailed u) r = launches u r) ∧
    (∀ r ∈ roleRings u, ((handoverFailed u).ring r).ackSeen = false ∧ ((handoverFailed u).ring r).confSent = false) ∧
    partsBut [.regs, .trn] u (handoverFailed u) ∧ cellsBut [TRN_ROLE_CMD_GO.addr, TRN_EVT_ROLE_FAIL.addr] u (handoverFailed u) := by
  have hask := partsBut_askAgain_each (roleRings u) u
  obtain ⟨hgo, hfail, hparts, hcells⟩ := roleFail_spec (each (roleRings u) askAgain u)
  have hcellsu : cellsBut [TRN_ROLE_CMD_GO.addr, TRN_EVT_ROLE_FAIL.addr] u (handoverFailed u) :=
    fun a ha => (hcells a ha).trans (cellAt_congr a (hask .regs (by decide)))
  refine ⟨hgo, hfail, fun r => launches_of_cellsBut r hcellsu (by decide), fun r hr => ?_,
    partsBut_trans (partsBut_mono hask (by decide)) (partsBut_mono hparts (by decide)), hcellsu⟩
  rw [handoverFailed, ring_congr r (hparts .trn (by decide)), ring_askAgain_each, if_pos hr]
  exact ⟨rfl, rfl⟩

section
variable {s u : State} (hu : u = toLap s (rd s TRN_ROLE_LAP_LAP)) (hb : ¬(s.rst.busy = true ∧ s.rst.full = true))
  (hs : handsOver s = true) (hh : handsOver u = true)
include hu hb hs

theorem exec_handoverLap_head : exec .handoverLap s =
    .next (each ([0, 1].filter fun r => (u.ring r).confGot.isSome && !launches u r) takeAtLap (atHandover u)) :=
  exec_handoverLap hb (if_pos hs) hu

include hh

theorem exec_handoverLap_fails (hn : ∀ r < 2, (u.ring r).confGot = none ∨ launches u r = true)
    (h : ∃ r ∈ roleRings u, launches u r = false ∨ (u.ring r).confSent = false) : exec .handoverLap s = .next (handoverFailed u) := by
  have hnone : ([0, 1].filter fun r => (u.ring r).confGot.isSome && !launches u r) = [] := by
    rw [List.filter_eq_nil_iff]
    intro r hr
    obtain hg | hl := hn r (by simp at hr; omega)
    · simp [hg]
    · simp [hl]
  obtain ⟨r, hr, hno⟩ := h
  have hall : ((roleRings u).all fun r => launches u r && (u.ring r).confSent) ≠ true := fun hall => by
    have hboth := List.all_eq_true.1 hall r hr
    rw [Bool.and_eq_true] at hboth
    simp [hboth.1, hboth.2] at hno
  rw [exec_handoverLap_head hu hb hs, hnone, atHandover, if_pos hh, if_neg hall]
  rfl

theorem exec_handoverLap_stands (h : ∀ r ∈ roleRings u, launches u r = true ∧ (u.ring r).confSent = true) : exec .handoverLap s =
    .next (each ([0, 1].filter fun r => (u.ring r).confGot.isSome && !launches u r) takeAtLap
      (wrs (each (roleRings u) standDown u) [(TRN_ROLE_CMD_GO, 0), (TRN_EVT_HANDOVER, 1)])) := by
  rw [exec_handoverLap_head hu hb hs, atHandover, if_pos hh, if_pos (by simpa using h)]

end

/-- The lap of the confirmation that a named hub has received. -/
theorem handLap_named {s : State} {lap : Nat} (h0 : launches s 0 = false) (h1 : launches s 1 = false)
    (h : (s.ring 0).confGot = some lap ∨ ((s.ring 0).confGot = none ∧ (s.ring 1).confGot = some lap)) : handLap s = some lap := by
  have hno : handsOver s = false := by rw [handsOver, h0, h1, Bool.or_self, Bool.and_false]
  rw [handLap, hno, if_neg (by decide)]
  obtain h | ⟨h, h'⟩ := h
  · rw [List.findSome?_cons, h]
  · rw [List.findSome?_cons, h, List.findSome?_cons, h']

theorem takeAtLap_eq (u : State) (r : Nat) : takeAtLap u r = wr (startRing (u.setRing r { u.ring r with confGot := none }) r
    (if (u.ring r).confGot = some (lapMod u) ∧ lapPos u ≤ 1 then lapNow u - 1 else lapNow u)) TRN_EVT_TAKEOVER 1 := by
  simp only [takeAtLap, Bool.and_eq_true, beq_iff_eq, decide_eq_true_eq]

/-! ## The switch of the schedule (R85, R86) -/

theorem exec_swLapWrite {s : State} (hb : s.rst.busy = false) (lap : Nat) (arm : Bool) :
    exec (.swLapWrite lap arm) s = .next (swLap s lap arm) :=
  congrArg Host.Outcome.next (whenAlive_alive s _ hb)

theorem swLap_acting {s : State} (h : launches s 0 = true ∨ launches s 1 = true) (lap : Nat) (arm : Bool) :
    rd (swLap s lap arm) TRN_SW_LAP_LAP = lap % 2 ^ 24 ∧
    rd (swLap s lap arm) TRN_SW_LAP_ARM = (if arm = true then 1 else rd s TRN_SW_LAP_ARM) ∧
    regsOnly [TRN_SW_LAP_LAP.addr] s (swLap s lap arm) := by
  have hsw : swLap s lap arm = if arm = true then wr (wr s TRN_SW_LAP_LAP lap) TRN_SW_LAP_ARM 1 else wr s TRN_SW_LAP_LAP lap :=
    if_pos (Bool.or_eq_true_iff.2 h)
  rw [hsw]
  cases arm with
  | true =>
    refine ⟨?_, rd_wr_bit _ _ rfl rfl, regsOnly_trans (regsOnly_wr s _ _) (regsOnly_wr _ TRN_SW_LAP_ARM 1)⟩
    rw [if_pos rfl, rd_wr_apart _ _ rfl rfl]
    exact rd_wr_same _ _ rfl
  | false => exact ⟨rd_wr_same _ _ rfl, rd_wr_apart _ _ rfl rfl, regsOnly_wr s _ _⟩

theorem swLap_idle {s : State} (h : ¬(launches s 0 = true ∨ launches s 1 = true)) (lap : Nat) (arm : Bool) : swLap s lap arm = s :=
  if_neg fun g => h (Bool.or_eq_true_iff.1 g)

theorem scheduleSwitch_spec {s u : State} (hp : rd s TRN_SCHED_PEND_VALID = 1) (ha : rd s TRN_SW_LAP_ARM = 1)
    (hl : launches s 0 = true ∨ launches s 1 = true) (hu : u = toLap s (rd s TRN_SW_LAP_LAP)) : ∃ t, exec .scheduleSwitch s = .next t ∧
      rd t TRN_SW_LAP_ARM = 0 ∧ t.trn = { u.trn with launchPend := true } ∧ partsBut [.regs, .trn] u t ∧
      cellsBut [TRN_SW_LAP_ARM.addr] u t := by
  obtain ⟨t, ht⟩ : ∃ t, t = wr u TRN_SW_LAP_ARM 0 := ⟨_, rfl⟩
  have hexec : exec .scheduleSwitch s = .next (withTrn t { t.trn with launchPend := true }) := by
    rw [ht, hu]
    exact congrArg Host.Outcome.next (if_pos ⟨flag_true ha, Bool.or_eq_true_iff.2 hl, flag_true hp⟩)
  have htrn := partsBut_withTrn t { t.trn with launchPend := true }
  have hregs := htrn .regs (by decide)
  have hwr := ht ▸ regsOnly_wr u TRN_SW_LAP_ARM 0
  refine ⟨_, hexec, ?_, by rw [withTrn, hwr.1 .trn (by decide)],
    partsBut_trans (partsBut_mono hwr.1 (by decide)) (partsBut_mono htrn (by decide)), fun a ha => (cellAt_congr a hregs).trans (hwr.2 a ha)⟩
  rw [rd_congr _ hregs, ht]
  exact rd_wr_bit _ _ rfl rfl

theorem allSeen_iff (s : State) : allSeen s = true ↔ ∀ t < 4, isUp s (facing t) = true → bitOf s.trn.pendSeen t = true := by
  simp only [allSeen, carried, List.all_eq_true, List.mem_range, Bool.or_eq_true, Bool.not_eq_true']
  refine forall₂_congr fun t _ => ?_
  cases isUp s (facing t) <;> simp

theorem layoutSlots_congr {s t : State} (bank : Nat) (h : t.mem = s.mem) : layoutSlots t bank = layoutSlots s bank := by
  have hword : ∀ w, layoutWord t bank w = layoutWord s bank w := fun w => memWord_congr fun b _ _ => memGet_congr b h
  simp only [layoutSlots, hword]

/-- The registers of the schedule at a switch. -/
def schedWritten (s : State) (ver bank : Nat) : State :=
  wrs s [(TRN_SCHED_ACT_VER, ver), (TRN_SCHED_BANK, bank), (TRN_SCHED_PEND_VALID, 0), (TRN_EVT_VER_SWITCH, 1)]

theorem schedWritten_spec (s : State) (ver bank : Nat) : rd (schedWritten s ver bank) TRN_SCHED_ACT_VER = ver % 2 ^ 8 ∧
    rd (schedWritten s ver bank) TRN_SCHED_BANK = bank % 2 ∧ rd (schedWritten s ver bank) TRN_SCHED_PEND_VALID = 0 ∧
    rd (schedWritten s ver bank) TRN_EVT_VER_SWITCH = 1 ∧
    regsOnly [TRN_SCHED_ACT_VER.addr, TRN_EVT_VER_SWITCH.addr] s (schedWritten s ver bank) := by
  simp only [schedWritten, wrs_cons, wrs_nil]
  refine ⟨?_, ?_, ?_, rd_wr_bit _ _ rfl rfl, ?_⟩
  · rw [rd_wr_addr _ _ _ _ (by decide), rd_wr_apart _ _ rfl rfl, rd_wr_apart _ _ rfl rfl]
    exact rd_wr_same _ _ rfl
  · rw [rd_wr_addr _ _ _ _ (by decide), rd_wr_apart _ _ rfl rfl]
    exact rd_wr_bit _ _ rfl rfl
  · rw [rd_wr_addr _ _ _ _ (by decide)]
    exact rd_wr_bit _ _ rfl rfl
  · exact regsOnly_trans (regsOnly_mono (regsOnly_wr s _ _) (by decide)) (regsOnly_trans (regsOnly_mono (regsOnly_wr _ _ _) (by decide))
      (regsOnly_trans (regsOnly_mono (regsOnly_wr _ _ _) (by decide)) (regsOnly_mono (regsOnly_wr _ _ _) (by decide))))

/-- The ring domain as the schedule switches, with no window pending. -/
def trnSwitched (u : State) : Trn :=
  { u.trn with pendWin := [], pendSeen := 0, launchPend := false, unready := !flag u RSL_STATUS_PEND_READY
               merge := u.trn.merge.filter fun e => (layoutSlots u (1 - rd u TRN_SCHED_BANK)).contains e.1 }

theorem useWindows_none {u : State} (h : u.trn.pendWin = []) : useWindows u = withTrn u { u.trn with pendWin := [] } := by
  simp only [useWindows, h, List.foldl_nil, withTrn]

/-- The pending schedule becomes active. -/
def schedSwitched (u : State) : State :=
  keepMerge (withTrn (schedWritten (useWindows u) (rd u TRN_SCHED_PEND_VER) (1 - activeBank u))
    { (schedWritten (useWindows u) (rd u TRN_SCHED_PEND_VER) (1 - activeBank u)).trn with
      pendSeen := 0, launchPend := false, unready := !flag u RSL_STATUS_PEND_READY })

theorem keepMerge_eq (s : State) : keepMerge s =
    withTrn s { s.trn with merge := s.trn.merge.filter fun e => (layoutSlots s (activeBank s)).contains e.1 } := rfl

theorem schedSwitched_spec {u : State} (h : u.trn.pendWin = []) : rd (schedSwitched u) TRN_SCHED_ACT_VER = rd u TRN_SCHED_PEND_VER ∧
    rd (schedSwitched u) TRN_SCHED_BANK = 1 - rd u TRN_SCHED_BANK ∧ rd (schedSwitched u) TRN_SCHED_PEND_VALID = 0 ∧
    rd (schedSwitched u) TRN_EVT_VER_SWITCH = 1 ∧ (schedSwitched u).trn = trnSwitched u ∧ partsBut [.regs, .trn] u (schedSwitched u) ∧
    cellsBut [TRN_SCHED_ACT_VER.addr, TRN_EVT_VER_SWITCH.addr] u (schedSwitched u) := by
  have hwin := useWindows_none h ▸ partsBut_withTrn u { u.trn with pendWin := [] }
  obtain ⟨w, hw⟩ : ∃ w, w = schedWritten (useWindows u) (rd u TRN_SCHED_PEND_VER) (1 - activeBank u) := ⟨_, rfl⟩
  obtain ⟨hver, hbank, hvalid, hevt, hparts, hcells⟩ := hw ▸ schedWritten_spec (useWindows u) (rd u TRN_SCHED_PEND_VER) (1 - activeBank u)
  have hlt : rd u TRN_SCHED_PEND_VER < 2 ^ 8 := rd_lt u TRN_SCHED_PEND_VER
  have hone : 1 - rd u TRN_SCHED_BANK < 2 := by omega
  obtain ⟨x, hx⟩ : ∃ x, x = withTrn w { w.trn with pendSeen := 0, launchPend := false, unready := !flag u RSL_STATUS_PEND_READY } := ⟨_, rfl⟩
  have hxparts := hx ▸ partsBut_withTrn w _
  have hswitch : schedSwitched u = keepMerge x := by rw [schedSwitched, hx, hw]
  have hkeep := partsBut_withTrn x { x.trn with merge := x.trn.merge.filter fun e => (layoutSlots x (activeBank x)).contains e.1 }
  rw [← keepMerge_eq, ← hswitch] at hkeep
  have hregs : (schedSwitched u).regs = w.regs := (hkeep .regs (by decide)).trans (hxparts .regs (by decide))
  have hbankx : activeBank x = 1 - rd u TRN_SCHED_BANK := by
    rw [activeBank, rd_congr _ (hxparts .regs (by decide)), hbank, activeBank, Nat.mod_eq_of_lt hone]
  have hmem : x.mem = u.mem := (hxparts .mem (by decide)).trans ((hparts .mem (by decide)).trans (hwin .mem (by decide)))
  refine ⟨by rw [rd_congr _ hregs, hver, Nat.mod_eq_of_lt hlt], ?_, by rw [rd_congr _ hregs, hvalid], by rw [rd_congr _ hregs, hevt], ?_,
    partsBut_trans (partsBut_mono hwin (by decide)) (partsBut_trans (partsBut_mono hparts (by decide))
      (partsBut_trans (partsBut_mono hxparts (by decide)) (partsBut_mono hkeep (by decide)))), fun a ha => ?_⟩
  · rw [rd_congr _ hregs, hbank, activeBank, Nat.mod_eq_of_lt hone]
  · rw [hswitch, keepMerge_eq, hbankx, layoutSlots_congr _ hmem, hx]
    have htrn : w.trn = { u.trn with pendWin := [] } := by rw [hparts .trn (by decide), useWindows_none h, withTrn]
    simp only [withTrn, htrn, trnSwitched]
  · rw [cellAt_congr a hregs, hcells a ha, cellAt_congr a (hwin .regs (by decide))]

theorem exec_verSwitch {s u : State} (hp : rd s TRN_SCHED_PEND_VALID = 1) (hs : s.trn.pendSeen ≠ 0)
    (hu : u = if ∀ t < 4, isUp s (facing t) = true → bitOf s.trn.pendSeen t = true then s
      else lapSync (advanceTo s (s.trn.pendFirst + 2 * tLap s))) : exec .verSwitch s = .next (schedSwitched u) := by
  have hseen : (if allSeen s = true then s else lapSync (advanceTo s (s.trn.pendFirst + 2 * tLap s))) = u := by
    rw [hu]
    simp only [allSeen_iff]
  refine congrArg Host.Outcome.next ((if_pos ⟨flag_true hp, hs⟩).trans ?_)
  rw [hseen]
  rfl

/-! ## The words of the layout bank (R69) -/

theorem layoutInc_spec (s : State) : rd (layoutInc s) TRN_LAYOUT_ADDR_WORD =
      (if rd s TRN_LAYOUT_ADDR_INC = 1 then (rd s TRN_LAYOUT_ADDR_WORD + 1) % 2 ^ TRN_LAYOUT_ADDR_WORD.w else rd s TRN_LAYOUT_ADDR_WORD) ∧
    regsOnly [TRN_LAYOUT_ADDR_WORD.addr] s (layoutInc s) := by
  obtain h | h := rd_bit s (f := TRN_LAYOUT_ADDR_INC) rfl
  · have hinc : layoutInc s = s := if_neg (by rw [flag_false h]; decide)
    rw [hinc, h]
    exact ⟨rfl, regsOnly_refl _ s⟩
  · have hinc : layoutInc s = wr s TRN_LAYOUT_ADDR_WORD (rd s TRN_LAYOUT_ADDR_WORD + 1) := if_pos (flag_true h)
    rw [hinc, if_pos h]
    exact ⟨rd_wr_same _ _ rfl, regsOnly_wr _ _ _⟩

theorem exec_layoutRead {s : State} (hb : s.rst.busy = false) : exec (.layoutDataAccess none) s = .next ((layoutInc s).emit (.busRsp 0 0
    (if stretchOn s = true then memWord s (layoutBase + (rd s TRN_LAYOUT_ADDR_BANK * 12544 + rd s TRN_LAYOUT_ADDR_WORD) * 4) else 0))) :=
  congrArg Host.Outcome.next (whenAlive_alive s _ hb)

/-- A word of the layout as a write leaves it: the active bank, and a bank without power, keep theirs. -/
def layoutWritten (s : State) (v : Nat) : State :=
  if stretchOn s = true ∧ rd s TRN_LAYOUT_ADDR_BANK ≠ rd s TRN_SCHED_BANK
  then memPutWord s (layoutBase + (rd s TRN_LAYOUT_ADDR_BANK * 12544 + rd s TRN_LAYOUT_ADDR_WORD) * 4) v else s

theorem exec_layoutWrite {s : State} (hb : s.rst.busy = false) (v : Nat) :
    exec (.layoutDataAccess (some v)) s = .next (layoutInc (layoutWritten s v)) :=
  congrArg Host.Outcome.next (whenAlive_alive s _ hb)

theorem partsBut_layoutWritten (s : State) (v : Nat) : partsBut [.mem] s (layoutWritten s v) := by
  rw [layoutWritten]
  split
  · exact partsBut_memPutWord s _ v
  · exact partsBut_refl _ s

theorem layoutDataAccess_read {s : State} {b k : Nat} (hb : s.rst.busy = false) (hbank : b = rd s TRN_LAYOUT_ADDR_BANK)
    (hk : k = rd s TRN_LAYOUT_ADDR_WORD) : ∃ t, exec (.layoutDataAccess none) s = .next t ∧
      rd t TRN_LAYOUT_ADDR_WORD = (if rd s TRN_LAYOUT_ADDR_INC = 1 then (k + 1) % 2 ^ TRN_LAYOUT_ADDR_WORD.w else k) ∧
      partsBut [.regs, .mem, .out] s t ∧ cellsBut [TRN_LAYOUT_ADDR_WORD.addr] s t ∧ memSame s t ∧
      t.out = .busRsp 0 0 (if stretchOn s = true then memWord s (layoutBase + (b * 12544 + k) * 4) else 0) :: s.out := by
  obtain ⟨hword, hparts, hcells⟩ := layoutInc_spec s
  have hemit := partsBut_emit (layoutInc s) (.busRsp 0 0 (if stretchOn s = true then memWord s (layoutBase + (b * 12544 + k) * 4) else 0))
  refine ⟨_, by rw [exec_layoutRead hb, ← hbank, ← hk], by rw [rd_emit, hword, ← hk],
    partsBut_trans (partsBut_mono hparts (by decide)) (partsBut_mono hemit (by decide)), fun a ha => by rw [cellAt_emit, hcells a ha],
    fun a => memGet_congr a ((hemit .mem (by decide)).trans (hparts .mem (by decide))), ?_⟩
  rw [emit_out, hparts .out (by decide)]

theorem layoutDataAccess_write {s : State} {b k : Nat} (hb : s.rst.busy = false) (hbank : b = rd s TRN_LAYOUT_ADDR_BANK)
    (hk : k = rd s TRN_LAYOUT_ADDR_WORD) (v : Nat) : ∃ t, exec (.layoutDataAccess (some v)) s = .next t ∧
      rd t TRN_LAYOUT_ADDR_WORD = (if rd s TRN_LAYOUT_ADDR_INC = 1 then (k + 1) % 2 ^ TRN_LAYOUT_ADDR_WORD.w else k) ∧
      partsBut [.regs, .mem, .out] s t ∧ cellsBut [TRN_LAYOUT_ADDR_WORD.addr] s t ∧
      t.out = s.out ∧ (if stretchOn s = true ∧ b ≠ rd s TRN_SCHED_BANK then
        (∀ a, a < layoutBase + (b * 12544 + k) * 4 ∨ layoutBase + (b * 12544 + k) * 4 + 4 ≤ a → memGet t a = memGet s a) ∧
        ∀ i < 4, memGet t (layoutBase + (b * 12544 + k) * 4 + i) = BitVec.ofNat 8 (v / 256 ^ i) else memSame s t) := by
  have hwritten := partsBut_layoutWritten s v
  have hregs := hwritten .regs (by decide)
  obtain ⟨hword, hparts, hcells⟩ := layoutInc_spec (layoutWritten s v)
  have hmem : ∀ a, memGet (layoutInc (layoutWritten s v)) a = memGet (layoutWritten s v) a :=
    fun a => memGet_congr a (hparts .mem (by decide))
  refine ⟨_, exec_layoutWrite hb v, by rw [hword, rd_congr _ hregs, rd_congr _ hregs, ← hk],
    partsBut_trans (partsBut_mono hwritten (by decide)) (partsBut_mono hparts (by decide)),
    fun a ha => (hcells a ha).trans (cellAt_congr a hregs), (hparts .out (by decide)).trans (hwritten .out (by decide)), ?_⟩
  split
  next h =>
    obtain ⟨hothers, hbytes⟩ := memGet_memPutWord s (layoutBase + (b * 12544 + k) * 4) v
    have hput : layoutWritten s v = memPutWord s (layoutBase + (b * 12544 + k) * 4) v := by
      rw [layoutWritten, ← hbank, ← hk, if_pos h]
    exact ⟨fun a ha => by rw [hmem, hput, hothers a ha], fun i hi => by rw [hmem, hput, hbytes i hi]⟩
  next h =>
    intro a
    rw [hmem, layoutWritten, ← hbank, if_neg h]

/-- Settles O23: role commands by `roleCommand_spec`, handovers by `exec_handoverLap_fails` and `exec_handoverLap_stands`, the schedule by
`scheduleSwitch_spec` and `schedSwitched_spec`, the layout words by `layoutDataAccess_read` and `layoutDataAccess_write`. -/
theorem rolesAndSchedulesChange : Obligations.RolesAndSchedulesChange := by
  unfold Obligations.RolesAndSchedulesChange
  refine ⟨fun s nh a b hb => roleCommand_spec hb nh a b, fun s u hu hb hgo hl hgou hlu => ?_,
    fun s u lap hb h0 h1 hc hu => ⟨fun hno => ?_, takeAtLap_eq u, rfl⟩, fun s lap arm hb => ⟨_, exec_swLapWrite hb lap arm, ?_⟩,
    fun s u => ⟨scheduleSwitch_spec, fun hp hs hu hwin => ?_⟩, fun s x b k hb hbank hk => ?_⟩
  · have hs := (handsOver_iff s).2 ⟨hgo, hl⟩
    have hh := (handsOver_iff u).2 ⟨hgou, hlu⟩
    exact ⟨fun hn h => ⟨_, exec_handoverLap_fails hu hb hs hh hn h, handoverFailed_spec u⟩,
      fun h => ⟨_, rfl, exec_handoverLap_stands hu hb hs hh h⟩⟩
  · rw [exec_handoverLap hb (handLap_named h0 h1 hc) hu, atHandover, hno, if_neg (by decide)]
  · split
    next h => exact swLap_acting h lap arm
    next h => exact swLap_idle h lap arm
  · obtain ⟨hver, hbank, hvalid, hevt, htrn, hparts, hcells⟩ := schedSwitched_spec hwin
    refine ⟨_, exec_verSwitch hp hs hu, hver, hbank, hvalid, hevt, ?_, ?_, ?_, hparts, hcells⟩
    all_goals rw [htrn, trnSwitched]
  · cases x with
    | none =>
      obtain ⟨t, ht, hword, hparts, hcells, hmem, hout⟩ := layoutDataAccess_read hb hbank hk
      exact ⟨t, ht, hword, hparts, hcells, fun _ => ⟨hmem, hout⟩, nofun⟩
    | some v =>
      obtain ⟨t, ht, hword, hparts, hcells, hwrite⟩ := layoutDataAccess_write hb hbank hk v
      exact ⟨t, ht, hword, hparts, hcells, nofun, fun v' hv => Option.some.inj hv ▸ hwrite⟩

end Sys2Proof.Machine

/-! SUPPORT. Obligation O21: a train frame at a hub, what it sorts, how it leaves, and what is counted of it. -/

namespace Sys2Proof.Machine

/-! ## Runs of bytes (R4) -/

theorem length_beBytes (n v : Nat) : (beBytes n v).length = n := by rw [beBytes, List.length_reverse, length_leBytes]

theorem beBytes_succ (n v : Nat) : beBytes (n + 1) v = beBytes n (v / 256) ++ [BitVec.ofNat 8 v] := by
  rw [beBytes, leBytes, List.reverse_cons, beBytes]

theorem beNat_concat (x : List Byte) (b : Byte) : beNat (x ++ [b]) = 256 * beNat x + b.toNat := by
  rw [beNat, List.foldl_append, List.foldl_cons, List.foldl_nil, beNat]

/-- The bytes of the number that some bytes make are those bytes. -/
theorem beBytes_beNat (x : List Byte) : beBytes x.length (beNat x) = x := by
  induction x using List.reverseRecOn with
  | nil => rfl
  | append_singleton x b ih =>
    have hb := b.isLt
    rw [List.length_append, List.length_singleton, beBytes_succ, beNat_concat, show (256 * beNat x + b.toNat) / 256 = beNat x by omega, ih]
    congr 2
    apply BitVec.eq_of_toNat_eq
    rw [BitVec.toNat_ofNat]
    omega

/-- Runs of one length, one after the other. -/
theorem flatMap_slices (l : List Byte) (a m n : Nat) : ((List.range n).flatMap fun k => slice l (a + m * k) m) = slice l a (m * n) := by
  induction n with
  | zero => simp [slice]
  | succ n ih =>
    rw [List.range_succ, List.flatMap_append, ih, List.flatMap_singleton, slice, slice, slice, ← List.drop_drop, Nat.mul_succ, List.take_add]

theorem length_patch {l x : List Byte} {off : Nat} (h : off + x.length ≤ l.length) : (patch l off x).length = l.length := by
  simp only [patch, List.length_append, List.length_take, List.length_drop]
  omega

/-- The run that replaces another one reads back. -/
theorem slice_patch {l x : List Byte} {off : Nat} (h : off ≤ l.length) : slice (patch l off x) off x.length = x := by
  rw [slice, patch, List.append_assoc, List.drop_append_of_le_length (by rw [List.length_take]; omega),
    List.drop_of_length_le (by rw [List.length_take]; omega), List.nil_append, List.take_left']
  rfl

theorem slice_append_left {l x : List Byte} {off n : Nat} (h : off + n ≤ l.length) : slice (l ++ x) off n = slice l off n := by
  rw [slice, List.drop_append_of_le_length (by omega), List.take_append_of_le_length (by rw [List.length_drop]; omega), slice]

/-! ## A frame is sorted (R80, R88) -/

section
variable {s : State} {f : List Byte} (hf : fShape f = true)
include hf

/-- A lead frame of the current lap: its train, its ring's quiet, and HEADLESS. -/
theorem sortTrain_lead (hlap : fLap f = lapMod s) (hl : fLead f = true) : sortTrain s f =
    setHeadless ((s.setRing (fTrain f / 2) { s.ring (fTrain f / 2) with quiet := ftNs s }).setTrain (fTrain f)
      { s.train (fTrain f) with st := if fFinal f then .complete else .running, lastNo := fNo f }) (fTrain f / 2) false := by
  simp only [sortTrain, hf, hlap, hl, Bool.not_true, Bool.false_eq_true, ne_eq, not_true_eq_false, if_false, if_true]

theorem sortTrain_running (hlap : fLap f = lapMod s) (hl : fLead f = false) (hst : (s.train (fTrain f)).st = .running) : sortTrain s f =
    s.setTrain (fTrain f) { s.train (fTrain f) with st := if fFinal f then .complete else .running, lastNo := fNo f } := by
  simp only [sortTrain, hf, hlap, hl, hst, Bool.not_true, Bool.false_eq_true, ne_eq, not_true_eq_false, if_false, if_true]

theorem sortTrain_stale (hlap : fLap f ≠ lapMod s) (hl : fLead f = true) : sortTrain s f = incSat s (TRN_STALE_CNT_LEADS (fTrain f)) := by
  simp only [sortTrain, hf, if_pos hlap, hl, Bool.not_true, Bool.false_eq_true, if_false, if_true]

end

theorem sortTrain_lead_spec (s : State) {t : Nat} (x : Train) {y : Ring} (ht : t < 4) :
    ∃ u, u = setHeadless ((s.setRing (t / 2) y).setTrain t x) (t / 2) false ∧ u.train t = x ∧
      bits (rd u TRN_STATUS_HEADLESS) (2 * (t / 2)) 2 = 0 ∧ u.ring (t / 2) = y ∧
      partsBut [.regs, .trn] s u ∧ cellsBut [TRN_STATUS_HEADLESS.addr] s u := by
  obtain ⟨v, hv⟩ : ∃ v, v = (s.setRing (t / 2) y).setTrain t x := ⟨_, rfl⟩
  obtain ⟨hparts, hcells⟩ := regsOnly_setHeadless v (t / 2) false
  have hvparts : partsBut [.trn] s v := by
    rw [hv]
    exact partsBut_trans (partsBut_setRing s _ y) (partsBut_setTrain _ t x)
  refine ⟨_, rfl, ?_, headlessBits_setHeadless _ false (by omega), ?_, ?_, fun a ha => ?_⟩
  all_goals rw [← hv]
  · rw [train_congr t (hparts .trn (by decide)), hv, train_setTrain, if_pos rfl]
  · rw [ring_congr _ (hparts .trn (by decide)), hv]
    exact (ring_setRing s (t / 2) (t / 2) y).trans (if_pos rfl)
  · exact partsBut_trans (partsBut_mono hvparts (by decide)) (partsBut_mono hparts (by decide))
  · rw [hcells a ha, cellAt_congr a (hvparts .regs (by decide))]

theorem regsOnly_counted (s : State) (f : Fld) (h : f.fits = true) : rd (incSat s f) f = min (rd s f + 1) (2 ^ f.w - 1) ∧
    regsOnly [f.addr] s (incSat s f) :=
  ⟨rd_incSat_self s f (Nat.le_of_ble_eq_true h), regsOnly_wr s f _⟩

/-! ## A frame leaves (R70, R85, R120) -/

theorem fGood_iff (f : List Byte) : fGood f = true ↔
    fHeadLen f + 72 * fSlots f + 4 = f.length ∧ beNat (f.drop (f.length - 4)) = fcs32 (f.take (fHeadLen f)) := by
  rw [fGood, Bool.and_eq_true, decide_eq_true_eq, beq_iff_eq]

/-- The copies a frame carries, one after the other. -/
theorem flatten_fCopies (f : List Byte) : (fCopies f).flatMap id = slice f (fHeadLen f) (72 * fSlots f) := by
  rw [fCopies, List.flatMap_map]
  exact flatMap_slices f (fHeadLen f) 72 (fSlots f)

/-- A header that goes on as it came: of an unknown version, or of a frame that is no lead. -/
theorem passHead_unchanged (s : State) (p res : Nat) {f : List Byte} (h : fBank s f = none ∨ fLead f = false) :
    passHead s p res f = f.take (fHeadLen f) := by
  refine if_pos ?_
  obtain h | h := h
  · simp [h]
  · simp [h]

/-- The slots as the frame leaves. -/
def passSlots (s : State) (f : List Byte) : List Byte :=
  match fBank s f with
  | none => slice f (fHeadLen f) (f.length - fHeadLen f - 4)
  | some bank => ((fCopies f).flatMap fun c => if c.length = 72 then passSlot s bank c else c) ++
      (slice f (fHeadLen f) (f.length - fHeadLen f - 4)).drop (72 * fSlots f)

theorem passFrame_eq (s : State) (p res : Nat) (f : List Byte) : passFrame s p res f = passHead s p res f ++ passSlots s f ++
    beBytes 4 (if fGood f then fcs32 (passHead s p res f) else fcs32 (passHead s p res f) ^^^ 0xFFFF_FFFF) := by
  rw [passFrame, passSlots]
  cases fBank s f <;> rfl

theorem passSlot_foreign {s : State} {bank : Nat} {c : List Byte} (h : isOwn s (slotId c) bank = false) : passSlot s bank c = c :=
  if_pos (by rw [h]; rfl)

/-- A good frame that carries none of the hub's own slots keeps its slots. -/
theorem passSlots_foreign {s : State} {f : List Byte} (hg : fGood f = true)
    (h : ∀ bank, fBank s f = some bank → ∀ c ∈ fCopies f, isOwn s (slotId c) bank = false) :
    passSlots s f = slice f (fHeadLen f) (72 * fSlots f) := by
  obtain ⟨hlen, -⟩ := (fGood_iff f).1 hg
  have hbody : f.length - fHeadLen f - 4 = 72 * fSlots f := by omega
  rw [passSlots, hbody]
  split
  next => rfl
  next bank hb =>
    have hcopies : ((fCopies f).flatMap fun c => if c.length = 72 then passSlot s bank c else c) = (fCopies f).flatMap id :=
      List.flatMap_congr fun c hc => by rw [passSlot_foreign (h bank hb c hc), ite_self, id]
    have hdrop : (slice f (fHeadLen f) (72 * fSlots f)).drop (72 * fSlots f) = [] :=
      List.drop_of_length_le (by rw [slice, List.length_take]; omega)
    rw [hcopies, flatten_fCopies, hdrop, List.append_nil]

/-- A good frame is its header, its slots and the TCRC of its header. -/
theorem frame_of_fGood {f : List Byte} (hg : fGood f = true) :
    f.take (fHeadLen f) ++ slice f (fHeadLen f) (72 * fSlots f) ++ beBytes 4 (fcs32 (f.take (fHeadLen f))) = f := by
  obtain ⟨hlen, hcrc⟩ := (fGood_iff f).1 hg
  have hend : beBytes 4 (fcs32 (f.take (fHeadLen f))) = f.drop (fHeadLen f + 72 * fSlots f) := by
    have htail := beBytes_beNat (f.drop (f.length - 4))
    rw [hcrc, List.length_drop, show f.length - (f.length - 4) = 4 by omega, show f.length - 4 = fHeadLen f + 72 * fSlots f by omega] at htail
    exact htail
  rw [hend, slice, ← List.take_add, List.take_append_drop]

/-- A good frame leaves byte for byte as it came where its header and its slots do. -/
theorem passFrame_unchanged {s : State} (p res : Nat) {f : List Byte} (hg : fGood f = true) (hh : fBank s f = none ∨ fLead f = false)
    (hs : ∀ bank, fBank s f = some bank → ∀ c ∈ fCopies f, isOwn s (slotId c) bank = false) : passFrame s p res f = f := by
  rw [passFrame_eq, passHead_unchanged s p res hh, passSlots_foreign hg hs, if_pos hg, frame_of_fGood hg]

/-- CORRECTION in the header of a lead frame that leaves. -/
theorem slice_passHead_correction (s : State) (p res : Nat) {f : List Byte} (hb : (fBank s f).isSome = true) (hl : fLead f = true)
    (h40 : 40 ≤ f.length) : 40 = (passHead s p res f).length ∧
      slice (passHead s p res f) 28 8 = beBytes 8 (wrapTo 64 (fCorr f + ldly16 s p + subNs s res)) := by
  have hhead : fHeadLen f = 40 := if_pos hl
  have hlen : (f.take (fHeadLen f)).length = 40 := by
    rw [hhead, List.length_take]
    omega
  have hgo : ¬((fBank s f).isNone = true ∨ (!fLead f) = true) := by
    rw [hl, ← Option.not_isSome, hb]
    decide
  obtain ⟨x, hxlen, hpass⟩ : ∃ x, (beBytes 2 x).length = 2 ∧ passHead s p res f =
      patch (patch (f.take (fHeadLen f)) 14 (beBytes 2 x)) 28 (beBytes 8 (wrapTo 64 (fCorr f + ldly16 s p + subNs s res))) :=
    ⟨_, length_beBytes 2 _, if_neg hgo⟩
  have hin : (patch (f.take (fHeadLen f)) 14 (beBytes 2 x)).length = 40 := by rw [length_patch (by omega), hlen]
  have h8 := length_beBytes 8 (wrapTo 64 (fCorr f + ldly16 s p + subNs s res))
  refine ⟨?_, ?_⟩
  · rw [hpass, length_patch (by omega), hin]
  · have hslice := slice_patch (l := patch (f.take (fHeadLen f)) 14 (beBytes 2 x)) (off := 28)
      (x := beBytes 8 (wrapTo 64 (fCorr f + ldly16 s p + subNs s res))) (by omega)
    rw [h8] at hslice
    rw [hpass, hslice]

theorem slice_passFrame_correction (s : State) (p res : Nat) {f : List Byte} (hb : (fBank s f).isSome = true) (hl : fLead f = true)
    (h40 : 40 ≤ f.length) : slice (passFrame s p res f) 28 8 = beBytes 8 (wrapTo 64 (fCorr f + ldly16 s p + subNs s res)) := by
  obtain ⟨hlen, hcorr⟩ := slice_passHead_correction s p res hb hl h40
  rw [passFrame_eq, List.append_assoc, slice_append_left (by omega), hcorr]

/-! ## Errors and truncation (R73, R77) -/

/-- An unknown version is noted. -/
def versionSeen (s : State) (f : List Byte) : State :=
  if fShape f ∧ (bankOf s (fVer f)).isNone then wr s TRN_EVT_VER_UNKNOWN 1 else s

theorem regsOnly_versionSeen (s : State) (f : List Byte) : regsOnly [TRN_EVT_VER_UNKNOWN.addr] s (versionSeen s f) := by
  rw [versionSeen]
  split
  · exact regsOnly_wr s _ 1
  · exact regsOnly_refl _ s

theorem frameEnd_bad {s : State} {f : List Byte} (hg : fGood f = false) :
    frameEnd s f = incSat (versionSeen s f) (TRN_HDR_ERR_COUNT (fTrain f)) := by
  simp only [frameEnd, hg, Bool.false_eq_true, if_false, Bool.not_false, if_true, versionSeen]
  cases fBank s f <;> rfl

theorem trnHdrErr_ne_evt (t : Nat) : TRN_EVT_VER_UNKNOWN.addr ≠ (TRN_HDR_ERR_COUNT t).addr := by
  simp only [TRN_EVT_VER_UNKNOWN, TRN_HDR_ERR_COUNT]
  omega

theorem frameEnd_bad_spec {s : State} {f : List Byte} (hg : fGood f = false) : ∃ t, frameEnd s f = t ∧
    rd t (TRN_HDR_ERR_COUNT (fTrain f)) = min (rd s (TRN_HDR_ERR_COUNT (fTrain f)) + 1) (2 ^ (TRN_HDR_ERR_COUNT 0).w - 1) ∧
    (fShape f = true → bankOf s (fVer f) = none → rd t TRN_EVT_VER_UNKNOWN = 1) ∧
    regsOnly [(TRN_HDR_ERR_COUNT (fTrain f)).addr, TRN_EVT_VER_UNKNOWN.addr] s t := by
  have hseen := regsOnly_versionSeen s f
  obtain ⟨hcount, hregs⟩ := regsOnly_counted (versionSeen s f) (TRN_HDR_ERR_COUNT (fTrain f)) rfl
  refine ⟨_, frameEnd_bad hg, ?_, fun hs hb => ?_,
    regsOnly_trans (regsOnly_mono hseen (by simp)) (regsOnly_mono hregs (by simp))⟩
  · rw [hcount, rd_of_cellsBut_one hseen.2 (trnHdrErr_ne_evt _).symm]
    rfl
  · rw [rd_of_cellsBut_one hregs.2 (trnHdrErr_ne_evt _), versionSeen, if_pos ⟨hs, by rw [hb]; rfl⟩]
    exact rd_wr_bit _ _ rfl rfl

theorem trainFifoStomp_spec {s : State} {p t : Nat} (hp : p < 4) (hup : rd s (WELT_PORT_STAT_STATE p) = 4)
    (hs : ftNs s < (s.port p).sendTo) : ∃ u v, u = slip (newRun (lapSync s) p t) p t ∧ exec (.trainFifoStomp p t) s = .next v ∧
      v.out = .truncate p :: u.out ∧ (v.port p).stomped = true ∧ (v.port p).sendTo = ftNs s ∧
      rd v (TRN_STOMP_CNT_COUNT p) = min (rd u (TRN_STOMP_CNT_COUNT p) + 1) (2 ^ (TRN_STOMP_CNT_COUNT 0).w - 1) ∧
      partsBut [.regs, .ports, .out] u v ∧ cellsBut [(TRN_STOMP_CNT_COUNT p).addr] u v := by
  obtain ⟨u, hu⟩ : ∃ u, u = slip (newRun (lapSync s) p t) p t := ⟨_, rfl⟩
  have hgo : ¬(4 ≤ p ∨ (!isUp s p) = true ∨ (s.port p).sendTo ≤ ftNs s) := by
    rw [(isUp_iff s p).2 hup]
    rintro (h | h | h)
    · omega
    · cases h
    · omega
  have hexec : exec (.trainFifoStomp p t) s =
      .next (((incSat u (TRN_STOMP_CNT_COUNT p)).setPort p { u.port p with stomped := true, sendTo := ftNs s }).emit (.truncate p)) := by
    refine congrArg Host.Outcome.next ((if_neg hgo).trans ?_)
    rw [hu]
  obtain ⟨hcount, hparts, hcells⟩ := regsOnly_counted u (TRN_STOMP_CNT_COUNT p) rfl
  have hport := partsBut_setPort (incSat u (TRN_STOMP_CNT_COUNT p)) p { u.port p with stomped := true, sendTo := ftNs s }
  have hemit := partsBut_emit ((incSat u (TRN_STOMP_CNT_COUNT p)).setPort p { u.port p with stomped := true, sendTo := ftNs s }) (.truncate p)
  refine ⟨u, _, hu, hexec, ?_, ?_, ?_, by rw [rd_emit, rd_setPort, hcount]; rfl, ?_,
    fun a ha => by rw [cellAt_emit, cellAt_setPort, hcells a ha]⟩
  · rw [emit_out, hport .out (by decide), hparts .out (by decide)]
  · rw [State.port_congr p (hemit .ports (by decide)), State.port_setPort_self]
  · rw [State.port_congr p (hemit .ports (by decide)), State.port_setPort_self]
  · exact partsBut_trans (partsBut_mono hparts (by decide))
      (partsBut_trans (partsBut_mono hport (by decide)) (partsBut_mono hemit (by decide)))

theorem exec_trainFramePass {s u : State} {dt p : Nat} (sub res : Nat) (f : List Byte) (hu : u = lapSync (advance s dt)) (hp : p < 4)
    (hup : rd u (WELT_PORT_STAT_STATE p) = 4) (hb : ¬(u.rst.busy = true ∧ u.rst.full = true)) : ∃ v a w, v = sortTrain (leadCapture u f) f ∧
      a = (if fShape f = true ∧ fLead f = true then leadArr v f else v) ∧
      w = (if (fBank u f).isSome = true ∧ fLead f = true ∧ fGood f = true then leadGood a p sub f else a) ∧
      exec (.trainFramePass dt sub res p f) s = .next (frameEnd (if launches u (p / 2) = true then w
        else (leaveBy w (egressOf u p) res f).emit (.trainFrame (egressOf u p) (passFrame u p res f))) f) := by
  have hgo : ¬(4 ≤ p ∨ (!isUp u p) = true ∨ (u.rst.busy = true ∧ u.rst.full = true)) := by
    rw [(isUp_iff u p).2 hup]
    rintro (h | h | h)
    · omega
    · cases h
    · exact hb h
  refine ⟨_, _, _, rfl, rfl, rfl, congrArg Host.Outcome.next ?_⟩
  rw [← hu]
  exact if_neg hgo

/-- Settles O21: the passage by `exec_trainFramePass`, sorting by the cases of `sortTrain`, the frame that leaves by `passFrame_unchanged`
and `slice_passFrame_correction`, errors by `frameEnd_bad_spec`, truncation by `trainFifoStomp_spec`. -/
theorem trainFramesPassTheHub : Obligations.TrainFramesPassTheHub := by
  unfold Obligations.TrainFramesPassTheHub
  refine ⟨fun s u dt sub res p f hu hp hup hb => exec_trainFramePass sub res f hu hp hup hb,
    fun s f hf ht => ⟨_, rfl, fun hlap hl => ?_, fun hlap hl hst => ?_, fun hlap hl => ?_⟩,
    fun s p res f hl hg hs => passFrame_unchanged p res hg (.inr hl) hs,
    fun s p res f hb hg => passFrame_unchanged p res hg (.inl hb) (fun bank h => nomatch hb.symm.trans h),
    fun s p res f hb hl h40 => slice_passFrame_correction s p res hb hl h40, fun s f hg => frameEnd_bad_spec hg,
    fun s p t hp hup hs => trainFifoStomp_spec hp hup hs⟩
  · obtain ⟨u, hu, htrain, hbits, hring, hparts, hcells⟩ := sortTrain_lead_spec s
      { s.train (fTrain f) with st := if fFinal f then .complete else .running, lastNo := fNo f }
      (y := { s.ring (fTrain f / 2) with quiet := ftNs s }) ht
    rw [sortTrain_lead hf hlap hl, ← hu, htrain, hring]
    exact ⟨rfl, rfl, hbits, rfl, hparts, hcells⟩
  · rw [sortTrain_running hf hlap hl hst, train_setTrain, if_pos rfl]
    exact ⟨rfl, rfl, partsBut_setTrain s _ _⟩
  · rw [sortTrain_stale hf hlap hl]
    exact regsOnly_counted s (TRN_STALE_CNT_LEADS (fTrain f)) rfl

end Sys2Proof.Machine

/-! SUPPORT. Obligation O25: the median of a lap at a follower of fabric time. -/

namespace Sys2Proof.Machine

/-! ## The Bellman's own state, its fields and its flags (R114, R124, R132) -/

/-- The state with what the Bellman has beside its registers replaced. -/
def withBell (s : State) (y : Bell) : State := { s with bell := y }

theorem partsBut_withBell (s : State) (y : Bell) : partsBut [.bell] s (withBell s y) := by
  intro p hp
  cases p <;> simp [Part.same, withBell] at hp ⊢

theorem cellsBut_withBell (l : List Nat) (s : State) (y : Bell) : cellsBut l s (withBell s y) := fun _ _ => rfl

theorem regsOnly_wrs (s : State) (l : List (Fld × Nat)) : regsOnly (l.map (·.1.addr)) s (wrs s l) := by
  induction l generalizing s with
  | nil => exact regsOnly_refl _ s
  | cons x l ih =>
    exact regsOnly_trans (regsOnly_mono (regsOnly_wr s x.1 x.2) (by simp)) (regsOnly_mono (ih _) fun _ => List.mem_cons_of_mem _)

/-- A field reads the signed number last written to it, modulo its width. -/
theorem rd_wrI (s : State) {f : Fld} (x : Int) (h : f.fits = true) : rd (wrI s f x) f = wrapTo f.w x :=
  (rd_wr_same s _ h).trans (wrapTo_mod _ _)

theorem setQ_spec (s : State) (lock hold : Bool) : rd (setQ s lock hold) BELL_PPS_CTRL_LOCK_Q = natOf lock ∧
    rd (setQ s lock hold) BELL_PPS_CTRL_HOLDOVER_Q = natOf hold ∧ regsOnly [BELL_PPS_CTRL_LOCK_Q.addr] s (setQ s lock hold) := by
  refine ⟨?_, ?_, regsOnly_mono (regsOnly_wrs s _) (by simp [BELL_PPS_CTRL_LOCK_Q, BELL_PPS_CTRL_HOLDOVER_Q])⟩
  · rw [setQ, wrs_cons, wrs_cons, wrs_nil, rd_wr_apart _ _ rfl rfl]
    exact rd_wrB s lock rfl rfl
  · exact rd_wrB _ hold rfl rfl

theorem rd_bellState_wr (s : State) {st : Nat} (h : st < 8) : rd (wr s BELL_STATUS_STATE st) BELL_STATUS_STATE = st :=
  (rd_wr_same s st rfl).trans (Nat.mod_eq_of_lt h)

/-! ## Entries to a state (R123, R124) -/

theorem toAcquire_spec (s : State) : rd (toAcquire s) BELL_STATUS_STATE = 1 ∧ partsBut [.regs, .bell] s (toAcquire s) ∧
    cellsBut [BELL_STATUS_STATE.addr] s (toAcquire s) := by
  obtain ⟨y, hy⟩ : ∃ y, toAcquire s = withBell (wr s BELL_STATUS_STATE 1) y := ⟨_, rfl⟩
  rw [hy]
  exact ⟨rd_bellState_wr s (by decide),
    partsBut_trans (partsBut_mono (partsBut_wr s _ _) (by decide)) (partsBut_mono (partsBut_withBell _ y) (by decide)),
    cellsBut_wr s BELL_STATUS_STATE 1⟩

theorem toLocked_spec (s : State) : rd (toLocked s) BELL_STATUS_STATE = 2 ∧ rd (toLocked s) BELL_EVT_LOCK = 1 ∧
    rd (toLocked s) BELL_PPS_CTRL_LOCK_Q = 1 ∧ rd (toLocked s) BELL_PPS_CTRL_HOLDOVER_Q = 0 := by
  obtain ⟨hlock, hhold, -, hcells⟩ := setQ_spec (wr (wr s BELL_STATUS_STATE 2) BELL_EVT_LOCK 1) true false
  refine ⟨?_, ?_, hlock, hhold⟩
  · refine (rd_of_cellsBut_one hcells (by decide)).trans ?_
    rw [rd_wr_addr _ _ _ _ (by decide)]
    exact rd_bellState_wr s (by decide)
  · exact (rd_of_cellsBut_one hcells (by decide)).trans (rd_wr_bit _ _ rfl rfl)

/-- ACQUIRE with the flags of PPS_OUT rewritten, LOCK_Q cleared: where lock is lost and where a follower steps. -/
theorem acquire_unqualified_spec (s : State) (hold : Bool) : rd (setQ (toAcquire s) false hold) BELL_STATUS_STATE = 1 ∧
    rd (setQ (toAcquire s) false hold) BELL_PPS_CTRL_LOCK_Q = 0 ∧ partsBut [.regs, .bell] s (setQ (toAcquire s) false hold) := by
  obtain ⟨hst, hparts, -⟩ := toAcquire_spec s
  obtain ⟨hlock, -, hregs, hcells⟩ := setQ_spec (toAcquire s) false hold
  exact ⟨(rd_of_cellsBut_one hcells (by decide)).trans hst, hlock, partsBut_trans hparts (partsBut_mono hregs (by decide))⟩

/-- Lock is lost to ACQUIRE: UNLOCK is set and BELL_UNLOCK raised with that state (R124). -/
theorem loseLock_spec (s : State) (hold : Bool) : ∃ v, loseLock s hold = raise v 32 1 ∧ rd v BELL_STATUS_STATE = 1 ∧
    rd v BELL_PPS_CTRL_LOCK_Q = 0 ∧ rd v BELL_EVT_UNLOCK = 1 ∧ partsBut [.regs, .bell] s v := by
  obtain ⟨hst, hlock, hparts⟩ := acquire_unqualified_spec s hold
  refine ⟨wr (setQ (toAcquire s) false hold) BELL_EVT_UNLOCK 1, ?_, ?_, ?_, rd_wr_bit _ _ rfl rfl,
    partsBut_trans hparts (partsBut_mono (partsBut_wr _ _ _) (by decide))⟩
  · rw [loseLock, unlock, bellState, hst]
  · exact (rd_wr_addr _ _ _ _ (by decide)).trans hst
  · exact (rd_wr_addr _ _ _ _ (by decide)).trans hlock

/-! ## The transition that a median drives (R124) -/

section
variable {s : State} (x : Int)

theorem followState_free (h : rd s BELL_STATUS_STATE = 0) : followState s x = toAcquire s := by
  simp [followState, bellState, h, lFree]

theorem followState_acquire (h : rd s BELL_STATUS_STATE = 1) : followState s x =
    if 8 ≤ (if 50 * nsSample ≤ x.natAbs then 0 else s.bell.good + 1) then toLocked s
    else withBell s { s.bell with good := if 50 * nsSample ≤ x.natAbs then 0 else s.bell.good + 1 } := by
  simp [followState, bellState, h, lFree, lAcquire, atLeast, withBell]

theorem followState_locked (h : rd s BELL_STATUS_STATE = 2) : followState s x =
    if 4 ≤ (if 100 * nsSample ≤ x.natAbs then s.bell.bad + 1 else 0) then loseLock s (flag s BELL_PPS_CTRL_HOLDOVER_Q)
    else withBell s { s.bell with bad := if 100 * nsSample ≤ x.natAbs then s.bell.bad + 1 else 0 } := by
  simp [followState, bellState, h, lFree, lAcquire, lLocked, atLeast, withBell]

theorem followState_holdover (h : rd s BELL_STATUS_STATE = 3) :
    followState s x = if 50 * nsSample ≤ x.natAbs then loseLock s false else toLocked s := by
  simp [followState, bellState, h, lFree, lAcquire, lLocked, lHoldover, atLeast]

/-- ACQUIRE that does not reach its eighth median in a row below 50 ns counts. -/
theorem followState_counts_good (h : rd s BELL_STATUS_STATE = 1) (hx : 50 * nsSample ≤ x.natAbs ∨ s.bell.good < 7) :
    followState s x = withBell s { s.bell with good := if 50 * nsSample ≤ x.natAbs then 0 else s.bell.good + 1 } := by
  rw [followState_acquire x h, if_neg]
  split <;> omega

/-- LOCKED that does not see its fourth median in a row of 100 ns or more counts. -/
theorem followState_counts_bad (h : rd s BELL_STATUS_STATE = 2) (hx : x.natAbs < 100 * nsSample ∨ s.bell.bad < 3) :
    followState s x = withBell s { s.bell with bad := if 100 * nsSample ≤ x.natAbs then s.bell.bad + 1 else 0 } := by
  rw [followState_locked x h, if_neg]
  split <;> omega

theorem followState_locks (h : (rd s BELL_STATUS_STATE = 1 ∧ 7 ≤ s.bell.good) ∨ rd s BELL_STATUS_STATE = 3)
    (hx : x.natAbs < 50 * nsSample) : followState s x = toLocked s := by
  obtain ⟨h, hgood⟩ | h := h
  · rw [followState_acquire x h, if_neg (Nat.not_le.2 hx), if_pos (by omega)]
  · rw [followState_holdover x h, if_neg (Nat.not_le.2 hx)]

theorem followState_unlocks (h : (rd s BELL_STATUS_STATE = 2 ∧ 100 * nsSample ≤ x.natAbs ∧ 3 ≤ s.bell.bad) ∨
    (rd s BELL_STATUS_STATE = 3 ∧ 50 * nsSample ≤ x.natAbs)) : ∃ hold, followState s x = loseLock s hold := by
  obtain ⟨h, hx, hbad⟩ | ⟨h, hx⟩ := h
  · exact ⟨_, by rw [followState_locked x h, if_pos hx, if_pos (by omega)]⟩
  · exact ⟨_, by rw [followState_holdover x h, if_pos hx]⟩

end

/-! ## A median, a lap without one, and a step (R122 to R125) -/

/-- BELL_OFFSET takes a sample in units of 2^-4 ns. -/
def offsetShown (s : State) (x : Int) : State := wrI s BELL_OFFSET_OFS (roundDiv x (2 ^ 13))

theorem offsetShown_spec (s : State) (x : Int) :
    rd (offsetShown s x) BELL_OFFSET_OFS = wrapTo BELL_OFFSET_OFS.w (roundDiv x (2 ^ 13)) ∧
    regsOnly [BELL_OFFSET_OFS.addr] s (offsetShown s x) := ⟨rd_wrI s _ rfl, regsOnly_wr s _ _⟩

/-- The medians in a row beyond STEP_THR, with the present one. -/
def bigCount (s : State) (n : Nat) (x : Int) : Nat := if stepThr s * nsSample < x.natAbs then n + 1 else 0

theorem followMedian_eq (s : State) (x : Int) : followMedian s x =
    if 2 ≤ bigCount s s.bell.big x then followStep (offsetShown s x) x
    else servo (withBell (followState (offsetShown s x) x)
      { (followState (offsetShown s x) x).bell with big := bigCount s s.bell.big x }) x (rd s TRN_TLAP_NS) := by
  simp only [followMedian, beyond, decide_eq_true_eq]
  rfl

/-- A lap without a median leaves LOCKED for HOLDOVER, FREQ at the negated integral (R123, R124). -/
theorem followNone_locked {s : State} (h : rd s BELL_STATUS_STATE = 2) : ∃ u, followNone s = servoHold u ∧
    rd u BELL_STATUS_STATE = 3 ∧ rd u BELL_EVT_HOLDOVER = 1 ∧ rd u BELL_PPS_CTRL_HOLDOVER_Q = 1 ∧
    rd u BELL_PPS_CTRL_LOCK_Q = rd s BELL_PPS_CTRL_LOCK_Q ∧ u.bell = { s.bell with big := 0, unlocked := false } ∧
    partsBut [.regs, .bell] s u := by
  obtain ⟨t, ht⟩ : ∃ t, t = wr (wr (wr s BELL_STATUS_STATE 3) BELL_EVT_HOLDOVER 1) BELL_PPS_CTRL_HOLDOVER_Q 1 := ⟨_, rfl⟩
  have hparts : partsBut [.regs] s t := by
    rw [ht]
    exact partsBut_wrs s [(BELL_STATUS_STATE, 3), (BELL_EVT_HOLDOVER, 1), (BELL_PPS_CTRL_HOLDOVER_Q, 1)]
  refine ⟨withBell t { s.bell with big := 0, unlocked := false }, ?_, ?_, ?_, ?_, ?_, rfl,
    partsBut_trans (partsBut_mono hparts (by decide)) (partsBut_mono (partsBut_withBell t _) (by decide))⟩
  · rw [ht]
    exact if_pos h
  all_goals change rd t _ = _; rw [ht]
  · rw [rd_wr_addr _ _ _ _ (by decide), rd_wr_addr _ _ _ _ (by decide), rd_bellState_wr s (by decide)]
  · rw [rd_wr_addr _ _ _ _ (by decide), rd_wr_bit _ _ rfl rfl]
  · rw [rd_wr_bit _ _ rfl rfl]
  · rw [rd_wr_apart _ _ rfl rfl, rd_wr_addr _ _ _ _ (by decide), rd_wr_addr _ _ _ _ (by decide)]

/-- A follower's step: in the next cycle it enters ACQUIRE, reports the step, and the loss of lock where it was LOCKED (R125). -/
theorem followStep_spec (s : State) (x : Int) : ∃ u v w, rd u BELL_STATUS_STATE = 1 ∧ rd u BELL_PPS_CTRL_LOCK_Q = 0 ∧
    u.clk = (advance s 1).clk ∧ partsBut [.regs, .bell, .clk] s u ∧ v = raise u 33 (stepCause (-x / nsSample)) ∧
    w = (if rd s BELL_STATUS_STATE = 2 then raise (wr v BELL_EVT_UNLOCK 1) 32 (rd v BELL_STATUS_STATE) else v) ∧
    followStep s x = bellStep w (-x * 2 ^ 31) := by
  obtain ⟨hst, hlock, hparts⟩ := acquire_unqualified_spec (advance s 1) (flag (advance s 1) BELL_PPS_CTRL_HOLDOVER_Q)
  refine ⟨_, _, _, hst, hlock, hparts .clk (by decide), ?_, rfl, rfl, ?_⟩
  · exact partsBut_trans (partsBut_mono (partsBut_advance s 1) (by decide)) (partsBut_mono hparts (by decide))
  · rw [followStep, bellState, rd_advance]
    rfl

/-! ## The end of a lap (R117, R121, R122) -/

theorem lapCounts_spec (s : State) : (lapCounts s).bell.samples = [] ∧
    rd (lapCounts s) BELL_STATUS_NSAMP = s.bell.samples.length % 2 ^ BELL_STATUS_NSAMP.w ∧
    rd (lapCounts s) BELL_STATUS_STATE = rd s BELL_STATUS_STATE ∧
    (lapCounts s).bell.noA = (if s.bell.samples.any (fun p => p.1 < 2) = true then 0 else s.bell.noA + 1) ∧
    (lapCounts s).bell.noLead = (if s.bell.leadSeen = true then 0 else s.bell.noLead + 1) ∧
    partsBut [.regs, .bell] s (lapCounts s) ∧ cellsBut [BELL_STATUS_NSAMP.addr] s (lapCounts s) := by
  obtain ⟨y, used, hy, hbell⟩ : ∃ y used, lapCounts s = wr (wr (withBell s y) BELL_STATUS_NSAMP s.bell.samples.length) BELL_STATUS_USED used ∧
      y = { s.bell with
        samples := [], leadSeen := false
        noA := if s.bell.samples.any (fun p => p.1 < 2) = true then 0 else s.bell.noA + 1
        noLead := if s.bell.leadSeen = true then 0 else s.bell.noLead + 1 } := ⟨_, _, rfl, rfl⟩
  have hregs : regsOnly [BELL_STATUS_NSAMP.addr] (withBell s y) (lapCounts s) := by
    rw [hy]
    exact regsOnly_trans (regsOnly_wr _ BELL_STATUS_NSAMP _) (regsOnly_wr _ BELL_STATUS_USED _)
  obtain ⟨hparts, hcells⟩ := hregs
  have hb : (lapCounts s).bell = y := hparts .bell (by decide)
  rw [hb, hbell, hy]
  refine ⟨rfl, ?_, ?_, rfl, rfl, ?_, ?_⟩
  · rw [rd_wr_apart _ _ rfl rfl, rd_wr_same _ _ rfl]
  · rw [rd_wr_apart _ _ rfl rfl, rd_wr_apart _ _ rfl rfl]
    rfl
  · rw [← hy]
    exact partsBut_trans (partsBut_mono (partsBut_withBell s y) (by decide)) (partsBut_mono hparts (by decide))
  · rw [← hy]
    exact hcells

/-- An origin takes no median, nor does anyone before ST10 (R21, R117, R138). -/
theorem lapEnd_still {s : State} (h : rd s BELL_STATUS_STATE = 4 ∨ rd s SYS_STEP_STEP < 10) :
    lapEnd s = bellSettle (originSettle (lapCounts s)) := by
  rw [lapEnd, bellState]
  exact congrArg (fun t => bellSettle (originSettle t)) (if_pos h)

theorem lapEnd_follower {s : State} (h : rd s BELL_STATUS_STATE ≠ 4) (h10 : 10 ≤ rd s SYS_STEP_STEP) : lapEnd s =
    bellSettle (originSettle ((median (s.bell.samples.map (·.2))).elim (followNone (lapCounts s)) (followMedian (lapCounts s)))) := by
  rw [lapEnd, bellState]
  refine congrArg (fun t => bellSettle (originSettle t)) ((if_neg (not_or.2 ⟨h, Nat.not_lt.2 h10⟩)).trans ?_)
  cases median (s.bell.samples.map (·.2)) <;> rfl

theorem exec_followerLapMedian {s u : State} (hb : s.rst.busy = false) (hu : u = toBoundary s (rd s TRN_TLAP_NS) s.bell.lastMed) :
    exec .followerLapMedian s = .next (lapEnd (withBell u { u.bell with lastMed := some (lapNow u) })) := by
  rw [hu]
  exact congrArg Host.Outcome.next (whenAlive_alive s _ hb)

/-! ## The timeout of a HOLDOVER (R124) -/

/-- The timeout of a HOLDOVER not yet reported clears LOCK_Q, keeps HOLDOVER_Q, and raises BELL_UNLOCK with the state. -/
theorem holdoverTimeout_spec {s : State} (hb : s.rst.busy = false) (h : rd s BELL_STATUS_STATE = 3) (hu : s.bell.unlocked = false) :
    ∃ u, exec .holdoverTimeout s = .next (bellSettle (raise u 32 3)) ∧ rd u BELL_PPS_CTRL_LOCK_Q = 0 ∧
      rd u BELL_PPS_CTRL_HOLDOVER_Q = 1 ∧ rd u BELL_EVT_UNLOCK = 1 ∧ u.bell = { s.bell with unlocked := true } ∧
      partsBut [.regs, .bell] s u ∧ cellsBut [BELL_PPS_CTRL_LOCK_Q.addr, BELL_EVT_UNLOCK.addr] s u := by
  obtain ⟨t, ht⟩ : ∃ t, t = setQ (withBell s { s.bell with unlocked := true }) false true := ⟨_, rfl⟩
  obtain ⟨hlock, hhold, hparts, hcells⟩ := setQ_spec (withBell s { s.bell with unlocked := true }) false true
  rw [← ht] at hlock hhold hparts hcells
  have hst : rd t BELL_STATUS_STATE = 3 := (rd_of_cellsBut_one hcells (by decide)).trans h
  refine ⟨wr t BELL_EVT_UNLOCK 1, ?_, ?_, ?_, rd_wr_bit _ _ rfl rfl, hparts .bell (by decide), ?_, ?_⟩
  · refine congrArg Host.Outcome.next ((whenAlive_alive s _ hb).trans ((if_pos ⟨h, by rw [hu]; rfl⟩).trans ?_))
    change bellSettle (unlock (setQ (withBell s { s.bell with unlocked := true }) false true)) = _
    rw [← ht, unlock, bellState, hst]
  · exact (rd_wr_addr _ _ _ _ (by decide)).trans hlock
  · exact (rd_wr_addr _ _ _ _ (by decide)).trans hhold
  · exact partsBut_trans (partsBut_mono (partsBut_withBell s _) (by decide))
      (partsBut_trans (partsBut_mono hparts (by decide)) (partsBut_mono (partsBut_wr t _ _) (by decide)))
  · exact cellsBut_trans (cellsBut_mono hcells (by simp)) (cellsBut_mono (cellsBut_wr t _ _) (by simp))

/-- Settles O25: the lap's end by `lapCounts_spec`, a median by `followMedian_eq`, its transition by the equations of `followState`, the
step by `followStep_spec`, HOLDOVER by `followNone_locked` and `holdoverTimeout_spec`. -/
theorem mediansMoveTheFollower : Obligations.MediansMoveTheFollower := by
  unfold Obligations.MediansMoveTheFollower
  refine ⟨fun s hb => ⟨_, _, rfl, rfl, partsBut_withBell _ _, exec_followerLapMedian hb rfl⟩, fun s => ?_, fun s h => followNone_locked h,
    fun s x => ?_, fun s x => followStep_spec s x,
    fun s x => ⟨_, rfl, fun h => ?_, fun h hx hg => ?_, fun h hx => ?_, fun h hx => ?_, fun h hx => ?_, fun h => ?_⟩,
    fun s hb h hu => holdoverTimeout_spec hb h hu⟩
  · obtain ⟨hsamples, hnsamp, hst, hnoA, hnoLead, hparts, hcells⟩ := lapCounts_spec s
    exact ⟨_, hsamples, hnsamp, hst, hnoA, hnoLead, hparts, hcells, lapEnd_still,
      fun h h10 hmed => by rw [lapEnd_follower h h10, hmed, Option.elim_none],
      fun x h h10 hmed => by rw [lapEnd_follower h h10, hmed, Option.elim_some]⟩
  · obtain ⟨hofs, hregs⟩ := offsetShown_spec s x
    refine ⟨_, hofs, hregs, fun hx hbig => ?_, fun v hv hx => ?_, fun v hv hx hbig => ?_⟩
    all_goals rw [followMedian_eq, bigCount]
    · rw [if_pos hx, if_pos (by omega)]
    · rw [if_neg (Nat.not_lt.2 hx), if_neg (by decide), hv]
      rfl
    · rw [if_pos hx, hbig, if_neg (by decide), hv]
      rfl
  · rw [followState_free x h]
    exact (toAcquire_spec s).1
  · rw [followState_locks x (.inl ⟨h, hg⟩) hx]
    exact toLocked_spec s
  · rw [followState_counts_good x h hx]
    exact ⟨partsBut_withBell s _, rfl⟩
  · rw [followState_counts_bad x h hx]
    exact ⟨partsBut_withBell s _, rfl⟩
  · rw [followState_locks x (.inr h) hx]
    exact toLocked_spec s
  · obtain ⟨hold, hlost⟩ := followState_unlocks x h
    rw [hlost]
    exact loseLock_spec s hold

end Sys2Proof.Machine

/-! SUPPORT. Obligation O26: the reference samples of a sync origin, its steps, PPS in and PPS out. -/

namespace Sys2Proof.Machine

/-! ## The limit of FREQ (R114) -/

/-- A number within 32 signed bits reads back. -/
theorem signed_wrapTo_32 {x : Int} (hlo : -2147483648 ≤ x) (hhi : x < 2147483648) : signed 32 (wrapTo 32 x) = x := by
  have hmod := wrapTo_mod 32 x
  unfold signed
  rw [hmod]
  unfold wrapTo
  split <;> omega

/-- FREQ takes a value within the limit, and nothing else changes. -/
theorem freqWritten_spec (s : State) {f : Int} (hlo : -219902326 ≤ f) (hhi : f ≤ 219902326) :
    rdI (wrI s BELL_FREQ_FREQ f) BELL_FREQ_FREQ = f ∧ regsOnly [BELL_FREQ_FREQ.addr] s (wrI s BELL_FREQ_FREQ f) := by
  refine ⟨?_, regsOnly_wr s _ _⟩
  rw [rdI, rd_wrI s f rfl]
  exact signed_wrapTo_32 (by omega) (by omega)

/-- FREQ takes the limit and CLAMP is set. -/
theorem freqClamped_spec (s : State) {f : Int} (hlo : -219902326 ≤ f) (hhi : f ≤ 219902326) :
    rdI (wr (wrI s BELL_FREQ_FREQ f) BELL_EVT_CLAMP 1) BELL_FREQ_FREQ = f ∧
    rd (wr (wrI s BELL_FREQ_FREQ f) BELL_EVT_CLAMP 1) BELL_EVT_CLAMP = 1 ∧
    regsOnly [BELL_FREQ_FREQ.addr, BELL_EVT_CLAMP.addr] s (wr (wrI s BELL_FREQ_FREQ f) BELL_EVT_CLAMP 1) := by
  obtain ⟨hf, hregs⟩ := freqWritten_spec s hlo hhi
  refine ⟨?_, rd_wr_bit _ _ rfl rfl, regsOnly_trans (regsOnly_mono hregs (by simp)) (regsOnly_mono (regsOnly_wr _ _ _) (by simp))⟩
  rw [rdI, rd_wr_addr _ _ _ _ (by decide)]
  exact hf

theorem setFreq_spec (s : State) (f : Int) : ∃ t, setFreq s f = t ∧ rdI t BELL_FREQ_FREQ = max (-219902326) (min f 219902326) ∧
    (f < -219902326 ∨ 219902326 < f → rd t BELL_EVT_CLAMP = 1) ∧
    (-219902326 ≤ f → f ≤ 219902326 → rd t BELL_EVT_CLAMP = rd s BELL_EVT_CLAMP) ∧
    regsOnly [BELL_FREQ_FREQ.addr, BELL_EVT_CLAMP.addr] s t := by
  refine ⟨_, rfl, ?_⟩
  by_cases hhi : 219902326 < f
  · obtain ⟨hf, hclamp, hregs⟩ := freqClamped_spec s (f := 219902326) (by decide) (by decide)
    rw [show setFreq s f = wr (wrI s BELL_FREQ_FREQ 219902326) BELL_EVT_CLAMP 1 from if_pos hhi]
    exact ⟨by rw [hf]; omega, fun _ => hclamp, fun _ h => absurd hhi (Int.not_lt.2 h), hregs⟩
  by_cases hlo : f < -219902326
  · obtain ⟨hf, hclamp, hregs⟩ := freqClamped_spec s (f := -219902326) (by decide) (by decide)
    rw [show setFreq s f = wr (wrI s BELL_FREQ_FREQ (-219902326)) BELL_EVT_CLAMP 1 from (if_neg hhi).trans (if_pos hlo)]
    exact ⟨by rw [hf]; omega, fun _ => hclamp, fun h => absurd hlo (Int.not_lt.2 h), hregs⟩
  · obtain ⟨hf, hregs⟩ := freqWritten_spec s (Int.not_lt.1 hlo) (Int.not_lt.1 hhi)
    rw [show setFreq s f = wrI s BELL_FREQ_FREQ f from (if_neg hhi).trans (if_neg hlo)]
    exact ⟨by rw [hf]; omega, fun h => absurd h (not_or.2 ⟨hlo, hhi⟩), fun _ _ => rd_wr_addr _ _ _ _ (by decide),
      regsOnly_mono hregs (by simp)⟩

/-! ## A reference sample (R118, R123, R124) -/

theorem extLock_spec (s : State) (x : Int) {g b : Nat} (hg : g = if 50 * nsSample < x.natAbs then 0 else s.bell.extGood + 1)
    (hb : b = if 100 * nsSample ≤ x.natAbs then s.bell.extBad + 1 else 0) : ∃ t, extLock s x = t ∧
    t.bell = { s.bell with extGood := g, extBad := b } ∧ rd t BELL_STATUS_EXT_LOCKED =
      (if 8 ≤ g then 1 else if 4 ≤ b then 0 else rd s BELL_STATUS_EXT_LOCKED) ∧
    partsBut [.regs, .bell] s t ∧ cellsBut [BELL_STATUS_EXT_LOCKED.addr] s t := by
  obtain ⟨u, hu⟩ : ∃ u, u = withBell s { s.bell with extGood := g, extBad := b } := ⟨_, rfl⟩
  have heq : extLock s x = if 8 ≤ g then wr u BELL_STATUS_EXT_LOCKED 1 else if 4 ≤ b then wr u BELL_STATUS_EXT_LOCKED 0 else u := by
    rw [hu, hg, hb]
    simp only [extLock, beyond, atLeast, decide_eq_true_eq, withBell]
  have hbell : u.bell = { s.bell with extGood := g, extBad := b } := by rw [hu]; rfl
  have hparts : partsBut [.regs, .bell] s u := by
    rw [hu]
    exact partsBut_mono (partsBut_withBell s _) (by decide)
  have hcells : cellsBut [BELL_STATUS_EXT_LOCKED.addr] s u := by rw [hu]; exact cellsBut_withBell _ s _
  have hwr : ∀ v, partsBut [.regs, .bell] s (wr u BELL_STATUS_EXT_LOCKED v) ∧ cellsBut [BELL_STATUS_EXT_LOCKED.addr] s (wr u BELL_STATUS_EXT_LOCKED v) :=
    fun v => ⟨partsBut_trans hparts (partsBut_mono (partsBut_wr u _ v) (by decide)), cellsBut_trans hcells (cellsBut_wr u _ v)⟩
  refine ⟨_, rfl, ?_⟩
  rw [heq]
  by_cases h8 : 8 ≤ g
  · rw [if_pos h8, if_pos h8]
    exact ⟨hbell, rd_wr_bit u 1 rfl rfl, hwr 1⟩
  by_cases h4 : 4 ≤ b
  · rw [if_neg h8, if_neg h8, if_pos h4, if_pos h4]
    exact ⟨hbell, rd_wr_bit u 0 rfl rfl, hwr 0⟩
  · rw [if_neg h8, if_neg h8, if_neg h4, if_neg h4]
    exact ⟨hbell, by rw [hu]; rfl, hparts, hcells⟩

theorem beforeSt14_iff (s : State) : beforeSt14 s = true ↔ rd s SYS_STATE_STATE = 1 ∨ rd s SYS_STATE_STATE = 2 := by
  rw [beforeSt14, Bool.or_eq_true, decide_eq_true_eq, decide_eq_true_eq]
  rfl

/-- The sample shown in BELL_OFFSET, counted for STEP_THR and for EXT_LOCKED. -/
def sampleCounted (s : State) (n : Nat) (x : Int) : State :=
  extLock (withBell (offsetShown s x) { (offsetShown s x).bell with extBig := n }) x

theorem refSample_eq (s : State) (x : Int) (t : Nat) {n : Nat} (hn : n = bigCount s s.bell.extBig x) : refSample s x t =
    if beforeSt14 s = true ∧ 0 < n then
      bellSettle (bellStep (raise (sampleCounted s n x) 33 (stepCause (-x / nsSample))) (-x * 2 ^ 31))
    else bellSettle (servo (if n = 2 then
      raise (wr (sampleCounted s n x) BELL_EVT_EXT_STEP_PEND 1) 33 (stepCause (x / nsSample)) else sampleCounted s n x) x t) := by
  rw [hn]
  simp only [refSample, beyond, decide_eq_true_eq]
  rfl

section
variable (s : State) (x : Int) (t : Nat)

/-- A sample within STEP_THR drives the servo. -/
theorem refSample_within (hx : x.natAbs ≤ stepThr s * nsSample) : refSample s x t = bellSettle (servo (sampleCounted s 0 x) x t) := by
  rw [refSample_eq s x t (if_neg (Nat.not_lt.2 hx)).symm, if_neg (fun h => absurd h.2 (Nat.lt_irrefl 0)), if_neg (by decide)]

section
variable (hx : stepThr s * nsSample < x.natAbs)
include hx

/-- Before ST14 a sample beyond STEP_THR steps fabric time back by it (R118, R125; log entry 32). -/
theorem refSample_steps (h : rd s SYS_STATE_STATE = 1 ∨ rd s SYS_STATE_STATE = 2) : refSample s x t =
    bellSettle (bellStep (raise (sampleCounted s (s.bell.extBig + 1) x) 33 (stepCause (-x / nsSample))) (-x * 2 ^ 31)) := by
  rw [refSample_eq s x t (if_pos hx).symm, if_pos ⟨(beforeSt14_iff s).2 h, Nat.succ_pos _⟩]

/-- From ST14 on such a sample drives the servo; the second in a row also reports it (R118; log entry 120). -/
theorem refSample_reports (h1 : rd s SYS_STATE_STATE ≠ 1) (h2 : rd s SYS_STATE_STATE ≠ 2) : refSample s x t =
    bellSettle (servo (if s.bell.extBig + 1 = 2 then
      raise (wr (sampleCounted s (s.bell.extBig + 1) x) BELL_EVT_EXT_STEP_PEND 1) 33 (stepCause (x / nsSample))
      else sampleCounted s (s.bell.extBig + 1) x) x t) := by
  rw [refSample_eq s x t (if_pos hx).symm, if_neg fun h => not_or.2 ⟨h1, h2⟩ ((beforeSt14_iff s).1 h.1)]

end

end

/-! ## Commands of an origin (R118, R123, R127, R133) -/

section
variable {s : State} (hb : s.rst.busy = false)
include hb

theorem exec_bellExtOfs (ofs : Int) (h4 : rd s BELL_STATUS_STATE = 4) (h2 : rd s BELL_CTRL_SRC = 2) :
    (∀ p, s.bell.lastExt = some p → exec (.bellExtOfs ofs) s = .next (refSample (withBell s { s.bell with lastExt := some (s.clk.ft.toNat : Int) })
      (ofs * 2 ^ 13) (max 1000000 (min 2000000000 (((s.clk.ft.toNat : Int) - p) / 2 ^ 48).toNat)))) ∧
    (s.bell.lastExt = none → exec (.bellExtOfs ofs) s = .next (refSample (withBell s.used { s.bell with lastExt := some (s.clk.ft.toNat : Int) })
      (ofs * 2 ^ 13) (max 1000000 (min 2000000000 (freeOf s 31))))) := by
  have heq : exec (.bellExtOfs ofs) s = _ := congrArg Host.Outcome.next ((whenAlive_alive s _ hb).trans (if_pos ⟨h4, h2⟩))
  refine ⟨fun p hp => ?_, fun hp => ?_⟩
  all_goals rw [heq, hp]; rfl

theorem exec_bellStep (ns : Int) : (rd s BELL_STATUS_STATE = 4 → exec (.bellStep ns) s = .next (bellStep (advance s 1) (ns * 2 ^ 48))) ∧
    (rd s BELL_STATUS_STATE ≠ 4 → exec (.bellStep ns) s = .next s) :=
  ⟨fun h => congrArg Host.Outcome.next ((whenAlive_alive s _ hb).trans (if_pos h)),
    fun h => congrArg Host.Outcome.next ((whenAlive_alive s _ hb).trans (if_neg h))⟩

/-- An edge of PPS_IN reaches the capture units, and is a sample over a second where PPS_IN is the reference. -/
theorem exec_ppsInEdge {dt : Nat} {e : Stamp} (he : e = stampNow (advance s dt) true) :
    (rd s BELL_STATUS_STATE = 4 → rd s BELL_CTRL_SRC = 1 → exec (.ppsInEdge dt) s = .next (refSample
      (withBell (capEdge (advance s dt) 96 e) { (capEdge (advance s dt) 96 e).bell with secSet := false, ppsMiss := false })
      ((((e.ns * 2 ^ 16 + e.frac : Nat) : Int) -
        ((if s.bell.secSet = true then rd s BELL_PPSIN_SEC_SEC else nextSecond (e.ns * 2 ^ 16 + e.frac)) * 1000000000 * 2 ^ 16 : Nat)) * 2) 1000000000)) ∧
    (rd s BELL_STATUS_STATE ≠ 4 ∨ rd s BELL_CTRL_SRC ≠ 1 → exec (.ppsInEdge dt) s = .next (capEdge (advance s dt) 96 e)) := by
  rw [he]
  refine ⟨fun h4 h1 => congrArg Host.Outcome.next ?_, fun h => congrArg Host.Outcome.next ?_⟩
  all_goals refine (whenAlive_alive (advance s dt) _ hb).trans ?_
  · exact (if_pos ⟨h4, h1⟩).trans (by rw [rd_advance]; rfl)
  · exact if_neg fun ⟨h4, h1⟩ => h.elim (· h4) (· h1)

/-- A missing edge of PPS_IN sets PPSIN_MISS, and FREQ goes to the negated integral (R123, R133). -/
theorem ppsinMiss_spec (h4 : rd s BELL_STATUS_STATE = 4) (h1 : rd s BELL_CTRL_SRC = 1) : ∃ t, rd t BELL_EVT_PPSIN_MISS = 1 ∧
    t.bell = { s.bell with ppsMiss := true } ∧ partsBut [.regs, .bell] s t ∧ cellsBut [BELL_EVT_PPSIN_MISS.addr] s t ∧
    exec .ppsinMiss s = .next (servoHold t) :=
  ⟨wr (withBell s { s.bell with ppsMiss := true }) BELL_EVT_PPSIN_MISS 1, rd_wr_bit _ _ rfl rfl, rfl,
    partsBut_trans (partsBut_mono (partsBut_withBell s _) (by decide)) (partsBut_mono (partsBut_wr _ _ _) (by decide)),
    cellsBut_wr (withBell s { s.bell with ppsMiss := true }) _ _,
    congrArg Host.Outcome.next ((whenAlive_alive s _ hb).trans (if_pos ⟨h4, h1⟩))⟩

end

/-! ## PPS out (R132) -/

/-- PPS_OUT takes a level and the instant of its rise. -/
def ppsDriven (s : State) (b : Bool) (rise : Int) : State := { s with ppsOut := b, ppsRise := rise }

theorem partsBut_ppsDriven (s : State) (b : Bool) (rise : Int) : partsBut [.ppsOut, .ppsRise] s (ppsDriven s b rise) := by
  intro p hp
  cases p <;> simp [Part.same, ppsDriven] at hp ⊢

theorem ppsOk_iff (s : State) : ppsOk s = true ↔ rd s BELL_PPS_CTRL_EN = 1 ∧
    (rd s BELL_PPS_CTRL_HOLDOVER_Q = 0 ∧ rd s BELL_PPS_CTRL_LOCK_Q = 1 ∨
      rd s BELL_PPS_CTRL_HOLDOVER_Q = 1 ∧ rd s BELL_PPS_CTRL_HOLD = 1) := by
  have hhold := rd_bit s (f := BELL_PPS_CTRL_HOLDOVER_Q) rfl
  simp only [ppsOk, Bool.and_eq_true, Bool.or_eq_true, Bool.not_eq_true', ← Bool.not_eq_true,
    flag_iff s (f := BELL_PPS_CTRL_EN) rfl, flag_iff s (f := BELL_PPS_CTRL_HOLD) rfl,
    flag_iff s (f := BELL_PPS_CTRL_LOCK_Q) rfl, flag_iff s (f := BELL_PPS_CTRL_HOLDOVER_Q) rfl]
  omega

theorem exec_ppsOutPulse {s : State} (h : ¬(s.rst.busy = true ∧ s.rst.full = true)) : exec .ppsOutPulse s =
    .next (ppsDriven (advanceTo s (ppsInstant s)) (ppsOk s)
      (if ppsOk s = true then ((advanceTo s (ppsInstant s)).clk.ft.toNat : Int) else s.ppsRise)) := by
  have hok : ppsOk (advanceTo s (ppsInstant s)) = ppsOk s := by simp only [ppsOk, flag, rd_advanceTo]
  refine congrArg Host.Outcome.next ((if_neg (by simpa using h)).trans ?_)
  cases hs : ppsOk s with
  | false => exact (if_neg (by rw [hok, hs]; decide)).trans (by simp [ppsDriven])
  | true => exact if_pos (hok.trans hs)

theorem ppsOutPulse_spec {s : State} (h : ¬(s.rst.busy = true ∧ s.rst.full = true)) : ∃ t, exec .ppsOutPulse s = .next t ∧
    t.clk = (advanceTo s (ppsInstant s)).clk ∧
    (t.ppsOut = true ↔ rd s BELL_PPS_CTRL_EN = 1 ∧ (rd s BELL_PPS_CTRL_HOLDOVER_Q = 0 ∧ rd s BELL_PPS_CTRL_LOCK_Q = 1 ∨
      rd s BELL_PPS_CTRL_HOLDOVER_Q = 1 ∧ rd s BELL_PPS_CTRL_HOLD = 1)) ∧
    (t.ppsOut = true → t.ppsRise = t.clk.ft.toNat) ∧ partsBut [.clk, .ppsOut, .ppsRise] s t :=
  ⟨_, exec_ppsOutPulse h, rfl, ppsOk_iff s, fun hok => if_pos hok,
    partsBut_trans (partsBut_mono (partsBut_advanceTo s _) (by decide)) (partsBut_mono (partsBut_ppsDriven _ _ _) (by decide))⟩

theorem ppsOutEnd_spec {s : State} (h : s.ppsOut = true) : ∃ t, exec .ppsOutEnd s = .next t ∧ t.ppsOut = false ∧
    t.clk = (advanceTo s (s.ppsRise / 2 ^ 48 + ppsWidth s).toNat).clk ∧ partsBut [.clk, .ppsOut] s t := by
  obtain ⟨u, hu⟩ : ∃ u, u = advanceTo s (s.ppsRise / 2 ^ 48 + ppsWidth s).toNat := ⟨_, rfl⟩
  refine ⟨{ u with ppsOut := false }, congrArg Host.Outcome.next ((if_pos h).trans (by rw [hu])), rfl, hu ▸ rfl,
    partsBut_trans (partsBut_mono (hu ▸ partsBut_advanceTo s _) (by decide)) fun p hp => ?_⟩
  cases p <;> simp [Part.same] at hp ⊢

/-- Settles O26: the commands of an origin by `exec_bellExtOfs`, `exec_bellStep` and `exec_ppsInEdge`, a sample by the cases of
`refSample_eq`, its counts by `extLock_spec`, the limit of FREQ by `setFreq_spec`, PPS out by `ppsOutPulse_spec` and `ppsOutEnd_spec`. -/
theorem originFollowsItsReference : Obligations.OriginFollowsItsReference := by
  unfold Obligations.OriginFollowsItsReference
  refine ⟨fun s ofs hb h4 h2 => ?_, fun s x t => ?_, fun s x g b hg hb => extLock_spec s x hg hb, setFreq_spec,
    fun s ns hb => exec_bellStep hb ns, fun s dt hb => ⟨_, _, rfl, rfl, rfl, rfl, exec_ppsInEdge hb rfl⟩,
    fun s hb h4 h1 => ppsinMiss_spec hb h4 h1, fun s => ⟨ppsOutPulse_spec, ppsOutEnd_spec⟩⟩
  · obtain ⟨hsince, hfirst⟩ := exec_bellExtOfs hb ofs h4 h2
    exact ⟨hsince, fun h => ⟨_, by omega, by omega, hfirst h⟩⟩
  · obtain ⟨hofs, hregs⟩ := offsetShown_spec s x
    refine ⟨_, hofs, hregs, refSample_within s x t, refSample_steps s x t, fun hx h1 h2 hbig => ?_, fun hx h1 h2 hbig => ?_⟩
    all_goals rw [refSample_reports s x t hx h1 h2]
    · rw [if_pos (by rw [hbig]), hbig]
      rfl
    · rw [if_neg (by omega)]
      rfl

end Sys2Proof.Machine

/-! SUPPORT. Obligation O27: capture FIFOs of four stamps, and triggers that are armed, fire, re-arm and are disarmed. -/

namespace Sys2Proof.Machine

/-! ## Registers of a unit -/

/-- OVF of a capture unit is no event of the Bellman's. -/
theorem capStat_ne_evt (n : Nat) : (BELL_CAP_STAT_OVF n).addr ≠ BELL_EVT_CAP_OVF.addr := by
  simp only [BELL_CAP_STAT_OVF, BELL_EVT_CAP_OVF]; omega

/-- The control register of a trigger unit is no event of the Bellman's. -/
theorem trgCtrl_ne_evt (n : Nat) : (BELL_TRG_CTRL_ARMED n).addr ≠ BELL_EVT_TRG_LATE.addr := by
  simp only [BELL_TRG_CTRL_ARMED, BELL_EVT_TRG_LATE]; omega

/-- The control register of a trigger unit is not its target time. -/
theorem trgTime_ne_ctrl (n : Nat) : (BELL_TRG_T_T n).addr ≠ (BELL_TRG_CTRL_ARMED n).addr := by
  simp only [BELL_TRG_CTRL_ARMED, BELL_TRG_T_T]; omega

/-! ## Capture FIFOs (R127) -/

theorem caps_setCaps (s : State) (n m : Nat) (l : List Stamp) : caps (setCaps s n l) m = if m = n then l else caps s m :=
  tget_tput _ _ _ _ _

theorem partsBut_setCaps (s : State) (n : Nat) (l : List Stamp) : partsBut [.bell] s (setCaps s n l) :=
  partsBut_withBell s { s.bell with caps := tput (fun _ => []) s.bell.caps n l }

/-- OVF of a unit and CAP_OVF take values, and nothing else changes. -/
theorem overflowWritten_spec (s : State) (n o v : Nat) : ∃ t, wrs s [(BELL_CAP_STAT_OVF n, o), (BELL_EVT_CAP_OVF, v)] = t ∧
    rd t (BELL_CAP_STAT_OVF n) = o % 2 ∧ rd t BELL_EVT_CAP_OVF = v % 2 ∧
    regsOnly [(BELL_CAP_STAT_OVF n).addr, BELL_EVT_CAP_OVF.addr] s t :=
  ⟨_, rfl, (rd_wr_addr _ _ _ _ (capStat_ne_evt n)).trans (rd_wr_bit s o rfl rfl), rd_wr_bit _ v rfl rfl, regsOnly_wrs s _⟩

/-- An edge joins a FIFO of fewer than four stamps at the end. -/
theorem capPush_stored {s : State} {n : Nat} (e : Stamp) (h : (caps s n).length < 4) :
    (∀ m, caps (capPush s n e) m = if m = n then caps s n ++ [e] else caps s m) ∧ partsBut [.bell] s (capPush s n e) := by
  obtain ⟨l, hl⟩ : ∃ l, capPush s n e = withBell (setCaps s n (caps s n ++ [e])) { (setCaps s n (caps s n ++ [e])).bell with capSeen := l } :=
    ⟨_, if_pos h⟩
  rw [hl]
  exact ⟨fun m => caps_setCaps s n m _, partsBut_trans (partsBut_setCaps s n _) (partsBut_withBell _ _)⟩

/-- A full FIFO drops an edge: OVF and CAP_OVF are set. -/
theorem capPush_dropped {s : State} {n : Nat} (e : Stamp) (h : ¬(caps s n).length < 4) :
    rd (capPush s n e) (BELL_CAP_STAT_OVF n) = 1 ∧ rd (capPush s n e) BELL_EVT_CAP_OVF = 1 ∧
    (∀ m, caps (capPush s n e) m = caps s m) ∧ partsBut [.regs, .bell] s (capPush s n e) ∧
    cellsBut [(BELL_CAP_STAT_OVF n).addr, BELL_EVT_CAP_OVF.addr] s (capPush s n e) := by
  obtain ⟨y, hpush, hy⟩ : ∃ y, capPush s n e = wrs (withBell s y) [(BELL_CAP_STAT_OVF n, 1), (BELL_EVT_CAP_OVF, 1)] ∧
      y.caps = s.bell.caps := ⟨_, if_neg h, rfl⟩
  obtain ⟨t, ht, hovf, hevt, hparts, hcells⟩ := overflowWritten_spec (withBell s y) n 1 1
  rw [hpush, ht]
  refine ⟨hovf, hevt, fun m => ?_, partsBut_trans (partsBut_mono (partsBut_withBell s y) (by decide)) (partsBut_mono hparts (by decide)),
    hcells⟩
  rw [caps, hparts .bell (by decide), withBell, hy, caps]

theorem exec_captureEdge {s : State} (hb : s.rst.busy = false) {n : Nat} (hn : n < 32) (dt : Nat) (rise : Bool) :
    exec (.captureEdge dt n rise) s =
      .next (if capTakes (rd s (BELL_CAP_CTRL_EDGE n)) (rd s (BELL_CAP_CTRL_SRC n)) rise = true then
        capPush (advance s dt) n ⟨ftNs (advance s dt), ftFrac (advance s dt), rise⟩ else advance s dt) := by
  refine congrArg Host.Outcome.next ((whenAlive_alive (advance s dt) _ hb).trans ?_)
  simp only [hn, true_and, rd_advance]
  rfl

theorem captureEdge_taken {s u : State} {dt n : Nat} {rise : Bool} (hb : s.rst.busy = false) (hn : n < 32) (hu : u = advance s dt)
    (h : capTakes (rd s (BELL_CAP_CTRL_EDGE n)) (rd s (BELL_CAP_CTRL_SRC n)) rise = true) : ∃ t, exec (.captureEdge dt n rise) s = .next t ∧
      (if (caps s n).length < 4 then caps t n = caps s n ++ [⟨ftNs u, ftFrac u, rise⟩] ∧ partsBut [.bell] u t
       else rd t (BELL_CAP_STAT_OVF n) = 1 ∧ rd t BELL_EVT_CAP_OVF = 1 ∧ caps t n = caps s n ∧ partsBut [.regs, .bell] u t ∧
        cellsBut [(BELL_CAP_STAT_OVF n).addr, BELL_EVT_CAP_OVF.addr] u t) ∧ ∀ m, m ≠ n → caps t m = caps s m := by
  have hcaps : ∀ m, caps u m = caps s m := fun m => by rw [hu]; rfl
  refine ⟨_, (exec_captureEdge hb hn dt rise).trans (by rw [if_pos h, ← hu]), ?_⟩
  split
  next hl =>
    obtain ⟨hpush, hparts⟩ := capPush_stored (s := u) (n := n) ⟨ftNs u, ftFrac u, rise⟩ (by rwa [hcaps])
    exact ⟨⟨by rw [hpush, if_pos rfl, hcaps], hparts⟩, fun m hm => by rw [hpush, if_neg hm, hcaps]⟩
  next hl =>
    obtain ⟨hovf, hevt, hkept, hparts, hcells⟩ := capPush_dropped (s := u) (n := n) ⟨ftNs u, ftFrac u, rise⟩ (by rwa [hcaps])
    exact ⟨⟨hovf, hevt, (hkept n).trans (hcaps n), hparts, hcells⟩, fun m _ => (hkept m).trans (hcaps m)⟩

/-- A POP in a cycle without a dropped edge takes the oldest stamp. -/
theorem capPop_plain {s : State} {n : Nat} (h : ∀ x, tget (fun _ => none) s.bell.capMiss n = some x → x.1 ≠ s.clk.ft.toNat) :
    capPop s n = setCaps s n ((caps s n).drop 1) := by
  unfold capPop
  cases hm : tget (fun _ => none) s.bell.capMiss n with
  | none => rfl
  | some x => exact if_neg (h x hm)

/-- A POP in the cycle in which a full FIFO dropped an edge takes the oldest stamp first and keeps the edge. -/
theorem capPop_missed {s : State} {n o v : Nat} {e : Stamp} (h : tget (fun _ => none) s.bell.capMiss n = some (s.clk.ft.toNat, e, o, v)) :
    (∀ m, caps (capPop s n) m = if m = n then (caps s n).drop 1 ++ [e] else caps s m) ∧
    rd (capPop s n) (BELL_CAP_STAT_OVF n) = o % 2 ∧ rd (capPop s n) BELL_EVT_CAP_OVF = v % 2 ∧
    tget (fun _ => none) (capPop s n).bell.capMiss n = none ∧ partsBut [.regs, .bell] s (capPop s n) ∧
    cellsBut [(BELL_CAP_STAT_OVF n).addr, BELL_EVT_CAP_OVF.addr] s (capPop s n) := by
  obtain ⟨u, hu⟩ : ∃ u, u = setCaps (setCaps s n ((caps s n).drop 1)) n (caps (setCaps s n ((caps s n).drop 1)) n ++ [e]) := ⟨_, rfl⟩
  obtain ⟨w, hw⟩ : ∃ w, w = withBell u { u.bell with capMiss := tput (fun _ => none) s.bell.capMiss n none } := ⟨_, rfl⟩
  obtain ⟨t, ht, hovf, hevt, hparts, hcells⟩ := overflowWritten_spec w n o v
  have hpop : capPop s n = t := by
    rw [← ht, hw, hu, capPop, h]
    exact if_pos rfl
  have hbell : t.bell = w.bell := hparts .bell (by decide)
  have hw' : partsBut [.bell] s w := by
    rw [hw, hu]
    exact partsBut_trans (partsBut_setCaps s n _) (partsBut_trans (partsBut_setCaps _ n _) (partsBut_withBell _ _))
  rw [hpop]
  refine ⟨fun m => ?_, hovf, hevt, ?_, partsBut_trans (partsBut_mono hw' (by decide)) (partsBut_mono hparts (by decide)),
    fun a ha => (hcells a ha).trans (cellAt_congr a (hw' .regs (by decide)))⟩
  · have hcaps : caps t m = caps u m := by rw [caps, hbell, hw]; rfl
    rw [hcaps, hu, caps_setCaps, caps_setCaps, caps_setCaps, if_pos rfl]
    split <;> rfl
  · rw [hbell, hw]
    exact tget_tput_self (fun _ => none) s.bell.capMiss n none

theorem exec_capturePop {s : State} (hb : s.rst.busy = false) {n : Nat} (hn : n < 32) : exec (.capturePop n) s = .next (capPop s n) :=
  congrArg Host.Outcome.next ((whenAlive_alive s _ hb).trans (if_pos hn))

theorem capturePop_spec {s : State} (hb : s.rst.busy = false) {n : Nat} (hn : n < 32) :
    ∃ t, exec (.capturePop n) s = .next t ∧ (∀ m, m ≠ n → caps t m = caps s m) ∧
    ((∀ x, tget (fun _ => none) s.bell.capMiss n = some x → x.1 ≠ s.clk.ft.toNat) → caps t n = (caps s n).drop 1 ∧ partsBut [.bell] s t) ∧
    (∀ e o v, tget (fun _ => none) s.bell.capMiss n = some (s.clk.ft.toNat, e, o, v) → caps t n = (caps s n).drop 1 ++ [e] ∧
      rd t (BELL_CAP_STAT_OVF n) = o % 2 ∧ rd t BELL_EVT_CAP_OVF = v % 2 ∧ tget (fun _ => none) t.bell.capMiss n = none ∧
      partsBut [.regs, .bell] s t ∧ cellsBut [(BELL_CAP_STAT_OVF n).addr, BELL_EVT_CAP_OVF.addr] s t) := by
  refine ⟨_, exec_capturePop hb hn, fun m hm => ?_, fun h => ?_, fun e o v h => ?_⟩
  · by_cases h : ∀ x, tget (fun _ => none) s.bell.capMiss n = some x → x.1 ≠ s.clk.ft.toNat
    · rw [capPop_plain h, caps_setCaps, if_neg hm]
    · push Not at h
      obtain ⟨⟨ft, e, o, v⟩, hmiss, hft⟩ := h
      obtain ⟨hcaps, -⟩ := capPop_missed (hmiss.trans (by rw [← hft]))
      rw [hcaps, if_neg hm]
  · rw [capPop_plain h]
    exact ⟨by rw [caps_setCaps, if_pos rfl], partsBut_setCaps s n _⟩
  · obtain ⟨hcaps, hovf, hevt, hmiss, hparts, hcells⟩ := capPop_missed h
    exact ⟨by rw [hcaps, if_pos rfl], hovf, hevt, hmiss, hparts, hcells⟩

/-! ## Arming and disarming (R128, R129, R131) -/

theorem rd_setLate (s : State) (n : Nat) (b : Bool) (f : Fld) : rd (setLate s n b) f = rd s f := rfl

theorem cellAt_setLate (s : State) (n : Nat) (b : Bool) (a : Nat) : cellAt (setLate s n b) a = cellAt s a := rfl

theorem setLate_spec (s : State) (n : Nat) (b : Bool) : (setLate s n b).bell.late.contains n = b ∧
    (setLate s n b).bell.pulses = s.bell.pulses ∧ partsBut [.bell] s (setLate s n b) := by
  refine ⟨?_, rfl, partsBut_withBell s { s.bell with late := if b = true then n :: s.bell.late.filter (· != n) else s.bell.late.filter (· != n) }⟩
  cases b <;> simp [setLate]

/-- A trigger unit takes a target time and is armed, and nothing else changes. -/
theorem trgArmed_spec (s : State) (n x : Nat) : ∃ t, wrs s [(BELL_TRG_T_T n, x), (BELL_TRG_CTRL_ARMED n, 1)] = t ∧
    rd t (BELL_TRG_T_T n) = x % 2 ^ 40 ∧ rd t (BELL_TRG_CTRL_ARMED n) = 1 ∧
    regsOnly [(BELL_TRG_T_T n).addr, (BELL_TRG_CTRL_ARMED n).addr] s t :=
  ⟨_, rfl, (rd_wr_addr _ _ _ _ (trgTime_ne_ctrl n)).trans (rd_wr_same s x rfl), rd_wr_bit _ 1 rfl rfl, regsOnly_wrs s _⟩

theorem trgDue_eq (s : State) (n : Nat) : trgDue s n =
    if rd s (BELL_TRG_CTRL_ARMED n) = 1 ∧ due40 (rd s (BELL_TRG_T_T n)) (ftNs s) = true then trgFire s n else s := by
  simp only [trgDue, Bool.and_eq_true, flag_iff s (f := BELL_TRG_CTRL_ARMED n) rfl]

section
variable {s : State} {o n : Nat} (hb : s.rst.busy = false) (hn : n < 32)
include hb

/-- What comes from anyone but the owner is ignored (R131). -/
theorem exec_trigger_foreign (x : Nat) (h : rd s (BELL_TRG_CTRL_OWNER n) ≠ o) :
    exec (.triggerArm o n x) s = .next s ∧ exec (.triggerDisarm o n) s = .next s :=
  ⟨congrArg Host.Outcome.next ((whenAlive_alive s _ hb).trans (if_neg fun h' => h h'.2)),
    congrArg Host.Outcome.next ((whenAlive_alive s _ hb).trans (if_neg fun h' => h h'.2))⟩

include hn

theorem exec_triggerArm (x : Nat) (h : rd s (BELL_TRG_CTRL_OWNER n) = o) : exec (.triggerArm o n x) s = .next (trgArm s n x) :=
  congrArg Host.Outcome.next ((whenAlive_alive s _ hb).trans (if_pos ⟨hn, h⟩))

theorem triggerArm_spec (x : Nat) (h : rd s (BELL_TRG_CTRL_OWNER n) = o) : ∃ u t,
    u = (if rd s (BELL_TRG_CTRL_ARMED n) = 1 ∧ due40 (rd s (BELL_TRG_T_T n)) (ftNs s) = true then trgFire s n else s) ∧
    rd t (BELL_TRG_T_T n) = x % 2 ^ 40 ∧ rd t (BELL_TRG_CTRL_ARMED n) = 1 ∧
    t.bell.late.contains n = past40 x (ftNs (advance u 1)) ∧ partsBut [.regs, .bell] u t ∧
    cellsBut [(BELL_TRG_T_T n).addr, (BELL_TRG_CTRL_ARMED n).addr] u t ∧
    exec (.triggerArm o n x) s = .next (if due40 x (ftNs (advance u 1)) = true then trgFire t n else t) := by
  obtain ⟨t, ht, htime, harmed, hparts, hcells⟩ := trgArmed_spec (trgDue s n) n x
  obtain ⟨hlate, -, hbell⟩ := setLate_spec t n (past40 x (ftNs (advance (trgDue s n) 1)))
  refine ⟨trgDue s n, setLate t n (past40 x (ftNs (advance (trgDue s n) 1))), trgDue_eq s n, by rw [rd_setLate, htime],
    by rw [rd_setLate, harmed], hlate, partsBut_trans (partsBut_mono hparts (by decide)) (partsBut_mono hbell (by decide)),
    fun a ha => by rw [cellAt_setLate, hcells a ha], ?_⟩
  rw [exec_triggerArm hb hn x h, trgArm, ht]

/-- Disarming by the owner clears ARMED, but a trigger due in the same cycle fires (R129). -/
theorem exec_triggerDisarm (h : rd s (BELL_TRG_CTRL_OWNER n) = o) : exec (.triggerDisarm o n) s =
    .next (if rd s (BELL_TRG_CTRL_ARMED n) = 1 ∧ due40 (rd s (BELL_TRG_T_T n)) (ftNs s) = true then trgFire s n
      else wr s (BELL_TRG_CTRL_ARMED n) 0) := by
  refine congrArg Host.Outcome.next ((whenAlive_alive s _ hb).trans ((if_pos ⟨hn, h⟩).trans ?_))
  simp only [Bool.and_eq_true, flag_iff s (f := BELL_TRG_CTRL_ARMED n) rfl]

theorem exec_triggerFire (h : rd s (BELL_TRG_CTRL_ARMED n) = 1) :
    exec (.triggerFire n) s = .next (trgFire (advanceTo s (trgTime s n)) n) :=
  congrArg Host.Outcome.next ((whenAlive_alive s _ hb).trans (if_pos ⟨hn, flag_true h⟩))

end

/-! ## A fire and the end of its pulse (R129) -/

/-- The registers of a trigger that fires. -/
def trgFired (s : State) (n : Nat) : State :=
  let u := wrs s [(BELL_TRG_CTRL_ARMED n, 0), (BELL_TRG_CTRL_FIRED n, 1), (BELL_TRG_CTRL_LATE n, natOf (s.bell.late.contains n))]
  if n ∈ s.bell.late then wr u BELL_EVT_TRG_LATE 1 else u

theorem trgFired_spec (s : State) (n : Nat) : rd (trgFired s n) (BELL_TRG_CTRL_ARMED n) = 0 ∧ rd (trgFired s n) (BELL_TRG_CTRL_FIRED n) = 1 ∧
    rd (trgFired s n) (BELL_TRG_CTRL_LATE n) = (if n ∈ s.bell.late then 1 else 0) ∧
    (n ∈ s.bell.late → rd (trgFired s n) BELL_EVT_TRG_LATE = 1) ∧
    regsOnly [(BELL_TRG_CTRL_ARMED n).addr, BELL_EVT_TRG_LATE.addr] s (trgFired s n) := by
  obtain ⟨u, hu⟩ : ∃ u, u = wr (wr (wr s (BELL_TRG_CTRL_ARMED n) 0) (BELL_TRG_CTRL_FIRED n) 1) (BELL_TRG_CTRL_LATE n)
    (natOf (s.bell.late.contains n)) := ⟨_, rfl⟩
  have harmed : rd u (BELL_TRG_CTRL_ARMED n) = 0 := by
    rw [hu, rd_wr_apart _ _ rfl rfl, rd_wr_apart _ _ rfl rfl, rd_wr_bit _ _ rfl rfl]
  have hfired : rd u (BELL_TRG_CTRL_FIRED n) = 1 := by
    rw [hu, rd_wr_apart _ _ rfl rfl, rd_wr_bit _ _ rfl rfl]
  have hlate : rd u (BELL_TRG_CTRL_LATE n) = if n ∈ s.bell.late then 1 else 0 := by
    rw [hu]
    refine (rd_wrB _ (s.bell.late.contains n) rfl rfl).trans ?_
    simp [natOf]
  have hregs : regsOnly [(BELL_TRG_CTRL_ARMED n).addr] s u := by
    rw [hu]
    exact regsOnly_trans (regsOnly_wr _ (BELL_TRG_CTRL_ARMED n) _)
      (regsOnly_trans (regsOnly_wr _ (BELL_TRG_CTRL_FIRED n) _) (regsOnly_wr _ (BELL_TRG_CTRL_LATE n) _))
  have heq : trgFired s n = if n ∈ s.bell.late then wr u BELL_EVT_TRG_LATE 1 else u := by
    rw [hu]
    rfl
  rw [heq]
  by_cases hl : n ∈ s.bell.late
  · rw [if_pos hl] at hlate ⊢
    rw [if_pos hl]
    have hctrl := fun f : Fld => rd_wr_addr u BELL_EVT_TRG_LATE f 1
    exact ⟨(hctrl _ (trgCtrl_ne_evt n)).trans harmed, (hctrl (BELL_TRG_CTRL_FIRED n) (trgCtrl_ne_evt n)).trans hfired,
      (hctrl (BELL_TRG_CTRL_LATE n) (trgCtrl_ne_evt n)).trans hlate, fun _ => rd_wr_bit u 1 rfl rfl,
      regsOnly_trans (regsOnly_mono hregs (by simp)) (regsOnly_mono (regsOnly_wr u _ 1) (by simp))⟩
  · rw [if_neg hl] at hlate ⊢
    rw [if_neg hl]
    exact ⟨harmed, hfired, hlate, fun h => absurd h hl, regsOnly_mono hregs (by simp)⟩

/-- What a fire leaves in the Bellman and the Drover: the end of its pulse is noted, and the trigger holds no fire any more. -/
def fireNoted (v : State) (n tgt : Nat) (a : LineAct) : State :=
  { v with bell := { v.bell with pulses := pulseAfter v n tgt a }
           drv := { v.drv with fires := v.drv.fires.filter (·.trg != n) } }

theorem partsBut_fireNoted (v : State) (n tgt : Nat) (a : LineAct) : partsBut [.bell, .drv] v (fireNoted v n tgt a) := by
  intro p hp
  cases p <;> simp [Part.same, fireNoted] at hp ⊢

theorem actOfCode_pulse (a : Nat) : actOfCode a = .pulse ↔ a = 4 := by
  unfold actOfCode
  split <;> simp_all

theorem pulses_fireNoted (v : State) (n tgt a : Nat) : tget (fun _ => none) (fireNoted v n tgt (actOfCode a)).bell.pulses n =
    if a = 4 then some (tgt, v.clk.cyc + max 1 (rd v (BELL_TRG_CTRL_WIDTH n))) else tget (fun _ => none) v.bell.pulses n := by
  change tget (fun _ => none) (pulseAfter v n tgt (actOfCode a)) n = _
  rw [pulseAfter]
  simp only [actOfCode_pulse]
  split
  · exact tget_tput_self _ _ _ _
  · rfl

theorem trgFire_eq {s w : State} {n a tgt : Nat} (h : rd s (BELL_TRG_CTRL_ARMED n) = 1) (ha : a = rd s (BELL_TRG_CTRL_ACTION n))
    (ht : tgt = rd s (BELL_TRG_CTRL_TARGET n)) (hw : w = fireNoted (targetAct (trgFired s n) (1 + n) tgt (actOfCode a)) n tgt (actOfCode a)) :
    trgFire s n = if rd s (BELL_TRG_PER_PERIOD n) = 0 then setLate w n false
      else setLate (wrs w [(BELL_TRG_T_T n, (rd s (BELL_TRG_T_T n) + rd s (BELL_TRG_PER_PERIOD n)) % 2 ^ 40), (BELL_TRG_CTRL_ARMED n, 1)]) n
        (past40 ((rd s (BELL_TRG_T_T n) + rd s (BELL_TRG_PER_PERIOD n)) % 2 ^ 40) (ftNs (advance s 1))) := by
  rw [hw, ha, ht]
  simp only [trgFire, flag_true h, Bool.not_true, Bool.false_eq_true, if_false, trgFired, fireNoted, List.contains_iff_mem]

theorem trgFire_spec {s v w : State} {n a tgt : Nat} (h : rd s (BELL_TRG_CTRL_ARMED n) = 1) (ha : a = rd s (BELL_TRG_CTRL_ACTION n))
    (ht : tgt = rd s (BELL_TRG_CTRL_TARGET n)) (hv : v = targetAct (trgFired s n) (1 + n) tgt (actOfCode a)) (hw : trgFire s n = w) :
    tget (fun _ => none) w.bell.pulses n =
      (if a = 4 then some (tgt, v.clk.cyc + max 1 (rd v (BELL_TRG_CTRL_WIDTH n))) else tget (fun _ => none) v.bell.pulses n) ∧
    (rd s (BELL_TRG_PER_PERIOD n) = 0 → n ∉ w.bell.late ∧ partsBut [.bell, .drv] v w) ∧
    (rd s (BELL_TRG_PER_PERIOD n) ≠ 0 → rd w (BELL_TRG_CTRL_ARMED n) = 1 ∧
      rd w (BELL_TRG_T_T n) = (rd s (BELL_TRG_T_T n) + rd s (BELL_TRG_PER_PERIOD n)) % 2 ^ 40 ∧ partsBut [.regs, .bell, .drv] v w ∧
      cellsBut [(BELL_TRG_T_T n).addr, (BELL_TRG_CTRL_ARMED n).addr] v w) := by
  obtain ⟨x, hx⟩ : ∃ x, x = fireNoted v n tgt (actOfCode a) := ⟨_, rfl⟩
  have hfire := trgFire_eq h ha ht (hx.trans (by rw [hv]))
  have hpulses := pulses_fireNoted v n tgt a
  have hnoted := partsBut_fireNoted v n tgt (actOfCode a)
  rw [← hx] at hpulses hnoted
  rw [← hw, hfire]
  by_cases hp : rd s (BELL_TRG_PER_PERIOD n) = 0
  · rw [if_pos hp]
    obtain ⟨hlate, hkept, hbell⟩ := setLate_spec x n false
    refine ⟨by rw [hkept, hpulses], fun _ => ⟨fun hmem => ?_, partsBut_trans hnoted (partsBut_mono hbell (by decide))⟩, fun h0 => absurd hp h0⟩
    rw [List.contains_iff_mem.2 hmem] at hlate
    cases hlate
  · rw [if_neg hp]
    obtain ⟨t, hwrs, htime, harmed, hparts, hcells⟩ := trgArmed_spec x n ((rd s (BELL_TRG_T_T n) + rd s (BELL_TRG_PER_PERIOD n)) % 2 ^ 40)
    rw [hwrs]
    obtain ⟨-, hkept, hbell⟩ := setLate_spec t n (past40 ((rd s (BELL_TRG_T_T n) + rd s (BELL_TRG_PER_PERIOD n)) % 2 ^ 40) (ftNs (advance s 1)))
    refine ⟨by rw [hkept, hparts .bell (by decide), hpulses], fun h0 => absurd h0 hp,
      fun _ => ⟨by rw [rd_setLate, harmed], by rw [rd_setLate, htime, Nat.mod_mod], ?_, fun a ha => ?_⟩⟩
    · exact partsBut_trans (partsBut_mono hnoted (by decide))
        (partsBut_trans (partsBut_mono hparts (by decide)) (partsBut_mono hbell (by decide)))
    · rw [cellAt_setLate, hcells a ha, cellAt_congr a (hnoted .regs (by decide))]

theorem pulseEnd_spec {s : State} {n tgt cyc : Nat} (hb : s.rst.busy = false) (h : tget (fun _ => none) s.bell.pulses n = some (tgt, cyc)) :
    ∃ u, partsBut [.bell, .clk] s u ∧ u.clk = (advance s (cyc - s.clk.cyc)).clk ∧ tget (fun _ => none) u.bell.pulses n = none ∧
      exec (.pulseEnd n) s = .next (if tgt < 96 then lineAct u tgt (1 + n) .clear else u) := by
  refine ⟨withBell (advance s (cyc - s.clk.cyc)) { s.bell with pulses := tput (fun _ => none) s.bell.pulses n none },
    partsBut_trans (partsBut_mono (partsBut_advance s _) (by decide)) (partsBut_mono (partsBut_withBell _ _) (by decide)), rfl,
    tget_tput_self (fun _ => none) s.bell.pulses n none, congrArg Host.Outcome.next ((whenAlive_alive s _ hb).trans ?_)⟩
  rw [h]
  rfl

/-- Settles O27: an edge by `captureEdge_taken`, a POP by `capturePop_spec`, arming by `triggerArm_spec`, disarming by
`exec_triggerDisarm`, a fire by `trgFired_spec` and `trgFire_spec`, the end of its pulse by `pulseEnd_spec`. -/
theorem captureAndTriggerUnits : Obligations.CaptureAndTriggerUnits := by
  unfold Obligations.CaptureAndTriggerUnits
  refine ⟨fun s u dt n rise hb hn hu => ⟨captureEdge_taken hb hn hu, fun h => ?_⟩, fun s n hb hn => capturePop_spec hb hn,
    fun s o n x hb hn => ⟨exec_trigger_foreign hb x, triggerArm_spec hb hn x, fun ho hd => ?_, fun ho ha hd => ?_⟩,
    fun s n hb hn => exec_triggerFire hb hn, fun s n a tgt h ha ht => ?_, fun s n tgt cyc hb h => pulseEnd_spec hb h⟩
  · rw [exec_captureEdge hb hn, if_neg (by rw [h]; decide), hu]
  · refine ⟨_, exec_triggerDisarm hb hn ho, ?_⟩
    rw [if_neg fun ⟨ha, hdue⟩ => hd.elim (fun h0 => absurd (ha.symm.trans h0) (by decide)) fun h0 => absurd (hdue.symm.trans h0) (by decide)]
    exact ⟨rd_wr_bit s 0 rfl rfl, regsOnly_wr s _ 0⟩
  · rw [exec_triggerDisarm hb hn ho, if_pos ⟨ha, hd⟩]
  · obtain ⟨harmed, hfired, hlate, hevt, hregs⟩ := trgFired_spec s n
    exact ⟨_, _, harmed, hfired, hlate, hevt, hregs, rfl, _, rfl, trgFire_spec h ha ht rfl rfl⟩

end Sys2Proof.Machine

/-! SUPPORT. Obligation O7: what the hub stops as it enters HALTED, SAFE, RESTING or DUMP. -/

namespace Sys2Proof.Machine

/-! ## Branches (R283, R290) -/

/-- All a branch can do as it takes an enable: nothing, note it, settle in OFF, enter OFF, begin a soft turn-off, or keep it pending. -/
theorem brnSetE_cases (s : State) (n : Nat) (e : Bool) : ∃ t, t = wrB s (BRN_STAT_E n) e ∧
    (brnSetE s n e = s ∨ brnSetE s n e = t ∨ brnSetE s n e = brnOffSettle t n ∨ brnSetE s n e = brnToOff t n ∨
      brnSetE s n e = wr (wr t (BRN_STAT_PG n) 0) (BRN_STAT_STATE n) bSoftOff ∨ brnSetE s n e = wrB t (BRN_STAT_PENDING_ON n) e) := by
  refine ⟨_, rfl, ?_⟩
  unfold brnSetE
  dsimp only
  split_ifs <;> simp

/-- A branch that takes an enable changes its own status, junction estimate and timing alone. -/
theorem brnSetE_frame (s : State) (n : Nat) (e : Bool) :
    brnFrame n [(BRN_STAT_STATE n).addr, (BRN_TH_TJ_T_J n).addr] s (brnSetE s n e) := by
  obtain ⟨t, ht, h⟩ := brnSetE_cases s n e
  have hset : brnFrame n [(BRN_STAT_STATE n).addr, (BRN_TH_TJ_T_J n).addr] s t := by
    rw [ht]
    exact brnFrame_wrStat (brnFrame_refl _ _ _) rfl
  have hsettle : ∀ u, brnFrame n [(BRN_STAT_STATE n).addr, (BRN_TH_TJ_T_J n).addr] s u →
      brnFrame n [(BRN_STAT_STATE n).addr, (BRN_TH_TJ_T_J n).addr] s (brnOffSettle u n) :=
    fun u hu => brnFrame_trans hu (brnOffSettle_frame u n).2.2
  obtain h | h | h | h | h | h := h <;> rw [h]
  · exact brnFrame_refl _ _ _
  · exact hset
  · exact hsettle t hset
  · obtain ⟨-, -, -, -, hoff⟩ := offBrn_spec t n
    exact brnToOff_eq t n ▸ hsettle _ (brnFrame_trans hset (brnFrame_mono hoff (by simp)))
  · exact brnFrame_wrStat (brnFrame_wrStat hset rfl) rfl
  · exact brnFrame_wrStat hset rfl

theorem brnFollow_frame (s : State) (n : Nat) :
    brnFrame n [(BRN_STAT_STATE n).addr, (BRN_TH_TJ_T_J n).addr] s (brnFollow s n) := by
  unfold brnFollow
  split
  · exact brnFrame_refl _ _ _
  · exact brnSetE_frame s n _

theorem partsBut_brnRelease (s : State) : partsBut [.regs, .brns] s (brnRelease s) :=
  partsBut_trans (partsBut_each _ _ _ s fun u k => partsBut_mono (partsBut_setBrn u k _) (by decide))
    (partsBut_each _ _ _ _ fun u k => (brnFollow_frame u k).1)

/-- As the branches' enables fall, every register below the block of the branches keeps its cell. -/
theorem cellAt_brnRelease_below (s : State) {a : Nat} (ha : a < 0x400E0000) : cellAt (brnRelease s) a = cellAt s a := by
  have hfollow : ∀ u k, cellAt (brnFollow u k) a = cellAt u a := fun u k => (brnFollow_frame u k).2.1 a (by
    simp only [BRN_STAT_STATE, BRN_TH_TJ_T_J, List.mem_cons, List.not_mem_nil, or_false, not_or]
    omega)
  rw [brnRelease, brnFollowAll, each_same _ (cellAt · a) _ _ fun u k _ => hfollow u k,
    each_same _ (cellAt · a) _ _ fun u k _ => cellAt_setBrn u k _ a]

/-! ## Channels (R236) -/

/-- A channel that is not in RUN stays as it is; one in RUN goes to STOPPING, and of the registers only its state changes. -/
theorem chnStop_regs (s : State) (n : Nat) :
    (chnStop s n).regs = if rd s (CHN_STAT_STATE n) = cRun then (wr s (CHN_STAT_STATE n) cStopping).regs else s.regs := by
  unfold chnStop
  by_cases h : rd s (CHN_STAT_STATE n) = cRun
  · rw [if_pos h, if_pos (show chnState s n = cRun from h)]
    exact each_same _ State.regs _ _ fun _ _ _ => rfl
  · rw [if_neg h, if_neg (show ¬chnState s n = cRun from h)]

theorem partsBut_setStg (s : State) (w v : Nat) : partsBut [.stg, .stgTick, .stgOld] s (s.setStg w v) := by
  intro p hp
  cases p <;> simp [Part.same] at hp ⊢

theorem partsBut_chnStop (s : State) (n : Nat) : partsBut [.regs, .chns, .stg, .stgTick, .stgOld] s (chnStop s n) := by
  unfold chnStop
  split
  · exact partsBut_trans (partsBut_mono (partsBut_wr s _ _) (by decide))
      (partsBut_trans (partsBut_mono (partsBut_setChn _ n _) (by decide))
        (partsBut_each _ _ _ _ fun u k => partsBut_mono (partsBut_setStg u _ _) (by decide)))
  · exact partsBut_refl _ _

theorem cellAt_chnStop_ne (s : State) {n a : Nat} (h : a ≠ (CHN_STAT_STATE n).addr) : cellAt (chnStop s n) a = cellAt s a := by
  rw [cellAt, chnStop_regs]
  split
  · exact cellAt_wr_ne s _ _ a h
  · rfl

theorem rd_chnStop (s : State) (n : Nat) : rd (chnStop s n) (CHN_STAT_STATE n) =
    if rd s (CHN_STAT_STATE n) = cRun then cStopping else rd s (CHN_STAT_STATE n) := by
  rw [rd, cellAt, chnStop_regs]
  split
  · exact rd_wr_same s (f := CHN_STAT_STATE n) cStopping rfl
  · rfl

/-- Of all channels those in RUN go to STOPPING, and no other changes its state (R236). -/
theorem rd_chnStopAll (s : State) {n : Nat} (hn : n < 48) : rd (chnStopAll s) (CHN_STAT_STATE n) =
    if rd s (CHN_STAT_STATE n) = cRun then cStopping else rd s (CHN_STAT_STATE n) :=
  each_get s (rd · (CHN_STAT_STATE n)) (fun x => if x = cRun then cStopping else x) chnStop _ n List.nodup_range (List.mem_range.2 hn)
    (fun u k hk => by
      have hne : (CHN_STAT_STATE n).addr ≠ (CHN_STAT_STATE k).addr := by simp only [CHN_STAT_STATE]; omega
      rw [rd, cellAt_chnStop_ne u hne, rd])
    fun u => rd_chnStop u n

/-- The registers outside the block of the channels keep their cells as the channels stop. -/
theorem cellAt_chnStopAll_apart (s : State) {a : Nat} (ha : a < 0x400A0000 ∨ 0x400B0000 ≤ a) : cellAt (chnStopAll s) a = cellAt s a :=
  each_same s (cellAt · a) chnStop _ fun u k hk => cellAt_chnStop_ne u (by
    have := List.mem_range.1 hk
    simp only [CHN_STAT_STATE]
    omega)

/-! ## CAN controllers (R244) -/

theorem partsBut_canStop (s : State) (c : Nat) : partsBut [.regs] s (canStop s c) := by
  unfold canStop
  split
  · exact partsBut_wr _ _ _
  · exact partsBut_refl _ _

theorem cellAt_canStop_ne (s : State) {c a : Nat} (h : a ≠ (CAN_STAT_STATE c).addr) : cellAt (canStop s c) a = cellAt s a := by
  unfold canStop
  split
  · exact cellAt_wr_ne s _ _ a h
  · rfl

theorem rd_canStop (s : State) (c : Nat) : rd (canStop s c) (CAN_STAT_STATE c) =
    if nDetect ≤ rd s (CAN_STAT_STATE c) ∧ rd s (CAN_STAT_STATE c) ≤ nRecovering then nStopping else rd s (CAN_STAT_STATE c) := by
  unfold canStop canState
  split
  · exact rd_wr_same s (f := CAN_STAT_STATE c) nStopping rfl
  · rfl

/-- Of all controllers the active ones go to STOPPING, and no other changes its state (R244). -/
theorem rd_canStopAll (s : State) {c : Nat} (hc : c < 16) : rd (canStopAll s) (CAN_STAT_STATE c) =
    if nDetect ≤ rd s (CAN_STAT_STATE c) ∧ rd s (CAN_STAT_STATE c) ≤ nRecovering then nStopping else rd s (CAN_STAT_STATE c) :=
  each_get s (rd · (CAN_STAT_STATE c)) (fun x => if nDetect ≤ x ∧ x ≤ nRecovering then nStopping else x) canStop _ c
    List.nodup_range (List.mem_range.2 hc)
    (fun u k hk => by
      have hne : (CAN_STAT_STATE c).addr ≠ (CAN_STAT_STATE k).addr := by simp only [CAN_STAT_STATE]; omega
      rw [rd, cellAt_canStop_ne u hne, rd])
    fun u => rd_canStop u c

/-- The registers outside the block of the CAN controllers keep their cells as the controllers stop. -/
theorem cellAt_canStopAll_apart (s : State) {a : Nat} (ha : a < 0x400B0000 ∨ 0x400C0000 ≤ a) : cellAt (canStopAll s) a = cellAt s a :=
  each_same s (cellAt · a) canStop _ fun u k hk => cellAt_canStop_ne u (by
    have := List.mem_range.1 hk
    simp only [CAN_STAT_STATE]
    omega)

/-! ## Lines (R272) -/

/-- What a line's safe value depends on: what the line holds beside its registers, and the registers. -/
def lineView (n : Nat) (s : State) : Line × List (Nat × Cell) := (s.line n, s.regs)

theorem lineView_lineSafe_ne (s : State) {m n : Nat} (h : m ≠ n) : lineView n (lineSafe s m) = lineView n s :=
  Prod.ext ((State.line_setLine s m n _).trans (if_neg (Ne.symm h))) rfl

/-- Every line takes its safe value, or none where a readback fault has released it, with an empty queue and no pulse (R272 to R274). -/
theorem line_dioSafe (s : State) {n : Nat} (hn : n < 96) :
    ((dioSafe s).line n).drive = (if rd s (DIO_STAT_RELEASED n) = 1 then none else dioSafeLevel s n) ∧
    ((dioSafe s).line n).queue = [] ∧ ((dioSafe s).line n).pulseEnd = none := by
  obtain ⟨u, hu, hv⟩ := each_view (lineView n) lineSafe _ n s List.nodup_range (List.mem_range.2 hn) fun u k hk => lineView_lineSafe_ne u hk
  have hregs : u.regs = s.regs := (Prod.mk.inj hu).2
  have hline : (dioSafe s).line n = (lineSafe u n).line n := (Prod.mk.inj hv).1
  have hlevel : dioSafeLevel u n = dioSafeLevel s n := dioSafeLevel_congr n (cellAt_congr _ hregs)
  rw [hline, lineSafe, State.line_setLine_self, hlevel]
  refine ⟨?_, rfl, rfl⟩
  simp only [flag_iff u (f := DIO_STAT_RELEASED n) rfl, rd_congr (DIO_STAT_RELEASED n) hregs]

theorem partsBut_dioSafe (s : State) : partsBut [.lines] s (dioSafe s) :=
  partsBut_each _ _ _ s fun u k => partsBut_setLine u k _

/-! ## The Drover (R181) -/

/-- A register before or behind the record table is none of a record. -/
theorem isRecord_false {a : Nat} (h : a < 0x40064000 ∨ 0x40070000 ≤ a) : isRecord a = false := by
  simp only [isRecord, Bool.and_eq_false_iff, decide_eq_false_iff_not]
  omega

/-- The trigger units that the Drover owns are disarmed. -/
def drvDisarmed (s : State) : State :=
  each (those 32 fun k => rd s (BELL_TRG_CTRL_OWNER k) = ownDrover) (fun u k => wr u (BELL_TRG_CTRL_ARMED k) 0) s

theorem partsBut_drvLeave (s : State) : partsBut [.regs, .drv] s (drvLeave s) := by
  have h : partsBut [.regs] s (drvDisarmed s) := partsBut_each _ _ _ s fun u k => partsBut_wr u _ _
  refine partsBut_trans (partsBut_mono h (by decide)) ?_
  intro p hp
  cases p <;> simp [Part.same, drvLeave, drvDisarmed] at hp ⊢

/-- Every record's register reads its reset value after the Drover has left, every other one what the disarming has left. -/
theorem cellAt_drvLeave_eq (s : State) (a : Nat) :
    cellAt (drvLeave s) a = if isRecord a = true then cellReset a else cellAt (drvDisarmed s) a := by
  refine (tget_filter cellReset (drvDisarmed s).regs (fun k => !isRecord k) a).trans ?_
  cases isRecord a <;> rfl

/-- The registers behind the Drover's own keep their cells as the Drover leaves. -/
theorem cellAt_drvLeave_apart (s : State) {a : Nat} (ha : 0x40070000 ≤ a) : cellAt (drvLeave s) a = cellAt s a := by
  rw [cellAt_drvLeave_eq, isRecord_false (.inr ha), if_neg Bool.false_ne_true]
  refine each_same s (cellAt · a) _ _ fun u k hk => cellAt_wr_ne u _ _ a ?_
  have := List.mem_range.1 (List.mem_filter.1 hk).1
  simp only [BELL_TRG_CTRL_ARMED]
  omega

/-- A trigger unit of the Drover is not armed any more. -/
theorem rd_drvLeave_armed (s : State) {k : Nat} (hk : k < 32) (ho : rd s (BELL_TRG_CTRL_OWNER k) = ownDrover) :
    rd (drvLeave s) (BELL_TRG_CTRL_ARMED k) = 0 := by
  have hr : (BELL_TRG_CTRL_ARMED k).addr < 0x40064000 := by simp only [BELL_TRG_CTRL_ARMED]; omega
  rw [rd, cellAt_drvLeave_eq, isRecord_false (.inl hr), if_neg Bool.false_ne_true]
  refine each_get s (rd · (BELL_TRG_CTRL_ARMED k)) (fun _ => 0) (fun u j => wr u (BELL_TRG_CTRL_ARMED j) 0) _ k
    (List.nodup_range.filter _) (List.mem_filter.2 ⟨List.mem_range.2 hk, decide_eq_true ho⟩) (fun u j hj => ?_) fun u => rd_wr_bit u 0 rfl rfl
  exact rd_wr_addr u _ _ 0 (by simp only [BELL_TRG_CTRL_ARMED]; omega)

/-! ## Leaving service (R181, R236, R244, R272, R335, R351) -/

/-- The hub has taken its new state, the hold of an activation has ended, and every line has its safe value. -/
def stillLines (s : State) (st : Nat) : State :=
  dioSafe { wr s SYS_STATE_STATE st with rst := { s.rst with hold := false, holdToP3 := false } }

theorem enterStill_eq (s : State) (st : Nat) :
    enterStill s st = drvLeave (canStopAll (chnStopAll (brnRelease (stillLines s st)))) := rfl

theorem cellAt_stillLines (s : State) (st : Nat) {a : Nat} (ha : a ≠ SYS_STATE_STATE.addr) : cellAt (stillLines s st) a = cellAt s a :=
  (cellAt_dioSafe _).trans (cellAt_wr_ne s _ _ a ha)

theorem stillLines_spec (s : State) (st : Nat) : (stillLines s st).rst = { s.rst with hold := false, holdToP3 := false } ∧
    partsBut [.regs, .rst, .lines] s (stillLines s st) := by
  have h := partsBut_dioSafe { wr s SYS_STATE_STATE st with rst := { s.rst with hold := false, holdToP3 := false } }
  refine ⟨h .rst (by decide), partsBut_trans ?_ (partsBut_mono h (by decide))⟩
  intro p hp
  cases p <;> simp [Part.same] at hp ⊢

theorem line_stillLines (s : State) (st : Nat) {n : Nat} (hn : n < 96) :
    ((stillLines s st).line n).drive = (if rd s (DIO_STAT_RELEASED n) = 1 then none else dioSafeLevel s n) ∧
    ((stillLines s st).line n).queue = [] ∧ ((stillLines s st).line n).pulseEnd = none := by
  have hcell : ∀ a, a ≠ SYS_STATE_STATE.addr →
      cellAt { wr s SYS_STATE_STATE st with rst := { s.rst with hold := false, holdToP3 := false } } a = cellAt s a :=
    fun a ha => cellAt_wr_ne s _ _ a ha
  obtain ⟨hdrive, hqueue⟩ := line_dioSafe { wr s SYS_STATE_STATE st with rst := { s.rst with hold := false, holdToP3 := false } } hn
  refine ⟨?_, hqueue⟩
  rw [dioSafeLevel_congr n (hcell _ (by simp only [DIO_CFG_MODE, SYS_STATE_STATE]; omega)), rd,
    hcell _ (by simp only [DIO_STAT_RELEASED, SYS_STATE_STATE]; omega), ← rd] at hdrive
  exact hdrive

/-- What follows the lines' safe values changes none of them, and no other part but those of what stops. -/
theorem partsBut_enterStill_after (s : State) (st : Nat) :
    partsBut [.regs, .brns, .chns, .stg, .stgTick, .stgOld, .drv] (stillLines s st) (enterStill s st) := by
  obtain ⟨u, hu⟩ : ∃ u, u = brnRelease (stillLines s st) := ⟨_, rfl⟩
  have hbrn : partsBut [.regs, .brns] (stillLines s st) u := hu ▸ partsBut_brnRelease _
  have hchn : partsBut [.regs, .chns, .stg, .stgTick, .stgOld] u (chnStopAll u) := partsBut_each _ _ chnStop u partsBut_chnStop
  have hcan : partsBut [.regs] (chnStopAll u) (canStopAll (chnStopAll u)) := partsBut_each _ _ canStop _ partsBut_canStop
  rw [enterStill_eq, ← hu]
  exact partsBut_trans (partsBut_mono hbrn (by decide)) (partsBut_trans (partsBut_mono hchn (by decide))
    (partsBut_trans (partsBut_mono hcan (by decide)) (partsBut_mono (partsBut_drvLeave _) (by decide))))

theorem rd_enterStill_chn (s : State) (st : Nat) {n : Nat} (hn : n < 48) : rd (enterStill s st) (CHN_STAT_STATE n) =
    if rd s (CHN_STAT_STATE n) = cRun then cStopping else rd s (CHN_STAT_STATE n) := by
  have hafter : rd (enterStill s st) (CHN_STAT_STATE n) = rd (chnStopAll (brnRelease (stillLines s st))) (CHN_STAT_STATE n) := by
    rw [rd, enterStill_eq, cellAt_drvLeave_apart _ (by simp only [CHN_STAT_STATE]; omega),
      cellAt_canStopAll_apart _ (by simp only [CHN_STAT_STATE]; omega), rd]
  have hbefore : rd (brnRelease (stillLines s st)) (CHN_STAT_STATE n) = rd s (CHN_STAT_STATE n) := by
    rw [rd, cellAt_brnRelease_below _ (by simp only [CHN_STAT_STATE]; omega),
      cellAt_stillLines _ _ (by simp only [CHN_STAT_STATE, SYS_STATE_STATE]; omega), rd]
  rw [hafter, rd_chnStopAll _ hn, hbefore]

theorem rd_enterStill_can (s : State) (st : Nat) {c : Nat} (hc : c < 16) : rd (enterStill s st) (CAN_STAT_STATE c) =
    if nDetect ≤ rd s (CAN_STAT_STATE c) ∧ rd s (CAN_STAT_STATE c) ≤ nRecovering then nStopping else rd s (CAN_STAT_STATE c) := by
  have hafter : rd (enterStill s st) (CAN_STAT_STATE c) = rd (canStopAll (chnStopAll (brnRelease (stillLines s st)))) (CAN_STAT_STATE c) := by
    rw [rd, enterStill_eq, cellAt_drvLeave_apart _ (by simp only [CAN_STAT_STATE]; omega), rd]
  have hbefore : rd (chnStopAll (brnRelease (stillLines s st))) (CAN_STAT_STATE c) = rd s (CAN_STAT_STATE c) := by
    rw [rd, cellAt_chnStopAll_apart _ (by simp only [CAN_STAT_STATE]; omega), cellAt_brnRelease_below _ (by simp only [CAN_STAT_STATE]; omega),
      cellAt_stillLines _ _ (by simp only [CAN_STAT_STATE, SYS_STATE_STATE]; omega), rd]
  rw [hafter, rd_canStopAll _ hc, hbefore]

theorem rd_enterStill_armed (s : State) (st : Nat) {k : Nat} (hk : k < 32) (ho : rd s (BELL_TRG_CTRL_OWNER k) = ownDrover) :
    rd (enterStill s st) (BELL_TRG_CTRL_ARMED k) = 0 := by
  rw [enterStill_eq]
  refine rd_drvLeave_armed _ hk (Eq.trans ?_ ho)
  rw [rd, cellAt_canStopAll_apart _ (by simp only [BELL_TRG_CTRL_OWNER]; omega),
    cellAt_chnStopAll_apart _ (by simp only [BELL_TRG_CTRL_OWNER]; omega), cellAt_brnRelease_below _ (by simp only [BELL_TRG_CTRL_OWNER]; omega),
    cellAt_stillLines _ _ (by simp only [BELL_TRG_CTRL_OWNER, SYS_STATE_STATE]; omega), rd]

/-- Settles O7: the state by `rd_enterStill_state`, the lines by `line_stillLines`, channels, controllers and trigger units by
`rd_enterStill_chn`, `rd_enterStill_can` and `rd_enterStill_armed`, the records by `cellAt_drvLeave_eq`. -/
theorem leavingServiceStopsEverything : Obligations.LeavingServiceStopsEverything := by
  unfold Obligations.LeavingServiceStopsEverything
  intro s st hst
  obtain ⟨hrst, hlines⟩ := stillLines_spec s st
  have hafter := partsBut_enterStill_after s st
  refine ⟨_, rfl, rd_enterStill_state s hst, (hafter .rst (by decide)).trans hrst, fun n hn => ?_, fun n hn => rd_enterStill_chn s st hn,
    fun c hc => rd_enterStill_can s st hc, fun a ha => ?_, rfl, rfl, rfl, fun k hk ho => rd_enterStill_armed s st hk ho,
    partsBut_trans (partsBut_mono hlines (by decide)) (partsBut_mono hafter (by decide))⟩
  · rw [State.line_congr n (hafter .lines (by decide))]
    exact line_stillLines s st hn
  · rw [enterStill_eq, cellAt_drvLeave_eq, if_pos ha]

end Sys2Proof.Machine

/-! SUPPORT. Obligation O30: a record of the Drover is made live, edges are matched or stray, and windows close unmatched. -/

namespace Sys2Proof.Machine

/-! ## The Drover's own state, and events (R179) -/

/-- The Drover's state beside its registers and the records, replaced. -/
def withDrv (s : State) (y : Drv) : State := { s with drv := y }

theorem partsBut_withDrv (s : State) (y : Drv) : partsBut [.drv] s (withDrv s y) := by
  intro p hp
  cases p <;> simp [Part.same, withDrv] at hp ⊢

theorem partsBut_record (s : State) (e : DrvEvent) : partsBut [.drv] s (record s e) := partsBut_withDrv s _

theorem rd_record (s : State) (e : DrvEvent) (f : Fld) : rd (record s e) f = rd s f := rfl

theorem cellsBut_record {l : List Nat} {s t : State} (h : cellsBut l s t) (e : DrvEvent) : cellsBut l s (record t e) := h

/-- A counter that wraps has grown by one, and no other register has changed. -/
theorem incWrap_spec (s : State) {f : Fld} (h : f.fits = true) : rd (incWrap s f) f = (rd s f + 1) % 2 ^ f.w ∧
    regsOnly [f.addr] s (incWrap s f) :=
  ⟨rd_incWrap_self s f (Nat.le_of_ble_eq_true h), regsOnly_wr s f _⟩

/-- Registers change and then an event is recorded: the event joins the others at the end, and the frame is that of the registers
and the Drover's state. -/
theorem record_spec {l : List Nat} {s t : State} (h : regsOnly l s t) (e : DrvEvent) :
    (record t e).drv.events = s.drv.events ++ [e] ∧ partsBut [.regs, .drv] s (record t e) ∧ cellsBut l s (record t e) := by
  obtain ⟨hparts, hcells⟩ := h
  refine ⟨?_, partsBut_trans (partsBut_mono hparts (by decide)) (partsBut_mono (partsBut_record t e) (by decide)), hcells⟩
  rw [record, hparts .drv (by decide)]

/-! ## Lists of writes to one record (R166) -/

/-- A field of record 0 as that of the record whose registers lie k bytes further on. -/
def Fld.up (f : Fld) (k : Nat) : Fld := ⟨f.addr + k, f.lo, f.w⟩

/-- Two fields share no bit of any cell. -/
def Fld.misses (f g : Fld) : Bool := f.addr != g.addr || f.apart g

/-- The value that a list of writes leaves in a field; none where it does not write it, or writes a field across it last. -/
def lastTo (f : Fld) : List (Fld × Nat) → Option Nat
  | [] => none
  | p :: l => match lastTo f l with
    | some v => some v
    | none => if p.1 = f ∧ (l.all fun q => q.1.misses f) = true then some p.2 else none

theorem rd_wrs_misses (s : State) {f : Fld} {l : List (Fld × Nat)} (hfit : (l.all fun p => p.1.fits) = true)
    (h : (l.all fun p => p.1.misses f) = true) : rd (wrs s l) f = rd s f := by
  induction l generalizing s with
  | nil => rfl
  | cons p l ih =>
    simp only [List.all_cons, Bool.and_eq_true] at hfit h
    rw [wrs_cons, ih _ hfit.2 h.2]
    have hp := h.1
    rw [Fld.misses, Bool.or_eq_true, bne_iff_ne] at hp
    exact hp.elim (fun ha => rd_wr_addr s _ _ _ (Ne.symm ha)) fun ha => rd_wr_apart s _ hfit.1 ha

/-- A field reads what a list of writes leaves in it, modulo its width. -/
theorem rd_wrs_lastTo (s : State) {f : Fld} {l : List (Fld × Nat)} {v : Nat} (hfit : (l.all fun p => p.1.fits) = true)
    (h : lastTo f l = some v) : rd (wrs s l) f = v % 2 ^ f.w := by
  induction l generalizing s with
  | nil => cases h
  | cons p l ih =>
    simp only [List.all_cons, Bool.and_eq_true] at hfit
    rw [wrs_cons]
    cases hl : lastTo f l with
    | some w =>
      rw [lastTo, hl] at h
      exact ih _ hfit.2 (hl.trans h)
    | none =>
      simp only [lastTo, hl, Option.ite_none_right_eq_some, Option.some.injEq] at h
      obtain ⟨⟨hp, hm⟩, hv⟩ := h
      rw [rd_wrs_misses _ hfit.2 hm, ← hp, ← hv]
      exact rd_wr_same s p.2 hfit.1

/-- The writes to record 0 as writes to the record whose registers lie k bytes further on. -/
def upAll (l : List (Fld × Nat)) (k : Nat) : List (Fld × Nat) := l.map fun p => (p.1.up k, p.2)

theorem misses_up (f g : Fld) (k : Nat) : (f.up k).misses (g.up k) = f.misses g := by
  have h : (f.addr + k != g.addr + k) = (f.addr != g.addr) := by
    rw [Bool.eq_iff_iff, bne_iff_ne, bne_iff_ne]
    omega
  rw [Fld.misses, Fld.misses, ← h]
  rfl

theorem all_misses_up (f : Fld) (l : List (Fld × Nat)) (k : Nat) :
    ((upAll l k).all fun q => q.1.misses (f.up k)) = l.all fun q => q.1.misses f := by
  simp [upAll, List.all_map, Function.comp_def, misses_up]

theorem lastTo_up (f : Fld) (l : List (Fld × Nat)) (k : Nat) : lastTo (f.up k) (upAll l k) = lastTo f l := by
  induction l with
  | nil => rfl
  | cons p l ih =>
    have hup : p.1.up k = f.up k ↔ p.1 = f := by
      obtain ⟨⟨a, lo, w⟩, v⟩ := p
      obtain ⟨b, lo', w'⟩ := f
      simp [Fld.up]
    have hall := all_misses_up f l k
    have hcons : upAll (p :: l) k = (p.1.up k, p.2) :: upAll l k := rfl
    simp only [hcons, lastTo, ih, hup, hall]

theorem fits_up (l : List (Fld × Nat)) (k : Nat) : ((upAll l k).all fun p => p.1.fits) = l.all fun p => p.1.fits := by
  simp only [upAll, List.all_map]
  rfl

/-! ## A record becomes live (R166, R178) -/

/-- The registers of a record read their reset values once it has been cleared, all others what they read before. -/
theorem cellAt_clearRec (s : State) (i a : Nat) :
    cellAt (clearRec s i) a = if (isRecord a && (a - 0x40064000) / 48 == i) = true then cellReset a else cellAt s a := by
  refine (tget_filter cellReset s.regs (fun k => !(isRecord k && (k - 0x40064000) / 48 == i)) a).trans ?_
  cases isRecord a && (a - 0x40064000) / 48 == i <;> rfl

theorem partsBut_clearRec (s : State) (i : Nat) : partsBut [.regs] s (clearRec s i) := by
  intro p hp
  cases p <;> simp [Part.same, clearRec] at hp ⊢

theorem recSeq_ne_next (i : Nat) : (DRV_REC_SEQN_SEQ i).addr ≠ DRV_SEQ_NEXT.addr := by
  simp only [DRV_REC_SEQN_SEQ, DRV_SEQ_NEXT]
  omega

theorem makeLive_eq {s : State} (h : s.drv.dest = []) (i : Nat) :
    makeLive s i = incWrap (wr s (DRV_REC_SEQN_SEQ i) (rd s DRV_SEQ_NEXT)) DRV_SEQ_NEXT := by
  have hd : (incWrap (wr s (DRV_REC_SEQN_SEQ i) (rd s DRV_SEQ_NEXT)) DRV_SEQ_NEXT).drv = s.drv :=
    (partsBut_wr _ _ _ .drv (by decide)).trans (partsBut_wr _ _ _ .drv (by decide))
  simp only [makeLive, hd, h, List.find?_nil]

/-- With no destination pending a record that becomes live takes the next SEQ, and nothing else changes. -/
theorem makeLive_spec {s : State} (h : s.drv.dest = []) (i : Nat) :
    rd (makeLive s i) (DRV_REC_SEQN_SEQ i) = rd s DRV_SEQ_NEXT ∧
    rd (makeLive s i) DRV_SEQ_NEXT = (rd s DRV_SEQ_NEXT + 1) % 2 ^ DRV_SEQ_NEXT.w ∧
    regsOnly [(DRV_REC_SEQN_SEQ i).addr, DRV_SEQ_NEXT.addr] s (makeLive s i) := by
  rw [makeLive_eq h]
  obtain ⟨u, hu⟩ : ∃ u, u = wr s (DRV_REC_SEQN_SEQ i) (rd s DRV_SEQ_NEXT) := ⟨_, rfl⟩
  rw [← hu]
  obtain ⟨hnext, hinc⟩ := incWrap_spec u (f := DRV_SEQ_NEXT) rfl
  have hseq : rd u (DRV_REC_SEQN_SEQ i) = rd s DRV_SEQ_NEXT := by
    rw [hu, rd_wr_same _ _ rfl]
    exact Nat.mod_eq_of_lt (rd_lt s DRV_SEQ_NEXT)
  have hkept : rd u DRV_SEQ_NEXT = rd s DRV_SEQ_NEXT := by rw [hu, rd_wr_addr _ _ _ _ (recSeq_ne_next i).symm]
  refine ⟨?_, ?_, regsOnly_trans (regsOnly_mono (hu ▸ regsOnly_wr s _ _) (by simp)) (regsOnly_mono hinc (by simp))⟩
  · rw [rd_of_cellsBut_one hinc.2 (recSeq_ne_next i), hseq]
  · rw [hnext, hkept]

/-- The registers of record i take values in the place of all it held, and it becomes live. -/
def newRec (s : State) (i : Nat) (l : List (Fld × Nat)) : State := makeLive (wrs (clearRec s i) (upAll l (0x30 * i))) i

theorem partsBut_newRec {s : State} (h : s.drv.dest = []) (i : Nat) (l : List (Fld × Nat)) : partsBut [.regs] s (newRec s i l) := by
  have hw : partsBut [.regs] s (wrs (clearRec s i) (upAll l (0x30 * i))) := partsBut_trans (partsBut_clearRec s i) (partsBut_wrs _ _)
  obtain ⟨-, -, hlive⟩ := makeLive_spec (show (wrs (clearRec s i) (upAll l (0x30 * i))).drv.dest = [] by
    rw [hw .drv (by decide)]; exact h) i
  exact partsBut_trans hw hlive.1

section
variable {s : State} (hd : s.drv.dest = []) {l : List (Fld × Nat)} (hl : (l.all fun p => (0x40064000).ble p.1.addr) = true)
include hd

/-- A new record's field reads what the list leaves in it. -/
theorem rd_newRec (i : Nat) {f : Fld} {v : Nat} (hfit : (l.all fun p => p.1.fits) = true) (hv : lastTo f l = some v)
    (hrec : (0x40064000).ble f.addr = true) (hne : f.addr ≠ 0x40064004) : rd (newRec s i l) (f.up (0x30 * i)) = v % 2 ^ f.w := by
  have hw : (wrs (clearRec s i) (upAll l (0x30 * i))).drv.dest = [] := by
    rw [partsBut_wrs _ _ .drv (by decide)]; exact hd
  have hle := Nat.le_of_ble_eq_true hrec
  obtain ⟨-, -, -, hcells⟩ := makeLive_spec hw i
  rw [newRec, rd_of_cellsBut hcells _ (by
    simp only [DRV_REC_SEQN_SEQ, DRV_SEQ_NEXT, Fld.up, List.mem_cons, List.not_mem_nil, or_false, not_or]
    omega)]
  exact rd_wrs_lastTo _ ((fits_up l _).trans hfit) ((lastTo_up f l _).trans hv)

include hl

/-- Before the table of records a new one has changed the next SEQ alone, and that SEQ is its own. -/
theorem newRec_outside (i : Nat) : rd (newRec s i l) (DRV_REC_SEQN_SEQ i) = rd s DRV_SEQ_NEXT ∧
    rd (newRec s i l) DRV_SEQ_NEXT = (rd s DRV_SEQ_NEXT + 1) % 2 ^ DRV_SEQ_NEXT.w ∧
    ∀ a, a < 0x40064000 → a ≠ DRV_SEQ_NEXT.addr → cellAt (newRec s i l) a = cellAt s a := by
  obtain ⟨u, hu⟩ : ∃ u, u = wrs (clearRec s i) (upAll l (0x30 * i)) := ⟨_, rfl⟩
  have hud : u.drv.dest = [] := by rw [hu, partsBut_wrs _ _ .drv (by decide)]; exact hd
  have hcells : ∀ a, a < 0x40064000 → cellAt u a = cellAt s a := fun a ha => by
    have hclear : cellAt (clearRec s i) a = cellAt s a := by rw [cellAt_clearRec, isRecord_false (.inl ha)]; rfl
    rw [hu, ← hclear]
    refine (regsOnly_wrs _ _).2 a fun hm => ?_
    simp only [upAll, List.map_map, List.mem_map, Function.comp_apply, Fld.up] at hm
    obtain ⟨p, hp, e⟩ := hm
    have := Nat.le_of_ble_eq_true (List.all_eq_true.1 hl p hp)
    omega
  have hseq : rd u DRV_SEQ_NEXT = rd s DRV_SEQ_NEXT := by rw [rd, hcells _ (by decide), rd]
  obtain ⟨hown, hnext, hlive⟩ := makeLive_spec hud i
  rw [newRec, ← hu, ← hseq]
  refine ⟨hown, hnext, fun a ha hn => (hlive.2 a ?_).trans (hcells a ha)⟩
  simp only [DRV_REC_SEQN_SEQ, List.mem_cons, List.not_mem_nil, or_false, not_or]
  exact ⟨by omega, hn⟩

end

/-! ## A stray edge, and a record that an induction sensor creates (R167, R169) -/

/-- A stray edge is counted for the hub and its sensor; with no record free FULL is set too. -/
def strayCounted (s : State) (sn cause : Nat) : State :=
  if cause = 1 then wr (incWrap (wr (incSat s DRV_CNT_A_STRAY) DRV_EVT_STRAY 1) (DRV_SNS_CNT_STRAY sn)) DRV_EVT_FULL 1
  else incWrap (wr (incSat s DRV_CNT_A_STRAY) DRV_EVT_STRAY 1) (DRV_SNS_CNT_STRAY sn)

theorem snsCnt_ne_stray (sn : Nat) : (DRV_SNS_CNT_STRAY sn).addr ≠ DRV_EVT_STRAY.addr ∧
    (DRV_SNS_CNT_STRAY sn).addr ≠ DRV_CNT_A_STRAY.addr := by
  simp only [DRV_SNS_CNT_STRAY, DRV_EVT_STRAY, DRV_CNT_A_STRAY]
  omega

theorem strayCounted_spec (s : State) (sn cause : Nat) :
    rd (strayCounted s sn cause) DRV_CNT_A_STRAY = min (rd s DRV_CNT_A_STRAY + 1) (2 ^ DRV_CNT_A_STRAY.w - 1) ∧
    rd (strayCounted s sn cause) DRV_EVT_STRAY = 1 ∧
    rd (strayCounted s sn cause) (DRV_SNS_CNT_STRAY sn) = (rd s (DRV_SNS_CNT_STRAY sn) + 1) % 2 ^ (DRV_SNS_CNT_STRAY 0).w ∧
    (cause = 1 → rd (strayCounted s sn cause) DRV_EVT_FULL = 1) ∧
    regsOnly [DRV_CNT_A_STRAY.addr, DRV_EVT_STRAY.addr, (DRV_SNS_CNT_STRAY sn).addr] s (strayCounted s sn cause) := by
  obtain ⟨hevt, hcnt⟩ := snsCnt_ne_stray sn
  obtain ⟨hhub, hset, hfirst⟩ := counted_spec s (c := DRV_CNT_A_STRAY) (e := DRV_EVT_STRAY) rfl rfl rfl (by decide)
  obtain ⟨t, ht⟩ : ∃ t, t = wr (incSat s DRV_CNT_A_STRAY) DRV_EVT_STRAY 1 := ⟨_, rfl⟩
  rw [← ht] at hhub hset hfirst
  obtain ⟨hinc, hsecond⟩ := incWrap_spec t (f := DRV_SNS_CNT_STRAY sn) rfl
  obtain ⟨u, hu⟩ : ∃ u, u = incWrap t (DRV_SNS_CNT_STRAY sn) := ⟨_, rfl⟩
  rw [← hu] at hinc hsecond
  have hboth := regsOnly_trans (regsOnly_mono (m := [DRV_CNT_A_STRAY.addr, DRV_EVT_STRAY.addr, (DRV_SNS_CNT_STRAY sn).addr]) hfirst (by simp))
    (regsOnly_mono hsecond (by simp))
  have hcount : rd u DRV_CNT_A_STRAY = min (rd s DRV_CNT_A_STRAY + 1) (2 ^ DRV_CNT_A_STRAY.w - 1) :=
    (rd_of_cellsBut_one hsecond.2 hcnt.symm).trans hhub
  have hevent : rd u DRV_EVT_STRAY = 1 := (rd_of_cellsBut_one hsecond.2 hevt.symm).trans hset
  have hsns : rd u (DRV_SNS_CNT_STRAY sn) = (rd s (DRV_SNS_CNT_STRAY sn) + 1) % 2 ^ (DRV_SNS_CNT_STRAY 0).w := by
    rw [hinc, rd_of_cellsBut hfirst.2 _ (by simp [hevt, hcnt])]
    rfl
  rw [strayCounted, ← ht, ← hu]
  split
  · refine ⟨?_, ?_, ?_, fun _ => rd_wr_bit u 1 rfl rfl, regsOnly_trans hboth (regsOnly_mono (regsOnly_wr u _ 1) (by simp [DRV_EVT_FULL, DRV_EVT_STRAY]))⟩
    · rw [rd_wr_addr _ _ _ _ (by decide), hcount]
    · rw [rd_wr_apart _ _ rfl rfl, hevent]
    · rw [rd_wr_addr _ DRV_EVT_FULL _ _ hevt, hsns]
  next hc => exact ⟨hcount, hevent, hsns, fun h => absurd h hc, hboth⟩

/-- A stray edge counted and recorded. -/
def strayNoted (s : State) (sn ns cause obj : Nat) : State := record (strayCounted s sn cause) ⟨ns, 2, sn, 0, cause, 0, obj⟩

theorem stray_eq (s : State) (sn ns cause obj : Nat) : stray s sn ns cause obj =
    if bitOf (rd (strayNoted s sn ns cause obj) DRV_CTRL_FLT_EN) 0 = true then raiseOnce (strayNoted s sn ns cause obj) 48 sn
    else strayNoted s sn ns cause obj := by
  obtain ⟨-, -, -, -, hregs⟩ := strayCounted_spec s sn cause
  have hen : rd (strayNoted s sn ns cause obj) DRV_CTRL_FLT_EN = rd s DRV_CTRL_FLT_EN :=
    rd_of_cellsBut (cellsBut_record hregs.2 _) _ (by simp [DRV_CTRL_FLT_EN, DRV_CNT_A_STRAY, DRV_EVT_STRAY, DRV_SNS_CNT_STRAY]; omega)
  rw [hen]
  rfl

/-- The registers that a record created at a sensor takes, as those of record 0 (R167). -/
def createdWrites (s : State) (sn t16 : Nat) : List (Fld × Nat) :=
  [(DRV_REC_OBJ_ID 0, rd s SYS_HUB_ID_ID * 2 ^ 20 + rd s DRV_OBJ_CNT_NEXT), (DRV_REC_ENTRY_T 0, t16 / 65536),
    (DRV_REC_ST_BELT 0, rd s (DRV_SNS_CTRL_BELT sn)), (DRV_REC_ST_STATE 0, dTrack)]

/-- A record created, live and recorded. -/
def recCreated (s : State) (sn t16 i : Nat) : State :=
  record (incWrap (newRec s i (createdWrites s sn t16)) DRV_OBJ_CNT_NEXT)
    ⟨ftNs s, 6, sn, i, 0, 0, rd s SYS_HUB_ID_ID * 2 ^ 20 + rd s DRV_OBJ_CNT_NEXT⟩

theorem createRec_full {s : State} (h : freeRec s = none) (sn t16 : Nat) :
    createRec s sn t16 = stray s sn (t16 / 65536) 1 (rd s SYS_HUB_ID_ID * 2 ^ 20 + rd s DRV_OBJ_CNT_NEXT) := by
  unfold createRec
  split
  · rfl
  next hi => cases h.symm.trans hi

theorem createRec_free {s : State} {i : Nat} (h : freeRec s = some i) (sn t16 : Nat) :
    createRec s sn t16 = settle (recCreated s sn t16 i) i sn t16 (anchorAt (recCreated s sn t16 i) (rd s (DRV_SNS_CTRL_BELT sn)) (t16 / 65536 : Nat))
      ((t16 / 65536 + rd s (DRV_SNS_WIN_LATE sn) * 1000) % 2 ^ 32) true := by
  unfold createRec
  split
  next hi => cases h.symm.trans hi
  next j hj =>
    cases h.symm.trans hj
    rfl

section
variable {s : State} (hd : s.drv.dest = []) (sn t16 i : Nat)
include hd

/-- A record created shows its object, its time of entry, TRACK and its belt, and has the next SEQ (R166, R167). -/
theorem recCreated_shows : rd (recCreated s sn t16 i) (DRV_REC_OBJ_ID i) = (rd s SYS_HUB_ID_ID * 2 ^ 20 + rd s DRV_OBJ_CNT_NEXT) % 2 ^ 32 ∧
    rd (recCreated s sn t16 i) (DRV_REC_ENTRY_T i) = t16 / 65536 % 2 ^ 64 ∧ rd (recCreated s sn t16 i) (DRV_REC_ST_STATE i) = 1 ∧
    rd (recCreated s sn t16 i) (DRV_REC_ST_BELT i) = rd s (DRV_SNS_CTRL_BELT sn) ∧
    rd (recCreated s sn t16 i) (DRV_REC_SEQN_SEQ i) = rd s DRV_SEQ_NEXT := by
  have hc : cellsBut [DRV_OBJ_CNT_NEXT.addr] (newRec s i (createdWrites s sn t16)) (recCreated s sn t16 i) :=
    cellsBut_record (cellsBut_wr _ _ _) _
  have hshow : ∀ {f : Fld} {v : Nat}, lastTo f (createdWrites s sn t16) = some v → (0x40064000).ble f.addr = true → f.addr ≠ 0x40064004 →
      rd (recCreated s sn t16 i) (f.up (0x30 * i)) = v % 2 ^ f.w := fun {f} _ hv hrec hne => by
    have hle := Nat.le_of_ble_eq_true hrec
    rw [rd_of_cellsBut_one hc (by simp only [Fld.up, DRV_OBJ_CNT_NEXT]; omega)]
    exact rd_newRec hd i rfl hv hrec hne
  refine ⟨hshow (f := DRV_REC_OBJ_ID 0) rfl rfl (by decide), hshow (f := DRV_REC_ENTRY_T 0) rfl rfl (by decide),
    hshow (f := DRV_REC_ST_STATE 0) rfl rfl (by decide), (hshow (f := DRV_REC_ST_BELT 0) rfl rfl (by decide)).trans ?_, ?_⟩
  · exact Nat.mod_eq_of_lt (rd_lt s (DRV_SNS_CTRL_BELT sn))
  · rw [rd_of_cellsBut_one hc (by simp only [DRV_REC_SEQN_SEQ, DRV_OBJ_CNT_NEXT]; omega)]
    exact (newRec_outside hd rfl i).1

/-- Making a record takes the next numbers of the counters, is recorded, and changes nothing beside registers and the Drover. -/
theorem recCreated_counts : rd (recCreated s sn t16 i) DRV_SEQ_NEXT = (rd s DRV_SEQ_NEXT + 1) % 2 ^ DRV_SEQ_NEXT.w ∧
    rd (recCreated s sn t16 i) DRV_OBJ_CNT_NEXT = (rd s DRV_OBJ_CNT_NEXT + 1) % 2 ^ DRV_OBJ_CNT_NEXT.w ∧
    (recCreated s sn t16 i).drv.events = s.drv.events ++ [⟨ftNs s, 6, sn, i, 0, 0, rd s SYS_HUB_ID_ID * 2 ^ 20 + rd s DRV_OBJ_CNT_NEXT⟩] ∧
    partsBut [.regs, .drv] s (recCreated s sn t16 i) := by
  obtain ⟨-, hnext, hcells⟩ := newRec_outside hd (l := createdWrites s sn t16) rfl i
  have hnew := partsBut_newRec hd i (createdWrites s sn t16)
  obtain ⟨hobj, hinc⟩ := incWrap_spec (newRec s i (createdWrites s sn t16)) (f := DRV_OBJ_CNT_NEXT) rfl
  obtain ⟨hevents, hparts, -⟩ := record_spec hinc ⟨ftNs s, 6, sn, i, 0, 0, rd s SYS_HUB_ID_ID * 2 ^ 20 + rd s DRV_OBJ_CNT_NEXT⟩
  rw [recCreated]
  refine ⟨?_, ?_, ?_, partsBut_trans (partsBut_mono hnew (by decide)) hparts⟩
  · rw [rd_record, rd_of_cellsBut_one hinc.2 (by decide), hnext]
  · rw [rd_record, hobj, rd, hcells _ (by decide) (by decide), ← rd]
  · rw [hevents, hnew .drv (by decide)]

end

/-! ## An edge is matched, doubles a record, creates one, or is stray (R167, R169) -/

/-- An edge without a candidate creates a record at an induction sensor, and is stray at another. -/
theorem edgeMatch_none {s : State} {sn t16 : Nat} (h : oldest s (edgeRecs s sn (t16 / 65536)) = none) :
    edgeMatch s sn t16 = if rd s (DRV_SNS_CTRL_ENTRY sn) = 1 then createRec s sn t16 else stray s sn (t16 / 65536) 0 0 := by
  simp only [edgeMatch, h, flag_iff s (f := DRV_SNS_CTRL_ENTRY sn) rfl]

/-- A match of a record is noted for this cycle, counted for the hub and the sensor, and recorded (R169, R178). -/
def matchNoted (s : State) (i sn ns : Nat) : State :=
  record (incWrap (incWrap (noteMatch s i) DRV_CNT_MATCH_COUNT) (DRV_SNS_CNT_MATCH sn)) ⟨ns, 1, sn, i, 0, 0, rd s (DRV_REC_OBJ_ID i)⟩

/-- A second edge of the sensor that matched the record last is counted and recorded (R169). -/
def doubleNoted (s : State) (i sn ns : Nat) : State :=
  record (wr (incSat s DRV_CNT_B_DOUBLE) DRV_EVT_DOUBLE 1) ⟨ns, 4, sn, i, 0, 0, rd s (DRV_REC_OBJ_ID i)⟩

/-- An edge with candidates meets the oldest of them: a DOUBLE if this sensor matched it last, a match otherwise. -/
theorem edgeMatch_some {s : State} {sn t16 i : Nat} (h : oldest s (edgeRecs s sn (t16 / 65536)) = some i) :
    edgeMatch s sn t16 = if rd s (DRV_REC_ST_LAST_V i) = 1 ∧ rd s (DRV_REC_ST_LAST i) = sn then doubleNoted s i sn (t16 / 65536)
      else settle (matchNoted s i sn (t16 / 65536)) i sn t16 (anchorAt s (rd s (DRV_REC_ST_BELT i)) (t16 / 65536 : Nat))
        (((winOf s i).map fun w => wrapTo 32 w.closes).getD (t16 / 65536)) true := by
  have hclose : (((winOf s i).map fun w => wrapTo 32 w.closes).getD (t16 / 65536)) =
      match winOf s i with
      | none => t16 / 65536
      | some w => wrapTo 32 w.closes := by
    cases winOf s i <;> rfl
  simp only [edgeMatch, h, flag_iff s (f := DRV_REC_ST_LAST_V i) rfl, hclose]
  rfl

theorem doubleNoted_spec (s : State) (i sn ns : Nat) :
    rd (doubleNoted s i sn ns) DRV_CNT_B_DOUBLE = min (rd s DRV_CNT_B_DOUBLE + 1) (2 ^ DRV_CNT_B_DOUBLE.w - 1) ∧
    rd (doubleNoted s i sn ns) DRV_EVT_DOUBLE = 1 ∧
    (doubleNoted s i sn ns).drv.events = s.drv.events ++ [⟨ns, 4, sn, i, 0, 0, rd s (DRV_REC_OBJ_ID i)⟩] ∧
    partsBut [.regs, .drv] s (doubleNoted s i sn ns) ∧ cellsBut [DRV_CNT_B_DOUBLE.addr, DRV_EVT_DOUBLE.addr] s (doubleNoted s i sn ns) := by
  obtain ⟨hcnt, hevt, hregs⟩ := counted_spec s (c := DRV_CNT_B_DOUBLE) (e := DRV_EVT_DOUBLE) rfl rfl rfl (by decide)
  exact ⟨hcnt, hevt, record_spec hregs _⟩

theorem noteMatch_spec (s : State) (i : Nat) : (noteMatch s i).drv.events = s.drv.events ∧ (noteMatch s i).drv.matchCyc = s.clk.cyc ∧
    i ∈ (noteMatch s i).drv.matched ∧ partsBut [.drv] s (noteMatch s i) ∧ (noteMatch s i).regs = s.regs :=
  ⟨rfl, rfl, List.mem_cons_self, partsBut_withDrv s _, rfl⟩

theorem matchNoted_spec (s : State) (i sn ns : Nat) :
    rd (matchNoted s i sn ns) DRV_CNT_MATCH_COUNT = (rd s DRV_CNT_MATCH_COUNT + 1) % 2 ^ DRV_CNT_MATCH_COUNT.w ∧
    rd (matchNoted s i sn ns) (DRV_SNS_CNT_MATCH sn) = (rd s (DRV_SNS_CNT_MATCH sn) + 1) % 2 ^ (DRV_SNS_CNT_MATCH 0).w ∧
    (matchNoted s i sn ns).drv.events = s.drv.events ++ [⟨ns, 1, sn, i, 0, 0, rd s (DRV_REC_OBJ_ID i)⟩] ∧
    (matchNoted s i sn ns).drv.matchCyc = s.clk.cyc ∧ i ∈ (matchNoted s i sn ns).drv.matched ∧ partsBut [.regs, .drv] s (matchNoted s i sn ns) ∧
    cellsBut [DRV_CNT_MATCH_COUNT.addr, (DRV_SNS_CNT_MATCH sn).addr] s (matchNoted s i sn ns) := by
  obtain ⟨hevents, hcyc, hmem, hnote, hregs⟩ := noteMatch_spec s i
  have hne : (DRV_SNS_CNT_MATCH sn).addr ≠ DRV_CNT_MATCH_COUNT.addr := by simp only [DRV_SNS_CNT_MATCH, DRV_CNT_MATCH_COUNT]; omega
  obtain ⟨u, hu⟩ : ∃ u, u = noteMatch s i := ⟨_, rfl⟩
  rw [← hu] at hevents hcyc hmem hnote hregs
  have hrd : ∀ f, rd u f = rd s f := fun f => rd_congr f hregs
  obtain ⟨hhub, hfirst⟩ := incWrap_spec u (f := DRV_CNT_MATCH_COUNT) rfl
  obtain ⟨hsns, hsecond⟩ := incWrap_spec (incWrap u DRV_CNT_MATCH_COUNT) (f := DRV_SNS_CNT_MATCH sn) rfl
  obtain ⟨v, hv⟩ : ∃ v, v = incWrap (incWrap u DRV_CNT_MATCH_COUNT) (DRV_SNS_CNT_MATCH sn) := ⟨_, rfl⟩
  rw [← hv] at hsns hsecond
  have hboth : regsOnly [DRV_CNT_MATCH_COUNT.addr, (DRV_SNS_CNT_MATCH sn).addr] u v :=
    regsOnly_trans (regsOnly_mono hfirst (by simp)) (regsOnly_mono hsecond (by simp))
  obtain ⟨hlist, hparts, hcells⟩ := record_spec hboth ⟨ns, 1, sn, i, 0, 0, rd s (DRV_REC_OBJ_ID i)⟩
  have hdrv : v.drv = u.drv := hboth.1 .drv (by decide)
  rw [matchNoted, ← hu, ← hv]
  refine ⟨?_, ?_, by rw [hlist, hevents], ?_, ?_, partsBut_trans (partsBut_mono hnote (by decide)) hparts,
    fun a ha => (hcells a ha).trans (cellAt_congr a hregs)⟩
  · rw [rd_record, rd_of_cellsBut_one hsecond.2 hne.symm, hhub, hrd]
  · rw [rd_record, hsns, rd_of_cellsBut_one hfirst.2 hne, hrd]
    rfl
  · rw [record, hdrv, hcyc]
  · rw [record, hdrv]
    exact hmem

/-! ## Edges that wait (R163, R165) -/

theorem matchWaiting_nil {s : State} (before n : Nat) (h : s.drv.waiting = []) : matchWaiting before n s = s := by
  cases n with
  | zero => rfl
  | succ n => simp only [matchWaiting, h, firstEdge, List.foldl_nil]

/-- The edges that wait, replaced. -/
def withWaiting (s : State) (l : List (Nat × Nat)) : State := withDrv s { s.drv with waiting := l }

theorem withWaiting_self {s : State} {l : List (Nat × Nat)} (h : s.drv.waiting = l) : withWaiting s l = s := by
  subst h
  rfl

/-- A single edge that waits is matched where it comes before the instant, and waits on otherwise. -/
theorem matchWaiting_one {u : State} {sn k : Nat} (before : Nat) (ha : drvActive u = true) (he : flag u (DRV_SNS_CTRL_EN sn) = true)
    (hw : u.drv.waiting = []) :
    matchWaiting before 1 (withWaiting u [(sn, k)]) = if before ≤ k then withWaiting u [(sn, k)] else edgeMatch u sn k := by
  have hfirst : firstEdge (withWaiting u [(sn, k)]).drv.waiting = some (sn, k) := rfl
  have herase : (withWaiting u [(sn, k)]).drv.waiting.erase (sn, k) = [] := List.erase_cons_head ..
  have hback : ({ withWaiting u [(sn, k)] with drv := { (withWaiting u [(sn, k)]).drv with waiting := [] } } : State) = u := withWaiting_self hw
  simp only [matchWaiting, hfirst, herase, hback, ha, he, Bool.and_self, if_true]

/-- The edges that may be matched up to an instant leave out that instant's where it lies in a running P1 (R163). -/
theorem matchTo_next (s : State) {k : Nat} : matchTo s (k + 1) ≤ k ↔ rd s TRD_STATUS_PHASE = 1 ∧ s.trd.taken * 65536 ≤ k := by
  unfold matchTo
  split
  next hp => simp only [hp, true_and]; omega
  next hp => simp [hp]

/-- The sensor's edge with no other waiting is the one edge to match, as far as P1 lets it be (R163, R169). -/
theorem exec_sensorEdge {s u : State} {dt sn k : Nat} (hu : u = advance s dt) (hk : k = ftNs u * 65536 + ftFrac u) (hb : s.rst.busy = false)
    (hn : sn < 32) (ha : drvActive u = true) (he : rd s (DRV_SNS_CTRL_EN sn) = 1) (hw : s.drv.waiting = []) :
    exec (.sensorEdge dt sn) s =
      .next (if matchTo u (k + 1) ≤ k then withWaiting u [(sn, k)] else edgeMatch u sn k) := by
  have hub : u.rst.busy = false := hu ▸ hb
  have huw : u.drv.waiting = [] := hu ▸ hw
  have hue : flag u (DRV_SNS_CTRL_EN sn) = true := flag_true (by rw [hu, rd_advance, he])
  have hto : matchTo (withWaiting u [(sn, k)]) (k + 1) = matchTo u (k + 1) := rfl
  rw [← matchWaiting_one _ ha hue huw, ← hto]
  refine congrArg Host.Outcome.next ?_
  rw [← hu]
  refine (whenAlive_alive u _ hub).trans ?_
  rw [if_neg (by simp [ha, hue]; omega), huw, ← hk]
  simp only [List.filter_nil, List.nil_append, if_true]
  have hown : [(sn, k)].filter (·.1 == sn) = [(sn, k)] := by simp
  rw [hown]
  rfl

/-! ## A window closes unmatched (R170) -/

/-- A window that closes unmatched is counted for the hub and the record, and recorded. -/
def missNoted (s : State) (i : Nat) (w : Win) : State :=
  record (incSat (wr (incSat s DRV_CNT_A_MISSING) DRV_EVT_MISSING 1) (DRV_REC_CTR_MISSES i))
    ⟨w.closes.toNat, 3, rd s (DRV_REC_ST_NEXT i), i, 0, 0, rd s (DRV_REC_OBJ_ID i)⟩

theorem missNoted_spec (s : State) (i : Nat) (w : Win) :
    rd (missNoted s i w) DRV_CNT_A_MISSING = min (rd s DRV_CNT_A_MISSING + 1) (2 ^ DRV_CNT_A_MISSING.w - 1) ∧
    rd (missNoted s i w) DRV_EVT_MISSING = 1 ∧
    rd (missNoted s i w) (DRV_REC_CTR_MISSES i) = min (rd s (DRV_REC_CTR_MISSES i) + 1) (2 ^ (DRV_REC_CTR_MISSES 0).w - 1) ∧
    (missNoted s i w).drv.events =
      s.drv.events ++ [⟨w.closes.toNat, 3, rd s (DRV_REC_ST_NEXT i), i, 0, 0, rd s (DRV_REC_OBJ_ID i)⟩] ∧
    partsBut [.regs, .drv] s (missNoted s i w) ∧
    cellsBut [DRV_CNT_A_MISSING.addr, DRV_EVT_MISSING.addr, (DRV_REC_CTR_MISSES i).addr] s (missNoted s i w) := by
  obtain ⟨hhub, hevt, hfirst⟩ := counted_spec s (c := DRV_CNT_A_MISSING) (e := DRV_EVT_MISSING) rfl rfl rfl (by decide)
  obtain ⟨t, ht⟩ : ∃ t, t = wr (incSat s DRV_CNT_A_MISSING) DRV_EVT_MISSING 1 := ⟨_, rfl⟩
  rw [← ht] at hhub hevt hfirst
  obtain ⟨hrec, hsecond⟩ := regsOnly_counted t (DRV_REC_CTR_MISSES i) rfl
  have hcnt : DRV_CNT_A_MISSING.addr ≠ (DRV_REC_CTR_MISSES i).addr := by simp only [DRV_CNT_A_MISSING, DRV_REC_CTR_MISSES]; omega
  have hset : DRV_EVT_MISSING.addr ≠ (DRV_REC_CTR_MISSES i).addr := by simp only [DRV_EVT_MISSING, DRV_REC_CTR_MISSES]; omega
  have hboth := regsOnly_trans (regsOnly_mono (m := [DRV_CNT_A_MISSING.addr, DRV_EVT_MISSING.addr, (DRV_REC_CTR_MISSES i).addr]) hfirst (by simp))
    (regsOnly_mono hsecond (by simp))
  rw [missNoted, ← ht]
  refine ⟨?_, ?_, ?_, record_spec hboth _⟩
  · rw [rd_record, rd_of_cellsBut_one hsecond.2 hcnt, hhub]
  · rw [rd_record, rd_of_cellsBut_one hsecond.2 hset, hevt]
  · rw [rd_record, hrec, rd_of_cellsBut hfirst.2 _ (by simp [hcnt.symm, hset.symm])]
    rfl

/-- A window that closed unmatched, noted and raised, ends as MISS_POL says: the record is inferred or freed (R170). -/
theorem missWindow_eq (s : State) (i : Nat) (w : Win) : ∃ v,
    v = (if bitOf (rd (missNoted s i w) DRV_CTRL_FLT_EN) 1 = true then raiseOnce (missNoted s i w) 49 i else missNoted s i w) ∧
    missWindow s i w = (if running v = false then v
      else if rd s (DRV_SNS_CTRL_MISS_POL (rd s (DRV_REC_ST_NEXT i))) = 1 ∨ rd s (DRV_SNS_CTRL_MISS_POL (rd s (DRV_REC_ST_NEXT i))) = 2 then
        settle v i (rd s (DRV_REC_ST_NEXT i)) (w.pred * 65536) ((rd s (DRV_REC_ANCH_P i) + windowDist s i) % 2 ^ 32)
          (wrapTo 32 w.closes) (rd s (DRV_SNS_CTRL_MISS_POL (rd s (DRV_REC_ST_NEXT i))) == 2)
      else recFree v i) := by
  obtain ⟨-, -, -, -, -, hcells⟩ := missNoted_spec s i w
  have hen : rd (missNoted s i w) DRV_CTRL_FLT_EN = rd s DRV_CTRL_FLT_EN := rd_of_cellsBut hcells _ (by
    simp only [DRV_CTRL_FLT_EN, DRV_CNT_A_MISSING, DRV_EVT_MISSING, DRV_REC_CTR_MISSES, List.mem_cons, List.not_mem_nil, or_false, not_or]
    omega)
  refine ⟨_, rfl, ?_⟩
  rw [hen]
  unfold missWindow
  simp only [Bool.not_eq_true']
  rfl

/-- No edge that waits lies in the window of its sensor. -/
theorem edgeWaits_false_iff (s : State) (sn : Nat) (w : Win) : (!edgeWaits s sn w) = true ↔
    ∀ e ∈ s.drv.waiting, e.1 = sn → ¬(w.opens * 65536 ≤ e.2 ∧ e.2 < w.closes * 65536) := by
  simp [edgeWaits]

section
variable {s t u : State} {i : Nat} {w : Win} (hb : s.rst.busy = false) (ha : drvActive s = true) (hw : winOf s i = some w)
  (hr : recState s i = 1) (hs : rd s (DRV_BELT_STAT_STOPPED (rd s (DRV_REC_ST_BELT i))) = 0) (ht : t = advanceTo s (w.closes + 1000).toNat)
  (hu : u = matchWaiting (matchTo t (ftNs t * 65536 + ftFrac t + 1)) t.drv.waiting.length t)
include hb ha hw hr hs ht hu

/-- At the close of a window plus 1 µs the edges stamped before are handled first, and the window is still unmatched or not (R170). -/
theorem exec_windowMissing : exec (.windowMissing i) s = .next (if winOf u i = some w ∧ recState u i = 1 ∧
    (∀ e ∈ u.drv.waiting, e.1 = rd u (DRV_REC_ST_NEXT i) → ¬(w.opens * 65536 ≤ e.2 ∧ e.2 < w.closes * 65536)) then missWindow u i w else u) := by
  refine congrArg Host.Outcome.next ((whenAlive_alive s _ hb).trans ?_)
  have hgo : ¬(recState s i ≠ dTrack ∨ beltStopped s (rd s (DRV_REC_ST_BELT i)) = true ∨ (!drvActive s) = true) := by
    simp [hr, dTrack, beltStopped, flag_false hs, ha]
  simp only [hw, if_neg hgo, ← ht, ← hu, edgeWaits_false_iff]
  rfl

/-- With no edge waiting the window has closed unmatched. -/
theorem exec_windowMissing_alone (h : s.drv.waiting = []) : exec (.windowMissing i) s = .next (missWindow t i w) := by
  have hparts : partsBut [.clk] s t := ht ▸ partsBut_advanceTo s _
  have htw : t.drv.waiting = [] := by rw [hparts .drv (by decide), h]
  have hut : u = t := hu.trans (matchWaiting_nil _ _ htw)
  have hwin : winOf t i = some w := by rw [winOf, hparts .drv (by decide), ← hw, winOf]
  have hrec : recState t i = 1 := by rw [recState, rd_congr _ (hparts .regs (by decide)), ← hr, recState]
  rw [exec_windowMissing hb ha hw hr hs ht hu, hut, if_pos ⟨hwin, hrec, by rw [htw]; exact fun e he => nomatch he⟩]

end

/-- Settles O30: edges by `exec_sensorEdge`, `edgeMatch_none`, `edgeMatch_some` and their notes, strays by `stray_eq`, a record created by
`createRec_free` and `recCreated_shows`, windows by `exec_windowMissing` and `missWindow_eq`. -/
theorem edgesMatchRecords : Obligations.EdgesMatchRecords := by
  unfold Obligations.EdgesMatchRecords
  refine ⟨fun s u dt sn k hu hk hb hn ha he hw => ?_, fun s sn k t c ht hc => ?_, fun s sn ns cause obj _ => ?_,
    fun s sn k obj hobj => ⟨fun h => hobj ▸ createRec_full h sn k, fun i _ hi hd => ?_⟩,
    fun s t u i w hb ha hw hr hs ht hu => ⟨exec_windowMissing hb ha hw hr hs ht hu, exec_windowMissing_alone hb ha hw hr hs ht hu⟩,
    fun s i sn pol w _ hsn hpol _ => ?_⟩
  · rw [exec_sensorEdge hu hk hb hn ha he hw]
    have hto := matchTo_next u (k := k)
    have hphase : rd u TRD_STATUS_PHASE = rd s TRD_STATUS_PHASE := by rw [hu, rd_advance]
    have htaken : u.trd.taken = s.trd.taken := by rw [hu]; rfl
    rw [hphase, htaken] at hto
    refine ⟨fun h => congrArg Host.Outcome.next (if_neg fun hle => ?_), fun hp h => congrArg Host.Outcome.next (if_pos (hto.2 ⟨hp, h⟩))⟩
    obtain ⟨hp, hle⟩ := hto.1 hle
    exact h.elim (fun h => h hp) fun h => Nat.not_lt.2 hle h
  · subst ht
    refine ⟨fun hn he => ?_, fun hn he => ?_, fun i hi hv hl => ?_, fun i hi hnot => ?_⟩
    · rw [edgeMatch_none (hc.symm.trans hn), if_pos he]
    · rw [edgeMatch_none (hc.symm.trans hn), if_neg (by rw [he]; decide)]
    · exact ⟨_, (edgeMatch_some (hc.symm.trans hi)).trans (if_pos ⟨hv, hl⟩), doubleNoted_spec s i sn _⟩
    · obtain ⟨hhub, hsns, hevents, hcyc, hmem, hparts, hcells⟩ := matchNoted_spec s i sn (k / 65536)
      refine ⟨_, hhub, hsns, hevents, hcyc, hmem, hparts, hcells, (edgeMatch_some (hc.symm.trans hi)).trans (if_neg fun ⟨hv, hl⟩ => ?_)⟩
      exact hnot.elim (fun h => absurd (hv.symm.trans h) (by decide)) fun h => h hl
  · obtain ⟨hhub, hevt, hsns, hfull, hregs⟩ := strayCounted_spec s sn cause
    obtain ⟨hevents, hparts, hcells⟩ := record_spec hregs ⟨ns, 2, sn, 0, cause, 0, obj⟩
    exact ⟨strayNoted s sn ns cause obj, hhub, hevt, hsns, hfull, hevents, hparts, hcells, stray_eq s sn ns cause obj⟩
  · obtain ⟨hid, hentry, hstate, hbelt, hseq⟩ := recCreated_shows hd sn k i
    obtain ⟨hnext, hcnt, hevents, hparts⟩ := recCreated_counts hd sn k i
    subst hobj
    exact ⟨_, hid, hentry, hstate, hbelt, hseq, hnext, hcnt, hevents, hparts, createRec_free hi sn k⟩
  · subst hsn hpol
    obtain ⟨hhub, hevt, hrec, hevents, hparts, hcells⟩ := missNoted_spec s i w
    obtain ⟨v, hv, hmiss⟩ := missWindow_eq s i w
    exact ⟨_, v, hhub, hevt, hrec, hevents, hparts, hcells, hv, hmiss⟩

end Sys2Proof.Machine

/-! SUPPORT. Obligation O31: a record is freed, a hand-off makes one live, and a host's command sets a destination. -/

namespace Sys2Proof.Machine

/-! ## Windows of records (R168) -/

theorem winOf_setWin_none (s : State) (i j : Nat) : winOf (setWin s i none) j = if j = i then none else winOf s j := by
  have hwins : (setWin s i none).drv.wins = s.drv.wins.filter (·.1 != i) := rfl
  simp only [winOf, hwins, List.find?_filter]
  split
  next h =>
    subst h
    simp
  next h =>
    congr 2
    funext p
    by_cases hp : p.1 = j
    · simp [hp, h]
    · simp [hp]

theorem setWin_spec (s : State) (i : Nat) (w : Option Win) : (setWin s i w).regs = s.regs ∧ (setWin s i w).drv.events = s.drv.events ∧
    partsBut [.drv] s (setWin s i w) :=
  ⟨rfl, rfl, partsBut_withDrv s _⟩

/-- The window of a record computed changes windows alone. -/
theorem computeWin_spec (s : State) (i : Nat) : (computeWin s i).regs = s.regs ∧ (computeWin s i).drv.events = s.drv.events ∧
    partsBut [.drv] s (computeWin s i) := by
  unfold computeWin
  dsimp only
  split
  · exact setWin_spec s i none
  · split
    · exact ⟨rfl, rfl, partsBut_refl _ _⟩
    · exact setWin_spec s i _

/-! ## A record is freed (R166) -/

/-- The registers of a record are those of one run of 48 bytes of the table. -/
theorem recordCell_iff (i a : Nat) :
    (isRecord a && (a - 0x40064000) / 48 == i) = true ↔ 0x40064000 ≤ a ∧ a < 0x40070000 ∧ (a - 0x40064000) / 48 = i := by
  simp [isRecord, and_assoc]

theorem partsBut_recFree (s : State) (i : Nat) : partsBut [.regs, .drv] s (recFree s i) := by
  obtain ⟨-, -, hwin⟩ := setWin_spec s i none
  exact partsBut_trans (partsBut_mono hwin (by decide)) (partsBut_trans (partsBut_mono (partsBut_clearRec _ i) (by decide))
    (partsBut_mono (partsBut_withDrv _ _) (by decide)))

theorem cellAt_recFree (s : State) (i a : Nat) : cellAt (recFree s i) a =
    if 0x40064000 ≤ a ∧ a < 0x40070000 ∧ (a - 0x40064000) / 48 = i then cellReset a else cellAt s a :=
  (cellAt_clearRec (setWin s i none) i a).trans (if_congr (recordCell_iff i a) rfl rfl)

/-- A freed record has no window, no hand-off and no hops any more, and no other record's window changes (R166). -/
theorem recFree_forgets (s : State) (i : Nat) : winOf (recFree s i) i = none ∧ (∀ j, j ≠ i → winOf (recFree s i) j = winOf s j) ∧
    (∀ p ∈ (recFree s i).drv.hoIn, p.1 ≠ i) ∧ (∀ p ∈ (recFree s i).drv.hops, p.1 ≠ i) ∧ i ∉ (recFree s i).drv.openAtStop := by
  have hwin : ∀ j, winOf (recFree s i) j = if j = i then none else winOf s j := winOf_setWin_none s i
  refine ⟨by rw [hwin, if_pos rfl], fun j hj => by rw [hwin, if_neg hj], fun p hp => ?_, fun p hp => ?_, fun hp => ?_⟩
  · simpa using (List.mem_filter.1 hp).2
  · simpa using (List.mem_filter.1 hp).2
  · simpa using (List.mem_filter.1 hp).2

/-- A record that is not tracked and has no hand-off left is freed, after a wait for DCLOSE where its last match is valid (R166). -/
theorem exec_recordFree {s : State} {i : Nat} (hb : s.rst.busy = false) (hi : i < 1024) (hst : recState s i = 2 ∨ recState s i = 3)
    (hl : rd s (DRV_REC_CTR_HO_LEFT i) = 0) : exec (.recordFree i) s =
      .next (recFree (if rd s (DRV_REC_ST_LAST_V i) = 1 ∧ 0 < modDiff 32 (rd s (DRV_REC_DCL_T i)) (ftNs s) then
        advanceTo s (ftNs s + (modDiff 32 (rd s (DRV_REC_DCL_T i)) (ftNs s)).toNat) else s) i) := by
  refine congrArg Host.Outcome.next ((whenAlive_alive s _ hb).trans ?_)
  rw [if_neg]
  · simp only [flag_iff s (f := DRV_REC_ST_LAST_V i) rfl]
  · simp only [dHandoff, dDone, hl]
    obtain hst | hst := hst <;> simp [hst] <;> omega

/-! ## Hand-off in (R176) -/

theorem exec_handoffIn {s : State} {c : Nat} (hb : s.rst.busy = false) (hc : c < 4) (he : rd s (DRV_HO_IN_EN c) = 1) (ha : drvActive s = true) :
    exec (.handoffIn c) s = .next (hoTake (hoTake s c 0) c 1) :=
  congrArg Host.Outcome.next ((whenAlive_alive s _ hb).trans (if_pos ⟨hc, flag_true he, ha⟩))

/-- The 32 bytes of position j of the slot that in channel c names. -/
def hoSlot (s : State) (c j : Nat) : List Byte := memBytes s (payloadAddr (rd s (DRV_HO_IN_ENTRY c)) + 32 * j) 32

/-- The object of a position is live, or freed recently. -/
def hoKnown (s : State) (obj ent : Nat) : Bool :=
  ((liveRecs s).any fun i => rd s (DRV_REC_OBJ_ID i) == obj && rd s (DRV_REC_ENTRY_T i) == ent) || s.drv.freed.contains (obj, ent)

theorem hoKnown_iff (s : State) (obj ent : Nat) : hoKnown s obj ent = true ↔ (obj, ent) ∈ s.drv.freed ∨
    ∃ i ∈ liveRecs s, rd s (DRV_REC_OBJ_ID i) = obj ∧ rd s (DRV_REC_ENTRY_T i) = ent := by
  simp only [hoKnown, Bool.or_eq_true, List.any_eq_true, Bool.and_eq_true, beq_iff_eq, List.contains_iff_mem]
  exact or_comm

/-- The registers that a record taken in from a slot's position takes, as those of record 0 (R176). -/
def takenWrites (s : State) (c : Nat) (x : List Byte) : List (Fld × Nat) :=
  [(DRV_REC_OBJ_ID 0, beNat (slice x 0 4)), (DRV_REC_ENTRY_T 0, beNat (slice x 4 8)), (DRV_REC_LASTT_T 0, beNat (slice x 12 8)),
    (DRV_REC_ATTR_DEST 0, beNat (slice x 20 8) % 2 ^ 16), (DRV_REC_ATTR_LCLS 0, bits (beNat (slice x 20 8)) 16 4),
    (DRV_REC_ATTR_USER 0, beNat (slice x 20 8) / 2 ^ 32), (DRV_REC_ST_DEST_SET 0, bits (beNat (slice x 28 2)) 14 1),
    (DRV_REC_ST_FROM 0, beNat (slice x 28 2) % 4096), (DRV_REC_ST_BELT 0, rd s (DRV_HO_IN_BELT c)), (DRV_REC_ST_NEXT 0, rd s (DRV_HO_IN_SNS c)),
    (DRV_REC_ANCH_P 0, anchorAt s (rd s (DRV_HO_IN_BELT c)) (beNat (slice x 12 8) : Nat)), (DRV_REC_ST_STATE 0, dTrack)]

/-- What the Drover holds of a record taken in beside its registers: its channel, and its hops. -/
def withHandoff (s : State) (i c hops : Nat) : State :=
  withDrv s { s.drv with hoIn := (i, c) :: s.drv.hoIn, hops := tput (fun _ => 0) s.drv.hops i hops }

/-- A record taken in from a slot's position, live and recorded. -/
def recTaken (s : State) (c i : Nat) (x : List Byte) : State :=
  record (withHandoff (newRec s i (takenWrites s c x)) i c (beNat (slice x 30 1)))
    ⟨ftNs s, 7, rd s (DRV_HO_IN_SNS c), i, 0, 0, beNat (slice x 0 4)⟩

section
variable {s : State} {c j : Nat} {x : List Byte} (hx : x = hoSlot s c j)
include hx

/-- A position that is not valid is left (R176). -/
theorem hoTake_invalid (h : bitOf (beNat (slice x 28 2)) 15 = false) : hoTake s c j = s := by
  subst hx
  exact if_pos (by rw [Bool.not_eq_true']; exact h)

/-- A known object is a duplicate (R176). -/
theorem hoTake_known (hv : bitOf (beNat (slice x 28 2)) 15 = true) (h : hoKnown s (beNat (slice x 0 4)) (beNat (slice x 4 8)) = true) :
    hoTake s c j = wr (incSat s DRV_CNT_C_DUP) DRV_EVT_DUP_HO 1 := by
  subst hx
  exact (if_neg (by rw [Bool.not_eq_true', Bool.not_eq_false]; exact hv)).trans (if_pos h)

/-- A new object without a place is stray (R176). -/
theorem hoTake_full (hv : bitOf (beNat (slice x 28 2)) 15 = true) (h : hoKnown s (beNat (slice x 0 4)) (beNat (slice x 4 8)) = false)
    (hf : freeRec s = none) : hoTake s c j = stray s (rd s (DRV_HO_IN_SNS c)) (ftNs s) 1 (beNat (slice x 0 4)) := by
  subst hx
  refine (if_neg (by rw [Bool.not_eq_true', Bool.not_eq_false]; exact hv)).trans ((if_neg (by rw [Bool.not_eq_true]; exact h)).trans ?_)
  split
  · rfl
  next hi => cases hf.symm.trans hi

/-- A new object takes the lowest place that is free, and its window is computed (R176). -/
theorem hoTake_free (hv : bitOf (beNat (slice x 28 2)) 15 = true) (h : hoKnown s (beNat (slice x 0 4)) (beNat (slice x 4 8)) = false) {i : Nat}
    (hf : freeRec s = some i) : hoTake s c j = computeWin (recTaken s c i x) i := by
  subst hx
  refine (if_neg (by rw [Bool.not_eq_true', Bool.not_eq_false]; exact hv)).trans ((if_neg (by rw [Bool.not_eq_true]; exact h)).trans ?_)
  split
  next hn => cases hf.symm.trans hn
  next k hk =>
    cases hf.symm.trans hk
    rfl

end

/-- A new object is taken in with its identity, TRACK to the channel's sensor on its belt, its origin and the next SEQ (R166, R176). -/
theorem hoTaken_spec {s : State} (hd : s.drv.dest = []) (c i : Nat) (x : List Byte) : ∃ t, computeWin (recTaken s c i x) i = t ∧
    rd t (DRV_REC_OBJ_ID i) = beNat (slice x 0 4) % 2 ^ 32 ∧ rd t (DRV_REC_ENTRY_T i) = beNat (slice x 4 8) % 2 ^ 64 ∧
    rd t (DRV_REC_ST_STATE i) = 1 ∧ rd t (DRV_REC_ST_NEXT i) = rd s (DRV_HO_IN_SNS c) ∧ rd t (DRV_REC_ST_BELT i) = rd s (DRV_HO_IN_BELT c) ∧
    rd t (DRV_REC_ST_FROM i) = beNat (slice x 28 2) % 4096 ∧ rd t (DRV_REC_SEQN_SEQ i) = rd s DRV_SEQ_NEXT ∧
    t.drv.events = s.drv.events ++ [⟨ftNs s, 7, rd s (DRV_HO_IN_SNS c), i, 0, 0, beNat (slice x 0 4)⟩] ∧ partsBut [.regs, .drv] s t := by
  obtain ⟨hregs, hevents, hwin⟩ := computeWin_spec (recTaken s c i x) i
  have hnew := partsBut_newRec hd i (takenWrites s c x)
  have hnoted : partsBut [.drv] (newRec s i (takenWrites s c x)) (recTaken s c i x) :=
    partsBut_trans (partsBut_withDrv _ _) (partsBut_record _ _)
  have hrd : ∀ f, rd (computeWin (recTaken s c i x) i) f = rd (newRec s i (takenWrites s c x)) f := fun f =>
    (rd_congr f hregs).trans (rd_congr f (hnoted .regs (by decide)))
  have hshow : ∀ {f : Fld} {v : Nat}, lastTo f (takenWrites s c x) = some v → (0x40064000).ble f.addr = true → f.addr ≠ 0x40064004 →
      rd (computeWin (recTaken s c i x) i) (f.up (0x30 * i)) = v % 2 ^ f.w := fun hv hrec hne =>
    (hrd _).trans (rd_newRec hd i rfl hv hrec hne)
  refine ⟨_, rfl, hshow (f := DRV_REC_OBJ_ID 0) rfl rfl (by decide), hshow (f := DRV_REC_ENTRY_T 0) rfl rfl (by decide),
    hshow (f := DRV_REC_ST_STATE 0) rfl rfl (by decide), (hshow (f := DRV_REC_ST_NEXT 0) rfl rfl (by decide)).trans ?_,
    (hshow (f := DRV_REC_ST_BELT 0) rfl rfl (by decide)).trans ?_, (hshow (f := DRV_REC_ST_FROM 0) rfl rfl (by decide)).trans ?_,
    (hrd _).trans (newRec_outside hd rfl i).1, ?_,
    partsBut_trans (partsBut_mono hnew (by decide)) (partsBut_trans (partsBut_mono hnoted (by decide)) (partsBut_mono hwin (by decide)))⟩
  · exact Nat.mod_eq_of_lt (rd_lt s (DRV_HO_IN_SNS c))
  · exact Nat.mod_eq_of_lt (rd_lt s (DRV_HO_IN_BELT c))
  · exact Nat.mod_mod _ _
  · rw [hevents, recTaken, record, withHandoff, withDrv, hnew .drv (by decide)]

/-! ## Destinations from hosts (R178) -/

theorem exec_destCmd {s0 s : State} (hb : s0.rst.busy = false)
    (hs : s = matchWaiting (matchTo s0 (ftNs s0 * 65536 + ftFrac s0 + 1)) s0.drv.waiting.length s0) (ini obj dest : Nat) (keep : Bool) :
    exec (.destCmd ini obj dest keep) s0 = .next (if ini = 2 then (destCmd s (obj % 2 ^ 32) (dest % 2 ^ 16) keep).emit (.busRsp 2 0 0)
      else destCmd s (obj % 2 ^ 32) (dest % 2 ^ 16) keep) := by
  rw [hs]
  exact congrArg Host.Outcome.next (whenAlive_alive s0 _ hb)

/-- The result of a destination command and the record it names are shown, and nothing else changes. -/
theorem destResult_spec (s : State) {r : Nat} (hr : r < 8) (i : Nat) : rd (destResult s r i) DRV_DEST_STAT_RESULT = r ∧
    rd (destResult s r i) DRV_DEST_STAT_INDEX = i % 2 ^ DRV_DEST_STAT_INDEX.w ∧ regsOnly [DRV_DEST_STAT_RESULT.addr] s (destResult s r i) := by
  refine ⟨?_, ?_, regsOnly_mono (regsOnly_wrs s _) (by simp [DRV_DEST_STAT_RESULT, DRV_DEST_STAT_INDEX])⟩
  · exact (rd_wrs_lastTo s (l := [(DRV_DEST_STAT_RESULT, r), (DRV_DEST_STAT_INDEX, i)]) rfl rfl).trans (Nat.mod_eq_of_lt hr)
  · exact rd_wrs_lastTo s (l := [(DRV_DEST_STAT_RESULT, r), (DRV_DEST_STAT_INDEX, i)]) rfl rfl

section
variable {s : State} {obj : Nat} (dest : Nat) (keep : Bool)

/-- A record that is DONE and was not matched in this cycle takes no destination (R178). -/
theorem destCmd_done {i : Nat} (hf : ((liveRecs s).find? fun i => rd s (DRV_REC_OBJ_ID i) == obj) = some i) (h3 : recState s i = 3)
    (hm : ¬(s.drv.matchCyc = s.clk.cyc ∧ i ∈ s.drv.matched)) : destCmd s obj dest keep = destResult s 4 i := by
  unfold destCmd
  split
  next k hk =>
    cases hf.symm.trans hk
    exact if_pos ⟨h3, by simpa [← not_and_or] using hm⟩
  next hn => cases hf.symm.trans hn

/-- Any other live record takes the destination (R178). -/
theorem destCmd_set {i : Nat} (hf : ((liveRecs s).find? fun i => rd s (DRV_REC_OBJ_ID i) == obj) = some i)
    (h : recState s i ≠ 3 ∨ (s.drv.matchCyc = s.clk.cyc ∧ i ∈ s.drv.matched)) :
    destCmd s obj dest keep = destResult (wrs s [(DRV_REC_ATTR_DEST i, dest), (DRV_REC_ST_DEST_SET i, 1)]) 0 i := by
  unfold destCmd
  split
  next k hk =>
    cases hf.symm.trans hk
    refine if_neg fun ⟨h3, hm⟩ => h.elim (fun h => h h3) fun h => ?_
    simp [h] at hm
  next hn => cases hf.symm.trans hn

/-- The pending table after a destination for an object that is not live: the object's own entry is replaced, and the oldest entry
makes place in a full table (R178). -/
def destTable (l : List (Nat × Nat)) (obj dest : Nat) (keep : Bool) : List (Nat × Nat) :=
  if keep = false then l else if (l.any (·.1 == obj)) = true then l.filter (·.1 != obj) ++ [(obj, dest)]
  else if l.length < 16 then l ++ [(obj, dest)] else l.tail ++ [(obj, dest)]

/-- The result of a destination for an object that is not live (R178). -/
def destCode (l : List (Nat × Nat)) (obj : Nat) (keep : Bool) : Nat :=
  if keep = false then 2 else if l.length < 16 ∨ (l.any (·.1 == obj)) = true then 1 else 3

theorem destCmd_none (hf : ((liveRecs s).find? fun i => rd s (DRV_REC_OBJ_ID i) == obj) = none) : destCmd s obj dest keep =
    destResult (withDrv s { s.drv with dest := destTable s.drv.dest obj dest keep }) (destCode s.drv.dest obj keep) 0 := by
  unfold destCmd destTable destCode
  split
  next k hk => cases hf.symm.trans hk
  next =>
    cases keep
    · rfl
    · by_cases ha : (s.drv.dest.any (·.1 == obj)) = true
      · simp only [ha, if_true, or_true, Bool.not_true]
        rfl
      · by_cases hl : s.drv.dest.length < 16
        · simp only [ha, hl, if_true, Bool.not_true]
          rfl
        · simp only [ha, hl, Bool.not_true]
          rfl

end

/-- The destination that a live record takes is shown with the result, and no other register changes. -/
theorem destSet_spec (s : State) (dest i : Nat) : ∃ t,
    destResult (wrs s [(DRV_REC_ATTR_DEST i, dest), (DRV_REC_ST_DEST_SET i, 1)]) 0 i = t ∧
    rd t (DRV_REC_ATTR_DEST i) = dest % 2 ^ 16 ∧ rd t (DRV_REC_ST_DEST_SET i) = 1 ∧ rd t DRV_DEST_STAT_RESULT = 0 ∧
    rd t DRV_DEST_STAT_INDEX = i % 2 ^ DRV_DEST_STAT_INDEX.w ∧
    regsOnly [(DRV_REC_ATTR_DEST i).addr, (DRV_REC_ST_DEST_SET i).addr, DRV_DEST_STAT_RESULT.addr] s t := by
  obtain ⟨u, hu⟩ : ∃ u, u = wrs s [(DRV_REC_ATTR_DEST i, dest), (DRV_REC_ST_DEST_SET i, 1)] := ⟨_, rfl⟩
  obtain ⟨hres, hidx, hregs⟩ := destResult_spec u (r := 0) (by decide) i
  have hw : ∀ {f : Fld} {v : Nat}, lastTo f [(DRV_REC_ATTR_DEST 0, dest), (DRV_REC_ST_DEST_SET 0, 1)] = some v →
      rd u (f.up (0x30 * i)) = v % 2 ^ f.w := fun hv => by
    rw [hu]
    exact rd_wrs_lastTo s ((fits_up [(DRV_REC_ATTR_DEST 0, dest), (DRV_REC_ST_DEST_SET 0, 1)] (0x30 * i)).trans rfl) ((lastTo_up _ _ _).trans hv)
  rw [← hu]
  refine ⟨_, rfl, ?_, ?_, hres, hidx, regsOnly_trans (regsOnly_mono (hu ▸ regsOnly_wrs s _) (by simp)) (regsOnly_mono hregs (by simp))⟩
  · rw [rd_of_cellsBut_one hregs.2 (by simp only [DRV_REC_ATTR_DEST, DRV_DEST_STAT_RESULT]; omega)]
    exact hw (f := DRV_REC_ATTR_DEST 0) rfl
  · rw [rd_of_cellsBut_one hregs.2 (by simp only [DRV_REC_ST_DEST_SET, DRV_DEST_STAT_RESULT]; omega)]
    exact hw (f := DRV_REC_ST_DEST_SET 0) rfl

/-- A destination for an object that is not live leaves its result and the pending table, and changes nothing else. -/
theorem destPended_spec (s : State) (l : List (Nat × Nat)) {r : Nat} (hr : r < 8) : ∃ t,
    destResult (withDrv s { s.drv with dest := l }) r 0 = t ∧ rd t DRV_DEST_STAT_RESULT = r ∧ t.drv.dest = l ∧ partsBut [.regs, .drv] s t ∧
    cellsBut [DRV_DEST_STAT_RESULT.addr] s t := by
  obtain ⟨hres, -, hparts, hcells⟩ := destResult_spec (withDrv s { s.drv with dest := l }) hr 0
  refine ⟨_, rfl, hres, by rw [hparts .drv (by decide)]; rfl, ?_, hcells⟩
  exact partsBut_trans (partsBut_mono (partsBut_withDrv s _) (by decide)) (partsBut_mono hparts (by decide))

theorem destCode_lt (l : List (Nat × Nat)) (obj : Nat) (keep : Bool) : destCode l obj keep < 8 := by
  unfold destCode
  split_ifs <;> decide

/-- Settles O31: freeing by `exec_recordFree`, `cellAt_recFree` and `recFree_forgets`, hand-off in by `exec_handoffIn`, `hoTake_known` and
its siblings and `hoTaken_spec`, destinations by `exec_destCmd`, `destCmd_set`, `destCmd_done` and `destCmd_none`. -/
theorem recordsAreFreedAndHandedOn : Obligations.RecordsAreFreedAndHandedOn := by
  unfold Obligations.RecordsAreFreedAndHandedOn
  refine ⟨fun s i hb hi hst hl w hw => ?_, fun s i => ?_, fun s c hb hc he ha => exec_handoffIn hb hc he ha,
    fun s c j obj ent x hx hobj hent => ?_, fun s0 s ini obj dest keep f hb hs hf => ?_⟩
  · rw [exec_recordFree hb hi hst hl, ← hw]
    exact ⟨fun h => by rw [if_neg (by omega)], fun hv hpos => by rw [if_pos ⟨hv, hpos⟩]⟩
  · obtain ⟨hwin, hother, hin, hhops, hopen⟩ := recFree_forgets s i
    exact ⟨_, rfl, cellAt_recFree s i, hwin, hother, rfl, hin, hhops, hopen, partsBut_recFree s i⟩
  · subst hobj hent
    refine ⟨hoTake_invalid hx, fun hv hk => ?_, fun hv hfreed hlive => ?_⟩
    · exact ⟨_, hoTake_known hx hv ((hoKnown_iff s _ _).2 hk), counted_spec s rfl rfl rfl (by decide)⟩
    · have hnew : hoKnown s (beNat (slice x 0 4)) (beNat (slice x 4 8)) = false := by
        rw [← Bool.not_eq_true, hoKnown_iff]
        exact fun h => h.elim hfreed fun ⟨i, hi, h⟩ => hlive i hi h
      refine ⟨hoTake_full hx hv hnew, fun i hi _ hd => ?_⟩
      rw [hoTake_free hx hv hnew hi]
      exact hoTaken_spec hd c i x
  · subst hf
    refine ⟨_, exec_destCmd hb hs ini obj dest keep, fun hw => hs.trans (matchWaiting_nil _ _ hw), fun i hi _ h => ?_, fun i hi h3 hm => ?_,
      fun hn => ?_⟩
    · rw [destCmd_set _ _ hi h]
      obtain ⟨t, ht, hdest, hset, hres, hidx, hregs⟩ := destSet_spec s (dest % 2 ^ 16) i
      rw [ht]
      exact ⟨hdest.trans (Nat.mod_mod _ _), hset, hres, hidx, hregs⟩
    · rw [destCmd_done _ _ hi h3 hm]
      obtain ⟨hres, -, hregs⟩ := destResult_spec s (r := 4) (by decide) i
      exact ⟨hres, hregs⟩
    · rw [destCmd_none _ _ hn]
      obtain ⟨t, ht, hres, hdest, hframe⟩ := destPended_spec s (destTable s.drv.dest (obj % 2 ^ 32) (dest % 2 ^ 16) keep)
        (destCode_lt s.drv.dest (obj % 2 ^ 32) keep)
      rw [ht]
      exact ⟨hres, hdest, hframe⟩

end Sys2Proof.Machine

/-! SUPPORT. Obligation O34: frames that a spur receives, PAUSE in both directions, and the management of the PHYs. -/

namespace Sys2Proof.Machine

/-! ## A frame reaches a spur (R205, R206, R208) -/

section
variable {s u : State} {dt sp : Nat} {f x : List Byte} (hu : u = advance s dt) (hb : s.rst.busy = false) (hsp : sp < 2)
  (hl : rd s (SPR_STAT_LINK sp) = 1) (hlen : 64 ≤ f.length) (hx : x = f.take (f.length - 4))
include hu hb hsp hl hlen hx

/-- A frame at a linked spur: too long, bad by its check value, or good and sorted by its type. -/
theorem exec_spurFrameReceive : exec (.spurFrameReceive dt sp f) s = .next (
    if 2020 < f.length then incSat u (SPR_CNT_ERR_DROP sp)
    else if beNat (f.drop (f.length - 4)) ≠ fcs32 x then
      (if ethType x = 0x8808 ∨ (ethType x = 0x88B6 ∧ rd s (SPR_CTRL_NATIVE_EN sp) = 1) then incSat u (SPR_CNT_ERR_FCS sp)
       else tunnelIn (incSat u (SPR_CNT_ERR_FCS sp)) sp x true)
    else if ethType x = 0x8808 then
      (if beNat (slice x 14 2) = 1 then pauseRx (incWrap u (SPR_CNT_RX_COUNT sp)) sp (beNat (slice x 16 2))
       else incWrap u (SPR_CNT_RX_COUNT sp))
    else if ethType x = 0x88B6 ∧ rd s (SPR_CTRL_NATIVE_EN sp) = 1 then nativeIn (incWrap u (SPR_CNT_RX_COUNT sp)) sp x
    else tunnelIn (incWrap u (SPR_CNT_RX_COUNT sp)) sp x false) := by
  subst hu hx
  have hb' : (advance s dt).rst.busy = false := hb
  have htaken : ¬(2 ≤ sp ∨ (!flag (advance s dt) (SPR_STAT_LINK sp)) = true ∨ f.length < 64) := by
    simp [flag, hl]; omega
  have hnative : flag (advance s dt) (SPR_CTRL_NATIVE_EN sp) = true ↔ rd s (SPR_CTRL_NATIVE_EN sp) = 1 := flag_iff s rfl
  change execSpurFrameReceive dt sp f s = _
  simp only [execSpurFrameReceive, whenAlive_alive _ _ hb', if_neg htaken, hnative, bne_iff_ne]

theorem spurFrame_long (h : 2020 < f.length) : exec (.spurFrameReceive dt sp f) s = .next (incSat u (SPR_CNT_ERR_DROP sp)) := by
  rw [exec_spurFrameReceive hu hb hsp hl hlen hx, if_pos h]

theorem spurFrame_bad (h : f.length ≤ 2020) (hf : beNat (f.drop (f.length - 4)) ≠ fcs32 x) : exec (.spurFrameReceive dt sp f) s =
    .next (if ethType x = 0x8808 ∨ (ethType x = 0x88B6 ∧ rd s (SPR_CTRL_NATIVE_EN sp) = 1) then incSat u (SPR_CNT_ERR_FCS sp)
      else tunnelIn (incSat u (SPR_CNT_ERR_FCS sp)) sp x true) := by
  rw [exec_spurFrameReceive hu hb hsp hl hlen hx, if_neg (by omega), if_pos hf]

/-- A good frame is counted, and then goes by its type: PAUSE, native, or into the tunnel. -/
theorem spurFrame_good (h : f.length ≤ 2020) (hf : beNat (f.drop (f.length - 4)) = fcs32 x) : ∃ t,
    rd t (SPR_CNT_RX_COUNT sp) = (rd s (SPR_CNT_RX_COUNT sp) + 1) % 2 ^ (SPR_CNT_RX_COUNT 0).w ∧
    regsOnly [(SPR_CNT_RX_COUNT sp).addr] u t ∧
    (ethType x = 0x8808 → beNat (slice x 14 2) = 1 → exec (.spurFrameReceive dt sp f) s = .next (pauseRx t sp (beNat (slice x 16 2)))) ∧
    (ethType x = 0x88B6 → rd s (SPR_CTRL_NATIVE_EN sp) = 1 → exec (.spurFrameReceive dt sp f) s = .next (nativeIn t sp x)) ∧
    (ethType x ≠ 0x8808 → (ethType x ≠ 0x88B6 ∨ rd s (SPR_CTRL_NATIVE_EN sp) = 0) →
      exec (.spurFrameReceive dt sp f) s = .next (tunnelIn t sp x false)) := by
  rw [exec_spurFrameReceive hu hb hsp hl hlen hx, if_neg (by omega), if_neg (not_not_intro hf)]
  refine ⟨incWrap u (SPR_CNT_RX_COUNT sp), ?_, regsOnly_wr u _ _, fun ht h1 => ?_, fun ht hn => ?_, fun ht hn => ?_⟩
  · rw [hu]
    exact rd_incWrap_self _ (SPR_CNT_RX_COUNT sp) (by decide : 0 + 32 ≤ 64)
  · rw [if_pos ht, if_pos h1]
  · rw [if_neg (by omega), if_pos ⟨ht, hn⟩]
  · rw [if_neg ht, if_neg (by omega)]

end

/-! ## Native frames and the tunnel (R207, R208) -/

theorem nativeType_iff (t : Nat) : nativeType t = true ↔ t ∈ [0x30, 0x32, 0x40, 0x60] := List.contains_iff_mem

theorem nativeIn_eq (s : State) (sp : Nat) (f : List Byte) : nativeIn s sp f =
    if nativeType (mType (slice f 14 20)) = false ∨ 2016 < mLen (slice f 14 20) then incSat s (SPR_CNT_ERR_DROP sp)
    else insertLocal s (1 + sp) (slice f 14 20) (slice f 34 (mLen (slice f 14 20))) := by
  simp only [nativeIn, Bool.not_eq_true']
  rfl

theorem tunnelIn_none {s : State} {sp : Nat} {x : List Byte} (h : tunnelResult s sp x = none) (bad : Bool) :
    tunnelIn s sp x bad = incSat s (SPR_CNT_ERR_DROP sp) := by
  rw [tunnelIn, h]

theorem tunnelEntry_disabled {s : State} (h : ∀ n < 256, rd s (SPR_TUN1_EN n) = 0) (sp : Nat) (x : List Byte) :
    tunnelEntry s sp x = none := by
  refine List.find?_eq_none.2 fun n hn => ?_
  rw [flag_false (h n (List.mem_range.1 hn))]
  simp

/-- Where no entry matches, the spur's default gives a hub, a group, or nothing (R207). -/
theorem tunnelResult_default {s : State} {sp : Nat} {x : List Byte} (h : tunnelEntry s sp x = none) : tunnelResult s sp x =
    if rd s (SPR_DEFAULT_ACT sp) = 1 then some (rd s (SPR_DEFAULT_HUB sp), rd s (SPR_DEFAULT_DPORT sp), false)
    else if rd s (SPR_DEFAULT_ACT sp) = 2 then some (rd s (SPR_DEFAULT_GROUP sp), 0, true) else none := by
  rw [tunnelResult, h]
  dsimp only
  split
  next h1 => rw [if_pos h1]
  next h2 => rw [h2]; rfl
  next h1 h2 => rw [if_neg h1, if_neg h2]

/-! ## PAUSE (R206) -/

/-- A PAUSE frame received, where the spur heeds it: PAUSED, and the instant at which the stated time is over. -/
def pauseHeld (s : State) (sp t : Nat) : State :=
  withXb (wrB s (SPR_STAT_PAUSED sp) (t != 0)) { s.xb with
    pauseEnd := tput (fun _ => 0) s.xb.pauseEnd sp (if t = 0 then 0 else ftNs s + pauseNs s sp t) }

theorem pauseRx_eq (s : State) (sp t : Nat) : pauseRx s sp t =
    if rd s (SPR_CTRL_PAUSE_RX sp) = 1 then pauseHeld s sp t else s := by
  simp only [pauseRx, flag_iff s (f := SPR_CTRL_PAUSE_RX sp) rfl]
  rfl

theorem pauseHeld_spec (s : State) (sp t : Nat) : rd (pauseHeld s sp t) (SPR_STAT_PAUSED sp) = (if t = 0 then 0 else 1) ∧
    (t ≠ 0 → tget (fun _ => 0) (pauseHeld s sp t).xb.pauseEnd sp = ftNs s + pauseNs s sp t) ∧
    partsBut [.regs, .xb] s (pauseHeld s sp t) ∧ cellsBut [(SPR_STAT_PAUSED sp).addr] s (pauseHeld s sp t) := by
  refine ⟨?_, fun h => ?_, ?_, cellsBut_wr s (SPR_STAT_PAUSED sp) _⟩
  · refine (rd_wrB s (f := SPR_STAT_PAUSED sp) (t != 0) rfl rfl).trans ?_
    by_cases h : t = 0 <;> simp [natOf, h]
  · exact (tget_tput_self _ _ _ _).trans (if_neg h)
  · exact partsBut_trans (partsBut_mono (partsBut_wr s (SPR_STAT_PAUSED sp) _) (by decide))
      (partsBut_mono (partsBut_withXb _ _) (by decide))

section
variable {s : State} {sp : Nat} (hb : s.rst.busy = false) (hsp : sp < 2)
include hb hsp

theorem exec_pauseReceived (t : Nat) : exec (.pauseReceived sp t) s =
    .next (if rd s (SPR_CTRL_PAUSE_RX sp) = 1 then pauseHeld s sp t else s) := by
  rw [← pauseRx_eq]
  exact congrArg Host.Outcome.next ((whenAlive_alive s _ hb).trans (if_pos hsp))

theorem exec_pauseExpiry (hp : rd s (SPR_STAT_PAUSED sp) = 1) : exec (.pauseExpiry sp) s =
    .next (wr (advanceTo s (tget (fun _ => 0) s.xb.pauseEnd sp)) (SPR_STAT_PAUSED sp) 0) :=
  congrArg Host.Outcome.next ((whenAlive_alive s _ hb).trans (if_pos ⟨hsp, flag_true hp⟩))

theorem exec_pauseRepeat (hx : rd s (SPR_STAT_XOFF sp) = 1) {t : State}
    (ht : t = advanceTo s (tget (fun _ => 0) s.xb.pauseSent sp + pauseNs s sp 0xFFFF / 2)) : exec (.pauseRepeat sp) s =
    .next (if rd s (SPR_PAUSE_XON sp) < heldFrom t sp then pauseSend t sp else t) := by
  have hxon : rd s (SPR_PAUSE_XON sp) = rd t (SPR_PAUSE_XON sp) := by rw [ht, rd_advanceTo]
  rw [hxon, ht]
  exact congrArg Host.Outcome.next ((whenAlive_alive s _ hb).trans (if_pos ⟨hsp, flag_true hx⟩))

end

theorem pauseSend_spec (s : State) (sp : Nat) : (pauseSend s sp).out = .spurFrame sp (pauseFrame s 0xFFFF) false :: s.out ∧
    tget (fun _ => 0) (pauseSend s sp).xb.pauseSent sp = ftNs s ∧ partsBut [.xb, .out] s (pauseSend s sp) :=
  ⟨rfl, tget_tput_self _ _ _ _, partsBut_trans (partsBut_mono (partsBut_withXb s _) (by decide))
    (partsBut_mono (partsBut_emit (withXb s _) _) (by decide))⟩

/-! ## The management of the PHYs (R205) -/

/-- The register of a transfer, as a write of it with GO leaves it before the transfer starts. -/
def mdioSet (s : State) (op phy reg data : Nat) : State :=
  wrs s [(SPR_MDIO_OP, op), (SPR_MDIO_PHY, phy), (SPR_MDIO_REG, reg), (SPR_MDIO_DATA, data)]

theorem mdioSet_spec (s : State) {op phy reg data : Nat} (ho : op < 4) (hp : phy < 32) (hr : reg < 32) (hd : data < 65536) :
    rd (mdioSet s op phy reg data) SPR_MDIO_OP = op ∧ rd (mdioSet s op phy reg data) SPR_MDIO_PHY = phy ∧
    rd (mdioSet s op phy reg data) SPR_MDIO_REG = reg ∧ rd (mdioSet s op phy reg data) SPR_MDIO_DATA = data ∧
    regsOnly [SPR_MDIO_GO.addr] s (mdioSet s op phy reg data) := by
  simp only [mdioSet, wrs_cons, wrs_nil]
  refine ⟨?_, ?_, ?_, ?_, ?_⟩
  · rw [rd_wr_apart _ _ rfl rfl, rd_wr_apart _ _ rfl rfl, rd_wr_apart _ _ rfl rfl]
    exact (rd_wr_same _ op rfl).trans (Nat.mod_eq_of_lt ho)
  · rw [rd_wr_apart _ _ rfl rfl, rd_wr_apart _ _ rfl rfl]
    exact (rd_wr_same _ phy rfl).trans (Nat.mod_eq_of_lt hp)
  · rw [rd_wr_apart _ _ rfl rfl]
    exact (rd_wr_same _ reg rfl).trans (Nat.mod_eq_of_lt hr)
  · exact (rd_wr_same _ data rfl).trans (Nat.mod_eq_of_lt hd)
  · exact regsOnly_trans (regsOnly_wr s SPR_MDIO_OP _) (regsOnly_trans (regsOnly_wr _ SPR_MDIO_PHY _)
      (regsOnly_trans (regsOnly_wr _ SPR_MDIO_REG _) (regsOnly_wr _ SPR_MDIO_DATA _)))

theorem mdioGo_spec (s : State) : rd (mdioGo s) SPR_MDIO_GO = 1 ∧ (∀ f, SPR_MDIO_GO.apart f = true → rd (mdioGo s) f = rd s f) ∧
    (∃ w, (mdioGo s).out = .serial 1 0 w :: s.out) ∧ partsBut [.regs, .out] s (mdioGo s) ∧ cellsBut [SPR_MDIO_GO.addr] s (mdioGo s) := by
  unfold mdioGo
  refine ⟨(rd_emit _ _ _).trans (rd_wr_bit s 1 rfl rfl), fun f hf => (rd_emit _ _ f).trans (rd_wr_apart s 1 rfl hf), ⟨_, by rw [emit_out, wr_out]⟩,
    partsBut_trans (partsBut_mono (partsBut_wr s SPR_MDIO_GO 1) (by decide)) (partsBut_mono (partsBut_emit _ _) (by decide)),
    fun a ha => (cellAt_emit _ _ a).trans (cellsBut_wr s SPR_MDIO_GO 1 a ha)⟩

/-- GO starts a transfer with the operands of the write (R205). -/
theorem exec_mdioGo_spec {s : State} (hb : s.rst.busy = false) {op phy reg data : Nat} (ho : op < 4) (hp : phy < 32) (hr : reg < 32)
    (hd : data < 65536) : ∃ t, exec (.mdioGo op phy reg data) s = .next t ∧ rd t SPR_MDIO_GO = 1 ∧ rd t SPR_MDIO_OP = op ∧
    rd t SPR_MDIO_PHY = phy ∧ rd t SPR_MDIO_REG = reg ∧ rd t SPR_MDIO_DATA = data ∧ (∃ w, t.out = .serial 1 0 w :: s.out) ∧
    partsBut [.regs, .out] s t ∧ cellsBut [SPR_MDIO_GO.addr] s t := by
  obtain ⟨hop, hphy, hreg, hdata, hparts, hcells⟩ := mdioSet_spec s ho hp hr hd
  obtain ⟨hgo, hkept, ⟨w, hout⟩, hparts', hcells'⟩ := mdioGo_spec (mdioSet s op phy reg data)
  exact ⟨_, congrArg Host.Outcome.next (whenAlive_alive s _ hb), hgo, (hkept _ rfl).trans hop, (hkept _ rfl).trans hphy,
    (hkept _ rfl).trans hreg, (hkept _ rfl).trans hdata, ⟨w, hout.trans (congrArg _ (hparts .out (by decide)))⟩,
    partsBut_trans (partsBut_mono hparts (by decide)) hparts', cellsBut_trans hcells hcells'⟩

theorem exec_mdioDone {s : State} (hb : s.rst.busy = false) (hgo : rd s SPR_MDIO_GO = 1) (data : Nat) : exec (.mdioDone data) s =
    .next (if rd s SPR_MDIO_OP = 2 then wr (wr s SPR_MDIO_GO 0) SPR_MDIO_DATA data else wr s SPR_MDIO_GO 0) :=
  congrArg Host.Outcome.next ((whenAlive_alive s _ hb).trans (if_pos (flag_true hgo)))

/-- The end of a transfer clears GO, and a read gives the PHY's word (R205). -/
theorem exec_mdioDone_spec {s : State} (hb : s.rst.busy = false) (hgo : rd s SPR_MDIO_GO = 1) (data : Nat) : ∃ t,
    exec (.mdioDone data) s = .next t ∧ rd t SPR_MDIO_GO = 0 ∧
    rd t SPR_MDIO_DATA = (if rd s SPR_MDIO_OP = 2 then data % 2 ^ 16 else rd s SPR_MDIO_DATA) ∧ regsOnly [SPR_MDIO_GO.addr] s t := by
  have hdone : rd (wr s SPR_MDIO_GO 0) SPR_MDIO_GO = 0 := rd_wr_bit s 0 rfl rfl
  rw [exec_mdioDone hb hgo]
  by_cases hop : rd s SPR_MDIO_OP = 2
  · rw [if_pos hop, if_pos hop]
    exact ⟨_, rfl, (rd_wr_apart _ _ rfl rfl).trans hdone, rd_wr_same _ data rfl,
      regsOnly_trans (regsOnly_wr s SPR_MDIO_GO 0) (regsOnly_wr _ SPR_MDIO_DATA data)⟩
  · rw [if_neg hop, if_neg hop]
    exact ⟨_, rfl, hdone, rd_wr_apart s 0 rfl rfl, regsOnly_wr s SPR_MDIO_GO 0⟩

/-- Settles O34: a frame by `spurFrame_long`, `spurFrame_bad` and `spurFrame_good`, native frames and the tunnel by `nativeIn_eq` and
`tunnelResult_default`, PAUSE by `pauseHeld_spec`, `exec_pauseRepeat` and `pauseSend_spec`, the PHYs by `exec_mdioGo_spec` and
`exec_mdioDone_spec`. -/
theorem spursReceivePauseAndManage : Obligations.SpursReceivePauseAndManage := by
  unfold Obligations.SpursReceivePauseAndManage
  refine ⟨fun s u dt sp f x hu hb hsp hl hlen hx => ⟨spurFrame_long hu hb hsp hl hlen hx, spurFrame_bad hu hb hsp hl hlen hx,
      spurFrame_good hu hb hsp hl hlen hx⟩, fun s sp f h hh => ?_, fun s sp x bad h => tunnelIn_none h bad, fun s sp x h => ?_,
    fun s sp t hb hsp => ?_, fun s sp hb hsp => ⟨fun hp => ?_, fun t ht hx => exec_pauseRepeat hb hsp hx ht⟩,
    fun s sp => ⟨_, rfl, pauseSend_spec s sp⟩, fun s op phy reg data hb ho hp hr hd => exec_mdioGo_spec hb ho hp hr hd,
    fun s data hb hgo => exec_mdioDone_spec hb hgo data⟩
  · subst hh
    rw [nativeIn_eq, ← nativeType_iff]
    exact ⟨fun ht hlen => if_neg (by simp [ht, hlen]), fun h => if_pos (h.imp_left Bool.eq_false_of_not_eq_true)⟩
  · have hnone := tunnelEntry_disabled h sp x
    exact ⟨hnone, tunnelResult_default hnone⟩
  · refine ⟨_, exec_pauseReceived hb hsp t, ?_⟩
    split
    · exact pauseHeld_spec s sp t
    · rfl
  · exact ⟨_, exec_pauseExpiry hb hsp hp, rd_wr_bit _ 0 rfl rfl, regsOnly_wr _ (SPR_STAT_PAUSED sp) 0⟩

end Sys2Proof.Machine

/-! SUPPORT. Obligation O54: accesses, the receive queue, frame insertion and STAT of the Local Port. -/

namespace Sys2Proof.Machine

/-! ## Answers of the port (R324) -/

/-- The bridge with a change of its own state alone. -/
def withFry (s : State) (y : Fry) : State := { s with fry := y }

theorem partsBut_withFry (s : State) (y : Fry) : partsBut [.fry] s (withFry s y) := by
  intro p hp
  cases p <;> simp [Part.same, withFry] at hp ⊢

theorem lpSay_spec (s : State) (bs : List Byte) : (lpSay s bs).out = .lpData bs :: s.out ∧
    (lpSay s bs).fry = { s.fry with lpBusy := false, csRise := ftNs s } ∧ partsBut [.fry, .out] s (lpSay s bs) :=
  ⟨rfl, rfl, partsBut_trans (partsBut_mono (partsBut_emit s _) (by decide))
    (partsBut_mono (partsBut_withFry (s.emit (.lpData bs)) _) (by decide))⟩

theorem lpEnd_eq (s : State) (st : Nat) (data : List Nat) : lpEnd s st data =
    lpSay s (if st = 0 then BitVec.ofNat 8 (0x80 + st) :: wordBytes data else [BitVec.ofNat 8 (0x80 + st)]) := by
  rw [lpEnd]
  exact congrArg (lpSay s) (apply_ite _ _ _ _)

/-! ## Accesses at local addresses (R160, R313, R389) -/

/-- No word of the request has to wait for the Treadle or for the flash. -/
def waitless (s : State) (r : Req) : Prop :=
  ∀ k < r.count, waitsP4 s ((r.addr + 4 * k) % 2 ^ 32) = false ∧ waitsNor s ((r.addr + 4 * k) % 2 ^ 32) = false

theorem anyWord_false {r : Req} {p : Nat → Bool} (h : ∀ k < r.count, p ((r.addr + 4 * k) % 2 ^ 32) = false) : anyWord r p = false :=
  List.any_eq_false.2 fun k hk => by rw [h k (List.mem_range.1 hk)]; decide

theorem reqLocal_runs {s : State} {r : Req} (h : waitless s r) (ini : Nat) : reqLocal s ini r = reqRun s ini r := by
  rw [reqLocal, anyWord_false fun k hk => (h k hk).1, anyWord_false fun k hk => (h k hk).2]
  simp

/-- A request of the Local Port ends with its answer, unless its words have reset the hub domain or given the port up. -/
theorem reqRun_localPort {s : State} {r : Req} {y : Ran} (hy : y = wordsRun s 3 r) (hb : y.s.rst.busy = false)
    (hp : y.s.fry.lpBusy = true) : reqRun s 3 r = lpEnd y.s y.st y.data := by
  subst hy
  simp only [reqRun, hb, hp, iniLp, Bool.false_eq_true, if_false, if_true]

/-! ## Commands of the port (R324, R325) -/

section
variable {s : State} (hb : s.rst.busy = false) (he : rd s LP_CTRL_EN = 1)
include hb he

theorem lpTrans_resting (hr : rd s SYS_STATE_STATE = stResting) (f : State → State) : lpTrans s f = lpEnd s 6 [] :=
  (whenAlive_alive s _ hb).trans ((if_pos (flag_true he)).trans (if_pos hr))

variable (hr : rd s SYS_STATE_STATE ≠ stResting)
include hr

theorem lpTrans_serves (f : State → State) : lpTrans s f = f s :=
  (whenAlive_alive s _ hb).trans ((if_pos (flag_true he)).trans (if_neg hr))

variable {op a count mask : Nat} {data : List Nat}

/-- The checks of an access, in their order (R324, R325). -/
theorem lpServe_eq : lpServe s op a count mask data =
    if rd s LP_CTRL_ACC = 0 ∨ (rd s LP_CTRL_ACC = 1 ∧ op ≠ 1) then lpEnd s 5 []
    else if rd s SYS_STATE_STATE = stDump then lpEnd s 6 []
    else if count = 0 ∨ 256 < count ∨ a % 4 ≠ 0 then lpEnd s 8 []
    else if isOutbound a = true then outbound (withFry s { s.fry with lpBusy := true }) 3 op a count mask data
    else reqLocal (withFry s { s.fry with lpBusy := true }) 3 (reqOf (rd s SYS_HUB_ID_ID) 3 0 op a count mask data false) :=
  lpTrans_serves hb he hr _

theorem lpServe_denied (h : rd s LP_CTRL_ACC = 0 ∨ (rd s LP_CTRL_ACC = 1 ∧ op ≠ 1)) : lpServe s op a count mask data = lpEnd s 5 [] := by
  rw [lpServe_eq hb he hr, if_pos h]

variable (hacc : rd s LP_CTRL_ACC ≠ 0) (hop : 2 ≤ rd s LP_CTRL_ACC ∨ op = 1)
include hacc hop

theorem lpServe_dump (hd : rd s SYS_STATE_STATE = stDump) : lpServe s op a count mask data = lpEnd s 6 [] := by
  rw [lpServe_eq hb he hr, if_neg (by omega), if_pos hd]

variable (hd : rd s SYS_STATE_STATE ≠ stDump)
include hd

theorem lpServe_badReq (h : count = 0 ∨ 256 < count ∨ a % 4 ≠ 0) : lpServe s op a count mask data = lpEnd s 8 [] := by
  rw [lpServe_eq hb he hr, if_neg (by omega), if_neg hd, if_pos h]

variable (h1 : 1 ≤ count) (h256 : count ≤ 256) (h4 : a % 4 = 0)
include h1 h256 h4

theorem lpServe_outbound (ho : isOutbound a = true) :
    lpServe s op a count mask data = outbound (withFry s { s.fry with lpBusy := true }) 3 op a count mask data := by
  rw [lpServe_eq hb he hr, if_neg (by omega), if_neg hd, if_neg (by omega), if_pos ho]

/-- An access at local addresses that nothing holds up ends with what its words gave. -/
theorem lpServe_local (ho : isOutbound a = false)
    (hw : ∀ k < 256, waitsP4 s ((a + 4 * k) % 2 ^ 32) = false ∧ waitsNor s ((a + 4 * k) % 2 ^ 32) = false) {y : Ran}
    (hy : y = wordsRun (withFry s { s.fry with lpBusy := true }) 3 (reqOf (rd s SYS_HUB_ID_ID) 3 0 op a count mask data false))
    (hyb : y.s.rst.busy = false) (hyp : y.s.fry.lpBusy = true) : lpServe s op a count mask data = lpEnd y.s y.st y.data := by
  have hfree : waitless (withFry s { s.fry with lpBusy := true }) (reqOf (rd s SYS_HUB_ID_ID) 3 0 op a count mask data false) :=
    fun k hk => hw k (Nat.lt_of_lt_of_le hk h256)
  rw [lpServe_eq hb he hr, if_neg (by omega), if_neg hd, if_neg (by omega), if_neg (by simp [ho]), reqLocal_runs hfree,
    reqRun_localPort hy hyb hyp]

end

theorem exec_lpRead (s : State) (a count : Nat) : exec (.lpRead a count) s = .next (lpServe s 1 (a % 2 ^ 32) count 0 []) := rfl

theorem exec_lpWrite (s : State) (a : Nat) (data : List Nat) :
    exec (.lpWrite a data) s = .next (lpServe s 2 (a % 2 ^ 32) data.length 0 data) := rfl

theorem exec_lpRmw (s : State) (a mask v : Nat) : exec (.lpRmw a mask v) s = .next (lpServe s 3 (a % 2 ^ 32) 1 mask [v]) := rfl

section
variable {s : State} (hb : s.rst.busy = false) (he : rd s LP_CTRL_EN = 1)
include hb he

theorem lpAccess_resting (hr : rd s SYS_STATE_STATE = stResting) (a count mask v : Nat) (data : List Nat) :
    exec (.lpRead a count) s = .next (lpEnd s 6 []) ∧ exec (.lpWrite a data) s = .next (lpEnd s 6 []) ∧
    exec (.lpRmw a mask v) s = .next (lpEnd s 6 []) := by
  simp only [exec_lpRead, exec_lpWrite, exec_lpRmw, lpServe, lpTrans_resting hb he hr, and_self]

theorem lpAccess_dump (hd : rd s SYS_STATE_STATE = stDump) (a count mask v : Nat) (data : List Nat) :
    (rd s LP_CTRL_ACC ≠ 0 → exec (.lpRead a count) s = .next (lpEnd s 6 [])) ∧
    (2 ≤ rd s LP_CTRL_ACC → exec (.lpWrite a data) s = .next (lpEnd s 6 []) ∧ exec (.lpRmw a mask v) s = .next (lpEnd s 6 [])) := by
  have hr : rd s SYS_STATE_STATE ≠ stResting := by rw [hd]; decide
  rw [exec_lpRead, exec_lpWrite, exec_lpRmw]
  refine ⟨fun h0 => ?_, fun h2 => ?_⟩
  · rw [lpServe_dump hb he hr h0 (.inr rfl) hd]
  · rw [lpServe_dump hb he hr (by omega) (.inl h2) hd, lpServe_dump hb he hr (by omega) (.inl h2) hd]
    exact ⟨rfl, rfl⟩

variable (hr : rd s SYS_STATE_STATE ≠ stResting)
include hr

theorem lpAccess_denied (a count mask v : Nat) (data : List Nat) :
    (rd s LP_CTRL_ACC = 0 → exec (.lpRead a count) s = .next (lpEnd s 5 [])) ∧
    (rd s LP_CTRL_ACC < 2 → exec (.lpWrite a data) s = .next (lpEnd s 5 []) ∧ exec (.lpRmw a mask v) s = .next (lpEnd s 5 [])) := by
  rw [exec_lpRead, exec_lpWrite, exec_lpRmw]
  refine ⟨fun h0 => ?_, fun h2 => ?_⟩
  · rw [lpServe_denied hb he hr (.inl h0)]
  · rw [lpServe_denied hb he hr (by omega), lpServe_denied hb he hr (by omega)]
    exact ⟨rfl, rfl⟩

variable (hd : rd s SYS_STATE_STATE ≠ stDump)
include hd

theorem lpAccess_badReq (a count mask v : Nat) (data : List Nat) :
    (rd s LP_CTRL_ACC ≠ 0 → (count = 0 ∨ 256 < count ∨ a % 4 ≠ 0) → exec (.lpRead a count) s = .next (lpEnd s 8 [])) ∧
    (2 ≤ rd s LP_CTRL_ACC → (data = [] ∨ 256 < data.length ∨ a % 4 ≠ 0) → exec (.lpWrite a data) s = .next (lpEnd s 8 [])) ∧
    (2 ≤ rd s LP_CTRL_ACC → a % 4 ≠ 0 → exec (.lpRmw a mask v) s = .next (lpEnd s 8 [])) := by
  rw [exec_lpRead, exec_lpWrite, exec_lpRmw, ← List.length_eq_zero_iff]
  refine ⟨fun h0 h => ?_, fun h2 h => ?_, fun h2 h => ?_⟩
  · rw [lpServe_badReq hb he hr h0 (.inr rfl) hd (by omega)]
  · rw [lpServe_badReq hb he hr (by omega) (.inl h2) hd (by omega)]
  · rw [lpServe_badReq hb he hr (by omega) (.inl h2) hd (by omega)]

variable {t : State} {a x : Nat} (ht : t = withFry s { s.fry with lpBusy := true }) (hx : x = a % 2 ^ 32) (h4 : a % 4 = 0)
include ht hx h4

theorem lpAccess_outbound (ho : isOutbound x = true) (count mask v : Nat) (data : List Nat) :
    (rd s LP_CTRL_ACC ≠ 0 → 1 ≤ count → count ≤ 256 → exec (.lpRead a count) s = .next (outbound t 3 1 x count 0 [])) ∧
    (2 ≤ rd s LP_CTRL_ACC → 1 ≤ data.length → data.length ≤ 256 →
      exec (.lpWrite a data) s = .next (outbound t 3 2 x data.length 0 data)) ∧
    (2 ≤ rd s LP_CTRL_ACC → exec (.lpRmw a mask v) s = .next (outbound t 3 3 x 1 mask [v])) := by
  have hx4 : x % 4 = 0 := by omega
  rw [exec_lpRead, exec_lpWrite, exec_lpRmw, ← hx, ht]
  refine ⟨fun h0 h1 h256 => ?_, fun h2 h1 h256 => ?_, fun h2 => ?_⟩
  · rw [lpServe_outbound hb he hr h0 (.inr rfl) hd h1 h256 hx4 ho]
  · rw [lpServe_outbound hb he hr (by omega) (.inl h2) hd h1 h256 hx4 ho]
  · rw [lpServe_outbound hb he hr (by omega) (.inl h2) hd (Nat.le_refl 1) (by decide) hx4 ho]

/-- Accesses at local addresses that nothing holds up, of which none resets the hub domain. -/
theorem lpAccess_local (ho : isOutbound x = false)
    (hw : ∀ k < 256, waitsP4 s ((x + 4 * k) % 2 ^ 32) = false ∧ waitsNor s ((x + 4 * k) % 2 ^ 32) = false) (count mask v : Nat)
    (data : List Nat) :
    (∀ y, rd s LP_CTRL_ACC ≠ 0 → 1 ≤ count → count ≤ 256 → y = readRun t 3 x count [] → y.s.rst.busy = false → y.s.fry.lpBusy = true →
      exec (.lpRead a count) s = .next (lpEnd y.s y.st y.data)) ∧
    (∀ y, 2 ≤ rd s LP_CTRL_ACC → 1 ≤ data.length → data.length ≤ 256 →
      y = writeRun t 3 x ((List.range data.length).map fun k => data.getD k 0) → y.s.rst.busy = false → y.s.fry.lpBusy = true →
      exec (.lpWrite a data) s = .next (lpEnd y.s y.st y.data)) ∧
    (∀ y, 2 ≤ rd s LP_CTRL_ACC → y = rmwRun t 3 x mask v → y.s.rst.busy = false → y.s.fry.lpBusy = true →
      exec (.lpRmw a mask v) s = .next (lpEnd y.s y.st y.data)) := by
  have hx4 : x % 4 = 0 := by omega
  rw [exec_lpRead, exec_lpWrite, exec_lpRmw, ← hx, ht]
  refine ⟨fun y h0 h1 h256 hy hyb hyp => ?_, fun y h2 h1 h256 hy hyb hyp => ?_, fun y h2 hy hyb hyp => ?_⟩
  · rw [lpServe_local hb he hr h0 (.inr rfl) hd h1 h256 hx4 ho hw hy hyb hyp]
  · rw [lpServe_local hb he hr (by omega) (.inl h2) hd h1 h256 hx4 ho hw hy hyb hyp]
  · rw [lpServe_local hb he hr (by omega) (.inl h2) hd (Nat.le_refl 1) (by decide) hx4 ho hw hy hyb hyp]

end

/-! ## The receive queue, frame insertion and STAT (R208, R324) -/

theorem insertOr_hubZero {s : State} {h p : List Byte} {sp : Nat} (ht : mType h = tReq) (hg : mGroup h = false) (hl : s.sys.loaded = true)
    (hd : mDst h = 0) : insertOr s sp h p = (.refused, s) := if_pos ⟨ht, by simp [hg], hd, hl⟩

theorem insertOr_inserts {s : State} {h : List Byte} (p : List Byte) (sp : Nat)
    (hn : mType h ≠ tReq ∨ mGroup h = true ∨ s.sys.loaded = false ∨ mDst h ≠ 0) :
    insertOr s sp h p = insertFrame s sp h p (ftNs s) := by
  refine if_neg fun ⟨ht, hg, hd, hl⟩ => ?_
  rcases hn with h | h | h | h
  · exact h ht
  · simp [h] at hg
  · simp [h] at hl
  · exact h hd

theorem sourceStatus_badReq {s : State} {h p : List Byte} (ht : mType h = tReq) (hg : mGroup h = false) (hl : s.sys.loaded = true)
    (hd : mDst h = 0 ∨ (mDst h = 4095 ∧ beNat (slice p 2 1) = 1)) (r : Inserted) : sourceStatus s h p r = some 8 := by
  rw [sourceStatus, if_neg (by simp [ht, hg, hl])]
  exact if_pos hd

/-- Of any other frame the source hub completes at most a request without a route, with NO_ROUTE (R15, R189). -/
theorem sourceStatus_else {s : State} {h p : List Byte} (hn : mType h ≠ tReq ∨ mGroup h = true ∨ s.sys.loaded = false ∨
    mDst h ≠ 0 ∧ (mDst h = 4095 → beNat (slice p 2 1) ≠ 1)) (r : Inserted) :
    sourceStatus s h p r = none ∨ (r = .noRoute ∧ sourceStatus s h p r = some 7) := by
  by_cases hreq : mType h ≠ tReq ∨ mGroup h = true ∨ (!s.sys.loaded) = true
  · exact .inl (if_pos hreq)
  · obtain ⟨h0, hall⟩ : mDst h ≠ 0 ∧ (mDst h = 4095 → beNat (slice p 2 1) ≠ 1) := by
      simp only [Bool.not_eq_true'] at hreq
      tauto
    have hst : sourceStatus s h p r = if r = .noRoute then some 7 else none := by
      rw [sourceStatus, if_neg hreq, if_neg fun g => g.elim h0 fun g => hall g.1 g.2]
      rfl
    by_cases hr : r = .noRoute
    · exact .inr ⟨hr, hst.trans (if_pos hr)⟩
    · exact .inl (hst.trans (if_neg hr))

section
variable {s : State} (hb : s.rst.busy = false) (he : rd s LP_CTRL_EN = 1)
include hb he

theorem lpQueueAndFrames_resting (hr : rd s SYS_STATE_STATE = stResting) : exec .lpRxfRd s = .next (lpEnd s 6 []) ∧
    (∀ h p, exec (.lpTxfWr h p) s = .next (lpEnd s 6 [])) ∧ exec .lpStat s = .next (lpEnd s 6 []) :=
  ⟨congrArg Host.Outcome.next (lpTrans_resting hb he hr _), fun _ _ => congrArg Host.Outcome.next (lpTrans_resting hb he hr _),
    congrArg Host.Outcome.next (lpTrans_resting hb he hr _)⟩

variable (hr : rd s SYS_STATE_STATE ≠ stResting)
include hr

theorem exec_lpRxfRd_empty (hq : s.fry.rxq = []) : exec .lpRxfRd s = .next (lpSay s [0x80, 0, 0]) := by
  refine congrArg Host.Outcome.next ((lpTrans_serves hb he hr _).trans ?_)
  rw [hq]
  rfl

theorem exec_lpRxfRd {f : List Byte} {l : List (List Byte)} (hq : s.fry.rxq = f :: l) :
    exec .lpRxfRd s = .next (lpSay (withFry s { s.fry with rxq := l }) (0x80 :: beBytes 2 f.length ++ f)) := by
  refine congrArg Host.Outcome.next ((lpTrans_serves hb he hr _).trans ?_)
  rw [hq]
  rfl

theorem exec_lpStat : exec .lpStat s = .next (lpSay s (0x80 :: wordBytes [cellGet (seenCell s LP_EVT_CONTEND.addr).1 0 32,
    cellGet (seenCell s LP_STAT_MREQ.addr).1 0 32])) :=
  congrArg Host.Outcome.next (lpTrans_serves hb he hr _)

theorem exec_lpTxfWr_foreign {h : List Byte} (hn : nativeType (mType h) = false) (p : List Byte) :
    exec (.lpTxfWr h p) s = .next (lpSay s.used [BitVec.ofNat 8 (0x80 + freeOf s 4)]) :=
  congrArg Host.Outcome.next ((lpTrans_serves hb he hr _).trans (if_pos (by rw [hn]; rfl)))

variable {h p : List Byte} {r : Inserted × State} (hn : nativeType (mType h) = true) (hi : insertOr s 3 h p = r)
include hn hi

/-- A request that this hub completes itself ends with its status. -/
theorem exec_lpTxfWr_completed {st : Nat} (hs : sourceStatus s h p r.1 = some st) : exec (.lpTxfWr h p) s = .next (lpEnd r.2 st []) := by
  subst hi
  refine congrArg Host.Outcome.next ((lpTrans_serves hb he hr _).trans ((if_neg (by simp [hn])).trans ?_))
  dsimp only
  rw [hs]

/-- Any other frame ends with what became of its insertion; that of a frame refused is a free value (log entry 1). -/
theorem exec_lpTxfWr_inserted (hs : sourceStatus s h p r.1 = none) :
    (r.1 = .ok → exec (.lpTxfWr h p) s = .next (lpEnd r.2 0 [])) ∧ (r.1 = .noRoute → exec (.lpTxfWr h p) s = .next (lpEnd r.2 7 [])) ∧
    (r.1 = .refused → exec (.lpTxfWr h p) s = .next (lpSay r.2.used [BitVec.ofNat 8 (0x80 + freeOf r.2 4)])) := by
  subst hi
  refine ⟨fun hv => ?_, fun hv => ?_, fun hv => ?_⟩ <;>
  · refine congrArg Host.Outcome.next ((lpTrans_serves hb he hr _).trans ((if_neg (by simp [hn])).trans ?_))
    dsimp only
    rw [hs, hv] <;> rfl

/-- A native frame that this hub does not answer with BAD_REQ. -/
theorem exec_lpTxfWr_native (hc : mType h ≠ tReq ∨ mGroup h = true ∨ s.sys.loaded = false ∨
    mDst h ≠ 0 ∧ (mDst h = 4095 → beNat (slice p 2 1) ≠ 1)) :
    (r.1 = .ok → exec (.lpTxfWr h p) s = .next (lpEnd r.2 0 [])) ∧ (r.1 = .noRoute → exec (.lpTxfWr h p) s = .next (lpEnd r.2 7 [])) ∧
    (r.1 = .refused → exec (.lpTxfWr h p) s = .next (lpSay r.2.used [BitVec.ofNat 8 (0x80 + freeOf r.2 4)])) := by
  obtain hs | ⟨hv, hs⟩ := sourceStatus_else hc r.1
  · exact exec_lpTxfWr_inserted hb he hr hn hi hs
  · refine ⟨fun h => absurd (hv.symm.trans h) (by decide), fun _ => exec_lpTxfWr_completed hb he hr hn hi hs,
      fun h => absurd (hv.symm.trans h) (by decide)⟩

end

/-- Settles O54: accesses by `lpAccess_denied` and its siblings, the receive queue by `exec_lpRxfRd`, insertion by `exec_lpTxfWr_completed` and
`exec_lpTxfWr_native`, every answer by `lpSay_spec` and `lpEnd_eq`. -/
theorem localPortIsServed : Obligations.LocalPortIsServed := by
  unfold Obligations.LocalPortIsServed
  refine ⟨fun s a count mask v acc data hb he hacc => ?_, fun s hb he hr => lpQueueAndFrames_resting hb he hr, fun s hb he hr =>
    ⟨exec_lpRxfRd_empty hb he hr, fun f l hq => ?_, fun h p ht hg hl => ?_, fun h p u hn hu hc => ?_,
      fun h p hn => exec_lpTxfWr_foreign hb he hr hn p, exec_lpStat hb he hr⟩,
    fun s bs st data => ⟨⟨_, rfl, lpSay_spec s bs⟩, lpEnd_eq s st data⟩⟩
  · subst hacc
    refine ⟨fun hr => lpAccess_resting hb he hr a count mask v data, fun hr => (lpAccess_denied hb he hr a count mask v data).1,
      fun hr => (lpAccess_denied hb he hr a count mask v data).2, fun hd => lpAccess_dump hb he hd a count mask v data, fun hr hd => ?_⟩
    obtain ⟨hread, hwrite, hrmw⟩ := lpAccess_badReq hb he hr hd a count mask v data
    exact ⟨hread, hwrite, hrmw, fun t x ht hx h4 => ⟨fun ho => lpAccess_outbound hb he hr hd ht hx h4 ho count mask v data,
      fun ho hw => lpAccess_local hb he hr hd ht hx h4 ho hw count mask v data⟩⟩
  · obtain ⟨hout, hfry, hparts⟩ := lpSay_spec (withFry s { s.fry with rxq := l }) (0x80 :: beBytes 2 f.length ++ f)
    exact ⟨_, exec_lpRxfRd hb he hr hq, hfry, hout, partsBut_trans (partsBut_mono (partsBut_withFry s _) (by decide)) hparts⟩
  · have hn : nativeType (mType h) = true := by rw [ht]; decide
    refine ⟨fun h0 => ?_, fun h1 h2 => ?_⟩
    · exact exec_lpTxfWr_completed hb he hr hn (insertOr_hubZero ht hg hl h0) (sourceStatus_badReq ht hg hl (.inl h0) _)
    · exact exec_lpTxfWr_completed hb he hr hn (insertOr_inserts p 3 (by omega)) (sourceStatus_badReq ht hg hl (.inr ⟨h1, h2⟩) _)
  · subst hu
    exact exec_lpTxfWr_native hb he hr hn (insertOr_inserts p 3 (by tauto)) hc

end Sys2Proof.Machine

/-! SUPPORT. Obligation O38: the pins of a serial channel, LP_IRQ_N, and the pins that follow from the start. -/

namespace Sys2Proof.Machine

/-! ## The pins of a channel (R213, R216, R217, R219) -/

/-- A channel that holds no pins drives none (R213). -/
theorem chnPin_unheld {s : State} {n : Nat} (h : (s.chn n).pins = []) (k : Nat) : chnPin s n k = .undriven := if_pos h

section
variable {s : State} {n : Nat} (hp : (s.chn n).pins ≠ [])
include hp

/-- TXD carries data while a UART channel sends. -/
theorem chnPin_txd (hm : chnMode s n = 1) (h : uartSends s n = true) : chnPin s n 0 = .data := by
  refine (if_neg hp).trans ?_
  rw [hm]
  exact if_pos h

/-- Pin C of a UART channel under RS485 is DE. -/
theorem chnPin_de (hm : chnMode s n = 1) (h : modep s n 4 1 = 1) : chnPin s n 2 = if deOn s n = true then .high else .low := by
  refine (if_neg hp).trans ?_
  rw [hm]
  exact if_pos h

/-- Without RS485 and under RTSCTS it is RTS, low while 64 bytes of the RX queue are free. -/
theorem chnPin_rts (hm : chnMode s n = 1) (h4 : modep s n 4 1 = 0) (h5 : modep s n 5 1 = 1) :
    chnPin s n 2 = if rxUsed s n + 64 ≤ rxSize s n then .low else .high := by
  have hrts : rtsAsserted s n = true ↔ rxUsed s n + 64 ≤ rxSize s n := decide_eq_true_iff
  simp only [← hrts]
  refine (if_neg hp).trans ?_
  rw [hm]
  exact (if_neg (by rw [h4]; decide)).trans (if_pos h5)

/-- Clock and MOSI of an SPI channel carry data while a line is selected. -/
theorem chnPin_spi_data (hm : chnMode s n = 2) {k : Nat} (h : (s.chn n).cs = some k) :
    chnPin s n 0 = .data ∧ chnPin s n 1 = .data := by
  have hsel : (s.chn n).cs.isSome = true := by rw [h]; rfl
  constructor <;>
  · refine (if_neg hp).trans ?_
    rw [hm]
    exact if_pos hsel

/-- CS0 is low while it is selected, and at its idle level otherwise. -/
theorem chnPin_cs0 (hm : chnMode s n = 2) :
    chnPin s n 3 = if (s.chn n).cs = some 0 then .low else (s.chn n).pins.getD 3 .undriven := by
  refine (if_neg hp).trans ?_
  rw [hm]
  rfl

/-- I2C and SSI carry their signals in a transfer. -/
theorem chnPin_i2c_data (hx : (s.chn n).xfer ≠ .none) (hm : chnMode s n = 3) : chnPin s n 0 = .data ∧ chnPin s n 1 = .data := by
  constructor <;>
  · refine (if_neg hp).trans ?_
    rw [hm]
    exact if_neg hx

theorem chnPin_ssi_clock (hx : (s.chn n).xfer ≠ .none) (hm : chnMode s n = 4) : chnPin s n 0 = .data := by
  refine (if_neg hp).trans ?_
  rw [hm]
  exact if_neg hx

end

/-! ## Pins that follow from the start (R323, R326, R407, R411) -/

theorem lpIrqLow_iff (s : State) : lpIrqLow s = true ↔ s.rst.busy = false ∧ s.sys.loaded = true ∧
    (s.fry.rxq ≠ [] ∨ rdW s LP_EVT_CONTEND.addr &&& rdW s LP_IRQ_EN_EN.addr ≠ 0) := by
  simp only [lpIrqLow, irqOf, Bool.and_eq_true, Bool.or_eq_true, Bool.not_eq_true', bne_iff_ne, List.isEmpty_eq_false_iff, and_assoc,
    or_comm]

theorem mdcLow_iff (s : State) : mdcLow s = true ↔ s.rst.busy = true ∨ rd s SYS_STEP_STEP < 9 := by
  simp only [mdcLow, Bool.or_eq_true, decide_eq_true_eq]

/-- Settles O38: the pins of a channel by `chnPin_txd` and its siblings, LP_IRQ_N by `lpIrqLow_iff`, SP_MDC by `mdcLow_iff`. -/
theorem pinsFollowTheState : Obligations.PinsFollowTheState := by
  unfold Obligations.PinsFollowTheState
  refine ⟨fun s n => ⟨chnPin_unheld, fun hp hm => ⟨chnPin_txd hp hm, chnPin_de hp hm, chnPin_rts hp hm⟩,
      fun hp hm => ⟨fun k hk => chnPin_spi_data hp hm hk, fun h => ?_, fun h => ?_⟩,
      fun hp hx => ⟨chnPin_i2c_data hp hx, chnPin_ssi_clock hp hx⟩⟩,
    fun s => ⟨fun h => ?_, fun hb hl => ?_, rfl, (mdcLow_iff s).symm⟩⟩
  · rw [chnPin_cs0 hp hm, if_pos h]
  · rw [chnPin_cs0 hp hm, if_neg h]
  · rw [← Bool.not_eq_true, lpIrqLow_iff]
    rintro ⟨hb, hl, -⟩
    rcases h with h | h
    · simp [hb] at h
    · simp [hl] at h
  · rw [lpIrqLow_iff, and_iff_right hb, and_iff_right hl]

end Sys2Proof.Machine

/-! SUPPORT. Obligation O36: the start of a transfer on a serial channel. -/

namespace Sys2Proof.Machine

/-! ## What follows from the registers of a channel alone -/

theorem chnMode_congr {s t : State} (h : t.regs = s.regs) (n : Nat) : chnMode t n = chnMode s n := by
  simp only [chnMode, rd_congr _ h]

theorem modep_congr {s t : State} (h : t.regs = s.regs) (n lo w : Nat) : modep t n lo w = modep s n lo w := by
  simp only [modep, rd_congr _ h]

theorem csLine_congr {s t : State} (h : t.regs = s.regs) (n k : Nat) : csLine t n k = csLine s n k := by
  have hrd : rd t = rd s := funext fun f => rd_congr f h
  unfold csLine flag
  rw [hrd]

/-! ## Frames of one channel -/

theorem chnFrame_trans {n : Nat} {l : List Nat} {s t u : State} (h : chnFrame n l s t) (g : chnFrame n l t u) : chnFrame n l s u :=
  ⟨partsBut_trans h.1 g.1, cellsBut_trans h.2.1 g.2.1, fun m hm => (g.2.2 m hm).trans (h.2.2 m hm)⟩

theorem chnFrame_of_regsOnly {n : Nat} {l : List Nat} {s t : State} (h : regsOnly l s t) : chnFrame n l s t :=
  ⟨partsBut_mono h.1 (by decide), h.2, fun m _ => State.chn_congr m (h.1 .chns (by decide))⟩

theorem chnFrame_mono {n : Nat} {l m : List Nat} {s t : State} (h : chnFrame n l s t) (hm : ∀ a ∈ l, a ∈ m) : chnFrame n m s t :=
  ⟨h.1, cellsBut_mono h.2.1 hm, h.2.2⟩

/-! ## Chip selects (R214, R217, R265) -/

theorem csLevel_free {s : State} {n k l : Nat} (h : csLine s n k = some l) (hr : rd s (DIO_STAT_RELEASED l) = 0) (b : Bool) :
    csLevel s n k b = s.setLine l { s.line l with drive := some b } := by
  simp only [csLevel, h, flag_false hr, Bool.false_eq_true, if_false]

/-- A chip select drives its own line alone. -/
theorem line_csLevel_ne {s : State} {n k m : Nat} (h : csLine s n k ≠ some m) (b : Bool) : (csLevel s n k b).line m = s.line m := by
  unfold csLevel
  split
  · rfl
  · next l hl =>
    split
    · rfl
    · rw [State.line_setLine, if_neg]
      rintro rfl
      exact h hl

/-! ## The bounds of a transfer (R216, R217, R219) -/

/-- A channel beside its registers as a transfer begins. -/
def begunChn (c : Chn) (x : Xfer) (now : Nat) : Chn := { c with xfer := x, startAt := now, area := [], areaLine := false }

theorem xferBegin_spi {s : State} {n : Nat} (h : chnMode s n = 2) (len dev : Nat) (x : Xfer) : xferBegin s n len dev x =
    csLevel (s.setChn n { begunChn (s.chn n) x (ftNs s) with cs := some dev }) n dev false := if_pos h

theorem xferBegin_uart {s : State} {n : Nat} (h : chnMode s n = 1) (len dev : Nat) (x : Xfer) : xferBegin s n len dev x =
    s.setChn n { begunChn (s.chn n) x (ftNs s) with
      sent := ftNs s + bitsNs s n (deLead s n + len * charBits s n), ctsLeft := none } :=
  (if_neg (by rw [h]; decide)).trans (if_pos h)

theorem xferBegin_else {s : State} {n : Nat} (h2 : chnMode s n ≠ 2) (h1 : chnMode s n ≠ 1) (len dev : Nat) (x : Xfer) :
    xferBegin s n len dev x = s.setChn n (begunChn (s.chn n) x (ftNs s)) :=
  (if_neg h2).trans (if_neg h1)

/-- The channel that a transfer begins on, and what its beginning leaves alone. -/
theorem xferBegin_setChn {s : State} {n : Nat} (h : chnMode s n ≠ 2) (len dev : Nat) (x : Xfer) : ∃ c, xferBegin s n len dev x = s.setChn n c ∧
    c.xfer = x ∧ c.startAt = ftNs s ∧ c.area = [] ∧ c.txq = (s.chn n).txq ∧ c.rxq = (s.chn n).rxq ∧
    (chnMode s n = 1 → c.sent = ftNs s + bitsNs s n (deLead s n + len * charBits s n) ∧ c.ctsLeft = none) := by
  by_cases h1 : chnMode s n = 1
  · exact ⟨_, xferBegin_uart h1 len dev x, rfl, rfl, rfl, rfl, rfl, fun _ => ⟨rfl, rfl⟩⟩
  · exact ⟨_, xferBegin_else h h1 len dev x, rfl, rfl, rfl, rfl, rfl, fun h => absurd h h1⟩

theorem xferBegin_spec (s : State) (n len dev : Nat) (x : Xfer) : ∃ v, xferBegin s n len dev x = v ∧ (v.chn n).xfer = x ∧
    (v.chn n).startAt = ftNs s ∧ (v.chn n).area = [] ∧ (v.chn n).txq = (s.chn n).txq ∧ (v.chn n).rxq = (s.chn n).rxq ∧
    (chnMode s n = 1 → (v.chn n).sent = ftNs s + bitsNs s n (deLead s n + len * charBits s n) ∧ (v.chn n).ctsLeft = none) ∧
    (chnMode s n = 2 → (v.chn n).cs = some dev ∧ ∀ l, csLine s n dev = some l → rd s (DIO_STAT_RELEASED l) = 0 → (v.line l).drive = some false) ∧
    partsBut [.chns, .lines] s v ∧ (∀ m, m ≠ n → v.chn m = s.chn m) ∧
    ∀ m, chnMode s n ≠ 2 ∨ csLine s n dev ≠ some m → v.line m = s.line m := by
  by_cases h2 : chnMode s n = 2
  · obtain ⟨t, ht⟩ : ∃ t, t = s.setChn n { begunChn (s.chn n) x (ftNs s) with cs := some dev } := ⟨_, rfl⟩
    have hparts := partsBut_csLevel t n dev false
    have hchn : ∀ m, (csLevel t n dev false).chn m = t.chn m := fun m => State.chn_congr m (hparts .chns (by decide))
    have hself : (csLevel t n dev false).chn n = { begunChn (s.chn n) x (ftNs s) with cs := some dev } := by
      rw [hchn, ht, State.chn_setChn_self]
    have hline : csLine t n dev = csLine s n dev := csLine_congr (by rw [ht]; rfl) n dev
    refine ⟨_, xferBegin_spi h2 len dev x, ?_⟩
    rw [← ht]
    refine ⟨by rw [hself]; rfl, by rw [hself]; rfl, by rw [hself]; rfl, by rw [hself]; rfl, by rw [hself]; rfl,
      fun h1 => absurd (h1.symm.trans h2) (by decide), fun _ => ⟨by rw [hself], fun l hl hr => ?_⟩, ?_, fun m hm => ?_, fun m hm => ?_⟩
    · rw [csLevel_free (hline.trans hl) (by rw [ht, rd_setChn, hr]), State.line_setLine_self]
    · exact partsBut_trans (ht ▸ partsBut_mono (partsBut_setChn s n _) (by decide)) (partsBut_mono hparts (by decide))
    · rw [hchn, ht, State.chn_setChn, if_neg hm]
    · rw [line_csLevel_ne (by rw [hline]; exact hm.resolve_left (absurd h2)), ht, State.line_setChn]
  · obtain ⟨c, hc, hx, hat, harea, htx, hrx, huart⟩ := xferBegin_setChn h2 len dev x
    refine ⟨_, hc, ?_⟩
    rw [State.chn_setChn_self]
    exact ⟨hx, hat, harea, htx, hrx, huart, fun h => absurd h h2, partsBut_mono (partsBut_setChn s n c) (by decide),
      fun m hm => by rw [State.chn_setChn, if_neg hm], fun m _ => State.line_setChn s n c m⟩

theorem xferEnd_ssi {s : State} {n : Nat} (h : chnMode s n = 4) :
    xferEnd s n = s.setChn n { s.chn n with idleTo := ftNs s + 1000 * modep s n 8 8 } :=
  (if_neg (by rw [h]; decide)).trans (if_pos h)

theorem xferEnd_else {s : State} {n : Nat} (h2 : chnMode s n ≠ 2) (h4 : chnMode s n ≠ 4) : xferEnd s n = s :=
  (if_neg h2).trans (if_neg h4)

/-- An SPI transfer ends: the chip select is held for CS_HOLD, then high for CS_IDLE (R217). -/
theorem xferEnd_spi {s t : State} {n : Nat} (h : chnMode s n = 2) (ht : t = advanceTo s (ftNs s + 4 * modep s n 16 8)) : ∃ v,
    xferEnd s n = v ∧ v.chn n = { s.chn n with cs := none, idleTo := ftNs t + 4 * modep t n 24 8 } ∧
    (∀ k l, (s.chn n).cs = some k → csLine s n k = some l → rd s (DIO_STAT_RELEASED l) = 0 → (v.line l).drive = some true) ∧
    partsBut [.chns, .lines] t v ∧ ∀ m, m ≠ n → v.chn m = s.chn m := by
  obtain ⟨u, hu⟩ : ∃ u, u = csLevel t n ((t.chn n).cs.getD 0) true := ⟨_, rfl⟩
  have hregs : t.regs = s.regs := by rw [ht, advanceTo_regs]
  have hparts : partsBut [.lines] t u := hu ▸ partsBut_csLevel _ _ _ _
  have hchn : ∀ m, u.chn m = s.chn m := fun m => by rw [State.chn_congr m (hparts .chns (by decide)), ht, State.chn_advanceTo]
  have hend : xferEnd s n = u.setChn n { u.chn n with cs := none, idleTo := ftNs t + 4 * modep t n 24 8 } := by
    rw [modep_congr hregs, hu, ht]
    exact if_pos h
  have hmine : t.chn n = s.chn n := by rw [ht, State.chn_advanceTo]
  refine ⟨_, hend, by rw [State.chn_setChn_self, hchn], fun k l hk hl hr => ?_,
    partsBut_trans (partsBut_mono hparts (by decide)) (partsBut_mono (partsBut_setChn u n _) (by decide)),
    fun m hm => by rw [State.chn_setChn, if_neg hm, hchn]⟩
  rw [State.line_setChn, hu, hmine, hk, Option.getD_some, csLevel_free ((csLine_congr hregs n k).trans hl) ((rd_congr _ hregs).trans hr),
    State.line_setLine_self]

/-! ## An attempt of the list starts (R225, R226, R228, R304, R306) -/

theorem asyServes_iff (s : State) : asyServes s = true ↔ rd s ASY_STATUS_FAILED ≠ 0xFFFF := bne_iff_ne

/-- What the line of an attempt carries: on SPI 0xFF for each byte read beyond the request. -/
def attemptBytes (s : State) (n t : Nat) (bs : List Byte) : List Byte :=
  if chnMode s n = 2 then bs ++ List.replicate (desc s n t 2 0 10) 0xFF else bs

/-- The device an attempt addresses: a chip select, an I2C address, or the ninth bit of a UART. -/
def attemptDev (s : State) (n t : Nat) : Nat :=
  if chnMode s n = 2 then desc s n t 3 16 2 else if chnMode s n = 3 then desc s n t 3 18 10 + 1024 * desc s n t 3 28 1
  else if chnMode s n = 1 then modep s n 6 1 else 0

/-- The bytes an attempt reads behind its request. -/
def attemptRead (s : State) (n t : Nat) : Nat :=
  if chnMode s n = 3 then desc s n t 2 0 10 else if chnMode s n = 4 then (modep s n 0 7 + 7) / 8 else 0

section
variable {s : State} {n t : Nat} (ht : t = rd s (CHN_STAT_CUR n))
include ht

theorem startAttempt_damaged (h : pollBad s n t = true) : startAttempt s n = transactionEnd s n 8 [] := by
  subst ht
  exact if_pos h

theorem startAttempt_noUnit (h : pollBad s n t = false) (hu : desc s n t 3 14 2 ≠ 0) (hs : rd s ASY_STATUS_FAILED = 0xFFFF) :
    startAttempt s n = transactionEnd (wr s ASY_EVT_NO_UNIT 1) n 6 [] := by
  subst ht
  have hserves : (!asyServes s) = true := by simp [asyServes, hs]
  rw [startAttempt, if_neg (by rw [h]; decide), if_pos ⟨hu, hserves⟩]
  rfl

theorem startAttempt_sends (h : pollBad s n t = false) (hu : desc s n t 3 14 2 = 0 ∨ rd s ASY_STATUS_FAILED ≠ 0xFFFF)
    {bs : List Byte} {s1 : State}
    (hreq : (bs, s1) = if bitOf (desc s n t 3 14 2) 0 = true then asyAppend s (desc s n t 3 8 6) (buildRequest s n t) else (buildRequest s n t, s)) :
    startAttempt s n = (xferBegin s1 n (attemptBytes s n t bs).length (attemptDev s n t) (.attempt (attemptBytes s n t bs))).emit
      (.chnRequest n (attemptBytes s n t bs) (attemptRead s n t) (attemptDev s n t) (lineHow s n)) := by
  subst ht
  have hserved : ¬(desc s n (rd s (CHN_STAT_CUR n)) 3 14 2 ≠ 0 ∧ (!asyServes s) = true) := by
    rw [Bool.not_eq_true', ← Bool.not_eq_true, asyServes_iff]
    tauto
  rw [startAttempt, if_neg (by rw [h]; decide), if_neg hserved]
  simp only [← hreq]
  rfl

end

/-- A transaction without inserts sends its template. -/
theorem buildRequest_template {s : State} {n t : Nat} (h : iEnts s n t = []) : buildRequest s n t = template s n t := by
  rw [buildRequest, h, List.foldl_nil]

/-! ## A frame of the TX queue starts (R221, R304, R306) -/

/-- With no unit in service a frame that needs a check value is discarded and counted. -/
theorem startFrame_noUnit {s : State} {n : Nat} (hq : bitOf (rd s (CHN_CFG_QUSE n)) 0 = true) (hs : rd s ASY_STATUS_FAILED = 0xFFFF)
    (f : List Byte) (rest : List (List Byte)) : ∃ v, startFrame s n f rest = v ∧ (v.chn n).txq = rest ∧
    rd v (CHN_CNT_C_TX_ABORT n) = min (rd s (CHN_CNT_C_TX_ABORT n) + 1) (2 ^ (CHN_CNT_C_TX_ABORT 0).w - 1) ∧ rd v ASY_EVT_NO_UNIT = 1 ∧
    chnFrame n [(CHN_CNT_C_TX_ABORT n).addr, ASY_EVT_NO_UNIT.addr] s v := by
  obtain ⟨s0, hs0⟩ : ∃ s0, s0 = s.setChn n { s.chn n with txq := rest } := ⟨_, rfl⟩
  have hserves : (!asyServes s) = true := by simp [asyServes, hs]
  have heq : startFrame s n f rest = incSat (wr s0 ASY_EVT_NO_UNIT 1) (CHN_CNT_C_TX_ABORT n) := by
    rw [hs0]
    exact if_pos ⟨hq, hserves⟩
  have hne : (CHN_CNT_C_TX_ABORT n).addr ≠ ASY_EVT_NO_UNIT.addr := by
    simp only [CHN_CNT_C_TX_ABORT, ASY_EVT_NO_UNIT]; omega
  have hregs : regsOnly [(CHN_CNT_C_TX_ABORT n).addr, ASY_EVT_NO_UNIT.addr] s0 (incSat (wr s0 ASY_EVT_NO_UNIT 1) (CHN_CNT_C_TX_ABORT n)) :=
    regsOnly_trans (regsOnly_mono (regsOnly_wr s0 _ 1) (by simp)) (regsOnly_mono (regsOnly_addSat _ _ 1) (by simp))
  refine ⟨_, heq, ?_, ?_, ?_, chnFrame_trans (hs0 ▸ chnFrame_setChn (regsOnly_refl _ s) _) (chnFrame_of_regsOnly hregs)⟩
  · rw [State.chn_congr n (hregs.1 .chns (by decide)), hs0, State.chn_setChn_self]
  · rw [rd_incSat_self _ _ (by simp [CHN_CNT_C_TX_ABORT]), rd_wr_addr _ _ _ _ hne, hs0, rd_setChn]
    rfl
  · rw [incSat, addSat, rd_wr_addr _ _ _ _ hne.symm]
    exact rd_wr_same s0 1 (by decide)

/-- The device a queue frame addresses: I2C takes it from the frame's first byte. -/
def frameDev (s : State) (n : Nat) (bs : List Byte) : Nat :=
  if chnMode s n = 3 then (bs.getD 0 0).toNat % 128 else if chnMode s n = 1 then modep s n 6 1 else 0

theorem startFrame_sends {s s0 s1 : State} {n : Nat} {f bs : List Byte} {rest : List (List Byte)}
    (hs : bitOf (rd s (CHN_CFG_QUSE n)) 0 = false ∨ rd s ASY_STATUS_FAILED ≠ 0xFFFF) (hs0 : s0 = s.setChn n { s.chn n with txq := rest })
    (hreq : (bs, s1) = if bitOf (rd s (CHN_CFG_QUSE n)) 0 = true then asyAppend s0 (rd s (CHN_CFG_QCTX n)) f else (f, s0)) :
    startFrame s n f rest = (xferBegin s1 n bs.length (if chnMode s n = 2 then 0 else frameDev s n bs) (.frame bs)).emit
      (.chnRequest n (if chnMode s n = 3 then bs.drop 2 else bs) (if chnMode s n = 3 then (bs.getD 1 0).toNat else 0)
        (frameDev s n bs) (lineHow s n)) := by
  have hserved : ¬(bitOf (rd s (CHN_CFG_QUSE n)) 0 = true ∧ (!asyServes s) = true) := by
    rw [Bool.not_eq_true', ← Bool.not_eq_true (asyServes s), asyServes_iff]
    rcases hs with h | h
    · simp [h]
    · tauto
  rw [startFrame, if_neg hserved]
  simp only [← hs0, ← hreq]
  rfl

/-! ## TRANSFER_START (R218, R221, R225, R320) -/

/-- BUS_STUCK as SDA of an I2C channel shows it: cleared where SDA is high, set where it stays low (R218). -/
def sdaSeen (u : State) (n sda : Nat) : State :=
  if chnMode u n ≠ 3 then u
  else if sda = 0 then wr u (CHN_STAT_BUS_STUCK n) 0 else if 2 ≤ sda then wr u (CHN_STAT_BUS_STUCK n) 1 else u

theorem sdaSeen_elsewhere {u : State} {n : Nat} (h : chnMode u n ≠ 3) (sda : Nat) : sdaSeen u n sda = u := if_pos h

theorem sdaSeen_high {u : State} {n : Nat} (h : chnMode u n = 3) : sdaSeen u n 0 = wr u (CHN_STAT_BUS_STUCK n) 0 := by
  rw [sdaSeen, if_neg (not_not.2 h), if_pos rfl]

theorem sdaSeen_stuck {u : State} {n sda : Nat} (h : chnMode u n = 3) (h2 : 2 ≤ sda) : sdaSeen u n sda = wr u (CHN_STAT_BUS_STUCK n) 1 := by
  rw [sdaSeen, if_neg (not_not.2 h), if_neg (by omega), if_pos h2]

section
variable {s u : State} {dt n sda : Nat} (hu : u = advanceTo (advance s dt) (max (s.chn n).gapTo (s.chn n).idleTo))
  (hb : s.rst.busy = false) (hn : n < 48) (hst : rd s (CHN_STAT_STATE n) = 2) (hx : (s.chn n).xfer = .none)
  (hm : chnMode s n ∈ [1, 2, 3, 4]) (hcts : chnMode s n = 1 → modep s n 5 1 = 1 → (s.chn n).cts = true)
include hu

theorem transferStart_alike : u.regs = s.regs ∧ u.chn n = s.chn n := by
  rw [hu, advanceTo_regs, advance_regs, State.chn_advanceTo, State.chn_advance]
  exact ⟨rfl, rfl⟩

include hn hst hx hm hcts

/-- A channel in RUN whose line is free, with something to send. -/
theorem transferStart_begins (hw : rd s (CHN_STAT_BUSY n) = 1 ∨ (s.chn n).ferry ≠ [] ∨ (s.chn n).txq ≠ []) :
    ¬(48 ≤ n ∨ chnState u n ≠ cRun ∨ (u.chn n).xfer ≠ .none ∨ chnMode u n = 0 ∨ chnMode u n = mCan ∨
      ((!flag u (CHN_STAT_BUSY n)) = true ∧ (u.chn n).ferry = [] ∧ (u.chn n).txq = []) ∨
      (chnMode u n = mUart ∧ modep u n 5 1 = 1 ∧ (!(u.chn n).cts) = true)) := by
  obtain ⟨hregs, hchn⟩ := transferStart_alike hu
  have hrd : ∀ f, rd u f = rd s f := fun f => rd_congr f hregs
  rw [chnState, hrd, hchn, chnMode_congr hregs, modep_congr hregs]
  simp only [List.mem_cons, List.not_mem_nil, or_false] at hm
  rintro (h | h | h | h | h | ⟨hi, hf, hq⟩ | ⟨h1, h5, hc⟩)
  · omega
  · exact h hst
  · exact h hx
  · omega
  · simp only [mCan] at h
    omega
  · rcases hw with hw | hw | hw
    · rw [flag_true ((hrd _).trans hw)] at hi
      cases hi
    · exact hw hf
    · exact hw hq
  · rw [hcts h1 h5] at hc
    cases hc

include hb

/-- The running list goes first (R225). -/
theorem exec_transferStart_list (h : rd s (CHN_STAT_BUSY n) = 1) : exec (.transferStart dt n sda) s =
    .next (if chnMode s n = 3 ∧ 2 ≤ sda then attemptDone (lineErr (sdaSeen u n sda) n) n 5 [] else startAttempt (sdaSeen u n sda) n) := by
  have hguard := transferStart_begins hu hn hst hx hm hcts (.inl h)
  obtain ⟨hregs, hchn⟩ := transferStart_alike hu
  have hbusy : flag u (CHN_STAT_BUSY n) = true := flag_true ((rd_congr _ hregs).trans h)
  change execTransferStart dt n sda s = _
  simp only [execTransferStart, whenAlive_alive _ _ (show (advance s dt).rst.busy = false by simpa using hb), State.chn_advance, ← hu]
  rw [if_neg hguard]
  simp only [hbusy, if_true, ← chnMode_congr hregs]
  rfl

/-- A waiting access of the Ferryman goes next (R320). -/
theorem exec_transferStart_ferry (h : rd s (CHN_STAT_BUSY n) = 0) {k : Nat} {rest : List Nat} (hf : (s.chn n).ferry = k :: rest) {v : State}
    (hv : v = sdaSeen u n sda) : exec (.transferStart dt n sda) s =
    .next (if chnMode s n = 3 ∧ 2 ≤ sda then endReq (lineErr (v.setChn n { v.chn n with ferry := rest }) n) k 2 [] else startFerry v n k rest) := by
  have hguard := transferStart_begins hu hn hst hx hm hcts (.inr (.inl (by rw [hf]; simp)))
  obtain ⟨hregs, hchn⟩ := transferStart_alike hu
  have hbusy : flag u (CHN_STAT_BUSY n) = false := flag_false ((rd_congr _ hregs).trans h)
  change execTransferStart dt n sda s = _
  simp only [execTransferStart, whenAlive_alive _ _ (show (advance s dt).rst.busy = false by simpa using hb), State.chn_advance, ← hu]
  rw [if_neg hguard]
  simp only [hbusy, Bool.false_eq_true, if_false, hchn, hf, ← chnMode_congr hregs, hv]
  rfl

/-- The head of the TX queue goes last (R221). -/
theorem exec_transferStart_frame (h : rd s (CHN_STAT_BUSY n) = 0) (hf : (s.chn n).ferry = []) {f : List Byte} {rest : List (List Byte)}
    (hq : (s.chn n).txq = f :: rest) {v : State} (hv : v = sdaSeen u n sda) : exec (.transferStart dt n sda) s =
    .next (if chnMode s n = 3 ∧ 2 ≤ sda then lineErr (v.setChn n { v.chn n with txq := rest }) n else startFrame v n f rest) := by
  have hguard := transferStart_begins hu hn hst hx hm hcts (.inr (.inr (by rw [hq]; simp)))
  obtain ⟨hregs, hchn⟩ := transferStart_alike hu
  have hbusy : flag u (CHN_STAT_BUSY n) = false := flag_false ((rd_congr _ hregs).trans h)
  change execTransferStart dt n sda s = _
  simp only [execTransferStart, whenAlive_alive _ _ (show (advance s dt).rst.busy = false by simpa using hb), State.chn_advance, ← hu]
  rw [if_neg hguard]
  simp only [hbusy, Bool.false_eq_true, if_false, hchn, hf, hq, ← chnMode_congr hregs, hv]
  rfl

/-- What TRANSFER_START does, by the state of the channel: SDA first, then the list, the Ferryman and the TX queue. -/
theorem transferStart_spec :
    (rd s (CHN_STAT_BUSY n) = 1 → chnMode s n ≠ 3 → exec (.transferStart dt n sda) s = .next (startAttempt u n)) ∧
    (chnMode s n = 3 → 2 ≤ sda → ∃ v, rd v (CHN_STAT_BUS_STUCK n) = 1 ∧ regsOnly [(CHN_STAT_BUS_STUCK n).addr] u v ∧
      (rd s (CHN_STAT_BUSY n) = 1 → exec (.transferStart dt n sda) s = .next (attemptDone (lineErr v n) n 5 [])) ∧
      (∀ k rest, rd s (CHN_STAT_BUSY n) = 0 → (s.chn n).ferry = k :: rest →
        exec (.transferStart dt n sda) s = .next (endReq (lineErr (v.setChn n { v.chn n with ferry := rest }) n) k 2 [])) ∧
      (∀ f rest, rd s (CHN_STAT_BUSY n) = 0 → (s.chn n).ferry = [] → (s.chn n).txq = f :: rest →
        exec (.transferStart dt n sda) s = .next (lineErr (v.setChn n { v.chn n with txq := rest }) n))) ∧
    (rd s (CHN_STAT_BUSY n) = 1 → chnMode s n = 3 → sda = 0 → ∃ v, rd v (CHN_STAT_BUS_STUCK n) = 0 ∧
      regsOnly [(CHN_STAT_BUS_STUCK n).addr] u v ∧ exec (.transferStart dt n sda) s = .next (startAttempt v n)) ∧
    (∀ k rest, rd s (CHN_STAT_BUSY n) = 0 → chnMode s n ≠ 3 → (s.chn n).ferry = k :: rest →
      exec (.transferStart dt n sda) s = .next (startFerry u n k rest)) ∧
    (∀ f rest, rd s (CHN_STAT_BUSY n) = 0 → chnMode s n ≠ 3 → (s.chn n).ferry = [] → (s.chn n).txq = f :: rest →
      exec (.transferStart dt n sda) s = .next (startFrame u n f rest)) := by
  have hmode : chnMode u n = chnMode s n := chnMode_congr (transferStart_alike hu).1 n
  have hfree : chnMode s n ≠ 3 → u = sdaSeen u n sda := fun h => (sdaSeen_elsewhere (hmode.trans_ne h) sda).symm
  refine ⟨fun h h3 => ?_, fun h3 h2 => ?_, fun h h3 h0 => ?_, fun k rest h h3 hf => ?_, fun f rest h h3 hf hq => ?_⟩
  · rw [exec_transferStart_list hu hb hn hst hx hm hcts h, if_neg fun hs => h3 hs.1, ← hfree h3]
  · have hv := sdaSeen_stuck (hmode.trans h3) h2
    refine ⟨_, rd_wr_self u _ 1 (by simp [CHN_STAT_BUS_STUCK]), regsOnly_wr u _ 1, fun h => ?_, fun k rest h hf => ?_, fun f rest h hf hq => ?_⟩
    · rw [exec_transferStart_list hu hb hn hst hx hm hcts h, if_pos ⟨h3, h2⟩, hv]
    · rw [exec_transferStart_ferry hu hb hn hst hx hm hcts h hf hv.symm, if_pos ⟨h3, h2⟩]
    · rw [exec_transferStart_frame hu hb hn hst hx hm hcts h hf hq hv.symm, if_pos ⟨h3, h2⟩]
  · subst h0
    refine ⟨_, rd_wr_self u _ 0 (by simp [CHN_STAT_BUS_STUCK]), regsOnly_wr u _ 0, ?_⟩
    rw [exec_transferStart_list hu hb hn hst hx hm hcts h, if_neg (by simp), sdaSeen_high (hmode.trans h3)]
  · rw [exec_transferStart_ferry hu hb hn hst hx hm hcts h hf (hfree h3), if_neg fun hs => h3 hs.1]
  · rw [exec_transferStart_frame hu hb hn hst hx hm hcts h hf hq (hfree h3), if_neg fun hs => h3 hs.1]

end

/-- Settles O36: the order by `transferStart_spec`, an attempt by `startAttempt_sends`, a queue frame by `startFrame_sends`, the bounds of a
transfer by `xferBegin_spec` and `xferEnd_spi`. -/
theorem transfersStart : Obligations.TransfersStart := by
  unfold Obligations.TransfersStart
  refine ⟨fun s u dt n sda hu hb hn hst hx hm hcts => transferStart_spec hu hb hn hst hx hm hcts, fun s n t use ht huse => ?_,
    fun s n h => buildRequest_template h, fun s n f rest => ⟨fun hq hs => startFrame_noUnit hq hs f rest, fun hs s0 bs s1 dev hs0 hreq hdev => ?_⟩,
    xferBegin_spec, fun s t n ht => ⟨fun h => xferEnd_spi h ht, xferEnd_ssi, xferEnd_else⟩⟩
  · subst huse
    refine ⟨startAttempt_damaged ht, startAttempt_noUnit ht, fun h hu bs s1 all dev read hreq hall hdev hread => ?_⟩
    subst hall hdev hread
    exact startAttempt_sends ht h hu hreq
  · subst hdev
    exact startFrame_sends hs hs0 hreq

end Sys2Proof.Machine

/-! SUPPORT. Obligation O35: the end of a transfer on a serial channel, of an attempt, of a transaction and of a run. -/

namespace Sys2Proof.Machine

/-! ## Line errors, the end of a transfer, and an instant that has come -/

/-- A line error is counted and sets its event (R226). -/
theorem lineErr_spec (s : State) (n : Nat) :
    rd (lineErr s n) (CHN_CNT_B_LINE_ERR n) = min (rd s (CHN_CNT_B_LINE_ERR n) + 1) (2 ^ (CHN_CNT_B_LINE_ERR 0).w - 1) ∧
    rd (lineErr s n) (CHN_EVT_LINE n) = 1 ∧ regsOnly [(CHN_CNT_B_LINE_ERR n).addr, (CHN_EVT_LINE n).addr] s (lineErr s n) :=
  counted_spec s rfl rfl rfl (by simp only [CHN_CNT_B_LINE_ERR, CHN_EVT_LINE]; omega)

/-- A line error takes no time. -/
theorem clk_lineErr (s : State) (n : Nat) (b : Bool) : (if b = true then lineErr s n else s).clk = s.clk := by
  obtain ⟨-, -, hregs⟩ := lineErr_spec s n
  cases b
  · rfl
  · exact hregs.1 .clk (by decide)

/-- The end of a transfer writes no register. -/
theorem regs_xferEnd (s : State) (n : Nat) : (xferEnd s n).regs = s.regs := by
  by_cases h2 : chnMode s n = 2
  · obtain ⟨v, hv, -, -, hparts, -⟩ := xferEnd_spi h2 rfl
    rw [hv, hparts .regs (by decide), advanceTo_regs]
  · by_cases h4 : chnMode s n = 4
    · rw [xferEnd_ssi h4, setChn_regs]
    · rw [xferEnd_else h2 h4]

theorem advanceTo_now (s : State) : advanceTo s (ftNs s) = s := if_pos (.inl (Nat.le_refl _))

/-! ## The judgement of a response (R226, R305) -/

/-- A line error decides before any other test. -/
theorem judgeResponse_line (s : State) (n t : Nat) (resp : List Byte) : judgeResponse s n t resp true = (5, resp, s) := rfl

/-- A response whose use asks for no check is judged by its length and by EXPECT. -/
theorem judgeResponse_unchecked {s : State} {n t : Nat} (h : bitOf (desc s n t 3 14 2) 1 = false) (resp : List Byte) :
    judgeResponse s n t resp false =
    (if respLimit s n t < resp.length ∨ expectMiss s n t resp = true then 7 else if (s.chn n).tries ≠ 0 then 1 else 0, resp, s) := by
  by_cases hp : respLimit s n t < resp.length ∨ expectMiss s n t resp = true
  · simp [judgeResponse, h, hp, pParse]
  · simp [judgeResponse, h, hp, pRetry, pOk]

/-! ## A UART response is collected (R216, R226, R228) -/

section
variable {s : State} {n t : Nat} {bs : List Byte} {line : Bool} (ht : t = rd s (CHN_STAT_CUR n)) (hc : (s.chn n).ctsLeft = none)
include ht hc

/-- A LENGTH transaction that expects no response ends with its request. -/
theorem collect_noAnswer (h : noAnswer s n t = true) : collect s n bs line =
    attemptDone (advanceTo s (s.chn n).sent) n (if (s.chn n).tries = 0 then 0 else 1) [] := by
  simp only [collect, hc, Option.isSome_none, Bool.false_eq_true, if_false, ← ht, h, if_true]
  rfl

/-- What comes while DE is asserted is ignored. -/
theorem collect_deaf (h : noAnswer s n t = false) (hd : deOn s n = true) : collect s n bs line = s := by
  simp only [collect, hc, Option.isSome_none, Bool.false_eq_true, if_false, ← ht, h, hd, if_true]

variable {u : State} {area : List Byte} (h : noAnswer s n t = false) (hd : deOn s n = false)
  (hu : u = if line = true then lineErr s n else s) (ha : area = (s.chn n).area ++ bs)
include h hd hu ha

/-- Bytes that no idle time has to follow join the response, which ends at TMO, at END, or not yet. -/
theorem collect_joins (hg : endMet u n t area = false ∨ desc s n t 1 16 2 ≠ 2) : collect s n bs line =
    if tmoAt s n (s.chn n).sent < ftNs s then attemptDone (advanceTo u (tmoAt s n (s.chn n).sent)) n 4 []
    else if endMet u n t area = true then attemptDone (judgeResponse u n t area ((s.chn n).areaLine || line)).2.2 n
      (judgeResponse u n t area ((s.chn n).areaLine || line)).1 (judgeResponse u n t area ((s.chn n).areaLine || line)).2.1
    else u.setChn n { s.chn n with area := area, areaLine := (s.chn n).areaLine || line } := by
  have hchn : u.chn n = s.chn n := by rw [hu, chn_lineErr]
  have hnow : ftNs s = ftNs u := by rw [ftNs, ftNs, hu, clk_lineErr]
  have hgap : ¬(desc s n t 1 16 2 = 2 ∧ endMet u n t area = true) := by
    rcases hg with hg | hg <;> simp [hg]
  simp only [collect, hc, Option.isSome_none, Bool.false_eq_true, if_false, ← ht, h, hd, ← hu, hchn, ← ha, if_neg hgap]
  rw [hnow, advanceTo_now]
  rfl

end

/-! ## An attempt ends (R226) -/

theorem startGap_eq (s : State) (n : Nat) :
    startGap s n = s.setChn n { s.chn n with xfer := .none, gapTo := ftNs s + rd s (CHN_PL2_TGAP n) * 1000 } := rfl

theorem tgap_ne_cntA (n : Nat) : (CHN_PL2_TGAP n).addr ≠ (CHN_CNT_A_RETRY n).addr := by
  simp only [CHN_PL2_TGAP, CHN_CNT_A_RETRY]; omega

/-- A failure is retried after the gap, and counted, while retries are left. -/
theorem attemptDone_retries {s : State} {n q : Nat} (h4 : 4 ≤ q) (h7 : q ≤ 7) (h : (s.chn n).tries < rd s (CHN_PL_RETRY n)) (r : List Byte) :
    ∃ t, attemptDone s n q r = t ∧
      rd t (CHN_CNT_A_RETRY n) = min (rd s (CHN_CNT_A_RETRY n) + 1) (2 ^ (CHN_CNT_A_RETRY 0).w - 1) ∧
      t.chn n = { s.chn n with xfer := .none, gapTo := ftNs s + rd s (CHN_PL2_TGAP n) * 1000, tries := (s.chn n).tries + 1 } ∧
      chnFrame n [(CHN_CNT_A_RETRY n).addr] s t := by
  obtain ⟨u, hu⟩ : ∃ u, u = incSat s (CHN_CNT_A_RETRY n) := ⟨_, rfl⟩
  have hcount : rd u (CHN_CNT_A_RETRY n) = min (rd s (CHN_CNT_A_RETRY n) + 1) (2 ^ (CHN_CNT_A_RETRY 0).w - 1) := by
    rw [hu, rd_incSat_self _ _ (by simp [CHN_CNT_A_RETRY])]
    rfl
  have hregs : regsOnly [(CHN_CNT_A_RETRY n).addr] s u := hu ▸ regsOnly_addSat s _ 1
  have hgap : rd u (CHN_PL2_TGAP n) = rd s (CHN_PL2_TGAP n) := rd_of_cellsBut_one hregs.2 (tgap_ne_cntA n)
  have hnow : ftNs u = ftNs s := by rw [ftNs, ftNs, hregs.1 .clk (by decide)]
  have heq : attemptDone s n q r =
      (startGap u n).setChn n { (startGap u n).chn n with tries := (s.chn n).tries + 1 } := by
    rw [hu]
    exact if_pos ⟨h4, h7, h⟩
  refine ⟨_, heq, ?_, ?_, ?_⟩
  · rw [rd_setChn, startGap_eq, rd_setChn, hcount]
  · rw [State.chn_setChn_self, startGap_eq, State.chn_setChn_self, hgap, hnow, State.chn_congr n (hregs.1 .chns (by decide))]
  · exact chnFrame_trans (startGap_eq u n ▸ chnFrame_setChn hregs _) (chnFrame_setChn (regsOnly_refl _ _) _)

/-- Any other outcome, and a failure with no retry left, ends the transaction. -/
theorem attemptDone_ends {s : State} {n q : Nat} (h : q < 4 ∨ 7 < q ∨ rd s (CHN_PL_RETRY n) ≤ (s.chn n).tries) (r : List Byte) :
    attemptDone s n q r = transactionEnd s n q r := by
  have hc : ¬(pTimeout ≤ q ∧ q ≤ pParse ∧ (s.chn n).tries < rd s (CHN_PL_RETRY n)) := by
    simp only [pTimeout, pParse]
    omega
  exact if_neg hc

/-! ## A transaction ends (R233 to R235) -/

section
variable {s : State} {n q t sw : Nat} (ht : t = rd s (CHN_STAT_CUR n)) (hsw : sw = swordOf s n t)
include ht hsw

/-- A failure writes QUAL and the count of failures alone to the status word. -/
theorem transactionEnd_fails (h : 2 < q) (r : List Byte) : transactionEnd s n q r = nextTransaction (pollFail (s.setStg sw
    (setBits (setBits (txStatus s n t) 0 4 q) 4 8 (min 255 (bits (txStatus s n t) 4 8 + 1)))) n t q) n := by
  simp only [transactionEnd, if_neg (show ¬q ≤ pCheck by simp only [pCheck]; omega), ← ht, ← hsw]

/-- A usable end of a transaction without extractors writes QUAL with no value delivered. -/
theorem transactionEnd_usable (h : q ≤ 2) (hx : xEnts s n t = []) (r : List Byte) :
    transactionEnd s n q r = nextTransaction (s.setStg sw q) n := by
  have hnone : extractAll s [] r = (0, s) := rfl
  simp only [transactionEnd, if_pos (show q ≤ pCheck from h), ← ht, hx, List.map_nil, hnone, ← hsw, Nat.zero_mul, Nat.add_zero]

end

/-- A failed end is counted, and reported where the transaction's FLT asks for it (R235). -/
theorem pollFail_spec (s : State) (n t q : Nat) : ∃ v, rd v (CHN_CNT_A_FAIL n) = min (rd s (CHN_CNT_A_FAIL n) + 1) (2 ^ (CHN_CNT_A_FAIL 0).w - 1) ∧
    regsOnly [(CHN_CNT_A_FAIL n).addr, (CHN_EVT_POLL_FAIL n).addr] s v ∧ (desc s n t 6 31 1 ≠ 1 → pollFail s n t q = v) ∧
    (desc s n t 6 31 1 = 1 → rd v (CHN_EVT_POLL_FAIL n) = 1 ∧ pollFail s n t q = raiseOnce v 64 (n + t * 64 + q * 4096)) := by
  by_cases h : desc s n t 6 31 1 = 1
  · obtain ⟨hcount, hevt, hregs⟩ := counted_spec s (c := CHN_CNT_A_FAIL n) (e := CHN_EVT_POLL_FAIL n) rfl rfl rfl
      (by simp only [CHN_CNT_A_FAIL, CHN_EVT_POLL_FAIL]; omega)
    exact ⟨_, hcount, hregs, fun hn => absurd h hn, fun _ => ⟨hevt, if_pos h⟩⟩
  · exact ⟨incSat s (CHN_CNT_A_FAIL n), rd_incSat_self s _ (by simp [CHN_CNT_A_FAIL]), regsOnly_mono (regsOnly_addSat s _ 1) (by simp),
      fun _ => if_neg h, fun hy => absurd hy h⟩

/-! ## The run goes on or ends (R224) -/

/-- A channel between two transactions of a run. -/
def untried (s : State) (n : Nat) : State := (startGap s n).setChn n { (startGap s n).chn n with tries := 0 }

theorem untried_spec (s : State) (n : Nat) :
    (untried s n).chn n = { s.chn n with xfer := .none, gapTo := ftNs s + rd s (CHN_PL2_TGAP n) * 1000, tries := 0 } ∧
    chnFrame n [] s (untried s n) := by
  refine ⟨?_, chnFrame_trans (startGap_eq s n ▸ chnFrame_setChn (regsOnly_refl _ s) _) (chnFrame_setChn (regsOnly_refl _ _) _)⟩
  rw [untried, State.chn_setChn_self, startGap_eq, State.chn_setChn_self]

/-- A channel behind the last transaction of a run. -/
def lastDone (s : State) (n : Nat) : State := (untried s n).setChn n { (untried s n).chn n with gapTo := 0 }

theorem lastDone_spec (s : State) (n : Nat) : (lastDone s n).chn n = { s.chn n with xfer := .none, gapTo := 0, tries := 0 } ∧
    chnFrame n [] s (lastDone s n) := by
  obtain ⟨hself, hframe⟩ := untried_spec s n
  exact ⟨by rw [lastDone, State.chn_setChn_self, hself], chnFrame_trans hframe (chnFrame_setChn (regsOnly_refl _ _) _)⟩

/-- The duration of a run in whole µs, as its register holds it. -/
def runUs (s : State) (n : Nat) : Nat := min 65535 (roundDiv ((ftNs s : Int) - (s.chn n).runStart) 1000).toNat

/-- The durations of runs and the status of the channel are different registers. -/
theorem rd_wr_times (s : State) (n a b : Nat) {f : Fld} (hf : f.addr = (CHN_STAT_CUR n).addr) :
    rd (wr (wr s (CHN_PL_TIME_LAST n) a) (CHN_PL_TIME_MAX n) b) f = rd s f := by
  have hne : f.addr ≠ (CHN_PL_TIME_LAST n).addr := by
    rw [hf]
    simp only [CHN_STAT_CUR, CHN_PL_TIME_LAST]; omega
  exact (rd_wr_addr _ (CHN_PL_TIME_MAX n) f b hne).trans (rd_wr_addr s (CHN_PL_TIME_LAST n) f a hne)

/-- The end of a run shows its duration, and the longest one (R224). -/
theorem runEnd_spec (s : State) (n : Nat) : rd (runEnd s n) (CHN_STAT_BUSY n) = 0 ∧ rd (runEnd s n) (CHN_STAT_CUR n) = 0 ∧
    rd (runEnd s n) (CHN_PL_TIME_LAST n) = runUs s n ∧ rd (runEnd s n) (CHN_PL_TIME_MAX n) = max (runUs s n) (rd s (CHN_PL_TIME_MAX n)) ∧
    regsOnly [(CHN_STAT_CUR n).addr, (CHN_PL_TIME_LAST n).addr] s (runEnd s n) := by
  have heq : runEnd s n = wr (wr (wr (wr s (CHN_STAT_BUSY n) 0) (CHN_STAT_CUR n) 0) (CHN_PL_TIME_LAST n) (runUs s n))
      (CHN_PL_TIME_MAX n) (max (runUs s n) (rd s (CHN_PL_TIME_MAX n))) := rfl
  have hus : runUs s n < 65536 := Nat.lt_succ_of_le (Nat.min_le_left _ _)
  have hmax : rd s (CHN_PL_TIME_MAX n) < 65536 := rd_lt s (CHN_PL_TIME_MAX n)
  rw [heq]
  refine ⟨?_, ?_, ?_, ?_, ?_⟩
  · rw [rd_wr_times (f := CHN_STAT_BUSY n) _ _ _ _ rfl, rd_wr_apart _ _ rfl rfl, rd_wr_same _ _ rfl]
    rfl
  · rw [rd_wr_times (f := CHN_STAT_CUR n) _ _ _ _ rfl, rd_wr_same _ _ rfl]
    rfl
  · rw [rd_wr_apart _ _ rfl rfl, rd_wr_same _ _ rfl]
    exact Nat.mod_eq_of_lt hus
  · rw [rd_wr_same _ _ rfl]
    exact Nat.mod_eq_of_lt (Nat.max_lt.2 ⟨hus, hmax⟩)
  · have hstat := regsOnly_trans (regsOnly_wr s (CHN_STAT_BUSY n) 0) (regsOnly_wr _ (CHN_STAT_CUR n) 0)
    have htime := regsOnly_trans (regsOnly_wr (wr (wr s (CHN_STAT_BUSY n) 0) (CHN_STAT_CUR n) 0) (CHN_PL_TIME_LAST n) (runUs s n))
      (regsOnly_wr _ (CHN_PL_TIME_MAX n) (max (runUs s n) (rd s (CHN_PL_TIME_MAX n))))
    exact regsOnly_trans (regsOnly_mono hstat (by simp [CHN_STAT_BUSY, CHN_STAT_CUR])) (regsOnly_mono htime (by simp [CHN_PL_TIME_LAST]))

section
variable {s : State} {n t : Nat} (ht : t = rd s (CHN_STAT_CUR n) + 1)
include ht

theorem nextTransaction_more (h : t < listLen s n) : nextTransaction s n = wr (untried s n) (CHN_STAT_CUR n) t := by
  subst ht
  exact if_pos h

theorem nextTransaction_over (h : listLen s n ≤ t) : nextTransaction s n = runEnd (lastDone s n) n := by
  subst ht
  exact if_neg (Nat.not_lt.2 h)

theorem nextTransaction_spec : ∃ v, nextTransaction s n = v ∧ (v.chn n).xfer = .none ∧ (v.chn n).tries = 0 ∧
    (t < listLen s n → rd v (CHN_STAT_CUR n) = t ∧ (v.chn n).gapTo = ftNs s + rd s (CHN_PL2_TGAP n) * 1000 ∧
      chnFrame n [(CHN_STAT_CUR n).addr] s v) ∧
    (listLen s n ≤ t → rd v (CHN_STAT_BUSY n) = 0 ∧ rd v (CHN_STAT_CUR n) = 0 ∧ (v.chn n).gapTo = 0 ∧ (∃ us, us < 65536 ∧
      us = min 65535 (roundDiv ((ftNs s : Int) - (s.chn n).runStart) 1000).toNat ∧ rd v (CHN_PL_TIME_LAST n) = us ∧
      rd v (CHN_PL_TIME_MAX n) = max us (rd s (CHN_PL_TIME_MAX n))) ∧
      chnFrame n [(CHN_STAT_CUR n).addr, (CHN_PL_TIME_LAST n).addr] s v) := by
  rcases Nat.lt_or_ge t (listLen s n) with h | h
  · obtain ⟨hself, hframe⟩ := untried_spec s n
    have hlt : t < 64 := h.trans_le (Nat.min_le_right _ _)
    refine ⟨_, nextTransaction_more ht h, by rw [State.chn_wr, hself], by rw [State.chn_wr, hself], fun _ => ⟨?_, by rw [State.chn_wr, hself],
      chnFrame_trans (chnFrame_mono hframe (by simp)) (chnFrame_of_regsOnly (regsOnly_wr _ _ _))⟩, fun hn => absurd h (Nat.not_lt.2 hn)⟩
    rw [rd_wr_same _ _ rfl]
    exact Nat.mod_eq_of_lt hlt
  · obtain ⟨hself, hframe⟩ := lastDone_spec s n
    obtain ⟨hbusy, hcur, hlast, hmax, hregs⟩ := runEnd_spec (lastDone s n) n
    have hchn : (runEnd (lastDone s n) n).chn n = { s.chn n with xfer := .none, gapTo := 0, tries := 0 } := by
      rw [State.chn_congr n (hregs.1 .chns (by decide)), hself]
    have hus : runUs (lastDone s n) n = runUs s n := by
      rw [runUs, runUs, hself, ftNs, ftNs, hframe.1 .clk (by decide)]
    rw [hus] at hlast hmax
    rw [rd_of_cellsBut hframe.2.1 (CHN_PL_TIME_MAX n) (by simp)] at hmax
    exact ⟨_, nextTransaction_over ht h, by rw [hchn], by rw [hchn], fun hn => absurd hn (Nat.not_lt.2 h),
      fun _ => ⟨hbusy, hcur, by rw [hchn], ⟨_, Nat.lt_succ_of_le (Nat.min_le_left _ _), rfl, hlast, hmax⟩,
        chnFrame_trans (chnFrame_mono hframe (by simp)) (chnFrame_of_regsOnly hregs)⟩⟩

end

/-! ## The commands that end a transfer (R218, R219, R226) -/

section
variable {s u : State} {dt n : Nat} (hu : u = advance s dt) (hst : rd s (CHN_STAT_STATE n) = 2)
include hu

/-- What a channel is does not change as cycles pass. -/
theorem advance_alike : u.chn n = s.chn n ∧ chnMode u n = chnMode s n ∧ (∀ f, rd u f = rd s f) ∧ u.rst.busy = s.rst.busy := by
  subst hu
  exact ⟨State.chn_advance s dt n, chnMode_advance s dt n, rd_advance s dt, congrArg Rst.busy (advance_rst s dt)⟩

include hst

theorem chnState_advance : chnState u n = cRun := by rw [chnState, (advance_alike (n := n) hu).2.2.1, hst, cRun]

variable (hn : n < 48)
include hn

/-- At a channel in RUN the end of a transfer applies. -/
theorem channelRuns : ¬(48 ≤ n ∨ chnState u n ≠ cRun) := by
  rw [chnState_advance hu hst, ne_self_iff_false, or_false]
  exact Nat.not_le.2 hn

theorem i2cRuns (hm : chnMode s n = 3) : ¬(48 ≤ n ∨ chnMode u n ≠ mI2c ∨ chnState u n ≠ cRun) := by
  rw [(advance_alike hu).2.1, hm, chnState_advance hu hst]
  simp only [mI2c, ne_self_iff_false, or_false]
  exact Nat.not_le.2 hn

variable (hb : s.rst.busy = false)
include hb

/-- The end of a transfer at a channel in RUN goes by what was on the line. -/
theorem exec_attemptEnd_attempt {bs : List Byte} (hx : (s.chn n).xfer = .attempt bs) (resp : List Byte) (line : Bool) {r : Nat × List Byte × State}
    (hr : r = judgeResponse (xferEnd (if line = true then lineErr u n else u) n) n (rd s (CHN_STAT_CUR n))
      (if chnMode s n = 4 then ssiBits (modep s n 0 7) resp else resp) line) : exec (.attemptEnd dt n resp line) s =
    .next (if chnMode s n = 1 then collect u n resp line else attemptDone r.2.2 n r.1 r.2.1) := by
  obtain ⟨hchn, hmode, hrd, hbusy⟩ := advance_alike (n := n) hu
  have hp : modep u n 0 7 = modep s n 0 7 := by rw [modep, hrd, modep]
  change execAttemptEnd dt n resp line s = _
  rw [execAttemptEnd, ← hu, whenAlive_alive _ _ (hbusy.trans hb)]
  simp only [if_neg (channelRuns hu hst hn), hchn, hx, hmode, hp, hrd, hr]
  rfl

theorem exec_attemptEnd_ferry {k : Nat} (hx : (s.chn n).xfer = .ferry k) (resp : List Byte) (line : Bool) :
    exec (.attemptEnd dt n resp line) s = .next (ferryEnd u n k resp line) := by
  obtain ⟨hchn, hmode, hrd, hbusy⟩ := advance_alike (n := n) hu
  change execAttemptEnd dt n resp line s = _
  rw [execAttemptEnd, ← hu, whenAlive_alive _ _ (hbusy.trans hb)]
  simp only [if_neg (channelRuns hu hst hn), hchn, hx]

/-- A queue frame whose last character CTS holds back goes on; any other ends its transfer, and what an SPI or I2C device answered is received. -/
theorem exec_attemptEnd_frame {bs : List Byte} (hx : (s.chn n).xfer = .frame bs) {resp : List Byte} {line : Bool} {w v : State}
    (hw : w = xferEnd (if line = true then lineErr u n else if chnMode s n = 1 then advanceTo u (s.chn n).sent else u) n)
    (hv : v = w.setChn n { w.chn n with xfer := .none }) : exec (.attemptEnd dt n resp line) s =
    .next (if (s.chn n).ctsLeft.isSome = true then u
      else if (chnMode s n = 2 ∨ chnMode s n = 3) ∧ resp ≠ [] ∧ flag u (CHN_CFG_RXQ_EN n) = true then
        rxStore v n (s.chn n).startAt (resp.take 384) (decide (384 < resp.length)) line
      else v) := by
  obtain ⟨hchn, hmode, hrd, hbusy⟩ := advance_alike (n := n) hu
  change execAttemptEnd dt n resp line s = _
  rw [execAttemptEnd, ← hu, whenAlive_alive _ _ (hbusy.trans hb)]
  simp only [if_neg (channelRuns hu hst hn), hchn, hx, hmode, hv, hw]
  rfl

/-- The clock-stretch time-out of an I2C channel is a line error (R218). -/
theorem exec_clockStretchTimeout_attempt {bs : List Byte} (hx : (s.chn n).xfer = .attempt bs) (hm : chnMode s n = 3) :
    exec (.clockStretchTimeout dt n) s = .next (attemptDone (lineErr u n) n 5 []) := by
  obtain ⟨hchn, hmode, hrd, hbusy⟩ := advance_alike (n := n) hu
  change execClockStretchTimeout dt n s = _
  rw [execClockStretchTimeout, ← hu, whenAlive_alive _ _ (hbusy.trans hb)]
  simp only [if_neg (i2cRuns hu hst hn hm), hchn, hx]
  rfl

theorem exec_clockStretchTimeout_ferry {k : Nat} (hx : (s.chn n).xfer = .ferry k) (hm : chnMode s n = 3) :
    exec (.clockStretchTimeout dt n) s = .next (ferryEnd u n k [] true) := by
  obtain ⟨hchn, hmode, hrd, hbusy⟩ := advance_alike (n := n) hu
  change execClockStretchTimeout dt n s = _
  rw [execClockStretchTimeout, ← hu, whenAlive_alive _ _ (hbusy.trans hb)]
  simp only [if_neg (i2cRuns hu hst hn hm), hchn, hx]

/-- TMO of a UART counts from the request's last stop bit. -/
theorem exec_transactionTimeout {bs : List Byte} (hx : (s.chn n).xfer = .attempt bs) (hm : chnMode s n = 1) (hc : (s.chn n).ctsLeft = none) :
    exec (.transactionTimeout dt n) s = .next (attemptDone (advanceTo u (tmoAt u n (s.chn n).sent)) n 4 []) := by
  obtain ⟨hchn, hmode, hrd, hbusy⟩ := advance_alike (n := n) hu
  have hguard : n < 48 ∧ chnState u n = cRun ∧ chnMode u n = mUart ∧ (s.chn n).ctsLeft = none :=
    ⟨hn, chnState_advance hu hst, hmode.trans hm, hc⟩
  change execTransactionTimeout dt n s = _
  rw [execTransactionTimeout, ← hu, whenAlive_alive _ _ (hbusy.trans hb)]
  simp only [hchn, hx, if_pos hguard]
  rfl

/-- TMO of SSI counts from the transfer's start (R219). -/
theorem exec_ssiDataTimeout {bs : List Byte} (hx : (s.chn n).xfer = .attempt bs) (hm : chnMode s n = 4) :
    exec (.ssiDataTimeout dt n) s = .next (attemptDone (advanceTo u (tmoAt u n (s.chn n).startAt)) n 4 []) := by
  obtain ⟨hchn, hmode, hrd, hbusy⟩ := advance_alike (n := n) hu
  have hguard : n < 48 ∧ chnMode u n = mSsi ∧ chnState u n = cRun := ⟨hn, hmode.trans hm, chnState_advance hu hst⟩
  change execSsiDataTimeout dt n s = _
  rw [execSsiDataTimeout, ← hu, whenAlive_alive _ _ (hbusy.trans hb)]
  simp only [hchn, hx, if_pos hguard]
  rfl

end

/-- Whether the RX queue is on does not change as a transfer ends. -/
theorem rxqEn_transferEnded {s u w v : State} {n : Nat} {line : Bool}
    (hw : w = xferEnd (if line = true then lineErr u n else if chnMode s n = 1 then advanceTo u (s.chn n).sent else u) n)
    (hv : v = w.setChn n { w.chn n with xfer := .none }) : rd v (CHN_CFG_RXQ_EN n) = rd u (CHN_CFG_RXQ_EN n) := by
  rw [hv, rd_setChn, hw, rd_congr _ (regs_xferEnd _ n)]
  split
  · obtain ⟨-, -, hregs⟩ := lineErr_spec u n
    refine rd_of_cellsBut hregs.2 _ ?_
    simp only [CHN_CFG_RXQ_EN, CHN_CNT_B_LINE_ERR, CHN_EVT_LINE, List.mem_cons, List.not_mem_nil, or_false, not_or]
    omega
  · split
    · exact rd_advanceTo _ _ _
    · rfl

/-- Settles O35: the commands by `exec_attemptEnd_attempt` and its siblings, a UART response by `collect_joins`, retries by `attemptDone_retries`,
the end of a transaction by `transactionEnd_fails` and `transactionEnd_usable`, the run by `nextTransaction_spec`. -/
theorem attemptsEndAndRetry : Obligations.AttemptsEndAndRetry := by
  unfold Obligations.AttemptsEndAndRetry
  refine ⟨fun s u dt n hu hb hn hst => ⟨fun bs resp line hx => ?_, fun k resp line hx => ?_, fun bs resp line w v hx hw hv => ?_, fun bs hx => ?_⟩,
    fun s u n t tmo bs area line ht htmo hc => ?_, fun s n t resp => ⟨judgeResponse_line s n t resp, _, rfl, lineErr_spec s n⟩,
    fun s n t resp h => judgeResponse_unchecked h resp,
    fun s n q r => ⟨fun h4 h7 h => attemptDone_retries h4 h7 h r, fun h => attemptDone_ends h r⟩,
    fun s n q t sw r ht hsw => ⟨fun h => transactionEnd_fails ht hsw h r, fun h hx => transactionEnd_usable ht hsw h hx r⟩,
    pollFail_spec, fun s n t ht => nextTransaction_spec ht⟩
  · have hend := exec_attemptEnd_attempt hu hst hn hb hx resp line rfl
    refine ⟨fun hm => by rw [hend, if_pos hm], fun hm q body v hj => ?_⟩
    rw [hend, if_neg hm, hj]
  · exact ⟨exec_attemptEnd_ferry hu hst hn hb hx resp line, exec_clockStretchTimeout_ferry hu hst hn hb hx⟩
  · have hend := exec_attemptEnd_frame hu hst hn hb hx (resp := resp) hw hv
    have hen := rxqEn_transferEnded hw hv
    refine ⟨fun hc => ?_, fun hc h => ?_, fun hc hm hr he => ?_⟩
    · rw [hend, if_pos (Option.isSome_iff_ne_none.2 hc)]
    · rw [hend, hc, if_neg (by decide), if_neg]
      rw [hen] at h
      rintro ⟨hm, hr, he⟩
      rcases h with h | h | h
      · omega
      · exact hr h
      · rw [flag_false h] at he
        cases he
    · rw [hend, hc, if_neg (by decide), if_pos ⟨hm, hr, flag_true (hen ▸ he)⟩]
  · exact ⟨exec_transactionTimeout hu hst hn hb hx, exec_ssiDataTimeout hu hst hn hb hx, exec_clockStretchTimeout_attempt hu hst hn hb hx⟩
  · subst htmo
    refine ⟨collect_noAnswer ht hc, collect_deaf ht hc, fun h hd hu ha => ⟨fun hm hl => ?_, fun hg hl => ?_, fun hm hg hl q body v hj => ?_⟩⟩
    · rw [collect_joins ht hc h hd hu ha (.inl hm), if_neg (Nat.not_lt.2 hl), if_neg (by rw [hm]; decide)]
    · rw [collect_joins ht hc h hd hu ha hg, if_pos hl]
    · rw [collect_joins ht hc h hd hu ha (.inr hg), if_neg (Nat.not_lt.2 hl), if_pos hm, hj]

end Sys2Proof.Machine

/-! SUPPORT. Obligation O40: a CAN frame received, its filters, its FIFO and the receive messages, and the lock of a rate. -/

namespace Sys2Proof.Machine

/-! ## The registers of one controller -/

theorem canCtlFrame_trans {k : Nat} {l : List Nat} {s t u : State} (h : canCtlFrame k l s t) (g : canCtlFrame k l t u) :
    canCtlFrame k l s u :=
  ⟨partsBut_trans h.1 g.1, cellsBut_trans h.2.1 g.2.1, fun m hm => (g.2.2 m hm).trans (h.2.2 m hm)⟩

theorem canCtlFrame_mono {k : Nat} {l m : List Nat} {s t : State} (h : canCtlFrame k l s t) (hm : ∀ a ∈ l, a ∈ m) :
    canCtlFrame k m s t :=
  ⟨h.1, cellsBut_mono h.2.1 hm, h.2.2⟩

/-- Registers of one controller at two offsets are two registers. -/
theorem sameCan_ne {a b : Nat} (k : Nat) (h : a ≠ b) : a + 0x400 * k ≠ b + 0x400 * k := fun e => h (Nat.add_right_cancel e)

/-- A field of a controller reads what a list of writes to that controller leaves in it; the list and the field are given as those
of controller 0. -/
theorem rd_canWrs (s : State) (k : Nat) {l : List (Fld × Nat)} {f : Fld} {v : Nat} (hfit : (l.all fun p => p.1.fits) = true)
    (h : lastTo f l = some v) : rd (wrs s (upAll l (0x400 * k))) (f.up (0x400 * k)) = v % 2 ^ f.w :=
  rd_wrs_lastTo s ((fits_up l _).trans hfit) ((lastTo_up f l _).trans h)

theorem regsOnly_wrW (s : State) (a v : Nat) : regsOnly [a] s (wrW s a v) := by
  refine ⟨fun p hp => ?_, fun b hb => cellAt_setCell_ne s _ (by simpa using hb)⟩
  cases p <;> simp [Part.same] at hp ⊢

theorem rdW_wrW_self (s : State) (a v : Nat) : rdW (wrW s a v) a = v % 2 ^ 32 := by
  have h : v % 2 ^ 32 < 2 ^ 64 := Nat.lt_trans (Nat.mod_lt _ (by decide)) (by decide)
  rw [rdW, wrW, cellAt_setCell_self, cellGet, BitVec.toNat_ofNat, Nat.mod_eq_of_lt h, Nat.pow_zero, Nat.div_one, Nat.mod_mod]

theorem rdW_of_cellsBut {l : List Nat} {s t : State} (h : cellsBut l s t) {a : Nat} (ha : a ∉ l) : rdW t a = rdW s a := by
  rw [rdW, rdW, h a ha]

theorem can_incSat (s : State) (f : Fld) (m : Nat) : (incSat s f).can m = s.can m := State.can_wr s f _ m

/-! ## A rate locks (R246) -/

/-- The words of the candidate as bit timing, its index and the event. -/
def rateWritten (s : State) (k : Nat) : State :=
  wrs (wrW (wrW s (CAN_NBT_BRP k).addr (rd s (CAN_RATE_N_W k (s.can k).cand))) (CAN_DBT_BRP k).addr (rd s (CAN_RATE_D_W k (s.can k).cand)))
    [(CAN_STAT_RATE_IDX k, (s.can k).cand), (CAN_EVT_RATE_LOCK k, 1)]

theorem rateLock_eq (s : State) (k : Nat) : rateLock s k = if rd s (CAN_CTRL_DET_RUN k) = 1 then wr (rateWritten s k) (CAN_STAT_STATE k) 2
    else (rateWritten s k).setCan k { s.can k with locked := true } := by
  have hcan : (rateWritten s k).can k = s.can k := by simp only [rateWritten, State.can_wrs, State.can_wrW]
  rw [← hcan]
  simp only [rateLock, flag_iff s (f := CAN_CTRL_DET_RUN k) rfl]
  rfl

theorem rateWritten_spec {s : State} {k : Nat} (hc : (s.can k).cand < 8) :
    rd (rateWritten s k) (CAN_STAT_RATE_IDX k) = (s.can k).cand ∧ rd (rateWritten s k) (CAN_EVT_RATE_LOCK k) = 1 ∧
    rdW (rateWritten s k) (CAN_NBT_BRP k).addr = rd s (CAN_RATE_N_W k (s.can k).cand) ∧
    rdW (rateWritten s k) (CAN_DBT_BRP k).addr = rd s (CAN_RATE_D_W k (s.can k).cand) ∧
    rd (rateWritten s k) (CAN_STAT_STATE k) = rd s (CAN_STAT_STATE k) ∧
    regsOnly [(CAN_NBT_BRP k).addr, (CAN_DBT_BRP k).addr, (CAN_STAT_STATE k).addr, (CAN_EVT_RATE_LOCK k).addr] s (rateWritten s k) := by
  obtain ⟨t, ht⟩ : ∃ t, t = wrW s (CAN_NBT_BRP k).addr (rd s (CAN_RATE_N_W k (s.can k).cand)) := ⟨_, rfl⟩
  obtain ⟨u, hu⟩ : ∃ u, u = wrW t (CAN_DBT_BRP k).addr (rd s (CAN_RATE_D_W k (s.can k).cand)) := ⟨_, rfl⟩
  have hv : rateWritten s k = wrs u [(CAN_STAT_RATE_IDX k, (s.can k).cand), (CAN_EVT_RATE_LOCK k, 1)] := by rw [hu, ht, rateWritten]
  have hst := regsOnly_wrW s (CAN_NBT_BRP k).addr (rd s (CAN_RATE_N_W k (s.can k).cand))
  have htu := regsOnly_wrW t (CAN_DBT_BRP k).addr (rd s (CAN_RATE_D_W k (s.can k).cand))
  have huv : regsOnly [(CAN_STAT_STATE k).addr, (CAN_EVT_RATE_LOCK k).addr] u (rateWritten s k) := hv ▸ regsOnly_wrs u _
  rw [← ht] at hst
  rw [← hu] at htu
  have hn : rd s (CAN_RATE_N_W k (s.can k).cand) < 2 ^ 32 := Nat.lt_trans (rd_lt _ _) (by decide : 2 ^ 28 < 2 ^ 32)
  have hd : rd s (CAN_RATE_D_W k (s.can k).cand) < 2 ^ 32 := Nat.lt_trans (rd_lt _ _) (by decide : 2 ^ 30 < 2 ^ 32)
  have hlast : ∀ {f : Fld} {v : Nat}, lastTo f [(CAN_STAT_RATE_IDX 0, (s.can k).cand), (CAN_EVT_RATE_LOCK 0, 1)] = some v →
      rd (rateWritten s k) (f.up (0x400 * k)) = v % 2 ^ f.w := fun h => by
    rw [hv]
    exact rd_canWrs u k (l := [(CAN_STAT_RATE_IDX 0, (s.can k).cand), (CAN_EVT_RATE_LOCK 0, 1)]) rfl h
  refine ⟨(hlast (f := CAN_STAT_RATE_IDX 0) rfl).trans (Nat.mod_eq_of_lt hc), hlast (f := CAN_EVT_RATE_LOCK 0) rfl, ?_, ?_, ?_, ?_⟩
  · rw [rdW_of_cellsBut huv.2 (by simp [CAN_NBT_BRP, CAN_STAT_STATE, CAN_EVT_RATE_LOCK]),
      rdW_of_cellsBut htu.2 (by simp [CAN_NBT_BRP, CAN_DBT_BRP]), ht, rdW_wrW_self, Nat.mod_eq_of_lt hn]
  · rw [rdW_of_cellsBut huv.2 (by simp [CAN_DBT_BRP, CAN_STAT_STATE, CAN_EVT_RATE_LOCK]), hu, rdW_wrW_self, Nat.mod_eq_of_lt hd]
  · rw [hv, wrs_cons, wrs_cons, wrs_nil, rd_wr_addr _ (CAN_EVT_RATE_LOCK k) _ _ (sameCan_ne k (by decide)), rd_wr_apart _ _ rfl rfl,
      rd_of_cellsBut_one htu.2 (sameCan_ne k (by decide)), rd_of_cellsBut_one hst.2 (sameCan_ne k (by decide))]
  · exact regsOnly_trans (regsOnly_mono hst (by simp)) (regsOnly_trans (regsOnly_mono htu (by simp)) (regsOnly_mono huv (by simp)))

theorem rateLock_spec {s : State} {k : Nat} (hc : (s.can k).cand < 8) : ∃ t, rateLock s k = t ∧ rd t (CAN_STAT_RATE_IDX k) = (s.can k).cand ∧
    rd t (CAN_EVT_RATE_LOCK k) = 1 ∧ rdW t (CAN_NBT_BRP k).addr = rd s (CAN_RATE_N_W k (s.can k).cand) ∧
    rdW t (CAN_DBT_BRP k).addr = rd s (CAN_RATE_D_W k (s.can k).cand) ∧
    rd t (CAN_STAT_STATE k) = (if rd s (CAN_CTRL_DET_RUN k) = 1 then 2 else rd s (CAN_STAT_STATE k)) ∧
    (rd s (CAN_CTRL_DET_RUN k) = 0 → (t.can k).locked = true) ∧
    canCtlFrame k [(CAN_NBT_BRP k).addr, (CAN_DBT_BRP k).addr, (CAN_STAT_STATE k).addr, (CAN_EVT_RATE_LOCK k).addr] s t := by
  obtain ⟨hidx, hevt, hnbt, hdbt, hstate, hregs⟩ := rateWritten_spec hc
  by_cases hrun : rd s (CAN_CTRL_DET_RUN k) = 1
  · have hwr := regsOnly_wr (rateWritten s k) (CAN_STAT_STATE k) 2
    refine ⟨_, (rateLock_eq s k).trans (if_pos hrun), ?_, ?_, ?_, ?_, ?_, fun h => absurd (h.symm.trans hrun) (by decide),
      canCtlFrame_of_regsOnly (regsOnly_trans hregs (regsOnly_mono hwr (by simp)))⟩
    · rw [rd_wr_apart _ _ rfl rfl, hidx]
    · rw [rd_of_cellsBut_one hwr.2 (sameCan_ne k (by decide)), hevt]
    · rw [rdW_of_cellsBut hwr.2 (by simp [CAN_NBT_BRP, CAN_STAT_STATE]), hnbt]
    · rw [rdW_of_cellsBut hwr.2 (by simp [CAN_DBT_BRP, CAN_STAT_STATE]), hdbt]
    · rw [if_pos hrun]
      exact rd_wr_same _ 2 rfl
  · refine ⟨_, (rateLock_eq s k).trans (if_neg hrun), (rd_setCan _ _ _ _).trans hidx, (rd_setCan _ _ _ _).trans hevt,
      (congrArg (cellGet · 0 32) (cellAt_setCan _ _ _ _)).trans hnbt, (congrArg (cellGet · 0 32) (cellAt_setCan _ _ _ _)).trans hdbt, ?_,
      fun _ => by rw [State.can_setCan_self], canCtlFrame_setCan (canCtlFrame_of_regsOnly hregs) _⟩
    rw [rd_setCan, hstate, if_neg hrun]

/-! ## A frame on the bus (R240, R246, R251) -/

theorem detecting_eq_true {s : State} {k : Nat} (hs : rd s (CAN_STAT_STATE k) = 1) (hl : (s.can k).locked = false) : detecting s k = true := by
  rw [detecting, canState, hs, hl]
  rfl

theorem detecting_eq_false {s : State} {k : Nat} (h : rd s (CAN_STAT_STATE k) ≠ 1) : detecting s k = false := by
  rw [detecting, canState, nDetect, beq_false_of_ne h, Bool.false_and]

/-- What a frame on the bus does to a controller, by its state and the format of the frame. -/
theorem exec_canFrameReceived {s u : State} {dt k : Nat} {f : CanFrame} (hb : s.rst.busy = false) (hk : k < 16)
    (hu : u = (advance s dt).setCan k { s.can k with busy := false }) (back : Nat) :
    exec (.canFrameReceived dt k back f) s = .next
      (if rd s (CAN_STAT_STATE k) ≠ 3 ∧ rd s (CAN_STAT_STATE k) ≠ 6 ∧ rd s (CAN_STAT_STATE k) ≠ 1 then u
       else if f.fd = true ∧ rd s (CAN_CTRL_FD_EN k) = 0 then canError u k 2 false 1
       else if detecting s k = true then
         if rd s (CAN_RATE_D_FDV k (s.can k).cand) = 1 ∧ (f.fd = false ∨ f.brs = false) then u else rateLock u k
       else sofGo (canTake u k (ftNs u - back) f) k) := by
  have hfd : (!flag s (CAN_CTRL_FD_EN k)) = true ↔ rd s (CAN_CTRL_FD_EN k) = 0 := by simp [flag]
  have hswitched : (!(f.fd && f.brs)) = true ↔ f.fd = false ∨ f.brs = false := by simp
  simp only [← hfd, ← flag_iff s (f := CAN_RATE_D_FDV k (s.can k).cand) rfl, ← hswitched, hu]
  exact congrArg Host.Outcome.next ((whenAlive_alive (advance s dt) _ hb).trans (if_pos hk))

/-! ## Filters and the FIFO (R251 to R253) -/

/-- A frame taken: it counts, and REC falls. -/
def frameCounted (s : State) (k : Nat) : State :=
  if !counts s k then incWrap s (CAN_CNT_A_RX_OK k)
  else if 127 < rd s (CAN_ERRC_REC k) then
    (wr (incWrap s (CAN_CNT_A_RX_OK k)) (CAN_ERRC_REC k) (119 + freeOf (incWrap s (CAN_CNT_A_RX_OK k)) 8 % 9)).used
  else wr (incWrap s (CAN_CNT_A_RX_OK k)) (CAN_ERRC_REC k) (rd s (CAN_ERRC_REC k) - 1)

theorem canTake_eq (s : State) (k ns : Nat) (f : CanFrame) {v : State}
    (hv : v = if (fltAct s k f).1 = 1 ∨ (fltAct s k f).1 = 3 then canFifoPush (frameCounted s k) k ⟨f, (fltAct s k f).2, ns⟩ else frameCounted s k) :
    canTake s k ns f = errSettle (if (fltAct s k f).1 = 2 ∨ (fltAct s k f).1 = 3 then rxmPush v k f else v) k := by
  rw [hv]
  rfl

theorem partsBut_used (s : State) : partsBut [.fresh] s s.used := by
  intro p hp
  cases p <;> simp [Part.same] at hp ⊢

/-- The frame counts, and REC is written or not: nothing but these two registers and the free values is touched. -/
theorem frameCounted_spec {s u : State} {k : Nat} (hu : u = frameCounted s k) :
    rd u (CAN_CNT_A_RX_OK k) = (rd s (CAN_CNT_A_RX_OK k) + 1) % 2 ^ (CAN_CNT_A_RX_OK 0).w ∧
    (counts s k = false → rd u (CAN_ERRC_REC k) = rd s (CAN_ERRC_REC k)) ∧
    (counts s k = true → rd s (CAN_ERRC_REC k) ≤ 127 → rd u (CAN_ERRC_REC k) = rd s (CAN_ERRC_REC k) - 1) ∧
    (counts s k = true → 127 < rd s (CAN_ERRC_REC k) → 119 ≤ rd u (CAN_ERRC_REC k) ∧ rd u (CAN_ERRC_REC k) ≤ 127) ∧
    partsBut [.regs, .fresh] s u ∧ cellsBut [(CAN_CNT_A_RX_OK k).addr, (CAN_ERRC_REC k).addr] s u := by
  obtain ⟨hok, hregs⟩ := incWrap_spec s (f := CAN_CNT_A_RX_OK k) rfl
  obtain ⟨t, ht⟩ : ∃ t, t = incWrap s (CAN_CNT_A_RX_OK k) := ⟨_, rfl⟩
  rw [frameCounted, ← ht] at hu
  rw [← ht] at hok hregs
  have hlt : rd s (CAN_ERRC_REC k) < 256 := rd_lt s _
  have hfree := Nat.mod_lt (freeOf t 8) (by decide : 0 < 9)
  have hrec : ∀ v, rd (wr t (CAN_ERRC_REC k) v) (CAN_ERRC_REC k) = v % 256 := fun v => rd_wr_same t v rfl
  have hkept : ∀ v, rd (wr t (CAN_ERRC_REC k) v) (CAN_CNT_A_RX_OK k) = (rd s (CAN_CNT_A_RX_OK k) + 1) % 2 ^ (CAN_CNT_A_RX_OK 0).w :=
    fun v => (rd_wr_addr t (CAN_ERRC_REC k) _ v (sameCan_ne k (by decide))).trans hok
  have hboth : ∀ v, regsOnly [(CAN_CNT_A_RX_OK k).addr, (CAN_ERRC_REC k).addr] s (wr t (CAN_ERRC_REC k) v) :=
    fun v => regsOnly_trans (regsOnly_mono hregs (by simp)) (regsOnly_mono (regsOnly_wr t (CAN_ERRC_REC k) v) (by simp))
  cases hc : counts s k with
  | false =>
    rw [hc, if_pos (by decide)] at hu
    rw [hu]
    exact ⟨hok, fun _ => rd_of_cellsBut_one hregs.2 (sameCan_ne k (by decide)), nofun, nofun, partsBut_mono hregs.1 (by decide),
      cellsBut_mono hregs.2 (by simp)⟩
  | true =>
    rw [hc, if_neg (by decide)] at hu
    by_cases h : 127 < rd s (CAN_ERRC_REC k)
    · obtain ⟨hparts, hcells⟩ := hboth (119 + freeOf t 8 % 9)
      rw [hu, if_pos h, rd_used, rd_used, hrec, hkept]
      exact ⟨rfl, nofun, fun _ h' => absurd h (Nat.not_lt.2 h'), fun _ _ => by omega,
        partsBut_trans (partsBut_mono hparts (by decide)) (partsBut_mono (partsBut_used _) (by decide)),
        fun a ha => (cellAt_used _ a).trans (hcells a ha)⟩
    · obtain ⟨hparts, hcells⟩ := hboth (rd s (CAN_ERRC_REC k) - 1)
      rw [hu, if_neg h, hrec, hkept]
      exact ⟨rfl, nofun, fun _ _ => by omega, fun _ h' => absurd h' h, partsBut_mono hparts (by decide), hcells⟩

theorem canFifoPush_stored {s : State} {k : Nat} (x : CanRx) (h : (s.can k).fifo.length < 32) :
    canFifoPush s k x = s.setCan k { s.can k with fifo := (s.can k).fifo ++ [x], seen := true } := if_pos h

/-- A FIFO that overflows: its counter and its event. -/
def fifoOverflowed (s : State) (k : Nat) : State := wr (incSat s (CAN_CNT_C_RX_OVF k)) (CAN_EVT_RX_OVF k) 1

theorem can_fifoOverflowed (s : State) (k m : Nat) : (fifoOverflowed s k).can m = s.can m :=
  (State.can_wr _ _ _ m).trans (can_incSat s _ m)

/-- A controller whose full FIFO has dropped its oldest entry for a new one. -/
def fifoOverwritten (s : State) (k : Nat) (x : CanRx) : Can :=
  { s.can k with
    fifo := (s.can k).fifo.tail ++ [x]
    evicted := (s.can k).fifo.head?.map fun y => (s.clk.ft.toNat, y, rd s (CAN_CNT_C_RX_OVF k), rd s (CAN_EVT_RX_OVF k)) }

theorem canFifoPush_full_eq {s : State} {k : Nat} (x : CanRx) (h : 32 ≤ (s.can k).fifo.length) : canFifoPush s k x =
    if rd s (CAN_CTRL_FIFO_OW k) = 1 then (fifoOverflowed s k).setCan k (fifoOverwritten s k x) else fifoOverflowed s k := by
  simp only [canFifoPush, if_neg (Nat.not_lt.2 h), flag_iff s (f := CAN_CTRL_FIFO_OW k) rfl, State.can_wr, can_incSat, fifoOverflowed,
    fifoOverwritten]

/-- A full FIFO counts the frame; with FIFO_OW it drops its oldest entry for it, and notes what a POP of that cycle needs. -/
theorem canFifoPush_full {s : State} {k : Nat} (x : CanRx) (h : 32 ≤ (s.can k).fifo.length) :
    rd (canFifoPush s k x) (CAN_EVT_RX_OVF k) = 1 ∧
    rd (canFifoPush s k x) (CAN_CNT_C_RX_OVF k) = min (rd s (CAN_CNT_C_RX_OVF k) + 1) (2 ^ (CAN_CNT_C_RX_OVF 0).w - 1) ∧
    (canFifoPush s k x).can k = (if rd s (CAN_CTRL_FIFO_OW k) = 1 then fifoOverwritten s k x else s.can k) ∧
    canCtlFrame k [(CAN_EVT_RX_OVF k).addr, (CAN_CNT_C_RX_OVF k).addr] s (canFifoPush s k x) := by
  obtain ⟨hcnt, hevt, hregs⟩ := counted_spec s (c := CAN_CNT_C_RX_OVF k) (e := CAN_EVT_RX_OVF k) rfl rfl rfl (sameCan_ne k (by decide))
  rw [← fifoOverflowed] at hcnt hevt hregs
  have hframe := canCtlFrame_of_regsOnly (k := k) (regsOnly_mono (m := [(CAN_EVT_RX_OVF k).addr, (CAN_CNT_C_RX_OVF k).addr]) hregs (by simp [or_comm]))
  rw [canFifoPush_full_eq x h]
  by_cases how : rd s (CAN_CTRL_FIFO_OW k) = 1
  · rw [if_pos how, if_pos how, rd_setCan, rd_setCan, State.can_setCan_self]
    exact ⟨hevt, hcnt, rfl, canCtlFrame_setCan hframe _⟩
  · rw [if_neg how, if_neg how]
    exact ⟨hevt, hcnt, can_fifoOverflowed s k k, hframe⟩

/-! ## Receive messages (R255, R256) -/

/-- A message that a frame of the new tick ages. -/
def rxmAgedNow (s : State) (m : Nat) : State := { rxmAge s m with rxmAged := (m, tickNow s) :: s.rxmAged }

theorem rxmFirst_or (s : State) (m : Nat) : rxmFirst s m = s ∨ rxmFirst s m = rxmAgedNow s m := by
  cases hl : s.rxmLast with
  | none =>
    left
    rw [rxmFirst, hl]
    rfl
  | some n =>
    by_cases h : (decide (n < tickNow s) && !s.rxmAged.contains (m, tickNow s)) = true
    · right
      rw [rxmFirst, hl]
      exact if_pos h
    · left
      rw [rxmFirst, hl]
      exact if_neg h

/-- A boundary that FT has reached since the last aging ages a message that has not aged for it yet. -/
theorem rxmFirst_due {s : State} {m : Nat} {n : Int} (hl : s.rxmLast = some n) (hn : n < tickNow s) (ha : (m, tickNow s) ∉ s.rxmAged) :
    rxmFirst s m = rxmAgedNow s m := by
  rw [rxmFirst, hl]
  exact if_pos (by simp [hn, ha])

theorem rxmFirst_aged {s : State} {m : Nat} (h : (m, tickNow s) ∈ s.rxmAged) : rxmFirst s m = s :=
  if_neg (by simp [h])

theorem rxmPush_some {s s' : State} {k m : Nat} {f : CanFrame} (h : rxmOf s k f = some m) (hs : s' = rxmFirst s m) :
    rxmPush s k f = if f.data.length < rd s' (CAN_RXM1_MINLEN m) then
        s'.setStg (rd s' (CAN_RXM2_SWORD m)) (setBits (setBits (s'.stgWord (rd s' (CAN_RXM2_SWORD m))) 24 8
          ((bits (s'.stgWord (rd s' (CAN_RXM2_SWORD m))) 24 8 + 1) % 256)) 17 1 1)
      else (extractAll s' ((List.range (min 8 (rd s' (CAN_RXM1_XN m)))).map fun j => rxfEnt s' (rd s' (CAN_RXM1_XPTR m) + j)) f.data).2.setStg
        (rd s' (CAN_RXM2_SWORD m)) (2 ^ 16 + (bits (s'.stgWord (rd s' (CAN_RXM2_SWORD m))) 24 8 + 1) % 256 * 2 ^ 24) := by
  rw [rxmPush, h, hs]
  rfl

theorem exec_rxmAging {s t : State} (hb : s.rst.busy = false) (hp : rd s TRD_TICK_NS_NS ≠ 0)
    (ht : t = toBoundary s (rd s TRD_TICK_NS_NS) s.rxmLast) :
    exec .rxmAging s = .next (each ((List.range 32).filter fun m => !t.rxmAged.contains (m, tickNow t)) rxmAge
      { t with rxmLast := some (tickNow t), rxmAged := [] }) := by
  rw [ht]
  exact congrArg Host.Outcome.next ((whenAlive_alive s _ hb).trans (if_neg hp))

theorem rxmAge_disabled {t : State} {m : Nat} (h : rd t (CAN_RXM0_EN m) = 0) : rxmAge t m = t := by
  rw [rxmAge, flag_false h]
  rfl

theorem rxmAge_enabled {t : State} {m w : Nat} (h : rd t (CAN_RXM0_EN m) = 1) (hw : w = t.stgWord (rd t (CAN_RXM2_SWORD m))) :
    rxmAge t m = t.setStg (rd t (CAN_RXM2_SWORD m)) (if bitOf w 16 then setBits w 16 1 0 else setBits w 0 16 (min 65535 (bits w 0 16 + 1))) := by
  rw [rxmAge, flag_true h, hw]
  rfl

/-- Settles O40: a frame on the bus by `exec_canFrameReceived`, a lock by `rateLock_spec`, the counters by `frameCounted_spec`, the FIFO
by `canFifoPush_stored` and `canFifoPush_full`, receive messages by `rxmPush_some`, `rxmFirst_due` and `exec_rxmAging`. -/
theorem canFramesAreReceived : Obligations.CanFramesAreReceived := by
  unfold Obligations.CanFramesAreReceived
  refine ⟨fun s u dt k back f hb hk hu => ?_, fun s k _ hc => rateLock_spec hc, fun s k ns f _ => ?_,
    fun s k x => ⟨_, rfl, canFifoPush_stored x, canFifoPush_full x⟩,
    fun s k f => ⟨fun h => by rw [rxmPush, h], fun m r hm hr => ?_⟩,
    fun s t hb hp ht => ⟨exec_rxmAging hb hp ht, fun m => ⟨rxmAge_disabled, fun h w hw => rxmAge_enabled h hw⟩⟩⟩
  · rw [exec_canFrameReceived hb hk hu back]
    have hfmt : (f.fd = false ∨ rd s (CAN_CTRL_FD_EN k) = 1) → ¬(f.fd = true ∧ rd s (CAN_CTRL_FD_EN k) = 0) := by
      rintro (h | h) ⟨hfd, hen⟩
      · cases h.symm.trans hfd
      · cases h.symm.trans hen
    refine ⟨fun h1 hl h => ?_, fun h1 h3 h6 => ?_, fun hst hfd hen => ?_, fun hst h => ?_⟩
    · rw [if_neg (by simp [h1]), if_neg (hfmt h), if_pos (detecting_eq_true h1 hl)]
    · rw [if_pos ⟨h3, h6, h1⟩]
    · rw [if_neg (by omega), if_pos ⟨hfd, hen⟩]
    · rw [if_neg (by omega), if_neg (hfmt h), detecting_eq_false (by omega), if_neg (by decide)]
  · obtain ⟨hok, hquiet, hlow, hhigh, hparts, hcells⟩ := frameCounted_spec (s := s) (k := k) rfl
    exact ⟨_, _, _, _, rfl, hok, hquiet, hlow, hhigh, hparts, hcells, rfl, canTake_eq s k ns f rfl⟩
  · refine ⟨hr ▸ rxmFirst_or s m, fun n hl hn ha => hr.trans (rxmFirst_due hl hn ha), fun h => hr.trans (rxmFirst_aged h),
      fun s' w hs hw => ?_⟩
    rw [rxmPush_some hm (hs.trans hr), hw]
    exact ⟨fun h => if_pos h, fun h => if_neg (Nat.not_lt.2 h)⟩

end Sys2Proof.Machine
/-! SUPPORT. Obligation O41: transmit buffers of a CAN controller, what becomes of a frame on the wire, and error confinement. -/

namespace Sys2Proof.Machine

/-! ## Registers of a controller and of its buffers -/

/-- A list of writes leaves every field that shares no bit position with a field it writes. -/
theorem rd_wrs_apart (s : State) {g : Fld} {l : List (Fld × Nat)} (hfit : (l.all fun p => p.1.fits) = true)
    (h : (l.all fun p => p.1.apart g) = true) : rd (wrs s l) g = rd s g := by
  refine rd_wrs_misses s hfit (List.all_eq_true.2 fun p hp => ?_)
  rw [Fld.misses, List.all_eq_true.1 h p hp, Bool.or_true]

/-- The control register of a buffer lies above those of its controller. -/
theorem txbCtrl_ne {a : Nat} (k b : Nat) (h : a < 0x400B0080) : a + 0x400 * k ≠ (CAN_TXB_CTRL_REQ k b).addr := by
  simp only [CAN_TXB_CTRL_REQ]
  omega

theorem exec_onCan {s : State} {k : Nat} (hb : s.rst.busy = false) (hk : k < 16) (f : State → State) : onCan s k f = f s :=
  (whenAlive_alive s _ hb).trans (if_pos hk)

/-! ## A request and a cancel (R248, R249) -/

/-- A request makes a buffer pending. -/
def txbAsked (s : State) (k b : Nat) : State := wrs s [(CAN_TXB_CTRL_REQ k b, 1), (CAN_TXB_CTRL_PEND k b, 1)]

theorem txbAsked_spec (s : State) (k b : Nat) : rd (txbAsked s k b) (CAN_TXB_CTRL_REQ k b) = 1 ∧
    rd (txbAsked s k b) (CAN_TXB_CTRL_PEND k b) = 1 ∧ regsOnly [(CAN_TXB_CTRL_REQ k b).addr] s (txbAsked s k b) :=
  ⟨(rd_wrs_apart (wr s (CAN_TXB_CTRL_REQ k b) 1) (l := [(CAN_TXB_CTRL_PEND k b, 1)]) rfl rfl).trans (rd_wr_bit s 1 rfl rfl),
    rd_wr_bit _ 1 rfl rfl, regsOnly_mono (regsOnly_wrs s _) (by simp [CAN_TXB_CTRL_REQ, CAN_TXB_CTRL_PEND])⟩

/-- The control bits of a buffer that leaves pending. -/
def txbFreed (s : State) (k b : Nat) : State :=
  wrs s [(CAN_TXB_CTRL_PEND k b, 0), (CAN_TXB_CTRL_SOF k b, 0), (CAN_TXB_CTRL_REQ k b, 0), (CAN_TXB_CTRL_CANCEL k b, 0)]

theorem txbLeave_eq (s : State) (k b : Nat) : txbLeave s k b =
    if b = sbufOf s k then (txbFreed s k b).setCan k { (txbFreed s k b).can k with sbuf := none } else txbFreed s k b := rfl

theorem txbFreed_spec (s : State) (k b : Nat) : rd (txbFreed s k b) (CAN_TXB_CTRL_PEND k b) = 0 ∧
    rd (txbFreed s k b) (CAN_TXB_CTRL_SOF k b) = 0 ∧ rd (txbFreed s k b) (CAN_TXB_CTRL_CANCEL k b) = 0 ∧
    regsOnly [(CAN_TXB_CTRL_REQ k b).addr] s (txbFreed s k b) := by
  refine ⟨?_, ?_, rd_wr_bit _ 0 rfl rfl, regsOnly_mono (regsOnly_wrs s _)
    (by simp [CAN_TXB_CTRL_REQ, CAN_TXB_CTRL_PEND, CAN_TXB_CTRL_SOF, CAN_TXB_CTRL_CANCEL])⟩
  · rw [txbFreed, wrs_cons, rd_wrs_apart _ rfl rfl]
    exact rd_wr_bit s 0 rfl rfl
  · rw [txbFreed, wrs_cons, wrs_cons, rd_wrs_apart _ rfl rfl]
    exact rd_wr_bit _ 0 rfl rfl

theorem txbLeave_spec (s : State) (k b : Nat) : rd (txbLeave s k b) (CAN_TXB_CTRL_PEND k b) = 0 ∧
    rd (txbLeave s k b) (CAN_TXB_CTRL_SOF k b) = 0 ∧ rd (txbLeave s k b) (CAN_TXB_CTRL_CANCEL k b) = 0 ∧
    ((txbLeave s k b).can k).sbuf = (if b = sbufOf s k then none else (s.can k).sbuf) ∧
    canCtlFrame k [(CAN_TXB_CTRL_REQ k b).addr] s (txbLeave s k b) := by
  obtain ⟨hpend, hsof, hcancel, hregs⟩ := txbFreed_spec s k b
  rw [txbLeave_eq]
  by_cases h : b = sbufOf s k
  · rw [if_pos h, if_pos h, rd_setCan, rd_setCan, rd_setCan, State.can_setCan_self]
    exact ⟨hpend, hsof, hcancel, rfl, canCtlFrame_setCan (canCtlFrame_of_regsOnly hregs) _⟩
  · rw [if_neg h, if_neg h]
    exact ⟨hpend, hsof, hcancel, congrArg Can.sbuf (State.can_wrs s _ k), canCtlFrame_of_regsOnly hregs⟩

theorem txbCancelled_spec (s : State) (k b : Nat) : rd (txbCancelled s k b) (CAN_TXB_CTRL_CANCELLED k b) = 1 ∧
    rd (txbCancelled s k b) (CAN_TXB_CTRL_PEND k b) = 0 ∧ rd (txbCancelled s k b) (CAN_TXB_CTRL_SOF k b) = 0 ∧
    rd (txbCancelled s k b) (CAN_TXB_CTRL_CANCEL k b) = 0 ∧
    ((txbCancelled s k b).can k).sbuf = (if b = sbufOf s k then none else (s.can k).sbuf) ∧
    canCtlFrame k [(CAN_TXB_CTRL_REQ k b).addr] s (txbCancelled s k b) := by
  obtain ⟨hpend, hsof, hcancel, hsbuf, hframe⟩ := txbLeave_spec s k b
  exact ⟨rd_wr_bit _ 1 rfl rfl, (rd_wr_apart _ 1 rfl rfl).trans hpend, (rd_wr_apart _ 1 rfl rfl).trans hsof,
    (rd_wr_apart _ 1 rfl rfl).trans hcancel, hsbuf,
    canCtlFrame_trans hframe (canCtlFrame_of_regsOnly (regsOnly_wr _ (CAN_TXB_CTRL_CANCELLED k b) 1))⟩

section
variable {s : State} {k b : Nat} (hb : s.rst.busy = false) (hk : k < 16)
include hb hk

theorem exec_txbReq (h : b < 3) (busy : Bool) : exec (.txbReq k b busy) s =
    .next (sofGo ((txbAsked s k b).setCan k { s.can k with busy := (s.can k).busy || busy }) k) := by
  refine congrArg Host.Outcome.next ((exec_onCan hb hk _).trans ((if_neg (Nat.not_le.2 h)).trans ?_))
  simp only [State.can_wrs]
  rfl

theorem exec_txbCancel_idle (h : rd s (CAN_TXB_CTRL_PEND k b) = 0) : exec (.txbCancel k b) s = .next s :=
  congrArg Host.Outcome.next ((exec_onCan hb hk _).trans (if_pos (.inr (by rw [flag_false h]; rfl))))

/-- A cancel of a pending buffer: at once, or latched while its frame is on the wire. -/
theorem exec_txbCancel (hb3 : b < 3) (h : rd s (CAN_TXB_CTRL_PEND k b) = 1) : exec (.txbCancel k b) s =
    .next (if rd s (CAN_TXB_CTRL_SOF k b) = 1 then wr s (CAN_TXB_CTRL_CANCEL k b) 1 else sofGo (txbCancelled s k b) k) := by
  have hidle : ¬(3 ≤ b ∨ (!flag s (CAN_TXB_CTRL_PEND k b)) = true) := by
    rw [flag_true h]
    simpa using hb3
  simp only [← flag_iff s (f := CAN_TXB_CTRL_SOF k b) rfl]
  exact congrArg Host.Outcome.next ((exec_onCan hb hk _).trans (if_neg hidle))

end

/-! ## The bus is free (R244, R248) -/

/-- An ON controller that is not listening, in service, on a free bus and with no frame of its own on the wire may send. -/
def maySend (t : State) (k : Nat) : Prop := canState t k = nOn ∧ !flag t (CAN_CTRL_LISTEN k) ∧ running t ∧ !(t.can k).busy ∧ (sofBuf t k).isNone

theorem maySend_iff (t : State) (k : Nat) : maySend t k ↔ rd t (CAN_STAT_STATE k) = 3 ∧ rd t (CAN_CTRL_LISTEN k) = 0 ∧ running t = true ∧
    (t.can k).busy = false ∧ sofBuf t k = none := by
  simp [maySend, canState, nOn, flag]

theorem sofGo_idle {s t : State} {k : Nat} (ht : t = loadSbuf s k) (h : ¬maySend t k) : sofGo s k = t := by
  subst ht
  exact if_neg h

theorem sofGo_none {s t : State} {k : Nat} (ht : t = loadSbuf s k) (h : maySend t k) (hc : chooseTxb t k = none) : sofGo s k = t := by
  subst ht
  refine (if_pos h).trans ?_
  rw [hc]

theorem sofGo_some {s t : State} {k b : Nat} (ht : t = loadSbuf s k) (h : maySend t k) (hc : chooseTxb t k = some b) :
    sofGo s k = wr t (CAN_TXB_CTRL_SOF k b) 1 := by
  subst ht
  refine (if_pos h).trans ?_
  rw [hc]

/-! ## Which pending buffer starts (R248) -/

/-- The buffers that are pending. -/
def pendingTxb (s : State) (k : Nat) : List Nat := those 3 fun b => flag s (CAN_TXB_CTRL_PEND k b)

theorem mem_pendingTxb {s : State} {k b : Nat} : b ∈ pendingTxb s k ↔ b < 3 ∧ rd s (CAN_TXB_CTRL_PEND k b) = 1 := by
  rw [pendingTxb, those, List.mem_filter, List.mem_range, flag_iff s (f := CAN_TXB_CTRL_PEND k b) rfl]

theorem sorted_pendingTxb (s : State) (k : Nat) : (pendingTxb s k).Pairwise (· < ·) := List.pairwise_lt_range.filter _

/-- Of the buffer that has won so far and another one the frame that wins arbitration. -/
def arbStep (s : State) (k : Nat) : Option Nat → Nat → Option Nat
  | none, b => some b
  | some a, b => if arbKey (txbFrame s k b) < arbKey (txbFrame s k a) then some b else some a

theorem chooseTxb_eq (s : State) (k : Nat) : chooseTxb s k =
    if rd s (CAN_CTRL_TXORD k) = 1 then (pendingTxb s k).head? else (pendingTxb s k).foldl (arbStep s k) none := by
  simp only [← flag_iff s (f := CAN_CTRL_TXORD k) rfl]
  refine if_congr Iff.rfl rfl (List.foldl_ext _ _ none fun x b _ => ?_)
  cases x <;> rfl

/-- The winner of arbitration is one of those that entered it, and no frame of them lies before its own. -/
theorem foldl_arbStep {s : State} {k b : Nat} {l : List Nat} {a : Nat} (h : l.foldl (arbStep s k) (some a) = some b) :
    b ∈ a :: l ∧ ∀ c ∈ a :: l, arbKey (txbFrame s k b) ≤ arbKey (txbFrame s k c) := by
  induction l generalizing a with
  | nil =>
    cases h
    simp
  | cons x l ih =>
    rw [List.foldl_cons, arbStep] at h
    split at h
    next hlt =>
      obtain ⟨hmem, hmin⟩ := ih h
      refine ⟨List.mem_cons_of_mem a hmem, fun c hc => ?_⟩
      rcases List.mem_cons.1 hc with rfl | hc
      · exact Nat.le_trans (hmin x List.mem_cons_self) (Nat.le_of_lt hlt)
      · exact hmin c hc
    next hle =>
      obtain ⟨hmem, hmin⟩ := ih h
      simp only [List.forall_mem_cons] at hmin ⊢
      refine ⟨?_, hmin.1, Nat.le_trans hmin.1 (Nat.not_lt.1 hle), hmin.2⟩
      rcases List.mem_cons.1 hmem with rfl | hmem
      · exact List.mem_cons_self
      · exact List.mem_cons_of_mem a (List.mem_cons_of_mem x hmem)

theorem chooseTxb_spec {s : State} {k b : Nat} (h : chooseTxb s k = some b) : b < 3 ∧ rd s (CAN_TXB_CTRL_PEND k b) = 1 ∧
    (rd s (CAN_CTRL_TXORD k) = 1 → ∀ c < b, rd s (CAN_TXB_CTRL_PEND k c) = 0) ∧
    (rd s (CAN_CTRL_TXORD k) = 0 → ∀ c < 3, rd s (CAN_TXB_CTRL_PEND k c) = 1 → arbKey (txbFrame s k b) ≤ arbKey (txbFrame s k c)) := by
  rw [chooseTxb_eq] at h
  have hsorted := sorted_pendingTxb s k
  have hmem : ∀ c, c ∈ pendingTxb s k ↔ c < 3 ∧ rd s (CAN_TXB_CTRL_PEND k c) = 1 := fun c => mem_pendingTxb
  cases hp : pendingTxb s k with
  | nil => simp [hp] at h
  | cons a l =>
    rw [hp] at h hsorted hmem
    by_cases hord : rd s (CAN_CTRL_TXORD k) = 1
    · rw [if_pos hord, List.head?_cons, Option.some.injEq] at h
      subst h
      obtain ⟨h3, hpend⟩ := (hmem a).1 List.mem_cons_self
      refine ⟨h3, hpend, fun _ c hc => ?_, fun h0 => absurd (h0.symm.trans hord) (by decide)⟩
      refine (rd_bit s (f := CAN_TXB_CTRL_PEND k c) rfl).resolve_right fun h1 => ?_
      rcases List.mem_cons.1 ((hmem c).2 ⟨Nat.lt_trans hc h3, h1⟩) with rfl | hl
      · exact Nat.lt_irrefl _ hc
      · exact Nat.lt_asymm hc ((List.pairwise_cons.1 hsorted).1 c hl)
    · rw [if_neg hord, List.foldl_cons] at h
      obtain ⟨hin, hmin⟩ := foldl_arbStep h
      obtain ⟨h3, hpend⟩ := (hmem b).1 hin
      exact ⟨h3, hpend, fun h1 => absurd h1 hord, fun _ c hc h1 => hmin c ((hmem c).2 ⟨hc, h1⟩)⟩

/-! ## A frame on the wire (R243, R248, R249) -/

theorem txbBack_eq {s : State} {k b : Nat} (h : sofBuf s k = some b) :
    txbBack s k = if rd s (CAN_TXB_CTRL_CANCEL k b) = 1 then txbCancelled s k b else wr s (CAN_TXB_CTRL_SOF k b) 0 := by
  simp only [← flag_iff s (f := CAN_TXB_CTRL_CANCEL k b) rfl, txbBack, h]

/-- A buffer whose frame has completed: it leaves pending with DONE, TX_OK counts, and TEC falls. -/
def txbSent (s : State) (k b : Nat) : State :=
  wr (wr (incWrap (txbLeave s k b) (CAN_CNT_B_TX_OK k)) (CAN_TXB_CTRL_DONE k b) 1) (CAN_ERRC_TEC k) (rd s (CAN_ERRC_TEC k) - 1)

theorem txbSent_spec (s : State) (k b : Nat) : rd (txbSent s k b) (CAN_TXB_CTRL_DONE k b) = 1 ∧
    rd (txbSent s k b) (CAN_TXB_CTRL_PEND k b) = 0 ∧ rd (txbSent s k b) (CAN_TXB_CTRL_SOF k b) = 0 ∧
    rd (txbSent s k b) (CAN_CNT_B_TX_OK k) = (rd s (CAN_CNT_B_TX_OK k) + 1) % 2 ^ (CAN_CNT_B_TX_OK 0).w ∧
    rd (txbSent s k b) (CAN_ERRC_TEC k) = rd s (CAN_ERRC_TEC k) - 1 ∧ rd (txbSent s k b) (CAN_ERRC_REC k) = rd s (CAN_ERRC_REC k) ∧
    canCtlFrame k [(CAN_TXB_CTRL_REQ k b).addr, (CAN_CNT_B_TX_OK k).addr, (CAN_ERRC_TEC k).addr] s (txbSent s k b) := by
  obtain ⟨t, ht⟩ : ∃ t, t = txbLeave s k b := ⟨_, rfl⟩
  obtain ⟨u, hu⟩ : ∃ u, u = incWrap t (CAN_CNT_B_TX_OK k) := ⟨_, rfl⟩
  obtain ⟨v, hv⟩ : ∃ v, v = wr u (CAN_TXB_CTRL_DONE k b) 1 := ⟨_, rfl⟩
  have hw : txbSent s k b = wr v (CAN_ERRC_TEC k) (rd s (CAN_ERRC_TEC k) - 1) := by rw [hv, hu, ht, txbSent]
  obtain ⟨hpend, hsof, -, -, hst⟩ := txbLeave_spec s k b
  obtain ⟨hok, htu⟩ := incWrap_spec t (f := CAN_CNT_B_TX_OK k) rfl
  have huv := regsOnly_wr u (CAN_TXB_CTRL_DONE k b) 1
  have hvw := regsOnly_wr v (CAN_ERRC_TEC k) (rd s (CAN_ERRC_TEC k) - 1)
  rw [← ht] at hpend hsof hst
  rw [← hu] at hok htu
  rw [← hv] at huv
  rw [← hw] at hvw
  have hcnt : (CAN_CNT_B_TX_OK k).addr ≠ (CAN_TXB_CTRL_REQ k b).addr := txbCtrl_ne k b (by decide)
  have herrc : (CAN_ERRC_TEC k).addr ≠ (CAN_TXB_CTRL_REQ k b).addr := txbCtrl_ne k b (by decide)
  have hec : (CAN_ERRC_TEC k).addr ≠ (CAN_CNT_B_TX_OK k).addr := sameCan_ne k (by decide)
  have htec : rd s (CAN_ERRC_TEC k) < 512 := rd_lt s _
  refine ⟨?_, ?_, ?_, ?_, ?_, ?_, ?_⟩
  · rw [rd_of_cellsBut_one hvw.2 (f := CAN_TXB_CTRL_DONE k b) herrc.symm, hv, rd_wr_bit _ _ rfl rfl]
  · rw [rd_of_cellsBut_one hvw.2 (f := CAN_TXB_CTRL_PEND k b) herrc.symm, hv, rd_wr_apart _ _ rfl rfl,
      rd_of_cellsBut_one htu.2 (f := CAN_TXB_CTRL_PEND k b) hcnt.symm, hpend]
  · rw [rd_of_cellsBut_one hvw.2 (f := CAN_TXB_CTRL_SOF k b) herrc.symm, hv, rd_wr_apart _ _ rfl rfl,
      rd_of_cellsBut_one htu.2 (f := CAN_TXB_CTRL_SOF k b) hcnt.symm, hsof]
  · rw [rd_of_cellsBut_one hvw.2 hec.symm, rd_of_cellsBut_one huv.2 hcnt, hok, rd_of_cellsBut_one hst.2.1 hcnt]
    rfl
  · rw [hw, rd_wr_same _ _ rfl]
    exact Nat.mod_eq_of_lt (Nat.lt_of_le_of_lt (Nat.sub_le _ 1) htec)
  · rw [hw, rd_wr_apart _ _ rfl rfl, rd_of_cellsBut_one huv.2 (f := CAN_ERRC_REC k) herrc, rd_of_cellsBut_one htu.2 (f := CAN_ERRC_REC k) hec,
      rd_of_cellsBut_one hst.2.1 (f := CAN_ERRC_REC k) herrc]
  · exact canCtlFrame_trans (canCtlFrame_mono hst (by simp)) (canCtlFrame_of_regsOnly (regsOnly_trans (regsOnly_mono htu (by simp))
      (regsOnly_trans (regsOnly_mono huv (by simp [CAN_TXB_CTRL_DONE, CAN_TXB_CTRL_REQ])) (regsOnly_mono hvw (by simp)))))

section
variable {s : State} {k b : Nat} (hb : s.rst.busy = false) (hk : k < 16) (h : sofBuf s k = some b)
include hb hk h

/-- The frame on the wire completes, or a switched one whose measured delay is too long fails. -/
theorem exec_canTxDone (delay : Nat) : exec (.canTxDone k delay) s = .next
    (if (txbFrame s k b).fd = true ∧ (txbFrame s k b).brs = true ∧ rd s (CAN_DBT_TDC_EN k) = 1 ∧ 127 < delay then
      canError s.used k (4 + freeOf s 1) true 8
     else sofGo (errSettle ((txbSent s k b).emit (.canFrame k (txbFrame s k b))) k) k) := by
  refine congrArg Host.Outcome.next ((exec_onCan hb hk _).trans ?_)
  simp only [h, ← flag_iff s (f := CAN_DBT_TDC_EN k) rfl]
  rfl

theorem exec_arbitrationLost {t : State} (ht : txbBack s k = t) :
    exec (.arbitrationLost k) s = .next (loadSbuf (t.setCan k { t.can k with busy := true }) k) := by
  rw [← ht]
  exact congrArg Host.Outcome.next ((exec_onCan hb hk _).trans (if_neg (by simp [h])))

end

/-! ## A protocol error (R246, R253) -/

/-- What a protocol error records: its kind and phase, the event, and its counter. -/
def errCounted (s : State) (k kind : Nat) (ph : Bool) : State :=
  incSat (wrs s [(CAN_ERRC_LEC k, kind), (CAN_ERRC_LEC_DATA k, natOf ph), (CAN_EVT_PROTO_ERR k, 1)])
    (if ph then CAN_CNT_D_ERR_DATA k else CAN_CNT_D_ERR_NOM k)

/-- The error recorded, and no frame of another node on the bus any more. -/
def errRecorded (s : State) (k kind : Nat) (ph : Bool) : State := (errCounted s k kind ph).setCan k { s.can k with busy := false }

theorem canError_eq (s : State) (k kind amount : Nat) (ph : Bool) {t : State} (ht : t = errRecorded s k kind ph) :
    canError s k kind ph amount = if detecting s k = true then nextCandidate t k else sofGo (errSettle (txbBack
      (if counts s k = false then t
       else if (sofBuf s k).isSome = true then wr t (CAN_ERRC_TEC k) (min (rd s (CAN_ERRC_TEC k) + amount) 511)
       else wr t (CAN_ERRC_REC k) (min (rd s (CAN_ERRC_REC k) + amount) 255)) k) k) k := by
  subst ht
  simp only [canError, errRecorded, errCounted, can_incSat, State.can_wrs]
  cases counts s k <;> cases (sofBuf s k).isSome <;>
    simp only [if_true, if_false, Bool.false_eq_true, Bool.true_eq_false]

theorem errCounted_spec (s : State) {k kind : Nat} (ph : Bool) (hkind : kind < 8) {t : State} (ht : t = errCounted s k kind ph) :
    rd t (CAN_ERRC_LEC k) = kind ∧ rd t (CAN_ERRC_LEC_DATA k) = natOf ph ∧ rd t (CAN_EVT_PROTO_ERR k) = 1 ∧
    rd t (CAN_CNT_D_ERR_DATA k) = min (rd s (CAN_CNT_D_ERR_DATA k) + natOf ph) (2 ^ (CAN_CNT_D_ERR_DATA 0).w - 1) ∧
    rd t (CAN_CNT_D_ERR_NOM k) = min (rd s (CAN_CNT_D_ERR_NOM k) + natOf (!ph)) (2 ^ (CAN_CNT_D_ERR_NOM 0).w - 1) ∧
    regsOnly [(CAN_ERRC_LEC k).addr, (CAN_EVT_PROTO_ERR k).addr, (CAN_CNT_D_ERR_DATA k).addr] s t := by
  obtain ⟨u, hu⟩ : ∃ u, u = wrs s [(CAN_ERRC_LEC k, kind), (CAN_ERRC_LEC_DATA k, natOf ph), (CAN_EVT_PROTO_ERR k, 1)] := ⟨_, rfl⟩
  obtain ⟨c, hc⟩ : ∃ c, c = if ph then CAN_CNT_D_ERR_DATA k else CAN_CNT_D_ERR_NOM k := ⟨_, rfl⟩
  have hcaddr : c.addr = (CAN_CNT_D_ERR_DATA k).addr := by rw [hc]; cases ph <;> rfl
  have htu : t = incSat u c := by rw [ht, hu, hc, errCounted]
  have hsu : regsOnly [(CAN_ERRC_LEC k).addr, (CAN_EVT_PROTO_ERR k).addr] s u := by
    rw [hu]
    exact regsOnly_mono (regsOnly_wrs s _) (by simp [CAN_ERRC_LEC, CAN_ERRC_LEC_DATA])
  have hcnt : regsOnly [(CAN_CNT_D_ERR_DATA k).addr] u t := by
    rw [htu, ← hcaddr]
    exact regsOnly_wr u c _
  have hold : ∀ f : Fld, f.addr = (CAN_CNT_D_ERR_DATA k).addr → rd u f = rd s f := fun f hf =>
    rd_of_cellsBut hsu.2 f (by simp [hf, CAN_CNT_D_ERR_DATA, CAN_ERRC_LEC, CAN_EVT_PROTO_ERR])
  have hlast : ∀ {f : Fld} {v : Nat}, lastTo f [(CAN_ERRC_LEC 0, kind), (CAN_ERRC_LEC_DATA 0, natOf ph), (CAN_EVT_PROTO_ERR 0, 1)] = some v →
      rd u (f.up (0x400 * k)) = v % 2 ^ f.w := fun h => by
    rw [hu]
    exact rd_canWrs s k (l := [(CAN_ERRC_LEC 0, kind), (CAN_ERRC_LEC_DATA 0, natOf ph), (CAN_EVT_PROTO_ERR 0, 1)]) rfl h
  have hdata : rd u (CAN_CNT_D_ERR_DATA k) < 2 ^ 12 := rd_lt u _
  have hnom : rd u (CAN_CNT_D_ERR_NOM k) < 2 ^ 12 := rd_lt u _
  refine ⟨?_, ?_, ?_, ?_, ?_, regsOnly_trans (regsOnly_mono hsu (by simp)) (regsOnly_mono hcnt (by simp))⟩
  · rw [rd_of_cellsBut_one hcnt.2 (f := CAN_ERRC_LEC k) (sameCan_ne k (by decide))]
    exact (hlast (f := CAN_ERRC_LEC 0) rfl).trans (Nat.mod_eq_of_lt hkind)
  · rw [rd_of_cellsBut_one hcnt.2 (f := CAN_ERRC_LEC_DATA k) (sameCan_ne k (by decide))]
    exact (hlast (f := CAN_ERRC_LEC_DATA 0) rfl).trans (natOf_mod ph)
  · rw [rd_of_cellsBut_one hcnt.2 (f := CAN_EVT_PROTO_ERR k) (sameCan_ne k (by decide))]
    exact hlast (f := CAN_EVT_PROTO_ERR 0) rfl
  · rw [htu, ← hold (CAN_CNT_D_ERR_DATA k) rfl, hc]
    cases ph
    · exact (rd_wr_apart u _ rfl rfl).trans (Nat.min_eq_left (Nat.le_sub_one_of_lt hdata)).symm
    · exact (regsOnly_counted u (CAN_CNT_D_ERR_DATA k) rfl).1
  · rw [htu, ← hold (CAN_CNT_D_ERR_NOM k) rfl, hc]
    cases ph
    · exact (regsOnly_counted u (CAN_CNT_D_ERR_NOM k) rfl).1
    · exact (rd_wr_apart u _ rfl rfl).trans (Nat.min_eq_left (Nat.le_sub_one_of_lt hnom)).symm

theorem exec_canProtocolError {s : State} {k : Nat} (hb : s.rst.busy = false) (hk : k < 16)
    (hst : rd s (CAN_STAT_STATE k) = 1 ∨ rd s (CAN_STAT_STATE k) = 3 ∨ rd s (CAN_STAT_STATE k) = 6) (kind amount : Nat) (ph : Bool) :
    exec (.canProtocolError k kind ph amount) s = .next (canError s k kind ph amount) :=
  congrArg Host.Outcome.next ((exec_onCan hb hk _).trans (if_pos hst))

/-! ## Error confinement (R244, R253, R254) -/

/-- BUS_OFF, or RECOVERING with AUTO_REC, has been entered, and its instant is noted. -/
def offEntered (s : State) (k : Nat) : State :=
  let t := wrs (txbBack s k) [(CAN_STAT_STATE k, if flag s (CAN_CTRL_AUTO_REC k) then nRecovering else nBusOff),
    (CAN_STAT_ERR k, 2), (CAN_EVT_BUS_OFF k, 1)]
  t.setCan k { t.can k with offAt := some s.clk.ft.toNat }

theorem offEntered_spec (s : State) (k : Nat) : rd (offEntered s k) (CAN_STAT_ERR k) = 2 ∧ rd (offEntered s k) (CAN_EVT_BUS_OFF k) = 1 ∧
    rd (offEntered s k) (CAN_STAT_STATE k) = (if rd s (CAN_CTRL_AUTO_REC k) = 1 then 5 else 4) ∧
    ((offEntered s k).can k).offAt = some s.clk.ft.toNat := by
  obtain ⟨st, hst⟩ : ∃ st, st = if flag s (CAN_CTRL_AUTO_REC k) then nRecovering else nBusOff := ⟨_, rfl⟩
  have hlast : ∀ {f : Fld} {v : Nat}, lastTo f [(CAN_STAT_STATE 0, st), (CAN_STAT_ERR 0, 2), (CAN_EVT_BUS_OFF 0, 1)] = some v →
      rd (offEntered s k) (f.up (0x400 * k)) = v % 2 ^ f.w := fun h => by
    rw [offEntered, ← hst, rd_setCan]
    exact rd_canWrs _ k (l := [(CAN_STAT_STATE 0, st), (CAN_STAT_ERR 0, 2), (CAN_EVT_BUS_OFF 0, 1)]) rfl h
  refine ⟨hlast (f := CAN_STAT_ERR 0) rfl, hlast (f := CAN_EVT_BUS_OFF 0) rfl, (hlast (f := CAN_STAT_STATE 0) rfl).trans ?_,
    congrArg Can.offAt (State.can_setCan_self _ k _)⟩
  rw [hst]
  simp only [flag_iff s (f := CAN_CTRL_AUTO_REC k) rfl]
  split <;> rfl

theorem errSettle_off {s v : State} {k : Nat} (htec : 255 < rd s (CAN_ERRC_TEC k)) (hst : rd s (CAN_STAT_STATE k) = 3)
    (hv : v = raise (offEntered s k) 72 (2 ^ k)) :
    errSettle s k = if (s.can k).asked = some s.clk.ft.toNat ∧ canState v k = 4 then wr (advance v 1) (CAN_STAT_STATE k) 5 else v := by
  rw [hv]
  exact (if_pos htec).trans (if_pos hst)

/-- A counter beyond 127 makes an ERROR_ACTIVE controller ERROR_PASSIVE. -/
theorem errSettle_passive {s : State} {k : Nat} (htec : rd s (CAN_ERRC_TEC k) ≤ 255)
    (h : 127 < rd s (CAN_ERRC_TEC k) ∨ 127 < rd s (CAN_ERRC_REC k)) (herr : rd s (CAN_STAT_ERR k) = 0) : ∃ u, errSettle s k = raise u 73 (2 ^ k) ∧
      rd u (CAN_STAT_ERR k) = 1 ∧ rd u (CAN_EVT_PASSIVE k) = 1 ∧ regsOnly [(CAN_STAT_ERR k).addr, (CAN_EVT_PASSIVE k).addr] s u :=
  ⟨_, (if_neg (Nat.not_lt.2 htec)).trans ((if_pos h).trans (if_pos herr)),
    rd_canWrs s k (l := [(CAN_STAT_ERR 0, 1), (CAN_EVT_PASSIVE 0, 1)]) (f := CAN_STAT_ERR 0) rfl rfl,
    rd_canWrs s k (l := [(CAN_STAT_ERR 0, 1), (CAN_EVT_PASSIVE 0, 1)]) (f := CAN_EVT_PASSIVE 0) rfl rfl, regsOnly_wrs s _⟩

theorem errSettle_active {s : State} {k : Nat} (htec : rd s (CAN_ERRC_TEC k) ≤ 127) (hrec : rd s (CAN_ERRC_REC k) ≤ 127) :
    errSettle s k = wr s (CAN_STAT_ERR k) 0 := by
  refine (if_neg (by omega)).trans (if_neg ?_)
  omega

/-- Settles O41: the commands of a buffer by `exec_txbReq` and its siblings, the choice by `chooseTxb_spec`, a frame that completes by
`exec_canTxDone` and `txbSent_spec`, lost arbitration by `txbBack_eq`, an error by `canError_eq` and `errCounted_spec`, error confinement by
`errSettle_off` and its siblings. -/
theorem canBuffersAreSent : Obligations.CanBuffersAreSent := by
  unfold Obligations.CanBuffersAreSent
  refine ⟨fun s k b hb hk h3 => ⟨fun busy => ⟨_, exec_txbReq hb hk h3 busy, txbAsked_spec s k b⟩, exec_txbCancel_idle hb hk,
      fun hp hs => ?_, fun hp hs => ?_, ⟨_, rfl, txbCancelled_spec s k b⟩, fun f delay hw hf hfd hbrs htdc hd => ?_,
      fun f delay hw hf hgood => ?_, fun hw => ⟨_, rfl, exec_arbitrationLost hb hk hw rfl, fun hc => ?_, fun hc => ?_⟩⟩,
    fun s t k ht => ⟨fun hst hl hr hbusy hw => ?_, fun h => ?_⟩, fun s k b => chooseTxb_spec,
    fun s k kind amount ph hb hk hkind hst => ?_, fun s k tec htec => ?_⟩
  · rw [exec_txbCancel hb hk h3 hp, if_neg (by rw [hs]; decide)]
  · exact ⟨_, (exec_txbCancel hb hk h3 hp).trans (by rw [if_pos hs]), rd_wr_bit s 1 rfl rfl, regsOnly_wr s (CAN_TXB_CTRL_CANCEL k b) 1⟩
  · subst hf
    rw [exec_canTxDone hb hk hw, if_pos ⟨hfd, hbrs, htdc, hd⟩]
  · subst hf
    have hno : ¬((txbFrame s k b).fd = true ∧ (txbFrame s k b).brs = true ∧ rd s (CAN_DBT_TDC_EN k) = 1 ∧ 127 < delay) := by
      rintro ⟨hfd, hbrs, htdc, hd⟩
      simp [hfd, hbrs, htdc, Nat.not_le.2 hd] at hgood
    exact ⟨_, (exec_canTxDone hb hk hw delay).trans (by rw [if_neg hno]), txbSent_spec s k b⟩
  · rw [txbBack_eq hw, if_pos hc]
  · rw [txbBack_eq hw, if_neg (by rw [hc]; decide)]
    exact ⟨rd_wr_bit s 0 rfl rfl, rd_wr_apart s 0 rfl rfl, regsOnly_wr s (CAN_TXB_CTRL_SOF k b) 0⟩
  · have hmay := (maySend_iff t k).2 ⟨hst, hl, hr, hbusy, hw⟩
    exact ⟨sofGo_none ht hmay, fun b hc => ⟨_, sofGo_some ht hmay hc, rd_wr_bit t 1 rfl rfl, regsOnly_wr t (CAN_TXB_CTRL_SOF k b) 1⟩⟩
  · refine sofGo_idle ht fun hmay => ?_
    obtain ⟨hst, hl, hr, hbusy, hw⟩ := (maySend_iff t k).1 hmay
    simp [hst, hl, hr, hbusy, hw] at h
  · obtain ⟨hlec, hphase, hevt, hdata, hnom, hregs⟩ := errCounted_spec s ph hkind rfl
    refine ⟨errRecorded s k kind ph, (rd_setCan _ _ _ _).trans hlec, (rd_setCan _ _ _ _).trans hphase, (rd_setCan _ _ _ _).trans hevt,
      (rd_setCan _ _ _ _).trans hdata, (rd_setCan _ _ _ _).trans hnom, State.can_setCan_self _ k _,
      canCtlFrame_setCan (canCtlFrame_of_regsOnly hregs) _, fun hd => ?_, fun hd => ?_⟩
    · rw [exec_canProtocolError hb hk hst, canError_eq s k kind amount ph rfl, if_pos hd]
    · rw [exec_canProtocolError hb hk hst, canError_eq s k kind amount ph rfl, hd, if_neg (by decide)]
  · subst htec
    refine ⟨fun h hst => ?_, errSettle_passive, fun h hrec => ⟨_, errSettle_active h hrec, rd_wr_same s 0 rfl, regsOnly_wr s (CAN_STAT_ERR k) 0⟩⟩
    obtain ⟨herr, hevt, hstate, hoff⟩ := offEntered_spec s k
    exact ⟨_, _, rfl, herr, hevt, hstate, hoff, errSettle_off h hst rfl⟩

end Sys2Proof.Machine

/-! SUPPORT. Obligation O42: edges and timed actions of the discrete lines, their pads, their periods, and their readback. -/

namespace Sys2Proof.Machine

/-! ## Frames of one line -/

theorem lineFrame_refl (n : Nat) (l : List Nat) (s : State) : lineFrame n l s s :=
  ⟨partsBut_refl _ s, cellsBut_refl l s, fun _ _ => rfl⟩

theorem lineFrame_wr {n : Nat} {l : List Nat} {s t : State} {f : Fld} (v : Nat) (h : lineFrame n l s t) (hf : f.addr ∈ l) :
    lineFrame n l s (wr t f v) := by
  obtain ⟨hparts, hcells, hlines⟩ := h
  exact ⟨partsBut_trans hparts (partsBut_mono (partsBut_wr t f v) (by decide)),
    cellsBut_trans hcells (cellsBut_mono (cellsBut_wr t f v) (by simpa using hf)), hlines⟩

theorem line_setLine_ne (s : State) {n m : Nat} (x : Line) (h : m ≠ n) : (s.setLine n x).line m = s.line m := by
  rw [State.line_setLine, if_neg h]

/-- What the lines hold beside their registers, and the registers of the lines, are alike in two states. -/
def linesAlike (s t : State) : Prop :=
  t.lines = s.lines ∧ ∀ a, 0x400C0000 ≤ a → a < 0x400C2000 → cellAt t a = cellAt s a

theorem linesAlike_refl (s : State) : linesAlike s s := ⟨rfl, fun _ _ _ => rfl⟩

theorem linesAlike_trans {s t u : State} (h : linesAlike s t) (g : linesAlike t u) : linesAlike s u :=
  ⟨g.1.trans h.1, fun a hlo hhi => (g.2 a hlo hhi).trans (h.2 a hlo hhi)⟩

theorem linesAlike_ite {c : Prop} [Decidable c] {s t u : State} (ht : linesAlike s t) (hu : linesAlike s u) :
    linesAlike s (if c then t else u) := by
  split
  · exact ht
  · exact hu

theorem linesAlike_of_parts {l : List Part} {s t : State} (h : partsBut l s t) (hregs : .regs ∉ l) (hlines : .lines ∉ l) :
    linesAlike s t :=
  ⟨h .lines hlines, fun a _ _ => cellAt_congr a (h .regs hregs)⟩

theorem linesAlike_of_cells {l : List Part} {c : List Nat} {s t : State} (h : partsBut l s t) (hlines : .lines ∉ l) (hc : cellsBut c s t)
    (hout : ∀ a ∈ c, a < 0x400C0000 ∨ 0x400C2000 ≤ a) : linesAlike s t :=
  ⟨h .lines hlines, fun a hlo hhi => hc a fun ha => by have := hout a ha; omega⟩

/-- A write of a register beyond those of the lines. -/
theorem linesAlike_wr {s t : State} (h : linesAlike s t) (f : Fld) (v : Nat) (hf : 0x400C2000 ≤ f.addr) : linesAlike s (wr t f v) :=
  linesAlike_trans h (linesAlike_of_cells (partsBut_wr t f v) (by decide) (cellsBut_wr t f v) fun a ha => .inr (by simp_all))

theorem linesAlike_each {f : State → Nat → State} {l : List Nat} (s : State) (h : ∀ u, ∀ k ∈ l, linesAlike u (f u k)) :
    linesAlike s (each l f s) :=
  ⟨each_same s (·.lines) f l fun u k hk => (h u k hk).1,
    fun a hlo hhi => each_same s (cellAt · a) f l fun u k hk => (h u k hk).2 a hlo hhi⟩

theorem line_of_linesAlike {s t : State} (h : linesAlike s t) (n : Nat) : t.line n = s.line n := State.line_congr n h.1

/-- A field of the registers of a line reads alike. -/
theorem rd_of_linesAlike {s t : State} (h : linesAlike s t) {f : Fld} {n : Nat} (hn : n < 96) (hlo : 0x400C0000 + 0x40 * n ≤ f.addr)
    (hhi : f.addr < 0x400C0040 + 0x40 * n) : rd t f = rd s f := by
  rw [rd, rd, h.2 _ (by omega) (by omega)]

/-! ## Raw levels (R259) -/

theorem padTake_spec (s : State) {n : Nat} (hn : n < 96) (lvl : Bool) : ∃ t, padTake s n lvl = t ∧ (t.line n).pad = lvl ∧
    (t.line n).run = (if s.sys.loaded = false ∨ flag s (DIO_STAT_LEVEL n) = lvl then none
      else if (s.line n).run.isSome then (s.line n).run else some s.clk.ft.toNat) ∧
    partsBut [.lines] s t ∧ (∀ m, m ≠ n → t.line m = s.line m) ∧ (t.line n).fifo = (s.line n).fifo ∧ (t.line n).drive = (s.line n).drive := by
  refine ⟨_, if_neg (by omega), ?_, ?_, partsBut_setLine s n _, fun m hm => line_setLine_ne s _ hm, ?_, ?_⟩ <;>
    rw [State.line_setLine_self]
  simp only [Bool.not_eq_true']

/-! ## Filtered levels (R259 to R261) -/

theorem filtUnits_eq (s : State) (n : Nat) : filtUnits s n =
    (rd s (DIO_CFG_FILT n) * (if rd s (DIO_CFG_FUNIT n) = 1 then 1000 else 16) : Nat) * 2 ^ 48 := by
  simp only [filtUnits, flag_iff s (f := DIO_CFG_FUNIT n) rfl]
  push_cast
  rfl

theorem edgeAt_run {s : State} {n : Nat} {r u : Int} (hr : (s.line n).run = some r)
    (hu : u = r + (rd s (DIO_CFG_FILT n) * (if rd s (DIO_CFG_FUNIT n) = 1 then 1000 else 16) : Nat) * 2 ^ 48) : edgeAt s n = some u := by
  rw [edgeAt, hr, hu, ← filtUnits_eq]
  rfl

theorem edgeTaken_iff (sel : Nat) (rise : Bool) : edgeTaken sel rise = true ↔ sel = 3 ∨ sel = if rise then 1 else 2 := by
  unfold edgeTaken
  split <;> cases rise <;> simp_all

/-- The status of a line is no event of the lines. -/
theorem dioStat_ne_evt (n : Nat) : (DIO_STAT_LEVEL n).addr ≠ DIO_EVT_TS_OVF.addr := by
  simp only [DIO_STAT_LEVEL, DIO_EVT_TS_OVF]; omega

/-- The status of a line is not that of its edge FIFO. -/
theorem dioStat_ne_tsStat (n : Nat) : (DIO_STAT_LEVEL n).addr ≠ (DIO_TS_STAT_OVF n).addr := by
  simp only [DIO_STAT_LEVEL, DIO_TS_STAT_OVF]; omega

/-- OVF of a line and TS_OVF take values, and nothing else changes. -/
theorem dioOverflow_spec (s : State) (n o v : Nat) : ∃ t, wrs s [(DIO_TS_STAT_OVF n, o), (DIO_EVT_TS_OVF, v)] = t ∧
    rd t (DIO_TS_STAT_OVF n) = o % 2 ∧ rd t DIO_EVT_TS_OVF = v % 2 ∧ rd t (DIO_STAT_LEVEL n) = rd s (DIO_STAT_LEVEL n) ∧
    lineFrame n [(DIO_TS_STAT_OVF n).addr, DIO_EVT_TS_OVF.addr] s t :=
  ⟨_, rfl, (rd_wr_apart _ _ rfl rfl).trans (rd_wr_bit s o rfl rfl), rd_wr_bit _ v rfl rfl,
    (rd_wr_addr _ _ _ _ (dioStat_ne_evt n)).trans (rd_wr_addr _ _ _ _ (dioStat_ne_tsStat n)),
    lineFrame_wr v (lineFrame_wr o (lineFrame_refl n _ s) (by simp)) (by simp)⟩

/-- An edge that a FIFO of 16 entries is given: the filtered level and the run are as they were, and the FIFO takes the edge, leaves
it, or drops it. -/
theorem fifoPush_spec {s t : State} {n : Nat} {e : Stamp} (ht : t = fifoPush s n e) :
    rd t (DIO_STAT_LEVEL n) = rd s (DIO_STAT_LEVEL n) ∧ (t.line n).run = (s.line n).run ∧
    (edgeTaken (rd s (DIO_CFG_TS_EDGE n)) e.rise = true → (s.line n).fifo.length < 16 → (t.line n).fifo = (s.line n).fifo ++ [e]) ∧
    (¬edgeTaken (rd s (DIO_CFG_TS_EDGE n)) e.rise = true → (t.line n).fifo = (s.line n).fifo) ∧
    (edgeTaken (rd s (DIO_CFG_TS_EDGE n)) e.rise = true → 16 ≤ (s.line n).fifo.length → (t.line n).fifo = (s.line n).fifo ∧
      rd t (DIO_TS_STAT_OVF n) = 1 ∧ (t.line n).miss = some (s.clk.ft.toNat, e, rd s (DIO_TS_STAT_OVF n), rd s DIO_EVT_TS_OVF)) := by
  subst ht
  unfold fifoPush
  by_cases htake : edgeTaken (rd s (DIO_CFG_TS_EDGE n)) e.rise = true
  · rw [if_neg (by simp [htake])]
    split
    next hlen =>
      refine ⟨rd_setLine s n _ _, ?_, fun _ _ => ?_, fun h => absurd htake h, fun _ h => absurd hlen (Nat.not_lt.2 h)⟩ <;>
        rw [State.line_setLine_self]
    next hlen =>
      obtain ⟨t, ht, hovf, -, hlevel, -⟩ := dioOverflow_spec (s.setLine n { s.line n with
        miss := some (s.clk.ft.toNat, e, rd s (DIO_TS_STAT_OVF n), rd s DIO_EVT_TS_OVF) }) n 1 1
      have hline : t.line n = { s.line n with miss := some (s.clk.ft.toNat, e, rd s (DIO_TS_STAT_OVF n), rd s DIO_EVT_TS_OVF) } := by
        rw [← ht, State.line_wrs, State.line_setLine_self]
      dsimp only
      rw [ht, hline]
      exact ⟨hlevel, rfl, fun _ h => absurd h hlen, fun h => absurd htake h, fun _ _ => ⟨rfl, hovf, rfl⟩⟩
  · rw [if_pos (by simp [htake])]
    exact ⟨rfl, rfl, fun h => absurd h htake, fun _ => rfl, fun h => absurd h htake⟩

theorem linesAlike_capPush (s : State) {k : Nat} (hk : k < 32) (e : Stamp) : linesAlike s (capPush s k e) := by
  by_cases h : (caps s k).length < 4
  · exact linesAlike_of_parts (capPush_stored e h).2 (by decide) (by decide)
  · obtain ⟨-, -, -, hparts, hcells⟩ := capPush_dropped e h
    refine linesAlike_of_cells hparts (by decide) hcells fun a ha => .inl ?_
    simp only [List.mem_cons, List.not_mem_nil, or_false, BELL_CAP_STAT_OVF, BELL_EVT_CAP_OVF] at ha
    omega

theorem linesAlike_capEdge (s : State) (src : Nat) (e : Stamp) : linesAlike s (capEdge s src e) :=
  linesAlike_each s fun u _ hk => linesAlike_capPush u (List.mem_range.1 (List.mem_filter.1 hk).1) e

theorem linesAlike_sensorSee (s : State) (n : Nat) (e : Stamp) : linesAlike s (sensorSee s n e) :=
  linesAlike_ite (linesAlike_refl s) (linesAlike_of_parts (partsBut_withDrv s _) (by decide) (by decide))

/-- A decoder's own state is none of a line. -/
theorem linesAlike_setQuad {s t : State} (h : linesAlike s t) (d : Nat) (x : Quad) : linesAlike s (t.setQuad d x) :=
  linesAlike_trans h ⟨setQuad_lines t d x, fun a _ _ => cellAt_setQuad t d x a⟩

theorem linesAlike_quadIndex {s t : State} (h : linesAlike s t) (d : Nat) : linesAlike s (quadIndex t d) := by
  have hidx : linesAlike s (wr t (DIO_QD_IDX_COUNT d) (rd t (DIO_QD_CNT_COUNT d))) :=
    linesAlike_wr h _ _ (Nat.le_add_right_of_le (by decide))
  have hcnt : linesAlike s (wr (wr t (DIO_QD_IDX_COUNT d) (rd t (DIO_QD_CNT_COUNT d))) (DIO_QD_CNT_COUNT d) 0) :=
    linesAlike_wr hidx _ _ (Nat.le_add_right_of_le (by decide))
  unfold quadIndex
  dsimp only
  exact linesAlike_ite h (linesAlike_ite hcnt (linesAlike_ite (linesAlike_setQuad hcnt d _) hidx))

/-- The decoders change no line and no register of a line. -/
theorem linesAlike_quadTake (old s : State) (d : Nat) : linesAlike s (quadTake old s d) := by
  have hindex {c : Prop} [Decidable c] {t : State} (h : linesAlike s t) : linesAlike s (if c then quadIndex t d else t) :=
    linesAlike_ite (linesAlike_quadIndex h d) h
  have hmissed : linesAlike s (wr (incSat s (DIO_QD_ERR_ERR d)) DIO_EVT_QD_ERR 1) :=
    linesAlike_wr (linesAlike_wr (linesAlike_refl s) _ _ (Nat.le_add_right_of_le (by decide))) _ _ (by decide)
  have hcounted (v : Int) : linesAlike s (wrI s (DIO_QD_CNT_COUNT d) v) :=
    linesAlike_wr (linesAlike_refl s) _ _ (Nat.le_add_right_of_le (by decide))
  unfold quadTake
  dsimp only
  exact linesAlike_ite (linesAlike_refl s)
    (hindex (linesAlike_ite hmissed (linesAlike_ite (linesAlike_setQuad (hcounted _) d _) (linesAlike_refl s))))

/-- A line whose filtered level becomes that of its pad. -/
def levelTaken (s : State) (n : Nat) : State :=
  wr (s.setLine n { s.line n with run := none }) (DIO_STAT_LEVEL n) (natOf (s.line n).pad)

theorem lineEdge_some {s : State} {n : Nat} {u : Int} {e : Stamp} (h : edgeAt s n = some u)
    (he : e = ⟨(u / 2 ^ 48).toNat, (u / 2 ^ 32 % 2 ^ 16).toNat, (s.line n).pad⟩) :
    lineEdge s n = sensorSee (capEdge (fifoPush (levelTaken s n) n e) n e) n e := by
  subst he
  simp only [lineEdge, h]
  rfl

/-- The edge FIFO of a line takes an edge that TS_EDGE selects, and drops it where it holds 16. -/
def edgeStored (n : Nat) (e : Stamp) (s t : State) : Prop :=
  ∀ takes, (takes ↔ rd s (DIO_CFG_TS_EDGE n) = 3 ∨ rd s (DIO_CFG_TS_EDGE n) = (if e.rise then 1 else 2)) →
    (takes → (s.line n).fifo.length < 16 → (t.line n).fifo = (s.line n).fifo ++ [e]) ∧
    (¬ takes → (t.line n).fifo = (s.line n).fifo) ∧
    (takes → 16 ≤ (s.line n).fifo.length → (t.line n).fifo = (s.line n).fifo ∧ rd t (DIO_TS_STAT_OVF n) = 1 ∧
      (t.line n).miss = some (s.clk.ft.toNat, e, rd s (DIO_TS_STAT_OVF n), rd s DIO_EVT_TS_OVF))

/-- A filtered level that changes gives its stamp to the line's FIFO, before or after the decoders have seen it. -/
theorem lineEdge_spec {s t : State} {n : Nat} (hn : n < 96) {u : Int} {e : Stamp} (h : edgeAt s n = some u)
    (he : e = ⟨(u / 2 ^ 48).toNat, (u / 2 ^ 32 % 2 ^ 16).toNat, (s.line n).pad⟩)
    (ht : t = lineEdge s n ∨ t = each (List.range 12) (quadTake s) (lineEdge s n)) :
    rd t (DIO_STAT_LEVEL n) = natOf e.rise ∧ (t.line n).run = none ∧ edgeStored n e s t := by
  have hrise : e.rise = (s.line n).pad := by rw [he]
  have halike : linesAlike (fifoPush (levelTaken s n) n e) t := by
    have hedge := linesAlike_trans (linesAlike_capEdge (fifoPush (levelTaken s n) n e) n e) (linesAlike_sensorSee _ n e)
    rw [← lineEdge_some h he] at hedge
    obtain rfl | rfl := ht
    · exact hedge
    · exact linesAlike_trans hedge (linesAlike_each _ fun u k _ => linesAlike_quadTake s u k)
  obtain ⟨hlevel, hrun, hstored, hleft, hdropped⟩ := fifoPush_spec (s := levelTaken s n) (n := n) (e := e) rfl
  have hline : (levelTaken s n).line n = { s.line n with run := none } :=
    (State.line_wr _ _ _ n).trans (State.line_setLine_self s n _)
  have hkept : ∀ f : Fld, f.addr ≠ (DIO_STAT_LEVEL n).addr → rd (levelTaken s n) f = rd s f := fun f hf =>
    (rd_wr_addr _ _ f _ hf).trans (rd_setLine s n _ f)
  rw [hkept (DIO_CFG_TS_EDGE n) (dioCfg_ne_stat n n), hline] at hstored hleft hdropped
  rw [hkept (DIO_TS_STAT_OVF n) (dioStat_ne_tsStat n).symm, hkept DIO_EVT_TS_OVF (dioStat_ne_evt n).symm] at hdropped
  rw [hline] at hrun
  have hstat : rd t (DIO_STAT_LEVEL n) = natOf e.rise := by
    rw [rd_of_linesAlike halike hn (Nat.le_of_lt (by simp only [DIO_STAT_LEVEL]; omega)) (by simp only [DIO_STAT_LEVEL]; omega), hlevel, hrise]
    exact rd_wrB _ _ rfl rfl
  refine ⟨hstat, by rw [line_of_linesAlike halike, hrun], fun takes htakes => ?_⟩
  rw [← edgeTaken_iff] at htakes
  rw [line_of_linesAlike halike,
    rd_of_linesAlike halike hn (Nat.le_of_lt (by simp only [DIO_TS_STAT_OVF]; omega)) (by simp only [DIO_TS_STAT_OVF]; omega), htakes]
  exact ⟨hstored, hleft, hdropped⟩

/-! ## The lines of one cycle (R259, R262) -/

theorem inputsDue_unloaded {s : State} (h : s.sys.loaded = false) : inputsDue s = s := by
  rw [inputsDue, h]
  rfl

theorem settleLines_nil (k : Nat) (s : State) : settleLines k [] s = s := by cases k <;> rfl

theorem settleLines_one (k : Nat) (s : State) (n : Nat) : settleLines (k + 1) [n] s =
    if edgeCycle s n = none then s else each (List.range 12) (quadTake s) (lineEdge s n) := by
  have hnext : nextEdge s [n] = edgeCycle s n := rfl
  rw [settleLines, hnext]
  cases hc : edgeCycle s n with
  | none => rfl
  | some c => simp [hc, settleLines_nil, each]

/-- One line alone runs: it is the only one whose filtered level can change. -/
theorem running_one {s : State} {n : Nat} (hn : n < 96) (hr : (s.line n).run.isSome = true) (hall : ∀ m, m ≠ n → (s.line m).run = none) :
    (those 96 fun m => (s.line m).run.isSome) = [n] := by
  have hpred : (fun m => (s.line m).run.isSome) = fun m => m == n := by
    funext m
    by_cases hm : m = n
    · simp [hm, hr]
    · simp [hm, hall m hm]
  rw [those, hpred, List.filter_beq, List.count_eq_one_of_mem List.nodup_range (List.mem_range.2 hn)]
  rfl

/-- What falls due in the present cycle where one line alone runs. -/
theorem inputsDue_one {s : State} {n : Nat} (hn : n < 96) {u : Int} (hu : edgeAt s n = some u) (hl : s.sys.loaded = true)
    (hall : ∀ m, m ≠ n → (s.line m).run = none) :
    (s.clk.ft.toNat + cycleUnits s ≤ u → inputsDue s = s) ∧
    (u < s.clk.ft.toNat + cycleUnits s → inputsDue s = each (List.range 12) (quadTake s) (lineEdge s n)) := by
  have hr : (s.line n).run.isSome = true := by
    rw [← Option.isSome_map (f := (· + filtUnits s n)), ← edgeAt, hu]
    rfl
  have hdue : inputsDue s = if edgeCycle s n = none then s else each (List.range 12) (quadTake s) (lineEdge s n) := by
    rw [← settleLines_one 95, ← running_one hn hr hall, inputsDue, if_pos hl]
  have hcycle : edgeCycle s n = none ↔ s.clk.ft.toNat + cycleUnits s ≤ u := by
    simp [edgeCycle, hu]
  rw [hdue]
  exact ⟨fun h => if_pos (hcycle.2 h), fun h => if_neg fun hn => absurd (hcycle.1 hn) (not_le.2 h)⟩

/-! ## Pops of the edge FIFO (R261) -/

/-- A pop in a cycle without a dropped edge takes the head. -/
theorem fifoPop_plain {s : State} {n : Nat} (h : ∀ x, (s.line n).miss = some x → x.1 ≠ s.clk.ft.toNat) :
    fifoPop s n = s.setLine n { s.line n with fifo := (s.line n).fifo.drop 1 } := by
  unfold fifoPop
  dsimp only
  split
  next hm => exact if_neg (h _ hm)
  next => rfl

/-- A pop in the cycle in which a full FIFO dropped an edge takes the head first and keeps the edge. -/
theorem fifoPop_missed {s : State} {n : Nat} {x : Nat × Stamp × Nat × Nat} (hm : (s.line n).miss = some x) (hx : x.1 = s.clk.ft.toNat) :
    fifoPop s n = wrs (s.setLine n { s.line n with fifo := (s.line n).fifo.drop 1 ++ [x.2.1], miss := none })
      [(DIO_TS_STAT_OVF n, x.2.2.1), (DIO_EVT_TS_OVF, x.2.2.2)] := by
  obtain ⟨ft, e, ovf, evt⟩ := x
  simp only [fifoPop, hm]
  exact if_pos hx

theorem tsPop_spec (s : State) {n : Nat} (hn : n < 96) : ∃ t, exec (.tsPop n) s = .next t ∧
    ((∀ x, (s.line n).miss = some x → x.1 ≠ s.clk.ft.toNat) → (t.line n).fifo = (s.line n).fifo.drop 1 ∧ lineFrame n [] s t) ∧
    (∀ x, (s.line n).miss = some x → x.1 = s.clk.ft.toNat → (t.line n).fifo = (s.line n).fifo.drop 1 ++ [x.2.1] ∧
      rd t (DIO_TS_STAT_OVF n) = x.2.2.1 % 2 ∧ rd t DIO_EVT_TS_OVF = x.2.2.2 % 2 ∧ (t.line n).miss = none ∧
      lineFrame n [(DIO_TS_STAT_OVF n).addr, DIO_EVT_TS_OVF.addr] s t) := by
  refine ⟨_, congrArg Host.Outcome.next (if_pos hn), fun h => ?_, fun x hm hx => ?_⟩
  · rw [fifoPop_plain h]
    exact ⟨by rw [State.line_setLine_self], lineFrame_setLine _ (lineFrame_refl n [] s)⟩
  · obtain ⟨w, hw⟩ : ∃ w, w = s.setLine n { s.line n with fifo := (s.line n).fifo.drop 1 ++ [x.2.1], miss := none } := ⟨_, rfl⟩
    obtain ⟨t, ht, hovf, hevt, -, -⟩ := dioOverflow_spec w n x.2.2.1 x.2.2.2
    have hline : t.line n = w.line n := by rw [← ht, State.line_wrs]
    rw [fifoPop_missed hm hx, ← hw, ht, hline, hw, State.line_setLine_self]
    refine ⟨rfl, hovf, hevt, rfl, ?_⟩
    rw [← ht, hw]
    exact lineFrame_wr _ (lineFrame_wr _ (lineFrame_setLine _ (lineFrame_refl n _ s)) (by simp)) (by simp)

/-! ## Actions on a line (R266, R267, R271) -/

theorem dioMode_congr {s t : State} (n : Nat) (h : t.regs = s.regs) : dioMode t n = dioMode s n := by
  rw [dioMode, rd_congr _ h, dioMode]

theorem dioActs_congr {s t : State} (hregs : t.regs = s.regs) (hrst : t.rst = s.rst) : dioActs t = dioActs s := by
  have hstate : hubState t = hubState s := rd_congr _ hregs
  rw [dioActs, running, hstate, hrst, dioActs, running]

/-- Whether a line heeds an action depends on the registers, the holds of a reset, and whether it is a chip select. -/
theorem dioHeeds_congr {s t : State} {n : Nat} (hregs : t.regs = s.regs) (hrst : t.rst = s.rst) (hcs : (t.line n).cs = (s.line n).cs) :
    dioHeeds t n = dioHeeds s n := by
  rw [dioHeeds, dioMode_congr n hregs, flag_congr (rd_congr _ hregs), hcs, dioActs_congr hregs hrst, dioHeeds]

/-- A heeded set, clear, toggle or pulse falls on the level of the line, by rank among the actions of the cycle. -/
theorem lineAct_spec {s : State} {n : Nat} {a : LineAct} (rank : Nat) (hh : dioHeeds s n = true) (hnone : a ≠ .none) (hstart : a ≠ .start) :
    ∃ t, lineAct s n rank a = t ∧
      (actedNow s (s.line n) = true →
        (t.line n).drive = (insAct (s.line n).acts (rank, a)).foldl (fun b x => actLevel b x.2) (s.line n).base) ∧
      (actedNow s (s.line n) = false → (t.line n).drive = actLevel (s.line n).drive a) ∧
      (t.line n).pulseEnd = (s.line n).pulseEnd ∧ (t.line n).queue = (s.line n).queue ∧
      partsBut [.lines] s t ∧ ∀ m, m ≠ n → t.line m = s.line m := by
  refine ⟨_, (if_neg (by simp [hh, hnone])).trans (if_neg hstart), fun h => ?_, fun h => ?_, ?_, ?_, partsBut_setLine s n _,
    fun m hm => line_setLine_ne s _ hm⟩ <;> rw [State.line_setLine_self]
  · simp only [h, if_true]
  · simp only [h, Bool.false_eq_true, if_false]
    rfl

/-- An action that is none, or starts a pulse train on a line of another mode, does nothing. -/
theorem lineAct_idle {s : State} {n : Nat} {a : LineAct} (rank : Nat) (hm : dioMode s n = 1) (ha : a = .none ∨ a = .start) :
    lineAct s n rank a = s := by
  obtain rfl | rfl := ha
  · exact if_pos (.inr rfl)
  · unfold lineAct
    simp [hm]

/-- The level that a queue action leaves on a line on which no other has fallen in the cycle. -/
def firedLevel (b : Option Bool) (a : LineAct) : Option Bool :=
  match a with
  | .set => some true
  | .clear => some false
  | .toggle => b.map (!·)
  | .pulse => some true
  | _ => b

theorem actLevel_eq (b : Option Bool) (a : LineAct) : actLevel b a = firedLevel b a := by cases a <;> rfl

/-- A queue action on a discrete output that heeds it. -/
theorem queueAct_spec {s : State} {n : Nat} (a : LineAct) (hh : dioHeeds s n = true) (hm : dioMode s n = 1) : ∃ t, lineAct s n 0 a = t ∧
    (a = .none ∨ a = .start → (t.line n).drive = (s.line n).drive) ∧
    (a ≠ .none → a ≠ .start → actedNow s (s.line n) = true →
      (t.line n).drive = (insAct (s.line n).acts (0, a)).foldl (fun b x => actLevel b x.2) (s.line n).base) ∧
    (actedNow s (s.line n) = false → (t.line n).drive = firedLevel (s.line n).drive a) ∧
    (t.line n).pulseEnd = (s.line n).pulseEnd ∧ (t.line n).queue = (s.line n).queue ∧
    partsBut [.lines] s t ∧ ∀ m, m ≠ n → t.line m = s.line m := by
  by_cases ha : a = .none ∨ a = .start
  · refine ⟨s, lineAct_idle 0 hm ha, fun _ => rfl, fun h1 h2 => absurd ha (not_or.2 ⟨h1, h2⟩), fun _ => ?_, rfl, rfl, partsBut_refl _ s,
      fun _ _ => rfl⟩
    obtain rfl | rfl := ha <;> rfl
  · obtain ⟨hnone, hstart⟩ := not_or.1 ha
    obtain ⟨t, ht, hacted, hfree, hend, hqueue, hparts, hlines⟩ := lineAct_spec 0 hh hnone hstart
    exact ⟨t, ht, fun h => absurd h ha, fun _ _ => hacted, fun h => (hfree h).trans (actLevel_eq _ a), hend, hqueue, hparts, hlines⟩

/-- The end of a queue pulse: PW µs after it, and 1 µs where PW is 0. -/
def pulseEndAt (s : State) (n : Nat) : Nat := ftNs s + (if rd s (DIO_PW_PW n) = 0 then 1 else rd s (DIO_PW_PW n)) * 1000

theorem queueFire_spec {s : State} {n : Nat} (a : LineAct) (hh : dioHeeds s n = true) (hm : dioMode s n = 1) : ∃ t, queueFire s n a = t ∧
    (a = .none ∨ a = .start → (t.line n).drive = (s.line n).drive) ∧
    (a ≠ .none → a ≠ .start → actedNow s (s.line n) = true →
      (t.line n).drive = (insAct (s.line n).acts (0, a)).foldl (fun b x => actLevel b x.2) (s.line n).base) ∧
    (actedNow s (s.line n) = false → (t.line n).drive = firedLevel (s.line n).drive a) ∧
    (t.line n).pulseEnd = (if a = .pulse then some (pulseEndAt s n) else (s.line n).pulseEnd) ∧ (t.line n).queue = (s.line n).queue ∧
    partsBut [.lines] s t ∧ ∀ m, m ≠ n → t.line m = s.line m := by
  obtain ⟨u, hu, hidle, hacted, hfree, hend, hqueue, hparts, hlines⟩ := queueAct_spec a hh hm
  unfold queueFire
  dsimp only
  rw [hu]
  by_cases hp : a = .pulse
  · rw [if_pos ⟨hp, hh⟩, if_pos hp]
    refine ⟨_, rfl, ?_⟩
    rw [State.line_setLine_self]
    exact ⟨hidle, hacted, hfree, rfl, hqueue, partsBut_trans hparts (partsBut_setLine u n _),
      fun m hm => (line_setLine_ne u _ hm).trans (hlines m hm)⟩
  · rw [if_neg fun h => hp h.1, if_neg hp]
    exact ⟨u, rfl, hidle, hacted, hfree, hend, hqueue, hparts, hlines⟩

/-- The state in which the head of a line's queue has left it. -/
def headTaken (v : State) (n : Nat) (q : List QEnt) : State := v.setLine n { v.line n with queue := q }

theorem queueActionFire_spec {s v : State} {n : Nat} {e : QEnt} {q : List QEnt} (hq : (s.line n).queue = e :: q) (hh : dioHeeds s n = true)
    (hm : dioMode s n = 1) (hv : v = if due40 e.target (ftNs s) then s else advanceTo s (ftNs s + dist40 e.target (ftNs s))) : ∃ t,
    exec (.queueActionFire n) s = .next t ∧ t.clk = v.clk ∧ (t.line n).queue = q ∧
    (e.act = .none ∨ e.act = .start → (t.line n).drive = (s.line n).drive) ∧
    (e.act ≠ .none → e.act ≠ .start → actedNow v (s.line n) = true →
      (t.line n).drive = (insAct (s.line n).acts (0, e.act)).foldl (fun b x => actLevel b x.2) (s.line n).base) ∧
    (actedNow v (s.line n) = false → (t.line n).drive = firedLevel (s.line n).drive e.act) ∧
    (t.line n).pulseEnd = (if e.act = .pulse then
      some (ftNs t + (if rd s (DIO_PW_PW n) = 0 then 1 else rd s (DIO_PW_PW n)) * 1000) else (s.line n).pulseEnd) ∧
    partsBut [.clk, .lines] s t ∧ ∀ m, m ≠ n → t.line m = s.line m := by
  have hclk : partsBut [.clk] s v := by
    rw [hv]
    split
    · exact partsBut_refl _ s
    · exact partsBut_advanceTo s _
  have hexec : exec (.queueActionFire n) s = .next (queueFire (headTaken v n q) n e.act) := by
    subst hv
    change execQueueActionFire n s = _
    simp only [execQueueActionFire, hq]
    rfl
  have hline : (headTaken v n q).line n = { s.line n with queue := q } := by
    rw [headTaken, State.line_setLine_self, State.line_congr n (hclk .lines (by decide))]
  have hregs : (headTaken v n q).regs = s.regs := hclk .regs (by decide)
  have hheeds : dioHeeds (headTaken v n q) n = true := by
    rw [dioHeeds_congr hregs (hclk .rst (by decide)) (by rw [hline]), hh]
  have hmode : dioMode (headTaken v n q) n = 1 := (dioMode_congr n hregs).trans hm
  obtain ⟨t, ht, hidle, hacted, hfree, hend, hqueue, hparts, hlines⟩ := queueFire_spec e.act hheeds hmode
  rw [hline] at hidle hacted hfree hend hqueue
  have htclk : t.clk = v.clk := hparts .clk (by decide)
  have hat : pulseEndAt (headTaken v n q) n = ftNs t + (if rd s (DIO_PW_PW n) = 0 then 1 else rd s (DIO_PW_PW n)) * 1000 := by
    rw [pulseEndAt, rd_congr _ hregs, ftNs, ftNs, htclk]
    rfl
  rw [hat] at hend
  refine ⟨t, by rw [hexec, ht], htclk, hqueue, hidle, hacted, hfree, hend, ?_, fun m hm => ?_⟩
  · exact partsBut_trans (partsBut_mono hclk (by decide))
      (partsBut_trans (partsBut_mono (partsBut_setLine v n _) (by decide)) (partsBut_mono hparts (by decide)))
  · rw [hlines m hm, headTaken, line_setLine_ne v _ hm, State.line_congr m (hclk .lines (by decide))]

theorem queuePulseEnd_spec {s v : State} {n e : Nat} (he : (s.line n).pulseEnd = some e) (hh : dioHeeds s n = true) (hv : v = advanceTo s e) :
    ∃ t, exec (.queuePulseEnd n) s = .next t ∧
      t.clk = v.clk ∧ (actedNow v (s.line n) = false → (t.line n).drive = some false) ∧
      (actedNow v (s.line n) = true →
        (t.line n).drive = (insAct (s.line n).acts (0, .clear)).foldl (fun b x => actLevel b x.2) (s.line n).base) ∧
      (t.line n).pulseEnd = none ∧
      (t.line n).queue = (s.line n).queue ∧ partsBut [.clk, .lines] s t ∧ ∀ m, m ≠ n → t.line m = s.line m := by
  obtain ⟨w, hw⟩ : ∃ w, w = v.setLine n { v.line n with pulseEnd := none } := ⟨_, rfl⟩
  have hclk : partsBut [.clk] s v := hv ▸ partsBut_advanceTo s e
  have hexec : exec (.queuePulseEnd n) s = .next (lineAct w n 0 .clear) := by
    subst hw hv
    change execQueuePulseEnd n s = _
    simp only [execQueuePulseEnd, he]
  have hline : w.line n = { s.line n with pulseEnd := none } := by
    rw [hw, State.line_setLine_self, State.line_congr n (hclk .lines (by decide))]
  have hset : partsBut [.lines] v w := hw ▸ partsBut_setLine v n _
  have hheeds : dioHeeds w n = true := by
    rw [dioHeeds_congr ((hset .regs (by decide)).trans (hclk .regs (by decide)))
      ((hset .rst (by decide)).trans (hclk .rst (by decide))) (by rw [hline]), hh]
  have hnow : ∀ l, actedNow w l = actedNow v l := fun l => by rw [actedNow, hset .clk (by decide), actedNow]
  obtain ⟨t, ht, hacted, hfree, hend, hqueue, hparts, hlines⟩ := lineAct_spec (a := .clear) 0 hheeds (by decide) (by decide)
  rw [hnow, hline] at hacted hfree
  rw [hline] at hend hqueue
  refine ⟨t, by rw [hexec, ht], (hparts .clk (by decide)).trans (hset .clk (by decide)), hfree, hacted, hend, hqueue, ?_, fun m hm => ?_⟩
  · exact partsBut_trans (partsBut_mono hclk (by decide))
      (partsBut_trans (partsBut_mono hset (by decide)) (partsBut_mono hparts (by decide)))
  · rw [hlines m hm, hw, line_setLine_ne v _ hm, State.line_congr m (hclk .lines (by decide))]

theorem exec_qFlush {s : State} {n : Nat} (hb : s.rst.busy = false) (hn : n < 96) :
    exec (.qFlush n) s = .next (s.setLine n { s.line n with queue := [] }) :=
  congrArg Host.Outcome.next ((whenAlive_alive s _ hb).trans (if_pos hn))

/-! ## Pads and periods (R265, R268, R269) -/

theorem dioPad_none {s : State} {n : Nat} (h : lineDriven s n = none) : dioPad s n = .undriven := by
  rw [dioPad, h]

theorem dioPad_some {s : State} {n : Nat} {b : Bool} (h : lineDriven s n = some b) : dioPad s n =
    if b = flag s (DIO_CFG_INV n) then .low else if rd s (DIO_CFG_OD n) = 1 then .released else .high := by
  rw [dioPad, h]
  simp only [flag_iff s (f := DIO_CFG_OD n) rfl, bne_iff_ne, ne_eq, ite_not]

theorem lineDriven_level {s : State} {n : Nat} (h : (s.line n).drive ≠ some true) : lineDriven s n = (s.line n).drive := if_pos h

/-- A line that drives 1 is high for the high time of PWM or of a pulse train, and otherwise throughout. -/
theorem lineDriven_high {s : State} {n : Nat} (h : (s.line n).drive = some true) : lineDriven s n =
    some (if dioMode s n = 2 ∧ (s.line n).pwmOn = true then
        decide (perCycles s n < (if rd s (DIO_PER_PER n) = 0 then 2 else rd s (DIO_PER_PER n)) * (s.line n).duty / 65536)
      else if dioMode s n = 3 ∧ (s.line n).ptLeft ≠ 0 then decide (perCycles s n < rd s (DIO_PT_HIGH n)) else true) := by
  rw [apply_ite some, apply_ite some]
  exact if_neg (not_not.2 h)

theorem partsBut_toPeriod (s : State) (n : Nat) : partsBut [.clk] s (toPeriod s n) := by
  unfold toPeriod
  split
  · exact partsBut_advance s _
  · exact partsBut_refl _ s

theorem pwmPeriod_spec {s v : State} {n : Nat} (hh : dioHeeds s n = true) (hm : dioMode s n = 2) (hv : v = toPeriod s n) : ∃ t,
    exec (.pwmPeriod n) s = .next t ∧
      (t.line n).duty = (s.line n).param % 65536 ∧ (t.line n).pwmOn = (s.line n).bit ∧
      (t.line n).drive = some ((s.line n).bit &&
        decide (0 < (if rd s (DIO_PER_PER n) = 0 then 2 else rd s (DIO_PER_PER n)) * ((s.line n).param % 65536) / 65536)) ∧
      (t.line n).perAt = some v.clk.ft.toNat ∧ t.clk = v.clk ∧ lineFrame n [] v t := by
  have hclk : partsBut [.clk] s v := hv ▸ partsBut_toPeriod s n
  have hline : v.line n = s.line n := State.line_congr n (hclk .lines (by decide))
  have hhigh : ∀ d, (pwmHigh v n d != 0) = decide (0 < (if rd s (DIO_PER_PER n) = 0 then 2 else rd s (DIO_PER_PER n)) * d / 65536) :=
    fun d => by
      rw [pwmHigh, dioPer, rd_congr _ (hclk .regs (by decide)), Bool.eq_iff_iff, bne_iff_ne, decide_eq_true_iff, Nat.pos_iff_ne_zero]
  refine ⟨_, (congrArg Host.Outcome.next (if_pos ⟨hh, hm⟩)), ?_⟩
  rw [← hv]
  dsimp only
  rw [State.line_setLine_self, hline, hhigh]
  exact ⟨rfl, rfl, rfl, rfl, rfl, lineFrame_setLine _ (lineFrame_refl n [] v)⟩

theorem pulseTrainPulse_spec {s v : State} {n : Nat} (hh : dioHeeds s n = true) (hm : dioMode s n = 3) (hl : (s.line n).ptLeft ≠ 0)
    (hv : v = toPeriod s n) : ∃ t, exec (.pulseTrainPulse n) s = .next t ∧
      (if (s.line n).ptLeft = 1 ∨ (s.line n).ptStop = true then (t.line n).ptLeft = 0 ∧ (t.line n).drive = some false ∧ (t.line n).perAt = none
       else (t.line n).ptLeft = (s.line n).ptLeft - 1 ∧ (t.line n).drive = some true ∧ (t.line n).perAt = some v.clk.ft.toNat) ∧
      (t.line n).queue = (s.line n).queue ∧ t.clk = v.clk ∧ lineFrame n [] v t := by
  have hclk : partsBut [.clk] s v := hv ▸ partsBut_toPeriod s n
  have hline : v.line n = s.line n := State.line_congr n (hclk .lines (by decide))
  refine ⟨_, (congrArg Host.Outcome.next (if_pos ⟨hh, hm, hl⟩)), ?_⟩
  rw [← hv]
  dsimp only
  rw [hline]
  split
  · rw [State.line_setLine_self]
    exact ⟨⟨rfl, rfl, rfl⟩, rfl, rfl, lineFrame_setLine _ (lineFrame_refl n [] v)⟩
  · rw [State.line_setLine_self]
    exact ⟨⟨rfl, rfl, rfl⟩, rfl, rfl, lineFrame_setLine _ (lineFrame_refl n [] v)⟩

/-! ## Readback (R274) -/

theorem readbackDiffers_iff (s : State) (n : Nat) : readbackDiffers s n = true ↔
    dioPad s n = .low ∧ (s.line n).pad = true ∨ dioPad s n = .high ∧ (s.line n).pad = false := by
  unfold readbackDiffers
  split <;> simp_all

/-- The readback faults of lines are no event, and no status of a line. -/
theorem dioRbf_ne_evt (k : Nat) : (DIO_RBF_RBF k).addr ≠ DIO_EVT_RB_FAULT.addr := by
  simp only [DIO_RBF_RBF, DIO_EVT_RB_FAULT]; omega

theorem dioRbf_ne_stat {n : Nat} (hn : n < 96) (k : Nat) : (DIO_RBF_RBF k).addr ≠ (DIO_STAT_RELEASED n).addr := by
  simp only [DIO_RBF_RBF, DIO_STAT_RELEASED]; omega

theorem rdBit_wrBit_line (s : State) (n : Nat) (b : Bool) :
    rdBit (wrBit s (DIO_RBF_RBF (n / 32)) (n % 32) b) (DIO_RBF_RBF (n / 32)) (n % 32) = b :=
  (rdBit_wrBit s (DIO_RBF_RBF (n / 32)) _ _ b (by decide : 0 + 32 ≤ 64) (Nat.mod_lt n (by decide : 0 < 32))).trans (if_pos rfl)

/-- A bit of a mask reads alike after a write of another register. -/
theorem rdBit_wr_addr (s : State) {f g : Fld} (v k : Nat) (h : g.addr ≠ f.addr) : rdBit (wr s f v) g k = rdBit s g k := by
  rw [rdBit, rd_wr_addr s f g v h, rdBit]

/-- A readback fault is noted: the line's bit and the event. -/
def faultNoted (s : State) (n : Nat) : State := wr (wrBit s (DIO_RBF_RBF (n / 32)) (n % 32) true) DIO_EVT_RB_FAULT 1

/-- The line is released, and the level it was driven at is held. -/
def lineReleased (s : State) (n : Nat) : State :=
  (wr s (DIO_STAT_RELEASED n) 1).setLine n { s.line n with drive := none, held := (s.line n).drive }

theorem exec_readbackFault {s : State} {n : Nat} (hb : s.rst.busy = false) (hn : n < 96) (hen : rd s (DIO_CFG_RB_EN n) = 1)
    (hd : readbackDiffers s n = true) : exec (.readbackFault n) s =
      .next (raise (if rd s (DIO_CFG_RB_OFF n) = 1 then lineReleased (faultNoted s n) n else faultNoted s n) 80 n) := by
  refine congrArg Host.Outcome.next ((whenAlive_alive s _ hb).trans ((if_pos ⟨hn, flag_true hen, hd⟩).trans ?_))
  simp only [flag_iff s (f := DIO_CFG_RB_OFF n) rfl]
  rfl

theorem exec_readbackFault_agrees {s : State} {n : Nat} (h : ¬readbackDiffers s n = true) : exec (.readbackFault n) s = .next s := by
  refine congrArg Host.Outcome.next ?_
  unfold whenAlive
  split
  · rfl
  · exact if_neg fun hd => h hd.2.2

theorem faultNoted_spec (s : State) {n : Nat} (hn : n < 96) : ∃ t, faultNoted s n = t ∧
    rdBit t (DIO_RBF_RBF (n / 32)) (n % 32) = true ∧ rd t DIO_EVT_RB_FAULT = 1 ∧
    rd t (DIO_STAT_RELEASED n) = rd s (DIO_STAT_RELEASED n) ∧ t.line n = s.line n ∧
    lineFrame n [(DIO_RBF_RBF (n / 32)).addr, DIO_EVT_RB_FAULT.addr, (DIO_STAT_RELEASED n).addr] s t := by
  refine ⟨_, rfl, ?_, rd_wr_bit _ 1 rfl rfl, ?_, ?_, ?_⟩
  · exact (rdBit_wr_addr _ 1 _ (dioRbf_ne_evt _)).trans (rdBit_wrBit_line s n true)
  · exact (rd_wr_apart _ 1 rfl rfl).trans (rd_wr_addr s _ _ _ (dioRbf_ne_stat hn _).symm)
  · rw [faultNoted, State.line_wr, State.line_wrBit]
  · exact lineFrame_wr _ (lineFrame_wr _ (lineFrame_refl n _ s) (by simp)) (by simp)

theorem readbackFault_spec {s : State} {n : Nat} (hb : s.rst.busy = false) (hn : n < 96) (hen : rd s (DIO_CFG_RB_EN n) = 1)
    (hd : readbackDiffers s n = true) : ∃ t, exec (.readbackFault n) s = .next (raise t 80 n) ∧
      rdBit t (DIO_RBF_RBF (n / 32)) (n % 32) = true ∧ rd t DIO_EVT_RB_FAULT = 1 ∧
      (if rd s (DIO_CFG_RB_OFF n) = 1 then
        rd t (DIO_STAT_RELEASED n) = 1 ∧ (t.line n).drive = none ∧ (t.line n).held = (s.line n).drive
       else rd t (DIO_STAT_RELEASED n) = rd s (DIO_STAT_RELEASED n) ∧ t.line n = s.line n) ∧
      lineFrame n [(DIO_RBF_RBF (n / 32)).addr, DIO_EVT_RB_FAULT.addr, (DIO_STAT_RELEASED n).addr] s t := by
  rw [exec_readbackFault hb hn hen hd]
  obtain ⟨u, hu, hbit, hevt, hrel, hline, hframe⟩ := faultNoted_spec s hn
  rw [hu]
  refine ⟨_, rfl, ?_⟩
  split
  · refine ⟨?_, ?_, ⟨?_, ?_, ?_⟩, lineFrame_setLine _ (lineFrame_wr 1 hframe (by simp))⟩
    · exact (rdBit_wr_addr u 1 _ (dioRbf_ne_stat hn _)).trans hbit
    · exact (rd_wr_apart u 1 rfl rfl).trans hevt
    · exact rd_wr_bit u 1 rfl rfl
    · rw [lineReleased, State.line_setLine_self]
    · rw [lineReleased, State.line_setLine_self, hline]
  · exact ⟨hbit, hevt, ⟨hrel, hline⟩, hframe⟩

theorem exec_rbClr {s : State} {n : Nat} (hb : s.rst.busy = false) : exec (.rbClr n) s = .next (rbClr s n) :=
  congrArg Host.Outcome.next (whenAlive_alive s _ hb)

theorem rbClr_spec (s : State) {n : Nat} (hn : n < 96) : ∃ t, rbClr s n = t ∧ rdBit t (DIO_RBF_RBF (n / 32)) (n % 32) = false ∧
    rd t (DIO_STAT_RELEASED n) = 0 ∧
    (t.line n).drive = (if rd s (DIO_STAT_RELEASED n) = 1 then (if dioActs s then (s.line n).held else dioSafeLevel s n)
      else (s.line n).drive) ∧
    lineFrame n [(DIO_RBF_RBF (n / 32)).addr, (DIO_STAT_RELEASED n).addr] s t := by
  obtain ⟨u, hu⟩ : ∃ u, u = wrBit s (DIO_RBF_RBF (n / 32)) (n % 32) false := ⟨_, rfl⟩
  have hbit : rdBit u (DIO_RBF_RBF (n / 32)) (n % 32) = false := hu ▸ rdBit_wrBit_line s n false
  have hframe : lineFrame n [(DIO_RBF_RBF (n / 32)).addr, (DIO_STAT_RELEASED n).addr] s u :=
    hu ▸ lineFrame_wr _ (lineFrame_refl n _ s) (by simp)
  have hline : u.line n = s.line n := by rw [hu, State.line_wrBit]
  unfold rbClr
  rw [if_pos hn, ← hu]
  dsimp only
  obtain hrel | hrel := rd_bit s (f := DIO_STAT_RELEASED n) rfl
  · rw [flag_false hrel, hrel]
    refine ⟨u, rfl, hbit, ?_, by rw [hline]; rfl, hframe⟩
    rw [hu, ← hrel]
    exact rd_wr_addr s _ _ _ (dioRbf_ne_stat hn _).symm
  · rw [flag_true hrel, hrel, hline]
    refine ⟨_, rfl, ?_⟩
    refine ⟨(rdBit_wr_addr u 0 _ (dioRbf_ne_stat hn _)).trans hbit, rd_wr_bit u 0 rfl rfl, ?_,
      lineFrame_setLine _ (lineFrame_wr 0 hframe (by simp))⟩
    rw [if_pos rfl, State.line_setLine_self]
    rfl

/-- Settles O42: raw levels by `padTake_spec`, filtered ones by `inputsDue_one` and `lineEdge_spec`, pops by `tsPop_spec`, timed actions
by `queueActionFire_spec` and `queuePulseEnd_spec`, pads and periods by `lineDriven_high` and its siblings, readback by
`readbackFault_spec` and `rbClr_spec`. -/
theorem discreteLinesAct : Obligations.DiscreteLinesAct := by
  unfold Obligations.DiscreteLinesAct
  refine ⟨fun n s hn => ⟨fun dt edges u pads hu hpads => ?_, fun lvl => padTake_spec s hn lvl, inputsDue_unloaded, fun r u hr hu => ?_,
      tsPop_spec s hn, fun e q v hq hh hm hv => queueActionFire_spec hq hh hm hv, fun e v he hh hv => queuePulseEnd_spec he hh hv,
      fun hb => ?_⟩,
    fun n s v hn hv => ⟨dioPad_none, fun b => dioPad_some, lineDriven_level, lineDriven_high, fun hh hm => pwmPeriod_spec hh hm hv,
      fun hh hm hl => pulseTrainPulse_spec hh hm hl hv, fun hb hen hd => readbackFault_spec hb hn hen ((readbackDiffers_iff s n).2 hd),
      fun hlow hhigh => exec_readbackFault_agrees fun hd => ?_, fun hb => ?_⟩⟩
  · rw [hpads, hu]
    rfl
  · have hedge := edgeAt_run hr hu
    exact ⟨hedge, fun hl hall => inputsDue_one hn hedge hl hall, fun e he t ht => lineEdge_spec hn hedge he ht⟩
  · refine ⟨_, exec_qFlush hb hn, ?_⟩
    rw [State.line_setLine_self]
    exact ⟨rfl, rfl, lineFrame_setLine _ (lineFrame_refl n [] s)⟩
  · obtain ⟨hp, hpad⟩ | ⟨hp, hpad⟩ := (readbackDiffers_iff s n).1 hd
    · rw [hlow hp] at hpad
      cases hpad
    · rw [hhigh hp] at hpad
      cases hpad
  · obtain ⟨t, ht, hspec⟩ := rbClr_spec s hn
    exact ⟨t, by rw [exec_rbClr hb, ht], hspec⟩

end Sys2Proof.Machine

/-! SUPPORT. Obligation O43: conversions, per-tick averages, triggered scans and calibrations of the ADCs. -/

namespace Sys2Proof.Machine

/-! ## The ADCs beside their registers -/

/-- The state with what the ADCs have beside their registers replaced. -/
def withAdc (s : State) (x : AdcSt) : State := { s with adc := x }

theorem partsBut_withAdc (s : State) (x : AdcSt) : partsBut [.adc] s (withAdc s x) := by
  intro p hp
  cases p <;> simp [Part.same, withAdc] at hp ⊢

/-- The code of an AIN is no event, and none of the settings of time. -/
theorem adcAin_ne {a : Nat} (k : Nat) (h : a < 0x400D0040) : a ≠ (ADC_AIN_CODE k).addr := by
  simp only [ADC_AIN_CODE]
  omega

/-- The present tick depends on the clock and on the settings of the epoch and of the tick. -/
theorem tickNow_congr {s t : State} (hclk : t.clk = s.clk) (hofs : rd t BELL_EPOCH_OFS_NS = rd s BELL_EPOCH_OFS_NS)
    (htick : rd t TRD_TICK_NS_NS = rd s TRD_TICK_NS_NS) : tickNow t = tickNow s := by
  rw [tickNow, periods, ftNs, hclk, hofs, htick]
  rfl

/-! ## Conversions (R275, R276) -/

/-- What a conversion leaves in the accumulators: the signal's own takes the code, and the tick is the present one. -/
def entersTick (v : State) (key code : Nat) (x y : AdcSt) : Prop :=
  (∀ z, z = tget (fun _ => ({} : Acm)) (if x.curTick = some (tickNow v) then x.cur else []) key →
    tget (fun _ => {}) y.cur key = (⟨z.sum + code, z.n + 1, z.ovr || code == 0 || code == 65535⟩ : Acm)) ∧
  y.curTick = some (tickNow v) ∧ y.closed = x.closed ∧
  y.before = (if x.curTick = some (tickNow v) then x.before else acmJoin x.before x.cur)

theorem acmAdd_spec {v w : State} (key code : Nat) (hadc : w.adc = v.adc) (htick : tickNow w = tickNow v) :
    entersTick v key code v.adc (acmAdd w key code).adc ∧ partsBut [.adc] w (acmAdd w key code) := by
  refine ⟨⟨?_, ?_, ?_, ?_⟩, partsBut_withAdc w _⟩
  · rintro z rfl
    simp only [acmAdd, hadc, htick, beq_iff_eq]
    exact tget_tput_self _ _ _ _
  · simp only [acmAdd, htick]
  · simp only [acmAdd, hadc]
  · simp only [acmAdd, hadc, htick, beq_iff_eq]

/-- AIN k is seen as a code, which enters its tick; the least and the greatest code are over-range. -/
def ainTaken (v : State) (k code : Nat) : State :=
  let t := acmAdd (wr v (ADC_AIN_CODE k) code) k code
  if code = 0 ∨ code = 65535 then wr t ADC_EVT_OVR 1 else t

theorem ainTaken_spec (v : State) (k : Nat) {code : Nat} (hc : code < 65536) : ∃ t, ainTaken v k code = t ∧ t.clk = v.clk ∧
    entersTick v k code v.adc t.adc ∧ rd t (ADC_AIN_CODE k) = code ∧ (code = 0 ∨ code = 65535 → rd t ADC_EVT_OVR = 1) ∧
    cellsBut [(ADC_AIN_CODE k).addr, ADC_EVT_OVR.addr] v t := by
  obtain ⟨w, hw⟩ : ∃ w, w = wr v (ADC_AIN_CODE k) code := ⟨_, rfl⟩
  obtain ⟨u, hu⟩ : ∃ u, u = acmAdd w k code := ⟨_, rfl⟩
  have hkept : ∀ f : Fld, f.addr < 0x400D0040 → rd w f = rd v f := fun f hf => hw ▸ rd_wr_addr v _ f code (adcAin_ne k hf)
  obtain ⟨hticks, hparts⟩ := acmAdd_spec (v := v) (w := w) k code (by rw [hw, wr_adc])
    (tickNow_congr (by rw [hw, wr_clk]) (hkept _ (by decide)) (hkept _ (by decide)))
  rw [← hu] at hticks hparts
  have hclk : u.clk = v.clk := (hparts .clk (by decide)).trans (by rw [hw, wr_clk])
  have hcells : cellsBut [(ADC_AIN_CODE k).addr, ADC_EVT_OVR.addr] v u := by
    refine cellsBut_trans (cellsBut_mono (cellsBut_wr v (ADC_AIN_CODE k) code) (by simp)) ?_
    rw [← hw]
    exact fun a _ => cellAt_congr a (hparts .regs (by decide))
  have hcode : rd u (ADC_AIN_CODE k) = code := by
    rw [rd_congr _ (hparts .regs (by decide)), hw, rd_wr_half v code rfl rfl, Nat.mod_eq_of_lt hc]
  unfold ainTaken
  rw [← hw, ← hu]
  dsimp only
  split
  next hovr =>
    exact ⟨_, rfl, hclk, hticks, (rd_wr_addr u _ _ 1 (adcAin_ne k (by decide)).symm).trans hcode, fun _ => rd_wr_bit u 1 rfl rfl,
      cellsBut_trans hcells (cellsBut_mono (cellsBut_wr u ADC_EVT_OVR 1) (by simp))⟩
  next hovr => exact ⟨u, rfl, hclk, hticks, hcode, fun h => absurd h hovr, hcells⟩

/-- What a conversion of a slot makes of the state at its sample instant. -/
def slotTaken (v : State) (a slot code : Nat) : State :=
  if ainRuns v a slot then ainTaken v ((ainOfSlot a slot).getD 0) code
  else match brnOfSlot slot with
    | some j => acmAdd v (8 + 3 * (8 * a + j / 3) + j % 3) code
    | none => if 50 ≤ slot ∧ slot < 58 then wr v (ADC_MON_CODE a (slot - 50)) code else v

theorem exec_adcConversion_stopped {s : State} {a : Nat} (hb : s.rst.busy = false) (hr : rd s ADC_STATUS_RUN = 0) (dt slot code : Nat) :
    exec (.adcConversion dt a slot code) s = .next (advance s dt) := by
  refine congrArg Host.Outcome.next ((whenAlive_alive (advance s dt) _ hb).trans (if_pos (.inr (.inr ?_))))
  rw [flag_false ((rd_advance s dt _).trans hr)]
  rfl

theorem exec_adcConversion {s : State} {a slot : Nat} (hb : s.rst.busy = false) (ha : a < 2) (hs : slot < 200) (hr : rd s ADC_STATUS_RUN = 1)
    (dt code : Nat) : exec (.adcConversion dt a slot code) s = .next (slotTaken (toSlot (advance s dt) slot) a slot code) := by
  refine congrArg Host.Outcome.next ((whenAlive_alive (advance s dt) _ hb).trans ((if_neg ?_).trans rfl))
  rw [flag_true ((rd_advance s dt _).trans hr)]
  simp only [Bool.not_true, Bool.false_eq_true, or_false]
  omega

theorem partsBut_toSlot (s : State) (slot : Nat) : partsBut [.clk] s (toSlot s slot) := by
  unfold toSlot
  dsimp only
  split
  · exact partsBut_refl _ s
  · exact partsBut_advanceTo s _

theorem ainRuns_congr {s t : State} (h : t.regs = s.regs) (a slot : Nat) : ainRuns t a slot = ainRuns s a slot := by
  rw [ainRuns, rd_congr _ h, ainRuns]

section
variable {v : State} {a slot code : Nat}

theorem slotTaken_ain {k : Nat} (hr : ainRuns v a slot = true) (hk : ainOfSlot a slot = some k) :
    slotTaken v a slot code = ainTaken v k code := by
  rw [slotTaken, if_pos hr, hk]
  rfl

theorem slotTaken_brn {j : Nat} (hr : ainRuns v a slot = false) (hj : brnOfSlot slot = some j) :
    slotTaken v a slot code = acmAdd v (8 + 3 * (8 * a + j / 3) + j % 3) code := by
  rw [slotTaken, hr, hj]
  rfl

theorem slotTaken_mon (hr : ainRuns v a slot = false) (hj : brnOfSlot slot = none) :
    slotTaken v a slot code = if 50 ≤ slot ∧ slot < 58 then wr v (ADC_MON_CODE a (slot - 50)) code else v := by
  rw [slotTaken, hr, hj]
  rfl

theorem slotTaken_clk (hc : code < 65536) : (slotTaken v a slot code).clk = v.clk := by
  unfold slotTaken
  split
  · obtain ⟨t, ht, hclk, -⟩ := ainTaken_spec v ((ainOfSlot a slot).getD 0) hc
    rw [ht, hclk]
  · split
    · exact (acmAdd_spec _ code rfl rfl).2 .clk (by decide)
    · rw [apply_ite State.clk, wr_clk, ite_self]

/-- A conversion of an AIN or of a branch signal enters the accumulator of its signal. -/
theorem slotTaken_enters (hc : code < 65536) {key : Nat} (h : ainRuns v a slot = true ∧ ainOfSlot a slot = some key ∨
      ainRuns v a slot = false ∧ ∃ j, brnOfSlot slot = some j ∧ key = 8 + 3 * (8 * a + j / 3) + j % 3) :
    entersTick v key code v.adc (slotTaken v a slot code).adc := by
  obtain ⟨hr, hk⟩ | ⟨hr, j, hj, rfl⟩ := h
  · obtain ⟨t, ht, -, hticks, -⟩ := ainTaken_spec v key hc
    rw [slotTaken_ain hr hk, ht]
    exact hticks
  · rw [slotTaken_brn hr hj]
    exact (acmAdd_spec _ code rfl rfl).1

end

/-! ## Per-tick averages (R276) -/

/-- What is looked at of the average of a signal: the closed accumulators, its last mean, and its word of the input image. -/
def avgView (key : Nat) (s : State) : List (Nat × Acm) × Int × Word :=
  (s.adc.closed, tget (fun _ => 0) s.adc.prev key, tget (fun _ => 0) s.trd.latched (32 + key))

theorem avgView_avgReturn_ne (s : State) {m key : Nat} (h : m ≠ key) : avgView key (avgReturn s m) = avgView key s := by
  refine Prod.ext rfl (Prod.ext ?_ ?_)
  · exact tget_tput_ne _ _ _ h.symm
  · exact tget_tput_ne _ _ _ (by omega)

theorem partsBut_avgReturn (s : State) (key : Nat) : partsBut [.adc, .trd] s (avgReturn s key) := by
  intro p hp
  cases p <;> simp [Part.same, avgReturn] at hp ⊢

/-- The averages have come back. -/
def averagesBack (t : State) : State := withAdc t { t.adc with avgWait := false, closed := [] }

/-- The average word of AIN k after every average has come back. -/
theorem latched_averages (s : State) {k : Nat} (hk : k < 8) :
    tget (fun _ => 0) (averagesBack (each (List.range 56) avgReturn s)).trd.latched (32 + k) =
      BitVec.ofNat 32 (ainWord (tget (fun _ => 0) s.adc.prev k) (tget (fun _ => {}) s.adc.closed k)) := by
  obtain ⟨u, hu, hv⟩ := each_view (avgView k) avgReturn (List.range 56) k s List.nodup_range (List.mem_range.2 (by omega))
    fun u m hm => avgView_avgReturn_ne u hm
  simp only [avgView, Prod.mk.injEq] at hu hv
  obtain ⟨hclosed, hprev, -⟩ := hu
  obtain ⟨-, -, hlatched⟩ := hv
  rw [averagesBack, withAdc, hlatched, ← hclosed, ← hprev]
  simp only [avgReturn, hk, if_true]
  exact tget_tput_self _ _ _ _

theorem exec_adcAverageReturn {s : State} (hb : s.rst.busy = false) (hw : s.adc.avgWait = true) (hl : s.rst.d2dHubLost = false) :
    exec .adcAverageReturn s = .next (averagesBack (each (List.range 56) avgReturn s)) :=
  congrArg Host.Outcome.next ((whenAlive_alive s _ hb).trans (if_pos ⟨hw, by rw [hl]; rfl⟩))

/-! ## Triggered scans (R277) -/

/-- The register of the result of input j of a scan of an ADC. -/
def scanCode (a j : Nat) : Fld := if j % 2 = 0 then ADC_TSCAN_R_CODE_LO a (j / 2) else ADC_TSCAN_R_CODE_HI a (j / 2)

theorem scanCode_addr (a j : Nat) : (scanCode a j).addr = (ADC_TSCAN_R_CODE_LO a (j / 2)).addr := by
  unfold scanCode
  split <;> rfl

theorem scanCode_fits (a j : Nat) : (scanCode a j).fits = true ∧ (scanCode a j).w = 16 := by
  unfold scanCode
  split <;> exact ⟨rfl, rfl⟩

/-- The result of an input, its code and whether it is over-range. -/
def scanResult (t : State) (a j c : Nat) : State :=
  let t1 := wr t (scanCode a j) c
  if c = 0 ∨ c = 65535 then wr t1 ADC_EVT_OVR 1 else t1

/-- The scan of an ADC has ended: the time of its first sample, TS_BUSY and TSCAN_DONE. -/
def scanEnded (t : State) (a ns : Nat) : State :=
  orF (wrBit (wr t (ADC_TSCAN_T_NS a) ns) ADC_STATUS_TS_BUSY a false) ADC_EVT_TSCAN_DONE (2 ^ a)

/-- An ADC without a pending scan. -/
def scanOver (s : State) (a : Nat) : State := withAdc s { s.adc with scan := tput (fun _ => none) s.adc.scan a none }

theorem scan_scanOver (s : State) (a : Nat) : tget (fun _ => none) (scanOver s a).adc.scan a = none :=
  tget_tput_self (fun _ => none) s.adc.scan a none

theorem exec_tscanDone {s : State} {a j ns : Nat} (hb : s.rst.busy = false)
    (h : tget (fun _ => none) s.adc.scan a = some ⟨[(4 * a + j, ns)]⟩) (codes : List (Nat × Nat)) :
    exec (.tscanDone a codes) s = .next (scanEnded (scanResult (scanOver (advanceTo s ns) a) a j
      (tget (fun _ => 0) codes (4 * a + j) % 65536)) a ns) := by
  refine congrArg Host.Outcome.next ((whenAlive_alive s _ hb).trans ?_)
  have hj : 4 * a + j - 4 * a = j := by omega
  simp only [h, List.foldl_cons, List.foldl_nil, hj, Nat.zero_max]
  rfl

theorem scanResult_spec (s : State) (a j : Nat) {c : Nat} (hc : c < 65536) : ∃ t, scanResult s a j c = t ∧ rd t (scanCode a j) = c ∧
    regsOnly [(ADC_TSCAN_R_CODE_LO a (j / 2)).addr, ADC_EVT_OVR.addr] s t := by
  obtain ⟨hfits, hwidth⟩ := scanCode_fits a j
  have haddr := scanCode_addr a j
  have hcode : rd (wr s (scanCode a j) c) (scanCode a j) = c := by rw [rd_wr_half s c hfits hwidth, Nat.mod_eq_of_lt hc]
  have hregs : regsOnly [(ADC_TSCAN_R_CODE_LO a (j / 2)).addr, ADC_EVT_OVR.addr] s (wr s (scanCode a j) c) :=
    regsOnly_mono (regsOnly_wr s _ c) (by simp [haddr])
  have hevt : (scanCode a j).addr ≠ ADC_EVT_OVR.addr := by
    rw [haddr]
    simp only [ADC_TSCAN_R_CODE_LO, ADC_EVT_OVR]
    omega
  unfold scanResult
  dsimp only
  split
  · exact ⟨_, rfl, (rd_wr_addr _ _ _ 1 hevt).trans hcode,
      regsOnly_trans hregs (regsOnly_mono (regsOnly_wr _ ADC_EVT_OVR 1) (by simp))⟩
  · exact ⟨_, rfl, hcode, hregs⟩

/-- A bit that is set by OR reads 1. -/
theorem rdBit_orF (s : State) {f : Fld} {k : Nat} (hf : f.fits = true) (hk : k < f.w) : rdBit (orF s f (2 ^ k)) f k = true := by
  rw [rdBit, orF, rd_wr_same s _ hf, bitOf, Nat.testBit_mod_two_pow]
  simp [hk]

theorem scanEnded_spec (s : State) {a ns : Nat} (ha : a < 2) (hns : ns < 2 ^ 64) : ∃ t, scanEnded s a ns = t ∧ rd t (ADC_TSCAN_T_NS a) = ns ∧
    rdBit t ADC_STATUS_TS_BUSY a = false ∧ rdBit t ADC_EVT_TSCAN_DONE a = true ∧
    regsOnly [(ADC_TSCAN_T_NS a).addr, ADC_STATUS_TS_BUSY.addr, ADC_EVT_OVR.addr] s t := by
  obtain ⟨u, hu⟩ : ∃ u, u = wr s (ADC_TSCAN_T_NS a) ns := ⟨_, rfl⟩
  obtain ⟨v, hv⟩ : ∃ v, v = wrBit u ADC_STATUS_TS_BUSY a false := ⟨_, rfl⟩
  have hns' : rd u (ADC_TSCAN_T_NS a) = ns := by
    rw [hu, rd_wr_same s ns rfl]
    exact Nat.mod_eq_of_lt hns
  have hbusy : rdBit v ADC_STATUS_TS_BUSY a = false := by
    rw [hv, rdBit_wrBit u _ a a false (by decide) ha, if_pos rfl]
  have htime : ∀ f : Fld, f.addr < 0x400D0088 → (ADC_TSCAN_T_NS a).addr ≠ f.addr := fun f hf => by
    simp only [ADC_TSCAN_T_NS]
    omega
  have hregs : regsOnly [(ADC_TSCAN_T_NS a).addr, ADC_STATUS_TS_BUSY.addr, ADC_EVT_OVR.addr] s v := by
    rw [hv, hu]
    exact regsOnly_trans (regsOnly_mono (regsOnly_wr s (ADC_TSCAN_T_NS a) ns) (by simp))
      (regsOnly_mono (regsOnly_wr _ ADC_STATUS_TS_BUSY _) (by simp))
  unfold scanEnded
  rw [← hu, ← hv]
  refine ⟨_, rfl, ?_, ?_, rdBit_orF v rfl ha, regsOnly_trans hregs (regsOnly_mono (regsOnly_wr v ADC_EVT_TSCAN_DONE _) ?_)⟩
  · rw [orF, rd_wr_addr _ _ _ _ (htime _ (by decide)), hv, wrBit, rd_wr_addr _ _ _ _ (htime _ (by decide)), hns']
  · exact (rdBit_wr_addr v _ a (by decide)).trans hbusy
  · simp [ADC_EVT_TSCAN_DONE, ADC_EVT_OVR]

theorem tscanDone_spec {s : State} {a j ns : Nat} (codes : List (Nat × Nat)) (hb : s.rst.busy = false) (ha : a < 2) (hns : ns < 2 ^ 64)
    (h : tget (fun _ => none) s.adc.scan a = some ⟨[(4 * a + j, ns)]⟩) : ∃ t,
      exec (.tscanDone a codes) s = .next t ∧ rd t (ADC_TSCAN_T_NS a) = ns ∧
      rd t (scanCode a j) = tget (fun _ => 0) codes (4 * a + j) % 65536 ∧
      rdBit t ADC_STATUS_TS_BUSY a = false ∧ rdBit t ADC_EVT_TSCAN_DONE a = true ∧
      tget (fun _ => none) t.adc.scan a = none ∧
      cellsBut [(ADC_TSCAN_T_NS a).addr, (ADC_TSCAN_R_CODE_LO a (j / 2)).addr, ADC_STATUS_TS_BUSY.addr, ADC_EVT_OVR.addr] s t := by
  rw [exec_tscanDone hb h]
  obtain ⟨w, hw⟩ : ∃ w, w = scanOver (advanceTo s ns) a := ⟨_, rfl⟩
  rw [← hw]
  obtain ⟨u, hu, hcode, huparts, hucells⟩ := scanResult_spec w a j (Nat.mod_lt (tget (fun _ => 0) codes (4 * a + j)) (by decide : 65536 > 0))
  rw [hu]
  obtain ⟨t, ht, htime, hbusy, hdone, hparts, hcells⟩ := scanEnded_spec u ha hns
  rw [ht]
  have hwcells : ∀ b, cellAt w b = cellAt s b := fun b => by
    rw [hw, ← cellAt_advanceTo s ns b]
    rfl
  refine ⟨t, rfl, htime, ?_, hbusy, hdone, ?_, fun b hb => ?_⟩
  · rw [rd_of_cellsBut hcells, hcode]
    rw [scanCode_addr]
    simp only [List.mem_cons, List.not_mem_nil, or_false, ADC_TSCAN_T_NS, ADC_TSCAN_R_CODE_LO, ADC_STATUS_TS_BUSY, ADC_EVT_OVR]
    omega
  · rw [hparts .adc (by decide), huparts .adc (by decide), hw]
    exact scan_scanOver _ a
  · simp only [List.mem_cons, List.not_mem_nil, or_false, not_or] at hb
    obtain ⟨h1, h2, h3, h4⟩ := hb
    rw [hcells b (by simp [h1, h3, h4]), hucells b (by simp [h2, h4]), hwcells]

/-! ## Calibration (R279) -/

/-- A number within 16 signed bits reads back. -/
theorem signed_wrapTo_16 {x : Int} (hlo : -32768 ≤ x) (hhi : x < 32768) : signed 16 (wrapTo 16 x) = x := by
  have hmod := wrapTo_mod 16 x
  unfold signed
  rw [hmod]
  unfold wrapTo
  split <;> omega

/-- The coefficients of a calibration that is good, and CAL_OK. -/
def calPassed (s : State) (a : Nat) (offset : Int) (gain : Nat) : State :=
  wrBit (wr (wrI s (ADC_CAL_OFFSET a) offset) (ADC_CAL_GAIN a) gain) ADC_STATUS_CAL_OK a true

/-- CAL_OK and CAL_FAIL after a calibration that is not good. -/
def calFailed (s : State) (a : Nat) : State := wr (wrBit s ADC_STATUS_CAL_OK a false) ADC_EVT_CAL_FAIL 1

/-- The ADCs, with whether the last calibration of one of them has failed. -/
def calNoted (s : State) (a : Nat) (failed : Bool) : State := withAdc s { s.adc with calFail := withBit s.adc.calFail a failed }

section
variable {s : State} {a : Nat} {offset : Int} {gain : Nat}

theorem exec_adcCalibration_pass (hb : s.rst.busy = false) (ha : a < 2) (ho : offset.natAbs ≤ 64) (hlo : 995 * 32768 ≤ 1000 * gain)
    (hhi : 1000 * gain ≤ 1005 * 32768) : exec (.adcCalibration a offset gain []) s = .next (calPassed (calNoted s a false) a offset gain) := by
  refine congrArg Host.Outcome.next ((whenAlive_alive s _ hb).trans ((if_neg (Nat.not_le.2 ha)).trans (if_pos ?_)))
  simp [ho, hlo, hhi]

theorem exec_adcCalibration_fail (hb : s.rst.busy = false) (ha : a < 2)
    (h : 64 < offset.natAbs ∨ 1000 * gain < 995 * 32768 ∨ 1005 * 32768 < 1000 * gain) : exec (.adcCalibration a offset gain []) s =
      .next (raise (calFailed (calNoted s a true) a) 84 (a + wrapTo 16 offset * 2 ^ 16)) := by
  refine congrArg Host.Outcome.next ((whenAlive_alive s _ hb).trans ((if_neg (Nat.not_le.2 ha)).trans (if_neg ?_)))
  simp only [Bool.and_eq_true, decide_eq_true_iff]
  omega

/-- The calibration coefficients are no status of the ADCs. -/
theorem adcCal_ne_status (a : Nat) : (ADC_CAL_OFFSET a).addr ≠ ADC_STATUS_CAL_OK.addr := by
  simp only [ADC_CAL_OFFSET, ADC_STATUS_CAL_OK]
  omega

theorem calPassed_spec (s : State) (ha : a < 2) (ho : offset.natAbs ≤ 64) (hg : gain < 65536) : ∃ t, calPassed s a offset gain = t ∧
    rdI t (ADC_CAL_OFFSET a) = offset ∧ rd t (ADC_CAL_GAIN a) = gain ∧ rdBit t ADC_STATUS_CAL_OK a = true ∧
    regsOnly [(ADC_CAL_OFFSET a).addr, ADC_STATUS_CAL_OK.addr] s t := by
  refine ⟨_, rfl, ?_, ?_, ?_, ?_⟩
  · rw [rdI, calPassed, wrBit, rd_wr_addr _ _ _ _ (adcCal_ne_status a), rd_wr_apart _ gain rfl rfl, rd_wrI s offset rfl]
    exact signed_wrapTo_16 (by omega) (by omega)
  · rw [calPassed, wrBit, rd_wr_addr _ _ (ADC_CAL_GAIN a) _ (adcCal_ne_status a), rd_wr_half _ gain rfl rfl, Nat.mod_eq_of_lt hg]
  · rw [calPassed, rdBit_wrBit _ _ a a true (by decide) ha, if_pos rfl]
  · exact regsOnly_trans (regsOnly_mono (regsOnly_wr s (ADC_CAL_OFFSET a) _) (by simp))
      (regsOnly_trans (regsOnly_mono (regsOnly_wr _ (ADC_CAL_GAIN a) gain) (by simp [ADC_CAL_GAIN, ADC_CAL_OFFSET]))
        (regsOnly_mono (regsOnly_wr _ ADC_STATUS_CAL_OK _) (by simp)))

theorem calFailed_spec (s : State) (ha : a < 2) : ∃ t, calFailed s a = t ∧ rdBit t ADC_STATUS_CAL_OK a = false ∧
    rd t ADC_EVT_CAL_FAIL = 1 ∧ cellsBut [ADC_STATUS_CAL_OK.addr, ADC_EVT_CAL_FAIL.addr] s t := by
  refine ⟨_, rfl, (rdBit_wr_addr _ 1 a (by decide)).trans ?_, rd_wr_bit _ 1 rfl rfl, ?_⟩
  · rw [rdBit_wrBit s _ a a false (by decide) ha, if_pos rfl]
  · exact cellsBut_trans (cellsBut_mono (cellsBut_wr s ADC_STATUS_CAL_OK _) (by simp))
      (cellsBut_mono (cellsBut_wr _ ADC_EVT_CAL_FAIL 1) (by simp))

end

/-- Settles O43: conversions by `exec_adcConversion` and what `slotTaken` is for each kind of slot, averages by `latched_averages`, scans
by `tscanDone_spec`, calibrations by `calPassed_spec` and `calFailed_spec`. -/
theorem conversionsAveragesAndScans : Obligations.ConversionsAveragesAndScans := by
  unfold Obligations.ConversionsAveragesAndScans
  refine fun s a hb ha => ⟨fun dt slot code u v pos hs hc hu hpos hv => ⟨fun hr => ?_, fun hr => ?_⟩, fun hw hl => ?_,
    fun j ns codes _ hns h => tscanDone_spec codes hb ha hns h, fun offset gain hg ho hlo hhi => ?_, fun offset gain h => ?_⟩
  · rw [exec_adcConversion_stopped hb hr, hu]
  · have hslot : v = toSlot (advance s dt) slot := by
      rw [hv, hpos, hu]
      rfl
    have hparts : partsBut [.clk] s v := hslot ▸ partsBut_trans (partsBut_advance s dt) (partsBut_toSlot _ slot)
    have hadc : v.adc = s.adc := hparts .adc (by decide)
    have hcells : cellsBut [] s v := fun b _ => cellAt_congr b (hparts .regs (by decide))
    rw [exec_adcConversion hb ha hs hr, ← hslot, ← ainRuns_congr (hparts .regs (by decide)) a slot, ← hadc]
    refine ⟨_, rfl, slotTaken_clk hc, fun key hkey => slotTaken_enters hc hkey, fun k hk hslot => ?_, fun j hk hj => ?_,
      fun hk hj hmon => ?_, fun hk hj hmon => ?_⟩
    · obtain ⟨t, ht, -, -, hcode, hovr, htcells⟩ := ainTaken_spec v k hc
      rw [slotTaken_ain hk hslot, ht]
      exact ⟨hcode, hovr, cellsBut_trans (cellsBut_mono hcells (by simp)) htcells⟩
    · rw [slotTaken_brn hk hj]
      exact hcells
    · rw [slotTaken_mon hk hj, if_pos hmon]
      exact ⟨(rd_wr_half v code rfl rfl).trans (Nat.mod_eq_of_lt hc), cellsBut_trans (cellsBut_mono hcells (by simp)) (cellsBut_wr v _ code),
        wr_adc v _ code⟩
    · rw [slotTaken_mon hk hj, if_neg (by omega)]
  · refine ⟨_, exec_adcAverageReturn hb hw hl, rfl, rfl, ?_, fun k hk => ?_⟩
    · exact partsBut_trans (partsBut_each _ _ _ s partsBut_avgReturn) (partsBut_mono (partsBut_withAdc _ _) (by decide))
    · rw [latched_averages s hk]
      exact congrArg (BitVec.ofNat 32) (by rw [ainWord])
  · obtain ⟨t, ht, hoff, hgain, hok, hparts, hcells⟩ := calPassed_spec (calNoted s a false) ha ho hg
    exact ⟨t, by rw [exec_adcCalibration_pass hb ha ho hlo hhi, ht], hoff, hgain, hok, hcells,
      partsBut_trans (partsBut_mono (partsBut_withAdc s _) (by decide)) (partsBut_mono hparts (by decide))⟩
  · obtain ⟨t, ht, hok, hfail, hcells⟩ := calFailed_spec (calNoted s a true) ha
    exact ⟨t, _, by rw [exec_adcCalibration_fail hb ha h, ht], hok, hfail, hcells⟩

end Sys2Proof.Machine

/-! SUPPORT. Writes to the registers of one branch, its limit, and what a trip marks. -/

namespace Sys2Proof.Machine

/-! ## Lists of writes to one branch -/

/-- A list of field values written at a branch; the fields are given as those of branch 0. -/
def brnWrs (s : State) (n : Nat) (l : List (Fld × Nat)) : State := wrs s (upAll l (0x200 * n))

section
variable (s : State) {n : Nat} {l : List (Fld × Nat)} (f : Nat → Fld) (hf : f n = (f 0).up (0x200 * n))
  (hfit : (l.all fun p => p.1.fits) = true)
include hf hfit

/-- A field of a branch reads what a list of writes leaves in it, modulo its width. -/
theorem rd_brnWrs {v x : Nat} (h : lastTo (f 0) l = some v) (hx : v % 2 ^ (f 0).w = x) : rd (brnWrs s n l) (f n) = x := by
  rw [hf, ← hx]
  exact rd_wrs_lastTo s ((fits_up l _).trans hfit) ((lastTo_up _ l _).trans h)

/-- A list of writes leaves the fields of its branch that share no bit with those written. -/
theorem rd_brnWrs_misses (h : (l.all fun p => p.1.misses (f 0)) = true) : rd (brnWrs s n l) (f n) = rd s (f n) := by
  rw [hf]
  exact rd_wrs_misses s ((fits_up l _).trans hfit) ((all_misses_up _ l _).trans h)

/-- A counter of a branch that a list of writes leaves alone is counted up as one more write of the list. -/
theorem incSat_brnWrs (h : (l.all fun p => p.1.misses (f 0)) = true) : incSat (brnWrs s n l) (f n) =
    brnWrs s n (l ++ [(f 0, min (rd s (f n) + 1) (2 ^ (f 0).w - 1))]) := by
  rw [incSat, addSat, rd_brnWrs_misses s f hf hfit h, hf]
  simp only [brnWrs, upAll, wrs, List.map_append, List.foldl_append]
  rfl

end

/-- A list of writes changes the registers it names alone; r lists them as those of branch 0. -/
theorem regsOnly_brnWrs (s : State) (n : Nat) {l : List (Fld × Nat)} (r : List Nat) (h : (l.all fun p => r.contains p.1.addr) = true) :
    regsOnly (r.map (· + 0x200 * n)) s (brnWrs s n l) := by
  refine regsOnly_mono (regsOnly_wrs s _) fun a ha => ?_
  simp only [upAll, List.map_map, List.mem_map, Function.comp_apply, Fld.up] at ha
  obtain ⟨p, hp, rfl⟩ := ha
  exact List.mem_map_of_mem (List.contains_iff_mem.1 (List.all_eq_true.1 h p hp))

theorem brnWrs_cons (s : State) (n : Nat) (p : Fld × Nat) (l : List (Fld × Nat)) :
    brnWrs s n (p :: l) = brnWrs (wr s (p.1.up (0x200 * n)) p.2) n l := rfl

theorem brn_brnWrs (s : State) (n : Nat) (l : List (Fld × Nat)) (m : Nat) : (brnWrs s n l).brn m = s.brn m := State.brn_wrs s _ m

/-- A frame of a branch leaves the fields of the registers it does not list; r lists them as those of branch 0. -/
theorem rd_of_brnFrame {s t : State} {n : Nat} (r : List Nat) (h : brnFrame n (r.map (· + 0x200 * n)) s t) (f : Nat → Fld)
    (hf : f n = (f 0).up (0x200 * n)) (hr : r.contains (f 0).addr = false) : rd t (f n) = rd s (f n) := by
  obtain ⟨-, hcells, -⟩ := h
  refine rd_of_cellsBut hcells _ fun hmem => ?_
  rw [hf] at hmem
  obtain ⟨a, ha, heq⟩ := List.mem_map.1 hmem
  rw [Nat.add_right_cancel heq] at ha
  exact absurd (List.contains_iff_mem.2 ha) (by rw [hr]; decide)

/-! ## The limit of a branch (R281, R286) -/

theorem brnLimit_eq (s : State) (n v w : Nat) : brnLimit s n v w = s.setBrn n { s.brn n with
    limit := if rd s (BRN_STAT_STATE n) = 2 then foldBack (s.brn n).cfg v w else limitSense (s.brn n).cfg } := rfl

/-- The limit comparator is active: LIMIT is set, PG is gone, and a PG that stood is noted as lost (R287, R288). -/
theorem limitOn_spec (s : State) (n : Nat) : rd (limitOn s n) (BRN_STAT_LIMIT n) = 1 ∧ rd (limitOn s n) (BRN_STAT_PG n) = 0 ∧
    rd (limitOn s n) (BRN_EVT_PG_LOST n) = (if rd s (BRN_STAT_PG n) = 1 then 1 else rd s (BRN_EVT_PG_LOST n)) ∧
    rd (limitOn s n) (BRN_STAT_STATE n) = rd s (BRN_STAT_STATE n) ∧
    regsOnly [(BRN_STAT_LIMIT n).addr, (BRN_EVT_PG_LOST n).addr] s (limitOn s n) := by
  rcases rd_bit s (f := BRN_STAT_PG n) rfl with hpg | hpg
  · have h : limitOn s n = brnWrs s n [(BRN_STAT_LIMIT 0, 1)] := by rw [limitOn, flag_false hpg]; rfl
    rw [h, if_neg (by omega)]
    exact ⟨rd_brnWrs s BRN_STAT_LIMIT rfl rfl rfl rfl, (rd_brnWrs_misses s BRN_STAT_PG rfl rfl rfl).trans hpg,
      rd_brnWrs_misses s BRN_EVT_PG_LOST rfl rfl rfl, rd_brnWrs_misses s BRN_STAT_STATE rfl rfl rfl,
      regsOnly_brnWrs s n [(BRN_STAT_LIMIT 0).addr, (BRN_EVT_PG_LOST 0).addr] rfl⟩
  · have h : limitOn s n = brnWrs s n [(BRN_STAT_LIMIT 0, 1), (BRN_STAT_PG 0, 0), (BRN_EVT_PG_LOST 0, 1)] := by
      rw [limitOn, flag_true hpg]; rfl
    rw [h, if_pos hpg]
    exact ⟨rd_brnWrs s BRN_STAT_LIMIT rfl rfl rfl rfl, rd_brnWrs s BRN_STAT_PG rfl rfl rfl rfl, rd_brnWrs s BRN_EVT_PG_LOST rfl rfl rfl rfl,
      rd_brnWrs_misses s BRN_STAT_STATE rfl rfl rfl,
      regsOnly_brnWrs s n [(BRN_STAT_LIMIT 0).addr, (BRN_EVT_PG_LOST 0).addr] rfl⟩

/-! ## What a trip marks (R283, R287, R291) -/

/-- The events of a branch that record a trip. -/
def IsTrip (e : Nat → Fld) : Prop :=
  e = BRN_EVT_TRIP_FAST ∨ e = BRN_EVT_TRIP_START ∨ e = BRN_EVT_TRIP_FLT ∨ e = BRN_EVT_TRIP_OT

/-- In the hold of an activation HELD_TRIP is set, and there, as while the link is lost, the trip waits to be reported. -/
theorem heldMark_spec (s : State) (n : Nat) :
    rd (heldMark s n) (BRN_EVT_HELD_TRIP n) = (if s.rst.hold then 1 else rd s (BRN_EVT_HELD_TRIP n)) ∧
    (∀ f : Nat → Fld, f n = (f 0).up (0x200 * n) → (BRN_EVT_HELD_TRIP 0).misses (f 0) = true → rd (heldMark s n) (f n) = rd s (f n)) ∧
    (heldMark s n).brn n = { s.brn n with heldTrip := s.rst.hold || s.rst.d2dHubLost || (s.brn n).heldTrip } ∧
    brnFrame n [(BRN_EVT_TRIP_FAST n).addr] s (heldMark s n) := by
  cases hh : s.rst.hold
  · cases hl : s.rst.d2dHubLost
    · have h : heldMark s n = s := by simp [heldMark, hh, hl]
      rw [h]
      exact ⟨rfl, fun _ _ _ => rfl, rfl, brnFrame_refl _ _ _⟩
    · have h : heldMark s n = s.setBrn n { s.brn n with heldTrip := true } := by simp [heldMark, hh, hl]
      rw [h]
      exact ⟨rd_setBrn _ _ _ _, fun _ _ _ => rd_setBrn _ _ _ _, State.brn_setBrn_self _ _ _, brnFrame_setBrn (brnFrame_refl _ _ _)⟩
  · have h : heldMark s n = (brnWrs s n [(BRN_EVT_HELD_TRIP 0, 1)]).setBrn n { s.brn n with heldTrip := true } := by
      simp only [heldMark, hh, true_or, if_true]; rfl
    rw [h]
    refine ⟨(rd_setBrn _ _ _ _).trans (rd_brnWrs s BRN_EVT_HELD_TRIP rfl rfl rfl rfl), fun f hf hm => ?_, State.brn_setBrn_self _ _ _,
      brnFrame_setBrn (brnFrame_of_regsOnly (regsOnly_brnWrs s n [(BRN_EVT_TRIP_FAST 0).addr] rfl))⟩
    rw [rd_setBrn]
    exact rd_brnWrs_misses s f hf rfl (by simpa using hm)

end Sys2Proof.Machine

/-! SUPPORT. Obligation O44: a branch starts, runs, trips, retries and latches. -/

namespace Sys2Proof.Machine

/-! ## Start and run of a branch (R283 to R288) -/

/-- The registers of a branch that enters ON, with its fault timer at 0. -/
def onBrn (s : State) (n : Nat) : State :=
  (brnWrs s n [(BRN_STAT_STATE 0, 3), (BRN_STAT_PG 0, 0), (BRN_FTIMER_ACC 0, 0)]).setBrn n { s.brn n with fault := 0 }

theorem brnToOn_eq (s : State) (n : Nat) : brnToOn s n =
    (onBrn s n).setBrn n { s.brn n with fault := 0, limit := limitSense (s.brn n).cfg } := by
  have hst : rd (onBrn s n) (BRN_STAT_STATE n) = 3 := (rd_setBrn _ _ _ _).trans (rd_brnWrs s BRN_STAT_STATE rfl rfl rfl rfl)
  change brnLimit (onBrn s n) n 0 0 = _
  rw [brnLimit_eq, if_neg (by rw [hst]; decide), onBrn, State.brn_setBrn_self]

/-- A branch that enters ON: its timer is at 0, PG is to qualify, and V_LIM ÷ R_SHUNT is its limit (R281, R283, R285). -/
theorem brnToOn_spec (s : State) (n : Nat) :
    ((brnToOn s n).brn n).limit = limitSense (s.brn n).cfg ∧ rd (brnToOn s n) (BRN_STAT_STATE n) = 3 ∧
    rd (brnToOn s n) (BRN_STAT_PG n) = 0 ∧ rd (brnToOn s n) (BRN_FTIMER_ACC n) = 0 ∧ ((brnToOn s n).brn n).fault = 0 ∧
    rd (brnToOn s n) (BRN_STAT_E n) = rd s (BRN_STAT_E n) ∧
    brnFrame n [(BRN_STAT_STATE n).addr, (BRN_FTIMER_ACC n).addr] s (brnToOn s n) := by
  have hrd : ∀ f, rd (brnToOn s n) f = rd (brnWrs s n [(BRN_STAT_STATE 0, 3), (BRN_STAT_PG 0, 0), (BRN_FTIMER_ACC 0, 0)]) f := fun f => by
    rw [brnToOn_eq, rd_setBrn, onBrn, rd_setBrn]
  have hbrn : (brnToOn s n).brn n = { s.brn n with fault := 0, limit := limitSense (s.brn n).cfg } := by
    rw [brnToOn_eq, State.brn_setBrn_self]
  rw [hbrn]
  refine ⟨rfl, (hrd _).trans (rd_brnWrs s BRN_STAT_STATE rfl rfl rfl rfl), (hrd _).trans (rd_brnWrs s BRN_STAT_PG rfl rfl rfl rfl),
    (hrd _).trans (rd_brnWrs s BRN_FTIMER_ACC rfl rfl rfl rfl), rfl, (hrd _).trans (rd_brnWrs_misses s BRN_STAT_E rfl rfl rfl), ?_⟩
  rw [brnToOn_eq]
  exact brnFrame_setBrn (brnFrame_setBrn (brnFrame_of_regsOnly (regsOnly_brnWrs s n [(BRN_STAT_STATE 0).addr, (BRN_FTIMER_ACC 0).addr] rfl)))

section
variable {s : State} {n : Nat} (hn : n < 16)
include hn

theorem exec_insertionTimer (hst : rd s (BRN_STAT_STATE n) = 1) (hok : rd s (BRN_STAT_BUS_OK n) = 1) :
    exec (.insertionTimer n) s = .next
      ((brnWrs s n [(BRN_STAT_STATE 0, 2), (BRN_CNT_STARTS 0, rd s (BRN_CNT_STARTS n) + 1)]).setBrn n
        { s.brn n with
          limit := foldBack (s.brn n).cfg (2 * rd s (BRN_MEAS_V_V_BUS n)) (2 * rd s (BRN_MEAS_V_V_OUT n)) }) := by
  have hwr : incWrap (wr s (BRN_STAT_STATE n) bRamp) (BRN_CNT_STARTS n) =
      brnWrs s n [(BRN_STAT_STATE 0, 2), (BRN_CNT_STARTS 0, rd s (BRN_CNT_STARTS n) + 1)] := by
    change incWrap (brnWrs s n [(BRN_STAT_STATE 0, 2)]) (BRN_CNT_STARTS n) = _
    rw [incWrap, rd_brnWrs_misses s BRN_CNT_STARTS rfl rfl rfl]
    rfl
  have hramp : rd (brnWrs s n [(BRN_STAT_STATE 0, 2), (BRN_CNT_STARTS 0, rd s (BRN_CNT_STARTS n) + 1)]) (BRN_STAT_STATE n) = 2 :=
    rd_brnWrs s BRN_STAT_STATE rfl rfl rfl rfl
  change execInsertionTimer n s = _
  rw [execInsertionTimer, if_pos ⟨hn, hst, flag_true hok⟩, hwr, brnLimit_eq, if_pos hramp, brn_brnWrs]

theorem exec_rampComplete (hst : rd s (BRN_STAT_STATE n) = 2) : exec (.rampComplete n) s = .next (brnToOn s n) := by
  change execRampComplete n s = _
  rw [execRampComplete, if_pos ⟨hn, hst⟩]

theorem exec_startTimeout (hst : rd s (BRN_STAT_STATE n) = 2) (done : Bool) : exec (.startTimeout n done) s =
    .next (if done then brnToOn s n else brnTrip s n (BRN_EVT_TRIP_START n) false) := by
  change execStartTimeout n done s = _
  rw [execStartTimeout, if_pos ⟨hn, hst⟩]

theorem exec_limitEntry : exec (.limitEntry n) s = .next (limitOn s n) := by
  change execLimitEntry n s = _
  rw [execLimitEntry, if_pos hn]

theorem exec_pgQualified (hst : rd s (BRN_STAT_STATE n) = 3) (limit : Bool) : exec (.pgQualified n limit) s =
    .next (if limit then limitOn s n else brnWrs s n [(BRN_STAT_PG 0, 1), (BRN_STAT_LIMIT 0, 0)]) := by
  change execPgQualified n limit s = _
  rw [execPgQualified, if_pos ⟨hn, hst⟩]
  rfl

theorem exec_pgHold1s (hpg : rd s (BRN_STAT_PG n) = 1) : exec (.pgHold1s n) s = .next (brnWrs s n [(BRN_STAT_RCNT 0, 0)]) := by
  change execPgHold1s n s = _
  rw [execPgHold1s, if_pos ⟨hn, flag_true hpg⟩]
  rfl

end

/-! ## A trip (R283, R287, R291) -/

/-- The writes of a trip: its event, PG, the count of trips, and E where it falls in the same cycle. -/
def tripWrites (e : Nat → Fld) (trips : Nat) (fall : Bool) : List (Fld × Nat) :=
  [(e 0, 1), (BRN_STAT_PG 0, 0), (BRN_CNT_TRIPS 0, trips)] ++ if fall then [(BRN_STAT_E 0, 0)] else []

/-- A branch that has tripped, before the way on. -/
def tripped (s : State) (n : Nat) (e : Nat → Fld) (fall : Bool) : State :=
  heldMark (brnWrs s n (tripWrites e (min (rd s (BRN_CNT_TRIPS n) + 1) 65535) fall)) n

/-- What every trip shows, whichever way the branch goes on. -/
structure TripShown (n : Nat) (e : Nat → Fld) (s t : State) : Prop where
  frame : brnFrame n [(BRN_STAT_STATE n).addr, (BRN_EVT_TRIP_FAST n).addr, (BRN_CNT_TRIPS n).addr] s t
  event : rd t (e n) = 1
  pg : rd t (BRN_STAT_PG n) = 0
  trips : rd t (BRN_CNT_TRIPS n) = min (rd s (BRN_CNT_TRIPS n) + 1) 65535
  held : rd t (BRN_EVT_HELD_TRIP n) = (if s.rst.hold then 1 else rd s (BRN_EVT_HELD_TRIP n))
  waits : (t.brn n).heldTrip = (s.rst.hold || s.rst.d2dHubLost || (s.brn n).heldTrip)

theorem isTrip_up {e : Nat → Fld} (he : IsTrip e) (n : Nat) : e n = (e 0).up (0x200 * n) := by
  rcases he with rfl | rfl | rfl | rfl <;> rfl

/-- The fields that a trip shows share no bit with those that the way on writes. -/
theorem tripShown_brnWrs {n : Nat} {e : Nat → Fld} {s t : State} {l : List (Fld × Nat)} (he : IsTrip e) (h : TripShown n e s t)
    (hfit : (l.all fun p => p.1.fits) = true)
    (hl : (l.all fun p => [BRN_STAT_STATE 0, BRN_STAT_RCNT 0, BRN_EVT_LATCHED 0].contains p.1) = true) :
    TripShown n e s (brnWrs t n l) := by
  have hmiss : ∀ g : Fld, ([BRN_STAT_STATE 0, BRN_STAT_RCNT 0, BRN_EVT_LATCHED 0].all fun f => f.misses g) = true →
      (l.all fun p => p.1.misses g) = true := fun g hg =>
    List.all_eq_true.2 fun p hp => List.all_eq_true.1 hg _ (List.contains_iff_mem.1 (List.all_eq_true.1 hl p hp))
  have hreg : regsOnly [(BRN_STAT_STATE n).addr, (BRN_EVT_TRIP_FAST n).addr] t (brnWrs t n l) :=
    regsOnly_brnWrs t n [(BRN_STAT_STATE 0).addr, (BRN_EVT_TRIP_FAST 0).addr] (List.all_eq_true.2 fun p hp => by
      have := List.contains_iff_mem.1 (List.all_eq_true.1 hl p hp)
      simp only [List.mem_cons, List.not_mem_nil, or_false] at this
      rcases this with h | h | h <;> rw [h] <;> rfl)
  exact {
    frame := brnFrame_trans h.frame (brnFrame_of_regsOnly (regsOnly_mono hreg (by simp)))
    event := (rd_brnWrs_misses t e (isTrip_up he n) hfit (hmiss _ (by rcases he with rfl | rfl | rfl | rfl <;> rfl))).trans h.event
    pg := (rd_brnWrs_misses t BRN_STAT_PG rfl hfit (hmiss _ rfl)).trans h.pg
    trips := (rd_brnWrs_misses t BRN_CNT_TRIPS rfl hfit (hmiss _ rfl)).trans h.trips
    held := (rd_brnWrs_misses t BRN_EVT_HELD_TRIP rfl hfit (hmiss _ rfl)).trans h.held
    waits := (congrArg Brn.heldTrip (brn_brnWrs t n l n)).trans h.waits }

/-- No time passes within the frame of a branch. -/
theorem ftNs_of_brnFrame {n : Nat} {l : List Nat} {s t : State} (h : brnFrame n l s t) : ftNs t = ftNs s := by
  rw [ftNs, h.1 .clk (by decide), ftNs]

theorem tripShown_brnRest {n : Nat} {e : Nat → Fld} {s t : State} (h : TripShown n e s t) : TripShown n e s (brnRest t n) := by
  exact {
    frame := brnFrame_setBrn h.frame
    event := (rd_setBrn _ _ _ _).trans h.event
    pg := (rd_setBrn _ _ _ _).trans h.pg
    trips := (rd_setBrn _ _ _ _).trans h.trips
    held := (rd_setBrn _ _ _ _).trans h.held
    waits := (congrArg Brn.heldTrip (State.brn_setBrn_self _ _ _)).trans h.waits }

section
variable {e : Nat → Fld} (he : IsTrip e) (s : State) (n : Nat) (fall : Bool)
include he

/-- What the writes of a trip leave in E. -/
theorem rd_tripWrites_E (c : Nat) : rd (brnWrs s n (tripWrites e c fall)) (BRN_STAT_E n) = if fall then 0 else rd s (BRN_STAT_E n) := by
  cases fall
  · exact rd_brnWrs_misses s BRN_STAT_E rfl (by rcases he with rfl | rfl | rfl | rfl <;> rfl) (by rcases he with rfl | rfl | rfl | rfl <;> rfl)
  · exact rd_brnWrs s BRN_STAT_E rfl (by rcases he with rfl | rfl | rfl | rfl <;> rfl) (by rcases he with rfl | rfl | rfl | rfl <;> rfl) rfl

/-- What the writes of a trip leave in its event, PG and the counts, and what they leave alone. -/
theorem tripWrites_spec {c : Nat} (hc : c < 65536) :
    rd (brnWrs s n (tripWrites e c fall)) (e n) = 1 ∧ rd (brnWrs s n (tripWrites e c fall)) (BRN_STAT_PG n) = 0 ∧
    rd (brnWrs s n (tripWrites e c fall)) (BRN_CNT_TRIPS n) = c ∧
    rd (brnWrs s n (tripWrites e c fall)) (BRN_STAT_RCNT n) = rd s (BRN_STAT_RCNT n) ∧
    rd (brnWrs s n (tripWrites e c fall)) (BRN_EVT_HELD_TRIP n) = rd s (BRN_EVT_HELD_TRIP n) ∧
    regsOnly [(BRN_STAT_STATE n).addr, (BRN_EVT_TRIP_FAST n).addr, (BRN_CNT_TRIPS n).addr] s (brnWrs s n (tripWrites e c fall)) := by
  rcases he with rfl | rfl | rfl | rfl <;> cases fall <;>
  exact ⟨rd_brnWrs s _ rfl rfl rfl rfl, rd_brnWrs s BRN_STAT_PG rfl rfl rfl rfl, rd_brnWrs s BRN_CNT_TRIPS rfl rfl rfl (Nat.mod_eq_of_lt hc),
    rd_brnWrs_misses s BRN_STAT_RCNT rfl rfl rfl, rd_brnWrs_misses s BRN_EVT_HELD_TRIP rfl rfl rfl,
    regsOnly_brnWrs s n [(BRN_STAT_STATE 0).addr, (BRN_EVT_TRIP_FAST 0).addr, (BRN_CNT_TRIPS 0).addr] rfl⟩

theorem tripped_spec : TripShown n e s (tripped s n e fall) ∧
    rd (tripped s n e fall) (BRN_STAT_E n) = (if fall then 0 else rd s (BRN_STAT_E n)) ∧
    rd (tripped s n e fall) (BRN_STAT_RCNT n) = rd s (BRN_STAT_RCNT n) ∧ ((tripped s n e fall).brn n).cfg = (s.brn n).cfg := by
  have hc : min (rd s (BRN_CNT_TRIPS n) + 1) 65535 < 65536 := by omega
  obtain ⟨hevent, hpg, htrips, hrcnt, hheld, hregs⟩ := tripWrites_spec he s n fall hc
  have hE := rd_tripWrites_E he s n fall (min (rd s (BRN_CNT_TRIPS n) + 1) 65535)
  have hb := brn_brnWrs s n (tripWrites e (min (rd s (BRN_CNT_TRIPS n) + 1) 65535) fall) n
  rw [tripped]
  generalize brnWrs s n (tripWrites e (min (rd s (BRN_CNT_TRIPS n) + 1) 65535) fall) = u at *
  obtain ⟨hmark, hkeep, hbrn, hframe⟩ := heldMark_spec u n
  have hrst : u.rst = s.rst := hregs.1 .rst (by decide)
  refine ⟨{ frame := brnFrame_trans (brnFrame_of_regsOnly hregs) (brnFrame_mono hframe (by simp))
            event := (hkeep e (isTrip_up he n) (by rcases he with rfl | rfl | rfl | rfl <;> rfl)).trans hevent
            pg := (hkeep BRN_STAT_PG rfl rfl).trans hpg
            trips := (hkeep BRN_CNT_TRIPS rfl rfl).trans htrips
            held := by rw [hmark, hheld, hrst]
            waits := by rw [hbrn, hrst, hb] },
    (hkeep BRN_STAT_E rfl rfl).trans hE, (hkeep BRN_STAT_RCNT rfl rfl).trans hrcnt, by rw [hbrn, hb]⟩

theorem brnTrip_eq : brnTrip s n (e n) fall =
    if rd (tripped s n e fall) (BRN_STAT_E n) = 0 then brnWrs (tripped s n e fall) n [(BRN_STAT_STATE 0, 5)]
    else if rd s (BRN_STAT_RCNT n) < (s.brn n).cfg.retries then
      brnWrs (tripped s n e fall) n [(BRN_STAT_STATE 0, 6), (BRN_STAT_RCNT 0, rd s (BRN_STAT_RCNT n) + 1)]
    else if s.rst.hold ∨ s.rst.d2dHubLost then
      brnRest (brnWrs (tripped s n e fall) n [(BRN_STAT_STATE 0, 7), (BRN_EVT_LATCHED 0, 1)]) n
    else raise (brnRest (brnWrs (tripped s n e fall) n [(BRN_STAT_STATE 0, 7), (BRN_EVT_LATCHED 0, 1)]) n) (88 + n)
      (rdW (brnRest (brnWrs (tripped s n e fall) n [(BRN_STAT_STATE 0, 7), (BRN_EVT_LATCHED 0, 1)]) n) (BRN_EVT_TRIP_FAST n).addr % 512) := by
  obtain ⟨-, -, hrcnt, hcfg⟩ := tripped_spec he s n fall
  have hwr : wrs s [(e n, 1), (BRN_STAT_PG n, 0)] = brnWrs s n [(e 0, 1), (BRN_STAT_PG 0, 0)] := by
    rw [isTrip_up he n]; rfl
  have hcount : incSat (wrs s [(e n, 1), (BRN_STAT_PG n, 0)]) (BRN_CNT_TRIPS n) =
      brnWrs s n [(e 0, 1), (BRN_STAT_PG 0, 0), (BRN_CNT_TRIPS 0, min (rd s (BRN_CNT_TRIPS n) + 1) 65535)] := by
    rw [hwr, incSat_brnWrs s BRN_CNT_TRIPS rfl (by rcases he with rfl | rfl | rfl | rfl <;> rfl)
      (by rcases he with rfl | rfl | rfl | rfl <;> rfl)]
    rfl
  have hall : heldMark (if fall then wr (incSat (wrs s [(e n, 1), (BRN_STAT_PG n, 0)]) (BRN_CNT_TRIPS n)) (BRN_STAT_E n) 0
      else incSat (wrs s [(e n, 1), (BRN_STAT_PG n, 0)]) (BRN_CNT_TRIPS n)) n = tripped s n e fall := by
    rw [hcount]
    cases fall <;> rfl
  simp only [brnTrip, hall, hrcnt, hcfg]
  obtain h | h := rd_bit (tripped s n e fall) (f := BRN_STAT_E n) rfl
  · rw [if_pos (by rw [flag_false h]; rfl), if_pos h]
    rfl
  · rw [if_neg (by rw [flag_true h]; decide), if_neg (show ¬rd (tripped s n e fall) (BRN_STAT_E n) = 0 by omega)]
    rfl

/-- The way on of a branch that trips (R283, R284, R287, R291). -/
theorem brnTrip_spec : ∃ t, TripShown n e s t ∧
    if rd s (BRN_STAT_E n) = 0 ∨ fall = true then
      brnTrip s n (e n) fall = t ∧ rd t (BRN_STAT_STATE n) = 5 ∧ rd t (BRN_STAT_RCNT n) = rd s (BRN_STAT_RCNT n)
    else if rd s (BRN_STAT_RCNT n) < (s.brn n).cfg.retries then
      brnTrip s n (e n) fall = t ∧ rd t (BRN_STAT_STATE n) = 6 ∧ rd t (BRN_STAT_RCNT n) = (rd s (BRN_STAT_RCNT n) + 1) % 8
    else rd t (BRN_STAT_STATE n) = 7 ∧ rd t (BRN_EVT_LATCHED n) = 1 ∧ (t.brn n).rest = ftNs s ∧
      brnTrip s n (e n) fall = (if s.rst.hold ∨ s.rst.d2dHubLost then t
        else raise t (88 + n) (rdW t (BRN_EVT_TRIP_FAST n).addr % 512)) := by
  obtain ⟨hshown, hE, hrcnt, -⟩ := tripped_spec he s n fall
  have hE0 : rd (tripped s n e fall) (BRN_STAT_E n) = 0 ↔ rd s (BRN_STAT_E n) = 0 ∨ fall = true := by
    rw [hE]
    cases fall <;> simp
  have heq := brnTrip_eq he s n fall
  by_cases hoff : rd s (BRN_STAT_E n) = 0 ∨ fall = true
  · rw [if_pos (hE0.2 hoff)] at heq
    refine ⟨_, tripShown_brnWrs (l := [(BRN_STAT_STATE 0, 5)]) he hshown rfl rfl, ?_⟩
    rw [if_pos hoff]
    exact ⟨heq, rd_brnWrs _ BRN_STAT_STATE rfl rfl rfl rfl, (rd_brnWrs_misses _ BRN_STAT_RCNT rfl rfl rfl).trans hrcnt⟩
  · rw [if_neg (mt hE0.1 hoff)] at heq
    by_cases hretry : rd s (BRN_STAT_RCNT n) < (s.brn n).cfg.retries
    · rw [if_pos hretry] at heq
      refine ⟨_, tripShown_brnWrs (l := [(BRN_STAT_STATE 0, 6), (BRN_STAT_RCNT 0, rd s (BRN_STAT_RCNT n) + 1)]) he hshown rfl rfl, ?_⟩
      rw [if_neg hoff, if_pos hretry]
      exact ⟨heq, rd_brnWrs _ BRN_STAT_STATE rfl rfl rfl rfl, rd_brnWrs _ BRN_STAT_RCNT rfl rfl rfl rfl⟩
    · rw [if_neg hretry] at heq
      have hlatched := tripShown_brnWrs (l := [(BRN_STAT_STATE 0, 7), (BRN_EVT_LATCHED 0, 1)]) he hshown rfl rfl
      refine ⟨_, tripShown_brnRest hlatched, ?_⟩
      rw [if_neg hoff, if_neg hretry]
      refine ⟨(rd_setBrn _ _ _ _).trans (rd_brnWrs _ BRN_STAT_STATE rfl rfl rfl rfl),
        (rd_setBrn _ _ _ _).trans (rd_brnWrs _ BRN_EVT_LATCHED rfl rfl rfl rfl), ?_, heq⟩
      rw [brnRest, State.brn_setBrn_self]
      exact ftNs_of_brnFrame hlatched.frame

end

section
variable {s : State} {n : Nat} (hn : n < 16)
include hn

theorem exec_fastTrip (hst : rd s (BRN_STAT_STATE n) = 2 ∨ rd s (BRN_STAT_STATE n) = 3) (fall bus : Bool) :
    exec (.fastTrip n fall bus) s = .next (busLeaves (brnTrip s n (BRN_EVT_TRIP_FAST n) fall) n bus) := by
  change execFastTrip n fall bus s = _
  rw [execFastTrip, if_neg (by omega), if_pos (show brnState s n = bRamp ∨ brnState s n = bOn from hst)]

theorem exec_faultTimerExpiry (hst : rd s (BRN_STAT_STATE n) = 3) (hp : (s.brn n).cfg.prot = false) (fast fall bus : Bool) :
    exec (.faultTimerExpiry n fast fall bus) s = .next (busLeaves (brnTrip (wr s (BRN_FTIMER_ACC n) (s.brn n).cfg.tFlt) n
      (if fast then BRN_EVT_TRIP_FAST n else BRN_EVT_TRIP_FLT n) fall) n bus) := by
  change execFaultTimerExpiry n fast fall bus s = _
  rw [execFaultTimerExpiry, if_neg (by omega)]
  dsimp only
  rw [if_pos (show brnState s n = bOn ∧ (!(s.brn n).cfg.prot) = true from ⟨hst, by rw [hp]; rfl⟩)]

/-- The update of the thermal model of a branch, before it may trip (R289). -/
def heated (s : State) (n : Nat) (tj ta : Int) : State := (wrI s (BRN_TH_TJ_T_J n) (tj / 1024)).setBrn n { s.brn n with tj := tj, ta := ta }

theorem exec_thermalUpdate (hp : (s.brn n).cfg.prot = true) {vBus vOut i ta tj : Int}
    (htj : tj = tjNext (s.brn n) (flag s (BRN_STAT_LIMIT n) || rd s (BRN_STAT_STATE n) == 2) vBus vOut i ta) :
    exec (.thermalUpdate n vBus vOut i ta) s =
      .next (if rd s (BRN_STAT_STATE n) = 3 ∧ (((s.brn n).cfg.tOt * 65536 : Nat) : Int) ≤ tj
        then brnTrip (heated s n tj ta) n (BRN_EVT_TRIP_OT n) false else heated s n tj ta) := by
  change execThermalUpdate n vBus vOut i ta s = _
  rw [execThermalUpdate, if_neg (by rw [hp]; simpa using hn), htj]
  rfl

end

/-- Settles O44: start and run clause by clause through the commands' equations, trips by `brnTrip_spec`. -/
theorem branchRunsAndTrips : Obligations.BranchRunsAndTrips := by
  unfold Obligations.BranchRunsAndTrips
  refine ⟨fun n s hn => ⟨fun hst hok => ?_, fun hst => ?_, ?_, fun hst limit => ?_, fun hpg => ?_⟩, fun n s ev fall hev => ?_,
    fun n s bus => rfl, fun n s hn => ⟨fun hst fall bus => exec_fastTrip hn hst fall bus, fun hst => exec_startTimeout hn hst false,
      fun hst hp fast fall bus => exec_faultTimerExpiry hn hst hp fast fall bus, fun hst hp vBus vOut i ta tj u htj hu => ?_⟩⟩
  · refine ⟨_, exec_insertionTimer hn hst hok, (rd_setBrn _ _ _ _).trans (rd_brnWrs s BRN_STAT_STATE rfl rfl rfl rfl),
      (rd_setBrn _ _ _ _).trans (rd_brnWrs s BRN_CNT_STARTS rfl rfl rfl rfl),
      (rd_setBrn _ _ _ _).trans (rd_brnWrs_misses s BRN_CNT_TRIPS rfl rfl rfl),
      (rd_setBrn _ _ _ _).trans (rd_brnWrs_misses s BRN_STAT_RCNT rfl rfl rfl), fun c hc => ?_,
      brnFrame_setBrn (brnFrame_of_regsOnly (regsOnly_brnWrs s n [(BRN_STAT_STATE 0).addr, (BRN_CNT_STARTS 0).addr] rfl))⟩
    rw [State.brn_setBrn_self, hc]
    rfl
  · exact ⟨_, exec_rampComplete hn hst, exec_startTimeout hn hst true, brnToOn_spec s n⟩
  · obtain ⟨hlimit, hpg, hlost, hstate, hregs⟩ := limitOn_spec s n
    exact ⟨_, exec_limitEntry hn, hlimit, hpg, hlost, hstate, brnFrame_of_regsOnly hregs⟩
  · refine ⟨_, exec_pgQualified hn hst limit, ?_⟩
    cases limit
    · exact ⟨rd_brnWrs s BRN_STAT_PG rfl rfl rfl rfl, rd_brnWrs s BRN_STAT_LIMIT rfl rfl rfl rfl,
        (rd_brnWrs_misses s BRN_STAT_STATE rfl rfl rfl).trans hst,
        brnFrame_of_regsOnly (regsOnly_brnWrs s n [(BRN_STAT_PG 0).addr, (BRN_EVT_PG_LOST 0).addr] rfl)⟩
    · obtain ⟨hlimit, hpg, -, hstate, hregs⟩ := limitOn_spec s n
      exact ⟨hpg, hlimit, hstate.trans hst, brnFrame_of_regsOnly hregs⟩
  · exact ⟨_, exec_pgHold1s hn hpg, rd_brnWrs s BRN_STAT_RCNT rfl rfl rfl rfl, rd_brnWrs_misses s BRN_STAT_STATE rfl rfl rfl,
      brnFrame_of_regsOnly (regsOnly_brnWrs s n [(BRN_STAT_RCNT 0).addr] rfl)⟩
  · obtain ⟨e, he, rfl⟩ : ∃ e, IsTrip e ∧ ev = e n := by
      rcases hev with h | h | h | h
      · exact ⟨_, .inl rfl, h⟩
      · exact ⟨_, .inr (.inl rfl), h⟩
      · exact ⟨_, .inr (.inr (.inl rfl)), h⟩
      · exact ⟨_, .inr (.inr (.inr rfl)), h⟩
    obtain ⟨t, ⟨hframe, hevent, hpg, htrips, hheld, hwaits⟩, hway⟩ := brnTrip_spec he s n fall
    exact ⟨t, hframe, hevent, hpg, htrips, hheld, hwaits, hway⟩
  · have hhot : tj = tjNext (s.brn n) (flag s (BRN_STAT_LIMIT n) || rd s (BRN_STAT_STATE n) == 2) vBus vOut i ta := by
      rw [htj, hst, show ((3 : Nat) == 2) = false from rfl, Bool.or_false]
    simp only [exec_thermalUpdate hn hp hhot, hst, true_and, hu]
    rfl

end Sys2Proof.Machine

/-! SUPPORT. Obligation O45: a branch turns off through DISCHARGE, and starts again through INSERT. -/

namespace Sys2Proof.Machine

/-! ## Into DISCHARGE (R283, R287) -/

section
variable {s : State} {n : Nat} (hn : n < 16)
include hn

theorem exec_busWindowChange_flag {ok : Bool} (h : ok = true ∨ (rd s (BRN_STAT_STATE n) ≠ 2 ∧ rd s (BRN_STAT_STATE n) ≠ 3)) :
    exec (.busWindowChange n ok) s = .next (wr s (BRN_STAT_BUS_OK n) (if ok then 1 else 0)) := by
  have hstay : ¬((!ok) = true ∧ (brnState s n = bRamp ∨ brnState s n = bOn)) := by
    rintro ⟨hok, hst⟩
    obtain rfl | ⟨h2, h3⟩ := h
    · cases hok
    · exact hst.elim h2 h3
  change execBusWindowChange n ok s = _
  rw [execBusWindowChange, if_neg (by omega)]
  exact congrArg _ (if_neg hstay)

theorem exec_busWindowChange_leaves (h : rd s (BRN_STAT_STATE n) = 2 ∨ rd s (BRN_STAT_STATE n) = 3) :
    exec (.busWindowChange n false) s = .next (brnWrs s n [(BRN_STAT_BUS_OK 0, 0), (BRN_STAT_STATE 0, 5), (BRN_STAT_PG 0, 0),
      (BRN_EVT_BUS_FLT 0, 1), (BRN_STAT_PENDING_ON 0, rd s (BRN_STAT_E n))]) := by
  change execBusWindowChange n false s = _
  rw [execBusWindowChange, if_neg (by omega)]
  dsimp only
  rw [if_pos (show (!false) = true ∧ (brnState s n = bRamp ∨ brnState s n = bOn) from ⟨rfl, h⟩), brnWrs_cons]
  rfl

theorem exec_softOffEnd (h : rd s (BRN_STAT_STATE n) = 4) : exec (.softOffEnd n) s = .next (wr s (BRN_STAT_STATE n) 5) := by
  change execSoftOffEnd n s = _
  rw [execSoftOffEnd, if_pos ⟨hn, h⟩]
  rfl

theorem exec_fastTrip_soft (h : rd s (BRN_STAT_STATE n) = 4) (fall bus : Bool) :
    exec (.fastTrip n fall bus) s = .next (busLeaves (softTrip s n (BRN_EVT_TRIP_FAST n)) n bus) := by
  have hst : brnState s n = 4 := h
  change execFastTrip n fall bus s = _
  rw [execFastTrip, if_neg (by omega), hst]
  rfl

theorem exec_faultTimerExpiry_soft (h : rd s (BRN_STAT_STATE n) = 4) (fast fall bus : Bool) :
    exec (.faultTimerExpiry n fast fall bus) s = .next (if (s.brn n).cfg.prot then s
      else busLeaves (softTrip s n (if fast then BRN_EVT_TRIP_FAST n else BRN_EVT_TRIP_FLT n)) n bus) := by
  have hst : brnState s n = 4 := h
  change execFaultTimerExpiry n fast fall bus s = _
  rw [execFaultTimerExpiry, if_neg (by omega), hst]
  cases (s.brn n).cfg.prot <;> rfl

end

/-- What the writes of a trip in SOFT_OFF leave in their fields, and what they leave alone. -/
theorem softWrites_spec {e : Nat → Fld} (he : IsTrip e) (s : State) (n : Nat) {c : Nat} (hc : c < 65536) :
    ∃ u, u = brnWrs s n [(e 0, 1), (BRN_STAT_STATE 0, 5), (BRN_CNT_TRIPS 0, c)] ∧ rd u (e n) = 1 ∧ rd u (BRN_STAT_STATE n) = 5 ∧
      rd u (BRN_CNT_TRIPS n) = c ∧ rd u (BRN_STAT_RCNT n) = rd s (BRN_STAT_RCNT n) ∧
      rd u (BRN_EVT_HELD_TRIP n) = rd s (BRN_EVT_HELD_TRIP n) ∧
      regsOnly [(BRN_STAT_STATE n).addr, (BRN_EVT_TRIP_FAST n).addr, (BRN_CNT_TRIPS n).addr] s u := by
  refine ⟨_, rfl, ?_⟩
  rcases he with rfl | rfl | rfl | rfl <;>
  exact ⟨rd_brnWrs s _ rfl rfl rfl rfl, rd_brnWrs s BRN_STAT_STATE rfl rfl rfl rfl,
    rd_brnWrs s BRN_CNT_TRIPS rfl rfl rfl (Nat.mod_eq_of_lt hc), rd_brnWrs_misses s BRN_STAT_RCNT rfl rfl rfl,
    rd_brnWrs_misses s BRN_EVT_HELD_TRIP rfl rfl rfl,
    regsOnly_brnWrs s n [(BRN_STAT_STATE 0).addr, (BRN_EVT_TRIP_FAST 0).addr, (BRN_CNT_TRIPS 0).addr] rfl⟩

/-- A trip in SOFT_OFF is recorded and counted, and the branch discharges with its retries as they were (R283). -/
theorem softTrip_spec {e : Nat → Fld} (he : IsTrip e) (s : State) (n : Nat) : ∃ t, softTrip s n (e n) = t ∧
    rd t (BRN_STAT_STATE n) = 5 ∧ rd t (e n) = 1 ∧ rd t (BRN_CNT_TRIPS n) = min (rd s (BRN_CNT_TRIPS n) + 1) 65535 ∧
    rd t (BRN_STAT_RCNT n) = rd s (BRN_STAT_RCNT n) ∧
    rd t (BRN_EVT_HELD_TRIP n) = (if s.rst.hold then 1 else rd s (BRN_EVT_HELD_TRIP n)) ∧
    (t.brn n).heldTrip = (s.rst.hold || s.rst.d2dHubLost || (s.brn n).heldTrip) ∧
    brnFrame n [(BRN_STAT_STATE n).addr, (BRN_EVT_TRIP_FAST n).addr, (BRN_CNT_TRIPS n).addr] s t := by
  obtain ⟨u, hu, hevent, hstate, htrips, hrcnt, hheld, hregs⟩ :=
    softWrites_spec he s n (show min (rd s (BRN_CNT_TRIPS n) + 1) 65535 < 65536 by omega)
  have heq : softTrip s n (e n) = heldMark u n := by
    have hwr : wrs s [(e n, 1), (BRN_STAT_STATE n, bDischarge)] = brnWrs s n [(e 0, 1), (BRN_STAT_STATE 0, 5)] := by
      rw [isTrip_up he n]; rfl
    rw [softTrip, hwr, incSat_brnWrs s BRN_CNT_TRIPS rfl (by rcases he with rfl | rfl | rfl | rfl <;> rfl)
      (by rcases he with rfl | rfl | rfl | rfl <;> rfl), hu]
    rfl
  obtain ⟨hmark, hkeep, hbrn, hframe⟩ := heldMark_spec u n
  have hrst : u.rst = s.rst := hregs.1 .rst (by decide)
  exact ⟨_, heq, (hkeep BRN_STAT_STATE rfl rfl).trans hstate,
    (hkeep e (isTrip_up he n) (by rcases he with rfl | rfl | rfl | rfl <;> rfl)).trans hevent, (hkeep BRN_CNT_TRIPS rfl rfl).trans htrips,
    (hkeep BRN_STAT_RCNT rfl rfl).trans hrcnt, by rw [hmark, hheld, hrst], by rw [hbrn, hrst, hu, brn_brnWrs],
    brnFrame_trans (brnFrame_of_regsOnly hregs) (brnFrame_mono hframe (by simp))⟩

/-! ## The end of DISCHARGE (R283, R284, R295) -/

/-- An OFF branch with its enable waits while T_REON runs (R283). -/
theorem brnOffSettle_reon {s : State} {n : Nat} (h : rd s (BRN_STAT_STATE n) = 0) (he : rd s (BRN_STAT_E n) = 1)
    (hr : (s.brn n).reon = true) : brnOffSettle s n = s := by
  rw [brnOffSettle, if_neg (show ¬brnState s n ≠ bOff from not_not.2 h), if_neg (by simp [flag_true he]), if_neg (by simp [hr])]

/-- A branch whose DISCHARGE has ended, before what OFF does with the enable: T_REON runs if a start is pending. -/
def discharged (s : State) (n : Nat) : State := offBrn (s.setBrn n { s.brn n with reon := flag s (BRN_STAT_PENDING_ON n) }) n

theorem dischargeEnd_eq (s : State) (n : Nat) : dischargeEnd s n = brnOffSettle (discharged s n) n := rfl

theorem discharged_spec (s : State) (n : Nat) : rd (discharged s n) (BRN_STAT_STATE n) = 0 ∧ rd (discharged s n) (BRN_STAT_RCNT n) = 0 ∧
    (∀ f : Fld, (BRN_STAT_STATE n).apart f = true → (BRN_STAT_RCNT n).apart f = true → rd (discharged s n) f = rd s f) ∧
    (discharged s n).brn n = { s.brn n with reon := flag s (BRN_STAT_PENDING_ON n), rest := ftNs s } ∧
    brnFrame n [(BRN_STAT_STATE n).addr] s (discharged s n) := by
  obtain ⟨hstate, hrcnt, hkeep, hbrn, hframe⟩ := offBrn_spec (s.setBrn n { s.brn n with reon := flag s (BRN_STAT_PENDING_ON n) }) n
  refine ⟨hstate, hrcnt, fun f hs hr => (hkeep f hs hr).trans (rd_setBrn _ _ _ _), ?_,
    brnFrame_trans (brnFrame_setBrn (brnFrame_refl _ _ _)) hframe⟩
  rw [discharged, hbrn, State.brn_setBrn_self]
  rfl

/-- What every end of DISCHARGE shows: OFF, no retries counted, the enable as it was, at rest from now on. -/
structure DischargeShown (n : Nat) (s t : State) : Prop where
  state : rd t (BRN_STAT_STATE n) = 0
  rcnt : rd t (BRN_STAT_RCNT n) = 0
  enable : rd t (BRN_STAT_E n) = rd s (BRN_STAT_E n)
  rest : (t.brn n).rest = ftNs s
  frame : brnFrame n [(BRN_STAT_STATE n).addr] s t

/-- Without its enable the branch forgets a start as its DISCHARGE ends (R283). -/
theorem dischargeEnd_disabled {s : State} {n : Nat} (he : rd s (BRN_STAT_E n) = 0) : DischargeShown n s (dischargeEnd s n) ∧
    rd (dischargeEnd s n) (BRN_STAT_PENDING_ON n) = 0 ∧ rd (dischargeEnd s n) (BRN_STAT_REARM n) = 0 ∧
    ((dischargeEnd s n).brn n).reon = false := by
  obtain ⟨hstate, hrcnt, hkeep, hbrn, hframe⟩ := discharged_spec s n
  have heq : dischargeEnd s n = (brnWrs (discharged s n) n [(BRN_STAT_REARM 0, 0), (BRN_STAT_PENDING_ON 0, 0)]).setBrn n
      { (discharged s n).brn n with reon := false } := by
    rw [dischargeEnd_eq, brnOffSettle_disabled hstate (by rw [hkeep _ rfl rfl, he])]
    rfl
  have hrd : ∀ f, rd (dischargeEnd s n) f = rd (brnWrs (discharged s n) n [(BRN_STAT_REARM 0, 0), (BRN_STAT_PENDING_ON 0, 0)]) f :=
    fun f => by rw [heq, rd_setBrn]
  refine ⟨{ state := (hrd _).trans ((rd_brnWrs_misses _ BRN_STAT_STATE rfl rfl rfl).trans hstate)
            rcnt := (hrd _).trans ((rd_brnWrs_misses _ BRN_STAT_RCNT rfl rfl rfl).trans hrcnt)
            enable := (hrd _).trans ((rd_brnWrs_misses _ BRN_STAT_E rfl rfl rfl).trans (hkeep _ rfl rfl))
            rest := by rw [heq, State.brn_setBrn_self, hbrn]
            frame := by
              rw [heq]
              exact brnFrame_setBrn (brnFrame_trans hframe (brnFrame_of_regsOnly (regsOnly_brnWrs _ n [(BRN_STAT_STATE 0).addr] rfl))) },
    (hrd _).trans (rd_brnWrs _ BRN_STAT_PENDING_ON rfl rfl rfl rfl), (hrd _).trans (rd_brnWrs _ BRN_STAT_REARM rfl rfl rfl rfl),
    by rw [heq, State.brn_setBrn_self]⟩

/-- With its enable and a start pending, or REARM set, the branch rests in OFF as its DISCHARGE ends (R283). -/
theorem dischargeEnd_enabled {s : State} {n : Nat} (he : rd s (BRN_STAT_E n) = 1)
    (hw : rd s (BRN_STAT_PENDING_ON n) = 1 ∨ rd s (BRN_STAT_REARM n) = 1) : DischargeShown n s (dischargeEnd s n) ∧
    rd (dischargeEnd s n) (BRN_STAT_PENDING_ON n) = rd s (BRN_STAT_PENDING_ON n) ∧
    ((dischargeEnd s n).brn n).reon = flag s (BRN_STAT_PENDING_ON n) := by
  obtain ⟨hstate, hrcnt, hkeep, hbrn, hframe⟩ := discharged_spec s n
  have hE : rd (discharged s n) (BRN_STAT_E n) = 1 := (hkeep _ rfl rfl).trans he
  have heq : dischargeEnd s n = discharged s n := by
    rw [dischargeEnd_eq]
    rcases hw with hp | hr
    · exact brnOffSettle_reon hstate hE (by rw [hbrn]; exact flag_true hp)
    · exact brnOffSettle_rearm hstate hE ((hkeep _ rfl rfl).trans hr)
  rw [heq]
  exact ⟨⟨hstate, hrcnt, hkeep _ rfl rfl, by rw [hbrn], hframe⟩, hkeep _ rfl rfl, by rw [hbrn]⟩

section
variable {s : State} {n : Nat} (hn : n < 16)
include hn

theorem exec_dischargeComplete (h : rd s (BRN_STAT_STATE n) = 5) (rise : Bool) : exec (.dischargeComplete n rise) s =
    .next (dischargeEnd (if rise then brnWrs s n [(BRN_STAT_E 0, 1), (BRN_STAT_PENDING_ON 0, 1)] else s) n) := by
  change execDischargeComplete n rise s = _
  rw [execDischargeComplete, if_pos ⟨hn, h⟩]
  rfl

theorem exec_dischargeTimeout (h : rd s (BRN_STAT_STATE n) = 5) :
    exec (.dischargeTimeout n) s = .next (dischargeEnd (brnWrs s n [(BRN_EVT_DIS_TMO 0, 1)]) n) := by
  change execDischargeTimeout n s = _
  rw [execDischargeTimeout, if_pos ⟨hn, h⟩]
  rfl

/-! ## Into INSERT (R283, R289) -/

theorem exec_tReonExpiry {u : State} (hu : u = s.setBrn n { s.brn n with reon := false }) (h : rd s (BRN_STAT_STATE n) = 0)
    (hr : (s.brn n).reon = true) : exec (.tReonExpiry n) s =
      .next (if rd s (BRN_STAT_PENDING_ON n) = 1 ∧ rd s (BRN_STAT_E n) = 1 then brnInsert u n else brnOffSettle u n) := by
  change execTReonExpiry n s = _
  rw [execTReonExpiry, if_pos ⟨hn, h, hr⟩, hu]
  simp only [flag_iff s (f := BRN_STAT_PENDING_ON n) rfl, flag_iff s (f := BRN_STAT_E n) rfl]

theorem exec_retryWaitExpiry (h : rd s (BRN_STAT_STATE n) = 6)
    (ht : (s.brn n).cfg.prot = true → (s.brn n).tj < (s.brn n).cfg.tOt * 65536 - 20 * 65536) :
    exec (.retryWaitExpiry n) s = .next (brnInsert s n) := by
  change execRetryWaitExpiry n s = _
  rw [execRetryWaitExpiry, if_pos ⟨hn, h, ht⟩]

end

/-- The junction estimate of a branch that enters INSERT is shown (R289). -/
theorem rd_brnInsert_tj (s : State) (n : Nat) :
    rd (brnInsert s n) (BRN_TH_TJ_T_J n) = wrapTo (BRN_TH_TJ_T_J n).w ((insertedBrn (s.brn n)).tj / 1024) := by
  rw [brnInsert_eq, rd_setBrn, rd_wrI _ _ rfl]

/-- Settles O45: the ways into DISCHARGE by the commands' equations and `softTrip_spec`, its end by `dischargeEnd_disabled` and
`dischargeEnd_enabled`, INSERT by `brnInsert_spec`. -/
theorem branchEndsByDischarge : Obligations.BranchEndsByDischarge := by
  unfold Obligations.BranchEndsByDischarge
  refine fun n s hn => ⟨⟨fun ok h => exec_busWindowChange_flag hn h, fun h => ?_⟩, fun h => ?_,
    fun h => ⟨fun fall bus => exec_fastTrip_soft hn h fall bus, fun fast fall bus => exec_faultTimerExpiry_soft hn h fast fall bus⟩,
    fun ev hev => ?_, fun rise h hw => ?_, fun h he => ?_, fun u hu h hr => exec_tReonExpiry hn hu h hr,
    fun h ht => exec_retryWaitExpiry hn h ht, ?_⟩
  · exact ⟨_, exec_busWindowChange_leaves hn h, rd_brnWrs s BRN_STAT_STATE rfl rfl rfl rfl, rd_brnWrs s BRN_STAT_BUS_OK rfl rfl rfl rfl,
      rd_brnWrs s BRN_STAT_PG rfl rfl rfl rfl, rd_brnWrs s BRN_EVT_BUS_FLT rfl rfl rfl rfl,
      rd_brnWrs s BRN_STAT_PENDING_ON rfl rfl rfl (Nat.mod_eq_of_lt (rd_lt s (BRN_STAT_E n))),
      regsOnly_brnWrs s n [(BRN_STAT_STATE 0).addr, (BRN_EVT_BUS_FLT 0).addr] rfl⟩
  · exact ⟨_, exec_softOffEnd hn h, rd_wr_same _ _ rfl, rd_wr_apart _ _ rfl rfl, regsOnly_wr s (BRN_STAT_STATE n) 5⟩
  · rcases hev with rfl | rfl
    · exact softTrip_spec (.inl rfl) s n
    · exact softTrip_spec (.inr (.inr (.inl rfl))) s n
  · refine ⟨_, exec_dischargeComplete hn h rise, ?_⟩
    cases rise
    · obtain he | he := rd_bit s (f := BRN_STAT_E n) rfl
      · obtain ⟨⟨hstate, hrcnt, henable, hrest, hframe⟩, hpend, hrearm, hreon⟩ := dischargeEnd_disabled he
        exact ⟨hstate, hrcnt, henable, nofun, fun _ _ => ⟨hpend, hrearm, hreon⟩, fun _ he' => absurd (he.symm.trans he') (by decide),
          hrest, hframe⟩
      · obtain ⟨⟨hstate, hrcnt, henable, hrest, hframe⟩, hpend, hreon⟩ :=
          dischargeEnd_enabled he ((hw.resolve_left nofun).resolve_left (by omega))
        exact ⟨hstate, hrcnt, henable, nofun, fun _ he' => absurd (he'.symm.trans he) (by decide),
          fun _ _ hp => ⟨hpend.trans hp, hreon.trans (flag_true hp)⟩, hrest, hframe⟩
    · have hE : rd (brnWrs s n [(BRN_STAT_E 0, 1), (BRN_STAT_PENDING_ON 0, 1)]) (BRN_STAT_E n) = 1 := rd_brnWrs s BRN_STAT_E rfl rfl rfl rfl
      have hP : rd (brnWrs s n [(BRN_STAT_E 0, 1), (BRN_STAT_PENDING_ON 0, 1)]) (BRN_STAT_PENDING_ON n) = 1 :=
        rd_brnWrs s BRN_STAT_PENDING_ON rfl rfl rfl rfl
      have hF : brnFrame n [(BRN_STAT_STATE n).addr] s (brnWrs s n [(BRN_STAT_E 0, 1), (BRN_STAT_PENDING_ON 0, 1)]) :=
        brnFrame_of_regsOnly (regsOnly_brnWrs s n [(BRN_STAT_STATE 0).addr] rfl)
      obtain ⟨⟨hstate, hrcnt, henable, hrest, hframe⟩, hpend, hreon⟩ := dischargeEnd_enabled hE (.inl hP)
      exact ⟨hstate, hrcnt, henable.trans hE, fun _ => ⟨hpend.trans hP, hreon.trans (flag_true hP)⟩, nofun, nofun,
        hrest.trans (ftNs_of_brnFrame hF), brnFrame_trans hF hframe⟩
  · have hE : rd (brnWrs s n [(BRN_EVT_DIS_TMO 0, 1)]) (BRN_STAT_E n) = 0 := (rd_brnWrs_misses s BRN_STAT_E rfl rfl rfl).trans he
    have hF : brnFrame n [(BRN_STAT_STATE n).addr, (BRN_EVT_DIS_TMO n).addr] s (brnWrs s n [(BRN_EVT_DIS_TMO 0, 1)]) :=
      brnFrame_of_regsOnly (regsOnly_brnWrs s n [(BRN_STAT_STATE 0).addr, (BRN_EVT_DIS_TMO 0).addr] rfl)
    obtain ⟨⟨hstate, hrcnt, -, hrest, hframe⟩, -, hrearm, -⟩ := dischargeEnd_disabled hE
    exact ⟨_, exec_dischargeTimeout hn h, hstate, hrcnt,
      (rd_of_brnFrame [(BRN_STAT_STATE 0).addr] hframe BRN_EVT_DIS_TMO rfl rfl).trans (rd_brnWrs s BRN_EVT_DIS_TMO rfl rfl rfl rfl),
      hrearm, hrest.trans (ftNs_of_brnFrame hF), brnFrame_trans hF (brnFrame_mono hframe (by simp))⟩
  · obtain ⟨hstate, hpend, hkeep, hbrn, hframe⟩ := brnInsert_spec s n
    exact ⟨_, rfl, hstate, hpend, hkeep _ rfl rfl rfl, by rw [hbrn]; rfl, by rw [hbrn]; rfl, by rw [rd_brnInsert_tj, hbrn], hframe⟩

end Sys2Proof.Machine

/-! SUPPORT. Obligation O47: the conversions of a branch, its energy, limit and fault timer. -/

namespace Sys2Proof.Machine

/-! ## Measured values and energy (R281, R293) -/

/-- The energy count and its fraction after 50 µs at V_OUT and I, given as codes (R293). -/
def energyAfter (s : State) (n vOut : Nat) (ci : Int) : Int :=
  rdI s (BRN_ENERGY_UJ n) * 65536 + (s.brn n).eFrac + roundDiv (vOut * ci * 437500000) (32768 * (s.brn n).cfg.rShunt)

/-- A branch whose conversions have been taken: the measured values and the energy. -/
def measured (s : State) (n vBus vOut : Nat) (ci : Int) : State :=
  (brnWrs s n [(BRN_MEAS_V_V_BUS 0, vBus * 35000 / 65536), (BRN_MEAS_V_V_OUT 0, vOut * 35000 / 65536),
    (BRN_MEAS_I_I 0, wrapTo 32 (roundDiv (ci * 125000000) (32768 * (s.brn n).cfg.rShunt))),
    (BRN_MEAS_P_P 0, wrapTo 32 (roundDiv (vOut * 70000 * ci * 125000) (65536 * 32768 * (s.brn n).cfg.rShunt))),
    (BRN_ENERGY_UJ 0, wrapTo 64 (energyAfter s n vOut ci / 65536))]).setBrn n
      { s.brn n with eFrac := (energyAfter s n vOut ci % 65536).toNat }

theorem rdI_congr {s t : State} {f : Fld} (h : rd t f = rd s f) : rdI t f = rdI s f := by rw [rdI, h, rdI]

theorem measured_eq (s : State) (n vBus vOut : Nat) (ci : Int) : energyAdd
    (wrI (wrI (wrs s [(BRN_MEAS_V_V_BUS n, vBus * 35000 / 65536), (BRN_MEAS_V_V_OUT n, vOut * 35000 / 65536)])
      (BRN_MEAS_I_I n) (roundDiv (ci * 125000000) (32768 * (s.brn n).cfg.rShunt)))
      (BRN_MEAS_P_P n) (roundDiv (vOut * 70000 * ci * 125000) (65536 * 32768 * (s.brn n).cfg.rShunt))) n vOut ci =
    measured s n vBus vOut ci := by
  obtain ⟨u, hu⟩ : ∃ u, u = brnWrs s n [(BRN_MEAS_V_V_BUS 0, vBus * 35000 / 65536), (BRN_MEAS_V_V_OUT 0, vOut * 35000 / 65536),
    (BRN_MEAS_I_I 0, wrapTo 32 (roundDiv (ci * 125000000) (32768 * (s.brn n).cfg.rShunt))),
    (BRN_MEAS_P_P 0, wrapTo 32 (roundDiv (vOut * 70000 * ci * 125000) (65536 * 32768 * (s.brn n).cfg.rShunt)))] := ⟨_, rfl⟩
  have hwr : wrI (wrI (wrs s [(BRN_MEAS_V_V_BUS n, vBus * 35000 / 65536), (BRN_MEAS_V_V_OUT n, vOut * 35000 / 65536)])
      (BRN_MEAS_I_I n) (roundDiv (ci * 125000000) (32768 * (s.brn n).cfg.rShunt)))
      (BRN_MEAS_P_P n) (roundDiv (vOut * 70000 * ci * 125000) (65536 * 32768 * (s.brn n).cfg.rShunt)) = u := by
    rw [hu]
    rfl
  have he : rdI u (BRN_ENERGY_UJ n) = rdI s (BRN_ENERGY_UJ n) := rdI_congr (hu ▸ rd_brnWrs_misses s BRN_ENERGY_UJ rfl rfl rfl)
  have hb : u.brn n = s.brn n := by rw [hu, brn_brnWrs]
  rw [hwr, energyAdd, he, hb, hu]
  rfl

/-- A voltage code in units of 2 mV fits its field. -/
theorem code_mod {v : Nat} (h : v < 65536) : v * 35000 / 65536 % 2 ^ 16 = v * 70000 / 65536 / 2 := by
  rw [Nat.div_div_eq_div_mul, Nat.mod_eq_of_lt (by omega)]
  omega

theorem measured_spec (s : State) {n vBus vOut : Nat} (ci : Int) (hBus : vBus < 65536) (hOut : vOut < 65536) :
    rd (measured s n vBus vOut ci) (BRN_MEAS_V_V_BUS n) = vBus * 70000 / 65536 / 2 ∧
    rd (measured s n vBus vOut ci) (BRN_MEAS_V_V_OUT n) = vOut * 70000 / 65536 / 2 ∧
    rd (measured s n vBus vOut ci) (BRN_MEAS_I_I n) = wrapTo 32 (roundDiv (ci * 125000000) (32768 * (s.brn n).cfg.rShunt)) ∧
    rd (measured s n vBus vOut ci) (BRN_MEAS_P_P n) =
      wrapTo 32 (roundDiv (vOut * 70000 * ci * 125000) (65536 * 32768 * (s.brn n).cfg.rShunt)) ∧
    rd (measured s n vBus vOut ci) (BRN_ENERGY_UJ n) = wrapTo 64 (energyAfter s n vOut ci / 65536) ∧
    (measured s n vBus vOut ci).brn n = { s.brn n with eFrac := (energyAfter s n vOut ci % 65536).toNat } ∧
    brnFrame n [(BRN_MEAS_V_V_BUS n).addr, (BRN_MEAS_I_I n).addr, (BRN_MEAS_P_P n).addr, (BRN_ENERGY_UJ n).addr] s
      (measured s n vBus vOut ci) :=
  ⟨(rd_setBrn _ _ _ _).trans (rd_brnWrs s BRN_MEAS_V_V_BUS rfl rfl rfl (code_mod hBus)),
    (rd_setBrn _ _ _ _).trans (rd_brnWrs s BRN_MEAS_V_V_OUT rfl rfl rfl (code_mod hOut)),
    (rd_setBrn _ _ _ _).trans (rd_brnWrs s BRN_MEAS_I_I rfl rfl rfl (wrapTo_mod 32 _)),
    (rd_setBrn _ _ _ _).trans (rd_brnWrs s BRN_MEAS_P_P rfl rfl rfl (wrapTo_mod 32 _)),
    (rd_setBrn _ _ _ _).trans (rd_brnWrs s BRN_ENERGY_UJ rfl rfl rfl (wrapTo_mod 64 _)), State.brn_setBrn_self _ _ _,
    brnFrame_setBrn (brnFrame_of_regsOnly
      (regsOnly_brnWrs s n [(BRN_MEAS_V_V_BUS 0).addr, (BRN_MEAS_I_I 0).addr, (BRN_MEAS_P_P 0).addr, (BRN_ENERGY_UJ 0).addr] rfl))⟩

/-! ## The limit comparator and PG (R287, R288) -/

/-- A branch after the runs of its limit comparator, whose level was d before them. -/
def compared (s : State) (n : Nat) (d : Bool) (runs : List (Bool × Nat)) : State :=
  wrB (if runs.any (·.1) then limitOn s n else s) (BRN_STAT_LIMIT n) (lastRun d runs)

theorem compared_spec (s : State) (n : Nat) (d : Bool) (runs : List (Bool × Nat)) :
    rd (compared s n d runs) (BRN_STAT_LIMIT n) = natOf (lastRun d runs) ∧
    rd (compared s n d runs) (BRN_STAT_PG n) = (if runs.any (·.1) = true then 0 else rd s (BRN_STAT_PG n)) ∧
    rd (compared s n d runs) (BRN_EVT_PG_LOST n) =
      (if rd s (BRN_STAT_PG n) = 1 ∧ runs.any (·.1) = true then 1 else rd s (BRN_EVT_PG_LOST n)) ∧
    rd (compared s n d runs) (BRN_STAT_STATE n) = rd s (BRN_STAT_STATE n) ∧
    regsOnly [(BRN_STAT_LIMIT n).addr, (BRN_EVT_PG_LOST n).addr] s (compared s n d runs) := by
  refine ⟨rd_wrB _ _ rfl rfl, ?_⟩
  have hwr : ∀ f : Fld, (BRN_STAT_LIMIT n).apart f = true →
      rd (compared s n d runs) f = rd (if runs.any (·.1) then limitOn s n else s) f := fun f hf => rd_wr_apart _ _ rfl hf
  have hregs : ∀ t, regsOnly [(BRN_STAT_LIMIT n).addr, (BRN_EVT_PG_LOST n).addr] s t →
      regsOnly [(BRN_STAT_LIMIT n).addr, (BRN_EVT_PG_LOST n).addr] s (wrB t (BRN_STAT_LIMIT n) (lastRun d runs)) := fun t ht =>
    regsOnly_trans ht (regsOnly_mono (regsOnly_wr t (BRN_STAT_LIMIT n) _) (by simp))
  rw [hwr _ rfl, hwr _ rfl, hwr _ rfl, compared]
  cases h : runs.any (·.1)
  · exact ⟨rfl, (if_neg (by simp)).symm, rfl, hregs s (regsOnly_refl _ s)⟩
  · obtain ⟨-, hpg, hlost, hstate, hlimit⟩ := limitOn_spec s n
    exact ⟨hpg, by simpa using hlost, hstate, hregs _ hlimit⟩

/-- V_OUT below V_BUS - V_PGD takes PG away, and in ON a PG that stood is noted as lost (R288). -/
theorem pgdDrop_spec (s : State) (n vBus vOut : Nat) {drop : Bool}
    (hd : drop = decide ((vOut : Int) * 70000 < vBus * 70000 - (s.brn n).cfg.vPgd * 10 * 65536)) :
    rd (pgdDrop s n vBus vOut) (BRN_STAT_LIMIT n) = rd s (BRN_STAT_LIMIT n) ∧
    rd (pgdDrop s n vBus vOut) (BRN_STAT_PG n) = (if drop = true then 0 else rd s (BRN_STAT_PG n)) ∧
    rd (pgdDrop s n vBus vOut) (BRN_EVT_PG_LOST n) =
      (if rd s (BRN_STAT_PG n) = 1 ∧ drop = true ∧ rd s (BRN_STAT_STATE n) = 3 then 1 else rd s (BRN_EVT_PG_LOST n)) ∧
    rd (pgdDrop s n vBus vOut) (BRN_STAT_STATE n) = rd s (BRN_STAT_STATE n) ∧
    regsOnly [(BRN_STAT_LIMIT n).addr, (BRN_EVT_PG_LOST n).addr] s (pgdDrop s n vBus vOut) := by
  by_cases hdrop : rd s (BRN_STAT_PG n) = 1 ∧ drop = true
  · obtain ⟨hpg, rfl⟩ := hdrop
    have heq : pgdDrop s n vBus vOut =
        if rd s (BRN_STAT_STATE n) = 3 then brnWrs s n [(BRN_STAT_PG 0, 0), (BRN_EVT_PG_LOST 0, 1)] else brnWrs s n [(BRN_STAT_PG 0, 0)] := by
      rw [pgdDrop, if_pos ⟨flag_true hpg, of_decide_eq_true hd.symm⟩]
      rfl
    rw [heq, if_pos rfl]
    by_cases hon : rd s (BRN_STAT_STATE n) = 3
    · rw [if_pos hon, if_pos ⟨hpg, rfl, hon⟩]
      exact ⟨rd_brnWrs_misses s BRN_STAT_LIMIT rfl rfl rfl, rd_brnWrs s BRN_STAT_PG rfl rfl rfl rfl,
        rd_brnWrs s BRN_EVT_PG_LOST rfl rfl rfl rfl, rd_brnWrs_misses s BRN_STAT_STATE rfl rfl rfl,
        regsOnly_brnWrs s n [(BRN_STAT_LIMIT 0).addr, (BRN_EVT_PG_LOST 0).addr] rfl⟩
    · rw [if_neg hon, if_neg (fun h => hon h.2.2)]
      exact ⟨rd_brnWrs_misses s BRN_STAT_LIMIT rfl rfl rfl, rd_brnWrs s BRN_STAT_PG rfl rfl rfl rfl,
        rd_brnWrs_misses s BRN_EVT_PG_LOST rfl rfl rfl, rd_brnWrs_misses s BRN_STAT_STATE rfl rfl rfl,
        regsOnly_brnWrs s n [(BRN_STAT_LIMIT 0).addr, (BRN_EVT_PG_LOST 0).addr] rfl⟩
  · have heq : pgdDrop s n vBus vOut = s := by
      rw [pgdDrop, if_neg]
      rintro ⟨hpg, hlt⟩
      exact hdrop ⟨(flag_iff s rfl).1 hpg, hd.trans (decide_eq_true hlt)⟩
    rw [heq]
    refine ⟨rfl, ?_, (if_neg fun h => hdrop ⟨h.1, h.2.1⟩).symm, rfl, regsOnly_refl _ s⟩
    split
    · next h => exact (rd_bit s rfl).resolve_right fun hpg => hdrop ⟨hpg, h⟩
    · rfl

/-- A branch after its comparator's runs and the check of V_OUT against V_PGD. -/
def judged (s : State) (n vBus vOut : Nat) (d : Bool) (runs : List (Bool × Nat)) : State := pgdDrop (compared s n d runs) n vBus vOut

theorem judged_spec (s : State) (n vBus vOut : Nat) (d : Bool) (runs : List (Bool × Nat)) {drop : Bool}
    (hd : drop = decide ((vOut : Int) * 70000 < vBus * 70000 - (s.brn n).cfg.vPgd * 10 * 65536)) :
    rd (judged s n vBus vOut d runs) (BRN_STAT_LIMIT n) = natOf (lastRun d runs) ∧
    rd (judged s n vBus vOut d runs) (BRN_STAT_PG n) = (if runs.any (·.1) = true ∨ drop = true then 0 else rd s (BRN_STAT_PG n)) ∧
    rd (judged s n vBus vOut d runs) (BRN_EVT_PG_LOST n) = (if rd s (BRN_STAT_PG n) = 1 ∧
      (runs.any (·.1) = true ∨ drop = true ∧ rd s (BRN_STAT_STATE n) = 3) then 1 else rd s (BRN_EVT_PG_LOST n)) ∧
    rd (judged s n vBus vOut d runs) (BRN_STAT_STATE n) = rd s (BRN_STAT_STATE n) ∧
    regsOnly [(BRN_STAT_LIMIT n).addr, (BRN_EVT_PG_LOST n).addr] s (judged s n vBus vOut d runs) := by
  obtain ⟨hlimit, hpg, hlost, hstate, hregs⟩ := compared_spec s n d runs
  have hb : (compared s n d runs).brn n = s.brn n := State.brn_congr n (hregs.1 .brns (by decide))
  obtain ⟨hlimit', hpg', hlost', hstate', hregs'⟩ := pgdDrop_spec (compared s n d runs) n vBus vOut (drop := drop) (by rw [hb, hd])
  refine ⟨hlimit'.trans hlimit, hpg'.trans ?_, hlost'.trans ?_, hstate'.trans hstate, regsOnly_trans hregs hregs'⟩
  · rw [hpg]
    cases runs.any (·.1) <;> cases drop <;> rfl
  · rw [hlost, hpg, hstate]
    cases runs.any (·.1) <;> simp

/-! ## The limit and the fault timer (R285, R286) -/

/-- The fault timer of a branch in ON after the runs of its comparator. -/
def faultAfter (b : Brn) (runs : List (Bool × Nat)) : Nat := min (faultRuns b.fault runs) (b.cfg.tFlt * 80000)

/-- A branch in ON whose fault timer has run; another stays as it was. -/
def timed (s : State) (n : Nat) (on : Prop) [Decidable on] (runs : List (Bool × Nat)) : State :=
  if on then (wr s (BRN_FTIMER_ACC n) (faultAfter (s.brn n) runs / 80000)).setBrn n { s.brn n with fault := faultAfter (s.brn n) runs } else s

theorem timed_spec (s : State) (n : Nat) (on : Prop) [Decidable on] (runs : List (Bool × Nat)) :
    (timed s n on runs).brn n = { s.brn n with fault := if on then faultAfter (s.brn n) runs else (s.brn n).fault } ∧
    rd (timed s n on runs) (BRN_FTIMER_ACC n) = (if on then faultAfter (s.brn n) runs / 80000 % 2 ^ (BRN_FTIMER_ACC 0).w
      else rd s (BRN_FTIMER_ACC n)) ∧ brnFrame n [(BRN_FTIMER_ACC n).addr] s (timed s n on runs) := by
  by_cases hon : on
  · simp only [timed, if_pos hon]
    exact ⟨State.brn_setBrn_self _ _ _, (rd_setBrn _ _ _ _).trans (rd_wr_same s _ rfl),
      brnFrame_setBrn (brnFrame_of_regsOnly (regsOnly_wr s (BRN_FTIMER_ACC n) _))⟩
  · simp only [timed, if_neg hon]
    exact ⟨trivial, trivial, brnFrame_refl _ _ _⟩

/-- A branch after its comparator's runs have been judged, with its limit set anew and its fault timer run; st is the state it is in. -/
def regulated (s : State) (n vBus vOut : Nat) (d : Bool) (st : Nat) (runs : List (Bool × Nat)) : State :=
  timed (brnLimit (judged s n vBus vOut d runs) n (vBus * 70000 / 65536) (vOut * 70000 / 65536)) n (st = 3) runs

theorem regulated_spec (s : State) (n vBus vOut : Nat) (d : Bool) (runs : List (Bool × Nat)) {st : Nat} {drop : Bool}
    (hst : rd s (BRN_STAT_STATE n) = st)
    (hd : drop = decide ((vOut : Int) * 70000 < vBus * 70000 - (s.brn n).cfg.vPgd * 10 * 65536)) :
    rd (regulated s n vBus vOut d st runs) (BRN_STAT_LIMIT n) = natOf (lastRun d runs) ∧
    rd (regulated s n vBus vOut d st runs) (BRN_STAT_PG n) = (if runs.any (·.1) = true ∨ drop = true then 0 else rd s (BRN_STAT_PG n)) ∧
    rd (regulated s n vBus vOut d st runs) (BRN_EVT_PG_LOST n) = (if rd s (BRN_STAT_PG n) = 1 ∧
      (runs.any (·.1) = true ∨ drop = true ∧ st = 3) then 1 else rd s (BRN_EVT_PG_LOST n)) ∧
    rd (regulated s n vBus vOut d st runs) (BRN_STAT_STATE n) = st ∧
    (regulated s n vBus vOut d st runs).brn n = { s.brn n with
      limit := if st = 2 then foldBack (s.brn n).cfg (vBus * 70000 / 65536) (vOut * 70000 / 65536) else limitSense (s.brn n).cfg
      fault := if st = 3 then faultAfter (s.brn n) runs else (s.brn n).fault } ∧
    rd (regulated s n vBus vOut d st runs) (BRN_FTIMER_ACC n) = (if st = 3
      then ((regulated s n vBus vOut d st runs).brn n).fault / 80000 % 2 ^ (BRN_FTIMER_ACC 0).w else rd s (BRN_FTIMER_ACC n)) ∧
    brnFrame n [(BRN_STAT_LIMIT n).addr, (BRN_EVT_PG_LOST n).addr, (BRN_FTIMER_ACC n).addr] s (regulated s n vBus vOut d st runs) := by
  obtain ⟨hlimit, hpg, hlost, hstate, hsv⟩ := judged_spec s n vBus vOut d runs hd
  obtain ⟨hbt, hacc, hwt⟩ :=
    timed_spec (brnLimit (judged s n vBus vOut d runs) n (vBus * 70000 / 65536) (vOut * 70000 / 65536)) n (st = 3) runs
  rw [regulated]
  generalize timed (brnLimit (judged s n vBus vOut d runs) n (vBus * 70000 / 65536) (vOut * 70000 / 65536)) n (st = 3) runs = t at *
  generalize judged s n vBus vOut d runs = v at *
  rw [hst] at hlost hstate
  have hbv : v.brn n = s.brn n := State.brn_congr n (hsv.1 .brns (by decide))
  rw [brnLimit_eq, State.brn_setBrn_self, hbv, hstate] at hbt hacc
  have hvt : brnFrame n [(BRN_FTIMER_ACC n).addr] v t := brnFrame_trans (brnFrame_setBrn (brnFrame_refl _ _ _)) hwt
  have hkeep : ∀ f : Nat → Fld, f n = (f 0).up (0x200 * n) → [(BRN_FTIMER_ACC 0).addr].contains (f 0).addr = false →
      rd t (f n) = rd v (f n) := rd_of_brnFrame _ hvt
  have hftimer : rd v (BRN_FTIMER_ACC n) = rd s (BRN_FTIMER_ACC n) :=
    rd_of_brnFrame [(BRN_STAT_LIMIT 0).addr, (BRN_EVT_PG_LOST 0).addr] (brnFrame_of_regsOnly hsv) BRN_FTIMER_ACC rfl rfl
  refine ⟨(hkeep BRN_STAT_LIMIT rfl rfl).trans hlimit, (hkeep BRN_STAT_PG rfl rfl).trans hpg, (hkeep BRN_EVT_PG_LOST rfl rfl).trans hlost,
    (hkeep BRN_STAT_STATE rfl rfl).trans hstate, hbt, ?_,
    brnFrame_trans (brnFrame_mono (brnFrame_of_regsOnly hsv) (by simp)) (brnFrame_mono hvt (by simp))⟩
  rw [hacc, hbt]
  split
  · rfl
  · exact hftimer

/-! ## Conversions and the thermal model (R289, R293) -/

theorem exec_branchMeasurement {s : State} {n vBus vOut i : Nat} (hn : n < 16) {runs : List (Bool × Nat)} {ci : Int}
    (hci : ci = (i : Int) - 32768 - rdI s (BRN_ZCAL_OFFSET n)) : exec (.branchMeasurement n vBus vOut i runs) s =
      .next (regulated (measured s n vBus vOut ci) n vBus vOut (flag s (BRN_STAT_LIMIT n)) (rd s (BRN_STAT_STATE n)) runs) := by
  change execBranchMeasurement n vBus vOut i runs s = _
  rw [execBranchMeasurement, if_neg (by omega), ← measured_eq, hci]
  rfl

theorem thermalUpdate_off {s : State} {n : Nat} (hp : (s.brn n).cfg.prot = false) (vBus vOut i ta : Int) :
    exec (.thermalUpdate n vBus vOut i ta) s = .next s := by
  change execThermalUpdate n vBus vOut i ta s = _
  rw [execThermalUpdate, if_pos (.inr (by rw [hp]; rfl))]

/-- An update of the thermal model that trips nothing (R289). -/
theorem heated_spec (s : State) (n : Nat) (tj ta : Int) : (heated s n tj ta).brn n = { s.brn n with tj := tj, ta := ta } ∧
    rd (heated s n tj ta) (BRN_TH_TJ_T_J n) = wrapTo (BRN_TH_TJ_T_J n).w (tj / 1024) ∧
    brnFrame n [(BRN_TH_TJ_T_J n).addr] s (heated s n tj ta) :=
  ⟨State.brn_setBrn_self _ _ _, (rd_setBrn _ _ _ _).trans (rd_wrI s _ rfl),
    brnFrame_setBrn (brnFrame_of_regsOnly (regsOnly_wr s (BRN_TH_TJ_T_J n) _))⟩

/-- Settles O47: a conversion by its two stages, `measured_spec` and `regulated_spec`; the thermal model by
`exec_thermalUpdate`. -/
theorem measurementsOfABranch : Obligations.MeasurementsOfABranch := by
  unfold Obligations.MeasurementsOfABranch
  refine ⟨fun f c l => ⟨rfl, rfl, rfl⟩, fun n s hn => ⟨fun vBus vOut i runs ci drop c e hBus hOut hci hc hdrop he => ?_,
    fun vBus vOut i ta => ⟨fun hp => thermalUpdate_off hp vBus vOut i ta, fun tj hp htj hno => ?_⟩⟩⟩
  · subst hc
    obtain rfl : e = energyAfter s n vOut ci := he
    refine ⟨_, exec_branchMeasurement hn hci, ?_⟩
    obtain ⟨hvBus, hvOut, hI, hP, hE, hbu, hsu⟩ := measured_spec s (n := n) ci hBus hOut
    generalize measured s n vBus vOut ci = u at *
    have hold : ∀ f : Nat → Fld, f n = (f 0).up (0x200 * n) →
        [(BRN_MEAS_V_V_BUS 0).addr, (BRN_MEAS_I_I 0).addr, (BRN_MEAS_P_P 0).addr, (BRN_ENERGY_UJ 0).addr].contains (f 0).addr = false →
        rd u (f n) = rd s (f n) := rd_of_brnFrame _ hsu
    obtain ⟨hlimit, hpg, hlost, hstate, hbrn, hacc, hut⟩ := regulated_spec u n vBus vOut (flag s (BRN_STAT_LIMIT n)) runs
      (st := rd s (BRN_STAT_STATE n)) (drop := drop) (hold BRN_STAT_STATE rfl rfl) (by rw [hbu, hdrop])
    generalize regulated u n vBus vOut (flag s (BRN_STAT_LIMIT n)) (rd s (BRN_STAT_STATE n)) runs = t at *
    have hmeas : ∀ f : Nat → Fld, f n = (f 0).up (0x200 * n) →
        [(BRN_STAT_LIMIT 0).addr, (BRN_EVT_PG_LOST 0).addr, (BRN_FTIMER_ACC 0).addr].contains (f 0).addr = false →
        rd t (f n) = rd u (f n) := rd_of_brnFrame _ hut
    rw [hold BRN_STAT_PG rfl rfl] at hpg hlost
    rw [hold BRN_EVT_PG_LOST rfl rfl] at hlost
    rw [hold BRN_FTIMER_ACC rfl rfl] at hacc
    rw [hbu] at hbrn
    exact ⟨(hmeas BRN_MEAS_V_V_BUS rfl rfl).trans hvBus, (hmeas BRN_MEAS_V_V_OUT rfl rfl).trans hvOut, (hmeas BRN_MEAS_I_I rfl rfl).trans hI,
      (hmeas BRN_MEAS_P_P rfl rfl).trans hP, (hmeas BRN_ENERGY_UJ rfl rfl).trans hE, by rw [hbrn], hlimit, hpg, hlost, hstate,
      by rw [hbrn]; rfl, by rw [hbrn]; rfl, hacc, brnFrame_trans (brnFrame_mono hsu (by simp)) (brnFrame_mono hut (by simp))⟩
  · have hstay : ¬(rd s (BRN_STAT_STATE n) = 3 ∧ (((s.brn n).cfg.tOt * 65536 : Nat) : Int) ≤ tj) := by
      rintro ⟨hon, hot⟩
      rcases hno with h | h
      · exact h hon
      · omega
    obtain ⟨hbrn, hshown, hframe⟩ := heated_spec s n tj ta
    exact ⟨_, by rw [exec_thermalUpdate hn hp htj, if_neg hstay], by rw [hbrn], by rw [hbrn], hshown,
      rd_of_brnFrame [(BRN_TH_TJ_T_J 0).addr] hframe BRN_STAT_STATE rfl rfl, hframe⟩

end Sys2Proof.Machine
